-- ==== Sys2Proof/Word.lean ====
section
/-!
DEFINITION. The word types of the package (00 R3: bit 0 is the least significant bit) and the parties that send
commands. The block has no processor of its own in this model: a word is what a register, a descriptor or a tread holds.
-/
namespace Sys2Proof

/-- Eight bits: one byte of memory, of a flit or of a descriptor. -/
abbrev Byte := BitVec 8
/-- A half-word: a BF16 or FP16 pattern, a special-register part. -/
abbrev W16 := BitVec 16
/-- A register or tread word. -/
abbrev W32 := BitVec 32
/-- A 64-bit register, an address or a step number. -/
abbrev W64 := BitVec 64
/-- A vector register of a tread: 256 bits (04 R127). -/
abbrev V256 := BitVec 256

/-- A requester of registers and of fabric accesses: the physical function, virtual function `n` (which serves
partition `n`, 12 R421), the control core acting for partition `p`, or the newel firmware. -/
inductive Who where
  | pf
  | vf (n : Nat)
  | core (p : Nat)
  | firmware
  deriving DecidableEq, Repr, Inhabited

/-- The number under which a requester's latches are held (00 R10, 01 R39). -/
def Who.key : Who → Nat
  | .pf => 0
  | .firmware => 1
  | .vf n => 2 + 2 * n
  | .core p => 3 + 2 * p

end Sys2Proof
end

