-- ==== Sys2Proof/Machine/TreadWord.lean ====
section
/-!
DEFINITION. Which 32-bit words are instructions of a tread (04 R131 to R133, R135). Bits that a format gives no meaning for
an instruction and does not call reserved are free (log 12).
-/
namespace Sys2Proof.Machine

/-- OP of a word. -/
def wordOp (w : Nat) : Nat := bits w 26 6
/-- FN of a word in formats R, V, A and Y. -/
def wordFn (w : Nat) : Nat := bits w 0 6

/-- The special registers that are listed, and those that WRSR may write (04 R135). -/
def srListed (sr : Nat) : Bool := decide (sr ≤ 8)
def srWritable (sr : Nat) : Bool := sr == 5 || sr == 6 || sr == 8

/-- Format V words of treads (04 R132, R133, R136). -/
def legalV (w : Nat) : Bool :=
  let fn := wordFn w
  bits w 6 2 == 0 && decide (fn ≤ 0x15)
    && !(decide (0x0E ≤ fn) && decide (fn ≤ 0x14) && bit w 13)
    && !(fn == 0x15 && decide (2 < bits w 14 3))

/-- Format Y words. -/
def legalY (w : Nat) : Bool :=
  let fn := wordFn w
  bits w 6 2 == 0 && decide (fn ≤ 6) && !(fn == 3 && !srListed (bits w 8 8)) && !(fn == 4 && !srWritable (bits w 8 8))

/-- Whether a word is an instruction. -/
def legalWord (w : Nat) : Bool :=
  let op := wordOp w
  if op = 0x00 then decide (wordFn w ≤ 0x12) && bits w 6 5 == 0
  else if op = 0x06 then bits w 7 9 == 0 && bits w 5 2 != 3
  else if op ≤ 0x0E then true
  else if op ≤ 0x10 then bits w 21 2 == 0
  else if op ≤ 0x18 then true
  else if op ≤ 0x1A then bits w 0 14 == 0 && decide (bits w 21 5 + bits w 17 2 ≤ 31)
  else if op = 0x1B then bits w 0 14 == 0
  else if op ≤ 0x1D then bits w 24 2 == 0 && bits w 0 14 == 0 && decide (bits w 14 3 + bits w 17 2 ≤ 7)
  else if op = 0x20 then legalV w
  else if op = 0x21 then bits w 6 13 == 0 && decide (wordFn w ≤ 2)
  else if op = 0x3F then legalY w
  else false

end Sys2Proof.Machine
end

