-- ==== Sys2Proof/Machine/Tbl.lean ====
section
/-!
DEFINITION. Sparse tables: a list of key and value pairs with strictly rising keys and no entry equal to the value an
unlisted key reads as, so that equal tables are equal data. Every numbered unit of the package (a tread, a flight,
a register field, a byte of memory) is held in one.
-/
namespace Sys2Proof.Machine

/-- A table from numbers to `α`; what an unlisted key reads as is named at each use. -/
abbrev Tbl (α : Type) := List (Nat × α)

/-- The value at a key; `d` is what an unlisted key reads as. -/
def tget {α : Type} (d : α) : Tbl α → Nat → α
  | [], _ => d
  | (a, v) :: r, k => if a = k then v else tget d r k

/-- The table with every entry of key `k` taken out. -/
def tdel {α : Type} : Tbl α → Nat → Tbl α
  | [], _ => []
  | (a, v) :: r, k => if a = k then tdel r k else (a, v) :: tdel r k

/-- The table with the entry `(k, v)` put in its place (the key is not listed yet). -/
def tins {α : Type} : Tbl α → Nat → α → Tbl α
  | [], k, v => [(k, v)]
  | (a, w) :: r, k, v => if k < a then (k, v) :: (a, w) :: r else (a, w) :: tins r k v

/-- The table after key `k` is set to `v`: writing the default removes the entry. -/
def tset {α : Type} [DecidableEq α] (d : α) (t : Tbl α) (k : Nat) (v : α) : Tbl α :=
  if v = d then tdel t k else tins (tdel t k) k v

/-- The canonical form: keys strictly rising, no entry equal to the default. -/
def TblWf {α : Type} (d : α) (t : Tbl α) : Prop :=
  (t.map Prod.fst).Pairwise (· < ·) ∧ ∀ p ∈ t, p.2 ≠ d

/-- The canonical form as a Boolean. -/
def tblWf {α : Type} [DecidableEq α] (d : α) : Tbl α → Bool
  | [] => true
  | [(_, v)] => decide (v ≠ d)
  | (a, v) :: (b, w) :: r => decide (a < b) && decide (v ≠ d) && tblWf d ((b, w) :: r)

/-- The keys of a table whose value satisfies `p`. -/
def tkeys {α : Type} (p : α → Bool) (t : Tbl α) : List Nat :=
  (t.filter fun e => p e.2).map Prod.fst

/-- Every listed value changed by `f`; entries that become the default are removed. -/
def tmap {α : Type} [DecidableEq α] (d : α) (f : Nat → α → α) (t : Tbl α) : Tbl α :=
  t.foldl (fun m e => tset d m e.1 (f e.1 (tget d t e.1))) t

end Sys2Proof.Machine
end

