-- ==== Sys2Proof/Machine/Types.lean ====
section
/-!
DEFINITION. Plain data shared by the units: package state, event records, messages, channels, waits, and what a command
puts on the block's ports.
-/
namespace Sys2Proof

/-- PKG_STATE.STATE (01 R33). -/
inductive PkgState where
  | boot | ready | service | fault
  deriving DecidableEq, Repr, Inhabited

def PkgState.code : PkgState → Nat
  | .boot => 0
  | .ready => 1
  | .service => 2
  | .fault => 3

/-- A channel of a partition's image: a ROUTE entry by its index in the ROUTE section (03 R89), or the output of the
knot at an index of the KNOT section (03 R91). -/
inductive Chan where
  | route (p i : Nat)
  | knot (p i : Nat)
  deriving DecidableEq, Repr, Inhabited

/-- The number under which a channel's data is held. -/
def Chan.key : Chan → Nat
  | .route p i => (2 * p) * 2 ^ 32 + i
  | .knot p i => (2 * p + 1) * 2 ^ 32 + i

def Chan.part : Chan → Nat
  | .route p _ => p
  | .knot p _ => p

/-- What a tread in WAIT waits to do (04 R128, R138): the words it wants, or the words it holds back. -/
inductive WaitOp where
  | none
  | recv (q n reg : Nat)
  | vrecv (q n vr lane : Nat)
  | send (port reg n : Nat)
  | vsend (port vr lane n : Nat)
  deriving DecidableEq, Repr, Inhabited

/-- A write of the control register of the unit of that number. -/
structure CtrlWrite where
  unit : Nat
  value : W32
  deriving DecidableEq, Repr, Inhabited

/-- A read of partition `part`'s image slot, with the lines that fail in each copy (03 R108). -/
structure SlotRead where
  part : Nat
  bad : List (Nat × Nat)
  deriving DecidableEq, Repr, Inhabited

/-- An array of a flight (05 R165). -/
structure ArrayAt where
  gf : Nat
  arr : Nat
  deriving DecidableEq, Repr, Inhabited

/-- What the receiver found in a flit's codewords: whether it could not read the flit, how many symbols it corrected, and the
codewords that no correction mends (10 R357, R379). -/
structure Received where
  touched : Bool
  corr : Nat
  uncorr : List Nat
  deriving DecidableEq, Repr, Inhabited

/-- What a laser module says of itself: serial and vendor, and whether it is an ELSFP of eight lasers at 1,311 nm (10 R382,
R384). -/
structure LaserIdent where
  serial : List Byte
  vendor : List Byte
  elsfp : Bool
  deriving DecidableEq, Repr, Inhabited

/-- The end of a copy engine's oldest descriptor: the host's answer to its read, with its error code and data, and the lines that
fail (12 R434 to R436). -/
structure HceAnswer where
  engine : Nat
  answer : Option (Nat × List Byte)
  bad : List (Nat × Nat)
  deriving DecidableEq, Repr, Inhabited

/-- A write of an EVT_CFG register, and the number of virtual functions that the host had enabled before it (12 R421). -/
structure EvtWrite where
  value : W32
  numVfs : Nat
  deriving DecidableEq, Repr, Inhabited

/-- What the host end of a trained link settles: flit mode, and the number of virtual functions (12 R420, R421). -/
structure LinkMode where
  flit : Bool
  numVfs : Nat
  deriving DecidableEq, Repr, Inhabited

/-- The treads and flights that fail in a phase of the self-test (15 R524). -/
structure FailedUnits where
  treads : List Nat
  flights : List Nat
  deriving DecidableEq, Repr, Inhabited

/-- What a phase of the self-test measures: array elements that come out wrong, as flight, array, element and the bits wrong,
and the sensors' readings (15 R524, R525). -/
structure Measured where
  wrong : List (Nat × Nat × Nat × Nat)
  readings : List (Nat × Int)
  deriving DecidableEq, Repr, Inhabited

/-- A tree message of 13 R458, as its body carries it. -/
structure TreeMsg where
  job : Nat
  flags : Nat
  cause : Nat
  step : Nat
  a : Nat
  b : Nat
  deriving DecidableEq, Repr, Inhabited

/-- A message on a rope or die-link channel: its KIND and its body bytes (10 R372). -/
structure Msg where
  kind : Nat
  body : List Byte
  deriving DecidableEq, Repr, Inhabited

/-- An event record before it is framed (12 R440): its code, causal sequence number, the parts of the causal stamp that
apply, and the body words. -/
structure EvRec where
  code : Nat
  seq : Nat
  step : Option Nat
  mb : Option Nat
  part : Option Nat
  body : List Nat
  deriving DecidableEq, Repr, Inhabited

/-- The stamp of an event: step, micro-batch and partition, where they apply (01 R25, 12 R440). -/
structure Stamp where
  step : Option Nat
  mb : Option Nat
  part : Option Nat
  deriving DecidableEq, Repr, Inhabited

/-- The output pins of the board side that a command can move (16 R534). -/
inductive OutPin where
  | pwrGood | faultN | thermtripN
  deriving DecidableEq, Repr, Inhabited

/-- What a command puts on the block's ports. The state keeps it until the next command. -/
inductive Out where
  /-- The value a register, sensor or debug read returns. -/
  | value (v : Nat)
  /-- Bytes returned to a requester: a fabric, BAR4, SPDM or tenant reply. -/
  | bytes (l : List Byte)
  /-- A status code returned to a requester (11 R392, 14 R494). -/
  | status (c : Nat)
  /-- An Unsupported Request completion (12 R427). -/
  | unsupported
  /-- A message handed to a rope channel; channel 8 is the control channel (10 R367). -/
  | rope (k chan : Nat) (m : Msg)
  /-- A flit put on a rope (10 R357). -/
  | flit (k : Nat) (l : List Byte)
  /-- An RS(544,514) codeword of 10-bit symbols sent on strand `j` of a rope (10 R356); one spoilt by an armed injection is
  uncorrectable (15 R514 point 0x08). -/
  | codeword (k j : Nat) (symbols : List Nat) (spoilt : Bool)
  /-- A flit or message put on a die-link bundle (11 R411). -/
  | die (n : Nat) (l : List Byte)
  /-- Bytes written to host memory of a function, with relaxed ordering or not. -/
  | host (fn addr : Nat) (l : List Byte) (relaxed : Bool)
  /-- A read of host memory: function, address, length. -/
  | hostRead (fn addr len : Nat)
  /-- An MSI-X vector signalled on a function. -/
  | irq (fn vector : Nat)
  /-- A pin driven to a level. -/
  | pin (p : OutPin) (high : Bool)
  deriving DecidableEq, Repr, Inhabited

/-! Partition numbers of PART_STATE (01 R37). -/
def partUnassigned : Nat := 0
def partAssigned : Nat := 1
def partActive : Nat := 2
def partScrubbing : Nat := 3

end Sys2Proof
end

