-- ==== Sys2Proof/Machine/MemState.lean ====
section
/-!
DEFINITION. Yuseon, the undercrofts, the fabric's outstanding requests and the die links as data (09, 11).
-/
namespace Sys2Proof.Machine

/-- Yuseon's bytes by class-0 offset (09 R320 to R334), as they were written: each line's ciphertext and check field follow from them
(log 8). A byte that is not listed reads 0 (log 2). -/
abbrev Memory := List Host.Cell

/-- The canonical form of memory: offsets strictly rising, and no listed byte equal to what an unlisted one reads as. -/
def Memory.wf (m : Memory) : Bool := tblWf 0 m

/-- One undo slot of a table's sparse work (09 R344): the row, its bytes and state bytes and mark as they stood, the
combined gradient, and whether pass 2 has written the row. -/
structure Undo where
  row : Nat
  bytes : List Byte
  states : List (List Byte)
  mark : Nat
  grad : List Nat
  written : Bool
  deriving DecidableEq, Repr, Inhabited

/-- The sparse work of one table and step (09 R343 to R345). -/
structure Sparse where
  part : Nat
  table : Nat
  step : Nat
  pass : Nat
  undo : List Undo
  deriving DecidableEq, Repr, Inhabited

/-- One undercroft: gather and converter queues (24 words and the partition that pushed) and push windows, what is held
at a lost line (3 for each partition number, plus 0 for the gather queue, 1 for the converter queue, 2 for sparse work), a gather that waits to push its landing entry, the
vector engine's eight registers (register `r` lane `n` at `1024 r + n`), the bytes of the 4 MiB scratch, the partition whose
work they hold, plus 1, patrol position, sweep position by partition,
LINE_LOST events by DRAM row, repaired rows and dies without spares, spare rows used by die. -/
structure Undercroft where
  gq : List (List Nat)
  cq : List (List Nat)
  gwin : Tbl Nat
  cwin : Tbl Nat
  held : List Nat
  gpush : Option (List Nat)
  v : Tbl Nat
  scratch : Tbl Byte
  user : Nat
  patrol : Nat
  sweep : Tbl Nat
  rowLost : Tbl Nat
  repaired : List Nat
  spareUsed : Tbl Nat
  exhausted : List Nat
  deriving DecidableEq, Repr, Inhabited

def Undercroft.init : Undercroft := ⟨[], [], [], [], [], none, [], [], 0, 0, [], [], [], [], []⟩

/-- Who issues a fabric access (11 R417 AGENT): a flight, an engine of undercroft `u`, a stage sequencer, a control core,
copy engine `e` or the placement window acting for a partition, a peer package on a rope's virtual channel, the newel
firmware, operator debug through BAR0 or through an instrument of the test port (14 R502, 16 R541). -/
inductive Agent where
  | flight (gf : Nat)
  | undercroft (p u : Nat)
  | sequencer (slot : Nat)
  | core (p : Nat)
  | engine (p e : Nat)
  | window (p : Nat)
  | peer (rope vc tag job : Nat)
  | firmware
  | debug (port : Bool)
  deriving DecidableEq, Repr, Inhabited

/-- The number under which an agent's latches of registers are held (00 R10, 01 R39): a control core's are those it has as
a requester of registers, and every other agent has its own. -/
def Agent.key : Agent → Nat
  | .firmware => Who.key .firmware
  | .core p => Who.key (.core p)
  | .debug port => if port then 0x20 else 0x21
  | .engine _ e => 0x30 + e
  | .window p => 0x40 + p
  | .undercroft p u => 0x80 + 16 * p + u
  | .sequencer n => 0x100 + n
  | .flight gf => 0x200 + gf
  | .peer k v _ _ => 0x800 + 8 * k + v

/-- A fabric request (11 R397, R403): OP 1 READ, 2 WRITE, 3 ATOMIC. -/
structure FabReq where
  agent : Agent
  op : Nat
  func : Nat
  size : Nat
  addr : Nat
  data : List Byte
  deriving DecidableEq, Repr, Inhabited

/-- A remote request that waits for its response, with the channel it went on. -/
structure Remote where
  rope : Nat
  vc : Nat
  tag : Nat
  part : Nat
  req : FabReq
  deriving DecidableEq, Repr, Inhabited

/-- The fabric: remote requests outstanding (each holds one of its channel's 64 request credits, 11 R404), the tag of the
next, accesses that wait for a re-rig, and the fabric routes chosen (partition, peer, rope, channel). -/
structure Fabric where
  remote : List Remote
  nextTag : Nat
  waiting : List FabReq
  routes : List (Nat × Nat × Nat × Nat)
  deriving DecidableEq, Repr, Inhabited

def Fabric.init : Fabric := ⟨[], 0, [], []⟩

/-- One direction of a bundle (11 R411), both of whose ends lie in the package. The sender: next SEQ, held flits (SEQ,
channel, flit), flits moved here from a fenced bundle (channel, flit), credits by channel and the cumulative counts last
seen, the replay position, the ACK it began from, whether ACK has moved since the last send or replay, replays without
progress, and the bytes left and the channel of the message in progress. The receiver: expected SEQ, whether it waits for a
replay, freed counts by channel. -/
structure DieDir where
  txNext : Nat
  held : List (Nat × Nat × List Byte)
  queue : List (Nat × List Byte)
  credit : List Int
  cumSeen : List Nat
  replayFrom : Option Nat
  ackMoved : Bool
  stuck : Nat
  left : Nat
  chan : Nat
  rxExpect : Nat
  waiting : Bool
  freed : List Nat
  deriving DecidableEq, Repr, Inhabited

def DieDir.init : DieDir :=
  ⟨0, [], [], List.replicate 4 128, List.replicate 4 0, none, false, 0, 0, 0, 0, false, List.replicate 4 0⟩

/-- One bundle: its two directions, the splices of its journal map (direction 0 A to B, redundant lane, data lane), the
width that each end's last lane test allows or that the ends agreed on after it (0 none, 1 x32, 2 x64), the halves of x32 in
the two directions, which end a partial reset has reset (1 end A, 2 end B, 0 neither), whether the ends have retrained at a
narrower width in this attempt, and how many times it has trained. -/
structure Bundle where
  ab : DieDir
  ba : DieDir
  spl : List (Nat × Nat × Nat)
  width : Nat
  widthB : Nat
  half : Nat
  halfBA : Nat
  reset : Nat
  narrowed : Bool
  trained : Nat
  deriving DecidableEq, Repr, Inhabited

def Bundle.init : Bundle := ⟨DieDir.init, DieDir.init, [], 2, 2, 0, 0, 0, false, 0⟩

/-- What a CAP flit tells of the die at end B (11 R412): DCP version, generation, vendor, masks of rates (1 16 GT/s,
2 32 GT/s), widths (1 x32, 2 x64) and channels, atomics, and the width and half that the end has trained at. -/
structure CapRec where
  major : Nat
  minor : Nat
  generation : Nat
  vendor : Nat
  rates : Nat
  widths : Nat
  channels : Nat
  atomic : Bool
  trained : Nat
  half : Nat
  deriving DecidableEq, Repr, Inhabited

end Sys2Proof.Machine
end

