-- ==== Sys2Proof/Syntax.lean ====
section
/-!
DEFINITION. The commands of the package, one constructor for each row of spec/opcode_table.json in its order. A command is a
register access, a message, flit or pin event from outside, an instruction that a tread or a vector engine executes, or the end
of something that takes time in the package. Its operands are what it carries; a unit is named by its number.
-/
namespace Sys2Proof
open Machine

/-- A command of the package. -/
inductive Instr where
  /-- REGISTER_WRITE (R5): A host or control-core write to a register field that has no behaviour of its own sets RW fields,
  sets RWL fields only while the governing lock bit is 0, and ignores RO fields. -/
  | registerWrite (who : Who) (off n : Nat) (value : W64)
  /-- RC_READ (R7): A read of an RC field returns the current value and clears the field; an event that occurs during the
  read is kept in the cleared field. -/
  | rcRead (who : Who) (off : Nat) (during : W32)
  /-- RW1C_WRITE (R6): A write to an RW1C field clears each bit written as 1, and a bit that hardware sets in the same
  access stays set. -/
  | rw1cWrite (who : Who) (off : Nat) (value sets : W32)
  /-- HIGH_WORD_LATCH_READ (R10): A 32-bit read of the low word of a 64-bit register latches the high word for that
  requester's next read of it. -/
  | highWordLatchRead (who : Who) (off n : Nat)
  /-- COMMITTED_STEP_READ (R39): A read of COMMITTED_STEP latches the whole 48-byte PART_COMMIT block for that requester. -/
  | committedStepRead (who : Who) (p n : Nat)
  /-- PKG_ID_LOCK (R32): Writing 1 to PKG_ID.LOCK sets the lock and writes PKG_ID.ID to the journal store. -/
  | pkgIdLock (value : W32)
  /-- PWR_BUDGET_WRITE (R57): A host write of PWR_BUDGET.HOST_W is bounded to 1,500–6,000 W and recomputes EFFECTIVE_W; a
  fall starts the 100 µs bound. -/
  | pwrBudgetWrite (now : W64) (value : W32)
  /-- POWER_LIMIT_EFFECTER (R57): The board sets BOARD_W through the PLDM power-limit effecter, and EFFECTIVE_W is
  recomputed. -/
  | powerLimitEffecter (now : W64) (w : Nat)
  /-- POWER_MEASUREMENT (R58): At each 10 µs interval the power manager measures mean input power and scales every stage's
  rate if the power exceeds EFFECTIVE_W. -/
  | powerMeasurement (now : W64) (mw : List Nat) (mv : Nat)
  /-- BUDGET_WINDOW_CLOSE (R62): At the close of a 100 µs window in which all ten measurements were below 90 % of the
  budget, each stage below its nominal rate is raised by 2 %. -/
  | budgetWindowClose (now : W64)
  /-- CONVERTER_FAILED (R51): A failed stage-1 converter is disabled, and the converter cap on the effective budget is
  applied. -/
  | converterFailed (now : W64) (k : Nat)
  /-- INPUT_LOW (R52): Input voltage between 36 V and 40 V sets INPUT_LOW and holds admission. -/
  | inputLow (mv : Nat)
  /-- INPUT_RESTORED (R52): Input voltage returning to 40 V or above releases the admission hold. -/
  | inputRestored (mv : Nat)
  /-- INPUT_OUT_OF_RANGE (R52): Input below 36 V or above 60 V sets FAULT and stops the converters. -/
  | inputOutOfRange (mv : Nat)
  /-- ADMISSION_TOKEN (R66): Every 100 ns the load-step limiter issues a token that admits flights to RUN or raises a domain
  voltage within the slew limit. -/
  | admissionToken (gfs : List Nat)
  /-- RETAIN_ENTRY (R55): A flight idle for its stage's retention threshold enters RETAIN and loses admission. -/
  | retainEntry (gf : Nat)
  /-- RETAIN_EXIT (R55): A flight returning from RETAIN completes its 20 µs return and is admitted through the limiter. -/
  | retainExit (gf : Nat)
  /-- THERMAL_SAMPLE (R69): Every 50 µs the power manager samples each flight junction sensor and applies the warn, hot and
  trip responses. -/
  | thermalSample (now : W64) (readings : List (Nat × Int))
  /-- RIG_START (R110): A write of RIG_CTRL.START runs the Start checks and either begins FETCH or ends as REFUSED. -/
  | rigStart (w : CtrlWrite)
  /-- RIG_FETCH_COMPLETE (R110): The last image byte is written into both slot copies, and VERIFY begins. -/
  | rigFetchComplete (p : Nat) (image : List Byte)
  /-- FETCH_FAILED (R114): A fetch read that completes with an error ends the load as REFUSED with FETCH_FAILED. -/
  | fetchFailed (p : Nat)
  /-- RIG_VERIFY_COMPLETE (R110): The header and signature checks finish, RIG_MEASURE is written and VALIDATE begins, or the
  load is refused. -/
  | rigVerifyComplete (p : Nat) (bad : List (Nat × Nat))
  /-- RIG_VALIDATE_COMPLETE (R104): The Binding to Alternates checks finish in fixed order, and PLACE begins or the load is
  refused with the first failing code. -/
  | rigValidateComplete (p : Nat) (bad : List (Nat × Nat))
  /-- RIG_PLACE_COMPLETE (R109): Roles are placed against the fence map in force, and APPLY begins or the load is refused
  with NO_PLACEMENT. -/
  | rigPlaceComplete (p : Nat)
  /-- RIG_APPLY_COMPLETE (R110): Every placed flight reaches QUIET, and the Commit phase makes the partition ACTIVE with
  every tread in HALT. -/
  | rigApplyComplete (p : Nat)
  /-- APPLY_FAULT (R112): A hardware fault during APPLY makes the loader undo its writes and end the load as REFUSED with
  APPLY_FAULT. -/
  | applyFault (p : Nat)
  /-- RIG_ABORT (R113): A write of RIG_CTRL.ABORT ends a load in FETCH to PLACE as REFUSED with ABORTED. -/
  | rigAbort (w : CtrlWrite)
  /-- RIG_RELEASE (R115): A write of RIG_CTRL.RELEASE stops admission and begins the partition's wind-down. -/
  | rigRelease (w : CtrlWrite)
  /-- RIG_RELEASED (R115): When wind-down ends, the partition's flights go OFF, its resources are freed and its image slot
  is cleared, and it reads ASSIGNED. -/
  | rigReleased (p : Nat)
  /-- RERIG_ROW_SHIFT (R116): In its turn, a row shift sets the row's remap, reloads the code of the shifted logical columns
  and clears their data SRAM. -/
  | rerigRowShift (now : W64) (r : SlotRead)
  /-- RERIG_ROLE_MOVE (R116): In its turn, a role move brings the first passing unfenced STANDBY alternate up, loads it,
  rewrites the route tables and turns the fenced flight OFF. -/
  | rerigRoleMove (now : W64) (p : Nat) (bad : List (Nat × Nat))
  /-- RERIG_COMPLETE (R116): A re-rig finishes, RERIG_LAST and RERIG_COUNTS are updated, and waiting accesses to the role
  are delivered. -/
  | rerigComplete (now : W64) (p : Nat)
  /-- ADD (R132): A tread instruction sets RD to RA + RB. -/
  | add (t : Nat) (rd ra rb : BitVec 5)
  /-- SUB (R132): A tread instruction sets RD to RA − RB. -/
  | sub (t : Nat) (rd ra rb : BitVec 5)
  /-- AND (R132): A tread instruction sets RD to the bitwise AND of RA and RB. -/
  | and (t : Nat) (rd ra rb : BitVec 5)
  /-- OR (R132): A tread instruction sets RD to the bitwise OR of RA and RB. -/
  | or (t : Nat) (rd ra rb : BitVec 5)
  /-- XOR (R132): A tread instruction sets RD to the bitwise XOR of RA and RB. -/
  | xor (t : Nat) (rd ra rb : BitVec 5)
  /-- SLL (R132): A tread instruction shifts RA left by RB[4:0]. -/
  | sll (t : Nat) (rd ra rb : BitVec 5)
  /-- SRL (R132): A tread instruction shifts RA right logically by RB[4:0]. -/
  | srl (t : Nat) (rd ra rb : BitVec 5)
  /-- SRA (R132): A tread instruction shifts RA right arithmetically by RB[4:0]. -/
  | sra (t : Nat) (rd ra rb : BitVec 5)
  /-- SLT (R132): A tread instruction sets RD to 1 if RA is less than RB as signed values, else 0. -/
  | slt (t : Nat) (rd ra rb : BitVec 5)
  /-- SLTU (R132): A tread instruction sets RD to 1 if RA is less than RB as unsigned values, else 0. -/
  | sltu (t : Nat) (rd ra rb : BitVec 5)
  /-- MIN (R132): A tread instruction sets RD to the signed minimum of RA and RB. -/
  | min (t : Nat) (rd ra rb : BitVec 5)
  /-- MAX (R132): A tread instruction sets RD to the signed maximum of RA and RB. -/
  | max (t : Nat) (rd ra rb : BitVec 5)
  /-- MINU (R132): A tread instruction sets RD to the unsigned minimum of RA and RB. -/
  | minu (t : Nat) (rd ra rb : BitVec 5)
  /-- MAXU (R132): A tread instruction sets RD to the unsigned maximum of RA and RB. -/
  | maxu (t : Nat) (rd ra rb : BitVec 5)
  /-- MUL (R132): A tread instruction sets RD to the low 32 bits of RA × RB. -/
  | mul (t : Nat) (rd ra rb : BitVec 5)
  /-- MULH (R132): A tread instruction sets RD to the high 32 bits of the signed product of RA and RB. -/
  | mulh (t : Nat) (rd ra rb : BitVec 5)
  /-- MULHU (R132): A tread instruction sets RD to the high 32 bits of the unsigned product of RA and RB. -/
  | mulhu (t : Nat) (rd ra rb : BitVec 5)
  /-- CLZ (R132): A tread instruction sets RD to the count of leading zeros of RA. -/
  | clz (t : Nat) (rd ra : BitVec 5)
  /-- POPC (R132): A tread instruction sets RD to the population count of RA. -/
  | popc (t : Nat) (rd ra : BitVec 5)
  /-- ADDI (R132): A tread instruction sets RD to RA plus the signed immediate. -/
  | addi (t : Nat) (rd ra : BitVec 5) (imm : BitVec 16)
  /-- ANDI (R132): A tread instruction sets RD to RA AND the zero-extended immediate. -/
  | andi (t : Nat) (rd ra : BitVec 5) (imm : BitVec 16)
  /-- ORI (R132): A tread instruction sets RD to RA OR the zero-extended immediate. -/
  | ori (t : Nat) (rd ra : BitVec 5) (imm : BitVec 16)
  /-- XORI (R132): A tread instruction sets RD to RA XOR the zero-extended immediate. -/
  | xori (t : Nat) (rd ra : BitVec 5) (imm : BitVec 16)
  /-- SLTI (R132): A tread instruction sets RD to 1 if RA is less than the immediate as signed values, else 0. -/
  | slti (t : Nat) (rd ra : BitVec 5) (imm : BitVec 16)
  /-- SLLI (R132): A tread instruction shifts RA left by the immediate shift amount. -/
  | slli (t : Nat) (rd ra sh : BitVec 5)
  /-- SRLI (R132): A tread instruction shifts RA right logically by the immediate shift amount. -/
  | srli (t : Nat) (rd ra sh : BitVec 5)
  /-- SRAI (R132): A tread instruction shifts RA right arithmetically by the immediate shift amount. -/
  | srai (t : Nat) (rd ra sh : BitVec 5)
  /-- LUI (R132): A tread instruction sets RD to IMM21 shifted left by 11. -/
  | lui (t : Nat) (rd : BitVec 5) (imm : BitVec 21)
  /-- LW (R132): A tread instruction loads a 32-bit word from data SRAM into RD. -/
  | lw (t : Nat) (rd ra : BitVec 5) (imm : BitVec 16)
  /-- LH (R132): A tread instruction loads a sign-extended halfword from data SRAM into RD. -/
  | lh (t : Nat) (rd ra : BitVec 5) (imm : BitVec 16)
  /-- LHU (R132): A tread instruction loads a zero-extended halfword from data SRAM into RD. -/
  | lhu (t : Nat) (rd ra : BitVec 5) (imm : BitVec 16)
  /-- LBU (R132): A tread instruction loads a zero-extended byte from data SRAM into RD. -/
  | lbu (t : Nat) (rd ra : BitVec 5) (imm : BitVec 16)
  /-- SW (R132): A tread instruction stores the 32 bits of RS to data SRAM. -/
  | sw (t : Nat) (rs ra : BitVec 5) (imm : BitVec 16)
  /-- SH (R132): A tread instruction stores the low 16 bits of RS to data SRAM. -/
  | sh (t : Nat) (rs ra : BitVec 5) (imm : BitVec 16)
  /-- SB (R132): A tread instruction stores the low 8 bits of RS to data SRAM. -/
  | sb (t : Nat) (rs ra : BitVec 5) (imm : BitVec 16)
  /-- VLD (R132): A tread instruction loads 32 bytes from data SRAM into a vector register. -/
  | vld (t : Nat) (vr : BitVec 3) (ra : BitVec 5) (imm : BitVec 16)
  /-- VST (R132): A tread instruction stores a vector register as 32 bytes to data SRAM. -/
  | vst (t : Nat) (vr : BitVec 3) (ra : BitVec 5) (imm : BitVec 16)
  /-- BEQ (R132): A tread branch is taken when RA equals RB. -/
  | beq (t : Nat) (ra rb : BitVec 5) (off : BitVec 16)
  /-- BNE (R132): A tread branch is taken when RA differs from RB. -/
  | bne (t : Nat) (ra rb : BitVec 5) (off : BitVec 16)
  /-- BLT (R132): A tread branch is taken when RA is less than RB as signed values. -/
  | blt (t : Nat) (ra rb : BitVec 5) (off : BitVec 16)
  /-- BGE (R132): A tread branch is taken when RA is at least RB as signed values. -/
  | bge (t : Nat) (ra rb : BitVec 5) (off : BitVec 16)
  /-- BLTU (R132): A tread branch is taken when RA is less than RB as unsigned values. -/
  | bltu (t : Nat) (ra rb : BitVec 5) (off : BitVec 16)
  /-- BGEU (R132): A tread branch is taken when RA is at least RB as unsigned values. -/
  | bgeu (t : Nat) (ra rb : BitVec 5) (off : BitVec 16)
  /-- JAL (R132): A tread instruction links PC + 1 into s31 and jumps by OFF. -/
  | jal (t : Nat) (off : BitVec 26)
  /-- JALR (R132): A tread instruction links PC + 1 into RD and jumps to (RA + IMM) mod 1,024. -/
  | jalr (t : Nat) (rd ra : BitVec 5) (imm : BitVec 16)
  /-- RECV (R138): A tread instruction takes the oldest LEN + 1 words of a queue into scalar registers, waiting until they
  are present. -/
  | recv (t : Nat) (reg : BitVec 5) (ch len : BitVec 2)
  /-- SEND (R138): A tread instruction sends scalar registers as one tuple on a port, waiting until the credit counter
  covers them. -/
  | send (t : Nat) (reg : BitVec 5) (ch len : BitVec 2)
  /-- POLL (R132): A tread instruction reads a queue's occupancy or a port's credit counter without waiting. -/
  | poll (t : Nat) (reg : BitVec 5) (ch : BitVec 2) (p : Bool)
  /-- VRECV (R138): A tread instruction takes queue words into vector lanes, waiting until they are present. -/
  | vrecv (t : Nat) (vr : BitVec 3) (ch len : BitVec 2) (lane : BitVec 3)
  /-- VSEND (R138): A tread instruction sends vector lanes on a port, waiting for credits. -/
  | vsend (t : Nat) (vr : BitVec 3) (ch len : BitVec 2) (lane : BitVec 3)
  /-- VADD (R136): A vector instruction adds lanes. -/
  | vadd (t : Nat) (vd va vb : BitVec 3) (w : Bool)
  /-- VSUB (R136): A vector instruction subtracts lanes. -/
  | vsub (t : Nat) (vd va vb : BitVec 3) (w : Bool)
  /-- VMUL (R136): A vector instruction multiplies lanes. -/
  | vmul (t : Nat) (vd va vb : BitVec 3) (w : Bool)
  /-- VFMA (R136): A vector instruction computes VA × VB + VC with one rounding per lane. -/
  | vfma (t : Nat) (vd va vb vc : BitVec 3) (w : Bool)
  /-- VMIN (R132): A vector instruction takes the lane-wise minimum. -/
  | vmin (t : Nat) (vd va vb : BitVec 3) (w : Bool)
  /-- VMAX (R132): A vector instruction takes the lane-wise maximum. -/
  | vmax (t : Nat) (vd va vb : BitVec 3) (w : Bool)
  /-- VABS (R132): A vector instruction takes the lane-wise absolute value. -/
  | vabs (t : Nat) (vd va : BitVec 3) (w : Bool)
  /-- VNEG (R132): A vector instruction negates each lane. -/
  | vneg (t : Nat) (vd va : BitVec 3) (w : Bool)
  /-- VRCP (R136): A vector instruction computes the correctly rounded reciprocal of each lane. -/
  | vrcp (t : Nat) (vd va : BitVec 3) (w : Bool)
  /-- VRSQRT (R136): A vector instruction computes the correctly rounded reciprocal square root of each lane. -/
  | vrsqrt (t : Nat) (vd va : BitVec 3) (w : Bool)
  /-- VCMPLT (R132): A vector compare sets each lane to all ones where VA is less than VB, else all zeros. -/
  | vcmplt (t : Nat) (vd va vb : BitVec 3) (w : Bool)
  /-- VCMPEQ (R132): A vector compare sets each lane to all ones where VA equals VB, else all zeros. -/
  | vcmpeq (t : Nat) (vd va vb : BitVec 3) (w : Bool)
  /-- VSEL (R132): A vector instruction selects VA or VB in each lane according to VC. -/
  | vsel (t : Nat) (vd va vb vc : BitVec 3) (w : Bool)
  /-- VRED (R136): A vector instruction sums the lanes in the fixed tree order into lane 0. -/
  | vred (t : Nat) (vd va : BitVec 3) (w : Bool)
  /-- VSPLAT (R132): A vector instruction copies a scalar register into every 32-bit lane. -/
  | vsplat (t : Nat) (vd : BitVec 3) (rs : BitVec 5)
  /-- VEXT (R132): A vector instruction extracts one 32-bit lane into a scalar register. -/
  | vext (t : Nat) (rs : BitVec 5) (va vc : BitVec 3)
  /-- VINS (R132): A vector instruction inserts a scalar register into one 32-bit lane. -/
  | vins (t : Nat) (vd vc : BitVec 3) (rs : BitVec 5)
  /-- VIADD (R132): A vector instruction adds 32-bit integer lanes. -/
  | viadd (t : Nat) (vd va vb : BitVec 3)
  /-- VAND (R132): A vector instruction computes the bitwise AND of 32-bit integer lanes. -/
  | vand (t : Nat) (vd va vb : BitVec 3)
  /-- VOR (R132): A vector instruction computes the bitwise OR of 32-bit integer lanes. -/
  | vor (t : Nat) (vd va vb : BitVec 3)
  /-- VXOR (R132): A vector instruction computes the bitwise XOR of 32-bit integer lanes. -/
  | vxor (t : Nat) (vd va vb : BitVec 3)
  /-- VCVT (R136): A vector instruction converts lanes by KIND with rounding RND, stochastic rounding advancing RNG_INDEX. -/
  | vcvt (t : Nat) (vd va kind rnd : BitVec 3)
  /-- ACCRD (R137): A tread instruction reads one row of a held accumulator bank into a vector register. -/
  | accrd (t : Nat) (vd : BitVec 3) (bank : BitVec 1) (row : BitVec 3)
  /-- ACCCLR (R137): A tread instruction clears a held accumulator bank to +0. -/
  | accclr (t : Nat) (bank : BitVec 1)
  /-- ACCREL (R137): A tread instruction returns its part of a bank, and the bank passes back to the array once every holder
  has released it. -/
  | accrel (t : Nat) (bank : BitVec 1)
  /-- NOP (R132): A tread instruction does nothing. -/
  | nop (t : Nat)
  /-- HALT (R129): A tread instruction stops the tread in HALT to wait for the stage sequencer. -/
  | halt (t : Nat)
  /-- FENCE (R132): A tread instruction orders earlier stores before any later SEND leaves. -/
  | fence (t : Nat)
  /-- RDSR (R135): A tread instruction reads a special register into RD. -/
  | rdsr (t : Nat) (rd : BitVec 5) (sr : BitVec 8)
  /-- WRSR (R135): A tread instruction writes RA to a read-write special register. -/
  | wrsr (t : Nat) (ra : BitVec 5) (sr : BitVec 8)
  /-- BRK (R132): A tread instruction enters DEBUG while operator debug is unlocked, and otherwise acts as NOP. -/
  | brk (t : Nat)
  /-- TRAP (R134): A tread instruction enters TRAP with cause SOFTWARE. -/
  | trap (t : Nat)
  /-- WORD_DELIVERY (R138): A sent word reaches its destination queue, which may let a waiting receive proceed. -/
  | wordDelivery (c : Chan)
  /-- CREDIT_RETURN (R138): A credit returned by a receive adds 1 to the sending port's counter, which may let a waiting
  send proceed. -/
  | creditReturn (c : Chan)
  /-- KNOT_CONTRIBUTION (R143): A contribution arrives at a knot and is stored, or added into an integer knot's running
  total. -/
  | knotContribution (p i : Nat)
  /-- KNOT_DELIVERY (R145): A complete knot, once its output has credits, delivers its total as one tuple, returns credits
  to its sources and clears. -/
  | knotDelivery (p ki : Nat)
  /-- CHAN_LIMIT_WRITE (R158): A write of CHAN_LIMIT with a matching ticket changes the selected port's limit, adding the
  difference to its counter. -/
  | chanLimitWrite (g : Nat) (value : W32)
  /-- CHAN_HEAD_READ (R157): A read of CHAN_HEAD returns the oldest word of the selected queue and counts as a debug access
  when a partition holds the tread. -/
  | chanHeadRead (g : Nat)
  /-- STALL_SCAN (R150): Every PERIOD_US the watchdog scans each gallery, counts waiting channels and follows the chains of
  those that are stalled. -/
  | stallScan
  /-- STALL_CTRL_WRITE (R161): A write of STALL_CTRL sets the scan configuration, and ENABLE 0 stops scanning and resets the
  scan counts. -/
  | stallCtrlWrite (value : W32)
  /-- FLT_PUSH (R208): A write of word 23 of FLT_PUSH pushes the 24-word descriptor into the flight's queue. -/
  | fltPush (who : Who) (gf w : Nat) (value : W32)
  /-- TILE_START (R182): A TILE descriptor starts once its operands, its bank and admission allow, opening or continuing a
  tile. -/
  | tileStart (a : ArrayAt) (waited : Nat × Nat)
  /-- LOAD_START (R200): A LOAD descriptor starts writing its squares into slots or the epilogue store once the hazard rule
  allows. -/
  | loadStart (gf : Nat) (bad : List (Nat × Nat)) (far : Nat × List Byte × List Byte)
  /-- LOAD_COMPLETE (R177): A LOAD finishes writing, and TILEs that read what it wrote may start. -/
  | loadComplete (gf : Nat)
  /-- TILE_ACCUMULATED (R182): The last K step of a TILE with DRAIN set completes, and the bank begins to drain. -/
  | tileAccumulated (gf arr : Nat)
  /-- DRAIN_COMPLETE (R195): A drain's writes are accepted, the completion record goes to the stage sequencer and the bank
  is freed. -/
  | drainComplete (a : ArrayAt) (bad : List (Nat × Nat)) (far waited : Nat)
  /-- MAC_RESIDUE (R197): A residue mismatch in a tread's multipliers is a tread fault that leads to a fence and a replay. -/
  | macResidue (t : Nat)
  /-- TREAD_PARITY (R513): A parity error on a read of tread SRAM is a tread fault. -/
  | treadParity (t : Nat) (inst : Bool) (word : Nat)
  /-- ROUTER_PARITY (R513): A parity error on a read of router storage fences the flight. -/
  | routerParity (gf : Nat)
  /-- SB_PARITY (R513): A parity error on a read of the switchback buffer fences the flight. -/
  | sbParity (gf word : Nat)
  /-- MICRO_BATCH_BOUNDARY (R242): A stage reaches a boundary once all pushes, drains and writes are done and every tread is
  halted, and it chooses its next micro-batch. -/
  | microBatchBoundary (now : W64) (slot : Nat)
  /-- FORWARD_ADMIT (R244): A forward micro-batch is admitted once its conditions hold, taking a context and stash prefix
  and starting its treads. -/
  | forwardAdmit (slot : Nat)
  /-- BACKWARD_START (R243): A backward micro-batch starts from its landing entry or stashed context, with a recompute when
  its context spilled. -/
  | backwardStart (slot : Nat)
  /-- SEQ_DESCRIPTOR_PUSH (R251): The sequencer expands and pushes the next descriptor of a program, waiting while the
  flight's queue is full. -/
  | seqDescriptorPush (slot : Nat)
  /-- LANDING_PUSH (R256): An outbound landing entry is pushed once a credit is available. -/
  | landingPush (slot : Nat)
  /-- INGEST_PUSH (R557): A 32-byte write to an ingest landing's push window pushes one entry. -/
  | ingestPush (n : Nat) (entry : List Byte)
  /-- LAND_LIMIT_WRITE (R258): A write of LAND_LIMIT changes a landing's limit, and for ROPE_IN sends an ADJUST credit to
  the peer. -/
  | landLimitWrite (who : Who) (n : Nat) (value : W32)
  /-- SEQ_QUOTA_WRITE (R267): A write of SEQ_QUOTA sets the runtime stash limit, freeing nothing already held. -/
  | seqQuotaWrite (who : Who) (slot : Nat) (value : W32)
  /-- RING_PASS (R271): A sequence-cut stage takes the next RING_IN entry and runs its pass body for that chunk. -/
  | ringPass (slot : Nat)
  /-- STASH_VERIFY (R328): The undercrofts finish checking a stashed context's stored layers, so its backward may start. -/
  | stashVerify (slot : Nat) (bad : List (Nat × Nat))
  /-- BUCKET_ENTER (R288): A complete bucket enters the reduction ring in bucket-index order. -/
  | bucketEnter (slot : Nat) (bad : List (Nat × Nat))
  /-- RING_MESSAGE_SEND (R291): A ring reduction or gather segment is sent once its pool has a credit. -/
  | ringMessageSend (slot : Nat) (bad : List (Nat × Nat))
  /-- RING_DATA (R289): A received ring segment is added to the local shard and forwarded, or written as the total or as
  gathered weights. -/
  | ringData (k v : Nat) (msg : List Byte) (bad : List (Nat × Nat))
  /-- RING_CREDIT (R291): A ring credit message returns credits to a pool's counter. -/
  | ringCredit (k v : Nat) (msg : List Byte)
  /-- UPDATE_GROUP (R299): The undercroft runs the update program on a group of 1,024 elements and writes the outputs into
  the new state half. -/
  | updateGroup (slot : Nat) (bad : List (Nat × Nat))
  /-- VBMAX (R301): An update instruction sets each lane to the largest magnitude of its 32-lane block. -/
  | vbmax (u : Nat) (vd va : BitVec 3)
  /-- VSQRT (R301): An update instruction computes the correctly rounded square root of each lane. -/
  | vsqrt (u : Nat) (vd va : BitVec 3)
  /-- VDIV (R301): An update instruction computes VA ÷ VB, correctly rounded. -/
  | vdiv (u : Nat) (vd va vb : BitVec 3)
  /-- VMMUL (R301): An update instruction multiplies 32 × 32 squares with tree sums. -/
  | vmmul (u : Nat) (vd va vb : BitVec 3)
  /-- VTRANS (R301): An update instruction transposes a 32 × 32 square. -/
  | vtrans (u : Nat) (vd va : BitVec 3)
  /-- SCHED_SCALE_WRITE (R313): A write of SCHED_SCALE is held pending until the next latch. -/
  | schedScaleWrite (who : Who) (p i : Nat) (value : W32)
  /-- SPARSE_PASS1 (R344): Once its conditions hold, the undercroft combines the table's inbox gradients into undo slots and
  marks the rows. -/
  | sparsePass1 (p table : Nat) (bad : List (Nat × Nat))
  /-- SPARSE_PASS2 (R344): Undercrofts run the update program on undo slots and write the rows in place. -/
  | sparsePass2 (u p table : Nat) (bad : List (Nat × Nat))
  /-- SPARSE_RESTORE (R345): At a skip or rewind, the undo slots' rows, states and marks are written back. -/
  | sparseRestore (p table : Nat)
  /-- FABRIC_READ (R397): A fabric read is checked and performed at its target, and its status and data are returned. -/
  | fabricRead (agent : Agent) (addr : W64) (size : Nat) (bad : List (Nat × Nat))
  /-- FABRIC_WRITE (R397): A fabric write is checked and performed at its target, and its acceptance is acknowledged. -/
  | fabricWrite (agent : Agent) (addr : W64) (data : List Byte) (bad : List (Nat × Nat))
  /-- FABRIC_ATOMIC (R398): A fabric atomic applies its function indivisibly and returns the old value. -/
  | fabricAtomic (agent : Agent) (func : Nat) (addr : W64) (size : Nat) (value compare : W64) (bad : List (Nat × Nat))
  /-- ROW_REPAIR (R329): A row with two lost-line events is copied to a spare row, and the repair map is journaled. -/
  | rowRepair (u row : Nat)
  /-- PATROL_READ (R330): Patrol reads and checks the next line of the stack at lowest priority. -/
  | patrolRead (u : Nat) (inUse : Bool) (off : Nat) (bad : List (Nat × Nat))
  /-- KEY_SWEEP_LINE (R333): A key-rotation sweep re-encrypts the next line of the old epoch under the new key. -/
  | keySweepLine (u p : Nat) (bad : List (Nat × Nat))
  /-- UC_QUOTA_WRITE (R352): A write of UC_QUOTA sets the arbitration weight and changes the request credit limit under
  R139. -/
  | ucQuotaWrite (who : Who) (u p : Nat) (value : W32)
  /-- UC_GATHER_PUSH (R347): A write of the last word of UC_GATHER_PUSH pushes a gather descriptor. -/
  | ucGatherPush (who : Who) (u w : Nat) (value : W32)
  /-- UC_CONV_PUSH (R347): A write of the last word of UC_CONV_PUSH pushes a converter descriptor. -/
  | ucConvPush (who : Who) (u w : Nat) (value : W32)
  /-- GATHER_DESCRIPTOR (R340): The gather engine pools the bags of a descriptor and writes them narrowed to OUT_FMT. -/
  | gatherDescriptor (u : Nat) (bad : List (Nat × Nat)) (far : List (Nat × List Byte)) (farOut : Nat)
  /-- GATHER_LANDING_PUSH (R341): A gather with PUSH_EN pushes its landing entry once the landing's counter is positive. -/
  | gatherLandingPush (u : Nat)
  /-- CONVERTER_DESCRIPTOR (R346): The format converter converts COUNT elements from the source format to the destination
  format. -/
  | converterDescriptor (u : Nat) (bad : List (Nat × Nat)) (far : List (Nat × List Byte)) (farOut : Nat)
  /-- ROPE_SIGNAL_LOCK (R359): A rope's strands finish signal detection and training, and the strand exchange begins. -/
  | ropeSignalLock (k : Nat) (mask : Byte)
  /-- ROPE_TRAIN_RETRY (R359): A rope below MIN_WIDTH retries bring-up phase 1 every 10 ms. -/
  | ropeTrainRetry (k : Nat)
  /-- TRAIN_FLIT (R360): A received TRAIN flit supplies the peer's strands, identity, session and counters, advancing
  bring-up. -/
  | trainFlit (k : Nat) (now : W64) (flit : List Byte) (rx : Received)
  /-- FLIT_SEND (R358): In each flit time the rope sends a replay, new, control or IDLE flit. -/
  | flitSend (k first : Nat)
  /-- DATA_FLIT (R364): A received DATA flit is checked, accepted, discarded or treated as a duplicate, and its ACK, NAK and
  credit fields are applied. -/
  | dataFlit (k : Nat) (now : W64) (flit : List Byte) (touched : Bool) (corr : Nat) (uncorr : List Nat)
  /-- CONTROL_FLIT (R364): A received CONTROL flit is checked and accepted, and its messages go to the newel firmware. -/
  | controlFlit (k : Nat) (now : W64) (flit : List Byte) (touched : Bool) (corr : Nat) (uncorr : List Nat)
  /-- IDLE_FLIT (R366): A received IDLE flit's ACK, NAK and credit fields release held flits, start replays and add credits. -/
  | idleFlit (k : Nat) (now : W64) (flit : List Byte) (touched : Bool) (corr : Nat) (uncorr : List Nat)
  /-- REPLAY_TMO (R366): REPLAY_TMO expires without ACK progress, and the sender replays from its oldest held flit. -/
  | replayTmo (k : Nat) (now : W64)
  /-- ERROR_WINDOW_CLOSE (R379): A window of received flits closes, the error registers are loaded, and strands over their
  limit are dropped. -/
  | errorWindowClose (k : Nat) (now : W64)
  /-- STRAND_LOCK_LOSS (R361): A strand that loses lock is dropped through a retrain that keeps the link state. -/
  | strandLockLoss (k : Nat) (mask : Byte) (now : W64)
  /-- ROPE_GRACE_EXPIRY (R381): GRACE outlasts GRACE_US, and the end flushes and hands the loss to the step service. -/
  | ropeGraceExpiry (k : Nat) (now : W64)
  /-- ROPE_RETRAIN (R380): A write of ROPE_CTRL.RETRAIN takes the rope through GRACE to a retrain. -/
  | ropeRetrain (k : Nat) (value : W32) (now : W64)
  /-- ROPE_DISABLE (R386): A write of ROPE_CTRL.ENABLE 0 holds the rope OFF and flushes it. -/
  | ropeDisable (k : Nat) (value : W32)
  /-- ROPE_VC_LIMIT_WRITE (R370): A write of ROPE_VC_LIMIT changes a virtual channel's sender limit under R139. -/
  | ropeVcLimitWrite (k v : Nat) (value : W32)
  /-- LANDING_ENTRY (R372): A received LANDING_ENTRY message is checked and delivered to its ROPE_IN landing, or discarded
  by epoch. -/
  | landingEntry (k v : Nat) (msg : List Byte)
  /-- LANDING_CREDIT (R274): A GRANT, RETURN or ADJUST credit is applied to a ROPE_OUT counter by epoch. -/
  | landingCredit (k v : Nat) (msg : List Byte)
  /-- FABRIC_REQUEST_ISSUE (R402): A remote fabric request is sent on the partition's fabric route, or ends with NO_ROUTE. -/
  | fabricRequestIssue (agent : Agent) (op func : Nat) (addr : W64) (size : Nat) (data : List Byte)
  /-- FABRIC_RESPONSE (R403): A RESPONSE message completes an outstanding remote request and returns its credit. -/
  | fabricResponse (k v : Nat) (msg : List Byte)
  /-- CHECKPOINT_DATA (R470): A received frame DATA message is written into the ward's frame slot. -/
  | checkpointData (k v : Nat) (msg : List Byte)
  /-- CHECKPOINT_DONE (R470): A DONE message ends a frame's copy, and it is acknowledged or makes the frame complete. -/
  | checkpointDone (k v : Nat) (msg : List Byte)
  /-- CHECKPOINT_FETCH (R475): A FETCH message asks the buddy to return a frame it holds. -/
  | checkpointFetch (k v : Nat) (msg : List Byte)
  /-- CHECKPOINT_RETURN (R475): A RETURN message carries frame data back for a restore. -/
  | checkpointReturn (k v : Nat) (msg : List Byte)
  /-- CHECKPOINT_RETURN_DONE (R475): A RETURN_DONE message ends a returned frame. -/
  | checkpointReturnDone (k v : Nat) (msg : List Byte)
  /-- ROPE_KEY_CHECK (R498): The first control message under a new rope key confirms that both ends hold the same fabric
  secret. -/
  | ropeKeyCheck (k : Nat) (msg : List Byte)
  /-- PART_UNAVAILABLE (R507): A received PART_UNAVAILABLE message stops sending on the named channels and declares the peer
  lost. -/
  | partUnavailable (k : Nat) (msg : List Byte)
  /-- LASER_MODULE_INSERT (R382): A seated module is identified over CMIS and lit, or kept in low-power mode if refused. -/
  | laserModuleInsert (m : Nat) (ident : LaserIdent) (known : Bool) (lit : Byte)
  /-- LASER_MODULE_REMOVE (R384): Removal of a module takes both of its ropes down. -/
  | laserModuleRemove (m : Nat) (now : W64)
  /-- LASER_FAILED (R383): A laser whose output-power low alarm is set is turned off, marked failed, and its strands are
  dropped. -/
  | laserFailed (m j : Nat) (now : W64)
  /-- LASER_LIGHT_TIMEOUT (R383): A laser that does not light within 100 ms of enable is treated as failed. -/
  | laserLightTimeout (m j : Nat) (now : W64)
  /-- LASER_LIFE_TICK (R384): Each second each lit laser's life count gains its temperature-weighted equivalent seconds. -/
  | laserLifeTick (m : Nat) (temp : Byte)
  /-- LASER_LIFE_JOURNAL (R384): Every hour the life counts are written to the journal. -/
  | laserLifeJournal
  /-- LASER_RELEASE (R384): A write of LASER_CTRL.RELEASE takes both ropes down, journals the counts and puts the module in
  low-power mode. -/
  | laserRelease (m : Nat) (value : W32)
  /-- LASER_RELIGHT (R391): A write of LASER_CTRL.RELIGHT retries every failed laser once. -/
  | laserRelight (w : CtrlWrite) (lit : Byte)
  /-- DCP_MSG_FLIT (R411): A received DCP MSG flit is acknowledged, replayed or delivered by channel. -/
  | dcpMsgFlit (n dir : Nat) (flit : List Byte) (bad : Bool)
  /-- DCP_CAP_FLIT (R412): A received capability flit settles the bundle's rate, width, channels and atomics. -/
  | dcpCapFlit (n : Nat) (cap : CapRec)
  /-- DCP_REPLAY_TMO (R411): The 500 ns die-link replay timer expires, and held flits are replayed. -/
  | dcpReplayTmo (n dir : Nat)
  /-- DIE_LINK_FENCED (R414): A fenced bundle's unaccepted messages are resent on the bundle that now serves their lines. -/
  | dieLinkFenced (n : Nat)
  /-- DL_DISABLE (R418): A write of DL_CTRL.ENABLE 0 fences the bundle. -/
  | dlDisable (n : Nat) (value : W32)
  /-- DL_RESET (R415): A write of DL_CTRL.RESET, or a DCP fatal error, partially resets end B and retrains the bundle. -/
  | dlReset (n : Nat) (value : W32) (fatal : Nat) (lost : List FabReq)
  /-- DL_TRAINING_TIMEOUT (R415): A retraining attempt that does not complete within 2 ms fails, and after three failures
  the bundle stays fenced. -/
  | dlTrainingTimeout (n : Nat)
  /-- DL_RETEST (R413): A write of DL_CTRL.RETEST clears the bundle's journal splices for testing at the next start. -/
  | dlRetest (n : Nat) (value : W32)
  /-- LANE_TEST (R413): At start each bundle tests its lanes, splices failures, or trains at x32 or is fenced. -/
  | laneTest (n : Nat) (faultsAB faultsBA : List Nat)
  /-- BAR4_REQUEST (R425): A BAR4 request is decoded by a placement entry and performed in Yuseon, or ends as an Unsupported
  Request. -/
  | bar4Request (rid : W16) (off : W64) (write : Bool) (size : Nat) (data : List Byte) (bad : List (Nat × Nat))
  /-- PLC_VALID_WRITE (R426): A write of PLC_CFG.VALID 1 checks the placement entry and puts it in force or records PLC_ERR. -/
  | plcValidWrite (i : Nat) (value : W32)
  /-- HCE_DOORBELL (R431): A doorbell write sets TAIL, and the engine starts fetching descriptors. -/
  | hceDoorbell (who : Who) (e : Nat) (value : W32)
  /-- HCE_NOP (R433): A NOP descriptor completes without moving data. -/
  | hceNop (e : Nat) (desc : List Byte)
  /-- HCE_COPY (R436): A COPY descriptor moves LEN bytes between host memory and the fabric. -/
  | hceCopy (e : Nat) (desc : List Byte) (answer : Option (Nat × List Byte)) (bad : List (Nat × Nat))
  /-- HCE_FENCE (R436): A FENCE descriptor completes when every earlier descriptor has completed, after a flushing read on
  HCE_OUT. -/
  | hceFence (e : Nat) (desc : List Byte)
  /-- HCE_DESCRIPTOR_COMPLETE (R435): A descriptor's completion record is written in ring order after its writes are
  accepted. -/
  | hceDescriptorComplete (x : HceAnswer)
  /-- HCE_DESCRIPTOR_RETRY (R437): The engine re-reads a not-yet-current entry, and after 8 retries sets DB_AHEAD. -/
  | hceDescriptorRetry (e : Nat) (desc : List Byte)
  /-- HCE_RESUME (R438): A write of HCE_CTRL.RESUME restarts a stopped engine at HEAD. -/
  | hceResume (who : Who) (e : Nat) (value : W32)
  /-- HCE_ENABLE (R451): Changing HCE_CTRL.ENABLE sets HEAD and the phases when enabled, or lets descriptors in flight
  finish when disabled. -/
  | hceEnable (who : Who) (e : Nat) (value : W32)
  /-- EVENT_RECORD_WRITE (R441): The ring writer places a pending record, with a PAD at wrap, or waits for room. -/
  | eventRecordWrite (f : Nat)
  /-- EVT_HEAD_WRITE (R441): A write of EVT_HEAD frees ring space for the writer. -/
  | evtHeadWrite (who : Who) (f : Nat) (value : W32)
  /-- EVT_ENABLE (R446): Enabling an event ring resets its offsets and reattaches the function with a REATTACH record. -/
  | evtEnable (who : Who) (f : Nat) (w : EvtWrite)
  /-- DL_DOWN (R444): Host DL_Down detaches every function. -/
  | dlDown
  /-- HOT_RESET (R444): A host hot reset detaches every function. -/
  | hotReset
  /-- PERST_ASSERT (R444): PERST# asserted detaches every function and resets only the host port. -/
  | perstAssert
  /-- PERST_RELEASE (R544): The release of PERST# lets the host port train. -/
  | perstRelease
  /-- FUNCTION_LEVEL_RESET (R444): A function level reset detaches that function, or every function when it is the physical
  function. -/
  | functionLevelReset (f : Nat)
  /-- D3HOT_ENTRY (R444): A function entering D3hot is detached. -/
  | d3hotEntry (f : Nat)
  /-- LINK_RECOVERY (R443): A link recovery without DL_Down is transparent and is counted. -/
  | linkRecovery
  /-- MB_H2P_WRITE (R447): A write of MB_H2P sets host-to-package pending bits for the channel's service. -/
  | mbH2pWrite (who : Who) (c : Nat) (value : W32)
  /-- MB_P2H_CLEAR (R448): A write to MB_P2H clears doorbell bits and re-signals if any unmasked bit is still set. -/
  | mbP2hClear (who : Who) (c : Nat) (value sets : W32)
  /-- MB_P2H_MASK_WRITE (R448): A write of MB_P2H_MASK sets the mask and re-signals if any unmasked bit is set. -/
  | mbP2hMaskWrite (who : Who) (c : Nat) (value : W32)
  /-- STEP_START (R457): A write of STEP_CTRL.START begins joining the commit tree. -/
  | stepStart (p : Nat)
  /-- JOIN (R457): A received JOIN is checked and counted, and it is forwarded upward once all children have joined. -/
  | join (k : Nat) (m : TreeMsg)
  /-- GO (R457): A received GO sets the committed state to STEP_BASE, latches the scales and admits the first step. -/
  | go (k : Nat) (m : TreeMsg)
  /-- STEP_VOTE (R459): Once its conditions hold, the package sends its VOTE on step S upward. -/
  | stepVote (p : Nat)
  /-- VOTE (R459): A child's VOTE is recorded, and the root decides once all votes are in. -/
  | vote (k : Nat) (m : TreeMsg)
  /-- DECIDE (R460): A received DECIDE resolves the step, changes PART_COMMIT at one instant and is forwarded. -/
  | decide_ (k : Nat) (m : TreeMsg)
  /-- REWIND (R463): A REWIND request is forwarded to the root, and an order is forwarded downward and starts the
  partition's wind-down. -/
  | rewind (k : Nat) (m : TreeMsg)
  /-- WIND_DOWN_TIMEOUT (R465): A wind-down that has not ended after 10 ms abandons the partition's remaining work. -/
  | windDownTimeout (now : W64) (p : Nat)
  /-- REWOUND_SEND (R463): Once its work and its children are done and the fence map is journaled, the package sends
  REWOUND. -/
  | rewoundSend (p : Nat)
  /-- REWOUND (R463): A received REWOUND is counted, and the root then sends RESUME or the rollback order. -/
  | rewound (k : Nat) (m : TreeMsg)
  /-- RESUME (R463): A received RESUME is forwarded, and the partition admits the restart step. -/
  | resume (k : Nat) (m : TreeMsg)
  /-- HEARTBEAT (R474): A received HEARTBEAT refreshes the peer's liveness. -/
  | heartbeat (now : W64) (k : Nat) (m : TreeMsg)
  /-- HEARTBEAT_SEND (R474): Every 1 ms a HEARTBEAT is sent on every tree edge. -/
  | heartbeatSend (p : Nat)
  /-- PEER_LOST_TIMEOUT (R474): After 100 ms without a HEARTBEAT the peer is declared lost. -/
  | peerLostTimeout (now : W64) (p k : Nat)
  /-- STEP_REWIND_REQUEST (R483): A write of STEP_CTRL.REWIND requests a rewind with cause SOFTWARE. -/
  | stepRewindRequest (p : Nat)
  /-- STEP_HALT (R483): A write of STEP_CTRL.HALT requests a halt. -/
  | stepHalt (p : Nat)
  /-- STEP_TAKEOVER (R474): A write of STEP_CTRL.TAKEOVER joins the package as a spare and requests a rollback. -/
  | stepTakeover (p : Nat)
  /-- STORAGE_RESPONSE (R472): A storage response completes a cold-checkpoint write or SYNC, and SYNC OK advances
  COLD_CKPT_STEP. -/
  | storageResponse (entry : List Byte)
  /-- SNAP_PIN (R473): A write of SNAP_CTRL.PIN pins the NEWEST version slot and its state half. -/
  | snapPin (p : Nat) (value : W32)
  /-- SNAP_UNPIN (R473): A write of SNAP_CTRL.UNPIN releases the pin. -/
  | snapUnpin (p : Nat) (value : W32)
  /-- SNAP_EXPIRY (R473): The pin expires after MAX_MS, and SNAP_STATUS reads EXPIRED. -/
  | snapExpiry (now : W64) (p : Nat)
  /-- JRN_COMPACT (R485): A write of JRN_CTRL.COMPACT starts a compaction. -/
  | jrnCompact
  /-- JOURNAL_COMPACTED (R481): The compaction copy completes, and the new device becomes active. -/
  | journalCompacted
  /-- AVAIL_JOURNAL (R476): Every hour the availability counters are written to the journal. -/
  | availJournal
  /-- PART_OFFER (R487): A write of PART_CTRL.OFFER checks the allotment and offers the partition to TENANT_ID. -/
  | partOffer (p : Nat) (value : W32)
  /-- PART_RECLAIM (R487): A write of PART_CTRL.RECLAIM releases the partition and sends it to SCRUBBING. -/
  | partReclaim (p : Nat) (value : W32)
  /-- PART_WITHDRAW (R487): A write of PART_CTRL.WITHDRAW clears an offer. -/
  | partWithdraw (p : Nat) (value : W32)
  /-- CLAIM (R487): A tenant command claims an offered partition and generates its memory keys. -/
  | claim (fn id p : Nat)
  /-- ENROLL_RIG_KEY (R494): A tenant command sets or clears a rigging-key slot. -/
  | enrollRigKey (fn id p slot : Nat) (signer : List Byte)
  /-- LINK_STAGE (R497): A tenant command installs a new epoch's link key as the receive key of the non-current slot. -/
  | linkStage (fn id p : Nat) (epoch : W16) (secret : List Byte)
  /-- LINK_SWITCH (R497): A tenant command makes the staged link key current for sending. -/
  | linkSwitch (fn id p : Nat) (epoch : W16)
  /-- MEM_ROTATE (R333): A tenant command loads new memory keys and starts the sweep, or is refused with KEY_BUSY. -/
  | memRotate (fn id p : Nat)
  /-- END (R487): A tenant command ends the tenancy and sends the partition to SCRUBBING. -/
  | end_ (fn id p : Nat)
  /-- STATUS (R494): A tenant command returns PART_SEC_STATUS. -/
  | status (fn id p : Nat)
  /-- GET_VERSION (R492): An SPDM request returns the supported versions. -/
  | getVersion (fn : Nat) (request : List Byte)
  /-- GET_CAPABILITIES (R492): An SPDM request returns the responder capabilities. -/
  | getCapabilities (fn : Nat) (request : List Byte)
  /-- NEGOTIATE_ALGORITHMS (R492): An SPDM request negotiates ML-DSA-65, ML-KEM-768, AES-256-GCM and SHAKE256. -/
  | negotiateAlgorithms (fn : Nat) (request : List Byte) (offered : Bool)
  /-- GET_DIGESTS (R492): An SPDM request returns the certificate chain digests. -/
  | getDigests (fn : Nat)
  /-- GET_CERTIFICATE (R490): An SPDM request returns the slot 0 certificate chain. -/
  | getCertificate (fn slot off len : Nat)
  /-- CHALLENGE (R492): An SPDM request is answered with a signed challenge response. -/
  | challenge (fn slot : Nat) (request : List Byte)
  /-- GET_MEASUREMENTS (R493): An SPDM request returns the measurement blocks, signed by the alias key. -/
  | getMeasurements (fn index : Nat) (request : List Byte)
  /-- KEY_EXCHANGE (R492): An SPDM request begins an ML-KEM session key exchange. -/
  | keyExchange (fn : Nat) (request : List Byte)
  /-- FINISH (R492): An SPDM request completes session establishment and mutual authentication. -/
  | finish (fn id : Nat) (key signature : List Byte)
  /-- KEY_UPDATE (R492): An SPDM request updates the session keys. -/
  | keyUpdate (fn id : Nat)
  /-- SPDM_HEARTBEAT (R492): An SPDM heartbeat keeps a session alive. -/
  | spdmHeartbeat (fn id : Nat)
  /-- END_SESSION (R492): An SPDM request ends a session and destroys its keys. -/
  | endSession (fn id : Nat)
  /-- FIRMWARE_IMAGE (R491): A firmware image posted in the bounce buffer is verified and started, or refused with a code. -/
  | firmwareImage (image : List Byte)
  /-- FUSE_SVN_RAISE (R491): A host request raises FUSE_SVN to the running image's SVN. -/
  | fuseSvnRaise
  /-- FAB_STAGE (R509): A write of SEC_FAB_CTRL.STAGE stages the fabric secret as a new epoch, or is refused. -/
  | fabStage (value : W32)
  /-- FAB_SWITCH (R498): A write of SEC_FAB_CTRL.SWITCH makes the staged epoch current and derives new rope keys. -/
  | fabSwitch (value : W32)
  /-- DEBUG_UNLOCK (R501): A write of DBG_CTRL.UNLOCK verifies the token and opens operator debug, or counts a failure. -/
  | debugUnlock (value : W32)
  /-- DEBUG_RELOCK (R511): A write of DBG_CTRL.RELOCK closes operator debug. -/
  | debugRelock (value : W32)
  /-- DBG_GO (R502): A write of DBG_OP.GO performs one plaintext debug read or write while debug is unlocked. -/
  | dbgGo (value : W32) (bad : List (Nat × Nat))
  /-- SCRUB_START (R505): In its turn, a scrub closes the partition's host paths and ropes and sends PART_UNAVAILABLE. -/
  | scrubStart
  /-- SCRUB_KEYS_ERASED (R505): The partition's memory, link and IDE keys are zeroed. -/
  | scrubKeysErased
  /-- SCRUB_OVERWRITE_DONE (R505): Every line and SRAM of the partition has been overwritten with zeros. -/
  | scrubOverwriteDone
  /-- PART_SCRUBBED (R505): The partition's enrolments and committed state are forgotten, and it returns to UNASSIGNED. -/
  | partScrubbed
  /-- INJ_ARM (R515): A write of INJ_CTRL.ARM arms an injection point, or is refused. -/
  | injArm (value : W32)
  /-- INJ_DISARM (R530): A write of INJ_CTRL.DISARM ends the injection. -/
  | injDisarm (value : W32)
  /-- CAL_APPLY (R523): A write of CAL_CTRL.APPLY journals the user calibration value and puts it in force, clamped. -/
  | calApply (value : W32)
  /-- SELF_TEST_PHASE_COMPLETE (R524): A self-test phase ends, and the next phase begins, or READY or FAULT is reached. -/
  | selfTestPhaseComplete (now : W64) (failed : FailedUnits) (found : Measured) (fatal : Bool)
  /-- TELEMETRY_CONSUMER (R527): The host's bit reports that CONSUMER has moved, freeing telemetry buffer space. -/
  | telemetryConsumer (consumer : W64)
  /-- STORAGE_SERVICE_BIT (R456): The host's bit on channel 0 reports that storage responses are posted. -/
  | storageServiceBit
  /-- PWR_EN_RISE (R544): PWR_EN rising starts the converters' soft-start and power-up. -/
  | pwrEnRise
  /-- POWER_UP_HOLDOFF_END (R547): A PWR_EN rise within 100 ms of PWR_GOOD falling takes effect when the 100 ms have passed. -/
  | powerUpHoldoffEnd
  /-- PWR_GOOD_RISE (R544): The fixed domains and PLLs come up, and PWR_GOOD goes high. -/
  | pwrGoodRise
  /-- PKG_RST_RELEASE (R543): The release of PKG_RST_N while PWR_GOOD is high is a power-on reset: the boot ROM runs in
  BOOT, MGMT_SEL is sampled, and locks clear. -/
  | pkgRstRelease (mgmtSel : Bool)
  /-- PKG_RST_ASSERT (R543): PKG_RST_N asserted while powered loses all volatile state. -/
  | pkgRstAssert
  /-- PWR_EN_FALL (R546): PWR_EN falling stops admission, finishes the journal record and turns the flight domains OFF. -/
  | pwrEnFall
  /-- PWR_GOOD_FALL (R546): Power-down completes: PWR_GOOD falls and the converters stop. -/
  | pwrGoodFall
  /-- REFCLK_FAB_LOSS (R538): Loss of REFCLK_FAB or of PLL lock sets FAULT. -/
  | refclkFabLoss
  /-- REFCLK_HOST_LOSS (R538): Loss of REFCLK_HOST takes the host link down and detaches every function. -/
  | refclkHostLoss
  /-- PLDM_GET_SENSOR (R540): A PLDM request returns a sensor reading from its source register. -/
  | pldmGetSensor (now : W64) (n k : Nat)
  /-- EXTEST (R541): The JTAG EXTEST instruction takes effect outside SERVICE and acts as BYPASS in SERVICE. -/
  | extest
  /-- CLAMP (R541): The JTAG CLAMP instruction takes effect outside SERVICE and acts as BYPASS in SERVICE. -/
  | clamp
  /-- HIGHZ (R541): The JTAG HIGHZ instruction takes effect outside SERVICE and acts as BYPASS in SERVICE. -/
  | highz
  /-- ILLEGAL_INSTRUCTION (R133): A tread executes a word with an unlisted OP or FN, a nonzero reserved field or another
  illegal encoding, and traps with cause ILLEGAL. -/
  | illegalInstruction (t : Nat) (word : BitVec 32)
  /-- DCP_IDLE_FLIT (R411): A received DCP IDLE flit's ACK, NAK and cumulative credit fields release held flits, start
  replays and add credits on the bundle. -/
  | dcpIdleFlit (n dir : Nat) (flit : List Byte) (bad : Bool)
  /-- HOST_LINK_TRAINED (R420): Host-port link training completes at its negotiated rate and width, HP_STATUS reads UP, and
  a width below ×8 raises HOST_LINK_DEGRADED. -/
  | hostLinkTrained (speed width : Nat) (mode : LinkMode)
  /-- DOE_DISCOVERY (R420): A DOE discovery request on a function's DOE mailbox is answered with the supported data object
  protocols. -/
  | doeDiscovery (f index : Nat)
  /-- COMPLETION_TIMEOUT (R420): A host read outstanding for 50 ms on the host port's timer ends with a completion timeout,
  which fails a rigging fetch or gives HOST_ERROR to a copy-engine descriptor. -/
  | completionTimeout (fetch : Bool) (n : Nat)
  /-- IDE_KM (R500): An IDE_KM message in an SPDM session programs or activates the keys of the link or a selective IDE
  stream. -/
  | ideKm (fn id stream op : Nat) (rx tx : List Byte)
  /-- EVENT_SUMMARY_JOURNAL (R480): Every hour the EVENT_SUMMARY record of event codes and counts is written to the journal. -/
  | eventSummaryJournal
  /-- INSTRUMENT_ACCESS (R541): An IEEE 1687 instrument access through the test port reads or writes tread SRAM, switchback
  buffers or Yuseon while debug is unlocked, counted under R503. -/
  | instrumentAccess (write : Bool) (addr : W64) (len : Nat) (data : List Byte) (bad : List (Nat × Nat))
  /-- ROPE_ENABLE (R386): A write of ROPE_CTRL.ENABLE 1 takes a rope out of OFF and starts its bring-up. -/
  | ropeEnable (k : Nat) (value : W32)
  deriving DecidableEq, Repr

end Sys2Proof
end

