-- ==== Sys2Proof/Decode.lean ====
section
/-!
DEFINITION. Words that spell commands. The command table gives no row bits, so no word of the table spells a command. The words
that a tread's instruction SRAM holds do spell the commands of treads: their decoder and encoder stand here (04 R131 to R133).
-/
namespace Sys2Proof
open Machine

/-- The command that a word spells by the table's bits: the table gives bits to no row (log 10). -/
def decodeTableWord (_nbits _w : Nat) : Option Instr := none

/-! Fields of a tread word (R131). -/

/-- Five bits from `lo` up. -/
def f5 (w lo : Nat) : BitVec 5 := BitVec.ofNat 5 (bits w lo 5)
/-- Three bits. -/
def f3 (w lo : Nat) : BitVec 3 := BitVec.ofNat 3 (bits w lo 3)
/-- Two bits. -/
def f2 (w lo : Nat) : BitVec 2 := BitVec.ofNat 2 (bits w lo 2)
/-- The 16 bits of IMM and OFF. -/
def f16 (w : Nat) : BitVec 16 := BitVec.ofNat 16 (bits w 0 16)

/-! Decoding (R132). Each function takes the tread and a word whose OP it is given for. -/

/-- OP 0x00, format R. -/
def decodeR (t w : Nat) : Option Instr :=
  let rd := f5 w 21
  let ra := f5 w 16
  let rb := f5 w 11
  match wordFn w with
  | 0x00 => some (.add t rd ra rb)
  | 0x01 => some (.sub t rd ra rb)
  | 0x02 => some (.and t rd ra rb)
  | 0x03 => some (.or t rd ra rb)
  | 0x04 => some (.xor t rd ra rb)
  | 0x05 => some (.sll t rd ra rb)
  | 0x06 => some (.srl t rd ra rb)
  | 0x07 => some (.sra t rd ra rb)
  | 0x08 => some (.slt t rd ra rb)
  | 0x09 => some (.sltu t rd ra rb)
  | 0x0A => some (.min t rd ra rb)
  | 0x0B => some (.max t rd ra rb)
  | 0x0C => some (.minu t rd ra rb)
  | 0x0D => some (.maxu t rd ra rb)
  | 0x0E => some (.mul t rd ra rb)
  | 0x0F => some (.mulh t rd ra rb)
  | 0x10 => some (.mulhu t rd ra rb)
  | 0x11 => some (.clz t rd ra)
  | 0x12 => some (.popc t rd ra)
  | _ => none

/-- OP 0x06, the shifts by an immediate. -/
def decodeShift (t w : Nat) : Option Instr :=
  let rd := f5 w 21
  let ra := f5 w 16
  let sh := f5 w 0
  match bits w 5 2 with
  | 0 => some (.slli t rd ra sh)
  | 1 => some (.srli t rd ra sh)
  | 2 => some (.srai t rd ra sh)
  | _ => none

/-- OP 0x19 to 0x1D, format C. -/
def decodeC (t w : Nat) : Option Instr :=
  let reg := f5 w 21
  let vr := f3 w 21
  let ch := f2 w 19
  let len := f2 w 17
  let lane := f3 w 14
  match wordOp w with
  | 0x19 => some (.recv t reg ch len)
  | 0x1A => some (.send t reg ch len)
  | 0x1B => some (.poll t reg ch (bit w 16))
  | 0x1C => some (.vrecv t vr ch len lane)
  | 0x1D => some (.vsend t vr ch len lane)
  | _ => none

/-- OP 0x20, format V. -/
def decodeV (t w : Nat) : Option Instr :=
  let vd := f3 w 23
  let va := f3 w 20
  let vb := f3 w 17
  let vc := f3 w 14
  let wide := bit w 13
  let rs := f5 w 8
  match wordFn w with
  | 0x00 => some (.vadd t vd va vb wide)
  | 0x01 => some (.vsub t vd va vb wide)
  | 0x02 => some (.vmul t vd va vb wide)
  | 0x03 => some (.vfma t vd va vb vc wide)
  | 0x04 => some (.vmin t vd va vb wide)
  | 0x05 => some (.vmax t vd va vb wide)
  | 0x06 => some (.vabs t vd va wide)
  | 0x07 => some (.vneg t vd va wide)
  | 0x08 => some (.vrcp t vd va wide)
  | 0x09 => some (.vrsqrt t vd va wide)
  | 0x0A => some (.vcmplt t vd va vb wide)
  | 0x0B => some (.vcmpeq t vd va vb wide)
  | 0x0C => some (.vsel t vd va vb vc wide)
  | 0x0D => some (.vred t vd va wide)
  | 0x0E => some (.vsplat t vd rs)
  | 0x0F => some (.vext t rs va vc)
  | 0x10 => some (.vins t vd vc rs)
  | 0x11 => some (.viadd t vd va vb)
  | 0x12 => some (.vand t vd va vb)
  | 0x13 => some (.vor t vd va vb)
  | 0x14 => some (.vxor t vd va vb)
  | 0x15 => some (.vcvt t vd va vb vc)
  | _ => none

/-- OP 0x21, format A. -/
def decodeA (t w : Nat) : Option Instr :=
  let vd := f3 w 23
  let bank := BitVec.ofNat 1 (bits w 22 1)
  let row := f3 w 19
  match wordFn w with
  | 0x00 => some (.accrd t vd bank row)
  | 0x01 => some (.accclr t bank)
  | 0x02 => some (.accrel t bank)
  | _ => none

/-- OP 0x3F, format Y. -/
def decodeY (t w : Nat) : Option Instr :=
  let sr := BitVec.ofNat 8 (bits w 8 8)
  match wordFn w with
  | 0x00 => some (.nop t)
  | 0x01 => some (.halt t)
  | 0x02 => some (.fence t)
  | 0x03 => some (.rdsr t (f5 w 21) sr)
  | 0x04 => some (.wrsr t (f5 w 16) sr)
  | 0x05 => some (.brk t)
  | 0x06 => some (.trap t)
  | _ => none

/-- The other opcodes, formats I, U, S, VM, B and J. -/
def decodeI (t w : Nat) : Option Instr :=
  let a := f5 w 21
  let b := f5 w 16
  let v := f3 w 23
  let imm := f16 w
  match wordOp w with
  | 0x01 => some (.addi t a b imm)
  | 0x02 => some (.andi t a b imm)
  | 0x03 => some (.ori t a b imm)
  | 0x04 => some (.xori t a b imm)
  | 0x05 => some (.slti t a b imm)
  | 0x07 => some (.lui t a (BitVec.ofNat 21 (bits w 0 21)))
  | 0x08 => some (.lw t a b imm)
  | 0x09 => some (.lh t a b imm)
  | 0x0A => some (.lhu t a b imm)
  | 0x0B => some (.lbu t a b imm)
  | 0x0C => some (.sw t a b imm)
  | 0x0D => some (.sh t a b imm)
  | 0x0E => some (.sb t a b imm)
  | 0x0F => some (.vld t v b imm)
  | 0x10 => some (.vst t v b imm)
  | 0x11 => some (.beq t a b imm)
  | 0x12 => some (.bne t a b imm)
  | 0x13 => some (.blt t a b imm)
  | 0x14 => some (.bge t a b imm)
  | 0x15 => some (.bltu t a b imm)
  | 0x16 => some (.bgeu t a b imm)
  | 0x17 => some (.jal t (BitVec.ofNat 26 (bits w 0 26)))
  | 0x18 => some (.jalr t a b imm)
  | _ => none

/-- The command that tread `t` executes for an instruction word; none for an illegal instruction (R133). -/
def decodeTread (t w : Nat) : Option Instr :=
  if !legalWord w then none
  else if wordOp w = 0x00 then decodeR t w
  else if wordOp w = 0x06 then decodeShift t w
  else if wordOp w = 0x20 then decodeV t w
  else if wordOp w = 0x21 then decodeA t w
  else if wordOp w = 0x3F then decodeY t w
  else if 0x19 ≤ wordOp w then decodeC t w
  else decodeI t w

/-! Encoding: the word that spells a tread's command, with every free bit 0. -/

/-- Format R. -/
def wordR (fn : Nat) (rd ra rb : BitVec 5) : Nat := rd.toNat * 2 ^ 21 + ra.toNat * 2 ^ 16 + rb.toNat * 2 ^ 11 + fn
/-- Formats I, S and B. -/
def wordI (op : Nat) (a b : BitVec 5) (imm : BitVec 16) : Nat := op * 2 ^ 26 + a.toNat * 2 ^ 21 + b.toNat * 2 ^ 16 + imm.toNat
/-- The shifts by an immediate. -/
def wordShift (kind : Nat) (rd ra sh : BitVec 5) : Nat :=
  0x06 * 2 ^ 26 + rd.toNat * 2 ^ 21 + ra.toNat * 2 ^ 16 + kind * 2 ^ 5 + sh.toNat
/-- Format VM. -/
def wordVM (op : Nat) (vr : BitVec 3) (ra : BitVec 5) (imm : BitVec 16) : Nat :=
  op * 2 ^ 26 + vr.toNat * 2 ^ 23 + ra.toNat * 2 ^ 16 + imm.toNat
/-- Format C. -/
def wordC (op reg : Nat) (ch len : BitVec 2) (low : Nat) : Nat :=
  op * 2 ^ 26 + reg * 2 ^ 21 + ch.toNat * 2 ^ 19 + len.toNat * 2 ^ 17 + low * 2 ^ 14
/-- Format V. -/
def wordV (fn : Nat) (vd va vb vc : BitVec 3) (wide : Bool) (rs : BitVec 5) : Nat :=
  0x20 * 2 ^ 26 + vd.toNat * 2 ^ 23 + va.toNat * 2 ^ 20 + vb.toNat * 2 ^ 17 + vc.toNat * 2 ^ 14 + b2n wide * 2 ^ 13
    + rs.toNat * 2 ^ 8 + fn
/-- Format A. -/
def wordA (fn : Nat) (vd : BitVec 3) (bank : BitVec 1) (row : BitVec 3) : Nat :=
  0x21 * 2 ^ 26 + vd.toNat * 2 ^ 23 + bank.toNat * 2 ^ 22 + row.toNat * 2 ^ 19 + fn
/-- Format Y. -/
def wordY (fn : Nat) (rd ra : BitVec 5) (sr : BitVec 8) : Nat :=
  0x3F * 2 ^ 26 + rd.toNat * 2 ^ 21 + ra.toNat * 2 ^ 16 + sr.toNat * 2 ^ 8 + fn

/-- The tread and the word of a tread's command; none for the other commands. -/
def encodeTread : Instr → Option (Nat × Nat)
  | .add t rd ra rb => some (t, wordR 0x00 rd ra rb)
  | .sub t rd ra rb => some (t, wordR 0x01 rd ra rb)
  | .and t rd ra rb => some (t, wordR 0x02 rd ra rb)
  | .or t rd ra rb => some (t, wordR 0x03 rd ra rb)
  | .xor t rd ra rb => some (t, wordR 0x04 rd ra rb)
  | .sll t rd ra rb => some (t, wordR 0x05 rd ra rb)
  | .srl t rd ra rb => some (t, wordR 0x06 rd ra rb)
  | .sra t rd ra rb => some (t, wordR 0x07 rd ra rb)
  | .slt t rd ra rb => some (t, wordR 0x08 rd ra rb)
  | .sltu t rd ra rb => some (t, wordR 0x09 rd ra rb)
  | .min t rd ra rb => some (t, wordR 0x0A rd ra rb)
  | .max t rd ra rb => some (t, wordR 0x0B rd ra rb)
  | .minu t rd ra rb => some (t, wordR 0x0C rd ra rb)
  | .maxu t rd ra rb => some (t, wordR 0x0D rd ra rb)
  | .mul t rd ra rb => some (t, wordR 0x0E rd ra rb)
  | .mulh t rd ra rb => some (t, wordR 0x0F rd ra rb)
  | .mulhu t rd ra rb => some (t, wordR 0x10 rd ra rb)
  | .clz t rd ra => some (t, wordR 0x11 rd ra 0)
  | .popc t rd ra => some (t, wordR 0x12 rd ra 0)
  | .addi t rd ra imm => some (t, wordI 0x01 rd ra imm)
  | .andi t rd ra imm => some (t, wordI 0x02 rd ra imm)
  | .ori t rd ra imm => some (t, wordI 0x03 rd ra imm)
  | .xori t rd ra imm => some (t, wordI 0x04 rd ra imm)
  | .slti t rd ra imm => some (t, wordI 0x05 rd ra imm)
  | .slli t rd ra sh => some (t, wordShift 0 rd ra sh)
  | .srli t rd ra sh => some (t, wordShift 1 rd ra sh)
  | .srai t rd ra sh => some (t, wordShift 2 rd ra sh)
  | .lui t rd imm => some (t, 0x07 * 2 ^ 26 + rd.toNat * 2 ^ 21 + imm.toNat)
  | .lw t rd ra imm => some (t, wordI 0x08 rd ra imm)
  | .lh t rd ra imm => some (t, wordI 0x09 rd ra imm)
  | .lhu t rd ra imm => some (t, wordI 0x0A rd ra imm)
  | .lbu t rd ra imm => some (t, wordI 0x0B rd ra imm)
  | .sw t rs ra imm => some (t, wordI 0x0C rs ra imm)
  | .sh t rs ra imm => some (t, wordI 0x0D rs ra imm)
  | .sb t rs ra imm => some (t, wordI 0x0E rs ra imm)
  | .vld t vr ra imm => some (t, wordVM 0x0F vr ra imm)
  | .vst t vr ra imm => some (t, wordVM 0x10 vr ra imm)
  | .beq t ra rb off => some (t, wordI 0x11 ra rb off)
  | .bne t ra rb off => some (t, wordI 0x12 ra rb off)
  | .blt t ra rb off => some (t, wordI 0x13 ra rb off)
  | .bge t ra rb off => some (t, wordI 0x14 ra rb off)
  | .bltu t ra rb off => some (t, wordI 0x15 ra rb off)
  | .bgeu t ra rb off => some (t, wordI 0x16 ra rb off)
  | .jal t off => some (t, 0x17 * 2 ^ 26 + off.toNat)
  | .jalr t rd ra imm => some (t, wordI 0x18 rd ra imm)
  | .recv t reg ch len => some (t, wordC 0x19 reg.toNat ch len 0)
  | .send t reg ch len => some (t, wordC 0x1A reg.toNat ch len 0)
  | .poll t reg ch p => some (t, wordC 0x1B reg.toNat ch 0 0 + b2n p * 2 ^ 16)
  | .vrecv t vr ch len lane => some (t, wordC 0x1C vr.toNat ch len lane.toNat)
  | .vsend t vr ch len lane => some (t, wordC 0x1D vr.toNat ch len lane.toNat)
  | .vadd t vd va vb wide => some (t, wordV 0x00 vd va vb 0 wide 0)
  | .vsub t vd va vb wide => some (t, wordV 0x01 vd va vb 0 wide 0)
  | .vmul t vd va vb wide => some (t, wordV 0x02 vd va vb 0 wide 0)
  | .vfma t vd va vb vc wide => some (t, wordV 0x03 vd va vb vc wide 0)
  | .vmin t vd va vb wide => some (t, wordV 0x04 vd va vb 0 wide 0)
  | .vmax t vd va vb wide => some (t, wordV 0x05 vd va vb 0 wide 0)
  | .vabs t vd va wide => some (t, wordV 0x06 vd va 0 0 wide 0)
  | .vneg t vd va wide => some (t, wordV 0x07 vd va 0 0 wide 0)
  | .vrcp t vd va wide => some (t, wordV 0x08 vd va 0 0 wide 0)
  | .vrsqrt t vd va wide => some (t, wordV 0x09 vd va 0 0 wide 0)
  | .vcmplt t vd va vb wide => some (t, wordV 0x0A vd va vb 0 wide 0)
  | .vcmpeq t vd va vb wide => some (t, wordV 0x0B vd va vb 0 wide 0)
  | .vsel t vd va vb vc wide => some (t, wordV 0x0C vd va vb vc wide 0)
  | .vred t vd va wide => some (t, wordV 0x0D vd va 0 0 wide 0)
  | .vsplat t vd rs => some (t, wordV 0x0E vd 0 0 0 false rs)
  | .vext t rs va vc => some (t, wordV 0x0F 0 va 0 vc false rs)
  | .vins t vd vc rs => some (t, wordV 0x10 vd 0 0 vc false rs)
  | .viadd t vd va vb => some (t, wordV 0x11 vd va vb 0 false 0)
  | .vand t vd va vb => some (t, wordV 0x12 vd va vb 0 false 0)
  | .vor t vd va vb => some (t, wordV 0x13 vd va vb 0 false 0)
  | .vxor t vd va vb => some (t, wordV 0x14 vd va vb 0 false 0)
  | .vcvt t vd va kind rnd => some (t, wordV 0x15 vd va kind rnd false 0)
  | .accrd t vd bank row => some (t, wordA 0x00 vd bank row)
  | .accclr t bank => some (t, wordA 0x01 0 bank 0)
  | .accrel t bank => some (t, wordA 0x02 0 bank 0)
  | .nop t => some (t, wordY 0x00 0 0 0)
  | .halt t => some (t, wordY 0x01 0 0 0)
  | .fence t => some (t, wordY 0x02 0 0 0)
  | .rdsr t rd sr => some (t, wordY 0x03 rd 0 sr)
  | .wrsr t ra sr => some (t, wordY 0x04 0 ra sr)
  | .brk t => some (t, wordY 0x05 0 0 0)
  | .trap t => some (t, wordY 0x06 0 0 0)
  | _ => none

end Sys2Proof
end

