-- ==== Sys2Proof/Config.lean ====
section
/-!
DEFINITION. What one package fixes and the spec leaves open: factory values, the standard cryptographic functions the
spec names without restating them, and the free values. Every constant here is opaque: no proof can see a value.
-/
namespace Sys2Proof.Config

/-- Free values: the value that the spec leaves open at the `n`th place where one is taken (log 1). -/
opaque freeValue : Nat → W64

/-- Micro-batch ID of a micro-batch, by step and MB_SEQ, that a FIRST stage without a landing starts: no rule gives it
(07 R244; log 17). -/
opaque firstMbId (step seq : Nat) : W16

/-- Silicon stepping of the factory IDENT record (01 R30, 15 R518). -/
opaque stepping : Nat
/-- 64-bit serial number of the factory IDENT record (15 R518). -/
opaque serial : W64
/-- PCI vendor identifier of the factory IDENT record (12 R421). -/
opaque vendorId : W16
/-- Ocham generation code of the package's own dies, and their DCP vendor code (11 R412, R418). -/
opaque dieGeneration : Byte
opaque dieVendor : W16
/-- JEP106 code of the IDCODE register (16 R541). -/
opaque jep106 : Nat
/-- Spare rows left in a die of a stack as shipped (15 R518, factory STACK_SPARES). -/
opaque dieSpares (u d : Nat) : Nat
/-- The fewest of a stack's dies. -/
def sparesLeft (u : Nat) : Nat := (List.range 16).foldl (fun m d => min m (dieSpares u d)) 64
/-- Factory rate table of a flight: entry `(v, t)` in Mbeat/s (15 R520). -/
opaque rateTable (gf v t : Nat) : Nat
/-- Factory sensor offset of a flight in 0.125 °C (15 R518). -/
opaque sensorOffset : Nat → Int
/-- Factory activity of a flight at table voltage point `v`, in mA (15 R518). -/
opaque activity (gf v : Nat) : Nat
/-- Factory splices of a bundle direction: lane of redundant lane `i`, if used (11 R413). -/
opaque factorySplice (bundle dir i : Nat) : Option Nat
/-- Which journal device's factory region is in use (15 R519). -/
opaque factoryCopy : Nat
/-- Golden self-test digest of a format code (15 R525). -/
opaque golden : Nat → List Byte
/-- The element index `e` that a self-test operand's element has, by operand (B or A), line and place in the line, and the
MX scale of a line's block: the rule states neither the numbering nor the scales (15 R525; log 102). -/
opaque selfIndex (ofB : Bool) (line place : Nat) : Nat
opaque selfScale (fmt : Nat) (ofB : Bool) (line block : Nat) : Byte

/-! The standard functions that the spec names (14 R486 to R500, 10 R374 to R377): none restates its arithmetic. -/

/-- SHAKE256 of a message, `n` bytes of output, before it is cut or filled to `n`. -/
opaque shake (msg : List Byte) (n : Nat) : List Byte
/-- SHAKE256 with `n` bytes of output. -/
def shake256 (msg : List Byte) (n : Nat) : List Byte := ((shake msg n) ++ List.replicate n 0).take n
/-- The AES-256-GCM key stream of a key and a 96-bit nonce, before it is cut or filled to `n` bytes. -/
opaque gcmStream (key nonce n : Nat) : List Byte
/-- The 128-bit AES-256-GCM tag of a key, nonce, additional data and ciphertext. -/
opaque gcmTag (key nonce : Nat) (aad cipher : List Byte) : BitVec 128
/-- ML-DSA-65 verification of a signature over a message under a public key. -/
opaque mldsaVerify (key msg sig : List Byte) : Bool
/-- ML-DSA-65 verification under the public key whose SHAKE256 digest is `id`; the spec does not say from where the package
takes the key itself (log 70). -/
opaque signedBy (id msg sig : List Byte) : Bool
/-- ML-DSA-65 signature of a message by the alias key, which the identity seed and the digests of measurements 0x01 to 0x03
determine (14 R490). -/
opaque aliasSign (measurements msg : List Byte) : List Byte
/-- The certificate chain of slot 0 as DER bytes, with the alias certificate of the firmware whose measurements are given. -/
opaque certChain (measurements : List Byte) : List Byte
/-- The bytes of the CAPABILITIES and ALGORITHMS responses: the spec gives what they offer and not how it is written (log 78). -/
opaque spdmCapabilities : List Byte
opaque spdmAlgorithms : List Byte
/-- The shared secret of an ML-KEM-768 exchange with the key that a requester sent, and what the responder answers. -/
opaque kemSecret (request : List Byte) (n : Nat) : List Byte
opaque kemAnswer (request : List Byte) (n : Nat) : List Byte
/-- Digest of the boot ROM, and of the factory calibration region (14 R493). -/
opaque bootRom : List Byte
opaque factoryDigest : List Byte
/-- A firmware image (14 R491): whether its format is known, whether its signature verifies under a key certified by the
product authority, its part code and SVN, and whether it is security-engine firmware. The spec gives no layout (log 71). -/
opaque fwFormat (image : List Byte) : Bool
opaque fwSigned (image : List Byte) : Bool
opaque fwPart (image : List Byte) : Nat
opaque fwSvn (image : List Byte) : Nat
opaque fwIsSecurity (image : List Byte) : Bool
/-- SVN fuses as shipped (14 R509). -/
opaque fuseSvn : Nat

/-- A line encrypted, and decrypted, with XTS-AES-256 under a key, at a line number (09 R331): `key` numbers the keys and the
partition of the tweak. -/
opaque xtsEncrypt (key line : Nat) (l : List Byte) : List Byte
opaque xtsDecrypt (key line : Nat) (l : List Byte) : List Byte

/-- The 30 parity symbols of the RS(544,514) codeword of 514 message symbols, the code of IEEE 802.3dj (10 R355, R356), before
they are cut or filled to 30. -/
opaque rsParity (msg : List Nat) : List Nat

/-- DRAM row of a stack that holds a line, and the die of a row: the channel interleave inside a stack is the
undercroft's own (09 R321). -/
opaque dramRow : Nat → Nat
opaque dramDie : Nat → Nat

/-- Whether a tiny result is detected before rounding: IEEE 754-2019 leaves it to the implementer (log 7). -/
opaque tinyBeforeRounding : Bool
/-- Whether a NaN operand with a clear leading significand bit raises the invalid flag (log 7). -/
opaque signalingNaNInvalid : Bool
/-- Whether a fused multiply-add of zero, infinity and a NaN raises the invalid flag (log 7). -/
opaque fmaNaNInvalid : Bool
/-- VMIN and VMAX of operands that IEEE 754-2019 has two operations for: of zeros of both signs, whether the first is the
result; of a NaN and a number, whether the result is a NaN (log 11). -/
opaque minPick (a b : Nat) : Bool
opaque maxPick (a b : Nat) : Bool
/-- Whether VCMPLT raises the invalid flag on a NaN operand (log 7). -/
opaque compareNaNInvalid : Bool
/-- Whether a narrowing to a 16-bit lane records inexact, overflow and underflow (log 7). -/
opaque narrowingFlags : Bool
/-- Whether a conversion to an integral value records inexact (log 7). -/
opaque integralInexact : Bool
/-- Whether a conversion to INT32 records invalid on a NaN or on saturation (log 7). -/
opaque integerInvalid : Bool

end Sys2Proof.Config
end

