-- ==== Sys2Proof/Machine/RegMap.lean ====
section
/-!
DEFINITION. The register map: every register field of BAR0 (00 R5, 01 R27 and the register tables of each chapter) and
of BAR2 (12 R424, R447; its offsets stand above 0x1_0000_0000 here), with its place, width and reset value. A field of
a register array takes the array's indices. A field whose Reset column reads J holds the default that its description
names; one that reads F takes a factory value (log 5). Field names are the spec's, REGISTER_FIELD.
-/
namespace Sys2Proof.Machine

/-- One register field: the register's offset, the field's lowest bit, its width and its reset value. -/
structure Fld where
  base : Nat
  lo : Nat
  width : Nat
  reset : Nat
  deriving DecidableEq, Repr

/-- The number under which a field's value is held. -/
def Fld.key (f : Fld) : Nat := f.base * 64 + f.lo

/-- The field types of 00 R5. `rwl` names its lock; `setOnly` is a lock bit that software can only set (R8);
`own` is a writable field whose write is a command of its own; `wos` is a write-only field whose words the unit keeps. -/
inductive FTy where
  | ro | rw | rw1c | wo | wos | rc | own | setOnly
  | rwl (lock : Fld)
  deriving DecidableEq, Repr

/-- One register of the map: its name, offset, array dimensions (stride and count), width and fields. -/
structure RegRow where
  name : String
  base : Nat
  dims : List (Nat × Nat)
  width : Nat
  flds : Nat → Nat → Nat → List (Fld × FTy)

/-- The die at end A of bundle `n` (11 R409): the lower-numbered gallery, or the gallery of a newel bundle. -/
def dieA (n : Nat) : Nat := if n < 128 then n / 16 else (n - 128) / 2

/-- The die at end B of bundle `n` (11 R409): the next gallery of the ring, or 8 for the newel die. -/
def dieB (n : Nat) : Nat := if n < 128 then (n / 16 + 1) % 8 else 8

namespace Reg
def DEV_IDENT_PART : Fld := ⟨0x0, 16, 16, 47126⟩
def DEV_IDENT_STEPPING : Fld := ⟨0x0, 8, 8, Config.stepping % 256⟩
def DEV_IDENT_GRADE : Fld := ⟨0x0, 4, 4, 1⟩
def PKG_ID_LOCK : Fld := ⟨0x4, 31, 1, 0⟩
def PKG_ID_ID : Fld := ⟨0x4, 0, 14, 0⟩
def PKG_STATE_DETACHED_SEEN : Fld := ⟨0x8, 7, 1, 0⟩
def PKG_STATE_FENCE_ACTIVE : Fld := ⟨0x8, 6, 1, 0⟩
def PKG_STATE_STATE : Fld := ⟨0x8, 0, 4, 0⟩
def PKG_CAPACITY_SPARED_ROWS : Fld := ⟨0xc, 13, 15, 0⟩
def PKG_CAPACITY_ACTIVE_FLIGHTS : Fld := ⟨0xc, 0, 11, 0⟩
def PART_STATE_PART0 : Fld := ⟨0x10, 0, 4, 0⟩
def PART_STATE_PART1 : Fld := ⟨0x10, 4, 4, 0⟩
def PART_STATE_PART2 : Fld := ⟨0x10, 8, 4, 0⟩
def PART_STATE_PART3 : Fld := ⟨0x10, 12, 4, 0⟩
def PART_STATE_PART4 : Fld := ⟨0x10, 16, 4, 0⟩
def PART_STATE_PART5 : Fld := ⟨0x10, 20, 4, 0⟩
def PART_STATE_PART6 : Fld := ⟨0x10, 24, 4, 0⟩
def PART_STATE_PART7 : Fld := ⟨0x10, 28, 4, 0⟩
def COMMITTED_STEP_STEP (p : Nat) : Fld := ⟨0x1000 + p * 0x100, 0, 64, 0⟩
def COMMITTED_INFO_VALID (p : Nat) : Fld := ⟨0x1008 + p * 0x100, 31, 1, 0⟩
def COMMITTED_INFO_SKIPPED (p : Nat) : Fld := ⟨0x1008 + p * 0x100, 30, 1, 0⟩
def COMMITTED_INFO_VERSION (p : Nat) : Fld := ⟨0x1008 + p * 0x100, 24, 4, 0⟩
def COMMITTED_INFO_SKIP_COUNT (p : Nat) : Fld := ⟨0x1008 + p * 0x100, 0, 24, 0⟩
def COMMITTED_JOB_JOB_ID (p : Nat) : Fld := ⟨0x100c + p * 0x100, 0, 32, 0⟩
def HOT_CKPT_STEP_STEP (p : Nat) : Fld := ⟨0x1010 + p * 0x100, 0, 64, 0⟩
def COLD_CKPT_STEP_STEP (p : Nat) : Fld := ⟨0x1018 + p * 0x100, 0, 64, 0⟩
def PWR_BUDGET_HOST_W : Fld := ⟨0x300000, 0, 13, 6000⟩
def PWR_LIMITS_BOARD_W : Fld := ⟨0x300004, 16, 13, 6000⟩
def PWR_LIMITS_EFFECTIVE_W : Fld := ⟨0x300004, 0, 13, 6000⟩
def PWR_STATUS_CONV_WORKING : Fld := ⟨0x300008, 8, 4, 13⟩
def PWR_STATUS_INPUT_LOW : Fld := ⟨0x300008, 7, 1, 0⟩
def PWR_STATUS_THERM_HOT : Fld := ⟨0x300008, 6, 1, 0⟩
def PWR_STATUS_THERM_WARN : Fld := ⟨0x300008, 5, 1, 0⟩
def PWR_STATUS_BAL_SATURATED : Fld := ⟨0x300008, 4, 1, 0⟩
def PWR_STATUS_LSL_ACTIVE : Fld := ⟨0x300008, 3, 1, 0⟩
def PWR_STATUS_AT_FLOOR : Fld := ⟨0x300008, 2, 1, 0⟩
def PWR_STATUS_ADMIT_HELD : Fld := ⟨0x300008, 1, 1, 0⟩
def PWR_STATUS_CUTTING : Fld := ⟨0x300008, 0, 1, 0⟩
def PWR_INPUT_INPUT_W : Fld := ⟨0x30000c, 16, 16, 0⟩
def PWR_INPUT_INPUT_MV : Fld := ⟨0x30000c, 0, 16, 0⟩
def LSL_CTRL_LOCK : Fld := ⟨0x300010, 31, 1, 0⟩
def LSL_CTRL_FALL_EN : Fld := ⟨0x300010, 30, 1, 0⟩
def LSL_CTRL_SLEW : Fld := ⟨0x300010, 0, 6, 10⟩
def BAL_CTRL_ENABLE : Fld := ⟨0x300014, 31, 1, 1⟩
def BAL_CTRL_GAIN : Fld := ⟨0x300014, 16, 8, 8⟩
def BAL_CTRL_DEADBAND : Fld := ⟨0x300014, 8, 8, 20⟩
def BAL_CTRL_STEP_MAX : Fld := ⟨0x300014, 0, 5, 10⟩
def THERM_CTRL_WARN_C : Fld := ⟨0x300018, 0, 8, 95⟩
def THERM_STATUS_HOTTEST_GF : Fld := ⟨0x30001c, 21, 11, 0⟩
def THERM_STATUS_HOTTEST_C : Fld := ⟨0x30001c, 0, 8, 0⟩
def PWR_EVENT_COUNTS_ADMIT_HOLDS : Fld := ⟨0x300020, 16, 16, 0⟩
def PWR_EVENT_COUNTS_WARN_ENTRIES : Fld := ⟨0x300020, 0, 16, 0⟩
def DOMAIN_STATE_STATE (gf : Nat) : Fld := ⟨0x301000 + gf * 0x4, 30, 2, 3⟩
def DOMAIN_STATE_VCODE (gf : Nat) : Fld := ⟨0x301000 + gf * 0x4, 23, 7, 0⟩
def DOMAIN_STATE_TEMP (gf : Nat) : Fld := ⟨0x301000 + gf * 0x4, 15, 8, 0⟩
def DOMAIN_STATE_RATE (gf : Nat) : Fld := ⟨0x301000 + gf * 0x4, 4, 11, 0⟩
def DOMAIN_STATE_HOT (gf : Nat) : Fld := ⟨0x301000 + gf * 0x4, 3, 1, 0⟩
def STAGE_RATE_SATURATED (s : Nat) : Fld := ⟨0x303000 + s * 0x4, 31, 1, 0⟩
def STAGE_RATE_NOMINAL (s : Nat) : Fld := ⟨0x303000 + s * 0x4, 16, 11, 0⟩
def STAGE_RATE_TARGET (s : Nat) : Fld := ⟨0x303000 + s * 0x4, 0, 11, 0⟩
def RIG_CTRL_RELEASE (p : Nat) : Fld := ⟨0x408000 + p * 0x80, 2, 1, 0⟩
def RIG_CTRL_ABORT (p : Nat) : Fld := ⟨0x408000 + p * 0x80, 1, 1, 0⟩
def RIG_CTRL_START (p : Nat) : Fld := ⟨0x408000 + p * 0x80, 0, 1, 0⟩
def RIG_STATUS_STATE (p : Nat) : Fld := ⟨0x408004 + p * 0x80, 28, 4, 0⟩
def RIG_STATUS_ALT_FREE (p : Nat) : Fld := ⟨0x408004 + p * 0x80, 8, 8, 0⟩
def RIG_STATUS_ROLES_MOVED (p : Nat) : Fld := ⟨0x408004 + p * 0x80, 0, 8, 0⟩
def RIG_ERROR_CODE (p : Nat) : Fld := ⟨0x408008 + p * 0x80, 24, 8, 0⟩
def RIG_ERROR_SECTION (p : Nat) : Fld := ⟨0x408008 + p * 0x80, 16, 8, 255⟩
def RIG_ERROR_GF_VALID (p : Nat) : Fld := ⟨0x408008 + p * 0x80, 15, 1, 0⟩
def RIG_ERROR_GF (p : Nat) : Fld := ⟨0x408008 + p * 0x80, 0, 11, 0⟩
def RIG_ERROR_ENTRY_ENTRY (p : Nat) : Fld := ⟨0x40800c + p * 0x80, 0, 32, 4294967295⟩
def RIG_SRC_ADDR_ADDR (p : Nat) : Fld := ⟨0x408010 + p * 0x80, 12, 52, 0⟩
def RIG_SRC_LEN_LEN (p : Nat) : Fld := ⟨0x408018 + p * 0x80, 0, 29, 0⟩
def RIG_MEASURE (p : Nat) (w : Nat) : Fld := ⟨0x408040 + p * 0x80 + w * 0x4, 0, 32, 0⟩
def RERIG_COUNTS_ROLE_MOVES : Fld := ⟨0x408400, 16, 16, 0⟩
def RERIG_COUNTS_ROW_SHIFTS : Fld := ⟨0x408400, 0, 16, 0⟩
def RERIG_LAST_BUSY : Fld := ⟨0x408404, 31, 1, 0⟩
def RERIG_LAST_KIND : Fld := ⟨0x408404, 29, 2, 0⟩
def RERIG_LAST_GF : Fld := ⟨0x408404, 16, 11, 0⟩
def RERIG_LAST_DURATION : Fld := ⟨0x408404, 0, 16, 0⟩
def CHAN_SEL_TICKET (g : Nat) : Fld := ⟨0x1000000 + g * 0x200000, 24, 8, 0⟩
def CHAN_SEL_KIND (g : Nat) : Fld := ⟨0x1000000 + g * 0x200000, 22, 2, 0⟩
def CHAN_SEL_FLIGHT (g : Nat) : Fld := ⟨0x1000000 + g * 0x200000, 14, 8, 0⟩
def CHAN_SEL_ROW (g : Nat) : Fld := ⟨0x1000000 + g * 0x200000, 10, 4, 0⟩
def CHAN_SEL_COL (g : Nat) : Fld := ⟨0x1000000 + g * 0x200000, 5, 5, 0⟩
def CHAN_SEL_INDEX (g : Nat) : Fld := ⟨0x1000000 + g * 0x200000, 0, 5, 0⟩
def CHAN_STATE_TICKET (g : Nat) : Fld := ⟨0x1000004 + g * 0x200000, 24, 8, 0⟩
def CHAN_STATE_VALID (g : Nat) : Fld := ⟨0x1000004 + g * 0x200000, 23, 1, 0⟩
def CHAN_STATE_BLOCKED (g : Nat) : Fld := ⟨0x1000004 + g * 0x200000, 22, 1, 0⟩
def CHAN_STATE_A (g : Nat) : Fld := ⟨0x1000004 + g * 0x200000, 8, 10, 0⟩
def CHAN_STATE_B (g : Nat) : Fld := ⟨0x1000004 + g * 0x200000, 0, 8, 0⟩
def CHAN_HEAD (g : Nat) : Fld := ⟨0x1000008 + g * 0x200000, 0, 32, 0⟩
def CHAN_LIMIT_TICKET (g : Nat) : Fld := ⟨0x100000c + g * 0x200000, 24, 8, 0⟩
def CHAN_LIMIT_LIMIT (g : Nat) : Fld := ⟨0x100000c + g * 0x200000, 0, 5, 0⟩
def TREAD_TRAPS_COUNT (g : Nat) : Fld := ⟨0x1000010 + g * 0x200000, 0, 16, 0⟩
def ROW_REMAP (gf : Nat) (w : Nat) : Fld := ⟨0x1001000 + gf / 148 * 0x200000 + gf % 148 * 0x10 + w * 0x4, 0, 32, 522133279⟩
def STALL_CTRL_ENABLE : Fld := ⟨0x409000, 31, 1, 1⟩
def STALL_CTRL_SCANS : Fld := ⟨0x409000, 16, 8, 4⟩
def STALL_CTRL_PERIOD_US : Fld := ⟨0x409000, 0, 16, 250⟩
def STALL_STATUS_SEEN : Fld := ⟨0x409004, 31, 1, 0⟩
def STALL_STATUS_OPEN : Fld := ⟨0x409004, 0, 16, 0⟩
def STALL_COUNT_COUNT : Fld := ⟨0x409008, 0, 16, 0⟩
def FLT_CFG_SHAPE (gf : Nat) : Fld := ⟨0x1010000 + gf / 148 * 0x200000 + gf % 148 * 0x100, 29, 3, 7⟩
def FLT_CFG_PAIR_ODD (gf : Nat) : Fld := ⟨0x1010000 + gf / 148 * 0x200000 + gf % 148 * 0x100, 28, 1, 0⟩
def FLT_CFG_STAGE_SLOT (gf : Nat) : Fld := ⟨0x1010000 + gf / 148 * 0x200000 + gf % 148 * 0x100, 22, 6, 0⟩
def FLT_CFG_ROLE (gf : Nat) : Fld := ⟨0x1010000 + gf / 148 * 0x200000 + gf % 148 * 0x100, 11, 11, 2047⟩
def FLT_CFG_GF (gf : Nat) : Fld := ⟨0x1010000 + gf / 148 * 0x200000 + gf % 148 * 0x100, 0, 11, (gf % 1184)⟩
def FLT_STATUS_QOCC (gf : Nat) : Fld := ⟨0x1010004 + gf / 148 * 0x200000 + gf % 148 * 0x100, 25, 7, 0⟩
def FLT_STATUS_INPROG (gf : Nat) : Fld := ⟨0x1010004 + gf / 148 * 0x200000 + gf % 148 * 0x100, 17, 8, 0⟩
def FLT_STATUS_REF (gf : Nat) : Fld := ⟨0x1010004 + gf / 148 * 0x200000 + gf % 148 * 0x100, 16, 1, 0⟩
def FLT_STATUS_WAIT_SB (gf : Nat) : Fld := ⟨0x1010004 + gf / 148 * 0x200000 + gf % 148 * 0x100, 15, 1, 0⟩
def FLT_STATUS_WAIT_BANK (gf : Nat) : Fld := ⟨0x1010004 + gf / 148 * 0x200000 + gf % 148 * 0x100, 14, 1, 0⟩
def FLT_STATUS_WAIT_DST (gf : Nat) : Fld := ⟨0x1010004 + gf / 148 * 0x200000 + gf % 148 * 0x100, 13, 1, 0⟩
def FLT_STATUS_WAIT_ADMIT (gf : Nat) : Fld := ⟨0x1010004 + gf / 148 * 0x200000 + gf % 148 * 0x100, 12, 1, 0⟩
def FLT_STATUS_STOPPED (gf : Nat) : Fld := ⟨0x1010004 + gf / 148 * 0x200000 + gf % 148 * 0x100, 11, 1, 0⟩
def FLT_STATUS_LINE_HELD (gf : Nat) : Fld := ⟨0x1010004 + gf / 148 * 0x200000 + gf % 148 * 0x100, 10, 1, 0⟩
def FLT_NONFINITE_SEEN (gf : Nat) : Fld := ⟨0x1010008 + gf / 148 * 0x200000 + gf % 148 * 0x100, 31, 1, 0⟩
def FLT_NONFINITE_ARRAY (gf : Nat) : Fld := ⟨0x1010008 + gf / 148 * 0x200000 + gf % 148 * 0x100, 29, 2, 0⟩
def FLT_NONFINITE_ROW (gf : Nat) : Fld := ⟨0x1010008 + gf / 148 * 0x200000 + gf % 148 * 0x100, 20, 9, 0⟩
def FLT_NONFINITE_COL (gf : Nat) : Fld := ⟨0x1010008 + gf / 148 * 0x200000 + gf % 148 * 0x100, 11, 9, 0⟩
def FLT_NF_TAG_TAG (gf : Nat) : Fld := ⟨0x101000c + gf / 148 * 0x200000 + gf % 148 * 0x100, 0, 16, 0⟩
def FLT_COUNTS_TILES (gf : Nat) : Fld := ⟨0x1010010 + gf / 148 * 0x200000 + gf % 148 * 0x100, 16, 16, 0⟩
def FLT_COUNTS_NONFINITE_TILES (gf : Nat) : Fld := ⟨0x1010010 + gf / 148 * 0x200000 + gf % 148 * 0x100, 0, 16, 0⟩
def FLT_WAITS_SB_WAIT (gf : Nat) : Fld := ⟨0x1010014 + gf / 148 * 0x200000 + gf % 148 * 0x100, 16, 16, 0⟩
def FLT_WAITS_BANK_WAIT (gf : Nat) : Fld := ⟨0x1010014 + gf / 148 * 0x200000 + gf % 148 * 0x100, 0, 16, 0⟩
def FLT_DESC_ERR_CODE (gf : Nat) : Fld := ⟨0x1010018 + gf / 148 * 0x200000 + gf % 148 * 0x100, 24, 8, 0⟩
def FLT_DESC_ERR_TAG (gf : Nat) : Fld := ⟨0x1010018 + gf / 148 * 0x200000 + gf % 148 * 0x100, 0, 16, 0⟩
def FLT_SUMSQ_SUMSQ (gf : Nat) : Fld := ⟨0x101001c + gf / 148 * 0x200000 + gf % 148 * 0x100, 0, 32, 0⟩
def FLT_DST_WAIT_DST_WAIT (gf : Nat) : Fld := ⟨0x1010020 + gf / 148 * 0x200000 + gf % 148 * 0x100, 0, 16, 0⟩
def FLT_PUSH (gf : Nat) (w : Nat) : Fld := ⟨0x1010040 + gf / 148 * 0x200000 + gf % 148 * 0x100 + w * 0x4, 0, 32, 0⟩
def SEQ_CFG_VALID (s : Nat) : Fld := ⟨0x40a000 + s * 0x40, 31, 1, 0⟩
def SEQ_CFG_PARTITION (s : Nat) : Fld := ⟨0x40a000 + s * 0x40, 28, 3, 0⟩
def SEQ_CFG_FIRST (s : Nat) : Fld := ⟨0x40a000 + s * 0x40, 27, 1, 0⟩
def SEQ_CFG_LAST (s : Nat) : Fld := ⟨0x40a000 + s * 0x40, 26, 1, 0⟩
def SEQ_CFG_SEQ_CUT (s : Nat) : Fld := ⟨0x40a000 + s * 0x40, 25, 1, 0⟩
def SEQ_CFG_MODE (s : Nat) : Fld := ⟨0x40a000 + s * 0x40, 24, 1, 0⟩
def SEQ_CFG_MAX_LIVE (s : Nat) : Fld := ⟨0x40a000 + s * 0x40, 20, 4, 0⟩
def SEQ_CFG_STAGE_ID (s : Nat) : Fld := ⟨0x40a000 + s * 0x40, 10, 10, 0⟩
def SEQ_STATUS_STATE (s : Nat) : Fld := ⟨0x40a004 + s * 0x40, 28, 4, 0⟩
def SEQ_STATUS_WAIT_CAUSE (s : Nat) : Fld := ⟨0x40a004 + s * 0x40, 24, 4, 0⟩
def SEQ_STATUS_MB_ID (s : Nat) : Fld := ⟨0x40a004 + s * 0x40, 0, 16, 0⟩
def SEQ_CURRENT_CONTEXT (s : Nat) : Fld := ⟨0x40a008 + s * 0x40, 16, 14, 0⟩
def SEQ_CURRENT_MB_SEQ (s : Nat) : Fld := ⟨0x40a008 + s * 0x40, 0, 12, 0⟩
def SEQ_STEP_STEP (s : Nat) : Fld := ⟨0x40a010 + s * 0x40, 0, 64, 0⟩
def SEQ_PROGRESS_FWD_DONE (s : Nat) : Fld := ⟨0x40a018 + s * 0x40, 16, 16, 0⟩
def SEQ_PROGRESS_BWD_DONE (s : Nat) : Fld := ⟨0x40a018 + s * 0x40, 0, 16, 0⟩
def SEQ_STASH_USED_MIB (s : Nat) : Fld := ⟨0x40a01c + s * 0x40, 16, 16, 0⟩
def SEQ_STASH_LIMIT_MIB (s : Nat) : Fld := ⟨0x40a01c + s * 0x40, 0, 16, 0⟩
def SEQ_QUOTA_QUOTA_MIB (s : Nat) : Fld := ⟨0x40a020 + s * 0x40, 0, 32, 0⟩
def SEQ_COUNTS_SPILLS (s : Nat) : Fld := ⟨0x40a024 + s * 0x40, 16, 16, 0⟩
def SEQ_COUNTS_RECOMPUTES (s : Nat) : Fld := ⟨0x40a024 + s * 0x40, 0, 16, 0⟩
def CTX_SEL_TICKET : Fld := ⟨0x40c000, 24, 8, 0⟩
def CTX_SEL_INDEX : Fld := ⟨0x40c000, 0, 14, 0⟩
def CTX_WORD0_TICKET : Fld := ⟨0x40c004, 24, 8, 0⟩
def CTX_WORD0_STATE : Fld := ⟨0x40c004, 21, 3, 0⟩
def CTX_WORD0_SPILLED : Fld := ⟨0x40c004, 20, 1, 0⟩
def CTX_WORD0_VERSION : Fld := ⟨0x40c004, 16, 4, 0⟩
def CTX_WORD0_MB_ID : Fld := ⟨0x40c004, 0, 16, 0⟩
def CTX_WORD1_STAGE_SLOT : Fld := ⟨0x40c008, 26, 6, 0⟩
def CTX_WORD1_SPILL_LAYER : Fld := ⟨0x40c008, 22, 4, 0⟩
def CTX_WORD1_MB_SEQ : Fld := ⟨0x40c008, 0, 12, 0⟩
def CTX_HANDLE_HANDLE : Fld := ⟨0x40c010, 0, 46, 0⟩
def CTX_STEP_STEP : Fld := ⟨0x40c018, 0, 64, 0⟩
def VER_SLOT_STATE (p : Nat) (k : Nat) : Fld := ⟨0x40d000 + p * 0x40 + k * 0x4, 30, 2, 0⟩
def VER_SLOT_TAG (p : Nat) (k : Nat) : Fld := ⟨0x40d000 + p * 0x40 + k * 0x4, 26, 4, 0⟩
def VER_SLOT_REFS (p : Nat) (k : Nat) : Fld := ⟨0x40d000 + p * 0x40 + k * 0x4, 14, 12, 0⟩
def VER_SLOT_COUNT (p : Nat) (k : Nat) : Fld := ⟨0x40d000 + p * 0x40 + k * 0x4, 0, 14, 0⟩
def VER_COUNT_COUNT (p : Nat) : Fld := ⟨0x40d200 + p * 0x8, 0, 64, 0⟩
def LAND_CFG_VALID (n : Nat) : Fld := ⟨0x1020000 + n / 64 * 0x200000 + n % 64 * 0x20, 31, 1, 0⟩
def LAND_CFG_PARTITION (n : Nat) : Fld := ⟨0x1020000 + n / 64 * 0x200000 + n % 64 * 0x20, 28, 3, 0⟩
def LAND_CFG_KIND (n : Nat) : Fld := ⟨0x1020000 + n / 64 * 0x200000 + n % 64 * 0x20, 26, 2, 0⟩
def LAND_CFG_CREDITS (n : Nat) : Fld := ⟨0x1020000 + n / 64 * 0x200000 + n % 64 * 0x20, 17, 9, 0⟩
def LAND_CFG_ROPE (n : Nat) : Fld := ⟨0x1020000 + n / 64 * 0x200000 + n % 64 * 0x20, 12, 5, 0⟩
def LAND_CFG_VC (n : Nat) : Fld := ⟨0x1020000 + n / 64 * 0x200000 + n % 64 * 0x20, 9, 3, 0⟩
def LAND_CFG_LANDING (n : Nat) : Fld := ⟨0x1020000 + n / 64 * 0x200000 + n % 64 * 0x20, 0, 9, (n % 512)⟩
def LAND_STATUS_OCC (n : Nat) : Fld := ⟨0x1020004 + n / 64 * 0x200000 + n % 64 * 0x20, 23, 9, 0⟩
def LAND_STATUS_LIMIT (n : Nat) : Fld := ⟨0x1020004 + n / 64 * 0x200000 + n % 64 * 0x20, 14, 9, 0⟩
def LAND_STATUS_CREDIT (n : Nat) : Fld := ⟨0x1020004 + n / 64 * 0x200000 + n % 64 * 0x20, 0, 10, 0⟩
def LAND_LIMIT_LIMIT (n : Nat) : Fld := ⟨0x1020008 + n / 64 * 0x200000 + n % 64 * 0x20, 0, 9, 0⟩
def LAND_COUNTS_PUSHED (n : Nat) : Fld := ⟨0x102000c + n / 64 * 0x200000 + n % 64 * 0x20, 16, 16, 0⟩
def LAND_COUNTS_ERRORS (n : Nat) : Fld := ⟨0x102000c + n / 64 * 0x200000 + n % 64 * 0x20, 0, 16, 0⟩
def SCHED_LR_LR (p : Nat) (i : Nat) : Fld := ⟨0x404000 + p * 0x200 + i * 0x40, 0, 32, 0⟩
def SCHED_WD_WD (p : Nat) (i : Nat) : Fld := ⟨0x404004 + p * 0x200 + i * 0x40, 0, 32, 0⟩
def SCHED_MOM_MOM (p : Nat) (i : Nat) : Fld := ⟨0x404008 + p * 0x200 + i * 0x40, 0, 32, 0⟩
def SCHED_SCALE_LR_SCALE (p : Nat) (i : Nat) : Fld := ⟨0x40400c + p * 0x200 + i * 0x40, 0, 32, 1065353216⟩
def SCHED_STATUS_VALID (p : Nat) (i : Nat) : Fld := ⟨0x404010 + p * 0x200 + i * 0x40, 31, 1, 0⟩
def SCHED_STATUS_SCALE_PENDING (p : Nat) (i : Nat) : Fld := ⟨0x404010 + p * 0x200 + i * 0x40, 30, 1, 0⟩
def SCHED_STATUS_CYCLE (p : Nat) (i : Nat) : Fld := ⟨0x404010 + p * 0x200 + i * 0x40, 16, 8, 0⟩
def RED_STATUS_NEXT_BUCKET (s : Nat) : Fld := ⟨0x40e000 + s * 0x20, 20, 12, 0⟩
def RED_STATUS_NEXT_GATHER (s : Nat) : Fld := ⟨0x40e000 + s * 0x20, 8, 12, 0⟩
def RED_STATUS_WAIT (s : Nat) : Fld := ⟨0x40e000 + s * 0x20, 4, 4, 0⟩
def RED_COUNTS_BUCKETS (s : Nat) : Fld := ⟨0x40e004 + s * 0x20, 16, 16, 0⟩
def RED_COUNTS_ORDER_ERRORS (s : Nat) : Fld := ⟨0x40e004 + s * 0x20, 0, 16, 0⟩
def RED_CFG_POS (s : Nat) : Fld := ⟨0x40e008 + s * 0x20, 16, 10, 0⟩
def RED_CFG_R_MINUS1 (s : Nat) : Fld := ⟨0x40e008 + s * 0x20, 0, 10, 0⟩
def GATE_STATUS_VALID (p : Nat) : Fld := ⟨0x40e800 + p * 0x20, 31, 1, 0⟩
def GATE_STATUS_SOURCE (p : Nat) : Fld := ⟨0x40e800 + p * 0x20, 28, 3, 0⟩
def GATE_STATUS_STAGE_SLOT (p : Nat) : Fld := ⟨0x40e800 + p * 0x20, 22, 6, 0⟩
def GATE_STATUS_BUCKET (p : Nat) : Fld := ⟨0x40e800 + p * 0x20, 0, 12, 0⟩
def UPD_SEL_INDEX (p : Nat) : Fld := ⟨0x40e804 + p * 0x20, 0, 16, 0⟩
def UPD_RATIO_RATIO (p : Nat) : Fld := ⟨0x40e808 + p * 0x20, 0, 32, 0⟩
def UPD_COUNTS_RATIO_HIGH (p : Nat) : Fld := ⟨0x40e80c + p * 0x20, 16, 16, 0⟩
def UPD_COUNTS_REFRESHES (p : Nat) : Fld := ⟨0x40e80c + p * 0x20, 0, 16, 0⟩
def UC_IDENT_CAP_GIB (u : Nat) : Fld := ⟨0x2000000 + u * 0x100000, 8, 8, 64⟩
def UC_IDENT_STACK (u : Nat) : Fld := ⟨0x2000000 + u * 0x100000, 0, 4, (u % 16)⟩
def UC_STATUS_GATHER_STOPPED (u : Nat) : Fld := ⟨0x2000004 + u * 0x100000, 31, 1, 0⟩
def UC_STATUS_CONV_STOPPED (u : Nat) : Fld := ⟨0x2000004 + u * 0x100000, 30, 1, 0⟩
def UC_STATUS_GQ_OCC (u : Nat) : Fld := ⟨0x2000004 + u * 0x100000, 24, 6, 0⟩
def UC_STATUS_CQ_OCC (u : Nat) : Fld := ⟨0x2000004 + u * 0x100000, 18, 6, 0⟩
def UC_STATUS_SWEEP_ACTIVE (u : Nat) : Fld := ⟨0x2000004 + u * 0x100000, 17, 1, 0⟩
def UC_STATUS_PATROL_ACTIVE (u : Nat) : Fld := ⟨0x2000004 + u * 0x100000, 16, 1, 0⟩
def UC_STATUS_LINE_HELD (u : Nat) : Fld := ⟨0x2000004 + u * 0x100000, 15, 1, 0⟩
def UC_DESC_ERR_CODE (u : Nat) : Fld := ⟨0x2000008 + u * 0x100000, 24, 8, 0⟩
def UC_DESC_ERR_QUEUE (u : Nat) : Fld := ⟨0x2000008 + u * 0x100000, 20, 4, 0⟩
def UC_DESC_ERR_TAG (u : Nat) : Fld := ⟨0x2000008 + u * 0x100000, 0, 16, 0⟩
def UC_LINE_COUNTS_REREAD_OK (u : Nat) : Fld := ⟨0x2000010 + u * 0x100000, 16, 16, 0⟩
def UC_LINE_COUNTS_LOST (u : Nat) : Fld := ⟨0x2000010 + u * 0x100000, 0, 16, 0⟩
def UC_LINE_LAST_KIND (u : Nat) : Fld := ⟨0x2000018 + u * 0x100000, 60, 4, 15⟩
def UC_LINE_LAST_PARTITION (u : Nat) : Fld := ⟨0x2000018 + u * 0x100000, 57, 3, 0⟩
def UC_LINE_LAST_OFFSET (u : Nat) : Fld := ⟨0x2000018 + u * 0x100000, 0, 46, 0⟩
def UC_PATROL_ENABLE (u : Nat) : Fld := ⟨0x2000020 + u * 0x100000, 31, 1, 1⟩
def UC_PATROL_PROGRESS (u : Nat) : Fld := ⟨0x2000020 + u * 0x100000, 8, 8, 0⟩
def UC_PATROL_PERIOD_H (u : Nat) : Fld := ⟨0x2000020 + u * 0x100000, 0, 8, 24⟩
def UC_REPAIR_REPAIRS (u : Nat) : Fld := ⟨0x2000024 + u * 0x100000, 8, 8, 0⟩
def UC_REPAIR_SPARES_LEFT (u : Nat) : Fld := ⟨0x2000024 + u * 0x100000, 0, 8, Config.sparesLeft u % 256⟩
def UC_QUOTA_WEIGHT (u : Nat) (p : Nat) : Fld := ⟨0x2000100 + u * 0x100000 + p * 0x10, 24, 8, 16⟩
def UC_QUOTA_REQ_LIMIT (u : Nat) (p : Nat) : Fld := ⟨0x2000100 + u * 0x100000 + p * 0x10, 0, 13, 1024⟩
def UC_REQ_OUTSTANDING (u : Nat) (p : Nat) : Fld := ⟨0x2000104 + u * 0x100000 + p * 0x10, 16, 13, 0⟩
def UC_REQ_CREDIT (u : Nat) (p : Nat) : Fld := ⟨0x2000104 + u * 0x100000 + p * 0x10, 0, 14, 1024⟩
def UC_KEY_CUR_SLOT (u : Nat) (p : Nat) : Fld := ⟨0x2000108 + u * 0x100000 + p * 0x10, 31, 1, 0⟩
def UC_KEY_SWEEP_ACTIVE (u : Nat) (p : Nat) : Fld := ⟨0x2000108 + u * 0x100000 + p * 0x10, 30, 1, 0⟩
def UC_KEY_KEYED (u : Nat) (p : Nat) : Fld := ⟨0x2000108 + u * 0x100000 + p * 0x10, 29, 1, 0⟩
def UC_KEY_SWEEP_PCT (u : Nat) (p : Nat) : Fld := ⟨0x2000108 + u * 0x100000 + p * 0x10, 0, 8, 0⟩
def UC_SPARSE_WAITING (u : Nat) (p : Nat) : Fld := ⟨0x200010c + u * 0x100000 + p * 0x10, 24, 8, 0⟩
def UC_SPARSE_HELD (u : Nat) (p : Nat) : Fld := ⟨0x200010c + u * 0x100000 + p * 0x10, 16, 8, 0⟩
def UC_SPARSE_ROWS (u : Nat) (p : Nat) : Fld := ⟨0x200010c + u * 0x100000 + p * 0x10, 0, 16, 0⟩
def UC_GATHER_PUSH (u : Nat) (w : Nat) : Fld := ⟨0x2000200 + u * 0x100000 + w * 0x4, 0, 32, 0⟩
def UC_CONV_PUSH (u : Nat) (w : Nat) : Fld := ⟨0x2000280 + u * 0x100000 + w * 0x4, 0, 32, 0⟩
def ROPE_STATUS_STATE (k : Nat) : Fld := ⟨0x800000 + k * 0x20000, 28, 4, 0⟩
def ROPE_STATUS_WIDTH (k : Nat) : Fld := ⟨0x800000 + k * 0x20000, 24, 4, 0⟩
def ROPE_STATUS_ACTIVE (k : Nat) : Fld := ⟨0x800000 + k * 0x20000, 16, 8, 0⟩
def ROPE_STATUS_GOOD (k : Nat) : Fld := ⟨0x800000 + k * 0x20000, 8, 8, 0⟩
def ROPE_STATUS_OPTICAL (k : Nat) : Fld := ⟨0x800000 + k * 0x20000, 7, 1, (if 6 ≤ k then 1 else 0)⟩
def ROPE_CTRL_ENABLE (k : Nat) : Fld := ⟨0x800004 + k * 0x20000, 31, 1, 1⟩
def ROPE_CTRL_RETRAIN (k : Nat) : Fld := ⟨0x800004 + k * 0x20000, 30, 1, 0⟩
def ROPE_CTRL_MIN_WIDTH (k : Nat) : Fld := ⟨0x800004 + k * 0x20000, 24, 4, 4⟩
def ROPE_CTRL_STRAND_OFF (k : Nat) : Fld := ⟨0x800004 + k * 0x20000, 16, 8, 0⟩
def ROPE_CTRL_GRACE_US (k : Nat) : Fld := ⟨0x800004 + k * 0x20000, 0, 16, 10000⟩
def ROPE_PEER_PEER_ID (k : Nat) : Fld := ⟨0x800008 + k * 0x20000, 18, 14, 0⟩
def ROPE_PEER_PEER_ROPE (k : Nat) : Fld := ⟨0x800008 + k * 0x20000, 13, 5, 0⟩
def ROPE_PEER_VALID (k : Nat) : Fld := ⟨0x800008 + k * 0x20000, 12, 1, 0⟩
def ROPE_SESSION_LOCAL (k : Nat) : Fld := ⟨0x80000c + k * 0x20000, 16, 16, 0⟩
def ROPE_SESSION_PEER (k : Nat) : Fld := ⟨0x80000c + k * 0x20000, 0, 16, 65535⟩
def ROPE_SEQ_TX_NEXT (k : Nat) : Fld := ⟨0x800010 + k * 0x20000, 16, 12, 0⟩
def ROPE_SEQ_TX_OLDEST (k : Nat) : Fld := ⟨0x800010 + k * 0x20000, 0, 12, 0⟩
def ROPE_RXSEQ_HELD (k : Nat) : Fld := ⟨0x800014 + k * 0x20000, 12, 11, 0⟩
def ROPE_RXSEQ_RX_EXPECT (k : Nat) : Fld := ⟨0x800014 + k * 0x20000, 0, 12, 0⟩
def ROPE_COUNTS_REPLAYS (k : Nat) : Fld := ⟨0x800018 + k * 0x20000, 24, 8, 0⟩
def ROPE_COUNTS_NAKS (k : Nat) : Fld := ⟨0x800018 + k * 0x20000, 16, 8, 0⟩
def ROPE_COUNTS_DUPS (k : Nat) : Fld := ⟨0x800018 + k * 0x20000, 8, 8, 0⟩
def ROPE_COUNTS_FLUSHES (k : Nat) : Fld := ⟨0x800018 + k * 0x20000, 0, 8, 0⟩
def ROPE_BER_CFG_WINDOW_LOG2 (k : Nat) : Fld := ⟨0x80001c + k * 0x20000, 24, 5, 24⟩
def ROPE_BER_CFG_CORR_WARN (k : Nat) : Fld := ⟨0x80001c + k * 0x20000, 12, 12, 256⟩
def ROPE_BER_CFG_UNCORR_MAX (k : Nat) : Fld := ⟨0x80001c + k * 0x20000, 0, 12, 8⟩
def ROPE_BER_LAST_CORR_K (k : Nat) : Fld := ⟨0x800020 + k * 0x20000, 16, 16, 0⟩
def ROPE_BER_LAST_BAD (k : Nat) : Fld := ⟨0x800020 + k * 0x20000, 0, 16, 0⟩
def ROPE_STRAND_ERR_UNCORR (k : Nat) : Fld := ⟨0x800024 + k * 0x20000, 0, 32, 0⟩
def ROPE_VC_STATUS_OPEN (k : Nat) (v : Nat) : Fld := ⟨0x800040 + k * 0x20000 + v * 0x8, 31, 1, 0⟩
def ROPE_VC_STATUS_PARTITION (k : Nat) (v : Nat) : Fld := ⟨0x800040 + k * 0x20000 + v * 0x8, 28, 3, 0⟩
def ROPE_VC_STATUS_ENC (k : Nat) (v : Nat) : Fld := ⟨0x800040 + k * 0x20000 + v * 0x8, 27, 1, 0⟩
def ROPE_VC_STATUS_KEY_EPOCH (k : Nat) (v : Nat) : Fld := ⟨0x800040 + k * 0x20000 + v * 0x8, 26, 1, 0⟩
def ROPE_VC_STATUS_LIMIT (k : Nat) (v : Nat) : Fld := ⟨0x800040 + k * 0x20000 + v * 0x8, 16, 10, 504⟩
def ROPE_VC_STATUS_CREDIT (k : Nat) (v : Nat) : Fld := ⟨0x800040 + k * 0x20000 + v * 0x8, 0, 10, 504⟩
def ROPE_VC_LIMIT_LIMIT (k : Nat) (v : Nat) : Fld := ⟨0x800044 + k * 0x20000 + v * 0x8, 0, 10, 0⟩
def LASER_STATUS_STATE (m : Nat) : Fld := ⟨0x70c000 + m * 0x100, 28, 4, 0⟩
def LASER_STATUS_UNKNOWN_HISTORY (m : Nat) : Fld := ⟨0x70c000 + m * 0x100, 27, 1, 0⟩
def LASER_STATUS_WARN (m : Nat) : Fld := ⟨0x70c000 + m * 0x100, 26, 1, 0⟩
def LASER_STATUS_EOL (m : Nat) : Fld := ⟨0x70c000 + m * 0x100, 25, 1, 0⟩
def LASER_STATUS_LIT (m : Nat) : Fld := ⟨0x70c000 + m * 0x100, 16, 8, 0⟩
def LASER_STATUS_FAILED (m : Nat) : Fld := ⟨0x70c000 + m * 0x100, 8, 8, 0⟩
def LASER_STATUS_TEMP_C (m : Nat) : Fld := ⟨0x70c000 + m * 0x100, 0, 8, 0⟩
def LASER_CTRL_RELEASE (m : Nat) : Fld := ⟨0x70c004 + m * 0x100, 1, 1, 0⟩
def LASER_CTRL_RELIGHT (m : Nat) : Fld := ⟨0x70c004 + m * 0x100, 0, 1, 0⟩
def LASER_SERIAL (m : Nat) (w : Nat) : Fld := ⟨0x70c010 + m * 0x100 + w * 0x4, 0, 32, 0⟩
def LASER_VENDOR (m : Nat) (w : Nat) : Fld := ⟨0x70c020 + m * 0x100 + w * 0x4, 0, 32, 0⟩
def LASER_LIFE_HOURS (m : Nat) (j : Nat) : Fld := ⟨0x70c040 + m * 0x100 + j * 0x4, 0, 32, 0⟩
def LASER_CFG_WARN_PCT : Fld := ⟨0x70c800, 24, 8, 80⟩
def LASER_CFG_RATED_KH : Fld := ⟨0x70c800, 0, 16, 80⟩
def FAB_ERR_STATUS_SEEN : Fld := ⟨0xc00000, 31, 1, 0⟩
def FAB_ERR_STATUS_PARTITION : Fld := ⟨0xc00000, 28, 3, 0⟩
def FAB_ERR_STATUS_STATUS : Fld := ⟨0xc00000, 24, 4, 0⟩
def FAB_ERR_STATUS_AGENT : Fld := ⟨0xc00000, 20, 4, 0⟩
def FAB_ERR_STATUS_OP : Fld := ⟨0xc00000, 16, 4, 0⟩
def FAB_ERR_STATUS_FUNC : Fld := ⟨0xc00000, 8, 8, 0⟩
def FAB_ERR_ADDR_ADDR : Fld := ⟨0xc00008, 0, 64, 0⟩
def FAB_ERR_COUNTS_ERRORS : Fld := ⟨0xc00010, 16, 16, 0⟩
def FAB_ERR_COUNTS_NO_ROUTE : Fld := ⟨0xc00010, 0, 16, 0⟩
def DL_STATUS_STATE (n : Nat) : Fld := ⟨0xc10000 + n * 0x100, 28, 4, 0⟩
def DL_STATUS_RATE (n : Nat) : Fld := ⟨0xc10000 + n * 0x100, 26, 2, 0⟩
def DL_STATUS_WIDTH (n : Nat) : Fld := ⟨0xc10000 + n * 0x100, 24, 2, 0⟩
def DL_STATUS_HALF (n : Nat) : Fld := ⟨0xc10000 + n * 0x100, 23, 1, 0⟩
def DL_STATUS_ATTEMPTS (n : Nat) : Fld := ⟨0xc10000 + n * 0x100, 21, 2, 0⟩
def DL_STATUS_END_A (n : Nat) : Fld := ⟨0xc10000 + n * 0x100, 16, 4, dieA n⟩
def DL_STATUS_END_B (n : Nat) : Fld := ⟨0xc10000 + n * 0x100, 12, 4, dieB n⟩
def DL_STATUS_ATOMIC (n : Nat) : Fld := ⟨0xc10000 + n * 0x100, 9, 1, 0⟩
def DL_STATUS_CHANNELS (n : Nat) : Fld := ⟨0xc10000 + n * 0x100, 5, 4, 0⟩
def DL_CTRL_ENABLE (n : Nat) : Fld := ⟨0xc10004 + n * 0x100, 31, 1, 1⟩
def DL_CTRL_RESET (n : Nat) : Fld := ⟨0xc10004 + n * 0x100, 30, 1, 0⟩
def DL_CTRL_RETEST (n : Nat) : Fld := ⟨0xc10004 + n * 0x100, 29, 1, 0⟩
def DL_CAP_MAJOR (n : Nat) : Fld := ⟨0xc10008 + n * 0x100, 28, 4, 0⟩
def DL_CAP_MINOR (n : Nat) : Fld := ⟨0xc10008 + n * 0x100, 24, 4, 0⟩
def DL_CAP_GENERATION (n : Nat) : Fld := ⟨0xc10008 + n * 0x100, 16, 8, 0⟩
def DL_CAP_VENDOR (n : Nat) : Fld := ⟨0xc10008 + n * 0x100, 0, 16, 0⟩
def DL_SPLICE_AB_JOURNAL (n : Nat) : Fld := ⟨0xc1000c + n * 0x100, 28, 4, 0⟩
def DL_SPLICE_AB_VALID_0 (n : Nat) : Fld := ⟨0xc1000c + n * 0x100, 6, 1, (if (Config.factorySplice n 0 0).isSome then 1 else 0)⟩
def DL_SPLICE_AB_LANE_0 (n : Nat) : Fld := ⟨0xc1000c + n * 0x100, 0, 6, ((Config.factorySplice n 0 0).getD 0 % 64)⟩
def DL_SPLICE_AB_VALID_1 (n : Nat) : Fld := ⟨0xc1000c + n * 0x100, 13, 1, (if (Config.factorySplice n 0 1).isSome then 1 else 0)⟩
def DL_SPLICE_AB_LANE_1 (n : Nat) : Fld := ⟨0xc1000c + n * 0x100, 7, 6, ((Config.factorySplice n 0 1).getD 0 % 64)⟩
def DL_SPLICE_AB_VALID_2 (n : Nat) : Fld := ⟨0xc1000c + n * 0x100, 20, 1, (if (Config.factorySplice n 0 2).isSome then 1 else 0)⟩
def DL_SPLICE_AB_LANE_2 (n : Nat) : Fld := ⟨0xc1000c + n * 0x100, 14, 6, ((Config.factorySplice n 0 2).getD 0 % 64)⟩
def DL_SPLICE_AB_VALID_3 (n : Nat) : Fld := ⟨0xc1000c + n * 0x100, 27, 1, (if (Config.factorySplice n 0 3).isSome then 1 else 0)⟩
def DL_SPLICE_AB_LANE_3 (n : Nat) : Fld := ⟨0xc1000c + n * 0x100, 21, 6, ((Config.factorySplice n 0 3).getD 0 % 64)⟩
def DL_SPLICE_BA_JOURNAL (n : Nat) : Fld := ⟨0xc10010 + n * 0x100, 28, 4, 0⟩
def DL_SPLICE_BA_VALID_0 (n : Nat) : Fld := ⟨0xc10010 + n * 0x100, 6, 1, (if (Config.factorySplice n 1 0).isSome then 1 else 0)⟩
def DL_SPLICE_BA_LANE_0 (n : Nat) : Fld := ⟨0xc10010 + n * 0x100, 0, 6, ((Config.factorySplice n 1 0).getD 0 % 64)⟩
def DL_SPLICE_BA_VALID_1 (n : Nat) : Fld := ⟨0xc10010 + n * 0x100, 13, 1, (if (Config.factorySplice n 1 1).isSome then 1 else 0)⟩
def DL_SPLICE_BA_LANE_1 (n : Nat) : Fld := ⟨0xc10010 + n * 0x100, 7, 6, ((Config.factorySplice n 1 1).getD 0 % 64)⟩
def DL_SPLICE_BA_VALID_2 (n : Nat) : Fld := ⟨0xc10010 + n * 0x100, 20, 1, (if (Config.factorySplice n 1 2).isSome then 1 else 0)⟩
def DL_SPLICE_BA_LANE_2 (n : Nat) : Fld := ⟨0xc10010 + n * 0x100, 14, 6, ((Config.factorySplice n 1 2).getD 0 % 64)⟩
def DL_SPLICE_BA_VALID_3 (n : Nat) : Fld := ⟨0xc10010 + n * 0x100, 27, 1, (if (Config.factorySplice n 1 3).isSome then 1 else 0)⟩
def DL_SPLICE_BA_LANE_3 (n : Nat) : Fld := ⟨0xc10010 + n * 0x100, 21, 6, ((Config.factorySplice n 1 3).getD 0 % 64)⟩
def DL_COUNTS_REPLAYS (n : Nat) : Fld := ⟨0xc10014 + n * 0x100, 24, 8, 0⟩
def DL_COUNTS_CRC_ERRORS (n : Nat) : Fld := ⟨0xc10014 + n * 0x100, 16, 8, 0⟩
def DL_COUNTS_RETRAINS (n : Nat) : Fld := ⟨0xc10014 + n * 0x100, 8, 8, 0⟩
def HCE_RING_BASE (e : Nat) : Fld := ⟨0x100000 + e * 0x100, 12, 52, 0⟩
def HCE_RING_LOG2 (e : Nat) : Fld := ⟨0x100000 + e * 0x100, 0, 5, 4⟩
def HCE_CPL_BASE (e : Nat) : Fld := ⟨0x100008 + e * 0x100, 12, 52, 0⟩
def HCE_CTRL_ENABLE (e : Nat) : Fld := ⟨0x100010 + e * 0x100, 31, 1, 0⟩
def HCE_CTRL_RESUME (e : Nat) : Fld := ⟨0x100010 + e * 0x100, 30, 1, 0⟩
def HCE_STATUS_STATE (e : Nat) : Fld := ⟨0x100014 + e * 0x100, 28, 4, 0⟩
def HCE_STATUS_DB_AHEAD (e : Nat) : Fld := ⟨0x100014 + e * 0x100, 27, 1, 0⟩
def HCE_STATUS_INFLIGHT (e : Nat) : Fld := ⟨0x100014 + e * 0x100, 24, 3, 0⟩
def HCE_STATUS_HEAD (e : Nat) : Fld := ⟨0x100014 + e * 0x100, 0, 16, 0⟩
def HCE_COUNTS_DESCS (e : Nat) : Fld := ⟨0x100018 + e * 0x100, 16, 16, 0⟩
def HCE_COUNTS_DB_AHEADS (e : Nat) : Fld := ⟨0x100018 + e * 0x100, 0, 16, 0⟩
def HCE_DB_TAIL (e : Nat) : Fld := ⟨0x100000000 + 0x80000 + e * 0x1000, 0, 16, 0⟩
def HP_STATUS_LINK : Fld := ⟨0x200000, 28, 4, 0⟩
def HP_STATUS_SPEED : Fld := ⟨0x200000, 24, 4, 0⟩
def HP_STATUS_WIDTH : Fld := ⟨0x200000, 19, 5, 0⟩
def HP_STATUS_DETACHED : Fld := ⟨0x200000, 18, 1, 0⟩
def HP_STATUS_FLIT : Fld := ⟨0x200000, 17, 1, 0⟩
def HP_STATUS_IDE_LINK : Fld := ⟨0x200000, 16, 1, 0⟩
def HP_COUNTS_DETACHES : Fld := ⟨0x200004, 24, 8, 0⟩
def HP_COUNTS_RETRAINS : Fld := ⟨0x200004, 16, 8, 0⟩
def BIND_CTRL_LOCK : Fld := ⟨0x200010, 31, 1, 0⟩
def BIND_CTRL_DROPPED : Fld := ⟨0x200010, 0, 16, 0⟩
def BIND_MB_VALID (c : Nat) : Fld := ⟨0x200100 + c * 0x4, 31, 1, (if c < 3 then 1 else 0)⟩
def BIND_MB_FUNC (c : Nat) : Fld := ⟨0x200100 + c * 0x4, 27, 4, 0⟩
def BIND_MB_VECTOR (c : Nat) : Fld := ⟨0x200100 + c * 0x4, 16, 11, 0⟩
def BIND_MB_SERVICE (c : Nat) : Fld := ⟨0x200100 + c * 0x4, 8, 8, 0⟩
def BIND_HCE_VALID (e : Nat) : Fld := ⟨0x200200 + e * 0x4, 31, 1, 0⟩
def BIND_HCE_FUNC (e : Nat) : Fld := ⟨0x200200 + e * 0x4, 27, 4, 0⟩
def BIND_HCE_VECTOR (e : Nat) : Fld := ⟨0x200200 + e * 0x4, 16, 11, 0⟩
def BIND_HCE_PARTITION (e : Nat) : Fld := ⟨0x200200 + e * 0x4, 12, 3, 0⟩
def EVT_BASE_BASE (f : Nat) : Fld := ⟨0x201000 + f * 0x40, 12, 52, 0⟩
def EVT_BASE_LOG2 (f : Nat) : Fld := ⟨0x201000 + f * 0x40, 0, 5, 12⟩
def EVT_CFG_ENABLE (f : Nat) : Fld := ⟨0x201008 + f * 0x40, 31, 1, 0⟩
def EVT_CFG_IRQ_EN (f : Nat) : Fld := ⟨0x201008 + f * 0x40, 30, 1, 0⟩
def EVT_CFG_VECTOR (f : Nat) : Fld := ⟨0x201008 + f * 0x40, 0, 10, 0⟩
def EVT_HEAD_HEAD (f : Nat) : Fld := ⟨0x20100c + f * 0x40, 0, 24, 0⟩
def EVT_TAIL_TAIL (f : Nat) : Fld := ⟨0x201010 + f * 0x40, 0, 24, 0⟩
def EVT_COUNTS_RING_FULL (f : Nat) : Fld := ⟨0x201014 + f * 0x40, 16, 16, 0⟩
def EVT_COUNTS_DROPPED (f : Nat) : Fld := ⟨0x201014 + f * 0x40, 0, 16, 0⟩
def EVT_PENDING_COUNT (f : Nat) : Fld := ⟨0x201018 + f * 0x40, 0, 11, 0⟩
def PLC_CFG_VALID (i : Nat) : Fld := ⟨0x202000 + i * 0x10, 31, 1, 0⟩
def PLC_CFG_READ (i : Nat) : Fld := ⟨0x202000 + i * 0x10, 30, 1, 0⟩
def PLC_CFG_WRITE (i : Nat) : Fld := ⟨0x202000 + i * 0x10, 29, 1, 0⟩
def PLC_CFG_PARTITION (i : Nat) : Fld := ⟨0x202000 + i * 0x10, 24, 3, 0⟩
def PLC_CFG_RID (i : Nat) : Fld := ⟨0x202000 + i * 0x10, 0, 16, 0⟩
def PLC_WIN_LEN_M1 (i : Nat) : Fld := ⟨0x202004 + i * 0x10, 16, 15, 0⟩
def PLC_WIN_OFF_2M (i : Nat) : Fld := ⟨0x202004 + i * 0x10, 0, 15, 0⟩
def PLC_BASE_BASE (i : Nat) : Fld := ⟨0x202008 + i * 0x10, 21, 25, 0⟩
def PLC_ERR_CODE : Fld := ⟨0x202400, 24, 8, 0⟩
def PLC_ERR_ENTRY : Fld := ⟨0x202400, 0, 6, 0⟩
def PLC_REJECT_COUNT : Fld := ⟨0x202404, 16, 16, 0⟩
def PLC_REJECT_LAST_RID : Fld := ⟨0x202404, 0, 16, 0⟩
def BNC_BASE_BASE (k : Nat) : Fld := ⟨0x203000 + k * 0x10, 12, 52, 0⟩
def BNC_BASE_LOG2 (k : Nat) : Fld := ⟨0x203000 + k * 0x10, 0, 5, 16⟩
def BNC_STATUS_READY (k : Nat) : Fld := ⟨0x203008 + k * 0x10, 31, 1, 0⟩
def BNC_STATUS_ERROR (k : Nat) : Fld := ⟨0x203008 + k * 0x10, 30, 1, 0⟩
def MB_H2P (c : Nat) : Fld := ⟨0x100000000 + 0x0 + c * 0x2000, 0, 32, 0⟩
def MB_H2P_PEND (c : Nat) : Fld := ⟨0x100000000 + 0x4 + c * 0x2000, 0, 32, 0⟩
def MB_P2H (c : Nat) : Fld := ⟨0x100000000 + 0x8 + c * 0x2000, 0, 32, 0⟩
def MB_P2H_MASK (c : Nat) : Fld := ⟨0x100000000 + 0xc + c * 0x2000, 0, 32, 4294967295⟩
def MB_H2P_MSG (c : Nat) (w : Nat) : Fld := ⟨0x100000000 + 0x1000 + c * 0x2000 + w * 0x4, 0, 32, 0⟩
def MB_P2H_MSG (c : Nat) (w : Nat) : Fld := ⟨0x100000000 + 0x1800 + c * 0x2000 + w * 0x4, 0, 32, 0⟩
def STEP_CTRL_TAKEOVER (p : Nat) : Fld := ⟨0x400000 + p * 0x80, 3, 1, 0⟩
def STEP_CTRL_HALT (p : Nat) : Fld := ⟨0x400000 + p * 0x80, 2, 1, 0⟩
def STEP_CTRL_REWIND (p : Nat) : Fld := ⟨0x400000 + p * 0x80, 1, 1, 0⟩
def STEP_CTRL_START (p : Nat) : Fld := ⟨0x400000 + p * 0x80, 0, 1, 0⟩
def STEP_STATUS_STATE (p : Nat) : Fld := ⟨0x400004 + p * 0x80, 28, 4, 0⟩
def STEP_STATUS_CAUSE (p : Nat) : Fld := ⟨0x400004 + p * 0x80, 24, 4, 0⟩
def STEP_STATUS_JOINED (p : Nat) : Fld := ⟨0x400004 + p * 0x80, 8, 8, 0⟩
def STEP_BASE_STEP (p : Nat) : Fld := ⟨0x400008 + p * 0x80, 0, 64, 0⟩
def STEP_VBASE_COUNT (p : Nat) : Fld := ⟨0x400010 + p * 0x80, 0, 64, 0⟩
def TREE_CFG_ROOT (p : Nat) : Fld := ⟨0x400018 + p * 0x80, 31, 1, 0⟩
def TREE_CFG_PARENT_ROPE (p : Nat) : Fld := ⟨0x400018 + p * 0x80, 26, 5, 0⟩
def TREE_CFG_PARENT_ID (p : Nat) : Fld := ⟨0x400018 + p * 0x80, 12, 14, 0⟩
def TREE_CFG_CHILDREN (p : Nat) : Fld := ⟨0x400018 + p * 0x80, 0, 5, 0⟩
def TREE_STATUS_VALID (p : Nat) : Fld := ⟨0x40001c + p * 0x80, 31, 1, 0⟩
def TREE_STATUS_PEER_ID (p : Nat) : Fld := ⟨0x40001c + p * 0x80, 0, 14, 0⟩
def CKPT_CFG_HOT_EN (p : Nat) : Fld := ⟨0x400020 + p * 0x80, 31, 1, 1⟩
def CKPT_CFG_COLD_MULT (p : Nat) : Fld := ⟨0x400020 + p * 0x80, 16, 8, 0⟩
def CKPT_STATUS_STATE (p : Nat) : Fld := ⟨0x400024 + p * 0x80, 28, 4, 0⟩
def CKPT_STATUS_SKIPS (p : Nat) : Fld := ⟨0x400024 + p * 0x80, 0, 16, 0⟩
def CKPT_SAFE_STEP (p : Nat) : Fld := ⟨0x400028 + p * 0x80, 0, 64, 0⟩
def SNAP_CTRL_PIN (p : Nat) : Fld := ⟨0x400030 + p * 0x80, 31, 1, 0⟩
def SNAP_CTRL_UNPIN (p : Nat) : Fld := ⟨0x400030 + p * 0x80, 30, 1, 0⟩
def SNAP_CTRL_MAX_MS (p : Nat) : Fld := ⟨0x400030 + p * 0x80, 0, 16, 1000⟩
def SNAP_STATUS_STATE (p : Nat) : Fld := ⟨0x400034 + p * 0x80, 30, 2, 0⟩
def SNAP_STATUS_SLOT (p : Nat) : Fld := ⟨0x400034 + p * 0x80, 27, 3, 0⟩
def SNAP_STATUS_HALF (p : Nat) : Fld := ⟨0x400034 + p * 0x80, 26, 1, 0⟩
def SNAP_STEP_STEP (p : Nat) : Fld := ⟨0x400038 + p * 0x80, 0, 64, 0⟩
def AVAIL_LOCAL_MS (p : Nat) : Fld := ⟨0x400040 + p * 0x80, 0, 32, 0⟩
def AVAIL_OTHER_MS (p : Nat) : Fld := ⟨0x400044 + p * 0x80, 0, 32, 0⟩
def AVAIL_COUNTS_REWINDS (p : Nat) : Fld := ⟨0x400048 + p * 0x80, 16, 16, 0⟩
def AVAIL_COUNTS_ROLLBACKS (p : Nat) : Fld := ⟨0x400048 + p * 0x80, 0, 16, 0⟩
def JRN_STATUS_FAULT : Fld := ⟨0x700000, 31, 1, 0⟩
def JRN_STATUS_COMPACTING : Fld := ⟨0x700000, 30, 1, 0⟩
def JRN_STATUS_ACTIVE : Fld := ⟨0x700000, 29, 1, 0⟩
def JRN_STATUS_GENERATION : Fld := ⟨0x700000, 8, 21, 0⟩
def JRN_STATUS_FILL_PCT : Fld := ⟨0x700000, 0, 8, 0⟩
def JRN_COUNTS_RECORDS : Fld := ⟨0x700004, 16, 16, 0⟩
def JRN_COUNTS_COMPACTIONS : Fld := ⟨0x700004, 8, 8, 0⟩
def JRN_COUNTS_SKIPPED : Fld := ⟨0x700004, 0, 8, 0⟩
def JRN_CTRL_COMPACT : Fld := ⟨0x700008, 0, 1, 0⟩
def SEC_STATUS_LIFECYCLE : Fld := ⟨0x500000, 28, 4, 1⟩
def SEC_STATUS_FW_SVN : Fld := ⟨0x500000, 20, 8, 0⟩
def SEC_STATUS_FUSE_SVN : Fld := ⟨0x500000, 12, 8, 0⟩
def SEC_STATUS_SCRUB_BUSY : Fld := ⟨0x500000, 11, 1, 0⟩
def SEC_STATUS_SCRUB_PART : Fld := ⟨0x500000, 8, 3, 0⟩
def SEC_FAB_CTRL_STAGE : Fld := ⟨0x500004, 31, 1, 0⟩
def SEC_FAB_CTRL_SWITCH : Fld := ⟨0x500004, 30, 1, 0⟩
def SEC_FAB_CTRL_EPOCH : Fld := ⟨0x500004, 0, 16, 0⟩
def SEC_FAB_STATUS_CUR_EPOCH : Fld := ⟨0x500008, 16, 16, 0⟩
def SEC_FAB_STATUS_STAGED : Fld := ⟨0x500008, 1, 1, 0⟩
def SEC_FAB_STATUS_BUSY : Fld := ⟨0x500008, 0, 1, 0⟩
def SEC_FAB_SECRET (w : Nat) : Fld := ⟨0x500020 + w * 0x4, 0, 32, 0⟩
def PART_CTRL_OFFER (p : Nat) : Fld := ⟨0x501000 + p * 0x100, 31, 1, 0⟩
def PART_CTRL_RECLAIM (p : Nat) : Fld := ⟨0x501000 + p * 0x100, 30, 1, 0⟩
def PART_CTRL_WITHDRAW (p : Nat) : Fld := ⟨0x501000 + p * 0x100, 29, 1, 0⟩
def PART_ALLOT_BASE_GIB (p : Nat) : Fld := ⟨0x501004 + p * 0x100, 20, 10, 0⟩
def PART_ALLOT_SIZE_GIB (p : Nat) : Fld := ⟨0x501004 + p * 0x100, 0, 10, 0⟩
def PART_SEC_STATUS_OFFERED (p : Nat) : Fld := ⟨0x501008 + p * 0x100, 31, 1, 0⟩
def PART_SEC_STATUS_LINK_KEYED (p : Nat) : Fld := ⟨0x501008 + p * 0x100, 30, 1, 0⟩
def PART_SEC_STATUS_LINK_STAGED (p : Nat) : Fld := ⟨0x501008 + p * 0x100, 29, 1, 0⟩
def PART_SEC_STATUS_LINK_BUSY (p : Nat) : Fld := ⟨0x501008 + p * 0x100, 28, 1, 0⟩
def PART_SEC_STATUS_MEM_SWEEP (p : Nat) : Fld := ⟨0x501008 + p * 0x100, 27, 1, 0⟩
def PART_SEC_STATUS_RIG_KEYS (p : Nat) : Fld := ⟨0x501008 + p * 0x100, 24, 3, 0⟩
def PART_SEC_STATUS_OFFER_ERR (p : Nat) : Fld := ⟨0x501008 + p * 0x100, 20, 4, 0⟩
def PART_SEC_STATUS_LINK_EPOCH (p : Nat) : Fld := ⟨0x501008 + p * 0x100, 0, 16, 0⟩
def DEBUG_READS_COUNT (p : Nat) : Fld := ⟨0x501010 + p * 0x100, 0, 32, 0⟩
def DEBUG_WRITES_COUNT (p : Nat) : Fld := ⟨0x501014 + p * 0x100, 0, 32, 0⟩
def TENANT_ID (p : Nat) (w : Nat) : Fld := ⟨0x501020 + p * 0x100 + w * 0x4, 0, 32, 0⟩
def DBG_KEY (w : Nat) : Fld := ⟨0x3000000 + w * 0x4, 0, 32, 0⟩
def DBG_CTRL_KEY_LOCK : Fld := ⟨0x3000020, 31, 1, 0⟩
def DBG_CTRL_UNLOCK : Fld := ⟨0x3000020, 30, 1, 0⟩
def DBG_CTRL_RELOCK : Fld := ⟨0x3000020, 29, 1, 0⟩
def DBG_STATUS_UNLOCKED : Fld := ⟨0x3000024, 31, 1, 0⟩
def DBG_STATUS_BUSY : Fld := ⟨0x3000024, 30, 1, 0⟩
def DBG_STATUS_RESULT : Fld := ⟨0x3000024, 24, 4, 0⟩
def DBG_STATUS_FAILS : Fld := ⟨0x3000024, 0, 16, 0⟩
def DBG_ADDR_ADDR : Fld := ⟨0x3000028, 0, 64, 0⟩
def DBG_OP_GO : Fld := ⟨0x3000030, 31, 1, 0⟩
def DBG_OP_WRITE : Fld := ⟨0x3000030, 30, 1, 0⟩
def DBG_OP_LEN : Fld := ⟨0x3000030, 0, 9, 0⟩
def DBG_CHALLENGE (w : Nat) : Fld := ⟨0x3000040 + w * 0x4, 0, 32, 0⟩
def DBG_DATA (w : Nat) : Fld := ⟨0x3000100 + w * 0x4, 0, 32, 0⟩
def DBG_TOKEN (w : Nat) : Fld := ⟨0x3002000 + w * 0x4, 0, 32, 0⟩
def INJ_SEL_POINT : Fld := ⟨0x600000, 24, 8, 0⟩
def INJ_SEL_TARGET : Fld := ⟨0x600000, 0, 20, 0⟩
def INJ_CTRL_ARM : Fld := ⟨0x600004, 31, 1, 0⟩
def INJ_CTRL_DISARM : Fld := ⟨0x600004, 30, 1, 0⟩
def INJ_CTRL_COUNT : Fld := ⟨0x600004, 0, 16, 0⟩
def INJ_STATUS_STATE : Fld := ⟨0x600008, 28, 4, 0⟩
def INJ_STATUS_CAUSE : Fld := ⟨0x600008, 24, 4, 0⟩
def INJ_STATUS_HITS : Fld := ⟨0x600008, 0, 16, 0⟩
def INJ_ADDR_ADDR : Fld := ⟨0x600010, 0, 64, 0⟩
def INJ_VALUE_VALUE : Fld := ⟨0x600018, 0, 32, 0⟩
def INJ_LAST_SEQ_SEQ : Fld := ⟨0x60001c, 0, 32, 0⟩
def SELFTEST_STATUS_PHASE : Fld := ⟨0x600100, 28, 4, 0⟩
def SELFTEST_STATUS_FAIL_PHASE : Fld := ⟨0x600100, 25, 3, 0⟩
def SELFTEST_STATUS_FLIGHTS_FENCED : Fld := ⟨0x600100, 11, 11, 0⟩
def SELFTEST_STATUS_TREADS_FENCED : Fld := ⟨0x600100, 0, 11, 0⟩
def TELEM_CFG_ENABLE : Fld := ⟨0x601000, 31, 1, 0⟩
def TELEM_CFG_EVERY : Fld := ⟨0x601000, 0, 16, 1⟩
def TELEM_STATUS_SKIPPED : Fld := ⟨0x601004, 0, 16, 0⟩
def CAL_SEL_KIND : Fld := ⟨0x704000, 28, 4, 0⟩
def CAL_SEL_INDEX : Fld := ⟨0x704000, 0, 12, 0⟩
def CAL_USER_VALUE : Fld := ⟨0x704004, 0, 16, 0⟩
def CAL_EFFECT_VALUE : Fld := ⟨0x704008, 0, 16, 0⟩
def CAL_CTRL_APPLY : Fld := ⟨0x70400c, 31, 1, 0⟩
def CAL_STATUS_BUSY : Fld := ⟨0x704010, 31, 1, 0⟩
def CAL_STATUS_CLAMPED : Fld := ⟨0x704010, 30, 1, 0⟩
def CAL_STATUS_FACTORY_COPY : Fld := ⟨0x704010, 29, 1, Config.factoryCopy % 2⟩
def CAL_STATUS_CLAMPED_COUNT : Fld := ⟨0x704010, 0, 16, 0⟩
end Reg

open Reg

/-- The register map, part 0. -/
def regMap0 : List RegRow := [
  ⟨"DEV_IDENT", 0x0, [], 32, fun _ _ _ => [(DEV_IDENT_PART, .ro), (DEV_IDENT_STEPPING, .ro), (DEV_IDENT_GRADE, .ro)]⟩,
  ⟨"PKG_ID", 0x4, [], 32, fun _ _ _ => [(PKG_ID_LOCK, .own), (PKG_ID_ID, .rwl PKG_ID_LOCK)]⟩,
  ⟨"PKG_STATE", 0x8, [], 32, fun _ _ _ => [(PKG_STATE_DETACHED_SEEN, .rw1c), (PKG_STATE_FENCE_ACTIVE, .ro), (PKG_STATE_STATE, .ro)]⟩,
  ⟨"PKG_CAPACITY", 0xc, [], 32, fun _ _ _ => [(PKG_CAPACITY_SPARED_ROWS, .ro), (PKG_CAPACITY_ACTIVE_FLIGHTS, .ro)]⟩,
  ⟨"PART_STATE", 0x10, [], 32, fun _ _ _ => [(PART_STATE_PART0, .ro), (PART_STATE_PART1, .ro), (PART_STATE_PART2, .ro), (PART_STATE_PART3, .ro), (PART_STATE_PART4, .ro), (PART_STATE_PART5, .ro), (PART_STATE_PART6, .ro), (PART_STATE_PART7, .ro)]⟩,
  ⟨"COMMITTED_STEP", 0x1000, [(0x100, 8)], 64, fun i _ _ => [(COMMITTED_STEP_STEP i, .ro)]⟩,
  ⟨"COMMITTED_INFO", 0x1008, [(0x100, 8)], 32, fun i _ _ => [(COMMITTED_INFO_VALID i, .ro), (COMMITTED_INFO_SKIPPED i, .ro), (COMMITTED_INFO_VERSION i, .ro), (COMMITTED_INFO_SKIP_COUNT i, .ro)]⟩,
  ⟨"COMMITTED_JOB", 0x100c, [(0x100, 8)], 32, fun i _ _ => [(COMMITTED_JOB_JOB_ID i, .ro)]⟩,
  ⟨"HOT_CKPT_STEP", 0x1010, [(0x100, 8)], 64, fun i _ _ => [(HOT_CKPT_STEP_STEP i, .ro)]⟩,
  ⟨"COLD_CKPT_STEP", 0x1018, [(0x100, 8)], 64, fun i _ _ => [(COLD_CKPT_STEP_STEP i, .ro)]⟩,
  ⟨"PWR_BUDGET", 0x300000, [], 32, fun _ _ _ => [(PWR_BUDGET_HOST_W, .own)]⟩,
  ⟨"PWR_LIMITS", 0x300004, [], 32, fun _ _ _ => [(PWR_LIMITS_BOARD_W, .ro), (PWR_LIMITS_EFFECTIVE_W, .ro)]⟩,
  ⟨"PWR_STATUS", 0x300008, [], 32, fun _ _ _ => [(PWR_STATUS_CONV_WORKING, .ro), (PWR_STATUS_INPUT_LOW, .ro), (PWR_STATUS_THERM_HOT, .ro), (PWR_STATUS_THERM_WARN, .ro), (PWR_STATUS_BAL_SATURATED, .ro), (PWR_STATUS_LSL_ACTIVE, .ro), (PWR_STATUS_AT_FLOOR, .ro), (PWR_STATUS_ADMIT_HELD, .ro), (PWR_STATUS_CUTTING, .ro)]⟩,
  ⟨"PWR_INPUT", 0x30000c, [], 32, fun _ _ _ => [(PWR_INPUT_INPUT_W, .ro), (PWR_INPUT_INPUT_MV, .ro)]⟩,
  ⟨"LSL_CTRL", 0x300010, [], 32, fun _ _ _ => [(LSL_CTRL_LOCK, .setOnly), (LSL_CTRL_FALL_EN, .rwl LSL_CTRL_LOCK), (LSL_CTRL_SLEW, .rwl LSL_CTRL_LOCK)]⟩,
  ⟨"BAL_CTRL", 0x300014, [], 32, fun _ _ _ => [(BAL_CTRL_ENABLE, .rw), (BAL_CTRL_GAIN, .rw), (BAL_CTRL_DEADBAND, .rw), (BAL_CTRL_STEP_MAX, .rw)]⟩,
  ⟨"THERM_CTRL", 0x300018, [], 32, fun _ _ _ => [(THERM_CTRL_WARN_C, .rw)]⟩,
  ⟨"THERM_STATUS", 0x30001c, [], 32, fun _ _ _ => [(THERM_STATUS_HOTTEST_GF, .ro), (THERM_STATUS_HOTTEST_C, .ro)]⟩,
  ⟨"PWR_EVENT_COUNTS", 0x300020, [], 32, fun _ _ _ => [(PWR_EVENT_COUNTS_ADMIT_HOLDS, .rc), (PWR_EVENT_COUNTS_WARN_ENTRIES, .rc)]⟩,
  ⟨"DOMAIN_STATE", 0x301000, [(0x4, 1184)], 32, fun i _ _ => [(DOMAIN_STATE_STATE i, .ro), (DOMAIN_STATE_VCODE i, .ro), (DOMAIN_STATE_TEMP i, .ro), (DOMAIN_STATE_RATE i, .ro), (DOMAIN_STATE_HOT i, .ro)]⟩,
  ⟨"STAGE_RATE", 0x303000, [(0x4, 64)], 32, fun i _ _ => [(STAGE_RATE_SATURATED i, .ro), (STAGE_RATE_NOMINAL i, .ro), (STAGE_RATE_TARGET i, .ro)]⟩,
  ⟨"RIG_CTRL", 0x408000, [(0x80, 8)], 32, fun i _ _ => [(RIG_CTRL_RELEASE i, .wo), (RIG_CTRL_ABORT i, .wo), (RIG_CTRL_START i, .wo)]⟩,
  ⟨"RIG_STATUS", 0x408004, [(0x80, 8)], 32, fun i _ _ => [(RIG_STATUS_STATE i, .ro), (RIG_STATUS_ALT_FREE i, .ro), (RIG_STATUS_ROLES_MOVED i, .ro)]⟩,
  ⟨"RIG_ERROR", 0x408008, [(0x80, 8)], 32, fun i _ _ => [(RIG_ERROR_CODE i, .ro), (RIG_ERROR_SECTION i, .ro), (RIG_ERROR_GF_VALID i, .ro), (RIG_ERROR_GF i, .ro)]⟩,
  ⟨"RIG_ERROR_ENTRY", 0x40800c, [(0x80, 8)], 32, fun i _ _ => [(RIG_ERROR_ENTRY_ENTRY i, .ro)]⟩]

/-- The register map, part 1. -/
def regMap1 : List RegRow := [
  ⟨"RIG_SRC_ADDR", 0x408010, [(0x80, 8)], 64, fun i _ _ => [(RIG_SRC_ADDR_ADDR i, .rw)]⟩,
  ⟨"RIG_SRC_LEN", 0x408018, [(0x80, 8)], 32, fun i _ _ => [(RIG_SRC_LEN_LEN i, .rw)]⟩,
  ⟨"RIG_MEASURE", 0x408040, [(0x80, 8), (0x4, 16)], 32, fun i j _ => [(RIG_MEASURE i j, .ro)]⟩,
  ⟨"RERIG_COUNTS", 0x408400, [], 32, fun _ _ _ => [(RERIG_COUNTS_ROLE_MOVES, .rc), (RERIG_COUNTS_ROW_SHIFTS, .rc)]⟩,
  ⟨"RERIG_LAST", 0x408404, [], 32, fun _ _ _ => [(RERIG_LAST_BUSY, .ro), (RERIG_LAST_KIND, .ro), (RERIG_LAST_GF, .ro), (RERIG_LAST_DURATION, .ro)]⟩,
  ⟨"CHAN_SEL", 0x1000000, [(0x200000, 8)], 32, fun i _ _ => [(CHAN_SEL_TICKET i, .rw), (CHAN_SEL_KIND i, .rw), (CHAN_SEL_FLIGHT i, .rw), (CHAN_SEL_ROW i, .rw), (CHAN_SEL_COL i, .rw), (CHAN_SEL_INDEX i, .rw)]⟩,
  ⟨"CHAN_STATE", 0x1000004, [(0x200000, 8)], 32, fun i _ _ => [(CHAN_STATE_TICKET i, .ro), (CHAN_STATE_VALID i, .ro), (CHAN_STATE_BLOCKED i, .ro), (CHAN_STATE_A i, .ro), (CHAN_STATE_B i, .ro)]⟩,
  ⟨"CHAN_HEAD", 0x1000008, [(0x200000, 8)], 32, fun i _ _ => [(CHAN_HEAD i, .ro)]⟩,
  ⟨"CHAN_LIMIT", 0x100000c, [(0x200000, 8)], 32, fun i _ _ => [(CHAN_LIMIT_TICKET i, .wo), (CHAN_LIMIT_LIMIT i, .wo)]⟩,
  ⟨"TREAD_TRAPS", 0x1000010, [(0x200000, 8)], 32, fun i _ _ => [(TREAD_TRAPS_COUNT i, .rc)]⟩,
  ⟨"ROW_REMAP", 0x1001000, [(0x200000, 8), (0x10, 148), (0x4, 4)], 32, fun i j k => [(ROW_REMAP (148 * i + j) k, .ro)]⟩,
  ⟨"STALL_CTRL", 0x409000, [], 32, fun _ _ _ => [(STALL_CTRL_ENABLE, .own), (STALL_CTRL_SCANS, .own), (STALL_CTRL_PERIOD_US, .own)]⟩,
  ⟨"STALL_STATUS", 0x409004, [], 32, fun _ _ _ => [(STALL_STATUS_SEEN, .rw1c), (STALL_STATUS_OPEN, .ro)]⟩,
  ⟨"STALL_COUNT", 0x409008, [], 32, fun _ _ _ => [(STALL_COUNT_COUNT, .rc)]⟩,
  ⟨"FLT_CFG", 0x1010000, [(0x200000, 8), (0x100, 148)], 32, fun i j _ => [(FLT_CFG_SHAPE (148 * i + j), .ro), (FLT_CFG_PAIR_ODD (148 * i + j), .ro), (FLT_CFG_STAGE_SLOT (148 * i + j), .ro), (FLT_CFG_ROLE (148 * i + j), .ro), (FLT_CFG_GF (148 * i + j), .ro)]⟩,
  ⟨"FLT_STATUS", 0x1010004, [(0x200000, 8), (0x100, 148)], 32, fun i j _ => [(FLT_STATUS_QOCC (148 * i + j), .ro), (FLT_STATUS_INPROG (148 * i + j), .ro), (FLT_STATUS_REF (148 * i + j), .ro), (FLT_STATUS_WAIT_SB (148 * i + j), .ro), (FLT_STATUS_WAIT_BANK (148 * i + j), .ro), (FLT_STATUS_WAIT_DST (148 * i + j), .ro), (FLT_STATUS_WAIT_ADMIT (148 * i + j), .ro), (FLT_STATUS_STOPPED (148 * i + j), .ro), (FLT_STATUS_LINE_HELD (148 * i + j), .ro)]⟩,
  ⟨"FLT_NONFINITE", 0x1010008, [(0x200000, 8), (0x100, 148)], 32, fun i j _ => [(FLT_NONFINITE_SEEN (148 * i + j), .rw1c), (FLT_NONFINITE_ARRAY (148 * i + j), .ro), (FLT_NONFINITE_ROW (148 * i + j), .ro), (FLT_NONFINITE_COL (148 * i + j), .ro)]⟩,
  ⟨"FLT_NF_TAG", 0x101000c, [(0x200000, 8), (0x100, 148)], 32, fun i j _ => [(FLT_NF_TAG_TAG (148 * i + j), .ro)]⟩,
  ⟨"FLT_COUNTS", 0x1010010, [(0x200000, 8), (0x100, 148)], 32, fun i j _ => [(FLT_COUNTS_TILES (148 * i + j), .rc), (FLT_COUNTS_NONFINITE_TILES (148 * i + j), .rc)]⟩,
  ⟨"FLT_WAITS", 0x1010014, [(0x200000, 8), (0x100, 148)], 32, fun i j _ => [(FLT_WAITS_SB_WAIT (148 * i + j), .rc), (FLT_WAITS_BANK_WAIT (148 * i + j), .rc)]⟩,
  ⟨"FLT_DESC_ERR", 0x1010018, [(0x200000, 8), (0x100, 148)], 32, fun i j _ => [(FLT_DESC_ERR_CODE (148 * i + j), .ro), (FLT_DESC_ERR_TAG (148 * i + j), .ro)]⟩,
  ⟨"FLT_SUMSQ", 0x101001c, [(0x200000, 8), (0x100, 148)], 32, fun i j _ => [(FLT_SUMSQ_SUMSQ (148 * i + j), .ro)]⟩,
  ⟨"FLT_DST_WAIT", 0x1010020, [(0x200000, 8), (0x100, 148)], 32, fun i j _ => [(FLT_DST_WAIT_DST_WAIT (148 * i + j), .rc)]⟩,
  ⟨"FLT_PUSH", 0x1010040, [(0x200000, 8), (0x100, 148), (0x4, 24)], 32, fun i j k => [(FLT_PUSH (148 * i + j) k, .wo)]⟩,
  ⟨"SEQ_CFG", 0x40a000, [(0x40, 64)], 32, fun i _ _ => [(SEQ_CFG_VALID i, .ro), (SEQ_CFG_PARTITION i, .ro), (SEQ_CFG_FIRST i, .ro), (SEQ_CFG_LAST i, .ro), (SEQ_CFG_SEQ_CUT i, .ro), (SEQ_CFG_MODE i, .ro), (SEQ_CFG_MAX_LIVE i, .ro), (SEQ_CFG_STAGE_ID i, .ro)]⟩]

/-- The register map, part 2. -/
def regMap2 : List RegRow := [
  ⟨"SEQ_STATUS", 0x40a004, [(0x40, 64)], 32, fun i _ _ => [(SEQ_STATUS_STATE i, .ro), (SEQ_STATUS_WAIT_CAUSE i, .ro), (SEQ_STATUS_MB_ID i, .ro)]⟩,
  ⟨"SEQ_CURRENT", 0x40a008, [(0x40, 64)], 32, fun i _ _ => [(SEQ_CURRENT_CONTEXT i, .ro), (SEQ_CURRENT_MB_SEQ i, .ro)]⟩,
  ⟨"SEQ_STEP", 0x40a010, [(0x40, 64)], 64, fun i _ _ => [(SEQ_STEP_STEP i, .ro)]⟩,
  ⟨"SEQ_PROGRESS", 0x40a018, [(0x40, 64)], 32, fun i _ _ => [(SEQ_PROGRESS_FWD_DONE i, .ro), (SEQ_PROGRESS_BWD_DONE i, .ro)]⟩,
  ⟨"SEQ_STASH", 0x40a01c, [(0x40, 64)], 32, fun i _ _ => [(SEQ_STASH_USED_MIB i, .ro), (SEQ_STASH_LIMIT_MIB i, .ro)]⟩,
  ⟨"SEQ_QUOTA", 0x40a020, [(0x40, 64)], 32, fun i _ _ => [(SEQ_QUOTA_QUOTA_MIB i, .own)]⟩,
  ⟨"SEQ_COUNTS", 0x40a024, [(0x40, 64)], 32, fun i _ _ => [(SEQ_COUNTS_SPILLS i, .rc), (SEQ_COUNTS_RECOMPUTES i, .rc)]⟩,
  ⟨"CTX_SEL", 0x40c000, [], 32, fun _ _ _ => [(CTX_SEL_TICKET, .rw), (CTX_SEL_INDEX, .rw)]⟩,
  ⟨"CTX_WORD0", 0x40c004, [], 32, fun _ _ _ => [(CTX_WORD0_TICKET, .ro), (CTX_WORD0_STATE, .ro), (CTX_WORD0_SPILLED, .ro), (CTX_WORD0_VERSION, .ro), (CTX_WORD0_MB_ID, .ro)]⟩,
  ⟨"CTX_WORD1", 0x40c008, [], 32, fun _ _ _ => [(CTX_WORD1_STAGE_SLOT, .ro), (CTX_WORD1_SPILL_LAYER, .ro), (CTX_WORD1_MB_SEQ, .ro)]⟩,
  ⟨"CTX_HANDLE", 0x40c010, [], 64, fun _ _ _ => [(CTX_HANDLE_HANDLE, .ro)]⟩,
  ⟨"CTX_STEP", 0x40c018, [], 64, fun _ _ _ => [(CTX_STEP_STEP, .ro)]⟩,
  ⟨"VER_SLOT", 0x40d000, [(0x40, 8), (0x4, 8)], 32, fun i j _ => [(VER_SLOT_STATE i j, .ro), (VER_SLOT_TAG i j, .ro), (VER_SLOT_REFS i j, .ro), (VER_SLOT_COUNT i j, .ro)]⟩,
  ⟨"VER_COUNT", 0x40d200, [(0x8, 8)], 64, fun i _ _ => [(VER_COUNT_COUNT i, .ro)]⟩,
  ⟨"LAND_CFG", 0x1020000, [(0x200000, 8), (0x20, 64)], 32, fun i j _ => [(LAND_CFG_VALID (64 * i + j), .ro), (LAND_CFG_PARTITION (64 * i + j), .ro), (LAND_CFG_KIND (64 * i + j), .ro), (LAND_CFG_CREDITS (64 * i + j), .ro), (LAND_CFG_ROPE (64 * i + j), .ro), (LAND_CFG_VC (64 * i + j), .ro), (LAND_CFG_LANDING (64 * i + j), .ro)]⟩,
  ⟨"LAND_STATUS", 0x1020004, [(0x200000, 8), (0x20, 64)], 32, fun i j _ => [(LAND_STATUS_OCC (64 * i + j), .ro), (LAND_STATUS_LIMIT (64 * i + j), .ro), (LAND_STATUS_CREDIT (64 * i + j), .ro)]⟩,
  ⟨"LAND_LIMIT", 0x1020008, [(0x200000, 8), (0x20, 64)], 32, fun i j _ => [(LAND_LIMIT_LIMIT (64 * i + j), .wo)]⟩,
  ⟨"LAND_COUNTS", 0x102000c, [(0x200000, 8), (0x20, 64)], 32, fun i j _ => [(LAND_COUNTS_PUSHED (64 * i + j), .rc), (LAND_COUNTS_ERRORS (64 * i + j), .rc)]⟩,
  ⟨"SCHED_LR", 0x404000, [(0x200, 8), (0x40, 8)], 32, fun i j _ => [(SCHED_LR_LR i j, .ro)]⟩,
  ⟨"SCHED_WD", 0x404004, [(0x200, 8), (0x40, 8)], 32, fun i j _ => [(SCHED_WD_WD i j, .ro)]⟩,
  ⟨"SCHED_MOM", 0x404008, [(0x200, 8), (0x40, 8)], 32, fun i j _ => [(SCHED_MOM_MOM i j, .ro)]⟩,
  ⟨"SCHED_SCALE", 0x40400c, [(0x200, 8), (0x40, 8)], 32, fun i j _ => [(SCHED_SCALE_LR_SCALE i j, .own)]⟩,
  ⟨"SCHED_STATUS", 0x404010, [(0x200, 8), (0x40, 8)], 32, fun i j _ => [(SCHED_STATUS_VALID i j, .ro), (SCHED_STATUS_SCALE_PENDING i j, .ro), (SCHED_STATUS_CYCLE i j, .ro)]⟩,
  ⟨"RED_STATUS", 0x40e000, [(0x20, 64)], 32, fun i _ _ => [(RED_STATUS_NEXT_BUCKET i, .ro), (RED_STATUS_NEXT_GATHER i, .ro), (RED_STATUS_WAIT i, .ro)]⟩,
  ⟨"RED_COUNTS", 0x40e004, [(0x20, 64)], 32, fun i _ _ => [(RED_COUNTS_BUCKETS i, .rc), (RED_COUNTS_ORDER_ERRORS i, .rc)]⟩]

/-- The register map, part 3. -/
def regMap3 : List RegRow := [
  ⟨"RED_CFG", 0x40e008, [(0x20, 64)], 32, fun i _ _ => [(RED_CFG_POS i, .ro), (RED_CFG_R_MINUS1 i, .ro)]⟩,
  ⟨"GATE_STATUS", 0x40e800, [(0x20, 8)], 32, fun i _ _ => [(GATE_STATUS_VALID i, .ro), (GATE_STATUS_SOURCE i, .ro), (GATE_STATUS_STAGE_SLOT i, .ro), (GATE_STATUS_BUCKET i, .ro)]⟩,
  ⟨"UPD_SEL", 0x40e804, [(0x20, 8)], 32, fun i _ _ => [(UPD_SEL_INDEX i, .rw)]⟩,
  ⟨"UPD_RATIO", 0x40e808, [(0x20, 8)], 32, fun i _ _ => [(UPD_RATIO_RATIO i, .ro)]⟩,
  ⟨"UPD_COUNTS", 0x40e80c, [(0x20, 8)], 32, fun i _ _ => [(UPD_COUNTS_RATIO_HIGH i, .rc), (UPD_COUNTS_REFRESHES i, .rc)]⟩,
  ⟨"UC_IDENT", 0x2000000, [(0x100000, 16)], 32, fun i _ _ => [(UC_IDENT_CAP_GIB i, .ro), (UC_IDENT_STACK i, .ro)]⟩,
  ⟨"UC_STATUS", 0x2000004, [(0x100000, 16)], 32, fun i _ _ => [(UC_STATUS_GATHER_STOPPED i, .ro), (UC_STATUS_CONV_STOPPED i, .ro), (UC_STATUS_GQ_OCC i, .ro), (UC_STATUS_CQ_OCC i, .ro), (UC_STATUS_SWEEP_ACTIVE i, .ro), (UC_STATUS_PATROL_ACTIVE i, .ro), (UC_STATUS_LINE_HELD i, .ro)]⟩,
  ⟨"UC_DESC_ERR", 0x2000008, [(0x100000, 16)], 32, fun i _ _ => [(UC_DESC_ERR_CODE i, .ro), (UC_DESC_ERR_QUEUE i, .ro), (UC_DESC_ERR_TAG i, .ro)]⟩,
  ⟨"UC_LINE_COUNTS", 0x2000010, [(0x100000, 16)], 32, fun i _ _ => [(UC_LINE_COUNTS_REREAD_OK i, .rc), (UC_LINE_COUNTS_LOST i, .rc)]⟩,
  ⟨"UC_LINE_LAST", 0x2000018, [(0x100000, 16)], 64, fun i _ _ => [(UC_LINE_LAST_KIND i, .ro), (UC_LINE_LAST_PARTITION i, .ro), (UC_LINE_LAST_OFFSET i, .ro)]⟩,
  ⟨"UC_PATROL", 0x2000020, [(0x100000, 16)], 32, fun i _ _ => [(UC_PATROL_ENABLE i, .rw), (UC_PATROL_PROGRESS i, .ro), (UC_PATROL_PERIOD_H i, .rw)]⟩,
  ⟨"UC_REPAIR", 0x2000024, [(0x100000, 16)], 32, fun i _ _ => [(UC_REPAIR_REPAIRS i, .ro), (UC_REPAIR_SPARES_LEFT i, .ro)]⟩,
  ⟨"UC_QUOTA", 0x2000100, [(0x100000, 16), (0x10, 8)], 32, fun i j _ => [(UC_QUOTA_WEIGHT i j, .own), (UC_QUOTA_REQ_LIMIT i j, .own)]⟩,
  ⟨"UC_REQ", 0x2000104, [(0x100000, 16), (0x10, 8)], 32, fun i j _ => [(UC_REQ_OUTSTANDING i j, .ro), (UC_REQ_CREDIT i j, .ro)]⟩,
  ⟨"UC_KEY", 0x2000108, [(0x100000, 16), (0x10, 8)], 32, fun i j _ => [(UC_KEY_CUR_SLOT i j, .ro), (UC_KEY_SWEEP_ACTIVE i j, .ro), (UC_KEY_KEYED i j, .ro), (UC_KEY_SWEEP_PCT i j, .ro)]⟩,
  ⟨"UC_SPARSE", 0x200010c, [(0x100000, 16), (0x10, 8)], 32, fun i j _ => [(UC_SPARSE_WAITING i j, .ro), (UC_SPARSE_HELD i j, .ro), (UC_SPARSE_ROWS i j, .rc)]⟩,
  ⟨"UC_GATHER_PUSH", 0x2000200, [(0x100000, 16), (0x4, 24)], 32, fun i j _ => [(UC_GATHER_PUSH i j, .wo)]⟩,
  ⟨"UC_CONV_PUSH", 0x2000280, [(0x100000, 16), (0x4, 24)], 32, fun i j _ => [(UC_CONV_PUSH i j, .wo)]⟩,
  ⟨"ROPE_STATUS", 0x800000, [(0x20000, 18)], 32, fun i _ _ => [(ROPE_STATUS_STATE i, .ro), (ROPE_STATUS_WIDTH i, .ro), (ROPE_STATUS_ACTIVE i, .ro), (ROPE_STATUS_GOOD i, .ro), (ROPE_STATUS_OPTICAL i, .ro)]⟩,
  ⟨"ROPE_CTRL", 0x800004, [(0x20000, 18)], 32, fun i _ _ => [(ROPE_CTRL_ENABLE i, .own), (ROPE_CTRL_RETRAIN i, .wo), (ROPE_CTRL_MIN_WIDTH i, .rw), (ROPE_CTRL_STRAND_OFF i, .rw), (ROPE_CTRL_GRACE_US i, .rw)]⟩,
  ⟨"ROPE_PEER", 0x800008, [(0x20000, 18)], 32, fun i _ _ => [(ROPE_PEER_PEER_ID i, .ro), (ROPE_PEER_PEER_ROPE i, .ro), (ROPE_PEER_VALID i, .ro)]⟩,
  ⟨"ROPE_SESSION", 0x80000c, [(0x20000, 18)], 32, fun i _ _ => [(ROPE_SESSION_LOCAL i, .ro), (ROPE_SESSION_PEER i, .ro)]⟩,
  ⟨"ROPE_SEQ", 0x800010, [(0x20000, 18)], 32, fun i _ _ => [(ROPE_SEQ_TX_NEXT i, .ro), (ROPE_SEQ_TX_OLDEST i, .ro)]⟩,
  ⟨"ROPE_RXSEQ", 0x800014, [(0x20000, 18)], 32, fun i _ _ => [(ROPE_RXSEQ_HELD i, .ro), (ROPE_RXSEQ_RX_EXPECT i, .ro)]⟩,
  ⟨"ROPE_COUNTS", 0x800018, [(0x20000, 18)], 32, fun i _ _ => [(ROPE_COUNTS_REPLAYS i, .rc), (ROPE_COUNTS_NAKS i, .rc), (ROPE_COUNTS_DUPS i, .rc), (ROPE_COUNTS_FLUSHES i, .rc)]⟩]

/-- The register map, part 4. -/
def regMap4 : List RegRow := [
  ⟨"ROPE_BER_CFG", 0x80001c, [(0x20000, 18)], 32, fun i _ _ => [(ROPE_BER_CFG_WINDOW_LOG2 i, .rw), (ROPE_BER_CFG_CORR_WARN i, .rw), (ROPE_BER_CFG_UNCORR_MAX i, .rw)]⟩,
  ⟨"ROPE_BER_LAST", 0x800020, [(0x20000, 18)], 32, fun i _ _ => [(ROPE_BER_LAST_CORR_K i, .ro), (ROPE_BER_LAST_BAD i, .ro)]⟩,
  ⟨"ROPE_STRAND_ERR", 0x800024, [(0x20000, 18)], 32, fun i _ _ => [(ROPE_STRAND_ERR_UNCORR i, .ro)]⟩,
  ⟨"ROPE_VC_STATUS", 0x800040, [(0x20000, 18), (0x8, 8)], 32, fun i j _ => [(ROPE_VC_STATUS_OPEN i j, .ro), (ROPE_VC_STATUS_PARTITION i j, .ro), (ROPE_VC_STATUS_ENC i j, .ro), (ROPE_VC_STATUS_KEY_EPOCH i j, .ro), (ROPE_VC_STATUS_LIMIT i j, .ro), (ROPE_VC_STATUS_CREDIT i j, .ro)]⟩,
  ⟨"ROPE_VC_LIMIT", 0x800044, [(0x20000, 18), (0x8, 8)], 32, fun i j _ => [(ROPE_VC_LIMIT_LIMIT i j, .wo)]⟩,
  ⟨"LASER_STATUS", 0x70c000, [(0x100, 6)], 32, fun i _ _ => [(LASER_STATUS_STATE i, .ro), (LASER_STATUS_UNKNOWN_HISTORY i, .ro), (LASER_STATUS_WARN i, .ro), (LASER_STATUS_EOL i, .ro), (LASER_STATUS_LIT i, .ro), (LASER_STATUS_FAILED i, .ro), (LASER_STATUS_TEMP_C i, .ro)]⟩,
  ⟨"LASER_CTRL", 0x70c004, [(0x100, 6)], 32, fun i _ _ => [(LASER_CTRL_RELEASE i, .wo), (LASER_CTRL_RELIGHT i, .wo)]⟩,
  ⟨"LASER_SERIAL", 0x70c010, [(0x100, 6), (0x4, 4)], 32, fun i j _ => [(LASER_SERIAL i j, .ro)]⟩,
  ⟨"LASER_VENDOR", 0x70c020, [(0x100, 6), (0x4, 4)], 32, fun i j _ => [(LASER_VENDOR i j, .ro)]⟩,
  ⟨"LASER_LIFE", 0x70c040, [(0x100, 6), (0x4, 8)], 32, fun i j _ => [(LASER_LIFE_HOURS i j, .ro)]⟩,
  ⟨"LASER_CFG", 0x70c800, [], 32, fun _ _ _ => [(LASER_CFG_WARN_PCT, .rw), (LASER_CFG_RATED_KH, .rw)]⟩,
  ⟨"FAB_ERR_STATUS", 0xc00000, [], 32, fun _ _ _ => [(FAB_ERR_STATUS_SEEN, .rw1c), (FAB_ERR_STATUS_PARTITION, .ro), (FAB_ERR_STATUS_STATUS, .ro), (FAB_ERR_STATUS_AGENT, .ro), (FAB_ERR_STATUS_OP, .ro), (FAB_ERR_STATUS_FUNC, .ro)]⟩,
  ⟨"FAB_ERR_ADDR", 0xc00008, [], 64, fun _ _ _ => [(FAB_ERR_ADDR_ADDR, .ro)]⟩,
  ⟨"FAB_ERR_COUNTS", 0xc00010, [], 32, fun _ _ _ => [(FAB_ERR_COUNTS_ERRORS, .rc), (FAB_ERR_COUNTS_NO_ROUTE, .rc)]⟩,
  ⟨"DL_STATUS", 0xc10000, [(0x100, 144)], 32, fun i _ _ => [(DL_STATUS_STATE i, .ro), (DL_STATUS_RATE i, .ro), (DL_STATUS_WIDTH i, .ro), (DL_STATUS_HALF i, .ro), (DL_STATUS_ATTEMPTS i, .ro), (DL_STATUS_END_A i, .ro), (DL_STATUS_END_B i, .ro), (DL_STATUS_ATOMIC i, .ro), (DL_STATUS_CHANNELS i, .ro)]⟩,
  ⟨"DL_CTRL", 0xc10004, [(0x100, 144)], 32, fun i _ _ => [(DL_CTRL_ENABLE i, .own), (DL_CTRL_RESET i, .wo), (DL_CTRL_RETEST i, .wo)]⟩,
  ⟨"DL_CAP", 0xc10008, [(0x100, 144)], 32, fun i _ _ => [(DL_CAP_MAJOR i, .ro), (DL_CAP_MINOR i, .ro), (DL_CAP_GENERATION i, .ro), (DL_CAP_VENDOR i, .ro)]⟩,
  ⟨"DL_SPLICE_AB", 0xc1000c, [(0x100, 144)], 32, fun i _ _ => [(DL_SPLICE_AB_JOURNAL i, .ro), (DL_SPLICE_AB_VALID_0 i, .ro), (DL_SPLICE_AB_LANE_0 i, .ro), (DL_SPLICE_AB_VALID_1 i, .ro), (DL_SPLICE_AB_LANE_1 i, .ro), (DL_SPLICE_AB_VALID_2 i, .ro), (DL_SPLICE_AB_LANE_2 i, .ro), (DL_SPLICE_AB_VALID_3 i, .ro), (DL_SPLICE_AB_LANE_3 i, .ro)]⟩,
  ⟨"DL_SPLICE_BA", 0xc10010, [(0x100, 144)], 32, fun i _ _ => [(DL_SPLICE_BA_JOURNAL i, .ro), (DL_SPLICE_BA_VALID_0 i, .ro), (DL_SPLICE_BA_LANE_0 i, .ro), (DL_SPLICE_BA_VALID_1 i, .ro), (DL_SPLICE_BA_LANE_1 i, .ro), (DL_SPLICE_BA_VALID_2 i, .ro), (DL_SPLICE_BA_LANE_2 i, .ro), (DL_SPLICE_BA_VALID_3 i, .ro), (DL_SPLICE_BA_LANE_3 i, .ro)]⟩,
  ⟨"DL_COUNTS", 0xc10014, [(0x100, 144)], 32, fun i _ _ => [(DL_COUNTS_REPLAYS i, .rc), (DL_COUNTS_CRC_ERRORS i, .rc), (DL_COUNTS_RETRAINS i, .rc)]⟩,
  ⟨"HCE_RING", 0x100000, [(0x100, 16)], 64, fun i _ _ => [(HCE_RING_BASE i, .rw), (HCE_RING_LOG2 i, .rw)]⟩,
  ⟨"HCE_CPL", 0x100008, [(0x100, 16)], 64, fun i _ _ => [(HCE_CPL_BASE i, .rw)]⟩,
  ⟨"HCE_CTRL", 0x100010, [(0x100, 16)], 32, fun i _ _ => [(HCE_CTRL_ENABLE i, .own), (HCE_CTRL_RESUME i, .wo)]⟩,
  ⟨"HCE_STATUS", 0x100014, [(0x100, 16)], 32, fun i _ _ => [(HCE_STATUS_STATE i, .ro), (HCE_STATUS_DB_AHEAD i, .ro), (HCE_STATUS_INFLIGHT i, .ro), (HCE_STATUS_HEAD i, .ro)]⟩,
  ⟨"HCE_COUNTS", 0x100018, [(0x100, 16)], 32, fun i _ _ => [(HCE_COUNTS_DESCS i, .rc), (HCE_COUNTS_DB_AHEADS i, .rc)]⟩]

/-- The register map, part 5. -/
def regMap5 : List RegRow := [
  ⟨"HCE_DB", 0x100000000 + 0x80000, [(0x1000, 16)], 32, fun i _ _ => [(HCE_DB_TAIL i, .wo)]⟩,
  ⟨"HP_STATUS", 0x200000, [], 32, fun _ _ _ => [(HP_STATUS_LINK, .ro), (HP_STATUS_SPEED, .ro), (HP_STATUS_WIDTH, .ro), (HP_STATUS_DETACHED, .ro), (HP_STATUS_FLIT, .ro), (HP_STATUS_IDE_LINK, .ro)]⟩,
  ⟨"HP_COUNTS", 0x200004, [], 32, fun _ _ _ => [(HP_COUNTS_DETACHES, .rc), (HP_COUNTS_RETRAINS, .rc)]⟩,
  ⟨"BIND_CTRL", 0x200010, [], 32, fun _ _ _ => [(BIND_CTRL_LOCK, .setOnly), (BIND_CTRL_DROPPED, .rc)]⟩,
  ⟨"BIND_MB", 0x200100, [(0x4, 64)], 32, fun i _ _ => [(BIND_MB_VALID i, .rwl BIND_CTRL_LOCK), (BIND_MB_FUNC i, .rwl BIND_CTRL_LOCK), (BIND_MB_VECTOR i, .rwl BIND_CTRL_LOCK), (BIND_MB_SERVICE i, .rwl BIND_CTRL_LOCK)]⟩,
  ⟨"BIND_HCE", 0x200200, [(0x4, 16)], 32, fun i _ _ => [(BIND_HCE_VALID i, .rwl BIND_CTRL_LOCK), (BIND_HCE_FUNC i, .rwl BIND_CTRL_LOCK), (BIND_HCE_VECTOR i, .rwl BIND_CTRL_LOCK), (BIND_HCE_PARTITION i, .rwl BIND_CTRL_LOCK)]⟩,
  ⟨"EVT_BASE", 0x201000, [(0x40, 9)], 64, fun i _ _ => [(EVT_BASE_BASE i, .rw), (EVT_BASE_LOG2 i, .rw)]⟩,
  ⟨"EVT_CFG", 0x201008, [(0x40, 9)], 32, fun i _ _ => [(EVT_CFG_ENABLE i, .own), (EVT_CFG_IRQ_EN i, .rw), (EVT_CFG_VECTOR i, .rw)]⟩,
  ⟨"EVT_HEAD", 0x20100c, [(0x40, 9)], 32, fun i _ _ => [(EVT_HEAD_HEAD i, .own)]⟩,
  ⟨"EVT_TAIL", 0x201010, [(0x40, 9)], 32, fun i _ _ => [(EVT_TAIL_TAIL i, .ro)]⟩,
  ⟨"EVT_COUNTS", 0x201014, [(0x40, 9)], 32, fun i _ _ => [(EVT_COUNTS_RING_FULL i, .rc), (EVT_COUNTS_DROPPED i, .rc)]⟩,
  ⟨"EVT_PENDING", 0x201018, [(0x40, 9)], 32, fun i _ _ => [(EVT_PENDING_COUNT i, .ro)]⟩,
  ⟨"PLC_CFG", 0x202000, [(0x10, 64)], 32, fun i _ _ => [(PLC_CFG_VALID i, .own), (PLC_CFG_READ i, .rw), (PLC_CFG_WRITE i, .rw), (PLC_CFG_PARTITION i, .rw), (PLC_CFG_RID i, .rw)]⟩,
  ⟨"PLC_WIN", 0x202004, [(0x10, 64)], 32, fun i _ _ => [(PLC_WIN_LEN_M1 i, .rw), (PLC_WIN_OFF_2M i, .rw)]⟩,
  ⟨"PLC_BASE", 0x202008, [(0x10, 64)], 64, fun i _ _ => [(PLC_BASE_BASE i, .rw)]⟩,
  ⟨"PLC_ERR", 0x202400, [], 32, fun _ _ _ => [(PLC_ERR_CODE, .ro), (PLC_ERR_ENTRY, .ro)]⟩,
  ⟨"PLC_REJECT", 0x202404, [], 32, fun _ _ _ => [(PLC_REJECT_COUNT, .rc), (PLC_REJECT_LAST_RID, .ro)]⟩,
  ⟨"BNC_BASE", 0x203000, [(0x10, 3)], 64, fun i _ _ => [(BNC_BASE_BASE i, .rw), (BNC_BASE_LOG2 i, .rw)]⟩,
  ⟨"BNC_STATUS", 0x203008, [(0x10, 3)], 32, fun i _ _ => [(BNC_STATUS_READY i, .ro), (BNC_STATUS_ERROR i, .rw1c)]⟩,
  ⟨"MB_H2P", 0x100000000 + 0x0, [(0x2000, 64)], 32, fun i _ _ => [(MB_H2P i, .wo)]⟩,
  ⟨"MB_H2P_PEND", 0x100000000 + 0x4, [(0x2000, 64)], 32, fun i _ _ => [(MB_H2P_PEND i, .ro)]⟩,
  ⟨"MB_P2H", 0x100000000 + 0x8, [(0x2000, 64)], 32, fun i _ _ => [(MB_P2H i, .own)]⟩,
  ⟨"MB_P2H_MASK", 0x100000000 + 0xc, [(0x2000, 64)], 32, fun i _ _ => [(MB_P2H_MASK i, .own)]⟩,
  ⟨"MB_H2P_MSG", 0x100000000 + 0x1000, [(0x2000, 64), (0x4, 256)], 32, fun i j _ => [(MB_H2P_MSG i j, .rw)]⟩,
  ⟨"MB_P2H_MSG", 0x100000000 + 0x1800, [(0x2000, 64), (0x4, 256)], 32, fun i j _ => [(MB_P2H_MSG i j, .ro)]⟩]

/-- The register map, part 6. -/
def regMap6 : List RegRow := [
  ⟨"STEP_CTRL", 0x400000, [(0x80, 8)], 32, fun i _ _ => [(STEP_CTRL_TAKEOVER i, .wo), (STEP_CTRL_HALT i, .wo), (STEP_CTRL_REWIND i, .wo), (STEP_CTRL_START i, .wo)]⟩,
  ⟨"STEP_STATUS", 0x400004, [(0x80, 8)], 32, fun i _ _ => [(STEP_STATUS_STATE i, .ro), (STEP_STATUS_CAUSE i, .ro), (STEP_STATUS_JOINED i, .ro)]⟩,
  ⟨"STEP_BASE", 0x400008, [(0x80, 8)], 64, fun i _ _ => [(STEP_BASE_STEP i, .rw)]⟩,
  ⟨"STEP_VBASE", 0x400010, [(0x80, 8)], 64, fun i _ _ => [(STEP_VBASE_COUNT i, .rw)]⟩,
  ⟨"TREE_CFG", 0x400018, [(0x80, 8)], 32, fun i _ _ => [(TREE_CFG_ROOT i, .rw), (TREE_CFG_PARENT_ROPE i, .rw), (TREE_CFG_PARENT_ID i, .rw), (TREE_CFG_CHILDREN i, .rw)]⟩,
  ⟨"TREE_STATUS", 0x40001c, [(0x80, 8)], 32, fun i _ _ => [(TREE_STATUS_VALID i, .ro), (TREE_STATUS_PEER_ID i, .ro)]⟩,
  ⟨"CKPT_CFG", 0x400020, [(0x80, 8)], 32, fun i _ _ => [(CKPT_CFG_HOT_EN i, .rw), (CKPT_CFG_COLD_MULT i, .rw)]⟩,
  ⟨"CKPT_STATUS", 0x400024, [(0x80, 8)], 32, fun i _ _ => [(CKPT_STATUS_STATE i, .ro), (CKPT_STATUS_SKIPS i, .rc)]⟩,
  ⟨"CKPT_SAFE", 0x400028, [(0x80, 8)], 64, fun i _ _ => [(CKPT_SAFE_STEP i, .ro)]⟩,
  ⟨"SNAP_CTRL", 0x400030, [(0x80, 8)], 32, fun i _ _ => [(SNAP_CTRL_PIN i, .wo), (SNAP_CTRL_UNPIN i, .wo), (SNAP_CTRL_MAX_MS i, .rw)]⟩,
  ⟨"SNAP_STATUS", 0x400034, [(0x80, 8)], 32, fun i _ _ => [(SNAP_STATUS_STATE i, .ro), (SNAP_STATUS_SLOT i, .ro), (SNAP_STATUS_HALF i, .ro)]⟩,
  ⟨"SNAP_STEP", 0x400038, [(0x80, 8)], 64, fun i _ _ => [(SNAP_STEP_STEP i, .ro)]⟩,
  ⟨"AVAIL_LOCAL", 0x400040, [(0x80, 8)], 32, fun i _ _ => [(AVAIL_LOCAL_MS i, .rc)]⟩,
  ⟨"AVAIL_OTHER", 0x400044, [(0x80, 8)], 32, fun i _ _ => [(AVAIL_OTHER_MS i, .rc)]⟩,
  ⟨"AVAIL_COUNTS", 0x400048, [(0x80, 8)], 32, fun i _ _ => [(AVAIL_COUNTS_REWINDS i, .rc), (AVAIL_COUNTS_ROLLBACKS i, .rc)]⟩,
  ⟨"JRN_STATUS", 0x700000, [], 32, fun _ _ _ => [(JRN_STATUS_FAULT, .ro), (JRN_STATUS_COMPACTING, .ro), (JRN_STATUS_ACTIVE, .ro), (JRN_STATUS_GENERATION, .ro), (JRN_STATUS_FILL_PCT, .ro)]⟩,
  ⟨"JRN_COUNTS", 0x700004, [], 32, fun _ _ _ => [(JRN_COUNTS_RECORDS, .rc), (JRN_COUNTS_COMPACTIONS, .rc), (JRN_COUNTS_SKIPPED, .rc)]⟩,
  ⟨"JRN_CTRL", 0x700008, [], 32, fun _ _ _ => [(JRN_CTRL_COMPACT, .wo)]⟩,
  ⟨"SEC_STATUS", 0x500000, [], 32, fun _ _ _ => [(SEC_STATUS_LIFECYCLE, .ro), (SEC_STATUS_FW_SVN, .ro), (SEC_STATUS_FUSE_SVN, .ro), (SEC_STATUS_SCRUB_BUSY, .ro), (SEC_STATUS_SCRUB_PART, .ro)]⟩,
  ⟨"SEC_FAB_CTRL", 0x500004, [], 32, fun _ _ _ => [(SEC_FAB_CTRL_STAGE, .wo), (SEC_FAB_CTRL_SWITCH, .wo), (SEC_FAB_CTRL_EPOCH, .rw)]⟩,
  ⟨"SEC_FAB_STATUS", 0x500008, [], 32, fun _ _ _ => [(SEC_FAB_STATUS_CUR_EPOCH, .ro), (SEC_FAB_STATUS_STAGED, .ro), (SEC_FAB_STATUS_BUSY, .ro)]⟩,
  ⟨"SEC_FAB_SECRET", 0x500020, [(0x4, 8)], 32, fun i _ _ => [(SEC_FAB_SECRET i, .wos)]⟩,
  ⟨"PART_CTRL", 0x501000, [(0x100, 8)], 32, fun i _ _ => [(PART_CTRL_OFFER i, .wo), (PART_CTRL_RECLAIM i, .wo), (PART_CTRL_WITHDRAW i, .wo)]⟩,
  ⟨"PART_ALLOT", 0x501004, [(0x100, 8)], 32, fun i _ _ => [(PART_ALLOT_BASE_GIB i, .rw), (PART_ALLOT_SIZE_GIB i, .rw)]⟩,
  ⟨"PART_SEC_STATUS", 0x501008, [(0x100, 8)], 32, fun i _ _ => [(PART_SEC_STATUS_OFFERED i, .ro), (PART_SEC_STATUS_LINK_KEYED i, .ro), (PART_SEC_STATUS_LINK_STAGED i, .ro), (PART_SEC_STATUS_LINK_BUSY i, .ro), (PART_SEC_STATUS_MEM_SWEEP i, .ro), (PART_SEC_STATUS_RIG_KEYS i, .ro), (PART_SEC_STATUS_OFFER_ERR i, .ro), (PART_SEC_STATUS_LINK_EPOCH i, .ro)]⟩]

/-- The register map, part 7. -/
def regMap7 : List RegRow := [
  ⟨"DEBUG_READS", 0x501010, [(0x100, 8)], 32, fun i _ _ => [(DEBUG_READS_COUNT i, .ro)]⟩,
  ⟨"DEBUG_WRITES", 0x501014, [(0x100, 8)], 32, fun i _ _ => [(DEBUG_WRITES_COUNT i, .ro)]⟩,
  ⟨"TENANT_ID", 0x501020, [(0x100, 8), (0x4, 8)], 32, fun i j _ => [(TENANT_ID i j, .rw)]⟩,
  ⟨"DBG_KEY", 0x3000000, [(0x4, 8)], 32, fun i _ _ => [(DBG_KEY i, .rwl DBG_CTRL_KEY_LOCK)]⟩,
  ⟨"DBG_CTRL", 0x3000020, [], 32, fun _ _ _ => [(DBG_CTRL_KEY_LOCK, .setOnly), (DBG_CTRL_UNLOCK, .wo), (DBG_CTRL_RELOCK, .wo)]⟩,
  ⟨"DBG_STATUS", 0x3000024, [], 32, fun _ _ _ => [(DBG_STATUS_UNLOCKED, .ro), (DBG_STATUS_BUSY, .ro), (DBG_STATUS_RESULT, .ro), (DBG_STATUS_FAILS, .rc)]⟩,
  ⟨"DBG_ADDR", 0x3000028, [], 64, fun _ _ _ => [(DBG_ADDR_ADDR, .rw)]⟩,
  ⟨"DBG_OP", 0x3000030, [], 32, fun _ _ _ => [(DBG_OP_GO, .wo), (DBG_OP_WRITE, .wo), (DBG_OP_LEN, .wo)]⟩,
  ⟨"DBG_CHALLENGE", 0x3000040, [(0x4, 8)], 32, fun i _ _ => [(DBG_CHALLENGE i, .ro)]⟩,
  ⟨"DBG_DATA", 0x3000100, [(0x4, 64)], 32, fun i _ _ => [(DBG_DATA i, .rw)]⟩,
  ⟨"DBG_TOKEN", 0x3002000, [(0x4, 2048)], 32, fun i _ _ => [(DBG_TOKEN i, .wos)]⟩,
  ⟨"INJ_SEL", 0x600000, [], 32, fun _ _ _ => [(INJ_SEL_POINT, .rw), (INJ_SEL_TARGET, .rw)]⟩,
  ⟨"INJ_CTRL", 0x600004, [], 32, fun _ _ _ => [(INJ_CTRL_ARM, .wo), (INJ_CTRL_DISARM, .wo), (INJ_CTRL_COUNT, .wo)]⟩,
  ⟨"INJ_STATUS", 0x600008, [], 32, fun _ _ _ => [(INJ_STATUS_STATE, .ro), (INJ_STATUS_CAUSE, .ro), (INJ_STATUS_HITS, .ro)]⟩,
  ⟨"INJ_ADDR", 0x600010, [], 64, fun _ _ _ => [(INJ_ADDR_ADDR, .rw)]⟩,
  ⟨"INJ_VALUE", 0x600018, [], 32, fun _ _ _ => [(INJ_VALUE_VALUE, .rw)]⟩,
  ⟨"INJ_LAST_SEQ", 0x60001c, [], 32, fun _ _ _ => [(INJ_LAST_SEQ_SEQ, .ro)]⟩,
  ⟨"SELFTEST_STATUS", 0x600100, [], 32, fun _ _ _ => [(SELFTEST_STATUS_PHASE, .ro), (SELFTEST_STATUS_FAIL_PHASE, .ro), (SELFTEST_STATUS_FLIGHTS_FENCED, .ro), (SELFTEST_STATUS_TREADS_FENCED, .ro)]⟩,
  ⟨"TELEM_CFG", 0x601000, [], 32, fun _ _ _ => [(TELEM_CFG_ENABLE, .rw), (TELEM_CFG_EVERY, .rw)]⟩,
  ⟨"TELEM_STATUS", 0x601004, [], 32, fun _ _ _ => [(TELEM_STATUS_SKIPPED, .rc)]⟩,
  ⟨"CAL_SEL", 0x704000, [], 32, fun _ _ _ => [(CAL_SEL_KIND, .rw), (CAL_SEL_INDEX, .rw)]⟩,
  ⟨"CAL_USER", 0x704004, [], 32, fun _ _ _ => [(CAL_USER_VALUE, .own)]⟩,
  ⟨"CAL_EFFECT", 0x704008, [], 32, fun _ _ _ => [(CAL_EFFECT_VALUE, .ro)]⟩,
  ⟨"CAL_CTRL", 0x70400c, [], 32, fun _ _ _ => [(CAL_CTRL_APPLY, .wo)]⟩,
  ⟨"CAL_STATUS", 0x704010, [], 32, fun _ _ _ => [(CAL_STATUS_BUSY, .ro), (CAL_STATUS_CLAMPED, .ro), (CAL_STATUS_FACTORY_COPY, .ro), (CAL_STATUS_CLAMPED_COUNT, .ro)]⟩]

/-- Every register of BAR0 and BAR2. -/
def regMap : List RegRow :=
  regMap0 ++ regMap1 ++ regMap2 ++ regMap3 ++ regMap4 ++ regMap5 ++ regMap6 ++ regMap7

end Sys2Proof.Machine
end

