-- ==== Sys2Proof/Machine/FlightState.lean ====
section
/-!
DEFINITION. A flight's descriptor queue, switchback buffer and arrays as data (05 R171 to R208).
-/
namespace Sys2Proof.Machine

/-- A tile of an array: the descriptor that opened it, the one that runs or ended it, its bank, the blocks added so far,
whether a descriptor of it is accumulating, and whether that descriptor ends it (05 R182). -/
structure TileRun where
  first : List Nat
  desc : List Nat
  bank : Nat
  blocks : Nat
  running : Bool
  ends : Bool
  stream : Nat
  deriving DecidableEq, Repr, Inhabited

/-- One array: the bank its last tile used, its tile that accumulates or waits for the drain of the tile before it, its
draining tile, the banks handed to code, the two banks (element `i × 512 + j`), the block results of a reference-order tile
by block (05 R182, 06 R234), and whether an access of the draining tile has failed, which ends that drain (11 R401). -/
structure ArrayData where
  last : Option Nat
  tile : Option TileRun
  drain : Option TileRun
  code0 : Bool
  code1 : Bool
  bank0 : Tbl Nat
  bank1 : Tbl Nat
  blks : List (Tbl Nat)
  failed : Bool
  deriving DecidableEq, Repr, Inhabited

def ArrayData.init : ArrayData := ⟨none, none, none, false, false, [], [], [], false⟩

/-- The open tile: from its TILE with CONT = 0 until the TILE with DRAIN = 1 that ends it (05 R182). -/
def ArrayData.open? (a : ArrayData) : Option TileRun := a.tile.filter fun r => !r.ends

/-- One flight: queued descriptors (24 words each), the FLT_PUSH window, the 256 KiB switchback buffer by byte (element
slots from 0, scale entries from 0x3A000, epilogue store from 0x3C000), scale-entry tags, the written marks (slot `n` at
`n`, entry `e` at `1024 + e`), LOADs that are writing, and its arrays. -/
structure Flight where
  queue : List (List Nat)
  window : Tbl Nat
  sb : Tbl Byte
  tags : Tbl Nat
  written : Tbl Bool
  loads : List (List Nat)
  arrays : Tbl ArrayData
  deriving DecidableEq, Repr, Inhabited

def Flight.init : Flight := ⟨[], [], [], [], [], [], []⟩

end Sys2Proof.Machine
end

