-- ==== Sys2Proof/Machine/HostState.lean ====
section
/-!
DEFINITION. The host port as data: event rings, copy engines, detached functions (12 R431 to R446).
-/
namespace Sys2Proof.Machine

/-- A copy-engine descriptor (12 R433). -/
structure HceDesc where
  op : Nat
  order : Bool
  irq : Bool
  tag : Nat
  len : Nat
  hostAddr : Nat
  fabricAddr : Nat
  phase : Bool
  reserved : Nat
  deriving DecidableEq, Repr, Inhabited

/-- A descriptor in flight: its ring index, its fields, whether its work is done and with which status and detail, and the
bytes of a COPY with ORDER that wait for the earlier descriptors' writes (12 R436). -/
structure HceWork where
  index : Nat
  desc : HceDesc
  done : Bool
  status : Nat
  detail : Nat
  held : Option (List Byte)
  deriving DecidableEq, Repr, Inhabited

/-- One copy engine: the doorbell's TAIL, the expected descriptor phase, the completion phase, the descriptors in
flight in ring order, and the retries made at HEAD. -/
structure Hce where
  tail : Nat
  phase : Bool
  cplPhase : Bool
  work : List HceWork
  retries : Nat
  deriving DecidableEq, Repr, Inhabited

def Hce.init : Hce := ⟨0, true, true, [], 0⟩

/-- One event ring: pending records in order, ring phase, records dropped since the last LOST record, whether the wait
for room was counted, the first cause of a detach (0 while attached), the records dropped while detached, the
descriptors ended by the detach (engine, index, tag), whether a REATTACH record is due and the cause it gives. -/
structure EvRing where
  pend : List EvRec
  phase : Bool
  lost : Nat
  full : Bool
  detached : Nat
  droppedDetached : Nat
  ended : List (Nat × Nat × Nat)
  reattach : Bool
  detachCause : Nat
  deriving DecidableEq, Repr, Inhabited

def EvRing.init : EvRing := ⟨[], true, 0, false, 0, 0, [], false, 0⟩

/-- PCIe configuration state: NumVFs, the functions in D3hot, and those whose AER has logged an advisory non-fatal error
(12 R420, R421, R427). -/
structure Pcie where
  numVfs : Nat
  d3 : List Nat
  aer : List Nat
  deriving DecidableEq, Repr, Inhabited

def Pcie.init : Pcie := ⟨0, [], []⟩

end Sys2Proof.Machine
end

