-- ==== Sys2Proof/Machine/PowerState.lean ====
section
/-!
DEFINITION. What the power manager, the detectors and the pins hold beside their registers (02 R51 to R69, 15 R514 to
R524, 16 R534 to R548).
-/
namespace Sys2Proof.Machine

/-- The power manager: failed converters, whether an injected fault failed them, flights that hold admission, the flight
temperatures last sampled (raw, in 0.125 °C), the flights above the warn threshold and in the hot response, the measured
voltage, when the budget last fell, when rates were last cut, the measurements of the 100 µs window and whether all of
them qualified, the last balance update of each stage plus 1, the steps in which each stage has raised BALANCE_SATURATED, the
exact rate of each stage as numerator and denominator, the code above which a warm domain may not rise, plus 1, the flights
that wait for a token to enter QUIET from OFF, with the code they enter it at, plus 1, and the flights whose treads wait for
admission to start. -/
structure Power where
  failed : List Nat
  injFailed : Option Nat
  admitted : List Nat
  raw : Tbl Int
  warn : List Nat
  hot : List Nat
  fallAt : Option Nat
  cutAt : Option Nat
  powerHold : Bool
  inputHold : Bool
  winCount : Nat
  winGood : Bool
  balanceAt : Tbl Nat
  saturatedIn : Tbl (List Nat)
  convertersOn : Bool
  rates : Tbl (Nat × Nat)
  caps : Tbl Nat
  waking : Tbl Nat
  starting : List Nat
  deriving DecidableEq, Repr, Inhabited

def Power.init : Power := ⟨[], none, [], [], [], [], none, none, false, false, 0, true, [], [], true, [], [], [], []⟩

/-- The pins (16 R534, R543 to R548): what the board drives and what the package drives, how MGMT_SEL was sampled (R539),
whether a power-down is under way (R546), and the hold-off of R547 with a rise of PWR_EN that waits for its end. -/
structure Pins where
  pwrEn : Bool
  pwrGood : Bool
  pkgRstN : Bool
  perstN : Bool
  faultN : Bool
  thermtripN : Bool
  mgmtI3c : Bool
  falling : Bool
  holdOff : Bool
  riseWaits : Bool
  deriving DecidableEq, Repr, Inhabited

/-- The pins right after a power-on reset: powered, released, PERST# still asserted (log 4). -/
def Pins.init : Pins := ⟨true, true, true, false, true, true, true, false, false, false⟩

/-- An armed injection (15 R514): point, target, address, value, hits left. -/
structure Inject where
  point : Nat
  target : Nat
  addr : Nat
  value : Nat
  left : Nat
  deriving DecidableEq, Repr, Inhabited

/-- Detectors, calibration and the JTAG port: the armed injection, user calibration values as written and as applied (by
KIND and INDEX), telemetry pointers, storage requests posted and responses taken (13 R472), the test-port instruction in force (0 BYPASS, 1 EXTEST, 2 CLAMP, 3 HIGHZ), the event counts of the hour
(13 R480), and the 8 MiB of control-core SRAM (01 R17, R20), which only the firmware's own programs use. -/
structure Det where
  armed : Option Inject
  user : Tbl Int
  applied : Tbl Int
  producer : Nat
  consumer : Nat
  reqs : Nat
  rsps : Nat
  jtag : Nat
  evCounts : Tbl Nat
  sram : Tbl Byte
  deriving DecidableEq, Repr, Inhabited

def Det.init : Det := ⟨none, [], [], 0, 0, 0, 0, 0, [], []⟩

end Sys2Proof.Machine
end

