-- ==== Sys2Proof/Machine/RigState.lean ====
section
/-!
DEFINITION. What the rigging loader holds: the parsed image of a partition, the present placement of its roles, the
re-rigs that wait, and the fence map (03 R81 to R119, 04 R146).
-/
namespace Sys2Proof.Machine

/-- A parsed image: the 256-byte header as one little-endian number, the entries of each section type as little-endian
numbers, and the words of each code image (03 R81 to R103). -/
structure Rigging where
  hdr : Nat
  secs : List (Nat × List Nat)
  code : List (List W32)
  deriving DecidableEq, Repr, Inhabited

/-- A partial re-rig (03 R116): a row shift of a flight's row, or a move of a role. -/
inductive Rerig where
  | row (gf row col : Nat)
  | role (role gf : Nat)
  deriving DecidableEq, Repr, Inhabited

/-- A refused load (03 R124): code, section type, entry, flight. -/
structure RigFail where
  code : Nat
  section_ : Nat := 0xFF
  entry : Nat := 0xFFFFFFFF
  gf : Option Nat := none
  deriving DecidableEq, Repr, Inhabited

/-- One partition's loader data. `image` is the staged image while a load runs and the loaded one afterwards; `place`
gives each role's flight (the even flight of a pair), 0x7FF for a role left without one; `live` says the image is loaded,
`rerigMade` that the re-rig in hand has shifted a row or moved a role. -/
structure Rig where
  image : Option Rigging
  live : Bool
  place : Tbl Nat
  rerigs : List Rerig
  rerigStart : Nat
  rerigMade : Bool
  winding : Bool
  windStart : Nat
  scrubAfter : Bool
  deriving DecidableEq, Repr, Inhabited

def Rig.init : Rig := ⟨none, false, [], [], 0, false, false, 0, false⟩

/-- The fence map: treads and flights, 0 not fenced, 1 fenced, 2 fenced by an injected fault, 3 and 4 the same of a tread in whose
row another was fenced before (04 R146, 15 R516), and each row's ROW_REMAP byte (04 R160). -/
structure Fence where
  treads : Tbl Nat
  flights : Tbl Nat
  rows : Tbl Nat
  deriving DecidableEq, Repr, Inhabited

def Fence.init : Fence := ⟨[], [], []⟩

end Sys2Proof.Machine
end

