-- ==== Sys2Proof/Machine/RopeState.lean ====
section
/-!
DEFINITION. Ropes and laser modules as data (10 R356 to R391).
-/
namespace Sys2Proof.Machine

/-- One channel of a rope end; channel 8 is the control channel (10 R367 to R378). The sender's side: whether the
channel is open and for which partition, the limit and signed credit counter, the peer's cumulative count last seen,
the messages that wait to be sent and whether the first is partly sent, whether the key ran out, whether the peer scrubs the partition (14 R507). The receiver's side: flits that arrived while the
channel was closed, message bytes received and not yet delivered, the bytes left in each buffered flit, the cumulative
count of freed flits and what was last reported, whether delivery is stopped. Then the two key slots (key numbers, 0
none), the current slot, the nonce counters of both sides by slot, a slot that waits to become current, a slot that
awaits clearing, and the sequence number whose tag failed once. -/
structure VChan where
  part : Option Nat
  limit : Nat
  credit : Int
  cumSeen : Nat
  tx : List (List Byte)
  txCut : Bool
  exhausted : Bool
  muted : Bool
  early : List (List Byte)
  rx : List Byte
  rxFlits : List Nat
  freed : Nat
  reported : Nat
  stopped : Bool
  key0 : Nat
  key1 : Nat
  cur : Nat
  next : Option Nat
  old : Option Nat
  txCnt0 : Nat
  txCnt1 : Nat
  rxCnt0 : Nat
  rxCnt1 : Nat
  badTag : Option Nat
  deriving DecidableEq, Repr, Inhabited

/-- A channel at reset: limit and counter 504, or 64 for the control channel (10 R369, R389). -/
def VChan.init (v : Nat) : VChan :=
  let n := if v = 8 then 64 else 504
  ⟨none, n, n, 0, [], false, false, false, [], [], [], 0, 0, false, 0, 0, 0, none, none, 0, 0, 0, 0, none⟩

/-- What a TRAIN flit told of the peer (10 R360). -/
structure TrainInfo where
  id : Nat
  rope : Nat
  session : Nat
  lastSession : Nat
  expect : Nat
  good : Nat
  nonces : List Nat
  deriving DecidableEq, Repr, Inhabited

/-- One rope end: the bring-up phase of 10 R359 (0 none), the strands received cleanly, narrowed to the good ones as TRAIN
flits come in, the last TRAIN flit of this bring-up and whether this end has sent one with its present strands, the channels,
sequence numbers, the replay buffer (SEQ, channel, flit bytes as first sent), the replay position and the ACK it began
from, replays without progress, whether the receiver waits for a replay and how many NAKs it still sends, the next
channel to report, the running error window (flits, bad flits, corrected symbols, uncorrectable codewords by strand),
when GRACE began, the strands dropped until a requested retrain or a fresh bring-up (R361), the partitions that a flush
has cost messages and whose rewind waits for ACTIVE (13 R462), whether the peer has yet to be told a new session, the peer's
session that this end tells, and what is striped over the strands (R356): the bits that fill no symbol yet with their number,
the place of the next symbol among the active strands, and each strand's message symbols, newest first. -/
structure Rope where
  phase : Nat
  locked : Nat
  trained : Bool
  peer : Option TrainInfo
  chans : List VChan
  txNext : Nat
  rxExpect : Nat
  held : List (Nat × Nat × List Byte)
  replay : Option Nat
  replayFrom : Option Nat
  ackMoved : Bool
  stuck : Nat
  waiting : Bool
  naks : Nat
  report : Nat
  winFlits : Nat
  winBad : Nat
  winCorr : Nat
  winUncorr : List Nat
  grace : Option Nat
  keyChecked : Bool
  dropped : Nat
  owed : List Nat
  tell : Bool
  told : Nat
  carry : Nat
  ncarry : Nat
  turn : Nat
  words : List (List Nat)
  deriving DecidableEq, Repr, Inhabited

def Rope.init : Rope :=
  ⟨0, 0, false, none, (upFrom 0 9).map VChan.init, 0, 0, [], none, none, false, 0, false, 0, 0, 0, 0, 0,
   List.replicate 8 0, none, false, 0, [], false, 0xFFFF, 0, 0, 0, List.replicate 8 []⟩

/-- One laser module: the identity CMIS gave, the life counts of its eight lasers in units of 2^-32 equivalent seconds,
the lasers for which the warning and the end of life have been raised, and the mask of the enabled lasers (10 R382 to R384). -/
structure Laser where
  serial : List Byte
  vendor : List Byte
  life : List Nat
  warned : List Nat
  ended : List Nat
  enabled : Nat
  deriving DecidableEq, Repr, Inhabited

def Laser.init : Laser := ⟨[], [], List.replicate 8 0, [], [], 0⟩

end Sys2Proof.Machine
end

