-- ==== Sys2Proof/Machine/SecState.lean ====
section
/-!
DEFINITION. Keys, sessions, firmware, debug and scrubs as data (14 R486 to R511).
-/
namespace Sys2Proof.Machine

/-- A partition's link keys (14 R496, R497): the epoch and link secret in force, the key slot that holds it, and a staged
epoch with its secret. Each channel's key is derived when the channel opens or the epoch is staged. -/
structure Link where
  cur : Option (Nat × List Byte)
  slot : Nat
  staged : Option (Nat × List Byte)
  deriving DecidableEq, Repr, Inhabited

def Link.init : Link := ⟨none, 0, none⟩

/-- A partition's memory keys (09 R332, R333): the two slots (0 none), the slot that writes use, and whether a sweep
runs in each undercroft. -/
structure MemKeys where
  key0 : Nat
  key1 : Nat
  cur : Nat
  epoch : Nat
  sweeping : List Nat
  deriving DecidableEq, Repr, Inhabited

def MemKeys.init : MemKeys := ⟨0, 0, 0, 0, []⟩

/-- An SPDM session on a function (14 R492): its identifier, the raw requester key it was authenticated with (empty
until FINISH), its secret, the transcript that FINISH signs, how often its keys were updated. -/
structure Session where
  fn : Nat
  id : Nat
  established : Bool
  owner : List Byte
  secret : List Byte
  transcript : List Byte
  updates : Nat
  deriving DecidableEq, Repr, Inhabited

/-- The SPDM negotiation of a function: 0 nothing, 1 version, 2 capabilities, 3 algorithms. -/
structure SpdmFn where
  stage : Nat
  transcript : List Byte
  nextId : Nat
  deriving DecidableEq, Repr, Inhabited

def SpdmFn.init : SpdmFn := ⟨0, [], 1⟩

/-- An IDE stream (14 R500): 8 the link stream, `n` selective stream `n`: programmed keys, and whether it is active. -/
structure Ide where
  keys : List Byte
  active : Bool
  deriving DecidableEq, Repr, Inhabited

def Ide.init : Ide := ⟨[], false⟩

/-- The security engine and the operator's keys: enrolled SIGNER_IDs (partition × 4 + slot), links, memory keys,
fabric secret and epoch in force and staged, sessions, IDE streams, the firmware that runs (digests and SVN), the SVN
fuses, debug unlocks since production, failed unlocks since power-on, which partitions have had their counts journaled in this unlock, the scrub queue and phase, and what PART_UNAVAILABLE tells of a partition that is
scrubbed (partition, rope, job ID, channel mask). -/
structure Sec where
  rigKeys : Tbl (List Byte)
  links : Tbl Link
  mem : Tbl MemKeys
  fab : Option (Nat × List Byte)
  fabStaged : Option (Nat × List Byte)
  sessions : List Session
  fns : Tbl SpdmFn
  ide : Tbl Ide
  fwNewel : List Byte
  fwSec : List Byte
  fwSvn : Nat
  fuseSvn : Nat
  unlocks : Nat
  fails : Nat
  counted : List Nat
  scrubs : List Nat
  scrubPhase : Nat
  unavailable : List (Nat × Nat × Nat × Nat)
  deriving DecidableEq, Repr, Inhabited

def Sec.init : Sec :=
  ⟨[], [], [], none, none, [], [], [], [], [], 0, Config.fuseSvn % 256, 0, 0, [], [], 0, []⟩

end Sys2Proof.Machine
end

