-- ==== Sys2Proof/Machine/StageState.lean ====
section
/-!
DEFINITION. Stage sequencers, contexts, landings and weight versions as data (07 R242 to R275).
-/
namespace Sys2Proof.Machine

/-- A landing entry (07 R255). -/
structure Entry where
  mbId : Nat
  flags : Nat
  pass : Nat
  src : Nat
  mbSeq : Nat
  step : Nat
  payload : Nat
  aux : Nat
  deriving DecidableEq, Repr, Inhabited

def Entry.init : Entry := ⟨0, 0, 0, 0, 0, 0, 0, 0⟩

/-- One landing (07 R255 to R258, R274): entries present and not yet taken, the present limit, the producer's credit
counter, the credit pending under a later epoch, the entries of a ROPE_OUT landing that wait for the rope, and,
for each entry pushed and not yet retired, the context whose stash it names, plus 1. -/
structure Landing where
  ents : List Entry
  limit : Nat
  credit : Int
  pend : Int
  wait : List Entry
  owners : List Nat
  deriving DecidableEq, Repr, Inhabited

def Landing.init : Landing := ⟨[], 0, 0, 0, [], []⟩

/-- Context states of 07 R253. -/
inductive CtxState where
  | free | fwd | stashed | bwd | draining
  deriving DecidableEq, Repr, Inhabited

def CtxState.code : CtxState → Nat
  | .free => 0
  | .fwd => 1
  | .stashed => 2
  | .bwd => 3
  | .draining => 4

/-- One context (07 R253): its state, stage, micro-batch, step, tag, stash handle, threshold T, spill layer R, forward
inbound payload, the ring bytes it holds, whether its stored layers are checked (09 R328), and how
many landing entries that name its stash have not retired. -/
structure Ctx where
  state : CtxState
  slot : Nat
  mbId : Nat
  mbSeq : Nat
  step : Nat
  tag : Nat
  handle : Nat
  thr : Nat
  spill : Option Nat
  inbound : Nat
  held : Nat
  verified : Bool
  out : Nat
  deriving DecidableEq, Repr, Inhabited

def Ctx.init : Ctx := ⟨.free, 0, 0, 0, 0, 0, 0, 0, none, 0, 0, false, 0⟩

/-- What a sequencer is doing (07 R278). -/
inductive SeqMode where
  | idle | fwd | bwd | recompute
  deriving DecidableEq, Repr, Inhabited

/-- The completion record of a FABRIC tile (05 R195): TAG, ARRAY, the first non-finite position, the sum of squares. -/
structure TileRec where
  tag : Nat
  arr : Nat
  nonfinite : Option (Nat × Nat)
  sumsq : Nat
  deriving DecidableEq, Repr, Inhabited

/-- One stage sequencer: its mode, the context in progress, the place in the program (entry, loop iteration,
repetition), the ring pass and whether the pass body may run, the ring payload and AUX, the landings whose entry it has
taken and not retired, whether a RING_IN entry is taken, the outbound entries to be pushed, whether every descriptor is
pushed, whether it is stopped, the wait cause, the next forward and the next backward expected (step, MB_SEQ), whether
STASH_BLOCKED was raised for the present wait, its contexts in the order of their forwards, the ring head, the next
forward layer that has no stash yet, the payload of the entry that the micro-batch took, the completion records of that
micro-batch's tiles, and whether an access of the sequencer met a lost line (11 R401). -/
structure Stage where
  mode : SeqMode
  cur : Nat
  ent : Nat
  iter : Nat
  rep : Nat
  pass : Nat
  passReady : Bool
  ringPay : Nat
  ringAux : Nat
  taken : List Nat
  ringTaken : Bool
  outs : List (Nat × Entry)
  pushed : Bool
  stopped : Bool
  wait : Nat
  fStep : Nat
  fSeq : Nat
  bStep : Nat
  bSeq : Nat
  blocked : Bool
  ring : List Nat
  head : Nat
  layer : Nat
  pay : Nat
  records : List TileRec
  held : Bool
  deriving DecidableEq, Repr, Inhabited

def Stage.init : Stage :=
  ⟨.idle, 0, 0, 0, 0, 0, false, 0, 0, [], false, [], false, false, 0, 0, 0, 0, 0, false, [], 0, 0, 0, [], false⟩

/-- Version slot states of 07 R261. -/
inductive VerState where
  | free | building | live | newest
  deriving DecidableEq, Repr, Inhabited

def VerState.code : VerState → Nat
  | .free => 0
  | .building => 1
  | .live => 2
  | .newest => 3

/-- The first cause that cleared a step's finite flag (08 R293, R318): source, stage, bucket. -/
structure Cause where
  step : Nat
  source : Nat
  slot : Nat
  bucket : Nat
  deriving DecidableEq, Repr, Inhabited

/-- A partition's versions and gates (07 R259 to R262, 08 R293, R313): the version count, the slots (state and count),
the count as it stood at each of the last resolutions (step, count), the newest resolved step, the steps whose finite
flag is clear with the first cause, the latched scale of each schedule for the step after the newest resolved one, the
ratio of each UPDATE entry at the last resolution, and those of the step being updated. -/
structure Part where
  count : Nat
  slots : Tbl (VerState × Nat)
  hist : List (Nat × Nat)
  cleared : List Cause
  scale : Tbl Nat
  ratio : Tbl Nat
  ratioNow : Tbl Nat
  deriving DecidableEq, Repr, Inhabited

def Part.init : Part := ⟨0, [], [], [], [], [], []⟩

/-- A ring message held in an inbound slot or waiting to leave (08 R290, R291): gather flag, step, bucket, hop, segment,
payload bytes of one that is to leave, and the segment slot that holds the payload of one that came. -/
structure RingMsg where
  gather : Bool
  step : Nat
  bucket : Nat
  hop : Nat
  seg : Nat
  data : List Byte
  slot : Nat := 0
  deriving DecidableEq, Repr, Inhabited

/-- The ring and the update of one stage (08 R288 to R309): the step in progress, drains accepted by bucket, buckets
entered, the next message (bucket, segment, hop), the next reduction message expected (step, bucket, segment, hop), the step of the next gather message expected, the
credit counters of the two pools, the inbound messages, whether the ring is stopped; the next update group (bucket,
group) and the watch sums DU and WU by UPDATE entry; gather messages that wait to leave, segments received at each hop in
that step, segments of each bucket written into the BUILDING slot, messages of each bucket that have left, and
the step being updated. -/
structure Red where
  step : Nat
  drains : Tbl Nat
  entered : Nat
  mb : Nat
  ms : Nat
  mh : Nat
  rStep : Nat
  rb : Nat
  rs : Nat
  rh : Nat
  gStep : Nat
  redCr : Int
  gatCr : Int
  redIn : List RingMsg
  gatIn : List RingMsg
  stopped : Bool
  ub : Nat
  ug : Nat
  du : Tbl Nat
  wu : Tbl Nat
  gatOut : List RingMsg
  gatExp : Tbl Nat
  gatWritten : Tbl Nat
  gatSent : Tbl Nat
  updStep : Nat
  deriving DecidableEq, Repr, Inhabited

def Red.init : Red :=
  ⟨0, [], 0, 0, 0, 0, 0, 0, 0, 0, 0, 2, 2, [], [], false, 0, 0, [], [], [], [], [], [], 0⟩

end Sys2Proof.Machine
end

