-- ==== Sys2Proof/Machine/StepState.lean ====
section
/-!
DEFINITION. The step service of a partition, its checkpoints and the journal store as data (13 R457 to R481).
-/
namespace Sys2Proof.Machine

/-- STEP_STATUS.STATE (13 R483). -/
inductive SvcState where
  | idle | joining | running | rewinding | rollback | catchup | halted | waitPeer | treeError
  deriving DecidableEq, Repr, Inhabited

def SvcState.code : SvcState → Nat
  | .idle => 0
  | .joining => 1
  | .running => 2
  | .rewinding => 3
  | .rollback => 4
  | .catchup => 5
  | .halted => 6
  | .waitPeer => 7
  | .treeError => 8

/-- What an order asks (13 R458 VALUE_A, R463): a rewind to a step, a rollback query, a rollback to a step. -/
inductive OrderKind where
  | rewind | query | rollback
  deriving DecidableEq, Repr, Inhabited

/-- An order in force (13 R463): its kind, target step, cause and epoch; whether the partition has been rewound here;
whether this package's own part is done; whether REWOUND has been sent; and, at the root, the cause of a rollback request
that it absorbed (R464). -/
structure Order where
  kind : OrderKind
  target : Nat
  cause : Nat
  epoch : Nat
  undone : Bool
  workDone : Bool
  sent : Bool
  absorbed : Option Nat
  deriving DecidableEq, Repr, Inhabited

/-- One hot-checkpoint frame slot (13 R468): the step held, whether its local copy and the buddy's copy are complete,
whether it is being written to storage, and its length. -/
structure Frame where
  step : Nat
  here : Bool
  acked : Bool
  cold : Bool
  len : Nat
  deriving DecidableEq, Repr, Inhabited

/-- A storage request that waits for its response (13 R472): its ID, whether it is a SYNC, its step and frame slot, and
the place and length of the bytes in the frame. -/
structure StorageReq where
  id : Nat
  sync : Bool
  step : Nat
  slot : Nat
  off : Nat
  len : Nat
  deriving DecidableEq, Repr, Inhabited

/-- The step service of one partition. -/
structure Svc where
  state : SvcState
  /-- JOINs counted: rope, peer, subtree count. -/
  joined : List (Nat × Nat × Nat)
  /-- JOINs that came before START: rope, peer, message. -/
  held : List (Nat × Nat × TreeMsg)
  /-- Children's votes on the step that is not decided: rope, message. -/
  votes : List (Nat × TreeMsg)
  /-- The step this package has voted on. -/
  voted : Option Nat
  /-- The last step a DECIDE (or GO) has resolved here, confirmations included. -/
  decided : Nat
  /-- The highest step resolved before a rollback; later resolutions up to it are confirmations (R466). -/
  confirmTo : Nat
  /-- Outcomes applied after CKPT_SAFE: step, skipped (R466). -/
  outcomes : List (Nat × Bool)
  /-- The schedule scales latched for each step after CKPT_SAFE, by schedule (08 R313). -/
  scales : List (Nat × List Nat)
  order : Option Order
  /-- REWOUNDs received for the order: rope, VALUE_B. -/
  rewound : List (Nat × Nat)
  /-- The rewind epoch (07 R274). -/
  epoch : Nat
  /-- The start of an interruption and whether it counts as local (R476). -/
  outage : Option (Nat × Bool)
  /-- When each tree edge was last heard: rope, time. -/
  heard : List (Nat × Nat)
  spare : Bool
  frames : List Frame
  ward : List Frame
  /-- Complete frames since the last cold checkpoint. -/
  coldCount : Nat
  storage : List StorageReq
  /-- When the snapshot pin ends. -/
  pinEnd : Option Nat
  /-- A frame's step asked back from the buddy. -/
  restore : Option Nat
  deriving DecidableEq, Repr, Inhabited

def Frame.none : Frame := ⟨0, false, false, false, 0⟩

def Svc.init : Svc :=
  ⟨.idle, [], [], [], none, 0, 0, [], [], none, [], 0, none, [], false,
   [Frame.none, Frame.none], [Frame.none, Frame.none], 0, [], none, none⟩

/-- A journal record (13 R478): TYPE, KEY and body bytes; CRC, SEQ and DONE follow from its place. -/
structure JrnRec where
  type : Nat
  key : Nat
  body : List Byte
  deriving DecidableEq, Repr, Inhabited

/-- A journal device header (13 R477): GENERATION, and STATE 0 erased, 1 COPYING, 2 COMPLETE. -/
structure JrnHdr where
  generation : Nat
  state : Nat
  deriving DecidableEq, Repr, Inhabited

/-- The journal store: the headers and the records of the two devices in write order, and the records written while a
compaction copies. A record that a power loss cut short keeps its place and counts as skipped (R479). -/
structure Journal where
  hdr0 : JrnHdr
  hdr1 : JrnHdr
  recs0 : List (JrnRec × Bool)
  recs1 : List (JrnRec × Bool)
  held : List JrnRec
  deriving DecidableEq, Repr, Inhabited

def Journal.init : Journal := ⟨⟨1, 2⟩, ⟨0, 0⟩, [], [], []⟩

end Sys2Proof.Machine
end

