-- ==== Sys2Proof/Machine/TreadState.lean ====
section
/-!
DEFINITION. Treads, channels and knots as data (04 R127, R128, R135, R138, R143).
-/
namespace Sys2Proof.Machine

/-- The tread states of 04 R128. -/
inductive TState where
  | run | wait | halt | trap | debug | fenced | idle
  deriving DecidableEq, Repr, Inhabited

def TState.code : TState → Nat
  | .run => 0
  | .wait => 1
  | .halt => 2
  | .trap => 3
  | .debug => 4
  | .fenced => 5
  | .idle => 6

/-- One tread (04 R127): state, trap cause, program counter, scalar and vector registers, instruction and data SRAM,
special registers, the banks it holds, and what it waits for. -/
structure Tread where
  st : TState
  cause : Nat
  pc : BitVec 10
  sreg : Tbl W32
  vreg : Tbl V256
  imem : Tbl W32
  dmem : Tbl Byte
  ctx : W32
  mb : W32
  step : W32
  rngKey : W32
  rngIndex : W32
  beats : W32
  fpflags : BitVec 5
  held0 : Bool
  held1 : Bool
  wait : WaitOp
  deriving DecidableEq, Repr, Inhabited

def Tread.init : Tread := ⟨.idle, 0, 0, [], [], [], [], 0, 0, 0, 0, 0, 0, 0, false, false, .none⟩

/-- One channel (04 R138, R139): the sender's limit and signed credit counter, the words on their way, the words in the
destination queue, the credits on their way back, and the watchdog's counts for the sending and the receiving side
(04 R150). -/
structure ChanData where
  limit : Nat
  credit : Int
  wire : List W32
  queue : List W32
  back : Nat
  sendScans : Nat
  sendMoved : Bool
  sendSeen : Bool
  recvScans : Nat
  recvMoved : Bool
  recvSeen : Bool
  deriving DecidableEq, Repr, Inhabited

def ChanData.init : ChanData := ⟨0, 0, [], [], 0, 0, false, false, 0, false, false⟩

/-- One knot (04 R143, R144): contributions by source index (floating point), the running total (integer), which sources
have contributed, and the watchdog's counts. -/
structure Knot where
  parts : Tbl (List W32)
  total : List W32
  sources : List Nat
  scans : Nat
  moved : Bool
  seen : Bool
  deriving DecidableEq, Repr, Inhabited

def Knot.init : Knot := ⟨[], [], [], 0, false, false⟩

end Sys2Proof.Machine
end

