-- ==== Sys2Proof/Machine/State.lean ====
section
/-!
DEFINITION. The package as one record of plain data: everything the spec gives it, and the queue of commands that wait.
-/
namespace Sys2Proof.Machine

/-- The package. Each table lists only entries that differ from the entry's reset value. -/
structure State where
  /-- Register fields by `Fld.key`: the stored value combined by exclusive or with the field's reset value. -/
  regs : Tbl Nat
  /-- PKG_STATE.STATE (01 R33). -/
  pkg : PkgState
  /-- The newel timer in nanoseconds (02 R48): a 64-bit count, as its last reading left it. -/
  time : Nat
  /-- The local timers of the other blocks that have a clock (02 R48), by block: ropes 0 to 17, the host port 18, control
  cores 24 to 31, die-link bundles 32 to 175, undercrofts 176 to 191. None is compared with another. -/
  timers : Tbl Nat
  /-- Causal sequence number of the next event (02 R50). -/
  seq : Nat
  /-- How many free values have been taken: the model's own field (log 1). -/
  free : Nat
  /-- Commands that wait, first in, first out. -/
  pending : List Instr
  /-- What the last command put on the ports: the model's own field. -/
  out : List Out
  /-- High words held for requesters, plus 1 (00 R10), by requester and register. -/
  hiLatch : Tbl Nat
  /-- PART_COMMIT blocks held for requesters, plus 1 (01 R39), by requester and partition. -/
  commitLatch : Tbl Nat
  pins : Pins
  fence : Fence
  power : Power
  rigs : Tbl Rig
  treads : Tbl Tread
  chans : Tbl ChanData
  knots : Tbl Knot
  flights : Tbl Flight
  stages : Tbl Stage
  ctxs : Tbl Ctx
  landings : Tbl Landing
  parts : Tbl Part
  reds : Tbl Red
  /-- Yuseon's bytes. -/
  mem : Memory
  /-- Bits [31:0] of each line's check field (09 R324), combined by exclusive or with the CRC that R324 gives for the line as
  it stands: 0 where the line passes its check. Line `n` holds offsets `64 n` to `64 n + 63`. -/
  memCheck : Tbl Nat
  /-- Bit [32] of each line's check field: the key epoch under which it was written last (09 R332). -/
  memEpoch : Tbl Nat
  /-- The memory key under which each line was encrypted last; 0 for none (09 R331, R332). -/
  memKey : Tbl Nat
  ucs : Tbl Undercroft
  sparse : List Sparse
  /-- Gathers completed by partition, table and step (09 R343). -/
  gathers : List (Nat × Nat × Nat × Nat)
  ropes : Tbl Rope
  lasers : Tbl Laser
  fabric : Fabric
  bundles : Tbl Bundle
  hces : Tbl Hce
  rings : Tbl EvRing
  pcie : Pcie
  svcs : Tbl Svc
  journal : Journal
  sec : Sec
  det : Det
  deriving DecidableEq, Repr

/-- Why a command cannot act at all. -/
inductive Fault where
  /-- Raised by every command whose operand names a unit the package does not have (rope 18, undercroft 16, tread
  322,048). Safe: the hardware has no such unit, so no run of it takes the command. -/
  | noSuchUnit
  deriving DecidableEq, Repr

/-- Why the model gives a command no meaning. -/
inductive Refusal where
  /-- Raised by the dispatch of a command that has no meaning yet. Safe: nothing is claimed of it. -/
  | notModelled (mnemonic : String)
  deriving DecidableEq, Repr

/-- The package right after a power-on reset, in BOOT (01 R33, 16 R544). Every register field holds its reset value. -/
def State.reset : State where
  regs := []
  pkg := .boot
  time := 0
  timers := []
  seq := 0
  free := 0
  pending := []
  out := []
  hiLatch := []
  commitLatch := []
  pins := Pins.init
  fence := Fence.init
  power := Power.init
  rigs := []
  treads := []
  chans := []
  knots := []
  flights := []
  stages := []
  ctxs := []
  landings := []
  parts := []
  reds := []
  mem := []
  memCheck := []
  memEpoch := []
  memKey := []
  ucs := []
  sparse := []
  gathers := []
  ropes := []
  lasers := []
  fabric := Fabric.init
  bundles := []
  hces := []
  rings := []
  pcie := Pcie.init
  svcs := []
  journal := Journal.init
  sec := Sec.init
  det := Det.init

end Sys2Proof.Machine
end

