-- ==== Sys2Proof/Machine/Units.lean ====
section
/-!
DEFINITION. Which numbers name a unit of the package (01 R17 to R20, 00 R12 to R16). A command whose operand names no unit
is ill-formed: the hardware has nothing that could take it.
-/
namespace Sys2Proof.Machine

/-- Global flight numbers. -/
def gfOk (gf : Nat) : Bool := decide (gf < 1184)
/-- Whether a number names a tread: flight 0 to 147 and column 0 to 16 (00 R12). -/
def treadOk (t : Nat) : Bool := decide (t < 2 ^ 20) && decide (bits t 9 8 < 148) && decide (bits t 0 5 < 17)
/-- Partitions. -/
def partOk (p : Nat) : Bool := decide (p < 8)
/-- Stage slots. -/
def slotOk (n : Nat) : Bool := decide (n < 64)
/-- Landings. -/
def landOk (n : Nat) : Bool := decide (n < 512)
/-- Undercrofts, one for each stack. -/
def ucOk (u : Nat) : Bool := decide (u < 16)
/-- Ropes, and the virtual channels of each. -/
def ropeOk (k : Nat) : Bool := decide (k < 18)
def vcOk (v : Nat) : Bool := decide (v < 8)
/-- Laser modules. -/
def moduleOk (m : Nat) : Bool := decide (m < 6)
/-- Die-link bundles. -/
def bundleOk (n : Nat) : Bool := decide (n < 144)
/-- Copy engines, functions and mailbox channels of the host port. -/
def engineOk (e : Nat) : Bool := decide (e < 16)
def fnOk (f : Nat) : Bool := decide (f < 9)
def channelOk (c : Nat) : Bool := decide (c < 64)
/-- A channel's partition is one of eight. -/
def chanOk (c : Chan) : Bool := decide (c.part < 8)
/-- A flit's operands: a rope, bytes, and strands. -/
def flitOk (k : Nat) (uncorr : List Nat) : Bool := ropeOk k && uncorr.all fun j => decide (j < 8)
/-- Formats of the self-test's tiles: E4M3, E5M2, E2M1, BF16 and FP16 (15 R525). -/
def selfFmts : List Nat := [0, 1, 4, 5, 6]
/-- An element of a self-test tile: flight, format, element of the 128 × 128 output, the value it has. -/
def selfElemOk (x : Nat × Nat × Nat × Nat) : Bool := gfOk x.1 && selfFmts.contains x.2.1 && decide (x.2.2.1 < 16384)
/-- Requesters of registers. -/
def whoOk : Who → Bool
  | .vf n | .core n => decide (n < 8)
  | _ => true
/-- A register access is aligned words: 4 or 8 bytes. -/
def regShape (off n : Nat) : Bool := (n == 4 || n == 8) && off % n == 0
/-- Agents that are units of the package: the peer's requests come as messages. -/
def agentOk : Agent → Bool
  | .flight gf => gfOk gf
  | .sequencer n => slotOk n
  | .core p | .window p => partOk p
  | .undercroft p u => partOk p && ucOk u
  | .engine p e => partOk p && engineOk e
  | .peer k v _ _ => ropeOk k && vcOk v
  | .firmware => true
  | .debug _ => false

end Sys2Proof.Machine
end

