-- ==== Sys2Proof/Machine/Ops.lean ====
section
/-!
DEFINITION. The named operations over the state: reading and writing register fields, units by number, free values,
event records, journal records, and the wrapper under which every command runs.
-/
namespace Sys2Proof.Machine

/-- What a command answers. -/
abbrev Result := Host.Outcome State Fault Refusal

/-- What a command answers: one that names only units of the package runs and answers the next state, whose ports hold what
this command put there and whose queue is as it was; any other is a fault. -/
def perform (ok : Bool) (f : State → State) (s : State) : Result :=
  if ok then .next { f { s with out := [] } with pending := s.pending } else .fault .noSuchUnit

/-- A register write or request that only a package past BOOT takes (01 R33: other BAR0 regions drop writes). -/
def whenUp (f : State → State) (s : State) : State := if s.pkg == .boot then s else f s

namespace State

/-- The value of a register field. -/
def get (s : State) (f : Fld) : Nat := tget 0 s.regs f.key ^^^ f.reset

/-- A register field set to a value of its width. -/
def set (f : Fld) (v : Nat) (s : State) : State :=
  { s with regs := tset 0 s.regs f.key ((v % 2 ^ f.width) ^^^ f.reset) }

/-- A field back at its reset value. -/
def unset (f : Fld) (s : State) : State := { s with regs := tdel s.regs f.key }

/-- Whether a one-bit field reads 1. -/
def on (s : State) (f : Fld) : Bool := s.get f == 1

/-- A counter field after `n` more events: it saturates at its largest value. -/
def bump (f : Fld) (n : Nat) (s : State) : State := s.set f (satAdd f.width (s.get f) n)

/-- Something put on the ports. -/
def put (o : Out) (s : State) : State := { s with out := s.out ++ [o] }

/-- A free value taken: what the spec leaves open (log 1), and the state with the next one due. -/
def takeFree (s : State) : W64 × State := (Config.freeValue s.free, { s with free := s.free + 1 })

/-- The newel timer moved to a reading that a command carries; it never runs backwards (02 R48). -/
def at_ (now : W64) (s : State) : State := { s with time := max s.time now.toNat }

/-- The local timer of a block other than the newel die (02 R48), as its commands last read it. -/
def timer (s : State) (b : Nat) : Nat := tget 0 s.timers b
/-- Rope `k`'s own timer moved to a reading that a command of the rope carries. -/
def ropeAt (k : Nat) (now : W64) (s : State) : State := { s with timers := tset 0 s.timers k (max (s.timer k) now.toNat) }

/-! Units by number. -/
def rig (s : State) (p : Nat) : Rig := tget Rig.init s.rigs p
def setRig (p : Nat) (v : Rig) (s : State) : State := { s with rigs := tset Rig.init s.rigs p v }
def tread (s : State) (t : Nat) : Tread := tget Tread.init s.treads t
def setTread (t : Nat) (v : Tread) (s : State) : State := { s with treads := tset Tread.init s.treads t v }
def chan (s : State) (k : Nat) : ChanData := tget ChanData.init s.chans k
def setChan (k : Nat) (v : ChanData) (s : State) : State := { s with chans := tset ChanData.init s.chans k v }
def knot (s : State) (k : Nat) : Knot := tget Knot.init s.knots k
def setKnot (k : Nat) (v : Knot) (s : State) : State := { s with knots := tset Knot.init s.knots k v }
def flight (s : State) (gf : Nat) : Flight := tget Flight.init s.flights gf
def setFlight (gf : Nat) (v : Flight) (s : State) : State := { s with flights := tset Flight.init s.flights gf v }
def stage (s : State) (n : Nat) : Stage := tget Stage.init s.stages n
def setStage (n : Nat) (v : Stage) (s : State) : State := { s with stages := tset Stage.init s.stages n v }
def ctx (s : State) (n : Nat) : Ctx := tget Ctx.init s.ctxs n
def setCtx (n : Nat) (v : Ctx) (s : State) : State := { s with ctxs := tset Ctx.init s.ctxs n v }
def landing (s : State) (n : Nat) : Landing := tget Landing.init s.landings n
def setLanding (n : Nat) (v : Landing) (s : State) : State := { s with landings := tset Landing.init s.landings n v }
def part (s : State) (p : Nat) : Part := tget Part.init s.parts p
def setPart (p : Nat) (v : Part) (s : State) : State := { s with parts := tset Part.init s.parts p v }
def red (s : State) (n : Nat) : Red := tget Red.init s.reds n
def setRed (n : Nat) (v : Red) (s : State) : State := { s with reds := tset Red.init s.reds n v }
def uc (s : State) (u : Nat) : Undercroft := tget Undercroft.init s.ucs u
def setUc (u : Nat) (v : Undercroft) (s : State) : State := { s with ucs := tset Undercroft.init s.ucs u v }
def rope (s : State) (k : Nat) : Rope := tget Rope.init s.ropes k
def setRope (k : Nat) (v : Rope) (s : State) : State := { s with ropes := tset Rope.init s.ropes k v }
def laser (s : State) (m : Nat) : Laser := tget Laser.init s.lasers m
def setLaser (m : Nat) (v : Laser) (s : State) : State := { s with lasers := tset Laser.init s.lasers m v }
def bundle (s : State) (n : Nat) : Bundle := tget Bundle.init s.bundles n
def setBundle (n : Nat) (v : Bundle) (s : State) : State := { s with bundles := tset Bundle.init s.bundles n v }
def hce (s : State) (e : Nat) : Hce := tget Hce.init s.hces e
def setHce (e : Nat) (v : Hce) (s : State) : State := { s with hces := tset Hce.init s.hces e v }
def ring (s : State) (f : Nat) : EvRing := tget EvRing.init s.rings f
def setRing (f : Nat) (v : EvRing) (s : State) : State := { s with rings := tset EvRing.init s.rings f v }
def svc (s : State) (p : Nat) : Svc := tget Svc.init s.svcs p
def setSvc (p : Nat) (v : Svc) (s : State) : State := { s with svcs := tset Svc.init s.svcs p v }

/-! Parts of the state taken whole. -/
def setPower (v : Power) (s : State) : State := { s with power := v }
def setPins (v : Pins) (s : State) : State := { s with pins := v }
def setMemCheck (v : Tbl Nat) (s : State) : State := { s with memCheck := v }
def setMemKey (v : Tbl Nat) (s : State) : State := { s with memKey := v }
def setMemEpoch (v : Tbl Nat) (s : State) : State := { s with memEpoch := v }
def setTreads (v : Tbl Tread) (s : State) : State := { s with treads := v }
def setKnots (v : Tbl Knot) (s : State) : State := { s with knots := v }

end State

open State

/-- The field of PART_STATE for partition `p` (01 R37). -/
def partFld (p : Nat) : Fld := ⟨0x10, 4 * p, 4, 0⟩

/-- PART_STATE of partition `p`. -/
def State.partState (s : State) (p : Nat) : Nat := s.get (partFld p)

/-- The sparse work, and the counts of gathers, that satisfy a condition. -/
def keepSparse (f : Sparse → Bool) (s : State) : State := { s with sparse := s.sparse.filter f }
def keepGathers (f : Nat × Nat × Nat × Nat → Bool) (s : State) : State := { s with gathers := s.gathers.filter f }

/-! Event codes (15 R512). -/
namespace Ev
def lost : Nat := 0x0001
def reattach : Nat := 0x0002
def journalDefault : Nat := 0x0010
def journalCompacted : Nat := 0x0011
def journalFault : Nat := 0x0012
def selfTestFailed : Nat := 0x0013
def calClamped : Nat := 0x0014
def injectDone : Nat := 0x0015
def converterFailed : Nat := 0x0100
def inputLow : Nat := 0x0101
def powerAdmitHeld : Nat := 0x0102
def powerAdmitResumed : Nat := 0x0103
def balanceSaturated : Nat := 0x0104
def thermWarn : Nat := 0x0105
def thermHot : Nat := 0x0106
def thermTrip : Nat := 0x0107
def rigLoaded : Nat := 0x0200
def rigReleased : Nat := 0x0201
def alternatesExhausted : Nat := 0x0202
def treadTrap : Nat := 0x0300
def stallSeen : Nat := 0x0301
def macResidue : Nat := 0x0302
def treadParity : Nat := 0x0303
def routerParity : Nat := 0x0304
def sbParity : Nat := 0x0305
def tileQueueFull : Nat := 0x0306
def tileDescError : Nat := 0x0307
def stashSpill : Nat := 0x0400
def stashBlocked : Nat := 0x0401
def landingOrder : Nat := 0x0402
def landingFull : Nat := 0x0403
def ringOrder : Nat := 0x0500
def updateRatioHigh : Nat := 0x0501
def lineLost : Nat := 0x0600
def memRowRepaired : Nat := 0x0601
def memSparesExhausted : Nat := 0x0602
def memkeyRotated : Nat := 0x0603
def sparseError : Nat := 0x0604
def ucQueueFull : Nat := 0x0605
def ucDescError : Nat := 0x0606
def ropeStrandDropped : Nat := 0x0700
def ropeBerWarn : Nat := 0x0701
def ropePeerMismatch : Nat := 0x0702
def ropeKeyExhausted : Nat := 0x0703
def ropeAuthFail : Nat := 0x0704
def ropeDown : Nat := 0x0705
def laserModuleRefused : Nat := 0x0706
def laserFailed : Nat := 0x0707
def laserLifeWarn : Nat := 0x0708
def laserEol : Nat := 0x0709
def fabricError : Nat := 0x0800
def dieLinkIncompatible : Nat := 0x0801
def dieLinkSpliced : Nat := 0x0802
def dieLinkFenced : Nat := 0x0803
def hostLinkDegraded : Nat := 0x0900
def doorbellAhead : Nat := 0x0901
def hceError : Nat := 0x0902
def commitTreeError : Nat := 0x0A00
def stepRewind : Nat := 0x0A01
def replayDiverged : Nat := 0x0A02
def ckptSkipped : Nat := 0x0A03
def ckptNoRoom : Nat := 0x0A04
def ckptNoRoute : Nat := 0x0A05
def ckptColdDone : Nat := 0x0A06
def ckptColdFailed : Nat := 0x0A07
def peerLost : Nat := 0x0A08
def tenantOffered : Nat := 0x0B00
def debugUnlock : Nat := 0x0B01
def debugUnlockFailed : Nat := 0x0B02
def fabKeyRefused : Nat := 0x0B03
def partScrubStart : Nat := 0x0B04
def partScrubbed : Nat := 0x0B05
def debugAccess : Nat := 0x0B06
def peerPartUnavailable : Nat := 0x0B07
end Ev

/-- The events that only the physical function's ring receives (14 R504). -/
def pfOnly (code : Nat) : Bool :=
  code == Ev.tenantOffered || code == Ev.debugUnlock || code == Ev.debugUnlockFailed || code == Ev.fabKeyRefused
    || code == Ev.partScrubStart || code == Ev.partScrubbed

/-- A record put into the pending queue of function `f`'s ring, or dropped and counted when 1,024 records wait
(12 R442); drops while the function is detached are also counted for its REATTACH record (12 R446). -/
def queueRecord (f : Nat) (r : EvRec) (s : State) : State :=
  let g := s.ring f
  if g.pend.length < 1024 then s.setRing f { g with pend := g.pend ++ [r] }
  else
    (s.setRing f { g with lost := g.lost + 1,
                          droppedDetached := if g.detached = 0 then g.droppedDetached else g.droppedDetached + 1 }
      |> bump (Reg.EVT_COUNTS_DROPPED f) 1)

/-- The counts of the hour's events (13 R480, EVENT_SUMMARY). -/
def countEvent (code : Nat) (s : State) : State :=
  { s with det := { s.det with evCounts := tset 0 s.det.evCounts code (satAdd 16 (tget 0 s.det.evCounts code) 1) } }

/-- Function number of a virtual function: 0 is the physical function, `1 + n` virtual function `n`. -/
def vfNo (n : Nat) : Nat := 1 + n

/-- An event raised: it takes the next sequence number (02 R50) and goes to the physical function's ring and, when it
is stamped with a partition, to that virtual function's ring (12 R439), unless 14 R504 keeps it from there. -/
def raise (code : Nat) (st : Stamp) (body : List Nat) (s : State) : State :=
  let r : EvRec := { code := code, seq := s.seq, step := st.step, mb := st.mb, part := st.part, body := body }
  let s := { s with seq := (s.seq + 1) % 2 ^ 32 } |> countEvent code |> queueRecord 0 r
  match st.part with
  | none => s
  | some p => if pfOnly code || s.partState p == partScrubbing then s else queueRecord (vfNo p) r s

/-- A stamp with nothing in it. -/
def noStamp : Stamp := ⟨none, none, none⟩
/-- A stamp with a partition only. -/
def partStamp (p : Nat) : Stamp := ⟨none, none, some p⟩
/-- A stamp with a partition and a step. -/
def stepStamp (p step : Nat) : Stamp := ⟨some step, none, some p⟩

/-- An event without a stamp. -/
def raise0 (code : Nat) (body : List Nat) : State → State := raise code noStamp body

/-! The journal store (13 R477 to R481). -/

/-- The active device: COMPLETE with the higher GENERATION; none when neither header is COMPLETE. -/
def Journal.active (j : Journal) : Option Bool :=
  match j.hdr0.state == 2, j.hdr1.state == 2 with
  | true, true => some (decide (j.hdr0.generation < j.hdr1.generation))
  | true, false => some false
  | false, true => some true
  | false, false => none

/-- The records of the active device. -/
def Journal.records (j : Journal) : List (JrnRec × Bool) :=
  match j.active with
  | some true => j.recs1
  | _ => j.recs0

/-- Bytes that a record takes (13 R478): the header, the body, the CRC and DONE. -/
def JrnRec.size (r : JrnRec) : Nat := 0x18 + r.body.length

/-- The write position of the active device. -/
def Journal.position (j : Journal) : Nat := 0x41_0000 + (j.records.map fun r => r.1.size).sum

/-- Whether a compaction copies (13 R481). -/
def Journal.copying (j : Journal) : Bool := j.hdr0.state == 1 || j.hdr1.state == 1

/-- The instance of a record: for LASER_LIFE the serial number in the body takes the place of KEY (13 R479). -/
def JrnRec.inst (r : JrnRec) : Nat × Nat := (r.type, if r.type = 5 then ofLe (r.body.take 16) else r.key)

/-- The valid record of a type and instance with the highest SEQ. -/
def Journal.latest (j : Journal) (type inst : Nat) : Option JrnRec :=
  ((j.records.filter fun r => r.2 && r.1.inst == (type, inst)).getLast?).map Prod.fst

/-- The applied records, each type and instance once, in ascending TYPE and KEY order (13 R481 step 3). -/
def Journal.applied (j : Journal) : List JrnRec :=
  let insts := (j.records.filter Prod.snd).map fun r => r.1.inst
  let sorted := sortBy (fun a b => decide (a.1 < b.1) || (a.1 == b.1 && decide (a.2 ≤ b.2))) (dedup insts)
  sorted.filterMap fun k => j.latest k.1 k.2

/-- The journal with records appended to the active device. -/
def Journal.append (rs : List JrnRec) (j : Journal) : Journal :=
  let l := rs.map fun r => (r, true)
  let j := if j.copying then { j with held := j.held ++ rs } else j
  match j.active with
  | some true => { j with recs1 := j.recs1 ++ l }
  | _ => { j with recs0 := j.recs0 ++ l }

/-- A compaction begun (13 R481 steps 1 to 3): the inactive device is erased, headed COPYING with the next GENERATION
and filled with the applied records. Nothing happens while one runs or without an active device. -/
def Journal.compact (j : Journal) : Journal :=
  if j.copying then j else
  match j.active with
  | some true =>
    { j with hdr0 := ⟨(j.hdr1.generation + 1) % 2 ^ 32, 1⟩, recs0 := j.applied.map fun r => (r, true), held := [] }
  | some false =>
    { j with hdr1 := ⟨(j.hdr0.generation + 1) % 2 ^ 32, 1⟩, recs1 := j.applied.map fun r => (r, true), held := [] }
  | none => j

/-- A compaction ended (13 R481 step 4). -/
def Journal.complete (j : Journal) : Journal :=
  let l := j.held.map fun r => (r, true)
  if j.hdr0.state == 1 then { j with hdr0 := { j.hdr0 with state := 2 }, recs0 := j.recs0 ++ l, held := [] }
  else if j.hdr1.state == 1 then { j with hdr1 := { j.hdr1 with state := 2 }, recs1 := j.recs1 ++ l, held := [] }
  else j

/-- A body filled with zero bytes to a multiple of 8 (13 R478, LEN; log 44). -/
def padTo8 (l : List Byte) : List Byte := l ++ List.replicate ((8 - l.length % 8) % 8) 0

/-- A record written to the journal; past 75 % of the area a compaction begins (13 R481). A power-down starts no record
(16 R546). -/
def journalWrite (type key : Nat) (body : List Byte) (s : State) : State :=
  if s.pins.falling then s
  else
    let j := s.journal.append [⟨type, key, padTo8 body⟩]
    { s with journal := if 0x310_4000 < j.position then j.compact else j } |> bump Reg.JRN_COUNTS_RECORDS 1

end Sys2Proof.Machine
end

