-- ==== Sys2Proof/Machine/RigView.lean ====
section
/-!
DEFINITION. The loaded images read as tables (03 R81 to R103, 07 R246 to R249, R269, 08 R286, R287, R298, R310): header
fields, section entries, and which flight, tread, stage, landing or route of the package stands for which role.
-/
namespace Sys2Proof.Machine

/-- A field of a little-endian entry: `n` bytes at byte `off`. -/
def fieldAt (e off n : Nat) : Nat := bits e (8 * off) (8 * n)

/-- The entries of a section; a section that the image lacks has none. -/
def Rigging.sec (r : Rigging) (type : Nat) : List Nat :=
  match r.secs.find? fun x => x.1 == type with
  | some x => x.2
  | none => []

/-! Header fields (03 R81). -/
def Rigging.partition (r : Rigging) : Nat := fieldAt r.hdr 0x0E 1
def Rigging.schedMode (r : Rigging) : Nat := bits r.hdr (8 * 0x0F) 4
def Rigging.maxLive (r : Rigging) : Nat := bits r.hdr (8 * 0x0F + 4) 4
def Rigging.jobId (r : Rigging) : Nat := fieldAt r.hdr 0x10 4
def Rigging.packageId (r : Rigging) : Nat := bits r.hdr (8 * 0x14) 14
def Rigging.buddyId (r : Rigging) : Nat := bits r.hdr (8 * 0x16) 14
def Rigging.ckptK (r : Rigging) : Nat := fieldAt r.hdr 0x1C 4
def Rigging.instPackages (r : Rigging) : Nat := fieldAt r.hdr 0x20 2
def Rigging.jobSeed (r : Rigging) : Nat := fieldAt r.hdr 0x28 8

/-- GANG entry fields (03 R85). -/
structure Gang where
  gf : Nat
  role : Nat
  shape : Nat
  slot : Nat
  partner : Nat
  deriving DecidableEq, Repr, Inhabited

def gangOf (e : Nat) : Gang := ⟨bits e 0 11, bits e 11 11, bits e 22 3, bits e 25 6, bits e 32 11⟩
def Rigging.gangs (r : Rigging) : List Gang := (r.sec 0x01).map gangOf

/-- ROUTE entry fields (03 R89). -/
structure Route where
  srcRole : Nat
  srcRow : Nat
  srcCol : Nat
  srcPort : Nat
  dstRole : Nat
  dstRow : Nat
  dstCol : Nat
  dstQueue : Nat
  dstKnot : Bool
  knotIdx : Nat
  credits : Nat
  srcOdd : Nat
  dstOdd : Nat
  deriving DecidableEq, Repr, Inhabited

def routeOf (e : Nat) : Route :=
  ⟨bits e 0 11, bits e 11 4, bits e 15 4, bits e 19 2, bits e 21 11, bits e 32 4, bits e 36 4, bits e 40 2, bit e 42,
   bits e 43 4, bits e 47 5, bits e 52 1, bits e 53 1⟩
def Rigging.routes (r : Rigging) : List Route := (r.sec 0x02).map routeOf

/-- KNOT entry fields (03 R91). -/
structure KnotCfg where
  role : Nat
  idx : Nat
  kind : Nat
  count : Nat
  dstRole : Nat
  dstRow : Nat
  dstCol : Nat
  dstQueue : Nat
  credits : Nat
  odd : Nat
  tuple : Nat
  dstOdd : Nat
  deriving DecidableEq, Repr, Inhabited

def knotOf (e : Nat) : KnotCfg :=
  ⟨bits e 0 11, bits e 11 4, bits e 15 2, bits e 17 9, bits e 26 11, bits e 37 4, bits e 41 4, bits e 45 2, bits e 47 5,
   bits e 52 1, bits e 53 2, bits e 55 1⟩
def Rigging.knots (r : Rigging) : List KnotCfg := (r.sec 0x03).map knotOf

/-- STAGE entry fields (03 R96). -/
structure StageCfg where
  id : Nat
  slot : Nat
  first : Bool
  last : Bool
  seqCut : Bool
  fwdIn : Nat
  fwdOut : Nat
  bwdIn : Nat
  bwdOut : Nat
  mbPerStep : Nat
  ctxCount : Nat
  ctxBase : Nat
  quota : Nat
  deriving DecidableEq, Repr, Inhabited

def stageOf (e : Nat) : StageCfg :=
  ⟨bits e 0 10, bits e 16 6, bit e 24, bit e 25, bit e 26, fieldAt e 4 2, fieldAt e 6 2, fieldAt e 8 2, fieldAt e 0xA 2,
   fieldAt e 0xC 2, fieldAt e 0xE 2, fieldAt e 0x10 2, fieldAt e 0x14 4⟩
def Rigging.stages (r : Rigging) : List StageCfg := (r.sec 0x04).map stageOf
def Rigging.stage? (r : Rigging) (slot : Nat) : Option StageCfg := r.stages.find? fun x => x.slot == slot

/-- LANDING entry fields (03 R97). -/
structure LandCfg where
  num : Nat
  kind : Nat
  credits : Nat
  rope : Nat
  vc : Nat
  peer : Nat
  peerLanding : Nat
  deriving DecidableEq, Repr, Inhabited

def landOf (e : Nat) : LandCfg := ⟨bits e 0 9, bits e 9 2, bits e 11 9, bits e 20 5, bits e 25 3, bits e 28 14, bits e 42 9⟩
def Rigging.lands (r : Rigging) : List LandCfg := (r.sec 0x05).map landOf
def Rigging.land? (r : Rigging) (n : Nat) : Option LandCfg := r.lands.find? fun x => x.num == n

/-- CODEMAP entry fields (03 R94). -/
structure CodeMap where
  role : Nat
  row : Nat
  col : Nat
  allRows : Bool
  allCols : Bool
  image : Nat
  odd : Nat
  deriving DecidableEq, Repr, Inhabited

def codeMapOf (e : Nat) : CodeMap :=
  ⟨bits e 0 11, bits e 11 4, bits e 15 4, bit e 19, bit e 20, bits e 21 14, bits e 35 1⟩
def Rigging.codeMaps (r : Rigging) : List CodeMap := (r.sec 0x07).map codeMapOf

/-- The code image of a logical position: the last CODEMAP entry that covers it (03 R95). -/
def Rigging.imageAt (r : Rigging) (role odd row col : Nat) : Option Nat :=
  ((r.codeMaps.filter fun m => m.role == role && m.odd == odd && (m.allRows || m.row == row)
    && (m.allCols || m.col == col)).getLast?).map CodeMap.image

/-- VDOM entry fields (03 R99). -/
structure VDom where
  slot : Nat
  vMin : Nat
  vMax : Nat
  nominal : Nat
  targetOcc : Nat
  retainUs : Nat
  deriving DecidableEq, Repr, Inhabited

def vdomOf (e : Nat) : VDom := ⟨bits e 0 6, bits e 6 7, bits e 13 7, bits e 20 11, bits e 31 8, bits e 39 16⟩
def Rigging.vdom? (r : Rigging) (slot : Nat) : Option VDom := ((r.sec 0x08).map vdomOf).find? fun x => x.slot == slot

/-- MEMMAP entry fields (03 R101). -/
structure Region where
  kind : Nat
  slot : Nat
  index : Nat
  granule : Nat
  mask : Nat
  placeable : Bool
  base : Nat
  size : Nat
  shard : Nat
  deriving DecidableEq, Repr, Inhabited

def regionOf (e : Nat) : Region :=
  ⟨fieldAt e 0 1, fieldAt e 1 1, fieldAt e 2 1, fieldAt e 3 1, fieldAt e 4 2, bit e 48, fieldAt e 8 8, fieldAt e 0x10 8,
   fieldAt e 0x18 4⟩
def Rigging.regions (r : Rigging) : List Region := (r.sec 0x09).map regionOf
def Region.has (g : Region) (a n : Nat) : Bool := decide (g.base ≤ a) && decide (a + n ≤ g.base + g.size)
def Rigging.region? (r : Rigging) (a n : Nat) : Option Region := r.regions.find? fun g => g.has a n

/-- The alternates of a role in preference order (03 R88). -/
def Rigging.alts (r : Rigging) (role : Nat) : List Nat :=
  match (r.sec 0x0A).find? fun e => bits e 0 11 == role with
  | some e => [bits e 11 11, bits e 22 11, bits e 33 11].filter fun g => g != 0x7FF
  | none => []

/-- RIGHTS entry fields (03 R103): agent, read, write, base, size. -/
structure Right where
  agent : Nat
  read : Bool
  write : Bool
  base : Nat
  size : Nat
  deriving DecidableEq, Repr, Inhabited

def rightOf (e : Nat) : Right := ⟨fieldAt e 0 1, bit e 8, bit e 9, fieldAt e 4 4, fieldAt e 8 4⟩
def Rigging.rights (r : Rigging) : List Right := (r.sec 0x0B).map rightOf

/-- A ring descriptor of a stage (08 R286). -/
structure RingCfg where
  slot : Nat
  pos : Nat
  r : Nat
  next : Nat
  prev : Nat
  rope : Nat
  vc : Nat
  seg : Nat
  inBase : Nat
  deriving DecidableEq, Repr, Inhabited

def ringOf (e : Nat) : RingCfg :=
  ⟨bits e 8 6, fieldAt e 2 2, fieldAt e 4 2, bits e (8 * 6) 14, bits e (8 * 8) 14, fieldAt e 0xA 1, bits e (8 * 0xB) 3,
   fieldAt e 0xC 4, fieldAt e 0x10 8⟩
def Rigging.ring? (r : Rigging) (slot : Nat) : Option RingCfg :=
  (((r.sec 0x10).filter fun e => fieldAt e 0 1 == 0).map ringOf).find? fun x => x.slot == slot

/-- A bucket entry (08 R287). -/
structure Bucket where
  slot : Nat
  num : Nat
  upd : Nat
  area : Nat
  bytes : Nat
  tiles : Nat
  slotOff : Nat
  deriving DecidableEq, Repr, Inhabited

def bucketOf (e : Nat) : Bucket :=
  ⟨bits e 8 6, fieldAt e 2 2, fieldAt e 4 2, fieldAt e 8 8, fieldAt e 0x10 4, fieldAt e 0x14 4, fieldAt e 0x18 8⟩

/-- The buckets of a stage in index order. -/
def Rigging.buckets (r : Rigging) (slot : Nat) : List Bucket :=
  sortBy (fun a b => decide (a.num ≤ b.num))
    ((((r.sec 0x10).filter fun e => fieldAt e 0 1 == 1).map bucketOf).filter fun b => b.slot == slot)
def Rigging.bucket? (r : Rigging) (slot b : Nat) : Option Bucket := (r.buckets slot).find? fun x => x.num == b

/-- A schedule (08 R310). -/
structure Sched where
  index : Nat
  decay : Nat
  momMode : Nat
  wdFollow : Bool
  warmup : Nat
  decayLen : Nat
  cycles : Nat
  lrInit : Nat
  lrPeak : Nat
  lrMin : Nat
  wdBase : Nat
  momBase : Nat
  momLo : Nat
  peakDecay : Nat
  gamma : Nat
  cycleMult : Nat
  restartWarmup : Nat
  deriving DecidableEq, Repr, Inhabited

def schedOf (e : Nat) : Sched :=
  ⟨fieldAt e 0 1, fieldAt e 1 1, fieldAt e 2 1, bit e 24, fieldAt e 4 4, fieldAt e 8 4, fieldAt e 0xC 4, fieldAt e 0x10 4,
   fieldAt e 0x14 4, fieldAt e 0x18 4, fieldAt e 0x1C 4, fieldAt e 0x20 4, fieldAt e 0x24 4, fieldAt e 0x28 4,
   fieldAt e 0x2C 4, fieldAt e 0x30 1, fieldAt e 0x34 4⟩
def Rigging.sched? (r : Rigging) (i : Nat) : Option Sched := ((r.sec 0x11).map schedOf).find? fun x => x.index == i

/-- An UPDATE entry (08 R298). -/
structure Upd where
  slot : Nat
  squares : Bool
  watchSkip : Bool
  refreshEn : Bool
  sched : Nat
  gatherFmt : Nat
  stateFmt : Nat
  image : Nat
  refreshImage : Nat
  nE : Nat
  nM : Nat
  rnd : Nat
  refreshK : Nat
  state : Nat
  half : Nat
  beta2 : Nat
  gscale : Nat
  ratioMax : Nat
  tensor : Nat
  consts : List Nat
  deriving DecidableEq, Repr, Inhabited

def updOf (e : Nat) : Upd :=
  ⟨bits e 0 6, bit e 8, bit e 9, bit e 10, fieldAt e 2 1, bits e 24 2, bits e 26 2, fieldAt e 4 2, fieldAt e 6 2,
   fieldAt e 8 1, fieldAt e 9 1, fieldAt e 0xA 1, fieldAt e 0xC 4, fieldAt e 0x10 8, fieldAt e 0x18 8, fieldAt e 0x20 4,
   fieldAt e 0x24 4, fieldAt e 0x28 4, fieldAt e 0x2C 4, (upFrom 0 8).map fun i => fieldAt e (0x30 + 4 * i) 4⟩
def Rigging.upds (r : Rigging) : List Upd := (r.sec 0x12).map updOf
def Rigging.upd? (r : Rigging) (i : Nat) : Option Upd := r.upds[i]?

/-- A SEQCUT entry (07 R269). -/
structure Cut where
  slot : Nat
  count : Nat
  pos : Nat
  ringOut : Nat
  ringIn : Nat
  kvLen : Nat
  dkvLen : Nat
  deriving DecidableEq, Repr, Inhabited

def cutOf (e : Nat) : Cut :=
  ⟨bits e 0 6, fieldAt e 1 1, fieldAt e 2 1, fieldAt e 4 2, fieldAt e 6 2, fieldAt e 8 4, fieldAt e 0xC 4⟩
def Rigging.cut? (r : Rigging) (slot : Nat) : Option Cut := ((r.sec 0x13).map cutOf).find? fun x => x.slot == slot

/-! Stage programs (07 R246 to R249). -/

/-- The body of a code image as one little-endian number of its words. -/
def Rigging.body (r : Rigging) (i : Nat) : Nat := ofLe (wordsLe ((lget [] r.code i).map BitVec.toNat))

/-- A layer table entry (07 R248). -/
structure Layer where
  first : Nat
  frozen : Bool
  layer : Nat
  off : Nat
  len : Nat
  bnd : Nat
  deriving DecidableEq, Repr, Inhabited

/-- A program entry (07 R249): the template's 24 words and the entry's fields. -/
structure ProgEntry where
  template : List Nat
  role : Nat
  base0 : Nat
  base1 : Nat
  base2 : Nat
  flags : Nat
  count : Nat
  outer : Nat
  inc0 : Int
  inc1 : Int
  oinc0 : Int
  oinc1 : Int
  elemInc : Int
  deriving DecidableEq, Repr, Inhabited

/-- A stage program (07 R247). -/
structure Prog where
  dir : Nat
  fwdOut : Nat
  bwdOut : Nat
  layers : List Layer
  entries : List ProgEntry
  deriving DecidableEq, Repr, Inhabited

def layerAt (b l : Nat) : Layer :=
  let o := 0x20 + 16 * l
  ⟨fieldAt b o 1, bit b (8 * (o + 1)), fieldAt b (o + 2) 2, fieldAt b (o + 4) 4, fieldAt b (o + 8) 4, fieldAt b (o + 0xC) 4⟩

def entryAt (b e : Nat) : ProgEntry :=
  let o := 0x120 + 128 * e
  let s (k : Nat) : Int := toSigned 32 (fieldAt b (o + k) 4)
  let rel := fieldAt b (o + 0x62) 2
  ⟨(upFrom 0 24).map fun i => fieldAt b (o + 4 * i) 4, bits b (8 * (o + 0x60)) 11, bits rel 0 3, bits rel 3 3, bits rel 6 3,
   fieldAt b (o + 0x64) 2, fieldAt b (o + 0x66) 2, fieldAt b (o + 0x68) 4, s 0x6C, s 0x70, s 0x74, s 0x78, s 0x7C⟩

def progOf (b : Nat) : Prog :=
  ⟨fieldAt b 2 1, fieldAt b 8 4, fieldAt b 0xC 4, (upFrom 0 (fieldAt b 3 1)).map (layerAt b),
   (upFrom 0 (fieldAt b 4 1)).map (entryAt b)⟩

/-- The program of a stage slot and direction, 0 forward, 1 backward (07 R246). -/
def Rigging.prog (r : Rigging) (slot dir : Nat) : Prog := progOf (r.body (16256 + 2 * slot + dir))

/-! What the loaded images make of the package. -/

/-- The image that partition `p` has loaded. -/
def State.image? (s : State) (p : Nat) : Option Rigging := if (s.rig p).live then (s.rig p).image else none

/-- The image of a partition; without one, an empty image. -/
def State.imageOf (s : State) (p : Nat) : Rigging := (s.image? p).getD ⟨0, [], []⟩

def allParts : List Nat := upFrom 0 8

/-- The partitions that have an image loaded. -/
def State.loaded (s : State) : List Nat := allParts.filter fun p => (s.image? p).isSome

/-- The partition that holds stage slot `n`. -/
def State.slotPart (s : State) (n : Nat) : Option Nat :=
  s.loaded.find? fun p => ((s.imageOf p).stage? n).isSome

def State.stageCfg? (s : State) (n : Nat) : Option StageCfg :=
  (s.slotPart n).bind fun p => (s.imageOf p).stage? n

/-- The partition that holds landing `n`, and the landing's entry. -/
def State.landCfg? (s : State) (n : Nat) : Option (Nat × LandCfg) :=
  s.loaded.findSome? fun p => ((s.imageOf p).land? n).map fun c => (p, c)

/-- The partition whose job ID a message names (13 R458). -/
def State.jobPart (s : State) (job : Nat) : Option Nat := s.loaded.find? fun p => (s.imageOf p).jobId == job

/-- The GANG entry of a role (the even flight's, for a pair). -/
def Rigging.gangRole? (r : Rigging) (role : Nat) : Option Gang :=
  (sortBy (fun a b => decide (a.gf ≤ b.gf)) (r.gangs.filter fun g => g.role == role && g.shape < 4)).head?

/-- Whether a role is a pair (03 R86). -/
def Rigging.isPair (r : Rigging) (role : Nat) : Bool :=
  match r.gangRole? role with
  | some g => g.shape == 1 || g.shape == 2
  | none => false

/-- The roles of an image in ascending order. -/
def Rigging.roles (r : Rigging) : List Nat :=
  sortBy (fun a b => decide (a ≤ b)) (dedup ((r.gangs.filter fun g => g.shape < 4).map Gang.role))

/-- The STANDBY flights of an image (03 R87). -/
def Rigging.standby (r : Rigging) : List Nat := (r.gangs.filter fun g => g.shape == 4).map Gang.gf

/-- The flight that stands for a role now: `odd` 1 names flight 2k + 1 of a pair. -/
def State.roleFlight (s : State) (p role odd : Nat) : Option Nat :=
  let g := tget 0x7FF (s.rig p).place role
  if g = 0x7FF then none else some (g + odd)

/-- What a flight carries: partition, role, ODD. -/
def State.flightRole? (s : State) (gf : Nat) : Option (Nat × Nat × Nat) :=
  s.loaded.findSome? fun p =>
    let r := s.imageOf p
    (s.rig p).place.findSome? fun (role, g) =>
      if g = gf then some (p, role, 0) else if g + 1 = gf && r.isPair role then some (p, role, 1) else none

/-- The partition that holds a flight, placed or STANDBY. -/
def State.flightPart (s : State) (gf : Nat) : Option Nat :=
  match s.flightRole? gf with
  | some (p, _, _) => some p
  | none => s.loaded.find? fun p => (s.imageOf p).gangs.any fun g => g.gf == gf

/-- The flights placed for a role. -/
def State.roleFlights (s : State) (p role : Nat) : List Nat :=
  match s.roleFlight p role 0 with
  | some g => if (s.imageOf p).isPair role then [g, g + 1] else [g]
  | none => []

/-- The flights of a stage slot that carry its roles. -/
def State.stageFlights (s : State) (n : Nat) : List Nat :=
  match s.slotPart n with
  | none => []
  | some p =>
    let r := s.imageOf p
    (r.roles.filter fun role => ((r.gangRole? role).map Gang.slot) == some n).flatMap fun role => s.roleFlights p role

/-- The stage slot that drives a flight. -/
def State.flightStage? (s : State) (gf : Nat) : Option Nat :=
  (s.flightRole? gf).bind fun (p, role, _) => ((s.imageOf p).gangRole? role).map Gang.slot

/-! Tread numbers (00 R12) and rows (04 R146, R160). -/

/-- A tread ID from its flight, row and physical column. -/
def treadId (gf row col : Nat) : Nat := gf / 148 * 2 ^ 17 + gf % 148 * 2 ^ 9 + row * 2 ^ 5 + col
def treadGf (t : Nat) : Nat := bits t 17 3 * 148 + bits t 9 8
def treadRow (t : Nat) : Nat := bits t 5 4
def treadCol (t : Nat) : Nat := bits t 0 5

/-- The remap byte of a flight's row (04 R160), without FLIGHT_FENCED. -/
def State.rowByte (s : State) (gf row : Nat) : Nat := tget 0x1F s.fence.rows (gf * 16 + row)

/-- The physical column of logical column `c` of a row. -/
def State.physCol (s : State) (gf row c : Nat) : Nat :=
  let b := s.rowByte gf row
  if bit b 7 && bits b 0 5 ≤ c then c + 1 else c

/-- The logical column that a physical column carries. -/
def State.logCol? (s : State) (gf row c : Nat) : Option Nat :=
  let b := s.rowByte gf row
  if bit b 7 then
    if c < bits b 0 5 then some c else if c = bits b 0 5 then none else some (c - 1)
  else if c < 16 then some c else none

/-- The tread at a logical position of a role. -/
def State.roleTread (s : State) (p role odd row col : Nat) : Option Nat :=
  (s.roleFlight p role odd).map fun gf => treadId gf row (s.physCol gf row col)

/-- A tread's logical position: partition, role, ODD, row, logical column. -/
def State.treadRole? (s : State) (t : Nat) : Option (Nat × Nat × Nat × Nat × Nat) :=
  match s.flightRole? (treadGf t), s.logCol? (treadGf t) (treadRow t) (treadCol t) with
  | some (p, role, odd), some c => some (p, role, odd, treadRow t, c)
  | _, _ => none

/-- Whether a tread is fenced. -/
def State.treadFenced (s : State) (t : Nat) : Bool := tget 0 s.fence.treads t != 0
/-- Whether a flight is fenced. -/
def State.flightFenced (s : State) (gf : Nat) : Bool := tget 0 s.fence.flights gf != 0

/-- The treads of a flight that carry logical positions. -/
def State.flightTreads (s : State) (gf : Nat) : List Nat :=
  (upFrom 0 16).flatMap fun row => (upFrom 0 16).map fun c => treadId gf row (s.physCol gf row c)

/-! Channels (04 R138) and knots (R142) found by their ends. -/

/-- The route that a tread's outbound port is the source of: partition, ROUTE index, entry. -/
def State.portRoute? (s : State) (t port : Nat) : Option (Nat × Nat × Route) :=
  (s.treadRole? t).bind fun (p, role, odd, row, col) =>
    ((s.imageOf p).routes.zipIdx.find? fun (e, _) => e.srcRole == role && e.srcOdd == odd && e.srcRow == row
      && e.srcCol == col && e.srcPort == port).map fun (e, i) => (p, i, e)

/-- Where the limit and counter of an outbound port are held that sources no route, by partition and logical position, or by
physical tread where it carries none (04 R140, R158). -/
def barePort (p : Nat) (spare : Bool) (at_ port : Nat) : Nat := 2 ^ 44 * (1 + p + 8 * b2n spare) + 4 * at_ + port

/-- A logical position as one number. -/
def logicalAt (role odd row col : Nat) : Nat := ((role * 2 + odd) * 16 + row) * 16 + col

/-- The key under which a port's limit and counter are held. -/
def State.portKey? (s : State) (t port : Nat) : Option Nat :=
  match s.portRoute? t port, s.treadRole? t with
  | some (p, i, _), _ => some (Chan.route p i).key
  | none, some (p, role, odd, row, col) => some (barePort p false (logicalAt role odd row col) port)
  | none, none => (s.flightPart (treadGf t)).map fun p => barePort p true t port

/-- The channel that feeds a tread's inbound queue: a route, or a knot's output. -/
def State.queueChan? (s : State) (t q : Nat) : Option Chan :=
  (s.treadRole? t).bind fun (p, role, odd, row, col) =>
    match (s.imageOf p).routes.zipIdx.find? fun (e, _) => !e.dstKnot && e.dstRole == role && e.dstOdd == odd
      && e.dstRow == row && e.dstCol == col && e.dstQueue == q with
    | some (_, i) => some (.route p i)
    | none => ((s.imageOf p).knots.zipIdx.find? fun (e, _) => e.dstRole == role && e.dstOdd == odd && e.dstRow == row
        && e.dstCol == col && e.dstQueue == q).map fun (_, i) => .knot p i

/-- The knot that a route ends at: its index in the KNOT section. -/
def Rigging.routeKnot? (r : Rigging) (e : Route) : Option (Nat × KnotCfg) :=
  if e.dstKnot then
    (r.knots.zipIdx.find? fun (k, _) => k.role == e.dstRole && k.idx == e.knotIdx && k.odd == e.dstOdd).map
      fun (k, i) => (i, k)
  else none

/-- The routes that are the sources of knot `i`, in ROUTE section order (03 R92): their ROUTE indices. -/
def Rigging.knotSources (r : Rigging) (i : Nat) : List Nat :=
  match r.knots[i]? with
  | none => []
  | some k => (r.routes.zipIdx.filter fun (e, _) => e.dstKnot && e.dstRole == k.role && e.knotIdx == k.idx
      && e.dstOdd == k.odd).map fun (_, j) => j

/-- The number under which knot `i` of partition `p` is held. -/
def knotKey (p i : Nat) : Nat := p * 2 ^ 32 + i

/-- The credits that an image gives a channel. -/
def State.chanCredits (s : State) : Chan → Nat
  | .route p i => ((s.imageOf p).routes[i]?.map Route.credits).getD 0
  | .knot p i => ((s.imageOf p).knots[i]?.map KnotCfg.credits).getD 0

end Sys2Proof.Machine
end

