-- ==== Sys2Proof/Machine/Service.lean ====
section
/-!
DEFINITION. The step service's shared operations: messages put on rope channels, and how a cause found at this package
becomes a request, an order or a halt (13 R457 to R465, R474).
-/
namespace Sys2Proof.Machine
open State

/-- A message's 16-byte header (10 R371). -/
def msgHeader (kind epoch source len job target : Nat) : List Byte :=
  leBytes 1 kind ++ leBytes 1 epoch ++ leBytes 2 source ++ leBytes 4 len ++ leBytes 4 job ++ leBytes 4 target

/-- A message handed to channel `v` of rope `k`; 8 is the control channel. It waits there for flits (10 R371). -/
def sendMsg (k v : Nat) (hdr body : List Byte) (s : State) : State :=
  let r := s.rope k
  let c := lget (VChan.init v) r.chans v
  s.setRope k { r with chans := lset r.chans v { c with tx := c.tx ++ [hdr ++ body] } }
    |> put (.rope k v ⟨ofLe (hdr.take 1), hdr ++ body⟩)

/-- A message of the control channel: JOB_ID and TARGET 0 in its header. -/
def sendControl (k kind : Nat) (body : List Byte) : State → State :=
  sendMsg k 8 (msgHeader kind 0 0 body.length 0 0) body

/-! Tree messages (13 R458). -/
namespace Tree
def join : Nat := 0x10
def go : Nat := 0x11
def vote : Nat := 0x12
def decide_ : Nat := 0x13
def rewind : Nat := 0x14
def rewound : Nat := 0x15
def resume : Nat := 0x16
def heartbeat : Nat := 0x17
end Tree

/-- The body of a tree message. -/
def treeBody (m : TreeMsg) : List Byte :=
  leBytes 4 m.job ++ leBytes 1 m.flags ++ leBytes 1 m.cause ++ leBytes 2 0 ++ leBytes 8 m.step ++ leBytes 8 m.a
    ++ leBytes 8 m.b

def sendTree (k kind : Nat) (m : TreeMsg) : State → State := sendControl k kind (treeBody m)

/-- Whether the package is the root of a partition's commit tree. -/
def State.isRoot (s : State) (p : Nat) : Bool := s.on (Reg.TREE_CFG_ROOT p)
def State.parentRope (s : State) (p : Nat) : Nat := s.get (Reg.TREE_CFG_PARENT_ROPE p)
/-- The ropes to a partition's children that have joined. -/
def State.childRopes (s : State) (p : Nat) : List Nat := (s.svc p).joined.map fun j => j.1

/-- A tree message to every child. -/
def toChildren (p kind : Nat) (m : TreeMsg) (s : State) : State :=
  (s.childRopes p).foldl (fun s k => sendTree k kind m s) s

/-- Whether a partition has an edge to a parent: the root has none, and a rope number above 17 names none (00 R12). -/
def State.hasParent (s : State) (p : Nat) : Bool := !s.isRoot p && ropeOk (s.parentRope p)

/-- A tree message to the parent, if there is one. -/
def toParent (p kind : Nat) (m : TreeMsg) (s : State) : State :=
  if s.hasParent p then sendTree (s.parentRope p) kind m s else s

/-- The service's state, shown in STEP_STATUS.STATE. -/
def setSvcState (p : Nat) (st : SvcState) (s : State) : State :=
  s.setSvc p { s.svc p with state := st } |> set (Reg.STEP_STATUS_STATE p) st.code

/-! Actions and causes of 13 R462. -/
def actRewind : Nat := 0
def actRollback : Nat := 1
def actHalt : Nat := 2
namespace Why
def fence : Nat := 0x1
def lineLost : Nat := 0x2
def ropeFlush : Nat := 0x3
def linkLost : Nat := 0x4
def peer : Nat := 0x5
def software : Nat := 0x6
def takeover : Nat := 0x7
def program : Nat := 0x8
def diverged : Nat := 0x9
def exhausted : Nat := 0xA
def tree : Nat := 0xB
def peerLost : Nat := 0xC
end Why

/-- An MSI-X vector of a function: a number beyond the function's vectors is taken modulo their count (12 R454). -/
def vectorOf (fn v : Nat) : Nat := if fn = 0 then v % 1024 else v % 128

/-- A channel's vector signalled when an unmasked doorbell bit is set (12 R448). -/
def signalMailbox (c : Nat) (s : State) : State :=
  let fn := if c < 3 then 0 else s.get (Reg.BIND_MB_FUNC c)
  put (.irq fn (vectorOf fn (s.get (Reg.BIND_MB_VECTOR c)))) s

/-- Package-to-host bit `b` of channel `c` becomes set; an unmasked one that was clear signals the channel's vector. -/
def ringBell (c b : Nat) (s : State) : State :=
  let f := Reg.MB_P2H c
  let old := s.get f
  let s := s.set f (old ||| 2 ^ b)
  if bit old b || bit (s.get (Reg.MB_P2H_MASK c)) b then s else signalMailbox c s

/-- A STEP_NOTIFY bit of the channels bound to partition `p` (13 R456). -/
def notifyStep (p b : Nat) (s : State) : State :=
  (upFrom 3 61).foldl (fun s c =>
    if s.on (Reg.BIND_MB_VALID c) && s.get (Reg.BIND_MB_SERVICE c) == 0x10 + p then ringBell c b s else s) s

/-- The start of an interruption of partition `p`, local when its cause arose here (13 R476). -/
def beginOutage (p : Nat) (own : Bool) (s : State) : State :=
  match (s.svc p).outage with
  | some _ => s
  | none => s.setSvc p { s.svc p with outage := some (s.time, own) }

/-- The end of an interruption: its length in milliseconds, rounded up, is added to AVAIL_LOCAL or AVAIL_OTHER. -/
def endOutage (p : Nat) (s : State) : State :=
  match (s.svc p).outage with
  | none => s
  | some (t, own) =>
    let ms := (s.time - t + 999999) / 1000000
    s.setSvc p { s.svc p with outage := none }
      |> bump (if own then Reg.AVAIL_LOCAL_MS p else Reg.AVAIL_OTHER_MS p) ms

/-- A halt applied here: HALTED with the originating cause, nothing else (13 R463). -/
def applyHalt (p cause : Nat) (s : State) : State :=
  s.setSvc p { s.svc p with order := none, outage := none, rewound := [] }
    |> setSvcState p .halted |> set (Reg.STEP_STATUS_CAUSE p) cause |> notifyStep p 3

/-- The order message of 13 R458. -/
def orderMsg (s : State) (p kind target cause epoch : Nat) : TreeMsg :=
  ⟨(s.imageOf p).jobId, 1, cause, target, kind, epoch⟩

/-- A partition's wind-down begins (13 R465). -/
def beginWindDown (p : Nat) (s : State) : State :=
  let r := s.rig p
  if r.winding then s else s.setRig p { r with winding := true, windStart := s.time }

/-- An order taken up at this package (13 R463 steps 2 and 3): forwarded at once; a query stops admission, any other
order starts the wind-down. WAIT_PEER and HALTED end. The cause is recorded as 5 where another package asked; an order
that follows another keeps what that one recorded. Such an interruption, like every rollback, is not a local one. -/
def takeOrder (p : Nat) (kind : OrderKind) (target cause epoch : Nat) (s : State) : State :=
  let n := match kind with
    | .rewind => actRewind
    | _ => actRollback
  let v := s.svc p
  let own := match v.outage with
    | some (_, o) => o
    | none => false
  let ongoing := v.order.isSome
  let s := toChildren p Tree.rewind (orderMsg s p n target cause epoch) s
  let s := beginOutage p false s
  let v := s.svc p
  let v := { v with
    order := some ⟨kind, target, cause, epoch, kind == .query, kind == .query, false,
      match v.order with
      | some o => o.absorbed
      | none => none⟩
    rewound := []
    votes := []
    voted := none
    outage := if kind == .rewind then v.outage else v.outage.map fun o => (o.1, false) }
  let s := s.setSvc p v
    |> setSvcState p (if kind == .rewind then .rewinding else .rollback)
    |> set (Reg.STEP_STATUS_CAUSE p) (if own || ongoing then s.get (Reg.STEP_STATUS_CAUSE p) else Why.peer)
    |> notifyStep p 1
  match kind with
  | .query => s
  | _ => beginWindDown p s

/-- The next rewind epoch (07 R274, 13 R463). -/
def nextEpoch (s : State) (p : Nat) : Nat := ((s.svc p).epoch + 1) % 256

/-- A request that has reached the root (13 R463, R464): a halt goes out at once; a rewind while an order is outstanding
is absorbed into it; a rollback during a rewind order is kept for after the last REWOUND. -/
def rootRequest (p act cause : Nat) (s : State) : State :=
  let v := s.svc p
  if act == actHalt then
    toChildren p Tree.rewind (orderMsg s p actHalt 0 cause 0) s |> applyHalt p cause
  else match v.order with
    | some o =>
      if act == actRollback && o.kind == .rewind && o.absorbed.isNone then
        s.setSvc p { v with order := some { o with absorbed := some cause } }
      else s
    | none =>
      if v.state == .halted && cause != Why.software && cause != Why.takeover then s
      else if act == actRollback then takeOrder p .query 0 cause 0 s
      else takeOrder p .rewind (v.decided + 1) cause (nextEpoch s p) s

/-- A cause found at this package: recorded, and requested of the root (13 R462, R463). A service that has no job
running has nothing to interrupt, and a halt is no interruption (R476). -/
def findCause (p act cause : Nat) (s : State) : State :=
  let v := s.svc p
  if v.state == .idle || v.state == .joining || v.state == .treeError then s
  else
    let s := s.set (Reg.STEP_STATUS_CAUSE p) cause
    let s := if act == actHalt || (v.state == .halted && cause != Why.software) then s else beginOutage p true s
    if s.isRoot p then rootRequest p act cause s
    else toParent p Tree.rewind ⟨(s.imageOf p).jobId, 0, cause, 0, act, 0⟩ s

/-- A program fault of partition `p` (cause 0x8): the job halts. -/
def programFault (p : Nat) : State → State := findCause p actHalt Why.program

/-- The stamp of an event of a partition's work: the step and micro-batch of its stage. -/
def workStamp (s : State) (p slot : Nat) : Stamp :=
  let g := s.stage slot
  if g.mode == .idle then partStamp p else ⟨some (s.ctx g.cur).step, some (s.ctx g.cur).mbId, some p⟩

end Sys2Proof.Machine
end

