-- ==== Sys2Proof/Machine/TreadOps.lean ====
section
/-!
DEFINITION. What tread instructions share: registers, the step of the program counter, traps, data SRAM, accumulator
parts, and the four waits of channels (04 R127 to R138).
-/
namespace Sys2Proof.Machine
open State

/-- Scalar register `r`; s0 reads as 0 (04 R127). -/
def Tread.s (x : Tread) (r : Nat) : W32 := if r = 0 then 0 else tget 0 x.sreg r
/-- A scalar register written; a write to s0 is discarded. -/
def Tread.setS (r : Nat) (v : W32) (x : Tread) : Tread := if r = 0 then x else { x with sreg := tset 0 x.sreg r v }
/-- Vector register `r`. -/
def Tread.v (x : Tread) (r : Nat) : V256 := tget 0 x.vreg r
def Tread.setV (r : Nat) (v : V256) (x : Tread) : Tread := { x with vreg := tset 0 x.vreg r v }

/-- `n` more beats (04 R135, BEATS). -/
def Tread.beat (n : Nat) (x : Tread) : Tread := { x with beats := x.beats + BitVec.ofNat 32 n }
/-- The next instruction: the counter has ten bits. -/
def Tread.nextPc (x : Tread) : Tread := { x with pc := x.pc + 1 }
/-- An instruction's sticky flags (04 R135, FPFLAGS). -/
def Tread.flag (fl : Nat) (x : Tread) : Tread := { x with fpflags := x.fpflags ||| BitVec.ofNat 5 fl }

/-- An instruction of `n` beats that a tread in RUN executes: its effect on the tread, then the next instruction. A tread
in another state executes nothing. -/
def runTread (t n : Nat) (f : Tread → Tread) (s : State) : State :=
  if (s.tread t).st == .run then s.setTread t ((f (s.tread t)).beat n).nextPc else s

/-- An instruction that a tread in RUN executes with an effect on more than the tread. -/
def whenRun (t : Nat) (f : State → State) (s : State) : State := if (s.tread t).st == .run then f s else s

/-! Traps (04 R134). -/
namespace Cause
def illegal : Nat := 1
def misaligned : Nat := 2
def range : Nat := 3
def knotTuple : Nat := 4
def accNotHeld : Nat := 5
def portUnrouted : Nat := 6
def queueUnrouted : Nat := 7
def software : Nat := 8
end Cause

/-- A tread stops in TRAP at its present instruction: the record carries its ID, counter and cause, the gallery counts
it, and the step service halts the job (13 R462, cause 0x8). -/
def trapTread (t cause : Nat) (s : State) : State :=
  let x := s.tread t
  let s := s.setTread t { x with st := .trap, cause := cause, wait := .none }
  let s := s |> bump (Reg.TREAD_TRAPS_COUNT (treadGf t / 148)) 1
  match s.treadRole? t with
  | some (p, _) =>
    let st := match s.flightStage? (treadGf t) with
      | some n => workStamp s p n
      | none => partStamp p
    s |> raise Ev.treadTrap st [t, x.pc.toNat, cause] |> programFault p
  | none => s |> raise0 Ev.treadTrap [t, x.pc.toNat, cause]

/-! Data SRAM (04 R127, R133): byte addresses 0 to 0x3FFF. -/
def Tread.load (x : Tread) (a n : Nat) : List Byte := (upFrom a n).map fun i => tget 0 x.dmem i
def Tread.store (a : Nat) (l : List Byte) (x : Tread) : Tread :=
  { x with dmem := l.zipIdx.foldl (fun m (b, i) => tset 0 m (a + i) b) x.dmem }

/-- The address that base and offset give. -/
def Tread.addr (x : Tread) (ra : Nat) (imm : BitVec 16) : Nat := (x.s ra + imm.signExtend 32).toNat

/-- Whether an access of `n` bytes traps: misaligned before out of range (04 R134). -/
def accessFault (a n : Nat) : Option Nat :=
  if a % n ≠ 0 then some Cause.misaligned else if 0x4000 < a + n then some Cause.range else none

/-- A data SRAM access of `n` bytes and `b` beats, or its trap. -/
def memTread (t n b : Nat) (addr : Tread → Nat) (f : Nat → Tread → Tread) : State → State :=
  whenRun t fun s =>
    let a := addr (s.tread t)
    match accessFault a n with
    | some c => trapTread t c s
    | none => runTread t b (f a) s

/-! Channels (04 R138). -/

/-- The words go out on a channel: the counter falls, the words are on their way. -/
def sendWords (k : Nat) (ws : List W32) (s : State) : State :=
  let c := s.chan k
  s.setChan k { c with credit := c.credit - ws.length, wire := c.wire ++ ws, sendMoved := true }

/-- The `n` oldest words of a queue taken: one credit each is on its way back. -/
def takeWords (k n : Nat) (s : State) : State :=
  let c := s.chan k
  s.setChan k { c with queue := c.queue.drop n, back := c.back + n, recvMoved := true }

/-- The words that a waiting or starting send carries. -/
def Tread.sendList (x : Tread) : WaitOp → List W32
  | .send _ reg n => (upFrom reg n).map x.s
  | .vsend _ vr lane n => (upFrom lane n).map fun i => (x.v vr).extractLsb' (32 * i) 32
  | _ => []

/-- The vector with 32-bit lane `i` replaced. -/
def setLane (v : V256) (i : Nat) (w : W32) : V256 :=
  (v &&& ~~~(0xFFFFFFFF#256 <<< (32 * i))) ||| ((w.zeroExtend 256) <<< (32 * i))

/-- The registers that a receive fills. -/
def Tread.recvInto (ws : List W32) (x : Tread) : WaitOp → Tread
  | .recv _ _ reg => ws.zipIdx.foldl (fun x (w, i) => x.setS (reg + i) w) x
  | .vrecv _ _ vr lane => x.setV vr (ws.zipIdx.foldl (fun v (w, i) => setLane v (lane + i) w) (x.v vr))
  | _ => x

/-- The tread goes on after its channel instruction. -/
def resumeTread (t : Nat) (x : Tread) (s : State) : State :=
  s.setTread t ({ x with st := .run, wait := .none }.beat 1).nextPc

/-- A send or receive tried: it proceeds when the counter or the queue covers it, and otherwise the tread waits
(04 R138). Sends on an unrouted port, to a knot with another tuple length, and receives on an unfed queue trap (R134). -/
def tryWait (t : Nat) (w : WaitOp) (s : State) : State :=
  let x := s.tread t
  let hold := s.setTread t { x with st := .wait, wait := w }
  let doSend (port n : Nat) : State :=
    match s.portRoute? t port with
    | none => trapTread t Cause.portUnrouted s
    | some (p, i, e) =>
      let bad := match (s.imageOf p).routeKnot? e with
        | some (_, k) => k.tuple + 1 != n
        | none => false
      if bad then trapTread t Cause.knotTuple s
      else
        let k := (Chan.route p i).key
        if (n : Int) ≤ (s.chan k).credit then sendWords k (x.sendList w) s |> resumeTread t x else hold
  let doRecv (q n : Nat) : State :=
    match s.queueChan? t q with
    | none => trapTread t Cause.queueUnrouted s
    | some c =>
      let k := c.key
      if n ≤ (s.chan k).queue.length then
        takeWords k n s |> resumeTread t (x.recvInto ((s.chan k).queue.take n) w)
      else hold
  match w with
  | .send port _ n | .vsend port _ _ n => doSend port n
  | .recv q n _ | .vrecv q n _ _ => doRecv q n
  | .none => s

/-- A waiting tread tries again. -/
def wakeTread (t : Nat) (s : State) : State :=
  if (s.tread t).st == .wait then tryWait t (s.tread t).wait s else s

/-- The tread at the source of a route, and the tread at the end of a channel. -/
def State.routeSource (s : State) (p : Nat) (e : Route) : Option Nat := s.roleTread p e.srcRole e.srcOdd e.srcRow e.srcCol
def State.chanDest (s : State) : Chan → Option Nat
  | .route p i => (s.imageOf p).routes[i]?.bind fun e =>
      if e.dstKnot then none else s.roleTread p e.dstRole e.dstOdd e.dstRow e.dstCol
  | .knot p i => (s.imageOf p).knots[i]?.bind fun e => s.roleTread p e.dstRole e.dstOdd e.dstRow e.dstCol

/-! Accumulator parts (04 R137, 05 R164). -/

/-- Where a tread's 8 × 8 part of its array lies: the flight that drives the array, the array, its first row and
column in tile coordinates. -/
def State.accPart? (s : State) (t : Nat) : Option (Nat × Nat × Nat × Nat) :=
  (s.treadRole? t).bind fun (p, role, odd, row, col) =>
    ((s.imageOf p).gangRole? role).map fun g =>
      let gf := treadGf t - odd
      if g.shape = 3 then (gf, 2 * (row / 8) + col / 8, 8 * (row % 8), 8 * (col % 8))
      else if g.shape = 1 then (gf, 0, 8 * row, 8 * col + 128 * odd)
      else if g.shape = 2 then (gf, 0, 8 * row + 128 * odd, 8 * col)
      else (gf, 0, 8 * row, 8 * col)

def State.array (s : State) (gf a : Nat) : ArrayData := tget ArrayData.init (s.flight gf).arrays a
def setArray (gf a : Nat) (v : ArrayData) (s : State) : State :=
  let f := s.flight gf
  s.setFlight gf { f with arrays := tset ArrayData.init f.arrays a v }
def ArrayData.bank (a : ArrayData) (b : Nat) : Tbl Nat := if b = 0 then a.bank0 else a.bank1
def ArrayData.setBank (b : Nat) (v : Tbl Nat) (a : ArrayData) : ArrayData :=
  if b = 0 then { a with bank0 := v } else { a with bank1 := v }
def ArrayData.code (a : ArrayData) (b : Nat) : Bool := if b = 0 then a.code0 else a.code1
def ArrayData.setCode (b : Nat) (v : Bool) (a : ArrayData) : ArrayData :=
  if b = 0 then { a with code0 := v } else { a with code1 := v }
/-- The key of element (i, j) of a tile. -/
def accKey (i j : Nat) : Nat := i * 512 + j

/-- The treads that hold parts of an array, in both flights of a pair. -/
def State.arrayTreads (s : State) (gf a : Nat) : List Nat :=
  ((s.flightTreads gf) ++ (match s.flightRole? gf with
    | some (p, role, _) => if (s.imageOf p).isPair role then s.flightTreads (gf + 1) else []
    | none => [])).filter fun t => match s.accPart? t with
      | some (g, b, _, _) => g == gf && b == a
      | none => false

def Tread.heldBank (x : Tread) (b : Nat) : Bool := if b = 0 then x.held0 else x.held1
def Tread.setHeld (b : Nat) (v : Bool) (x : Tread) : Tread := if b = 0 then { x with held0 := v } else { x with held1 := v }

/-- A format-A instruction: a bank that the tread does not hold traps (04 R134, R137). -/
def withBank (t b : Nat) (f : Nat → Nat → Nat → Nat → State → State) : State → State :=
  whenRun t fun s =>
    if !(s.tread t).heldBank b then trapTread t Cause.accNotHeld s
    else match s.accPart? t with
      | some (gf, a, i, j) => f gf a i j s
      | none => trapTread t Cause.accNotHeld s

end Sys2Proof.Machine
end

