-- ==== Sys2Proof/Machine/DebugOps.lean ====
section
/-!
DEFINITION. How an operator debug access is counted and reported (14 R503), and how an injected fault's hit is (15 R516,
R517).
-/
namespace Sys2Proof.Machine
open State

/-- A count rounded up to the next multiple of 1,024. -/
def upTo1024 (n : Nat) : Nat := (n + 1023) / 1024 * 1024

/-- The counts journaled for a partition (13 R480, ATTEST_COUNTERS): reads, writes. -/
def journaledCounts (s : State) (p : Nat) : Nat × Nat :=
  match s.journal.latest 7 p with
  | some r => (ofLe (r.body.take 4), ofLe ((r.body.drop 4).take 4))
  | none => (0, 0)

/-- One debug access to contents of partition `p`: journaled before the first access of an unlock and before one that
passes the journaled value, counted, and reported to both rings with address, operation (1 write) and length. -/
def debugAccess (p : Nat) (write : Bool) (addr len : Nat) (s : State) : State :=
  let f := if write then Reg.DEBUG_WRITES_COUNT p else Reg.DEBUG_READS_COUNT p
  let r := s.get (Reg.DEBUG_READS_COUNT p) + b2n (!write)
  let w := s.get (Reg.DEBUG_WRITES_COUNT p) + b2n write
  let (jr, jw) := journaledCounts s p
  let s := if p ∈ s.sec.counted && r ≤ jr && w ≤ jw then s
    else { s with sec := { s.sec with counted := addOnce s.sec.counted p } }
      |> journalWrite 7 p (leBytes 4 (upTo1024 r) ++ leBytes 4 (upTo1024 w))
  s |> bump f 1 |> raise Ev.debugAccess (partStamp p) [p, addr % 2 ^ 32, addr / 2 ^ 32, b2n write, len]

/-- The injection in force ends: DONE, and the event reports its point and hits (15 R516). -/
def endInjection (s : State) : State :=
  match s.det.armed with
  | none => s
  | some i =>
    { s with det := { s.det with armed := none } }
      |> set Reg.INJ_STATUS_STATE 2
      |> raise0 Ev.injectDone [i.point, s.get Reg.INJ_STATUS_HITS]

/-- One hit of the armed injection, caused by event `seq`: counted against the partitions given (15 R517), and the
injection ends after its last one. -/
def hitInjection (seq : Nat) (parts : List Nat) (s : State) : State :=
  match s.det.armed with
  | none => s
  | some i =>
    let s := s |> bump Reg.INJ_STATUS_HITS 1 |> set Reg.INJ_LAST_SEQ_SEQ seq
    let s := parts.foldl (fun s p => debugAccess p true i.addr 0 s) s
    if i.left = 0 then s
    else
      let s := { s with det := { s.det with armed := some { i with left := i.left - 1 } } }
      if i.left = 1 then endInjection s else s

/-- Whether the armed injection names a word at `addr`: the bits of INJ_ADDR that its point uses (15 R514). -/
def State.injectedAt (s : State) (point addr : Nat) : Bool :=
  match s.det.armed with
  | some i => (if point = 2 then i.addr % 2 ^ 17 / 4 * 4 else i.addr % 2 ^ 18 / 8 * 8) == addr
  | none => false

/-- Whether the armed injection is of a point and target. -/
def State.injected (s : State) (point target : Nat) : Bool :=
  match s.det.armed with
  | some i => i.point == point && i.target == target
  | none => false

end Sys2Proof.Machine
end

