-- ==== Sys2Proof/Machine/Numbers.lean ====
section
/-!
DEFINITION. Element formats, exact binary32 arithmetic, the three roundings, MX blocks, head/tail pairs, the
counter-based generator and the orders of addition (06 R209 to R241). Patterns are numbers; a finite value is
`±m × 2^e` with whole `m` and `e`.
-/
namespace Sys2Proof.Machine

/-- A floating-point element format of 06 R209. -/
structure Fmt where
  width : Nat
  mbits : Nat
  bias : Int
  maxCode : Nat
  infCode : Option Nat
  nanCode : Option Nat
  deriving DecidableEq, Repr

def fp32 : Fmt := ⟨32, 23, 127, 0x7F7FFFFF, some 0x7F800000, some 0x7FC00000⟩
def bf16 : Fmt := ⟨16, 7, 127, 0x7F7F, some 0x7F80, some 0x7FC0⟩
def fp16 : Fmt := ⟨16, 10, 15, 0x7BFF, some 0x7C00, some 0x7E00⟩
def e5m2 : Fmt := ⟨8, 2, 15, 0x7B, some 0x7C, some 0x7E⟩
def e4m3 : Fmt := ⟨8, 3, 7, 0x7E, none, some 0x7F⟩
def e3m2 : Fmt := ⟨6, 2, 3, 0x1F, none, none⟩
def e2m3 : Fmt := ⟨6, 3, 1, 0x1F, none, none⟩
def e2m1 : Fmt := ⟨4, 1, 1, 0x7, none, none⟩

/-- What a pattern stands for; `sig` marks a NaN whose leading significand bit is clear. -/
inductive Num where
  | nan (sig : Bool)
  | inf (neg : Bool)
  | fin (neg : Bool) (m : Nat) (e : Int)
  deriving DecidableEq, Repr, Inhabited

/-- The exponent of the smallest subnormal. -/
def Fmt.emin (f : Fmt) : Int := 1 - f.bias - f.mbits

/-- The value of a pattern (06 R209). -/
def decodeF (f : Fmt) (c : Nat) : Num :=
  let s := bit c (f.width - 1)
  let k := c % 2 ^ (f.width - 1)
  let fin : Num :=
    let e := k / 2 ^ f.mbits
    let m := k % 2 ^ f.mbits
    if e = 0 then .fin s m f.emin else .fin s (m + 2 ^ f.mbits) (f.emin + (e : Int) - 1)
  match f.infCode with
  | some i => if k < i then fin else if k = i then .inf s else .nan (!(bit k (f.mbits - 1)))
  | none => match f.nanCode with
    | some _ => if k ≤ f.maxCode then fin else .nan false
    | none => fin

/-- The pattern of a sign and a magnitude code. -/
def withSign (f : Fmt) (s : Bool) (k : Nat) : Nat := b2n s * 2 ^ (f.width - 1) + k

/-- The canonical NaN of a format (06 R210); a format without NaN gives 0. -/
def canonNaN (f : Fmt) : Nat := f.nanCode.getD 0

/-- The roundings of 06 R218, R219 and R241: to nearest with ties to even, toward zero, stochastic with 16 random bits,
and stochastic with 8 random bits in emulation. -/
inductive Rounding where
  | rne
  | rtz
  | sr (r : Nat)
  | sr8 (r : Nat)
  deriving DecidableEq, Repr

/-- Whether `m / 2^d` is rounded up to the next whole number. -/
def roundUp (rnd : Rounding) (m d : Nat) : Bool :=
  let q := m / 2 ^ d
  let rem := m % 2 ^ d
  match rnd with
  | .rne => decide (2 * rem > 2 ^ d) || (decide (2 * rem = 2 ^ d) && q % 2 == 1)
  | .rtz => false
  | .sr r => decide (65536 ≤ 65536 * rem / 2 ^ d + r)
  | .sr8 r => decide (256 ≤ 256 * rem / 2 ^ d + r)

/-- The magnitude code of `m × 2^e` rounded to a format without regard to its largest value, and whether it is
inexact. -/
def roundCode (f : Fmt) (rnd : Rounding) (m : Nat) (e : Int) : Nat × Bool :=
  if m = 0 then (0, false)
  else
    let q : Int := max (e + (Nat.log2 m : Int) - f.mbits) f.emin
    let base := (q - f.emin).toNat * 2 ^ f.mbits
    if q ≤ e then (base + m * 2 ^ (e - q).toNat, false)
    else
      let d := (q - e).toNat
      (base + m / 2 ^ d + b2n (roundUp rnd m d), decide (m % 2 ^ d ≠ 0))

/-- Rounding of a nonzero or zero magnitude to a format (06 R218, R219): the code, whether it is inexact and whether it
passed the largest finite value. `sat` formats (MX elements) stop at the largest finite value in every mode. -/
def roundMag (f : Fmt) (sat : Bool) (rnd : Rounding) (m : Nat) (e : Int) : Nat × Bool × Bool :=
  let (c, x) := roundCode f rnd m e
  let exactOver := decide ((roundCode f .rtz m e).1 > f.maxCode) ||
    (decide ((roundCode f .rtz m e).1 = f.maxCode) && x)
  match rnd with
  | .rne => if c ≤ f.maxCode then (c, x, false)
            else (if sat then f.maxCode else f.infCode.getD f.maxCode, true, true)
  | .rtz => if c ≤ f.maxCode then (c, x, false) else (f.maxCode, true, true)
  | _ => if exactOver then (f.maxCode, true, true) else (c, x, false)

/-- A pattern with the FPFLAGS bits it sets (04 R135): [4] NaN, [3] invalid, [2] overflow, [1] underflow, [0] inexact. -/
structure FR where
  v : Nat
  fl : Nat
  deriving DecidableEq, Repr, Inhabited

/-- The canonical NaN with the NaN flag and, if `inv`, the invalid flag. -/
def nanR (f : Fmt) (inv : Bool) : FR := ⟨canonNaN f, 16 + 8 * b2n inv⟩

/-- `±m × 2^e` rounded once to a format with its flags. -/
def finish (f : Fmt) (rnd : Rounding) (s : Bool) (m : Nat) (e : Int) : FR :=
  let (c, x, ov) := roundMag f false rnd m e
  let top := e + (Nat.log2 m : Int)
  let d := Nat.log2 m - f.mbits
  let carries := decide (m / 2 ^ d + b2n (roundUp rnd m d) = 2 ^ (f.mbits + 1))
  let least := f.emin + f.mbits
  let tiny := if Config.tinyBeforeRounding then decide (top < least)
    else decide (top < least - 1) || (decide (top = least - 1) && !carries)
  ⟨withSign f s c, 4 * b2n ov + 2 * b2n (x && tiny && !ov && decide (m ≠ 0)) + b2n x⟩

/-- The value without the flags. -/
def rnd32 (s : Bool) (m : Nat) (e : Int) : Nat :=
  withSign fp32 s (roundMag fp32 false .rne m e).1

/-- Whether a NaN operand raises invalid. -/
def sigInv (n : Num) : Bool :=
  match n with
  | .nan s => s && Config.signalingNaNInvalid
  | _ => false

/-- The signed whole number `±m × 2^(e - lo)`. -/
def scaled (s : Bool) (m : Nat) (e lo : Int) : Int :=
  let v : Int := ((m * 2 ^ (e - lo).toNat : Nat) : Int)
  if s then -v else v

/-- The exact sum of two finite values as sign, magnitude and exponent; an exact zero takes the sign both share. -/
def addFin (s1 : Bool) (m1 : Nat) (e1 : Int) (s2 : Bool) (m2 : Nat) (e2 : Int) : Bool × Nat × Int :=
  let lo := min e1 e2
  let t := scaled s1 m1 e1 lo + scaled s2 m2 e2 lo
  if t = 0 then (s1 && s2, 0, lo) else (decide (t < 0), t.natAbs, lo)

/-- fp32_add of 06 R230 on numbers. -/
def addN (x y : Num) : FR :=
  match x, y with
  | .nan _, _ | _, .nan _ => nanR fp32 (sigInv x || sigInv y)
  | .inf a, .inf b => if a = b then ⟨withSign fp32 a 0x7F800000, 0⟩ else nanR fp32 true
  | .inf a, _ => ⟨withSign fp32 a 0x7F800000, 0⟩
  | _, .inf b => ⟨withSign fp32 b 0x7F800000, 0⟩
  | .fin s1 m1 e1, .fin s2 m2 e2 =>
    let (s, m, e) := addFin s1 m1 e1 s2 m2 e2
    finish fp32 .rne s m e

/-- A number with the opposite sign. -/
def negN : Num → Num
  | .nan s => .nan s
  | .inf s => .inf (!s)
  | .fin s m e => .fin (!s) m e

/-- fp32_mul of 06 R230 on numbers. -/
def mulN (x y : Num) : FR :=
  match x, y with
  | .nan _, _ | _, .nan _ => nanR fp32 (sigInv x || sigInv y)
  | .inf a, .inf b => ⟨withSign fp32 (a != b) 0x7F800000, 0⟩
  | .inf a, .fin s m _ | .fin s m _, .inf a =>
    if m = 0 then nanR fp32 true else ⟨withSign fp32 (a != s) 0x7F800000, 0⟩
  | .fin s1 m1 e1, .fin s2 m2 e2 => finish fp32 .rne (s1 != s2) (m1 * m2) (e1 + e2)

/-- fp32_fma of 06 R230: one rounding. -/
def fmaN (x y z : Num) : FR :=
  match x, y, z with
  | .nan _, _, _ | _, .nan _, _ | _, _, .nan _ => nanR fp32 (sigInv x || sigInv y || sigInv z ||
      (match x, y with
       | .inf _, .fin _ 0 _ | .fin _ 0 _, .inf _ => Config.fmaNaNInvalid
       | _, _ => false))
  | .fin s1 m1 e1, .fin s2 m2 e2, .fin s3 m3 e3 =>
    let (s, m, e) := addFin (s1 != s2) (m1 * m2) (e1 + e2) s3 m3 e3
    finish fp32 .rne s m e
  | .fin _ _ _, .fin _ _ _, .inf c => ⟨withSign fp32 c 0x7F800000, 0⟩
  | _, _, _ =>
    match mulN x y with
    | ⟨p, fl⟩ => if fl = 0 then
        match z with
        | .inf c => if bit p 31 = c then ⟨p, 0⟩ else nanR fp32 true
        | _ => ⟨p, 0⟩
      else nanR fp32 true

/-- fp32_div of 06 R230: a finite nonzero value over zero is an infinity with no flag. -/
def divN (x y : Num) : FR :=
  match x, y with
  | .nan _, _ | _, .nan _ => nanR fp32 (sigInv x || sigInv y)
  | .inf _, .inf _ => nanR fp32 true
  | .inf a, .fin s _ _ => ⟨withSign fp32 (a != s) 0x7F800000, 0⟩
  | .fin s _ _, .inf b => ⟨withSign fp32 (s != b) 0, 0⟩
  | .fin s1 m1 e1, .fin s2 m2 e2 =>
    if m2 = 0 then (if m1 = 0 then nanR fp32 true else ⟨withSign fp32 (s1 != s2) 0x7F800000, 0⟩)
    else if m1 = 0 then ⟨withSign fp32 (s1 != s2) 0, 0⟩
    else
      let n := m1 * 2 ^ (64 + Nat.log2 m2)
      let k : Int := 64 + (Nat.log2 m2 : Int)
      -- one more bit marks a remainder, so the one rounding is correct
      finish fp32 .rne (s1 != s2) (2 * (n / m2) + b2n (decide (n % m2 ≠ 0))) (e1 - e2 - k - 1)

/-- The largest whole number whose square is at most `n`, below `2^k`. -/
def isqrt (n : Nat) : Nat → Nat → Nat
  | 0, r => r
  | k + 1, r => if (r + 2 ^ k) * (r + 2 ^ k) ≤ n then isqrt n k (r + 2 ^ k) else isqrt n k r

/-- The square root of a number, correctly rounded (08 R301 VSQRT). -/
def sqrtN (x : Num) : FR :=
  match x with
  | .nan _ => nanR fp32 (sigInv x)
  | .inf s => if s then nanR fp32 true else ⟨0x7F800000, 0⟩
  | .fin s m e =>
    if m = 0 then ⟨withSign fp32 s 0, 0⟩
    else if s then nanR fp32 true
    else
      let (m, e) := if e % 2 = 0 then (m, e) else (2 * m, e - 1)
      let n := m * 2 ^ 64
      let r := isqrt n 64 0
      finish fp32 .rne false (2 * r + b2n (decide (r * r ≠ n))) (e / 2 - 33)

/-- The reciprocal square root, correctly rounded (04 R136 VRSQRT). -/
def rsqrtN (x : Num) : FR :=
  match x with
  | .nan _ => nanR fp32 (sigInv x)
  | .inf s => if s then nanR fp32 true else ⟨0, 0⟩
  | .fin s m e =>
    if m = 0 then ⟨withSign fp32 s 0x7F800000, 0⟩
    else if s then nanR fp32 true
    else
      let (m, e) := if e % 2 = 0 then (m, e) else (2 * m, e - 1)
      let k := 64 + Nat.log2 m
      let n := 2 ^ (2 * k)
      let r := isqrt (n / m) (k + 1) 0
      finish fp32 .rne false (2 * r + b2n (decide (r * r * m ≠ n))) (-(e / 2) - k - 1)

/-- binary32 operations on patterns, with flags. -/
def fadd (a b : Nat) : FR := addN (decodeF fp32 a) (decodeF fp32 b)
def fsub (a b : Nat) : FR := addN (decodeF fp32 a) (negN (decodeF fp32 b))
def fmul (a b : Nat) : FR := mulN (decodeF fp32 a) (decodeF fp32 b)
def fdiv (a b : Nat) : FR := divN (decodeF fp32 a) (decodeF fp32 b)
def ffma (a b c : Nat) : FR := fmaN (decodeF fp32 a) (decodeF fp32 b) (decodeF fp32 c)
def fsqrt (a : Nat) : FR := sqrtN (decodeF fp32 a)
def frsqrt (a : Nat) : FR := rsqrtN (decodeF fp32 a)
def frcp (a : Nat) : FR := divN (.fin false 1 0) (decodeF fp32 a)

/-- A NaN, an infinity, a zero by pattern. -/
def isNaN (a : Nat) : Bool := match decodeF fp32 a with
  | .nan _ => true
  | _ => false
def isFinite (a : Nat) : Bool := match decodeF fp32 a with
  | .fin _ _ _ => true
  | _ => false
def isZero (a : Nat) : Bool := a % 2 ^ 31 == 0

/-- A finite number as a rational comparison key: `x < y` on numbers that are not NaN. -/
def ltN (x y : Num) : Bool :=
  match x, y with
  | .nan _, _ | _, .nan _ => false
  | .inf a, .inf b => a && !b
  | .inf a, _ => a
  | _, .inf b => !b
  | .fin s1 m1 e1, .fin s2 m2 e2 => let lo := min e1 e2; decide (scaled s1 m1 e1 lo < scaled s2 m2 e2 lo)

def flt (a b : Nat) : Bool := ltN (decodeF fp32 a) (decodeF fp32 b)
def feq (a b : Nat) : Bool := !(isNaN a) && !(isNaN b) && !(flt a b) && !(flt b a)

/-- The operand that `less` prefers. The spec names no rule for a NaN operand, which gives the canonical NaN or the other
operand, or for zeros of both signs, which give one of the two (log 11). -/
def fpick (pick : Bool) (less : Nat → Nat → Bool) (a b : Nat) : FR :=
  let inv := sigInv (decodeF fp32 a) || sigInv (decodeF fp32 b)
  if isNaN a && isNaN b then nanR fp32 inv
  else if isNaN a then (if pick then nanR fp32 inv else ⟨b, 8 * b2n inv⟩)
  else if isNaN b then (if pick then nanR fp32 inv else ⟨a, 8 * b2n inv⟩)
  else if less a b then ⟨a, 0⟩ else if less b a then ⟨b, 0⟩ else ⟨if pick then a else b, 0⟩
/-- The lesser and the greater value. -/
def fmin (a b : Nat) : FR := fpick (Config.minPick a b) flt a b
def fmax (a b : Nat) : FR := fpick (Config.maxPick a b) (fun x y => flt y x) a b

/-- A value of any format in another format by one rounding; NaN and infinity as 06 R218. -/
def convN (f : Fmt) (rnd : Rounding) (x : Num) : FR :=
  match x with
  | .nan _ => nanR f false
  | .inf s => match f.infCode with
    | some i => ⟨withSign f s i, 0⟩
    | none => ⟨withSign f s f.maxCode, 0⟩
  | .fin s m e => finish f rnd s m e

/-- Widening to binary32 (06 R223); exact for every listed narrow format. -/
def widen (f : Fmt) (c : Nat) : Nat := (convN fp32 .rne (decodeF f c)).v

/-- A binary32 value with a NaN made canonical (06 R210). -/
def canon (x : Nat) : Nat := if isNaN x then 0x7FC00000 else x

/-- A whole number in binary32. -/
def fromInt (rnd : Rounding) (i : Int) : FR := finish fp32 rnd (decide (i < 0)) i.natAbs 0

/-- An unsigned count in binary32 (06 R230). -/
def fromNat (n : Nat) : Nat := (fromInt .rne n).v

/-! Head/tail pairs (06 R213, R214). -/

def pairOf (x : Nat) : Nat :=
  if isNaN x then 0x7FC00000
  else if bit x 15 then (x / 65536 + 1) % 65536 * 65536 + x % 65536 else x % 2 ^ 32

def ofPair (p : Nat) : Nat :=
  let h := p / 65536 % 65536
  match decodeF bf16 h with
  | .nan _ => 0x7FC00000
  | _ => if bit p 15 then (h + 65535) % 65536 * 65536 + p % 65536 else p % 2 ^ 32

/-! The counter-based generator (06 R225 to R227). -/

def philoxRound (c : Nat × Nat × Nat × Nat) (k0 k1 : Nat) : Nat × Nat × Nat × Nat :=
  let (c0, c1, c2, c3) := c
  let p0 := 0xD2511F53 * c0
  let p1 := 0xCD9E8D57 * c2
  ((p1 / 2 ^ 32) ^^^ c1 ^^^ k0, p1 % 2 ^ 32, (p0 / 2 ^ 32) ^^^ c3 ^^^ k1, p0 % 2 ^ 32)

def philoxRounds : Nat → Nat × Nat × Nat × Nat → Nat → Nat → Nat × Nat × Nat × Nat
  | 0, c, _, _ => c
  | n + 1, c, k0, k1 => philoxRounds n (philoxRound c k0 k1) ((k0 + 0x9E3779B9) % 2 ^ 32) ((k1 + 0xBB67AE85) % 2 ^ 32)

/-- The four output words. -/
def philox (c : Nat × Nat × Nat × Nat) (k0 k1 : Nat) : Nat × Nat × Nat × Nat := philoxRounds 10 c k0 k1

/-- The key of a rounding site: job seed, stream, tensor number and step (06 R226). -/
structure RngKey where
  seed : Nat
  stream : Nat
  tensor : Nat
  step : Nat
  deriving DecidableEq, Repr, Inhabited

/-- The 16 random bits of element `e` (06 R226, R227). -/
def randBits (k : RngKey) (e : Nat) : Nat :=
  let (w0, w1, w2, w3) := philox
    (bits e 3 32, k.stream % 65536 * 65536 + bits e 35 13, k.tensor % 2 ^ 32, k.step % 2 ^ 32)
    (k.seed % 2 ^ 32) (k.seed / 2 ^ 32 % 2 ^ 32)
  let w := match bits e 1 2 with
    | 0 => w0
    | 1 => w1
    | 2 => w2
    | _ => w3
  if e % 2 = 0 then w % 65536 else w / 65536

/-- The rounding that an RND code names at element `e`: 0 nearest, 1 toward zero, 2 stochastic (05 R189, 04 R136);
`emu` takes the eight high bits (06 R241). -/
def rndOf (rnd : Nat) (emu : Bool) (k : RngKey) (e : Nat) : Rounding :=
  match rnd with
  | 0 => .rne
  | 1 => .rtz
  | _ => if emu then .sr8 (randBits k e / 256) else .sr (randBits k e)

/-! Orders of addition (06 R232 to R240). -/

/-- Adjacent pairs added. -/
def addPairs : List Nat → List Nat
  | a :: b :: r => (fadd a b).v :: addPairs r
  | l => l

/-- Zeros appended up to `n` elements. -/
def padZero (n : Nat) (l : List Nat) : List Nat := l ++ List.replicate (n - l.length) 0

/-- The least power of two at or above `n`, reached within `k` doublings. -/
def pow2At : Nat → Nat → Nat → Nat
  | 0, _, p => p
  | k + 1, n, p => if n ≤ p then p else pow2At k n (2 * p)

def treeLevels : Nat → List Nat → List Nat
  | 0, l => l
  | k + 1, l => if l.length ≤ 1 then l else treeLevels k (addPairs l)

/-- tree_sum of 06 R232. -/
def treeSum (l : List Nat) : Nat :=
  let x := lget 0 (treeLevels 40 (padZero (pow2At 40 l.length 1) l)) 0
  if isZero x then 0 else x

/-- The exact sum of finite values as a whole number at exponent `lo`. -/
def exactSum (lo : Int) : List Num → Int
  | [] => 0
  | .fin s m e :: r => scaled s m e lo + exactSum lo r
  | _ :: r => exactSum lo r

def minExp : List Num → Int
  | [] => 0
  | .fin _ _ e :: r => min e (minExp r)
  | _ :: r => minExp r

/-- The exact product of two numbers; a NaN marks what 06 R236 calls a NaN. -/
def prodN (x y : Num) : Num :=
  match x, y with
  | .nan _, _ | _, .nan _ => .nan false
  | .inf a, .inf b => .inf (a != b)
  | .inf a, .fin s m _ | .fin s m _, .inf a => if m = 0 then .nan false else .inf (a != s)
  | .fin s1 m1 e1, .fin s2 m2 e2 => .fin (s1 != s2) (m1 * m2) (e1 + e2)

/-- What 06 R236 fixes for a block: a NaN, an infinity, or nothing. -/
def blockSpecial (l : List Num) : Option Num :=
  if l.any (fun x => match x with | .nan _ => true | _ => false) then some (.nan false)
  else
    let p := l.any (fun x => x == .inf false)
    let n := l.any (fun x => x == .inf true)
    if p && n then some (.nan false) else if p then some (.inf false) else if n then some (.inf true) else none

/-- The pattern of a special block result. -/
def specialCode : Num → Nat
  | .inf s => withSign fp32 s 0x7F800000
  | _ => 0x7FC00000

/-- floor(log2) of the largest magnitude among products, if one is not zero. -/
def maxLog : List Num → Option Int
  | [] => none
  | .fin _ m e :: r =>
    if m = 0 then maxLog r
    else match maxLog r with
      | none => some (e + (Nat.log2 m : Int))
      | some b => some (max (e + (Nat.log2 m : Int)) b)
  | _ :: r => maxLog r

/-- A product truncated toward zero at weight `2^w` (06 R233). -/
def truncAt (w : Int) : Num → Num
  | .fin s m e => if w ≤ e then .fin s m e else .fin s (m / 2 ^ (w - e).toNat) w
  | x => x

/-- The exact block sum of normal order as a signed whole number with exponent (06 R233). -/
def blockSum (wide : Bool) (ps : List Num) : Int × Int :=
  let qs := if wide then match maxLog ps with
      | some E => ps.map (truncAt (E - 40))
      | none => ps
    else ps
  let lo := minExp qs
  (exactSum lo qs, lo)

/-- One block of normal order: the rounded block sum before it is added (06 R233, R236). `sc` is the exponent of the MX
scales, none when a scale is 0xFF. -/
def blockNormal (wide : Bool) (sc : Option Int) (a b : List Num) : Nat :=
  match sc with
  | none => 0x7FC00000
  | some k =>
    let ps := List.zipWith prodN a b
    match blockSpecial ps with
    | some x => specialCode x
    | none => let (t, lo) := blockSum wide ps; rnd32 (decide (t < 0)) t.natAbs (lo + k)

/-- `2^k` in binary32, the scale factor of 06 R234. -/
def pow2F (k : Int) : Nat := rnd32 false 1 k

/-- The number of a pattern in binary32. -/
def num32 (a : Nat) : Num := decodeF fp32 a

/-- One block of reference order (06 R234): binary32 products in a tree, then the two MX scales (−127-biased), none when
a scale is 0xFF, and `mx` false for formats without scales. -/
def blockReference (mx : Bool) (sa sb : Nat) (a b : List Num) : Nat :=
  if mx && (sa == 255 || sb == 255) then 0x7FC00000
  else
    let s := treeSum (List.zipWith (fun x y => (mulN x y).v) a b)
    if mx then (fmul (fmul s (pow2F ((sa : Int) - 127))).v (pow2F ((sb : Int) - 127))).v else s

/-- ftz of 06 R240. -/
def ftz (x : Nat) : Nat := if x % 2 ^ 31 < 2 ^ 23 then x / 2 ^ 31 * 2 ^ 31 else x

/-- round_rtz_fp32 of an exact sum. -/
def rtz32 (t : Int) (lo : Int) : Nat := withSign fp32 (decide (t < 0)) (roundMag fp32 false .rtz t.natAbs lo).1

/-- One block of OCM-A412 emulation before it is added (06 R240). -/
def blockEmulate (mx : Bool) (sc : Option Int) (a b : List Num) : Nat :=
  match sc with
  | none => 0x7FC00000
  | some k =>
    let ps := List.zipWith prodN a b
    match blockSpecial ps with
    | some x => specialCode x
    | none =>
      let h (l : List Num) : Nat := let lo := minExp l; rtz32 (exactSum lo l) lo
      let n0 := num32 (h (ps.take 16))
      let n1 := num32 (h (ps.drop 16))
      let lo := minExp [n0, n1]
      let s := rtz32 (exactSum lo [n0, n1]) lo
      if mx then
        match num32 s with
        | .fin sg m e => ftz (rnd32 sg m (e + k))
        | _ => s
      else s

/-! MX blocks (06 R220 to R222). -/

/-- emax of 06 R220. -/
def emaxOf (f : Fmt) : Int :=
  if f = e4m3 then 8 else if f = e5m2 then 15 else if f = e3m2 then 4 else 2

/-- floor(log2 x) of a nonzero finite magnitude. -/
def log2F (a : Nat) : Int := match num32 a with
  | .fin _ m e => e + (Nat.log2 m : Int)
  | _ => 0

/-- The block scale for the valid elements of a block (06 R220, R222). -/
def mxScale (f : Fmt) (xs : List Nat) : Nat :=
  if xs.any (fun x => !isFinite x) then 0xFF
  else
    let am := xs.foldl (fun a x => max a (x % 2 ^ 31)) 0
    if am = 0 then 0x7F else (max 0 (log2F am - emaxOf f + 127)).toNat

/-- One element of an MX block with scale `S` (06 R220 to R222). -/
def mxElem (f : Fmt) (S : Nat) (rnd : Rounding) (x : Nat) : Nat :=
  if S = 0xFF then 0
  else match num32 x with
    | .fin s m e => withSign f s (roundMag f true rnd m (e + 127 - S)).1
    | _ => 0

/-- The value of an MX element with scale `S` in binary32 or BF16 (06 R211, R223). -/
def mxValue (target f : Fmt) (S c : Nat) : Nat :=
  if S = 0xFF then canonNaN target
  else match decodeF f c with
    | .nan _ => canonNaN target
    | .inf s => withSign target s (target.infCode.getD 0)
    | .fin s m e => (finish target .rne s m (e + (S : Int) - 127)).v

/-- Narrowing of a binary32 value to a 16-bit format (06 R218). -/
def narrow (f : Fmt) (rnd : Rounding) (x : Nat) : FR := convN f rnd (num32 x)

end Sys2Proof.Machine
end

