-- ==== Sys2Proof/Machine/RouteOps.lean ====
section
/-!
DEFINITION. The paths of channel routes over flight routers, the placement of roles, and the die links that a message crosses
(11 R408, R411, R412, 03 R90, R109, R118).
-/
namespace Sys2Proof.Machine
open State

/-- The flight at a grid position of a gallery: column `f div 4`, row `f mod 4`. -/
def gridFlight (g x y : Nat) : Nat := g * 148 + 4 * x + y

/-- The positions passed from `a`, which is left out, to `b`. -/
def stepsTo (a b : Nat) : List Nat := if a ≤ b then upFrom (a + 1) (b - a) else (upFrom b (a - b)).reverse

/-- The routers passed while `n` galleries are crossed along row `y`, and the column reached. -/
def crossGalleries (up : Bool) (y : Nat) : Nat → Nat → Nat → List Nat × Nat
  | 0, _, x => ([], x)
  | n + 1, g, x =>
    let out := if up then 36 else 0
    let g2 := (g + if up then 1 else 7) % 8
    let (l, x2) := crossGalleries up y n g2 (36 - out)
    ((stepsTo x out).map (fun c => gridFlight g c y) ++ [gridFlight g2 (36 - out) y] ++ l, x2)

/-- Every flight router that a route between two flights enters. -/
def routePath (a b : Nat) : List Nat :=
  let (ga, fa) := (a / 148, a % 148)
  let (gb, fb) := (b / 148, b % 148)
  let d := (gb + 8 - ga) % 8
  let up := decide (d ≤ 4)
  let (l, x) := crossGalleries up (fa % 4) (if up then d else 8 - d) ga (fa / 4)
  [a] ++ l ++ (stepsTo x (fb / 4)).map (fun c => gridFlight gb c (fa % 4))
    ++ (stepsTo (fa % 4) (fb % 4)).map (fun r => gridFlight gb (fb / 4) r)

/-- The flights that a route of an image joins, at a placement of its roles. -/
def Route.ends (e : Route) (place : Tbl Nat) : Nat × Nat :=
  (tget 0x7FF place e.srcRole + e.srcOdd, tget 0x7FF place e.dstRole + e.dstOdd)

/-- Router counts with the routes of an image added at a placement; a route of a role that has no flight passes none. -/
def addRoutes (r : Rigging) (place : Tbl Nat) (loads : Tbl Nat) : Tbl Nat :=
  r.routes.foldl (fun m e =>
    let (a, b) := e.ends place
    if 1184 ≤ a || 1184 ≤ b then m else (routePath a b).foldl (fun m f => tset 0 m f (tget 0 m f + 1)) m) loads

/-- Router counts of every loaded image but `p`'s, at present placements. -/
def State.otherLoads (s : State) (p : Nat) : Tbl Nat :=
  (s.loaded.filter (· != p)).foldl (fun m q => addRoutes (s.imageOf q) (s.rig q).place m) []

/-- Whether no router carries more than 2,048 routes (R90). -/
def loadsFit (m : Tbl Nat) : Bool := m.all fun x => decide (x.2 ≤ 2048)

/-- The flights of a role placed at `g`. -/
def Rigging.at (r : Rigging) (role g : Nat) : List Nat := if r.isPair role then [g, g + 1] else [g]

/-- The GANG placement of an image: each role's flight, the even one of a pair. -/
def Rigging.home (r : Rigging) : Tbl Nat :=
  r.roles.foldl (fun m role => tset 0x7FF m role (((r.gangRole? role).map Gang.gf).getD 0x7FF)) []

/-- The first alternate of a role that is unfenced, STANDBY and not taken and passes the route check with the other
roles as `place` has them (R109, R118). -/
def State.alternate? (s : State) (r : Rigging) (others place : Tbl Nat) (taken : List Nat) (role : Nat) : Option Nat :=
  (r.alts role).find? fun g =>
    ((r.at role g).all fun x => r.standby.contains x && !s.flightFenced x && !taken.contains x)
      && loadsFit (addRoutes r (tset 0x7FF place role g) others)

/-- The placement of R109 over the roles in ascending order: the present flight of every role, or the first role that
has none. -/
def State.placeRoles (s : State) (r : Rigging) (others : Tbl Nat) : List Nat → Tbl Nat → List Nat → Tbl Nat ⊕ Nat
  | [], place, _ => .inl place
  | role :: rest, place, taken =>
    let g := tget 0x7FF place role
    if (r.at role g).all fun x => !s.flightFenced x then s.placeRoles r others rest place taken
    else match s.alternate? r others place taken role with
      | some a => s.placeRoles r others rest (tset 0x7FF place role a) (taken ++ r.at role a)
      | none => .inr role

/-- The placement of an image of partition `p` under the fence map in force, or the role without one. -/
def State.placement (s : State) (p : Nat) (r : Rigging) : Tbl Nat ⊕ Nat :=
  s.placeRoles r (s.otherLoads p) r.roles r.home []

/-- The flights that a partition's roles stand on. -/
def State.placedFlights (s : State) (p : Nat) : List Nat :=
  (s.imageOf p).roles.flatMap fun role => s.roleFlights p role

/-! The die links on a message's way (11 R408, R411, R412). -/

/-- The pairs that a message crosses from one die to another: first bundle and number of bundles. Round the ring it takes
the shorter way, the increasing one on a tie. -/
def diePairs (a b : Nat) : List (Nat × Nat) :=
  if a = b then []
  else if a = 8 then [(128 + 2 * b, 2)]
  else if b = 8 then [(128 + 2 * a, 2)]
  else
    let up := (b + 8 - a) % 8
    if up ≤ 4 then (upFrom 0 up).map fun i => (16 * ((a + i) % 8), 16)
    else (upFrom 0 (8 - up)).map fun i => (16 * ((a + 7 - i) % 8), 16)

/-- The bundles of a pair from its bundle `b` on, in ascending order, wrapping round. -/
def pairFrom (pair : Nat × Nat) (b : Nat) : List Nat := (upFrom 0 pair.2).map fun i => pair.1 + (b + i) % pair.2

/-- The bundle of a pair that serves a line: the line bundle, or the next active one in ascending order. -/
def State.lineBundle (s : State) (pair : Nat × Nat) (line : Nat) : Option Nat :=
  (pairFrom pair line).find? fun n => s.get (Reg.DL_STATUS_STATE n) == 2

/-- The bundle of a pair on which a channel route crosses: bundle (source role + destination role) mod 16, or the next
active one that carries channel 2 (11 R408, R411, R412). -/
def State.routeBundle (s : State) (pair : Nat × Nat) (src dst : Nat) : Option Nat :=
  (pairFrom pair (src + dst)).find? fun n => s.get (Reg.DL_STATUS_STATE n) == 2 && bit (s.get (Reg.DL_STATUS_CHANNELS n)) 2

/-- Whether every die link that a route between two flights crosses has a bundle that takes it now. -/
def State.crosses (s : State) (a b src dst : Nat) : Bool :=
  (diePairs (a / 148) (b / 148)).all fun x => (s.routeBundle x src dst).isSome

/-- Whether a route between two flights crosses a bundle now. -/
def State.crossesOn (s : State) (n a b src dst : Nat) : Bool :=
  (diePairs (a / 148) (b / 148)).any fun x => s.routeBundle x src dst == some n

/-- The partitions with a channel route on a bundle, from a tread or from a knot (15 R517; log 104). -/
def State.bundleParts (s : State) (n : Nat) : List Nat :=
  s.loaded.filter fun p =>
    let place := (s.rig p).place
    ((s.imageOf p).routes.any fun e => s.crossesOn n (e.ends place).1 (e.ends place).2 e.srcRole e.dstRole)
      || (s.imageOf p).knots.any fun k =>
        s.crossesOn n (tget 0x7FF place k.role + k.odd) (tget 0x7FF place k.dstRole + k.dstOdd) k.role k.dstRole

/-- Whether a channel's words can cross to where they go: from the source's gallery, or from its knot's. -/
def State.chanCrosses (s : State) : Chan → Bool
  | .route p i => match (s.imageOf p).routes[i]? with
    | some e => s.crosses (e.ends (s.rig p).place).1 (e.ends (s.rig p).place).2 e.srcRole e.dstRole
    | none => true
  | .knot p i => match (s.imageOf p).knots[i]? with
    | some k => s.crosses (tget 0x7FF (s.rig p).place k.role + k.odd) (tget 0x7FF (s.rig p).place k.dstRole + k.dstOdd) k.role k.dstRole
    | none => true

end Sys2Proof.Machine
end

