-- ==== Sys2Proof/Machine/Channels.lean ====
section
/-!
DEFINITION. Commands of channels, knots and the stall watchdog (04 R138 to R162).
-/
namespace Sys2Proof.Machine
open State

/-- Wakes the tread at a channel's end. -/
def wakeDest (c : Chan) (s : State) : State :=
  match s.chanDest c with
  | some t => wakeTread t s
  | none => s

/-- WORD_DELIVERY: the oldest word on its way reaches the destination queue; a waiting receive may proceed. Words for a knot
arrive as contributions. A word stays on its way while some die link that it crosses has no bundle for it (11 R411). -/
def execWordDelivery (c : Chan) (s : State) : Result :=
  perform (chanOk c) (fun s =>
    match s.chanDest c, (s.chan c.key).wire with
    | some _, w :: r =>
      if !s.chanCrosses c then s
      else
        let d := s.chan c.key
        s.setChan c.key { d with wire := r, queue := d.queue ++ [w] } |> wakeDest c
    | _, _ => s) s

/-- CREDIT_RETURN: a returned credit adds 1 to the sending port's or knot's counter; a waiting send may proceed. -/
def execCreditReturn (c : Chan) (s : State) : Result :=
  perform (chanOk c) (fun s =>
    let d := s.chan c.key
    if d.back = 0 then s
    else
      let s := s.setChan c.key { d with back := d.back - 1, credit := d.credit + 1 }
      match c with
      | .route p i => match (s.imageOf p).routes[i]?.bind fun e => s.routeSource p e with
        | some t => wakeTread t s
        | none => s
      | .knot _ _ => s) s

/-- Two tuples added word by word modulo 2³² (04 R144). -/
def addWords : List W32 → List W32 → List W32
  | a :: r, b :: q => (a + b) :: addWords r q
  | [], l => l
  | l, [] => l

/-- KNOT_CONTRIBUTION: a whole contribution of route `i` arrives at its knot. A floating-point knot stores it by source
index; an integer knot adds it to its running total (04 R143, R144). -/
def execKnotContribution (p i : Nat) (s : State) : Result :=
  perform (partOk p) (fun s =>
    let r := s.imageOf p
    match r.routes[i]?.bind r.routeKnot? with
    | none => s
    | some (ki, k) =>
      let c := s.chan (Chan.route p i).key
      let n := k.tuple + 1
      if c.wire.length < n || !s.chanCrosses (.route p i) then s
      else
        let ws := c.wire.take n
        let src := (r.knotSources ki).findIdx (· == i)
        let d := s.knot (knotKey p ki)
        let d := if k.kind = 1 then { d with parts := tset [] d.parts src ws }
          else { d with total := addWords d.total ws }
        s.setChan (Chan.route p i).key { c with wire := c.wire.drop n }
          |> setKnot (knotKey p ki) { d with sources := d.sources ++ [src], moved := true }) s

/-- The total of a complete knot (04 R143, R144). -/
def knotTotal (k : KnotCfg) (d : Knot) : List W32 :=
  if k.kind = 1 then
    (upFrom 0 (k.tuple + 1)).map fun w =>
      let c (j : Nat) : Nat := (lget 0 (tget [] d.parts j) w).toNat
      BitVec.ofNat 32 ((upFrom 1 (k.count - 1)).foldl (fun t j => (fadd t (c j)).v) (c 0))
  else d.total

/-- KNOT_DELIVERY: a complete knot, once its output's counter covers the tuple, delivers its total to the destination queue,
returns the sources' credits, and clears (04 R145). -/
def execKnotDelivery (p ki : Nat) (s : State) : Result :=
  perform (partOk p) (fun s =>
    let r := s.imageOf p
    match r.knots[ki]? with
    | none => s
    | some k =>
      let d := s.knot (knotKey p ki)
      let out := Chan.knot p ki
      let c := s.chan out.key
      let n := k.tuple + 1
      if d.sources.length < k.count || c.credit < (n : Int) || !s.chanCrosses out then s
      else
        let s := s.setChan out.key { c with credit := c.credit - n, queue := c.queue ++ knotTotal k d, sendMoved := true }
          |> setKnot (knotKey p ki) { Knot.init with moved := true }
        let s := (r.knotSources ki).foldl (fun s i =>
          let e := s.chan (Chan.route p i).key
          s.setChan (Chan.route p i).key { e with back := e.back + n }) s
        wakeDest out s) s

/-! The selection of a gallery (04 R155, R156). -/

/-- What a selection names: kind, flight, tread, index. -/
structure Selected where
  kind : Nat
  gf : Nat
  tread : Nat
  index : Nat
  deriving DecidableEq, Repr, Inhabited

/-- What CHAN_SEL names. A FLIGHT above 147 names no flight: it is shown as the number 0xFFF (00 R12). -/
def State.selected (s : State) (g : Nat) : Selected :=
  let f := s.get (Reg.CHAN_SEL_FLIGHT g)
  let gf := if f < 148 then g * 148 + f else 0xFFF
  ⟨s.get (Reg.CHAN_SEL_KIND g), gf, treadId gf (s.get (Reg.CHAN_SEL_ROW g)) (s.get (Reg.CHAN_SEL_COL g)),
   s.get (Reg.CHAN_SEL_INDEX g)⟩

/-- The knot of a flight router: partition, KNOT index, entry. -/
def State.flightKnot? (s : State) (gf idx : Nat) : Option (Nat × Nat × KnotCfg) :=
  (s.flightRole? gf).bind fun (p, role, odd) =>
    ((s.imageOf p).knots.zipIdx.find? fun (k, _) => k.role == role && k.odd == odd && k.idx == idx).map
      fun (k, i) => (p, i, k)

/-- CHAN_STATE.VALID: an existing, unfenced resource held by a loaded image. -/
def State.selValid (s : State) (g : Nat) : Bool :=
  let x := s.selected g
  decide (s.get (Reg.CHAN_SEL_FLIGHT g) < 148) && !s.flightFenced x.gf && (s.flightPart x.gf).isSome &&
    (if x.kind = 2 then (s.flightKnot? x.gf x.index).isSome
     else treadOk x.tread && !s.treadFenced x.tread && (x.kind == 3 || decide (x.index < 4)))

/-- The selected port's new limit, at most 16 and at most the tuple of a knot it ends at; the difference is added to the
counter (04 R139, R140, R158). A port that sources no route holds its limit too. -/
def setChanLimit (g value : Nat) (s : State) : State :=
  let x := s.selected g
  if x.kind ≠ 1 || !s.selValid g || bits value 24 8 ≠ s.get (Reg.CHAN_SEL_TICKET g) then s
  else match s.portKey? x.tread x.index with
    | none => s
    | some k =>
      let l := min (bits value 0 5) 16
      let l := match (s.portRoute? x.tread x.index).bind fun (p, _, e) => (s.imageOf p).routeKnot? e with
        | some (_, n) => min l (n.tuple + 1)
        | none => l
      let c := s.chan k
      s.setChan k { c with limit := l, credit := c.credit + ((l : Int) - (c.limit : Int)) } |> wakeTread x.tread

/-- CHAN_LIMIT_WRITE: a write of CHAN_LIMIT. -/
def execChanLimitWrite (g : Nat) (value : W32) (s : State) : Result :=
  perform (decide (g < 8)) (setChanLimit g value.toNat) s

/-- The oldest word of the selected queue. Of a tread that a partition holds it is a debug access while debug is unlocked,
and reads 0 while it is locked (04 R157, 14 R502, R503). -/
def readChanHead (g : Nat) (s : State) : Nat × State :=
  let x := s.selected g
  let word : Nat := if x.kind = 0 && s.selValid g then
      match s.queueChan? x.tread x.index with
      | some c => (lget 0 (s.chan c.key).queue 0).toNat
      | none => 0
    else 0
  match if x.kind ≠ 2 && treadOk x.tread then s.flightPart x.gf else none with
  | none => (word, s)
  | some p =>
    if !s.on Reg.DBG_STATUS_UNLOCKED then (0, s)
    else (word, debugAccess p false (Reg.CHAN_HEAD g).base 4 s)

/-- CHAN_HEAD_READ: a read of CHAN_HEAD. -/
def execChanHeadRead (g : Nat) (s : State) : Result :=
  perform (decide (g < 8)) (fun s =>
    let (v, s) := readChanHead g s
    s.put (.value v)) s

/-! The stall watchdog (04 R150 to R153). -/

/-- A channel as the watchdog sees it: a port of a tread, a queue of a tread, a knot of a partition. -/
inductive StallRef where
  | port (t i : Nat)
  | queue (t i : Nat)
  | knot (p i : Nat)
  deriving DecidableEq, Repr, Inhabited

/-- The channel that a tread waits on. -/
def State.waitsOn (s : State) (t : Nat) : Option StallRef :=
  let x := s.tread t
  if x.st == .wait then
    match x.wait with
    | .send i _ _ | .vsend i _ _ _ => some (.port t i)
    | .recv q _ _ | .vrecv q _ _ _ => some (.queue t q)
    | .none => none
  else none

/-- A knot with at least one but fewer than COUNT contributions. -/
def State.knotWaits (s : State) (p i : Nat) : Bool :=
  let n := (s.knot (knotKey p i)).sources.length
  match (s.imageOf p).knots[i]? with
  | some k => decide (0 < n) && decide (n < k.count)
  | none => false

/-- The gallery and flight of a knot in a tread ID's bits. -/
def State.knotTread (s : State) (p i : Nat) : Nat :=
  match (s.imageOf p).knots[i]?.bind fun k => s.roleFlight p k.role k.odd with
  | some gf => treadId gf 0 0
  | none => 0

/-- A chain entry's word (04 R153). -/
def State.stallWord (s : State) : StallRef → Nat
  | .port t i => place i 26 4 + t
  | .queue t i => place 1 30 2 + place i 26 4 + t
  | .knot p i => place 2 30 2 + place (((s.imageOf p).knots[i]?.map KnotCfg.idx).getD 0) 26 4 + s.knotTread p i

/-- The word of a tread that is not waiting. -/
def State.idleWord (s : State) (t : Nat) : Nat := place 3 30 2 + place (s.tread t).st.code 26 4 + t

/-- The order of 04 R151: tread ID, kind, index. -/
def State.stallKey (s : State) (r : StallRef) : Nat :=
  let w := s.stallWord r
  bits w 0 20 * 64 + bits w 26 6 % 16 + bits w 30 2 * 16

/-- Where a chain leads from a channel: a tread, or a knot, or nowhere. -/
inductive Leads where
  | tread (t : Nat)
  | ref (r : StallRef)
  | none

def State.leads (s : State) : StallRef → Leads
  | .port t i =>
    match s.portRoute? t i with
    | some (p, j, e) => match (s.imageOf p).routeKnot? e with
      | some (k, _) => .ref (.knot p k)
      | Option.none => match s.chanDest (.route p j) with
        | some d => .tread d
        | Option.none => .none
    | Option.none => .none
  | .queue t i =>
    match s.queueChan? t i with
    | some (.route p j) => match (s.imageOf p).routes[j]?.bind fun e => s.routeSource p e with
      | some d => .tread d
      | Option.none => .none
    | some (.knot p j) => .ref (.knot p j)
    | Option.none => .none
  | .knot p i =>
    let srcs := (s.imageOf p).knotSources i
    match srcs.zipIdx.find? fun (_, n) => !(s.knot (knotKey p i)).sources.contains n with
    | some (j, _) => match (s.imageOf p).routes[j]?.bind fun e => s.routeSource p e with
      | some d => .tread d
      | Option.none => .none
    | Option.none => .none

/-- A chain followed from its first channel: the channels listed, the words, whether it closed, whether it was cut. -/
def State.stallChain (s : State) : Nat → StallRef → List StallRef → List Nat → List StallRef × List Nat × Bool × Bool
  | 0, _, seen, ws => (seen, ws, false, true)
  | n + 1, r, seen, ws =>
    if r ∈ seen then (seen, ws, true, false)
    else
      let seen := seen ++ [r]
      let ws := ws ++ [s.stallWord r]
      match s.leads r with
      | .none => (seen, ws, false, false)
      | .ref q =>
        if q ∈ seen then (seen, ws, true, false) else stallChain s n q seen ws
      | .tread t => match s.waitsOn t with
        | some q => if q ∈ seen then (seen, ws, true, false) else stallChain s n q seen ws
        | none => if n = 0 then (seen, ws, false, true) else (seen, ws ++ [s.idleWord t], false, false)

/-- The keys of every channel of the loaded images. -/
def State.chanList (s : State) : List Chan :=
  s.loaded.flatMap fun p =>
    (upFrom 0 (s.imageOf p).routes.length).map (Chan.route p) ++ (upFrom 0 (s.imageOf p).knots.length).map (Chan.knot p)

/-- The port side of a channel, and its queue side, as the watchdog names them. -/
def State.portRef? (s : State) : Chan → Option StallRef
  | .route p i => (s.imageOf p).routes[i]?.bind fun e => (s.routeSource p e).map fun t => .port t e.srcPort
  | .knot _ _ => none
def State.queueRef? (s : State) (c : Chan) : Option StallRef :=
  match c with
  | .route p i => (s.imageOf p).routes[i]?.bind fun e => (s.chanDest c).map fun t => .queue t e.dstQueue
  | .knot p i => (s.imageOf p).knots[i]?.bind fun e => (s.chanDest c).map fun t => .queue t e.dstQueue

/-- Whether a tread waits on the channel. -/
def State.refWaits (s : State) : StallRef → Bool
  | .port t i => s.waitsOn t == some (.port t i)
  | .queue t i => s.waitsOn t == some (.queue t i)
  | .knot p i => s.knotWaits p i

def optWaits (s : State) (r : Option StallRef) : Bool :=
  match r with
  | some x => s.refWaits x
  | none => false

/-- One side's counts after a scan: consecutive scans that found it waiting without progress, and the report mark, which
progress clears. -/
def scanSide (waits moved : Bool) (scans : Nat) (seen : Bool) : Nat × Bool :=
  (if waits && !moved then scans + 1 else 0, seen && !moved)

/-- Every channel's and knot's counts after a scan. -/
def scanCounts (s : State) : State :=
  let s := s.chanList.foldl (fun s c =>
    let d := s.chan c.key
    let (a, x) := scanSide (optWaits s (s.portRef? c)) d.sendMoved d.sendScans d.sendSeen
    let (b, y) := scanSide (optWaits s (s.queueRef? c)) d.recvMoved d.recvScans d.recvSeen
    s.setChan c.key { d with sendScans := a, sendSeen := x, sendMoved := false,
                             recvScans := b, recvSeen := y, recvMoved := false }) s
  s.loaded.foldl (fun s p => (upFrom 0 (s.imageOf p).knots.length).foldl (fun s i =>
    let d := s.knot (knotKey p i)
    let (a, x) := scanSide (s.knotWaits p i) d.moved d.scans d.seen
    s.setKnot (knotKey p i) { d with scans := a, seen := x, moved := false }) s) s

/-- The channels stalled and not yet reported, in the order of R151. -/
def State.stalledList (s : State) : List StallRef :=
  let n := max (s.get Reg.STALL_CTRL_SCANS) 1
  let cs := s.chanList.flatMap fun c =>
    let d := s.chan c.key
    (if n ≤ d.sendScans && !d.sendSeen then (s.portRef? c).toList else [])
      ++ (if n ≤ d.recvScans && !d.recvSeen then (s.queueRef? c).toList else [])
  let ks := s.loaded.flatMap fun p => (upFrom 0 (s.imageOf p).knots.length).filterMap fun i =>
    let d := s.knot (knotKey p i)
    if n ≤ d.scans && !d.seen then some (.knot p i) else none
  sortBy (fun a b => decide (s.stallKey a ≤ s.stallKey b)) (cs ++ ks)

/-- A listed channel marked reported. -/
def markSeen (r : StallRef) (s : State) : State :=
  match r with
  | .port t i => match s.portRoute? t i with
    | some (p, j, _) =>
      let k := (Chan.route p j).key
      s.setChan k { s.chan k with sendSeen := true }
    | none => s
  | .queue t i => match s.queueChan? t i with
    | some c => s.setChan c.key { s.chan c.key with recvSeen := true }
    | none => s
  | .knot p i => s.setKnot (knotKey p i) { s.knot (knotKey p i) with seen := true }

def State.isSeen (s : State) : StallRef → Bool
  | .port t i => match s.portRoute? t i with
    | some (p, j, _) => (s.chan (Chan.route p j).key).sendSeen
    | none => true
  | .queue t i => match s.queueChan? t i with
    | some c => (s.chan c.key).recvSeen
    | none => true
  | .knot p i => (s.knot (knotKey p i)).seen

/-- The partition of a channel's treads. -/
def State.refPart (s : State) : StallRef → Nat
  | .port t _ | .queue t _ => ((s.treadRole? t).map fun x => x.1).getD 0
  | .knot p _ => p

/-- One chain reported (04 R151, R153): the record, the counters, the marks. -/
def reportChain (r : StallRef) (s : State) : State :=
  if s.isSeen r then s
  else
    let (seen, ws, cyc, cut) := s.stallChain 8 r [] []
    let p := s.refPart r
    let hdr := place (b2n cyc) 31 1 + place (b2n cut) 30 1 + place p 27 3 + ws.length
    let s := s |> raise Ev.stallSeen (partStamp p) (hdr :: ws)
      |> set Reg.STALL_STATUS_SEEN 1 |> bump Reg.STALL_COUNT_COUNT 1
    seen.foldl (fun s q => markSeen q s) s

/-- STALL_SCAN: the watchdog's scan of every gallery (04 R150 to R152); it changes nothing but its own counts. -/
def execStallScan (s : State) : Result :=
  perform true (fun s =>
    if !s.on Reg.STALL_CTRL_ENABLE then s
    else
      let s := scanCounts s
      s.stalledList.foldl (fun s r => reportChain r s) s) s

/-- Every scan count back at 0 (04 R161). -/
def clearScans (s : State) : State :=
  { s with chans := tmap ChanData.init (fun _ d => { d with sendScans := 0, recvScans := 0 }) s.chans }
    |> setKnots (tmap Knot.init (fun _ d => { d with scans := 0 }) s.knots)

/-- STALL_CTRL_WRITE: the scan configuration; ENABLE 0 stops scanning and resets the counts. -/
def execStallCtrlWrite (value : W32) (s : State) : Result :=
  perform true (whenUp fun s =>
    let v := value.toNat
    let s := s |> set Reg.STALL_CTRL_ENABLE (bits v 31 1) |> set Reg.STALL_CTRL_SCANS (bits v 16 8)
      |> set Reg.STALL_CTRL_PERIOD_US (bits v 0 16)
    if bit v 31 then s else clearScans s) s

end Sys2Proof.Machine
end

