-- ==== Sys2Proof/Machine/Flit.lean ====
section
/-!
DEFINITION. Rope flits: the 271-byte layout, its CRC, and the encryption of bodies (10 R357, R358, R374 to R376; the CRC
of 09 R324).
-/
namespace Sys2Proof.Machine

/-! CRC-32C, reflected (R324). -/
def crcShift (c : Nat) : Nat := if c % 2 = 1 then (c / 2) ^^^ 0x82F6_3B78 else c / 2
def crcByte (c : Nat) (b : Byte) : Nat :=
  crcShift (crcShift (crcShift (crcShift (crcShift (crcShift (crcShift (crcShift (c ^^^ b.toNat))))))))
def crc32c (l : List Byte) : Nat := (l.foldl crcByte 0xFFFF_FFFF) ^^^ 0xFFFF_FFFF

/-- A flit's header (R357). -/
structure FlitHdr where
  type : Nat
  vc : Nat
  seq : Nat
  ack : Nat
  ackValid : Bool
  nak : Bool
  crVc : Nat
  crCum : Nat
  enc : Bool
  keyEpoch : Nat
  fill : Nat
  rsv : Nat
  deriving DecidableEq, Repr, Inhabited

/-! TYPE values. -/
namespace FT
def idle : Nat := 0
def data : Nat := 1
def control : Nat := 2
def train : Nat := 3
end FT

/-- The 88-bit header value. -/
def FlitHdr.code (h : FlitHdr) : Nat :=
  place h.type 84 4 + place h.vc 81 3 + place h.seq 69 12 + place h.ack 57 12 + place (b2n h.ackValid) 56 1
    + place (b2n h.nak) 55 1 + place h.crVc 52 3 + place h.crCum 40 12 + place (b2n h.enc) 39 1 + place h.keyEpoch 38 1
    + place h.fill 29 9 + place h.rsv 0 29

def flitHdr (v : Nat) : FlitHdr :=
  ⟨bits v 84 4, bits v 81 3, bits v 69 12, bits v 57 12, bit v 56, bit v 55, bits v 52 3, bits v 40 12, bit v 39,
   bits v 38 1, bits v 29 9, bits v 0 29⟩

/-- The header of a flit's bytes, and its body. -/
def hdrOf (f : List Byte) : FlitHdr := flitHdr (ofBe (f.take 11))
def flitBody (f : List Byte) : List Byte := (f.drop 11).take 256

/-- A flit's 271 bytes: header big-endian, body, CRC little-endian. -/
def flitOf (h : FlitHdr) (body : List Byte) : List Byte :=
  let l := beBytes 11 h.code ++ fit 0 256 body
  l ++ leBytes 4 (crc32c l)

/-- A bad flit (R358), codewords apart: a CRC that fails, a reserved TYPE or a nonzero reserved field. -/
def flitBad (f : List Byte) : Bool :=
  f.length != 271 || ofLe (f.drop 267) != crc32c (f.take 267) || decide (3 < (hdrOf f).type) || (hdrOf f).rsv != 0

/-- A flit's CRC made wrong (15 R514 points 0x07 and 0x09). -/
def spoilCrc (f : List Byte) : List Byte := f.take 267 ++ (f.drop 267).map fun b => ~~~b

/-! Encryption (R374, R375). -/

/-- The 96-bit nonce: sender's package, rope and channel, and the channel's counter. -/
def nonceOf (pkg rope chan count : Nat) : Nat :=
  place pkg 82 14 + place rope 77 5 + place chan 73 4 + count % 2 ^ 64

/-- The additional authenticated data: the header without ACK, ACK_VALID, NAK, CR_VC and CR_CUM. -/
def aadOf (h : FlitHdr) : List Byte :=
  beBytes 11 { h with ack := 0, ackValid := false, nak := false, crVc := 0, crCum := 0 }.code

def xorBytes (a b : List Byte) : List Byte := a.zipWith (· ^^^ ·) b

/-- A body of up to 240 bytes encrypted whole, and its tag. A key number is 1 above the key (0 is no key). -/
def sealBody (key nonce : Nat) (h : FlitHdr) (plain : List Byte) : List Byte :=
  let p := fit 0 240 plain
  let c := xorBytes p (fit 0 240 (Config.gcmStream (key - 1) nonce 240))
  c ++ leBytes 16 (Config.gcmTag (key - 1) nonce (aadOf h) c).toNat

/-- The message bytes of a received body, or none where the tag fails. -/
def openBody (key nonce : Nat) (h : FlitHdr) (body : List Byte) : Option (List Byte) :=
  let c := body.take 240
  if ofLe (body.drop 240) = (Config.gcmTag (key - 1) nonce (aadOf h) c).toNat then
    some ((xorBytes c (fit 0 240 (Config.gcmStream (key - 1) nonce 240))).take h.fill)
  else none

/-- A tag made wrong (15 R514 point 0x0A), the CRC right. -/
def spoilTag (f : List Byte) : List Byte :=
  flitOf (hdrOf f) ((flitBody f).take 240 ++ ((flitBody f).drop 240).map fun b => ~~~b)

end Sys2Proof.Machine
end

