-- ==== Sys2Proof/Machine/MemoryOps.lean ====
section
/-!
DEFINITION. Yuseon as every agent meets it: bytes, lines and their checks, lost lines and how each is recovered
(09 R320 to R332). Each line is held as the bytes that were written, the key they were encrypted under, and the difference
of its check field from the correct one (log 8).
-/
namespace Sys2Proof.Machine
open State

/-! Addresses (00 R13, 01 R40). -/

/-- A fabric address of a package, class and offset. -/
def fabAddr (pkg cls off : Nat) : Nat := pkg * 2 ^ 50 + cls * 2 ^ 46 + off
def fabPkg (a : Nat) : Nat := bits a 50 14
def fabCls (a : Nat) : Nat := bits a 46 4
def fabOff (a : Nat) : Nat := bits a 0 46
/-- A class-0 address of this package. -/
def State.own (s : State) (off : Nat) : Nat := fabAddr (s.get Reg.PKG_ID_ID) 0 off

def yuseonSize : Nat := 2 ^ 40
/-- The range reserved to the newel firmware (03 R102). -/
def reservedBase : Nat := 0xFF_0000_0000
def inReserved (o : Nat) : Bool := decide (reservedBase ≤ o) && decide (o < yuseonSize)
/-- Partition `p`'s image slot; its second copy lies 256 MiB above (03 R108). -/
def imageSlot (p : Nat) : Nat := reservedBase + p * 0x2000_0000

def granuleBytes (g : Nat) : Nat := if g = 0 then 0x1000 else if g = 1 then 0x1_0000 else 0x20_0000

/-- The stacks of a region, ascending. -/
def Region.stacks (g : Region) : List Nat := (upFrom 0 16).filter fun i => bit g.mask i
/-- The stack that holds a byte of a region (09 R321). -/
def Region.stack (g : Region) (o : Nat) : Nat :=
  let n := g.stacks.length
  if g.granule = 3 || n = 0 then lget 0 g.stacks 0
  else lget 0 g.stacks ((o - g.base) / granuleBytes g.granule % n)

/-- The loaded region that holds a class-0 offset, with its partition. -/
def State.regionAt (s : State) (o : Nat) : Option (Nat × Region) :=
  s.loaded.findSome? fun p => ((s.imageOf p).region? o 1).map fun g => (p, g)

/-- The stack that holds a class-0 offset: a region's share, or the reserved range at 2 MiB over all sixteen. -/
def State.stackOf (s : State) (o : Nat) : Nat :=
  match s.regionAt o with
  | some (_, g) => g.stack o
  | none => (o - reservedBase) / 0x20_0000 % 16

/-- The regions of a kind that a stage slot owns, in MEMMAP order. -/
def Rigging.kindRegions (r : Rigging) (kind slot : Nat) : List Region :=
  r.regions.filter fun g => g.kind == kind && g.slot == slot

/-- The lines that `n` bytes at `o` touch. -/
def linesOf (o n : Nat) : List Nat := if n = 0 then [] else upFrom (o / 64) ((o + n - 1) / 64 - o / 64 + 1)

/-! Bytes and keys (09 R331, R332). -/

/-- The byte that was written last at an offset, as it stood before encryption. -/
def State.memByte (s : State) (o : Nat) : Byte := tget 0 s.mem o
def State.rawBytes (s : State) (o n : Nat) : List Byte := (upFrom o n).map s.memByte

/-- The number of an encryption: the key with the partition that the tweak carries; 0 for a cleared slot and for the newel
firmware's key. -/
def encKey (p key : Nat) : Nat := if key = 0 then 0 else 8 * key + p

/-- The encryption of a line's partition in slot `i` (R332). -/
def State.slotKey (s : State) (n i : Nat) : Nat :=
  match s.regionAt (n * 64) with
  | some (p, _) =>
    let k := tget MemKeys.init s.sec.mem p
    encKey p (if i = 0 then k.key0 else k.key1)
  | none => 0

/-- The slot that is current for a line's partition (R332). -/
def State.curSlot (s : State) (n : Nat) : Nat :=
  match s.regionAt (n * 64) with
  | some (p, _) => (tget MemKeys.init s.sec.mem p).cur
  | none => 0

/-- What a read decrypts a line with: the slot that its epoch bit names. -/
def State.readKey (s : State) (n : Nat) : Nat := s.slotKey n (tget 0 s.memEpoch n)

/-- Whether a line was encrypted under what a read decrypts it with. -/
def State.lineClear (s : State) (n : Nat) : Bool := tget 0 s.memKey n == s.readKey n

/-- A line as DRAM holds it. -/
def State.cipher (s : State) (n : Nat) : List Byte :=
  let w := tget 0 s.memKey n
  let l := s.rawBytes (n * 64) 64
  if w = 0 then l else fit 0 64 (Config.xtsEncrypt w n l)

/-- A line as a read decrypts it. -/
def State.lineData (s : State) (n : Nat) : List Byte :=
  if s.lineClear n then s.rawBytes (n * 64) 64
  else if s.readKey n = 0 then s.cipher n
  else fit 0 64 (Config.xtsDecrypt (s.readKey n) n (s.cipher n))

/-- One byte as a read gives it. -/
def State.readByte (s : State) (o : Nat) : Byte :=
  if s.lineClear (o / 64) then s.memByte o else lget 0 (s.lineData (o / 64)) (o % 64)

/-- Bytes as a read gives them. -/
def State.memBytes (s : State) (o n : Nat) : List Byte :=
  if (linesOf o n).all s.lineClear then s.rawBytes o n else (upFrom o n).map s.readByte
def State.memLe (s : State) (o n : Nat) : Nat := ofLe (s.memBytes o n)

/-- Bytes put into memory without a check. -/
def pokeBytes (o : Nat) (l : List Byte) (s : State) : State :=
  { s with mem := l.zipIdx.foldl (fun m (b, i) => tset 0 m (o + i) b) s.mem }

/-! The line check (09 R324 to R329). -/

/-- Who meets a lost line: a flight, undercroft engine or stage sequencer, the stash verify, or anyone else. -/
inductive Finder where
  | engine | verify | other
  deriving DecidableEq, Repr, Inhabited

/-- The CRC that R324 gives for a line: over the ciphertext, the line number in 5 bytes and the epoch byte. -/
def State.lineCrc (s : State) (n : Nat) : Nat :=
  crc32c (s.cipher n ++ leBytes 5 n ++ leBytes 1 (tget 0 s.memEpoch n))

/-- The 36-bit check field of a line (R320, R324): the CRC in [31:0], the key epoch in [32]. -/
def State.checkField (s : State) (n : Nat) : Nat :=
  (s.lineCrc n ^^^ tget 0 s.memCheck n) % 2 ^ 32 + tget 0 s.memEpoch n % 2 * 2 ^ 32

/-- Whether a line as it stands fails its check: its check field differs from its CRC (lemma `lineFails_iff`). -/
def State.lineFails (s : State) (n : Nat) : Bool := tget 0 s.memCheck n % 2 ^ 32 != 0

/-- How a read finds a line: 0 it passes, 1 it passes on the re-read, 2 it is lost. `bad` gives the lines whose DRAM
fails in this access; a line whose check field is wrong fails every time; an injected fault (15 R514, point 0x05) fails the
first check. -/
def State.lineCheck (s : State) (bad : Tbl Nat) (n : Nat) : Nat :=
  if s.lineFails n then 2
  else
    let b := min (tget 0 bad n) 2
    match s.det.armed with
    | some i => if i.point = 5 && i.addr / 64 = n && b = 0 then 1 else b
    | none => b

/-- A hit of an injected line fault, which no event reports. -/
def hitLine (point n : Nat) (s : State) : State :=
  match s.det.armed with
  | some i =>
    if i.point = point && i.addr / 64 = n then
      hitInjection (s.get Reg.INJ_LAST_SEQ_SEQ) ((s.regionAt (n * 64)).map Prod.fst).toList s
    else s
  | none => s

/-- A frame slot of a partition's HOT_CKPT_IN region that a line lies in (13 R468): 0 and 1 the package's own, 2 and 3
its ward's. -/
def Region.frameSlot (g : Region) (o : Nat) : Nat := min ((o - g.base) * 4 / max g.size 1) 3

/-- Recovery of a lost line by the kind of its region (09 R327). A stash line that the verify finds is handled there. -/
def recoverLine (f : Finder) (p : Nat) (g : Region) (o : Nat) (s : State) : State :=
  if g.kind = 6 then
    let v := s.svc p
    let k := g.frameSlot o
    let v := if k < 2 then { v with frames := lset v.frames k { lget Frame.none v.frames k with here := false } }
      else { v with ward := lset v.ward (k - 2) { lget Frame.none v.ward (k - 2) with here := false } }
    let s := s.setSvc p v
    if f == .engine then findCause p actHalt Why.lineLost s else s
  else if g.kind = 0 || g.kind = 3 || g.kind = 4 then findCause p actRollback Why.lineLost s
  else if f == .verify then s
  else findCause p actRewind Why.lineLost s

/-- A check field that no line passes with: the inverse of the correct CRC (09 R334; log 8). -/
def badCheck : Nat := 0xFFFF_FFFF

/-- A line found lost: counted and recorded by its undercroft, reported with offset, region kind and partition
(09 R326), and recovered. -/
def lineLost (f : Finder) (n : Nat) (s : State) : State :=
  let o := n * 64
  let u := s.stackOf o
  let x := s.uc u
  let row := Config.dramRow n
  let (kind, p) := match s.regionAt o with
    | some (p, g) => (g.kind, p)
    | none => (0xE, 0)
  let s := setMemCheck (tset 0 s.memCheck n badCheck) s
    |> setUc u { x with rowLost := tset 0 x.rowLost row (tget 0 x.rowLost row + 1) }
    |> bump (Reg.UC_LINE_COUNTS_LOST u) 1
    |> set (Reg.UC_LINE_LAST_KIND u) kind |> set (Reg.UC_LINE_LAST_PARTITION u) p
    |> set (Reg.UC_LINE_LAST_OFFSET u) o
  match s.regionAt o with
  | some (p, g) => s |> raise Ev.lineLost (partStamp p) [o % 2 ^ 32, o / 2 ^ 32, kind, p] |> recoverLine f p g o
  | none => s |> raise0 Ev.lineLost [o % 2 ^ 32, o / 2 ^ 32, kind, 0]

/-- One line read and checked: whether it can be used. -/
def checkLine (f : Finder) (bad : Tbl Nat) (n : Nat) (s : State) : Bool × State :=
  match s.lineCheck bad n with
  | 0 => (true, s)
  | 1 => (true, bump (Reg.UC_LINE_COUNTS_REREAD_OK (s.stackOf (n * 64))) 1 s |> hitLine 5 n)
  | _ => (false, lineLost f n s)

/-- Lines read in ascending order; the first lost line ends the access. -/
def checkLines (f : Finder) (bad : Tbl Nat) : List Nat → State → Bool × State
  | [], s => (true, s)
  | n :: r, s =>
    let (ok, s) := checkLine f bad n s
    if ok then checkLines f bad r s else (false, s)

/-- `n` bytes read at a class-0 offset; none when a line is lost. -/
def memRead (f : Finder) (bad : Tbl Nat) (o n : Nat) (s : State) : Option (List Byte) × State :=
  let (ok, s) := checkLines f bad (linesOf o n) s
  (if ok then some (s.memBytes o n) else none, s)

/-- A line marked as encrypted under its partition's current key (09 R332). -/
def rekeyLine (n : Nat) (s : State) : State :=
  let i := s.curSlot n
  s |> setMemKey (tset 0 s.memKey n (s.slotKey n i)) |> setMemEpoch (tset 0 s.memEpoch n i)

/-- A line rewritten under its partition's current key with a good check field, unless an injected fault spoils the check
field (15 R514, point 0x06). -/
def rewriteLine (n : Nat) (s : State) : State :=
  let spoil := match s.det.armed with
    | some i => i.point == 6 && i.addr / 64 == n
    | none => false
  s |> setMemCheck (tset 0 s.memCheck n (if spoil then badCheck else 0)) |> rekeyLine n |> hitLine 6 n

/-- A line held as a read gives it, so that what a write leaves of it is kept. -/
def settleLine (n : Nat) (s : State) : State :=
  if s.lineClear n then s else pokeBytes (n * 64) (s.lineData n) s

/-- Bytes stored at an offset: every line they touch is written with a new check field. -/
def storeBytes (o : Nat) (l : List Byte) (s : State) : State :=
  let ls := linesOf o l.length
  ls.foldl (fun s n => rewriteLine n s) (pokeBytes o l (ls.foldl (fun s n => settleLine n s) s))

/-- Bytes written at a class-0 offset. A line that the write does not cover whole is read and checked first; when it is
lost, nothing is written (09 R325, R326). -/
def memWrite (f : Finder) (bad : Tbl Nat) (o : Nat) (l : List Byte) (s : State) : Bool × State :=
  let cut := (linesOf o l.length).filter fun n => decide (n * 64 < o) || decide (o + l.length < n * 64 + 64)
  let (ok, s) := checkLines f bad cut s
  if ok then (true, storeBytes o l s) else (false, s)

end Sys2Proof.Machine
end

