-- ==== Sys2Proof/Machine/LandingOps.lean ====
section
/-!
DEFINITION. Landings and contexts as shared operations: pushing, retiring and reading entries, freeing a context, and the
stash ring's use (07 R253 to R258, R265, R557).
-/
namespace Sys2Proof.Machine
open State

/-! Entries (07 R255). -/
def Entry.bytes (e : Entry) : List Byte :=
  leBytes 2 e.mbId ++ leBytes 1 e.flags ++ leBytes 1 e.pass ++ leBytes 2 e.src ++ leBytes 2 e.mbSeq ++ leBytes 8 e.step
    ++ leBytes 8 e.payload ++ leBytes 8 e.aux

def entryOf (l : List Byte) : Entry :=
  let v := ofLe l
  let f (o n : Nat) := bits v (8 * o) n
  ⟨f 0 16, f 2 8, f 3 8, f 4 16, f 6 16, f 8 64, f 0x10 64, f 0x18 64⟩

def Entry.tag (e : Entry) : Nat := bits e.flags 0 4
def Entry.bwd (e : Entry) : Bool := bit e.flags 4
def Entry.ring (e : Entry) : Bool := bit e.flags 5
def Entry.final (e : Entry) : Bool := bit e.flags 6

/-- An ingest landing: LOCAL, the FWD_IN of a FIRST stage and the FWD_OUT of none (07 R557). -/
def Rigging.isIngest (r : Rigging) (n : Nat) : Bool :=
  match r.land? n with
  | some c => c.kind == 0 && (r.stages.any fun t => t.first && t.fwdIn == n) && !(r.stages.any fun t => t.fwdOut == n)
  | none => false

/-- Whether a landing is an ingest landing of a loaded image. -/
def State.ingestAt (s : State) (n : Nat) : Bool :=
  match s.landCfg? n with
  | some (p, _) => (s.imageOf p).isIngest n
  | none => false

/-! The stash ring of a stage (07 R265). -/

/-- The ring region and the spill area of a stage slot: its first two STASH regions in MEMMAP order. -/
def Rigging.ringRegion? (r : Rigging) (slot : Nat) : Option Region := (r.kindRegions 1 slot)[0]?
def Rigging.spillRegion? (r : Rigging) (slot : Nat) : Option Region := (r.kindRegions 1 slot)[1]?

/-- Bytes from the oldest held context to the ring head, gaps included. -/
def State.ringUse (s : State) (slot : Nat) : Nat :=
  let g := s.stage slot
  match g.ring, s.slotPart slot with
  | c :: _, some p =>
    match (s.imageOf p).ringRegion? slot with
    | none => 0
    | some m =>
      let h := (s.ctx c).handle
      let held := (g.ring.map fun i => (s.ctx i).held).sum
      if g.head = h then (if held = 0 then 0 else m.size)
      else if h < g.head then g.head - h
      else m.size + g.head - h
  | _, _ => 0

def mib : Nat := 2 ^ 20

/-- The ring's limit: the smallest of the region, STASH_QUOTA and a nonzero SEQ_QUOTA. -/
def State.ringLimit (s : State) (slot : Nat) : Nat :=
  match s.slotPart slot with
  | none => 0
  | some p =>
    let r := s.imageOf p
    match r.stage? slot, r.ringRegion? slot with
    | some c, some m =>
      let l := min m.size (c.quota * mib)
      let q := s.get (Reg.SEQ_QUOTA_QUOTA_MIB slot)
      if q = 0 then l else min l (q * mib)
    | _, _ => 0

/-! Versions in use (07 R261, R273). -/

/-- The version count in force once a step is resolved: the newest resolution at or before it. -/
def Part.countAt (x : Part) (step : Nat) : Nat :=
  match (x.hist.filter fun h => decide (h.1 ≤ step)).getLast? with
  | some h => h.2
  | none => match x.hist.head? with
    | some h => h.2
    | none => x.count

/-- D of 07 R259: MAX_LIVE less 2. -/
def Rigging.depth (r : Rigging) : Nat := r.maxLive - 2

/-- The version count with which micro-batches of a step compute. -/
def State.stepCount (s : State) (p step : Nat) : Nat := (s.part p).countAt (step - 1 - (s.imageOf p).depth)

/-- Counts that contexts hold or that steps still to start here may be given; a step not yet resolved may start again
after a rewind, and counts as such a step (R261, R273; log 18). -/
def State.countsUsed (s : State) (p : Nat) : List Nat :=
  let r := s.imageOf p
  let held := r.stages.flatMap fun t => ((upFrom t.ctxBase t.ctxCount).filter fun c => (s.ctx c).state != .free).map
    fun c => s.stepCount p (s.ctx c).step
  held ++ (upFrom ((s.svc p).decided + 1) (r.depth + 1)).map fun step => s.stepCount p step

/-- LIVE versions that nothing uses any more become FREE. -/
def freeVersions (p : Nat) (s : State) : State :=
  let x := s.part p
  let used := s.countsUsed p
  let keep (v : VerState × Nat) : VerState × Nat := if v.1 == .live && !used.contains v.2 then (.free, 0) else v
  s.setPart p { x with slots := tmap (VerState.free, 0) (fun _ v => keep v) x.slots }

/-- A context freed: its stash is released, and so is a version that it was the last to hold (07 R254, R261). -/
def freeCtx (c : Nat) (s : State) : State :=
  let x := s.ctx c
  let g := s.stage x.slot
  let s := s.setCtx c Ctx.init |> setStage x.slot { g with ring := g.ring.filter fun i => i != c }
  match s.slotPart x.slot with
  | some p => freeVersions p s
  | none => s

/-- One entry that names a context's stash has retired; a DRAINING context with none left becomes FREE. `owner` is the
context plus 1, 0 for an entry that names none. -/
def ownerRetired (owner : Nat) (s : State) : State :=
  match owner with
  | 0 => s
  | c + 1 =>
    let x := s.ctx c
    if x.out = 0 then s
    else
      let s := s.setCtx c { x with out := x.out - 1 }
      if x.state == .draining && x.out = 1 then freeCtx c s else s

/-! Pushing and retiring. -/

/-- Whether a push into a landing can go: its counter is positive, and a ROPE_OUT landing has room to wait (07 R256,
R258). -/
def State.landReady (s : State) (n : Nat) : Bool :=
  let l := s.landing n
  decide (0 < l.credit) && (match s.landCfg? n with
    | some (_, c) => c.kind != 1 || decide (l.wait.length < c.credits)
    | none => false)

/-- An entry pushed: one credit taken. A LOCAL landing holds it; a ROPE_OUT landing holds it for the rope. -/
def pushEntry (n owner : Nat) (e : Entry) (s : State) : State :=
  match s.landCfg? n with
  | none => s
  | some (_, c) =>
    let l := s.landing n
    let l := { l with credit := l.credit - 1, owners := l.owners ++ [owner] }
    let l := if c.kind = 1 then { l with wait := l.wait ++ [e] } else { l with ents := l.ents ++ [e] }
    let s := s.setLanding n l |> bump (Reg.LAND_COUNTS_PUSHED n) 1
    match owner with
    | 0 => s
    | k + 1 => s.setCtx k { s.ctx k with out := (s.ctx k).out + 1 }

/-- The oldest unretired entry of a landing has retired at its consumer: the producer's counter gains `d`, and the
context that the entry named loses it. -/
def creditLanding (n : Nat) (d : Int) (retired : Bool) (s : State) : State :=
  let l := s.landing n
  let s := s.setLanding n { l with credit := l.credit + d, owners := if retired then l.owners.drop 1 else l.owners }
  if retired then ownerRetired (lget 0 l.owners 0) s else s

/-- A message of the partition's rope channel, with its job in the header (10 R371). -/
def sendJob (p k v kind epoch source target : Nat) (body : List Byte) (s : State) : State :=
  sendMsg k v (msgHeader kind epoch source body.length (s.imageOf p).jobId target) body s

/-- A LANDING_CREDIT of a ROPE_IN landing: form 0 GRANT, 1 RETURN, 2 ADJUST (10 R372). -/
def sendCredit (p n : Nat) (c : LandCfg) (form : Nat) (d : Int) (s : State) : State :=
  sendJob p c.rope c.vc 0x02 (s.svc p).epoch n c.peerLanding
    (leBytes 4 (ofSigned 32 d) ++ leBytes 1 form ++ leBytes 3 0) s

/-- An entry taken from a landing retires (07 R258). -/
def retireEntry (n : Nat) (s : State) : State :=
  match s.landCfg? n with
  | none => s
  | some (p, c) => if c.kind = 2 then sendCredit p n c 1 1 s else creditLanding n 1 true s

/-- A push into an ingest landing: dropped with `LANDING_FULL` when its counter is 0 or below (07 R557). -/
def ingestPush (n : Nat) (e : Entry) (s : State) : State :=
  if 0 < (s.landing n).credit then pushEntry n 0 e s
  else
    let st := match s.landCfg? n with
      | some (p, _) => partStamp p
      | none => noStamp
    s |> bump (Reg.LAND_COUNTS_ERRORS n) 1 |> raise Ev.landingFull st [n]

/-- The entries present in a landing and not yet taken, oldest first: in a ROPE_OUT landing those that wait for the rope. -/
def Landing.present (l : Landing) : List Entry := l.ents ++ l.wait

/-- A byte of a landing's space (07, entry view, occupancy, push window). -/
def State.landByte (s : State) (n o : Nat) : Byte :=
  let l := (s.landing n).present
  if o < 0x2000 then
    match l[o / 32]? with
    | some e => lget 0 e.bytes (o % 32)
    | none => 0
  else if o < 0x2004 then lget 0 (leBytes 4 (l.length % 512)) (o - 0x2000)
  else 0

end Sys2Proof.Machine
end

