-- ==== Sys2Proof/Machine/FabricOps.lean ====
section
/-!
DEFINITION. The fabric: how an access is checked and performed at its target, and how its failure is reported
(11 R392 to R401, R558, 14 R489).
-/
namespace Sys2Proof.Machine
open State

/-! Status codes (11 R392). -/
namespace FabSt
def ok : Nat := 0
def class_ : Nat := 1
def rights : Nat := 2
def align : Nat := 3
def lineLost : Nat := 4
def unavailable : Nat := 5
def noRoute : Nat := 6
def linkLost : Nat := 7
end FabSt

def opRead : Nat := 1
def opWrite : Nat := 2
def opAtomic : Nat := 3

/-- The partition of the agent that issues a request (11 R396). -/
def State.agentPart (s : State) : Agent → Option Nat
  | .flight gf => s.flightPart gf
  | .undercroft p _ | .core p | .engine p _ | .window p => some p
  | .sequencer n => s.slotPart n
  | .peer k v _ _ => (lget (VChan.init v) (s.rope k).chans v).part
  | .firmware | .debug _ => none

/-- AGENT of FAB_ERR_STATUS (11 R417); a copy engine or placement window and the firmware count as a control core. -/
def Agent.code : Agent → Nat
  | .flight _ => 0
  | .undercroft _ _ => 1
  | .sequencer _ => 2
  | .peer _ _ _ _ => 4
  | _ => 3

/-- Whether recovery of a line that the agent reads must stop it (09 R327). -/
def Agent.finder : Agent → Finder
  | .flight _ | .undercroft _ _ | .sequencer _ => .engine
  | _ => .other

/-- Where a class-1 offset lies (11 R394): data or instruction SRAM of a home position, a flight's switchback buffer, or
nowhere. -/
inductive SramPlace where
  | data (gf row col byte : Nat)
  | inst (gf row col byte : Nat)
  | sb (gf byte : Nat)
  | none
  deriving DecidableEq, Repr, Inhabited

def sramPlace (o : Nat) : SramPlace :=
  let g := o / 2 ^ 30
  let w := o % 2 ^ 30
  let at_ (t : Nat) : Nat × Nat × Nat := (g * 148 + t / 272, t % 272 / 17, t % 17)
  if 8 ≤ g then .none
  else if w < 0x2750_0000 then
    let (f, r, c) := at_ (w / 0x4000)
    .data f r c (w % 0x4000)
  else if 0x2800_0000 ≤ w && w < 0x31D4_0000 then
    let (f, r, c) := at_ ((w - 0x2800_0000) / 0x1000)
    .inst f r c ((w - 0x2800_0000) % 0x1000)
  else if 0x3400_0000 ≤ w && w < 0x3650_0000 then .sb (g * 148 + (w - 0x3400_0000) / 0x4_0000) ((w - 0x3400_0000) % 0x4_0000)
  else .none

/-- The home flight of a place. -/
def SramPlace.home : SramPlace → Option Nat
  | .data gf _ _ _ | .inst gf _ _ _ | .sb gf _ => some gf
  | .none => Option.none

/-- The partition whose GANG section names a flight, placed or STANDBY. -/
def State.gangPart (s : State) (gf : Nat) : Option Nat :=
  s.loaded.find? fun p => (s.imageOf p).gangs.any fun g => g.gf == gf

/-- The role that a loaded image's GANG entry places on a flight: partition, role, ODD (11 R395). -/
def State.homeRole? (s : State) (gf : Nat) : Option (Nat × Nat × Nat) :=
  s.loaded.findSome? fun p =>
    let r := s.imageOf p
    (r.gangs.find? fun g => g.gf == gf && decide (g.shape < 4)).map fun g =>
      (p, g.role, gf - ((r.gangRole? g.role).map Gang.gf).getD gf)

/-- Whether a re-rig concerns a role, so that the role is in re-rig (11 R395). -/
def State.inRerig (s : State) (p role : Nat) : Bool :=
  (s.rig p).rerigs.any fun x => match x with
    | .row gf _ _ => (s.roleFlights p role).contains gf
    | .role r _ => r == role

/-- Whether landing space holds the bytes `[w, w + n)` of landing `l` (07, landing space; R557). -/
def State.landOccupied (s : State) (l w n : Nat) : Bool :=
  decide (w + n ≤ 0x2000) || (decide (0x2000 ≤ w) && decide (w + n ≤ 0x2004))
    || (decide (0x8000 ≤ w) && decide (w + n ≤ 0x8020) && s.ingestAt l)

/-- Whose register a control-space offset is: nothing for one that no partition holds as its own, else the partition
that holds it, if any (14 R489). -/
def State.controlHolder (s : State) (o : Nat) : Option (Option Nat) :=
  if 0x1000 ≤ o && o < 0x2000 then some (some ((o - 0x1000) / 0x100))
  else if 0x40_4000 ≤ o && o < 0x40_5000 then some (some ((o - 0x40_4000) / 0x200))
  else if 0x40_A000 ≤ o && o < 0x40_B000 then some (s.slotPart ((o - 0x40_A000) / 0x40))
  else if 0x40_C004 ≤ o && o < 0x40_C020 then
    some (s.loaded.find? fun p => (s.imageOf p).stages.any fun t =>
      decide (t.ctxBase ≤ s.get Reg.CTX_SEL_INDEX) && decide (s.get Reg.CTX_SEL_INDEX < t.ctxBase + t.ctxCount))
  else if 0x40_D000 ≤ o && o < 0x40_D200 then some (some ((o - 0x40_D000) / 0x40))
  else if 0x40_D200 ≤ o && o < 0x40_D240 then some (some ((o - 0x40_D200) / 8))
  else if 0x40_E000 ≤ o && o < 0x40_E800 then some (s.slotPart ((o - 0x40_E000) / 0x20))
  else if 0x40_E800 ≤ o && o < 0x40_E900 then some (some ((o - 0x40_E800) / 0x20))
  else if 0x100_0000 ≤ o && o < 0x200_0000 then
    let g := (o - 0x100_0000) / 0x20_0000
    let w := (o - 0x100_0000) % 0x20_0000
    if 4 ≤ w && w < 0x10 then some (s.flightPart (g * 148 + s.get (Reg.CHAN_SEL_FLIGHT g)))
    else if 0x1000 ≤ w && w < 0x1940 then some (s.flightPart (g * 148 + (w - 0x1000) / 0x10))
    else if 0x1_0000 ≤ w && w < 0x1_9400 then some (s.flightPart (g * 148 + (w - 0x1_0000) / 0x100))
    else if 0x2_0000 ≤ w && w < 0x2_0800 then some ((s.landCfg? (g * 64 + (w - 0x2_0000) / 0x20)).map Prod.fst)
    else none
  else if 0x200_0000 ≤ o && o < 0x300_0000 && 0x100 ≤ o % 0x10_0000 && o % 0x10_0000 < 0x180 then
    some (some ((o % 0x10_0000 - 0x100) / 0x10))
  else none

/-- Whether a partition's agent may reach control space there (03 R103, 14 R489). -/
def State.controlRight (s : State) (p agent : Nat) (write : Bool) (o n : Nat) : Bool :=
  let q := o - o % 4
  ((s.imageOf p).rights.any fun x => x.agent == agent && (if write then x.write else x.read)
      && decide (x.base ≤ o) && decide (o + n ≤ x.base + x.size))
    && !(write && decide (o < 0x2000))
    && (match s.controlHolder q with
      | none => true
      | some h => h == some p)

/-! Atomics over die links (11 R408, R411, R412). -/

/-- The die on which an agent issues: a gallery, or 8 for the newel die. -/
def Agent.die : Agent → Nat
  | .flight gf => gf / 148
  | .undercroft _ u => u / 2
  | .peer k _ _ _ => min 8 (k / 2)
  | .sequencer _ | .core _ | .engine _ _ | .window _ | .firmware | .debug _ => 8

/-- The die on which a rope sits (01 R18). -/
def ropeDie (k : Nat) : Nat := min 8 (k / 2)

/-- Whether some bundle that a message for a line takes from one die to another lacks atomics (log 62: only trained links take
part). -/
def State.pathLacksAtomic (s : State) (a b line : Nat) : Bool :=
  (diePairs a b).any fun x => match s.lineBundle x line with
    | some n => !s.on (Reg.DL_STATUS_ATOMIC n)
    | none => (upFrom x.1 x.2).all fun n => s.get (Reg.DL_STATUS_STATE n) == 3

/-- The die beside which a class-0 or class-1 offset lies. -/
def State.targetDie (s : State) (addr : Nat) : Nat :=
  if fabCls addr = 0 then s.stackOf (fabOff addr) / 2 else fabOff addr / 2 ^ 30 % 8

/-- Whether an atomic's line bundle lacks atomics on its way within this package. -/
def State.lacksAtomic (s : State) (r : FabReq) : Bool :=
  s.pathLacksAtomic r.agent.die (s.targetDie r.addr) (fabOff r.addr / 64)

/-- Who stands for a place now: the tread or, for a switchback buffer, the flight that carries the home position (11 R395);
none where it is UNAVAILABLE. -/
def State.sramTarget (s : State) (x : SramPlace) : Option Nat :=
  let tread (gf row col : Nat) : Option Nat :=
    if 16 ≤ col then none
    else match (s.homeRole? gf).bind fun (p, role, odd) => s.roleTread p role odd row col with
      | some t => if s.treadFenced t || s.flightFenced (treadGf t) then none else some t
      | none => none
  match x with
  | .data gf row col _ => tread gf row col
  | .inst gf row col _ => tread gf row col
  | .sb gf _ => match (s.homeRole? gf).bind fun (p, role, odd) => s.roleFlight p role odd with
    | some g => if s.flightFenced g then none else some g
    | none => none
  | .none => none

/-- Whether a place's role is in re-rig. -/
def State.sramMoves (s : State) (x : SramPlace) : Bool :=
  match x.home.bind s.homeRole? with
  | some (p, role, _) => s.inRerig p role
  | none => false

/-- Operator debug, which reaches classes 0 and 1 but not the reserved range (14 R502). -/
def Agent.isDebug : Agent → Bool
  | .debug _ => true
  | _ => false

/-- The first check of 11 R558 that an access fails at its target, or OK. -/
def State.fabCheck (s : State) (r : FabReq) : Nat :=
  let c := fabCls r.addr
  let o := fabOff r.addr
  let n := r.size
  let rw := decide (4 ≤ n) && decide (n ≤ 256) && n % 4 == 0 && decide (o / 256 = (o + n - 1) / 256)
  let small := (n == 4 || n == 8) && o % n == 0
  let occupied :=
    if c = 0 then decide (o + n ≤ yuseonSize)
    else if c = 1 then sramPlace o != .none && sramPlace (o + n - 1) != .none
    else if r.agent.isDebug then false
    else if c = 2 then decide (o / 0x1_0000 < 512) && s.landOccupied (o / 0x1_0000) (o % 0x1_0000) n
    else c == 3 && decide (o + n ≤ 0x400_0000)
  let aligned :=
    if r.op = opAtomic then
      small && decide (r.func < 5) && (c == 0 || (c == 1 && (match sramPlace o with
        | .data _ _ _ _ => true
        | _ => false)))
    else if c = 3 then small
    else if r.op = opWrite && c == 2 then o % 0x1_0000 == 0x8000 && n == 32
    else rw
  let allowed :=
    match s.agentPart r.agent with
    | none => if r.agent.isDebug then c != 0 || s.loaded.any fun p => ((s.imageOf p).region? o n).isSome
      else r.agent == .firmware && c == 0 && inReserved o
    | some p =>
      if c = 0 then ((s.imageOf p).region? o n).isSome
      else if c = 1 then match sramPlace o with
        | .data gf _ _ _ => s.gangPart gf == some p
        | _ => false
      else if c = 2 then (s.landCfg? (o / 0x1_0000)).map Prod.fst == some p
      else match r.agent with
        | .core _ => s.controlRight p 0 (r.op != opRead) o n
        | .undercroft _ _ => s.controlRight p 2 (r.op != opRead) o n
        | _ => false
  if r.op = opAtomic && s.lacksAtomic r then FabSt.noRoute
  else if !occupied then FabSt.class_
  else if !aligned then FabSt.align
  else if !allowed then FabSt.rights
  else if c = 1 && !s.sramMoves (sramPlace o) && (s.sramTarget (sramPlace o)).isNone then FabSt.unavailable
  else FabSt.ok

/-- Whether an access that passed its checks waits for a re-rig of the role it names. -/
def State.fabWaits (s : State) (r : FabReq) : Bool :=
  fabCls r.addr == 1 && s.sramMoves (sramPlace (fabOff r.addr))

/-- The value that an atomic stores (11 R398). -/
def atomicValue (func n old v cmp : Nat) : Nat :=
  match func with
  | 0 => (old + v) % 2 ^ (8 * n)
  | 1 => max old v
  | 2 => min old v
  | 3 => v
  | _ => if old = cmp then v else old

/-- What is stored after an operation on `n` bytes that hold `old`, and what the requester gets: data read, or the
old value. -/
def fabData (r : FabReq) (old : List Byte) : Option (List Byte) × List Byte :=
  if r.op = opRead then (none, old)
  else if r.op = opWrite then (some (fit 0 r.size r.data), [])
  else
    let v := ofLe (r.data.take r.size)
    let c := ofLe ((r.data.drop r.size).take r.size)
    (some (leBytes r.size (atomicValue r.func r.size (ofLe old) v c)), old)

/-- `n` bytes of a tread's or flight's SRAM from its byte `b`. -/
def State.sramBytes (s : State) (x : SramPlace) (t n : Nat) : List Byte :=
  match x with
  | .data _ _ _ b => (upFrom b n).map fun i => tget 0 (s.tread t).dmem i
  | .inst _ _ _ b => (upFrom b n).map fun i => BitVec.ofNat 8 ((tget 0 (s.tread t).imem (i / 4)).toNat / 2 ^ (8 * (i % 4)))
  | .sb _ b => (upFrom b n).map fun i => tget 0 (s.flight t).sb i
  | .none => []

/-- One byte of a word replaced. -/
def putByte (w : W32) (i : Nat) (v : Byte) : W32 :=
  BitVec.ofNat 32 (w.toNat - bits w.toNat (8 * i) 8 * 2 ^ (8 * i) + v.toNat * 2 ^ (8 * i))

def setSram (x : SramPlace) (t : Nat) (l : List Byte) (s : State) : State :=
  match x with
  | .data _ _ _ b =>
    s.setTread t { s.tread t with dmem := l.zipIdx.foldl (fun m (v, i) => tset 0 m (b + i) v) (s.tread t).dmem }
  | .inst _ _ _ b =>
    s.setTread t { s.tread t with imem := l.zipIdx.foldl (fun m (v, i) =>
      tset 0 m ((b + i) / 4) (putByte (tget 0 m ((b + i) / 4)) ((b + i) % 4) v)) (s.tread t).imem }
  | .sb _ b => s.setFlight t { s.flight t with sb := l.zipIdx.foldl (fun m (v, i) => tset 0 m (b + i) v) (s.flight t).sb }
  | .none => s

/-- An access of classes 0 to 2 performed at its target after every check has passed: status, data, state. -/
def fabPerform (bad : Tbl Nat) (r : FabReq) (s : State) : Nat × List Byte × State :=
  let o := fabOff r.addr
  let c := fabCls r.addr
  let f := r.agent.finder
  if c = 0 then
    if r.op = opWrite then
      let (ok, s) := memWrite f bad o (fit 0 r.size r.data) s
      if ok then (FabSt.ok, [], s) else (FabSt.lineLost, [], s)
    else match memRead f bad o r.size s with
      | (none, s) => (FabSt.lineLost, [], s)
      | (some old, s) =>
        match fabData r old with
        | (some new, out) =>
          (FabSt.ok, out, storeBytes o new s)
        | (none, out) => (FabSt.ok, out, s)
  else if c = 1 then
    let x := sramPlace o
    match s.sramTarget x with
    | none => (FabSt.unavailable, [], s)
    | some t => match fabData r (s.sramBytes x t r.size) with
      | (some new, out) => (FabSt.ok, out, setSram x t new s)
      | (none, out) => (FabSt.ok, out, s)
  else
    let n := o / 0x1_0000
    let w := o % 0x1_0000
    if r.op = opWrite then (FabSt.ok, [], ingestPush n (entryOf (fit 0 32 r.data)) s)
    else (FabSt.ok, (upFrom w r.size).map fun i => s.landByte n i, s)

/-- A status other than OK reported by the requester's package (11 R393): `FABRIC_ERROR`, counted, and recorded while
SEEN is clear. LINE_LOST has raised its own event. A peer's request is reported at the peer, a debug access in DBG_STATUS. -/
def fabError (r : FabReq) (status : Nat) (s : State) : State :=
  let p := (s.agentPart r.agent).getD 0
  let st := match s.agentPart r.agent with
    | some p => partStamp p
    | none => noStamp
  match r.agent with
  | .peer _ _ _ _ | .debug _ => s
  | _ =>
    if status = FabSt.ok || status = FabSt.lineLost then s
    else
      let s := if s.on Reg.FAB_ERR_STATUS_SEEN then s else
        s |> set Reg.FAB_ERR_STATUS_SEEN 1 |> set Reg.FAB_ERR_STATUS_PARTITION p
          |> set Reg.FAB_ERR_STATUS_STATUS status |> set Reg.FAB_ERR_STATUS_AGENT r.agent.code
          |> set Reg.FAB_ERR_STATUS_OP r.op |> set Reg.FAB_ERR_STATUS_FUNC r.func |> set Reg.FAB_ERR_ADDR_ADDR r.addr
      s |> bump Reg.FAB_ERR_COUNTS_ERRORS 1
        |> bump Reg.FAB_ERR_COUNTS_NO_ROUTE (b2n (status == FabSt.noRoute))
        |> raise Ev.fabricError st
          [r.addr % 2 ^ 32, r.addr / 2 ^ 32, r.op + 2 ^ 8 * status + 2 ^ 16 * r.agent.code]

/-! Reaching other packages (11 R402 to R404). -/

/-- The virtual channels that partition `p` has open on a rope, ascending. -/
def State.openVcs (s : State) (p k : Nat) : List Nat :=
  (upFrom 0 8).filter fun v => (lget (VChan.init v) (s.rope k).chans v).part == some p

/-- The fabric route of a partition to a peer: the one kept, else the lowest-numbered rope to that peer and the lowest
channel that the partition has open there. -/
def State.route? (s : State) (p peer : Nat) : Option (Nat × Nat) :=
  match s.fabric.routes.find? fun x => x.1 == p && x.2.1 == peer with
  | some x => some x.2.2
  | none => (upFrom 0 18).findSome? fun k =>
      if s.get (Reg.ROPE_PEER_PEER_ID k) == peer && s.on (Reg.ROPE_PEER_VALID k)
      then (s.openVcs p k).head?.map fun v => (k, v) else none

/-- The route kept until the partition's release or the rope's flush. -/
def keepRoute (p peer : Nat) (s : State) : State :=
  match s.fabric.routes.find? fun x => x.1 == p && x.2.1 == peer, s.route? p peer with
  | none, some (k, v) => { s with fabric := { s.fabric with routes := s.fabric.routes ++ [(p, peer, k, v)] } }
  | _, _ => s

/-- The routes that a partition's Commit chooses: one for each peer that a rope has identified (11 R402). -/
def chooseRoutes (p : Nat) (s : State) : State :=
  (upFrom 0 18).foldl (fun s k =>
    if s.on (Reg.ROPE_PEER_VALID k) then keepRoute p (s.get (Reg.ROPE_PEER_PEER_ID k)) s else s) s

/-- The body of a FABRIC message (11 R403). -/
def fabBody (op func size tag addr : Nat) (data : List Byte) : List Byte :=
  leBytes 1 op ++ leBytes 1 func ++ leBytes 2 size ++ leBytes 2 tag ++ leBytes 2 0 ++ leBytes 8 addr ++ data

def sendFabric (p k v : Nat) (body : List Byte) : State → State := sendJob p k v 0x05 0 0 0 body

/-! Transfers of engines (11 R401): bytes of any length, one access for each 64-byte line. A transfer to or from another
package takes what the peer answered as `far`: a status and the bytes read (log 40). -/

/-- The parts of `n` bytes at an address, line by line: address and length. -/
def lineParts (addr n : Nat) : List (Nat × Nat) :=
  (linesOf addr n).map fun l =>
    let lo := max addr (l * 64)
    (lo, min (addr + n) (l * 64 + 64) - lo)

/-- The check of an engine's access to `n` bytes of one line: it is made in the whole 4-byte words that hold them
(R397; log 40). -/
def State.engCheck (s : State) (a : Agent) (op addr n : Nat) : Nat :=
  let lo := addr - addr % 4
  s.fabCheck ⟨a, op, 0, (addr + n + 3 - lo) / 4 * 4, lo, []⟩

/-- Requests outstanding on a channel; 64 use up its request credits (R404). -/
def State.outstanding (s : State) (k v : Nat) : Nat :=
  (s.fabric.remote.filter fun x => x.rope == k && x.vc == v).length

/-- Whether a transfer waits: within the package for a re-rig, to another package for a request credit (R395, R404). -/
def State.engWaits (s : State) (a : Agent) (addr n : Nat) : Bool :=
  if fabPkg addr = s.get Reg.PKG_ID_ID then (lineParts addr n).any fun x => s.fabWaits ⟨a, opRead, 0, 4, x.1, []⟩
  else match (s.agentPart a).bind fun p => s.route? p (fabPkg addr) with
    | some (k, v) => decide (64 ≤ s.outstanding k v)
    | none => false

def readParts (a : Agent) (bad : Tbl Nat) : List (Nat × Nat) → List Byte → State → Nat × List Byte × State
  | [], acc, s => (FabSt.ok, acc, s)
  | (x, m) :: r, acc, s =>
    let q : FabReq := ⟨a, opRead, 0, m, x, []⟩
    let c := s.engCheck a opRead x m
    if c != FabSt.ok then (c, acc, fabError q c s)
    else
      let (st, d, s) := fabPerform bad q s
      if st = FabSt.ok then readParts a bad r (acc ++ d) s else (st, acc, fabError q st s)

def writeParts (a : Agent) (bad : Tbl Nat) : List (Nat × Nat) → List Byte → State → Nat × State
  | [], _, s => (FabSt.ok, s)
  | (x, m) :: r, l, s =>
    let q : FabReq := ⟨a, opWrite, 0, m, x, l.take m⟩
    let c := s.engCheck a opWrite x m
    if c != FabSt.ok then (c, fabError q c s)
    else
      let (st, _, s) := fabPerform bad q s
      if st = FabSt.ok then writeParts a bad r (l.drop m) s else (st, fabError q st s)

/-- A transfer with another package: one request for each part, each with the next tag, on the partition's route, which is
kept (R402, R403). `data` is empty for a read. -/
def sendParts (p peer k v op : Nat) (parts : List (Nat × Nat)) (data : List Byte) (s : State) : State :=
  let base := (lget (0, 0) parts 0).1
  parts.foldl (fun s x =>
    sendFabric p k v (fabBody op 0 x.2 s.fabric.nextTag x.1 ((data.drop (x.1 - base)).take x.2))
      { s with fabric := { s.fabric with nextTag := (s.fabric.nextTag + 1) % 2 ^ 16 } }) (keepRoute p peer s)

/-- A transfer of an engine with another package: NO_ROUTE without a route, else the requests and the status that the peer
answered, `far`. -/
def engRemote (a : Agent) (op far addr n : Nat) (data : List Byte) (s : State) : Nat × State :=
  let q : FabReq := ⟨a, op, 0, n, addr, []⟩
  match (s.agentPart a).bind fun p => (s.route? p (fabPkg addr)).map fun x => (p, x) with
  | none => (FabSt.noRoute, fabError q FabSt.noRoute s)
  | some (p, k, v) =>
    let s := sendParts p (fabPkg addr) k v op (lineParts addr n) data s
    if far = FabSt.ok then (FabSt.ok, s) else (far, fabError q far s)

/-- Bytes an engine reads. -/
def engRead (a : Agent) (bad : Tbl Nat) (far : Nat × List Byte) (addr n : Nat) (s : State) : Nat × List Byte × State :=
  if fabPkg addr = s.get Reg.PKG_ID_ID then readParts a bad (lineParts addr n) [] s
  else
    let (st, s) := engRemote a opRead far.1 addr n [] s
    (st, if st = FabSt.ok then fit 0 n far.2 else [], s)

/-- Bytes an engine writes. -/
def engWrite (a : Agent) (bad : Tbl Nat) (far : Nat) (addr : Nat) (l : List Byte) (s : State) : Nat × State :=
  if fabPkg addr = s.get Reg.PKG_ID_ID then writeParts a bad (lineParts addr l.length) l s
  else engRemote a opWrite far addr l.length l s

end Sys2Proof.Machine
end

