-- ==== Sys2Proof/Machine/FabricServe.lean ====
section
/-!
DEFINITION. How the target of a fabric access answers its requester, and the accesses that wait for a re-rig
(11 R393, R395, R403).
-/
namespace Sys2Proof.Machine
open State

/-- The partition whose contents a debug access touches: the allotment that holds a Yuseon byte, or the holder of a flight
(14 R503). -/
def State.debugPart (s : State) (addr : Nat) : Option Nat :=
  let o := fabOff addr
  if fabCls addr = 0 then
    allParts.find? fun p =>
      let b := s.get (Reg.PART_ALLOT_BASE_GIB p) * 2 ^ 30
      (s.partState p != partUnassigned) && decide (b ≤ o) && decide (o < b + s.get (Reg.PART_ALLOT_SIZE_GIB p) * 2 ^ 30)
  else (sramPlace o).home.bind s.gangPart

/-- A debug access ended: its status and data in the debug registers, or at the test port. -/
def debugReply (port : Bool) (r : FabReq) (status : Nat) (data : List Byte) (s : State) : State :=
  let s := match s.debugPart r.addr with
    | some p => if status = FabSt.ok || status = FabSt.lineLost then debugAccess p (r.op == opWrite) r.addr r.size s else s
    | none => s
  if port then s |> put (.status status) |> put (.bytes (if status = FabSt.ok then data else []))
  else
    let s := s |> set Reg.DBG_STATUS_RESULT status |> set Reg.DBG_STATUS_BUSY 0
    if status = FabSt.ok && r.op == opRead then
      (upFrom 0 (r.size / 4)).foldl (fun s w => s.set (Reg.DBG_DATA w) (ofLe ((data.drop (4 * w)).take 4))) s
    else s

/-- An answer: a RESPONSE message to a peer, else the status and data on the ports. -/
def fabReply (r : FabReq) (status : Nat) (data : List Byte) (s : State) : State :=
  match r.agent with
  | .peer k v tag _ =>
    match s.agentPart r.agent with
    | some p => sendFabric p k v (fabBody 8 status r.size tag 0 (if status = FabSt.ok then data else [])) s
    | none => s
  | .debug port => debugReply port r status data s
  | _ => s |> put (.status status) |> put (.bytes (if status = FabSt.ok then data else []))

/-- An access of classes 0 to 2 that waits for nothing: performed and answered, or refused and reported. -/
def fabServe (bad : Tbl Nat) (r : FabReq) (s : State) : State :=
  let c := s.fabCheck r
  if c ≠ FabSt.ok then s |> fabError r c |> fabReply r c []
  else
    let (st, data, s) := fabPerform bad r s
    s |> fabError r st |> fabReply r st data

/-- The accesses that a re-rig held, delivered in order once nothing holds them. -/
def deliverWaiting (s : State) : State :=
  let go := s.fabric.waiting.filter fun r => !s.fabWaits r
  let s := { s with fabric := { s.fabric with waiting := s.fabric.waiting.filter fun r => s.fabWaits r } }
  go.foldl (fun s r => fabServe [] r s) s

end Sys2Proof.Machine
end

