-- ==== Sys2Proof/Machine/VcOps.lean ====
section
/-!
DEFINITION. Virtual channels opened at an image's Commit and closed at its release (10 R367, R368, R370), and messages
taken out of a channel's buffered bytes.
-/
namespace Sys2Proof.Machine
open State

def State.vchan (s : State) (k v : Nat) : VChan := lget (VChan.init v) (s.rope k).chans v
def setVchan (k v : Nat) (c : VChan) (s : State) : State :=
  let r := s.rope k
  s.setRope k { r with chans := lset r.chans v c }

/-! Key slots of a channel (10 R374 to R378). -/

def VChan.keyAt (c : VChan) (i : Nat) : Nat := if i = 0 then c.key0 else c.key1
def VChan.txAt (c : VChan) (i : Nat) : Nat := if i = 0 then c.txCnt0 else c.txCnt1
def VChan.rxAt (c : VChan) (i : Nat) : Nat := if i = 0 then c.rxCnt0 else c.rxCnt1
def VChan.setTx (i n : Nat) (c : VChan) : VChan := if i = 0 then { c with txCnt0 := n } else { c with txCnt1 := n }
def VChan.setRx (i n : Nat) (c : VChan) : VChan := if i = 0 then { c with rxCnt0 := n } else { c with rxCnt1 := n }

/-- The slot that the next first transmission uses: one switched to, else the current one (R378). -/
def VChan.sendSlot (c : VChan) : Nat := c.next.getD c.cur

/-- A key loaded into a slot: both counters of the slot start at 0 unless the slot holds that key already (R375). -/
def VChan.load (i key : Nat) (c : VChan) : VChan :=
  if c.keyAt i = key then c
  else
    let c := c.setTx i 0 |>.setRx i 0
    if i = 0 then { c with key0 := key } else { c with key1 := key }

/-- The other slot made the one to send under at the next first transmission; the old one, if keyed, awaits clearing (R378). -/
def VChan.switch (c : VChan) : VChan :=
  { c with next := some (1 - c.sendSlot), old := if c.keyAt c.sendSlot = 0 then none else some c.sendSlot }

/-- The link key of an epoch, as a key number: 1 above the 256-bit value, 0 for no key (14 R496). -/
def linkKey (secret : List Byte) (job epoch : Nat) : Nat :=
  ofLe ((Config.shake256 (secret ++ leBytes 4 job ++ leBytes 2 epoch) 32)) + 1

/-- The link keys of a partition put into the slots of one of its channels. -/
def VChan.keyed (l : Link) (job : Nat) (c : VChan) : VChan :=
  let now := match l.cur with
    | some (e, x) => linkKey x job e
    | none => 0
  let other := match l.staged with
    | some (e, x) => linkKey x job e
    | none => 0
  { (c.load l.slot now).load (1 - l.slot) other with cur := l.slot, next := none, old := none, badTag := none, exhausted := false }

/-- An accepted flit's message bytes, and the channel with its flit counted; none where the flit's tag fails (R376,
R377). A keyed channel that has accepted an encrypted flit under its current key takes no plain one, nor does the control
channel (log 56). -/
def State.openFlit (s : State) (k v : Nat) (f : List Byte) : Option (VChan × List Byte) :=
  let c := s.vchan k v
  let h := hdrOf f
  if h.enc then
    let i := h.keyEpoch
    if c.keyAt i = 0 then none
    else
      let n := nonceOf (s.get (Reg.ROPE_PEER_PEER_ID k)) (s.get (Reg.ROPE_PEER_PEER_ROPE k)) v (c.rxAt i)
      (openBody (c.keyAt i) n h (flitBody f)).map fun m => (c.setRx i (c.rxAt i + 1), m)
  else if v = 8 || (c.keyAt c.cur != 0 && c.rxAt c.cur != 0) then none
  else some (c, (flitBody f).take h.fill)

/-- Message bytes put into a channel's receive buffer; a flit without any is freed at once when nothing lies before it
(R368). -/
def VChan.buffer (m : List Byte) (c : VChan) : VChan :=
  if m.isEmpty && c.rxFlits.isEmpty then { c with freed := (c.freed + 1) % 4096 }
  else { c with rx := c.rx ++ m, rxFlits := c.rxFlits ++ [m.length] }

/-- A channel closed: messages not yet sent and bytes not yet delivered are gone, and their flits count as freed
(log 46). A message partly sent goes on. -/
def closeVc (k v : Nat) (s : State) : State :=
  let c := s.vchan k v
  setVchan k v { c with part := none, tx := if c.txCut then c.tx.take 1 else [], rx := [], rxFlits := [],
                        freed := (c.freed + c.rxFlits.length) % 4096, stopped := false } s

/-- A channel whose replayed flit failed its tag again: closed, reported, and handled as a tread trap (R377). -/
def authFail (k v : Nat) (s : State) : State :=
  let p := (s.vchan k v).part
  let st := match p with
    | some p => partStamp p
    | none => noStamp
  let s := s |> closeVc k v |> raise Ev.ropeAuthFail st [k, v]
  match p with
  | some p => programFault p s
  | none => s

/-- A flit that arrived before its channel opened; one whose tag fails can have no other replay. -/
def takeEarly (k v : Nat) (f : List Byte) (s : State) : State :=
  if (s.vchan k v).part.isNone then setVchan k v { s.vchan k v with early := (s.vchan k v).early ++ [f] } s
  else match s.openFlit k v f with
  | some (c, m) => setVchan k v (c.buffer m) s
  | none => setVchan k v { s.vchan k v with freed := ((s.vchan k v).freed + 1) % 4096 } s |> authFail k v

/-- A channel opened for partition `p`: its limit is 504 again, its slots hold the partition's link keys, and the flits
that arrived early count as arrived. -/
def openVc (p k v : Nat) (s : State) : State :=
  let c := (s.vchan k v).keyed (tget Link.init s.sec.links p) (s.imageOf p).jobId
  let e := c.early
  let s := setVchan k v { c with part := some p, limit := 504, credit := c.credit + ((504 : Int) - (c.limit : Int)),
                                 early := [], stopped := false, muted := false } s
  e.foldl (fun s f => takeEarly k v f s) s

/-- Delivered bytes taken from the oldest flits; a flit whose bytes are all delivered is freed (R368). -/
def freeFlits : Nat → List Nat → List Nat × Nat
  | _, [] => ([], 0)
  | n, f :: r => if f ≤ n then
      let (l, k) := freeFlits (n - f) r
      (l, k + 1)
    else ((f - n) :: r, 0)

/-- A message delivered: its bytes leave the channel's buffer when they stand at its front. -/
def tookMsg (k v : Nat) (msg : List Byte) (s : State) : State :=
  let c := s.vchan k v
  if c.rx.take msg.length = msg then
    let (l, n) := freeFlits msg.length c.rxFlits
    setVchan k v { c with rx := c.rx.drop msg.length, rxFlits := l, freed := (c.freed + n) % 4096 } s
  else s

end Sys2Proof.Machine
end

