-- ==== Sys2Proof/Machine/MsgOps.lean ====
section
/-!
DEFINITION. Messages delivered from a virtual channel: header fields, and the check of R373 failed (10 R371 to R373).
-/
namespace Sys2Proof.Machine
open State

/-- A message's header fields and the bytes after it. -/
def mKind (m : List Byte) : Nat := ofLe (m.take 1)
def mEpoch (m : List Byte) : Nat := ofLe ((m.drop 1).take 1)
def mSource (m : List Byte) : Nat := ofLe ((m.drop 2).take 2) % 512
def mJob (m : List Byte) : Nat := ofLe ((m.drop 8).take 4)
def mTarget (m : List Byte) : Nat := ofLe ((m.drop 12).take 4)
def mBody (m : List Byte) : List Byte := m.drop 16
/-- `n` bytes of the body at offset `o` as a number. -/
def mAt (m : List Byte) (o n : Nat) : Nat := ofLe (((mBody m).drop o).take n)

/-- Whether a channel delivers messages: open, and not stopped by a mismatch. -/
def State.delivers (s : State) (k v : Nat) : Bool := (s.vchan k v).part.isSome && !(s.vchan k v).stopped

/-- A message that names no matching target: discarded, reported, and delivery on the channel stops (R373). -/
def peerMismatch (k v : Nat) (m : List Byte) (s : State) : State :=
  let c := s.vchan k v
  let st := match c.part with
    | some p => partStamp p
    | none => noStamp
  let s := tookMsg k v m s
  let s := setVchan k v { s.vchan k v with stopped := true } s
    |> raise Ev.ropePeerMismatch st ([k, v] ++ (upFrom 0 4).map fun i => ofLe ((m.drop (4 * i)).take 4))
  match c.part with
  | some p => programFault p s
  | none => s

end Sys2Proof.Machine
end

