-- ==== Sys2Proof/Machine/FlightOps.lean ====
section
/-!
DEFINITION. A flight's descriptors, switchback buffer and operand panels (05 R163 to R179, R188, R199 to R201).
-/
namespace Sys2Proof.Machine
open State

/-- The element formats of FMT_A and FMT_B; code 7 is the head/tail pair of a LOAD (05 R199, R200). -/
def fmtWidth (c : Nat) : Nat := lget 0 [8, 8, 6, 6, 4, 16, 16, 32] c
def fmtOf (c : Nat) : Fmt := lget fp32 [e4m3, e5m2, e2m3, e3m2, e2m1, bf16, fp16] c
/-- Whether a format code is an MX format, which carries scales. -/
def isMx (c : Nat) : Bool := decide (c < 5)
/-- Slots of a 32 × 32 square (05 R172). -/
def slotsPer (c : Nat) : Nat := fmtWidth c / 2

/-- The output formats of OUT_FMT (05 R189): 0 FP32, 1 BF16, 2 FP16, 3 head/tail pair, 4 to 8 MX. -/
def outFmt (c : Nat) : Fmt := lget fp32 [fp32, bf16, fp16, fp32, e4m3, e5m2, e2m3, e3m2, e2m1] c
def outWidth (c : Nat) : Nat := lget 0 [32, 16, 16, 32, 8, 8, 6, 6, 4] c
def outMx (c : Nat) : Bool := decide (4 ≤ c) && decide (c ≤ 8)

/-! Descriptors. -/

def dword (d : List Nat) (i : Nat) : Nat := lget 0 d i
def dword2 (d : List Nat) (i : Nat) : Nat := dword d i + dword d (i + 1) * 2 ^ 32
def dkind (d : List Nat) : Nat := bits (dword d 0) 28 4

/-- A TILE descriptor (05 R199); `m` and `n` are the valid rows and columns. -/
structure Tile where
  arr : Nat
  cont : Bool
  drain : Bool
  fmtA : Nat
  fmtB : Nat
  trA : Bool
  trB : Bool
  order : Nat
  k : Nat
  bSlot : Nat
  aSlot : Nat
  aSc : Nat
  kLast : Nat
  n : Nat
  m : Nat
  bSc : Nat
  kind : Nat
  out : Nat
  rnd : Nat
  sq : Bool
  act : Nat
  part : Bool
  bias : Bool
  colsc : Bool
  rowsc : Bool
  stats : Bool
  statsCont : Bool
  statsEmit : Bool
  statsPre : Bool
  gate : Bool
  partSlot : Nat
  scale : Nat
  rowOff : Nat
  colOff : Nat
  biasOff : Nat
  dst : Nat
  stride : Nat
  tag : Nat
  scStride : Nat
  dstSc : Nat
  statsAddr : Nat
  tensor : Nat
  elemRow : Nat
  elemBase : Nat
  deriving DecidableEq, Repr, Inhabited

def tileOf (d : List Nat) : Tile :=
  let w := dword d
  ⟨bits (w 0) 26 2, bit (w 0) 25, bit (w 0) 24, bits (w 0) 21 3, bits (w 0) 18 3, bit (w 0) 17, bit (w 0) 16,
   bits (w 0) 14 2, bits (w 0) 0 12, bits (w 1) 18 10, bits (w 1) 8 10, bits (w 1) 0 8, bits (w 2) 24 5 + 1,
   bits (w 2) 16 8 + 1, bits (w 2) 8 8 + 1, bits (w 2) 0 8, bits (w 3) 30 2, bits (w 3) 26 4, bits (w 3) 24 2,
   bit (w 3) 23, bits (w 3) 20 3, bit (w 3) 19, bit (w 3) 18, bit (w 3) 17, bit (w 3) 16, bit (w 3) 15, bit (w 3) 14,
   bit (w 3) 13, bit (w 3) 12, bit (w 3) 11, bits (w 3) 0 10, w 4, bits (w 5) 20 10, bits (w 5) 10 10, bits (w 5) 0 10,
   dword2 d 6, w 8, bits (w 9) 16 16, bits (w 9) 0 16, dword2 d 10, dword2 d 12, w 14, w 15, dword2 d 16⟩

/-- A LOAD descriptor (05 R200). -/
structure Load where
  odd : Nat
  dst : Nat
  fmt : Nat
  axis : Nat
  square : Bool
  reblock : Bool
  sqOrder : Bool
  slot : Nat
  sc : Nat
  rows : Nat
  cols : Nat
  epiOff : Nat
  len : Nat
  src : Nat
  stride : Nat
  srcSc : Nat
  scStride : Nat
  tag : Nat
  deriving DecidableEq, Repr, Inhabited

def loadOf (d : List Nat) : Load :=
  let w := dword d
  ⟨bits (w 0) 27 1, bits (w 0) 25 2, bits (w 0) 22 3, bits (w 0) 21 1, bit (w 0) 20, bit (w 0) 19, bit (w 0) 18,
   bits (w 0) 8 10, bits (w 0) 0 8, bits (w 1) 8 8, bits (w 1) 0 8, bits (w 1) 16 15, bits (w 1) 0 15, dword2 d 2, w 4,
   dword2 d 5, w 7, bits (w 8) 0 16⟩

/-! The flight's place. -/

/-- Shape of the role that a flight drives; a flight that drives none reads 4. -/
def State.flightShape (s : State) (gf : Nat) : Nat :=
  match s.flightRole? gf with
  | some (p, role, 0) => (((s.imageOf p).gangRole? role).map Gang.shape).getD 4
  | _ => 4

/-- Rows and columns of one flight's part of a tile. -/
def partDim (shape : Nat) : Nat := if shape = 3 then 64 else 128
/-- Squares along the part (05 R172). -/
def panelSquares (shape : Nat) : Nat := if shape = 3 then 2 else 4

/-! The switchback buffer (05 R171 to R173, R188). -/
def scaleBase : Nat := 0x3A000
def epiBase : Nat := 0x3C000
def Flight.byte (f : Flight) (a : Nat) : Nat := (tget 0 f.sb a).toNat
def Flight.bytesLe (f : Flight) (a n : Nat) : Nat := ofLe ((upFrom a n).map fun i => tget 0 f.sb i)
def Flight.poke (a : Nat) (l : List Byte) (f : Flight) : Flight :=
  { f with sb := l.zipIdx.foldl (fun m (b, i) => tset 0 m (a + i) b) f.sb }
/-- An FP32 word of the epilogue store. -/
def Flight.epi (f : Flight) (o : Nat) : Nat := f.bytesLe (epiBase + o) 4

/-- Row `r` of the square at a slot, as one little-endian number (06 R212). -/
def Flight.sqRow (f : Flight) (slot fmt r : Nat) : Nat := f.bytesLe (slot * 256 + r * (4 * fmtWidth fmt)) (4 * fmtWidth fmt)
/-- Element code (r, c) of a square. -/
def Flight.elem (f : Flight) (slot fmt r c : Nat) : Nat := bits (f.sqRow slot fmt r) (fmtWidth fmt * c) (fmtWidth fmt)

/-- Scale of a line of a square: the entry's byte of that line, or byte 0 of a SQUARE entry (05 R173). -/
def Flight.scale (f : Flight) (entry line : Nat) : Nat :=
  f.byte (scaleBase + entry * 32 + if tget 0 f.tags entry = 2 then 0 else line)

/-- The 32 elements that a panel presents on one line of the output (row of A or column of B) in one K block, with the
scale; `trans` reads the square the other way (05 R174) and `byRow` says that lines are stored rows. Elements at `valid`
and beyond present +0 (R168). -/
def Flight.line (f : Flight) (slot entry fmt line valid : Nat) (byRow : Bool) : List Num × Nat :=
  let row := f.sqRow slot fmt line
  let code (t : Nat) : Nat :=
    if byRow then bits row (fmtWidth fmt * t) (fmtWidth fmt) else f.elem slot fmt t line
  ((upFrom 0 32).map fun t => if t < valid then decodeF (fmtOf fmt) (code t) else .fin false 0 0,
   if isMx fmt then f.scale entry line else 127)

/-! What a descriptor reads and writes (05 R172, R177). -/

/-- Slots `[a, a + n)` as marks, entries as marks above 1,024 and epilogue words above 2,048 (in units of 16 bytes). -/
def markSlots (a n : Nat) : List Nat := upFrom a n
def markEntries (a n : Nat) : List Nat := upFrom (1024 + a) n
def markEpi (o n : Nat) : List Nat := if n = 0 then [] else upFrom (2048 + o / 16) ((o + n - 1) / 16 - o / 16 + 1)

/-- Slots and entries of the A panel, and of the B panel. -/
def Tile.readsA (t : Tile) (shape : Nat) : List Nat :=
  let n := t.k * panelSquares shape
  markSlots t.aSlot (n * slotsPer t.fmtA) ++ if isMx t.fmtA then markEntries t.aSc n else []
def Tile.readsB (t : Tile) (shape : Nat) : List Nat :=
  let n := t.k * panelSquares shape
  markSlots t.bSlot (n * slotsPer t.fmtB) ++ if isMx t.fmtB then markEntries t.bSc n else []

/-- Slots of a partial tile. -/
def partSlots (shape : Nat) : Nat := if shape = 3 then 64 else 256

/-- What the drain of a tile reads: the partial tile and epilogue words. -/
def Tile.readsDrain (t : Tile) (shape : Nat) : List Nat :=
  if t.kind ≠ 0 || !t.drain then []
  else
    (if t.part then markSlots t.partSlot (partSlots shape) else [])
      ++ (if t.bias then markEpi (t.biasOff * 16) (4 * partDim shape) else [])
      ++ (if t.colsc then markEpi (t.colOff * 16) (4 * partDim shape) else [])
      ++ (if t.rowsc then markEpi (t.rowOff * 16) (4 * partDim shape) else [])
      ++ (if 2 ≤ t.act then markEpi ((t.act - 2) * 0x420) 0x420 else [])
      ++ (if t.stats then markEpi 0x3000 0x1000 else [])

/-- What a LOAD writes. -/
def Load.writes (l : Load) : List Nat :=
  if l.dst = 1 then markEpi l.epiOff l.len
  else
    let n := l.rows * l.cols
    markSlots l.slot (n * slotsPer l.fmt) ++ if isMx l.fmt then markEntries l.sc n else []

def overlaps (a b : List Nat) : Bool := a.any fun x => b.contains x

/-! Checks (05 R201): the lowest code a descriptor has before it runs, 0 for none. -/

def reservedTile (d : List Nat) : Bool :=
  bits (dword d 0) 12 2 == 0 && bits (dword d 1) 28 4 == 0 && bits (dword d 2) 29 3 == 0 && !(bit (dword d 3) 10)
    && bits (dword d 5) 30 2 == 0 && (d.drop 18).all (· == 0)

/-- Word 1 has two readings by DST; only bit 31 is listed in neither. -/
def reservedLoad (d : List Nat) : Bool :=
  !(bit (dword d 1) 31) && bits (dword d 8) 16 16 == 0 && (d.drop 9).all (· == 0)

/-- The operand pairings of 05 R167. -/
def pairingOk (a b : Nat) : Bool := (isMx a && isMx b) || (a == b && (a == 5 || a == 6))

/-- The flights whose buffers the A and the B panel come from (05 R165). -/
def aFlights (shape gf : Nat) : List Nat := if shape = 2 then [gf, gf + 1] else [gf]
def bFlights (shape gf : Nat) : List Nat := if shape = 1 then [gf, gf + 1] else [gf]
def tileFlights (shape gf : Nat) : List Nat := if shape = 1 || shape = 2 then [gf, gf + 1] else [gf]

/-- Whether every written scale entry of a panel has an accepted tag (05 R173); `rows` names the accepted axis. -/
def tagsOk (f : Flight) (sc n : Nat) (rows : Bool) : Bool :=
  (upFrom sc n).all fun e => !(tget false f.written (1024 + e)) || tget 0 f.tags e == 2
    || tget 0 f.tags e == (if rows then 0 else 1)

def allWritten (f : Flight) (marks : List Nat) : Bool := marks.all fun m => tget false f.written m

def epiOk (on : Bool) (off shape : Nat) : Bool :=
  !on || (decide (0x110 ≤ off) && decide (off * 16 + 4 * partDim shape ≤ 0x3000))

/-- Whether a CONT = 1 descriptor continues the tile that `first` opened (05 R182). -/
def sameTile (a b : Tile) : Bool :=
  a.fmtA == b.fmtA && a.fmtB == b.fmtB && a.trA == b.trA && a.trB == b.trB && a.order == b.order && a.m == b.m
    && a.n == b.n

def State.tileFault (s : State) (gf : Nat) (d : List Nat) : Nat :=
  let sh := s.flightShape gf
  let t := tileOf d
  let n := t.k * panelSquares sh
  let a := s.array gf t.arr
  let as := (aFlights sh gf).map s.flight
  let bs := (bFlights sh gf).map s.flight
  let ps := (tileFlights sh gf).map s.flight
  if dkind d ≠ 1 then 0x01
  else if !reservedTile d then 0x02
  else if (sh != 3 && t.arr != 0) || decide (partDim sh < t.m) || decide (partDim sh < t.n) then 0x03
  else if !pairingOk t.fmtA t.fmtB || t.order == 3 || t.kind == 3 || decide (9 ≤ t.out) || t.rnd == 3
    || decide (6 ≤ t.act) then 0x04
  else if t.k = 0 || decide (928 < t.aSlot + n * slotsPer t.fmtA) || decide (928 < t.bSlot + n * slotsPer t.fmtB)
    || (isMx t.fmtA && decide (256 < t.aSc + n)) || (isMx t.fmtB && decide (256 < t.bSc + n))
    || (t.part && decide (928 < t.partSlot + partSlots sh)) then 0x05
  else if (isMx t.fmtA && !(as.all fun f => tagsOk f t.aSc n (!t.trA)))
    || (isMx t.fmtB && !(bs.all fun f => tagsOk f t.bSc n t.trB)) then 0x06
  else if !(as.all fun f => allWritten f (t.readsA sh)) || !(bs.all fun f => allWritten f (t.readsB sh))
    || (t.part && t.drain && t.kind == 0
        && !(ps.all fun f => allWritten f (markSlots t.partSlot (partSlots sh)))) then 0x07
  else if (match a.open? with
    | none => t.cont
    | some r => !t.cont || !sameTile (tileOf r.first) t || (t.order == 1 && decide (2 ^ 32 - 1 < r.blocks + t.k))) then 0x08
  else if (!epiOk t.bias t.biasOff sh || !epiOk t.colsc t.colOff sh || !epiOk t.rowsc t.rowOff sh) then 0x09
  else 0

def State.loadFault (s : State) (gf : Nat) (d : List Nat) : Nat :=
  let sh := s.flightShape gf
  let l := loadOf d
  let n := l.rows * l.cols
  if dkind d ≠ 2 then 0x01
  else if !reservedLoad d then 0x02
  else if l.odd = 1 && sh != 1 && sh != 2 then 0x03
  else if decide (2 ≤ l.dst) || (l.square && l.reblock) || ((l.square || l.reblock) && (!isMx l.fmt || l.dst == 1)) then 0x04
  else if l.dst = 0 && (l.rows == 0 || l.cols == 0 || decide (928 < l.slot + n * slotsPer l.fmt)
    || (isMx l.fmt && decide (256 < l.sc + n))) then 0x05
  else if l.dst = 1 && (l.epiOff % 16 != 0 || l.len % 16 != 0 || decide (0x4000 < l.epiOff + l.len)) then 0x09
  else 0

/-! Steps, versions and finite flags of a partition (07 R259, 08 R293). -/

/-- A step's finite flag cleared, with the cause found first; causes are kept by the lowest SOURCE when they arise
together, which a later call cannot. -/
def clearFinite (p step source slot bucket : Nat) (s : State) : State :=
  let x := s.part p
  if x.cleared.any fun c => c.step == step then s
  else s.setPart p { x with cleared := x.cleared ++ [⟨step, source, slot, bucket⟩] }

end Sys2Proof.Machine
end

