-- ==== Sys2Proof/Machine/TileMath.lean ====
section
/-!
DEFINITION. The accumulation of a tile and its fused epilogue (05 R164 to R168, R172, R174, R182, R186 to R193,
06 R231 to R241).
-/
namespace Sys2Proof.Machine
open State

/-! Accumulation. -/

/-- Rows and columns of the whole array. -/
def arrayRows (shape : Nat) : Nat := if shape = 3 then 64 else if shape = 2 then 256 else 128
def arrayCols (shape : Nat) : Nat := if shape = 3 then 64 else if shape = 1 then 256 else 128

/-- The lines of an operand panel in one K block: for A the rows of the output, for B its columns. `fs` are the flights
whose buffers hold the panel, in order. -/
def panelLines (fs : List Flight) (shape slot entry fmt kb valid : Nat) (byRow : Bool) : List (List Num × Nat) :=
  let n := panelSquares shape
  fs.flatMap fun f => (upFrom 0 n).flatMap fun x =>
    (upFrom 0 32).map fun l => f.line (slot + (kb * n + x) * slotsPer fmt) (entry + kb * n + x) fmt l valid byRow

/-- One element's result for one K block, in the descriptor's order (06 R233, R234, R240). -/
def blockValue (order : Nat) (mx wide : Bool) (a b : List Num × Nat) : Nat :=
  let sc : Option Int := if mx then (if a.2 = 255 || b.2 = 255 then none else some ((a.2 + b.2 : Int) - 254)) else some 0
  if order = 0 then blockNormal wide sc a.1 b.1
  else if order = 1 then blockReference mx a.2 b.2 a.1 b.1
  else blockEmulate mx sc a.1 b.1

/-- Every element's result for one block, row by row. -/
def blockValues (t : Tile) (rows cols : List (List Num × Nat)) : List Nat :=
  rows.flatMap fun a => cols.map fun b => blockValue t.order (isMx t.fmtA) (decide (5 ≤ t.fmtA)) a b

/-- The keys of an array's elements, row by row. -/
def elemKeys (rows cols : Nat) : List Nat := (upFrom 0 rows).flatMap fun i => (upFrom 0 cols).map fun j => accKey i j

/-- A table with the value at each of the ascending keys changed by `f`, which takes the old value and the new one. -/
def mergeVals (f : Nat → Nat → Nat) : List (Nat × Nat) → Tbl Nat → Tbl Nat
  | [], t => t
  | (k, v) :: r, t =>
    let t := t.dropWhile fun e => decide (e.1 < k)
    let old := match t with
      | (a, w) :: _ => if a = k then w else 0
      | [] => 0
    let new := f old v
    if new = 0 then mergeVals f r t else (k, new) :: mergeVals f r t

/-- The sum of an accumulator and a block (06 R233, R240). -/
def accAdd (order old v : Nat) : Nat := if order = 2 then ftz (fadd old v).v else (fadd old v).v

/-- A descriptor's blocks added to its bank; in reference order they are kept block by block. -/
def accumulate (as bs : List Flight) (shape : Nat) (t : Tile) (bank : Tbl Nat) (blks : List (Tbl Nat)) :
    Tbl Nat × List (Tbl Nat) :=
  let keys := elemKeys (arrayRows shape) (arrayCols shape)
  (upFrom 0 t.k).foldl (fun acc kb =>
    let valid := if kb + 1 = t.k then t.kLast else 32
    let rows := panelLines as shape t.aSlot t.aSc t.fmtA kb valid (!t.trA)
    let cols := panelLines bs shape t.bSlot t.bSc t.fmtB kb valid t.trB
    let vs := keys.zip (blockValues t rows cols)
    if t.order = 1 then (acc.1, acc.2 ++ [vs.filter fun e => e.2 != 0])
    else (mergeVals (accAdd t.order) vs acc.1, acc.2)) (bank, blks)

/-- The reference-order result: the tree sum of an element's blocks (06 R234). -/
def combineBlocks (shape : Nat) (blks : List (Tbl Nat)) : Tbl Nat :=
  ((elemKeys (arrayRows shape) (arrayCols shape)).map fun k => (k, treeSum (blks.map fun b => tget 0 b k))).filter
    fun e => e.2 != 0

/-! The epilogue. -/

/-- An FP32 operation of the epilogue; emulation flushes operands and result (06 R241). -/
def epi2 (emu : Bool) (f : Nat → Nat → FR) (x y : Nat) : Nat :=
  if emu then ftz (f (ftz x) (ftz y)).v else (f x y).v
def epiFma (emu : Bool) (x y z : Nat) : Nat :=
  if emu then ftz (ffma (ftz x) (ftz y) (ftz z)).v else (ffma x y z).v

/-- floor of a nonnegative value, at most 63; a NaN or a negative value gives 0 (05 R187). -/
def segOf (x : Nat) : Nat :=
  match num32 x with
  | .nan _ => 0
  | .inf s => if s then 0 else 63
  | .fin s m e => if s then 0 else min 63 (if 0 ≤ e then m * 2 ^ e.toNat else m / 2 ^ (-e).toNat)

/-- A side line of an activation table (05 R187). -/
def actSide (emu : Bool) (t a b : Nat) : Nat :=
  match num32 t with
  | .inf s => if isZero a then b else withSign fp32 (s != bit a 31) 0x7F800000
  | _ => epiFma emu t a b

/-- The activation (05 R187). -/
def activate (emu : Bool) (f : Flight) (act t : Nat) : Nat :=
  if act = 0 then t
  else if isNaN t then 0x7FC00000
  else if act = 1 then (if flt 0 t then t else 0)
  else
    let w (o : Nat) : Nat := f.epi ((act - 2) * 0x420 + o)
    if flt t (w 0) then actSide emu t (w 0x0C) (w 0x10)
    else if !(flt t (w 4)) && !(isNaN (w 4)) then actSide emu t (w 0x14) (w 0x18)
    else
      let x := epi2 emu fmul (epi2 emu fsub t (w 0)) (w 8)
      let g (o : Nat) : Nat := w (0x20 + segOf x * 16 + o)
      let d := epi2 emu fsub t (g 0)
      epiFma emu d (epiFma emu d (g 12) (g 8)) (g 4)

/-- An element of a partial tile in the flight's part (05 R186). -/
def Flight.partial_ (f : Flight) (slot shape i j : Nat) : Nat :=
  let s := slot + 16 * (panelSquares shape * (i / 32) + j / 32)
  ofPair (f.bytesLe (s * 256 + (i % 32) * 128 + (j % 32) * 4) 4)

/-- An element after the epilogue: the value before the scale, the scaled and biased value, the activated one. -/
structure EpiVal where
  raw : Nat
  lin : Nat
  out : Nat
  deriving DecidableEq, Repr, Inhabited

/-- The epilogue of element (i, j) of a flight's part with accumulator value `acc` (05 R186). -/
def epilogue (f : Flight) (shape : Nat) (t : Tile) (i j acc : Nat) : EpiVal :=
  let emu := t.order == 2
  let a := if t.part then epi2 emu fadd acc (f.partial_ t.partSlot shape i j) else acc
  let v := epi2 emu fmul a t.scale
  let v := if t.rowsc then epi2 emu fmul v (f.epi (t.rowOff * 16 + 4 * i)) else v
  let v := if t.colsc then epi2 emu fmul v (f.epi (t.colOff * 16 + 4 * j)) else v
  let v := if t.bias then epi2 emu fadd v (f.epi (t.biasOff * 16 + 4 * j)) else v
  ⟨a, v, activate emu f t.act v⟩

/-- One flight's part of a tile: the flight, its first row and column in tile coordinates. -/
structure PartAt where
  gf : Nat
  row : Nat
  col : Nat
  deriving DecidableEq, Repr, Inhabited

def partsOf (shape gf : Nat) : List PartAt :=
  if shape = 1 then [⟨gf, 0, 0⟩, ⟨gf + 1, 0, 128⟩]
  else if shape = 2 then [⟨gf, 0, 0⟩, ⟨gf + 1, 128, 0⟩]
  else [⟨gf, 0, 0⟩]

/-- A row of a part after the epilogue: tile row, first tile column, values of its valid columns. -/
structure EpiRow where
  gf : Nat
  row : Nat
  col : Nat
  vals : List EpiVal
  deriving DecidableEq, Repr, Inhabited

/-- The valid rows of a part (05 R191). -/
def epiRows (f : Flight) (shape : Nat) (t : Tile) (bank : Tbl Nat) (p : PartAt) : List EpiRow :=
  (upFrom 0 t.m).map fun i => ⟨p.gf, p.row + i, p.col,
    (upFrom 0 t.n).map fun j => epilogue f shape t i j (tget 0 bank (accKey (p.row + i) (p.col + j)))⟩

/-- The first non-finite element in tile coordinates (05 R194). -/
def firstNonFinite (rows : List EpiRow) : Option (Nat × Nat) :=
  let found := rows.flatMap fun r => (r.vals.zipIdx.filter fun (v, _) => !isFinite v.raw || !isFinite v.out).map
    fun (_, j) => (r.row, r.col + j)
  found.foldl (fun b x => match b with
    | none => some x
    | some y => if x.1 < y.1 || (x.1 == y.1 && x.2 < y.2) then some x else some y) none

/-- What a tile's drain writes: address and length of each row's elements, MX scales and emitted record (05 R189, R193). -/
def drainSpans (shape gf : Nat) (t : Tile) : List (Nat × Nat) :=
  (partsOf shape gf).flatMap fun p => (upFrom p.row t.m).flatMap fun i =>
    [(t.dst + i * t.stride + p.col * outWidth t.out / 8, (t.n * outWidth t.out + 7) / 8)]
      ++ (if outMx t.out then [(t.dstSc + i * t.scStride + p.col / 32, (t.n + 31) / 32)] else [])
      ++ (if t.stats && t.statsEmit then [(t.statsAddr + i * 16, 16)] else [])

/-- Whether a drain waits for its destination: for a re-rig, or for a request credit (05 R181, 11 R395, R404). -/
def State.drainWaits (s : State) (gf : Nat) (t : Tile) : Bool :=
  (drainSpans (s.flightShape gf) gf t).any fun x => s.engWaits (.flight gf) x.1 x.2

/-! Statistics (05 R192, R193). -/

/-- A record: count, mean, M2, sum of squares. -/
structure Stat where
  n : Nat
  m : Nat
  m2 : Nat
  q : Nat
  deriving DecidableEq, Repr, Inhabited

/-- The tree of eight elements. -/
def tree8 (emu : Bool) (v : List Nat) : Nat :=
  let a := epi2 emu fadd
  let x (i : Nat) : Nat := lget 0 v i
  a (a (a (x 0) (x 1)) (a (x 2) (x 3))) (a (a (x 4) (x 5)) (a (x 6) (x 7)))

/-- The record of one tread column's elements of a row; invalid elements are +0. -/
def treadStat (emu : Bool) (v : List Nat) : Stat :=
  let n := v.length
  let m := epi2 emu fdiv (tree8 emu v) (fromNat n)
  let d := v.map fun x => epi2 emu fsub x m
  ⟨n, m, tree8 emu (d.map fun x => epi2 emu fmul x x), tree8 emu (v.map fun x => epi2 emu fmul x x)⟩

def mergeStat (emu : Bool) (a b : Stat) : Stat :=
  let n := a.n + b.n
  let nf := fromNat n
  let d := epi2 emu fsub b.m a.m
  let r := epi2 emu fdiv (fromNat b.n) nf
  let m := epi2 emu fadd a.m (epi2 emu fmul d r)
  let x := epi2 emu fmul (epi2 emu fmul d d) (epi2 emu fdiv (epi2 emu fmul (fromNat a.n) (fromNat b.n)) nf)
  ⟨n, m, epi2 emu fadd (epi2 emu fadd a.m2 b.m2) x, epi2 emu fadd a.q b.q⟩

/-- Groups of eight. -/
def eights : Nat → List Nat → List (List Nat)
  | 0, _ => []
  | k + 1, l => if l.isEmpty then [] else l.take 8 :: eights k (l.drop 8)

/-- A row's record, over the tread columns in ascending tile column; a pair's row may have two parts. -/
def rowStat (emu : Bool) (parts : List (List Nat)) : Stat :=
  match (parts.flatMap fun l => eights 16 l).map (treadStat emu) with
  | [] => ⟨0, 0, 0, 0⟩
  | s :: r => r.foldl (mergeStat emu) s

/-- The tile's rows with their statistics: flight that keeps the running record, place of the record in its epilogue
store, tile row, record. -/
structure RowRec where
  gf : Nat
  off : Nat
  row : Nat
  stat : Stat
  deriving DecidableEq, Repr, Inhabited

def rowRecs (shape gf : Nat) (t : Tile) (rows : List EpiRow) : List RowRec :=
  let emu := t.order == 2
  let tiles := if shape = 2 then [gf, gf + 1] else [gf]
  tiles.zipIdx.flatMap fun (g, k) => (upFrom 0 t.m).map fun i =>
    let row := 128 * k + i
    let parts := (rows.filter fun r => r.row == row).map fun r => r.vals.map fun v => if t.statsPre then v.lin else v.out
    ⟨g, 0x3000 + (if shape = 3 then t.arr * 64 + i else i) * 16, row, rowStat emu parts⟩

/-- The running record of a row, and its bytes. -/
def Flight.stat (f : Flight) (off : Nat) : Stat :=
  ⟨f.epi (off + 12), f.epi off, f.epi (off + 4), f.epi (off + 8)⟩
def Stat.bytes (s : Stat) : List Byte := leBytes 4 s.m ++ leBytes 4 s.m2 ++ leBytes 4 s.q ++ leBytes 4 s.n

/-! Narrowing (05 R189, 06 R213, R218 to R222). -/

/-- The rounding of element (i, j) of a tile. -/
def elemRnd (t : Tile) (key : RngKey) (i j : Nat) : Rounding :=
  rndOf t.rnd (t.order == 2) key ((t.elemBase + i * t.elemRow + j) % 2 ^ 64)

/-- One element of a format that is not MX. -/
def narrowOut (t : Tile) (key : RngKey) (i j y : Nat) : Nat :=
  if t.out = 0 then y
  else if t.out = 3 then pairOf y
  else (narrow (outFmt t.out) (elemRnd t key i j) y).v

/-- The scale of block `b` of a row: over its own valid elements, or over those of its 32 × 32 square. -/
def outScale (t : Tile) (rows : List EpiRow) (r : EpiRow) (b : Nat) : Nat :=
  let ys (x : EpiRow) : List Nat := ((x.vals.drop (32 * b)).take 32).map EpiVal.out
  if t.sq then mxScale (outFmt t.out) ((rows.filter fun x => x.gf == r.gf && x.row / 32 == r.row / 32).flatMap ys)
  else mxScale (outFmt t.out) (ys r)

/-- A row's element codes and its scales by block. -/
def rowCodes (t : Tile) (key : RngKey) (rows : List EpiRow) (r : EpiRow) : List Nat × List Nat :=
  if outMx t.out then
    let ss := (upFrom 0 ((t.n + 31) / 32)).map (outScale t rows r)
    (r.vals.zipIdx.map fun (v, j) =>
      mxElem (outFmt t.out) (lget 0 ss (j / 32)) (elemRnd t key r.row (r.col + j)) v.out, ss)
  else (r.vals.zipIdx.map fun (v, j) => narrowOut t key r.row (r.col + j) v.out, [])

/-- Codes packed at `w` bits, least significant first (06 R212); the last byte's unused bits come from `last`. -/
def packCodes (w : Nat) (codes : List Nat) (last : Byte) : List Byte :=
  let total := codes.length * w
  let v := codes.foldr (fun c n => c % 2 ^ w + n * 2 ^ w) 0
  leBytes ((total + 7) / 8) (if total % 8 = 0 then v else v + last.toNat / 2 ^ (total % 8) * 2 ^ total)

end Sys2Proof.Machine
end

