-- ==== Sys2Proof/Machine/Flights.lean ====
section
/-!
DEFINITION. Commands of a flight: descriptors pushed, loads, tiles, drains (05 R163 to R208).
-/
namespace Sys2Proof.Machine
open State

/-- A flight whose domain is neither in RETAIN nor OFF (02 R55). -/
def State.flightUp (s : State) (gf : Nat) : Bool := decide (s.get (Reg.DOMAIN_STATE_STATE gf) < 2)

/-- Whether a flight has work in progress (02 R55): a load, a tile or drain, or a tread that runs or waits. -/
def State.flightWorks (s : State) (gf : Nat) : Bool :=
  let f := s.flight gf
  !(f.loads.isEmpty && (f.arrays.all fun (_, a) => a.tile.isNone && a.drain.isNone)
    && s.treads.all fun (t, x) => treadGf t != gf || (x.st != .run && x.st != .wait))

/-- A queue that goes on (05 R201, R204); the queue of a pair's odd flight is unused (R165). -/
def State.queueRuns (s : State) (gf : Nat) : Bool :=
  s.flightShape gf != 4 && s.flightUp gf && !s.on (Reg.FLT_STATUS_STOPPED gf) && !s.on (Reg.FLT_STATUS_LINE_HELD gf)

/-- The stamp and partition of a flight's work. -/
def State.flightStamp (s : State) (gf : Nat) : Stamp :=
  match s.flightPart gf, s.flightStage? gf with
  | some p, some n => workStamp s p n
  | some p, none => partStamp p
  | none, _ => noStamp

/-- A descriptor refused (05 R201): the queue stops, the code and TAG are recorded and reported, the job halts. -/
def flightError (gf code tag : Nat) (s : State) : State :=
  let s := s |> set (Reg.FLT_STATUS_STOPPED gf) 1 |> set (Reg.FLT_DESC_ERR_CODE gf) code
    |> set (Reg.FLT_DESC_ERR_TAG gf) tag |> raise Ev.tileDescError (s.flightStamp gf) [gf, code, tag]
  match s.flightPart gf with
  | some p => programFault p s
  | none => s

/-- TAG of a descriptor: word 8 of a LOAD, word 9 of any other. -/
def descTag (d : List Nat) : Nat := if dkind d = 2 then bits (dword d 8) 0 16 else bits (dword d 9) 16 16

/-- A failed access of a LOAD or drain: held at a lost line, else the error ACCESS (11 R401); nothing further is done of the
descriptor. -/
def flightAccess (gf status tag : Nat) (s : State) : State :=
  if status = FabSt.lineLost then s.set (Reg.FLT_STATUS_LINE_HELD gf) 1 else flightError gf 0x0A tag s

/-! Pushing (05 R198, R208). -/

/-- A descriptor pushed into a flight's queue of 64, or dropped. A flight that carries no role of a loaded image takes none (03
R111). -/
def pushDesc (gf : Nat) (d : List Nat) (s : State) : State :=
  let f := s.flight gf
  if (s.flightRole? gf).isNone then s
  else if f.queue.length < 64 then s.setFlight gf { f with queue := f.queue ++ [d] }
  else s |> raise Ev.tileQueueFull (s.flightStamp gf) [gf]

/-- Word `w` of the push window written; word 23 pushes. -/
def writePush (gf w v : Nat) (s : State) : State :=
  let f := s.flight gf
  let win := tset 0 f.window w (v % 2 ^ 32)
  let s := s.setFlight gf { f with window := win }
  if w = 23 then pushDesc gf ((upFrom 0 24).map fun i => tget 0 win i) s else s

/-- FLT_PUSH: a write of word `w` of the window. Host writes are dropped (R202); a control core needs the right (03 R103). -/
def execFltPush (who : Who) (gf w : Nat) (value : W32) (s : State) : Result :=
  perform (gfOk gf && decide (w < 24)) (fun s =>
    match who with
    | .pf | .vf _ => s
    | .firmware => writePush gf w value.toNat s
    | .core p => if s.controlRight p 0 true (Reg.FLT_PUSH gf w).base 4 then writePush gf w value.toNat s else s) s

/-! Hazards (05 R177). -/

/-- What a LOAD's writes clash with in a TILE: the panels and drain reads in the buffer that the LOAD fills. -/
def Tile.readsIn (t : Tile) (shape odd : Nat) : List Nat :=
  (if odd = 0 || shape == 2 then t.readsA shape else []) ++ (if odd = 0 || shape == 1 then t.readsB shape else [])
    ++ t.readsDrain shape

def clashes (shape : Nat) (l : Load) (t : Tile) : Bool := overlaps l.writes (t.readsIn shape l.odd)

/-- What a running or draining tile still reads. -/
def Flight.busyTiles (f : Flight) (shape : Nat) (l : Load) : Bool :=
  f.arrays.any fun (_, a) =>
    (match a.tile with
      | some r => (r.running && clashes shape l (tileOf r.desc))
          || (r.ends && overlaps l.writes ((tileOf r.desc).readsDrain shape))
      | none => false)
    || (match a.drain with
      | some r => overlaps l.writes ((tileOf r.desc).readsDrain shape)
      | none => false)

/-- Whether a TILE waits for a LOAD that is before it in the queue or in progress. -/
def Flight.waitsLoads (f : Flight) (shape : Nat) (before : List (List Nat)) (t : Tile) : Bool :=
  (f.loads ++ before.filter fun d => dkind d == 2).any fun d => clashes shape (loadOf d) t

/-- The descriptors before position `i` of a queue, and the queue without it. -/
def dropAt {α : Type} (l : List α) (i : Nat) : List α := l.take i ++ l.drop (i + 1)

/-! Loads. -/

/-- The first descriptor that no LOAD precedes (05 R177). -/
def Flight.nextLoad (f : Flight) : Option (Nat × List Nat) :=
  (f.queue.zipIdx.find? fun (d, _) => dkind d != 1).map fun (d, i) => (i, d)

/-- Pieces of a source read in order; the far end's bytes are taken in the same order. -/
def readPieces (a : Agent) (bad : Tbl Nat) : List (Nat × Nat) → Nat × List Byte → List (List Byte) → State →
    Nat × List (List Byte) × State
  | [], _, acc, s => (FabSt.ok, acc.reverse, s)
  | (x, n) :: r, far, acc, s =>
    let (st, d, s) := engRead a bad far x n s
    if st = FabSt.ok then
      readPieces a bad r (if fabPkg x = s.get Reg.PKG_ID_ID then far else (far.1, far.2.drop n)) (d :: acc) s
    else (st, [], s)

/-- The source pieces of a LOAD: its element rows, then its scale rows. -/
def Load.pieces (l : Load) : List (Nat × Nat) × List (Nat × Nat) :=
  if l.dst = 1 then ([(l.src, l.len)], [])
  else
    let w := 4 * fmtWidth l.fmt
    let rows := (upFrom 0 (32 * l.rows)).map fun r => (l.src + r * l.stride, l.cols * w)
    let scs := if !isMx l.fmt then []
      else if l.axis = 0 then (upFrom 0 (32 * l.rows)).map fun r => (l.srcSc + r * l.scStride, l.cols)
      else (upFrom 0 l.rows).map fun r => (l.srcSc + r * l.scStride, 32 * l.cols)
    (rows, scs)

/-- The 32 scales of source square (x, y). -/
def Load.scales (l : Load) (sc : List (List Byte)) (x y : Nat) : List Nat :=
  (upFrom 0 32).map fun n =>
    if l.axis = 0 then (lget 0 (lget [] sc (32 * x + n)) y).toNat else (lget 0 (lget [] sc x) (32 * y + n)).toNat

/-- An element re-blocked: multiplied by `2^k` and rounded to its format; below the smallest subnormal it is ±0 (R175). -/
def reblockElem (f : Fmt) (k : Int) (c : Nat) : Nat :=
  match decodeF f c with
  | .fin s m e =>
    let tiny := e + k < f.emin && m < 2 ^ (f.emin - (e + k)).toNat
    if tiny then withSign f s 0 else withSign f s (roundMag f true .rne m (e + k)).1
  | .inf _ => c
  | .nan _ => canonNaN f

/-- One square as it is stored: its bytes row by row, its scale entry and tag. -/
def Load.squareOut (l : Load) (rows : List (List Byte)) (sc : List Nat) (x y : Nat) : List Byte × List Byte × Nat :=
  let w := fmtWidth l.fmt
  let src := (upFrom 0 32).map fun r => ((lget [] rows (32 * x + r)).drop (y * 4 * w)).take (4 * w)
  if l.reblock then
    let top := sc.foldl max 0
    let out := src.zipIdx.map fun (b, r) =>
      let v := ofLe b
      leBytes (4 * w) ((upFrom 0 32).foldl (fun n c =>
        let old : Nat := if l.axis = 0 then lget 0 sc r else lget 0 sc c
        n + place (reblockElem (fmtOf l.fmt) ((old : Int) - top) (bits v (w * c) w)) (w * c) w) 0)
    (out.flatten, (List.replicate 32 (BitVec.ofNat 8 top)), 1 - l.axis)
  else if l.square then
    (src.flatten, fit 0 32 [BitVec.ofNat 8 (lget 0 sc 0)], 2)
  else (src.flatten, sc.map (BitVec.ofNat 8), l.axis)

/-- Where square (x, y) goes: its number in slot order (R200). -/
def Load.squareNo (l : Load) (x y : Nat) : Nat := if l.sqOrder then y * l.rows + x else x * l.cols + y

/-- The buffer after a LOAD has written it. -/
def Flight.fill (l : Load) (rows sc : List (List Byte)) (f : Flight) : Flight :=
  if l.dst = 1 then f.poke (epiBase + l.epiOff) (lget [] rows 0)
  else
    (upFrom 0 l.rows).foldl (fun f x => (upFrom 0 l.cols).foldl (fun f y =>
      let n := l.squareNo x y
      let s32 := l.scales sc x y
      let (data, ent, tag) := l.squareOut rows s32 x y
      let f := f.poke ((l.slot + n * slotsPer l.fmt) * 256) data
      if isMx l.fmt then
        let f := f.poke (scaleBase + (l.sc + n) * 32) ent
        { f with tags := tset 0 f.tags (l.sc + n) tag }
      else f) f) f

/-- Whether every source square's scales are equal (R175). -/
def Load.equalScales (l : Load) (sc : List (List Byte)) : Bool :=
  (upFrom 0 l.rows).all fun x => (upFrom 0 l.cols).all fun y =>
    let s := l.scales sc x y
    s.all fun v => v == lget 0 s 0

/-- Whether the partition of a flight winds down (13 R465). -/
def State.flightWinds (s : State) (gf : Nat) : Bool :=
  match s.flightPart gf with
  | some p => (s.rig p).winding
  | none => false

/-- The length of the part of a queue that still runs in a wind-down: up to the last TILE that continues a tile already
started. -/
def Flight.runOn (f : Flight) (shape : Nat) : Nat :=
  (upFrom 0 4).foldl (fun n a =>
    match (tget ArrayData.init f.arrays a).tile with
    | none => n
    | some r =>
      if r.ends then n
      else
        let mine := f.queue.zipIdx.filter fun (d, _) => dkind d != 2 && (shape != 3 || (tileOf d).arr == a)
        match (mine.takeWhile fun (d, _) => (tileOf d).cont).getLast? with
        | some (_, i) => max n (i + 1)
        | none => n) 0

/-- Whether a flight may work: it holds admission, or has work in progress (02 R55). -/
def State.mayWork (s : State) (gf : Nat) : Bool := s.power.admitted.contains gf || s.flightWorks gf

/-- LOAD_START: the next LOAD of a flight's queue starts once no earlier TILE reads what it writes; a malformed one stops the
queue. A flight in QUIET without admission waits for a token first. `bad` marks failing lines; `far` is what another package answered: status, element bytes, scale bytes. -/
def execLoadStart (gf : Nat) (bad : List (Nat × Nat)) (far : Nat × List Byte × List Byte) (s : State) : Result :=
  perform (gfOk gf) (fun s =>
    let f := s.flight gf
    if !s.queueRuns gf || !s.mayWork gf then s
    else match f.nextLoad with
      | none => s
      | some (i, d) =>
        let c := s.loadFault gf d
        let sh := s.flightShape gf
        let l := loadOf d
        if s.flightWinds gf && f.runOn sh ≤ i then s
        else if c ≠ 0 then flightError gf c (descTag d) s
        else if ((f.queue.take i).any fun t => clashes sh l (tileOf t)) || f.busyTiles sh l then s
        else
          let (rp, sp) := l.pieces
          if (rp ++ sp).any fun x => s.engWaits (.flight gf) x.1 x.2 then s
          else
            let (st, rows, s) := readPieces (.flight gf) bad rp (far.1, far.2.1) [] s
            let (st, sc, s) := if st = FabSt.ok then readPieces (.flight gf) bad sp (far.1, far.2.2) [] s else (st, [], s)
            if st ≠ FabSt.ok then flightAccess gf st (descTag d) s
            else if l.square && !l.equalScales sc then flightError gf 0x0B (descTag d) s
            else
              let s := s.setFlight (gf + l.odd) ((s.flight (gf + l.odd)).fill l rows sc)
              let f := s.flight gf
              s.setFlight gf { f with queue := dropAt f.queue i, loads := f.loads ++ [d] }) s

/-- LOAD_COMPLETE: the oldest LOAD in progress is complete; what it wrote counts as written. -/
def execLoadComplete (gf : Nat) (s : State) : Result :=
  perform (gfOk gf) (fun s =>
    let f := s.flight gf
    match f.loads with
    | [] => s
    | d :: r =>
      let l := loadOf d
      let s := s.setFlight gf { f with loads := r }
      let g := s.flight (gf + l.odd)
      s.setFlight (gf + l.odd) { g with written := l.writes.foldl (fun m k => tset false m k true) g.written }) s

/-! Tiles. -/

/-- The next TILE of an array, or the descriptor of neither kind before it. -/
def State.nextTile (s : State) (gf arr : Nat) : Option (Nat × List Nat) :=
  let sh := s.flightShape gf
  ((s.flight gf).queue.zipIdx.find? fun (d, _) =>
    dkind d != 2 && (sh != 3 || dkind d != 1 || (tileOf d).arr == arr)).map fun (d, i) => (i, d)

/-- The bank that the array's next tile takes (R182), and whether it is free (R183). -/
def ArrayData.nextBank (a : ArrayData) : Nat :=
  match a.last with
  | none => 0
  | some b => 1 - b
def ArrayData.bankFree (a : ArrayData) : Bool :=
  !a.code a.nextBank && (match a.drain with
    | some r => r.bank != a.nextBank
    | none => true)

/-- Admission of a flight, and of its partner in a pair (02 R61, R66). -/
def State.admits (s : State) (gf : Nat) : Bool :=
  !s.on Reg.PWR_STATUS_ADMIT_HELD && (tileFlights (s.flightShape gf) gf).all fun g => s.power.admitted.contains g

/-- What the next TILE of an array waits for: operands, bank, admission (R181). -/
def State.tileWaits (s : State) (gf arr : Nat) : Bool × Bool × Bool :=
  match s.nextTile gf arr with
  | none => (false, false, false)
  | some (i, d) =>
    let f := s.flight gf
    let t := tileOf d
    let a := s.array gf arr
    (f.waitsLoads (s.flightShape gf) (f.queue.take i) t, !t.cont && !a.bankFree, !t.cont && !s.admits gf)

/-- The stream of the micro-batch in progress at a flight's stage (06 R228). -/
def State.streamOf (s : State) (gf : Nat) : Nat :=
  match s.flightStage? gf with
  | some n => (s.ctx (s.stage n).cur).mbId
  | none => 0

/-- A TILE starts: it opens or continues a tile, and its blocks enter the bank. The arithmetic is done here; the time it
takes ends with TILE_ACCUMULATED (log 41). -/
def startTile (gf arr i : Nat) (d : List Nat) (s : State) : State :=
  let sh := s.flightShape gf
  let t := tileOf d
  let a := s.array gf arr
  let b := match a.tile with
    | some r => r.bank
    | none => a.nextBank
  let (bank, blks) := accumulate ((aFlights sh gf).map s.flight) ((bFlights sh gf).map s.flight) sh t
    (if t.cont then a.bank b else []) (if t.cont then a.blks else [])
  let r : TileRun := match a.tile with
    | some r => { r with desc := d, blocks := r.blocks + t.k, running := t.drain, ends := t.drain }
    | none => ⟨d, d, b, t.k, t.drain, t.drain, s.streamOf gf⟩
  let s := s.setFlight gf { s.flight gf with queue := dropAt (s.flight gf).queue i }
  setArray gf arr { (a.setBank b bank) with tile := some r, blks := blks } s

/-- Time that tiles have waited, in units of 256 array beats (R206): for operands, and for a bank. -/
def countWaits (gf : Nat) (waited : Nat × Nat) (s : State) : State :=
  s |> bump (Reg.FLT_WAITS_SB_WAIT gf) waited.1 |> bump (Reg.FLT_WAITS_BANK_WAIT gf) waited.2

/-- TILE_START: the next TILE of an array starts once its operands, its bank and admission allow; a malformed one stops the
queue. `waited` is how long the array has waited since the command before. -/
def execTileStart (a : ArrayAt) (waited : Nat × Nat) (s : State) : Result :=
  perform (gfOk a.gf && decide (a.arr < 4)) (fun s =>
    if !s.queueRuns a.gf || (s.flightShape a.gf != 3 && a.arr != 0) then s
    else match s.nextTile a.gf a.arr with
      | none => s
      | some (i, d) =>
        let s := countWaits a.gf waited s
        let busy := match (s.array a.gf a.arr).tile with
          | some r => r.running
          | none => false
        let c := s.tileFault a.gf d
        let (sb, bank, noToken) := s.tileWaits a.gf a.arr
        if busy || (s.flightWinds a.gf && !((tileOf d).cont && (s.array a.gf a.arr).open?.isSome)) then s
        else if 0 < c && c < 6 then flightError a.gf c (descTag d) s
        else if sb then s
        else if c ≠ 0 then flightError a.gf c (descTag d) s
        else if bank || noToken then s
        else startTile a.gf a.arr i d s) s

/-- TILE_ACCUMULATED: the tile's last descriptor has accumulated. A FABRIC tile drains, or waits until the tile before it has
drained; a CODE tile's bank passes to the treads that hold its parts; a DISCARD tile is gone (R185). -/
def execTileAccumulated (gf arr : Nat) (s : State) : Result :=
  perform (gfOk gf && decide (arr < 4)) (fun s =>
    let a := s.array gf arr
    match a.tile with
    | some r =>
      if !r.running then s
      else
        let sh := s.flightShape gf
        let t := tileOf r.desc
        let bank := if t.order = 1 then combineBlocks sh a.blks else a.bank r.bank
        let a := { a.setBank r.bank bank with tile := none, last := some r.bank, blks := [] }
        if t.kind = 0 then
          setArray gf arr (match a.drain with
            | none => { a with drain := some { r with running := false } }
            | some _ => { a with tile := some { r with running := false } }) s
        else
          let s := bump (Reg.FLT_COUNTS_TILES gf) 1 s
          if t.kind = 1 then
            (s.arrayTreads gf arr).foldl (fun s u => s.setTread u ((s.tread u).setHeld r.bank true))
              (setArray gf arr (a.setCode r.bank true) s)
          else setArray gf arr a s
    | none => s) s

/-! Drains. -/

/-- A byte of this package's memory, as a partly written byte keeps its other bits; elsewhere they are free (log 42). -/
def tailByte (addr : Nat) (s : State) : Byte × State :=
  if fabPkg addr = s.get Reg.PKG_ID_ID && fabCls addr == 0 then (s.readByte (fabOff addr), s)
  else
    let (v, s) := s.takeFree
    (v.setWidth 8, s)

/-- The writes of a drain's rows: elements, then scales, row by row. -/
def drainRows (a : Agent) (bad : Tbl Nat) (far : Nat) (t : Tile) (key : RngKey) (all : List EpiRow) :
    List EpiRow → State → Nat × State
  | [], s => (FabSt.ok, s)
  | r :: rest, s =>
    let (codes, scs) := rowCodes t key all r
    let w := outWidth t.out
    let addr := t.dst + r.row * t.stride + r.col * w / 8
    let (tail, s) := if codes.length * w % 8 = 0 then ((0 : Byte), s) else tailByte (addr + codes.length * w / 8) s
    let (st, s) := engWrite a bad far addr (packCodes w codes tail) s
    if st ≠ FabSt.ok then (st, s)
    else
      let (st, s) := if scs.isEmpty then (FabSt.ok, s)
        else engWrite a bad far (t.dstSc + r.row * t.scStride + r.col / 32) (scs.map (BitVec.ofNat 8)) s
      if st ≠ FabSt.ok then (st, s) else drainRows a bad far t key all rest s

/-- Each row's record merged with the running one, written or kept (R192, R193). -/
def drainStats (a : Agent) (bad : Tbl Nat) (far : Nat) (t : Tile) : List RowRec → State → Nat × State
  | [], s => (FabSt.ok, s)
  | r :: rest, s =>
    let f := s.flight r.gf
    let x := if t.statsCont then mergeStat (t.order == 2) (f.stat r.off) r.stat else r.stat
    if t.statsEmit then
      let (st, s) := engWrite a bad far (t.statsAddr + r.row * 16) x.bytes s
      if st ≠ FabSt.ok then (st, s)
      else drainStats a bad far t rest
        (s.setFlight r.gf ((s.flight r.gf).poke (epiBase + r.off) (List.replicate 16 0)))
    else drainStats a bad far t rest (s.setFlight r.gf (f.poke (epiBase + r.off) x.bytes))

/-- The stage and bucket of a partition whose area holds a tile's target. -/
def State.bucketAt (s : State) (p : Nat) (t : Tile) : Option (Nat × Bucket) :=
  let r := s.imageOf p
  if fabPkg t.dst == s.get Reg.PKG_ID_ID && fabCls t.dst == 0 then
    r.stages.findSome? fun c => ((r.buckets c.slot).find? fun b =>
      decide (b.area ≤ fabOff t.dst) && decide (fabOff t.dst < b.area + b.bytes)).map fun b => (c.slot, b)
  else none

/-- Whether a bucket has entered the ring and is still the ring's: of the step that a context works on, or one of an earlier
step that has not left its area (08 R285, R290). -/
def Red.entrance (d : Red) (b : Bucket) (step : Nat) : Bool :=
  decide (b.num < d.entered)
    && (d.step == step || !(decide (b.num < d.mb) && d.updStep == d.step && decide (b.num < d.ub)))

/-- A drain into the area of a bucket: counted in a step's last micro-batch, or the order error that it shows (08 R288,
R290). -/
def countDrain (p slot : Nat) (t : Tile) (s : State) : State :=
  let g := s.stage slot
  let x := s.ctx g.cur
  match s.bucketAt p t with
  | none => s
  | some (n, b) =>
    let d := s.red n
    if d.entrance b x.step then
      s.setRed n { d with stopped := true } |> set (Reg.RED_STATUS_WAIT n) 7
        |> bump (Reg.RED_COUNTS_ORDER_ERRORS n) 1
        |> raise Ev.ringOrder (workStamp s p slot) [n, d.entered, b.num] |> programFault p
    else if g.mode == .bwd && x.mbSeq + 1 == (((s.imageOf p).stage? slot).map StageCfg.mbPerStep).getD 0 then
      s.setRed n { d with drains := tset 0 d.drains b.num (tget 0 d.drains b.num + 1) }
    else s

/-- A completion record received by the stage sequencer; a non-finite tile with GATE clears its micro-batch's finite flag
(R195). -/
def sendRecord (gf : Nat) (gate : Bool) (c : TileRec) (s : State) : State :=
  match s.flightPart gf, s.flightStage? gf with
  | some p, some n =>
    let g := s.stage n
    let s := s.setStage n { g with records := g.records ++ [c] }
    if gate && c.nonfinite.isSome then clearFinite p (s.ctx g.cur).step 0 n 0 s else s
  | _, _ => s

/-- What a tile's drain records at the flight: the counts, the sum of squares, the first non-finite tile (R205 to R207). -/
def drainReport (gf : Nat) (t : Tile) (c : TileRec) (s : State) : State :=
  let s := bump (Reg.FLT_COUNTS_TILES gf) 1 s
  let s := if t.stats then s.set (Reg.FLT_SUMSQ_SUMSQ gf) c.sumsq else s
  match c.nonfinite with
  | none => s
  | some (i, j) =>
    let s := bump (Reg.FLT_COUNTS_NONFINITE_TILES gf) 1 s
    if s.on (Reg.FLT_NONFINITE_SEEN gf) then s else
      s |> set (Reg.FLT_NONFINITE_SEEN gf) 1 |> set (Reg.FLT_NONFINITE_ARRAY gf) c.arr |> set (Reg.FLT_NONFINITE_ROW gf) i
        |> set (Reg.FLT_NONFINITE_COL gf) j |> set (Reg.FLT_NF_TAG_TAG gf) c.tag

/-- The tile's sum of squares over its rows (R186). -/
def tileSumsq (t : Tile) : List RowRec → Nat
  | [] => 0
  | x :: r => r.foldl (fun q y => epi2 (t.order == 2) fadd q y.stat.q) x.stat.q

/-- The completion record of a drained tile. Without STATS_EN no rule forms a sum of squares: that field is free (log 98). -/
def tileRecord (arr : Nat) (t : Tile) (rows : List EpiRow) (recs : List RowRec) (s : State) : TileRec × State :=
  let (q, s) := if t.stats then (tileSumsq t recs, s) else
    let (v, s) := s.takeFree
    (v.toNat % 2 ^ 32, s)
  (⟨t.tag, arr, firstNonFinite rows, q⟩, s)

/-- The key of a tile's stochastic rounding (06 R219). -/
def State.drainKey (s : State) (gf : Nat) (run : TileRun) : RngKey :=
  ⟨(s.imageOf ((s.flightPart gf).getD 0)).jobSeed, run.stream, (tileOf run.desc).tensor,
    (s.ctx (s.stage ((s.flightStage? gf).getD 64)).cur).step⟩

/-- A tile's rows and row statistics written: the status of the first write that failed, or OK. -/
def drainWrites (gf : Nat) (run : TileRun) (rows : List EpiRow) (recs : List RowRec) (bad : Tbl Nat) (far : Nat) (s : State) :
    Nat × State :=
  let r := drainRows (.flight gf) bad far (tileOf run.desc) (s.drainKey gf run) rows rows s
  if r.1 = FabSt.ok then drainStats (.flight gf) bad far (tileOf run.desc) recs r.2 else r

/-- An array after its drain has ended: a tile that waited for it drains next (R183). -/
def ArrayData.drained (a : ArrayData) : ArrayData :=
  match a.tile with
  | some r => if r.ends && !r.running then { a with tile := none, drain := some r } else { a with drain := none }
  | none => { a with drain := none }

/-- A drain whose writes were accepted: the bank is free, the tile reported and counted. -/
def drainDone (gf arr : Nat) (t : Tile) (inj : Bool) (rows : List EpiRow) (recs : List RowRec) (s : State) : State :=
  let (c, s) := tileRecord arr t rows recs s
  let s := setArray gf arr (s.array gf arr).drained s |> drainReport gf t c |> sendRecord gf t.gate c
  let s := if inj then hitInjection (s.get Reg.INJ_LAST_SEQ_SEQ) (s.flightPart gf).toList s else s
  match s.slotPart ((s.flightStage? gf).getD 64) with
  | some q => countDrain q ((s.flightStage? gf).getD 64) t s
  | none => s

/-- DRAIN_COMPLETE: the epilogue of a FABRIC tile has run and its writes have been accepted: the completion record goes to
the stage, and the bank is free. `far` is the status that another package answered, `waited` how long the drain has waited
for its destination (R206). A drain whose access failed does nothing further (11 R401). -/
def execDrainComplete (x : ArrayAt) (bad : List (Nat × Nat)) (far waited : Nat) (s : State) : Result :=
  perform (gfOk x.gf && decide (x.arr < 4)) (fun s =>
    let a := s.array x.gf x.arr
    match a.drain with
    | none => s
    | some run =>
      if a.failed then s
      else
        let s := bump (Reg.FLT_DST_WAIT_DST_WAIT x.gf) waited s
        let sh := s.flightShape x.gf
        let t := tileOf run.desc
        let inj := t.gate && s.injected 0x0B x.gf
        let bank := if inj then tset 0 (a.bank run.bank) 0 0x7FC00000 else a.bank run.bank
        let rows := (partsOf sh x.gf).flatMap fun p => epiRows (s.flight p.gf) sh t bank p
        if s.drainWaits x.gf t then s
        else
          let recs := if t.stats then rowRecs sh x.gf t rows else []
          let r := drainWrites x.gf run rows recs bad far s
          if r.1 = FabSt.ok then drainDone x.gf x.arr t inj rows recs r.2
          else flightAccess x.gf r.1 (descTag run.desc) (setArray x.gf x.arr { (r.2).array x.gf x.arr with failed := true } r.2)) s

end Sys2Proof.Machine
end

