-- ==== Sys2Proof/Machine/PowerOps.lean ====
section
/-!
DEFINITION. The power manager's shared operations: calibrated rates, stage rates and voltages, admission, faults
(02 R47, R51 to R69, 15 R520 to R523).
-/
namespace Sys2Proof.Machine
open State

/-! Calibration (15 R521, R522). -/

/-- The clamp of a user calibration kind. -/
def calClamp (kind : Nat) : Int × Int :=
  if kind = 1 then (-256, 32) else if kind = 2 then (-40, 40) else if kind = 3 then (-128, 128) else (-20, 20)

/-- The user calibration of a kind and index as written, as applied, and as it is in force. -/
def State.calUser (s : State) (kind idx : Nat) : Int := tget 0 s.det.user (kind * 4096 + idx)
def State.calApplied (s : State) (kind idx : Nat) : Int := tget 0 s.det.applied (kind * 4096 + idx)
def State.calInForce (s : State) (kind idx : Nat) : Int :=
  max (calClamp kind).1 (min (calClamp kind).2 (s.calApplied kind idx))

/-- Raw and corrected temperature of a flight at the last sample, in 0.125 °C. -/
def State.rawTemp (s : State) (gf : Nat) : Int := tget 0 s.power.raw gf
def State.temp (s : State) (gf : Nat) : Int := s.rawTemp gf + Config.sensorOffset gf + s.calInForce 2 gf

/-- The table columns that bracket a temperature: first column, its temperature, the next one's, in 0.125 °C. -/
def tempCols (t : Int) : Nat × Int × Int :=
  if t < 480 then (0, 200, 480) else if t < 680 then (1, 480, 680) else (2, 680, 840)

/-- A point of a domain's table with its user offset (R521). -/
def State.ratePoint (s : State) (gf v t : Nat) : Int := (Config.rateTable gf v t : Int) * (1024 + s.calInForce 1 gf) / 1024

/-- The calibrated rate of a domain at a code and corrected temperature, in Mbeat/s (R521). At code 70 it is rounded down as
R521 has it below 70 (DESIGN CHOICE, log 92). -/
def State.domainRateAt (s : State) (gf code : Nat) (temp : Int) : Nat :=
  let t := max 200 (min 840 temp)
  let (c, lo, hi) := tempCols t
  let d := hi - lo
  let rt (v : Nat) : Int := s.ratePoint gf v c * d + (t - lo) * (s.ratePoint gf v (c + 1) - s.ratePoint gf v c)
  if 70 ≤ code then (rt 7 / d).toNat
  else ((rt (code / 10) * 10 + (code % 10 : Nat) * (rt (code / 10 + 1) - rt (code / 10))) / (10 * d)).toNat

def State.domainRate (s : State) (gf code : Nat) : Nat := s.domainRateAt gf code (s.temp gf)

/-! Stages and domains. -/

def State.vdom? (s : State) (slot : Nat) : Option VDom := (s.slotPart slot).bind fun p => (s.imageOf p).vdom? slot
def State.vMin (s : State) (slot : Nat) : Nat := ((s.vdom? slot).map VDom.vMin).getD 0
def State.vMax (s : State) (slot : Nat) : Nat := ((s.vdom? slot).map VDom.vMax).getD 0
def State.vcode (s : State) (gf : Nat) : Nat := s.get (Reg.DOMAIN_STATE_VCODE gf)

/-- The placed flights of a stage that are not OFF. -/
def State.stageDomains (s : State) (slot : Nat) : List Nat :=
  (s.stageFlights slot).filter fun gf => s.get (Reg.DOMAIN_STATE_STATE gf) != 3

/-- Stage slots of the loaded images. -/
def State.slots (s : State) : List Nat := s.loaded.flatMap fun p => (s.imageOf p).stages.map StageCfg.slot

/-- Every variable domain with its stage. -/
def State.variable (s : State) : List (Nat × Nat) := s.slots.flatMap fun n => (s.stageDomains n).map fun gf => (gf, n)

/-- A stage's rate at a code: that of its slowest flight (02 R44). -/
def State.rateAt (s : State) (slot code : Nat) : Nat :=
  match (s.stageDomains slot).map fun gf => s.domainRate gf code with
  | [] => ((s.vdom? slot).map VDom.nominal).getD 0
  | r :: l => l.foldl min r

/-- The rate that the power manager holds for a stage, as numerator and denominator. -/
def State.stageRate (s : State) (slot : Nat) : Nat × Nat :=
  let r := tget (0, 0) s.power.rates slot
  if r.2 = 0 then (((s.vdom? slot).map VDom.nominal).getD 0, 1) else r

/-- The code that a domain should have: V_MIN while a flight of its stage is hot, else the lowest code that reaches the
stage's rate (R63, last line), and no more than a warm domain may have (R69). -/
def State.wantCode (s : State) (slot gf : Nat) : Nat :=
  let lo := s.vMin slot
  let hi := s.vMax slot
  let r := s.stageRate slot
  if (s.stageFlights slot).any fun g => s.power.hot.contains g then lo
  else
    let c := ((upFrom lo (hi - lo + 1)).find? fun c => decide (r.1 ≤ s.domainRate gf c * r.2)).getD hi
    match tget 0 s.power.caps gf with
    | 0 => c
    | k + 1 => min c k

/-- The code of a stage's domains lowered to what they should have; a raise waits for a token of the limiter (R64,
R67). -/
def lowerCodes (slot : Nat) (s : State) : State :=
  (s.stageDomains slot).foldl (fun s gf => s.set (Reg.DOMAIN_STATE_VCODE gf) (min (s.vcode gf) (s.wantCode slot gf))) s

/-- A stage's rate set, as STAGE_RATE.TARGET shows in whole Mbeat/s. -/
def setStageRate (slot num den : Nat) (s : State) : State :=
  let g := Nat.gcd num den
  let r := if g = 0 then (num, den) else (num / g, den / g)
  { s with power := { s.power with rates := tset (0, 0) s.power.rates slot r } }
    |> set (Reg.STAGE_RATE_TARGET slot) (num / den) |> lowerCodes slot

/-- A stage's rate and limits as a rigging load sets them: the nominal rate. -/
def beginStageRate (slot : Nat) (s : State) : State :=
  let n := ((s.vdom? slot).map VDom.nominal).getD 0
  s |> set (Reg.STAGE_RATE_NOMINAL slot) n |> setStageRate slot n 1

/-- A stage's rate given up at release. -/
def dropStageRate (slot : Nat) (s : State) : State :=
  { s with power := { s.power with rates := tset (0, 0) s.power.rates slot (0, 0),
                                   balanceAt := tset 0 s.power.balanceAt slot 0,
                                   saturatedIn := tset [] s.power.saturatedIn slot [] } }
    |> unset (Reg.STAGE_RATE_NOMINAL slot) |> unset (Reg.STAGE_RATE_TARGET slot) |> unset (Reg.STAGE_RATE_SATURATED slot)

/-! Domain states (02 R55, R56, R66). -/

/-- A flight without admission; treads that waited for it stay in HALT. -/
def dropAdmission (gf : Nat) (s : State) : State :=
  { s with power := { s.power with admitted := s.power.admitted.filter (· != gf),
                                   starting := s.power.starting.filter (· != gf) } }

/-- The state that a tread of a flight without power reads: FENCED stays. -/
def State.offTread (s : State) (t : Nat) : Tread :=
  { Tread.init with st := if s.treadFenced t || s.flightFenced (treadGf t) then .fenced else .idle }

/-- A flight taken to OFF: it loses admission and everything it holds (R56, R66). -/
def flightOff (gf : Nat) (s : State) : State :=
  let s := s |> set (Reg.DOMAIN_STATE_STATE gf) 3 |> set (Reg.DOMAIN_STATE_VCODE gf) 0 |> dropAdmission gf
    |> setFlight gf Flight.init
    |> set (Reg.FLT_STATUS_STOPPED gf) 0 |> set (Reg.FLT_STATUS_LINE_HELD gf) 0
  let s := s.setPower { s.power with caps := tset 0 s.power.caps gf 0, waking := tset 0 s.power.waking gf 0 }
  let kept := s.treads.filter fun e => treadGf e.1 != gf
  let gone := (s.treads.filter fun e => treadGf e.1 == gf).map Prod.fst
  gone.foldl (fun s t => s.setTread t (s.offTread t)) (s.setTreads kept)

/-- A flight in OFF that a token is to bring to QUIET at a code (R66, R110, R116). -/
def wakeAt (code gf : Nat) (s : State) : State :=
  if s.get (Reg.DOMAIN_STATE_STATE gf) = 3 then s.setPower { s.power with waking := tset 0 s.power.waking gf (code + 1) } else s

/-- A flight asked from OFF to QUIET at its stage's voltage limits; it holds no admission. -/
def bringUp (slot gf : Nat) (s : State) : State := wakeAt (s.wantCode slot gf) gf s

/-- Whether some of the flights still wait to enter QUIET. -/
def State.waking (s : State) (gfs : List Nat) : Bool := gfs.any fun gf => tget 0 s.power.waking gf != 0

def allFlights : List Nat := upFrom 0 1184

/-- PKG_STATE.STATE becomes FAULT, and FAULT_N is driven low (01 R34, 16 R548). -/
def packageFault (s : State) : State :=
  if s.pkg == .fault then s
  else { s with pkg := .fault } |> setPins { s.pins with faultN := false } |> put (.pin .faultN false)

/-! Admission holds (R52, R61). -/

/-- A hold begins: every flight loses admission; entries into a hold are counted (R66, R78). -/
def holdAdmission (s : State) : State :=
  let s := if s.on Reg.PWR_STATUS_ADMIT_HELD then s else bump Reg.PWR_EVENT_COUNTS_ADMIT_HOLDS 1 s
  { s with power := { s.power with admitted := [] } } |> set Reg.PWR_STATUS_ADMIT_HELD 1

/-- Admission is held while either cause holds. -/
def showHold (s : State) : State := s.set Reg.PWR_STATUS_ADMIT_HELD (b2n (s.power.powerHold || s.power.inputHold))

/-! The effective budget (R51, R57, R59). -/

def boundW (w : Nat) : Nat := max 1500 (min 6000 w)

/-- EFFECTIVE_W formed anew; a fall starts the 100 µs bound. -/
def formBudget (s : State) : State :=
  let n := 13 - s.power.failed.length
  let e := min (boundW (s.get Reg.PWR_BUDGET_HOST_W)) (boundW (s.get Reg.PWR_LIMITS_BOARD_W))
  let e := if n < 12 then min e (505 * n) else e
  let s := if e < s.get Reg.PWR_LIMITS_EFFECTIVE_W then { s with power := { s.power with fallAt := some s.time } } else s
  s.set Reg.PWR_LIMITS_EFFECTIVE_W e

/-- The SETTINGS record (13 R480): HOST_W, WARN_C and LASER_CFG. -/
def journalSettings (s : State) : State :=
  journalWrite 8 0 (leBytes 2 (s.get Reg.PWR_BUDGET_HOST_W) ++ leBytes 2 (s.get Reg.THERM_CTRL_WARN_C)
    ++ leBytes 2 (s.get Reg.LASER_CFG_WARN_PCT) ++ leBytes 2 (s.get Reg.LASER_CFG_RATED_KH)) s

/-- The largest `k` below `2^n` with `k³ × w ≤ e × 1024³` (R58). -/
def cubeRoot (e w : Nat) : Nat → Nat → Nat
  | 0, k => k
  | n + 1, k => if (k + 2 ^ n) ^ 3 * w ≤ e * 1024 ^ 3 then cubeRoot e w n (k + 2 ^ n) else cubeRoot e w n k

/-- Whether some stage's rate stands above its rate at V_MIN. -/
def State.canScale (s : State) : Bool :=
  s.slots.any fun n => decide (s.rateAt n (s.vMin n) * (s.stageRate n).2 < (s.stageRate n).1)

/-- Every stage's rate scaled by `k / 1024`, no stage below its rate at V_MIN (R58). -/
def scaleRates (k : Nat) (s : State) : State :=
  s.slots.foldl (fun s n =>
    let lo := s.rateAt n (s.vMin n)
    let (a, d) := s.stageRate n
    if a ≤ lo * d then s
    else if a * k ≤ lo * d * 1024 then setStageRate n lo 1 s else setStageRate n (a * k) (d * 1024) s) s

/-- Every stage at its rate at V_MIN (R59). -/
def floorRates (s : State) : State := s.slots.foldl (fun s n => setStageRate n (s.rateAt n (s.vMin n)) 1 s) s

/-- Whether every variable domain is at V_MIN; with no variable domain none is. -/
def State.atFloor (s : State) : Bool := !s.variable.isEmpty && s.variable.all fun (gf, n) => s.vcode gf == s.vMin n

/-! Balancing (R63 to R65). -/

/-- The voltage codes of STEP_MAX (R63, R76). -/
def State.stepCodes (s : State) : Nat := (max 1 (min 20 (s.get Reg.BAL_CTRL_STEP_MAX)) + 4) / 5

/-- Occupancy and credits of a stage's inbound landings, the larger ratio of the two. -/
def State.inbound (s : State) (slot : Nat) : Option (Nat × Nat) :=
  match s.stageCfg? slot with
  | none => none
  | some c =>
    let x (n : Nat) : List (Nat × Nat) := match s.landCfg? n with
      | some (_, l) => if l.credits = 0 then [] else [((s.landing n).ents.length, l.credits)]
      | none => []
    (x c.fwdIn ++ x c.bwdIn).foldl (fun b y => match b with
      | none => some y
      | some z => if z.1 * y.2 < y.1 * z.2 then some y else some z) none

/-- The rate that the balancing law gives: `dr / (d · errD · 16)` above the rate `a / d`, between those of the stage's limits. -/
def balanceTo (slot a d errD lo hi : Nat) (dr : Int) (s : State) : State :=
  let den : Nat := d * errD * 16
  let new : Int := (a * (errD * 16) : Nat) + dr
  if new < ((lo * den : Nat) : Int) then setStageRate slot lo 1 s
  else if ((hi * den : Nat) : Int) < new then setStageRate slot hi 1 s
  else setStageRate slot new.toNat den s

/-- The rate gained or lost by one step of codes at the slowest domain of a stage (R63). -/
def State.slopeRate (s : State) (slot : Nat) : Nat :=
  let slow := (s.stageDomains slot).foldl (fun b g => match b with
    | none => some g
    | some x => if s.domainRate g (s.vcode g) < s.domainRate x (s.vcode x) then some g else some x) none
  match slow with
  | none => 0
  | some g =>
    let c0 := min (s.vcode g) (70 - s.stepCodes)
    s.domainRate g (c0 + s.stepCodes) - s.domainRate g c0

/-- Whether a stage may not be raised: the package near its budget, or a flight warm. -/
def State.noRaise (s : State) (slot : Nat) : Bool :=
  decide (97 * s.get Reg.PWR_LIMITS_EFFECTIVE_W ≤ 100 * s.get Reg.PWR_INPUT_INPUT_W)
    || (s.stageFlights slot).any fun g => s.power.warn.contains g

/-- STAGE_RATE.SATURATED shown; its event is raised at the first update of each training step that finds it so (R65). -/
def noteSaturated (slot c : Nat) (sat : Bool) (s : State) : State :=
  let step := (s.ctx c).step
  let s := s.set (Reg.STAGE_RATE_SATURATED slot) (b2n sat)
  let told := tget [] s.power.saturatedIn slot
  if sat && !told.contains step then
    s.setPower { s.power with saturatedIn := tset [] s.power.saturatedIn slot (told ++ [step]) }
      |> raise Ev.balanceSaturated ⟨some step, some (s.ctx c).mbId, s.slotPart slot⟩ [slot]
  else s

/-- One update of the law from an inbound landing of occupancy `occ` and credit `cr`. -/
def balanceRun (slot c occ cr : Nat) (v : VDom) (s : State) : State :=
  let s := s.setPower { s.power with balanceAt := tset 0 s.power.balanceAt slot (s.time + 1) }
  let target : Nat := if v.targetOcc = 0 then 128 else v.targetOcc
  let errN : Int := (occ : Int) * 256 - target * cr
  let errD : Nat := cr * 256
  let above := (min 100 (s.get Reg.BAL_CTRL_DEADBAND)) * errD < errN.natAbs * 1000
  let (a, d) := s.stageRate slot
  let hi := s.rateAt slot v.vMax
  let lo := s.rateAt slot v.vMin
  let s := noteSaturated slot c (above && decide (0 < errN) && decide (hi * d ≤ a)) s
  if !above then s
  else
    let gain := max 1 (min 8 (s.get Reg.BAL_CTRL_GAIN))
    let lim := s.slopeRate slot
    let den : Nat := d * errD * 16
    let dr : Int := max (-((lim * den : Nat) : Int)) (min ((lim * den : Nat) : Int) ((a * gain : Nat) * errN))
    if 0 < dr && s.noRaise slot then s else balanceTo slot a d errD lo hi dr s

/-- A balance update of stage `slot` at the boundary of context `c` (R63 to R65), at most once in 200 µs. -/
def balanceUpdate (slot c : Nat) (s : State) : State :=
  let last := tget 0 s.power.balanceAt slot
  if !s.on Reg.BAL_CTRL_ENABLE || (last != 0 && decide (s.time < last - 1 + 200000)) then s
  else match s.inbound slot, s.vdom? slot with
    | some (occ, cr), some v => balanceRun slot c occ cr v s
    | _, _ => s

/-! The load-step limiter (R66, R67). -/

/-- A flight's activity at a code in mA at 6 V, between the table's points in proportion. -/
def State.activityAt (s : State) (gf code : Nat) : Nat :=
  let a (v : Nat) : Int := Config.activity gf v
  let i := min (code / 10) 7
  let x := a i * 10 + (if 70 ≤ code then 0 else (code % 10 : Nat) * (a (i + 1) - a i))
  (x * (1024 + s.calInForce 3 gf) / 10240).toNat

/-- The rise of estimated input current in µA at a full activity of `ma` mA at 6 V: the converters give 95 %. -/
def State.inputRise (s : State) (ma : Nat) : Nat := ma * 1000 * 6000 * 100 / (95 * s.get Reg.PWR_INPUT_INPUT_MV)

/-- A halted tread started at PC 0 (04 R129). -/
def startTread (t : Nat) (s : State) : State :=
  let y := s.tread t
  if y.st == .halt then s.setTread t { y with st := .run, pc := 0 } else s

/-- A flight that holds admission: treads that waited for it start (R55). -/
def admitFlight (gf : Nat) (s : State) : State :=
  let s := { s with power := { s.power with admitted := s.power.admitted ++ [gf] } }
  if s.power.starting.contains gf then
    let s := s.setPower { s.power with starting := s.power.starting.filter (· != gf) }
    (s.flightTreads gf).foldl (fun s t => startTread t s) s
  else s

/-- One step of a token: a flight that waits in OFF enters QUIET, which the activity model counts as no rise (log 94), one
without admission is admitted to RUN or QUIET, and any other has its raise made; `left` is the current in µA that the token
may still add. -/
def tokenStep (left : Nat) (held : Bool) (gf : Nat) (s : State) : Nat × Bool × State :=
  match tget 0 s.power.waking gf with
  | code + 1 =>
    (left, held, s.setPower { s.power with waking := tset 0 s.power.waking gf 0 }
      |> set (Reg.DOMAIN_STATE_STATE gf) 1 |> set (Reg.DOMAIN_STATE_VCODE gf) code)
  | 0 =>
  match s.flightStage? gf with
  | none => (left, held, s)
  | some n =>
    let st := s.get (Reg.DOMAIN_STATE_STATE gf)
    let want := s.wantCode n gf
    if 2 ≤ st then (left, held, s)
    else if !s.power.admitted.contains gf then
      if s.on Reg.PWR_STATUS_ADMIT_HELD then (left, held, s)
      else
        let need := s.inputRise (s.activityAt gf (s.vcode gf))
        if need ≤ left then (left - need, held, admitFlight gf s)
        else (left, true, s)
    else if s.vcode gf < want then
      let need := s.inputRise (s.activityAt gf want - s.activityAt gf (s.vcode gf))
      if need ≤ left then (left - need, held, s.set (Reg.DOMAIN_STATE_VCODE gf) want) else (left, true, s)
    else (left, held, s)

def tokenAll : List Nat → Nat → Bool → State → Bool × State
  | [], _, held, s => (held, s)
  | gf :: r, left, held, s =>
    let (left, held, s) := tokenStep left held gf s
    tokenAll r left held s

/-- The slew limit (R75). -/
def State.slew (s : State) : Nat := max 2 (min 40 (s.get Reg.LSL_CTRL_SLEW))

/-- Whether a flight has nothing to do: no work in progress, no descriptor queued and no tread to be started. -/
def State.flightIdle (s : State) (gf : Nat) : Bool :=
  !s.flightWorks gf && !s.power.starting.contains gf && (s.flight gf).queue.isEmpty

end Sys2Proof.Machine
end

