-- ==== Sys2Proof/Machine/Power.lean ====
section
/-!
DEFINITION. Commands of the power manager: budget, measurements, converters, input voltage, limiter, retention,
temperature (02 R51 to R80).
-/
namespace Sys2Proof.Machine
open State

/-- PWR_BUDGET_WRITE: the host's budget request; EFFECTIVE_W is formed anew, and the setting is journaled (R57, R71, 13
R480). -/
def execPwrBudgetWrite (now : W64) (value : W32) (s : State) : Result :=
  perform true (whenUp fun s =>
    s |> at_ now |> set Reg.PWR_BUDGET_HOST_W value.toNat |> formBudget |> journalSettings) s

/-- Whether the management endpoint answers: from 50 ms after PKG_RST_N was released (16 R539); the newel timer starts there. -/
def State.pldmUp (s : State) : Bool := s.pins.pwrGood && s.pins.pkgRstN && decide (50_000_000 ≤ s.time)

/-- POWER_LIMIT_EFFECTER: the board's limit through PLDM (R57, R72, 16 R540). BOARD_W shows the request as bounded (DESIGN
CHOICE, log 92). -/
def execPowerLimitEffecter (now : W64) (w : Nat) (s : State) : Result :=
  perform true (fun s =>
    let s := at_ now s
    if s.pldmUp then s |> set Reg.PWR_LIMITS_BOARD_W (boundW w) |> formBudget else s) s

/-- The injected offset of the input voltage, and a measurement with it (15 R514, point 0x0D). -/
def State.inputMv (s : State) (mv : Nat) : Nat :=
  match s.det.armed with
  | some i => if i.point = 0x0D then ((mv : Int) + toSigned 32 i.value).toNat else mv
  | none => mv

/-- The ACTIVE partitions. -/
def State.activeParts (s : State) : List Nat := allParts.filter fun p => s.partState p == partActive

/-- A hit of an injection that acts on every ACTIVE partition (15 R517). -/
def hitAll (point : Nat) (s : State) : State :=
  match s.det.armed with
  | some i => if i.point = point then hitInjection (s.get Reg.INJ_LAST_SEQ_SEQ) s.activeParts s else s
  | none => s

/-- The measured input power in watts from each converter's reading in mW, with its trim (15 R522). -/
def State.inputW (s : State) (mw : List Nat) : Nat :=
  (((mw.zipIdx.map fun x => (x.1 : Int) * (1024 + s.calInForce 4 x.2)) : List Int).sum / 1024000).toNat

/-- Every stage's rate scaled after a measurement of `w` against a budget of `e`; near the end of the 100 µs bound every rate
goes to its floor (R58, R59). -/
def cutRates (w e : Nat) (s : State) : State :=
  let s := scaleRates (cubeRoot e w 10 0) s
  let s := { s with power := { s.power with cutAt := some s.time } }
  match s.power.fallAt with
  | some t => if t + 90000 < s.time && s.time ≤ t + 100000 then floorRates s else s
  | none => s

/-- What a measurement above the budget does: the rates are scaled as far as they stand above their floors, and admission is
held when every variable domain stood at V_MIN (R58, R59, R61). -/
def overBudget (w e : Nat) (s : State) : State :=
  if s.variable.isEmpty then s
  else
    let floor := s.atFloor
    let s := if s.canScale then cutRates w e s else s
    if !floor || s.power.powerHold then s
    else
      let s := { s with power := { s.power with powerHold := true } }
      s |> holdAdmission |> raise0 Ev.powerAdmitHeld [w, e]

/-- POWER_MEASUREMENT: the mean of the last 10 µs, as each converter's power in mW, and the input voltage (R58, R61, R62,
R74). `POWER_ADMIT_RESUMED` tells the end of the power hold, also while an input hold goes on (DESIGN CHOICE, log 92). -/
def execPowerMeasurement (now : W64) (mw : List Nat) (mv : Nat) (s : State) : Result :=
  perform (decide (mw.length ≤ 13)) (fun s =>
    let s := at_ now s
    let w := s.inputW mw
    let s := s |> set Reg.PWR_INPUT_INPUT_W w |> set Reg.PWR_INPUT_INPUT_MV (s.inputMv mv) |> hitAll 0x0D
    let e := s.get Reg.PWR_LIMITS_EFFECTIVE_W
    let s := { s with power := { s.power with winCount := s.power.winCount + 1,
                                              winGood := s.power.winGood && decide (w * 10 < 9 * e) } }
    if e < w then overBudget w e s
    else
      let s := { s with power := { s.power with fallAt := none } }
      if s.power.powerHold && decide (w * 100 ≤ 97 * e) then
        { s with power := { s.power with powerHold := false } } |> showHold |> raise0 Ev.powerAdmitResumed [w, e]
      else s) s

/-- BUDGET_WINDOW_CLOSE: after ten measurements below 90 % each stage below its nominal rate gains 2 % (R62). -/
def execBudgetWindowClose (now : W64) (s : State) : Result :=
  perform true (fun s =>
    let s := at_ now s
    let good := s.power.winGood && s.power.winCount == 10
    let s := { s with power := { s.power with winGood := true, winCount := 0 } }
    if !good then s
    else s.slots.foldl (fun s n =>
      let (a, d) := s.stageRate n
      let nom := ((s.vdom? n).map VDom.nominal).getD 0
      if nom * d ≤ a then s
      else if nom * d * 100 ≤ a * 102 then setStageRate n nom 1 s else setStageRate n (a * 102) (d * 100) s) s) s

/-- CONVERTER_FAILED: the converter is disabled and counted out; the cap of R51 applies. -/
def execConverterFailed (now : W64) (k : Nat) (s : State) : Result :=
  perform (decide (k < 13)) (fun s =>
    let s := at_ now s
    if s.power.failed.contains k then s
    else
      let inj := s.injected 0x0F k
      let seq := s.seq
      let s := { s with power := { s.power with failed := s.power.failed ++ [k],
                                                injFailed := if inj then some k else s.power.injFailed } }
      let s := s |> set Reg.PWR_STATUS_CONV_WORKING (13 - s.power.failed.length) |> raise0 Ev.converterFailed [k]
        |> formBudget
      let s := if inj then hitInjection seq s.activeParts s else s
      if 13 ≤ s.power.failed.length then packageFault s else s) s

/-- INPUT_LOW: 36 V to below 40 V holds admission (R52). -/
def execInputLow (mv : Nat) (s : State) : Result :=
  perform true (fun s =>
    let m := s.inputMv mv
    if m < 36000 || 40000 ≤ m || s.power.inputHold then s
    else
      let s := s |> holdAdmission |> set Reg.PWR_STATUS_INPUT_LOW 1 |> raise0 Ev.inputLow [m]
      { s with power := { s.power with inputHold := true } }) s

/-- INPUT_RESTORED: at 40 V or above the hold ends (R52). -/
def execInputRestored (mv : Nat) (s : State) : Result :=
  perform true (fun s =>
    let m := s.inputMv mv
    if m < 40000 || 60000 < m then s
    else { s with power := { s.power with inputHold := false } } |> set Reg.PWR_STATUS_INPUT_LOW 0 |> showHold) s

/-- INPUT_OUT_OF_RANGE: below 36 V or above 60 V (R52). The event list has no code for this cause, so FAULT is entered without
a record of it (DESIGN CHOICE, log 91). -/
def execInputOutOfRange (mv : Nat) (s : State) : Result :=
  perform true (fun s =>
    let m := s.inputMv mv
    if 36000 ≤ m && m ≤ 60000 then s
    else packageFault { s with power := { s.power with convertersOn := false } }) s

/-- ADMISSION_TOKEN: a token of 100 ns; it serves the flights in the order given, within SLEW (R66, R67). -/
def execAdmissionToken (gfs : List Nat) (s : State) : Result :=
  perform (gfs.all gfOk) (fun s =>
    if s.get Reg.PWR_INPUT_INPUT_MV = 0 then s
    else
      let (held, s) := tokenAll gfs (s.slew * 100000) false s
      s.set Reg.PWR_STATUS_LSL_ACTIVE (b2n held)) s

/-- RETAIN_ENTRY: an idle flight enters RETAIN and loses admission (R55, R56, R66). -/
def execRetainEntry (gf : Nat) (s : State) : Result :=
  perform (gfOk gf) (fun s =>
    let us := (((s.flightStage? gf).bind s.vdom?).map VDom.retainUs).getD 0
    if us = 0 || !s.flightIdle gf || s.get (Reg.DOMAIN_STATE_STATE gf) != 1 then s
    else s |> set (Reg.DOMAIN_STATE_STATE gf) 2 |> dropAdmission gf) s

/-- RETAIN_EXIT: the 20 µs return is complete; the flight waits in QUIET for a token (R55). -/
def execRetainExit (gf : Nat) (s : State) : Result :=
  perform (gfOk gf) (fun s =>
    if s.get (Reg.DOMAIN_STATE_STATE gf) = 2 then s.set (Reg.DOMAIN_STATE_STATE gf) 1 else s) s

/-! Temperature (R69, R77, R79, 15 R523). -/

/-- The warn threshold in 0.125 °C. -/
def State.warnAt (s : State) : Int := (max 80 (min 100 (s.get Reg.THERM_CTRL_WARN_C)) * 8 : Nat)

/-- A temperature as a register shows it: whole °C, 0 below 0. -/
def degrees (t : Int) : Nat := (min 255 (max 0 (t / 8))).toNat

def State.flightEvStamp (s : State) (gf : Nat) : Stamp :=
  match s.flightPart gf with
  | some p => partStamp p
  | none => noStamp

/-- The warn response of one domain. -/
def warnFlight (gf : Nat) (s : State) : State :=
  let s := if s.power.warn.contains gf then s
    else { s with power := { s.power with warn := s.power.warn ++ [gf] } }
      |> bump Reg.PWR_EVENT_COUNTS_WARN_ENTRIES 1
      |> raise Ev.thermWarn (s.flightEvStamp gf) [gf, degrees (s.temp gf)]
  match s.flightStage? gf with
  | none => s
  | some n =>
    { s with power := { s.power with caps := tset 0 s.power.caps gf (max (s.vMin n) (s.vcode gf - s.stepCodes) + 1) } }

/-- The responses of one domain to its sample. -/
def sampleFlight (gf : Nat) (s : State) : State :=
  let t := s.temp gf
  let top := max t (s.rawTemp gf)
  let s := s |> set (Reg.DOMAIN_STATE_TEMP gf) (degrees t) |> set (Reg.DOMAIN_STATE_HOT gf) (b2n (s.warnAt ≤ t))
  let s := if s.warnAt ≤ t then warnFlight gf s
    else if s.power.warn.contains gf || s.power.hot.contains gf then
      { s with power := { s.power with warn := s.power.warn.filter (· != gf),
                                       hot := if 840 ≤ top then s.power.hot else s.power.hot.filter (· != gf),
                                       caps := tset 0 s.power.caps gf 0 } }
    else s
  if 840 ≤ top && !s.power.hot.contains gf then
    { s with power := { s.power with hot := s.power.hot ++ [gf] } }
      |> raise Ev.thermHot (s.flightEvStamp gf) [gf, degrees top]
  else s

/-- The thermal trip: FAULT, every domain OFF, both fault pins low (R69, 16 R548). -/
def thermalTrip (gf : Nat) (s : State) : State :=
  let top := max (s.temp gf) (s.rawTemp gf)
  let s := allFlights.foldl (fun s g => flightOff g s) s
  { s with pins := { s.pins with thermtripN := false } }
    |> packageFault |> put (.pin .thermtripN false) |> raise Ev.thermTrip (s.flightEvStamp gf) [gf, degrees top]

/-- The raw readings taken in, in 0.125 °C, with an injected offset (15 R514, point 0x0C). -/
def takeReadings (readings : List (Nat × Int)) (s : State) : State :=
  let off (gf : Nat) : Int := (match s.det.armed with
    | some i => if i.point = 0x0C && i.target = gf then 8 * toSigned 32 i.value else 0
    | none => 0)
  let raw := readings.foldl (fun m (x : Nat × Int) => tset 0 m x.1 (x.2 + off x.1)) s.power.raw
  { s with power := { s.power with raw := raw } }

/-- Every flight's sample taken in: temperatures shown, the warn and hot responses, and the status bits (R69, R73, R79). -/
def sampleFlights (s : State) : State :=
  let s := allFlights.foldl (fun s g => sampleFlight g s) s
  s |> set Reg.PWR_STATUS_THERM_WARN (b2n (!s.power.warn.isEmpty))
    |> set Reg.PWR_STATUS_THERM_HOT (b2n (allFlights.any fun g => decide (840 ≤ max (s.temp g) (s.rawTemp g))))

/-- THERMAL_SAMPLE: every flight sensor is sampled; flights not listed read as at the last sample. Of several hottest flights
the lowest number is shown, and of several at the trip threshold the lowest number is told, once (DESIGN CHOICE, log 92). -/
def execThermalSample (now : W64) (readings : List (Nat × Int)) (s : State) : Result :=
  perform (readings.all fun x => gfOk x.1) (fun s =>
    let s := s |> at_ now |> takeReadings readings |> hitAll 0x0C
    let hottest := allFlights.foldl (fun b g => if s.temp b < s.temp g then g else b) 0
    let s := s |> set Reg.THERM_STATUS_HOTTEST_GF hottest |> set Reg.THERM_STATUS_HOTTEST_C (degrees (s.temp hottest))
      |> sampleFlights
    match allFlights.find? fun g => decide (920 ≤ max (s.temp g) (s.rawTemp g)) with
    | some g => if s.pins.thermtripN then thermalTrip g s else s
    | none => s.slots.foldl (fun s n => lowerCodes n s) s) s

end Sys2Proof.Machine
end

