-- ==== Sys2Proof/Machine/Schedule.lean ====
section
/-!
DEFINITION. The schedule engine in binary64 (08 R310 to R312) and the parameters of update code (R300).
-/
namespace Sys2Proof.Machine

/-- IEEE 754-2019 binary64. -/
def fp64 : Fmt := ⟨64, 52, 1023, 0x7FEF_FFFF_FFFF_FFFF, some 0x7FF0_0000_0000_0000, some 0x7FF8_0000_0000_0000⟩

/-- A finite magnitude rounded to binary64; the schedule's loader checks keep its values finite. -/
def to64 (s : Bool) (m : Nat) (e : Int) : Num := decodeF fp64 (withSign fp64 s (roundMag fp64 false .rne m e).1)

/-- A whole number, exact. -/
def whole (n : Nat) : Num := .fin false n 0

def add64 (x y : Num) : Num :=
  match x, y with
  | .fin s1 m1 e1, .fin s2 m2 e2 => let (s, m, e) := addFin s1 m1 e1 s2 m2 e2; to64 s m e
  | .inf a, .inf b => if a = b then .inf a else .nan false
  | .inf a, .fin _ _ _ | .fin _ _ _, .inf a => .inf a
  | _, _ => .nan false
def sub64 (x y : Num) : Num := add64 x (negN y)
def mul64 (x y : Num) : Num :=
  match prodN x y with
  | .fin s m e => to64 s m e
  | n => n
def div64 (x y : Num) : Num :=
  match x, y with
  | .fin s1 m1 e1, .fin s2 m2 e2 =>
    if m2 = 0 then (if m1 = 0 then .nan false else .inf (s1 != s2))
    else
      let k := 120 + Nat.log2 m2
      let n := m1 * 2 ^ k
      to64 (s1 != s2) (2 * (n / m2) + b2n (decide (n % m2 ≠ 0))) (e1 - e2 - k - 1)
  | .inf a, .fin s _ _ => .inf (a != s)
  | .fin s _ _, .inf b => .fin (s != b) 0 0
  | _, _ => .nan false
def sqrt64 (x : Num) : Num :=
  match x with
  | .fin s m e =>
    if m = 0 then x
    else if s then .nan false
    else
      let (m, e) := if e % 2 = 0 then (m, e) else (2 * m, e - 1)
      let n := m * 2 ^ 240
      let r := Nat.sqrt n
      to64 false (2 * r + b2n (decide (r * r ≠ n))) (e / 2 - 121)
  | .inf s => if s then .nan false else x
  | n => n
/-- An exact power correctly rounded as one operation (R311). -/
def pow64 (x : Num) (k : Nat) : Num :=
  match x with
  | .fin s m e => to64 (s && k % 2 == 1) (m ^ k) (e * k)
  | n => if k = 0 then whole 1 else n
def max64 (x y : Num) : Num := if ltN x y then y else x
def min64 (x y : Num) : Num := if ltN y x then y else x

/-! cos(πx), correctly rounded, from a fixed-point value of 320 fraction bits (log 50). -/

def fixOne : Nat := 2 ^ 320
/-- arctan(1/n) in fixed point: `k` terms from the `i`th. -/
def arctanTerms (n : Nat) : Nat → Nat → Nat → Int
  | 0, _, _ => 0
  | k + 1, i, p => (if i % 2 = 0 then ((p / (2 * i + 1) : Nat) : Int) else -((p / (2 * i + 1) : Nat) : Int))
      + arctanTerms n k (i + 1) (p / (n * n))
def fixPi : Int := 4 * (4 * arctanTerms 5 160 0 (fixOne / 5) - arctanTerms 239 48 0 (fixOne / 239))
/-- The cosine series at `y`: `k` terms from the `i`th, `t` the magnitude of the present one. -/
def cosTerms (y2 : Int) : Nat → Nat → Int → Int
  | 0, _, _ => 0
  | k + 1, i, t => t - cosTerms y2 k (i + 1) (t * y2 / (fixOne : Int) / (((2 * i + 1) * (2 * i + 2) : Nat) : Int))
/-- cos_pi of R311 for `0 ≤ x < 1`. -/
def cosPi64 (x : Num) : Num :=
  match x with
  | .fin _ m e =>
    if m = 0 then whole 1
    else
      let fx : Int := if 0 ≤ e then ((m * 2 ^ e.toNat * fixOne : Nat) : Int) else ((m * fixOne / 2 ^ (-e).toNat : Nat) : Int)
      if 2 * fx = fixOne then .fin false 0 0
      else
        let y := fx * fixPi / fixOne
        let c := cosTerms (y * y / fixOne) 80 0 fixOne
        to64 (decide (c < 0)) c.natAbs (-320)
  | n => n

/-- An FP32 pattern as a binary64 value, and a value rounded to FP32. -/
def from32 (a : Nat) : Num := num32 a
def round32 (x : Num) : Nat := (convN fp32 .rne x).v

/-! The schedule (R311). -/

/-- Cycles passed: what is left of `t`, the cycle and its length. -/
def cycleAt (cycles mult : Nat) : Nat → Nat → Nat → Nat → Nat × Nat × Nat
  | 0, t, k, len => (t, k, len)
  | n + 1, t, k, len =>
    if len ≤ t && (cycles == 0 || decide (k + 1 < cycles)) then cycleAt cycles mult n (t - len) (k + 1) (min (len * mult) (2 ^ 40))
    else (t, k, len)

/-- The learning rate of update `u` and its cycle. -/
def Sched.lr (d : Sched) (u : Nat) : Num × Nat :=
  let init := from32 d.lrInit
  let top := from32 d.lrPeak
  let lo := from32 d.lrMin
  if u < d.warmup then (add64 init (div64 (mul64 (sub64 top init) (whole u)) (whole d.warmup)), 0)
  else
    let (t, k, len) := cycleAt d.cycles d.cycleMult (u - d.warmup + 1) (u - d.warmup) 0 d.decayLen
    let peak := mul64 top (pow64 (from32 d.peakDecay) k)
    let span := sub64 peak lo
    let lr : Num :=
      if d.decay = 0 then peak
      else if len ≤ t then lo
      else if 0 < k && t < d.restartWarmup then add64 lo (div64 (mul64 span (whole t)) (whole d.restartWarmup))
      else
        let x := div64 (whole t) (whole len)
        match d.decay with
        | 1 => add64 lo (mul64 span (sub64 (whole 1) x))
        | 2 => add64 lo (div64 (mul64 span (add64 (whole 1) (cosPi64 x))) (whole 2))
        | 3 => max64 lo (div64 peak (sqrt64 (add64 (whole 1) (div64 (whole t) (whole d.decayLen)))))
        | _ => max64 lo (mul64 peak (pow64 (from32 d.gamma) t))
    (lr, k)

/-- Weight decay and momentum (R311). -/
def Sched.wd (d : Sched) (lr : Num) : Num :=
  let b := from32 d.wdBase
  if d.wdFollow && !isZero d.lrPeak then mul64 b (div64 lr (from32 d.lrPeak)) else b
def Sched.mom (d : Sched) (lr : Num) : Num :=
  let b := from32 d.momBase
  if d.momMode = 0 then b
  else
    let lo := from32 d.lrMin
    let f := if feq d.lrPeak d.lrMin then whole 1
      else min64 (whole 1) (max64 (whole 0) (div64 (sub64 lr lo) (sub64 (from32 d.lrPeak) lo)))
    sub64 b (mul64 (sub64 b (from32 d.momLo)) f)

/-- The parameters p0 to p15 of update count `u` with latched scale `sc` (R300). -/
def updParams (d : Sched) (x : Upd) (u sc : Nat) : List Nat :=
  let lr := (d.lr u).1
  let mom := d.mom lr
  let rest (y : Num) : Nat := round32 (sub64 (whole 1) (pow64 y (u + 1)))
  [(fmul (round32 lr) sc).v, round32 (d.wd lr), round32 mom, x.beta2, rest mom, rest (from32 x.beta2), fromNat u, x.gscale]
    ++ fit 0 8 x.consts

/-! Update code on 1,024 lanes (R301). -/

/-- Lanes by index. -/
def lanes2 (f : Nat → Nat → Nat) (a b : List Nat) : List Nat := List.zipWith f a b

/-- Each 32-lane block replaced by one value. -/
def perBlock (f : List Nat → Nat) : Nat → List Nat → List Nat
  | 0, _ => []
  | n + 1, l => List.replicate 32 (f (l.take 32)) ++ perBlock f n (l.drop 32)

/-- The largest magnitude of a block, the canonical NaN if any lane is a NaN. -/
def blockMax (l : List Nat) : Nat := if l.any isNaN then 0x7FC00000 else l.foldl (fun m a => max m (a % 2 ^ 31)) 0

/-- Element (i, j) of a 32 × 32 square. -/
def sqAt (v : List Nat) (i j : Nat) : Nat := lget 0 v (32 * i + j)
def sqOf (f : Nat → Nat → Nat) : List Nat := (upFrom 0 32).flatMap fun i => (upFrom 0 32).map fun j => f i j
def matMul (a b : List Nat) : List Nat :=
  let cols := (upFrom 0 32).map fun j => (upFrom 0 32).map fun k => sqAt b k j
  (upFrom 0 32).flatMap fun i =>
    let row := (a.drop (32 * i)).take 32
    cols.map fun c => treeSum (lanes2 (fun x y => (fmul x y).v) row c)

/-- The result of FN on whole registers; `va`, `vb`, `vc` and the splatted parameter. -/
def updResult (fn : Nat) (va vb vc : List Nat) (param : Nat) : List Nat :=
  match fn with
  | 0x00 => lanes2 (fun a b => (fadd a b).v) va vb
  | 0x01 => lanes2 (fun a b => (fsub a b).v) va vb
  | 0x02 => lanes2 (fun a b => (fmul a b).v) va vb
  | 0x03 => List.zipWith (fun f c => f c) (List.zipWith (fun a b c => (ffma a b c).v) va vb) vc
  | 0x04 => lanes2 (fun a b => (fmin a b).v) va vb
  | 0x05 => lanes2 (fun a b => (fmax a b).v) va vb
  | 0x06 => va.map fun a => if isNaN a then 0x7FC00000 else a % 2 ^ 31
  | 0x07 => va.map fun a => if isNaN a then 0x7FC00000 else (a + 2 ^ 31) % 2 ^ 32
  | 0x08 => va.map fun a => (frcp a).v
  | 0x09 => va.map fun a => (frsqrt a).v
  | 0x0A => lanes2 (fun a b => if flt a b then 0xFFFFFFFF else 0) va vb
  | 0x0B => lanes2 (fun a b => if feq a b then 0xFFFFFFFF else 0) va vb
  | 0x0C => List.zipWith (fun f c => f c) (List.zipWith (fun a b c => if c ≠ 0 then a else b) va vb) vc
  | 0x0D => perBlock treeSum 32 va
  | 0x0E => List.replicate 1024 param
  | 0x11 => lanes2 (fun a b => (a + b) % 2 ^ 32) va vb
  | 0x12 => lanes2 (fun a b => a &&& b) va vb
  | 0x13 => lanes2 (fun a b => a ||| b) va vb
  | 0x14 => lanes2 (fun a b => a ^^^ b) va vb
  | 0x16 => perBlock blockMax 32 va
  | 0x17 => va.map fun a => (fsqrt a).v
  | 0x18 => lanes2 (fun a b => (fdiv a b).v) va vb
  | 0x19 => matMul va vb
  | _ => sqOf fun i j => sqAt va j i

/-- One word of update code run on the eight registers; NOP and HALT change nothing. -/
def updWord (params : List Nat) (w : Nat) (v : List (List Nat)) : List (List Nat) :=
  if bits w 26 6 ≠ 0x20 then v
  else
    let r (i : Nat) : List Nat := lget [] v i
    lset v (bits w 23 3)
      (updResult (bits w 0 6) (r (bits w 20 3)) (r (bits w 17 3)) (r (bits w 14 3)) (lget 0 params (bits w 8 5)))

/-- A program run to its HALT. -/
def runUpd (params : List Nat) (ws : List W32) (v : List (List Nat)) : List (List Nat) :=
  ws.foldl (fun v w => updWord params w.toNat v) v

end Sys2Proof.Machine
end

