-- ==== Sys2Proof/Machine/FenceOps.lean ====
section
/-!
DEFINITION. Fences and what they bring about: code loaded into treads, row shifts, role moves, the fence map
(04 R146, R147, R160, 03 R116 to R119, 13 R480, 15 R515).
-/
namespace Sys2Proof.Machine
open State

/-! Treads loaded with code (03 R95, R116, 04 R129). -/

/-- A tread that takes a logical position: its code image, everything else zero, in HALT. -/
def Rigging.freshTread (r : Rigging) (role odd row col : Nat) : Tread :=
  let ws := match r.imageAt role odd row col with
    | some i => lget [] r.code i
    | none => []
  { Tread.init with st := .halt, imem := ws.zipIdx.foldl (fun m (w, i) => tset 0 m i w) [] }

/-- One physical tread of a flight that carries `role`: fenced, at its logical position, or an idle spare. -/
def setupTread (r : Rigging) (role odd gf row c : Nat) (s : State) : State :=
  let t := treadId gf row c
  if s.treadFenced t then s.setTread t { Tread.init with st := .fenced }
  else match s.logCol? gf row c with
    | some l => s.setTread t (r.freshTread role odd row l)
    | none => s.setTread t Tread.init

/-- Every tread of a flight that carries `role`. -/
def setupFlight (r : Rigging) (role odd gf : Nat) (s : State) : State :=
  (upFrom 0 16).foldl (fun s row => (upFrom 0 17).foldl (fun s c => setupTread r role odd gf row c s) s) s

/-! The fence map. -/

/-- PKG_CAPACITY formed from the fence map (01 R36). -/
def showCapacity (s : State) : State :=
  let rows := s.fence.rows.filter fun x => bit x.2 7 && !s.flightFenced (x.1 / 16)
  s |> set Reg.PKG_CAPACITY_ACTIVE_FLIGHTS (1184 - (s.fence.flights.filter fun x => x.2 != 0).length)
    |> set Reg.PKG_CAPACITY_SPARED_ROWS rows.length

/-- The FENCE_MAP record (13 R480): the number of entries, then four bytes for every fenced tread, the first of each row before
the others, then for every fenced flight with bit 31 set (log 44). Fences of injected faults are not kept (15 R516). -/
def journalFences (s : State) : State :=
  let t := (s.fence.treads.filter fun x => x.2 == 1) ++ s.fence.treads.filter fun x => x.2 == 3
  let f := s.fence.flights.filter fun x => x.2 == 1
  journalWrite 2 0 (leBytes 4 (t.length + f.length) ++ t.flatMap (fun x => leBytes 4 x.1)
    ++ f.flatMap fun x => leBytes 4 (x.1 + 2 ^ 31)) s

/-- The partition whose job runs on a flight: the rewind orders and re-rigs of a fence are its. -/
def State.fencePart (s : State) (gf : Nat) : Option (Nat × Nat) := (s.flightRole? gf).map fun (p, role, _) => (p, role)

/-- Whether a queued re-rig does what another asks: the same row, or a move of the same role. -/
def Rerig.covers : Rerig → Rerig → Bool
  | .role a _, .role b _ => a == b
  | x, y => x == y

/-- A re-rig put at the end of its partition's queue (03 R117). One that waits there for the second flight of a pair to be fenced
moves both. -/
def queueRerig (p : Nat) (x : Rerig) (s : State) : State :=
  let r := s.rig p
  let waiting := if r.rerigStart = 0 then r.rerigs else r.rerigs.drop 1
  if waiting.any fun y => y.covers x then s else s.setRig p { r with rerigs := r.rerigs ++ [x] }

/-- A row's remap set to its spare column, unless the flight is fenced (04 R146, R160). -/
def shiftRow (gf row col : Nat) (s : State) : State :=
  if s.flightFenced gf then s
  else { s with fence := { s.fence with rows := tset 0x1F s.fence.rows (gf * 16 + row) (0x80 + col) } }

/-- ALT_FREE and ROLES_MOVED (03 R122). -/
def showRoles (p : Nat) (s : State) : State :=
  let r := s.imageOf p
  let placed := s.placedFlights p
  let free := (r.standby.filter fun g => !s.flightFenced g && !placed.contains g).length
  let moved := (r.roles.filter fun role => tget 0x7FF (s.rig p).place role != tget 0x7FF r.home role).length
  s |> set (Reg.RIG_STATUS_ALT_FREE p) (min 255 free) |> set (Reg.RIG_STATUS_ROLES_MOVED p) (min 255 moved)

/-- What follows a fence: the partition that works there rewinds; without one the map is journaled at once. -/
def afterFence (gf : Nat) (s : State) : State :=
  match s.fencePart gf with
  | some (p, _) =>
    let st := (s.svc p).state
    let s := findCause p actRewind Why.fence s
    if st == .idle || st == .joining || st == .treeError then journalFences s else s
  | none => journalFences (showCapacity s)

/-- An armed injection whose target is fenced ends (15 R515). -/
def endInjectionAt (gf : Nat) (tread : Option Nat) (s : State) : State :=
  match s.det.armed with
  | some i =>
    let hit := if i.point ≤ 2 then
        (match tread with
          | some t => i.target == t
          | none => treadGf i.target == gf)
      else tread.isNone && (i.point == 3 || i.point == 4 || i.point == 0xB || i.point == 0xC) && i.target == gf
    if hit then endInjection s else s
  | none => s

/-- A flight fenced: its treads stop, its role moves, and a STANDBY flight is no longer free (04 R146, 03 R122). -/
def fenceFlight (gf : Nat) (inj : Bool) (s : State) : State :=
  if s.flightFenced gf then s
  else
    let s := { s with fence := { s.fence with flights := tset 0 s.fence.flights gf (if inj then 2 else 1) } }
    let s := flightOff gf s |> endInjectionAt gf none
    let s := match s.fencePart gf with
      | some (p, role) => queueRerig p (.role role gf) s
      | none => s
    let s := match s.flightPart gf with
      | some p => showRoles p s
      | none => s
    afterFence gf s

/-- Whether a row of a flight has a fenced tread. -/
def State.rowFenced (s : State) (gf row : Nat) : Bool := (upFrom 0 17).any fun c => s.treadFenced (treadId gf row c)

/-- A tread fenced: a row shift, an unchanged row, or a flight fence (04 R146). -/
def fenceTread (t : Nat) (inj : Bool) (s : State) : State :=
  if s.treadFenced t then s
  else
    let gf := treadGf t
    let row := treadRow t
    let col := treadCol t
    let prior := s.rowFenced gf row
    let s := { s with fence := { s.fence with treads := tset 0 s.fence.treads t (1 + b2n inj + 2 * b2n prior) } }
      |> setTread t { Tread.init with st := .fenced } |> endInjectionAt gf (some t)
    if prior then (if s.flightFenced gf then afterFence gf s else fenceFlight gf inj s)
    else if col = 16 then
      { s with fence := { s.fence with rows := tset 0x1F s.fence.rows (gf * 16 + row) 0x5F } } |> afterFence gf
    else match s.fencePart gf with
      | some (p, _) => queueRerig p (.row gf row col) s |> afterFence gf
      | none => shiftRow gf row col s |> afterFence gf

/-! Role moves (03 R116, R118, R119). -/

/-- The STANDBY flights that a partition's roles already stand on, but for one role. -/
def State.takenBy (s : State) (p role : Nat) : List Nat :=
  ((s.imageOf p).roles.filter (· != role)).flatMap fun r => s.roleFlights p r

/-- Limits forgotten of a partition's ports that source no route: those at the logical positions or on the treads that `f`
names (04 R140). -/
def dropPorts (p : Nat) (f : Bool → Nat → Bool) (s : State) : State :=
  { s with chans := s.chans.filter fun x =>
      let h := x.1 / 2 ^ 44
      !((h == 1 + p && f false (x.1 % 2 ^ 44 / 4)) || (h == 9 + p && f true (x.1 % 2 ^ 44 / 4))) }

/-- Channels of a role restored to the image's CREDITS after its move (04 R140). -/
def restoreCredits (p role : Nat) (s : State) : State :=
  let r := s.imageOf p
  let s := dropPorts p (fun spare x => !spare && x / 512 == role) s
  r.routes.zipIdx.foldl (fun s (e, i) =>
    if e.srcRole = role then
      let k := (Chan.route p i).key
      let c := s.chan k
      s.setChan k { c with limit := e.credits, credit := c.credit + ((e.credits : Int) - (c.limit : Int)) }
    else s) s

/-- A role moved onto flight `g` of its image's STANDBY flights. -/
def moveRole (p role g : Nat) (s : State) : State :=
  let r := s.imageOf p
  let old := s.roleFlights p role
  let slot := ((r.gangRole? role).map Gang.slot).getD 0
  let s := old.foldl (fun s x => flightOff x s) s
  let s := s.setRig p { s.rig p with place := tset 0x7FF (s.rig p).place role g }
  let s := (r.at role g).zipIdx.foldl (fun s (x, odd) => bringUp slot x s |> setupFlight r role odd x) s
  s |> restoreCredits p role |> showRoles p

/-- A role left without a flight (03 R119). -/
def exhaustRole (p role : Nat) (s : State) : State :=
  let s := (s.roleFlights p role).foldl (fun s x => flightOff x s) s
  let s := s.setRig p { s.rig p with place := tset 0x7FF (s.rig p).place role 0x7FF }
  s |> showRoles p |> raise Ev.alternatesExhausted (partStamp p) [role] |> findCause p actHalt Why.exhausted

end Sys2Proof.Machine
end

