-- ==== Sys2Proof/Machine/RigParse.lean ====
section
/-!
DEFINITION. How an image's bytes are read: header, section table, sections, stage programs (03 R81 to R84, R93, 07 R247 to
R249).
-/
namespace Sys2Proof.Machine

/-- The number at bytes `[o, o + n)`; bytes beyond the end read 0. -/
def leAt (l : List Byte) (o n : Nat) : Nat := ofLe ((l.drop o).take n)

/-- Bytes as 32-bit words. -/
def wordsOf : Nat → List Byte → List W32
  | 0, _ => []
  | n + 1, l => BitVec.ofNat 32 (ofLe (l.take 4)) :: wordsOf n (l.drop 4)

/-- A section-table entry (R82). -/
structure TabEnt where
  type : Nat
  esize : Nat
  off : Nat
  size : Nat
  count : Nat
  deriving DecidableEq, Repr, Inhabited

def tabEntAt (l : List Byte) (i : Nat) : TabEnt :=
  let o := 0x100 + 16 * i
  ⟨leAt l o 2, leAt l (o + 2) 2, leAt l (o + 4) 4, leAt l (o + 8) 4, leAt l (o + 0xC) 4⟩

/-- SECTION_COUNT, and the section table. -/
def sectionCount (l : List Byte) : Nat := leAt l 0x0C 2
def sectionTable (l : List Byte) : List TabEnt := (upFrom 0 (sectionCount l)).map (tabEntAt l)

/-- The entry size that R84 fixes for a type, and whether the section is required. -/
def sectionKind (type : Nat) : Option (Nat × Bool) :=
  match type with
  | 0x01 => some (8, true)
  | 0x02 => some (8, false)
  | 0x03 => some (8, false)
  | 0x04 => some (32, true)
  | 0x05 => some (8, true)
  | 0x06 => some (0, true)
  | 0x07 => some (8, true)
  | 0x08 => some (8, true)
  | 0x09 => some (32, true)
  | 0x0A => some (8, false)
  | 0x0B => some (16, false)
  | 0x10 => some (32, true)
  | 0x11 => some (64, true)
  | 0x12 => some (96, true)
  | 0x13 => some (32, false)
  | _ => none

/-- The bytes before the signature block (R83). -/
def signedPart (l : List Byte) : List Byte := l.take (l.length - 3328)
def signature (l : List Byte) : List Byte := l.drop (l.length - 3328)

/-- The entries of a section; of CODE, as many descriptors as its bytes hold. -/
def sectionEntries (l : List Byte) (t : TabEnt) : List Nat :=
  let n := if t.type = 6 then 8 else t.esize
  let c := if t.type = 6 then min t.count (t.size / 8) else t.count
  (upFrom 0 c).map fun i => leAt l (t.off + n * i) n

/-- The words of each code image (R93). -/
def codeImages (l : List Byte) (t : TabEnt) : List (List W32) :=
  (sectionEntries l t).map fun d =>
    wordsOf (bits d 32 13 / 4) ((l.drop (t.off + bits d 0 32)).take (bits d 32 13))

/-- An image parsed. -/
def parseImage (l : List Byte) : Rigging :=
  let tab := sectionTable l
  { hdr := leAt l 0 256
    secs := tab.map fun t => (t.type, sectionEntries l t)
    code := match tab.find? fun t => t.type == 6 with
      | some t => codeImages l t
      | none => [] }

/-! Stage programs (07 R247 to R249): whether a body is laid out as they say. -/

/-- Bytes of a code image. -/
def Rigging.codeBytes (r : Rigging) (i : Nat) : Nat := 4 * (lget [] r.code i).length

/-- The layers' FIRST_ENTRY values rise from 0 and stay below ENTRIES (R248). -/
def firstsOk (entries : Nat) : List Nat → Bool
  | [] => true
  | [a] => decide (a < entries)
  | a :: b :: r => decide (a < b) && firstsOk entries (b :: r)

/-- The bytes `[o, o + n)` of a body are zero. -/
def zeroAt (b o n : Nat) : Bool := fieldAt b o n == 0

/-- A body's layout (R247, R248, R249) for a direction. -/
def programOk (b len dir : Nat) : Bool :=
  let nl := fieldAt b 3 1
  let ne := fieldAt b 4 1
  let p := progOf b
  fieldAt b 0 2 == 0x5350 && fieldAt b 2 1 == dir && decide (1 ≤ nl) && decide (nl ≤ 16) && decide (1 ≤ ne)
    && decide (ne ≤ 29) && decide (0x120 + 128 * ne ≤ len) && zeroAt b 5 3 && zeroAt b 0x10 16
    && p.fwdOut % 64 == 0 && p.bwdOut % 64 == 0 && (dir == 0 || (p.fwdOut == 0 && p.bwdOut == 0))
    && ((p.layers.head?.map Layer.first).getD 1 == 0) && firstsOk ne (p.layers.map Layer.first)
    && (upFrom 0 nl).all (fun l =>
      let o := 0x20 + 16 * l
      let y := layerAt b l
      fieldAt b (o + 1) 1 / 2 == 0 && (dir == 1 || (!y.frozen && y.layer == l))
        && y.off % 64 == 0 && y.len % 64 == 0 && (dir == 0 || (y.off == 0 && y.len == 0 && y.bnd == 0)))
    && (upFrom 0 ne).all (fun e =>
      let o := 0x120 + 128 * e
      let x := entryAt b e
      let k := dkind x.template
      let start := bit x.flags 1
      fieldAt b (o + 0x60) 2 / 2 ^ 11 == 0 && fieldAt b (o + 0x62) 2 / 2 ^ 9 == 0 && x.flags / 2 ^ 6 == 0
        && (k == 1 || k == 2) && decide (1 ≤ x.count) && (if start then decide (1 ≤ x.outer) && decide (x.outer ≤ 65535) else x.outer == 0)
        && (k == 1 || (x.base2 == 0 && x.elemInc == 0)))
where
  dkind (d : List Nat) : Nat := bits (lget 0 d 0) 28 4

end Sys2Proof.Machine
end

