-- ==== Sys2Proof/Machine/RigCheck.lean ====
section
/-!
DEFINITION. Validation of an image in the fixed order of 03 R104 and R106: Binding, Table, Sections, Package, Routes,
Alternates. Each check answers the first failure, if any.
-/
namespace Sys2Proof.Machine
open State

/-- A check: nothing, or the failure it reports. -/
def need (ok : Bool) (code : Nat) (section_ : Nat := 0xFF) (entry : Nat := 0xFFFFFFFF) (gf : Option Nat := none) :
    Option RigFail := if ok then none else some ⟨code, section_, entry, gf⟩

/-- What the checks look at: the package, the partition, the image and its section table. -/
structure Vet where
  s : State
  p : Nat
  r : Rigging
  tab : List TabEnt

/-! Binding (R106). -/
def checkBinding (s : State) (p hdr : Nat) : Option RigFail :=
  let f := fieldAt hdr
  let live := bits hdr (8 * 0x0F + 4) 4
  let mode := bits hdr (8 * 0x0F) 4
  let clear := f 0x1B 1 == 0 && f 0x24 4 == 0 && f 0x30 16 == 0 && f 0x60 160 == 0 && bits (f 0x14 2) 14 2 == 0
    && bits (f 0x16 2) 14 2 == 0
  need (bits (f 0x14 2) 0 14 == s.get Reg.PKG_ID_ID) 0x06
  <|> need (f 0x0E 1 == p) 0x0A
  <|> need (f 0x18 2 == 0xB816 && decide (f 0x1A 1 ≤ s.get Reg.DEV_IDENT_STEPPING)) 0x0B
  <|> need (clear && ((mode == 0 && live == 2) || (mode == 1 && decide (2 ≤ live) && decide (live ≤ 8)))
    && decide (1 ≤ f 0x1C 4) && decide (f 0x1C 4 ≤ 1000000) && decide (16 ≤ f 0x20 2) && decide (f 0x20 2 ≤ 16384)
    && decide (1 ≤ f 0x22 2) && decide (f 0x22 2 ≤ 1024) && bits (f 0x16 2) 0 14 != bits (f 0x14 2) 0 14) 0x0C

/-! Table (R82, R84, R106). -/

def overlap (a n b m : Nat) : Bool := decide (a < b + m) && decide (b < a + n)

/-- One entry of the table, with those before it. -/
def checkTabEnt (last end_ : Nat) (before : List TabEnt) (t : TabEnt) : Option RigFail :=
  match sectionKind t.type with
  | none => some ⟨0x0E, t.type % 256, 0xFFFFFFFF, none⟩
  | some (es, _) =>
    need (t.esize == es && t.off % 64 == 0 && decide (last ≤ t.off) && decide (t.off + t.size ≤ end_)
      && !(before.any fun u => u.type == t.type || overlap u.off u.size t.off t.size)
      && (t.type == 6 || t.size == t.esize * t.count)) 0x0D t.type

def checkTabFrom (last end_ : Nat) : List TabEnt → List TabEnt → Option RigFail
  | _, [] => none
  | before, t :: r => checkTabEnt last end_ before t <|> checkTabFrom last end_ (before ++ [t]) r

def sectionTypes : List Nat := [1, 2, 3, 4, 5, 6, 7, 8, 9, 0xA, 0xB, 0x10, 0x11, 0x12, 0x13]

def checkTable (img : List Byte) : Option RigFail :=
  let n := sectionCount img
  let last := 0x100 + 16 * n
  let end_ := img.length - 3328
  need (decide (1 ≤ n) && decide (n ≤ 32) && decide (last ≤ end_)) 0x0D
  <|> checkTabFrom last end_ [] (sectionTable img)
  <|> (sectionTypes.find? fun t => (sectionKind t).any Prod.snd && !((sectionTable img).any fun u => u.type == t)).map
    fun t => ⟨0x0F, t, 0xFFFFFFFF, none⟩

/-! Shared questions of the section checks. -/
namespace Vet

def placed (c : Vet) (role : Nat) : Bool := (c.r.gangRole? role).isSome
def oddOk (c : Vet) (odd role : Nat) : Bool := odd == 0 || c.r.isPair role
def hasStage (c : Vet) (slot : Nat) : Bool := (c.r.stage? slot).isSome

/-- How often a value occurs. -/
def occurs {α : Type} [DecidableEq α] (l : List α) (x : α) : Nat := (l.filter (· == x)).length

/-- A region of a kind (and owner) that holds bytes. -/
def inKind (c : Vet) (kind : Nat) (slot : Option Nat) (o n : Nat) : Bool :=
  c.r.regions.any fun g => g.kind == kind && (slot.isNone || some g.slot == slot) && g.has o n

/-- Bytes in a WEIGHT_SLOT region with INDEX 0 whose shard has every INDEX below MAX_LIVE, all of one size (R252). -/
def weight (c : Vet) (o n : Nat) : Bool :=
  c.r.regions.any fun g => g.kind == 0 && g.index == 0 && g.has o n &&
    (let sib := c.r.regions.filter fun h => h.kind == 0 && h.shard == g.shard
     sib.length == c.r.maxLive && (sib.all fun h => h.size == g.size)
       && (upFrom 0 c.r.maxLive).all fun i => sib.any fun h => h.index == i)

end Vet
open Vet

/-! GANG (R85 to R87). -/
def checkGang (c : Vet) (i e : Nat) : Option RigFail :=
  let g := gangOf e
  let gs := c.r.gangs
  let mine := gs.filter fun x => x.role == g.role && x.shape != 4
  let other := mine.find? fun x => x.gf != g.gf
  let ok := decide (g.gf < 1184) && decide (g.shape ≤ 4) && occurs (gs.map Gang.gf) g.gf == 1
    && (if g.shape = 4 then g.role == 0x7FF && g.partner == 0x7FF
      else decide (g.role < 1184) && c.hasStage g.slot
        && (if g.shape = 1 || g.shape = 2 then
            mine.length == 2 && g.partner == g.gf + 1 - 2 * (g.gf % 2) && (match other with
              | some x => x.gf == g.partner && x.partner == g.gf && x.shape == g.shape && x.slot == g.slot
              | none => false)
          else g.partner == 0x7FF && mine.length == 1))
  need (bits e 43 21 == 0 && !(bit e 31)) 0x10 1 i
  <|> need ok 0x12 1 i (if g.gf < 1184 then some g.gf else none)

/-! ROUTE (R89, R90) and KNOT (R91, R92, R142). -/
def Route.target (e : Route) : Nat × Nat × Nat × Nat × Nat := (e.dstRole, e.dstOdd, e.dstRow, e.dstCol, e.dstQueue)
def KnotCfg.target (k : KnotCfg) : Nat × Nat × Nat × Nat × Nat := (k.dstRole, k.dstOdd, k.dstRow, k.dstCol, k.dstQueue)
def KnotCfg.id (k : KnotCfg) : Nat × Nat × Nat := (k.role, k.odd, k.idx)

def checkRoute (c : Vet) (i e : Nat) : Option RigFail :=
  let t := routeOf e
  let rs := c.r.routes
  let port (x : Route) := (x.srcRole, x.srcOdd, x.srcRow, x.srcCol, x.srcPort)
  let ok := c.placed t.srcRole && c.placed t.dstRole && c.oddOk t.srcOdd t.srcRole && c.oddOk t.dstOdd t.dstRole
    && decide (1 ≤ t.credits) && decide (t.credits ≤ 16) && occurs (rs.map port) (port t) == 1
    && (if t.dstKnot then occurs (c.r.knots.map KnotCfg.id) (t.dstRole, t.dstOdd, t.knotIdx) == 1
      else occurs ((rs.filter fun x => !x.dstKnot).map Route.target) t.target == 1)
  need (bits e 54 10 == 0) 0x10 2 i <|> need ok 0x13 2 i

/-- Storage words of a knot in its router (R142). -/
def KnotCfg.words (k : KnotCfg) : Nat := if k.kind = 1 then k.count * (k.tuple + 1) else k.tuple + 1

def checkKnot (c : Vet) (i e : Nat) : Option RigFail :=
  let k := knotOf e
  let ks := c.r.knots
  let srcs := c.r.routes.filter fun x => x.dstKnot && (x.dstRole, x.dstOdd, x.knotIdx) == k.id
  let here := (ks.take (i + 1)).filter fun x => x.role == k.role && x.odd == k.odd
  let ok := c.placed k.role && c.placed k.dstRole && c.oddOk k.odd k.role && c.oddOk k.dstOdd k.dstRole
    && decide (1 ≤ k.count) && decide (k.count ≤ 256) && decide (k.kind ≤ 1) && decide (1 ≤ k.credits)
    && decide (k.credits ≤ 16) && occurs (ks.map KnotCfg.id) k.id == 1 && occurs (ks.map KnotCfg.target) k.target == 1
    && occurs ((c.r.routes.filter fun x => !x.dstKnot).map Route.target) k.target == 0
    && srcs.length == k.count && (srcs.all fun x => x.credits == k.tuple + 1)
    && decide ((here.map KnotCfg.words).sum ≤ 4096)
  need (bits e 56 8 == 0) 0x10 3 i <|> need ok 0x15 3 i

/-! STAGE (R96, R252). -/

/-- An address base of a program entry (R250): `k` names the address, `out` says the entry is a TILE. -/
def baseOk (c : Vet) (cut inbound tile : Bool) (base addr : Nat) : Bool :=
  match base with
  | 0 => true
  | 1 => decide (addr < 2 ^ 46)
  | 2 => inbound && !tile && decide (addr < 2 ^ 46)
  | 3 => decide (addr < 2 ^ 46) && c.weight addr 1
  | 4 => cut && !tile && decide (addr < 2 ^ 46)
  | 5 => cut && tile && decide (addr < 2 ^ 46)
  | 6 => cut && !tile && decide (addr < 2 ^ 46)
  | _ => false

def ProgEntry.isTile (x : ProgEntry) : Bool := bits (lget 0 x.template 0) 28 4 == 1

/-- The template addresses of an entry with their bases (R249). -/
def ProgEntry.addrs (x : ProgEntry) : List (Nat × Nat) :=
  let w (i : Nat) : Nat := lget 0 x.template i + lget 0 x.template (i + 1) * 2 ^ 32
  if x.isTile then [(x.base0, w 6), (x.base1, w 10), (x.base2, w 12)] else [(x.base0, w 2), (x.base1, w 5)]

/-- The entries with a flag are contiguous. -/
def contiguous (l : List Bool) : Bool := !((l.dropWhile (!·)).dropWhile id).any id

/-- One program's entries under conditions 1 and 4 to 6 of R252. -/
def entriesOk (c : Vet) (t : StageCfg) (inbound : Bool) (q : Prog) : Bool :=
  let starts := q.entries.filter fun x => bit x.flags 1
  let ends := q.entries.filter fun x => bit x.flags 2
  let si := q.entries.findIdx fun x => bit x.flags 1
  let ei := q.entries.findIdx fun x => bit x.flags 2
  let loops := starts.length == ends.length && decide (starts.length ≤ 1) && (starts.isEmpty || decide (si ≤ ei))
  let body := q.entries.map fun x => bit x.flags 3
  let apart := starts.isEmpty || ((body.take (ei + 1)).drop si).all (!·)
  loops && contiguous body && apart && (t.seqCut || !body.any id)
    && q.entries.all fun x =>
      ((c.r.gangRole? x.role).map Gang.slot) == some t.slot
        && x.addrs.all fun a => baseOk c t.seqCut inbound x.isTile a.1 a.2

/-- FULL_NEED, and the reserved prefix (R264). -/
def Prog.layersEnd (q : Prog) : Nat := match q.layers.getLast? with
  | some y => y.off + y.len
  | none => 0
def prefixOf (r : Rigging) (slot : Nat) (q : Prog) : Nat :=
  q.fwdOut + q.bwdOut + match r.cut? slot with
    | some k => k.kvLen + 2 * k.dkvLen
    | none => 0

/-- The layer extents are contiguous from the reserved prefix, and boundaries fit (R252, 2). -/
def layersOk : Nat → List Layer → Bool
  | _, [] => true
  | off, y :: r => y.off == off && decide (y.bnd ≤ y.len) && layersOk (off + y.len) r

/-- The largest STASH_LEN of a layer with the next one's BND_LEN (R252, 7). -/
def layerNeed : List Layer → Nat
  | [] => 0
  | [y] => y.len
  | y :: z :: r => max (y.len + z.bnd) (layerNeed (z :: r))

def stageProgramsOk (c : Vet) (t : StageCfg) : Bool :=
  let fi := 16256 + 2 * t.slot
  let fb := c.r.body fi
  let bb := c.r.body (fi + 1)
  let f := progOf fb
  let b := progOf bb
  let n := f.layers.length
  let pre := prefixOf c.r t.slot f
  let st := c.r.kindRegions 1 t.slot
  let big := pre + layerNeed f.layers
  programOk fb (c.r.codeBytes fi) 0 && programOk bb (c.r.codeBytes (fi + 1)) 1
    && entriesOk c t (t.fwdIn != 0xFFFF) f && entriesOk c t (t.bwdIn != 0xFFFF) b
    && layersOk pre f.layers && ((f.layers.head?.map Layer.bnd).getD 0 == 0)
    && (b.layers.map Layer.layer == (upFrom 0 n).reverse)
    && (if t.quota = 0 then
        pre == 0 && (f.layers.all fun y => y.len == 0 && y.bnd == 0) && !t.seqCut
          && (f.entries ++ b.entries).all fun x => x.addrs.all fun a => a.1 != 1
      else
        decide (2 ≤ st.length) && decide (big ≤ t.quota * 2 ^ 20)
          && decide (big ≤ ((st[0]?).map Region.size).getD 0)
          && decide (f.layersEnd ≤ ((st[1]?).map Region.size).getD 0))

/-! STAGE (R96, R252). Each stage holds its contexts, so two stages of an image that name one context are refused
(DEDUCED, log 93). -/
def checkStage (c : Vet) (i e : Nat) : Option RigFail :=
  let t := stageOf e
  let ts := c.r.stages
  let landOk (n : Nat) : Bool := n == 0xFFFF || (c.r.land? n).isSome
  let others := ts.filter fun x => x.slot != t.slot
  let ok := occurs (ts.map StageCfg.slot) t.slot == 1
    && (others.all fun x => !overlap x.ctxBase x.ctxCount t.ctxBase t.ctxCount) && decide (1 ≤ t.mbPerStep) && decide (t.mbPerStep ≤ 4096)
    && ((ts.head?.map StageCfg.mbPerStep) == some t.mbPerStep) && decide (1 ≤ t.ctxCount) && decide (t.ctxCount ≤ 16384)
    && decide (t.ctxBase + t.ctxCount ≤ 16384) && landOk t.fwdIn && landOk t.fwdOut && landOk t.bwdIn && landOk t.bwdOut
    && !(t.last && t.fwdOut != 0xFFFF)
    && !(t.first && t.fwdIn != 0xFFFF && ((others.any fun x => x.fwdOut == t.fwdIn)
        || ((c.r.land? t.fwdIn).map LandCfg.kind) != some 0))
  need (bits e 10 6 == 0 && bits e 22 2 == 0 && bits e 27 5 == 0 && fieldAt e 0x12 2 == 0 && fieldAt e 0x18 8 == 0) 0x10 4 i
  <|> need (ok && stageProgramsOk c t) 0x17 4 i

/-! LANDING (R97, R98). Two entries for one landing are refused (DESIGN CHOICE, log 93). -/
def checkLanding (c : Vet) (i e : Nat) : Option RigFail :=
  let l := landOf e
  let g := l.num / 64
  need (bits e 51 13 == 0) 0x10 5 i
  <|> need (decide (l.kind ≤ 2) && decide (1 ≤ l.credits) && decide (l.credits ≤ 256)
    && occurs (c.r.lands.map LandCfg.num) l.num == 1
    && (l.kind == 0 || l.rope == 2 * g || l.rope == 2 * g + 1 || l.rope == 16 || l.rope == 17)) 0x16 5 i

/-! CODE and CODEMAP (R93 to R95, R246). -/
def codeTab (c : Vet) : TabEnt := (c.tab.find? fun t => t.type == 6).getD ⟨6, 0, 0, 0, 0⟩

def checkCode (c : Vet) (i e : Nat) : Option RigFail :=
  let t := codeTab c
  let o := bits e 0 32
  let n := bits e 32 13
  need (bits e 45 19 == 0) 0x10 6 i
  <|> need (o % 64 == 0 && decide (8 * t.count ≤ o) && decide (4 ≤ n) && decide (n ≤ 4096) && n % 4 == 0
    && decide (o + n ≤ t.size)) 0x18 6 i

def checkCodeAll (c : Vet) : Option RigFail :=
  let t := codeTab c
  need (decide (1 ≤ t.count) && decide (t.count ≤ 16384) && decide (8 * t.count ≤ t.size)) 0x18 6

def checkCodeMap (c : Vet) (i e : Nat) : Option RigFail :=
  let m := codeMapOf e
  need (bits e 36 28 == 0) 0x10 7 i
  <|> need (c.placed m.role && c.oddOk m.odd m.role && decide (m.image < 16256)
    && decide (m.image < c.r.code.length)) 0x18 7 i

def checkCodeMapAll (c : Vet) : Option RigFail :=
  let all (role odd : Nat) : Bool := (upFrom 0 16).all fun row => (upFrom 0 16).all fun col =>
    (c.r.imageAt role odd row col).isSome
  need (c.r.roles.all fun role => all role 0 && (!c.r.isPair role || all role 1)) 0x18 7

/-! VDOM (R99, R100). -/
def stageCandidates (r : Rigging) (slot : Nat) : List Nat :=
  (r.roles.filter fun role => ((r.gangRole? role).map Gang.slot) == some slot).flatMap fun role =>
    (((r.gangRole? role).map Gang.gf).toList ++ r.alts role).flatMap fun g => r.at role g

def checkVdom (c : Vet) (i e : Nat) : Option RigFail :=
  let v := vdomOf e
  need (bits e 55 9 == 0) 0x10 8 i
  <|> need (c.hasStage v.slot && occurs (((c.r.sec 8).map vdomOf).map VDom.slot) v.slot == 1 && decide (v.vMin ≤ v.vMax)
    && decide (v.vMax ≤ 70)) 0x19 8 i
  <|> ((sortBy (fun a b => decide (a ≤ b)) (stageCandidates c.r v.slot)).find? fun g =>
      decide (g < 1184) && decide (c.s.domainRateAt g v.vMax 680 < v.nominal)).map fun g => ⟨0x19, 8, i, some g⟩

def checkVdomAll (c : Vet) : Option RigFail :=
  need (c.r.stages.all fun t => (c.r.vdom? t.slot).isSome) 0x19 8

/-! MEMMAP (R101, R102, R322, 14 R488). -/
def Region.share (g : Region) (stack : Nat) : Nat :=
  if g.stacks.contains stack then g.size / g.stacks.length else 0
def shareOf (l : List Region) (stack : Nat) : Nat := (l.map fun g => g.share stack).sum
def stackBytes : Nat := 65280 * 2 ^ 20

def checkMemmap (c : Vet) (i e : Nat) : Option RigFail :=
  let g := regionOf e
  let n := g.stacks.length
  let two := 2 ^ 21
  let before := c.r.regions.take i
  let lo := c.s.get (Reg.PART_ALLOT_BASE_GIB c.p) * 2 ^ 30
  let hi := lo + c.s.get (Reg.PART_ALLOT_SIZE_GIB c.p) * 2 ^ 30
  need (fieldAt e 6 2 / 2 == 0 && fieldAt e 0x1C 4 == 0) 0x10 9 i
  <|> need (decide (g.kind ≤ 7) && decide (g.granule ≤ 3) && decide (1 ≤ n) && (g.granule != 3 || n == 1)
    && (if g.kind = 0 then decide (g.index ≤ 7) else g.index == 0) && (g.slot == 0xFF || c.hasStage g.slot)
    && g.base % two == 0 && decide (0 < g.size) && g.size % (n * two) == 0 && decide (g.base + g.size ≤ 0xFF_0000_0000)
    && decide (lo ≤ g.base) && decide (g.base + g.size ≤ hi)
    && (before.all fun h => !overlap h.base h.size g.base g.size)
    && (g.kind != 0 || decide (((before.filter fun h => h.kind == 0 && h.shard == g.shard).length) < c.r.maxLive))
    && (upFrom 0 16).all fun k => decide (shareOf (c.r.regions.take (i + 1)) k ≤ stackBytes)) 0x1A 9 i

/-! ALT (R88). Two entries for one role are refused (DESIGN CHOICE, log 93). -/
def checkAlt (c : Vet) (i e : Nat) : Option RigFail :=
  let role := bits e 0 11
  let alts := [bits e 11 11, bits e 22 11, bits e 33 11]
  let pair := c.r.isPair role
  let ok (g : Nat) : Bool := g == 0x7FF || (c.r.standby.contains g && (!pair || (g % 2 == 0 && c.r.standby.contains (g + 1))))
  need (bits e 44 20 == 0) 0x10 0xA i
  <|> need (c.placed role && occurs ((c.r.sec 0xA).map fun x => bits x 0 11) role == 1 && bits e 11 11 != 0x7FF) 0x1B 0xA i
  <|> (alts.find? fun g => !ok g).map fun g => ⟨0x1B, 0xA, i, if g < 1184 then some g else none⟩

/-! RIGHTS (R103, 14 R489). -/
def grantable : List (Nat × Nat × Bool) :=
  [(0, 0x2000, false), (0x40_4000, 0x40_5000, true), (0x40_A000, 0x40_B000, true), (0x40_C000, 0x40_E000, true),
   (0x40_E000, 0x40_F000, true), (0x100_0000, 0x200_0000, true), (0x200_0000, 0x300_0000, true)]

/-- How far from `o` the grantable ranges reach without a gap. -/
def grantReach (write : Bool) (o : Nat) : Nat :=
  grantable.foldl (fun p x => if x.1 ≤ p && p < x.2.1 && (x.2.2 || !write) then x.2.1 else p) o

def checkRights (c : Vet) (i e : Nat) : Option RigFail :=
  let x := rightOf e
  let _ := c.p
  need (fieldAt e 1 1 / 4 == 0 && fieldAt e 2 2 == 0 && fieldAt e 12 4 == 0) 0x10 0xB i
  <|> need (decide (x.agent ≤ 2) && x.base % 4096 == 0 && decide (0 < x.size) && x.size % 4096 == 0
    && decide (x.base + x.size ≤ grantReach x.write x.base)) 0x1D 0xB i

/-! RING (08 R286, R287, R314). -/
def ringsOf (r : Rigging) (kind : Nat) : List Nat := (r.sec 0x10).filter fun e => fieldAt e 0 1 == kind

/-- The areas of the RING section but for entry `i`. -/
def ringSpans (r : Rigging) (i : Nat) : List (Nat × Nat) :=
  ((r.sec 0x10).zipIdx.filter fun x => x.2 != i).map fun (e, _) =>
    if fieldAt e 0 1 = 1 then ((bucketOf e).area, (bucketOf e).bytes) else ((ringOf e).inBase, 4 * (ringOf e).seg)

def replicas (r : Rigging) (slot : Nat) : Nat := max 1 (((r.ring? slot).map RingCfg.r).getD 1)

def checkRingDesc (c : Vet) (i e : Nat) : Option RigFail :=
  let x := ringOf e
  let pow := (upFrom 12 9).any fun k => x.seg == 2 ^ k
  need (bits e 14 2 == 0 && bits e 62 2 == 0 && bits e 78 2 == 0 && bits e 91 5 == 0 && fieldAt e 0x18 8 == 0) 0x10 0x10 i
  <|> need (c.hasStage x.slot && occurs ((ringsOf c.r 0).map fun y => bits y 8 6) x.slot == 1 && decide (1 ≤ x.r)
    && decide (x.r ≤ 1024) && decide (x.pos < x.r)
    && (if x.r = 1 then x.next == 0 && x.prev == 0 && x.rope == 0 && x.vc == 0
      else x.next != c.r.packageId && x.prev != c.r.packageId && decide (x.rope ≤ 17))
    && pow && x.inBase % 4096 == 0 && c.inKind 2 (some x.slot) x.inBase (4 * x.seg)) 0x30 0x10 i

def checkBucket (c : Vet) (i e : Nat) : Option RigFail :=
  let b := bucketOf e
  let n := replicas c.r b.slot
  let u := c.r.upd? b.upd
  let sq := (u.map Upd.squares).getD false
  need (bits e 14 2 == 0 && fieldAt e 6 2 == 0) 0x10 0x10 i
  <|> need ((c.r.ring? b.slot).isSome) 0x30 0x10 i
  <|> need (decide (b.num ≤ 4095)
    && occurs ((ringsOf c.r 1).map fun y => (bits y 8 6, fieldAt y 2 2)) (b.slot, b.num) == 1
    && (b.num == 0 || (ringsOf c.r 1).any fun y => bits y 8 6 == b.slot && fieldAt y 2 2 + 1 == b.num)
    && decide (0 < b.bytes) && b.bytes % (128 * n) == 0 && (!sq || b.bytes % (4096 * n) == 0) && b.area % 4096 == 0
    && c.inKind 2 (some b.slot) b.area b.bytes && !((ringSpans c.r i).any fun y => overlap y.1 y.2 b.area b.bytes)
    && ((u.map Upd.slot) == some b.slot) && decide (1 ≤ b.tiles) && c.weight b.slotOff (b.bytes / 2)) 0x31 0x10 i

def checkRing (c : Vet) (i e : Nat) : Option RigFail :=
  if fieldAt e 0 1 = 0 then checkRingDesc c i e
  else if fieldAt e 0 1 = 1 then checkBucket c i e
  else some ⟨0x30, 0x10, i, none⟩

/-! SCHED (08 R310, R314). FP32 fields are finite and not negative; they compare as their bit patterns then. -/
def fpOk (v : Nat) : Bool := decide (v < 0x7F80_0000) || v == 0x8000_0000
def fpOrd (v : Nat) : Nat := if v = 0x8000_0000 then 0 else v

def checkSched (c : Vet) (i e : Nat) : Option RigFail :=
  let x := schedOf e
  need (bits e 25 7 == 0 && fieldAt e 0x31 3 == 0 && fieldAt e 0x38 8 == 0) 0x10 0x11 i
  <|> need (decide (x.index ≤ 7) && occurs (((c.r.sec 0x11).map schedOf).map Sched.index) x.index == 1
    && decide (x.decay ≤ 4) && decide (x.momMode ≤ 1)
    && [x.lrInit, x.lrPeak, x.lrMin, x.wdBase, x.momBase, x.momLo, x.peakDecay, x.gamma].all fpOk
    && decide (fpOrd x.lrMin ≤ fpOrd x.lrPeak) && decide (fpOrd x.momLo ≤ fpOrd x.momBase)
    && decide (fpOrd x.momBase < 0x3F80_0000) && decide (0 < fpOrd x.gamma) && decide (fpOrd x.gamma ≤ 0x3F80_0000)
    && decide (1 ≤ x.cycleMult) && decide (x.cycleMult ≤ 4) && decide (1 ≤ x.decayLen)
    && decide (x.restartWarmup < x.decayLen)) 0x32 0x11 i

/-! UPDATE (08 R296, R298, R301, R314). -/

/-- A word that an update program may hold before its HALT (R301). -/
def updWordOk (sq : Bool) (w : Nat) : Bool :=
  let fn := bits w 0 6
  let nop := bits w 26 6 == 0x3F && bits w 0 8 == 0
  let fnOk := decide (fn ≤ 0x0E) || (decide (0x11 ≤ fn) && decide (fn ≤ 0x14)) || (decide (0x16 ≤ fn) && decide (fn ≤ 0x1A))
  nop || (bits w 26 6 == 0x20 && bits w 6 2 == 0 && !(bit w 13) && fnOk && !(fn == 0x0E && decide (15 < bits w 8 5))
    && (sq || !(fn == 0x19 || fn == 0x1A)))

def updProgOk (c : Vet) (sq : Bool) (img : Nat) : Bool :=
  let ws := (lget [] c.r.code img).map BitVec.toNat
  decide (img < 16256) && decide (img < c.r.code.length) && decide (1 ≤ ws.length) && decide (ws.length ≤ 1024)
    && (match ws.getLast? with
      | some w => bits w 26 6 == 0x3F && bits w 0 8 == 1
      | none => false)
    && ws.dropLast.all (updWordOk sq)

/-- E_u (R296): owned elements of the buckets that name entry `u`. -/
def ownedElems (r : Rigging) (u : Nat) : Nat :=
  (((ringsOf r 1).map bucketOf).filter fun b => b.upd == u).foldl (fun n b => n + b.bytes / 4 / replicas r b.slot) 0

def to4k (n : Nat) : Nat := (n + 4095) / 4096 * 4096

/-- Bytes of one element state of `n` elements in STATE_FMT. -/
def stateBytes (fmt n : Nat) : Nat := if fmt = 0 then 2 * n else if fmt = 1 then 4 * n else n + n / 32

/-- Bytes of one half of a state area (R296). -/
def halfNeed (r : Rigging) (u : Nat) (x : Upd) : Nat :=
  let n := ownedElems r u
  to4k (4 * n) + x.nE * to4k (stateBytes x.stateFmt n) + x.nM * to4k (4 * n)

def checkUpdate (c : Vet) (i e : Nat) : Option RigFail :=
  let x := updOf e
  let f := fieldAt e 3 1
  need (bits e 6 2 == 0 && bits e 11 5 == 0 && fieldAt e 0xB 1 == 0 && fieldAt e 0x50 16 == 0) 0x10 0x12 i
  <|> need (((c.r.sec 0x11).map schedOf).any (fun y => y.index == x.sched) && c.hasStage x.slot && decide (x.nE ≤ 2)
    && decide (x.nM ≤ 4) && decide (bits f 0 2 ≤ 1) && decide (f / 4 ≤ 2) && decide (x.rnd ≤ 2)
    && updProgOk c x.squares x.image
    && (if x.refreshEn then decide (1 ≤ x.refreshK) && updProgOk c x.squares x.refreshImage else x.refreshImage == 0xFFFF)
    && (x.squares || (x.nM == 0 && !x.refreshEn)) && decide (x.tensor + 7 < 0xFFFF_0000) && fpOk x.ratioMax
    && c.inKind 3 none x.state (2 * x.half) && decide (halfNeed c.r i x ≤ x.half)) 0x33 0x12 i

/-! SEQCUT (07 R269, R270). -/
def checkCut (c : Vet) (i e : Nat) : Option RigFail :=
  let k := cutOf e
  let named (n : Nat) : Bool := c.r.stages.any fun t => t.fwdIn == n || t.fwdOut == n || t.bwdIn == n || t.bwdOut == n
  let land (n : Nat) (kinds : List Nat) : Bool := match c.r.land? n with
    | some l => kinds.contains l.kind && decide (2 ≤ l.credits) && !named n
    | none => false
  let body (dir : Nat) : Bool := (c.r.prog k.slot dir).entries.any fun x => bit x.flags 3
  need (bits e 6 2 == 0 && fieldAt e 3 1 == 0 && fieldAt e 0x10 16 == 0) 0x10 0x13 i
  <|> need (decide (2 ≤ k.count) && decide (k.count ≤ 64) && decide (k.pos < k.count) && k.kvLen % 64 == 0
    && k.dkvLen % 64 == 0 && ((c.r.stage? k.slot).map StageCfg.seqCut) == some true
    && occurs (((c.r.sec 0x13).map cutOf).map Cut.slot) k.slot == 1 && land k.ringOut [0, 1] && land k.ringIn [0, 2]
    && body 0 && body 1) 0x3E 0x13 i

/-- A stage with SEQ_CUT and no SEQCUT entry (R270). -/
def checkCutAll (c : Vet) : Option RigFail :=
  need (c.r.stages.all fun t => !t.seqCut || (c.r.cut? t.slot).isSome) 0x3E 0x13

/-! The Sections phase: sections in table order, entries in order, then what a section must hold as a whole. -/
def checkSection (c : Vet) (type : Nat) : Option RigFail :=
  let each (f : Vet → Nat → Nat → Option RigFail) : Option RigFail :=
    (c.r.sec type).zipIdx.findSome? fun (e, i) => f c i e
  match type with
  | 0x01 => each checkGang
  | 0x02 => each checkRoute
  | 0x03 => each checkKnot
  | 0x04 => each checkStage
  | 0x05 => each checkLanding
  | 0x06 => each checkCode <|> checkCodeAll c
  | 0x07 => each checkCodeMap <|> checkCodeMapAll c
  | 0x08 => each checkVdom <|> checkVdomAll c
  | 0x09 => each checkMemmap
  | 0x0A => each checkAlt
  | 0x0B => each checkRights
  | 0x10 => each checkRing
  | 0x11 => each checkSched
  | 0x12 => each checkUpdate
  | 0x13 => each checkCut <|> checkCutAll c
  | _ => none

/-! Package (R22, R322, R367). -/
def vcsOf (r : Rigging) : List (Nat × Nat) :=
  (r.lands.filter fun l => l.kind != 0).map (fun l => (l.rope, l.vc))
    ++ ((((r.sec 0x10).filter fun e => fieldAt e 0 1 == 0).map ringOf).filter fun x => decide (1 < x.r)).map
      fun x => (x.rope, x.vc)

def checkPackage (c : Vet) : Option RigFail :=
  let others := (c.s.loaded.filter (· != c.p)).map c.s.imageOf
  let gfs := others.flatMap fun o => o.gangs.map Gang.gf
  let stages := others.flatMap Rigging.stages
  let lands := others.flatMap fun o => o.lands.map LandCfg.num
  let vcs := others.flatMap vcsOf
  let regs := others.flatMap Rigging.regions
  need ((upFrom 0 16).all fun k => decide (shareOf (c.r.regions ++ regs) k ≤ stackBytes)) 0x11 9
  <|> need (decide ((c.r.stages ++ stages).length ≤ 64)
    && decide (((c.r.stages ++ stages).map StageCfg.ctxCount).sum ≤ 16384)) 0x11 4
  <|> need (decide (c.r.lands.length + lands.length ≤ 512)) 0x11 5
  <|> (c.r.gangs.zipIdx.find? fun (g, _) => gfs.contains g.gf).map (fun (g, i) => ⟨0x1E, 1, i, some g.gf⟩)
  <|> (c.r.stages.zipIdx.find? fun (t, _) => stages.any fun x => x.slot == t.slot
      || overlap x.ctxBase x.ctxCount t.ctxBase t.ctxCount).map (fun (_, i) => ⟨0x1E, 4, i, none⟩)
  <|> (c.r.lands.zipIdx.find? fun (l, _) => lands.contains l.num || (l.kind != 0 && vcs.contains (l.rope, l.vc))).map
    (fun (_, i) => ⟨0x1E, 5, i, none⟩)
  <|> ((c.r.sec 0x10).zipIdx.find? fun (e, _) => fieldAt e 0 1 == 0 && decide (1 < (ringOf e).r)
      && vcs.contains ((ringOf e).rope, (ringOf e).vc)).map (fun (_, i) => ⟨0x1E, 0x10, i, none⟩)

/-! Routes and Alternates (R90, R106, R118). -/

/-- Routes added one at a time: the first that takes a router above the limit, with that router's flight. -/
def routesFrom (place : Tbl Nat) : List (Route × Nat) → Tbl Nat → Option RigFail
  | [], _ => none
  | (e, i) :: r, m =>
    let (a, b) := e.ends place
    let m := (routePath a b).foldl (fun m f => tset 0 m f (tget 0 m f + 1)) m
    match m.find? fun x => decide (2048 < x.2) with
    | some x => some ⟨0x14, 2, i, some x.1⟩
    | none => routesFrom place r m

def checkRoutes (c : Vet) : Option RigFail := routesFrom c.r.home c.r.routes.zipIdx (c.s.otherLoads c.p)

def checkAlternates (c : Vet) : Option RigFail :=
  (c.r.sec 0xA).zipIdx.findSome? fun (e, i) =>
    let role := bits e 0 11
    ((c.r.alts role).find? fun g => !loadsFit (addRoutes c.r (tset 0x7FF c.r.home role g) (c.s.otherLoads c.p))).map
      fun g => ⟨0x1B, 0xA, i, some g⟩

/-- Every check of VALIDATE in order; the image's bytes as the slot gives them. -/
def validate (s : State) (p : Nat) (img : List Byte) : Option RigFail :=
  let r := parseImage img
  let c : Vet := ⟨s, p, r, sectionTable img⟩
  checkBinding s p (leAt img 0 256) <|> checkTable img
  <|> c.tab.findSome? (fun t => checkSection c t.type) <|> checkCutAll c
  <|> checkPackage c <|> checkRoutes c <|> checkAlternates c

end Sys2Proof.Machine
end

