-- ==== Sys2Proof/Machine/StageOps.lean ====
section
/-!
DEFINITION. What the commands of a stage sequencer share: its place in a program, relocation, the stash ring, versions
still in use, the checks of a landing entry (07 R242 to R273).
-/
namespace Sys2Proof.Machine
open State

/-- A stage slot that a loaded image uses: its partition, image and STAGE entry. -/
def withStage (slot : Nat) (f : Nat → Rigging → StageCfg → State → State) (s : State) : State :=
  match s.slotPart slot with
  | none => s
  | some p => match (s.imageOf p).stage? slot with
    | none => s
    | some t => f p (s.imageOf p) t s

/-- A stage that R275 keeps stopped: by an entry out of order, a descriptor error or a tread trap. -/
def State.stageStopped (s : State) (slot : Nat) : Bool :=
  (s.stage slot).stopped || (s.stageFlights slot).any fun gf => s.on (Reg.FLT_STATUS_STOPPED gf)
    || s.treads.any fun (t, x) => treadGf t == gf && x.st == .trap

/-- Whether a sequencer may act: its partition does not wind down, and the stage is neither stopped nor held at a lost line
(R465, R275, 11 R401). -/
def State.seqRuns (s : State) (p slot : Nat) : Bool :=
  !(s.rig p).winding && !s.stageStopped slot && !(s.stage slot).held

/-- A sequencer's access that failed (11 R401): held at a lost line, else the stage stops as at a tread trap. -/
def seqAccess (p slot status : Nat) (s : State) : State :=
  let g := s.stage slot
  if status = FabSt.ok then s
  else if status = FabSt.lineLost then s.setStage slot { g with held := true }
  else s.setStage slot { g with stopped := true } |> programFault p

/-- Flights that hold no descriptor, load, tile or drain. -/
def State.flightsQuiet (s : State) (slot : Nat) : Bool :=
  (s.stageFlights slot).all fun gf =>
    let f := s.flight gf
    f.queue.isEmpty && f.loads.isEmpty && f.arrays.all fun (_, a) => a.tile.isNone && a.drain.isNone

/-- Every tread of the stage in HALT, and none still to be started (R242). -/
def State.treadsHalted (s : State) (slot : Nat) : Bool :=
  (s.stageFlights slot).all fun gf => !s.power.starting.contains gf && (s.flightTreads gf).all fun t => (s.tread t).st == .halt

/-! Versions (R259 to R261). -/

/-- The tag that a stage derives for a step. -/
def State.stepTag (s : State) (p step : Nat) : Nat := s.stepCount p step % 16

/-- The offset that base 3 gives: the same place in the slot of a version count (R250). -/
def Rigging.versionAt (r : Rigging) (o count : Nat) : Nat :=
  match r.regions.find? fun g => g.kind == 0 && g.index == 0 && g.has o 1 with
  | none => o
  | some g => match r.regions.find? fun h => h.kind == 0 && h.shard == g.shard && h.index == count % max 1 r.maxLive with
    | some h => h.base + (o - g.base)
    | none => o

/-! The stash of a context (R264, R265). -/

/-- FULL_NEED of a stage. -/
def Rigging.fullNeed (r : Rigging) (slot : Nat) : Nat := max (r.prog slot 0).layersEnd (prefixOf r slot (r.prog slot 0))

/-- The K and V extent, and the dKV extent of a pass. -/
def Rigging.kvAt (r : Rigging) (slot : Nat) : Nat := (r.prog slot 0).fwdOut + (r.prog slot 0).bwdOut
def Rigging.dkvAt (r : Rigging) (slot pass : Nat) : Nat :=
  match r.cut? slot with
  | some k => r.kvAt slot + k.kvLen + pass % 2 * k.dkvLen
  | none => 0

/-- A class-0 address of this package for an offset of a context's stash (R265, 4). -/
def State.stashAddr (s : State) (p slot c o : Nat) : Nat :=
  let x := s.ctx c
  if o < x.thr then s.own (x.handle + o)
  else match (s.imageOf p).spillRegion? slot with
    | some g => s.own (g.base + o)
    | none => s.own (x.handle + o)

/-- The ring head from which a context is placed, and the gap that this leaves (R265, 1). -/
def State.ringStart (s : State) (r : Rigging) (slot : Nat) : Nat × Nat :=
  match r.ringRegion? slot with
  | none => (0, 0)
  | some m =>
    let h := max (s.stage slot).head m.base
    let left := m.base + m.size - h
    if left < r.fullNeed slot then (m.base, left) else (h, 0)

/-- Bytes a forward needs at admission: the reserved prefix, or all of it for a cut stage (R265, R266). -/
def Rigging.admitNeed (r : Rigging) (t : StageCfg) : Nat :=
  if t.seqCut then r.fullNeed t.slot else prefixOf r t.slot (r.prog t.slot 0)

/-- Whether they fit; a gap before an empty ring counts for nothing. -/
def State.stashFits (s : State) (r : Rigging) (t : StageCfg) : Bool :=
  let gap := if (s.stage t.slot).ring.isEmpty then 0 else (s.ringStart r t.slot).2
  t.quota == 0 || decide (s.ringUse t.slot + gap + r.admitNeed t ≤ s.ringLimit t.slot)

/-- A reserved prefix that no empty ring could take (R267). -/
def State.stashBlocked (s : State) (r : Rigging) (t : StageCfg) : Bool :=
  t.quota != 0 && decide (s.ringLimit t.slot < prefixOf r t.slot (r.prog t.slot 0))

/-- `STASH_BLOCKED` raised once per entry into that condition. -/
def noteBlocked (p : Nat) (r : Rigging) (t : StageCfg) (s : State) : State :=
  let b := s.stashBlocked r t
  let g := s.stage t.slot
  if b == g.blocked then s
  else
    let s := s.setStage t.slot { g with blocked := b }
    if b then s |> raise Ev.stashBlocked (partStamp p) [t.slot] else s

/-- Whether a context can extend to an offset of its stash. -/
def State.canExtend (s : State) (slot c upTo : Nat) : Bool :=
  let x := s.ctx c
  decide (upTo ≤ x.held) || decide (s.ringUse slot + (upTo - x.held) ≤ s.ringLimit slot)

/-- A context extended to an offset. -/
def extendCtx (slot c upTo : Nat) (s : State) : State :=
  let x := s.ctx c
  if upTo ≤ x.held then s
  else s.setCtx c { x with held := upTo } |> setStage slot { s.stage slot with head := x.handle + upTo }

/-- The first entry of forward layer `l` is reached: the layer is stored in full or spilled (R265, 2 and 3). -/
def storeLayer (p : Nat) (r : Rigging) (t : StageCfg) (l : Nat) (s : State) : State :=
  let g := s.stage t.slot
  let c := g.cur
  let q := r.prog t.slot 0
  let y := lget ⟨0, false, 0, 0, 0, 0⟩ q.layers l
  let next := (lget ⟨0, false, 0, 0, 0, 0⟩ q.layers (l + 1)).bnd
  let s := s.setStage t.slot { g with layer := l + 1 }
  if t.quota = 0 || t.seqCut || (s.ctx c).spill.isSome then s
  else if s.canExtend t.slot c (y.off + y.len + next) then extendCtx t.slot c (y.off + y.len) s
  else
    let fits := s.canExtend t.slot c (y.off + y.bnd)
    let s := if fits then extendCtx t.slot c (y.off + y.bnd) s else s
    let R := if fits then l else l - 1
    let z := lget ⟨0, false, 0, 0, 0, 0⟩ q.layers R
    let x := s.ctx c
    s.setCtx c { x with thr := z.off + z.bnd, spill := some R }
      |> bump (Reg.SEQ_COUNTS_SPILLS t.slot) 1
      |> raise Ev.stashSpill ⟨some x.step, some x.mbId, some p⟩ [t.slot, c, x.mbId, R]

/-! Expansion of a program (R249 to R251, R268, R283). -/

def ProgEntry.wgrad (x : ProgEntry) : Bool := bit x.flags 0
def ProgEntry.loopStart (x : ProgEntry) : Bool := bit x.flags 1
def ProgEntry.loopEnd (x : ProgEntry) : Bool := bit x.flags 2
def ProgEntry.passBody (x : ProgEntry) : Bool := bit x.flags 3
def ProgEntry.lastOnly (x : ProgEntry) : Bool := bit x.flags 4
def ProgEntry.notLast (x : ProgEntry) : Bool := bit x.flags 5

def noEntry : ProgEntry := ⟨[], 0, 0, 0, 0, 0, 1, 0, 0, 0, 0, 0, 0⟩
def noLayer : Layer := ⟨0, false, 0, 0, 0, 0⟩

/-- The layer that an entry belongs to. -/
def Prog.layerOf (q : Prog) (e : Nat) : Layer := ((q.layers.filter fun y => decide (y.first ≤ e)).getLast?).getD noLayer

/-- The first entry of the loop, its iterations, and the first entry of the pass body with the entry after it. -/
def Prog.loopAt (q : Prog) : Nat := q.entries.findIdx ProgEntry.loopStart
def Prog.outer (q : Prog) : Nat := (lget noEntry q.entries q.loopAt).outer
def Prog.bodyAt (q : Prog) : Nat := q.entries.findIdx ProgEntry.passBody
def Prog.bodyEnd (q : Prog) : Nat := q.bodyAt + (q.entries.filter ProgEntry.passBody).length

/-- Bits of word `i` of a descriptor replaced. -/
def putBits (i lo w v : Nat) (d : List Nat) : List Nat :=
  let x := dword d i
  lset d i (x - place (bits x lo w) lo w + place v lo w)

/-- A 64-bit value at words `i` and `i + 1`. -/
def putWide (i v : Nat) (d : List Nat) : List Nat := lset (lset d i (v % 2 ^ 32)) (i + 1) (v / 2 ^ 32 % 2 ^ 32)

/-- A template address relocated by its base (R250). -/
def State.reloc (s : State) (p slot base a : Nat) : Nat :=
  let g := s.stage slot
  let x := s.ctx g.cur
  let r := s.imageOf p
  match base with
  | 1 => s.stashAddr p slot g.cur a
  | 2 => (if g.mode == .bwd then g.pay else x.inbound) + a
  | 3 => s.own (r.versionAt a (s.stepCount p x.step))
  | 4 => g.ringPay + a
  | 5 => s.own (x.handle + r.dkvAt slot g.pass + a)
  | 6 => g.ringAux + a
  | _ => a

/-- An address moved by signed increments, modulo 2⁶⁴. -/
def moved (a : Nat) (d : Int) : Nat := ofSigned 64 ((a : Int) + d)

/-- Whether an entry's gradient starts from nothing: the step's first micro-batch, or a FROZEN layer (R283). -/
def State.freshGrad (s : State) (slot : Nat) (q : Prog) : Bool :=
  let g := s.stage slot
  g.mode == .bwd && ((s.ctx g.cur).mbSeq == 0 || (q.layerOf g.ent).frozen)

/-- Whether an entry is skipped (R251, R283). -/
def State.skipped (s : State) (p : Nat) (t : StageCfg) (q : Prog) (e : ProgEntry) : Bool :=
  let last := (s.ctx (s.stage t.slot).cur).mbSeq + 1 == t.mbPerStep
  let src := s.reloc p t.slot e.base0 (dword2 e.template 2)
  (e.lastOnly && !last) || (e.notLast && last)
    || (!e.isTile && s.freshGrad t.slot q && fabPkg src == s.get Reg.PKG_ID_ID && fabCls src == 0
        && (s.imageOf p).regions.any fun g => g.kind == 2 && g.has (fabOff src) 1)

/-- The descriptor of repetition `rep` of an entry. -/
def State.expand (s : State) (p slot : Nat) (q : Prog) (e : ProgEntry) : List Nat :=
  let g := s.stage slot
  let n : Int := g.rep
  let o : Int := g.iter
  let a0 (a : Nat) : Nat := moved (s.reloc p slot e.base0 a) (n * e.inc0 + o * e.oinc0)
  let a1 (a : Nat) : Nat := moved (s.reloc p slot e.base1 a) (n * e.inc1 + o * e.oinc1)
  let d := fit 0 24 e.template
  if !e.isTile then d |> putWide 2 (a0 (dword2 d 2)) |> putWide 5 (a1 (dword2 d 5))
  else
    let d := d |> putWide 6 (a0 (dword2 d 6)) |> putWide 10 (a1 (dword2 d 10))
      |> putWide 12 (s.reloc p slot e.base2 (dword2 d 12))
    let d := d |> putWide 16 (ofSigned 64 ((dword2 d 16 : Int) + n * e.elemInc)) |> putBits 9 16 16 (bits (dword d 9) 16 16 + g.rep)
    let d := if 0 < g.rep then putBits 0 25 1 1 d else d
    let d := if g.rep + 1 < e.count then putBits 0 24 1 0 d else d
    let d := if e.wgrad && g.mode == .bwd && (q.layerOf g.ent).frozen then putBits 3 30 2 2 d else d
    if e.wgrad && s.freshGrad slot q then putBits 3 19 1 0 d else d

/-- The place after an entry: the loop's next iteration, or the next entry. -/
def Stage.nextEntry (g : Stage) (q : Prog) (e : ProgEntry) : Stage :=
  if e.loopEnd && g.iter + 1 < q.outer then { g with ent := q.loopAt, iter := g.iter + 1, rep := 0 }
  else { g with ent := g.ent + 1, iter := if e.loopEnd then 0 else g.iter, rep := 0 }

/-! Landing entries (R257). -/

/-- Expected or found values as `LANDING_ORDER` reports them: step, then MB_SEQ [11:0], tag [19:16], BWD [20], RING
[21], PASS [31:24]. -/
def orderWords (step seq tag pass : Nat) (bwd ring : Bool) : List Nat :=
  [step % 2 ^ 32, step / 2 ^ 32, place seq 0 12 + place tag 16 4 + place (b2n bwd) 20 1 + place (b2n ring) 21 1
    + place pass 24 8]

/-- Whether an entry is the one that a stage expects next. PASS is checked of an entry taken from RING_IN, and MB_SEQ in the
12 bits that R255 gives it (log 95). -/
def State.expects (s : State) (p step seq pass : Nat) (bwd ring : Bool) (e : Entry) : Bool :=
  e.step = step && e.mbSeq % 4096 = seq && e.tag = s.stepTag p step && e.bwd == bwd && (!ring || e.pass = pass)

/-- A stage that meets another entry than it expects stops. -/
def wrongEntry (p slot n : Nat) (step seq pass : Nat) (bwd ring : Bool) (e : Entry) (s : State) : State :=
  s.setStage slot { s.stage slot with stopped := true }
    |> bump (Reg.LAND_COUNTS_ERRORS n) 1
    |> raise Ev.landingOrder ⟨some step, none, some p⟩
      ([n] ++ orderWords step seq (s.stepTag p step) pass bwd ring ++ orderWords e.step e.mbSeq e.tag e.pass e.bwd e.ring)
    |> programFault p

/-- The next entry of a landing checked against what the stage expects: taken, or the stage stops with the entry left. -/
def takeEntry (p slot n : Nat) (step seq pass : Nat) (bwd ring : Bool) (f : Entry → State → State) (s : State) : State :=
  match (s.landing n).ents with
  | [] => s
  | e :: rest =>
    if s.expects p step seq pass bwd ring e then f e (s.setLanding n { s.landing n with ents := rest })
    else wrongEntry p slot n step seq pass bwd ring e s

/-- The next entry checked and left. -/
def checkEntry (p slot n : Nat) (step seq pass : Nat) (bwd ring : Bool) (s : State) : State :=
  match (s.landing n).ents with
  | [] => s
  | e :: _ => if s.expects p step seq pass bwd ring e then s else wrongEntry p slot n step seq pass bwd ring e s

/-- Whether a stage field names a landing. -/
def namesLanding (n : Nat) : Bool := n != 0xFFFF

/-! Starting a micro-batch (R129, R135, R178, R251, R278). -/

/-- A flight at the start of a step: queue empty, banks +0 and the array's, slots and entries unwritten; the epilogue store
stays (05 R178), and so does the order of the banks (R182). -/
def Flight.restart (f : Flight) : Flight :=
  { f with queue := [], loads := [],
           arrays := tmap ArrayData.init (fun _ a => { ArrayData.init with last := a.last }) f.arrays,
           written := f.written.filter fun x => decide (2048 ≤ x.1) }

/-- A flight at a rewind, after which an array's first tile uses bank 0 (05 R182). -/
def Flight.rewound (f : Flight) : Flight := { f.restart with arrays := [] }

/-- A tread's registers and data SRAM cleared (04 R129). -/
def Tread.cleared (x : Tread) : Tread :=
  { x with sreg := [], vreg := [], dmem := [], rngKey := 0, rngIndex := 0, fpflags := 0 }

/-- A stage's flights and treads at the first micro-batch of a step. -/
def clearStage (slot : Nat) (s : State) : State :=
  (s.stageFlights slot).foldl (fun s gf =>
    (s.flightTreads gf).foldl (fun s t => s.setTread t { (s.tread t).cleared with held0 := false, held1 := false })
      (s.setFlight gf (s.flight gf).restart)) s

/-- A halted tread given the micro-batch that a context holds: CTX, MB and STEP (04 R135). -/
def tellTread (c : Nat) (x : Ctx) (t : Nat) (s : State) : State :=
  let y := s.tread t
  if y.st == .halt then
    s.setTread t { y with ctx := BitVec.ofNat 32 c,
                          mb := BitVec.ofNat 32 (place (b2n (x.state == .bwd)) 31 1 + place x.tag 16 4 + x.mbId % 2 ^ 16),
                          step := BitVec.ofNat 32 x.step }
  else s

/-- The treads of a flight started on a context's micro-batch; those of a flight without admission wait for its token
(02 R55). -/
def startFlight (c : Nat) (x : Ctx) (gf : Nat) (s : State) : State :=
  let s := (s.flightTreads gf).foldl (fun s t => tellTread c x t s) s
  if s.power.admitted.contains gf then (s.flightTreads gf).foldl (fun s t => startTread t s) s
  else s.setPower { s.power with starting := (s.power.starting.filter (· != gf)) ++ [gf] }

/-- Every halted tread of the stage started with CTX, MB and STEP set (04 R129). -/
def startTreads (slot c : Nat) (s : State) : State :=
  let x := s.ctx c
  (s.stageFlights slot).foldl (fun s gf => startFlight c x gf s) s

/-- SEQ_STATUS, SEQ_CURRENT and SEQ_STEP at a micro-batch's start. -/
def showStart (slot c : Nat) (s : State) : State :=
  let x := s.ctx c
  s |> set (Reg.SEQ_STATUS_MB_ID slot) x.mbId |> set (Reg.SEQ_CURRENT_CONTEXT slot) c
    |> set (Reg.SEQ_CURRENT_MB_SEQ slot) x.mbSeq |> set (Reg.SEQ_STEP_STEP slot) x.step

/-- The outbound entry of a micro-batch's boundary (R256). -/
def State.boundaryEntry (s : State) (p : Nat) (t : StageCfg) (c : Nat) (bwd : Bool) : List (Nat × Entry) :=
  let x := s.ctx c
  let n := if bwd then t.bwdOut else t.fwdOut
  let o := if bwd then ((s.imageOf p).prog t.slot 0).fwdOut else 0
  if !namesLanding n then []
  else [(n, { mbId := x.mbId, flags := x.tag + 16 * b2n bwd, pass := 0, src := t.id, mbSeq := x.mbSeq, step := x.step,
              payload := if t.quota = 0 then 0 else s.own (x.handle + o), aux := 0 })]

/-- The micro-batch after one of a step. -/
def nextMb (t : StageCfg) (step seq : Nat) : Nat × Nat := if seq + 1 < t.mbPerStep then (step, seq + 1) else (step + 1, 0)

/-- A stage's expected forward, backward and ring messages set to the start of a step. -/
def beginStep (p step : Nat) (s : State) : State :=
  (s.imageOf p).stages.foldl (fun s t =>
    s.setStage t.slot { s.stage t.slot with fStep := step, fSeq := 0, bStep := step, bSeq := 0 }
      |> setRed t.slot { s.red t.slot with rStep := step, rb := 0, rs := 0, rh := 0, gStep := step, gatExp := [] }) s

/-- Whether every bucket of the previous step has left its bucket area (08 R285, R289); a stage without buckets has none to
leave. -/
def State.bucketsLeft (s : State) (slot : Nat) : Bool :=
  match s.slotPart slot with
  | none => true
  | some p =>
    let n := ((s.imageOf p).buckets slot).length
    let d := s.red slot
    n == 0 || d.step == 0 || (decide (n ≤ d.mb) && d.updStep == d.step && decide (n ≤ d.ub))

end Sys2Proof.Machine
end

