-- ==== Sys2Proof/Machine/RingOps.lean ====
section
/-!
DEFINITION. The reduction ring, the update and the gather of a stage as shared operations (08 R286 to R309).
-/
namespace Sys2Proof.Machine
open State

/-! Undercroft scratch (09 R323, R331). -/

/-- What the work of a partition leaves in an undercroft's scratch. -/
def holdScratch (u p : Nat) (l : List Byte) (s : State) : State :=
  s.setUc u { s.uc u with scratch := (l.take (2 ^ 22)).zipIdx.foldl (fun m (b, i) => tset 0 m i b) [], user := p + 1 }

/-- The eight registers of an update group as the undercroft holds them, and the group in scratch. -/
def holdRegs (u p : Nat) (v : List (List Nat)) (s : State) : State :=
  let s := s.setUc u { s.uc u with v := (v.zipIdx.flatMap fun (l, i) =>
    (l.zipIdx.filter fun x => x.1 != 0).map fun (x, n) => (1024 * i + n, x)) }
  holdScratch u p (v.flatMap wordsLe) s

/-- The scratch that a partition's work holds cleared, with the registers (09 R331). -/
def clearScratch (p : Nat) (s : State) : State :=
  (upFrom 0 16).foldl (fun s u =>
    let x := s.uc u
    if x.user = p + 1 then s.setUc u { x with v := [], scratch := [], user := 0 } else s) s

/-! Buckets, shards and segments (R286 to R289). -/

/-- Elements of a bucket and of one shard, and the shard's bytes. -/
def Bucket.elems (b : Bucket) : Nat := b.bytes / 4
def shardElems (g : RingCfg) (b : Bucket) : Nat := b.elems / max 1 g.r
def shardBytes (g : RingCfg) (b : Bucket) : Nat := 4 * shardElems g b
/-- Segments of a shard. -/
def segCount (g : RingCfg) (b : Bucket) : Nat := (shardBytes g b + g.seg - 1) / max 1 g.seg
/-- Bytes of segment `i`. -/
def segLen (g : RingCfg) (b : Bucket) (i : Nat) : Nat := min g.seg (shardBytes g b - i * g.seg)
/-- Class-0 offset of segment `i` of shard `k` in the bucket area. -/
def segAt (g : RingCfg) (b : Bucket) (k i : Nat) : Nat := b.area + k * shardBytes g b + i * g.seg

/-- The shard that position `pos` carries at hop `h`. -/
def hopShard (g : RingCfg) (h : Nat) : Nat := (g.pos + 2 * g.r - 1 - h) % max 1 g.r

def noBucket : Bucket := ⟨0, 0, 0, 0, 0, 0, 0⟩
def noRing : RingCfg := ⟨0, 0, 1, 0, 0, 0, 0, 4096, 0⟩

/-- A stage with buckets: partition, image, ring descriptor, buckets. -/
def withRing (slot : Nat) (f : Nat → Rigging → RingCfg → List Bucket → State → State) (s : State) : State :=
  match s.slotPart slot with
  | none => s
  | some p =>
    let r := s.imageOf p
    match r.ring? slot with
    | none => s
    | some g => f p r g (r.buckets slot) s

/-- Whether a stage's ring may work. -/
def State.ringRuns (s : State) (p slot : Nat) : Bool := !(s.rig p).winding && !(s.red slot).stopped

/-- Pairs of bytes as words, and words as bytes. -/
def pairsOf : Nat → List Byte → List Nat
  | 0, _ => []
  | n + 1, l => ofLe (l.take 4) :: pairsOf n (l.drop 4)

/-- Two lists of pairs added on their widened values, and whether any sum is not finite (R289, R293). -/
def addPairLists (a b : List Nat) : List Nat × Bool :=
  let x := List.zipWith (fun x y => (fadd (ofPair x) (ofPair y)).v) a b
  (x.map pairOf, x.any fun v => !isFinite v)

/-- Segments before bucket `b` of a step. -/
def segsBefore (g : RingCfg) (bs : List Bucket) (b : Nat) : Nat := ((bs.take b).map (segCount g)).sum
/-- Bucket and segment of the `n`th segment of a step. -/
def segPlace (g : RingCfg) (bs : List Bucket) (n : Nat) : Nat × Nat :=
  let b := ((upFrom 0 bs.length).find? fun b => decide (n < segsBefore g bs (b + 1))).getD bs.length
  (b, n - segsBefore g bs b)

/-! Messages. -/

/-- A RING_DATA body: fields, then the segment. -/
def RingMsg.body (m : RingMsg) : List Byte :=
  leBytes 8 m.step ++ leBytes 2 m.bucket ++ leBytes 2 (m.hop % 2 ^ 15 + 2 ^ 15 * b2n m.gather) ++ leBytes 4 m.seg
    ++ List.replicate 16 0 ++ m.data

def ringMsgOf (m : List Byte) : RingMsg :=
  let h := mAt m 10 2
  { gather := bit h 15, step := mAt m 0 8, bucket := mAt m 8 2, hop := h % 2 ^ 15, seg := mAt m 12 4,
    data := (mBody m).drop 32 }

def stageId (r : Rigging) (slot : Nat) : Nat := ((r.stage? slot).map StageCfg.id).getD 0

def sendRing (p : Nat) (r : Rigging) (g : RingCfg) (m : RingMsg) (s : State) : State :=
  sendJob p g.rope g.vc 0x03 0 0 (stageId r g.slot) m.body s

/-- The rope to PREV_ID: the descriptor's own when it leads there, else the lowest rope to that peer (log 51). -/
def State.prevRope (s : State) (g : RingCfg) : Nat :=
  if g.prev = g.next then g.rope
  else ((upFrom 0 18).find? fun k => s.on (Reg.ROPE_PEER_VALID k) && s.get (Reg.ROPE_PEER_PEER_ID k) == g.prev).getD g.rope

/-- A freed slot's credit returned to PREV_ID (R291). -/
def returnRingCredit (p : Nat) (r : Rigging) (g : RingCfg) (gather : Bool) (s : State) : State :=
  sendJob p (s.prevRope g) g.vc 0x04 0 0 (stageId r g.slot) (leBytes 4 (b2n gather) ++ leBytes 4 1) s

/-- The stage that a ring message names on a rope and channel (10 R373). -/
def State.ringTarget (s : State) (k v : Nat) (m : List Byte) : Option Nat :=
  match (s.vchan k v).part with
  | none => none
  | some p =>
    let r := s.imageOf p
    if r.jobId ≠ mJob m then none
    else ((r.stages.filter fun t => t.id == mTarget m % 1024).map StageCfg.slot).find? fun n =>
      match r.ring? n with
      | some g => g.vc == v && decide (1 < g.r) && (g.rope == k || s.prevRope g == k)
      | none => false

/-! The inbound area (R291): two segment slots of the reduction pool, then two of the gather pool. -/

/-- Class-0 offset of slot `i` of a pool. -/
def slotAt (g : RingCfg) (gather : Bool) (i : Nat) : Nat := g.inBase + (2 * b2n gather + i) * g.seg

/-- A message taken into the slot of its pool that the messages held leave free. -/
def intoSlot (g : RingCfg) (held : List RingMsg) (m : RingMsg) : RingMsg :=
  { m with data := [], slot := if held.any fun x => x.slot == 0 then 1 else 0 }

/-! Reduction (R289). -/

/-- Whether the next bucket may enter: it is complete, and the ring has done with every bucket before it (R288). -/
def Red.mayEnter (d : Red) (bs : List Bucket) : Bool :=
  d.entered == d.mb && (match bs[d.entered]? with
    | some b => d.step != 0 && decide (b.tiles ≤ tget 0 d.drains b.num)
    | none => false)

/-- The position after hop `h` of a segment. -/
def Red.afterHop (d : Red) (g : RingCfg) (b : Bucket) : Red :=
  if d.mh + 1 < g.r then { d with mh := d.mh + 1 }
  else if d.ms + 1 < segCount g b then { d with ms := d.ms + 1, mh := 0 }
  else { d with mb := d.mb + 1, ms := 0, mh := 0 }

/-- The segment received in slot `i` of the reduction pool added to this package's own, as pairs, and whether a sum is not
finite; none when a line is lost. -/
def addOwn (bad : Tbl Nat) (g : RingCfg) (b : Bucket) (k seg i : Nat) (s : State) : Option (List Byte × Bool) × State :=
  let n := segLen g b seg
  match memRead .engine bad (slotAt g false i) n s with
  | (none, s) => (none, s)
  | (some recv, s) => match memRead .engine bad (segAt g b k seg) n s with
    | (none, s) => (none, s)
    | (some own, s) =>
      let (x, nf) := addPairLists (pairsOf (n / 4) recv) (pairsOf (n / 4) own)
      (some (wordsLe x, nf), s)

/-- A non-finite ring sum clears the step's finite flag (R293). -/
def gateRing (p slot bucket : Nat) (nf : Bool) (s : State) : State :=
  if nf then clearFinite p (s.red slot).step 1 slot bucket s else s

/-- A segment's total written once its last message is here. -/
def settleTotal (bad : Tbl Nat) (p : Nat) (r : Rigging) (g : RingCfg) (bs : List Bucket) (s : State) : State :=
  let d := s.red g.slot
  let b := lget noBucket bs d.mb
  match d.redIn with
  | m :: rest =>
    if d.mh + 1 ≠ g.r || d.entered ≤ d.mb || m.step ≠ d.step then s
    else match addOwn bad g b g.pos d.ms m.slot s with
      | (none, s) => s
      | (some (x, nf), s) =>
        let (ok, s) := memWrite .engine bad (segAt g b g.pos d.ms) x s
        if !ok then s
        else
          let last := decide (segCount g b ≤ d.ms + 1)
          s.setRed g.slot ({ s.red g.slot with redIn := rest }.afterHop g b)
            |> gateRing p g.slot b.num nf |> returnRingCredit p r g false
            |> (fun s => if last then bump (Reg.RED_COUNTS_BUCKETS g.slot) 1 s else s)
  | [] => s

/-! The step of updates and gathers (R262, R297). -/

/-- Whether every bucket of the step being updated has been gathered here. -/
def State.gathered (s : State) (g : RingCfg) (bs : List Bucket) : Bool :=
  bs.all fun b => decide (segCount g b * max 1 g.r ≤ tget 0 (s.red g.slot).gatWritten b.num)

/-- Updates go on to the ring's step once the step before it is resolved. -/
def advanceUpd (p slot : Nat) (s : State) : State :=
  let d := s.red slot
  if d.step ≠ 0 && d.updStep ≠ d.step && d.step ≤ (s.svc p).decided + 1 then
    s.setRed slot { d with updStep := d.step, ub := 0, ug := 0, du := [], wu := [], gatOut := [], gatWritten := [], gatSent := [] }
  else s

/-- The count c on which the update of a step builds. -/
def State.baseCount (s : State) (p step : Nat) : Nat := (s.part p).countAt (step - 1)

/-- The slot of count c + 1 marked BUILDING (07 R261, R262). -/
def markBuilding (p c : Nat) (s : State) : State :=
  let x := s.part p
  s.setPart p { x with slots := tset (VerState.free, 0) x.slots ((c + 1) % max 1 (s.imageOf p).maxLive) (.building, c + 1) }

/-! The gather form (R305, R306). -/

/-- Elements of a bucket below it that name the same UPDATE entry: all of them, and this package's own. -/
def elemsBefore (bs : List Bucket) (b : Bucket) : Nat :=
  ((bs.filter fun x => x.upd == b.upd && decide (x.num < b.num)).map Bucket.elems).sum
def ownBefore (g : RingCfg) (bs : List Bucket) (b : Bucket) : Nat :=
  ((bs.filter fun x => x.upd == b.upd && decide (x.num < b.num)).map (shardElems g)).sum
/-- E_u of a bucket's entry. -/
def ownAll (g : RingCfg) (bs : List Bucket) (b : Bucket) : Nat :=
  ((bs.filter fun x => x.upd == b.upd).map (shardElems g)).sum

/-- Blocks of `n` values. -/
def chunks (n : Nat) : Nat → List Nat → List (List Nat)
  | 0, _ => []
  | k + 1, l => if l.isEmpty then [] else l.take n :: chunks n k (l.drop n)

/-- Values in MXFP8 with one scale for each `blk` of them: codes and scales. -/
def mxForm (blk rnd : Nat) (key : RngKey) (e : Nat) (l : List Nat) : List Nat × List Nat :=
  let bs := chunks blk (l.length + 1) l
  let ss := bs.map (mxScale e4m3)
  let codes := l.zipIdx.map fun (x, i) => mxElem e4m3 (lget 0 ss (i / blk)) (rndOf rnd false key (e + i)) x
  (codes, ss)

/-- The key of an update's rounding (R302). -/
def updKey (r : Rigging) (x : Upd) (k step : Nat) : RngKey := ⟨r.jobSeed, 0xFFF0, x.tensor + k, step⟩

/-- The gather form of a segment's new master values; the elements first, then the scales (log 52). -/
def gatherForm (r : Rigging) (x : Upd) (step e : Nat) (masters : List Nat) : List Byte :=
  if x.gatherFmt = 0 then masters.flatMap fun m => leBytes 2 (m / 65536)
  else
    let (c, ss) := mxForm (if x.squares then 1024 else 32) x.rnd (updKey r x 7 step) e (masters.map ofPair)
    (c ++ ss).map (BitVec.ofNat 8)

/-- Bytes of the gather form of `n` elements. -/
def formLen (x : Upd) (n : Nat) : Nat :=
  if x.gatherFmt = 0 then 2 * n else n + (if x.squares then (n + 1023) / 1024 else (n + 31) / 32)

/-- The BF16 elements of a gather form of `n` elements (06 R223). -/
def widenForm (x : Upd) (n : Nat) (l : List Byte) : List Byte :=
  if x.gatherFmt = 0 then fit 0 (2 * n) l
  else
    let blk := if x.squares then 1024 else 32
    (upFrom 0 n).flatMap fun i =>
      leBytes 2 (mxValue bf16 e4m3 (lget 0 l (n + i / blk)).toNat (lget 0 l i).toNat)

/-- A gathered segment of shard `k` written into its version slot, which this makes BUILDING. -/
def writeGather (bad : Tbl Nat) (p : Nat) (r : Rigging) (g : RingCfg) (b : Bucket) (k i : Nat) (form : List Byte) (s : State) :
    Bool × State :=
  let c := s.baseCount p (s.red g.slot).updStep
  let e := k * shardElems g b + i * (g.seg / 4)
  let x := (r.upd? b.upd).getD (updOf 0)
  let (ok, s) := memWrite .engine bad (r.versionAt b.slotOff (c + 1) + 2 * e) (widenForm x (segLen g b i / 4) form) s
  if !ok then (false, s)
  else
    let d := s.red g.slot
    (true, s.setRed g.slot { d with gatWritten := tset 0 d.gatWritten b.num (tget 0 d.gatWritten b.num + 1) }
      |> markBuilding p c)

/-- The oldest gather message held here written and, before its last hop, made ready to go on. -/
def settleGather (bad : Tbl Nat) (p : Nat) (r : Rigging) (g : RingCfg) (bs : List Bucket) (s : State) : State :=
  let s := advanceUpd p g.slot s
  let d := s.red g.slot
  match d.gatIn with
  | m :: rest =>
    if m.step ≠ d.updStep then s
    else
      let b := lget noBucket bs m.bucket
      let x := (r.upd? b.upd).getD (updOf 0)
      match memRead .engine bad (slotAt g true m.slot) (formLen x (segLen g b m.seg / 4)) s with
      | (none, s) => s
      | (some form, s) =>
        let (ok, s) := writeGather bad p r g b (hopShard g m.hop) m.seg form s
        if !ok then s
        else
          let d := s.red g.slot
          s.setRed g.slot { d with gatIn := rest,
                                   gatOut := if m.hop + 2 < g.r then d.gatOut ++ [{ m with hop := m.hop + 1, data := form, slot := 0 }]
                                     else d.gatOut }
            |> returnRingCredit p r g true
  | [] => s

/-- The gather message that leaves next: of the lowest bucket whose messages have not all left. -/
def Red.nextGather (d : Red) (g : RingCfg) (bs : List Bucket) : Option RingMsg :=
  match bs.find? fun b => decide (tget 0 d.gatSent b.num < segCount g b * (g.r - 1)) with
  | none => none
  | some b => d.gatOut.find? fun m => m.bucket == b.num

/-! The order of an undercroft's work (R292, R308). -/

/-- The undercroft that the next addition or reduction message of a ring is work for, if it could be served now. -/
def State.reductionAt (s : State) (g : RingCfg) (bs : List Bucket) : Option Nat :=
  let d := s.red g.slot
  let b := lget noBucket bs d.mb
  let here := match d.redIn with
    | m :: _ => m.step == d.step
    | [] => false
  if g.r ≤ 1 || !(decide (d.mb < d.entered) || d.mayEnter bs) then none
  else if d.mh + 1 < g.r then
    if decide (0 < d.redCr) && (d.mh == 0 || here) then some (s.stackOf (segAt g b (hopShard g d.mh) d.ms)) else none
  else if here then some (s.stackOf (segAt g b g.pos d.ms)) else none

/-- The undercroft that the next gather message of a ring is work for, one to be written before one to be sent on. -/
def State.gatherAt (s : State) (p : Nat) (r : Rigging) (g : RingCfg) (bs : List Bucket) : Option Nat :=
  let d := s.red g.slot
  let place (b : Bucket) (k i : Nat) : Nat :=
    s.stackOf (r.versionAt b.slotOff (s.baseCount p d.updStep + 1) + 2 * (k * shardElems g b + i * (g.seg / 4)))
  let sends := match d.nextGather g bs with
    | some m => if 0 < d.gatCr then some (place (lget noBucket bs m.bucket) (hopShard g m.hop) m.seg) else none
    | none => none
  match d.gatIn with
  | m :: _ => if m.step = d.updStep then some (place (lget noBucket bs m.bucket) (hopShard g m.hop) m.seg) else sends
  | [] => sends

/-- Whether an undercroft has ring work to serve for some stage, which goes before its update groups (R308). -/
def State.ringFirst (s : State) (u : Nat) : Bool :=
  s.loaded.any fun p =>
    let r := s.imageOf p
    r.stages.any fun t => match r.ring? t.slot with
      | none => false
      | some g => s.ringRuns p t.slot
        && (s.reductionAt g (r.buckets t.slot) == some u || s.gatherAt p r g (r.buckets t.slot) == some u)

/-- A ring stopped by a message out of order (R290). -/
def ringOrder (p slot : Nat) (want found : List Nat) (s : State) : State :=
  s.setRed slot { s.red slot with stopped := true } |> set (Reg.RED_STATUS_WAIT slot) 7
    |> bump (Reg.RED_COUNTS_ORDER_ERRORS slot) 1
    |> raise Ev.ringOrder (stepStamp p (s.red slot).step) ([slot] ++ want ++ found) |> programFault p

/-- A ring message's fields as `RING_ORDER` reports them: step, bucket, hop with G in bit 15, segment. -/
def RingMsg.words (m : RingMsg) : List Nat :=
  [m.step % 2 ^ 32, m.step / 2 ^ 32, m.bucket + 2 ^ 16 * (m.hop % 2 ^ 15 + 2 ^ 15 * b2n m.gather), m.seg]

end Sys2Proof.Machine
end

