-- ==== Sys2Proof/Machine/Stages.lean ====
section
/-!
DEFINITION. Commands of stage sequencers, contexts and landings (07 R242 to R282, R557).
-/
namespace Sys2Proof.Machine
open State

/-- The sequencer waits for a cause of SEQ_STATUS.WAIT_CAUSE (R278). -/
def seqWait (slot cause : Nat) (s : State) : State := s.setStage slot { s.stage slot with wait := cause }

/-! Forward admission (R243, R244, R260, R265). -/

/-- Whether the first two rules of R243 choose a backward. -/
def State.choosesBackward (s : State) (t : StageCfg) : Bool :=
  if t.last then (s.stage t.slot).ring.any fun c => (s.ctx c).state == .stashed
  else namesLanding t.bwdIn && !(s.landing t.bwdIn).ents.isEmpty

/-- The lowest FREE context of a stage. -/
def State.freeCtx? (s : State) (t : StageCfg) : Option Nat :=
  (upFrom t.ctxBase t.ctxCount).find? fun c => (s.ctx c).state == .free

/-- Whether the step of the next forward may be admitted (R260). -/
def State.stepAdmits (s : State) (p : Nat) (r : Rigging) (slot : Nat) : Bool :=
  let v := s.svc p
  (v.state == .running || v.state == .catchup)
    && decide ((s.stage slot).fStep ≤ v.decided + 1 + (if r.schedMode = 1 then r.depth else 0))

/-- The first condition of R244 that a forward does not meet, 0 for none; a prefix that can never fit shows first (R267). -/
def State.forwardWait (s : State) (p : Nat) (r : Rigging) (t : StageCfg) : Nat :=
  if s.stashBlocked r t then 3
  else if namesLanding t.fwdIn && (s.landing t.fwdIn).ents.isEmpty then 1
  else if (s.freeCtx? t).isNone then 2
  else if !s.stashFits r t then 3
  else if !s.stepAdmits p r t.slot then 4
  else if s.on Reg.PWR_STATUS_ADMIT_HELD then 8
  else 0

/-- A forward admitted in context `c`, from entry `e` if one was taken. -/
def startForward (p : Nat) (r : Rigging) (t : StageCfg) (c : Nat) (e : Option Entry) (s : State) : State :=
  let g := s.stage t.slot
  let first := decide (g.fSeq = 0)
  let s := if first then clearStage t.slot s else s
  let (h, _) := if t.quota = 0 then (0, 0) else s.ringStart r t.slot
  let need := if t.quota = 0 then 0 else r.admitNeed t
  let id := match e with
    | some x => x.mbId
    | none => (Config.firstMbId g.fStep g.fSeq).toNat
  let pay := match e with
    | some x => x.payload
    | none => 0
  let x : Ctx := { state := .fwd, slot := t.slot, mbId := id, mbSeq := g.fSeq, step := g.fStep, tag := s.stepTag p g.fStep,
                   handle := h, thr := if t.quota = 0 then 0 else r.fullNeed t.slot, spill := none, inbound := pay,
                   held := need, verified := false, out := 0 }
  let s := s.setCtx c x
  let (fs, fq) := nextMb t g.fStep g.fSeq
  let s := s.setStage t.slot { g with
    mode := .fwd, cur := c, ent := 0, iter := 0, rep := 0, pass := 0, passReady := true,
    ringPay := if t.seqCut then s.own (h + r.kvAt t.slot) else 0, ringAux := 0,
    taken := if e.isSome then [t.fwdIn] else [], ringTaken := false, outs := s.boundaryEntry p t c false, pushed := false,
    wait := 0, fStep := fs, fSeq := fq, ring := g.ring ++ [c], head := if t.quota = 0 then g.head else h + need,
    layer := 0, pay := pay, records := [] }
  s |> showStart t.slot c |> startTreads t.slot c

/-- FORWARD_ADMIT: at a boundary, a forward micro-batch is admitted once the conditions of R244 hold. -/
def execForwardAdmit (slot : Nat) (s : State) : Result :=
  perform (slotOk slot) (withStage slot fun p r t s =>
    if (s.stage slot).mode != .idle || !s.seqRuns p slot || s.choosesBackward t then s
    else
      let s := noteBlocked p r t s
      let w := s.forwardWait p r t
      if w ≠ 0 then seqWait slot w s
      else match s.freeCtx? t with
        | none => s
        | some c =>
          let g := s.stage slot
          if namesLanding t.fwdIn then
            takeEntry p slot t.fwdIn g.fStep g.fSeq 0 false false (fun e s => startForward p r t c (some e) s) s
          else startForward p r t c none s) s

/-! Backward start (R243, R245, R266, R272, R285, 09 R328). -/

/-- A cut stage's second dKV extent filled with +0 before pass 0 (R272), by writes of the sequencer. -/
def clearDkv (p : Nat) (r : Rigging) (slot c : Nat) (s : State) : State :=
  match r.cut? slot with
  | none => s
  | some k =>
    let o := s.own ((s.ctx c).handle + r.dkvAt slot 1)
    let (st, s) := writeParts (.sequencer slot) [] (lineParts o k.dkvLen) (List.replicate k.dkvLen 0) s
    seqAccess p slot st s

/-- A backward started in context `c`. -/
def startBackward (p : Nat) (r : Rigging) (t : StageCfg) (c : Nat) (e : Option Entry) (s : State) : State :=
  let x := s.ctx c
  let g := s.stage t.slot
  let pay := match e with
    | some y => y.payload
    | none => 0
  let s := s.setCtx c { x with state := .bwd }
  let s := match x.spill with
    | some _ => bump (Reg.SEQ_COUNTS_RECOMPUTES t.slot) 1 s
    | none => s
  let s := if x.mbSeq + 1 = t.mbPerStep then
      s.setRed t.slot { s.red t.slot with step := x.step, drains := [], entered := 0, mb := 0, ms := 0, mh := 0 }
    else s
  let (bs, bq) := nextMb t x.step x.mbSeq
  let s := s.setStage t.slot { g with
    mode := if x.spill.isSome then .recompute else .bwd, cur := c,
    ent := match x.spill with
      | some R => (lget noLayer (r.prog t.slot 0).layers R).first
      | none => 0
    iter := 0, rep := 0, pass := 0, passReady := true,
    ringPay := if t.seqCut then s.own (x.handle + r.dkvAt t.slot 1) else 0,
    ringAux := if t.seqCut then s.own (x.handle + r.kvAt t.slot) else 0,
    taken := if e.isSome then [t.bwdIn] else [], ringTaken := false, outs := s.boundaryEntry p t c true, pushed := false,
    wait := 0, bStep := bs, bSeq := bq, pay := pay, records := [] }
  let s := showStart t.slot c (if t.seqCut then clearDkv p r t.slot c s else s)
  if s.seqRuns p t.slot then startTreads t.slot c s else s

/-- The context that the next backward uses: the oldest STASHED one, or that of the expected micro-batch. -/
def State.backwardCtx (s : State) (t : StageCfg) : Option Nat :=
  let g := s.stage t.slot
  g.ring.find? fun c => (s.ctx c).state == .stashed
    && (t.last || ((s.ctx c).step == g.bStep && (s.ctx c).mbSeq == g.bSeq))

/-- The oldest stored context's backward, or the wait that holds it. -/
def backwardOf (p slot c : Nat) (r : Rigging) (t : StageCfg) (s : State) : State :=
  let g := s.stage slot
  if !(s.ctx c).verified then seqWait slot 3 s
  else if (s.ctx c).mbSeq + 1 = t.mbPerStep && !s.bucketsLeft slot then seqWait slot 9 s
  else if t.last then startBackward p r t c none s
  else takeEntry p slot t.bwdIn g.bStep g.bSeq 0 true false (fun e s => startBackward p r t c (some e) s) s

/-- BACKWARD_START: at a boundary, the backward that R243 chooses starts once its context is verified and, for a step's last
micro-batch, the previous step's buckets have left (R285). A halted job starts none. -/
def execBackwardStart (slot : Nat) (s : State) : Result :=
  perform (slotOk slot) (withStage slot fun p r t s =>
    let g := s.stage slot
    if g.mode != .idle || !s.seqRuns p slot || !s.choosesBackward t || (s.svc p).state == .halted then s
    else
      match s.backwardCtx t with
      | none => if t.last then s else checkEntry p slot t.bwdIn g.bStep g.bSeq 0 true false s
      | some c => backwardOf p slot c r t s) s

/-- STASH_VERIFY: the undercrofts check the stored layers of the oldest STASHED context that is not verified; a lost line
makes it spilled from layer 0 (09 R327, R328). -/
def execStashVerify (slot : Nat) (bad : List (Nat × Nat)) (s : State) : Result :=
  perform (slotOk slot) (withStage slot fun _ r t s =>
    match (s.stage slot).ring.find? fun c => (s.ctx c).state == .stashed && !(s.ctx c).verified with
    | none => s
    | some c =>
      let x := s.ctx c
      let o := prefixOf r slot (r.prog slot 0)
      let ok (s : State) : State := s.setCtx c { s.ctx c with verified := true }
      if t.quota = 0 || x.thr ≤ o then ok s
      else
        let (good, s) := checkLines (if t.seqCut then .other else .verify) bad (linesOf (x.handle + o) (x.thr - o)) s
        if good then ok s
        else if t.seqCut then s
        else ok (s.setCtx c { s.ctx c with spill := some 0, thr := o })) s

/-! The program (R251, R265, R266, R268, R271, R283). -/

/-- Whether the place stands at a cut program's pass body with the pass not ready, or after it with passes left. -/
def State.passWaits (s : State) (r : Rigging) (slot : Nat) (q : Prog) : Bool :=
  let g := s.stage slot
  match r.cut? slot with
  | none => false
  | some k =>
    (decide (q.bodyAt ≤ g.ent) && decide (g.ent ≤ q.bodyEnd) && !g.passReady)
      || (g.ent == q.bodyEnd && decide (g.pass < k.count))

/-- The end of a program: a recompute goes on with the backward once the flights are quiet; else every descriptor is
pushed. -/
def endProgram (slot : Nat) (s : State) : State :=
  let g := s.stage slot
  if g.mode == .recompute then
    if s.flightsQuiet slot then s.setStage slot { g with mode := .bwd, ent := 0, iter := 0, rep := 0 } else s
  else s.setStage slot { g with pushed := true, wait := 0 }

/-- SEQ_DESCRIPTOR_PUSH: the sequencer expands the next entry of its program and pushes one descriptor, or passes over an
entry that is skipped. -/
def execSeqDescriptorPush (slot : Nat) (s : State) : Result :=
  perform (slotOk slot) (withStage slot fun p r t s =>
    let g := s.stage slot
    if g.mode == .idle || g.pushed || !s.seqRuns p slot then s
    else
      let q := r.prog slot (if g.mode == .bwd then 1 else 0)
      if s.passWaits r slot q then seqWait slot 9 s
      else if q.entries.length ≤ g.ent then endProgram slot s
      else
        let e := lget noEntry q.entries g.ent
        let s := if g.mode == .fwd && (lget noLayer q.layers g.layer).first == g.ent && decide (g.layer < q.layers.length)
            && g.rep == 0 && g.iter == 0 then storeLayer p r t g.layer s else s
        if s.skipped p t q e then s.setStage slot { (s.stage slot).nextEntry q e with wait := 0 }
        else match s.roleFlight p e.role 0 with
          | none => s
          | some gf =>
            if 64 ≤ (s.flight gf).queue.length then seqWait slot 7 s
            else
              let s := pushDesc gf (s.expand p slot q e) s
              let h := s.stage slot
              s.setStage slot (if h.rep + 1 < e.count then { h with rep := h.rep + 1, wait := 0 }
                else { h.nextEntry q e with wait := 0 })) s

/-- The RING entry that follows pass `j` (R271, R272). -/
def ringEntry (t : StageCfg) (x : Ctx) (j : Nat) (bwd final : Bool) (pay aux : Nat) : Entry :=
  { mbId := x.mbId, flags := x.tag + 16 * b2n bwd + 32 + 64 * b2n final, pass := j + 1, src := t.id, mbSeq := x.mbSeq,
    step := x.step, payload := pay, aux := aux }

/-- The end of pass `j`: its RING_IN entry retires and its RING entry is due. -/
def endPass (r : Rigging) (t : StageCfg) (k : Cut) (s : State) : State :=
  let g := s.stage t.slot
  let x := s.ctx g.cur
  let j := g.pass
  let bwd := g.mode == .bwd
  let s := if g.ringTaken then retireEntry k.ringIn s else s
  let out : List (Nat × Entry) :=
    if bwd then [(k.ringOut, ringEntry t x j true (j + 1 == k.count) (s.own (x.handle + r.dkvAt t.slot j)) g.ringAux)]
    else if j + 2 ≤ k.count then [(k.ringOut, ringEntry t x j false false g.ringPay 0)] else []
  s.setStage t.slot { s.stage t.slot with outs := (g.outs.filter fun o => o.2.ring) ++ out ++ (g.outs.filter fun o => !o.2.ring),
                                          ringTaken := false, pass := j + 1,
                                          passReady := !bwd && j + 1 == k.count, wait := 0 }

/-- The beginning of a pass after the first, once the RING entry of the pass before it is pushed: the next RING_IN entry is
taken (R271, R272). -/
def beginPass (p : Nat) (t : StageCfg) (k : Cut) (q : Prog) (s : State) : State :=
  let g := s.stage t.slot
  let x := s.ctx g.cur
  let bwd := g.mode == .bwd
  if g.outs.any fun o => o.2.ring then seqWait t.slot 6 s
  else if bwd && 2 ≤ g.pass && g.pass < k.count && 1 < (s.landing k.ringOut).owners.length then seqWait t.slot 9 s
  else if (s.landing k.ringIn).ents.isEmpty then seqWait t.slot 9 s
  else takeEntry p t.slot k.ringIn x.step x.mbSeq g.pass bwd true (fun e s =>
    let h := s.stage t.slot
    let last := h.pass == k.count
    s.setStage t.slot { h with
      ringPay := e.payload, ringAux := if last then h.ringAux else e.aux, ringTaken := !last, passReady := true, wait := 0,
      taken := if last then h.taken ++ [k.ringIn] else h.taken, ent := if last then h.ent else q.bodyAt }) s

/-- RING_PASS: a cut stage ends the pass whose body has run, or takes the entry that begins the next one. -/
def execRingPass (slot : Nat) (s : State) : Result :=
  perform (slotOk slot) (withStage slot fun p r t s =>
    let g := s.stage slot
    let q := r.prog slot (if g.mode == .bwd then 1 else 0)
    match r.cut? slot with
    | none => s
    | some k =>
      if g.mode == .idle || g.mode == .recompute || !s.seqRuns p slot || g.ent ≠ q.bodyEnd then s
      else if !g.passReady then beginPass p t k q s
      else if g.pass < k.count && s.flightsQuiet slot then endPass r t k s
      else s) s

/-! Boundaries and landings (R242, R253, R254, R256, R258). -/

/-- The context whose stash an outbound entry names, plus 1: the current one for an address in its own stash. -/
def State.entryOwner (s : State) (slot : Nat) (e : Entry) : Nat :=
  let g := s.stage slot
  let x := s.ctx g.cur
  if x.held ≠ 0 && decide (s.own x.handle ≤ e.payload) && decide (e.payload < s.own x.handle + x.held) then g.cur + 1
  else if e.ring then 0 else g.cur + 1

/-- LANDING_PUSH: the next outbound entry of a stage is pushed once a credit is available and, for a boundary's entry, the
data it names is accepted. -/
def execLandingPush (slot : Nat) (s : State) : Result :=
  perform (slotOk slot) (withStage slot fun p _ _ s =>
    let g := s.stage slot
    match g.outs with
    | [] => s
    | (n, e) :: rest =>
      if !s.seqRuns p slot then s
      else if !e.ring && !(g.pushed && s.flightsQuiet slot && s.treadsHalted slot) then s
      else if !s.landReady n then seqWait slot 6 s
      else
        let o := s.entryOwner slot e
        let s := pushEntry n o e s
        s.setStage slot { s.stage slot with outs := rest, wait := 0 }) s

/-- Banks that code holds pass back to their arrays at the boundary (04 R137). -/
def returnBanks (slot : Nat) (s : State) : State :=
  (s.stageFlights slot).foldl (fun s gf =>
    let f := s.flight gf
    let s := s.setFlight gf { f with
      arrays := tmap ArrayData.init (fun _ a => { a with code0 := false, code1 := false }) f.arrays }
    (s.flightTreads gf).foldl (fun s t => s.setTread t { s.tread t with held0 := false, held1 := false }) s) s

/-- A context at its backward's boundary. -/
def endBackward (c : Nat) (s : State) : State :=
  if (s.ctx c).out = 0 then freeCtx c s else s.setCtx c { s.ctx c with state := .draining }

/-- MICRO_BATCH_BOUNDARY: every descriptor pushed, every tile drained and accepted, every tread in HALT and the outbound
entry pushed: entries retire, the context moves on, the stage is balanced, and the sequencer may choose again. -/
def execMicroBatchBoundary (now : W64) (slot : Nat) (s : State) : Result :=
  perform (slotOk slot) (fun s => withStage slot (fun p _ _ s =>
    let g := s.stage slot
    if g.mode == .idle || g.mode == .recompute || !g.pushed || !g.outs.isEmpty || !s.flightsQuiet slot
      || !s.treadsHalted slot || s.stageStopped slot then s
    else
      let c := g.cur
      let s := g.taken.foldl (fun s n => retireEntry n s) s
      let s := returnBanks slot s
      let s := balanceUpdate slot c s
      let s := s.setStage slot { s.stage slot with mode := .idle, taken := [], wait := 0 }
      let s := if g.mode == .fwd then s.setCtx c { s.ctx c with state := .stashed } else endBackward c s
      freeVersions p s) (at_ now s)) s

/-! Writes. -/

/-- Whether a requester may write a register of control space: the physical function and the firmware always, a control
core within its grants, a virtual function never. -/
def State.mayWrite (s : State) (w : Who) (o : Nat) : Bool :=
  match w with
  | .pf | .firmware => true
  | .core p => s.controlRight p 0 true o 4
  | .vf _ => false

/-- INGEST_PUSH: 32 bytes written to the push window of an ingest landing; at any other landing the write ends with CLASS
(R557). -/
def execIngestPush (n : Nat) (entry : List Byte) (s : State) : Result :=
  perform (landOk n) (fun s =>
    if s.ingestAt n then s |> ingestPush n (entryOf (fit 0 32 entry)) |> put (.status FabSt.ok)
    else s.put (.status FabSt.class_)) s

/-- A landing's limit changed (R258): the difference goes to the producer's counter, or to the peer as one adjustment. -/
def setLandLimit (n v : Nat) (s : State) : State :=
  match s.landCfg? n with
  | none => s
  | some (p, c) =>
    let l := s.landing n
    let v := min v 256
    let d : Int := (v : Int) - l.limit
    if c.kind = 1 then s
    else if c.kind = 0 then s.setLanding n { l with limit := v, credit := l.credit + d }
    else sendCredit p n c 2 d (s.setLanding n { l with limit := v })

/-- LAND_LIMIT_WRITE: a write of LAND_LIMIT. -/
def execLandLimitWrite (who : Who) (n : Nat) (value : W32) (s : State) : Result :=
  perform (landOk n) (whenUp fun s =>
    if s.mayWrite who (Reg.LAND_LIMIT_LIMIT n).base then setLandLimit n (bits value.toNat 0 9) s else s) s

/-- SEQ_QUOTA_WRITE: a write of SEQ_QUOTA; nothing held is freed (R267). -/
def execSeqQuotaWrite (who : Who) (slot : Nat) (value : W32) (s : State) : Result :=
  perform (slotOk slot) (whenUp fun s =>
    if s.mayWrite who (Reg.SEQ_QUOTA_QUOTA_MIB slot).base then
      withStage slot (fun p r t s => if (s.stage slot).mode == .idle then noteBlocked p r t s else s)
        (s.set (Reg.SEQ_QUOTA_QUOTA_MIB slot) value.toNat)
    else s) s

end Sys2Proof.Machine
end

