-- ==== Sys2Proof/Machine/Rings.lean ====
section
/-!
DEFINITION. Commands of the reduction rings, the updates and the schedule engine (08 R288 to R319).
-/
namespace Sys2Proof.Machine
open State

/-- A reduction message sent: its credit taken, the slot of the message it was added from freed, and the bucket entered with
its first message (R288, R291). -/
def sentReduction (p : Nat) (r : Rigging) (g : RingCfg) (b : Bucket) (x : List Byte) (nf : Bool) (s : State) : State :=
  let d := s.red g.slot
  let s := s.setRed g.slot ({ d with redCr := d.redCr - 1, entered := max d.entered (d.mb + 1),
                                     redIn := if d.mh = 0 then d.redIn else d.redIn.drop 1 }.afterHop g b)
    |> sendRing p r g { gather := false, step := d.step, bucket := b.num, hop := d.mh, seg := d.ms, data := x }
    |> gateRing p g.slot b.num nf
  if d.mh = 0 then s else returnRingCredit p r g false s

/-- The next reduction message formed and sent; false when there is none or it must wait. -/
def sendReduction (bad : Tbl Nat) (p : Nat) (r : Rigging) (g : RingCfg) (bs : List Bucket) (s : State) : Bool × State :=
  let d := s.red g.slot
  let b := lget noBucket bs d.mb
  if g.r ≤ 1 || !(decide (d.mb < d.entered) || d.mayEnter bs) || g.r ≤ d.mh + 1 || d.redCr ≤ 0 then (false, s)
  else
    let k := hopShard g d.mh
    if d.mh = 0 then
      match memRead .engine bad (segAt g b k d.ms) (segLen g b d.ms) s with
      | (none, s) => (true, s)
      | (some l, s) => (true, sentReduction p r g b l false s)
    else match d.redIn with
      | m :: _ =>
        if m.step ≠ d.step then (false, s)
        else match addOwn bad g b k d.ms m.slot s with
          | (none, s) => (true, s)
          | (some (x, nf), s) => (true, sentReduction p r g b x nf s)
      | [] => (false, s)

/-- BUCKET_ENTER: the next bucket, complete here, enters the ring with its first message, which needs a credit. With R = 1 the
bucket's own elements are its total, which is checked (R288, R289, R293). -/
def execBucketEnter (slot : Nat) (bad : List (Nat × Nat)) (s : State) : Result :=
  perform (slotOk slot) (withRing slot fun p r g bs s =>
    let d := s.red slot
    if !s.ringRuns p slot || !d.mayEnter bs then s
    else if g.r ≠ 1 then (sendReduction bad p r g bs s).2
    else
      let b := lget noBucket bs d.entered
      match memRead .engine bad b.area b.bytes s with
      | (none, s) => s
      | (some l, s) =>
        let nf := (pairsOf b.elems l).any fun x => !isFinite (ofPair x)
        let d := s.red slot
        s.setRed slot { d with entered := d.entered + 1, mb := d.mb + 1 }
          |> gateRing p slot b.num nf |> bump (Reg.RED_COUNTS_BUCKETS slot) 1) s

/-- RING_MESSAGE_SEND: the next message of a stage's ring leaves, a reduction message before a gather message (R289, R291,
R305). -/
def execRingMessageSend (slot : Nat) (bad : List (Nat × Nat)) (s : State) : Result :=
  perform (slotOk slot) (withRing slot fun p r g bs s =>
    if !s.ringRuns p slot then s
    else
      let (did, s) := sendReduction bad p r g bs s
      if did then settleTotal bad p r g bs s
      else
        let s := s |> settleTotal bad p r g bs |> settleGather bad p r g bs
        let d := s.red slot
        match d.nextGather g bs with
        | none => s
        | some m =>
          if d.gatCr ≤ 0 then s
          else s.setRed slot { d with gatCr := d.gatCr - 1, gatOut := d.gatOut.erase m,
                                      gatSent := tset 0 d.gatSent m.bucket (tget 0 d.gatSent m.bucket + 1) }
            |> sendRing p r g m) s

/-- The next gather message that may come: its step, and for each hop its bucket and segment; all of one bucket come before
the next bucket's. -/
def Red.gatherWant (d : Red) (g : RingCfg) (bs : List Bucket) (h : Nat) : Nat × Nat × Bool :=
  let at_ (h : Nat) : Nat × Nat := segPlace g bs (tget 0 d.gatExp h)
  let low := (upFrom 0 (g.r - 1)).foldl (fun b h => min b (at_ h).1) bs.length
  ((at_ h).1, (at_ h).2, (at_ h).1 == low && decide (h + 1 < g.r))

/-- A reduction message taken into its segment slot, or the order error it shows; one that finds no slot free stays where it is
(R290, R291). -/
def takeReduction (k v : Nat) (raw : List Byte) (m : RingMsg) (p : Nat) (g : RingCfg) (bs : List Bucket) (s : State) :
    State :=
  let d := s.red g.slot
  let b := lget noBucket bs d.rb
  let want : RingMsg := { gather := false, step := d.rStep, bucket := d.rb, hop := d.rh, seg := d.rs, data := [] }
  if 2 ≤ d.redIn.length then s
  else if { m with data := [] } = want && m.data.length = segLen g b d.rs then
    let n := intoSlot g d.redIn m
    let d := { d with redIn := d.redIn ++ [n] }
    let d := if d.rh + 2 < g.r then { d with rh := d.rh + 1 }
      else if d.rs + 1 < segCount g b then { d with rs := d.rs + 1, rh := 0 }
      else if d.rb + 1 < bs.length then { d with rb := d.rb + 1, rs := 0, rh := 0 }
      else { d with rStep := d.rStep + 1, rb := 0, rs := 0, rh := 0 }
    tookMsg k v raw s |> storeBytes (slotAt g false n.slot) m.data |> setRed g.slot d
  else ringOrder p g.slot want.words m.words s

/-- A gather message taken into its segment slot, or the order error it shows; one that finds no slot free stays where it is
(R290, R291). -/
def takeGather (k v : Nat) (raw : List Byte) (m : RingMsg) (p : Nat) (g : RingCfg) (bs : List Bucket) (s : State) : State :=
  let d := s.red g.slot
  let (b, i, ok) := d.gatherWant g bs m.hop
  let want : RingMsg := { gather := true, step := d.gStep, bucket := b, hop := m.hop, seg := i, data := [] }
  let y := lget noBucket bs b
  let x := ((s.imageOf p).upd? y.upd).getD (updOf 0)
  if 2 ≤ d.gatIn.length then s
  else if ok && { m with data := [] } = want && m.data.length = formLen x (segLen g y i / 4) then
    let e := tset 0 d.gatExp m.hop (tget 0 d.gatExp m.hop + 1)
    let all := (upFrom 0 (g.r - 1)).all fun h => decide (segsBefore g bs bs.length ≤ tget 0 e h)
    let n := intoSlot g d.gatIn m
    tookMsg k v raw s |> storeBytes (slotAt g true n.slot) m.data
      |> setRed g.slot { d with gatIn := d.gatIn ++ [n], gatExp := if all then [] else e,
                                gStep := if all then d.gStep + 1 else d.gStep }
  else ringOrder p g.slot want.words m.words s

/-- RING_DATA: a ring message delivered on a rope's channel: checked, added or written, and passed on (R289 to R292, R306,
10 R372, R373). -/
def execRingData (k v : Nat) (msg : List Byte) (bad : List (Nat × Nat)) (s : State) : Result :=
  perform (ropeOk k && vcOk v) (fun s =>
    if !s.delivers k v then s
    else match s.ringTarget k v msg with
      | none => peerMismatch k v msg s
      | some slot => withRing slot (fun p r g bs s =>
          if (s.red slot).stopped || (s.rig p).winding then s
          else
            let m := ringMsgOf msg
            if m.gather then takeGather k v msg m p g bs s |> settleGather bad p r g bs
            else takeReduction k v msg m p g bs s |> settleTotal bad p r g bs) s) s

/-- RING_CREDIT: credits of a pool come back (R291). -/
def execRingCredit (k v : Nat) (msg : List Byte) (s : State) : Result :=
  perform (ropeOk k && vcOk v) (fun s =>
    if !s.delivers k v then s
    else match s.ringTarget k v msg with
      | none => peerMismatch k v msg s
      | some slot =>
        let d := s.red slot
        let n : Int := mAt msg 4 4
        tookMsg k v msg s
          |> setRed slot (if mAt msg 0 1 = 0 then { d with redCr := d.redCr + n } else { d with gatCr := d.gatCr + n })) s

/-! Updates (R296 to R307). -/

/-- Where the parts of a state half lie (R296). -/
def estateAt (x : Upd) (n half k : Nat) : Nat :=
  x.state + half * x.half + to4k (4 * n) + k * to4k (stateBytes x.stateFmt n)
def mstateAt (x : Upd) (n half k : Nat) : Nat :=
  x.state + half * x.half + to4k (4 * n) + x.nE * to4k (stateBytes x.stateFmt n) + k * to4k (4 * n)

/-- `n` pairs at an offset as binary32 values. -/
def readPairs (bad : Tbl Nat) (o n : Nat) (s : State) : Option (List Nat) × State :=
  let (l, s) := memRead .engine bad o (4 * n) s
  (l.map fun l => (pairsOf n l).map ofPair, s)

/-- `n` values of an element state from element `i` of `all`. -/
def readEstate (bad : Tbl Nat) (fmt o all i n : Nat) (s : State) : Option (List Nat) × State :=
  if fmt = 1 then readPairs bad (o + 4 * i) n s
  else if fmt = 0 then
    let (l, s) := memRead .engine bad (o + 2 * i) (2 * n) s
    (l.map fun l => (upFrom 0 n).map fun j => widen bf16 (ofLe ((l.drop (2 * j)).take 2)), s)
  else
    let (l, s) := memRead .engine bad (o + i) n s
    let (c, s) := memRead .engine bad (o + all + i / 32) ((n + 31) / 32) s
    match l, c with
    | some l, some c => (some ((upFrom 0 n).map fun j => mxValue fp32 e4m3 (lget 0 c (j / 32)).toNat (lget 0 l j).toNat), s)
    | _, _ => (none, s)

/-- An element state narrowed and written (R302). -/
def writeEstate (bad : Tbl Nat) (fmt o all i rnd : Nat) (key : RngKey) (e : Nat) (v : List Nat) (s : State) : Bool × State :=
  if fmt = 1 then memWrite .engine bad (o + 4 * i) (wordsLe (v.map pairOf)) s
  else if fmt = 0 then
    memWrite .engine bad (o + 2 * i) (v.zipIdx.flatMap fun (x, j) => leBytes 2 (narrow bf16 (rndOf rnd false key (e + j)) x).v) s
  else
    let (c, ss) := mxForm 32 rnd key e v
    let (ok, s) := memWrite .engine bad (o + i) (c.map (BitVec.ofNat 8)) s
    if !ok then (false, s) else memWrite .engine bad (o + all + i / 32) (ss.map (BitVec.ofNat 8)) s

/-- Reads in order; none when one meets a lost line. -/
def readAll (fs : List (State → Option (List Nat) × State)) (s : State) : Option (List (List Nat)) × State :=
  match fs with
  | [] => (some [], s)
  | f :: r => match f s with
    | (none, s) => (none, s)
    | (some l, s) => match readAll r s with
      | (none, s) => (none, s)
      | (some ls, s) => (some (l :: ls), s)

def writeAll (fs : List (State → Bool × State)) (s : State) : Bool × State :=
  match fs with
  | [] => (true, s)
  | f :: r => match f s with
    | (false, s) => (false, s)
    | (true, s) => writeAll r s

/-- What an update group works on: UPDATE index and entry, bucket, first element in the shard, in the owned elements and in
the parameter group, how many elements are valid, and E_u. -/
structure GroupAt where
  u : Nat
  x : Upd
  b : Bucket
  off : Nat
  own : Nat
  elem : Nat
  n : Nat
  all : Nat
  deriving DecidableEq, Repr, Inhabited

def groupAt (r : Rigging) (g : RingCfg) (bs : List Bucket) (ub ug : Nat) : GroupAt :=
  let b := lget noBucket bs ub
  let o := 1024 * ug
  ⟨b.upd, (r.upd? b.upd).getD (updOf 0), b, o, ownBefore g bs b + o, elemsBefore bs b + g.pos * shardElems g b + o,
   min 1024 (shardElems g b - o), ownAll g bs b⟩

/-- The operands of a group widened into the eight registers (R299). -/
def loadGroup (bad : Tbl Nat) (g : RingCfg) (a : GroupAt) (half : Nat) (s : State) : Option (List (List Nat)) × State :=
  let zero (s : State) : Option (List Nat) × State := (some [], s)
  let es (k : Nat) : State → Option (List Nat) × State :=
    if k < a.x.nE then readEstate bad a.x.stateFmt (estateAt a.x a.all half k) a.all a.own a.n else zero
  let ms (k : Nat) : State → Option (List Nat) × State :=
    if k < a.x.nM then readPairs bad (mstateAt a.x a.all half k + 4 * a.own) a.n else zero
  let (l, s) := readAll ([readPairs bad (segAt g a.b g.pos 0 + 4 * a.off) a.n,
      readPairs bad (a.x.state + half * a.x.half + 4 * a.own) a.n, es 0, es 1] ++ (upFrom 0 4).map ms) s
  (l.map fun l => l.map (fit 0 1024), s)

/-- The outputs narrowed and written into the other half (R299, R302). -/
def storeGroup (bad : Tbl Nat) (r : Rigging) (a : GroupAt) (half step : Nat) (v : List (List Nat)) (s : State) :
    Bool × State :=
  let out (i : Nat) : List Nat := (lget [] v i).take a.n
  writeAll ([memWrite .engine bad (a.x.state + half * a.x.half + 4 * a.own) (wordsLe ((out 1).map pairOf))]
    ++ (upFrom 0 a.x.nE).map (fun k => writeEstate bad a.x.stateFmt (estateAt a.x a.all half k) a.all a.own a.x.rnd
        (updKey r a.x (1 + k) step) a.elem (out (2 + k)))
    ++ (upFrom 0 a.x.nM).map fun k =>
        memWrite .engine bad (mstateAt a.x a.all half k + 4 * a.own) (wordsLe ((out (4 + k)).map pairOf))) s

/-- The ratio watch after a group (R304). -/
def watchGroup (p slot : Nat) (a : GroupAt) (lastOfEntry : Bool) (w w' : List Nat) (s : State) : State :=
  if isZero a.x.ratioMax then s
  else
    let d := s.red slot
    let sq (l : List Nat) : Nat := treeSum (l.map fun x => (fmul x x).v)
    let first := a.own == 0
    let du := sq (List.zipWith (fun x y => (fsub x y).v) w' w)
    let ww := sq w
    let du := if first then du else (fadd (tget 0 d.du a.u) du).v
    let ww := if first then ww else (fadd (tget 0 d.wu a.u) ww).v
    let s := s.setRed slot { d with du := tset 0 d.du a.u du, wu := tset 0 d.wu a.u ww }
    if !lastOfEntry then s
    else
      let x := s.part p
      let s := s.setPart p { x with ratioNow := tset 0 x.ratioNow a.u (fdiv du ww).v }
      if flt (fmul (fmul a.x.ratioMax a.x.ratioMax).v ww).v du then
        let step := (s.red slot).updStep
        let s := s |> bump (Reg.UPD_COUNTS_RATIO_HIGH p) 1
          |> raise Ev.updateRatioHigh (stepStamp p step) [a.u, step % 2 ^ 32, step / 2 ^ 32]
        if a.x.watchSkip then clearFinite p step 3 slot a.b.num s else s
      else s

/-- A pinned version slot or state half holds the update that would write it (13 R471, R473). -/
def State.pinHolds (s : State) (p c : Nat) : Bool :=
  s.get (Reg.SNAP_STATUS_STATE p) == 2
    && (s.get (Reg.SNAP_STATUS_SLOT p) == (c + 1) % max 1 (s.imageOf p).maxLive
      || s.get (Reg.SNAP_STATUS_HALF p) == (c + 1) % 2)

/-- The gather form of a finished shard: written here and made ready to leave (R305, R306). -/
def beginGather (bad : Tbl Nat) (p : Nat) (r : Rigging) (g : RingCfg) (bs : List Bucket) (a : GroupAt) (half : Nat)
    (s : State) : State :=
  (upFrom 0 (segCount g a.b)).foldl (fun s i =>
    let n := segLen g a.b i / 4
    let o := ownBefore g bs a.b + i * (g.seg / 4)
    match memRead .engine bad (a.x.state + half * a.x.half + 4 * o) (4 * n) s with
    | (none, s) => s
    | (some l, s) =>
      let step := (s.red g.slot).updStep
      let form := gatherForm r a.x step (elemsBefore bs a.b + g.pos * shardElems g a.b + i * (g.seg / 4)) (pairsOf n l)
      let (_, s) := writeGather bad p r g a.b g.pos i form s
      let d := s.red g.slot
      let m : RingMsg := { gather := true, step := step, bucket := a.b.num, hop := 0, seg := i, data := form }
      if g.r = 1 then s else s.setRed g.slot { d with gatOut := d.gatOut ++ [m] }) s

/-- Whether a group may be updated now: its bucket's total is complete, no pin or wind-down holds it, and its undercroft has
no ring work to serve first (R308). -/
def State.groupReady (s : State) (p slot : Nat) (g : RingCfg) (bs : List Bucket) : Bool :=
  let d := s.red slot
  !(!s.ringRuns p slot || d.updStep != d.step || d.updStep == 0 || decide (bs.length ≤ d.ub) || decide (d.mb ≤ d.ub)
    || s.pinHolds p (s.baseCount p d.updStep) || s.ringFirst (s.stackOf (segAt g (lget noBucket bs d.ub) g.pos 0)))

/-- The outputs of a group's update code from its inputs `v`, and whether the group is refreshed (R303). -/
def State.groupOut (s : State) (p : Nat) (r : Rigging) (a : GroupAt) (c : Nat) (v : List (List Nat)) : List (List Nat) × Bool :=
  let sc := tget 0x3F80_0000 (s.part p).scale a.x.sched
  let ps := updParams ((r.sched? a.x.sched).getD (schedOf 0)) a.x c sc
  let fresh := a.x.refreshEn && decide (0 < c) && c % a.x.refreshK == 0
  let v1 := if fresh then runUpd ps (lget [] r.code a.x.refreshImage) v else v
  (runUpd ps (lget [] r.code a.x.image) v1, fresh)

/-- A group stored: the finite check, the ratio watch, and the next group or the gather, which writes the version slot. -/
def groupStored (p slot : Nat) (r : Rigging) (g : RingCfg) (bs : List Bucket) (a : GroupAt) (c : Nat) (v v1 : List (List Nat))
    (bad : Tbl Nat) (s : State) : State :=
  let outs := [1] ++ (upFrom 0 a.x.nE).map (2 + ·) ++ (upFrom 0 a.x.nM).map (4 + ·)
  let nf := outs.any fun i => ((lget [] v1 i).take a.n).any fun x => !isFinite x
  let s := if nf then clearFinite p (s.red slot).updStep 2 slot a.b.num s else s
  let s := s |> watchGroup p slot a (a.own + a.n == a.all) (lget [] v 1) (lget [] v1 1)
  let e := s.red slot
  if a.off + 1024 < shardElems g a.b then s.setRed slot { e with ug := e.ug + 1 }
  else beginGather bad p r g bs a ((c + 1) % 2) (s.setRed slot { e with ub := e.ub + 1, ug := 0 })

/-- One group updated from its inputs (R299 to R304). -/
def updateGroup (p slot : Nat) (r : Rigging) (g : RingCfg) (bs : List Bucket) (a : GroupAt) (c : Nat) (v : List (List Nat))
    (bad : Tbl Nat) (s : State) : State :=
  let o := s.groupOut p r a c v
  let s := if o.2 && a.own == 0 then bump (Reg.UPD_COUNTS_REFRESHES p) 1 s else s
  let s := holdRegs (s.stackOf (segAt g a.b g.pos 0)) p o.1 s
  let w := storeGroup bad r a ((c + 1) % 2) (s.red slot).updStep o.1 s
  if w.1 then groupStored p slot r g bs a c v o.1 bad w.2 else w.2

/-- The next group of a stage's buckets: its inputs read, then updated. -/
def loadAndUpdate (p slot : Nat) (r : Rigging) (g : RingCfg) (bs : List Bucket) (bad : Tbl Nat) (s : State) : State :=
  let d := s.red slot
  let c := s.baseCount p d.updStep
  let a := groupAt r g bs d.ub d.ug
  match loadGroup bad g a (c % 2) s with
  | (none, s) => s
  | (some v, s) => updateGroup p slot r g bs a c v bad s

/-- UPDATE_GROUP: the next group of a stage's update: operands widened, the program run, outputs narrowed into the other
state half; the shard's gather begins after its last group (R299 to R308). -/
def execUpdateGroup (slot : Nat) (bad : List (Nat × Nat)) (s : State) : Result :=
  perform (slotOk slot) (withRing slot fun p r g bs s =>
    let s := if s.ringRuns p slot then advanceUpd p slot s else s
    if s.groupReady p slot g bs then loadAndUpdate p slot r g bs bad s else s) s

/-- Whether a stage's buckets are all written into the BUILDING slot for a step (R307). -/
def State.bucketsWritten (s : State) (p slot step : Nat) : Bool :=
  let r := s.imageOf p
  let bs := r.buckets slot
  bs.isEmpty || ((s.red slot).updStep == step && s.gathered ((r.ring? slot).getD noRing) bs)

/-! Instructions of update code that only undercrofts have (R301). -/

/-- Register `r` of an undercroft's vector engine. -/
def State.ucReg (s : State) (u r : Nat) : List Nat := (upFrom (1024 * r) 1024).map fun k => tget 0 (s.uc u).v k
def setUcReg (u r : Nat) (l : List Nat) (s : State) : State :=
  let x := s.uc u
  s.setUc u { x with v := l.zipIdx.foldl (fun m (v, i) => tset 0 m (1024 * r + i) v) x.v }

/-- VBMAX: each 32-lane block's largest magnitude. -/
def execVbmax (u : Nat) (vd va : BitVec 3) (s : State) : Result :=
  perform (ucOk u) (fun s => setUcReg u vd.toNat (perBlock blockMax 32 (s.ucReg u va.toNat)) s) s

/-- VSQRT: the correctly rounded square root of each lane. -/
def execVsqrt (u : Nat) (vd va : BitVec 3) (s : State) : Result :=
  perform (ucOk u) (fun s => setUcReg u vd.toNat ((s.ucReg u va.toNat).map fun a => (fsqrt a).v) s) s

/-- VDIV: VA ÷ VB, correctly rounded. -/
def execVdiv (u : Nat) (vd va vb : BitVec 3) (s : State) : Result :=
  perform (ucOk u) (fun s =>
    setUcReg u vd.toNat (lanes2 (fun a b => (fdiv a b).v) (s.ucReg u va.toNat) (s.ucReg u vb.toNat)) s) s

/-- VMMUL: the product of 32 × 32 squares, by tree sums. -/
def execVmmul (u : Nat) (vd va vb : BitVec 3) (s : State) : Result :=
  perform (ucOk u) (fun s => setUcReg u vd.toNat (matMul (s.ucReg u va.toNat) (s.ucReg u vb.toNat)) s) s

/-- VTRANS: a 32 × 32 square transposed. -/
def execVtrans (u : Nat) (vd va : BitVec 3) (s : State) : Result :=
  perform (ucOk u) (fun s => setUcReg u vd.toNat (sqOf fun i j => sqAt (s.ucReg u va.toNat) j i) s) s

/-! The schedule registers (R313, R316). -/

/-- Scales latched for the next step; a value written goes in force (R313). -/
def latchScales (p : Nat) (s : State) : State :=
  (upFrom 0 8).foldl (fun s i =>
    let x := s.part p
    s.setPart p { x with scale := tset 0x3F80_0000 x.scale i (s.get (Reg.SCHED_SCALE_LR_SCALE p i)) }
      |> set (Reg.SCHED_STATUS_SCALE_PENDING p i) 0) s

/-- SCHED_LR, SCHED_WD, SCHED_MOM and CYCLE after the update of count `u` (R316). -/
def showSchedules (p u : Nat) (s : State) : State :=
  (upFrom 0 8).foldl (fun s i =>
    match (s.imageOf p).sched? i with
    | none => s
    | some d =>
      let (lr, k) := d.lr u
      let sc := tget 0x3F80_0000 (s.part p).scale i
      s |> set (Reg.SCHED_LR_LR p i) (fmul (round32 lr) sc).v |> set (Reg.SCHED_WD_WD p i) (round32 (d.wd lr))
        |> set (Reg.SCHED_MOM_MOM p i) (round32 (d.mom lr)) |> set (Reg.SCHED_STATUS_CYCLE p i) (min 255 k)) s

/-- A scale written: negative and non-finite values are ignored, others wait for the next latch (R313, R316). -/
def setScale (p i v : Nat) (s : State) : State :=
  if bit v 31 && !isZero v || !isFinite v then s
  else s |> set (Reg.SCHED_SCALE_LR_SCALE p i) v |> set (Reg.SCHED_STATUS_SCALE_PENDING p i) 1

/-- SCHED_SCALE_WRITE: a write of SCHED_SCALE. -/
def execSchedScaleWrite (who : Who) (p i : Nat) (value : W32) (s : State) : Result :=
  perform (partOk p && decide (i < 8)) (whenUp fun s =>
    if s.mayWrite who (Reg.SCHED_SCALE_LR_SCALE p i).base then setScale p i value.toNat s else s) s

end Sys2Proof.Machine
end

