-- ==== Sys2Proof/Machine/RegView.lean ====
section
/-!
DEFINITION. Register fields that report what the state holds elsewhere: what each reads as at one instant. A field that
is not listed here reads as its stored value.
-/
namespace Sys2Proof.Machine
open State

/-- Two's complement of a counter in a field. -/
def signedFld (f : Fld) (v : Int) : Fld × Nat := (f, ofSigned f.width v)

/-! Treads, channels, flights (04 R156 to R162, 05 R203, R204). -/

/-- CHAN_STATE of a gallery's selection: VALID, BLOCKED, A, B. A tread shows its state, PC and cause whether or not an image holds
it. Any resource of a fenced tread reads VALID 0 and, in B[7:4], the tread state FENCED (R147; log 16). -/
def State.chanView (s : State) (g : Nat) : List (Fld × Nat) :=
  let x := s.selected g
  let valid := s.selValid g
  let (blocked, a, b) : Bool × Nat × Nat :=
    if x.kind = 3 then
      let t := s.tread x.tread
      if treadOk x.tread then (t.st == .wait, t.pc.toNat, t.st.code * 16 + (if t.st == .trap then t.cause else 0))
      else (false, 0, 0)
    else if !valid then (false, 0, if x.kind ≠ 2 && treadOk x.tread && s.treadFenced x.tread then 0x50 else 0)
    else if x.kind = 0 then
      (s.refWaits (.queue x.tread x.index),
       ((s.queueChan? x.tread x.index).map fun c => (s.chan c.key).queue.length).getD 0, 0)
    else if x.kind = 1 then
      match s.portKey? x.tread x.index with
      | some k =>
        let c := s.chan k
        (s.refWaits (.port x.tread x.index), c.limit, ofSigned 8 c.credit)
      | none => (false, 0, 0)
    else
      match s.flightKnot? x.gf x.index with
      | some (p, i, k) => (s.knotWaits p i, (s.knot (knotKey p i)).sources.length, k.count - 1)
      | none => (false, 0, 0)
  [(Reg.CHAN_STATE_TICKET g, s.get (Reg.CHAN_SEL_TICKET g)), (Reg.CHAN_STATE_VALID g, b2n valid),
   (Reg.CHAN_STATE_BLOCKED g, b2n blocked), (Reg.CHAN_STATE_A g, a), (Reg.CHAN_STATE_B g, b)]

/-- A row's ROW_REMAP byte, with its flight's fence. -/
def State.remapByte (s : State) (gf row : Nat) : Nat :=
  let b := s.rowByte gf row
  if s.flightFenced gf && !bit b 5 then b + 32 else b

/-- STALL_STATUS.OPEN: channels reported that have not progressed. -/
def State.stallOpen (s : State) : Nat :=
  (s.chans.map fun (_, c) => b2n (c.sendSeen && !c.sendMoved) + b2n (c.recvSeen && !c.recvMoved)).sum
    + (s.knots.filter fun k => k.2.seen && !k.2.moved).length

def State.fltCfgView (s : State) (gf : Nat) : List (Fld × Nat) :=
  let stand := s.loaded.any fun p => (s.imageOf p).standby.contains gf
  let (shape, odd, role) : Nat × Nat × Nat := match s.flightRole? gf with
    | some (p, role, odd) => ((((s.imageOf p).gangRole? role).map Gang.shape).getD 7, odd, role)
    | none => (if stand then 4 else 7, 0, 0x7FF)
  [(Reg.FLT_CFG_SHAPE gf, shape), (Reg.FLT_CFG_PAIR_ODD gf, odd),
   (Reg.FLT_CFG_STAGE_SLOT gf, (s.flightStage? gf).getD 0), (Reg.FLT_CFG_ROLE gf, role)]

def State.fltStatusView (s : State) (gf : Nat) : List (Fld × Nat) :=
  let f := s.flight gf
  let arr (a : Nat) : ArrayData := s.array gf a
  let waits := (upFrom 0 4).map fun a => s.tileWaits gf a
  let prog := (upFrom 0 4).foldl (fun v a => v + (b2n (arr a).tile.isSome + b2n (arr a).drain.isSome) * 4 ^ a) 0
  let ref := (upFrom 0 4).any fun a => match (arr a).tile with
    | some t => (t.running || !t.ends) && (tileOf t.desc).order != 0
    | none => false
  let dst := (upFrom 0 4).any fun a => match (arr a).drain with
    | some r => s.drainWaits gf (tileOf r.desc)
    | none => false
  [(Reg.FLT_STATUS_QOCC gf, f.queue.length), (Reg.FLT_STATUS_INPROG gf, prog), (Reg.FLT_STATUS_REF gf, b2n ref),
   (Reg.FLT_STATUS_WAIT_SB gf, b2n (waits.any fun w => w.1)), (Reg.FLT_STATUS_WAIT_BANK gf, b2n (waits.any fun w => w.2.1)),
   (Reg.FLT_STATUS_WAIT_ADMIT gf, b2n (waits.any fun w => w.2.2)), (Reg.FLT_STATUS_WAIT_DST gf, b2n dst)]

/-! Stages, contexts, versions, landings (07 R277 to R282). -/

def State.seqView (s : State) (n : Nat) (w : Nat) : List (Fld × Nat) :=
  match s.slotPart n, s.stageCfg? n with
  | some p, some t =>
    let r := s.imageOf p
    let g := s.stage n
    if w = 0 then
      [(Reg.SEQ_CFG_VALID n, 1), (Reg.SEQ_CFG_PARTITION n, p), (Reg.SEQ_CFG_FIRST n, b2n t.first),
       (Reg.SEQ_CFG_LAST n, b2n t.last), (Reg.SEQ_CFG_SEQ_CUT n, b2n t.seqCut), (Reg.SEQ_CFG_MODE n, r.schedMode),
       (Reg.SEQ_CFG_MAX_LIVE n, r.maxLive), (Reg.SEQ_CFG_STAGE_ID n, t.id)]
    else if w = 4 then
      let held := g.held || (s.stageFlights n).any fun gf => s.on (Reg.FLT_STATUS_LINE_HELD gf)
      let cause := if held then 0xA else g.wait
      let st := if s.stageStopped n then 5 else if cause != 0 then 4 else match g.mode with
        | .idle => 0
        | .fwd => 1
        | .bwd => 2
        | .recompute => 3
      [(Reg.SEQ_STATUS_STATE n, st), (Reg.SEQ_STATUS_WAIT_CAUSE n, cause)]
    else if w = 0x18 then
      let cur := s.get (Reg.SEQ_STEP_STEP n)
      -- the place of the next forward or backward counts the one in progress, which has not ended
      let done (step seq : Nat) (busy : Bool) : Nat :=
        (if cur = 0 then 0 else if cur < step then t.mbPerStep else if step = cur then seq else 0) - b2n busy
      [(Reg.SEQ_PROGRESS_FWD_DONE n, done g.fStep g.fSeq (g.mode == .fwd)),
       (Reg.SEQ_PROGRESS_BWD_DONE n, done g.bStep g.bSeq (g.mode == .bwd || g.mode == .recompute))]
    else
      [(Reg.SEQ_STASH_USED_MIB n, min 0xFFFF ((s.ringUse n + mib - 1) / mib)),
       (Reg.SEQ_STASH_LIMIT_MIB n, min 0xFFFF (s.ringLimit n / mib))]
  | _, _ => []

/-- The stage that holds a context, free or not (R96, R280); 0 where no loaded stage does. -/
def State.ctxOwner (s : State) (i : Nat) : Nat :=
  ((s.loaded.flatMap fun p => (s.imageOf p).stages).find? fun t =>
    decide (t.ctxBase ≤ i) && decide (i < t.ctxBase + t.ctxCount)).elim 0 StageCfg.slot

def State.ctxView (s : State) (w : Nat) : List (Fld × Nat) :=
  let i := s.get Reg.CTX_SEL_INDEX
  let x := s.ctx i
  if w = 4 then
    [(Reg.CTX_WORD0_TICKET, s.get Reg.CTX_SEL_TICKET), (Reg.CTX_WORD0_STATE, x.state.code),
     (Reg.CTX_WORD0_SPILLED, b2n x.spill.isSome), (Reg.CTX_WORD0_VERSION, x.tag), (Reg.CTX_WORD0_MB_ID, x.mbId)]
  else if w = 8 then
    [(Reg.CTX_WORD1_STAGE_SLOT, s.ctxOwner i), (Reg.CTX_WORD1_SPILL_LAYER, x.spill.getD 0), (Reg.CTX_WORD1_MB_SEQ, x.mbSeq)]
  else if w = 0x10 then [(Reg.CTX_HANDLE_HANDLE, x.handle)]
  else [(Reg.CTX_STEP_STEP, x.step)]

/-- Contexts of partition `p` that hold a version tag. -/
def State.tagRefs (s : State) (p tag : Nat) : Nat :=
  ((s.imageOf p).stages.map fun t =>
    ((upFrom t.ctxBase t.ctxCount).filter fun c => (s.ctx c).state != .free && (s.ctx c).tag == tag).length).sum

def State.verView (s : State) (p k : Nat) : List (Fld × Nat) :=
  let v := tget (VerState.free, 0) (s.part p).slots k
  if v.1 == .free then []
  else [(Reg.VER_SLOT_STATE p k, v.1.code), (Reg.VER_SLOT_TAG p k, v.2 % 16),
        (Reg.VER_SLOT_REFS p k, min 4095 (s.tagRefs p (v.2 % 16))), (Reg.VER_SLOT_COUNT p k, v.2)]

def State.landView (s : State) (n w : Nat) : List (Fld × Nat) :=
  match s.landCfg? n with
  | none => []
  | some (p, c) =>
    if w = 0 then
      [(Reg.LAND_CFG_VALID n, 1), (Reg.LAND_CFG_PARTITION n, p), (Reg.LAND_CFG_KIND n, c.kind),
       (Reg.LAND_CFG_CREDITS n, c.credits), (Reg.LAND_CFG_ROPE n, if c.kind = 0 then 0 else c.rope),
       (Reg.LAND_CFG_VC n, if c.kind = 0 then 0 else c.vc)]
    else
      let l := s.landing n
      [(Reg.LAND_STATUS_OCC n, l.present.length), (Reg.LAND_STATUS_LIMIT n, l.limit),
       signedFld (Reg.LAND_STATUS_CREDIT n) (if c.kind = 2 then 0 else l.credit)]

/-! Rings and updates (08 R316, R317, R319). -/

/-- What a stage's ring or update waits for. -/
def State.redWait (s : State) (p : Nat) (g : RingCfg) (bs : List Bucket) : Nat :=
  let d := s.red g.slot
  let n := bs.length
  let short := match bs[d.entered]? with
    | some b => d.step != 0 && decide (tget 0 d.drains b.num < b.tiles)
    | none => false
  let on := decide (d.mb < d.entered) || d.mayEnter bs
  if d.stopped then 7
  else if on && d.mh != 0 && d.redIn.isEmpty then 4
  else if on && d.redCr ≤ 0 && 1 < g.r then 3
  else if short then 1
  else if d.ub < n && d.step != 0 then (if (s.svc p).decided + 1 < d.step then 2 else 6)
  else if !d.gatOut.isEmpty && d.gatCr ≤ 0 then 5
  else if d.step != 0 && !s.gathered g bs then 4
  else 0

def State.redView (s : State) (n : Nat) (w : Nat) : List (Fld × Nat) :=
  match s.slotPart n with
  | none => []
  | some p =>
    let r := s.imageOf p
    match r.ring? n with
    | none => []
    | some g =>
      let bs := r.buckets n
      if w = 8 then [(Reg.RED_CFG_POS n, g.pos), (Reg.RED_CFG_R_MINUS1 n, g.r - 1)]
      else
        let d := s.red n
        let next := (bs.findIdx fun b => decide (tget 0 d.gatWritten b.num < segCount g b * max 1 g.r))
        let now (step v : Nat) : Nat := if step ≤ (s.svc p).decided then 0 else v
        [(Reg.RED_STATUS_NEXT_BUCKET n, now d.step d.entered), (Reg.RED_STATUS_NEXT_GATHER n, now d.updStep next),
         (Reg.RED_STATUS_WAIT n, s.redWait p g bs)]

/-! Undercrofts (09 R349 to R353). -/

/-- The header offsets of partition `p`'s trained tables whose header lies in stack `u`. -/
def State.tablesIn (s : State) (p u : Nat) : List Nat :=
  ((s.imageOf p).regions.filter fun g => g.kind == 4 && g.stack g.base == u
    && s.memLe (g.base + 0xA) 2 != 0 && s.memLe (g.base + 6) 2 != 0xFFFF).map Region.base

def State.ucSparseView (s : State) (u p : Nat) : List (Fld × Nat) :=
  let ts := s.tablesIn p u
  let step := (s.svc p).decided + 1
  let runs := decide (2 ≤ (s.svc p).state.code) && (s.svc p).state != .treeError
  let begun (t : Nat) : Bool := s.sparse.any fun x => x.part == p && x.table == t && x.step == step
  let held (t : Nat) : Bool := s.sparse.any fun x => x.part == p && x.table == t && !x.undo.isEmpty
  [(Reg.UC_SPARSE_WAITING u p, if runs then min 255 (ts.filter fun t => !begun t).length else 0),
   (Reg.UC_SPARSE_HELD u p, min 255 (ts.filter held).length)]

def State.ucStatusView (s : State) (u : Nat) : List (Fld × Nat) :=
  let x := s.uc u
  [(Reg.UC_STATUS_GQ_OCC u, x.gq.length), (Reg.UC_STATUS_CQ_OCC u, x.cq.length),
   (Reg.UC_STATUS_SWEEP_ACTIVE u, b2n (allParts.any fun p => (tget MemKeys.init s.sec.mem p).sweeping.contains u)),
   (Reg.UC_STATUS_PATROL_ACTIVE u, b2n (s.on (Reg.UC_PATROL_ENABLE u) && x.patrol != 0))]

def State.ucKeyView (s : State) (u p : Nat) : List (Fld × Nat) :=
  let k := tget MemKeys.init s.sec.mem p
  let key := if k.cur = 0 then k.key0 else k.key1
  let lines := ((s.imageOf p).regions.map fun g => g.share u / 64).sum
  let sweep := k.sweeping.contains u
  let done := tget 0 (s.uc u).sweep p
  [(Reg.UC_KEY_CUR_SLOT u p, k.cur), (Reg.UC_KEY_SWEEP_ACTIVE u p, b2n sweep), (Reg.UC_KEY_KEYED u p, b2n (key != 0)),
   (Reg.UC_KEY_SWEEP_PCT u p, if sweep then min 100 (100 * done / max 1 lines) else if done = 0 then 0 else 100)]

/-- The clamped request limit (09 R352). -/
def State.reqLimit (s : State) (u p : Nat) : Nat := max 16 (min 4096 (s.get (Reg.UC_QUOTA_REQ_LIMIT u p)))

/-! Ropes (10 R387, R389). -/

def State.ropeSeqView (s : State) (k w : Nat) : List (Fld × Nat) :=
  let r := s.rope k
  if w = 0x10 then
    [(Reg.ROPE_SEQ_TX_NEXT k, r.txNext), (Reg.ROPE_SEQ_TX_OLDEST k, (r.held.head?.map fun h => h.1).getD r.txNext)]
  else [(Reg.ROPE_RXSEQ_HELD k, r.held.length), (Reg.ROPE_RXSEQ_RX_EXPECT k, r.rxExpect)]

def State.vcView (s : State) (k v : Nat) : List (Fld × Nat) :=
  let c := lget (VChan.init v) (s.rope k).chans v
  [(Reg.ROPE_VC_STATUS_OPEN k v, b2n c.part.isSome), (Reg.ROPE_VC_STATUS_PARTITION k v, c.part.getD 0),
   (Reg.ROPE_VC_STATUS_ENC k v, b2n (match c.part with
     | some p => (tget Link.init s.sec.links p).cur.isSome
     | none => false)),
   (Reg.ROPE_VC_STATUS_KEY_EPOCH k v, c.cur), (Reg.ROPE_VC_STATUS_LIMIT k v, c.limit),
   signedFld (Reg.ROPE_VC_STATUS_CREDIT k v) c.credit]

/-! The journal, security and calibration (13 R485, 14 R509, R510, 15 R532). -/

def State.jrnView (s : State) : List (Fld × Nat) :=
  let j := s.journal
  let h := if j.active == some true then j.hdr1 else j.hdr0
  [(Reg.JRN_STATUS_COMPACTING, b2n j.copying), (Reg.JRN_STATUS_ACTIVE, b2n (j.active == some true)),
   (Reg.JRN_STATUS_GENERATION, h.generation),
   (Reg.JRN_STATUS_FILL_PCT, min 100 ((j.position - 0x41_0000) * 100 / (0x400_0000 - 0x41_0000)))]

/-- Whether an old key slot of any of a partition's channels awaits clearing (10 R378). -/
def State.linkBusy (s : State) (p : Nat) : Bool :=
  (upFrom 0 18).any fun k => (upFrom 0 8).any fun v =>
    let c := lget (VChan.init v) (s.rope k).chans v
    c.part == some p && c.old.isSome
def State.fabBusy (s : State) : Bool :=
  (upFrom 0 18).any fun k =>
    (lget (VChan.init 8) (s.rope k).chans 8).old.isSome

def State.secView (s : State) : List (Fld × Nat) :=
  [(Reg.SEC_STATUS_FW_SVN, s.sec.fwSvn), (Reg.SEC_STATUS_FUSE_SVN, s.sec.fuseSvn),
   (Reg.SEC_STATUS_SCRUB_BUSY, b2n !s.sec.scrubs.isEmpty), (Reg.SEC_STATUS_SCRUB_PART, lget 0 s.sec.scrubs 0)]
def State.fabKeyView (s : State) : List (Fld × Nat) :=
  [(Reg.SEC_FAB_STATUS_CUR_EPOCH, (s.sec.fab.map Prod.fst).getD 0), (Reg.SEC_FAB_STATUS_STAGED, b2n s.sec.fabStaged.isSome),
   (Reg.SEC_FAB_STATUS_BUSY, b2n s.fabBusy)]
def State.partSecView (s : State) (p : Nat) : List (Fld × Nat) :=
  let l := tget Link.init s.sec.links p
  [(Reg.PART_SEC_STATUS_LINK_KEYED p, b2n l.cur.isSome), (Reg.PART_SEC_STATUS_LINK_STAGED p, b2n l.staged.isSome),
   (Reg.PART_SEC_STATUS_LINK_BUSY p, b2n (s.linkBusy p)),
   (Reg.PART_SEC_STATUS_MEM_SWEEP p, b2n !(tget MemKeys.init s.sec.mem p).sweeping.isEmpty),
   (Reg.PART_SEC_STATUS_RIG_KEYS p, ((upFrom 0 4).filter fun i => !(tget [] s.sec.rigKeys (4 * p + i)).isEmpty).length),
   (Reg.PART_SEC_STATUS_LINK_EPOCH p, (l.cur.map Prod.fst).getD 0)]

/-- Whether CAL_SEL names a record: a kind of 15 R522. -/
def State.calSelected (s : State) : Bool := decide (1 ≤ s.get Reg.CAL_SEL_KIND) && decide (s.get Reg.CAL_SEL_KIND ≤ 4)
/-- Whether a value is outside its kind's clamp. -/
def outsideClamp (kind : Nat) (v : Int) : Bool := decide (v < (calClamp kind).1) || decide ((calClamp kind).2 < v)

def State.calView (s : State) (w : Nat) : List (Fld × Nat) :=
  let k := s.get Reg.CAL_SEL_KIND
  let i := s.get Reg.CAL_SEL_INDEX
  let on := s.calSelected
  if w = 4 then [signedFld Reg.CAL_USER_VALUE (if on then s.calUser k i else 0)]
  else if w = 8 then [signedFld Reg.CAL_EFFECT_VALUE (if on then s.calInForce k i else 0)]
  else [(Reg.CAL_STATUS_CLAMPED, b2n (on && outsideClamp k (s.calApplied k i))),
        (Reg.CAL_STATUS_CLAMPED_COUNT, (s.det.applied.filter fun x => outsideClamp (x.1 / 4096) x.2).length)]

/-! Power (02 R73, R79). -/

def State.pwrView (s : State) : List (Fld × Nat) :=
  [(Reg.PWR_STATUS_AT_FLOOR, b2n s.atFloor),
   (Reg.PWR_STATUS_BAL_SATURATED, b2n (s.slots.any fun n => s.on (Reg.STAGE_RATE_SATURATED n))),
   (Reg.PWR_STATUS_CUTTING, b2n (match s.power.cutAt with
     | some t => decide (s.time ≤ t + 100000)
     | none => false))]
/-- Whether a flight has work in progress (02 R55): a load, a tile, a drain or a tread at work, or a queued descriptor that
no admission token is missing for; queued work of a flight without admission waits in QUIET. -/
def State.domainBusy (s : State) (gf : Nat) : Bool :=
  s.flightWorks gf || (s.power.admitted.contains gf && !s.flightIdle gf)
def State.domainView (s : State) (gf : Nat) : List (Fld × Nat) :=
  let st := s.get (Reg.DOMAIN_STATE_STATE gf)
  [(Reg.DOMAIN_STATE_STATE gf, if st < 2 then b2n !s.domainBusy gf else st),
   (Reg.DOMAIN_STATE_RATE gf, if st = 3 then 0 else s.domainRate gf (s.vcode gf))]

/-! The host port (12 R447 to R454). -/

/-- Channels 0 to 2 carry the bounce buffers, on the physical function (12 R429, R449); their services are numbered 1
to 3 (log 53). -/
def State.mbView (c : Nat) : List (Fld × Nat) :=
  if c < 3 then [(Reg.BIND_MB_VALID c, 1), (Reg.BIND_MB_FUNC c, 0), (Reg.BIND_MB_SERVICE c, c + 1)] else []
/-- An engine bound to virtual function `n` acts for partition `n` (R449). -/
def State.enginePart (s : State) (e : Nat) : Nat :=
  if s.get (Reg.BIND_HCE_FUNC e) = 0 then s.get (Reg.BIND_HCE_PARTITION e) else s.get (Reg.BIND_HCE_FUNC e) - 1

/-- Whether the physical function has registered bounce buffer `k` (12 R429, R455; log 72). -/
def State.bncReady (s : State) (k : Nat) : Bool := s.get (Reg.BNC_BASE_BASE k) != 0 && (s.ring 0).detached == 0

/-- What the computed fields of a register read as; `b` is the register's offset with all indices 0, `i`, `j`, `k` its
indices. -/
def State.view (s : State) (b i j k : Nat) : List (Fld × Nat) :=
  match b with
  | 0x8 => [(Reg.PKG_STATE_STATE, s.pkg.code),
            (Reg.PKG_STATE_FENCE_ACTIVE, b2n (!s.fence.treads.isEmpty || !s.fence.flights.isEmpty))]
  | 0x300008 => s.pwrView
  | 0x301000 => s.domainView i
  | 0x1000004 => s.chanView i
  | 0x1001000 =>
    let gf := 148 * i + j
    [(Reg.ROW_REMAP gf k, ofLe ((upFrom (4 * k) 4).map fun r => BitVec.ofNat 8 (s.remapByte gf r)))]
  | 0x409004 => [(Reg.STALL_STATUS_OPEN, min 0xFFFF s.stallOpen)]
  | 0x1010000 => s.fltCfgView (148 * i + j)
  | 0x1010004 => s.fltStatusView (148 * i + j)
  | 0x40a000 => s.seqView i 0
  | 0x40a004 => s.seqView i 4
  | 0x40a018 => s.seqView i 0x18
  | 0x40a01c => s.seqView i 0x1C
  | 0x40c004 => s.ctxView 4
  | 0x40c008 => s.ctxView 8
  | 0x40c010 => s.ctxView 0x10
  | 0x40c018 => s.ctxView 0x18
  | 0x40d000 => s.verView i j
  | 0x40d200 => [(Reg.VER_COUNT_COUNT i, (s.part i).count)]
  | 0x1020000 => s.landView (64 * i + j) 0
  | 0x1020004 => s.landView (64 * i + j) 4
  | 0x404010 => [(Reg.SCHED_STATUS_VALID i j, b2n ((s.imageOf i).sched? j).isSome)]
  | 0x40e000 => s.redView i 0
  | 0x40e008 => s.redView i 8
  | 0x40e808 => [(Reg.UPD_RATIO_RATIO i, tget 0 (s.part i).ratio (s.get (Reg.UPD_SEL_INDEX i)))]
  | 0x2000004 => s.ucStatusView i
  | 0x2000104 => [(Reg.UC_REQ_CREDIT i j, s.reqLimit i j)]
  | 0x2000108 => s.ucKeyView i j
  | 0x200010c => s.ucSparseView i j
  | 0x800010 => s.ropeSeqView i 0x10
  | 0x800014 => s.ropeSeqView i 0x14
  | 0x800040 => s.vcView i j
  | 0x100014 => [(Reg.HCE_STATUS_INFLIGHT i, (s.hce i).work.length)]
  | 0x200100 => State.mbView i
  | 0x200200 => [(Reg.BIND_HCE_PARTITION i, s.enginePart i)]
  | 0x201018 => [(Reg.EVT_PENDING_COUNT i, (s.ring i).pend.length)]
  | 0x203008 => [(Reg.BNC_STATUS_READY i, b2n (s.bncReady i))]
  | 0x700000 => s.jrnView
  | 0x500000 => s.secView
  | 0x500008 => s.fabKeyView
  | 0x501008 => s.partSecView i
  | 0x704004 => s.calView 4
  | 0x704008 => s.calView 8
  | 0x704010 => s.calView 0x10
  | _ => []

end Sys2Proof.Machine
end

