-- ==== Sys2Proof/Machine/RegOps.lean ====
section
/-!
DEFINITION. Registers as requesters meet them: finding a register, reading one with its latches and read-clears, writing
the fields that have no behaviour of their own (00 R5 to R11, 01 R26 to R39, 12 R422 to R424).
-/
namespace Sys2Proof.Machine
open State

/-! Finding a register. -/

/-- The indices of an offset within an array of registers: each dimension has a stride and a count. -/
def dimIndex : List (Nat × Nat) → Nat → Option (List Nat × Nat)
  | [], o => some ([], o)
  | (st, n) :: r, o =>
    if n ≤ o / st then none
    else match dimIndex r (o % st) with
      | some (l, o') => some (o / st :: l, o')
      | none => none

/-- A register found: its row, its indices, and the byte within it. -/
structure RegAt where
  row : RegRow
  i : Nat
  j : Nat
  k : Nat
  byte : Nat

/-- The offset of a register. -/
def RegAt.base (a : RegAt) (off : Nat) : Nat := off - a.byte
def RegAt.flds (a : RegAt) : List (Fld × FTy) := a.row.flds a.i a.j a.k

/-- The register of a row that holds a word. -/
def RegRow.at? (r : RegRow) (off : Nat) : Option RegAt :=
  if off < r.base then none
  else match dimIndex r.dims (off - r.base) with
    | some (l, o) => if o < r.width / 8 then some ⟨r, lget 0 l 0, lget 0 l 1, lget 0 l 2, o⟩ else none
    | none => none

/-- The register that holds the word at an offset; none where the map is reserved (01 R28). -/
def regAt? (off : Nat) : Option RegAt := regMap.findSome? fun r => r.at? off

/-! Values. -/

/-- What a field reads as. -/
def State.fld (s : State) (v : List (Fld × Nat)) (f : Fld) : Nat :=
  match v.find? fun x => x.1 == f with
  | some x => x.2 % 2 ^ f.width
  | none => s.get f

/-- Whether a field's type reads as 0 (00 R5). -/
def FTy.hidden : FTy → Bool
  | .wo | .wos => true
  | _ => false

/-- The whole value of a register at one instant. -/
def State.regVal (s : State) (a : RegAt) : Nat :=
  let v := s.view a.row.base a.i a.j a.k
  (a.flds.map fun (f, t) => if t.hidden then 0 else place (s.fld v f) f.lo f.width).sum

/-- The word at an offset; reserved offsets read 0 (R28). -/
def State.wordAt (s : State) (off : Nat) : Nat :=
  match regAt? off with
  | some a => bits (s.regVal a) (8 * a.byte) 32
  | none => 0

/-! Reading. -/

/-- Read-clear fields of a word cleared; `during` gives, at their places, the events that came during the read, which the
cleared fields keep (R7). -/
def clearRc (off : Nat) (during : Nat) (s : State) : State :=
  match regAt? off with
  | none => s
  | some a => a.flds.foldl (fun s (f, t) =>
      if t == .rc && decide (f.lo / 32 = a.byte / 4) then s.set f (bits during (f.lo % 32) f.width) else s) s

/-- The partition and the byte of a PART_COMMIT block (01 R38). -/
def commitPlace (off : Nat) : Option (Nat × Nat) :=
  if 0x1000 ≤ off && off < 0x1800 && off % 0x100 < 0x30 then some ((off - 0x1000) / 0x100, off % 0x100) else none

/-- A PART_COMMIT block as a number, at one instant. -/
def State.commitBlock (s : State) (p : Nat) : Nat :=
  ofLe (wordsLe ((upFrom 0 12).map fun w => s.wordAt (0x1000 + p * 0x100 + 4 * w)))

/-- Where the latch of requester `who` for a register or block `n` is held. -/
def latchKey (who n : Nat) : Nat := who * 2 ^ 40 + n

/-- One word read from its register: the high word of a 64-bit register comes from the requester's latch where it has one,
a read of the low word takes the latch (00 R10), and read-clear fields are cleared. -/
def readOwnWord (who off during : Nat) (s : State) : Nat × State :=
  match regAt? off with
  | none => (0, s)
  | some a =>
    if 0x100_0008 ≤ off && off < 0x200_0000 && a.row.base == 0x1000008 then readChanHead a.i s
    else if a.row.width = 64 then
      let key := latchKey who (a.base off)
      if a.byte = 0 then
        (bits (s.regVal a) 0 32, { s with hiLatch := tset 0 s.hiLatch key (bits (s.regVal a) 32 32 + 1) })
      else
        let l := tget 0 s.hiLatch key
        (if l = 0 then bits (s.regVal a) 32 32 else l - 1, { s with hiLatch := tset 0 s.hiLatch key 0 })
    else (s.wordAt off, clearRc off during s)

/-- One word read by requester `who`: the first word of a PART_COMMIT block latches the block, its other words come from the
requester's latch where it has one (01 R39), and every other word from its register. -/
def readWord (who off during : Nat) (s : State) : Nat × State :=
  match commitPlace off with
  | some (p, o) =>
    let l := tget 0 s.commitLatch (latchKey who p)
    if o = 0 then
      let b := s.commitBlock p
      (bits b 0 32, { s with commitLatch := tset 0 s.commitLatch (latchKey who p) (b + 1) })
    else if l = 0 then readOwnWord who off during s
    else (bits (l - 1) (8 * o) 32, s)
  | none => readOwnWord who off during s

/-- A read of 4 or 8 bytes. An aligned 8-byte read of a 64-bit register returns both halves of one instant. -/
def readReg (who off n during : Nat) (s : State) : Nat × State :=
  if n = 8 then
    let (lo, s) := readWord who off during s
    let (hi, s) := readWord who (off + 4) (during / 2 ^ 32) s
    (lo + hi * 2 ^ 32, s)
  else readWord who off during s

/-! What a requester may reach. BAR2 offsets stand above 2^32. -/

def bar2 : Nat := 0x1_0000_0000

/-- Whether a mailbox page or doorbell page of BAR2 answers function `f`: an entry that is not VALID answers none, and a
virtual function sees only its own (R424, R449). -/
def State.bar2Answers (s : State) (f o : Nat) : Bool :=
  if o < 0x8_0000 then
    let c := o / 0x2000
    (decide (c < 3) && f == 0) || (s.on (Reg.BIND_MB_VALID c) && !(decide (c < 3)) && (f == 0 || s.get (Reg.BIND_MB_FUNC c) == f))
  else
    let e := (o - 0x8_0000) / 0x1000
    decide (e < 16) && s.on (Reg.BIND_HCE_VALID e) && (f == 0 || s.get (Reg.BIND_HCE_FUNC e) == f)

/-- Where a virtual function's offset lies in the physical function's map (R29, R423, R424). -/
def State.vfOffset (s : State) (n off : Nat) : Option Nat :=
  if bar2 ≤ off then if s.bar2Answers (vfNo n) (off - bar2) then some off else none
  else if off < 0xC || (0x10 ≤ off && off < 0x14) then some off
  else if 0x1000 ≤ off && off < 0x1030 then some (off + n * 0x100)
  else if 0x2000 ≤ off && off < 0x2020 then some (0x20_1000 + vfNo n * 0x40 + (off - 0x2000))
  else if 0x1_0000 ≤ off && off < 0x1_1000 then
    let e := (off - 0x1_0000) / 0x100
    if s.on (Reg.BIND_HCE_VALID e) && s.get (Reg.BIND_HCE_FUNC e) == vfNo n then some (0x10_0000 + (off - 0x1_0000)) else none
  else none

/-- The offset in the physical function's map that a requester's access reaches; none where nothing answers. In BOOT only
the identity block and the host-port configuration answer of BAR0 (R33). -/
def State.reach (s : State) (w : Who) (write : Bool) (off n : Nat) : Option Nat :=
  let o := match w with
    | .pf => if bar2 ≤ off then (if s.bar2Answers 0 (off - bar2) then some off else none) else some off
    | .firmware => some off
    | .vf v => if write && off < 0x2000 then none else s.vfOffset v off
    | .core p => if s.controlRight p 0 write off n then some off else none
  match o with
  | some x => if s.pkg == .boot && decide (x < bar2) && !(decide (x < 0x10_0000) || (decide (0x20_0000 ≤ x) && decide (x < 0x30_0000)))
      then none else some x
  | none => none

/-- Whether a function exists: virtual function `n` does when NumVFs is above `n` (12 R421). -/
def State.fnExists (s : State) (f : Nat) : Bool := f == 0 || decide (f - 1 < s.pcie.numVfs)

/-- A virtual function whose partition is being scrubbed reads all ones and its writes are dropped (14 R506); one that does not
exist answers nothing, which the host sees in the same way (log 64). -/
def State.vfDark (s : State) : Who → Bool
  | .vf n => s.partState n == partScrubbing || !s.fnExists (n + 1)
  | _ => false

/-- A requester's read of 4 or 8 bytes. A virtual function sees only its own field of PART_STATE, in bits [3:0], and
nothing after PKG_STATE (01 R29). -/
def regRead (w : Who) (off n during : Nat) (s : State) : Nat × State :=
  if s.vfDark w then (2 ^ (8 * n) - 1, s)
  else match s.reach w false off n with
    | none => (0, s)
    | some x =>
      let (v, s) := readReg w.key x n during s
      match w with
      | .vf p => (if x = 0x10 then bits v (4 * p) 4 else if x = 8 then v % 2 ^ 32 else v, s)
      | _ => (v, s)

/-! Writing the fields without behaviour of their own. -/

/-- Whether software may write a register now, beside the locks of its fields. -/
def State.regOpen (s : State) (a : RegAt) : Bool :=
  match a.row.base with
  | 0x100000 | 0x100008 => !s.on (Reg.HCE_CTRL_ENABLE a.i)
  | 0x201000 => !s.on (Reg.EVT_CFG_ENABLE a.i)
  | 0x202004 | 0x202008 => !s.on (Reg.PLC_CFG_VALID a.i)
  | 0x200100 => !(decide (a.i < 3))
  | 0x200200 => !s.on (Reg.HCE_CTRL_ENABLE a.i)
  | 0x408010 | 0x408018 => !(decide (1 ≤ s.get (Reg.RIG_STATUS_STATE a.i)) && decide (s.get (Reg.RIG_STATUS_STATE a.i) ≤ 5))
  | 0x400008 | 0x400010 | 0x400018 => (s.svc a.i).state == .idle
  | 0x501004 | 0x501020 => s.partState a.i == partUnassigned && !s.on (Reg.PART_SEC_STATUS_OFFERED a.i)
  | 0x600000 | 0x600010 | 0x600018 => s.get Reg.INJ_STATUS_STATE != 1
  | _ => true

/-- One field written with its bits of the register's new value. A locked field asks the lock as it stood before the
access, in `old`: a write that sets the lock still sets the fields that it locks (00 R5). -/
def writeFld (old : State) (v : Nat) (ft : Fld × FTy) (s : State) : State :=
  let (f, t) := ft
  let x := bits v f.lo f.width
  match t with
  | .rw | .wos => s.set f x
  | .rwl l => if old.on l then s else s.set f x
  | .setOnly => if x = 1 then s.set f 1 else s
  | _ => s

/-- The register as software last left it, with `n` bytes at its byte `a.byte` replaced. -/
def State.merged (s : State) (a : RegAt) (n v : Nat) : Nat :=
  let old := (a.flds.map fun (f, _) => place (s.get f) f.lo f.width).sum
  let lo := 8 * a.byte
  let w := 8 * min n (a.row.width / 8 - a.byte)
  old - bits old lo w * 2 ^ lo + v % 2 ^ w * 2 ^ lo

/-- What follows a change: WARN_C and LASER_CFG are journaled (13 R480); a write to a locked binding counts (12 R449); CAL_USER
holds the selected record's value (15 R532). -/
def afterWrite (a : RegAt) (v : Nat) (before : State) (s : State) : State :=
  match a.row.base with
  | 0x300018 | 0x70c800 => if before.merged a 0 0 == v then s else journalSettings s
  | 0x200100 | 0x200200 => if s.on Reg.BIND_CTRL_LOCK then bump Reg.BIND_CTRL_DROPPED 1 s else s
  | 0x704004 =>
    if s.calSelected then
      let key := s.get Reg.CAL_SEL_KIND * 4096 + s.get Reg.CAL_SEL_INDEX
      { s with det := { s.det with user := tset 0 s.det.user key (toSigned 16 v) } }
    else s
  | _ => s

/-- A write of `n` bytes to one register. -/
def writeOne (a : RegAt) (n v : Nat) (s : State) : State :=
  if !s.regOpen a then s
  else
    let x := s.merged a n v
    afterWrite a x s (a.flds.foldl (fun t ft => writeFld s x ft t) s)

/-- A write of 4 or 8 bytes at an offset of the map; the high half of an 8-byte write goes to the next word when the register
there is another one. -/
def writeReg (off n v : Nat) (s : State) : State :=
  match regAt? off with
  | none => if n = 8 then (match regAt? (off + 4) with
      | some b => writeOne b 4 (v / 2 ^ 32) s
      | none => s) else s
  | some a =>
    if n = 8 && a.row.width = 32 then
      let s := writeOne a 4 (v % 2 ^ 32) s
      match regAt? (off + 4) with
      | some b => writeOne b 4 (v / 2 ^ 32) s
      | none => s
    else writeOne a n v s

/-- REGISTER_WRITE: a write to fields that have no behaviour of their own. -/
def execRegisterWrite (who : Who) (off n : Nat) (value : W64) (s : State) : Result :=
  perform (whoOk who && regShape off n) (fun s =>
    if s.vfDark who then s
    else match s.reach who true off n with
      | some x => writeReg x n value.toNat s
      | none => s) s

/-- RC_READ: a read of a word with read-clear fields; `during` holds, at the fields' places, the events that came during the
read. -/
def execRcRead (who : Who) (off : Nat) (during : W32) (s : State) : Result :=
  perform (whoOk who && regShape off 4) (fun s =>
    let (v, s) := regRead who off 4 during.toNat s
    s.put (.value v)) s

/-- HIGH_WORD_LATCH_READ: a read of 4 bytes, or of 8 bytes from one instant. -/
def execHighWordLatchRead (who : Who) (off n : Nat) (s : State) : Result :=
  perform (whoOk who && regShape off n) (fun s =>
    let (v, s) := regRead who off n 0 s
    s.put (.value v)) s

/-- COMMITTED_STEP_READ: a read of a PART_COMMIT block's first word, or of its first eight bytes. -/
def execCommittedStepRead (who : Who) (p n : Nat) (s : State) : Result :=
  perform (whoOk who && partOk p && (n == 4 || n == 8)) (fun s =>
    let off := match who with
      | .vf _ => 0x1000
      | _ => 0x1000 + p * 0x100
    let (v, s) := regRead who off n 0 s
    s.put (.value v)) s

/-- Write-one-to-clear bits of a word cleared; bits that hardware sets in the same access stay set (R6). -/
def clearW1c (off value sets : Nat) (s : State) : State :=
  match regAt? off with
  | none => s
  | some a => a.flds.foldl (fun s (f, t) =>
      if t == .rw1c && decide (f.lo / 32 = a.byte / 4) then
        let lo := f.lo % 32
        s.set f (((upFrom 0 f.width).map fun i =>
          if bit sets (lo + i) || (bit (s.get f) i && !bit value (lo + i)) then 2 ^ i else 0).sum)
      else s) s

/-- RW1C_WRITE: a write to write-one-to-clear bits; `sets` are the bits that hardware sets in the same access. The word's
other fields are written as well. -/
def execRw1cWrite (who : Who) (off : Nat) (value sets : W32) (s : State) : Result :=
  perform (whoOk who && regShape off 4) (fun s =>
    if s.vfDark who then clearW1c off 0 sets.toNat s
    else match s.reach who true off 4 with
      | some x => s |> writeReg x 4 value.toNat |> clearW1c x value.toNat sets.toNat
      | none => clearW1c off 0 sets.toNat s) s

/-- PKG_ID_LOCK: a write of 1 to PKG_ID.LOCK; the ID written with it or before it goes to the journal (01 R32, 13 R480). -/
def execPkgIdLock (value : W32) (s : State) : Result :=
  perform true (fun s =>
    let s := writeReg 4 4 value.toNat s
    if bit value.toNat 31 && !s.on Reg.PKG_ID_LOCK then
      s |> set Reg.PKG_ID_LOCK 1 |> journalWrite 1 0 (leBytes 2 (s.get Reg.PKG_ID_ID)) else s) s

end Sys2Proof.Machine
end

