-- ==== Sys2Proof/Machine/UcOps.lean ====
section
/-!
DEFINITION. Undercroft queues, table headers and the sparse undo area as shared operations (09 R337 to R347, R352).
-/
namespace Sys2Proof.Machine
open State

/-! Quotas (R336, R352) and pushes (R347). -/

/-- UC_QUOTA_WRITE: a write of UC_QUOTA. No request is outstanding between commands, so the counter reads the limit. -/
def setUcQuota (u p v : Nat) (s : State) : State :=
  s |> set (Reg.UC_QUOTA_WEIGHT u p) (bits v 24 8) |> set (Reg.UC_QUOTA_REQ_LIMIT u p) (bits v 0 13)

def execUcQuotaWrite (who : Who) (u p : Nat) (value : W32) (s : State) : Result :=
  perform (whoOk who && ucOk u && partOk p) (whenUp fun s =>
    if s.mayWrite who (Reg.UC_QUOTA_WEIGHT u p).base then setUcQuota u p value.toNat s else s) s

/-- A push: 24 words and the partition of the core; a full queue drops it. -/
def ucPush (u : Nat) (conv : Bool) (p : Nat) (d : List Nat) (s : State) : State :=
  let x := s.uc u
  let q := if conv then x.cq else x.gq
  if 32 ≤ q.length then s |> raise Ev.ucQueueFull (partStamp p) [u, b2n conv]
  else s.setUc u (if conv then { x with cq := q ++ [d ++ [p]] } else { x with gq := q ++ [d ++ [p]] })

/-- Word `w` of a push window written; word 23 pushes. -/
def ucWindow (u : Nat) (conv : Bool) (p w v : Nat) (s : State) : State :=
  let x := s.uc u
  let win := tset 0 (if conv then x.cwin else x.gwin) w (v % 2 ^ 32)
  let s := s.setUc u (if conv then { x with cwin := win } else { x with gwin := win })
  if w = 23 then ucPush u conv p ((upFrom 0 24).map fun i => tget 0 win i) s else s

/-- UC_GATHER_PUSH: a write of a word of the gather window by a control core; host writes are dropped (R348). -/
def execUcGatherPush (who : Who) (u w : Nat) (value : W32) (s : State) : Result :=
  perform (whoOk who && ucOk u && decide (w < 24)) (fun s =>
    match who with
    | .core p => if s.controlRight p 0 true (Reg.UC_GATHER_PUSH u w).base 4 then ucWindow u false p w value.toNat s else s
    | _ => s) s

/-- UC_CONV_PUSH: the same for the converter window. -/
def execUcConvPush (who : Who) (u w : Nat) (value : W32) (s : State) : Result :=
  perform (whoOk who && ucOk u && decide (w < 24)) (fun s =>
    match who with
    | .core p => if s.controlRight p 0 true (Reg.UC_CONV_PUSH u w).base 4 then ucWindow u true p w value.toNat s else s
    | _ => s) s

/-! Table headers (R337, R338). -/

structure TblHdr where
  magic : Nat
  fmt : Nat
  update : Nat
  dim : Nat
  sources : Nat
  rows : Nat
  srcRows : Nat
  undoRows : Nat
  stateOff : Nat
  markOff : Nat
  undoOff : Nat
  inboxOff : Nat
  gathers : Nat
  zero : Bool
  deriving DecidableEq, Repr, Inhabited

def tblHdrOf (v : Nat) : TblHdr :=
  let f (o n : Nat) := bits v (8 * o) (8 * n)
  ⟨f 0 4, f 4 1, f 6 2, f 8 2, f 0xA 2, f 0xC 4, f 0x10 4, f 0x14 4, f 0x18 8, f 0x20 8, f 0x28 8, f 0x30 8, f 0x38 4,
   f 5 1 == 0 && f 0x3C 4 == 0⟩

def up64 (n : Nat) : Nat := (n + 63) / 64 * 64

def TblHdr.rowBytes (h : TblHdr) : Nat :=
  up64 (if h.fmt = 0 then 4 * h.dim else if h.fmt = 1 then 2 * h.dim else h.dim + h.dim / 32)
def TblHdr.trained (h : TblHdr) : Bool := h.update != 0xFFFF && h.sources != 0
def TblHdr.srcBytes (h : TblHdr) : Nat := 64 + up64 (4 * h.srcRows) + h.srcRows * h.dim * 4

/-- The UPDATE entry of a table. -/
def TblHdr.upd (h : TblHdr) (r : Rigging) : Upd := (r.upd? h.update).getD (updOf 0)
/-- SROW: bytes of one row's element state. -/
def TblHdr.stateRow (h : TblHdr) (r : Rigging) : Nat := up64 (stateBytes (h.upd r).stateFmt h.dim)

/-- The arrays of a table: offset and bytes. A table that no update trains has rows only; the undo area's length is not
given, so only its place is held against the region and the other arrays (log 54). -/
def TblHdr.arrays (h : TblHdr) (r : Rigging) : List (Nat × Nat) :=
  [(0x1000, h.rows * h.rowBytes)]
    ++ (if h.update = 0xFFFF then [] else
      [(h.stateOff, (h.upd r).nE * h.rows * h.stateRow r), (h.markOff, 8 * h.rows)])
    ++ (if h.sources = 0 then [] else [(h.inboxOff, h.sources * h.srcBytes)])

def noOverlap : List (Nat × Nat) → Bool
  | [] => true
  | (a, n) :: r => (r.all fun (b, m) => n == 0 || m == 0 || !overlap a n b m) && noOverlap r

/-- R338. -/
def TblHdr.ok (h : TblHdr) (r : Rigging) (g : Region) : Bool :=
  h.magic == 0x454D4254 && decide (h.fmt ≤ 2) && h.zero && h.dim % 32 == 0 && decide (32 ≤ h.dim) && decide (h.dim ≤ 1024)
    && decide (h.sources ≤ 64)
    && ((h.arrays r).all fun (a, n) => decide (a + n ≤ g.size)) && (h.sources == 0 || decide (h.undoOff < g.size))
    && noOverlap ((if h.sources = 0 then [] else [(h.undoOff, 1)]) ++ h.arrays r)
    && decide (h.sources * h.srcRows ≤ h.undoRows) && (h.sources == 0 || h.fmt == 0)
    && (h.update == 0xFFFF || (match r.upd? h.update with
      | some x => x.slot == g.slot && !x.squares && !x.refreshEn && x.nM == 0
      | none => false))

/-- The EMBEDDING region of partition `p` whose header line is at an offset. -/
def State.tableAt? (s : State) (p o : Nat) : Option Region :=
  (s.imageOf p).regions.find? fun g => g.kind == 4 && g.base == o

/-- The header of a table. -/
def State.hdrAt (s : State) (o : Nat) : TblHdr := tblHdrOf (s.memLe o 64)

/-! Places within a table at region offset `o`. -/
def TblHdr.rowAt (h : TblHdr) (o r : Nat) : Nat := o + 0x1000 + r * h.rowBytes
def TblHdr.stateAt (h : TblHdr) (g : Rigging) (o k r : Nat) : Nat := o + h.stateOff + (k * h.rows + r) * h.stateRow g
def TblHdr.markAt (h : TblHdr) (o r : Nat) : Nat := o + h.markOff + 8 * r
def TblHdr.inboxAt (h : TblHdr) (o k : Nat) : Nat := o + h.inboxOff + k * h.srcBytes

/-- A row's elements as binary32 values: the heads of pairs, BF16, or MXFP8 (R340). -/
def TblHdr.rowValues (h : TblHdr) (l : List Byte) : List Nat :=
  (upFrom 0 h.dim).map fun d =>
    if h.fmt = 0 then widen bf16 (ofLe ((l.drop (4 * d + 2)).take 2))
    else if h.fmt = 1 then widen bf16 (ofLe ((l.drop (2 * d)).take 2))
    else mxValue fp32 e4m3 (lget 0 l (h.dim + d / 32)).toNat (lget 0 l d).toNat

/-! Sparse work (R342 to R345). -/

/-- Every partition's trained tables: image region and header. -/
def State.trainedTables (s : State) (p : Nat) : List (Region × TblHdr) :=
  (((s.imageOf p).regions.filter fun g => g.kind == 4).map fun g => (g, s.hdrAt g.base)).filter fun x => x.2.trained

/-- The sparse work of a table and step. -/
def State.sparse? (s : State) (p table step : Nat) : Option Sparse :=
  s.sparse.find? fun x => x.part == p && x.table == table && x.step == step
def setSparse (x : Sparse) (s : State) : State :=
  { s with sparse := (s.sparse.filter fun y => !(y.part == x.part && y.table == x.table && y.step == x.step)) ++ [x] }
def dropSparse (p table step : Nat) (s : State) : State :=
  { s with sparse := s.sparse.filter fun y => !(y.part == p && y.table == table && y.step == step) }

/-- Undo slots written back: row, element states and mark (R345). The stored bytes replace whole lines, so no line is read. -/
def restoreSlot (r : Rigging) (o : Nat) (h : TblHdr) (x : Undo) (s : State) : State :=
  let put (a : Nat) (l : List Byte) (s : State) : State := (memWrite .other [] a l s).2
  let s := put (h.rowAt o x.row) x.bytes s
  let s := (x.states.zipIdx).foldl (fun s (l, k) => put (h.stateAt r o k x.row) l s) s
  put (h.markAt o x.row) (leBytes 8 x.mark) s

/-- The sparse work of a table and step undone. -/
def restoreSparse (x : Sparse) (s : State) : State :=
  let h := s.hdrAt x.table
  let s := x.undo.foldl (fun s u => restoreSlot (s.imageOf x.part) x.table h u s) s
  dropSparse x.part x.table x.step s

/-- The sparse work of a step undone at every table of a partition. -/
def undoStep (p step : Nat) (s : State) : State :=
  (s.sparse.filter fun x => x.part == p && x.step == step).foldl (fun s x => restoreSparse x s) s

/-- VALID cleared in every count line of the partition's tables (R345). -/
def clearCounts (p : Nat) (s : State) : State :=
  (s.trainedTables p).foldl (fun s (g, h) =>
    (upFrom 0 h.sources).foldl (fun s k => (memWrite .other [] (h.inboxAt g.base k + 8) (leBytes 4 0) s).2) s) s

/-- A partition's descriptors taken out of every queue and its holds cleared; a queue that one of them had stopped goes on
(R345, R347, 11 R401). -/
def clearUcQueues (p : Nat) (s : State) : State :=
  (upFrom 0 16).foldl (fun s u =>
    let x := s.uc u
    let mine (d : List Nat) : Bool := lget 0 d 24 == p
    let headMine (q : List (List Nat)) : Bool := match q with
      | d :: _ => mine d
      | [] => true
    let gm := headMine x.gq
    let cm := headMine x.cq
    let held := x.held.filter fun k => k / 3 != p
    let errQ := s.get (Reg.UC_DESC_ERR_QUEUE u)
    let s := s.setUc u { x with gq := x.gq.filter fun d => !mine d, cq := x.cq.filter fun d => !mine d, held := held,
                                gpush := match x.gpush with
                                  | some d => if mine d then none else some d
                                  | none => none }
    let s := if gm then s.set (Reg.UC_STATUS_GATHER_STOPPED u) 0 else s
    let s := if cm then s.set (Reg.UC_STATUS_CONV_STOPPED u) 0 else s
    let s := if (errQ = 0 && gm) || (errQ = 1 && cm) then s.set (Reg.UC_DESC_ERR_CODE u) 0 else s
    s.set (Reg.UC_STATUS_LINE_HELD u) (b2n !held.isEmpty)) s

/-- Whether every sparse update of a stage's tables for a step is written (08 R307). -/
def State.sparseWritten (s : State) (p slot step : Nat) : Bool :=
  (s.trainedTables p).all fun (g, _) => g.slot != slot || (match s.sparse? p g.base step with
    | some x => x.pass == 2 && x.undo.all Undo.written
    | none => false)

end Sys2Proof.Machine
end

