-- ==== Sys2Proof/Machine/ControlSpace.lean ====
section
/-!
DEFINITION. Control space (class 3): what an access that has passed its checks does (01 R40, 11 R397, 14 R489), and the
fabric commands of an agent of this package.
-/
namespace Sys2Proof.Machine
open State

/-- One word written through control space. The registers with a behaviour of their own that a grant can reach are those
of schedules, stage quotas, channels, landings, flights and undercrofts. -/
def ctlWord (p off v : Nat) (s : State) : State :=
  match regAt? off with
  | none => s
  | some a =>
    match a.row.base with
    | 0x40400c => setScale a.i a.j v s
    | 0x40a020 =>
      withStage a.i (fun p r t s => if (s.stage a.i).mode == .idle then noteBlocked p r t s else s)
        (s.set (Reg.SEQ_QUOTA_QUOTA_MIB a.i) v)
    | 0x100000c => setChanLimit a.i v s
    | 0x1020008 => setLandLimit (64 * a.i + a.j) (bits v 0 9) s
    | 0x1010040 => writePush (148 * a.i + a.j) a.k v s
    | 0x2000100 => setUcQuota a.i a.j v s
    | 0x2000200 => ucWindow a.i false p a.j v s
    | 0x2000280 => ucWindow a.i true p a.j v s
    | _ => s |> writeReg off 4 v |> clearW1c off v 0

/-- A write of 4 or 8 bytes through control space for partition `p`. -/
def ctlWrite (p off n v : Nat) (s : State) : State :=
  let s := ctlWord p off (v % 2 ^ 32) s
  if n = 8 then ctlWord p (off + 4) (v / 2 ^ 32) s else s

/-- An access of any class at its target: checked, performed, answered (11 R392, R393). A request for a role in re-rig
waits (R395). -/
def fabAccess (bad : Tbl Nat) (r : FabReq) (s : State) : State :=
  let c := s.fabCheck r
  if c ≠ FabSt.ok then s |> fabError r c |> fabReply r c []
  else if s.fabWaits r then { s with fabric := { s.fabric with waiting := s.fabric.waiting ++ [r] } }
  else if fabCls r.addr = 3 then
    let p := (s.agentPart r.agent).getD 0
    if r.op = opWrite then s |> ctlWrite p (fabOff r.addr) r.size (ofLe (fit 0 r.size r.data)) |> fabReply r FabSt.ok []
    else
      let (v, s) := readReg r.agent.key (fabOff r.addr) r.size 0 s
      fabReply r FabSt.ok (leBytes r.size v) s
  else fabServe bad r s

/-! Requests to other packages (R402 to R405). -/

/-- A request for another package sent on the partition's route, or ended with NO_ROUTE: without a route, or for an atomic
where a die link on the way to the rope lacks atomics (R558). Without a request credit it stays with its agent and nothing
changes. -/
def issueRemote (r : FabReq) (s : State) : State :=
  match (s.agentPart r.agent).bind fun p => (s.route? p (fabPkg r.addr)).map fun x => (p, x) with
  | none => s |> fabError r FabSt.noRoute |> fabReply r FabSt.noRoute []
  | some (p, k, v) =>
    if r.op = opAtomic && s.pathLacksAtomic r.agent.die (ropeDie k) (fabOff r.addr / 64) then
      s |> fabError r FabSt.noRoute |> fabReply r FabSt.noRoute []
    else if 64 ≤ s.outstanding k v then s
    else
      let tag := s.fabric.nextTag
      let s := keepRoute p (fabPkg r.addr) s
      { s with fabric := { s.fabric with nextTag := (tag + 1) % 2 ^ 16, remote := s.fabric.remote ++ [⟨k, v, tag, p, r⟩] } }
        |> sendFabric p k v (fabBody r.op r.func r.size tag r.addr r.data)

/-- Requests of a channel that wait at this end: its queue of 64 (R404). -/
def State.queuedFrom (s : State) (k v : Nat) : Nat :=
  (s.fabric.waiting.filter fun x => match x.agent with
    | .peer k' v' _ _ => k' == k && v' == v
    | _ => false).length

/-- A peer's request as it came: its bytes leave the channel's buffer; it must name the job of the channel's partition and an
address of this package, which forwards nothing, else it ends with RIGHTS (R402, R405). A channel that is closed or stopped
delivers nothing, and one whose queue is full takes nothing. -/
def peerAccess (k v tag job : Nat) (bad : Tbl Nat) (r : FabReq) (s : State) : State :=
  match (s.vchan k v).part with
  | none => s
  | some p =>
    if !s.delivers k v || 64 ≤ s.queuedFrom k v then s
    else
      let body := fabBody r.op r.func r.size tag r.addr r.data
      let s := tookMsg k v (msgHeader 5 0 0 body.length job 0 ++ body) s
      if (job ≠ (s.imageOf p).jobId || fabPkg r.addr ≠ s.get Reg.PKG_ID_ID) && (s.fabCheck r == FabSt.ok || s.fabCheck r == FabSt.unavailable) then
        fabReply r FabSt.rights [] s
      else fabAccess bad r s

/-- An access as its agent makes it: at this package, or sent to the one it names. -/
def fabLocal (r : FabReq) (bad : Tbl Nat) (s : State) : State :=
  match r.agent with
  | .peer k v tag job => peerAccess k v tag job bad r s
  | _ => if fabPkg r.addr = s.get Reg.PKG_ID_ID then fabAccess bad r s else issueRemote r s

/-- FABRIC_READ: a read checked and performed at its target (R396, R397). -/
def execFabricRead (agent : Agent) (addr : W64) (size : Nat) (bad : List (Nat × Nat)) (s : State) : Result :=
  perform (agentOk agent) (fabLocal ⟨agent, opRead, 0, size, addr.toNat, []⟩ bad) s

/-- FABRIC_WRITE: a write checked, performed and acknowledged. -/
def execFabricWrite (agent : Agent) (addr : W64) (data : List Byte) (bad : List (Nat × Nat)) (s : State) : Result :=
  perform (agentOk agent) (fabLocal ⟨agent, opWrite, 0, data.length, addr.toNat, data⟩ bad) s

/-- FABRIC_ATOMIC: a read, a change and a write as one access; the old value is returned (R398). -/
def execFabricAtomic (agent : Agent) (func : Nat) (addr : W64) (size : Nat) (value compare : W64)
    (bad : List (Nat × Nat)) (s : State) : Result :=
  perform (agentOk agent)
    (fabLocal ⟨agent, opAtomic, func, size, addr.toNat, leBytes size value.toNat ++ (if func = 4 then leBytes size compare.toNat else [])⟩ bad) s

/-- FABRIC_REQUEST_ISSUE: a request for another package sent on the fabric route (R402). -/
def execFabricRequestIssue (agent : Agent) (op func : Nat) (addr : W64) (size : Nat) (data : List Byte) (s : State) : Result :=
  perform (agentOk agent && (op == 1 || op == 2 || op == 3)) (fun s =>
    match agent with
    | .peer _ _ _ _ => s
    | _ => if fabPkg addr.toNat = s.get Reg.PKG_ID_ID then s else issueRemote ⟨agent, op, func, size, addr.toNat, data⟩ s) s

/-- FABRIC_RESPONSE: the answer to an outstanding request: its credit returns, and its agent has the status and data
(R403, R404). -/
def execFabricResponse (k v : Nat) (msg : List Byte) (s : State) : Result :=
  perform (ropeOk k && vcOk v) (fun s =>
    if !s.delivers k v then s
    else
      let s := tookMsg k v msg s
      let tag := mAt msg 4 2
      match s.fabric.remote.find? fun x => x.rope == k && x.vc == v && x.tag == tag with
      | none => s
      | some x =>
        let st := mAt msg 1 1
        { s with fabric := { s.fabric with remote := s.fabric.remote.filter fun y => y != x } }
          |> fabError x.req st |> fabReply x.req st ((mBody msg).drop 16)) s

/-! Landing messages (10 R372, R373; 07 R274). -/

/-- The landing that a message names: of kind `kind` here, on this rope and channel, of the channel's partition and job,
with this peer and the peer's landing. -/
def State.landTarget (s : State) (k v kind : Nat) (m : List Byte) : Option (Nat × Nat × LandCfg) :=
  match (s.vchan k v).part with
  | none => none
  | some p =>
    let n := mTarget m % 512
    let r := s.imageOf p
    match r.land? n with
    | some c =>
      if c.kind == kind && c.rope == k && c.vc == v && r.jobId == mJob m && c.peerLanding == bits (ofLe ((m.drop 2).take 2)) 0 9
          && c.peer == s.get (Reg.ROPE_PEER_PEER_ID k) then some (p, n, c) else none
    | none => none

/-- LANDING_ENTRY: an entry for a ROPE_IN landing: put there when its epoch is the partition's, else discarded. -/
def execLandingEntry (k v : Nat) (msg : List Byte) (s : State) : Result :=
  perform (ropeOk k && vcOk v) (fun s =>
    if !s.delivers k v then s
    else match s.landTarget k v 2 msg with
      | none => peerMismatch k v msg s
      | some (p, n, _) =>
        let s := tookMsg k v msg s
        if mEpoch msg ≠ (s.svc p).epoch then s
        else
          let l := s.landing n
          s.setLanding n { l with ents := l.ents ++ [entryOf (mBody msg)] } |> bump (Reg.LAND_COUNTS_PUSHED n) 1) s

/-- LANDING_CREDIT: a grant, return or adjustment for a ROPE_OUT counter; one of a later epoch waits, one of an earlier is
discarded. -/
def execLandingCredit (k v : Nat) (msg : List Byte) (s : State) : Result :=
  perform (ropeOk k && vcOk v) (fun s =>
    if !s.delivers k v then s
    else match s.landTarget k v 1 msg with
      | none => peerMismatch k v msg s
      | some (p, n, _) =>
        let s := tookMsg k v msg s
        let d := toSigned 32 (mAt msg 0 4)
        if mEpoch msg = (s.svc p).epoch then creditLanding n d (mAt msg 4 1 == 1) s
        else if seqLater 8 (mEpoch msg) (s.svc p).epoch then
          let l := s.landing n
          s.setLanding n { l with pend := l.pend + d }
        else s) s

end Sys2Proof.Machine
end

