-- ==== Sys2Proof/Machine/RopeOps.lean ====
section
/-!
DEFINITION. Rope ends as shared operations: rope keys, flushes, GRACE, bring-up, resume (10 R359 to R366, R378 to R381;
14 R498, R499; 13 R474).
-/
namespace Sys2Proof.Machine
open State

/-! STATE values (R386). -/
namespace RS
def off : Nat := 0
def down : Nat := 1
def training : Nat := 2
def active : Nat := 3
def grace : Nat := 4
end RS

def State.ropeSt (s : State) (k : Nat) : Nat := s.get (Reg.ROPE_STATUS_STATE k)
def setRopeSt (k st : Nat) : State → State := set (Reg.ROPE_STATUS_STATE k) st

def popcount8 (m : Nat) : Nat := ((upFrom 0 8).filter fun j => bit m j).length
/-- Bits of `a` that `b` lacks. -/
def without (a b : Nat) : Nat := a &&& (b ^^^ 0xFF)

/-- MIN_WIDTH as taken (R386). -/
def State.minWidth (s : State) (k : Nat) : Nat := max 1 (min 8 (s.get (Reg.ROPE_CTRL_MIN_WIDTH k)))
/-- GRACE_US as taken, in nanoseconds. -/
def State.graceNs (s : State) (k : Nat) : Nat := max 1000 (s.get (Reg.ROPE_CTRL_GRACE_US k)) * 1000

/-- The active set shown, with its width. -/
def showActive (k m : Nat) (s : State) : State :=
  s |> set (Reg.ROPE_STATUS_ACTIVE k) m |> set (Reg.ROPE_STATUS_WIDTH k) (popcount8 m)

/-! Peers lost (13 R474). -/

/-- The peer of a partition's tree edge on a rope. -/
def State.edgePeer (s : State) (p k : Nat) : Option Nat :=
  if !s.isRoot p && s.parentRope p == k then some (s.get (Reg.TREE_CFG_PARENT_ID p))
  else ((s.svc p).joined.find? fun j => j.1 == k).map fun j => j.2.1

/-- A lost peer: admission stops, the package waits in WAIT_PEER and records the peer. -/
def peerLost (p peer : Nat) (s : State) : State :=
  match (s.svc p).state with
  | .running | .rewinding | .rollback | .catchup | .waitPeer =>
    if (s.svc p).state == .waitPeer && s.get (Reg.TREE_STATUS_PEER_ID p) == peer then s
    else
      s |> setSvcState p .waitPeer |> set (Reg.STEP_STATUS_CAUSE p) Why.peerLost |> set (Reg.TREE_STATUS_VALID p) 1
        |> set (Reg.TREE_STATUS_PEER_ID p) peer |> raise Ev.peerLost (partStamp p) [peer] |> beginOutage p false
        |> notifyStep p 7
  | _ => s

/-- Every tree edge that a rope carried loses its peer. -/
def edgesLost (k : Nat) (s : State) : State :=
  s.loaded.foldl (fun s p => match s.edgePeer p k with
    | some peer => peerLost p peer s
    | none => s) s

/-! Rope keys (14 R498, R499). -/

/-- The rope key of a rope end: SHAKE256 over the secret, the epoch, the lower package ID with its rope number and the
higher with its own. -/
def ropeKey (secret : List Byte) (epoch : Nat) (a b : Nat × Nat) : Nat :=
  let (l, h) := if a.1 < b.1 || (a.1 = b.1 && a.2 ≤ b.2) then (a, b) else (b, a)
  let side (x : Nat × Nat) : List Byte := leBytes 2 x.1 ++ leBytes 1 x.2
  ofLe (Config.shake256 (secret ++ leBytes 2 epoch ++ side l ++ side h) 32) + 1

/-- The key that the fabric secret in force gives a rope and its peer; 0 without a secret. -/
def State.ropeKeyNow (s : State) (k : Nat) : Nat :=
  match s.sec.fab with
  | some (e, x) => ropeKey x e (s.get Reg.PKG_ID_ID, k)
      (s.get (Reg.ROPE_PEER_PEER_ID k), s.get (Reg.ROPE_PEER_PEER_ROPE k))
  | none => 0

def State.fabEpoch (s : State) : Nat := (s.sec.fab.map Prod.fst).getD 0

/-- The counter at which a rope's control channel may begin under a fabric epoch: the journaled one, or 0. -/
def State.nonceBegin (s : State) (k epoch : Nat) : Nat :=
  match s.journal.latest 7 (0x100 + k) with
  | some r => if ofLe (r.body.take 2) = epoch then ofLe ((r.body.drop 8).take 8) else 0
  | none => 0

/-- Before the first counter of a block of 2^32 is used, the start of the next block is journaled. -/
def journalNonce (k epoch count : Nat) (s : State) : State :=
  if count % 2 ^ 32 = 0 then
    journalWrite 7 (0x100 + k) (leBytes 2 epoch ++ leBytes 6 0 ++ leBytes 8 (count + 2 ^ 32)) s
  else s

/-- What a rope end tells as the next nonce counter of a channel under its current key. -/
def State.nextNonce (s : State) (k v : Nat) : Nat :=
  let c := s.vchan k v
  if v = 8 && c.keyAt c.cur = 0 then s.nonceBegin k s.fabEpoch else c.txAt c.cur

/-- A new rope key put into the slot that is not current; it becomes current at the next first transmission, and the old
slot awaits clearing (R378). -/
def switchRopeKey (k : Nat) (s : State) : State :=
  let c := s.vchan k 8
  let key := s.ropeKeyNow k
  let i := c.sendSlot
  if key = 0 || c.keyAt i = key then s
  else
    let n := 1 - i
    let c := ((c.load n key).setTx n (s.nonceBegin k s.fabEpoch))
    setVchan k 8 { c with next := some n, old := if c.keyAt i = 0 then none else some i } s

/-- The rope key of a start: slot 0 of the control channel at both ends, with the counter told in the TRAIN flits
(log 57). -/
def startRopeKey (k : Nat) (rx : Nat) (s : State) : State :=
  let t := s.nextNonce k 8
  let c := s.vchan k 8
  setVchan k 8 ({ c with key0 := s.ropeKeyNow k, key1 := 0, cur := 0, next := none, old := none, txCnt0 := t,
                         txCnt1 := 0, rxCnt0 := rx, rxCnt1 := 0, exhausted := false, badTag := none }) s

/-- A slot that is no longer current cleared once no flit sent under it is unacknowledged and every flit received under it is accepted
(R378; log 58). -/
def VChan.clearOld (v : Nat) (held : List (Nat × Nat × List Byte)) (c : VChan) : VChan :=
  match c.old with
  | none => c
  | some i =>
    if i == c.cur || (held.any fun h => h.2.1 == v && (hdrOf h.2.2).enc && (hdrOf h.2.2).keyEpoch == i)
      || (c.rxAt i != 0 && c.rxAt (1 - i) == 0) then c
    else { c.load i 0 with old := none }

def clearOldSlots (k : Nat) (s : State) : State :=
  let r := s.rope k
  s.setRope k { r with chans := r.chans.zipIdx.map fun (c, v) => c.clearOld v r.held }

/-! Leaving ACTIVE (R380, R381). -/

/-- The error window abandoned (R379). -/
def Rope.dropWindow (r : Rope) : Rope :=
  { r with winFlits := 0, winBad := 0, winCorr := 0, winUncorr := List.replicate 8 0 }

/-- The strands' symbols begin anew: their alignment is set at bring-up (R356). -/
def Rope.align (r : Rope) : Rope := { r with carry := 0, ncarry := 0, turn := 0, words := List.replicate 8 [] }

/-- Bring-up at phase `n`, with `m` the strands received cleanly, before any TRAIN flit (R359). -/
def Rope.restart (n m : Nat) (r : Rope) : Rope := { r with phase := n, locked := m, trained := false, peer := none }

/-- A retrain that keeps the link state: GRACE, on the rope's own timer (R380, R381). -/
def enterGrace (k : Nat) (s : State) : State :=
  if s.ropeSt k ≠ RS.active then s
  else
    let r := (s.rope k).dropWindow.restart 1 0
    s.setRope k { r with grace := some (s.timer k), replay := none, replayFrom := none, stuck := 0, naks := 0,
                         waiting := false, tell := false }
      |> setRopeSt k RS.grace

/-- A strand dropped from the active set, and from the strands of a bring-up in progress (R361). -/
def dropStrand (k j : Nat) (s : State) : State :=
  let a := s.get (Reg.ROPE_STATUS_ACTIVE k)
  let r := s.rope k
  let s := s.setRope k { r with dropped := r.dropped ||| 2 ^ j, locked := without r.locked (2 ^ j),
                                trained := r.trained && !bit r.locked j }
  if bit a j then s |> showActive k (without a (2 ^ j)) |> enterGrace k else s

/-- The channels that hold flits at this end: in the replay buffer, or not yet freed. -/
def Rope.heldMask (r : Rope) : Nat :=
  ((upFrom 0 9).map fun v =>
    let c := lget (VChan.init v) r.chans v
    b2n (r.held.any (fun h => h.2.1 == v) || !c.rxFlits.isEmpty || !c.early.isEmpty) * 2 ^ v).sum

/-- A channel after a flush; its key slots and nonce counters survive (R381), but a slot that was replaced is needed no more
(R378, 14 R498). -/
def VChan.flushed (c : VChan) : VChan :=
  let c := match c.old with
    | some i => if i == c.cur then c else { c.load i 0 with old := none }
    | none => c
  { c with credit := c.limit, cumSeen := 0, tx := if c.txCut then c.tx.drop 1 else c.tx, txCut := false, early := [],
           rx := [], rxFlits := [], freed := 0, reported := 0, badTag := none }

/-- The requests outstanding on a rope end with LINK_LOST at their requesters; the peer's requests that wait here are
discarded, and routes over the rope are chosen again (11 R402, R406). -/
def flushFabric (k : Nat) (s : State) : State :=
  let gone := s.fabric.remote.filter fun x => x.rope == k
  let stays (r : FabReq) : Bool := match r.agent with
    | .peer j _ _ _ => j != k
    | _ => true
  let s := { s with fabric := { s.fabric with
    remote := s.fabric.remote.filter fun x => x.rope != k
    waiting := s.fabric.waiting.filter stays
    routes := s.fabric.routes.filter fun x => x.2.2.1 != k } }
  gone.foldl (fun s x => s |> fabError x.req FabSt.linkLost |> fabReply x.req FabSt.linkLost []) s

/-- The partitions with an open virtual channel on a rope. -/
def State.ropeParts (s : State) (k : Nat) : List Nat :=
  dedup ((upFrom 0 8).filterMap fun v => (s.vchan k v).part)

/-- A flush: buffers emptied, counters at their limits, a new session, `ROPE_DOWN`; the partitions concerned rewind once
the rope is ACTIVE again (R381, 13 R462). -/
def flushRope (k : Nat) (s : State) : State :=
  let r := s.rope k
  let mask := r.heldMask
  let owed := (s.ropeParts k).foldl addOnce r.owed
  let s := s.setRope k { r.dropWindow with
    chans := r.chans.map VChan.flushed, held := [], txNext := 0, rxExpect := 0, replay := none, replayFrom := none,
    ackMoved := false, stuck := 0, waiting := false, naks := 0, report := 0, owed := owed, keyChecked := false }
  s |> set (Reg.ROPE_SESSION_LOCAL k) (s.get (Reg.ROPE_SESSION_LOCAL k) + 1)
    |> set (Reg.ROPE_PEER_VALID k) 0 |> bump (Reg.ROPE_COUNTS_FLUSHES k) 1
    |> raise0 Ev.ropeDown [k, mask] |> flushFabric k

/-- Whether a strand may be used: neither excluded nor dropped, and lit on an optical rope (R361, R383, R386). -/
def State.usable (s : State) (k : Nat) : Nat :=
  let on := if k < 6 then 0xFF else s.get (Reg.LASER_STATUS_LIT ((k - 6) / 2))
  without (without on (s.get (Reg.ROPE_CTRL_STRAND_OFF k))) (s.rope k).dropped

/-- Whether bring-up can begin: the package holds a fabric secret, and an optical rope has light. -/
def State.canTrain (s : State) (k : Nat) : Bool :=
  s.sec.fab.isSome && (decide (k < 6) || s.get (Reg.LASER_STATUS_STATE ((k - 6) / 2)) == 2)

/-- A rope taken to DOWN, from where bring-up begins afresh when it can. -/
def ropeDown (k : Nat) (s : State) : State :=
  let r := (s.rope k).restart (b2n (s.canTrain k)) 0
  s.setRope k { r with grace := none, dropped := 0, tell := false }
    |> showActive k 0 |> setRopeSt k RS.down

/-- A rope that waits in DOWN begins bring-up. -/
def wakeRope (k : Nat) (s : State) : State := if s.ropeSt k = RS.down && (s.rope k).phase == 0 then ropeDown k s else s

/-- A rope taken down without grace, or at the end of it: flushed, DOWN, its tree edges' peers lost (13 R474). -/
def loseRope (k : Nat) (s : State) : State :=
  if s.ropeSt k = RS.active || s.ropeSt k = RS.grace then s |> flushRope k |> ropeDown k |> edgesLost k
  else if s.ropeSt k = RS.off then s else ropeDown k s

/-! Replay (R366). -/

/-- The oldest held flit later than the peer's last accepted one, and those after it. -/
def Rope.afterAck (r : Rope) (ack : Nat) : List (Nat × Nat × List Byte) :=
  r.held.filter fun h => decide (2048 ≤ seqSub 12 ack h.1)

/-- Every held flit up to and including ACK released; a replay that stood at a released flit goes on at the oldest held. -/
def Rope.acked (ack : Nat) (r : Rope) : Rope :=
  let h := r.afterAck ack
  if h.length = r.held.length then r
  else
    let replay := match r.replay with
      | some q => if h.any (fun x => x.1 == q) then some q else h.head?.map Prod.fst
      | none => none
    { r with held := h, ackMoved := true, stuck := 0, replay := replay,
             replayFrom := if replay.isSome then r.replayFrom else none }

/-- A replay from the flit after `ack`. With nothing held there is nothing to replay. The eighth without progress
retrains the rope. -/
def startReplay (k ack : Nat) (s : State) : State :=
  let r := s.rope k
  match r.held with
  | [] => s
  | h :: _ =>
    let r := { r with replay := some h.1, replayFrom := some ack, ackMoved := false, stuck := r.stuck + 1 }
    let s := s.setRope k r |> bump (Reg.ROPE_COUNTS_REPLAYS k) 1
    if r.stuck = 8 then enterGrace k s else s

/-! Bring-up (R359, R360, R381). -/

/-- A TRAIN flit's contents. -/
def trainOf (f : List Byte) : TrainInfo :=
  let b := flitBody f
  let at_ (o n : Nat) : Nat := ofLe ((b.drop o).take n)
  ⟨at_ 0 2 % 2 ^ 14, at_ 2 1 % 32, at_ 4 2, at_ 6 2, at_ 8 2 % 4096, at_ 10 1,
   (upFrom 0 9).map fun v => at_ (16 + 8 * v) 8⟩

/-- The TRAIN flit that a rope end sends (R360). The session that it tells of the peer is the one last received while the rope
was ACTIVE (log 59). -/
def State.trainFlit (s : State) (k : Nat) : List Byte :=
  let r := s.rope k
  let v := r.report % 8
  let b := leBytes 2 (s.get Reg.PKG_ID_ID) ++ leBytes 1 k ++ leBytes 1 1 ++ leBytes 2 (s.get (Reg.ROPE_SESSION_LOCAL k))
    ++ leBytes 2 r.told ++ leBytes 2 r.rxExpect ++ leBytes 1 r.locked ++ List.replicate 5 0
    ++ (upFrom 0 9).flatMap fun v => leBytes 8 (s.nextNonce k v)
  flitOf { (default : FlitHdr) with type := FT.train, ack := (r.rxExpect + 4095) % 4096,
                                    ackValid := s.ropeSt k == RS.active, nak := decide (0 < r.naks),
                                    crVc := v, crCum := (s.vchan k v).freed, fill := 256 } b

/-- What the peer's TRAIN flit tells of itself. -/
def showPeer (k : Nat) (i : TrainInfo) (s : State) : State :=
  s |> set (Reg.ROPE_PEER_PEER_ID k) i.id |> set (Reg.ROPE_PEER_PEER_ROPE k) i.rope |> set (Reg.ROPE_PEER_VALID k) 1
    |> set (Reg.ROPE_SESSION_PEER k) i.session

/-- PART_UNAVAILABLE for each scrubbed partition that had channels on a rope (14 R506). -/
def tellScrubs (k : Nat) (s : State) : State :=
  (s.sec.unavailable.filter fun x => x.2.1 == k).foldl (fun s x =>
    sendControl k 0x19 (leBytes 4 x.2.2.1 ++ leBytes 1 x.2.2.2 ++ leBytes 3 0) s) s

/-- ROPE_KEY_CHECK, the first control message, before those that wait (14 R498). -/
def queueKeyCheck (k : Nat) (s : State) : State :=
  let c := s.vchan k 8
  let m := msgHeader 0x18 0 0 8 0 0 ++ leBytes 2 s.fabEpoch ++ leBytes 6 0
  let n := b2n c.txCut
  setVchan k 8 { c with tx := c.tx.take n ++ [m] ++ c.tx.drop n } s |> put (.rope k 8 ⟨0x18, m⟩)

/-- The rope is ACTIVE with strand set `m`, and the peer's session is the one that `i` tells. A strand outside the set enters
again only at a requested retrain or a fresh bring-up (R361). -/
def ropeUp (k m : Nat) (i : TrainInfo) (s : State) : State :=
  let r := s.rope k
  let owed := r.owed
  let s := s.setRope k { r.dropWindow.align with phase := 5, grace := none, owed := [], dropped := without 0xFF m,
                                                 told := i.session }
    |> showActive k m |> setRopeSt k RS.active |> queueKeyCheck k |> tellScrubs k
  owed.foldl (fun s p => if p ∈ s.loaded then findCause p actRewind Why.ropeFlush s else s) s

/-- A start: sequence numbers begin at 0 at both ends, and the peer's counters are taken. -/
def startRope (k : Nat) (i : TrainInfo) (m : Nat) (s : State) : State :=
  let r := s.rope k
  let s := s.setRope k { r with chans := r.chans.zipIdx.map fun (c, v) => c.setRx c.cur (lget 0 i.nonces v) }
  s |> startRopeKey k (lget 0 i.nonces 8) |> ropeUp k m i

/-- Phase 5: the end resumes when each end reports the other's session as it is now, and flushes otherwise (R381). In a
resume the counters told are those after the replay, which this end's own counts reach (R376; log 57). -/
def resumeRope (k : Nat) (i : TrainInfo) (m : Nat) (s : State) : State :=
  if i.lastSession = s.get (Reg.ROPE_SESSION_LOCAL k) && i.session = (s.rope k).told then
    let ack := (i.expect + 4095) % 4096
    let s := ropeUp k m i s
    s.setRope k (((s.rope k).acked ack)) |> clearOldSlots k |> startReplay k ack
  else
    let s := s |> flushRope k |> showPeer k i |> startRope k i m
    s.setRope k { s.rope k with tell := true }

/-- Phases 2 to 4 end when this end has sent a TRAIN flit with its good strands and the peer's last one tells the same set;
below MIN_WIDTH the rope waits for its retry (R359). -/
def finishTraining (k : Nat) (s : State) : State :=
  let r := s.rope k
  match r.peer with
  | none => s
  | some i =>
    if r.phase ≠ 2 || !r.trained || i.good ≠ r.locked then s
    else
      let m := r.locked
      let s := s.set (Reg.ROPE_STATUS_GOOD k) m
      if popcount8 m < s.minWidth k || !s.canTrain k then
        let s := s.setRope k (r.restart 0 0)
        if s.ropeSt k = RS.training then setRopeSt k RS.down s else s
      else resumeRope k i m s

/-- A good TRAIN flit while the strands are exchanged: a strand is good when both ends receive it. -/
def trainArrived (k : Nat) (i : TrainInfo) (s : State) : State :=
  let r := s.rope k
  let m := r.locked &&& i.good
  s.setRope k { r with locked := m, trained := r.trained && m == r.locked, peer := some i }
    |> showPeer k i |> finishTraining k

end Sys2Proof.Machine
end

