-- ==== Sys2Proof/Machine/DieLinks.lean ====
section
/-!
DEFINITION. The die links between the package's dies: DCP flits, capabilities, lane tests and splices, fences and partial
resets (11 R409 to R415, R418, R419). What a message asks is a command of its own, performed in the instant it is given;
here the link layer that carries it is held (log 62).
-/
namespace Sys2Proof.Machine
open State

/-! STATE values (R418). -/
namespace DS
def off : Nat := 0
def training : Nat := 1
def active : Nat := 2
def fenced : Nat := 3
def resetting : Nat := 4
end DS

def State.dieSt (s : State) (n : Nat) : Nat := s.get (Reg.DL_STATUS_STATE n)

/-- The pair of dies that a bundle belongs to: its first bundle and the number of bundles (R409). -/
def diePair (n : Nat) : Nat × Nat := if n < 128 then (n / 16 * 16, 16) else (128 + (n - 128) / 2 * 2, 2)

def Bundle.dir (b : Bundle) (d : Nat) : DieDir := if d = 0 then b.ab else b.ba
def Bundle.setDir (d : Nat) (x : DieDir) (b : Bundle) : Bundle := if d = 0 then { b with ab := x } else { b with ba := x }
def setDieDir (n d : Nat) (x : DieDir) (s : State) : State := s.setBundle n ((s.bundle n).setDir d x)

/-! Fences (R414). -/

/-- The next active bundle of a fenced bundle's pair, in ascending order, wrapping round, that carries channel `c`: one
without channel 2 takes none of that channel (R412). -/
def State.serving (s : State) (n c : Nat) : Option Nat :=
  let x := diePair n
  ((upFrom 1 (x.2 - 1)).map fun i => x.1 + (n - x.1 + i) % x.2).find? fun m =>
    s.dieSt m == DS.active && (c != 2 || bit (s.get (Reg.DL_STATUS_CHANNELS m)) 2)

/-- A flit of a fenced bundle resent on the bundle that now serves its channel; `resent` says that it had been sent before.
Without such a bundle it waits where it was. -/
def moveFlit (n d : Nat) (resent : Bool) (q : Nat × List Byte) (s : State) : State :=
  let m := (s.serving n q.1).getD n
  let y := (s.bundle m).dir d
  let s := setDieDir m d { y with queue := y.queue ++ [q] } s
  if resent && m != n then put (.die m q.2) s else s

/-- The messages of a direction that the other end has not accepted: resent, in order, on the bundle that now serves. -/
def moveFlits (n d : Nat) (s : State) : State :=
  let x := (s.bundle n).dir d
  let l := (x.held.filter fun h => decide (512 ≤ seqSub 10 (x.rxExpect + 1023) h.1)).map fun h => (h.2.1, h.2.2)
  let s := setDieDir n d DieDir.init s
  let s := l.foldl (fun s q => moveFlit n d true q s) s
  x.queue.foldl (fun s q => moveFlit n d false q s) s

/-- The link is down: no rate and no width. -/
def linkDown (n st : Nat) (s : State) : State :=
  s |> set (Reg.DL_STATUS_STATE n) st |> set (Reg.DL_STATUS_RATE n) 0 |> set (Reg.DL_STATUS_WIDTH n) 0

/-- An armed injection into a bundle that is fenced ends (15 R515). -/
def endInjectionOn (n : Nat) (s : State) : State := if s.injected 0x09 n then endInjection s else s

/-- A bundle fenced: its ends stop sending on it, its messages move, `DIE_LINK_FENCED`. -/
def fenceBundle (n : Nat) (s : State) : State :=
  if s.dieSt n = DS.fenced then s
  else s |> linkDown n DS.fenced |> moveFlits n 0 |> moveFlits n 1 |> raise0 Ev.dieLinkFenced [n] |> endInjectionOn n

/-- DIE_LINK_FENCED: a bundle is fenced. -/
def execDieLinkFenced (n : Nat) (s : State) : Result := perform (bundleOk n) (fenceBundle n) s

/-- DL_CTRL.ENABLE written: 0 fences the bundle, which then stays fenced (R418). -/
def dlEnable (n value : Nat) (s : State) : State :=
  let s := s.set (Reg.DL_CTRL_ENABLE n) (bits value 31 1)
  if bit value 31 then s else fenceBundle n s

/-- DL_DISABLE: a write of DL_CTRL.ENABLE 0 fences the bundle (R418). -/
def execDlDisable (n : Nat) (value : W32) (s : State) : Result :=
  perform (bundleOk n) (whenUp (dlEnable n value.toNat)) s

/-! Lane tests and splices (R413). -/

def spliceFld (n d i : Nat) : Fld × Fld :=
  match d, i with
  | 0, 0 => (Reg.DL_SPLICE_AB_VALID_0 n, Reg.DL_SPLICE_AB_LANE_0 n)
  | 0, 1 => (Reg.DL_SPLICE_AB_VALID_1 n, Reg.DL_SPLICE_AB_LANE_1 n)
  | 0, 2 => (Reg.DL_SPLICE_AB_VALID_2 n, Reg.DL_SPLICE_AB_LANE_2 n)
  | 0, _ => (Reg.DL_SPLICE_AB_VALID_3 n, Reg.DL_SPLICE_AB_LANE_3 n)
  | _, 0 => (Reg.DL_SPLICE_BA_VALID_0 n, Reg.DL_SPLICE_BA_LANE_0 n)
  | _, 1 => (Reg.DL_SPLICE_BA_VALID_1 n, Reg.DL_SPLICE_BA_LANE_1 n)
  | _, 2 => (Reg.DL_SPLICE_BA_VALID_2 n, Reg.DL_SPLICE_BA_LANE_2 n)
  | _, _ => (Reg.DL_SPLICE_BA_VALID_3 n, Reg.DL_SPLICE_BA_LANE_3 n)
def journalFld (n d : Nat) : Fld := if d = 0 then Reg.DL_SPLICE_AB_JOURNAL n else Reg.DL_SPLICE_BA_JOURNAL n

/-- The lanes of a direction that splices replace. -/
def State.spliced (s : State) (n d : Nat) : List Nat :=
  ((upFrom 0 4).filter fun i => s.on (spliceFld n d i).1).map fun i => s.get (spliceFld n d i).2

/-- A splice of redundant lane `i` shown as one of the journal map. -/
def showSplice (n d i lane : Nat) (s : State) : State :=
  s |> set (spliceFld n d i).1 1 |> set (spliceFld n d i).2 lane
    |> set (journalFld n d) (s.get (journalFld n d) ||| 2 ^ i)

/-- The SPLICE_MAP record of a bundle (13 R480). -/
def journalSplices (n : Nat) (l : List (Nat × Nat × Nat)) : State → State :=
  journalWrite 3 n (l.flatMap fun x => leBytes 1 x.1 ++ leBytes 1 x.2.1 ++ leBytes 1 x.2.2 ++ leBytes 1 1)

/-- The splices of a SPLICE_MAP body. -/
def splicesOf (body : List Byte) : List (Nat × Nat × Nat) :=
  let b (i : Nat) : Nat := ofLe ((body.drop i).take 1)
  (upFrom 0 (body.length / 4)).filterMap fun i => if b (4 * i + 3) = 1 then some (b (4 * i), b (4 * i + 1), b (4 * i + 2)) else none

/-- A faulty lane spliced with the lowest redundant lane left in its direction, if any is. -/
def spliceLane (n d lane : Nat) (s : State) : State :=
  if (s.spliced n d).contains lane then s
  else match (upFrom 0 4).find? fun i => !s.on (spliceFld n d i).1 with
    | none => s
    | some i =>
      let b := s.bundle n
      let l := b.spl ++ [(d, i, lane)]
      s |> setBundle n { b with spl := l } |> showSplice n d i lane |> journalSplices n l
        |> raise0 Ev.dieLinkSpliced [n, d, i, lane]

/-- A bundle begins to train; each training after the first counts (R419). -/
def beginTraining (n : Nat) (s : State) : State :=
  let b := s.bundle n
  let s := s.setBundle n { b with trained := b.trained + 1, narrowed := false }
  let s := if b.trained = 0 then s else bump (Reg.DL_COUNTS_RETRAINS n) 1 s
  linkDown n DS.training s

/-- What faults left unspliced in a direction leave of it: the width and half that it trains at; width 0 where neither half
is clean (R413). -/
def laneWidth (bad : List Nat) : Nat × Nat :=
  let low := bad.any fun l => decide (l < 32)
  let high := bad.any fun l => decide (32 ≤ l)
  if low && high then (0, 0) else if low || high then (1, b2n low) else (2, 0)

/-- LANE_TEST: the lanes that fail in each direction. Each that is not spliced is spliced; a direction with faults left over
trains at x32 on its clean half, and where neither is clean the bundle is fenced (R413). Before the start's bring-up the test
is both ends'; after a partial reset it is that of the end that was reset (R415). -/
def execLaneTest (n : Nat) (faultsAB faultsBA : List Nat) (s : State) : Result :=
  perform (bundleOk n && (faultsAB ++ faultsBA).all fun l => decide (l < 64)) (fun s =>
    if s.dieSt n ≠ DS.off && s.dieSt n ≠ DS.resetting then s
    else
      let s := faultsAB.foldl (fun s l => spliceLane n 0 l s) s
      let s := faultsBA.foldl (fun s l => spliceLane n 1 l s) s
      let (wa, ha) := laneWidth (faultsAB.filter fun l => !(s.spliced n 0).contains l)
      let (wb, hb) := laneWidth (faultsBA.filter fun l => !(s.spliced n 1).contains l)
      let b := s.bundle n
      let w := min wa wb
      let b := { b with width := if b.reset = 2 then b.width else w, widthB := if b.reset = 1 then b.widthB else w
                        half := if wa = 1 then ha else hb, halfBA := if wb = 1 then hb else ha, reset := 0 }
      if w = 0 then s.setBundle n b |> fenceBundle n else s.setBundle n b |> beginTraining n) s

/-- DL_RETEST: a write of DL_CTRL.RETEST clears the journal's splices; their lanes are tested at the next start (R413). -/
def execDlRetest (n : Nat) (value : W32) (s : State) : Result :=
  perform (bundleOk n) (whenUp fun s =>
    let s := dlEnable n value.toNat s
    if bit value.toNat 29 then s.setBundle n { s.bundle n with spl := [] } |> journalSplices n [] else s) s

/-! Capabilities and training (R412, R415). -/

/-- An attempt at training has failed; after three the bundle stays fenced. -/
def failAttempt (n : Nat) (s : State) : State :=
  let a := s.get (Reg.DL_STATUS_ATTEMPTS n) + 1
  let s := s.set (Reg.DL_STATUS_ATTEMPTS n) a
  if a = 3 then fenceBundle n s else beginTraining n s

/-- DL_TRAINING_TIMEOUT: training has not completed within 2 ms. -/
def execDlTrainingTimeout (n : Nat) (s : State) : Result :=
  perform (bundleOk n) (fun s => if s.dieSt n = DS.training then failAttempt n s else s) s

/-- DCP_CAP_FLIT: the capability record of end B; the link runs with what both ends have. Ends that trained at different
widths retrain at the narrower one; ends without a common major version or channels 0, 1 and 3 are fenced. -/
def execDcpCapFlit (n : Nat) (cap : CapRec) (s : State) : Result :=
  perform (bundleOk n) (fun s =>
    if s.dieSt n ≠ DS.training then s
    else
      let b := s.bundle n
      let s := s |> set (Reg.DL_CAP_MAJOR n) cap.major |> set (Reg.DL_CAP_MINOR n) cap.minor
        |> set (Reg.DL_CAP_GENERATION n) cap.generation |> set (Reg.DL_CAP_VENDOR n) cap.vendor
      if cap.major ≠ 1 || cap.channels &&& 0xB ≠ 0xB || cap.rates &&& 3 = 0 || cap.widths &&& 3 = 0 then
        s |> raise0 Ev.dieLinkIncompatible [n] |> fenceBundle n
      else
        let w := if bit cap.widths 1 then b.width else min 1 b.width
        if cap.trained ≠ w then
          if b.narrowed then failAttempt n s
          else
            let m := min w cap.trained
            let h := if cap.trained < w then cap.half % 2 else b.half
            let s := s.setBundle n { b with width := m, widthB := m, half := h, halfBA := h } |> beginTraining n
            s.setBundle n { s.bundle n with narrowed := true }
        else
          s |> set (Reg.DL_STATUS_STATE n) DS.active |> set (Reg.DL_STATUS_RATE n) (if bit cap.rates 1 then 2 else 1)
            |> set (Reg.DL_STATUS_WIDTH n) w |> set (Reg.DL_STATUS_HALF n) (if w = 1 then b.half else 0)
            |> set (Reg.DL_STATUS_ATTEMPTS n) 0 |> set (Reg.DL_STATUS_ATOMIC n) (b2n cap.atomic)
            |> set (Reg.DL_STATUS_CHANNELS n) (cap.channels &&& 0xF)) s

/-- One end of a bundle reset (1 end A, 2 end B): the surviving end moves its unaccepted messages, and those that the reset
end had sent are gone. A bundle whose ENABLE is 0 stays fenced. -/
def resetEnd (n e : Nat) (s : State) : State :=
  let was := s.dieSt n
  let d := if e = 1 then 0 else 1
  let s := s |> linkDown n (if s.on (Reg.DL_CTRL_ENABLE n) then DS.resetting else DS.fenced) |> set (Reg.DL_STATUS_ATTEMPTS n) 0
  let s := if was = DS.active then s |> moveFlits n (1 - d) |> raise0 Ev.dieLinkFenced [n] else s
  let s := setDieDir n d DieDir.init s
  s.setBundle n { s.bundle n with reset := e }

/-- DL_RESET: a write of DL_CTRL.RESET resets end B (`fatal` 0), or a DCP fatal error resets end A (1) or end B (2). Of an
active bundle the messages that the reset end had sent and that were not acknowledged are lost, `lost` being their requests,
and the partitions concerned rewind (R415). -/
def execDlReset (n : Nat) (value : W32) (fatal : Nat) (lost : List FabReq) (s : State) : Result :=
  perform (bundleOk n && decide (fatal < 3)) (whenUp fun s =>
    let s := if fatal = 0 then dlEnable n value.toNat s else s
    let was := s.dieSt n
    if fatal = 0 && !bit value.toNat 30 then s
    else
      let s := resetEnd n (if fatal = 0 then 2 else fatal) s
      if was ≠ DS.active then s
      else
        let s := lost.foldl (fun s r => s |> fabError r FabSt.linkLost |> fabReply r FabSt.linkLost []) s
        (dedup (lost.filterMap fun r => s.agentPart r.agent)).foldl (fun s p => findCause p actRewind Why.linkLost s) s) s

/-! DCP flits (R411). -/

/-- A flit's header fields. -/
structure DcpHdr where
  type : Nat
  seq : Nat
  ack : Nat
  ackValid : Bool
  nak : Bool
  crCh : Nat
  crCum : Nat
  fill : Nat
  rsv : Nat
  deriving DecidableEq, Repr, Inhabited

def dcpHdr (f : List Byte) : DcpHdr :=
  let v := ofLe (f.take 8)
  ⟨bits v 60 4, bits v 50 10, bits v 40 10, bit v 39, bit v 38, bits v 36 2, bits v 24 12, bits v 16 8, bits v 0 16⟩

/-- A bad flit: its CRC fails, its TYPE is reserved or a reserved field is not 0. -/
def dcpBad (f : List Byte) : Bool :=
  f.length != 256 || ofLe (f.drop 252) != crc32c (f.take 252) || decide (2 < (dcpHdr f).type) || (dcpHdr f).rsv != 0

/-- The bytes left of the message in progress and its channel, after a flit's message bytes. A message's 4-byte DCP header
holds the channel in byte 0 and the length in bytes 2 and 3 (log 63). -/
def dcpWalk : Nat → Nat → Nat → List Byte → Nat × Nat
  | 0, left, ch, _ => (left, ch)
  | fuel + 1, left, ch, l =>
    if l.isEmpty then (left, ch)
    else if 0 < left then dcpWalk fuel (left - l.length) ch (l.drop left)
    else dcpWalk fuel (ofLe ((l.drop 2).take 2)) (ofLe (l.take 1) % 4) (l.drop 4)

/-- The channel of a flit: of the message in progress, or of the first that begins in it. -/
def DieDir.flitChan (x : DieDir) (l : List Byte) : Nat := if x.left = 0 then ofLe (l.take 1) % 4 else x.chan

/-- Whether a flit's sender may send it: a first transmission of a MSG flit needs room in the replay buffer of 256 flits and
a credit of its channel (R411). -/
def DieDir.maySend (f : List Byte) (x : DieDir) : Bool :=
  let h := dcpHdr f
  h.type != 1 || h.seq != x.txNext
    || (decide (x.held.length < 256) && decide (0 < lget 0 x.credit (x.flitChan (((f.drop 8).take 244).take h.fill))))

/-- The sender's record of a MSG flit as it leaves: a first transmission takes the next SEQ and a credit. -/
def DieDir.sent (f : List Byte) (x : DieDir) : DieDir :=
  let h := dcpHdr f
  if h.type ≠ 1 || h.seq ≠ x.txNext then x
  else
    let l := ((f.drop 8).take 244).take h.fill
    let c := x.flitChan l
    let (left, ch) := dcpWalk 128 x.left x.chan l
    { x with txNext := (x.txNext + 1) % 1024, held := x.held ++ [(h.seq, c, f)], ackMoved := false, left := left, chan := ch
             queue := match x.queue with
               | q :: r => if (q.2.drop 8).take 244 = (f.drop 8).take 244 then r else x.queue
               | [] => []
             credit := lset x.credit c (lget 0 x.credit c - 1) }

/-- A replay begun in a direction; the eighth without progress retrains the bundle. -/
def dieReplay (n d ack : Nat) (s : State) : State :=
  let x := (s.bundle n).dir d
  if x.held.isEmpty then s
  else
    let s := setDieDir n d { x with replayFrom := some ack, ackMoved := false, stuck := x.stuck + 1 } s
      |> bump (Reg.DL_COUNTS_REPLAYS n) 1
    if x.stuck + 1 = 8 then beginTraining n s else s

/-- The acknowledgement and credit fields of a good flit, applied to the sender of direction `d`. -/
def dieAck (n d : Nat) (h : DcpHdr) (s : State) : State :=
  let x := (s.bundle n).dir d
  let left := x.held.filter fun e => decide (512 ≤ seqSub 10 h.ack e.1)
  let x := if h.ackValid && left.length < x.held.length then
      { x with held := left, ackMoved := true, stuck := 0, replayFrom := none } else x
  let x := { x with credit := lset x.credit h.crCh (lget 0 x.credit h.crCh + (seqSub 12 h.crCum (lget 0 x.cumSeen h.crCh) : Int))
                    cumSeen := lset x.cumSeen h.crCh h.crCum }
  let s := setDieDir n d x s
  if h.ackValid && h.nak && x.replayFrom != some h.ack then dieReplay n d h.ack s else s

/-- A flit of direction `d` (0 from end A) as its sender sent it, at the other end; `bad` says that it came damaged. One that
its sender may not send does not come. -/
def dieFlit (type n d : Nat) (f : List Byte) (bad : Bool) (s : State) : State :=
  if s.dieSt n ≠ DS.active || !((s.bundle n).dir d).maySend f then s
  else
    let inj := d = 0 && s.injected 0x09 n
    let h := dcpHdr f
    if !dcpBad f && h.type ≠ type then s
    else
      let s := setDieDir n d (((s.bundle n).dir d).sent f) s
      let s := if inj then hitInjection (s.get Reg.INJ_LAST_SEQ_SEQ) (s.bundleParts n) s else s
      let x := (s.bundle n).dir d
      if bad || dcpBad f || inj then setDieDir n d { x with waiting := true } s |> bump (Reg.DL_COUNTS_CRC_ERRORS n) 1
      else
        let s := if h.type = 1 then
            if h.seq = x.rxExpect then
              let c := ((x.held.find? fun e => e.1 == h.seq).map fun e => e.2.1).getD 0
              setDieDir n d { x with rxExpect := (x.rxExpect + 1) % 1024, waiting := false,
                                     freed := lset x.freed c ((lget 0 x.freed c + 1) % 4096) } s
                |> put (.die n (((f.drop 8).take 244).take h.fill))
            else if seqLater 10 h.seq x.rxExpect then setDieDir n d { x with waiting := true } s
            else s
          else s
        dieAck n (1 - d) h s

/-- DCP_MSG_FLIT: a MSG flit, accepted and delivered, discarded, or a duplicate. -/
def execDcpMsgFlit (n dir : Nat) (flit : List Byte) (bad : Bool) (s : State) : Result :=
  perform (bundleOk n && decide (dir < 2)) (dieFlit 1 n dir flit bad) s

/-- DCP_IDLE_FLIT: an IDLE flit's acknowledgement and credit fields. -/
def execDcpIdleFlit (n dir : Nat) (flit : List Byte) (bad : Bool) (s : State) : Result :=
  perform (bundleOk n && decide (dir < 2)) (dieFlit 0 n dir flit bad) s

/-- DCP_REPLAY_TMO: held flits of a direction and no progress; its sender replays from the oldest. -/
def execDcpReplayTmo (n dir : Nat) (s : State) : Result :=
  perform (bundleOk n && decide (dir < 2)) (fun s =>
    let x := (s.bundle n).dir dir
    match x.held with
    | h :: _ => if s.dieSt n = DS.active && !x.ackMoved then dieReplay n dir ((h.1 + 1023) % 1024) s else s
    | [] => s) s

end Sys2Proof.Machine
end

