-- ==== Sys2Proof/Machine/Lasers.lean ====
section
/-!
DEFINITION. The laser modules: insertion and removal, failed lasers, life accounting, release (10 R382 to R384, R391).
-/
namespace Sys2Proof.Machine
open State

/-- The two ropes that module `m` lights. -/
def moduleRopes (m : Nat) : List Nat := [6 + 2 * m, 7 + 2 * m]

/-! STATE values (R391). No rule says what puts a module in FAULT, 0x5, and no command does (log 101). -/
namespace LS
def absent : Nat := 0
def identifying : Nat := 1
def lit : Nat := 2
def released : Nat := 3
def refused : Nat := 4
end LS

def State.laserSt (s : State) (m : Nat) : Nat := s.get (Reg.LASER_STATUS_STATE m)

/-- 2^32 times 2^(i/10), rounded down. -/
def tenthPower (i : Nat) : Nat :=
  lget 0 [4294967296, 4603231970, 4933621867, 5287724991, 5667243323, 6074000999, 6509953083, 6977194956, 7477972397,
          8014692369] i

/-- Equivalent seconds of one second at a module temperature, in units of 2^-32: 2^((T - 45) / 10), from 1/4 to 8
(R384; log 61). -/
def lifeRate (t : Int) : Nat :=
  let d := max (-20) (min 30 (t - 45))
  let i := (d + 20).toNat
  tenthPower (i % 10) * 2 ^ (i / 10) / 4

/-- Units of 2^-32 equivalent seconds in an hour. -/
def hourUnits : Nat := 3600 * 2 ^ 32

/-- The rated life in hours, and the warning share of it in hundredths. -/
def State.ratedHours (s : State) : Nat := s.get Reg.LASER_CFG_RATED_KH * 1000
def State.warnPct (s : State) : Nat := min 100 (s.get Reg.LASER_CFG_WARN_PCT)

/-- The LASER_LIFE record of a module (13 R480): its serial number and its lasers' counts. -/
def journalLife (m : Nat) (s : State) : State :=
  let l := s.laser m
  journalWrite 5 0 (fit 0 16 l.serial ++ l.life.flatMap (leBytes 8)) s

/-- Life counts shown in hours. -/
def showLife (m : Nat) (s : State) : State :=
  (upFrom 0 8).foldl (fun s j => s.set (Reg.LASER_LIFE_HOURS m j) (min (2 ^ 32 - 1) (lget 0 (s.laser m).life j / hourUnits))) s

/-- Whether a count has reached the warning share or the whole of the rated life. -/
def State.lifeWarn (s : State) (n : Nat) : Bool := decide (s.ratedHours * s.warnPct * hourUnits ≤ n * 100)
def State.lifeEnd (s : State) (n : Nat) : Bool := decide (s.ratedHours * hourUnits ≤ n)

/-- A laser turned off and marked: its strand is dropped from both ropes (R383). -/
def failLaser (m j : Nat) (s : State) : State :=
  let l := s.laser m
  let s := s.setLaser m { l with enabled := without l.enabled (2 ^ j) }
    |> set (Reg.LASER_STATUS_LIT m) (without (s.get (Reg.LASER_STATUS_LIT m)) (2 ^ j))
    |> set (Reg.LASER_STATUS_FAILED m) (s.get (Reg.LASER_STATUS_FAILED m) ||| 2 ^ j)
  let s := raise0 Ev.laserFailed [m, j] s
  (moduleRopes m).foldl (fun s k => dropStrand k j s) s

/-- LASER_FAILED: an enabled laser's output-power low alarm is set, by an injection or not (R383, 15 R514). -/
def execLaserFailed (m j : Nat) (now : W64) (s : State) : Result :=
  perform (moduleOk m && decide (j < 8)) (fun s =>
    let s := at_ now s
    if !bit (s.laser m).enabled j then s
    else
      let seq := s.seq
      let inj := s.injected 0x0E (m + 8 * j)
      let s := failLaser m j s
      if inj then hitInjection seq (dedup ((moduleRopes m).flatMap fun k => s.ropeParts k)) s else s) s

/-- LASER_LIGHT_TIMEOUT: an enabled laser has not lit within 100 ms (R383). -/
def execLaserLightTimeout (m j : Nat) (now : W64) (s : State) : Result :=
  perform (moduleOk m && decide (j < 8)) (fun s =>
    let s := at_ now s
    if bit (s.laser m).enabled j && !bit (s.get (Reg.LASER_STATUS_LIT m)) j then failLaser m j s else s) s

/-- LASER_MODULE_INSERT: a module found seated, and identified once `known`: its lasers are enabled, those of `lit` light, and
both ropes begin bring-up; one that is no ELSFP of eight lasers at 1,311 nm stays in low-power mode (R382, R384). An absent
life record is a default of 00 R11. -/
def execLaserModuleInsert (m : Nat) (ident : LaserIdent) (known : Bool) (lit : Byte) (s : State) : Result :=
  perform (moduleOk m) (whenUp fun s =>
    if s.laserSt m ≠ LS.absent && s.laserSt m ≠ LS.identifying then s
    else if !known then s.set (Reg.LASER_STATUS_STATE m) LS.identifying
    else
      let sn := fit 0 16 ident.serial
      let vn := fit 0 16 ident.vendor
      let word (l : List Byte) (i : Nat) : Nat := ofLe ((l.drop (4 * i)).take 4)
      let s := (upFrom 0 4).foldl (fun s i => s |> set (Reg.LASER_SERIAL m i) (word sn i)
        |> set (Reg.LASER_VENDOR m i) (word vn i)) s
      if !ident.elsfp then
        s.setLaser m { Laser.init with serial := sn, vendor := vn } |> set (Reg.LASER_STATUS_STATE m) LS.refused
          |> raise0 Ev.laserModuleRefused [m]
      else
        let rec? := s.journal.latest 5 (ofLe sn)
        let life := match rec? with
          | some r => (upFrom 0 8).map fun j => ofLe ((r.body.drop (16 + 8 * j)).take 8)
          | none => List.replicate 8 0
        let warned := (upFrom 0 8).filter fun j => s.lifeWarn (lget 0 life j)
        let ended := (upFrom 0 8).filter fun j => s.lifeEnd (lget 0 life j)
        let s := if rec?.isNone then raise0 Ev.journalDefault [5 * 65536] s else s
        let s := s.setLaser m ⟨sn, vn, life, warned, ended, 0xFF⟩
          |> set (Reg.LASER_STATUS_STATE m) LS.lit |> set (Reg.LASER_STATUS_LIT m) lit.toNat
          |> set (Reg.LASER_STATUS_UNKNOWN_HISTORY m) (b2n rec?.isNone)
          |> set (Reg.LASER_STATUS_WARN m) (b2n !warned.isEmpty) |> set (Reg.LASER_STATUS_EOL m) (b2n !ended.isEmpty)
          |> showLife m
        (moduleRopes m).foldl (fun s k => wakeRope k s) s) s

/-- A module gone or in low-power mode: none of its lasers is lit. -/
def darken (m st : Nat) (s : State) : State :=
  s.setLaser m { s.laser m with enabled := 0 } |> set (Reg.LASER_STATUS_STATE m) st |> set (Reg.LASER_STATUS_LIT m) 0

/-- LASER_MODULE_REMOVE: every strand of both ropes loses lock; their grace may end (R384, R381). -/
def execLaserModuleRemove (m : Nat) (now : W64) (s : State) : Result :=
  perform (moduleOk m) (fun s =>
    let s := at_ now s |> darken m LS.absent |> set (Reg.LASER_STATUS_FAILED m) 0
      |> set (Reg.LASER_STATUS_UNKNOWN_HISTORY m) 0 |> set (Reg.LASER_STATUS_WARN m) 0 |> set (Reg.LASER_STATUS_EOL m) 0
      |> set (Reg.LASER_STATUS_TEMP_C m) 0
    let s := (upFrom 0 4).foldl (fun s i => s |> set (Reg.LASER_SERIAL m i) 0 |> set (Reg.LASER_VENDOR m i) 0) s
    let s := s.setLaser m Laser.init |> showLife m
    (moduleRopes m).foldl (fun s k =>
      if s.ropeSt k = RS.active then enterGrace k s
      else if s.ropeSt k = RS.training then ropeDown k s
      else s) s) s

/-- LASER_LIFE_TICK: one second of life for each lit laser of a module at its temperature, in °C (R384). The warning and
the end of life are raised once each. -/
def execLaserLifeTick (m : Nat) (temp : Byte) (s : State) : Result :=
  perform (moduleOk m) (fun s =>
    let s := if s.laserSt m = LS.absent then s else set (Reg.LASER_STATUS_TEMP_C m) temp.toNat s
    (upFrom 0 8).foldl (fun s j =>
      if !bit (s.get (Reg.LASER_STATUS_LIT m)) j then s
      else
        let l := s.laser m
        let n := lget 0 l.life j + lifeRate temp.toInt
        let s := s.setLaser m { l with life := lset l.life j n }
        let s := if s.lifeWarn n && !l.warned.contains j then
            s.setLaser m { s.laser m with warned := l.warned ++ [j] } |> set (Reg.LASER_STATUS_WARN m) 1
              |> raise0 Ev.laserLifeWarn [m, j]
          else s
        if s.lifeEnd n && !l.ended.contains j then
          s.setLaser m { s.laser m with ended := l.ended ++ [j] } |> set (Reg.LASER_STATUS_EOL m) 1
            |> raise0 Ev.laserEol [m, j]
        else s) s |> showLife m) s

/-- LASER_LIFE_JOURNAL: the hour's record of every identified module (R384, 13 R480). -/
def execLaserLifeJournal (s : State) : Result :=
  perform true (whenUp fun s =>
    ((upFrom 0 6).filter fun m => !(s.laser m).serial.isEmpty && s.laserSt m != LS.refused).foldl
      (fun s m => journalLife m s) s) s

/-- LASER_RELEASE: both ropes go DOWN without grace, the counts are journaled, the module is put in low-power mode
(R384). -/
def execLaserRelease (m : Nat) (value : W32) (s : State) : Result :=
  perform (moduleOk m) (whenUp fun s =>
    if !bit value.toNat 1 || s.laserSt m = LS.absent || s.laserSt m = LS.released then s
    else
      let s := if s.laserSt m = LS.refused then s else journalLife m s
      (moduleRopes m).foldl (fun s k => loseRope k s) (darken m LS.released s)) s

/-- LASER_RELIGHT: every failed laser of a lit module is enabled once more, and those of `lit` light (R391). -/
def execLaserRelight (w : CtrlWrite) (lit : Byte) (s : State) : Result :=
  perform (moduleOk w.unit) (whenUp fun s =>
    if !bit w.value.toNat 0 || s.laserSt w.unit ≠ LS.lit then s
    else
      let l := s.laser w.unit
      let f := s.get (Reg.LASER_STATUS_FAILED w.unit)
      s.setLaser w.unit { l with enabled := l.enabled ||| f }
        |> set (Reg.LASER_STATUS_LIT w.unit) (s.get (Reg.LASER_STATUS_LIT w.unit) ||| (f &&& lit.toNat))
        |> set (Reg.LASER_STATUS_FAILED w.unit) 0) s

end Sys2Proof.Machine
end

