-- ==== Sys2Proof/Machine/RigSlot.lean ====
section
/-!
DEFINITION. A partition's image slot: two copies, the second serving a line that the first has lost (03 R108).
-/
namespace Sys2Proof.Machine
open State

/-- Lines of the slot read in order, each from the first copy or else the second; none when both have lost one. -/
def slotLines (bad : Tbl Nat) : List Nat → List Byte → State → Option (List Byte) × State
  | [], acc, s => (some acc, s)
  | n :: r, acc, s =>
    let (ok, s) := checkLine .other bad n s
    if ok then slotLines bad r (acc ++ s.memBytes (n * 64) 64) s
    else
      let m := n + 2 ^ 22
      let (ok, s) := checkLine .other bad m s
      if ok then slotLines bad r (acc ++ s.memBytes (m * 64) 64) s else (none, s)

/-- The first `n` bytes of partition `p`'s image. -/
def slotRead (bad : Tbl Nat) (p n : Nat) (s : State) : Option (List Byte) × State :=
  let (l, s) := slotLines bad (linesOf (imageSlot p) n) [] s
  (l.map fun b => b.take n, s)

/-- Both copies written. -/
def slotWrite (p : Nat) (l : List Byte) (s : State) : State :=
  s |> storeBytes (imageSlot p) l |> storeBytes (imageSlot p + 2 ^ 28) l

/-- A range of memory cleared: its DRAM holds zeros with key epoch 0, and no line of it is lost. -/
def clearRange (base size : Nat) (s : State) : State :=
  let out (k : Nat) : Bool := decide (k < base) || decide (base + size ≤ k)
  let outLine (k : Nat) : Bool := decide ((k + 1) * 64 ≤ base) || decide (base + size ≤ k * 64)
  { s with mem := s.mem.filter fun x => out x.1 } |> setMemCheck (s.memCheck.filter fun x => outLine x.1)
    |> setMemEpoch (s.memEpoch.filter fun x => outLine x.1) |> setMemKey (s.memKey.filter fun x => outLine x.1)

/-- A slot cleared (R108). -/
def slotClear (p : Nat) : State → State := clearRange (imageSlot p) 0x2000_0000

end Sys2Proof.Machine
end

