-- ==== Sys2Proof/Machine/Fences.lean ====
section
/-!
DEFINITION. Commands of the detectors that fence, and of partial re-rigs (04 R146, 05 R197, 15 R513, 03 R116 to R119).
-/
namespace Sys2Proof.Machine
open State

/-- The stamp of a tread's or flight's detector event. -/
def State.faultStamp (s : State) (gf : Nat) : Stamp :=
  match s.flightPart gf, s.flightStage? gf with
  | some p, some n => workStamp s p n
  | some p, none => partStamp p
  | none, _ => noStamp

/-- A detector's event, and the hit of the injection that caused it: one armed at this target and, where the point names a
word, at its address `addr` (15 R514). -/
def detect (point target addr gf code : Nat) (body : List Nat) (s : State) : Bool × State :=
  let inj := s.injected point target && (point % 2 == 1 || s.injectedAt point addr)
  let seq := s.seq
  let s := raise code (s.faultStamp gf) body s
  (inj, if inj then hitInjection seq (s.flightPart gf).toList s else s)

/-- MAC_RESIDUE: the residue check of a tread's multipliers fails; the tread is fenced (05 R196, R197). -/
def execMacResidue (t : Nat) (s : State) : Result :=
  perform (treadOk t) (fun s =>
    if s.treadFenced t then s
    else
      let (inj, s) := detect 1 t 0 (treadGf t) Ev.macResidue [t] s
      fenceTread t inj s) s

/-- TREAD_PARITY: a word of a tread's instruction or data SRAM fails its parity; the tread is fenced (15 R513). -/
def execTreadParity (t : Nat) (inst : Bool) (word : Nat) (s : State) : Result :=
  perform (treadOk t && decide (word < 4096)) (fun s =>
    if s.treadFenced t then s
    else
      let (inj, s) := detect 2 t (place (b2n inst) 16 1 + place word 2 12) (treadGf t) Ev.treadParity
        [t, place (b2n inst) 16 1 + place word 2 12] s
      fenceTread t inj s) s

/-- ROUTER_PARITY: router storage of a flight fails its parity; the flight is fenced (15 R513). -/
def execRouterParity (gf : Nat) (s : State) : Result :=
  perform (gfOk gf) (fun s =>
    if s.flightFenced gf then s
    else
      let (inj, s) := detect 3 gf 0 gf Ev.routerParity [gf] s
      fenceFlight gf inj s) s

/-- SB_PARITY: a 64-bit word of a flight's switchback buffer fails its parity; the flight is fenced (15 R513). -/
def execSbParity (gf word : Nat) (s : State) : Result :=
  perform (gfOk gf && decide (word < 32768)) (fun s =>
    if s.flightFenced gf then s
    else
      let (inj, s) := detect 4 gf (8 * word) gf Ev.sbParity [gf] s
      fenceFlight gf inj s) s

/-! Re-rigs: one at a time in a partition, in the order of their fences (R117). -/

/-- A re-rig begun. -/
def beginRerig (p : Nat) (s : State) : State :=
  s.setRig p { s.rig p with rerigStart := s.time + 1, rerigMade := false } |> set Reg.RERIG_LAST_BUSY 1

/-- The re-rig in hand has shifted its row or moved its role. -/
def madeRerig (p : Nat) (s : State) : State := s.setRig p { s.rig p with rerigMade := true }

/-- RERIG_ROW_SHIFT: the first re-rig of partition `p`, a row shift, is made; `bad` marks lines of the image slot that fail (R116,
R119). A row whose role has left the flight only has its remap set. -/
def execRerigRowShift (now : W64) (r : SlotRead) (s : State) : Result :=
  perform (partOk r.part) (fun s =>
    let s := at_ now s
    match (s.rig r.part).rerigs with
    | .row gf row col :: _ =>
      if (s.rig r.part).rerigStart ≠ 0 then s
      else
        let s := shiftRow gf row col (beginRerig r.part s)
        match s.flightRole? gf with
        | some (q, role, odd) =>
          if q ≠ r.part || s.flightFenced gf then s
          else
            let (img, s) := slotRead r.bad r.part (fieldAt (s.imageOf r.part).hdr 8 4) s
            if img.isNone then exhaustRole r.part role s
            else (upFrom (col + 1) (16 - col)).foldl (fun s c => setupTread (s.imageOf r.part) role odd gf row c s) (madeRerig r.part s)
        | none => s
    | _ => s) s

/-- RERIG_ROLE_MOVE: the first re-rig of partition `p`, a role move, is made; `bad` marks lines of the image slot that fail
(R116, R118, R119). -/
def execRerigRoleMove (now : W64) (p : Nat) (bad : List (Nat × Nat)) (s : State) : Result :=
  perform (partOk p) (fun s =>
    let s := at_ now s
    match (s.rig p).rerigs with
    | .role role _ :: _ =>
      if (s.rig p).rerigStart ≠ 0 then s
      else
        let s := beginRerig p s
        let r := s.imageOf p
        if (s.roleFlights p role).all fun x => !s.flightFenced x then s
        else
          let (img, s) := slotRead bad p (fieldAt r.hdr 8 4) s
          match img, s.alternate? r (s.otherLoads p) (s.rig p).place (s.takenBy p role) role with
          | some _, some g => moveRole p role g (madeRerig p s)
          | _, _ => exhaustRole p role s
    | _ => s) s

/-- Whether the flights that a re-rig brings up still wait to enter QUIET (R116). -/
def State.rerigWakes (s : State) (p : Nat) (x : Rerig) : Bool :=
  match x with
  | .row _ _ _ => false
  | .role role _ => s.waking (s.roleFlights p role)

/-- RERIG_COMPLETE: the re-rig in hand ends, a role move once its flights are in QUIET; the registers show it and the accesses
that waited are delivered (R126, 11 R395). DURATION counts whole units of 10 µs, and a re-rig that neither shifted a row nor
moved a role is no last re-rig (log 99). -/
def execRerigComplete (now : W64) (p : Nat) (s : State) : Result :=
  perform (partOk p) (fun s =>
    let s := at_ now s
    let r := s.rig p
    match r.rerigs with
    | x :: rest =>
      if r.rerigStart = 0 || s.rerigWakes p x then s
      else
        let dur := min 0xFFFF ((s.time + 1 - r.rerigStart) / 10000)
        let s := s.setRig p { r with rerigs := rest, rerigStart := 0, rerigMade := false }
        let tell (kind gf : Nat) (f : Fld) (s : State) : State :=
          s |> set Reg.RERIG_LAST_KIND kind |> set Reg.RERIG_LAST_GF gf |> set Reg.RERIG_LAST_DURATION dur |> bump f 1
        let s := match x with
          | .row gf _ _ => if r.rerigMade then tell 1 gf Reg.RERIG_COUNTS_ROW_SHIFTS s else s
          | .role role _ => if r.rerigMade then tell 2 ((s.roleFlight p role 0).getD 0) Reg.RERIG_COUNTS_ROLE_MOVES s else s
        s |> set Reg.RERIG_LAST_BUSY (b2n (allParts.any fun q => (s.rig q).rerigStart != 0))
          |> showCapacity |> deliverWaiting
    | [] => s) s

end Sys2Proof.Machine
end

