-- ==== Sys2Proof/Machine/SelfTest.lean ====
section
/-!
DEFINITION. What the start-up self-test computes: the reference-order tiles of phase 5 with their digests, and the sensor
check of phase 6 (15 R524 to R526).
-/
namespace Sys2Proof.Machine
open State

/-! Phase 5: arrays (R525). -/

/-- The key of a self-test operand's bits: JOB_SEED 0, stream 0xFFFE, the FMT_A code as the tensor number, step 0. -/
def selfKey (fmt : Nat) : RngKey := ⟨0, 0xFFFE, fmt, 0⟩

/-- An operand element: its 16 bits modulo the format's width, a NaN code replaced by +0. -/
def selfCode (fmt : Nat) (ofB : Bool) (line place : Nat) : Nat :=
  let c := randBits (selfKey fmt) (Config.selfIndex ofB line place) % 2 ^ fmtWidth fmt
  match decodeF (fmtOf fmt) c with
  | .nan _ => 0
  | _ => c

/-- A line of an operand in one K block, with its scale. -/
def selfLine (fmt : Nat) (ofB : Bool) (kb line : Nat) : List Num × Nat :=
  ((upFrom (32 * kb) 32).map fun t => decodeF (fmtOf fmt) (selfCode fmt ofB line t),
   if isMx fmt then (Config.selfScale fmt ofB line kb).toNat else 127)

/-- An element of the FP32 output: the tree sum of its four K blocks in reference order (06 R234). -/
def selfElem (fmt i j : Nat) : Nat :=
  treeSum ((upFrom 0 4).map fun kb =>
    blockValue 1 (isMx fmt) (decide (5 ≤ fmt)) (selfLine fmt false kb i) (selfLine fmt true kb j))

/-- The 128 × 128 output of a sound array, row by row. -/
def selfTile (fmt : Nat) : List Nat := (upFrom 0 128).flatMap fun i => (upFrom 0 128).map fun j => selfElem fmt i j

/-- The output of a flight's array: the sound one but for the elements that `wrong` gives it. -/
def arrayOutput (wrong : List (Nat × Nat × Nat × Nat)) (gf fmt : Nat) : List Nat :=
  (wrong.filter fun x => x.1 == gf && x.2.1 == fmt).foldl (fun l x => lset l x.2.2.1 (x.2.2.2 % 2 ^ 32)) (selfTile fmt)

/-- The SHAKE256 digest of an output tile, as long as its GOLDEN entry. -/
def outputDigest (fmt : Nat) (out : List Nat) : List Byte :=
  Config.shake256 (out.flatMap (leBytes 4)) (Config.golden fmt).length

/-- The 8 × 8 blocks, by row and column, in which an output differs from the sound one (05 R164). -/
def wrongBlocks (fmt : Nat) (out : List Nat) : List (Nat × Nat) :=
  dedup (((out.zip (selfTile fmt)).zipIdx.filter fun x => x.1.1 != x.1.2).map fun x => (x.2 / 128 / 8, x.2 % 128 / 8))

/-- One tile of an unfenced flight checked: where its digest is not the golden one, a single tread is fenced when every
differing element lies in its block, else the flight (R526). -/
def checkArray (wrong : List (Nat × Nat × Nat × Nat)) (gf fmt : Nat) (s : State) : State :=
  let out := arrayOutput wrong gf fmt
  if s.flightFenced gf || outputDigest fmt out == Config.golden fmt then s
  else match wrongBlocks fmt out with
    | [(i, j)] => fenceTread (treadId gf i (s.physCol gf i j)) false s
    | _ => fenceFlight gf false s

/-- Every flight's five tiles. -/
def checkArrays (wrong : List (Nat × Nat × Nat × Nat)) (s : State) : State :=
  allFlights.foldl (fun s g => selfFmts.foldl (fun s f => checkArray wrong g f s) s) s

/-! Phase 6: sensors. -/

/-- The sum of the two middle readings of a gallery's 148 sensors, twice their median (PRESUMED, log 102). -/
def State.gallerySum (s : State) (g : Nat) : Int :=
  let l := sortBy (fun (a b : Int) => decide (a ≤ b)) ((upFrom (148 * g) 148).map s.rawTemp)
  lget 0 l 73 + lget 0 l 74

/-- Whether a flight's sensor reads within 10 °C of its gallery's median, in 0.125 °C. -/
def State.sensorOk (s : State) (gf : Nat) : Bool :=
  decide ((2 * s.rawTemp gf - s.gallerySum (gf / 148)).natAbs ≤ 160)

/-- Flights whose sensor is implausible fenced (R526). -/
def checkSensors (s : State) : State :=
  (allFlights.filter fun g => !s.flightFenced g && !s.sensorOk g).foldl (fun s g => fenceFlight g false s) s

/-! Phase 2: control memory. -/

/-- The march tests of newel SRAM and undercroft scratch leave nothing of what was there (log 102). -/
def marchControl (s : State) : State :=
  let s := { s with det := { s.det with sram := [] } }
  (upFrom 0 16).foldl (fun s u => s.setUc u { s.uc u with scratch := [], v := [], user := 0 }) s

end Sys2Proof.Machine
end

