-- ==== Sys2Proof/Machine/Loader.lean ====
section
/-!
DEFINITION. Commands of a full rigging load (03 R104 to R114, R121 to R124).
-/
namespace Sys2Proof.Machine
open State

/-! RIG_STATUS.STATE (R122). -/
namespace Ld
def idle : Nat := 0
def fetch : Nat := 1
def verify : Nat := 2
def validate : Nat := 3
def place : Nat := 4
def apply : Nat := 5
def loaded : Nat := 6
def refused : Nat := 7
def releasing : Nat := 8
end Ld

def State.ldState (s : State) (p : Nat) : Nat := s.get (Reg.RIG_STATUS_STATE p)
def setLd (p st : Nat) : State → State := set (Reg.RIG_STATUS_STATE p) st

/-- A load refused (R108, R123, R124): the first failure recorded, the slot cleared. -/
def refuseLoad (p : Nat) (f : RigFail) (s : State) : State :=
  { s with rigs := tset Rig.init s.rigs p { s.rig p with image := none, live := false, place := [] } }
    |> setLd p Ld.refused |> set (Reg.RIG_ERROR_CODE p) f.code |> set (Reg.RIG_ERROR_SECTION p) f.section_
    |> set (Reg.RIG_ERROR_ENTRY_ENTRY p) f.entry |> set (Reg.RIG_ERROR_GF_VALID p) (b2n f.gf.isSome)
    |> set (Reg.RIG_ERROR_GF p) (f.gf.getD 0) |> slotClear p

/-- A failure that names nothing but its code. -/
def plainFail (code : Nat) : RigFail := { code := code }

/-- Whether a full load of another partition is in progress. -/
def State.loading (s : State) : Bool := allParts.any fun p => decide (1 ≤ s.ldState p) && decide (s.ldState p ≤ 5)

/-- A write of RIG_CTRL with exactly one of bits [2:0] set, the bit of weight `b` (R121). -/
def rigCtrl (p b : Nat) (value : W32) (f : State → State) (s : State) : Result :=
  perform (partOk p) (whenUp fun s => if bits value.toNat 0 3 = b then f s else s) s

/-- RIG_START: a write of RIG_CTRL.START in IDLE or REFUSED; the Start checks of R106 (R110, R121). -/
def execRigStart (w : CtrlWrite) (s : State) : Result :=
  rigCtrl w.unit 1 w.value (fun s =>
    if s.ldState w.unit ≠ Ld.idle && s.ldState w.unit ≠ Ld.refused then s
    else
      let s := s |> unset (Reg.RIG_ERROR_CODE w.unit) |> unset (Reg.RIG_ERROR_SECTION w.unit) |> unset (Reg.RIG_ERROR_GF_VALID w.unit)
        |> unset (Reg.RIG_ERROR_GF w.unit) |> unset (Reg.RIG_ERROR_ENTRY_ENTRY w.unit)
      if !s.on Reg.PKG_ID_LOCK then refuseLoad w.unit (plainFail 0x07) s
      else if s.pkg ≠ .ready && s.pkg ≠ .service then refuseLoad w.unit (plainFail 0x08) s
      else if s.partState w.unit ≠ partAssigned then refuseLoad w.unit (plainFail 0x09) s
      else if s.loading then refuseLoad w.unit (plainFail 0x21) s
      else setLd w.unit Ld.fetch s |> put (.hostRead 0 (s.get (Reg.RIG_SRC_ADDR_ADDR w.unit) * 4096) (s.get (Reg.RIG_SRC_LEN_LEN w.unit)))) s

/-- Bytes of the image that the loader reads: RIG_SRC_LEN, as far as a copy reaches. -/
def State.srcLen (s : State) (p : Nat) : Nat := min (s.get (Reg.RIG_SRC_LEN_LEN p)) (2 ^ 28)

/-- RIG_FETCH_COMPLETE: the image read from host memory is in both copies of the slot (R108, R110). -/
def execRigFetchComplete (p : Nat) (image : List Byte) (s : State) : Result :=
  perform (partOk p) (fun s =>
    if s.ldState p ≠ Ld.fetch then s else s |> slotWrite p (fit 0 (s.srcLen p) image) |> setLd p Ld.verify) s

/-- FETCH_FAILED: a fetch read ended with an error, or the physical function was detached (R114). -/
def execFetchFailed (p : Nat) (s : State) : Result :=
  perform (partOk p) (fun s => if s.ldState p = Ld.fetch then refuseLoad p (plainFail 0x20) s else s) s

/-- Whether SIGNER_ID names one of the partition's enrolled rigging keys (14 R494). -/
def State.enrolled (s : State) (p : Nat) (id : List Byte) : Bool :=
  (upFrom 0 4).any fun k => tget [] s.sec.rigKeys (p * 4 + k) == id

/-- The Header and Signature rows of R106. -/
def checkSigned (s : State) (p : Nat) (img : List Byte) : Option RigFail :=
  let n := leAt img 8 4
  need (leAt img 0 4 == 0x5247_4952) 0x01
  <|> need (leAt img 5 1 == 1 && leAt img 6 2 == 0x100) 0x02
  <|> need (n == s.get (Reg.RIG_SRC_LEN_LEN p) && decide (8192 ≤ n) && decide (n ≤ 2 ^ 28)) 0x03
  <|> (let id := (img.drop 0x40).take 32
    need (s.enrolled p id) 0x05
    <|> need (Config.signedBy id (Config.shake256 (signedPart img) 64) ((signature img).take 3309)
        && ((signature img).drop 3309).all (· == 0)) 0x04)

/-- The measurement written to RIG_MEASURE (R107). -/
def setMeasure (p : Nat) (d : List Byte) (s : State) : State :=
  (upFrom 0 16).foldl (fun s w => s.set (Reg.RIG_MEASURE p w) (leAt d (4 * w) 4)) s

/-- RIG_VERIFY_COMPLETE: the header and signature checked; `bad` marks lines of the slot that fail (R105 to R107). -/
def execRigVerifyComplete (p : Nat) (bad : List (Nat × Nat)) (s : State) : Result :=
  perform (partOk p) (fun s =>
    if s.ldState p ≠ Ld.verify then s
    else match slotRead bad p (s.srcLen p) s with
      | (none, s) => refuseLoad p (plainFail 0x24) s
      | (some img, s) =>
        match checkSigned s p img with
        | some f => refuseLoad p f s
        | none => s |> setMeasure p (Config.shake256 (signedPart img) 64) |> setLd p Ld.validate) s

/-- RIG_VALIDATE_COMPLETE: the Binding to Alternates checks (R104, R106). -/
def execRigValidateComplete (p : Nat) (bad : List (Nat × Nat)) (s : State) : Result :=
  perform (partOk p) (fun s =>
    if s.ldState p ≠ Ld.validate then s
    else match slotRead bad p (s.srcLen p) s with
      | (none, s) => refuseLoad p (plainFail 0x24) s
      | (some img, s) =>
        match validate s p img with
        | some f => refuseLoad p f s
        | none => s.setRig p { s.rig p with image := some (parseImage img) } |> setLd p Ld.place) s

/-- A flight asked from OFF to QUIET for a staged image at its stage's voltage limits, through the load-step limiter (R110, R111):
the lowest code that reaches the stage's nominal rate. -/
def stageUp (r : Rigging) (role gf : Nat) (s : State) : State :=
  let v := ((r.gangRole? role).bind fun g => r.vdom? g.slot).getD ⟨0, 0, 0, 0, 0, 0⟩
  let code := ((upFrom v.vMin (v.vMax - v.vMin + 1)).find? fun c => decide (v.nominal ≤ s.domainRate gf c)).getD v.vMax
  wakeAt code gf s

/-- The flights of a placement. -/
def Rigging.standing (r : Rigging) (place : Tbl Nat) : List (Nat × Nat) :=
  place.flatMap fun (role, g) => (r.at role g).map fun x => (role, x)

/-- The failure of a role without a placement: its GANG entry and the fenced flight. -/
def State.noPlacement (s : State) (r : Rigging) (role : Nat) : RigFail :=
  let i := r.gangs.findIdx fun g => g.role == role && g.shape != 4
  { code := 0x1C, section_ := 1, entry := i,
    gf := (r.at role (tget 0x7FF r.home role)).find? fun x => s.flightFenced x }

/-- RIG_PLACE_COMPLETE: roles placed under the fence map in force; Apply begins, and the placed flights wait to leave OFF (R109
to R111). -/
def execRigPlaceComplete (p : Nat) (s : State) : Result :=
  perform (partOk p) (fun s =>
    if s.ldState p ≠ Ld.place then s
    else match (s.rig p).image with
      | none => s
      | some r => match s.placement p r with
        | .inr role => refuseLoad p (s.noPlacement r role) s
        | .inl place =>
          let s := s.setRig p { s.rig p with place := place } |> setLd p Ld.apply
          (r.standing place).foldl (fun s (role, g) => stageUp r role g s) s) s

/-- The staged flights back to OFF (R112). -/
def unstage (p : Nat) (s : State) : State :=
  match (s.rig p).image with
  | none => s
  | some r => (r.standing (s.rig p).place).foldl (fun s (_, g) => flightOff g s) s

/-! Commit (R110, R111, R129, R138, R142, R258, R274, 10 R367). -/

/-- Channels of an image at their credits, empty. -/
def commitChannels (p : Nat) (r : Rigging) (s : State) : State :=
  let s := dropPorts p (fun _ _ => true) s
  let fresh (n : Nat) : ChanData := { ChanData.init with limit := n, credit := n }
  let s := r.routes.zipIdx.foldl (fun s (e, i) => s.setChan (Chan.route p i).key (fresh e.credits)) s
  r.knots.zipIdx.foldl (fun s (k, i) =>
    s.setChan (Chan.knot p i).key (fresh k.credits) |> setKnot (knotKey p i) Knot.init) s

/-- Landings of an image at their credits; a ROPE_IN landing grants its credits to its peer. -/
def commitLandings (p : Nat) (r : Rigging) (s : State) : State :=
  r.lands.foldl (fun s l =>
    let s := s.setLanding l.num { Landing.init with limit := l.credits, credit := if l.kind = 0 then l.credits else 0 }
    if l.kind = 2 then sendCredit p l.num l 0 l.credits s else s) s

/-- Stages, their contexts, rings and rates. -/
def commitStages (r : Rigging) (s : State) : State :=
  r.stages.foldl (fun s t =>
    (upFrom t.ctxBase t.ctxCount).foldl (fun s c => s.setCtx c Ctx.init)
      (s.setStage t.slot Stage.init |> setRed t.slot Red.init) |> beginStageRate t.slot) s

/-- Commit (R110, R111): everything that the load wrote becomes active together. -/
def commitLoad (p : Nat) (r : Rigging) (place : Tbl Nat) (s : State) : State :=
  let s := s.setRig p { s.rig p with place := place, live := true, rerigs := [], rerigStart := 0, winding := false }
  let s := (vcsOf r).foldl (fun s (k, v) => openVc p k v s) s |> chooseRoutes p
  let s := s.setPart p Part.init |> setSvc p { s.svc p with epoch := 0 }
  let s := s |> commitStages r |> commitChannels p r |> commitLandings p r
  let s := (r.standing place).foldl (fun s (role, g) => setupFlight r role (g - tget 0x7FF place role) g s) s
  s |> showRoles p |> set (partFld p) partActive |> setLd p Ld.loaded |> set (Reg.COMMITTED_INFO_VALID p) 0
    |> (fun s => if s.pkg == .ready then { s with pkg := .service } else s)
    |> raise Ev.rigLoaded (partStamp p) []

/-- RIG_APPLY_COMPLETE: once every placed flight is in QUIET the load commits. A fence that came during Apply is honoured by a
repeated placement, whose flights come up first (R109, R110, R112). -/
def execRigApplyComplete (p : Nat) (s : State) : Result :=
  perform (partOk p) (fun s =>
    if s.ldState p ≠ Ld.apply then s
    else match (s.rig p).image with
      | none => s
      | some r => match s.placement p r with
        | .inr _ => s |> unstage p |> refuseLoad p (plainFail 0x24)
        | .inl place =>
          let kept := (r.standing place).map Prod.snd
          let s := (r.standing (s.rig p).place).foldl (fun s (_, g) => if g ∈ kept then s else flightOff g s) s
          let s := (r.standing place).foldl (fun s (role, g) => stageUp r role g s)
            (s.setRig p { s.rig p with place := place })
          if s.waking kept then s else commitLoad p r place s) s

/-- APPLY_FAULT: a hardware fault during Apply; everything written is undone (R112). -/
def execApplyFault (p : Nat) (s : State) : Result :=
  perform (partOk p) (fun s =>
    if s.ldState p = Ld.apply then s |> unstage p |> refuseLoad p (plainFail 0x24) else s) s

/-- RIG_ABORT: a write of RIG_CTRL.ABORT in FETCH to PLACE (R113). -/
def execRigAbort (w : CtrlWrite) (s : State) : Result :=
  rigCtrl w.unit 2 w.value (fun s =>
    if 1 ≤ s.ldState w.unit && s.ldState w.unit ≤ 4 then refuseLoad w.unit (plainFail 0x22) s else s) s

end Sys2Proof.Machine
end

