-- ==== Sys2Proof/Machine/HostOps.lean ====
section
/-!
DEFINITION. The host port as shared operations: detached functions, event records as bytes, placement entries
(12 R425 to R446).
-/
namespace Sys2Proof.Machine
open State

def allFns : List Nat := upFrom 0 9

/-- Whether a requester's registers include those of function `f`: the physical function's include every function's. -/
def whoSeesFn (w : Who) (f : Nat) : Bool :=
  match w with
  | .pf | .firmware => true
  | .vf n => f == vfNo n
  | .core _ => false

/-! Copy engines (R430, R449, R451). -/

/-- The function that a copy engine is bound to. -/
def State.engineFn? (s : State) (e : Nat) : Option Nat :=
  if s.on (Reg.BIND_HCE_VALID e) then some (s.get (Reg.BIND_HCE_FUNC e)) else none

/-- Whether a requester may write an engine's registers. -/
def State.seesEngine (s : State) (w : Who) (e : Nat) : Bool :=
  match w with
  | .pf | .firmware => true
  | .vf n => s.engineFn? e == some (vfNo n)
  | .core _ => false

def State.hceSize (s : State) (e : Nat) : Nat := 2 ^ max 4 (min 16 (s.get (Reg.HCE_RING_LOG2 e)))
def hceIn (e : Nat) : Bool := decide (e < 8)

/-- HCE_STATUS.STATE of an engine that is not stopped: RUN while it has descriptors to start or in flight. -/
def showHce (e : Nat) (s : State) : State :=
  if s.get (Reg.HCE_STATUS_STATE e) = 2 then s
  else
    let h := s.hce e
    let run := !h.work.isEmpty || (s.on (Reg.HCE_CTRL_ENABLE e) && s.get (Reg.HCE_STATUS_HEAD e) != h.tail)
    s.set (Reg.HCE_STATUS_STATE e) (b2n run)

/-- An engine stopped as a detach stops it: its descriptors in flight end, its registers return to their reset values, and
it is disabled (R444, R445). -/
def stopEngine (e : Nat) (s : State) : State :=
  s.setHce e Hce.init |> unset (Reg.HCE_RING_BASE e) |> unset (Reg.HCE_RING_LOG2 e) |> unset (Reg.HCE_CPL_BASE e)
    |> unset (Reg.HCE_CTRL_ENABLE e) |> unset (Reg.HCE_STATUS_STATE e) |> unset (Reg.HCE_STATUS_DB_AHEAD e)
    |> unset (Reg.HCE_STATUS_HEAD e) |> unset (Reg.HCE_COUNTS_DESCS e) |> unset (Reg.HCE_COUNTS_DB_AHEADS e)

/-- The engines bound to a function. -/
def State.fnEngines (s : State) (f : Nat) : List Nat := (upFrom 0 16).filter fun e => s.engineFn? e == some f

/-- The parts of `n` bytes at an offset that lie in one 256-byte block each. -/
def blockParts (fuel addr n : Nat) : List (Nat × Nat) :=
  match fuel with
  | 0 => []
  | f + 1 =>
    if n = 0 then []
    else
      let m := min n (256 - addr % 256)
      (addr, m) :: blockParts f (addr + m) (n - m)

/-- The bytes of Yuseon, as offset and length, that a COPY in flight writes for its engine's partition (R430). -/
def State.copyDest (s : State) (e : Nat) (w : HceWork) : List (Nat × Nat) :=
  let a := w.desc.fabricAddr
  if hceIn e && w.desc.op == 1 && w.status != 1 && fabPkg a == s.get Reg.PKG_ID_ID && fabCls a == 0 then
    ((blockParts (w.desc.len / 4 + 1) a w.desc.len).filter fun x =>
      s.fabCheck ⟨.engine (s.enginePart e) e, opWrite, 0, x.2, x.1, []⟩ == FabSt.ok).map fun x => (fabOff x.1, x.2)
  else []

/-- Bytes that become undefined. -/
def loseBytes (o n : Nat) (s : State) : State :=
  let l := (upFrom s.free n).map fun i => (Config.freeValue i).setWidth 8
  let s := pokeBytes o l ((linesOf o n).foldl (fun s i => settleLine i s) s)
  { (linesOf o n).foldl (fun s i => rekeyLine i s) s with free := s.free + n }

/-- The destination bytes of an engine's COPYs in flight become undefined (R444; log 1). -/
def loseCopies (e : Nat) (s : State) : State :=
  ((s.hce e).work.flatMap fun w => s.copyDest e w).foldl (fun s x => loseBytes x.1 x.2 s) s

/-! Sessions and streams (14 R492, R495, R500). -/

/-- Every SPDM session of a function ended, and its negotiation forgotten. -/
def endSessions (f : Nat) (s : State) : State :=
  { s with sec := { s.sec with sessions := s.sec.sessions.filter fun x => x.fn != f, fns := tset SpdmFn.init s.sec.fns f SpdmFn.init } }

/-- An IDE stream cleared; 8 is the link stream. -/
def clearIde (n : Nat) (s : State) : State :=
  let s := { s with sec := { s.sec with ide := tset Ide.init s.sec.ide n Ide.init } }
  if n = 8 then s.set Reg.HP_STATUS_IDE_LINK 0 else s

/-! Placement entries (R425, R426, R428). -/

def State.plcStart (s : State) (i : Nat) : Nat := s.get (Reg.PLC_WIN_OFF_2M i) * 0x20_0000
def State.plcLen (s : State) (i : Nat) : Nat := (s.get (Reg.PLC_WIN_LEN_M1 i) + 1) * 0x20_0000

/-- Every placement entry of a partition becomes invalid. -/
def dropPlacements (p : Nat) (s : State) : State :=
  (upFrom 0 64).foldl (fun s i => if s.get (Reg.PLC_CFG_PARTITION i) = p then s.set (Reg.PLC_CFG_VALID i) 0 else s) s

/-! Checkpoint frames as CKPT_STATUS shows them, and cold checkpoints that fail (13 R472, R484). -/

/-- A frame whose local copy and buddy copy are complete. -/
def Frame.complete (f : Frame) : Bool := f.here && f.acked

/-- CKPT_STATUS.STATE. -/
def showCkpt (p : Nat) (s : State) : State :=
  let v := s.svc p
  s.set (Reg.CKPT_STATUS_STATE p)
    (if v.restore.isSome then 4 else b2n (v.frames.any fun f => f.here && !f.acked) + 2 * b2n (v.frames.any Frame.cold))

/-- The cold checkpoints of a partition fail: their slots are freed. -/
def failCold (p : Nat) (s : State) : State :=
  let v := s.svc p
  let gone := v.frames.filter Frame.cold
  let s := s.setSvc p { v with frames := v.frames.map fun f => { f with cold := false }, storage := [] }
  gone.foldl (fun s f => raise Ev.ckptColdFailed (stepStamp p f.step) [f.step % 2 ^ 32, f.step / 2 ^ 32] s) s |> showCkpt p
def failColds (s : State) : State := allParts.foldl (fun s p => if (s.svc p).frames.any Frame.cold then failCold p s else s) s

/-! Functions (R420, R421). -/

/-- What configuration space says of a function that exists: vendor ID, device ID, class code. -/
def State.fnIdent (s : State) (f : Nat) : Option (W16 × Nat × Nat) :=
  if s.fnExists f then some (Config.vendorId, if f = 0 then 0xB816 else 0xB817, 0x12_0000) else none

/-- NumVFs as the host's configuration left it (log 64). -/
def setNumVfs (n : Nat) (s : State) : State := { s with pcie := { s.pcie with numVfs := min 8 n } }

/-- A function's AER logs an advisory non-fatal error (R427). -/
def logAdvisory (f : Nat) (s : State) : State := { s with pcie := { s.pcie with aer := addOnce s.pcie.aer f } }

/-- Configuration space of a function back to its reset values (R445), in D3hot where that was the cause. -/
def resetCfg (cause f : Nat) (s : State) : State :=
  let c := s.pcie
  let d3 := c.d3.filter (· != f)
  { s with pcie := { numVfs := if f = 0 then 0 else c.numVfs, d3 := if cause = 5 then d3 ++ [f] else d3,
                     aer := c.aer.filter (· != f) } }

/-! Detach (R444, R445). -/

/-- HP_STATUS.DETACHED while some function is detached. -/
def showDetached (s : State) : State := s.set Reg.HP_STATUS_DETACHED (b2n (allFns.any fun f => (s.ring f).detached != 0))

/-- One function detached: the descriptors in flight on its engines are kept for the REATTACH record, its engines, rings and
streams return to their reset values; its pending records stay. -/
def detachFn (cause f : Nat) (s : State) : State :=
  let es := s.fnEngines f
  let lost := es.flatMap fun e => (s.hce e).work.map fun w => (e, w.index, w.desc.tag)
  let g := s.ring f
  let fresh := g.detached = 0 && !g.reattach
  let s := s.setRing f { g with
    detached := if g.detached ≠ 0 then g.detached else if g.reattach then g.detachCause else cause
    phase := true, full := false, reattach := false
    droppedDetached := if fresh then 0 else g.droppedDetached, ended := if fresh then lost else g.ended ++ lost }
  let s := es.foldl (fun s e => s |> loseCopies e |> stopEngine e) s
  let s := s |> unset (Reg.EVT_BASE_BASE f) |> unset (Reg.EVT_BASE_LOG2 f) |> unset (Reg.EVT_CFG_ENABLE f)
    |> unset (Reg.EVT_CFG_IRQ_EN f) |> unset (Reg.EVT_CFG_VECTOR f) |> unset (Reg.EVT_HEAD_HEAD f)
    |> unset (Reg.EVT_TAIL_TAIL f) |> unset (Reg.EVT_COUNTS_RING_FULL f) |> unset (Reg.EVT_COUNTS_DROPPED f)
    |> endSessions f |> resetCfg cause f
  if f = 0 then
    let s := clearIde 8 s
    let s := (upFrom 0 64).foldl (fun s i => s |> unset (Reg.PLC_CFG_VALID i) |> unset (Reg.PLC_CFG_READ i)
      |> unset (Reg.PLC_CFG_WRITE i) |> unset (Reg.PLC_CFG_PARTITION i) |> unset (Reg.PLC_CFG_RID i)
      |> unset (Reg.PLC_WIN_LEN_M1 i) |> unset (Reg.PLC_WIN_OFF_2M i) |> unset (Reg.PLC_BASE_BASE i)) s
    let s := s |> unset Reg.PLC_ERR_CODE |> unset Reg.PLC_ERR_ENTRY |> unset Reg.PLC_REJECT_COUNT
      |> unset Reg.PLC_REJECT_LAST_RID
    let s := (upFrom 0 3).foldl (fun s k => s |> unset (Reg.BNC_BASE_BASE k) |> unset (Reg.BNC_BASE_LOG2 k) |> unset (Reg.BNC_STATUS_ERROR k)) s
    let s := failColds s
    let s := { s with det := { s.det with reqs := 0, rsps := 0, producer := 0, consumer := 0 } }
    allParts.foldl (fun s p => if s.ldState p = Ld.fetch then refuseLoad p (plainFail 0x20) s else s) s
  else clearIde (f - 1) s

/-- Functions detached by one cause (R444). -/
def detach (cause : Nat) (fs : List Nat) (s : State) : State :=
  fs.foldl (fun s f => detachFn cause f s) s |> showDetached |> set Reg.PKG_STATE_DETACHED_SEEN 1
    |> bump Reg.HP_COUNTS_DETACHES 1

/-- The functions that a cause at function `f` detaches: a physical function's are all. -/
def withVfs (f : Nat) : List Nat := if f = 0 then allFns else [f]

/-- Whether the package may reach a function's memory: the function exists and is not detached. -/
def State.attached (s : State) (f : Nat) : Bool := (s.ring f).detached == 0 && s.fnExists f

/-- Bytes written to a function's host memory, unless it is detached. -/
def hostWrite (f addr : Nat) (l : List Byte) (relaxed : Bool) (s : State) : State :=
  if s.attached f then put (.host f addr l relaxed) s else s

/-! Event records (R440, R441, R446, R559). -/

/-- Bytes filled with zeros to a multiple of 16. -/
def padTo16 (l : List Byte) : List Byte := l ++ List.replicate ((16 - l.length % 16) % 16) 0

/-- Header word 0. -/
def evWord0 (phase : Bool) (bytes code : Nat) : List Byte :=
  leBytes 4 (place (b2n phase) 31 1 + place (bytes / 16) 16 7 + place code 0 16)

/-- A record's bytes after header word 0. -/
def recRest (r : EvRec) : List Byte :=
  let w3 := place (r.mb.getD 0) 16 16 + place (b2n r.mb.isSome) 15 1 + place (b2n r.part.isSome) 14 1
    + place (r.part.getD 0) 11 3 + place (b2n r.step.isSome) 10 1
  (padTo16 (leBytes 4 0 ++ leBytes 4 r.seq ++ leBytes 4 (r.step.getD 0) ++ leBytes 4 w3 ++ wordsLe r.body)).drop 4

/-- A record of the ring writer itself: words 1 to 3 are 0. -/
def plainRest (body : List Nat) : List Byte := (padTo16 (List.replicate 16 0 ++ wordsLe body)).drop 4

/-- The body of a REATTACH record. -/
def reattachBody (cause dropped : Nat) (ended : List (Nat × Nat × Nat)) : List Nat :=
  [place ended.length 8 8 + place cause 0 8, dropped] ++ ended.flatMap fun x => [place x.1 28 4 + place x.2.1 12 16, place x.2.2 16 16]

/-- A ring's size in bytes. -/
def State.evtSize (s : State) (f : Nat) : Nat := 2 ^ max 12 (min 24 (s.get (Reg.EVT_BASE_LOG2 f)))

/-- The writer places a record (R441): the body goes before header word 0. None where it waits for room. -/
def placeRecord (f code : Nat) (rest : List Byte) (s : State) : Option State :=
  let size := s.evtSize f
  let base := s.get (Reg.EVT_BASE_BASE f) * 4096
  let head := s.get (Reg.EVT_HEAD_HEAD f)
  let tail := s.get (Reg.EVT_TAIL_TAIL f)
  let l := rest.length + 4
  let free := (head + 2 * size - tail - 16) % size
  let need := if l ≤ size - tail then l else size - tail + l
  let g := s.ring f
  let write (at_ : Nat) (ph : Bool) (s : State) : State :=
    s |> hostWrite f (base + at_ + 4) rest false |> hostWrite f (base + at_) (evWord0 ph l code) false
  if free < need then none
  else if l ≤ size - tail then
    let wrap := tail + l = size
    some ((write tail g.phase s).setRing f { g with phase := if wrap then !g.phase else g.phase, full := false }
      |> set (Reg.EVT_TAIL_TAIL f) (if wrap then 0 else tail + l))
  else
    let s := hostWrite f (base + tail) (evWord0 g.phase (size - tail) 0) false s
    some ((write 0 (!g.phase) s).setRing f { g with phase := !g.phase, full := false } |> set (Reg.EVT_TAIL_TAIL f) l)

/-- The vector signalled after records were written (R442). -/
def signalRing (f : Nat) (s : State) : State :=
  if s.on (Reg.EVT_CFG_IRQ_EN f) then put (.irq f (vectorOf f (s.get (Reg.EVT_CFG_VECTOR f)))) s else s

end Sys2Proof.Machine
end

