-- ==== Sys2Proof/Machine/WindDown.lean ====
section
/-!
DEFINITION. Winding a partition's work down, abandoning it, rewinding the partition and releasing its image
(13 R463, R465, 03 R115, 04 R141, 05 R178, 07 R273, R274, 08 R309, 09 R345, 14 R487, R505).
-/
namespace Sys2Proof.Machine
open State

/-- A tread that executes or waits. -/
def Tread.busy (x : Tread) : Bool := x.st == .run || x.st == .wait

/-- A flight whose started work has ended: no LOAD writes, no tile accumulates, waits to drain or drains, and nothing queued runs
on. -/
def State.flightDone (s : State) (gf : Nat) : Bool :=
  let f := s.flight gf
  f.loads.isEmpty && (f.arrays.all fun (_, a) => a.drain.isNone && (match a.tile with
    | some t => !t.ends
    | none => true)) && f.runOn (s.flightShape gf) == 0

/-- The treads of partition `p` that are not at their reset values. -/
def State.partTreads (s : State) (p : Nat) : List Nat :=
  (s.treads.map Prod.fst).filter fun t => s.flightPart (treadGf t) == some p

/-- Whether a partition's work has wound down. -/
def State.woundDown (s : State) (p : Nat) : Bool :=
  ((s.placedFlights p).all fun gf => s.flightDone gf) && (s.partTreads p).all fun t => !(s.tread t).busy

/-- A tread stopped: in HALT unless it is fenced or idle. -/
def Tread.stopped (x : Tread) : Tread := if x.st == .fenced || x.st == .idle then x else { x with st := .halt, wait := .none }

/-- A flight's work given up: descriptors discarded, the bank of an accumulating tile +0, drains cut (R465). -/
def Flight.abandoned (f : Flight) : Flight :=
  { f with queue := [], loads := [], arrays := tmap ArrayData.init (fun _ a =>
      let a := match a.tile with
        | some t => if t.bank = 0 then { a with bank0 := [] } else { a with bank1 := [] }
        | none => a
      { a with tile := none, drain := none, blks := [], failed := false }) f.arrays }

/-- Messages of the partition's channels that have not begun to leave, fabric messages excepted, are not sent. -/
def dropUnsent (p : Nat) (s : State) : State :=
  (vcsOf (s.imageOf p)).foldl (fun s (k, v) =>
    let c := s.vchan k v
    let n := b2n c.txCut
    if c.part = some p then setVchan k v { c with tx := c.tx.take n ++ (c.tx.drop n).filter fun m => mKind m == 5 } s else s) s

/-- A drain given up: it stops after some row, and no record or report is sent. How many rows it has sent by then is open
(R465; log 43). -/
def abandonDrain (gf arr : Nat) (s : State) : State :=
  match (s.array gf arr).drain with
  | none => s
  | some run =>
    if (s.array gf arr).failed then s
    else
    let sh := s.flightShape gf
    let t := tileOf run.desc
    let rows := (partsOf sh gf).flatMap fun p => epiRows (s.flight p.gf) sh t ((s.array gf arr).bank run.bank) p
    let (v, s) := s.takeFree
    (drainRows (.flight gf) [] FabSt.ok t (s.drainKey gf run) rows (rows.take (v.toNat % (rows.length + 1))) s).2

/-- Every drain of a partition given up. -/
def abandonDrains (p : Nat) (s : State) : State :=
  (s.placedFlights p).foldl (fun s gf => (upFrom 0 4).foldl (fun s arr => abandonDrain gf arr s) s) s

/-- What is still running 10 ms after the wind-down began is given up (R465). -/
def abandonWork (p : Nat) (s : State) : State :=
  let s := abandonDrains p s
  let s := (s.placedFlights p).foldl (fun s gf => s.setFlight gf (s.flight gf).abandoned) s
  let s := (s.partTreads p).foldl (fun s t => if (s.tread t).busy then s.setTread t (s.tread t).stopped else s) s
  s |> clearUcQueues p |> dropUnsent p

/-! The rewind (R463 step 3). -/

/-- Channels and knots of a partition emptied, counters at their limits (04 R141). -/
def emptyChannels (p : Nat) (s : State) : State :=
  let r := s.imageOf p
  let empty (k : Nat) (s : State) : State :=
    let c := s.chan k
    s.setChan k { ChanData.init with limit := c.limit, credit := c.limit }
  let s := r.routes.zipIdx.foldl (fun s (_, i) => empty (Chan.route p i).key s) s
  r.knots.zipIdx.foldl (fun s (_, i) => empty (Chan.knot p i).key s |> setKnot (knotKey p i) Knot.init) s

/-- A stage's saturation told anew in the steps from `t` on, which run again (02 R65). -/
def restartSaturation (p t : Nat) (s : State) : State :=
  (s.imageOf p).stages.foldl (fun s x =>
    s.setPower { s.power with
      saturatedIn := tset [] s.power.saturatedIn x.slot ((tget [] s.power.saturatedIn x.slot).filter (· < t)) }) s

/-- The flights of a partition as a step finds them (05 R178), their treads halted and cleared (04 R129), none of them to be
started. -/
def restartFlights (p : Nat) (s : State) : State :=
  let placed := s.placedFlights p
  let s := s.setPower { s.power with starting := s.power.starting.filter fun gf => !placed.contains gf }
  let s := (s.placedFlights p).foldl (fun s gf =>
    s.setFlight gf (s.flight gf).rewound |> set (Reg.FLT_STATUS_STOPPED gf) 0 |> set (Reg.FLT_STATUS_LINE_HELD gf) 0
      |> set (Reg.FLT_DESC_ERR_CODE gf) 0) s
  (s.partTreads p).foldl (fun s t =>
    s.setTread t { (s.tread t).stopped.cleared with held0 := false, held1 := false }) s

/-- Stages, contexts and rings of a partition at the start of step `t` (07 R273, 08 R309). -/
def restartStages (p t : Nat) (s : State) : State :=
  let s := (s.imageOf p).stages.foldl (fun s x =>
    (upFrom x.ctxBase x.ctxCount).foldl (fun s c => s.setCtx c Ctx.init)
      (s.setStage x.slot Stage.init |> setRed x.slot Red.init |> set (Reg.SEQ_STATUS_MB_ID x.slot) 0)) s
  beginStep p t s

/-- Landings of a partition emptied; ROPE_OUT counters at their pending credit; each ROPE_IN landing grants its present
limit under the new epoch (07 R273, R274). -/
def emptyLandings (p : Nat) (s : State) : State :=
  (s.imageOf p).lands.foldl (fun s c =>
    let l := s.landing c.num
    let s := s.setLanding c.num { Landing.init with
      limit := l.limit
      credit := if c.kind = 1 then l.pend else if c.kind = 2 then 0 else l.limit }
    if c.kind = 2 then sendCredit p c.num c 0 l.limit s else s) s

/-- BUILDING slots FREE, the finite flags of unresolved steps set again (07 R273, 08 R293). -/
def restartVersions (p t : Nat) (s : State) : State :=
  let x := s.part p
  s.setPart p { x with
    slots := tmap (VerState.free, 0) (fun _ v => if v.1 == .building then (.free, 0) else v) x.slots
    cleared := x.cleared.filter fun c => decide (c.step < t)
    ratioNow := [] }

/-- The partition rewound to the start of step `t` under epoch `e`. -/
def rewindTo (p t e : Nat) (s : State) : State :=
  let s := s.setSvc p { s.svc p with epoch := e, votes := [], voted := none }
  let s := { s with gathers := s.gathers.filter fun g => g.1 != p || decide (g.2.2.1 < t) }
  s |> dropUnsent p |> emptyChannels p |> restartFlights p |> restartStages p t |> emptyLandings p |> restartVersions p t
    |> restartSaturation p t |> clearUcQueues p |> clearCounts p

/-! Release (03 R115) and the start of a scrub (14 R487, R505). -/

/-- A scrub queued: the partition reads SCRUBBING, and a refused load is forgotten (03 R123). `tell` is what PART_UNAVAILABLE says
of its channels. -/
def queueScrub (p : Nat) (tell : List (Nat × Nat × Nat × Nat)) (s : State) : State :=
  if p ∈ s.sec.scrubs then s
  else
    let s := s.set (partFld p) partScrubbing |> raise Ev.partScrubStart (partStamp p) [p]
    let s := { s with sec := { s.sec with scrubs := s.sec.scrubs ++ [p], unavailable := s.sec.unavailable ++ tell } }
    let s := if s.ldState p = Ld.refused then setLd p Ld.idle s else s
    (upFrom 0 64).foldl (fun s i => if s.get (Reg.PLC_CFG_PARTITION i) = p then s.set (Reg.PLC_CFG_VALID i) 0 else s) s

/-- The channels of an image as PART_UNAVAILABLE names them: partition, rope, job ID, mask (14 R506). -/
def Rigging.tells (r : Rigging) (p : Nat) : List (Nat × Nat × Nat × Nat) :=
  (upFrom 0 18).filterMap fun k =>
    let m := ((vcsOf r).filter fun x => x.1 == k).foldl (fun m x => m ||| 2 ^ x.2) 0
    if m = 0 then none else some (p, k, r.jobId, m)

/-- A partition's fabric routes and requests, sparse work and gather counts dropped. -/
def dropWork (p : Nat) (s : State) : State :=
  let fab := s.fabric
  let s := { s with fabric := { fab with routes := fab.routes.filter fun x => x.1 != p,
                                         remote := fab.remote.filter fun x => x.part != p } }
  s |> keepSparse (fun x => x.part != p) |> keepGathers (fun g => g.1 != p)

/-- Every resource of a partition's image freed. -/
def freeImage (p : Nat) (s : State) : State :=
  let r := s.imageOf p
  let s := (s.placedFlights p).foldl (fun s gf => flightOff gf s) s
  let s := r.stages.foldl (fun s x =>
    (upFrom x.ctxBase x.ctxCount).foldl (fun s c => s.setCtx c Ctx.init)
      (s.setStage x.slot Stage.init |> setRed x.slot Red.init |> dropStageRate x.slot)) s
  let s := r.lands.foldl (fun s c => s.setLanding c.num Landing.init) s |> dropPorts p (fun _ _ => true)
  let s := r.routes.zipIdx.foldl (fun s (_, i) => s.setChan (Chan.route p i).key ChanData.init) s
  let s := r.knots.zipIdx.foldl (fun s (_, i) => s.setChan (Chan.knot p i).key ChanData.init |> setKnot (knotKey p i) Knot.init) s
  let s := (vcsOf r).foldl (fun s (k, v) => closeVc k v s) s
  s |> dropWork p |> clearUcQueues p |> clearScratch p |> dropPlacements p

/-- An armed injection whose target the partition holds ends (15 R515). -/
def endInjectionOf (p : Nat) (s : State) : State :=
  match s.det.armed with
  | none => s
  | some i =>
    let held := match i.point with
      | 0x1 | 0x2 => s.flightPart (treadGf i.target) == some p
      | 0x3 | 0x4 | 0xB | 0xC => s.flightPart i.target == some p
      | 0x5 | 0x6 => (s.regionAt i.addr).map Prod.fst == some p
      | 0xA => (s.vchan (i.target % 32) (i.target / 32)).part == some p
      | _ => false
    if held then endInjection s else s

/-- The row shifts that a partition's queue still holds, made in the remaps of rows whose flights are not fenced: the fence stands
when the re-rig does not come (04 R146, R160). -/
def settleRows (p : Nat) (s : State) : State :=
  (s.rig p).rerigs.foldl (fun s x => match x with
    | .row gf row col => shiftRow gf row col s
    | .role _ _ => s) s

/-- A partition released: it reads ASSIGNED, or SCRUBBING when its scrub was requested. -/
def releasePart (p : Nat) (s : State) : State :=
  let tells := (s.imageOf p).tells p
  let scrub := (s.rig p).scrubAfter
  let s := s |> endInjectionOf p |> settleRows p |> freeImage p |> slotClear p |> showCapacity
  let s := (upFrom 0 16).foldl (fun s w => s.set (Reg.RIG_MEASURE p w) 0) s
  let s := s.setRig p Rig.init |> setPart p Part.init |> setSvc p Svc.init |> setSvcState p .idle
    |> set (Reg.STEP_STATUS_JOINED p) 0 |> set (Reg.CKPT_STATUS_STATE p) 0 |> set (Reg.SNAP_STATUS_STATE p) 0
    |> set (Reg.RIG_STATUS_ALT_FREE p) 0 |> set (Reg.RIG_STATUS_ROLES_MOVED p) 0
    |> set (partFld p) partAssigned |> setLd p Ld.idle
  let s := s.set Reg.RERIG_LAST_BUSY (b2n (allParts.any fun q => (s.rig q).rerigStart != 0))
  let s := if s.pkg == .service && s.loaded.isEmpty then { s with pkg := .ready } else s
  let s := raise Ev.rigReleased (partStamp p) [] s
  if scrub then queueScrub p tells s else s

/-- RIG_RELEASE: a write of RIG_CTRL.RELEASE on a loaded image begins its wind-down; ignored in any other state. -/
def beginRelease (p : Nat) (s : State) : State :=
  if s.ldState p = Ld.loaded then s |> setLd p Ld.releasing |> beginWindDown p else s

def execRigRelease (w : CtrlWrite) (s : State) : Result :=
  rigCtrl w.unit 4 w.value (beginRelease w.unit) s

/-- RIG_RELEASED: the wind-down of a release has ended. -/
def execRigReleased (p : Nat) (s : State) : Result :=
  perform (partOk p) (fun s => if s.ldState p = Ld.releasing && s.woundDown p then releasePart p s else s) s

end Sys2Proof.Machine
end

