-- ==== Sys2Proof/Machine/CkptOps.lean ====
section
/-!
DEFINITION. Hot-checkpoint frames, cold checkpoints and snapshot pins as shared operations (13 R468 to R473, R475).
-/
namespace Sys2Proof.Machine
open State

/-! A frame's contents (R469; log 73). -/

/-- One segment: region kind, version slot or state half, class-0 base, bytes. -/
structure Seg where
  kind : Nat
  index : Nat
  base : Nat
  len : Nat
  deriving DecidableEq, Repr, Inhabited

/-- The parts of a table that a frame holds: header page, rows, states and marks; of a table without sources, all of it. -/
def tableSegs (s : State) (r : Rigging) (g : Region) : List Seg :=
  let h := s.hdrAt g.base
  if h.sources = 0 then [⟨4, 0, g.base, g.size⟩]
  else
    let parts := (0, 0x1000) :: ((h.arrays r).filter fun a => a.1 != h.inboxOff)
    parts.map fun (o, n) => ⟨4, 0, g.base + o, n⟩

/-- The segments of a partition's frame. -/
def State.frameSegs (s : State) (p : Nat) : List Seg :=
  let r := s.imageOf p
  let x := s.part p
  let held (k : Nat) : Bool :=
    let v := tget (VerState.free, 0) x.slots k
    v.1 == .newest || v.1 == .live
  ((r.regions.filter fun g => g.kind == 0 && held g.index).map fun g => ⟨0, g.index, g.base, g.size⟩)
    ++ (r.upds.map fun u => ⟨3, x.count % 2, u.state + x.count % 2 * u.half, u.half⟩)
    ++ (r.regions.filter fun g => g.kind == 4).flatMap fun g => tableSegs s r g

def framePrefix (n : Nat) : Nat := 0x1000 + 32 * n
def frameLen (l : List Seg) : Nat := framePrefix l.length + (l.map Seg.len).sum

/-- Directory entries: kind, index, base, bytes and frame offset. -/
def frameDir : Nat → List Seg → List Byte
  | _, [] => []
  | o, x :: r => leBytes 4 x.kind ++ leBytes 4 x.index ++ leBytes 8 x.base ++ leBytes 8 x.len ++ leBytes 8 o ++ frameDir (o + x.len) r

/-- The header and directory of a frame of step `h`. -/
def frameHead (s : State) (p h : Nat) (l : List Seg) : List Byte :=
  let head := leBytes 4 0x4652_4D31 ++ leBytes 4 (s.imageOf p).jobId ++ leBytes 8 h ++ leBytes 8 (s.part p).count
    ++ ((upFrom 0 16).flatMap fun w => leBytes 4 (s.get (Reg.RIG_MEASURE p w)))
    ++ ((upFrom 0 8).flatMap fun i => leBytes 4 (tget 0x3F80_0000 (s.part p).scale i)) ++ leBytes 4 l.length
  fit 0 0x1000 head ++ frameDir (framePrefix l.length) l

/-- The bytes of segments; none where a line is lost. -/
def readSegs : List Seg → List Byte → State → Option (List Byte) × State
  | [], acc, s => (some acc, s)
  | x :: r, acc, s =>
    match memRead .other [] x.base x.len s with
    | (some b, s) => readSegs r (acc ++ b) s
    | (none, s) => (none, s)

/-! Frame slots (R468). -/

/-- The HOT_CKPT_IN region of a partition: the base of frame slot `k` and the bytes of one. -/
def State.frameArea (s : State) (p k : Nat) : Nat × Nat :=
  match (s.imageOf p).regions.find? fun g => g.kind == 6 with
  | some g => (g.base + k * (g.size / 4), g.size / 4)
  | none => (0, 0)

/-- The own slot that takes the next frame: not the one that holds CKPT_SAFE, nor one being written to storage. -/
def State.frameSlot? (s : State) (p : Nat) : Option Nat :=
  let safe := s.get (Reg.CKPT_SAFE_STEP p)
  let ok (f : Frame) : Bool := !f.cold && !(f.complete && f.step == safe)
  let a := lget Frame.none (s.svc p).frames 0
  let b := lget Frame.none (s.svc p).frames 1
  match ok a, ok b with
  | true, true => some (if a.step ≤ b.step then 0 else 1)
  | true, false => some 0
  | false, true => some 1
  | false, false => none

def setFrame (p k : Nat) (f : Frame) (s : State) : State :=
  s.setSvc p { s.svc p with frames := lset (s.svc p).frames k f } |> showCkpt p
def setWard (p k : Nat) (f : Frame) (s : State) : State :=
  s.setSvc p { s.svc p with ward := lset (s.svc p).ward k f }

/-- The newest complete frame step that VOTE carries; 0 without one. -/
def State.newestFrame (s : State) (p : Nat) : Nat :=
  (s.svc p).frames.foldl (fun m f => if f.complete then max m f.step else m) 0

/-! CHECKPOINT messages (R470). -/
namespace Ck
def data : Nat := 0
def done : Nat := 1
def fetch : Nat := 2
def back : Nat := 3
def backDone : Nat := 4
end Ck

def ckBody (step op slot off : Nat) (data : List Byte) : List Byte :=
  leBytes 8 step ++ leBytes 1 op ++ leBytes 1 slot ++ leBytes 6 0 ++ leBytes 8 off ++ data

def sendCk (p k v step op slot off : Nat) (data : List Byte) : State → State :=
  sendJob p k v 0x06 0 0 0 (ckBody step op slot off data)

/-- Bytes in parts of 64 KiB with their offsets (log 74). -/
def ckParts : Nat → Nat → List Byte → List (Nat × List Byte)
  | 0, _, _ => []
  | n + 1, o, l => if l.isEmpty then [] else (o, l.take 0x1_0000) :: ckParts n (o + 0x1_0000) (l.drop 0x1_0000)

/-- A frame's bytes sent as DATA or RETURN, then DONE or RETURN_DONE. -/
def sendFrame (p k v step op last slot : Nat) (l : List Byte) (s : State) : State :=
  (ckParts (l.length / 0x1_0000 + 1) 0 l).foldl (fun s x => sendCk p k v step op slot x.1 x.2 s) s
    |> sendCk p k v step last slot 0 []

/-- A skipped frame: counted, reported. -/
def skipFrame (p h code : Nat) (body : List Nat) (s : State) : State :=
  s |> bump (Reg.CKPT_STATUS_SKIPS p) 1 |> raise code (stepStamp p h) ([h % 2 ^ 32, h / 2 ^ 32] ++ body)

/-- The frame of step `h` at its resolution: taken at one instant, so no later update waits for it (R471), and on its way
to the buddy; or skipped. -/
def takeFrame (p h : Nat) (s : State) : State :=
  let r := s.imageOf p
  if h % r.ckptK ≠ 0 || !s.on (Reg.CKPT_CFG_HOT_EN p) then s
  else
    let segs := s.frameSegs p
    let n := frameLen segs
    if (s.frameArea p 0).2 < n then skipFrame p h Ev.ckptNoRoom [n % 2 ^ 32, n / 2 ^ 32] s
    else match s.route? p r.buddyId, s.frameSlot? p with
      | none, _ => skipFrame p h Ev.ckptNoRoute [] s
      | _, none => skipFrame p h Ev.ckptSkipped [] s
      | some (k, v), some j =>
        match readSegs segs (frameHead s p h segs) s with
        | (none, s) => s
        | (some l, s) =>
          let (ok, s) := memWrite .other [] (s.frameArea p j).1 l s
          if !ok then s
          else s |> setFrame p j ⟨h, true, false, false, n⟩ |> keepRoute p r.buddyId
            |> sendFrame p k v h Ck.data Ck.done j l

/-! Restoring (R469, R475). -/

/-- Segments of a directory copied to their places from a frame's bytes. -/
def placeSegs (l : List Byte) : Nat → Nat → State → State
  | 0, _, s => s
  | n + 1, o, s =>
    let at_ (i w : Nat) : Nat := ofLe ((l.drop (o + i)).take w)
    let b := (l.drop (at_ 24 8)).take (at_ 16 8)
    placeSegs l n (o + 32) (memWrite .other [] (at_ 8 8) b s).2

/-- The version slots that a directory names, as entries of the slot table. -/
def dirSlots (l : List Byte) (c m : Nat) : Nat → Nat → Tbl (VerState × Nat) → Tbl (VerState × Nat)
  | 0, _, t => t
  | n + 1, o, t =>
    let at_ (i w : Nat) : Nat := ofLe ((l.drop (o + i)).take w)
    let k := at_ 4 4
    let cnt := c - (c + m - k) % m
    dirSlots l c m n (o + 32)
      (if at_ 0 4 = 0 then tset (VerState.free, 0) t k (if cnt = c then .newest else .live, cnt) else t)

/-- Every mark of a partition's trained tables all ones. -/
def clearMarks (p : Nat) (s : State) : State :=
  (s.trainedTables p).foldl (fun s (g, h) =>
    (memWrite .other [] (g.base + h.markOff) (List.replicate (8 * h.rows) 0xFF) s).2) s

/-- The state of step `t` restored from a frame's bytes. A spare keeps nothing of before (R466). -/
def applyFrame (p t : Nat) (l : List Byte) (s : State) : State :=
  let at_ (i w : Nat) : Nat := ofLe ((l.drop i).take w)
  let c := at_ 16 8
  let n := at_ 120 4
  let m := max 1 (s.imageOf p).maxLive
  let s := placeSegs l n 0x1000 s |> clearMarks p
  let x := s.part p
  let v := s.svc p
  let old := if v.spare then [] else x.hist.filter fun h => decide (h.1 ≤ t)
  let hist := if old.any fun h => h.1 == t then old else old ++ [(t, c)]
  s.setPart p { x with
      count := c, slots := dirSlots l c m n 0x1000 [], hist := hist, cleared := [], ratioNow := []
      scale := (upFrom 0 8).foldl (fun m i => tset 0x3F80_0000 m i (at_ (88 + 4 * i) 4)) [] }
    |> setSvc p { v with decided := t, confirmTo := if v.spare then t else max v.decided v.confirmTo, restore := none }
    |> beginStep p (t + 1)

/-- Whether a line of the regions that a frame holds is lost here. -/
def State.segLost (s : State) (p : Nat) : Bool :=
  (s.frameSegs p).any fun x => s.memCheck.any fun e => s.lineFails e.1 && decide (x.base < (e.1 + 1) * 64) && decide (e.1 * 64 < x.base + x.len)

/-- The frame of step `t` asked back from the buddy, once there is a route to it. -/
def fetchFrame (p t : Nat) (s : State) : State :=
  let b := (s.imageOf p).buddyId
  let j := if (lget Frame.none (s.svc p).frames 1).step = t then 1 else 0
  match s.route? p b with
  | some (k, v) =>
    s.setSvc p { s.svc p with restore := some t } |> showCkpt p |> keepRoute p b |> sendCk p k v t Ck.fetch j 0 []
  | none => s

/-- The frame of own slot `j` restored; where its copy has a lost line, it is asked back. -/
def restoreOwn (p t j : Nat) (s : State) : Bool × State :=
  let f := lget Frame.none (s.svc p).frames j
  match memRead .other [] (s.frameArea p j).1 f.len s with
  | (some l, s) => (true, applyFrame p t l s |> showCkpt p)
  | (none, s) => (false, fetchFrame p t s)

/-- A restore of step `t` begun: from this package's own copy, or from the buddy's on a spare, after a lost line, and
without a whole copy here. True when it is done. -/
def beginRestore (p t : Nat) (s : State) : Bool × State :=
  let v := s.svc p
  match v.restore with
  | some _ => (false, s)
  | none =>
    match v.frames.findIdx? fun f => f.here && f.step == t with
    | some j => if v.spare || s.segLost p then (false, fetchFrame p t s) else restoreOwn p t j s
    | none => (false, fetchFrame p t s)

/-- Bytes of a bounce buffer from its offset 0x1000 on (12 R455). -/
def State.bufferRoom (s : State) (k : Nat) : Nat := 2 ^ max 16 (min 26 (s.get (Reg.BNC_BASE_LOG2 k))) - 0x1000

/-! Telemetry (15 R527). -/

/-- A telemetry record of partition `p`: PART_COMMIT, PWR_INPUT, PKG_CAPACITY, THERM_STATUS, SCHED_LR and zeros. -/
def State.telemetry (s : State) (p : Nat) : List Byte :=
  fit 0 256 (((upFrom 0 12).flatMap fun w => leBytes 4 (s.wordAt (0x1000 + 0x100 * p + 4 * w)))
    ++ leBytes 4 (s.wordAt Reg.PWR_INPUT_INPUT_W.base) ++ leBytes 4 (s.wordAt Reg.PKG_CAPACITY_ACTIVE_FLIGHTS.base)
    ++ leBytes 4 (s.wordAt Reg.THERM_STATUS_HOTTEST_C.base) ++ leBytes 4 (s.wordAt (Reg.SCHED_LR_LR p 0).base))

/-- After a resolution of step `step`: every EVERY steps a record is written, PRODUCER moves on and the bell rings; a record
without room is counted. The offsets count bytes; a record lies at its offset modulo the records area (log 80). -/
def writeTelemetry (p step : Nat) (s : State) : State :=
  if !s.on Reg.TELEM_CFG_ENABLE || step % max 1 (s.get Reg.TELEM_CFG_EVERY) ≠ 0 then s
  else
    let room := s.bufferRoom 1
    if !s.bncReady 1 || room < s.det.producer + 256 - s.det.consumer then bump Reg.TELEM_STATUS_SKIPPED 1 s
    else
      let base := s.get (Reg.BNC_BASE_BASE 1) * 4096
      let n := s.det.producer
      { s with det := { s.det with producer := n + 256 } }
        |> hostWrite 0 (base + 0x1000 + n % room) (s.telemetry p) false |> hostWrite 0 base (leBytes 8 (n + 256)) false
        |> ringBell 1 0

/-! Cold checkpoints (R472). -/

/-- Bytes of the STORAGE buffer's data area. -/
def State.storageRoom (s : State) : Nat := s.bufferRoom 0

/-- A request posted: OP, ID, object, place and length; its PHASE is 1 on the ring's first pass. -/
def postRequest (p op step off len : Nat) (s : State) : State :=
  let n := s.det.reqs
  let base := s.get (Reg.BNC_BASE_BASE 0) * 4096
  let e := leBytes 1 op ++ leBytes 1 0 ++ leBytes 2 n ++ leBytes 4 (s.imageOf p).jobId ++ leBytes 8 step
    ++ leBytes 2 (s.get Reg.PKG_ID_ID) ++ leBytes 6 0 ++ leBytes 8 off ++ leBytes 4 len ++ leBytes 4 0x1000
    ++ List.replicate 23 0 ++ leBytes 1 (0x80 * b2n (n / 32 % 2 == 0))
  { s with det := { s.det with reqs := n + 1 } } |> hostWrite 0 (base + n % 32 * 64) e false |> ringBell 0 0

/-- The next piece of a frame written to storage, or its SYNC after the last. -/
def coldNext (p j off : Nat) (s : State) : State :=
  let f := lget Frame.none (s.svc p).frames j
  let id := s.det.reqs % 2 ^ 16
  if f.len ≤ off then
    s.setSvc p { s.svc p with storage := [⟨id, true, f.step, j, off, 0⟩] } |> postRequest p 2 f.step 0 0
  else
    let n := min s.storageRoom (f.len - off)
    match memRead .other [] ((s.frameArea p j).1 + off) n s with
    | (none, s) => failCold p s
    | (some l, s) =>
      s.setSvc p { s.svc p with storage := [⟨id, false, f.step, j, off, n⟩] }
        |> hostWrite 0 (s.get (Reg.BNC_BASE_BASE 0) * 4096 + 0x1000) l false |> postRequest p 1 f.step off n

/-- The first frame that waits for storage begins once no other is being written; without a buffer it fails. -/
def coldBegin (s : State) : State :=
  if allParts.any fun p => !(s.svc p).storage.isEmpty then s
  else match allParts.find? fun p => (s.svc p).frames.any Frame.cold with
    | none => s
    | some p =>
      if !s.bncReady 0 then failCold p s
      else match (s.svc p).frames.findIdx? Frame.cold with
        | some j => coldNext p j 0 s
        | none => s

/-- A complete frame: HOT_CKPT_STEP names it, and every COLD_MULT-th goes to storage. -/
def frameComplete (p j : Nat) (s : State) : State :=
  let f := lget Frame.none (s.svc p).frames j
  let mult := s.get (Reg.CKPT_CFG_COLD_MULT p)
  let n := (s.svc p).coldCount + 1
  let due := mult != 0 && decide (mult ≤ n)
  let s := s.setSvc p { s.svc p with coldCount := if due then 0 else n } |> set (Reg.HOT_CKPT_STEP_STEP p) f.step
  (if due then setFrame p j { f with acked := true, cold := true } s |> coldBegin else setFrame p j { f with acked := true } s)
    |> showCkpt p

/-- A response taken: a WRITE goes on, a SYNC ends the object; an ERROR fails it. -/
def coldAnswer (p : Nat) (q : StorageReq) (bad : Bool) (s : State) : State :=
  if bad then s |> set (Reg.BNC_STATUS_ERROR 0) 1 |> failCold p |> coldBegin
  else if !q.sync then coldNext p q.slot (q.off + q.len) s
  else
    let f := lget Frame.none (s.svc p).frames q.slot
    s.setSvc p { s.svc p with storage := [] } |> setFrame p q.slot { f with cold := false }
      |> set (Reg.COLD_CKPT_STEP_STEP p) q.step
      |> raise Ev.ckptColdDone (stepStamp p q.step) [q.step % 2 ^ 32, q.step / 2 ^ 32] |> notifyStep p 5 |> coldBegin

/-! Snapshots (R473). -/

/-- The NEWEST version slot of a partition. -/
def State.newestSlot? (s : State) (p : Nat) : Option Nat :=
  ((s.part p).slots.find? fun e => e.2.1 == .newest).map Prod.fst

/-- A pin of the NEWEST slot and its state half, unless one is held. SNAP_STEP is COMMITTED_STEP also while the job catches up
after a rollback and the NEWEST slot is still of an earlier step (DESIGN CHOICE, log 97). -/
def pinSnapshot (p : Nat) (s : State) : State :=
  if s.get (Reg.SNAP_STATUS_STATE p) = 2 then s
  else match s.newestSlot? p with
    | none => s
    | some k =>
      let ms := max 1 (s.get (Reg.SNAP_CTRL_MAX_MS p))
      s.setSvc p { s.svc p with pinEnd := some (s.time + ms * 1000000) }
        |> set (Reg.SNAP_STATUS_STATE p) 2 |> set (Reg.SNAP_STATUS_SLOT p) k
        |> set (Reg.SNAP_STATUS_HALF p) ((s.part p).count % 2)
        |> set (Reg.SNAP_STEP_STEP p) (s.get (Reg.COMMITTED_STEP_STEP p)) |> notifyStep p 6

/-- A pin ended with SNAP_STATUS at `st`. -/
def endPin (p st : Nat) (s : State) : State :=
  if s.get (Reg.SNAP_STATUS_STATE p) = 2 then
    s.setSvc p { s.svc p with pinEnd := none } |> set (Reg.SNAP_STATUS_STATE p) st
  else s

end Sys2Proof.Machine
end

