-- ==== Sys2Proof/Machine/Steps.lean ====
section
/-!
DEFINITION. Commands of the commit tree, the resolution of steps, rewinds, rollbacks and halts (13 R456 to R467, R474).
-/
namespace Sys2Proof.Machine
open State

/-! The tree (R457). -/

def State.isChild (s : State) (p k : Nat) : Bool := (s.svc p).joined.any fun j => j.1 == k
def State.fromParent (s : State) (p k : Nat) : Bool := !s.isRoot p && s.parentRope p == k
/-- The ropes of a partition's tree edges. -/
def State.edges (s : State) (p : Nat) : List Nat := (if s.hasParent p then [s.parentRope p] else []) ++ s.childRopes p

/-- TREE_ERROR, with the offending peer if there is one. -/
def treeError (p : Nat) (peer : Option Nat) (s : State) : State :=
  s |> setSvcState p .treeError |> set (Reg.TREE_STATUS_VALID p) (b2n peer.isSome)
    |> set (Reg.TREE_STATUS_PEER_ID p) (peer.getD 0) |> raise Ev.commitTreeError (partStamp p) [peer.getD 0]

/-- GO at this package: the committed state, the versions and the scales of the job's first step (R457 step 4, 07 R261,
R274, 08 R313). -/
def applyGo (p : Nat) (s : State) : State :=
  let base := s.get (Reg.STEP_BASE_STEP p)
  let c := s.get (Reg.STEP_VBASE_COUNT p)
  let r := s.imageOf p
  let s := toChildren p Tree.go ⟨r.jobId, 0, 0, base, 0, 0⟩ s
  let s := s |> set (Reg.COMMITTED_STEP_STEP p) base |> set (Reg.COMMITTED_INFO_VERSION p) (c % 16)
    |> set (Reg.COMMITTED_INFO_SKIPPED p) 0 |> set (Reg.COMMITTED_INFO_SKIP_COUNT p) 0
    |> set (Reg.COMMITTED_JOB_JOB_ID p) r.jobId |> set (Reg.GATE_STATUS_VALID p) 0
  let s := s.setPart p { s.part p with
    count := c, slots := tset (VerState.free, 0) [] (c % max 1 r.maxLive) (.newest, c), hist := [(base, c)] }
  let s := s.setSvc p { s.svc p with decided := base, confirmTo := base, epoch := 0,
                                     heard := (s.edges p).map fun k => (k, s.time) }
  s |> latchScales p |> beginStep p (base + 1) |> setSvcState p .running

/-- Every child has joined: the count goes upward, or the root checks it and starts the job. -/
def joinUp (p : Nat) (s : State) : State :=
  let r := s.imageOf p
  let n := (s.svc p).joined.foldl (fun n j => n + j.2.2) 1
  if s.isRoot p then (if n = r.instPackages then applyGo p s else treeError p none s)
  else toParent p Tree.join ⟨r.jobId, 0, 0, s.get (Reg.STEP_BASE_STEP p), s.get (Reg.STEP_VBASE_COUNT p), n⟩ s

/-- One JOIN checked and counted. -/
def joinOne (p k peer : Nat) (m : TreeMsg) (s : State) : State :=
  let v := s.svc p
  let want := s.get (Reg.TREE_CFG_CHILDREN p)
  if v.state == .idle then s.setSvc p { v with held := v.held ++ [(k, peer, m)] }
  else if v.state == .treeError then s
  else if (!s.isRoot p && (k == s.parentRope p || peer == s.get (Reg.TREE_CFG_PARENT_ID p)))
      || (v.joined.any fun j => j.2.1 == peer) || decide (want ≤ v.joined.length)
      || m.step != s.get (Reg.STEP_BASE_STEP p) || m.a != s.get (Reg.STEP_VBASE_COUNT p) then treeError p (some peer) s
  else
    let s := s.setSvc p { v with joined := v.joined ++ [(k, peer, m.b)] }
      |> set (Reg.STEP_STATUS_JOINED p) (v.joined.length + 1)
    if v.joined.length + 1 = want then joinUp p s else s

/-- STEP_START: a write of STEP_CTRL.START on an ACTIVE partition whose service is IDLE; JOINs held so far are counted. -/
def execStepStart (p : Nat) (s : State) : Result :=
  perform (partOk p) (whenUp fun s =>
    if s.partState p ≠ partActive || (s.svc p).state != .idle then s
    else
      let held := (s.svc p).held
      let s := s.setSvc p { s.svc p with held := [], joined := [] } |> set (Reg.STEP_STATUS_JOINED p) 0
        |> setSvcState p .joining
      if s.loaded.any fun q => q != p && (s.imageOf q).jobId == (s.imageOf p).jobId then treeError p none s
      else if s.get (Reg.TREE_CFG_CHILDREN p) = 0 then
        let s := joinUp p s
        held.foldl (fun s h => joinOne p h.1 h.2.1 h.2.2 s) s
      else held.foldl (fun s h => joinOne p h.1 h.2.1 h.2.2 s) s) s

/-- A tree message that names a partition of this package. -/
def treeMsg (k : Nat) (m : TreeMsg) (f : Nat → State → State) (s : State) : Result :=
  perform (ropeOk k) (fun s => match s.jobPart m.job with
    | some p => f p s
    | none => s) s

/-- JOIN received on a rope. -/
def execJoin (k : Nat) (m : TreeMsg) (s : State) : Result :=
  treeMsg k m (fun p s => joinOne p k (s.get (Reg.ROPE_PEER_PEER_ID k)) m s) s

/-- GO received from the parent by a package that has joined. -/
def execGo (k : Nat) (m : TreeMsg) (s : State) : Result :=
  treeMsg k m (fun p s =>
    if s.fromParent p k && (s.svc p).state == .joining && !(s.svc p).spare then applyGo p s else s) s

/-! Resolving a step (R459 to R461, R466). -/

/-- Whether the service takes part in resolutions. -/
def SvcState.resolves (v : SvcState) : Bool := v == .running || v == .catchup || v == .waitPeer

/-- Every stage reports its updates of a step written (08 R307). -/
def State.updatesWritten (s : State) (p step : Nat) : Bool :=
  (s.imageOf p).stages.all fun t => s.bucketsWritten p t.slot step && s.sparseWritten p t.slot step

/-- The version count if the step after the last resolved one commits. -/
def State.nextCount (s : State) (p : Nat) : Nat := (s.part p).count + 1

/-- This package's vote on a step: FINITE, AGREE and the lowest frame step of its subtree. -/
def State.myVote (s : State) (p step : Nat) : TreeMsg :=
  let kids := (s.svc p).votes.map Prod.snd
  let c := s.nextCount p
  let finite := !((s.part p).cleared.any fun x => x.step == step) && kids.all fun m => bit m.flags 0
  let agree := kids.all fun m => m.step == step && m.a == c && bit m.flags 1
  ⟨(s.imageOf p).jobId, b2n finite + 2 * b2n agree, 0, step, c, kids.foldl (fun n m => min n m.b) (s.newestFrame p)⟩

/-- Whether the conditions of R459 hold for the oldest undecided step. -/
def State.voteReady (s : State) (p : Nat) : Bool :=
  let v := s.svc p
  v.state.resolves && v.order.isNone && v.voted != some (v.decided + 1) && s.updatesWritten p (v.decided + 1)
    && v.joined.all fun j => v.votes.any fun x => x.1 == j.1

/-- GATE_STATUS of a skipped step: the cause found first here, or another package only (08 R318). -/
def showGate (p step : Nat) (s : State) : State :=
  let (a, b, c) := match (s.part p).cleared.find? fun x => x.step == step with
    | some x => (x.source, x.slot, if x.source = 0 then 0 else x.bucket)
    | none => (4, 0, 0)
  s |> set (Reg.GATE_STATUS_VALID p) 1 |> set (Reg.GATE_STATUS_SOURCE p) a |> set (Reg.GATE_STATUS_STAGE_SLOT p) b
    |> set (Reg.GATE_STATUS_BUCKET p) c

/-- Version slots and counts after a resolution (07 R261, R262). -/
def resolveVersions (p step : Nat) (commit : Bool) (s : State) : State :=
  let x := s.part p
  let m := max 1 (s.imageOf p).maxLive
  let turn (v : VerState × Nat) : VerState × Nat :=
    if v.1 == .building then (if commit then (.newest, x.count + 1) else (.free, 0))
    else if commit && v.1 == .newest then (.live, v.2) else v
  let slots := tmap (VerState.free, 0) (fun _ v => turn v) x.slots
  let slots := if commit then tset (VerState.free, 0) slots ((x.count + 1) % m) (.newest, x.count + 1) else slots
  let c := if commit then x.count + 1 else x.count
  s.setPart p { x with
    count := c, slots := slots, hist := x.hist ++ [(step, c)], cleared := x.cleared.filter fun y => y.step != step
    ratio := x.ratioNow, ratioNow := [] }

/-- The whole of PART_COMMIT at one instant (01 R39). -/
def showCommit (p step : Nat) (commit : Bool) (s : State) : State :=
  let s := s |> set (Reg.COMMITTED_STEP_STEP p) step |> set (Reg.COMMITTED_INFO_VALID p) 1
    |> set (Reg.COMMITTED_JOB_JOB_ID p) (s.imageOf p).jobId
    |> set (Reg.COMMITTED_INFO_SKIPPED p) (b2n !commit) |> set (Reg.COMMITTED_INFO_VERSION p) ((s.part p).count % 16)
  if commit then s else bump (Reg.COMMITTED_INFO_SKIP_COUNT p) 1 s

/-- The scales of the step after `step`: latched now, or those latched when it was first resolved (08 R313). -/
def stepScales (p step : Nat) (s : State) : State :=
  match (s.svc p).scales.find? fun x => x.1 == step + 1 with
  | some x => s.setPart p { s.part p with scale := x.2.zipIdx.foldl (fun m (v, i) => tset 0x3F80_0000 m i v) [] }
  | none =>
    let s := latchScales p s
    let l := (upFrom 0 8).map fun i => tget 0x3F80_0000 (s.part p).scale i
    s.setSvc p { s.svc p with scales := (s.svc p).scales ++ [(step + 1, l)] }

/-- The service's record of a resolution: the step decided and its outcome kept until `safe` covers it. -/
def recordStep (p step : Nat) (commit : Bool) (safe : Nat) (s : State) : State :=
  let v := s.svc p
  let past := (v.outcomes.find? fun o => o.1 == step).map Prod.snd
  let out := if !v.spare && past.isNone then v.outcomes ++ [(step, !commit)] else v.outcomes
  let s := s.setSvc p { v with
      decided := step, votes := [], voted := none
      outcomes := out.filter fun o => decide (safe < o.1), scales := v.scales.filter fun x => decide (safe < x.1)
      state := if v.state == .catchup && decide (v.confirmTo ≤ step) then .running else v.state }
    |> set (Reg.CKPT_SAFE_STEP p) safe
  setSvcState p (s.svc p).state s

/-- What a first resolution shows and a confirmation does not. -/
def showStep (p step : Nat) (commit : Bool) (s : State) : State :=
  if commit then s |> showSchedules p (s.part p).count |> keepSparse (fun x => !(x.part == p && x.step == step))
  else s |> showSchedules p (s.part p).count |> undoStep p step |> showGate p step

/-- What a confirmation does to the step's sparse work. -/
def confirmStep (p step : Nat) (commit : Bool) (s : State) : State :=
  if commit then keepSparse (fun x => !(x.part == p && x.step == step)) s else undoStep p step s

/-- What follows a resolution: gathers of past steps forgotten, scales and versions moved on, and the host told. -/
def afterStep (p step old safe : Nat) (s : State) : State :=
  let s := keepGathers (fun g => g.1 != p || decide (step < g.2.2.1)) s
  let s := (s.imageOf p).stages.foldl (fun s t => advanceUpd p t.slot s) (s |> stepScales p step |> freeVersions p)
  let s := notifyStep p 0 s
  if old = safe then s else notifyStep p 4 s

/-- Step `step` resolved here (01 R23, R460, R466). A confirmation changes nothing that observers see; one whose outcome
differs from the one recorded halts the job. -/
def resolveStep (p step : Nat) (commit : Bool) (safe : Nat) (s : State) : State :=
  let past := ((s.svc p).outcomes.find? fun o => o.1 == step).map Prod.snd
  let old := s.get (Reg.CKPT_SAFE_STEP p)
  if step ≤ (s.svc p).confirmTo then
    let s := s |> confirmStep p step commit |> resolveVersions p step commit |> recordStep p step commit safe
      |> afterStep p step old safe
    if past == some commit then
      s |> raise Ev.replayDiverged (stepStamp p step) [step % 2 ^ 32, step / 2 ^ 32] |> findCause p actHalt Why.diverged
    else s
  else
    s |> showStep p step commit |> resolveVersions p step commit |> showCommit p step commit
      |> recordStep p step commit safe |> afterStep p step old safe |> writeTelemetry p step |> takeFrame p step

/-- A decision applied and then forwarded: 0 COMMIT, 1 SKIP, 2 HALT. -/
def applyDecide (p : Nat) (m : TreeMsg) (s : State) : State :=
  let s := if m.a = 2 then applyHalt p m.cause s else resolveStep p m.step (m.a == 0) m.b s
  toChildren p Tree.decide_ m s

/-- The root's decision once every vote is in (R460). -/
def rootDecide (p : Nat) (s : State) : State :=
  let step := (s.svc p).decided + 1
  let m := s.myVote p step
  let a := if !bit m.flags 1 then 2 else if bit m.flags 0 then 0 else 1
  applyDecide p ⟨m.job, 0, if a = 2 then Why.tree else 0, step, a, m.b⟩ s

/-- STEP_VOTE: once its conditions hold, the package votes; the root decides. -/
def execStepVote (p : Nat) (s : State) : Result :=
  perform (partOk p) (fun s =>
    if !s.voteReady p then s
    else if s.isRoot p then rootDecide p s
    else
      let step := (s.svc p).decided + 1
      toParent p Tree.vote (s.myVote p step) s |> fun s => s.setSvc p { s.svc p with voted := some step }) s

/-- VOTE: a child's vote recorded; the root decides once all are in. -/
def execVote (k : Nat) (m : TreeMsg) (s : State) : Result :=
  treeMsg k m (fun p s =>
    let v := s.svc p
    if !s.isChild p k || !v.state.resolves || v.order.isSome then s
    else
      let s := s.setSvc p { v with votes := (v.votes.filter fun x => x.1 != k) ++ [(k, m)] }
      if s.isRoot p && s.voteReady p then rootDecide p s else s) s

/-- DECIDE: the parent's decision on the oldest undecided step. -/
def execDecide (k : Nat) (m : TreeMsg) (s : State) : Result :=
  treeMsg k m (fun p s =>
    let v := s.svc p
    if s.fromParent p k && v.state.resolves && m.step == v.decided + 1 then applyDecide p m s else s) s

/-! Rewinds and rollbacks (R463 to R465). -/

/-- The partition's own part of an order: rewound once its work has wound down, then restored for a rollback. Sparse slots are
written back first (09 R345). -/
def settleOrder (p : Nat) (s : State) : State :=
  match (s.svc p).order with
  | none => s
  | some o =>
    if o.workDone then s
    else if !o.undone && !s.woundDown p then s
    else
      let back := o.kind == .rollback
      let s := if o.undone then s
        else
          let s := if back then endPin p 0 s else s
          let s := rewindTo p (if back then o.target + 1 else o.target) o.epoch s
            |> raise Ev.stepRewind (stepStamp p o.target) [o.target % 2 ^ 32, o.target / 2 ^ 32, s.get (Reg.STEP_STATUS_CAUSE p)]
            |> bump (if back then Reg.AVAIL_COUNTS_ROLLBACKS p else Reg.AVAIL_COUNTS_REWINDS p) 1
          s.setSvc p { s.svc p with order := (s.svc p).order.map fun o => { o with undone := true } }
      if s.sparse.any fun x => x.part == p then s
      else
        let (ok, s) := if back then beginRestore p o.target s else (true, s)
        if ok then s.setSvc p { s.svc p with order := (s.svc p).order.map fun o => { o with undone := true, workDone := true } } else s

/-- RESUME here: admission begins again, unless the image is being released (03 R115), and the interruption ends (R463 step 5,
R467). -/
def applyResume (p : Nat) (s : State) : State :=
  let v := s.svc p
  let s := s.setSvc p { v with order := none, rewound := [], heard := (s.edges p).map fun k => (k, s.time), spare := v.spare }
    |> setSvcState p (if v.decided < v.confirmTo then .catchup else .running)
    |> endOutage p |> notifyStep p 2
  s.setRig p { s.rig p with winding := (s.rig p).winding && s.ldState p == Ld.releasing }

/-- What the root does after the last REWOUND: the rollback order after a query or for a request absorbed, else RESUME
(R463, R464). Without any checkpoint a rollback goes no further. -/
def rootProceed (p : Nat) (o : Order) (s : State) : State :=
  let top := (s.svc p).rewound.foldl (fun n x => max n x.2) (s.get (Reg.CKPT_SAFE_STEP p))
  match o.kind, o.absorbed with
  | .query, _ => if top = 0 then s else takeOrder p .rollback top o.cause (nextEpoch s p) s |> settleOrder p
  | .rewind, some c =>
    s.setSvc p { s.svc p with order := some { o with absorbed := none } } |> takeOrder p .query 0 c 0
  | _, _ => toChildren p Tree.resume ⟨(s.imageOf p).jobId, 0, 0, o.target, 0, 0⟩ s |> applyResume p

/-- Whether a package may answer an order: its work and its children are done, and no re-rig is in progress. -/
def State.rewoundReady (s : State) (p : Nat) : Bool :=
  let v := s.svc p
  (match v.order with
    | some o => o.workDone && !o.sent
    | none => false)
    && decide (s.get (Reg.TREE_CFG_CHILDREN p) ≤ v.joined.length)
    && (v.joined.all fun j => v.rewound.any fun x => x.1 == j.1) && (s.rig p).rerigs.isEmpty

/-- The fence map written to the journal unless its last record says the same. -/
def keepFences (s : State) : State :=
  let body := ((journalFences { s with journal := Journal.init }).journal.latest 2 0).map JrnRec.body
  if (s.journal.latest 2 0).map JrnRec.body == body || (s.fence.treads.isEmpty && s.fence.flights.isEmpty
    && (s.journal.latest 2 0).isNone) then s else journalFences s

/-- The answer to an order. -/
def answerOrder (p : Nat) (s : State) : State :=
  match (s.svc p).order with
  | none => s
  | some o =>
    if !s.rewoundReady p then s
    else
      let s := keepFences s
      if s.isRoot p then rootProceed p o s
      else
        let v := s.svc p
        let top := v.rewound.foldl (fun n x => max n x.2) (s.get (Reg.CKPT_SAFE_STEP p))
        s.setSvc p { v with order := some { o with sent := true } }
          |> toParent p Tree.rewound ⟨(s.imageOf p).jobId, 0, 0, o.target, 0, top⟩

/-- REWIND: a child's request goes to the root; the parent's order is forwarded and taken up. -/
def execRewind (k : Nat) (m : TreeMsg) (s : State) : Result :=
  treeMsg k m (fun p s =>
    let v := s.svc p
    if v.state == .idle || v.state == .treeError || (v.state == .joining && !v.spare) then s
    else if !bit m.flags 0 then
      if !s.isChild p k then s
      else if s.isRoot p then rootRequest p m.a m.cause s |> settleOrder p
      else toParent p Tree.rewind m s
    else if !s.fromParent p k then s
    else if m.a = actHalt then toChildren p Tree.rewind m s |> applyHalt p m.cause
    else
      let kind := if m.a = actRewind then OrderKind.rewind else if m.step = 0 then .query else .rollback
      takeOrder p kind m.step m.cause (m.b % 256) s |> settleOrder p) s

/-- WIND_DOWN_TIMEOUT: 10 ms after a wind-down began, what still runs is given up. -/
def execWindDownTimeout (now : W64) (p : Nat) (s : State) : Result :=
  perform (partOk p) (fun s =>
    let s := s.at_ now
    let r := s.rig p
    if r.winding && decide (r.windStart + 10_000_000 ≤ s.time) && !s.woundDown p then abandonWork p s |> settleOrder p else s) s

/-- REWOUND_SEND: the package's part of an order is done, and it answers. -/
def execRewoundSend (p : Nat) (s : State) : Result :=
  perform (partOk p) (fun s => s |> settleOrder p |> answerOrder p) s

/-- REWOUND: a child's answer counted; the root goes on once all are in. -/
def execRewound (k : Nat) (m : TreeMsg) (s : State) : Result :=
  treeMsg k m (fun p s =>
    let v := s.svc p
    match v.order with
    | none => s
    | some o =>
      if !s.isChild p k || m.step ≠ o.target then s
      else
        let s := s.setSvc p { v with rewound := (v.rewound.filter fun x => x.1 != k) ++ [(k, m.b)] }
        if s.isRoot p then answerOrder p s else s) s

/-- RESUME: the parent's, forwarded and applied by a package that has answered. -/
def execResume (k : Nat) (m : TreeMsg) (s : State) : Result :=
  treeMsg k m (fun p s =>
    match (s.svc p).order with
    | none => s
    | some o =>
      if s.fromParent p k && o.sent && o.kind != .query && m.step == o.target then
        toChildren p Tree.resume m s |> applyResume p
      else s) s

/-! Requests of software (R483). -/

/-- STEP_REWIND_REQUEST: a write of STEP_CTRL.REWIND. -/
def execStepRewindRequest (p : Nat) (s : State) : Result :=
  perform (partOk p) (whenUp fun s => findCause p actRewind Why.software s |> settleOrder p) s

/-- STEP_HALT: a write of STEP_CTRL.HALT. -/
def execStepHalt (p : Nat) (s : State) : Result :=
  perform (partOk p) (whenUp (findCause p actHalt Why.software)) s

/-! Peers (R474). -/

/-- A spare learns its children from the ropes on which they are heard (log 75). It passes an order in force on to them, and as
root it issues the rollback orders once it knows them all. -/
def learnChild (p k : Nat) (s : State) : State :=
  let v := s.svc p
  let peer := s.get (Reg.ROPE_PEER_PEER_ID k)
  if !v.spare || s.fromParent p k || s.isChild p k || decide (s.get (Reg.TREE_CFG_CHILDREN p) ≤ v.joined.length) then s
  else
    let s := s.setSvc p { v with joined := v.joined ++ [(k, peer, 0)] }
      |> set (Reg.STEP_STATUS_JOINED p) (v.joined.length + 1)
    match v.order with
    | some o =>
      let n := if o.kind == .rewind then actRewind else actRollback
      sendTree k Tree.rewind (orderMsg s p n o.target o.cause o.epoch) s
    | none =>
      if s.isRoot p && v.state == .joining && v.joined.length + 1 = s.get (Reg.TREE_CFG_CHILDREN p) then
        rootRequest p actRollback Why.takeover s
      else s

/-- STEP_TAKEOVER: a write of STEP_CTRL.TAKEOVER on an ACTIVE partition whose service is IDLE. The package joins as a
spare, and asks for a rollback, or as root issues it. -/
def execStepTakeover (p : Nat) (s : State) : Result :=
  perform (partOk p) (whenUp fun s =>
    if s.partState p ≠ partActive || (s.svc p).state != .idle then s
    else
      let s := s.setSvc p { s.svc p with spare := true, held := [], joined := [] } |> setSvcState p .joining
        |> set (Reg.STEP_STATUS_CAUSE p) Why.takeover
        |> beginOutage p true
      if s.isRoot p then
        if s.get (Reg.TREE_CFG_CHILDREN p) = 0 then rootRequest p actRollback Why.takeover s else s
      else toParent p Tree.rewind ⟨(s.imageOf p).jobId, 0, Why.takeover, 0, actRollback, 0⟩ s) s

/-- HEARTBEAT: the peer of a tree edge is alive. -/
def execHeartbeat (now : W64) (k : Nat) (m : TreeMsg) (s : State) : Result :=
  treeMsg k m (fun p s =>
    let s := s.at_ now
    let v := s.svc p
    if v.state == .idle || v.state == .treeError then s
    else s.setSvc p { v with heard := (v.heard.filter fun x => x.1 != k) ++ [(k, s.time)] } |> learnChild p k) s

/-- HEARTBEAT_SEND: every 1 ms one on every tree edge of a partition. -/
def execHeartbeatSend (p : Nat) (s : State) : Result :=
  perform (partOk p) (fun s =>
    let st := (s.svc p).state
    if st == .idle || st == .treeError then s
    else (s.edges p).foldl (fun s k => sendTree k Tree.heartbeat ⟨(s.imageOf p).jobId, 0, 0, 0, 0, 0⟩ s) s) s

/-- PEER_LOST_TIMEOUT: 100 ms without a HEARTBEAT on a tree edge. -/
def execPeerLostTimeout (now : W64) (p k : Nat) (s : State) : Result :=
  perform (partOk p && ropeOk k) (fun s =>
    let s := s.at_ now
    match s.edgePeer p k, (s.svc p).heard.find? fun x => x.1 == k with
    | some peer, some x => if x.2 + 100_000_000 ≤ s.time then peerLost p peer s else s
    | _, _ => s) s

end Sys2Proof.Machine
end

