-- ==== Sys2Proof/Machine/Storage.lean ====
section
/-!
DEFINITION. Commands of checkpoints, storage, snapshots, availability and the journal (13 R468 to R485).
-/
namespace Sys2Proof.Machine
open State

/-! CHECKPOINT messages received (R470, R475). -/

/-- A CHECKPOINT message on an open channel: partition, STEP, FRAME, OFFSET, data. One whose job is not the partition's, or
whose bytes lie outside a frame slot, is discarded. -/
def ckMsg (k v : Nat) (msg : List Byte) (f : Nat → Nat → Nat → Nat → List Byte → State → State) (s : State) : Result :=
  perform (ropeOk k && vcOk v) (fun s =>
    match (s.vchan k v).part with
    | none => s
    | some p =>
      if !s.delivers k v then s
      else
        let s := tookMsg k v msg s
        let data := (mBody msg).drop 24
        let j := mAt msg 9 1
        let off := mAt msg 16 8
        if mJob msg ≠ (s.imageOf p).jobId || decide (2 ≤ j) || decide ((s.frameArea p 0).2 < off + data.length) then s
        else f p (mAt msg 0 8) j off data s) s

/-- CHECKPOINT_DATA: bytes of the ward's frame. The first of another step begins the copy again. -/
def execCheckpointData (k v : Nat) (msg : List Byte) (s : State) : Result :=
  ckMsg k v msg (fun p step j off data s =>
    let w := lget Frame.none (s.svc p).ward j
    let w := if w.step = step && !w.here then w else ⟨step, false, false, false, 0⟩
    let s := setWard p j { w with len := max w.len (off + data.length) } s
    (memWrite .other [] ((s.frameArea p (2 + j)).1 + off) data s).2) s

/-- CHECKPOINT_DONE: it ends a copy that is in progress here, which is acknowledged; any other acknowledges this package's own
frame (log 76). -/
def execCheckpointDone (k v : Nat) (msg : List Byte) (s : State) : Result :=
  ckMsg k v msg (fun p step j _ _ s =>
    let w := lget Frame.none (s.svc p).ward j
    let f := lget Frame.none (s.svc p).frames j
    if w.step = step && !w.here && w.len != 0 then
      s |> setWard p j { w with here := true, acked := true } |> sendCk p k v step Ck.done j 0 []
    else if f.step = step && f.here && !f.acked && s.get (Reg.ROPE_PEER_PEER_ID k) == (s.imageOf p).buddyId then
      frameComplete p j s
    else s) s

/-- CHECKPOINT_FETCH: the ward's frame of a step is sent back. -/
def execCheckpointFetch (k v : Nat) (msg : List Byte) (s : State) : Result :=
  ckMsg k v msg (fun p step _ _ _ s =>
    match (s.svc p).ward.findIdx? fun w => w.step == step && w.complete with
    | none => s
    | some j =>
      let w := lget Frame.none (s.svc p).ward j
      match memRead .other [] (s.frameArea p (2 + j)).1 w.len s with
      | (some l, s) => sendFrame p k v step Ck.back Ck.backDone j l s
      | (none, s) => s) s

/-- CHECKPOINT_RETURN: bytes of this package's own frame come back from the buddy. -/
def execCheckpointReturn (k v : Nat) (msg : List Byte) (s : State) : Result :=
  ckMsg k v msg (fun p step j off data s =>
    if (s.svc p).restore ≠ some step then s
    else
      let f := lget Frame.none (s.svc p).frames j
      let f := if f.step = step && !f.here then f else ⟨step, false, false, false, 0⟩
      let s := setFrame p j { f with len := max f.len (off + data.length) } s
      (memWrite .other [] ((s.frameArea p j).1 + off) data s).2) s

/-- CHECKPOINT_RETURN_DONE: the frame is whole again and is restored; the rollback's own part is done. -/
def execCheckpointReturnDone (k v : Nat) (msg : List Byte) (s : State) : Result :=
  ckMsg k v msg (fun p step j _ _ s =>
    if (s.svc p).restore ≠ some step then s
    else
      let f := lget Frame.none (s.svc p).frames j
      let s := setFrame p j { f with here := true, acked := true } s
      let (ok, s) := restoreOwn p step j s
      match (s.svc p).order with
      | some o => if ok then s.setSvc p { s.svc p with order := some { o with workDone := true } } else s
      | none => s) s

/-! Storage (R456, R472). -/

/-- STORAGE_SERVICE_BIT: the host sets bit 0 of channel 0. -/
def execStorageServiceBit (s : State) : Result :=
  perform true (fun s => if s.vfDark .pf then s else s.set (Reg.MB_H2P_PEND 0) (s.get (Reg.MB_H2P_PEND 0) ||| 1)) s

/-- STORAGE_RESPONSE: the next entry of the response ring, read after the host's bit. An entry whose PHASE is not the expected
one is not there yet. -/
def execStorageResponse (entry : List Byte) (s : State) : Result :=
  perform true (fun s =>
    let n := s.det.rsps
    let e := fit 0 16 entry
    if !bit (s.get (Reg.MB_H2P_PEND 0)) 0 || !s.bncReady 0 then s
    else if bit (lget 0 e 15).toNat 7 != (n / 32 % 2 == 0) then
      s.set (Reg.MB_H2P_PEND 0) (s.get (Reg.MB_H2P_PEND 0) - 1)
    else
      let s := { s with det := { s.det with rsps := n + 1 } }
      let id := ofLe (e.take 2)
      match allParts.findSome? fun p => ((s.svc p).storage.find? fun q => q.id == id).map fun q => (p, q) with
      | some (p, q) => coldAnswer p q ((lget 0 e 2) != 0) s
      | none => s) s

/-! Snapshots (R473, R484). -/

/-- MAX_MS of a written SNAP_CTRL. -/
def writeMaxMs (p : Nat) (value : W32) : State → State := set (Reg.SNAP_CTRL_MAX_MS p) (bits value.toNat 0 16)

/-- SNAP_PIN: a write of SNAP_CTRL with PIN. -/
def execSnapPin (p : Nat) (value : W32) (s : State) : Result :=
  perform (partOk p) (whenUp fun s =>
    let s := writeMaxMs p value s
    if bit value.toNat 31 then pinSnapshot p s else s) s

/-- SNAP_UNPIN: a write of SNAP_CTRL with UNPIN. -/
def execSnapUnpin (p : Nat) (value : W32) (s : State) : Result :=
  perform (partOk p) (whenUp fun s =>
    let s := writeMaxMs p value s
    if bit value.toNat 30 then endPin p 0 s else s) s

/-- SNAP_EXPIRY: a pin has lasted for MAX_MS. -/
def execSnapExpiry (now : W64) (p : Nat) (s : State) : Result :=
  perform (partOk p) (fun s =>
    let s := s.at_ now
    match (s.svc p).pinEnd with
    | some t => if t ≤ s.time then endPin p 3 s else s
    | none => s) s

/-! The journal (R476, R480, R481, R485). -/

/-- JRN_COMPACT: a write of JRN_CTRL.COMPACT. -/
def execJrnCompact (s : State) : Result :=
  perform true (whenUp fun s => { s with journal := s.journal.compact }) s

/-- JOURNAL_COMPACTED: the copy is complete, and the new device becomes active. -/
def execJournalCompacted (s : State) : Result :=
  perform true (fun s =>
    if s.journal.copying then
      { s with journal := s.journal.complete } |> bump Reg.JRN_COUNTS_COMPACTIONS 1 |> raise0 Ev.journalCompacted []
    else s) s

/-- AVAIL_JOURNAL: every hour the interruption counters of every partition are written (log 44). -/
def execAvailJournal (s : State) : Result :=
  perform true (whenUp fun s => allParts.foldl (fun s p =>
    journalWrite 9 p (leBytes 4 (s.get (Reg.AVAIL_LOCAL_MS p)) ++ leBytes 4 (s.get (Reg.AVAIL_OTHER_MS p))) s) s) s

/-- EVENT_SUMMARY_JOURNAL: every hour the codes and counts of the hour's events, and the counts begin again. -/
def execEventSummaryJournal (s : State) : Result :=
  perform true (whenUp fun s =>
    journalWrite 10 0 (s.det.evCounts.flatMap fun x => leBytes 2 x.1 ++ leBytes 2 x.2) { s with det := { s.det with evCounts := [] } }) s

end Sys2Proof.Machine
end

