-- ==== Sys2Proof/Machine/Undercroft.lean ====
section
/-!
DEFINITION. Commands of an undercroft: gathers, conversions, sparse row updates, patrol, row repair and the key sweep
(09 R329 to R347).
-/
namespace Sys2Proof.Machine
open State

/-! Queues. -/

/-- A queue stopped by a malformed descriptor (R347). -/
def ucStop (u : Nat) (conv : Bool) (code tag p : Nat) (s : State) : State :=
  (if conv then s.set (Reg.UC_STATUS_CONV_STOPPED u) 1 else s.set (Reg.UC_STATUS_GATHER_STOPPED u) 1)
    |> set (Reg.UC_DESC_ERR_CODE u) code |> set (Reg.UC_DESC_ERR_QUEUE u) (b2n conv) |> set (Reg.UC_DESC_ERR_TAG u) tag
    |> raise Ev.ucDescError (partStamp p) [u, b2n conv, code, tag] |> programFault p

/-- Work of partition `p` held at a lost line (11 R401): of the gather queue 0, the converter queue 1 or a sparse update 2. -/
def ucHold (u p kind : Nat) (s : State) : State :=
  s.setUc u { s.uc u with held := addOnce (s.uc u).held (3 * p + kind) } |> set (Reg.UC_STATUS_LINE_HELD u) 1

/-- An access of a descriptor that failed: held at a lost line, else ACCESS (11 R401). -/
def ucFail (u : Nat) (conv : Bool) (status tag p : Nat) (s : State) : State :=
  if status = FabSt.lineLost then ucHold u p (b2n conv) s else ucStop u conv 0x04 tag p s

/-- Whether a queue of an undercroft goes on to a descriptor of partition `p`. -/
def State.ucRuns (s : State) (u : Nat) (conv : Bool) (p : Nat) : Bool :=
  !(s.rig p).winding && !((s.uc u).held.any fun x => x % 3 == b2n conv)
    && !s.on (if conv then Reg.UC_STATUS_CONV_STOPPED u else Reg.UC_STATUS_GATHER_STOPPED u)

/-! An undercroft engine's accesses; control space takes single words (11 R397). -/

def ctlParts (addr n : Nat) : Bool := fabCls addr == 3 && (n == 4 || n == 8)

def ucRead (u p : Nat) (bad : Tbl Nat) (far : Nat × List Byte) (addr n : Nat) (s : State) : Nat × List Byte × State :=
  let a : Agent := .undercroft p u
  let q : FabReq := ⟨a, opRead, 0, n, addr, []⟩
  if fabPkg addr = s.get Reg.PKG_ID_ID && fabCls addr == 3 then
    let c := s.fabCheck q
    if c ≠ FabSt.ok then (c, [], fabError q c s)
    else
      let (v, s) := readReg a.key (fabOff addr) n 0 s
      (FabSt.ok, leBytes n v, s)
  else engRead a bad far addr n s

def ucWrite (u p : Nat) (bad : Tbl Nat) (far addr : Nat) (l : List Byte) (s : State) : Nat × State :=
  let a : Agent := .undercroft p u
  let q : FabReq := ⟨a, opWrite, 0, l.length, addr, l⟩
  if fabPkg addr = s.get Reg.PKG_ID_ID && fabCls addr == 3 then
    let c := s.fabCheck q
    if c ≠ FabSt.ok then (c, fabError q c s) else (FabSt.ok, ctlWrite p (fabOff addr) l.length (ofLe l) s)
  else engWrite a bad far addr l s

/-- Whether an access of an undercroft's descriptor waits: for a re-rig of the role it names, or for a request credit (11
R395, R404). -/
def State.ucWaits (s : State) (u p addr n : Nat) : Bool := s.engWaits (.undercroft p u) addr n

/-- Whether an address can be one of the partition's: not in a reserved class, and in class 0 of this package in one of its
regions (R347, ACCESS). -/
def State.ucAddr (s : State) (p a n : Nat) : Bool :=
  decide (fabCls a ≤ 3) && (fabPkg a != s.get Reg.PKG_ID_ID || fabCls a != 0
    || ((s.imageOf p).region? (fabOff a) n).isSome)

def fmtBytes (fmt n : Nat) : Nat := (outWidth fmt * n + 7) / 8

/-- TAG written to CPL_ADDR, when one is given (R339, R346). -/
def ucComplete (u : Nat) (conv : Bool) (p cpl tag : Nat) (bad : Tbl Nat) (far : Nat) (s : State) : Bool × State :=
  if cpl = 0 then (true, s)
  else
    let (st, s) := ucWrite u p bad far cpl (leBytes 4 tag) s
    if st = FabSt.ok then (true, s) else (false, ucFail u conv st tag p s)

/-! Gather and pool (R339 to R341). -/

structure Gather where
  mode : Nat
  weighted : Bool
  push : Bool
  out : Nat
  rnd : Nat
  tag : Nat
  bags : Nat
  table : Nat
  idx : Nat
  offs : Nat
  wgt : Nat
  dst : Nat
  stride : Nat
  version : Nat
  mbSeq : Nat
  mbId : Nat
  step : Nat
  tensor : Nat
  landing : Nat
  elem : Nat
  cpl : Nat
  deriving DecidableEq, Repr, Inhabited

def gatherOf (d : List Nat) : Gather :=
  let w := dword d
  ⟨bits (w 0) 26 2, bit (w 0) 25, bit (w 0) 24, bits (w 0) 20 4, bits (w 0) 18 2, bits (w 0) 0 16, bits (w 1) 0 16,
   dword2 d 2, dword2 d 4, dword2 d 6, dword2 d 8, dword2 d 10, w 12, bits (w 13) 28 4, bits (w 13) 16 12,
   bits (w 13) 0 16, dword2 d 14, w 16, bits (w 17) 0 9, dword2 d 18, dword2 d 20⟩

/-- Bytes of one bag's output (R340): elements and MX scales. -/
def bagBytes (out dim : Nat) : Nat := fmtBytes out dim + (if outMx out then dim / 32 else 0)

/-- The lowest code that a gather has before its header is read (R347), 0 for none. -/
def State.gatherFault (s : State) (u p : Nat) (d : List Nat) : Nat :=
  let g := gatherOf d
  if dkind d ≠ 3 then 0x01
  else if bits (dword d 0) 16 2 ≠ 0 || bits (dword d 1) 16 16 ≠ 0 || bits (dword d 17) 9 23 ≠ 0
    || dword d 22 ≠ 0 || dword d 23 ≠ 0 then 0x02
  else if g.mode = 3 || !([0, 1, 4, 5].contains g.out) || g.rnd = 3 then 0x03
  else match s.tableAt? p g.table with
    | none => 0x04
    | some r =>
      if r.stack r.base ≠ u || !s.ucAddr p g.offs (4 * (g.bags + 1)) || !s.ucAddr p g.idx 1
        || (g.weighted && !s.ucAddr p g.wgt 1) || !s.ucAddr p g.dst 1 || (g.cpl != 0 && !s.ucAddr p g.cpl 4) then 0x04
      else 0

/-- Whether a table's header passes R338 as a gather of partition `p` names it. -/
def State.headerOk (s : State) (p table : Nat) : Bool :=
  match s.tableAt? p table with
  | some r => (s.hdrAt table).ok (s.imageOf p) r
  | none => false

/-- The positions that a gather's bags take in its lists: the first and the one after the last (R340). -/
def bagSpan (offs : List Nat) : Nat × Nat := (offs.foldl min (lget 0 offs 0), offs.foldl max 0)

/-- Whether every byte that a gather reads and writes can be one of the partition's: its outputs and the parts of its lists
that the bags take (R347, ACCESS). -/
def State.gatherReach (s : State) (p : Nat) (g : Gather) (offs : List Nat) : Bool :=
  let (lo, hi) := bagSpan offs
  ((upFrom 0 g.bags).all fun b => s.ucAddr p (g.dst + b * g.stride) (bagBytes g.out (s.hdrAt g.table).dim))
    && (hi ≤ lo || (s.ucAddr p (g.idx + 4 * lo) (4 * (hi - lo))
      && (!g.weighted || s.ucAddr p (g.wgt + 4 * lo) (4 * (hi - lo)))))

/-- Whether bag offsets never decrease. -/
def rising : List Nat → Bool
  | a :: b :: r => decide (a ≤ b) && rising (b :: r)
  | _ => true

/-- R343: a gather starts once the sparse work of step T − 1 − D on its table has finished. -/
def State.gatherReady (s : State) (p : Nat) (g : Gather) : Bool :=
  let h := s.hdrAt g.table
  let d := (s.imageOf p).depth
  !h.trained || (decide (g.step ≤ (s.svc p).decided + 1 + d)
    && !(s.sparse.any fun x => x.part == p && x.table == g.table && decide (x.step + 1 + d ≤ g.step)))

/-- The larger of two values: a NaN gives the canonical NaN, and +0 is larger than −0 (R340). -/
def larger (a b : Nat) : Nat :=
  if isNaN a || isNaN b then 0x7FC0_0000
  else if isZero a && isZero b then (if a = 0 then a else b)
  else if flt a b then b else a

/-- Element `d` of a bag from its rows and weights, in ascending position (R340). -/
def pool (mode : Nat) (weighted : Bool) (rows : List (List Nat)) (ws : List Nat) (d : Nat) : Nat :=
  let ys := rows.zipIdx.map fun (r, i) => if weighted then (fmul (lget 0 ws i) (lget 0 r d)).v else lget 0 r d
  let x := if mode = 2 then match ys with
      | [] => 0
      | y :: l => l.foldl larger y
    else ys.foldl (fun x y => (fadd x y).v) 0
  if mode = 1 && !ys.isEmpty then (fdiv x (fromNat ys.length)).v else x

/-- A row of values narrowed: elements as codes and MX scales. -/
def narrowRow (fmt rnd : Nat) (key : RngKey) (e : Nat) (l : List Nat) : List Nat × List Nat :=
  if outMx fmt then
    let ss := (chunks 32 (l.length + 1) l).map (mxScale (outFmt fmt))
    (l.zipIdx.map fun (x, i) => mxElem (outFmt fmt) (lget 0 ss (i / 32)) (rndOf rnd false key ((e + i) % 2 ^ 64)) x, ss)
  else (l.zipIdx.map fun (x, i) =>
    if fmt = 0 then canon x else if fmt = 3 then pairOf x else (narrow (outFmt fmt) (rndOf rnd false key ((e + i) % 2 ^ 64)) x).v, [])

/-- Rows of a table read; none when a line is lost. -/
def readRows (bad : Tbl Nat) (h : TblHdr) (o : Nat) : List Nat → State → Option (List (List Nat)) × State
  | [], s => (some [], s)
  | r :: l, s => match memRead .engine bad (h.rowAt o r) h.rowBytes s with
    | (none, s) => (none, s)
    | (some b, s) => match readRows bad h o l s with
      | (none, s) => (none, s)
      | (some bs, s) => (some (h.rowValues b :: bs), s)

/-- Bags written at their targets: elements, then MX scales after DIM bytes. -/
def writeBags (u p : Nat) (bad : Tbl Nat) (far : Nat) (g : Gather) (seed dim : Nat) :
    List (List Nat × Nat) → State → Bool × State
  | [], s => (true, s)
  | (x, b) :: r, s =>
    let key : RngKey := ⟨seed, g.mbId, g.tensor, g.step⟩
    let (codes, ss) := narrowRow g.out g.rnd key (g.elem + b * dim) x
    let l := packCodes (outWidth g.out) codes 0 ++ ss.map (BitVec.ofNat 8)
    let (st, s) := ucWrite u p bad far (g.dst + b * g.stride) l s
    if st = FabSt.ok then writeBags u p bad far g seed dim r s else (false, ucFail u false st g.tag p s)

/-- A gather counted for R343. -/
def countGather (p table step : Nat) (s : State) : State :=
  match s.gathers.find? fun x => x.1 == p && x.2.1 == table && x.2.2.1 == step with
  | some x => { s with gathers := (s.gathers.filter fun y => y != x) ++ [(p, table, step, x.2.2.2 + 1)] }
  | none => { s with gathers := s.gathers ++ [(p, table, step, 1)] }

/-- The end of a gather: it leaves the queue, and its landing entry is due when PUSH_EN is set. -/
def endGather (u p : Nat) (d : List Nat) (g : Gather) (s : State) : State :=
  let x := s.uc u
  let s := s.setUc u { x with gq := x.gq.drop 1, gpush := if g.push then some d else none }
  if (s.hdrAt g.table).trained then countGather p g.table g.step s else s

/-- The bags of a gather from the rows `rows` and weights `ws` of its indices, which `offs` divides: pooled, narrowed, written at
the target, and the gather completed. -/
def gatherOut (u p : Nat) (d offs ws : List Nat) (rows : List (List Nat)) (bad : Tbl Nat) (farOut : Nat) (s : State) : State :=
  let g := gatherOf d
  let h := s.hdrAt g.table
  let first := lget 0 offs 0
  let bag (b : Nat) : List Nat :=
    let lo := lget 0 offs b - first
    let n := lget 0 offs (b + 1) - lget 0 offs b
    (upFrom 0 h.dim).map (pool g.mode g.weighted ((rows.drop lo).take n) ((ws.drop lo).take n))
  let bags := (upFrom 0 g.bags).map fun b => (bag b, b)
  let s := holdScratch u p (bags.flatMap fun x => wordsLe x.1) s
  let (ok, s) := writeBags u p bad farOut g (s.imageOf p).jobSeed h.dim bags s
  if !ok then s
  else
    let (ok, s) := ucComplete u false p g.cpl g.tag bad farOut s
    if ok then endGather u p d g s else s

/-- The offsets, indices and weights of a gather as its reads answer; nothing is read where there is none. -/
def readOffsets (u p : Nat) (g : Gather) (bad : Tbl Nat) (far : List (Nat × List Byte)) (s : State) : Nat × List Byte × State :=
  ucRead u p bad (lget (0, []) far 0) g.offs (4 * (g.bags + 1)) s
def readIndices (u p : Nat) (g : Gather) (first n : Nat) (bad : Tbl Nat) (far : List (Nat × List Byte)) (s : State) :
    Nat × List Byte × State :=
  if n = 0 then (FabSt.ok, [], s) else ucRead u p bad (lget (0, []) far 1) (g.idx + 4 * first) (4 * n) s
def readWeights (u p : Nat) (g : Gather) (first n : Nat) (bad : Tbl Nat) (far : List (Nat × List Byte)) (s : State) :
    Nat × List Byte × State :=
  if !g.weighted || n = 0 then (FabSt.ok, [], s) else ucRead u p bad (lget (0, []) far 2) (g.wgt + 4 * first) (4 * n) s

/-- The weights and rows of a gather's checked indices read, then the bags. -/
def gatherRows (u p : Nat) (d offs idx : List Nat) (bad : Tbl Nat) (far : List (Nat × List Byte)) (farOut : Nat) (s : State) :
    State :=
  let g := gatherOf d
  let (st, lw, s) := readWeights u p g (lget 0 offs 0) idx.length bad far s
  if st ≠ FabSt.ok then ucFail u false st g.tag p s
  else
    match readRows bad (s.hdrAt g.table) g.table idx s with
    | (none, s) => ucFail u false FabSt.lineLost g.tag p s
    | (some rows, s) => gatherOut u p d offs (pairsOf idx.length lw) rows bad farOut s

/-- The indices of a gather's checked offsets read and checked, then the rows. -/
def gatherIndices (u p : Nat) (d offs : List Nat) (bad : Tbl Nat) (far : List (Nat × List Byte)) (farOut : Nat) (s : State) :
    State :=
  let g := gatherOf d
  let n := lget 0 offs g.bags - lget 0 offs 0
  let (st, li, s) := readIndices u p g (lget 0 offs 0) n bad far s
  if st ≠ FabSt.ok then ucFail u false st g.tag p s
  else if (pairsOf n li).any fun i => decide ((s.hdrAt g.table).rows ≤ i) then ucStop u false 0x07 g.tag p s
  else if g.push && !((s.imageOf p).isIngest g.landing) then ucStop u false 0x08 g.tag p s
  else gatherRows u p d offs (pairsOf n li) bad far farOut s

/-- Whether the indices and weights that a gather's offsets give wait to be read. -/
def State.listsWait (s : State) (u p : Nat) (g : Gather) (offs : List Nat) : Bool :=
  let (lo, hi) := bagSpan offs
  decide (lo < hi) && (s.ucWaits u p (g.idx + 4 * lo) (4 * (hi - lo))
    || (g.weighted && s.ucWaits u p (g.wgt + 4 * lo) (4 * (hi - lo))))

/-- The offsets of a gather: its addresses, the header and the offsets checked, in the order of their codes, then its
indices. The list of indices ends with the last one that an offset names (R347; log 88). -/
def gatherOffsets (u p : Nat) (d offs : List Nat) (bad : Tbl Nat) (far : List (Nat × List Byte)) (farOut : Nat) (s : State) :
    State :=
  let g := gatherOf d
  if !s.gatherReach p g offs then ucStop u false 0x04 g.tag p s
  else if !s.headerOk p g.table then ucStop u false 0x05 g.tag p s
  else if !rising offs then ucStop u false 0x06 g.tag p s
  else gatherIndices u p d offs bad far farOut s

/-- A gather whose header is read: offsets read and checked, indices, then bags pooled, narrowed and written. One whose lists
wait is begun again. `far` holds what other packages answered for offsets, indices and weights; `farOut` for writes. -/
def runGather (u p : Nat) (d : List Nat) (bad : Tbl Nat) (far : List (Nat × List Byte)) (farOut : Nat) (s : State) : State :=
  let g := gatherOf d
  let r := readOffsets u p g bad far s
  let offs := pairsOf (g.bags + 1) r.2.1
  if r.1 ≠ FabSt.ok then ucFail u false r.1 g.tag p r.2.2
  else if s.listsWait u p g offs then s
  else gatherOffsets u p d offs bad far farOut r.2.2

/-- Whether an access of a gather that its descriptor places waits (11 R395, R404). -/
def State.gatherWaits (s : State) (u p : Nat) (g : Gather) : Bool :=
  s.ucWaits u p g.offs (4 * (g.bags + 1)) || (g.cpl != 0 && s.ucWaits u p g.cpl 4)
    || (upFrom 0 g.bags).any fun b => s.ucWaits u p (g.dst + b * g.stride) (bagBytes g.out (s.hdrAt g.table).dim)

/-- GATHER_DESCRIPTOR: the descriptor at the front of an undercroft's gather queue. One with a good header waits for the sparse
work before it (R343). -/
def execGatherDescriptor (u : Nat) (bad : List (Nat × Nat)) (far : List (Nat × List Byte)) (farOut : Nat) (s : State) :
    Result :=
  perform (ucOk u) (fun s =>
    let x := s.uc u
    match x.gq with
    | [] => s
    | d :: _ =>
      let p := lget 0 d 24
      let g := gatherOf d
      if x.gpush.isSome || !s.ucRuns u false p then s
      else
        let c := s.gatherFault u p d
        if c ≠ 0 then ucStop u false c g.tag p s
        else if (s.headerOk p g.table && !s.gatherReady p g) || s.gatherWaits u p g then s
        else
          let h := checkLine .engine bad (g.table / 64) s
          if h.1 then runGather u p d bad far farOut h.2 else ucFail u false FabSt.lineLost g.tag p h.2) s

/-- GATHER_LANDING_PUSH: the landing entry of a finished gather, once the landing's counter is positive (R341). -/
def execGatherLandingPush (u : Nat) (s : State) : Result :=
  perform (ucOk u) (fun s =>
    match (s.uc u).gpush with
    | none => s
    | some d =>
      let g := gatherOf d
      let p := lget 0 d 24
      if (s.rig p).winding || (s.landing g.landing).credit ≤ 0 then s
      else
        s.setUc u { s.uc u with gpush := none }
          |> pushEntry g.landing 0 ⟨g.mbId, g.version, 0, 0x3FF, g.mbSeq, g.step, g.dst, 0⟩) s

/-! Conversions (R346). -/

structure Convert where
  src : Nat
  dst : Nat
  rnd : Nat
  tag : Nat
  count : Nat
  srcAt : Nat
  srcSc : Nat
  dstAt : Nat
  dstSc : Nat
  stream : Nat
  tensor : Nat
  elem : Nat
  step : Nat
  cpl : Nat
  deriving DecidableEq, Repr, Inhabited

def convertOf (d : List Nat) : Convert :=
  let w := dword d
  ⟨bits (w 0) 24 4, bits (w 0) 20 4, bits (w 0) 18 2, bits (w 0) 0 16, w 1, dword2 d 2, dword2 d 4, dword2 d 6, dword2 d 8,
   bits (w 10) 0 16, w 11, dword2 d 12, dword2 d 14, dword2 d 16⟩

def State.convertFault (s : State) (p : Nat) (d : List Nat) : Nat :=
  let c := convertOf d
  let mx := outMx c.src || outMx c.dst
  if dkind d ≠ 4 then 0x01
  else if bits (dword d 0) 16 2 ≠ 0 || bits (dword d 10) 16 16 ≠ 0 || !((d.drop 18).take 6).all (· == 0) then 0x02
  else if 8 < c.src || 8 < c.dst || c.rnd = 3 || (mx && c.count % 32 ≠ 0) then 0x03
  else if !s.ucAddr p c.srcAt (fmtBytes c.src c.count) || !s.ucAddr p c.dstAt (fmtBytes c.dst c.count)
    || (outMx c.src && !s.ucAddr p c.srcSc (c.count / 32)) || (outMx c.dst && !s.ucAddr p c.dstSc (c.count / 32))
    || (c.cpl != 0 && !s.ucAddr p c.cpl 4) then 0x04
  else 0

/-- Elements widened to binary32 (06 R223). -/
def widenElems (fmt n : Nat) (l sc : List Byte) : List Nat :=
  let v := ofLe l
  let w := outWidth fmt
  (upFrom 0 n).map fun i =>
    let c := bits v (w * i) w
    if fmt = 0 then c
    else if fmt = 3 then ofPair c
    else if outMx fmt then mxValue fp32 (outFmt fmt) (lget 0 sc (i / 32)).toNat c
    else widen (outFmt fmt) c

/-- A conversion's source elements and scales as its reads answer. -/
def readSource (u p : Nat) (c : Convert) (bad : Tbl Nat) (far : List (Nat × List Byte)) (s : State) : Nat × List Byte × State :=
  ucRead u p bad (lget (0, []) far 0) c.srcAt (fmtBytes c.src c.count) s
def readScales (u p : Nat) (c : Convert) (bad : Tbl Nat) (far : List (Nat × List Byte)) (s : State) : Nat × List Byte × State :=
  if outMx c.src then ucRead u p bad (lget (0, []) far 1) c.srcSc (c.count / 32) s else (FabSt.ok, [], s)

/-- A conversion's elements and scales written: the status of the first write that failed, or OK. -/
def writeConvert (u p : Nat) (c : Convert) (codes ss : List Nat) (bad : Tbl Nat) (far : Nat) (s : State) : Nat × State :=
  let r := ucWrite u p bad far c.dstAt (packCodes (outWidth c.dst) codes 0) s
  if r.1 = FabSt.ok && outMx c.dst then ucWrite u p bad far c.dstSc (ss.map (BitVec.ofNat 8)) r.2 else r

/-- A conversion from its source bytes and scales: narrowed, written and completed. -/
def convertOut (u p : Nat) (d : List Nat) (l sc : List Byte) (bad : Tbl Nat) (farOut : Nat) (s : State) : State :=
  let c := convertOf d
  let key : RngKey := ⟨(s.imageOf p).jobSeed, c.stream, c.tensor, c.step⟩
  let n := narrowRow c.dst c.rnd key c.elem (widenElems c.src c.count l sc)
  let r := writeConvert u p c n.1 n.2 bad farOut (holdScratch u p (packCodes (outWidth c.dst) n.1 0) s)
  if r.1 ≠ FabSt.ok then ucFail u true r.1 c.tag p r.2
  else
    let e := ucComplete u true p c.cpl c.tag bad farOut r.2
    if e.1 then e.2.setUc u { e.2.uc u with cq := (e.2.uc u).cq.drop 1 } else e.2

/-- A conversion whose checks passed: its source read, then written. -/
def runConvert (u p : Nat) (d : List Nat) (bad : Tbl Nat) (far : List (Nat × List Byte)) (farOut : Nat) (s : State) : State :=
  let c := convertOf d
  let r := readSource u p c bad far s
  if r.1 ≠ FabSt.ok then ucFail u true r.1 c.tag p r.2.2
  else
    let q := readScales u p c bad far r.2.2
    if q.1 ≠ FabSt.ok then ucFail u true q.1 c.tag p q.2.2
    else convertOut u p d r.2.1 q.2.1 bad farOut q.2.2

/-- Whether an access of a conversion waits (11 R395, R404). -/
def State.convertWaits (s : State) (u p : Nat) (c : Convert) : Bool :=
  s.ucWaits u p c.srcAt (fmtBytes c.src c.count) || s.ucWaits u p c.dstAt (fmtBytes c.dst c.count)
    || (outMx c.src && s.ucWaits u p c.srcSc (c.count / 32)) || (outMx c.dst && s.ucWaits u p c.dstSc (c.count / 32))
    || (c.cpl != 0 && s.ucWaits u p c.cpl 4)

/-- CONVERTER_DESCRIPTOR: the descriptor at the front of an undercroft's converter queue. `far` holds what other packages
answered for source elements and scales; `farOut` for writes. -/
def execConverterDescriptor (u : Nat) (bad : List (Nat × Nat)) (far : List (Nat × List Byte)) (farOut : Nat) (s : State) :
    Result :=
  perform (ucOk u) (fun s =>
    match (s.uc u).cq with
    | [] => s
    | d :: _ =>
      let p := lget 0 d 24
      let c := convertOf d
      if !s.ucRuns u true p then s
      else
        let f := s.convertFault p d
        if f ≠ 0 then ucStop u true f c.tag p s
        else if s.convertWaits u p c then s
        else runConvert u p d bad far farOut s) s

/-! Sparse row updates (R342 to R345). -/

/-- A table's sparse work stopped (R342): a marker that holds no slot stays until a rewind. Causes: 1 COUNT, 2 index,
3 header (log 55). -/
def sparseError (p table step source cause : Nat) (s : State) : State :=
  setSparse ⟨p, table, step, 9, []⟩ s
    |> raise Ev.sparseError (stepStamp p step) [table % 2 ^ 32, table / 2 ^ 32, source, cause] |> programFault p

/-- A source's count line: STEP, COUNT, VALID. -/
def State.countLine (s : State) (h : TblHdr) (o k : Nat) : Nat × Nat × Nat :=
  let a := h.inboxAt o k
  (s.memLe a 4, s.memLe (a + 4) 4, s.memLe (a + 8) 4)

/-- The rows that a source's inbox names, and where its gradient of entry `t` lies. -/
def State.inboxRows (s : State) (h : TblHdr) (o k n : Nat) : List Nat := pairsOf n (s.memBytes (h.inboxAt o k + 64) (4 * n))
def TblHdr.gradAt (h : TblHdr) (o k t : Nat) : Nat := h.inboxAt o k + 64 + up64 (4 * h.srcRows) + t * h.dim * 4

/-- Whether the sparse work of a step may start (R343). -/
def State.sparseReady (s : State) (p o : Nat) (h : TblHdr) (step : Nat) : Bool :=
  ((upFrom 0 h.sources).all fun k =>
    let (st, _, v) := s.countLine h o k
    v != 0 && st == step % 2 ^ 32)
  && ((upFrom step ((s.imageOf p).depth + 1)).all fun t =>
    decide (h.gathers ≤ ((s.gathers.find? fun x => x.1 == p && x.2.1 == o && x.2.2.1 == t).map fun x => x.2.2.2).getD 0))

/-- One gradient row combined: into a new slot, or into the slot that the row's mark names. -/
def combine (s : State) (r : Rigging) (o step : Nat) (h : TblHdr) (marks : Tbl Nat) (undo : List Undo) (row : Nat)
    (g : List Nat) : Tbl Nat × List Undo :=
  let mark := match tget 0 marks row with
    | 0 => s.memLe (h.markAt o row) 8
    | m => m - 1
  if mark / 2 ^ 32 ≠ step % 2 ^ 32 then
    let x := h.upd r
    let n := undo.length
    (tset 0 marks row (step % 2 ^ 32 * 2 ^ 32 + n + 1),
     undo ++ [⟨row, s.memBytes (h.rowAt o row) h.rowBytes,
       (upFrom 0 x.nE).map fun k => s.memBytes (h.stateAt r o k row) (h.stateRow r), mark, g, false⟩])
  else
    let u := mark % 2 ^ 32
    match undo[u]? with
    | some y => (marks, lset undo u { y with grad := List.zipWith (fun a b => (fadd a b).v) y.grad g })
    | none => (marks, undo)

/-- The lines of the count lines, of the rows that they count, and of what those rows name, in the order of pass 1. -/
def countLines (o : Nat) (h : TblHdr) : List Nat := (upFrom 0 h.sources).flatMap fun k => linesOf (h.inboxAt o k) 64
def indexLines (s : State) (o : Nat) (h : TblHdr) : List Nat :=
  (upFrom 0 h.sources).flatMap fun k => linesOf (h.inboxAt o k + 64) (4 * (s.countLine h o k).2.1)
def sparseLines (s : State) (r : Rigging) (o : Nat) (h : TblHdr) : List Nat :=
  (upFrom 0 h.sources).flatMap fun k =>
    (s.inboxRows h o k (s.countLine h o k).2.1).zipIdx.flatMap fun (row, t) =>
      linesOf (h.markAt o row) 8 ++ linesOf (h.rowAt o row) h.rowBytes
        ++ ((upFrom 0 (h.upd r).nE).flatMap fun j => linesOf (h.stateAt r o j row) (h.stateRow r))
        ++ linesOf (h.gradAt o k t) (h.dim * 4)

/-- The gradients of checked inboxes combined into undo slots, the rows marked, VALID cleared (R344). -/
def combineRows (p table step : Nat) (r : Rigging) (h : TblHdr) (s : State) : State :=
  let (marks, undo) := (upFrom 0 h.sources).foldl (fun acc k =>
    let n := (s.countLine h table k).2.1
    ((s.inboxRows h table k n).zipIdx).foldl (fun acc (row, t) =>
      combine s r table step h acc.1 acc.2 row
        ((pairsOf h.dim (s.memBytes (h.gradAt table k t) (4 * h.dim))).map ofPair)) acc) (([], []) : Tbl Nat × List Undo)
  let s := marks.foldl (fun s (row, m) => (memWrite .engine [] (h.markAt table row) (leBytes 8 (m - 1)) s).2) s
  let s := (upFrom 0 h.sources).foldl (fun s k =>
    (memWrite .engine [] (h.inboxAt table k + 8) (leBytes 4 0) s).2) s
  setSparse ⟨p, table, step, if undo.isEmpty then 2 else 1, undo⟩ s

/-- The counts and indices of a table's inboxes read and checked, then the rest (R342). -/
def sparseCounts (u p table step : Nat) (r : Rigging) (h : TblHdr) (bad : Tbl Nat) (s : State) : State :=
  match (upFrom 0 h.sources).find? fun k => decide (h.srcRows < (s.countLine h table k).2.1) with
  | some k => sparseError p table step k 1 s
  | none =>
    let a := checkLines .engine bad (indexLines s table h) s
    if !a.1 then ucHold u p 2 a.2
    else match (upFrom 0 h.sources).find? fun k =>
        (a.2.inboxRows h table k (a.2.countLine h table k).2.1).any fun x => decide (h.rows ≤ x) with
      | some k => sparseError p table step k 2 a.2
      | none =>
        let b := checkLines .engine bad (sparseLines a.2 r table h) a.2
        if b.1 then combineRows p table step r h b.2 else ucHold u p 2 b.2

/-- SPARSE_PASS1: the gradients of a step combined into undo slots, the rows marked, VALID cleared. Each line is checked
before what it holds is used (R326, R342, R344). -/
def execSparsePass1 (p table : Nat) (bad : List (Nat × Nat)) (s : State) : Result :=
  perform (partOk p) (fun s =>
    match s.tableAt? p table with
    | none => s
    | some g =>
      let r := s.imageOf p
      let h := s.hdrAt table
      let step := (s.svc p).decided + 1
      let u := g.stack g.base
      if !h.trained || (s.rig p).winding || (s.sparse? p table step).isSome || !s.sparseReady p table h step
        || (s.uc u).held.contains (3 * p + 2) then s
      else
        let a := checkLines .engine bad (table / 64 :: countLines table h) s
        if !a.1 then ucHold u p 2 a.2
        else if !h.ok r g then sparseError p table step 0 3 a.2
        else sparseCounts u p table step r h bad a.2) s

/-- An element state from a row's bytes, and its bytes. -/
def stateValues (fmt n : Nat) (l : List Byte) : List Nat :=
  (upFrom 0 n).map fun d =>
    if fmt = 0 then widen bf16 (ofLe ((l.drop (2 * d)).take 2))
    else if fmt = 1 then ofPair (ofLe ((l.drop (4 * d)).take 4))
    else mxValue fp32 e4m3 (lget 0 l (n + d / 32)).toNat (lget 0 l d).toNat
def stateRowBytes (fmt rnd : Nat) (key : RngKey) (e row : Nat) (v : List Nat) : List Byte :=
  let l := if fmt = 1 then wordsLe (v.map pairOf)
    else if fmt = 0 then v.zipIdx.flatMap fun (x, j) => leBytes 2 (narrow bf16 (rndOf rnd false key (e + j)) x).v
    else
      let (c, ss) := mxForm 32 rnd key e v
      (c ++ ss).map (BitVec.ofNat 8)
  fit 0 row l

/-- SPARSE_PASS2: the next group of undo slots on the undercroft that holds their rows: the update program run, and rows and
states written in place (R344). -/
def execSparsePass2 (u p table : Nat) (bad : List (Nat × Nat)) (s : State) : Result :=
  perform (ucOk u && partOk p) (fun s =>
    let step := (s.svc p).decided + 1
    match s.tableAt? p table, s.sparse? p table step with
    | some g, some w =>
      let r := s.imageOf p
      let h := s.hdrAt table
      let x := h.upd r
      let todo := (w.undo.zipIdx.filter fun (y, _) => !y.written && g.stack (h.rowAt table y.row) == u).take (1024 / max 1 h.dim)
      if (s.rig p).winding || w.pass ≠ 1 || todo.isEmpty || (s.uc u).held.contains (3 * p + 2) then s
      else
        let lines := todo.flatMap fun (y, _) => linesOf (h.rowAt table y.row) h.rowBytes
          ++ (upFrom 0 x.nE).flatMap fun k => linesOf (h.stateAt r table k y.row) (h.stateRow r)
        let (ok, s) := checkLines .engine bad lines s
        if !ok then ucHold u p 2 s
        else
          let c := s.baseCount p step
          let sc := tget 0x3F80_0000 (s.part p).scale x.sched
          let ps := updParams ((r.sched? x.sched).getD (schedOf 0)) x c sc
          let cat (f : Undo → List Nat) : List Nat := fit 0 1024 (todo.flatMap fun y => f y.1)
          let v := [cat Undo.grad,
              cat fun y => (pairsOf h.dim (s.memBytes (h.rowAt table y.row) (4 * h.dim))).map ofPair]
            ++ (upFrom 0 2).map (fun k => if k < x.nE then
                cat fun y => stateValues x.stateFmt h.dim (s.memBytes (h.stateAt r table k y.row) (h.stateRow r))
              else fit 0 1024 []) ++ List.replicate 4 (fit 0 1024 [])
          let v1 := runUpd ps (lget [] r.code x.image) v
          let part (i k : Nat) : List Nat := ((lget [] v1 k).drop (i * h.dim)).take h.dim
          let s := holdRegs u p v1 s
          let s := (todo.zipIdx).foldl (fun s ((y, _), i) =>
            let s := (memWrite .engine [] (h.rowAt table y.row) (fit 0 h.rowBytes (wordsLe ((part i 1).map pairOf))) s).2
            (upFrom 0 x.nE).foldl (fun s k =>
              (memWrite .engine [] (h.stateAt r table k y.row)
                (stateRowBytes x.stateFmt x.rnd (updKey r x (1 + k) step) (y.row * h.dim) (h.stateRow r) (part i (2 + k))) s).2) s) s
          let n := todo.length * h.dim
          let nf := ([1] ++ (upFrom 0 x.nE).map (2 + ·)).any fun k => ((lget [] v1 k).take n).any fun y => !isFinite y
          let s := if nf then clearFinite p step 2 g.slot 0 s else s
          let undo := w.undo.zipIdx.map fun (y, i) => if todo.any fun z => z.2 == i then { y with written := true } else y
          setSparse { w with undo := undo, pass := if undo.all Undo.written then 2 else 1 } s
            |> bump (Reg.UC_SPARSE_ROWS u p) todo.length
    | _, _ => s) s

/-- SPARSE_RESTORE: at a rewind, the slots of a table's unresolved steps written back (R345). A skip's slots are written back
with its resolution. -/
def execSparseRestore (p table : Nat) (s : State) : Result :=
  perform (partOk p) (fun s =>
    if !(s.rig p).winding then s
    else (s.sparse.filter fun x => x.part == p && x.table == table).foldl (fun s x => restoreSparse x s) s) s

/-! Patrol, repair, key sweeps (R329 to R334). -/

/-- PATROL_READ: the next line of a stack's pass. `off` is a class-0 offset of the stack, or, for a line in no page, its
offset within the stack's DRAM. -/
def execPatrolRead (u : Nat) (inUse : Bool) (off : Nat) (bad : List (Nat × Nat)) (s : State) : Result :=
  perform (ucOk u) (fun s =>
    let n := off / 64
    let held := inReserved off || (s.regionAt off).isSome
    if !s.on (Reg.UC_PATROL_ENABLE u) || (inUse && !(held && s.stackOf off == u)) then s
    else
      let x := s.uc u
      let at_ := (x.patrol + 1) % 2 ^ 30
      let s := s.setUc u { x with patrol := at_ } |> set (Reg.UC_PATROL_PROGRESS u) (at_ * 100 / 2 ^ 30)
      if inUse then (checkLine .other bad n s).2
      else match min (tget 0 bad n) 2 with
        | 0 => s
        | 1 => bump (Reg.UC_LINE_COUNTS_REREAD_OK u) 1 s
        | _ => s |> bump (Reg.UC_LINE_COUNTS_LOST u) 1 |> set (Reg.UC_LINE_LAST_KIND u) 0xF
            |> set (Reg.UC_LINE_LAST_PARTITION u) 0 |> set (Reg.UC_LINE_LAST_OFFSET u) (n * 64)) s

/-- Spare rows left in a die of a stack. -/
def State.sparesIn (s : State) (u d : Nat) : Nat := Config.dieSpares u d - tget 0 (s.uc u).spareUsed d

/-- ROW_REPAIR: a row with two lost-line events replaced by a spare row of its die. Lost lines stay lost (R329). -/
def execRowRepair (u row : Nat) (s : State) : Result :=
  perform (ucOk u) (fun s =>
    let x := s.uc u
    let d := Config.dramDie row
    if tget 0 x.rowLost row < 2 then s
    else
      let s := if s.sparesIn u d = 0 then s
        else
          let rows := x.repaired ++ [row]
          let s := s.setUc u { x with repaired := rows, rowLost := tset 0 x.rowLost row 0,
                                      spareUsed := tset 0 x.spareUsed d (tget 0 x.spareUsed d + 1) }
          let left := (upFrom 0 16).foldl (fun m d => min m (s.sparesIn u d)) 64
          s |> bump (Reg.UC_REPAIR_REPAIRS u) 1 |> set (Reg.UC_REPAIR_SPARES_LEFT u) left
            |> journalWrite 4 u (rows.flatMap fun r => leBytes 8 r) |> raise0 Ev.memRowRepaired [u, d, row]
      let x := s.uc u
      if s.sparesIn u d = 0 && !x.exhausted.contains d then
        s.setUc u { x with exhausted := x.exhausted ++ [d] } |> raise0 Ev.memSparesExhausted [u, d]
      else s) s

/-- The class-0 line at place `i` of a partition's lines in a stack: its regions in MEMMAP order, by share offset (R321). -/
def shareLine (u : Nat) : List Region → Nat → Option Nat
  | [], _ => none
  | g :: r, i =>
    let n := g.share u / 64
    if i < n then
      let b := 64 * i
      let gr := if g.granule = 3 then g.size else granuleBytes g.granule
      let k := g.stacks.findIdx (· == u)
      some ((g.base + ((b / gr) * g.stacks.length + k) * gr + b % gr) / 64)
    else shareLine u r (i - n)

/-- KEY_SWEEP_LINE: the next line of a partition in a stack, written back under the new key; a lost line stays lost with the
new epoch (R333, R334). After the last line of the last stack the old slot is cleared. -/
def execKeySweepLine (u p : Nat) (bad : List (Nat × Nat)) (s : State) : Result :=
  perform (ucOk u && partOk p) (fun s =>
    let k := tget MemKeys.init s.sec.mem p
    if !k.sweeping.contains u then s
    else
      let i := tget 0 (s.uc u).sweep p
      match shareLine u (s.imageOf p).regions i with
      | some n =>
        let s := s.setUc u { s.uc u with sweep := tset 0 (s.uc u).sweep p (i + 1) }
        if tget 0 s.memEpoch n = k.cur then s
        else
          let (ok, s) := checkLine .other bad n s
          let s := settleLine n s
          if ok then rewriteLine n s else rekeyLine n s
      | none =>
        let left := k.sweeping.filter (· != u)
        let k := { k with sweeping := left }
        if left.isEmpty then
          let k := if k.cur = 0 then { k with key1 := 0 } else { k with key0 := 0 }
          { s with sec := { s.sec with mem := tset MemKeys.init s.sec.mem p k } } |> raise Ev.memkeyRotated (partStamp p) [p]
        else { s with sec := { s.sec with mem := tset MemKeys.init s.sec.mem p k } }) s

end Sys2Proof.Machine
end

