-- ==== Sys2Proof/Machine/Tenancy.lean ====
section
/-!
DEFINITION. Commands of tenancy, scrubs, the fabric secret, operator debug and firmware (14 R486 to R511).
-/
namespace Sys2Proof.Machine
open State

/-! The partition's life (R487, R488, R510). -/

def State.offered (s : State) (p : Nat) : Bool := s.on (Reg.PART_SEC_STATUS_OFFERED p)
def State.tenantId (s : State) (p : Nat) : List Byte := (upFrom 0 8).flatMap fun w => leBytes 4 (s.get (Reg.TENANT_ID p w))
/-- The GiB that a partition is allotted: first and one past the last. -/
def State.allot (s : State) (p : Nat) : Nat × Nat :=
  let b := s.get (Reg.PART_ALLOT_BASE_GIB p)
  (b, b + s.get (Reg.PART_ALLOT_SIZE_GIB p))

/-- OFFER_ERR of an offer, 0 for none. -/
def State.offerError (s : State) (p : Nat) : Nat :=
  let (a, b) := s.allot p
  if a = b then 1
  else if 1020 < b then 2
  else if allParts.any fun q => q != p && (s.offered q || s.partState q != partUnassigned)
      && decide (a < (s.allot q).2) && decide ((s.allot q).1 < b) then 3
  else if (s.tenantId p).all (· == 0) then 4
  else 0

/-- A write of PART_CTRL with exactly one bit set, bit `b`. -/
def partCtrl (p b : Nat) (value : W32) (f : State → State) (s : State) : Result :=
  perform (partOk p) (whenUp fun s => if bits value.toNat 29 3 = 2 ^ (b - 29) then f s else s) s

/-- PART_OFFER: the partition is offered to TENANT_ID, or OFFER_ERR says why not. -/
def execPartOffer (p : Nat) (value : W32) (s : State) : Result :=
  partCtrl p 31 value (fun s =>
    if s.partState p ≠ partUnassigned || s.offered p then s
    else
      let e := s.offerError p
      let s := s.set (Reg.PART_SEC_STATUS_OFFER_ERR p) e
      if e = 0 then s |> set (Reg.PART_SEC_STATUS_OFFERED p) 1 |> raise Ev.tenantOffered (partStamp p) [p] else s) s

/-- The end of a tenancy: an ACTIVE partition is released first; a load in progress ends ABORTED (log 77). -/
def endTenancy (p : Nat) (s : State) : State :=
  if s.partState p = partActive then
    s.setRig p { s.rig p with scrubAfter := true } |> beginRelease p
  else if s.partState p = partAssigned then
    let s := if s.ldState p = Ld.apply then unstage p s else s
    let s := if 1 ≤ s.ldState p && s.ldState p ≤ 5 then refuseLoad p (plainFail 0x22) s else s
    queueScrub p [] s
  else s

/-- PART_RECLAIM: the partition is released and sent to SCRUBBING. -/
def execPartReclaim (p : Nat) (value : W32) (s : State) : Result := partCtrl p 30 value (endTenancy p) s

/-- PART_WITHDRAW: an offer cleared. -/
def execPartWithdraw (p : Nat) (value : W32) (s : State) : Result :=
  partCtrl p 29 value (fun s =>
    if s.partState p = partUnassigned && s.offered p then s.set (Reg.PART_SEC_STATUS_OFFERED p) 0 else s) s

/-! Tenant commands (R494). -/
namespace Tn
def ok : Nat := 0
def badState : Nat := 1
def notTenant : Nat := 2
def keyBusy : Nat := 3
def notStaged : Nat := 4
def badEpoch : Nat := 5
end Tn

def State.session? (s : State) (fn id : Nat) : Option Session := s.sec.sessions.find? fun x => x.fn == fn && x.id == id

/-- Whether a function's DOE answers Busy: its partition is being scrubbed (R506). -/
def State.doeBusy (s : State) (fn : Nat) : Bool := fn != 0 && s.partState (fn - 1) == partScrubbing

/-- A tenant command in a session: `own` when it must come from the tenant's key. An answer carries its status; an SPDM ERROR
is shown as 0x100 + its code (log 78). -/
def tenantCmd (fn id p : Nat) (own : Bool) (states : List Nat) (f : State → Nat × State) (s : State) : Result :=
  perform (fnOk fn) (fun s =>
    if s.doeBusy fn then put (.status 0x103) s
    else match s.session? fn id with
      | none => put (.status 0x102) s
      | some x =>
        let mine := x.established && !x.owner.isEmpty && partOk p
        let key := Config.shake256 x.owner 32 == s.tenantId p
        if !mine || (fn != 0 && fn != p + 1) || (own && !key) then put (.status Tn.notTenant) s
        else if s.partState p ∉ states then put (.status Tn.badState) s
        else
          let (c, s) := f s
          put (.status c) s) s

/-- Two fresh memory keys as one key number above 0. -/
def freshKey (s : State) : Nat × State :=
  let (v, s) := s.takeFree
  (v.toNat + 1, s)

def setKeys (p : Nat) (k : MemKeys) (s : State) : State := { s with sec := { s.sec with mem := tset MemKeys.init s.sec.mem p k } }
def setLink (p : Nat) (l : Link) (s : State) : State := { s with sec := { s.sec with links := tset Link.init s.sec.links p l } }
def State.link (s : State) (p : Nat) : Link := tget Link.init s.sec.links p

/-- CLAIM: the tenant whose key TENANT_ID names takes an offered partition; both memory keys are made. -/
def execClaim (fn id p : Nat) (s : State) : Result :=
  tenantCmd fn id p false (upFrom 0 16) (fun s =>
    if s.partState p ≠ partUnassigned || !s.offered p then (Tn.badState, s)
    else match s.session? fn id with
      | none => (Tn.notTenant, s)
      | some x =>
        if Config.shake256 x.owner 32 != s.tenantId p then (Tn.notTenant, s)
        else
          let (a, s) := freshKey s
          let (b, s) := freshKey s
          (Tn.ok, s |> setKeys p ⟨a, b, 0, 0, []⟩ |> set (partFld p) partAssigned)) s

/-- ENROLL_RIG_KEY: a slot of the partition's rigging keys set, or cleared by zeros. -/
def execEnrollRigKey (fn id p slot : Nat) (signer : List Byte) (s : State) : Result :=
  tenantCmd fn id p true [partAssigned] (fun s =>
    if 4 ≤ slot then (Tn.badState, s)
    else
      let k := fit 0 32 signer
      (Tn.ok, { s with sec := { s.sec with rigKeys := tset [] s.sec.rigKeys (4 * p + slot) (if k.all (· == 0) then [] else k) } })) s

/-- Every channel end of a partition, changed. -/
def mapChannels (p : Nat) (f : VChan → VChan) (s : State) : State :=
  (upFrom 0 18).foldl (fun s k => (upFrom 0 8).foldl (fun s v =>
    let c := s.vchan k v
    if c.part = some p then setVchan k v (f c) s else s) s) s

/-- LINK_STAGE: the key of a later epoch becomes the receive key of the non-current slot at every rope end (R497). -/
def execLinkStage (fn id p : Nat) (epoch : W16) (secret : List Byte) (s : State) : Result :=
  tenantCmd fn id p true [partAssigned, partActive] (fun s =>
    let l := s.link p
    let e := epoch.toNat
    if e ≤ (l.cur.map Prod.fst).getD 0 then (Tn.badEpoch, s)
    else if s.linkBusy p then (Tn.keyBusy, s)
    else
      let x := fit 0 32 secret
      (Tn.ok, s |> setLink p { l with staged := some (e, x) }
        |> mapChannels p fun c => c.load (1 - c.sendSlot) (linkKey x (s.imageOf p).jobId e))) s

/-- LINK_SWITCH: the staged key becomes current for sending at each channel's next first transmission. -/
def execLinkSwitch (fn id p : Nat) (epoch : W16) (s : State) : Result :=
  tenantCmd fn id p true [partAssigned, partActive] (fun s =>
    let l := s.link p
    match l.staged with
    | none => (Tn.notStaged, s)
    | some (e, x) =>
      if e ≠ epoch.toNat then (Tn.notStaged, s)
      else
        (Tn.ok, s |> setLink p ⟨some (e, x), 1 - l.slot, none⟩
          |> mapChannels p fun c => c.switch)) s

/-- MEM_ROTATE: new memory keys in the non-current slot, which becomes current, and a sweep begins in every stack (09 R333,
R334). -/
def execMemRotate (fn id p : Nat) (s : State) : Result :=
  tenantCmd fn id p true [partAssigned, partActive] (fun s =>
    let k := tget MemKeys.init s.sec.mem p
    if !k.sweeping.isEmpty then (Tn.keyBusy, s)
    else
      let (n, s) := freshKey s
      let k := if k.cur = 0 then { k with key1 := n } else { k with key0 := n }
      let s := (upFrom 0 16).foldl (fun s u => s.setUc u { s.uc u with sweep := tset 0 (s.uc u).sweep p 0 }) s
      (Tn.ok, setKeys p { k with cur := 1 - k.cur, epoch := 1 - k.cur, sweeping := upFrom 0 16 } s)) s

/-- END: the tenant ends its tenancy. -/
def execEnd (fn id p : Nat) (s : State) : Result :=
  tenantCmd fn id p true [partAssigned, partActive] (fun s => (Tn.ok, endTenancy p s)) s

/-- STATUS: PART_SEC_STATUS returned. -/
def execStatus (fn id p : Nat) (s : State) : Result :=
  tenantCmd fn id p true (upFrom 0 16) (fun s =>
    (Tn.ok, put (.value (readReg Who.pf.key (Reg.PART_SEC_STATUS_OFFERED p).base 4 0 s).1) s)) s

/-! Scrubs (R505, R506). -/

/-- The scrub in progress, if it stands at a phase. -/
def withScrub (phase : Nat) (f : Nat → State → State) (s : State) : State :=
  match s.sec.scrubs with
  | [] => s
  | p :: _ => if s.sec.scrubPhase = phase then f p { s with sec := { s.sec with scrubPhase := phase + 1 } } else s

/-- The closed channels that partition `p` held, changed. -/
def onPartVcs (p : Nat) (f : VChan → VChan) (s : State) : State :=
  (s.sec.unavailable.filter fun x => x.1 == p).foldl (fun s x => (upFrom 0 8).foldl (fun s v =>
    let c := s.vchan x.2.1 v
    if bit x.2.2.2 v && c.part.isNone then setVchan x.2.1 v (f c) s else s) s) s

/-- Nothing more is first sent on a channel, not even the rest of a message (R506; log 46). -/
def VChan.silent (c : VChan) : VChan := { c with tx := [], txCut := false }

/-- Both key slots zero. -/
def VChan.unkeyed (c : VChan) : VChan := { c.load 0 0 |>.load 1 0 with next := none, old := none, badTag := none }

/-- What a closed channel still held for its next opening is freed. -/
def VChan.emptied (c : VChan) : VChan := { c with early := [], freed := (c.freed + c.early.length) % 4096 }

/-- SCRUB_START: phase 1, Close. -/
def execScrubStart (s : State) : Result :=
  perform true (withScrub 0 fun p s =>
    let f := vfNo p
    let s := (s.fnEngines f).foldl (fun s e => stopEngine e s) (dropPlacements p s)
    let s := s.setRing f { s.ring f with pend := [] } |> onPartVcs p VChan.silent
    (s.sec.unavailable.filter fun x => x.1 == p).foldl (fun s x =>
      sendControl x.2.1 0x19 (leBytes 4 x.2.2.1 ++ leBytes 1 x.2.2.2 ++ leBytes 3 0) s) s) s

/-- SCRUB_KEYS_ERASED: phase 2: memory, link and IDE keys of the partition are zero; a sweep is abandoned. -/
def execScrubKeysErased (s : State) : Result :=
  perform true (withScrub 1 fun p s =>
    s |> setKeys p MemKeys.init |> setLink p Link.init |> clearIde p |> onPartVcs p VChan.unkeyed) s

/-- SCRUB_OVERWRITE_DONE: phase 3: every line of the allotment holds zero ciphertext under key epoch 0 with a valid check
field, the partition's undercroft scratch is zero, and the receive buffers of its channels are empty. -/
def execScrubOverwriteDone (s : State) : Result :=
  perform true (withScrub 2 fun p s =>
    let (a, b) := s.allot p
    s |> clearRange (a * 2 ^ 30) ((b - a) * 2 ^ 30) |> clearScratch p |> onPartVcs p VChan.emptied) s

/-- PART_SCRUBBED: phase 4: enrolments, TENANT_ID, link epoch, offer and committed state are forgotten, and the partition is
UNASSIGNED. -/
def execPartScrubbed (s : State) : Result :=
  perform true (withScrub 3 fun p s =>
    let s := { s with sec := { s.sec with
      rigKeys := s.sec.rigKeys.filter fun e => e.1 / 4 != p
      unavailable := s.sec.unavailable.filter fun x => x.1 != p
      scrubs := s.sec.scrubs.drop 1
      scrubPhase := 0 } }
    let s := (upFrom 0 8).foldl (fun s w => s.set (Reg.TENANT_ID p w) 0) (setLink p Link.init s)
    s |> set (Reg.PART_SEC_STATUS_OFFERED p) 0 |> unset (Reg.COMMITTED_STEP_STEP p) |> unset (Reg.COMMITTED_INFO_VALID p)
      |> unset (Reg.COMMITTED_INFO_SKIPPED p) |> unset (Reg.COMMITTED_INFO_VERSION p)
      |> unset (Reg.COMMITTED_INFO_SKIP_COUNT p) |> unset (Reg.COMMITTED_JOB_JOB_ID p) |> unset (Reg.HOT_CKPT_STEP_STEP p)
      |> unset (Reg.COLD_CKPT_STEP_STEP p) |> set (partFld p) partUnassigned |> raise Ev.partScrubbed (partStamp p) [p]) s

/-! The fabric secret (R498, R509). -/

/-- A write of SEC_FAB_CTRL: EPOCH is stored. -/
def fabCtrl (value : W32) (f : State → State) (s : State) : Result :=
  perform true (whenUp fun s => f (s.set Reg.SEC_FAB_CTRL_EPOCH (bits value.toNat 0 16))) s

/-- FAB_STAGE: SEC_FAB_SECRET staged as a later epoch, or refused. -/
def execFabStage (value : W32) (s : State) : Result :=
  fabCtrl value (fun s =>
    let e := s.get Reg.SEC_FAB_CTRL_EPOCH
    if !bit value.toNat 31 then s
    else if e ≤ s.fabEpoch || s.fabBusy then raise0 Ev.fabKeyRefused [e] s
    else
      { s with sec := { s.sec with
        fabStaged := some (e, (upFrom 0 8).flatMap fun w => leBytes 4 (s.get (Reg.SEC_FAB_SECRET w))) } }) s

/-- FAB_SWITCH: the staged epoch becomes current: ropes that are ACTIVE or in GRACE load its rope key, the others clear an old
slot, and ropes that waited for a secret begin bring-up. -/
def execFabSwitch (value : W32) (s : State) : Result :=
  fabCtrl value (fun s =>
    if !bit value.toNat 30 then s
    else match s.sec.fabStaged with
      | none => s
      | some x =>
        let s := { s with sec := { s.sec with fab := some x, fabStaged := none } }
        (upFrom 0 18).foldl (fun s k =>
          let st := s.ropeSt k
          if st = RS.active || st = RS.grace then switchRopeKey k s
          else
            let c := s.vchan k 8
            let s := match c.old with
              | some i => setVchan k 8 { c.load i 0 with old := none } s
              | none => s
            wakeRope k s) s) s

/-! Operator debug (R501 to R503, R511). -/

/-- A write of DBG_CTRL: KEY_LOCK can only be set. -/
def dbgCtrl (value : W32) (f : State → State) (s : State) : Result :=
  perform true (whenUp fun s => f (if bit value.toNat 31 then s.set Reg.DBG_CTRL_KEY_LOCK 1 else s)) s

/-- A new challenge drawn. -/
def drawChallenge (s : State) : State :=
  (upFrom 0 8).foldl (fun s w =>
    let (v, s) := s.takeFree
    s.set (Reg.DBG_CHALLENGE w) (v.toNat % 2 ^ 32)) s

def dbgToken (s : State) : List Byte := (upFrom 0 0x524).flatMap fun w => leBytes 4 (s.get (Reg.DBG_TOKEN w))

/-- Whether DBG_TOKEN opens debug. -/
def State.tokenGood (s : State) : Bool :=
  let key := (upFrom 0 8).flatMap fun w => leBytes 4 (s.get (Reg.DBG_KEY w))
  let t := dbgToken s
  let msg := ((upFrom 0 8).flatMap fun w => leBytes 4 (s.get (Reg.DBG_CHALLENGE w))) ++ leBytes 2 (s.get Reg.PKG_ID_ID)
  !(key.all (· == 0)) && Config.shake256 (t.take 0x7A0) 32 == key
    && Config.mldsaVerify (t.take 0x7A0) (Config.shake256 msg 64) ((t.drop 0x7A0).take 3309)

/-- DEBUG_UNLOCK: the token is checked and a new challenge drawn; after 8 failures nothing is. -/
def execDebugUnlock (value : W32) (s : State) : Result :=
  dbgCtrl value (fun s =>
    if !bit value.toNat 30 || decide (8 ≤ s.sec.fails) then s
    else
      let good := s.tokenGood
      let s := drawChallenge s
      if good then
        { s with sec := { s.sec with unlocks := s.sec.unlocks + 1, counted := [] } }
          |> set Reg.DBG_STATUS_UNLOCKED 1 |> raise0 Ev.debugUnlock []
      else
        { s with sec := { s.sec with fails := s.sec.fails + 1 } } |> bump Reg.DBG_STATUS_FAILS 1 |> raise0 Ev.debugUnlockFailed []) s

/-- DEBUG_RELOCK: debug is closed. -/
def execDebugRelock (value : W32) (s : State) : Result :=
  dbgCtrl value (fun s =>
    if bit value.toNat 29 then { s with sec := { s.sec with counted := [] } } |> set Reg.DBG_STATUS_UNLOCKED 0
    else s) s

/-- One debug access made; one to a role in re-rig waits. -/
def debugGo (port write : Bool) (addr len : Nat) (data : List Byte) (bad : Tbl Nat) (s : State) : State :=
  let r : FabReq := ⟨.debug port, if write then opWrite else opRead, 0, len, addr, data⟩
  if fabPkg addr ≠ s.get Reg.PKG_ID_ID then fabReply r FabSt.class_ [] s
  else
    let s := fabAccess bad r s
    if !port && r ∈ s.fabric.waiting then s.set Reg.DBG_STATUS_BUSY 1 else s

/-- DBG_GO: one READ or WRITE at DBG_ADDR while debug is unlocked; `bad` marks failing lines. -/
def execDbgGo (value : W32) (bad : List (Nat × Nat)) (s : State) : Result :=
  perform true (whenUp fun s =>
    let v := value.toNat
    if !bit v 31 || !s.on Reg.DBG_STATUS_UNLOCKED || s.on Reg.DBG_STATUS_BUSY then s
    else
      let n := bits v 0 9
      debugGo false (bit v 30) (s.get Reg.DBG_ADDR_ADDR) n
        (((upFrom 0 64).flatMap fun w => leBytes 4 (s.get (Reg.DBG_DATA w))).take n) bad s) s

/-- INSTRUMENT_ACCESS: an instrument of the test port reads or writes tread SRAM, a switchback buffer or Yuseon while debug is
unlocked (16 R541). -/
def execInstrumentAccess (write : Bool) (addr : W64) (len : Nat) (data : List Byte) (bad : List (Nat × Nat)) (s : State) : Result :=
  perform true (fun s =>
    if s.on Reg.DBG_STATUS_UNLOCKED then debugGo true write addr.toNat len (fit 0 len data) bad s else s) s

/-! Firmware (R491). -/

/-- Why an image is refused, 0 for none. -/
def firmwareError (image : List Byte) (s : State) : Nat :=
  if !Config.fwFormat image then 4
  else if !Config.fwSigned image then 1
  else if Config.fwPart image ≠ 0xB816 then 2
  else if Config.fwSvn image < s.sec.fuseSvn then 3
  else 0

/-- FIRMWARE_IMAGE: the image that the host's bit announces in the FIRMWARE buffer is started, or refused with a code; without
the buffer the transfer fails (12 R429). It works in BOOT; once both images run there, self-test begins (16 R544). -/
def execFirmwareImage (image : List Byte) (s : State) : Result :=
  perform true (fun s =>
    let pend := s.get (Reg.MB_H2P_PEND 2)
    if !bit pend 0 then s
    else if !s.bncReady 2 then s |> set (Reg.MB_H2P_PEND 2) (pend - 1) |> set (Reg.BNC_STATUS_ERROR 2) 1
    else
      let s := s.set (Reg.MB_H2P_PEND 2) (pend - 1)
        |> put (.hostRead 0 (s.get (Reg.BNC_BASE_BASE 2) * 4096) image.length)
      let e := firmwareError image s
      if e ≠ 0 then
        let m := s.get (Reg.MB_P2H_MSG 2 0)
        s |> set (Reg.MB_P2H_MSG 2 0) (m - m % 256 + e) |> ringBell 2 1
      else
        let d := Config.shake256 image 64
        let svn := Config.fwSvn image % 256
        let s := if Config.fwIsSecurity image then { s with sec := { s.sec with fwSec := d } }
          else { s with sec := { s.sec with fwNewel := d, fwSvn := svn } }
        let s := if s.pkg == .boot && s.get Reg.SELFTEST_STATUS_PHASE = 0 && !s.sec.fwNewel.isEmpty && !s.sec.fwSec.isEmpty then
            s.set Reg.SELFTEST_STATUS_PHASE 1
          else s
        ringBell 2 0 s) s

/-- FUSE_SVN_RAISE: FUSE_SVN rises to the running image's SVN; it never falls. -/
def execFuseSvnRaise (s : State) : Result :=
  perform true (fun s =>
    let pend := s.get (Reg.MB_H2P_PEND 2)
    if !bit pend 1 then s
    else
      { s with sec := { s.sec with fuseSvn := max s.sec.fuseSvn s.sec.fwSvn } } |> set (Reg.MB_H2P_PEND 2) (pend - 2) |> ringBell 2 2) s

end Sys2Proof.Machine
end

