-- ==== Sys2Proof/Machine/Detectors.lean ====
section
/-!
DEFINITION. Commands of fault injection, user calibration, self-test and telemetry (15 R514 to R532).
-/
namespace Sys2Proof.Machine
open State

/-! Injection (R514 to R516, R530). -/

/-- The bits of INJ_SEL.TARGET that a point uses (R514). -/
def injTarget (point target : Nat) : Nat :=
  match point with
  | 0x1 | 0x2 => target
  | 0x3 | 0x4 | 0xB | 0xC => target % 2048
  | 0x7 => target % 32
  | 0x8 | 0x9 | 0xA => target % 256
  | 0xE => target % 64
  | 0xF => target % 16
  | _ => 0

/-- Whether a target exists and applies to its point: a tread in an array role for 0x01, a flight with a role for 0x0B, an open
channel for 0x0A; a fenced tread or flight does not (R515). -/
def State.targetOk (s : State) (point t addr : Nat) : Bool :=
  match point with
  | 0x1 => treadOk t && !s.treadFenced t && !s.flightFenced (treadGf t) && (s.flightRole? (treadGf t)).isSome
      && (s.logCol? (treadGf t) (treadRow t) (treadCol t)).isSome
  | 0x2 => treadOk t && !s.treadFenced t && (!bit addr 16 || decide (bits addr 2 12 < 1024))
  | 0x3 | 0x4 | 0xC => gfOk t && !s.flightFenced t
  | 0xB => gfOk t && !s.flightFenced t && (s.flightRole? t).isSome
  | 0x5 | 0x6 => decide (addr < yuseonSize)
  | 0x7 => ropeOk t
  | 0x8 => ropeOk (t % 32)
  | 0x9 => bundleOk t
  | 0xA => ropeOk (t % 32) && (s.vchan (t % 32) (t / 32)).part.isSome
  | 0xD => true
  | 0xE => moduleOk (t % 8)
  | 0xF => decide (t < 13)
  | _ => false

/-- Hits after which a point's injection ends; 0 for one that only DISARM ends (R514). -/
def injHits (point count : Nat) : Nat :=
  match point with
  | 0x6 | 0xE => 1
  | 0xC | 0xD | 0xF => 0
  | _ => max 1 count

/-- An ARM: the injection is armed, or refused with a cause. -/
def armInjection (count : Nat) (s : State) : State :=
  let pt := s.get Reg.INJ_SEL_POINT
  let t := injTarget pt (s.get Reg.INJ_SEL_TARGET)
  let addr := s.get Reg.INJ_ADDR_ADDR
  let refuse (c : Nat) : State := s |> set Reg.INJ_STATUS_STATE 3 |> set Reg.INJ_STATUS_CAUSE c
  if !s.on Reg.DBG_STATUS_UNLOCKED then refuse 1
  else if s.det.armed.isSome then refuse 2
  else if !s.targetOk pt t addr then refuse 3
  else
    { s with det := { s.det with armed := some ⟨pt, t, addr, s.get Reg.INJ_VALUE_VALUE, injHits pt count⟩ } }
      |> set Reg.INJ_STATUS_STATE 1 |> set Reg.INJ_STATUS_CAUSE 0 |> set Reg.INJ_STATUS_HITS 0

/-- A DISARM: the injection ends, and a converter that it failed is enabled again. -/
def disarmInjection (s : State) : State :=
  if s.det.armed.isNone then s
  else
    let s := match s.power.injFailed with
      | none => s
      | some k =>
        let left := s.power.failed.filter (· != k)
        { s with power := { s.power with failed := left, injFailed := none } }
          |> set Reg.PWR_STATUS_CONV_WORKING (13 - left.length) |> formBudget
    endInjection s

/-- A write of INJ_CTRL. -/
def injCtrl (value : Nat) (s : State) : State :=
  let s := if bit value 31 then armInjection (bits value 0 16) s else s
  if bit value 30 then disarmInjection s else s

/-- INJ_ARM: a write of INJ_CTRL.ARM. -/
def execInjArm (value : W32) (s : State) : Result :=
  perform true (whenUp fun s => if bit value.toNat 31 then injCtrl value.toNat s else s) s

/-- INJ_DISARM: a write of INJ_CTRL.DISARM. -/
def execInjDisarm (value : W32) (s : State) : Result :=
  perform true (whenUp fun s => if bit value.toNat 30 then injCtrl value.toNat s else s) s

/-! User calibration (R522, R523, R532). -/

/-- Whether CAL_SEL names a flight or converter of its kind. -/
def State.calTarget (s : State) : Bool :=
  s.calSelected && decide (s.get Reg.CAL_SEL_INDEX < if s.get Reg.CAL_SEL_KIND = 4 then 13 else 1184)

/-- CAL_APPLY: the selected record is journaled and its clamped value put in force; one outside its clamp is reported. -/
def execCalApply (value : W32) (s : State) : Result :=
  perform true (whenUp fun s =>
    if !bit value.toNat 31 || s.on Reg.CAL_STATUS_BUSY || !s.calTarget then s
    else
      let kind := s.get Reg.CAL_SEL_KIND
      let i := s.get Reg.CAL_SEL_INDEX
      let key := kind * 4096 + i
      let v := s.calUser kind i
      let s := journalWrite 6 key (leBytes 2 (ofSigned 16 v)) s
      let s := { s with det := { s.det with applied := tset 0 s.det.applied key v } }
      if outsideClamp kind v then raise0 Ev.calClamped [key, ofSigned 32 v, ofSigned 32 (s.calInForce kind i)] s else s) s

/-! Telemetry (R527). -/

/-- TELEMETRY_CONSUMER: the host's bit says that CONSUMER, which now reads `consumer`, has moved. -/
def execTelemetryConsumer (consumer : W64) (s : State) : Result :=
  perform true (fun s =>
    let pend := s.get (Reg.MB_H2P_PEND 1)
    if !bit pend 0 then s
    else { s with det := { s.det with consumer := consumer.toNat } } |> set (Reg.MB_H2P_PEND 1) (pend - 1)) s

/-! Start-up (R524 to R526; 13 R479, R481; 00 R11). -/

/-- The journal records of J fields at a start (13 R480); USER_CAL, whose records have no fixed number, stands once. -/
def jRecords : List (Nat × Nat) :=
  [(1, 0), (2, 0), (6, 0), (8, 0)] ++ (upFrom 0 16).map (fun u => (4, u)) ++ (upFrom 0 8).map (fun p => (7, p))
    ++ (upFrom 0 8).map fun p => (9, p)

/-- Whether the record of a J field is absent; of USER_CAL, whether all are (log 28). -/
def Journal.lacks (j : Journal) (k : Nat × Nat) : Bool :=
  if k.1 = 6 then !j.applied.any fun r => r.type == 6 else (j.latest k.1 k.2).isNone

/-- The body of the record in force. -/
def Journal.body? (j : Journal) (type key : Nat) : Option (List Byte) := (j.latest type key).map JrnRec.body

/-- What a record puts in force, if there is one. -/
def withRecord (type key : Nat) (f : List Byte → State → State) (s : State) : State :=
  match s.journal.body? type key with
  | some b => f b s
  | none => s

/-- A tread that the fence map names. -/
def restoreTread (t : Nat) (s : State) : State :=
  let k := treadGf t * 16 + treadRow t
  let byte := if treadCol t = 16 then 0x5F else 0x80 + treadCol t
  let f := s.fence
  { s with fence := { f with treads := tset 0 f.treads t (if s.rowFenced (treadGf t) (treadRow t) then 3 else 1)
                             rows := if tget 0x1F f.rows k = 0x1F then tset 0x1F f.rows k byte else f.rows } }
    |> setTread t { Tread.init with st := .fenced }

/-- The fence map of a FENCE_MAP record. -/
def restoreFences (b : List Byte) (s : State) : State :=
  (upFrom 1 (min (leAt b 0 4) (b.length / 4))).foldl (fun s i =>
    let v := leAt b (4 * i) 4
    if bit v 31 then { s with fence := { s.fence with flights := tset 0 s.fence.flights (v % 2048) 1 } }
    else restoreTread v s) s

/-- The splices of a SPLICE_MAP record. -/
def restoreSplices (n : Nat) (b : List Byte) (s : State) : State :=
  (splicesOf b).foldl (fun s x => showSplice n x.1 x.2.1 x.2.2 s) (s.setBundle n { s.bundle n with spl := splicesOf b })

/-- The replaced rows of a MEM_REPAIR record. -/
def restoreRepairs (u : Nat) (b : List Byte) (s : State) : State :=
  let rows := (upFrom 0 (b.length / 8)).map fun i => leAt b (8 * i) 8
  let used := rows.foldl (fun m r => tset 0 m (Config.dramDie r) (tget 0 m (Config.dramDie r) + 1)) []
  let s := s.setUc u { s.uc u with repaired := rows, spareUsed := used } |> set (Reg.UC_REPAIR_REPAIRS u) (min 255 rows.length)
  s.set (Reg.UC_REPAIR_SPARES_LEFT u) ((upFrom 0 16).foldl (fun m d => min m (s.sparesIn u d)) 64)

/-- A USER_CAL record. -/
def restoreCal (r : JrnRec) (s : State) : State :=
  let v := toSigned 16 (leAt r.body 0 2)
  { s with det := { s.det with user := tset 0 s.det.user r.key v, applied := tset 0 s.det.applied r.key v } }

/-- PKG_ID, the settings, the debug access counts and the availability totals as their records hold them. -/
def restoreId (b : List Byte) (s : State) : State := s.set Reg.PKG_ID_ID (leAt b 0 2)
def restoreSettings (b : List Byte) (s : State) : State :=
  s |> set Reg.PWR_BUDGET_HOST_W (leAt b 0 2) |> set Reg.THERM_CTRL_WARN_C (leAt b 2 2)
    |> set Reg.LASER_CFG_WARN_PCT (leAt b 4 2) |> set Reg.LASER_CFG_RATED_KH (leAt b 6 2) |> formBudget
def restoreDebug (p : Nat) (b : List Byte) (s : State) : State :=
  s |> set (Reg.DEBUG_READS_COUNT p) (leAt b 0 4) |> set (Reg.DEBUG_WRITES_COUNT p) (leAt b 4 4)
def restoreAvail (p : Nat) (b : List Byte) (s : State) : State :=
  s |> set (Reg.AVAIL_LOCAL_MS p) (leAt b 0 4) |> set (Reg.AVAIL_OTHER_MS p) (leAt b 4 4)

/-- Every record applied. -/
def applyRecords (s : State) : State :=
  let s := s |> withRecord 1 0 restoreId |> withRecord 8 0 restoreSettings |> withRecord 2 0 restoreFences
  let s := (upFrom 0 144).foldl (fun s n => withRecord 3 n (restoreSplices n) s) s
  let s := (upFrom 0 16).foldl (fun s u => withRecord 4 u (restoreRepairs u) s) s
  let s := allParts.foldl (fun s p => s |> withRecord 7 p (restoreDebug p) |> withRecord 9 p (restoreAvail p)) s
  (s.journal.applied.filter fun r => r.type == 6).foldl (fun s r => restoreCal r s) s

/-- The journal scanned: damaged records count as skipped, a compaction cut short begins again, records that are absent leave
their fields at their defaults, and with no COMPLETE header all do. -/
def scanJournal (s : State) : State :=
  let j := s.journal
  let cut (h : JrnHdr) : JrnHdr := if h.state = 1 then { h with state := 0 } else h
  let s := bump Reg.JRN_COUNTS_SKIPPED (j.records.filter fun r => !r.2).length s
  let s := if j.active.isNone then raise0 Ev.journalFault [] s else s
  let s := if j.copying then { s with journal := { j with hdr0 := cut j.hdr0, hdr1 := cut j.hdr1 }.compact } else s
  let s := (jRecords.filter s.journal.lacks).foldl (fun s k =>
    raise0 Ev.journalDefault [k.1 * 65536 + k.2] s) s
  applyRecords s

/-- Bundles at the end of phase 3: one that no command has tested or trained has passed and runs at full rate, at the width its
lane test left (log 82). -/
def bringUpBundles (s : State) : State :=
  (upFrom 0 144).foldl (fun s n =>
    if s.dieSt n = DS.active || s.dieSt n = DS.fenced then s
    else
      let w := (s.bundle n).width
      s |> beginTraining n |> set (Reg.DL_STATUS_STATE n) DS.active |> set (Reg.DL_STATUS_RATE n) 2 |> set (Reg.DL_STATUS_WIDTH n) w
        |> set (Reg.DL_STATUS_HALF n) (if w = 1 then (s.bundle n).half else 0) |> set (Reg.DL_STATUS_ATOMIC n) 1
        |> set (Reg.DL_STATUS_CHANNELS n) 0xF |> set (Reg.DL_CAP_MAJOR n) 1
        |> set (Reg.DL_CAP_GENERATION n) Config.dieGeneration.toNat |> set (Reg.DL_CAP_VENDOR n) Config.dieVendor.toNat) s

/-- READY: capacity is shown, and every enabled rope waits in DOWN to begin bring-up. -/
def beginReady (s : State) : State :=
  let s := { s with pkg := .ready } |> set Reg.SELFTEST_STATUS_PHASE 7 |> showCapacity
  (upFrom 0 18).foldl (fun s k => if s.on (Reg.ROPE_CTRL_ENABLE k) then ropeDown k s else s) s

/-- A phase failed for good. -/
def failSelfTest (n : Nat) (s : State) : State :=
  s |> set Reg.SELFTEST_STATUS_PHASE 0xF |> set Reg.SELFTEST_STATUS_FAIL_PHASE n |> packageFault |> raise0 Ev.selfTestFailed [n]

/-- What phase `n` finds: failed treads (phase 4), failed switchback buffers and knots (phases 4 and 5), the arrays of phase 5,
the sensors of phase 6. -/
def runPhase (n : Nat) (treads flights : List Nat) (wrong : List (Nat × Nat × Nat × Nat)) (readings : List (Nat × Int))
    (s : State) : State :=
  match n with
  | 2 => marchControl s
  | 3 => bringUpBundles s
  | 4 => flights.foldl (fun s g => fenceFlight g false s) (treads.foldl (fun s t => fenceTread t false s) s)
  | 5 => flights.foldl (fun s g => fenceFlight g false s) (checkArrays wrong s)
  | 6 => s |> takeReadings readings |> checkSensors
  | _ => s

/-- SELF_TEST_PHASE_COMPLETE: the phase in progress ends, with the treads that failed a march test or test image, the flights
whose switchback buffer or knot failed, the array elements that came out wrong, the sensors' readings, and whether a fault
ended it that no fence mends. In BOOT before a phase is shown, phase 1 is in progress (log 82). -/
def execSelfTestPhaseComplete (now : W64) (failed : FailedUnits) (found : Measured) (fatal : Bool) (s : State) : Result :=
  perform (failed.treads.all treadOk && failed.flights.all gfOk && found.wrong.all selfElemOk
      && found.readings.all fun x => gfOk x.1) (fun s =>
    if s.pkg != .boot then s
    else
      let s := at_ now s
      let n := max 1 (s.get Reg.SELFTEST_STATUS_PHASE)
      let s := if n = 1 && !fatal then scanJournal s else s
      let t0 := s.fence.treads.length
      let f0 := s.fence.flights.length
      let s := runPhase n failed.treads failed.flights found.wrong found.readings s
      let s := s |> bump Reg.SELFTEST_STATUS_TREADS_FENCED (s.fence.treads.length - t0)
        |> bump Reg.SELFTEST_STATUS_FLIGHTS_FENCED (s.fence.flights.length - f0)
      if fatal || decide (64 < s.fence.flights.length) then failSelfTest n s
      else if n = 6 then beginReady s
      else s.set Reg.SELFTEST_STATUS_PHASE (n + 1)) s

end Sys2Proof.Machine
end

