-- ==== Sys2Proof/Machine/HostPort.lean ====
section
/-!
DEFINITION. Host-port commands: the placement window, copy engines, event rings, detach and reattach, mailboxes
(12 R420 to R449).
-/
namespace Sys2Proof.Machine
open State

/-! The placement window (R425 to R428). -/

/-- The first check of R426 that entry `i` fails; 0 for none. -/
def State.plcError (s : State) (i : Nat) : Nat :=
  let p := s.get (Reg.PLC_CFG_PARTITION i)
  let base := s.get (Reg.PLC_BASE_BASE i) * 0x20_0000
  let n := s.plcLen i
  let lo := s.plcStart i
  let clash := (upFrom 0 64).any fun j => j != i && s.on (Reg.PLC_CFG_VALID j)
    && s.get (Reg.PLC_CFG_RID j) == s.get (Reg.PLC_CFG_RID i) && decide (s.plcStart j < lo + n)
    && decide (lo < s.plcStart j + s.plcLen j)
  if !(match (s.imageOf p).region? base n with
    | some g => g.placeable
    | none => false) then 1
  else if s.partState p ≠ partActive then 2
  else if clash then 3
  else if 2 ^ 36 < lo + n then 4
  else 0

/-- PLC_VALID_WRITE: a write of PLC_CFG; VALID 1 puts the entry in force once it passes its checks (R426). -/
def execPlcValidWrite (i : Nat) (value : W32) (s : State) : Result :=
  perform (decide (i < 64)) (fun s =>
    let v := value.toNat
    let s := s |> set (Reg.PLC_CFG_VALID i) 0 |> set (Reg.PLC_CFG_READ i) (bits v 30 1)
      |> set (Reg.PLC_CFG_WRITE i) (bits v 29 1) |> set (Reg.PLC_CFG_PARTITION i) (bits v 24 3)
      |> set (Reg.PLC_CFG_RID i) (bits v 0 16)
    if !bit v 31 then s
    else
      let e := s.plcError i
      if e = 0 then s.set (Reg.PLC_CFG_VALID i) 1
      else s |> set Reg.PLC_ERR_CODE e |> set Reg.PLC_ERR_ENTRY i) s

/-- A BAR4 access performed block by block until one fails. -/
def windowParts (a : Agent) (write : Bool) (bad : Tbl Nat) : List (Nat × Nat) → List Byte → List Byte → State →
    Nat × List Byte × State
  | [], _, acc, s => (FabSt.ok, acc, s)
  | (x, m) :: r, l, acc, s =>
    let q : FabReq := ⟨a, if write then opWrite else opRead, 0, m, x, l.take m⟩
    let c := s.fabCheck q
    if c ≠ FabSt.ok then (c, acc, fabError q c s)
    else
      let (st, d, s) := fabPerform bad q s
      if st = FabSt.ok then windowParts a write bad r (l.drop m) (acc ++ d) s else (st, acc, fabError q st s)

/-- BAR4_REQUEST: a memory request of requester `rid` at BAR4 offset `off`, decoded by a placement entry and performed as an
access of its partition, or an Unsupported Request (R425, R427). -/
def execBar4Request (rid : W16) (off : W64) (write : Bool) (size : Nat) (data : List Byte) (bad : List (Nat × Nat))
    (s : State) : Result :=
  perform true (fun s =>
    let o := off.toNat
    let entry := (upFrom 0 64).find? fun i => s.on (Reg.PLC_CFG_VALID i) && s.get (Reg.PLC_CFG_RID i) == rid.toNat
      && decide (s.plcStart i ≤ o) && decide (o < s.plcStart i + s.plcLen i)
      && (if write then s.on (Reg.PLC_CFG_WRITE i) else s.on (Reg.PLC_CFG_READ i))
    match entry with
    | none =>
      let s := s |> bump Reg.PLC_REJECT_COUNT 1 |> set Reg.PLC_REJECT_LAST_RID rid.toNat
      if write then logAdvisory 0 s else put .unsupported s
    | some i =>
      let p := s.get (Reg.PLC_CFG_PARTITION i)
      let n := if write then data.length else size
      let a := fabAddr (s.get Reg.PKG_ID_ID) 0 (s.get (Reg.PLC_BASE_BASE i) * 0x20_0000 + (o - s.plcStart i))
      let (st, d, s) := windowParts (.window p) write bad (blockParts (n / 256 + 2) a n) data [] s
      if write then s else s |> put (.status st) |> put (.bytes (if st = FabSt.ok then d else []))) s

/-! Copy engines (R430 to R438, R451). -/

/-- A descriptor's fields (R433). -/
def hceDesc (l : List Byte) : HceDesc :=
  let w (i : Nat) : Nat := ofLe ((l.drop (4 * i)).take 4)
  ⟨bits (w 0) 28 4, bit (w 0) 27, bit (w 0) 26, bits (w 0) 0 16, w 1, w 2 + 2 ^ 32 * w 3, w 4 + 2 ^ 32 * w 5, bit (w 7) 31,
   bits (w 0) 16 10 + w 6 + bits (w 7) 0 31⟩

/-- The DETAIL of the first descriptor error, 0 for none (R434). -/
def State.hceError (s : State) (e : Nat) (d : HceDesc) : Nat :=
  let copy := d.op == 1
  let cls := fabCls d.fabricAddr
  if 2 < d.op then 1
  else if (if copy then d.len = 0 || d.len % 4 ≠ 0 || 0x100_0000 < d.len else d.len ≠ 0) then 2
  else if d.hostAddr % 4 ≠ 0 || d.fabricAddr % 4 ≠ 0 then 3
  else if d.reserved ≠ 0 then 4
  else if copy then
    let push := hceIn e && cls == 2 && d.len == 32 && fabOff d.fabricAddr % 0x1_0000 == 0x8000
    if fabPkg d.fabricAddr = s.get Reg.PKG_ID_ID && (cls == 0 || push) then 0 else 5
  else if d.fabricAddr = 0 then 0 else 5

/-- Whether an engine may start the descriptor at HEAD: enabled, not stopped, an entry before TAIL, fewer than four in
flight, no FENCE among them (R431, R435, R436). -/
def State.hceReady (s : State) (e : Nat) : Bool :=
  let h := s.hce e
  s.on (Reg.HCE_CTRL_ENABLE e) && s.get (Reg.HCE_STATUS_STATE e) != 2 && !s.on (Reg.HCE_STATUS_DB_AHEAD e)
    && s.get (Reg.HCE_STATUS_HEAD e) != h.tail && decide (h.work.length < 4) && !(h.work.any fun w => w.desc.op == 2)
    && (match s.engineFn? e with
      | some f => s.attached f
      | none => false)

/-- A descriptor ended with a status: a failure stops the engine (R438). -/
def endDesc (e index status detail : Nat) (s : State) : State :=
  let h := s.hce e
  let s := s.setHce e { h with work := h.work.map fun w =>
    if w.index = index then { w with done := true, status := status, detail := detail } else w }
  if status = 0 then s
  else s |> set (Reg.HCE_STATUS_STATE e) 2 |> raise Ev.hceError (partStamp (s.enginePart e)) [e, index, status, detail]

/-- The entry at HEAD read from the descriptor ring in host memory (R431). -/
def readDesc (e : Nat) (s : State) : State :=
  put (.hostRead ((s.engineFn? e).getD 0) (s.get (Reg.HCE_RING_BASE e) * 4096 + 32 * s.get (Reg.HCE_STATUS_HEAD e)) 32) s

/-- The descriptor at HEAD, as its host read gives it, started when it is current and of a kind that the command takes: HEAD
moves on, and `act` does its work. -/
def startDesc (e : Nat) (kinds : Nat → Bool) (bytes : List Byte) (act : HceDesc → Nat → State → State) (s : State) : State :=
  let d := hceDesc bytes
  let h := s.hce e
  if !s.hceReady e || d.phase != h.phase || !kinds d.op then s
  else
    let i := s.get (Reg.HCE_STATUS_HEAD e)
    let next := (i + 1) % s.hceSize e
    let s := (readDesc e s).setHce e
        { h with phase := if next = 0 then !h.phase else h.phase, retries := 0, work := h.work ++ [⟨i, d, false, 0, 0, none⟩] }
      |> set (Reg.HCE_STATUS_HEAD e) next
    let err := s.hceError e d
    let s := if err ≠ 0 then endDesc e i 1 err s else act d i s
    showHce e s

/-- HCE_DOORBELL: TAIL written; DB_AHEAD is cleared, and the engine reads the entry at HEAD again (R431, R437). -/
def execHceDoorbell (who : Who) (e : Nat) (value : W32) (s : State) : Result :=
  perform (whoOk who && engineOk e) (fun s =>
    let fn := match who with
      | .vf n => vfNo n
      | _ => 0
    if s.vfDark who || !s.bar2Answers fn (0x8_0000 + e * 0x1000) then s
    else
      s.setHce e { s.hce e with tail := value.toNat % 2 ^ 16 % s.hceSize e, retries := 0 }
        |> set (Reg.HCE_STATUS_DB_AHEAD e) 0 |> showHce e) s

/-- HCE_NOP: the NOP at HEAD starts and has nothing to do. -/
def execHceNop (e : Nat) (desc : List Byte) (s : State) : Result :=
  perform (engineOk e) (startDesc e (· == 0) desc fun _ i s => endDesc e i 0 0 s) s

/-- The bytes of a COPY into the fabric written, as the engine's partition; a push window takes them as one access. -/
def hceWrite (e : Nat) (d : HceDesc) (data : List Byte) (bad : Tbl Nat) (s : State) : Nat × State :=
  let a := Agent.engine (s.enginePart e) e
  if fabCls d.fabricAddr = 2 then
    let (st, _, s) := windowParts a true bad [(d.fabricAddr, 32)] data [] s
    (st, s)
  else engWrite a bad 0 d.fabricAddr data s

/-- A COPY's bytes written and the descriptor ended with what came of it. -/
def copyIn (e i : Nat) (d : HceDesc) (data : List Byte) (bad : Tbl Nat) (s : State) : State :=
  let (st, s) := hceWrite e d (fit 0 d.len data) bad s
  if st = FabSt.ok then endDesc e i 0 0 s else endDesc e i 2 st s

/-- The bytes of a COPY with ORDER kept until the earlier descriptors' writes have been accepted. -/
def holdCopy (e i : Nat) (data : List Byte) (s : State) : State :=
  let h := s.hce e
  s.setHce e { h with work := h.work.map fun w => if w.index = i then { w with held := some data } else w }

/-- Whether a descriptor before ring index `i` has still to end. -/
def Hce.earlier (h : Hce) (i : Nat) : Bool := (h.work.takeWhile fun w => w.index != i).any fun w => !w.done

/-- What the host read of an HCE_IN COPY gives: a HOST_ERROR detail (0 OK) and the bytes. With ORDER the writes wait for those
of every earlier descriptor (R436). -/
def copyAnswer (e i : Nat) (d : HceDesc) (herr : Nat) (data : List Byte) (bad : Tbl Nat) (s : State) : State :=
  if herr ≠ 0 then endDesc e i 3 herr s
  else if d.order && (s.hce e).earlier i then holdCopy e i data s
  else copyIn e i d data bad s

/-- HCE_COPY: the COPY at HEAD, or a descriptor whose OP is refused. `answer` is what the host read gives HCE_IN; none while it
is outstanding. HCE_OUT reads the fabric and writes host memory (R430, R436). -/
def execHceCopy (e : Nat) (desc : List Byte) (answer : Option (Nat × List Byte)) (bad : List (Nat × Nat)) (s : State) :
    Result :=
  perform (engineOk e) (startDesc e (fun op => op == 1 || decide (2 < op)) desc fun d i s =>
    let fn := (s.engineFn? e).getD 0
    if hceIn e then
      let s := put (.hostRead fn d.hostAddr d.len) s
      match answer with
      | none => s
      | some (herr, data) => copyAnswer e i d herr data bad s
    else
      let (st, data, s) := engRead (.engine (s.enginePart e) e) bad (0, []) d.fabricAddr d.len s
      if st = FabSt.ok then s |> hostWrite fn d.hostAddr data (!d.order) |> endDesc e i 0 0
      else endDesc e i 2 st s) s

/-- HCE_FENCE: the FENCE at HEAD starts; on HCE_OUT it sends a zero-length read of HOST_ADDR. It ends when every earlier
descriptor has completed, and that read has returned (R436). -/
def execHceFence (e : Nat) (desc : List Byte) (s : State) : Result :=
  perform (engineOk e) (startDesc e (· == 2) desc fun d _ s =>
    if hceIn e then s else put (.hostRead ((s.engineFn? e).getD 0) d.hostAddr 0) s) s

/-- The oldest descriptor in flight ended where it can: a COPY's bytes that waited are written, `answer` is what an outstanding
host read returns, a FENCE needs nothing more on HCE_IN (R436). -/
def finishOldest (e : Nat) (answer : Option (Nat × List Byte)) (bad : Tbl Nat) (s : State) : State :=
  match (s.hce e).work with
  | [] => s
  | w :: _ =>
    if w.done then s
    else match w.held, answer with
      | some l, _ => copyIn e w.index w.desc l bad s
      | none, some (herr, data) =>
        if w.desc.op = 1 then copyAnswer e w.index w.desc herr data bad s
        else if herr ≠ 0 then endDesc e w.index 3 herr s
        else endDesc e w.index 0 0 s
      | none, none => if w.desc.op = 2 && hceIn e then endDesc e w.index 0 0 s else s

/-- The completion record of the oldest descriptor in flight, once it has ended (R434). -/
def completeOldest (e : Nat) (s : State) : State :=
  let h := s.hce e
  match h.work with
  | [] => s
  | w :: r =>
    if !w.done then s
    else
      let fn := (s.engineFn? e).getD 0
      let rec_ := leBytes 4 (place (b2n h.cplPhase) 31 1 + place w.status 24 4 + place w.detail 20 4 + place w.desc.tag 0 16)
        ++ leBytes 4 w.index ++ leBytes 8 0
      let last := w.index + 1 = s.hceSize e
      let s := s.setHce e { h with work := r, cplPhase := if last then !h.cplPhase else h.cplPhase }
        |> hostWrite fn (s.get (Reg.HCE_CPL_BASE e) * 4096 + 16 * w.index) rec_ false
        |> bump (Reg.HCE_COUNTS_DESCS e) 1
      let s := if w.desc.irq then put (.irq fn (vectorOf fn (s.get (Reg.BIND_HCE_VECTOR e)))) s else s
      showHce e s

/-- HCE_DESCRIPTOR_COMPLETE: the oldest descriptor in flight ends, with `answer` as what its outstanding host read returns, and
its completion record is written (R434 to R436). -/
def execHceDescriptorComplete (x : HceAnswer) (s : State) : Result :=
  perform (engineOk x.engine) (fun s => s |> finishOldest x.engine x.answer x.bad |> completeOldest x.engine) s

/-- HCE_DESCRIPTOR_RETRY: the entry at HEAD, read again, is not current; after eight retries the engine stops there (R437). -/
def execHceDescriptorRetry (e : Nat) (desc : List Byte) (s : State) : Result :=
  perform (engineOk e) (fun s =>
    let h := s.hce e
    if !s.hceReady e || (hceDesc desc).phase == h.phase then s
    else if h.retries < 7 then (readDesc e s).setHce e { h with retries := h.retries + 1 }
    else
      (readDesc e s).setHce e { h with retries := 0 } |> set (Reg.HCE_STATUS_DB_AHEAD e) 1 |> bump (Reg.HCE_COUNTS_DB_AHEADS e) 1
        |> raise Ev.doorbellAhead (partStamp (s.enginePart e)) [e, s.get (Reg.HCE_STATUS_HEAD e)] |> showHce e) s

/-- HCE_RESUME: a write of HCE_CTRL.RESUME restarts a stopped engine at HEAD (R438). -/
def execHceResume (who : Who) (e : Nat) (value : W32) (s : State) : Result :=
  perform (whoOk who && engineOk e) (whenUp fun s =>
    if s.vfDark who || !s.seesEngine who e || !bit value.toNat 30 || s.get (Reg.HCE_STATUS_STATE e) ≠ 2 then s
    else s |> set (Reg.HCE_STATUS_STATE e) 1 |> showHce e) s

/-- HCE_ENABLE: a change of HCE_CTRL.ENABLE; 0 to 1 sets HEAD to 0 and both phases to 1 (R451). -/
def execHceEnable (who : Who) (e : Nat) (value : W32) (s : State) : Result :=
  perform (whoOk who && engineOk e) (whenUp fun s =>
    if s.vfDark who || !s.seesEngine who e then s
    else
      let on := bit value.toNat 31
      let was := s.on (Reg.HCE_CTRL_ENABLE e)
      if on == was then s
      else if on then
        s.setHce e { s.hce e with tail := 0, phase := true, cplPhase := true, retries := 0 }
          |> set (Reg.HCE_CTRL_ENABLE e) 1 |> set (Reg.HCE_STATUS_HEAD e) 0 |> set (Reg.HCE_STATUS_STATE e) 0
          |> set (Reg.HCE_STATUS_DB_AHEAD e) 0 |> showHce e
      else s |> set (Reg.HCE_CTRL_ENABLE e) 0 |> showHce e) s

/-- COMPLETION_TIMEOUT: a host read outstanding for 50 ms: a rigging fetch of partition `n` fails, or the outstanding read
of engine `n` ends with HOST_ERROR (R420, R434, 03 R114). -/
def execCompletionTimeout (fetch : Bool) (n : Nat) (s : State) : Result :=
  perform (decide (n < (if fetch then 8 else 16))) (fun s =>
    if fetch then if s.ldState n = Ld.fetch then refuseLoad n (plainFail 0x20) s else s
    else match (s.hce n).work.find? fun w => !w.done && w.held.isNone && !(w.desc.op == 2 && hceIn n) with
      | some w => endDesc n w.index 3 3 s
      | none => s) s

/-! Event rings (R439 to R442, R446). -/

/-- The record that a ring takes next, with the ring after it: REATTACH, LOST, or the oldest that waits (R445, R446). -/
def EvRing.next (g : EvRing) : Option (Nat × List Byte × EvRing) :=
  if g.reattach then
    some (Ev.reattach, plainRest (reattachBody g.detachCause g.droppedDetached g.ended),
      { g with reattach := false, detachCause := 0, droppedDetached := 0, ended := [] })
  else if g.lost ≠ 0 then some (Ev.lost, plainRest [g.lost], { g with lost := 0 })
  else match g.pend with
    | [] => none
    | r :: l => some (r.code, recRest r, { g with pend := l })

/-- A record that finds no room: counted once until one fits. -/
def ringFull (f : Nat) (s : State) : State :=
  if (s.ring f).full then s else s.setRing f { s.ring f with full := true } |> bump (Reg.EVT_COUNTS_RING_FULL f) 1

/-- EVENT_RECORD_WRITE: the writer places what is next for a ring: a REATTACH record, a LOST record, or the oldest pending
one; without room it counts RING_FULL once and waits. -/
def execEventRecordWrite (f : Nat) (s : State) : Result :=
  perform (fnOk f) (fun s =>
    let g := s.ring f
    if !s.on (Reg.EVT_CFG_ENABLE f) || !s.attached f then s
    else
      match g.next with
      | none => s
      | some (code, rest, g') =>
        match placeRecord f code rest (s.setRing f g') with
        | none => ringFull f s
        | some s => signalRing f s) s

/-- EVT_HEAD_WRITE: the host has consumed records up to an offset (R441, R452). -/
def execEvtHeadWrite (who : Who) (f : Nat) (value : W32) (s : State) : Result :=
  perform (whoOk who && fnOk f) (fun s =>
    if s.vfDark who || !whoSeesFn who f then s
    else s.set (Reg.EVT_HEAD_HEAD f) (value.toNat % 2 ^ 24 / 16 * 16)) s

/-- EVT_ENABLE: a write of EVT_CFG; 0 to 1 sets both offsets to 0 and reattaches a detached function, which is then in D0
(R446, R452). `numVfs` is what the host's configuration of the functions set before it. -/
def execEvtEnable (who : Who) (f : Nat) (w : EvtWrite) (s : State) : Result :=
  perform (whoOk who && fnOk f) (fun s =>
    let s := setNumVfs w.numVfs s
    if s.vfDark who || !whoSeesFn who f then s
    else
      let v := w.value.toNat
      let was := s.on (Reg.EVT_CFG_ENABLE f)
      let s := s |> set (Reg.EVT_CFG_ENABLE f) (bits v 31 1) |> set (Reg.EVT_CFG_IRQ_EN f) (bits v 30 1)
        |> set (Reg.EVT_CFG_VECTOR f) (bits v 0 10)
      if was || !bit v 31 then s
      else
        let g := s.ring f
        let back := g.detached ≠ 0
        let s := { s with pcie := { s.pcie with d3 := s.pcie.d3.filter (· != f) } }
        s.setRing f { g with phase := true, full := false, detached := 0
                             detachCause := if back then g.detached else g.detachCause, reattach := back || g.reattach }
          |> set (Reg.EVT_HEAD_HEAD f) 0 |> set (Reg.EVT_TAIL_TAIL f) 0 |> showDetached) s

/-! Detach and the link (R420, R443 to R445). -/

/-- The link state shown. -/
def showLink (st : Nat) (s : State) : State :=
  let s := s.set Reg.HP_STATUS_LINK st
  if st = 2 then s else s |> set Reg.HP_STATUS_SPEED 0 |> set Reg.HP_STATUS_WIDTH 0 |> set Reg.HP_STATUS_FLIT 0

/-- DL_DOWN: the data link goes down; every function is detached. -/
def execDlDown (s : State) : Result := perform true (fun s => s |> detach 1 allFns |> showLink 0) s

/-- HOT_RESET: every function is detached, and the link trains again. -/
def execHotReset (s : State) : Result := perform true (fun s => s |> detach 2 allFns |> showLink 1) s

/-- PERST_ASSERT: PERST# driven low; every function is detached, and the host port alone is reset (R445, 16 R534). -/
def execPerstAssert (s : State) : Result :=
  perform true (fun s =>
    if !s.pins.perstN then s
    else { s with pins := { s.pins with perstN := false } } |> detach 3 allFns |> showLink 0) s

/-- PERST_RELEASE: PERST# released; the host port begins to train. -/
def execPerstRelease (s : State) : Result :=
  perform true (fun s => if s.pins.perstN then s else { s with pins := { s.pins with perstN := true } } |> showLink 1) s

/-- FUNCTION_LEVEL_RESET: that function is detached; a reset of the physical function detaches all. -/
def execFunctionLevelReset (f : Nat) (s : State) : Result := perform (fnOk f) (detach 4 (withVfs f)) s

/-- D3HOT_ENTRY: that function is detached; the physical function's entry detaches all (R444). -/
def execD3hotEntry (f : Nat) (s : State) : Result := perform (fnOk f) (detach 5 (withVfs f)) s

/-- LINK_RECOVERY: a recovery without DL_Down is counted and changes nothing else (R443). -/
def execLinkRecovery (s : State) : Result := perform true (bump Reg.HP_COUNTS_RETRAINS 1) s

/-- HOST_LINK_TRAINED: training ends at a rate code and a width; one below x8 is reported (R420, R455). The host then
configures the functions, with `numVfs` virtual ones. -/
def execHostLinkTrained (speed width : Nat) (mode : LinkMode) (s : State) : Result :=
  perform (decide (1 ≤ speed) && decide (speed ≤ 6) && [1, 2, 4, 8, 16].contains width) (fun s =>
    if !s.pins.perstN then s
    else
      let s := s |> showLink 2 |> set Reg.HP_STATUS_SPEED speed |> set Reg.HP_STATUS_WIDTH width
        |> set Reg.HP_STATUS_FLIT (b2n mode.flit) |> setNumVfs mode.numVfs
      if width < 8 then raise0 Ev.hostLinkDegraded [width, speed] s else s) s

/-- DOE_DISCOVERY: the data object at an index of a function's DOE mailbox: DOE discovery, then SPDM. The answer is the PCIe
standard's word: next index, protocol, vendor 0x0001; an index beyond the last answers vendor 0xFFFF (log 64). -/
def execDoeDiscovery (f index : Nat) (s : State) : Result :=
  perform (fnOk f) (put (.value (match index with
    | 0 => place 1 24 8 + place 0 16 8 + 1
    | 1 => place 2 24 8 + place 1 16 8 + 1
    | 2 => place 0 24 8 + place 2 16 8 + 1
    | _ => 0xFFFF))) s

/-! Mailboxes (R447, R448; 13 R456). -/

/-- Whether a requester reaches a mailbox page. -/
def State.seesMailbox (s : State) (w : Who) (c : Nat) : Bool :=
  match w with
  | .pf | .firmware => s.bar2Answers 0 (c * 0x2000)
  | .vf n => s.bar2Answers (vfNo n) (c * 0x2000)
  | .core _ => false

/-- MB_H2P_WRITE: bits added to a channel's pending set; a channel without a service that takes them keeps none (R447, 13
R456). -/
def execMbH2pWrite (who : Who) (c : Nat) (value : W32) (s : State) : Result :=
  perform (whoOk who && channelOk c) (fun s =>
    if s.vfDark who || !s.seesMailbox who c || 3 ≤ c then s
    else s.set (Reg.MB_H2P_PEND c) (s.get (Reg.MB_H2P_PEND c) ||| value.toNat)) s

/-- The vector signalled again while an unmasked bit is set (R448). -/
def resignal (c : Nat) (s : State) : State :=
  if s.get (Reg.MB_P2H c) &&& (s.get (Reg.MB_P2H_MASK c) ^^^ 0xFFFF_FFFF) = 0 then s else signalMailbox c s

/-- MB_P2H_CLEAR: a write-one-to-clear write of the doorbell bits; `sets` are those the package sets in the same access. -/
def execMbP2hClear (who : Who) (c : Nat) (value sets : W32) (s : State) : Result :=
  perform (whoOk who && channelOk c) (fun s =>
    let f := Reg.MB_P2H c
    if s.vfDark who || !s.seesMailbox who c then s.set f (s.get f ||| sets.toNat)
    else
      s.set f ((s.get f &&& (value.toNat ^^^ 0xFFFF_FFFF)) ||| sets.toNat) |> resignal c) s

/-- MB_P2H_MASK_WRITE: a set mask bit raises no interrupt (R447, R448). -/
def execMbP2hMaskWrite (who : Who) (c : Nat) (value : W32) (s : State) : Result :=
  perform (whoOk who && channelOk c) (fun s =>
    if s.vfDark who || !s.seesMailbox who c then s
    else s.set (Reg.MB_P2H_MASK c) value.toNat |> resignal c) s

end Sys2Proof.Machine
end

