-- ==== Sys2Proof/Machine/Pins.lean ====
section
/-!
DEFINITION. Commands of the package's pins: power sequencing, reset, reference clocks, management sensors and the test port
(16 R538 to R548).
-/
namespace Sys2Proof.Machine
open State

/-! What survives (R542). -/

/-- Every register, lock, key and in-flight record lost. What stays: the journal store, the SVN fuses, the debug unlocks since
production, the pins as they are driven, and, of the model's own fields, the ports and the free values taken. -/
def wipe (s : State) : State :=
  { State.reset with
    journal := s.journal, free := s.free, out := s.out
    pins := { s.pins with faultN := true }
    power := { Power.init with convertersOn := s.power.convertersOn }
    sec := { Sec.init with fuseSvn := s.sec.fuseSvn, unlocks := s.sec.unlocks } }

/-- An output pin that changed its level is driven. -/
def drive (p : OutPin) (old new : Bool) (s : State) : State := if old == new then s else put (.pin p new) s

/-- Everything lost, and FAULT_N released. -/
def loseState (s : State) : State := drive .faultN s.pins.faultN true (wipe s)

/-- A power-on reset (R543, R544): BOOT from reset values, a challenge drawn, the host port training once PERST# is released. -/
def powerOnReset (s : State) : State :=
  let s := s |> loseState |> drawChallenge
  if s.pins.perstN then showLink 1 s else s

/-! Power sequencing (R544 to R548). -/

/-- The converters' soft-start begins. -/
def powerUp (s : State) : State := { s with power := { s.power with convertersOn := true } }

/-- PWR_EN_RISE: power-up begins, or waits for the end of a power-down and of its 100 ms (R547). -/
def execPwrEnRise (s : State) : Result :=
  perform true (fun s =>
    if s.pins.pwrEn then s
    else
      let s := { s with pins := { s.pins with pwrEn := true } }
      if s.pins.falling || s.pins.holdOff then { s with pins := { s.pins with riseWaits := true } } else powerUp s) s

/-- POWER_UP_HOLDOFF_END: the 100 ms since PWR_GOOD fell have passed; a rise that waits takes effect. -/
def execPowerUpHoldoffEnd (s : State) : Result :=
  perform true (fun s =>
    if !s.pins.holdOff then s
    else
      let go := s.pins.riseWaits
      let s := { s with pins := { s.pins with holdOff := false, riseWaits := false } }
      if go then powerUp s else s) s

/-- PWR_GOOD_RISE: the fixed domains are up and the PLLs locked; a PKG_RST_N released before takes effect now (R545). -/
def execPwrGoodRise (s : State) : Result :=
  perform true (fun s =>
    if s.pins.pwrGood || !s.pins.pwrEn || !s.power.convertersOn || s.pins.falling then s
    else
      let s := { s with pins := { s.pins with pwrGood := true } } |> put (.pin .pwrGood true)
      if s.pins.pkgRstN then powerOnReset s else s) s

/-- PKG_RST_RELEASE: MGMT_SEL is sampled; with PWR_GOOD high this is a power-on reset (R539, R543). -/
def execPkgRstRelease (mgmtSel : Bool) (s : State) : Result :=
  perform true (fun s =>
    if s.pins.pkgRstN then s
    else
      let s := { s with pins := { s.pins with pkgRstN := true, mgmtI3c := mgmtSel } }
      if s.pins.pwrGood then powerOnReset s else s) s

/-- PKG_RST_ASSERT: all volatile state is lost (R542). -/
def execPkgRstAssert (s : State) : Result :=
  perform true (fun s =>
    if !s.pins.pkgRstN then s else loseState { s with pins := { s.pins with pkgRstN := false } }) s

/-- PWR_EN_FALL: admission stops at once and every flight domain turns OFF (R546); the journal record of the command before
is already whole. -/
def execPwrEnFall (s : State) : Result :=
  perform true (fun s =>
    if !s.pins.pwrEn then s
    else
      let s := { s with pins := { s.pins with pwrEn := false, riseWaits := false } }
      if !s.power.convertersOn || s.pins.falling then s
      else
        let s := { s with pins := { s.pins with falling := true } } |> holdAdmission
        allFlights.foldl (fun s g => flightOff g s) s) s

/-- PWR_GOOD_FALL: the power-down, or the loss of the converters (02 R52), is complete: nothing volatile is left, no line
is driven, and the 100 ms begin (R546 to R548). A rise of PWR_EN that waited takes effect when there are none to wait for. -/
def execPwrGoodFall (s : State) : Result :=
  perform true (fun s =>
    if !s.pins.falling && s.power.convertersOn then s
    else
      let was := s.pins
      let hold := was.pwrGood || was.holdOff
      let s := wipe { s with power := { s.power with convertersOn := was.riseWaits && !hold } }
      { s with pins := { s.pins with pwrGood := false, thermtripN := true, falling := false, holdOff := hold,
                                     riseWaits := was.riseWaits && hold } }
        |> drive .pwrGood was.pwrGood false |> drive .faultN was.faultN true |> drive .thermtripN was.thermtripN true) s

/-! Reference clocks (R538). -/

/-- REFCLK_FAB_LOSS: REFCLK_FAB, or the lock of a PLL that follows it, is lost: FAULT. No event code of 15 R512 names this
cause, so the ring gets no record of it (DESIGN CHOICE, log 91). -/
def execRefclkFabLoss (s : State) : Result := perform true packageFault s

/-- REFCLK_HOST_LOSS: the host link goes down and every function is detached. -/
def execRefclkHostLoss (s : State) : Result := perform true (fun s => s |> detach 1 allFns |> showLink 0) s

/-! Management (R539, R540). -/

/-- A PLDM sensor. -/
def State.sensor (s : State) (n k : Nat) : Nat :=
  match n with
  | 0 => s.get Reg.PWR_INPUT_INPUT_W
  | 1 => s.get Reg.PWR_INPUT_INPUT_MV
  | 2 => s.get Reg.THERM_STATUS_HOTTEST_C
  | 3 => s.get Reg.PWR_STATUS_CONV_WORKING
  | 4 => s.get (Reg.LASER_STATUS_TEMP_C k)
  | 5 => s.pkg.code
  | _ => s.get (Reg.COMMITTED_STEP_STEP k)

/-- PLDM_GET_SENSOR: sensor `n` in the order of R540's table: 4 of laser module `k`, 6 of partition `k`; the endpoint answers from
50 ms after the release of PKG_RST_N. -/
def execPldmGetSensor (now : W64) (n k : Nat) (s : State) : Result :=
  perform (decide (n < 7) && decide (k < if n = 4 then 6 else 8)) (fun s =>
    let s := at_ now s
    if s.pldmUp then put (.value (s.sensor n k)) s else s) s

/-! The test port (R541). -/

/-- The IDCODE register. -/
def idcode : Nat := place (Config.stepping % 256 / 16) 28 4 + place 0xB816 12 16 + place Config.jep106 1 11 + 1

/-- An instruction of the test port: in SERVICE it is executed as BYPASS, which is 0. -/
def testPort (code : Nat) (s : State) : Result :=
  perform true (fun s => { s with det := { s.det with jtag := if s.pkg == .service then 0 else code } }) s

/-- The test-port instruction that acts on the pins: none in SERVICE. -/
def State.testActs (s : State) : Nat := if s.pkg == .service then 0 else s.det.jtag

/-- EXTEST. -/
def execExtest (s : State) : Result := testPort 1 s
/-- CLAMP. -/
def execClamp (s : State) : Result := testPort 2 s
/-- HIGHZ. -/
def execHighz (s : State) : Result := testPort 3 s

end Sys2Proof.Machine
end

