-- ==== Sys2Proof/Machine/Ropes.lean ====
section
/-!
DEFINITION. Rope commands: bring-up, flits sent and received, timers, limits and keys (10 R356 to R381, R386; 14 R498,
R507).
-/
namespace Sys2Proof.Machine
open State

/-! Bring-up (R359 to R361). -/

/-- ROPE_SIGNAL_LOCK: phase 1 ends with the strands of `mask` locked; too few leave the rope waiting for its retry. -/
def execRopeSignalLock (k : Nat) (mask : Byte) (s : State) : Result :=
  perform (ropeOk k) (whenUp fun s =>
    let r := s.rope k
    if r.phase ≠ 1 || (s.ropeSt k ≠ RS.down && s.ropeSt k ≠ RS.grace) then s
    else
      let m := mask.toNat &&& s.usable k
      if popcount8 m < s.minWidth k then s.setRope k (r.restart 0 0)
      else
        let s := s.setRope k (r.restart 2 m)
        if s.ropeSt k = RS.down then setRopeSt k RS.training s else s) s

/-- ROPE_TRAIN_RETRY: a rope that stayed DOWN, or in GRACE, for want of strands begins phase 1 again (R359). -/
def execRopeTrainRetry (k : Nat) (s : State) : Result :=
  perform (ropeOk k) (whenUp fun s =>
    if s.ropeSt k = RS.grace then
      if (s.rope k).phase = 0 then s.setRope k { s.rope k with phase := 1 } else s
    else wakeRope k s) s

/-- ROPE_GRACE_EXPIRY: GRACE has outlasted GRACE_US; the end flushes and bring-up starts afresh (R381). -/
def execRopeGraceExpiry (k : Nat) (now : W64) (s : State) : Result :=
  perform (ropeOk k) (fun s =>
    let s := ropeAt k now s
    match (s.rope k).grace with
    | some t => if s.ropeSt k = RS.grace && t + s.graceNs k ≤ s.timer k then loseRope k s else s
    | none => s) s

/-- STRAND_LOCK_LOSS: the strands of `mask` lose lock. Some of the active set are dropped; when all lose lock, none is, and
all may come back in the retrain (R361, R380). -/
def execStrandLockLoss (k : Nat) (mask : Byte) (now : W64) (s : State) : Result :=
  perform (ropeOk k) (fun s =>
    let s := ropeAt k now s
    let a := s.get (Reg.ROPE_STATUS_ACTIVE k)
    let lost := mask.toNat &&& a
    if s.ropeSt k = RS.active then
      if lost = 0 then s
      else if lost = a then enterGrace k s
      else ((upFrom 0 8).filter fun j => bit lost j).foldl (fun s j => dropStrand k j s) s
    else
      let r := s.rope k
      let l := without r.locked mask.toNat
      if r.phase ≠ 2 || l = r.locked then s
      else
        let s := s.setRope k (r.restart (if l = 0 then 1 else 2) l)
        if l = 0 && s.ropeSt k = RS.training then setRopeSt k RS.down s else s) s

/-- ROPE_RETRAIN: software writes RETRAIN; dropped strands may enter the set again (R361, R380). -/
def execRopeRetrain (k : Nat) (value : W32) (now : W64) (s : State) : Result :=
  perform (ropeOk k) (whenUp fun s =>
    let v := value.toNat
    let s := ropeAt k now s |> set (Reg.ROPE_CTRL_MIN_WIDTH k) (bits v 24 4) |> set (Reg.ROPE_CTRL_STRAND_OFF k) (bits v 16 8)
      |> set (Reg.ROPE_CTRL_GRACE_US k) (bits v 0 16)
    if bit v 30 && bit v 31 && s.on (Reg.ROPE_CTRL_ENABLE k) && s.ropeSt k == RS.active then
      s.setRope k { s.rope k with dropped := 0 } |> enterGrace k
    else s) s

/-- ROPE_DISABLE: ENABLE 0 flushes the rope and holds it OFF; its tree edges' peers are lost (R386, 13 R474). -/
def execRopeDisable (k : Nat) (value : W32) (s : State) : Result :=
  perform (ropeOk k) (whenUp fun s =>
    let v := value.toNat
    let s := s |> set (Reg.ROPE_CTRL_MIN_WIDTH k) (bits v 24 4) |> set (Reg.ROPE_CTRL_STRAND_OFF k) (bits v 16 8)
      |> set (Reg.ROPE_CTRL_GRACE_US k) (bits v 0 16)
    if bit v 31 || s.ropeSt k = RS.off then set (Reg.ROPE_CTRL_ENABLE k) (b2n (bit v 31)) s
    else
      let s := s |> set (Reg.ROPE_CTRL_ENABLE k) 0 |> flushRope k |> ropeDown k |> setRopeSt k RS.off |> edgesLost k
      s.setRope k { s.rope k with phase := 0 }) s

/-- ROPE_ENABLE: ENABLE 1 takes a rope out of OFF and starts its bring-up (R386). -/
def execRopeEnable (k : Nat) (value : W32) (s : State) : Result :=
  perform (ropeOk k) (whenUp fun s =>
    let v := value.toNat
    let s := s |> set (Reg.ROPE_CTRL_MIN_WIDTH k) (bits v 24 4) |> set (Reg.ROPE_CTRL_STRAND_OFF k) (bits v 16 8)
      |> set (Reg.ROPE_CTRL_GRACE_US k) (bits v 0 16)
    if !bit v 31 then s
    else
      let s := s.set (Reg.ROPE_CTRL_ENABLE k) 1
      if s.ropeSt k = RS.off then ropeDown k s else s) s

/-- ROPE_VC_LIMIT_WRITE: a virtual channel's sender limit changes, and its counter by the same amount (R139, R370). -/
def execRopeVcLimitWrite (k v : Nat) (value : W32) (s : State) : Result :=
  perform (ropeOk k && vcOk v) (whenUp fun s =>
    let n := min 504 (value.toNat % 1024)
    let c := s.vchan k v
    setVchan k v { c with limit := n, credit := c.credit + ((n : Int) - (c.limit : Int)) } s) s

/-! Receiving (R358, R364 to R366, R369, R377, R379). -/

/-- The window closed: its registers loaded, the counts cleared, strands over their limit dropped, a warning (R379). -/
def closeWindow (k : Nat) (s : State) : State :=
  let r := s.rope k
  let n := 2 ^ max 16 (s.get (Reg.ROPE_BER_CFG_WINDOW_LOG2 k))
  if r.winFlits < n then s
  else
    let lim := s.get (Reg.ROPE_BER_CFG_UNCORR_MAX k)
    let above := (upFrom 0 8).filter fun j => decide (lim < lget 0 r.winUncorr j)
    let warn := decide (s.get (Reg.ROPE_BER_CFG_CORR_WARN k) * 1024 < r.winCorr)
    let s := s.setRope k r.dropWindow
      |> set (Reg.ROPE_BER_LAST_CORR_K k) (min 0xFFFF (r.winCorr / 1024)) |> set (Reg.ROPE_BER_LAST_BAD k) (min 0xFFFF r.winBad)
      |> set (Reg.ROPE_STRAND_ERR_UNCORR k) (((upFrom 0 8).map fun j => min 15 (lget 0 r.winUncorr j) * 16 ^ j).sum)
    let s := if warn then raise0 Ev.ropeBerWarn [k, r.winCorr] s else s
    above.foldl (fun s j => s |> raise0 Ev.ropeStrandDropped [k, j] |> dropStrand k j) s

/-- A received flit counted in the running window, with the symbols corrected in it and the strands whose codewords it
touches could not be corrected. A window that is full closes first. -/
def countFlit (k : Nat) (bad : Bool) (corr : Nat) (uncorr : List Nat) (s : State) : State :=
  let r := s.rope k
  s.setRope k { r with winFlits := r.winFlits + 1, winBad := r.winBad + b2n bad, winCorr := r.winCorr + corr,
                       winUncorr := r.winUncorr.zipIdx.map fun (n, j) => n + (uncorr.filter (· == j)).length }

/-- A receiver starts to wait for a replay (R365). -/
def waitReplay (k : Nat) (s : State) : State :=
  let r := s.rope k
  if r.waiting then s
  else s.setRope k { r with waiting := true, naks := 4 } |> bump (Reg.ROPE_COUNTS_NAKS k) 1

/-- The credit fields of a flit applied to the sender's counter (R369). -/
def takeCredit (k : Nat) (h : FlitHdr) (s : State) : State :=
  let v := if h.type = FT.control && h.crVc = 0 then 8 else h.crVc
  let c := s.vchan k v
  setVchan k v { c with credit := c.credit + (seqSub 12 h.crCum c.cumSeen : Int), cumSeen := h.crCum } s

/-- The acknowledgement fields of a good flit (R366). -/
def takeAck (k : Nat) (h : FlitHdr) (s : State) : State :=
  if !h.ackValid then s
  else
    let s := s.setRope k ((s.rope k).acked h.ack)
    if h.nak && (s.rope k).replayFrom != some h.ack then startReplay k h.ack s else s

/-- The expected flit accepted: the wait ends, and the NAKs that it began are still sent (R365). -/
def accepted (k : Nat) (s : State) : State :=
  let r := s.rope k
  s.setRope k { r with rxExpect := (r.rxExpect + 1) % 4096, waiting := false }

/-- The expected sequenced flit: accepted, or discarded as bad at the first failure of its tag; at the second its channel
closes, and it counts as freed (R377). The control channel's failure takes the rope down. -/
def takeSequenced (k v : Nat) (h : FlitHdr) (f : List Byte) (s : State) : State :=
  let c := s.vchan k v
  let take (s : State) : State := s |> takeAck k h |> takeCredit k h |> clearOldSlots k
  if v < 8 && c.part.isNone then
    setVchan k v { c with early := c.early ++ [f] } s |> accepted k |> take
  else match s.openFlit k v f with
    | some (c, m) => setVchan k v { c.buffer m with badTag := none } s |> accepted k |> take
    | none =>
      let s := s.setRope k { s.rope k with winBad := (s.rope k).winBad + 1 }
      if c.badTag ≠ some h.seq then setVchan k v { c with badTag := some h.seq } s |> waitReplay k
      else if v = 8 then s |> raise0 Ev.ropeAuthFail [k, 8] |> loseRope k
      else setVchan k v { c with freed := (c.freed + 1) % 4096, badTag := none } s |> accepted k |> take |> authFail k v

/-- A flit as it comes in on an ACTIVE rope; `types` are those that the command takes. -/
def receiveFlit (types : List Nat) (k : Nat) (f : List Byte) (touched : Bool) (corr : Nat) (uncorr : List Nat)
    (s : State) : State :=
  if s.ropeSt k ≠ RS.active then s
  else
    let h := hdrOf f
    let bad := touched || flitBad f
    if !bad && !types.contains h.type then s
    else
      let s := s |> closeWindow k
      if s.ropeSt k ≠ RS.active then s
      else
        let s := countFlit k bad corr uncorr s
        if bad then waitReplay k s
        else if h.type = FT.idle then s |> takeAck k h |> takeCredit k h |> clearOldSlots k
        else
          let r := s.rope k
          if h.seq = r.rxExpect then takeSequenced k (if h.type = FT.control then 8 else h.vc) h f s
          else
            let s := s |> takeAck k h |> takeCredit k h |> clearOldSlots k
            if seqLater 12 h.seq r.rxExpect then waitReplay k s else bump (Reg.ROPE_COUNTS_DUPS k) 1 s

/-- DATA_FLIT: a DATA flit as received; `touched` says that it touches a codeword that could not be corrected, `corr` how
many symbols were corrected, `uncorr` the strands whose uncorrectable codewords are counted with it. -/
def execDataFlit (k : Nat) (now : W64) (flit : List Byte) (touched : Bool) (corr : Nat) (uncorr : List Nat) (s : State) : Result :=
  perform (flitOk k uncorr) (fun s => receiveFlit [FT.data] k flit touched corr uncorr (ropeAt k now s)) s

/-- CONTROL_FLIT: a CONTROL flit as received; its messages go to the newel firmware. -/
def execControlFlit (k : Nat) (now : W64) (flit : List Byte) (touched : Bool) (corr : Nat) (uncorr : List Nat) (s : State) :
    Result :=
  perform (flitOk k uncorr) (fun s => receiveFlit [FT.control] k flit touched corr uncorr (ropeAt k now s)) s

/-- IDLE_FLIT: an IDLE flit's ACK, NAK and credit fields (R366, R369). -/
def execIdleFlit (k : Nat) (now : W64) (flit : List Byte) (touched : Bool) (corr : Nat) (uncorr : List Nat) (s : State) : Result :=
  perform (flitOk k uncorr) (fun s => receiveFlit [FT.idle] k flit touched corr uncorr (ropeAt k now s)) s

/-- The peer's session told on an ACTIVE rope (R387; log 59). -/
def tellSession (k : Nat) (i : TrainInfo) (s : State) : State :=
  s.setRope k { s.rope k with told := i.session } |> showPeer k i

/-- TRAIN_FLIT: a TRAIN flit as received. While strands are exchanged it advances bring-up; on an ACTIVE rope it counts in
the window with every error it carries, acknowledges, and tells the peer's session (R360, R366, R379, R387). -/
def execTrainFlit (k : Nat) (now : W64) (flit : List Byte) (rx : Received) (s : State) :
    Result :=
  perform (flitOk k rx.uncorr) (fun s =>
    let s := ropeAt k now s
    let h := hdrOf flit
    let bad := rx.touched || flitBad flit || h.type != FT.train
    let i := trainOf flit
    if s.ropeSt k = RS.active then
      let s := s |> closeWindow k
      if s.ropeSt k ≠ RS.active then s
      else
        let s := countFlit k bad rx.corr rx.uncorr s
        if bad then waitReplay k s else s |> takeAck k h |> takeCredit k h |> clearOldSlots k |> tellSession k i
    else if (s.rope k).phase = 2 && !bad then trainArrived k i s
    else s) s

/-- REPLAY_TMO: held flits and no progress since the last send or replay; the sender replays from the oldest (R366). -/
def execReplayTmo (k : Nat) (now : W64) (s : State) : Result :=
  perform (ropeOk k) (fun s =>
    let s := ropeAt k now s
    let r := s.rope k
    match r.held with
    | h :: _ => if s.ropeSt k = RS.active && !r.ackMoved then startReplay k ((h.1 + 4095) % 4096) s else s
    | [] => s) s

/-- ERROR_WINDOW_CLOSE: the window that 2^WINDOW_LOG2 received flits have filled closes (R379). -/
def execErrorWindowClose (k : Nat) (now : W64) (s : State) : Result :=
  perform (ropeOk k) (fun s =>
    let s := ropeAt k now s
    if s.ropeSt k = RS.active then closeWindow k s else s) s

/-! Sending (R357, R358, R362, R363, R366, R369, R371, R374 to R376). -/

/-- The oldest entry that waits at the lowest-numbered ROPE_OUT landing of a channel becomes its next message. -/
def pullLanding (k v : Nat) (s : State) : State :=
  match (s.vchan k v).part with
  | none => s
  | some p =>
    let l := sortBy (fun (a b : LandCfg) => decide (a.num ≤ b.num))
      ((s.imageOf p).lands.filter fun c => c.kind == 1 && c.rope == k && c.vc == v)
    match l.find? fun c => !(s.landing c.num).wait.isEmpty with
    | none => s
    | some c =>
      let d := s.landing c.num
      match d.wait with
      | [] => s
      | e :: w => s.setLanding c.num { d with wait := w }
          |> sendJob p k v 0x01 (s.svc p).epoch c.num c.peerLanding e.bytes

/-- Whether a channel can send a new flit: it has a message, a credit and a counter value left. -/
def State.canSend (s : State) (k v : Nat) : Bool :=
  let c := s.vchan k v
  !c.tx.isEmpty && decide (0 < c.credit) && (v = 8 || c.part.isSome || c.txCut) && (!c.exhausted || c.next.isSome) && !c.muted

/-- Message bytes for a flit: messages back to back up to `n` bytes; the last may be cut. -/
def packTx : Nat → List (List Byte) → List Byte × List (List Byte) × Bool
  | _, [] => ([], [], false)
  | n, m :: r =>
    if n = 0 then ([], m :: r, false)
    else if m.length ≤ n then
      let (b, t, cut) := packTx (n - m.length) r
      (m ++ b, t, cut)
    else (m.take n, m.drop n :: r, true)

/-- The acknowledgement and credit fields of a flit as it leaves, and the state after they are told. Channels with an
unreported change come first, in turn; then the counts are told again in turn (R369). -/
def currentFields (k : Nat) (h : FlitHdr) (s : State) : FlitHdr × State :=
  let r := s.rope k
  let turn := (upFrom r.report 8).map (· % 8)
  let changed (v : Nat) : Bool := (s.vchan k v).freed != (s.vchan k v).reported
  let v := if h.type = FT.control then 8 else (turn.find? changed).getD r.report
  let c := s.vchan k v
  let h := { h with ack := (r.rxExpect + 4095) % 4096, ackValid := true, nak := decide (0 < r.naks),
                    crVc := v % 8, crCum := c.freed }
  let s := s.setRope k { r with naks := r.naks - 1, report := if v = 8 then r.report else (v + 1) % 8 }
  (h, setVchan k v { c with reported := c.freed } s)

/-- One 10-bit symbol dealt to the next of the active strands; a strand's 514th message symbol fills its codeword (R356). -/
def dealSymbol (on : List Nat) (a : Nat × List (List Nat) × List (Nat × List Nat)) (x : Nat) :
    Nat × List (List Nat) × List (Nat × List Nat) :=
  let (t, words, full) := a
  let j := lget 0 on t
  let w := x :: lget [] words j
  let t := (t + 1) % max 1 on.length
  if w.length = 514 then
    let m := w.reverse
    (t, lset words j [], full ++ [(j, m ++ fit 0 30 (Config.rsParity m))])
  else (t, lset words j w, full)

/-- A flit's bits striped over the active strands in symbols, first bits first, and the codewords that they fill (R356;
log 100). -/
def Rope.stripe (on : List Nat) (f : List Byte) (r : Rope) : Rope × List (Nat × List Nat) :=
  let n := r.ncarry + 8 * f.length
  let v := r.carry + ofLe f * 2 ^ r.ncarry
  let (t, words, full) := ((upFrom 0 (n / 10)).map fun i => bits v (10 * i) 10).foldl (dealSymbol on) (r.turn, r.words, [])
  ({ r with carry := v / 2 ^ (10 * (n / 10)), ncarry := n % 10, turn := t, words := words }, full)

/-- The active strands. -/
def State.strands (s : State) (k : Nat) : List Nat := (upFrom 0 8).filter fun j => bit (s.get (Reg.ROPE_STATUS_ACTIVE k)) j

/-- A flit put on the rope, and the codewords that its symbols fill, as armed injections change them (15 R514). -/
def emitFlit (k : Nat) (f : List Byte) (s : State) : State :=
  let h := hdrOf f
  let parts := s.ropeParts k
  let last := s.get Reg.INJ_LAST_SEQ_SEQ
  let tag := s.injected 0x0A (k + 32 * h.vc) && h.type == FT.data && h.enc
  let (f, s) := if tag then (spoilTag f, hitInjection last parts s) else (f, s)
  let (f, s) := if s.injected 0x07 k then (spoilCrc f, hitInjection last parts s) else (f, s)
  let (r, full) := (s.rope k).stripe (s.strands k) f
  let s := put (.flit k f) (s.setRope k r)
  full.foldl (fun s x =>
    let inj := s.injected 0x08 (k + 32 * x.1)
    let s := put (.codeword k x.1 x.2 inj) s
    if inj then hitInjection last parts s else s) s

/-- A held flit sent again, unchanged but for its current fields (R366). -/
def replayFlit (k seq : Nat) (s : State) : State :=
  let r := s.rope k
  match r.held.find? fun h => h.1 == seq with
  | none => s
  | some (_, _, f) =>
    let (h, s) := currentFields k (hdrOf f) s
    let r := s.rope k
    let next := (seq + 1) % 4096
    let more := r.held.any fun h => h.1 == next
    s.setRope k { r with replay := if more then some next else none, replayFrom := if more then r.replayFrom else none,
                         ackMoved := false }
      |> emitFlit k (flitOf h (flitBody f))

/-- An IDLE flit (R358). -/
def idleFlit (k : Nat) (s : State) : State :=
  let (h, s) := currentFields k default s
  emitFlit k (flitOf h []) s

/-- A first transmission on a channel (R362, R363, R369, R375, R378). A counter that would reach 2^48 stops the channel. -/
def newFlit (k v : Nat) (s : State) : State :=
  let c := s.vchan k v
  let i := c.sendSlot
  let key := c.keyAt i
  let n := c.txAt i
  if key ≠ 0 && n + 1 = 2 ^ 48 then
    setVchan k v { c with exhausted := true } s
      |> raise Ev.ropeKeyExhausted (match c.part with
          | some p => partStamp p
          | none => noStamp) [k, v]
      |> idleFlit k
  else
    let s := if v = 8 then journalNonce k s.fabEpoch n s else s
    let (m, tx, cut) := packTx (if key = 0 then 256 else 240) c.tx
    let r := s.rope k
    let h : FlitHdr := { (default : FlitHdr) with
      type := if v = 8 then FT.control else FT.data, vc := v % 8, seq := r.txNext, enc := key != 0,
      keyEpoch := if key = 0 then 0 else i, fill := m.length }
    let body := if key = 0 then m else sealBody key (nonceOf (s.get Reg.PKG_ID_ID) k v n) h m
    let c := { c with tx := tx, txCut := cut, credit := c.credit - 1, cur := i, next := none, exhausted := false }
    let c := if key = 0 then c else c.setTx i (n + 1)
    let s := setVchan k v c s
    let r := s.rope k
    let s := s.setRope k { r with held := r.held ++ [(r.txNext, v, flitOf h body)], txNext := (r.txNext + 1) % 4096,
                                  ackMoved := false }
    let (h, s) := currentFields k h s
    s |> emitFlit k (flitOf h body) |> clearOldSlots k

/-- The landings' entries pulled into the channels that have nothing to send. -/
def pullAll (k : Nat) (s : State) : State :=
  (upFrom 0 8).foldl (fun s v => if (s.vchan k v).tx.isEmpty then pullLanding k v s else s) s

/-- A flit of an ACTIVE rope that has no replay to send: a message of the first channel that may send, from `first` on, or an
idle flit. -/
def freshFlit (k first : Nat) (s : State) : State :=
  if 1024 ≤ (s.rope k).held.length then idleFlit k s
  else
    let s := pullAll k s
    match ((upFrom first 9).map (· % 9)).find? fun v => s.canSend k v with
    | some v => newFlit k v s
    | none => idleFlit k s

/-- FLIT_SEND: what the rope sends in one flit time: a TRAIN flit in bring-up, which may end it, a replay, a new flit of the first channel
from `first` on that can send, or IDLE. The order among channels is the command's (log 60). -/
def execFlitSend (k first : Nat) (s : State) : Result :=
  perform (ropeOk k && decide (first < 9)) (fun s =>
    let r := s.rope k
    if s.ropeSt k = RS.active then
      if r.tell then s.setRope k { r with tell := false, naks := r.naks - 1 } |> put (.flit k (s.trainFlit k))
      else match r.replay with
        | some q => replayFlit k q s
        | none => freshFlit k first s
    else if r.phase = 2 then
      let s := put (.flit k (s.trainFlit k)) s
      s.setRope k { r with trained := true } |> finishTraining k
    else s) s

/-! Control messages of ropes and tenancy (14 R498, R507). -/

/-- ROPE_KEY_CHECK: the peer's first control message has passed its tag, so both ends hold one fabric secret. -/
def execRopeKeyCheck (k : Nat) (msg : List Byte) (s : State) : Result :=
  perform (ropeOk k) (fun s =>
    let s := tookMsg k 8 msg s
    s.setRope k { s.rope k with keyChecked := true }) s

/-- PART_UNAVAILABLE: a peer scrubs a partition; this package stops sending on the named channels of that job and declares
the peer lost (R507). -/
def execPartUnavailable (k : Nat) (msg : List Byte) (s : State) : Result :=
  perform (ropeOk k) (fun s =>
    let s := tookMsg k 8 msg s
    let mask := mAt msg 4 1
    match s.jobPart (mAt msg 0 4) with
    | none => s
    | some p =>
      let peer := s.get (Reg.ROPE_PEER_PEER_ID k)
      let s := ((s.openVcs p k).filter fun v => bit mask v).foldl (fun s v =>
        setVchan k v { s.vchan k v with muted := true } s) s
      s |> raise Ev.peerPartUnavailable (partStamp p) [mAt msg 0 4, peer, mask] |> peerLost p peer) s

end Sys2Proof.Machine
end

