-- ==== Sys2Proof/Machine/Spdm.lean ====
section
/-!
DEFINITION. SPDM requests on a function's DOE mailbox, and IDE key management (14 R490 to R495, R500, R506). The standard's own
message layouts are outside the spec: a request comes as the bytes its sender wrote, an ERROR answers as 0x100 + its code,
and a response without content as status 0 (log 78).
-/
namespace Sys2Proof.Machine
open State

/-! ERROR codes of the SPDM standard (log 78). -/
namespace SpdmErr
def invalidRequest : Nat := 0x101
def invalidSession : Nat := 0x102
def busy : Nat := 0x103
def unexpectedRequest : Nat := 0x104
def decryptError : Nat := 0x106
def sessionLimit : Nat := 0x10A
end SpdmErr

def State.spdm (s : State) (fn : Nat) : SpdmFn := tget SpdmFn.init s.sec.fns fn
def setSpdm (fn : Nat) (v : SpdmFn) (s : State) : State := { s with sec := { s.sec with fns := tset SpdmFn.init s.sec.fns fn v } }

/-- A request on a function whose negotiation has reached `stage`: a virtual function whose partition is scrubbed answers Busy
to every request (R506). -/
def spdmCmd (fn stage : Nat) (f : State → State) (s : State) : Result :=
  perform (fnOk fn) (fun s =>
    if s.doeBusy fn then put (.status SpdmErr.busy) s
    else if (s.spdm fn).stage < stage then put (.status SpdmErr.unexpectedRequest) s
    else f s) s

/-- A request answered with bytes; both join the transcript of the function's negotiation. -/
def answer (fn stage : Nat) (req rsp : List Byte) (s : State) : State :=
  let v := s.spdm fn
  s |> setSpdm fn { v with stage := stage, transcript := v.transcript ++ req ++ rsp } |> put (.bytes rsp)

/-- GET_VERSION: the one version served, SPDM 1.3; the negotiation of the function begins again (R492). -/
def execGetVersion (fn : Nat) (request : List Byte) (s : State) : Result :=
  spdmCmd fn 0 (fun s =>
    s |> setSpdm fn { s.spdm fn with stage := 0, transcript := [] } |> answer fn 1 request [0x00, 0x13]) s

/-- GET_CAPABILITIES. -/
def execGetCapabilities (fn : Nat) (request : List Byte) (s : State) : Result :=
  spdmCmd fn 1 (fun s => answer fn 2 request Config.spdmCapabilities s) s

/-- NEGOTIATE_ALGORITHMS: `offered` when the request offers the four algorithms that the package negotiates; any other choice is
refused (R492). -/
def execNegotiateAlgorithms (fn : Nat) (request : List Byte) (offered : Bool) (s : State) : Result :=
  spdmCmd fn 2 (fun s =>
    if offered then answer fn 3 request Config.spdmAlgorithms s else put (.status SpdmErr.invalidRequest) s) s

/-! Identity and measurements (R490, R493). -/

/-- The digests of measurements 0x01 to 0x03. -/
def State.tcb (s : State) : List Byte := fit 0 64 Config.bootRom ++ fit 0 64 s.sec.fwNewel ++ fit 0 64 s.sec.fwSec

/-- The certificate chain of slot 0. -/
def State.chain (s : State) : List Byte := Config.certChain s.tcb

/-- A measurement block's contents, its fields packed in the order in which R493 names them. -/
def State.measurement (s : State) (i : Nat) : Option (List Byte) :=
  if i = 1 then some (fit 0 64 Config.bootRom)
  else if i = 2 then some (fit 0 64 s.sec.fwNewel)
  else if i = 3 then some (fit 0 64 s.sec.fwSec)
  else if i = 4 then some (fit 0 64 Config.factoryDigest)
  else if i = 5 then
    some (leBytes 4 (s.wordAt 0x0) ++ leBytes 1 s.sec.fuseSvn ++ leBytes 1 s.sec.fwSvn ++ leBytes 4 (s.wordAt 0x4)
      ++ leBytes 1 (s.get Reg.BIND_CTRL_LOCK) ++ leBytes 2 ((s.sec.fab.map Prod.fst).getD 0))
  else if i = 6 then
    some ((upFrom 0 8).flatMap (fun w => leBytes 4 (s.get (Reg.DBG_KEY w))) ++ leBytes 1 (s.get Reg.DBG_CTRL_KEY_LOCK)
      ++ leBytes 4 s.sec.unlocks)
  else if 0x10 ≤ i && i < 0x18 then
    let p := i - 0x10
    some ((upFrom 0 16).flatMap fun w => leBytes 4 (if p ∈ s.loaded then s.get (Reg.RIG_MEASURE p w) else 0))
  else if 0x18 ≤ i && i < 0x20 then
    let p := i - 0x18
    let keys := (upFrom 0 4).flatMap fun k => tget [] s.sec.rigKeys (4 * p + k)
    some (leBytes 1 (s.partState p) ++ s.tenantId p ++ leBytes 4 (s.imageOf p).jobId ++ Config.shake256 keys 64
      ++ leBytes 4 (s.wordAt (Reg.PART_ALLOT_BASE_GIB p).base) ++ leBytes 4 (s.get (Reg.DEBUG_READS_COUNT p))
      ++ leBytes 4 (s.get (Reg.DEBUG_WRITES_COUNT p)) ++ leBytes 2 (((s.link p).cur.map Prod.fst).getD 0))
  else none

/-- The blocks that a function returns: a virtual function its own partition's, the physical function all. -/
def measured (fn : Nat) : List Nat :=
  upFrom 1 6 ++ if fn = 0 then upFrom 0x10 16 else [0x10 + (fn - 1), 0x18 + (fn - 1)]

/-- A block as reported: index, form (1 raw, 0 digest), length, contents. -/
def State.block (s : State) (i : Nat) : List Byte :=
  match s.measurement i with
  | none => []
  | some b => leBytes 1 i ++ leBytes 1 (b2n (i == 5 || i == 6 || decide (0x18 ≤ i))) ++ leBytes 2 b.length ++ b

/-- GET_DIGESTS: the digest of the one chain, in slot 0. -/
def execGetDigests (fn : Nat) (s : State) : Result :=
  spdmCmd fn 3 (fun s => put (.bytes (Config.shake256 s.chain 64)) s) s

/-- GET_CERTIFICATE: bytes of the chain of a slot; only slot 0 holds one. -/
def execGetCertificate (fn slot off len : Nat) (s : State) : Result :=
  spdmCmd fn 3 (fun s =>
    if slot ≠ 0 || s.chain.length < off then put (.status SpdmErr.invalidRequest) s
    else put (.bytes ((s.chain.drop off).take len)) s) s

/-- CHALLENGE: the alias key signs the negotiation, the chain's digest and the requester's nonce. -/
def execChallenge (fn slot : Nat) (request : List Byte) (s : State) : Result :=
  spdmCmd fn 3 (fun s =>
    if slot ≠ 0 then put (.status SpdmErr.invalidRequest) s
    else
      let d := Config.shake256 s.chain 64
      put (.bytes (d ++ Config.aliasSign s.tcb ((s.spdm fn).transcript ++ request ++ d))) s) s

/-- GET_MEASUREMENTS: block `index`, or all that the function returns when `index` is 0xFF, signed by the alias key. -/
def execGetMeasurements (fn index : Nat) (request : List Byte) (s : State) : Result :=
  spdmCmd fn 3 (fun s =>
    if index ≠ 0xFF && index ∉ measured fn then put (.status SpdmErr.invalidRequest) s
    else
      let l := (if index = 0xFF then measured fn else [index]).flatMap s.block
      put (.bytes (l ++ Config.aliasSign s.tcb ((s.spdm fn).transcript ++ request ++ l))) s) s

/-! Sessions (R492, R495). -/

/-- A session of a function changed; an unknown one answers InvalidSession. -/
def withSession (fn id : Nat) (f : Session → State → State) (s : State) : State :=
  match s.session? fn id with
  | none => put (.status SpdmErr.invalidSession) s
  | some x => f x s

def setSession (x : Session) (s : State) : State :=
  { s with sec := { s.sec with sessions := s.sec.sessions.map fun y => if y.fn == x.fn && y.id == x.id then x else y } }

/-- A session that a key exchange begins. -/
def addSession (x : Session) (s : State) : State := { s with sec := { s.sec with sessions := s.sec.sessions ++ [x] } }

/-- The identifier of a function's next session: the next of 16 bits that no session of the function has. -/
def State.freshId (s : State) (fn : Nat) : Nat :=
  (((upFrom (s.spdm fn).nextId 4).map (· % 2 ^ 16)).find? fun i => (s.session? fn i).isNone).getD 0

/-- KEY_EXCHANGE: an ML-KEM-768 exchange begins a session; each function holds at most four. -/
def execKeyExchange (fn : Nat) (request : List Byte) (s : State) : Result :=
  spdmCmd fn 3 (fun s =>
    if 4 ≤ (s.sec.sessions.filter fun x => x.fn == fn).length then put (.status SpdmErr.sessionLimit) s
    else
      let v := s.spdm fn
      let id := s.freshId fn
      let rsp := leBytes 2 id ++ Config.kemAnswer request s.free
      let x : Session := ⟨fn, id, false, [], Config.kemSecret request s.free, v.transcript ++ request ++ rsp, 0⟩
      s.takeFree.2 |> addSession x
        |> setSpdm fn { v with nextId := (id + 1) % 2 ^ 16 } |> put (.bytes rsp)) s

/-- FINISH: the session is established, mutually authenticated when the requester signs its transcript under a raw public key;
without a key it is established without one. -/
def execFinish (fn id : Nat) (key signature : List Byte) (s : State) : Result :=
  spdmCmd fn 3 (withSession fn id fun x s =>
    if x.established then put (.status SpdmErr.unexpectedRequest) s
    else if !key.isEmpty && !Config.mldsaVerify key x.transcript signature then put (.status SpdmErr.decryptError) s
    else s |> setSession { x with established := true, owner := key } |> put (.status 0)) s

/-- A request inside an established session. -/
def inSession (fn id : Nat) (f : Session → State → State) (s : State) : Result :=
  spdmCmd fn 0 (withSession fn id fun x s => if x.established then f x s else put (.status SpdmErr.unexpectedRequest) s) s

/-- KEY_UPDATE: the session's keys are replaced. -/
def execKeyUpdate (fn id : Nat) (s : State) : Result :=
  inSession fn id (fun x s => s |> setSession { x with updates := x.updates + 1 } |> put (.status 0)) s

/-- SPDM_HEARTBEAT: the session is kept alive; the spec names no period after which it would end. -/
def execSpdmHeartbeat (fn id : Nat) (s : State) : Result := inSession fn id (fun _ s => put (.status 0) s) s

/-- END_SESSION: the session and its keys are gone. -/
def execEndSession (fn id : Nat) (s : State) : Result :=
  inSession fn id (fun _ s =>
    { s with sec := { s.sec with sessions := s.sec.sessions.filter fun y => !(y.fn == fn && y.id == id) } } |> put (.status 0)) s

/-! IDE keys (R500). -/

/-- Whether a function's sessions may key a stream: the link stream (8) on the physical function; selective stream `n` on virtual
function `n`, or on the physical function when virtual function `n` does not exist. -/
def State.mayKey (s : State) (fn stream : Nat) : Bool :=
  if stream = 8 then fn == 0 else (fn == vfNo stream && s.fnExists fn) || (fn == 0 && !s.fnExists (vfNo stream))

def setIde (n : Nat) (v : Ide) (s : State) : State :=
  let s := { s with sec := { s.sec with ide := tset Ide.init s.sec.ide n v } }
  if n = 8 then s.set Reg.HP_STATUS_IDE_LINK (b2n v.active) else s

/-- IDE_KM: the receive and transmit keys of a stream programmed (`op` 0), made active (1) or stopped (2) (R500, log 78). -/
def execIdeKm (fn id stream op : Nat) (rx tx : List Byte) (s : State) : Result :=
  perform (fnOk fn && decide (stream < 9) && decide (op < 3)) (fun s =>
    if s.doeBusy fn then put (.status SpdmErr.busy) s
    else withSession fn id (fun x s =>
      if !x.established then put (.status SpdmErr.unexpectedRequest) s
      else if !s.mayKey fn stream then put (.status SpdmErr.invalidRequest) s
      else
        let v := tget Ide.init s.sec.ide stream
        match op with
        | 0 => s |> setIde stream { v with keys := rx ++ tx } |> put (.status 0)
        | 1 => if v.keys.isEmpty then put (.status SpdmErr.invalidRequest) s else s |> setIde stream { v with active := true } |> put (.status 0)
        | _ => s |> setIde stream { v with active := false } |> put (.status 0)) s) s

end Sys2Proof.Machine
end

