-- ==== Sys2Proof/Machine/TreadBranch.lean ====
section
/-!
DEFINITION. Branches and jumps of a tread (04 R132, formats B, J and I). Offsets count instructions from the branch.
-/
namespace Sys2Proof.Machine
open State

/-- A branch: PC := PC + OFF in 2 beats when it is taken, else the next instruction in 1. -/
def branch (t : Nat) (off : BitVec 16) (taken : Tread → Bool) : State → Result :=
  perform (treadOk t) (whenRun t fun s =>
    let x := s.tread t
    if taken x then s.setTread t ({ x with pc := x.pc + off.setWidth 10 }.beat 2)
    else runTread t 1 id s)

/-- BEQ. -/
def execBeq (t : Nat) (ra rb : BitVec 5) (off : BitVec 16) (s : State) : Result :=
  branch t off (fun x => x.s ra.toNat == x.s rb.toNat) s

/-- BNE. -/
def execBne (t : Nat) (ra rb : BitVec 5) (off : BitVec 16) (s : State) : Result :=
  branch t off (fun x => x.s ra.toNat != x.s rb.toNat) s

/-- BLT. -/
def execBlt (t : Nat) (ra rb : BitVec 5) (off : BitVec 16) (s : State) : Result :=
  branch t off (fun x => (x.s ra.toNat).slt (x.s rb.toNat)) s

/-- BGE. -/
def execBge (t : Nat) (ra rb : BitVec 5) (off : BitVec 16) (s : State) : Result :=
  branch t off (fun x => !(x.s ra.toNat).slt (x.s rb.toNat)) s

/-- BLTU. -/
def execBltu (t : Nat) (ra rb : BitVec 5) (off : BitVec 16) (s : State) : Result :=
  branch t off (fun x => (x.s ra.toNat).ult (x.s rb.toNat)) s

/-- BGEU. -/
def execBgeu (t : Nat) (ra rb : BitVec 5) (off : BitVec 16) (s : State) : Result :=
  branch t off (fun x => !(x.s ra.toNat).ult (x.s rb.toNat)) s

/-- The number of the instruction after the present one, as a word. -/
def Tread.link (x : Tread) : W32 := BitVec.ofNat 32 (x.pc.toNat + 1)

/-- JAL: s31 := PC + 1; PC := PC + OFF. -/
def execJal (t : Nat) (off : BitVec 26) (s : State) : Result :=
  perform (treadOk t) (whenRun t fun s =>
    let x := s.tread t
    s.setTread t ({ x.setS 31 x.link with pc := x.pc + off.setWidth 10 }.beat 2)) s

/-- JALR: RD := PC + 1; PC := (RA + IMM) mod 1,024, with RA as it was before. -/
def execJalr (t : Nat) (rd ra : BitVec 5) (imm : BitVec 16) (s : State) : Result :=
  perform (treadOk t) (whenRun t fun s =>
    let x := s.tread t
    s.setTread t ({ x.setS rd.toNat x.link with pc := (x.s ra.toNat + imm.signExtend 32).setWidth 10 }.beat 2)) s

end Sys2Proof.Machine
end

