-- ==== Sys2Proof/Machine/TreadChannel.lean ====
section
/-!
DEFINITION. Channel instructions of a tread (04 R132, format C).
-/
namespace Sys2Proof.Machine
open State

/-- A channel instruction: its fields checked (04 R133), then the send or receive tried (R138). -/
def channel (t : Nat) (legal : Bool) (w : WaitOp) : State → Result :=
  perform (treadOk t) (whenRun t fun s => if legal then tryWait t w s else trapTread t Cause.illegal s)

/-- RECV: s[REG] … s[REG + LEN] := the LEN + 1 oldest words of queue CH. REG + LEN above 31 is illegal. -/
def execRecv (t : Nat) (reg : BitVec 5) (ch len : BitVec 2) (s : State) : Result :=
  channel t (reg.toNat + len.toNat ≤ 31) (.recv ch.toNat (len.toNat + 1) reg.toNat) s

/-- SEND: s[REG] … s[REG + LEN] on port CH as one tuple. -/
def execSend (t : Nat) (reg : BitVec 5) (ch len : BitVec 2) (s : State) : Result :=
  channel t (reg.toNat + len.toNat ≤ 31) (.send ch.toNat reg.toNat (len.toNat + 1)) s

/-- POLL: the occupancy of queue CH, or with P the credit counter of port CH, sign-extended; 0 where no route or knot
stands. Never waits. -/
def execPoll (t : Nat) (reg : BitVec 5) (ch : BitVec 2) (p : Bool) (s : State) : Result :=
  perform (treadOk t) (fun s =>
    let v : Int := if p then
        match s.portRoute? t ch.toNat with
        | some (q, i, _) => (s.chan (Chan.route q i).key).credit
        | none => 0
      else match s.queueChan? t ch.toNat with
        | some c => ((s.chan c.key).queue.length : Int)
        | none => 0
    runTread t 1 (fun x => x.setS reg.toNat (BitVec.ofInt 32 v)) s) s

/-- VRECV: 32-bit lanes LANE … LANE + LEN of VR := the LEN + 1 oldest words of queue CH. -/
def execVrecv (t : Nat) (vr : BitVec 3) (ch len : BitVec 2) (lane : BitVec 3) (s : State) : Result :=
  channel t (lane.toNat + len.toNat ≤ 7) (.vrecv ch.toNat (len.toNat + 1) vr.toNat lane.toNat) s

/-- VSEND: 32-bit lanes LANE … LANE + LEN of VR on port CH. -/
def execVsend (t : Nat) (vr : BitVec 3) (ch len : BitVec 2) (lane : BitVec 3) (s : State) : Result :=
  channel t (lane.toNat + len.toNat ≤ 7) (.vsend ch.toNat vr.toNat lane.toNat (len.toNat + 1)) s

end Sys2Proof.Machine
end

