-- ==== Sys2Proof/Machine/TreadMemory.lean ====
section
/-!
DEFINITION. Data SRAM instructions of a tread (04 R132, R133, formats I, S and VM).
-/
namespace Sys2Proof.Machine
open State

/-- A load of `n` bytes (04 R132: 2 beats), or its trap. -/
def loadTread (t n : Nat) (ra : BitVec 5) (imm : BitVec 16) (f : List Byte → Tread → Tread) : State → Result :=
  perform (treadOk t) (memTread t n 2 (fun x => x.addr ra.toNat imm) fun a x => f (x.load a n) x)

/-- A store of `n` bytes (1 beat), or its trap. -/
def storeTread (t n : Nat) (ra : BitVec 5) (imm : BitVec 16) (f : Tread → List Byte) : State → Result :=
  perform (treadOk t) (memTread t n 1 (fun x => x.addr ra.toNat imm) fun a x => x.store a (f x))

/-- LW. -/
def execLw (t : Nat) (rd ra : BitVec 5) (imm : BitVec 16) (s : State) : Result :=
  loadTread t 4 ra imm (fun l x => x.setS rd.toNat (BitVec.ofNat 32 (ofLe l))) s

/-- LH: sign-extended. -/
def execLh (t : Nat) (rd ra : BitVec 5) (imm : BitVec 16) (s : State) : Result :=
  loadTread t 2 ra imm (fun l x => x.setS rd.toNat ((BitVec.ofNat 16 (ofLe l)).signExtend 32)) s

/-- LHU: zero-extended. -/
def execLhu (t : Nat) (rd ra : BitVec 5) (imm : BitVec 16) (s : State) : Result :=
  loadTread t 2 ra imm (fun l x => x.setS rd.toNat (BitVec.ofNat 32 (ofLe l))) s

/-- LBU: zero-extended. -/
def execLbu (t : Nat) (rd ra : BitVec 5) (imm : BitVec 16) (s : State) : Result :=
  loadTread t 1 ra imm (fun l x => x.setS rd.toNat (BitVec.ofNat 32 (ofLe l))) s

/-- SW: the 32 bits of RS. -/
def execSw (t : Nat) (rs ra : BitVec 5) (imm : BitVec 16) (s : State) : Result :=
  storeTread t 4 ra imm (fun x => leBytes 4 (x.s rs.toNat).toNat) s

/-- SH: the low 16 bits of RS. -/
def execSh (t : Nat) (rs ra : BitVec 5) (imm : BitVec 16) (s : State) : Result :=
  storeTread t 2 ra imm (fun x => leBytes 2 (x.s rs.toNat).toNat) s

/-- SB: the low 8 bits of RS. -/
def execSb (t : Nat) (rs ra : BitVec 5) (imm : BitVec 16) (s : State) : Result :=
  storeTread t 1 ra imm (fun x => leBytes 1 (x.s rs.toNat).toNat) s

/-- VLD: 32 bytes into a vector register. -/
def execVld (t : Nat) (vr : BitVec 3) (ra : BitVec 5) (imm : BitVec 16) (s : State) : Result :=
  loadTread t 32 ra imm (fun l x => x.setV vr.toNat (BitVec.ofNat 256 (ofLe l))) s

/-- VST: a vector register into 32 bytes. -/
def execVst (t : Nat) (vr : BitVec 3) (ra : BitVec 5) (imm : BitVec 16) (s : State) : Result :=
  storeTread t 32 ra imm (fun x => leBytes 32 (x.v vr.toNat).toNat) s

end Sys2Proof.Machine
end

