-- ==== Sys2Proof/Machine/TreadScalar.lean ====
section
/-!
DEFINITION. Scalar register instructions of a tread (04 R132, formats R, I and U).
-/
namespace Sys2Proof.Machine
open State

/-- A scalar result written to RD (04 R132). -/
def alu (t n : Nat) (rd : BitVec 5) (f : Tread → W32) : State → Result :=
  perform (treadOk t) (runTread t n fun x => x.setS rd.toNat (f x))

/-- A truth value as a word. -/
def ofBool (b : Bool) : W32 := if b then 1 else 0

/-- Leading zeros of a word. -/
def clz (v : W32) : W32 := if v = 0 then 32 else BitVec.ofNat 32 (31 - Nat.log2 v.toNat)

/-- Ones among the low `n` bits. -/
def ones : Nat → Nat → Nat
  | 0, _ => 0
  | n + 1, v => v % 2 + ones n (v / 2)

/-- ADD: RD := RA + RB. -/
def execAdd (t : Nat) (rd ra rb : BitVec 5) (s : State) : Result :=
  alu t 1 rd (fun x => x.s ra.toNat + x.s rb.toNat) s

/-- SUB: RD := RA - RB. -/
def execSub (t : Nat) (rd ra rb : BitVec 5) (s : State) : Result :=
  alu t 1 rd (fun x => x.s ra.toNat - x.s rb.toNat) s

/-- AND: bitwise. -/
def execAnd (t : Nat) (rd ra rb : BitVec 5) (s : State) : Result :=
  alu t 1 rd (fun x => x.s ra.toNat &&& x.s rb.toNat) s

/-- OR: bitwise. -/
def execOr (t : Nat) (rd ra rb : BitVec 5) (s : State) : Result :=
  alu t 1 rd (fun x => x.s ra.toNat ||| x.s rb.toNat) s

/-- XOR: bitwise. -/
def execXor (t : Nat) (rd ra rb : BitVec 5) (s : State) : Result :=
  alu t 1 rd (fun x => x.s ra.toNat ^^^ x.s rb.toNat) s

/-- SLL: the shift is RB[4:0]. -/
def execSll (t : Nat) (rd ra rb : BitVec 5) (s : State) : Result :=
  alu t 1 rd (fun x => x.s ra.toNat <<< ((x.s rb.toNat).toNat % 32)) s

/-- SRL: the shift is RB[4:0]. -/
def execSrl (t : Nat) (rd ra rb : BitVec 5) (s : State) : Result :=
  alu t 1 rd (fun x => x.s ra.toNat >>> ((x.s rb.toNat).toNat % 32)) s

/-- SRA: the shift is RB[4:0]. -/
def execSra (t : Nat) (rd ra rb : BitVec 5) (s : State) : Result :=
  alu t 1 rd (fun x => (x.s ra.toNat).sshiftRight ((x.s rb.toNat).toNat % 32)) s

/-- SLT: signed. -/
def execSlt (t : Nat) (rd ra rb : BitVec 5) (s : State) : Result :=
  alu t 1 rd (fun x => ofBool ((x.s ra.toNat).slt (x.s rb.toNat))) s

/-- SLTU: unsigned. -/
def execSltu (t : Nat) (rd ra rb : BitVec 5) (s : State) : Result :=
  alu t 1 rd (fun x => ofBool ((x.s ra.toNat).ult (x.s rb.toNat))) s

/-- MIN: signed. -/
def execMin (t : Nat) (rd ra rb : BitVec 5) (s : State) : Result :=
  alu t 1 rd (fun x => if (x.s ra.toNat).slt (x.s rb.toNat) then x.s ra.toNat else x.s rb.toNat) s

/-- MAX: signed. -/
def execMax (t : Nat) (rd ra rb : BitVec 5) (s : State) : Result :=
  alu t 1 rd (fun x => if (x.s ra.toNat).slt (x.s rb.toNat) then x.s rb.toNat else x.s ra.toNat) s

/-- MINU: unsigned. -/
def execMinu (t : Nat) (rd ra rb : BitVec 5) (s : State) : Result :=
  alu t 1 rd (fun x => if (x.s ra.toNat).ult (x.s rb.toNat) then x.s ra.toNat else x.s rb.toNat) s

/-- MAXU: unsigned. -/
def execMaxu (t : Nat) (rd ra rb : BitVec 5) (s : State) : Result :=
  alu t 1 rd (fun x => if (x.s ra.toNat).ult (x.s rb.toNat) then x.s rb.toNat else x.s ra.toNat) s

/-- MUL: the low 32 bits. -/
def execMul (t : Nat) (rd ra rb : BitVec 5) (s : State) : Result :=
  alu t 2 rd (fun x => x.s ra.toNat * x.s rb.toNat) s

/-- MULH: the high 32 bits of the signed product. -/
def execMulh (t : Nat) (rd ra rb : BitVec 5) (s : State) : Result :=
  alu t 2 rd (fun x => BitVec.ofInt 32 ((x.s ra.toNat).toInt * (x.s rb.toNat).toInt / 2 ^ 32)) s

/-- MULHU: the high 32 bits of the unsigned product. -/
def execMulhu (t : Nat) (rd ra rb : BitVec 5) (s : State) : Result :=
  alu t 2 rd (fun x => BitVec.ofNat 32 ((x.s ra.toNat).toNat * (x.s rb.toNat).toNat / 2 ^ 32)) s

/-- CLZ: leading zeros of RA. -/
def execClz (t : Nat) (rd ra : BitVec 5) (s : State) : Result :=
  alu t 1 rd (fun x => clz (x.s ra.toNat)) s

/-- POPC: ones in RA. -/
def execPopc (t : Nat) (rd ra : BitVec 5) (s : State) : Result :=
  alu t 1 rd (fun x => BitVec.ofNat 32 (ones 32 (x.s ra.toNat).toNat)) s

/-- ADDI: the immediate is signed. -/
def execAddi (t : Nat) (rd ra : BitVec 5) (imm : BitVec 16) (s : State) : Result :=
  alu t 1 rd (fun x => x.s ra.toNat + imm.signExtend 32) s

/-- ANDI: the immediate is zero-extended. -/
def execAndi (t : Nat) (rd ra : BitVec 5) (imm : BitVec 16) (s : State) : Result :=
  alu t 1 rd (fun x => x.s ra.toNat &&& imm.zeroExtend 32) s

/-- ORI: the immediate is zero-extended. -/
def execOri (t : Nat) (rd ra : BitVec 5) (imm : BitVec 16) (s : State) : Result :=
  alu t 1 rd (fun x => x.s ra.toNat ||| imm.zeroExtend 32) s

/-- XORI: the immediate is zero-extended. -/
def execXori (t : Nat) (rd ra : BitVec 5) (imm : BitVec 16) (s : State) : Result :=
  alu t 1 rd (fun x => x.s ra.toNat ^^^ imm.zeroExtend 32) s

/-- SLTI: signed. -/
def execSlti (t : Nat) (rd ra : BitVec 5) (imm : BitVec 16) (s : State) : Result :=
  alu t 1 rd (fun x => ofBool ((x.s ra.toNat).slt (imm.signExtend 32))) s

/-- SLLI. IMM[4:0] is the shift (R132). -/
def execSlli (t : Nat) (rd ra sh : BitVec 5) (s : State) : Result :=
  alu t 1 rd (fun x => x.s ra.toNat <<< sh.toNat) s

/-- SRLI. IMM[4:0] is the shift (R132). -/
def execSrli (t : Nat) (rd ra sh : BitVec 5) (s : State) : Result :=
  alu t 1 rd (fun x => x.s ra.toNat >>> sh.toNat) s

/-- SRAI. IMM[4:0] is the shift (R132). -/
def execSrai (t : Nat) (rd ra sh : BitVec 5) (s : State) : Result :=
  alu t 1 rd (fun x => (x.s ra.toNat).sshiftRight sh.toNat) s

/-- LUI: RD := IMM21 << 11. -/
def execLui (t : Nat) (rd : BitVec 5) (imm : BitVec 21) (s : State) : Result :=
  alu t 1 rd (fun _ => imm.zeroExtend 32 <<< 11) s

end Sys2Proof.Machine
end

