-- ==== Sys2Proof/Machine/TreadSpecial.lean ====
section
/-!
DEFINITION. Accumulator instructions and the Y format of a tread (04 R132, R134, R135, R137), and words that are no
instruction (R133).
-/
namespace Sys2Proof.Machine
open State

/-- ACCRD: VD := row ROW of the tread's part of bank BANK. -/
def execAccrd (t : Nat) (vd : BitVec 3) (bank : BitVec 1) (row : BitVec 3) (s : State) : Result :=
  perform (treadOk t) (withBank t bank.toNat fun gf a i j s =>
    let b := (s.array gf a).bank bank.toNat
    runTread t 1 (fun x => x.setV vd.toNat (BitVec.ofNat 256
      ((upFrom 0 8).foldl (fun n k => n + place (tget 0 b (accKey (i + row.toNat) (j + k))) (32 * k) 32) 0))) s) s

/-- The bank with a tread's 8 × 8 part at (i, j) set to +0. -/
def clearPart (i j : Nat) (b : Tbl Nat) : Tbl Nat :=
  (upFrom 0 8).foldl (fun b r => (upFrom 0 8).foldl (fun b c => tdel b (accKey (i + r) (j + c))) b) b

/-- ACCCLR: the tread's part of bank BANK := +0. -/
def execAccclr (t : Nat) (bank : BitVec 1) (s : State) : Result :=
  perform (treadOk t) (withBank t bank.toNat fun gf a i j s =>
    let d := s.array gf a
    s |> setArray gf a (d.setBank bank.toNat (clearPart i j (d.bank bank.toNat))) |> runTread t 1 id) s

/-- ACCREL: the tread no longer holds its part; the bank passes back to the array once no tread holds one. -/
def execAccrel (t : Nat) (bank : BitVec 1) (s : State) : Result :=
  perform (treadOk t) (withBank t bank.toNat fun gf a _ _ s =>
    let s := runTread t 1 (Tread.setHeld bank.toNat false) s
    if (s.arrayTreads gf a).any fun u => (s.tread u).heldBank bank.toNat then s
    else setArray gf a ((s.array gf a).setCode bank.toNat false) s) s

/-- NOP. -/
def execNop (t : Nat) (s : State) : Result := perform (treadOk t) (runTread t 1 id) s

/-- HALT: the tread waits for the stage sequencer, at this instruction. -/
def execHalt (t : Nat) (s : State) : Result :=
  perform (treadOk t) (whenRun t fun s => s.setTread t ({ s.tread t with st := .halt }.beat 1)) s

/-- FENCE: earlier stores are visible in the gallery SRAM window before any later SEND leaves; every store is visible at
once in this model. -/
def execFence (t : Nat) (s : State) : Result := perform (treadOk t) (runTread t 1 id) s

/-- The special registers that RDSR reads (04 R135); none for an SR number that is not listed. -/
def State.special? (s : State) (t sr : Nat) : Option W32 :=
  let x := s.tread t
  match sr with
  | 0x00 => some (BitVec.ofNat 32 t)
  | 0x01 => some (BitVec.ofNat 32 (match s.treadRole? t with
      | some (_, role, odd, row, col) => place odd 27 1 + place role 16 11 + place row 4 4 + col
      | none => 0))
  | 0x02 => some x.ctx
  | 0x03 => some x.mb
  | 0x04 => some x.step
  | 0x05 => some x.rngKey
  | 0x06 => some x.rngIndex
  | 0x07 => some x.beats
  | 0x08 => some (x.fpflags.zeroExtend 32)
  | _ => none

/-- RDSR: RD := SR; an SR number that is not listed is illegal. -/
def execRdsr (t : Nat) (rd : BitVec 5) (sr : BitVec 8) (s : State) : Result :=
  perform (treadOk t) (whenRun t fun s => match s.special? t sr.toNat with
    | some v => runTread t 1 (Tread.setS rd.toNat v) s
    | none => trapTread t Cause.illegal s) s

/-- WRSR: SR := RA for the read-write registers RNG_KEY, RNG_INDEX and FPFLAGS (which stores RA[4:0]); any other is
illegal. -/
def execWrsr (t : Nat) (ra : BitVec 5) (sr : BitVec 8) (s : State) : Result :=
  perform (treadOk t) (whenRun t fun s =>
    if sr.toNat = 5 then runTread t 1 (fun x => { x with rngKey := x.s ra.toNat }) s
    else if sr.toNat = 6 then runTread t 1 (fun x => { x with rngIndex := x.s ra.toNat }) s
    else if sr.toNat = 8 then runTread t 1 (fun x => { x with fpflags := (x.s ra.toNat).setWidth 5 }) s
    else trapTread t Cause.illegal s) s

/-- BRK: DEBUG while operator debug is unlocked (14 R501), else as NOP. -/
def execBrk (t : Nat) (s : State) : Result :=
  perform (treadOk t) (whenRun t fun s =>
    if s.on Reg.DBG_STATUS_UNLOCKED then s.setTread t ({ s.tread t with st := .debug }.beat 1)
    else runTread t 1 id s) s

/-- TRAP: TRAP with cause SOFTWARE. -/
def execTrap (t : Nat) (s : State) : Result :=
  perform (treadOk t) (whenRun t (trapTread t Cause.software)) s

/-- ILLEGAL_INSTRUCTION: a tread that meets a word that is no instruction (R133) traps with cause ILLEGAL; a word that is one
is not this event. -/
def execIllegalInstruction (t : Nat) (word : BitVec 32) (s : State) : Result :=
  perform (treadOk t) (whenRun t fun s => if legalWord word.toNat then s else trapTread t Cause.illegal s) s

end Sys2Proof.Machine
end

