-- ==== Sys2Proof/Machine/VectorOps.lean ====
section
/-!
DEFINITION. Lanes of vector registers and their arithmetic (04 R127, R132, R136).
-/
namespace Sys2Proof.Machine
open State

/-- Lanes of a vector: 16 BF16 lanes with W, else 8 FP32 lanes. -/
def laneCount (w : Bool) : Nat := if w then 16 else 8
/-- The pattern of lane `i`. -/
def lane (w : Bool) (v : V256) (i : Nat) : Nat := if w then bits v.toNat (16 * i) 16 else bits v.toNat (32 * i) 32
/-- The binary32 value of lane `i`: a BF16 lane is widened exactly (04 R136). -/
def laneF (w : Bool) (v : V256) (i : Nat) : Nat := if w then widen bf16 (lane w v i) else lane w v i

/-- A vector from its lane patterns. -/
def ofLanes (w : Bool) (l : List Nat) : V256 :=
  BitVec.ofNat 256 (l.zipIdx.foldl (fun a (x, i) => a + place x (if w then 16 * i else 32 * i) (if w then 16 else 32)) 0)

/-- A binary32 result put into a lane: with W it is narrowed to BF16 to nearest, ties to even. -/
def outLane (w : Bool) (r : FR) : FR :=
  if w then
    let n := narrow bf16 .rne r.v
    ⟨n.v, r.fl ||| (if Config.narrowingFlags then n.fl else 0)⟩
  else r

/-- Flags of several lanes together. -/
def flagsOf (l : List FR) : Nat := l.foldl (fun a r => a ||| r.fl) 0

/-- A lane-wise floating-point instruction: the lanes' results and flags. -/
def floatLanes (w : Bool) (f : Nat → FR) : List FR := (upFrom 0 (laneCount w)).map fun i => outLane w (f i)

/-- A lane-wise floating-point instruction of `n` beats. -/
def vfloat (t n : Nat) (w : Bool) (vd : BitVec 3) (f : Tread → Nat → FR) : State → Result :=
  perform (treadOk t) (runTread t n fun x =>
    let rs := floatLanes w (f x)
    (x.setV vd.toNat (ofLanes w (rs.map FR.v))).flag (flagsOf rs))

/-- A lane-wise instruction on patterns without flags. -/
def vbits (t : Nat) (w : Bool) (vd : BitVec 3) (f : Tread → Nat → Nat) : State → Result :=
  perform (treadOk t) (runTread t 1 fun x =>
    x.setV vd.toNat (ofLanes w ((upFrom 0 (laneCount w)).map (f x))))

/-- The two values of a comparison's lane. -/
def maskLane (w b : Bool) : Nat := if b then (if w then 0xFFFF else 0xFFFFFFFF) else 0

/-- A value with its sign bit cleared or turned; a NaN gives the canonical NaN (06 R210). -/
def signOp (a : Nat) (f : Nat → Nat) : FR := if isNaN a then nanR fp32 (sigInv (num32 a)) else ⟨f a, 0⟩

/-- A comparison's flags on NaN operands (log 7). -/
def compareFlags (a b : Nat) : Nat := if (isNaN a || isNaN b) && Config.compareNaNInvalid then 8 else 0

/-- A sum of two results with the flags of both. -/
def addFR (a b : FR) : FR := let r := fadd a.v b.v; ⟨r.v, a.fl ||| b.fl ||| r.fl⟩

/-- VRED's order of addition (04 R136), a tree sum, which gives +0 for either zero (06 R232): with W, lane pairs first. -/
def vred (w : Bool) (l : List Nat) : FR :=
  let g (i : Nat) : FR := ⟨lget 0 l i, 0⟩
  let h (i : Nat) : FR := if w then addFR (g (2 * i)) (g (2 * i + 1)) else g i
  let r := addFR (addFR (addFR (h 0) (h 1)) (addFR (h 2) (h 3))) (addFR (addFR (h 4) (h 5)) (addFR (h 6) (h 7)))
  if isZero r.v then ⟨0, r.fl⟩ else r

/-! VCVT (04 R136). -/

/-- A magnitude rounded to a whole number, and whether it was inexact. -/
def roundWhole (rnd : Rounding) (m : Nat) (e : Int) : Nat × Bool :=
  if 0 ≤ e then (m * 2 ^ e.toNat, false)
  else
    let d := (-e).toNat
    (m / 2 ^ d + b2n (roundUp rnd m d), decide (m % 2 ^ d ≠ 0))

/-- KIND 6: binary32 to INT32, saturating; NaN gives 0. -/
def toInt32 (rnd : Rounding) (a : Nat) : FR :=
  let inv : Nat := if Config.integerInvalid then 8 else 0
  match num32 a with
  | .nan _ => ⟨0, inv⟩
  | .inf s => ⟨if s then 2 ^ 31 else 2 ^ 31 - 1, inv⟩
  | .fin s m e =>
    let (q, x) := roundWhole rnd m e
    let i : Int := if s then -(q : Int) else q
    if i < -(2 ^ 31) then ⟨2 ^ 31, inv⟩
    else if 2 ^ 31 ≤ i then ⟨2 ^ 31 - 1, inv⟩
    else ⟨ofSigned 32 i, b2n (x && Config.integralInexact)⟩

/-- KIND 7: binary32 rounded to an integral value. -/
def toIntegral (rnd : Rounding) (a : Nat) : FR :=
  match num32 a with
  | .fin s m e =>
    let (q, x) := roundWhole rnd m e
    if q = 0 then ⟨b2n s * 2 ^ 31, b2n (x && Config.integralInexact)⟩
    else ⟨rnd32 s q 0, b2n (x && Config.integralInexact)⟩
  | .inf _ => ⟨a, 0⟩
  | n => nanR fp32 (sigInv n)

/-- A narrowing's flags in VCVT are those of outLane's narrowing (log 7). -/
def cvtNarrow (f : Fmt) (rnd : Rounding) (a : Nat) : FR :=
  let n := narrow f rnd a
  ⟨n.v, if Config.narrowingFlags then n.fl else n.fl &&& 16⟩

/-- The new value of a 16-bit conversion's register: lanes 0 to 7 replaced, lanes 8 to 15 unchanged. -/
def lowHalf (old : V256) (l : List Nat) : V256 :=
  ofLanes true (l ++ (upFrom 8 8).map fun i => lane true old i)

/-- The kinds that a rounding can change (04 R136): 0, 3, 5, 6 and 7. -/
def cvtRounds (kind : Nat) : Bool := kind == 0 || kind == 3 || decide (5 ≤ kind)

/-- Stochastic bits of lane `i` (06 R228): stream RNG_KEY[31:16], tensor 0xFFFF_0000 + RNG_KEY[15:0], element
RNG_INDEX + i, step the STEP register. -/
def treadRounding (seed rnd : Nat) (x : Tread) (i : Nat) : Rounding :=
  rndOf rnd false ⟨seed, bits x.rngKey.toNat 16 16, 0xFFFF0000 + bits x.rngKey.toNat 0 16, x.step.toNat⟩
    ((x.rngIndex.toNat + i) % 2 ^ 32)

/-- VCVT's results by KIND. -/
def vcvt (seed kind rnd : Nat) (va vd : V256) (x : Tread) : List FR × V256 :=
  let idx := upFrom 0 8
  let r (i : Nat) : Rounding := treadRounding seed rnd x i
  let l32 (i : Nat) : Nat := lane false va i
  match kind with
  | 0 => let o := idx.map fun i => cvtNarrow bf16 (r i) (l32 i); (o, lowHalf vd (o.map FR.v))
  | 1 => let o := idx.map fun i => (⟨widen bf16 (lane true va i), if isNaN (widen bf16 (lane true va i)) then 16 else 0⟩ : FR)
         (o, ofLanes false (o.map FR.v))
  | 2 => let o := idx.map fun i => (⟨widen bf16 (lane true va (8 + i)), if isNaN (widen bf16 (lane true va (8 + i))) then 16 else 0⟩ : FR)
         (o, ofLanes false (o.map FR.v))
  | 3 => let o := idx.map fun i => cvtNarrow fp16 (r i) (l32 i); (o, lowHalf vd (o.map FR.v))
  | 4 => let o := idx.map fun i => (⟨widen fp16 (lane true va i), if isNaN (widen fp16 (lane true va i)) then 16 else 0⟩ : FR)
         (o, ofLanes false (o.map FR.v))
  | 5 => let o := idx.map fun i => fromInt (r i) (toSigned 32 (l32 i)); (o, ofLanes false (o.map FR.v))
  | 6 => let o := idx.map fun i => toInt32 (r i) (l32 i); (o, ofLanes false (o.map FR.v))
  | _ => let o := idx.map fun i => toIntegral (r i) (l32 i); (o, ofLanes false (o.map FR.v))

end Sys2Proof.Machine
end

