-- ==== Sys2Proof/Machine/TreadVector.lean ====
section
/-!
DEFINITION. Vector instructions of a tread (04 R132, R136, format V).
-/
namespace Sys2Proof.Machine
open State

/-- VADD, lane-wise. -/
def execVadd (t : Nat) (vd va vb : BitVec 3) (w : Bool) (s : State) : Result :=
  vfloat t 1 w vd (fun x i => fadd (laneF w (x.v va.toNat) i) (laneF w (x.v vb.toNat) i)) s

/-- VSUB, lane-wise. -/
def execVsub (t : Nat) (vd va vb : BitVec 3) (w : Bool) (s : State) : Result :=
  vfloat t 1 w vd (fun x i => fsub (laneF w (x.v va.toNat) i) (laneF w (x.v vb.toNat) i)) s

/-- VMUL, lane-wise. -/
def execVmul (t : Nat) (vd va vb : BitVec 3) (w : Bool) (s : State) : Result :=
  vfloat t 1 w vd (fun x i => fmul (laneF w (x.v va.toNat) i) (laneF w (x.v vb.toNat) i)) s

/-- VMIN, lane-wise. -/
def execVmin (t : Nat) (vd va vb : BitVec 3) (w : Bool) (s : State) : Result :=
  vfloat t 1 w vd (fun x i => fmin (laneF w (x.v va.toNat) i) (laneF w (x.v vb.toNat) i)) s

/-- VMAX, lane-wise. -/
def execVmax (t : Nat) (vd va vb : BitVec 3) (w : Bool) (s : State) : Result :=
  vfloat t 1 w vd (fun x i => fmax (laneF w (x.v va.toNat) i) (laneF w (x.v vb.toNat) i)) s

/-- VFMA: VA × VB + VC with one rounding per lane. -/
def execVfma (t : Nat) (vd va vb vc : BitVec 3) (w : Bool) (s : State) : Result :=
  vfloat t 1 w vd (fun x i => ffma (laneF w (x.v va.toNat) i) (laneF w (x.v vb.toNat) i) (laneF w (x.v vc.toNat) i)) s

/-- VABS. -/
def execVabs (t : Nat) (vd va : BitVec 3) (w : Bool) (s : State) : Result :=
  vfloat t 1 w vd (fun x i => signOp (laneF w (x.v va.toNat) i) fun a => a % 2 ^ 31) s

/-- VNEG. -/
def execVneg (t : Nat) (vd va : BitVec 3) (w : Bool) (s : State) : Result :=
  vfloat t 1 w vd (fun x i => signOp (laneF w (x.v va.toNat) i) fun a => (a + 2 ^ 31) % 2 ^ 32) s

/-- VRCP, correctly rounded. -/
def execVrcp (t : Nat) (vd va : BitVec 3) (w : Bool) (s : State) : Result :=
  vfloat t 6 w vd (fun x i => frcp (laneF w (x.v va.toNat) i)) s

/-- VRSQRT, correctly rounded. -/
def execVrsqrt (t : Nat) (vd va : BitVec 3) (w : Bool) (s : State) : Result :=
  vfloat t 6 w vd (fun x i => frsqrt (laneF w (x.v va.toNat) i)) s

/-- VCMPLT: all ones or all zeros in each lane. -/
def execVcmplt (t : Nat) (vd va vb : BitVec 3) (w : Bool) (s : State) : Result :=
  perform (treadOk t) (runTread t 1 fun x =>
    let g (i : Nat) := flt (laneF w (x.v va.toNat) i) (laneF w (x.v vb.toNat) i)
    (x.setV vd.toNat (ofLanes w ((upFrom 0 (laneCount w)).map fun i => maskLane w (g i)))).flag
      ((upFrom 0 (laneCount w)).foldl (fun a i => a ||| compareFlags (laneF w (x.v va.toNat) i) (laneF w (x.v vb.toNat) i)) 0)) s

/-- VCMPEQ: all ones or all zeros in each lane. -/
def execVcmpeq (t : Nat) (vd va vb : BitVec 3) (w : Bool) (s : State) : Result :=
  perform (treadOk t) (runTread t 1 fun x =>
    let g (i : Nat) := feq (laneF w (x.v va.toNat) i) (laneF w (x.v vb.toNat) i)
    (x.setV vd.toNat (ofLanes w ((upFrom 0 (laneCount w)).map fun i => maskLane w (g i)))).flag
      ((upFrom 0 (laneCount w)).foldl (fun a i => a ||| b2n (sigInv (num32 (laneF w (x.v va.toNat) i)) || sigInv (num32 (laneF w (x.v vb.toNat) i))) * 8) 0)) s

/-- VSEL: VC lane nonzero ? VA : VB, on lane patterns. -/
def execVsel (t : Nat) (vd va vb vc : BitVec 3) (w : Bool) (s : State) : Result :=
  vbits t w vd (fun x i =>
    if lane w (x.v vc.toNat) i ≠ 0 then lane w (x.v va.toNat) i else lane w (x.v vb.toNat) i) s

/-- VRED: lane 0 := the sum in the order of R136; the other lanes +0. -/
def execVred (t : Nat) (vd va : BitVec 3) (w : Bool) (s : State) : Result :=
  perform (treadOk t) (runTread t 3 fun x =>
    let r := outLane w (vred w ((upFrom 0 (laneCount w)).map fun i => laneF w (x.v va.toNat) i))
    (x.setV vd.toNat (ofLanes w [r.v])).flag r.fl) s

/-- VSPLAT: every 32-bit lane := s[RS]. -/
def execVsplat (t : Nat) (vd : BitVec 3) (rs : BitVec 5) (s : State) : Result :=
  vbits t false vd (fun x _ => (x.s rs.toNat).toNat) s

/-- VEXT: s[RS] := 32-bit lane VC of VA. -/
def execVext (t : Nat) (rs : BitVec 5) (va vc : BitVec 3) (s : State) : Result :=
  perform (treadOk t) (runTread t 1 fun x =>
    x.setS rs.toNat (BitVec.ofNat 32 (lane false (x.v va.toNat) vc.toNat))) s

/-- VINS: 32-bit lane VC of VD := s[RS]. -/
def execVins (t : Nat) (vd vc : BitVec 3) (rs : BitVec 5) (s : State) : Result :=
  vbits t false vd (fun x i => if i = vc.toNat then (x.s rs.toNat).toNat else lane false (x.v vd.toNat) i) s

/-- VIADD on 32-bit integer lanes. -/
def execViadd (t : Nat) (vd va vb : BitVec 3) (s : State) : Result :=
  vbits t false vd (fun x i =>
    let a := lane false (x.v va.toNat) i
    let b := lane false (x.v vb.toNat) i
    (a + b) % 2 ^ 32) s

/-- VAND on 32-bit integer lanes. -/
def execVand (t : Nat) (vd va vb : BitVec 3) (s : State) : Result :=
  vbits t false vd (fun x i =>
    let a := lane false (x.v va.toNat) i
    let b := lane false (x.v vb.toNat) i
    a &&& b) s

/-- VOR on 32-bit integer lanes. -/
def execVor (t : Nat) (vd va vb : BitVec 3) (s : State) : Result :=
  vbits t false vd (fun x i =>
    let a := lane false (x.v va.toNat) i
    let b := lane false (x.v vb.toNat) i
    a ||| b) s

/-- VXOR on 32-bit integer lanes. -/
def execVxor (t : Nat) (vd va vb : BitVec 3) (s : State) : Result :=
  vbits t false vd (fun x i =>
    let a := lane false (x.v va.toNat) i
    let b := lane false (x.v vb.toNat) i
    a ^^^ b) s

/-- VCVT: conversion KIND with rounding RND; RND 3 to 7 is illegal (R133). A stochastic conversion advances RNG_INDEX by
its eight lanes. -/
def execVcvt (t : Nat) (vd va kind rnd : BitVec 3) (s : State) : Result :=
  perform (treadOk t) (whenRun t fun s =>
    if 2 < rnd.toNat then trapTread t Cause.illegal s
    else
      let seed := match s.treadRole? t with
        | some (p, _) => (s.imageOf p).jobSeed
        | none => 0
      runTread t 1 (fun x =>
        let (rs, v) := vcvt seed kind.toNat rnd.toNat (x.v va.toNat) (x.v vd.toNat) x
        let y := (x.setV vd.toNat v).flag (flagsOf rs)
        if rnd.toNat = 2 && cvtRounds kind.toNat then { y with rngIndex := y.rngIndex + 8 } else y) s) s

end Sys2Proof.Machine
end

