-- ==== Sys2Proof/Machine/Dispatch.lean ====
section
/-!
DEFINITION. What each command does: one arm for each constructor, one meaning for each arm.
-/
namespace Sys2Proof.Machine

/-- The effect of a command on everything but the queue. -/
def exec (i : Instr) (s : State) : Host.Outcome State Fault Refusal :=
  match i with
  | .registerWrite who off n value => Sys2Proof.Machine.execRegisterWrite who off n value s
  | .rcRead who off during => Sys2Proof.Machine.execRcRead who off during s
  | .rw1cWrite who off value sets => Sys2Proof.Machine.execRw1cWrite who off value sets s
  | .highWordLatchRead who off n => Sys2Proof.Machine.execHighWordLatchRead who off n s
  | .committedStepRead who p n => Sys2Proof.Machine.execCommittedStepRead who p n s
  | .pkgIdLock value => Sys2Proof.Machine.execPkgIdLock value s
  | .pwrBudgetWrite now value => Sys2Proof.Machine.execPwrBudgetWrite now value s
  | .powerLimitEffecter now w => Sys2Proof.Machine.execPowerLimitEffecter now w s
  | .powerMeasurement now mw mv => Sys2Proof.Machine.execPowerMeasurement now mw mv s
  | .budgetWindowClose now => Sys2Proof.Machine.execBudgetWindowClose now s
  | .converterFailed now k => Sys2Proof.Machine.execConverterFailed now k s
  | .inputLow mv => Sys2Proof.Machine.execInputLow mv s
  | .inputRestored mv => Sys2Proof.Machine.execInputRestored mv s
  | .inputOutOfRange mv => Sys2Proof.Machine.execInputOutOfRange mv s
  | .admissionToken gfs => Sys2Proof.Machine.execAdmissionToken gfs s
  | .retainEntry gf => Sys2Proof.Machine.execRetainEntry gf s
  | .retainExit gf => Sys2Proof.Machine.execRetainExit gf s
  | .thermalSample now readings => Sys2Proof.Machine.execThermalSample now readings s
  | .rigStart w => Sys2Proof.Machine.execRigStart w s
  | .rigFetchComplete p image => Sys2Proof.Machine.execRigFetchComplete p image s
  | .fetchFailed p => Sys2Proof.Machine.execFetchFailed p s
  | .rigVerifyComplete p bad => Sys2Proof.Machine.execRigVerifyComplete p bad s
  | .rigValidateComplete p bad => Sys2Proof.Machine.execRigValidateComplete p bad s
  | .rigPlaceComplete p => Sys2Proof.Machine.execRigPlaceComplete p s
  | .rigApplyComplete p => Sys2Proof.Machine.execRigApplyComplete p s
  | .applyFault p => Sys2Proof.Machine.execApplyFault p s
  | .rigAbort w => Sys2Proof.Machine.execRigAbort w s
  | .rigRelease w => Sys2Proof.Machine.execRigRelease w s
  | .rigReleased p => Sys2Proof.Machine.execRigReleased p s
  | .rerigRowShift now r => Sys2Proof.Machine.execRerigRowShift now r s
  | .rerigRoleMove now p bad => Sys2Proof.Machine.execRerigRoleMove now p bad s
  | .rerigComplete now p => Sys2Proof.Machine.execRerigComplete now p s
  | .add t rd ra rb => Sys2Proof.Machine.execAdd t rd ra rb s
  | .sub t rd ra rb => Sys2Proof.Machine.execSub t rd ra rb s
  | .and t rd ra rb => Sys2Proof.Machine.execAnd t rd ra rb s
  | .or t rd ra rb => Sys2Proof.Machine.execOr t rd ra rb s
  | .xor t rd ra rb => Sys2Proof.Machine.execXor t rd ra rb s
  | .sll t rd ra rb => Sys2Proof.Machine.execSll t rd ra rb s
  | .srl t rd ra rb => Sys2Proof.Machine.execSrl t rd ra rb s
  | .sra t rd ra rb => Sys2Proof.Machine.execSra t rd ra rb s
  | .slt t rd ra rb => Sys2Proof.Machine.execSlt t rd ra rb s
  | .sltu t rd ra rb => Sys2Proof.Machine.execSltu t rd ra rb s
  | .min t rd ra rb => Sys2Proof.Machine.execMin t rd ra rb s
  | .max t rd ra rb => Sys2Proof.Machine.execMax t rd ra rb s
  | .minu t rd ra rb => Sys2Proof.Machine.execMinu t rd ra rb s
  | .maxu t rd ra rb => Sys2Proof.Machine.execMaxu t rd ra rb s
  | .mul t rd ra rb => Sys2Proof.Machine.execMul t rd ra rb s
  | .mulh t rd ra rb => Sys2Proof.Machine.execMulh t rd ra rb s
  | .mulhu t rd ra rb => Sys2Proof.Machine.execMulhu t rd ra rb s
  | .clz t rd ra => Sys2Proof.Machine.execClz t rd ra s
  | .popc t rd ra => Sys2Proof.Machine.execPopc t rd ra s
  | .addi t rd ra imm => Sys2Proof.Machine.execAddi t rd ra imm s
  | .andi t rd ra imm => Sys2Proof.Machine.execAndi t rd ra imm s
  | .ori t rd ra imm => Sys2Proof.Machine.execOri t rd ra imm s
  | .xori t rd ra imm => Sys2Proof.Machine.execXori t rd ra imm s
  | .slti t rd ra imm => Sys2Proof.Machine.execSlti t rd ra imm s
  | .slli t rd ra sh => Sys2Proof.Machine.execSlli t rd ra sh s
  | .srli t rd ra sh => Sys2Proof.Machine.execSrli t rd ra sh s
  | .srai t rd ra sh => Sys2Proof.Machine.execSrai t rd ra sh s
  | .lui t rd imm => Sys2Proof.Machine.execLui t rd imm s
  | .lw t rd ra imm => Sys2Proof.Machine.execLw t rd ra imm s
  | .lh t rd ra imm => Sys2Proof.Machine.execLh t rd ra imm s
  | .lhu t rd ra imm => Sys2Proof.Machine.execLhu t rd ra imm s
  | .lbu t rd ra imm => Sys2Proof.Machine.execLbu t rd ra imm s
  | .sw t rs ra imm => Sys2Proof.Machine.execSw t rs ra imm s
  | .sh t rs ra imm => Sys2Proof.Machine.execSh t rs ra imm s
  | .sb t rs ra imm => Sys2Proof.Machine.execSb t rs ra imm s
  | .vld t vr ra imm => Sys2Proof.Machine.execVld t vr ra imm s
  | .vst t vr ra imm => Sys2Proof.Machine.execVst t vr ra imm s
  | .beq t ra rb off => Sys2Proof.Machine.execBeq t ra rb off s
  | .bne t ra rb off => Sys2Proof.Machine.execBne t ra rb off s
  | .blt t ra rb off => Sys2Proof.Machine.execBlt t ra rb off s
  | .bge t ra rb off => Sys2Proof.Machine.execBge t ra rb off s
  | .bltu t ra rb off => Sys2Proof.Machine.execBltu t ra rb off s
  | .bgeu t ra rb off => Sys2Proof.Machine.execBgeu t ra rb off s
  | .jal t off => Sys2Proof.Machine.execJal t off s
  | .jalr t rd ra imm => Sys2Proof.Machine.execJalr t rd ra imm s
  | .recv t reg ch len => Sys2Proof.Machine.execRecv t reg ch len s
  | .send t reg ch len => Sys2Proof.Machine.execSend t reg ch len s
  | .poll t reg ch p => Sys2Proof.Machine.execPoll t reg ch p s
  | .vrecv t vr ch len lane => Sys2Proof.Machine.execVrecv t vr ch len lane s
  | .vsend t vr ch len lane => Sys2Proof.Machine.execVsend t vr ch len lane s
  | .vadd t vd va vb w => Sys2Proof.Machine.execVadd t vd va vb w s
  | .vsub t vd va vb w => Sys2Proof.Machine.execVsub t vd va vb w s
  | .vmul t vd va vb w => Sys2Proof.Machine.execVmul t vd va vb w s
  | .vfma t vd va vb vc w => Sys2Proof.Machine.execVfma t vd va vb vc w s
  | .vmin t vd va vb w => Sys2Proof.Machine.execVmin t vd va vb w s
  | .vmax t vd va vb w => Sys2Proof.Machine.execVmax t vd va vb w s
  | .vabs t vd va w => Sys2Proof.Machine.execVabs t vd va w s
  | .vneg t vd va w => Sys2Proof.Machine.execVneg t vd va w s
  | .vrcp t vd va w => Sys2Proof.Machine.execVrcp t vd va w s
  | .vrsqrt t vd va w => Sys2Proof.Machine.execVrsqrt t vd va w s
  | .vcmplt t vd va vb w => Sys2Proof.Machine.execVcmplt t vd va vb w s
  | .vcmpeq t vd va vb w => Sys2Proof.Machine.execVcmpeq t vd va vb w s
  | .vsel t vd va vb vc w => Sys2Proof.Machine.execVsel t vd va vb vc w s
  | .vred t vd va w => Sys2Proof.Machine.execVred t vd va w s
  | .vsplat t vd rs => Sys2Proof.Machine.execVsplat t vd rs s
  | .vext t rs va vc => Sys2Proof.Machine.execVext t rs va vc s
  | .vins t vd vc rs => Sys2Proof.Machine.execVins t vd vc rs s
  | .viadd t vd va vb => Sys2Proof.Machine.execViadd t vd va vb s
  | .vand t vd va vb => Sys2Proof.Machine.execVand t vd va vb s
  | .vor t vd va vb => Sys2Proof.Machine.execVor t vd va vb s
  | .vxor t vd va vb => Sys2Proof.Machine.execVxor t vd va vb s
  | .vcvt t vd va kind rnd => Sys2Proof.Machine.execVcvt t vd va kind rnd s
  | .accrd t vd bank row => Sys2Proof.Machine.execAccrd t vd bank row s
  | .accclr t bank => Sys2Proof.Machine.execAccclr t bank s
  | .accrel t bank => Sys2Proof.Machine.execAccrel t bank s
  | .nop t => Sys2Proof.Machine.execNop t s
  | .halt t => Sys2Proof.Machine.execHalt t s
  | .fence t => Sys2Proof.Machine.execFence t s
  | .rdsr t rd sr => Sys2Proof.Machine.execRdsr t rd sr s
  | .wrsr t ra sr => Sys2Proof.Machine.execWrsr t ra sr s
  | .brk t => Sys2Proof.Machine.execBrk t s
  | .trap t => Sys2Proof.Machine.execTrap t s
  | .wordDelivery c => Sys2Proof.Machine.execWordDelivery c s
  | .creditReturn c => Sys2Proof.Machine.execCreditReturn c s
  | .knotContribution p ix => Sys2Proof.Machine.execKnotContribution p ix s
  | .knotDelivery p ki => Sys2Proof.Machine.execKnotDelivery p ki s
  | .chanLimitWrite g value => Sys2Proof.Machine.execChanLimitWrite g value s
  | .chanHeadRead g => Sys2Proof.Machine.execChanHeadRead g s
  | .stallScan => Sys2Proof.Machine.execStallScan s
  | .stallCtrlWrite value => Sys2Proof.Machine.execStallCtrlWrite value s
  | .fltPush who gf w value => Sys2Proof.Machine.execFltPush who gf w value s
  | .tileStart a waited => Sys2Proof.Machine.execTileStart a waited s
  | .loadStart gf bad far => Sys2Proof.Machine.execLoadStart gf bad far s
  | .loadComplete gf => Sys2Proof.Machine.execLoadComplete gf s
  | .tileAccumulated gf arr => Sys2Proof.Machine.execTileAccumulated gf arr s
  | .drainComplete a bad far waited => Sys2Proof.Machine.execDrainComplete a bad far waited s
  | .macResidue t => Sys2Proof.Machine.execMacResidue t s
  | .treadParity t inst word => Sys2Proof.Machine.execTreadParity t inst word s
  | .routerParity gf => Sys2Proof.Machine.execRouterParity gf s
  | .sbParity gf word => Sys2Proof.Machine.execSbParity gf word s
  | .microBatchBoundary now slot => Sys2Proof.Machine.execMicroBatchBoundary now slot s
  | .forwardAdmit slot => Sys2Proof.Machine.execForwardAdmit slot s
  | .backwardStart slot => Sys2Proof.Machine.execBackwardStart slot s
  | .seqDescriptorPush slot => Sys2Proof.Machine.execSeqDescriptorPush slot s
  | .landingPush slot => Sys2Proof.Machine.execLandingPush slot s
  | .ingestPush n entry => Sys2Proof.Machine.execIngestPush n entry s
  | .landLimitWrite who n value => Sys2Proof.Machine.execLandLimitWrite who n value s
  | .seqQuotaWrite who slot value => Sys2Proof.Machine.execSeqQuotaWrite who slot value s
  | .ringPass slot => Sys2Proof.Machine.execRingPass slot s
  | .stashVerify slot bad => Sys2Proof.Machine.execStashVerify slot bad s
  | .bucketEnter slot bad => Sys2Proof.Machine.execBucketEnter slot bad s
  | .ringMessageSend slot bad => Sys2Proof.Machine.execRingMessageSend slot bad s
  | .ringData k v msg bad => Sys2Proof.Machine.execRingData k v msg bad s
  | .ringCredit k v msg => Sys2Proof.Machine.execRingCredit k v msg s
  | .updateGroup slot bad => Sys2Proof.Machine.execUpdateGroup slot bad s
  | .vbmax u vd va => Sys2Proof.Machine.execVbmax u vd va s
  | .vsqrt u vd va => Sys2Proof.Machine.execVsqrt u vd va s
  | .vdiv u vd va vb => Sys2Proof.Machine.execVdiv u vd va vb s
  | .vmmul u vd va vb => Sys2Proof.Machine.execVmmul u vd va vb s
  | .vtrans u vd va => Sys2Proof.Machine.execVtrans u vd va s
  | .schedScaleWrite who p ix value => Sys2Proof.Machine.execSchedScaleWrite who p ix value s
  | .sparsePass1 p table bad => Sys2Proof.Machine.execSparsePass1 p table bad s
  | .sparsePass2 u p table bad => Sys2Proof.Machine.execSparsePass2 u p table bad s
  | .sparseRestore p table => Sys2Proof.Machine.execSparseRestore p table s
  | .fabricRead agent addr size bad => Sys2Proof.Machine.execFabricRead agent addr size bad s
  | .fabricWrite agent addr data bad => Sys2Proof.Machine.execFabricWrite agent addr data bad s
  | .fabricAtomic agent func addr size value compare bad => Sys2Proof.Machine.execFabricAtomic agent func addr size value compare bad s
  | .rowRepair u row => Sys2Proof.Machine.execRowRepair u row s
  | .patrolRead u inUse off bad => Sys2Proof.Machine.execPatrolRead u inUse off bad s
  | .keySweepLine u p bad => Sys2Proof.Machine.execKeySweepLine u p bad s
  | .ucQuotaWrite who u p value => Sys2Proof.Machine.execUcQuotaWrite who u p value s
  | .ucGatherPush who u w value => Sys2Proof.Machine.execUcGatherPush who u w value s
  | .ucConvPush who u w value => Sys2Proof.Machine.execUcConvPush who u w value s
  | .gatherDescriptor u bad far farOut => Sys2Proof.Machine.execGatherDescriptor u bad far farOut s
  | .gatherLandingPush u => Sys2Proof.Machine.execGatherLandingPush u s
  | .converterDescriptor u bad far farOut => Sys2Proof.Machine.execConverterDescriptor u bad far farOut s
  | .ropeSignalLock k mask => Sys2Proof.Machine.execRopeSignalLock k mask s
  | .ropeTrainRetry k => Sys2Proof.Machine.execRopeTrainRetry k s
  | .trainFlit k now flit rx => Sys2Proof.Machine.execTrainFlit k now flit rx s
  | .flitSend k first => Sys2Proof.Machine.execFlitSend k first s
  | .dataFlit k now flit touched corr uncorr => Sys2Proof.Machine.execDataFlit k now flit touched corr uncorr s
  | .controlFlit k now flit touched corr uncorr => Sys2Proof.Machine.execControlFlit k now flit touched corr uncorr s
  | .idleFlit k now flit touched corr uncorr => Sys2Proof.Machine.execIdleFlit k now flit touched corr uncorr s
  | .replayTmo k now => Sys2Proof.Machine.execReplayTmo k now s
  | .errorWindowClose k now => Sys2Proof.Machine.execErrorWindowClose k now s
  | .strandLockLoss k mask now => Sys2Proof.Machine.execStrandLockLoss k mask now s
  | .ropeGraceExpiry k now => Sys2Proof.Machine.execRopeGraceExpiry k now s
  | .ropeRetrain k value now => Sys2Proof.Machine.execRopeRetrain k value now s
  | .ropeDisable k value => Sys2Proof.Machine.execRopeDisable k value s
  | .ropeVcLimitWrite k v value => Sys2Proof.Machine.execRopeVcLimitWrite k v value s
  | .landingEntry k v msg => Sys2Proof.Machine.execLandingEntry k v msg s
  | .landingCredit k v msg => Sys2Proof.Machine.execLandingCredit k v msg s
  | .fabricRequestIssue agent op func addr size data => Sys2Proof.Machine.execFabricRequestIssue agent op func addr size data s
  | .fabricResponse k v msg => Sys2Proof.Machine.execFabricResponse k v msg s
  | .checkpointData k v msg => Sys2Proof.Machine.execCheckpointData k v msg s
  | .checkpointDone k v msg => Sys2Proof.Machine.execCheckpointDone k v msg s
  | .checkpointFetch k v msg => Sys2Proof.Machine.execCheckpointFetch k v msg s
  | .checkpointReturn k v msg => Sys2Proof.Machine.execCheckpointReturn k v msg s
  | .checkpointReturnDone k v msg => Sys2Proof.Machine.execCheckpointReturnDone k v msg s
  | .ropeKeyCheck k msg => Sys2Proof.Machine.execRopeKeyCheck k msg s
  | .partUnavailable k msg => Sys2Proof.Machine.execPartUnavailable k msg s
  | .laserModuleInsert m ident known lit => Sys2Proof.Machine.execLaserModuleInsert m ident known lit s
  | .laserModuleRemove m now => Sys2Proof.Machine.execLaserModuleRemove m now s
  | .laserFailed m j now => Sys2Proof.Machine.execLaserFailed m j now s
  | .laserLightTimeout m j now => Sys2Proof.Machine.execLaserLightTimeout m j now s
  | .laserLifeTick m temp => Sys2Proof.Machine.execLaserLifeTick m temp s
  | .laserLifeJournal => Sys2Proof.Machine.execLaserLifeJournal s
  | .laserRelease m value => Sys2Proof.Machine.execLaserRelease m value s
  | .laserRelight w lit => Sys2Proof.Machine.execLaserRelight w lit s
  | .dcpMsgFlit n dir flit bad => Sys2Proof.Machine.execDcpMsgFlit n dir flit bad s
  | .dcpCapFlit n cap => Sys2Proof.Machine.execDcpCapFlit n cap s
  | .dcpReplayTmo n dir => Sys2Proof.Machine.execDcpReplayTmo n dir s
  | .dieLinkFenced n => Sys2Proof.Machine.execDieLinkFenced n s
  | .dlDisable n value => Sys2Proof.Machine.execDlDisable n value s
  | .dlReset n value fatal lost => Sys2Proof.Machine.execDlReset n value fatal lost s
  | .dlTrainingTimeout n => Sys2Proof.Machine.execDlTrainingTimeout n s
  | .dlRetest n value => Sys2Proof.Machine.execDlRetest n value s
  | .laneTest n faultsAB faultsBA => Sys2Proof.Machine.execLaneTest n faultsAB faultsBA s
  | .bar4Request rid off write size data bad => Sys2Proof.Machine.execBar4Request rid off write size data bad s
  | .plcValidWrite ix value => Sys2Proof.Machine.execPlcValidWrite ix value s
  | .hceDoorbell who e value => Sys2Proof.Machine.execHceDoorbell who e value s
  | .hceNop e desc => Sys2Proof.Machine.execHceNop e desc s
  | .hceCopy e desc answer bad => Sys2Proof.Machine.execHceCopy e desc answer bad s
  | .hceFence e desc => Sys2Proof.Machine.execHceFence e desc s
  | .hceDescriptorComplete x => Sys2Proof.Machine.execHceDescriptorComplete x s
  | .hceDescriptorRetry e desc => Sys2Proof.Machine.execHceDescriptorRetry e desc s
  | .hceResume who e value => Sys2Proof.Machine.execHceResume who e value s
  | .hceEnable who e value => Sys2Proof.Machine.execHceEnable who e value s
  | .eventRecordWrite f => Sys2Proof.Machine.execEventRecordWrite f s
  | .evtHeadWrite who f value => Sys2Proof.Machine.execEvtHeadWrite who f value s
  | .evtEnable who f w => Sys2Proof.Machine.execEvtEnable who f w s
  | .dlDown => Sys2Proof.Machine.execDlDown s
  | .hotReset => Sys2Proof.Machine.execHotReset s
  | .perstAssert => Sys2Proof.Machine.execPerstAssert s
  | .perstRelease => Sys2Proof.Machine.execPerstRelease s
  | .functionLevelReset f => Sys2Proof.Machine.execFunctionLevelReset f s
  | .d3hotEntry f => Sys2Proof.Machine.execD3hotEntry f s
  | .linkRecovery => Sys2Proof.Machine.execLinkRecovery s
  | .mbH2pWrite who c value => Sys2Proof.Machine.execMbH2pWrite who c value s
  | .mbP2hClear who c value sets => Sys2Proof.Machine.execMbP2hClear who c value sets s
  | .mbP2hMaskWrite who c value => Sys2Proof.Machine.execMbP2hMaskWrite who c value s
  | .stepStart p => Sys2Proof.Machine.execStepStart p s
  | .join k m => Sys2Proof.Machine.execJoin k m s
  | .go k m => Sys2Proof.Machine.execGo k m s
  | .stepVote p => Sys2Proof.Machine.execStepVote p s
  | .vote k m => Sys2Proof.Machine.execVote k m s
  | .decide_ k m => Sys2Proof.Machine.execDecide k m s
  | .rewind k m => Sys2Proof.Machine.execRewind k m s
  | .windDownTimeout now p => Sys2Proof.Machine.execWindDownTimeout now p s
  | .rewoundSend p => Sys2Proof.Machine.execRewoundSend p s
  | .rewound k m => Sys2Proof.Machine.execRewound k m s
  | .resume k m => Sys2Proof.Machine.execResume k m s
  | .heartbeat now k m => Sys2Proof.Machine.execHeartbeat now k m s
  | .heartbeatSend p => Sys2Proof.Machine.execHeartbeatSend p s
  | .peerLostTimeout now p k => Sys2Proof.Machine.execPeerLostTimeout now p k s
  | .stepRewindRequest p => Sys2Proof.Machine.execStepRewindRequest p s
  | .stepHalt p => Sys2Proof.Machine.execStepHalt p s
  | .stepTakeover p => Sys2Proof.Machine.execStepTakeover p s
  | .storageResponse entry => Sys2Proof.Machine.execStorageResponse entry s
  | .snapPin p value => Sys2Proof.Machine.execSnapPin p value s
  | .snapUnpin p value => Sys2Proof.Machine.execSnapUnpin p value s
  | .snapExpiry now p => Sys2Proof.Machine.execSnapExpiry now p s
  | .jrnCompact => Sys2Proof.Machine.execJrnCompact s
  | .journalCompacted => Sys2Proof.Machine.execJournalCompacted s
  | .availJournal => Sys2Proof.Machine.execAvailJournal s
  | .partOffer p value => Sys2Proof.Machine.execPartOffer p value s
  | .partReclaim p value => Sys2Proof.Machine.execPartReclaim p value s
  | .partWithdraw p value => Sys2Proof.Machine.execPartWithdraw p value s
  | .claim fn id p => Sys2Proof.Machine.execClaim fn id p s
  | .enrollRigKey fn id p slot signer => Sys2Proof.Machine.execEnrollRigKey fn id p slot signer s
  | .linkStage fn id p epoch secret => Sys2Proof.Machine.execLinkStage fn id p epoch secret s
  | .linkSwitch fn id p epoch => Sys2Proof.Machine.execLinkSwitch fn id p epoch s
  | .memRotate fn id p => Sys2Proof.Machine.execMemRotate fn id p s
  | .end_ fn id p => Sys2Proof.Machine.execEnd fn id p s
  | .status fn id p => Sys2Proof.Machine.execStatus fn id p s
  | .getVersion fn request => Sys2Proof.Machine.execGetVersion fn request s
  | .getCapabilities fn request => Sys2Proof.Machine.execGetCapabilities fn request s
  | .negotiateAlgorithms fn request offered => Sys2Proof.Machine.execNegotiateAlgorithms fn request offered s
  | .getDigests fn => Sys2Proof.Machine.execGetDigests fn s
  | .getCertificate fn slot off len => Sys2Proof.Machine.execGetCertificate fn slot off len s
  | .challenge fn slot request => Sys2Proof.Machine.execChallenge fn slot request s
  | .getMeasurements fn index request => Sys2Proof.Machine.execGetMeasurements fn index request s
  | .keyExchange fn request => Sys2Proof.Machine.execKeyExchange fn request s
  | .finish fn id key signature => Sys2Proof.Machine.execFinish fn id key signature s
  | .keyUpdate fn id => Sys2Proof.Machine.execKeyUpdate fn id s
  | .spdmHeartbeat fn id => Sys2Proof.Machine.execSpdmHeartbeat fn id s
  | .endSession fn id => Sys2Proof.Machine.execEndSession fn id s
  | .firmwareImage image => Sys2Proof.Machine.execFirmwareImage image s
  | .fuseSvnRaise => Sys2Proof.Machine.execFuseSvnRaise s
  | .fabStage value => Sys2Proof.Machine.execFabStage value s
  | .fabSwitch value => Sys2Proof.Machine.execFabSwitch value s
  | .debugUnlock value => Sys2Proof.Machine.execDebugUnlock value s
  | .debugRelock value => Sys2Proof.Machine.execDebugRelock value s
  | .dbgGo value bad => Sys2Proof.Machine.execDbgGo value bad s
  | .scrubStart => Sys2Proof.Machine.execScrubStart s
  | .scrubKeysErased => Sys2Proof.Machine.execScrubKeysErased s
  | .scrubOverwriteDone => Sys2Proof.Machine.execScrubOverwriteDone s
  | .partScrubbed => Sys2Proof.Machine.execPartScrubbed s
  | .injArm value => Sys2Proof.Machine.execInjArm value s
  | .injDisarm value => Sys2Proof.Machine.execInjDisarm value s
  | .calApply value => Sys2Proof.Machine.execCalApply value s
  | .selfTestPhaseComplete now failed found fatal => Sys2Proof.Machine.execSelfTestPhaseComplete now failed found fatal s
  | .telemetryConsumer consumer => Sys2Proof.Machine.execTelemetryConsumer consumer s
  | .storageServiceBit => Sys2Proof.Machine.execStorageServiceBit s
  | .pwrEnRise => Sys2Proof.Machine.execPwrEnRise s
  | .powerUpHoldoffEnd => Sys2Proof.Machine.execPowerUpHoldoffEnd s
  | .pwrGoodRise => Sys2Proof.Machine.execPwrGoodRise s
  | .pkgRstRelease mgmtSel => Sys2Proof.Machine.execPkgRstRelease mgmtSel s
  | .pkgRstAssert => Sys2Proof.Machine.execPkgRstAssert s
  | .pwrEnFall => Sys2Proof.Machine.execPwrEnFall s
  | .pwrGoodFall => Sys2Proof.Machine.execPwrGoodFall s
  | .refclkFabLoss => Sys2Proof.Machine.execRefclkFabLoss s
  | .refclkHostLoss => Sys2Proof.Machine.execRefclkHostLoss s
  | .pldmGetSensor now n k => Sys2Proof.Machine.execPldmGetSensor now n k s
  | .extest => Sys2Proof.Machine.execExtest s
  | .clamp => Sys2Proof.Machine.execClamp s
  | .highz => Sys2Proof.Machine.execHighz s
  | .illegalInstruction t word => Sys2Proof.Machine.execIllegalInstruction t word s
  | .dcpIdleFlit n dir flit bad => Sys2Proof.Machine.execDcpIdleFlit n dir flit bad s
  | .hostLinkTrained speed width mode => Sys2Proof.Machine.execHostLinkTrained speed width mode s
  | .doeDiscovery f index => Sys2Proof.Machine.execDoeDiscovery f index s
  | .completionTimeout fetch n => Sys2Proof.Machine.execCompletionTimeout fetch n s
  | .ideKm fn id stream op rx tx => Sys2Proof.Machine.execIdeKm fn id stream op rx tx s
  | .eventSummaryJournal => Sys2Proof.Machine.execEventSummaryJournal s
  | .instrumentAccess write addr len data bad => Sys2Proof.Machine.execInstrumentAccess write addr len data bad s
  | .ropeEnable k value => Sys2Proof.Machine.execRopeEnable k value s

end Sys2Proof.Machine
end

