-- ==== Sys2Proof/Safety.lean ====
section
/-!
DEFINITION. What counts as a safe step, and the words in which claims speak of one: a command gives a next state of
which something holds, and a command leaves parts of the state as they were. A fault answers a command whose operands name
no unit of the package; no command is refused.
-/
namespace Sys2Proof.Machine

/-- An outcome that is a next state. -/
def Safe (o : Host.Outcome State Fault Refusal) : Prop := ∃ t, o = .next t

/-- The command runs and answers a next state of which `P` holds. -/
def Gives (c : Instr) (s : State) (P : State → Prop) : Prop := ∃ t, exec c s = .next t ∧ P t

/-- The parts of the state, one for each field. -/
inductive Area where
  | regs | pkg | time | timers | seq | free | pending | out | hiLatch | commitLatch | pins | fence | power | rigs
  | treads | chans | knots | flights | stages | ctxs | landings | parts | reds | mem | memCheck | memEpoch | memKey
  | ucs | sparse | gathers | ropes | lasers | fabric | bundles | hces | rings | pcie | svcs | journal | sec | det
  deriving DecidableEq, Repr

/-- A part of the state is the same in two states. -/
def Area.same : Area → State → State → Prop
  | .regs, s, t => t.regs = s.regs
  | .pkg, s, t => t.pkg = s.pkg
  | .time, s, t => t.time = s.time
  | .timers, s, t => t.timers = s.timers
  | .seq, s, t => t.seq = s.seq
  | .free, s, t => t.free = s.free
  | .pending, s, t => t.pending = s.pending
  | .out, s, t => t.out = s.out
  | .hiLatch, s, t => t.hiLatch = s.hiLatch
  | .commitLatch, s, t => t.commitLatch = s.commitLatch
  | .pins, s, t => t.pins = s.pins
  | .fence, s, t => t.fence = s.fence
  | .power, s, t => t.power = s.power
  | .rigs, s, t => t.rigs = s.rigs
  | .treads, s, t => t.treads = s.treads
  | .chans, s, t => t.chans = s.chans
  | .knots, s, t => t.knots = s.knots
  | .flights, s, t => t.flights = s.flights
  | .stages, s, t => t.stages = s.stages
  | .ctxs, s, t => t.ctxs = s.ctxs
  | .landings, s, t => t.landings = s.landings
  | .parts, s, t => t.parts = s.parts
  | .reds, s, t => t.reds = s.reds
  | .mem, s, t => t.mem = s.mem
  | .memCheck, s, t => t.memCheck = s.memCheck
  | .memEpoch, s, t => t.memEpoch = s.memEpoch
  | .memKey, s, t => t.memKey = s.memKey
  | .ucs, s, t => t.ucs = s.ucs
  | .sparse, s, t => t.sparse = s.sparse
  | .gathers, s, t => t.gathers = s.gathers
  | .ropes, s, t => t.ropes = s.ropes
  | .lasers, s, t => t.lasers = s.lasers
  | .fabric, s, t => t.fabric = s.fabric
  | .bundles, s, t => t.bundles = s.bundles
  | .hces, s, t => t.hces = s.hces
  | .rings, s, t => t.rings = s.rings
  | .pcie, s, t => t.pcie = s.pcie
  | .svcs, s, t => t.svcs = s.svcs
  | .journal, s, t => t.journal = s.journal
  | .sec, s, t => t.sec = s.sec
  | .det, s, t => t.det = s.det

/-- Every part of the state but those listed is the same in both states. -/
def KeepsBut (l : List Area) (s t : State) : Prop := ∀ a, a ∉ l → a.same s t

/-- Whenever the command answers a next state, it has changed only the parts listed. -/
def Changes (l : List Area) (c : Instr) : Prop := ∀ s t, exec c s = .next t → KeepsBut l s t

/-! ## Registers -/

/-- Every register field but those listed holds the same value. -/
def FieldsBut (l : List Fld) (s u : State) : Prop := ∀ f : Fld, f.key ∉ l.map Fld.key → u.get f = s.get f

/-- The physical function's access reaches an offset of BAR0: any offset past BOOT, and in BOOT the identity block and the
host-port configuration (01 R33). -/
def PfReaches (s : State) (off : Nat) : Prop :=
  off < bar2 ∧ (s.pkg ≠ .boot ∨ off < 0x10_0000 ∨ (0x20_0000 ≤ off ∧ off < 0x30_0000))

/-- A register found at its own offset whose fields lie apart within it. -/
def RegisterAt (off n : Nat) (a : RegAt) : Prop :=
  regAt? off = some a ∧ a.byte = 0 ∧ a.row.width = 8 * n
  ∧ (a.flds.map fun x => x.1.key).Nodup ∧ ∀ x ∈ a.flds, x.1.lo + x.1.width ≤ 8 * n

/-- The fields of a register. -/
def RegAt.fields (a : RegAt) : List Fld := a.flds.map Prod.fst

/-- The journal's active device holds a record (13 R478). -/
def Journaled (type key : Nat) (body : List Byte) (u : State) : Prop :=
  ((⟨type, key, padTo8 body⟩, true) : JrnRec × Bool) ∈ u.journal.records

/-- The physical function's ring holds a record of this event and body, or has no room for one (12 R442). -/
def Recorded (code : Nat) (body : List Nat) (u : State) : Prop :=
  1024 ≤ (u.ring 0).pend.length ∨ ∃ r ∈ (u.ring 0).pend, r.code = code ∧ r.body = body

/-! ## Rigging -/

/-- Every byte of Yuseon outside `size` bytes at `base` is the same. -/
def BytesBut (base size : Nat) (s u : State) : Prop := ∀ o, o < base ∨ base + size ≤ o → u.memByte o = s.memByte o

/-- Every partition but `p` holds what it held of its rigging. -/
def OtherRigs (p : Nat) (s u : State) : Prop := ∀ q, q ≠ p → u.rig q = s.rig q

/-- The load of partition `p` has been given up with a code: its image is gone, and its slot is cleared (03 R108, R124). -/
def LoadDropped (p code : Nat) (s u : State) : Prop :=
  u.get (Reg.RIG_ERROR_CODE p) = code ∧ (u.rig p).image = none ∧ (u.rig p).live = false
  ∧ (∀ o, imageSlot p ≤ o → o < imageSlot p + 0x2000_0000 → u.memByte o = 0)
  ∧ BytesBut (imageSlot p) 0x2000_0000 s u ∧ OtherRigs p s u

/-- The load of partition `p` has ended as REFUSED with a code (03 R123, R124). -/
def LoadRefused (p code : Nat) (s u : State) : Prop := u.ldState p = 7 ∧ LoadDropped p code s u

/-! ## Jobs and engines -/

/-- The job of partition `p` has been asked to halt for a cause (13 R462, R463): the cause is recorded, and at the root of its
commit tree the partition is HALTED. A service without a running job has nothing to halt. -/
def JobHalts (p cause : Nat) (s u : State) : Prop :=
  let st := (s.svc p).state
  p < 8 → st ≠ .idle → st ≠ .joining → st ≠ .treeError →
    u.get (Reg.STEP_STATUS_CAUSE p) = cause ∧ (s.isRoot p = true → (u.svc p).state = .halted)

/-- A partition's rewind has been asked for a cause (13 R462, R463): the cause is recorded, and at the root, without an order in
force, the rewind to the oldest undecided step begins. -/
def JobRewinds (p cause : Nat) (s u : State) : Prop :=
  let v := s.svc p
  p < 8 → v.state ≠ .idle → v.state ≠ .joining → v.state ≠ .treeError →
    (v.order = none → s.isRoot p = true → v.state ≠ .halted → (u.svc p).state = .rewinding
      ∧ (u.rig p).winding = true ∧ ∃ o, (u.svc p).order = some o ∧ o.kind = .rewind ∧ o.target = v.decided + 1 ∧ o.cause = cause)
    ∧ (s.isRoot p = false → u.get (Reg.STEP_STATUS_CAUSE p) = cause ∧ u.svc p = { v with outage := (u.svc p).outage })

/-- An engine's access to `n` bytes of this package's Yuseon passes its checks (11 R558). -/
def EngMay (a : Agent) (op addr n : Nat) (s : State) : Prop :=
  fabPkg addr = s.get Reg.PKG_ID_ID ∧ fabCls addr = 0 ∧ fabOff addr + n ≤ yuseonSize
  ∧ ∀ x ∈ lineParts addr n, s.engCheck a op x.1 x.2 = 0

/-- Every line of `n` bytes at a class-0 offset passes its check at once (09 R324). -/
def Sound (o n : Nat) (s : State) : Prop := ∀ l ∈ linesOf o n, s.lineCheck [] l = 0

/-- No fault is armed for injection (15 R515). -/
def Uninjected (s : State) : Prop := s.det.armed = none

/-- An engine's read of `n` bytes of this package's Yuseon succeeds. -/
def EngReads (a : Agent) (addr n : Nat) (s : State) : Prop := EngMay a opRead addr n s ∧ Sound (fabOff addr) n s

/-- An engine's write of `n` bytes of this package's Yuseon succeeds. -/
def EngWrites (a : Agent) (addr n : Nat) (s : State) : Prop := EngMay a opWrite addr n s ∧ Sound (fabOff addr) n s

/-- Every flight but those listed holds what it held. -/
def FlightsBut (l : List Nat) (s u : State) : Prop := ∀ g, g ∉ l → u.flight g = s.flight g
def StagesBut (l : List Nat) (s u : State) : Prop := ∀ n, n ∉ l → u.stage n = s.stage n
def CtxsBut (l : List Nat) (s u : State) : Prop := ∀ n, n ∉ l → u.ctx n = s.ctx n
def LandingsBut (l : List Nat) (s u : State) : Prop := ∀ n, n ∉ l → u.landing n = s.landing n
def RedsBut (l : List Nat) (s u : State) : Prop := ∀ n, n ∉ l → u.red n = s.red n
def UcsBut (l : List Nat) (s u : State) : Prop := ∀ n, n ∉ l → u.uc n = s.uc n
def RopesBut (l : List Nat) (s u : State) : Prop := ∀ n, n ∉ l → u.rope n = s.rope n
def LasersBut (l : List Nat) (s u : State) : Prop := ∀ n, n ∉ l → u.laser n = s.laser n
def BundlesBut (l : List Nat) (s u : State) : Prop := ∀ n, n ∉ l → u.bundle n = s.bundle n
def HcesBut (l : List Nat) (s u : State) : Prop := ∀ n, n ∉ l → u.hce n = s.hce n
def RingsBut (l : List Nat) (s u : State) : Prop := ∀ n, n ∉ l → u.ring n = s.ring n
def PartsBut (l : List Nat) (s u : State) : Prop := ∀ n, n ∉ l → u.part n = s.part n
def SvcsBut (l : List Nat) (s u : State) : Prop := ∀ n, n ∉ l → u.svc n = s.svc n
def TreadsBut (l : List Nat) (s u : State) : Prop := ∀ n, n ∉ l → u.tread n = s.tread n

/-! ## Stages -/

/-- Stage slot `slot` belongs to partition `p`'s loaded image with STAGE entry `t`. -/
def StageAt (slot p : Nat) (t : StageCfg) (s : State) : Prop :=
  slot < 64 ∧ s.slotPart slot = some p ∧ (s.imageOf p).stage? slot = some t

/-- Every tread of the stage that was in HALT has the micro-batch of context `c` in its registers; on a flight with admission it
runs at instruction 0, and on one without it waits for the flight's token (02 R55). At a step's first micro-batch its registers
and data SRAM are zero, else they are as they were (04 R129, R135, 07 R242). -/
def TreadsStarted (slot c : Nat) (first : Prop) (s u : State) : Prop :=
  ∀ gf ∈ s.stageFlights slot, ∀ x ∈ s.flightTreads gf, (s.tread x).st = .halt →
    let y := u.tread x
    let k := u.ctx c
    (gf ∈ s.power.admitted → y.st = .run ∧ y.pc = 0)
    ∧ (gf ∉ s.power.admitted → y.st = .halt ∧ y.pc = (s.tread x).pc ∧ gf ∈ u.power.starting)
    ∧ y.ctx = BitVec.ofNat 32 c ∧ y.step = BitVec.ofNat 32 k.step
    ∧ y.mb = BitVec.ofNat 32 ((if k.state = .bwd then 2 ^ 31 else 0) + k.tag % 16 * 2 ^ 16 + k.mbId % 2 ^ 16)
    ∧ (first → y.sreg = [] ∧ y.vreg = [] ∧ y.dmem = [])
    ∧ (¬first → y.sreg = (s.tread x).sreg ∧ y.vreg = (s.tread x).vreg ∧ y.dmem = (s.tread x).dmem)

/-- SEQ_STATUS, SEQ_CURRENT and SEQ_STEP show the micro-batch of context `c` (07 R278). -/
def ShowsMicroBatch (slot c : Nat) (u : State) : Prop :=
  u.get (Reg.SEQ_STATUS_MB_ID slot) = (u.ctx c).mbId % 2 ^ 16 ∧ u.get (Reg.SEQ_CURRENT_CONTEXT slot) = c % 2 ^ 14
  ∧ u.get (Reg.SEQ_CURRENT_MB_SEQ slot) = (u.ctx c).mbSeq % 2 ^ 12 ∧ u.get (Reg.SEQ_STEP_STEP slot) = (u.ctx c).step % 2 ^ 64

/-- The sequencer waits for a cause, and nothing else has changed. -/
def SeqWaits (slot cause : Nat) (s u : State) : Prop :=
  KeepsBut [.stages, .out] s u ∧ StagesBut [slot] s u ∧ u.stage slot = { s.stage slot with wait := cause }

/-- The stage has met another landing entry than it expects: it stops with the entry left, and its job halts (07 R257). -/
def EntryRefused (slot p n : Nat) (s u : State) : Prop :=
  u.stage slot = { s.stage slot with stopped := true } ∧ StagesBut [slot] s u ∧ u.landings = s.landings ∧ u.ctxs = s.ctxs
  ∧ u.treads = s.treads ∧ u.mem = s.mem ∧ u.get (Reg.LAND_COUNTS_ERRORS n) = min 0xFFFF (s.get (Reg.LAND_COUNTS_ERRORS n) + 1)
  ∧ (∃ body, Recorded 0x0402 body u) ∧ JobHalts p 0x8 s u

/-- A message of a kind and body has been handed to channel `v` of rope `k` (10 R371). -/
def Sent (k v kind : Nat) (body : List Byte) (u : State) : Prop :=
  ∃ m, .rope k v ⟨kind, m⟩ ∈ u.out ∧ m.drop 16 = body

/-! ## Rings -/

/-- A stage of partition `p` with the ring descriptor `g`. -/
def RingAt (slot p : Nat) (g : RingCfg) (s : State) : Prop :=
  slot < 64 ∧ s.slotPart slot = some p ∧ (s.imageOf p).ring? slot = some g

/-- The finite flag of a step is clear (08 R293). -/
def Unfinite (p step : Nat) (u : State) : Prop := ∃ c ∈ (u.part p).cleared, c.step = step

/-- The sum of two pairs, as a pair (06 R224, 08 R289). -/
def pairSum (a b : Nat) : Nat := pairOf (fadd (ofPair a) (ofPair b)).v

/-- The job of the channel's partition halts after a message that names no matching target; the channel delivers no more
(10 R373). -/
def PeerMismatch (k v : Nat) (msg : List Byte) (s u : State) : Prop :=
  (u.vchan k v).stopped = true ∧ (∃ a b c d, Recorded 0x0702 [k, v, a, b, c, d] u ∧ a = ofLe (msg.take 4))
  ∧ ∀ p, (s.vchan k v).part = some p → JobHalts p 0x8 s u

/-- Lane `i` of register `r` of an undercroft's vector engine. -/
def State.ucLane (s : State) (n r i : Nat) : Nat := tget 0 (s.uc n).v (1024 * r + i)

/-- Register `vd` of undercroft `n` takes the lanes `f`; nothing else changes. -/
def LanesTake (n : Nat) (vd : BitVec 3) (f : Nat → Nat) (s u : State) : Prop :=
  KeepsBut [.ucs, .out] s u ∧ UcsBut [n] s u ∧ (∀ i, i < 1024 → u.ucLane n vd.toNat i = f i)
  ∧ (∀ r i, r < 8 → r ≠ vd.toNat → i < 1024 → u.ucLane n r i = s.ucLane n r i) ∧ { u.uc n with v := (s.uc n).v } = s.uc n
/-! ## Ropes -/

/-- A rope in the state GRACE (10 R380): bring-up begins again, and its buffers, counters and sequence numbers are kept. -/
def InGrace (k : Nat) (s u : State) : Prop :=
  u.ropeSt k = 4 ∧ (u.rope k).phase = 1 ∧ (u.rope k).grace = some (u.timer k) ∧ (u.rope k).held = (s.rope k).held
  ∧ (u.rope k).chans = (s.rope k).chans ∧ (u.rope k).txNext = (s.rope k).txNext ∧ (u.rope k).rxExpect = (s.rope k).rxExpect
  ∧ u.get (Reg.ROPE_SESSION_LOCAL k) = s.get (Reg.ROPE_SESSION_LOCAL k)

/-- A flush of a rope end (10 R381): the replay and receive buffers are empty, sequence numbers begin at 0, every counter is at its
limit, the session is a new one, and `ROPE_DOWN` names the channels that held flits. -/
def Flushed (k : Nat) (s u : State) : Prop :=
  (u.rope k).held = [] ∧ (u.rope k).txNext = 0 ∧ (u.rope k).rxExpect = 0
  ∧ u.get (Reg.ROPE_SESSION_LOCAL k) = (s.get (Reg.ROPE_SESSION_LOCAL k) + 1) % 2 ^ 16
  ∧ u.get (Reg.ROPE_COUNTS_FLUSHES k) = min 0xFF (s.get (Reg.ROPE_COUNTS_FLUSHES k) + 1)
  ∧ Recorded 0x0705 [k, (s.rope k).heldMask] u
  ∧ ∀ v, v < (s.rope k).chans.length → (u.vchan k v).credit = (s.vchan k v).limit ∧ (u.vchan k v).rx = [] ∧ (u.vchan k v).early = []
    ∧ (u.vchan k v).freed = 0 ∧ (u.vchan k v).cumSeen = 0

/-- Channel `v` of rope `k` becomes `c`, and nothing else of the rope changes, nor any other rope. -/
def VcBecomes (k v : Nat) (c : VChan) (s u : State) : Prop :=
  RopesBut [k] s u ∧ u.rope k = { s.rope k with chans := lset (s.rope k).chans v c }

/-- The plain bytes that an accepted flit carries on channel `v` (10 R374 to R377): an encrypted one under a held key whose tag
passes, or a plain one on a virtual channel that has accepted no encrypted one under its current key. -/
def Opens (k v : Nat) (f m : List Byte) (s : State) : Prop :=
  let h := hdrOf f
  let c := s.vchan k v
  let nonce := nonceOf (s.get (Reg.ROPE_PEER_PEER_ID k)) (s.get (Reg.ROPE_PEER_PEER_ROPE k)) v (c.rxAt h.keyEpoch)
  if h.enc then c.keyAt h.keyEpoch ≠ 0 ∧ openBody (c.keyAt h.keyEpoch) nonce h (flitBody f) = some m
  else v ≠ 8 ∧ (c.keyAt c.cur = 0 ∨ c.rxAt c.cur = 0) ∧ m = (flitBody f).take h.fill

/-- A message names landing `n` of kind `kind` on this rope and channel, held by the channel's partition `p`, whose job, peer and
peer landing are the message's (10 R373). -/
def NamesLanding (k v kind : Nat) (msg : List Byte) (p n : Nat) (s : State) : Prop :=
  n = mTarget msg % 512 ∧ (s.vchan k v).part = some p ∧ (s.imageOf p).jobId = mJob msg
  ∧ ∃ c, (s.imageOf p).land? n = some c ∧ c.kind = kind ∧ c.rope = k ∧ c.vc = v ∧ c.peerLanding = mSource msg
    ∧ c.peer = s.get (Reg.ROPE_PEER_PEER_ID k)

/-- The tree edge of partition `p` to `peer` is lost (13 R474): a service at work waits in WAIT_PEER and reports the peer. -/
def EdgeLost (p peer : Nat) (s u : State) : Prop :=
  (s.svc p).state = .running → (u.svc p).state = .waitPeer ∧ Recorded 0x0A08 [peer] u

/-! ## Die links -/

/-- A bundle carries a channel: it is active, and has channel 2 if that is the channel (11 R412). -/
def Carries (n c : Nat) (s : State) : Prop := s.dieSt n = 2 ∧ (c = 2 → bit (s.get (Reg.DL_STATUS_CHANNELS n)) 2 = true)

/-- The bundle that serves for channel `c` in place of bundle `n` (11 R411, R412): the next of its pair that carries the channel, in
ascending order, wrapping round. -/
def Serves (n c m : Nat) (s : State) : Prop :=
  let base := (diePair n).1
  let size := (diePair n).2
  let at_ := fun i => base + (n - base + i) % size
  ∃ i, 0 < i ∧ i < size ∧ m = at_ i ∧ Carries m c s ∧ ∀ j, 0 < j → j < i → ¬Carries (at_ j) c s

/-- The message flits of a direction that the other end has not accepted (11 R414). -/
def DieDir.unaccepted (x : DieDir) : List (Nat × List Byte) :=
  (x.held.filter fun h => decide (512 ≤ seqSub 10 (x.rxExpect + 1023) h.1)).map fun h => (h.2.1, h.2.2)

/-- The flits of channel `c` that wait in a direction. -/
def DieDir.queued (x : DieDir) (c : Nat) : List (Nat × List Byte) := x.queue.filter fun q => q.1 == c

/-- Direction `d` of bundle `n` has moved its unaccepted messages: those of each channel in order to the bundle that now serves
for it; without one they wait where they were (11 R414). -/
def Moved (n d : Nat) (s u : State) : Prop :=
  let x := (s.bundle n).dir d
  let y := (u.bundle n).dir d
  let going := fun (c : Nat) => (x.unaccepted ++ x.queue).filter fun q => q.1 == c
  y = { DieDir.init with queue := y.queue }
  ∧ ∀ c, ((∀ m, ¬Serves n c m s) → y.queued c = going c)
    ∧ ∀ m, Serves n c m s → y.queued c = [] ∧ ((u.bundle m).dir d).queued c = ((s.bundle m).dir d).queued c ++ going c
      ∧ ∀ q ∈ x.unaccepted, q.1 = c → .die m q.2 ∈ u.out

/-- Bundle `n` is fenced (11 R414). -/
def BundleFenced (n : Nat) (s u : State) : Prop :=
  u.dieSt n = 3 ∧ u.get (Reg.DL_STATUS_RATE n) = 0 ∧ u.get (Reg.DL_STATUS_WIDTH n) = 0 ∧ Recorded 0x0803 [n] u
  ∧ Moved n 0 s u ∧ Moved n 1 s u

/-- Bundle `n` trains; a training after the first is counted (11 R419). -/
def BundleTrains (n : Nat) (s u : State) : Prop :=
  u.dieSt n = 1 ∧ (u.bundle n).trained = (s.bundle n).trained + 1
  ∧ (0 < (s.bundle n).trained → u.get (Reg.DL_COUNTS_RETRAINS n) = min 0xFF (s.get (Reg.DL_COUNTS_RETRAINS n) + 1))

/-! ## The host port -/

/-- Function `f` shows that it is detached (12 R444 to R446): its first cause and its pending records are kept, its ring is off, and its
copy engines are stopped with their registers reset; the descriptors in flight are kept for the reattach record. -/
def Detached (cause f : Nat) (s u : State) : Prop :=
  let g := s.ring f
  let x := u.ring f
  (∃ l, x.pend = g.pend ++ l)
  ∧ x.detached = (if g.detached ≠ 0 then g.detached else if g.reattach then g.detachCause else cause)
  ∧ u.get (Reg.EVT_CFG_ENABLE f) = 0 ∧ u.get (Reg.EVT_HEAD_HEAD f) = 0 ∧ u.get (Reg.EVT_TAIL_TAIL f) = 0
  ∧ (∀ e, e < 16 → s.engineFn? e = some f → u.hce e = Hce.init ∧ u.get (Reg.HCE_CTRL_ENABLE e) = 0 ∧ u.get (Reg.HCE_STATUS_STATE e) = 0
    ∧ ∀ w ∈ (s.hce e).work, (e, w.index, w.desc.tag) ∈ x.ended)
  ∧ ∀ k ∈ u.sec.sessions, k.fn ≠ f

/-- What a detach does beside its functions' own state: it is seen and counted. -/
def DetachSeen (s u : State) : Prop :=
  u.get Reg.PKG_STATE_DETACHED_SEEN = 1 ∧ u.get Reg.HP_STATUS_DETACHED = 1
  ∧ u.get Reg.HP_COUNTS_DETACHES = min 0xFF (s.get Reg.HP_COUNTS_DETACHES + 1)
  ∧ (∀ c, u.get (Reg.MB_P2H c) = s.get (Reg.MB_P2H c)) ∧ (∀ e, u.get (Reg.BIND_HCE_VALID e) = s.get (Reg.BIND_HCE_VALID e))

/-- What a detach of the physical function resets more (12 R445, 03 R114): placement entries and bounce registers; fetches end. -/
def PhysicalDetached (s u : State) : Prop :=
  (∀ i, i < 64 → u.get (Reg.PLC_CFG_VALID i) = 0) ∧ (∀ k, k < 3 → u.get (Reg.BNC_BASE_BASE k) = 0)
  ∧ ∀ p, p < 8 → s.ldState p = 1 → u.ldState p = 7 ∧ u.get (Reg.RIG_ERROR_CODE p) = 0x20

/-- Descriptor `d` at ring index `i` of engine `e` has started, and ended with a status and detail: HEAD has moved on, and a failure has
stopped the engine and is reported (12 R431, R434, R438). -/
def Ended (e : Nat) (d : HceDesc) (status detail : Nat) (s u : State) : Prop :=
  let h := s.hce e
  let i := s.get (Reg.HCE_STATUS_HEAD e)
  let next := (i + 1) % s.hceSize e
  HcesBut [e] s u ∧ (u.hce e).work = h.work ++ [⟨i, d, true, status, detail, none⟩] ∧ u.get (Reg.HCE_STATUS_HEAD e) = next
  ∧ (u.hce e).phase = (if next = 0 then !h.phase else h.phase)
  ∧ (status ≠ 0 → u.get (Reg.HCE_STATUS_STATE e) = 2 ∧ Recorded 0x0902 [e, i, status, detail] u)
  ∧ (status = 0 → u.get (Reg.HCE_STATUS_STATE e) = 1)

/-! ## Steps -/

/-- A tree message of a kind goes out on the control channel of a rope (13 R458). -/
def TreeSent (k kind : Nat) (m : TreeMsg) (u : State) : Prop := Sent k 8 kind (treeBody m) u

/-- A tree message goes to every child that has joined. -/
def ToChildren (p kind : Nat) (m : TreeMsg) (u : State) : Prop := ∀ j ∈ (u.svc p).joined, TreeSent j.1 kind m u

/-- Each stage of partition `p` is about to admit the first micro-batches of step `t`. -/
def StagesAt (p t : Nat) (s u : State) : Prop :=
  ∀ x ∈ (s.imageOf p).stages, (∀ y ∈ (s.imageOf p).stages, y.slot = x.slot → y = x) →
    (u.stage x.slot).fStep = t ∧ (u.stage x.slot).fSeq = 0 ∧ (u.stage x.slot).bStep = t ∧ (u.stage x.slot).bSeq = 0

/-- The job of partition `p` has started (13 R457 step 4). -/
def JobStarts (p : Nat) (s u : State) : Prop :=
  let base := s.get (Reg.STEP_BASE_STEP p)
  let c := s.get (Reg.STEP_VBASE_COUNT p)
  let job := (s.imageOf p).jobId
  u.get (Reg.COMMITTED_STEP_STEP p) = base % 2 ^ 64 ∧ u.get (Reg.COMMITTED_INFO_VERSION p) = c % 16
  ∧ u.get (Reg.COMMITTED_INFO_SKIPPED p) = 0 ∧ u.get (Reg.COMMITTED_INFO_SKIP_COUNT p) = 0
  ∧ u.get (Reg.COMMITTED_JOB_JOB_ID p) = job % 2 ^ 32 ∧ (u.part p).count = c
  ∧ (∀ i, i < 8 → tget 0x3F80_0000 (u.part p).scale i = s.get (Reg.SCHED_SCALE_LR_SCALE p i))
  ∧ (u.svc p).state = .running ∧ u.get (Reg.STEP_STATUS_STATE p) = 2 ∧ (u.svc p).decided = base ∧ (u.svc p).epoch = 0
  ∧ StagesAt p (base + 1) s u ∧ ToChildren p 0x11 ⟨job, 0, 0, base, 0, 0⟩ u

/-- TREE_ERROR, with the peer that offends, if one does (13 R457). -/
def TreeFails (p : Nat) (peer : Option Nat) (u : State) : Prop :=
  (u.svc p).state = .treeError ∧ u.get (Reg.STEP_STATUS_STATE p) = 8 ∧ Recorded 0x0A00 [peer.getD 0] u
  ∧ u.get (Reg.TREE_STATUS_VALID p) = (if peer = none then 0 else 1) ∧ u.get (Reg.TREE_STATUS_PEER_ID p) = peer.getD 0 % 2 ^ 14

/-- The conditions under which a package votes on the step after the last resolved one (13 R459). -/
def VoteDue (p : Nat) (s : State) : Prop :=
  let v := s.svc p
  (v.state = .running ∨ v.state = .catchup ∨ v.state = .waitPeer) ∧ v.order = none ∧ v.voted ≠ some (v.decided + 1)
  ∧ s.updatesWritten p (v.decided + 1) = true ∧ ∀ j ∈ v.joined, ∃ x ∈ v.votes, x.1 = j.1

/-- FINITE and AGREE of a package's vote (13 R459). -/
def VotesFinite (p : Nat) (s : State) : Prop :=
  (∀ c ∈ (s.part p).cleared, c.step ≠ (s.svc p).decided + 1) ∧ ∀ x ∈ (s.svc p).votes, bit x.2.flags 0 = true
def VotesAgree (p : Nat) (s : State) : Prop :=
  ∀ x ∈ (s.svc p).votes, x.2.step = (s.svc p).decided + 1 ∧ x.2.a = (s.part p).count + 1 ∧ bit x.2.flags 1 = true

/-- The lowest newest complete frame step of the package and its children (13 R459). -/
def State.lowestFrame (s : State) (p : Nat) : Nat := (s.svc p).votes.foldl (fun n x => min n x.2.b) (s.newestFrame p)

/-- A step is resolved here (01 R23, R39, 07 R261, R262, 13 R460, R466): a first resolution shows in PART_COMMIT and moves the
version count; a confirmation shows nothing. -/
def Resolved (p step : Nat) (commit : Bool) (safe : Nat) (s u : State) : Prop :=
  let c := (s.part p).count
  let m := max 1 (s.imageOf p).maxLive
  (u.svc p).decided = step ∧ u.get (Reg.CKPT_SAFE_STEP p) = safe % 2 ^ 64 ∧ (u.part p).count = (if commit then c + 1 else c)
  ∧ (commit = true → tget (.free, 0) (u.part p).slots ((c + 1) % m) = (.newest, c + 1))
  ∧ (commit = false → ∀ k, (tget (.free, 0) (s.part p).slots k).1 = .building → tget (.free, 0) (u.part p).slots k = (.free, 0))
  ∧ ((s.svc p).confirmTo < step → u.get (Reg.COMMITTED_STEP_STEP p) = step % 2 ^ 64 ∧ u.get (Reg.COMMITTED_INFO_VALID p) = 1
    ∧ u.get (Reg.COMMITTED_INFO_SKIPPED p) = (if commit then 0 else 1) ∧ u.get (Reg.COMMITTED_INFO_VERSION p) = (u.part p).count % 16
    ∧ u.get (Reg.COMMITTED_JOB_JOB_ID p) = (s.imageOf p).jobId % 2 ^ 32
    ∧ (commit = false → u.get (Reg.COMMITTED_INFO_SKIP_COUNT p) = min (2 ^ 24 - 1) (s.get (Reg.COMMITTED_INFO_SKIP_COUNT p) + 1)))
  ∧ (step ≤ (s.svc p).confirmTo → u.get (Reg.COMMITTED_STEP_STEP p) = s.get (Reg.COMMITTED_STEP_STEP p)
    ∧ u.get (Reg.COMMITTED_INFO_SKIPPED p) = s.get (Reg.COMMITTED_INFO_SKIPPED p)
    ∧ u.get (Reg.COMMITTED_INFO_VERSION p) = s.get (Reg.COMMITTED_INFO_VERSION p)
    ∧ ((s.svc p).outcomes.find? (fun o => o.1 == step) = some (step, commit) → Recorded 0x0A02 [step % 2 ^ 32, step / 2 ^ 32] u
      ∧ u.get (Reg.STEP_STATUS_CAUSE p) = 0x9))

/-- A halt is applied here (13 R463): HALTED with the originating cause. -/
def Halted (p cause : Nat) (u : State) : Prop :=
  (u.svc p).state = .halted ∧ u.get (Reg.STEP_STATUS_STATE p) = 6 ∧ u.get (Reg.STEP_STATUS_CAUSE p) = cause % 16

/-- The root has decided the step after the last resolved one, and told its children (13 R460). -/
def Decides (p : Nat) (s u : State) : Prop :=
  let step := (s.svc p).decided + 1
  let safe := s.lowestFrame p
  let ordered := fun (cause a : Nat) => ToChildren p 0x13 ⟨(s.imageOf p).jobId, 0, cause, step, a, safe⟩ u
  (¬VotesAgree p s → Halted p 0xB u ∧ ordered 0xB 2)
  ∧ (VotesAgree p s → VotesFinite p s → Resolved p step true safe s u ∧ ordered 0 0)
  ∧ (VotesAgree p s → ¬VotesFinite p s → Resolved p step false safe s u ∧ ordered 0 1)

/-- An order is in force at a package (13 R463): it records a cause, and its work winds down unless the order is a query. -/
def OrderTaken (p : Nat) (kind : OrderKind) (target cause epoch : Nat) (s u : State) : Prop :=
  (u.svc p).state = (if kind = .rewind then .rewinding else .rollback)
  ∧ (∃ o, (u.svc p).order = some o ∧ o.kind = kind ∧ o.target = target ∧ o.cause = cause ∧ o.epoch = epoch)
  ∧ ((s.svc p).order = none → (s.svc p).outage = none → u.get (Reg.STEP_STATUS_CAUSE p) = 0x5)
  ∧ (kind ≠ .query → (u.rig p).winding = true)

/-- Partition `p` is rewound to the start of step `t` under epoch `e` (04 R129, R141, 05 R178, 07 R273, R274, 13 R463). -/
def Rewound (p t e cause : Nat) (s u : State) : Prop :=
  let r := s.imageOf p
  (u.svc p).epoch = e ∧ (u.svc p).votes = [] ∧ StagesAt p t s u
  ∧ (∀ i, i < r.routes.length → u.chan (Chan.route p i).key
      = { ChanData.init with limit := (s.chan (Chan.route p i).key).limit, credit := (s.chan (Chan.route p i).key).limit })
  ∧ (∀ gf ∈ s.placedFlights p, (u.flight gf).queue = [] ∧ (u.flight gf).loads = [] ∧ (u.flight gf).arrays = [])
  ∧ (∀ x ∈ s.partTreads p, (u.tread x).busy = false ∧ (u.tread x).sreg = [] ∧ (u.tread x).vreg = [] ∧ (u.tread x).dmem = [])
  ∧ (∀ x ∈ r.stages, ∀ c, x.ctxBase ≤ c → c < x.ctxBase + x.ctxCount → u.ctx c = Ctx.init)
  ∧ (∀ l ∈ r.lands, (u.landing l.num).ents = [] ∧ (u.landing l.num).wait = [])
  ∧ (∀ k, (tget (.free, 0) (s.part p).slots k).1 = .building → tget (.free, 0) (u.part p).slots k = (.free, 0))
  ∧ Recorded 0x0A01 [t % 2 ^ 32, t / 2 ^ 32, cause] u
  ∧ u.get (Reg.AVAIL_COUNTS_REWINDS p) = min 0xFFFF (s.get (Reg.AVAIL_COUNTS_REWINDS p) + 1)
  ∧ u.get (Reg.COMMITTED_STEP_STEP p) = s.get (Reg.COMMITTED_STEP_STEP p)

/-- RESUME is applied (13 R463 step 5): admission begins again, unless the image is being released (03 R115), and the interruption
ends. -/
def Resumes (p : Nat) (s u : State) : Prop :=
  (u.svc p).order = none ∧ ((u.rig p).winding = true ↔ (s.rig p).winding = true ∧ s.ldState p = Ld.releasing) ∧ (u.svc p).outage = none
  ∧ (u.svc p).state = (if (s.svc p).decided < (s.svc p).confirmTo then .catchup else .running)
  ∧ ∀ t own, (s.svc p).outage = some (t, own) →
    let f := if own then Reg.AVAIL_LOCAL_MS p else Reg.AVAIL_OTHER_MS p
    u.get f = min (2 ^ 32 - 1) (s.get f + (s.time - t + 999999) / 1000000)

/-! ## Tenancy, sessions and keys -/

/-- The command answers a status and changes only the parts listed. -/
def Says (n : Nat) (l : List Area) (c : Instr) (s : State) : Prop :=
  Gives c s fun u => KeepsBut (.out :: l) s u ∧ u.out = [.status n]

/-- Session `id` of function `fn` was mutually authenticated with the key that TENANT_ID of partition `p` names, on a function that
may speak for `p` (14 R494). -/
def TenantSession (fn id p : Nat) (s : State) : Prop :=
  fn < 9 ∧ p < 8 ∧ s.doeBusy fn = false ∧ (fn = 0 ∨ fn = p + 1)
  ∧ ∃ x, s.session? fn id = some x ∧ x.established = true ∧ x.owner ≠ [] ∧ Config.shake256 x.owner 32 = s.tenantId p

/-- A tenancy ends (14 R487, R505): an ACTIVE partition is released first and scrubbed after; an ASSIGNED one reads SCRUBBING, its scrub
stands last in the queue, its placement entries are invalid, and a load in progress is aborted. -/
def TenancyEnds (p : Nat) (s u : State) : Prop :=
  (s.partState p = 2 → u.mem = s.mem ∧ u.sec = s.sec ∧ OtherRigs p s u ∧ (u.rig p).scrubAfter = true
    ∧ (s.ldState p = 6 → u.ldState p = 8 ∧ (u.rig p).winding = true))
  ∧ (s.partState p = 1 → p ∉ s.sec.scrubs →
    u.partState p = 3 ∧ u.sec = { s.sec with scrubs := s.sec.scrubs ++ [p] } ∧ Recorded 0x0B04 [p] u ∧ OtherRigs p s u
    ∧ (∀ i, i < 64 → s.get (Reg.PLC_CFG_PARTITION i) = p → u.get (Reg.PLC_CFG_VALID i) = 0)
    ∧ (1 ≤ s.ldState p → s.ldState p ≤ 5 → u.ldState p = 0 ∧ LoadDropped p 0x22 s u)
    ∧ (s.ldState p = 0 ∨ 5 < s.ldState p → u.mem = s.mem ∧ u.rig p = s.rig p ∧ (s.ldState p = 7 → u.ldState p = 0)))

/-- A request on a function's DOE mailbox whose negotiation has reached `stage`. -/
def Spoken (fn stage : Nat) (s : State) : Prop := fn < 9 ∧ s.doeBusy fn = false ∧ stage ≤ (s.spdm fn).stage

/-- The command answers bytes, and nothing changes but the parts listed. -/
def Shows (l : List Byte) (as : List Area) (c : Instr) (s : State) : Prop :=
  Gives c s fun u => KeepsBut (.out :: as) s u ∧ u.out = [.bytes l]

/-- Every session but one is as it was. -/
def SessionsBut (fn id : Nat) (s u : State) : Prop := ∀ f i, ¬(f = fn ∧ i = id) → u.session? f i = s.session? f i

/-! ## Power and pins -/

/-- Everything volatile is at its reset value; the journal, the SVN fuses and the count of debug unlocks are kept (16 R542). -/
def StateLost (s u : State) : Prop :=
  KeepsBut [.journal, .free, .pending, .out, .pins, .power, .sec] State.reset u ∧ u.journal = s.journal ∧ u.free = s.free
  ∧ u.sec = { Sec.init with fuseSvn := s.sec.fuseSvn, unlocks := s.sec.unlocks } ∧ u.pins.faultN = true

/-- A power-on reset (16 R542 to R544): everything volatile is at its reset value, and a debug challenge is drawn. -/
def PowerOn (s u : State) : Prop :=
  KeepsBut [.journal, .free, .pending, .out, .pins, .power, .sec, .regs] State.reset u ∧ u.journal = s.journal ∧ u.pkg = .boot
  ∧ u.sec = { Sec.init with fuseSvn := s.sec.fuseSvn, unlocks := s.sec.unlocks } ∧ u.pins.faultN = true
  ∧ (∀ w, w < 8 → u.get (Reg.DBG_CHALLENGE w) = (Config.freeValue (s.free + w)).toNat % 2 ^ 32)
  ∧ u.get Reg.HP_STATUS_LINK = b2n s.pins.perstN
  ∧ ∀ f : Fld, f.key ∉ Reg.HP_STATUS_LINK.key :: (upFrom 0 8).map (fun w => (Reg.DBG_CHALLENGE w).key) → u.get f = f.reset

/-- The package is in FAULT and drives FAULT_N low; one that was in FAULT already stays as it was (01 R34, 16 R548). -/
def Faulted (s u : State) : Prop :=
  u.pkg = .fault ∧ (s.pkg ≠ .fault → u.pins = { s.pins with faultN := false } ∧ .pin .faultN false ∈ u.out)

/-! ## What each command may touch -/

/-- The parts of the state that a command may change; it changes no other, and the queue never. -/
def touches : Instr → List Area
  | .registerWrite _ _ _ _ | .rw1cWrite _ _ _ _ | .pkgIdLock _ | .eventSummaryJournal =>
    [.regs, .out, .journal, .det]
  | .rcRead _ _ _ | .highWordLatchRead _ _ _ | .committedStepRead _ _ _ | .status _ _ _ =>
    [.regs, .seq, .out, .hiLatch, .commitLatch, .rings, .journal, .sec, .det]
  | .pwrBudgetWrite _ _ =>
    [.regs, .time, .out, .power, .journal]
  | .powerLimitEffecter _ _ | .budgetWindowClose _ =>
    [.regs, .time, .out, .power]
  | .powerMeasurement _ _ _ =>
    [.regs, .time, .seq, .out, .power, .rings, .journal, .sec, .det]
  | .converterFailed _ _ =>
    [.regs, .pkg, .time, .seq, .out, .pins, .power, .rings, .journal, .sec, .det]
  | .inputLow _ | .injArm _ | .injDisarm _ =>
    [.regs, .seq, .out, .power, .rings, .det]
  | .inputRestored _ | .retainEntry _ =>
    [.regs, .out, .power]
  | .inputOutOfRange _ =>
    [.pkg, .out, .pins, .power]
  | .admissionToken _ =>
    [.regs, .out, .power, .treads]
  | .retainExit _ | .schedScaleWrite _ _ _ _ | .ucQuotaWrite _ _ _ _ | .plcValidWrite _ _ | .hceResume _ _ _
    | .evtHeadWrite _ _ _ | .linkRecovery | .mbH2pWrite _ _ _ | .mbP2hClear _ _ _ _ | .mbP2hMaskWrite _ _ _
    | .partWithdraw _ _ | .storageServiceBit =>
    [.regs, .out]
  | .thermalSample _ _ =>
    [.regs, .pkg, .time, .seq, .out, .pins, .power, .treads, .flights, .rings, .journal, .sec, .det]
  | .rigStart _ | .fetchFailed _ | .rigAbort _ =>
    [.regs, .out, .rigs, .mem, .memCheck, .memEpoch, .memKey]
  | .rigFetchComplete _ _ =>
    [.regs, .seq, .out, .mem, .memCheck, .memEpoch, .memKey, .rings, .journal, .sec, .det]
  | .rigVerifyComplete _ _ | .rigValidateComplete _ _ | .keySweepLine _ _ _ | .checkpointData _ _ _
    | .checkpointReturn _ _ _ =>
    [.regs, .seq, .out, .rigs, .mem, .memCheck, .memEpoch, .memKey, .ucs, .ropes, .rings, .svcs, .journal, .sec, .det]
  | .rigPlaceComplete _ =>
    [.regs, .out, .power, .rigs, .mem, .memCheck, .memEpoch, .memKey]
  | .rigApplyComplete _ =>
    [.regs, .pkg, .seq, .out, .power, .rigs, .treads, .chans, .knots, .flights, .stages, .ctxs, .landings, .parts,
      .reds, .mem, .memCheck, .memEpoch, .memKey, .ropes, .fabric, .rings, .svcs, .det]
  | .applyFault _ =>
    [.regs, .out, .power, .rigs, .treads, .flights, .mem, .memCheck, .memEpoch, .memKey]
  | .rigRelease _ =>
    [.regs, .out, .rigs]
  | .rigReleased _ =>
    [.regs, .pkg, .seq, .out, .fence, .power, .rigs, .treads, .chans, .knots, .flights, .stages, .ctxs, .landings,
      .parts, .reds, .mem, .memCheck, .memEpoch, .memKey, .ucs, .sparse, .gathers, .ropes, .fabric, .rings, .svcs,
      .sec, .det]
  | .rerigRowShift _ _ =>
    [.regs, .time, .seq, .out, .fence, .power, .rigs, .treads, .flights, .memCheck, .ucs, .ropes, .rings, .svcs,
      .journal, .sec, .det]
  | .rerigRoleMove _ _ _ =>
    [.regs, .time, .seq, .out, .power, .rigs, .treads, .chans, .flights, .memCheck, .ucs, .ropes, .rings, .svcs,
      .journal, .sec, .det]
  | .rerigComplete _ _ =>
    [.regs, .time, .seq, .out, .rigs, .treads, .flights, .ctxs, .landings, .mem, .memCheck, .memEpoch, .memKey, .ucs,
      .ropes, .fabric, .rings, .svcs, .journal, .sec, .det]
  | .add _ _ _ _ | .sub _ _ _ _ | .and _ _ _ _ | .or _ _ _ _ | .xor _ _ _ _ | .sll _ _ _ _ | .srl _ _ _ _
    | .sra _ _ _ _ | .slt _ _ _ _ | .sltu _ _ _ _ | .min _ _ _ _ | .max _ _ _ _ | .minu _ _ _ _ | .maxu _ _ _ _
    | .mul _ _ _ _ | .mulh _ _ _ _ | .mulhu _ _ _ _ | .clz _ _ _ | .popc _ _ _ | .addi _ _ _ _ | .andi _ _ _ _
    | .ori _ _ _ _ | .xori _ _ _ _ | .slti _ _ _ _ | .slli _ _ _ _ | .srli _ _ _ _ | .srai _ _ _ _ | .lui _ _ _
    | .beq _ _ _ _ | .bne _ _ _ _ | .blt _ _ _ _ | .bge _ _ _ _ | .bltu _ _ _ _ | .bgeu _ _ _ _ | .jal _ _
    | .jalr _ _ _ _ | .poll _ _ _ _ | .vadd _ _ _ _ _ | .vsub _ _ _ _ _ | .vmul _ _ _ _ _ | .vfma _ _ _ _ _ _
    | .vmin _ _ _ _ _ | .vmax _ _ _ _ _ | .vabs _ _ _ _ | .vneg _ _ _ _ | .vrcp _ _ _ _ | .vrsqrt _ _ _ _
    | .vcmplt _ _ _ _ _ | .vcmpeq _ _ _ _ _ | .vsel _ _ _ _ _ _ | .vred _ _ _ _ | .vsplat _ _ _ | .vext _ _ _ _
    | .vins _ _ _ _ | .viadd _ _ _ _ | .vand _ _ _ _ | .vor _ _ _ _ | .vxor _ _ _ _ | .nop _ | .halt _ | .fence _
    | .brk _ =>
    [.out, .treads]
  | .lw _ _ _ _ | .lh _ _ _ _ | .lhu _ _ _ _ | .lbu _ _ _ _ | .sw _ _ _ _ | .sh _ _ _ _ | .sb _ _ _ _
    | .vld _ _ _ _ | .vst _ _ _ _ | .vcvt _ _ _ _ _ | .accrd _ _ _ _ | .rdsr _ _ _ | .wrsr _ _ _ | .trap _
    | .illegalInstruction _ _ =>
    [.regs, .seq, .out, .rigs, .treads, .ropes, .rings, .svcs, .det]
  | .recv _ _ _ _ | .send _ _ _ _ | .vrecv _ _ _ _ _ | .vsend _ _ _ _ _ | .wordDelivery _ | .creditReturn _
    | .chanLimitWrite _ _ =>
    [.regs, .seq, .out, .rigs, .treads, .chans, .ropes, .rings, .svcs, .det]
  | .accclr _ _ | .accrel _ _ =>
    [.regs, .seq, .out, .rigs, .treads, .flights, .ropes, .rings, .svcs, .det]
  | .knotContribution _ _ =>
    [.out, .chans, .knots]
  | .knotDelivery _ _ =>
    [.regs, .seq, .out, .rigs, .treads, .chans, .knots, .ropes, .rings, .svcs, .det]
  | .chanHeadRead _ =>
    [.regs, .seq, .out, .rings, .journal, .sec, .det]
  | .stallScan =>
    [.regs, .seq, .out, .chans, .knots, .rings, .det]
  | .stallCtrlWrite _ =>
    [.regs, .out, .chans, .knots]
  | .fltPush _ _ _ _ =>
    [.regs, .seq, .out, .flights, .rings, .det]
  | .tileStart _ _ =>
    [.regs, .seq, .out, .rigs, .flights, .ropes, .rings, .svcs, .det]
  | .loadStart _ _ _ =>
    [.regs, .seq, .out, .rigs, .treads, .flights, .ctxs, .landings, .mem, .memCheck, .memEpoch, .memKey, .ucs,
      .ropes, .fabric, .rings, .svcs, .journal, .sec, .det]
  | .loadComplete _ =>
    [.out, .flights]
  | .tileAccumulated _ _ =>
    [.regs, .out, .treads, .flights]
  | .drainComplete _ _ _ _ =>
    [.regs, .seq, .free, .out, .rigs, .treads, .flights, .stages, .ctxs, .landings, .parts, .reds, .mem, .memCheck,
      .memEpoch, .memKey, .ucs, .ropes, .fabric, .rings, .svcs, .journal, .sec, .det]
  | .macResidue _ | .treadParity _ _ _ | .routerParity _ | .sbParity _ _ =>
    [.regs, .seq, .out, .fence, .power, .rigs, .treads, .flights, .ropes, .rings, .svcs, .journal, .sec, .det]
  | .microBatchBoundary _ _ =>
    [.regs, .time, .seq, .out, .power, .treads, .flights, .stages, .ctxs, .landings, .parts, .ropes, .rings, .det]
  | .forwardAdmit _ =>
    [.regs, .seq, .out, .power, .rigs, .treads, .flights, .stages, .ctxs, .landings, .ropes, .rings, .svcs, .det]
  | .backwardStart _ =>
    [.regs, .seq, .out, .power, .rigs, .treads, .flights, .stages, .ctxs, .landings, .reds, .mem, .memCheck,
      .memEpoch, .memKey, .ucs, .ropes, .rings, .svcs, .journal, .sec, .det]
  | .seqDescriptorPush _ =>
    [.regs, .seq, .out, .flights, .stages, .ctxs, .rings, .det]
  | .landingPush _ =>
    [.regs, .out, .stages, .ctxs, .landings]
  | .ingestPush _ _ =>
    [.regs, .seq, .out, .ctxs, .landings, .rings, .det]
  | .landLimitWrite _ _ _ =>
    [.out, .landings, .ropes]
  | .seqQuotaWrite _ _ _ =>
    [.regs, .seq, .out, .stages, .rings, .det]
  | .ringPass _ | .landingCredit _ _ _ =>
    [.regs, .seq, .out, .rigs, .stages, .ctxs, .landings, .parts, .ropes, .rings, .svcs, .det]
  | .stashVerify _ _ =>
    [.regs, .seq, .out, .rigs, .ctxs, .memCheck, .ucs, .ropes, .rings, .svcs, .journal, .sec, .det]
  | .bucketEnter _ _ =>
    [.regs, .seq, .out, .rigs, .parts, .reds, .memCheck, .ucs, .ropes, .rings, .svcs, .journal, .sec, .det]
  | .ringMessageSend _ _ | .ringData _ _ _ _ | .updateGroup _ _ =>
    [.regs, .seq, .out, .rigs, .parts, .reds, .mem, .memCheck, .memEpoch, .memKey, .ucs, .ropes, .rings, .svcs,
      .journal, .sec, .det]
  | .ringCredit _ _ _ =>
    [.regs, .seq, .out, .rigs, .reds, .ropes, .rings, .svcs, .det]
  | .vbmax _ _ _ | .vsqrt _ _ _ | .vdiv _ _ _ _ | .vmmul _ _ _ _ | .vtrans _ _ _ =>
    [.out, .ucs]
  | .sparsePass1 _ _ _ | .sparseRestore _ _ =>
    [.regs, .seq, .out, .rigs, .mem, .memCheck, .memEpoch, .memKey, .ucs, .sparse, .ropes, .rings, .svcs, .journal,
      .sec, .det]
  | .sparsePass2 _ _ _ _ =>
    [.regs, .seq, .out, .rigs, .parts, .mem, .memCheck, .memEpoch, .memKey, .ucs, .sparse, .ropes, .rings, .svcs,
      .journal, .sec, .det]
  | .fabricRead _ _ _ _ | .fabricWrite _ _ _ _ | .fabricAtomic _ _ _ _ _ _ _ | .converterDescriptor _ _ _ _
    | .dbgGo _ _ | .instrumentAccess _ _ _ _ _ =>
    [.regs, .seq, .out, .hiLatch, .commitLatch, .rigs, .treads, .chans, .flights, .stages, .ctxs, .landings, .mem,
      .memCheck, .memEpoch, .memKey, .ucs, .ropes, .fabric, .rings, .svcs, .journal, .sec, .det]
  | .rowRepair _ _ =>
    [.regs, .seq, .out, .ucs, .rings, .journal, .det]
  | .patrolRead _ _ _ _ | .checkpointDone _ _ _ | .checkpointFetch _ _ _ | .storageResponse _ =>
    [.regs, .seq, .out, .rigs, .memCheck, .ucs, .ropes, .rings, .svcs, .journal, .sec, .det]
  | .ucGatherPush _ _ _ _ | .ucConvPush _ _ _ _ =>
    [.regs, .seq, .out, .ucs, .rings, .det]
  | .gatherDescriptor _ _ _ _ =>
    [.regs, .seq, .out, .hiLatch, .commitLatch, .rigs, .treads, .chans, .flights, .stages, .ctxs, .landings, .mem,
      .memCheck, .memEpoch, .memKey, .ucs, .gathers, .ropes, .fabric, .rings, .svcs, .journal, .sec, .det]
  | .gatherLandingPush _ =>
    [.regs, .out, .ctxs, .landings, .ucs]
  | .ropeSignalLock _ _ | .ropeTrainRetry _ | .ropeEnable _ _ =>
    [.regs, .out, .ropes]
  | .trainFlit _ _ _ _ | .dataFlit _ _ _ _ _ _ | .controlFlit _ _ _ _ _ _ | .idleFlit _ _ _ _ _ _ =>
    [.regs, .timers, .seq, .out, .rigs, .ropes, .fabric, .rings, .svcs, .journal, .sec, .det]
  | .flitSend _ _ =>
    [.regs, .seq, .out, .rigs, .landings, .ropes, .fabric, .rings, .svcs, .journal, .sec, .det]
  | .replayTmo _ _ | .strandLockLoss _ _ _ | .ropeRetrain _ _ _ =>
    [.regs, .timers, .out, .ropes]
  | .errorWindowClose _ _ =>
    [.regs, .timers, .seq, .out, .ropes, .rings, .det]
  | .ropeGraceExpiry _ _ =>
    [.regs, .timers, .seq, .out, .ropes, .fabric, .rings, .svcs, .journal, .sec, .det]
  | .ropeDisable _ _ =>
    [.regs, .seq, .out, .ropes, .fabric, .rings, .svcs, .journal, .sec, .det]
  | .ropeVcLimitWrite _ _ _ | .ropeKeyCheck _ _ | .heartbeatSend _ =>
    [.out, .ropes]
  | .landingEntry _ _ _ =>
    [.regs, .seq, .out, .rigs, .landings, .ropes, .rings, .svcs, .det]
  | .fabricRequestIssue _ _ _ _ _ _ | .fabricResponse _ _ _ =>
    [.regs, .seq, .out, .ropes, .fabric, .rings, .journal, .sec, .det]
  | .checkpointReturnDone _ _ _ =>
    [.regs, .seq, .out, .rigs, .stages, .parts, .reds, .mem, .memCheck, .memEpoch, .memKey, .ucs, .ropes, .fabric,
      .rings, .svcs, .journal, .sec, .det]
  | .partUnavailable _ _ =>
    [.regs, .seq, .out, .ropes, .rings, .svcs, .det]
  | .laserModuleInsert _ _ _ _ =>
    [.regs, .seq, .out, .ropes, .lasers, .rings, .det]
  | .laserModuleRemove _ _ =>
    [.regs, .time, .out, .ropes, .lasers]
  | .laserFailed _ _ _ =>
    [.regs, .time, .seq, .out, .ropes, .lasers, .rings, .journal, .sec, .det]
  | .laserLightTimeout _ _ _ =>
    [.regs, .time, .seq, .out, .ropes, .lasers, .rings, .det]
  | .laserLifeTick _ _ =>
    [.regs, .seq, .out, .lasers, .rings, .det]
  | .laserLifeJournal | .availJournal =>
    [.regs, .out, .journal]
  | .laserRelease _ _ =>
    [.regs, .seq, .out, .ropes, .lasers, .fabric, .rings, .svcs, .journal, .sec, .det]
  | .laserRelight _ _ =>
    [.regs, .out, .lasers]
  | .dcpMsgFlit _ _ _ _ | .dcpIdleFlit _ _ _ _ =>
    [.regs, .seq, .out, .bundles, .rings, .journal, .sec, .det]
  | .dcpCapFlit _ _ | .dieLinkFenced _ | .dlDisable _ _ | .dlTrainingTimeout _ =>
    [.regs, .seq, .out, .bundles, .rings, .det]
  | .dcpReplayTmo _ _ =>
    [.regs, .out, .bundles]
  | .dlReset _ _ _ _ =>
    [.regs, .seq, .out, .rigs, .ropes, .bundles, .rings, .svcs, .journal, .sec, .det]
  | .dlRetest _ _ | .laneTest _ _ _ =>
    [.regs, .seq, .out, .bundles, .rings, .journal, .det]
  | .bar4Request _ _ _ _ _ _ =>
    [.regs, .seq, .out, .rigs, .treads, .flights, .ctxs, .landings, .mem, .memCheck, .memEpoch, .memKey, .ucs,
      .ropes, .rings, .pcie, .svcs, .journal, .sec, .det]
  | .hceDoorbell _ _ _ | .hceEnable _ _ _ =>
    [.regs, .out, .hces]
  | .hceNop _ _ | .hceFence _ _ | .hceDescriptorRetry _ _ =>
    [.regs, .seq, .out, .hces, .rings, .det]
  | .hceCopy _ _ _ _ | .hceDescriptorComplete _ =>
    [.regs, .seq, .out, .rigs, .treads, .flights, .ctxs, .landings, .mem, .memCheck, .memEpoch, .memKey, .ucs,
      .ropes, .fabric, .hces, .rings, .svcs, .journal, .sec, .det]
  | .eventRecordWrite _ =>
    [.regs, .out, .rings]
  | .evtEnable _ _ _ =>
    [.regs, .out, .rings, .pcie]
  | .dlDown | .hotReset | .functionLevelReset _ | .d3hotEntry _ | .refclkHostLoss =>
    [.regs, .seq, .free, .out, .rigs, .mem, .memCheck, .memEpoch, .memKey, .hces, .rings, .pcie, .svcs, .sec, .det]
  | .perstAssert =>
    [.regs, .seq, .free, .out, .pins, .rigs, .mem, .memCheck, .memEpoch, .memKey, .hces, .rings, .pcie, .svcs, .sec,
      .det]
  | .perstRelease =>
    [.regs, .out, .pins]
  | .stepStart _ | .join _ _ =>
    [.regs, .seq, .out, .stages, .parts, .reds, .ropes, .rings, .svcs, .det]
  | .go _ _ =>
    [.regs, .out, .stages, .parts, .reds, .ropes, .svcs]
  | .stepVote _ | .vote _ _ | .decide_ _ _ =>
    [.regs, .seq, .out, .rigs, .parts, .reds, .mem, .memCheck, .memEpoch, .memKey, .ucs, .sparse, .gathers, .ropes,
      .fabric, .rings, .svcs, .journal, .sec, .det]
  | .rewind _ _ | .rewoundSend _ | .rewound _ _ | .stepRewindRequest _ =>
    [.regs, .seq, .out, .power, .rigs, .treads, .chans, .knots, .flights, .stages, .ctxs, .landings, .parts, .reds,
      .mem, .memCheck, .memEpoch, .memKey, .ucs, .gathers, .ropes, .fabric, .rings, .svcs, .journal, .sec, .det]
  | .windDownTimeout _ _ =>
    [.regs, .time, .seq, .free, .out, .power, .rigs, .treads, .chans, .knots, .flights, .stages, .ctxs, .landings,
      .parts, .reds, .mem, .memCheck, .memEpoch, .memKey, .ucs, .gathers, .ropes, .fabric, .rings, .svcs, .journal,
      .sec, .det]
  | .resume _ _ | .stepHalt _ | .stepTakeover _ =>
    [.regs, .out, .rigs, .ropes, .svcs]
  | .heartbeat _ _ _ =>
    [.regs, .time, .out, .rigs, .ropes, .svcs]
  | .peerLostTimeout _ _ _ =>
    [.regs, .time, .seq, .out, .rings, .svcs, .det]
  | .snapPin _ _ | .snapUnpin _ _ =>
    [.regs, .out, .svcs]
  | .snapExpiry _ _ =>
    [.regs, .time, .out, .svcs]
  | .jrnCompact =>
    [.out, .journal]
  | .journalCompacted | .calApply _ =>
    [.regs, .seq, .out, .rings, .journal, .det]
  | .partOffer _ _ =>
    [.regs, .seq, .out, .rings, .det]
  | .partReclaim _ _ | .end_ _ _ _ =>
    [.regs, .seq, .out, .power, .rigs, .treads, .flights, .mem, .memCheck, .memEpoch, .memKey, .rings, .sec, .det]
  | .claim _ _ _ =>
    [.regs, .free, .out, .sec]
  | .enrollRigKey _ _ _ _ _ | .getVersion _ _ | .getCapabilities _ _ | .negotiateAlgorithms _ _ _ | .finish _ _ _ _
    | .keyUpdate _ _ | .endSession _ _ =>
    [.out, .sec]
  | .linkStage _ _ _ _ _ | .linkSwitch _ _ _ _ =>
    [.out, .ropes, .sec]
  | .memRotate _ _ _ =>
    [.free, .out, .ucs, .sec]
  | .getDigests _ | .getCertificate _ _ _ _ | .challenge _ _ _ | .getMeasurements _ _ _ | .spdmHeartbeat _ _
    | .doeDiscovery _ _ =>
    [.out]
  | .keyExchange _ _ =>
    [.free, .out, .sec]
  | .firmwareImage _ | .fuseSvnRaise | .debugRelock _ | .ideKm _ _ _ _ _ _ =>
    [.regs, .out, .sec]
  | .fabStage _ | .partScrubbed =>
    [.regs, .seq, .out, .rings, .sec, .det]
  | .fabSwitch _ | .scrubKeysErased =>
    [.regs, .out, .ropes, .sec]
  | .debugUnlock _ =>
    [.regs, .seq, .free, .out, .rings, .sec, .det]
  | .scrubStart =>
    [.regs, .out, .ropes, .hces, .rings, .sec]
  | .scrubOverwriteDone =>
    [.out, .mem, .memCheck, .memEpoch, .memKey, .ucs, .ropes, .sec]
  | .selfTestPhaseComplete _ _ _ _ =>
    [.regs, .pkg, .time, .seq, .out, .pins, .fence, .power, .rigs, .treads, .flights, .ucs, .ropes, .bundles, .rings,
      .svcs, .journal, .det]
  | .telemetryConsumer _ =>
    [.regs, .out, .det]
  | .pwrEnRise | .powerUpHoldoffEnd =>
    [.out, .pins, .power]
  | .pwrGoodRise | .pkgRstRelease _ | .pkgRstAssert | .pwrGoodFall =>
    [.regs, .pkg, .time, .timers, .seq, .free, .out, .hiLatch, .commitLatch, .pins, .fence, .power, .rigs, .treads,
      .chans, .knots, .flights, .stages, .ctxs, .landings, .parts, .reds, .mem, .memCheck, .memEpoch, .memKey, .ucs,
      .sparse, .gathers, .ropes, .lasers, .fabric, .bundles, .hces, .rings, .pcie, .svcs, .sec, .det]
  | .pwrEnFall =>
    [.regs, .out, .pins, .power, .treads, .flights]
  | .refclkFabLoss =>
    [.pkg, .out, .pins]
  | .pldmGetSensor _ _ _ =>
    [.time, .out]
  | .extest | .clamp | .highz =>
    [.out, .det]
  | .hostLinkTrained _ _ _ =>
    [.regs, .seq, .out, .rings, .pcie, .det]
  | .completionTimeout _ _ =>
    [.regs, .seq, .out, .rigs, .mem, .memCheck, .memEpoch, .memKey, .hces, .rings, .det]

/-! ## Treads -/

/-- Tread `t` exists and is in RUN (04 R128). -/
def Runs (t : Nat) (s : State) : Prop := treadOk t = true ∧ (s.tread t).st = .run

/-- The byte of data SRAM at an address (04 R127). -/
def Tread.dataByte (x : Tread) (a : Nat) : Byte := tget 0 x.dmem a

/-- 32-bit and 16-bit lanes of a vector register (04 R127): lane 0 lies lowest. -/
def lane32 (v : V256) (i : Nat) : W32 := v.extractLsb' (32 * i) 32
def lane16 (v : V256) (i : Nat) : W16 := v.extractLsb' (16 * i) 16

/-- Nothing but tread `t`, and the parts listed, may differ in `u`; the ports are silent. -/
def OnlyTread (l : List Area) (t : Nat) (s u : State) : Prop :=
  KeepsBut (.treads :: .out :: l) s u ∧ ∀ t', t' ≠ t → u.tread t' = s.tread t'

/-- Tread `t` has gone on to its next instruction after `n` beats. -/
def NextInstruction (t n : Nat) (s u : State) : Prop :=
  (u.tread t).pc = (s.tread t).pc + 1 ∧ (u.tread t).beats = (s.tread t).beats + BitVec.ofNat 32 n

/-- An instruction of `n` beats without another effect. -/
def TreadResult (t n : Nat) (s u : State) : Prop :=
  OnlyTread [] t s u ∧ NextInstruction t n s u
  ∧ { u.tread t with pc := (s.tread t).pc, beats := (s.tread t).beats } = s.tread t

/-- Scalar register `rd` of tread `t` takes `v`, unless it is s0; every other scalar register keeps its value. -/
def ScalarTakes (t : Nat) (rd : BitVec 5) (v : W32) (s u : State) : Prop :=
  (rd ≠ 0 → (u.tread t).s rd.toNat = v) ∧ ∀ r, r ≠ rd.toNat → (u.tread t).s r = (s.tread t).s r

/-- An instruction of `n` beats that writes `v` to scalar register `rd`. -/
def ScalarResult (t n : Nat) (rd : BitVec 5) (v : W32) (s u : State) : Prop :=
  OnlyTread [] t s u ∧ NextInstruction t n s u ∧ ScalarTakes t rd v s u
  ∧ { u.tread t with pc := (s.tread t).pc, beats := (s.tread t).beats, sreg := (s.tread t).sreg } = s.tread t

/-- An instruction of `n` beats that changes only vector register `vd`, to a value of which `P` holds. -/
def VectorGives (t n : Nat) (vd : BitVec 3) (P : V256 → Prop) (s u : State) : Prop :=
  OnlyTread [] t s u ∧ NextInstruction t n s u ∧ P ((u.tread t).v vd.toNat)
  ∧ (∀ r, r ≠ vd.toNat → (u.tread t).v r = (s.tread t).v r)
  ∧ { u.tread t with pc := (s.tread t).pc, beats := (s.tread t).beats, vreg := (s.tread t).vreg } = s.tread t

/-- An instruction of `n` beats that writes `v` to vector register `vd`. -/
def VectorResult (t n : Nat) (vd : BitVec 3) (v : V256) (s u : State) : Prop := VectorGives t n vd (· = v) s u

/-- A floating-point instruction of `n` beats: vector register `vd` takes a value of which `P` holds, and the flags `fl`
join the sticky ones (04 R135). -/
def FloatGives (t n : Nat) (vd : BitVec 3) (fl : Nat) (P : V256 → Prop) (s u : State) : Prop :=
  OnlyTread [] t s u ∧ NextInstruction t n s u ∧ P ((u.tread t).v vd.toNat)
  ∧ (∀ r, r ≠ vd.toNat → (u.tread t).v r = (s.tread t).v r)
  ∧ (u.tread t).fpflags = (s.tread t).fpflags ||| BitVec.ofNat 5 fl
  ∧ { u.tread t with pc := (s.tread t).pc, beats := (s.tread t).beats, vreg := (s.tread t).vreg,
                     fpflags := (s.tread t).fpflags } = s.tread t

/-- A lane-wise floating-point instruction (04 R136): lane `i` takes the FP32 result `f i`, narrowed to BF16 to nearest
with W. -/
def LaneResult (t n : Nat) (w : Bool) (vd : BitVec 3) (f : Nat → FR) (s u : State) : Prop :=
  FloatGives t n vd (flagsOf (floatLanes w f))
    (fun v => if w then ∀ i, i < 16 → lane16 v i = BitVec.ofNat 16 (narrow bf16 .rne (f i).v).v
      else ∀ i, i < 8 → lane32 v i = BitVec.ofNat 32 (f i).v) s u

/-- A store of the `n` low bytes of `v` at address `a`: every other byte of data SRAM keeps its value. -/
def StoreResult (t a n v : Nat) (s u : State) : Prop :=
  OnlyTread [] t s u ∧ NextInstruction t 1 s u
  ∧ (∀ i, i < n → (u.tread t).dataByte (a + i) = BitVec.ofNat 8 (v / 256 ^ i))
  ∧ (∀ b, b < a ∨ a + n ≤ b → (u.tread t).dataByte b = (s.tread t).dataByte b)
  ∧ { u.tread t with pc := (s.tread t).pc, beats := (s.tread t).beats, dmem := (s.tread t).dmem } = s.tread t

/-- A jump of two beats to instruction `target`. -/
def JumpResult (t : Nat) (target : Int) (s u : State) : Prop :=
  OnlyTread [] t s u ∧ ((u.tread t).pc.toNat : Int) = target ∧ (u.tread t).beats = (s.tread t).beats + 2
  ∧ { u.tread t with pc := (s.tread t).pc, beats := (s.tread t).beats } = s.tread t

/-- A jump of two beats that writes its link. -/
def LinkResult (t : Nat) (rd : BitVec 5) (link : W32) (target : Int) (s u : State) : Prop :=
  OnlyTread [] t s u ∧ ((u.tread t).pc.toNat : Int) = target ∧ (u.tread t).beats = (s.tread t).beats + 2
  ∧ ScalarTakes t rd link s u
  ∧ { u.tread t with pc := (s.tread t).pc, beats := (s.tread t).beats, sreg := (s.tread t).sreg } = s.tread t

/-- The areas that a trap may change beside its tread: its record and counts, and the service that its job halts in. -/
def trapAreas : List Area := [.regs, .det, .seq, .rings, .rigs, .ropes, .svcs]

/-- Tread `t` stands in TRAP at its instruction with a cause, keeps everything it holds, and its record is raised (04 R134). -/
def Trapped (t cause : Nat) (s u : State) : Prop :=
  OnlyTread trapAreas t s u ∧ (u.tread t).st = .trap ∧ (u.tread t).cause = cause
  ∧ { u.tread t with st := (s.tread t).st, cause := (s.tread t).cause, wait := (s.tread t).wait } = s.tread t
  ∧ Recorded 0x0300 [t, (s.tread t).pc.toNat, cause] u

/-- Channel `k` is the only one that may differ. -/
def OnlyChan (k : Nat) (s u : State) : Prop := ∀ k', k' ≠ k → u.chan k' = s.chan k'

/-- A send of the words `ws` by tread `t` on channel `k` (04 R138). -/
def SendResult (t k : Nat) (ws : List W32) (s u : State) : Prop :=
  OnlyTread [.chans] t s u ∧ NextInstruction t 1 s u ∧ OnlyChan k s u
  ∧ (u.chan k).credit = (s.chan k).credit - ws.length ∧ (u.chan k).wire = (s.chan k).wire ++ ws
  ∧ (u.chan k).queue = (s.chan k).queue ∧ (u.chan k).back = (s.chan k).back ∧ (u.chan k).limit = (s.chan k).limit
  ∧ (u.tread t).wait = .none
  ∧ { u.tread t with pc := (s.tread t).pc, beats := (s.tread t).beats, wait := (s.tread t).wait } = s.tread t

/-- A receive by tread `t` of the `n` oldest words of channel `k` (04 R138); `P` says what the registers take. -/
def RecvResult (t k n : Nat) (P : Tread → Prop) (s u : State) : Prop :=
  OnlyTread [.chans] t s u ∧ NextInstruction t 1 s u ∧ OnlyChan k s u
  ∧ (u.chan k).queue = (s.chan k).queue.drop n ∧ (u.chan k).back = (s.chan k).back + n
  ∧ (u.chan k).credit = (s.chan k).credit ∧ (u.chan k).wire = (s.chan k).wire ∧ (u.chan k).limit = (s.chan k).limit
  ∧ P (u.tread t) ∧ (u.tread t).wait = .none
  ∧ { u.tread t with pc := (s.tread t).pc, beats := (s.tread t).beats, wait := (s.tread t).wait,
                     sreg := (s.tread t).sreg, vreg := (s.tread t).vreg } = s.tread t

/-- Tread `t` waits in WAIT at its channel instruction and nothing has moved. -/
def Waits (t : Nat) (s u : State) : Prop :=
  OnlyTread [] t s u ∧ (u.tread t).st = .wait
  ∧ { u.tread t with st := (s.tread t).st, wait := (s.tread t).wait } = s.tread t

/-- A VCVT rounding's seed: the job seed of the tread's image (06 R226). -/
def State.treadSeed (s : State) (t : Nat) : Nat := ((s.treadRole? t).map fun r => (s.imageOf r.1).jobSeed).getD 0

end Sys2Proof.Machine
end

