-- ==== Sys2Proof/WellFormed.lean ====
section
/-!
DEFINITION. Well-formed commands: every operand that names a unit names one that the package has, and an operand that selects
among listed forms selects one of them.
-/
namespace Sys2Proof
open Machine

/-- Whether a command's operands name units and forms that exist. -/
def Instr.wf : Instr → Bool
  | .registerWrite who off n _ => whoOk who && regShape off n
  | .rcRead who off _ => whoOk who && regShape off 4
  | .rw1cWrite who off _ _ => whoOk who && regShape off 4
  | .highWordLatchRead who off n => whoOk who && regShape off n
  | .committedStepRead who p n => whoOk who && partOk p && (n == 4 || n == 8)
  | .pkgIdLock _ => true
  | .pwrBudgetWrite _ _ => true
  | .powerLimitEffecter _ _ => true
  | .powerMeasurement _ mw _ => decide (mw.length ≤ 13)
  | .budgetWindowClose _ => true
  | .converterFailed _ k => decide (k < 13)
  | .inputLow _ => true
  | .inputRestored _ => true
  | .inputOutOfRange _ => true
  | .admissionToken gfs => gfs.all gfOk
  | .retainEntry gf => gfOk gf
  | .retainExit gf => gfOk gf
  | .thermalSample _ readings => readings.all fun x => gfOk x.1
  | .rigStart w => partOk w.unit
  | .rigFetchComplete p _ => partOk p
  | .fetchFailed p => partOk p
  | .rigVerifyComplete p _ => partOk p
  | .rigValidateComplete p _ => partOk p
  | .rigPlaceComplete p => partOk p
  | .rigApplyComplete p => partOk p
  | .applyFault p => partOk p
  | .rigAbort w => partOk w.unit
  | .rigRelease w => partOk w.unit
  | .rigReleased p => partOk p
  | .rerigRowShift _ r => partOk r.part
  | .rerigRoleMove _ p _ => partOk p
  | .rerigComplete _ p => partOk p
  | .add t _ _ _ => treadOk t
  | .sub t _ _ _ => treadOk t
  | .and t _ _ _ => treadOk t
  | .or t _ _ _ => treadOk t
  | .xor t _ _ _ => treadOk t
  | .sll t _ _ _ => treadOk t
  | .srl t _ _ _ => treadOk t
  | .sra t _ _ _ => treadOk t
  | .slt t _ _ _ => treadOk t
  | .sltu t _ _ _ => treadOk t
  | .min t _ _ _ => treadOk t
  | .max t _ _ _ => treadOk t
  | .minu t _ _ _ => treadOk t
  | .maxu t _ _ _ => treadOk t
  | .mul t _ _ _ => treadOk t
  | .mulh t _ _ _ => treadOk t
  | .mulhu t _ _ _ => treadOk t
  | .clz t _ _ => treadOk t
  | .popc t _ _ => treadOk t
  | .addi t _ _ _ => treadOk t
  | .andi t _ _ _ => treadOk t
  | .ori t _ _ _ => treadOk t
  | .xori t _ _ _ => treadOk t
  | .slti t _ _ _ => treadOk t
  | .slli t _ _ _ => treadOk t
  | .srli t _ _ _ => treadOk t
  | .srai t _ _ _ => treadOk t
  | .lui t _ _ => treadOk t
  | .lw t _ _ _ => treadOk t
  | .lh t _ _ _ => treadOk t
  | .lhu t _ _ _ => treadOk t
  | .lbu t _ _ _ => treadOk t
  | .sw t _ _ _ => treadOk t
  | .sh t _ _ _ => treadOk t
  | .sb t _ _ _ => treadOk t
  | .vld t _ _ _ => treadOk t
  | .vst t _ _ _ => treadOk t
  | .beq t _ _ _ => treadOk t
  | .bne t _ _ _ => treadOk t
  | .blt t _ _ _ => treadOk t
  | .bge t _ _ _ => treadOk t
  | .bltu t _ _ _ => treadOk t
  | .bgeu t _ _ _ => treadOk t
  | .jal t _ => treadOk t
  | .jalr t _ _ _ => treadOk t
  | .recv t _ _ _ => treadOk t
  | .send t _ _ _ => treadOk t
  | .poll t _ _ _ => treadOk t
  | .vrecv t _ _ _ _ => treadOk t
  | .vsend t _ _ _ _ => treadOk t
  | .vadd t _ _ _ _ => treadOk t
  | .vsub t _ _ _ _ => treadOk t
  | .vmul t _ _ _ _ => treadOk t
  | .vfma t _ _ _ _ _ => treadOk t
  | .vmin t _ _ _ _ => treadOk t
  | .vmax t _ _ _ _ => treadOk t
  | .vabs t _ _ _ => treadOk t
  | .vneg t _ _ _ => treadOk t
  | .vrcp t _ _ _ => treadOk t
  | .vrsqrt t _ _ _ => treadOk t
  | .vcmplt t _ _ _ _ => treadOk t
  | .vcmpeq t _ _ _ _ => treadOk t
  | .vsel t _ _ _ _ _ => treadOk t
  | .vred t _ _ _ => treadOk t
  | .vsplat t _ _ => treadOk t
  | .vext t _ _ _ => treadOk t
  | .vins t _ _ _ => treadOk t
  | .viadd t _ _ _ => treadOk t
  | .vand t _ _ _ => treadOk t
  | .vor t _ _ _ => treadOk t
  | .vxor t _ _ _ => treadOk t
  | .vcvt t _ _ _ _ => treadOk t
  | .accrd t _ _ _ => treadOk t
  | .accclr t _ => treadOk t
  | .accrel t _ => treadOk t
  | .nop t => treadOk t
  | .halt t => treadOk t
  | .fence t => treadOk t
  | .rdsr t _ _ => treadOk t
  | .wrsr t _ _ => treadOk t
  | .brk t => treadOk t
  | .trap t => treadOk t
  | .wordDelivery c => chanOk c
  | .creditReturn c => chanOk c
  | .knotContribution p _ => partOk p
  | .knotDelivery p _ => partOk p
  | .chanLimitWrite g _ => decide (g < 8)
  | .chanHeadRead g => decide (g < 8)
  | .stallScan => true
  | .stallCtrlWrite _ => true
  | .fltPush _ gf w _ => gfOk gf && decide (w < 24)
  | .tileStart a _ => gfOk a.gf && decide (a.arr < 4)
  | .loadStart gf _ _ => gfOk gf
  | .loadComplete gf => gfOk gf
  | .tileAccumulated gf arr => gfOk gf && decide (arr < 4)
  | .drainComplete a _ _ _ => gfOk a.gf && decide (a.arr < 4)
  | .macResidue t => treadOk t
  | .treadParity t _ word => treadOk t && decide (word < 4096)
  | .routerParity gf => gfOk gf
  | .sbParity gf word => gfOk gf && decide (word < 32768)
  | .microBatchBoundary _ slot => slotOk slot
  | .forwardAdmit slot => slotOk slot
  | .backwardStart slot => slotOk slot
  | .seqDescriptorPush slot => slotOk slot
  | .landingPush slot => slotOk slot
  | .ingestPush n _ => landOk n
  | .landLimitWrite _ n _ => landOk n
  | .seqQuotaWrite _ slot _ => slotOk slot
  | .ringPass slot => slotOk slot
  | .stashVerify slot _ => slotOk slot
  | .bucketEnter slot _ => slotOk slot
  | .ringMessageSend slot _ => slotOk slot
  | .ringData k v _ _ => ropeOk k && vcOk v
  | .ringCredit k v _ => ropeOk k && vcOk v
  | .updateGroup slot _ => slotOk slot
  | .vbmax u _ _ => ucOk u
  | .vsqrt u _ _ => ucOk u
  | .vdiv u _ _ _ => ucOk u
  | .vmmul u _ _ _ => ucOk u
  | .vtrans u _ _ => ucOk u
  | .schedScaleWrite _ p i _ => partOk p && decide (i < 8)
  | .sparsePass1 p _ _ => partOk p
  | .sparsePass2 u p _ _ => ucOk u && partOk p
  | .sparseRestore p _ => partOk p
  | .fabricRead agent _ _ _ => agentOk agent
  | .fabricWrite agent _ _ _ => agentOk agent
  | .fabricAtomic agent _ _ _ _ _ _ => agentOk agent
  | .rowRepair u _ => ucOk u
  | .patrolRead u _ _ _ => ucOk u
  | .keySweepLine u p _ => ucOk u && partOk p
  | .ucQuotaWrite who u p _ => whoOk who && ucOk u && partOk p
  | .ucGatherPush who u w _ => whoOk who && ucOk u && decide (w < 24)
  | .ucConvPush who u w _ => whoOk who && ucOk u && decide (w < 24)
  | .gatherDescriptor u _ _ _ => ucOk u
  | .gatherLandingPush u => ucOk u
  | .converterDescriptor u _ _ _ => ucOk u
  | .ropeSignalLock k _ => ropeOk k
  | .ropeTrainRetry k => ropeOk k
  | .trainFlit k _ _ rx => flitOk k rx.uncorr
  | .flitSend k first => ropeOk k && decide (first < 9)
  | .dataFlit k _ _ _ _ uncorr => flitOk k uncorr
  | .controlFlit k _ _ _ _ uncorr => flitOk k uncorr
  | .idleFlit k _ _ _ _ uncorr => flitOk k uncorr
  | .replayTmo k _ => ropeOk k
  | .errorWindowClose k _ => ropeOk k
  | .strandLockLoss k _ _ => ropeOk k
  | .ropeGraceExpiry k _ => ropeOk k
  | .ropeRetrain k _ _ => ropeOk k
  | .ropeDisable k _ => ropeOk k
  | .ropeVcLimitWrite k v _ => ropeOk k && vcOk v
  | .landingEntry k v _ => ropeOk k && vcOk v
  | .landingCredit k v _ => ropeOk k && vcOk v
  | .fabricRequestIssue agent op _ _ _ _ => agentOk agent && (op == 1 || op == 2 || op == 3)
  | .fabricResponse k v _ => ropeOk k && vcOk v
  | .checkpointData k v _ => ropeOk k && vcOk v
  | .checkpointDone k v _ => ropeOk k && vcOk v
  | .checkpointFetch k v _ => ropeOk k && vcOk v
  | .checkpointReturn k v _ => ropeOk k && vcOk v
  | .checkpointReturnDone k v _ => ropeOk k && vcOk v
  | .ropeKeyCheck k _ => ropeOk k
  | .partUnavailable k _ => ropeOk k
  | .laserModuleInsert m _ _ _ => moduleOk m
  | .laserModuleRemove m _ => moduleOk m
  | .laserFailed m j _ => moduleOk m && decide (j < 8)
  | .laserLightTimeout m j _ => moduleOk m && decide (j < 8)
  | .laserLifeTick m _ => moduleOk m
  | .laserLifeJournal => true
  | .laserRelease m _ => moduleOk m
  | .laserRelight w _ => moduleOk w.unit
  | .dcpMsgFlit n dir _ _ => bundleOk n && decide (dir < 2)
  | .dcpCapFlit n _ => bundleOk n
  | .dcpReplayTmo n dir => bundleOk n && decide (dir < 2)
  | .dieLinkFenced n => bundleOk n
  | .dlDisable n _ => bundleOk n
  | .dlReset n _ fatal _ => bundleOk n && decide (fatal < 3)
  | .dlTrainingTimeout n => bundleOk n
  | .dlRetest n _ => bundleOk n
  | .laneTest n faultsAB faultsBA => bundleOk n && (faultsAB ++ faultsBA).all fun l => decide (l < 64)
  | .bar4Request _ _ _ _ _ _ => true
  | .plcValidWrite i _ => decide (i < 64)
  | .hceDoorbell who e _ => whoOk who && engineOk e
  | .hceNop e _ => engineOk e
  | .hceCopy e _ _ _ => engineOk e
  | .hceFence e _ => engineOk e
  | .hceDescriptorComplete x => engineOk x.engine
  | .hceDescriptorRetry e _ => engineOk e
  | .hceResume who e _ => whoOk who && engineOk e
  | .hceEnable who e _ => whoOk who && engineOk e
  | .eventRecordWrite f => fnOk f
  | .evtHeadWrite who f _ => whoOk who && fnOk f
  | .evtEnable who f _ => whoOk who && fnOk f
  | .dlDown => true
  | .hotReset => true
  | .perstAssert => true
  | .perstRelease => true
  | .functionLevelReset f => fnOk f
  | .d3hotEntry f => fnOk f
  | .linkRecovery => true
  | .mbH2pWrite who c _ => whoOk who && channelOk c
  | .mbP2hClear who c _ _ => whoOk who && channelOk c
  | .mbP2hMaskWrite who c _ => whoOk who && channelOk c
  | .stepStart p => partOk p
  | .join k _ => ropeOk k
  | .go k _ => ropeOk k
  | .stepVote p => partOk p
  | .vote k _ => ropeOk k
  | .decide_ k _ => ropeOk k
  | .rewind k _ => ropeOk k
  | .windDownTimeout _ p => partOk p
  | .rewoundSend p => partOk p
  | .rewound k _ => ropeOk k
  | .resume k _ => ropeOk k
  | .heartbeat _ k _ => ropeOk k
  | .heartbeatSend p => partOk p
  | .peerLostTimeout _ p k => partOk p && ropeOk k
  | .stepRewindRequest p => partOk p
  | .stepHalt p => partOk p
  | .stepTakeover p => partOk p
  | .storageResponse _ => true
  | .snapPin p _ => partOk p
  | .snapUnpin p _ => partOk p
  | .snapExpiry _ p => partOk p
  | .jrnCompact => true
  | .journalCompacted => true
  | .availJournal => true
  | .partOffer p _ => partOk p
  | .partReclaim p _ => partOk p
  | .partWithdraw p _ => partOk p
  | .claim fn _ _ => fnOk fn
  | .enrollRigKey fn _ _ _ _ => fnOk fn
  | .linkStage fn _ _ _ _ => fnOk fn
  | .linkSwitch fn _ _ _ => fnOk fn
  | .memRotate fn _ _ => fnOk fn
  | .end_ fn _ _ => fnOk fn
  | .status fn _ _ => fnOk fn
  | .getVersion fn _ => fnOk fn
  | .getCapabilities fn _ => fnOk fn
  | .negotiateAlgorithms fn _ _ => fnOk fn
  | .getDigests fn => fnOk fn
  | .getCertificate fn _ _ _ => fnOk fn
  | .challenge fn _ _ => fnOk fn
  | .getMeasurements fn _ _ => fnOk fn
  | .keyExchange fn _ => fnOk fn
  | .finish fn _ _ _ => fnOk fn
  | .keyUpdate fn _ => fnOk fn
  | .spdmHeartbeat fn _ => fnOk fn
  | .endSession fn _ => fnOk fn
  | .firmwareImage _ => true
  | .fuseSvnRaise => true
  | .fabStage _ => true
  | .fabSwitch _ => true
  | .debugUnlock _ => true
  | .debugRelock _ => true
  | .dbgGo _ _ => true
  | .scrubStart => true
  | .scrubKeysErased => true
  | .scrubOverwriteDone => true
  | .partScrubbed => true
  | .injArm _ => true
  | .injDisarm _ => true
  | .calApply _ => true
  | .selfTestPhaseComplete _ failed found _ =>
    failed.treads.all treadOk && failed.flights.all gfOk && found.wrong.all selfElemOk && found.readings.all fun x => gfOk x.1
  | .telemetryConsumer _ => true
  | .storageServiceBit => true
  | .pwrEnRise => true
  | .powerUpHoldoffEnd => true
  | .pwrGoodRise => true
  | .pkgRstRelease _ => true
  | .pkgRstAssert => true
  | .pwrEnFall => true
  | .pwrGoodFall => true
  | .refclkFabLoss => true
  | .refclkHostLoss => true
  | .pldmGetSensor _ n k => decide (n < 7) && decide (k < if n = 4 then 6 else 8)
  | .extest => true
  | .clamp => true
  | .highz => true
  | .illegalInstruction t _ => treadOk t
  | .dcpIdleFlit n dir _ _ => bundleOk n && decide (dir < 2)
  | .hostLinkTrained speed width _ => decide (1 ≤ speed) && decide (speed ≤ 6) && [1, 2, 4, 8, 16].contains width
  | .doeDiscovery f _ => fnOk f
  | .completionTimeout fetch n => decide (n < (if fetch then 8 else 16))
  | .ideKm fn _ stream op _ _ => fnOk fn && decide (stream < 9) && decide (op < 3)
  | .eventSummaryJournal => true
  | .instrumentAccess _ _ _ _ _ => true
  | .ropeEnable k _ => ropeOk k

end Sys2Proof
end

