-- ==== Sys2Proof/Certificates/Slice0/Obligations.lean ====
section
/-!
DEFINITION. What is claimed of the model.
-/
open Sys2Proof Sys2Proof.Machine

/-- A step runs the command at the front of the queue on the state whose queue is the rest; with an empty queue the block idles and
nothing changes, which is the model's choice (log 9). -/
def Obligations.StepRunsFront : Prop :=
  (∀ (c : Instr) (rest : List Instr) (s : State), step { s with pending := c :: rest } = exec c { s with pending := rest })
  ∧ ∀ s : State, s.pending = [] → step s = .next s

/-- Every well-formed command answers a next state and leaves the queue as it was; one whose operands name no unit of the package
stops; no command is refused. -/
def Obligations.WellFormedCompletes : Prop :=
  ∀ (c : Instr) (s : State),
    (c.wf = true → ∃ t, exec c s = .next t ∧ t.pending = s.pending) ∧ (c.wf = false → exec c s = .fault .noSuchUnit)

/-! Treads (04). -/

/-- ADD to POPC (R132): RD takes the result of its 19 register operations, s0 discards it, and the tread goes on. -/
def Sys2Proof.Claims.ScalarRegisterOperations : Prop :=
  ∀ (t : Nat) (rd ra rb : BitVec 5) (s : State), Runs t s →
    let a := (s.tread t).s ra.toNat
    let b := (s.tread t).s rb.toNat
    let gives := fun (c : Instr) (n : Nat) (v : W32) => Gives c s (ScalarResult t n rd v s)
    gives (.add t rd ra rb) 1 (BitVec.ofNat 32 (a.toNat + b.toNat))
    ∧ gives (.sub t rd ra rb) 1 (BitVec.ofInt 32 ((a.toNat : Int) - (b.toNat : Int)))
    ∧ gives (.and t rd ra rb) 1 (a &&& b)
    ∧ gives (.or t rd ra rb) 1 (a ||| b)
    ∧ gives (.xor t rd ra rb) 1 (a ^^^ b)
    ∧ gives (.sll t rd ra rb) 1 (BitVec.ofNat 32 (a.toNat * 2 ^ (b.toNat % 32)))
    ∧ gives (.srl t rd ra rb) 1 (BitVec.ofNat 32 (a.toNat / 2 ^ (b.toNat % 32)))
    ∧ gives (.sra t rd ra rb) 1 (BitVec.ofInt 32 (a.toInt / 2 ^ (b.toNat % 32)))
    ∧ gives (.slt t rd ra rb) 1 (if a.toInt < b.toInt then 1 else 0)
    ∧ gives (.sltu t rd ra rb) 1 (if a.toNat < b.toNat then 1 else 0)
    ∧ gives (.min t rd ra rb) 1 (BitVec.ofInt 32 (min a.toInt b.toInt))
    ∧ gives (.max t rd ra rb) 1 (BitVec.ofInt 32 (max a.toInt b.toInt))
    ∧ gives (.minu t rd ra rb) 1 (BitVec.ofNat 32 (min a.toNat b.toNat))
    ∧ gives (.maxu t rd ra rb) 1 (BitVec.ofNat 32 (max a.toNat b.toNat))
    ∧ gives (.mul t rd ra rb) 2 (BitVec.ofNat 32 (a.toNat * b.toNat))
    ∧ gives (.mulh t rd ra rb) 2 ((a.signExtend 64 * b.signExtend 64).extractLsb' 32 32)
    ∧ gives (.mulhu t rd ra rb) 2 ((a.setWidth 64 * b.setWidth 64).extractLsb' 32 32)
    ∧ (∀ z, z ≤ 32 → a.toNat < 2 ^ (32 - z) → (z < 32 → 2 ^ (31 - z) ≤ a.toNat) →
        gives (.clz t rd ra) 1 (BitVec.ofNat 32 z))
    ∧ gives (.popc t rd ra) 1 (BitVec.ofNat 32 ((List.range 32).countP a.getLsbD))

/-- ADDI to LUI (R132): the immediate is sign-extended in ADDI and SLTI and zero-extended in ANDI, ORI and XORI. -/
def Sys2Proof.Claims.ScalarImmediateOperations : Prop :=
  ∀ (t : Nat) (rd ra sh : BitVec 5) (imm : BitVec 16) (imm21 : BitVec 21) (s : State), Runs t s →
    let a := (s.tread t).s ra.toNat
    let gives := fun (c : Instr) (v : W32) => Gives c s (ScalarResult t 1 rd v s)
    gives (.addi t rd ra imm) (BitVec.ofInt 32 (a.toInt + imm.toInt))
    ∧ gives (.andi t rd ra imm) (BitVec.ofNat 32 (a.toNat &&& imm.toNat))
    ∧ gives (.ori t rd ra imm) (BitVec.ofNat 32 (a.toNat ||| imm.toNat))
    ∧ gives (.xori t rd ra imm) (BitVec.ofNat 32 (a.toNat ^^^ imm.toNat))
    ∧ gives (.slti t rd ra imm) (if a.toInt < imm.toInt then 1 else 0)
    ∧ gives (.slli t rd ra sh) (BitVec.ofNat 32 (a.toNat * 2 ^ sh.toNat))
    ∧ gives (.srli t rd ra sh) (BitVec.ofNat 32 (a.toNat / 2 ^ sh.toNat))
    ∧ gives (.srai t rd ra sh) (BitVec.ofInt 32 (a.toInt / 2 ^ sh.toNat))
    ∧ gives (.lui t rd imm21) (imm21 ++ 0#11)

/-- The scalar register instructions of a tread (04 R132). -/
def Obligations.ScalarInstructions : Prop :=
  Claims.ScalarRegisterOperations ∧ Claims.ScalarImmediateOperations

/-- LW, LH, LHU, LBU and VLD (R132) from an aligned address inside data SRAM, least significant byte first (R127). -/
def Sys2Proof.Claims.TreadLoads : Prop :=
  ∀ (t : Nat) (rd ra : BitVec 5) (vr : BitVec 3) (imm : BitVec 16) (s : State), Runs t s →
    let x := s.tread t
    let a := x.addr ra.toNat imm
    let word := fun n => (List.range n).foldr (fun i w => (x.dataByte (a + i)).toNat + 256 * w) 0
    (a % 4 = 0 → a + 4 ≤ 0x4000 → Gives (.lw t rd ra imm) s (ScalarResult t 2 rd (BitVec.ofNat 32 (word 4)) s))
    ∧ (a % 2 = 0 → a + 2 ≤ 0x4000 →
        Gives (.lh t rd ra imm) s (ScalarResult t 2 rd ((BitVec.ofNat 16 (word 2)).signExtend 32) s)
        ∧ Gives (.lhu t rd ra imm) s (ScalarResult t 2 rd ((BitVec.ofNat 16 (word 2)).setWidth 32) s))
    ∧ (a + 1 ≤ 0x4000 → Gives (.lbu t rd ra imm) s (ScalarResult t 2 rd ((x.dataByte a).setWidth 32) s))
    ∧ (a % 32 = 0 → a + 32 ≤ 0x4000 →
        Gives (.vld t vr ra imm) s (VectorResult t 2 vr (BitVec.ofNat 256 (word 32)) s))

/-- SW, SH, SB and VST (R132): the bytes of the stored value go to RA + IMM, and every other byte of data SRAM keeps its
value. -/
def Sys2Proof.Claims.TreadStores : Prop :=
  ∀ (t : Nat) (rs ra : BitVec 5) (vr : BitVec 3) (imm : BitVec 16) (s : State), Runs t s →
    let x := s.tread t
    let a := x.addr ra.toNat imm
    (a % 4 = 0 → a + 4 ≤ 0x4000 → Gives (.sw t rs ra imm) s (StoreResult t a 4 (x.s rs.toNat).toNat s))
    ∧ (a % 2 = 0 → a + 2 ≤ 0x4000 → Gives (.sh t rs ra imm) s (StoreResult t a 2 (x.s rs.toNat).toNat s))
    ∧ (a + 1 ≤ 0x4000 → Gives (.sb t rs ra imm) s (StoreResult t a 1 (x.s rs.toNat).toNat s))
    ∧ (a % 32 = 0 → a + 32 ≤ 0x4000 → Gives (.vst t vr ra imm) s (StoreResult t a 32 (x.v vr.toNat).toNat s))

/-- A data SRAM access traps with MISALIGNED when its address is not a multiple of its size, and else with RANGE when it
reaches past 0x3FFF (R133, R134); it loads and stores nothing. -/
def Sys2Proof.Claims.TreadAccessTraps : Prop :=
  ∀ (t : Nat) (rd ra : BitVec 5) (vr : BitVec 3) (imm : BitVec 16) (s : State), Runs t s →
    let a := (s.tread t).addr ra.toNat imm
    let reaches := fun (c : Instr) (n : Nat) => a % n = 0 → 0x4000 < a + n → Gives c s (Trapped t 3 s)
    let traps := fun (c : Instr) (n : Nat) => (a % n ≠ 0 → Gives c s (Trapped t 2 s)) ∧ reaches c n
    traps (.lw t rd ra imm) 4 ∧ traps (.lh t rd ra imm) 2 ∧ traps (.lhu t rd ra imm) 2 ∧ reaches (.lbu t rd ra imm) 1
    ∧ traps (.sw t rd ra imm) 4 ∧ traps (.sh t rd ra imm) 2 ∧ reaches (.sb t rd ra imm) 1
    ∧ traps (.vld t vr ra imm) 32 ∧ traps (.vst t vr ra imm) 32

/-- The data SRAM instructions of a tread, and their traps (04 R132 to R134). -/
def Obligations.DataSramInstructions : Prop :=
  Claims.TreadLoads ∧ Claims.TreadStores ∧ Claims.TreadAccessTraps

/-- BEQ to BGEU (R132): a taken branch adds OFF to the counter modulo 1,024 in two beats; another goes on in one. -/
def Sys2Proof.Claims.TreadBranches : Prop :=
  ∀ (t : Nat) (ra rb : BitVec 5) (off : BitVec 16) (s : State), Runs t s →
    let x := s.tread t
    let a := x.s ra.toNat
    let b := x.s rb.toNat
    let gives := fun (c : Instr) (taken : Prop) =>
      (taken → Gives c s (JumpResult t (((x.pc.toNat : Int) + off.toInt) % 1024) s))
      ∧ (¬taken → Gives c s (TreadResult t 1 s))
    gives (.beq t ra rb off) (a = b)
    ∧ gives (.bne t ra rb off) (a ≠ b)
    ∧ gives (.blt t ra rb off) (a.toInt < b.toInt)
    ∧ gives (.bge t ra rb off) (b.toInt ≤ a.toInt)
    ∧ gives (.bltu t ra rb off) (a.toNat < b.toNat)
    ∧ gives (.bgeu t ra rb off) (b.toNat ≤ a.toNat)

/-- JAL and JALR (R132): the link is the number of the next instruction, written to s31 or RD; JALR's target uses RA as it
was before. A link written to s0 is discarded (R127). -/
def Sys2Proof.Claims.TreadJumps : Prop :=
  ∀ (t : Nat) (rd ra : BitVec 5) (imm : BitVec 16) (off : BitVec 26) (s : State), Runs t s →
    let x := s.tread t
    let link := BitVec.ofNat 32 (x.pc.toNat + 1)
    Gives (.jal t off) s (LinkResult t 31 link (((x.pc.toNat : Int) + off.toInt) % 1024) s)
    ∧ Gives (.jalr t rd ra imm) s (LinkResult t rd link (((x.s ra.toNat).toInt + imm.toInt) % 1024) s)

/-- The branches and jumps of a tread (04 R132). -/
def Obligations.BranchesAndJumps : Prop :=
  Claims.TreadBranches ∧ Claims.TreadJumps

/-- SEND and VSEND (R138): with a counter that covers the tuple the words go out together and the counter falls; else the
tread waits. A port without a route, and a knot of another tuple length, trap (R134). -/
def Sys2Proof.Claims.TreadSends : Prop :=
  ∀ (t : Nat) (reg : BitVec 5) (vr lane : BitVec 3) (ch len : BitVec 2) (s : State), Runs t s →
    let x := s.tread t
    let n := len.toNat + 1
    let sends := fun (c : Instr) (ws : List W32) =>
      (s.portRoute? t ch.toNat = none → Gives c s (Trapped t 6 s))
      ∧ ∀ p i e, s.portRoute? t ch.toNat = some (p, i, e) →
        let k := (Chan.route p i).key
        (∀ j kc, (s.imageOf p).routeKnot? e = some (j, kc) → kc.tuple + 1 ≠ n → Gives c s (Trapped t 4 s))
        ∧ ((∀ j kc, (s.imageOf p).routeKnot? e = some (j, kc) → kc.tuple + 1 = n) →
          ((n : Int) ≤ (s.chan k).credit → Gives c s (SendResult t k ws s))
          ∧ ((s.chan k).credit < n → Gives c s (Waits t s)))
    (reg.toNat + len.toNat ≤ 31 → sends (.send t reg ch len) ((List.range n).map fun i => x.s (reg.toNat + i)))
    ∧ (31 < reg.toNat + len.toNat → Gives (.send t reg ch len) s (Trapped t 1 s))
    ∧ (lane.toNat + len.toNat ≤ 7 →
        sends (.vsend t vr ch len lane) ((List.range n).map fun i => lane32 (x.v vr.toNat) (lane.toNat + i)))
    ∧ (7 < lane.toNat + len.toNat → Gives (.vsend t vr ch len lane) s (Trapped t 1 s))

/-- RECV and VRECV (R138): with enough words in the queue the oldest go to the registers in their order and their credits
start back; else the tread waits. A queue that nothing feeds traps (R134). -/
def Sys2Proof.Claims.TreadReceives : Prop :=
  ∀ (t : Nat) (reg : BitVec 5) (vr lane : BitVec 3) (ch len : BitVec 2) (s : State), Runs t s →
    let x := s.tread t
    let n := len.toNat + 1
    let takes := fun (c : Instr) (P : List W32 → Tread → Prop) =>
      (s.queueChan? t ch.toNat = none → Gives c s (Trapped t 7 s))
      ∧ ∀ q, s.queueChan? t ch.toNat = some q →
        (n ≤ (s.chan q.key).queue.length → Gives c s (RecvResult t q.key n (P (s.chan q.key).queue) s))
        ∧ ((s.chan q.key).queue.length < n → Gives c s (Waits t s))
    (reg.toNat + len.toNat ≤ 31 → takes (.recv t reg ch len) fun l y =>
      (∀ i, i < n → reg.toNat + i ≠ 0 → l[i]? = some (y.s (reg.toNat + i)))
      ∧ (∀ r, r < reg.toNat ∨ reg.toNat + n ≤ r → y.s r = x.s r) ∧ y.vreg = x.vreg)
    ∧ (31 < reg.toNat + len.toNat → Gives (.recv t reg ch len) s (Trapped t 1 s))
    ∧ (lane.toNat + len.toNat ≤ 7 → takes (.vrecv t vr ch len lane) fun l y =>
      (∀ i, i < n → l[i]? = some (lane32 (y.v vr.toNat) (lane.toNat + i)))
      ∧ (∀ i, i < lane.toNat ∨ lane.toNat + n ≤ i → lane32 (y.v vr.toNat) i = lane32 (x.v vr.toNat) i)
      ∧ (∀ r, r ≠ vr.toNat → y.v r = x.v r) ∧ y.sreg = x.sreg)
    ∧ (7 < lane.toNat + len.toNat → Gives (.vrecv t vr ch len lane) s (Trapped t 1 s))

/-- POLL (R132) never waits and never traps: it reads the occupancy of a queue, the credit counter of a port, or 0. -/
def Sys2Proof.Claims.TreadPolls : Prop :=
  ∀ (t : Nat) (reg : BitVec 5) (ch : BitVec 2) (s : State), Runs t s →
    let gives := fun (p : Bool) (v : Int) => Gives (.poll t reg ch p) s (ScalarResult t 1 reg (BitVec.ofInt 32 v) s)
    (∀ q, s.queueChan? t ch.toNat = some q → gives false (s.chan q.key).queue.length)
    ∧ (s.queueChan? t ch.toNat = none → gives false 0)
    ∧ (∀ p i e, s.portRoute? t ch.toNat = some (p, i, e) → gives true (s.chan (Chan.route p i).key).credit)
    ∧ (s.portRoute? t ch.toNat = none → gives true 0)

/-- The channel instructions of a tread (04 R132, R138). -/
def Obligations.ChannelInstructions : Prop :=
  Claims.TreadSends ∧ Claims.TreadReceives ∧ Claims.TreadPolls

/-- VADD to VRSQRT (R132, R136), lane by lane on FP32 values; with W every BF16 lane is widened exactly first. -/
def Sys2Proof.Claims.VectorArithmetic : Prop :=
  ∀ (t : Nat) (w : Bool) (vd va vb vc : BitVec 3) (s : State), Runs t s →
    let x := s.tread t
    let a := fun i => laneF w (x.v va.toNat) i
    let b := fun i => laneF w (x.v vb.toNat) i
    let c := fun i => laneF w (x.v vc.toNat) i
    let gives := fun (i : Instr) (n : Nat) (f : Nat → FR) => Gives i s (LaneResult t n w vd f s)
    gives (.vadd t vd va vb w) 1 (fun i => fadd (a i) (b i))
    ∧ gives (.vsub t vd va vb w) 1 (fun i => fsub (a i) (b i))
    ∧ gives (.vmul t vd va vb w) 1 (fun i => fmul (a i) (b i))
    ∧ gives (.vfma t vd va vb vc w) 1 (fun i => ffma (a i) (b i) (c i))
    ∧ gives (.vmin t vd va vb w) 1 (fun i => fmin (a i) (b i))
    ∧ gives (.vmax t vd va vb w) 1 (fun i => fmax (a i) (b i))
    ∧ gives (.vabs t vd va w) 1 (fun i => signOp (a i) fun v => v % 2 ^ 31)
    ∧ gives (.vneg t vd va w) 1 (fun i => signOp (a i) fun v => (v + 2 ^ 31) % 2 ^ 32)
    ∧ gives (.vrcp t vd va w) 6 (fun i => fdiv 0x3F800000 (a i))
    ∧ gives (.vrsqrt t vd va w) 6 (fun i => frsqrt (a i))

/-- VCMPLT, VCMPEQ, VSEL and VRED (R132, R136). -/
def Sys2Proof.Claims.VectorComparesAndSum : Prop :=
  ∀ (t : Nat) (w : Bool) (vd va vb vc : BitVec 3) (s : State), Runs t s →
    let x := s.tread t
    let a := fun i => laneF w (x.v va.toNat) i
    let b := fun i => laneF w (x.v vb.toNat) i
    let count := if w then 16 else 8
    let laneOf := fun v i => if w then (lane16 v i).toNat else (lane32 v i).toNat
    let full := if w then 0xFFFF else 0xFFFFFFFF
    let add := fun p q => (fadd p q).v
    let pair := fun i => if w then add (a (2 * i)) (a (2 * i + 1)) else a i
    let sum := add (add (add (pair 0) (pair 1)) (add (pair 2) (pair 3)))
      (add (add (pair 4) (pair 5)) (add (pair 6) (pair 7)))
    (∃ fl, Gives (.vcmplt t vd va vb w) s (FloatGives t 1 vd fl
      (fun v => ∀ i, i < count → laneOf v i = if flt (a i) (b i) then full else 0) s))
    ∧ (∃ fl, Gives (.vcmpeq t vd va vb w) s (FloatGives t 1 vd fl
      (fun v => ∀ i, i < count → laneOf v i = if feq (a i) (b i) then full else 0) s))
    ∧ Gives (.vsel t vd va vb vc w) s (VectorGives t 1 vd
      (fun v => ∀ i, i < count →
        laneOf v i = if laneOf (x.v vc.toNat) i ≠ 0 then laneOf (x.v va.toNat) i else laneOf (x.v vb.toNat) i) s)
    ∧ (∃ fl, Gives (.vred t vd va w) s (FloatGives t 3 vd fl
      (fun v => (∀ i, 0 < i → i < count → laneOf v i = 0)
        ∧ laneOf v 0 = if w then (narrow bf16 .rne (if isZero sum then 0 else sum)).v % 2 ^ 16
            else if isZero sum then 0 else sum % 2 ^ 32) s))

/-- The floating-point vector instructions of a tread (04 R132, R136). -/
def Obligations.VectorArithmeticInstructions : Prop :=
  Claims.VectorArithmetic ∧ Claims.VectorComparesAndSum

/-- VSPLAT, VEXT, VINS, VIADD, VAND, VOR and VXOR (R132) on 32-bit lanes. -/
def Sys2Proof.Claims.VectorLaneMoves : Prop :=
  ∀ (t : Nat) (rs : BitVec 5) (vd va vb vc : BitVec 3) (s : State), Runs t s →
    let x := s.tread t
    let a := lane32 (x.v va.toNat)
    let b := lane32 (x.v vb.toNat)
    let gives := fun (c : Instr) (f : Nat → W32) =>
      Gives c s (VectorGives t 1 vd (fun v => ∀ i, i < 8 → lane32 v i = f i) s)
    gives (.vsplat t vd rs) (fun _ => x.s rs.toNat)
    ∧ Gives (.vext t rs va vc) s (ScalarResult t 1 rs (a vc.toNat) s)
    ∧ gives (.vins t vd vc rs) (fun i => if i = vc.toNat then x.s rs.toNat else lane32 (x.v vd.toNat) i)
    ∧ gives (.viadd t vd va vb) (fun i => a i + b i)
    ∧ gives (.vand t vd va vb) (fun i => a i &&& b i)
    ∧ gives (.vor t vd va vb) (fun i => a i ||| b i)
    ∧ gives (.vxor t vd va vb) (fun i => a i ^^^ b i)

/-- VCVT (R136): each KIND's lanes, the lanes that a 16-bit result leaves alone, the advance of RNG_INDEX by a stochastic
conversion (R135), and the trap on a reserved RND (R133). -/
def Sys2Proof.Claims.VectorConversions : Prop :=
  ∀ (t : Nat) (vd va kind rnd : BitVec 3) (s : State), Runs t s →
    let x := s.tread t
    let a := fun i => (lane32 (x.v va.toNat) i).toNat
    let h := fun i => (lane16 (x.v va.toNat) i).toNat
    let r := fun i => treadRounding (s.treadSeed t) rnd.toNat x i
    let gives := fun (k : BitVec 3) (P : V256 → Prop) => kind = k → rnd.toNat ≤ 2 →
      Gives (.vcvt t vd va kind rnd) s fun u =>
        OnlyTread [] t s u ∧ NextInstruction t 1 s u ∧ P ((u.tread t).v vd.toNat)
        ∧ (∀ v, v ≠ vd.toNat → (u.tread t).v v = x.v v)
        ∧ (u.tread t).rngIndex = x.rngIndex + (if rnd = 2 ∧ kind ∈ [0, 3, 5, 6, 7] then 8 else 0)
        ∧ (∀ b, x.fpflags.getLsbD b → (u.tread t).fpflags.getLsbD b)
        ∧ { u.tread t with pc := x.pc, beats := x.beats, vreg := x.vreg, fpflags := x.fpflags, rngIndex := x.rngIndex } = x
    let full := fun (f : Nat → Nat) (v : V256) => ∀ i, i < 8 → lane32 v i = BitVec.ofNat 32 (f i)
    let low := fun (f : Nat → Nat) (v : V256) =>
      (∀ i, i < 8 → lane16 v i = BitVec.ofNat 16 (f i))
      ∧ (∀ i, 8 ≤ i → i < 16 → lane16 v i = lane16 (x.v vd.toNat) i)
    gives 0 (low fun i => (narrow bf16 (r i) (a i)).v)
    ∧ gives 1 (full fun i => widen bf16 (h i))
    ∧ gives 2 (full fun i => widen bf16 (h (8 + i)))
    ∧ gives 3 (low fun i => (narrow fp16 (r i) (a i)).v)
    ∧ gives 4 (full fun i => widen fp16 (h i))
    ∧ gives 5 (full fun i => (fromInt (r i) (lane32 (x.v va.toNat) i).toInt).v)
    ∧ gives 6 (full fun i => (toInt32 (r i) (a i)).v)
    ∧ gives 7 (full fun i => (toIntegral (r i) (a i)).v)
    ∧ (2 < rnd.toNat → Gives (.vcvt t vd va kind rnd) s (Trapped t 1 s))

/-- The lane moves, integer lanes and conversions of a tread (04 R132, R136). -/
def Obligations.VectorMovesAndConversions : Prop :=
  Claims.VectorLaneMoves ∧ Claims.VectorConversions

/-- ACCRD, ACCCLR and ACCREL (R137) on a bank that the tread holds, and their trap on one that it does not (R134). -/
def Obligations.AccumulatorInstructions : Prop :=
  ∀ (t : Nat) (vd row : BitVec 3) (bank : BitVec 1) (s : State), Runs t s →
    let x := s.tread t
    let cell := fun (u : State) (gf a b i j : Nat) => tget 0 ((u.array gf a).bank b) (accKey i j)
    (x.heldBank bank.toNat = false →
      Gives (.accrd t vd bank row) s (Trapped t 5 s) ∧ Gives (.accclr t bank) s (Trapped t 5 s)
      ∧ Gives (.accrel t bank) s (Trapped t 5 s))
    ∧ (x.heldBank bank.toNat = true → ∀ gf a i j, s.accPart? t = some (gf, a, i, j) →
      Gives (.accrd t vd bank row) s (VectorGives t 1 vd
        (fun v => ∀ k, k < 8 → lane32 v k = BitVec.ofNat 32 (cell s gf a bank.toNat (i + row.toNat) (j + k))) s)
      ∧ Gives (.accclr t bank) s (fun u =>
        OnlyTread [.flights] t s u ∧ NextInstruction t 1 s u
        ∧ { u.tread t with pc := x.pc, beats := x.beats } = x
        ∧ (∀ r k, r < 8 → k < 8 → cell u gf a bank.toNat (i + r) (j + k) = 0)
        ∧ (∀ e, (∀ r k, r < 8 → k < 8 → e ≠ accKey (i + r) (j + k)) →
            tget 0 ((u.array gf a).bank bank.toNat) e = tget 0 ((s.array gf a).bank bank.toNat) e)
        ∧ (∀ b, b < 2 → b ≠ bank.toNat → (u.array gf a).bank b = (s.array gf a).bank b)
        ∧ (∀ g b, g ≠ gf ∨ b ≠ a → u.array g b = s.array g b))
      ∧ Gives (.accrel t bank) s (fun u =>
        OnlyTread [.flights] t s u ∧ NextInstruction t 1 s u
        ∧ (u.tread t).heldBank bank.toNat = false
        ∧ (u.tread t).setHeld bank.toNat true = { x with pc := x.pc + 1, beats := x.beats + 1 }
        ∧ ((∀ v ∈ s.arrayTreads gf a, v ≠ t → (s.tread v).heldBank bank.toNat = false) →
            (u.array gf a).code bank.toNat = false)
        ∧ ((∃ v ∈ s.arrayTreads gf a, v ≠ t ∧ (s.tread v).heldBank bank.toNat = true) → u.flights = s.flights)
        ∧ (∀ g b, g ≠ gf ∨ b ≠ a → u.array g b = s.array g b)))

/-- NOP, FENCE, HALT, BRK and TRAP (R132). BRK stops in DEBUG only while operator debug is unlocked. -/
def Sys2Proof.Claims.TreadControl : Prop :=
  ∀ (t : Nat) (s : State), Runs t s →
    let x := s.tread t
    let stops := fun (st : TState) (u : State) =>
      OnlyTread [] t s u ∧ u.tread t = { x with st := st, beats := x.beats + 1 }
    Gives (.nop t) s (TreadResult t 1 s) ∧ Gives (.fence t) s (TreadResult t 1 s)
    ∧ Gives (.halt t) s (stops .halt)
    ∧ (s.get Reg.DBG_STATUS_UNLOCKED = 1 → Gives (.brk t) s (stops .debug))
    ∧ (s.get Reg.DBG_STATUS_UNLOCKED ≠ 1 → Gives (.brk t) s (TreadResult t 1 s))
    ∧ Gives (.trap t) s (Trapped t 8 s)
    ∧ ∀ w : BitVec 32, (legalWord w.toNat = false → Gives (.illegalInstruction t w) s (Trapped t 1 s))
      ∧ (legalWord w.toNat = true → Gives (.illegalInstruction t w) s (KeepsBut [.out] s))

/-- RDSR and WRSR (R135): the registers by number; any other SR, and a write to a read-only one, is illegal. -/
def Sys2Proof.Claims.TreadSpecialRegisters : Prop :=
  ∀ (t : Nat) (r : BitVec 5) (sr : BitVec 8) (s : State), Runs t s →
    let x := s.tread t
    let a := x.s r.toNat
    let reads := fun (n : BitVec 8) (v : W32) => sr = n → Gives (.rdsr t r sr) s (ScalarResult t 1 r v s)
    let writes := fun (n : BitVec 8) (y : Tread) =>
      sr = n → Gives (.wrsr t r sr) s fun u => OnlyTread [] t s u ∧ NextInstruction t 1 s u
        ∧ { u.tread t with pc := x.pc, beats := x.beats } = y
    reads 0 (BitVec.ofNat 32 t)
    ∧ (∀ p role odd row col, s.treadRole? t = some (p, role, odd, row, col) → role < 2048 → odd < 2 → row < 16 → col < 16 →
        reads 1 (BitVec.ofNat 32 (odd * 2 ^ 27 + role * 2 ^ 16 + row * 2 ^ 4 + col)))
    ∧ reads 2 x.ctx ∧ reads 3 x.mb ∧ reads 4 x.step ∧ reads 5 x.rngKey ∧ reads 6 x.rngIndex ∧ reads 7 x.beats
    ∧ reads 8 (x.fpflags.setWidth 32)
    ∧ writes 5 { x with rngKey := a } ∧ writes 6 { x with rngIndex := a } ∧ writes 8 { x with fpflags := a.setWidth 5 }
    ∧ (8 < sr.toNat → Gives (.rdsr t r sr) s (Trapped t 1 s))
    ∧ (sr ∉ [5, 6, 8] → Gives (.wrsr t r sr) s (Trapped t 1 s))

/-- A tread executes instructions only in RUN (R128): in any other state its commands change nothing. -/
def Sys2Proof.Claims.OnlyRunningTreadsExecute : Prop :=
  ∀ (c : Instr) (t w : Nat) (s : State), encodeTread c = some (t, w) → treadOk t = true → (s.tread t).st ≠ .run →
    exec c s = .next { s with out := [] }

/-- The Y-format instructions of a tread, and the state in which a tread executes any (04 R128, R132, R135). -/
def Obligations.ControlAndSpecialRegisters : Prop :=
  Claims.TreadControl ∧ Claims.TreadSpecialRegisters ∧ Claims.OnlyRunningTreadsExecute

/-- Every instruction of a tread with legal fields is read back from its word with every operand (R131, R132): no bit of
an encoding is dropped. -/
def Obligations.TreadWordsDecode : Prop :=
  ∀ (c : Instr) (t w : Nat), encodeTread c = some (t, w) → legalWord w = true → decodeTread t w = some c

/-- A word that R133 calls illegal decodes to no instruction, and every other word decodes to one. Illegal are reserved opcodes, a tuple
that runs past s31 or past lane 7, a reserved RND, and a special register that is not listed or, in a write, read-only. -/
def Obligations.WordsAreLegalOrIllegal : Prop :=
  ∀ (t w : Nat) (reg : BitVec 5) (vr lane kind rnd : BitVec 3) (ch len : BitVec 2) (sr : BitVec 8), w < 2 ^ 32 →
    let op := bits w 26 6
    let none_ := fun (c : Instr) => encodeTread c = some (t, w) → decodeTread t w = none
    ((decodeTread t w).isSome ↔ legalWord w = true)
    ∧ (op = 0x1E ∨ op = 0x1F ∨ (0x22 ≤ op ∧ op ≤ 0x3E) → decodeTread t w = none)
    ∧ (31 < reg.toNat + len.toNat → none_ (.send t reg ch len) ∧ none_ (.recv t reg ch len))
    ∧ (7 < lane.toNat + len.toNat → none_ (.vsend t vr ch len lane) ∧ none_ (.vrecv t vr ch len lane))
    ∧ (2 < rnd.toNat → none_ (.vcvt t vr lane kind rnd))
    ∧ (8 < sr.toNat → none_ (.rdsr t reg sr)) ∧ (sr ∉ [5, 6, 8] → none_ (.wrsr t reg sr))

/-! Registers (00, 01). -/

/-- A write sets the RW fields of its register, and its RWL fields while their lock reads 0 before it; a lock field that software can
only set keeps a 1; read-only fields and every other register keep their values (R5, R8, R9). The registers whose write
has a further effect are stated apart. A register that is closed to software, a write by a virtual function to the
package-wide blocks, and a write in BOOT outside the blocks that answer change nothing (R33, R36). -/
def Sys2Proof.Claims.PlainRegisterWrites : Prop :=
  ∀ (off n : Nat) (v : W64) (a : RegAt) (s : State), regShape off n = true → RegisterAt off n a →
    a.row.base ∉ [0x300018, 0x70c800, 0x200100, 0x200200, 0x704004] →
    (PfReaches s off → s.regOpen a = true → Gives (.registerWrite .pf off n v) s fun u =>
      KeepsBut [.regs, .out] s u ∧ FieldsBut a.fields s u
      ∧ ∀ f t, (f, t) ∈ a.flds →
        let x := bits v.toNat f.lo f.width
        (t = .rw ∨ t = .wos → u.get f = x)
        ∧ (∀ l, t = .rwl l → u.get f = if s.get l = 1 then s.get f else x)
        ∧ (t = .setOnly → u.get f = if x = 1 then 1 else s.get f)
        ∧ (t ∈ [FTy.ro, .wo, .rc, .rw1c, .own] → u.get f = s.get f))
    ∧ (s.regOpen a = false → Gives (.registerWrite .pf off n v) s (KeepsBut [.out] s))
    ∧ (∀ f, f < 8 → off < 0x2000 → Gives (.registerWrite (.vf f) off n v) s (KeepsBut [.out] s))
    ∧ (s.pkg = .boot → 0x10_0000 ≤ off → off < 0x20_0000 ∨ (0x30_0000 ≤ off ∧ off < bar2) →
        Gives (.registerWrite .pf off n v) s (KeepsBut [.out] s))

/-- A read of a word answers its value, hidden fields as 0, and clears its RC fields; an event that comes during the read is
not in the value and stays in the cleared field (R5, R7). -/
def Sys2Proof.Claims.ReadClearsCounters : Prop :=
  ∀ (off : Nat) (during : W32) (a : RegAt) (s : State), regShape off 4 = true → RegisterAt off 4 a →
    a.row.base ≠ 0x1000008 → commitPlace off = none → PfReaches s off →
    Gives (.rcRead .pf off during) s fun u =>
      KeepsBut [.regs, .out] s u ∧ u.out = [.value (s.regVal a % 2 ^ 32)]
      ∧ FieldsBut (a.flds.filterMap fun x => if x.2 = .rc then some x.1 else none) s u
      ∧ ∀ f, (f, FTy.rc) ∈ a.flds → u.get f = bits during.toNat f.lo f.width

/-- A 1 written to an RW1C bit clears it and a 0 leaves it; a bit that hardware sets in the same access stays set (R5, R6). -/
def Sys2Proof.Claims.WriteOneClears : Prop :=
  ∀ (off : Nat) (value sets : W32) (a : RegAt) (s : State), regShape off 4 = true → RegisterAt off 4 a →
    a.row.base ∉ [0x300018, 0x70c800, 0x200100, 0x200200, 0x704004] → PfReaches s off →
    Gives (.rw1cWrite .pf off value sets) s fun u =>
      KeepsBut [.regs, .out] s u ∧ FieldsBut a.fields s u
      ∧ (∀ f, (f, FTy.rw1c) ∈ a.flds → ∀ i, i < f.width →
          (u.get f).testBit i = (sets.getLsbD (f.lo + i) || (s.get f).testBit i && !value.getLsbD (f.lo + i)))
      ∧ (∀ f, (f, FTy.ro) ∈ a.flds → u.get f = s.get f)

/-- Reads and writes by the type of a register field (00 R5 to R9). -/
def Obligations.RegisterFieldTypes : Prop :=
  Claims.PlainRegisterWrites ∧ Claims.ReadClearsCounters ∧ Claims.WriteOneClears

/-- A 64-bit register's low word read alone latches its high word for the requester; the requester's next read of the high
word answers the latched one and uses it up; an aligned 64-bit read answers both halves of one instant (R10). In a PART_COMMIT block
this holds of the registers after the first while the requester holds no latched block. -/
def Sys2Proof.Claims.HighWordLatch : Prop :=
  ∀ (off : Nat) (a : RegAt) (s : State), regShape off 8 = true → RegisterAt off 8 a →
    regAt? (off + 4) = some { a with byte := 4 } → PfReaches s off → PfReaches s (off + 4) → a.row.base ≠ 0x1000008 →
    (∀ x ∈ [off, off + 4], ∀ p o, commitPlace x = some (p, o) →
      o ≠ 0 ∧ tget 0 s.commitLatch (latchKey Who.pf.key p) = 0) →
    let key := latchKey Who.pf.key off
    let high := bits (s.regVal a) 32 32
    let others := fun u : State => ∀ j, j ≠ key → tget 0 u.hiLatch j = tget 0 s.hiLatch j
    Gives (.highWordLatchRead .pf off 4) s (fun u =>
      KeepsBut [.hiLatch, .out] s u ∧ u.out = [.value (bits (s.regVal a) 0 32)]
      ∧ tget 0 u.hiLatch key = high + 1 ∧ others u)
    ∧ Gives (.highWordLatchRead .pf (off + 4) 4) s (fun u =>
      KeepsBut [.hiLatch, .out] s u ∧ tget 0 u.hiLatch key = 0 ∧ others u
      ∧ u.out = [.value (if tget 0 s.hiLatch key = 0 then high else tget 0 s.hiLatch key - 1)])
    ∧ Gives (.highWordLatchRead .pf off 8) s (fun u =>
      KeepsBut [.hiLatch, .out] s u ∧ u.out = [.value (s.regVal a % 2 ^ 64)] ∧ others u)

/-- A read of COMMITTED_STEP latches the partition's whole PART_COMMIT block for the requester at one instant, and its
reads of the block's other words answer the latched values until its next such read (R39). -/
def Sys2Proof.Claims.CommitBlockLatch : Prop :=
  ∀ (p n : Nat) (s : State), p < 8 → (n = 4 ∨ n = 8) →
    let b := s.commitBlock p
    let takes := fun (w : Who) (u : State) =>
      KeepsBut [.commitLatch, .out] s u ∧ u.out = [.value (bits b 0 (8 * n))]
      ∧ tget 0 u.commitLatch (latchKey w.key p) = b + 1
      ∧ ∀ j, j ≠ latchKey w.key p → tget 0 u.commitLatch j = tget 0 s.commitLatch j
    Gives (.committedStepRead .pf p n) s (takes .pf)
    ∧ (s.partState p ≠ partScrubbing → p < s.pcie.numVfs → Gives (.committedStepRead (.vf p) p n) s (takes (.vf p)))
    ∧ ∀ o, o < 0x30 → 4 ≤ o → o % 4 = 0 →
      ∀ l, tget 0 s.commitLatch (latchKey Who.pf.key p) = l + 1 →
        Gives (.highWordLatchRead .pf (0x1000 + p * 0x100 + o) 4) s fun u =>
          KeepsBut [.out] s u ∧ u.out = [.value (bits l (8 * o) 32)]

/-- PKG_ID: writing 1 to LOCK sets the lock and journals the ID then held; writing 0 has no effect on it; once it is set the
ID keeps its value (R31, R32). -/
def Sys2Proof.Claims.PackageIdLocks : Prop :=
  ∀ (value : W32) (s : State),
    let id := bits value.toNat 0 14
    (s.get Reg.PKG_ID_LOCK = 0 → value.getLsbD 31 = true → Gives (.pkgIdLock value) s fun u =>
      KeepsBut [.regs, .journal, .out] s u ∧ u.get Reg.PKG_ID_LOCK = 1 ∧ u.get Reg.PKG_ID_ID = id
      ∧ FieldsBut [Reg.PKG_ID_LOCK, Reg.PKG_ID_ID, Reg.JRN_COUNTS_RECORDS] s u
      ∧ (s.pins.falling = false → Journaled 1 0 (leBytes 2 id) u))
    ∧ (s.get Reg.PKG_ID_LOCK = 0 → value.getLsbD 31 = false → Gives (.pkgIdLock value) s fun u =>
      KeepsBut [.regs, .out] s u ∧ FieldsBut [Reg.PKG_ID_ID] s u ∧ u.get Reg.PKG_ID_ID = id)
    ∧ (s.get Reg.PKG_ID_LOCK = 1 → Gives (.pkgIdLock value) s (KeepsBut [.out] s))

/-- The latches of 64-bit registers and committed blocks, and the lock of the package ID (00 R10, 01 R31, R32, R39). -/
def Obligations.LatchesAndPackageId : Prop :=
  Claims.HighWordLatch ∧ Claims.CommitBlockLatch ∧ Claims.PackageIdLocks

/-! Power and temperature (02). -/

/-- The effective budget of R51 and R57 from the host's request, the board's limit and the number of working converters. -/
def leastBudget (host board working : Nat) : Nat :=
  let e := min (max 1500 (min 6000 host)) (max 1500 (min 6000 board))
  if working < 12 then min e (505 * working) else e

/-- PWR_LIMITS.EFFECTIVE_W is the lowest of the host's request, the board's limit, each taken between 1,500 W and 6,000 W,
and the converter cap, which applies after these bounds; with no working converter the package is in FAULT (R51, R57). The
board's limit comes through PLDM, which answers from 50 ms after the package's release (16 R539). -/
def Sys2Proof.Claims.EffectiveBudgetIsLeast : Prop :=
  ∀ (now : W64) (s : State),
    let working := 13 - s.power.failed.length
    let host := s.get Reg.PWR_BUDGET_HOST_W
    let board := s.get Reg.PWR_LIMITS_BOARD_W
    (∀ value : W32, s.pkg ≠ .boot → Gives (.pwrBudgetWrite now value) s fun u =>
      KeepsBut [.regs, .power, .time, .journal, .out] s u
      ∧ FieldsBut [Reg.PWR_BUDGET_HOST_W, Reg.PWR_LIMITS_EFFECTIVE_W, Reg.JRN_COUNTS_RECORDS] s u
      ∧ u.get Reg.PWR_BUDGET_HOST_W = value.toNat % 2 ^ 13
      ∧ u.get Reg.PWR_LIMITS_EFFECTIVE_W = leastBudget (value.toNat % 2 ^ 13) board working)
    ∧ (∀ value : W32, s.pkg = .boot → Gives (.pwrBudgetWrite now value) s (KeepsBut [.out] s))
    ∧ (∀ w, s.pins.pwrGood = true → s.pins.pkgRstN = true → 50000000 ≤ max s.time now.toNat →
        Gives (.powerLimitEffecter now w) s fun u =>
          KeepsBut [.regs, .power, .time, .out] s u
          ∧ FieldsBut [Reg.PWR_LIMITS_BOARD_W, Reg.PWR_LIMITS_EFFECTIVE_W] s u
          ∧ u.get Reg.PWR_LIMITS_BOARD_W = max 1500 (min 6000 w)
          ∧ u.get Reg.PWR_LIMITS_EFFECTIVE_W = leastBudget host w working)
    ∧ (∀ k, k < 13 → k ∉ s.power.failed → Gives (.converterFailed now k) s fun u =>
        u.power.failed = s.power.failed ++ [k] ∧ Recorded 0x0100 [k] u
        ∧ u.get Reg.PWR_STATUS_CONV_WORKING = working - 1
        ∧ u.get Reg.PWR_LIMITS_EFFECTIVE_W = leastBudget host board (working - 1)
        ∧ (working ≤ 1 → u.pkg = .fault) ∧ (1 < working → u.pkg = s.pkg))

/-- The input voltage (R52): from 36 V to below 40 V admission is held and INPUT_LOW is set and raised; from 40 V to 60 V the
hold ends, and admission stays held only for R61; outside 36 V to 60 V the package is in FAULT and its converters stop. -/
def Sys2Proof.Claims.InputVoltageResponses : Prop :=
  ∀ (mv : Nat) (s : State),
    let m := s.inputMv mv
    (36000 ≤ m → m < 40000 → s.power.inputHold = false → Gives (.inputLow mv) s fun u =>
      KeepsBut [.regs, .power, .det, .seq, .rings, .out] s u ∧ u.get Reg.PWR_STATUS_INPUT_LOW = 1
      ∧ u.get Reg.PWR_STATUS_ADMIT_HELD = 1 ∧ u.power = { s.power with admitted := [], inputHold := true }
      ∧ Recorded 0x0101 [m] u)
    ∧ (m < 36000 ∨ 40000 ≤ m ∨ s.power.inputHold = true → Gives (.inputLow mv) s (KeepsBut [.out] s))
    ∧ (40000 ≤ m → m ≤ 60000 → Gives (.inputRestored mv) s fun u =>
      KeepsBut [.regs, .power, .out] s u ∧ FieldsBut [Reg.PWR_STATUS_INPUT_LOW, Reg.PWR_STATUS_ADMIT_HELD] s u
      ∧ u.get Reg.PWR_STATUS_INPUT_LOW = 0 ∧ u.power = { s.power with inputHold := false }
      ∧ u.get Reg.PWR_STATUS_ADMIT_HELD = if s.power.powerHold then 1 else 0)
    ∧ (m < 36000 ∨ 60000 < m → Gives (.inputOutOfRange mv) s fun u =>
      KeepsBut [.pkg, .pins, .power, .out] s u ∧ u.pkg = .fault ∧ u.power = { s.power with convertersOn := false }
      ∧ (s.pkg ≠ .fault → u.pins.faultN = false))

/-- The effective budget, and the responses to the 48 V input (02 R51, R52, R57, R59). -/
def Obligations.BudgetAndInputVoltage : Prop :=
  Claims.EffectiveBudgetIsLeast ∧ Claims.InputVoltageResponses

/-- Two rates, each a numerator over a denominator, are equal. -/
def RateIs (r : Nat × Nat) (num den : Nat) : Prop := r.1 * den = num * r.2

/-- The 10 µs measurement (R58, R61): above the budget every stage's rate is multiplied by the cube root of budget over
power in units of 1/1,024 rounded down, and none falls below its rate at V_MIN; with every domain at V_MIN admission is
held and the event raised once; at or below 97 % of the budget the hold ends. A measurement at or below the budget scales nothing. -/
def Sys2Proof.Claims.PowerMeasurementScales : Prop :=
  ∀ (now : W64) (mv : Nat) (mw : List Nat) (s : State), mw.length ≤ 13 →
    let w := s.inputW mw
    let e := s.get Reg.PWR_LIMITS_EFFECTIVE_W
    Gives (.powerMeasurement now mw mv) s fun u =>
      u.get Reg.PWR_INPUT_INPUT_W = w % 2 ^ 16 ∧ u.get Reg.PWR_INPUT_INPUT_MV = s.inputMv mv % 2 ^ 16
      ∧ (w ≤ e → u.power.rates = s.power.rates ∧ (∀ gf, u.vcode gf = s.vcode gf))
      ∧ (w ≤ e → w * 100 ≤ 97 * e → s.power.powerHold = true →
          u.power.powerHold = false ∧ Recorded 0x0103 [w, e] u
          ∧ u.get Reg.PWR_STATUS_ADMIT_HELD = if s.power.inputHold then 1 else 0)
      ∧ (e < w → s.atFloor = true → s.power.powerHold = false →
          u.power.powerHold = true ∧ u.power.admitted = [] ∧ Recorded 0x0102 [w, e] u
          ∧ u.get Reg.PWR_STATUS_ADMIT_HELD = 1
          ∧ ((∀ n ∈ s.slots, (s.stageRate n).1 ≤ s.rateAt n (s.vMin n) * (s.stageRate n).2) → u.power.rates = s.power.rates))
      ∧ (e < w → s.variable ≠ [] →
          (∀ t, s.power.fallAt = some t → max s.time now.toNat ≤ t + 90000 ∨ t + 100000 < max s.time now.toNat) →
          ∃ k, k ^ 3 * w ≤ e * 1024 ^ 3 ∧ e * 1024 ^ 3 < (k + 1) ^ 3 * w
            ∧ ∀ n, s.slots.count n = 1 →
              let r := s.stageRate n
              let lo := s.rateAt n (s.vMin n)
              (r.1 ≤ lo * r.2 → u.stageRate n = r)
              ∧ (lo * r.2 < r.1 → r.1 * k ≤ lo * r.2 * 1024 → RateIs (u.stageRate n) lo 1)
              ∧ (lo * r.2 < r.1 → lo * r.2 * 1024 < r.1 * k → RateIs (u.stageRate n) (r.1 * k) (r.2 * 1024)))

/-- The close of a 100 µs window (R62): when each of its ten measurements was below 90 % of the budget, every stage below its
nominal rate gains 2 %, up to that rate; else nothing rises. -/
def Sys2Proof.Claims.BudgetWindowRaises : Prop :=
  ∀ (now : W64) (s : State), Gives (.budgetWindowClose now) s fun u =>
    KeepsBut [.regs, .power, .time, .out] s u ∧ u.power.winCount = 0 ∧ u.power.winGood = true
    ∧ (s.power.winGood = false ∨ s.power.winCount ≠ 10 → u.power.rates = s.power.rates ∧ u.regs = s.regs)
    ∧ (s.power.winGood = true → s.power.winCount = 10 → ∀ n v, s.slots.count n = 1 → s.vdom? n = some v →
        let r := s.stageRate n
        (v.nominal * r.2 ≤ r.1 → u.stageRate n = r)
        ∧ (r.1 < v.nominal * r.2 → v.nominal * r.2 * 100 ≤ r.1 * 102 → RateIs (u.stageRate n) v.nominal 1)
        ∧ (r.1 * 102 < v.nominal * r.2 * 100 → RateIs (u.stageRate n) (r.1 * 102) (r.2 * 100)))

/-- The 10 µs measurement and the 100 µs window of the power manager (02 R58, R61, R62). -/
def Obligations.PowerLoop : Prop :=
  Claims.PowerMeasurementScales ∧ Claims.BudgetWindowRaises

/-- An admission token (R52, R55, R61, R66, R67): it admits only flights that it is offered, none while admission is held, and the
input current that they add stays within SLEW over its 100 ns; a flight whose rise fits is admitted, and its treads that waited in
HALT run from instruction 0. A flight that waits in OFF enters QUIET at its code. -/
def Sys2Proof.Claims.AdmissionTokens : Prop :=
  ∀ (gfs : List Nat) (s : State), (∀ gf ∈ gfs, gf < 1184) → gfs.Nodup →
    let rise := fun gf => s.inputRise (s.activityAt gf (s.vcode gf))
    Gives (.admissionToken gfs) s fun u =>
      KeepsBut [.power, .regs, .treads, .out] s u
      ∧ (∃ new, u.power.admitted = s.power.admitted ++ new ∧ (∀ gf ∈ new, gf ∈ gfs)
          ∧ { u.power with admitted := s.power.admitted, waking := s.power.waking, starting := s.power.starting } = s.power
          ∧ (new.map rise).sum ≤ s.slew * 100000
          ∧ (s.get Reg.PWR_STATUS_ADMIT_HELD = 1 → new = []))
      ∧ (∀ gf n, gfs = [gf] → s.flightStage? gf = some n → s.get (Reg.DOMAIN_STATE_STATE gf) < 2 → gf ∉ s.power.admitted →
          tget 0 s.power.waking gf = 0 →
          s.get Reg.PWR_STATUS_ADMIT_HELD ≠ 1 → s.get Reg.PWR_INPUT_INPUT_MV ≠ 0 → rise gf ≤ s.slew * 100000 →
          gf ∈ u.power.admitted
          ∧ ∀ t ∈ s.flightTreads gf, gf ∈ s.power.starting → (s.tread t).st = .halt → (u.tread t).st = .run ∧ (u.tread t).pc = 0)
      ∧ (∀ gf code, gfs = [gf] → tget 0 s.power.waking gf = code + 1 → s.get Reg.PWR_INPUT_INPUT_MV ≠ 0 →
          u.get (Reg.DOMAIN_STATE_STATE gf) = 1 ∧ u.get (Reg.DOMAIN_STATE_VCODE gf) = code % 2 ^ (Reg.DOMAIN_STATE_VCODE gf).width
          ∧ tget 0 u.power.waking gf = 0 ∧ u.treads = s.treads)

/-- Retention (R55, R66): an idle QUIET flight whose stage has a retention threshold enters RETAIN and loses admission; its
return ends in QUIET. Nothing that it holds changes (R56). -/
def Sys2Proof.Claims.RetentionMoves : Prop :=
  ∀ (gf : Nat) (s : State), gf < 1184 →
    (∀ n v, s.flightStage? gf = some n → s.vdom? n = some v → v.retainUs ≠ 0 → s.flightIdle gf = true →
      s.get (Reg.DOMAIN_STATE_STATE gf) = 1 → Gives (.retainEntry gf) s fun u =>
        KeepsBut [.regs, .power, .out] s u ∧ FieldsBut [Reg.DOMAIN_STATE_STATE gf] s u
        ∧ u.get (Reg.DOMAIN_STATE_STATE gf) = 2
        ∧ u.power = { s.power with admitted := s.power.admitted.filter (· != gf),
                                   starting := s.power.starting.filter (· != gf) })
    ∧ (s.flightIdle gf = false ∨ s.get (Reg.DOMAIN_STATE_STATE gf) ≠ 1
        ∨ (∀ n v, s.flightStage? gf = some n → s.vdom? n = some v → v.retainUs = 0) → Gives (.retainEntry gf) s (KeepsBut [.out] s))
    ∧ (s.get (Reg.DOMAIN_STATE_STATE gf) = 2 → Gives (.retainExit gf) s fun u =>
        KeepsBut [.regs, .out] s u ∧ FieldsBut [Reg.DOMAIN_STATE_STATE gf] s u
        ∧ u.get (Reg.DOMAIN_STATE_STATE gf) = 1)
    ∧ (s.get (Reg.DOMAIN_STATE_STATE gf) ≠ 2 → Gives (.retainExit gf) s (KeepsBut [.out] s))

/-- The 50 µs thermal sample (R69, R73, R79): every flight's temperature shows, a flight at or above the warn threshold is warned,
once on entry, one at 105 °C is hot, and below the threshold both end; a flight at 115 °C trips the package, once. That the event of
the trip names the lowest such flight is the model's choice (log 92). -/
def Sys2Proof.Claims.ThermalResponses : Prop :=
  ∀ (now : W64) (readings : List (Nat × Int)) (s : State), (∀ x ∈ readings, x.1 < 1184) →
    let v := takeReadings readings s
    let top := fun gf => max (v.temp gf) (v.rawTemp gf)
    Gives (.thermalSample now readings) s fun u =>
      ((∃ gf, gf < 1184 ∧ 920 ≤ top gf) → s.pins.thermtripN = true →
        u.pkg = .fault ∧ (s.pkg ≠ .fault → u.pins.faultN = false) ∧ u.pins.thermtripN = false
        ∧ (∀ gf, gf < 1184 → u.get (Reg.DOMAIN_STATE_STATE gf) = 3 ∧ gf ∉ u.power.admitted)
        ∧ ∃ gf, gf < 1184 ∧ 920 ≤ top gf ∧ (∀ g, g < gf → top g < 920) ∧ Recorded 0x0107 [gf, degrees (top gf)] u)
      ∧ ((∀ gf, gf < 1184 → top gf < 920) ∨ s.pins.thermtripN = false → u.pkg = s.pkg ∧ u.pins = s.pins)
      ∧ (u.get Reg.PWR_STATUS_THERM_HOT = 1 ↔ ∃ gf, gf < 1184 ∧ 840 ≤ top gf)
      ∧ ((∃ gf, gf < 1184 ∧ s.warnAt ≤ v.temp gf) → u.get Reg.PWR_STATUS_THERM_WARN = 1)
      ∧ (∀ gf, gf < 1184 →
        let t := v.temp gf
        u.get (Reg.DOMAIN_STATE_TEMP gf) = degrees t
        ∧ u.get (Reg.DOMAIN_STATE_HOT gf) = (if s.warnAt ≤ t then 1 else 0)
        ∧ (gf ∈ u.power.warn ↔ s.warnAt ≤ t)
        ∧ (s.warnAt ≤ t → gf ∉ s.power.warn → Recorded 0x0105 [gf, degrees t] u)
        ∧ (840 ≤ top gf → gf ∈ u.power.hot)
        ∧ (840 ≤ top gf → gf ∉ s.power.hot → Recorded 0x0106 [gf, degrees (top gf)] u)
        ∧ (t < s.warnAt → top gf < 840 → gf ∉ u.power.hot))

/-- Load-step admission, retention, and thermal responses (02 R66 to R69). -/
def Obligations.AdmissionRetentionThermal : Prop :=
  Claims.AdmissionTokens ∧ Claims.RetentionMoves ∧ Claims.ThermalResponses

/-! Rigging (03). -/

/-- START, alone of bits [2:0], in IDLE or REFUSED (R106, R110, R121, R124): the first Start check that fails gives the code of the
refusal; when all pass, the state is FETCH, the error registers read their reset values and the image's bytes are read from the host. In
any other state START is ignored, as is a write with other bits set. -/
def Sys2Proof.Claims.RigStartChecks : Prop :=
  ∀ (p : Nat) (value : W32) (s : State), p < 8 → s.pkg ≠ .boot →
    let open_ := s.ldState p = 0 ∨ s.ldState p = 7
    let lock := s.get Reg.PKG_ID_LOCK = 1
    let up := s.pkg = .ready ∨ s.pkg = .service
    let assigned := s.partState p = 1
    let busy := ∃ q, q < 8 ∧ 1 ≤ s.ldState q ∧ s.ldState q ≤ 5
    let gives := fun P => bits value.toNat 0 3 = 1 → Gives (.rigStart ⟨p, value⟩) s P
    (bits value.toNat 0 3 ≠ 1 → Gives (.rigStart ⟨p, value⟩) s (KeepsBut [.out] s))
    ∧ (open_ → ¬lock → gives (LoadRefused p 0x07 s))
    ∧ (open_ → lock → ¬up → gives (LoadRefused p 0x08 s))
    ∧ (open_ → lock → up → ¬assigned → gives (LoadRefused p 0x09 s))
    ∧ (open_ → lock → up → assigned → busy → gives (LoadRefused p 0x21 s))
    ∧ (open_ → lock → up → assigned → ¬busy → gives fun u =>
        KeepsBut [.regs, .out] s u ∧ u.ldState p = 1 ∧ u.get (Reg.RIG_ERROR_CODE p) = 0
        ∧ u.get (Reg.RIG_ERROR_SECTION p) = 0xFF ∧ u.get (Reg.RIG_ERROR_ENTRY_ENTRY p) = 0xFFFF_FFFF
        ∧ u.out = [.hostRead 0 (s.get (Reg.RIG_SRC_ADDR_ADDR p) * 4096) (s.get (Reg.RIG_SRC_LEN_LEN p))])
    ∧ (¬open_ → gives (KeepsBut [.out] s))

/-- Fetch and abort (R108, R110, R113, R114): the fetched bytes lie in both copies of the slot and VERIFY begins; a failed
fetch refuses the load with FETCH_FAILED, an abort in FETCH to PLACE with ABORTED, and a fault in APPLY with APPLY_FAULT and
with every flight of the load OFF (R112). An abort in any other state is ignored. -/
def Sys2Proof.Claims.RigFetchAndAbort : Prop :=
  ∀ (p : Nat) (image : List Byte) (value : W32) (s : State), p < 8 →
    (s.ldState p = 1 → Gives (.rigFetchComplete p image) s fun u =>
      let n := s.srcLen p
      u.ldState p = 2 ∧ u.memBytes (imageSlot p) n = fit 0 n image
      ∧ u.memBytes (imageSlot p + 2 ^ 28) n = fit 0 n image
      ∧ BytesBut (imageSlot p) 0x2000_0000 s u ∧ u.rigs = s.rigs)
    ∧ (s.ldState p = 1 → Gives (.fetchFailed p) s (LoadRefused p 0x20 s))
    ∧ (bits value.toNat 0 3 = 2 → s.pkg ≠ .boot → 1 ≤ s.ldState p → s.ldState p ≤ 4 →
        Gives (.rigAbort ⟨p, value⟩) s (LoadRefused p 0x22 s))
    ∧ (bits value.toNat 0 3 ≠ 2 ∨ s.ldState p = 0 ∨ 5 ≤ s.ldState p → Gives (.rigAbort ⟨p, value⟩) s (KeepsBut [.out] s))
    ∧ (s.ldState p = 5 → Gives (.applyFault p) s fun u =>
        LoadRefused p 0x24 s u
        ∧ ∀ r, (s.rig p).image = some r → (∀ x ∈ r.standing (s.rig p).place, x.2 < 1184) →
          ∀ x ∈ r.standing (s.rig p).place, u.get (Reg.DOMAIN_STATE_STATE x.2) = 3)

/-- A full load begins, its image is fetched, or it is aborted (03 R106, R108, R121, R123). -/
def Obligations.LoadsStart : Prop :=
  Claims.RigStartChecks ∧ Claims.RigFetchAndAbort

/-- The header and signature rows of R106 in their order, on the slot's image: magic, format, size, signer, signature. A
signature that passes writes the 64-byte digest into RIG_MEASURE (R107) and VALIDATE begins. -/
def Sys2Proof.Claims.RigVerifyOrder : Prop :=
  ∀ (p : Nat) (bad : List (Nat × Nat)) (s v : State) (img : List Byte), p < 8 → s.ldState p = 2 →
    slotRead bad p (s.srcLen p) { s with out := [] } = (some img, v) →
    let n := leAt img 8 4
    let id := (img.drop 0x40).take 32
    let digest := Config.shake256 (signedPart img) 64
    let magic := leAt img 0 4 = 0x5247_4952
    let format := leAt img 5 1 = 1 ∧ leAt img 6 2 = 0x100
    let size := n = v.get (Reg.RIG_SRC_LEN_LEN p) ∧ 8192 ≤ n ∧ n ≤ 2 ^ 28
    let signer := ∃ k, k < 4 ∧ tget [] v.sec.rigKeys (p * 4 + k) = id
    let signed := Config.signedBy id digest ((signature img).take 3309) = true ∧ ∀ b ∈ (signature img).drop 3309, b = 0
    let refused := fun code => Gives (.rigVerifyComplete p bad) s (LoadRefused p code v)
    (¬magic → refused 0x01) ∧ (magic → ¬format → refused 0x02) ∧ (magic → format → ¬size → refused 0x03)
    ∧ (magic → format → size → ¬signer → refused 0x05)
    ∧ (magic → format → size → signer → Gives (.rigVerifyComplete p bad) s fun u =>
        (¬signed → LoadRefused p 0x04 v u)
        ∧ (signed → u.ldState p = 3 ∧ u.mem = v.mem ∧ u.rigs = v.rigs
          ∧ ∀ w, w < 16 → u.get (Reg.RIG_MEASURE p w) = leAt digest (4 * w) 4))

/-- The end of VALIDATE and of PLACE (R104, R109, R110, R111): the first failing check refuses the load with its code,
section, entry and flight; an image that passes is held, and in APPLY the roles' flights in OFF wait for the load-step limiter to
take them to QUIET. Until Commit nothing of the load is live. -/
def Sys2Proof.Claims.RigValidateAndPlace : Prop :=
  ∀ (p : Nat) (bad : List (Nat × Nat)) (s : State), p < 8 →
    (∀ v img, s.ldState p = 3 → slotRead bad p (s.srcLen p) { s with out := [] } = (some img, v) →
      Gives (.rigValidateComplete p bad) s fun u =>
        (∀ f, validate v p img = some f →
          LoadRefused p (f.code % 256) v u ∧ u.get (Reg.RIG_ERROR_SECTION p) = f.section_ % 256
          ∧ u.get (Reg.RIG_ERROR_ENTRY_ENTRY p) = f.entry % 2 ^ 32
          ∧ (∀ gf, f.gf = some gf → u.get (Reg.RIG_ERROR_GF_VALID p) = 1 ∧ u.get (Reg.RIG_ERROR_GF p) = gf % 2 ^ 11))
        ∧ (validate v p img = none →
          u.ldState p = 4 ∧ u.rig p = { v.rig p with image := some (parseImage img) } ∧ OtherRigs p v u ∧ u.mem = v.mem))
    ∧ (∀ r, s.ldState p = 4 → (s.rig p).image = some r →
      (∀ role, s.placement p r = .inr role → Gives (.rigPlaceComplete p) s (LoadRefused p 0x1C s))
      ∧ (∀ place, s.placement p r = .inl place → Gives (.rigPlaceComplete p) s fun u =>
        KeepsBut [.regs, .power, .rigs, .out] s u ∧ FieldsBut [Reg.RIG_STATUS_STATE p] s u ∧ u.ldState p = 5
        ∧ u.rig p = { s.rig p with place := place } ∧ OtherRigs p s u ∧ u.power = { s.power with waking := u.power.waking }
        ∧ ∀ x ∈ r.standing place, s.get (Reg.DOMAIN_STATE_STATE x.2) = 3 → tget 0 u.power.waking x.2 ≠ 0))

/-- An image is verified, validated and placed (03 R104 to R109). -/
def Obligations.LoadsAreValidated : Prop :=
  Claims.RigVerifyOrder ∧ Claims.RigValidateAndPlace

/-- Commit (R110, R111, R34): the partition is ACTIVE, its load LOADED, COMMITTED_INFO.VALID clear and RIG_LOADED raised; the
package's first image takes it from READY to SERVICE. It waits in APPLY until every flight of the placement has left OFF. A role
that has lost its placement by then ends the load with APPLY_FAULT (R112). -/
def Sys2Proof.Claims.RigCommits : Prop :=
  ∀ (p : Nat) (r : Rigging) (s : State), p < 8 → s.ldState p = 5 → (s.rig p).image = some r →
    (∀ x ∈ r.standing (s.rig p).place, x.2 < 1184) →
    let up := fun gf => s.get (Reg.DOMAIN_STATE_STATE gf) ≠ 3 ∧ tget 0 s.power.waking gf = 0
    (∀ place, s.placement p r = .inl place → (∀ x ∈ r.standing place, x.2 < 1184 ∧ up x.2) → Gives (.rigApplyComplete p) s fun u =>
      u.partState p = 2 ∧ u.ldState p = 6 ∧ u.get (Reg.COMMITTED_INFO_VALID p) = 0 ∧ Recorded 0x0200 [] u
      ∧ (u.rig p).live = true ∧ (u.rig p).image = some r ∧ (u.rig p).place = place ∧ OtherRigs p s u
      ∧ u.pkg = (if s.pkg = .ready then .service else s.pkg) ∧ u.mem = s.mem
      ∧ ∀ x ∈ r.standing place, ∀ row c, row < 16 → c < 17 →
          (u.tread (treadId x.2 row c)).st ∈ [TState.halt, .fenced, .idle]
          ∧ (u.tread (treadId x.2 row c)).sreg = [] ∧ (u.tread (treadId x.2 row c)).dmem = [])
    ∧ (∀ place, s.placement p r = .inl place → (∀ x ∈ r.standing place, x.2 < 1184) → (∃ x ∈ r.standing place, ¬up x.2) →
      Gives (.rigApplyComplete p) s fun u =>
        u.ldState p = 5 ∧ u.partState p = s.partState p ∧ (u.rig p).live = (s.rig p).live ∧ (u.rig p).image = some r
        ∧ (u.rig p).place = place ∧ OtherRigs p s u ∧ u.mem = s.mem
        ∧ ∀ x ∈ r.standing place, s.get (Reg.DOMAIN_STATE_STATE x.2) = 3 → tget 0 u.power.waking x.2 ≠ 0)
    ∧ (∀ role, s.placement p r = .inr role → Gives (.rigApplyComplete p) s fun u =>
      LoadRefused p 0x24 s u ∧ ∀ x ∈ r.standing (s.rig p).place, u.get (Reg.DOMAIN_STATE_STATE x.2) = 3)

/-- RELEASE, alone of bits [2:0] (R115, R121, R123): a loaded image begins to wind down and reads RELEASING; in any other state, and with
other bits set, it is ignored. Once its work has wound down the partition is ASSIGNED and IDLE, holds no image, and its slot is cleared.
-/
def Sys2Proof.Claims.RigReleases : Prop :=
  ∀ (p : Nat) (value : W32) (s : State), p < 8 →
    (bits value.toNat 0 3 = 4 → s.pkg ≠ .boot → s.ldState p = 6 → Gives (.rigRelease ⟨p, value⟩) s fun u =>
      KeepsBut [.regs, .rigs, .out] s u ∧ FieldsBut [Reg.RIG_STATUS_STATE p] s u ∧ u.ldState p = 8
      ∧ (u.rig p).winding = true ∧ (u.rig p).image = (s.rig p).image ∧ OtherRigs p s u)
    ∧ (bits value.toNat 0 3 ≠ 4 ∨ s.ldState p ≠ 6 → Gives (.rigRelease ⟨p, value⟩) s (KeepsBut [.out] s))
    ∧ (s.ldState p = 8 → s.woundDown p = true → (s.rig p).scrubAfter = false → Gives (.rigReleased p) s fun u =>
      u.partState p = 1 ∧ u.ldState p = 0 ∧ u.rig p = Rig.init ∧ OtherRigs p s u ∧ Recorded 0x0201 [] u
      ∧ (∀ o, imageSlot p ≤ o → o < imageSlot p + 0x2000_0000 → u.memByte o = 0)
      ∧ BytesBut (imageSlot p) 0x2000_0000 s u ∧ u.svc p = Svc.init)
    ∧ (s.ldState p ≠ 8 ∨ s.woundDown p = false → Gives (.rigReleased p) s (KeepsBut [.out] s))

/-- A load commits, and an image is released (03 R110, R115). -/
def Obligations.LoadsCommitAndRelease : Prop :=
  Claims.RigCommits ∧ Claims.RigReleases

/-- A row shift (R116, R117, R119): the first re-rig in its partition's queue sets the row's remap, reads the image slot, and loads
the code of logical columns at and after the fenced one into the next physical treads, whose data SRAM is cleared. No other tread
changes. With an image that no copy supplies the role is left without a flight, as in a role move: the spec says it of a slot line
that both copies have lost, and that a row shift reads the slot is the model's inference (log 99). -/
def Sys2Proof.Claims.RowShifts : Prop :=
  ∀ (now : W64) (p gf row col role odd : Nat) (bad : List (Nat × Nat)) (rest : List Rerig) (s v : State)
    (img : Option (List Byte)), p < 8 → gf < 1184 → row < 16 → col < 16 →
    (s.rig p).rerigs = .row gf row col :: rest → (s.rig p).rerigStart = 0 → s.flightRole? gf = some (p, role, odd) →
    s.flightFenced gf = false →
    slotRead bad p (fieldAt (s.imageOf p).hdr 8 4)
      (shiftRow gf row col (beginRerig p (State.at_ now { s with out := [] }))) = (img, v) →
    Gives (.rerigRowShift now ⟨p, bad⟩) s fun u =>
      (v.fence.treads = s.fence.treads ∧ v.fence.flights = s.fence.flights ∧ v.treads = s.treads
        ∧ ∀ g w, v.rowByte g w = if g * 16 + w = gf * 16 + row then 0x80 + col else s.rowByte g w)
      ∧ (img.isSome = true → KeepsBut [.rigs, .treads] v u ∧ OtherRigs p v u
        ∧ (u.rig p).rerigs = (s.rig p).rerigs ∧ 0 < (u.rig p).rerigStart ∧ (u.rig p).rerigMade = true
        ∧ u.get Reg.RERIG_LAST_BUSY = 1
        ∧ (∀ c, col < c → c < 17 → u.tread (treadId gf row c) =
            if s.treadFenced (treadId gf row c) then { Tread.init with st := .fenced }
            else (s.imageOf p).freshTread role odd row (c - 1))
        ∧ ∀ t, (∀ c, col < c → c < 17 → t ≠ treadId gf row c) → u.tread t = s.tread t)
      ∧ (img = none → u.roleFlight p role 0 = none ∧ Recorded 0x0202 [role] u ∧ (u.rig p).rerigMade = false)

/-- A role move (R116, R118, R119): the role goes to the first alternate that passes, whose flights in OFF wait for the load-step limiter
to take them to QUIET; without one, or with an image that no copy supplies, it stays without a flight and ALTERNATES_EXHAUSTED names it.
-/
def Sys2Proof.Claims.RoleMoves : Prop :=
  ∀ (now : W64) (p role gf : Nat) (bad : List (Nat × Nat)) (rest : List Rerig) (s v : State) (img : Option (List Byte)), p < 8 →
    (s.rig p).rerigs = .role role gf :: rest → (s.rig p).rerigStart = 0 →
    (∃ x ∈ s.roleFlights p role, s.flightFenced x = true) →
    slotRead bad p (fieldAt (s.imageOf p).hdr 8 4) (beginRerig p (State.at_ now { s with out := [] })) = (img, v) →
    let r := s.imageOf p
    let alt := v.alternate? r (v.otherLoads p) (v.rig p).place (v.takenBy p role) role
    (∀ g, img.isSome = true → alt = some g → g ≠ 0x7FF → Gives (.rerigRoleMove now p bad) s fun u =>
      u.roleFlight p role 0 = some g ∧ OtherRigs p v u ∧ (u.rig p).rerigMade = true
      ∧ (∀ x ∈ r.at role g, u.get (Reg.DOMAIN_STATE_STATE x) = 3 → tget 0 u.power.waking x ≠ 0)
      ∧ ∀ other, other ≠ role → tget 0x7FF (u.rig p).place other = tget 0x7FF (v.rig p).place other)
    ∧ (img = none ∨ alt = none → Gives (.rerigRoleMove now p bad) s fun u =>
      u.roleFlight p role 0 = none ∧ Recorded 0x0202 [role] u
      ∧ ((∀ x ∈ v.roleFlights p role, x < 1184) → ∀ x ∈ v.roleFlights p role, u.get (Reg.DOMAIN_STATE_STATE x) = 3))

/-- The end of a re-rig (R116, R117, R126): the next one of the partition comes to the head of its queue, and a row shift or role
move that was made is shown and counted; one that made neither is no last re-rig, which is the model's choice (log 99). A role move
does not end while a flight of the role waits to leave OFF. -/
def Sys2Proof.Claims.RerigCompletes : Prop :=
  ∀ (now : W64) (p : Nat) (x : Rerig) (rest : List Rerig) (s : State), p < 8 → (s.rig p).rerigs = x :: rest →
    (s.rig p).rerigStart ≠ 0 →
    (s.rerigWakes p x = true → Gives (.rerigComplete now p) s (KeepsBut [.time, .out] s))
    ∧ (s.rerigWakes p x = false → s.fabric.waiting = [] → Gives (.rerigComplete now p) s fun u =>
      (u.rig p).rerigs = rest ∧ (u.rig p).rerigStart = 0 ∧ OtherRigs p s u ∧ u.mem = s.mem ∧ u.treads = s.treads
      ∧ u.get Reg.RERIG_LAST_BUSY = b2n (allParts.any fun q => q != p && (s.rig q).rerigStart != 0)
      ∧ ((s.rig p).rerigMade = false → FieldsBut [Reg.RERIG_LAST_BUSY, Reg.PKG_CAPACITY_ACTIVE_FLIGHTS, Reg.PKG_CAPACITY_SPARED_ROWS] s u)
      ∧ (∀ gf row col, x = .row gf row col → (s.rig p).rerigMade = true →
          u.get Reg.RERIG_LAST_KIND = 1 ∧ u.get Reg.RERIG_LAST_GF = gf % 2 ^ 11
          ∧ u.get Reg.RERIG_COUNTS_ROW_SHIFTS = min (s.get Reg.RERIG_COUNTS_ROW_SHIFTS + 1) 0xFFFF)
      ∧ (∀ role y g, x = .role role y → s.roleFlight p role 0 = some g → (s.rig p).rerigMade = true →
          u.get Reg.RERIG_LAST_KIND = 2 ∧ u.get Reg.RERIG_LAST_GF = g % 2 ^ 11
          ∧ u.get Reg.RERIG_COUNTS_ROLE_MOVES = min (s.get Reg.RERIG_COUNTS_ROLE_MOVES + 1) 0xFFFF))

/-- Partial re-rigs (03 R116 to R119). -/
def Obligations.PartialRerigs : Prop :=
  Claims.RowShifts ∧ Claims.RoleMoves ∧ Claims.RerigCompletes

/-! Channels, knots and the watchdog (04 R138 to R153). -/

/-- A tread that does not wait, or none: nobody proceeds on a channel that ends there. -/
def NoWaiter (o : Option Nat) (s : State) : Prop := ∀ t, o = some t → (s.tread t).st ≠ .wait

/-- A word that arrives stands last in its queue, in the order of sending; a receive that waited for it takes its words and
its tread goes on (R138). Without a word on its way nothing arrives, nor while a die link on the way has no bundle for the channel
(11 R411). -/
def Sys2Proof.Claims.WordsArriveInOrder : Prop :=
  ∀ (c : Chan) (s : State), c.part < 8 →
    let d := s.chan c.key
    (s.chanCrosses c = false → Gives (.wordDelivery c) s (KeepsBut [.out] s))
    ∧ (∀ w r t, s.chanCrosses c = true → s.chanDest c = some t → d.wire = w :: r → (s.tread t).st ≠ .wait → Gives (.wordDelivery c) s fun u =>
      KeepsBut [.chans, .out] s u ∧ OnlyChan c.key s u ∧ u.chan c.key = { d with wire := r, queue := d.queue ++ [w] })
    ∧ (∀ w r t q n reg, s.chanCrosses c = true → s.chanDest c = some t → d.wire = w :: r → (s.tread t).st = .wait →
        (s.tread t).wait = .recv q n reg → s.queueChan? t q = some c → n ≤ d.queue.length + 1 → n ≤ 32 - reg →
        Gives (.wordDelivery c) s fun u =>
          OnlyTread [.chans] t s u ∧ OnlyChan c.key s u ∧ (u.chan c.key).wire = r
          ∧ (u.chan c.key).queue = (d.queue ++ [w]).drop n ∧ (u.chan c.key).back = d.back + n
          ∧ (u.tread t).st = .run ∧ NextInstruction t 1 s u
          ∧ ∀ i, i < n → reg + i ≠ 0 → (d.queue ++ [w])[i]? = some ((u.tread t).s (reg + i)))
    ∧ (s.chanDest c = none ∨ d.wire = [] → Gives (.wordDelivery c) s (KeepsBut [.out] s))

/-- A returned credit adds 1 to the port's or knot's counter; a send that waited for it goes out (R138). -/
def Sys2Proof.Claims.CreditsReturn : Prop :=
  ∀ (c : Chan) (s : State), c.part < 8 →
    let d := s.chan c.key
    let source := match c with
      | .route p i => (s.imageOf p).routes[i]?.bind fun e => s.routeSource p e
      | .knot _ _ => none
    (d.back ≠ 0 → NoWaiter source s → Gives (.creditReturn c) s fun u =>
      KeepsBut [.chans, .out] s u ∧ OnlyChan c.key s u ∧ u.chan c.key = { d with back := d.back - 1, credit := d.credit + 1 })
    ∧ (∀ t port reg n p i e, d.back ≠ 0 → source = some t → (s.tread t).st = .wait → (s.tread t).wait = .send port reg n →
        s.portRoute? t port = some (p, i, e) → (Chan.route p i).key = c.key → (s.imageOf p).routeKnot? e = none →
        (n : Int) ≤ d.credit + 1 → Gives (.creditReturn c) s fun u =>
          OnlyTread [.chans] t s u ∧ OnlyChan c.key s u ∧ (u.chan c.key).credit = d.credit + 1 - n
          ∧ (u.chan c.key).back = d.back - 1
          ∧ (u.chan c.key).wire = d.wire ++ (List.range n).map fun j => (s.tread t).s (reg + j))
    ∧ (d.back = 0 → Gives (.creditReturn c) s (KeepsBut [.out] s))

/-- A contribution arrives at its knot as one unbroken run of TUPLE + 1 words: a floating-point knot stores it under its
source's index, an integer knot adds it to its total word by word modulo 2³² (R143, R144). -/
def Sys2Proof.Claims.KnotContributions : Prop :=
  ∀ (p i ki : Nat) (k : KnotCfg) (e : Route) (s : State), p < 8 → (s.imageOf p).routes[i]? = some e →
    (s.imageOf p).routeKnot? e = some (ki, k) →
    let key := (Chan.route p i).key
    let wire := (s.chan key).wire
    let ws := wire.take (k.tuple + 1)
    let old := s.knot (knotKey p ki)
    let src := ((s.imageOf p).knotSources ki).findIdx (· == i)
    (k.tuple + 1 ≤ wire.length → s.chanCrosses (.route p i) = true → Gives (.knotContribution p i) s fun u =>
      KeepsBut [.chans, .knots, .out] s u ∧ OnlyChan key s u
      ∧ u.chan key = { s.chan key with wire := wire.drop (k.tuple + 1) }
      ∧ (∀ x, x ≠ knotKey p ki → u.knot x = s.knot x)
      ∧ (u.knot (knotKey p ki)).sources = old.sources ++ [src]
      ∧ (k.kind = 1 → ∀ j, tget [] (u.knot (knotKey p ki)).parts j = if j = src then ws else tget [] old.parts j)
      ∧ (k.kind ≠ 1 → ∀ j, lget 0 (u.knot (knotKey p ki)).total j = lget 0 old.total j + lget 0 ws j))
    ∧ (wire.length < k.tuple + 1 ∨ s.chanCrosses (.route p i) = false → Gives (.knotContribution p i) s (KeepsBut [.out] s))

/-- A complete knot delivers its total as one tuple once its output's counter covers it, returns TUPLE + 1 credits to each of
its sources and clears (R145). A floating-point total adds the contributions in source order (R143). -/
def Sys2Proof.Claims.KnotDeliveries : Prop :=
  ∀ (p ki : Nat) (k : KnotCfg) (s : State), p < 8 → (s.imageOf p).knots[ki]? = some k →
    let d := s.knot (knotKey p ki)
    let out := Chan.knot p ki
    let n := k.tuple + 1
    let routeKeys := ((s.imageOf p).knotSources ki).map fun i => (Chan.route p i).key
    let c := fun j w => (lget 0 (tget [] d.parts j) w).toNat
    (k.count ≤ d.sources.length → (n : Int) ≤ (s.chan out.key).credit → s.chanCrosses out = true → NoWaiter (s.chanDest out) s →
      out.key ∉ routeKeys → routeKeys.Nodup → Gives (.knotDelivery p ki) s fun u =>
        KeepsBut [.chans, .knots, .out] s u ∧ (u.knot (knotKey p ki)).sources = [] ∧ (u.knot (knotKey p ki)).total = []
        ∧ (u.knot (knotKey p ki)).parts = [] ∧ (u.chan out.key).credit = (s.chan out.key).credit - n
        ∧ (∃ total, (u.chan out.key).queue = (s.chan out.key).queue ++ total
          ∧ (k.kind ≠ 1 → total = d.total)
          ∧ (k.kind = 1 → total.length = n ∧ ∀ w, w < n → lget 0 total w
              = BitVec.ofNat 32 ((List.range (k.count - 1)).foldl (fun t j => (fadd t (c (j + 1) w)).v) (c 0 w))))
        ∧ (∀ r ∈ routeKeys, u.chan r = { s.chan r with back := (s.chan r).back + n })
        ∧ ∀ x, x ≠ out.key → x ∉ routeKeys → u.chan x = s.chan x)
    ∧ (d.sources.length < k.count ∨ (s.chan out.key).credit < n ∨ s.chanCrosses out = false → Gives (.knotDelivery p ki) s (KeepsBut [.out] s))

/-- An integer knot's total does not depend on the order in which two contributions arrive (R144). -/
def Sys2Proof.Claims.IntegerKnotsCommute : Prop :=
  ∀ (p i j ki : Nat) (k : KnotCfg) (e f : Route) (s a b c d : State), i ≠ j → (Chan.route p i).key ≠ (Chan.route p j).key →
    (s.imageOf p).routes[i]? = some e → (s.imageOf p).routes[j]? = some f →
    (s.imageOf p).routeKnot? e = some (ki, k) → (s.imageOf p).routeKnot? f = some (ki, k) → k.kind ≠ 1 →
    exec (.knotContribution p i) s = .next a → exec (.knotContribution p j) a = .next b →
    exec (.knotContribution p j) s = .next c → exec (.knotContribution p i) c = .next d →
    (b.knot (knotKey p ki)).total = (d.knot (knotKey p ki)).total

/-- Knots (04 R142 to R145). -/
def Obligations.KnotsCombine : Prop :=
  Claims.KnotContributions ∧ Claims.KnotDeliveries ∧ Claims.IntegerKnotsCommute

/-- A changed limit adds L′ − L to the counter at once, to below zero when it must; the words outstanding stay (R139). A limit
is at most 16, and at a port that ends at a knot at most the knot's tuple (R140). A port that sources no route takes its limit
too (R158). A write whose ticket, kind or selection names no port is ignored. -/
def Sys2Proof.Claims.ChannelLimits : Prop :=
  ∀ (g : Nat) (value : W32) (s : State), g < 8 →
    let x := s.selected g
    let names := x.kind = 1 ∧ s.selValid g = true ∧ bits value.toNat 24 8 = s.get (Reg.CHAN_SEL_TICKET g)
    (∀ p i e, names → s.portRoute? x.tread x.index = some (p, i, e) → (s.tread x.tread).st ≠ .wait →
      let key := (Chan.route p i).key
      let asked := min (bits value.toNat 0 5) 16
      Gives (.chanLimitWrite g value) s fun u =>
        KeepsBut [.chans, .out] s u ∧ OnlyChan key s u
        ∧ (∃ l : Nat, u.chan key = { s.chan key with limit := l, credit := (s.chan key).credit + (l - (s.chan key).limit) }
          ∧ ((s.imageOf p).routeKnot? e = none → l = asked)
          ∧ (∀ j kc, (s.imageOf p).routeKnot? e = some (j, kc) → l = min asked (kc.tuple + 1))))
    ∧ (∀ key, names → s.portRoute? x.tread x.index = none → s.portKey? x.tread x.index = some key → (s.tread x.tread).st ≠ .wait →
      let l := min (bits value.toNat 0 5) 16
      Gives (.chanLimitWrite g value) s fun u =>
        KeepsBut [.chans, .out] s u ∧ OnlyChan key s u
        ∧ u.chan key = { s.chan key with limit := l, credit := (s.chan key).credit + (l - (s.chan key).limit) })
    ∧ (¬names ∨ s.portKey? x.tread x.index = none → Gives (.chanLimitWrite g value) s (KeepsBut [.out] s))

/-- CHAN_HEAD of a tread that a partition holds reads 0 while operator debug is locked, and its queue's oldest word while it
is unlocked; no word is removed (R157, 14 R502). -/
def Sys2Proof.Claims.ChannelHeadReads : Prop :=
  ∀ (g p : Nat) (s : State), g < 8 → s.flightPart (s.selected g).gf = some p →
    let x := s.selected g
    (s.get Reg.DBG_STATUS_UNLOCKED ≠ 1 → Gives (.chanHeadRead g) s fun u => KeepsBut [.out] s u ∧ u.out = [.value 0])
    ∧ (∀ c, s.get Reg.DBG_STATUS_UNLOCKED = 1 → x.kind = 0 → s.selValid g = true → s.queueChan? x.tread x.index = some c →
      Gives (.chanHeadRead g) s fun u =>
        u.chans = s.chans ∧ u.treads = s.treads ∧ .value (lget 0 (s.chan c.key).queue 0).toNat ∈ u.out)

/-- Words and credits of channels, their limits, and the head that software reads (04 R138 to R141, R157, R158). -/
def Obligations.ChannelsConserve : Prop :=
  Claims.WordsArriveInOrder ∧ Claims.CreditsReturn ∧ Claims.ChannelLimits ∧ Claims.ChannelHeadReads

/-- The stall watchdog (R150, R151): at a scan a channel's count of consecutive waiting scans without progress rises by 1 or
starts again; a chain newly stalled is reported. It breaks no wait and moves no word. STALL_CTRL.ENABLE 0 stops the scans and
clears every count. -/
def Obligations.StallWatchdog : Prop :=
  ∀ (s : State),
    let onlyCounts := fun u : State => u.treads = s.treads ∧ u.mem = s.mem ∧ ∀ k, (u.chan k).wire = (s.chan k).wire
      ∧ (u.chan k).queue = (s.chan k).queue ∧ (u.chan k).credit = (s.chan k).credit ∧ (u.chan k).back = (s.chan k).back
      ∧ (u.chan k).limit = (s.chan k).limit
    (s.get Reg.STALL_CTRL_ENABLE = 1 → Gives .stallScan s fun u =>
      onlyCounts u
      ∧ (∀ c, (s.chanList.map Chan.key).count c.key = 1 → c ∈ s.chanList →
          let d := s.chan c.key
          (u.chan c.key).sendScans = (if optWaits s (s.portRef? c) && !d.sendMoved then d.sendScans + 1 else 0)
          ∧ (u.chan c.key).recvScans = (if optWaits s (s.queueRef? c) && !d.recvMoved then d.recvScans + 1 else 0)
          ∧ (u.chan c.key).sendMoved = false ∧ (u.chan c.key).recvMoved = false)
      ∧ ((∃ r ∈ (scanCounts s).stalledList, (scanCounts s).isSeen r = false) →
          u.get Reg.STALL_STATUS_SEEN = 1 ∧ ∃ body, Recorded 0x0301 body u))
    ∧ (s.get Reg.STALL_CTRL_ENABLE ≠ 1 → Gives .stallScan s (KeepsBut [.out] s))
    ∧ (∀ value : W32, s.pkg ≠ .boot → Gives (.stallCtrlWrite value) s fun u =>
      KeepsBut [.regs, .chans, .knots, .out] s u ∧ onlyCounts u
      ∧ u.get Reg.STALL_CTRL_ENABLE = bits value.toNat 31 1 ∧ u.get Reg.STALL_CTRL_SCANS = bits value.toNat 16 8
      ∧ u.get Reg.STALL_CTRL_PERIOD_US = bits value.toNat 0 16
      ∧ (value.getLsbD 31 = false → ∀ k, (u.chan k).sendScans = 0 ∧ (u.chan k).recvScans = 0 ∧ (u.knot k).scans = 0)
      ∧ (value.getLsbD 31 = true → u.chans = s.chans ∧ u.knots = s.knots))


/-! Flights (05). -/

/-- FLT_PUSH (R198, R202, R208): a write of the window by the firmware, or by a control core with the right, stores its word;
word 23 pushes the 24 words as one descriptor to a flight that carries a role of a loaded image; a full queue of 64 drops it and
raises TILE_QUEUE_FULL, and a flight without a role takes none, which is the model's inference from 03 R111 (log 103). A host's write, and a
control core's without the right, are dropped. -/
def Sys2Proof.Claims.DescriptorPushes : Prop :=
  ∀ (who : Who) (gf w : Nat) (value : W32) (s : State), gf < 1184 → w < 24 →
    let f := s.flight gf
    let may := who = .firmware ∨ ∃ p, who = .core p ∧ s.controlRight p 0 true (Reg.FLT_PUSH gf w).base 4 = true
    let word := fun i => if i = w then value.toNat else tget 0 f.window i
    let stored := fun u : State => FlightsBut [gf] s u ∧ (∀ i, tget 0 (u.flight gf).window i = word i)
      ∧ { u.flight gf with window := f.window, queue := f.queue } = f
    let role := (s.flightRole? gf).isSome = true
    (may → w < 23 ∨ ¬role → Gives (.fltPush who gf w value) s fun u =>
      KeepsBut [.flights, .out] s u ∧ stored u ∧ (u.flight gf).queue = f.queue)
    ∧ (may → w = 23 → role → f.queue.length < 64 → Gives (.fltPush who gf w value) s fun u =>
      KeepsBut [.flights, .out] s u ∧ stored u ∧ (u.flight gf).queue = f.queue ++ [(List.range 24).map word])
    ∧ (may → w = 23 → role → 64 ≤ f.queue.length → Gives (.fltPush who gf w value) s fun u =>
      KeepsBut [.flights, .regs, .det, .seq, .rings, .out] s u ∧ stored u ∧ (u.flight gf).queue = f.queue ∧ Recorded 0x0306 [gf] u)
    ∧ (¬may → Gives (.fltPush who gf w value) s (KeepsBut [.out] s))

/-- A LOAD (R172, R175, R177, R200, R201): the first one in the queue starts, once no TILE before it and no running one reads
what it writes; it leaves the queue, and its source lies in the buffer: each row of each source square in its slots, each
scale in its entry with the tag of its axis or SQUARE; with REBLOCK the square's largest scale in every byte of the entry under
the other axis and each element moved to it; epilogue words from EPI_OFF on. A source in another package waits for a request credit
(11 R404). A malformed one stops the queue with its code. -/
def Sys2Proof.Claims.LoadsFillBuffers : Prop :=
  ∀ (gf i : Nat) (d : List Nat) (bad : List (Nat × Nat)) (far : Nat × List Byte × List Byte) (s : State), gf < 1184 →
    s.queueRuns gf = true → s.mayWork gf = true → s.flightWinds gf = false → (s.flight gf).nextLoad = some (i, d) →
    let f := s.flight gf
    let sh := s.flightShape gf
    let l := loadOf d
    let c := s.loadFault gf d
    let w := fmtWidth l.fmt
    let clash := ((f.queue.take i).any fun t => clashes sh l (tileOf t)) = true ∨ f.busyTiles sh l = true
    let ready := c = 0 ∧ ¬clash ∧ ∀ x ∈ l.pieces.1 ++ l.pieces.2, EngReads (.flight gf) x.1 x.2 s
    let g := gf + l.odd
    let at_ := fun (u : State) a => tget 0 (u.flight g).sb a
    let filled := fun u : State => FlightsBut [gf, g] s u
      ∧ (u.flight gf).queue = dropAt f.queue i ∧ (u.flight gf).loads = f.loads ++ [d]
      ∧ (u.flight g).arrays = (s.flight g).arrays ∧ (u.flight g).written = (s.flight g).written
    let begun := fun u : State => KeepsBut [.flights, .out] s u ∧ filled u
    let stops := fun (code : Nat) (u : State) => u.get (Reg.FLT_STATUS_STOPPED gf) = 1
      ∧ u.get (Reg.FLT_DESC_ERR_CODE gf) = code ∧ u.get (Reg.FLT_DESC_ERR_TAG gf) = descTag d ∧ u.flights = s.flights
      ∧ u.mem = s.mem ∧ Recorded 0x0307 [gf, code, descTag d] u ∧ ∀ p, s.flightPart gf = some p → JobHalts p 0x8 s u
    let rowAt := fun x y r => fabOff (l.src + (32 * x + r) * l.stride) + y * (4 * w)
    let scaleAt := fun x y n => s.readByte (fabOff (l.srcSc + (if l.axis = 0 then 32 * x + n else x) * l.scStride)
      + if l.axis = 0 then y else 32 * y + n)
    let slotAt := fun x y => l.slot + l.squareNo x y * slotsPer l.fmt
    let entryAt := fun x y => l.sc + l.squareNo x y
    (c ≠ 0 → Gives (.loadStart gf bad far) s (stops c))
    ∧ (c = 0 → clash → Gives (.loadStart gf bad far) s (KeepsBut [.out] s))
    ∧ (ready → l.dst = 1 → Gives (.loadStart gf [] far) s fun u =>
      begun u ∧ ∀ a, at_ u a = if epiBase + l.epiOff ≤ a ∧ a < epiBase + l.epiOff + l.len
        then s.readByte (fabOff l.src + (a - (epiBase + l.epiOff))) else tget 0 (s.flight g).sb a)
    ∧ (ready → l.dst = 0 → l.reblock = false →
      (l.square = true → ∀ x y, x < l.rows → y < l.cols → ∃ v, ∀ n, n < 32 → scaleAt x y n = v) →
      Gives (.loadStart gf [] far) s fun u =>
        begun u
        ∧ (∀ x y r j, x < l.rows → y < l.cols → r < 32 → j < 4 * w →
          at_ u (slotAt x y * 256 + r * (4 * w) + j) = s.readByte (rowAt x y r + j))
        ∧ (isMx l.fmt = true → ∀ x y n, x < l.rows → y < l.cols → n < 32 →
          tget 0 (u.flight g).tags (entryAt x y) = (if l.square then 2 else l.axis)
          ∧ at_ u (scaleBase + entryAt x y * 32 + if l.square then 0 else n) = scaleAt x y n))
    ∧ (ready → l.dst = 0 → l.reblock = true → Gives (.loadStart gf [] far) s fun u =>
      begun u ∧ ∀ x y, x < l.rows → y < l.cols → tget 0 (u.flight g).tags (entryAt x y) = 1 - l.axis
        ∧ ∃ top : Nat, (∀ n, n < 32 → (scaleAt x y n).toNat ≤ top) ∧ (∃ n, n < 32 ∧ (scaleAt x y n).toNat = top)
          ∧ (∀ n, n < 32 → (at_ u (scaleBase + entryAt x y * 32 + n)).toNat = top)
          ∧ ∀ r e, r < 32 → e < 32 → (u.flight g).elem (slotAt x y) l.fmt r e
            = reblockElem (fmtOf l.fmt) (((scaleAt x y (if l.axis = 0 then r else e)).toNat : Int) - top)
                (bits (s.memLe (rowAt x y r) (4 * w)) (w * e) w) % 2 ^ w)
    ∧ (∀ p kv, c = 0 → ¬clash → l.dst = 1 → fabPkg l.src ≠ s.get Reg.PKG_ID_ID → s.flightPart gf = some p →
      s.route? p (fabPkg l.src) = some kv →
        (64 ≤ s.outstanding kv.1 kv.2 → Gives (.loadStart gf bad far) s (KeepsBut [.out] s))
        ∧ (s.outstanding kv.1 kv.2 < 64 → far.1 = 0 → Gives (.loadStart gf bad far) s fun u =>
          u.mem = s.mem ∧ u.treads = s.treads ∧ u.landings = s.landings ∧ filled u ∧ ∀ n, n < l.len → at_ u (epiBase + l.epiOff + n) = lget 0 far.2.1 n)
        ∧ (s.outstanding kv.1 kv.2 < 64 → far.1 = 4 → Gives (.loadStart gf bad far) s fun u =>
          u.get (Reg.FLT_STATUS_LINE_HELD gf) = 1 ∧ u.flights = s.flights)
        ∧ (s.outstanding kv.1 kv.2 < 64 → far.1 ≠ 0 → far.1 ≠ 4 → Gives (.loadStart gf bad far) s (stops 0x0A)))

/-- LOADs end in order, and what one wrote counts as written (R177). A queue that does not run, or is empty, starts none, nor does a
flight in QUIET without admission (02 R55). -/
def Sys2Proof.Claims.LoadsEnd : Prop :=
  ∀ (gf : Nat) (s : State), gf < 1184 →
    let f := s.flight gf
    (∀ d r, f.loads = d :: r → Gives (.loadComplete gf) s fun u =>
      let g := gf + (loadOf d).odd
      KeepsBut [.flights, .out] s u ∧ FlightsBut [gf, g] s u ∧ (u.flight gf).loads = r ∧ (u.flight g).sb = (s.flight g).sb
      ∧ ∀ m, tget false (u.flight g).written m = (decide (m ∈ (loadOf d).writes) || tget false (s.flight g).written m))
    ∧ (f.loads = [] → Gives (.loadComplete gf) s (KeepsBut [.out] s))
    ∧ (∀ bad far, s.queueRuns gf = false ∨ s.mayWork gf = false ∨ f.nextLoad = none → Gives (.loadStart gf bad far) s (KeepsBut [.out] s))

/-- Descriptors pushed to a flight, and its LOADs (05 R175 to R178, R198, R201). -/
def Obligations.LoadsOfFlights : Prop :=
  Claims.DescriptorPushes ∧ Claims.LoadsFillBuffers ∧ Claims.LoadsEnd

/-- A TILE (R167, R168, R181 to R183, R201, 06 R233, R240): the next one of an array starts once its operands are written, its
bank is free and its flight is admitted; it leaves the queue, and in normal and emulation order each element of the array adds
its K blocks one by one to its accumulator, which a tile that CONT does not continue begins at +0. A malformed one stops the
queue with its code, codes 1 to 5 before any wait. The beats that the array has waited are counted (R206). -/
def Sys2Proof.Claims.TilesAccumulate : Prop :=
  ∀ (gf arr i : Nat) (d : List Nat) (waited : Nat × Nat) (s : State), gf < 1184 → arr < 4 → s.queueRuns gf = true →
    (s.flightShape gf = 3 ∨ arr = 0) → s.nextTile gf arr = some (i, d) →
    (∀ r, (s.array gf arr).tile = some r → r.running = false) →
    (s.flightWinds gf = false ∨ ((tileOf d).cont = true ∧ (s.array gf arr).open? ≠ none)) →
    let f := s.flight gf
    let sh := s.flightShape gf
    let t := tileOf d
    let a := s.array gf arr
    let c := s.tileFault gf d
    let waits := s.tileWaits gf arr
    let bank := match a.tile with
      | some r => r.bank
      | none => a.nextBank
    let stops := fun u : State => u.get (Reg.FLT_STATUS_STOPPED gf) = 1
      ∧ u.get (Reg.FLT_DESC_ERR_CODE gf) = c ∧ u.get (Reg.FLT_DESC_ERR_TAG gf) = descTag d ∧ u.flights = s.flights
      ∧ Recorded 0x0307 [gf, c, descTag d] u ∧ ∀ p, s.flightPart gf = some p → JobHalts p 0x8 s u
    let counted := fun u : State => FieldsBut [Reg.FLT_WAITS_SB_WAIT gf, Reg.FLT_WAITS_BANK_WAIT gf] s u
      ∧ u.get (Reg.FLT_WAITS_SB_WAIT gf) = min 0xFFFF (s.get (Reg.FLT_WAITS_SB_WAIT gf) + waited.1)
      ∧ u.get (Reg.FLT_WAITS_BANK_WAIT gf) = min 0xFFFF (s.get (Reg.FLT_WAITS_BANK_WAIT gf) + waited.2)
    let stays := fun u : State => KeepsBut [.regs, .out] s u ∧ counted u
    let started := fun u : State => KeepsBut [.flights, .regs, .out] s u ∧ counted u ∧ FlightsBut [gf] s u
      ∧ (u.flight gf).queue = dropAt f.queue i ∧ (u.flight gf).sb = f.sb
      ∧ (∀ b, b ≠ arr → u.array gf b = s.array gf b)
      ∧ ∃ r, (u.array gf arr).tile = some r ∧ r.desc = d ∧ r.bank = bank ∧ r.running = t.drain ∧ r.ends = t.drain
        ∧ (a.tile = none → r.first = d ∧ r.blocks = t.k)
        ∧ (∀ q, a.tile = some q → r.first = q.first ∧ r.blocks = q.blocks + t.k)
    let lineA := fun kb x => (panelLines ((aFlights sh gf).map s.flight) sh t.aSlot t.aSc t.fmtA kb
      (if kb + 1 = t.k then t.kLast else 32) (!t.trA)).getD x ([], 0)
    let lineB := fun kb y => (panelLines ((bFlights sh gf).map s.flight) sh t.bSlot t.bSc t.fmtB kb
      (if kb + 1 = t.k then t.kLast else 32) t.trB).getD y ([], 0)
    let block := fun kb x y => blockValue t.order (isMx t.fmtA) (decide (5 ≤ t.fmtA)) (lineA kb x) (lineB kb y)
    (0 < c → c < 6 → Gives (.tileStart ⟨gf, arr⟩ waited) s stops)
    ∧ ((c = 0 ∨ 6 ≤ c) → waits.1 = true → Gives (.tileStart ⟨gf, arr⟩ waited) s stays)
    ∧ (6 ≤ c → waits.1 = false → Gives (.tileStart ⟨gf, arr⟩ waited) s stops)
    ∧ (c = 0 → waits.1 = false → waits.2 ≠ (false, false) → Gives (.tileStart ⟨gf, arr⟩ waited) s stays)
    ∧ (c = 0 → waits = (false, false, false) → t.order ≠ 1 → TblWf 0 (a.bank bank) → Gives (.tileStart ⟨gf, arr⟩ waited) s fun u =>
      started u ∧ ∀ x y, x < arrayRows sh → y < arrayCols sh →
        tget 0 ((u.array gf arr).bank bank) (accKey x y) = (List.range t.k).foldl (fun v kb => accAdd t.order v (block kb x y))
          (if t.cont then tget 0 (a.bank bank) (accKey x y) else 0))
    ∧ (c = 0 → waits = (false, false, false) → t.order = 1 → Gives (.tileStart ⟨gf, arr⟩ waited) s fun u =>
      started u ∧ (u.array gf arr).blks.length = (if t.cont then a.blks.length else 0) + t.k
        ∧ ∀ kb x y, kb < t.k → x < arrayRows sh → y < arrayCols sh →
          tget 0 ((u.array gf arr).blks.getD ((if t.cont then a.blks.length else 0) + kb) []) (accKey x y) = block kb x y)

/-- A tile whose last descriptor has accumulated (R182, R185, 06 R234): in reference order each element is the tree sum of its
blocks; a FABRIC tile drains from its bank, or waits for the drain of the tile before it; a CODE tile's bank passes to the treads
that hold its parts, a DISCARD tile is gone, and these two count at once, also while another tile drains. -/
def Sys2Proof.Claims.TilesComplete : Prop :=
  ∀ (gf arr : Nat) (r : TileRun) (s : State), gf < 1184 → arr < 4 → (s.array gf arr).tile = some r →
    let a := s.array gf arr
    let t := tileOf r.desc
    let sh := s.flightShape gf
    let tiles := min 0xFFFF (s.get (Reg.FLT_COUNTS_TILES gf) + 1)
    let ended := fun u : State => FlightsBut [gf] s u ∧ (u.flight gf).queue = (s.flight gf).queue
      ∧ (u.array gf arr).last = some r.bank ∧ (∀ b, b ≠ arr → u.array gf b = s.array gf b)
      ∧ (t.order ≠ 1 → (u.array gf arr).bank r.bank = a.bank r.bank)
      ∧ (t.order = 1 → ∀ x y, x < arrayRows sh → y < arrayCols sh → tget 0 ((u.array gf arr).bank r.bank) (accKey x y)
          = treeSum (a.blks.map fun b => tget 0 b (accKey x y)))
    let gone := fun u : State => (u.array gf arr).tile = none ∧ (u.array gf arr).drain = a.drain
    (r.running = true → t.kind = 0 → Gives (.tileAccumulated gf arr) s fun u =>
      KeepsBut [.flights, .out] s u ∧ ended u
      ∧ (a.drain = none → (u.array gf arr).tile = none ∧ (u.array gf arr).drain = some { r with running := false })
      ∧ (a.drain ≠ none → (u.array gf arr).tile = some { r with running := false } ∧ (u.array gf arr).drain = a.drain))
    ∧ (r.running = true → t.kind = 1 → Gives (.tileAccumulated gf arr) s fun u =>
      KeepsBut [.flights, .regs, .treads, .out] s u ∧ ended u ∧ gone u
      ∧ (u.array gf arr).code r.bank = true ∧ (∀ x ∈ s.arrayTreads gf arr, (u.tread x).heldBank r.bank = true)
      ∧ TreadsBut (s.arrayTreads gf arr) s u
      ∧ u.get (Reg.FLT_COUNTS_TILES gf) = tiles)
    ∧ (r.running = true → 2 ≤ t.kind → Gives (.tileAccumulated gf arr) s fun u =>
      KeepsBut [.flights, .regs, .out] s u ∧ ended u ∧ gone u ∧ u.get (Reg.FLT_COUNTS_TILES gf) = tiles)
    ∧ (r.running = false → Gives (.tileAccumulated gf arr) s (KeepsBut [.out] s))

/-- Tiles accumulate and end (05 R164 to R184, 06 R231 to R234). -/
def Obligations.TilesRun : Prop :=
  Claims.TilesAccumulate ∧ Claims.TilesComplete

/-- A drain (R183, R185, R186, R189, R191, R194, R195, R204 to R206, 11 R401): each valid element of a FABRIC tile, after the epilogue, is
written at DST plus its row's stride, in OUT_FMT; no other byte of memory changes; the bank is free and the tile counted, its first
non-finite element recorded, its completion record is the stage's, and a tile that waited for this drain drains next. A write that meets a
lost line holds the queue; any other failed one stops it with ACCESS; either ends the drain, and drains of other arrays go on. A drain
whose target is in a re-rig, or in another package without a request credit, waits. -/
def Obligations.DrainsWriteTiles : Prop :=
  ∀ (gf arr waited : Nat) (run : TileRun) (s : State), gf < 1184 → arr < 4 → (s.array gf arr).drain = some run →
    Uninjected s →
    let a := s.array gf arr
    let s₀ := State.bump (Reg.FLT_DST_WAIT_DST_WAIT gf) waited { s with out := [] }
    let t := tileOf run.desc
    let sh := s.flightShape gf
    let rows := (partsOf sh gf).flatMap fun p => epiRows (s.flight p.gf) sh t (a.bank run.bank) p
    let recs := if t.stats then rowRecs sh gf t rows else []
    let w := outWidth t.out / 8
    let cols := if sh = 1 then 128 + t.n else t.n
    let at_ := fun x y => fabOff t.dst + x * t.stride + y * w
    let value := fun x y => epilogue (s.flight (gf + if (sh = 1 ∧ 128 ≤ y) ∨ (sh = 2 ∧ 128 ≤ x) then 1 else 0)) sh t
      (if sh = 2 then x % 128 else x) (if sh = 1 then y % 128 else y) (tget 0 (a.bank run.bank) (accKey x y))
    let drained := fun v u : State => u.mem = v.mem
      ∧ (∀ q, a.tile = some q → q.ends = true → q.running = false →
        (u.array gf arr).drain = some q ∧ (u.array gf arr).tile = none)
      ∧ ((∀ q, a.tile = some q → q.ends = false ∨ q.running = true) →
        (u.array gf arr).drain = none ∧ (u.array gf arr).tile = a.tile)
      ∧ (∀ p n, s.flightPart gf = some p → s.flightStage? gf = some n → ∃ c : TileRec,
        (u.stage n).records = (s.stage n).records ++ [c] ∧ c.tag = t.tag ∧ c.arr = arr ∧ c.nonfinite = firstNonFinite rows
        ∧ (t.stats = true → c.sumsq = tileSumsq t recs))
      ∧ u.get (Reg.FLT_COUNTS_TILES gf) = min 0xFFFF (v.get (Reg.FLT_COUNTS_TILES gf) + 1)
      ∧ (firstNonFinite rows = none → u.get (Reg.FLT_COUNTS_NONFINITE_TILES gf) = v.get (Reg.FLT_COUNTS_NONFINITE_TILES gf))
      ∧ ∀ x y, firstNonFinite rows = some (x, y) →
        u.get (Reg.FLT_COUNTS_NONFINITE_TILES gf) = min 0xFFFF (v.get (Reg.FLT_COUNTS_NONFINITE_TILES gf) + 1)
        ∧ u.get (Reg.FLT_NONFINITE_SEEN gf) = 1 ∧ (v.get (Reg.FLT_NONFINITE_SEEN gf) ≠ 1 →
          u.get (Reg.FLT_NONFINITE_ARRAY gf) = arr ∧ u.get (Reg.FLT_NONFINITE_ROW gf) = x % 2 ^ 9
          ∧ u.get (Reg.FLT_NONFINITE_COL gf) = y % 2 ^ 9 ∧ u.get (Reg.FLT_NF_TAG_TAG gf) = t.tag % 2 ^ 16)
    let failed := fun u : State => (u.array gf arr).drain = some run ∧ (u.array gf arr).failed = true
    (∀ bad far, a.failed = true → Gives (.drainComplete ⟨gf, arr⟩ bad far waited) s (KeepsBut [.out] s))
    ∧ (∀ bad far, a.failed = false → s.drainWaits gf t = true → Gives (.drainComplete ⟨gf, arr⟩ bad far waited) s fun u =>
      KeepsBut [.regs, .out] s u ∧ u.regs = s₀.regs)
    ∧ (∀ bad far, a.failed = false → s.drainWaits gf t = false →
      let r := drainWrites gf run rows recs bad far s₀
      (r.1 = 0 → Gives (.drainComplete ⟨gf, arr⟩ bad far waited) s (drained r.2))
      ∧ (r.1 = 4 → Gives (.drainComplete ⟨gf, arr⟩ bad far waited) s fun u =>
        u.mem = r.2.mem ∧ u.get (Reg.FLT_STATUS_LINE_HELD gf) = 1 ∧ failed u)
      ∧ (r.1 ≠ 0 → r.1 ≠ 4 → Gives (.drainComplete ⟨gf, arr⟩ bad far waited) s fun u =>
        u.mem = r.2.mem ∧ u.get (Reg.FLT_STATUS_STOPPED gf) = 1 ∧ u.get (Reg.FLT_DESC_ERR_CODE gf) = 0x0A ∧ failed u))
    ∧ (a.failed = false → t.out < 4 → t.stats = false → t.n ≤ partDim sh → t.m ≤ partDim sh → cols * w ≤ t.stride →
      (∀ row ∈ rows, EngWrites (.flight gf) (t.dst + row.row * t.stride + row.col * outWidth t.out / 8) (t.n * w) s) →
      fabCls t.dst = 0 → fabOff t.dst + 256 * t.stride ≤ yuseonSize →
      let valid := fun x y => (if sh = 2 then x % 128 < t.m ∧ x < 256 else x < t.m)
        ∧ (if sh = 1 then y % 128 < t.n ∧ y < 256 else y < t.n)
      Gives (.drainComplete ⟨gf, arr⟩ [] 0 waited) s fun u =>
        (∃ v : State, v.regs = s₀.regs ∧ drained v u)
        ∧ (∀ x y, valid x y → u.memLe (at_ x y) w = narrowOut t (s.drainKey gf run) x y (value x y).out % 2 ^ (8 * w))
        ∧ ∀ o, (∀ x y, valid x y → o < at_ x y ∨ at_ x y + w ≤ o) → u.readByte o = s.readByte o)

/-- Detected faults (R146, R147, 05 R197, 15 R513): a residue or tread parity error reports and fences its tread, a router or
switchback parity error its flight. The first fenced tread of a row asks for a row shift, one in column 16 leaves the row
without a spare, a second one in a row fences the flight; a fenced flight is OFF, its role is to move, and the job that runs
there rewinds. A re-rig that waits already for the same row or role is asked for once. What is already fenced reports nothing. -/
def Obligations.FaultsFence : Prop :=
  ∀ (t gf word : Nat) (inst : Bool) (s : State), Uninjected s → gf < 1184 → treadOk t = true →
    let g := treadGf t
    let row := treadRow t
    let col := treadCol t
    let prior := ∃ c, c < 17 ∧ s.treadFenced (treadId g row c) = true
    let rewinds := fun f u => ∀ p role, s.fencePart f = some (p, role) → JobRewinds p 0x1 s u
    let waiting := fun (p : Nat) => if (s.rig p).rerigStart = 0 then (s.rig p).rerigs else (s.rig p).rerigs.drop 1
    let queued := fun (p : Nat) (x : Rerig) (u : State) =>
      ((∃ y ∈ waiting p, y.covers x = true) → (u.rig p).rerigs = (s.rig p).rerigs)
      ∧ ((∀ y ∈ waiting p, y.covers x = false) → (u.rig p).rerigs = (s.rig p).rerigs ++ [x])
    let flightGone := fun (f : Nat) (u : State) => u.flightFenced f = true ∧ FlightsBut [f] s u ∧ u.flight f = Flight.init
      ∧ u.get (Reg.DOMAIN_STATE_STATE f) = 3 ∧ f ∉ u.power.admitted ∧ (∀ x, x ≠ f → u.flightFenced x = s.flightFenced x)
      ∧ (∀ p role, s.fencePart f = some (p, role) → queued p (.role role f) u) ∧ rewinds f u
    let treadGone := fun (code : Nat) (body : List Nat) (u : State) =>
      Recorded code body u ∧ u.treadFenced t = true ∧ (∀ x, x ≠ t → u.treadFenced x = s.treadFenced x)
      ∧ (u.tread t).st = .fenced
      ∧ (¬prior → u.fence.flights = s.fence.flights ∧ TreadsBut [t] s u ∧ rewinds g u
        ∧ (col = 16 → u.rowByte g row = 0x5F ∧ ∀ p, (u.rig p).rerigs = (s.rig p).rerigs)
        ∧ (col < 16 → ∀ p role, s.fencePart g = some (p, role) → queued p (.row g row col) u)
        ∧ (col < 16 → s.fencePart g = none → s.flightFenced g = false → u.rowByte g row = 0x80 + col))
      ∧ (prior → s.flightFenced g = false → flightGone g u)
    (s.treadFenced t = false → Gives (.macResidue t) s (treadGone 0x0302 [t]))
    ∧ (s.treadFenced t = false → word < 4096 →
      Gives (.treadParity t inst word) s (treadGone 0x0303 [t, (if inst then 0x1_0000 else 0) + 4 * word]))
    ∧ (s.flightFenced gf = false → Gives (.routerParity gf) s fun u => Recorded 0x0304 [gf] u ∧ flightGone gf u)
    ∧ (s.flightFenced gf = false → word < 32768 →
      Gives (.sbParity gf word) s fun u => Recorded 0x0305 [gf] u ∧ flightGone gf u)
    ∧ (s.treadFenced t = true → Gives (.macResidue t) s (KeepsBut [.out] s)
      ∧ (word < 4096 → Gives (.treadParity t inst word) s (KeepsBut [.out] s)))
    ∧ (s.flightFenced gf = true → Gives (.routerParity gf) s (KeepsBut [.out] s)
      ∧ (word < 32768 → Gives (.sbParity gf word) s (KeepsBut [.out] s)))

/-! Stages, contexts and landings (07). -/

/-- A forward (R243, R244, R253, R254, R257, R260, R265): at a boundary where no backward is chosen the first condition that
fails shows as the wait cause; when none fails, the lowest FREE context takes the expected micro-batch, from the landing's
oldest entry if the stage has one, and its stash is placed; the treads start. An entry that is not the expected one stops the
stage with LANDING_ORDER and stays. -/
def Sys2Proof.Claims.ForwardsAdmitted : Prop :=
  ∀ (slot p : Nat) (t : StageCfg) (s : State), StageAt slot p t s → (s.stage slot).mode = .idle →
    s.seqRuns p slot = true → s.choosesBackward t = false → s.stashBlocked (s.imageOf p) t = false →
    (s.stage slot).blocked = false →
    let r := s.imageOf p
    let g := s.stage slot
    let w := s.forwardWait p r t
    let admitted := fun (c : Nat) (e : Option Entry) (u : State) =>
      let k := u.ctx c
      let h := u.stage slot
      KeepsBut [.stages, .ctxs, .landings, .treads, .flights, .power, .regs, .out] s u ∧ StagesBut [slot] s u ∧ CtxsBut [c] s u
      ∧ u.power = { s.power with starting := u.power.starting }
      ∧ k.state = .fwd ∧ k.slot = slot ∧ k.step = g.fStep ∧ k.mbSeq = g.fSeq ∧ k.tag = s.stepTag p g.fStep ∧ k.out = 0
      ∧ k.mbId = (match e with
        | some x => x.mbId
        | none => (Config.firstMbId g.fStep g.fSeq).toNat)
      ∧ h.mode = .fwd ∧ h.cur = c ∧ h.ent = 0 ∧ h.pushed = false ∧ h.ring = g.ring ++ [c]
      ∧ (h.fStep, h.fSeq) = (if g.fSeq + 1 < t.mbPerStep then (g.fStep, g.fSeq + 1) else (g.fStep + 1, 0))
      ∧ h.taken = (if e.isSome then [t.fwdIn] else [])
      ∧ (t.quota ≠ 0 → k.held = r.admitNeed t ∧ h.head = k.handle + k.held ∧ k.spill = none ∧ k.thr = r.fullNeed slot)
      ∧ (t.quota = 0 → k.held = 0 ∧ h.head = g.head)
      ∧ ShowsMicroBatch slot c u ∧ TreadsStarted slot c (g.fSeq = 0) s u
      ∧ (g.fSeq = 0 → ∀ gf ∈ s.stageFlights slot, (u.flight gf).queue = [] ∧ ∀ m, m < 2048 → tget false (u.flight gf).written m = false)
      ∧ (g.fSeq ≠ 0 → u.flights = s.flights)
    (w ≠ 0 → Gives (.forwardAdmit slot) s (SeqWaits slot w s))
    ∧ (∀ c, w = 0 → s.freeCtx? t = some c →
      (namesLanding t.fwdIn = false → Gives (.forwardAdmit slot) s fun u => admitted c none u ∧ u.landings = s.landings)
      ∧ (∀ e rest, namesLanding t.fwdIn = true → (s.landing t.fwdIn).ents = e :: rest →
        (s.expects p g.fStep g.fSeq 0 false false e = true → Gives (.forwardAdmit slot) s fun u =>
          admitted c (some e) u ∧ LandingsBut [t.fwdIn] s u ∧ u.landing t.fwdIn = { s.landing t.fwdIn with ents := rest })
        ∧ (s.expects p g.fStep g.fSeq 0 false false e = false →
          Gives (.forwardAdmit slot) s (EntryRefused slot p t.fwdIn s))))

/-- A backward (R243, R245, R253, R257, R266, R272, R285, 09 R328): the chosen context's, once its stored layers are verified and, for a
step's last micro-batch, the previous step's buckets have left; a spilled context recomputes first, and a cut stage clears its second dKV
extent. STASH_VERIFY marks the oldest unverified context verified; a line that it finds lost makes the context spilled from layer 0. -/
def Sys2Proof.Claims.BackwardsStart : Prop :=
  ∀ (slot p : Nat) (t : StageCfg) (s : State), StageAt slot p t s →
    let r := s.imageOf p
    let g := s.stage slot
    let chosen := g.mode = .idle ∧ s.seqRuns p slot = true ∧ s.choosesBackward t = true ∧ (s.svc p).state ≠ .halted
    let started := fun (c : Nat) (e : Option Entry) (u : State) =>
      let x := s.ctx c
      let h := u.stage slot
      u.ctx c = { x with state := .bwd } ∧ CtxsBut [c] s u ∧ StagesBut [slot] s u ∧ u.flights = s.flights ∧ u.chans = s.chans
      ∧ h.mode = (if x.spill.isSome then .recompute else .bwd) ∧ h.cur = c ∧ h.pushed = false ∧ h.ring = g.ring
      ∧ (x.spill = none → h.ent = 0) ∧ (h.bStep, h.bSeq) = nextMb t x.step x.mbSeq
      ∧ h.taken = (if e.isSome then [t.bwdIn] else [])
      ∧ (x.spill ≠ none → u.get (Reg.SEQ_COUNTS_RECOMPUTES slot) = min 0xFFFF (s.get (Reg.SEQ_COUNTS_RECOMPUTES slot) + 1))
      ∧ (x.mbSeq + 1 = t.mbPerStep → (u.red slot).step = x.step ∧ (u.red slot).drains = [] ∧ (u.red slot).entered = 0)
      ∧ (x.mbSeq + 1 ≠ t.mbPerStep → u.reds = s.reds)
      ∧ (t.seqCut = false → u.mem = s.mem)
      ∧ (∀ k, t.seqCut = true → r.cut? slot = some k →
        let base := fabOff (s.own (x.handle + r.dkvAt slot 1))
        (∀ o, o < base ∨ base + k.dkvLen ≤ o → u.readByte o = s.readByte o) ∧ ∀ o, o < k.dkvLen → u.readByte (base + o) = 0)
      ∧ ShowsMicroBatch slot c u ∧ TreadsStarted slot c False s u
    (∀ c, chosen → s.backwardCtx t = some c →
      let x := s.ctx c
      let late := x.mbSeq + 1 = t.mbPerStep ∧ s.bucketsLeft slot = false
      let clears := ∀ k, t.seqCut = true → r.cut? slot = some k →
        Uninjected s ∧ EngWrites (.sequencer slot) (s.own (x.handle + r.dkvAt slot 1)) k.dkvLen s
      (x.verified = false → Gives (.backwardStart slot) s (SeqWaits slot 3 s))
      ∧ (x.verified = true → late → Gives (.backwardStart slot) s (SeqWaits slot 9 s))
      ∧ (x.verified = true → ¬late → clears → t.last = true → Gives (.backwardStart slot) s fun u =>
        started c none u ∧ u.landings = s.landings)
      ∧ (∀ e rest, x.verified = true → ¬late → t.last = false → (s.landing t.bwdIn).ents = e :: rest →
        (s.expects p g.bStep g.bSeq 0 true false e = true → clears → Gives (.backwardStart slot) s fun u =>
          started c (some e) u ∧ LandingsBut [t.bwdIn] s u ∧ u.landing t.bwdIn = { s.landing t.bwdIn with ents := rest })
        ∧ (s.expects p g.bStep g.bSeq 0 true false e = false → Gives (.backwardStart slot) s (EntryRefused slot p t.bwdIn s))))
    ∧ (¬chosen → Gives (.backwardStart slot) s (KeepsBut [.out] s))
    ∧ (∀ c bad, (g.ring.find? fun c => (s.ctx c).state == .stashed && !(s.ctx c).verified) = some c →
      let x := s.ctx c
      let o := prefixOf r slot (r.prog slot 0)
      let lines := linesOf (x.handle + o) (x.thr - o)
      (t.quota = 0 ∨ x.thr ≤ o ∨ (∀ n ∈ lines, s.lineCheck bad n = 0) → Gives (.stashVerify slot bad) s fun u =>
        KeepsBut [.ctxs, .out] s u ∧ CtxsBut [c] s u ∧ u.ctx c = { x with verified := true })
      ∧ (t.quota ≠ 0 → o < x.thr → (∃ n ∈ lines, s.lineCheck bad n = 2) → t.seqCut = false → Gives (.stashVerify slot bad) s fun u =>
        CtxsBut [c] s u ∧ u.ctx c = { x with verified := true, spill := some 0, thr := o } ∧ u.mem = s.mem))

/-- Forwards are admitted and backwards start (07 R242 to R245, R250 to R254). -/
def Obligations.MicroBatchesStart : Prop :=
  Claims.ForwardsAdmitted ∧ Claims.BackwardsStart

/-- A program's expansion (R249 to R251, R265, R268, R271, R272): the next entry's descriptor, relocated and incremented, joins
its role's flight queue, repetition by repetition, iteration by iteration, and the place moves on; a full queue waits; after the
last entry a recompute goes on with the backward and any other program is pushed whole. A cut stage begins each pass with the
RING_IN entry that it expects, once the RING entry of the pass before is pushed, and ends it with its RING entry. -/
def Obligations.ProgramsExpand : Prop :=
  ∀ (slot p : Nat) (t : StageCfg) (s : State), StageAt slot p t s → s.seqRuns p slot = true →
    let r := s.imageOf p
    let g := s.stage slot
    let q := r.prog slot (if g.mode = .bwd then 1 else 0)
    let e := lget noEntry q.entries g.ent
    let due := g.mode = .fwd ∧ (lget noLayer q.layers g.layer).first = g.ent ∧ g.layer < q.layers.length ∧ g.rep = 0 ∧ g.iter = 0
    let v := if due then storeLayer p r t g.layer { s with out := [] } else s
    let here := { v.stage slot with wait := 0 }
    let next := if e.loopEnd = true ∧ g.iter + 1 < q.outer then { here with ent := q.loopAt, iter := g.iter + 1, rep := 0 }
      else { here with ent := g.ent + 1, iter := if e.loopEnd then 0 else g.iter, rep := 0 }
    (g.mode ≠ .idle → g.pushed = false → s.passWaits r slot q = true → Gives (.seqDescriptorPush slot) s (SeqWaits slot 9 s))
    ∧ (g.mode ≠ .idle → g.pushed = false → s.passWaits r slot q = false →
      (q.entries.length ≤ g.ent → g.mode ≠ .recompute → Gives (.seqDescriptorPush slot) s fun u =>
        KeepsBut [.stages, .out] s u ∧ StagesBut [slot] s u ∧ u.stage slot = { g with pushed := true, wait := 0 })
      ∧ (q.entries.length ≤ g.ent → g.mode = .recompute → s.flightsQuiet slot = true → Gives (.seqDescriptorPush slot) s fun u =>
        KeepsBut [.stages, .out] s u ∧ StagesBut [slot] s u ∧ u.stage slot = { g with mode := .bwd, ent := 0, iter := 0, rep := 0 })
      ∧ (g.ent < q.entries.length → v.skipped p t q e = true → Gives (.seqDescriptorPush slot) s fun u =>
        u.flights = s.flights ∧ StagesBut [slot] s u ∧ u.stage slot = next)
      ∧ (∀ gf, g.ent < q.entries.length → v.skipped p t q e = false → s.roleFlight p e.role 0 = some gf →
        (s.flightRole? gf).isSome = true →
        (64 ≤ (s.flight gf).queue.length → Gives (.seqDescriptorPush slot) s fun u =>
          u.flights = s.flights ∧ StagesBut [slot] s u ∧ u.stage slot = { v.stage slot with wait := 7 })
        ∧ ((s.flight gf).queue.length < 64 → Gives (.seqDescriptorPush slot) s fun u =>
          FlightsBut [gf] s u ∧ u.flight gf = { s.flight gf with queue := (s.flight gf).queue ++ [v.expand p slot q e] }
          ∧ StagesBut [slot] s u ∧ u.stage slot = (if g.rep + 1 < e.count then { here with rep := g.rep + 1 } else next)
          ∧ u.ctxs = v.ctxs ∧ u.mem = s.mem)))
    ∧ (∀ k, r.cut? slot = some k → g.mode = .fwd ∨ g.mode = .bwd → g.ent = q.bodyEnd →
      let x := s.ctx g.cur
      let held := (s.landing k.ringOut).owners.length
      let unpushed := ∃ o ∈ g.outs, o.2.ring = true
      let full := g.mode = .bwd ∧ 2 ≤ g.pass ∧ g.pass < k.count ∧ 1 < held
      x.tag < 16 →
      (g.passReady = false → unpushed → Gives (.ringPass slot) s (SeqWaits slot 6 s))
      ∧ (g.passReady = false → ¬unpushed → full ∨ (s.landing k.ringIn).ents = [] → Gives (.ringPass slot) s (SeqWaits slot 9 s))
      ∧ (∀ y rest, g.passReady = false → ¬unpushed → ¬full → (s.landing k.ringIn).ents = y :: rest →
        (s.expects p x.step x.mbSeq g.pass (g.mode == .bwd) true y = true → Gives (.ringPass slot) s fun u =>
          let h := u.stage slot
          KeepsBut [.stages, .landings, .out] s u ∧ StagesBut [slot] s u ∧ LandingsBut [k.ringIn] s u
          ∧ u.landing k.ringIn = { s.landing k.ringIn with ents := rest } ∧ h.ringPay = y.payload ∧ h.passReady = true
          ∧ h.pass = g.pass ∧ (g.pass ≠ k.count → h.ringTaken = true ∧ h.ringAux = y.aux ∧ h.ent = q.bodyAt)
          ∧ (g.pass = k.count → h.ringTaken = false ∧ h.taken = g.taken ++ [k.ringIn] ∧ h.ent = g.ent))
        ∧ (s.expects p x.step x.mbSeq g.pass (g.mode == .bwd) true y = false →
          Gives (.ringPass slot) s (EntryRefused slot p k.ringIn s)))
      ∧ (g.passReady = true → g.pass < k.count → s.flightsQuiet slot = true → Gives (.ringPass slot) s fun u =>
        let h := u.stage slot
        h.pass = g.pass + 1 ∧ h.ringTaken = false ∧ (g.mode = .fwd → (h.passReady = true ↔ g.pass + 1 = k.count))
        ∧ (g.mode = .bwd → h.passReady = false)
        ∧ (g.mode = .bwd ∨ g.pass + 2 ≤ k.count → ∃ z, (k.ringOut, z) ∈ h.outs ∧ z.ring = true ∧ z.bwd = (g.mode == .bwd)
          ∧ z.mbId = x.mbId ∧ z.mbSeq = x.mbSeq ∧ z.step = x.step ∧ z.pass = g.pass + 1
          ∧ z.payload = (if g.mode = .bwd then s.own (x.handle + r.dkvAt slot g.pass) else g.ringPay))
        ∧ (∀ o c, g.ringTaken = true → s.landCfg? k.ringIn = some (o, c) → c.kind ≠ 2 →
          (u.landing k.ringIn).credit = (s.landing k.ringIn).credit + 1)))

/-- Boundaries and landings (R242, R253, R254, R256, R258, R267, R557): an outbound entry takes a credit and stands last in its landing,
or at the rope; the boundary of a forward leaves its context STASHED, that of a backward FREE once no entry names it; the entries taken
retire, and the banks return. An ingest entry needs a credit too, and one for another landing ends with CLASS; a limit's change moves the
counter by the difference; a quota frees nothing. -/
def Obligations.BoundariesAndLandings : Prop :=
  ∀ (s : State),
    (∀ slot p t n e rest o z c, StageAt slot p t s → s.seqRuns p slot = true → (s.stage slot).outs = (n, e) :: rest →
      (e.ring = true ∨ ((s.stage slot).pushed = true ∧ s.flightsQuiet slot = true ∧ s.treadsHalted slot = true)) →
      s.entryOwner slot e = o → s.landCfg? n = some (z, c) →
      (s.landReady n = false → Gives (.landingPush slot) s (SeqWaits slot 6 s))
      ∧ (s.landReady n = true → Gives (.landingPush slot) s fun u =>
        let l := u.landing n
        KeepsBut [.stages, .landings, .ctxs, .regs, .out] s u ∧ StagesBut [slot] s u ∧ LandingsBut [n] s u
        ∧ u.stage slot = { s.stage slot with outs := rest, wait := 0 } ∧ l.credit = (s.landing n).credit - 1
        ∧ l.owners = (s.landing n).owners ++ [o] ∧ l.limit = (s.landing n).limit
        ∧ (c.kind = 1 → l.wait = (s.landing n).wait ++ [e] ∧ l.ents = (s.landing n).ents)
        ∧ (c.kind ≠ 1 → l.ents = (s.landing n).ents ++ [e] ∧ l.wait = (s.landing n).wait)
        ∧ u.get (Reg.LAND_COUNTS_PUSHED n) = min 0xFFFF (s.get (Reg.LAND_COUNTS_PUSHED n) + 1)
        ∧ (∀ x, o = x + 1 → u.ctx x = { s.ctx x with out := (s.ctx x).out + 1 })))
    ∧ (∀ now slot p t, StageAt slot p t s →
      let g := s.stage slot
      let c := g.cur
      let x := s.ctx c
      g.mode = .fwd ∨ g.mode = .bwd → g.pushed = true → g.outs = [] → s.flightsQuiet slot = true →
      s.treadsHalted slot = true → s.stageStopped slot = false →
      g.taken.Nodup → (∀ n ∈ g.taken, lget 0 (s.landing n).owners 0 ≠ c + 1) →
      Gives (.microBatchBoundary now slot) s fun u =>
        (u.stage slot).mode = .idle ∧ (u.stage slot).taken = []
        ∧ (g.mode = .fwd → (u.ctx c).state = .stashed)
        ∧ (g.mode = .bwd → x.out = 0 → u.ctx c = Ctx.init ∧ c ∉ (u.stage x.slot).ring)
        ∧ (g.mode = .bwd → x.out ≠ 0 → u.ctx c = { x with state := .draining })
        ∧ (∀ n ∈ g.taken, ∀ q d, s.landCfg? n = some (q, d) → d.kind ≠ 2 → (u.landing n).credit = (s.landing n).credit + 1
          ∧ (u.landing n).owners = (s.landing n).owners.drop 1)
        ∧ (∀ gf ∈ s.stageFlights slot, ∀ y ∈ s.flightTreads gf, (u.tread y).held0 = false ∧ (u.tread y).held1 = false))
    ∧ (∀ n p c entry, n < 512 → s.landCfg? n = some (p, c) → (s.imageOf p).isIngest n = true →
      (0 < (s.landing n).credit → Gives (.ingestPush n entry) s fun u =>
        KeepsBut [.landings, .regs, .out] s u ∧ LandingsBut [n] s u
        ∧ (u.landing n).ents = (s.landing n).ents ++ [entryOf (fit 0 32 entry)]
        ∧ (u.landing n).credit = (s.landing n).credit - 1)
      ∧ ((s.landing n).credit ≤ 0 → Gives (.ingestPush n entry) s fun u =>
        KeepsBut [.regs, .det, .seq, .rings, .out] s u ∧ Recorded 0x0403 [n] u
        ∧ u.get (Reg.LAND_COUNTS_ERRORS n) = min 0xFFFF (s.get (Reg.LAND_COUNTS_ERRORS n) + 1)))
    ∧ (∀ n p c entry, n < 512 → s.landCfg? n = some (p, c) → (s.imageOf p).isIngest n = false →
      Gives (.ingestPush n entry) s fun u => KeepsBut [.out] s u ∧ u.out = [.status FabSt.class_])
    ∧ (∀ who n p c (value : W32), n < 512 → s.pkg ≠ .boot → s.landCfg? n = some (p, c) →
      s.mayWrite who (Reg.LAND_LIMIT_LIMIT n).base = true →
      let l := s.landing n
      let v := min (value.toNat % 2 ^ 9) 256
      (c.kind = 0 → Gives (.landLimitWrite who n value) s fun u => KeepsBut [.landings, .out] s u ∧ LandingsBut [n] s u
        ∧ u.landing n = { l with limit := v, credit := l.credit + ((v : Int) - l.limit) })
      ∧ (2 ≤ c.kind → Gives (.landLimitWrite who n value) s fun u => KeepsBut [.landings, .ropes, .out] s u ∧ LandingsBut [n] s u
        ∧ u.landing n = { l with limit := v }
        ∧ Sent c.rope c.vc 0x02 (leBytes 4 (ofSigned 32 ((v : Int) - l.limit)) ++ [2, 0, 0, 0]) u)
      ∧ (c.kind = 1 → Gives (.landLimitWrite who n value) s (KeepsBut [.out] s)))
    ∧ (∀ who slot (value : W32), slot < 64 → s.pkg ≠ .boot →
      (s.mayWrite who (Reg.SEQ_QUOTA_QUOTA_MIB slot).base = true → Gives (.seqQuotaWrite who slot value) s fun u =>
        u.get (Reg.SEQ_QUOTA_QUOTA_MIB slot) = value.toNat ∧ u.ctxs = s.ctxs ∧ u.mem = s.mem
        ∧ (u.stage slot).ring = (s.stage slot).ring ∧ (u.stage slot).head = (s.stage slot).head)
      ∧ (s.mayWrite who (Reg.SEQ_QUOTA_QUOTA_MIB slot).base = false → Gives (.seqQuotaWrite who slot value) s (KeepsBut [.out] s)))

/-! Reduction rings and updates (08). -/

/-- Buckets and reduction messages that leave (R288, R289, R291, R293): once all its tiles have drained and the ring has done with the
buckets before it, the next bucket enters with its first message, which needs a credit; with R = 1 its own elements are the total.
Hop 0 carries the own segment, a later hop the sum, as pairs, of what was received into its slot and the own one; a message takes a
reduction credit, and the position moves to the next hop. -/
def Sys2Proof.Claims.ReductionsLeave : Prop :=
  ∀ (slot p : Nat) (g : RingCfg) (s : State), RingAt slot p g s → s.ringRuns p slot = true → Uninjected s →
    let r := s.imageOf p
    let d := s.red slot
    let bs := r.buckets slot
    let b := lget noBucket bs d.mb
    let k := hopShard g d.mh
    let n := segLen g b d.ms
    let own := fun j => s.memLe (segAt g b k d.ms + 4 * j) 4
    let due := 1 < g.r ∧ d.mb < d.entered ∧ d.mh + 1 < g.r ∧ 0 < d.redCr ∧ Sound (segAt g b k d.ms) n s
    let moved := { d with redCr := d.redCr - 1, redIn := [], mh := d.mh + 1 }
    (∀ x, bs[d.entered]? = some x → x.tiles ≤ tget 0 d.drains x.num → d.entered = d.mb → d.step ≠ 0 →
      (1 < g.r → d.mh = 0 → 0 < d.redCr → Sound (segAt g x (hopShard g 0) d.ms) (segLen g x d.ms) s →
        Gives (.bucketEnter slot []) s fun u =>
          KeepsBut [.reds, .ropes, .out] s u ∧ RedsBut [slot] s u
          ∧ u.red slot = { d with entered := d.entered + 1, redCr := d.redCr - 1, mh := 1 }
          ∧ Sent g.rope g.vc 0x03 (RingMsg.body ⟨false, d.step, x.num, 0, d.ms,
              s.memBytes (segAt g x (hopShard g 0) d.ms) (segLen g x d.ms), 0⟩) u)
      ∧ (∀ bad, 1 < g.r → d.redCr ≤ 0 → Gives (.bucketEnter slot bad) s (KeepsBut [.out] s))
      ∧ (g.r = 1 → Sound x.area x.bytes s → Gives (.bucketEnter slot []) s fun u =>
        KeepsBut [.reds, .parts, .regs, .out] s u ∧ RedsBut [slot] s u
        ∧ u.red slot = { d with entered := d.entered + 1, mb := d.mb + 1 }
        ∧ u.get (Reg.RED_COUNTS_BUCKETS slot) = min 0xFFFF (s.get (Reg.RED_COUNTS_BUCKETS slot) + 1)
        ∧ ((∃ j, j < x.elems ∧ isFinite (ofPair (s.memLe (x.area + 4 * j) 4)) = false) → Unfinite p d.step u)))
    ∧ (∀ bad, (∀ x, bs[d.entered]? = some x → tget 0 d.drains x.num < x.tiles) ∨ d.entered ≠ d.mb ∨ d.step = 0 → Gives (.bucketEnter slot bad) s (KeepsBut [.out] s))
    ∧ (due → d.mh = 0 → d.redIn = [] → Gives (.ringMessageSend slot []) s fun u =>
      KeepsBut [.reds, .ropes, .out] s u ∧ RedsBut [slot] s u ∧ u.red slot = moved
      ∧ ∃ data, data = s.memBytes (segAt g b k d.ms) n
        ∧ Sent g.rope g.vc 0x03 (RingMsg.body { gather := false, step := d.step, bucket := b.num, hop := 0, seg := d.ms, data := data }) u)
    ∧ (∀ m, due → d.mh ≠ 0 → d.redIn = [m] → m.step = d.step → Sound (slotAt g false m.slot) n s →
      let recv := fun j => s.memLe (slotAt g false m.slot + 4 * j) 4
      Gives (.ringMessageSend slot []) s fun u =>
      KeepsBut [.reds, .ropes, .parts, .out] s u ∧ RedsBut [slot] s u ∧ u.red slot = moved
      ∧ (∃ data, Sent g.rope g.vc 0x03 (RingMsg.body
          { gather := false, step := d.step, bucket := b.num, hop := d.mh, seg := d.ms, data := data }) u
        ∧ data.length = n / 4 * 4 ∧ ∀ j, j < n / 4 → ofLe ((data.drop (4 * j)).take 4) = pairSum (recv j) (own j) % 2 ^ 32)
      ∧ Sent (s.prevRope g) g.vc 0x04 [0, 0, 0, 0, 1, 0, 0, 0] u
      ∧ ((∃ j, j < n / 4 ∧ isFinite (fadd (ofPair (recv j)) (ofPair (own j))).v = false) → Unfinite p d.step u))

/-- Ring messages that arrive (R289 to R292, R306, 10 R373): one that is the next expected is held in a segment slot of the inbound area,
and what is expected next moves on; the last hop's sum is the total, written over the own shard's segment; a gather message's elements are
written into the BUILDING slot and go on to the next package; each freed slot's credit returns. A message out of order stops the ring. One
that names no target stops its channel. RING_CREDIT adds to the pool that it names. -/
def Sys2Proof.Claims.RingMessagesArrive : Prop :=
  ∀ (k v slot p : Nat) (g : RingCfg) (msg : List Byte) (s : State), k < 18 → v < 8 → s.delivers k v = true → RingAt slot p g s →
    Uninjected s →
    let r := s.imageOf p
    let d := s.red slot
    let bs := r.buckets slot
    let m := ringMsgOf msg
    let here := s.ringTarget k v msg = some slot ∧ d.stopped = false ∧ (s.rig p).winding = false
    let rb := lget noBucket bs d.rb
    let expected := m.gather = false ∧ m.step = d.rStep ∧ m.bucket = d.rb ∧ m.hop = d.rh ∧ m.seg = d.rs
      ∧ m.data.length = segLen g rb d.rs
    let next := if d.rh + 2 < g.r then (d.rStep, d.rb, d.rs, d.rh + 1)
      else if d.rs + 1 < segCount g rb then (d.rStep, d.rb, d.rs + 1, 0)
      else if d.rb + 1 < bs.length then (d.rStep, d.rb + 1, 0, 0) else (d.rStep + 1, 0, 0, 0)
    let b := lget noBucket bs d.mb
    let at_ := segAt g b g.pos d.ms
    let n := segLen g b d.ms
    let total := d.mh + 1 = g.r ∧ d.mb < d.entered ∧ m.step = d.step
    let recv := fun j => ofLe ((m.data.drop (4 * j)).take 4)
    let held := slotAt g false 0
    let apart := fun (x a y b : Nat) => x + a ≤ y ∨ y + b ≤ x
    (here → expected → d.redIn = [] → ¬total → Gives (.ringData k v msg []) s fun u =>
      KeepsBut [.reds, .ropes, .mem, .memCheck, .memEpoch, .memKey, .out] s u ∧ RedsBut [slot] s u
      ∧ (u.red slot).redIn = [{ m with data := [] }] ∧ u.memBytes held m.data.length = m.data
      ∧ (∀ o, o < held ∨ held + m.data.length ≤ o → u.readByte o = s.readByte o)
      ∧ ((u.red slot).rStep, (u.red slot).rb, (u.red slot).rs, (u.red slot).rh) = next
      ∧ { u.red slot with redIn := d.redIn, rStep := d.rStep, rb := d.rb, rs := d.rs, rh := d.rh } = d)
    ∧ (here → expected → d.redIn = [] → total → m.data.length = n → apart held n at_ n → Sound at_ n s → Gives (.ringData k v msg []) s fun u =>
      let e := u.red slot
      RedsBut [slot] s u ∧ e.redIn = [] ∧ (e.rStep, e.rb, e.rs, e.rh) = next ∧ e.redCr = d.redCr
      ∧ (e.mb, e.ms, e.mh) = (if d.ms + 1 < segCount g b then (d.mb, d.ms + 1, 0) else (d.mb + 1, 0, 0))
      ∧ (∀ j, j < n / 4 → u.memLe (at_ + 4 * j) 4 = pairSum (recv j) (s.memLe (at_ + 4 * j) 4) % 2 ^ 32)
      ∧ (∀ o, (o < held ∨ held + n ≤ o) → (o < at_ ∨ at_ + n ≤ o) → u.readByte o = s.readByte o)
      ∧ Sent (s.prevRope g) g.vc 0x04 [0, 0, 0, 0, 1, 0, 0, 0] u
      ∧ ((∃ j, j < n / 4 ∧ isFinite (fadd (ofPair (recv j)) (ofPair (s.memLe (at_ + 4 * j) 4))).v = false) → Unfinite p d.step u)
      ∧ (segCount g b ≤ d.ms + 1 →
        u.get (Reg.RED_COUNTS_BUCKETS slot) = min 0xFFFF (s.get (Reg.RED_COUNTS_BUCKETS slot) + 1)))
    ∧ (here → m.gather = false → ¬expected → d.redIn = [] → Gives (.ringData k v msg []) s fun u =>
      u.red slot = { d with stopped := true } ∧ RedsBut [slot] s u ∧ u.mem = s.mem ∧ u.get (Reg.RED_STATUS_WAIT slot) = 7
      ∧ u.get (Reg.RED_COUNTS_ORDER_ERRORS slot) = min 0xFFFF (s.get (Reg.RED_COUNTS_ORDER_ERRORS slot) + 1)
      ∧ (∃ body, Recorded 0x0500 body u) ∧ JobHalts p 0x8 s u)
    ∧ (∀ x, here → m.gather = true → d.gatherWant g bs m.hop = (m.bucket, m.seg, true) → m.step = d.gStep → d.gatIn = [] →
      d.updStep = d.step → d.step = m.step → r.upd? (lget noBucket bs m.bucket).upd = some x →
      let y := lget noBucket bs m.bucket
      let c := s.baseCount p d.updStep
      let o := r.versionAt y.slotOff (c + 1) + 2 * (hopShard g m.hop * shardElems g y + m.seg * (g.seg / 4))
      let len := 2 * (segLen g y m.seg / 4)
      let form := slotAt g true 0
      m.data.length = formLen x (segLen g y m.seg / 4) → apart form m.data.length o len →
      Sound o len s → Gives (.ringData k v msg []) s fun u =>
        let e := u.red slot
        RedsBut [slot] s u ∧ e.gatIn = [] ∧ u.memBytes o len = widenForm x (segLen g y m.seg / 4) m.data
        ∧ (∀ a, (a < form ∨ form + m.data.length ≤ a) → (a < o ∨ o + len ≤ a) → u.readByte a = s.readByte a)
        ∧ tget 0 e.gatWritten y.num = tget 0 d.gatWritten y.num + 1
        ∧ e.gatOut = (if m.hop + 2 < g.r then d.gatOut ++ [{ m with hop := m.hop + 1 }] else d.gatOut)
        ∧ tget (VerState.free, 0) (u.part p).slots ((c + 1) % max 1 r.maxLive) = (.building, c + 1)
        ∧ Sent (s.prevRope g) g.vc 0x04 [1, 0, 0, 0, 1, 0, 0, 0] u)
    ∧ (here → m.gather = true → d.gatherWant g bs m.hop ≠ (m.bucket, m.seg, true) ∨ m.step ≠ d.gStep → d.gatIn = [] →
      Gives (.ringData k v msg []) s fun u => (u.red slot).stopped = true ∧ RedsBut [slot] s u ∧ u.mem = s.mem
        ∧ (∃ body, Recorded 0x0500 body u) ∧ JobHalts p 0x8 s u)
    ∧ (s.ringTarget k v msg = none →
      Gives (.ringData k v msg []) s (PeerMismatch k v msg s) ∧ Gives (.ringCredit k v msg) s (PeerMismatch k v msg s))
    ∧ (s.ringTarget k v msg = some slot → Gives (.ringCredit k v msg) s fun u =>
      let n : Int := mAt msg 4 4
      KeepsBut [.reds, .ropes, .out] s u ∧ RedsBut [slot] s u
      ∧ (mAt msg 0 1 = 0 → u.red slot = { d with redCr := d.redCr + n })
      ∧ (mAt msg 0 1 ≠ 0 → u.red slot = { d with gatCr := d.gatCr + n }))

/-- The reduction ring and the gather (08 R288 to R291). -/
def Obligations.ReductionRing : Prop :=
  Claims.ReductionsLeave ∧ Claims.RingMessagesArrive

/-- An update group (R296 to R306, R308): once its bucket's total is complete and its undercroft has no ring work to serve first, the
group's gradient pairs, masters and states of count c's half go through the update program with the schedule's parameters, and the
masters and states are written into the other half; no version slot changes before the gather. A non-finite output clears the step's
finite flag. The last group of a shard begins its gather. A pinned slot or half holds the update. -/
def Sys2Proof.Claims.UpdateGroups : Prop :=
  ∀ (slot p : Nat) (g : RingCfg) (s w w' : State) (v : List (List Nat)), RingAt slot p g s →
    s.groupReady p slot g ((s.imageOf p).buckets slot) = true →
    let r := s.imageOf p
    let d := s.red slot
    let bs := r.buckets slot
    let a := groupAt r g bs d.ub d.ug
    let c := s.baseCount p d.updStep
    let o := w.groupOut p r a c v
    let x := if o.2 = true ∧ a.own = 0 then w.bump (Reg.UPD_COUNTS_REFRESHES p) 1 else w
    let half := (c + 1) % 2
    loadGroup [] g a (c % 2) { s with out := [] } = (some v, w) →
    storeGroup [] r a half d.updStep o.1 (holdRegs (x.stackOf (segAt g a.b g.pos 0)) p o.1 x) = (true, w') →
    (a.off + 1024 < shardElems g a.b → Gives (.updateGroup slot []) s fun u =>
      u.mem = w'.mem ∧ (u.red slot).ug = d.ug + 1 ∧ (u.red slot).ub = d.ub ∧ RedsBut [slot] w' u
      ∧ (u.part p).slots = (w'.part p).slots
      ∧ ((∃ i ∈ [1] ++ (List.range a.x.nE).map (2 + ·) ++ (List.range a.x.nM).map (4 + ·),
          ∃ x ∈ (lget [] o.1 i).take a.n, isFinite x = false) → Unfinite p d.updStep u)
      ∧ (a.x.nE = 0 → a.x.nM = 0 → ∀ j, j < a.n → (lget [] o.1 1).length = 1024 →
        u.memLe (a.x.state + half * a.x.half + 4 * (a.own + j)) 4 = pairOf (lget 0 (lget [] o.1 1) j) % 2 ^ 32))
    ∧ (shardElems g a.b ≤ a.off + 1024 → Gives (.updateGroup slot []) s fun u => (u.red slot).ub = d.ub + 1 ∧ (u.red slot).ug = 0)

/-- Update code's own instructions and the schedule scale (R301, R313, R316): VBMAX gives each 32-lane block its largest
magnitude, or the NaN; VSQRT and VDIV are correctly rounded; VMMUL is the product of two 32 × 32 squares by tree sums; VTRANS
transposes one. A scale that is negative or not finite is ignored; any other waits for the next step's latch. -/
def Sys2Proof.Claims.UpdateCodeAndScales : Prop :=
  ∀ (n : Nat) (vd va vb : BitVec 3) (s : State), n < 16 →
    let a := fun i => s.ucLane n va.toNat i
    let b := fun i => s.ucLane n vb.toNat i
    (Gives (.vbmax n vd va) s fun u => ∃ f, LanesTake n vd f s u ∧ ∀ i, i < 1024 →
      let blk := fun j => a (32 * (i / 32) + j)
      ((∃ j, j < 32 ∧ isNaN (blk j) = true) → f i = 0x7FC0_0000)
      ∧ ((∀ j, j < 32 → isNaN (blk j) = false) → (∀ j, j < 32 → blk j % 2 ^ 31 ≤ f i) ∧ ∃ j, j < 32 ∧ f i = blk j % 2 ^ 31))
    ∧ Gives (.vsqrt n vd va) s (LanesTake n vd (fun i => (fsqrt (a i)).v) s)
    ∧ Gives (.vdiv n vd va vb) s (LanesTake n vd (fun i => (fdiv (a i) (b i)).v) s)
    ∧ Gives (.vmmul n vd va vb) s (LanesTake n vd (fun i =>
        treeSum ((List.range 32).map fun k => (fmul (a (32 * (i / 32) + k)) (b (32 * k + i % 32))).v)) s)
    ∧ Gives (.vtrans n vd va) s (LanesTake n vd (fun i => a (32 * (i % 32) + i / 32)) s)
    ∧ (∀ who p i (value : W32), p < 8 → i < 8 → s.pkg ≠ .boot →
      let may := s.mayWrite who (Reg.SCHED_SCALE_LR_SCALE p i).base = true
      let ignored := isFinite value.toNat = false ∨ (value.getLsbD 31 = true ∧ value ≠ 0x8000_0000#32)
      (may → ¬ignored → Gives (.schedScaleWrite who p i value) s fun u =>
        KeepsBut [.regs, .out] s u ∧ FieldsBut [Reg.SCHED_SCALE_LR_SCALE p i, Reg.SCHED_STATUS_SCALE_PENDING p i] s u
        ∧ u.get (Reg.SCHED_SCALE_LR_SCALE p i) = value.toNat ∧ u.get (Reg.SCHED_STATUS_SCALE_PENDING p i) = 1)
      ∧ (¬may ∨ ignored → Gives (.schedScaleWrite who p i value) s (KeepsBut [.out] s)))

/-- Update groups, update code and scales (08 R299 to R304, R313 to R316). -/
def Obligations.Updates : Prop :=
  Claims.UpdateGroups ∧ Claims.UpdateCodeAndScales

/-! Undercrofts and memory (09, 11). -/

/-- Undercroft queues and quotas (09 R341, R347, R348, R352): a control core's words fill a push window, and word 23 pushes the
descriptor with the core's partition; a full queue of 32 drops it and raises UC_QUEUE_FULL; a host's write is dropped. A finished
gather's landing entry goes in once the landing's counter is positive. A quota takes the written weight and limit. -/
def Sys2Proof.Claims.UndercroftQueues : Prop :=
  ∀ (n p w : Nat) (value : W32) (s : State), n < 16 → p < 8 → w < 24 →
    let x := s.uc n
    let put := fun conv => if conv then Instr.ucConvPush (.core p) n w value else Instr.ucGatherPush (.core p) n w value
    let right := fun conv : Bool => s.controlRight p 0 true (if conv then Reg.UC_CONV_PUSH n w else Reg.UC_GATHER_PUSH n w).base 4 = true
    let win := fun (conv : Bool) (y : Undercroft) => if conv then y.cwin else y.gwin
    let q := fun (conv : Bool) (y : Undercroft) => if conv then y.cq else y.gq
    let word := fun conv i => if i = w then value.toNat else tget 0 (win conv x) i
    let stored := fun (conv : Bool) (u : State) => UcsBut [n] s u ∧ (∀ i, tget 0 (win conv (u.uc n)) i = word conv i)
      ∧ q (!conv) (u.uc n) = q (!conv) x ∧ win (!conv) (u.uc n) = win (!conv) x ∧ (u.uc n).gpush = x.gpush
    (∀ conv, right conv →
      (w < 23 → Gives (put conv) s fun u => KeepsBut [.ucs, .out] s u ∧ stored conv u ∧ q conv (u.uc n) = q conv x)
      ∧ (w = 23 → (q conv x).length < 32 → Gives (put conv) s fun u => KeepsBut [.ucs, .out] s u ∧ stored conv u
        ∧ q conv (u.uc n) = q conv x ++ [(List.range 24).map (word conv) ++ [p]])
      ∧ (w = 23 → 32 ≤ (q conv x).length → Gives (put conv) s fun u => KeepsBut [.ucs, .regs, .det, .seq, .rings, .out] s u
        ∧ stored conv u ∧ q conv (u.uc n) = q conv x ∧ Recorded 0x0605 [n, if conv then 1 else 0] u))
    ∧ (∀ conv, ¬right conv → Gives (put conv) s (KeepsBut [.out] s))
    ∧ (∀ f, f = .pf ∨ f = .vf p → Gives (.ucGatherPush f n w value) s (KeepsBut [.out] s)
      ∧ Gives (.ucConvPush f n w value) s (KeepsBut [.out] s))
    ∧ (∀ d o c, x.gpush = some d → (s.rig (lget 0 d 24)).winding = false → s.landCfg? (gatherOf d).landing = some (o, c) →
      let g := gatherOf d
      let l := s.landing g.landing
      (0 < l.credit → c.kind ≠ 1 → Gives (.gatherLandingPush n) s fun u =>
        KeepsBut [.ucs, .landings, .regs, .out] s u ∧ UcsBut [n] s u ∧ u.uc n = { x with gpush := none }
        ∧ LandingsBut [g.landing] s u ∧ (u.landing g.landing).credit = l.credit - 1
        ∧ (u.landing g.landing).ents = l.ents ++ [⟨g.mbId, g.version, 0, 0x3FF, g.mbSeq, g.step, g.dst, 0⟩])
      ∧ (l.credit ≤ 0 → Gives (.gatherLandingPush n) s (KeepsBut [.out] s)))
    ∧ (∀ who, whoOk who = true → s.pkg ≠ .boot →
      (s.mayWrite who (Reg.UC_QUOTA_WEIGHT n p).base = true → Gives (.ucQuotaWrite who n p value) s fun u =>
        KeepsBut [.regs, .out] s u ∧ FieldsBut [Reg.UC_QUOTA_WEIGHT n p, Reg.UC_QUOTA_REQ_LIMIT n p] s u
        ∧ u.get (Reg.UC_QUOTA_WEIGHT n p) = bits value.toNat 24 8 ∧ u.get (Reg.UC_QUOTA_REQ_LIMIT n p) = bits value.toNat 0 13)
      ∧ (s.mayWrite who (Reg.UC_QUOTA_WEIGHT n p).base = false → Gives (.ucQuotaWrite who n p value) s (KeepsBut [.out] s)))

/-- Gathers and conversions (09 R339, R340, R343, R346, R347, 06 R223): a malformed descriptor stops its queue with the lowest code
that it has; what only the header, the offsets and the indices show is judged once they are read. A gather writes each bag's
pooled and narrowed row at its target, then TAG at CPL_ADDR, leaves the queue and, with PUSH_EN, has a landing entry due; a
conversion widens its elements, narrows them and writes them; the scratch is the partition's. No byte outside what they write
changes. One whose data waits is left in its queue. -/
def Sys2Proof.Claims.GathersAndConversions : Prop :=
  ∀ (n : Nat) (d : List Nat) (rest : List (List Nat)) (s : State), n < 16 → Uninjected s →
    let p := lget 0 d 24
    let stops := fun (conv : Bool) code tag (u : State) => u.ucs = s.ucs ∧ u.mem = s.mem
      ∧ u.get (if conv then Reg.UC_STATUS_CONV_STOPPED n else Reg.UC_STATUS_GATHER_STOPPED n) = 1
      ∧ u.get (Reg.UC_DESC_ERR_CODE n) = code ∧ u.get (Reg.UC_DESC_ERR_QUEUE n) = (if conv then 1 else 0)
      ∧ u.get (Reg.UC_DESC_ERR_TAG n) = tag ∧ Recorded 0x0606 [n, if conv then 1 else 0, code, tag] u ∧ JobHalts p 0x8 s u
    (∀ bad far farOut, (s.uc n).gq = d :: rest → (s.uc n).gpush = none → s.ucRuns n false p = true →
      s.gatherFault n p d ≠ 0 →
      Gives (.gatherDescriptor n bad far farOut) s (stops false (s.gatherFault n p d) (gatherOf d).tag))
    ∧ (∀ bad far farOut, (s.uc n).gq = d :: rest → (s.uc n).gpush = none → s.ucRuns n false p = true → s.gatherFault n p d = 0 →
      s.gatherWaits n p (gatherOf d) = true → Gives (.gatherDescriptor n bad far farOut) s (KeepsBut [.out] s))
    ∧ (∀ bad far farOut, (s.uc n).cq = d :: rest → s.ucRuns n true p = true → s.convertFault p d = 0 →
      s.convertWaits n p (convertOf d) = true → Gives (.converterDescriptor n bad far farOut) s (KeepsBut [.out] s))
    ∧ (∀ far farOut, (s.uc n).gq = d :: rest → (s.uc n).gpush = none → s.ucRuns n false p = true → s.gatherFault n p d = 0 →
      s.gatherWaits n p (gatherOf d) = false →
      let g := gatherOf d
      let h := s.hdrAt g.table
      let off := fun b => s.memLe (fabOff g.offs + 4 * b) 4
      let offs := (List.range (g.bags + 1)).map off
      let first := off 0
      let count := off g.bags - first
      let idx := fun i => s.memLe (fabOff (g.idx + 4 * first) + 4 * i) 4
      s.lineCheck [] (g.table / 64) = 0 → EngReads (.undercroft p n) g.offs (4 * (g.bags + 1)) s → s.listsWait n p g offs = false →
      let reach := s.gatherReach p g offs = true
      let header := s.headerOk p g.table = true
      let grows := ∀ b, b < g.bags → off b ≤ off (b + 1)
      let read := reach ∧ header ∧ grows ∧ s.gatherReady p g = true
        ∧ (count ≠ 0 → EngReads (.undercroft p n) (g.idx + 4 * first) (4 * count) s)
      let stop := fun code => Gives (.gatherDescriptor n [] far farOut) s (stops false code g.tag)
      (header → s.gatherReady p g = true → ¬reach → stop 0x04) ∧ (¬header → ¬reach → stop 0x04) ∧ (reach → ¬header → stop 0x05)
      ∧ (reach → header → s.gatherReady p g = true → ¬grows → stop 0x06)
      ∧ (read → (∃ i, i < count ∧ h.rows ≤ idx i) → stop 0x07)
      ∧ (read → (∀ i, i < count → idx i < h.rows) → g.push = true → (s.imageOf p).isIngest g.landing = false → stop 0x08))
    ∧ (∀ bad far farOut, (s.uc n).cq = d :: rest → s.ucRuns n true p = true → s.convertFault p d ≠ 0 →
      Gives (.converterDescriptor n bad far farOut) s (stops true (s.convertFault p d) (convertOf d).tag))
    ∧ ((s.uc n).gq = d :: rest → (s.uc n).gpush = none → s.ucRuns n false p = true → s.gatherFault n p d = 0 →
      s.gatherReady p (gatherOf d) = true → s.gatherWaits n p (gatherOf d) = false →
      let g := gatherOf d
      let h := s.hdrAt g.table
      let a : Agent := .undercroft p n
      let off := fun b => s.memLe (fabOff g.offs + 4 * b) 4
      let first := off 0
      let idx := fun i => s.memLe (fabOff (g.idx + 4 * first) + 4 * (i - first)) 4
      let wgt := fun i => s.memLe (fabOff (g.wgt + 4 * first) + 4 * (i - first)) 4
      let row := fun i => h.rowValues (s.memBytes (h.rowAt g.table (idx i)) h.rowBytes)
      let bag := fun b =>
        let js := (List.range (off (b + 1) - off b)).map (off b + ·)
        (List.range h.dim).map (pool g.mode g.weighted (js.map row) (js.map wgt))
      let form := fun b =>
        let r := narrowRow g.out g.rnd ⟨(s.imageOf p).jobSeed, g.mbId, g.tensor, g.step⟩ (g.elem + b * h.dim) (bag b)
        packCodes (outWidth g.out) r.1 0 ++ r.2.map (BitVec.ofNat 8)
      let at_ := fun b => fabOff (g.dst + b * g.stride)
      let count := off g.bags - first
      let offs := (List.range (g.bags + 1)).map off
      s.lineCheck [] (g.table / 64) = 0 → s.headerOk p g.table = true → s.gatherReach p g offs = true → s.listsWait n p g offs = false →
      EngReads a g.offs (4 * (g.bags + 1)) s → (∀ b, b < g.bags → off b ≤ off (b + 1)) →
      (count ≠ 0 → EngReads a (g.idx + 4 * first) (4 * count) s) →
      (count ≠ 0 → g.weighted = true → EngReads a (g.wgt + 4 * first) (4 * count) s) →
      (∀ i, first ≤ i → i < off g.bags → idx i < h.rows ∧ Sound (h.rowAt g.table (idx i)) h.rowBytes s) →
      (g.push = true → (s.imageOf p).isIngest g.landing = true) →
      (∀ b, b < g.bags → EngWrites a (g.dst + b * g.stride) (form b).length s) →
      (∀ b c, b < g.bags → c < g.bags → b ≠ c → at_ b + (form b).length ≤ at_ c ∨ at_ c + (form c).length ≤ at_ b) →
      (g.cpl ≠ 0 → EngWrites a g.cpl 4 s ∧ ∀ b, b < g.bags → fabOff g.cpl + 4 ≤ at_ b ∨ at_ b + (form b).length ≤ fabOff g.cpl) →
      Gives (.gatherDescriptor n [] [] 0) s fun u =>
        (∀ b, b < g.bags → u.memBytes (at_ b) (form b).length = form b)
        ∧ (g.cpl ≠ 0 → u.memLe (fabOff g.cpl) 4 = g.tag)
        ∧ (∀ o, (∀ b, b < g.bags → o < at_ b ∨ at_ b + (form b).length ≤ o) →
          (g.cpl = 0 ∨ o < fabOff g.cpl ∨ fabOff g.cpl + 4 ≤ o) → u.readByte o = s.readByte o)
        ∧ UcsBut [n] s u
        ∧ u.uc n = { s.uc n with gq := rest, gpush := if g.push then some d else none, scratch := (u.uc n).scratch, user := p + 1 }
        ∧ u.flights = s.flights ∧ u.treads = s.treads)
    ∧ ((s.uc n).cq = d :: rest → s.ucRuns n true p = true → s.convertFault p d = 0 → s.convertWaits n p (convertOf d) = false →
      let c := convertOf d
      let a : Agent := .undercroft p n
      let src := s.memBytes (fabOff c.srcAt) (fmtBytes c.src c.count)
      let scs := if outMx c.src then s.memBytes (fabOff c.srcSc) (c.count / 32) else []
      let r := narrowRow c.dst c.rnd ⟨(s.imageOf p).jobSeed, c.stream, c.tensor, c.step⟩ c.elem (widenElems c.src c.count src scs)
      let form := packCodes (outWidth c.dst) r.1 0
      let scales := r.2.map (BitVec.ofNat 8)
      let o1 := fabOff c.dstAt
      let o2 := fabOff c.dstSc
      EngReads a c.srcAt (fmtBytes c.src c.count) s → (outMx c.src = true → EngReads a c.srcSc (c.count / 32) s) →
      EngWrites a c.dstAt form.length s →
      (outMx c.dst = true → EngWrites a c.dstSc scales.length s ∧ (o1 + form.length ≤ o2 ∨ o2 + scales.length ≤ o1)) →
      let o3 := fabOff c.cpl
      (c.cpl ≠ 0 → EngWrites a c.cpl 4 s ∧ (o1 + form.length ≤ o3 ∨ o3 + 4 ≤ o1)
        ∧ (outMx c.dst = true → o2 + scales.length ≤ o3 ∨ o3 + 4 ≤ o2)) →
      Gives (.converterDescriptor n [] [] 0) s fun u =>
        u.memBytes o1 form.length = form ∧ (outMx c.dst = true → u.memBytes o2 scales.length = scales)
        ∧ (c.cpl ≠ 0 → u.memLe o3 4 = c.tag)
        ∧ (∀ o, o < o1 ∨ o1 + form.length ≤ o → outMx c.dst = false ∨ o < o2 ∨ o2 + scales.length ≤ o →
          c.cpl = 0 ∨ o < o3 ∨ o3 + 4 ≤ o → u.readByte o = s.readByte o)
        ∧ UcsBut [n] s u ∧ u.uc n = { s.uc n with cq := rest, scratch := (u.uc n).scratch, user := p + 1 } ∧ u.flights = s.flights ∧ u.treads = s.treads)

/-- The queues, gathers and conversions of undercrofts (09 R337 to R347). -/
def Obligations.Undercrofts : Prop :=
  Claims.UndercroftQueues ∧ Claims.GathersAndConversions

/-- Sparse row updates (09 R326, R342 to R345): pass 1 checks the header, the counts, the indices and the rows before it uses them; a lost
line there holds the work and its data is not used. It keeps, for each row that a source names, its bytes and states before the step and
the sum of its gradients in order, clears every VALID and waits for pass 2; a count line out of range or a row out of range stops it with
SPARSE_ERROR. Pass 2 on the undercroft that holds them updates the next slots' rows by the update program. A rewind's restore writes the
kept bytes and the mark back and drops the work. -/
def Obligations.SparseUpdates : Prop :=
  ∀ (p table : Nat) (g : Region) (s : State), p < 8 → s.tableAt? p table = some g → Uninjected s →
    let r := s.imageOf p
    let h := s.hdrAt table
    let step := (s.svc p).decided + 1
    let named := (List.range h.sources).flatMap fun k =>
      (s.inboxRows h table k (s.countLine h table k).2.1).zipIdx.map fun (row, t) =>
        (row, (pairsOf h.dim (s.memBytes (h.gradAt table k t) (4 * h.dim))).map ofPair)
    let ready := h.trained = true ∧ (s.rig p).winding = false ∧ s.sparse? p table step = none ∧ s.sparseReady p table h step = true
      ∧ 3 * p + 2 ∉ (s.uc (g.stack g.base)).held ∧ h.ok r g = true
    let counts := table / 64 :: countLines table h
    (ready → (∀ k, k < h.sources → (s.countLine h table k).2.1 ≤ h.srcRows) → (∀ x ∈ named, x.1 < h.rows) →
      (∀ l ∈ counts ++ indexLines s table h ++ sparseLines s r table h, s.lineCheck [] l = 0) →
      (∀ x ∈ named, s.memLe (h.markAt table x.1) 8 / 2 ^ 32 ≠ step % 2 ^ 32) → Gives (.sparsePass1 p table []) s fun u =>
        (∃ w, u.sparse? p table step = some w ∧ w.pass = (if named = [] then 2 else 1)
          ∧ (∀ y ∈ w.undo, y.row ∈ named.map Prod.fst ∧ y.bytes = s.memBytes (h.rowAt table y.row) h.rowBytes
            ∧ y.mark = s.memLe (h.markAt table y.row) 8 ∧ y.written = false
            ∧ ∃ a l, (named.filter fun x => x.1 == y.row).map Prod.snd = a :: l
              ∧ y.grad = l.foldl (List.zipWith fun a b => (fadd a b).v) a)
          ∧ (∀ x ∈ named, x.1 ∈ w.undo.map Undo.row) ∧ (w.undo.map Undo.row).Nodup)
        ∧ (∀ k, k < h.sources → u.memLe (h.inboxAt table k + 8) 4 = 0)
        ∧ (∀ o, o < table ∨ table + g.size ≤ o → u.readByte o = s.readByte o))
    ∧ (∀ bad, ready → (∃ l ∈ counts, s.lineCheck bad l = 2) → Gives (.sparsePass1 p table bad) s fun u =>
      3 * p + 2 ∈ (u.uc (g.stack g.base)).held ∧ u.get (Reg.UC_STATUS_LINE_HELD (g.stack g.base)) = 1)
    ∧ (∀ bad k, ready → k < h.sources → (∀ j, j < k → (s.countLine h table j).2.1 ≤ h.srcRows) →
      h.srcRows < (s.countLine h table k).2.1 → (∀ l ∈ counts, s.lineCheck bad l = 0) → Gives (.sparsePass1 p table bad) s fun u =>
        u.mem = s.mem ∧ (∃ w, u.sparse? p table step = some w ∧ w.pass = 9 ∧ w.undo = [])
        ∧ Recorded 0x0604 [table % 2 ^ 32, table / 2 ^ 32, k, 1] u ∧ JobHalts p 0x8 s u)
    ∧ (∀ n w, n < 16 → s.sparse? p table step = some w → w.pass = 1 → (s.rig p).winding = false → 3 * p + 2 ∉ (s.uc n).held →
      let x := h.upd r
      let todo := (w.undo.zipIdx.filter fun y => !y.1.written && g.stack (h.rowAt table y.1.row) == n).take (1024 / max 1 h.dim)
      todo ≠ [] → x.nE = 0 → (∀ y ∈ todo, Sound (h.rowAt table y.1.row) h.rowBytes s) →
      (∀ y ∈ todo, ∀ z ∈ todo, y.2 ≠ z.2 → h.rowAt table y.1.row + h.rowBytes ≤ h.rowAt table z.1.row
        ∨ h.rowAt table z.1.row + h.rowBytes ≤ h.rowAt table y.1.row) →
      h.dim * 4 ≤ h.rowBytes → todo.length * h.dim ≤ 1024 →
      Gives (.sparsePass2 n p table []) s fun u =>
        let c := s.baseCount p step
        let ps := updParams ((r.sched? x.sched).getD (schedOf 0)) x c (tget 0x3F80_0000 (s.part p).scale x.sched)
        let old := todo.flatMap fun y => (pairsOf h.dim (s.memBytes (h.rowAt table y.1.row) (4 * h.dim))).map ofPair
        let regs := [fit 0 1024 (todo.flatMap fun y => y.1.grad), fit 0 1024 old] ++ List.replicate 6 (fit 0 1024 [])
        let new := lget [] (runUpd ps (lget [] r.code x.image) regs) 1
        (∃ w', u.sparse? p table step = some w' ∧ (w'.undo.map Undo.row) = w.undo.map Undo.row
          ∧ (∀ y ∈ todo, ∃ z, w'.undo[y.2]? = some z ∧ z.written = true)
          ∧ (w'.pass = 2 ↔ ∀ z ∈ w'.undo, z.written = true))
        ∧ u.get (Reg.UC_SPARSE_ROWS n p) = min 0xFFFF (s.get (Reg.UC_SPARSE_ROWS n p) + todo.length)
        ∧ (new.length = 1024 → ∀ i y j, todo[i]? = some y → j < h.dim →
          u.memLe (h.rowAt table y.1.row + 4 * j) 4 = pairOf (lget 0 new (i * h.dim + j)) % 2 ^ 32)
        ∧ (∀ o, (∀ y ∈ todo, o < h.rowAt table y.1.row ∨ h.rowAt table y.1.row + h.rowBytes ≤ o) → u.readByte o = s.readByte o))
    ∧ ((s.rig p).winding = true → Gives (.sparseRestore p table) s fun u =>
      u.sparse = s.sparse.filter (fun x => !(x.part == p && x.table == table))
      ∧ (∀ x y, (s.sparse.filter fun x => x.part == p && x.table == table) = [x] → x.undo = [y] → y.states = [] →
        h.rowAt table y.row + y.bytes.length ≤ h.markAt table y.row ∨ h.markAt table y.row + 8 ≤ h.rowAt table y.row →
        Sound (h.rowAt table y.row) y.bytes.length s → Sound (h.markAt table y.row) 8 s →
          u.memBytes (h.rowAt table y.row) y.bytes.length = y.bytes ∧ u.memLe (h.markAt table y.row) 8 = y.mark % 2 ^ 64
          ∧ ∀ o, (o < h.rowAt table y.row ∨ h.rowAt table y.row + y.bytes.length ≤ o) →
            (o < h.markAt table y.row ∨ h.markAt table y.row + 8 ≤ o) → u.readByte o = s.readByte o))
    ∧ ((s.rig p).winding = false → Gives (.sparseRestore p table) s (KeepsBut [.out] s))

/-- Fabric accesses at their target (11 R392, R393, R395 to R398, R558): one that fails a check answers the first one's status
without an effect, and is reported; one for a role in re-rig waits; else a read answers the bytes, a write stores them, an atomic
stores its result and answers the old value, and nothing else in memory changes. A lost line answers LINE_LOST. The newel firmware
reaches only its reserved range. -/
def Obligations.FabricAccesses : Prop :=
  ∀ (a : Agent) (addr : W64) (func size : Nat) (data : List Byte) (value compare : W64) (bad : List (Nat × Nat)) (s : State),
    agentOk a = true → (∀ k v t j, a ≠ .peer k v t j) → fabPkg addr.toNat = s.get Reg.PKG_ID_ID →
    let o := fabOff addr.toNat
    let rd : FabReq := ⟨a, opRead, 0, size, addr.toNat, []⟩
    let wr : FabReq := ⟨a, opWrite, 0, data.length, addr.toNat, data⟩
    let at_ : FabReq :=
      ⟨a, opAtomic, func, size, addr.toNat, leBytes size value.toNat ++ (if func = 4 then leBytes size compare.toNat else [])⟩
    let answers := fun (status : Nat) (l : List Byte) (u : State) => u.out = [.status status, .bytes l]
    let fails := fun (q : FabReq) (c : Instr) => s.fabCheck q ≠ 0 → Gives c s fun u =>
      KeepsBut [.regs, .det, .seq, .rings, .out] s u ∧ answers (s.fabCheck q) [] u
      ∧ u.get Reg.FAB_ERR_COUNTS_ERRORS = min 0xFFFF (s.get Reg.FAB_ERR_COUNTS_ERRORS + 1) ∧ u.get Reg.FAB_ERR_STATUS_SEEN = 1
      ∧ (s.get Reg.FAB_ERR_STATUS_SEEN ≠ 1 → u.get Reg.FAB_ERR_STATUS_STATUS = s.fabCheck q ∧ u.get Reg.FAB_ERR_STATUS_OP = q.op
        ∧ u.get Reg.FAB_ERR_STATUS_AGENT = a.code ∧ u.get Reg.FAB_ERR_ADDR_ADDR = addr.toNat)
      ∧ Recorded 0x0800 [addr.toNat % 2 ^ 32, addr.toNat / 2 ^ 32, q.op + 2 ^ 8 * s.fabCheck q + 2 ^ 16 * a.code] u
    let waits := fun (q : FabReq) (c : Instr) => s.fabCheck q = 0 → s.fabWaits q = true → Gives c s fun u =>
      KeepsBut [.fabric, .out] s u ∧ u.out = [] ∧ u.fabric = { s.fabric with waiting := s.fabric.waiting ++ [q] }
    let old := s.memLe o size
    let v := value.toNat % 2 ^ (8 * size)
    let w := compare.toNat % 2 ^ (8 * size)
    let stored := fun n (u : State) =>
      KeepsBut [.mem, .memCheck, .memEpoch, .memKey, .out] s u ∧ ∀ x, x < o ∨ o + n ≤ x → u.readByte x = s.readByte x
    (a = .firmware → s.fabCheck rd = 0 → fabCls addr.toNat = 0 ∧ inReserved o = true)
    ∧ fails rd (.fabricRead a addr size bad) ∧ fails wr (.fabricWrite a addr data bad)
    ∧ fails at_ (.fabricAtomic a func addr size value compare bad)
    ∧ waits rd (.fabricRead a addr size bad) ∧ waits wr (.fabricWrite a addr data bad)
    ∧ waits at_ (.fabricAtomic a func addr size value compare bad)
    ∧ (s.fabCheck rd = 0 → fabCls addr.toNat = 0 → Sound o size s → Gives (.fabricRead a addr size []) s fun u =>
      KeepsBut [.out] s u ∧ answers 0 (s.memBytes o size) u)
    ∧ (s.fabCheck rd = 0 → fabCls addr.toNat = 0 → (∃ n ∈ linesOf o size, s.lineCheck bad n = 2) →
      Gives (.fabricRead a addr size bad) s fun u => u.mem = s.mem ∧ .status 4 ∈ u.out)
    ∧ (Uninjected s → s.fabCheck wr = 0 → fabCls addr.toNat = 0 → Sound o data.length s → Gives (.fabricWrite a addr data []) s fun u =>
      stored data.length u ∧ answers 0 [] u ∧ u.memBytes o data.length = data)
    ∧ (Uninjected s → s.fabCheck at_ = 0 → fabCls addr.toNat = 0 → Sound o size s →
      Gives (.fabricAtomic a func addr size value compare []) s fun u =>
        stored size u ∧ answers 0 (s.memBytes o size) u
        ∧ (func = 0 → u.memLe o size = (old + v) % 2 ^ (8 * size)) ∧ (func = 1 → u.memLe o size = max old v)
        ∧ (func = 2 → u.memLe o size = min old v) ∧ (func = 3 → u.memLe o size = v)
        ∧ (func = 4 → u.memLe o size = if old = w then v else old))
    ∧ (∀ f row col b t, s.fabCheck rd = 0 → fabCls addr.toNat = 1 → s.fabWaits rd = false → sramPlace o = .data f row col b →
      s.sramTarget (.data f row col b) = some t → Gives (.fabricRead a addr size bad) s fun u =>
        KeepsBut [.out] s u ∧ answers 0 ((List.range size).map fun i => (s.tread t).dataByte (b + i)) u)
    ∧ (∀ f row col b t, s.fabCheck wr = 0 → fabCls addr.toNat = 1 → s.fabWaits wr = false → sramPlace o = .data f row col b →
      s.sramTarget (.data f row col b) = some t → Gives (.fabricWrite a addr data bad) s fun u =>
        KeepsBut [.treads, .out] s u ∧ TreadsBut [t] s u ∧ answers 0 [] u ∧ { u.tread t with dmem := (s.tread t).dmem } = s.tread t
        ∧ ∀ x, (u.tread t).dataByte x = if b ≤ x ∧ x < b + data.length then lget 0 data (x - b) else (s.tread t).dataByte x)

/-- Memory's own commands (09 R326, R329 to R334): the patrol reads on in its stack and reports a line that it finds lost; a row with
two lost-line events takes a spare row of its die, which is counted, journaled and reported, and a die without spares is reported
once; the key sweep writes each line of a partition back under the current key, keeps a lost line lost, and, after the last line
of the last stack, clears the old key and reports the rotation. -/
def Obligations.LinesAndRows : Prop :=
  ∀ (n : Nat) (s : State), n < 16 →
    let x := s.uc n
    (∀ off bad, off % 64 = 0 → s.get (Reg.UC_PATROL_ENABLE n) = 1 → (inReserved off = true ∨ s.regionAt off ≠ none) → s.stackOf off = n →
      (s.lineCheck bad (off / 64) = 0 → Gives (.patrolRead n true off bad) s fun u =>
        KeepsBut [.ucs, .regs, .out] s u ∧ UcsBut [n] s u ∧ u.uc n = { x with patrol := (x.patrol + 1) % 2 ^ 30 })
      ∧ (s.lineCheck bad (off / 64) = 2 → Gives (.patrolRead n true off bad) s fun u =>
        u.lineFails (off / 64) = true ∧ u.mem = s.mem
        ∧ tget 0 (u.uc n).rowLost (Config.dramRow (off / 64)) = tget 0 x.rowLost (Config.dramRow (off / 64)) + 1
        ∧ u.get (Reg.UC_LINE_COUNTS_LOST n) = min 0xFFFF (s.get (Reg.UC_LINE_COUNTS_LOST n) + 1)
        ∧ ∃ kind p, Recorded 0x0600 [off % 2 ^ 32, off / 2 ^ 32, kind, p] u))
    ∧ (∀ inUse off bad, s.get (Reg.UC_PATROL_ENABLE n) ≠ 1 → Gives (.patrolRead n inUse off bad) s (KeepsBut [.out] s))
    ∧ (∀ off bad, s.get (Reg.UC_PATROL_ENABLE n) = 1 → 2 ≤ tget 0 bad (off / 64) → Gives (.patrolRead n false off bad) s fun u =>
      KeepsBut [.ucs, .regs, .out] s u ∧ u.get (Reg.UC_LINE_LAST_KIND n) = 0xF
      ∧ u.get (Reg.UC_LINE_COUNTS_LOST n) = min 0xFFFF (s.get (Reg.UC_LINE_COUNTS_LOST n) + 1))
    ∧ (∀ row, 2 ≤ tget 0 x.rowLost row → 0 < s.sparesIn n (Config.dramDie row) → s.pins.falling = false →
      Gives (.rowRepair n row) s fun u =>
        u.mem = s.mem ∧ u.memCheck = s.memCheck ∧ UcsBut [n] s u ∧ (u.uc n).repaired = x.repaired ++ [row] ∧ tget 0 (u.uc n).rowLost row = 0
        ∧ tget 0 (u.uc n).spareUsed (Config.dramDie row) = tget 0 x.spareUsed (Config.dramDie row) + 1
        ∧ u.get (Reg.UC_REPAIR_REPAIRS n) = min 0xFF (s.get (Reg.UC_REPAIR_REPAIRS n) + 1)
        ∧ Recorded 0x0601 [n, Config.dramDie row, row] u ∧ Journaled 4 n ((x.repaired ++ [row]).flatMap fun r => leBytes 8 r) u)
    ∧ (∀ row, 2 ≤ tget 0 x.rowLost row → s.sparesIn n (Config.dramDie row) = 0 → Config.dramDie row ∉ x.exhausted →
      Gives (.rowRepair n row) s fun u =>
        KeepsBut [.ucs, .regs, .det, .seq, .rings, .out] s u ∧ Recorded 0x0602 [n, Config.dramDie row] u
        ∧ u.uc n = { x with exhausted := x.exhausted ++ [Config.dramDie row] })
    ∧ (∀ row, tget 0 x.rowLost row < 2 → Gives (.rowRepair n row) s (KeepsBut [.out] s))
    ∧ (∀ p bad, p < 8 → n ∈ (tget MemKeys.init s.sec.mem p).sweeping →
      let k := tget MemKeys.init s.sec.mem p
      let i := tget 0 x.sweep p
      (∀ l, shareLine n (s.imageOf p).regions i = some l → Uninjected s → tget 0 s.memEpoch l ≠ k.cur →
        (∃ g, s.regionAt (l * 64) = some (p, g)) →
        Gives (.keySweepLine n p bad) s fun u =>
          BytesBut (64 * l) 64 s u ∧ tget 0 u.memEpoch l = k.cur ∧ tget 0 (u.uc n).sweep p = i + 1
          ∧ (s.lineCheck bad l ≠ 2 → u.lineFails l = false ∧ ∀ x, x / 64 = l → u.readByte x = s.readByte x)
          ∧ (s.lineCheck bad l = 2 → u.lineFails l = true))
      ∧ (shareLine n (s.imageOf p).regions i = none → Gives (.keySweepLine n p bad) s fun u =>
        let k' := tget MemKeys.init u.sec.mem p
        k'.sweeping = k.sweeping.filter (· != n) ∧ u.mem = s.mem ∧ u.memEpoch = s.memEpoch
        ∧ (k.sweeping.filter (· != n) = [] → Recorded 0x0603 [p] u ∧ (if k.cur = 0 then k'.key1 = 0 else k'.key0 = 0))))
    ∧ (∀ p bad, p < 8 → n ∉ (tget MemKeys.init s.sec.mem p).sweeping → Gives (.keySweepLine n p bad) s (KeepsBut [.out] s))

/-! ## Ropes -/

/-- Bring-up and width (10 R359 to R361, R378, R380, R381, R383, R386; 14 R498): strands that lock take the rope to TRAINING; too few
leave it waiting for its retry. A TRAIN flit tells the strands that its end receives; bring-up ends once this end has sent a TRAIN flit
with its good strands and the peer's tells the same: the rope resumes and replays when each end names the other's session, else it flushes
and starts under the rope key; with too few strands it waits for its retry. Lost strands, RETRAIN and eight replays enter GRACE. GRACE
that lasts too long, and ENABLE 0, flush; tree edges that the rope carried are lost. -/
def Obligations.RopesComeUpAndGoDown : Prop :=
  ∀ (k : Nat) (now : W64) (mask : Byte) (value : W32) (f msg : List Byte) (s : State), k < 18 → s.pkg ≠ .boot →
    let r := s.rope k
    let st := s.ropeSt k
    let v := value.toNat
    let ctrl := [Reg.ROPE_CTRL_MIN_WIDTH k, Reg.ROPE_CTRL_STRAND_OFF k, Reg.ROPE_CTRL_GRACE_US k]
    let wrote := fun (u : State) => u.get (Reg.ROPE_CTRL_MIN_WIDTH k) = bits v 24 4 ∧ u.get (Reg.ROPE_CTRL_STRAND_OFF k) = bits v 16 8
      ∧ u.get (Reg.ROPE_CTRL_GRACE_US k) = bits v 0 16
    let only := fun (u : State) => RopesBut [k] s u
    let lost := fun (a : Nat) => mask.toNat &&& a
    let active := s.get (Reg.ROPE_STATUS_ACTIVE k)
    let good := mask.toNat &&& s.usable k
    let i := trainOf f
    let m := r.locked
    let trains := flitBad f = false ∧ (hdrOf f).type = 3 ∧ r.phase = 2 ∧ st ≠ 3
    let wide := s.minWidth k ≤ popcount8 m
    let shows := fun (u : State) => u.get (Reg.ROPE_PEER_PEER_ID k) = i.id ∧ u.get (Reg.ROPE_PEER_PEER_ROPE k) = i.rope
      ∧ u.get (Reg.ROPE_SESSION_PEER k) = i.session ∧ u.get (Reg.ROPE_PEER_VALID k) = 1
    let edges := fun (u : State) => ∀ p peer, p ∈ s.loaded → s.edgePeer p k = some peer → EdgeLost p peer s u
    let up := fun (i : TrainInfo) (u : State) => u.ropeSt k = 3 ∧ (u.rope k).phase = 5 ∧ u.get (Reg.ROPE_STATUS_ACTIVE k) = m % 256
      ∧ u.get (Reg.ROPE_STATUS_WIDTH k) = popcount8 m ∧ (u.rope k).dropped = without 0xFF m ∧ (u.rope k).told = i.session
      ∧ Sent k 8 0x18 (leBytes 2 s.fabEpoch ++ leBytes 6 0) u
    let ends := fun (i : TrainInfo) (c : Instr) =>
      let ack := (i.expect + 4095) % 4096
      let same := i.lastSession = s.get (Reg.ROPE_SESSION_LOCAL k) ∧ i.session = r.told
      (wide → s.canTrain k = true → same → r.owed = [] → r.stuck < 7 → Gives c s fun u =>
        up i u ∧ only u ∧ (u.rope k).held = r.afterAck ack ∧ (∀ h l, r.afterAck ack = h :: l → (u.rope k).replay = some h.1)
        ∧ (u.rope k).txNext = r.txNext ∧ (u.rope k).rxExpect = r.rxExpect
        ∧ u.get (Reg.ROPE_SESSION_LOCAL k) = s.get (Reg.ROPE_SESSION_LOCAL k))
      ∧ (wide → s.canTrain k = true → ¬same → Gives c s fun u =>
        up i u ∧ (u.rope k).held = [] ∧ (u.rope k).txNext = 0 ∧ (u.rope k).rxExpect = 0 ∧ (u.rope k).tell = true
        ∧ u.get (Reg.ROPE_SESSION_LOCAL k) = (s.get (Reg.ROPE_SESSION_LOCAL k) + 1) % 2 ^ 16 ∧ Recorded 0x0705 [k, r.heldMask] u
        ∧ (∀ v, v < 8 → v < r.chans.length → (u.vchan k v).cur = (s.vchan k v).cur
          ∧ (u.vchan k v).rxAt (s.vchan k v).cur = lget 0 i.nonces v)
        ∧ (8 < r.chans.length → (u.vchan k 8).cur = 0 ∧ (u.vchan k 8).key0 = u.ropeKeyNow k ∧ (u.vchan k 8).key1 = 0
          ∧ (u.vchan k 8).txCnt0 = s.nextNonce k 8 ∧ (u.vchan k 8).rxCnt0 = lget 0 i.nonces 8)
        ∧ ∀ p, p ∈ s.ropeParts k → p ∈ s.loaded → JobRewinds p 0x3 s u)
      ∧ (¬wide ∨ s.canTrain k = false → Gives c s fun u =>
        only u ∧ u.ropeSt k = (if st = 2 then 1 else st) ∧ u.get (Reg.ROPE_STATUS_GOOD k) = m % 256
        ∧ u.rope k = { r with phase := 0, locked := 0, trained := false, peer := none })
    (r.phase = 1 → (st = 1 ∨ st = 4) → s.minWidth k ≤ popcount8 good → Gives (.ropeSignalLock k mask) s fun u =>
      KeepsBut [.ropes, .regs, .out] s u ∧ only u ∧ u.rope k = { r with phase := 2, locked := good, trained := false, peer := none }
      ∧ u.ropeSt k = (if st = 1 then 2 else 4) ∧ FieldsBut [Reg.ROPE_STATUS_STATE k] s u)
    ∧ (r.phase = 1 → (st = 1 ∨ st = 4) → popcount8 good < s.minWidth k → Gives (.ropeSignalLock k mask) s fun u =>
      KeepsBut [.ropes, .out] s u ∧ only u ∧ u.rope k = { r with phase := 0, locked := 0, trained := false, peer := none })
    ∧ (r.phase = 0 → st = 4 → Gives (.ropeTrainRetry k) s fun u =>
      KeepsBut [.ropes, .out] s u ∧ only u ∧ u.rope k = { r with phase := 1 })
    ∧ (r.phase = 0 → st = 1 → s.canTrain k = true → Gives (.ropeTrainRetry k) s fun u => only u ∧ (u.rope k).phase = 1 ∧ u.ropeSt k = 1)
    ∧ (∀ corr uncorr, (∀ j ∈ uncorr, j < 8) → trains → r.trained = false ∨ i.good ≠ m →
      Gives (.trainFlit k now f ⟨false, corr, uncorr⟩) s fun u =>
        KeepsBut [.ropes, .regs, .timers, .out] s u ∧ only u ∧ shows u ∧ u.ropeSt k = st
        ∧ u.rope k = { r with locked := m &&& i.good, trained := r.trained && m &&& i.good == m, peer := some i })
    ∧ (∀ corr uncorr, (∀ j ∈ uncorr, j < 8) → trains → r.trained = true → i.good = m →
      ends i (.trainFlit k now f ⟨false, corr, uncorr⟩) ∧ Gives (.trainFlit k now f ⟨false, corr, uncorr⟩) s shows)
    ∧ (∀ v, v < 9 → st ≠ 3 → r.phase = 2 → (∀ i, r.peer = some i → i.good ≠ m) → Gives (.flitSend k v) s fun u =>
      KeepsBut [.ropes, .out] s u ∧ only u ∧ u.rope k = { r with trained := true } ∧ u.out = [.flit k (s.trainFlit k)])
    ∧ (∀ v i, v < 9 → st ≠ 3 → r.phase = 2 → r.peer = some i → i.good = m →
      ends i (.flitSend k v) ∧ Gives (.flitSend k v) s fun u => .flit k (s.trainFlit k) ∈ u.out)
    ∧ (st = 3 → lost active = active → active ≠ 0 → Gives (.strandLockLoss k mask now) s fun u =>
      KeepsBut [.ropes, .regs, .timers, .out] s u ∧ only u ∧ InGrace k s u ∧ u.get (Reg.ROPE_STATUS_ACTIVE k) = active)
    ∧ (st = 3 → lost active ≠ active → lost active ≠ 0 → Gives (.strandLockLoss k mask now) s fun u =>
      KeepsBut [.ropes, .regs, .timers, .out] s u ∧ only u ∧ InGrace k s u ∧ (u.rope k).dropped = r.dropped ||| lost active
      ∧ u.get (Reg.ROPE_STATUS_ACTIVE k) = without active (lost active))
    ∧ (st = 3 → lost active = 0 → Gives (.strandLockLoss k mask now) s (KeepsBut [.timers, .out] s))
    ∧ (bit v 30 = true → bit v 31 = true → s.get (Reg.ROPE_CTRL_ENABLE k) = 1 → st = 3 → Gives (.ropeRetrain k value now) s fun u =>
      KeepsBut [.ropes, .regs, .timers, .out] s u ∧ only u ∧ InGrace k s u ∧ (u.rope k).dropped = 0 ∧ wrote u)
    ∧ (bit v 31 = true → Gives (.ropeEnable k value) s fun u =>
      KeepsBut [.ropes, .regs, .out] s u ∧ only u ∧ wrote u ∧ u.get (Reg.ROPE_CTRL_ENABLE k) = 1
      ∧ (st ≠ 0 → u.rope k = r ∧ FieldsBut (Reg.ROPE_CTRL_ENABLE k :: ctrl) s u)
      ∧ (st = 0 → u.ropeSt k = 1 ∧ ((u.rope k).phase = 1 ↔ u.canTrain k = true)))
    ∧ (bit v 31 = false → st ≠ 0 → Gives (.ropeDisable k value) s fun u =>
      wrote u ∧ u.get (Reg.ROPE_CTRL_ENABLE k) = 0 ∧ u.ropeSt k = 0 ∧ (u.rope k).phase = 0 ∧ Flushed k s u ∧ edges u)
    ∧ (∀ t, st = 4 → r.grace = some t → t + s.graceNs k ≤ max (s.timer k) now.toNat → Gives (.ropeGraceExpiry k now) s fun u =>
      u.ropeSt k = 1 ∧ Flushed k s u ∧ edges u ∧ ((u.rope k).phase = 1 ↔ s.canTrain k = true))
    ∧ (∀ t, st = 4 → r.grace = some t → max (s.timer k) now.toNat < t + s.graceNs k →
      Gives (.ropeGraceExpiry k now) s (KeepsBut [.timers, .out] s))
    ∧ Gives (.ropeKeyCheck k msg) s fun u => KeepsBut [.ropes, .out] s u ∧ only u ∧ (u.rope k).keyChecked = true

/-- Flits as they arrive and leave (10 R358, R362 to R366, R369, R370, R374 to R377, R379): the expected good flit is accepted, its
message bytes buffered and its acknowledgement and credits applied; a bad flit or a later one starts a wait for a replay; an earlier one
is a duplicate; a tag that fails twice closes the channel, and takes the rope down on the control channel. A sent flit is held until it is
acknowledged, charges one credit, and goes out again, unchanged but for its current fields, in a replay. -/
def Obligations.FlitsArriveAndLeave : Prop :=
  ∀ (k : Nat) (now : W64) (f : List Byte) (corr : Nat) (uncorr : List Nat) (s : State), k < 18 → (∀ j ∈ uncorr, j < 8) → Uninjected s →
    let r := s.rope k
    let h := hdrOf f
    let win := 2 ^ max 16 (s.get (Reg.ROPE_BER_CFG_WINDOW_LOG2 k))
    let open_ := s.ropeSt k = 3 ∧ r.winFlits < win
    let quiet := open_ ∧ flitBad f = false ∧ (h.ackValid = false ∨ h.nak = false)
    let acked := fun (u : State) => (u.rope k).held = if h.ackValid then r.afterAck h.ack else r.held
    let credited := fun (w : Nat) (u : State) => w < r.chans.length → (u.vchan k w).cumSeen = h.crCum
      ∧ (u.vchan k w).credit = (s.vchan k w).credit + (seqSub 12 h.crCum (s.vchan k w).cumSeen : Nat)
    let waits := fun (u : State) => (u.rope k).waiting = true ∧ (u.rope k).rxExpect = r.rxExpect
      ∧ (r.waiting = false → (u.rope k).naks = 4
        ∧ u.get (Reg.ROPE_COUNTS_NAKS k) = min 0xFF (s.get (Reg.ROPE_COUNTS_NAKS k) + 1))
    let accepts := fun (u : State) => (u.rope k).rxExpect = (r.rxExpect + 1) % 4096 ∧ (u.rope k).waiting = false
      ∧ (u.rope k).naks = r.naks
    let strikes := fun (u : State) => r.turn < (s.strands k).length →
      ∀ j w b, .codeword k j w b ∈ u.out → j ∈ s.strands k ∧ w.length = 544
    let receives := fun (c : Bool → Instr) (ty v w : Nat) =>
      (∀ m, quiet → h.type = ty → h.seq = r.rxExpect → (v = 8 ∨ (s.vchan k v).part ≠ none) → v < r.chans.length → Opens k v f m s →
        Gives (c false) s fun u =>
          KeepsBut [.ropes, .timers, .out] s u ∧ RopesBut [k] s u ∧ accepts u ∧ acked u ∧ credited w u
          ∧ (u.vchan k v).rx = (s.vchan k v).rx ++ m ∧ (u.rope k).winFlits = r.winFlits + 1)
      ∧ (v < 8 → quiet → h.type = ty → h.seq = r.rxExpect → v < r.chans.length → (s.vchan k v).part = none → Gives (c false) s fun u =>
        accepts u ∧ (u.vchan k v).early = (s.vchan k v).early ++ [f])
      ∧ (open_ → Gives (c true) s fun u =>
        KeepsBut [.ropes, .regs, .timers, .out] s u ∧ RopesBut [k] s u ∧ waits u ∧ (u.rope k).held = r.held ∧ (u.rope k).chans = r.chans
        ∧ (u.rope k).winBad = r.winBad + 1)
      ∧ (quiet → h.type = ty → seqLater 12 h.seq r.rxExpect = true → Gives (c false) s fun u => waits u ∧ acked u)
      ∧ (quiet → h.type = ty → h.seq ≠ r.rxExpect → seqLater 12 h.seq r.rxExpect = false → Gives (c false) s fun u =>
        acked u ∧ (u.rope k).rxExpect = r.rxExpect ∧ (u.vchan k v).rx = (s.vchan k v).rx
        ∧ u.get (Reg.ROPE_COUNTS_DUPS k) = min 0xFF (s.get (Reg.ROPE_COUNTS_DUPS k) + 1))
      ∧ (open_ → flitBad f = false → h.type = ty → h.seq = r.rxExpect → (v = 8 ∨ (s.vchan k v).part ≠ none) → v < r.chans.length →
          (∀ m, ¬Opens k v f m s) →
        ((s.vchan k v).badTag ≠ some h.seq → Gives (c false) s fun u => waits u ∧ (u.vchan k v).badTag = some h.seq)
        ∧ ((s.vchan k v).badTag = some h.seq → v = 8 → Gives (c false) s fun u =>
          u.ropeSt k = 1 ∧ Flushed k s u ∧ Recorded 0x0704 [k, 8] u)
        ∧ ((s.vchan k v).badTag = some h.seq → v < 8 → (h.ackValid = false ∨ h.nak = false) → Gives (c false) s fun u =>
          accepts u ∧ (u.vchan k v).part = none ∧ Recorded 0x0704 [k, v] u
          ∧ ∀ p, (s.vchan k v).part = some p → JobHalts p 0x8 s u))
    let sends := fun (v : Nat) (u : State) =>
      let c := s.vchan k v
      let n := c.txAt (c.next.getD c.cur)
      let key := c.keyAt (c.next.getD c.cur)
      let m := (packTx (if key = 0 then 256 else 240) c.tx).1
      strikes u ∧ ∃ g, .flit k g ∈ u.out ∧ (hdrOf g).type = (if v = 8 then 2 else 1) ∧ (hdrOf g).seq = r.txNext % 4096 ∧ (hdrOf g).vc = v % 8
        ∧ (hdrOf g).ack = (r.rxExpect + 4095) % 4096 ∧ (hdrOf g).ackValid = true ∧ (hdrOf g).nak = decide (0 < r.naks)
        ∧ (hdrOf g).fill = m.length ∧ flitBad g = false
        ∧ flitBody g = (if key = 0 then fit 0 256 m else sealBody key (nonceOf (s.get Reg.PKG_ID_ID) k v n) (hdrOf g) m)
        ∧ (∃ g', (u.rope k).held = r.held ++ [(r.txNext, v, g')] ∧ flitBody g' = flitBody g)
        ∧ (u.rope k).txNext = (r.txNext + 1) % 4096 ∧ (u.vchan k v).credit = c.credit - 1
        ∧ (u.vchan k v).tx = (packTx (if key = 0 then 256 else 240) c.tx).2.1
    let idles := fun (u : State) => KeepsBut [.ropes, .out] s u ∧ (u.rope k).held = r.held ∧ strikes u
      ∧ ∃ g, .flit k g ∈ u.out ∧ (hdrOf g).type = 0 ∧ (hdrOf g).ack = (r.rxExpect + 4095) % 4096
    let keeps := fun (c : Instr) => Gives c s (KeepsBut [.timers, .out] s)
    receives (fun t => .dataFlit k now f t corr uncorr) 1 h.vc h.crVc
    ∧ receives (fun t => .controlFlit k now f t corr uncorr) 2 8 (if h.crVc = 0 then 8 else h.crVc)
    ∧ (quiet → h.type = 0 → Gives (.idleFlit k now f false corr uncorr) s fun u => acked u ∧ credited h.crVc u
      ∧ (u.rope k).rxExpect = r.rxExpect ∧ (u.rope k).txNext = r.txNext)
    ∧ (∀ x l, open_ → flitBad f = false → h.type = 0 → h.ackValid = true → h.nak = true → r.replayFrom ≠ some h.ack →
        r.afterAck h.ack = x :: l → r.stuck < 7 → Gives (.idleFlit k now f false corr uncorr) s fun u =>
      (u.rope k).held = x :: l ∧ (u.rope k).replay = some x.1 ∧ (u.rope k).replayFrom = some h.ack
      ∧ u.get (Reg.ROPE_COUNTS_REPLAYS k) = min 0xFF (s.get (Reg.ROPE_COUNTS_REPLAYS k) + 1))
    ∧ (quiet → h.type = 3 → Gives (.trainFlit k now f ⟨false, corr, uncorr⟩) s fun u =>
      u.get (Reg.ROPE_SESSION_PEER k) = (trainOf f).session ∧ (u.rope k).told = (trainOf f).session ∧ acked u
      ∧ (u.rope k).winFlits = r.winFlits + 1 ∧ (u.rope k).winCorr = r.winCorr + corr)
    ∧ (∀ x l, s.ropeSt k = 3 → r.held = x :: l → r.ackMoved = false →
      (r.stuck ≠ 7 → Gives (.replayTmo k now) s fun u =>
        KeepsBut [.ropes, .regs, .timers, .out] s u ∧ (u.rope k).held = r.held ∧ (u.rope k).stuck = r.stuck + 1
        ∧ (u.rope k).replay = some x.1 ∧ u.get (Reg.ROPE_COUNTS_REPLAYS k) = min 0xFF (s.get (Reg.ROPE_COUNTS_REPLAYS k) + 1))
      ∧ (r.stuck = 7 → Gives (.replayTmo k now) s (InGrace k s)))
    ∧ (r.held = [] ∨ r.ackMoved = true → keeps (.replayTmo k now))
    ∧ (s.ropeSt k = 3 → win ≤ r.winFlits → Gives (.errorWindowClose k now) s fun u =>
      let exceeds := fun j => j < 8 ∧ s.get (Reg.ROPE_BER_CFG_UNCORR_MAX k) < lget 0 r.winUncorr j
      RopesBut [k] s u ∧ (u.rope k).winFlits = 0 ∧ u.get (Reg.ROPE_BER_LAST_BAD k) = min 0xFFFF r.winBad
      ∧ u.get (Reg.ROPE_BER_LAST_CORR_K k) = min 0xFFFF (r.winCorr / 1024)
      ∧ (s.get (Reg.ROPE_BER_CFG_CORR_WARN k) * 1024 < r.winCorr → Recorded 0x0701 [k, r.winCorr] u)
      ∧ (∀ j, exceeds j → Recorded 0x0700 [k, j] u ∧ bit (u.rope k).dropped j = true
        ∧ (bit (s.get (Reg.ROPE_STATUS_ACTIVE k)) j = true → u.ropeSt k = 4 ∧ bit (u.get (Reg.ROPE_STATUS_ACTIVE k)) j = false))
      ∧ ((∀ j, ¬exceeds j) → u.ropeSt k = 3 ∧ (u.rope k).held = r.held))
    ∧ (r.winFlits < win → keeps (.errorWindowClose k now))
    ∧ (∀ v, v < 9 → s.ropeSt k = 3 → r.tell = false → r.replay = none → r.held.length < 1024 → s.canSend k v = true →
        ((s.vchan k v).keyAt ((s.vchan k v).next.getD (s.vchan k v).cur) = 0
          ∨ (s.vchan k v).txAt ((s.vchan k v).next.getD (s.vchan k v).cur) + 1 ≠ 2 ^ 48) → v < r.chans.length →
      Gives (.flitSend k v) s (sends v))
    ∧ (∀ v, v < 9 → s.ropeSt k = 3 → r.tell = false → r.replay = none → 1024 ≤ r.held.length → Gives (.flitSend k v) s idles)
    ∧ (∀ v q g w, v < 9 → s.ropeSt k = 3 → r.tell = false → r.replay = some q → r.held.find? (fun x => x.1 == q) = some (q, w, g) →
      Gives (.flitSend k v) s fun u =>
        KeepsBut [.ropes, .out] s u ∧ (u.rope k).held = r.held ∧ (u.rope k).txNext = r.txNext
        ∧ (∀ x, (u.vchan k x).credit = (s.vchan k x).credit)
        ∧ (u.rope k).replay = (if r.held.any (fun x => x.1 == (q + 1) % 4096) then some ((q + 1) % 4096) else none)
        ∧ strikes u ∧ ∃ g', .flit k g' ∈ u.out ∧ flitBody g' = fit 0 256 (flitBody g) ∧ aadOf (hdrOf g') = aadOf (hdrOf g)
          ∧ (hdrOf g').ack = (r.rxExpect + 4095) % 4096)
    ∧ (∀ v value, v < 8 → s.pkg ≠ .boot → Gives (.ropeVcLimitWrite k v value) s fun u =>
      let n := min 504 (value.toNat % 1024)
      let c := s.vchan k v
      KeepsBut [.ropes, .out] s u ∧ VcBecomes k v { c with limit := n, credit := c.credit + ((n : Int) - (c.limit : Int)) } s u)

/-- Messages of landings and of the fabric (07 R256, R258, R274, 10 R372, R373, 11 R402 to R405, 14 R507): one that names no
matching landing stops its channel; an entry of the present epoch is put in its landing; a credit of the present epoch is
applied, one of a later epoch waits, one of an earlier one is discarded. A request to another package takes a request credit and
goes out on the route, and its answer ends it. A peer that scrubs a partition is told no more, and is lost. -/
def Obligations.LandingAndFabricMessages : Prop :=
  ∀ (k v p n : Nat) (msg : List Byte) (s : State), k < 18 → v < 8 → s.delivers k v = true →
    let l := s.landing n
    let d := toSigned 32 (mAt msg 0 4)
    let e := (s.svc p).epoch
    (NamesLanding k v 2 msg p n s → mEpoch msg = e → Gives (.landingEntry k v msg) s fun u =>
      KeepsBut [.landings, .ropes, .regs, .out] s u ∧ LandingsBut [n] s u ∧ RopesBut [k] s u
      ∧ u.landing n = { l with ents := l.ents ++ [entryOf (mBody msg)] }
      ∧ u.get (Reg.LAND_COUNTS_PUSHED n) = min 0xFFFF (s.get (Reg.LAND_COUNTS_PUSHED n) + 1)
      ∧ ((s.vchan k v).rx.take msg.length = msg → v < (s.rope k).chans.length → (u.vchan k v).rx = (s.vchan k v).rx.drop msg.length))
    ∧ (NamesLanding k v 2 msg p n s → mEpoch msg ≠ e → Gives (.landingEntry k v msg) s fun u => KeepsBut [.ropes, .out] s u)
    ∧ ((∀ p n, ¬NamesLanding k v 2 msg p n s) → v < (s.rope k).chans.length → Gives (.landingEntry k v msg) s (PeerMismatch k v msg s))
    ∧ (NamesLanding k v 1 msg p n s → mEpoch msg = e → mAt msg 4 1 ≠ 1 → Gives (.landingCredit k v msg) s fun u =>
      KeepsBut [.landings, .ropes, .out] s u ∧ LandingsBut [n] s u ∧ u.landing n = { l with credit := l.credit + d })
    ∧ (NamesLanding k v 1 msg p n s → mEpoch msg = e → mAt msg 4 1 = 1 → Gives (.landingCredit k v msg) s fun u =>
      KeepsBut [.landings, .ropes, .ctxs, .stages, .parts, .out] s u ∧ LandingsBut [n] s u
      ∧ u.landing n = { l with credit := l.credit + d, owners := l.owners.drop 1 }
      ∧ ∀ c o, l.owners = (c + 1) :: o → 0 < (s.ctx c).out →
        u.ctx c = (if (s.ctx c).state = .draining ∧ (s.ctx c).out = 1 then Ctx.init else { s.ctx c with out := (s.ctx c).out - 1 }))
    ∧ (NamesLanding k v 1 msg p n s → seqLater 8 (mEpoch msg) e = true → Gives (.landingCredit k v msg) s fun u =>
      KeepsBut [.landings, .ropes, .out] s u ∧ LandingsBut [n] s u ∧ u.landing n = { l with pend := l.pend + d })
    ∧ (NamesLanding k v 1 msg p n s → mEpoch msg ≠ e → seqLater 8 (mEpoch msg) e = false →
      Gives (.landingCredit k v msg) s (KeepsBut [.ropes, .out] s))
    ∧ ((∀ p n, ¬NamesLanding k v 1 msg p n s) → v < (s.rope k).chans.length → Gives (.landingCredit k v msg) s (PeerMismatch k v msg s))
    ∧ (∀ (a : Agent) (op func size : Nat) (addr : W64) (data : List Byte), agentOk a = true → (∀ k v t j, a ≠ .peer k v t j) →
      (op = 1 ∨ op = 2 ∨ op = 3) →
      let q : FabReq := ⟨a, op, func, size, addr.toNat, data⟩
      let tag := s.fabric.nextTag
      let c := Instr.fabricRequestIssue a op func addr size data
      let far := fabPkg addr.toNat ≠ s.get Reg.PKG_ID_ID
      let route := fun P => ∃ o, s.agentPart a = some o ∧ P o (s.route? o (fabPkg addr.toNat))
      let lacks := fun j => op = 3 ∧ s.pathLacksAtomic a.die (ropeDie j) (fabOff addr.toNat / 64) = true
      (fabPkg addr.toNat = s.get Reg.PKG_ID_ID → Gives c s (KeepsBut [.out] s))
      ∧ (∀ j w, far → (route fun _ x => x = some (j, w) ∧ 64 ≤ s.outstanding j w) → ¬lacks j → Gives c s (KeepsBut [.out] s))
      ∧ (∀ o j w, far → s.agentPart a = some o → s.route? o (fabPkg addr.toNat) = some (j, w) → s.outstanding j w < 64 → ¬lacks j →
        Gives c s fun u =>
          KeepsBut [.fabric, .ropes, .out] s u ∧ RopesBut [j] s u ∧ u.fabric.nextTag = (tag + 1) % 2 ^ 16
          ∧ u.fabric.remote = s.fabric.remote ++ [⟨j, w, tag, o, q⟩] ∧ Sent j w 0x05 (fabBody op func size tag addr.toNat data) u)
      ∧ (far → (route fun _ x => x = none ∨ ∃ j w, x = some (j, w) ∧ lacks j) → Gives c s fun u =>
        KeepsBut [.regs, .det, .seq, .rings, .out] s u ∧ u.out = [.status 6, .bytes []]
        ∧ u.get Reg.FAB_ERR_COUNTS_NO_ROUTE = min (2 ^ Reg.FAB_ERR_COUNTS_NO_ROUTE.width - 1) (s.get Reg.FAB_ERR_COUNTS_NO_ROUTE + 1)))
    ∧ (∀ x, s.fabric.remote.find? (fun x => x.rope == k && x.vc == v && x.tag == mAt msg 4 2) = some x →
        (∀ b, x.req.agent ≠ .debug b) → (∀ k v t j, x.req.agent ≠ .peer k v t j) → Gives (.fabricResponse k v msg) s fun u =>
      u.fabric.remote = s.fabric.remote.filter (· != x) ∧ u.mem = s.mem
      ∧ u.out = [.status (mAt msg 1 1), .bytes (if mAt msg 1 1 = 0 then (mBody msg).drop 16 else [])])
    ∧ (s.fabric.remote.find? (fun x => x.rope == k && x.vc == v && x.tag == mAt msg 4 2) = none →
      Gives (.fabricResponse k v msg) s (KeepsBut [.ropes, .out] s))
    ∧ (s.jobPart (mAt msg 0 4) = some p → Gives (.partUnavailable k msg) s fun u =>
      let peer := s.get (Reg.ROPE_PEER_PEER_ID k)
      KeepsBut [.regs, .det, .seq, .rings, .ropes, .svcs, .out] s u ∧ SvcsBut [p] s u
      ∧ (∀ w, w < 8 → w < (s.rope k).chans.length → (s.vchan k w).part = some p → bit (mAt msg 4 1) w = true → (u.vchan k w).muted = true)
      ∧ Recorded 0x0B07 [mAt msg 0 4, peer, mAt msg 4 1] u ∧ EdgeLost p peer s u)
    ∧ (s.jobPart (mAt msg 0 4) = none → Gives (.partUnavailable k msg) s (KeepsBut [.ropes, .out] s))

/-! ## Laser modules and die links -/

/-- Laser modules (00 R11, 10 R382 to R384, R391): a module found seated is IDENTIFYING until it is known; one that identifies itself has
its lasers enabled, shows those that light, its serial number and its life, and wakes both of its ropes; any other is kept dark. A module
without a life record begins at 0, which is an event. A failed laser is turned off and marked, and its strand is dropped from both ropes.
Each second of a lit laser adds to its life by its temperature; the warning and the end of life are raised once each. RELEASE takes both
ropes down, journals the life and darkens the module. RELIGHT tries failed lasers again. -/
def Obligations.LaserModules : Prop :=
  ∀ (m : Nat) (now : W64) (j : Nat) (serial vendor : List Byte) (temp on : Byte) (value : W32) (s : State), m < 6 → j < 8 → s.pkg ≠ .boot → Uninjected s →
    let l := s.laser m
    let lit := s.get (Reg.LASER_STATUS_LIT m)
    let failed := s.get (Reg.LASER_STATUS_FAILED m)
    let ropes := [6 + 2 * m, 7 + 2 * m]
    let sn := fit 0 16 serial
    let keeps := fun (c : Instr) => Gives c s (KeepsBut [.time, .out] s)
    let darkens := fun (c : Instr) (due : Prop) =>
      (due → Gives c s fun u =>
        KeepsBut [.regs, .ropes, .lasers, .det, .seq, .rings, .time, .out] s u ∧ RopesBut ropes s u ∧ LasersBut [m] s u
        ∧ u.laser m = { l with enabled := without l.enabled (2 ^ j) } ∧ Recorded 0x0707 [m, j] u
        ∧ u.get (Reg.LASER_STATUS_LIT m) = without lit (2 ^ j) ∧ u.get (Reg.LASER_STATUS_FAILED m) = (failed ||| 2 ^ j) % 256
        ∧ ∀ k ∈ ropes, (u.rope k).dropped = (s.rope k).dropped ||| 2 ^ j
          ∧ (s.ropeSt k = 3 → bit (s.get (Reg.ROPE_STATUS_ACTIVE k)) j = true →
            InGrace k s u ∧ u.get (Reg.ROPE_STATUS_ACTIVE k) = without (s.get (Reg.ROPE_STATUS_ACTIVE k)) (2 ^ j)))
      ∧ (¬due → keeps c)
    let d := max (-20) (min 30 (temp.toInt - 45))
    let lived := fun i => lget 0 l.life i + lifeRate temp.toInt
    let rated := s.get Reg.LASER_CFG_RATED_KH * 1000 * 3600 * 2 ^ 32
    let warnAt := min 100 (s.get Reg.LASER_CFG_WARN_PCT)
    darkens (.laserFailed m j now) (bit l.enabled j = true)
    ∧ darkens (.laserLightTimeout m j now) (bit l.enabled j = true ∧ bit lit j = false)
    ∧ (∀ elsfp, s.laserSt m = 0 ∨ s.laserSt m = 1 → Gives (.laserModuleInsert m ⟨serial, vendor, elsfp⟩ false on) s fun u =>
      KeepsBut [.regs, .out] s u ∧ FieldsBut [Reg.LASER_STATUS_STATE m] s u ∧ u.laserSt m = 1)
    ∧ (s.laserSt m = 0 ∨ s.laserSt m = 1 → Gives (.laserModuleInsert m ⟨serial, vendor, true⟩ true on) s fun u =>
      u.laserSt m = 2 ∧ u.get (Reg.LASER_STATUS_LIT m) = on.toNat ∧ (u.laser m).serial = sn ∧ (u.laser m).enabled = 0xFF
      ∧ (∀ i, i < 4 → u.get (Reg.LASER_SERIAL m i) = ofLe ((sn.drop (4 * i)).take 4)
        ∧ u.get (Reg.LASER_VENDOR m i) = ofLe (((fit 0 16 vendor).drop (4 * i)).take 4))
      ∧ (s.journal.latest 5 (ofLe sn) = none → Recorded 0x0010 [0x5_0000] u ∧ u.get (Reg.LASER_STATUS_UNKNOWN_HISTORY m) = 1 ∧ ∀ i, i < 8 → lget 0 (u.laser m).life i = 0)
      ∧ (∀ r, s.journal.latest 5 (ofLe sn) = some r → u.get (Reg.LASER_STATUS_UNKNOWN_HISTORY m) = 0
        ∧ ∀ i, i < 8 → lget 0 (u.laser m).life i = ofLe ((r.body.drop (16 + 8 * i)).take 8))
      ∧ ∀ k ∈ ropes, s.ropeSt k = 1 → (s.rope k).phase = 0 → s.sec.fab.isSome = true → (u.rope k).phase = 1)
    ∧ (s.laserSt m = 0 ∨ s.laserSt m = 1 → Gives (.laserModuleInsert m ⟨serial, vendor, false⟩ true on) s fun u =>
      KeepsBut [.lasers, .regs, .det, .seq, .rings, .out] s u ∧ LasersBut [m] s u ∧ u.laserSt m = 4
      ∧ u.get (Reg.LASER_STATUS_LIT m) = lit ∧ Recorded 0x0706 [m] u)
    ∧ Gives (.laserModuleRemove m now) s (fun u =>
      KeepsBut [.lasers, .regs, .ropes, .time, .out] s u ∧ LasersBut [m] s u ∧ RopesBut ropes s u
      ∧ u.laser m = Laser.init ∧ u.laserSt m = 0 ∧ u.get (Reg.LASER_STATUS_LIT m) = 0 ∧ u.get (Reg.LASER_STATUS_FAILED m) = 0
      ∧ (∀ i, i < 4 → u.get (Reg.LASER_SERIAL m i) = 0) ∧ ∀ k ∈ ropes, s.ropeSt k = 3 → InGrace k s u)
    ∧ Gives (.laserLifeTick m temp) s (fun u =>
      KeepsBut [.lasers, .regs, .det, .seq, .rings, .out] s u ∧ LasersBut [m] s u
      ∧ (s.laserSt m ≠ 0 → u.get (Reg.LASER_STATUS_TEMP_C m) = temp.toNat)
      ∧ (∀ i, i < 8 → i < l.life.length → lget 0 (u.laser m).life i = if bit lit i then lived i else lget 0 l.life i)
      ∧ (∀ i, i < 8 → i < l.life.length → bit lit i = true → i ∉ l.warned → rated * warnAt ≤ lived i * 100 →
        Recorded 0x0708 [m, i] u ∧ i ∈ (u.laser m).warned ∧ u.get (Reg.LASER_STATUS_WARN m) = 1)
      ∧ (∀ i, i < 8 → i < l.life.length → bit lit i = true → i ∉ l.ended → rated ≤ lived i →
        Recorded 0x0709 [m, i] u ∧ i ∈ (u.laser m).ended ∧ u.get (Reg.LASER_STATUS_EOL m) = 1)
      ∧ ((∀ i, i < 8 → bit lit i = true → i ∈ l.warned ∧ i ∈ l.ended) → u.det = s.det ∧ u.rings = s.rings))
    ∧ ((lifeRate temp.toInt) ^ 10 ≤ 2 ^ (320 + d).toNat ∧ 2 ^ (320 + d).toNat < (lifeRate temp.toInt + 8) ^ 10)
    ∧ (s.pins.falling = false → Gives .laserLifeJournal s fun u =>
      KeepsBut [.journal, .regs, .out] s u
      ∧ (l.serial ≠ [] → s.laserSt m ≠ 4 → Journaled 5 0 (fit 0 16 l.serial ++ l.life.flatMap (leBytes 8)) u))
    ∧ (bit value.toNat 1 = true → s.laserSt m = 2 → s.pins.falling = false → Gives (.laserRelease m value) s fun u =>
      u.laserSt m = 3 ∧ u.get (Reg.LASER_STATUS_LIT m) = 0 ∧ (u.laser m).enabled = 0 ∧ Journaled 5 0 (fit 0 16 l.serial ++ l.life.flatMap (leBytes 8)) u
      ∧ ∀ k ∈ ropes, s.ropeSt k = 3 ∨ s.ropeSt k = 4 → u.ropeSt k = 1 ∧ Flushed k s u ∧ (u.rope k).phase = 0)
    ∧ (bit value.toNat 0 = true → s.laserSt m = 2 → Gives (.laserRelight ⟨m, value⟩ on) s fun u =>
      KeepsBut [.lasers, .regs, .out] s u ∧ LasersBut [m] s u ∧ u.laser m = { l with enabled := l.enabled ||| failed }
      ∧ u.get (Reg.LASER_STATUS_LIT m) = (lit ||| (failed &&& on.toNat)) % 256 ∧ u.get (Reg.LASER_STATUS_FAILED m) = 0
      ∧ FieldsBut [Reg.LASER_STATUS_LIT m, Reg.LASER_STATUS_FAILED m] s u)

/-- Die-link bundles (11 R411 to R415, R418, R419): DCP flits leave with room in the replay buffer and a credit, and are accepted in
order, acknowledged, credited and replayed; faulty lanes are spliced, cost their direction a half, or fence the bundle; ends that agree
bring it up with what both have, and retry at the narrower width when they trained apart; a third failed attempt fences it. A fenced
bundle's unaccepted messages move to the bundle that now serves; a partial reset loses what the end that was reset had sent, ends those
requests with LINK_LOST and rewinds their partitions. -/
def Obligations.DieLinkBundles : Prop :=
  ∀ (n dir : Nat) (value : W32) (f : List Byte) (cap : CapRec) (lost : List FabReq) (s : State), n < 144 → dir < 2 → s.pkg ≠ .boot →
    Uninjected s →
    let b := s.bundle n
    let st := s.dieSt n
    let x := b.dir dir
    let y := b.dir (1 - dir)
    let h := dcpHdr f
    let attempts := s.get (Reg.DL_STATUS_ATTEMPTS n)
    let fenced := fun (u : State) => BundleFenced n s u
    let fails := fun (u : State) => (attempts < 2 → u.get (Reg.DL_STATUS_ATTEMPTS n) = attempts + 1 ∧ BundleTrains n s u)
      ∧ (attempts = 2 → fenced u)
    let good := st = 2 ∧ x.maySend f = true ∧ dcpBad f = false ∧ (h.ackValid = false ∨ h.nak = false)
    let acked := fun (u : State) =>
      let z := (u.bundle n).dir (1 - dir)
      z.held = (if h.ackValid then y.held.filter fun e => decide (512 ≤ seqSub 10 h.ack e.1) else y.held)
      ∧ (h.crCh < y.credit.length → lget 0 z.credit h.crCh = lget 0 y.credit h.crCh + (seqSub 12 h.crCum (lget 0 y.cumSeen h.crCh) : Nat))
    let msg := ((f.drop 8).take 244).take h.fill
    let w := if bit cap.widths 1 then b.width else min 1 b.width
    let tested := fun width (u : State) => (b.reset ≠ 2 → (u.bundle n).width = width) ∧ (b.reset ≠ 1 → (u.bundle n).widthB = width)
    let fits := cap.major = 1 ∧ cap.channels &&& 0xB = 0xB ∧ cap.rates &&& 3 ≠ 0 ∧ cap.widths &&& 3 ≠ 0
    (good → h.type = 1 → h.seq = x.rxExpect → Gives (.dcpMsgFlit n dir f false) s fun u =>
      KeepsBut [.bundles, .out] s u ∧ BundlesBut [n] s u ∧ u.out = [.die n msg] ∧ acked u
      ∧ ((u.bundle n).dir dir).rxExpect = (x.rxExpect + 1) % 1024 ∧ ((u.bundle n).dir dir).waiting = false
      ∧ (h.seq = x.txNext → ((u.bundle n).dir dir).txNext = (x.txNext + 1) % 1024
        ∧ ((u.bundle n).dir dir).held = x.held ++ [(h.seq, x.flitChan msg, f)]
        ∧ (x.flitChan msg < x.credit.length →
          lget 0 ((u.bundle n).dir dir).credit (x.flitChan msg) = lget 0 x.credit (x.flitChan msg) - 1)))
    ∧ (good → h.type = 1 → seqLater 10 h.seq x.rxExpect = true → Gives (.dcpMsgFlit n dir f false) s fun u =>
      KeepsBut [.bundles, .out] s u ∧ u.out = [] ∧ acked u ∧ ((u.bundle n).dir dir).waiting = true
      ∧ ((u.bundle n).dir dir).rxExpect = x.rxExpect)
    ∧ (good → h.type = 1 → h.seq ≠ x.rxExpect → seqLater 10 h.seq x.rxExpect = false → Gives (.dcpMsgFlit n dir f false) s fun u =>
      KeepsBut [.bundles, .out] s u ∧ u.out = [] ∧ acked u ∧ ((u.bundle n).dir dir).rxExpect = x.rxExpect)
    ∧ (∀ late, x.maySend f = false → Gives (.dcpMsgFlit n dir f late) s (KeepsBut [.out] s))
    ∧ (x.maySend f = false ↔ h.type = 1 ∧ h.seq = x.txNext ∧ (256 ≤ x.held.length ∨ lget 0 x.credit (x.flitChan msg) ≤ 0))
    ∧ (st = 2 → x.maySend f = true → (dcpBad f = true ∨ h.type = 1) → Gives (.dcpMsgFlit n dir f true) s fun u =>
      KeepsBut [.bundles, .regs, .out] s u ∧ BundlesBut [n] s u ∧ u.out = [] ∧ ((u.bundle n).dir dir).waiting = true
      ∧ ((u.bundle n).dir dir).rxExpect = x.rxExpect ∧ (u.bundle n).dir (1 - dir) = y
      ∧ u.get (Reg.DL_COUNTS_CRC_ERRORS n) = min 0xFF (s.get (Reg.DL_COUNTS_CRC_ERRORS n) + 1))
    ∧ (good → h.type = 0 → Gives (.dcpIdleFlit n dir f false) s fun u =>
      KeepsBut [.bundles, .out] s u ∧ BundlesBut [n] s u ∧ u.out = [] ∧ acked u ∧ (u.bundle n).dir dir = x)
    ∧ (∀ e l, st = 2 → x.held = e :: l → x.ackMoved = false →
      (x.stuck ≠ 7 → Gives (.dcpReplayTmo n dir) s fun u =>
        KeepsBut [.bundles, .regs, .out] s u ∧ ((u.bundle n).dir dir).replayFrom = some ((e.1 + 1023) % 1024)
        ∧ ((u.bundle n).dir dir).held = x.held
        ∧ u.get (Reg.DL_COUNTS_REPLAYS n) = min 0xFF (s.get (Reg.DL_COUNTS_REPLAYS n) + 1))
      ∧ (x.stuck = 7 → Gives (.dcpReplayTmo n dir) s (BundleTrains n s)))
    ∧ (x.held = [] ∨ x.ackMoved = true → Gives (.dcpReplayTmo n dir) s (KeepsBut [.out] s))
    ∧ (st = 1 → ¬fits → Gives (.dcpCapFlit n cap) s fun u => Recorded 0x0801 [n] u ∧ fenced u)
    ∧ (st = 1 → fits → Gives (.dcpCapFlit n cap) s fun u =>
      u.get (Reg.DL_CAP_MAJOR n) = 1 ∧ u.get (Reg.DL_CAP_MINOR n) = cap.minor % 16
      ∧ u.get (Reg.DL_CAP_GENERATION n) = cap.generation % 256 ∧ u.get (Reg.DL_CAP_VENDOR n) = cap.vendor % 2 ^ 16
      ∧ (cap.trained = w → KeepsBut [.regs, .out] s u ∧ u.dieSt n = 2 ∧ u.get (Reg.DL_STATUS_RATE n) = (if bit cap.rates 1 then 2 else 1)
        ∧ u.get (Reg.DL_STATUS_WIDTH n) = w % 4 ∧ u.get (Reg.DL_STATUS_ATTEMPTS n) = 0
        ∧ u.get (Reg.DL_STATUS_ATOMIC n) = (if cap.atomic then 1 else 0) ∧ u.get (Reg.DL_STATUS_CHANNELS n) = cap.channels % 16)
      ∧ (cap.trained ≠ w → b.narrowed = false → BundleTrains n s u ∧ (u.bundle n).width = min w cap.trained
        ∧ (u.bundle n).widthB = min w cap.trained ∧ (u.bundle n).narrowed = true)
      ∧ (cap.trained ≠ w → b.narrowed = true → fails u))
    ∧ (st = 1 → Gives (.dlTrainingTimeout n) s fails)
    ∧ (st ≠ 1 → Gives (.dlTrainingTimeout n) s (KeepsBut [.out] s))
    ∧ (st = 0 ∨ st = 4 → Gives (.laneTest n [] []) s fun u => BundleTrains n s u ∧ tested 2 u)
    ∧ (∀ d i lane, (st = 0 ∨ st = 4) → d < 2 → i < 4 → lane < 64 → lane ∉ s.spliced n d → s.get (spliceFld n d i).1 = 0 →
        (∀ j, j < i → s.get (spliceFld n d j).1 = 1) → s.pins.falling = false →
      Gives (.laneTest n (if d = 0 then [lane] else []) (if d = 0 then [] else [lane])) s fun u =>
        u.get (spliceFld n d i).1 = 1 ∧ u.get (spliceFld n d i).2 = lane ∧ Recorded 0x0802 [n, d, i, lane] u
        ∧ Journaled 3 n ((b.spl ++ [(d, i, lane)]).flatMap fun x => leBytes 1 x.1 ++ leBytes 1 x.2.1 ++ leBytes 1 x.2.2 ++ leBytes 1 1) u
        ∧ BundleTrains n s u ∧ tested 2 u)
    ∧ (∀ fa fb, (st = 0 ∨ st = 4) → (∀ i, i < 4 → s.get (spliceFld n 0 i).1 = 1 ∧ s.get (spliceFld n 1 i).1 = 1) →
        (∀ l ∈ fa ++ fb, l < 64) →
      let badA := fa.filter fun l => !(s.spliced n 0).contains l
      let badB := fb.filter fun l => !(s.spliced n 1).contains l
      let low := fun bad : List Nat => ∃ l ∈ bad, l < 32
      let high := fun bad : List Nat => ∃ l ∈ bad, 32 ≤ l
      let none_ := (low badA ∧ high badA) ∨ (low badB ∧ high badB)
      Gives (.laneTest n fa fb) s fun u =>
        (none_ → fenced u)
        ∧ (¬none_ → BundleTrains n s u ∧ tested (if badA = [] ∧ badB = [] then 2 else 1) u
          ∧ (low badA → (u.bundle n).half = 1) ∧ (high badA → (u.bundle n).half = 0)
          ∧ (low badB → (u.bundle n).halfBA = 1) ∧ (high badB → (u.bundle n).halfBA = 0)))
    ∧ (bit value.toNat 29 = true → bit value.toNat 31 = true → s.pins.falling = false → Gives (.dlRetest n value) s fun u =>
      KeepsBut [.journal, .regs, .bundles, .out] s u ∧ Journaled 3 n [] u ∧ BundlesBut [n] s u ∧ u.bundle n = { b with spl := [] }
      ∧ u.get (Reg.DL_CTRL_ENABLE n) = 1)
    ∧ (bit value.toNat 31 = false → st ≠ 3 → Gives (.dlRetest n value) s fun u => u.get (Reg.DL_CTRL_ENABLE n) = 0 ∧ u.dieSt n = 3)
    ∧ (st ≠ 3 → Gives (.dieLinkFenced n) s fenced)
    ∧ (st = 3 → Gives (.dieLinkFenced n) s (KeepsBut [.out] s))
    ∧ (bit value.toNat 31 = false → st ≠ 3 → Gives (.dlDisable n value) s fun u => u.get (Reg.DL_CTRL_ENABLE n) = 0 ∧ fenced u)
    ∧ (bit value.toNat 31 = true → Gives (.dlDisable n value) s fun u =>
      KeepsBut [.regs, .out] s u ∧ FieldsBut [Reg.DL_CTRL_ENABLE n] s u ∧ u.get (Reg.DL_CTRL_ENABLE n) = 1)
    ∧ (∀ fatal, fatal < 3 → fatal ≠ 0 ∨ (bit value.toNat 30 = true ∧ bit value.toNat 31 = true) →
      let e := if fatal = 0 then 2 else fatal
      let d := if e = 1 then 0 else 1
      Gives (.dlReset n value fatal lost) s fun u =>
        u.dieSt n = (if fatal = 0 ∨ s.get (Reg.DL_CTRL_ENABLE n) = 1 then 4 else 3) ∧ u.get (Reg.DL_STATUS_ATTEMPTS n) = 0
        ∧ (u.bundle n).dir d = DieDir.init ∧ (u.bundle n).reset = e
        ∧ (st = 2 → Recorded 0x0803 [n] u ∧ Moved n (1 - d) s u
          ∧ (∀ r ∈ lost, (∀ b, r.agent ≠ .debug b) → (∀ k v t j, r.agent ≠ .peer k v t j) → .status 7 ∈ u.out)
          ∧ ∀ r ∈ lost, ∀ p, s.agentPart r.agent = some p → JobRewinds p 0x4 s u)
        ∧ (st ≠ 2 → KeepsBut [.regs, .bundles, .out] s u))
    ∧ (bit value.toNat 30 = true → bit value.toNat 31 = false → st ≠ 3 → Gives (.dlReset n value 0 lost) s fun u =>
      u.dieSt n = 3 ∧ u.get (Reg.DL_CTRL_ENABLE n) = 0 ∧ u.get (Reg.DL_STATUS_ATTEMPTS n) = 0)

/-! ## The host port -/

/-- Placement entries and BAR4 (12 R425 to R427): an entry is put in force once it passes its checks, else PLC_ERR names the first that it
fails. A request that no entry decodes, or that lacks its permission, is rejected and counted, a write as an advisory non-fatal error; one
that an entry decodes is performed as an access of the entry's partition at the translated address. -/
def Obligations.PlacementWindow : Prop :=
  ∀ (i : Nat) (value : W32) (rid : W16) (off : W64) (size : Nat) (data : List Byte) (bad : List (Nat × Nat)) (s : State), i < 64 →
    let v := value.toNat
    let p := bits v 24 3
    let id := bits v 0 16
    let len := s.plcLen i
    let lo := s.plcStart i
    let wrote := fun (u : State) => u.get (Reg.PLC_CFG_READ i) = bits v 30 1 ∧ u.get (Reg.PLC_CFG_WRITE i) = bits v 29 1
      ∧ u.get (Reg.PLC_CFG_PARTITION i) = p ∧ u.get (Reg.PLC_CFG_RID i) = id
      ∧ FieldsBut [Reg.PLC_CFG_VALID i, Reg.PLC_CFG_READ i, Reg.PLC_CFG_WRITE i, Reg.PLC_CFG_PARTITION i, Reg.PLC_CFG_RID i,
        Reg.PLC_ERR_CODE, Reg.PLC_ERR_ENTRY] s u
    let placeable := ∃ g, (s.imageOf p).region? (s.get (Reg.PLC_BASE_BASE i) * 0x20_0000) len = some g ∧ g.placeable = true
    let overlaps := ∃ j, j < 64 ∧ j ≠ i ∧ s.get (Reg.PLC_CFG_VALID j) = 1 ∧ s.get (Reg.PLC_CFG_RID j) = id
      ∧ s.plcStart j < lo + len ∧ lo < s.plcStart j + s.plcLen j
    let fails := fun (code : Nat) => Gives (.plcValidWrite i value) s fun u =>
      KeepsBut [.regs, .out] s u ∧ wrote u ∧ u.get (Reg.PLC_CFG_VALID i) = 0 ∧ u.get Reg.PLC_ERR_CODE = code
      ∧ u.get Reg.PLC_ERR_ENTRY = i
    let o := off.toNat
    let decodes := fun j => s.get (Reg.PLC_CFG_VALID j) = 1 ∧ s.get (Reg.PLC_CFG_RID j) = rid.toNat ∧ s.plcStart j ≤ o
      ∧ o < s.plcStart j + s.plcLen j
    let reads := fun j => decodes j ∧ s.get (Reg.PLC_CFG_READ j) = 1
    let writes := fun j => decodes j ∧ s.get (Reg.PLC_CFG_WRITE j) = 1
    let rejected := fun (l : List Area) (u : State) => KeepsBut ([.regs, .out] ++ l) s u
      ∧ u.get Reg.PLC_REJECT_COUNT = min 0xFFFF (s.get Reg.PLC_REJECT_COUNT + 1) ∧ u.get Reg.PLC_REJECT_LAST_RID = rid.toNat
      ∧ FieldsBut [Reg.PLC_REJECT_COUNT, Reg.PLC_REJECT_LAST_RID] s u
    let a := s.get Reg.PKG_ID_ID * 2 ^ 50 + (s.get (Reg.PLC_BASE_BASE i) * 0x20_0000 + (o - lo))
    let agent := Agent.window (s.get (Reg.PLC_CFG_PARTITION i))
    (bit v 31 = false → Gives (.plcValidWrite i value) s fun u =>
      KeepsBut [.regs, .out] s u ∧ wrote u ∧ u.get (Reg.PLC_CFG_VALID i) = 0 ∧ u.get Reg.PLC_ERR_CODE = s.get Reg.PLC_ERR_CODE)
    ∧ (bit v 31 = true → ¬placeable → fails 1)
    ∧ (bit v 31 = true → placeable → s.partState p ≠ 2 → fails 2)
    ∧ (bit v 31 = true → placeable → s.partState p = 2 → overlaps → fails 3)
    ∧ (bit v 31 = true → placeable → s.partState p = 2 → ¬overlaps → 2 ^ 36 < lo + len → fails 4)
    ∧ (bit v 31 = true → placeable → s.partState p = 2 → ¬overlaps → lo + len ≤ 2 ^ 36 → Gives (.plcValidWrite i value) s fun u =>
      KeepsBut [.regs, .out] s u ∧ wrote u ∧ u.get (Reg.PLC_CFG_VALID i) = 1 ∧ u.get Reg.PLC_ERR_CODE = s.get Reg.PLC_ERR_CODE)
    ∧ ((∀ j, j < 64 → ¬reads j) → Gives (.bar4Request rid off false size data bad) s fun u => rejected [] u ∧ u.out = [.unsupported])
    ∧ ((∀ j, j < 64 → ¬writes j) → Gives (.bar4Request rid off true size data bad) s fun u => rejected [.pcie] u ∧ u.out = []
      ∧ 0 ∈ u.pcie.aer ∧ u.pcie.numVfs = s.pcie.numVfs ∧ u.pcie.d3 = s.pcie.d3)
    ∧ (reads i → (∀ j, j < 64 → reads j → j = i) → 0 < size → a % 256 + size ≤ 256 → fabCls a = 0 → a / 2 ^ 50 = s.get Reg.PKG_ID_ID →
        (s.fabCheck ⟨agent, opRead, 0, size, a, data.take size⟩ = 0 → Sound (fabOff a) size s →
          Gives (.bar4Request rid off false size data []) s fun u =>
            KeepsBut [.out] s u ∧ u.out = [.status 0, .bytes (s.memBytes (fabOff a) size)])
        ∧ (s.fabCheck ⟨agent, opRead, 0, size, a, data.take size⟩ ≠ 0 → Gives (.bar4Request rid off false size data bad) s fun u =>
          u.mem = s.mem ∧ u.out = [.status (s.fabCheck ⟨agent, opRead, 0, size, a, data.take size⟩), .bytes []]))
    ∧ (writes i → (∀ j, j < 64 → writes j → j = i) → 0 < data.length → a % 256 + data.length ≤ 256 → fabCls a = 0 → a / 2 ^ 50 = s.get Reg.PKG_ID_ID →
        (s.fabCheck ⟨agent, opWrite, 0, data.length, a, data⟩ = 0 → Sound (fabOff a) data.length s → Uninjected s →
          Gives (.bar4Request rid off true size data []) s fun u =>
            KeepsBut [.mem, .memCheck, .memEpoch, .memKey, .out] s u ∧ u.out = [] ∧ u.memBytes (fabOff a) data.length = data
            ∧ ∀ x, x < fabOff a ∨ fabOff a + data.length ≤ x → u.readByte x = s.readByte x)
        ∧ (s.fabCheck ⟨agent, opWrite, 0, data.length, a, data⟩ ≠ 0 → Gives (.bar4Request rid off true size data bad) s fun u =>
          u.mem = s.mem ∧ u.out = [] ∧ u.get Reg.FAB_ERR_COUNTS_ERRORS = min 0xFFFF (s.get Reg.FAB_ERR_COUNTS_ERRORS + 1)))

/-- Copy engines (12 R430 to R438, R444, R451): the engine reads the entry at HEAD, and starts it when it is current. A NOP ends at once,
a FENCE when it is the oldest, a COPY moves its bytes as an access of the engine's partition; with ORDER its bytes wait for the earlier
descriptors. One that fails a check, the fabric or the host ends with its status and stops the
engine. The oldest ended descriptor writes its completion record. An entry that stays old stops the engine with DB_AHEAD. -/
def Obligations.CopyEngines : Prop :=
  ∀ (e : Nat) (bytes : List Byte) (who : Who) (value : W32) (s : State), e < 16 → whoOk who = true →
    let d := hceDesc bytes
    let h := s.hce e
    let i := s.get (Reg.HCE_STATUS_HEAD e)
    let st := s.get (Reg.HCE_STATUS_STATE e)
    let starts := s.hceReady e = true ∧ d.phase = h.phase ∧ ∀ w ∈ h.work, w.index ≠ i
    let sound := s.hceError e d = 0
    let a := Agent.engine (s.enginePart e) e
    let fn := (s.engineFn? e).getD 0
    let fetch := Out.hostRead fn (s.get (Reg.HCE_RING_BASE e) * 4096 + 32 * i) 32
    let quiet := fun (u : State) => KeepsBut [.hces, .regs, .out] s u
    let loud := fun (u : State) => KeepsBut [.hces, .regs, .det, .seq, .rings, .out] s u
    let wrote := fun (o : Nat) (l : List Byte) (u : State) => KeepsBut [.hces, .regs, .mem, .memCheck, .memEpoch, .memKey, .out] s u
      ∧ u.memBytes o l.length = l ∧ ∀ x, x < o ∨ o + l.length ≤ x → u.readByte x = s.readByte x
    let begun := fun (held : Option (List Byte)) (u : State) => quiet u ∧ HcesBut [e] s u
      ∧ (u.hce e).work = h.work ++ [⟨i, d, false, 0, 0, held⟩] ∧ u.get (Reg.HCE_STATUS_HEAD e) = (i + 1) % s.hceSize e
      ∧ (u.hce e).phase = (if (i + 1) % s.hceSize e = 0 then !h.phase else h.phase) ∧ u.get (Reg.HCE_STATUS_STATE e) = 1
    let later := d.order = true ∧ ∃ w ∈ h.work, w.done = false
    let fails := fun (op addr n : Nat) (code : Nat) => ∃ x l, lineParts addr n = x :: l ∧ s.engCheck a op x.1 x.2 = code ∧ code ≠ 0
    let v := value.toNat
    let busy := if h.work ≠ [] ∨ (s.get (Reg.HCE_CTRL_ENABLE e) = 1 ∧ i ≠ h.tail) then 1 else 0
    (starts → sound → d.op = 0 → Gives (.hceNop e bytes) s fun u => quiet u ∧ u.out = [fetch] ∧ Ended e d 0 0 s u)
    ∧ (starts → sound → d.op = 2 → Gives (.hceFence e bytes) s fun u =>
      begun none u ∧ u.out = fetch :: (if e < 8 then [] else [.hostRead fn d.hostAddr 0]))
    ∧ (∀ ans bad c, starts → s.hceError e d ≠ 0 → (c = .hceNop e bytes ∧ d.op = 0) ∨ (c = .hceFence e bytes ∧ d.op = 2)
        ∨ (c = .hceCopy e bytes ans bad ∧ (d.op = 1 ∨ 2 < d.op)) → Gives c s fun u => loud u ∧ Ended e d 1 (s.hceError e d) s u)
    ∧ (e < 8 → starts → sound → d.op = 1 →
      (Gives (.hceCopy e bytes none []) s fun u => begun none u ∧ u.out = [fetch, .hostRead fn d.hostAddr d.len])
      ∧ (∀ herr data bad, herr ≠ 0 → Gives (.hceCopy e bytes (some (herr, data)) bad) s fun u => loud u ∧ Ended e d 3 herr s u)
      ∧ (∀ data bad, later → Gives (.hceCopy e bytes (some (0, data)) bad) s (begun (some data)))
      ∧ (∀ data, ¬later → fabCls d.fabricAddr = 0 → EngWrites a d.fabricAddr d.len s → Uninjected s →
        Gives (.hceCopy e bytes (some (0, data)) []) s fun u =>
          wrote (fabOff d.fabricAddr) (fit 0 d.len data) u ∧ Ended e d 0 0 s u)
      ∧ (∀ data, ¬later → fabCls d.fabricAddr = 2 → s.fabCheck ⟨a, opWrite, 0, 32, d.fabricAddr, fit 0 32 data⟩ = 0 →
        Gives (.hceCopy e bytes (some (0, data)) []) s fun u => u.mem = s.mem ∧ Ended e d 0 0 s u)
      ∧ (∀ data bad code, ¬later → fabCls d.fabricAddr = 0 → fails opWrite d.fabricAddr d.len code →
        Gives (.hceCopy e bytes (some (0, data)) bad) s fun u => u.mem = s.mem ∧ Ended e d 2 code s u))
    ∧ (8 ≤ e → starts → sound → d.op = 1 → ∀ ans,
      (EngReads a d.fabricAddr d.len s → Gives (.hceCopy e bytes ans []) s fun u =>
        quiet u ∧ u.out = [fetch, .host fn d.hostAddr (s.memBytes (fabOff d.fabricAddr) d.len) (!d.order)] ∧ Ended e d 0 0 s u)
      ∧ (∀ code, fails opRead d.fabricAddr d.len code → Gives (.hceCopy e bytes ans []) s fun u =>
        u.mem = s.mem ∧ Ended e d 2 code s u))
    ∧ (∀ w l f, h.work = w :: l → (∀ x ∈ l, x.index ≠ w.index) → s.engineFn? e = some f → s.attached f = true →
      let records := fun (status detail : Nat) (u : State) =>
        HcesBut [e] s u ∧ (u.hce e).work = l
        ∧ u.get (Reg.HCE_COUNTS_DESCS e) = min 0xFFFF (s.get (Reg.HCE_COUNTS_DESCS e) + 1)
        ∧ (u.hce e).cplPhase = (if w.index + 1 = s.hceSize e then !h.cplPhase else h.cplPhase)
        ∧ ∃ r, u.out = [.host f (s.get (Reg.HCE_CPL_BASE e) * 4096 + 16 * w.index) r false]
            ++ (if w.desc.irq then [.irq f (vectorOf f (s.get (Reg.BIND_HCE_VECTOR e)))] else [])
          ∧ r.length = 16 ∧ bits (ofLe r) 31 1 = (if h.cplPhase then 1 else 0) ∧ bits (ofLe r) 24 4 = status % 16
          ∧ bits (ofLe r) 20 4 = detail % 16 ∧ bits (ofLe r) 0 16 = w.desc.tag % 2 ^ 16 ∧ bits (ofLe r) 32 32 = w.index % 2 ^ 32
      let lands := fun (data : List Byte) (ans : Option (Nat × List Byte)) =>
        fabCls w.desc.fabricAddr = 0 → EngWrites a w.desc.fabricAddr w.desc.len s → Uninjected s →
          Gives (.hceDescriptorComplete ⟨e, ans, []⟩) s fun u => wrote (fabOff w.desc.fabricAddr) (fit 0 w.desc.len data) u ∧ records 0 0 u
      (∀ ans bad, w.done = true → Gives (.hceDescriptorComplete ⟨e, ans, bad⟩) s fun u => quiet u ∧ records w.status w.detail u)
      ∧ (∀ bad, w.done = false → w.held = none → w.desc.op = 2 → e < 8 → Gives (.hceDescriptorComplete ⟨e, none, bad⟩) s fun u =>
        quiet u ∧ records 0 0 u)
      ∧ (∀ bad data, w.done = false → w.held = none → w.desc.op ≠ 1 → Gives (.hceDescriptorComplete ⟨e, some (0, data), bad⟩) s fun u =>
        quiet u ∧ records 0 0 u)
      ∧ (∀ bad herr data, w.done = false → w.held = none → herr ≠ 0 → Gives (.hceDescriptorComplete ⟨e, some (herr, data), bad⟩) s fun u =>
        loud u ∧ records 3 herr u ∧ u.get (Reg.HCE_STATUS_STATE e) = 2 ∧ Recorded 0x0902 [e, w.index, 3, herr] u)
      ∧ (∀ data, w.done = false → w.held = none → w.desc.op = 1 → lands data (some (0, data)))
      ∧ (∀ data ans, w.done = false → w.held = some data → lands data ans)
      ∧ (∀ bad, w.done = false → w.held = none → ¬(w.desc.op = 2 ∧ e < 8) →
        Gives (.hceDescriptorComplete ⟨e, none, bad⟩) s (KeepsBut [.out] s)))
    ∧ (∀ ans bad, h.work = [] → Gives (.hceDescriptorComplete ⟨e, ans, bad⟩) s (KeepsBut [.out] s))
    ∧ (s.hceReady e = true → d.phase ≠ h.phase →
      (h.retries < 7 → Gives (.hceDescriptorRetry e bytes) s fun u =>
        KeepsBut [.hces, .out] s u ∧ HcesBut [e] s u ∧ u.hce e = { h with retries := h.retries + 1 } ∧ u.out = [fetch])
      ∧ (7 ≤ h.retries → Gives (.hceDescriptorRetry e bytes) s fun u =>
        loud u ∧ HcesBut [e] s u ∧ u.hce e = { h with retries := 0 } ∧ u.get (Reg.HCE_STATUS_DB_AHEAD e) = 1
        ∧ u.get (Reg.HCE_STATUS_HEAD e) = i ∧ Recorded 0x0901 [e, i] u
        ∧ u.get (Reg.HCE_COUNTS_DB_AHEADS e) = min 0xFFFF (s.get (Reg.HCE_COUNTS_DB_AHEADS e) + 1)))
    ∧ (s.vfDark who = false → s.get (Reg.BIND_HCE_VALID e) = 1 →
        (who = .pf ∨ who = .firmware ∨ ∃ n, who = .vf n ∧ s.get (Reg.BIND_HCE_FUNC e) = 1 + n) → Gives (.hceDoorbell who e value) s fun u =>
      quiet u ∧ HcesBut [e] s u ∧ u.hce e = { h with tail := v % 2 ^ 16 % s.hceSize e, retries := 0 }
      ∧ u.get (Reg.HCE_STATUS_DB_AHEAD e) = 0)
    ∧ (s.pkg ≠ .boot → s.vfDark who = false → s.seesEngine who e = true →
      (bit v 30 = true → st = 2 → Gives (.hceResume who e value) s fun u =>
        KeepsBut [.regs, .out] s u ∧ u.get (Reg.HCE_STATUS_STATE e) = busy ∧ u.get (Reg.HCE_STATUS_HEAD e) = i)
      ∧ (st ≠ 2 → Gives (.hceResume who e value) s (KeepsBut [.out] s))
      ∧ (bit v 31 = true → s.get (Reg.HCE_CTRL_ENABLE e) = 0 → Gives (.hceEnable who e value) s fun u =>
        quiet u ∧ HcesBut [e] s u ∧ u.get (Reg.HCE_CTRL_ENABLE e) = 1 ∧ u.get (Reg.HCE_STATUS_HEAD e) = 0
        ∧ (u.hce e).phase = true ∧ (u.hce e).cplPhase = true ∧ (u.hce e).work = h.work)
      ∧ (bit v 31 = false → Gives (.hceEnable who e value) s fun u =>
        KeepsBut [.regs, .out] s u ∧ u.get (Reg.HCE_CTRL_ENABLE e) = (if s.get (Reg.HCE_CTRL_ENABLE e) = 1 then 0 else s.get (Reg.HCE_CTRL_ENABLE e))))
    ∧ (∀ w, h.work.find? (fun w => !w.done && w.held.isNone && !(w.desc.op == 2 && decide (e < 8))) = some w →
        (∀ x ∈ h.work, x.index = w.index → x = w) → Gives (.completionTimeout false e) s fun u =>
      loud u ∧ HcesBut [e] s u ∧ { w with done := true, status := 3, detail := 3 } ∈ (u.hce e).work
      ∧ u.get (Reg.HCE_STATUS_STATE e) = 2 ∧ Recorded 0x0902 [e, w.index, 3, 3] u)
    ∧ (e < 8 → s.ldState e = 1 → Gives (.completionTimeout true e) s (LoadRefused e 0x20 s))

/-- Event rings, detach and the link (12 R420, R440 to R446, R559): the writer places a REATTACH record first, then a LOST record, then
the oldest pending one, each body before its header, with a PAD where it does not fit before the ring's end, or waits for room.
Each cause detaches its functions; enabling a ring reattaches its function. -/
def Sys2Proof.Claims.EventRingsAndDetach : Prop :=
  ∀ (f : Nat) (who : Who) (value : W32) (s : State), f < 9 → whoOk who = true → s.vfDark who = false → whoSeesFn who f = true →
    (∀ x, x < 9 → (s.ring x).reattach = true → (s.ring x).detachCause ≠ 0) →
    let g := s.ring f
    let size := s.evtSize f
    let base := s.get (Reg.EVT_BASE_BASE f) * 4096
    let head := s.get (Reg.EVT_HEAD_HEAD f)
    let tail := s.get (Reg.EVT_TAIL_TAIL f)
    let free := (head + 2 * size - tail - 16) % size
    let v := value.toNat
    let header := fun (ph : Bool) (len code : Nat) => leBytes 4 ((if ph then 2 ^ 31 else 0) + len / 16 % 128 * 2 ^ 16 + code % 2 ^ 16)
    let irq := if s.get (Reg.EVT_CFG_IRQ_EN f) = 1 then [Out.irq f (vectorOf f (s.get (Reg.EVT_CFG_VECTOR f)))] else []
    let first := fun (code : Nat) (rest : List Byte) (pend : List EvRec) =>
      (∃ l, g.reattach = true ∧ code = 2 ∧ pend = g.pend ∧ rest = List.replicate 12 0 ++ l
        ∧ ofLe (l.take 8) = g.detachCause % 256 + g.ended.length % 256 * 2 ^ 8 + g.droppedDetached % 2 ^ 32 * 2 ^ 32)
      ∨ (∃ l, g.reattach = false ∧ g.lost ≠ 0 ∧ code = 1 ∧ pend = g.pend ∧ rest = List.replicate 12 0 ++ l
        ∧ ofLe (l.take 4) = g.lost % 2 ^ 32)
      ∨ (∃ r, g.reattach = false ∧ g.lost = 0 ∧ g.pend = r :: pend ∧ code = r.code ∧ ofLe (rest.take 4) = r.seq % 2 ^ 32
        ∧ ofLe ((rest.drop 4).take 4) = r.step.getD 0 % 2 ^ 32 ∧ (rest.drop 12).take (4 * r.body.length) = wordsLe r.body)
    let writes := s.get (Reg.EVT_CFG_ENABLE f) = 1 ∧ s.attached f = true ∧ tail < size ∧ head < size
    let due := g.reattach = true ∨ g.lost ≠ 0 ∨ g.pend ≠ []
    let all := fun (cause : Nat) (u : State) => DetachSeen s u ∧ PhysicalDetached s u ∧ ∀ x, x < 9 → Detached cause x s u
    let one := fun (cause : Nat) (u : State) => DetachSeen s u ∧ Detached cause f s u
      ∧ (f ≠ 0 → KeepsBut [.regs, .rings, .hces, .pcie, .sec, .mem, .memEpoch, .memKey, .free, .out] s u ∧ RingsBut [f] s u
        ∧ u.pcie.numVfs = s.pcie.numVfs ∧ (f ∈ u.pcie.d3 ↔ cause = 5)
        ∧ ∀ a, (∀ e ∈ s.fnEngines f, ∀ w ∈ (s.hce e).work, ∀ x ∈ s.copyDest e w, a < x.1 ∨ x.1 + x.2 ≤ a) → u.readByte a = s.readByte a)
      ∧ (f = 0 → PhysicalDetached s u ∧ ∀ x, x < 9 → Detached cause x s u)
    (writes → due → ∃ code rest pend, first code rest pend ∧
      let len := rest.length + 4
      let body := fun at_ => Out.host f (base + at_ + 4) rest false
      (len ≤ size - tail → len ≤ free → Gives (.eventRecordWrite f) s fun u =>
        KeepsBut [.rings, .regs, .out] s u ∧ RingsBut [f] s u ∧ (u.ring f).pend = pend ∧ (u.ring f).full = false
        ∧ u.out = [body tail, .host f (base + tail) (header g.phase len code) false] ++ irq
        ∧ u.get (Reg.EVT_TAIL_TAIL f) = (tail + len) % size ∧ (u.ring f).phase = (if tail + len = size then !g.phase else g.phase))
      ∧ (size - tail < len → size - tail + len ≤ free → Gives (.eventRecordWrite f) s fun u =>
        KeepsBut [.rings, .regs, .out] s u ∧ RingsBut [f] s u ∧ (u.ring f).pend = pend
        ∧ u.out = [.host f (base + tail) (header g.phase (size - tail) 0) false, body 0,
            .host f base (header (!g.phase) len code) false] ++ irq
        ∧ u.get (Reg.EVT_TAIL_TAIL f) = len ∧ (u.ring f).phase = !g.phase)
      ∧ ((len ≤ size - tail ∧ free < len) ∨ (size - tail < len ∧ free < size - tail + len) → Gives (.eventRecordWrite f) s fun u =>
        KeepsBut [.rings, .regs, .out] s u ∧ u.out = [] ∧ u.ring f = { g with full := true }
        ∧ u.get (Reg.EVT_TAIL_TAIL f) = tail
        ∧ u.get (Reg.EVT_COUNTS_RING_FULL f) = (if g.full then s.get (Reg.EVT_COUNTS_RING_FULL f) else min 0xFFFF (s.get (Reg.EVT_COUNTS_RING_FULL f) + 1))))
    ∧ (s.get (Reg.EVT_CFG_ENABLE f) = 0 ∨ s.attached f = false ∨ ¬due → Gives (.eventRecordWrite f) s (KeepsBut [.out] s))
    ∧ Gives (.evtHeadWrite who f value) s (fun u =>
      KeepsBut [.regs, .out] s u ∧ FieldsBut [Reg.EVT_HEAD_HEAD f] s u ∧ u.get (Reg.EVT_HEAD_HEAD f) = v % 2 ^ 24 / 16 * 16)
    ∧ (∀ vfs, (setNumVfs vfs s).vfDark who = false →
      let wrote := fun (u : State) => u.pcie.numVfs = min 8 vfs ∧ u.pcie.aer = s.pcie.aer ∧ u.get (Reg.EVT_CFG_ENABLE f) = bits v 31 1 ∧ u.get (Reg.EVT_CFG_IRQ_EN f) = bits v 30 1
        ∧ u.get (Reg.EVT_CFG_VECTOR f) = bits v 0 10
      (s.get (Reg.EVT_CFG_ENABLE f) = 0 → bit v 31 = true → Gives (.evtEnable who f ⟨value, vfs⟩) s fun u =>
        KeepsBut [.rings, .regs, .pcie, .out] s u ∧ f ∉ u.pcie.d3 ∧ RingsBut [f] s u ∧ wrote u ∧ u.get (Reg.EVT_HEAD_HEAD f) = 0 ∧ u.get (Reg.EVT_TAIL_TAIL f) = 0
        ∧ (u.ring f).pend = g.pend ∧ (u.ring f).phase = true ∧ (u.ring f).detached = 0
        ∧ (g.detached ≠ 0 → (u.ring f).reattach = true ∧ (u.ring f).detachCause = g.detached)
        ∧ (g.detached = 0 → (u.ring f).reattach = g.reattach)
        ∧ ((∀ x, x < 9 → x ≠ f → (s.ring x).detached = 0) → u.get Reg.HP_STATUS_DETACHED = 0))
      ∧ (s.get (Reg.EVT_CFG_ENABLE f) = 1 ∨ bit v 31 = false → Gives (.evtEnable who f ⟨value, vfs⟩) s fun u =>
        KeepsBut [.regs, .pcie, .out] s u ∧ wrote u ∧ u.pcie.d3 = s.pcie.d3
        ∧ FieldsBut [Reg.EVT_CFG_ENABLE f, Reg.EVT_CFG_IRQ_EN f, Reg.EVT_CFG_VECTOR f] s u))
    ∧ (∀ c ∈ [Instr.dlDown, .refclkHostLoss], Gives c s fun u => all 1 u ∧ u.get Reg.HP_STATUS_LINK = 0)
    ∧ Gives .hotReset s (fun u => all 2 u ∧ u.get Reg.HP_STATUS_LINK = 1)
    ∧ (s.pins.perstN = true → Gives .perstAssert s fun u => all 3 u ∧ u.get Reg.HP_STATUS_LINK = 0 ∧ u.pins = { s.pins with perstN := false })
    ∧ Gives (.functionLevelReset f) s (one 4) ∧ Gives (.d3hotEntry f) s (one 5)
    ∧ (s.pins.perstN = false → Gives .perstRelease s fun u =>
      KeepsBut [.pins, .regs, .out] s u ∧ u.pins = { s.pins with perstN := true } ∧ u.get Reg.HP_STATUS_LINK = 1)

/-- The link and the mailboxes (12 R420, R443, R447, R448; 14 R491): a trained link shows its rate and width, and one below x8 is reported; a
recovery is counted. Host-to-package bits gather; a write of the doorbell bits or of their mask signals the channel's
vector while an unmasked bit is set. A function's DOE mailbox names DOE discovery, CMA/SPDM and secured CMA/SPDM; the layout of that answer is
the PCIe standard's, which the model takes (log 64). -/
def Sys2Proof.Claims.LinkAndMailboxes : Prop :=
  ∀ (c f speed width : Nat) (flit : Bool) (value sets : W32) (s : State), c < 64 → f < 9 → 1 ≤ speed → speed ≤ 6 →
    width ∈ [1, 2, 4, 8, 16] →
    let v := value.toNat
    let fn := if c < 3 then 0 else s.get (Reg.BIND_MB_FUNC c)
    let sees := c < 3 ∨ s.get (Reg.BIND_MB_VALID c) = 1
    let signals := fun (bits mask : Nat) (u : State) =>
      u.out = if bits &&& (mask ^^^ 0xFFFF_FFFF) = 0 then [] else [.irq fn (vectorOf fn (s.get (Reg.BIND_MB_VECTOR c)))]
    let only := fun (l : List Fld) (u : State) => KeepsBut [.regs, .out] s u ∧ FieldsBut l s u
    let linked := fun (u : State) => u.get Reg.HP_STATUS_LINK = 2 ∧ u.get Reg.HP_STATUS_SPEED = speed ∧ u.get Reg.HP_STATUS_WIDTH = width
      ∧ u.get Reg.HP_STATUS_FLIT = (if flit then 1 else 0)
    (∀ vfs, s.pins.perstN = true → 8 ≤ width → Gives (.hostLinkTrained speed width ⟨flit, vfs⟩) s fun u =>
      KeepsBut [.regs, .pcie, .out] s u ∧ linked u ∧ u.pcie = { s.pcie with numVfs := min 8 vfs })
    ∧ (∀ vfs, s.pins.perstN = true → width < 8 → Gives (.hostLinkTrained speed width ⟨flit, vfs⟩) s fun u =>
      KeepsBut [.regs, .pcie, .det, .seq, .rings, .out] s u ∧ linked u ∧ u.pcie = { s.pcie with numVfs := min 8 vfs } ∧ Recorded 0x0900 [width, speed] u)
    ∧ Gives .linkRecovery s (fun u => only [Reg.HP_COUNTS_RETRAINS] u
      ∧ u.get Reg.HP_COUNTS_RETRAINS = min 0xFF (s.get Reg.HP_COUNTS_RETRAINS + 1))
    ∧ (∀ i, i < 3 → Gives (.doeDiscovery f i) s fun u =>
      KeepsBut [.out] s u ∧ u.out = [.value (1 + i * 2 ^ 16 + (if i = 2 then 0 else i + 1) * 2 ^ 24)])
    ∧ (c < 3 → Gives (.mbH2pWrite .pf c value) s fun u =>
      only [Reg.MB_H2P_PEND c] u ∧ u.get (Reg.MB_H2P_PEND c) = (s.get (Reg.MB_H2P_PEND c) ||| v) % 2 ^ 32)
    ∧ (3 ≤ c → Gives (.mbH2pWrite .pf c value) s (KeepsBut [.out] s))
    ∧ (sees → Gives (.mbP2hClear .pf c value sets) s fun u =>
      only [Reg.MB_P2H c] u ∧ u.get (Reg.MB_P2H c) = (s.get (Reg.MB_P2H c) &&& (v ^^^ 0xFFFF_FFFF)) ||| sets.toNat
      ∧ signals (u.get (Reg.MB_P2H c)) (s.get (Reg.MB_P2H_MASK c)) u)
    ∧ (sees → Gives (.mbP2hMaskWrite .pf c value) s fun u =>
      only [Reg.MB_P2H_MASK c] u ∧ u.get (Reg.MB_P2H_MASK c) = v ∧ signals (s.get (Reg.MB_P2H c)) v u)

/-- Event rings, detaches, the host link and mailboxes (12 R420, R439 to R448). -/
def Obligations.DetachedHosts : Prop :=
  Claims.EventRingsAndDetach ∧ Claims.LinkAndMailboxes

/-! ## Steps -/

/-- How a job starts (13 R457, R458): START without children sends JOIN upward; JOINs are checked and counted, and the last sends the count
upward; the root checks its count and starts the job, as GO does at every other package. A failed check leaves TREE_ERROR. -/
def Sys2Proof.Claims.JobsStart : Prop :=
  ∀ (p k : Nat) (m : TreeMsg) (s : State), p < 8 → k < 18 →
    let v := s.svc p
    let job := (s.imageOf p).jobId
    let base := s.get (Reg.STEP_BASE_STEP p)
    let vbase := s.get (Reg.STEP_VBASE_COUNT p)
    let want := s.get (Reg.TREE_CFG_CHILDREN p)
    let peer := s.get (Reg.ROPE_PEER_PEER_ID k)
    let parent := s.parentRope p
    let alone := ∀ q ∈ s.loaded, q ≠ p → (s.imageOf q).jobId ≠ job
    let starts := s.pkg ≠ .boot ∧ s.partState p = 2 ∧ v.state = .idle
    let here := s.jobPart m.job = some p
    let wrong := (s.isRoot p = false ∧ (k = parent ∨ peer = s.get (Reg.TREE_CFG_PARENT_ID p))) ∨ (∃ j ∈ v.joined, j.2.1 = peer)
      ∨ want ≤ v.joined.length ∨ m.step ≠ base ∨ m.a ≠ vbase
    let counts := here ∧ v.state ≠ .idle ∧ v.state ≠ .treeError ∧ ¬wrong
    let total := v.joined.foldl (fun n j => n + j.2.2) 1 + m.b
    let joined := fun (u : State) => (u.svc p).joined = v.joined ++ [(k, peer, m.b)]
      ∧ u.get (Reg.STEP_STATUS_JOINED p) = (v.joined.length + 1) % 256
    (starts → alone → v.held = [] → want = 0 → s.hasParent p = true → Gives (.stepStart p) s fun u =>
      (u.svc p).state = .joining ∧ TreeSent parent 0x10 ⟨job, 0, 0, base, vbase, 1⟩ u)
    ∧ (starts → alone → v.held = [] → want = 0 → s.isRoot p = true → (s.imageOf p).instPackages = 1 →
      Gives (.stepStart p) s (JobStarts p s))
    ∧ (starts → alone → v.held = [] → want ≠ 0 → Gives (.stepStart p) s fun u =>
      KeepsBut [.svcs, .regs, .out] s u ∧ (u.svc p).state = .joining ∧ u.get (Reg.STEP_STATUS_STATE p) = 1
      ∧ u.get (Reg.STEP_STATUS_JOINED p) = 0)
    ∧ (starts → ¬alone → Gives (.stepStart p) s (TreeFails p none))
    ∧ (s.pkg ≠ .boot → s.partState p ≠ 2 ∨ v.state ≠ .idle → Gives (.stepStart p) s (KeepsBut [.out] s))
    ∧ (here → v.state = .idle → Gives (.join k m) s fun u =>
      KeepsBut [.svcs, .out] s u ∧ SvcsBut [p] s u ∧ u.svc p = { v with held := v.held ++ [(k, peer, m)] })
    ∧ (here → v.state ≠ .idle → v.state ≠ .treeError → wrong → Gives (.join k m) s (TreeFails p (some peer)))
    ∧ (counts → v.joined.length + 1 < want → Gives (.join k m) s fun u =>
      KeepsBut [.svcs, .regs, .out] s u ∧ SvcsBut [p] s u ∧ joined u ∧ (u.svc p).state = v.state)
    ∧ (counts → v.joined.length + 1 = want → s.hasParent p = true → Gives (.join k m) s fun u =>
      joined u ∧ TreeSent parent 0x10 ⟨job, 0, 0, base, vbase, total⟩ u)
    ∧ (counts → v.joined.length + 1 = want → s.isRoot p = true → total = (s.imageOf p).instPackages → Gives (.join k m) s fun u =>
      joined u ∧ JobStarts p s u)
    ∧ (counts → v.joined.length + 1 = want → s.isRoot p = true → total ≠ (s.imageOf p).instPackages →
      Gives (.join k m) s (TreeFails p none))
    ∧ (here → s.isRoot p = false → k = parent → v.state = .joining → v.spare = false → Gives (.go k m) s (JobStarts p s))
    ∧ (here → s.isRoot p = true ∨ k ≠ parent ∨ v.state ≠ .joining → Gives (.go k m) s (KeepsBut [.out] s))
    ∧ (s.jobPart m.job = none → ∀ now, ∀ c ∈ [Instr.join k m, .go k m, .vote k m, .decide_ k m, .rewind k m, .rewound k m, .resume k m,
        .heartbeat now k m], Gives c s (KeepsBut [.out] s))

/-- How a step is resolved (13 R459 to R461, R466): a package votes once its updates are written and its children have voted; the root decides
HALT without agreement, else COMMIT or SKIP; each package applies the decision when it comes, and forwards it. -/
def Sys2Proof.Claims.StepsResolve : Prop :=
  ∀ (p k : Nat) (m : TreeMsg) (s : State), p < 8 → k < 18 →
    let v := s.svc p
    let step := v.decided + 1
    let here := s.jobPart m.job = some p
    let resolves := v.state = .running ∨ v.state = .catchup ∨ v.state = .waitPeer
    let with_ := s.setSvc p { v with votes := (v.votes.filter fun x => x.1 != k) ++ [(k, m)] }
    let counts := here ∧ (∃ j ∈ v.joined, j.1 = k) ∧ resolves ∧ v.order = none
    (VoteDue p s → s.isRoot p = false → Gives (.stepVote p) s fun u =>
      KeepsBut [.svcs, .ropes, .out] s u ∧ SvcsBut [p] s u ∧ u.svc p = { v with voted := some step }
      ∧ (s.hasParent p = false → u.ropes = s.ropes) ∧ (s.hasParent p = true → ∃ flags, TreeSent (s.parentRope p) 0x12 ⟨(s.imageOf p).jobId, flags, 0, step, (s.part p).count + 1, s.lowestFrame p⟩ u
        ∧ (bit flags 0 = true ↔ VotesFinite p s) ∧ (bit flags 1 = true ↔ VotesAgree p s)))
    ∧ (VoteDue p s → s.isRoot p = true → Gives (.stepVote p) s (Decides p s))
    ∧ (¬VoteDue p s → Gives (.stepVote p) s (KeepsBut [.out] s))
    ∧ (counts → ¬(s.isRoot p = true ∧ VoteDue p with_) → Gives (.vote k m) s fun u =>
      KeepsBut [.svcs, .out] s u ∧ SvcsBut [p] s u ∧ u.svc p = with_.svc p)
    ∧ (counts → s.isRoot p = true → VoteDue p with_ → Gives (.vote k m) s (Decides p with_))
    ∧ (here → ¬counts → Gives (.vote k m) s (KeepsBut [.out] s))
    ∧ (here → s.isRoot p = false → k = s.parentRope p → resolves → m.step = step →
      (m.a = 2 → Gives (.decide_ k m) s fun u => Halted p m.cause u ∧ ToChildren p 0x13 m u)
      ∧ (m.a ≠ 2 → Gives (.decide_ k m) s fun u => Resolved p step (m.a == 0) m.b s u ∧ ToChildren p 0x13 m u))
    ∧ (here → s.isRoot p = true ∨ k ≠ s.parentRope p ∨ ¬resolves ∨ m.step ≠ step → Gives (.decide_ k m) s (KeepsBut [.out] s))

/-- A job starts and its steps resolve (13 R457 to R461). -/
def Obligations.JobsRun : Prop :=
  Claims.JobsStart ∧ Claims.StepsResolve

/-- Rewinds, rollbacks and halts (13 R462 to R467): a request goes to the root, which orders a rewind to the oldest undecided step, asks for
the checkpoints before a rollback, or halts the job; an order is forwarded and the work winds down, abandoned after 10 ms; the
partition is rewound; REWOUND goes up once the work and the children are done; the root's RESUME starts admission again. -/
def Sys2Proof.Claims.RewindsAndHalts : Prop :=
  ∀ (p k : Nat) (now : W64) (m : TreeMsg) (s : State), p < 8 → k < 18 → Uninjected s →
    let v := s.svc p
    let here := s.jobPart m.job = some p
    let job := (s.imageOf p).jobId
    let parent := s.parentRope p
    let atWork := v.state ≠ .idle ∧ v.state ≠ .joining ∧ v.state ≠ .treeError
    let child := ∃ j ∈ v.joined, j.1 = k
    let epoch := (v.epoch + 1) % 256
    let fromParent := s.isRoot p = false ∧ k = parent
    let top := v.rewound.foldl (fun n x => max n x.2) (s.get (Reg.CKPT_SAFE_STEP p))
    let answers := fun (o : Order) => v.order = some o ∧ o.workDone = true ∧ o.sent = false ∧ s.get (Reg.TREE_CFG_CHILDREN p) ≤ v.joined.length
      ∧ (∀ j ∈ v.joined, ∃ x ∈ v.rewound, x.1 = j.1) ∧ (s.rig p).rerigs = []
    (s.pkg ≠ .boot → v.order = none → Gives (.stepRewindRequest p) s (JobRewinds p 0x6 s))
    ∧ (s.pkg ≠ .boot → Gives (.stepHalt p) s (JobHalts p 0x6 s))
    ∧ (here → atWork → child → bit m.flags 0 = false →
      (s.isRoot p = false → Gives (.rewind k m) s fun u => KeepsBut [.ropes, .out] s u ∧ (s.hasParent p = true → TreeSent parent 0x14 m u))
      ∧ (s.isRoot p = true → m.a = 2 → Gives (.rewind k m) s fun u =>
        Halted p m.cause u ∧ ToChildren p 0x14 ⟨job, 1, m.cause, 0, 2, 0⟩ u)
      ∧ (s.isRoot p = true → m.a = 0 → v.order = none → v.state ≠ .halted → Gives (.rewind k m) s fun u =>
        OrderTaken p .rewind (v.decided + 1) m.cause epoch s u ∧ ToChildren p 0x14 ⟨job, 1, m.cause, v.decided + 1, 0, epoch⟩ u)
      ∧ (s.isRoot p = true → m.a = 1 → v.order = none → v.state ≠ .halted → Gives (.rewind k m) s fun u =>
        OrderTaken p .query 0 m.cause 0 s u ∧ ToChildren p 0x14 ⟨job, 1, m.cause, 0, 1, 0⟩ u))
    ∧ (here → atWork → fromParent → bit m.flags 0 = true →
      (m.a = 2 → Gives (.rewind k m) s fun u => Halted p m.cause u ∧ ToChildren p 0x14 m u)
      ∧ (m.a = 0 → Gives (.rewind k m) s fun u =>
        OrderTaken p .rewind m.step m.cause (m.b % 256) s u ∧ ToChildren p 0x14 ⟨job, 1, m.cause, m.step, 0, m.b % 256⟩ u)
      ∧ (m.a = 1 → Gives (.rewind k m) s fun u =>
        OrderTaken p (if m.step = 0 then .query else .rollback) m.step m.cause (m.b % 256) s u
        ∧ ToChildren p 0x14 ⟨job, 1, m.cause, m.step, 1, m.b % 256⟩ u))
    ∧ ((s.rig p).winding = true → (s.rig p).windStart + 10_000_000 ≤ max s.time now.toNat → s.woundDown p = false →
      Gives (.windDownTimeout now p) s fun u =>
        (∀ gf ∈ s.placedFlights p, (u.flight gf).queue = [] ∧ (u.flight gf).loads = []
          ∧ ∀ a, (tget ArrayData.init (u.flight gf).arrays a).tile = none ∧ (tget ArrayData.init (u.flight gf).arrays a).drain = none)
        ∧ (∀ x ∈ s.partTreads p, (u.tread x).busy = false) ∧ (v.order = none → (∀ gf ∈ s.placedFlights p, ∀ a, a < 4 → (s.array gf a).drain = none) → u.mem = s.mem))
    ∧ ((s.rig p).winding = false ∨ max s.time now.toNat < (s.rig p).windStart + 10_000_000 ∨ s.woundDown p = true →
      Gives (.windDownTimeout now p) s (KeepsBut [.time, .out] s))
    ∧ (∀ o, v.order = some o → o.kind = .rewind → o.undone = false → o.workDone = false → s.woundDown p = true →
        (∀ x ∈ s.sparse, x.part ≠ p) → (∀ n, s.lineFails n = false) → Gives (.rewoundSend p) s (Rewound p o.target o.epoch (s.get (Reg.STEP_STATUS_CAUSE p)) s))
    ∧ (∀ o, answers o → s.isRoot p = false → Gives (.rewoundSend p) s fun u =>
      (u.svc p).order = some { o with sent := true } ∧ (s.hasParent p = true → TreeSent parent 0x15 ⟨job, 0, 0, o.target, 0, top⟩ u))
    ∧ (∀ o, answers o → s.isRoot p = true → let c := Instr.rewoundSend p
      (o.kind ≠ .query → o.absorbed = none → Gives c s fun u => Resumes p s u ∧ ToChildren p 0x16 ⟨job, 0, 0, o.target, 0, 0⟩ u)
      ∧ (o.kind = .rewind → (∃ x, o.absorbed = some x) → Gives c s fun u => ∃ x, o.absorbed = some x
        ∧ OrderTaken p .query 0 x 0 s u ∧ ToChildren p 0x14 ⟨job, 1, x, 0, 1, 0⟩ u)
      ∧ (o.kind = .query → top ≠ 0 → Gives c s fun u =>
        OrderTaken p .rollback top o.cause epoch s u ∧ ToChildren p 0x14 ⟨job, 1, o.cause, top, 1, epoch⟩ u))
    ∧ (∀ o, here → v.order = some o → child → m.step = o.target → s.isRoot p = false → Gives (.rewound k m) s fun u =>
      KeepsBut [.svcs, .out] s u ∧ SvcsBut [p] s u
      ∧ u.svc p = { v with rewound := (v.rewound.filter fun x => x.1 != k) ++ [(k, m.b)] })
    ∧ (∀ o, here → v.order = some o → child → m.step = o.target → s.isRoot p = true → o.workDone = true → o.sent = false →
        s.get (Reg.TREE_CFG_CHILDREN p) ≤ v.joined.length → (∀ j ∈ v.joined, j.1 ≠ k → ∃ x ∈ v.rewound, x.1 = j.1) →
        (s.rig p).rerigs = [] → o.kind ≠ .query → o.absorbed = none → Gives (.rewound k m) s fun u =>
      Resumes p s u ∧ ToChildren p 0x16 ⟨job, 0, 0, o.target, 0, 0⟩ u)
    ∧ (∀ o, here → v.order = some o → fromParent → o.sent = true → o.kind ≠ .query → m.step = o.target → Gives (.resume k m) s fun u =>
      Resumes p s u ∧ ToChildren p 0x16 m u)
    ∧ (here → (v.order = none ∨ ∃ o, v.order = some o ∧ (o.sent = false ∨ o.kind = .query ∨ m.step ≠ o.target)) →
      Gives (.resume k m) s (KeepsBut [.out] s))

/-- Peers and spares (13 R474, R475): a heartbeat goes out on every tree edge and is noted where it comes; 100 ms without one lose the
peer. A spare joins under cause TAKEOVER and asks for a rollback, or as root orders it. -/
def Sys2Proof.Claims.PeersAndSpares : Prop :=
  ∀ (p k : Nat) (now : W64) (m : TreeMsg) (s : State), p < 8 → k < 18 →
    let v := s.svc p
    let job := (s.imageOf p).jobId
    let live := v.state ≠ .idle ∧ v.state ≠ .treeError
    let spare := s.pkg ≠ .boot ∧ s.partState p = 2 ∧ v.state = .idle ∧ v.outage = none ∧ v.order = none
    (s.jobPart m.job = some p → live → v.spare = false → Gives (.heartbeat now k m) s fun u =>
      KeepsBut [.svcs, .time, .out] s u ∧ SvcsBut [p] s u
      ∧ u.svc p = { v with heard := (v.heard.filter fun x => x.1 != k) ++ [(k, max s.time now.toNat)] })
    ∧ (live → Gives (.heartbeatSend p) s fun u =>
      KeepsBut [.ropes, .out] s u
      ∧ ∀ j, (s.hasParent p = true ∧ j = s.parentRope p) ∨ (∃ x ∈ v.joined, x.1 = j) → TreeSent j 0x17 ⟨job, 0, 0, 0, 0, 0⟩ u)
    ∧ (¬live → Gives (.heartbeatSend p) s (KeepsBut [.out] s))
    ∧ (∀ peer t, s.edgePeer p k = some peer → v.heard.find? (fun x => x.1 == k) = some (k, t) →
      (t + 100_000_000 ≤ max s.time now.toNat → Gives (.peerLostTimeout now p k) s fun u =>
        EdgeLost p peer s u ∧ (v.state = .running → u.get (Reg.TREE_STATUS_VALID p) = 1
          ∧ u.get (Reg.TREE_STATUS_PEER_ID p) = peer % 2 ^ 14 ∧ u.get (Reg.STEP_STATUS_CAUSE p) = 0xC))
      ∧ (max s.time now.toNat < t + 100_000_000 → Gives (.peerLostTimeout now p k) s (KeepsBut [.time, .out] s)))
    ∧ (spare → s.isRoot p = false → Gives (.stepTakeover p) s fun u =>
      (u.svc p).state = .joining ∧ (u.svc p).spare = true ∧ u.get (Reg.STEP_STATUS_CAUSE p) = 0x7
      ∧ (s.hasParent p = true → TreeSent (s.parentRope p) 0x14 ⟨job, 0, 0x7, 0, 1, 0⟩ u))
    ∧ (spare → s.isRoot p = true → s.get (Reg.TREE_CFG_CHILDREN p) = 0 → Gives (.stepTakeover p) s fun u =>
      (u.svc p).spare = true ∧ (u.svc p).state = .rollback
      ∧ ∃ o, (u.svc p).order = some o ∧ o.kind = .query ∧ o.cause = 0x7)
    ∧ (s.pkg ≠ .boot → s.partState p ≠ 2 ∨ v.state ≠ .idle → Gives (.stepTakeover p) s (KeepsBut [.out] s))

/-- Rewinds, halts, lost peers and spares (13 R462 to R466, R474). -/
def Obligations.JobsRecover : Prop :=
  Claims.RewindsAndHalts ∧ Claims.PeersAndSpares

/-! ## Checkpoints and storage -/

/-- Checkpoint messages (13 R468, R470, R475): DATA fills the ward's frame and DONE ends it, acknowledged; an acknowledgement completes
this package's own frame; FETCH sends the ward's frame back in parts; RETURN fills this package's own frame again, and RETURN_DONE
restores it. A message of another job or outside a frame slot is discarded. -/
def Sys2Proof.Claims.CheckpointMessages : Prop :=
  ∀ (k v p : Nat) (msg : List Byte) (s : State), k < 18 → v < 8 → s.delivers k v = true → (s.vchan k v).part = some p → p < 8 →
    Uninjected s → (s.svc p).frames.length = 2 → (s.svc p).ward.length = 2 →
    let x := s.svc p
    let step := mAt msg 0 8
    let j := mAt msg 9 1
    let off := mAt msg 16 8
    let data := (mBody msg).drop 24
    let w := lget Frame.none x.ward j
    let f := lget Frame.none x.frames j
    let here := mJob msg = (s.imageOf p).jobId ∧ j < 2 ∧ off + data.length ≤ (s.frameArea p 0).2
    let slot := fun (i : Nat) => (s.frameArea p i).1
    let fills := fun (base : Nat) (u : State) => u.memBytes (base + off) data.length = data
      ∧ ∀ x, x < base + off ∨ base + off + data.length ≤ x → u.readByte x = s.readByte x
    let grows := fun (f g : Frame) => g.step = step ∧ g.here = false
      ∧ g.len = max (if f.step = step ∧ f.here = false then f.len else 0) (off + data.length)
    (here → Sound (slot (2 + j) + off) data.length s → Gives (.checkpointData k v msg) s fun u =>
      KeepsBut [.svcs, .ropes, .mem, .memCheck, .memEpoch, .memKey, .out] s u ∧ SvcsBut [p] s u ∧ fills (slot (2 + j)) u
      ∧ grows w (lget Frame.none (u.svc p).ward j) ∧ (u.svc p).frames = x.frames)
    ∧ (here → w.step = step → w.here = false → w.len ≠ 0 → Gives (.checkpointDone k v msg) s fun u =>
      KeepsBut [.svcs, .ropes, .out] s u ∧ SvcsBut [p] s u ∧ lget Frame.none (u.svc p).ward j = { w with here := true, acked := true }
      ∧ Sent k v 0x06 (ckBody step 1 j 0 []) u)
    ∧ (here → ¬(w.step = step ∧ w.here = false ∧ w.len ≠ 0) → f.step = step → f.here = true → f.acked = false →
        s.get (Reg.ROPE_PEER_PEER_ID k) = (s.imageOf p).buddyId → s.get (Reg.CKPT_CFG_COLD_MULT p) = 0 →
      Gives (.checkpointDone k v msg) s fun u =>
        KeepsBut [.svcs, .ropes, .regs, .out] s u ∧ SvcsBut [p] s u ∧ lget Frame.none (u.svc p).frames j = { f with acked := true }
        ∧ u.get (Reg.HOT_CKPT_STEP_STEP p) = step % 2 ^ 64)
    ∧ (∀ i, here → x.ward.findIdx? (fun w => w.step == step && w.complete) = some i → Sound (slot (2 + i)) (lget Frame.none x.ward i).len s →
      Gives (.checkpointFetch k v msg) s fun u =>
        let n := (lget Frame.none x.ward i).len
        KeepsBut [.ropes, .out] s u ∧ Sent k v 0x06 (ckBody step 4 i 0 []) u
        ∧ ∀ q, q * 0x1_0000 < n → Sent k v 0x06 (ckBody step 3 i (q * 0x1_0000)
            (s.memBytes (slot (2 + i) + q * 0x1_0000) (min 0x1_0000 (n - q * 0x1_0000)))) u)
    ∧ (here → x.restore = some step → Sound (slot j + off) data.length s → Gives (.checkpointReturn k v msg) s fun u =>
      fills (slot j) u ∧ SvcsBut [p] s u ∧ grows f (lget Frame.none (u.svc p).frames j))
    ∧ (∀ o, here → x.restore = some step → x.order = some o → (∀ n, s.lineFails n = false) → Gives (.checkpointReturnDone k v msg) s fun u =>
      (u.svc p).restore = none ∧ (u.svc p).decided = step ∧ (u.svc p).order = some { o with workDone := true }
      ∧ (u.part p).count = ofLe (((s.memBytes (slot j) f.len).drop 16).take 8) ∧ StagesAt p (step + 1) s u)
    ∧ (¬here → ∀ c ∈ [Instr.checkpointData k v msg, .checkpointDone k v msg, .checkpointFetch k v msg, .checkpointReturn k v msg,
        .checkpointReturnDone k v msg], Gives c s (KeepsBut [.ropes, .out] s))
    ∧ (x.restore ≠ some step → Gives (.checkpointReturn k v msg) s (KeepsBut [.ropes, .out] s)
      ∧ Gives (.checkpointReturnDone k v msg) s (KeepsBut [.ropes, .out] s))

/-- Storage, snapshots and the journal (13 R472, R473, R476 to R481, R484, R485): the storage service's answers carry a cold checkpoint
on, end it or fail it; a pin holds the NEWEST slot and its half until UNPIN or its time ends; a compaction copies the applied records to
the other device, which becomes active; availability and event counts are journaled. -/
def Sys2Proof.Claims.StorageAndJournal : Prop :=
  ∀ (p : Nat) (now : W64) (entry : List Byte) (value : W32) (s : State), p < 8 →
    let x := s.svc p
    let v := value.toNat
    let n := s.det.rsps
    let id := ofLe (entry.take 2)
    let ok := lget 0 entry 2 = 0
    let current := s.bncReady 0 = true ∧ bit (s.get (Reg.MB_H2P_PEND 0)) 0 = true ∧ entry.length = 16
      ∧ bit (lget 0 entry 15).toNat 7 = (n / 32 % 2 == 0)
    let mine := fun (q : StorageReq) => x.storage = [q] ∧ q.id = id ∧ (∀ p', p' < 8 → p' ≠ p → (s.svc p').storage = [])
      ∧ ∀ p', p' < 8 → p' ≠ p → (s.svc p').frames.any Frame.cold = false
    let pinned := s.get (Reg.SNAP_STATUS_STATE p) = 2
    let j := s.journal
    let off := fun (c : Instr) => Gives c s (KeepsBut [.out] s)
    Gives .storageServiceBit s (fun u =>
      KeepsBut [.regs, .out] s u ∧ FieldsBut [Reg.MB_H2P_PEND 0] s u
      ∧ u.get (Reg.MB_H2P_PEND 0) = (s.get (Reg.MB_H2P_PEND 0) ||| 1) % 2 ^ 32)
    ∧ (∀ q, current → mine q → ok → q.sync = true → q.slot < x.frames.length → (∀ i, i ≠ q.slot → (lget Frame.none x.frames i).cold = false) →
      Gives (.storageResponse entry) s fun u =>
        u.det.rsps = n + 1 ∧ u.get (Reg.COLD_CKPT_STEP_STEP p) = q.step % 2 ^ 64 ∧ Recorded 0x0A06 [q.step % 2 ^ 32, q.step / 2 ^ 32] u
        ∧ (u.svc p).storage = [] ∧ (lget Frame.none (u.svc p).frames q.slot).cold = false)
    ∧ (∀ q, current → mine q → ok → q.sync = false → (lget Frame.none x.frames q.slot).len ≤ q.off + q.len →
      Gives (.storageResponse entry) s fun u =>
        (∃ r, (u.svc p).storage = [r] ∧ r.sync = true ∧ r.step = (lget Frame.none x.frames q.slot).step ∧ r.slot = q.slot)
        ∧ ∃ e, .host 0 (s.get (Reg.BNC_BASE_BASE 0) * 4096 + s.det.reqs % 32 * 64) e false ∈ u.out ∧ lget 0 e 0 = 2 ∧ e.length = 64)
    ∧ (∀ q, current → mine q → ok → q.sync = false → q.off + q.len < (lget Frame.none x.frames q.slot).len →
        let f := lget Frame.none x.frames q.slot
        let m := min s.storageRoom (f.len - (q.off + q.len))
        Sound ((s.frameArea p q.slot).1 + (q.off + q.len)) m s → Uninjected s →
      Gives (.storageResponse entry) s fun u =>
        (∃ r, (u.svc p).storage = [r] ∧ r.sync = false ∧ r.off = q.off + q.len ∧ r.len = m)
        ∧ .host 0 (s.get (Reg.BNC_BASE_BASE 0) * 4096 + 0x1000) (s.memBytes ((s.frameArea p q.slot).1 + (q.off + q.len)) m) false ∈ u.out)
    ∧ (∀ q, current → mine q → ¬ok → Gives (.storageResponse entry) s fun u =>
      u.get (Reg.BNC_STATUS_ERROR 0) = 1 ∧ (u.svc p).storage = [] ∧ (∀ f ∈ (u.svc p).frames, f.cold = false)
      ∧ ∀ f ∈ x.frames, f.cold = true → Recorded 0x0A07 [f.step % 2 ^ 32, f.step / 2 ^ 32] u)
    ∧ (s.bncReady 0 = true → bit (s.get (Reg.MB_H2P_PEND 0)) 0 = true → entry.length = 16 →
        bit (lget 0 entry 15).toNat 7 ≠ (n / 32 % 2 == 0) → Gives (.storageResponse entry) s fun u =>
      KeepsBut [.regs, .out] s u ∧ u.get (Reg.MB_H2P_PEND 0) = (s.get (Reg.MB_H2P_PEND 0) - 1) % 2 ^ 32)
    ∧ (∀ i, s.pkg ≠ .boot → bit v 31 = true → ¬pinned → s.newestSlot? p = some i → Gives (.snapPin p value) s fun u =>
      KeepsBut [.svcs, .regs, .out] s u ∧ SvcsBut [p] s u ∧ u.get (Reg.SNAP_STATUS_STATE p) = 2 ∧ u.get (Reg.SNAP_STATUS_SLOT p) = i % 8
      ∧ u.get (Reg.SNAP_STATUS_HALF p) = (s.part p).count % 2 ∧ u.get (Reg.SNAP_STEP_STEP p) = s.get (Reg.COMMITTED_STEP_STEP p) % 2 ^ 64
      ∧ (u.svc p).pinEnd = some (s.time + max 1 (bits v 0 16) * 1000000))
    ∧ (s.pkg ≠ .boot → bit v 31 = true → pinned → Gives (.snapPin p value) s fun u =>
      KeepsBut [.regs, .out] s u ∧ FieldsBut [Reg.SNAP_CTRL_MAX_MS p] s u)
    ∧ (s.pkg ≠ .boot → bit v 30 = true → pinned → Gives (.snapUnpin p value) s fun u =>
      KeepsBut [.svcs, .regs, .out] s u ∧ u.get (Reg.SNAP_STATUS_STATE p) = 0 ∧ u.svc p = { x with pinEnd := none })
    ∧ (∀ t, pinned → x.pinEnd = some t → t ≤ max s.time now.toNat → Gives (.snapExpiry now p) s fun u =>
      KeepsBut [.svcs, .regs, .time, .out] s u ∧ u.get (Reg.SNAP_STATUS_STATE p) = 3 ∧ u.svc p = { x with pinEnd := none })
    ∧ (∀ t, x.pinEnd = some t → max s.time now.toNat < t → Gives (.snapExpiry now p) s (KeepsBut [.time, .out] s))
    ∧ (s.pkg ≠ .boot → j.copying = false →
      (j.active = some false → Gives .jrnCompact s fun u =>
        KeepsBut [.journal, .out] s u ∧ u.journal.hdr1 = ⟨(j.hdr0.generation + 1) % 2 ^ 32, 1⟩
        ∧ u.journal.recs1 = j.applied.map (fun r => (r, true)) ∧ u.journal.hdr0 = j.hdr0 ∧ u.journal.recs0 = j.recs0)
      ∧ (j.active = some true → Gives .jrnCompact s fun u =>
        KeepsBut [.journal, .out] s u ∧ u.journal.hdr0 = ⟨(j.hdr1.generation + 1) % 2 ^ 32, 1⟩
        ∧ u.journal.recs0 = j.applied.map (fun r => (r, true)) ∧ u.journal.hdr1 = j.hdr1 ∧ u.journal.recs1 = j.recs1))
    ∧ (j.hdr0.state ≠ 1 → j.hdr1.state = 1 → Gives .journalCompacted s fun u =>
      KeepsBut [.journal, .regs, .det, .seq, .rings, .out] s u ∧ u.journal.hdr1 = { j.hdr1 with state := 2 }
      ∧ u.journal.recs1 = j.recs1 ++ j.held.map (fun r => (r, true)) ∧ Recorded 0x0011 [] u
      ∧ u.get Reg.JRN_COUNTS_COMPACTIONS = min (2 ^ Reg.JRN_COUNTS_COMPACTIONS.width - 1) (s.get Reg.JRN_COUNTS_COMPACTIONS + 1)
      ∧ (j.hdr0.state ≠ 2 ∨ j.hdr0.generation < j.hdr1.generation → u.journal.active = some true))
    ∧ (j.copying = false → off .journalCompacted)
    ∧ (s.pkg ≠ .boot → s.pins.falling = false → Gives .availJournal s fun u =>
      KeepsBut [.journal, .regs, .out] s u ∧ Journaled 9 p (leBytes 4 (s.get (Reg.AVAIL_LOCAL_MS p)) ++ leBytes 4 (s.get (Reg.AVAIL_OTHER_MS p))) u)
    ∧ (s.pkg ≠ .boot → s.pins.falling = false → Gives .eventSummaryJournal s fun u =>
      KeepsBut [.journal, .regs, .det, .out] s u ∧ u.det = { s.det with evCounts := [] }
      ∧ Journaled 10 0 (s.det.evCounts.flatMap fun x => leBytes 2 x.1 ++ leBytes 2 x.2) u)

/-- Checkpoints, storage and the journal (13 R468 to R481). -/
def Obligations.CheckpointsAndJournal : Prop :=
  Claims.CheckpointMessages ∧ Claims.StorageAndJournal

/-! ## Tenancy, keys and debug -/

/-- The operator's side of a partition's life (14 R487, R488, R510): an OFFER in UNASSIGNED without one is refused with the first cause that
holds, else stands; WITHDRAW clears it; RECLAIM ends a tenancy; a write with no bit or more than one, or out of place, is ignored. -/
def Sys2Proof.Claims.PartitionOffers : Prop :=
  ∀ (p : Nat) (value : W32) (s : State), p < 8 → s.pkg ≠ .boot →
    let b := bits value.toNat 29 3
    let first := s.get (Reg.PART_ALLOT_BASE_GIB p)
    let size := s.get (Reg.PART_ALLOT_SIZE_GIB p)
    let open_ := s.partState p = 0 ∧ s.get (Reg.PART_SEC_STATUS_OFFERED p) ≠ 1
    let overlaps := ∃ q, q < 8 ∧ q ≠ p ∧ (s.get (Reg.PART_SEC_STATUS_OFFERED q) = 1 ∨ s.partState q ≠ 0)
      ∧ first < s.get (Reg.PART_ALLOT_BASE_GIB q) + s.get (Reg.PART_ALLOT_SIZE_GIB q) ∧ s.get (Reg.PART_ALLOT_BASE_GIB q) < first + size
    let nobody := ∀ w, w < 8 → s.get (Reg.TENANT_ID p w) = 0
    let refused := fun n => Gives (.partOffer p value) s fun u =>
      KeepsBut [.regs, .out] s u ∧ FieldsBut [Reg.PART_SEC_STATUS_OFFER_ERR p] s u ∧ u.get (Reg.PART_SEC_STATUS_OFFER_ERR p) = n
    (b = 4 → open_ → size = 0 → refused 1)
    ∧ (b = 4 → open_ → size ≠ 0 → 1020 < first + size → refused 2)
    ∧ (b = 4 → open_ → size ≠ 0 → first + size ≤ 1020 → overlaps → refused 3)
    ∧ (b = 4 → open_ → size ≠ 0 → first + size ≤ 1020 → ¬overlaps → nobody → refused 4)
    ∧ (b = 4 → open_ → size ≠ 0 → first + size ≤ 1020 → ¬overlaps → (∃ w, w < 8 ∧ s.get (Reg.TENANT_ID p w) % 2 ^ 32 ≠ 0) →
      Gives (.partOffer p value) s fun u =>
        KeepsBut [.regs, .det, .seq, .rings, .out] s u ∧ u.partState p = 0 ∧ u.get (Reg.PART_SEC_STATUS_OFFERED p) = 1
        ∧ u.get (Reg.PART_SEC_STATUS_OFFER_ERR p) = 0 ∧ Recorded 0x0B00 [p] u)
    ∧ (b ≠ 4 ∨ ¬open_ → Gives (.partOffer p value) s (KeepsBut [.out] s))
    ∧ (b = 1 → s.partState p = 0 → s.get (Reg.PART_SEC_STATUS_OFFERED p) = 1 → Gives (.partWithdraw p value) s fun u =>
      KeepsBut [.regs, .out] s u ∧ FieldsBut [Reg.PART_SEC_STATUS_OFFERED p] s u ∧ u.get (Reg.PART_SEC_STATUS_OFFERED p) = 0)
    ∧ (b ≠ 1 ∨ s.partState p ≠ 0 ∨ s.get (Reg.PART_SEC_STATUS_OFFERED p) ≠ 1 → Gives (.partWithdraw p value) s (KeepsBut [.out] s))
    ∧ (b = 2 → s.partState p = 1 ∨ s.partState p = 2 → Gives (.partReclaim p value) s (TenancyEnds p s))
    ∧ (b ≠ 2 ∨ (s.partState p ≠ 1 ∧ s.partState p ≠ 2) → Gives (.partReclaim p value) s (KeepsBut [.out] s))

/-- A tenant's commands (14 R487, R494, R496, R497, 09 R333): from the tenant's own session each has its effect in the states that accept it
and answers OK, and else answers why not and changes nothing. A new key number stands for keys drawn at random (log 1). -/
def Sys2Proof.Claims.TenantCommands : Prop :=
  ∀ (fn id p slot : Nat) (signer secret : List Byte) (epoch : W16) (s : State),
    let own := [Instr.enrollRigKey fn id p slot signer, .linkStage fn id p epoch secret, .linkSwitch fn id p epoch, .memRotate fn id p,
      .end_ fn id p, .status fn id p]
    let offered := s.get (Reg.PART_SEC_STATUS_OFFERED p) = 1
    let held := s.partState p = 1 ∨ s.partState p = 2
    let l := s.link p
    let k := tget MemKeys.init s.sec.mem p
    let current := (l.cur.map Prod.fst).getD 0
    let job := (s.imageOf p).jobId
    let channels := fun (f : VChan → VChan) (u : State) => ∀ r, r < 18 → { u.rope r with chans := (s.rope r).chans } = s.rope r
      ∧ ∀ v, u.vchan r v = if (s.vchan r v).part = some p ∧ v < 8 then f (s.vchan r v) else s.vchan r v
    (TenantSession fn id p s →
      (s.partState p = 0 → offered → Gives (.claim fn id p) s fun u =>
        KeepsBut [.regs, .sec, .free, .out] s u ∧ u.out = [.status 0] ∧ FieldsBut [partFld p] s u ∧ u.partState p = 1
        ∧ u.sec = { s.sec with mem := u.sec.mem } ∧ (∀ q, q ≠ p → tget MemKeys.init u.sec.mem q = tget MemKeys.init s.sec.mem q)
        ∧ ∃ a b, 0 < a ∧ 0 < b ∧ tget MemKeys.init u.sec.mem p = ⟨a, b, 0, 0, []⟩)
      ∧ (s.partState p < 16 → s.partState p ≠ 0 ∨ ¬offered → Says 1 [] (.claim fn id p) s)
      ∧ (s.partState p = 1 → slot < 4 → Gives (.enrollRigKey fn id p slot signer) s fun u =>
        KeepsBut [.sec, .out] s u ∧ u.out = [.status 0] ∧ u.sec = { s.sec with rigKeys := u.sec.rigKeys }
        ∧ tget [] u.sec.rigKeys (4 * p + slot) = (if (∀ b ∈ fit 0 32 signer, b = 0) then [] else fit 0 32 signer)
        ∧ ∀ n, n ≠ 4 * p + slot → tget [] u.sec.rigKeys n = tget [] s.sec.rigKeys n)
      ∧ (s.partState p = 1 → 4 ≤ slot → Says 1 [] (.enrollRigKey fn id p slot signer) s)
      ∧ (s.partState p ≠ 1 → Says 1 [] (.enrollRigKey fn id p slot signer) s)
      ∧ (held → epoch.toNat ≤ current → Says 5 [] (.linkStage fn id p epoch secret) s)
      ∧ (held → current < epoch.toNat → s.linkBusy p = true → Says 3 [] (.linkStage fn id p epoch secret) s)
      ∧ (held → current < epoch.toNat → s.linkBusy p = false → Gives (.linkStage fn id p epoch secret) s fun u =>
        KeepsBut [.sec, .ropes, .out] s u ∧ u.out = [.status 0] ∧ u.link p = { l with staged := some (epoch.toNat, fit 0 32 secret) }
        ∧ channels (fun c => c.load (1 - c.sendSlot) (linkKey (fit 0 32 secret) job epoch.toNat)) u)
      ∧ (held → (∀ x, l.staged = some x → x.1 ≠ epoch.toNat) → Says 4 [] (.linkSwitch fn id p epoch) s)
      ∧ (∀ x, held → l.staged = some (epoch.toNat, x) → Gives (.linkSwitch fn id p epoch) s fun u =>
        KeepsBut [.sec, .ropes, .out] s u ∧ u.out = [.status 0] ∧ u.link p = ⟨some (epoch.toNat, x), 1 - l.slot, none⟩
        ∧ channels VChan.switch u)
      ∧ (held → k.sweeping ≠ [] → Says 3 [] (.memRotate fn id p) s)
      ∧ (held → k.sweeping = [] → Gives (.memRotate fn id p) s fun u =>
        let k' := tget MemKeys.init u.sec.mem p
        KeepsBut [.sec, .ucs, .free, .out] s u ∧ u.out = [.status 0] ∧ k'.cur = 1 - k.cur ∧ (∀ n, n < 16 → n ∈ k'.sweeping)
        ∧ (k.cur = 0 → 0 < k'.key1 ∧ k'.key0 = k.key0) ∧ (k.cur ≠ 0 → 0 < k'.key0 ∧ k'.key1 = k.key1)
        ∧ ∀ n, n < 16 → tget 0 (u.uc n).sweep p = 0)
      ∧ (held → Gives (.end_ fn id p) s fun u => TenancyEnds p s u ∧ .status 0 ∈ u.out)
      ∧ (¬held → ∀ c ∈ [Instr.linkStage fn id p epoch secret, .linkSwitch fn id p epoch, .memRotate fn id p, .end_ fn id p], Says 1 [] c s)
      ∧ (s.partState p < 16 → Gives (.status fn id p) s fun u => KeepsBut [.out] s u ∧ ∃ w, u.out = [.value w, .status 0]
        ∧ bits w 31 1 = s.get (Reg.PART_SEC_STATUS_OFFERED p) % 2 ∧ bits w 30 1 = b2n l.cur.isSome ∧ bits w 29 1 = b2n l.staged.isSome
        ∧ bits w 28 1 = b2n (s.linkBusy p) ∧ bits w 27 1 = b2n !k.sweeping.isEmpty ∧ bits w 20 4 = s.get (Reg.PART_SEC_STATUS_OFFER_ERR p) % 16
        ∧ bits w 0 16 = current % 2 ^ 16))
    ∧ (fn < 9 → s.doeBusy fn = true → ∀ c ∈ .claim fn id p :: own, Says 0x103 [] c s)
    ∧ (fn < 9 → s.doeBusy fn = false → s.session? fn id = none → ∀ c ∈ .claim fn id p :: own, Says 0x102 [] c s)
    ∧ (∀ x, fn < 9 → s.doeBusy fn = false → s.session? fn id = some x →
      (x.established = false ∨ x.owner = [] ∨ 8 ≤ p ∨ (fn ≠ 0 ∧ fn ≠ p + 1) → ∀ c ∈ .claim fn id p :: own, Says 2 [] c s)
      ∧ (Config.shake256 x.owner 32 ≠ s.tenantId p → ∀ c ∈ own, Says 2 [] c s)
      ∧ (Config.shake256 x.owner 32 ≠ s.tenantId p → s.partState p = 0 → offered → Says 2 [] (.claim fn id p) s))

/-- Offers of partitions and the commands of tenants (14 R487, R494 to R497). -/
def Obligations.Tenancies : Prop :=
  Claims.PartitionOffers ∧ Claims.TenantCommands

/-- A scrub's phases in turn (14 R505): Close, Erase keys, Overwrite, Forget; each happens once, for the partition at the front of the queue,
and a phase out of its turn is ignored. -/
def Sys2Proof.Claims.ScrubsInPhases : Prop :=
  (∀ s : State, s.sec.scrubs = [] → ∀ c ∈ [Instr.scrubStart, .scrubKeysErased, .scrubOverwriteDone, .partScrubbed],
    Gives c s (KeepsBut [.out] s))
  ∧ ∀ (p : Nat) (rest : List Nat) (s : State), p < 8 → s.sec.scrubs = p :: rest →
    let told := fun x => x ∈ s.sec.unavailable ∧ x.1 = p
    let closed := fun x v => told x ∧ v < 8 ∧ bit x.2.2.2 v = true ∧ v < (s.rope x.2.1).chans.length ∧ (s.vchan x.2.1 v).part = none
    let low := s.get (Reg.PART_ALLOT_BASE_GIB p) * 2 ^ 30
    let high := low + s.get (Reg.PART_ALLOT_SIZE_GIB p) * 2 ^ 30
    (s.sec.scrubPhase = 0 → Gives .scrubStart s fun u =>
      KeepsBut [.regs, .hces, .rings, .ropes, .sec, .out] s u ∧ u.sec = { s.sec with scrubPhase := 1 }
      ∧ (∀ i, i < 64 → s.get (Reg.PLC_CFG_PARTITION i) = p → u.get (Reg.PLC_CFG_VALID i) = 0)
      ∧ (∀ e, e < 16 → s.engineFn? e = some (p + 1) → u.hce e = Hce.init ∧ u.get (Reg.HCE_CTRL_ENABLE e) = 0
        ∧ u.get (Reg.HCE_STATUS_STATE e) = 0)
      ∧ (u.ring (p + 1)).pend = [] ∧ RingsBut [p + 1] s u
      ∧ (∀ x v, closed x v → (u.vchan x.2.1 v).tx = [] ∧ (u.vchan x.2.1 v).txCut = false)
      ∧ ∀ x, told x → Sent x.2.1 8 0x19 (leBytes 4 x.2.2.1 ++ leBytes 1 x.2.2.2 ++ leBytes 3 0) u)
    ∧ (s.sec.scrubPhase = 1 → Gives .scrubKeysErased s fun u =>
      KeepsBut [.ropes, .sec, .regs, .out] s u ∧ u.sec.scrubPhase = 2 ∧ tget MemKeys.init u.sec.mem p = MemKeys.init ∧ u.link p = Link.init
      ∧ tget Ide.init u.sec.ide p = Ide.init ∧ (∀ q, q ≠ p → tget MemKeys.init u.sec.mem q = tget MemKeys.init s.sec.mem q ∧ u.link q = s.link q)
      ∧ ∀ x v, closed x v → (u.vchan x.2.1 v).key0 = 0 ∧ (u.vchan x.2.1 v).key1 = 0)
    ∧ (s.sec.scrubPhase = 2 → Gives .scrubOverwriteDone s fun u =>
      KeepsBut [.mem, .memCheck, .memEpoch, .memKey, .ucs, .ropes, .sec, .out] s u ∧ u.sec = { s.sec with scrubPhase := 3 }
      ∧ BytesBut low (high - low) s u ∧ (∀ o, low ≤ o → o < high → u.memByte o = 0)
      ∧ (∀ n, low ≤ n * 64 → n * 64 < high → tget 0 u.memEpoch n = 0 ∧ tget 0 u.memKey n = 0 ∧ u.lineFails n = false)
      ∧ (∀ n, n < 16 → (s.uc n).user = p + 1 → (u.uc n).scratch = [] ∧ (u.uc n).v = [])
      ∧ (∀ n, n < 16 → (s.uc n).user ≠ p + 1 → u.uc n = s.uc n)
      ∧ ∀ x v, closed x v → (u.vchan x.2.1 v).early = [])
    ∧ (s.sec.scrubPhase = 3 → Gives .partScrubbed s fun u =>
      let commit := [Reg.COMMITTED_STEP_STEP p, Reg.COMMITTED_INFO_VALID p, Reg.COMMITTED_INFO_SKIPPED p, Reg.COMMITTED_INFO_VERSION p,
        Reg.COMMITTED_INFO_SKIP_COUNT p, Reg.COMMITTED_JOB_JOB_ID p, Reg.HOT_CKPT_STEP_STEP p, Reg.COLD_CKPT_STEP_STEP p]
      KeepsBut [.regs, .sec, .det, .seq, .rings, .out] s u ∧ u.partState p = 0 ∧ u.get (Reg.PART_SEC_STATUS_OFFERED p) = 0
      ∧ (∀ w, w < 8 → u.get (Reg.TENANT_ID p w) = 0) ∧ (∀ i, i < 4 → tget [] u.sec.rigKeys (4 * p + i) = []) ∧ u.link p = Link.init
      ∧ (∀ f ∈ commit, u.get f = f.reset) ∧ u.sec.scrubs = rest ∧ u.sec.scrubPhase = 0 ∧ Recorded 0x0B05 [p] u
      ∧ u.get (Reg.PART_ALLOT_BASE_GIB p) = s.get (Reg.PART_ALLOT_BASE_GIB p) ∧ u.get (Reg.DEBUG_READS_COUNT p) = s.get (Reg.DEBUG_READS_COUNT p)
      ∧ u.get (Reg.PART_ALLOT_SIZE_GIB p) = s.get (Reg.PART_ALLOT_SIZE_GIB p) ∧ u.get (Reg.DEBUG_WRITES_COUNT p) = s.get (Reg.DEBUG_WRITES_COUNT p))
    ∧ (∀ x ∈ [(Instr.scrubStart, 0), (.scrubKeysErased, 1), (.scrubOverwriteDone, 2), (.partScrubbed, 3)],
      s.sec.scrubPhase ≠ x.2 → Gives x.1 s (KeepsBut [.out] s))

/-- The fabric secret (14 R498, R509): STAGE holds SEC_FAB_SECRET under a later epoch, or is refused and reported; SWITCH puts the staged
epoch in force: a rope that is ACTIVE or in GRACE loads its new rope key beside the old one, any other clears an old one, and a rope
that waits for a secret begins bring-up; without a staged epoch it is ignored. -/
def Sys2Proof.Claims.FabricSecret : Prop :=
  ∀ (value : W32) (s : State), s.pkg ≠ .boot →
    let e := bits value.toNat 0 16
    let stages := bit value.toNat 31 = true
    let switches := bit value.toNat 30 = true
    let stored := fun u => KeepsBut [.regs, .out] s u ∧ FieldsBut [Reg.SEC_FAB_CTRL_EPOCH] s u ∧ u.get Reg.SEC_FAB_CTRL_EPOCH = e
    (¬stages → Gives (.fabStage value) s stored)
    ∧ (stages → e ≤ s.fabEpoch ∨ s.fabBusy = true → Gives (.fabStage value) s fun u =>
      KeepsBut [.regs, .det, .seq, .rings, .out] s u ∧ u.get Reg.SEC_FAB_CTRL_EPOCH = e ∧ Recorded 0x0B03 [e] u)
    ∧ (stages → s.fabEpoch < e → s.fabBusy = false → Gives (.fabStage value) s fun u =>
      KeepsBut [.regs, .sec, .out] s u ∧ FieldsBut [Reg.SEC_FAB_CTRL_EPOCH] s u ∧ u.get Reg.SEC_FAB_CTRL_EPOCH = e
      ∧ u.sec = { s.sec with fabStaged := some (e, (upFrom 0 8).flatMap fun w => leBytes 4 (s.get (Reg.SEC_FAB_SECRET w))) })
    ∧ (¬switches ∨ s.sec.fabStaged = none → Gives (.fabSwitch value) s stored)
    ∧ (∀ x, switches → s.sec.fabStaged = some x → Gives (.fabSwitch value) s fun u =>
      KeepsBut [.regs, .sec, .ropes, .out] s u ∧ u.sec = { s.sec with fab := some x, fabStaged := none }
      ∧ ∀ k, k < 18 → 8 < (s.rope k).chans.length →
        let c := s.vchan k 8
        let key := ropeKey x.2 x.1 (s.get Reg.PKG_ID_ID, k) (s.get (Reg.ROPE_PEER_PEER_ID k), s.get (Reg.ROPE_PEER_PEER_ROPE k))
        let up := s.ropeSt k = 3 ∨ s.ropeSt k = 4
        (up → key ≠ 0 → c.keyAt c.sendSlot ≠ key → (u.vchan k 8).next = some (1 - c.sendSlot) ∧ (u.vchan k 8).keyAt (1 - c.sendSlot) = key
          ∧ (c.keyAt c.sendSlot ≠ 0 → (u.vchan k 8).old = some c.sendSlot))
        ∧ (¬up → (u.vchan k 8).old = none ∧ ∀ i, c.old = some i → (u.vchan k 8).keyAt i = 0)
        ∧ (s.ropeSt k = 1 → (s.rope k).phase = 0 → (u.rope k).phase = b2n (k < 6 || s.get (Reg.LASER_STATUS_STATE ((k - 6) / 2)) == 2)))

/-- Scrubs, and the fabric secret (14 R498, R505, R509). -/
def Obligations.ScrubsAndFabricKeys : Prop :=
  Claims.ScrubsInPhases ∧ Claims.FabricSecret

/-- Opening operator debug (14 R501, R511): KEY_LOCK can only be set; UNLOCK draws a new challenge and opens debug on a good token, else
counts the failure, and after 8 failures does nothing; RELOCK closes it. -/
def Sys2Proof.Claims.DebugOpens : Prop :=
  ∀ (value : W32) (s : State), s.pkg ≠ .boot →
    let unlocks := bit value.toNat 30 = true
    let locked := fun (u : State) => u.get Reg.DBG_CTRL_KEY_LOCK = if bit value.toNat 31 then 1 else s.get Reg.DBG_CTRL_KEY_LOCK
    let key := (upFrom 0 8).flatMap fun w => leBytes 4 (s.get (Reg.DBG_KEY w))
    let asked := ((upFrom 0 8).flatMap fun w => leBytes 4 (s.get (Reg.DBG_CHALLENGE w))) ++ leBytes 2 (s.get Reg.PKG_ID_ID)
    let t := dbgToken s
    let good := (∃ b ∈ key, b ≠ 0) ∧ Config.shake256 (t.take 0x7A0) 32 = key
      ∧ Config.mldsaVerify (t.take 0x7A0) (Config.shake256 asked 64) ((t.drop 0x7A0).take 3309) = true
    (¬unlocks ∨ 8 ≤ s.sec.fails → Gives (.debugUnlock value) s fun u =>
      KeepsBut [.regs, .out] s u ∧ FieldsBut [Reg.DBG_CTRL_KEY_LOCK] s u ∧ locked u)
    ∧ (unlocks → s.sec.fails < 8 → Gives (.debugUnlock value) s fun u =>
      KeepsBut [.regs, .sec, .free, .det, .seq, .rings, .out] s u ∧ locked u
      ∧ (∀ w, w < 8 → u.get (Reg.DBG_CHALLENGE w) = (Config.freeValue (s.free + w)).toNat % 2 ^ 32)
      ∧ (good → u.get Reg.DBG_STATUS_UNLOCKED = 1 ∧ u.sec = { s.sec with unlocks := s.sec.unlocks + 1, counted := [] } ∧ Recorded 0x0B01 [] u)
      ∧ (¬good → u.get Reg.DBG_STATUS_UNLOCKED = s.get Reg.DBG_STATUS_UNLOCKED ∧ u.sec = { s.sec with fails := s.sec.fails + 1 }
        ∧ u.get Reg.DBG_STATUS_FAILS = min 0xFFFF (s.get Reg.DBG_STATUS_FAILS + 1) ∧ Recorded 0x0B02 [] u))
    ∧ (bit value.toNat 29 = true → Gives (.debugRelock value) s fun u =>
      KeepsBut [.regs, .sec, .out] s u ∧ FieldsBut [Reg.DBG_CTRL_KEY_LOCK, Reg.DBG_STATUS_UNLOCKED] s u ∧ locked u
      ∧ u.get Reg.DBG_STATUS_UNLOCKED = 0 ∧ u.sec = { s.sec with counted := [] })
    ∧ (bit value.toNat 29 = false → Gives (.debugRelock value) s fun u =>
      KeepsBut [.regs, .out] s u ∧ FieldsBut [Reg.DBG_CTRL_KEY_LOCK] s u ∧ locked u)

/-- Debug accesses (14 R502, R503, 16 R541): while debug is locked none happens; one that fails its check reports the status without an
effect; one to Yuseon reads or writes the bytes, and one that touches a partition's is counted against it, reported, and covered by a
journaled count. An instrument of the test port does the same and answers at the port. -/
def Sys2Proof.Claims.DebugAccesses : Prop :=
  ∀ (write : Bool) (addr : W64) (len : Nat) (data : List Byte) (value : W32) (s : State), s.pkg ≠ .boot →
    let v := value.toNat
    let n := bits v 0 9
    let o := fabOff addr.toNat
    let here := fabPkg addr.toNat = s.get Reg.PKG_ID_ID
    let words := ((upFrom 0 64).flatMap fun w => leBytes 4 (s.get (Reg.DBG_DATA w))).take n
    let asks : FabReq := ⟨.debug false, if bit v 30 then opWrite else opRead, 0, n, addr.toNat, words⟩
    let goes := bit v 31 = true ∧ s.get Reg.DBG_STATUS_UNLOCKED = 1 ∧ s.get Reg.DBG_STATUS_BUSY ≠ 1 ∧ s.get Reg.DBG_ADDR_ADDR = addr.toNat
    let probe : FabReq := ⟨.debug true, if write then opWrite else opRead, 0, len, addr.toNat, fit 0 len data⟩
    let open_ := s.get Reg.DBG_STATUS_UNLOCKED = 1
    let touches := fun p => s.debugPart addr.toNat = some p
    let counted := fun (p : Nat) (w : Bool) (size : Nat) (u : State) =>
      let r := s.get (Reg.DEBUG_READS_COUNT p) + b2n (!w)
      let x := s.get (Reg.DEBUG_WRITES_COUNT p) + b2n w
      u.get (Reg.DEBUG_READS_COUNT p) = min (2 ^ 32 - 1) r ∧ u.get (Reg.DEBUG_WRITES_COUNT p) = min (2 ^ 32 - 1) x
      ∧ Recorded 0x0B06 [p, addr.toNat % 2 ^ 32, addr.toNat / 2 ^ 32, b2n w, size] u
      ∧ (p ∉ s.sec.counted → s.pins.falling = false → Journaled 7 p (leBytes 4 (upTo1024 r) ++ leBytes 4 (upTo1024 x)) u)
    (bit v 31 = false ∨ s.get Reg.DBG_STATUS_UNLOCKED ≠ 1 ∨ s.get Reg.DBG_STATUS_BUSY = 1 → Gives (.dbgGo value []) s (KeepsBut [.out] s))
    ∧ (¬open_ → Gives (.instrumentAccess write addr len data []) s (KeepsBut [.out] s))
    ∧ (goes → here → s.fabCheck asks ≠ 0 → Gives (.dbgGo value []) s fun u =>
      KeepsBut [.regs, .out] s u ∧ u.get Reg.DBG_STATUS_RESULT = s.fabCheck asks % 16 ∧ u.get Reg.DBG_STATUS_BUSY = 0
      ∧ FieldsBut [Reg.DBG_STATUS_RESULT, Reg.DBG_STATUS_BUSY] s u)
    ∧ (∀ p, p < 8 → goes → here → bit v 30 = false → s.fabCheck asks = 0 → fabCls addr.toNat = 0 → Sound o n s → touches p →
      s.get (Reg.DEBUG_READS_COUNT p) < 2 ^ 32 → s.get (Reg.DEBUG_WRITES_COUNT p) < 2 ^ 32 → Gives (.dbgGo value []) s fun u =>
        u.mem = s.mem ∧ u.treads = s.treads ∧ u.get Reg.DBG_STATUS_RESULT = 0 ∧ counted p false n u
        ∧ ∀ w, w < n / 4 → u.get (Reg.DBG_DATA w) = s.memLe (o + 4 * w) 4)
    ∧ (∀ p, p < 8 → Uninjected s → goes → here → bit v 30 = true → s.fabCheck asks = 0 → fabCls addr.toNat = 0 → Sound o n s → touches p →
      s.get (Reg.DEBUG_READS_COUNT p) < 2 ^ 32 → s.get (Reg.DEBUG_WRITES_COUNT p) < 2 ^ 32 → Gives (.dbgGo value []) s fun u =>
        u.get Reg.DBG_STATUS_RESULT = 0 ∧ counted p true n u ∧ BytesBut o n s u
        ∧ ∀ w, w < n / 4 → u.memLe (o + 4 * w) 4 = s.get (Reg.DBG_DATA w) % 2 ^ 32)
    ∧ (∀ p, p < 8 → open_ → here → write = false → s.fabCheck probe = 0 → fabCls addr.toNat = 0 → Sound o len s → touches p →
      s.get (Reg.DEBUG_READS_COUNT p) < 2 ^ 32 → s.get (Reg.DEBUG_WRITES_COUNT p) < 2 ^ 32 → Gives (.instrumentAccess write addr len data []) s
        fun u => u.mem = s.mem ∧ u.treads = s.treads ∧ counted p false len u ∧ .status 0 ∈ u.out ∧ .bytes (s.memBytes o len) ∈ u.out)
    ∧ (∀ p, p < 8 → Uninjected s → open_ → here → write = true → s.fabCheck probe = 0 → fabCls addr.toNat = 0 → Sound o len s → touches p →
      s.get (Reg.DEBUG_READS_COUNT p) < 2 ^ 32 → s.get (Reg.DEBUG_WRITES_COUNT p) < 2 ^ 32 → Gives (.instrumentAccess write addr len data []) s
        fun u => counted p true len u ∧ BytesBut o len s u ∧ u.memBytes o len = fit 0 len data ∧ .status 0 ∈ u.out)
    ∧ (∀ f row col b t, open_ → here → write = false → s.fabCheck probe = 0 → fabCls addr.toNat = 1 → s.fabWaits probe = false →
      sramPlace o = .data f row col b → s.sramTarget (.data f row col b) = some t → Gives (.instrumentAccess write addr len data []) s fun u =>
        u.mem = s.mem ∧ u.treads = s.treads ∧ .bytes ((List.range len).map fun i => (s.tread t).dataByte (b + i)) ∈ u.out)

/-- Operator debug (14 R501 to R503). -/
def Obligations.OperatorDebug : Prop :=
  Claims.DebugOpens ∧ Claims.DebugAccesses

/-- Firmware (14 R491): an announced image is refused with the code of the first check that fails, or starts and is measured, and its bit is
taken; FUSE_SVN rises to the running image's SVN and never falls. Without the host's bit nothing happens, and while the buffer is not
registered or the physical function is detached the transfer fails (12 R429). -/
def Sys2Proof.Claims.FirmwareStarts : Prop :=
  ∀ (image : List Byte) (s : State),
    let pend := s.get (Reg.MB_H2P_PEND 2)
    let error := if Config.fwFormat image = false then 4 else if Config.fwSigned image = false then 1
      else if Config.fwPart image ≠ 0xB816 then 2 else if Config.fwSvn image < s.sec.fuseSvn then 3 else 0
    let rings := fun (b : Nat) (u : State) => bit (u.get (Reg.MB_P2H 2)) b = true
    let digest := Config.shake256 image 64
    let base := s.get (Reg.BNC_BASE_BASE 2)
    let ready := base ≠ 0 ∧ (s.ring 0).detached = 0
    (bit pend 0 = true → ¬ready → Gives (.firmwareImage image) s fun u =>
      KeepsBut [.regs, .out] s u ∧ FieldsBut [Reg.MB_H2P_PEND 2, Reg.BNC_STATUS_ERROR 2] s u
      ∧ bit (u.get (Reg.MB_H2P_PEND 2)) 0 = false ∧ u.get (Reg.BNC_STATUS_ERROR 2) = 1)
    ∧ (bit pend 0 = true → ready → Gives (.firmwareImage image) s fun u =>
      KeepsBut [.regs, .sec, .out] s u ∧ bit (u.get (Reg.MB_H2P_PEND 2)) 0 = false ∧ .hostRead 0 (base * 4096) image.length ∈ u.out
      ∧ (error ≠ 0 → u.sec = s.sec ∧ rings 1 u ∧ u.get (Reg.MB_P2H_MSG 2 0) % 256 = error)
      ∧ (error = 0 → Config.fwIsSecurity image = true → u.sec = { s.sec with fwSec := digest } ∧ rings 0 u)
      ∧ (error = 0 → Config.fwIsSecurity image = false →
        u.sec = { s.sec with fwNewel := digest, fwSvn := Config.fwSvn image % 256 } ∧ rings 0 u))
    ∧ (bit pend 0 = false → Gives (.firmwareImage image) s (KeepsBut [.out] s))
    ∧ (bit pend 1 = true → Gives .fuseSvnRaise s fun u =>
      KeepsBut [.regs, .sec, .out] s u ∧ bit (u.get (Reg.MB_H2P_PEND 2)) 1 = false ∧ rings 2 u
      ∧ u.sec = { s.sec with fuseSvn := max s.sec.fuseSvn s.sec.fwSvn })
    ∧ (bit pend 1 = false → Gives .fuseSvnRaise s (KeepsBut [.out] s))

/-! ## SPDM -/

/-- Identity and negotiation on a function's DOE mailbox (14 R490, R492, R493, R506): version, capabilities and algorithms are settled in that
order, and then digests, the chain, challenges and the measurements that the function may see are served, signed by the alias
key; a request out of order, outside what the package serves, or during a scrub answers an ERROR and changes nothing. -/
def Sys2Proof.Claims.SpdmIdentity : Prop :=
  ∀ (fn slot off len index : Nat) (request : List Byte) (offered : Bool) (s : State), fn < 9 →
    let v := s.spdm fn
    let t := v.transcript
    let requests := [(Instr.getVersion fn request, 0), (.getCapabilities fn request, 1), (.negotiateAlgorithms fn request offered, 2),
      (.getDigests fn, 3), (.getCertificate fn slot off len, 3), (.challenge fn slot request, 3), (.getMeasurements fn index request, 3),
      (.keyExchange fn request, 3)]
    let goesOn := fun (stage : Nat) (transcript : List Byte) (u : State) =>
      u.sec = { s.sec with fns := u.sec.fns } ∧ u.spdm fn = { v with stage := stage, transcript := transcript } ∧ ∀ f, f ≠ fn → u.spdm f = s.spdm f
    let digest := Config.shake256 s.chain 64
    let blocks := (if index = 0xFF then measured fn else [index]).flatMap s.block
    (s.doeBusy fn = true → ∀ x ∈ requests, Says 0x103 [] x.1 s)
    ∧ (s.doeBusy fn = false → ∀ x ∈ requests, v.stage < x.2 → Says 0x104 [] x.1 s)
    ∧ (Spoken fn 0 s → Gives (.getVersion fn request) s fun u =>
      KeepsBut [.sec, .out] s u ∧ u.out = [.bytes [0x00, 0x13]] ∧ goesOn 1 (request ++ [0x00, 0x13]) u)
    ∧ (Spoken fn 1 s → Gives (.getCapabilities fn request) s fun u =>
      KeepsBut [.sec, .out] s u ∧ u.out = [.bytes Config.spdmCapabilities] ∧ goesOn 2 (t ++ request ++ Config.spdmCapabilities) u)
    ∧ (Spoken fn 2 s → offered = true → Gives (.negotiateAlgorithms fn request offered) s fun u =>
      KeepsBut [.sec, .out] s u ∧ u.out = [.bytes Config.spdmAlgorithms] ∧ goesOn 3 (t ++ request ++ Config.spdmAlgorithms) u)
    ∧ (Spoken fn 2 s → offered = false → Says 0x101 [] (.negotiateAlgorithms fn request offered) s)
    ∧ (Spoken fn 3 s → Shows digest [] (.getDigests fn) s)
    ∧ (Spoken fn 3 s → slot = 0 → off ≤ s.chain.length → Shows ((s.chain.drop off).take len) [] (.getCertificate fn slot off len) s)
    ∧ (Spoken fn 3 s → slot = 0 → Shows (digest ++ Config.aliasSign s.tcb (t ++ request ++ digest)) [] (.challenge fn slot request) s)
    ∧ (Spoken fn 3 s → slot ≠ 0 → Says 0x101 [] (.getCertificate fn slot off len) s ∧ Says 0x101 [] (.challenge fn slot request) s)
    ∧ (Spoken fn 3 s → index = 0xFF ∨ index ∈ measured fn →
      Shows (blocks ++ Config.aliasSign s.tcb (t ++ request ++ blocks)) [] (.getMeasurements fn index request) s)
    ∧ (Spoken fn 3 s → index ≠ 0xFF → index ∉ measured fn → Says 0x101 [] (.getMeasurements fn index request) s)

/-- SPDM sessions and IDE keys (14 R492, R495, R500): KEY_EXCHANGE begins a session under an identifier of its own, at most four a function;
FINISH establishes it, mutually authenticated when the requester's signature verifies; keys are updated, the session kept alive or
ended; an established session keys the IDE streams that its function may. Any other request answers an ERROR. -/
def Sys2Proof.Claims.SpdmSessions : Prop :=
  ∀ (fn id stream op : Nat) (request key signature rx tx : List Byte) (s : State), fn < 9 → s.doeBusy fn = false →
    let v := s.spdm fn
    let held := (s.sec.sessions.filter fun x => x.fn == fn).length
    let inside := [Instr.keyUpdate fn id, .spdmHeartbeat fn id, .endSession fn id]
    let becomes := fun (y : Session) (u : State) => u.session? fn id = some y ∧ SessionsBut fn id s u ∧ u.out = [.status 0]
      ∧ u.sec = { s.sec with sessions := u.sec.sessions }
    let ide := tget Ide.init s.sec.ide stream
    let ideBecomes := fun (y : Ide) => Gives (.ideKm fn id stream op rx tx) s fun u =>
      KeepsBut [.regs, .sec, .out] s u ∧ u.out = [.status 0] ∧ u.sec = { s.sec with ide := u.sec.ide }
      ∧ tget Ide.init u.sec.ide stream = y ∧ (∀ n, n ≠ stream → tget Ide.init u.sec.ide n = tget Ide.init s.sec.ide n)
      ∧ (stream = 8 → u.get Reg.HP_STATUS_IDE_LINK = b2n y.active) ∧ (stream ≠ 8 → u.regs = s.regs)
    let mine := (stream = 8 ∧ fn = 0) ∨ (stream < 8 ∧ ((fn = stream + 1 ∧ s.fnExists fn = true) ∨ (fn = 0 ∧ s.fnExists (stream + 1) = false)))
    (3 ≤ v.stage → 4 ≤ held → Says 0x10A [] (.keyExchange fn request) s)
    ∧ (3 ≤ v.stage → held < 4 → Gives (.keyExchange fn request) s fun u =>
      KeepsBut [.sec, .free, .out] s u ∧ ∃ i, i < 2 ^ 16 ∧ s.session? fn i = none
        ∧ u.out = [.bytes (leBytes 2 i ++ Config.kemAnswer request s.free)]
        ∧ u.sec.sessions = s.sec.sessions ++ [⟨fn, i, false, [], Config.kemSecret request s.free,
            v.transcript ++ request ++ (leBytes 2 i ++ Config.kemAnswer request s.free), 0⟩])
    ∧ (s.session? fn id = none → (∀ c ∈ inside, Says 0x102 [] c s) ∧ (3 ≤ v.stage → Says 0x102 [] (.finish fn id key signature) s)
      ∧ (stream < 9 → op < 3 → Says 0x102 [] (.ideKm fn id stream op rx tx) s))
    ∧ ∀ x, s.session? fn id = some x →
      (x.established = false → (∀ c ∈ inside, Says 0x104 [] c s) ∧ (stream < 9 → op < 3 → Says 0x104 [] (.ideKm fn id stream op rx tx) s))
      ∧ (x.established = true → 3 ≤ v.stage → Says 0x104 [] (.finish fn id key signature) s)
      ∧ (x.established = false → 3 ≤ v.stage → Gives (.finish fn id key signature) s fun u =>
        KeepsBut [.sec, .out] s u
        ∧ (key = [] ∨ Config.mldsaVerify key x.transcript signature = true → becomes { x with established := true, owner := key } u)
        ∧ (key ≠ [] → Config.mldsaVerify key x.transcript signature = false → u.sec = s.sec ∧ u.out = [.status 0x106]))
      ∧ (x.established = true → Gives (.keyUpdate fn id) s fun u => KeepsBut [.sec, .out] s u ∧ becomes { x with updates := x.updates + 1 } u)
      ∧ (x.established = true → Says 0 [] (.spdmHeartbeat fn id) s)
      ∧ (x.established = true → Gives (.endSession fn id) s fun u =>
        KeepsBut [.sec, .out] s u ∧ u.out = [.status 0] ∧ u.session? fn id = none ∧ SessionsBut fn id s u)
      ∧ (x.established = true → stream < 9 → op < 3 → ¬mine → Says 0x101 [] (.ideKm fn id stream op rx tx) s)
      ∧ (x.established = true → mine → op = 0 → ideBecomes { ide with keys := rx ++ tx })
      ∧ (x.established = true → mine → op = 1 → ide.keys ≠ [] → ideBecomes { ide with active := true })
      ∧ (x.established = true → mine → op = 1 → ide.keys = [] → Says 0x101 [] (.ideKm fn id stream op rx tx) s)
      ∧ (x.established = true → mine → op = 2 → ideBecomes { ide with active := false })

/-- What a session's measurements say (14 R493): a virtual function sees blocks 1 to 6 and its own partition's two, the physical function
all; a block carries its index, its form and its length. -/
def Sys2Proof.Claims.MeasurementBlocks : Prop :=
  (∀ fn i, fn < 9 → (i ∈ measured fn ↔ (1 ≤ i ∧ i ≤ 6) ∨ (fn = 0 ∧ 0x10 ≤ i ∧ i < 0x20) ∨ (fn ≠ 0 ∧ (i = 0xF + fn ∨ i = 0x17 + fn))))
  ∧ (∀ (s : State) (i : Nat), i ∈ measured 0 → ∃ b, s.block i
      = leBytes 1 i ++ leBytes 1 (if i = 5 ∨ i = 6 ∨ 0x18 ≤ i then 1 else 0) ++ leBytes 2 b.length ++ b ∧ s.measurement i = some b)
  ∧ (∀ (s : State) (p : Nat), p < 8 → (s.measurement (0x10 + p)) = some ((upFrom 0 16).flatMap fun w => leBytes 4 (if p ∈ s.loaded then s.get (Reg.RIG_MEASURE p w) else 0))
      ∧ ∃ l, s.measurement (0x18 + p) = some l ∧ l.take 1 = leBytes 1 (s.partState p) ∧ (l.drop 1).take 32 = s.tenantId p
        ∧ (l.drop 33).take 4 = leBytes 4 (s.imageOf p).jobId ∧ (l.drop 105).take 4 = leBytes 4 (s.get (Reg.DEBUG_READS_COUNT p))
        ∧ (l.drop 109).take 4 = leBytes 4 (s.get (Reg.DEBUG_WRITES_COUNT p)))

/-- Firmware, identity, sessions and measurements (14 R490 to R493). -/
def Obligations.IdentityAndSessions : Prop :=
  Claims.FirmwareStarts ∧ Claims.SpdmIdentity ∧ Claims.SpdmSessions ∧ Claims.MeasurementBlocks

/-! ## Injection, calibration, self-test and telemetry -/

/-- Fault injection (15 R514, R515, R530): ARM is refused, with its cause, while debug is locked, an injection is armed, or the target
does not exist or apply; else the injection is armed with its hits to come. DISARM ends it, enables a converter that it failed, and
reports its hits. -/
def Sys2Proof.Claims.InjectionArms : Prop :=
  ∀ (value : W32) (s : State), s.pkg ≠ .boot →
    let arms := bit value.toNat 31 = true
    let ends := bit value.toNat 30 = true
    let pt := s.get Reg.INJ_SEL_POINT
    let t := injTarget pt (s.get Reg.INJ_SEL_TARGET)
    let addr := s.get Reg.INJ_ADDR_ADDR
    let unlocked := s.get Reg.DBG_STATUS_UNLOCKED = 1
    let count := max 1 (bits value.toNat 0 16)
    let hits := if pt = 6 ∨ pt = 0xE then 1 else if pt = 0xC ∨ pt = 0xD ∨ pt = 0xF then 0 else count
    let refused := fun n => Gives (.injArm value) s fun u =>
      KeepsBut [.regs, .out] s u ∧ FieldsBut [Reg.INJ_STATUS_STATE, Reg.INJ_STATUS_CAUSE] s u
      ∧ u.get Reg.INJ_STATUS_STATE = 3 ∧ u.get Reg.INJ_STATUS_CAUSE = n
    (arms → ¬ends → ¬unlocked → refused 1)
    ∧ (arms → ¬ends → unlocked → s.det.armed ≠ none → refused 2)
    ∧ (arms → ¬ends → unlocked → s.det.armed = none → s.targetOk pt t addr = false → refused 3)
    ∧ (arms → ¬ends → unlocked → s.det.armed = none → s.targetOk pt t addr = true → Gives (.injArm value) s fun u =>
      KeepsBut [.regs, .det, .out] s u ∧ u.det = { s.det with armed := some ⟨pt, t, addr, s.get Reg.INJ_VALUE_VALUE, hits⟩ }
      ∧ u.get Reg.INJ_STATUS_STATE = 1 ∧ u.get Reg.INJ_STATUS_CAUSE = 0 ∧ u.get Reg.INJ_STATUS_HITS = 0)
    ∧ (pt = 0 ∨ 0xF < pt → s.targetOk pt t addr = false)
    ∧ (pt = 1 → s.targetOk pt t addr = true → treadOk t = true ∧ s.treadFenced t = false ∧ s.flightFenced (treadGf t) = false)
    ∧ (pt = 0xA → s.targetOk pt t addr = true → t % 32 < 18 ∧ (s.vchan (t % 32) (t / 32)).part ≠ none)
    ∧ (¬arms → Gives (.injArm value) s (KeepsBut [.out] s)) ∧ (¬ends → Gives (.injDisarm value) s (KeepsBut [.out] s))
    ∧ (arms → ends → exec (.injArm value) s = exec (.injDisarm value) s ∧ Gives (.injArm value) s fun u => u.det.armed = none)
    ∧ (ends → ¬arms → s.det.armed = none → Gives (.injDisarm value) s (KeepsBut [.out] s))
    ∧ (∀ i, ends → ¬arms → s.det.armed = some i → Gives (.injDisarm value) s fun u =>
      KeepsBut [.regs, .power, .det, .seq, .rings, .out] s u ∧ u.det.armed = none ∧ u.get Reg.INJ_STATUS_STATE = 2
      ∧ Recorded 0x0015 [i.point, s.get Reg.INJ_STATUS_HITS] u ∧ (s.power.injFailed = none → u.power = s.power)
      ∧ ∀ k, s.power.injFailed = some k → u.power.failed = s.power.failed.filter (· != k) ∧ u.power.injFailed = none)

/-- User calibration and telemetry (15 R522, R523, R527, R532): APPLY journals the selected record's value and puts it in force, and reports a
value outside its clamp; nothing is applied while busy or where the selection names nothing. The host's bit moves CONSUMER. -/
def Sys2Proof.Claims.CalibrationAndTelemetry : Prop :=
  ∀ (value : W32) (consumer : W64) (s : State),
    let kind := s.get Reg.CAL_SEL_KIND
    let i := s.get Reg.CAL_SEL_INDEX
    let key := kind * 4096 + i
    let v := s.calUser kind i
    let selected := 1 ≤ kind ∧ kind ≤ 4 ∧ i < (if kind = 4 then 13 else 1184)
    let applies := s.pkg ≠ .boot ∧ bit value.toNat 31 = true ∧ s.get Reg.CAL_STATUS_BUSY ≠ 1 ∧ selected
    let pend := s.get (Reg.MB_H2P_PEND 1)
    (applies → Gives (.calApply value) s fun u =>
      KeepsBut [.regs, .det, .journal, .seq, .rings, .out] s u ∧ tget 0 u.det.applied key = v
      ∧ (∀ k, k ≠ key → tget 0 u.det.applied k = tget 0 s.det.applied k)
      ∧ (s.pins.falling = false → Journaled 6 key (leBytes 2 (ofSigned 16 v)) u)
      ∧ ((calClamp kind).1 ≤ v → v ≤ (calClamp kind).2 → u.seq = s.seq ∧ u.rings = s.rings)
      ∧ (v < (calClamp kind).1 ∨ (calClamp kind).2 < v →
        Recorded 0x0014 [key, ofSigned 32 v, ofSigned 32 (max (calClamp kind).1 (min v (calClamp kind).2))] u))
    ∧ (¬applies → Gives (.calApply value) s (KeepsBut [.out] s))
    ∧ (bit pend 0 = true → Gives (.telemetryConsumer consumer) s fun u =>
      KeepsBut [.regs, .det, .out] s u ∧ u.det = { s.det with consumer := consumer.toNat } ∧ FieldsBut [Reg.MB_H2P_PEND 1] s u
      ∧ bit (u.get (Reg.MB_H2P_PEND 1)) 0 = false)
    ∧ (bit pend 0 = false → Gives (.telemetryConsumer consumer) s (KeepsBut [.out] s))

/-- Injection, calibration and telemetry (15 R514 to R516, R522, R523, R527). -/
def Obligations.InjectionAndCalibration : Prop :=
  Claims.InjectionArms ∧ Claims.CalibrationAndTelemetry

/-- Self-test (01 R34, 15 R524 to R526): outside BOOT there is none; a phase that ends fences what it found failing and gives way to the next,
the last one to READY with the capacity shown and every enabled rope in DOWN; a fatal fault, or more than 64 fenced flights, ends in
FAULT with the phase named. Phase 1 puts the journal's records in force, phase 2 leaves newel SRAM and scratch empty (log 102), phase 3
leaves every bundle ACTIVE or FENCED (log 82), phase 5 fences by the digest of each array's reference-order tile, and phase 6 fences a
flight whose sensor reads away from its gallery's median. -/
def Obligations.SelfTestPhases : Prop :=
  ∀ (now : W64) (treads flights : List Nat) (wrong : List (Nat × Nat × Nat × Nat)) (readings : List (Nat × Int)) (fatal : Bool)
    (s : State), (∀ t ∈ treads, treadOk t = true) → (∀ g ∈ flights, g < 1184) → (∀ x ∈ wrong, selfElemOk x = true) →
    (∀ x ∈ readings, x.1 < 1184) →
    let sound := fun g fmt => outputDigest fmt (arrayOutput wrong g fmt) = Config.golden fmt
    let n := max 1 (s.get Reg.SELFTEST_STATUS_PHASE)
    let many := fun (u : State) => 64 < u.fence.flights.length
    (s.pkg ≠ .boot → Gives (.selfTestPhaseComplete now ⟨treads, flights⟩ ⟨wrong, readings⟩ fatal) s (KeepsBut [.out] s))
    ∧ (s.pkg = .boot → n ≤ 6 → Gives (.selfTestPhaseComplete now ⟨treads, flights⟩ ⟨wrong, readings⟩ fatal) s fun u =>
      u.mem = s.mem ∧ u.sec = s.sec ∧ u.parts = s.parts ∧ u.time = max s.time now.toNat
      ∧ (fatal = true ∨ many u → Faulted s u ∧ u.get Reg.SELFTEST_STATUS_PHASE = 0xF ∧ u.get Reg.SELFTEST_STATUS_FAIL_PHASE = n
        ∧ Recorded 0x0013 [n] u)
      ∧ (fatal = false → ¬many u → n < 6 → u.pkg = .boot ∧ u.get Reg.SELFTEST_STATUS_PHASE = n + 1)
      ∧ (fatal = false → ¬many u → n = 6 → u.pkg = .ready ∧ u.get Reg.SELFTEST_STATUS_PHASE = 7
        ∧ u.get Reg.PKG_CAPACITY_ACTIVE_FLIGHTS = (1184 - (u.fence.flights.filter fun x => x.2 != 0).length) % 2 ^ 11
        ∧ ∀ k, k < 18 → s.get (Reg.ROPE_CTRL_ENABLE k) = 1 → u.ropeSt k = 1)
      ∧ (n = 2 → u.det.sram = [] ∧ ∀ k, k < 16 → (u.uc k).scratch = [] ∧ (u.uc k).v = [])
      ∧ (n = 4 → ∀ t ∈ treads, u.treadFenced t = true) ∧ (n = 4 ∨ n = 5 → ∀ g ∈ flights, u.flightFenced g = true)
      ∧ (n = 5 → ∀ g fmt, g < 1184 → fmt ∈ selfFmts → ¬sound g fmt → u.flightFenced g = true
        ∨ ∃ i j c, wrongBlocks fmt (arrayOutput wrong g fmt) = [(i, j)] ∧ u.treadFenced (treadId g i c) = true)
      ∧ (n = 5 → flights = [] → (∀ g fmt, g < 1184 → fmt ∈ selfFmts → sound g fmt) → u.fence = s.fence)
      ∧ (n = 6 → ∀ g, g < 1184 → (u.flightFenced g = true ↔ s.flightFenced g = true ∨ (takeReadings readings s).sensorOk g = false))
      ∧ (n < 4 → n ≠ 1 → u.fence = s.fence)
      ∧ (n = 3 → ∀ b, b < 144 → u.dieSt b = 2 ∨ u.dieSt b = 3)
      ∧ (n = 1 → fatal = false → s.journal.copying = false →
        (∀ b, s.journal.body? 1 0 = some b → u.get Reg.PKG_ID_ID = leAt b 0 2 % 2 ^ 14)
        ∧ (∀ p b, p < 8 → s.journal.body? 7 p = some b → u.get (Reg.DEBUG_READS_COUNT p) = leAt b 0 4 ∧ u.get (Reg.DEBUG_WRITES_COUNT p) = leAt b 4 4)
        ∧ (s.journal.active = none → Recorded 0x0012 [] u)
        ∧ (s.journal.body? 1 0 = none → Recorded 0x0010 [0x1_0000] u)
        ∧ ((∀ r ∈ s.journal.applied, r.type ≠ 6) → Recorded 0x0010 [0x6_0000] u)))

/-! ## Power, reset and the test port -/

/-- Power and reset sequencing (16 R542 to R548): a rise of PWR_EN starts the converters, or waits for the end of a power-down and of its
100 ms; PWR_GOOD rises once they are up; a release of PKG_RST_N under PWR_GOOD, or PWR_GOOD with PKG_RST_N released, is a power-on reset;
an assertion loses all volatile state; a fall of PWR_EN stops admission and turns every flight OFF, and the fall of PWR_GOOD ends the
power-down. An edge that is none changes nothing. -/
def Sys2Proof.Claims.PowerSequencing : Prop :=
  ∀ (mgmtSel : Bool) (s : State),
    let q := s.pins
    let only := fun (pins : Pins) (on : Bool) (u : State) =>
      KeepsBut [.pins, .power, .out] s u ∧ u.pins = pins ∧ u.power = { s.power with convertersOn := on }
    let still := fun c => Gives c s (KeepsBut [.out] s)
    (q.pwrEn = true → still .pwrEnRise)
    ∧ (q.pwrEn = false → q.falling = true ∨ q.holdOff = true →
      Gives .pwrEnRise s (only { q with pwrEn := true, riseWaits := true } s.power.convertersOn))
    ∧ (q.pwrEn = false → q.falling = false → q.holdOff = false → Gives .pwrEnRise s (only { q with pwrEn := true } true))
    ∧ (q.holdOff = false → still .powerUpHoldoffEnd)
    ∧ (q.holdOff = true → Gives .powerUpHoldoffEnd s
      (only { q with holdOff := false, riseWaits := false } (q.riseWaits || s.power.convertersOn)))
    ∧ (q.pwrGood = true ∨ q.pwrEn = false ∨ s.power.convertersOn = false ∨ q.falling = true → still .pwrGoodRise)
    ∧ (q.pwrGood = false → q.pwrEn = true → s.power.convertersOn = true → q.falling = false → Gives .pwrGoodRise s fun u =>
      .pin .pwrGood true ∈ u.out ∧ (q.pkgRstN = false → KeepsBut [.pins, .out] s u ∧ u.pins = { q with pwrGood := true })
      ∧ (q.pkgRstN = true → PowerOn s u ∧ u.pins = { q with pwrGood := true, faultN := true }))
    ∧ (q.pkgRstN = true → still (.pkgRstRelease mgmtSel))
    ∧ (q.pkgRstN = false → q.pwrGood = false → Gives (.pkgRstRelease mgmtSel) s fun u =>
      KeepsBut [.pins, .out] s u ∧ u.pins = { q with pkgRstN := true, mgmtI3c := mgmtSel })
    ∧ (q.pkgRstN = false → q.pwrGood = true → Gives (.pkgRstRelease mgmtSel) s fun u =>
      PowerOn s u ∧ u.pins = { q with pkgRstN := true, mgmtI3c := mgmtSel, faultN := true })
    ∧ (q.pkgRstN = false → still .pkgRstAssert)
    ∧ (q.pkgRstN = true → Gives .pkgRstAssert s fun u =>
      StateLost s u ∧ u.pins = { q with pkgRstN := false, faultN := true } ∧ u.power = { Power.init with convertersOn := s.power.convertersOn })
    ∧ (q.pwrEn = false → still .pwrEnFall)
    ∧ (q.pwrEn = true → s.power.convertersOn = false ∨ q.falling = true → Gives .pwrEnFall s
      (only { q with pwrEn := false, riseWaits := false } s.power.convertersOn))
    ∧ (q.pwrEn = true → s.power.convertersOn = true → q.falling = false → Gives .pwrEnFall s fun u =>
      KeepsBut [.pins, .power, .regs, .flights, .treads, .out] s u ∧ u.pins = { q with pwrEn := false, riseWaits := false, falling := true }
      ∧ u.power.admitted = [] ∧ u.get Reg.PWR_STATUS_ADMIT_HELD = 1
      ∧ ∀ g, g < 1184 → u.get (Reg.DOMAIN_STATE_STATE g) = 3 ∧ u.flight g = Flight.init)
    ∧ (q.falling = false → s.power.convertersOn = true → still .pwrGoodFall)
    ∧ (q.falling = true ∨ s.power.convertersOn = false → Gives .pwrGoodFall s fun u =>
      let hold := q.pwrGood || q.holdOff
      StateLost s u ∧ u.power = { Power.init with convertersOn := q.riseWaits && !hold }
      ∧ u.pins = { q with pwrGood := false, thermtripN := true, falling := false, faultN := true, holdOff := hold, riseWaits := q.riseWaits && hold }
      ∧ (q.pwrGood = true → .pin .pwrGood false ∈ u.out))

/-- The package's other pins (01 R34, 16 R538, R540, R541): the loss of the fabric clock is FAULT; a PLDM sensor answers its reading from
50 ms after reset; the test port takes an instruction in force, but in SERVICE executes it as BYPASS. -/
def Sys2Proof.Claims.SensorsAndTestPort : Prop :=
  ∀ (now : W64) (n k : Nat) (s : State),
    let up := s.pins.pwrGood = true ∧ s.pins.pkgRstN = true ∧ 50_000_000 ≤ max s.time now.toNat
    let exists_ := n < 7 ∧ k < (if n = 4 then 6 else 8)
    let reading := match n with
      | 0 => s.get Reg.PWR_INPUT_INPUT_W
      | 1 => s.get Reg.PWR_INPUT_INPUT_MV
      | 2 => s.get Reg.THERM_STATUS_HOTTEST_C
      | 3 => s.get Reg.PWR_STATUS_CONV_WORKING
      | 4 => s.get (Reg.LASER_STATUS_TEMP_C k)
      | 5 => s.pkg.code
      | _ => s.get (Reg.COMMITTED_STEP_STEP k)
    Gives .refclkFabLoss s (fun u => KeepsBut [.pkg, .pins, .out] s u ∧ Faulted s u)
    ∧ (exists_ → up → Gives (.pldmGetSensor now n k) s fun u => KeepsBut [.time, .out] s u ∧ u.time = max s.time now.toNat ∧ u.out = [.value reading])
    ∧ (exists_ → ¬up → Gives (.pldmGetSensor now n k) s fun u => KeepsBut [.time, .out] s u ∧ u.out = [])
    ∧ (∀ x ∈ [(Instr.extest, 1), (.clamp, 2), (.highz, 3)], Gives x.1 s fun u =>
      KeepsBut [.det, .out] s u ∧ u.det = { s.det with jtag := if s.pkg = .service then 0 else x.2 })

/-- Power sequencing, sensors and the test port (16 R538 to R547). -/
def Obligations.PinsAndTestPort : Prop :=
  Claims.PowerSequencing ∧ Claims.SensorsAndTestPort

/-! ## The whole block -/

/-- A command changes no part of the state but those listed for it, and never the queue of commands. The four edges of the power and
reset pins may change everything but the journal. -/
def Obligations.CommandFrames : Prop := ∀ c : Instr, Changes (touches c) c ∧ .pending ∉ touches c

/-- Every step keeps the canonical form of memory: addresses strictly rising, and no entry that reads as an unlisted byte does. The
form is the model's, so that equal memories are equal data. -/
def Obligations.StepKeepsMemory : Prop :=
  ∀ s t : State, s.mem.wf → step s = .next t → t.mem.wf

/-- What reset leaves (01 R33, R36, 14 R487, R501, 16 R543, R544): BOOT, every register field at its reset value, no partition held, no
image, no command waiting, no memory listed, debug locked, the newel timer at 0. -/
def Obligations.ResetState : Prop :=
  let s := State.reset
  s.mem.wf ∧ s.pkg = .boot ∧ s.time = 0 ∧ s.pending = [] ∧ s.out = [] ∧ (∀ f : Fld, s.get f = f.reset) ∧ (∀ p, s.partState p = 0)
  ∧ (∀ p, s.ldState p = 0 ∧ s.rig p = Rig.init) ∧ (∀ o, s.memByte o = 0) ∧ s.get Reg.DBG_STATUS_UNLOCKED = 0 ∧ s.det.armed = none
  ∧ (∀ t, s.treadFenced t = false) ∧ s.sec.sessions = [] ∧ s.sec.scrubs = []
  ∧ s.pins.pwrGood = true ∧ s.pins.pkgRstN = true ∧ s.pins.faultN = true ∧ s.pins.thermtripN = true

/-- PKG_STATE.STATE moves only along the transitions of 01 R34, each at its own event; FAULT is left only by a reset, and a reset enters
BOOT. -/
def Obligations.PackageStates : Prop :=
  ∀ (c : Instr) (s t : State), exec c s = .next t → t.pkg ≠ s.pkg →
    (t.pkg = .fault ∧ s.pkg ≠ .fault)
    ∨ (s.pkg = .boot ∧ t.pkg = .ready ∧ ∃ now a b w r, c = .selfTestPhaseComplete now ⟨a, b⟩ ⟨w, r⟩ false)
    ∨ (s.pkg = .ready ∧ t.pkg = .service ∧ ∃ p, c = .rigApplyComplete p ∧ t.partState p = 2)
    ∨ (s.pkg = .service ∧ t.pkg = .ready ∧ t.loaded = [] ∧ ∃ p, c = .rigReleased p)
    ∨ (t.pkg = .boot ∧ (c = .pwrGoodRise ∨ c = .pwrGoodFall ∨ c = .pkgRstAssert ∨ ∃ m, c = .pkgRstRelease m))

/-- What never falls: the newel timer runs on and fences stay but for a reset (02 R48, 04 R146); FUSE_SVN, the count of debug unlocks since
production and the free values taken stay even then (14 R491, R493). -/
def Obligations.NeverFalls : Prop :=
  ∀ (c : Instr) (s t : State), exec c s = .next t →
    s.sec.fuseSvn ≤ t.sec.fuseSvn ∧ s.sec.unlocks ≤ t.sec.unlocks ∧ s.free ≤ t.free
    ∧ (c ∉ [Instr.pwrGoodRise, .pwrGoodFall, .pkgRstAssert, .pkgRstRelease true, .pkgRstRelease false] →
      s.time ≤ t.time ∧ (∀ x, s.treadFenced x = true → t.treadFenced x = true) ∧ (∀ g, s.flightFenced g = true → t.flightFenced g = true))
end

