-- ==== Sys2Proof/Laws/Frame.lean ====
section
/-!
SUPPORT. Frames, once for every observation: `Blind.regs φ` says that a write of the register table does not reach the
observation `φ`, and so on for each part of the state; a frame lemma says that an operation which writes only
such parts leaves `φ` as it was.
-/
namespace Sys2Proof.Laws
open Machine

variable {α β : Type}

/-- A write of `regs` does not reach the observation. -/
def Blind.regs (φ : State → α) : Prop := ∀ s x, φ { s with regs := x } = φ s
/-- A write of `pkg` does not reach the observation. -/
def Blind.pkg (φ : State → α) : Prop := ∀ s x, φ { s with pkg := x } = φ s
/-- A write of `time` does not reach the observation. -/
def Blind.time (φ : State → α) : Prop := ∀ s x, φ { s with time := x } = φ s
/-- A write of `timers` does not reach the observation. -/
def Blind.timers (φ : State → α) : Prop := ∀ s x, φ { s with timers := x } = φ s
/-- A write of `seq` does not reach the observation. -/
def Blind.seq (φ : State → α) : Prop := ∀ s x, φ { s with seq := x } = φ s
/-- A write of `free` does not reach the observation. -/
def Blind.free (φ : State → α) : Prop := ∀ s x, φ { s with free := x } = φ s
/-- A write of `pending` does not reach the observation. -/
def Blind.pending (φ : State → α) : Prop := ∀ s x, φ { s with pending := x } = φ s
/-- A write of `out` does not reach the observation. -/
def Blind.out (φ : State → α) : Prop := ∀ s x, φ { s with out := x } = φ s
/-- A write of `hiLatch` does not reach the observation. -/
def Blind.hiLatch (φ : State → α) : Prop := ∀ s x, φ { s with hiLatch := x } = φ s
/-- A write of `commitLatch` does not reach the observation. -/
def Blind.commitLatch (φ : State → α) : Prop := ∀ s x, φ { s with commitLatch := x } = φ s
/-- A write of `pins` does not reach the observation. -/
def Blind.pins (φ : State → α) : Prop := ∀ s x, φ { s with pins := x } = φ s
/-- A write of `fence` does not reach the observation. -/
def Blind.fence (φ : State → α) : Prop := ∀ s x, φ { s with fence := x } = φ s
/-- A write of `power` does not reach the observation. -/
def Blind.power (φ : State → α) : Prop := ∀ s x, φ { s with power := x } = φ s
/-- A write of `rigs` does not reach the observation. -/
def Blind.rigs (φ : State → α) : Prop := ∀ s x, φ { s with rigs := x } = φ s
/-- A write of `treads` does not reach the observation. -/
def Blind.treads (φ : State → α) : Prop := ∀ s x, φ { s with treads := x } = φ s
/-- A write of `chans` does not reach the observation. -/
def Blind.chans (φ : State → α) : Prop := ∀ s x, φ { s with chans := x } = φ s
/-- A write of `knots` does not reach the observation. -/
def Blind.knots (φ : State → α) : Prop := ∀ s x, φ { s with knots := x } = φ s
/-- A write of `flights` does not reach the observation. -/
def Blind.flights (φ : State → α) : Prop := ∀ s x, φ { s with flights := x } = φ s
/-- A write of `stages` does not reach the observation. -/
def Blind.stages (φ : State → α) : Prop := ∀ s x, φ { s with stages := x } = φ s
/-- A write of `ctxs` does not reach the observation. -/
def Blind.ctxs (φ : State → α) : Prop := ∀ s x, φ { s with ctxs := x } = φ s
/-- A write of `landings` does not reach the observation. -/
def Blind.landings (φ : State → α) : Prop := ∀ s x, φ { s with landings := x } = φ s
/-- A write of `parts` does not reach the observation. -/
def Blind.parts (φ : State → α) : Prop := ∀ s x, φ { s with parts := x } = φ s
/-- A write of `reds` does not reach the observation. -/
def Blind.reds (φ : State → α) : Prop := ∀ s x, φ { s with reds := x } = φ s
/-- A write of `mem` does not reach the observation. -/
def Blind.mem (φ : State → α) : Prop := ∀ s x, φ { s with mem := x } = φ s
/-- A write of `memCheck` does not reach the observation. -/
def Blind.memCheck (φ : State → α) : Prop := ∀ s x, φ { s with memCheck := x } = φ s
/-- A write of `memEpoch` does not reach the observation. -/
def Blind.memEpoch (φ : State → α) : Prop := ∀ s x, φ { s with memEpoch := x } = φ s
/-- A write of `memKey` does not reach the observation. -/
def Blind.memKey (φ : State → α) : Prop := ∀ s x, φ { s with memKey := x } = φ s
/-- A write of `ucs` does not reach the observation. -/
def Blind.ucs (φ : State → α) : Prop := ∀ s x, φ { s with ucs := x } = φ s
/-- A write of `sparse` does not reach the observation. -/
def Blind.sparse (φ : State → α) : Prop := ∀ s x, φ { s with sparse := x } = φ s
/-- A write of `gathers` does not reach the observation. -/
def Blind.gathers (φ : State → α) : Prop := ∀ s x, φ { s with gathers := x } = φ s
/-- A write of `ropes` does not reach the observation. -/
def Blind.ropes (φ : State → α) : Prop := ∀ s x, φ { s with ropes := x } = φ s
/-- A write of `lasers` does not reach the observation. -/
def Blind.lasers (φ : State → α) : Prop := ∀ s x, φ { s with lasers := x } = φ s
/-- A write of `fabric` does not reach the observation. -/
def Blind.fabric (φ : State → α) : Prop := ∀ s x, φ { s with fabric := x } = φ s
/-- A write of `bundles` does not reach the observation. -/
def Blind.bundles (φ : State → α) : Prop := ∀ s x, φ { s with bundles := x } = φ s
/-- A write of `hces` does not reach the observation. -/
def Blind.hces (φ : State → α) : Prop := ∀ s x, φ { s with hces := x } = φ s
/-- A write of `rings` does not reach the observation. -/
def Blind.rings (φ : State → α) : Prop := ∀ s x, φ { s with rings := x } = φ s
/-- A write of `pcie` does not reach the observation. -/
def Blind.pcie (φ : State → α) : Prop := ∀ s x, φ { s with pcie := x } = φ s
/-- A write of `svcs` does not reach the observation. -/
def Blind.svcs (φ : State → α) : Prop := ∀ s x, φ { s with svcs := x } = φ s
/-- A write of `journal` does not reach the observation. -/
def Blind.journal (φ : State → α) : Prop := ∀ s x, φ { s with journal := x } = φ s
/-- A write of `sec` does not reach the observation. -/
def Blind.sec (φ : State → α) : Prop := ∀ s x, φ { s with sec := x } = φ s
/-- A write of `det` does not reach the observation. -/
def Blind.det (φ : State → α) : Prop := ∀ s x, φ { s with det := x } = φ s

theorem Blind.regs.eq {φ : State → α} (h : Blind.regs φ) (s : State) (x) : φ { s with regs := x } = φ s := h s x
theorem Blind.pkg.eq {φ : State → α} (h : Blind.pkg φ) (s : State) (x) : φ { s with pkg := x } = φ s := h s x
theorem Blind.time.eq {φ : State → α} (h : Blind.time φ) (s : State) (x) : φ { s with time := x } = φ s := h s x
theorem Blind.timers.eq {φ : State → α} (h : Blind.timers φ) (s : State) (x) : φ { s with timers := x } = φ s := h s x
theorem Blind.seq.eq {φ : State → α} (h : Blind.seq φ) (s : State) (x) : φ { s with seq := x } = φ s := h s x
theorem Blind.free.eq {φ : State → α} (h : Blind.free φ) (s : State) (x) : φ { s with free := x } = φ s := h s x
theorem Blind.pending.eq {φ : State → α} (h : Blind.pending φ) (s : State) (x) : φ { s with pending := x } = φ s := h s x
theorem Blind.out.eq {φ : State → α} (h : Blind.out φ) (s : State) (x) : φ { s with out := x } = φ s := h s x
theorem Blind.hiLatch.eq {φ : State → α} (h : Blind.hiLatch φ) (s : State) (x) : φ { s with hiLatch := x } = φ s := h s x
theorem Blind.commitLatch.eq {φ : State → α} (h : Blind.commitLatch φ) (s : State) (x) : φ { s with commitLatch := x } = φ s := h s x
theorem Blind.pins.eq {φ : State → α} (h : Blind.pins φ) (s : State) (x) : φ { s with pins := x } = φ s := h s x
theorem Blind.fence.eq {φ : State → α} (h : Blind.fence φ) (s : State) (x) : φ { s with fence := x } = φ s := h s x
theorem Blind.power.eq {φ : State → α} (h : Blind.power φ) (s : State) (x) : φ { s with power := x } = φ s := h s x
theorem Blind.rigs.eq {φ : State → α} (h : Blind.rigs φ) (s : State) (x) : φ { s with rigs := x } = φ s := h s x
theorem Blind.treads.eq {φ : State → α} (h : Blind.treads φ) (s : State) (x) : φ { s with treads := x } = φ s := h s x
theorem Blind.chans.eq {φ : State → α} (h : Blind.chans φ) (s : State) (x) : φ { s with chans := x } = φ s := h s x
theorem Blind.knots.eq {φ : State → α} (h : Blind.knots φ) (s : State) (x) : φ { s with knots := x } = φ s := h s x
theorem Blind.flights.eq {φ : State → α} (h : Blind.flights φ) (s : State) (x) : φ { s with flights := x } = φ s := h s x
theorem Blind.stages.eq {φ : State → α} (h : Blind.stages φ) (s : State) (x) : φ { s with stages := x } = φ s := h s x
theorem Blind.ctxs.eq {φ : State → α} (h : Blind.ctxs φ) (s : State) (x) : φ { s with ctxs := x } = φ s := h s x
theorem Blind.landings.eq {φ : State → α} (h : Blind.landings φ) (s : State) (x) : φ { s with landings := x } = φ s := h s x
theorem Blind.parts.eq {φ : State → α} (h : Blind.parts φ) (s : State) (x) : φ { s with parts := x } = φ s := h s x
theorem Blind.reds.eq {φ : State → α} (h : Blind.reds φ) (s : State) (x) : φ { s with reds := x } = φ s := h s x
theorem Blind.mem.eq {φ : State → α} (h : Blind.mem φ) (s : State) (x) : φ { s with mem := x } = φ s := h s x
theorem Blind.memCheck.eq {φ : State → α} (h : Blind.memCheck φ) (s : State) (x) : φ { s with memCheck := x } = φ s := h s x
theorem Blind.memEpoch.eq {φ : State → α} (h : Blind.memEpoch φ) (s : State) (x) : φ { s with memEpoch := x } = φ s := h s x
theorem Blind.memKey.eq {φ : State → α} (h : Blind.memKey φ) (s : State) (x) : φ { s with memKey := x } = φ s := h s x
theorem Blind.ucs.eq {φ : State → α} (h : Blind.ucs φ) (s : State) (x) : φ { s with ucs := x } = φ s := h s x
theorem Blind.sparse.eq {φ : State → α} (h : Blind.sparse φ) (s : State) (x) : φ { s with sparse := x } = φ s := h s x
theorem Blind.gathers.eq {φ : State → α} (h : Blind.gathers φ) (s : State) (x) : φ { s with gathers := x } = φ s := h s x
theorem Blind.ropes.eq {φ : State → α} (h : Blind.ropes φ) (s : State) (x) : φ { s with ropes := x } = φ s := h s x
theorem Blind.lasers.eq {φ : State → α} (h : Blind.lasers φ) (s : State) (x) : φ { s with lasers := x } = φ s := h s x
theorem Blind.fabric.eq {φ : State → α} (h : Blind.fabric φ) (s : State) (x) : φ { s with fabric := x } = φ s := h s x
theorem Blind.bundles.eq {φ : State → α} (h : Blind.bundles φ) (s : State) (x) : φ { s with bundles := x } = φ s := h s x
theorem Blind.hces.eq {φ : State → α} (h : Blind.hces φ) (s : State) (x) : φ { s with hces := x } = φ s := h s x
theorem Blind.rings.eq {φ : State → α} (h : Blind.rings φ) (s : State) (x) : φ { s with rings := x } = φ s := h s x
theorem Blind.pcie.eq {φ : State → α} (h : Blind.pcie φ) (s : State) (x) : φ { s with pcie := x } = φ s := h s x
theorem Blind.svcs.eq {φ : State → α} (h : Blind.svcs φ) (s : State) (x) : φ { s with svcs := x } = φ s := h s x
theorem Blind.journal.eq {φ : State → α} (h : Blind.journal φ) (s : State) (x) : φ { s with journal := x } = φ s := h s x
theorem Blind.sec.eq {φ : State → α} (h : Blind.sec φ) (s : State) (x) : φ { s with sec := x } = φ s := h s x
theorem Blind.det.eq {φ : State → α} (h : Blind.det φ) (s : State) (x) : φ { s with det := x } = φ s := h s x

/-- A fold of operations that each leave an observation as it was leaves it as it was. -/
theorem foldl_frame {φ : State → α} {g : State → β → State} (h : ∀ s x, φ (g s x) = φ s) (l : List β) (s : State) :
    φ (l.foldl g s) = φ s := by
  induction l generalizing s with
  | nil => rfl
  | cons a l ih => rw [List.foldl_cons, ih, h]

/-- A command leaves an observation as it was when its effect does. -/
theorem perform_frame {φ : State → α} (ho : Blind.out φ) (hp : Blind.pending φ) {ok : Bool} {f : State → State}
    {s t : State} (h : perform ok f s = .next t) (hf : ∀ s, φ (f s) = φ s) : φ t = φ s := by
  unfold perform at h
  split at h
  · obtain rfl := (Host.Outcome.next.inj h).symm
    rw [hp.eq, hf, ho.eq]
  · cases h

/-- What waits in BOOT leaves an observation as it was when its effect does. -/
theorem whenUp_frame {φ : State → α} {f : State → State} (hf : ∀ s, φ (f s) = φ s) (s : State) :
    φ (whenUp f s) = φ s := by
  unfold whenUp; split
  · rfl
  · exact hf s

end Sys2Proof.Laws
end

