-- ==== Sys2Proof/Laws/OpsFrame.lean ====
section
/-!
SUPPORT. Frames of the operations of Sys2Proof/Machine/Ops.lean: what none of them writes stays as it was.
-/
namespace Sys2Proof.Laws
open Machine Machine.State

set_option linter.unusedSimpArgs false
set_option linter.unusedTactic false
set_option linter.unreachableTactic false
set_option linter.unusedVariables false

variable {α : Type} {φ : State → α}

theorem set_frame (h_regs : Blind.regs φ) (f : Fld) (v : Nat) (s : State) :
    φ (State.set f v s) = φ s := by
  unfold State.set
  repeat' first
    | simp only [h_regs.eq]
    | split
    | dsimp only
    | with_reducible rfl

theorem unset_frame (h_regs : Blind.regs φ) (f : Fld) (s : State) :
    φ (State.unset f s) = φ s := by
  unfold State.unset
  repeat' first
    | simp only [h_regs.eq]
    | split
    | dsimp only
    | with_reducible rfl

theorem bump_frame (h_regs : Blind.regs φ) (f : Fld) (n : Nat) (s : State) :
    φ (State.bump f n s) = φ s := by
  unfold State.bump
  repeat' first
    | simp only [set_frame h_regs]
    | split
    | dsimp only
    | with_reducible rfl

theorem put_frame (h_out : Blind.out φ) (o : Out) (s : State) :
    φ (State.put o s) = φ s := by
  unfold State.put
  repeat' first
    | simp only [h_out.eq]
    | split
    | dsimp only
    | with_reducible rfl

theorem takeFree_frame (h_free : Blind.free φ) (s : State) :
    φ (State.takeFree s).2 = φ s := by
  unfold State.takeFree
  repeat' first
    | simp only [h_free.eq]
    | split
    | dsimp only
    | with_reducible rfl

theorem takeFree_frame_of (h_free : Blind.free φ) {s : State} {t' : State} {x0}
    (h' : State.takeFree s = (x0, t')) : φ t' = φ s := by
  rw [← takeFree_frame h_free s, h']

theorem at__frame (h_time : Blind.time φ) (now : W64) (s : State) :
    φ (State.at_ now s) = φ s := by
  unfold State.at_
  repeat' first
    | simp only [h_time.eq]
    | split
    | dsimp only
    | with_reducible rfl

theorem ropeAt_frame (h_timers : Blind.timers φ) (k : Nat) (now : W64) (s : State) :
    φ (State.ropeAt k now s) = φ s := by
  unfold State.ropeAt
  repeat' first
    | simp only [h_timers.eq]
    | split
    | dsimp only
    | with_reducible rfl

theorem setRig_frame (h_rigs : Blind.rigs φ) (p : Nat) (v : Rig) (s : State) :
    φ (State.setRig p v s) = φ s := by
  unfold State.setRig
  repeat' first
    | simp only [h_rigs.eq]
    | split
    | dsimp only
    | with_reducible rfl

theorem setTread_frame (h_treads : Blind.treads φ) (t : Nat) (v : Tread) (s : State) :
    φ (State.setTread t v s) = φ s := by
  unfold State.setTread
  repeat' first
    | simp only [h_treads.eq]
    | split
    | dsimp only
    | with_reducible rfl

theorem setChan_frame (h_chans : Blind.chans φ) (k : Nat) (v : ChanData) (s : State) :
    φ (State.setChan k v s) = φ s := by
  unfold State.setChan
  repeat' first
    | simp only [h_chans.eq]
    | split
    | dsimp only
    | with_reducible rfl

theorem setKnot_frame (h_knots : Blind.knots φ) (k : Nat) (v : Knot) (s : State) :
    φ (State.setKnot k v s) = φ s := by
  unfold State.setKnot
  repeat' first
    | simp only [h_knots.eq]
    | split
    | dsimp only
    | with_reducible rfl

theorem setFlight_frame (h_flights : Blind.flights φ) (gf : Nat) (v : Flight) (s : State) :
    φ (State.setFlight gf v s) = φ s := by
  unfold State.setFlight
  repeat' first
    | simp only [h_flights.eq]
    | split
    | dsimp only
    | with_reducible rfl

theorem setStage_frame (h_stages : Blind.stages φ) (n : Nat) (v : Stage) (s : State) :
    φ (State.setStage n v s) = φ s := by
  unfold State.setStage
  repeat' first
    | simp only [h_stages.eq]
    | split
    | dsimp only
    | with_reducible rfl

theorem setCtx_frame (h_ctxs : Blind.ctxs φ) (n : Nat) (v : Ctx) (s : State) :
    φ (State.setCtx n v s) = φ s := by
  unfold State.setCtx
  repeat' first
    | simp only [h_ctxs.eq]
    | split
    | dsimp only
    | with_reducible rfl

theorem setLanding_frame (h_landings : Blind.landings φ) (n : Nat) (v : Landing) (s : State) :
    φ (State.setLanding n v s) = φ s := by
  unfold State.setLanding
  repeat' first
    | simp only [h_landings.eq]
    | split
    | dsimp only
    | with_reducible rfl

theorem setPart_frame (h_parts : Blind.parts φ) (p : Nat) (v : Machine.Part) (s : State) :
    φ (State.setPart p v s) = φ s := by
  unfold State.setPart
  repeat' first
    | simp only [h_parts.eq]
    | split
    | dsimp only
    | with_reducible rfl

theorem setRed_frame (h_reds : Blind.reds φ) (n : Nat) (v : Red) (s : State) :
    φ (State.setRed n v s) = φ s := by
  unfold State.setRed
  repeat' first
    | simp only [h_reds.eq]
    | split
    | dsimp only
    | with_reducible rfl

theorem setUc_frame (h_ucs : Blind.ucs φ) (u : Nat) (v : Undercroft) (s : State) :
    φ (State.setUc u v s) = φ s := by
  unfold State.setUc
  repeat' first
    | simp only [h_ucs.eq]
    | split
    | dsimp only
    | with_reducible rfl

theorem setRope_frame (h_ropes : Blind.ropes φ) (k : Nat) (v : Rope) (s : State) :
    φ (State.setRope k v s) = φ s := by
  unfold State.setRope
  repeat' first
    | simp only [h_ropes.eq]
    | split
    | dsimp only
    | with_reducible rfl

theorem setLaser_frame (h_lasers : Blind.lasers φ) (m : Nat) (v : Laser) (s : State) :
    φ (State.setLaser m v s) = φ s := by
  unfold State.setLaser
  repeat' first
    | simp only [h_lasers.eq]
    | split
    | dsimp only
    | with_reducible rfl

theorem setBundle_frame (h_bundles : Blind.bundles φ) (n : Nat) (v : Bundle) (s : State) :
    φ (State.setBundle n v s) = φ s := by
  unfold State.setBundle
  repeat' first
    | simp only [h_bundles.eq]
    | split
    | dsimp only
    | with_reducible rfl

theorem setHce_frame (h_hces : Blind.hces φ) (e : Nat) (v : Hce) (s : State) :
    φ (State.setHce e v s) = φ s := by
  unfold State.setHce
  repeat' first
    | simp only [h_hces.eq]
    | split
    | dsimp only
    | with_reducible rfl

theorem setRing_frame (h_rings : Blind.rings φ) (f : Nat) (v : EvRing) (s : State) :
    φ (State.setRing f v s) = φ s := by
  unfold State.setRing
  repeat' first
    | simp only [h_rings.eq]
    | split
    | dsimp only
    | with_reducible rfl

theorem setSvc_frame (h_svcs : Blind.svcs φ) (p : Nat) (v : Svc) (s : State) :
    φ (State.setSvc p v s) = φ s := by
  unfold State.setSvc
  repeat' first
    | simp only [h_svcs.eq]
    | split
    | dsimp only
    | with_reducible rfl

theorem setPower_frame (h_power : Blind.power φ) (v : Power) (s : State) :
    φ (State.setPower v s) = φ s := by
  unfold State.setPower
  repeat' first
    | simp only [h_power.eq]
    | split
    | dsimp only
    | with_reducible rfl

theorem setPins_frame (h_pins : Blind.pins φ) (v : Pins) (s : State) :
    φ (State.setPins v s) = φ s := by
  unfold State.setPins
  repeat' first
    | simp only [h_pins.eq]
    | split
    | dsimp only
    | with_reducible rfl

theorem setMemCheck_frame (h_memCheck : Blind.memCheck φ) (v : Tbl Nat) (s : State) :
    φ (State.setMemCheck v s) = φ s := by
  unfold State.setMemCheck
  repeat' first
    | simp only [h_memCheck.eq]
    | split
    | dsimp only
    | with_reducible rfl

theorem setMemKey_frame (h_memKey : Blind.memKey φ) (v : Tbl Nat) (s : State) :
    φ (State.setMemKey v s) = φ s := by
  unfold State.setMemKey
  repeat' first
    | simp only [h_memKey.eq]
    | split
    | dsimp only
    | with_reducible rfl

theorem setMemEpoch_frame (h_memEpoch : Blind.memEpoch φ) (v : Tbl Nat) (s : State) :
    φ (State.setMemEpoch v s) = φ s := by
  unfold State.setMemEpoch
  repeat' first
    | simp only [h_memEpoch.eq]
    | split
    | dsimp only
    | with_reducible rfl

theorem setTreads_frame (h_treads : Blind.treads φ) (v : Tbl Tread) (s : State) :
    φ (State.setTreads v s) = φ s := by
  unfold State.setTreads
  repeat' first
    | simp only [h_treads.eq]
    | split
    | dsimp only
    | with_reducible rfl

theorem setKnots_frame (h_knots : Blind.knots φ) (v : Tbl Knot) (s : State) :
    φ (State.setKnots v s) = φ s := by
  unfold State.setKnots
  repeat' first
    | simp only [h_knots.eq]
    | split
    | dsimp only
    | with_reducible rfl

theorem keepSparse_frame (h_sparse : Blind.sparse φ) (f : Sparse → Bool) (s : State) :
    φ (keepSparse f s) = φ s := by
  unfold keepSparse
  repeat' first
    | simp only [h_sparse.eq]
    | split
    | dsimp only
    | with_reducible rfl

theorem keepGathers_frame (h_gathers : Blind.gathers φ) (f : Nat × Nat × Nat × Nat → Bool) (s : State) :
    φ (keepGathers f s) = φ s := by
  unfold keepGathers
  repeat' first
    | simp only [h_gathers.eq]
    | split
    | dsimp only
    | with_reducible rfl

theorem queueRecord_frame (h_regs : Blind.regs φ) (h_rings : Blind.rings φ) (f : Nat) (r : EvRec) (s : State) :
    φ (queueRecord f r s) = φ s := by
  unfold queueRecord
  repeat' first
    | simp only [bump_frame h_regs, setRing_frame h_rings]
    | split
    | dsimp only
    | with_reducible rfl

theorem countEvent_frame (h_det : Blind.det φ) (code : Nat) (s : State) :
    φ (countEvent code s) = φ s := by
  unfold countEvent
  repeat' first
    | simp only [h_det.eq]
    | split
    | dsimp only
    | with_reducible rfl

theorem raise_frame (h_regs : Blind.regs φ) (h_seq : Blind.seq φ) (h_rings : Blind.rings φ) (h_det : Blind.det φ) (code : Nat) (st : Stamp) (body : List Nat) (s : State) :
    φ (raise code st body s) = φ s := by
  unfold raise
  repeat' first
    | simp only [countEvent_frame h_det, queueRecord_frame h_regs h_rings, h_seq.eq]
    | split
    | dsimp only
    | with_reducible rfl

theorem raise0_frame (h_regs : Blind.regs φ) (h_seq : Blind.seq φ) (h_rings : Blind.rings φ) (h_det : Blind.det φ) (code : Nat) (body : List Nat) (s : State) :
    φ (raise0 code body s) = φ s := by
  unfold raise0
  repeat' first
    | simp only [raise_frame h_regs h_seq h_rings h_det]
    | split
    | dsimp only
    | with_reducible rfl

theorem journalWrite_frame (h_regs : Blind.regs φ) (h_journal : Blind.journal φ) (type key : Nat) (body : List Byte) (s : State) :
    φ (journalWrite type key body s) = φ s := by
  unfold journalWrite
  repeat' first
    | simp only [bump_frame h_regs, h_journal.eq]
    | split
    | dsimp only
    | with_reducible rfl

end Sys2Proof.Laws
end

