-- ==== Sys2Proof/Laws/DebugOpsFrame.lean ====
section
/-!
SUPPORT. Frames of the operations of Sys2Proof/Machine/DebugOps.lean: what none of them writes stays as it was.
-/
namespace Sys2Proof.Laws
open Machine Machine.State

set_option linter.unusedSimpArgs false
set_option linter.unusedTactic false
set_option linter.unreachableTactic false
set_option linter.unusedVariables false

variable {α : Type} {φ : State → α}

theorem debugAccess_frame (h_regs : Blind.regs φ) (h_seq : Blind.seq φ) (h_rings : Blind.rings φ) (h_journal : Blind.journal φ) (h_sec : Blind.sec φ) (h_det : Blind.det φ) (p : Nat) (write : Bool) (addr len : Nat) (s : State) :
    φ (debugAccess p write addr len s) = φ s := by
  unfold debugAccess
  repeat' first
    | simp only [bump_frame h_regs, journalWrite_frame h_regs h_journal, raise_frame h_regs h_seq h_rings h_det, h_sec.eq]
    | split
    | dsimp only
    | with_reducible rfl

theorem endInjection_frame (h_regs : Blind.regs φ) (h_seq : Blind.seq φ) (h_rings : Blind.rings φ) (h_det : Blind.det φ) (s : State) :
    φ (endInjection s) = φ s := by
  unfold endInjection
  repeat' first
    | simp only [raise0_frame h_regs h_seq h_rings h_det, set_frame h_regs, h_det.eq]
    | split
    | dsimp only
    | with_reducible rfl

theorem hitInjection_frame (h_regs : Blind.regs φ) (h_seq : Blind.seq φ) (h_rings : Blind.rings φ) (h_journal : Blind.journal φ) (h_sec : Blind.sec φ) (h_det : Blind.det φ) (seq : Nat) (parts : List Nat) (s : State) :
    φ (hitInjection seq parts s) = φ s := by
  unfold hitInjection
  repeat' first
    | simp only [bump_frame h_regs, debugAccess_frame h_regs h_seq h_rings h_journal h_sec h_det, endInjection_frame h_regs h_seq h_rings h_det, set_frame h_regs, h_det.eq]
    | with_reducible refine Eq.trans (foldl_frame (fun _ _ => ?_) _ _) ?_
    | split
    | dsimp only
    | with_reducible rfl

end Sys2Proof.Laws
end

