-- ==== Sys2Proof/Laws/ServiceFrame.lean ====
section
/-!
SUPPORT. Frames of the operations of Sys2Proof/Machine/Service.lean: what none of them writes stays as it was.
-/
namespace Sys2Proof.Laws
open Machine Machine.State

set_option linter.unusedSimpArgs false
set_option linter.unusedTactic false
set_option linter.unreachableTactic false
set_option linter.unusedVariables false

variable {α : Type} {φ : State → α}

theorem sendMsg_frame (h_out : Blind.out φ) (h_ropes : Blind.ropes φ) (k v : Nat) (hdr body : List Byte) (s : State) :
    φ (sendMsg k v hdr body s) = φ s := by
  unfold sendMsg
  repeat' first
    | simp only [put_frame h_out, setRope_frame h_ropes]
    | split
    | dsimp only
    | with_reducible rfl

theorem sendControl_frame (h_out : Blind.out φ) (h_ropes : Blind.ropes φ) (k kind : Nat) (body : List Byte) (s : State) :
    φ (sendControl k kind body s) = φ s := by
  unfold sendControl
  repeat' first
    | simp only [sendMsg_frame h_out h_ropes]
    | split
    | dsimp only
    | with_reducible rfl

theorem sendTree_frame (h_out : Blind.out φ) (h_ropes : Blind.ropes φ) (k kind : Nat) (m : TreeMsg) (s : State) :
    φ (sendTree k kind m s) = φ s := by
  unfold sendTree
  repeat' first
    | simp only [sendControl_frame h_out h_ropes]
    | split
    | dsimp only
    | with_reducible rfl

theorem toChildren_frame (h_out : Blind.out φ) (h_ropes : Blind.ropes φ) (p kind : Nat) (m : TreeMsg) (s : State) :
    φ (toChildren p kind m s) = φ s := by
  unfold toChildren
  repeat' first
    | simp only [sendTree_frame h_out h_ropes]
    | with_reducible refine Eq.trans (foldl_frame (fun _ _ => ?_) _ _) ?_
    | split
    | dsimp only
    | with_reducible rfl

theorem toParent_frame (h_out : Blind.out φ) (h_ropes : Blind.ropes φ) (p kind : Nat) (m : TreeMsg) (s : State) :
    φ (toParent p kind m s) = φ s := by
  unfold toParent
  repeat' first
    | simp only [sendTree_frame h_out h_ropes]
    | split
    | dsimp only
    | with_reducible rfl

theorem setSvcState_frame (h_regs : Blind.regs φ) (h_svcs : Blind.svcs φ) (p : Nat) (st : SvcState) (s : State) :
    φ (setSvcState p st s) = φ s := by
  unfold setSvcState
  repeat' first
    | simp only [set_frame h_regs, setSvc_frame h_svcs]
    | split
    | dsimp only
    | with_reducible rfl

theorem signalMailbox_frame (h_out : Blind.out φ) (c : Nat) (s : State) :
    φ (signalMailbox c s) = φ s := by
  unfold signalMailbox
  repeat' first
    | simp only [put_frame h_out]
    | split
    | dsimp only
    | with_reducible rfl

theorem ringBell_frame (h_regs : Blind.regs φ) (h_out : Blind.out φ) (c b : Nat) (s : State) :
    φ (ringBell c b s) = φ s := by
  unfold ringBell
  repeat' first
    | simp only [set_frame h_regs, signalMailbox_frame h_out]
    | split
    | dsimp only
    | with_reducible rfl

theorem notifyStep_frame (h_regs : Blind.regs φ) (h_out : Blind.out φ) (p b : Nat) (s : State) :
    φ (notifyStep p b s) = φ s := by
  unfold notifyStep
  repeat' first
    | simp only [ringBell_frame h_regs h_out]
    | with_reducible refine Eq.trans (foldl_frame (fun _ _ => ?_) _ _) ?_
    | split
    | dsimp only
    | with_reducible rfl

theorem beginOutage_frame (h_svcs : Blind.svcs φ) (p : Nat) (own : Bool) (s : State) :
    φ (beginOutage p own s) = φ s := by
  unfold beginOutage
  repeat' first
    | simp only [setSvc_frame h_svcs]
    | split
    | dsimp only
    | with_reducible rfl

theorem endOutage_frame (h_regs : Blind.regs φ) (h_svcs : Blind.svcs φ) (p : Nat) (s : State) :
    φ (endOutage p s) = φ s := by
  unfold endOutage
  repeat' first
    | simp only [bump_frame h_regs, setSvc_frame h_svcs]
    | split
    | dsimp only
    | with_reducible rfl

theorem applyHalt_frame (h_regs : Blind.regs φ) (h_out : Blind.out φ) (h_svcs : Blind.svcs φ) (p cause : Nat) (s : State) :
    φ (applyHalt p cause s) = φ s := by
  unfold applyHalt
  repeat' first
    | simp only [notifyStep_frame h_regs h_out, set_frame h_regs, setSvc_frame h_svcs, setSvcState_frame h_regs h_svcs]
    | split
    | dsimp only
    | with_reducible rfl

theorem beginWindDown_frame (h_rigs : Blind.rigs φ) (p : Nat) (s : State) :
    φ (beginWindDown p s) = φ s := by
  unfold beginWindDown
  repeat' first
    | simp only [setRig_frame h_rigs]
    | split
    | dsimp only
    | with_reducible rfl

theorem takeOrder_frame (h_regs : Blind.regs φ) (h_out : Blind.out φ) (h_rigs : Blind.rigs φ) (h_ropes : Blind.ropes φ) (h_svcs : Blind.svcs φ) (p : Nat) (kind : OrderKind) (target cause epoch : Nat) (s : State) :
    φ (takeOrder p kind target cause epoch s) = φ s := by
  unfold takeOrder
  repeat' first
    | simp only [beginOutage_frame h_svcs, beginWindDown_frame h_rigs, notifyStep_frame h_regs h_out, set_frame h_regs, setSvc_frame h_svcs, setSvcState_frame h_regs h_svcs, toChildren_frame h_out h_ropes]
    | split
    | dsimp only
    | with_reducible rfl

theorem rootRequest_frame (h_regs : Blind.regs φ) (h_out : Blind.out φ) (h_rigs : Blind.rigs φ) (h_ropes : Blind.ropes φ) (h_svcs : Blind.svcs φ) (p act cause : Nat) (s : State) :
    φ (rootRequest p act cause s) = φ s := by
  unfold rootRequest
  repeat' first
    | simp only [applyHalt_frame h_regs h_out h_svcs, setSvc_frame h_svcs, takeOrder_frame h_regs h_out h_rigs h_ropes h_svcs, toChildren_frame h_out h_ropes]
    | split
    | dsimp only
    | with_reducible rfl

theorem findCause_frame (h_regs : Blind.regs φ) (h_out : Blind.out φ) (h_rigs : Blind.rigs φ) (h_ropes : Blind.ropes φ) (h_svcs : Blind.svcs φ) (p act cause : Nat) (s : State) :
    φ (findCause p act cause s) = φ s := by
  unfold findCause
  repeat' first
    | simp only [beginOutage_frame h_svcs, rootRequest_frame h_regs h_out h_rigs h_ropes h_svcs, set_frame h_regs, toParent_frame h_out h_ropes]
    | split
    | dsimp only
    | with_reducible rfl

theorem programFault_frame (h_regs : Blind.regs φ) (h_out : Blind.out φ) (h_rigs : Blind.rigs φ) (h_ropes : Blind.ropes φ) (h_svcs : Blind.svcs φ) (p : Nat) (s : State) :
    φ (programFault p s) = φ s := by
  unfold programFault
  repeat' first
    | simp only [findCause_frame h_regs h_out h_rigs h_ropes h_svcs]
    | split
    | dsimp only
    | with_reducible rfl

end Sys2Proof.Laws
end

