-- ==== Sys2Proof/Laws/TreadOpsFrame.lean ====
section
/-!
SUPPORT. Frames of the operations of Sys2Proof/Machine/TreadOps.lean: what none of them writes stays as it was.
-/
namespace Sys2Proof.Laws
open Machine Machine.State

set_option linter.unusedSimpArgs false
set_option linter.unusedTactic false
set_option linter.unreachableTactic false
set_option linter.unusedVariables false

variable {α : Type} {φ : State → α}

theorem runTread_frame (h_treads : Blind.treads φ) (t n : Nat) (f : Tread → Tread) (s : State) :
    φ (runTread t n f s) = φ s := by
  unfold runTread
  repeat' first
    | simp only [setTread_frame h_treads]
    | split
    | dsimp only
    | with_reducible rfl

theorem whenRun_frame (t : Nat) (f : State → State) (s : State) (h_f : ∀ s, φ (f s) = φ s) :
    φ (whenRun t f s) = φ s := by
  unfold whenRun
  repeat' first
    | simp only [h_f]
    | split
    | dsimp only
    | with_reducible rfl

theorem trapTread_frame (h_regs : Blind.regs φ) (h_seq : Blind.seq φ) (h_out : Blind.out φ) (h_rigs : Blind.rigs φ) (h_treads : Blind.treads φ) (h_ropes : Blind.ropes φ) (h_rings : Blind.rings φ) (h_svcs : Blind.svcs φ) (h_det : Blind.det φ) (t cause : Nat) (s : State) :
    φ (trapTread t cause s) = φ s := by
  unfold trapTread
  repeat' first
    | simp only [bump_frame h_regs, programFault_frame h_regs h_out h_rigs h_ropes h_svcs, raise_frame h_regs h_seq h_rings h_det, raise0_frame h_regs h_seq h_rings h_det, setTread_frame h_treads]
    | split
    | dsimp only
    | with_reducible rfl

theorem memTread_frame (h_regs : Blind.regs φ) (h_seq : Blind.seq φ) (h_out : Blind.out φ) (h_rigs : Blind.rigs φ) (h_treads : Blind.treads φ) (h_ropes : Blind.ropes φ) (h_rings : Blind.rings φ) (h_svcs : Blind.svcs φ) (h_det : Blind.det φ) (t n b : Nat) (addr : Tread → Nat) (f : Nat → Tread → Tread) (s : State) :
    φ (memTread t n b addr f s) = φ s := by
  unfold memTread
  repeat' first
    | simp only [runTread_frame h_treads, trapTread_frame h_regs h_seq h_out h_rigs h_treads h_ropes h_rings h_svcs h_det]
    | refine Eq.trans (whenRun_frame _ _ _ (fun _ => ?_)) ?_
    | split
    | dsimp only
    | with_reducible rfl

theorem sendWords_frame (h_chans : Blind.chans φ) (k : Nat) (ws : List W32) (s : State) :
    φ (sendWords k ws s) = φ s := by
  unfold sendWords
  repeat' first
    | simp only [setChan_frame h_chans]
    | split
    | dsimp only
    | with_reducible rfl

theorem takeWords_frame (h_chans : Blind.chans φ) (k n : Nat) (s : State) :
    φ (takeWords k n s) = φ s := by
  unfold takeWords
  repeat' first
    | simp only [setChan_frame h_chans]
    | split
    | dsimp only
    | with_reducible rfl

theorem resumeTread_frame (h_treads : Blind.treads φ) (t : Nat) (x : Tread) (s : State) :
    φ (resumeTread t x s) = φ s := by
  unfold resumeTread
  repeat' first
    | simp only [setTread_frame h_treads]
    | split
    | dsimp only
    | with_reducible rfl

theorem tryWait_frame (h_regs : Blind.regs φ) (h_seq : Blind.seq φ) (h_out : Blind.out φ) (h_rigs : Blind.rigs φ) (h_treads : Blind.treads φ) (h_chans : Blind.chans φ) (h_ropes : Blind.ropes φ) (h_rings : Blind.rings φ) (h_svcs : Blind.svcs φ) (h_det : Blind.det φ) (t : Nat) (w : WaitOp) (s : State) :
    φ (tryWait t w s) = φ s := by
  unfold tryWait
  repeat' first
    | simp only [resumeTread_frame h_treads, sendWords_frame h_chans, setTread_frame h_treads, takeWords_frame h_chans, trapTread_frame h_regs h_seq h_out h_rigs h_treads h_ropes h_rings h_svcs h_det]
    | split
    | dsimp only
    | with_reducible rfl

theorem wakeTread_frame (h_regs : Blind.regs φ) (h_seq : Blind.seq φ) (h_out : Blind.out φ) (h_rigs : Blind.rigs φ) (h_treads : Blind.treads φ) (h_chans : Blind.chans φ) (h_ropes : Blind.ropes φ) (h_rings : Blind.rings φ) (h_svcs : Blind.svcs φ) (h_det : Blind.det φ) (t : Nat) (s : State) :
    φ (wakeTread t s) = φ s := by
  unfold wakeTread
  repeat' first
    | simp only [tryWait_frame h_regs h_seq h_out h_rigs h_treads h_chans h_ropes h_rings h_svcs h_det]
    | split
    | dsimp only
    | with_reducible rfl

theorem setArray_frame (h_flights : Blind.flights φ) (gf a : Nat) (v : ArrayData) (s : State) :
    φ (setArray gf a v s) = φ s := by
  unfold setArray
  repeat' first
    | simp only [setFlight_frame h_flights]
    | split
    | dsimp only
    | with_reducible rfl

theorem withBank_frame (h_regs : Blind.regs φ) (h_seq : Blind.seq φ) (h_out : Blind.out φ) (h_rigs : Blind.rigs φ) (h_treads : Blind.treads φ) (h_ropes : Blind.ropes φ) (h_rings : Blind.rings φ) (h_svcs : Blind.svcs φ) (h_det : Blind.det φ) (t b : Nat) (f : Nat → Nat → Nat → Nat → State → State) (s : State) (h_f : ∀ x0 x1 x2 x3 s, φ (f x0 x1 x2 x3 s) = φ s) :
    φ (withBank t b f s) = φ s := by
  unfold withBank
  repeat' first
    | simp only [trapTread_frame h_regs h_seq h_out h_rigs h_treads h_ropes h_rings h_svcs h_det, h_f]
    | refine Eq.trans (whenRun_frame _ _ _ (fun _ => ?_)) ?_
    | split
    | dsimp only
    | with_reducible rfl

end Sys2Proof.Laws
end

