-- ==== Sys2Proof/Laws/ChannelsFrame.lean ====
section
/-!
SUPPORT. Frames of the operations of Sys2Proof/Machine/Channels.lean: what none of them writes stays as it was.
-/
namespace Sys2Proof.Laws
open Machine Machine.State

set_option linter.unusedSimpArgs false
set_option linter.unusedTactic false
set_option linter.unreachableTactic false
set_option linter.unusedVariables false

variable {α : Type} {φ : State → α}

theorem wakeDest_frame (h_regs : Blind.regs φ) (h_seq : Blind.seq φ) (h_out : Blind.out φ) (h_rigs : Blind.rigs φ) (h_treads : Blind.treads φ) (h_chans : Blind.chans φ) (h_ropes : Blind.ropes φ) (h_rings : Blind.rings φ) (h_svcs : Blind.svcs φ) (h_det : Blind.det φ) (c : Chan) (s : State) :
    φ (wakeDest c s) = φ s := by
  unfold wakeDest
  repeat' first
    | simp only [wakeTread_frame h_regs h_seq h_out h_rigs h_treads h_chans h_ropes h_rings h_svcs h_det]
    | split
    | dsimp only
    | with_reducible rfl

theorem setChanLimit_frame (h_regs : Blind.regs φ) (h_seq : Blind.seq φ) (h_out : Blind.out φ) (h_rigs : Blind.rigs φ) (h_treads : Blind.treads φ) (h_chans : Blind.chans φ) (h_ropes : Blind.ropes φ) (h_rings : Blind.rings φ) (h_svcs : Blind.svcs φ) (h_det : Blind.det φ) (g value : Nat) (s : State) :
    φ (setChanLimit g value s) = φ s := by
  unfold setChanLimit
  repeat' first
    | simp only [setChan_frame h_chans, wakeTread_frame h_regs h_seq h_out h_rigs h_treads h_chans h_ropes h_rings h_svcs h_det]
    | split
    | dsimp only
    | with_reducible rfl

theorem readChanHead_frame (h_regs : Blind.regs φ) (h_seq : Blind.seq φ) (h_rings : Blind.rings φ) (h_journal : Blind.journal φ) (h_sec : Blind.sec φ) (h_det : Blind.det φ) (g : Nat) (s : State) :
    φ (readChanHead g s).2 = φ s := by
  unfold readChanHead
  repeat' first
    | simp only [debugAccess_frame h_regs h_seq h_rings h_journal h_sec h_det]
    | split
    | dsimp only
    | with_reducible rfl

theorem readChanHead_frame_of (h_regs : Blind.regs φ) (h_seq : Blind.seq φ) (h_rings : Blind.rings φ) (h_journal : Blind.journal φ) (h_sec : Blind.sec φ) (h_det : Blind.det φ) {g : Nat} {s : State} {t' : State} {x0}
    (h' : readChanHead g s = (x0, t')) : φ t' = φ s := by
  rw [← readChanHead_frame h_regs h_seq h_rings h_journal h_sec h_det g s, h']

theorem scanCounts_frame (h_chans : Blind.chans φ) (h_knots : Blind.knots φ) (s : State) :
    φ (scanCounts s) = φ s := by
  unfold scanCounts
  repeat' first
    | simp only [setChan_frame h_chans, setKnot_frame h_knots]
    | with_reducible refine Eq.trans (foldl_frame (fun _ _ => ?_) _ _) ?_
    | split
    | dsimp only
    | with_reducible rfl

theorem markSeen_frame (h_chans : Blind.chans φ) (h_knots : Blind.knots φ) (r : StallRef) (s : State) :
    φ (markSeen r s) = φ s := by
  unfold markSeen
  repeat' first
    | simp only [setChan_frame h_chans, setKnot_frame h_knots]
    | split
    | dsimp only
    | with_reducible rfl

theorem reportChain_frame (h_regs : Blind.regs φ) (h_seq : Blind.seq φ) (h_chans : Blind.chans φ) (h_knots : Blind.knots φ) (h_rings : Blind.rings φ) (h_det : Blind.det φ) (r : StallRef) (s : State) :
    φ (reportChain r s) = φ s := by
  unfold reportChain
  repeat' first
    | simp only [bump_frame h_regs, markSeen_frame h_chans h_knots, raise_frame h_regs h_seq h_rings h_det, set_frame h_regs]
    | with_reducible refine Eq.trans (foldl_frame (fun _ _ => ?_) _ _) ?_
    | split
    | dsimp only
    | with_reducible rfl

theorem clearScans_frame (h_chans : Blind.chans φ) (h_knots : Blind.knots φ) (s : State) :
    φ (clearScans s) = φ s := by
  unfold clearScans
  repeat' first
    | simp only [setKnots_frame h_knots, h_chans.eq]
    | split
    | dsimp only
    | with_reducible rfl

end Sys2Proof.Laws
end

