-- ==== Sys2Proof/Laws/ChannelsKeep.lean ====
section
/-!
SUPPORT. Frames of the commands of Sys2Proof/Machine/Channels.lean: what a command does not write stays as it was.
-/
namespace Sys2Proof.Laws
open Machine Machine.State

set_option linter.unusedSimpArgs false
set_option linter.unusedTactic false
set_option linter.unreachableTactic false
set_option linter.unusedVariables false

variable {α : Type} {φ : State → α}

theorem execWordDelivery_frame (h_regs : Blind.regs φ) (h_seq : Blind.seq φ) (h_pending : Blind.pending φ) (h_out : Blind.out φ) (h_rigs : Blind.rigs φ) (h_treads : Blind.treads φ) (h_chans : Blind.chans φ) (h_ropes : Blind.ropes φ) (h_rings : Blind.rings φ) (h_svcs : Blind.svcs φ) (h_det : Blind.det φ) (c : Chan) (s : State) (t' : State)
    (h : execWordDelivery c s = .next t') : φ t' = φ s := by
  unfold execWordDelivery at h
  refine perform_frame h_out h_pending h (fun s => ?_)
  repeat' first
    | simp only [setChan_frame h_chans, wakeDest_frame h_regs h_seq h_out h_rigs h_treads h_chans h_ropes h_rings h_svcs h_det]
    | split
    | dsimp only
    | with_reducible rfl

theorem execCreditReturn_frame (h_regs : Blind.regs φ) (h_seq : Blind.seq φ) (h_pending : Blind.pending φ) (h_out : Blind.out φ) (h_rigs : Blind.rigs φ) (h_treads : Blind.treads φ) (h_chans : Blind.chans φ) (h_ropes : Blind.ropes φ) (h_rings : Blind.rings φ) (h_svcs : Blind.svcs φ) (h_det : Blind.det φ) (c : Chan) (s : State) (t' : State)
    (h : execCreditReturn c s = .next t') : φ t' = φ s := by
  unfold execCreditReturn at h
  refine perform_frame h_out h_pending h (fun s => ?_)
  repeat' first
    | simp only [setChan_frame h_chans, wakeTread_frame h_regs h_seq h_out h_rigs h_treads h_chans h_ropes h_rings h_svcs h_det]
    | split
    | dsimp only
    | with_reducible rfl

theorem execKnotContribution_frame (h_pending : Blind.pending φ) (h_out : Blind.out φ) (h_chans : Blind.chans φ) (h_knots : Blind.knots φ) (p i : Nat) (s : State) (t' : State)
    (h : execKnotContribution p i s = .next t') : φ t' = φ s := by
  unfold execKnotContribution at h
  refine perform_frame h_out h_pending h (fun s => ?_)
  repeat' first
    | simp only [setChan_frame h_chans, setKnot_frame h_knots]
    | split
    | dsimp only
    | with_reducible rfl

theorem execKnotDelivery_frame (h_regs : Blind.regs φ) (h_seq : Blind.seq φ) (h_pending : Blind.pending φ) (h_out : Blind.out φ) (h_rigs : Blind.rigs φ) (h_treads : Blind.treads φ) (h_chans : Blind.chans φ) (h_knots : Blind.knots φ) (h_ropes : Blind.ropes φ) (h_rings : Blind.rings φ) (h_svcs : Blind.svcs φ) (h_det : Blind.det φ) (p ki : Nat) (s : State) (t' : State)
    (h : execKnotDelivery p ki s = .next t') : φ t' = φ s := by
  unfold execKnotDelivery at h
  refine perform_frame h_out h_pending h (fun s => ?_)
  repeat' first
    | simp only [setChan_frame h_chans, setKnot_frame h_knots, wakeDest_frame h_regs h_seq h_out h_rigs h_treads h_chans h_ropes h_rings h_svcs h_det]
    | with_reducible refine Eq.trans (foldl_frame (fun _ _ => ?_) _ _) ?_
    | split
    | dsimp only
    | with_reducible rfl

theorem execChanLimitWrite_frame (h_regs : Blind.regs φ) (h_seq : Blind.seq φ) (h_pending : Blind.pending φ) (h_out : Blind.out φ) (h_rigs : Blind.rigs φ) (h_treads : Blind.treads φ) (h_chans : Blind.chans φ) (h_ropes : Blind.ropes φ) (h_rings : Blind.rings φ) (h_svcs : Blind.svcs φ) (h_det : Blind.det φ) (g : Nat) (value : W32) (s : State) (t' : State)
    (h : execChanLimitWrite g value s = .next t') : φ t' = φ s := by
  unfold execChanLimitWrite at h
  refine perform_frame h_out h_pending h (fun s => ?_)
  repeat' first
    | simp only [setChanLimit_frame h_regs h_seq h_out h_rigs h_treads h_chans h_ropes h_rings h_svcs h_det]
    | split
    | dsimp only
    | with_reducible rfl

theorem execChanHeadRead_frame (h_regs : Blind.regs φ) (h_seq : Blind.seq φ) (h_pending : Blind.pending φ) (h_out : Blind.out φ) (h_rings : Blind.rings φ) (h_journal : Blind.journal φ) (h_sec : Blind.sec φ) (h_det : Blind.det φ) (g : Nat) (s : State) (t' : State)
    (h : execChanHeadRead g s = .next t') : φ t' = φ s := by
  unfold execChanHeadRead at h
  refine perform_frame h_out h_pending h (fun s => ?_)
  repeat' first
    | simp only [put_frame h_out, readChanHead_frame h_regs h_seq h_rings h_journal h_sec h_det]
    | split
    | refine Eq.trans (readChanHead_frame_of h_regs h_seq h_rings h_journal h_sec h_det ‹_›) ?_
    | dsimp only
    | with_reducible rfl

theorem execStallScan_frame (h_regs : Blind.regs φ) (h_seq : Blind.seq φ) (h_pending : Blind.pending φ) (h_out : Blind.out φ) (h_chans : Blind.chans φ) (h_knots : Blind.knots φ) (h_rings : Blind.rings φ) (h_det : Blind.det φ) (s : State) (t' : State)
    (h : execStallScan s = .next t') : φ t' = φ s := by
  unfold execStallScan at h
  refine perform_frame h_out h_pending h (fun s => ?_)
  repeat' first
    | simp only [reportChain_frame h_regs h_seq h_chans h_knots h_rings h_det, scanCounts_frame h_chans h_knots]
    | with_reducible refine Eq.trans (foldl_frame (fun _ _ => ?_) _ _) ?_
    | split
    | dsimp only
    | with_reducible rfl

theorem execStallCtrlWrite_frame (h_regs : Blind.regs φ) (h_pending : Blind.pending φ) (h_out : Blind.out φ) (h_chans : Blind.chans φ) (h_knots : Blind.knots φ) (value : W32) (s : State) (t' : State)
    (h : execStallCtrlWrite value s = .next t') : φ t' = φ s := by
  unfold execStallCtrlWrite at h
  refine perform_frame h_out h_pending h (fun s => ?_)
  repeat' first
    | simp only [clearScans_frame h_chans h_knots, set_frame h_regs]
    | refine Eq.trans (whenUp_frame (fun _ => ?_) _) ?_
    | split
    | dsimp only
    | with_reducible rfl

end Sys2Proof.Laws
end

