-- ==== Sys2Proof/Laws/LandingOpsFrame.lean ====
section
/-!
SUPPORT. Frames of the operations of Sys2Proof/Machine/LandingOps.lean: what none of them writes stays as it was.
-/
namespace Sys2Proof.Laws
open Machine Machine.State

set_option linter.unusedSimpArgs false
set_option linter.unusedTactic false
set_option linter.unreachableTactic false
set_option linter.unusedVariables false

variable {α : Type} {φ : State → α}

theorem freeVersions_frame (h_parts : Blind.parts φ) (p : Nat) (s : State) :
    φ (freeVersions p s) = φ s := by
  unfold freeVersions
  repeat' first
    | simp only [setPart_frame h_parts]
    | split
    | dsimp only
    | with_reducible rfl

theorem freeCtx_frame (h_stages : Blind.stages φ) (h_ctxs : Blind.ctxs φ) (h_parts : Blind.parts φ) (c : Nat) (s : State) :
    φ (freeCtx c s) = φ s := by
  unfold freeCtx
  repeat' first
    | simp only [freeVersions_frame h_parts, setCtx_frame h_ctxs, setStage_frame h_stages]
    | split
    | dsimp only
    | with_reducible rfl

theorem ownerRetired_frame (h_stages : Blind.stages φ) (h_ctxs : Blind.ctxs φ) (h_parts : Blind.parts φ) (owner : Nat) (s : State) :
    φ (ownerRetired owner s) = φ s := by
  unfold ownerRetired
  repeat' first
    | simp only [freeCtx_frame h_stages h_ctxs h_parts, setCtx_frame h_ctxs]
    | split
    | dsimp only
    | with_reducible rfl

theorem pushEntry_frame (h_regs : Blind.regs φ) (h_ctxs : Blind.ctxs φ) (h_landings : Blind.landings φ) (n owner : Nat) (e : Entry) (s : State) :
    φ (pushEntry n owner e s) = φ s := by
  unfold pushEntry
  repeat' first
    | simp only [bump_frame h_regs, setCtx_frame h_ctxs, setLanding_frame h_landings]
    | split
    | dsimp only
    | with_reducible rfl

theorem creditLanding_frame (h_stages : Blind.stages φ) (h_ctxs : Blind.ctxs φ) (h_landings : Blind.landings φ) (h_parts : Blind.parts φ) (n : Nat) (d : Int) (retired : Bool) (s : State) :
    φ (creditLanding n d retired s) = φ s := by
  unfold creditLanding
  repeat' first
    | simp only [ownerRetired_frame h_stages h_ctxs h_parts, setLanding_frame h_landings]
    | split
    | dsimp only
    | with_reducible rfl

theorem sendJob_frame (h_out : Blind.out φ) (h_ropes : Blind.ropes φ) (p k v kind epoch source target : Nat) (body : List Byte) (s : State) :
    φ (sendJob p k v kind epoch source target body s) = φ s := by
  unfold sendJob
  repeat' first
    | simp only [sendMsg_frame h_out h_ropes]
    | split
    | dsimp only
    | with_reducible rfl

theorem sendCredit_frame (h_out : Blind.out φ) (h_ropes : Blind.ropes φ) (p n : Nat) (c : LandCfg) (form : Nat) (d : Int) (s : State) :
    φ (sendCredit p n c form d s) = φ s := by
  unfold sendCredit
  repeat' first
    | simp only [sendJob_frame h_out h_ropes]
    | split
    | dsimp only
    | with_reducible rfl

theorem retireEntry_frame (h_out : Blind.out φ) (h_stages : Blind.stages φ) (h_ctxs : Blind.ctxs φ) (h_landings : Blind.landings φ) (h_parts : Blind.parts φ) (h_ropes : Blind.ropes φ) (n : Nat) (s : State) :
    φ (retireEntry n s) = φ s := by
  unfold retireEntry
  repeat' first
    | simp only [creditLanding_frame h_stages h_ctxs h_landings h_parts, sendCredit_frame h_out h_ropes]
    | split
    | dsimp only
    | with_reducible rfl

theorem ingestPush_frame (h_regs : Blind.regs φ) (h_seq : Blind.seq φ) (h_ctxs : Blind.ctxs φ) (h_landings : Blind.landings φ) (h_rings : Blind.rings φ) (h_det : Blind.det φ) (n : Nat) (e : Entry) (s : State) :
    φ (ingestPush n e s) = φ s := by
  unfold ingestPush
  repeat' first
    | simp only [bump_frame h_regs, pushEntry_frame h_regs h_ctxs h_landings, raise_frame h_regs h_seq h_rings h_det]
    | split
    | dsimp only
    | with_reducible rfl

end Sys2Proof.Laws
end

