-- ==== Sys2Proof/Laws/MemoryOpsFrame.lean ====
section
/-!
SUPPORT. Frames of the operations of Sys2Proof/Machine/MemoryOps.lean: what none of them writes stays as it was.
-/
namespace Sys2Proof.Laws
open Machine Machine.State

set_option linter.unusedSimpArgs false
set_option linter.unusedTactic false
set_option linter.unreachableTactic false
set_option linter.unusedVariables false

variable {α : Type} {φ : State → α}

theorem pokeBytes_frame (h_mem : Blind.mem φ) (o : Nat) (l : List Byte) (s : State) :
    φ (pokeBytes o l s) = φ s := by
  unfold pokeBytes
  repeat' first
    | simp only [h_mem.eq]
    | with_reducible refine Eq.trans (foldl_frame (fun _ _ => ?_) _ _) ?_
    | split
    | dsimp only
    | with_reducible rfl

theorem hitLine_frame (h_regs : Blind.regs φ) (h_seq : Blind.seq φ) (h_rings : Blind.rings φ) (h_journal : Blind.journal φ) (h_sec : Blind.sec φ) (h_det : Blind.det φ) (point n : Nat) (s : State) :
    φ (hitLine point n s) = φ s := by
  unfold hitLine
  repeat' first
    | simp only [hitInjection_frame h_regs h_seq h_rings h_journal h_sec h_det]
    | split
    | dsimp only
    | with_reducible rfl

theorem recoverLine_frame (h_regs : Blind.regs φ) (h_out : Blind.out φ) (h_rigs : Blind.rigs φ) (h_ropes : Blind.ropes φ) (h_svcs : Blind.svcs φ) (f : Finder) (p : Nat) (g : Region) (o : Nat) (s : State) :
    φ (recoverLine f p g o s) = φ s := by
  unfold recoverLine
  repeat' first
    | simp only [findCause_frame h_regs h_out h_rigs h_ropes h_svcs, setSvc_frame h_svcs]
    | split
    | dsimp only
    | with_reducible rfl

theorem lineLost_frame (h_regs : Blind.regs φ) (h_seq : Blind.seq φ) (h_out : Blind.out φ) (h_rigs : Blind.rigs φ) (h_memCheck : Blind.memCheck φ) (h_ucs : Blind.ucs φ) (h_ropes : Blind.ropes φ) (h_rings : Blind.rings φ) (h_svcs : Blind.svcs φ) (h_det : Blind.det φ) (f : Finder) (n : Nat) (s : State) :
    φ (lineLost f n s) = φ s := by
  unfold lineLost
  repeat' first
    | simp only [bump_frame h_regs, raise_frame h_regs h_seq h_rings h_det, raise0_frame h_regs h_seq h_rings h_det, recoverLine_frame h_regs h_out h_rigs h_ropes h_svcs, set_frame h_regs, setMemCheck_frame h_memCheck, setUc_frame h_ucs]
    | split
    | dsimp only
    | with_reducible rfl

theorem checkLine_frame (h_regs : Blind.regs φ) (h_seq : Blind.seq φ) (h_out : Blind.out φ) (h_rigs : Blind.rigs φ) (h_memCheck : Blind.memCheck φ) (h_ucs : Blind.ucs φ) (h_ropes : Blind.ropes φ) (h_rings : Blind.rings φ) (h_svcs : Blind.svcs φ) (h_journal : Blind.journal φ) (h_sec : Blind.sec φ) (h_det : Blind.det φ) (f : Finder) (bad : Tbl Nat) (n : Nat) (s : State) :
    φ (checkLine f bad n s).2 = φ s := by
  unfold checkLine
  repeat' first
    | simp only [bump_frame h_regs, hitLine_frame h_regs h_seq h_rings h_journal h_sec h_det, lineLost_frame h_regs h_seq h_out h_rigs h_memCheck h_ucs h_ropes h_rings h_svcs h_det]
    | split
    | dsimp only
    | with_reducible rfl

theorem checkLine_frame_of (h_regs : Blind.regs φ) (h_seq : Blind.seq φ) (h_out : Blind.out φ) (h_rigs : Blind.rigs φ) (h_memCheck : Blind.memCheck φ) (h_ucs : Blind.ucs φ) (h_ropes : Blind.ropes φ) (h_rings : Blind.rings φ) (h_svcs : Blind.svcs φ) (h_journal : Blind.journal φ) (h_sec : Blind.sec φ) (h_det : Blind.det φ) {f : Finder} {bad : Tbl Nat} {n : Nat} {s : State} {t' : State} {x0}
    (h' : checkLine f bad n s = (x0, t')) : φ t' = φ s := by
  rw [← checkLine_frame h_regs h_seq h_out h_rigs h_memCheck h_ucs h_ropes h_rings h_svcs h_journal h_sec h_det f bad n s, h']

theorem checkLines_frame (h_regs : Blind.regs φ) (h_seq : Blind.seq φ) (h_out : Blind.out φ) (h_rigs : Blind.rigs φ) (h_memCheck : Blind.memCheck φ) (h_ucs : Blind.ucs φ) (h_ropes : Blind.ropes φ) (h_rings : Blind.rings φ) (h_svcs : Blind.svcs φ) (h_journal : Blind.journal φ) (h_sec : Blind.sec φ) (h_det : Blind.det φ) (f : Finder) (bad : Tbl Nat) (a0 : List Nat) (s : State) :
    φ (checkLines f bad a0 s).2 = φ s := by
  induction a0 generalizing s with
  | nil => unfold checkLines; rfl
  | cons x r ih =>
    unfold checkLines
    repeat' first
      | simp only [checkLine_frame h_regs h_seq h_out h_rigs h_memCheck h_ucs h_ropes h_rings h_svcs h_journal h_sec h_det, ih]
      | split
      | refine Eq.trans (checkLine_frame_of h_regs h_seq h_out h_rigs h_memCheck h_ucs h_ropes h_rings h_svcs h_journal h_sec h_det ‹_›) ?_
      | dsimp only
      | with_reducible rfl

theorem checkLines_frame_of (h_regs : Blind.regs φ) (h_seq : Blind.seq φ) (h_out : Blind.out φ) (h_rigs : Blind.rigs φ) (h_memCheck : Blind.memCheck φ) (h_ucs : Blind.ucs φ) (h_ropes : Blind.ropes φ) (h_rings : Blind.rings φ) (h_svcs : Blind.svcs φ) (h_journal : Blind.journal φ) (h_sec : Blind.sec φ) (h_det : Blind.det φ) {f : Finder} {bad : Tbl Nat} {a0 : List Nat} {s : State} {t' : State} {x0}
    (h' : checkLines f bad a0 s = (x0, t')) : φ t' = φ s := by
  rw [← checkLines_frame h_regs h_seq h_out h_rigs h_memCheck h_ucs h_ropes h_rings h_svcs h_journal h_sec h_det f bad a0 s, h']

theorem memRead_frame (h_regs : Blind.regs φ) (h_seq : Blind.seq φ) (h_out : Blind.out φ) (h_rigs : Blind.rigs φ) (h_memCheck : Blind.memCheck φ) (h_ucs : Blind.ucs φ) (h_ropes : Blind.ropes φ) (h_rings : Blind.rings φ) (h_svcs : Blind.svcs φ) (h_journal : Blind.journal φ) (h_sec : Blind.sec φ) (h_det : Blind.det φ) (f : Finder) (bad : Tbl Nat) (o n : Nat) (s : State) :
    φ (memRead f bad o n s).2 = φ s := by
  unfold memRead
  repeat' first
    | simp only [checkLines_frame h_regs h_seq h_out h_rigs h_memCheck h_ucs h_ropes h_rings h_svcs h_journal h_sec h_det]
    | split
    | refine Eq.trans (checkLines_frame_of h_regs h_seq h_out h_rigs h_memCheck h_ucs h_ropes h_rings h_svcs h_journal h_sec h_det ‹_›) ?_
    | dsimp only
    | with_reducible rfl

theorem memRead_frame_of (h_regs : Blind.regs φ) (h_seq : Blind.seq φ) (h_out : Blind.out φ) (h_rigs : Blind.rigs φ) (h_memCheck : Blind.memCheck φ) (h_ucs : Blind.ucs φ) (h_ropes : Blind.ropes φ) (h_rings : Blind.rings φ) (h_svcs : Blind.svcs φ) (h_journal : Blind.journal φ) (h_sec : Blind.sec φ) (h_det : Blind.det φ) {f : Finder} {bad : Tbl Nat} {o : Nat} {n : Nat} {s : State} {t' : State} {x0}
    (h' : memRead f bad o n s = (x0, t')) : φ t' = φ s := by
  rw [← memRead_frame h_regs h_seq h_out h_rigs h_memCheck h_ucs h_ropes h_rings h_svcs h_journal h_sec h_det f bad o n s, h']

theorem rekeyLine_frame (h_memEpoch : Blind.memEpoch φ) (h_memKey : Blind.memKey φ) (n : Nat) (s : State) :
    φ (rekeyLine n s) = φ s := by
  unfold rekeyLine
  repeat' first
    | simp only [setMemEpoch_frame h_memEpoch, setMemKey_frame h_memKey]
    | split
    | dsimp only
    | with_reducible rfl

theorem rewriteLine_frame (h_regs : Blind.regs φ) (h_seq : Blind.seq φ) (h_memCheck : Blind.memCheck φ) (h_memEpoch : Blind.memEpoch φ) (h_memKey : Blind.memKey φ) (h_rings : Blind.rings φ) (h_journal : Blind.journal φ) (h_sec : Blind.sec φ) (h_det : Blind.det φ) (n : Nat) (s : State) :
    φ (rewriteLine n s) = φ s := by
  unfold rewriteLine
  repeat' first
    | simp only [hitLine_frame h_regs h_seq h_rings h_journal h_sec h_det, rekeyLine_frame h_memEpoch h_memKey, setMemCheck_frame h_memCheck]
    | split
    | dsimp only
    | with_reducible rfl

theorem settleLine_frame (h_mem : Blind.mem φ) (n : Nat) (s : State) :
    φ (settleLine n s) = φ s := by
  unfold settleLine
  repeat' first
    | simp only [pokeBytes_frame h_mem]
    | split
    | dsimp only
    | with_reducible rfl

theorem storeBytes_frame (h_regs : Blind.regs φ) (h_seq : Blind.seq φ) (h_mem : Blind.mem φ) (h_memCheck : Blind.memCheck φ) (h_memEpoch : Blind.memEpoch φ) (h_memKey : Blind.memKey φ) (h_rings : Blind.rings φ) (h_journal : Blind.journal φ) (h_sec : Blind.sec φ) (h_det : Blind.det φ) (o : Nat) (l : List Byte) (s : State) :
    φ (storeBytes o l s) = φ s := by
  unfold storeBytes
  repeat' first
    | simp only [pokeBytes_frame h_mem, rewriteLine_frame h_regs h_seq h_memCheck h_memEpoch h_memKey h_rings h_journal h_sec h_det, settleLine_frame h_mem]
    | with_reducible refine Eq.trans (foldl_frame (fun _ _ => ?_) _ _) ?_
    | split
    | dsimp only
    | with_reducible rfl

theorem memWrite_frame (h_regs : Blind.regs φ) (h_seq : Blind.seq φ) (h_out : Blind.out φ) (h_rigs : Blind.rigs φ) (h_mem : Blind.mem φ) (h_memCheck : Blind.memCheck φ) (h_memEpoch : Blind.memEpoch φ) (h_memKey : Blind.memKey φ) (h_ucs : Blind.ucs φ) (h_ropes : Blind.ropes φ) (h_rings : Blind.rings φ) (h_svcs : Blind.svcs φ) (h_journal : Blind.journal φ) (h_sec : Blind.sec φ) (h_det : Blind.det φ) (f : Finder) (bad : Tbl Nat) (o : Nat) (l : List Byte) (s : State) :
    φ (memWrite f bad o l s).2 = φ s := by
  unfold memWrite
  repeat' first
    | simp only [checkLines_frame h_regs h_seq h_out h_rigs h_memCheck h_ucs h_ropes h_rings h_svcs h_journal h_sec h_det, storeBytes_frame h_regs h_seq h_mem h_memCheck h_memEpoch h_memKey h_rings h_journal h_sec h_det]
    | split
    | refine Eq.trans (checkLines_frame_of h_regs h_seq h_out h_rigs h_memCheck h_ucs h_ropes h_rings h_svcs h_journal h_sec h_det ‹_›) ?_
    | dsimp only
    | with_reducible rfl

theorem memWrite_frame_of (h_regs : Blind.regs φ) (h_seq : Blind.seq φ) (h_out : Blind.out φ) (h_rigs : Blind.rigs φ) (h_mem : Blind.mem φ) (h_memCheck : Blind.memCheck φ) (h_memEpoch : Blind.memEpoch φ) (h_memKey : Blind.memKey φ) (h_ucs : Blind.ucs φ) (h_ropes : Blind.ropes φ) (h_rings : Blind.rings φ) (h_svcs : Blind.svcs φ) (h_journal : Blind.journal φ) (h_sec : Blind.sec φ) (h_det : Blind.det φ) {f : Finder} {bad : Tbl Nat} {o : Nat} {l : List Byte} {s : State} {t' : State} {x0}
    (h' : memWrite f bad o l s = (x0, t')) : φ t' = φ s := by
  rw [← memWrite_frame h_regs h_seq h_out h_rigs h_mem h_memCheck h_memEpoch h_memKey h_ucs h_ropes h_rings h_svcs h_journal h_sec h_det f bad o l s, h']

end Sys2Proof.Laws
end

