-- ==== Sys2Proof/Laws/FabricOpsFrame.lean ====
section
/-!
SUPPORT. Frames of the operations of Sys2Proof/Machine/FabricOps.lean: what none of them writes stays as it was.
-/
namespace Sys2Proof.Laws
open Machine Machine.State

set_option linter.unusedSimpArgs false
set_option linter.unusedTactic false
set_option linter.unreachableTactic false
set_option linter.unusedVariables false

variable {α : Type} {φ : State → α}

theorem setSram_frame (h_treads : Blind.treads φ) (h_flights : Blind.flights φ) (x : SramPlace) (t : Nat) (l : List Byte) (s : State) :
    φ (setSram x t l s) = φ s := by
  unfold setSram
  repeat' first
    | simp only [setFlight_frame h_flights, setTread_frame h_treads]
    | with_reducible refine Eq.trans (foldl_frame (fun _ _ => ?_) _ _) ?_
    | split
    | dsimp only
    | with_reducible rfl

theorem fabPerform_frame (h_regs : Blind.regs φ) (h_seq : Blind.seq φ) (h_out : Blind.out φ) (h_rigs : Blind.rigs φ) (h_treads : Blind.treads φ) (h_flights : Blind.flights φ) (h_ctxs : Blind.ctxs φ) (h_landings : Blind.landings φ) (h_mem : Blind.mem φ) (h_memCheck : Blind.memCheck φ) (h_memEpoch : Blind.memEpoch φ) (h_memKey : Blind.memKey φ) (h_ucs : Blind.ucs φ) (h_ropes : Blind.ropes φ) (h_rings : Blind.rings φ) (h_svcs : Blind.svcs φ) (h_journal : Blind.journal φ) (h_sec : Blind.sec φ) (h_det : Blind.det φ) (bad : Tbl Nat) (r : FabReq) (s : State) :
    φ (fabPerform bad r s).2.2 = φ s := by
  unfold fabPerform
  repeat' first
    | simp only [ingestPush_frame h_regs h_seq h_ctxs h_landings h_rings h_det, memRead_frame h_regs h_seq h_out h_rigs h_memCheck h_ucs h_ropes h_rings h_svcs h_journal h_sec h_det, memWrite_frame h_regs h_seq h_out h_rigs h_mem h_memCheck h_memEpoch h_memKey h_ucs h_ropes h_rings h_svcs h_journal h_sec h_det, setSram_frame h_treads h_flights, storeBytes_frame h_regs h_seq h_mem h_memCheck h_memEpoch h_memKey h_rings h_journal h_sec h_det]
    | split
    | refine Eq.trans (memRead_frame_of h_regs h_seq h_out h_rigs h_memCheck h_ucs h_ropes h_rings h_svcs h_journal h_sec h_det ‹_›) ?_
    | refine Eq.trans (memWrite_frame_of h_regs h_seq h_out h_rigs h_mem h_memCheck h_memEpoch h_memKey h_ucs h_ropes h_rings h_svcs h_journal h_sec h_det ‹_›) ?_
    | dsimp only
    | with_reducible rfl

theorem fabPerform_frame_of (h_regs : Blind.regs φ) (h_seq : Blind.seq φ) (h_out : Blind.out φ) (h_rigs : Blind.rigs φ) (h_treads : Blind.treads φ) (h_flights : Blind.flights φ) (h_ctxs : Blind.ctxs φ) (h_landings : Blind.landings φ) (h_mem : Blind.mem φ) (h_memCheck : Blind.memCheck φ) (h_memEpoch : Blind.memEpoch φ) (h_memKey : Blind.memKey φ) (h_ucs : Blind.ucs φ) (h_ropes : Blind.ropes φ) (h_rings : Blind.rings φ) (h_svcs : Blind.svcs φ) (h_journal : Blind.journal φ) (h_sec : Blind.sec φ) (h_det : Blind.det φ) {bad : Tbl Nat} {r : FabReq} {s : State} {t' : State} {x0 x1}
    (h' : fabPerform bad r s = (x0, x1, t')) : φ t' = φ s := by
  rw [← fabPerform_frame h_regs h_seq h_out h_rigs h_treads h_flights h_ctxs h_landings h_mem h_memCheck h_memEpoch h_memKey h_ucs h_ropes h_rings h_svcs h_journal h_sec h_det bad r s, h']

theorem fabError_frame (h_regs : Blind.regs φ) (h_seq : Blind.seq φ) (h_rings : Blind.rings φ) (h_det : Blind.det φ) (r : FabReq) (status : Nat) (s : State) :
    φ (fabError r status s) = φ s := by
  unfold fabError
  repeat' first
    | simp only [bump_frame h_regs, raise_frame h_regs h_seq h_rings h_det, set_frame h_regs]
    | split
    | dsimp only
    | with_reducible rfl

theorem keepRoute_frame (h_fabric : Blind.fabric φ) (p peer : Nat) (s : State) :
    φ (keepRoute p peer s) = φ s := by
  unfold keepRoute
  repeat' first
    | simp only [h_fabric.eq]
    | split
    | dsimp only
    | with_reducible rfl

theorem chooseRoutes_frame (h_fabric : Blind.fabric φ) (p : Nat) (s : State) :
    φ (chooseRoutes p s) = φ s := by
  unfold chooseRoutes
  repeat' first
    | simp only [keepRoute_frame h_fabric]
    | with_reducible refine Eq.trans (foldl_frame (fun _ _ => ?_) _ _) ?_
    | split
    | dsimp only
    | with_reducible rfl

theorem sendFabric_frame (h_out : Blind.out φ) (h_ropes : Blind.ropes φ) (p k v : Nat) (body : List Byte) (s : State) :
    φ (sendFabric p k v body s) = φ s := by
  unfold sendFabric
  repeat' first
    | simp only [sendJob_frame h_out h_ropes]
    | split
    | dsimp only
    | with_reducible rfl

theorem readParts_frame (h_regs : Blind.regs φ) (h_seq : Blind.seq φ) (h_out : Blind.out φ) (h_rigs : Blind.rigs φ) (h_treads : Blind.treads φ) (h_flights : Blind.flights φ) (h_ctxs : Blind.ctxs φ) (h_landings : Blind.landings φ) (h_mem : Blind.mem φ) (h_memCheck : Blind.memCheck φ) (h_memEpoch : Blind.memEpoch φ) (h_memKey : Blind.memKey φ) (h_ucs : Blind.ucs φ) (h_ropes : Blind.ropes φ) (h_rings : Blind.rings φ) (h_svcs : Blind.svcs φ) (h_journal : Blind.journal φ) (h_sec : Blind.sec φ) (h_det : Blind.det φ) (a : Agent) (bad : Tbl Nat) (a0 : List (Nat × Nat)) (a1 : List Byte) (s : State) :
    φ (readParts a bad a0 a1 s).2.2 = φ s := by
  induction a0 generalizing a1 s with
  | nil => unfold readParts; rfl
  | cons x r ih =>
    unfold readParts
    repeat' first
      | simp only [fabError_frame h_regs h_seq h_rings h_det, fabPerform_frame h_regs h_seq h_out h_rigs h_treads h_flights h_ctxs h_landings h_mem h_memCheck h_memEpoch h_memKey h_ucs h_ropes h_rings h_svcs h_journal h_sec h_det, ih]
      | split
      | refine Eq.trans (fabPerform_frame_of h_regs h_seq h_out h_rigs h_treads h_flights h_ctxs h_landings h_mem h_memCheck h_memEpoch h_memKey h_ucs h_ropes h_rings h_svcs h_journal h_sec h_det ‹_›) ?_
      | dsimp only
      | with_reducible rfl

theorem readParts_frame_of (h_regs : Blind.regs φ) (h_seq : Blind.seq φ) (h_out : Blind.out φ) (h_rigs : Blind.rigs φ) (h_treads : Blind.treads φ) (h_flights : Blind.flights φ) (h_ctxs : Blind.ctxs φ) (h_landings : Blind.landings φ) (h_mem : Blind.mem φ) (h_memCheck : Blind.memCheck φ) (h_memEpoch : Blind.memEpoch φ) (h_memKey : Blind.memKey φ) (h_ucs : Blind.ucs φ) (h_ropes : Blind.ropes φ) (h_rings : Blind.rings φ) (h_svcs : Blind.svcs φ) (h_journal : Blind.journal φ) (h_sec : Blind.sec φ) (h_det : Blind.det φ) {a : Agent} {bad : Tbl Nat} {a0 : List (Nat × Nat)} {a1 : List Byte} {s : State} {t' : State} {x0 x1}
    (h' : readParts a bad a0 a1 s = (x0, x1, t')) : φ t' = φ s := by
  rw [← readParts_frame h_regs h_seq h_out h_rigs h_treads h_flights h_ctxs h_landings h_mem h_memCheck h_memEpoch h_memKey h_ucs h_ropes h_rings h_svcs h_journal h_sec h_det a bad a0 a1 s, h']

theorem writeParts_frame (h_regs : Blind.regs φ) (h_seq : Blind.seq φ) (h_out : Blind.out φ) (h_rigs : Blind.rigs φ) (h_treads : Blind.treads φ) (h_flights : Blind.flights φ) (h_ctxs : Blind.ctxs φ) (h_landings : Blind.landings φ) (h_mem : Blind.mem φ) (h_memCheck : Blind.memCheck φ) (h_memEpoch : Blind.memEpoch φ) (h_memKey : Blind.memKey φ) (h_ucs : Blind.ucs φ) (h_ropes : Blind.ropes φ) (h_rings : Blind.rings φ) (h_svcs : Blind.svcs φ) (h_journal : Blind.journal φ) (h_sec : Blind.sec φ) (h_det : Blind.det φ) (a : Agent) (bad : Tbl Nat) (a0 : List (Nat × Nat)) (a1 : List Byte) (s : State) :
    φ (writeParts a bad a0 a1 s).2 = φ s := by
  induction a0 generalizing a1 s with
  | nil => unfold writeParts; rfl
  | cons x r ih =>
    unfold writeParts
    repeat' first
      | simp only [fabError_frame h_regs h_seq h_rings h_det, fabPerform_frame h_regs h_seq h_out h_rigs h_treads h_flights h_ctxs h_landings h_mem h_memCheck h_memEpoch h_memKey h_ucs h_ropes h_rings h_svcs h_journal h_sec h_det, ih]
      | split
      | refine Eq.trans (fabPerform_frame_of h_regs h_seq h_out h_rigs h_treads h_flights h_ctxs h_landings h_mem h_memCheck h_memEpoch h_memKey h_ucs h_ropes h_rings h_svcs h_journal h_sec h_det ‹_›) ?_
      | dsimp only
      | with_reducible rfl

theorem writeParts_frame_of (h_regs : Blind.regs φ) (h_seq : Blind.seq φ) (h_out : Blind.out φ) (h_rigs : Blind.rigs φ) (h_treads : Blind.treads φ) (h_flights : Blind.flights φ) (h_ctxs : Blind.ctxs φ) (h_landings : Blind.landings φ) (h_mem : Blind.mem φ) (h_memCheck : Blind.memCheck φ) (h_memEpoch : Blind.memEpoch φ) (h_memKey : Blind.memKey φ) (h_ucs : Blind.ucs φ) (h_ropes : Blind.ropes φ) (h_rings : Blind.rings φ) (h_svcs : Blind.svcs φ) (h_journal : Blind.journal φ) (h_sec : Blind.sec φ) (h_det : Blind.det φ) {a : Agent} {bad : Tbl Nat} {a0 : List (Nat × Nat)} {a1 : List Byte} {s : State} {t' : State} {x0}
    (h' : writeParts a bad a0 a1 s = (x0, t')) : φ t' = φ s := by
  rw [← writeParts_frame h_regs h_seq h_out h_rigs h_treads h_flights h_ctxs h_landings h_mem h_memCheck h_memEpoch h_memKey h_ucs h_ropes h_rings h_svcs h_journal h_sec h_det a bad a0 a1 s, h']

theorem sendParts_frame (h_out : Blind.out φ) (h_ropes : Blind.ropes φ) (h_fabric : Blind.fabric φ) (p peer k v op : Nat) (parts : List (Nat × Nat)) (data : List Byte) (s : State) :
    φ (sendParts p peer k v op parts data s) = φ s := by
  unfold sendParts
  repeat' first
    | simp only [keepRoute_frame h_fabric, sendFabric_frame h_out h_ropes, h_fabric.eq]
    | with_reducible refine Eq.trans (foldl_frame (fun _ _ => ?_) _ _) ?_
    | split
    | dsimp only
    | with_reducible rfl

theorem engRemote_frame (h_regs : Blind.regs φ) (h_seq : Blind.seq φ) (h_out : Blind.out φ) (h_ropes : Blind.ropes φ) (h_fabric : Blind.fabric φ) (h_rings : Blind.rings φ) (h_det : Blind.det φ) (a : Agent) (op far addr n : Nat) (data : List Byte) (s : State) :
    φ (engRemote a op far addr n data s).2 = φ s := by
  unfold engRemote
  repeat' first
    | simp only [fabError_frame h_regs h_seq h_rings h_det, sendParts_frame h_out h_ropes h_fabric]
    | split
    | dsimp only
    | with_reducible rfl

theorem engRemote_frame_of (h_regs : Blind.regs φ) (h_seq : Blind.seq φ) (h_out : Blind.out φ) (h_ropes : Blind.ropes φ) (h_fabric : Blind.fabric φ) (h_rings : Blind.rings φ) (h_det : Blind.det φ) {a : Agent} {op : Nat} {far : Nat} {addr : Nat} {n : Nat} {data : List Byte} {s : State} {t' : State} {x0}
    (h' : engRemote a op far addr n data s = (x0, t')) : φ t' = φ s := by
  rw [← engRemote_frame h_regs h_seq h_out h_ropes h_fabric h_rings h_det a op far addr n data s, h']

theorem engRead_frame (h_regs : Blind.regs φ) (h_seq : Blind.seq φ) (h_out : Blind.out φ) (h_rigs : Blind.rigs φ) (h_treads : Blind.treads φ) (h_flights : Blind.flights φ) (h_ctxs : Blind.ctxs φ) (h_landings : Blind.landings φ) (h_mem : Blind.mem φ) (h_memCheck : Blind.memCheck φ) (h_memEpoch : Blind.memEpoch φ) (h_memKey : Blind.memKey φ) (h_ucs : Blind.ucs φ) (h_ropes : Blind.ropes φ) (h_fabric : Blind.fabric φ) (h_rings : Blind.rings φ) (h_svcs : Blind.svcs φ) (h_journal : Blind.journal φ) (h_sec : Blind.sec φ) (h_det : Blind.det φ) (a : Agent) (bad : Tbl Nat) (far : Nat × List Byte) (addr n : Nat) (s : State) :
    φ (engRead a bad far addr n s).2.2 = φ s := by
  unfold engRead
  repeat' first
    | simp only [engRemote_frame h_regs h_seq h_out h_ropes h_fabric h_rings h_det, readParts_frame h_regs h_seq h_out h_rigs h_treads h_flights h_ctxs h_landings h_mem h_memCheck h_memEpoch h_memKey h_ucs h_ropes h_rings h_svcs h_journal h_sec h_det]
    | split
    | refine Eq.trans (engRemote_frame_of h_regs h_seq h_out h_ropes h_fabric h_rings h_det ‹_›) ?_
    | refine Eq.trans (readParts_frame_of h_regs h_seq h_out h_rigs h_treads h_flights h_ctxs h_landings h_mem h_memCheck h_memEpoch h_memKey h_ucs h_ropes h_rings h_svcs h_journal h_sec h_det ‹_›) ?_
    | dsimp only
    | with_reducible rfl

theorem engRead_frame_of (h_regs : Blind.regs φ) (h_seq : Blind.seq φ) (h_out : Blind.out φ) (h_rigs : Blind.rigs φ) (h_treads : Blind.treads φ) (h_flights : Blind.flights φ) (h_ctxs : Blind.ctxs φ) (h_landings : Blind.landings φ) (h_mem : Blind.mem φ) (h_memCheck : Blind.memCheck φ) (h_memEpoch : Blind.memEpoch φ) (h_memKey : Blind.memKey φ) (h_ucs : Blind.ucs φ) (h_ropes : Blind.ropes φ) (h_fabric : Blind.fabric φ) (h_rings : Blind.rings φ) (h_svcs : Blind.svcs φ) (h_journal : Blind.journal φ) (h_sec : Blind.sec φ) (h_det : Blind.det φ) {a : Agent} {bad : Tbl Nat} {far : Nat × List Byte} {addr : Nat} {n : Nat} {s : State} {t' : State} {x0 x1}
    (h' : engRead a bad far addr n s = (x0, x1, t')) : φ t' = φ s := by
  rw [← engRead_frame h_regs h_seq h_out h_rigs h_treads h_flights h_ctxs h_landings h_mem h_memCheck h_memEpoch h_memKey h_ucs h_ropes h_fabric h_rings h_svcs h_journal h_sec h_det a bad far addr n s, h']

theorem engWrite_frame (h_regs : Blind.regs φ) (h_seq : Blind.seq φ) (h_out : Blind.out φ) (h_rigs : Blind.rigs φ) (h_treads : Blind.treads φ) (h_flights : Blind.flights φ) (h_ctxs : Blind.ctxs φ) (h_landings : Blind.landings φ) (h_mem : Blind.mem φ) (h_memCheck : Blind.memCheck φ) (h_memEpoch : Blind.memEpoch φ) (h_memKey : Blind.memKey φ) (h_ucs : Blind.ucs φ) (h_ropes : Blind.ropes φ) (h_fabric : Blind.fabric φ) (h_rings : Blind.rings φ) (h_svcs : Blind.svcs φ) (h_journal : Blind.journal φ) (h_sec : Blind.sec φ) (h_det : Blind.det φ) (a : Agent) (bad : Tbl Nat) (far addr : Nat) (l : List Byte) (s : State) :
    φ (engWrite a bad far addr l s).2 = φ s := by
  unfold engWrite
  repeat' first
    | simp only [engRemote_frame h_regs h_seq h_out h_ropes h_fabric h_rings h_det, writeParts_frame h_regs h_seq h_out h_rigs h_treads h_flights h_ctxs h_landings h_mem h_memCheck h_memEpoch h_memKey h_ucs h_ropes h_rings h_svcs h_journal h_sec h_det]
    | split
    | refine Eq.trans (engRemote_frame_of h_regs h_seq h_out h_ropes h_fabric h_rings h_det ‹_›) ?_
    | refine Eq.trans (writeParts_frame_of h_regs h_seq h_out h_rigs h_treads h_flights h_ctxs h_landings h_mem h_memCheck h_memEpoch h_memKey h_ucs h_ropes h_rings h_svcs h_journal h_sec h_det ‹_›) ?_
    | dsimp only
    | with_reducible rfl

theorem engWrite_frame_of (h_regs : Blind.regs φ) (h_seq : Blind.seq φ) (h_out : Blind.out φ) (h_rigs : Blind.rigs φ) (h_treads : Blind.treads φ) (h_flights : Blind.flights φ) (h_ctxs : Blind.ctxs φ) (h_landings : Blind.landings φ) (h_mem : Blind.mem φ) (h_memCheck : Blind.memCheck φ) (h_memEpoch : Blind.memEpoch φ) (h_memKey : Blind.memKey φ) (h_ucs : Blind.ucs φ) (h_ropes : Blind.ropes φ) (h_fabric : Blind.fabric φ) (h_rings : Blind.rings φ) (h_svcs : Blind.svcs φ) (h_journal : Blind.journal φ) (h_sec : Blind.sec φ) (h_det : Blind.det φ) {a : Agent} {bad : Tbl Nat} {far : Nat} {addr : Nat} {l : List Byte} {s : State} {t' : State} {x0}
    (h' : engWrite a bad far addr l s = (x0, t')) : φ t' = φ s := by
  rw [← engWrite_frame h_regs h_seq h_out h_rigs h_treads h_flights h_ctxs h_landings h_mem h_memCheck h_memEpoch h_memKey h_ucs h_ropes h_fabric h_rings h_svcs h_journal h_sec h_det a bad far addr l s, h']

end Sys2Proof.Laws
end

