-- ==== Sys2Proof/Laws/PowerOpsFrame.lean ====
section
/-!
SUPPORT. Frames of the operations of Sys2Proof/Machine/PowerOps.lean: what none of them writes stays as it was.
-/
namespace Sys2Proof.Laws
open Machine Machine.State

set_option linter.unusedSimpArgs false
set_option linter.unusedTactic false
set_option linter.unreachableTactic false
set_option linter.unusedVariables false

variable {α : Type} {φ : State → α}

theorem lowerCodes_frame (h_regs : Blind.regs φ) (slot : Nat) (s : State) :
    φ (lowerCodes slot s) = φ s := by
  unfold lowerCodes
  repeat' first
    | simp only [set_frame h_regs]
    | with_reducible refine Eq.trans (foldl_frame (fun _ _ => ?_) _ _) ?_
    | split
    | dsimp only
    | with_reducible rfl

theorem setStageRate_frame (h_regs : Blind.regs φ) (h_power : Blind.power φ) (slot num den : Nat) (s : State) :
    φ (setStageRate slot num den s) = φ s := by
  unfold setStageRate
  repeat' first
    | simp only [lowerCodes_frame h_regs, set_frame h_regs, h_power.eq]
    | split
    | dsimp only
    | with_reducible rfl

theorem beginStageRate_frame (h_regs : Blind.regs φ) (h_power : Blind.power φ) (slot : Nat) (s : State) :
    φ (beginStageRate slot s) = φ s := by
  unfold beginStageRate
  repeat' first
    | simp only [set_frame h_regs, setStageRate_frame h_regs h_power]
    | split
    | dsimp only
    | with_reducible rfl

theorem dropStageRate_frame (h_regs : Blind.regs φ) (h_power : Blind.power φ) (slot : Nat) (s : State) :
    φ (dropStageRate slot s) = φ s := by
  unfold dropStageRate
  repeat' first
    | simp only [unset_frame h_regs, h_power.eq]
    | split
    | dsimp only
    | with_reducible rfl

theorem dropAdmission_frame (h_power : Blind.power φ) (gf : Nat) (s : State) :
    φ (dropAdmission gf s) = φ s := by
  unfold dropAdmission
  repeat' first
    | simp only [h_power.eq]
    | split
    | dsimp only
    | with_reducible rfl

theorem flightOff_frame (h_regs : Blind.regs φ) (h_power : Blind.power φ) (h_treads : Blind.treads φ) (h_flights : Blind.flights φ) (gf : Nat) (s : State) :
    φ (flightOff gf s) = φ s := by
  unfold flightOff
  repeat' first
    | simp only [dropAdmission_frame h_power, set_frame h_regs, setFlight_frame h_flights, setPower_frame h_power, setTread_frame h_treads, setTreads_frame h_treads]
    | with_reducible refine Eq.trans (foldl_frame (fun _ _ => ?_) _ _) ?_
    | split
    | dsimp only
    | with_reducible rfl

theorem wakeAt_frame (h_power : Blind.power φ) (code gf : Nat) (s : State) :
    φ (wakeAt code gf s) = φ s := by
  unfold wakeAt
  repeat' first
    | simp only [setPower_frame h_power]
    | split
    | dsimp only
    | with_reducible rfl

theorem bringUp_frame (h_power : Blind.power φ) (slot gf : Nat) (s : State) :
    φ (bringUp slot gf s) = φ s := by
  unfold bringUp
  repeat' first
    | simp only [wakeAt_frame h_power]
    | split
    | dsimp only
    | with_reducible rfl

theorem packageFault_frame (h_pkg : Blind.pkg φ) (h_out : Blind.out φ) (h_pins : Blind.pins φ) (s : State) :
    φ (packageFault s) = φ s := by
  unfold packageFault
  repeat' first
    | simp only [put_frame h_out, setPins_frame h_pins, h_pkg.eq]
    | split
    | dsimp only
    | with_reducible rfl

theorem holdAdmission_frame (h_regs : Blind.regs φ) (h_power : Blind.power φ) (s : State) :
    φ (holdAdmission s) = φ s := by
  unfold holdAdmission
  repeat' first
    | simp only [bump_frame h_regs, set_frame h_regs, h_power.eq]
    | split
    | dsimp only
    | with_reducible rfl

theorem showHold_frame (h_regs : Blind.regs φ) (s : State) :
    φ (showHold s) = φ s := by
  unfold showHold
  repeat' first
    | simp only [set_frame h_regs]
    | split
    | dsimp only
    | with_reducible rfl

theorem formBudget_frame (h_regs : Blind.regs φ) (h_power : Blind.power φ) (s : State) :
    φ (formBudget s) = φ s := by
  unfold formBudget
  repeat' first
    | simp only [set_frame h_regs, h_power.eq]
    | split
    | dsimp only
    | with_reducible rfl

theorem journalSettings_frame (h_regs : Blind.regs φ) (h_journal : Blind.journal φ) (s : State) :
    φ (journalSettings s) = φ s := by
  unfold journalSettings
  repeat' first
    | simp only [journalWrite_frame h_regs h_journal]
    | split
    | dsimp only
    | with_reducible rfl

theorem scaleRates_frame (h_regs : Blind.regs φ) (h_power : Blind.power φ) (k : Nat) (s : State) :
    φ (scaleRates k s) = φ s := by
  unfold scaleRates
  repeat' first
    | simp only [setStageRate_frame h_regs h_power]
    | with_reducible refine Eq.trans (foldl_frame (fun _ _ => ?_) _ _) ?_
    | split
    | dsimp only
    | with_reducible rfl

theorem floorRates_frame (h_regs : Blind.regs φ) (h_power : Blind.power φ) (s : State) :
    φ (floorRates s) = φ s := by
  unfold floorRates
  repeat' first
    | simp only [setStageRate_frame h_regs h_power]
    | with_reducible refine Eq.trans (foldl_frame (fun _ _ => ?_) _ _) ?_
    | split
    | dsimp only
    | with_reducible rfl

theorem balanceTo_frame (h_regs : Blind.regs φ) (h_power : Blind.power φ) (slot a d errD lo hi : Nat) (dr : Int) (s : State) :
    φ (balanceTo slot a d errD lo hi dr s) = φ s := by
  unfold balanceTo
  repeat' first
    | simp only [setStageRate_frame h_regs h_power]
    | split
    | dsimp only
    | with_reducible rfl

theorem noteSaturated_frame (h_regs : Blind.regs φ) (h_seq : Blind.seq φ) (h_power : Blind.power φ) (h_rings : Blind.rings φ) (h_det : Blind.det φ) (slot c : Nat) (sat : Bool) (s : State) :
    φ (noteSaturated slot c sat s) = φ s := by
  unfold noteSaturated
  repeat' first
    | simp only [raise_frame h_regs h_seq h_rings h_det, set_frame h_regs, setPower_frame h_power]
    | split
    | dsimp only
    | with_reducible rfl

theorem balanceRun_frame (h_regs : Blind.regs φ) (h_seq : Blind.seq φ) (h_power : Blind.power φ) (h_rings : Blind.rings φ) (h_det : Blind.det φ) (slot c occ cr : Nat) (v : VDom) (s : State) :
    φ (balanceRun slot c occ cr v s) = φ s := by
  unfold balanceRun
  repeat' first
    | simp only [balanceTo_frame h_regs h_power, noteSaturated_frame h_regs h_seq h_power h_rings h_det, setPower_frame h_power]
    | split
    | dsimp only
    | with_reducible rfl

theorem balanceUpdate_frame (h_regs : Blind.regs φ) (h_seq : Blind.seq φ) (h_power : Blind.power φ) (h_rings : Blind.rings φ) (h_det : Blind.det φ) (slot c : Nat) (s : State) :
    φ (balanceUpdate slot c s) = φ s := by
  unfold balanceUpdate
  repeat' first
    | simp only [balanceRun_frame h_regs h_seq h_power h_rings h_det]
    | split
    | dsimp only
    | with_reducible rfl

theorem startTread_frame (h_treads : Blind.treads φ) (t : Nat) (s : State) :
    φ (startTread t s) = φ s := by
  unfold startTread
  repeat' first
    | simp only [setTread_frame h_treads]
    | split
    | dsimp only
    | with_reducible rfl

theorem admitFlight_frame (h_power : Blind.power φ) (h_treads : Blind.treads φ) (gf : Nat) (s : State) :
    φ (admitFlight gf s) = φ s := by
  unfold admitFlight
  repeat' first
    | simp only [setPower_frame h_power, startTread_frame h_treads, h_power.eq]
    | with_reducible refine Eq.trans (foldl_frame (fun _ _ => ?_) _ _) ?_
    | split
    | dsimp only
    | with_reducible rfl

theorem tokenStep_frame (h_regs : Blind.regs φ) (h_power : Blind.power φ) (h_treads : Blind.treads φ) (left : Nat) (held : Bool) (gf : Nat) (s : State) :
    φ (tokenStep left held gf s).2.2 = φ s := by
  unfold tokenStep
  repeat' first
    | simp only [admitFlight_frame h_power h_treads, set_frame h_regs, setPower_frame h_power]
    | split
    | dsimp only
    | with_reducible rfl

theorem tokenStep_frame_of (h_regs : Blind.regs φ) (h_power : Blind.power φ) (h_treads : Blind.treads φ) {left : Nat} {held : Bool} {gf : Nat} {s : State} {t' : State} {x0 x1}
    (h' : tokenStep left held gf s = (x0, x1, t')) : φ t' = φ s := by
  rw [← tokenStep_frame h_regs h_power h_treads left held gf s, h']

theorem tokenAll_frame (h_regs : Blind.regs φ) (h_power : Blind.power φ) (h_treads : Blind.treads φ) (a0 : List Nat) (a1 : Nat) (a2 : Bool) (s : State) :
    φ (tokenAll a0 a1 a2 s).2 = φ s := by
  induction a0 generalizing a1 a2 s with
  | nil => unfold tokenAll; rfl
  | cons x r ih =>
    unfold tokenAll
    repeat' first
      | simp only [tokenStep_frame h_regs h_power h_treads, ih]
      | split
      | refine Eq.trans (tokenStep_frame_of h_regs h_power h_treads ‹_›) ?_
      | dsimp only
      | with_reducible rfl

theorem tokenAll_frame_of (h_regs : Blind.regs φ) (h_power : Blind.power φ) (h_treads : Blind.treads φ) {a0 : List Nat} {a1 : Nat} {a2 : Bool} {s : State} {t' : State} {x0}
    (h' : tokenAll a0 a1 a2 s = (x0, t')) : φ t' = φ s := by
  rw [← tokenAll_frame h_regs h_power h_treads a0 a1 a2 s, h']

end Sys2Proof.Laws
end

