-- ==== Sys2Proof/Laws/FenceOpsFrame.lean ====
section
/-!
SUPPORT. Frames of the operations of Sys2Proof/Machine/FenceOps.lean: what none of them writes stays as it was.
-/
namespace Sys2Proof.Laws
open Machine Machine.State

set_option linter.unusedSimpArgs false
set_option linter.unusedTactic false
set_option linter.unreachableTactic false
set_option linter.unusedVariables false

variable {α : Type} {φ : State → α}

theorem setupTread_frame (h_treads : Blind.treads φ) (r : Rigging) (role odd gf row c : Nat) (s : State) :
    φ (setupTread r role odd gf row c s) = φ s := by
  unfold setupTread
  repeat' first
    | simp only [setTread_frame h_treads]
    | split
    | dsimp only
    | with_reducible rfl

theorem setupFlight_frame (h_treads : Blind.treads φ) (r : Rigging) (role odd gf : Nat) (s : State) :
    φ (setupFlight r role odd gf s) = φ s := by
  unfold setupFlight
  repeat' first
    | simp only [setupTread_frame h_treads]
    | with_reducible refine Eq.trans (foldl_frame (fun _ _ => ?_) _ _) ?_
    | split
    | dsimp only
    | with_reducible rfl

theorem showCapacity_frame (h_regs : Blind.regs φ) (s : State) :
    φ (showCapacity s) = φ s := by
  unfold showCapacity
  repeat' first
    | simp only [set_frame h_regs]
    | split
    | dsimp only
    | with_reducible rfl

theorem journalFences_frame (h_regs : Blind.regs φ) (h_journal : Blind.journal φ) (s : State) :
    φ (journalFences s) = φ s := by
  unfold journalFences
  repeat' first
    | simp only [journalWrite_frame h_regs h_journal]
    | split
    | dsimp only
    | with_reducible rfl

theorem queueRerig_frame (h_rigs : Blind.rigs φ) (p : Nat) (x : Rerig) (s : State) :
    φ (queueRerig p x s) = φ s := by
  unfold queueRerig
  repeat' first
    | simp only [setRig_frame h_rigs]
    | split
    | dsimp only
    | with_reducible rfl

theorem shiftRow_frame (h_fence : Blind.fence φ) (gf row col : Nat) (s : State) :
    φ (shiftRow gf row col s) = φ s := by
  unfold shiftRow
  repeat' first
    | simp only [h_fence.eq]
    | split
    | dsimp only
    | with_reducible rfl

theorem showRoles_frame (h_regs : Blind.regs φ) (p : Nat) (s : State) :
    φ (showRoles p s) = φ s := by
  unfold showRoles
  repeat' first
    | simp only [set_frame h_regs]
    | split
    | dsimp only
    | with_reducible rfl

theorem afterFence_frame (h_regs : Blind.regs φ) (h_out : Blind.out φ) (h_rigs : Blind.rigs φ) (h_ropes : Blind.ropes φ) (h_svcs : Blind.svcs φ) (h_journal : Blind.journal φ) (gf : Nat) (s : State) :
    φ (afterFence gf s) = φ s := by
  unfold afterFence
  repeat' first
    | simp only [findCause_frame h_regs h_out h_rigs h_ropes h_svcs, journalFences_frame h_regs h_journal, showCapacity_frame h_regs]
    | split
    | dsimp only
    | with_reducible rfl

theorem endInjectionAt_frame (h_regs : Blind.regs φ) (h_seq : Blind.seq φ) (h_rings : Blind.rings φ) (h_det : Blind.det φ) (gf : Nat) (tread : Option Nat) (s : State) :
    φ (endInjectionAt gf tread s) = φ s := by
  unfold endInjectionAt
  repeat' first
    | simp only [endInjection_frame h_regs h_seq h_rings h_det]
    | split
    | dsimp only
    | with_reducible rfl

theorem fenceFlight_frame (h_regs : Blind.regs φ) (h_seq : Blind.seq φ) (h_out : Blind.out φ) (h_fence : Blind.fence φ) (h_power : Blind.power φ) (h_rigs : Blind.rigs φ) (h_treads : Blind.treads φ) (h_flights : Blind.flights φ) (h_ropes : Blind.ropes φ) (h_rings : Blind.rings φ) (h_svcs : Blind.svcs φ) (h_journal : Blind.journal φ) (h_det : Blind.det φ) (gf : Nat) (inj : Bool) (s : State) :
    φ (fenceFlight gf inj s) = φ s := by
  unfold fenceFlight
  repeat' first
    | simp only [afterFence_frame h_regs h_out h_rigs h_ropes h_svcs h_journal, endInjectionAt_frame h_regs h_seq h_rings h_det, flightOff_frame h_regs h_power h_treads h_flights, queueRerig_frame h_rigs, showRoles_frame h_regs, h_fence.eq]
    | split
    | dsimp only
    | with_reducible rfl

theorem fenceTread_frame (h_regs : Blind.regs φ) (h_seq : Blind.seq φ) (h_out : Blind.out φ) (h_fence : Blind.fence φ) (h_power : Blind.power φ) (h_rigs : Blind.rigs φ) (h_treads : Blind.treads φ) (h_flights : Blind.flights φ) (h_ropes : Blind.ropes φ) (h_rings : Blind.rings φ) (h_svcs : Blind.svcs φ) (h_journal : Blind.journal φ) (h_det : Blind.det φ) (t : Nat) (inj : Bool) (s : State) :
    φ (fenceTread t inj s) = φ s := by
  unfold fenceTread
  repeat' first
    | simp only [afterFence_frame h_regs h_out h_rigs h_ropes h_svcs h_journal, endInjectionAt_frame h_regs h_seq h_rings h_det, fenceFlight_frame h_regs h_seq h_out h_fence h_power h_rigs h_treads h_flights h_ropes h_rings h_svcs h_journal h_det, queueRerig_frame h_rigs, setTread_frame h_treads, shiftRow_frame h_fence, h_fence.eq]
    | split
    | dsimp only
    | with_reducible rfl

theorem dropPorts_frame (h_chans : Blind.chans φ) (p : Nat) (f : Bool → Nat → Bool) (s : State) :
    φ (dropPorts p f s) = φ s := by
  unfold dropPorts
  repeat' first
    | simp only [h_chans.eq]
    | split
    | dsimp only
    | with_reducible rfl

theorem restoreCredits_frame (h_chans : Blind.chans φ) (p role : Nat) (s : State) :
    φ (restoreCredits p role s) = φ s := by
  unfold restoreCredits
  repeat' first
    | simp only [dropPorts_frame h_chans, setChan_frame h_chans]
    | with_reducible refine Eq.trans (foldl_frame (fun _ _ => ?_) _ _) ?_
    | split
    | dsimp only
    | with_reducible rfl

theorem moveRole_frame (h_regs : Blind.regs φ) (h_power : Blind.power φ) (h_rigs : Blind.rigs φ) (h_treads : Blind.treads φ) (h_chans : Blind.chans φ) (h_flights : Blind.flights φ) (p role g : Nat) (s : State) :
    φ (moveRole p role g s) = φ s := by
  unfold moveRole
  repeat' first
    | simp only [bringUp_frame h_power, flightOff_frame h_regs h_power h_treads h_flights, restoreCredits_frame h_chans, setRig_frame h_rigs, setupFlight_frame h_treads, showRoles_frame h_regs]
    | with_reducible refine Eq.trans (foldl_frame (fun _ _ => ?_) _ _) ?_
    | split
    | dsimp only
    | with_reducible rfl

theorem exhaustRole_frame (h_regs : Blind.regs φ) (h_seq : Blind.seq φ) (h_out : Blind.out φ) (h_power : Blind.power φ) (h_rigs : Blind.rigs φ) (h_treads : Blind.treads φ) (h_flights : Blind.flights φ) (h_ropes : Blind.ropes φ) (h_rings : Blind.rings φ) (h_svcs : Blind.svcs φ) (h_det : Blind.det φ) (p role : Nat) (s : State) :
    φ (exhaustRole p role s) = φ s := by
  unfold exhaustRole
  repeat' first
    | simp only [findCause_frame h_regs h_out h_rigs h_ropes h_svcs, flightOff_frame h_regs h_power h_treads h_flights, raise_frame h_regs h_seq h_rings h_det, setRig_frame h_rigs, showRoles_frame h_regs]
    | with_reducible refine Eq.trans (foldl_frame (fun _ _ => ?_) _ _) ?_
    | split
    | dsimp only
    | with_reducible rfl

end Sys2Proof.Laws
end

