-- ==== Sys2Proof/Laws/RigSlotFrame.lean ====
section
/-!
SUPPORT. Frames of the operations of Sys2Proof/Machine/RigSlot.lean: what none of them writes stays as it was.
-/
namespace Sys2Proof.Laws
open Machine Machine.State

set_option linter.unusedSimpArgs false
set_option linter.unusedTactic false
set_option linter.unreachableTactic false
set_option linter.unusedVariables false

variable {α : Type} {φ : State → α}

theorem slotLines_frame (h_regs : Blind.regs φ) (h_seq : Blind.seq φ) (h_out : Blind.out φ) (h_rigs : Blind.rigs φ) (h_memCheck : Blind.memCheck φ) (h_ucs : Blind.ucs φ) (h_ropes : Blind.ropes φ) (h_rings : Blind.rings φ) (h_svcs : Blind.svcs φ) (h_journal : Blind.journal φ) (h_sec : Blind.sec φ) (h_det : Blind.det φ) (bad : Tbl Nat) (a0 : List Nat) (a1 : List Byte) (s : State) :
    φ (slotLines bad a0 a1 s).2 = φ s := by
  induction a0 generalizing a1 s with
  | nil => unfold slotLines; rfl
  | cons x r ih =>
    unfold slotLines
    repeat' first
      | simp only [checkLine_frame h_regs h_seq h_out h_rigs h_memCheck h_ucs h_ropes h_rings h_svcs h_journal h_sec h_det, ih]
      | split
      | refine Eq.trans (checkLine_frame_of h_regs h_seq h_out h_rigs h_memCheck h_ucs h_ropes h_rings h_svcs h_journal h_sec h_det ‹_›) ?_
      | dsimp only
      | with_reducible rfl

theorem slotLines_frame_of (h_regs : Blind.regs φ) (h_seq : Blind.seq φ) (h_out : Blind.out φ) (h_rigs : Blind.rigs φ) (h_memCheck : Blind.memCheck φ) (h_ucs : Blind.ucs φ) (h_ropes : Blind.ropes φ) (h_rings : Blind.rings φ) (h_svcs : Blind.svcs φ) (h_journal : Blind.journal φ) (h_sec : Blind.sec φ) (h_det : Blind.det φ) {bad : Tbl Nat} {a0 : List Nat} {a1 : List Byte} {s : State} {t' : State} {x0}
    (h' : slotLines bad a0 a1 s = (x0, t')) : φ t' = φ s := by
  rw [← slotLines_frame h_regs h_seq h_out h_rigs h_memCheck h_ucs h_ropes h_rings h_svcs h_journal h_sec h_det bad a0 a1 s, h']

theorem slotRead_frame (h_regs : Blind.regs φ) (h_seq : Blind.seq φ) (h_out : Blind.out φ) (h_rigs : Blind.rigs φ) (h_memCheck : Blind.memCheck φ) (h_ucs : Blind.ucs φ) (h_ropes : Blind.ropes φ) (h_rings : Blind.rings φ) (h_svcs : Blind.svcs φ) (h_journal : Blind.journal φ) (h_sec : Blind.sec φ) (h_det : Blind.det φ) (bad : Tbl Nat) (p n : Nat) (s : State) :
    φ (slotRead bad p n s).2 = φ s := by
  unfold slotRead
  repeat' first
    | simp only [slotLines_frame h_regs h_seq h_out h_rigs h_memCheck h_ucs h_ropes h_rings h_svcs h_journal h_sec h_det]
    | split
    | refine Eq.trans (slotLines_frame_of h_regs h_seq h_out h_rigs h_memCheck h_ucs h_ropes h_rings h_svcs h_journal h_sec h_det ‹_›) ?_
    | dsimp only
    | with_reducible rfl

theorem slotRead_frame_of (h_regs : Blind.regs φ) (h_seq : Blind.seq φ) (h_out : Blind.out φ) (h_rigs : Blind.rigs φ) (h_memCheck : Blind.memCheck φ) (h_ucs : Blind.ucs φ) (h_ropes : Blind.ropes φ) (h_rings : Blind.rings φ) (h_svcs : Blind.svcs φ) (h_journal : Blind.journal φ) (h_sec : Blind.sec φ) (h_det : Blind.det φ) {bad : Tbl Nat} {p : Nat} {n : Nat} {s : State} {t' : State} {x0}
    (h' : slotRead bad p n s = (x0, t')) : φ t' = φ s := by
  rw [← slotRead_frame h_regs h_seq h_out h_rigs h_memCheck h_ucs h_ropes h_rings h_svcs h_journal h_sec h_det bad p n s, h']

theorem slotWrite_frame (h_regs : Blind.regs φ) (h_seq : Blind.seq φ) (h_mem : Blind.mem φ) (h_memCheck : Blind.memCheck φ) (h_memEpoch : Blind.memEpoch φ) (h_memKey : Blind.memKey φ) (h_rings : Blind.rings φ) (h_journal : Blind.journal φ) (h_sec : Blind.sec φ) (h_det : Blind.det φ) (p : Nat) (l : List Byte) (s : State) :
    φ (slotWrite p l s) = φ s := by
  unfold slotWrite
  repeat' first
    | simp only [storeBytes_frame h_regs h_seq h_mem h_memCheck h_memEpoch h_memKey h_rings h_journal h_sec h_det]
    | split
    | dsimp only
    | with_reducible rfl

theorem clearRange_frame (h_mem : Blind.mem φ) (h_memCheck : Blind.memCheck φ) (h_memEpoch : Blind.memEpoch φ) (h_memKey : Blind.memKey φ) (base size : Nat) (s : State) :
    φ (clearRange base size s) = φ s := by
  unfold clearRange
  repeat' first
    | simp only [setMemCheck_frame h_memCheck, setMemEpoch_frame h_memEpoch, setMemKey_frame h_memKey, h_mem.eq]
    | split
    | dsimp only
    | with_reducible rfl

theorem slotClear_frame (h_mem : Blind.mem φ) (h_memCheck : Blind.memCheck φ) (h_memEpoch : Blind.memEpoch φ) (h_memKey : Blind.memKey φ) (p : Nat) (s : State) :
    φ (slotClear p s) = φ s := by
  unfold slotClear
  repeat' first
    | simp only [clearRange_frame h_mem h_memCheck h_memEpoch h_memKey]
    | split
    | dsimp only
    | with_reducible rfl

end Sys2Proof.Laws
end

