-- ==== Sys2Proof/Laws/VcOpsFrame.lean ====
section
/-!
SUPPORT. Frames of the operations of Sys2Proof/Machine/VcOps.lean: what none of them writes stays as it was.
-/
namespace Sys2Proof.Laws
open Machine Machine.State

set_option linter.unusedSimpArgs false
set_option linter.unusedTactic false
set_option linter.unreachableTactic false
set_option linter.unusedVariables false

variable {α : Type} {φ : State → α}

theorem setVchan_frame (h_ropes : Blind.ropes φ) (k v : Nat) (c : VChan) (s : State) :
    φ (setVchan k v c s) = φ s := by
  unfold setVchan
  repeat' first
    | simp only [setRope_frame h_ropes]
    | split
    | dsimp only
    | with_reducible rfl

theorem closeVc_frame (h_ropes : Blind.ropes φ) (k v : Nat) (s : State) :
    φ (closeVc k v s) = φ s := by
  unfold closeVc
  repeat' first
    | simp only [setVchan_frame h_ropes]
    | split
    | dsimp only
    | with_reducible rfl

theorem authFail_frame (h_regs : Blind.regs φ) (h_seq : Blind.seq φ) (h_out : Blind.out φ) (h_rigs : Blind.rigs φ) (h_ropes : Blind.ropes φ) (h_rings : Blind.rings φ) (h_svcs : Blind.svcs φ) (h_det : Blind.det φ) (k v : Nat) (s : State) :
    φ (authFail k v s) = φ s := by
  unfold authFail
  repeat' first
    | simp only [closeVc_frame h_ropes, programFault_frame h_regs h_out h_rigs h_ropes h_svcs, raise_frame h_regs h_seq h_rings h_det]
    | split
    | dsimp only
    | with_reducible rfl

theorem takeEarly_frame (h_regs : Blind.regs φ) (h_seq : Blind.seq φ) (h_out : Blind.out φ) (h_rigs : Blind.rigs φ) (h_ropes : Blind.ropes φ) (h_rings : Blind.rings φ) (h_svcs : Blind.svcs φ) (h_det : Blind.det φ) (k v : Nat) (f : List Byte) (s : State) :
    φ (takeEarly k v f s) = φ s := by
  unfold takeEarly
  repeat' first
    | simp only [authFail_frame h_regs h_seq h_out h_rigs h_ropes h_rings h_svcs h_det, setVchan_frame h_ropes]
    | split
    | dsimp only
    | with_reducible rfl

theorem openVc_frame (h_regs : Blind.regs φ) (h_seq : Blind.seq φ) (h_out : Blind.out φ) (h_rigs : Blind.rigs φ) (h_ropes : Blind.ropes φ) (h_rings : Blind.rings φ) (h_svcs : Blind.svcs φ) (h_det : Blind.det φ) (p k v : Nat) (s : State) :
    φ (openVc p k v s) = φ s := by
  unfold openVc
  repeat' first
    | simp only [setVchan_frame h_ropes, takeEarly_frame h_regs h_seq h_out h_rigs h_ropes h_rings h_svcs h_det]
    | with_reducible refine Eq.trans (foldl_frame (fun _ _ => ?_) _ _) ?_
    | split
    | dsimp only
    | with_reducible rfl

theorem tookMsg_frame (h_ropes : Blind.ropes φ) (k v : Nat) (msg : List Byte) (s : State) :
    φ (tookMsg k v msg s) = φ s := by
  unfold tookMsg
  repeat' first
    | simp only [setVchan_frame h_ropes]
    | split
    | dsimp only
    | with_reducible rfl

end Sys2Proof.Laws
end

