-- ==== Sys2Proof/Laws/LoaderFrame.lean ====
section
/-!
SUPPORT. Frames of the operations of Sys2Proof/Machine/Loader.lean: what none of them writes stays as it was.
-/
namespace Sys2Proof.Laws
open Machine Machine.State

set_option linter.unusedSimpArgs false
set_option linter.unusedTactic false
set_option linter.unreachableTactic false
set_option linter.unusedVariables false

variable {α : Type} {φ : State → α}

theorem setLd_frame (h_regs : Blind.regs φ) (p st : Nat) (s : State) :
    φ (setLd p st s) = φ s := by
  unfold setLd
  repeat' first
    | simp only [set_frame h_regs]
    | split
    | dsimp only
    | with_reducible rfl

theorem refuseLoad_frame (h_regs : Blind.regs φ) (h_rigs : Blind.rigs φ) (h_mem : Blind.mem φ) (h_memCheck : Blind.memCheck φ) (h_memEpoch : Blind.memEpoch φ) (h_memKey : Blind.memKey φ) (p : Nat) (f : RigFail) (s : State) :
    φ (refuseLoad p f s) = φ s := by
  unfold refuseLoad
  repeat' first
    | simp only [set_frame h_regs, setLd_frame h_regs, slotClear_frame h_mem h_memCheck h_memEpoch h_memKey, h_rigs.eq]
    | split
    | dsimp only
    | with_reducible rfl

theorem rigCtrl_frame (h_pending : Blind.pending φ) (h_out : Blind.out φ) (p b : Nat) (value : W32) (f : State → State) (s : State) (h_f : ∀ s, φ (f s) = φ s) (t' : State)
    (h : rigCtrl p b value f s = .next t') : φ t' = φ s := by
  unfold rigCtrl at h
  refine perform_frame h_out h_pending h (fun s => ?_)
  repeat' first
    | simp only [h_f]
    | refine Eq.trans (whenUp_frame (fun _ => ?_) _) ?_
    | split
    | dsimp only
    | with_reducible rfl

theorem setMeasure_frame (h_regs : Blind.regs φ) (p : Nat) (d : List Byte) (s : State) :
    φ (setMeasure p d s) = φ s := by
  unfold setMeasure
  repeat' first
    | simp only [set_frame h_regs]
    | with_reducible refine Eq.trans (foldl_frame (fun _ _ => ?_) _ _) ?_
    | split
    | dsimp only
    | with_reducible rfl

theorem stageUp_frame (h_power : Blind.power φ) (r : Rigging) (role gf : Nat) (s : State) :
    φ (stageUp r role gf s) = φ s := by
  unfold stageUp
  repeat' first
    | simp only [wakeAt_frame h_power]
    | split
    | dsimp only
    | with_reducible rfl

theorem unstage_frame (h_regs : Blind.regs φ) (h_power : Blind.power φ) (h_treads : Blind.treads φ) (h_flights : Blind.flights φ) (p : Nat) (s : State) :
    φ (unstage p s) = φ s := by
  unfold unstage
  repeat' first
    | simp only [flightOff_frame h_regs h_power h_treads h_flights]
    | with_reducible refine Eq.trans (foldl_frame (fun _ _ => ?_) _ _) ?_
    | split
    | dsimp only
    | with_reducible rfl

theorem commitChannels_frame (h_chans : Blind.chans φ) (h_knots : Blind.knots φ) (p : Nat) (r : Rigging) (s : State) :
    φ (commitChannels p r s) = φ s := by
  unfold commitChannels
  repeat' first
    | simp only [dropPorts_frame h_chans, setChan_frame h_chans, setKnot_frame h_knots]
    | with_reducible refine Eq.trans (foldl_frame (fun _ _ => ?_) _ _) ?_
    | split
    | dsimp only
    | with_reducible rfl

theorem commitLandings_frame (h_out : Blind.out φ) (h_landings : Blind.landings φ) (h_ropes : Blind.ropes φ) (p : Nat) (r : Rigging) (s : State) :
    φ (commitLandings p r s) = φ s := by
  unfold commitLandings
  repeat' first
    | simp only [sendCredit_frame h_out h_ropes, setLanding_frame h_landings]
    | with_reducible refine Eq.trans (foldl_frame (fun _ _ => ?_) _ _) ?_
    | split
    | dsimp only
    | with_reducible rfl

theorem commitStages_frame (h_regs : Blind.regs φ) (h_power : Blind.power φ) (h_stages : Blind.stages φ) (h_ctxs : Blind.ctxs φ) (h_reds : Blind.reds φ) (r : Rigging) (s : State) :
    φ (commitStages r s) = φ s := by
  unfold commitStages
  repeat' first
    | simp only [beginStageRate_frame h_regs h_power, setCtx_frame h_ctxs, setRed_frame h_reds, setStage_frame h_stages]
    | with_reducible refine Eq.trans (foldl_frame (fun _ _ => ?_) _ _) ?_
    | split
    | dsimp only
    | with_reducible rfl

theorem commitLoad_frame (h_regs : Blind.regs φ) (h_pkg : Blind.pkg φ) (h_seq : Blind.seq φ) (h_out : Blind.out φ) (h_power : Blind.power φ) (h_rigs : Blind.rigs φ) (h_treads : Blind.treads φ) (h_chans : Blind.chans φ) (h_knots : Blind.knots φ) (h_stages : Blind.stages φ) (h_ctxs : Blind.ctxs φ) (h_landings : Blind.landings φ) (h_parts : Blind.parts φ) (h_reds : Blind.reds φ) (h_ropes : Blind.ropes φ) (h_fabric : Blind.fabric φ) (h_rings : Blind.rings φ) (h_svcs : Blind.svcs φ) (h_det : Blind.det φ) (p : Nat) (r : Rigging) (place : Tbl Nat) (s : State) :
    φ (commitLoad p r place s) = φ s := by
  unfold commitLoad
  repeat' first
    | simp only [chooseRoutes_frame h_fabric, commitChannels_frame h_chans h_knots, commitLandings_frame h_out h_landings h_ropes, commitStages_frame h_regs h_power h_stages h_ctxs h_reds, openVc_frame h_regs h_seq h_out h_rigs h_ropes h_rings h_svcs h_det, raise_frame h_regs h_seq h_rings h_det, set_frame h_regs, setLd_frame h_regs, setPart_frame h_parts, setRig_frame h_rigs, setSvc_frame h_svcs, setupFlight_frame h_treads, showRoles_frame h_regs, h_pkg.eq]
    | with_reducible refine Eq.trans (foldl_frame (fun _ _ => ?_) _ _) ?_
    | split
    | dsimp only
    | with_reducible rfl

end Sys2Proof.Laws
end

