-- ==== Sys2Proof/Laws/HostOpsFrame.lean ====
section
/-!
SUPPORT. Frames of the operations of Sys2Proof/Machine/HostOps.lean: what none of them writes stays as it was.
-/
namespace Sys2Proof.Laws
open Machine Machine.State

set_option linter.unusedSimpArgs false
set_option linter.unusedTactic false
set_option linter.unreachableTactic false
set_option linter.unusedVariables false

variable {α : Type} {φ : State → α}

theorem showHce_frame (h_regs : Blind.regs φ) (e : Nat) (s : State) :
    φ (showHce e s) = φ s := by
  unfold showHce
  repeat' first
    | simp only [set_frame h_regs]
    | split
    | dsimp only
    | with_reducible rfl

theorem stopEngine_frame (h_regs : Blind.regs φ) (h_hces : Blind.hces φ) (e : Nat) (s : State) :
    φ (stopEngine e s) = φ s := by
  unfold stopEngine
  repeat' first
    | simp only [setHce_frame h_hces, unset_frame h_regs]
    | split
    | dsimp only
    | with_reducible rfl

theorem loseBytes_frame (h_free : Blind.free φ) (h_mem : Blind.mem φ) (h_memEpoch : Blind.memEpoch φ) (h_memKey : Blind.memKey φ) (o n : Nat) (s : State) :
    φ (loseBytes o n s) = φ s := by
  unfold loseBytes
  refine (h_free _ _).trans ?_
  refine Eq.trans (foldl_frame (fun _ _ => rekeyLine_frame h_memEpoch h_memKey _ _) _ _) ?_
  refine Eq.trans (pokeBytes_frame h_mem _ _ _) ?_
  exact foldl_frame (fun _ _ => settleLine_frame h_mem _ _) _ _

theorem loseCopies_frame (h_free : Blind.free φ) (h_mem : Blind.mem φ) (h_memEpoch : Blind.memEpoch φ) (h_memKey : Blind.memKey φ) (e : Nat) (s : State) :
    φ (loseCopies e s) = φ s := by
  unfold loseCopies
  exact foldl_frame (fun _ _ => loseBytes_frame h_free h_mem h_memEpoch h_memKey _ _ _) _ _

theorem endSessions_frame (h_sec : Blind.sec φ) (f : Nat) (s : State) :
    φ (endSessions f s) = φ s := by
  unfold endSessions
  repeat' first
    | simp only [h_sec.eq]
    | split
    | dsimp only
    | with_reducible rfl

theorem clearIde_frame (h_regs : Blind.regs φ) (h_sec : Blind.sec φ) (n : Nat) (s : State) :
    φ (clearIde n s) = φ s := by
  unfold clearIde
  repeat' first
    | simp only [set_frame h_regs, h_sec.eq]
    | split
    | dsimp only
    | with_reducible rfl

theorem dropPlacements_frame (h_regs : Blind.regs φ) (p : Nat) (s : State) :
    φ (dropPlacements p s) = φ s := by
  unfold dropPlacements
  repeat' first
    | simp only [set_frame h_regs]
    | with_reducible refine Eq.trans (foldl_frame (fun _ _ => ?_) _ _) ?_
    | split
    | dsimp only
    | with_reducible rfl

theorem showCkpt_frame (h_regs : Blind.regs φ) (p : Nat) (s : State) :
    φ (showCkpt p s) = φ s := by
  unfold showCkpt
  repeat' first
    | simp only [set_frame h_regs]
    | split
    | dsimp only
    | with_reducible rfl

theorem failCold_frame (h_regs : Blind.regs φ) (h_seq : Blind.seq φ) (h_rings : Blind.rings φ) (h_svcs : Blind.svcs φ) (h_det : Blind.det φ) (p : Nat) (s : State) :
    φ (failCold p s) = φ s := by
  unfold failCold
  repeat' first
    | simp only [raise_frame h_regs h_seq h_rings h_det, setSvc_frame h_svcs, showCkpt_frame h_regs]
    | with_reducible refine Eq.trans (foldl_frame (fun _ _ => ?_) _ _) ?_
    | split
    | dsimp only
    | with_reducible rfl

theorem failColds_frame (h_regs : Blind.regs φ) (h_seq : Blind.seq φ) (h_rings : Blind.rings φ) (h_svcs : Blind.svcs φ) (h_det : Blind.det φ) (s : State) :
    φ (failColds s) = φ s := by
  unfold failColds
  repeat' first
    | simp only [failCold_frame h_regs h_seq h_rings h_svcs h_det]
    | with_reducible refine Eq.trans (foldl_frame (fun _ _ => ?_) _ _) ?_
    | split
    | dsimp only
    | with_reducible rfl

theorem setNumVfs_frame (h_pcie : Blind.pcie φ) (n : Nat) (s : State) :
    φ (setNumVfs n s) = φ s := by
  unfold setNumVfs
  repeat' first
    | simp only [h_pcie.eq]
    | split
    | dsimp only
    | with_reducible rfl

theorem logAdvisory_frame (h_pcie : Blind.pcie φ) (f : Nat) (s : State) :
    φ (logAdvisory f s) = φ s := by
  unfold logAdvisory
  repeat' first
    | simp only [h_pcie.eq]
    | split
    | dsimp only
    | with_reducible rfl

theorem resetCfg_frame (h_pcie : Blind.pcie φ) (cause f : Nat) (s : State) :
    φ (resetCfg cause f s) = φ s := by
  unfold resetCfg
  repeat' first
    | simp only [h_pcie.eq]
    | split
    | dsimp only
    | with_reducible rfl

theorem showDetached_frame (h_regs : Blind.regs φ) (s : State) :
    φ (showDetached s) = φ s := by
  unfold showDetached
  repeat' first
    | simp only [set_frame h_regs]
    | split
    | dsimp only
    | with_reducible rfl

theorem detachFn_frame (h_regs : Blind.regs φ) (h_seq : Blind.seq φ) (h_free : Blind.free φ) (h_rigs : Blind.rigs φ) (h_mem : Blind.mem φ) (h_memCheck : Blind.memCheck φ) (h_memEpoch : Blind.memEpoch φ) (h_memKey : Blind.memKey φ) (h_hces : Blind.hces φ) (h_rings : Blind.rings φ) (h_pcie : Blind.pcie φ) (h_svcs : Blind.svcs φ) (h_sec : Blind.sec φ) (h_det : Blind.det φ) (cause f : Nat) (s : State) :
    φ (detachFn cause f s) = φ s := by
  unfold detachFn
  repeat' first
    | simp only [clearIde_frame h_regs h_sec, endSessions_frame h_sec, failColds_frame h_regs h_seq h_rings h_svcs h_det, loseCopies_frame h_free h_mem h_memEpoch h_memKey, refuseLoad_frame h_regs h_rigs h_mem h_memCheck h_memEpoch h_memKey, resetCfg_frame h_pcie, setRing_frame h_rings, stopEngine_frame h_regs h_hces, unset_frame h_regs, h_det.eq]
    | with_reducible refine Eq.trans (foldl_frame (fun _ _ => ?_) _ _) ?_
    | split
    | dsimp only
    | with_reducible rfl

theorem detach_frame (h_regs : Blind.regs φ) (h_seq : Blind.seq φ) (h_free : Blind.free φ) (h_rigs : Blind.rigs φ) (h_mem : Blind.mem φ) (h_memCheck : Blind.memCheck φ) (h_memEpoch : Blind.memEpoch φ) (h_memKey : Blind.memKey φ) (h_hces : Blind.hces φ) (h_rings : Blind.rings φ) (h_pcie : Blind.pcie φ) (h_svcs : Blind.svcs φ) (h_sec : Blind.sec φ) (h_det : Blind.det φ) (cause : Nat) (fs : List Nat) (s : State) :
    φ (detach cause fs s) = φ s := by
  unfold detach
  repeat' first
    | simp only [bump_frame h_regs, detachFn_frame h_regs h_seq h_free h_rigs h_mem h_memCheck h_memEpoch h_memKey h_hces h_rings h_pcie h_svcs h_sec h_det, set_frame h_regs, showDetached_frame h_regs]
    | with_reducible refine Eq.trans (foldl_frame (fun _ _ => ?_) _ _) ?_
    | split
    | dsimp only
    | with_reducible rfl

theorem hostWrite_frame (h_out : Blind.out φ) (f addr : Nat) (l : List Byte) (relaxed : Bool) (s : State) :
    φ (hostWrite f addr l relaxed s) = φ s := by
  unfold hostWrite
  repeat' first
    | simp only [put_frame h_out]
    | split
    | dsimp only
    | with_reducible rfl

theorem placeRecord_frame_of (h_regs : Blind.regs φ) (h_out : Blind.out φ) (h_rings : Blind.rings φ) {f code : Nat}
    {rest : List Byte} {s t' : State} (h' : placeRecord f code rest s = some t') : φ t' = φ s := by
  unfold placeRecord at h'
  extract_lets at h'
  split at h'
  · cases h'
  · split at h' <;> (obtain rfl := (Option.some.inj h').symm) <;>
      simp +zetaDelta only [set_frame h_regs, setRing_frame h_rings, hostWrite_frame h_out]

theorem signalRing_frame (h_out : Blind.out φ) (f : Nat) (s : State) :
    φ (signalRing f s) = φ s := by
  unfold signalRing
  repeat' first
    | simp only [put_frame h_out]
    | split
    | dsimp only
    | with_reducible rfl

end Sys2Proof.Laws
end

