-- ==== Sys2Proof/Laws/StageOpsFrame.lean ====
section
/-!
SUPPORT. Frames of the operations of Sys2Proof/Machine/StageOps.lean: what none of them writes stays as it was.
-/
namespace Sys2Proof.Laws
open Machine Machine.State

set_option linter.unusedSimpArgs false
set_option linter.unusedTactic false
set_option linter.unreachableTactic false
set_option linter.unusedVariables false

variable {α : Type} {φ : State → α}

theorem withStage_frame (slot : Nat) (f : Nat → Rigging → StageCfg → State → State) (s : State) (h_f : ∀ x0 x1 x2 s, φ (f x0 x1 x2 s) = φ s) :
    φ (withStage slot f s) = φ s := by
  unfold withStage
  repeat' first
    | simp only [h_f]
    | split
    | dsimp only
    | with_reducible rfl

theorem seqAccess_frame (h_regs : Blind.regs φ) (h_out : Blind.out φ) (h_rigs : Blind.rigs φ) (h_stages : Blind.stages φ) (h_ropes : Blind.ropes φ) (h_svcs : Blind.svcs φ) (p slot status : Nat) (s : State) :
    φ (seqAccess p slot status s) = φ s := by
  unfold seqAccess
  repeat' first
    | simp only [programFault_frame h_regs h_out h_rigs h_ropes h_svcs, setStage_frame h_stages]
    | split
    | dsimp only
    | with_reducible rfl

theorem noteBlocked_frame (h_regs : Blind.regs φ) (h_seq : Blind.seq φ) (h_stages : Blind.stages φ) (h_rings : Blind.rings φ) (h_det : Blind.det φ) (p : Nat) (r : Rigging) (t : StageCfg) (s : State) :
    φ (noteBlocked p r t s) = φ s := by
  unfold noteBlocked
  repeat' first
    | simp only [raise_frame h_regs h_seq h_rings h_det, setStage_frame h_stages]
    | split
    | dsimp only
    | with_reducible rfl

theorem extendCtx_frame (h_stages : Blind.stages φ) (h_ctxs : Blind.ctxs φ) (slot c upTo : Nat) (s : State) :
    φ (extendCtx slot c upTo s) = φ s := by
  unfold extendCtx
  repeat' first
    | simp only [setCtx_frame h_ctxs, setStage_frame h_stages]
    | split
    | dsimp only
    | with_reducible rfl

theorem storeLayer_frame (h_regs : Blind.regs φ) (h_seq : Blind.seq φ) (h_stages : Blind.stages φ) (h_ctxs : Blind.ctxs φ) (h_rings : Blind.rings φ) (h_det : Blind.det φ) (p : Nat) (r : Rigging) (t : StageCfg) (l : Nat) (s : State) :
    φ (storeLayer p r t l s) = φ s := by
  unfold storeLayer
  repeat' first
    | simp only [bump_frame h_regs, extendCtx_frame h_stages h_ctxs, raise_frame h_regs h_seq h_rings h_det, setCtx_frame h_ctxs, setStage_frame h_stages]
    | split
    | dsimp only
    | with_reducible rfl

theorem wrongEntry_frame (h_regs : Blind.regs φ) (h_seq : Blind.seq φ) (h_out : Blind.out φ) (h_rigs : Blind.rigs φ) (h_stages : Blind.stages φ) (h_ropes : Blind.ropes φ) (h_rings : Blind.rings φ) (h_svcs : Blind.svcs φ) (h_det : Blind.det φ) (p slot n step seq pass : Nat) (bwd ring : Bool) (e : Entry) (s : State) :
    φ (wrongEntry p slot n step seq pass bwd ring e s) = φ s := by
  unfold wrongEntry
  repeat' first
    | simp only [bump_frame h_regs, programFault_frame h_regs h_out h_rigs h_ropes h_svcs, raise_frame h_regs h_seq h_rings h_det, setStage_frame h_stages]
    | split
    | dsimp only
    | with_reducible rfl

theorem takeEntry_frame (h_regs : Blind.regs φ) (h_seq : Blind.seq φ) (h_out : Blind.out φ) (h_rigs : Blind.rigs φ) (h_stages : Blind.stages φ) (h_landings : Blind.landings φ) (h_ropes : Blind.ropes φ) (h_rings : Blind.rings φ) (h_svcs : Blind.svcs φ) (h_det : Blind.det φ) (p slot n step seq pass : Nat) (bwd ring : Bool) (f : Entry → State → State) (s : State) (h_f : ∀ x0 s, φ (f x0 s) = φ s) :
    φ (takeEntry p slot n step seq pass bwd ring f s) = φ s := by
  unfold takeEntry
  repeat' first
    | simp only [setLanding_frame h_landings, wrongEntry_frame h_regs h_seq h_out h_rigs h_stages h_ropes h_rings h_svcs h_det, h_f]
    | split
    | dsimp only
    | with_reducible rfl

theorem checkEntry_frame (h_regs : Blind.regs φ) (h_seq : Blind.seq φ) (h_out : Blind.out φ) (h_rigs : Blind.rigs φ) (h_stages : Blind.stages φ) (h_ropes : Blind.ropes φ) (h_rings : Blind.rings φ) (h_svcs : Blind.svcs φ) (h_det : Blind.det φ) (p slot n step seq pass : Nat) (bwd ring : Bool) (s : State) :
    φ (checkEntry p slot n step seq pass bwd ring s) = φ s := by
  unfold checkEntry
  repeat' first
    | simp only [wrongEntry_frame h_regs h_seq h_out h_rigs h_stages h_ropes h_rings h_svcs h_det]
    | split
    | dsimp only
    | with_reducible rfl

theorem clearStage_frame (h_treads : Blind.treads φ) (h_flights : Blind.flights φ) (slot : Nat) (s : State) :
    φ (clearStage slot s) = φ s := by
  unfold clearStage
  repeat' first
    | simp only [setFlight_frame h_flights, setTread_frame h_treads]
    | with_reducible refine Eq.trans (foldl_frame (fun _ _ => ?_) _ _) ?_
    | split
    | dsimp only
    | with_reducible rfl

theorem tellTread_frame (h_treads : Blind.treads φ) (c : Nat) (x : Ctx) (t : Nat) (s : State) :
    φ (tellTread c x t s) = φ s := by
  unfold tellTread
  repeat' first
    | simp only [setTread_frame h_treads]
    | split
    | dsimp only
    | with_reducible rfl

theorem startFlight_frame (h_power : Blind.power φ) (h_treads : Blind.treads φ) (c : Nat) (x : Ctx) (gf : Nat) (s : State) :
    φ (startFlight c x gf s) = φ s := by
  have h0 : ∀ s, φ ((s.flightTreads gf).foldl (fun s t => tellTread c x t s) s) = φ s := fun s =>
    foldl_frame (fun _ _ => tellTread_frame h_treads _ _ _ _) _ _
  have h1 : ∀ s : State, φ ((s.flightTreads gf).foldl (fun s t => startTread t s) s) = φ s := fun s =>
    foldl_frame (fun _ _ => startTread_frame h_treads _ _) _ _
  unfold startFlight
  generalize e : (s.flightTreads gf).foldl (fun s t => tellTread c x t s) s = s1
  have h2 : φ s1 = φ s := e ▸ h0 s
  dsimp only
  split
  · exact (h1 s1).trans h2
  · exact (setPower_frame h_power _ s1).trans h2

theorem startTreads_frame (h_power : Blind.power φ) (h_treads : Blind.treads φ) (slot c : Nat) (s : State) :
    φ (startTreads slot c s) = φ s := by
  unfold startTreads
  repeat' first
    | simp only [startFlight_frame h_power h_treads]
    | with_reducible refine Eq.trans (foldl_frame (fun _ _ => ?_) _ _) ?_
    | split
    | dsimp only
    | with_reducible rfl

theorem showStart_frame (h_regs : Blind.regs φ) (slot c : Nat) (s : State) :
    φ (showStart slot c s) = φ s := by
  unfold showStart
  repeat' first
    | simp only [set_frame h_regs]
    | split
    | dsimp only
    | with_reducible rfl

theorem beginStep_frame (h_stages : Blind.stages φ) (h_reds : Blind.reds φ) (p step : Nat) (s : State) :
    φ (beginStep p step s) = φ s := by
  unfold beginStep
  repeat' first
    | simp only [setRed_frame h_reds, setStage_frame h_stages]
    | with_reducible refine Eq.trans (foldl_frame (fun _ _ => ?_) _ _) ?_
    | split
    | dsimp only
    | with_reducible rfl

end Sys2Proof.Laws
end

