-- ==== Sys2Proof/Laws/CkptOpsFrame.lean ====
section
/-!
SUPPORT. Frames of the operations of Sys2Proof/Machine/CkptOps.lean: what none of them writes stays as it was.
-/
namespace Sys2Proof.Laws
open Machine Machine.State

set_option linter.unusedSimpArgs false
set_option linter.unusedTactic false
set_option linter.unreachableTactic false
set_option linter.unusedVariables false

variable {α : Type} {φ : State → α}

theorem readSegs_frame (h_regs : Blind.regs φ) (h_seq : Blind.seq φ) (h_out : Blind.out φ) (h_rigs : Blind.rigs φ) (h_memCheck : Blind.memCheck φ) (h_ucs : Blind.ucs φ) (h_ropes : Blind.ropes φ) (h_rings : Blind.rings φ) (h_svcs : Blind.svcs φ) (h_journal : Blind.journal φ) (h_sec : Blind.sec φ) (h_det : Blind.det φ) (a0 : List Seg) (a1 : List Byte) (s : State) :
    φ (readSegs a0 a1 s).2 = φ s := by
  induction a0 generalizing a1 s with
  | nil => unfold readSegs; rfl
  | cons x r ih =>
    unfold readSegs
    repeat' first
      | simp only [memRead_frame h_regs h_seq h_out h_rigs h_memCheck h_ucs h_ropes h_rings h_svcs h_journal h_sec h_det, ih]
      | split
      | refine Eq.trans (memRead_frame_of h_regs h_seq h_out h_rigs h_memCheck h_ucs h_ropes h_rings h_svcs h_journal h_sec h_det ‹_›) ?_
      | dsimp only
      | with_reducible rfl

theorem readSegs_frame_of (h_regs : Blind.regs φ) (h_seq : Blind.seq φ) (h_out : Blind.out φ) (h_rigs : Blind.rigs φ) (h_memCheck : Blind.memCheck φ) (h_ucs : Blind.ucs φ) (h_ropes : Blind.ropes φ) (h_rings : Blind.rings φ) (h_svcs : Blind.svcs φ) (h_journal : Blind.journal φ) (h_sec : Blind.sec φ) (h_det : Blind.det φ) {a0 : List Seg} {a1 : List Byte} {s : State} {t' : State} {x0}
    (h' : readSegs a0 a1 s = (x0, t')) : φ t' = φ s := by
  rw [← readSegs_frame h_regs h_seq h_out h_rigs h_memCheck h_ucs h_ropes h_rings h_svcs h_journal h_sec h_det a0 a1 s, h']

theorem setFrame_frame (h_regs : Blind.regs φ) (h_svcs : Blind.svcs φ) (p k : Nat) (f : Frame) (s : State) :
    φ (setFrame p k f s) = φ s := by
  unfold setFrame
  repeat' first
    | simp only [setSvc_frame h_svcs, showCkpt_frame h_regs]
    | split
    | dsimp only
    | with_reducible rfl

theorem setWard_frame (h_svcs : Blind.svcs φ) (p k : Nat) (f : Frame) (s : State) :
    φ (setWard p k f s) = φ s := by
  unfold setWard
  repeat' first
    | simp only [setSvc_frame h_svcs]
    | split
    | dsimp only
    | with_reducible rfl

theorem sendCk_frame (h_out : Blind.out φ) (h_ropes : Blind.ropes φ) (p k v step op slot off : Nat) (data : List Byte) (s : State) :
    φ (sendCk p k v step op slot off data s) = φ s := by
  unfold sendCk
  repeat' first
    | simp only [sendJob_frame h_out h_ropes]
    | split
    | dsimp only
    | with_reducible rfl

theorem sendFrame_frame (h_out : Blind.out φ) (h_ropes : Blind.ropes φ) (p k v step op last slot : Nat) (l : List Byte) (s : State) :
    φ (sendFrame p k v step op last slot l s) = φ s := by
  unfold sendFrame
  repeat' first
    | simp only [sendCk_frame h_out h_ropes]
    | with_reducible refine Eq.trans (foldl_frame (fun _ _ => ?_) _ _) ?_
    | split
    | dsimp only
    | with_reducible rfl

theorem skipFrame_frame (h_regs : Blind.regs φ) (h_seq : Blind.seq φ) (h_rings : Blind.rings φ) (h_det : Blind.det φ) (p h code : Nat) (body : List Nat) (s : State) :
    φ (skipFrame p h code body s) = φ s := by
  unfold skipFrame
  repeat' first
    | simp only [bump_frame h_regs, raise_frame h_regs h_seq h_rings h_det]
    | split
    | dsimp only
    | with_reducible rfl

theorem takeFrame_frame (h_regs : Blind.regs φ) (h_seq : Blind.seq φ) (h_out : Blind.out φ) (h_rigs : Blind.rigs φ) (h_mem : Blind.mem φ) (h_memCheck : Blind.memCheck φ) (h_memEpoch : Blind.memEpoch φ) (h_memKey : Blind.memKey φ) (h_ucs : Blind.ucs φ) (h_ropes : Blind.ropes φ) (h_fabric : Blind.fabric φ) (h_rings : Blind.rings φ) (h_svcs : Blind.svcs φ) (h_journal : Blind.journal φ) (h_sec : Blind.sec φ) (h_det : Blind.det φ) (p h : Nat) (s : State) :
    φ (takeFrame p h s) = φ s := by
  unfold takeFrame
  repeat' first
    | simp only [keepRoute_frame h_fabric, memWrite_frame h_regs h_seq h_out h_rigs h_mem h_memCheck h_memEpoch h_memKey h_ucs h_ropes h_rings h_svcs h_journal h_sec h_det, readSegs_frame h_regs h_seq h_out h_rigs h_memCheck h_ucs h_ropes h_rings h_svcs h_journal h_sec h_det, sendFrame_frame h_out h_ropes, setFrame_frame h_regs h_svcs, skipFrame_frame h_regs h_seq h_rings h_det]
    | split
    | refine Eq.trans (memWrite_frame_of h_regs h_seq h_out h_rigs h_mem h_memCheck h_memEpoch h_memKey h_ucs h_ropes h_rings h_svcs h_journal h_sec h_det ‹_›) ?_
    | refine Eq.trans (readSegs_frame_of h_regs h_seq h_out h_rigs h_memCheck h_ucs h_ropes h_rings h_svcs h_journal h_sec h_det ‹_›) ?_
    | dsimp only
    | with_reducible rfl

theorem placeSegs_frame (h_regs : Blind.regs φ) (h_seq : Blind.seq φ) (h_out : Blind.out φ) (h_rigs : Blind.rigs φ) (h_mem : Blind.mem φ) (h_memCheck : Blind.memCheck φ) (h_memEpoch : Blind.memEpoch φ) (h_memKey : Blind.memKey φ) (h_ucs : Blind.ucs φ) (h_ropes : Blind.ropes φ) (h_rings : Blind.rings φ) (h_svcs : Blind.svcs φ) (h_journal : Blind.journal φ) (h_sec : Blind.sec φ) (h_det : Blind.det φ) (l : List Byte) (a0 a1 : Nat) (s : State) :
    φ (placeSegs l a0 a1 s) = φ s := by
  induction a0 generalizing a1 s with
  | zero => unfold placeSegs; rfl
  | succ n ih =>
    unfold placeSegs
    repeat' first
      | simp only [memWrite_frame h_regs h_seq h_out h_rigs h_mem h_memCheck h_memEpoch h_memKey h_ucs h_ropes h_rings h_svcs h_journal h_sec h_det, ih]
      | split
      | refine Eq.trans (memWrite_frame_of h_regs h_seq h_out h_rigs h_mem h_memCheck h_memEpoch h_memKey h_ucs h_ropes h_rings h_svcs h_journal h_sec h_det ‹_›) ?_
      | dsimp only
      | with_reducible rfl

theorem clearMarks_frame (h_regs : Blind.regs φ) (h_seq : Blind.seq φ) (h_out : Blind.out φ) (h_rigs : Blind.rigs φ) (h_mem : Blind.mem φ) (h_memCheck : Blind.memCheck φ) (h_memEpoch : Blind.memEpoch φ) (h_memKey : Blind.memKey φ) (h_ucs : Blind.ucs φ) (h_ropes : Blind.ropes φ) (h_rings : Blind.rings φ) (h_svcs : Blind.svcs φ) (h_journal : Blind.journal φ) (h_sec : Blind.sec φ) (h_det : Blind.det φ) (p : Nat) (s : State) :
    φ (clearMarks p s) = φ s := by
  unfold clearMarks
  repeat' first
    | simp only [memWrite_frame h_regs h_seq h_out h_rigs h_mem h_memCheck h_memEpoch h_memKey h_ucs h_ropes h_rings h_svcs h_journal h_sec h_det]
    | with_reducible refine Eq.trans (foldl_frame (fun _ _ => ?_) _ _) ?_
    | split
    | refine Eq.trans (memWrite_frame_of h_regs h_seq h_out h_rigs h_mem h_memCheck h_memEpoch h_memKey h_ucs h_ropes h_rings h_svcs h_journal h_sec h_det ‹_›) ?_
    | dsimp only
    | with_reducible rfl

theorem applyFrame_frame (h_regs : Blind.regs φ) (h_seq : Blind.seq φ) (h_out : Blind.out φ) (h_rigs : Blind.rigs φ) (h_stages : Blind.stages φ) (h_parts : Blind.parts φ) (h_reds : Blind.reds φ) (h_mem : Blind.mem φ) (h_memCheck : Blind.memCheck φ) (h_memEpoch : Blind.memEpoch φ) (h_memKey : Blind.memKey φ) (h_ucs : Blind.ucs φ) (h_ropes : Blind.ropes φ) (h_rings : Blind.rings φ) (h_svcs : Blind.svcs φ) (h_journal : Blind.journal φ) (h_sec : Blind.sec φ) (h_det : Blind.det φ) (p t : Nat) (l : List Byte) (s : State) :
    φ (applyFrame p t l s) = φ s := by
  unfold applyFrame
  repeat' first
    | simp only [beginStep_frame h_stages h_reds, clearMarks_frame h_regs h_seq h_out h_rigs h_mem h_memCheck h_memEpoch h_memKey h_ucs h_ropes h_rings h_svcs h_journal h_sec h_det, placeSegs_frame h_regs h_seq h_out h_rigs h_mem h_memCheck h_memEpoch h_memKey h_ucs h_ropes h_rings h_svcs h_journal h_sec h_det, setPart_frame h_parts, setSvc_frame h_svcs]
    | with_reducible refine Eq.trans (foldl_frame (fun _ _ => ?_) _ _) ?_
    | split
    | dsimp only
    | with_reducible rfl

theorem fetchFrame_frame (h_regs : Blind.regs φ) (h_out : Blind.out φ) (h_ropes : Blind.ropes φ) (h_fabric : Blind.fabric φ) (h_svcs : Blind.svcs φ) (p t : Nat) (s : State) :
    φ (fetchFrame p t s) = φ s := by
  unfold fetchFrame
  repeat' first
    | simp only [keepRoute_frame h_fabric, sendCk_frame h_out h_ropes, setSvc_frame h_svcs, showCkpt_frame h_regs]
    | split
    | dsimp only
    | with_reducible rfl

theorem restoreOwn_frame (h_regs : Blind.regs φ) (h_seq : Blind.seq φ) (h_out : Blind.out φ) (h_rigs : Blind.rigs φ) (h_stages : Blind.stages φ) (h_parts : Blind.parts φ) (h_reds : Blind.reds φ) (h_mem : Blind.mem φ) (h_memCheck : Blind.memCheck φ) (h_memEpoch : Blind.memEpoch φ) (h_memKey : Blind.memKey φ) (h_ucs : Blind.ucs φ) (h_ropes : Blind.ropes φ) (h_fabric : Blind.fabric φ) (h_rings : Blind.rings φ) (h_svcs : Blind.svcs φ) (h_journal : Blind.journal φ) (h_sec : Blind.sec φ) (h_det : Blind.det φ) (p t j : Nat) (s : State) :
    φ (restoreOwn p t j s).2 = φ s := by
  unfold restoreOwn
  repeat' first
    | simp only [applyFrame_frame h_regs h_seq h_out h_rigs h_stages h_parts h_reds h_mem h_memCheck h_memEpoch h_memKey h_ucs h_ropes h_rings h_svcs h_journal h_sec h_det, fetchFrame_frame h_regs h_out h_ropes h_fabric h_svcs, memRead_frame h_regs h_seq h_out h_rigs h_memCheck h_ucs h_ropes h_rings h_svcs h_journal h_sec h_det, showCkpt_frame h_regs]
    | split
    | refine Eq.trans (memRead_frame_of h_regs h_seq h_out h_rigs h_memCheck h_ucs h_ropes h_rings h_svcs h_journal h_sec h_det ‹_›) ?_
    | dsimp only
    | with_reducible rfl

theorem restoreOwn_frame_of (h_regs : Blind.regs φ) (h_seq : Blind.seq φ) (h_out : Blind.out φ) (h_rigs : Blind.rigs φ) (h_stages : Blind.stages φ) (h_parts : Blind.parts φ) (h_reds : Blind.reds φ) (h_mem : Blind.mem φ) (h_memCheck : Blind.memCheck φ) (h_memEpoch : Blind.memEpoch φ) (h_memKey : Blind.memKey φ) (h_ucs : Blind.ucs φ) (h_ropes : Blind.ropes φ) (h_fabric : Blind.fabric φ) (h_rings : Blind.rings φ) (h_svcs : Blind.svcs φ) (h_journal : Blind.journal φ) (h_sec : Blind.sec φ) (h_det : Blind.det φ) {p : Nat} {t : Nat} {j : Nat} {s : State} {t' : State} {x0}
    (h' : restoreOwn p t j s = (x0, t')) : φ t' = φ s := by
  rw [← restoreOwn_frame h_regs h_seq h_out h_rigs h_stages h_parts h_reds h_mem h_memCheck h_memEpoch h_memKey h_ucs h_ropes h_fabric h_rings h_svcs h_journal h_sec h_det p t j s, h']

theorem beginRestore_frame (h_regs : Blind.regs φ) (h_seq : Blind.seq φ) (h_out : Blind.out φ) (h_rigs : Blind.rigs φ) (h_stages : Blind.stages φ) (h_parts : Blind.parts φ) (h_reds : Blind.reds φ) (h_mem : Blind.mem φ) (h_memCheck : Blind.memCheck φ) (h_memEpoch : Blind.memEpoch φ) (h_memKey : Blind.memKey φ) (h_ucs : Blind.ucs φ) (h_ropes : Blind.ropes φ) (h_fabric : Blind.fabric φ) (h_rings : Blind.rings φ) (h_svcs : Blind.svcs φ) (h_journal : Blind.journal φ) (h_sec : Blind.sec φ) (h_det : Blind.det φ) (p t : Nat) (s : State) :
    φ (beginRestore p t s).2 = φ s := by
  unfold beginRestore
  repeat' first
    | simp only [fetchFrame_frame h_regs h_out h_ropes h_fabric h_svcs, restoreOwn_frame h_regs h_seq h_out h_rigs h_stages h_parts h_reds h_mem h_memCheck h_memEpoch h_memKey h_ucs h_ropes h_fabric h_rings h_svcs h_journal h_sec h_det]
    | split
    | refine Eq.trans (restoreOwn_frame_of h_regs h_seq h_out h_rigs h_stages h_parts h_reds h_mem h_memCheck h_memEpoch h_memKey h_ucs h_ropes h_fabric h_rings h_svcs h_journal h_sec h_det ‹_›) ?_
    | dsimp only
    | with_reducible rfl

theorem beginRestore_frame_of (h_regs : Blind.regs φ) (h_seq : Blind.seq φ) (h_out : Blind.out φ) (h_rigs : Blind.rigs φ) (h_stages : Blind.stages φ) (h_parts : Blind.parts φ) (h_reds : Blind.reds φ) (h_mem : Blind.mem φ) (h_memCheck : Blind.memCheck φ) (h_memEpoch : Blind.memEpoch φ) (h_memKey : Blind.memKey φ) (h_ucs : Blind.ucs φ) (h_ropes : Blind.ropes φ) (h_fabric : Blind.fabric φ) (h_rings : Blind.rings φ) (h_svcs : Blind.svcs φ) (h_journal : Blind.journal φ) (h_sec : Blind.sec φ) (h_det : Blind.det φ) {p : Nat} {t : Nat} {s : State} {t' : State} {x0}
    (h' : beginRestore p t s = (x0, t')) : φ t' = φ s := by
  rw [← beginRestore_frame h_regs h_seq h_out h_rigs h_stages h_parts h_reds h_mem h_memCheck h_memEpoch h_memKey h_ucs h_ropes h_fabric h_rings h_svcs h_journal h_sec h_det p t s, h']

theorem writeTelemetry_frame (h_regs : Blind.regs φ) (h_out : Blind.out φ) (h_det : Blind.det φ) (p step : Nat) (s : State) :
    φ (writeTelemetry p step s) = φ s := by
  unfold writeTelemetry
  repeat' first
    | simp only [bump_frame h_regs, hostWrite_frame h_out, ringBell_frame h_regs h_out, h_det.eq]
    | split
    | dsimp only
    | with_reducible rfl

theorem postRequest_frame (h_regs : Blind.regs φ) (h_out : Blind.out φ) (h_det : Blind.det φ) (p op step off len : Nat) (s : State) :
    φ (postRequest p op step off len s) = φ s := by
  unfold postRequest
  repeat' first
    | simp only [hostWrite_frame h_out, ringBell_frame h_regs h_out, h_det.eq]
    | split
    | dsimp only
    | with_reducible rfl

theorem coldNext_frame (h_regs : Blind.regs φ) (h_seq : Blind.seq φ) (h_out : Blind.out φ) (h_rigs : Blind.rigs φ) (h_memCheck : Blind.memCheck φ) (h_ucs : Blind.ucs φ) (h_ropes : Blind.ropes φ) (h_rings : Blind.rings φ) (h_svcs : Blind.svcs φ) (h_journal : Blind.journal φ) (h_sec : Blind.sec φ) (h_det : Blind.det φ) (p j off : Nat) (s : State) :
    φ (coldNext p j off s) = φ s := by
  unfold coldNext
  repeat' first
    | simp -zeta only [failCold_frame h_regs h_seq h_rings h_svcs h_det, hostWrite_frame h_out, memRead_frame h_regs h_seq h_out h_rigs h_memCheck h_ucs h_ropes h_rings h_svcs h_journal h_sec h_det, postRequest_frame h_regs h_out h_det, setSvc_frame h_svcs]
    | split
    | refine Eq.trans (memRead_frame_of h_regs h_seq h_out h_rigs h_memCheck h_ucs h_ropes h_rings h_svcs h_journal h_sec h_det ‹_›) ?_
    | extract_lets
    | simp +zetaDelta only [failCold_frame h_regs h_seq h_rings h_svcs h_det, hostWrite_frame h_out, memRead_frame h_regs h_seq h_out h_rigs h_memCheck h_ucs h_ropes h_rings h_svcs h_journal h_sec h_det, postRequest_frame h_regs h_out h_det, setSvc_frame h_svcs]
    | with_reducible rfl

theorem coldBegin_frame (h_regs : Blind.regs φ) (h_seq : Blind.seq φ) (h_out : Blind.out φ) (h_rigs : Blind.rigs φ) (h_memCheck : Blind.memCheck φ) (h_ucs : Blind.ucs φ) (h_ropes : Blind.ropes φ) (h_rings : Blind.rings φ) (h_svcs : Blind.svcs φ) (h_journal : Blind.journal φ) (h_sec : Blind.sec φ) (h_det : Blind.det φ) (s : State) :
    φ (coldBegin s) = φ s := by
  unfold coldBegin
  repeat' first
    | simp only [coldNext_frame h_regs h_seq h_out h_rigs h_memCheck h_ucs h_ropes h_rings h_svcs h_journal h_sec h_det, failCold_frame h_regs h_seq h_rings h_svcs h_det]
    | split
    | dsimp only
    | with_reducible rfl

theorem frameComplete_frame (h_regs : Blind.regs φ) (h_seq : Blind.seq φ) (h_out : Blind.out φ) (h_rigs : Blind.rigs φ) (h_memCheck : Blind.memCheck φ) (h_ucs : Blind.ucs φ) (h_ropes : Blind.ropes φ) (h_rings : Blind.rings φ) (h_svcs : Blind.svcs φ) (h_journal : Blind.journal φ) (h_sec : Blind.sec φ) (h_det : Blind.det φ) (p j : Nat) (s : State) :
    φ (frameComplete p j s) = φ s := by
  unfold frameComplete
  repeat' first
    | simp only [coldBegin_frame h_regs h_seq h_out h_rigs h_memCheck h_ucs h_ropes h_rings h_svcs h_journal h_sec h_det, set_frame h_regs, setFrame_frame h_regs h_svcs, setSvc_frame h_svcs, showCkpt_frame h_regs]
    | split
    | dsimp only
    | with_reducible rfl

theorem coldAnswer_frame (h_regs : Blind.regs φ) (h_seq : Blind.seq φ) (h_out : Blind.out φ) (h_rigs : Blind.rigs φ) (h_memCheck : Blind.memCheck φ) (h_ucs : Blind.ucs φ) (h_ropes : Blind.ropes φ) (h_rings : Blind.rings φ) (h_svcs : Blind.svcs φ) (h_journal : Blind.journal φ) (h_sec : Blind.sec φ) (h_det : Blind.det φ) (p : Nat) (q : StorageReq) (bad : Bool) (s : State) :
    φ (coldAnswer p q bad s) = φ s := by
  unfold coldAnswer
  repeat' first
    | simp only [coldBegin_frame h_regs h_seq h_out h_rigs h_memCheck h_ucs h_ropes h_rings h_svcs h_journal h_sec h_det, coldNext_frame h_regs h_seq h_out h_rigs h_memCheck h_ucs h_ropes h_rings h_svcs h_journal h_sec h_det, failCold_frame h_regs h_seq h_rings h_svcs h_det, notifyStep_frame h_regs h_out, raise_frame h_regs h_seq h_rings h_det, set_frame h_regs, setFrame_frame h_regs h_svcs, setSvc_frame h_svcs]
    | split
    | dsimp only
    | with_reducible rfl

theorem pinSnapshot_frame (h_regs : Blind.regs φ) (h_out : Blind.out φ) (h_svcs : Blind.svcs φ) (p : Nat) (s : State) :
    φ (pinSnapshot p s) = φ s := by
  unfold pinSnapshot
  repeat' first
    | simp only [notifyStep_frame h_regs h_out, set_frame h_regs, setSvc_frame h_svcs]
    | split
    | dsimp only
    | with_reducible rfl

theorem endPin_frame (h_regs : Blind.regs φ) (h_svcs : Blind.svcs φ) (p st : Nat) (s : State) :
    φ (endPin p st s) = φ s := by
  unfold endPin
  repeat' first
    | simp only [set_frame h_regs, setSvc_frame h_svcs]
    | split
    | dsimp only
    | with_reducible rfl

end Sys2Proof.Laws
end

