-- ==== Sys2Proof/Laws/FabricServeFrame.lean ====
section
/-!
SUPPORT. Frames of the operations of Sys2Proof/Machine/FabricServe.lean: what none of them writes stays as it was.
-/
namespace Sys2Proof.Laws
open Machine Machine.State

set_option linter.unusedSimpArgs false
set_option linter.unusedTactic false
set_option linter.unreachableTactic false
set_option linter.unusedVariables false

variable {α : Type} {φ : State → α}

theorem debugReply_frame (h_regs : Blind.regs φ) (h_seq : Blind.seq φ) (h_out : Blind.out φ) (h_rings : Blind.rings φ) (h_journal : Blind.journal φ) (h_sec : Blind.sec φ) (h_det : Blind.det φ) (port : Bool) (r : FabReq) (status : Nat) (data : List Byte) (s : State) :
    φ (debugReply port r status data s) = φ s := by
  unfold debugReply
  repeat' first
    | simp only [debugAccess_frame h_regs h_seq h_rings h_journal h_sec h_det, put_frame h_out, set_frame h_regs]
    | with_reducible refine Eq.trans (foldl_frame (fun _ _ => ?_) _ _) ?_
    | split
    | dsimp only
    | with_reducible rfl

theorem fabReply_frame (h_regs : Blind.regs φ) (h_seq : Blind.seq φ) (h_out : Blind.out φ) (h_ropes : Blind.ropes φ) (h_rings : Blind.rings φ) (h_journal : Blind.journal φ) (h_sec : Blind.sec φ) (h_det : Blind.det φ) (r : FabReq) (status : Nat) (data : List Byte) (s : State) :
    φ (fabReply r status data s) = φ s := by
  unfold fabReply
  repeat' first
    | simp only [debugReply_frame h_regs h_seq h_out h_rings h_journal h_sec h_det, put_frame h_out, sendFabric_frame h_out h_ropes]
    | split
    | dsimp only
    | with_reducible rfl

theorem fabServe_frame (h_regs : Blind.regs φ) (h_seq : Blind.seq φ) (h_out : Blind.out φ) (h_rigs : Blind.rigs φ) (h_treads : Blind.treads φ) (h_flights : Blind.flights φ) (h_ctxs : Blind.ctxs φ) (h_landings : Blind.landings φ) (h_mem : Blind.mem φ) (h_memCheck : Blind.memCheck φ) (h_memEpoch : Blind.memEpoch φ) (h_memKey : Blind.memKey φ) (h_ucs : Blind.ucs φ) (h_ropes : Blind.ropes φ) (h_rings : Blind.rings φ) (h_svcs : Blind.svcs φ) (h_journal : Blind.journal φ) (h_sec : Blind.sec φ) (h_det : Blind.det φ) (bad : Tbl Nat) (r : FabReq) (s : State) :
    φ (fabServe bad r s) = φ s := by
  unfold fabServe
  repeat' first
    | simp only [fabError_frame h_regs h_seq h_rings h_det, fabPerform_frame h_regs h_seq h_out h_rigs h_treads h_flights h_ctxs h_landings h_mem h_memCheck h_memEpoch h_memKey h_ucs h_ropes h_rings h_svcs h_journal h_sec h_det, fabReply_frame h_regs h_seq h_out h_ropes h_rings h_journal h_sec h_det]
    | split
    | refine Eq.trans (fabPerform_frame_of h_regs h_seq h_out h_rigs h_treads h_flights h_ctxs h_landings h_mem h_memCheck h_memEpoch h_memKey h_ucs h_ropes h_rings h_svcs h_journal h_sec h_det ‹_›) ?_
    | dsimp only
    | with_reducible rfl

theorem deliverWaiting_frame (h_regs : Blind.regs φ) (h_seq : Blind.seq φ) (h_out : Blind.out φ) (h_rigs : Blind.rigs φ) (h_treads : Blind.treads φ) (h_flights : Blind.flights φ) (h_ctxs : Blind.ctxs φ) (h_landings : Blind.landings φ) (h_mem : Blind.mem φ) (h_memCheck : Blind.memCheck φ) (h_memEpoch : Blind.memEpoch φ) (h_memKey : Blind.memKey φ) (h_ucs : Blind.ucs φ) (h_ropes : Blind.ropes φ) (h_fabric : Blind.fabric φ) (h_rings : Blind.rings φ) (h_svcs : Blind.svcs φ) (h_journal : Blind.journal φ) (h_sec : Blind.sec φ) (h_det : Blind.det φ) (s : State) :
    φ (deliverWaiting s) = φ s := by
  unfold deliverWaiting
  repeat' first
    | simp only [fabServe_frame h_regs h_seq h_out h_rigs h_treads h_flights h_ctxs h_landings h_mem h_memCheck h_memEpoch h_memKey h_ucs h_ropes h_rings h_svcs h_journal h_sec h_det, h_fabric.eq]
    | with_reducible refine Eq.trans (foldl_frame (fun _ _ => ?_) _ _) ?_
    | split
    | dsimp only
    | with_reducible rfl

end Sys2Proof.Laws
end

