-- ==== Sys2Proof/Laws/FlightOpsFrame.lean ====
section
/-!
SUPPORT. Frames of the operations of Sys2Proof/Machine/FlightOps.lean: what none of them writes stays as it was.
-/
namespace Sys2Proof.Laws
open Machine Machine.State

set_option linter.unusedSimpArgs false
set_option linter.unusedTactic false
set_option linter.unreachableTactic false
set_option linter.unusedVariables false

variable {α : Type} {φ : State → α}

theorem clearFinite_frame (h_parts : Blind.parts φ) (p step source slot bucket : Nat) (s : State) :
    φ (clearFinite p step source slot bucket s) = φ s := by
  unfold clearFinite
  repeat' first
    | simp only [setPart_frame h_parts]
    | split
    | dsimp only
    | with_reducible rfl

end Sys2Proof.Laws
end

