-- ==== Sys2Proof/Laws/FlightsFrame.lean ====
section
/-!
SUPPORT. Frames of the operations of Sys2Proof/Machine/Flights.lean: what none of them writes stays as it was.
-/
namespace Sys2Proof.Laws
open Machine Machine.State

set_option linter.unusedSimpArgs false
set_option linter.unusedTactic false
set_option linter.unreachableTactic false
set_option linter.unusedVariables false

variable {α : Type} {φ : State → α}

theorem flightError_frame (h_regs : Blind.regs φ) (h_seq : Blind.seq φ) (h_out : Blind.out φ) (h_rigs : Blind.rigs φ) (h_ropes : Blind.ropes φ) (h_rings : Blind.rings φ) (h_svcs : Blind.svcs φ) (h_det : Blind.det φ) (gf code tag : Nat) (s : State) :
    φ (flightError gf code tag s) = φ s := by
  unfold flightError
  repeat' first
    | simp only [programFault_frame h_regs h_out h_rigs h_ropes h_svcs, raise_frame h_regs h_seq h_rings h_det, set_frame h_regs]
    | split
    | dsimp only
    | with_reducible rfl

theorem flightAccess_frame (h_regs : Blind.regs φ) (h_seq : Blind.seq φ) (h_out : Blind.out φ) (h_rigs : Blind.rigs φ) (h_ropes : Blind.ropes φ) (h_rings : Blind.rings φ) (h_svcs : Blind.svcs φ) (h_det : Blind.det φ) (gf status tag : Nat) (s : State) :
    φ (flightAccess gf status tag s) = φ s := by
  unfold flightAccess
  repeat' first
    | simp only [flightError_frame h_regs h_seq h_out h_rigs h_ropes h_rings h_svcs h_det, set_frame h_regs]
    | split
    | dsimp only
    | with_reducible rfl

theorem pushDesc_frame (h_regs : Blind.regs φ) (h_seq : Blind.seq φ) (h_flights : Blind.flights φ) (h_rings : Blind.rings φ) (h_det : Blind.det φ) (gf : Nat) (d : List Nat) (s : State) :
    φ (pushDesc gf d s) = φ s := by
  unfold pushDesc
  repeat' first
    | simp only [raise_frame h_regs h_seq h_rings h_det, setFlight_frame h_flights]
    | split
    | dsimp only
    | with_reducible rfl

theorem writePush_frame (h_regs : Blind.regs φ) (h_seq : Blind.seq φ) (h_flights : Blind.flights φ) (h_rings : Blind.rings φ) (h_det : Blind.det φ) (gf w v : Nat) (s : State) :
    φ (writePush gf w v s) = φ s := by
  unfold writePush
  repeat' first
    | simp only [pushDesc_frame h_regs h_seq h_flights h_rings h_det, setFlight_frame h_flights]
    | split
    | dsimp only
    | with_reducible rfl

theorem readPieces_frame (h_regs : Blind.regs φ) (h_seq : Blind.seq φ) (h_out : Blind.out φ) (h_rigs : Blind.rigs φ) (h_treads : Blind.treads φ) (h_flights : Blind.flights φ) (h_ctxs : Blind.ctxs φ) (h_landings : Blind.landings φ) (h_mem : Blind.mem φ) (h_memCheck : Blind.memCheck φ) (h_memEpoch : Blind.memEpoch φ) (h_memKey : Blind.memKey φ) (h_ucs : Blind.ucs φ) (h_ropes : Blind.ropes φ) (h_fabric : Blind.fabric φ) (h_rings : Blind.rings φ) (h_svcs : Blind.svcs φ) (h_journal : Blind.journal φ) (h_sec : Blind.sec φ) (h_det : Blind.det φ) (a : Agent) (bad : Tbl Nat) (a0 : List (Nat × Nat)) (a1 : Nat × List Byte) (a2 : List (List Byte)) (s : State) :
    φ (readPieces a bad a0 a1 a2 s).2.2 = φ s := by
  induction a0 generalizing a1 a2 s with
  | nil => unfold readPieces; rfl
  | cons x r ih =>
    unfold readPieces
    repeat' first
      | simp only [engRead_frame h_regs h_seq h_out h_rigs h_treads h_flights h_ctxs h_landings h_mem h_memCheck h_memEpoch h_memKey h_ucs h_ropes h_fabric h_rings h_svcs h_journal h_sec h_det, ih]
      | split
      | refine Eq.trans (engRead_frame_of h_regs h_seq h_out h_rigs h_treads h_flights h_ctxs h_landings h_mem h_memCheck h_memEpoch h_memKey h_ucs h_ropes h_fabric h_rings h_svcs h_journal h_sec h_det ‹_›) ?_
      | dsimp only
      | with_reducible rfl

theorem readPieces_frame_of (h_regs : Blind.regs φ) (h_seq : Blind.seq φ) (h_out : Blind.out φ) (h_rigs : Blind.rigs φ) (h_treads : Blind.treads φ) (h_flights : Blind.flights φ) (h_ctxs : Blind.ctxs φ) (h_landings : Blind.landings φ) (h_mem : Blind.mem φ) (h_memCheck : Blind.memCheck φ) (h_memEpoch : Blind.memEpoch φ) (h_memKey : Blind.memKey φ) (h_ucs : Blind.ucs φ) (h_ropes : Blind.ropes φ) (h_fabric : Blind.fabric φ) (h_rings : Blind.rings φ) (h_svcs : Blind.svcs φ) (h_journal : Blind.journal φ) (h_sec : Blind.sec φ) (h_det : Blind.det φ) {a : Agent} {bad : Tbl Nat} {a0 : List (Nat × Nat)} {a1 : Nat × List Byte} {a2 : List (List Byte)} {s : State} {t' : State} {x0 x1}
    (h' : readPieces a bad a0 a1 a2 s = (x0, x1, t')) : φ t' = φ s := by
  rw [← readPieces_frame h_regs h_seq h_out h_rigs h_treads h_flights h_ctxs h_landings h_mem h_memCheck h_memEpoch h_memKey h_ucs h_ropes h_fabric h_rings h_svcs h_journal h_sec h_det a bad a0 a1 a2 s, h']

theorem startTile_frame (h_flights : Blind.flights φ) (gf arr i : Nat) (d : List Nat) (s : State) :
    φ (startTile gf arr i d s) = φ s := by
  unfold startTile
  repeat' first
    | simp only [setArray_frame h_flights, setFlight_frame h_flights]
    | split
    | dsimp only
    | with_reducible rfl

theorem countWaits_frame (h_regs : Blind.regs φ) (gf : Nat) (waited : Nat × Nat) (s : State) :
    φ (countWaits gf waited s) = φ s := by
  unfold countWaits
  repeat' first
    | simp only [bump_frame h_regs]
    | split
    | dsimp only
    | with_reducible rfl

theorem tailByte_frame (h_free : Blind.free φ) (addr : Nat) (s : State) :
    φ (tailByte addr s).2 = φ s := by
  unfold tailByte
  repeat' first
    | simp only [takeFree_frame h_free]
    | split
    | refine Eq.trans (takeFree_frame_of h_free ‹_›) ?_
    | dsimp only
    | with_reducible rfl

theorem tailByte_frame_of (h_free : Blind.free φ) {addr : Nat} {s : State} {t' : State} {x0}
    (h' : tailByte addr s = (x0, t')) : φ t' = φ s := by
  rw [← tailByte_frame h_free addr s, h']

theorem drainRows_frame (h_regs : Blind.regs φ) (h_seq : Blind.seq φ) (h_free : Blind.free φ) (h_out : Blind.out φ) (h_rigs : Blind.rigs φ) (h_treads : Blind.treads φ) (h_flights : Blind.flights φ) (h_ctxs : Blind.ctxs φ) (h_landings : Blind.landings φ) (h_mem : Blind.mem φ) (h_memCheck : Blind.memCheck φ) (h_memEpoch : Blind.memEpoch φ) (h_memKey : Blind.memKey φ) (h_ucs : Blind.ucs φ) (h_ropes : Blind.ropes φ) (h_fabric : Blind.fabric φ) (h_rings : Blind.rings φ) (h_svcs : Blind.svcs φ) (h_journal : Blind.journal φ) (h_sec : Blind.sec φ) (h_det : Blind.det φ) (a : Agent) (bad : Tbl Nat) (far : Nat) (t : Tile) (key : RngKey) (all a0 : List EpiRow) (s : State) :
    φ (drainRows a bad far t key all a0 s).2 = φ s := by
  induction a0 generalizing s with
  | nil => unfold drainRows; rfl
  | cons x r ih =>
    unfold drainRows
    repeat' first
      | simp only [engWrite_frame h_regs h_seq h_out h_rigs h_treads h_flights h_ctxs h_landings h_mem h_memCheck h_memEpoch h_memKey h_ucs h_ropes h_fabric h_rings h_svcs h_journal h_sec h_det, tailByte_frame h_free, ih]
      | split
      | refine Eq.trans (engWrite_frame_of h_regs h_seq h_out h_rigs h_treads h_flights h_ctxs h_landings h_mem h_memCheck h_memEpoch h_memKey h_ucs h_ropes h_fabric h_rings h_svcs h_journal h_sec h_det ‹_›) ?_
      | refine Eq.trans (tailByte_frame_of h_free ‹_›) ?_
      | dsimp only
      | with_reducible rfl

theorem drainRows_frame_of (h_regs : Blind.regs φ) (h_seq : Blind.seq φ) (h_free : Blind.free φ) (h_out : Blind.out φ) (h_rigs : Blind.rigs φ) (h_treads : Blind.treads φ) (h_flights : Blind.flights φ) (h_ctxs : Blind.ctxs φ) (h_landings : Blind.landings φ) (h_mem : Blind.mem φ) (h_memCheck : Blind.memCheck φ) (h_memEpoch : Blind.memEpoch φ) (h_memKey : Blind.memKey φ) (h_ucs : Blind.ucs φ) (h_ropes : Blind.ropes φ) (h_fabric : Blind.fabric φ) (h_rings : Blind.rings φ) (h_svcs : Blind.svcs φ) (h_journal : Blind.journal φ) (h_sec : Blind.sec φ) (h_det : Blind.det φ) {a : Agent} {bad : Tbl Nat} {far : Nat} {t : Tile} {key : RngKey} {all : List EpiRow} {a0 : List EpiRow} {s : State} {t' : State} {x0}
    (h' : drainRows a bad far t key all a0 s = (x0, t')) : φ t' = φ s := by
  rw [← drainRows_frame h_regs h_seq h_free h_out h_rigs h_treads h_flights h_ctxs h_landings h_mem h_memCheck h_memEpoch h_memKey h_ucs h_ropes h_fabric h_rings h_svcs h_journal h_sec h_det a bad far t key all a0 s, h']

theorem drainStats_frame (h_regs : Blind.regs φ) (h_seq : Blind.seq φ) (h_out : Blind.out φ) (h_rigs : Blind.rigs φ) (h_treads : Blind.treads φ) (h_flights : Blind.flights φ) (h_ctxs : Blind.ctxs φ) (h_landings : Blind.landings φ) (h_mem : Blind.mem φ) (h_memCheck : Blind.memCheck φ) (h_memEpoch : Blind.memEpoch φ) (h_memKey : Blind.memKey φ) (h_ucs : Blind.ucs φ) (h_ropes : Blind.ropes φ) (h_fabric : Blind.fabric φ) (h_rings : Blind.rings φ) (h_svcs : Blind.svcs φ) (h_journal : Blind.journal φ) (h_sec : Blind.sec φ) (h_det : Blind.det φ) (a : Agent) (bad : Tbl Nat) (far : Nat) (t : Tile) (a0 : List RowRec) (s : State) :
    φ (drainStats a bad far t a0 s).2 = φ s := by
  induction a0 generalizing s with
  | nil => unfold drainStats; rfl
  | cons x r ih =>
    unfold drainStats
    repeat' first
      | simp only [engWrite_frame h_regs h_seq h_out h_rigs h_treads h_flights h_ctxs h_landings h_mem h_memCheck h_memEpoch h_memKey h_ucs h_ropes h_fabric h_rings h_svcs h_journal h_sec h_det, setFlight_frame h_flights, ih]
      | split
      | refine Eq.trans (engWrite_frame_of h_regs h_seq h_out h_rigs h_treads h_flights h_ctxs h_landings h_mem h_memCheck h_memEpoch h_memKey h_ucs h_ropes h_fabric h_rings h_svcs h_journal h_sec h_det ‹_›) ?_
      | dsimp only
      | with_reducible rfl

theorem drainStats_frame_of (h_regs : Blind.regs φ) (h_seq : Blind.seq φ) (h_out : Blind.out φ) (h_rigs : Blind.rigs φ) (h_treads : Blind.treads φ) (h_flights : Blind.flights φ) (h_ctxs : Blind.ctxs φ) (h_landings : Blind.landings φ) (h_mem : Blind.mem φ) (h_memCheck : Blind.memCheck φ) (h_memEpoch : Blind.memEpoch φ) (h_memKey : Blind.memKey φ) (h_ucs : Blind.ucs φ) (h_ropes : Blind.ropes φ) (h_fabric : Blind.fabric φ) (h_rings : Blind.rings φ) (h_svcs : Blind.svcs φ) (h_journal : Blind.journal φ) (h_sec : Blind.sec φ) (h_det : Blind.det φ) {a : Agent} {bad : Tbl Nat} {far : Nat} {t : Tile} {a0 : List RowRec} {s : State} {t' : State} {x0}
    (h' : drainStats a bad far t a0 s = (x0, t')) : φ t' = φ s := by
  rw [← drainStats_frame h_regs h_seq h_out h_rigs h_treads h_flights h_ctxs h_landings h_mem h_memCheck h_memEpoch h_memKey h_ucs h_ropes h_fabric h_rings h_svcs h_journal h_sec h_det a bad far t a0 s, h']

theorem countDrain_frame (h_regs : Blind.regs φ) (h_seq : Blind.seq φ) (h_out : Blind.out φ) (h_rigs : Blind.rigs φ) (h_reds : Blind.reds φ) (h_ropes : Blind.ropes φ) (h_rings : Blind.rings φ) (h_svcs : Blind.svcs φ) (h_det : Blind.det φ) (p slot : Nat) (t : Tile) (s : State) :
    φ (countDrain p slot t s) = φ s := by
  unfold countDrain
  repeat' first
    | simp only [bump_frame h_regs, programFault_frame h_regs h_out h_rigs h_ropes h_svcs, raise_frame h_regs h_seq h_rings h_det, set_frame h_regs, setRed_frame h_reds]
    | split
    | dsimp only
    | with_reducible rfl

theorem sendRecord_frame (h_stages : Blind.stages φ) (h_parts : Blind.parts φ) (gf : Nat) (gate : Bool) (c : TileRec) (s : State) :
    φ (sendRecord gf gate c s) = φ s := by
  unfold sendRecord
  repeat' first
    | simp only [clearFinite_frame h_parts, setStage_frame h_stages]
    | split
    | dsimp only
    | with_reducible rfl

theorem drainReport_frame (h_regs : Blind.regs φ) (gf : Nat) (t : Tile) (c : TileRec) (s : State) :
    φ (drainReport gf t c s) = φ s := by
  unfold drainReport
  repeat' first
    | simp only [bump_frame h_regs, set_frame h_regs]
    | split
    | dsimp only
    | with_reducible rfl

theorem tileRecord_frame (h_free : Blind.free φ) (arr : Nat) (t : Tile) (rows : List EpiRow) (recs : List RowRec) (s : State) :
    φ (tileRecord arr t rows recs s).2 = φ s := by
  unfold tileRecord
  repeat' first
    | simp only [takeFree_frame h_free]
    | split
    | refine Eq.trans (takeFree_frame_of h_free ‹_›) ?_
    | dsimp only
    | with_reducible rfl

theorem tileRecord_frame_of (h_free : Blind.free φ) {arr : Nat} {t : Tile} {rows : List EpiRow} {recs : List RowRec} {s : State} {t' : State} {x0}
    (h' : tileRecord arr t rows recs s = (x0, t')) : φ t' = φ s := by
  rw [← tileRecord_frame h_free arr t rows recs s, h']

theorem drainWrites_frame (h_regs : Blind.regs φ) (h_seq : Blind.seq φ) (h_free : Blind.free φ) (h_out : Blind.out φ) (h_rigs : Blind.rigs φ) (h_treads : Blind.treads φ) (h_flights : Blind.flights φ) (h_ctxs : Blind.ctxs φ) (h_landings : Blind.landings φ) (h_mem : Blind.mem φ) (h_memCheck : Blind.memCheck φ) (h_memEpoch : Blind.memEpoch φ) (h_memKey : Blind.memKey φ) (h_ucs : Blind.ucs φ) (h_ropes : Blind.ropes φ) (h_fabric : Blind.fabric φ) (h_rings : Blind.rings φ) (h_svcs : Blind.svcs φ) (h_journal : Blind.journal φ) (h_sec : Blind.sec φ) (h_det : Blind.det φ) (gf : Nat) (run : TileRun) (rows : List EpiRow) (recs : List RowRec) (bad : Tbl Nat) (far : Nat) (s : State) :
    φ (drainWrites gf run rows recs bad far s).2 = φ s := by
  unfold drainWrites
  repeat' first
    | simp -zeta only [drainRows_frame h_regs h_seq h_free h_out h_rigs h_treads h_flights h_ctxs h_landings h_mem h_memCheck h_memEpoch h_memKey h_ucs h_ropes h_fabric h_rings h_svcs h_journal h_sec h_det, drainStats_frame h_regs h_seq h_out h_rigs h_treads h_flights h_ctxs h_landings h_mem h_memCheck h_memEpoch h_memKey h_ucs h_ropes h_fabric h_rings h_svcs h_journal h_sec h_det]
    | split
    | refine Eq.trans (drainRows_frame_of h_regs h_seq h_free h_out h_rigs h_treads h_flights h_ctxs h_landings h_mem h_memCheck h_memEpoch h_memKey h_ucs h_ropes h_fabric h_rings h_svcs h_journal h_sec h_det ‹_›) ?_
    | refine Eq.trans (drainStats_frame_of h_regs h_seq h_out h_rigs h_treads h_flights h_ctxs h_landings h_mem h_memCheck h_memEpoch h_memKey h_ucs h_ropes h_fabric h_rings h_svcs h_journal h_sec h_det ‹_›) ?_
    | extract_lets
    | simp +zetaDelta only [drainRows_frame h_regs h_seq h_free h_out h_rigs h_treads h_flights h_ctxs h_landings h_mem h_memCheck h_memEpoch h_memKey h_ucs h_ropes h_fabric h_rings h_svcs h_journal h_sec h_det, drainStats_frame h_regs h_seq h_out h_rigs h_treads h_flights h_ctxs h_landings h_mem h_memCheck h_memEpoch h_memKey h_ucs h_ropes h_fabric h_rings h_svcs h_journal h_sec h_det]
    | with_reducible rfl

theorem drainWrites_frame_of (h_regs : Blind.regs φ) (h_seq : Blind.seq φ) (h_free : Blind.free φ) (h_out : Blind.out φ) (h_rigs : Blind.rigs φ) (h_treads : Blind.treads φ) (h_flights : Blind.flights φ) (h_ctxs : Blind.ctxs φ) (h_landings : Blind.landings φ) (h_mem : Blind.mem φ) (h_memCheck : Blind.memCheck φ) (h_memEpoch : Blind.memEpoch φ) (h_memKey : Blind.memKey φ) (h_ucs : Blind.ucs φ) (h_ropes : Blind.ropes φ) (h_fabric : Blind.fabric φ) (h_rings : Blind.rings φ) (h_svcs : Blind.svcs φ) (h_journal : Blind.journal φ) (h_sec : Blind.sec φ) (h_det : Blind.det φ) {gf : Nat} {run : TileRun} {rows : List EpiRow} {recs : List RowRec} {bad : Tbl Nat} {far : Nat} {s : State} {t' : State} {x0}
    (h' : drainWrites gf run rows recs bad far s = (x0, t')) : φ t' = φ s := by
  rw [← drainWrites_frame h_regs h_seq h_free h_out h_rigs h_treads h_flights h_ctxs h_landings h_mem h_memCheck h_memEpoch h_memKey h_ucs h_ropes h_fabric h_rings h_svcs h_journal h_sec h_det gf run rows recs bad far s, h']

theorem drainDone_frame (h_regs : Blind.regs φ) (h_seq : Blind.seq φ) (h_free : Blind.free φ) (h_out : Blind.out φ) (h_rigs : Blind.rigs φ) (h_flights : Blind.flights φ) (h_stages : Blind.stages φ) (h_parts : Blind.parts φ) (h_reds : Blind.reds φ) (h_ropes : Blind.ropes φ) (h_rings : Blind.rings φ) (h_svcs : Blind.svcs φ) (h_journal : Blind.journal φ) (h_sec : Blind.sec φ) (h_det : Blind.det φ) (gf arr : Nat) (t : Tile) (inj : Bool) (rows : List EpiRow) (recs : List RowRec) (s : State) :
    φ (drainDone gf arr t inj rows recs s) = φ s := by
  unfold drainDone
  repeat' first
    | simp -zeta only [countDrain_frame h_regs h_seq h_out h_rigs h_reds h_ropes h_rings h_svcs h_det, drainReport_frame h_regs, hitInjection_frame h_regs h_seq h_rings h_journal h_sec h_det, sendRecord_frame h_stages h_parts, setArray_frame h_flights, tileRecord_frame h_free]
    | split
    | refine Eq.trans (tileRecord_frame_of h_free ‹_›) ?_
    | extract_lets
    | simp +zetaDelta only [countDrain_frame h_regs h_seq h_out h_rigs h_reds h_ropes h_rings h_svcs h_det, drainReport_frame h_regs, hitInjection_frame h_regs h_seq h_rings h_journal h_sec h_det, sendRecord_frame h_stages h_parts, setArray_frame h_flights, tileRecord_frame h_free]
    | with_reducible rfl

end Sys2Proof.Laws
end

