-- ==== Sys2Proof/Laws/RegOpsFrame.lean ====
section
/-!
SUPPORT. Frames of the operations of Sys2Proof/Machine/RegOps.lean: what none of them writes stays as it was.
-/
namespace Sys2Proof.Laws
open Machine Machine.State

set_option linter.unusedSimpArgs false
set_option linter.unusedTactic false
set_option linter.unreachableTactic false
set_option linter.unusedVariables false

variable {α : Type} {φ : State → α}

theorem clearRc_frame (h_regs : Blind.regs φ) (off during : Nat) (s : State) :
    φ (clearRc off during s) = φ s := by
  unfold clearRc
  repeat' first
    | simp only [set_frame h_regs]
    | with_reducible refine Eq.trans (foldl_frame (fun _ _ => ?_) _ _) ?_
    | split
    | dsimp only
    | with_reducible rfl

theorem readOwnWord_frame (h_regs : Blind.regs φ) (h_seq : Blind.seq φ) (h_hiLatch : Blind.hiLatch φ) (h_rings : Blind.rings φ) (h_journal : Blind.journal φ) (h_sec : Blind.sec φ) (h_det : Blind.det φ) (who off during : Nat) (s : State) :
    φ (readOwnWord who off during s).2 = φ s := by
  unfold readOwnWord
  repeat' first
    | simp only [clearRc_frame h_regs, readChanHead_frame h_regs h_seq h_rings h_journal h_sec h_det, h_hiLatch.eq]
    | split
    | refine Eq.trans (readChanHead_frame_of h_regs h_seq h_rings h_journal h_sec h_det ‹_›) ?_
    | dsimp only
    | with_reducible rfl

theorem readOwnWord_frame_of (h_regs : Blind.regs φ) (h_seq : Blind.seq φ) (h_hiLatch : Blind.hiLatch φ) (h_rings : Blind.rings φ) (h_journal : Blind.journal φ) (h_sec : Blind.sec φ) (h_det : Blind.det φ) {who : Nat} {off : Nat} {during : Nat} {s : State} {t' : State} {x0}
    (h' : readOwnWord who off during s = (x0, t')) : φ t' = φ s := by
  rw [← readOwnWord_frame h_regs h_seq h_hiLatch h_rings h_journal h_sec h_det who off during s, h']

theorem readWord_frame (h_regs : Blind.regs φ) (h_seq : Blind.seq φ) (h_hiLatch : Blind.hiLatch φ) (h_commitLatch : Blind.commitLatch φ) (h_rings : Blind.rings φ) (h_journal : Blind.journal φ) (h_sec : Blind.sec φ) (h_det : Blind.det φ) (who off during : Nat) (s : State) :
    φ (readWord who off during s).2 = φ s := by
  unfold readWord
  repeat' first
    | simp only [readOwnWord_frame h_regs h_seq h_hiLatch h_rings h_journal h_sec h_det, h_commitLatch.eq]
    | split
    | refine Eq.trans (readOwnWord_frame_of h_regs h_seq h_hiLatch h_rings h_journal h_sec h_det ‹_›) ?_
    | dsimp only
    | with_reducible rfl

theorem readWord_frame_of (h_regs : Blind.regs φ) (h_seq : Blind.seq φ) (h_hiLatch : Blind.hiLatch φ) (h_commitLatch : Blind.commitLatch φ) (h_rings : Blind.rings φ) (h_journal : Blind.journal φ) (h_sec : Blind.sec φ) (h_det : Blind.det φ) {who : Nat} {off : Nat} {during : Nat} {s : State} {t' : State} {x0}
    (h' : readWord who off during s = (x0, t')) : φ t' = φ s := by
  rw [← readWord_frame h_regs h_seq h_hiLatch h_commitLatch h_rings h_journal h_sec h_det who off during s, h']

theorem readReg_frame (h_regs : Blind.regs φ) (h_seq : Blind.seq φ) (h_hiLatch : Blind.hiLatch φ) (h_commitLatch : Blind.commitLatch φ) (h_rings : Blind.rings φ) (h_journal : Blind.journal φ) (h_sec : Blind.sec φ) (h_det : Blind.det φ) (who off n during : Nat) (s : State) :
    φ (readReg who off n during s).2 = φ s := by
  unfold readReg
  repeat' first
    | simp only [readWord_frame h_regs h_seq h_hiLatch h_commitLatch h_rings h_journal h_sec h_det]
    | split
    | refine Eq.trans (readWord_frame_of h_regs h_seq h_hiLatch h_commitLatch h_rings h_journal h_sec h_det ‹_›) ?_
    | dsimp only
    | with_reducible rfl

theorem readReg_frame_of (h_regs : Blind.regs φ) (h_seq : Blind.seq φ) (h_hiLatch : Blind.hiLatch φ) (h_commitLatch : Blind.commitLatch φ) (h_rings : Blind.rings φ) (h_journal : Blind.journal φ) (h_sec : Blind.sec φ) (h_det : Blind.det φ) {who : Nat} {off : Nat} {n : Nat} {during : Nat} {s : State} {t' : State} {x0}
    (h' : readReg who off n during s = (x0, t')) : φ t' = φ s := by
  rw [← readReg_frame h_regs h_seq h_hiLatch h_commitLatch h_rings h_journal h_sec h_det who off n during s, h']

theorem regRead_frame (h_regs : Blind.regs φ) (h_seq : Blind.seq φ) (h_hiLatch : Blind.hiLatch φ) (h_commitLatch : Blind.commitLatch φ) (h_rings : Blind.rings φ) (h_journal : Blind.journal φ) (h_sec : Blind.sec φ) (h_det : Blind.det φ) (w : Who) (off n during : Nat) (s : State) :
    φ (regRead w off n during s).2 = φ s := by
  unfold regRead
  repeat' first
    | simp only [readReg_frame h_regs h_seq h_hiLatch h_commitLatch h_rings h_journal h_sec h_det]
    | split
    | refine Eq.trans (readReg_frame_of h_regs h_seq h_hiLatch h_commitLatch h_rings h_journal h_sec h_det ‹_›) ?_
    | dsimp only
    | with_reducible rfl

theorem regRead_frame_of (h_regs : Blind.regs φ) (h_seq : Blind.seq φ) (h_hiLatch : Blind.hiLatch φ) (h_commitLatch : Blind.commitLatch φ) (h_rings : Blind.rings φ) (h_journal : Blind.journal φ) (h_sec : Blind.sec φ) (h_det : Blind.det φ) {w : Who} {off : Nat} {n : Nat} {during : Nat} {s : State} {t' : State} {x0}
    (h' : regRead w off n during s = (x0, t')) : φ t' = φ s := by
  rw [← regRead_frame h_regs h_seq h_hiLatch h_commitLatch h_rings h_journal h_sec h_det w off n during s, h']

theorem writeFld_frame (h_regs : Blind.regs φ) (old : State) (v : Nat) (ft : Fld × FTy) (s : State) :
    φ (writeFld old v ft s) = φ s := by
  unfold writeFld
  repeat' first
    | simp only [set_frame h_regs]
    | split
    | dsimp only
    | with_reducible rfl

theorem afterWrite_frame (h_regs : Blind.regs φ) (h_journal : Blind.journal φ) (h_det : Blind.det φ) (a : RegAt) (v : Nat) (before s : State) :
    φ (afterWrite a v before s) = φ s := by
  unfold afterWrite
  repeat' first
    | simp only [bump_frame h_regs, journalSettings_frame h_regs h_journal, h_det.eq]
    | split
    | dsimp only
    | with_reducible rfl

theorem writeOne_frame (h_regs : Blind.regs φ) (h_journal : Blind.journal φ) (h_det : Blind.det φ) (a : RegAt) (n v : Nat) (s : State) :
    φ (writeOne a n v s) = φ s := by
  unfold writeOne
  repeat' first
    | simp only [afterWrite_frame h_regs h_journal h_det, writeFld_frame h_regs]
    | with_reducible refine Eq.trans (foldl_frame (fun _ _ => ?_) _ _) ?_
    | split
    | dsimp only
    | with_reducible rfl

theorem writeReg_frame (h_regs : Blind.regs φ) (h_journal : Blind.journal φ) (h_det : Blind.det φ) (off n v : Nat) (s : State) :
    φ (writeReg off n v s) = φ s := by
  unfold writeReg
  repeat' first
    | simp only [writeOne_frame h_regs h_journal h_det]
    | split
    | dsimp only
    | with_reducible rfl

theorem clearW1c_frame (h_regs : Blind.regs φ) (off value sets : Nat) (s : State) :
    φ (clearW1c off value sets s) = φ s := by
  unfold clearW1c
  repeat' first
    | simp only [set_frame h_regs]
    | with_reducible refine Eq.trans (foldl_frame (fun _ _ => ?_) _ _) ?_
    | split
    | dsimp only
    | with_reducible rfl

end Sys2Proof.Laws
end

