-- ==== Sys2Proof/Laws/RingOpsFrame.lean ====
section
/-!
SUPPORT. Frames of the operations of Sys2Proof/Machine/RingOps.lean: what none of them writes stays as it was.
-/
namespace Sys2Proof.Laws
open Machine Machine.State

set_option linter.unusedSimpArgs false
set_option linter.unusedTactic false
set_option linter.unreachableTactic false
set_option linter.unusedVariables false

variable {α : Type} {φ : State → α}

theorem holdScratch_frame (h_ucs : Blind.ucs φ) (u p : Nat) (l : List Byte) (s : State) :
    φ (holdScratch u p l s) = φ s := by
  unfold holdScratch
  repeat' first
    | simp only [setUc_frame h_ucs]
    | with_reducible refine Eq.trans (foldl_frame (fun _ _ => ?_) _ _) ?_
    | split
    | dsimp only
    | with_reducible rfl

theorem holdRegs_frame (h_ucs : Blind.ucs φ) (u p : Nat) (v : List (List Nat)) (s : State) :
    φ (holdRegs u p v s) = φ s := by
  unfold holdRegs
  repeat' first
    | simp only [holdScratch_frame h_ucs, setUc_frame h_ucs]
    | split
    | dsimp only
    | with_reducible rfl

theorem clearScratch_frame (h_ucs : Blind.ucs φ) (p : Nat) (s : State) :
    φ (clearScratch p s) = φ s := by
  unfold clearScratch
  repeat' first
    | simp only [setUc_frame h_ucs]
    | with_reducible refine Eq.trans (foldl_frame (fun _ _ => ?_) _ _) ?_
    | split
    | dsimp only
    | with_reducible rfl

theorem withRing_frame (slot : Nat) (f : Nat → Rigging → RingCfg → List Bucket → State → State) (s : State) (h_f : ∀ x0 x1 x2 x3 s, φ (f x0 x1 x2 x3 s) = φ s) :
    φ (withRing slot f s) = φ s := by
  unfold withRing
  repeat' first
    | simp only [h_f]
    | split
    | dsimp only
    | with_reducible rfl

theorem sendRing_frame (h_out : Blind.out φ) (h_ropes : Blind.ropes φ) (p : Nat) (r : Rigging) (g : RingCfg) (m : RingMsg) (s : State) :
    φ (sendRing p r g m s) = φ s := by
  unfold sendRing
  repeat' first
    | simp only [sendJob_frame h_out h_ropes]
    | split
    | dsimp only
    | with_reducible rfl

theorem returnRingCredit_frame (h_out : Blind.out φ) (h_ropes : Blind.ropes φ) (p : Nat) (r : Rigging) (g : RingCfg) (gather : Bool) (s : State) :
    φ (returnRingCredit p r g gather s) = φ s := by
  unfold returnRingCredit
  repeat' first
    | simp only [sendJob_frame h_out h_ropes]
    | split
    | dsimp only
    | with_reducible rfl

theorem addOwn_frame (h_regs : Blind.regs φ) (h_seq : Blind.seq φ) (h_out : Blind.out φ) (h_rigs : Blind.rigs φ) (h_memCheck : Blind.memCheck φ) (h_ucs : Blind.ucs φ) (h_ropes : Blind.ropes φ) (h_rings : Blind.rings φ) (h_svcs : Blind.svcs φ) (h_journal : Blind.journal φ) (h_sec : Blind.sec φ) (h_det : Blind.det φ) (bad : Tbl Nat) (g : RingCfg) (b : Bucket) (k seg i : Nat) (s : State) :
    φ (addOwn bad g b k seg i s).2 = φ s := by
  unfold addOwn
  repeat' first
    | simp only [memRead_frame h_regs h_seq h_out h_rigs h_memCheck h_ucs h_ropes h_rings h_svcs h_journal h_sec h_det]
    | split
    | refine Eq.trans (memRead_frame_of h_regs h_seq h_out h_rigs h_memCheck h_ucs h_ropes h_rings h_svcs h_journal h_sec h_det ‹_›) ?_
    | dsimp only
    | with_reducible rfl

theorem addOwn_frame_of (h_regs : Blind.regs φ) (h_seq : Blind.seq φ) (h_out : Blind.out φ) (h_rigs : Blind.rigs φ) (h_memCheck : Blind.memCheck φ) (h_ucs : Blind.ucs φ) (h_ropes : Blind.ropes φ) (h_rings : Blind.rings φ) (h_svcs : Blind.svcs φ) (h_journal : Blind.journal φ) (h_sec : Blind.sec φ) (h_det : Blind.det φ) {bad : Tbl Nat} {g : RingCfg} {b : Bucket} {k : Nat} {seg : Nat} {i : Nat} {s : State} {t' : State} {x0}
    (h' : addOwn bad g b k seg i s = (x0, t')) : φ t' = φ s := by
  rw [← addOwn_frame h_regs h_seq h_out h_rigs h_memCheck h_ucs h_ropes h_rings h_svcs h_journal h_sec h_det bad g b k seg i s, h']

theorem gateRing_frame (h_parts : Blind.parts φ) (p slot bucket : Nat) (nf : Bool) (s : State) :
    φ (gateRing p slot bucket nf s) = φ s := by
  unfold gateRing
  repeat' first
    | simp only [clearFinite_frame h_parts]
    | split
    | dsimp only
    | with_reducible rfl

theorem settleTotal_frame (h_regs : Blind.regs φ) (h_seq : Blind.seq φ) (h_out : Blind.out φ) (h_rigs : Blind.rigs φ) (h_parts : Blind.parts φ) (h_reds : Blind.reds φ) (h_mem : Blind.mem φ) (h_memCheck : Blind.memCheck φ) (h_memEpoch : Blind.memEpoch φ) (h_memKey : Blind.memKey φ) (h_ucs : Blind.ucs φ) (h_ropes : Blind.ropes φ) (h_rings : Blind.rings φ) (h_svcs : Blind.svcs φ) (h_journal : Blind.journal φ) (h_sec : Blind.sec φ) (h_det : Blind.det φ) (bad : Tbl Nat) (p : Nat) (r : Rigging) (g : RingCfg) (bs : List Bucket) (s : State) :
    φ (settleTotal bad p r g bs s) = φ s := by
  unfold settleTotal
  repeat' first
    | simp only [addOwn_frame h_regs h_seq h_out h_rigs h_memCheck h_ucs h_ropes h_rings h_svcs h_journal h_sec h_det, bump_frame h_regs, gateRing_frame h_parts, memWrite_frame h_regs h_seq h_out h_rigs h_mem h_memCheck h_memEpoch h_memKey h_ucs h_ropes h_rings h_svcs h_journal h_sec h_det, returnRingCredit_frame h_out h_ropes, setRed_frame h_reds]
    | split
    | refine Eq.trans (addOwn_frame_of h_regs h_seq h_out h_rigs h_memCheck h_ucs h_ropes h_rings h_svcs h_journal h_sec h_det ‹_›) ?_
    | refine Eq.trans (memWrite_frame_of h_regs h_seq h_out h_rigs h_mem h_memCheck h_memEpoch h_memKey h_ucs h_ropes h_rings h_svcs h_journal h_sec h_det ‹_›) ?_
    | dsimp only
    | with_reducible rfl

theorem advanceUpd_frame (h_reds : Blind.reds φ) (p slot : Nat) (s : State) :
    φ (advanceUpd p slot s) = φ s := by
  unfold advanceUpd
  repeat' first
    | simp only [setRed_frame h_reds]
    | split
    | dsimp only
    | with_reducible rfl

theorem markBuilding_frame (h_parts : Blind.parts φ) (p c : Nat) (s : State) :
    φ (markBuilding p c s) = φ s := by
  unfold markBuilding
  repeat' first
    | simp only [setPart_frame h_parts]
    | split
    | dsimp only
    | with_reducible rfl

theorem writeGather_frame (h_regs : Blind.regs φ) (h_seq : Blind.seq φ) (h_out : Blind.out φ) (h_rigs : Blind.rigs φ) (h_parts : Blind.parts φ) (h_reds : Blind.reds φ) (h_mem : Blind.mem φ) (h_memCheck : Blind.memCheck φ) (h_memEpoch : Blind.memEpoch φ) (h_memKey : Blind.memKey φ) (h_ucs : Blind.ucs φ) (h_ropes : Blind.ropes φ) (h_rings : Blind.rings φ) (h_svcs : Blind.svcs φ) (h_journal : Blind.journal φ) (h_sec : Blind.sec φ) (h_det : Blind.det φ) (bad : Tbl Nat) (p : Nat) (r : Rigging) (g : RingCfg) (b : Bucket) (k i : Nat) (form : List Byte) (s : State) :
    φ (writeGather bad p r g b k i form s).2 = φ s := by
  unfold writeGather
  repeat' first
    | simp only [markBuilding_frame h_parts, memWrite_frame h_regs h_seq h_out h_rigs h_mem h_memCheck h_memEpoch h_memKey h_ucs h_ropes h_rings h_svcs h_journal h_sec h_det, setRed_frame h_reds]
    | split
    | refine Eq.trans (memWrite_frame_of h_regs h_seq h_out h_rigs h_mem h_memCheck h_memEpoch h_memKey h_ucs h_ropes h_rings h_svcs h_journal h_sec h_det ‹_›) ?_
    | dsimp only
    | with_reducible rfl

theorem writeGather_frame_of (h_regs : Blind.regs φ) (h_seq : Blind.seq φ) (h_out : Blind.out φ) (h_rigs : Blind.rigs φ) (h_parts : Blind.parts φ) (h_reds : Blind.reds φ) (h_mem : Blind.mem φ) (h_memCheck : Blind.memCheck φ) (h_memEpoch : Blind.memEpoch φ) (h_memKey : Blind.memKey φ) (h_ucs : Blind.ucs φ) (h_ropes : Blind.ropes φ) (h_rings : Blind.rings φ) (h_svcs : Blind.svcs φ) (h_journal : Blind.journal φ) (h_sec : Blind.sec φ) (h_det : Blind.det φ) {bad : Tbl Nat} {p : Nat} {r : Rigging} {g : RingCfg} {b : Bucket} {k : Nat} {i : Nat} {form : List Byte} {s : State} {t' : State} {x0}
    (h' : writeGather bad p r g b k i form s = (x0, t')) : φ t' = φ s := by
  rw [← writeGather_frame h_regs h_seq h_out h_rigs h_parts h_reds h_mem h_memCheck h_memEpoch h_memKey h_ucs h_ropes h_rings h_svcs h_journal h_sec h_det bad p r g b k i form s, h']

theorem settleGather_frame (h_regs : Blind.regs φ) (h_seq : Blind.seq φ) (h_out : Blind.out φ) (h_rigs : Blind.rigs φ) (h_parts : Blind.parts φ) (h_reds : Blind.reds φ) (h_mem : Blind.mem φ) (h_memCheck : Blind.memCheck φ) (h_memEpoch : Blind.memEpoch φ) (h_memKey : Blind.memKey φ) (h_ucs : Blind.ucs φ) (h_ropes : Blind.ropes φ) (h_rings : Blind.rings φ) (h_svcs : Blind.svcs φ) (h_journal : Blind.journal φ) (h_sec : Blind.sec φ) (h_det : Blind.det φ) (bad : Tbl Nat) (p : Nat) (r : Rigging) (g : RingCfg) (bs : List Bucket) (s : State) :
    φ (settleGather bad p r g bs s) = φ s := by
  unfold settleGather
  repeat' first
    | simp only [advanceUpd_frame h_reds, memRead_frame h_regs h_seq h_out h_rigs h_memCheck h_ucs h_ropes h_rings h_svcs h_journal h_sec h_det, returnRingCredit_frame h_out h_ropes, setRed_frame h_reds, writeGather_frame h_regs h_seq h_out h_rigs h_parts h_reds h_mem h_memCheck h_memEpoch h_memKey h_ucs h_ropes h_rings h_svcs h_journal h_sec h_det]
    | split
    | refine Eq.trans (memRead_frame_of h_regs h_seq h_out h_rigs h_memCheck h_ucs h_ropes h_rings h_svcs h_journal h_sec h_det ‹_›) ?_
    | refine Eq.trans (writeGather_frame_of h_regs h_seq h_out h_rigs h_parts h_reds h_mem h_memCheck h_memEpoch h_memKey h_ucs h_ropes h_rings h_svcs h_journal h_sec h_det ‹_›) ?_
    | dsimp only
    | with_reducible rfl

theorem ringOrder_frame (h_regs : Blind.regs φ) (h_seq : Blind.seq φ) (h_out : Blind.out φ) (h_rigs : Blind.rigs φ) (h_reds : Blind.reds φ) (h_ropes : Blind.ropes φ) (h_rings : Blind.rings φ) (h_svcs : Blind.svcs φ) (h_det : Blind.det φ) (p slot : Nat) (want found : List Nat) (s : State) :
    φ (ringOrder p slot want found s) = φ s := by
  unfold ringOrder
  repeat' first
    | simp only [bump_frame h_regs, programFault_frame h_regs h_out h_rigs h_ropes h_svcs, raise_frame h_regs h_seq h_rings h_det, set_frame h_regs, setRed_frame h_reds]
    | split
    | dsimp only
    | with_reducible rfl

end Sys2Proof.Laws
end

