-- ==== Sys2Proof/Laws/RingsFrame.lean ====
section
/-!
SUPPORT. Frames of the operations of Sys2Proof/Machine/Rings.lean: what none of them writes stays as it was.
-/
namespace Sys2Proof.Laws
open Machine Machine.State

set_option linter.unusedSimpArgs false
set_option linter.unusedTactic false
set_option linter.unreachableTactic false
set_option linter.unusedVariables false

variable {α : Type} {φ : State → α}

theorem sentReduction_frame (h_out : Blind.out φ) (h_parts : Blind.parts φ) (h_reds : Blind.reds φ) (h_ropes : Blind.ropes φ) (p : Nat) (r : Rigging) (g : RingCfg) (b : Bucket) (x : List Byte) (nf : Bool) (s : State) :
    φ (sentReduction p r g b x nf s) = φ s := by
  unfold sentReduction
  repeat' first
    | simp only [gateRing_frame h_parts, returnRingCredit_frame h_out h_ropes, sendRing_frame h_out h_ropes, setRed_frame h_reds]
    | split
    | dsimp only
    | with_reducible rfl

theorem sendReduction_frame (h_regs : Blind.regs φ) (h_seq : Blind.seq φ) (h_out : Blind.out φ) (h_rigs : Blind.rigs φ) (h_parts : Blind.parts φ) (h_reds : Blind.reds φ) (h_memCheck : Blind.memCheck φ) (h_ucs : Blind.ucs φ) (h_ropes : Blind.ropes φ) (h_rings : Blind.rings φ) (h_svcs : Blind.svcs φ) (h_journal : Blind.journal φ) (h_sec : Blind.sec φ) (h_det : Blind.det φ) (bad : Tbl Nat) (p : Nat) (r : Rigging) (g : RingCfg) (bs : List Bucket) (s : State) :
    φ (sendReduction bad p r g bs s).2 = φ s := by
  unfold sendReduction
  repeat' first
    | simp only [addOwn_frame h_regs h_seq h_out h_rigs h_memCheck h_ucs h_ropes h_rings h_svcs h_journal h_sec h_det, memRead_frame h_regs h_seq h_out h_rigs h_memCheck h_ucs h_ropes h_rings h_svcs h_journal h_sec h_det, sentReduction_frame h_out h_parts h_reds h_ropes]
    | split
    | refine Eq.trans (addOwn_frame_of h_regs h_seq h_out h_rigs h_memCheck h_ucs h_ropes h_rings h_svcs h_journal h_sec h_det ‹_›) ?_
    | refine Eq.trans (memRead_frame_of h_regs h_seq h_out h_rigs h_memCheck h_ucs h_ropes h_rings h_svcs h_journal h_sec h_det ‹_›) ?_
    | dsimp only
    | with_reducible rfl

theorem sendReduction_frame_of (h_regs : Blind.regs φ) (h_seq : Blind.seq φ) (h_out : Blind.out φ) (h_rigs : Blind.rigs φ) (h_parts : Blind.parts φ) (h_reds : Blind.reds φ) (h_memCheck : Blind.memCheck φ) (h_ucs : Blind.ucs φ) (h_ropes : Blind.ropes φ) (h_rings : Blind.rings φ) (h_svcs : Blind.svcs φ) (h_journal : Blind.journal φ) (h_sec : Blind.sec φ) (h_det : Blind.det φ) {bad : Tbl Nat} {p : Nat} {r : Rigging} {g : RingCfg} {bs : List Bucket} {s : State} {t' : State} {x0}
    (h' : sendReduction bad p r g bs s = (x0, t')) : φ t' = φ s := by
  rw [← sendReduction_frame h_regs h_seq h_out h_rigs h_parts h_reds h_memCheck h_ucs h_ropes h_rings h_svcs h_journal h_sec h_det bad p r g bs s, h']

theorem takeReduction_frame (h_regs : Blind.regs φ) (h_seq : Blind.seq φ) (h_out : Blind.out φ) (h_rigs : Blind.rigs φ) (h_reds : Blind.reds φ) (h_mem : Blind.mem φ) (h_memCheck : Blind.memCheck φ) (h_memEpoch : Blind.memEpoch φ) (h_memKey : Blind.memKey φ) (h_ropes : Blind.ropes φ) (h_rings : Blind.rings φ) (h_svcs : Blind.svcs φ) (h_journal : Blind.journal φ) (h_sec : Blind.sec φ) (h_det : Blind.det φ) (k v : Nat) (raw : List Byte) (m : RingMsg) (p : Nat) (g : RingCfg) (bs : List Bucket) (s : State) :
    φ (takeReduction k v raw m p g bs s) = φ s := by
  unfold takeReduction
  repeat' first
    | simp only [ringOrder_frame h_regs h_seq h_out h_rigs h_reds h_ropes h_rings h_svcs h_det, setRed_frame h_reds, storeBytes_frame h_regs h_seq h_mem h_memCheck h_memEpoch h_memKey h_rings h_journal h_sec h_det, tookMsg_frame h_ropes]
    | split
    | dsimp only
    | with_reducible rfl

theorem takeGather_frame (h_regs : Blind.regs φ) (h_seq : Blind.seq φ) (h_out : Blind.out φ) (h_rigs : Blind.rigs φ) (h_reds : Blind.reds φ) (h_mem : Blind.mem φ) (h_memCheck : Blind.memCheck φ) (h_memEpoch : Blind.memEpoch φ) (h_memKey : Blind.memKey φ) (h_ropes : Blind.ropes φ) (h_rings : Blind.rings φ) (h_svcs : Blind.svcs φ) (h_journal : Blind.journal φ) (h_sec : Blind.sec φ) (h_det : Blind.det φ) (k v : Nat) (raw : List Byte) (m : RingMsg) (p : Nat) (g : RingCfg) (bs : List Bucket) (s : State) :
    φ (takeGather k v raw m p g bs s) = φ s := by
  unfold takeGather
  repeat' first
    | simp only [ringOrder_frame h_regs h_seq h_out h_rigs h_reds h_ropes h_rings h_svcs h_det, setRed_frame h_reds, storeBytes_frame h_regs h_seq h_mem h_memCheck h_memEpoch h_memKey h_rings h_journal h_sec h_det, tookMsg_frame h_ropes]
    | split
    | dsimp only
    | with_reducible rfl

theorem readPairs_frame (h_regs : Blind.regs φ) (h_seq : Blind.seq φ) (h_out : Blind.out φ) (h_rigs : Blind.rigs φ) (h_memCheck : Blind.memCheck φ) (h_ucs : Blind.ucs φ) (h_ropes : Blind.ropes φ) (h_rings : Blind.rings φ) (h_svcs : Blind.svcs φ) (h_journal : Blind.journal φ) (h_sec : Blind.sec φ) (h_det : Blind.det φ) (bad : Tbl Nat) (o n : Nat) (s : State) :
    φ (readPairs bad o n s).2 = φ s := by
  unfold readPairs
  repeat' first
    | simp only [memRead_frame h_regs h_seq h_out h_rigs h_memCheck h_ucs h_ropes h_rings h_svcs h_journal h_sec h_det]
    | split
    | refine Eq.trans (memRead_frame_of h_regs h_seq h_out h_rigs h_memCheck h_ucs h_ropes h_rings h_svcs h_journal h_sec h_det ‹_›) ?_
    | dsimp only
    | with_reducible rfl

theorem readPairs_frame_of (h_regs : Blind.regs φ) (h_seq : Blind.seq φ) (h_out : Blind.out φ) (h_rigs : Blind.rigs φ) (h_memCheck : Blind.memCheck φ) (h_ucs : Blind.ucs φ) (h_ropes : Blind.ropes φ) (h_rings : Blind.rings φ) (h_svcs : Blind.svcs φ) (h_journal : Blind.journal φ) (h_sec : Blind.sec φ) (h_det : Blind.det φ) {bad : Tbl Nat} {o : Nat} {n : Nat} {s : State} {t' : State} {x0}
    (h' : readPairs bad o n s = (x0, t')) : φ t' = φ s := by
  rw [← readPairs_frame h_regs h_seq h_out h_rigs h_memCheck h_ucs h_ropes h_rings h_svcs h_journal h_sec h_det bad o n s, h']

theorem readEstate_frame (h_regs : Blind.regs φ) (h_seq : Blind.seq φ) (h_out : Blind.out φ) (h_rigs : Blind.rigs φ) (h_memCheck : Blind.memCheck φ) (h_ucs : Blind.ucs φ) (h_ropes : Blind.ropes φ) (h_rings : Blind.rings φ) (h_svcs : Blind.svcs φ) (h_journal : Blind.journal φ) (h_sec : Blind.sec φ) (h_det : Blind.det φ) (bad : Tbl Nat) (fmt o all i n : Nat) (s : State) :
    φ (readEstate bad fmt o all i n s).2 = φ s := by
  unfold readEstate
  repeat' first
    | simp only [memRead_frame h_regs h_seq h_out h_rigs h_memCheck h_ucs h_ropes h_rings h_svcs h_journal h_sec h_det, readPairs_frame h_regs h_seq h_out h_rigs h_memCheck h_ucs h_ropes h_rings h_svcs h_journal h_sec h_det]
    | split
    | refine Eq.trans (memRead_frame_of h_regs h_seq h_out h_rigs h_memCheck h_ucs h_ropes h_rings h_svcs h_journal h_sec h_det ‹_›) ?_
    | refine Eq.trans (readPairs_frame_of h_regs h_seq h_out h_rigs h_memCheck h_ucs h_ropes h_rings h_svcs h_journal h_sec h_det ‹_›) ?_
    | dsimp only
    | with_reducible rfl

theorem readEstate_frame_of (h_regs : Blind.regs φ) (h_seq : Blind.seq φ) (h_out : Blind.out φ) (h_rigs : Blind.rigs φ) (h_memCheck : Blind.memCheck φ) (h_ucs : Blind.ucs φ) (h_ropes : Blind.ropes φ) (h_rings : Blind.rings φ) (h_svcs : Blind.svcs φ) (h_journal : Blind.journal φ) (h_sec : Blind.sec φ) (h_det : Blind.det φ) {bad : Tbl Nat} {fmt : Nat} {o : Nat} {all : Nat} {i : Nat} {n : Nat} {s : State} {t' : State} {x0}
    (h' : readEstate bad fmt o all i n s = (x0, t')) : φ t' = φ s := by
  rw [← readEstate_frame h_regs h_seq h_out h_rigs h_memCheck h_ucs h_ropes h_rings h_svcs h_journal h_sec h_det bad fmt o all i n s, h']

theorem writeEstate_frame (h_regs : Blind.regs φ) (h_seq : Blind.seq φ) (h_out : Blind.out φ) (h_rigs : Blind.rigs φ) (h_mem : Blind.mem φ) (h_memCheck : Blind.memCheck φ) (h_memEpoch : Blind.memEpoch φ) (h_memKey : Blind.memKey φ) (h_ucs : Blind.ucs φ) (h_ropes : Blind.ropes φ) (h_rings : Blind.rings φ) (h_svcs : Blind.svcs φ) (h_journal : Blind.journal φ) (h_sec : Blind.sec φ) (h_det : Blind.det φ) (bad : Tbl Nat) (fmt o all i rnd : Nat) (key : RngKey) (e : Nat) (v : List Nat) (s : State) :
    φ (writeEstate bad fmt o all i rnd key e v s).2 = φ s := by
  unfold writeEstate
  repeat' first
    | simp only [memWrite_frame h_regs h_seq h_out h_rigs h_mem h_memCheck h_memEpoch h_memKey h_ucs h_ropes h_rings h_svcs h_journal h_sec h_det]
    | split
    | refine Eq.trans (memWrite_frame_of h_regs h_seq h_out h_rigs h_mem h_memCheck h_memEpoch h_memKey h_ucs h_ropes h_rings h_svcs h_journal h_sec h_det ‹_›) ?_
    | dsimp only
    | with_reducible rfl

theorem writeEstate_frame_of (h_regs : Blind.regs φ) (h_seq : Blind.seq φ) (h_out : Blind.out φ) (h_rigs : Blind.rigs φ) (h_mem : Blind.mem φ) (h_memCheck : Blind.memCheck φ) (h_memEpoch : Blind.memEpoch φ) (h_memKey : Blind.memKey φ) (h_ucs : Blind.ucs φ) (h_ropes : Blind.ropes φ) (h_rings : Blind.rings φ) (h_svcs : Blind.svcs φ) (h_journal : Blind.journal φ) (h_sec : Blind.sec φ) (h_det : Blind.det φ) {bad : Tbl Nat} {fmt : Nat} {o : Nat} {all : Nat} {i : Nat} {rnd : Nat} {key : RngKey} {e : Nat} {v : List Nat} {s : State} {t' : State} {x0}
    (h' : writeEstate bad fmt o all i rnd key e v s = (x0, t')) : φ t' = φ s := by
  rw [← writeEstate_frame h_regs h_seq h_out h_rigs h_mem h_memCheck h_memEpoch h_memKey h_ucs h_ropes h_rings h_svcs h_journal h_sec h_det bad fmt o all i rnd key e v s, h']

theorem readAll_frame (fs : List (State → Option (List Nat) × State)) (s : State)
    (hf : ∀ f ∈ fs, ∀ s, φ (f s).2 = φ s) : φ (readAll fs s).2 = φ s := by
  induction fs generalizing s with
  | nil => unfold readAll; rfl
  | cons f r ih =>
    have h0 := hf f (List.mem_cons_self) s
    have h1 := fun s => ih s fun g hg => hf g (List.mem_cons_of_mem _ hg)
    unfold readAll
    rcases e : f s with ⟨_ | l, s1⟩ <;> rw [e] at h0
    · exact h0
    · have h2 := h1 s1
      dsimp only
      rcases e1 : readAll r s1 with ⟨_ | ls, s2⟩ <;> rw [e1] at h2 <;> exact h2.trans h0

theorem writeAll_frame (fs : List (State → Bool × State)) (s : State)
    (hf : ∀ f ∈ fs, ∀ s, φ (f s).2 = φ s) : φ (writeAll fs s).2 = φ s := by
  induction fs generalizing s with
  | nil => unfold writeAll; rfl
  | cons f r ih =>
    have h0 := hf f (List.mem_cons_self) s
    have h1 := fun s => ih s fun g hg => hf g (List.mem_cons_of_mem _ hg)
    unfold writeAll
    rcases e : f s with ⟨_ | _, s1⟩ <;> rw [e] at h0
    · exact h0
    · exact (h1 s1).trans h0

theorem loadGroup_frame (h_regs : Blind.regs φ) (h_seq : Blind.seq φ) (h_out : Blind.out φ) (h_rigs : Blind.rigs φ) (h_memCheck : Blind.memCheck φ) (h_ucs : Blind.ucs φ) (h_ropes : Blind.ropes φ) (h_rings : Blind.rings φ) (h_svcs : Blind.svcs φ) (h_journal : Blind.journal φ) (h_sec : Blind.sec φ) (h_det : Blind.det φ) (bad : Tbl Nat) (g : RingCfg) (a : GroupAt) (half : Nat) (s : State) :
    φ (loadGroup bad g a half s).2 = φ s := by
  unfold loadGroup
  dsimp only
  refine Eq.trans (b := φ (readAll _ s).2) rfl (readAll_frame _ s fun f hf s => ?_)
  · simp only [List.cons_append, List.nil_append, List.mem_cons, List.mem_map] at hf
    rcases hf with rfl | rfl | rfl | rfl | ⟨k, -, rfl⟩
    · exact readPairs_frame h_regs h_seq h_out h_rigs h_memCheck h_ucs h_ropes h_rings h_svcs h_journal h_sec h_det ..
    · exact readPairs_frame h_regs h_seq h_out h_rigs h_memCheck h_ucs h_ropes h_rings h_svcs h_journal h_sec h_det ..
    all_goals
      split
      · first
          | exact readEstate_frame h_regs h_seq h_out h_rigs h_memCheck h_ucs h_ropes h_rings h_svcs h_journal h_sec h_det ..
          | exact readPairs_frame h_regs h_seq h_out h_rigs h_memCheck h_ucs h_ropes h_rings h_svcs h_journal h_sec h_det ..
      · rfl

theorem loadGroup_frame_of (h_regs : Blind.regs φ) (h_seq : Blind.seq φ) (h_out : Blind.out φ) (h_rigs : Blind.rigs φ) (h_memCheck : Blind.memCheck φ) (h_ucs : Blind.ucs φ) (h_ropes : Blind.ropes φ) (h_rings : Blind.rings φ) (h_svcs : Blind.svcs φ) (h_journal : Blind.journal φ) (h_sec : Blind.sec φ) (h_det : Blind.det φ) {bad : Tbl Nat} {g : RingCfg} {a : GroupAt}
    {half : Nat} {s t' : State} {x0} (h' : loadGroup bad g a half s = (x0, t')) : φ t' = φ s := by
  rw [← loadGroup_frame h_regs h_seq h_out h_rigs h_memCheck h_ucs h_ropes h_rings h_svcs h_journal h_sec h_det bad g a half s, h']

theorem storeGroup_frame (h_regs : Blind.regs φ) (h_seq : Blind.seq φ) (h_out : Blind.out φ) (h_rigs : Blind.rigs φ) (h_mem : Blind.mem φ) (h_memCheck : Blind.memCheck φ) (h_memEpoch : Blind.memEpoch φ) (h_memKey : Blind.memKey φ) (h_ucs : Blind.ucs φ) (h_ropes : Blind.ropes φ) (h_rings : Blind.rings φ) (h_svcs : Blind.svcs φ) (h_journal : Blind.journal φ) (h_sec : Blind.sec φ) (h_det : Blind.det φ) (bad : Tbl Nat) (r : Rigging) (a : GroupAt) (half step : Nat) (v : List (List Nat)) (s : State) :
    φ (storeGroup bad r a half step v s).2 = φ s := by
  unfold storeGroup
  refine writeAll_frame _ s fun f hf s => ?_
  simp only [List.cons_append, List.nil_append, List.mem_cons, List.mem_map, List.mem_append, List.not_mem_nil, or_false] at hf
  rcases hf with rfl | ⟨k, -, rfl⟩ | ⟨k, -, rfl⟩
  · exact memWrite_frame h_regs h_seq h_out h_rigs h_mem h_memCheck h_memEpoch h_memKey h_ucs h_ropes h_rings h_svcs h_journal h_sec h_det ..
  · exact writeEstate_frame h_regs h_seq h_out h_rigs h_mem h_memCheck h_memEpoch h_memKey h_ucs h_ropes h_rings h_svcs h_journal h_sec h_det ..
  · exact memWrite_frame h_regs h_seq h_out h_rigs h_mem h_memCheck h_memEpoch h_memKey h_ucs h_ropes h_rings h_svcs h_journal h_sec h_det ..

theorem storeGroup_frame_of (h_regs : Blind.regs φ) (h_seq : Blind.seq φ) (h_out : Blind.out φ) (h_rigs : Blind.rigs φ) (h_mem : Blind.mem φ) (h_memCheck : Blind.memCheck φ) (h_memEpoch : Blind.memEpoch φ) (h_memKey : Blind.memKey φ) (h_ucs : Blind.ucs φ) (h_ropes : Blind.ropes φ) (h_rings : Blind.rings φ) (h_svcs : Blind.svcs φ) (h_journal : Blind.journal φ) (h_sec : Blind.sec φ) (h_det : Blind.det φ) {bad : Tbl Nat} {r : Rigging} {a : GroupAt}
    {half step : Nat} {v : List (List Nat)} {s t' : State} {x0}
    (h' : storeGroup bad r a half step v s = (x0, t')) : φ t' = φ s := by
  rw [← storeGroup_frame h_regs h_seq h_out h_rigs h_mem h_memCheck h_memEpoch h_memKey h_ucs h_ropes h_rings h_svcs h_journal h_sec h_det bad r a half step v s, h']

theorem watchGroup_frame (h_regs : Blind.regs φ) (h_seq : Blind.seq φ) (h_parts : Blind.parts φ) (h_reds : Blind.reds φ) (h_rings : Blind.rings φ) (h_det : Blind.det φ) (p slot : Nat) (a : GroupAt) (lastOfEntry : Bool) (w w' : List Nat) (s : State) :
    φ (watchGroup p slot a lastOfEntry w w' s) = φ s := by
  unfold watchGroup
  repeat' first
    | simp only [bump_frame h_regs, clearFinite_frame h_parts, raise_frame h_regs h_seq h_rings h_det, setPart_frame h_parts, setRed_frame h_reds]
    | split
    | dsimp only
    | with_reducible rfl

theorem beginGather_frame (h_regs : Blind.regs φ) (h_seq : Blind.seq φ) (h_out : Blind.out φ) (h_rigs : Blind.rigs φ) (h_parts : Blind.parts φ) (h_reds : Blind.reds φ) (h_mem : Blind.mem φ) (h_memCheck : Blind.memCheck φ) (h_memEpoch : Blind.memEpoch φ) (h_memKey : Blind.memKey φ) (h_ucs : Blind.ucs φ) (h_ropes : Blind.ropes φ) (h_rings : Blind.rings φ) (h_svcs : Blind.svcs φ) (h_journal : Blind.journal φ) (h_sec : Blind.sec φ) (h_det : Blind.det φ) (bad : Tbl Nat) (p : Nat) (r : Rigging) (g : RingCfg) (bs : List Bucket) (a : GroupAt) (half : Nat) (s : State) :
    φ (beginGather bad p r g bs a half s) = φ s := by
  unfold beginGather
  repeat' first
    | simp only [memRead_frame h_regs h_seq h_out h_rigs h_memCheck h_ucs h_ropes h_rings h_svcs h_journal h_sec h_det, setRed_frame h_reds, writeGather_frame h_regs h_seq h_out h_rigs h_parts h_reds h_mem h_memCheck h_memEpoch h_memKey h_ucs h_ropes h_rings h_svcs h_journal h_sec h_det]
    | with_reducible refine Eq.trans (foldl_frame (fun _ _ => ?_) _ _) ?_
    | split
    | refine Eq.trans (memRead_frame_of h_regs h_seq h_out h_rigs h_memCheck h_ucs h_ropes h_rings h_svcs h_journal h_sec h_det ‹_›) ?_
    | refine Eq.trans (writeGather_frame_of h_regs h_seq h_out h_rigs h_parts h_reds h_mem h_memCheck h_memEpoch h_memKey h_ucs h_ropes h_rings h_svcs h_journal h_sec h_det ‹_›) ?_
    | dsimp only
    | with_reducible rfl

theorem groupStored_frame (h_regs : Blind.regs φ) (h_seq : Blind.seq φ) (h_out : Blind.out φ) (h_rigs : Blind.rigs φ) (h_parts : Blind.parts φ) (h_reds : Blind.reds φ) (h_mem : Blind.mem φ) (h_memCheck : Blind.memCheck φ) (h_memEpoch : Blind.memEpoch φ) (h_memKey : Blind.memKey φ) (h_ucs : Blind.ucs φ) (h_ropes : Blind.ropes φ) (h_rings : Blind.rings φ) (h_svcs : Blind.svcs φ) (h_journal : Blind.journal φ) (h_sec : Blind.sec φ) (h_det : Blind.det φ) (p slot : Nat) (r : Rigging) (g : RingCfg) (bs : List Bucket) (a : GroupAt) (c : Nat) (v v1 : List (List Nat)) (bad : Tbl Nat) (s : State) :
    φ (groupStored p slot r g bs a c v v1 bad s) = φ s := by
  unfold groupStored
  repeat' first
    | simp only [beginGather_frame h_regs h_seq h_out h_rigs h_parts h_reds h_mem h_memCheck h_memEpoch h_memKey h_ucs h_ropes h_rings h_svcs h_journal h_sec h_det, clearFinite_frame h_parts, setRed_frame h_reds, watchGroup_frame h_regs h_seq h_parts h_reds h_rings h_det]
    | split
    | dsimp only
    | with_reducible rfl

theorem updateGroup_frame (h_regs : Blind.regs φ) (h_seq : Blind.seq φ) (h_out : Blind.out φ) (h_rigs : Blind.rigs φ) (h_parts : Blind.parts φ) (h_reds : Blind.reds φ) (h_mem : Blind.mem φ) (h_memCheck : Blind.memCheck φ) (h_memEpoch : Blind.memEpoch φ) (h_memKey : Blind.memKey φ) (h_ucs : Blind.ucs φ) (h_ropes : Blind.ropes φ) (h_rings : Blind.rings φ) (h_svcs : Blind.svcs φ) (h_journal : Blind.journal φ) (h_sec : Blind.sec φ) (h_det : Blind.det φ) (p slot : Nat) (r : Rigging) (g : RingCfg) (bs : List Bucket) (a : GroupAt) (c : Nat) (v : List (List Nat)) (bad : Tbl Nat) (s : State) :
    φ (updateGroup p slot r g bs a c v bad s) = φ s := by
  unfold updateGroup
  repeat' first
    | simp -zeta only [bump_frame h_regs, groupStored_frame h_regs h_seq h_out h_rigs h_parts h_reds h_mem h_memCheck h_memEpoch h_memKey h_ucs h_ropes h_rings h_svcs h_journal h_sec h_det, holdRegs_frame h_ucs, storeGroup_frame h_regs h_seq h_out h_rigs h_mem h_memCheck h_memEpoch h_memKey h_ucs h_ropes h_rings h_svcs h_journal h_sec h_det]
    | split
    | refine Eq.trans (storeGroup_frame_of h_regs h_seq h_out h_rigs h_mem h_memCheck h_memEpoch h_memKey h_ucs h_ropes h_rings h_svcs h_journal h_sec h_det ‹_›) ?_
    | extract_lets
    | simp +zetaDelta only [bump_frame h_regs, groupStored_frame h_regs h_seq h_out h_rigs h_parts h_reds h_mem h_memCheck h_memEpoch h_memKey h_ucs h_ropes h_rings h_svcs h_journal h_sec h_det, holdRegs_frame h_ucs, storeGroup_frame h_regs h_seq h_out h_rigs h_mem h_memCheck h_memEpoch h_memKey h_ucs h_ropes h_rings h_svcs h_journal h_sec h_det]
    | with_reducible rfl

theorem loadAndUpdate_frame (h_regs : Blind.regs φ) (h_seq : Blind.seq φ) (h_out : Blind.out φ) (h_rigs : Blind.rigs φ) (h_parts : Blind.parts φ) (h_reds : Blind.reds φ) (h_mem : Blind.mem φ) (h_memCheck : Blind.memCheck φ) (h_memEpoch : Blind.memEpoch φ) (h_memKey : Blind.memKey φ) (h_ucs : Blind.ucs φ) (h_ropes : Blind.ropes φ) (h_rings : Blind.rings φ) (h_svcs : Blind.svcs φ) (h_journal : Blind.journal φ) (h_sec : Blind.sec φ) (h_det : Blind.det φ) (p slot : Nat) (r : Rigging) (g : RingCfg) (bs : List Bucket) (bad : Tbl Nat) (s : State) :
    φ (loadAndUpdate p slot r g bs bad s) = φ s := by
  unfold loadAndUpdate
  repeat' first
    | simp only [loadGroup_frame h_regs h_seq h_out h_rigs h_memCheck h_ucs h_ropes h_rings h_svcs h_journal h_sec h_det, updateGroup_frame h_regs h_seq h_out h_rigs h_parts h_reds h_mem h_memCheck h_memEpoch h_memKey h_ucs h_ropes h_rings h_svcs h_journal h_sec h_det]
    | split
    | refine Eq.trans (loadGroup_frame_of h_regs h_seq h_out h_rigs h_memCheck h_ucs h_ropes h_rings h_svcs h_journal h_sec h_det ‹_›) ?_
    | dsimp only
    | with_reducible rfl

theorem setUcReg_frame (h_ucs : Blind.ucs φ) (u r : Nat) (l : List Nat) (s : State) :
    φ (setUcReg u r l s) = φ s := by
  unfold setUcReg
  repeat' first
    | simp only [setUc_frame h_ucs]
    | with_reducible refine Eq.trans (foldl_frame (fun _ _ => ?_) _ _) ?_
    | split
    | dsimp only
    | with_reducible rfl

theorem latchScales_frame (h_regs : Blind.regs φ) (h_parts : Blind.parts φ) (p : Nat) (s : State) :
    φ (latchScales p s) = φ s := by
  unfold latchScales
  repeat' first
    | simp only [set_frame h_regs, setPart_frame h_parts]
    | with_reducible refine Eq.trans (foldl_frame (fun _ _ => ?_) _ _) ?_
    | split
    | dsimp only
    | with_reducible rfl

theorem showSchedules_frame (h_regs : Blind.regs φ) (p u : Nat) (s : State) :
    φ (showSchedules p u s) = φ s := by
  unfold showSchedules
  repeat' first
    | simp only [set_frame h_regs]
    | with_reducible refine Eq.trans (foldl_frame (fun _ _ => ?_) _ _) ?_
    | split
    | dsimp only
    | with_reducible rfl

theorem setScale_frame (h_regs : Blind.regs φ) (p i v : Nat) (s : State) :
    φ (setScale p i v s) = φ s := by
  unfold setScale
  repeat' first
    | simp only [set_frame h_regs]
    | split
    | dsimp only
    | with_reducible rfl

end Sys2Proof.Laws
end

