-- ==== Sys2Proof/Laws/StagesFrame.lean ====
section
/-!
SUPPORT. Frames of the operations of Sys2Proof/Machine/Stages.lean: what none of them writes stays as it was.
-/
namespace Sys2Proof.Laws
open Machine Machine.State

set_option linter.unusedSimpArgs false
set_option linter.unusedTactic false
set_option linter.unreachableTactic false
set_option linter.unusedVariables false

variable {α : Type} {φ : State → α}

theorem seqWait_frame (h_stages : Blind.stages φ) (slot cause : Nat) (s : State) :
    φ (seqWait slot cause s) = φ s := by
  unfold seqWait
  repeat' first
    | simp only [setStage_frame h_stages]
    | split
    | dsimp only
    | with_reducible rfl

theorem startForward_frame (h_regs : Blind.regs φ) (h_power : Blind.power φ) (h_treads : Blind.treads φ) (h_flights : Blind.flights φ) (h_stages : Blind.stages φ) (h_ctxs : Blind.ctxs φ) (p : Nat) (r : Rigging) (t : StageCfg) (c : Nat) (e : Option Entry) (s : State) :
    φ (startForward p r t c e s) = φ s := by
  unfold startForward
  repeat' first
    | simp only [clearStage_frame h_treads h_flights, setCtx_frame h_ctxs, setStage_frame h_stages, showStart_frame h_regs, startTreads_frame h_power h_treads]
    | split
    | dsimp only
    | with_reducible rfl

theorem clearDkv_frame (h_regs : Blind.regs φ) (h_seq : Blind.seq φ) (h_out : Blind.out φ) (h_rigs : Blind.rigs φ) (h_treads : Blind.treads φ) (h_flights : Blind.flights φ) (h_stages : Blind.stages φ) (h_ctxs : Blind.ctxs φ) (h_landings : Blind.landings φ) (h_mem : Blind.mem φ) (h_memCheck : Blind.memCheck φ) (h_memEpoch : Blind.memEpoch φ) (h_memKey : Blind.memKey φ) (h_ucs : Blind.ucs φ) (h_ropes : Blind.ropes φ) (h_rings : Blind.rings φ) (h_svcs : Blind.svcs φ) (h_journal : Blind.journal φ) (h_sec : Blind.sec φ) (h_det : Blind.det φ) (p : Nat) (r : Rigging) (slot c : Nat) (s : State) :
    φ (clearDkv p r slot c s) = φ s := by
  unfold clearDkv
  repeat' first
    | simp only [seqAccess_frame h_regs h_out h_rigs h_stages h_ropes h_svcs, writeParts_frame h_regs h_seq h_out h_rigs h_treads h_flights h_ctxs h_landings h_mem h_memCheck h_memEpoch h_memKey h_ucs h_ropes h_rings h_svcs h_journal h_sec h_det]
    | split
    | refine Eq.trans (writeParts_frame_of h_regs h_seq h_out h_rigs h_treads h_flights h_ctxs h_landings h_mem h_memCheck h_memEpoch h_memKey h_ucs h_ropes h_rings h_svcs h_journal h_sec h_det ‹_›) ?_
    | dsimp only
    | with_reducible rfl

theorem startBackward_frame (h_regs : Blind.regs φ) (h_seq : Blind.seq φ) (h_out : Blind.out φ) (h_power : Blind.power φ) (h_rigs : Blind.rigs φ) (h_treads : Blind.treads φ) (h_flights : Blind.flights φ) (h_stages : Blind.stages φ) (h_ctxs : Blind.ctxs φ) (h_landings : Blind.landings φ) (h_reds : Blind.reds φ) (h_mem : Blind.mem φ) (h_memCheck : Blind.memCheck φ) (h_memEpoch : Blind.memEpoch φ) (h_memKey : Blind.memKey φ) (h_ucs : Blind.ucs φ) (h_ropes : Blind.ropes φ) (h_rings : Blind.rings φ) (h_svcs : Blind.svcs φ) (h_journal : Blind.journal φ) (h_sec : Blind.sec φ) (h_det : Blind.det φ) (p : Nat) (r : Rigging) (t : StageCfg) (c : Nat) (e : Option Entry) (s : State) :
    φ (startBackward p r t c e s) = φ s := by
  unfold startBackward
  repeat' first
    | simp only [bump_frame h_regs, clearDkv_frame h_regs h_seq h_out h_rigs h_treads h_flights h_stages h_ctxs h_landings h_mem h_memCheck h_memEpoch h_memKey h_ucs h_ropes h_rings h_svcs h_journal h_sec h_det, setCtx_frame h_ctxs, setRed_frame h_reds, setStage_frame h_stages, showStart_frame h_regs, startTreads_frame h_power h_treads]
    | split
    | dsimp only
    | with_reducible rfl

theorem backwardOf_frame (h_regs : Blind.regs φ) (h_seq : Blind.seq φ) (h_out : Blind.out φ) (h_power : Blind.power φ) (h_rigs : Blind.rigs φ) (h_treads : Blind.treads φ) (h_flights : Blind.flights φ) (h_stages : Blind.stages φ) (h_ctxs : Blind.ctxs φ) (h_landings : Blind.landings φ) (h_reds : Blind.reds φ) (h_mem : Blind.mem φ) (h_memCheck : Blind.memCheck φ) (h_memEpoch : Blind.memEpoch φ) (h_memKey : Blind.memKey φ) (h_ucs : Blind.ucs φ) (h_ropes : Blind.ropes φ) (h_rings : Blind.rings φ) (h_svcs : Blind.svcs φ) (h_journal : Blind.journal φ) (h_sec : Blind.sec φ) (h_det : Blind.det φ) (p slot c : Nat) (r : Rigging) (t : StageCfg) (s : State) :
    φ (backwardOf p slot c r t s) = φ s := by
  unfold backwardOf
  repeat' first
    | simp only [seqWait_frame h_stages, startBackward_frame h_regs h_seq h_out h_power h_rigs h_treads h_flights h_stages h_ctxs h_landings h_reds h_mem h_memCheck h_memEpoch h_memKey h_ucs h_ropes h_rings h_svcs h_journal h_sec h_det]
    | refine Eq.trans (takeEntry_frame h_regs h_seq h_out h_rigs h_stages h_landings h_ropes h_rings h_svcs h_det _ _ _ _ _ _ _ _ _ _ (fun _ _ => ?_)) ?_
    | split
    | dsimp only
    | with_reducible rfl

theorem endProgram_frame (h_stages : Blind.stages φ) (slot : Nat) (s : State) :
    φ (endProgram slot s) = φ s := by
  unfold endProgram
  repeat' first
    | simp only [setStage_frame h_stages]
    | split
    | dsimp only
    | with_reducible rfl

theorem endPass_frame (h_out : Blind.out φ) (h_stages : Blind.stages φ) (h_ctxs : Blind.ctxs φ) (h_landings : Blind.landings φ) (h_parts : Blind.parts φ) (h_ropes : Blind.ropes φ) (r : Rigging) (t : StageCfg) (k : Cut) (s : State) :
    φ (endPass r t k s) = φ s := by
  unfold endPass
  repeat' first
    | simp only [retireEntry_frame h_out h_stages h_ctxs h_landings h_parts h_ropes, setStage_frame h_stages]
    | split
    | dsimp only
    | with_reducible rfl

theorem beginPass_frame (h_regs : Blind.regs φ) (h_seq : Blind.seq φ) (h_out : Blind.out φ) (h_rigs : Blind.rigs φ) (h_stages : Blind.stages φ) (h_landings : Blind.landings φ) (h_ropes : Blind.ropes φ) (h_rings : Blind.rings φ) (h_svcs : Blind.svcs φ) (h_det : Blind.det φ) (p : Nat) (t : StageCfg) (k : Cut) (q : Prog) (s : State) :
    φ (beginPass p t k q s) = φ s := by
  unfold beginPass
  repeat' first
    | simp only [seqWait_frame h_stages, setStage_frame h_stages]
    | refine Eq.trans (takeEntry_frame h_regs h_seq h_out h_rigs h_stages h_landings h_ropes h_rings h_svcs h_det _ _ _ _ _ _ _ _ _ _ (fun _ _ => ?_)) ?_
    | split
    | dsimp only
    | with_reducible rfl

theorem returnBanks_frame (h_treads : Blind.treads φ) (h_flights : Blind.flights φ) (slot : Nat) (s : State) :
    φ (returnBanks slot s) = φ s := by
  unfold returnBanks
  repeat' first
    | simp only [setFlight_frame h_flights, setTread_frame h_treads]
    | with_reducible refine Eq.trans (foldl_frame (fun _ _ => ?_) _ _) ?_
    | split
    | dsimp only
    | with_reducible rfl

theorem endBackward_frame (h_stages : Blind.stages φ) (h_ctxs : Blind.ctxs φ) (h_parts : Blind.parts φ) (c : Nat) (s : State) :
    φ (endBackward c s) = φ s := by
  unfold endBackward
  repeat' first
    | simp only [freeCtx_frame h_stages h_ctxs h_parts, setCtx_frame h_ctxs]
    | split
    | dsimp only
    | with_reducible rfl

theorem setLandLimit_frame (h_out : Blind.out φ) (h_landings : Blind.landings φ) (h_ropes : Blind.ropes φ) (n v : Nat) (s : State) :
    φ (setLandLimit n v s) = φ s := by
  unfold setLandLimit
  repeat' first
    | simp only [sendCredit_frame h_out h_ropes, setLanding_frame h_landings]
    | split
    | dsimp only
    | with_reducible rfl

end Sys2Proof.Laws
end

