-- ==== Sys2Proof/Laws/UcOpsFrame.lean ====
section
/-!
SUPPORT. Frames of the operations of Sys2Proof/Machine/UcOps.lean: what none of them writes stays as it was.
-/
namespace Sys2Proof.Laws
open Machine Machine.State

set_option linter.unusedSimpArgs false
set_option linter.unusedTactic false
set_option linter.unreachableTactic false
set_option linter.unusedVariables false

variable {α : Type} {φ : State → α}

theorem setUcQuota_frame (h_regs : Blind.regs φ) (u p v : Nat) (s : State) :
    φ (setUcQuota u p v s) = φ s := by
  unfold setUcQuota
  repeat' first
    | simp only [set_frame h_regs]
    | split
    | dsimp only
    | with_reducible rfl

theorem ucPush_frame (h_regs : Blind.regs φ) (h_seq : Blind.seq φ) (h_ucs : Blind.ucs φ) (h_rings : Blind.rings φ) (h_det : Blind.det φ) (u : Nat) (conv : Bool) (p : Nat) (d : List Nat) (s : State) :
    φ (ucPush u conv p d s) = φ s := by
  unfold ucPush
  repeat' first
    | simp only [raise_frame h_regs h_seq h_rings h_det, setUc_frame h_ucs]
    | split
    | dsimp only
    | with_reducible rfl

theorem ucWindow_frame (h_regs : Blind.regs φ) (h_seq : Blind.seq φ) (h_ucs : Blind.ucs φ) (h_rings : Blind.rings φ) (h_det : Blind.det φ) (u : Nat) (conv : Bool) (p w v : Nat) (s : State) :
    φ (ucWindow u conv p w v s) = φ s := by
  unfold ucWindow
  repeat' first
    | simp only [setUc_frame h_ucs, ucPush_frame h_regs h_seq h_ucs h_rings h_det]
    | split
    | dsimp only
    | with_reducible rfl

theorem setSparse_frame (h_sparse : Blind.sparse φ) (x : Sparse) (s : State) :
    φ (setSparse x s) = φ s := by
  unfold setSparse
  repeat' first
    | simp only [h_sparse.eq]
    | split
    | dsimp only
    | with_reducible rfl

theorem dropSparse_frame (h_sparse : Blind.sparse φ) (p table step : Nat) (s : State) :
    φ (dropSparse p table step s) = φ s := by
  unfold dropSparse
  repeat' first
    | simp only [h_sparse.eq]
    | split
    | dsimp only
    | with_reducible rfl

theorem restoreSlot_frame (h_regs : Blind.regs φ) (h_seq : Blind.seq φ) (h_out : Blind.out φ) (h_rigs : Blind.rigs φ) (h_mem : Blind.mem φ) (h_memCheck : Blind.memCheck φ) (h_memEpoch : Blind.memEpoch φ) (h_memKey : Blind.memKey φ) (h_ucs : Blind.ucs φ) (h_ropes : Blind.ropes φ) (h_rings : Blind.rings φ) (h_svcs : Blind.svcs φ) (h_journal : Blind.journal φ) (h_sec : Blind.sec φ) (h_det : Blind.det φ) (r : Rigging) (o : Nat) (h : TblHdr) (x : Undo) (s : State) :
    φ (restoreSlot r o h x s) = φ s := by
  unfold restoreSlot
  repeat' first
    | simp only [memWrite_frame h_regs h_seq h_out h_rigs h_mem h_memCheck h_memEpoch h_memKey h_ucs h_ropes h_rings h_svcs h_journal h_sec h_det]
    | with_reducible refine Eq.trans (foldl_frame (fun _ _ => ?_) _ _) ?_
    | split
    | refine Eq.trans (memWrite_frame_of h_regs h_seq h_out h_rigs h_mem h_memCheck h_memEpoch h_memKey h_ucs h_ropes h_rings h_svcs h_journal h_sec h_det ‹_›) ?_
    | dsimp only
    | with_reducible rfl

theorem restoreSparse_frame (h_regs : Blind.regs φ) (h_seq : Blind.seq φ) (h_out : Blind.out φ) (h_rigs : Blind.rigs φ) (h_mem : Blind.mem φ) (h_memCheck : Blind.memCheck φ) (h_memEpoch : Blind.memEpoch φ) (h_memKey : Blind.memKey φ) (h_ucs : Blind.ucs φ) (h_sparse : Blind.sparse φ) (h_ropes : Blind.ropes φ) (h_rings : Blind.rings φ) (h_svcs : Blind.svcs φ) (h_journal : Blind.journal φ) (h_sec : Blind.sec φ) (h_det : Blind.det φ) (x : Sparse) (s : State) :
    φ (restoreSparse x s) = φ s := by
  unfold restoreSparse
  repeat' first
    | simp only [dropSparse_frame h_sparse, restoreSlot_frame h_regs h_seq h_out h_rigs h_mem h_memCheck h_memEpoch h_memKey h_ucs h_ropes h_rings h_svcs h_journal h_sec h_det]
    | with_reducible refine Eq.trans (foldl_frame (fun _ _ => ?_) _ _) ?_
    | split
    | dsimp only
    | with_reducible rfl

theorem undoStep_frame (h_regs : Blind.regs φ) (h_seq : Blind.seq φ) (h_out : Blind.out φ) (h_rigs : Blind.rigs φ) (h_mem : Blind.mem φ) (h_memCheck : Blind.memCheck φ) (h_memEpoch : Blind.memEpoch φ) (h_memKey : Blind.memKey φ) (h_ucs : Blind.ucs φ) (h_sparse : Blind.sparse φ) (h_ropes : Blind.ropes φ) (h_rings : Blind.rings φ) (h_svcs : Blind.svcs φ) (h_journal : Blind.journal φ) (h_sec : Blind.sec φ) (h_det : Blind.det φ) (p step : Nat) (s : State) :
    φ (undoStep p step s) = φ s := by
  unfold undoStep
  repeat' first
    | simp only [restoreSparse_frame h_regs h_seq h_out h_rigs h_mem h_memCheck h_memEpoch h_memKey h_ucs h_sparse h_ropes h_rings h_svcs h_journal h_sec h_det]
    | with_reducible refine Eq.trans (foldl_frame (fun _ _ => ?_) _ _) ?_
    | split
    | dsimp only
    | with_reducible rfl

theorem clearCounts_frame (h_regs : Blind.regs φ) (h_seq : Blind.seq φ) (h_out : Blind.out φ) (h_rigs : Blind.rigs φ) (h_mem : Blind.mem φ) (h_memCheck : Blind.memCheck φ) (h_memEpoch : Blind.memEpoch φ) (h_memKey : Blind.memKey φ) (h_ucs : Blind.ucs φ) (h_ropes : Blind.ropes φ) (h_rings : Blind.rings φ) (h_svcs : Blind.svcs φ) (h_journal : Blind.journal φ) (h_sec : Blind.sec φ) (h_det : Blind.det φ) (p : Nat) (s : State) :
    φ (clearCounts p s) = φ s := by
  unfold clearCounts
  repeat' first
    | simp only [memWrite_frame h_regs h_seq h_out h_rigs h_mem h_memCheck h_memEpoch h_memKey h_ucs h_ropes h_rings h_svcs h_journal h_sec h_det]
    | with_reducible refine Eq.trans (foldl_frame (fun _ _ => ?_) _ _) ?_
    | split
    | refine Eq.trans (memWrite_frame_of h_regs h_seq h_out h_rigs h_mem h_memCheck h_memEpoch h_memKey h_ucs h_ropes h_rings h_svcs h_journal h_sec h_det ‹_›) ?_
    | dsimp only
    | with_reducible rfl

theorem clearUcQueues_frame (h_regs : Blind.regs φ) (h_ucs : Blind.ucs φ) (p : Nat) (s : State) :
    φ (clearUcQueues p s) = φ s := by
  unfold clearUcQueues
  repeat' first
    | simp only [set_frame h_regs, setUc_frame h_ucs]
    | with_reducible refine Eq.trans (foldl_frame (fun _ _ => ?_) _ _) ?_
    | split
    | dsimp only
    | with_reducible rfl

end Sys2Proof.Laws
end

