-- ==== Sys2Proof/Laws/ControlSpaceFrame.lean ====
section
/-!
SUPPORT. Frames of the operations of Sys2Proof/Machine/ControlSpace.lean: what none of them writes stays as it was.
-/
namespace Sys2Proof.Laws
open Machine Machine.State

set_option linter.unusedSimpArgs false
set_option linter.unusedTactic false
set_option linter.unreachableTactic false
set_option linter.unusedVariables false

variable {α : Type} {φ : State → α}

theorem ctlWord_frame (h_regs : Blind.regs φ) (h_seq : Blind.seq φ) (h_out : Blind.out φ) (h_rigs : Blind.rigs φ) (h_treads : Blind.treads φ) (h_chans : Blind.chans φ) (h_flights : Blind.flights φ) (h_stages : Blind.stages φ) (h_landings : Blind.landings φ) (h_ucs : Blind.ucs φ) (h_ropes : Blind.ropes φ) (h_rings : Blind.rings φ) (h_svcs : Blind.svcs φ) (h_journal : Blind.journal φ) (h_det : Blind.det φ) (p off v : Nat) (s : State) :
    φ (ctlWord p off v s) = φ s := by
  unfold ctlWord
  repeat' first
    | simp only [clearW1c_frame h_regs, noteBlocked_frame h_regs h_seq h_stages h_rings h_det, set_frame h_regs, setChanLimit_frame h_regs h_seq h_out h_rigs h_treads h_chans h_ropes h_rings h_svcs h_det, setLandLimit_frame h_out h_landings h_ropes, setScale_frame h_regs, setUcQuota_frame h_regs, ucWindow_frame h_regs h_seq h_ucs h_rings h_det, writePush_frame h_regs h_seq h_flights h_rings h_det, writeReg_frame h_regs h_journal h_det]
    | refine Eq.trans (withStage_frame _ _ _ (fun _ _ _ _ => ?_)) ?_
    | split
    | dsimp only
    | with_reducible rfl

theorem ctlWrite_frame (h_regs : Blind.regs φ) (h_seq : Blind.seq φ) (h_out : Blind.out φ) (h_rigs : Blind.rigs φ) (h_treads : Blind.treads φ) (h_chans : Blind.chans φ) (h_flights : Blind.flights φ) (h_stages : Blind.stages φ) (h_landings : Blind.landings φ) (h_ucs : Blind.ucs φ) (h_ropes : Blind.ropes φ) (h_rings : Blind.rings φ) (h_svcs : Blind.svcs φ) (h_journal : Blind.journal φ) (h_det : Blind.det φ) (p off n v : Nat) (s : State) :
    φ (ctlWrite p off n v s) = φ s := by
  unfold ctlWrite
  repeat' first
    | simp only [ctlWord_frame h_regs h_seq h_out h_rigs h_treads h_chans h_flights h_stages h_landings h_ucs h_ropes h_rings h_svcs h_journal h_det]
    | split
    | dsimp only
    | with_reducible rfl

theorem fabAccess_frame (h_regs : Blind.regs φ) (h_seq : Blind.seq φ) (h_out : Blind.out φ) (h_hiLatch : Blind.hiLatch φ) (h_commitLatch : Blind.commitLatch φ) (h_rigs : Blind.rigs φ) (h_treads : Blind.treads φ) (h_chans : Blind.chans φ) (h_flights : Blind.flights φ) (h_stages : Blind.stages φ) (h_ctxs : Blind.ctxs φ) (h_landings : Blind.landings φ) (h_mem : Blind.mem φ) (h_memCheck : Blind.memCheck φ) (h_memEpoch : Blind.memEpoch φ) (h_memKey : Blind.memKey φ) (h_ucs : Blind.ucs φ) (h_ropes : Blind.ropes φ) (h_fabric : Blind.fabric φ) (h_rings : Blind.rings φ) (h_svcs : Blind.svcs φ) (h_journal : Blind.journal φ) (h_sec : Blind.sec φ) (h_det : Blind.det φ) (bad : Tbl Nat) (r : FabReq) (s : State) :
    φ (fabAccess bad r s) = φ s := by
  unfold fabAccess
  repeat' first
    | simp only [ctlWrite_frame h_regs h_seq h_out h_rigs h_treads h_chans h_flights h_stages h_landings h_ucs h_ropes h_rings h_svcs h_journal h_det, fabError_frame h_regs h_seq h_rings h_det, fabReply_frame h_regs h_seq h_out h_ropes h_rings h_journal h_sec h_det, fabServe_frame h_regs h_seq h_out h_rigs h_treads h_flights h_ctxs h_landings h_mem h_memCheck h_memEpoch h_memKey h_ucs h_ropes h_rings h_svcs h_journal h_sec h_det, readReg_frame h_regs h_seq h_hiLatch h_commitLatch h_rings h_journal h_sec h_det, h_fabric.eq]
    | split
    | refine Eq.trans (readReg_frame_of h_regs h_seq h_hiLatch h_commitLatch h_rings h_journal h_sec h_det ‹_›) ?_
    | dsimp only
    | with_reducible rfl

theorem issueRemote_frame (h_regs : Blind.regs φ) (h_seq : Blind.seq φ) (h_out : Blind.out φ) (h_ropes : Blind.ropes φ) (h_fabric : Blind.fabric φ) (h_rings : Blind.rings φ) (h_journal : Blind.journal φ) (h_sec : Blind.sec φ) (h_det : Blind.det φ) (r : FabReq) (s : State) :
    φ (issueRemote r s) = φ s := by
  unfold issueRemote
  repeat' first
    | simp only [fabError_frame h_regs h_seq h_rings h_det, fabReply_frame h_regs h_seq h_out h_ropes h_rings h_journal h_sec h_det, keepRoute_frame h_fabric, sendFabric_frame h_out h_ropes, h_fabric.eq]
    | split
    | dsimp only
    | with_reducible rfl

theorem peerAccess_frame (h_regs : Blind.regs φ) (h_seq : Blind.seq φ) (h_out : Blind.out φ) (h_hiLatch : Blind.hiLatch φ) (h_commitLatch : Blind.commitLatch φ) (h_rigs : Blind.rigs φ) (h_treads : Blind.treads φ) (h_chans : Blind.chans φ) (h_flights : Blind.flights φ) (h_stages : Blind.stages φ) (h_ctxs : Blind.ctxs φ) (h_landings : Blind.landings φ) (h_mem : Blind.mem φ) (h_memCheck : Blind.memCheck φ) (h_memEpoch : Blind.memEpoch φ) (h_memKey : Blind.memKey φ) (h_ucs : Blind.ucs φ) (h_ropes : Blind.ropes φ) (h_fabric : Blind.fabric φ) (h_rings : Blind.rings φ) (h_svcs : Blind.svcs φ) (h_journal : Blind.journal φ) (h_sec : Blind.sec φ) (h_det : Blind.det φ) (k v tag job : Nat) (bad : Tbl Nat) (r : FabReq) (s : State) :
    φ (peerAccess k v tag job bad r s) = φ s := by
  unfold peerAccess
  repeat' first
    | simp only [fabAccess_frame h_regs h_seq h_out h_hiLatch h_commitLatch h_rigs h_treads h_chans h_flights h_stages h_ctxs h_landings h_mem h_memCheck h_memEpoch h_memKey h_ucs h_ropes h_fabric h_rings h_svcs h_journal h_sec h_det, fabReply_frame h_regs h_seq h_out h_ropes h_rings h_journal h_sec h_det, tookMsg_frame h_ropes]
    | split
    | dsimp only
    | with_reducible rfl

theorem fabLocal_frame (h_regs : Blind.regs φ) (h_seq : Blind.seq φ) (h_out : Blind.out φ) (h_hiLatch : Blind.hiLatch φ) (h_commitLatch : Blind.commitLatch φ) (h_rigs : Blind.rigs φ) (h_treads : Blind.treads φ) (h_chans : Blind.chans φ) (h_flights : Blind.flights φ) (h_stages : Blind.stages φ) (h_ctxs : Blind.ctxs φ) (h_landings : Blind.landings φ) (h_mem : Blind.mem φ) (h_memCheck : Blind.memCheck φ) (h_memEpoch : Blind.memEpoch φ) (h_memKey : Blind.memKey φ) (h_ucs : Blind.ucs φ) (h_ropes : Blind.ropes φ) (h_fabric : Blind.fabric φ) (h_rings : Blind.rings φ) (h_svcs : Blind.svcs φ) (h_journal : Blind.journal φ) (h_sec : Blind.sec φ) (h_det : Blind.det φ) (r : FabReq) (bad : Tbl Nat) (s : State) :
    φ (fabLocal r bad s) = φ s := by
  unfold fabLocal
  repeat' first
    | simp only [fabAccess_frame h_regs h_seq h_out h_hiLatch h_commitLatch h_rigs h_treads h_chans h_flights h_stages h_ctxs h_landings h_mem h_memCheck h_memEpoch h_memKey h_ucs h_ropes h_fabric h_rings h_svcs h_journal h_sec h_det, issueRemote_frame h_regs h_seq h_out h_ropes h_fabric h_rings h_journal h_sec h_det, peerAccess_frame h_regs h_seq h_out h_hiLatch h_commitLatch h_rigs h_treads h_chans h_flights h_stages h_ctxs h_landings h_mem h_memCheck h_memEpoch h_memKey h_ucs h_ropes h_fabric h_rings h_svcs h_journal h_sec h_det]
    | split
    | dsimp only
    | with_reducible rfl

end Sys2Proof.Laws
end

