-- ==== Sys2Proof/Laws/MsgOpsFrame.lean ====
section
/-!
SUPPORT. Frames of the operations of Sys2Proof/Machine/MsgOps.lean: what none of them writes stays as it was.
-/
namespace Sys2Proof.Laws
open Machine Machine.State

set_option linter.unusedSimpArgs false
set_option linter.unusedTactic false
set_option linter.unreachableTactic false
set_option linter.unusedVariables false

variable {α : Type} {φ : State → α}

theorem peerMismatch_frame (h_regs : Blind.regs φ) (h_seq : Blind.seq φ) (h_out : Blind.out φ) (h_rigs : Blind.rigs φ) (h_ropes : Blind.ropes φ) (h_rings : Blind.rings φ) (h_svcs : Blind.svcs φ) (h_det : Blind.det φ) (k v : Nat) (m : List Byte) (s : State) :
    φ (peerMismatch k v m s) = φ s := by
  unfold peerMismatch
  repeat' first
    | simp only [programFault_frame h_regs h_out h_rigs h_ropes h_svcs, raise_frame h_regs h_seq h_rings h_det, setVchan_frame h_ropes, tookMsg_frame h_ropes]
    | split
    | dsimp only
    | with_reducible rfl

end Sys2Proof.Laws
end

