-- ==== Sys2Proof/Laws/ControlSpaceKeep.lean ====
section
/-!
SUPPORT. Frames of the commands of Sys2Proof/Machine/ControlSpace.lean: what a command does not write stays as it was.
-/
namespace Sys2Proof.Laws
open Machine Machine.State

set_option linter.unusedSimpArgs false
set_option linter.unusedTactic false
set_option linter.unreachableTactic false
set_option linter.unusedVariables false

variable {α : Type} {φ : State → α}

theorem execFabricRead_frame (h_regs : Blind.regs φ) (h_seq : Blind.seq φ) (h_pending : Blind.pending φ) (h_out : Blind.out φ) (h_hiLatch : Blind.hiLatch φ) (h_commitLatch : Blind.commitLatch φ) (h_rigs : Blind.rigs φ) (h_treads : Blind.treads φ) (h_chans : Blind.chans φ) (h_flights : Blind.flights φ) (h_stages : Blind.stages φ) (h_ctxs : Blind.ctxs φ) (h_landings : Blind.landings φ) (h_mem : Blind.mem φ) (h_memCheck : Blind.memCheck φ) (h_memEpoch : Blind.memEpoch φ) (h_memKey : Blind.memKey φ) (h_ucs : Blind.ucs φ) (h_ropes : Blind.ropes φ) (h_fabric : Blind.fabric φ) (h_rings : Blind.rings φ) (h_svcs : Blind.svcs φ) (h_journal : Blind.journal φ) (h_sec : Blind.sec φ) (h_det : Blind.det φ) (agent : Agent) (addr : W64) (size : Nat) (bad : List (Nat × Nat)) (s : State) (t' : State)
    (h : execFabricRead agent addr size bad s = .next t') : φ t' = φ s := by
  unfold execFabricRead at h
  refine perform_frame h_out h_pending h (fun s => ?_)
  repeat' first
    | simp only [fabLocal_frame h_regs h_seq h_out h_hiLatch h_commitLatch h_rigs h_treads h_chans h_flights h_stages h_ctxs h_landings h_mem h_memCheck h_memEpoch h_memKey h_ucs h_ropes h_fabric h_rings h_svcs h_journal h_sec h_det]
    | split
    | dsimp only
    | with_reducible rfl

theorem execFabricWrite_frame (h_regs : Blind.regs φ) (h_seq : Blind.seq φ) (h_pending : Blind.pending φ) (h_out : Blind.out φ) (h_hiLatch : Blind.hiLatch φ) (h_commitLatch : Blind.commitLatch φ) (h_rigs : Blind.rigs φ) (h_treads : Blind.treads φ) (h_chans : Blind.chans φ) (h_flights : Blind.flights φ) (h_stages : Blind.stages φ) (h_ctxs : Blind.ctxs φ) (h_landings : Blind.landings φ) (h_mem : Blind.mem φ) (h_memCheck : Blind.memCheck φ) (h_memEpoch : Blind.memEpoch φ) (h_memKey : Blind.memKey φ) (h_ucs : Blind.ucs φ) (h_ropes : Blind.ropes φ) (h_fabric : Blind.fabric φ) (h_rings : Blind.rings φ) (h_svcs : Blind.svcs φ) (h_journal : Blind.journal φ) (h_sec : Blind.sec φ) (h_det : Blind.det φ) (agent : Agent) (addr : W64) (data : List Byte) (bad : List (Nat × Nat)) (s : State) (t' : State)
    (h : execFabricWrite agent addr data bad s = .next t') : φ t' = φ s := by
  unfold execFabricWrite at h
  refine perform_frame h_out h_pending h (fun s => ?_)
  repeat' first
    | simp only [fabLocal_frame h_regs h_seq h_out h_hiLatch h_commitLatch h_rigs h_treads h_chans h_flights h_stages h_ctxs h_landings h_mem h_memCheck h_memEpoch h_memKey h_ucs h_ropes h_fabric h_rings h_svcs h_journal h_sec h_det]
    | split
    | dsimp only
    | with_reducible rfl

theorem execFabricAtomic_frame (h_regs : Blind.regs φ) (h_seq : Blind.seq φ) (h_pending : Blind.pending φ) (h_out : Blind.out φ) (h_hiLatch : Blind.hiLatch φ) (h_commitLatch : Blind.commitLatch φ) (h_rigs : Blind.rigs φ) (h_treads : Blind.treads φ) (h_chans : Blind.chans φ) (h_flights : Blind.flights φ) (h_stages : Blind.stages φ) (h_ctxs : Blind.ctxs φ) (h_landings : Blind.landings φ) (h_mem : Blind.mem φ) (h_memCheck : Blind.memCheck φ) (h_memEpoch : Blind.memEpoch φ) (h_memKey : Blind.memKey φ) (h_ucs : Blind.ucs φ) (h_ropes : Blind.ropes φ) (h_fabric : Blind.fabric φ) (h_rings : Blind.rings φ) (h_svcs : Blind.svcs φ) (h_journal : Blind.journal φ) (h_sec : Blind.sec φ) (h_det : Blind.det φ) (agent : Agent) (func : Nat) (addr : W64) (size : Nat) (value compare : W64) (bad : List (Nat × Nat)) (s : State) (t' : State)
    (h : execFabricAtomic agent func addr size value compare bad s = .next t') : φ t' = φ s := by
  unfold execFabricAtomic at h
  refine perform_frame h_out h_pending h (fun s => ?_)
  repeat' first
    | simp only [fabLocal_frame h_regs h_seq h_out h_hiLatch h_commitLatch h_rigs h_treads h_chans h_flights h_stages h_ctxs h_landings h_mem h_memCheck h_memEpoch h_memKey h_ucs h_ropes h_fabric h_rings h_svcs h_journal h_sec h_det]
    | split
    | dsimp only
    | with_reducible rfl

theorem execFabricRequestIssue_frame (h_regs : Blind.regs φ) (h_seq : Blind.seq φ) (h_pending : Blind.pending φ) (h_out : Blind.out φ) (h_ropes : Blind.ropes φ) (h_fabric : Blind.fabric φ) (h_rings : Blind.rings φ) (h_journal : Blind.journal φ) (h_sec : Blind.sec φ) (h_det : Blind.det φ) (agent : Agent) (op func : Nat) (addr : W64) (size : Nat) (data : List Byte) (s : State) (t' : State)
    (h : execFabricRequestIssue agent op func addr size data s = .next t') : φ t' = φ s := by
  unfold execFabricRequestIssue at h
  refine perform_frame h_out h_pending h (fun s => ?_)
  repeat' first
    | simp only [issueRemote_frame h_regs h_seq h_out h_ropes h_fabric h_rings h_journal h_sec h_det]
    | split
    | dsimp only
    | with_reducible rfl

theorem execFabricResponse_frame (h_regs : Blind.regs φ) (h_seq : Blind.seq φ) (h_pending : Blind.pending φ) (h_out : Blind.out φ) (h_ropes : Blind.ropes φ) (h_fabric : Blind.fabric φ) (h_rings : Blind.rings φ) (h_journal : Blind.journal φ) (h_sec : Blind.sec φ) (h_det : Blind.det φ) (k v : Nat) (msg : List Byte) (s : State) (t' : State)
    (h : execFabricResponse k v msg s = .next t') : φ t' = φ s := by
  unfold execFabricResponse at h
  refine perform_frame h_out h_pending h (fun s => ?_)
  repeat' first
    | simp only [fabError_frame h_regs h_seq h_rings h_det, fabReply_frame h_regs h_seq h_out h_ropes h_rings h_journal h_sec h_det, tookMsg_frame h_ropes, h_fabric.eq]
    | split
    | dsimp only
    | with_reducible rfl

theorem execLandingEntry_frame (h_regs : Blind.regs φ) (h_seq : Blind.seq φ) (h_pending : Blind.pending φ) (h_out : Blind.out φ) (h_rigs : Blind.rigs φ) (h_landings : Blind.landings φ) (h_ropes : Blind.ropes φ) (h_rings : Blind.rings φ) (h_svcs : Blind.svcs φ) (h_det : Blind.det φ) (k v : Nat) (msg : List Byte) (s : State) (t' : State)
    (h : execLandingEntry k v msg s = .next t') : φ t' = φ s := by
  unfold execLandingEntry at h
  refine perform_frame h_out h_pending h (fun s => ?_)
  repeat' first
    | simp only [bump_frame h_regs, peerMismatch_frame h_regs h_seq h_out h_rigs h_ropes h_rings h_svcs h_det, setLanding_frame h_landings, tookMsg_frame h_ropes]
    | split
    | dsimp only
    | with_reducible rfl

theorem execLandingCredit_frame (h_regs : Blind.regs φ) (h_seq : Blind.seq φ) (h_pending : Blind.pending φ) (h_out : Blind.out φ) (h_rigs : Blind.rigs φ) (h_stages : Blind.stages φ) (h_ctxs : Blind.ctxs φ) (h_landings : Blind.landings φ) (h_parts : Blind.parts φ) (h_ropes : Blind.ropes φ) (h_rings : Blind.rings φ) (h_svcs : Blind.svcs φ) (h_det : Blind.det φ) (k v : Nat) (msg : List Byte) (s : State) (t' : State)
    (h : execLandingCredit k v msg s = .next t') : φ t' = φ s := by
  unfold execLandingCredit at h
  refine perform_frame h_out h_pending h (fun s => ?_)
  repeat' first
    | simp only [creditLanding_frame h_stages h_ctxs h_landings h_parts, peerMismatch_frame h_regs h_seq h_out h_rigs h_ropes h_rings h_svcs h_det, setLanding_frame h_landings, tookMsg_frame h_ropes]
    | split
    | dsimp only
    | with_reducible rfl

end Sys2Proof.Laws
end

