-- ==== Sys2Proof/Laws/DieLinksFrame.lean ====
section
/-!
SUPPORT. Frames of the operations of Sys2Proof/Machine/DieLinks.lean: what none of them writes stays as it was.
-/
namespace Sys2Proof.Laws
open Machine Machine.State

set_option linter.unusedSimpArgs false
set_option linter.unusedTactic false
set_option linter.unreachableTactic false
set_option linter.unusedVariables false

variable {α : Type} {φ : State → α}

theorem setDieDir_frame (h_bundles : Blind.bundles φ) (n d : Nat) (x : DieDir) (s : State) :
    φ (setDieDir n d x s) = φ s := by
  unfold setDieDir
  repeat' first
    | simp only [setBundle_frame h_bundles]
    | split
    | dsimp only
    | with_reducible rfl

theorem moveFlit_frame (h_out : Blind.out φ) (h_bundles : Blind.bundles φ) (n d : Nat) (resent : Bool) (q : Nat × List Byte) (s : State) :
    φ (moveFlit n d resent q s) = φ s := by
  unfold moveFlit
  repeat' first
    | simp only [put_frame h_out, setDieDir_frame h_bundles]
    | split
    | dsimp only
    | with_reducible rfl

theorem moveFlits_frame (h_out : Blind.out φ) (h_bundles : Blind.bundles φ) (n d : Nat) (s : State) :
    φ (moveFlits n d s) = φ s := by
  unfold moveFlits
  repeat' first
    | simp only [moveFlit_frame h_out h_bundles, setDieDir_frame h_bundles]
    | with_reducible refine Eq.trans (foldl_frame (fun _ _ => ?_) _ _) ?_
    | split
    | dsimp only
    | with_reducible rfl

theorem linkDown_frame (h_regs : Blind.regs φ) (n st : Nat) (s : State) :
    φ (linkDown n st s) = φ s := by
  unfold linkDown
  repeat' first
    | simp only [set_frame h_regs]
    | split
    | dsimp only
    | with_reducible rfl

theorem endInjectionOn_frame (h_regs : Blind.regs φ) (h_seq : Blind.seq φ) (h_rings : Blind.rings φ) (h_det : Blind.det φ) (n : Nat) (s : State) :
    φ (endInjectionOn n s) = φ s := by
  unfold endInjectionOn
  repeat' first
    | simp only [endInjection_frame h_regs h_seq h_rings h_det]
    | split
    | with_reducible rfl

theorem fenceBundle_frame (h_regs : Blind.regs φ) (h_seq : Blind.seq φ) (h_out : Blind.out φ) (h_bundles : Blind.bundles φ) (h_rings : Blind.rings φ) (h_det : Blind.det φ) (n : Nat) (s : State) :
    φ (fenceBundle n s) = φ s := by
  unfold fenceBundle
  repeat' first
    | simp only [endInjectionOn_frame h_regs h_seq h_rings h_det, linkDown_frame h_regs, moveFlits_frame h_out h_bundles, raise0_frame h_regs h_seq h_rings h_det]
    | split
    | dsimp only
    | with_reducible rfl

theorem dlEnable_frame (h_regs : Blind.regs φ) (h_seq : Blind.seq φ) (h_out : Blind.out φ) (h_bundles : Blind.bundles φ) (h_rings : Blind.rings φ) (h_det : Blind.det φ) (n value : Nat) (s : State) :
    φ (dlEnable n value s) = φ s := by
  unfold dlEnable
  repeat' first
    | simp only [fenceBundle_frame h_regs h_seq h_out h_bundles h_rings h_det, set_frame h_regs]
    | split
    | dsimp only
    | with_reducible rfl

theorem showSplice_frame (h_regs : Blind.regs φ) (n d i lane : Nat) (s : State) :
    φ (showSplice n d i lane s) = φ s := by
  unfold showSplice
  repeat' first
    | simp only [set_frame h_regs]
    | split
    | dsimp only
    | with_reducible rfl

theorem journalSplices_frame (h_regs : Blind.regs φ) (h_journal : Blind.journal φ) (n : Nat) (l : List (Nat × Nat × Nat)) (s : State) :
    φ (journalSplices n l s) = φ s := by
  unfold journalSplices
  repeat' first
    | simp only [journalWrite_frame h_regs h_journal]
    | split
    | dsimp only
    | with_reducible rfl

theorem spliceLane_frame (h_regs : Blind.regs φ) (h_seq : Blind.seq φ) (h_bundles : Blind.bundles φ) (h_rings : Blind.rings φ) (h_journal : Blind.journal φ) (h_det : Blind.det φ) (n d lane : Nat) (s : State) :
    φ (spliceLane n d lane s) = φ s := by
  unfold spliceLane
  repeat' first
    | simp only [journalSplices_frame h_regs h_journal, raise0_frame h_regs h_seq h_rings h_det, setBundle_frame h_bundles, showSplice_frame h_regs]
    | split
    | dsimp only
    | with_reducible rfl

theorem beginTraining_frame (h_regs : Blind.regs φ) (h_bundles : Blind.bundles φ) (n : Nat) (s : State) :
    φ (beginTraining n s) = φ s := by
  unfold beginTraining
  repeat' first
    | simp only [bump_frame h_regs, linkDown_frame h_regs, setBundle_frame h_bundles]
    | split
    | dsimp only
    | with_reducible rfl

theorem failAttempt_frame (h_regs : Blind.regs φ) (h_seq : Blind.seq φ) (h_out : Blind.out φ) (h_bundles : Blind.bundles φ) (h_rings : Blind.rings φ) (h_det : Blind.det φ) (n : Nat) (s : State) :
    φ (failAttempt n s) = φ s := by
  unfold failAttempt
  repeat' first
    | simp only [beginTraining_frame h_regs h_bundles, fenceBundle_frame h_regs h_seq h_out h_bundles h_rings h_det, set_frame h_regs]
    | split
    | dsimp only
    | with_reducible rfl

theorem resetEnd_frame (h_regs : Blind.regs φ) (h_seq : Blind.seq φ) (h_out : Blind.out φ) (h_bundles : Blind.bundles φ) (h_rings : Blind.rings φ) (h_det : Blind.det φ) (n e : Nat) (s : State) :
    φ (resetEnd n e s) = φ s := by
  unfold resetEnd
  repeat' first
    | simp only [linkDown_frame h_regs, moveFlits_frame h_out h_bundles, raise0_frame h_regs h_seq h_rings h_det, set_frame h_regs, setBundle_frame h_bundles, setDieDir_frame h_bundles]
    | split
    | dsimp only
    | with_reducible rfl

theorem dieReplay_frame (h_regs : Blind.regs φ) (h_bundles : Blind.bundles φ) (n d ack : Nat) (s : State) :
    φ (dieReplay n d ack s) = φ s := by
  unfold dieReplay
  repeat' first
    | simp only [beginTraining_frame h_regs h_bundles, bump_frame h_regs, setDieDir_frame h_bundles]
    | split
    | dsimp only
    | with_reducible rfl

theorem dieAck_frame (h_regs : Blind.regs φ) (h_bundles : Blind.bundles φ) (n d : Nat) (h : DcpHdr) (s : State) :
    φ (dieAck n d h s) = φ s := by
  unfold dieAck
  repeat' first
    | simp only [dieReplay_frame h_regs h_bundles, setDieDir_frame h_bundles]
    | split
    | dsimp only
    | with_reducible rfl

theorem dieFlit_frame (h_regs : Blind.regs φ) (h_seq : Blind.seq φ) (h_out : Blind.out φ) (h_bundles : Blind.bundles φ) (h_rings : Blind.rings φ) (h_journal : Blind.journal φ) (h_sec : Blind.sec φ) (h_det : Blind.det φ) (type n d : Nat) (f : List Byte) (bad : Bool) (s : State) :
    φ (dieFlit type n d f bad s) = φ s := by
  unfold dieFlit
  repeat' first
    | simp only [bump_frame h_regs, dieAck_frame h_regs h_bundles, hitInjection_frame h_regs h_seq h_rings h_journal h_sec h_det, put_frame h_out, setDieDir_frame h_bundles]
    | split
    | dsimp only
    | with_reducible rfl

end Sys2Proof.Laws
end

