-- ==== Sys2Proof/Laws/PowerFrame.lean ====
section
/-!
SUPPORT. Frames of the operations of Sys2Proof/Machine/Power.lean: what none of them writes stays as it was.
-/
namespace Sys2Proof.Laws
open Machine Machine.State

set_option linter.unusedSimpArgs false
set_option linter.unusedTactic false
set_option linter.unreachableTactic false
set_option linter.unusedVariables false

variable {α : Type} {φ : State → α}

theorem hitAll_frame (h_regs : Blind.regs φ) (h_seq : Blind.seq φ) (h_rings : Blind.rings φ) (h_journal : Blind.journal φ) (h_sec : Blind.sec φ) (h_det : Blind.det φ) (point : Nat) (s : State) :
    φ (hitAll point s) = φ s := by
  unfold hitAll
  repeat' first
    | simp only [hitInjection_frame h_regs h_seq h_rings h_journal h_sec h_det]
    | split
    | dsimp only
    | with_reducible rfl

theorem cutRates_frame (h_regs : Blind.regs φ) (h_power : Blind.power φ) (w e : Nat) (s : State) :
    φ (cutRates w e s) = φ s := by
  unfold cutRates
  repeat' first
    | simp only [floorRates_frame h_regs h_power, scaleRates_frame h_regs h_power, h_power.eq]
    | split
    | dsimp only
    | with_reducible rfl

theorem overBudget_frame (h_regs : Blind.regs φ) (h_seq : Blind.seq φ) (h_power : Blind.power φ) (h_rings : Blind.rings φ) (h_det : Blind.det φ) (w e : Nat) (s : State) :
    φ (overBudget w e s) = φ s := by
  unfold overBudget
  repeat' first
    | simp only [cutRates_frame h_regs h_power, holdAdmission_frame h_regs h_power, raise0_frame h_regs h_seq h_rings h_det, h_power.eq]
    | split
    | dsimp only
    | with_reducible rfl

theorem warnFlight_frame (h_regs : Blind.regs φ) (h_seq : Blind.seq φ) (h_power : Blind.power φ) (h_rings : Blind.rings φ) (h_det : Blind.det φ) (gf : Nat) (s : State) :
    φ (warnFlight gf s) = φ s := by
  unfold warnFlight
  repeat' first
    | simp only [bump_frame h_regs, raise_frame h_regs h_seq h_rings h_det, h_power.eq]
    | split
    | dsimp only
    | with_reducible rfl

theorem sampleFlight_frame (h_regs : Blind.regs φ) (h_seq : Blind.seq φ) (h_power : Blind.power φ) (h_rings : Blind.rings φ) (h_det : Blind.det φ) (gf : Nat) (s : State) :
    φ (sampleFlight gf s) = φ s := by
  unfold sampleFlight
  repeat' first
    | simp only [raise_frame h_regs h_seq h_rings h_det, set_frame h_regs, warnFlight_frame h_regs h_seq h_power h_rings h_det, h_power.eq]
    | split
    | dsimp only
    | with_reducible rfl

theorem thermalTrip_frame (h_regs : Blind.regs φ) (h_pkg : Blind.pkg φ) (h_seq : Blind.seq φ) (h_out : Blind.out φ) (h_pins : Blind.pins φ) (h_power : Blind.power φ) (h_treads : Blind.treads φ) (h_flights : Blind.flights φ) (h_rings : Blind.rings φ) (h_det : Blind.det φ) (gf : Nat) (s : State) :
    φ (thermalTrip gf s) = φ s := by
  unfold thermalTrip
  repeat' first
    | simp only [flightOff_frame h_regs h_power h_treads h_flights, packageFault_frame h_pkg h_out h_pins, put_frame h_out, raise_frame h_regs h_seq h_rings h_det, h_pins.eq]
    | with_reducible refine Eq.trans (foldl_frame (fun _ _ => ?_) _ _) ?_
    | split
    | dsimp only
    | with_reducible rfl

theorem takeReadings_frame (h_power : Blind.power φ) (readings : List (Nat × Int)) (s : State) :
    φ (takeReadings readings s) = φ s := by
  unfold takeReadings
  repeat' first
    | simp only [h_power.eq]
    | with_reducible refine Eq.trans (foldl_frame (fun _ _ => ?_) _ _) ?_
    | split
    | dsimp only
    | with_reducible rfl

theorem sampleFlights_frame (h_regs : Blind.regs φ) (h_seq : Blind.seq φ) (h_power : Blind.power φ) (h_rings : Blind.rings φ) (h_det : Blind.det φ) (s : State) :
    φ (sampleFlights s) = φ s := by
  unfold sampleFlights
  repeat' first
    | simp only [sampleFlight_frame h_regs h_seq h_power h_rings h_det, set_frame h_regs]
    | with_reducible refine Eq.trans (foldl_frame (fun _ _ => ?_) _ _) ?_
    | split
    | dsimp only
    | with_reducible rfl

end Sys2Proof.Laws
end

