-- ==== Sys2Proof/Laws/RopeOpsFrame.lean ====
section
/-!
SUPPORT. Frames of the operations of Sys2Proof/Machine/RopeOps.lean: what none of them writes stays as it was.
-/
namespace Sys2Proof.Laws
open Machine Machine.State

set_option linter.unusedSimpArgs false
set_option linter.unusedTactic false
set_option linter.unreachableTactic false
set_option linter.unusedVariables false

variable {α : Type} {φ : State → α}

theorem setRopeSt_frame (h_regs : Blind.regs φ) (k st : Nat) (s : State) :
    φ (setRopeSt k st s) = φ s := by
  unfold setRopeSt
  repeat' first
    | simp only [set_frame h_regs]
    | split
    | dsimp only
    | with_reducible rfl

theorem showActive_frame (h_regs : Blind.regs φ) (k m : Nat) (s : State) :
    φ (showActive k m s) = φ s := by
  unfold showActive
  repeat' first
    | simp only [set_frame h_regs]
    | split
    | dsimp only
    | with_reducible rfl

theorem peerLost_frame (h_regs : Blind.regs φ) (h_seq : Blind.seq φ) (h_out : Blind.out φ) (h_rings : Blind.rings φ) (h_svcs : Blind.svcs φ) (h_det : Blind.det φ) (p peer : Nat) (s : State) :
    φ (peerLost p peer s) = φ s := by
  unfold peerLost
  repeat' first
    | simp only [beginOutage_frame h_svcs, notifyStep_frame h_regs h_out, raise_frame h_regs h_seq h_rings h_det, set_frame h_regs, setSvcState_frame h_regs h_svcs]
    | split
    | dsimp only
    | with_reducible rfl

theorem edgesLost_frame (h_regs : Blind.regs φ) (h_seq : Blind.seq φ) (h_out : Blind.out φ) (h_rings : Blind.rings φ) (h_svcs : Blind.svcs φ) (h_det : Blind.det φ) (k : Nat) (s : State) :
    φ (edgesLost k s) = φ s := by
  unfold edgesLost
  repeat' first
    | simp only [peerLost_frame h_regs h_seq h_out h_rings h_svcs h_det]
    | with_reducible refine Eq.trans (foldl_frame (fun _ _ => ?_) _ _) ?_
    | split
    | dsimp only
    | with_reducible rfl

theorem journalNonce_frame (h_regs : Blind.regs φ) (h_journal : Blind.journal φ) (k epoch count : Nat) (s : State) :
    φ (journalNonce k epoch count s) = φ s := by
  unfold journalNonce
  repeat' first
    | simp only [journalWrite_frame h_regs h_journal]
    | split
    | dsimp only
    | with_reducible rfl

theorem switchRopeKey_frame (h_ropes : Blind.ropes φ) (k : Nat) (s : State) :
    φ (switchRopeKey k s) = φ s := by
  unfold switchRopeKey
  repeat' first
    | simp only [setVchan_frame h_ropes]
    | split
    | dsimp only
    | with_reducible rfl

theorem startRopeKey_frame (h_ropes : Blind.ropes φ) (k rx : Nat) (s : State) :
    φ (startRopeKey k rx s) = φ s := by
  unfold startRopeKey
  repeat' first
    | simp only [setVchan_frame h_ropes]
    | split
    | dsimp only
    | with_reducible rfl

theorem clearOldSlots_frame (h_ropes : Blind.ropes φ) (k : Nat) (s : State) :
    φ (clearOldSlots k s) = φ s := by
  unfold clearOldSlots
  repeat' first
    | simp only [setRope_frame h_ropes]
    | split
    | dsimp only
    | with_reducible rfl

theorem enterGrace_frame (h_regs : Blind.regs φ) (h_ropes : Blind.ropes φ) (k : Nat) (s : State) :
    φ (enterGrace k s) = φ s := by
  unfold enterGrace
  repeat' first
    | simp only [setRope_frame h_ropes, setRopeSt_frame h_regs]
    | split
    | dsimp only
    | with_reducible rfl

theorem dropStrand_frame (h_regs : Blind.regs φ) (h_ropes : Blind.ropes φ) (k j : Nat) (s : State) :
    φ (dropStrand k j s) = φ s := by
  unfold dropStrand
  repeat' first
    | simp only [enterGrace_frame h_regs h_ropes, setRope_frame h_ropes, showActive_frame h_regs]
    | split
    | dsimp only
    | with_reducible rfl

theorem flushFabric_frame (h_regs : Blind.regs φ) (h_seq : Blind.seq φ) (h_out : Blind.out φ) (h_ropes : Blind.ropes φ) (h_fabric : Blind.fabric φ) (h_rings : Blind.rings φ) (h_journal : Blind.journal φ) (h_sec : Blind.sec φ) (h_det : Blind.det φ) (k : Nat) (s : State) :
    φ (flushFabric k s) = φ s := by
  unfold flushFabric
  repeat' first
    | simp only [fabError_frame h_regs h_seq h_rings h_det, fabReply_frame h_regs h_seq h_out h_ropes h_rings h_journal h_sec h_det, h_fabric.eq]
    | with_reducible refine Eq.trans (foldl_frame (fun _ _ => ?_) _ _) ?_
    | split
    | dsimp only
    | with_reducible rfl

theorem flushRope_frame (h_regs : Blind.regs φ) (h_seq : Blind.seq φ) (h_out : Blind.out φ) (h_ropes : Blind.ropes φ) (h_fabric : Blind.fabric φ) (h_rings : Blind.rings φ) (h_journal : Blind.journal φ) (h_sec : Blind.sec φ) (h_det : Blind.det φ) (k : Nat) (s : State) :
    φ (flushRope k s) = φ s := by
  unfold flushRope
  repeat' first
    | simp only [bump_frame h_regs, flushFabric_frame h_regs h_seq h_out h_ropes h_fabric h_rings h_journal h_sec h_det, raise0_frame h_regs h_seq h_rings h_det, set_frame h_regs, setRope_frame h_ropes]
    | with_reducible refine Eq.trans (foldl_frame (fun _ _ => ?_) _ _) ?_
    | split
    | dsimp only
    | with_reducible rfl

theorem ropeDown_frame (h_regs : Blind.regs φ) (h_ropes : Blind.ropes φ) (k : Nat) (s : State) :
    φ (ropeDown k s) = φ s := by
  unfold ropeDown
  repeat' first
    | simp only [setRope_frame h_ropes, setRopeSt_frame h_regs, showActive_frame h_regs]
    | split
    | dsimp only
    | with_reducible rfl

theorem wakeRope_frame (h_regs : Blind.regs φ) (h_ropes : Blind.ropes φ) (k : Nat) (s : State) :
    φ (wakeRope k s) = φ s := by
  unfold wakeRope
  repeat' first
    | simp only [ropeDown_frame h_regs h_ropes]
    | split
    | dsimp only
    | with_reducible rfl

theorem loseRope_frame (h_regs : Blind.regs φ) (h_seq : Blind.seq φ) (h_out : Blind.out φ) (h_ropes : Blind.ropes φ) (h_fabric : Blind.fabric φ) (h_rings : Blind.rings φ) (h_svcs : Blind.svcs φ) (h_journal : Blind.journal φ) (h_sec : Blind.sec φ) (h_det : Blind.det φ) (k : Nat) (s : State) :
    φ (loseRope k s) = φ s := by
  unfold loseRope
  repeat' first
    | simp only [edgesLost_frame h_regs h_seq h_out h_rings h_svcs h_det, flushRope_frame h_regs h_seq h_out h_ropes h_fabric h_rings h_journal h_sec h_det, ropeDown_frame h_regs h_ropes]
    | split
    | dsimp only
    | with_reducible rfl

theorem startReplay_frame (h_regs : Blind.regs φ) (h_ropes : Blind.ropes φ) (k ack : Nat) (s : State) :
    φ (startReplay k ack s) = φ s := by
  unfold startReplay
  repeat' first
    | simp only [bump_frame h_regs, enterGrace_frame h_regs h_ropes, setRope_frame h_ropes]
    | split
    | dsimp only
    | with_reducible rfl

theorem showPeer_frame (h_regs : Blind.regs φ) (k : Nat) (i : TrainInfo) (s : State) :
    φ (showPeer k i s) = φ s := by
  unfold showPeer
  repeat' first
    | simp only [set_frame h_regs]
    | split
    | dsimp only
    | with_reducible rfl

theorem tellScrubs_frame (h_out : Blind.out φ) (h_ropes : Blind.ropes φ) (k : Nat) (s : State) :
    φ (tellScrubs k s) = φ s := by
  unfold tellScrubs
  repeat' first
    | simp only [sendControl_frame h_out h_ropes]
    | with_reducible refine Eq.trans (foldl_frame (fun _ _ => ?_) _ _) ?_
    | split
    | dsimp only
    | with_reducible rfl

theorem queueKeyCheck_frame (h_out : Blind.out φ) (h_ropes : Blind.ropes φ) (k : Nat) (s : State) :
    φ (queueKeyCheck k s) = φ s := by
  unfold queueKeyCheck
  repeat' first
    | simp only [put_frame h_out, setVchan_frame h_ropes]
    | split
    | dsimp only
    | with_reducible rfl

theorem ropeUp_frame (h_regs : Blind.regs φ) (h_out : Blind.out φ) (h_rigs : Blind.rigs φ) (h_ropes : Blind.ropes φ) (h_svcs : Blind.svcs φ) (k m : Nat) (i : TrainInfo) (s : State) :
    φ (ropeUp k m i s) = φ s := by
  unfold ropeUp
  repeat' first
    | simp only [findCause_frame h_regs h_out h_rigs h_ropes h_svcs, queueKeyCheck_frame h_out h_ropes, setRope_frame h_ropes, setRopeSt_frame h_regs, showActive_frame h_regs, tellScrubs_frame h_out h_ropes]
    | with_reducible refine Eq.trans (foldl_frame (fun _ _ => ?_) _ _) ?_
    | split
    | dsimp only
    | with_reducible rfl

theorem startRope_frame (h_regs : Blind.regs φ) (h_out : Blind.out φ) (h_rigs : Blind.rigs φ) (h_ropes : Blind.ropes φ) (h_svcs : Blind.svcs φ) (k : Nat) (i : TrainInfo) (m : Nat) (s : State) :
    φ (startRope k i m s) = φ s := by
  unfold startRope
  repeat' first
    | simp only [ropeUp_frame h_regs h_out h_rigs h_ropes h_svcs, setRope_frame h_ropes, startRopeKey_frame h_ropes]
    | split
    | dsimp only
    | with_reducible rfl

theorem resumeRope_frame (h_regs : Blind.regs φ) (h_seq : Blind.seq φ) (h_out : Blind.out φ) (h_rigs : Blind.rigs φ) (h_ropes : Blind.ropes φ) (h_fabric : Blind.fabric φ) (h_rings : Blind.rings φ) (h_svcs : Blind.svcs φ) (h_journal : Blind.journal φ) (h_sec : Blind.sec φ) (h_det : Blind.det φ) (k : Nat) (i : TrainInfo) (m : Nat) (s : State) :
    φ (resumeRope k i m s) = φ s := by
  unfold resumeRope
  repeat' first
    | simp only [clearOldSlots_frame h_ropes, flushRope_frame h_regs h_seq h_out h_ropes h_fabric h_rings h_journal h_sec h_det, ropeUp_frame h_regs h_out h_rigs h_ropes h_svcs, setRope_frame h_ropes, showPeer_frame h_regs, startReplay_frame h_regs h_ropes, startRope_frame h_regs h_out h_rigs h_ropes h_svcs]
    | split
    | dsimp only
    | with_reducible rfl

theorem finishTraining_frame (h_regs : Blind.regs φ) (h_seq : Blind.seq φ) (h_out : Blind.out φ) (h_rigs : Blind.rigs φ) (h_ropes : Blind.ropes φ) (h_fabric : Blind.fabric φ) (h_rings : Blind.rings φ) (h_svcs : Blind.svcs φ) (h_journal : Blind.journal φ) (h_sec : Blind.sec φ) (h_det : Blind.det φ) (k : Nat) (s : State) :
    φ (finishTraining k s) = φ s := by
  unfold finishTraining
  repeat' first
    | simp only [resumeRope_frame h_regs h_seq h_out h_rigs h_ropes h_fabric h_rings h_svcs h_journal h_sec h_det, set_frame h_regs, setRope_frame h_ropes, setRopeSt_frame h_regs]
    | split
    | dsimp only
    | with_reducible rfl

theorem trainArrived_frame (h_regs : Blind.regs φ) (h_seq : Blind.seq φ) (h_out : Blind.out φ) (h_rigs : Blind.rigs φ) (h_ropes : Blind.ropes φ) (h_fabric : Blind.fabric φ) (h_rings : Blind.rings φ) (h_svcs : Blind.svcs φ) (h_journal : Blind.journal φ) (h_sec : Blind.sec φ) (h_det : Blind.det φ) (k : Nat) (i : TrainInfo) (s : State) :
    φ (trainArrived k i s) = φ s := by
  unfold trainArrived
  repeat' first
    | simp only [finishTraining_frame h_regs h_seq h_out h_rigs h_ropes h_fabric h_rings h_svcs h_journal h_sec h_det, setRope_frame h_ropes, showPeer_frame h_regs]
    | split
    | dsimp only
    | with_reducible rfl

end Sys2Proof.Laws
end

