-- ==== Sys2Proof/Laws/SelfTestFrame.lean ====
section
/-!
SUPPORT. Frames of the operations of Sys2Proof/Machine/SelfTest.lean: what none of them writes stays as it was.
-/
namespace Sys2Proof.Laws
open Machine Machine.State

set_option linter.unusedSimpArgs false
set_option linter.unusedTactic false
set_option linter.unreachableTactic false
set_option linter.unusedVariables false

variable {α : Type} {φ : State → α}

theorem checkArray_frame (h_regs : Blind.regs φ) (h_seq : Blind.seq φ) (h_out : Blind.out φ) (h_fence : Blind.fence φ) (h_power : Blind.power φ) (h_rigs : Blind.rigs φ) (h_treads : Blind.treads φ) (h_flights : Blind.flights φ) (h_ropes : Blind.ropes φ) (h_rings : Blind.rings φ) (h_svcs : Blind.svcs φ) (h_journal : Blind.journal φ) (h_det : Blind.det φ) (wrong : List (Nat × Nat × Nat × Nat)) (gf fmt : Nat) (s : State) :
    φ (checkArray wrong gf fmt s) = φ s := by
  unfold checkArray
  repeat' first
    | simp only [fenceFlight_frame h_regs h_seq h_out h_fence h_power h_rigs h_treads h_flights h_ropes h_rings h_svcs h_journal h_det, fenceTread_frame h_regs h_seq h_out h_fence h_power h_rigs h_treads h_flights h_ropes h_rings h_svcs h_journal h_det]
    | split
    | dsimp only
    | with_reducible rfl

theorem checkArrays_frame (h_regs : Blind.regs φ) (h_seq : Blind.seq φ) (h_out : Blind.out φ) (h_fence : Blind.fence φ) (h_power : Blind.power φ) (h_rigs : Blind.rigs φ) (h_treads : Blind.treads φ) (h_flights : Blind.flights φ) (h_ropes : Blind.ropes φ) (h_rings : Blind.rings φ) (h_svcs : Blind.svcs φ) (h_journal : Blind.journal φ) (h_det : Blind.det φ) (wrong : List (Nat × Nat × Nat × Nat)) (s : State) :
    φ (checkArrays wrong s) = φ s := by
  unfold checkArrays
  repeat' first
    | simp only [checkArray_frame h_regs h_seq h_out h_fence h_power h_rigs h_treads h_flights h_ropes h_rings h_svcs h_journal h_det]
    | with_reducible refine Eq.trans (foldl_frame (fun _ _ => ?_) _ _) ?_
    | split
    | dsimp only
    | with_reducible rfl

theorem checkSensors_frame (h_regs : Blind.regs φ) (h_seq : Blind.seq φ) (h_out : Blind.out φ) (h_fence : Blind.fence φ) (h_power : Blind.power φ) (h_rigs : Blind.rigs φ) (h_treads : Blind.treads φ) (h_flights : Blind.flights φ) (h_ropes : Blind.ropes φ) (h_rings : Blind.rings φ) (h_svcs : Blind.svcs φ) (h_journal : Blind.journal φ) (h_det : Blind.det φ) (s : State) :
    φ (checkSensors s) = φ s := by
  unfold checkSensors
  repeat' first
    | simp only [fenceFlight_frame h_regs h_seq h_out h_fence h_power h_rigs h_treads h_flights h_ropes h_rings h_svcs h_journal h_det]
    | with_reducible refine Eq.trans (foldl_frame (fun _ _ => ?_) _ _) ?_
    | split
    | dsimp only
    | with_reducible rfl

theorem marchControl_frame (h_ucs : Blind.ucs φ) (h_det : Blind.det φ) (s : State) :
    φ (marchControl s) = φ s := by
  unfold marchControl
  repeat' first
    | simp only [setUc_frame h_ucs, h_det.eq]
    | with_reducible refine Eq.trans (foldl_frame (fun _ _ => ?_) _ _) ?_
    | split
    | dsimp only
    | with_reducible rfl

end Sys2Proof.Laws
end

