-- ==== Sys2Proof/Laws/DetectorsFrame.lean ====
section
/-!
SUPPORT. Frames of the operations of Sys2Proof/Machine/Detectors.lean: what none of them writes stays as it was.
-/
namespace Sys2Proof.Laws
open Machine Machine.State

set_option linter.unusedSimpArgs false
set_option linter.unusedTactic false
set_option linter.unreachableTactic false
set_option linter.unusedVariables false

variable {α : Type} {φ : State → α}

theorem armInjection_frame (h_regs : Blind.regs φ) (h_det : Blind.det φ) (count : Nat) (s : State) :
    φ (armInjection count s) = φ s := by
  unfold armInjection
  repeat' first
    | simp only [set_frame h_regs, h_det.eq]
    | split
    | dsimp only
    | with_reducible rfl

theorem disarmInjection_frame (h_regs : Blind.regs φ) (h_seq : Blind.seq φ) (h_power : Blind.power φ) (h_rings : Blind.rings φ) (h_det : Blind.det φ) (s : State) :
    φ (disarmInjection s) = φ s := by
  unfold disarmInjection
  repeat' first
    | simp only [endInjection_frame h_regs h_seq h_rings h_det, formBudget_frame h_regs h_power, set_frame h_regs, h_power.eq]
    | split
    | dsimp only
    | with_reducible rfl

theorem injCtrl_frame (h_regs : Blind.regs φ) (h_seq : Blind.seq φ) (h_power : Blind.power φ) (h_rings : Blind.rings φ) (h_det : Blind.det φ) (value : Nat) (s : State) :
    φ (injCtrl value s) = φ s := by
  unfold injCtrl
  repeat' first
    | simp only [armInjection_frame h_regs h_det, disarmInjection_frame h_regs h_seq h_power h_rings h_det]
    | split
    | dsimp only
    | with_reducible rfl

theorem withRecord_frame (type key : Nat) (f : List Byte → State → State) (s : State) (h_f : ∀ x0 s, φ (f x0 s) = φ s) :
    φ (withRecord type key f s) = φ s := by
  unfold withRecord
  repeat' first
    | simp only [h_f]
    | split
    | dsimp only
    | with_reducible rfl

theorem restoreTread_frame (h_fence : Blind.fence φ) (h_treads : Blind.treads φ) (t : Nat) (s : State) :
    φ (restoreTread t s) = φ s := by
  unfold restoreTread
  repeat' first
    | simp only [setTread_frame h_treads, h_fence.eq]
    | split
    | dsimp only
    | with_reducible rfl

theorem restoreFences_frame (h_fence : Blind.fence φ) (h_treads : Blind.treads φ) (b : List Byte) (s : State) :
    φ (restoreFences b s) = φ s := by
  unfold restoreFences
  repeat' first
    | simp only [restoreTread_frame h_fence h_treads, h_fence.eq]
    | with_reducible refine Eq.trans (foldl_frame (fun _ _ => ?_) _ _) ?_
    | split
    | dsimp only
    | with_reducible rfl

theorem restoreSplices_frame (h_regs : Blind.regs φ) (h_bundles : Blind.bundles φ) (n : Nat) (b : List Byte) (s : State) :
    φ (restoreSplices n b s) = φ s := by
  unfold restoreSplices
  repeat' first
    | simp only [setBundle_frame h_bundles, showSplice_frame h_regs]
    | with_reducible refine Eq.trans (foldl_frame (fun _ _ => ?_) _ _) ?_
    | split
    | dsimp only
    | with_reducible rfl

theorem restoreRepairs_frame (h_regs : Blind.regs φ) (h_ucs : Blind.ucs φ) (u : Nat) (b : List Byte) (s : State) :
    φ (restoreRepairs u b s) = φ s := by
  unfold restoreRepairs
  repeat' first
    | simp only [set_frame h_regs, setUc_frame h_ucs]
    | with_reducible refine Eq.trans (foldl_frame (fun _ _ => ?_) _ _) ?_
    | split
    | dsimp only
    | with_reducible rfl

theorem restoreCal_frame (h_det : Blind.det φ) (r : JrnRec) (s : State) :
    φ (restoreCal r s) = φ s := by
  unfold restoreCal
  repeat' first
    | simp only [h_det.eq]
    | split
    | dsimp only
    | with_reducible rfl

theorem restoreId_frame (h_regs : Blind.regs φ) (b : List Byte) (s : State) :
    φ (restoreId b s) = φ s := by
  unfold restoreId
  repeat' first
    | simp only [set_frame h_regs]
    | split
    | dsimp only
    | with_reducible rfl

theorem restoreSettings_frame (h_regs : Blind.regs φ) (h_power : Blind.power φ) (b : List Byte) (s : State) :
    φ (restoreSettings b s) = φ s := by
  unfold restoreSettings
  repeat' first
    | simp only [formBudget_frame h_regs h_power, set_frame h_regs]
    | split
    | dsimp only
    | with_reducible rfl

theorem restoreDebug_frame (h_regs : Blind.regs φ) (p : Nat) (b : List Byte) (s : State) :
    φ (restoreDebug p b s) = φ s := by
  unfold restoreDebug
  repeat' first
    | simp only [set_frame h_regs]
    | split
    | dsimp only
    | with_reducible rfl

theorem restoreAvail_frame (h_regs : Blind.regs φ) (p : Nat) (b : List Byte) (s : State) :
    φ (restoreAvail p b s) = φ s := by
  unfold restoreAvail
  repeat' first
    | simp only [set_frame h_regs]
    | split
    | dsimp only
    | with_reducible rfl

theorem applyRecords_frame (h_regs : Blind.regs φ) (h_fence : Blind.fence φ) (h_power : Blind.power φ) (h_treads : Blind.treads φ) (h_ucs : Blind.ucs φ) (h_bundles : Blind.bundles φ) (h_det : Blind.det φ) (s : State) :
    φ (applyRecords s) = φ s := by
  unfold applyRecords
  repeat' first
    | simp only [restoreAvail_frame h_regs, restoreCal_frame h_det, restoreDebug_frame h_regs, restoreFences_frame h_fence h_treads, restoreId_frame h_regs, restoreRepairs_frame h_regs h_ucs, restoreSettings_frame h_regs h_power, restoreSplices_frame h_regs h_bundles]
    | with_reducible refine Eq.trans (foldl_frame (fun _ _ => ?_) _ _) ?_
    | refine Eq.trans (withRecord_frame _ _ _ _ (fun _ _ => ?_)) ?_
    | split
    | dsimp only
    | with_reducible rfl

theorem scanJournal_frame (h_regs : Blind.regs φ) (h_seq : Blind.seq φ) (h_fence : Blind.fence φ) (h_power : Blind.power φ) (h_treads : Blind.treads φ) (h_ucs : Blind.ucs φ) (h_bundles : Blind.bundles φ) (h_rings : Blind.rings φ) (h_journal : Blind.journal φ) (h_det : Blind.det φ) (s : State) :
    φ (scanJournal s) = φ s := by
  unfold scanJournal
  repeat' first
    | simp only [applyRecords_frame h_regs h_fence h_power h_treads h_ucs h_bundles h_det, bump_frame h_regs, raise0_frame h_regs h_seq h_rings h_det, h_journal.eq]
    | with_reducible refine Eq.trans (foldl_frame (fun _ _ => ?_) _ _) ?_
    | split
    | dsimp only
    | with_reducible rfl

theorem bringUpBundles_frame (h_regs : Blind.regs φ) (h_bundles : Blind.bundles φ) (s : State) :
    φ (bringUpBundles s) = φ s := by
  unfold bringUpBundles
  repeat' first
    | simp only [beginTraining_frame h_regs h_bundles, set_frame h_regs]
    | with_reducible refine Eq.trans (foldl_frame (fun _ _ => ?_) _ _) ?_
    | split
    | dsimp only
    | with_reducible rfl

theorem beginReady_frame (h_regs : Blind.regs φ) (h_pkg : Blind.pkg φ) (h_ropes : Blind.ropes φ) (s : State) :
    φ (beginReady s) = φ s := by
  unfold beginReady
  repeat' first
    | simp only [ropeDown_frame h_regs h_ropes, set_frame h_regs, showCapacity_frame h_regs, h_pkg.eq]
    | with_reducible refine Eq.trans (foldl_frame (fun _ _ => ?_) _ _) ?_
    | split
    | dsimp only
    | with_reducible rfl

theorem failSelfTest_frame (h_regs : Blind.regs φ) (h_pkg : Blind.pkg φ) (h_seq : Blind.seq φ) (h_out : Blind.out φ) (h_pins : Blind.pins φ) (h_rings : Blind.rings φ) (h_det : Blind.det φ) (n : Nat) (s : State) :
    φ (failSelfTest n s) = φ s := by
  unfold failSelfTest
  repeat' first
    | simp only [packageFault_frame h_pkg h_out h_pins, raise0_frame h_regs h_seq h_rings h_det, set_frame h_regs]
    | split
    | dsimp only
    | with_reducible rfl

theorem runPhase_frame (h_regs : Blind.regs φ) (h_seq : Blind.seq φ) (h_out : Blind.out φ) (h_fence : Blind.fence φ) (h_power : Blind.power φ) (h_rigs : Blind.rigs φ) (h_treads : Blind.treads φ) (h_flights : Blind.flights φ) (h_ucs : Blind.ucs φ) (h_ropes : Blind.ropes φ) (h_bundles : Blind.bundles φ) (h_rings : Blind.rings φ) (h_svcs : Blind.svcs φ) (h_journal : Blind.journal φ) (h_det : Blind.det φ) (n : Nat) (treads flights : List Nat) (wrong : List (Nat × Nat × Nat × Nat)) (readings : List (Nat × Int)) (s : State) :
    φ (runPhase n treads flights wrong readings s) = φ s := by
  unfold runPhase
  repeat' first
    | simp only [bringUpBundles_frame h_regs h_bundles, checkArrays_frame h_regs h_seq h_out h_fence h_power h_rigs h_treads h_flights h_ropes h_rings h_svcs h_journal h_det, checkSensors_frame h_regs h_seq h_out h_fence h_power h_rigs h_treads h_flights h_ropes h_rings h_svcs h_journal h_det, fenceFlight_frame h_regs h_seq h_out h_fence h_power h_rigs h_treads h_flights h_ropes h_rings h_svcs h_journal h_det, fenceTread_frame h_regs h_seq h_out h_fence h_power h_rigs h_treads h_flights h_ropes h_rings h_svcs h_journal h_det, marchControl_frame h_ucs h_det, takeReadings_frame h_power]
    | with_reducible refine Eq.trans (foldl_frame (fun _ _ => ?_) _ _) ?_
    | split
    | dsimp only
    | with_reducible rfl

end Sys2Proof.Laws
end

