-- ==== Sys2Proof/Laws/DetectorsKeep.lean ====
section
/-!
SUPPORT. Frames of the commands of Sys2Proof/Machine/Detectors.lean: what a command does not write stays as it was.
-/
namespace Sys2Proof.Laws
open Machine Machine.State

set_option linter.unusedSimpArgs false
set_option linter.unusedTactic false
set_option linter.unreachableTactic false
set_option linter.unusedVariables false

variable {α : Type} {φ : State → α}

theorem execInjArm_frame (h_regs : Blind.regs φ) (h_seq : Blind.seq φ) (h_pending : Blind.pending φ) (h_out : Blind.out φ) (h_power : Blind.power φ) (h_rings : Blind.rings φ) (h_det : Blind.det φ) (value : W32) (s : State) (t' : State)
    (h : execInjArm value s = .next t') : φ t' = φ s := by
  unfold execInjArm at h
  refine perform_frame h_out h_pending h (fun s => ?_)
  repeat' first
    | simp only [injCtrl_frame h_regs h_seq h_power h_rings h_det]
    | refine Eq.trans (whenUp_frame (fun _ => ?_) _) ?_
    | split
    | dsimp only
    | with_reducible rfl

theorem execInjDisarm_frame (h_regs : Blind.regs φ) (h_seq : Blind.seq φ) (h_pending : Blind.pending φ) (h_out : Blind.out φ) (h_power : Blind.power φ) (h_rings : Blind.rings φ) (h_det : Blind.det φ) (value : W32) (s : State) (t' : State)
    (h : execInjDisarm value s = .next t') : φ t' = φ s := by
  unfold execInjDisarm at h
  refine perform_frame h_out h_pending h (fun s => ?_)
  repeat' first
    | simp only [injCtrl_frame h_regs h_seq h_power h_rings h_det]
    | refine Eq.trans (whenUp_frame (fun _ => ?_) _) ?_
    | split
    | dsimp only
    | with_reducible rfl

theorem execCalApply_frame (h_regs : Blind.regs φ) (h_seq : Blind.seq φ) (h_pending : Blind.pending φ) (h_out : Blind.out φ) (h_rings : Blind.rings φ) (h_journal : Blind.journal φ) (h_det : Blind.det φ) (value : W32) (s : State) (t' : State)
    (h : execCalApply value s = .next t') : φ t' = φ s := by
  unfold execCalApply at h
  refine perform_frame h_out h_pending h (fun s => ?_)
  repeat' first
    | simp only [journalWrite_frame h_regs h_journal, raise0_frame h_regs h_seq h_rings h_det, h_det.eq]
    | refine Eq.trans (whenUp_frame (fun _ => ?_) _) ?_
    | split
    | dsimp only
    | with_reducible rfl

theorem execTelemetryConsumer_frame (h_regs : Blind.regs φ) (h_pending : Blind.pending φ) (h_out : Blind.out φ) (h_det : Blind.det φ) (consumer : W64) (s : State) (t' : State)
    (h : execTelemetryConsumer consumer s = .next t') : φ t' = φ s := by
  unfold execTelemetryConsumer at h
  refine perform_frame h_out h_pending h (fun s => ?_)
  repeat' first
    | simp only [set_frame h_regs, h_det.eq]
    | split
    | dsimp only
    | with_reducible rfl

theorem execSelfTestPhaseComplete_frame (h_regs : Blind.regs φ) (h_pkg : Blind.pkg φ) (h_time : Blind.time φ) (h_seq : Blind.seq φ) (h_pending : Blind.pending φ) (h_out : Blind.out φ) (h_pins : Blind.pins φ) (h_fence : Blind.fence φ) (h_power : Blind.power φ) (h_rigs : Blind.rigs φ) (h_treads : Blind.treads φ) (h_flights : Blind.flights φ) (h_ucs : Blind.ucs φ) (h_ropes : Blind.ropes φ) (h_bundles : Blind.bundles φ) (h_rings : Blind.rings φ) (h_svcs : Blind.svcs φ) (h_journal : Blind.journal φ) (h_det : Blind.det φ) (now : W64) (failed : FailedUnits) (found : Measured) (fatal : Bool) (s : State) (t' : State)
    (h : execSelfTestPhaseComplete now failed found fatal s = .next t') : φ t' = φ s := by
  unfold execSelfTestPhaseComplete at h
  refine perform_frame h_out h_pending h (fun s => ?_)
  repeat' first
    | simp only [at__frame h_time, beginReady_frame h_regs h_pkg h_ropes, bump_frame h_regs, failSelfTest_frame h_regs h_pkg h_seq h_out h_pins h_rings h_det, runPhase_frame h_regs h_seq h_out h_fence h_power h_rigs h_treads h_flights h_ucs h_ropes h_bundles h_rings h_svcs h_journal h_det, scanJournal_frame h_regs h_seq h_fence h_power h_treads h_ucs h_bundles h_rings h_journal h_det, set_frame h_regs]
    | split
    | dsimp only
    | with_reducible rfl

end Sys2Proof.Laws
end

