-- ==== Sys2Proof/Laws/DieLinksKeep.lean ====
section
/-!
SUPPORT. Frames of the commands of Sys2Proof/Machine/DieLinks.lean: what a command does not write stays as it was.
-/
namespace Sys2Proof.Laws
open Machine Machine.State

set_option linter.unusedSimpArgs false
set_option linter.unusedTactic false
set_option linter.unreachableTactic false
set_option linter.unusedVariables false

variable {α : Type} {φ : State → α}

theorem execDieLinkFenced_frame (h_regs : Blind.regs φ) (h_seq : Blind.seq φ) (h_pending : Blind.pending φ) (h_out : Blind.out φ) (h_bundles : Blind.bundles φ) (h_rings : Blind.rings φ) (h_det : Blind.det φ) (n : Nat) (s : State) (t' : State)
    (h : execDieLinkFenced n s = .next t') : φ t' = φ s := by
  unfold execDieLinkFenced at h
  refine perform_frame h_out h_pending h (fun s => ?_)
  repeat' first
    | simp only [fenceBundle_frame h_regs h_seq h_out h_bundles h_rings h_det]
    | split
    | dsimp only
    | with_reducible rfl

theorem execDlDisable_frame (h_regs : Blind.regs φ) (h_seq : Blind.seq φ) (h_pending : Blind.pending φ) (h_out : Blind.out φ) (h_bundles : Blind.bundles φ) (h_rings : Blind.rings φ) (h_det : Blind.det φ) (n : Nat) (value : W32) (s : State) (t' : State)
    (h : execDlDisable n value s = .next t') : φ t' = φ s := by
  unfold execDlDisable at h
  refine perform_frame h_out h_pending h (fun s => ?_)
  repeat' first
    | simp only [dlEnable_frame h_regs h_seq h_out h_bundles h_rings h_det]
    | refine Eq.trans (whenUp_frame (fun _ => ?_) _) ?_
    | split
    | dsimp only
    | with_reducible rfl

theorem execLaneTest_frame (h_regs : Blind.regs φ) (h_seq : Blind.seq φ) (h_pending : Blind.pending φ) (h_out : Blind.out φ) (h_bundles : Blind.bundles φ) (h_rings : Blind.rings φ) (h_journal : Blind.journal φ) (h_det : Blind.det φ) (n : Nat) (faultsAB faultsBA : List Nat) (s : State) (t' : State)
    (h : execLaneTest n faultsAB faultsBA s = .next t') : φ t' = φ s := by
  unfold execLaneTest at h
  refine perform_frame h_out h_pending h (fun s => ?_)
  repeat' first
    | simp only [beginTraining_frame h_regs h_bundles, fenceBundle_frame h_regs h_seq h_out h_bundles h_rings h_det, setBundle_frame h_bundles, spliceLane_frame h_regs h_seq h_bundles h_rings h_journal h_det]
    | with_reducible refine Eq.trans (foldl_frame (fun _ _ => ?_) _ _) ?_
    | split
    | dsimp only
    | with_reducible rfl

theorem execDlRetest_frame (h_regs : Blind.regs φ) (h_seq : Blind.seq φ) (h_pending : Blind.pending φ) (h_out : Blind.out φ) (h_bundles : Blind.bundles φ) (h_rings : Blind.rings φ) (h_journal : Blind.journal φ) (h_det : Blind.det φ) (n : Nat) (value : W32) (s : State) (t' : State)
    (h : execDlRetest n value s = .next t') : φ t' = φ s := by
  unfold execDlRetest at h
  refine perform_frame h_out h_pending h (fun s => ?_)
  repeat' first
    | simp only [dlEnable_frame h_regs h_seq h_out h_bundles h_rings h_det, journalSplices_frame h_regs h_journal, setBundle_frame h_bundles]
    | refine Eq.trans (whenUp_frame (fun _ => ?_) _) ?_
    | split
    | dsimp only
    | with_reducible rfl

theorem execDlTrainingTimeout_frame (h_regs : Blind.regs φ) (h_seq : Blind.seq φ) (h_pending : Blind.pending φ) (h_out : Blind.out φ) (h_bundles : Blind.bundles φ) (h_rings : Blind.rings φ) (h_det : Blind.det φ) (n : Nat) (s : State) (t' : State)
    (h : execDlTrainingTimeout n s = .next t') : φ t' = φ s := by
  unfold execDlTrainingTimeout at h
  refine perform_frame h_out h_pending h (fun s => ?_)
  repeat' first
    | simp only [failAttempt_frame h_regs h_seq h_out h_bundles h_rings h_det]
    | split
    | dsimp only
    | with_reducible rfl

theorem execDcpCapFlit_frame (h_regs : Blind.regs φ) (h_seq : Blind.seq φ) (h_pending : Blind.pending φ) (h_out : Blind.out φ) (h_bundles : Blind.bundles φ) (h_rings : Blind.rings φ) (h_det : Blind.det φ) (n : Nat) (cap : CapRec) (s : State) (t' : State)
    (h : execDcpCapFlit n cap s = .next t') : φ t' = φ s := by
  unfold execDcpCapFlit at h
  refine perform_frame h_out h_pending h (fun s => ?_)
  repeat' first
    | simp only [beginTraining_frame h_regs h_bundles, failAttempt_frame h_regs h_seq h_out h_bundles h_rings h_det, fenceBundle_frame h_regs h_seq h_out h_bundles h_rings h_det, raise0_frame h_regs h_seq h_rings h_det, set_frame h_regs, setBundle_frame h_bundles]
    | split
    | dsimp only
    | with_reducible rfl

theorem execDlReset_frame (h_regs : Blind.regs φ) (h_seq : Blind.seq φ) (h_pending : Blind.pending φ) (h_out : Blind.out φ) (h_rigs : Blind.rigs φ) (h_ropes : Blind.ropes φ) (h_bundles : Blind.bundles φ) (h_rings : Blind.rings φ) (h_svcs : Blind.svcs φ) (h_journal : Blind.journal φ) (h_sec : Blind.sec φ) (h_det : Blind.det φ) (n : Nat) (value : W32) (fatal : Nat) (lost : List FabReq) (s : State) (t' : State)
    (h : execDlReset n value fatal lost s = .next t') : φ t' = φ s := by
  unfold execDlReset at h
  refine perform_frame h_out h_pending h (fun s => ?_)
  repeat' first
    | simp only [dlEnable_frame h_regs h_seq h_out h_bundles h_rings h_det, fabError_frame h_regs h_seq h_rings h_det, fabReply_frame h_regs h_seq h_out h_ropes h_rings h_journal h_sec h_det, findCause_frame h_regs h_out h_rigs h_ropes h_svcs, resetEnd_frame h_regs h_seq h_out h_bundles h_rings h_det]
    | with_reducible refine Eq.trans (foldl_frame (fun _ _ => ?_) _ _) ?_
    | refine Eq.trans (whenUp_frame (fun _ => ?_) _) ?_
    | split
    | dsimp only
    | with_reducible rfl

theorem execDcpMsgFlit_frame (h_regs : Blind.regs φ) (h_seq : Blind.seq φ) (h_pending : Blind.pending φ) (h_out : Blind.out φ) (h_bundles : Blind.bundles φ) (h_rings : Blind.rings φ) (h_journal : Blind.journal φ) (h_sec : Blind.sec φ) (h_det : Blind.det φ) (n dir : Nat) (flit : List Byte) (bad : Bool) (s : State) (t' : State)
    (h : execDcpMsgFlit n dir flit bad s = .next t') : φ t' = φ s := by
  unfold execDcpMsgFlit at h
  refine perform_frame h_out h_pending h (fun s => ?_)
  repeat' first
    | simp only [dieFlit_frame h_regs h_seq h_out h_bundles h_rings h_journal h_sec h_det]
    | split
    | dsimp only
    | with_reducible rfl

theorem execDcpIdleFlit_frame (h_regs : Blind.regs φ) (h_seq : Blind.seq φ) (h_pending : Blind.pending φ) (h_out : Blind.out φ) (h_bundles : Blind.bundles φ) (h_rings : Blind.rings φ) (h_journal : Blind.journal φ) (h_sec : Blind.sec φ) (h_det : Blind.det φ) (n dir : Nat) (flit : List Byte) (bad : Bool) (s : State) (t' : State)
    (h : execDcpIdleFlit n dir flit bad s = .next t') : φ t' = φ s := by
  unfold execDcpIdleFlit at h
  refine perform_frame h_out h_pending h (fun s => ?_)
  repeat' first
    | simp only [dieFlit_frame h_regs h_seq h_out h_bundles h_rings h_journal h_sec h_det]
    | split
    | dsimp only
    | with_reducible rfl

theorem execDcpReplayTmo_frame (h_regs : Blind.regs φ) (h_pending : Blind.pending φ) (h_out : Blind.out φ) (h_bundles : Blind.bundles φ) (n dir : Nat) (s : State) (t' : State)
    (h : execDcpReplayTmo n dir s = .next t') : φ t' = φ s := by
  unfold execDcpReplayTmo at h
  refine perform_frame h_out h_pending h (fun s => ?_)
  repeat' first
    | simp only [dieReplay_frame h_regs h_bundles]
    | split
    | dsimp only
    | with_reducible rfl

end Sys2Proof.Laws
end

