-- ==== Sys2Proof/Laws/FencesFrame.lean ====
section
/-!
SUPPORT. Frames of the operations of Sys2Proof/Machine/Fences.lean: what none of them writes stays as it was.
-/
namespace Sys2Proof.Laws
open Machine Machine.State

set_option linter.unusedSimpArgs false
set_option linter.unusedTactic false
set_option linter.unreachableTactic false
set_option linter.unusedVariables false

variable {α : Type} {φ : State → α}

theorem detect_frame (h_regs : Blind.regs φ) (h_seq : Blind.seq φ) (h_rings : Blind.rings φ) (h_journal : Blind.journal φ) (h_sec : Blind.sec φ) (h_det : Blind.det φ) (point target addr gf code : Nat) (body : List Nat) (s : State) :
    φ (detect point target addr gf code body s).2 = φ s := by
  unfold detect
  repeat' first
    | simp only [hitInjection_frame h_regs h_seq h_rings h_journal h_sec h_det, raise_frame h_regs h_seq h_rings h_det]
    | split
    | dsimp only
    | with_reducible rfl

theorem detect_frame_of (h_regs : Blind.regs φ) (h_seq : Blind.seq φ) (h_rings : Blind.rings φ) (h_journal : Blind.journal φ) (h_sec : Blind.sec φ) (h_det : Blind.det φ) {point : Nat} {target : Nat} {addr : Nat} {gf : Nat} {code : Nat} {body : List Nat} {s : State} {t' : State} {x0}
    (h' : detect point target addr gf code body s = (x0, t')) : φ t' = φ s := by
  rw [← detect_frame h_regs h_seq h_rings h_journal h_sec h_det point target addr gf code body s, h']

theorem beginRerig_frame (h_regs : Blind.regs φ) (h_rigs : Blind.rigs φ) (p : Nat) (s : State) :
    φ (beginRerig p s) = φ s := by
  unfold beginRerig
  repeat' first
    | simp only [set_frame h_regs, setRig_frame h_rigs]
    | split
    | dsimp only
    | with_reducible rfl

theorem madeRerig_frame (h_rigs : Blind.rigs φ) (p : Nat) (s : State) :
    φ (madeRerig p s) = φ s := by
  unfold madeRerig
  repeat' first
    | simp only [setRig_frame h_rigs]
    | split
    | dsimp only
    | with_reducible rfl

end Sys2Proof.Laws
end

