-- ==== Sys2Proof/Laws/FencesKeep.lean ====
section
/-!
SUPPORT. Frames of the commands of Sys2Proof/Machine/Fences.lean: what a command does not write stays as it was.
-/
namespace Sys2Proof.Laws
open Machine Machine.State

set_option linter.unusedSimpArgs false
set_option linter.unusedTactic false
set_option linter.unreachableTactic false
set_option linter.unusedVariables false

variable {α : Type} {φ : State → α}

theorem execMacResidue_frame (h_regs : Blind.regs φ) (h_seq : Blind.seq φ) (h_pending : Blind.pending φ) (h_out : Blind.out φ) (h_fence : Blind.fence φ) (h_power : Blind.power φ) (h_rigs : Blind.rigs φ) (h_treads : Blind.treads φ) (h_flights : Blind.flights φ) (h_ropes : Blind.ropes φ) (h_rings : Blind.rings φ) (h_svcs : Blind.svcs φ) (h_journal : Blind.journal φ) (h_sec : Blind.sec φ) (h_det : Blind.det φ) (t : Nat) (s : State) (t' : State)
    (h : execMacResidue t s = .next t') : φ t' = φ s := by
  unfold execMacResidue at h
  refine perform_frame h_out h_pending h (fun s => ?_)
  repeat' first
    | simp only [detect_frame h_regs h_seq h_rings h_journal h_sec h_det, fenceTread_frame h_regs h_seq h_out h_fence h_power h_rigs h_treads h_flights h_ropes h_rings h_svcs h_journal h_det]
    | split
    | refine Eq.trans (detect_frame_of h_regs h_seq h_rings h_journal h_sec h_det ‹_›) ?_
    | dsimp only
    | with_reducible rfl

theorem execTreadParity_frame (h_regs : Blind.regs φ) (h_seq : Blind.seq φ) (h_pending : Blind.pending φ) (h_out : Blind.out φ) (h_fence : Blind.fence φ) (h_power : Blind.power φ) (h_rigs : Blind.rigs φ) (h_treads : Blind.treads φ) (h_flights : Blind.flights φ) (h_ropes : Blind.ropes φ) (h_rings : Blind.rings φ) (h_svcs : Blind.svcs φ) (h_journal : Blind.journal φ) (h_sec : Blind.sec φ) (h_det : Blind.det φ) (t : Nat) (inst : Bool) (word : Nat) (s : State) (t' : State)
    (h : execTreadParity t inst word s = .next t') : φ t' = φ s := by
  unfold execTreadParity at h
  refine perform_frame h_out h_pending h (fun s => ?_)
  repeat' first
    | simp only [detect_frame h_regs h_seq h_rings h_journal h_sec h_det, fenceTread_frame h_regs h_seq h_out h_fence h_power h_rigs h_treads h_flights h_ropes h_rings h_svcs h_journal h_det]
    | split
    | refine Eq.trans (detect_frame_of h_regs h_seq h_rings h_journal h_sec h_det ‹_›) ?_
    | dsimp only
    | with_reducible rfl

theorem execRouterParity_frame (h_regs : Blind.regs φ) (h_seq : Blind.seq φ) (h_pending : Blind.pending φ) (h_out : Blind.out φ) (h_fence : Blind.fence φ) (h_power : Blind.power φ) (h_rigs : Blind.rigs φ) (h_treads : Blind.treads φ) (h_flights : Blind.flights φ) (h_ropes : Blind.ropes φ) (h_rings : Blind.rings φ) (h_svcs : Blind.svcs φ) (h_journal : Blind.journal φ) (h_sec : Blind.sec φ) (h_det : Blind.det φ) (gf : Nat) (s : State) (t' : State)
    (h : execRouterParity gf s = .next t') : φ t' = φ s := by
  unfold execRouterParity at h
  refine perform_frame h_out h_pending h (fun s => ?_)
  repeat' first
    | simp only [detect_frame h_regs h_seq h_rings h_journal h_sec h_det, fenceFlight_frame h_regs h_seq h_out h_fence h_power h_rigs h_treads h_flights h_ropes h_rings h_svcs h_journal h_det]
    | split
    | refine Eq.trans (detect_frame_of h_regs h_seq h_rings h_journal h_sec h_det ‹_›) ?_
    | dsimp only
    | with_reducible rfl

theorem execSbParity_frame (h_regs : Blind.regs φ) (h_seq : Blind.seq φ) (h_pending : Blind.pending φ) (h_out : Blind.out φ) (h_fence : Blind.fence φ) (h_power : Blind.power φ) (h_rigs : Blind.rigs φ) (h_treads : Blind.treads φ) (h_flights : Blind.flights φ) (h_ropes : Blind.ropes φ) (h_rings : Blind.rings φ) (h_svcs : Blind.svcs φ) (h_journal : Blind.journal φ) (h_sec : Blind.sec φ) (h_det : Blind.det φ) (gf word : Nat) (s : State) (t' : State)
    (h : execSbParity gf word s = .next t') : φ t' = φ s := by
  unfold execSbParity at h
  refine perform_frame h_out h_pending h (fun s => ?_)
  repeat' first
    | simp only [detect_frame h_regs h_seq h_rings h_journal h_sec h_det, fenceFlight_frame h_regs h_seq h_out h_fence h_power h_rigs h_treads h_flights h_ropes h_rings h_svcs h_journal h_det]
    | split
    | refine Eq.trans (detect_frame_of h_regs h_seq h_rings h_journal h_sec h_det ‹_›) ?_
    | dsimp only
    | with_reducible rfl

theorem execRerigRowShift_frame (h_regs : Blind.regs φ) (h_time : Blind.time φ) (h_seq : Blind.seq φ) (h_pending : Blind.pending φ) (h_out : Blind.out φ) (h_fence : Blind.fence φ) (h_power : Blind.power φ) (h_rigs : Blind.rigs φ) (h_treads : Blind.treads φ) (h_flights : Blind.flights φ) (h_memCheck : Blind.memCheck φ) (h_ucs : Blind.ucs φ) (h_ropes : Blind.ropes φ) (h_rings : Blind.rings φ) (h_svcs : Blind.svcs φ) (h_journal : Blind.journal φ) (h_sec : Blind.sec φ) (h_det : Blind.det φ) (now : W64) (r : SlotRead) (s : State) (t' : State)
    (h : execRerigRowShift now r s = .next t') : φ t' = φ s := by
  unfold execRerigRowShift at h
  refine perform_frame h_out h_pending h (fun s => ?_)
  repeat' first
    | simp only [at__frame h_time, beginRerig_frame h_regs h_rigs, exhaustRole_frame h_regs h_seq h_out h_power h_rigs h_treads h_flights h_ropes h_rings h_svcs h_det, madeRerig_frame h_rigs, setupTread_frame h_treads, shiftRow_frame h_fence, slotRead_frame h_regs h_seq h_out h_rigs h_memCheck h_ucs h_ropes h_rings h_svcs h_journal h_sec h_det]
    | with_reducible refine Eq.trans (foldl_frame (fun _ _ => ?_) _ _) ?_
    | split
    | refine Eq.trans (slotRead_frame_of h_regs h_seq h_out h_rigs h_memCheck h_ucs h_ropes h_rings h_svcs h_journal h_sec h_det ‹_›) ?_
    | dsimp only
    | with_reducible rfl

theorem execRerigRoleMove_frame (h_regs : Blind.regs φ) (h_time : Blind.time φ) (h_seq : Blind.seq φ) (h_pending : Blind.pending φ) (h_out : Blind.out φ) (h_power : Blind.power φ) (h_rigs : Blind.rigs φ) (h_treads : Blind.treads φ) (h_chans : Blind.chans φ) (h_flights : Blind.flights φ) (h_memCheck : Blind.memCheck φ) (h_ucs : Blind.ucs φ) (h_ropes : Blind.ropes φ) (h_rings : Blind.rings φ) (h_svcs : Blind.svcs φ) (h_journal : Blind.journal φ) (h_sec : Blind.sec φ) (h_det : Blind.det φ) (now : W64) (p : Nat) (bad : List (Nat × Nat)) (s : State) (t' : State)
    (h : execRerigRoleMove now p bad s = .next t') : φ t' = φ s := by
  unfold execRerigRoleMove at h
  refine perform_frame h_out h_pending h (fun s => ?_)
  repeat' first
    | simp only [at__frame h_time, beginRerig_frame h_regs h_rigs, exhaustRole_frame h_regs h_seq h_out h_power h_rigs h_treads h_flights h_ropes h_rings h_svcs h_det, madeRerig_frame h_rigs, moveRole_frame h_regs h_power h_rigs h_treads h_chans h_flights, slotRead_frame h_regs h_seq h_out h_rigs h_memCheck h_ucs h_ropes h_rings h_svcs h_journal h_sec h_det]
    | split
    | refine Eq.trans (slotRead_frame_of h_regs h_seq h_out h_rigs h_memCheck h_ucs h_ropes h_rings h_svcs h_journal h_sec h_det ‹_›) ?_
    | dsimp only
    | with_reducible rfl

theorem execRerigComplete_frame (h_regs : Blind.regs φ) (h_time : Blind.time φ) (h_seq : Blind.seq φ) (h_pending : Blind.pending φ) (h_out : Blind.out φ) (h_rigs : Blind.rigs φ) (h_treads : Blind.treads φ) (h_flights : Blind.flights φ) (h_ctxs : Blind.ctxs φ) (h_landings : Blind.landings φ) (h_mem : Blind.mem φ) (h_memCheck : Blind.memCheck φ) (h_memEpoch : Blind.memEpoch φ) (h_memKey : Blind.memKey φ) (h_ucs : Blind.ucs φ) (h_ropes : Blind.ropes φ) (h_fabric : Blind.fabric φ) (h_rings : Blind.rings φ) (h_svcs : Blind.svcs φ) (h_journal : Blind.journal φ) (h_sec : Blind.sec φ) (h_det : Blind.det φ) (now : W64) (p : Nat) (s : State) (t' : State)
    (h : execRerigComplete now p s = .next t') : φ t' = φ s := by
  unfold execRerigComplete at h
  refine perform_frame h_out h_pending h (fun s => ?_)
  repeat' first
    | simp only [at__frame h_time, bump_frame h_regs, deliverWaiting_frame h_regs h_seq h_out h_rigs h_treads h_flights h_ctxs h_landings h_mem h_memCheck h_memEpoch h_memKey h_ucs h_ropes h_fabric h_rings h_svcs h_journal h_sec h_det, set_frame h_regs, setRig_frame h_rigs, showCapacity_frame h_regs]
    | split
    | dsimp only
    | with_reducible rfl

end Sys2Proof.Laws
end

