-- ==== Sys2Proof/Laws/FlightsKeep.lean ====
section
/-!
SUPPORT. Frames of the commands of Sys2Proof/Machine/Flights.lean: what a command does not write stays as it was.
-/
namespace Sys2Proof.Laws
open Machine Machine.State

set_option linter.unusedSimpArgs false
set_option linter.unusedTactic false
set_option linter.unreachableTactic false
set_option linter.unusedVariables false

variable {α : Type} {φ : State → α}

theorem execFltPush_frame (h_regs : Blind.regs φ) (h_seq : Blind.seq φ) (h_pending : Blind.pending φ) (h_out : Blind.out φ) (h_flights : Blind.flights φ) (h_rings : Blind.rings φ) (h_det : Blind.det φ) (who : Who) (gf w : Nat) (value : W32) (s : State) (t' : State)
    (h : execFltPush who gf w value s = .next t') : φ t' = φ s := by
  unfold execFltPush at h
  refine perform_frame h_out h_pending h (fun s => ?_)
  repeat' first
    | simp only [writePush_frame h_regs h_seq h_flights h_rings h_det]
    | split
    | dsimp only
    | with_reducible rfl

theorem execLoadStart_frame (h_regs : Blind.regs φ) (h_seq : Blind.seq φ) (h_pending : Blind.pending φ) (h_out : Blind.out φ) (h_rigs : Blind.rigs φ) (h_treads : Blind.treads φ) (h_flights : Blind.flights φ) (h_ctxs : Blind.ctxs φ) (h_landings : Blind.landings φ) (h_mem : Blind.mem φ) (h_memCheck : Blind.memCheck φ) (h_memEpoch : Blind.memEpoch φ) (h_memKey : Blind.memKey φ) (h_ucs : Blind.ucs φ) (h_ropes : Blind.ropes φ) (h_fabric : Blind.fabric φ) (h_rings : Blind.rings φ) (h_svcs : Blind.svcs φ) (h_journal : Blind.journal φ) (h_sec : Blind.sec φ) (h_det : Blind.det φ) (gf : Nat) (bad : List (Nat × Nat)) (far : Nat × List Byte × List Byte) (s : State) (t' : State)
    (h : execLoadStart gf bad far s = .next t') : φ t' = φ s := by
  unfold execLoadStart at h
  refine perform_frame h_out h_pending h (fun s => ?_)
  repeat' first
    | simp only [flightAccess_frame h_regs h_seq h_out h_rigs h_ropes h_rings h_svcs h_det, flightError_frame h_regs h_seq h_out h_rigs h_ropes h_rings h_svcs h_det, readPieces_frame h_regs h_seq h_out h_rigs h_treads h_flights h_ctxs h_landings h_mem h_memCheck h_memEpoch h_memKey h_ucs h_ropes h_fabric h_rings h_svcs h_journal h_sec h_det, setFlight_frame h_flights]
    | split
    | refine Eq.trans (readPieces_frame_of h_regs h_seq h_out h_rigs h_treads h_flights h_ctxs h_landings h_mem h_memCheck h_memEpoch h_memKey h_ucs h_ropes h_fabric h_rings h_svcs h_journal h_sec h_det ‹_›) ?_
    | dsimp only
    | with_reducible rfl

theorem execLoadComplete_frame (h_pending : Blind.pending φ) (h_out : Blind.out φ) (h_flights : Blind.flights φ) (gf : Nat) (s : State) (t' : State)
    (h : execLoadComplete gf s = .next t') : φ t' = φ s := by
  unfold execLoadComplete at h
  refine perform_frame h_out h_pending h (fun s => ?_)
  repeat' first
    | simp only [setFlight_frame h_flights]
    | with_reducible refine Eq.trans (foldl_frame (fun _ _ => ?_) _ _) ?_
    | split
    | dsimp only
    | with_reducible rfl

theorem execTileStart_frame (h_regs : Blind.regs φ) (h_seq : Blind.seq φ) (h_pending : Blind.pending φ) (h_out : Blind.out φ) (h_rigs : Blind.rigs φ) (h_flights : Blind.flights φ) (h_ropes : Blind.ropes φ) (h_rings : Blind.rings φ) (h_svcs : Blind.svcs φ) (h_det : Blind.det φ) (a : ArrayAt) (waited : Nat × Nat) (s : State) (t' : State)
    (h : execTileStart a waited s = .next t') : φ t' = φ s := by
  unfold execTileStart at h
  refine perform_frame h_out h_pending h (fun s => ?_)
  repeat' first
    | simp only [countWaits_frame h_regs, flightError_frame h_regs h_seq h_out h_rigs h_ropes h_rings h_svcs h_det, startTile_frame h_flights]
    | split
    | dsimp only
    | with_reducible rfl

theorem execTileAccumulated_frame (h_regs : Blind.regs φ) (h_pending : Blind.pending φ) (h_out : Blind.out φ) (h_treads : Blind.treads φ) (h_flights : Blind.flights φ) (gf arr : Nat) (s : State) (t' : State)
    (h : execTileAccumulated gf arr s = .next t') : φ t' = φ s := by
  unfold execTileAccumulated at h
  refine perform_frame h_out h_pending h (fun s => ?_)
  repeat' first
    | simp only [bump_frame h_regs, setArray_frame h_flights, setTread_frame h_treads]
    | with_reducible refine Eq.trans (foldl_frame (fun _ _ => ?_) _ _) ?_
    | split
    | dsimp only
    | with_reducible rfl

theorem execDrainComplete_frame (h_regs : Blind.regs φ) (h_seq : Blind.seq φ) (h_free : Blind.free φ) (h_pending : Blind.pending φ) (h_out : Blind.out φ) (h_rigs : Blind.rigs φ) (h_treads : Blind.treads φ) (h_flights : Blind.flights φ) (h_stages : Blind.stages φ) (h_ctxs : Blind.ctxs φ) (h_landings : Blind.landings φ) (h_parts : Blind.parts φ) (h_reds : Blind.reds φ) (h_mem : Blind.mem φ) (h_memCheck : Blind.memCheck φ) (h_memEpoch : Blind.memEpoch φ) (h_memKey : Blind.memKey φ) (h_ucs : Blind.ucs φ) (h_ropes : Blind.ropes φ) (h_fabric : Blind.fabric φ) (h_rings : Blind.rings φ) (h_svcs : Blind.svcs φ) (h_journal : Blind.journal φ) (h_sec : Blind.sec φ) (h_det : Blind.det φ) (a : ArrayAt) (bad : List (Nat × Nat)) (far waited : Nat) (s : State) (t' : State)
    (h : execDrainComplete a bad far waited s = .next t') : φ t' = φ s := by
  unfold execDrainComplete at h
  refine perform_frame h_out h_pending h (fun s => ?_)
  repeat' first
    | simp -zeta only [bump_frame h_regs, drainDone_frame h_regs h_seq h_free h_out h_rigs h_flights h_stages h_parts h_reds h_ropes h_rings h_svcs h_journal h_sec h_det, drainWrites_frame h_regs h_seq h_free h_out h_rigs h_treads h_flights h_ctxs h_landings h_mem h_memCheck h_memEpoch h_memKey h_ucs h_ropes h_fabric h_rings h_svcs h_journal h_sec h_det, flightAccess_frame h_regs h_seq h_out h_rigs h_ropes h_rings h_svcs h_det, setArray_frame h_flights]
    | split
    | refine Eq.trans (drainWrites_frame_of h_regs h_seq h_free h_out h_rigs h_treads h_flights h_ctxs h_landings h_mem h_memCheck h_memEpoch h_memKey h_ucs h_ropes h_fabric h_rings h_svcs h_journal h_sec h_det ‹_›) ?_
    | extract_lets
    | simp +zetaDelta only [bump_frame h_regs, drainDone_frame h_regs h_seq h_free h_out h_rigs h_flights h_stages h_parts h_reds h_ropes h_rings h_svcs h_journal h_sec h_det, drainWrites_frame h_regs h_seq h_free h_out h_rigs h_treads h_flights h_ctxs h_landings h_mem h_memCheck h_memEpoch h_memKey h_ucs h_ropes h_fabric h_rings h_svcs h_journal h_sec h_det, flightAccess_frame h_regs h_seq h_out h_rigs h_ropes h_rings h_svcs h_det, setArray_frame h_flights]
    | with_reducible rfl

end Sys2Proof.Laws
end

