-- ==== Sys2Proof/Laws/Flit.lean ====
section
/-!
SUPPORT. Bytes of numbers, the CRC of a flit, and what a built flit reads back as (10 R357, R358).
-/
namespace Sys2Proof.Machine

@[simp] theorem leBytes_length (n v : Nat) : (leBytes n v).length = n := by
  induction n generalizing v with
  | zero => rfl
  | succ n ih => simp [leBytes, ih]

@[simp] theorem beBytes_length (n v : Nat) : (beBytes n v).length = n := by simp [beBytes]

@[simp] theorem fit_length {α : Type} (d : α) (n : Nat) (l : List α) : (fit d n l).length = n := by
  induction n generalizing l with
  | zero => rfl
  | succ n ih => cases l <;> simp [fit, ih]

theorem ofLe_leBytes (n v : Nat) : ofLe (leBytes n v) = v % 256 ^ n := by
  induction n generalizing v with
  | zero => simp [leBytes, ofLe, Nat.mod_one]
  | succ n ih =>
    rw [show (256 : Nat) ^ (n + 1) = 256 * 256 ^ n from Nat.pow_succ', Nat.mod_mul, leBytes, ofLe, ih, BitVec.toNat_ofNat]

theorem ofBe_beBytes (n v : Nat) : ofBe (beBytes n v) = v % 256 ^ n := by simp [ofBe, beBytes, ofLe_leBytes]

theorem crcShift_lt {c : Nat} (h : c < 2 ^ 32) : crcShift c < 2 ^ 32 := by
  unfold crcShift
  split
  · exact Nat.xor_lt_two_pow (by omega) (by decide)
  · omega

theorem crcByte_lt {c : Nat} (b : Byte) (h : c < 2 ^ 32) : crcByte c b < 2 ^ 32 := by
  have hb : b.toNat < 2 ^ 32 := Nat.lt_trans b.isLt (by decide)
  unfold crcByte
  iterate 8 apply crcShift_lt
  exact Nat.xor_lt_two_pow h hb

theorem crc32c_lt (l : List Byte) : crc32c l < 2 ^ 32 := by
  have : ∀ (l : List Byte) (c : Nat), c < 2 ^ 32 → l.foldl crcByte c < 2 ^ 32 := by
    intro l
    induction l with
    | nil => exact fun c h => h
    | cons b r ih => exact fun c h => ih _ (crcByte_lt b h)
  exact Nat.xor_lt_two_pow (this l _ (by decide)) (by decide)

@[simp] theorem flitOf_length (h : FlitHdr) (b : List Byte) : (flitOf h b).length = 271 := by simp [flitOf]

theorem flitOf_take (h : FlitHdr) (b : List Byte) : (flitOf h b).take 267 = beBytes 11 h.code ++ fit 0 256 b := by
  unfold flitOf
  exact List.take_left' (by simp)

theorem flitOf_drop (h : FlitHdr) (b : List Byte) :
    (flitOf h b).drop 267 = leBytes 4 (crc32c (beBytes 11 h.code ++ fit 0 256 b)) := by
  unfold flitOf
  exact List.drop_left' (by simp)

/-- A built flit's header reads back as its 88 bits. -/
theorem hdrOf_flitOf (h : FlitHdr) (b : List Byte) : hdrOf (flitOf h b) = flitHdr (h.code % 256 ^ 11) := by
  have : (flitOf h b).take 11 = beBytes 11 h.code := by
    unfold flitOf
    rw [List.append_assoc]
    exact List.take_left' (by simp)
  rw [hdrOf, this, ofBe_beBytes]

/-- A built flit's body. -/
theorem flitBody_flitOf (h : FlitHdr) (b : List Byte) : flitBody (flitOf h b) = fit 0 256 b := by
  unfold flitBody flitOf
  rw [List.append_assoc, List.drop_left' (by simp)]
  exact List.take_left' (by simp)

/-- A built flit is bad only for its header (R358). -/
theorem flitBad_flitOf (h : FlitHdr) (b : List Byte) :
    flitBad (flitOf h b) = (decide (3 < (flitHdr (h.code % 256 ^ 11)).type) || (flitHdr (h.code % 256 ^ 11)).rsv != 0) := by
  have hc : ofLe ((flitOf h b).drop 267) = crc32c ((flitOf h b).take 267) := by
    rw [flitOf_drop, flitOf_take, ofLe_leBytes]
    exact Nat.mod_eq_of_lt (crc32c_lt _)
  simp [flitBad, hc, hdrOf_flitOf]

end Sys2Proof.Machine
end

