-- ==== Sys2Proof/Laws/HostPortFrame.lean ====
section
/-!
SUPPORT. Frames of the operations of Sys2Proof/Machine/HostPort.lean: what none of them writes stays as it was.
-/
namespace Sys2Proof.Laws
open Machine Machine.State

set_option linter.unusedSimpArgs false
set_option linter.unusedTactic false
set_option linter.unreachableTactic false
set_option linter.unusedVariables false

variable {α : Type} {φ : State → α}

theorem windowParts_frame (h_regs : Blind.regs φ) (h_seq : Blind.seq φ) (h_out : Blind.out φ) (h_rigs : Blind.rigs φ) (h_treads : Blind.treads φ) (h_flights : Blind.flights φ) (h_ctxs : Blind.ctxs φ) (h_landings : Blind.landings φ) (h_mem : Blind.mem φ) (h_memCheck : Blind.memCheck φ) (h_memEpoch : Blind.memEpoch φ) (h_memKey : Blind.memKey φ) (h_ucs : Blind.ucs φ) (h_ropes : Blind.ropes φ) (h_rings : Blind.rings φ) (h_svcs : Blind.svcs φ) (h_journal : Blind.journal φ) (h_sec : Blind.sec φ) (h_det : Blind.det φ) (a : Agent) (write : Bool) (bad : Tbl Nat) (a0 : List (Nat × Nat)) (a1 a2 : List Byte) (s : State) :
    φ (windowParts a write bad a0 a1 a2 s).2.2 = φ s := by
  induction a0 generalizing a1 a2 s with
  | nil => unfold windowParts; rfl
  | cons x r ih =>
    unfold windowParts
    repeat' first
      | simp only [fabError_frame h_regs h_seq h_rings h_det, fabPerform_frame h_regs h_seq h_out h_rigs h_treads h_flights h_ctxs h_landings h_mem h_memCheck h_memEpoch h_memKey h_ucs h_ropes h_rings h_svcs h_journal h_sec h_det, ih]
      | split
      | refine Eq.trans (fabPerform_frame_of h_regs h_seq h_out h_rigs h_treads h_flights h_ctxs h_landings h_mem h_memCheck h_memEpoch h_memKey h_ucs h_ropes h_rings h_svcs h_journal h_sec h_det ‹_›) ?_
      | dsimp only
      | with_reducible rfl

theorem windowParts_frame_of (h_regs : Blind.regs φ) (h_seq : Blind.seq φ) (h_out : Blind.out φ) (h_rigs : Blind.rigs φ) (h_treads : Blind.treads φ) (h_flights : Blind.flights φ) (h_ctxs : Blind.ctxs φ) (h_landings : Blind.landings φ) (h_mem : Blind.mem φ) (h_memCheck : Blind.memCheck φ) (h_memEpoch : Blind.memEpoch φ) (h_memKey : Blind.memKey φ) (h_ucs : Blind.ucs φ) (h_ropes : Blind.ropes φ) (h_rings : Blind.rings φ) (h_svcs : Blind.svcs φ) (h_journal : Blind.journal φ) (h_sec : Blind.sec φ) (h_det : Blind.det φ) {a : Agent} {write : Bool} {bad : Tbl Nat} {a0 : List (Nat × Nat)} {a1 : List Byte} {a2 : List Byte} {s : State} {t' : State} {x0 x1}
    (h' : windowParts a write bad a0 a1 a2 s = (x0, x1, t')) : φ t' = φ s := by
  rw [← windowParts_frame h_regs h_seq h_out h_rigs h_treads h_flights h_ctxs h_landings h_mem h_memCheck h_memEpoch h_memKey h_ucs h_ropes h_rings h_svcs h_journal h_sec h_det a write bad a0 a1 a2 s, h']

theorem endDesc_frame (h_regs : Blind.regs φ) (h_seq : Blind.seq φ) (h_hces : Blind.hces φ) (h_rings : Blind.rings φ) (h_det : Blind.det φ) (e index status detail : Nat) (s : State) :
    φ (endDesc e index status detail s) = φ s := by
  unfold endDesc
  repeat' first
    | simp only [raise_frame h_regs h_seq h_rings h_det, set_frame h_regs, setHce_frame h_hces]
    | split
    | dsimp only
    | with_reducible rfl

theorem readDesc_frame (h_out : Blind.out φ) (e : Nat) (s : State) :
    φ (readDesc e s) = φ s := by
  unfold readDesc
  repeat' first
    | simp only [put_frame h_out]
    | split
    | dsimp only
    | with_reducible rfl

theorem startDesc_frame (h_regs : Blind.regs φ) (h_seq : Blind.seq φ) (h_out : Blind.out φ) (h_hces : Blind.hces φ) (h_rings : Blind.rings φ) (h_det : Blind.det φ) (e : Nat) (kinds : Nat → Bool) (bytes : List Byte) (act : HceDesc → Nat → State → State) (s : State) (h_act : ∀ x0 x1 s, φ (act x0 x1 s) = φ s) :
    φ (startDesc e kinds bytes act s) = φ s := by
  unfold startDesc
  repeat' first
    | simp only [endDesc_frame h_regs h_seq h_hces h_rings h_det, readDesc_frame h_out, set_frame h_regs, setHce_frame h_hces, showHce_frame h_regs, h_act]
    | split
    | dsimp only
    | with_reducible rfl

theorem hceWrite_frame (h_regs : Blind.regs φ) (h_seq : Blind.seq φ) (h_out : Blind.out φ) (h_rigs : Blind.rigs φ) (h_treads : Blind.treads φ) (h_flights : Blind.flights φ) (h_ctxs : Blind.ctxs φ) (h_landings : Blind.landings φ) (h_mem : Blind.mem φ) (h_memCheck : Blind.memCheck φ) (h_memEpoch : Blind.memEpoch φ) (h_memKey : Blind.memKey φ) (h_ucs : Blind.ucs φ) (h_ropes : Blind.ropes φ) (h_fabric : Blind.fabric φ) (h_rings : Blind.rings φ) (h_svcs : Blind.svcs φ) (h_journal : Blind.journal φ) (h_sec : Blind.sec φ) (h_det : Blind.det φ) (e : Nat) (d : HceDesc) (data : List Byte) (bad : Tbl Nat) (s : State) :
    φ (hceWrite e d data bad s).2 = φ s := by
  unfold hceWrite
  repeat' first
    | simp only [engWrite_frame h_regs h_seq h_out h_rigs h_treads h_flights h_ctxs h_landings h_mem h_memCheck h_memEpoch h_memKey h_ucs h_ropes h_fabric h_rings h_svcs h_journal h_sec h_det, windowParts_frame h_regs h_seq h_out h_rigs h_treads h_flights h_ctxs h_landings h_mem h_memCheck h_memEpoch h_memKey h_ucs h_ropes h_rings h_svcs h_journal h_sec h_det]
    | split
    | refine Eq.trans (engWrite_frame_of h_regs h_seq h_out h_rigs h_treads h_flights h_ctxs h_landings h_mem h_memCheck h_memEpoch h_memKey h_ucs h_ropes h_fabric h_rings h_svcs h_journal h_sec h_det ‹_›) ?_
    | refine Eq.trans (windowParts_frame_of h_regs h_seq h_out h_rigs h_treads h_flights h_ctxs h_landings h_mem h_memCheck h_memEpoch h_memKey h_ucs h_ropes h_rings h_svcs h_journal h_sec h_det ‹_›) ?_
    | dsimp only
    | with_reducible rfl

theorem hceWrite_frame_of (h_regs : Blind.regs φ) (h_seq : Blind.seq φ) (h_out : Blind.out φ) (h_rigs : Blind.rigs φ) (h_treads : Blind.treads φ) (h_flights : Blind.flights φ) (h_ctxs : Blind.ctxs φ) (h_landings : Blind.landings φ) (h_mem : Blind.mem φ) (h_memCheck : Blind.memCheck φ) (h_memEpoch : Blind.memEpoch φ) (h_memKey : Blind.memKey φ) (h_ucs : Blind.ucs φ) (h_ropes : Blind.ropes φ) (h_fabric : Blind.fabric φ) (h_rings : Blind.rings φ) (h_svcs : Blind.svcs φ) (h_journal : Blind.journal φ) (h_sec : Blind.sec φ) (h_det : Blind.det φ) {e : Nat} {d : HceDesc} {data : List Byte} {bad : Tbl Nat} {s : State} {t' : State} {x0}
    (h' : hceWrite e d data bad s = (x0, t')) : φ t' = φ s := by
  rw [← hceWrite_frame h_regs h_seq h_out h_rigs h_treads h_flights h_ctxs h_landings h_mem h_memCheck h_memEpoch h_memKey h_ucs h_ropes h_fabric h_rings h_svcs h_journal h_sec h_det e d data bad s, h']

theorem copyIn_frame (h_regs : Blind.regs φ) (h_seq : Blind.seq φ) (h_out : Blind.out φ) (h_rigs : Blind.rigs φ) (h_treads : Blind.treads φ) (h_flights : Blind.flights φ) (h_ctxs : Blind.ctxs φ) (h_landings : Blind.landings φ) (h_mem : Blind.mem φ) (h_memCheck : Blind.memCheck φ) (h_memEpoch : Blind.memEpoch φ) (h_memKey : Blind.memKey φ) (h_ucs : Blind.ucs φ) (h_ropes : Blind.ropes φ) (h_fabric : Blind.fabric φ) (h_hces : Blind.hces φ) (h_rings : Blind.rings φ) (h_svcs : Blind.svcs φ) (h_journal : Blind.journal φ) (h_sec : Blind.sec φ) (h_det : Blind.det φ) (e i : Nat) (d : HceDesc) (data : List Byte) (bad : Tbl Nat) (s : State) :
    φ (copyIn e i d data bad s) = φ s := by
  unfold copyIn
  repeat' first
    | simp only [endDesc_frame h_regs h_seq h_hces h_rings h_det, hceWrite_frame h_regs h_seq h_out h_rigs h_treads h_flights h_ctxs h_landings h_mem h_memCheck h_memEpoch h_memKey h_ucs h_ropes h_fabric h_rings h_svcs h_journal h_sec h_det]
    | split
    | refine Eq.trans (hceWrite_frame_of h_regs h_seq h_out h_rigs h_treads h_flights h_ctxs h_landings h_mem h_memCheck h_memEpoch h_memKey h_ucs h_ropes h_fabric h_rings h_svcs h_journal h_sec h_det ‹_›) ?_
    | dsimp only
    | with_reducible rfl

theorem holdCopy_frame (h_hces : Blind.hces φ) (e i : Nat) (data : List Byte) (s : State) :
    φ (holdCopy e i data s) = φ s := by
  unfold holdCopy
  repeat' first
    | simp only [setHce_frame h_hces]
    | split
    | dsimp only
    | with_reducible rfl

theorem copyAnswer_frame (h_regs : Blind.regs φ) (h_seq : Blind.seq φ) (h_out : Blind.out φ) (h_rigs : Blind.rigs φ) (h_treads : Blind.treads φ) (h_flights : Blind.flights φ) (h_ctxs : Blind.ctxs φ) (h_landings : Blind.landings φ) (h_mem : Blind.mem φ) (h_memCheck : Blind.memCheck φ) (h_memEpoch : Blind.memEpoch φ) (h_memKey : Blind.memKey φ) (h_ucs : Blind.ucs φ) (h_ropes : Blind.ropes φ) (h_fabric : Blind.fabric φ) (h_hces : Blind.hces φ) (h_rings : Blind.rings φ) (h_svcs : Blind.svcs φ) (h_journal : Blind.journal φ) (h_sec : Blind.sec φ) (h_det : Blind.det φ) (e i : Nat) (d : HceDesc) (herr : Nat) (data : List Byte) (bad : Tbl Nat) (s : State) :
    φ (copyAnswer e i d herr data bad s) = φ s := by
  unfold copyAnswer
  repeat' first
    | simp only [copyIn_frame h_regs h_seq h_out h_rigs h_treads h_flights h_ctxs h_landings h_mem h_memCheck h_memEpoch h_memKey h_ucs h_ropes h_fabric h_hces h_rings h_svcs h_journal h_sec h_det, endDesc_frame h_regs h_seq h_hces h_rings h_det, holdCopy_frame h_hces]
    | split
    | dsimp only
    | with_reducible rfl

theorem finishOldest_frame (h_regs : Blind.regs φ) (h_seq : Blind.seq φ) (h_out : Blind.out φ) (h_rigs : Blind.rigs φ) (h_treads : Blind.treads φ) (h_flights : Blind.flights φ) (h_ctxs : Blind.ctxs φ) (h_landings : Blind.landings φ) (h_mem : Blind.mem φ) (h_memCheck : Blind.memCheck φ) (h_memEpoch : Blind.memEpoch φ) (h_memKey : Blind.memKey φ) (h_ucs : Blind.ucs φ) (h_ropes : Blind.ropes φ) (h_fabric : Blind.fabric φ) (h_hces : Blind.hces φ) (h_rings : Blind.rings φ) (h_svcs : Blind.svcs φ) (h_journal : Blind.journal φ) (h_sec : Blind.sec φ) (h_det : Blind.det φ) (e : Nat) (answer : Option (Nat × List Byte)) (bad : Tbl Nat) (s : State) :
    φ (finishOldest e answer bad s) = φ s := by
  unfold finishOldest
  repeat' first
    | simp only [copyAnswer_frame h_regs h_seq h_out h_rigs h_treads h_flights h_ctxs h_landings h_mem h_memCheck h_memEpoch h_memKey h_ucs h_ropes h_fabric h_hces h_rings h_svcs h_journal h_sec h_det, copyIn_frame h_regs h_seq h_out h_rigs h_treads h_flights h_ctxs h_landings h_mem h_memCheck h_memEpoch h_memKey h_ucs h_ropes h_fabric h_hces h_rings h_svcs h_journal h_sec h_det, endDesc_frame h_regs h_seq h_hces h_rings h_det]
    | split
    | dsimp only
    | with_reducible rfl

theorem completeOldest_frame (h_regs : Blind.regs φ) (h_out : Blind.out φ) (h_hces : Blind.hces φ) (e : Nat) (s : State) :
    φ (completeOldest e s) = φ s := by
  unfold completeOldest
  repeat' first
    | simp only [bump_frame h_regs, hostWrite_frame h_out, put_frame h_out, setHce_frame h_hces, showHce_frame h_regs]
    | split
    | dsimp only
    | with_reducible rfl

theorem ringFull_frame (h_regs : Blind.regs φ) (h_rings : Blind.rings φ) (f : Nat) (s : State) :
    φ (ringFull f s) = φ s := by
  unfold ringFull
  repeat' first
    | simp only [bump_frame h_regs, setRing_frame h_rings]
    | split
    | dsimp only
    | with_reducible rfl

theorem showLink_frame (h_regs : Blind.regs φ) (st : Nat) (s : State) :
    φ (showLink st s) = φ s := by
  unfold showLink
  repeat' first
    | simp only [set_frame h_regs]
    | split
    | dsimp only
    | with_reducible rfl

theorem resignal_frame (h_out : Blind.out φ) (c : Nat) (s : State) :
    φ (resignal c s) = φ s := by
  unfold resignal
  repeat' first
    | simp only [signalMailbox_frame h_out]
    | split
    | dsimp only
    | with_reducible rfl

end Sys2Proof.Laws
end

