-- ==== Sys2Proof/Laws/HostPortKeep.lean ====
section
/-!
SUPPORT. Frames of the commands of Sys2Proof/Machine/HostPort.lean: what a command does not write stays as it was.
-/
namespace Sys2Proof.Laws
open Machine Machine.State

set_option linter.unusedSimpArgs false
set_option linter.unusedTactic false
set_option linter.unreachableTactic false
set_option linter.unusedVariables false

variable {α : Type} {φ : State → α}

theorem execPlcValidWrite_frame (h_regs : Blind.regs φ) (h_pending : Blind.pending φ) (h_out : Blind.out φ) (i : Nat) (value : W32) (s : State) (t' : State)
    (h : execPlcValidWrite i value s = .next t') : φ t' = φ s := by
  unfold execPlcValidWrite at h
  refine perform_frame h_out h_pending h (fun s => ?_)
  repeat' first
    | simp only [set_frame h_regs]
    | split
    | dsimp only
    | with_reducible rfl

theorem execBar4Request_frame (h_regs : Blind.regs φ) (h_seq : Blind.seq φ) (h_pending : Blind.pending φ) (h_out : Blind.out φ) (h_rigs : Blind.rigs φ) (h_treads : Blind.treads φ) (h_flights : Blind.flights φ) (h_ctxs : Blind.ctxs φ) (h_landings : Blind.landings φ) (h_mem : Blind.mem φ) (h_memCheck : Blind.memCheck φ) (h_memEpoch : Blind.memEpoch φ) (h_memKey : Blind.memKey φ) (h_ucs : Blind.ucs φ) (h_ropes : Blind.ropes φ) (h_rings : Blind.rings φ) (h_pcie : Blind.pcie φ) (h_svcs : Blind.svcs φ) (h_journal : Blind.journal φ) (h_sec : Blind.sec φ) (h_det : Blind.det φ) (rid : W16) (off : W64) (write : Bool) (size : Nat) (data : List Byte) (bad : List (Nat × Nat)) (s : State) (t' : State)
    (h : execBar4Request rid off write size data bad s = .next t') : φ t' = φ s := by
  unfold execBar4Request at h
  refine perform_frame h_out h_pending h (fun s => ?_)
  repeat' first
    | simp only [bump_frame h_regs, logAdvisory_frame h_pcie, put_frame h_out, set_frame h_regs, windowParts_frame h_regs h_seq h_out h_rigs h_treads h_flights h_ctxs h_landings h_mem h_memCheck h_memEpoch h_memKey h_ucs h_ropes h_rings h_svcs h_journal h_sec h_det]
    | split
    | refine Eq.trans (windowParts_frame_of h_regs h_seq h_out h_rigs h_treads h_flights h_ctxs h_landings h_mem h_memCheck h_memEpoch h_memKey h_ucs h_ropes h_rings h_svcs h_journal h_sec h_det ‹_›) ?_
    | dsimp only
    | with_reducible rfl

theorem execHceDoorbell_frame (h_regs : Blind.regs φ) (h_pending : Blind.pending φ) (h_out : Blind.out φ) (h_hces : Blind.hces φ) (who : Who) (e : Nat) (value : W32) (s : State) (t' : State)
    (h : execHceDoorbell who e value s = .next t') : φ t' = φ s := by
  unfold execHceDoorbell at h
  refine perform_frame h_out h_pending h (fun s => ?_)
  repeat' first
    | simp only [set_frame h_regs, setHce_frame h_hces, showHce_frame h_regs]
    | split
    | dsimp only
    | with_reducible rfl

theorem execHceNop_frame (h_regs : Blind.regs φ) (h_seq : Blind.seq φ) (h_pending : Blind.pending φ) (h_out : Blind.out φ) (h_hces : Blind.hces φ) (h_rings : Blind.rings φ) (h_det : Blind.det φ) (e : Nat) (desc : List Byte) (s : State) (t' : State)
    (h : execHceNop e desc s = .next t') : φ t' = φ s := by
  unfold execHceNop at h
  refine perform_frame h_out h_pending h (fun s => ?_)
  repeat' first
    | simp only [endDesc_frame h_regs h_seq h_hces h_rings h_det]
    | refine Eq.trans (startDesc_frame h_regs h_seq h_out h_hces h_rings h_det _ _ _ _ _ (fun _ _ _ => ?_)) ?_
    | split
    | dsimp only
    | with_reducible rfl

theorem execHceCopy_frame (h_regs : Blind.regs φ) (h_seq : Blind.seq φ) (h_pending : Blind.pending φ) (h_out : Blind.out φ) (h_rigs : Blind.rigs φ) (h_treads : Blind.treads φ) (h_flights : Blind.flights φ) (h_ctxs : Blind.ctxs φ) (h_landings : Blind.landings φ) (h_mem : Blind.mem φ) (h_memCheck : Blind.memCheck φ) (h_memEpoch : Blind.memEpoch φ) (h_memKey : Blind.memKey φ) (h_ucs : Blind.ucs φ) (h_ropes : Blind.ropes φ) (h_fabric : Blind.fabric φ) (h_hces : Blind.hces φ) (h_rings : Blind.rings φ) (h_svcs : Blind.svcs φ) (h_journal : Blind.journal φ) (h_sec : Blind.sec φ) (h_det : Blind.det φ) (e : Nat) (desc : List Byte) (answer : Option (Nat × List Byte)) (bad : List (Nat × Nat)) (s : State) (t' : State)
    (h : execHceCopy e desc answer bad s = .next t') : φ t' = φ s := by
  unfold execHceCopy at h
  refine perform_frame h_out h_pending h (fun s => ?_)
  repeat' first
    | simp only [copyAnswer_frame h_regs h_seq h_out h_rigs h_treads h_flights h_ctxs h_landings h_mem h_memCheck h_memEpoch h_memKey h_ucs h_ropes h_fabric h_hces h_rings h_svcs h_journal h_sec h_det, endDesc_frame h_regs h_seq h_hces h_rings h_det, engRead_frame h_regs h_seq h_out h_rigs h_treads h_flights h_ctxs h_landings h_mem h_memCheck h_memEpoch h_memKey h_ucs h_ropes h_fabric h_rings h_svcs h_journal h_sec h_det, hostWrite_frame h_out, put_frame h_out]
    | refine Eq.trans (startDesc_frame h_regs h_seq h_out h_hces h_rings h_det _ _ _ _ _ (fun _ _ _ => ?_)) ?_
    | split
    | refine Eq.trans (engRead_frame_of h_regs h_seq h_out h_rigs h_treads h_flights h_ctxs h_landings h_mem h_memCheck h_memEpoch h_memKey h_ucs h_ropes h_fabric h_rings h_svcs h_journal h_sec h_det ‹_›) ?_
    | dsimp only
    | with_reducible rfl

theorem execHceFence_frame (h_regs : Blind.regs φ) (h_seq : Blind.seq φ) (h_pending : Blind.pending φ) (h_out : Blind.out φ) (h_hces : Blind.hces φ) (h_rings : Blind.rings φ) (h_det : Blind.det φ) (e : Nat) (desc : List Byte) (s : State) (t' : State)
    (h : execHceFence e desc s = .next t') : φ t' = φ s := by
  unfold execHceFence at h
  refine perform_frame h_out h_pending h (fun s => ?_)
  repeat' first
    | simp only [put_frame h_out]
    | refine Eq.trans (startDesc_frame h_regs h_seq h_out h_hces h_rings h_det _ _ _ _ _ (fun _ _ _ => ?_)) ?_
    | split
    | dsimp only
    | with_reducible rfl

theorem execHceDescriptorComplete_frame (h_regs : Blind.regs φ) (h_seq : Blind.seq φ) (h_pending : Blind.pending φ) (h_out : Blind.out φ) (h_rigs : Blind.rigs φ) (h_treads : Blind.treads φ) (h_flights : Blind.flights φ) (h_ctxs : Blind.ctxs φ) (h_landings : Blind.landings φ) (h_mem : Blind.mem φ) (h_memCheck : Blind.memCheck φ) (h_memEpoch : Blind.memEpoch φ) (h_memKey : Blind.memKey φ) (h_ucs : Blind.ucs φ) (h_ropes : Blind.ropes φ) (h_fabric : Blind.fabric φ) (h_hces : Blind.hces φ) (h_rings : Blind.rings φ) (h_svcs : Blind.svcs φ) (h_journal : Blind.journal φ) (h_sec : Blind.sec φ) (h_det : Blind.det φ) (x : HceAnswer) (s : State) (t' : State)
    (h : execHceDescriptorComplete x s = .next t') : φ t' = φ s := by
  unfold execHceDescriptorComplete at h
  refine perform_frame h_out h_pending h (fun s => ?_)
  repeat' first
    | simp only [completeOldest_frame h_regs h_out h_hces, finishOldest_frame h_regs h_seq h_out h_rigs h_treads h_flights h_ctxs h_landings h_mem h_memCheck h_memEpoch h_memKey h_ucs h_ropes h_fabric h_hces h_rings h_svcs h_journal h_sec h_det]
    | split
    | dsimp only
    | with_reducible rfl

theorem execHceDescriptorRetry_frame (h_regs : Blind.regs φ) (h_seq : Blind.seq φ) (h_pending : Blind.pending φ) (h_out : Blind.out φ) (h_hces : Blind.hces φ) (h_rings : Blind.rings φ) (h_det : Blind.det φ) (e : Nat) (desc : List Byte) (s : State) (t' : State)
    (h : execHceDescriptorRetry e desc s = .next t') : φ t' = φ s := by
  unfold execHceDescriptorRetry at h
  refine perform_frame h_out h_pending h (fun s => ?_)
  repeat' first
    | simp only [bump_frame h_regs, raise_frame h_regs h_seq h_rings h_det, readDesc_frame h_out, set_frame h_regs, setHce_frame h_hces, showHce_frame h_regs]
    | split
    | dsimp only
    | with_reducible rfl

theorem execHceResume_frame (h_regs : Blind.regs φ) (h_pending : Blind.pending φ) (h_out : Blind.out φ) (who : Who) (e : Nat) (value : W32) (s : State) (t' : State)
    (h : execHceResume who e value s = .next t') : φ t' = φ s := by
  unfold execHceResume at h
  refine perform_frame h_out h_pending h (fun s => ?_)
  repeat' first
    | simp only [set_frame h_regs, showHce_frame h_regs]
    | refine Eq.trans (whenUp_frame (fun _ => ?_) _) ?_
    | split
    | dsimp only
    | with_reducible rfl

theorem execHceEnable_frame (h_regs : Blind.regs φ) (h_pending : Blind.pending φ) (h_out : Blind.out φ) (h_hces : Blind.hces φ) (who : Who) (e : Nat) (value : W32) (s : State) (t' : State)
    (h : execHceEnable who e value s = .next t') : φ t' = φ s := by
  unfold execHceEnable at h
  refine perform_frame h_out h_pending h (fun s => ?_)
  repeat' first
    | simp only [set_frame h_regs, setHce_frame h_hces, showHce_frame h_regs]
    | refine Eq.trans (whenUp_frame (fun _ => ?_) _) ?_
    | split
    | dsimp only
    | with_reducible rfl

theorem execCompletionTimeout_frame (h_regs : Blind.regs φ) (h_seq : Blind.seq φ) (h_pending : Blind.pending φ) (h_out : Blind.out φ) (h_rigs : Blind.rigs φ) (h_mem : Blind.mem φ) (h_memCheck : Blind.memCheck φ) (h_memEpoch : Blind.memEpoch φ) (h_memKey : Blind.memKey φ) (h_hces : Blind.hces φ) (h_rings : Blind.rings φ) (h_det : Blind.det φ) (fetch : Bool) (n : Nat) (s : State) (t' : State)
    (h : execCompletionTimeout fetch n s = .next t') : φ t' = φ s := by
  unfold execCompletionTimeout at h
  refine perform_frame h_out h_pending h (fun s => ?_)
  repeat' first
    | simp only [endDesc_frame h_regs h_seq h_hces h_rings h_det, refuseLoad_frame h_regs h_rigs h_mem h_memCheck h_memEpoch h_memKey]
    | split
    | dsimp only
    | with_reducible rfl

theorem execEventRecordWrite_frame (h_regs : Blind.regs φ) (h_pending : Blind.pending φ) (h_out : Blind.out φ) (h_rings : Blind.rings φ) (f : Nat) (s : State) (t' : State)
    (h : execEventRecordWrite f s = .next t') : φ t' = φ s := by
  unfold execEventRecordWrite at h
  refine perform_frame h_out h_pending h (fun s => ?_)
  repeat' first
    | simp only [ringFull_frame h_regs h_rings, setRing_frame h_rings, signalRing_frame h_out]
    | refine Eq.trans (placeRecord_frame_of h_regs h_out h_rings ‹_›) ?_
    | split
    | dsimp only
    | with_reducible rfl

theorem execEvtHeadWrite_frame (h_regs : Blind.regs φ) (h_pending : Blind.pending φ) (h_out : Blind.out φ) (who : Who) (f : Nat) (value : W32) (s : State) (t' : State)
    (h : execEvtHeadWrite who f value s = .next t') : φ t' = φ s := by
  unfold execEvtHeadWrite at h
  refine perform_frame h_out h_pending h (fun s => ?_)
  repeat' first
    | simp only [set_frame h_regs]
    | split
    | dsimp only
    | with_reducible rfl

theorem execEvtEnable_frame (h_regs : Blind.regs φ) (h_pending : Blind.pending φ) (h_out : Blind.out φ) (h_rings : Blind.rings φ) (h_pcie : Blind.pcie φ) (who : Who) (f : Nat) (w : EvtWrite) (s : State) (t' : State)
    (h : execEvtEnable who f w s = .next t') : φ t' = φ s := by
  unfold execEvtEnable at h
  refine perform_frame h_out h_pending h (fun s => ?_)
  repeat' first
    | simp only [set_frame h_regs, setNumVfs_frame h_pcie, setRing_frame h_rings, showDetached_frame h_regs, h_pcie.eq]
    | split
    | dsimp only
    | with_reducible rfl

theorem execDlDown_frame (h_regs : Blind.regs φ) (h_seq : Blind.seq φ) (h_free : Blind.free φ) (h_pending : Blind.pending φ) (h_out : Blind.out φ) (h_rigs : Blind.rigs φ) (h_mem : Blind.mem φ) (h_memCheck : Blind.memCheck φ) (h_memEpoch : Blind.memEpoch φ) (h_memKey : Blind.memKey φ) (h_hces : Blind.hces φ) (h_rings : Blind.rings φ) (h_pcie : Blind.pcie φ) (h_svcs : Blind.svcs φ) (h_sec : Blind.sec φ) (h_det : Blind.det φ) (s : State) (t' : State)
    (h : execDlDown s = .next t') : φ t' = φ s := by
  unfold execDlDown at h
  refine perform_frame h_out h_pending h (fun s => ?_)
  repeat' first
    | simp only [detach_frame h_regs h_seq h_free h_rigs h_mem h_memCheck h_memEpoch h_memKey h_hces h_rings h_pcie h_svcs h_sec h_det, showLink_frame h_regs]
    | split
    | dsimp only
    | with_reducible rfl

theorem execHotReset_frame (h_regs : Blind.regs φ) (h_seq : Blind.seq φ) (h_free : Blind.free φ) (h_pending : Blind.pending φ) (h_out : Blind.out φ) (h_rigs : Blind.rigs φ) (h_mem : Blind.mem φ) (h_memCheck : Blind.memCheck φ) (h_memEpoch : Blind.memEpoch φ) (h_memKey : Blind.memKey φ) (h_hces : Blind.hces φ) (h_rings : Blind.rings φ) (h_pcie : Blind.pcie φ) (h_svcs : Blind.svcs φ) (h_sec : Blind.sec φ) (h_det : Blind.det φ) (s : State) (t' : State)
    (h : execHotReset s = .next t') : φ t' = φ s := by
  unfold execHotReset at h
  refine perform_frame h_out h_pending h (fun s => ?_)
  repeat' first
    | simp only [detach_frame h_regs h_seq h_free h_rigs h_mem h_memCheck h_memEpoch h_memKey h_hces h_rings h_pcie h_svcs h_sec h_det, showLink_frame h_regs]
    | split
    | dsimp only
    | with_reducible rfl

theorem execPerstAssert_frame (h_regs : Blind.regs φ) (h_seq : Blind.seq φ) (h_free : Blind.free φ) (h_pending : Blind.pending φ) (h_out : Blind.out φ) (h_pins : Blind.pins φ) (h_rigs : Blind.rigs φ) (h_mem : Blind.mem φ) (h_memCheck : Blind.memCheck φ) (h_memEpoch : Blind.memEpoch φ) (h_memKey : Blind.memKey φ) (h_hces : Blind.hces φ) (h_rings : Blind.rings φ) (h_pcie : Blind.pcie φ) (h_svcs : Blind.svcs φ) (h_sec : Blind.sec φ) (h_det : Blind.det φ) (s : State) (t' : State)
    (h : execPerstAssert s = .next t') : φ t' = φ s := by
  unfold execPerstAssert at h
  refine perform_frame h_out h_pending h (fun s => ?_)
  repeat' first
    | simp only [detach_frame h_regs h_seq h_free h_rigs h_mem h_memCheck h_memEpoch h_memKey h_hces h_rings h_pcie h_svcs h_sec h_det, showLink_frame h_regs, h_pins.eq]
    | split
    | dsimp only
    | with_reducible rfl

theorem execPerstRelease_frame (h_regs : Blind.regs φ) (h_pending : Blind.pending φ) (h_out : Blind.out φ) (h_pins : Blind.pins φ) (s : State) (t' : State)
    (h : execPerstRelease s = .next t') : φ t' = φ s := by
  unfold execPerstRelease at h
  refine perform_frame h_out h_pending h (fun s => ?_)
  repeat' first
    | simp only [showLink_frame h_regs, h_pins.eq]
    | split
    | dsimp only
    | with_reducible rfl

theorem execFunctionLevelReset_frame (h_regs : Blind.regs φ) (h_seq : Blind.seq φ) (h_free : Blind.free φ) (h_pending : Blind.pending φ) (h_out : Blind.out φ) (h_rigs : Blind.rigs φ) (h_mem : Blind.mem φ) (h_memCheck : Blind.memCheck φ) (h_memEpoch : Blind.memEpoch φ) (h_memKey : Blind.memKey φ) (h_hces : Blind.hces φ) (h_rings : Blind.rings φ) (h_pcie : Blind.pcie φ) (h_svcs : Blind.svcs φ) (h_sec : Blind.sec φ) (h_det : Blind.det φ) (f : Nat) (s : State) (t' : State)
    (h : execFunctionLevelReset f s = .next t') : φ t' = φ s := by
  unfold execFunctionLevelReset at h
  refine perform_frame h_out h_pending h (fun s => ?_)
  repeat' first
    | simp only [detach_frame h_regs h_seq h_free h_rigs h_mem h_memCheck h_memEpoch h_memKey h_hces h_rings h_pcie h_svcs h_sec h_det]
    | split
    | dsimp only
    | with_reducible rfl

theorem execD3hotEntry_frame (h_regs : Blind.regs φ) (h_seq : Blind.seq φ) (h_free : Blind.free φ) (h_pending : Blind.pending φ) (h_out : Blind.out φ) (h_rigs : Blind.rigs φ) (h_mem : Blind.mem φ) (h_memCheck : Blind.memCheck φ) (h_memEpoch : Blind.memEpoch φ) (h_memKey : Blind.memKey φ) (h_hces : Blind.hces φ) (h_rings : Blind.rings φ) (h_pcie : Blind.pcie φ) (h_svcs : Blind.svcs φ) (h_sec : Blind.sec φ) (h_det : Blind.det φ) (f : Nat) (s : State) (t' : State)
    (h : execD3hotEntry f s = .next t') : φ t' = φ s := by
  unfold execD3hotEntry at h
  refine perform_frame h_out h_pending h (fun s => ?_)
  repeat' first
    | simp only [detach_frame h_regs h_seq h_free h_rigs h_mem h_memCheck h_memEpoch h_memKey h_hces h_rings h_pcie h_svcs h_sec h_det]
    | split
    | dsimp only
    | with_reducible rfl

theorem execLinkRecovery_frame (h_regs : Blind.regs φ) (h_pending : Blind.pending φ) (h_out : Blind.out φ) (s : State) (t' : State)
    (h : execLinkRecovery s = .next t') : φ t' = φ s := by
  unfold execLinkRecovery at h
  refine perform_frame h_out h_pending h (fun s => ?_)
  repeat' first
    | simp only [bump_frame h_regs]
    | split
    | dsimp only
    | with_reducible rfl

theorem execHostLinkTrained_frame (h_regs : Blind.regs φ) (h_seq : Blind.seq φ) (h_pending : Blind.pending φ) (h_out : Blind.out φ) (h_rings : Blind.rings φ) (h_pcie : Blind.pcie φ) (h_det : Blind.det φ) (speed width : Nat) (mode : LinkMode) (s : State) (t' : State)
    (h : execHostLinkTrained speed width mode s = .next t') : φ t' = φ s := by
  unfold execHostLinkTrained at h
  refine perform_frame h_out h_pending h (fun s => ?_)
  repeat' first
    | simp only [raise0_frame h_regs h_seq h_rings h_det, set_frame h_regs, setNumVfs_frame h_pcie, showLink_frame h_regs]
    | split
    | dsimp only
    | with_reducible rfl

theorem execDoeDiscovery_frame (h_pending : Blind.pending φ) (h_out : Blind.out φ) (f index : Nat) (s : State) (t' : State)
    (h : execDoeDiscovery f index s = .next t') : φ t' = φ s := by
  unfold execDoeDiscovery at h
  refine perform_frame h_out h_pending h (fun s => ?_)
  repeat' first
    | simp only [put_frame h_out]
    | split
    | dsimp only
    | with_reducible rfl

theorem execMbH2pWrite_frame (h_regs : Blind.regs φ) (h_pending : Blind.pending φ) (h_out : Blind.out φ) (who : Who) (c : Nat) (value : W32) (s : State) (t' : State)
    (h : execMbH2pWrite who c value s = .next t') : φ t' = φ s := by
  unfold execMbH2pWrite at h
  refine perform_frame h_out h_pending h (fun s => ?_)
  repeat' first
    | simp only [set_frame h_regs]
    | split
    | dsimp only
    | with_reducible rfl

theorem execMbP2hClear_frame (h_regs : Blind.regs φ) (h_pending : Blind.pending φ) (h_out : Blind.out φ) (who : Who) (c : Nat) (value sets : W32) (s : State) (t' : State)
    (h : execMbP2hClear who c value sets s = .next t') : φ t' = φ s := by
  unfold execMbP2hClear at h
  refine perform_frame h_out h_pending h (fun s => ?_)
  repeat' first
    | simp only [resignal_frame h_out, set_frame h_regs]
    | split
    | dsimp only
    | with_reducible rfl

theorem execMbP2hMaskWrite_frame (h_regs : Blind.regs φ) (h_pending : Blind.pending φ) (h_out : Blind.out φ) (who : Who) (c : Nat) (value : W32) (s : State) (t' : State)
    (h : execMbP2hMaskWrite who c value s = .next t') : φ t' = φ s := by
  unfold execMbP2hMaskWrite at h
  refine perform_frame h_out h_pending h (fun s => ?_)
  repeat' first
    | simp only [resignal_frame h_out, set_frame h_regs]
    | split
    | dsimp only
    | with_reducible rfl

end Sys2Proof.Laws
end

