-- ==== Sys2Proof/Laws/LasersFrame.lean ====
section
/-!
SUPPORT. Frames of the operations of Sys2Proof/Machine/Lasers.lean: what none of them writes stays as it was.
-/
namespace Sys2Proof.Laws
open Machine Machine.State

set_option linter.unusedSimpArgs false
set_option linter.unusedTactic false
set_option linter.unreachableTactic false
set_option linter.unusedVariables false

variable {α : Type} {φ : State → α}

theorem journalLife_frame (h_regs : Blind.regs φ) (h_journal : Blind.journal φ) (m : Nat) (s : State) :
    φ (journalLife m s) = φ s := by
  unfold journalLife
  repeat' first
    | simp only [journalWrite_frame h_regs h_journal]
    | split
    | dsimp only
    | with_reducible rfl

theorem showLife_frame (h_regs : Blind.regs φ) (m : Nat) (s : State) :
    φ (showLife m s) = φ s := by
  unfold showLife
  repeat' first
    | simp only [set_frame h_regs]
    | with_reducible refine Eq.trans (foldl_frame (fun _ _ => ?_) _ _) ?_
    | split
    | dsimp only
    | with_reducible rfl

theorem failLaser_frame (h_regs : Blind.regs φ) (h_seq : Blind.seq φ) (h_ropes : Blind.ropes φ) (h_lasers : Blind.lasers φ) (h_rings : Blind.rings φ) (h_det : Blind.det φ) (m j : Nat) (s : State) :
    φ (failLaser m j s) = φ s := by
  unfold failLaser
  repeat' first
    | simp only [dropStrand_frame h_regs h_ropes, raise0_frame h_regs h_seq h_rings h_det, set_frame h_regs, setLaser_frame h_lasers]
    | with_reducible refine Eq.trans (foldl_frame (fun _ _ => ?_) _ _) ?_
    | split
    | dsimp only
    | with_reducible rfl

theorem darken_frame (h_regs : Blind.regs φ) (h_lasers : Blind.lasers φ) (m st : Nat) (s : State) :
    φ (darken m st s) = φ s := by
  unfold darken
  repeat' first
    | simp only [set_frame h_regs, setLaser_frame h_lasers]
    | split
    | dsimp only
    | with_reducible rfl

end Sys2Proof.Laws
end

