-- ==== Sys2Proof/Laws/LasersKeep.lean ====
section
/-!
SUPPORT. Frames of the commands of Sys2Proof/Machine/Lasers.lean: what a command does not write stays as it was.
-/
namespace Sys2Proof.Laws
open Machine Machine.State

set_option linter.unusedSimpArgs false
set_option linter.unusedTactic false
set_option linter.unreachableTactic false
set_option linter.unusedVariables false

variable {α : Type} {φ : State → α}

theorem execLaserFailed_frame (h_regs : Blind.regs φ) (h_time : Blind.time φ) (h_seq : Blind.seq φ) (h_pending : Blind.pending φ) (h_out : Blind.out φ) (h_ropes : Blind.ropes φ) (h_lasers : Blind.lasers φ) (h_rings : Blind.rings φ) (h_journal : Blind.journal φ) (h_sec : Blind.sec φ) (h_det : Blind.det φ) (m j : Nat) (now : W64) (s : State) (t' : State)
    (h : execLaserFailed m j now s = .next t') : φ t' = φ s := by
  unfold execLaserFailed at h
  refine perform_frame h_out h_pending h (fun s => ?_)
  repeat' first
    | simp only [at__frame h_time, failLaser_frame h_regs h_seq h_ropes h_lasers h_rings h_det, hitInjection_frame h_regs h_seq h_rings h_journal h_sec h_det]
    | split
    | dsimp only
    | with_reducible rfl

theorem execLaserLightTimeout_frame (h_regs : Blind.regs φ) (h_time : Blind.time φ) (h_seq : Blind.seq φ) (h_pending : Blind.pending φ) (h_out : Blind.out φ) (h_ropes : Blind.ropes φ) (h_lasers : Blind.lasers φ) (h_rings : Blind.rings φ) (h_det : Blind.det φ) (m j : Nat) (now : W64) (s : State) (t' : State)
    (h : execLaserLightTimeout m j now s = .next t') : φ t' = φ s := by
  unfold execLaserLightTimeout at h
  refine perform_frame h_out h_pending h (fun s => ?_)
  repeat' first
    | simp only [at__frame h_time, failLaser_frame h_regs h_seq h_ropes h_lasers h_rings h_det]
    | split
    | dsimp only
    | with_reducible rfl

theorem execLaserModuleInsert_frame (h_regs : Blind.regs φ) (h_seq : Blind.seq φ) (h_pending : Blind.pending φ) (h_out : Blind.out φ) (h_ropes : Blind.ropes φ) (h_lasers : Blind.lasers φ) (h_rings : Blind.rings φ) (h_det : Blind.det φ) (m : Nat) (ident : LaserIdent) (known : Bool) (lit : Byte) (s : State) (t' : State)
    (h : execLaserModuleInsert m ident known lit s = .next t') : φ t' = φ s := by
  unfold execLaserModuleInsert at h
  refine perform_frame h_out h_pending h (fun s => ?_)
  repeat' first
    | simp only [raise0_frame h_regs h_seq h_rings h_det, set_frame h_regs, setLaser_frame h_lasers, showLife_frame h_regs, wakeRope_frame h_regs h_ropes]
    | with_reducible refine Eq.trans (foldl_frame (fun _ _ => ?_) _ _) ?_
    | refine Eq.trans (whenUp_frame (fun _ => ?_) _) ?_
    | split
    | dsimp only
    | with_reducible rfl

theorem execLaserModuleRemove_frame (h_regs : Blind.regs φ) (h_time : Blind.time φ) (h_pending : Blind.pending φ) (h_out : Blind.out φ) (h_ropes : Blind.ropes φ) (h_lasers : Blind.lasers φ) (m : Nat) (now : W64) (s : State) (t' : State)
    (h : execLaserModuleRemove m now s = .next t') : φ t' = φ s := by
  unfold execLaserModuleRemove at h
  refine perform_frame h_out h_pending h (fun s => ?_)
  repeat' first
    | simp only [at__frame h_time, darken_frame h_regs h_lasers, enterGrace_frame h_regs h_ropes, ropeDown_frame h_regs h_ropes, set_frame h_regs, setLaser_frame h_lasers, showLife_frame h_regs]
    | with_reducible refine Eq.trans (foldl_frame (fun _ _ => ?_) _ _) ?_
    | split
    | dsimp only
    | with_reducible rfl

theorem execLaserLifeTick_frame (h_regs : Blind.regs φ) (h_seq : Blind.seq φ) (h_pending : Blind.pending φ) (h_out : Blind.out φ) (h_lasers : Blind.lasers φ) (h_rings : Blind.rings φ) (h_det : Blind.det φ) (m : Nat) (temp : Byte) (s : State) (t' : State)
    (h : execLaserLifeTick m temp s = .next t') : φ t' = φ s := by
  unfold execLaserLifeTick at h
  refine perform_frame h_out h_pending h (fun s => ?_)
  repeat' first
    | simp only [raise0_frame h_regs h_seq h_rings h_det, set_frame h_regs, setLaser_frame h_lasers, showLife_frame h_regs]
    | with_reducible refine Eq.trans (foldl_frame (fun _ _ => ?_) _ _) ?_
    | split
    | dsimp only
    | with_reducible rfl

theorem execLaserLifeJournal_frame (h_regs : Blind.regs φ) (h_pending : Blind.pending φ) (h_out : Blind.out φ) (h_journal : Blind.journal φ) (s : State) (t' : State)
    (h : execLaserLifeJournal s = .next t') : φ t' = φ s := by
  unfold execLaserLifeJournal at h
  refine perform_frame h_out h_pending h (fun s => ?_)
  repeat' first
    | simp only [journalLife_frame h_regs h_journal]
    | with_reducible refine Eq.trans (foldl_frame (fun _ _ => ?_) _ _) ?_
    | refine Eq.trans (whenUp_frame (fun _ => ?_) _) ?_
    | split
    | dsimp only
    | with_reducible rfl

theorem execLaserRelease_frame (h_regs : Blind.regs φ) (h_seq : Blind.seq φ) (h_pending : Blind.pending φ) (h_out : Blind.out φ) (h_ropes : Blind.ropes φ) (h_lasers : Blind.lasers φ) (h_fabric : Blind.fabric φ) (h_rings : Blind.rings φ) (h_svcs : Blind.svcs φ) (h_journal : Blind.journal φ) (h_sec : Blind.sec φ) (h_det : Blind.det φ) (m : Nat) (value : W32) (s : State) (t' : State)
    (h : execLaserRelease m value s = .next t') : φ t' = φ s := by
  unfold execLaserRelease at h
  refine perform_frame h_out h_pending h (fun s => ?_)
  repeat' first
    | simp only [darken_frame h_regs h_lasers, journalLife_frame h_regs h_journal, loseRope_frame h_regs h_seq h_out h_ropes h_fabric h_rings h_svcs h_journal h_sec h_det]
    | with_reducible refine Eq.trans (foldl_frame (fun _ _ => ?_) _ _) ?_
    | refine Eq.trans (whenUp_frame (fun _ => ?_) _) ?_
    | split
    | dsimp only
    | with_reducible rfl

theorem execLaserRelight_frame (h_regs : Blind.regs φ) (h_pending : Blind.pending φ) (h_out : Blind.out φ) (h_lasers : Blind.lasers φ) (w : CtrlWrite) (lit : Byte) (s : State) (t' : State)
    (h : execLaserRelight w lit s = .next t') : φ t' = φ s := by
  unfold execLaserRelight at h
  refine perform_frame h_out h_pending h (fun s => ?_)
  repeat' first
    | simp only [set_frame h_regs, setLaser_frame h_lasers]
    | refine Eq.trans (whenUp_frame (fun _ => ?_) _) ?_
    | split
    | dsimp only
    | with_reducible rfl

end Sys2Proof.Laws
end

