-- ==== Sys2Proof/Laws/LoaderKeep.lean ====
section
/-!
SUPPORT. Frames of the commands of Sys2Proof/Machine/Loader.lean: what a command does not write stays as it was.
-/
namespace Sys2Proof.Laws
open Machine Machine.State

set_option linter.unusedSimpArgs false
set_option linter.unusedTactic false
set_option linter.unreachableTactic false
set_option linter.unusedVariables false

variable {α : Type} {φ : State → α}

theorem execRigStart_frame (h_regs : Blind.regs φ) (h_pending : Blind.pending φ) (h_out : Blind.out φ) (h_rigs : Blind.rigs φ) (h_mem : Blind.mem φ) (h_memCheck : Blind.memCheck φ) (h_memEpoch : Blind.memEpoch φ) (h_memKey : Blind.memKey φ) (w : CtrlWrite) (s : State) (t' : State)
    (h : execRigStart w s = .next t') : φ t' = φ s := by
  unfold execRigStart at h
  refine rigCtrl_frame h_pending h_out _ _ _ _ _ (fun _ => ?_) _ h
  repeat' first
    | simp only [put_frame h_out, refuseLoad_frame h_regs h_rigs h_mem h_memCheck h_memEpoch h_memKey, setLd_frame h_regs, unset_frame h_regs]
    | split
    | dsimp only
    | with_reducible rfl

theorem execRigFetchComplete_frame (h_regs : Blind.regs φ) (h_seq : Blind.seq φ) (h_pending : Blind.pending φ) (h_out : Blind.out φ) (h_mem : Blind.mem φ) (h_memCheck : Blind.memCheck φ) (h_memEpoch : Blind.memEpoch φ) (h_memKey : Blind.memKey φ) (h_rings : Blind.rings φ) (h_journal : Blind.journal φ) (h_sec : Blind.sec φ) (h_det : Blind.det φ) (p : Nat) (image : List Byte) (s : State) (t' : State)
    (h : execRigFetchComplete p image s = .next t') : φ t' = φ s := by
  unfold execRigFetchComplete at h
  refine perform_frame h_out h_pending h (fun s => ?_)
  repeat' first
    | simp only [setLd_frame h_regs, slotWrite_frame h_regs h_seq h_mem h_memCheck h_memEpoch h_memKey h_rings h_journal h_sec h_det]
    | split
    | dsimp only
    | with_reducible rfl

theorem execFetchFailed_frame (h_regs : Blind.regs φ) (h_pending : Blind.pending φ) (h_out : Blind.out φ) (h_rigs : Blind.rigs φ) (h_mem : Blind.mem φ) (h_memCheck : Blind.memCheck φ) (h_memEpoch : Blind.memEpoch φ) (h_memKey : Blind.memKey φ) (p : Nat) (s : State) (t' : State)
    (h : execFetchFailed p s = .next t') : φ t' = φ s := by
  unfold execFetchFailed at h
  refine perform_frame h_out h_pending h (fun s => ?_)
  repeat' first
    | simp only [refuseLoad_frame h_regs h_rigs h_mem h_memCheck h_memEpoch h_memKey]
    | split
    | dsimp only
    | with_reducible rfl

theorem execRigVerifyComplete_frame (h_regs : Blind.regs φ) (h_seq : Blind.seq φ) (h_pending : Blind.pending φ) (h_out : Blind.out φ) (h_rigs : Blind.rigs φ) (h_mem : Blind.mem φ) (h_memCheck : Blind.memCheck φ) (h_memEpoch : Blind.memEpoch φ) (h_memKey : Blind.memKey φ) (h_ucs : Blind.ucs φ) (h_ropes : Blind.ropes φ) (h_rings : Blind.rings φ) (h_svcs : Blind.svcs φ) (h_journal : Blind.journal φ) (h_sec : Blind.sec φ) (h_det : Blind.det φ) (p : Nat) (bad : List (Nat × Nat)) (s : State) (t' : State)
    (h : execRigVerifyComplete p bad s = .next t') : φ t' = φ s := by
  unfold execRigVerifyComplete at h
  refine perform_frame h_out h_pending h (fun s => ?_)
  repeat' first
    | simp only [refuseLoad_frame h_regs h_rigs h_mem h_memCheck h_memEpoch h_memKey, setLd_frame h_regs, setMeasure_frame h_regs, slotRead_frame h_regs h_seq h_out h_rigs h_memCheck h_ucs h_ropes h_rings h_svcs h_journal h_sec h_det]
    | split
    | refine Eq.trans (slotRead_frame_of h_regs h_seq h_out h_rigs h_memCheck h_ucs h_ropes h_rings h_svcs h_journal h_sec h_det ‹_›) ?_
    | dsimp only
    | with_reducible rfl

theorem execRigValidateComplete_frame (h_regs : Blind.regs φ) (h_seq : Blind.seq φ) (h_pending : Blind.pending φ) (h_out : Blind.out φ) (h_rigs : Blind.rigs φ) (h_mem : Blind.mem φ) (h_memCheck : Blind.memCheck φ) (h_memEpoch : Blind.memEpoch φ) (h_memKey : Blind.memKey φ) (h_ucs : Blind.ucs φ) (h_ropes : Blind.ropes φ) (h_rings : Blind.rings φ) (h_svcs : Blind.svcs φ) (h_journal : Blind.journal φ) (h_sec : Blind.sec φ) (h_det : Blind.det φ) (p : Nat) (bad : List (Nat × Nat)) (s : State) (t' : State)
    (h : execRigValidateComplete p bad s = .next t') : φ t' = φ s := by
  unfold execRigValidateComplete at h
  refine perform_frame h_out h_pending h (fun s => ?_)
  repeat' first
    | simp only [refuseLoad_frame h_regs h_rigs h_mem h_memCheck h_memEpoch h_memKey, setLd_frame h_regs, setRig_frame h_rigs, slotRead_frame h_regs h_seq h_out h_rigs h_memCheck h_ucs h_ropes h_rings h_svcs h_journal h_sec h_det]
    | split
    | refine Eq.trans (slotRead_frame_of h_regs h_seq h_out h_rigs h_memCheck h_ucs h_ropes h_rings h_svcs h_journal h_sec h_det ‹_›) ?_
    | dsimp only
    | with_reducible rfl

theorem execRigPlaceComplete_frame (h_regs : Blind.regs φ) (h_pending : Blind.pending φ) (h_out : Blind.out φ) (h_power : Blind.power φ) (h_rigs : Blind.rigs φ) (h_mem : Blind.mem φ) (h_memCheck : Blind.memCheck φ) (h_memEpoch : Blind.memEpoch φ) (h_memKey : Blind.memKey φ) (p : Nat) (s : State) (t' : State)
    (h : execRigPlaceComplete p s = .next t') : φ t' = φ s := by
  unfold execRigPlaceComplete at h
  refine perform_frame h_out h_pending h (fun s => ?_)
  repeat' first
    | simp only [refuseLoad_frame h_regs h_rigs h_mem h_memCheck h_memEpoch h_memKey, setLd_frame h_regs, setRig_frame h_rigs, stageUp_frame h_power]
    | with_reducible refine Eq.trans (foldl_frame (fun _ _ => ?_) _ _) ?_
    | split
    | dsimp only
    | with_reducible rfl

theorem execRigApplyComplete_frame (h_regs : Blind.regs φ) (h_pkg : Blind.pkg φ) (h_seq : Blind.seq φ) (h_pending : Blind.pending φ) (h_out : Blind.out φ) (h_power : Blind.power φ) (h_rigs : Blind.rigs φ) (h_treads : Blind.treads φ) (h_chans : Blind.chans φ) (h_knots : Blind.knots φ) (h_flights : Blind.flights φ) (h_stages : Blind.stages φ) (h_ctxs : Blind.ctxs φ) (h_landings : Blind.landings φ) (h_parts : Blind.parts φ) (h_reds : Blind.reds φ) (h_mem : Blind.mem φ) (h_memCheck : Blind.memCheck φ) (h_memEpoch : Blind.memEpoch φ) (h_memKey : Blind.memKey φ) (h_ropes : Blind.ropes φ) (h_fabric : Blind.fabric φ) (h_rings : Blind.rings φ) (h_svcs : Blind.svcs φ) (h_det : Blind.det φ) (p : Nat) (s : State) (t' : State)
    (h : execRigApplyComplete p s = .next t') : φ t' = φ s := by
  unfold execRigApplyComplete at h
  refine perform_frame h_out h_pending h (fun s => ?_)
  repeat' first
    | simp only [commitLoad_frame h_regs h_pkg h_seq h_out h_power h_rigs h_treads h_chans h_knots h_stages h_ctxs h_landings h_parts h_reds h_ropes h_fabric h_rings h_svcs h_det, flightOff_frame h_regs h_power h_treads h_flights, refuseLoad_frame h_regs h_rigs h_mem h_memCheck h_memEpoch h_memKey, setRig_frame h_rigs, stageUp_frame h_power, unstage_frame h_regs h_power h_treads h_flights]
    | with_reducible refine Eq.trans (foldl_frame (fun _ _ => ?_) _ _) ?_
    | split
    | dsimp only
    | with_reducible rfl

theorem execApplyFault_frame (h_regs : Blind.regs φ) (h_pending : Blind.pending φ) (h_out : Blind.out φ) (h_power : Blind.power φ) (h_rigs : Blind.rigs φ) (h_treads : Blind.treads φ) (h_flights : Blind.flights φ) (h_mem : Blind.mem φ) (h_memCheck : Blind.memCheck φ) (h_memEpoch : Blind.memEpoch φ) (h_memKey : Blind.memKey φ) (p : Nat) (s : State) (t' : State)
    (h : execApplyFault p s = .next t') : φ t' = φ s := by
  unfold execApplyFault at h
  refine perform_frame h_out h_pending h (fun s => ?_)
  repeat' first
    | simp only [refuseLoad_frame h_regs h_rigs h_mem h_memCheck h_memEpoch h_memKey, unstage_frame h_regs h_power h_treads h_flights]
    | split
    | dsimp only
    | with_reducible rfl

theorem execRigAbort_frame (h_regs : Blind.regs φ) (h_pending : Blind.pending φ) (h_out : Blind.out φ) (h_rigs : Blind.rigs φ) (h_mem : Blind.mem φ) (h_memCheck : Blind.memCheck φ) (h_memEpoch : Blind.memEpoch φ) (h_memKey : Blind.memKey φ) (w : CtrlWrite) (s : State) (t' : State)
    (h : execRigAbort w s = .next t') : φ t' = φ s := by
  unfold execRigAbort at h
  refine rigCtrl_frame h_pending h_out _ _ _ _ _ (fun _ => ?_) _ h
  repeat' first
    | simp only [refuseLoad_frame h_regs h_rigs h_mem h_memCheck h_memEpoch h_memKey]
    | split
    | dsimp only
    | with_reducible rfl

end Sys2Proof.Laws
end

