-- ==== Sys2Proof/Laws/Table.lean ====
section
/-!
SUPPORT. Sparse tables: a read after a write, and that every operation keeps the canonical form.
-/
namespace Sys2Proof.Laws
open Machine

variable {α : Type} {d : α}

theorem tget_tdel_self (t : Tbl α) (k : Nat) : tget d (tdel t k) k = d := by
  induction t with
  | nil => rfl
  | cons e r ih =>
    obtain ⟨a, v⟩ := e
    by_cases hk : a = k <;> simp [tdel, tget, hk, ih]

theorem tget_tdel_other (t : Tbl α) {k j : Nat} (h : j ≠ k) : tget d (tdel t k) j = tget d t j := by
  induction t with
  | nil => rfl
  | cons e r ih =>
    obtain ⟨a, v⟩ := e
    by_cases hk : a = k
    · subst hk; simp [tdel, tget, Ne.symm h, ih]
    · simp [tdel, tget, hk, ih]

theorem tget_tins_self (t : Tbl α) (k : Nat) (v : α) (h : ∀ p ∈ t, p.1 ≠ k) : tget d (tins t k v) k = v := by
  induction t with
  | nil => simp [tins, tget]
  | cons e r ih =>
    obtain ⟨a, w⟩ := e
    have ha : a ≠ k := h (a, w) (by simp)
    simp only [tins]
    split
    · simp [tget]
    · simp only [tget, if_neg ha]; exact ih fun p hp => h p (by simp [hp])

theorem tget_tins_other (t : Tbl α) {k j : Nat} (v : α) (h : j ≠ k) : tget d (tins t k v) j = tget d t j := by
  induction t with
  | nil => simp [tins, tget, Ne.symm h]
  | cons e r ih =>
    obtain ⟨a, w⟩ := e
    simp only [tins]
    split
    · simp [tget, Ne.symm h]
    · simp [tget, ih]

theorem tdel_mem {t : Tbl α} {k : Nat} {p : Nat × α} (h : p ∈ tdel t k) : p ∈ t := by
  induction t with
  | nil => cases h
  | cons e r ih =>
    obtain ⟨a, v⟩ := e
    simp only [tdel] at h
    split at h
    · simp [ih h]
    · rcases List.mem_cons.1 h with h | h
      · simp [h]
      · simp [ih h]

theorem tdel_fresh (t : Tbl α) (k : Nat) : ∀ p ∈ tdel t k, p.1 ≠ k := by
  induction t with
  | nil => intro p h; cases h
  | cons e r ih =>
    obtain ⟨a, v⟩ := e
    intro p h
    simp only [tdel] at h
    split at h
    · exact ih p h
    · rename_i hk
      rcases List.mem_cons.1 h with h | h
      · simpa [h] using hk
      · exact ih p h

theorem tdel_wf {t : Tbl α} (k : Nat) (h : TblWf d t) : TblWf d (tdel t k) := by
  refine ⟨?_, fun p hp => h.2 p (tdel_mem hp)⟩
  have hs := h.1
  clear h
  induction t with
  | nil => simp [tdel]
  | cons e r ih =>
    obtain ⟨a, v⟩ := e
    simp only [List.map_cons, List.pairwise_cons] at hs
    simp only [tdel]
    split
    · exact ih hs.2
    · simp only [List.map_cons, List.pairwise_cons]
      refine ⟨fun b hb => ?_, ih hs.2⟩
      obtain ⟨p, hp, rfl⟩ := List.mem_map.1 hb
      exact hs.1 _ (List.mem_map_of_mem (tdel_mem hp))

theorem tins_keys {t : Tbl α} {k : Nat} {v : α} {p : Nat × α} (h : p ∈ tins t k v) : p = (k, v) ∨ p ∈ t := by
  induction t with
  | nil => simpa [tins] using h
  | cons e r ih =>
    obtain ⟨a, w⟩ := e
    simp only [tins] at h
    split at h
    · rcases List.mem_cons.1 h with h | h
      · exact .inl h
      · exact .inr h
    · rcases List.mem_cons.1 h with h | h
      · exact .inr (by simp [h])
      · exact (ih h).imp id fun h => by simp [h]

theorem tins_wf {t : Tbl α} {k : Nat} {v : α} (h : TblWf d t) (hk : ∀ p ∈ t, p.1 ≠ k) (hv : v ≠ d) :
    TblWf d (tins t k v) := by
  refine ⟨?_, fun p hp => (tins_keys hp).elim (fun h => by simpa [h] using hv) (h.2 p)⟩
  have hs := h.1
  clear h
  induction t with
  | nil => simp [tins]
  | cons e r ih =>
    obtain ⟨a, w⟩ := e
    simp only [List.map_cons, List.pairwise_cons] at hs
    simp only [tins]
    split
    · rename_i hlt
      simp only [List.map_cons, List.pairwise_cons]
      refine ⟨fun b hb => ?_, hs⟩
      rcases List.mem_cons.1 hb with hb | hb
      · omega
      · have := hs.1 b hb; omega
    · rename_i hlt
      have ha : a ≠ k := hk (a, w) (by simp)
      simp only [List.map_cons, List.pairwise_cons]
      refine ⟨fun b hb => ?_, ih (fun p hp => hk p (by simp [hp])) hs.2⟩
      obtain ⟨p, hp, rfl⟩ := List.mem_map.1 hb
      rcases tins_keys hp with h | h
      · subst h; simp only; omega
      · exact hs.1 _ (List.mem_map_of_mem h)

/-- A write keeps the canonical form. -/
theorem tset_wf [DecidableEq α] {t : Tbl α} (k : Nat) (v : α) (h : TblWf d t) : TblWf d (tset d t k v) := by
  unfold tset
  split
  · exact tdel_wf k h
  · rename_i hv; exact tins_wf (tdel_wf k h) (tdel_fresh t k) hv

/-- Taking entries out keeps the canonical form. -/
theorem filter_wf {t : Tbl α} (f : Nat × α → Bool) (h : TblWf d t) : TblWf d (t.filter f) :=
  ⟨h.1.sublist (List.Sublist.map _ List.filter_sublist), fun p hp => h.2 p (List.mem_filter.1 hp).1⟩

/-- A read of the key just written gives the value written. -/
@[simp] theorem tget_tset_self [DecidableEq α] (t : Tbl α) (k : Nat) (v : α) : tget d (tset d t k v) k = v := by
  unfold tset
  split
  · rename_i hv; rw [hv]; exact tget_tdel_self t k
  · exact tget_tins_self _ _ _ (tdel_fresh t k)

/-- A read of another key gives what it gave. -/
theorem tget_tset_other [DecidableEq α] (t : Tbl α) {k j : Nat} (v : α) (h : j ≠ k) :
    tget d (tset d t k v) j = tget d t j := by
  unfold tset
  split
  · exact tget_tdel_other t h
  · rw [tget_tins_other _ _ h, tget_tdel_other t h]

/-- The Boolean form of the canonical form. -/
theorem tblWf_iff [DecidableEq α] (t : Tbl α) : tblWf d t = true ↔ TblWf d t := by
  induction t with
  | nil => simp [tblWf, TblWf]
  | cons e r ih =>
    obtain ⟨a, v⟩ := e
    cases r with
    | nil => simp [tblWf, TblWf]
    | cons e r =>
      obtain ⟨b, w⟩ := e
      simp only [tblWf, Bool.and_eq_true, decide_eq_true_eq, ih]
      unfold TblWf
      simp only [List.map_cons, List.pairwise_cons, List.mem_cons, forall_eq_or_imp]
      exact ⟨fun h => ⟨⟨⟨h.1.1, fun c hc => Nat.lt_trans h.1.1 (h.2.1.1 c hc)⟩, h.2.1⟩, h.1.2, h.2.2⟩,
        fun h => ⟨⟨h.1.1.1, h.2.1⟩, h.1.2, h.2.2⟩⟩

theorem tget_unlisted {d : α} {t : Tbl α} {k : Nat} (h : ∀ e ∈ t, e.1 ≠ k) : tget d t k = d := by
  induction t with
  | nil => rfl
  | cons e t ih =>
    obtain ⟨a, v⟩ := e
    have ha : a ≠ k := h (a, v) (by simp)
    simp only [tget, ha, if_false]
    exact ih fun e he => h e (by simp [he])

/-- A table set key by key from its own values: a key that is listed takes its value, any other keeps what it had. -/
theorem tget_foldl_tset [DecidableEq α] {d : α} (g : Nat → α) (l : List (Nat × α)) (m : Tbl α) (k : Nat) :
    tget d (l.foldl (fun m e => tset d m e.1 (g e.1)) m) k = if ∃ e ∈ l, e.1 = k then g k else tget d m k := by
  induction l generalizing m with
  | nil => simp
  | cons e l ih =>
    rw [List.foldl_cons, ih]
    by_cases he : e.1 = k
    · subst he; simp
    · simp only [List.mem_cons, or_and_right, exists_or, exists_eq_left, he, false_or, tget_tset_other _ _ (Ne.symm he)]

/-- `tmap` changes every value, when it leaves the default alone. -/
theorem tget_tmap [DecidableEq α] {d : α} (f : Nat → α → α) (t : Tbl α) (k : Nat) (hd : f k d = d) :
    tget d (tmap d f t) k = f k (tget d t k) := by
  unfold tmap
  rw [tget_foldl_tset (fun a => f a (tget d t a))]
  split
  · rfl
  · rename_i h
    have : tget d t k = d := tget_unlisted fun e he hk => h ⟨e, he, hk⟩
    rw [this, hd]

end Sys2Proof.Laws
end

