-- ==== Sys2Proof/Laws/Memory.lean ====
section
/-!
SUPPORT. Laws of Yuseon: a byte read after bytes are put, and what a failing check says of the check field (09 R324).
-/
namespace Sys2Proof.Laws
open Machine

/-- A line fails exactly when the CRC that its check field holds is not the one of the line as it stands (09 R324). -/
theorem lineFails_iff (s : State) (n : Nat) :
    s.lineFails n = true ↔ s.checkField n % 2 ^ 32 ≠ s.lineCrc n % 2 ^ 32 := by
  unfold State.lineFails State.checkField
  rw [Nat.add_mod, Nat.mul_mod_left, Nat.add_zero, Nat.mod_mod, Nat.mod_mod, Nat.xor_mod_two_pow, bne_iff_ne, ne_eq, ne_eq]
  refine not_congr ⟨fun h => by rw [h, Nat.xor_zero], fun h => ?_⟩
  have hx := congrArg (s.lineCrc n % 2 ^ 32 ^^^ ·) h
  simpa [← Nat.xor_assoc] using hx

/-- Bytes put at an offset are there, and every other byte is as it was. -/
theorem memByte_pokeBytes (o : Nat) (l : List Byte) (s : State) (a : Nat) :
    (pokeBytes o l s).memByte a = if h : o ≤ a ∧ a < o + l.length then l[a - o]'(by omega) else s.memByte a := by
  have key : ∀ (l : List Byte) (k : Nat) (m : Memory),
      tget 0 ((l.zipIdx k).foldl (fun m (x : Byte × Nat) => tset 0 m (o + x.2) x.1) m) a
        = if h : o + k ≤ a ∧ a < o + k + l.length then l[a - (o + k)]'(by omega) else tget 0 m a := by
    intro l
    induction l with
    | nil =>
      intro k m
      rw [dif_neg (by simp)]
      rfl
    | cons b l ih =>
      intro k m
      rw [List.zipIdx_cons, List.foldl_cons, ih]
      by_cases h1 : o + (k + 1) ≤ a ∧ a < o + (k + 1) + l.length
      · have h2 : o + k ≤ a ∧ a < o + k + (b :: l).length := by simp only [List.length_cons]; omega
        rw [dif_pos h1, dif_pos h2, List.getElem_cons, dif_neg (by omega)]
        congr 1
      · rw [dif_neg h1]
        by_cases h3 : a = o + k
        · subst h3
          rw [dif_pos (by simp only [List.length_cons]; omega)]
          simp [tget_tset_self]
        · rw [dif_neg (by simp only [List.length_cons]; omega)]
          exact tget_tset_other _ _ h3
  exact (key l 0 s.mem).trans (by simp only [Nat.add_zero]; rfl)

end Sys2Proof.Laws
end

