-- ==== Sys2Proof/Laws/State.lean ====
section
/-!
SUPPORT. What each update of the state does to each of its fields, and what a read of a register field or of a unit gives
after a write.
-/
namespace Sys2Proof.Laws
open Machine Machine.State

@[simp] theorem set_regs (f : Fld) (v : Nat) (s : State) :
    (State.set f v s).regs = tset 0 s.regs f.key ((v % 2 ^ f.width) ^^^ f.reset) := rfl
@[simp] theorem set_pkg (f : Fld) (v : Nat) (s : State) : (State.set f v s).pkg = s.pkg := rfl
@[simp] theorem set_time (f : Fld) (v : Nat) (s : State) : (State.set f v s).time = s.time := rfl
@[simp] theorem set_timers (f : Fld) (v : Nat) (s : State) : (State.set f v s).timers = s.timers := rfl
@[simp] theorem set_seq (f : Fld) (v : Nat) (s : State) : (State.set f v s).seq = s.seq := rfl
@[simp] theorem set_free (f : Fld) (v : Nat) (s : State) : (State.set f v s).free = s.free := rfl
@[simp] theorem set_pending (f : Fld) (v : Nat) (s : State) : (State.set f v s).pending = s.pending := rfl
@[simp] theorem set_out (f : Fld) (v : Nat) (s : State) : (State.set f v s).out = s.out := rfl
@[simp] theorem set_hiLatch (f : Fld) (v : Nat) (s : State) : (State.set f v s).hiLatch = s.hiLatch := rfl
@[simp] theorem set_commitLatch (f : Fld) (v : Nat) (s : State) : (State.set f v s).commitLatch = s.commitLatch := rfl
@[simp] theorem set_pins (f : Fld) (v : Nat) (s : State) : (State.set f v s).pins = s.pins := rfl
@[simp] theorem set_fence (f : Fld) (v : Nat) (s : State) : (State.set f v s).fence = s.fence := rfl
@[simp] theorem set_power (f : Fld) (v : Nat) (s : State) : (State.set f v s).power = s.power := rfl
@[simp] theorem set_rigs (f : Fld) (v : Nat) (s : State) : (State.set f v s).rigs = s.rigs := rfl
@[simp] theorem set_treads (f : Fld) (v : Nat) (s : State) : (State.set f v s).treads = s.treads := rfl
@[simp] theorem set_chans (f : Fld) (v : Nat) (s : State) : (State.set f v s).chans = s.chans := rfl
@[simp] theorem set_knots (f : Fld) (v : Nat) (s : State) : (State.set f v s).knots = s.knots := rfl
@[simp] theorem set_flights (f : Fld) (v : Nat) (s : State) : (State.set f v s).flights = s.flights := rfl
@[simp] theorem set_stages (f : Fld) (v : Nat) (s : State) : (State.set f v s).stages = s.stages := rfl
@[simp] theorem set_ctxs (f : Fld) (v : Nat) (s : State) : (State.set f v s).ctxs = s.ctxs := rfl
@[simp] theorem set_landings (f : Fld) (v : Nat) (s : State) : (State.set f v s).landings = s.landings := rfl
@[simp] theorem set_parts (f : Fld) (v : Nat) (s : State) : (State.set f v s).parts = s.parts := rfl
@[simp] theorem set_reds (f : Fld) (v : Nat) (s : State) : (State.set f v s).reds = s.reds := rfl
@[simp] theorem set_mem (f : Fld) (v : Nat) (s : State) : (State.set f v s).mem = s.mem := rfl
@[simp] theorem set_memCheck (f : Fld) (v : Nat) (s : State) : (State.set f v s).memCheck = s.memCheck := rfl
@[simp] theorem set_memEpoch (f : Fld) (v : Nat) (s : State) : (State.set f v s).memEpoch = s.memEpoch := rfl
@[simp] theorem set_memKey (f : Fld) (v : Nat) (s : State) : (State.set f v s).memKey = s.memKey := rfl
@[simp] theorem set_ucs (f : Fld) (v : Nat) (s : State) : (State.set f v s).ucs = s.ucs := rfl
@[simp] theorem set_sparse (f : Fld) (v : Nat) (s : State) : (State.set f v s).sparse = s.sparse := rfl
@[simp] theorem set_gathers (f : Fld) (v : Nat) (s : State) : (State.set f v s).gathers = s.gathers := rfl
@[simp] theorem set_ropes (f : Fld) (v : Nat) (s : State) : (State.set f v s).ropes = s.ropes := rfl
@[simp] theorem set_lasers (f : Fld) (v : Nat) (s : State) : (State.set f v s).lasers = s.lasers := rfl
@[simp] theorem set_fabric (f : Fld) (v : Nat) (s : State) : (State.set f v s).fabric = s.fabric := rfl
@[simp] theorem set_bundles (f : Fld) (v : Nat) (s : State) : (State.set f v s).bundles = s.bundles := rfl
@[simp] theorem set_hces (f : Fld) (v : Nat) (s : State) : (State.set f v s).hces = s.hces := rfl
@[simp] theorem set_rings (f : Fld) (v : Nat) (s : State) : (State.set f v s).rings = s.rings := rfl
@[simp] theorem set_pcie (f : Fld) (v : Nat) (s : State) : (State.set f v s).pcie = s.pcie := rfl
@[simp] theorem set_svcs (f : Fld) (v : Nat) (s : State) : (State.set f v s).svcs = s.svcs := rfl
@[simp] theorem set_journal (f : Fld) (v : Nat) (s : State) : (State.set f v s).journal = s.journal := rfl
@[simp] theorem set_sec (f : Fld) (v : Nat) (s : State) : (State.set f v s).sec = s.sec := rfl
@[simp] theorem set_det (f : Fld) (v : Nat) (s : State) : (State.set f v s).det = s.det := rfl

@[simp] theorem unset_regs (f : Fld) (s : State) : (State.unset f s).regs = tdel s.regs f.key := rfl
@[simp] theorem unset_pkg (f : Fld) (s : State) : (State.unset f s).pkg = s.pkg := rfl
@[simp] theorem unset_time (f : Fld) (s : State) : (State.unset f s).time = s.time := rfl
@[simp] theorem unset_timers (f : Fld) (s : State) : (State.unset f s).timers = s.timers := rfl
@[simp] theorem unset_seq (f : Fld) (s : State) : (State.unset f s).seq = s.seq := rfl
@[simp] theorem unset_free (f : Fld) (s : State) : (State.unset f s).free = s.free := rfl
@[simp] theorem unset_pending (f : Fld) (s : State) : (State.unset f s).pending = s.pending := rfl
@[simp] theorem unset_out (f : Fld) (s : State) : (State.unset f s).out = s.out := rfl
@[simp] theorem unset_hiLatch (f : Fld) (s : State) : (State.unset f s).hiLatch = s.hiLatch := rfl
@[simp] theorem unset_commitLatch (f : Fld) (s : State) : (State.unset f s).commitLatch = s.commitLatch := rfl
@[simp] theorem unset_pins (f : Fld) (s : State) : (State.unset f s).pins = s.pins := rfl
@[simp] theorem unset_fence (f : Fld) (s : State) : (State.unset f s).fence = s.fence := rfl
@[simp] theorem unset_power (f : Fld) (s : State) : (State.unset f s).power = s.power := rfl
@[simp] theorem unset_rigs (f : Fld) (s : State) : (State.unset f s).rigs = s.rigs := rfl
@[simp] theorem unset_treads (f : Fld) (s : State) : (State.unset f s).treads = s.treads := rfl
@[simp] theorem unset_chans (f : Fld) (s : State) : (State.unset f s).chans = s.chans := rfl
@[simp] theorem unset_knots (f : Fld) (s : State) : (State.unset f s).knots = s.knots := rfl
@[simp] theorem unset_flights (f : Fld) (s : State) : (State.unset f s).flights = s.flights := rfl
@[simp] theorem unset_stages (f : Fld) (s : State) : (State.unset f s).stages = s.stages := rfl
@[simp] theorem unset_ctxs (f : Fld) (s : State) : (State.unset f s).ctxs = s.ctxs := rfl
@[simp] theorem unset_landings (f : Fld) (s : State) : (State.unset f s).landings = s.landings := rfl
@[simp] theorem unset_parts (f : Fld) (s : State) : (State.unset f s).parts = s.parts := rfl
@[simp] theorem unset_reds (f : Fld) (s : State) : (State.unset f s).reds = s.reds := rfl
@[simp] theorem unset_mem (f : Fld) (s : State) : (State.unset f s).mem = s.mem := rfl
@[simp] theorem unset_memCheck (f : Fld) (s : State) : (State.unset f s).memCheck = s.memCheck := rfl
@[simp] theorem unset_memEpoch (f : Fld) (s : State) : (State.unset f s).memEpoch = s.memEpoch := rfl
@[simp] theorem unset_memKey (f : Fld) (s : State) : (State.unset f s).memKey = s.memKey := rfl
@[simp] theorem unset_ucs (f : Fld) (s : State) : (State.unset f s).ucs = s.ucs := rfl
@[simp] theorem unset_sparse (f : Fld) (s : State) : (State.unset f s).sparse = s.sparse := rfl
@[simp] theorem unset_gathers (f : Fld) (s : State) : (State.unset f s).gathers = s.gathers := rfl
@[simp] theorem unset_ropes (f : Fld) (s : State) : (State.unset f s).ropes = s.ropes := rfl
@[simp] theorem unset_lasers (f : Fld) (s : State) : (State.unset f s).lasers = s.lasers := rfl
@[simp] theorem unset_fabric (f : Fld) (s : State) : (State.unset f s).fabric = s.fabric := rfl
@[simp] theorem unset_bundles (f : Fld) (s : State) : (State.unset f s).bundles = s.bundles := rfl
@[simp] theorem unset_hces (f : Fld) (s : State) : (State.unset f s).hces = s.hces := rfl
@[simp] theorem unset_rings (f : Fld) (s : State) : (State.unset f s).rings = s.rings := rfl
@[simp] theorem unset_pcie (f : Fld) (s : State) : (State.unset f s).pcie = s.pcie := rfl
@[simp] theorem unset_svcs (f : Fld) (s : State) : (State.unset f s).svcs = s.svcs := rfl
@[simp] theorem unset_journal (f : Fld) (s : State) : (State.unset f s).journal = s.journal := rfl
@[simp] theorem unset_sec (f : Fld) (s : State) : (State.unset f s).sec = s.sec := rfl
@[simp] theorem unset_det (f : Fld) (s : State) : (State.unset f s).det = s.det := rfl

@[simp] theorem put_regs (o : Out) (s : State) : (State.put o s).regs = s.regs := rfl
@[simp] theorem put_pkg (o : Out) (s : State) : (State.put o s).pkg = s.pkg := rfl
@[simp] theorem put_time (o : Out) (s : State) : (State.put o s).time = s.time := rfl
@[simp] theorem put_timers (o : Out) (s : State) : (State.put o s).timers = s.timers := rfl
@[simp] theorem put_seq (o : Out) (s : State) : (State.put o s).seq = s.seq := rfl
@[simp] theorem put_free (o : Out) (s : State) : (State.put o s).free = s.free := rfl
@[simp] theorem put_pending (o : Out) (s : State) : (State.put o s).pending = s.pending := rfl
@[simp] theorem put_out (o : Out) (s : State) : (State.put o s).out = s.out ++ [o] := rfl
@[simp] theorem put_hiLatch (o : Out) (s : State) : (State.put o s).hiLatch = s.hiLatch := rfl
@[simp] theorem put_commitLatch (o : Out) (s : State) : (State.put o s).commitLatch = s.commitLatch := rfl
@[simp] theorem put_pins (o : Out) (s : State) : (State.put o s).pins = s.pins := rfl
@[simp] theorem put_fence (o : Out) (s : State) : (State.put o s).fence = s.fence := rfl
@[simp] theorem put_power (o : Out) (s : State) : (State.put o s).power = s.power := rfl
@[simp] theorem put_rigs (o : Out) (s : State) : (State.put o s).rigs = s.rigs := rfl
@[simp] theorem put_treads (o : Out) (s : State) : (State.put o s).treads = s.treads := rfl
@[simp] theorem put_chans (o : Out) (s : State) : (State.put o s).chans = s.chans := rfl
@[simp] theorem put_knots (o : Out) (s : State) : (State.put o s).knots = s.knots := rfl
@[simp] theorem put_flights (o : Out) (s : State) : (State.put o s).flights = s.flights := rfl
@[simp] theorem put_stages (o : Out) (s : State) : (State.put o s).stages = s.stages := rfl
@[simp] theorem put_ctxs (o : Out) (s : State) : (State.put o s).ctxs = s.ctxs := rfl
@[simp] theorem put_landings (o : Out) (s : State) : (State.put o s).landings = s.landings := rfl
@[simp] theorem put_parts (o : Out) (s : State) : (State.put o s).parts = s.parts := rfl
@[simp] theorem put_reds (o : Out) (s : State) : (State.put o s).reds = s.reds := rfl
@[simp] theorem put_mem (o : Out) (s : State) : (State.put o s).mem = s.mem := rfl
@[simp] theorem put_memCheck (o : Out) (s : State) : (State.put o s).memCheck = s.memCheck := rfl
@[simp] theorem put_memEpoch (o : Out) (s : State) : (State.put o s).memEpoch = s.memEpoch := rfl
@[simp] theorem put_memKey (o : Out) (s : State) : (State.put o s).memKey = s.memKey := rfl
@[simp] theorem put_ucs (o : Out) (s : State) : (State.put o s).ucs = s.ucs := rfl
@[simp] theorem put_sparse (o : Out) (s : State) : (State.put o s).sparse = s.sparse := rfl
@[simp] theorem put_gathers (o : Out) (s : State) : (State.put o s).gathers = s.gathers := rfl
@[simp] theorem put_ropes (o : Out) (s : State) : (State.put o s).ropes = s.ropes := rfl
@[simp] theorem put_lasers (o : Out) (s : State) : (State.put o s).lasers = s.lasers := rfl
@[simp] theorem put_fabric (o : Out) (s : State) : (State.put o s).fabric = s.fabric := rfl
@[simp] theorem put_bundles (o : Out) (s : State) : (State.put o s).bundles = s.bundles := rfl
@[simp] theorem put_hces (o : Out) (s : State) : (State.put o s).hces = s.hces := rfl
@[simp] theorem put_rings (o : Out) (s : State) : (State.put o s).rings = s.rings := rfl
@[simp] theorem put_pcie (o : Out) (s : State) : (State.put o s).pcie = s.pcie := rfl
@[simp] theorem put_svcs (o : Out) (s : State) : (State.put o s).svcs = s.svcs := rfl
@[simp] theorem put_journal (o : Out) (s : State) : (State.put o s).journal = s.journal := rfl
@[simp] theorem put_sec (o : Out) (s : State) : (State.put o s).sec = s.sec := rfl
@[simp] theorem put_det (o : Out) (s : State) : (State.put o s).det = s.det := rfl

@[simp] theorem at_regs (now : W64) (s : State) : (State.at_ now s).regs = s.regs := rfl
@[simp] theorem at_pkg (now : W64) (s : State) : (State.at_ now s).pkg = s.pkg := rfl
@[simp] theorem at_time (now : W64) (s : State) : (State.at_ now s).time = max s.time now.toNat := rfl
@[simp] theorem at_timers (now : W64) (s : State) : (State.at_ now s).timers = s.timers := rfl
@[simp] theorem at_seq (now : W64) (s : State) : (State.at_ now s).seq = s.seq := rfl
@[simp] theorem at_free (now : W64) (s : State) : (State.at_ now s).free = s.free := rfl
@[simp] theorem at_pending (now : W64) (s : State) : (State.at_ now s).pending = s.pending := rfl
@[simp] theorem at_out (now : W64) (s : State) : (State.at_ now s).out = s.out := rfl
@[simp] theorem at_hiLatch (now : W64) (s : State) : (State.at_ now s).hiLatch = s.hiLatch := rfl
@[simp] theorem at_commitLatch (now : W64) (s : State) : (State.at_ now s).commitLatch = s.commitLatch := rfl
@[simp] theorem at_pins (now : W64) (s : State) : (State.at_ now s).pins = s.pins := rfl
@[simp] theorem at_fence (now : W64) (s : State) : (State.at_ now s).fence = s.fence := rfl
@[simp] theorem at_power (now : W64) (s : State) : (State.at_ now s).power = s.power := rfl
@[simp] theorem at_rigs (now : W64) (s : State) : (State.at_ now s).rigs = s.rigs := rfl
@[simp] theorem at_treads (now : W64) (s : State) : (State.at_ now s).treads = s.treads := rfl
@[simp] theorem at_chans (now : W64) (s : State) : (State.at_ now s).chans = s.chans := rfl
@[simp] theorem at_knots (now : W64) (s : State) : (State.at_ now s).knots = s.knots := rfl
@[simp] theorem at_flights (now : W64) (s : State) : (State.at_ now s).flights = s.flights := rfl
@[simp] theorem at_stages (now : W64) (s : State) : (State.at_ now s).stages = s.stages := rfl
@[simp] theorem at_ctxs (now : W64) (s : State) : (State.at_ now s).ctxs = s.ctxs := rfl
@[simp] theorem at_landings (now : W64) (s : State) : (State.at_ now s).landings = s.landings := rfl
@[simp] theorem at_parts (now : W64) (s : State) : (State.at_ now s).parts = s.parts := rfl
@[simp] theorem at_reds (now : W64) (s : State) : (State.at_ now s).reds = s.reds := rfl
@[simp] theorem at_mem (now : W64) (s : State) : (State.at_ now s).mem = s.mem := rfl
@[simp] theorem at_memCheck (now : W64) (s : State) : (State.at_ now s).memCheck = s.memCheck := rfl
@[simp] theorem at_memEpoch (now : W64) (s : State) : (State.at_ now s).memEpoch = s.memEpoch := rfl
@[simp] theorem at_memKey (now : W64) (s : State) : (State.at_ now s).memKey = s.memKey := rfl
@[simp] theorem at_ucs (now : W64) (s : State) : (State.at_ now s).ucs = s.ucs := rfl
@[simp] theorem at_sparse (now : W64) (s : State) : (State.at_ now s).sparse = s.sparse := rfl
@[simp] theorem at_gathers (now : W64) (s : State) : (State.at_ now s).gathers = s.gathers := rfl
@[simp] theorem at_ropes (now : W64) (s : State) : (State.at_ now s).ropes = s.ropes := rfl
@[simp] theorem at_lasers (now : W64) (s : State) : (State.at_ now s).lasers = s.lasers := rfl
@[simp] theorem at_fabric (now : W64) (s : State) : (State.at_ now s).fabric = s.fabric := rfl
@[simp] theorem at_bundles (now : W64) (s : State) : (State.at_ now s).bundles = s.bundles := rfl
@[simp] theorem at_hces (now : W64) (s : State) : (State.at_ now s).hces = s.hces := rfl
@[simp] theorem at_rings (now : W64) (s : State) : (State.at_ now s).rings = s.rings := rfl
@[simp] theorem at_pcie (now : W64) (s : State) : (State.at_ now s).pcie = s.pcie := rfl
@[simp] theorem at_svcs (now : W64) (s : State) : (State.at_ now s).svcs = s.svcs := rfl
@[simp] theorem at_journal (now : W64) (s : State) : (State.at_ now s).journal = s.journal := rfl
@[simp] theorem at_sec (now : W64) (s : State) : (State.at_ now s).sec = s.sec := rfl
@[simp] theorem at_det (now : W64) (s : State) : (State.at_ now s).det = s.det := rfl

@[simp] theorem ropeAt_regs (k : Nat) (now : W64) (s : State) : (State.ropeAt k now s).regs = s.regs := rfl
@[simp] theorem ropeAt_pkg (k : Nat) (now : W64) (s : State) : (State.ropeAt k now s).pkg = s.pkg := rfl
@[simp] theorem ropeAt_time (k : Nat) (now : W64) (s : State) : (State.ropeAt k now s).time = s.time := rfl
@[simp] theorem ropeAt_timers (k : Nat) (now : W64) (s : State) : (State.ropeAt k now s).timers = tset 0 s.timers k (max (s.timer k) now.toNat) := rfl
@[simp] theorem ropeAt_seq (k : Nat) (now : W64) (s : State) : (State.ropeAt k now s).seq = s.seq := rfl
@[simp] theorem ropeAt_free (k : Nat) (now : W64) (s : State) : (State.ropeAt k now s).free = s.free := rfl
@[simp] theorem ropeAt_pending (k : Nat) (now : W64) (s : State) : (State.ropeAt k now s).pending = s.pending := rfl
@[simp] theorem ropeAt_out (k : Nat) (now : W64) (s : State) : (State.ropeAt k now s).out = s.out := rfl
@[simp] theorem ropeAt_hiLatch (k : Nat) (now : W64) (s : State) : (State.ropeAt k now s).hiLatch = s.hiLatch := rfl
@[simp] theorem ropeAt_commitLatch (k : Nat) (now : W64) (s : State) : (State.ropeAt k now s).commitLatch = s.commitLatch := rfl
@[simp] theorem ropeAt_pins (k : Nat) (now : W64) (s : State) : (State.ropeAt k now s).pins = s.pins := rfl
@[simp] theorem ropeAt_fence (k : Nat) (now : W64) (s : State) : (State.ropeAt k now s).fence = s.fence := rfl
@[simp] theorem ropeAt_power (k : Nat) (now : W64) (s : State) : (State.ropeAt k now s).power = s.power := rfl
@[simp] theorem ropeAt_rigs (k : Nat) (now : W64) (s : State) : (State.ropeAt k now s).rigs = s.rigs := rfl
@[simp] theorem ropeAt_treads (k : Nat) (now : W64) (s : State) : (State.ropeAt k now s).treads = s.treads := rfl
@[simp] theorem ropeAt_chans (k : Nat) (now : W64) (s : State) : (State.ropeAt k now s).chans = s.chans := rfl
@[simp] theorem ropeAt_knots (k : Nat) (now : W64) (s : State) : (State.ropeAt k now s).knots = s.knots := rfl
@[simp] theorem ropeAt_flights (k : Nat) (now : W64) (s : State) : (State.ropeAt k now s).flights = s.flights := rfl
@[simp] theorem ropeAt_stages (k : Nat) (now : W64) (s : State) : (State.ropeAt k now s).stages = s.stages := rfl
@[simp] theorem ropeAt_ctxs (k : Nat) (now : W64) (s : State) : (State.ropeAt k now s).ctxs = s.ctxs := rfl
@[simp] theorem ropeAt_landings (k : Nat) (now : W64) (s : State) : (State.ropeAt k now s).landings = s.landings := rfl
@[simp] theorem ropeAt_parts (k : Nat) (now : W64) (s : State) : (State.ropeAt k now s).parts = s.parts := rfl
@[simp] theorem ropeAt_reds (k : Nat) (now : W64) (s : State) : (State.ropeAt k now s).reds = s.reds := rfl
@[simp] theorem ropeAt_mem (k : Nat) (now : W64) (s : State) : (State.ropeAt k now s).mem = s.mem := rfl
@[simp] theorem ropeAt_memCheck (k : Nat) (now : W64) (s : State) : (State.ropeAt k now s).memCheck = s.memCheck := rfl
@[simp] theorem ropeAt_memEpoch (k : Nat) (now : W64) (s : State) : (State.ropeAt k now s).memEpoch = s.memEpoch := rfl
@[simp] theorem ropeAt_memKey (k : Nat) (now : W64) (s : State) : (State.ropeAt k now s).memKey = s.memKey := rfl
@[simp] theorem ropeAt_ucs (k : Nat) (now : W64) (s : State) : (State.ropeAt k now s).ucs = s.ucs := rfl
@[simp] theorem ropeAt_sparse (k : Nat) (now : W64) (s : State) : (State.ropeAt k now s).sparse = s.sparse := rfl
@[simp] theorem ropeAt_gathers (k : Nat) (now : W64) (s : State) : (State.ropeAt k now s).gathers = s.gathers := rfl
@[simp] theorem ropeAt_ropes (k : Nat) (now : W64) (s : State) : (State.ropeAt k now s).ropes = s.ropes := rfl
@[simp] theorem ropeAt_lasers (k : Nat) (now : W64) (s : State) : (State.ropeAt k now s).lasers = s.lasers := rfl
@[simp] theorem ropeAt_fabric (k : Nat) (now : W64) (s : State) : (State.ropeAt k now s).fabric = s.fabric := rfl
@[simp] theorem ropeAt_bundles (k : Nat) (now : W64) (s : State) : (State.ropeAt k now s).bundles = s.bundles := rfl
@[simp] theorem ropeAt_hces (k : Nat) (now : W64) (s : State) : (State.ropeAt k now s).hces = s.hces := rfl
@[simp] theorem ropeAt_rings (k : Nat) (now : W64) (s : State) : (State.ropeAt k now s).rings = s.rings := rfl
@[simp] theorem ropeAt_pcie (k : Nat) (now : W64) (s : State) : (State.ropeAt k now s).pcie = s.pcie := rfl
@[simp] theorem ropeAt_svcs (k : Nat) (now : W64) (s : State) : (State.ropeAt k now s).svcs = s.svcs := rfl
@[simp] theorem ropeAt_journal (k : Nat) (now : W64) (s : State) : (State.ropeAt k now s).journal = s.journal := rfl
@[simp] theorem ropeAt_sec (k : Nat) (now : W64) (s : State) : (State.ropeAt k now s).sec = s.sec := rfl
@[simp] theorem ropeAt_det (k : Nat) (now : W64) (s : State) : (State.ropeAt k now s).det = s.det := rfl

@[simp] theorem setRig_regs (p : Nat) (v : Rig) (s : State) : (State.setRig p v s).regs = s.regs := rfl
@[simp] theorem setRig_pkg (p : Nat) (v : Rig) (s : State) : (State.setRig p v s).pkg = s.pkg := rfl
@[simp] theorem setRig_time (p : Nat) (v : Rig) (s : State) : (State.setRig p v s).time = s.time := rfl
@[simp] theorem setRig_timers (p : Nat) (v : Rig) (s : State) : (State.setRig p v s).timers = s.timers := rfl
@[simp] theorem setRig_seq (p : Nat) (v : Rig) (s : State) : (State.setRig p v s).seq = s.seq := rfl
@[simp] theorem setRig_free (p : Nat) (v : Rig) (s : State) : (State.setRig p v s).free = s.free := rfl
@[simp] theorem setRig_pending (p : Nat) (v : Rig) (s : State) : (State.setRig p v s).pending = s.pending := rfl
@[simp] theorem setRig_out (p : Nat) (v : Rig) (s : State) : (State.setRig p v s).out = s.out := rfl
@[simp] theorem setRig_hiLatch (p : Nat) (v : Rig) (s : State) : (State.setRig p v s).hiLatch = s.hiLatch := rfl
@[simp] theorem setRig_commitLatch (p : Nat) (v : Rig) (s : State) : (State.setRig p v s).commitLatch = s.commitLatch := rfl
@[simp] theorem setRig_pins (p : Nat) (v : Rig) (s : State) : (State.setRig p v s).pins = s.pins := rfl
@[simp] theorem setRig_fence (p : Nat) (v : Rig) (s : State) : (State.setRig p v s).fence = s.fence := rfl
@[simp] theorem setRig_power (p : Nat) (v : Rig) (s : State) : (State.setRig p v s).power = s.power := rfl
@[simp] theorem setRig_rigs (p : Nat) (v : Rig) (s : State) : (State.setRig p v s).rigs = tset Rig.init s.rigs p v := rfl
@[simp] theorem setRig_treads (p : Nat) (v : Rig) (s : State) : (State.setRig p v s).treads = s.treads := rfl
@[simp] theorem setRig_chans (p : Nat) (v : Rig) (s : State) : (State.setRig p v s).chans = s.chans := rfl
@[simp] theorem setRig_knots (p : Nat) (v : Rig) (s : State) : (State.setRig p v s).knots = s.knots := rfl
@[simp] theorem setRig_flights (p : Nat) (v : Rig) (s : State) : (State.setRig p v s).flights = s.flights := rfl
@[simp] theorem setRig_stages (p : Nat) (v : Rig) (s : State) : (State.setRig p v s).stages = s.stages := rfl
@[simp] theorem setRig_ctxs (p : Nat) (v : Rig) (s : State) : (State.setRig p v s).ctxs = s.ctxs := rfl
@[simp] theorem setRig_landings (p : Nat) (v : Rig) (s : State) : (State.setRig p v s).landings = s.landings := rfl
@[simp] theorem setRig_parts (p : Nat) (v : Rig) (s : State) : (State.setRig p v s).parts = s.parts := rfl
@[simp] theorem setRig_reds (p : Nat) (v : Rig) (s : State) : (State.setRig p v s).reds = s.reds := rfl
@[simp] theorem setRig_mem (p : Nat) (v : Rig) (s : State) : (State.setRig p v s).mem = s.mem := rfl
@[simp] theorem setRig_memCheck (p : Nat) (v : Rig) (s : State) : (State.setRig p v s).memCheck = s.memCheck := rfl
@[simp] theorem setRig_memEpoch (p : Nat) (v : Rig) (s : State) : (State.setRig p v s).memEpoch = s.memEpoch := rfl
@[simp] theorem setRig_memKey (p : Nat) (v : Rig) (s : State) : (State.setRig p v s).memKey = s.memKey := rfl
@[simp] theorem setRig_ucs (p : Nat) (v : Rig) (s : State) : (State.setRig p v s).ucs = s.ucs := rfl
@[simp] theorem setRig_sparse (p : Nat) (v : Rig) (s : State) : (State.setRig p v s).sparse = s.sparse := rfl
@[simp] theorem setRig_gathers (p : Nat) (v : Rig) (s : State) : (State.setRig p v s).gathers = s.gathers := rfl
@[simp] theorem setRig_ropes (p : Nat) (v : Rig) (s : State) : (State.setRig p v s).ropes = s.ropes := rfl
@[simp] theorem setRig_lasers (p : Nat) (v : Rig) (s : State) : (State.setRig p v s).lasers = s.lasers := rfl
@[simp] theorem setRig_fabric (p : Nat) (v : Rig) (s : State) : (State.setRig p v s).fabric = s.fabric := rfl
@[simp] theorem setRig_bundles (p : Nat) (v : Rig) (s : State) : (State.setRig p v s).bundles = s.bundles := rfl
@[simp] theorem setRig_hces (p : Nat) (v : Rig) (s : State) : (State.setRig p v s).hces = s.hces := rfl
@[simp] theorem setRig_rings (p : Nat) (v : Rig) (s : State) : (State.setRig p v s).rings = s.rings := rfl
@[simp] theorem setRig_pcie (p : Nat) (v : Rig) (s : State) : (State.setRig p v s).pcie = s.pcie := rfl
@[simp] theorem setRig_svcs (p : Nat) (v : Rig) (s : State) : (State.setRig p v s).svcs = s.svcs := rfl
@[simp] theorem setRig_journal (p : Nat) (v : Rig) (s : State) : (State.setRig p v s).journal = s.journal := rfl
@[simp] theorem setRig_sec (p : Nat) (v : Rig) (s : State) : (State.setRig p v s).sec = s.sec := rfl
@[simp] theorem setRig_det (p : Nat) (v : Rig) (s : State) : (State.setRig p v s).det = s.det := rfl

@[simp] theorem setTread_regs (t : Nat) (v : Tread) (s : State) : (State.setTread t v s).regs = s.regs := rfl
@[simp] theorem setTread_pkg (t : Nat) (v : Tread) (s : State) : (State.setTread t v s).pkg = s.pkg := rfl
@[simp] theorem setTread_time (t : Nat) (v : Tread) (s : State) : (State.setTread t v s).time = s.time := rfl
@[simp] theorem setTread_timers (t : Nat) (v : Tread) (s : State) : (State.setTread t v s).timers = s.timers := rfl
@[simp] theorem setTread_seq (t : Nat) (v : Tread) (s : State) : (State.setTread t v s).seq = s.seq := rfl
@[simp] theorem setTread_free (t : Nat) (v : Tread) (s : State) : (State.setTread t v s).free = s.free := rfl
@[simp] theorem setTread_pending (t : Nat) (v : Tread) (s : State) : (State.setTread t v s).pending = s.pending := rfl
@[simp] theorem setTread_out (t : Nat) (v : Tread) (s : State) : (State.setTread t v s).out = s.out := rfl
@[simp] theorem setTread_hiLatch (t : Nat) (v : Tread) (s : State) : (State.setTread t v s).hiLatch = s.hiLatch := rfl
@[simp] theorem setTread_commitLatch (t : Nat) (v : Tread) (s : State) : (State.setTread t v s).commitLatch = s.commitLatch := rfl
@[simp] theorem setTread_pins (t : Nat) (v : Tread) (s : State) : (State.setTread t v s).pins = s.pins := rfl
@[simp] theorem setTread_fence (t : Nat) (v : Tread) (s : State) : (State.setTread t v s).fence = s.fence := rfl
@[simp] theorem setTread_power (t : Nat) (v : Tread) (s : State) : (State.setTread t v s).power = s.power := rfl
@[simp] theorem setTread_rigs (t : Nat) (v : Tread) (s : State) : (State.setTread t v s).rigs = s.rigs := rfl
@[simp] theorem setTread_treads (t : Nat) (v : Tread) (s : State) : (State.setTread t v s).treads = tset Tread.init s.treads t v := rfl
@[simp] theorem setTread_chans (t : Nat) (v : Tread) (s : State) : (State.setTread t v s).chans = s.chans := rfl
@[simp] theorem setTread_knots (t : Nat) (v : Tread) (s : State) : (State.setTread t v s).knots = s.knots := rfl
@[simp] theorem setTread_flights (t : Nat) (v : Tread) (s : State) : (State.setTread t v s).flights = s.flights := rfl
@[simp] theorem setTread_stages (t : Nat) (v : Tread) (s : State) : (State.setTread t v s).stages = s.stages := rfl
@[simp] theorem setTread_ctxs (t : Nat) (v : Tread) (s : State) : (State.setTread t v s).ctxs = s.ctxs := rfl
@[simp] theorem setTread_landings (t : Nat) (v : Tread) (s : State) : (State.setTread t v s).landings = s.landings := rfl
@[simp] theorem setTread_parts (t : Nat) (v : Tread) (s : State) : (State.setTread t v s).parts = s.parts := rfl
@[simp] theorem setTread_reds (t : Nat) (v : Tread) (s : State) : (State.setTread t v s).reds = s.reds := rfl
@[simp] theorem setTread_mem (t : Nat) (v : Tread) (s : State) : (State.setTread t v s).mem = s.mem := rfl
@[simp] theorem setTread_memCheck (t : Nat) (v : Tread) (s : State) : (State.setTread t v s).memCheck = s.memCheck := rfl
@[simp] theorem setTread_memEpoch (t : Nat) (v : Tread) (s : State) : (State.setTread t v s).memEpoch = s.memEpoch := rfl
@[simp] theorem setTread_memKey (t : Nat) (v : Tread) (s : State) : (State.setTread t v s).memKey = s.memKey := rfl
@[simp] theorem setTread_ucs (t : Nat) (v : Tread) (s : State) : (State.setTread t v s).ucs = s.ucs := rfl
@[simp] theorem setTread_sparse (t : Nat) (v : Tread) (s : State) : (State.setTread t v s).sparse = s.sparse := rfl
@[simp] theorem setTread_gathers (t : Nat) (v : Tread) (s : State) : (State.setTread t v s).gathers = s.gathers := rfl
@[simp] theorem setTread_ropes (t : Nat) (v : Tread) (s : State) : (State.setTread t v s).ropes = s.ropes := rfl
@[simp] theorem setTread_lasers (t : Nat) (v : Tread) (s : State) : (State.setTread t v s).lasers = s.lasers := rfl
@[simp] theorem setTread_fabric (t : Nat) (v : Tread) (s : State) : (State.setTread t v s).fabric = s.fabric := rfl
@[simp] theorem setTread_bundles (t : Nat) (v : Tread) (s : State) : (State.setTread t v s).bundles = s.bundles := rfl
@[simp] theorem setTread_hces (t : Nat) (v : Tread) (s : State) : (State.setTread t v s).hces = s.hces := rfl
@[simp] theorem setTread_rings (t : Nat) (v : Tread) (s : State) : (State.setTread t v s).rings = s.rings := rfl
@[simp] theorem setTread_pcie (t : Nat) (v : Tread) (s : State) : (State.setTread t v s).pcie = s.pcie := rfl
@[simp] theorem setTread_svcs (t : Nat) (v : Tread) (s : State) : (State.setTread t v s).svcs = s.svcs := rfl
@[simp] theorem setTread_journal (t : Nat) (v : Tread) (s : State) : (State.setTread t v s).journal = s.journal := rfl
@[simp] theorem setTread_sec (t : Nat) (v : Tread) (s : State) : (State.setTread t v s).sec = s.sec := rfl
@[simp] theorem setTread_det (t : Nat) (v : Tread) (s : State) : (State.setTread t v s).det = s.det := rfl

@[simp] theorem setChan_regs (k : Nat) (v : ChanData) (s : State) : (State.setChan k v s).regs = s.regs := rfl
@[simp] theorem setChan_pkg (k : Nat) (v : ChanData) (s : State) : (State.setChan k v s).pkg = s.pkg := rfl
@[simp] theorem setChan_time (k : Nat) (v : ChanData) (s : State) : (State.setChan k v s).time = s.time := rfl
@[simp] theorem setChan_timers (k : Nat) (v : ChanData) (s : State) : (State.setChan k v s).timers = s.timers := rfl
@[simp] theorem setChan_seq (k : Nat) (v : ChanData) (s : State) : (State.setChan k v s).seq = s.seq := rfl
@[simp] theorem setChan_free (k : Nat) (v : ChanData) (s : State) : (State.setChan k v s).free = s.free := rfl
@[simp] theorem setChan_pending (k : Nat) (v : ChanData) (s : State) : (State.setChan k v s).pending = s.pending := rfl
@[simp] theorem setChan_out (k : Nat) (v : ChanData) (s : State) : (State.setChan k v s).out = s.out := rfl
@[simp] theorem setChan_hiLatch (k : Nat) (v : ChanData) (s : State) : (State.setChan k v s).hiLatch = s.hiLatch := rfl
@[simp] theorem setChan_commitLatch (k : Nat) (v : ChanData) (s : State) : (State.setChan k v s).commitLatch = s.commitLatch := rfl
@[simp] theorem setChan_pins (k : Nat) (v : ChanData) (s : State) : (State.setChan k v s).pins = s.pins := rfl
@[simp] theorem setChan_fence (k : Nat) (v : ChanData) (s : State) : (State.setChan k v s).fence = s.fence := rfl
@[simp] theorem setChan_power (k : Nat) (v : ChanData) (s : State) : (State.setChan k v s).power = s.power := rfl
@[simp] theorem setChan_rigs (k : Nat) (v : ChanData) (s : State) : (State.setChan k v s).rigs = s.rigs := rfl
@[simp] theorem setChan_treads (k : Nat) (v : ChanData) (s : State) : (State.setChan k v s).treads = s.treads := rfl
@[simp] theorem setChan_chans (k : Nat) (v : ChanData) (s : State) : (State.setChan k v s).chans = tset ChanData.init s.chans k v := rfl
@[simp] theorem setChan_knots (k : Nat) (v : ChanData) (s : State) : (State.setChan k v s).knots = s.knots := rfl
@[simp] theorem setChan_flights (k : Nat) (v : ChanData) (s : State) : (State.setChan k v s).flights = s.flights := rfl
@[simp] theorem setChan_stages (k : Nat) (v : ChanData) (s : State) : (State.setChan k v s).stages = s.stages := rfl
@[simp] theorem setChan_ctxs (k : Nat) (v : ChanData) (s : State) : (State.setChan k v s).ctxs = s.ctxs := rfl
@[simp] theorem setChan_landings (k : Nat) (v : ChanData) (s : State) : (State.setChan k v s).landings = s.landings := rfl
@[simp] theorem setChan_parts (k : Nat) (v : ChanData) (s : State) : (State.setChan k v s).parts = s.parts := rfl
@[simp] theorem setChan_reds (k : Nat) (v : ChanData) (s : State) : (State.setChan k v s).reds = s.reds := rfl
@[simp] theorem setChan_mem (k : Nat) (v : ChanData) (s : State) : (State.setChan k v s).mem = s.mem := rfl
@[simp] theorem setChan_memCheck (k : Nat) (v : ChanData) (s : State) : (State.setChan k v s).memCheck = s.memCheck := rfl
@[simp] theorem setChan_memEpoch (k : Nat) (v : ChanData) (s : State) : (State.setChan k v s).memEpoch = s.memEpoch := rfl
@[simp] theorem setChan_memKey (k : Nat) (v : ChanData) (s : State) : (State.setChan k v s).memKey = s.memKey := rfl
@[simp] theorem setChan_ucs (k : Nat) (v : ChanData) (s : State) : (State.setChan k v s).ucs = s.ucs := rfl
@[simp] theorem setChan_sparse (k : Nat) (v : ChanData) (s : State) : (State.setChan k v s).sparse = s.sparse := rfl
@[simp] theorem setChan_gathers (k : Nat) (v : ChanData) (s : State) : (State.setChan k v s).gathers = s.gathers := rfl
@[simp] theorem setChan_ropes (k : Nat) (v : ChanData) (s : State) : (State.setChan k v s).ropes = s.ropes := rfl
@[simp] theorem setChan_lasers (k : Nat) (v : ChanData) (s : State) : (State.setChan k v s).lasers = s.lasers := rfl
@[simp] theorem setChan_fabric (k : Nat) (v : ChanData) (s : State) : (State.setChan k v s).fabric = s.fabric := rfl
@[simp] theorem setChan_bundles (k : Nat) (v : ChanData) (s : State) : (State.setChan k v s).bundles = s.bundles := rfl
@[simp] theorem setChan_hces (k : Nat) (v : ChanData) (s : State) : (State.setChan k v s).hces = s.hces := rfl
@[simp] theorem setChan_rings (k : Nat) (v : ChanData) (s : State) : (State.setChan k v s).rings = s.rings := rfl
@[simp] theorem setChan_pcie (k : Nat) (v : ChanData) (s : State) : (State.setChan k v s).pcie = s.pcie := rfl
@[simp] theorem setChan_svcs (k : Nat) (v : ChanData) (s : State) : (State.setChan k v s).svcs = s.svcs := rfl
@[simp] theorem setChan_journal (k : Nat) (v : ChanData) (s : State) : (State.setChan k v s).journal = s.journal := rfl
@[simp] theorem setChan_sec (k : Nat) (v : ChanData) (s : State) : (State.setChan k v s).sec = s.sec := rfl
@[simp] theorem setChan_det (k : Nat) (v : ChanData) (s : State) : (State.setChan k v s).det = s.det := rfl

@[simp] theorem setKnot_regs (k : Nat) (v : Knot) (s : State) : (State.setKnot k v s).regs = s.regs := rfl
@[simp] theorem setKnot_pkg (k : Nat) (v : Knot) (s : State) : (State.setKnot k v s).pkg = s.pkg := rfl
@[simp] theorem setKnot_time (k : Nat) (v : Knot) (s : State) : (State.setKnot k v s).time = s.time := rfl
@[simp] theorem setKnot_timers (k : Nat) (v : Knot) (s : State) : (State.setKnot k v s).timers = s.timers := rfl
@[simp] theorem setKnot_seq (k : Nat) (v : Knot) (s : State) : (State.setKnot k v s).seq = s.seq := rfl
@[simp] theorem setKnot_free (k : Nat) (v : Knot) (s : State) : (State.setKnot k v s).free = s.free := rfl
@[simp] theorem setKnot_pending (k : Nat) (v : Knot) (s : State) : (State.setKnot k v s).pending = s.pending := rfl
@[simp] theorem setKnot_out (k : Nat) (v : Knot) (s : State) : (State.setKnot k v s).out = s.out := rfl
@[simp] theorem setKnot_hiLatch (k : Nat) (v : Knot) (s : State) : (State.setKnot k v s).hiLatch = s.hiLatch := rfl
@[simp] theorem setKnot_commitLatch (k : Nat) (v : Knot) (s : State) : (State.setKnot k v s).commitLatch = s.commitLatch := rfl
@[simp] theorem setKnot_pins (k : Nat) (v : Knot) (s : State) : (State.setKnot k v s).pins = s.pins := rfl
@[simp] theorem setKnot_fence (k : Nat) (v : Knot) (s : State) : (State.setKnot k v s).fence = s.fence := rfl
@[simp] theorem setKnot_power (k : Nat) (v : Knot) (s : State) : (State.setKnot k v s).power = s.power := rfl
@[simp] theorem setKnot_rigs (k : Nat) (v : Knot) (s : State) : (State.setKnot k v s).rigs = s.rigs := rfl
@[simp] theorem setKnot_treads (k : Nat) (v : Knot) (s : State) : (State.setKnot k v s).treads = s.treads := rfl
@[simp] theorem setKnot_chans (k : Nat) (v : Knot) (s : State) : (State.setKnot k v s).chans = s.chans := rfl
@[simp] theorem setKnot_knots (k : Nat) (v : Knot) (s : State) : (State.setKnot k v s).knots = tset Knot.init s.knots k v := rfl
@[simp] theorem setKnot_flights (k : Nat) (v : Knot) (s : State) : (State.setKnot k v s).flights = s.flights := rfl
@[simp] theorem setKnot_stages (k : Nat) (v : Knot) (s : State) : (State.setKnot k v s).stages = s.stages := rfl
@[simp] theorem setKnot_ctxs (k : Nat) (v : Knot) (s : State) : (State.setKnot k v s).ctxs = s.ctxs := rfl
@[simp] theorem setKnot_landings (k : Nat) (v : Knot) (s : State) : (State.setKnot k v s).landings = s.landings := rfl
@[simp] theorem setKnot_parts (k : Nat) (v : Knot) (s : State) : (State.setKnot k v s).parts = s.parts := rfl
@[simp] theorem setKnot_reds (k : Nat) (v : Knot) (s : State) : (State.setKnot k v s).reds = s.reds := rfl
@[simp] theorem setKnot_mem (k : Nat) (v : Knot) (s : State) : (State.setKnot k v s).mem = s.mem := rfl
@[simp] theorem setKnot_memCheck (k : Nat) (v : Knot) (s : State) : (State.setKnot k v s).memCheck = s.memCheck := rfl
@[simp] theorem setKnot_memEpoch (k : Nat) (v : Knot) (s : State) : (State.setKnot k v s).memEpoch = s.memEpoch := rfl
@[simp] theorem setKnot_memKey (k : Nat) (v : Knot) (s : State) : (State.setKnot k v s).memKey = s.memKey := rfl
@[simp] theorem setKnot_ucs (k : Nat) (v : Knot) (s : State) : (State.setKnot k v s).ucs = s.ucs := rfl
@[simp] theorem setKnot_sparse (k : Nat) (v : Knot) (s : State) : (State.setKnot k v s).sparse = s.sparse := rfl
@[simp] theorem setKnot_gathers (k : Nat) (v : Knot) (s : State) : (State.setKnot k v s).gathers = s.gathers := rfl
@[simp] theorem setKnot_ropes (k : Nat) (v : Knot) (s : State) : (State.setKnot k v s).ropes = s.ropes := rfl
@[simp] theorem setKnot_lasers (k : Nat) (v : Knot) (s : State) : (State.setKnot k v s).lasers = s.lasers := rfl
@[simp] theorem setKnot_fabric (k : Nat) (v : Knot) (s : State) : (State.setKnot k v s).fabric = s.fabric := rfl
@[simp] theorem setKnot_bundles (k : Nat) (v : Knot) (s : State) : (State.setKnot k v s).bundles = s.bundles := rfl
@[simp] theorem setKnot_hces (k : Nat) (v : Knot) (s : State) : (State.setKnot k v s).hces = s.hces := rfl
@[simp] theorem setKnot_rings (k : Nat) (v : Knot) (s : State) : (State.setKnot k v s).rings = s.rings := rfl
@[simp] theorem setKnot_pcie (k : Nat) (v : Knot) (s : State) : (State.setKnot k v s).pcie = s.pcie := rfl
@[simp] theorem setKnot_svcs (k : Nat) (v : Knot) (s : State) : (State.setKnot k v s).svcs = s.svcs := rfl
@[simp] theorem setKnot_journal (k : Nat) (v : Knot) (s : State) : (State.setKnot k v s).journal = s.journal := rfl
@[simp] theorem setKnot_sec (k : Nat) (v : Knot) (s : State) : (State.setKnot k v s).sec = s.sec := rfl
@[simp] theorem setKnot_det (k : Nat) (v : Knot) (s : State) : (State.setKnot k v s).det = s.det := rfl

@[simp] theorem setFlight_regs (gf : Nat) (v : Flight) (s : State) : (State.setFlight gf v s).regs = s.regs := rfl
@[simp] theorem setFlight_pkg (gf : Nat) (v : Flight) (s : State) : (State.setFlight gf v s).pkg = s.pkg := rfl
@[simp] theorem setFlight_time (gf : Nat) (v : Flight) (s : State) : (State.setFlight gf v s).time = s.time := rfl
@[simp] theorem setFlight_timers (gf : Nat) (v : Flight) (s : State) : (State.setFlight gf v s).timers = s.timers := rfl
@[simp] theorem setFlight_seq (gf : Nat) (v : Flight) (s : State) : (State.setFlight gf v s).seq = s.seq := rfl
@[simp] theorem setFlight_free (gf : Nat) (v : Flight) (s : State) : (State.setFlight gf v s).free = s.free := rfl
@[simp] theorem setFlight_pending (gf : Nat) (v : Flight) (s : State) : (State.setFlight gf v s).pending = s.pending := rfl
@[simp] theorem setFlight_out (gf : Nat) (v : Flight) (s : State) : (State.setFlight gf v s).out = s.out := rfl
@[simp] theorem setFlight_hiLatch (gf : Nat) (v : Flight) (s : State) : (State.setFlight gf v s).hiLatch = s.hiLatch := rfl
@[simp] theorem setFlight_commitLatch (gf : Nat) (v : Flight) (s : State) : (State.setFlight gf v s).commitLatch = s.commitLatch := rfl
@[simp] theorem setFlight_pins (gf : Nat) (v : Flight) (s : State) : (State.setFlight gf v s).pins = s.pins := rfl
@[simp] theorem setFlight_fence (gf : Nat) (v : Flight) (s : State) : (State.setFlight gf v s).fence = s.fence := rfl
@[simp] theorem setFlight_power (gf : Nat) (v : Flight) (s : State) : (State.setFlight gf v s).power = s.power := rfl
@[simp] theorem setFlight_rigs (gf : Nat) (v : Flight) (s : State) : (State.setFlight gf v s).rigs = s.rigs := rfl
@[simp] theorem setFlight_treads (gf : Nat) (v : Flight) (s : State) : (State.setFlight gf v s).treads = s.treads := rfl
@[simp] theorem setFlight_chans (gf : Nat) (v : Flight) (s : State) : (State.setFlight gf v s).chans = s.chans := rfl
@[simp] theorem setFlight_knots (gf : Nat) (v : Flight) (s : State) : (State.setFlight gf v s).knots = s.knots := rfl
@[simp] theorem setFlight_flights (gf : Nat) (v : Flight) (s : State) : (State.setFlight gf v s).flights = tset Flight.init s.flights gf v := rfl
@[simp] theorem setFlight_stages (gf : Nat) (v : Flight) (s : State) : (State.setFlight gf v s).stages = s.stages := rfl
@[simp] theorem setFlight_ctxs (gf : Nat) (v : Flight) (s : State) : (State.setFlight gf v s).ctxs = s.ctxs := rfl
@[simp] theorem setFlight_landings (gf : Nat) (v : Flight) (s : State) : (State.setFlight gf v s).landings = s.landings := rfl
@[simp] theorem setFlight_parts (gf : Nat) (v : Flight) (s : State) : (State.setFlight gf v s).parts = s.parts := rfl
@[simp] theorem setFlight_reds (gf : Nat) (v : Flight) (s : State) : (State.setFlight gf v s).reds = s.reds := rfl
@[simp] theorem setFlight_mem (gf : Nat) (v : Flight) (s : State) : (State.setFlight gf v s).mem = s.mem := rfl
@[simp] theorem setFlight_memCheck (gf : Nat) (v : Flight) (s : State) : (State.setFlight gf v s).memCheck = s.memCheck := rfl
@[simp] theorem setFlight_memEpoch (gf : Nat) (v : Flight) (s : State) : (State.setFlight gf v s).memEpoch = s.memEpoch := rfl
@[simp] theorem setFlight_memKey (gf : Nat) (v : Flight) (s : State) : (State.setFlight gf v s).memKey = s.memKey := rfl
@[simp] theorem setFlight_ucs (gf : Nat) (v : Flight) (s : State) : (State.setFlight gf v s).ucs = s.ucs := rfl
@[simp] theorem setFlight_sparse (gf : Nat) (v : Flight) (s : State) : (State.setFlight gf v s).sparse = s.sparse := rfl
@[simp] theorem setFlight_gathers (gf : Nat) (v : Flight) (s : State) : (State.setFlight gf v s).gathers = s.gathers := rfl
@[simp] theorem setFlight_ropes (gf : Nat) (v : Flight) (s : State) : (State.setFlight gf v s).ropes = s.ropes := rfl
@[simp] theorem setFlight_lasers (gf : Nat) (v : Flight) (s : State) : (State.setFlight gf v s).lasers = s.lasers := rfl
@[simp] theorem setFlight_fabric (gf : Nat) (v : Flight) (s : State) : (State.setFlight gf v s).fabric = s.fabric := rfl
@[simp] theorem setFlight_bundles (gf : Nat) (v : Flight) (s : State) : (State.setFlight gf v s).bundles = s.bundles := rfl
@[simp] theorem setFlight_hces (gf : Nat) (v : Flight) (s : State) : (State.setFlight gf v s).hces = s.hces := rfl
@[simp] theorem setFlight_rings (gf : Nat) (v : Flight) (s : State) : (State.setFlight gf v s).rings = s.rings := rfl
@[simp] theorem setFlight_pcie (gf : Nat) (v : Flight) (s : State) : (State.setFlight gf v s).pcie = s.pcie := rfl
@[simp] theorem setFlight_svcs (gf : Nat) (v : Flight) (s : State) : (State.setFlight gf v s).svcs = s.svcs := rfl
@[simp] theorem setFlight_journal (gf : Nat) (v : Flight) (s : State) : (State.setFlight gf v s).journal = s.journal := rfl
@[simp] theorem setFlight_sec (gf : Nat) (v : Flight) (s : State) : (State.setFlight gf v s).sec = s.sec := rfl
@[simp] theorem setFlight_det (gf : Nat) (v : Flight) (s : State) : (State.setFlight gf v s).det = s.det := rfl

@[simp] theorem setStage_regs (n : Nat) (v : Stage) (s : State) : (State.setStage n v s).regs = s.regs := rfl
@[simp] theorem setStage_pkg (n : Nat) (v : Stage) (s : State) : (State.setStage n v s).pkg = s.pkg := rfl
@[simp] theorem setStage_time (n : Nat) (v : Stage) (s : State) : (State.setStage n v s).time = s.time := rfl
@[simp] theorem setStage_timers (n : Nat) (v : Stage) (s : State) : (State.setStage n v s).timers = s.timers := rfl
@[simp] theorem setStage_seq (n : Nat) (v : Stage) (s : State) : (State.setStage n v s).seq = s.seq := rfl
@[simp] theorem setStage_free (n : Nat) (v : Stage) (s : State) : (State.setStage n v s).free = s.free := rfl
@[simp] theorem setStage_pending (n : Nat) (v : Stage) (s : State) : (State.setStage n v s).pending = s.pending := rfl
@[simp] theorem setStage_out (n : Nat) (v : Stage) (s : State) : (State.setStage n v s).out = s.out := rfl
@[simp] theorem setStage_hiLatch (n : Nat) (v : Stage) (s : State) : (State.setStage n v s).hiLatch = s.hiLatch := rfl
@[simp] theorem setStage_commitLatch (n : Nat) (v : Stage) (s : State) : (State.setStage n v s).commitLatch = s.commitLatch := rfl
@[simp] theorem setStage_pins (n : Nat) (v : Stage) (s : State) : (State.setStage n v s).pins = s.pins := rfl
@[simp] theorem setStage_fence (n : Nat) (v : Stage) (s : State) : (State.setStage n v s).fence = s.fence := rfl
@[simp] theorem setStage_power (n : Nat) (v : Stage) (s : State) : (State.setStage n v s).power = s.power := rfl
@[simp] theorem setStage_rigs (n : Nat) (v : Stage) (s : State) : (State.setStage n v s).rigs = s.rigs := rfl
@[simp] theorem setStage_treads (n : Nat) (v : Stage) (s : State) : (State.setStage n v s).treads = s.treads := rfl
@[simp] theorem setStage_chans (n : Nat) (v : Stage) (s : State) : (State.setStage n v s).chans = s.chans := rfl
@[simp] theorem setStage_knots (n : Nat) (v : Stage) (s : State) : (State.setStage n v s).knots = s.knots := rfl
@[simp] theorem setStage_flights (n : Nat) (v : Stage) (s : State) : (State.setStage n v s).flights = s.flights := rfl
@[simp] theorem setStage_stages (n : Nat) (v : Stage) (s : State) : (State.setStage n v s).stages = tset Stage.init s.stages n v := rfl
@[simp] theorem setStage_ctxs (n : Nat) (v : Stage) (s : State) : (State.setStage n v s).ctxs = s.ctxs := rfl
@[simp] theorem setStage_landings (n : Nat) (v : Stage) (s : State) : (State.setStage n v s).landings = s.landings := rfl
@[simp] theorem setStage_parts (n : Nat) (v : Stage) (s : State) : (State.setStage n v s).parts = s.parts := rfl
@[simp] theorem setStage_reds (n : Nat) (v : Stage) (s : State) : (State.setStage n v s).reds = s.reds := rfl
@[simp] theorem setStage_mem (n : Nat) (v : Stage) (s : State) : (State.setStage n v s).mem = s.mem := rfl
@[simp] theorem setStage_memCheck (n : Nat) (v : Stage) (s : State) : (State.setStage n v s).memCheck = s.memCheck := rfl
@[simp] theorem setStage_memEpoch (n : Nat) (v : Stage) (s : State) : (State.setStage n v s).memEpoch = s.memEpoch := rfl
@[simp] theorem setStage_memKey (n : Nat) (v : Stage) (s : State) : (State.setStage n v s).memKey = s.memKey := rfl
@[simp] theorem setStage_ucs (n : Nat) (v : Stage) (s : State) : (State.setStage n v s).ucs = s.ucs := rfl
@[simp] theorem setStage_sparse (n : Nat) (v : Stage) (s : State) : (State.setStage n v s).sparse = s.sparse := rfl
@[simp] theorem setStage_gathers (n : Nat) (v : Stage) (s : State) : (State.setStage n v s).gathers = s.gathers := rfl
@[simp] theorem setStage_ropes (n : Nat) (v : Stage) (s : State) : (State.setStage n v s).ropes = s.ropes := rfl
@[simp] theorem setStage_lasers (n : Nat) (v : Stage) (s : State) : (State.setStage n v s).lasers = s.lasers := rfl
@[simp] theorem setStage_fabric (n : Nat) (v : Stage) (s : State) : (State.setStage n v s).fabric = s.fabric := rfl
@[simp] theorem setStage_bundles (n : Nat) (v : Stage) (s : State) : (State.setStage n v s).bundles = s.bundles := rfl
@[simp] theorem setStage_hces (n : Nat) (v : Stage) (s : State) : (State.setStage n v s).hces = s.hces := rfl
@[simp] theorem setStage_rings (n : Nat) (v : Stage) (s : State) : (State.setStage n v s).rings = s.rings := rfl
@[simp] theorem setStage_pcie (n : Nat) (v : Stage) (s : State) : (State.setStage n v s).pcie = s.pcie := rfl
@[simp] theorem setStage_svcs (n : Nat) (v : Stage) (s : State) : (State.setStage n v s).svcs = s.svcs := rfl
@[simp] theorem setStage_journal (n : Nat) (v : Stage) (s : State) : (State.setStage n v s).journal = s.journal := rfl
@[simp] theorem setStage_sec (n : Nat) (v : Stage) (s : State) : (State.setStage n v s).sec = s.sec := rfl
@[simp] theorem setStage_det (n : Nat) (v : Stage) (s : State) : (State.setStage n v s).det = s.det := rfl

@[simp] theorem setCtx_regs (n : Nat) (v : Ctx) (s : State) : (State.setCtx n v s).regs = s.regs := rfl
@[simp] theorem setCtx_pkg (n : Nat) (v : Ctx) (s : State) : (State.setCtx n v s).pkg = s.pkg := rfl
@[simp] theorem setCtx_time (n : Nat) (v : Ctx) (s : State) : (State.setCtx n v s).time = s.time := rfl
@[simp] theorem setCtx_timers (n : Nat) (v : Ctx) (s : State) : (State.setCtx n v s).timers = s.timers := rfl
@[simp] theorem setCtx_seq (n : Nat) (v : Ctx) (s : State) : (State.setCtx n v s).seq = s.seq := rfl
@[simp] theorem setCtx_free (n : Nat) (v : Ctx) (s : State) : (State.setCtx n v s).free = s.free := rfl
@[simp] theorem setCtx_pending (n : Nat) (v : Ctx) (s : State) : (State.setCtx n v s).pending = s.pending := rfl
@[simp] theorem setCtx_out (n : Nat) (v : Ctx) (s : State) : (State.setCtx n v s).out = s.out := rfl
@[simp] theorem setCtx_hiLatch (n : Nat) (v : Ctx) (s : State) : (State.setCtx n v s).hiLatch = s.hiLatch := rfl
@[simp] theorem setCtx_commitLatch (n : Nat) (v : Ctx) (s : State) : (State.setCtx n v s).commitLatch = s.commitLatch := rfl
@[simp] theorem setCtx_pins (n : Nat) (v : Ctx) (s : State) : (State.setCtx n v s).pins = s.pins := rfl
@[simp] theorem setCtx_fence (n : Nat) (v : Ctx) (s : State) : (State.setCtx n v s).fence = s.fence := rfl
@[simp] theorem setCtx_power (n : Nat) (v : Ctx) (s : State) : (State.setCtx n v s).power = s.power := rfl
@[simp] theorem setCtx_rigs (n : Nat) (v : Ctx) (s : State) : (State.setCtx n v s).rigs = s.rigs := rfl
@[simp] theorem setCtx_treads (n : Nat) (v : Ctx) (s : State) : (State.setCtx n v s).treads = s.treads := rfl
@[simp] theorem setCtx_chans (n : Nat) (v : Ctx) (s : State) : (State.setCtx n v s).chans = s.chans := rfl
@[simp] theorem setCtx_knots (n : Nat) (v : Ctx) (s : State) : (State.setCtx n v s).knots = s.knots := rfl
@[simp] theorem setCtx_flights (n : Nat) (v : Ctx) (s : State) : (State.setCtx n v s).flights = s.flights := rfl
@[simp] theorem setCtx_stages (n : Nat) (v : Ctx) (s : State) : (State.setCtx n v s).stages = s.stages := rfl
@[simp] theorem setCtx_ctxs (n : Nat) (v : Ctx) (s : State) : (State.setCtx n v s).ctxs = tset Ctx.init s.ctxs n v := rfl
@[simp] theorem setCtx_landings (n : Nat) (v : Ctx) (s : State) : (State.setCtx n v s).landings = s.landings := rfl
@[simp] theorem setCtx_parts (n : Nat) (v : Ctx) (s : State) : (State.setCtx n v s).parts = s.parts := rfl
@[simp] theorem setCtx_reds (n : Nat) (v : Ctx) (s : State) : (State.setCtx n v s).reds = s.reds := rfl
@[simp] theorem setCtx_mem (n : Nat) (v : Ctx) (s : State) : (State.setCtx n v s).mem = s.mem := rfl
@[simp] theorem setCtx_memCheck (n : Nat) (v : Ctx) (s : State) : (State.setCtx n v s).memCheck = s.memCheck := rfl
@[simp] theorem setCtx_memEpoch (n : Nat) (v : Ctx) (s : State) : (State.setCtx n v s).memEpoch = s.memEpoch := rfl
@[simp] theorem setCtx_memKey (n : Nat) (v : Ctx) (s : State) : (State.setCtx n v s).memKey = s.memKey := rfl
@[simp] theorem setCtx_ucs (n : Nat) (v : Ctx) (s : State) : (State.setCtx n v s).ucs = s.ucs := rfl
@[simp] theorem setCtx_sparse (n : Nat) (v : Ctx) (s : State) : (State.setCtx n v s).sparse = s.sparse := rfl
@[simp] theorem setCtx_gathers (n : Nat) (v : Ctx) (s : State) : (State.setCtx n v s).gathers = s.gathers := rfl
@[simp] theorem setCtx_ropes (n : Nat) (v : Ctx) (s : State) : (State.setCtx n v s).ropes = s.ropes := rfl
@[simp] theorem setCtx_lasers (n : Nat) (v : Ctx) (s : State) : (State.setCtx n v s).lasers = s.lasers := rfl
@[simp] theorem setCtx_fabric (n : Nat) (v : Ctx) (s : State) : (State.setCtx n v s).fabric = s.fabric := rfl
@[simp] theorem setCtx_bundles (n : Nat) (v : Ctx) (s : State) : (State.setCtx n v s).bundles = s.bundles := rfl
@[simp] theorem setCtx_hces (n : Nat) (v : Ctx) (s : State) : (State.setCtx n v s).hces = s.hces := rfl
@[simp] theorem setCtx_rings (n : Nat) (v : Ctx) (s : State) : (State.setCtx n v s).rings = s.rings := rfl
@[simp] theorem setCtx_pcie (n : Nat) (v : Ctx) (s : State) : (State.setCtx n v s).pcie = s.pcie := rfl
@[simp] theorem setCtx_svcs (n : Nat) (v : Ctx) (s : State) : (State.setCtx n v s).svcs = s.svcs := rfl
@[simp] theorem setCtx_journal (n : Nat) (v : Ctx) (s : State) : (State.setCtx n v s).journal = s.journal := rfl
@[simp] theorem setCtx_sec (n : Nat) (v : Ctx) (s : State) : (State.setCtx n v s).sec = s.sec := rfl
@[simp] theorem setCtx_det (n : Nat) (v : Ctx) (s : State) : (State.setCtx n v s).det = s.det := rfl

@[simp] theorem setLanding_regs (n : Nat) (v : Landing) (s : State) : (State.setLanding n v s).regs = s.regs := rfl
@[simp] theorem setLanding_pkg (n : Nat) (v : Landing) (s : State) : (State.setLanding n v s).pkg = s.pkg := rfl
@[simp] theorem setLanding_time (n : Nat) (v : Landing) (s : State) : (State.setLanding n v s).time = s.time := rfl
@[simp] theorem setLanding_timers (n : Nat) (v : Landing) (s : State) : (State.setLanding n v s).timers = s.timers := rfl
@[simp] theorem setLanding_seq (n : Nat) (v : Landing) (s : State) : (State.setLanding n v s).seq = s.seq := rfl
@[simp] theorem setLanding_free (n : Nat) (v : Landing) (s : State) : (State.setLanding n v s).free = s.free := rfl
@[simp] theorem setLanding_pending (n : Nat) (v : Landing) (s : State) : (State.setLanding n v s).pending = s.pending := rfl
@[simp] theorem setLanding_out (n : Nat) (v : Landing) (s : State) : (State.setLanding n v s).out = s.out := rfl
@[simp] theorem setLanding_hiLatch (n : Nat) (v : Landing) (s : State) : (State.setLanding n v s).hiLatch = s.hiLatch := rfl
@[simp] theorem setLanding_commitLatch (n : Nat) (v : Landing) (s : State) : (State.setLanding n v s).commitLatch = s.commitLatch := rfl
@[simp] theorem setLanding_pins (n : Nat) (v : Landing) (s : State) : (State.setLanding n v s).pins = s.pins := rfl
@[simp] theorem setLanding_fence (n : Nat) (v : Landing) (s : State) : (State.setLanding n v s).fence = s.fence := rfl
@[simp] theorem setLanding_power (n : Nat) (v : Landing) (s : State) : (State.setLanding n v s).power = s.power := rfl
@[simp] theorem setLanding_rigs (n : Nat) (v : Landing) (s : State) : (State.setLanding n v s).rigs = s.rigs := rfl
@[simp] theorem setLanding_treads (n : Nat) (v : Landing) (s : State) : (State.setLanding n v s).treads = s.treads := rfl
@[simp] theorem setLanding_chans (n : Nat) (v : Landing) (s : State) : (State.setLanding n v s).chans = s.chans := rfl
@[simp] theorem setLanding_knots (n : Nat) (v : Landing) (s : State) : (State.setLanding n v s).knots = s.knots := rfl
@[simp] theorem setLanding_flights (n : Nat) (v : Landing) (s : State) : (State.setLanding n v s).flights = s.flights := rfl
@[simp] theorem setLanding_stages (n : Nat) (v : Landing) (s : State) : (State.setLanding n v s).stages = s.stages := rfl
@[simp] theorem setLanding_ctxs (n : Nat) (v : Landing) (s : State) : (State.setLanding n v s).ctxs = s.ctxs := rfl
@[simp] theorem setLanding_landings (n : Nat) (v : Landing) (s : State) : (State.setLanding n v s).landings = tset Landing.init s.landings n v := rfl
@[simp] theorem setLanding_parts (n : Nat) (v : Landing) (s : State) : (State.setLanding n v s).parts = s.parts := rfl
@[simp] theorem setLanding_reds (n : Nat) (v : Landing) (s : State) : (State.setLanding n v s).reds = s.reds := rfl
@[simp] theorem setLanding_mem (n : Nat) (v : Landing) (s : State) : (State.setLanding n v s).mem = s.mem := rfl
@[simp] theorem setLanding_memCheck (n : Nat) (v : Landing) (s : State) : (State.setLanding n v s).memCheck = s.memCheck := rfl
@[simp] theorem setLanding_memEpoch (n : Nat) (v : Landing) (s : State) : (State.setLanding n v s).memEpoch = s.memEpoch := rfl
@[simp] theorem setLanding_memKey (n : Nat) (v : Landing) (s : State) : (State.setLanding n v s).memKey = s.memKey := rfl
@[simp] theorem setLanding_ucs (n : Nat) (v : Landing) (s : State) : (State.setLanding n v s).ucs = s.ucs := rfl
@[simp] theorem setLanding_sparse (n : Nat) (v : Landing) (s : State) : (State.setLanding n v s).sparse = s.sparse := rfl
@[simp] theorem setLanding_gathers (n : Nat) (v : Landing) (s : State) : (State.setLanding n v s).gathers = s.gathers := rfl
@[simp] theorem setLanding_ropes (n : Nat) (v : Landing) (s : State) : (State.setLanding n v s).ropes = s.ropes := rfl
@[simp] theorem setLanding_lasers (n : Nat) (v : Landing) (s : State) : (State.setLanding n v s).lasers = s.lasers := rfl
@[simp] theorem setLanding_fabric (n : Nat) (v : Landing) (s : State) : (State.setLanding n v s).fabric = s.fabric := rfl
@[simp] theorem setLanding_bundles (n : Nat) (v : Landing) (s : State) : (State.setLanding n v s).bundles = s.bundles := rfl
@[simp] theorem setLanding_hces (n : Nat) (v : Landing) (s : State) : (State.setLanding n v s).hces = s.hces := rfl
@[simp] theorem setLanding_rings (n : Nat) (v : Landing) (s : State) : (State.setLanding n v s).rings = s.rings := rfl
@[simp] theorem setLanding_pcie (n : Nat) (v : Landing) (s : State) : (State.setLanding n v s).pcie = s.pcie := rfl
@[simp] theorem setLanding_svcs (n : Nat) (v : Landing) (s : State) : (State.setLanding n v s).svcs = s.svcs := rfl
@[simp] theorem setLanding_journal (n : Nat) (v : Landing) (s : State) : (State.setLanding n v s).journal = s.journal := rfl
@[simp] theorem setLanding_sec (n : Nat) (v : Landing) (s : State) : (State.setLanding n v s).sec = s.sec := rfl
@[simp] theorem setLanding_det (n : Nat) (v : Landing) (s : State) : (State.setLanding n v s).det = s.det := rfl

@[simp] theorem setPart_regs (p : Nat) (v : Part) (s : State) : (State.setPart p v s).regs = s.regs := rfl
@[simp] theorem setPart_pkg (p : Nat) (v : Part) (s : State) : (State.setPart p v s).pkg = s.pkg := rfl
@[simp] theorem setPart_time (p : Nat) (v : Part) (s : State) : (State.setPart p v s).time = s.time := rfl
@[simp] theorem setPart_timers (p : Nat) (v : Part) (s : State) : (State.setPart p v s).timers = s.timers := rfl
@[simp] theorem setPart_seq (p : Nat) (v : Part) (s : State) : (State.setPart p v s).seq = s.seq := rfl
@[simp] theorem setPart_free (p : Nat) (v : Part) (s : State) : (State.setPart p v s).free = s.free := rfl
@[simp] theorem setPart_pending (p : Nat) (v : Part) (s : State) : (State.setPart p v s).pending = s.pending := rfl
@[simp] theorem setPart_out (p : Nat) (v : Part) (s : State) : (State.setPart p v s).out = s.out := rfl
@[simp] theorem setPart_hiLatch (p : Nat) (v : Part) (s : State) : (State.setPart p v s).hiLatch = s.hiLatch := rfl
@[simp] theorem setPart_commitLatch (p : Nat) (v : Part) (s : State) : (State.setPart p v s).commitLatch = s.commitLatch := rfl
@[simp] theorem setPart_pins (p : Nat) (v : Part) (s : State) : (State.setPart p v s).pins = s.pins := rfl
@[simp] theorem setPart_fence (p : Nat) (v : Part) (s : State) : (State.setPart p v s).fence = s.fence := rfl
@[simp] theorem setPart_power (p : Nat) (v : Part) (s : State) : (State.setPart p v s).power = s.power := rfl
@[simp] theorem setPart_rigs (p : Nat) (v : Part) (s : State) : (State.setPart p v s).rigs = s.rigs := rfl
@[simp] theorem setPart_treads (p : Nat) (v : Part) (s : State) : (State.setPart p v s).treads = s.treads := rfl
@[simp] theorem setPart_chans (p : Nat) (v : Part) (s : State) : (State.setPart p v s).chans = s.chans := rfl
@[simp] theorem setPart_knots (p : Nat) (v : Part) (s : State) : (State.setPart p v s).knots = s.knots := rfl
@[simp] theorem setPart_flights (p : Nat) (v : Part) (s : State) : (State.setPart p v s).flights = s.flights := rfl
@[simp] theorem setPart_stages (p : Nat) (v : Part) (s : State) : (State.setPart p v s).stages = s.stages := rfl
@[simp] theorem setPart_ctxs (p : Nat) (v : Part) (s : State) : (State.setPart p v s).ctxs = s.ctxs := rfl
@[simp] theorem setPart_landings (p : Nat) (v : Part) (s : State) : (State.setPart p v s).landings = s.landings := rfl
@[simp] theorem setPart_parts (p : Nat) (v : Part) (s : State) : (State.setPart p v s).parts = tset Part.init s.parts p v := rfl
@[simp] theorem setPart_reds (p : Nat) (v : Part) (s : State) : (State.setPart p v s).reds = s.reds := rfl
@[simp] theorem setPart_mem (p : Nat) (v : Part) (s : State) : (State.setPart p v s).mem = s.mem := rfl
@[simp] theorem setPart_memCheck (p : Nat) (v : Part) (s : State) : (State.setPart p v s).memCheck = s.memCheck := rfl
@[simp] theorem setPart_memEpoch (p : Nat) (v : Part) (s : State) : (State.setPart p v s).memEpoch = s.memEpoch := rfl
@[simp] theorem setPart_memKey (p : Nat) (v : Part) (s : State) : (State.setPart p v s).memKey = s.memKey := rfl
@[simp] theorem setPart_ucs (p : Nat) (v : Part) (s : State) : (State.setPart p v s).ucs = s.ucs := rfl
@[simp] theorem setPart_sparse (p : Nat) (v : Part) (s : State) : (State.setPart p v s).sparse = s.sparse := rfl
@[simp] theorem setPart_gathers (p : Nat) (v : Part) (s : State) : (State.setPart p v s).gathers = s.gathers := rfl
@[simp] theorem setPart_ropes (p : Nat) (v : Part) (s : State) : (State.setPart p v s).ropes = s.ropes := rfl
@[simp] theorem setPart_lasers (p : Nat) (v : Part) (s : State) : (State.setPart p v s).lasers = s.lasers := rfl
@[simp] theorem setPart_fabric (p : Nat) (v : Part) (s : State) : (State.setPart p v s).fabric = s.fabric := rfl
@[simp] theorem setPart_bundles (p : Nat) (v : Part) (s : State) : (State.setPart p v s).bundles = s.bundles := rfl
@[simp] theorem setPart_hces (p : Nat) (v : Part) (s : State) : (State.setPart p v s).hces = s.hces := rfl
@[simp] theorem setPart_rings (p : Nat) (v : Part) (s : State) : (State.setPart p v s).rings = s.rings := rfl
@[simp] theorem setPart_pcie (p : Nat) (v : Part) (s : State) : (State.setPart p v s).pcie = s.pcie := rfl
@[simp] theorem setPart_svcs (p : Nat) (v : Part) (s : State) : (State.setPart p v s).svcs = s.svcs := rfl
@[simp] theorem setPart_journal (p : Nat) (v : Part) (s : State) : (State.setPart p v s).journal = s.journal := rfl
@[simp] theorem setPart_sec (p : Nat) (v : Part) (s : State) : (State.setPart p v s).sec = s.sec := rfl
@[simp] theorem setPart_det (p : Nat) (v : Part) (s : State) : (State.setPart p v s).det = s.det := rfl

@[simp] theorem setRed_regs (n : Nat) (v : Red) (s : State) : (State.setRed n v s).regs = s.regs := rfl
@[simp] theorem setRed_pkg (n : Nat) (v : Red) (s : State) : (State.setRed n v s).pkg = s.pkg := rfl
@[simp] theorem setRed_time (n : Nat) (v : Red) (s : State) : (State.setRed n v s).time = s.time := rfl
@[simp] theorem setRed_timers (n : Nat) (v : Red) (s : State) : (State.setRed n v s).timers = s.timers := rfl
@[simp] theorem setRed_seq (n : Nat) (v : Red) (s : State) : (State.setRed n v s).seq = s.seq := rfl
@[simp] theorem setRed_free (n : Nat) (v : Red) (s : State) : (State.setRed n v s).free = s.free := rfl
@[simp] theorem setRed_pending (n : Nat) (v : Red) (s : State) : (State.setRed n v s).pending = s.pending := rfl
@[simp] theorem setRed_out (n : Nat) (v : Red) (s : State) : (State.setRed n v s).out = s.out := rfl
@[simp] theorem setRed_hiLatch (n : Nat) (v : Red) (s : State) : (State.setRed n v s).hiLatch = s.hiLatch := rfl
@[simp] theorem setRed_commitLatch (n : Nat) (v : Red) (s : State) : (State.setRed n v s).commitLatch = s.commitLatch := rfl
@[simp] theorem setRed_pins (n : Nat) (v : Red) (s : State) : (State.setRed n v s).pins = s.pins := rfl
@[simp] theorem setRed_fence (n : Nat) (v : Red) (s : State) : (State.setRed n v s).fence = s.fence := rfl
@[simp] theorem setRed_power (n : Nat) (v : Red) (s : State) : (State.setRed n v s).power = s.power := rfl
@[simp] theorem setRed_rigs (n : Nat) (v : Red) (s : State) : (State.setRed n v s).rigs = s.rigs := rfl
@[simp] theorem setRed_treads (n : Nat) (v : Red) (s : State) : (State.setRed n v s).treads = s.treads := rfl
@[simp] theorem setRed_chans (n : Nat) (v : Red) (s : State) : (State.setRed n v s).chans = s.chans := rfl
@[simp] theorem setRed_knots (n : Nat) (v : Red) (s : State) : (State.setRed n v s).knots = s.knots := rfl
@[simp] theorem setRed_flights (n : Nat) (v : Red) (s : State) : (State.setRed n v s).flights = s.flights := rfl
@[simp] theorem setRed_stages (n : Nat) (v : Red) (s : State) : (State.setRed n v s).stages = s.stages := rfl
@[simp] theorem setRed_ctxs (n : Nat) (v : Red) (s : State) : (State.setRed n v s).ctxs = s.ctxs := rfl
@[simp] theorem setRed_landings (n : Nat) (v : Red) (s : State) : (State.setRed n v s).landings = s.landings := rfl
@[simp] theorem setRed_parts (n : Nat) (v : Red) (s : State) : (State.setRed n v s).parts = s.parts := rfl
@[simp] theorem setRed_reds (n : Nat) (v : Red) (s : State) : (State.setRed n v s).reds = tset Red.init s.reds n v := rfl
@[simp] theorem setRed_mem (n : Nat) (v : Red) (s : State) : (State.setRed n v s).mem = s.mem := rfl
@[simp] theorem setRed_memCheck (n : Nat) (v : Red) (s : State) : (State.setRed n v s).memCheck = s.memCheck := rfl
@[simp] theorem setRed_memEpoch (n : Nat) (v : Red) (s : State) : (State.setRed n v s).memEpoch = s.memEpoch := rfl
@[simp] theorem setRed_memKey (n : Nat) (v : Red) (s : State) : (State.setRed n v s).memKey = s.memKey := rfl
@[simp] theorem setRed_ucs (n : Nat) (v : Red) (s : State) : (State.setRed n v s).ucs = s.ucs := rfl
@[simp] theorem setRed_sparse (n : Nat) (v : Red) (s : State) : (State.setRed n v s).sparse = s.sparse := rfl
@[simp] theorem setRed_gathers (n : Nat) (v : Red) (s : State) : (State.setRed n v s).gathers = s.gathers := rfl
@[simp] theorem setRed_ropes (n : Nat) (v : Red) (s : State) : (State.setRed n v s).ropes = s.ropes := rfl
@[simp] theorem setRed_lasers (n : Nat) (v : Red) (s : State) : (State.setRed n v s).lasers = s.lasers := rfl
@[simp] theorem setRed_fabric (n : Nat) (v : Red) (s : State) : (State.setRed n v s).fabric = s.fabric := rfl
@[simp] theorem setRed_bundles (n : Nat) (v : Red) (s : State) : (State.setRed n v s).bundles = s.bundles := rfl
@[simp] theorem setRed_hces (n : Nat) (v : Red) (s : State) : (State.setRed n v s).hces = s.hces := rfl
@[simp] theorem setRed_rings (n : Nat) (v : Red) (s : State) : (State.setRed n v s).rings = s.rings := rfl
@[simp] theorem setRed_pcie (n : Nat) (v : Red) (s : State) : (State.setRed n v s).pcie = s.pcie := rfl
@[simp] theorem setRed_svcs (n : Nat) (v : Red) (s : State) : (State.setRed n v s).svcs = s.svcs := rfl
@[simp] theorem setRed_journal (n : Nat) (v : Red) (s : State) : (State.setRed n v s).journal = s.journal := rfl
@[simp] theorem setRed_sec (n : Nat) (v : Red) (s : State) : (State.setRed n v s).sec = s.sec := rfl
@[simp] theorem setRed_det (n : Nat) (v : Red) (s : State) : (State.setRed n v s).det = s.det := rfl

@[simp] theorem setUc_regs (u : Nat) (v : Undercroft) (s : State) : (State.setUc u v s).regs = s.regs := rfl
@[simp] theorem setUc_pkg (u : Nat) (v : Undercroft) (s : State) : (State.setUc u v s).pkg = s.pkg := rfl
@[simp] theorem setUc_time (u : Nat) (v : Undercroft) (s : State) : (State.setUc u v s).time = s.time := rfl
@[simp] theorem setUc_timers (u : Nat) (v : Undercroft) (s : State) : (State.setUc u v s).timers = s.timers := rfl
@[simp] theorem setUc_seq (u : Nat) (v : Undercroft) (s : State) : (State.setUc u v s).seq = s.seq := rfl
@[simp] theorem setUc_free (u : Nat) (v : Undercroft) (s : State) : (State.setUc u v s).free = s.free := rfl
@[simp] theorem setUc_pending (u : Nat) (v : Undercroft) (s : State) : (State.setUc u v s).pending = s.pending := rfl
@[simp] theorem setUc_out (u : Nat) (v : Undercroft) (s : State) : (State.setUc u v s).out = s.out := rfl
@[simp] theorem setUc_hiLatch (u : Nat) (v : Undercroft) (s : State) : (State.setUc u v s).hiLatch = s.hiLatch := rfl
@[simp] theorem setUc_commitLatch (u : Nat) (v : Undercroft) (s : State) : (State.setUc u v s).commitLatch = s.commitLatch := rfl
@[simp] theorem setUc_pins (u : Nat) (v : Undercroft) (s : State) : (State.setUc u v s).pins = s.pins := rfl
@[simp] theorem setUc_fence (u : Nat) (v : Undercroft) (s : State) : (State.setUc u v s).fence = s.fence := rfl
@[simp] theorem setUc_power (u : Nat) (v : Undercroft) (s : State) : (State.setUc u v s).power = s.power := rfl
@[simp] theorem setUc_rigs (u : Nat) (v : Undercroft) (s : State) : (State.setUc u v s).rigs = s.rigs := rfl
@[simp] theorem setUc_treads (u : Nat) (v : Undercroft) (s : State) : (State.setUc u v s).treads = s.treads := rfl
@[simp] theorem setUc_chans (u : Nat) (v : Undercroft) (s : State) : (State.setUc u v s).chans = s.chans := rfl
@[simp] theorem setUc_knots (u : Nat) (v : Undercroft) (s : State) : (State.setUc u v s).knots = s.knots := rfl
@[simp] theorem setUc_flights (u : Nat) (v : Undercroft) (s : State) : (State.setUc u v s).flights = s.flights := rfl
@[simp] theorem setUc_stages (u : Nat) (v : Undercroft) (s : State) : (State.setUc u v s).stages = s.stages := rfl
@[simp] theorem setUc_ctxs (u : Nat) (v : Undercroft) (s : State) : (State.setUc u v s).ctxs = s.ctxs := rfl
@[simp] theorem setUc_landings (u : Nat) (v : Undercroft) (s : State) : (State.setUc u v s).landings = s.landings := rfl
@[simp] theorem setUc_parts (u : Nat) (v : Undercroft) (s : State) : (State.setUc u v s).parts = s.parts := rfl
@[simp] theorem setUc_reds (u : Nat) (v : Undercroft) (s : State) : (State.setUc u v s).reds = s.reds := rfl
@[simp] theorem setUc_mem (u : Nat) (v : Undercroft) (s : State) : (State.setUc u v s).mem = s.mem := rfl
@[simp] theorem setUc_memCheck (u : Nat) (v : Undercroft) (s : State) : (State.setUc u v s).memCheck = s.memCheck := rfl
@[simp] theorem setUc_memEpoch (u : Nat) (v : Undercroft) (s : State) : (State.setUc u v s).memEpoch = s.memEpoch := rfl
@[simp] theorem setUc_memKey (u : Nat) (v : Undercroft) (s : State) : (State.setUc u v s).memKey = s.memKey := rfl
@[simp] theorem setUc_ucs (u : Nat) (v : Undercroft) (s : State) : (State.setUc u v s).ucs = tset Undercroft.init s.ucs u v := rfl
@[simp] theorem setUc_sparse (u : Nat) (v : Undercroft) (s : State) : (State.setUc u v s).sparse = s.sparse := rfl
@[simp] theorem setUc_gathers (u : Nat) (v : Undercroft) (s : State) : (State.setUc u v s).gathers = s.gathers := rfl
@[simp] theorem setUc_ropes (u : Nat) (v : Undercroft) (s : State) : (State.setUc u v s).ropes = s.ropes := rfl
@[simp] theorem setUc_lasers (u : Nat) (v : Undercroft) (s : State) : (State.setUc u v s).lasers = s.lasers := rfl
@[simp] theorem setUc_fabric (u : Nat) (v : Undercroft) (s : State) : (State.setUc u v s).fabric = s.fabric := rfl
@[simp] theorem setUc_bundles (u : Nat) (v : Undercroft) (s : State) : (State.setUc u v s).bundles = s.bundles := rfl
@[simp] theorem setUc_hces (u : Nat) (v : Undercroft) (s : State) : (State.setUc u v s).hces = s.hces := rfl
@[simp] theorem setUc_rings (u : Nat) (v : Undercroft) (s : State) : (State.setUc u v s).rings = s.rings := rfl
@[simp] theorem setUc_pcie (u : Nat) (v : Undercroft) (s : State) : (State.setUc u v s).pcie = s.pcie := rfl
@[simp] theorem setUc_svcs (u : Nat) (v : Undercroft) (s : State) : (State.setUc u v s).svcs = s.svcs := rfl
@[simp] theorem setUc_journal (u : Nat) (v : Undercroft) (s : State) : (State.setUc u v s).journal = s.journal := rfl
@[simp] theorem setUc_sec (u : Nat) (v : Undercroft) (s : State) : (State.setUc u v s).sec = s.sec := rfl
@[simp] theorem setUc_det (u : Nat) (v : Undercroft) (s : State) : (State.setUc u v s).det = s.det := rfl

@[simp] theorem setRope_regs (k : Nat) (v : Rope) (s : State) : (State.setRope k v s).regs = s.regs := rfl
@[simp] theorem setRope_pkg (k : Nat) (v : Rope) (s : State) : (State.setRope k v s).pkg = s.pkg := rfl
@[simp] theorem setRope_time (k : Nat) (v : Rope) (s : State) : (State.setRope k v s).time = s.time := rfl
@[simp] theorem setRope_timers (k : Nat) (v : Rope) (s : State) : (State.setRope k v s).timers = s.timers := rfl
@[simp] theorem setRope_seq (k : Nat) (v : Rope) (s : State) : (State.setRope k v s).seq = s.seq := rfl
@[simp] theorem setRope_free (k : Nat) (v : Rope) (s : State) : (State.setRope k v s).free = s.free := rfl
@[simp] theorem setRope_pending (k : Nat) (v : Rope) (s : State) : (State.setRope k v s).pending = s.pending := rfl
@[simp] theorem setRope_out (k : Nat) (v : Rope) (s : State) : (State.setRope k v s).out = s.out := rfl
@[simp] theorem setRope_hiLatch (k : Nat) (v : Rope) (s : State) : (State.setRope k v s).hiLatch = s.hiLatch := rfl
@[simp] theorem setRope_commitLatch (k : Nat) (v : Rope) (s : State) : (State.setRope k v s).commitLatch = s.commitLatch := rfl
@[simp] theorem setRope_pins (k : Nat) (v : Rope) (s : State) : (State.setRope k v s).pins = s.pins := rfl
@[simp] theorem setRope_fence (k : Nat) (v : Rope) (s : State) : (State.setRope k v s).fence = s.fence := rfl
@[simp] theorem setRope_power (k : Nat) (v : Rope) (s : State) : (State.setRope k v s).power = s.power := rfl
@[simp] theorem setRope_rigs (k : Nat) (v : Rope) (s : State) : (State.setRope k v s).rigs = s.rigs := rfl
@[simp] theorem setRope_treads (k : Nat) (v : Rope) (s : State) : (State.setRope k v s).treads = s.treads := rfl
@[simp] theorem setRope_chans (k : Nat) (v : Rope) (s : State) : (State.setRope k v s).chans = s.chans := rfl
@[simp] theorem setRope_knots (k : Nat) (v : Rope) (s : State) : (State.setRope k v s).knots = s.knots := rfl
@[simp] theorem setRope_flights (k : Nat) (v : Rope) (s : State) : (State.setRope k v s).flights = s.flights := rfl
@[simp] theorem setRope_stages (k : Nat) (v : Rope) (s : State) : (State.setRope k v s).stages = s.stages := rfl
@[simp] theorem setRope_ctxs (k : Nat) (v : Rope) (s : State) : (State.setRope k v s).ctxs = s.ctxs := rfl
@[simp] theorem setRope_landings (k : Nat) (v : Rope) (s : State) : (State.setRope k v s).landings = s.landings := rfl
@[simp] theorem setRope_parts (k : Nat) (v : Rope) (s : State) : (State.setRope k v s).parts = s.parts := rfl
@[simp] theorem setRope_reds (k : Nat) (v : Rope) (s : State) : (State.setRope k v s).reds = s.reds := rfl
@[simp] theorem setRope_mem (k : Nat) (v : Rope) (s : State) : (State.setRope k v s).mem = s.mem := rfl
@[simp] theorem setRope_memCheck (k : Nat) (v : Rope) (s : State) : (State.setRope k v s).memCheck = s.memCheck := rfl
@[simp] theorem setRope_memEpoch (k : Nat) (v : Rope) (s : State) : (State.setRope k v s).memEpoch = s.memEpoch := rfl
@[simp] theorem setRope_memKey (k : Nat) (v : Rope) (s : State) : (State.setRope k v s).memKey = s.memKey := rfl
@[simp] theorem setRope_ucs (k : Nat) (v : Rope) (s : State) : (State.setRope k v s).ucs = s.ucs := rfl
@[simp] theorem setRope_sparse (k : Nat) (v : Rope) (s : State) : (State.setRope k v s).sparse = s.sparse := rfl
@[simp] theorem setRope_gathers (k : Nat) (v : Rope) (s : State) : (State.setRope k v s).gathers = s.gathers := rfl
@[simp] theorem setRope_ropes (k : Nat) (v : Rope) (s : State) : (State.setRope k v s).ropes = tset Rope.init s.ropes k v := rfl
@[simp] theorem setRope_lasers (k : Nat) (v : Rope) (s : State) : (State.setRope k v s).lasers = s.lasers := rfl
@[simp] theorem setRope_fabric (k : Nat) (v : Rope) (s : State) : (State.setRope k v s).fabric = s.fabric := rfl
@[simp] theorem setRope_bundles (k : Nat) (v : Rope) (s : State) : (State.setRope k v s).bundles = s.bundles := rfl
@[simp] theorem setRope_hces (k : Nat) (v : Rope) (s : State) : (State.setRope k v s).hces = s.hces := rfl
@[simp] theorem setRope_rings (k : Nat) (v : Rope) (s : State) : (State.setRope k v s).rings = s.rings := rfl
@[simp] theorem setRope_pcie (k : Nat) (v : Rope) (s : State) : (State.setRope k v s).pcie = s.pcie := rfl
@[simp] theorem setRope_svcs (k : Nat) (v : Rope) (s : State) : (State.setRope k v s).svcs = s.svcs := rfl
@[simp] theorem setRope_journal (k : Nat) (v : Rope) (s : State) : (State.setRope k v s).journal = s.journal := rfl
@[simp] theorem setRope_sec (k : Nat) (v : Rope) (s : State) : (State.setRope k v s).sec = s.sec := rfl
@[simp] theorem setRope_det (k : Nat) (v : Rope) (s : State) : (State.setRope k v s).det = s.det := rfl

@[simp] theorem setLaser_regs (m : Nat) (v : Laser) (s : State) : (State.setLaser m v s).regs = s.regs := rfl
@[simp] theorem setLaser_pkg (m : Nat) (v : Laser) (s : State) : (State.setLaser m v s).pkg = s.pkg := rfl
@[simp] theorem setLaser_time (m : Nat) (v : Laser) (s : State) : (State.setLaser m v s).time = s.time := rfl
@[simp] theorem setLaser_timers (m : Nat) (v : Laser) (s : State) : (State.setLaser m v s).timers = s.timers := rfl
@[simp] theorem setLaser_seq (m : Nat) (v : Laser) (s : State) : (State.setLaser m v s).seq = s.seq := rfl
@[simp] theorem setLaser_free (m : Nat) (v : Laser) (s : State) : (State.setLaser m v s).free = s.free := rfl
@[simp] theorem setLaser_pending (m : Nat) (v : Laser) (s : State) : (State.setLaser m v s).pending = s.pending := rfl
@[simp] theorem setLaser_out (m : Nat) (v : Laser) (s : State) : (State.setLaser m v s).out = s.out := rfl
@[simp] theorem setLaser_hiLatch (m : Nat) (v : Laser) (s : State) : (State.setLaser m v s).hiLatch = s.hiLatch := rfl
@[simp] theorem setLaser_commitLatch (m : Nat) (v : Laser) (s : State) : (State.setLaser m v s).commitLatch = s.commitLatch := rfl
@[simp] theorem setLaser_pins (m : Nat) (v : Laser) (s : State) : (State.setLaser m v s).pins = s.pins := rfl
@[simp] theorem setLaser_fence (m : Nat) (v : Laser) (s : State) : (State.setLaser m v s).fence = s.fence := rfl
@[simp] theorem setLaser_power (m : Nat) (v : Laser) (s : State) : (State.setLaser m v s).power = s.power := rfl
@[simp] theorem setLaser_rigs (m : Nat) (v : Laser) (s : State) : (State.setLaser m v s).rigs = s.rigs := rfl
@[simp] theorem setLaser_treads (m : Nat) (v : Laser) (s : State) : (State.setLaser m v s).treads = s.treads := rfl
@[simp] theorem setLaser_chans (m : Nat) (v : Laser) (s : State) : (State.setLaser m v s).chans = s.chans := rfl
@[simp] theorem setLaser_knots (m : Nat) (v : Laser) (s : State) : (State.setLaser m v s).knots = s.knots := rfl
@[simp] theorem setLaser_flights (m : Nat) (v : Laser) (s : State) : (State.setLaser m v s).flights = s.flights := rfl
@[simp] theorem setLaser_stages (m : Nat) (v : Laser) (s : State) : (State.setLaser m v s).stages = s.stages := rfl
@[simp] theorem setLaser_ctxs (m : Nat) (v : Laser) (s : State) : (State.setLaser m v s).ctxs = s.ctxs := rfl
@[simp] theorem setLaser_landings (m : Nat) (v : Laser) (s : State) : (State.setLaser m v s).landings = s.landings := rfl
@[simp] theorem setLaser_parts (m : Nat) (v : Laser) (s : State) : (State.setLaser m v s).parts = s.parts := rfl
@[simp] theorem setLaser_reds (m : Nat) (v : Laser) (s : State) : (State.setLaser m v s).reds = s.reds := rfl
@[simp] theorem setLaser_mem (m : Nat) (v : Laser) (s : State) : (State.setLaser m v s).mem = s.mem := rfl
@[simp] theorem setLaser_memCheck (m : Nat) (v : Laser) (s : State) : (State.setLaser m v s).memCheck = s.memCheck := rfl
@[simp] theorem setLaser_memEpoch (m : Nat) (v : Laser) (s : State) : (State.setLaser m v s).memEpoch = s.memEpoch := rfl
@[simp] theorem setLaser_memKey (m : Nat) (v : Laser) (s : State) : (State.setLaser m v s).memKey = s.memKey := rfl
@[simp] theorem setLaser_ucs (m : Nat) (v : Laser) (s : State) : (State.setLaser m v s).ucs = s.ucs := rfl
@[simp] theorem setLaser_sparse (m : Nat) (v : Laser) (s : State) : (State.setLaser m v s).sparse = s.sparse := rfl
@[simp] theorem setLaser_gathers (m : Nat) (v : Laser) (s : State) : (State.setLaser m v s).gathers = s.gathers := rfl
@[simp] theorem setLaser_ropes (m : Nat) (v : Laser) (s : State) : (State.setLaser m v s).ropes = s.ropes := rfl
@[simp] theorem setLaser_lasers (m : Nat) (v : Laser) (s : State) : (State.setLaser m v s).lasers = tset Laser.init s.lasers m v := rfl
@[simp] theorem setLaser_fabric (m : Nat) (v : Laser) (s : State) : (State.setLaser m v s).fabric = s.fabric := rfl
@[simp] theorem setLaser_bundles (m : Nat) (v : Laser) (s : State) : (State.setLaser m v s).bundles = s.bundles := rfl
@[simp] theorem setLaser_hces (m : Nat) (v : Laser) (s : State) : (State.setLaser m v s).hces = s.hces := rfl
@[simp] theorem setLaser_rings (m : Nat) (v : Laser) (s : State) : (State.setLaser m v s).rings = s.rings := rfl
@[simp] theorem setLaser_pcie (m : Nat) (v : Laser) (s : State) : (State.setLaser m v s).pcie = s.pcie := rfl
@[simp] theorem setLaser_svcs (m : Nat) (v : Laser) (s : State) : (State.setLaser m v s).svcs = s.svcs := rfl
@[simp] theorem setLaser_journal (m : Nat) (v : Laser) (s : State) : (State.setLaser m v s).journal = s.journal := rfl
@[simp] theorem setLaser_sec (m : Nat) (v : Laser) (s : State) : (State.setLaser m v s).sec = s.sec := rfl
@[simp] theorem setLaser_det (m : Nat) (v : Laser) (s : State) : (State.setLaser m v s).det = s.det := rfl

@[simp] theorem setBundle_regs (n : Nat) (v : Bundle) (s : State) : (State.setBundle n v s).regs = s.regs := rfl
@[simp] theorem setBundle_pkg (n : Nat) (v : Bundle) (s : State) : (State.setBundle n v s).pkg = s.pkg := rfl
@[simp] theorem setBundle_time (n : Nat) (v : Bundle) (s : State) : (State.setBundle n v s).time = s.time := rfl
@[simp] theorem setBundle_timers (n : Nat) (v : Bundle) (s : State) : (State.setBundle n v s).timers = s.timers := rfl
@[simp] theorem setBundle_seq (n : Nat) (v : Bundle) (s : State) : (State.setBundle n v s).seq = s.seq := rfl
@[simp] theorem setBundle_free (n : Nat) (v : Bundle) (s : State) : (State.setBundle n v s).free = s.free := rfl
@[simp] theorem setBundle_pending (n : Nat) (v : Bundle) (s : State) : (State.setBundle n v s).pending = s.pending := rfl
@[simp] theorem setBundle_out (n : Nat) (v : Bundle) (s : State) : (State.setBundle n v s).out = s.out := rfl
@[simp] theorem setBundle_hiLatch (n : Nat) (v : Bundle) (s : State) : (State.setBundle n v s).hiLatch = s.hiLatch := rfl
@[simp] theorem setBundle_commitLatch (n : Nat) (v : Bundle) (s : State) : (State.setBundle n v s).commitLatch = s.commitLatch := rfl
@[simp] theorem setBundle_pins (n : Nat) (v : Bundle) (s : State) : (State.setBundle n v s).pins = s.pins := rfl
@[simp] theorem setBundle_fence (n : Nat) (v : Bundle) (s : State) : (State.setBundle n v s).fence = s.fence := rfl
@[simp] theorem setBundle_power (n : Nat) (v : Bundle) (s : State) : (State.setBundle n v s).power = s.power := rfl
@[simp] theorem setBundle_rigs (n : Nat) (v : Bundle) (s : State) : (State.setBundle n v s).rigs = s.rigs := rfl
@[simp] theorem setBundle_treads (n : Nat) (v : Bundle) (s : State) : (State.setBundle n v s).treads = s.treads := rfl
@[simp] theorem setBundle_chans (n : Nat) (v : Bundle) (s : State) : (State.setBundle n v s).chans = s.chans := rfl
@[simp] theorem setBundle_knots (n : Nat) (v : Bundle) (s : State) : (State.setBundle n v s).knots = s.knots := rfl
@[simp] theorem setBundle_flights (n : Nat) (v : Bundle) (s : State) : (State.setBundle n v s).flights = s.flights := rfl
@[simp] theorem setBundle_stages (n : Nat) (v : Bundle) (s : State) : (State.setBundle n v s).stages = s.stages := rfl
@[simp] theorem setBundle_ctxs (n : Nat) (v : Bundle) (s : State) : (State.setBundle n v s).ctxs = s.ctxs := rfl
@[simp] theorem setBundle_landings (n : Nat) (v : Bundle) (s : State) : (State.setBundle n v s).landings = s.landings := rfl
@[simp] theorem setBundle_parts (n : Nat) (v : Bundle) (s : State) : (State.setBundle n v s).parts = s.parts := rfl
@[simp] theorem setBundle_reds (n : Nat) (v : Bundle) (s : State) : (State.setBundle n v s).reds = s.reds := rfl
@[simp] theorem setBundle_mem (n : Nat) (v : Bundle) (s : State) : (State.setBundle n v s).mem = s.mem := rfl
@[simp] theorem setBundle_memCheck (n : Nat) (v : Bundle) (s : State) : (State.setBundle n v s).memCheck = s.memCheck := rfl
@[simp] theorem setBundle_memEpoch (n : Nat) (v : Bundle) (s : State) : (State.setBundle n v s).memEpoch = s.memEpoch := rfl
@[simp] theorem setBundle_memKey (n : Nat) (v : Bundle) (s : State) : (State.setBundle n v s).memKey = s.memKey := rfl
@[simp] theorem setBundle_ucs (n : Nat) (v : Bundle) (s : State) : (State.setBundle n v s).ucs = s.ucs := rfl
@[simp] theorem setBundle_sparse (n : Nat) (v : Bundle) (s : State) : (State.setBundle n v s).sparse = s.sparse := rfl
@[simp] theorem setBundle_gathers (n : Nat) (v : Bundle) (s : State) : (State.setBundle n v s).gathers = s.gathers := rfl
@[simp] theorem setBundle_ropes (n : Nat) (v : Bundle) (s : State) : (State.setBundle n v s).ropes = s.ropes := rfl
@[simp] theorem setBundle_lasers (n : Nat) (v : Bundle) (s : State) : (State.setBundle n v s).lasers = s.lasers := rfl
@[simp] theorem setBundle_fabric (n : Nat) (v : Bundle) (s : State) : (State.setBundle n v s).fabric = s.fabric := rfl
@[simp] theorem setBundle_bundles (n : Nat) (v : Bundle) (s : State) : (State.setBundle n v s).bundles = tset Bundle.init s.bundles n v := rfl
@[simp] theorem setBundle_hces (n : Nat) (v : Bundle) (s : State) : (State.setBundle n v s).hces = s.hces := rfl
@[simp] theorem setBundle_rings (n : Nat) (v : Bundle) (s : State) : (State.setBundle n v s).rings = s.rings := rfl
@[simp] theorem setBundle_pcie (n : Nat) (v : Bundle) (s : State) : (State.setBundle n v s).pcie = s.pcie := rfl
@[simp] theorem setBundle_svcs (n : Nat) (v : Bundle) (s : State) : (State.setBundle n v s).svcs = s.svcs := rfl
@[simp] theorem setBundle_journal (n : Nat) (v : Bundle) (s : State) : (State.setBundle n v s).journal = s.journal := rfl
@[simp] theorem setBundle_sec (n : Nat) (v : Bundle) (s : State) : (State.setBundle n v s).sec = s.sec := rfl
@[simp] theorem setBundle_det (n : Nat) (v : Bundle) (s : State) : (State.setBundle n v s).det = s.det := rfl

@[simp] theorem setHce_regs (e : Nat) (v : Hce) (s : State) : (State.setHce e v s).regs = s.regs := rfl
@[simp] theorem setHce_pkg (e : Nat) (v : Hce) (s : State) : (State.setHce e v s).pkg = s.pkg := rfl
@[simp] theorem setHce_time (e : Nat) (v : Hce) (s : State) : (State.setHce e v s).time = s.time := rfl
@[simp] theorem setHce_timers (e : Nat) (v : Hce) (s : State) : (State.setHce e v s).timers = s.timers := rfl
@[simp] theorem setHce_seq (e : Nat) (v : Hce) (s : State) : (State.setHce e v s).seq = s.seq := rfl
@[simp] theorem setHce_free (e : Nat) (v : Hce) (s : State) : (State.setHce e v s).free = s.free := rfl
@[simp] theorem setHce_pending (e : Nat) (v : Hce) (s : State) : (State.setHce e v s).pending = s.pending := rfl
@[simp] theorem setHce_out (e : Nat) (v : Hce) (s : State) : (State.setHce e v s).out = s.out := rfl
@[simp] theorem setHce_hiLatch (e : Nat) (v : Hce) (s : State) : (State.setHce e v s).hiLatch = s.hiLatch := rfl
@[simp] theorem setHce_commitLatch (e : Nat) (v : Hce) (s : State) : (State.setHce e v s).commitLatch = s.commitLatch := rfl
@[simp] theorem setHce_pins (e : Nat) (v : Hce) (s : State) : (State.setHce e v s).pins = s.pins := rfl
@[simp] theorem setHce_fence (e : Nat) (v : Hce) (s : State) : (State.setHce e v s).fence = s.fence := rfl
@[simp] theorem setHce_power (e : Nat) (v : Hce) (s : State) : (State.setHce e v s).power = s.power := rfl
@[simp] theorem setHce_rigs (e : Nat) (v : Hce) (s : State) : (State.setHce e v s).rigs = s.rigs := rfl
@[simp] theorem setHce_treads (e : Nat) (v : Hce) (s : State) : (State.setHce e v s).treads = s.treads := rfl
@[simp] theorem setHce_chans (e : Nat) (v : Hce) (s : State) : (State.setHce e v s).chans = s.chans := rfl
@[simp] theorem setHce_knots (e : Nat) (v : Hce) (s : State) : (State.setHce e v s).knots = s.knots := rfl
@[simp] theorem setHce_flights (e : Nat) (v : Hce) (s : State) : (State.setHce e v s).flights = s.flights := rfl
@[simp] theorem setHce_stages (e : Nat) (v : Hce) (s : State) : (State.setHce e v s).stages = s.stages := rfl
@[simp] theorem setHce_ctxs (e : Nat) (v : Hce) (s : State) : (State.setHce e v s).ctxs = s.ctxs := rfl
@[simp] theorem setHce_landings (e : Nat) (v : Hce) (s : State) : (State.setHce e v s).landings = s.landings := rfl
@[simp] theorem setHce_parts (e : Nat) (v : Hce) (s : State) : (State.setHce e v s).parts = s.parts := rfl
@[simp] theorem setHce_reds (e : Nat) (v : Hce) (s : State) : (State.setHce e v s).reds = s.reds := rfl
@[simp] theorem setHce_mem (e : Nat) (v : Hce) (s : State) : (State.setHce e v s).mem = s.mem := rfl
@[simp] theorem setHce_memCheck (e : Nat) (v : Hce) (s : State) : (State.setHce e v s).memCheck = s.memCheck := rfl
@[simp] theorem setHce_memEpoch (e : Nat) (v : Hce) (s : State) : (State.setHce e v s).memEpoch = s.memEpoch := rfl
@[simp] theorem setHce_memKey (e : Nat) (v : Hce) (s : State) : (State.setHce e v s).memKey = s.memKey := rfl
@[simp] theorem setHce_ucs (e : Nat) (v : Hce) (s : State) : (State.setHce e v s).ucs = s.ucs := rfl
@[simp] theorem setHce_sparse (e : Nat) (v : Hce) (s : State) : (State.setHce e v s).sparse = s.sparse := rfl
@[simp] theorem setHce_gathers (e : Nat) (v : Hce) (s : State) : (State.setHce e v s).gathers = s.gathers := rfl
@[simp] theorem setHce_ropes (e : Nat) (v : Hce) (s : State) : (State.setHce e v s).ropes = s.ropes := rfl
@[simp] theorem setHce_lasers (e : Nat) (v : Hce) (s : State) : (State.setHce e v s).lasers = s.lasers := rfl
@[simp] theorem setHce_fabric (e : Nat) (v : Hce) (s : State) : (State.setHce e v s).fabric = s.fabric := rfl
@[simp] theorem setHce_bundles (e : Nat) (v : Hce) (s : State) : (State.setHce e v s).bundles = s.bundles := rfl
@[simp] theorem setHce_hces (e : Nat) (v : Hce) (s : State) : (State.setHce e v s).hces = tset Hce.init s.hces e v := rfl
@[simp] theorem setHce_rings (e : Nat) (v : Hce) (s : State) : (State.setHce e v s).rings = s.rings := rfl
@[simp] theorem setHce_pcie (e : Nat) (v : Hce) (s : State) : (State.setHce e v s).pcie = s.pcie := rfl
@[simp] theorem setHce_svcs (e : Nat) (v : Hce) (s : State) : (State.setHce e v s).svcs = s.svcs := rfl
@[simp] theorem setHce_journal (e : Nat) (v : Hce) (s : State) : (State.setHce e v s).journal = s.journal := rfl
@[simp] theorem setHce_sec (e : Nat) (v : Hce) (s : State) : (State.setHce e v s).sec = s.sec := rfl
@[simp] theorem setHce_det (e : Nat) (v : Hce) (s : State) : (State.setHce e v s).det = s.det := rfl

@[simp] theorem setRing_regs (f : Nat) (v : EvRing) (s : State) : (State.setRing f v s).regs = s.regs := rfl
@[simp] theorem setRing_pkg (f : Nat) (v : EvRing) (s : State) : (State.setRing f v s).pkg = s.pkg := rfl
@[simp] theorem setRing_time (f : Nat) (v : EvRing) (s : State) : (State.setRing f v s).time = s.time := rfl
@[simp] theorem setRing_timers (f : Nat) (v : EvRing) (s : State) : (State.setRing f v s).timers = s.timers := rfl
@[simp] theorem setRing_seq (f : Nat) (v : EvRing) (s : State) : (State.setRing f v s).seq = s.seq := rfl
@[simp] theorem setRing_free (f : Nat) (v : EvRing) (s : State) : (State.setRing f v s).free = s.free := rfl
@[simp] theorem setRing_pending (f : Nat) (v : EvRing) (s : State) : (State.setRing f v s).pending = s.pending := rfl
@[simp] theorem setRing_out (f : Nat) (v : EvRing) (s : State) : (State.setRing f v s).out = s.out := rfl
@[simp] theorem setRing_hiLatch (f : Nat) (v : EvRing) (s : State) : (State.setRing f v s).hiLatch = s.hiLatch := rfl
@[simp] theorem setRing_commitLatch (f : Nat) (v : EvRing) (s : State) : (State.setRing f v s).commitLatch = s.commitLatch := rfl
@[simp] theorem setRing_pins (f : Nat) (v : EvRing) (s : State) : (State.setRing f v s).pins = s.pins := rfl
@[simp] theorem setRing_fence (f : Nat) (v : EvRing) (s : State) : (State.setRing f v s).fence = s.fence := rfl
@[simp] theorem setRing_power (f : Nat) (v : EvRing) (s : State) : (State.setRing f v s).power = s.power := rfl
@[simp] theorem setRing_rigs (f : Nat) (v : EvRing) (s : State) : (State.setRing f v s).rigs = s.rigs := rfl
@[simp] theorem setRing_treads (f : Nat) (v : EvRing) (s : State) : (State.setRing f v s).treads = s.treads := rfl
@[simp] theorem setRing_chans (f : Nat) (v : EvRing) (s : State) : (State.setRing f v s).chans = s.chans := rfl
@[simp] theorem setRing_knots (f : Nat) (v : EvRing) (s : State) : (State.setRing f v s).knots = s.knots := rfl
@[simp] theorem setRing_flights (f : Nat) (v : EvRing) (s : State) : (State.setRing f v s).flights = s.flights := rfl
@[simp] theorem setRing_stages (f : Nat) (v : EvRing) (s : State) : (State.setRing f v s).stages = s.stages := rfl
@[simp] theorem setRing_ctxs (f : Nat) (v : EvRing) (s : State) : (State.setRing f v s).ctxs = s.ctxs := rfl
@[simp] theorem setRing_landings (f : Nat) (v : EvRing) (s : State) : (State.setRing f v s).landings = s.landings := rfl
@[simp] theorem setRing_parts (f : Nat) (v : EvRing) (s : State) : (State.setRing f v s).parts = s.parts := rfl
@[simp] theorem setRing_reds (f : Nat) (v : EvRing) (s : State) : (State.setRing f v s).reds = s.reds := rfl
@[simp] theorem setRing_mem (f : Nat) (v : EvRing) (s : State) : (State.setRing f v s).mem = s.mem := rfl
@[simp] theorem setRing_memCheck (f : Nat) (v : EvRing) (s : State) : (State.setRing f v s).memCheck = s.memCheck := rfl
@[simp] theorem setRing_memEpoch (f : Nat) (v : EvRing) (s : State) : (State.setRing f v s).memEpoch = s.memEpoch := rfl
@[simp] theorem setRing_memKey (f : Nat) (v : EvRing) (s : State) : (State.setRing f v s).memKey = s.memKey := rfl
@[simp] theorem setRing_ucs (f : Nat) (v : EvRing) (s : State) : (State.setRing f v s).ucs = s.ucs := rfl
@[simp] theorem setRing_sparse (f : Nat) (v : EvRing) (s : State) : (State.setRing f v s).sparse = s.sparse := rfl
@[simp] theorem setRing_gathers (f : Nat) (v : EvRing) (s : State) : (State.setRing f v s).gathers = s.gathers := rfl
@[simp] theorem setRing_ropes (f : Nat) (v : EvRing) (s : State) : (State.setRing f v s).ropes = s.ropes := rfl
@[simp] theorem setRing_lasers (f : Nat) (v : EvRing) (s : State) : (State.setRing f v s).lasers = s.lasers := rfl
@[simp] theorem setRing_fabric (f : Nat) (v : EvRing) (s : State) : (State.setRing f v s).fabric = s.fabric := rfl
@[simp] theorem setRing_bundles (f : Nat) (v : EvRing) (s : State) : (State.setRing f v s).bundles = s.bundles := rfl
@[simp] theorem setRing_hces (f : Nat) (v : EvRing) (s : State) : (State.setRing f v s).hces = s.hces := rfl
@[simp] theorem setRing_rings (f : Nat) (v : EvRing) (s : State) : (State.setRing f v s).rings = tset EvRing.init s.rings f v := rfl
@[simp] theorem setRing_pcie (f : Nat) (v : EvRing) (s : State) : (State.setRing f v s).pcie = s.pcie := rfl
@[simp] theorem setRing_svcs (f : Nat) (v : EvRing) (s : State) : (State.setRing f v s).svcs = s.svcs := rfl
@[simp] theorem setRing_journal (f : Nat) (v : EvRing) (s : State) : (State.setRing f v s).journal = s.journal := rfl
@[simp] theorem setRing_sec (f : Nat) (v : EvRing) (s : State) : (State.setRing f v s).sec = s.sec := rfl
@[simp] theorem setRing_det (f : Nat) (v : EvRing) (s : State) : (State.setRing f v s).det = s.det := rfl

@[simp] theorem setSvc_regs (p : Nat) (v : Svc) (s : State) : (State.setSvc p v s).regs = s.regs := rfl
@[simp] theorem setSvc_pkg (p : Nat) (v : Svc) (s : State) : (State.setSvc p v s).pkg = s.pkg := rfl
@[simp] theorem setSvc_time (p : Nat) (v : Svc) (s : State) : (State.setSvc p v s).time = s.time := rfl
@[simp] theorem setSvc_timers (p : Nat) (v : Svc) (s : State) : (State.setSvc p v s).timers = s.timers := rfl
@[simp] theorem setSvc_seq (p : Nat) (v : Svc) (s : State) : (State.setSvc p v s).seq = s.seq := rfl
@[simp] theorem setSvc_free (p : Nat) (v : Svc) (s : State) : (State.setSvc p v s).free = s.free := rfl
@[simp] theorem setSvc_pending (p : Nat) (v : Svc) (s : State) : (State.setSvc p v s).pending = s.pending := rfl
@[simp] theorem setSvc_out (p : Nat) (v : Svc) (s : State) : (State.setSvc p v s).out = s.out := rfl
@[simp] theorem setSvc_hiLatch (p : Nat) (v : Svc) (s : State) : (State.setSvc p v s).hiLatch = s.hiLatch := rfl
@[simp] theorem setSvc_commitLatch (p : Nat) (v : Svc) (s : State) : (State.setSvc p v s).commitLatch = s.commitLatch := rfl
@[simp] theorem setSvc_pins (p : Nat) (v : Svc) (s : State) : (State.setSvc p v s).pins = s.pins := rfl
@[simp] theorem setSvc_fence (p : Nat) (v : Svc) (s : State) : (State.setSvc p v s).fence = s.fence := rfl
@[simp] theorem setSvc_power (p : Nat) (v : Svc) (s : State) : (State.setSvc p v s).power = s.power := rfl
@[simp] theorem setSvc_rigs (p : Nat) (v : Svc) (s : State) : (State.setSvc p v s).rigs = s.rigs := rfl
@[simp] theorem setSvc_treads (p : Nat) (v : Svc) (s : State) : (State.setSvc p v s).treads = s.treads := rfl
@[simp] theorem setSvc_chans (p : Nat) (v : Svc) (s : State) : (State.setSvc p v s).chans = s.chans := rfl
@[simp] theorem setSvc_knots (p : Nat) (v : Svc) (s : State) : (State.setSvc p v s).knots = s.knots := rfl
@[simp] theorem setSvc_flights (p : Nat) (v : Svc) (s : State) : (State.setSvc p v s).flights = s.flights := rfl
@[simp] theorem setSvc_stages (p : Nat) (v : Svc) (s : State) : (State.setSvc p v s).stages = s.stages := rfl
@[simp] theorem setSvc_ctxs (p : Nat) (v : Svc) (s : State) : (State.setSvc p v s).ctxs = s.ctxs := rfl
@[simp] theorem setSvc_landings (p : Nat) (v : Svc) (s : State) : (State.setSvc p v s).landings = s.landings := rfl
@[simp] theorem setSvc_parts (p : Nat) (v : Svc) (s : State) : (State.setSvc p v s).parts = s.parts := rfl
@[simp] theorem setSvc_reds (p : Nat) (v : Svc) (s : State) : (State.setSvc p v s).reds = s.reds := rfl
@[simp] theorem setSvc_mem (p : Nat) (v : Svc) (s : State) : (State.setSvc p v s).mem = s.mem := rfl
@[simp] theorem setSvc_memCheck (p : Nat) (v : Svc) (s : State) : (State.setSvc p v s).memCheck = s.memCheck := rfl
@[simp] theorem setSvc_memEpoch (p : Nat) (v : Svc) (s : State) : (State.setSvc p v s).memEpoch = s.memEpoch := rfl
@[simp] theorem setSvc_memKey (p : Nat) (v : Svc) (s : State) : (State.setSvc p v s).memKey = s.memKey := rfl
@[simp] theorem setSvc_ucs (p : Nat) (v : Svc) (s : State) : (State.setSvc p v s).ucs = s.ucs := rfl
@[simp] theorem setSvc_sparse (p : Nat) (v : Svc) (s : State) : (State.setSvc p v s).sparse = s.sparse := rfl
@[simp] theorem setSvc_gathers (p : Nat) (v : Svc) (s : State) : (State.setSvc p v s).gathers = s.gathers := rfl
@[simp] theorem setSvc_ropes (p : Nat) (v : Svc) (s : State) : (State.setSvc p v s).ropes = s.ropes := rfl
@[simp] theorem setSvc_lasers (p : Nat) (v : Svc) (s : State) : (State.setSvc p v s).lasers = s.lasers := rfl
@[simp] theorem setSvc_fabric (p : Nat) (v : Svc) (s : State) : (State.setSvc p v s).fabric = s.fabric := rfl
@[simp] theorem setSvc_bundles (p : Nat) (v : Svc) (s : State) : (State.setSvc p v s).bundles = s.bundles := rfl
@[simp] theorem setSvc_hces (p : Nat) (v : Svc) (s : State) : (State.setSvc p v s).hces = s.hces := rfl
@[simp] theorem setSvc_rings (p : Nat) (v : Svc) (s : State) : (State.setSvc p v s).rings = s.rings := rfl
@[simp] theorem setSvc_pcie (p : Nat) (v : Svc) (s : State) : (State.setSvc p v s).pcie = s.pcie := rfl
@[simp] theorem setSvc_svcs (p : Nat) (v : Svc) (s : State) : (State.setSvc p v s).svcs = tset Svc.init s.svcs p v := rfl
@[simp] theorem setSvc_journal (p : Nat) (v : Svc) (s : State) : (State.setSvc p v s).journal = s.journal := rfl
@[simp] theorem setSvc_sec (p : Nat) (v : Svc) (s : State) : (State.setSvc p v s).sec = s.sec := rfl
@[simp] theorem setSvc_det (p : Nat) (v : Svc) (s : State) : (State.setSvc p v s).det = s.det := rfl

@[simp] theorem setPower_regs (v : Power) (s : State) : (State.setPower v s).regs = s.regs := rfl
@[simp] theorem setPower_pkg (v : Power) (s : State) : (State.setPower v s).pkg = s.pkg := rfl
@[simp] theorem setPower_time (v : Power) (s : State) : (State.setPower v s).time = s.time := rfl
@[simp] theorem setPower_timers (v : Power) (s : State) : (State.setPower v s).timers = s.timers := rfl
@[simp] theorem setPower_seq (v : Power) (s : State) : (State.setPower v s).seq = s.seq := rfl
@[simp] theorem setPower_free (v : Power) (s : State) : (State.setPower v s).free = s.free := rfl
@[simp] theorem setPower_pending (v : Power) (s : State) : (State.setPower v s).pending = s.pending := rfl
@[simp] theorem setPower_out (v : Power) (s : State) : (State.setPower v s).out = s.out := rfl
@[simp] theorem setPower_hiLatch (v : Power) (s : State) : (State.setPower v s).hiLatch = s.hiLatch := rfl
@[simp] theorem setPower_commitLatch (v : Power) (s : State) : (State.setPower v s).commitLatch = s.commitLatch := rfl
@[simp] theorem setPower_pins (v : Power) (s : State) : (State.setPower v s).pins = s.pins := rfl
@[simp] theorem setPower_fence (v : Power) (s : State) : (State.setPower v s).fence = s.fence := rfl
@[simp] theorem setPower_power (v : Power) (s : State) : (State.setPower v s).power = v := rfl
@[simp] theorem setPower_rigs (v : Power) (s : State) : (State.setPower v s).rigs = s.rigs := rfl
@[simp] theorem setPower_treads (v : Power) (s : State) : (State.setPower v s).treads = s.treads := rfl
@[simp] theorem setPower_chans (v : Power) (s : State) : (State.setPower v s).chans = s.chans := rfl
@[simp] theorem setPower_knots (v : Power) (s : State) : (State.setPower v s).knots = s.knots := rfl
@[simp] theorem setPower_flights (v : Power) (s : State) : (State.setPower v s).flights = s.flights := rfl
@[simp] theorem setPower_stages (v : Power) (s : State) : (State.setPower v s).stages = s.stages := rfl
@[simp] theorem setPower_ctxs (v : Power) (s : State) : (State.setPower v s).ctxs = s.ctxs := rfl
@[simp] theorem setPower_landings (v : Power) (s : State) : (State.setPower v s).landings = s.landings := rfl
@[simp] theorem setPower_parts (v : Power) (s : State) : (State.setPower v s).parts = s.parts := rfl
@[simp] theorem setPower_reds (v : Power) (s : State) : (State.setPower v s).reds = s.reds := rfl
@[simp] theorem setPower_mem (v : Power) (s : State) : (State.setPower v s).mem = s.mem := rfl
@[simp] theorem setPower_memCheck (v : Power) (s : State) : (State.setPower v s).memCheck = s.memCheck := rfl
@[simp] theorem setPower_memEpoch (v : Power) (s : State) : (State.setPower v s).memEpoch = s.memEpoch := rfl
@[simp] theorem setPower_memKey (v : Power) (s : State) : (State.setPower v s).memKey = s.memKey := rfl
@[simp] theorem setPower_ucs (v : Power) (s : State) : (State.setPower v s).ucs = s.ucs := rfl
@[simp] theorem setPower_sparse (v : Power) (s : State) : (State.setPower v s).sparse = s.sparse := rfl
@[simp] theorem setPower_gathers (v : Power) (s : State) : (State.setPower v s).gathers = s.gathers := rfl
@[simp] theorem setPower_ropes (v : Power) (s : State) : (State.setPower v s).ropes = s.ropes := rfl
@[simp] theorem setPower_lasers (v : Power) (s : State) : (State.setPower v s).lasers = s.lasers := rfl
@[simp] theorem setPower_fabric (v : Power) (s : State) : (State.setPower v s).fabric = s.fabric := rfl
@[simp] theorem setPower_bundles (v : Power) (s : State) : (State.setPower v s).bundles = s.bundles := rfl
@[simp] theorem setPower_hces (v : Power) (s : State) : (State.setPower v s).hces = s.hces := rfl
@[simp] theorem setPower_rings (v : Power) (s : State) : (State.setPower v s).rings = s.rings := rfl
@[simp] theorem setPower_pcie (v : Power) (s : State) : (State.setPower v s).pcie = s.pcie := rfl
@[simp] theorem setPower_svcs (v : Power) (s : State) : (State.setPower v s).svcs = s.svcs := rfl
@[simp] theorem setPower_journal (v : Power) (s : State) : (State.setPower v s).journal = s.journal := rfl
@[simp] theorem setPower_sec (v : Power) (s : State) : (State.setPower v s).sec = s.sec := rfl
@[simp] theorem setPower_det (v : Power) (s : State) : (State.setPower v s).det = s.det := rfl

@[simp] theorem setPins_regs (v : Pins) (s : State) : (State.setPins v s).regs = s.regs := rfl
@[simp] theorem setPins_pkg (v : Pins) (s : State) : (State.setPins v s).pkg = s.pkg := rfl
@[simp] theorem setPins_time (v : Pins) (s : State) : (State.setPins v s).time = s.time := rfl
@[simp] theorem setPins_timers (v : Pins) (s : State) : (State.setPins v s).timers = s.timers := rfl
@[simp] theorem setPins_seq (v : Pins) (s : State) : (State.setPins v s).seq = s.seq := rfl
@[simp] theorem setPins_free (v : Pins) (s : State) : (State.setPins v s).free = s.free := rfl
@[simp] theorem setPins_pending (v : Pins) (s : State) : (State.setPins v s).pending = s.pending := rfl
@[simp] theorem setPins_out (v : Pins) (s : State) : (State.setPins v s).out = s.out := rfl
@[simp] theorem setPins_hiLatch (v : Pins) (s : State) : (State.setPins v s).hiLatch = s.hiLatch := rfl
@[simp] theorem setPins_commitLatch (v : Pins) (s : State) : (State.setPins v s).commitLatch = s.commitLatch := rfl
@[simp] theorem setPins_pins (v : Pins) (s : State) : (State.setPins v s).pins = v := rfl
@[simp] theorem setPins_fence (v : Pins) (s : State) : (State.setPins v s).fence = s.fence := rfl
@[simp] theorem setPins_power (v : Pins) (s : State) : (State.setPins v s).power = s.power := rfl
@[simp] theorem setPins_rigs (v : Pins) (s : State) : (State.setPins v s).rigs = s.rigs := rfl
@[simp] theorem setPins_treads (v : Pins) (s : State) : (State.setPins v s).treads = s.treads := rfl
@[simp] theorem setPins_chans (v : Pins) (s : State) : (State.setPins v s).chans = s.chans := rfl
@[simp] theorem setPins_knots (v : Pins) (s : State) : (State.setPins v s).knots = s.knots := rfl
@[simp] theorem setPins_flights (v : Pins) (s : State) : (State.setPins v s).flights = s.flights := rfl
@[simp] theorem setPins_stages (v : Pins) (s : State) : (State.setPins v s).stages = s.stages := rfl
@[simp] theorem setPins_ctxs (v : Pins) (s : State) : (State.setPins v s).ctxs = s.ctxs := rfl
@[simp] theorem setPins_landings (v : Pins) (s : State) : (State.setPins v s).landings = s.landings := rfl
@[simp] theorem setPins_parts (v : Pins) (s : State) : (State.setPins v s).parts = s.parts := rfl
@[simp] theorem setPins_reds (v : Pins) (s : State) : (State.setPins v s).reds = s.reds := rfl
@[simp] theorem setPins_mem (v : Pins) (s : State) : (State.setPins v s).mem = s.mem := rfl
@[simp] theorem setPins_memCheck (v : Pins) (s : State) : (State.setPins v s).memCheck = s.memCheck := rfl
@[simp] theorem setPins_memEpoch (v : Pins) (s : State) : (State.setPins v s).memEpoch = s.memEpoch := rfl
@[simp] theorem setPins_memKey (v : Pins) (s : State) : (State.setPins v s).memKey = s.memKey := rfl
@[simp] theorem setPins_ucs (v : Pins) (s : State) : (State.setPins v s).ucs = s.ucs := rfl
@[simp] theorem setPins_sparse (v : Pins) (s : State) : (State.setPins v s).sparse = s.sparse := rfl
@[simp] theorem setPins_gathers (v : Pins) (s : State) : (State.setPins v s).gathers = s.gathers := rfl
@[simp] theorem setPins_ropes (v : Pins) (s : State) : (State.setPins v s).ropes = s.ropes := rfl
@[simp] theorem setPins_lasers (v : Pins) (s : State) : (State.setPins v s).lasers = s.lasers := rfl
@[simp] theorem setPins_fabric (v : Pins) (s : State) : (State.setPins v s).fabric = s.fabric := rfl
@[simp] theorem setPins_bundles (v : Pins) (s : State) : (State.setPins v s).bundles = s.bundles := rfl
@[simp] theorem setPins_hces (v : Pins) (s : State) : (State.setPins v s).hces = s.hces := rfl
@[simp] theorem setPins_rings (v : Pins) (s : State) : (State.setPins v s).rings = s.rings := rfl
@[simp] theorem setPins_pcie (v : Pins) (s : State) : (State.setPins v s).pcie = s.pcie := rfl
@[simp] theorem setPins_svcs (v : Pins) (s : State) : (State.setPins v s).svcs = s.svcs := rfl
@[simp] theorem setPins_journal (v : Pins) (s : State) : (State.setPins v s).journal = s.journal := rfl
@[simp] theorem setPins_sec (v : Pins) (s : State) : (State.setPins v s).sec = s.sec := rfl
@[simp] theorem setPins_det (v : Pins) (s : State) : (State.setPins v s).det = s.det := rfl

@[simp] theorem setMemCheck_regs (v : Tbl Nat) (s : State) : (State.setMemCheck v s).regs = s.regs := rfl
@[simp] theorem setMemCheck_pkg (v : Tbl Nat) (s : State) : (State.setMemCheck v s).pkg = s.pkg := rfl
@[simp] theorem setMemCheck_time (v : Tbl Nat) (s : State) : (State.setMemCheck v s).time = s.time := rfl
@[simp] theorem setMemCheck_timers (v : Tbl Nat) (s : State) : (State.setMemCheck v s).timers = s.timers := rfl
@[simp] theorem setMemCheck_seq (v : Tbl Nat) (s : State) : (State.setMemCheck v s).seq = s.seq := rfl
@[simp] theorem setMemCheck_free (v : Tbl Nat) (s : State) : (State.setMemCheck v s).free = s.free := rfl
@[simp] theorem setMemCheck_pending (v : Tbl Nat) (s : State) : (State.setMemCheck v s).pending = s.pending := rfl
@[simp] theorem setMemCheck_out (v : Tbl Nat) (s : State) : (State.setMemCheck v s).out = s.out := rfl
@[simp] theorem setMemCheck_hiLatch (v : Tbl Nat) (s : State) : (State.setMemCheck v s).hiLatch = s.hiLatch := rfl
@[simp] theorem setMemCheck_commitLatch (v : Tbl Nat) (s : State) : (State.setMemCheck v s).commitLatch = s.commitLatch := rfl
@[simp] theorem setMemCheck_pins (v : Tbl Nat) (s : State) : (State.setMemCheck v s).pins = s.pins := rfl
@[simp] theorem setMemCheck_fence (v : Tbl Nat) (s : State) : (State.setMemCheck v s).fence = s.fence := rfl
@[simp] theorem setMemCheck_power (v : Tbl Nat) (s : State) : (State.setMemCheck v s).power = s.power := rfl
@[simp] theorem setMemCheck_rigs (v : Tbl Nat) (s : State) : (State.setMemCheck v s).rigs = s.rigs := rfl
@[simp] theorem setMemCheck_treads (v : Tbl Nat) (s : State) : (State.setMemCheck v s).treads = s.treads := rfl
@[simp] theorem setMemCheck_chans (v : Tbl Nat) (s : State) : (State.setMemCheck v s).chans = s.chans := rfl
@[simp] theorem setMemCheck_knots (v : Tbl Nat) (s : State) : (State.setMemCheck v s).knots = s.knots := rfl
@[simp] theorem setMemCheck_flights (v : Tbl Nat) (s : State) : (State.setMemCheck v s).flights = s.flights := rfl
@[simp] theorem setMemCheck_stages (v : Tbl Nat) (s : State) : (State.setMemCheck v s).stages = s.stages := rfl
@[simp] theorem setMemCheck_ctxs (v : Tbl Nat) (s : State) : (State.setMemCheck v s).ctxs = s.ctxs := rfl
@[simp] theorem setMemCheck_landings (v : Tbl Nat) (s : State) : (State.setMemCheck v s).landings = s.landings := rfl
@[simp] theorem setMemCheck_parts (v : Tbl Nat) (s : State) : (State.setMemCheck v s).parts = s.parts := rfl
@[simp] theorem setMemCheck_reds (v : Tbl Nat) (s : State) : (State.setMemCheck v s).reds = s.reds := rfl
@[simp] theorem setMemCheck_mem (v : Tbl Nat) (s : State) : (State.setMemCheck v s).mem = s.mem := rfl
@[simp] theorem setMemCheck_memCheck (v : Tbl Nat) (s : State) : (State.setMemCheck v s).memCheck = v := rfl
@[simp] theorem setMemCheck_memEpoch (v : Tbl Nat) (s : State) : (State.setMemCheck v s).memEpoch = s.memEpoch := rfl
@[simp] theorem setMemCheck_memKey (v : Tbl Nat) (s : State) : (State.setMemCheck v s).memKey = s.memKey := rfl
@[simp] theorem setMemCheck_ucs (v : Tbl Nat) (s : State) : (State.setMemCheck v s).ucs = s.ucs := rfl
@[simp] theorem setMemCheck_sparse (v : Tbl Nat) (s : State) : (State.setMemCheck v s).sparse = s.sparse := rfl
@[simp] theorem setMemCheck_gathers (v : Tbl Nat) (s : State) : (State.setMemCheck v s).gathers = s.gathers := rfl
@[simp] theorem setMemCheck_ropes (v : Tbl Nat) (s : State) : (State.setMemCheck v s).ropes = s.ropes := rfl
@[simp] theorem setMemCheck_lasers (v : Tbl Nat) (s : State) : (State.setMemCheck v s).lasers = s.lasers := rfl
@[simp] theorem setMemCheck_fabric (v : Tbl Nat) (s : State) : (State.setMemCheck v s).fabric = s.fabric := rfl
@[simp] theorem setMemCheck_bundles (v : Tbl Nat) (s : State) : (State.setMemCheck v s).bundles = s.bundles := rfl
@[simp] theorem setMemCheck_hces (v : Tbl Nat) (s : State) : (State.setMemCheck v s).hces = s.hces := rfl
@[simp] theorem setMemCheck_rings (v : Tbl Nat) (s : State) : (State.setMemCheck v s).rings = s.rings := rfl
@[simp] theorem setMemCheck_pcie (v : Tbl Nat) (s : State) : (State.setMemCheck v s).pcie = s.pcie := rfl
@[simp] theorem setMemCheck_svcs (v : Tbl Nat) (s : State) : (State.setMemCheck v s).svcs = s.svcs := rfl
@[simp] theorem setMemCheck_journal (v : Tbl Nat) (s : State) : (State.setMemCheck v s).journal = s.journal := rfl
@[simp] theorem setMemCheck_sec (v : Tbl Nat) (s : State) : (State.setMemCheck v s).sec = s.sec := rfl
@[simp] theorem setMemCheck_det (v : Tbl Nat) (s : State) : (State.setMemCheck v s).det = s.det := rfl

@[simp] theorem setMemEpoch_regs (v : Tbl Nat) (s : State) : (State.setMemEpoch v s).regs = s.regs := rfl
@[simp] theorem setMemEpoch_pkg (v : Tbl Nat) (s : State) : (State.setMemEpoch v s).pkg = s.pkg := rfl
@[simp] theorem setMemEpoch_time (v : Tbl Nat) (s : State) : (State.setMemEpoch v s).time = s.time := rfl
@[simp] theorem setMemEpoch_timers (v : Tbl Nat) (s : State) : (State.setMemEpoch v s).timers = s.timers := rfl
@[simp] theorem setMemEpoch_seq (v : Tbl Nat) (s : State) : (State.setMemEpoch v s).seq = s.seq := rfl
@[simp] theorem setMemEpoch_free (v : Tbl Nat) (s : State) : (State.setMemEpoch v s).free = s.free := rfl
@[simp] theorem setMemEpoch_pending (v : Tbl Nat) (s : State) : (State.setMemEpoch v s).pending = s.pending := rfl
@[simp] theorem setMemEpoch_out (v : Tbl Nat) (s : State) : (State.setMemEpoch v s).out = s.out := rfl
@[simp] theorem setMemEpoch_hiLatch (v : Tbl Nat) (s : State) : (State.setMemEpoch v s).hiLatch = s.hiLatch := rfl
@[simp] theorem setMemEpoch_commitLatch (v : Tbl Nat) (s : State) : (State.setMemEpoch v s).commitLatch = s.commitLatch := rfl
@[simp] theorem setMemEpoch_pins (v : Tbl Nat) (s : State) : (State.setMemEpoch v s).pins = s.pins := rfl
@[simp] theorem setMemEpoch_fence (v : Tbl Nat) (s : State) : (State.setMemEpoch v s).fence = s.fence := rfl
@[simp] theorem setMemEpoch_power (v : Tbl Nat) (s : State) : (State.setMemEpoch v s).power = s.power := rfl
@[simp] theorem setMemEpoch_rigs (v : Tbl Nat) (s : State) : (State.setMemEpoch v s).rigs = s.rigs := rfl
@[simp] theorem setMemEpoch_treads (v : Tbl Nat) (s : State) : (State.setMemEpoch v s).treads = s.treads := rfl
@[simp] theorem setMemEpoch_chans (v : Tbl Nat) (s : State) : (State.setMemEpoch v s).chans = s.chans := rfl
@[simp] theorem setMemEpoch_knots (v : Tbl Nat) (s : State) : (State.setMemEpoch v s).knots = s.knots := rfl
@[simp] theorem setMemEpoch_flights (v : Tbl Nat) (s : State) : (State.setMemEpoch v s).flights = s.flights := rfl
@[simp] theorem setMemEpoch_stages (v : Tbl Nat) (s : State) : (State.setMemEpoch v s).stages = s.stages := rfl
@[simp] theorem setMemEpoch_ctxs (v : Tbl Nat) (s : State) : (State.setMemEpoch v s).ctxs = s.ctxs := rfl
@[simp] theorem setMemEpoch_landings (v : Tbl Nat) (s : State) : (State.setMemEpoch v s).landings = s.landings := rfl
@[simp] theorem setMemEpoch_parts (v : Tbl Nat) (s : State) : (State.setMemEpoch v s).parts = s.parts := rfl
@[simp] theorem setMemEpoch_reds (v : Tbl Nat) (s : State) : (State.setMemEpoch v s).reds = s.reds := rfl
@[simp] theorem setMemEpoch_mem (v : Tbl Nat) (s : State) : (State.setMemEpoch v s).mem = s.mem := rfl
@[simp] theorem setMemEpoch_memCheck (v : Tbl Nat) (s : State) : (State.setMemEpoch v s).memCheck = s.memCheck := rfl
@[simp] theorem setMemEpoch_memEpoch (v : Tbl Nat) (s : State) : (State.setMemEpoch v s).memEpoch = v := rfl
@[simp] theorem setMemEpoch_memKey (v : Tbl Nat) (s : State) : (State.setMemEpoch v s).memKey = s.memKey := rfl
@[simp] theorem setMemEpoch_ucs (v : Tbl Nat) (s : State) : (State.setMemEpoch v s).ucs = s.ucs := rfl
@[simp] theorem setMemEpoch_sparse (v : Tbl Nat) (s : State) : (State.setMemEpoch v s).sparse = s.sparse := rfl
@[simp] theorem setMemEpoch_gathers (v : Tbl Nat) (s : State) : (State.setMemEpoch v s).gathers = s.gathers := rfl
@[simp] theorem setMemEpoch_ropes (v : Tbl Nat) (s : State) : (State.setMemEpoch v s).ropes = s.ropes := rfl
@[simp] theorem setMemEpoch_lasers (v : Tbl Nat) (s : State) : (State.setMemEpoch v s).lasers = s.lasers := rfl
@[simp] theorem setMemEpoch_fabric (v : Tbl Nat) (s : State) : (State.setMemEpoch v s).fabric = s.fabric := rfl
@[simp] theorem setMemEpoch_bundles (v : Tbl Nat) (s : State) : (State.setMemEpoch v s).bundles = s.bundles := rfl
@[simp] theorem setMemEpoch_hces (v : Tbl Nat) (s : State) : (State.setMemEpoch v s).hces = s.hces := rfl
@[simp] theorem setMemEpoch_rings (v : Tbl Nat) (s : State) : (State.setMemEpoch v s).rings = s.rings := rfl
@[simp] theorem setMemEpoch_pcie (v : Tbl Nat) (s : State) : (State.setMemEpoch v s).pcie = s.pcie := rfl
@[simp] theorem setMemEpoch_svcs (v : Tbl Nat) (s : State) : (State.setMemEpoch v s).svcs = s.svcs := rfl
@[simp] theorem setMemEpoch_journal (v : Tbl Nat) (s : State) : (State.setMemEpoch v s).journal = s.journal := rfl
@[simp] theorem setMemEpoch_sec (v : Tbl Nat) (s : State) : (State.setMemEpoch v s).sec = s.sec := rfl
@[simp] theorem setMemEpoch_det (v : Tbl Nat) (s : State) : (State.setMemEpoch v s).det = s.det := rfl

@[simp] theorem setMemKey_regs (v : Tbl Nat) (s : State) : (State.setMemKey v s).regs = s.regs := rfl
@[simp] theorem setMemKey_pkg (v : Tbl Nat) (s : State) : (State.setMemKey v s).pkg = s.pkg := rfl
@[simp] theorem setMemKey_time (v : Tbl Nat) (s : State) : (State.setMemKey v s).time = s.time := rfl
@[simp] theorem setMemKey_timers (v : Tbl Nat) (s : State) : (State.setMemKey v s).timers = s.timers := rfl
@[simp] theorem setMemKey_seq (v : Tbl Nat) (s : State) : (State.setMemKey v s).seq = s.seq := rfl
@[simp] theorem setMemKey_free (v : Tbl Nat) (s : State) : (State.setMemKey v s).free = s.free := rfl
@[simp] theorem setMemKey_pending (v : Tbl Nat) (s : State) : (State.setMemKey v s).pending = s.pending := rfl
@[simp] theorem setMemKey_out (v : Tbl Nat) (s : State) : (State.setMemKey v s).out = s.out := rfl
@[simp] theorem setMemKey_hiLatch (v : Tbl Nat) (s : State) : (State.setMemKey v s).hiLatch = s.hiLatch := rfl
@[simp] theorem setMemKey_commitLatch (v : Tbl Nat) (s : State) : (State.setMemKey v s).commitLatch = s.commitLatch := rfl
@[simp] theorem setMemKey_pins (v : Tbl Nat) (s : State) : (State.setMemKey v s).pins = s.pins := rfl
@[simp] theorem setMemKey_fence (v : Tbl Nat) (s : State) : (State.setMemKey v s).fence = s.fence := rfl
@[simp] theorem setMemKey_power (v : Tbl Nat) (s : State) : (State.setMemKey v s).power = s.power := rfl
@[simp] theorem setMemKey_rigs (v : Tbl Nat) (s : State) : (State.setMemKey v s).rigs = s.rigs := rfl
@[simp] theorem setMemKey_treads (v : Tbl Nat) (s : State) : (State.setMemKey v s).treads = s.treads := rfl
@[simp] theorem setMemKey_chans (v : Tbl Nat) (s : State) : (State.setMemKey v s).chans = s.chans := rfl
@[simp] theorem setMemKey_knots (v : Tbl Nat) (s : State) : (State.setMemKey v s).knots = s.knots := rfl
@[simp] theorem setMemKey_flights (v : Tbl Nat) (s : State) : (State.setMemKey v s).flights = s.flights := rfl
@[simp] theorem setMemKey_stages (v : Tbl Nat) (s : State) : (State.setMemKey v s).stages = s.stages := rfl
@[simp] theorem setMemKey_ctxs (v : Tbl Nat) (s : State) : (State.setMemKey v s).ctxs = s.ctxs := rfl
@[simp] theorem setMemKey_landings (v : Tbl Nat) (s : State) : (State.setMemKey v s).landings = s.landings := rfl
@[simp] theorem setMemKey_parts (v : Tbl Nat) (s : State) : (State.setMemKey v s).parts = s.parts := rfl
@[simp] theorem setMemKey_reds (v : Tbl Nat) (s : State) : (State.setMemKey v s).reds = s.reds := rfl
@[simp] theorem setMemKey_mem (v : Tbl Nat) (s : State) : (State.setMemKey v s).mem = s.mem := rfl
@[simp] theorem setMemKey_memCheck (v : Tbl Nat) (s : State) : (State.setMemKey v s).memCheck = s.memCheck := rfl
@[simp] theorem setMemKey_memEpoch (v : Tbl Nat) (s : State) : (State.setMemKey v s).memEpoch = s.memEpoch := rfl
@[simp] theorem setMemKey_memKey (v : Tbl Nat) (s : State) : (State.setMemKey v s).memKey = v := rfl
@[simp] theorem setMemKey_ucs (v : Tbl Nat) (s : State) : (State.setMemKey v s).ucs = s.ucs := rfl
@[simp] theorem setMemKey_sparse (v : Tbl Nat) (s : State) : (State.setMemKey v s).sparse = s.sparse := rfl
@[simp] theorem setMemKey_gathers (v : Tbl Nat) (s : State) : (State.setMemKey v s).gathers = s.gathers := rfl
@[simp] theorem setMemKey_ropes (v : Tbl Nat) (s : State) : (State.setMemKey v s).ropes = s.ropes := rfl
@[simp] theorem setMemKey_lasers (v : Tbl Nat) (s : State) : (State.setMemKey v s).lasers = s.lasers := rfl
@[simp] theorem setMemKey_fabric (v : Tbl Nat) (s : State) : (State.setMemKey v s).fabric = s.fabric := rfl
@[simp] theorem setMemKey_bundles (v : Tbl Nat) (s : State) : (State.setMemKey v s).bundles = s.bundles := rfl
@[simp] theorem setMemKey_hces (v : Tbl Nat) (s : State) : (State.setMemKey v s).hces = s.hces := rfl
@[simp] theorem setMemKey_rings (v : Tbl Nat) (s : State) : (State.setMemKey v s).rings = s.rings := rfl
@[simp] theorem setMemKey_pcie (v : Tbl Nat) (s : State) : (State.setMemKey v s).pcie = s.pcie := rfl
@[simp] theorem setMemKey_svcs (v : Tbl Nat) (s : State) : (State.setMemKey v s).svcs = s.svcs := rfl
@[simp] theorem setMemKey_journal (v : Tbl Nat) (s : State) : (State.setMemKey v s).journal = s.journal := rfl
@[simp] theorem setMemKey_sec (v : Tbl Nat) (s : State) : (State.setMemKey v s).sec = s.sec := rfl
@[simp] theorem setMemKey_det (v : Tbl Nat) (s : State) : (State.setMemKey v s).det = s.det := rfl

@[simp] theorem setTreads_regs (v : Tbl Tread) (s : State) : (State.setTreads v s).regs = s.regs := rfl
@[simp] theorem setTreads_pkg (v : Tbl Tread) (s : State) : (State.setTreads v s).pkg = s.pkg := rfl
@[simp] theorem setTreads_time (v : Tbl Tread) (s : State) : (State.setTreads v s).time = s.time := rfl
@[simp] theorem setTreads_timers (v : Tbl Tread) (s : State) : (State.setTreads v s).timers = s.timers := rfl
@[simp] theorem setTreads_seq (v : Tbl Tread) (s : State) : (State.setTreads v s).seq = s.seq := rfl
@[simp] theorem setTreads_free (v : Tbl Tread) (s : State) : (State.setTreads v s).free = s.free := rfl
@[simp] theorem setTreads_pending (v : Tbl Tread) (s : State) : (State.setTreads v s).pending = s.pending := rfl
@[simp] theorem setTreads_out (v : Tbl Tread) (s : State) : (State.setTreads v s).out = s.out := rfl
@[simp] theorem setTreads_hiLatch (v : Tbl Tread) (s : State) : (State.setTreads v s).hiLatch = s.hiLatch := rfl
@[simp] theorem setTreads_commitLatch (v : Tbl Tread) (s : State) : (State.setTreads v s).commitLatch = s.commitLatch := rfl
@[simp] theorem setTreads_pins (v : Tbl Tread) (s : State) : (State.setTreads v s).pins = s.pins := rfl
@[simp] theorem setTreads_fence (v : Tbl Tread) (s : State) : (State.setTreads v s).fence = s.fence := rfl
@[simp] theorem setTreads_power (v : Tbl Tread) (s : State) : (State.setTreads v s).power = s.power := rfl
@[simp] theorem setTreads_rigs (v : Tbl Tread) (s : State) : (State.setTreads v s).rigs = s.rigs := rfl
@[simp] theorem setTreads_treads (v : Tbl Tread) (s : State) : (State.setTreads v s).treads = v := rfl
@[simp] theorem setTreads_chans (v : Tbl Tread) (s : State) : (State.setTreads v s).chans = s.chans := rfl
@[simp] theorem setTreads_knots (v : Tbl Tread) (s : State) : (State.setTreads v s).knots = s.knots := rfl
@[simp] theorem setTreads_flights (v : Tbl Tread) (s : State) : (State.setTreads v s).flights = s.flights := rfl
@[simp] theorem setTreads_stages (v : Tbl Tread) (s : State) : (State.setTreads v s).stages = s.stages := rfl
@[simp] theorem setTreads_ctxs (v : Tbl Tread) (s : State) : (State.setTreads v s).ctxs = s.ctxs := rfl
@[simp] theorem setTreads_landings (v : Tbl Tread) (s : State) : (State.setTreads v s).landings = s.landings := rfl
@[simp] theorem setTreads_parts (v : Tbl Tread) (s : State) : (State.setTreads v s).parts = s.parts := rfl
@[simp] theorem setTreads_reds (v : Tbl Tread) (s : State) : (State.setTreads v s).reds = s.reds := rfl
@[simp] theorem setTreads_mem (v : Tbl Tread) (s : State) : (State.setTreads v s).mem = s.mem := rfl
@[simp] theorem setTreads_memCheck (v : Tbl Tread) (s : State) : (State.setTreads v s).memCheck = s.memCheck := rfl
@[simp] theorem setTreads_memEpoch (v : Tbl Tread) (s : State) : (State.setTreads v s).memEpoch = s.memEpoch := rfl
@[simp] theorem setTreads_memKey (v : Tbl Tread) (s : State) : (State.setTreads v s).memKey = s.memKey := rfl
@[simp] theorem setTreads_ucs (v : Tbl Tread) (s : State) : (State.setTreads v s).ucs = s.ucs := rfl
@[simp] theorem setTreads_sparse (v : Tbl Tread) (s : State) : (State.setTreads v s).sparse = s.sparse := rfl
@[simp] theorem setTreads_gathers (v : Tbl Tread) (s : State) : (State.setTreads v s).gathers = s.gathers := rfl
@[simp] theorem setTreads_ropes (v : Tbl Tread) (s : State) : (State.setTreads v s).ropes = s.ropes := rfl
@[simp] theorem setTreads_lasers (v : Tbl Tread) (s : State) : (State.setTreads v s).lasers = s.lasers := rfl
@[simp] theorem setTreads_fabric (v : Tbl Tread) (s : State) : (State.setTreads v s).fabric = s.fabric := rfl
@[simp] theorem setTreads_bundles (v : Tbl Tread) (s : State) : (State.setTreads v s).bundles = s.bundles := rfl
@[simp] theorem setTreads_hces (v : Tbl Tread) (s : State) : (State.setTreads v s).hces = s.hces := rfl
@[simp] theorem setTreads_rings (v : Tbl Tread) (s : State) : (State.setTreads v s).rings = s.rings := rfl
@[simp] theorem setTreads_pcie (v : Tbl Tread) (s : State) : (State.setTreads v s).pcie = s.pcie := rfl
@[simp] theorem setTreads_svcs (v : Tbl Tread) (s : State) : (State.setTreads v s).svcs = s.svcs := rfl
@[simp] theorem setTreads_journal (v : Tbl Tread) (s : State) : (State.setTreads v s).journal = s.journal := rfl
@[simp] theorem setTreads_sec (v : Tbl Tread) (s : State) : (State.setTreads v s).sec = s.sec := rfl
@[simp] theorem setTreads_det (v : Tbl Tread) (s : State) : (State.setTreads v s).det = s.det := rfl

@[simp] theorem setKnots_regs (v : Tbl Knot) (s : State) : (State.setKnots v s).regs = s.regs := rfl
@[simp] theorem setKnots_pkg (v : Tbl Knot) (s : State) : (State.setKnots v s).pkg = s.pkg := rfl
@[simp] theorem setKnots_time (v : Tbl Knot) (s : State) : (State.setKnots v s).time = s.time := rfl
@[simp] theorem setKnots_timers (v : Tbl Knot) (s : State) : (State.setKnots v s).timers = s.timers := rfl
@[simp] theorem setKnots_seq (v : Tbl Knot) (s : State) : (State.setKnots v s).seq = s.seq := rfl
@[simp] theorem setKnots_free (v : Tbl Knot) (s : State) : (State.setKnots v s).free = s.free := rfl
@[simp] theorem setKnots_pending (v : Tbl Knot) (s : State) : (State.setKnots v s).pending = s.pending := rfl
@[simp] theorem setKnots_out (v : Tbl Knot) (s : State) : (State.setKnots v s).out = s.out := rfl
@[simp] theorem setKnots_hiLatch (v : Tbl Knot) (s : State) : (State.setKnots v s).hiLatch = s.hiLatch := rfl
@[simp] theorem setKnots_commitLatch (v : Tbl Knot) (s : State) : (State.setKnots v s).commitLatch = s.commitLatch := rfl
@[simp] theorem setKnots_pins (v : Tbl Knot) (s : State) : (State.setKnots v s).pins = s.pins := rfl
@[simp] theorem setKnots_fence (v : Tbl Knot) (s : State) : (State.setKnots v s).fence = s.fence := rfl
@[simp] theorem setKnots_power (v : Tbl Knot) (s : State) : (State.setKnots v s).power = s.power := rfl
@[simp] theorem setKnots_rigs (v : Tbl Knot) (s : State) : (State.setKnots v s).rigs = s.rigs := rfl
@[simp] theorem setKnots_treads (v : Tbl Knot) (s : State) : (State.setKnots v s).treads = s.treads := rfl
@[simp] theorem setKnots_chans (v : Tbl Knot) (s : State) : (State.setKnots v s).chans = s.chans := rfl
@[simp] theorem setKnots_knots (v : Tbl Knot) (s : State) : (State.setKnots v s).knots = v := rfl
@[simp] theorem setKnots_flights (v : Tbl Knot) (s : State) : (State.setKnots v s).flights = s.flights := rfl
@[simp] theorem setKnots_stages (v : Tbl Knot) (s : State) : (State.setKnots v s).stages = s.stages := rfl
@[simp] theorem setKnots_ctxs (v : Tbl Knot) (s : State) : (State.setKnots v s).ctxs = s.ctxs := rfl
@[simp] theorem setKnots_landings (v : Tbl Knot) (s : State) : (State.setKnots v s).landings = s.landings := rfl
@[simp] theorem setKnots_parts (v : Tbl Knot) (s : State) : (State.setKnots v s).parts = s.parts := rfl
@[simp] theorem setKnots_reds (v : Tbl Knot) (s : State) : (State.setKnots v s).reds = s.reds := rfl
@[simp] theorem setKnots_mem (v : Tbl Knot) (s : State) : (State.setKnots v s).mem = s.mem := rfl
@[simp] theorem setKnots_memCheck (v : Tbl Knot) (s : State) : (State.setKnots v s).memCheck = s.memCheck := rfl
@[simp] theorem setKnots_memEpoch (v : Tbl Knot) (s : State) : (State.setKnots v s).memEpoch = s.memEpoch := rfl
@[simp] theorem setKnots_memKey (v : Tbl Knot) (s : State) : (State.setKnots v s).memKey = s.memKey := rfl
@[simp] theorem setKnots_ucs (v : Tbl Knot) (s : State) : (State.setKnots v s).ucs = s.ucs := rfl
@[simp] theorem setKnots_sparse (v : Tbl Knot) (s : State) : (State.setKnots v s).sparse = s.sparse := rfl
@[simp] theorem setKnots_gathers (v : Tbl Knot) (s : State) : (State.setKnots v s).gathers = s.gathers := rfl
@[simp] theorem setKnots_ropes (v : Tbl Knot) (s : State) : (State.setKnots v s).ropes = s.ropes := rfl
@[simp] theorem setKnots_lasers (v : Tbl Knot) (s : State) : (State.setKnots v s).lasers = s.lasers := rfl
@[simp] theorem setKnots_fabric (v : Tbl Knot) (s : State) : (State.setKnots v s).fabric = s.fabric := rfl
@[simp] theorem setKnots_bundles (v : Tbl Knot) (s : State) : (State.setKnots v s).bundles = s.bundles := rfl
@[simp] theorem setKnots_hces (v : Tbl Knot) (s : State) : (State.setKnots v s).hces = s.hces := rfl
@[simp] theorem setKnots_rings (v : Tbl Knot) (s : State) : (State.setKnots v s).rings = s.rings := rfl
@[simp] theorem setKnots_pcie (v : Tbl Knot) (s : State) : (State.setKnots v s).pcie = s.pcie := rfl
@[simp] theorem setKnots_svcs (v : Tbl Knot) (s : State) : (State.setKnots v s).svcs = s.svcs := rfl
@[simp] theorem setKnots_journal (v : Tbl Knot) (s : State) : (State.setKnots v s).journal = s.journal := rfl
@[simp] theorem setKnots_sec (v : Tbl Knot) (s : State) : (State.setKnots v s).sec = s.sec := rfl
@[simp] theorem setKnots_det (v : Tbl Knot) (s : State) : (State.setKnots v s).det = s.det := rfl

/-! Units by number. -/
@[simp] theorem set_rig_at (f : Fld) (v : Nat) (s : State) (i : Nat) : (State.set f v s).rig i = s.rig i := rfl
@[simp] theorem unset_rig_at (f : Fld) (s : State) (i : Nat) : (State.unset f s).rig i = s.rig i := rfl
@[simp] theorem put_rig_at (o : Out) (s : State) (i : Nat) : (State.put o s).rig i = s.rig i := rfl
@[simp] theorem at_rig_at (now : W64) (s : State) (i : Nat) : (State.at_ now s).rig i = s.rig i := rfl
@[simp] theorem ropeAt_rig_at (k : Nat) (now : W64) (s : State) (i : Nat) : (State.ropeAt k now s).rig i = s.rig i := rfl
@[simp] theorem setTread_rig_at (t : Nat) (v : Tread) (s : State) (i : Nat) : (State.setTread t v s).rig i = s.rig i := rfl
@[simp] theorem setChan_rig_at (k : Nat) (v : ChanData) (s : State) (i : Nat) : (State.setChan k v s).rig i = s.rig i := rfl
@[simp] theorem setKnot_rig_at (k : Nat) (v : Knot) (s : State) (i : Nat) : (State.setKnot k v s).rig i = s.rig i := rfl
@[simp] theorem setFlight_rig_at (gf : Nat) (v : Flight) (s : State) (i : Nat) : (State.setFlight gf v s).rig i = s.rig i := rfl
@[simp] theorem setStage_rig_at (n : Nat) (v : Stage) (s : State) (i : Nat) : (State.setStage n v s).rig i = s.rig i := rfl
@[simp] theorem setCtx_rig_at (n : Nat) (v : Ctx) (s : State) (i : Nat) : (State.setCtx n v s).rig i = s.rig i := rfl
@[simp] theorem setLanding_rig_at (n : Nat) (v : Landing) (s : State) (i : Nat) : (State.setLanding n v s).rig i = s.rig i := rfl
@[simp] theorem setPart_rig_at (p : Nat) (v : Part) (s : State) (i : Nat) : (State.setPart p v s).rig i = s.rig i := rfl
@[simp] theorem setRed_rig_at (n : Nat) (v : Red) (s : State) (i : Nat) : (State.setRed n v s).rig i = s.rig i := rfl
@[simp] theorem setUc_rig_at (u : Nat) (v : Undercroft) (s : State) (i : Nat) : (State.setUc u v s).rig i = s.rig i := rfl
@[simp] theorem setRope_rig_at (k : Nat) (v : Rope) (s : State) (i : Nat) : (State.setRope k v s).rig i = s.rig i := rfl
@[simp] theorem setLaser_rig_at (m : Nat) (v : Laser) (s : State) (i : Nat) : (State.setLaser m v s).rig i = s.rig i := rfl
@[simp] theorem setBundle_rig_at (n : Nat) (v : Bundle) (s : State) (i : Nat) : (State.setBundle n v s).rig i = s.rig i := rfl
@[simp] theorem setHce_rig_at (e : Nat) (v : Hce) (s : State) (i : Nat) : (State.setHce e v s).rig i = s.rig i := rfl
@[simp] theorem setRing_rig_at (f : Nat) (v : EvRing) (s : State) (i : Nat) : (State.setRing f v s).rig i = s.rig i := rfl
@[simp] theorem setSvc_rig_at (p : Nat) (v : Svc) (s : State) (i : Nat) : (State.setSvc p v s).rig i = s.rig i := rfl
@[simp] theorem setPower_rig_at (v : Power) (s : State) (i : Nat) : (State.setPower v s).rig i = s.rig i := rfl
@[simp] theorem setPins_rig_at (v : Pins) (s : State) (i : Nat) : (State.setPins v s).rig i = s.rig i := rfl
@[simp] theorem setMemCheck_rig_at (v : Tbl Nat) (s : State) (i : Nat) : (State.setMemCheck v s).rig i = s.rig i := rfl
@[simp] theorem setMemEpoch_rig_at (v : Tbl Nat) (s : State) (i : Nat) : (State.setMemEpoch v s).rig i = s.rig i := rfl
@[simp] theorem setMemKey_rig_at (v : Tbl Nat) (s : State) (i : Nat) : (State.setMemKey v s).rig i = s.rig i := rfl
@[simp] theorem setTreads_rig_at (v : Tbl Tread) (s : State) (i : Nat) : (State.setTreads v s).rig i = s.rig i := rfl
@[simp] theorem setKnots_rig_at (v : Tbl Knot) (s : State) (i : Nat) : (State.setKnots v s).rig i = s.rig i := rfl
@[simp] theorem setRig_self (i : Nat) (v : Rig) (s : State) : (State.setRig i v s).rig i = v :=
  tget_tset_self _ _ _
theorem setRig_other {i j : Nat} (v : Rig) (s : State) (h : j ≠ i) : (State.setRig i v s).rig j = s.rig j :=
  tget_tset_other _ _ h

@[simp] theorem set_tread_at (f : Fld) (v : Nat) (s : State) (i : Nat) : (State.set f v s).tread i = s.tread i := rfl
@[simp] theorem unset_tread_at (f : Fld) (s : State) (i : Nat) : (State.unset f s).tread i = s.tread i := rfl
@[simp] theorem put_tread_at (o : Out) (s : State) (i : Nat) : (State.put o s).tread i = s.tread i := rfl
@[simp] theorem at_tread_at (now : W64) (s : State) (i : Nat) : (State.at_ now s).tread i = s.tread i := rfl
@[simp] theorem ropeAt_tread_at (k : Nat) (now : W64) (s : State) (i : Nat) : (State.ropeAt k now s).tread i = s.tread i := rfl
@[simp] theorem setRig_tread_at (p : Nat) (v : Rig) (s : State) (i : Nat) : (State.setRig p v s).tread i = s.tread i := rfl
@[simp] theorem setChan_tread_at (k : Nat) (v : ChanData) (s : State) (i : Nat) : (State.setChan k v s).tread i = s.tread i := rfl
@[simp] theorem setKnot_tread_at (k : Nat) (v : Knot) (s : State) (i : Nat) : (State.setKnot k v s).tread i = s.tread i := rfl
@[simp] theorem setFlight_tread_at (gf : Nat) (v : Flight) (s : State) (i : Nat) : (State.setFlight gf v s).tread i = s.tread i := rfl
@[simp] theorem setStage_tread_at (n : Nat) (v : Stage) (s : State) (i : Nat) : (State.setStage n v s).tread i = s.tread i := rfl
@[simp] theorem setCtx_tread_at (n : Nat) (v : Ctx) (s : State) (i : Nat) : (State.setCtx n v s).tread i = s.tread i := rfl
@[simp] theorem setLanding_tread_at (n : Nat) (v : Landing) (s : State) (i : Nat) : (State.setLanding n v s).tread i = s.tread i := rfl
@[simp] theorem setPart_tread_at (p : Nat) (v : Part) (s : State) (i : Nat) : (State.setPart p v s).tread i = s.tread i := rfl
@[simp] theorem setRed_tread_at (n : Nat) (v : Red) (s : State) (i : Nat) : (State.setRed n v s).tread i = s.tread i := rfl
@[simp] theorem setUc_tread_at (u : Nat) (v : Undercroft) (s : State) (i : Nat) : (State.setUc u v s).tread i = s.tread i := rfl
@[simp] theorem setRope_tread_at (k : Nat) (v : Rope) (s : State) (i : Nat) : (State.setRope k v s).tread i = s.tread i := rfl
@[simp] theorem setLaser_tread_at (m : Nat) (v : Laser) (s : State) (i : Nat) : (State.setLaser m v s).tread i = s.tread i := rfl
@[simp] theorem setBundle_tread_at (n : Nat) (v : Bundle) (s : State) (i : Nat) : (State.setBundle n v s).tread i = s.tread i := rfl
@[simp] theorem setHce_tread_at (e : Nat) (v : Hce) (s : State) (i : Nat) : (State.setHce e v s).tread i = s.tread i := rfl
@[simp] theorem setRing_tread_at (f : Nat) (v : EvRing) (s : State) (i : Nat) : (State.setRing f v s).tread i = s.tread i := rfl
@[simp] theorem setSvc_tread_at (p : Nat) (v : Svc) (s : State) (i : Nat) : (State.setSvc p v s).tread i = s.tread i := rfl
@[simp] theorem setPower_tread_at (v : Power) (s : State) (i : Nat) : (State.setPower v s).tread i = s.tread i := rfl
@[simp] theorem setPins_tread_at (v : Pins) (s : State) (i : Nat) : (State.setPins v s).tread i = s.tread i := rfl
@[simp] theorem setMemCheck_tread_at (v : Tbl Nat) (s : State) (i : Nat) : (State.setMemCheck v s).tread i = s.tread i := rfl
@[simp] theorem setMemEpoch_tread_at (v : Tbl Nat) (s : State) (i : Nat) : (State.setMemEpoch v s).tread i = s.tread i := rfl
@[simp] theorem setMemKey_tread_at (v : Tbl Nat) (s : State) (i : Nat) : (State.setMemKey v s).tread i = s.tread i := rfl
@[simp] theorem setKnots_tread_at (v : Tbl Knot) (s : State) (i : Nat) : (State.setKnots v s).tread i = s.tread i := rfl
@[simp] theorem setTread_self (i : Nat) (v : Tread) (s : State) : (State.setTread i v s).tread i = v :=
  tget_tset_self _ _ _
theorem setTread_other {i j : Nat} (v : Tread) (s : State) (h : j ≠ i) : (State.setTread i v s).tread j = s.tread j :=
  tget_tset_other _ _ h

@[simp] theorem set_chan_at (f : Fld) (v : Nat) (s : State) (i : Nat) : (State.set f v s).chan i = s.chan i := rfl
@[simp] theorem unset_chan_at (f : Fld) (s : State) (i : Nat) : (State.unset f s).chan i = s.chan i := rfl
@[simp] theorem put_chan_at (o : Out) (s : State) (i : Nat) : (State.put o s).chan i = s.chan i := rfl
@[simp] theorem at_chan_at (now : W64) (s : State) (i : Nat) : (State.at_ now s).chan i = s.chan i := rfl
@[simp] theorem ropeAt_chan_at (k : Nat) (now : W64) (s : State) (i : Nat) : (State.ropeAt k now s).chan i = s.chan i := rfl
@[simp] theorem setRig_chan_at (p : Nat) (v : Rig) (s : State) (i : Nat) : (State.setRig p v s).chan i = s.chan i := rfl
@[simp] theorem setTread_chan_at (t : Nat) (v : Tread) (s : State) (i : Nat) : (State.setTread t v s).chan i = s.chan i := rfl
@[simp] theorem setKnot_chan_at (k : Nat) (v : Knot) (s : State) (i : Nat) : (State.setKnot k v s).chan i = s.chan i := rfl
@[simp] theorem setFlight_chan_at (gf : Nat) (v : Flight) (s : State) (i : Nat) : (State.setFlight gf v s).chan i = s.chan i := rfl
@[simp] theorem setStage_chan_at (n : Nat) (v : Stage) (s : State) (i : Nat) : (State.setStage n v s).chan i = s.chan i := rfl
@[simp] theorem setCtx_chan_at (n : Nat) (v : Ctx) (s : State) (i : Nat) : (State.setCtx n v s).chan i = s.chan i := rfl
@[simp] theorem setLanding_chan_at (n : Nat) (v : Landing) (s : State) (i : Nat) : (State.setLanding n v s).chan i = s.chan i := rfl
@[simp] theorem setPart_chan_at (p : Nat) (v : Part) (s : State) (i : Nat) : (State.setPart p v s).chan i = s.chan i := rfl
@[simp] theorem setRed_chan_at (n : Nat) (v : Red) (s : State) (i : Nat) : (State.setRed n v s).chan i = s.chan i := rfl
@[simp] theorem setUc_chan_at (u : Nat) (v : Undercroft) (s : State) (i : Nat) : (State.setUc u v s).chan i = s.chan i := rfl
@[simp] theorem setRope_chan_at (k : Nat) (v : Rope) (s : State) (i : Nat) : (State.setRope k v s).chan i = s.chan i := rfl
@[simp] theorem setLaser_chan_at (m : Nat) (v : Laser) (s : State) (i : Nat) : (State.setLaser m v s).chan i = s.chan i := rfl
@[simp] theorem setBundle_chan_at (n : Nat) (v : Bundle) (s : State) (i : Nat) : (State.setBundle n v s).chan i = s.chan i := rfl
@[simp] theorem setHce_chan_at (e : Nat) (v : Hce) (s : State) (i : Nat) : (State.setHce e v s).chan i = s.chan i := rfl
@[simp] theorem setRing_chan_at (f : Nat) (v : EvRing) (s : State) (i : Nat) : (State.setRing f v s).chan i = s.chan i := rfl
@[simp] theorem setSvc_chan_at (p : Nat) (v : Svc) (s : State) (i : Nat) : (State.setSvc p v s).chan i = s.chan i := rfl
@[simp] theorem setPower_chan_at (v : Power) (s : State) (i : Nat) : (State.setPower v s).chan i = s.chan i := rfl
@[simp] theorem setPins_chan_at (v : Pins) (s : State) (i : Nat) : (State.setPins v s).chan i = s.chan i := rfl
@[simp] theorem setMemCheck_chan_at (v : Tbl Nat) (s : State) (i : Nat) : (State.setMemCheck v s).chan i = s.chan i := rfl
@[simp] theorem setMemEpoch_chan_at (v : Tbl Nat) (s : State) (i : Nat) : (State.setMemEpoch v s).chan i = s.chan i := rfl
@[simp] theorem setMemKey_chan_at (v : Tbl Nat) (s : State) (i : Nat) : (State.setMemKey v s).chan i = s.chan i := rfl
@[simp] theorem setTreads_chan_at (v : Tbl Tread) (s : State) (i : Nat) : (State.setTreads v s).chan i = s.chan i := rfl
@[simp] theorem setKnots_chan_at (v : Tbl Knot) (s : State) (i : Nat) : (State.setKnots v s).chan i = s.chan i := rfl
@[simp] theorem setChan_self (i : Nat) (v : ChanData) (s : State) : (State.setChan i v s).chan i = v :=
  tget_tset_self _ _ _
theorem setChan_other {i j : Nat} (v : ChanData) (s : State) (h : j ≠ i) : (State.setChan i v s).chan j = s.chan j :=
  tget_tset_other _ _ h

@[simp] theorem set_knot_at (f : Fld) (v : Nat) (s : State) (i : Nat) : (State.set f v s).knot i = s.knot i := rfl
@[simp] theorem unset_knot_at (f : Fld) (s : State) (i : Nat) : (State.unset f s).knot i = s.knot i := rfl
@[simp] theorem put_knot_at (o : Out) (s : State) (i : Nat) : (State.put o s).knot i = s.knot i := rfl
@[simp] theorem at_knot_at (now : W64) (s : State) (i : Nat) : (State.at_ now s).knot i = s.knot i := rfl
@[simp] theorem ropeAt_knot_at (k : Nat) (now : W64) (s : State) (i : Nat) : (State.ropeAt k now s).knot i = s.knot i := rfl
@[simp] theorem setRig_knot_at (p : Nat) (v : Rig) (s : State) (i : Nat) : (State.setRig p v s).knot i = s.knot i := rfl
@[simp] theorem setTread_knot_at (t : Nat) (v : Tread) (s : State) (i : Nat) : (State.setTread t v s).knot i = s.knot i := rfl
@[simp] theorem setChan_knot_at (k : Nat) (v : ChanData) (s : State) (i : Nat) : (State.setChan k v s).knot i = s.knot i := rfl
@[simp] theorem setFlight_knot_at (gf : Nat) (v : Flight) (s : State) (i : Nat) : (State.setFlight gf v s).knot i = s.knot i := rfl
@[simp] theorem setStage_knot_at (n : Nat) (v : Stage) (s : State) (i : Nat) : (State.setStage n v s).knot i = s.knot i := rfl
@[simp] theorem setCtx_knot_at (n : Nat) (v : Ctx) (s : State) (i : Nat) : (State.setCtx n v s).knot i = s.knot i := rfl
@[simp] theorem setLanding_knot_at (n : Nat) (v : Landing) (s : State) (i : Nat) : (State.setLanding n v s).knot i = s.knot i := rfl
@[simp] theorem setPart_knot_at (p : Nat) (v : Part) (s : State) (i : Nat) : (State.setPart p v s).knot i = s.knot i := rfl
@[simp] theorem setRed_knot_at (n : Nat) (v : Red) (s : State) (i : Nat) : (State.setRed n v s).knot i = s.knot i := rfl
@[simp] theorem setUc_knot_at (u : Nat) (v : Undercroft) (s : State) (i : Nat) : (State.setUc u v s).knot i = s.knot i := rfl
@[simp] theorem setRope_knot_at (k : Nat) (v : Rope) (s : State) (i : Nat) : (State.setRope k v s).knot i = s.knot i := rfl
@[simp] theorem setLaser_knot_at (m : Nat) (v : Laser) (s : State) (i : Nat) : (State.setLaser m v s).knot i = s.knot i := rfl
@[simp] theorem setBundle_knot_at (n : Nat) (v : Bundle) (s : State) (i : Nat) : (State.setBundle n v s).knot i = s.knot i := rfl
@[simp] theorem setHce_knot_at (e : Nat) (v : Hce) (s : State) (i : Nat) : (State.setHce e v s).knot i = s.knot i := rfl
@[simp] theorem setRing_knot_at (f : Nat) (v : EvRing) (s : State) (i : Nat) : (State.setRing f v s).knot i = s.knot i := rfl
@[simp] theorem setSvc_knot_at (p : Nat) (v : Svc) (s : State) (i : Nat) : (State.setSvc p v s).knot i = s.knot i := rfl
@[simp] theorem setPower_knot_at (v : Power) (s : State) (i : Nat) : (State.setPower v s).knot i = s.knot i := rfl
@[simp] theorem setPins_knot_at (v : Pins) (s : State) (i : Nat) : (State.setPins v s).knot i = s.knot i := rfl
@[simp] theorem setMemCheck_knot_at (v : Tbl Nat) (s : State) (i : Nat) : (State.setMemCheck v s).knot i = s.knot i := rfl
@[simp] theorem setMemEpoch_knot_at (v : Tbl Nat) (s : State) (i : Nat) : (State.setMemEpoch v s).knot i = s.knot i := rfl
@[simp] theorem setMemKey_knot_at (v : Tbl Nat) (s : State) (i : Nat) : (State.setMemKey v s).knot i = s.knot i := rfl
@[simp] theorem setTreads_knot_at (v : Tbl Tread) (s : State) (i : Nat) : (State.setTreads v s).knot i = s.knot i := rfl
@[simp] theorem setKnot_self (i : Nat) (v : Knot) (s : State) : (State.setKnot i v s).knot i = v :=
  tget_tset_self _ _ _
theorem setKnot_other {i j : Nat} (v : Knot) (s : State) (h : j ≠ i) : (State.setKnot i v s).knot j = s.knot j :=
  tget_tset_other _ _ h

@[simp] theorem set_flight_at (f : Fld) (v : Nat) (s : State) (i : Nat) : (State.set f v s).flight i = s.flight i := rfl
@[simp] theorem unset_flight_at (f : Fld) (s : State) (i : Nat) : (State.unset f s).flight i = s.flight i := rfl
@[simp] theorem put_flight_at (o : Out) (s : State) (i : Nat) : (State.put o s).flight i = s.flight i := rfl
@[simp] theorem at_flight_at (now : W64) (s : State) (i : Nat) : (State.at_ now s).flight i = s.flight i := rfl
@[simp] theorem ropeAt_flight_at (k : Nat) (now : W64) (s : State) (i : Nat) : (State.ropeAt k now s).flight i = s.flight i := rfl
@[simp] theorem setRig_flight_at (p : Nat) (v : Rig) (s : State) (i : Nat) : (State.setRig p v s).flight i = s.flight i := rfl
@[simp] theorem setTread_flight_at (t : Nat) (v : Tread) (s : State) (i : Nat) : (State.setTread t v s).flight i = s.flight i := rfl
@[simp] theorem setChan_flight_at (k : Nat) (v : ChanData) (s : State) (i : Nat) : (State.setChan k v s).flight i = s.flight i := rfl
@[simp] theorem setKnot_flight_at (k : Nat) (v : Knot) (s : State) (i : Nat) : (State.setKnot k v s).flight i = s.flight i := rfl
@[simp] theorem setStage_flight_at (n : Nat) (v : Stage) (s : State) (i : Nat) : (State.setStage n v s).flight i = s.flight i := rfl
@[simp] theorem setCtx_flight_at (n : Nat) (v : Ctx) (s : State) (i : Nat) : (State.setCtx n v s).flight i = s.flight i := rfl
@[simp] theorem setLanding_flight_at (n : Nat) (v : Landing) (s : State) (i : Nat) : (State.setLanding n v s).flight i = s.flight i := rfl
@[simp] theorem setPart_flight_at (p : Nat) (v : Part) (s : State) (i : Nat) : (State.setPart p v s).flight i = s.flight i := rfl
@[simp] theorem setRed_flight_at (n : Nat) (v : Red) (s : State) (i : Nat) : (State.setRed n v s).flight i = s.flight i := rfl
@[simp] theorem setUc_flight_at (u : Nat) (v : Undercroft) (s : State) (i : Nat) : (State.setUc u v s).flight i = s.flight i := rfl
@[simp] theorem setRope_flight_at (k : Nat) (v : Rope) (s : State) (i : Nat) : (State.setRope k v s).flight i = s.flight i := rfl
@[simp] theorem setLaser_flight_at (m : Nat) (v : Laser) (s : State) (i : Nat) : (State.setLaser m v s).flight i = s.flight i := rfl
@[simp] theorem setBundle_flight_at (n : Nat) (v : Bundle) (s : State) (i : Nat) : (State.setBundle n v s).flight i = s.flight i := rfl
@[simp] theorem setHce_flight_at (e : Nat) (v : Hce) (s : State) (i : Nat) : (State.setHce e v s).flight i = s.flight i := rfl
@[simp] theorem setRing_flight_at (f : Nat) (v : EvRing) (s : State) (i : Nat) : (State.setRing f v s).flight i = s.flight i := rfl
@[simp] theorem setSvc_flight_at (p : Nat) (v : Svc) (s : State) (i : Nat) : (State.setSvc p v s).flight i = s.flight i := rfl
@[simp] theorem setPower_flight_at (v : Power) (s : State) (i : Nat) : (State.setPower v s).flight i = s.flight i := rfl
@[simp] theorem setPins_flight_at (v : Pins) (s : State) (i : Nat) : (State.setPins v s).flight i = s.flight i := rfl
@[simp] theorem setMemCheck_flight_at (v : Tbl Nat) (s : State) (i : Nat) : (State.setMemCheck v s).flight i = s.flight i := rfl
@[simp] theorem setMemEpoch_flight_at (v : Tbl Nat) (s : State) (i : Nat) : (State.setMemEpoch v s).flight i = s.flight i := rfl
@[simp] theorem setMemKey_flight_at (v : Tbl Nat) (s : State) (i : Nat) : (State.setMemKey v s).flight i = s.flight i := rfl
@[simp] theorem setTreads_flight_at (v : Tbl Tread) (s : State) (i : Nat) : (State.setTreads v s).flight i = s.flight i := rfl
@[simp] theorem setKnots_flight_at (v : Tbl Knot) (s : State) (i : Nat) : (State.setKnots v s).flight i = s.flight i := rfl
@[simp] theorem setFlight_self (i : Nat) (v : Flight) (s : State) : (State.setFlight i v s).flight i = v :=
  tget_tset_self _ _ _
theorem setFlight_other {i j : Nat} (v : Flight) (s : State) (h : j ≠ i) : (State.setFlight i v s).flight j = s.flight j :=
  tget_tset_other _ _ h

@[simp] theorem set_stage_at (f : Fld) (v : Nat) (s : State) (i : Nat) : (State.set f v s).stage i = s.stage i := rfl
@[simp] theorem unset_stage_at (f : Fld) (s : State) (i : Nat) : (State.unset f s).stage i = s.stage i := rfl
@[simp] theorem put_stage_at (o : Out) (s : State) (i : Nat) : (State.put o s).stage i = s.stage i := rfl
@[simp] theorem at_stage_at (now : W64) (s : State) (i : Nat) : (State.at_ now s).stage i = s.stage i := rfl
@[simp] theorem ropeAt_stage_at (k : Nat) (now : W64) (s : State) (i : Nat) : (State.ropeAt k now s).stage i = s.stage i := rfl
@[simp] theorem setRig_stage_at (p : Nat) (v : Rig) (s : State) (i : Nat) : (State.setRig p v s).stage i = s.stage i := rfl
@[simp] theorem setTread_stage_at (t : Nat) (v : Tread) (s : State) (i : Nat) : (State.setTread t v s).stage i = s.stage i := rfl
@[simp] theorem setChan_stage_at (k : Nat) (v : ChanData) (s : State) (i : Nat) : (State.setChan k v s).stage i = s.stage i := rfl
@[simp] theorem setKnot_stage_at (k : Nat) (v : Knot) (s : State) (i : Nat) : (State.setKnot k v s).stage i = s.stage i := rfl
@[simp] theorem setFlight_stage_at (gf : Nat) (v : Flight) (s : State) (i : Nat) : (State.setFlight gf v s).stage i = s.stage i := rfl
@[simp] theorem setCtx_stage_at (n : Nat) (v : Ctx) (s : State) (i : Nat) : (State.setCtx n v s).stage i = s.stage i := rfl
@[simp] theorem setLanding_stage_at (n : Nat) (v : Landing) (s : State) (i : Nat) : (State.setLanding n v s).stage i = s.stage i := rfl
@[simp] theorem setPart_stage_at (p : Nat) (v : Part) (s : State) (i : Nat) : (State.setPart p v s).stage i = s.stage i := rfl
@[simp] theorem setRed_stage_at (n : Nat) (v : Red) (s : State) (i : Nat) : (State.setRed n v s).stage i = s.stage i := rfl
@[simp] theorem setUc_stage_at (u : Nat) (v : Undercroft) (s : State) (i : Nat) : (State.setUc u v s).stage i = s.stage i := rfl
@[simp] theorem setRope_stage_at (k : Nat) (v : Rope) (s : State) (i : Nat) : (State.setRope k v s).stage i = s.stage i := rfl
@[simp] theorem setLaser_stage_at (m : Nat) (v : Laser) (s : State) (i : Nat) : (State.setLaser m v s).stage i = s.stage i := rfl
@[simp] theorem setBundle_stage_at (n : Nat) (v : Bundle) (s : State) (i : Nat) : (State.setBundle n v s).stage i = s.stage i := rfl
@[simp] theorem setHce_stage_at (e : Nat) (v : Hce) (s : State) (i : Nat) : (State.setHce e v s).stage i = s.stage i := rfl
@[simp] theorem setRing_stage_at (f : Nat) (v : EvRing) (s : State) (i : Nat) : (State.setRing f v s).stage i = s.stage i := rfl
@[simp] theorem setSvc_stage_at (p : Nat) (v : Svc) (s : State) (i : Nat) : (State.setSvc p v s).stage i = s.stage i := rfl
@[simp] theorem setPower_stage_at (v : Power) (s : State) (i : Nat) : (State.setPower v s).stage i = s.stage i := rfl
@[simp] theorem setPins_stage_at (v : Pins) (s : State) (i : Nat) : (State.setPins v s).stage i = s.stage i := rfl
@[simp] theorem setMemCheck_stage_at (v : Tbl Nat) (s : State) (i : Nat) : (State.setMemCheck v s).stage i = s.stage i := rfl
@[simp] theorem setMemEpoch_stage_at (v : Tbl Nat) (s : State) (i : Nat) : (State.setMemEpoch v s).stage i = s.stage i := rfl
@[simp] theorem setMemKey_stage_at (v : Tbl Nat) (s : State) (i : Nat) : (State.setMemKey v s).stage i = s.stage i := rfl
@[simp] theorem setTreads_stage_at (v : Tbl Tread) (s : State) (i : Nat) : (State.setTreads v s).stage i = s.stage i := rfl
@[simp] theorem setKnots_stage_at (v : Tbl Knot) (s : State) (i : Nat) : (State.setKnots v s).stage i = s.stage i := rfl
@[simp] theorem setStage_self (i : Nat) (v : Stage) (s : State) : (State.setStage i v s).stage i = v :=
  tget_tset_self _ _ _
theorem setStage_other {i j : Nat} (v : Stage) (s : State) (h : j ≠ i) : (State.setStage i v s).stage j = s.stage j :=
  tget_tset_other _ _ h

@[simp] theorem set_ctx_at (f : Fld) (v : Nat) (s : State) (i : Nat) : (State.set f v s).ctx i = s.ctx i := rfl
@[simp] theorem unset_ctx_at (f : Fld) (s : State) (i : Nat) : (State.unset f s).ctx i = s.ctx i := rfl
@[simp] theorem put_ctx_at (o : Out) (s : State) (i : Nat) : (State.put o s).ctx i = s.ctx i := rfl
@[simp] theorem at_ctx_at (now : W64) (s : State) (i : Nat) : (State.at_ now s).ctx i = s.ctx i := rfl
@[simp] theorem ropeAt_ctx_at (k : Nat) (now : W64) (s : State) (i : Nat) : (State.ropeAt k now s).ctx i = s.ctx i := rfl
@[simp] theorem setRig_ctx_at (p : Nat) (v : Rig) (s : State) (i : Nat) : (State.setRig p v s).ctx i = s.ctx i := rfl
@[simp] theorem setTread_ctx_at (t : Nat) (v : Tread) (s : State) (i : Nat) : (State.setTread t v s).ctx i = s.ctx i := rfl
@[simp] theorem setChan_ctx_at (k : Nat) (v : ChanData) (s : State) (i : Nat) : (State.setChan k v s).ctx i = s.ctx i := rfl
@[simp] theorem setKnot_ctx_at (k : Nat) (v : Knot) (s : State) (i : Nat) : (State.setKnot k v s).ctx i = s.ctx i := rfl
@[simp] theorem setFlight_ctx_at (gf : Nat) (v : Flight) (s : State) (i : Nat) : (State.setFlight gf v s).ctx i = s.ctx i := rfl
@[simp] theorem setStage_ctx_at (n : Nat) (v : Stage) (s : State) (i : Nat) : (State.setStage n v s).ctx i = s.ctx i := rfl
@[simp] theorem setLanding_ctx_at (n : Nat) (v : Landing) (s : State) (i : Nat) : (State.setLanding n v s).ctx i = s.ctx i := rfl
@[simp] theorem setPart_ctx_at (p : Nat) (v : Part) (s : State) (i : Nat) : (State.setPart p v s).ctx i = s.ctx i := rfl
@[simp] theorem setRed_ctx_at (n : Nat) (v : Red) (s : State) (i : Nat) : (State.setRed n v s).ctx i = s.ctx i := rfl
@[simp] theorem setUc_ctx_at (u : Nat) (v : Undercroft) (s : State) (i : Nat) : (State.setUc u v s).ctx i = s.ctx i := rfl
@[simp] theorem setRope_ctx_at (k : Nat) (v : Rope) (s : State) (i : Nat) : (State.setRope k v s).ctx i = s.ctx i := rfl
@[simp] theorem setLaser_ctx_at (m : Nat) (v : Laser) (s : State) (i : Nat) : (State.setLaser m v s).ctx i = s.ctx i := rfl
@[simp] theorem setBundle_ctx_at (n : Nat) (v : Bundle) (s : State) (i : Nat) : (State.setBundle n v s).ctx i = s.ctx i := rfl
@[simp] theorem setHce_ctx_at (e : Nat) (v : Hce) (s : State) (i : Nat) : (State.setHce e v s).ctx i = s.ctx i := rfl
@[simp] theorem setRing_ctx_at (f : Nat) (v : EvRing) (s : State) (i : Nat) : (State.setRing f v s).ctx i = s.ctx i := rfl
@[simp] theorem setSvc_ctx_at (p : Nat) (v : Svc) (s : State) (i : Nat) : (State.setSvc p v s).ctx i = s.ctx i := rfl
@[simp] theorem setPower_ctx_at (v : Power) (s : State) (i : Nat) : (State.setPower v s).ctx i = s.ctx i := rfl
@[simp] theorem setPins_ctx_at (v : Pins) (s : State) (i : Nat) : (State.setPins v s).ctx i = s.ctx i := rfl
@[simp] theorem setMemCheck_ctx_at (v : Tbl Nat) (s : State) (i : Nat) : (State.setMemCheck v s).ctx i = s.ctx i := rfl
@[simp] theorem setMemEpoch_ctx_at (v : Tbl Nat) (s : State) (i : Nat) : (State.setMemEpoch v s).ctx i = s.ctx i := rfl
@[simp] theorem setMemKey_ctx_at (v : Tbl Nat) (s : State) (i : Nat) : (State.setMemKey v s).ctx i = s.ctx i := rfl
@[simp] theorem setTreads_ctx_at (v : Tbl Tread) (s : State) (i : Nat) : (State.setTreads v s).ctx i = s.ctx i := rfl
@[simp] theorem setKnots_ctx_at (v : Tbl Knot) (s : State) (i : Nat) : (State.setKnots v s).ctx i = s.ctx i := rfl
@[simp] theorem setCtx_self (i : Nat) (v : Ctx) (s : State) : (State.setCtx i v s).ctx i = v :=
  tget_tset_self _ _ _
theorem setCtx_other {i j : Nat} (v : Ctx) (s : State) (h : j ≠ i) : (State.setCtx i v s).ctx j = s.ctx j :=
  tget_tset_other _ _ h

@[simp] theorem set_landing_at (f : Fld) (v : Nat) (s : State) (i : Nat) : (State.set f v s).landing i = s.landing i := rfl
@[simp] theorem unset_landing_at (f : Fld) (s : State) (i : Nat) : (State.unset f s).landing i = s.landing i := rfl
@[simp] theorem put_landing_at (o : Out) (s : State) (i : Nat) : (State.put o s).landing i = s.landing i := rfl
@[simp] theorem at_landing_at (now : W64) (s : State) (i : Nat) : (State.at_ now s).landing i = s.landing i := rfl
@[simp] theorem ropeAt_landing_at (k : Nat) (now : W64) (s : State) (i : Nat) : (State.ropeAt k now s).landing i = s.landing i := rfl
@[simp] theorem setRig_landing_at (p : Nat) (v : Rig) (s : State) (i : Nat) : (State.setRig p v s).landing i = s.landing i := rfl
@[simp] theorem setTread_landing_at (t : Nat) (v : Tread) (s : State) (i : Nat) : (State.setTread t v s).landing i = s.landing i := rfl
@[simp] theorem setChan_landing_at (k : Nat) (v : ChanData) (s : State) (i : Nat) : (State.setChan k v s).landing i = s.landing i := rfl
@[simp] theorem setKnot_landing_at (k : Nat) (v : Knot) (s : State) (i : Nat) : (State.setKnot k v s).landing i = s.landing i := rfl
@[simp] theorem setFlight_landing_at (gf : Nat) (v : Flight) (s : State) (i : Nat) : (State.setFlight gf v s).landing i = s.landing i := rfl
@[simp] theorem setStage_landing_at (n : Nat) (v : Stage) (s : State) (i : Nat) : (State.setStage n v s).landing i = s.landing i := rfl
@[simp] theorem setCtx_landing_at (n : Nat) (v : Ctx) (s : State) (i : Nat) : (State.setCtx n v s).landing i = s.landing i := rfl
@[simp] theorem setPart_landing_at (p : Nat) (v : Part) (s : State) (i : Nat) : (State.setPart p v s).landing i = s.landing i := rfl
@[simp] theorem setRed_landing_at (n : Nat) (v : Red) (s : State) (i : Nat) : (State.setRed n v s).landing i = s.landing i := rfl
@[simp] theorem setUc_landing_at (u : Nat) (v : Undercroft) (s : State) (i : Nat) : (State.setUc u v s).landing i = s.landing i := rfl
@[simp] theorem setRope_landing_at (k : Nat) (v : Rope) (s : State) (i : Nat) : (State.setRope k v s).landing i = s.landing i := rfl
@[simp] theorem setLaser_landing_at (m : Nat) (v : Laser) (s : State) (i : Nat) : (State.setLaser m v s).landing i = s.landing i := rfl
@[simp] theorem setBundle_landing_at (n : Nat) (v : Bundle) (s : State) (i : Nat) : (State.setBundle n v s).landing i = s.landing i := rfl
@[simp] theorem setHce_landing_at (e : Nat) (v : Hce) (s : State) (i : Nat) : (State.setHce e v s).landing i = s.landing i := rfl
@[simp] theorem setRing_landing_at (f : Nat) (v : EvRing) (s : State) (i : Nat) : (State.setRing f v s).landing i = s.landing i := rfl
@[simp] theorem setSvc_landing_at (p : Nat) (v : Svc) (s : State) (i : Nat) : (State.setSvc p v s).landing i = s.landing i := rfl
@[simp] theorem setPower_landing_at (v : Power) (s : State) (i : Nat) : (State.setPower v s).landing i = s.landing i := rfl
@[simp] theorem setPins_landing_at (v : Pins) (s : State) (i : Nat) : (State.setPins v s).landing i = s.landing i := rfl
@[simp] theorem setMemCheck_landing_at (v : Tbl Nat) (s : State) (i : Nat) : (State.setMemCheck v s).landing i = s.landing i := rfl
@[simp] theorem setMemEpoch_landing_at (v : Tbl Nat) (s : State) (i : Nat) : (State.setMemEpoch v s).landing i = s.landing i := rfl
@[simp] theorem setMemKey_landing_at (v : Tbl Nat) (s : State) (i : Nat) : (State.setMemKey v s).landing i = s.landing i := rfl
@[simp] theorem setTreads_landing_at (v : Tbl Tread) (s : State) (i : Nat) : (State.setTreads v s).landing i = s.landing i := rfl
@[simp] theorem setKnots_landing_at (v : Tbl Knot) (s : State) (i : Nat) : (State.setKnots v s).landing i = s.landing i := rfl
@[simp] theorem setLanding_self (i : Nat) (v : Landing) (s : State) : (State.setLanding i v s).landing i = v :=
  tget_tset_self _ _ _
theorem setLanding_other {i j : Nat} (v : Landing) (s : State) (h : j ≠ i) : (State.setLanding i v s).landing j = s.landing j :=
  tget_tset_other _ _ h

@[simp] theorem set_part_at (f : Fld) (v : Nat) (s : State) (i : Nat) : (State.set f v s).part i = s.part i := rfl
@[simp] theorem unset_part_at (f : Fld) (s : State) (i : Nat) : (State.unset f s).part i = s.part i := rfl
@[simp] theorem put_part_at (o : Out) (s : State) (i : Nat) : (State.put o s).part i = s.part i := rfl
@[simp] theorem at_part_at (now : W64) (s : State) (i : Nat) : (State.at_ now s).part i = s.part i := rfl
@[simp] theorem ropeAt_part_at (k : Nat) (now : W64) (s : State) (i : Nat) : (State.ropeAt k now s).part i = s.part i := rfl
@[simp] theorem setRig_part_at (p : Nat) (v : Rig) (s : State) (i : Nat) : (State.setRig p v s).part i = s.part i := rfl
@[simp] theorem setTread_part_at (t : Nat) (v : Tread) (s : State) (i : Nat) : (State.setTread t v s).part i = s.part i := rfl
@[simp] theorem setChan_part_at (k : Nat) (v : ChanData) (s : State) (i : Nat) : (State.setChan k v s).part i = s.part i := rfl
@[simp] theorem setKnot_part_at (k : Nat) (v : Knot) (s : State) (i : Nat) : (State.setKnot k v s).part i = s.part i := rfl
@[simp] theorem setFlight_part_at (gf : Nat) (v : Flight) (s : State) (i : Nat) : (State.setFlight gf v s).part i = s.part i := rfl
@[simp] theorem setStage_part_at (n : Nat) (v : Stage) (s : State) (i : Nat) : (State.setStage n v s).part i = s.part i := rfl
@[simp] theorem setCtx_part_at (n : Nat) (v : Ctx) (s : State) (i : Nat) : (State.setCtx n v s).part i = s.part i := rfl
@[simp] theorem setLanding_part_at (n : Nat) (v : Landing) (s : State) (i : Nat) : (State.setLanding n v s).part i = s.part i := rfl
@[simp] theorem setRed_part_at (n : Nat) (v : Red) (s : State) (i : Nat) : (State.setRed n v s).part i = s.part i := rfl
@[simp] theorem setUc_part_at (u : Nat) (v : Undercroft) (s : State) (i : Nat) : (State.setUc u v s).part i = s.part i := rfl
@[simp] theorem setRope_part_at (k : Nat) (v : Rope) (s : State) (i : Nat) : (State.setRope k v s).part i = s.part i := rfl
@[simp] theorem setLaser_part_at (m : Nat) (v : Laser) (s : State) (i : Nat) : (State.setLaser m v s).part i = s.part i := rfl
@[simp] theorem setBundle_part_at (n : Nat) (v : Bundle) (s : State) (i : Nat) : (State.setBundle n v s).part i = s.part i := rfl
@[simp] theorem setHce_part_at (e : Nat) (v : Hce) (s : State) (i : Nat) : (State.setHce e v s).part i = s.part i := rfl
@[simp] theorem setRing_part_at (f : Nat) (v : EvRing) (s : State) (i : Nat) : (State.setRing f v s).part i = s.part i := rfl
@[simp] theorem setSvc_part_at (p : Nat) (v : Svc) (s : State) (i : Nat) : (State.setSvc p v s).part i = s.part i := rfl
@[simp] theorem setPower_part_at (v : Power) (s : State) (i : Nat) : (State.setPower v s).part i = s.part i := rfl
@[simp] theorem setPins_part_at (v : Pins) (s : State) (i : Nat) : (State.setPins v s).part i = s.part i := rfl
@[simp] theorem setMemCheck_part_at (v : Tbl Nat) (s : State) (i : Nat) : (State.setMemCheck v s).part i = s.part i := rfl
@[simp] theorem setMemEpoch_part_at (v : Tbl Nat) (s : State) (i : Nat) : (State.setMemEpoch v s).part i = s.part i := rfl
@[simp] theorem setMemKey_part_at (v : Tbl Nat) (s : State) (i : Nat) : (State.setMemKey v s).part i = s.part i := rfl
@[simp] theorem setTreads_part_at (v : Tbl Tread) (s : State) (i : Nat) : (State.setTreads v s).part i = s.part i := rfl
@[simp] theorem setKnots_part_at (v : Tbl Knot) (s : State) (i : Nat) : (State.setKnots v s).part i = s.part i := rfl
@[simp] theorem setPart_self (i : Nat) (v : Part) (s : State) : (State.setPart i v s).part i = v :=
  tget_tset_self _ _ _
theorem setPart_other {i j : Nat} (v : Part) (s : State) (h : j ≠ i) : (State.setPart i v s).part j = s.part j :=
  tget_tset_other _ _ h

@[simp] theorem set_red_at (f : Fld) (v : Nat) (s : State) (i : Nat) : (State.set f v s).red i = s.red i := rfl
@[simp] theorem unset_red_at (f : Fld) (s : State) (i : Nat) : (State.unset f s).red i = s.red i := rfl
@[simp] theorem put_red_at (o : Out) (s : State) (i : Nat) : (State.put o s).red i = s.red i := rfl
@[simp] theorem at_red_at (now : W64) (s : State) (i : Nat) : (State.at_ now s).red i = s.red i := rfl
@[simp] theorem ropeAt_red_at (k : Nat) (now : W64) (s : State) (i : Nat) : (State.ropeAt k now s).red i = s.red i := rfl
@[simp] theorem setRig_red_at (p : Nat) (v : Rig) (s : State) (i : Nat) : (State.setRig p v s).red i = s.red i := rfl
@[simp] theorem setTread_red_at (t : Nat) (v : Tread) (s : State) (i : Nat) : (State.setTread t v s).red i = s.red i := rfl
@[simp] theorem setChan_red_at (k : Nat) (v : ChanData) (s : State) (i : Nat) : (State.setChan k v s).red i = s.red i := rfl
@[simp] theorem setKnot_red_at (k : Nat) (v : Knot) (s : State) (i : Nat) : (State.setKnot k v s).red i = s.red i := rfl
@[simp] theorem setFlight_red_at (gf : Nat) (v : Flight) (s : State) (i : Nat) : (State.setFlight gf v s).red i = s.red i := rfl
@[simp] theorem setStage_red_at (n : Nat) (v : Stage) (s : State) (i : Nat) : (State.setStage n v s).red i = s.red i := rfl
@[simp] theorem setCtx_red_at (n : Nat) (v : Ctx) (s : State) (i : Nat) : (State.setCtx n v s).red i = s.red i := rfl
@[simp] theorem setLanding_red_at (n : Nat) (v : Landing) (s : State) (i : Nat) : (State.setLanding n v s).red i = s.red i := rfl
@[simp] theorem setPart_red_at (p : Nat) (v : Part) (s : State) (i : Nat) : (State.setPart p v s).red i = s.red i := rfl
@[simp] theorem setUc_red_at (u : Nat) (v : Undercroft) (s : State) (i : Nat) : (State.setUc u v s).red i = s.red i := rfl
@[simp] theorem setRope_red_at (k : Nat) (v : Rope) (s : State) (i : Nat) : (State.setRope k v s).red i = s.red i := rfl
@[simp] theorem setLaser_red_at (m : Nat) (v : Laser) (s : State) (i : Nat) : (State.setLaser m v s).red i = s.red i := rfl
@[simp] theorem setBundle_red_at (n : Nat) (v : Bundle) (s : State) (i : Nat) : (State.setBundle n v s).red i = s.red i := rfl
@[simp] theorem setHce_red_at (e : Nat) (v : Hce) (s : State) (i : Nat) : (State.setHce e v s).red i = s.red i := rfl
@[simp] theorem setRing_red_at (f : Nat) (v : EvRing) (s : State) (i : Nat) : (State.setRing f v s).red i = s.red i := rfl
@[simp] theorem setSvc_red_at (p : Nat) (v : Svc) (s : State) (i : Nat) : (State.setSvc p v s).red i = s.red i := rfl
@[simp] theorem setPower_red_at (v : Power) (s : State) (i : Nat) : (State.setPower v s).red i = s.red i := rfl
@[simp] theorem setPins_red_at (v : Pins) (s : State) (i : Nat) : (State.setPins v s).red i = s.red i := rfl
@[simp] theorem setMemCheck_red_at (v : Tbl Nat) (s : State) (i : Nat) : (State.setMemCheck v s).red i = s.red i := rfl
@[simp] theorem setMemEpoch_red_at (v : Tbl Nat) (s : State) (i : Nat) : (State.setMemEpoch v s).red i = s.red i := rfl
@[simp] theorem setMemKey_red_at (v : Tbl Nat) (s : State) (i : Nat) : (State.setMemKey v s).red i = s.red i := rfl
@[simp] theorem setTreads_red_at (v : Tbl Tread) (s : State) (i : Nat) : (State.setTreads v s).red i = s.red i := rfl
@[simp] theorem setKnots_red_at (v : Tbl Knot) (s : State) (i : Nat) : (State.setKnots v s).red i = s.red i := rfl
@[simp] theorem setRed_self (i : Nat) (v : Red) (s : State) : (State.setRed i v s).red i = v :=
  tget_tset_self _ _ _
theorem setRed_other {i j : Nat} (v : Red) (s : State) (h : j ≠ i) : (State.setRed i v s).red j = s.red j :=
  tget_tset_other _ _ h

@[simp] theorem set_uc_at (f : Fld) (v : Nat) (s : State) (i : Nat) : (State.set f v s).uc i = s.uc i := rfl
@[simp] theorem unset_uc_at (f : Fld) (s : State) (i : Nat) : (State.unset f s).uc i = s.uc i := rfl
@[simp] theorem put_uc_at (o : Out) (s : State) (i : Nat) : (State.put o s).uc i = s.uc i := rfl
@[simp] theorem at_uc_at (now : W64) (s : State) (i : Nat) : (State.at_ now s).uc i = s.uc i := rfl
@[simp] theorem ropeAt_uc_at (k : Nat) (now : W64) (s : State) (i : Nat) : (State.ropeAt k now s).uc i = s.uc i := rfl
@[simp] theorem setRig_uc_at (p : Nat) (v : Rig) (s : State) (i : Nat) : (State.setRig p v s).uc i = s.uc i := rfl
@[simp] theorem setTread_uc_at (t : Nat) (v : Tread) (s : State) (i : Nat) : (State.setTread t v s).uc i = s.uc i := rfl
@[simp] theorem setChan_uc_at (k : Nat) (v : ChanData) (s : State) (i : Nat) : (State.setChan k v s).uc i = s.uc i := rfl
@[simp] theorem setKnot_uc_at (k : Nat) (v : Knot) (s : State) (i : Nat) : (State.setKnot k v s).uc i = s.uc i := rfl
@[simp] theorem setFlight_uc_at (gf : Nat) (v : Flight) (s : State) (i : Nat) : (State.setFlight gf v s).uc i = s.uc i := rfl
@[simp] theorem setStage_uc_at (n : Nat) (v : Stage) (s : State) (i : Nat) : (State.setStage n v s).uc i = s.uc i := rfl
@[simp] theorem setCtx_uc_at (n : Nat) (v : Ctx) (s : State) (i : Nat) : (State.setCtx n v s).uc i = s.uc i := rfl
@[simp] theorem setLanding_uc_at (n : Nat) (v : Landing) (s : State) (i : Nat) : (State.setLanding n v s).uc i = s.uc i := rfl
@[simp] theorem setPart_uc_at (p : Nat) (v : Part) (s : State) (i : Nat) : (State.setPart p v s).uc i = s.uc i := rfl
@[simp] theorem setRed_uc_at (n : Nat) (v : Red) (s : State) (i : Nat) : (State.setRed n v s).uc i = s.uc i := rfl
@[simp] theorem setRope_uc_at (k : Nat) (v : Rope) (s : State) (i : Nat) : (State.setRope k v s).uc i = s.uc i := rfl
@[simp] theorem setLaser_uc_at (m : Nat) (v : Laser) (s : State) (i : Nat) : (State.setLaser m v s).uc i = s.uc i := rfl
@[simp] theorem setBundle_uc_at (n : Nat) (v : Bundle) (s : State) (i : Nat) : (State.setBundle n v s).uc i = s.uc i := rfl
@[simp] theorem setHce_uc_at (e : Nat) (v : Hce) (s : State) (i : Nat) : (State.setHce e v s).uc i = s.uc i := rfl
@[simp] theorem setRing_uc_at (f : Nat) (v : EvRing) (s : State) (i : Nat) : (State.setRing f v s).uc i = s.uc i := rfl
@[simp] theorem setSvc_uc_at (p : Nat) (v : Svc) (s : State) (i : Nat) : (State.setSvc p v s).uc i = s.uc i := rfl
@[simp] theorem setPower_uc_at (v : Power) (s : State) (i : Nat) : (State.setPower v s).uc i = s.uc i := rfl
@[simp] theorem setPins_uc_at (v : Pins) (s : State) (i : Nat) : (State.setPins v s).uc i = s.uc i := rfl
@[simp] theorem setMemCheck_uc_at (v : Tbl Nat) (s : State) (i : Nat) : (State.setMemCheck v s).uc i = s.uc i := rfl
@[simp] theorem setMemEpoch_uc_at (v : Tbl Nat) (s : State) (i : Nat) : (State.setMemEpoch v s).uc i = s.uc i := rfl
@[simp] theorem setMemKey_uc_at (v : Tbl Nat) (s : State) (i : Nat) : (State.setMemKey v s).uc i = s.uc i := rfl
@[simp] theorem setTreads_uc_at (v : Tbl Tread) (s : State) (i : Nat) : (State.setTreads v s).uc i = s.uc i := rfl
@[simp] theorem setKnots_uc_at (v : Tbl Knot) (s : State) (i : Nat) : (State.setKnots v s).uc i = s.uc i := rfl
@[simp] theorem setUc_self (i : Nat) (v : Undercroft) (s : State) : (State.setUc i v s).uc i = v :=
  tget_tset_self _ _ _
theorem setUc_other {i j : Nat} (v : Undercroft) (s : State) (h : j ≠ i) : (State.setUc i v s).uc j = s.uc j :=
  tget_tset_other _ _ h

@[simp] theorem set_rope_at (f : Fld) (v : Nat) (s : State) (i : Nat) : (State.set f v s).rope i = s.rope i := rfl
@[simp] theorem unset_rope_at (f : Fld) (s : State) (i : Nat) : (State.unset f s).rope i = s.rope i := rfl
@[simp] theorem put_rope_at (o : Out) (s : State) (i : Nat) : (State.put o s).rope i = s.rope i := rfl
@[simp] theorem at_rope_at (now : W64) (s : State) (i : Nat) : (State.at_ now s).rope i = s.rope i := rfl
@[simp] theorem ropeAt_rope_at (k : Nat) (now : W64) (s : State) (i : Nat) : (State.ropeAt k now s).rope i = s.rope i := rfl
@[simp] theorem setRig_rope_at (p : Nat) (v : Rig) (s : State) (i : Nat) : (State.setRig p v s).rope i = s.rope i := rfl
@[simp] theorem setTread_rope_at (t : Nat) (v : Tread) (s : State) (i : Nat) : (State.setTread t v s).rope i = s.rope i := rfl
@[simp] theorem setChan_rope_at (k : Nat) (v : ChanData) (s : State) (i : Nat) : (State.setChan k v s).rope i = s.rope i := rfl
@[simp] theorem setKnot_rope_at (k : Nat) (v : Knot) (s : State) (i : Nat) : (State.setKnot k v s).rope i = s.rope i := rfl
@[simp] theorem setFlight_rope_at (gf : Nat) (v : Flight) (s : State) (i : Nat) : (State.setFlight gf v s).rope i = s.rope i := rfl
@[simp] theorem setStage_rope_at (n : Nat) (v : Stage) (s : State) (i : Nat) : (State.setStage n v s).rope i = s.rope i := rfl
@[simp] theorem setCtx_rope_at (n : Nat) (v : Ctx) (s : State) (i : Nat) : (State.setCtx n v s).rope i = s.rope i := rfl
@[simp] theorem setLanding_rope_at (n : Nat) (v : Landing) (s : State) (i : Nat) : (State.setLanding n v s).rope i = s.rope i := rfl
@[simp] theorem setPart_rope_at (p : Nat) (v : Part) (s : State) (i : Nat) : (State.setPart p v s).rope i = s.rope i := rfl
@[simp] theorem setRed_rope_at (n : Nat) (v : Red) (s : State) (i : Nat) : (State.setRed n v s).rope i = s.rope i := rfl
@[simp] theorem setUc_rope_at (u : Nat) (v : Undercroft) (s : State) (i : Nat) : (State.setUc u v s).rope i = s.rope i := rfl
@[simp] theorem setLaser_rope_at (m : Nat) (v : Laser) (s : State) (i : Nat) : (State.setLaser m v s).rope i = s.rope i := rfl
@[simp] theorem setBundle_rope_at (n : Nat) (v : Bundle) (s : State) (i : Nat) : (State.setBundle n v s).rope i = s.rope i := rfl
@[simp] theorem setHce_rope_at (e : Nat) (v : Hce) (s : State) (i : Nat) : (State.setHce e v s).rope i = s.rope i := rfl
@[simp] theorem setRing_rope_at (f : Nat) (v : EvRing) (s : State) (i : Nat) : (State.setRing f v s).rope i = s.rope i := rfl
@[simp] theorem setSvc_rope_at (p : Nat) (v : Svc) (s : State) (i : Nat) : (State.setSvc p v s).rope i = s.rope i := rfl
@[simp] theorem setPower_rope_at (v : Power) (s : State) (i : Nat) : (State.setPower v s).rope i = s.rope i := rfl
@[simp] theorem setPins_rope_at (v : Pins) (s : State) (i : Nat) : (State.setPins v s).rope i = s.rope i := rfl
@[simp] theorem setMemCheck_rope_at (v : Tbl Nat) (s : State) (i : Nat) : (State.setMemCheck v s).rope i = s.rope i := rfl
@[simp] theorem setMemEpoch_rope_at (v : Tbl Nat) (s : State) (i : Nat) : (State.setMemEpoch v s).rope i = s.rope i := rfl
@[simp] theorem setMemKey_rope_at (v : Tbl Nat) (s : State) (i : Nat) : (State.setMemKey v s).rope i = s.rope i := rfl
@[simp] theorem setTreads_rope_at (v : Tbl Tread) (s : State) (i : Nat) : (State.setTreads v s).rope i = s.rope i := rfl
@[simp] theorem setKnots_rope_at (v : Tbl Knot) (s : State) (i : Nat) : (State.setKnots v s).rope i = s.rope i := rfl
@[simp] theorem setRope_self (i : Nat) (v : Rope) (s : State) : (State.setRope i v s).rope i = v :=
  tget_tset_self _ _ _
theorem setRope_other {i j : Nat} (v : Rope) (s : State) (h : j ≠ i) : (State.setRope i v s).rope j = s.rope j :=
  tget_tset_other _ _ h

@[simp] theorem set_laser_at (f : Fld) (v : Nat) (s : State) (i : Nat) : (State.set f v s).laser i = s.laser i := rfl
@[simp] theorem unset_laser_at (f : Fld) (s : State) (i : Nat) : (State.unset f s).laser i = s.laser i := rfl
@[simp] theorem put_laser_at (o : Out) (s : State) (i : Nat) : (State.put o s).laser i = s.laser i := rfl
@[simp] theorem at_laser_at (now : W64) (s : State) (i : Nat) : (State.at_ now s).laser i = s.laser i := rfl
@[simp] theorem ropeAt_laser_at (k : Nat) (now : W64) (s : State) (i : Nat) : (State.ropeAt k now s).laser i = s.laser i := rfl
@[simp] theorem setRig_laser_at (p : Nat) (v : Rig) (s : State) (i : Nat) : (State.setRig p v s).laser i = s.laser i := rfl
@[simp] theorem setTread_laser_at (t : Nat) (v : Tread) (s : State) (i : Nat) : (State.setTread t v s).laser i = s.laser i := rfl
@[simp] theorem setChan_laser_at (k : Nat) (v : ChanData) (s : State) (i : Nat) : (State.setChan k v s).laser i = s.laser i := rfl
@[simp] theorem setKnot_laser_at (k : Nat) (v : Knot) (s : State) (i : Nat) : (State.setKnot k v s).laser i = s.laser i := rfl
@[simp] theorem setFlight_laser_at (gf : Nat) (v : Flight) (s : State) (i : Nat) : (State.setFlight gf v s).laser i = s.laser i := rfl
@[simp] theorem setStage_laser_at (n : Nat) (v : Stage) (s : State) (i : Nat) : (State.setStage n v s).laser i = s.laser i := rfl
@[simp] theorem setCtx_laser_at (n : Nat) (v : Ctx) (s : State) (i : Nat) : (State.setCtx n v s).laser i = s.laser i := rfl
@[simp] theorem setLanding_laser_at (n : Nat) (v : Landing) (s : State) (i : Nat) : (State.setLanding n v s).laser i = s.laser i := rfl
@[simp] theorem setPart_laser_at (p : Nat) (v : Part) (s : State) (i : Nat) : (State.setPart p v s).laser i = s.laser i := rfl
@[simp] theorem setRed_laser_at (n : Nat) (v : Red) (s : State) (i : Nat) : (State.setRed n v s).laser i = s.laser i := rfl
@[simp] theorem setUc_laser_at (u : Nat) (v : Undercroft) (s : State) (i : Nat) : (State.setUc u v s).laser i = s.laser i := rfl
@[simp] theorem setRope_laser_at (k : Nat) (v : Rope) (s : State) (i : Nat) : (State.setRope k v s).laser i = s.laser i := rfl
@[simp] theorem setBundle_laser_at (n : Nat) (v : Bundle) (s : State) (i : Nat) : (State.setBundle n v s).laser i = s.laser i := rfl
@[simp] theorem setHce_laser_at (e : Nat) (v : Hce) (s : State) (i : Nat) : (State.setHce e v s).laser i = s.laser i := rfl
@[simp] theorem setRing_laser_at (f : Nat) (v : EvRing) (s : State) (i : Nat) : (State.setRing f v s).laser i = s.laser i := rfl
@[simp] theorem setSvc_laser_at (p : Nat) (v : Svc) (s : State) (i : Nat) : (State.setSvc p v s).laser i = s.laser i := rfl
@[simp] theorem setPower_laser_at (v : Power) (s : State) (i : Nat) : (State.setPower v s).laser i = s.laser i := rfl
@[simp] theorem setPins_laser_at (v : Pins) (s : State) (i : Nat) : (State.setPins v s).laser i = s.laser i := rfl
@[simp] theorem setMemCheck_laser_at (v : Tbl Nat) (s : State) (i : Nat) : (State.setMemCheck v s).laser i = s.laser i := rfl
@[simp] theorem setMemEpoch_laser_at (v : Tbl Nat) (s : State) (i : Nat) : (State.setMemEpoch v s).laser i = s.laser i := rfl
@[simp] theorem setMemKey_laser_at (v : Tbl Nat) (s : State) (i : Nat) : (State.setMemKey v s).laser i = s.laser i := rfl
@[simp] theorem setTreads_laser_at (v : Tbl Tread) (s : State) (i : Nat) : (State.setTreads v s).laser i = s.laser i := rfl
@[simp] theorem setKnots_laser_at (v : Tbl Knot) (s : State) (i : Nat) : (State.setKnots v s).laser i = s.laser i := rfl
@[simp] theorem setLaser_self (i : Nat) (v : Laser) (s : State) : (State.setLaser i v s).laser i = v :=
  tget_tset_self _ _ _
theorem setLaser_other {i j : Nat} (v : Laser) (s : State) (h : j ≠ i) : (State.setLaser i v s).laser j = s.laser j :=
  tget_tset_other _ _ h

@[simp] theorem set_bundle_at (f : Fld) (v : Nat) (s : State) (i : Nat) : (State.set f v s).bundle i = s.bundle i := rfl
@[simp] theorem unset_bundle_at (f : Fld) (s : State) (i : Nat) : (State.unset f s).bundle i = s.bundle i := rfl
@[simp] theorem put_bundle_at (o : Out) (s : State) (i : Nat) : (State.put o s).bundle i = s.bundle i := rfl
@[simp] theorem at_bundle_at (now : W64) (s : State) (i : Nat) : (State.at_ now s).bundle i = s.bundle i := rfl
@[simp] theorem ropeAt_bundle_at (k : Nat) (now : W64) (s : State) (i : Nat) : (State.ropeAt k now s).bundle i = s.bundle i := rfl
@[simp] theorem setRig_bundle_at (p : Nat) (v : Rig) (s : State) (i : Nat) : (State.setRig p v s).bundle i = s.bundle i := rfl
@[simp] theorem setTread_bundle_at (t : Nat) (v : Tread) (s : State) (i : Nat) : (State.setTread t v s).bundle i = s.bundle i := rfl
@[simp] theorem setChan_bundle_at (k : Nat) (v : ChanData) (s : State) (i : Nat) : (State.setChan k v s).bundle i = s.bundle i := rfl
@[simp] theorem setKnot_bundle_at (k : Nat) (v : Knot) (s : State) (i : Nat) : (State.setKnot k v s).bundle i = s.bundle i := rfl
@[simp] theorem setFlight_bundle_at (gf : Nat) (v : Flight) (s : State) (i : Nat) : (State.setFlight gf v s).bundle i = s.bundle i := rfl
@[simp] theorem setStage_bundle_at (n : Nat) (v : Stage) (s : State) (i : Nat) : (State.setStage n v s).bundle i = s.bundle i := rfl
@[simp] theorem setCtx_bundle_at (n : Nat) (v : Ctx) (s : State) (i : Nat) : (State.setCtx n v s).bundle i = s.bundle i := rfl
@[simp] theorem setLanding_bundle_at (n : Nat) (v : Landing) (s : State) (i : Nat) : (State.setLanding n v s).bundle i = s.bundle i := rfl
@[simp] theorem setPart_bundle_at (p : Nat) (v : Part) (s : State) (i : Nat) : (State.setPart p v s).bundle i = s.bundle i := rfl
@[simp] theorem setRed_bundle_at (n : Nat) (v : Red) (s : State) (i : Nat) : (State.setRed n v s).bundle i = s.bundle i := rfl
@[simp] theorem setUc_bundle_at (u : Nat) (v : Undercroft) (s : State) (i : Nat) : (State.setUc u v s).bundle i = s.bundle i := rfl
@[simp] theorem setRope_bundle_at (k : Nat) (v : Rope) (s : State) (i : Nat) : (State.setRope k v s).bundle i = s.bundle i := rfl
@[simp] theorem setLaser_bundle_at (m : Nat) (v : Laser) (s : State) (i : Nat) : (State.setLaser m v s).bundle i = s.bundle i := rfl
@[simp] theorem setHce_bundle_at (e : Nat) (v : Hce) (s : State) (i : Nat) : (State.setHce e v s).bundle i = s.bundle i := rfl
@[simp] theorem setRing_bundle_at (f : Nat) (v : EvRing) (s : State) (i : Nat) : (State.setRing f v s).bundle i = s.bundle i := rfl
@[simp] theorem setSvc_bundle_at (p : Nat) (v : Svc) (s : State) (i : Nat) : (State.setSvc p v s).bundle i = s.bundle i := rfl
@[simp] theorem setPower_bundle_at (v : Power) (s : State) (i : Nat) : (State.setPower v s).bundle i = s.bundle i := rfl
@[simp] theorem setPins_bundle_at (v : Pins) (s : State) (i : Nat) : (State.setPins v s).bundle i = s.bundle i := rfl
@[simp] theorem setMemCheck_bundle_at (v : Tbl Nat) (s : State) (i : Nat) : (State.setMemCheck v s).bundle i = s.bundle i := rfl
@[simp] theorem setMemEpoch_bundle_at (v : Tbl Nat) (s : State) (i : Nat) : (State.setMemEpoch v s).bundle i = s.bundle i := rfl
@[simp] theorem setMemKey_bundle_at (v : Tbl Nat) (s : State) (i : Nat) : (State.setMemKey v s).bundle i = s.bundle i := rfl
@[simp] theorem setTreads_bundle_at (v : Tbl Tread) (s : State) (i : Nat) : (State.setTreads v s).bundle i = s.bundle i := rfl
@[simp] theorem setKnots_bundle_at (v : Tbl Knot) (s : State) (i : Nat) : (State.setKnots v s).bundle i = s.bundle i := rfl
@[simp] theorem setBundle_self (i : Nat) (v : Bundle) (s : State) : (State.setBundle i v s).bundle i = v :=
  tget_tset_self _ _ _
theorem setBundle_other {i j : Nat} (v : Bundle) (s : State) (h : j ≠ i) : (State.setBundle i v s).bundle j = s.bundle j :=
  tget_tset_other _ _ h

@[simp] theorem set_hce_at (f : Fld) (v : Nat) (s : State) (i : Nat) : (State.set f v s).hce i = s.hce i := rfl
@[simp] theorem unset_hce_at (f : Fld) (s : State) (i : Nat) : (State.unset f s).hce i = s.hce i := rfl
@[simp] theorem put_hce_at (o : Out) (s : State) (i : Nat) : (State.put o s).hce i = s.hce i := rfl
@[simp] theorem at_hce_at (now : W64) (s : State) (i : Nat) : (State.at_ now s).hce i = s.hce i := rfl
@[simp] theorem ropeAt_hce_at (k : Nat) (now : W64) (s : State) (i : Nat) : (State.ropeAt k now s).hce i = s.hce i := rfl
@[simp] theorem setRig_hce_at (p : Nat) (v : Rig) (s : State) (i : Nat) : (State.setRig p v s).hce i = s.hce i := rfl
@[simp] theorem setTread_hce_at (t : Nat) (v : Tread) (s : State) (i : Nat) : (State.setTread t v s).hce i = s.hce i := rfl
@[simp] theorem setChan_hce_at (k : Nat) (v : ChanData) (s : State) (i : Nat) : (State.setChan k v s).hce i = s.hce i := rfl
@[simp] theorem setKnot_hce_at (k : Nat) (v : Knot) (s : State) (i : Nat) : (State.setKnot k v s).hce i = s.hce i := rfl
@[simp] theorem setFlight_hce_at (gf : Nat) (v : Flight) (s : State) (i : Nat) : (State.setFlight gf v s).hce i = s.hce i := rfl
@[simp] theorem setStage_hce_at (n : Nat) (v : Stage) (s : State) (i : Nat) : (State.setStage n v s).hce i = s.hce i := rfl
@[simp] theorem setCtx_hce_at (n : Nat) (v : Ctx) (s : State) (i : Nat) : (State.setCtx n v s).hce i = s.hce i := rfl
@[simp] theorem setLanding_hce_at (n : Nat) (v : Landing) (s : State) (i : Nat) : (State.setLanding n v s).hce i = s.hce i := rfl
@[simp] theorem setPart_hce_at (p : Nat) (v : Part) (s : State) (i : Nat) : (State.setPart p v s).hce i = s.hce i := rfl
@[simp] theorem setRed_hce_at (n : Nat) (v : Red) (s : State) (i : Nat) : (State.setRed n v s).hce i = s.hce i := rfl
@[simp] theorem setUc_hce_at (u : Nat) (v : Undercroft) (s : State) (i : Nat) : (State.setUc u v s).hce i = s.hce i := rfl
@[simp] theorem setRope_hce_at (k : Nat) (v : Rope) (s : State) (i : Nat) : (State.setRope k v s).hce i = s.hce i := rfl
@[simp] theorem setLaser_hce_at (m : Nat) (v : Laser) (s : State) (i : Nat) : (State.setLaser m v s).hce i = s.hce i := rfl
@[simp] theorem setBundle_hce_at (n : Nat) (v : Bundle) (s : State) (i : Nat) : (State.setBundle n v s).hce i = s.hce i := rfl
@[simp] theorem setRing_hce_at (f : Nat) (v : EvRing) (s : State) (i : Nat) : (State.setRing f v s).hce i = s.hce i := rfl
@[simp] theorem setSvc_hce_at (p : Nat) (v : Svc) (s : State) (i : Nat) : (State.setSvc p v s).hce i = s.hce i := rfl
@[simp] theorem setPower_hce_at (v : Power) (s : State) (i : Nat) : (State.setPower v s).hce i = s.hce i := rfl
@[simp] theorem setPins_hce_at (v : Pins) (s : State) (i : Nat) : (State.setPins v s).hce i = s.hce i := rfl
@[simp] theorem setMemCheck_hce_at (v : Tbl Nat) (s : State) (i : Nat) : (State.setMemCheck v s).hce i = s.hce i := rfl
@[simp] theorem setMemEpoch_hce_at (v : Tbl Nat) (s : State) (i : Nat) : (State.setMemEpoch v s).hce i = s.hce i := rfl
@[simp] theorem setMemKey_hce_at (v : Tbl Nat) (s : State) (i : Nat) : (State.setMemKey v s).hce i = s.hce i := rfl
@[simp] theorem setTreads_hce_at (v : Tbl Tread) (s : State) (i : Nat) : (State.setTreads v s).hce i = s.hce i := rfl
@[simp] theorem setKnots_hce_at (v : Tbl Knot) (s : State) (i : Nat) : (State.setKnots v s).hce i = s.hce i := rfl
@[simp] theorem setHce_self (i : Nat) (v : Hce) (s : State) : (State.setHce i v s).hce i = v :=
  tget_tset_self _ _ _
theorem setHce_other {i j : Nat} (v : Hce) (s : State) (h : j ≠ i) : (State.setHce i v s).hce j = s.hce j :=
  tget_tset_other _ _ h

@[simp] theorem set_ring_at (f : Fld) (v : Nat) (s : State) (i : Nat) : (State.set f v s).ring i = s.ring i := rfl
@[simp] theorem unset_ring_at (f : Fld) (s : State) (i : Nat) : (State.unset f s).ring i = s.ring i := rfl
@[simp] theorem put_ring_at (o : Out) (s : State) (i : Nat) : (State.put o s).ring i = s.ring i := rfl
@[simp] theorem at_ring_at (now : W64) (s : State) (i : Nat) : (State.at_ now s).ring i = s.ring i := rfl
@[simp] theorem ropeAt_ring_at (k : Nat) (now : W64) (s : State) (i : Nat) : (State.ropeAt k now s).ring i = s.ring i := rfl
@[simp] theorem setRig_ring_at (p : Nat) (v : Rig) (s : State) (i : Nat) : (State.setRig p v s).ring i = s.ring i := rfl
@[simp] theorem setTread_ring_at (t : Nat) (v : Tread) (s : State) (i : Nat) : (State.setTread t v s).ring i = s.ring i := rfl
@[simp] theorem setChan_ring_at (k : Nat) (v : ChanData) (s : State) (i : Nat) : (State.setChan k v s).ring i = s.ring i := rfl
@[simp] theorem setKnot_ring_at (k : Nat) (v : Knot) (s : State) (i : Nat) : (State.setKnot k v s).ring i = s.ring i := rfl
@[simp] theorem setFlight_ring_at (gf : Nat) (v : Flight) (s : State) (i : Nat) : (State.setFlight gf v s).ring i = s.ring i := rfl
@[simp] theorem setStage_ring_at (n : Nat) (v : Stage) (s : State) (i : Nat) : (State.setStage n v s).ring i = s.ring i := rfl
@[simp] theorem setCtx_ring_at (n : Nat) (v : Ctx) (s : State) (i : Nat) : (State.setCtx n v s).ring i = s.ring i := rfl
@[simp] theorem setLanding_ring_at (n : Nat) (v : Landing) (s : State) (i : Nat) : (State.setLanding n v s).ring i = s.ring i := rfl
@[simp] theorem setPart_ring_at (p : Nat) (v : Part) (s : State) (i : Nat) : (State.setPart p v s).ring i = s.ring i := rfl
@[simp] theorem setRed_ring_at (n : Nat) (v : Red) (s : State) (i : Nat) : (State.setRed n v s).ring i = s.ring i := rfl
@[simp] theorem setUc_ring_at (u : Nat) (v : Undercroft) (s : State) (i : Nat) : (State.setUc u v s).ring i = s.ring i := rfl
@[simp] theorem setRope_ring_at (k : Nat) (v : Rope) (s : State) (i : Nat) : (State.setRope k v s).ring i = s.ring i := rfl
@[simp] theorem setLaser_ring_at (m : Nat) (v : Laser) (s : State) (i : Nat) : (State.setLaser m v s).ring i = s.ring i := rfl
@[simp] theorem setBundle_ring_at (n : Nat) (v : Bundle) (s : State) (i : Nat) : (State.setBundle n v s).ring i = s.ring i := rfl
@[simp] theorem setHce_ring_at (e : Nat) (v : Hce) (s : State) (i : Nat) : (State.setHce e v s).ring i = s.ring i := rfl
@[simp] theorem setSvc_ring_at (p : Nat) (v : Svc) (s : State) (i : Nat) : (State.setSvc p v s).ring i = s.ring i := rfl
@[simp] theorem setPower_ring_at (v : Power) (s : State) (i : Nat) : (State.setPower v s).ring i = s.ring i := rfl
@[simp] theorem setPins_ring_at (v : Pins) (s : State) (i : Nat) : (State.setPins v s).ring i = s.ring i := rfl
@[simp] theorem setMemCheck_ring_at (v : Tbl Nat) (s : State) (i : Nat) : (State.setMemCheck v s).ring i = s.ring i := rfl
@[simp] theorem setMemEpoch_ring_at (v : Tbl Nat) (s : State) (i : Nat) : (State.setMemEpoch v s).ring i = s.ring i := rfl
@[simp] theorem setMemKey_ring_at (v : Tbl Nat) (s : State) (i : Nat) : (State.setMemKey v s).ring i = s.ring i := rfl
@[simp] theorem setTreads_ring_at (v : Tbl Tread) (s : State) (i : Nat) : (State.setTreads v s).ring i = s.ring i := rfl
@[simp] theorem setKnots_ring_at (v : Tbl Knot) (s : State) (i : Nat) : (State.setKnots v s).ring i = s.ring i := rfl
@[simp] theorem setRing_self (i : Nat) (v : EvRing) (s : State) : (State.setRing i v s).ring i = v :=
  tget_tset_self _ _ _
theorem setRing_other {i j : Nat} (v : EvRing) (s : State) (h : j ≠ i) : (State.setRing i v s).ring j = s.ring j :=
  tget_tset_other _ _ h

@[simp] theorem set_svc_at (f : Fld) (v : Nat) (s : State) (i : Nat) : (State.set f v s).svc i = s.svc i := rfl
@[simp] theorem unset_svc_at (f : Fld) (s : State) (i : Nat) : (State.unset f s).svc i = s.svc i := rfl
@[simp] theorem put_svc_at (o : Out) (s : State) (i : Nat) : (State.put o s).svc i = s.svc i := rfl
@[simp] theorem at_svc_at (now : W64) (s : State) (i : Nat) : (State.at_ now s).svc i = s.svc i := rfl
@[simp] theorem ropeAt_svc_at (k : Nat) (now : W64) (s : State) (i : Nat) : (State.ropeAt k now s).svc i = s.svc i := rfl
@[simp] theorem setRig_svc_at (p : Nat) (v : Rig) (s : State) (i : Nat) : (State.setRig p v s).svc i = s.svc i := rfl
@[simp] theorem setTread_svc_at (t : Nat) (v : Tread) (s : State) (i : Nat) : (State.setTread t v s).svc i = s.svc i := rfl
@[simp] theorem setChan_svc_at (k : Nat) (v : ChanData) (s : State) (i : Nat) : (State.setChan k v s).svc i = s.svc i := rfl
@[simp] theorem setKnot_svc_at (k : Nat) (v : Knot) (s : State) (i : Nat) : (State.setKnot k v s).svc i = s.svc i := rfl
@[simp] theorem setFlight_svc_at (gf : Nat) (v : Flight) (s : State) (i : Nat) : (State.setFlight gf v s).svc i = s.svc i := rfl
@[simp] theorem setStage_svc_at (n : Nat) (v : Stage) (s : State) (i : Nat) : (State.setStage n v s).svc i = s.svc i := rfl
@[simp] theorem setCtx_svc_at (n : Nat) (v : Ctx) (s : State) (i : Nat) : (State.setCtx n v s).svc i = s.svc i := rfl
@[simp] theorem setLanding_svc_at (n : Nat) (v : Landing) (s : State) (i : Nat) : (State.setLanding n v s).svc i = s.svc i := rfl
@[simp] theorem setPart_svc_at (p : Nat) (v : Part) (s : State) (i : Nat) : (State.setPart p v s).svc i = s.svc i := rfl
@[simp] theorem setRed_svc_at (n : Nat) (v : Red) (s : State) (i : Nat) : (State.setRed n v s).svc i = s.svc i := rfl
@[simp] theorem setUc_svc_at (u : Nat) (v : Undercroft) (s : State) (i : Nat) : (State.setUc u v s).svc i = s.svc i := rfl
@[simp] theorem setRope_svc_at (k : Nat) (v : Rope) (s : State) (i : Nat) : (State.setRope k v s).svc i = s.svc i := rfl
@[simp] theorem setLaser_svc_at (m : Nat) (v : Laser) (s : State) (i : Nat) : (State.setLaser m v s).svc i = s.svc i := rfl
@[simp] theorem setBundle_svc_at (n : Nat) (v : Bundle) (s : State) (i : Nat) : (State.setBundle n v s).svc i = s.svc i := rfl
@[simp] theorem setHce_svc_at (e : Nat) (v : Hce) (s : State) (i : Nat) : (State.setHce e v s).svc i = s.svc i := rfl
@[simp] theorem setRing_svc_at (f : Nat) (v : EvRing) (s : State) (i : Nat) : (State.setRing f v s).svc i = s.svc i := rfl
@[simp] theorem setPower_svc_at (v : Power) (s : State) (i : Nat) : (State.setPower v s).svc i = s.svc i := rfl
@[simp] theorem setPins_svc_at (v : Pins) (s : State) (i : Nat) : (State.setPins v s).svc i = s.svc i := rfl
@[simp] theorem setMemCheck_svc_at (v : Tbl Nat) (s : State) (i : Nat) : (State.setMemCheck v s).svc i = s.svc i := rfl
@[simp] theorem setMemEpoch_svc_at (v : Tbl Nat) (s : State) (i : Nat) : (State.setMemEpoch v s).svc i = s.svc i := rfl
@[simp] theorem setMemKey_svc_at (v : Tbl Nat) (s : State) (i : Nat) : (State.setMemKey v s).svc i = s.svc i := rfl
@[simp] theorem setTreads_svc_at (v : Tbl Tread) (s : State) (i : Nat) : (State.setTreads v s).svc i = s.svc i := rfl
@[simp] theorem setKnots_svc_at (v : Tbl Knot) (s : State) (i : Nat) : (State.setKnots v s).svc i = s.svc i := rfl
@[simp] theorem setSvc_self (i : Nat) (v : Svc) (s : State) : (State.setSvc i v s).svc i = v :=
  tget_tset_self _ _ _
theorem setSvc_other {i j : Nat} (v : Svc) (s : State) (h : j ≠ i) : (State.setSvc i v s).svc j = s.svc j :=
  tget_tset_other _ _ h

/-! Register fields. -/
@[simp] theorem put_get (o : Out) (s : State) (g : Fld) : (State.put o s).get g = s.get g := rfl
@[simp] theorem at_get (now : W64) (s : State) (g : Fld) : (State.at_ now s).get g = s.get g := rfl
@[simp] theorem ropeAt_get (k : Nat) (now : W64) (s : State) (g : Fld) : (State.ropeAt k now s).get g = s.get g := rfl
@[simp] theorem setRig_get (p : Nat) (v : Rig) (s : State) (g : Fld) : (State.setRig p v s).get g = s.get g := rfl
@[simp] theorem setTread_get (t : Nat) (v : Tread) (s : State) (g : Fld) : (State.setTread t v s).get g = s.get g := rfl
@[simp] theorem setChan_get (k : Nat) (v : ChanData) (s : State) (g : Fld) : (State.setChan k v s).get g = s.get g := rfl
@[simp] theorem setKnot_get (k : Nat) (v : Knot) (s : State) (g : Fld) : (State.setKnot k v s).get g = s.get g := rfl
@[simp] theorem setFlight_get (gf : Nat) (v : Flight) (s : State) (g : Fld) : (State.setFlight gf v s).get g = s.get g := rfl
@[simp] theorem setStage_get (n : Nat) (v : Stage) (s : State) (g : Fld) : (State.setStage n v s).get g = s.get g := rfl
@[simp] theorem setCtx_get (n : Nat) (v : Ctx) (s : State) (g : Fld) : (State.setCtx n v s).get g = s.get g := rfl
@[simp] theorem setLanding_get (n : Nat) (v : Landing) (s : State) (g : Fld) : (State.setLanding n v s).get g = s.get g := rfl
@[simp] theorem setPart_get (p : Nat) (v : Part) (s : State) (g : Fld) : (State.setPart p v s).get g = s.get g := rfl
@[simp] theorem setRed_get (n : Nat) (v : Red) (s : State) (g : Fld) : (State.setRed n v s).get g = s.get g := rfl
@[simp] theorem setUc_get (u : Nat) (v : Undercroft) (s : State) (g : Fld) : (State.setUc u v s).get g = s.get g := rfl
@[simp] theorem setRope_get (k : Nat) (v : Rope) (s : State) (g : Fld) : (State.setRope k v s).get g = s.get g := rfl
@[simp] theorem setLaser_get (m : Nat) (v : Laser) (s : State) (g : Fld) : (State.setLaser m v s).get g = s.get g := rfl
@[simp] theorem setBundle_get (n : Nat) (v : Bundle) (s : State) (g : Fld) : (State.setBundle n v s).get g = s.get g := rfl
@[simp] theorem setHce_get (e : Nat) (v : Hce) (s : State) (g : Fld) : (State.setHce e v s).get g = s.get g := rfl
@[simp] theorem setRing_get (f : Nat) (v : EvRing) (s : State) (g : Fld) : (State.setRing f v s).get g = s.get g := rfl
@[simp] theorem setSvc_get (p : Nat) (v : Svc) (s : State) (g : Fld) : (State.setSvc p v s).get g = s.get g := rfl
@[simp] theorem setPower_get (v : Power) (s : State) (g : Fld) : (State.setPower v s).get g = s.get g := rfl
@[simp] theorem setPins_get (v : Pins) (s : State) (g : Fld) : (State.setPins v s).get g = s.get g := rfl
@[simp] theorem setMemCheck_get (v : Tbl Nat) (s : State) (g : Fld) : (State.setMemCheck v s).get g = s.get g := rfl
@[simp] theorem setMemEpoch_get (v : Tbl Nat) (s : State) (g : Fld) : (State.setMemEpoch v s).get g = s.get g := rfl
@[simp] theorem setMemKey_get (v : Tbl Nat) (s : State) (g : Fld) : (State.setMemKey v s).get g = s.get g := rfl
@[simp] theorem setTreads_get (v : Tbl Tread) (s : State) (g : Fld) : (State.setTreads v s).get g = s.get g := rfl
@[simp] theorem setKnots_get (v : Tbl Knot) (s : State) (g : Fld) : (State.setKnots v s).get g = s.get g := rfl

/-- A field reads what was written, cut to its width. -/
@[simp] theorem get_set_self (f : Fld) (v : Nat) (s : State) : (State.set f v s).get f = v % 2 ^ f.width := by
  simp [State.get, Nat.xor_assoc]

/-- A write of one field leaves every other as it was. -/
theorem get_set_other {f g : Fld} (v : Nat) (s : State) (h : g.key ≠ f.key) : (State.set f v s).get g = s.get g := by
  unfold State.get
  rw [set_regs, tget_tset_other _ _ h]

/-- A field put back reads its reset value. -/
@[simp] theorem get_unset_self (f : Fld) (s : State) : (State.unset f s).get f = f.reset := by
  simp [State.get, tget_tdel_self]

theorem get_unset_other {f g : Fld} (s : State) (h : g.key ≠ f.key) : (State.unset f s).get g = s.get g := by
  unfold State.get
  rw [unset_regs, tget_tdel_other _ h]

end Sys2Proof.Laws
end

