-- ==== Sys2Proof/Laws/WindDownFrame.lean ====
section
/-!
SUPPORT. Frames of the operations of Sys2Proof/Machine/WindDown.lean: what none of them writes stays as it was.
-/
namespace Sys2Proof.Laws
open Machine Machine.State

set_option linter.unusedSimpArgs false
set_option linter.unusedTactic false
set_option linter.unreachableTactic false
set_option linter.unusedVariables false

variable {α : Type} {φ : State → α}

theorem dropUnsent_frame (h_ropes : Blind.ropes φ) (p : Nat) (s : State) :
    φ (dropUnsent p s) = φ s := by
  unfold dropUnsent
  repeat' first
    | simp only [setVchan_frame h_ropes]
    | with_reducible refine Eq.trans (foldl_frame (fun _ _ => ?_) _ _) ?_
    | split
    | dsimp only
    | with_reducible rfl

theorem abandonDrain_frame (h_regs : Blind.regs φ) (h_seq : Blind.seq φ) (h_free : Blind.free φ) (h_out : Blind.out φ) (h_rigs : Blind.rigs φ) (h_treads : Blind.treads φ) (h_flights : Blind.flights φ) (h_ctxs : Blind.ctxs φ) (h_landings : Blind.landings φ) (h_mem : Blind.mem φ) (h_memCheck : Blind.memCheck φ) (h_memEpoch : Blind.memEpoch φ) (h_memKey : Blind.memKey φ) (h_ucs : Blind.ucs φ) (h_ropes : Blind.ropes φ) (h_fabric : Blind.fabric φ) (h_rings : Blind.rings φ) (h_svcs : Blind.svcs φ) (h_journal : Blind.journal φ) (h_sec : Blind.sec φ) (h_det : Blind.det φ) (gf arr : Nat) (s : State) :
    φ (abandonDrain gf arr s) = φ s := by
  unfold abandonDrain
  split
  · rfl
  · dsimp only
    split
    · rfl
    rw [drainRows_frame h_regs h_seq h_free h_out h_rigs h_treads h_flights h_ctxs h_landings h_mem h_memCheck h_memEpoch h_memKey h_ucs h_ropes h_fabric h_rings h_svcs h_journal h_sec h_det]
    exact takeFree_frame h_free s

theorem abandonDrains_frame (h_regs : Blind.regs φ) (h_seq : Blind.seq φ) (h_free : Blind.free φ) (h_out : Blind.out φ) (h_rigs : Blind.rigs φ) (h_treads : Blind.treads φ) (h_flights : Blind.flights φ) (h_ctxs : Blind.ctxs φ) (h_landings : Blind.landings φ) (h_mem : Blind.mem φ) (h_memCheck : Blind.memCheck φ) (h_memEpoch : Blind.memEpoch φ) (h_memKey : Blind.memKey φ) (h_ucs : Blind.ucs φ) (h_ropes : Blind.ropes φ) (h_fabric : Blind.fabric φ) (h_rings : Blind.rings φ) (h_svcs : Blind.svcs φ) (h_journal : Blind.journal φ) (h_sec : Blind.sec φ) (h_det : Blind.det φ) (p : Nat) (s : State) :
    φ (abandonDrains p s) = φ s := by
  unfold abandonDrains
  exact foldl_frame (fun _ _ => foldl_frame (fun _ _ => abandonDrain_frame h_regs h_seq h_free h_out h_rigs h_treads h_flights h_ctxs h_landings h_mem h_memCheck h_memEpoch h_memKey h_ucs h_ropes h_fabric h_rings h_svcs h_journal h_sec h_det _ _ _) _ _) _ _

theorem abandonWork_frame (h_regs : Blind.regs φ) (h_seq : Blind.seq φ) (h_free : Blind.free φ) (h_out : Blind.out φ) (h_rigs : Blind.rigs φ) (h_treads : Blind.treads φ) (h_flights : Blind.flights φ) (h_ctxs : Blind.ctxs φ) (h_landings : Blind.landings φ) (h_mem : Blind.mem φ) (h_memCheck : Blind.memCheck φ) (h_memEpoch : Blind.memEpoch φ) (h_memKey : Blind.memKey φ) (h_ucs : Blind.ucs φ) (h_ropes : Blind.ropes φ) (h_fabric : Blind.fabric φ) (h_rings : Blind.rings φ) (h_svcs : Blind.svcs φ) (h_journal : Blind.journal φ) (h_sec : Blind.sec φ) (h_det : Blind.det φ) (p : Nat) (s : State) :
    φ (abandonWork p s) = φ s := by
  unfold abandonWork
  repeat' first
    | simp only [abandonDrains_frame h_regs h_seq h_free h_out h_rigs h_treads h_flights h_ctxs h_landings h_mem h_memCheck h_memEpoch h_memKey h_ucs h_ropes h_fabric h_rings h_svcs h_journal h_sec h_det, clearUcQueues_frame h_regs h_ucs, dropUnsent_frame h_ropes, setFlight_frame h_flights, setTread_frame h_treads]
    | with_reducible refine Eq.trans (foldl_frame (fun _ _ => ?_) _ _) ?_
    | split
    | dsimp only
    | with_reducible rfl

theorem emptyChannels_frame (h_chans : Blind.chans φ) (h_knots : Blind.knots φ) (p : Nat) (s : State) :
    φ (emptyChannels p s) = φ s := by
  unfold emptyChannels
  repeat' first
    | simp only [setChan_frame h_chans, setKnot_frame h_knots]
    | with_reducible refine Eq.trans (foldl_frame (fun _ _ => ?_) _ _) ?_
    | split
    | dsimp only
    | with_reducible rfl

theorem restartSaturation_frame (h_power : Blind.power φ) (p t : Nat) (s : State) :
    φ (restartSaturation p t s) = φ s := by
  unfold restartSaturation
  repeat' first
    | simp only [setPower_frame h_power]
    | with_reducible refine Eq.trans (foldl_frame (fun _ _ => ?_) _ _) ?_
    | split
    | dsimp only
    | with_reducible rfl

theorem restartFlights_frame (h_regs : Blind.regs φ) (h_power : Blind.power φ) (h_treads : Blind.treads φ) (h_flights : Blind.flights φ) (p : Nat) (s : State) :
    φ (restartFlights p s) = φ s := by
  unfold restartFlights
  repeat' first
    | simp only [set_frame h_regs, setFlight_frame h_flights, setPower_frame h_power, setTread_frame h_treads]
    | with_reducible refine Eq.trans (foldl_frame (fun _ _ => ?_) _ _) ?_
    | split
    | dsimp only
    | with_reducible rfl

theorem restartStages_frame (h_regs : Blind.regs φ) (h_stages : Blind.stages φ) (h_ctxs : Blind.ctxs φ) (h_reds : Blind.reds φ) (p t : Nat) (s : State) :
    φ (restartStages p t s) = φ s := by
  unfold restartStages
  repeat' first
    | simp only [beginStep_frame h_stages h_reds, set_frame h_regs, setCtx_frame h_ctxs, setRed_frame h_reds, setStage_frame h_stages]
    | with_reducible refine Eq.trans (foldl_frame (fun _ _ => ?_) _ _) ?_
    | split
    | dsimp only
    | with_reducible rfl

theorem emptyLandings_frame (h_out : Blind.out φ) (h_landings : Blind.landings φ) (h_ropes : Blind.ropes φ) (p : Nat) (s : State) :
    φ (emptyLandings p s) = φ s := by
  unfold emptyLandings
  repeat' first
    | simp only [sendCredit_frame h_out h_ropes, setLanding_frame h_landings]
    | with_reducible refine Eq.trans (foldl_frame (fun _ _ => ?_) _ _) ?_
    | split
    | dsimp only
    | with_reducible rfl

theorem restartVersions_frame (h_parts : Blind.parts φ) (p t : Nat) (s : State) :
    φ (restartVersions p t s) = φ s := by
  unfold restartVersions
  repeat' first
    | simp only [setPart_frame h_parts]
    | split
    | dsimp only
    | with_reducible rfl

theorem rewindTo_frame (h_regs : Blind.regs φ) (h_seq : Blind.seq φ) (h_out : Blind.out φ) (h_power : Blind.power φ) (h_rigs : Blind.rigs φ) (h_treads : Blind.treads φ) (h_chans : Blind.chans φ) (h_knots : Blind.knots φ) (h_flights : Blind.flights φ) (h_stages : Blind.stages φ) (h_ctxs : Blind.ctxs φ) (h_landings : Blind.landings φ) (h_parts : Blind.parts φ) (h_reds : Blind.reds φ) (h_mem : Blind.mem φ) (h_memCheck : Blind.memCheck φ) (h_memEpoch : Blind.memEpoch φ) (h_memKey : Blind.memKey φ) (h_ucs : Blind.ucs φ) (h_gathers : Blind.gathers φ) (h_ropes : Blind.ropes φ) (h_rings : Blind.rings φ) (h_svcs : Blind.svcs φ) (h_journal : Blind.journal φ) (h_sec : Blind.sec φ) (h_det : Blind.det φ) (p t e : Nat) (s : State) :
    φ (rewindTo p t e s) = φ s := by
  unfold rewindTo
  repeat' first
    | simp only [clearCounts_frame h_regs h_seq h_out h_rigs h_mem h_memCheck h_memEpoch h_memKey h_ucs h_ropes h_rings h_svcs h_journal h_sec h_det, clearUcQueues_frame h_regs h_ucs, dropUnsent_frame h_ropes, emptyChannels_frame h_chans h_knots, emptyLandings_frame h_out h_landings h_ropes, restartFlights_frame h_regs h_power h_treads h_flights, restartSaturation_frame h_power, restartStages_frame h_regs h_stages h_ctxs h_reds, restartVersions_frame h_parts, setSvc_frame h_svcs, h_gathers.eq]
    | split
    | dsimp only
    | with_reducible rfl

theorem queueScrub_frame (h_regs : Blind.regs φ) (h_seq : Blind.seq φ) (h_rings : Blind.rings φ) (h_sec : Blind.sec φ) (h_det : Blind.det φ) (p : Nat) (tell : List (Nat × Nat × Nat × Nat)) (s : State) :
    φ (queueScrub p tell s) = φ s := by
  unfold queueScrub
  repeat' first
    | simp only [raise_frame h_regs h_seq h_rings h_det, set_frame h_regs, setLd_frame h_regs, h_sec.eq]
    | with_reducible refine Eq.trans (foldl_frame (fun _ _ => ?_) _ _) ?_
    | split
    | dsimp only
    | with_reducible rfl

theorem dropWork_frame (h_sparse : Blind.sparse φ) (h_gathers : Blind.gathers φ) (h_fabric : Blind.fabric φ) (p : Nat) (s : State) :
    φ (dropWork p s) = φ s := by
  unfold dropWork
  repeat' first
    | simp only [keepGathers_frame h_gathers, keepSparse_frame h_sparse, h_fabric.eq]
    | split
    | dsimp only
    | with_reducible rfl

theorem freeImage_frame (h_regs : Blind.regs φ) (h_power : Blind.power φ) (h_treads : Blind.treads φ) (h_chans : Blind.chans φ) (h_knots : Blind.knots φ) (h_flights : Blind.flights φ) (h_stages : Blind.stages φ) (h_ctxs : Blind.ctxs φ) (h_landings : Blind.landings φ) (h_reds : Blind.reds φ) (h_ucs : Blind.ucs φ) (h_sparse : Blind.sparse φ) (h_gathers : Blind.gathers φ) (h_ropes : Blind.ropes φ) (h_fabric : Blind.fabric φ) (p : Nat) (s : State) :
    φ (freeImage p s) = φ s := by
  unfold freeImage
  repeat' first
    | simp only [clearScratch_frame h_ucs, clearUcQueues_frame h_regs h_ucs, closeVc_frame h_ropes, dropPlacements_frame h_regs, dropPorts_frame h_chans, dropStageRate_frame h_regs h_power, dropWork_frame h_sparse h_gathers h_fabric, flightOff_frame h_regs h_power h_treads h_flights, setChan_frame h_chans, setCtx_frame h_ctxs, setKnot_frame h_knots, setLanding_frame h_landings, setRed_frame h_reds, setStage_frame h_stages]
    | with_reducible refine Eq.trans (foldl_frame (fun _ _ => ?_) _ _) ?_
    | split
    | dsimp only
    | with_reducible rfl

theorem endInjectionOf_frame (h_regs : Blind.regs φ) (h_seq : Blind.seq φ) (h_rings : Blind.rings φ) (h_det : Blind.det φ) (p : Nat) (s : State) :
    φ (endInjectionOf p s) = φ s := by
  unfold endInjectionOf
  repeat' first
    | simp only [endInjection_frame h_regs h_seq h_rings h_det]
    | split
    | dsimp only
    | with_reducible rfl

theorem settleRows_frame (h_fence : Blind.fence φ) (p : Nat) (s : State) :
    φ (settleRows p s) = φ s := by
  unfold settleRows
  repeat' first
    | simp only [shiftRow_frame h_fence]
    | with_reducible refine Eq.trans (foldl_frame (fun _ _ => ?_) _ _) ?_
    | split
    | dsimp only
    | with_reducible rfl

theorem releasePart_frame (h_regs : Blind.regs φ) (h_pkg : Blind.pkg φ) (h_seq : Blind.seq φ) (h_fence : Blind.fence φ) (h_power : Blind.power φ) (h_rigs : Blind.rigs φ) (h_treads : Blind.treads φ) (h_chans : Blind.chans φ) (h_knots : Blind.knots φ) (h_flights : Blind.flights φ) (h_stages : Blind.stages φ) (h_ctxs : Blind.ctxs φ) (h_landings : Blind.landings φ) (h_parts : Blind.parts φ) (h_reds : Blind.reds φ) (h_mem : Blind.mem φ) (h_memCheck : Blind.memCheck φ) (h_memEpoch : Blind.memEpoch φ) (h_memKey : Blind.memKey φ) (h_ucs : Blind.ucs φ) (h_sparse : Blind.sparse φ) (h_gathers : Blind.gathers φ) (h_ropes : Blind.ropes φ) (h_fabric : Blind.fabric φ) (h_rings : Blind.rings φ) (h_svcs : Blind.svcs φ) (h_sec : Blind.sec φ) (h_det : Blind.det φ) (p : Nat) (s : State) :
    φ (releasePart p s) = φ s := by
  unfold releasePart
  repeat' first
    | simp only [endInjectionOf_frame h_regs h_seq h_rings h_det, freeImage_frame h_regs h_power h_treads h_chans h_knots h_flights h_stages h_ctxs h_landings h_reds h_ucs h_sparse h_gathers h_ropes h_fabric, queueScrub_frame h_regs h_seq h_rings h_sec h_det, raise_frame h_regs h_seq h_rings h_det, set_frame h_regs, setLd_frame h_regs, setPart_frame h_parts, setRig_frame h_rigs, setSvc_frame h_svcs, setSvcState_frame h_regs h_svcs, settleRows_frame h_fence, showCapacity_frame h_regs, slotClear_frame h_mem h_memCheck h_memEpoch h_memKey, h_pkg.eq]
    | with_reducible refine Eq.trans (foldl_frame (fun _ _ => ?_) _ _) ?_
    | split
    | dsimp only
    | with_reducible rfl

theorem beginRelease_frame (h_regs : Blind.regs φ) (h_rigs : Blind.rigs φ) (p : Nat) (s : State) :
    φ (beginRelease p s) = φ s := by
  unfold beginRelease
  repeat' first
    | simp only [beginWindDown_frame h_rigs, setLd_frame h_regs]
    | split
    | dsimp only
    | with_reducible rfl

end Sys2Proof.Laws
end

