-- ==== Sys2Proof/Laws/StepsFrame.lean ====
section
/-!
SUPPORT. Frames of the operations of Sys2Proof/Machine/Steps.lean: what none of them writes stays as it was.
-/
namespace Sys2Proof.Laws
open Machine Machine.State

set_option linter.unusedSimpArgs false
set_option linter.unusedTactic false
set_option linter.unreachableTactic false
set_option linter.unusedVariables false

variable {α : Type} {φ : State → α}

theorem treeError_frame (h_regs : Blind.regs φ) (h_seq : Blind.seq φ) (h_rings : Blind.rings φ) (h_svcs : Blind.svcs φ) (h_det : Blind.det φ) (p : Nat) (peer : Option Nat) (s : State) :
    φ (treeError p peer s) = φ s := by
  unfold treeError
  repeat' first
    | simp only [raise_frame h_regs h_seq h_rings h_det, set_frame h_regs, setSvcState_frame h_regs h_svcs]
    | split
    | dsimp only
    | with_reducible rfl

theorem applyGo_frame (h_regs : Blind.regs φ) (h_out : Blind.out φ) (h_stages : Blind.stages φ) (h_parts : Blind.parts φ) (h_reds : Blind.reds φ) (h_ropes : Blind.ropes φ) (h_svcs : Blind.svcs φ) (p : Nat) (s : State) :
    φ (applyGo p s) = φ s := by
  unfold applyGo
  repeat' first
    | simp only [beginStep_frame h_stages h_reds, latchScales_frame h_regs h_parts, set_frame h_regs, setPart_frame h_parts, setSvc_frame h_svcs, setSvcState_frame h_regs h_svcs, toChildren_frame h_out h_ropes]
    | split
    | dsimp only
    | with_reducible rfl

theorem joinUp_frame (h_regs : Blind.regs φ) (h_seq : Blind.seq φ) (h_out : Blind.out φ) (h_stages : Blind.stages φ) (h_parts : Blind.parts φ) (h_reds : Blind.reds φ) (h_ropes : Blind.ropes φ) (h_rings : Blind.rings φ) (h_svcs : Blind.svcs φ) (h_det : Blind.det φ) (p : Nat) (s : State) :
    φ (joinUp p s) = φ s := by
  unfold joinUp
  repeat' first
    | simp only [applyGo_frame h_regs h_out h_stages h_parts h_reds h_ropes h_svcs, toParent_frame h_out h_ropes, treeError_frame h_regs h_seq h_rings h_svcs h_det]
    | with_reducible refine Eq.trans (foldl_frame (fun _ _ => ?_) _ _) ?_
    | split
    | dsimp only
    | with_reducible rfl

theorem joinOne_frame (h_regs : Blind.regs φ) (h_seq : Blind.seq φ) (h_out : Blind.out φ) (h_stages : Blind.stages φ) (h_parts : Blind.parts φ) (h_reds : Blind.reds φ) (h_ropes : Blind.ropes φ) (h_rings : Blind.rings φ) (h_svcs : Blind.svcs φ) (h_det : Blind.det φ) (p k peer : Nat) (m : TreeMsg) (s : State) :
    φ (joinOne p k peer m s) = φ s := by
  unfold joinOne
  repeat' first
    | simp only [joinUp_frame h_regs h_seq h_out h_stages h_parts h_reds h_ropes h_rings h_svcs h_det, set_frame h_regs, setSvc_frame h_svcs, treeError_frame h_regs h_seq h_rings h_svcs h_det]
    | split
    | dsimp only
    | with_reducible rfl

theorem treeMsg_frame (h_pending : Blind.pending φ) (h_out : Blind.out φ) (k : Nat) (m : TreeMsg) (f : Nat → State → State) (s : State) (h_f : ∀ x0 s, φ (f x0 s) = φ s) (t' : State)
    (h : treeMsg k m f s = .next t') : φ t' = φ s := by
  unfold treeMsg at h
  refine perform_frame h_out h_pending h (fun s => ?_)
  repeat' first
    | simp only [h_f]
    | split
    | dsimp only
    | with_reducible rfl

theorem showGate_frame (h_regs : Blind.regs φ) (p step : Nat) (s : State) :
    φ (showGate p step s) = φ s := by
  unfold showGate
  repeat' first
    | simp only [set_frame h_regs]
    | split
    | dsimp only
    | with_reducible rfl

theorem resolveVersions_frame (h_parts : Blind.parts φ) (p step : Nat) (commit : Bool) (s : State) :
    φ (resolveVersions p step commit s) = φ s := by
  unfold resolveVersions
  repeat' first
    | simp only [setPart_frame h_parts]
    | split
    | dsimp only
    | with_reducible rfl

theorem showCommit_frame (h_regs : Blind.regs φ) (p step : Nat) (commit : Bool) (s : State) :
    φ (showCommit p step commit s) = φ s := by
  unfold showCommit
  repeat' first
    | simp only [bump_frame h_regs, set_frame h_regs]
    | split
    | dsimp only
    | with_reducible rfl

theorem stepScales_frame (h_regs : Blind.regs φ) (h_parts : Blind.parts φ) (h_svcs : Blind.svcs φ) (p step : Nat) (s : State) :
    φ (stepScales p step s) = φ s := by
  unfold stepScales
  repeat' first
    | simp only [latchScales_frame h_regs h_parts, setPart_frame h_parts, setSvc_frame h_svcs]
    | with_reducible refine Eq.trans (foldl_frame (fun _ _ => ?_) _ _) ?_
    | split
    | dsimp only
    | with_reducible rfl

theorem recordStep_frame (h_regs : Blind.regs φ) (h_svcs : Blind.svcs φ) (p step : Nat) (commit : Bool) (safe : Nat) (s : State) :
    φ (recordStep p step commit safe s) = φ s := by
  unfold recordStep
  repeat' first
    | simp only [set_frame h_regs, setSvc_frame h_svcs, setSvcState_frame h_regs h_svcs]
    | split
    | dsimp only
    | with_reducible rfl

theorem showStep_frame (h_regs : Blind.regs φ) (h_seq : Blind.seq φ) (h_out : Blind.out φ) (h_rigs : Blind.rigs φ) (h_mem : Blind.mem φ) (h_memCheck : Blind.memCheck φ) (h_memEpoch : Blind.memEpoch φ) (h_memKey : Blind.memKey φ) (h_ucs : Blind.ucs φ) (h_sparse : Blind.sparse φ) (h_ropes : Blind.ropes φ) (h_rings : Blind.rings φ) (h_svcs : Blind.svcs φ) (h_journal : Blind.journal φ) (h_sec : Blind.sec φ) (h_det : Blind.det φ) (p step : Nat) (commit : Bool) (s : State) :
    φ (showStep p step commit s) = φ s := by
  unfold showStep
  repeat' first
    | simp only [keepSparse_frame h_sparse, showGate_frame h_regs, showSchedules_frame h_regs, undoStep_frame h_regs h_seq h_out h_rigs h_mem h_memCheck h_memEpoch h_memKey h_ucs h_sparse h_ropes h_rings h_svcs h_journal h_sec h_det]
    | split
    | dsimp only
    | with_reducible rfl

theorem confirmStep_frame (h_regs : Blind.regs φ) (h_seq : Blind.seq φ) (h_out : Blind.out φ) (h_rigs : Blind.rigs φ) (h_mem : Blind.mem φ) (h_memCheck : Blind.memCheck φ) (h_memEpoch : Blind.memEpoch φ) (h_memKey : Blind.memKey φ) (h_ucs : Blind.ucs φ) (h_sparse : Blind.sparse φ) (h_ropes : Blind.ropes φ) (h_rings : Blind.rings φ) (h_svcs : Blind.svcs φ) (h_journal : Blind.journal φ) (h_sec : Blind.sec φ) (h_det : Blind.det φ) (p step : Nat) (commit : Bool) (s : State) :
    φ (confirmStep p step commit s) = φ s := by
  unfold confirmStep
  repeat' first
    | simp only [keepSparse_frame h_sparse, undoStep_frame h_regs h_seq h_out h_rigs h_mem h_memCheck h_memEpoch h_memKey h_ucs h_sparse h_ropes h_rings h_svcs h_journal h_sec h_det]
    | split
    | dsimp only
    | with_reducible rfl

theorem afterStep_frame (h_regs : Blind.regs φ) (h_out : Blind.out φ) (h_parts : Blind.parts φ) (h_reds : Blind.reds φ) (h_gathers : Blind.gathers φ) (h_svcs : Blind.svcs φ) (p step old safe : Nat) (s : State) :
    φ (afterStep p step old safe s) = φ s := by
  unfold afterStep
  repeat' first
    | simp only [advanceUpd_frame h_reds, freeVersions_frame h_parts, keepGathers_frame h_gathers, notifyStep_frame h_regs h_out, stepScales_frame h_regs h_parts h_svcs]
    | with_reducible refine Eq.trans (foldl_frame (fun _ _ => ?_) _ _) ?_
    | split
    | dsimp only
    | with_reducible rfl

theorem resolveStep_frame (h_regs : Blind.regs φ) (h_seq : Blind.seq φ) (h_out : Blind.out φ) (h_rigs : Blind.rigs φ) (h_parts : Blind.parts φ) (h_reds : Blind.reds φ) (h_mem : Blind.mem φ) (h_memCheck : Blind.memCheck φ) (h_memEpoch : Blind.memEpoch φ) (h_memKey : Blind.memKey φ) (h_ucs : Blind.ucs φ) (h_sparse : Blind.sparse φ) (h_gathers : Blind.gathers φ) (h_ropes : Blind.ropes φ) (h_fabric : Blind.fabric φ) (h_rings : Blind.rings φ) (h_svcs : Blind.svcs φ) (h_journal : Blind.journal φ) (h_sec : Blind.sec φ) (h_det : Blind.det φ) (p step : Nat) (commit : Bool) (safe : Nat) (s : State) :
    φ (resolveStep p step commit safe s) = φ s := by
  unfold resolveStep
  repeat' first
    | simp only [afterStep_frame h_regs h_out h_parts h_reds h_gathers h_svcs, confirmStep_frame h_regs h_seq h_out h_rigs h_mem h_memCheck h_memEpoch h_memKey h_ucs h_sparse h_ropes h_rings h_svcs h_journal h_sec h_det, findCause_frame h_regs h_out h_rigs h_ropes h_svcs, raise_frame h_regs h_seq h_rings h_det, recordStep_frame h_regs h_svcs, resolveVersions_frame h_parts, showCommit_frame h_regs, showStep_frame h_regs h_seq h_out h_rigs h_mem h_memCheck h_memEpoch h_memKey h_ucs h_sparse h_ropes h_rings h_svcs h_journal h_sec h_det, takeFrame_frame h_regs h_seq h_out h_rigs h_mem h_memCheck h_memEpoch h_memKey h_ucs h_ropes h_fabric h_rings h_svcs h_journal h_sec h_det, writeTelemetry_frame h_regs h_out h_det]
    | split
    | dsimp only
    | with_reducible rfl

theorem applyDecide_frame (h_regs : Blind.regs φ) (h_seq : Blind.seq φ) (h_out : Blind.out φ) (h_rigs : Blind.rigs φ) (h_parts : Blind.parts φ) (h_reds : Blind.reds φ) (h_mem : Blind.mem φ) (h_memCheck : Blind.memCheck φ) (h_memEpoch : Blind.memEpoch φ) (h_memKey : Blind.memKey φ) (h_ucs : Blind.ucs φ) (h_sparse : Blind.sparse φ) (h_gathers : Blind.gathers φ) (h_ropes : Blind.ropes φ) (h_fabric : Blind.fabric φ) (h_rings : Blind.rings φ) (h_svcs : Blind.svcs φ) (h_journal : Blind.journal φ) (h_sec : Blind.sec φ) (h_det : Blind.det φ) (p : Nat) (m : TreeMsg) (s : State) :
    φ (applyDecide p m s) = φ s := by
  unfold applyDecide
  repeat' first
    | simp only [applyHalt_frame h_regs h_out h_svcs, resolveStep_frame h_regs h_seq h_out h_rigs h_parts h_reds h_mem h_memCheck h_memEpoch h_memKey h_ucs h_sparse h_gathers h_ropes h_fabric h_rings h_svcs h_journal h_sec h_det, toChildren_frame h_out h_ropes]
    | split
    | dsimp only
    | with_reducible rfl

theorem rootDecide_frame (h_regs : Blind.regs φ) (h_seq : Blind.seq φ) (h_out : Blind.out φ) (h_rigs : Blind.rigs φ) (h_parts : Blind.parts φ) (h_reds : Blind.reds φ) (h_mem : Blind.mem φ) (h_memCheck : Blind.memCheck φ) (h_memEpoch : Blind.memEpoch φ) (h_memKey : Blind.memKey φ) (h_ucs : Blind.ucs φ) (h_sparse : Blind.sparse φ) (h_gathers : Blind.gathers φ) (h_ropes : Blind.ropes φ) (h_fabric : Blind.fabric φ) (h_rings : Blind.rings φ) (h_svcs : Blind.svcs φ) (h_journal : Blind.journal φ) (h_sec : Blind.sec φ) (h_det : Blind.det φ) (p : Nat) (s : State) :
    φ (rootDecide p s) = φ s := by
  unfold rootDecide
  repeat' first
    | simp only [applyDecide_frame h_regs h_seq h_out h_rigs h_parts h_reds h_mem h_memCheck h_memEpoch h_memKey h_ucs h_sparse h_gathers h_ropes h_fabric h_rings h_svcs h_journal h_sec h_det]
    | split
    | dsimp only
    | with_reducible rfl

theorem settleOrder_frame (h_regs : Blind.regs φ) (h_seq : Blind.seq φ) (h_out : Blind.out φ) (h_power : Blind.power φ) (h_rigs : Blind.rigs φ) (h_treads : Blind.treads φ) (h_chans : Blind.chans φ) (h_knots : Blind.knots φ) (h_flights : Blind.flights φ) (h_stages : Blind.stages φ) (h_ctxs : Blind.ctxs φ) (h_landings : Blind.landings φ) (h_parts : Blind.parts φ) (h_reds : Blind.reds φ) (h_mem : Blind.mem φ) (h_memCheck : Blind.memCheck φ) (h_memEpoch : Blind.memEpoch φ) (h_memKey : Blind.memKey φ) (h_ucs : Blind.ucs φ) (h_gathers : Blind.gathers φ) (h_ropes : Blind.ropes φ) (h_fabric : Blind.fabric φ) (h_rings : Blind.rings φ) (h_svcs : Blind.svcs φ) (h_journal : Blind.journal φ) (h_sec : Blind.sec φ) (h_det : Blind.det φ) (p : Nat) (s : State) :
    φ (settleOrder p s) = φ s := by
  unfold settleOrder
  repeat' first
    | simp only [beginRestore_frame h_regs h_seq h_out h_rigs h_stages h_parts h_reds h_mem h_memCheck h_memEpoch h_memKey h_ucs h_ropes h_fabric h_rings h_svcs h_journal h_sec h_det, bump_frame h_regs, endPin_frame h_regs h_svcs, raise_frame h_regs h_seq h_rings h_det, rewindTo_frame h_regs h_seq h_out h_power h_rigs h_treads h_chans h_knots h_flights h_stages h_ctxs h_landings h_parts h_reds h_mem h_memCheck h_memEpoch h_memKey h_ucs h_gathers h_ropes h_rings h_svcs h_journal h_sec h_det, setSvc_frame h_svcs]
    | split
    | refine Eq.trans (beginRestore_frame_of h_regs h_seq h_out h_rigs h_stages h_parts h_reds h_mem h_memCheck h_memEpoch h_memKey h_ucs h_ropes h_fabric h_rings h_svcs h_journal h_sec h_det ‹_›) ?_
    | dsimp only
    | with_reducible rfl

theorem applyResume_frame (h_regs : Blind.regs φ) (h_out : Blind.out φ) (h_rigs : Blind.rigs φ) (h_svcs : Blind.svcs φ) (p : Nat) (s : State) :
    φ (applyResume p s) = φ s := by
  unfold applyResume
  repeat' first
    | simp only [endOutage_frame h_regs h_svcs, notifyStep_frame h_regs h_out, setRig_frame h_rigs, setSvc_frame h_svcs, setSvcState_frame h_regs h_svcs]
    | split
    | dsimp only
    | with_reducible rfl

theorem rootProceed_frame (h_regs : Blind.regs φ) (h_seq : Blind.seq φ) (h_out : Blind.out φ) (h_power : Blind.power φ) (h_rigs : Blind.rigs φ) (h_treads : Blind.treads φ) (h_chans : Blind.chans φ) (h_knots : Blind.knots φ) (h_flights : Blind.flights φ) (h_stages : Blind.stages φ) (h_ctxs : Blind.ctxs φ) (h_landings : Blind.landings φ) (h_parts : Blind.parts φ) (h_reds : Blind.reds φ) (h_mem : Blind.mem φ) (h_memCheck : Blind.memCheck φ) (h_memEpoch : Blind.memEpoch φ) (h_memKey : Blind.memKey φ) (h_ucs : Blind.ucs φ) (h_gathers : Blind.gathers φ) (h_ropes : Blind.ropes φ) (h_fabric : Blind.fabric φ) (h_rings : Blind.rings φ) (h_svcs : Blind.svcs φ) (h_journal : Blind.journal φ) (h_sec : Blind.sec φ) (h_det : Blind.det φ) (p : Nat) (o : Order) (s : State) :
    φ (rootProceed p o s) = φ s := by
  unfold rootProceed
  repeat' first
    | simp only [applyResume_frame h_regs h_out h_rigs h_svcs, setSvc_frame h_svcs, settleOrder_frame h_regs h_seq h_out h_power h_rigs h_treads h_chans h_knots h_flights h_stages h_ctxs h_landings h_parts h_reds h_mem h_memCheck h_memEpoch h_memKey h_ucs h_gathers h_ropes h_fabric h_rings h_svcs h_journal h_sec h_det, takeOrder_frame h_regs h_out h_rigs h_ropes h_svcs, toChildren_frame h_out h_ropes]
    | with_reducible refine Eq.trans (foldl_frame (fun _ _ => ?_) _ _) ?_
    | split
    | dsimp only
    | with_reducible rfl

theorem keepFences_frame (h_regs : Blind.regs φ) (h_journal : Blind.journal φ) (s : State) :
    φ (keepFences s) = φ s := by
  unfold keepFences
  repeat' first
    | simp only [journalFences_frame h_regs h_journal, h_journal.eq]
    | split
    | dsimp only
    | with_reducible rfl

theorem answerOrder_frame (h_regs : Blind.regs φ) (h_seq : Blind.seq φ) (h_out : Blind.out φ) (h_power : Blind.power φ) (h_rigs : Blind.rigs φ) (h_treads : Blind.treads φ) (h_chans : Blind.chans φ) (h_knots : Blind.knots φ) (h_flights : Blind.flights φ) (h_stages : Blind.stages φ) (h_ctxs : Blind.ctxs φ) (h_landings : Blind.landings φ) (h_parts : Blind.parts φ) (h_reds : Blind.reds φ) (h_mem : Blind.mem φ) (h_memCheck : Blind.memCheck φ) (h_memEpoch : Blind.memEpoch φ) (h_memKey : Blind.memKey φ) (h_ucs : Blind.ucs φ) (h_gathers : Blind.gathers φ) (h_ropes : Blind.ropes φ) (h_fabric : Blind.fabric φ) (h_rings : Blind.rings φ) (h_svcs : Blind.svcs φ) (h_journal : Blind.journal φ) (h_sec : Blind.sec φ) (h_det : Blind.det φ) (p : Nat) (s : State) :
    φ (answerOrder p s) = φ s := by
  unfold answerOrder
  repeat' first
    | simp only [keepFences_frame h_regs h_journal, rootProceed_frame h_regs h_seq h_out h_power h_rigs h_treads h_chans h_knots h_flights h_stages h_ctxs h_landings h_parts h_reds h_mem h_memCheck h_memEpoch h_memKey h_ucs h_gathers h_ropes h_fabric h_rings h_svcs h_journal h_sec h_det, setSvc_frame h_svcs, toParent_frame h_out h_ropes]
    | with_reducible refine Eq.trans (foldl_frame (fun _ _ => ?_) _ _) ?_
    | split
    | dsimp only
    | with_reducible rfl

theorem learnChild_frame (h_regs : Blind.regs φ) (h_out : Blind.out φ) (h_rigs : Blind.rigs φ) (h_ropes : Blind.ropes φ) (h_svcs : Blind.svcs φ) (p k : Nat) (s : State) :
    φ (learnChild p k s) = φ s := by
  unfold learnChild
  repeat' first
    | simp only [rootRequest_frame h_regs h_out h_rigs h_ropes h_svcs, sendTree_frame h_out h_ropes, set_frame h_regs, setSvc_frame h_svcs]
    | split
    | dsimp only
    | with_reducible rfl

end Sys2Proof.Laws
end

