-- ==== Sys2Proof/Laws/StorageFrame.lean ====
section
/-!
SUPPORT. Frames of the operations of Sys2Proof/Machine/Storage.lean: what none of them writes stays as it was.
-/
namespace Sys2Proof.Laws
open Machine Machine.State

set_option linter.unusedSimpArgs false
set_option linter.unusedTactic false
set_option linter.unreachableTactic false
set_option linter.unusedVariables false

variable {α : Type} {φ : State → α}

theorem ckMsg_frame (h_pending : Blind.pending φ) (h_out : Blind.out φ) (h_ropes : Blind.ropes φ) (k v : Nat) (msg : List Byte) (f : Nat → Nat → Nat → Nat → List Byte → State → State) (s : State) (h_f : ∀ x0 x1 x2 x3 x4 s, φ (f x0 x1 x2 x3 x4 s) = φ s) (t' : State)
    (h : ckMsg k v msg f s = .next t') : φ t' = φ s := by
  unfold ckMsg at h
  refine perform_frame h_out h_pending h (fun s => ?_)
  repeat' first
    | simp only [tookMsg_frame h_ropes, h_f]
    | split
    | dsimp only
    | with_reducible rfl

theorem writeMaxMs_frame (h_regs : Blind.regs φ) (p : Nat) (value : W32) (s : State) :
    φ (writeMaxMs p value s) = φ s := by
  unfold writeMaxMs
  repeat' first
    | simp only [set_frame h_regs]
    | split
    | dsimp only
    | with_reducible rfl

end Sys2Proof.Laws
end

