-- ==== Sys2Proof/Laws/TenancyFrame.lean ====
section
/-!
SUPPORT. Frames of the operations of Sys2Proof/Machine/Tenancy.lean: what none of them writes stays as it was.
-/
namespace Sys2Proof.Laws
open Machine Machine.State

set_option linter.unusedSimpArgs false
set_option linter.unusedTactic false
set_option linter.unreachableTactic false
set_option linter.unusedVariables false

variable {α : Type} {φ : State → α}

theorem partCtrl_frame (h_pending : Blind.pending φ) (h_out : Blind.out φ) (p b : Nat) (value : W32) (f : State → State) (s : State) (h_f : ∀ s, φ (f s) = φ s) (t' : State)
    (h : partCtrl p b value f s = .next t') : φ t' = φ s := by
  unfold partCtrl at h
  refine perform_frame h_out h_pending h (fun s => ?_)
  repeat' first
    | simp only [h_f]
    | refine Eq.trans (whenUp_frame (fun _ => ?_) _) ?_
    | split
    | dsimp only
    | with_reducible rfl

theorem endTenancy_frame (h_regs : Blind.regs φ) (h_seq : Blind.seq φ) (h_power : Blind.power φ) (h_rigs : Blind.rigs φ) (h_treads : Blind.treads φ) (h_flights : Blind.flights φ) (h_mem : Blind.mem φ) (h_memCheck : Blind.memCheck φ) (h_memEpoch : Blind.memEpoch φ) (h_memKey : Blind.memKey φ) (h_rings : Blind.rings φ) (h_sec : Blind.sec φ) (h_det : Blind.det φ) (p : Nat) (s : State) :
    φ (endTenancy p s) = φ s := by
  unfold endTenancy
  repeat' first
    | simp only [beginRelease_frame h_regs h_rigs, queueScrub_frame h_regs h_seq h_rings h_sec h_det, refuseLoad_frame h_regs h_rigs h_mem h_memCheck h_memEpoch h_memKey, setRig_frame h_rigs, unstage_frame h_regs h_power h_treads h_flights]
    | split
    | dsimp only
    | with_reducible rfl

theorem tenantCmd_frame (h_pending : Blind.pending φ) (h_out : Blind.out φ) (fn id p : Nat) (own : Bool) (states : List Nat) (f : State → Nat × State) (s : State) (h_f : ∀ s, φ (f s).2 = φ s) (t' : State)
    (h : tenantCmd fn id p own states f s = .next t') : φ t' = φ s := by
  unfold tenantCmd at h
  refine perform_frame h_out h_pending h (fun s => ?_)
  repeat' first
    | simp only [put_frame h_out, h_f]
    | split
    | dsimp only
    | with_reducible rfl

theorem freshKey_frame (h_free : Blind.free φ) (s : State) :
    φ (freshKey s).2 = φ s := by
  unfold freshKey
  repeat' first
    | simp only [takeFree_frame h_free]
    | split
    | refine Eq.trans (takeFree_frame_of h_free ‹_›) ?_
    | dsimp only
    | with_reducible rfl

theorem freshKey_frame_of (h_free : Blind.free φ) {s : State} {t' : State} {x0}
    (h' : freshKey s = (x0, t')) : φ t' = φ s := by
  rw [← freshKey_frame h_free s, h']

theorem setKeys_frame (h_sec : Blind.sec φ) (p : Nat) (k : MemKeys) (s : State) :
    φ (setKeys p k s) = φ s := by
  unfold setKeys
  repeat' first
    | simp only [h_sec.eq]
    | split
    | dsimp only
    | with_reducible rfl

theorem setLink_frame (h_sec : Blind.sec φ) (p : Nat) (l : Link) (s : State) :
    φ (setLink p l s) = φ s := by
  unfold setLink
  repeat' first
    | simp only [h_sec.eq]
    | split
    | dsimp only
    | with_reducible rfl

theorem mapChannels_frame (h_ropes : Blind.ropes φ) (p : Nat) (f : VChan → VChan) (s : State) :
    φ (mapChannels p f s) = φ s := by
  unfold mapChannels
  repeat' first
    | simp only [setVchan_frame h_ropes]
    | with_reducible refine Eq.trans (foldl_frame (fun _ _ => ?_) _ _) ?_
    | split
    | dsimp only
    | with_reducible rfl

theorem withScrub_frame (h_sec : Blind.sec φ) (phase : Nat) (f : Nat → State → State) (s : State) (h_f : ∀ x0 s, φ (f x0 s) = φ s) :
    φ (withScrub phase f s) = φ s := by
  unfold withScrub
  repeat' first
    | simp only [h_f, h_sec.eq]
    | split
    | dsimp only
    | with_reducible rfl

theorem onPartVcs_frame (h_ropes : Blind.ropes φ) (p : Nat) (f : VChan → VChan) (s : State) :
    φ (onPartVcs p f s) = φ s := by
  unfold onPartVcs
  repeat' first
    | simp only [setVchan_frame h_ropes]
    | with_reducible refine Eq.trans (foldl_frame (fun _ _ => ?_) _ _) ?_
    | split
    | dsimp only
    | with_reducible rfl

theorem fabCtrl_frame (h_regs : Blind.regs φ) (h_pending : Blind.pending φ) (h_out : Blind.out φ) (value : W32) (f : State → State) (s : State) (h_f : ∀ s, φ (f s) = φ s) (t' : State)
    (h : fabCtrl value f s = .next t') : φ t' = φ s := by
  unfold fabCtrl at h
  refine perform_frame h_out h_pending h (fun s => ?_)
  repeat' first
    | simp only [set_frame h_regs, h_f]
    | refine Eq.trans (whenUp_frame (fun _ => ?_) _) ?_
    | split
    | dsimp only
    | with_reducible rfl

theorem dbgCtrl_frame (h_regs : Blind.regs φ) (h_pending : Blind.pending φ) (h_out : Blind.out φ) (value : W32) (f : State → State) (s : State) (h_f : ∀ s, φ (f s) = φ s) (t' : State)
    (h : dbgCtrl value f s = .next t') : φ t' = φ s := by
  unfold dbgCtrl at h
  refine perform_frame h_out h_pending h (fun s => ?_)
  repeat' first
    | simp only [set_frame h_regs, h_f]
    | refine Eq.trans (whenUp_frame (fun _ => ?_) _) ?_
    | split
    | dsimp only
    | with_reducible rfl

theorem drawChallenge_frame (h_regs : Blind.regs φ) (h_free : Blind.free φ) (s : State) :
    φ (drawChallenge s) = φ s := by
  unfold drawChallenge
  repeat' first
    | simp only [set_frame h_regs, takeFree_frame h_free]
    | with_reducible refine Eq.trans (foldl_frame (fun _ _ => ?_) _ _) ?_
    | split
    | refine Eq.trans (takeFree_frame_of h_free ‹_›) ?_
    | dsimp only
    | with_reducible rfl

theorem debugGo_frame (h_regs : Blind.regs φ) (h_seq : Blind.seq φ) (h_out : Blind.out φ) (h_hiLatch : Blind.hiLatch φ) (h_commitLatch : Blind.commitLatch φ) (h_rigs : Blind.rigs φ) (h_treads : Blind.treads φ) (h_chans : Blind.chans φ) (h_flights : Blind.flights φ) (h_stages : Blind.stages φ) (h_ctxs : Blind.ctxs φ) (h_landings : Blind.landings φ) (h_mem : Blind.mem φ) (h_memCheck : Blind.memCheck φ) (h_memEpoch : Blind.memEpoch φ) (h_memKey : Blind.memKey φ) (h_ucs : Blind.ucs φ) (h_ropes : Blind.ropes φ) (h_fabric : Blind.fabric φ) (h_rings : Blind.rings φ) (h_svcs : Blind.svcs φ) (h_journal : Blind.journal φ) (h_sec : Blind.sec φ) (h_det : Blind.det φ) (port write : Bool) (addr len : Nat) (data : List Byte) (bad : Tbl Nat) (s : State) :
    φ (debugGo port write addr len data bad s) = φ s := by
  unfold debugGo
  repeat' first
    | simp only [fabAccess_frame h_regs h_seq h_out h_hiLatch h_commitLatch h_rigs h_treads h_chans h_flights h_stages h_ctxs h_landings h_mem h_memCheck h_memEpoch h_memKey h_ucs h_ropes h_fabric h_rings h_svcs h_journal h_sec h_det, fabReply_frame h_regs h_seq h_out h_ropes h_rings h_journal h_sec h_det, set_frame h_regs]
    | split
    | dsimp only
    | with_reducible rfl

end Sys2Proof.Laws
end

