-- ==== Sys2Proof/Laws/UndercroftFrame.lean ====
section
/-!
SUPPORT. Frames of the operations of Sys2Proof/Machine/Undercroft.lean: what none of them writes stays as it was.
-/
namespace Sys2Proof.Laws
open Machine Machine.State

set_option linter.unusedSimpArgs false
set_option linter.unusedTactic false
set_option linter.unreachableTactic false
set_option linter.unusedVariables false

variable {α : Type} {φ : State → α}

theorem ucStop_frame (h_regs : Blind.regs φ) (h_seq : Blind.seq φ) (h_out : Blind.out φ) (h_rigs : Blind.rigs φ) (h_ropes : Blind.ropes φ) (h_rings : Blind.rings φ) (h_svcs : Blind.svcs φ) (h_det : Blind.det φ) (u : Nat) (conv : Bool) (code tag p : Nat) (s : State) :
    φ (ucStop u conv code tag p s) = φ s := by
  unfold ucStop
  repeat' first
    | simp only [programFault_frame h_regs h_out h_rigs h_ropes h_svcs, raise_frame h_regs h_seq h_rings h_det, set_frame h_regs]
    | split
    | dsimp only
    | with_reducible rfl

theorem ucHold_frame (h_regs : Blind.regs φ) (h_ucs : Blind.ucs φ) (u p kind : Nat) (s : State) :
    φ (ucHold u p kind s) = φ s := by
  unfold ucHold
  repeat' first
    | simp only [set_frame h_regs, setUc_frame h_ucs]
    | split
    | dsimp only
    | with_reducible rfl

theorem ucFail_frame (h_regs : Blind.regs φ) (h_seq : Blind.seq φ) (h_out : Blind.out φ) (h_rigs : Blind.rigs φ) (h_ucs : Blind.ucs φ) (h_ropes : Blind.ropes φ) (h_rings : Blind.rings φ) (h_svcs : Blind.svcs φ) (h_det : Blind.det φ) (u : Nat) (conv : Bool) (status tag p : Nat) (s : State) :
    φ (ucFail u conv status tag p s) = φ s := by
  unfold ucFail
  repeat' first
    | simp only [ucHold_frame h_regs h_ucs, ucStop_frame h_regs h_seq h_out h_rigs h_ropes h_rings h_svcs h_det]
    | split
    | dsimp only
    | with_reducible rfl

theorem ucRead_frame (h_regs : Blind.regs φ) (h_seq : Blind.seq φ) (h_out : Blind.out φ) (h_hiLatch : Blind.hiLatch φ) (h_commitLatch : Blind.commitLatch φ) (h_rigs : Blind.rigs φ) (h_treads : Blind.treads φ) (h_flights : Blind.flights φ) (h_ctxs : Blind.ctxs φ) (h_landings : Blind.landings φ) (h_mem : Blind.mem φ) (h_memCheck : Blind.memCheck φ) (h_memEpoch : Blind.memEpoch φ) (h_memKey : Blind.memKey φ) (h_ucs : Blind.ucs φ) (h_ropes : Blind.ropes φ) (h_fabric : Blind.fabric φ) (h_rings : Blind.rings φ) (h_svcs : Blind.svcs φ) (h_journal : Blind.journal φ) (h_sec : Blind.sec φ) (h_det : Blind.det φ) (u p : Nat) (bad : Tbl Nat) (far : Nat × List Byte) (addr n : Nat) (s : State) :
    φ (ucRead u p bad far addr n s).2.2 = φ s := by
  unfold ucRead
  repeat' first
    | simp only [engRead_frame h_regs h_seq h_out h_rigs h_treads h_flights h_ctxs h_landings h_mem h_memCheck h_memEpoch h_memKey h_ucs h_ropes h_fabric h_rings h_svcs h_journal h_sec h_det, fabError_frame h_regs h_seq h_rings h_det, readReg_frame h_regs h_seq h_hiLatch h_commitLatch h_rings h_journal h_sec h_det]
    | split
    | refine Eq.trans (engRead_frame_of h_regs h_seq h_out h_rigs h_treads h_flights h_ctxs h_landings h_mem h_memCheck h_memEpoch h_memKey h_ucs h_ropes h_fabric h_rings h_svcs h_journal h_sec h_det ‹_›) ?_
    | refine Eq.trans (readReg_frame_of h_regs h_seq h_hiLatch h_commitLatch h_rings h_journal h_sec h_det ‹_›) ?_
    | dsimp only
    | with_reducible rfl

theorem ucRead_frame_of (h_regs : Blind.regs φ) (h_seq : Blind.seq φ) (h_out : Blind.out φ) (h_hiLatch : Blind.hiLatch φ) (h_commitLatch : Blind.commitLatch φ) (h_rigs : Blind.rigs φ) (h_treads : Blind.treads φ) (h_flights : Blind.flights φ) (h_ctxs : Blind.ctxs φ) (h_landings : Blind.landings φ) (h_mem : Blind.mem φ) (h_memCheck : Blind.memCheck φ) (h_memEpoch : Blind.memEpoch φ) (h_memKey : Blind.memKey φ) (h_ucs : Blind.ucs φ) (h_ropes : Blind.ropes φ) (h_fabric : Blind.fabric φ) (h_rings : Blind.rings φ) (h_svcs : Blind.svcs φ) (h_journal : Blind.journal φ) (h_sec : Blind.sec φ) (h_det : Blind.det φ) {u : Nat} {p : Nat} {bad : Tbl Nat} {far : Nat × List Byte} {addr : Nat} {n : Nat} {s : State} {t' : State} {x0 x1}
    (h' : ucRead u p bad far addr n s = (x0, x1, t')) : φ t' = φ s := by
  rw [← ucRead_frame h_regs h_seq h_out h_hiLatch h_commitLatch h_rigs h_treads h_flights h_ctxs h_landings h_mem h_memCheck h_memEpoch h_memKey h_ucs h_ropes h_fabric h_rings h_svcs h_journal h_sec h_det u p bad far addr n s, h']

theorem ucWrite_frame (h_regs : Blind.regs φ) (h_seq : Blind.seq φ) (h_out : Blind.out φ) (h_rigs : Blind.rigs φ) (h_treads : Blind.treads φ) (h_chans : Blind.chans φ) (h_flights : Blind.flights φ) (h_stages : Blind.stages φ) (h_ctxs : Blind.ctxs φ) (h_landings : Blind.landings φ) (h_mem : Blind.mem φ) (h_memCheck : Blind.memCheck φ) (h_memEpoch : Blind.memEpoch φ) (h_memKey : Blind.memKey φ) (h_ucs : Blind.ucs φ) (h_ropes : Blind.ropes φ) (h_fabric : Blind.fabric φ) (h_rings : Blind.rings φ) (h_svcs : Blind.svcs φ) (h_journal : Blind.journal φ) (h_sec : Blind.sec φ) (h_det : Blind.det φ) (u p : Nat) (bad : Tbl Nat) (far addr : Nat) (l : List Byte) (s : State) :
    φ (ucWrite u p bad far addr l s).2 = φ s := by
  unfold ucWrite
  repeat' first
    | simp only [ctlWrite_frame h_regs h_seq h_out h_rigs h_treads h_chans h_flights h_stages h_landings h_ucs h_ropes h_rings h_svcs h_journal h_det, engWrite_frame h_regs h_seq h_out h_rigs h_treads h_flights h_ctxs h_landings h_mem h_memCheck h_memEpoch h_memKey h_ucs h_ropes h_fabric h_rings h_svcs h_journal h_sec h_det, fabError_frame h_regs h_seq h_rings h_det]
    | split
    | refine Eq.trans (engWrite_frame_of h_regs h_seq h_out h_rigs h_treads h_flights h_ctxs h_landings h_mem h_memCheck h_memEpoch h_memKey h_ucs h_ropes h_fabric h_rings h_svcs h_journal h_sec h_det ‹_›) ?_
    | dsimp only
    | with_reducible rfl

theorem ucWrite_frame_of (h_regs : Blind.regs φ) (h_seq : Blind.seq φ) (h_out : Blind.out φ) (h_rigs : Blind.rigs φ) (h_treads : Blind.treads φ) (h_chans : Blind.chans φ) (h_flights : Blind.flights φ) (h_stages : Blind.stages φ) (h_ctxs : Blind.ctxs φ) (h_landings : Blind.landings φ) (h_mem : Blind.mem φ) (h_memCheck : Blind.memCheck φ) (h_memEpoch : Blind.memEpoch φ) (h_memKey : Blind.memKey φ) (h_ucs : Blind.ucs φ) (h_ropes : Blind.ropes φ) (h_fabric : Blind.fabric φ) (h_rings : Blind.rings φ) (h_svcs : Blind.svcs φ) (h_journal : Blind.journal φ) (h_sec : Blind.sec φ) (h_det : Blind.det φ) {u : Nat} {p : Nat} {bad : Tbl Nat} {far : Nat} {addr : Nat} {l : List Byte} {s : State} {t' : State} {x0}
    (h' : ucWrite u p bad far addr l s = (x0, t')) : φ t' = φ s := by
  rw [← ucWrite_frame h_regs h_seq h_out h_rigs h_treads h_chans h_flights h_stages h_ctxs h_landings h_mem h_memCheck h_memEpoch h_memKey h_ucs h_ropes h_fabric h_rings h_svcs h_journal h_sec h_det u p bad far addr l s, h']

theorem ucComplete_frame (h_regs : Blind.regs φ) (h_seq : Blind.seq φ) (h_out : Blind.out φ) (h_rigs : Blind.rigs φ) (h_treads : Blind.treads φ) (h_chans : Blind.chans φ) (h_flights : Blind.flights φ) (h_stages : Blind.stages φ) (h_ctxs : Blind.ctxs φ) (h_landings : Blind.landings φ) (h_mem : Blind.mem φ) (h_memCheck : Blind.memCheck φ) (h_memEpoch : Blind.memEpoch φ) (h_memKey : Blind.memKey φ) (h_ucs : Blind.ucs φ) (h_ropes : Blind.ropes φ) (h_fabric : Blind.fabric φ) (h_rings : Blind.rings φ) (h_svcs : Blind.svcs φ) (h_journal : Blind.journal φ) (h_sec : Blind.sec φ) (h_det : Blind.det φ) (u : Nat) (conv : Bool) (p cpl tag : Nat) (bad : Tbl Nat) (far : Nat) (s : State) :
    φ (ucComplete u conv p cpl tag bad far s).2 = φ s := by
  unfold ucComplete
  repeat' first
    | simp only [ucFail_frame h_regs h_seq h_out h_rigs h_ucs h_ropes h_rings h_svcs h_det, ucWrite_frame h_regs h_seq h_out h_rigs h_treads h_chans h_flights h_stages h_ctxs h_landings h_mem h_memCheck h_memEpoch h_memKey h_ucs h_ropes h_fabric h_rings h_svcs h_journal h_sec h_det]
    | split
    | refine Eq.trans (ucWrite_frame_of h_regs h_seq h_out h_rigs h_treads h_chans h_flights h_stages h_ctxs h_landings h_mem h_memCheck h_memEpoch h_memKey h_ucs h_ropes h_fabric h_rings h_svcs h_journal h_sec h_det ‹_›) ?_
    | dsimp only
    | with_reducible rfl

theorem ucComplete_frame_of (h_regs : Blind.regs φ) (h_seq : Blind.seq φ) (h_out : Blind.out φ) (h_rigs : Blind.rigs φ) (h_treads : Blind.treads φ) (h_chans : Blind.chans φ) (h_flights : Blind.flights φ) (h_stages : Blind.stages φ) (h_ctxs : Blind.ctxs φ) (h_landings : Blind.landings φ) (h_mem : Blind.mem φ) (h_memCheck : Blind.memCheck φ) (h_memEpoch : Blind.memEpoch φ) (h_memKey : Blind.memKey φ) (h_ucs : Blind.ucs φ) (h_ropes : Blind.ropes φ) (h_fabric : Blind.fabric φ) (h_rings : Blind.rings φ) (h_svcs : Blind.svcs φ) (h_journal : Blind.journal φ) (h_sec : Blind.sec φ) (h_det : Blind.det φ) {u : Nat} {conv : Bool} {p : Nat} {cpl : Nat} {tag : Nat} {bad : Tbl Nat} {far : Nat} {s : State} {t' : State} {x0}
    (h' : ucComplete u conv p cpl tag bad far s = (x0, t')) : φ t' = φ s := by
  rw [← ucComplete_frame h_regs h_seq h_out h_rigs h_treads h_chans h_flights h_stages h_ctxs h_landings h_mem h_memCheck h_memEpoch h_memKey h_ucs h_ropes h_fabric h_rings h_svcs h_journal h_sec h_det u conv p cpl tag bad far s, h']

theorem readRows_frame (h_regs : Blind.regs φ) (h_seq : Blind.seq φ) (h_out : Blind.out φ) (h_rigs : Blind.rigs φ) (h_memCheck : Blind.memCheck φ) (h_ucs : Blind.ucs φ) (h_ropes : Blind.ropes φ) (h_rings : Blind.rings φ) (h_svcs : Blind.svcs φ) (h_journal : Blind.journal φ) (h_sec : Blind.sec φ) (h_det : Blind.det φ) (bad : Tbl Nat) (h : TblHdr) (o : Nat) (l : List Nat) (s : State) :
    φ (readRows bad h o l s).2 = φ s := by
  induction l generalizing s with
  | nil => unfold readRows; rfl
  | cons r l ih =>
    have h0 := memRead_frame h_regs h_seq h_out h_rigs h_memCheck h_ucs h_ropes h_rings h_svcs h_journal h_sec h_det .engine bad (h.rowAt o r) h.rowBytes s
    unfold readRows
    rcases e : memRead .engine bad (h.rowAt o r) h.rowBytes s with ⟨_ | b, s1⟩ <;> rw [e] at h0
    · exact h0
    · have h2 := ih s1
      dsimp only
      rcases e1 : readRows bad h o l s1 with ⟨_ | bs, s2⟩ <;> rw [e1] at h2 <;> exact h2.trans h0

theorem readRows_frame_of (h_regs : Blind.regs φ) (h_seq : Blind.seq φ) (h_out : Blind.out φ) (h_rigs : Blind.rigs φ) (h_memCheck : Blind.memCheck φ) (h_ucs : Blind.ucs φ) (h_ropes : Blind.ropes φ) (h_rings : Blind.rings φ) (h_svcs : Blind.svcs φ) (h_journal : Blind.journal φ) (h_sec : Blind.sec φ) (h_det : Blind.det φ) {bad : Tbl Nat} {h : TblHdr} {o : Nat} {l : List Nat} {s t' : State} {x0}
    (h' : readRows bad h o l s = (x0, t')) : φ t' = φ s := by
  rw [← readRows_frame h_regs h_seq h_out h_rigs h_memCheck h_ucs h_ropes h_rings h_svcs h_journal h_sec h_det bad h o l s, h']

theorem writeBags_frame (h_regs : Blind.regs φ) (h_seq : Blind.seq φ) (h_out : Blind.out φ) (h_rigs : Blind.rigs φ) (h_treads : Blind.treads φ) (h_chans : Blind.chans φ) (h_flights : Blind.flights φ) (h_stages : Blind.stages φ) (h_ctxs : Blind.ctxs φ) (h_landings : Blind.landings φ) (h_mem : Blind.mem φ) (h_memCheck : Blind.memCheck φ) (h_memEpoch : Blind.memEpoch φ) (h_memKey : Blind.memKey φ) (h_ucs : Blind.ucs φ) (h_ropes : Blind.ropes φ) (h_fabric : Blind.fabric φ) (h_rings : Blind.rings φ) (h_svcs : Blind.svcs φ) (h_journal : Blind.journal φ) (h_sec : Blind.sec φ) (h_det : Blind.det φ) (u p : Nat) (bad : Tbl Nat) (far : Nat) (g : Gather) (seed dim : Nat) (a0 : List (List Nat × Nat)) (s : State) :
    φ (writeBags u p bad far g seed dim a0 s).2 = φ s := by
  induction a0 generalizing s with
  | nil => unfold writeBags; rfl
  | cons x r ih =>
    unfold writeBags
    repeat' first
      | simp only [ucFail_frame h_regs h_seq h_out h_rigs h_ucs h_ropes h_rings h_svcs h_det, ucWrite_frame h_regs h_seq h_out h_rigs h_treads h_chans h_flights h_stages h_ctxs h_landings h_mem h_memCheck h_memEpoch h_memKey h_ucs h_ropes h_fabric h_rings h_svcs h_journal h_sec h_det, ih]
      | split
      | refine Eq.trans (ucWrite_frame_of h_regs h_seq h_out h_rigs h_treads h_chans h_flights h_stages h_ctxs h_landings h_mem h_memCheck h_memEpoch h_memKey h_ucs h_ropes h_fabric h_rings h_svcs h_journal h_sec h_det ‹_›) ?_
      | dsimp only
      | with_reducible rfl

theorem writeBags_frame_of (h_regs : Blind.regs φ) (h_seq : Blind.seq φ) (h_out : Blind.out φ) (h_rigs : Blind.rigs φ) (h_treads : Blind.treads φ) (h_chans : Blind.chans φ) (h_flights : Blind.flights φ) (h_stages : Blind.stages φ) (h_ctxs : Blind.ctxs φ) (h_landings : Blind.landings φ) (h_mem : Blind.mem φ) (h_memCheck : Blind.memCheck φ) (h_memEpoch : Blind.memEpoch φ) (h_memKey : Blind.memKey φ) (h_ucs : Blind.ucs φ) (h_ropes : Blind.ropes φ) (h_fabric : Blind.fabric φ) (h_rings : Blind.rings φ) (h_svcs : Blind.svcs φ) (h_journal : Blind.journal φ) (h_sec : Blind.sec φ) (h_det : Blind.det φ) {u : Nat} {p : Nat} {bad : Tbl Nat} {far : Nat} {g : Gather} {seed : Nat} {dim : Nat} {a0 : List (List Nat × Nat)} {s : State} {t' : State} {x0}
    (h' : writeBags u p bad far g seed dim a0 s = (x0, t')) : φ t' = φ s := by
  rw [← writeBags_frame h_regs h_seq h_out h_rigs h_treads h_chans h_flights h_stages h_ctxs h_landings h_mem h_memCheck h_memEpoch h_memKey h_ucs h_ropes h_fabric h_rings h_svcs h_journal h_sec h_det u p bad far g seed dim a0 s, h']

theorem countGather_frame (h_gathers : Blind.gathers φ) (p table step : Nat) (s : State) :
    φ (countGather p table step s) = φ s := by
  unfold countGather
  repeat' first
    | simp only [h_gathers.eq]
    | split
    | dsimp only
    | with_reducible rfl

theorem endGather_frame (h_ucs : Blind.ucs φ) (h_gathers : Blind.gathers φ) (u p : Nat) (d : List Nat) (g : Gather) (s : State) :
    φ (endGather u p d g s) = φ s := by
  unfold endGather
  repeat' first
    | simp only [countGather_frame h_gathers, setUc_frame h_ucs]
    | split
    | dsimp only
    | with_reducible rfl

theorem gatherOut_frame (h_regs : Blind.regs φ) (h_seq : Blind.seq φ) (h_out : Blind.out φ) (h_rigs : Blind.rigs φ) (h_treads : Blind.treads φ) (h_chans : Blind.chans φ) (h_flights : Blind.flights φ) (h_stages : Blind.stages φ) (h_ctxs : Blind.ctxs φ) (h_landings : Blind.landings φ) (h_mem : Blind.mem φ) (h_memCheck : Blind.memCheck φ) (h_memEpoch : Blind.memEpoch φ) (h_memKey : Blind.memKey φ) (h_ucs : Blind.ucs φ) (h_gathers : Blind.gathers φ) (h_ropes : Blind.ropes φ) (h_fabric : Blind.fabric φ) (h_rings : Blind.rings φ) (h_svcs : Blind.svcs φ) (h_journal : Blind.journal φ) (h_sec : Blind.sec φ) (h_det : Blind.det φ) (u p : Nat) (d offs ws : List Nat) (rows : List (List Nat)) (bad : Tbl Nat) (farOut : Nat) (s : State) :
    φ (gatherOut u p d offs ws rows bad farOut s) = φ s := by
  unfold gatherOut
  repeat' first
    | simp -zeta only [endGather_frame h_ucs h_gathers, holdScratch_frame h_ucs, ucComplete_frame h_regs h_seq h_out h_rigs h_treads h_chans h_flights h_stages h_ctxs h_landings h_mem h_memCheck h_memEpoch h_memKey h_ucs h_ropes h_fabric h_rings h_svcs h_journal h_sec h_det, writeBags_frame h_regs h_seq h_out h_rigs h_treads h_chans h_flights h_stages h_ctxs h_landings h_mem h_memCheck h_memEpoch h_memKey h_ucs h_ropes h_fabric h_rings h_svcs h_journal h_sec h_det]
    | split
    | refine Eq.trans (ucComplete_frame_of h_regs h_seq h_out h_rigs h_treads h_chans h_flights h_stages h_ctxs h_landings h_mem h_memCheck h_memEpoch h_memKey h_ucs h_ropes h_fabric h_rings h_svcs h_journal h_sec h_det ‹_›) ?_
    | refine Eq.trans (writeBags_frame_of h_regs h_seq h_out h_rigs h_treads h_chans h_flights h_stages h_ctxs h_landings h_mem h_memCheck h_memEpoch h_memKey h_ucs h_ropes h_fabric h_rings h_svcs h_journal h_sec h_det ‹_›) ?_
    | extract_lets
    | simp +zetaDelta only [endGather_frame h_ucs h_gathers, holdScratch_frame h_ucs, ucComplete_frame h_regs h_seq h_out h_rigs h_treads h_chans h_flights h_stages h_ctxs h_landings h_mem h_memCheck h_memEpoch h_memKey h_ucs h_ropes h_fabric h_rings h_svcs h_journal h_sec h_det, writeBags_frame h_regs h_seq h_out h_rigs h_treads h_chans h_flights h_stages h_ctxs h_landings h_mem h_memCheck h_memEpoch h_memKey h_ucs h_ropes h_fabric h_rings h_svcs h_journal h_sec h_det]
    | with_reducible rfl

theorem readOffsets_frame (h_regs : Blind.regs φ) (h_seq : Blind.seq φ) (h_out : Blind.out φ) (h_hiLatch : Blind.hiLatch φ) (h_commitLatch : Blind.commitLatch φ) (h_rigs : Blind.rigs φ) (h_treads : Blind.treads φ) (h_flights : Blind.flights φ) (h_ctxs : Blind.ctxs φ) (h_landings : Blind.landings φ) (h_mem : Blind.mem φ) (h_memCheck : Blind.memCheck φ) (h_memEpoch : Blind.memEpoch φ) (h_memKey : Blind.memKey φ) (h_ucs : Blind.ucs φ) (h_ropes : Blind.ropes φ) (h_fabric : Blind.fabric φ) (h_rings : Blind.rings φ) (h_svcs : Blind.svcs φ) (h_journal : Blind.journal φ) (h_sec : Blind.sec φ) (h_det : Blind.det φ) (u p : Nat) (g : Gather) (bad : Tbl Nat) (far : List (Nat × List Byte)) (s : State) :
    φ (readOffsets u p g bad far s).2.2 = φ s := by
  unfold readOffsets
  repeat' first
    | simp only [ucRead_frame h_regs h_seq h_out h_hiLatch h_commitLatch h_rigs h_treads h_flights h_ctxs h_landings h_mem h_memCheck h_memEpoch h_memKey h_ucs h_ropes h_fabric h_rings h_svcs h_journal h_sec h_det]
    | split
    | refine Eq.trans (ucRead_frame_of h_regs h_seq h_out h_hiLatch h_commitLatch h_rigs h_treads h_flights h_ctxs h_landings h_mem h_memCheck h_memEpoch h_memKey h_ucs h_ropes h_fabric h_rings h_svcs h_journal h_sec h_det ‹_›) ?_
    | dsimp only
    | with_reducible rfl

theorem readOffsets_frame_of (h_regs : Blind.regs φ) (h_seq : Blind.seq φ) (h_out : Blind.out φ) (h_hiLatch : Blind.hiLatch φ) (h_commitLatch : Blind.commitLatch φ) (h_rigs : Blind.rigs φ) (h_treads : Blind.treads φ) (h_flights : Blind.flights φ) (h_ctxs : Blind.ctxs φ) (h_landings : Blind.landings φ) (h_mem : Blind.mem φ) (h_memCheck : Blind.memCheck φ) (h_memEpoch : Blind.memEpoch φ) (h_memKey : Blind.memKey φ) (h_ucs : Blind.ucs φ) (h_ropes : Blind.ropes φ) (h_fabric : Blind.fabric φ) (h_rings : Blind.rings φ) (h_svcs : Blind.svcs φ) (h_journal : Blind.journal φ) (h_sec : Blind.sec φ) (h_det : Blind.det φ) {u : Nat} {p : Nat} {g : Gather} {bad : Tbl Nat} {far : List (Nat × List Byte)} {s : State} {t' : State} {x0 x1}
    (h' : readOffsets u p g bad far s = (x0, x1, t')) : φ t' = φ s := by
  rw [← readOffsets_frame h_regs h_seq h_out h_hiLatch h_commitLatch h_rigs h_treads h_flights h_ctxs h_landings h_mem h_memCheck h_memEpoch h_memKey h_ucs h_ropes h_fabric h_rings h_svcs h_journal h_sec h_det u p g bad far s, h']

theorem readIndices_frame (h_regs : Blind.regs φ) (h_seq : Blind.seq φ) (h_out : Blind.out φ) (h_hiLatch : Blind.hiLatch φ) (h_commitLatch : Blind.commitLatch φ) (h_rigs : Blind.rigs φ) (h_treads : Blind.treads φ) (h_flights : Blind.flights φ) (h_ctxs : Blind.ctxs φ) (h_landings : Blind.landings φ) (h_mem : Blind.mem φ) (h_memCheck : Blind.memCheck φ) (h_memEpoch : Blind.memEpoch φ) (h_memKey : Blind.memKey φ) (h_ucs : Blind.ucs φ) (h_ropes : Blind.ropes φ) (h_fabric : Blind.fabric φ) (h_rings : Blind.rings φ) (h_svcs : Blind.svcs φ) (h_journal : Blind.journal φ) (h_sec : Blind.sec φ) (h_det : Blind.det φ) (u p : Nat) (g : Gather) (first n : Nat) (bad : Tbl Nat) (far : List (Nat × List Byte)) (s : State) :
    φ (readIndices u p g first n bad far s).2.2 = φ s := by
  unfold readIndices
  repeat' first
    | simp only [ucRead_frame h_regs h_seq h_out h_hiLatch h_commitLatch h_rigs h_treads h_flights h_ctxs h_landings h_mem h_memCheck h_memEpoch h_memKey h_ucs h_ropes h_fabric h_rings h_svcs h_journal h_sec h_det]
    | split
    | refine Eq.trans (ucRead_frame_of h_regs h_seq h_out h_hiLatch h_commitLatch h_rigs h_treads h_flights h_ctxs h_landings h_mem h_memCheck h_memEpoch h_memKey h_ucs h_ropes h_fabric h_rings h_svcs h_journal h_sec h_det ‹_›) ?_
    | dsimp only
    | with_reducible rfl

theorem readIndices_frame_of (h_regs : Blind.regs φ) (h_seq : Blind.seq φ) (h_out : Blind.out φ) (h_hiLatch : Blind.hiLatch φ) (h_commitLatch : Blind.commitLatch φ) (h_rigs : Blind.rigs φ) (h_treads : Blind.treads φ) (h_flights : Blind.flights φ) (h_ctxs : Blind.ctxs φ) (h_landings : Blind.landings φ) (h_mem : Blind.mem φ) (h_memCheck : Blind.memCheck φ) (h_memEpoch : Blind.memEpoch φ) (h_memKey : Blind.memKey φ) (h_ucs : Blind.ucs φ) (h_ropes : Blind.ropes φ) (h_fabric : Blind.fabric φ) (h_rings : Blind.rings φ) (h_svcs : Blind.svcs φ) (h_journal : Blind.journal φ) (h_sec : Blind.sec φ) (h_det : Blind.det φ) {u : Nat} {p : Nat} {g : Gather} {first : Nat} {n : Nat} {bad : Tbl Nat} {far : List (Nat × List Byte)} {s : State} {t' : State} {x0 x1}
    (h' : readIndices u p g first n bad far s = (x0, x1, t')) : φ t' = φ s := by
  rw [← readIndices_frame h_regs h_seq h_out h_hiLatch h_commitLatch h_rigs h_treads h_flights h_ctxs h_landings h_mem h_memCheck h_memEpoch h_memKey h_ucs h_ropes h_fabric h_rings h_svcs h_journal h_sec h_det u p g first n bad far s, h']

theorem readWeights_frame (h_regs : Blind.regs φ) (h_seq : Blind.seq φ) (h_out : Blind.out φ) (h_hiLatch : Blind.hiLatch φ) (h_commitLatch : Blind.commitLatch φ) (h_rigs : Blind.rigs φ) (h_treads : Blind.treads φ) (h_flights : Blind.flights φ) (h_ctxs : Blind.ctxs φ) (h_landings : Blind.landings φ) (h_mem : Blind.mem φ) (h_memCheck : Blind.memCheck φ) (h_memEpoch : Blind.memEpoch φ) (h_memKey : Blind.memKey φ) (h_ucs : Blind.ucs φ) (h_ropes : Blind.ropes φ) (h_fabric : Blind.fabric φ) (h_rings : Blind.rings φ) (h_svcs : Blind.svcs φ) (h_journal : Blind.journal φ) (h_sec : Blind.sec φ) (h_det : Blind.det φ) (u p : Nat) (g : Gather) (first n : Nat) (bad : Tbl Nat) (far : List (Nat × List Byte)) (s : State) :
    φ (readWeights u p g first n bad far s).2.2 = φ s := by
  unfold readWeights
  repeat' first
    | simp only [ucRead_frame h_regs h_seq h_out h_hiLatch h_commitLatch h_rigs h_treads h_flights h_ctxs h_landings h_mem h_memCheck h_memEpoch h_memKey h_ucs h_ropes h_fabric h_rings h_svcs h_journal h_sec h_det]
    | split
    | refine Eq.trans (ucRead_frame_of h_regs h_seq h_out h_hiLatch h_commitLatch h_rigs h_treads h_flights h_ctxs h_landings h_mem h_memCheck h_memEpoch h_memKey h_ucs h_ropes h_fabric h_rings h_svcs h_journal h_sec h_det ‹_›) ?_
    | dsimp only
    | with_reducible rfl

theorem readWeights_frame_of (h_regs : Blind.regs φ) (h_seq : Blind.seq φ) (h_out : Blind.out φ) (h_hiLatch : Blind.hiLatch φ) (h_commitLatch : Blind.commitLatch φ) (h_rigs : Blind.rigs φ) (h_treads : Blind.treads φ) (h_flights : Blind.flights φ) (h_ctxs : Blind.ctxs φ) (h_landings : Blind.landings φ) (h_mem : Blind.mem φ) (h_memCheck : Blind.memCheck φ) (h_memEpoch : Blind.memEpoch φ) (h_memKey : Blind.memKey φ) (h_ucs : Blind.ucs φ) (h_ropes : Blind.ropes φ) (h_fabric : Blind.fabric φ) (h_rings : Blind.rings φ) (h_svcs : Blind.svcs φ) (h_journal : Blind.journal φ) (h_sec : Blind.sec φ) (h_det : Blind.det φ) {u : Nat} {p : Nat} {g : Gather} {first : Nat} {n : Nat} {bad : Tbl Nat} {far : List (Nat × List Byte)} {s : State} {t' : State} {x0 x1}
    (h' : readWeights u p g first n bad far s = (x0, x1, t')) : φ t' = φ s := by
  rw [← readWeights_frame h_regs h_seq h_out h_hiLatch h_commitLatch h_rigs h_treads h_flights h_ctxs h_landings h_mem h_memCheck h_memEpoch h_memKey h_ucs h_ropes h_fabric h_rings h_svcs h_journal h_sec h_det u p g first n bad far s, h']

theorem gatherRows_frame (h_regs : Blind.regs φ) (h_seq : Blind.seq φ) (h_out : Blind.out φ) (h_hiLatch : Blind.hiLatch φ) (h_commitLatch : Blind.commitLatch φ) (h_rigs : Blind.rigs φ) (h_treads : Blind.treads φ) (h_chans : Blind.chans φ) (h_flights : Blind.flights φ) (h_stages : Blind.stages φ) (h_ctxs : Blind.ctxs φ) (h_landings : Blind.landings φ) (h_mem : Blind.mem φ) (h_memCheck : Blind.memCheck φ) (h_memEpoch : Blind.memEpoch φ) (h_memKey : Blind.memKey φ) (h_ucs : Blind.ucs φ) (h_gathers : Blind.gathers φ) (h_ropes : Blind.ropes φ) (h_fabric : Blind.fabric φ) (h_rings : Blind.rings φ) (h_svcs : Blind.svcs φ) (h_journal : Blind.journal φ) (h_sec : Blind.sec φ) (h_det : Blind.det φ) (u p : Nat) (d offs idx : List Nat) (bad : Tbl Nat) (far : List (Nat × List Byte)) (farOut : Nat) (s : State) :
    φ (gatherRows u p d offs idx bad far farOut s) = φ s := by
  unfold gatherRows
  repeat' first
    | simp -zeta only [gatherOut_frame h_regs h_seq h_out h_rigs h_treads h_chans h_flights h_stages h_ctxs h_landings h_mem h_memCheck h_memEpoch h_memKey h_ucs h_gathers h_ropes h_fabric h_rings h_svcs h_journal h_sec h_det, readRows_frame h_regs h_seq h_out h_rigs h_memCheck h_ucs h_ropes h_rings h_svcs h_journal h_sec h_det, readWeights_frame h_regs h_seq h_out h_hiLatch h_commitLatch h_rigs h_treads h_flights h_ctxs h_landings h_mem h_memCheck h_memEpoch h_memKey h_ucs h_ropes h_fabric h_rings h_svcs h_journal h_sec h_det, ucFail_frame h_regs h_seq h_out h_rigs h_ucs h_ropes h_rings h_svcs h_det]
    | split
    | refine Eq.trans (readRows_frame_of h_regs h_seq h_out h_rigs h_memCheck h_ucs h_ropes h_rings h_svcs h_journal h_sec h_det ‹_›) ?_
    | refine Eq.trans (readWeights_frame_of h_regs h_seq h_out h_hiLatch h_commitLatch h_rigs h_treads h_flights h_ctxs h_landings h_mem h_memCheck h_memEpoch h_memKey h_ucs h_ropes h_fabric h_rings h_svcs h_journal h_sec h_det ‹_›) ?_
    | extract_lets
    | simp +zetaDelta only [gatherOut_frame h_regs h_seq h_out h_rigs h_treads h_chans h_flights h_stages h_ctxs h_landings h_mem h_memCheck h_memEpoch h_memKey h_ucs h_gathers h_ropes h_fabric h_rings h_svcs h_journal h_sec h_det, readRows_frame h_regs h_seq h_out h_rigs h_memCheck h_ucs h_ropes h_rings h_svcs h_journal h_sec h_det, readWeights_frame h_regs h_seq h_out h_hiLatch h_commitLatch h_rigs h_treads h_flights h_ctxs h_landings h_mem h_memCheck h_memEpoch h_memKey h_ucs h_ropes h_fabric h_rings h_svcs h_journal h_sec h_det, ucFail_frame h_regs h_seq h_out h_rigs h_ucs h_ropes h_rings h_svcs h_det]
    | with_reducible rfl

theorem gatherIndices_frame (h_regs : Blind.regs φ) (h_seq : Blind.seq φ) (h_out : Blind.out φ) (h_hiLatch : Blind.hiLatch φ) (h_commitLatch : Blind.commitLatch φ) (h_rigs : Blind.rigs φ) (h_treads : Blind.treads φ) (h_chans : Blind.chans φ) (h_flights : Blind.flights φ) (h_stages : Blind.stages φ) (h_ctxs : Blind.ctxs φ) (h_landings : Blind.landings φ) (h_mem : Blind.mem φ) (h_memCheck : Blind.memCheck φ) (h_memEpoch : Blind.memEpoch φ) (h_memKey : Blind.memKey φ) (h_ucs : Blind.ucs φ) (h_gathers : Blind.gathers φ) (h_ropes : Blind.ropes φ) (h_fabric : Blind.fabric φ) (h_rings : Blind.rings φ) (h_svcs : Blind.svcs φ) (h_journal : Blind.journal φ) (h_sec : Blind.sec φ) (h_det : Blind.det φ) (u p : Nat) (d offs : List Nat) (bad : Tbl Nat) (far : List (Nat × List Byte)) (farOut : Nat) (s : State) :
    φ (gatherIndices u p d offs bad far farOut s) = φ s := by
  unfold gatherIndices
  repeat' first
    | simp -zeta only [gatherRows_frame h_regs h_seq h_out h_hiLatch h_commitLatch h_rigs h_treads h_chans h_flights h_stages h_ctxs h_landings h_mem h_memCheck h_memEpoch h_memKey h_ucs h_gathers h_ropes h_fabric h_rings h_svcs h_journal h_sec h_det, readIndices_frame h_regs h_seq h_out h_hiLatch h_commitLatch h_rigs h_treads h_flights h_ctxs h_landings h_mem h_memCheck h_memEpoch h_memKey h_ucs h_ropes h_fabric h_rings h_svcs h_journal h_sec h_det, ucFail_frame h_regs h_seq h_out h_rigs h_ucs h_ropes h_rings h_svcs h_det, ucStop_frame h_regs h_seq h_out h_rigs h_ropes h_rings h_svcs h_det]
    | split
    | refine Eq.trans (readIndices_frame_of h_regs h_seq h_out h_hiLatch h_commitLatch h_rigs h_treads h_flights h_ctxs h_landings h_mem h_memCheck h_memEpoch h_memKey h_ucs h_ropes h_fabric h_rings h_svcs h_journal h_sec h_det ‹_›) ?_
    | extract_lets
    | simp +zetaDelta only [gatherRows_frame h_regs h_seq h_out h_hiLatch h_commitLatch h_rigs h_treads h_chans h_flights h_stages h_ctxs h_landings h_mem h_memCheck h_memEpoch h_memKey h_ucs h_gathers h_ropes h_fabric h_rings h_svcs h_journal h_sec h_det, readIndices_frame h_regs h_seq h_out h_hiLatch h_commitLatch h_rigs h_treads h_flights h_ctxs h_landings h_mem h_memCheck h_memEpoch h_memKey h_ucs h_ropes h_fabric h_rings h_svcs h_journal h_sec h_det, ucFail_frame h_regs h_seq h_out h_rigs h_ucs h_ropes h_rings h_svcs h_det, ucStop_frame h_regs h_seq h_out h_rigs h_ropes h_rings h_svcs h_det]
    | with_reducible rfl

theorem gatherOffsets_frame (h_regs : Blind.regs φ) (h_seq : Blind.seq φ) (h_out : Blind.out φ) (h_hiLatch : Blind.hiLatch φ) (h_commitLatch : Blind.commitLatch φ) (h_rigs : Blind.rigs φ) (h_treads : Blind.treads φ) (h_chans : Blind.chans φ) (h_flights : Blind.flights φ) (h_stages : Blind.stages φ) (h_ctxs : Blind.ctxs φ) (h_landings : Blind.landings φ) (h_mem : Blind.mem φ) (h_memCheck : Blind.memCheck φ) (h_memEpoch : Blind.memEpoch φ) (h_memKey : Blind.memKey φ) (h_ucs : Blind.ucs φ) (h_gathers : Blind.gathers φ) (h_ropes : Blind.ropes φ) (h_fabric : Blind.fabric φ) (h_rings : Blind.rings φ) (h_svcs : Blind.svcs φ) (h_journal : Blind.journal φ) (h_sec : Blind.sec φ) (h_det : Blind.det φ) (u p : Nat) (d offs : List Nat) (bad : Tbl Nat) (far : List (Nat × List Byte)) (farOut : Nat) (s : State) :
    φ (gatherOffsets u p d offs bad far farOut s) = φ s := by
  unfold gatherOffsets
  repeat' first
    | simp only [gatherIndices_frame h_regs h_seq h_out h_hiLatch h_commitLatch h_rigs h_treads h_chans h_flights h_stages h_ctxs h_landings h_mem h_memCheck h_memEpoch h_memKey h_ucs h_gathers h_ropes h_fabric h_rings h_svcs h_journal h_sec h_det, ucStop_frame h_regs h_seq h_out h_rigs h_ropes h_rings h_svcs h_det]
    | split
    | dsimp only
    | with_reducible rfl

theorem runGather_frame (h_regs : Blind.regs φ) (h_seq : Blind.seq φ) (h_out : Blind.out φ) (h_hiLatch : Blind.hiLatch φ) (h_commitLatch : Blind.commitLatch φ) (h_rigs : Blind.rigs φ) (h_treads : Blind.treads φ) (h_chans : Blind.chans φ) (h_flights : Blind.flights φ) (h_stages : Blind.stages φ) (h_ctxs : Blind.ctxs φ) (h_landings : Blind.landings φ) (h_mem : Blind.mem φ) (h_memCheck : Blind.memCheck φ) (h_memEpoch : Blind.memEpoch φ) (h_memKey : Blind.memKey φ) (h_ucs : Blind.ucs φ) (h_gathers : Blind.gathers φ) (h_ropes : Blind.ropes φ) (h_fabric : Blind.fabric φ) (h_rings : Blind.rings φ) (h_svcs : Blind.svcs φ) (h_journal : Blind.journal φ) (h_sec : Blind.sec φ) (h_det : Blind.det φ) (u p : Nat) (d : List Nat) (bad : Tbl Nat) (far : List (Nat × List Byte)) (farOut : Nat) (s : State) :
    φ (runGather u p d bad far farOut s) = φ s := by
  unfold runGather
  repeat' first
    | simp only [gatherOffsets_frame h_regs h_seq h_out h_hiLatch h_commitLatch h_rigs h_treads h_chans h_flights h_stages h_ctxs h_landings h_mem h_memCheck h_memEpoch h_memKey h_ucs h_gathers h_ropes h_fabric h_rings h_svcs h_journal h_sec h_det, readOffsets_frame h_regs h_seq h_out h_hiLatch h_commitLatch h_rigs h_treads h_flights h_ctxs h_landings h_mem h_memCheck h_memEpoch h_memKey h_ucs h_ropes h_fabric h_rings h_svcs h_journal h_sec h_det, ucFail_frame h_regs h_seq h_out h_rigs h_ucs h_ropes h_rings h_svcs h_det]
    | split
    | refine Eq.trans (readOffsets_frame_of h_regs h_seq h_out h_hiLatch h_commitLatch h_rigs h_treads h_flights h_ctxs h_landings h_mem h_memCheck h_memEpoch h_memKey h_ucs h_ropes h_fabric h_rings h_svcs h_journal h_sec h_det ‹_›) ?_
    | dsimp only
    | with_reducible rfl

theorem readSource_frame (h_regs : Blind.regs φ) (h_seq : Blind.seq φ) (h_out : Blind.out φ) (h_hiLatch : Blind.hiLatch φ) (h_commitLatch : Blind.commitLatch φ) (h_rigs : Blind.rigs φ) (h_treads : Blind.treads φ) (h_flights : Blind.flights φ) (h_ctxs : Blind.ctxs φ) (h_landings : Blind.landings φ) (h_mem : Blind.mem φ) (h_memCheck : Blind.memCheck φ) (h_memEpoch : Blind.memEpoch φ) (h_memKey : Blind.memKey φ) (h_ucs : Blind.ucs φ) (h_ropes : Blind.ropes φ) (h_fabric : Blind.fabric φ) (h_rings : Blind.rings φ) (h_svcs : Blind.svcs φ) (h_journal : Blind.journal φ) (h_sec : Blind.sec φ) (h_det : Blind.det φ) (u p : Nat) (c : Convert) (bad : Tbl Nat) (far : List (Nat × List Byte)) (s : State) :
    φ (readSource u p c bad far s).2.2 = φ s := by
  unfold readSource
  repeat' first
    | simp only [ucRead_frame h_regs h_seq h_out h_hiLatch h_commitLatch h_rigs h_treads h_flights h_ctxs h_landings h_mem h_memCheck h_memEpoch h_memKey h_ucs h_ropes h_fabric h_rings h_svcs h_journal h_sec h_det]
    | split
    | refine Eq.trans (ucRead_frame_of h_regs h_seq h_out h_hiLatch h_commitLatch h_rigs h_treads h_flights h_ctxs h_landings h_mem h_memCheck h_memEpoch h_memKey h_ucs h_ropes h_fabric h_rings h_svcs h_journal h_sec h_det ‹_›) ?_
    | dsimp only
    | with_reducible rfl

theorem readSource_frame_of (h_regs : Blind.regs φ) (h_seq : Blind.seq φ) (h_out : Blind.out φ) (h_hiLatch : Blind.hiLatch φ) (h_commitLatch : Blind.commitLatch φ) (h_rigs : Blind.rigs φ) (h_treads : Blind.treads φ) (h_flights : Blind.flights φ) (h_ctxs : Blind.ctxs φ) (h_landings : Blind.landings φ) (h_mem : Blind.mem φ) (h_memCheck : Blind.memCheck φ) (h_memEpoch : Blind.memEpoch φ) (h_memKey : Blind.memKey φ) (h_ucs : Blind.ucs φ) (h_ropes : Blind.ropes φ) (h_fabric : Blind.fabric φ) (h_rings : Blind.rings φ) (h_svcs : Blind.svcs φ) (h_journal : Blind.journal φ) (h_sec : Blind.sec φ) (h_det : Blind.det φ) {u : Nat} {p : Nat} {c : Convert} {bad : Tbl Nat} {far : List (Nat × List Byte)} {s : State} {t' : State} {x0 x1}
    (h' : readSource u p c bad far s = (x0, x1, t')) : φ t' = φ s := by
  rw [← readSource_frame h_regs h_seq h_out h_hiLatch h_commitLatch h_rigs h_treads h_flights h_ctxs h_landings h_mem h_memCheck h_memEpoch h_memKey h_ucs h_ropes h_fabric h_rings h_svcs h_journal h_sec h_det u p c bad far s, h']

theorem readScales_frame (h_regs : Blind.regs φ) (h_seq : Blind.seq φ) (h_out : Blind.out φ) (h_hiLatch : Blind.hiLatch φ) (h_commitLatch : Blind.commitLatch φ) (h_rigs : Blind.rigs φ) (h_treads : Blind.treads φ) (h_flights : Blind.flights φ) (h_ctxs : Blind.ctxs φ) (h_landings : Blind.landings φ) (h_mem : Blind.mem φ) (h_memCheck : Blind.memCheck φ) (h_memEpoch : Blind.memEpoch φ) (h_memKey : Blind.memKey φ) (h_ucs : Blind.ucs φ) (h_ropes : Blind.ropes φ) (h_fabric : Blind.fabric φ) (h_rings : Blind.rings φ) (h_svcs : Blind.svcs φ) (h_journal : Blind.journal φ) (h_sec : Blind.sec φ) (h_det : Blind.det φ) (u p : Nat) (c : Convert) (bad : Tbl Nat) (far : List (Nat × List Byte)) (s : State) :
    φ (readScales u p c bad far s).2.2 = φ s := by
  unfold readScales
  repeat' first
    | simp only [ucRead_frame h_regs h_seq h_out h_hiLatch h_commitLatch h_rigs h_treads h_flights h_ctxs h_landings h_mem h_memCheck h_memEpoch h_memKey h_ucs h_ropes h_fabric h_rings h_svcs h_journal h_sec h_det]
    | split
    | refine Eq.trans (ucRead_frame_of h_regs h_seq h_out h_hiLatch h_commitLatch h_rigs h_treads h_flights h_ctxs h_landings h_mem h_memCheck h_memEpoch h_memKey h_ucs h_ropes h_fabric h_rings h_svcs h_journal h_sec h_det ‹_›) ?_
    | dsimp only
    | with_reducible rfl

theorem readScales_frame_of (h_regs : Blind.regs φ) (h_seq : Blind.seq φ) (h_out : Blind.out φ) (h_hiLatch : Blind.hiLatch φ) (h_commitLatch : Blind.commitLatch φ) (h_rigs : Blind.rigs φ) (h_treads : Blind.treads φ) (h_flights : Blind.flights φ) (h_ctxs : Blind.ctxs φ) (h_landings : Blind.landings φ) (h_mem : Blind.mem φ) (h_memCheck : Blind.memCheck φ) (h_memEpoch : Blind.memEpoch φ) (h_memKey : Blind.memKey φ) (h_ucs : Blind.ucs φ) (h_ropes : Blind.ropes φ) (h_fabric : Blind.fabric φ) (h_rings : Blind.rings φ) (h_svcs : Blind.svcs φ) (h_journal : Blind.journal φ) (h_sec : Blind.sec φ) (h_det : Blind.det φ) {u : Nat} {p : Nat} {c : Convert} {bad : Tbl Nat} {far : List (Nat × List Byte)} {s : State} {t' : State} {x0 x1}
    (h' : readScales u p c bad far s = (x0, x1, t')) : φ t' = φ s := by
  rw [← readScales_frame h_regs h_seq h_out h_hiLatch h_commitLatch h_rigs h_treads h_flights h_ctxs h_landings h_mem h_memCheck h_memEpoch h_memKey h_ucs h_ropes h_fabric h_rings h_svcs h_journal h_sec h_det u p c bad far s, h']

theorem writeConvert_frame (h_regs : Blind.regs φ) (h_seq : Blind.seq φ) (h_out : Blind.out φ) (h_rigs : Blind.rigs φ) (h_treads : Blind.treads φ) (h_chans : Blind.chans φ) (h_flights : Blind.flights φ) (h_stages : Blind.stages φ) (h_ctxs : Blind.ctxs φ) (h_landings : Blind.landings φ) (h_mem : Blind.mem φ) (h_memCheck : Blind.memCheck φ) (h_memEpoch : Blind.memEpoch φ) (h_memKey : Blind.memKey φ) (h_ucs : Blind.ucs φ) (h_ropes : Blind.ropes φ) (h_fabric : Blind.fabric φ) (h_rings : Blind.rings φ) (h_svcs : Blind.svcs φ) (h_journal : Blind.journal φ) (h_sec : Blind.sec φ) (h_det : Blind.det φ) (u p : Nat) (c : Convert) (codes ss : List Nat) (bad : Tbl Nat) (far : Nat) (s : State) :
    φ (writeConvert u p c codes ss bad far s).2 = φ s := by
  unfold writeConvert
  repeat' first
    | simp only [ucWrite_frame h_regs h_seq h_out h_rigs h_treads h_chans h_flights h_stages h_ctxs h_landings h_mem h_memCheck h_memEpoch h_memKey h_ucs h_ropes h_fabric h_rings h_svcs h_journal h_sec h_det]
    | split
    | refine Eq.trans (ucWrite_frame_of h_regs h_seq h_out h_rigs h_treads h_chans h_flights h_stages h_ctxs h_landings h_mem h_memCheck h_memEpoch h_memKey h_ucs h_ropes h_fabric h_rings h_svcs h_journal h_sec h_det ‹_›) ?_
    | dsimp only
    | with_reducible rfl

theorem writeConvert_frame_of (h_regs : Blind.regs φ) (h_seq : Blind.seq φ) (h_out : Blind.out φ) (h_rigs : Blind.rigs φ) (h_treads : Blind.treads φ) (h_chans : Blind.chans φ) (h_flights : Blind.flights φ) (h_stages : Blind.stages φ) (h_ctxs : Blind.ctxs φ) (h_landings : Blind.landings φ) (h_mem : Blind.mem φ) (h_memCheck : Blind.memCheck φ) (h_memEpoch : Blind.memEpoch φ) (h_memKey : Blind.memKey φ) (h_ucs : Blind.ucs φ) (h_ropes : Blind.ropes φ) (h_fabric : Blind.fabric φ) (h_rings : Blind.rings φ) (h_svcs : Blind.svcs φ) (h_journal : Blind.journal φ) (h_sec : Blind.sec φ) (h_det : Blind.det φ) {u : Nat} {p : Nat} {c : Convert} {codes : List Nat} {ss : List Nat} {bad : Tbl Nat} {far : Nat} {s : State} {t' : State} {x0}
    (h' : writeConvert u p c codes ss bad far s = (x0, t')) : φ t' = φ s := by
  rw [← writeConvert_frame h_regs h_seq h_out h_rigs h_treads h_chans h_flights h_stages h_ctxs h_landings h_mem h_memCheck h_memEpoch h_memKey h_ucs h_ropes h_fabric h_rings h_svcs h_journal h_sec h_det u p c codes ss bad far s, h']

theorem convertOut_frame (h_regs : Blind.regs φ) (h_seq : Blind.seq φ) (h_out : Blind.out φ) (h_rigs : Blind.rigs φ) (h_treads : Blind.treads φ) (h_chans : Blind.chans φ) (h_flights : Blind.flights φ) (h_stages : Blind.stages φ) (h_ctxs : Blind.ctxs φ) (h_landings : Blind.landings φ) (h_mem : Blind.mem φ) (h_memCheck : Blind.memCheck φ) (h_memEpoch : Blind.memEpoch φ) (h_memKey : Blind.memKey φ) (h_ucs : Blind.ucs φ) (h_ropes : Blind.ropes φ) (h_fabric : Blind.fabric φ) (h_rings : Blind.rings φ) (h_svcs : Blind.svcs φ) (h_journal : Blind.journal φ) (h_sec : Blind.sec φ) (h_det : Blind.det φ) (u p : Nat) (d : List Nat) (l sc : List Byte) (bad : Tbl Nat) (farOut : Nat) (s : State) :
    φ (convertOut u p d l sc bad farOut s) = φ s := by
  unfold convertOut
  repeat' first
    | simp only [holdScratch_frame h_ucs, setUc_frame h_ucs, ucComplete_frame h_regs h_seq h_out h_rigs h_treads h_chans h_flights h_stages h_ctxs h_landings h_mem h_memCheck h_memEpoch h_memKey h_ucs h_ropes h_fabric h_rings h_svcs h_journal h_sec h_det, ucFail_frame h_regs h_seq h_out h_rigs h_ucs h_ropes h_rings h_svcs h_det, writeConvert_frame h_regs h_seq h_out h_rigs h_treads h_chans h_flights h_stages h_ctxs h_landings h_mem h_memCheck h_memEpoch h_memKey h_ucs h_ropes h_fabric h_rings h_svcs h_journal h_sec h_det]
    | split
    | refine Eq.trans (ucComplete_frame_of h_regs h_seq h_out h_rigs h_treads h_chans h_flights h_stages h_ctxs h_landings h_mem h_memCheck h_memEpoch h_memKey h_ucs h_ropes h_fabric h_rings h_svcs h_journal h_sec h_det ‹_›) ?_
    | refine Eq.trans (writeConvert_frame_of h_regs h_seq h_out h_rigs h_treads h_chans h_flights h_stages h_ctxs h_landings h_mem h_memCheck h_memEpoch h_memKey h_ucs h_ropes h_fabric h_rings h_svcs h_journal h_sec h_det ‹_›) ?_
    | dsimp only
    | with_reducible rfl

theorem runConvert_frame (h_regs : Blind.regs φ) (h_seq : Blind.seq φ) (h_out : Blind.out φ) (h_hiLatch : Blind.hiLatch φ) (h_commitLatch : Blind.commitLatch φ) (h_rigs : Blind.rigs φ) (h_treads : Blind.treads φ) (h_chans : Blind.chans φ) (h_flights : Blind.flights φ) (h_stages : Blind.stages φ) (h_ctxs : Blind.ctxs φ) (h_landings : Blind.landings φ) (h_mem : Blind.mem φ) (h_memCheck : Blind.memCheck φ) (h_memEpoch : Blind.memEpoch φ) (h_memKey : Blind.memKey φ) (h_ucs : Blind.ucs φ) (h_ropes : Blind.ropes φ) (h_fabric : Blind.fabric φ) (h_rings : Blind.rings φ) (h_svcs : Blind.svcs φ) (h_journal : Blind.journal φ) (h_sec : Blind.sec φ) (h_det : Blind.det φ) (u p : Nat) (d : List Nat) (bad : Tbl Nat) (far : List (Nat × List Byte)) (farOut : Nat) (s : State) :
    φ (runConvert u p d bad far farOut s) = φ s := by
  unfold runConvert
  repeat' first
    | simp only [convertOut_frame h_regs h_seq h_out h_rigs h_treads h_chans h_flights h_stages h_ctxs h_landings h_mem h_memCheck h_memEpoch h_memKey h_ucs h_ropes h_fabric h_rings h_svcs h_journal h_sec h_det, readScales_frame h_regs h_seq h_out h_hiLatch h_commitLatch h_rigs h_treads h_flights h_ctxs h_landings h_mem h_memCheck h_memEpoch h_memKey h_ucs h_ropes h_fabric h_rings h_svcs h_journal h_sec h_det, readSource_frame h_regs h_seq h_out h_hiLatch h_commitLatch h_rigs h_treads h_flights h_ctxs h_landings h_mem h_memCheck h_memEpoch h_memKey h_ucs h_ropes h_fabric h_rings h_svcs h_journal h_sec h_det, ucFail_frame h_regs h_seq h_out h_rigs h_ucs h_ropes h_rings h_svcs h_det]
    | split
    | refine Eq.trans (readScales_frame_of h_regs h_seq h_out h_hiLatch h_commitLatch h_rigs h_treads h_flights h_ctxs h_landings h_mem h_memCheck h_memEpoch h_memKey h_ucs h_ropes h_fabric h_rings h_svcs h_journal h_sec h_det ‹_›) ?_
    | refine Eq.trans (readSource_frame_of h_regs h_seq h_out h_hiLatch h_commitLatch h_rigs h_treads h_flights h_ctxs h_landings h_mem h_memCheck h_memEpoch h_memKey h_ucs h_ropes h_fabric h_rings h_svcs h_journal h_sec h_det ‹_›) ?_
    | dsimp only
    | with_reducible rfl

theorem sparseError_frame (h_regs : Blind.regs φ) (h_seq : Blind.seq φ) (h_out : Blind.out φ) (h_rigs : Blind.rigs φ) (h_sparse : Blind.sparse φ) (h_ropes : Blind.ropes φ) (h_rings : Blind.rings φ) (h_svcs : Blind.svcs φ) (h_det : Blind.det φ) (p table step source cause : Nat) (s : State) :
    φ (sparseError p table step source cause s) = φ s := by
  unfold sparseError
  repeat' first
    | simp only [programFault_frame h_regs h_out h_rigs h_ropes h_svcs, raise_frame h_regs h_seq h_rings h_det, setSparse_frame h_sparse]
    | split
    | dsimp only
    | with_reducible rfl

theorem combineRows_frame (h_regs : Blind.regs φ) (h_seq : Blind.seq φ) (h_out : Blind.out φ) (h_rigs : Blind.rigs φ) (h_mem : Blind.mem φ) (h_memCheck : Blind.memCheck φ) (h_memEpoch : Blind.memEpoch φ) (h_memKey : Blind.memKey φ) (h_ucs : Blind.ucs φ) (h_sparse : Blind.sparse φ) (h_ropes : Blind.ropes φ) (h_rings : Blind.rings φ) (h_svcs : Blind.svcs φ) (h_journal : Blind.journal φ) (h_sec : Blind.sec φ) (h_det : Blind.det φ) (p table step : Nat) (r : Rigging) (h : TblHdr) (s : State) :
    φ (combineRows p table step r h s) = φ s := by
  unfold combineRows
  repeat' first
    | simp only [memWrite_frame h_regs h_seq h_out h_rigs h_mem h_memCheck h_memEpoch h_memKey h_ucs h_ropes h_rings h_svcs h_journal h_sec h_det, setSparse_frame h_sparse]
    | with_reducible refine Eq.trans (foldl_frame (fun _ _ => ?_) _ _) ?_
    | split
    | refine Eq.trans (memWrite_frame_of h_regs h_seq h_out h_rigs h_mem h_memCheck h_memEpoch h_memKey h_ucs h_ropes h_rings h_svcs h_journal h_sec h_det ‹_›) ?_
    | dsimp only
    | with_reducible rfl

theorem sparseCounts_frame (h_regs : Blind.regs φ) (h_seq : Blind.seq φ) (h_out : Blind.out φ) (h_rigs : Blind.rigs φ) (h_mem : Blind.mem φ) (h_memCheck : Blind.memCheck φ) (h_memEpoch : Blind.memEpoch φ) (h_memKey : Blind.memKey φ) (h_ucs : Blind.ucs φ) (h_sparse : Blind.sparse φ) (h_ropes : Blind.ropes φ) (h_rings : Blind.rings φ) (h_svcs : Blind.svcs φ) (h_journal : Blind.journal φ) (h_sec : Blind.sec φ) (h_det : Blind.det φ) (u p table step : Nat) (r : Rigging) (h : TblHdr) (bad : Tbl Nat) (s : State) :
    φ (sparseCounts u p table step r h bad s) = φ s := by
  unfold sparseCounts
  repeat' first
    | simp only [checkLines_frame h_regs h_seq h_out h_rigs h_memCheck h_ucs h_ropes h_rings h_svcs h_journal h_sec h_det, combineRows_frame h_regs h_seq h_out h_rigs h_mem h_memCheck h_memEpoch h_memKey h_ucs h_sparse h_ropes h_rings h_svcs h_journal h_sec h_det, sparseError_frame h_regs h_seq h_out h_rigs h_sparse h_ropes h_rings h_svcs h_det, ucHold_frame h_regs h_ucs]
    | split
    | refine Eq.trans (checkLines_frame_of h_regs h_seq h_out h_rigs h_memCheck h_ucs h_ropes h_rings h_svcs h_journal h_sec h_det ‹_›) ?_
    | dsimp only
    | with_reducible rfl

end Sys2Proof.Laws
end

