-- ==== Sys2Proof/Laws/MemoryWf.lean ====
section
/-!
SUPPORT. Memory keeps its canonical form: every operation that writes it, and every command.
-/
namespace Sys2Proof.Laws
open Machine Machine.State

set_option linter.unusedSimpArgs false
set_option linter.unusedTactic false
set_option linter.unreachableTactic false
set_option linter.unusedVariables false

theorem b_regs : Blind.regs State.mem := fun _ _ => rfl
theorem b_pkg : Blind.pkg State.mem := fun _ _ => rfl
theorem b_time : Blind.time State.mem := fun _ _ => rfl
theorem b_timers : Blind.timers State.mem := fun _ _ => rfl
theorem b_seq : Blind.seq State.mem := fun _ _ => rfl
theorem b_free : Blind.free State.mem := fun _ _ => rfl
theorem b_pending : Blind.pending State.mem := fun _ _ => rfl
theorem b_out : Blind.out State.mem := fun _ _ => rfl
theorem b_hiLatch : Blind.hiLatch State.mem := fun _ _ => rfl
theorem b_commitLatch : Blind.commitLatch State.mem := fun _ _ => rfl
theorem b_pins : Blind.pins State.mem := fun _ _ => rfl
theorem b_fence : Blind.fence State.mem := fun _ _ => rfl
theorem b_power : Blind.power State.mem := fun _ _ => rfl
theorem b_rigs : Blind.rigs State.mem := fun _ _ => rfl
theorem b_treads : Blind.treads State.mem := fun _ _ => rfl
theorem b_chans : Blind.chans State.mem := fun _ _ => rfl
theorem b_knots : Blind.knots State.mem := fun _ _ => rfl
theorem b_flights : Blind.flights State.mem := fun _ _ => rfl
theorem b_stages : Blind.stages State.mem := fun _ _ => rfl
theorem b_ctxs : Blind.ctxs State.mem := fun _ _ => rfl
theorem b_landings : Blind.landings State.mem := fun _ _ => rfl
theorem b_parts : Blind.parts State.mem := fun _ _ => rfl
theorem b_reds : Blind.reds State.mem := fun _ _ => rfl
theorem b_memCheck : Blind.memCheck State.mem := fun _ _ => rfl
theorem b_memEpoch : Blind.memEpoch State.mem := fun _ _ => rfl
theorem b_memKey : Blind.memKey State.mem := fun _ _ => rfl
theorem b_ucs : Blind.ucs State.mem := fun _ _ => rfl
theorem b_sparse : Blind.sparse State.mem := fun _ _ => rfl
theorem b_gathers : Blind.gathers State.mem := fun _ _ => rfl
theorem b_ropes : Blind.ropes State.mem := fun _ _ => rfl
theorem b_lasers : Blind.lasers State.mem := fun _ _ => rfl
theorem b_fabric : Blind.fabric State.mem := fun _ _ => rfl
theorem b_bundles : Blind.bundles State.mem := fun _ _ => rfl
theorem b_hces : Blind.hces State.mem := fun _ _ => rfl
theorem b_rings : Blind.rings State.mem := fun _ _ => rfl
theorem b_pcie : Blind.pcie State.mem := fun _ _ => rfl
theorem b_svcs : Blind.svcs State.mem := fun _ _ => rfl
theorem b_journal : Blind.journal State.mem := fun _ _ => rfl
theorem b_sec : Blind.sec State.mem := fun _ _ => rfl
theorem b_det : Blind.det State.mem := fun _ _ => rfl

theorem foldl_wf {β : Type} {g : State → β → State} (h : ∀ s x, s.mem.wf → (g s x).mem.wf) (l : List β) (s : State)
    (hw : s.mem.wf) : (l.foldl g s).mem.wf := by
  induction l generalizing s with
  | nil => exact hw
  | cons a l ih => exact ih _ (h _ _ hw)

theorem perform_wf {ok : Bool} {f : State → State} {s t : State} (hw : s.mem.wf) (h : perform ok f s = .next t)
    (hf : ∀ s, s.mem.wf → (f s).mem.wf) : t.mem.wf := by
  unfold perform at h
  split at h
  · obtain rfl := (Host.Outcome.next.inj h).symm
    exact hf _ hw
  · cases h

theorem whenUp_wf {f : State → State} (hf : ∀ s, s.mem.wf → (f s).mem.wf) (s : State) (hw : s.mem.wf) :
    (whenUp f s).mem.wf := by
  unfold whenUp; split
  · exact hw
  · exact hf s hw

theorem pokeBytes_wf (o : Nat) (l : List Byte) (s : State) (hw : s.mem.wf) : (pokeBytes o l s).mem.wf := by
  unfold pokeBytes Memory.wf
  rw [tblWf_iff]
  have h0 : TblWf 0 s.mem := (tblWf_iff _).1 hw
  revert h0
  generalize s.mem = m
  intro h0
  dsimp only
  induction l.zipIdx generalizing m with
  | nil => exact h0
  | cons x r ih => exact ih _ (tset_wf _ _ h0)

theorem settleLine_wf (n : Nat) (s : State) (hw : s.mem.wf) :
    (settleLine n s).mem.wf := by
  unfold settleLine
  repeat' first
    | with_reducible assumption
    | with_reducible refine pokeBytes_wf _ _ _ ?_
    | split
    | dsimp only

theorem storeBytes_wf (o : Nat) (l : List Byte) (s : State) (hw : s.mem.wf) :
    (storeBytes o l s).mem.wf := by
  unfold storeBytes
  repeat' first
    | with_reducible assumption
    | simp only [rewriteLine_frame (φ := State.mem) b_regs b_seq b_memCheck b_memEpoch b_memKey b_rings b_journal b_sec b_det]
    | with_reducible refine foldl_wf (fun _ _ _ => ?_) _ _ ?_
    | with_reducible refine pokeBytes_wf _ _ _ ?_
    | with_reducible refine settleLine_wf _ _ ?_
    | split
    | dsimp only

theorem memWrite_wf (f : Finder) (bad : Tbl Nat) (o : Nat) (l : List Byte) (s : State) (hw : s.mem.wf) :
    (memWrite f bad o l s).2.mem.wf := by
  unfold memWrite
  repeat' first
    | with_reducible assumption
    | simp only [checkLines_frame (φ := State.mem) b_regs b_seq b_out b_rigs b_memCheck b_ucs b_ropes b_rings b_svcs b_journal b_sec b_det]
    | with_reducible refine storeBytes_wf _ _ _ ?_
    | split
    | rw [checkLines_frame_of (φ := State.mem) b_regs b_seq b_out b_rigs b_memCheck b_ucs b_ropes b_rings b_svcs b_journal b_sec b_det ‹_›]
    | dsimp only

theorem memWrite_wf_of {f : Finder} {bad : Tbl Nat} {o : Nat} {l : List Byte} {s : State} {t' : State} {x0}
    (h' : memWrite f bad o l s = (x0, t')) (hw : s.mem.wf) : t'.mem.wf := by
  have := memWrite_wf f bad o l s hw; rwa [h'] at this

theorem takeFrame_wf (p h : Nat) (s : State) (hw : s.mem.wf) :
    (takeFrame p h s).mem.wf := by
  unfold takeFrame
  repeat' first
    | with_reducible assumption
    | simp only [keepRoute_frame (φ := State.mem) b_fabric, readSegs_frame (φ := State.mem) b_regs b_seq b_out b_rigs b_memCheck b_ucs b_ropes b_rings b_svcs b_journal b_sec b_det, sendFrame_frame (φ := State.mem) b_out b_ropes, setFrame_frame (φ := State.mem) b_regs b_svcs, skipFrame_frame (φ := State.mem) b_regs b_seq b_rings b_det]
    | with_reducible refine memWrite_wf _ _ _ _ _ ?_
    | split
    | refine memWrite_wf_of ‹_› ?_
    | rw [readSegs_frame_of (φ := State.mem) b_regs b_seq b_out b_rigs b_memCheck b_ucs b_ropes b_rings b_svcs b_journal b_sec b_det ‹_›]
    | dsimp only

theorem placeSegs_wf (l : List Byte) (a0 a1 : Nat) (s : State) (hw : s.mem.wf) :
    (placeSegs l a0 a1 s).mem.wf := by
  induction a0 generalizing a1 s with
  | zero => unfold placeSegs; exact hw
  | succ n ih =>
    unfold placeSegs
    repeat' first
      | with_reducible assumption
      | with_reducible refine memWrite_wf _ _ _ _ _ ?_
      | with_reducible apply ih
      | split
      | refine memWrite_wf_of ‹_› ?_
      | dsimp only

theorem clearMarks_wf (p : Nat) (s : State) (hw : s.mem.wf) :
    (clearMarks p s).mem.wf := by
  unfold clearMarks
  repeat' first
    | with_reducible assumption
    | with_reducible refine foldl_wf (fun _ _ _ => ?_) _ _ ?_
    | with_reducible refine memWrite_wf _ _ _ _ _ ?_
    | split
    | refine memWrite_wf_of ‹_› ?_
    | dsimp only

theorem applyFrame_wf (p t : Nat) (l : List Byte) (s : State) (hw : s.mem.wf) :
    (applyFrame p t l s).mem.wf := by
  unfold applyFrame
  repeat' first
    | with_reducible assumption
    | simp only [beginStep_frame (φ := State.mem) b_stages b_reds, setPart_frame (φ := State.mem) b_parts, setSvc_frame (φ := State.mem) b_svcs]
    | with_reducible refine foldl_wf (fun _ _ _ => ?_) _ _ ?_
    | with_reducible refine clearMarks_wf _ _ ?_
    | with_reducible refine placeSegs_wf _ _ _ _ ?_
    | split
    | dsimp only

theorem restoreOwn_wf (p t j : Nat) (s : State) (hw : s.mem.wf) :
    (restoreOwn p t j s).2.mem.wf := by
  unfold restoreOwn
  repeat' first
    | with_reducible assumption
    | simp only [fetchFrame_frame (φ := State.mem) b_regs b_out b_ropes b_fabric b_svcs, memRead_frame (φ := State.mem) b_regs b_seq b_out b_rigs b_memCheck b_ucs b_ropes b_rings b_svcs b_journal b_sec b_det, showCkpt_frame (φ := State.mem) b_regs]
    | with_reducible refine applyFrame_wf _ _ _ _ ?_
    | split
    | rw [memRead_frame_of (φ := State.mem) b_regs b_seq b_out b_rigs b_memCheck b_ucs b_ropes b_rings b_svcs b_journal b_sec b_det ‹_›]
    | dsimp only

theorem restoreOwn_wf_of {p : Nat} {t : Nat} {j : Nat} {s : State} {t' : State} {x0}
    (h' : restoreOwn p t j s = (x0, t')) (hw : s.mem.wf) : t'.mem.wf := by
  have := restoreOwn_wf p t j s hw; rwa [h'] at this

theorem beginRestore_wf (p t : Nat) (s : State) (hw : s.mem.wf) :
    (beginRestore p t s).2.mem.wf := by
  unfold beginRestore
  repeat' first
    | with_reducible assumption
    | simp only [fetchFrame_frame (φ := State.mem) b_regs b_out b_ropes b_fabric b_svcs]
    | with_reducible refine restoreOwn_wf _ _ _ _ ?_
    | split
    | refine restoreOwn_wf_of ‹_› ?_
    | dsimp only

theorem beginRestore_wf_of {p : Nat} {t : Nat} {s : State} {t' : State} {x0}
    (h' : beginRestore p t s = (x0, t')) (hw : s.mem.wf) : t'.mem.wf := by
  have := beginRestore_wf p t s hw; rwa [h'] at this

theorem fabPerform_wf (bad : Tbl Nat) (r : FabReq) (s : State) (hw : s.mem.wf) :
    (fabPerform bad r s).2.2.mem.wf := by
  unfold fabPerform
  repeat' first
    | with_reducible assumption
    | simp only [ingestPush_frame (φ := State.mem) b_regs b_seq b_ctxs b_landings b_rings b_det, memRead_frame (φ := State.mem) b_regs b_seq b_out b_rigs b_memCheck b_ucs b_ropes b_rings b_svcs b_journal b_sec b_det, setSram_frame (φ := State.mem) b_treads b_flights]
    | with_reducible refine memWrite_wf _ _ _ _ _ ?_
    | with_reducible refine storeBytes_wf _ _ _ ?_
    | split
    | rw [memRead_frame_of (φ := State.mem) b_regs b_seq b_out b_rigs b_memCheck b_ucs b_ropes b_rings b_svcs b_journal b_sec b_det ‹_›]
    | refine memWrite_wf_of ‹_› ?_
    | dsimp only

theorem fabPerform_wf_of {bad : Tbl Nat} {r : FabReq} {s : State} {t' : State} {x0 x1}
    (h' : fabPerform bad r s = (x0, x1, t')) (hw : s.mem.wf) : t'.mem.wf := by
  have := fabPerform_wf bad r s hw; rwa [h'] at this

theorem fabServe_wf (bad : Tbl Nat) (r : FabReq) (s : State) (hw : s.mem.wf) :
    (fabServe bad r s).mem.wf := by
  unfold fabServe
  repeat' first
    | with_reducible assumption
    | simp only [fabError_frame (φ := State.mem) b_regs b_seq b_rings b_det, fabReply_frame (φ := State.mem) b_regs b_seq b_out b_ropes b_rings b_journal b_sec b_det]
    | with_reducible refine fabPerform_wf _ _ _ ?_
    | split
    | refine fabPerform_wf_of ‹_› ?_
    | dsimp only

theorem fabAccess_wf (bad : Tbl Nat) (r : FabReq) (s : State) (hw : s.mem.wf) :
    (fabAccess bad r s).mem.wf := by
  unfold fabAccess
  repeat' first
    | with_reducible assumption
    | simp only [ctlWrite_frame (φ := State.mem) b_regs b_seq b_out b_rigs b_treads b_chans b_flights b_stages b_landings b_ucs b_ropes b_rings b_svcs b_journal b_det, fabError_frame (φ := State.mem) b_regs b_seq b_rings b_det, fabReply_frame (φ := State.mem) b_regs b_seq b_out b_ropes b_rings b_journal b_sec b_det, readReg_frame (φ := State.mem) b_regs b_seq b_hiLatch b_commitLatch b_rings b_journal b_sec b_det]
    | with_reducible refine fabServe_wf _ _ _ ?_
    | split
    | rw [readReg_frame_of (φ := State.mem) b_regs b_seq b_hiLatch b_commitLatch b_rings b_journal b_sec b_det ‹_›]
    | dsimp only

theorem peerAccess_wf (k v tag job : Nat) (bad : Tbl Nat) (r : FabReq) (s : State) (hw : s.mem.wf) :
    (peerAccess k v tag job bad r s).mem.wf := by
  unfold peerAccess
  repeat' first
    | with_reducible assumption
    | simp only [fabReply_frame (φ := State.mem) b_regs b_seq b_out b_ropes b_rings b_journal b_sec b_det, tookMsg_frame (φ := State.mem) b_ropes]
    | with_reducible refine fabAccess_wf _ _ _ ?_
    | split
    | dsimp only

theorem fabLocal_wf (r : FabReq) (bad : Tbl Nat) (s : State) (hw : s.mem.wf) :
    (fabLocal r bad s).mem.wf := by
  unfold fabLocal
  repeat' first
    | with_reducible assumption
    | simp only [issueRemote_frame (φ := State.mem) b_regs b_seq b_out b_ropes b_fabric b_rings b_journal b_sec b_det]
    | with_reducible refine fabAccess_wf _ _ _ ?_
    | with_reducible refine peerAccess_wf _ _ _ _ _ _ _ ?_
    | split
    | dsimp only

theorem execFabricRead_wf (agent : Agent) (addr : W64) (size : Nat) (bad : List (Nat × Nat)) (s : State) (t' : State) (hw : s.mem.wf)
    (h : execFabricRead agent addr size bad s = .next t') : t'.mem.wf := by
  unfold execFabricRead at h
  refine perform_wf hw h (fun s _ => ?_)
  repeat' first
    | with_reducible assumption
    | with_reducible refine fabLocal_wf _ _ _ ?_
    | split
    | dsimp only

theorem execFabricWrite_wf (agent : Agent) (addr : W64) (data : List Byte) (bad : List (Nat × Nat)) (s : State) (t' : State) (hw : s.mem.wf)
    (h : execFabricWrite agent addr data bad s = .next t') : t'.mem.wf := by
  unfold execFabricWrite at h
  refine perform_wf hw h (fun s _ => ?_)
  repeat' first
    | with_reducible assumption
    | with_reducible refine fabLocal_wf _ _ _ ?_
    | split
    | dsimp only

theorem execFabricAtomic_wf (agent : Agent) (func : Nat) (addr : W64) (size : Nat) (value compare : W64) (bad : List (Nat × Nat)) (s : State) (t' : State) (hw : s.mem.wf)
    (h : execFabricAtomic agent func addr size value compare bad s = .next t') : t'.mem.wf := by
  unfold execFabricAtomic at h
  refine perform_wf hw h (fun s _ => ?_)
  repeat' first
    | with_reducible assumption
    | with_reducible refine fabLocal_wf _ _ _ ?_
    | split
    | dsimp only

theorem readParts_wf (a : Agent) (bad : Tbl Nat) (a0 : List (Nat × Nat)) (a1 : List Byte) (s : State) (hw : s.mem.wf) :
    (readParts a bad a0 a1 s).2.2.mem.wf := by
  induction a0 generalizing a1 s with
  | nil => unfold readParts; exact hw
  | cons x r ih =>
    unfold readParts
    repeat' first
      | with_reducible assumption
      | simp only [fabError_frame (φ := State.mem) b_regs b_seq b_rings b_det]
      | with_reducible refine fabPerform_wf _ _ _ ?_
      | with_reducible apply ih
      | split
      | refine fabPerform_wf_of ‹_› ?_
      | dsimp only

theorem readParts_wf_of {a : Agent} {bad : Tbl Nat} {a0 : List (Nat × Nat)} {a1 : List Byte} {s : State} {t' : State} {x0 x1}
    (h' : readParts a bad a0 a1 s = (x0, x1, t')) (hw : s.mem.wf) : t'.mem.wf := by
  have := readParts_wf a bad a0 a1 s hw; rwa [h'] at this

theorem writeParts_wf (a : Agent) (bad : Tbl Nat) (a0 : List (Nat × Nat)) (a1 : List Byte) (s : State) (hw : s.mem.wf) :
    (writeParts a bad a0 a1 s).2.mem.wf := by
  induction a0 generalizing a1 s with
  | nil => unfold writeParts; exact hw
  | cons x r ih =>
    unfold writeParts
    repeat' first
      | with_reducible assumption
      | simp only [fabError_frame (φ := State.mem) b_regs b_seq b_rings b_det]
      | with_reducible refine fabPerform_wf _ _ _ ?_
      | with_reducible apply ih
      | split
      | refine fabPerform_wf_of ‹_› ?_
      | dsimp only

theorem writeParts_wf_of {a : Agent} {bad : Tbl Nat} {a0 : List (Nat × Nat)} {a1 : List Byte} {s : State} {t' : State} {x0}
    (h' : writeParts a bad a0 a1 s = (x0, t')) (hw : s.mem.wf) : t'.mem.wf := by
  have := writeParts_wf a bad a0 a1 s hw; rwa [h'] at this

theorem engRead_wf (a : Agent) (bad : Tbl Nat) (far : Nat × List Byte) (addr n : Nat) (s : State) (hw : s.mem.wf) :
    (engRead a bad far addr n s).2.2.mem.wf := by
  unfold engRead
  repeat' first
    | with_reducible assumption
    | simp only [engRemote_frame (φ := State.mem) b_regs b_seq b_out b_ropes b_fabric b_rings b_det]
    | with_reducible refine readParts_wf _ _ _ _ _ ?_
    | split
    | rw [engRemote_frame_of (φ := State.mem) b_regs b_seq b_out b_ropes b_fabric b_rings b_det ‹_›]
    | refine readParts_wf_of ‹_› ?_
    | dsimp only

theorem engRead_wf_of {a : Agent} {bad : Tbl Nat} {far : Nat × List Byte} {addr : Nat} {n : Nat} {s : State} {t' : State} {x0 x1}
    (h' : engRead a bad far addr n s = (x0, x1, t')) (hw : s.mem.wf) : t'.mem.wf := by
  have := engRead_wf a bad far addr n s hw; rwa [h'] at this

theorem engWrite_wf (a : Agent) (bad : Tbl Nat) (far addr : Nat) (l : List Byte) (s : State) (hw : s.mem.wf) :
    (engWrite a bad far addr l s).2.mem.wf := by
  unfold engWrite
  repeat' first
    | with_reducible assumption
    | simp only [engRemote_frame (φ := State.mem) b_regs b_seq b_out b_ropes b_fabric b_rings b_det]
    | with_reducible refine writeParts_wf _ _ _ _ _ ?_
    | split
    | rw [engRemote_frame_of (φ := State.mem) b_regs b_seq b_out b_ropes b_fabric b_rings b_det ‹_›]
    | refine writeParts_wf_of ‹_› ?_
    | dsimp only

theorem engWrite_wf_of {a : Agent} {bad : Tbl Nat} {far : Nat} {addr : Nat} {l : List Byte} {s : State} {t' : State} {x0}
    (h' : engWrite a bad far addr l s = (x0, t')) (hw : s.mem.wf) : t'.mem.wf := by
  have := engWrite_wf a bad far addr l s hw; rwa [h'] at this

theorem deliverWaiting_wf (s : State) (hw : s.mem.wf) :
    (deliverWaiting s).mem.wf := by
  unfold deliverWaiting
  repeat' first
    | with_reducible assumption
    | with_reducible refine foldl_wf (fun _ _ _ => ?_) _ _ ?_
    | with_reducible refine fabServe_wf _ _ _ ?_
    | split
    | dsimp only

theorem execRerigComplete_wf (now : W64) (p : Nat) (s : State) (t' : State) (hw : s.mem.wf)
    (h : execRerigComplete now p s = .next t') : t'.mem.wf := by
  unfold execRerigComplete at h
  refine perform_wf hw h (fun s _ => ?_)
  repeat' first
    | with_reducible assumption
    | simp only [at__frame (φ := State.mem) b_time, bump_frame (φ := State.mem) b_regs, set_frame (φ := State.mem) b_regs, setRig_frame (φ := State.mem) b_rigs, showCapacity_frame (φ := State.mem) b_regs]
    | with_reducible refine deliverWaiting_wf _ ?_
    | split
    | dsimp only

theorem readPieces_wf (a : Agent) (bad : Tbl Nat) (a0 : List (Nat × Nat)) (a1 : Nat × List Byte) (a2 : List (List Byte)) (s : State) (hw : s.mem.wf) :
    (readPieces a bad a0 a1 a2 s).2.2.mem.wf := by
  induction a0 generalizing a1 a2 s with
  | nil => unfold readPieces; exact hw
  | cons x r ih =>
    unfold readPieces
    repeat' first
      | with_reducible assumption
      | with_reducible refine engRead_wf _ _ _ _ _ _ ?_
      | with_reducible apply ih
      | split
      | refine engRead_wf_of ‹_› ?_
      | dsimp only

theorem readPieces_wf_of {a : Agent} {bad : Tbl Nat} {a0 : List (Nat × Nat)} {a1 : Nat × List Byte} {a2 : List (List Byte)} {s : State} {t' : State} {x0 x1}
    (h' : readPieces a bad a0 a1 a2 s = (x0, x1, t')) (hw : s.mem.wf) : t'.mem.wf := by
  have := readPieces_wf a bad a0 a1 a2 s hw; rwa [h'] at this

theorem execLoadStart_wf (gf : Nat) (bad : List (Nat × Nat)) (far : Nat × List Byte × List Byte) (s : State) (t' : State) (hw : s.mem.wf)
    (h : execLoadStart gf bad far s = .next t') : t'.mem.wf := by
  unfold execLoadStart at h
  refine perform_wf hw h (fun s _ => ?_)
  repeat' first
    | with_reducible assumption
    | simp only [flightAccess_frame (φ := State.mem) b_regs b_seq b_out b_rigs b_ropes b_rings b_svcs b_det, flightError_frame (φ := State.mem) b_regs b_seq b_out b_rigs b_ropes b_rings b_svcs b_det, setFlight_frame (φ := State.mem) b_flights]
    | with_reducible refine readPieces_wf _ _ _ _ _ _ ?_
    | split
    | refine readPieces_wf_of ‹_› ?_
    | dsimp only

theorem drainRows_wf (a : Agent) (bad : Tbl Nat) (far : Nat) (t : Tile) (key : RngKey) (all a0 : List EpiRow) (s : State) (hw : s.mem.wf) :
    (drainRows a bad far t key all a0 s).2.mem.wf := by
  induction a0 generalizing s with
  | nil => unfold drainRows; exact hw
  | cons x r ih =>
    unfold drainRows
    repeat' first
      | with_reducible assumption
      | simp only [tailByte_frame (φ := State.mem) b_free]
      | with_reducible refine engWrite_wf _ _ _ _ _ _ ?_
      | with_reducible apply ih
      | split
      | refine engWrite_wf_of ‹_› ?_
      | rw [tailByte_frame_of (φ := State.mem) b_free ‹_›]
      | dsimp only

theorem drainRows_wf_of {a : Agent} {bad : Tbl Nat} {far : Nat} {t : Tile} {key : RngKey} {all : List EpiRow} {a0 : List EpiRow} {s : State} {t' : State} {x0}
    (h' : drainRows a bad far t key all a0 s = (x0, t')) (hw : s.mem.wf) : t'.mem.wf := by
  have := drainRows_wf a bad far t key all a0 s hw; rwa [h'] at this

theorem drainStats_wf (a : Agent) (bad : Tbl Nat) (far : Nat) (t : Tile) (a0 : List RowRec) (s : State) (hw : s.mem.wf) :
    (drainStats a bad far t a0 s).2.mem.wf := by
  induction a0 generalizing s with
  | nil => unfold drainStats; exact hw
  | cons x r ih =>
    unfold drainStats
    repeat' first
      | with_reducible assumption
      | simp only [setFlight_frame (φ := State.mem) b_flights]
      | with_reducible refine engWrite_wf _ _ _ _ _ _ ?_
      | with_reducible apply ih
      | split
      | refine engWrite_wf_of ‹_› ?_
      | dsimp only

theorem drainStats_wf_of {a : Agent} {bad : Tbl Nat} {far : Nat} {t : Tile} {a0 : List RowRec} {s : State} {t' : State} {x0}
    (h' : drainStats a bad far t a0 s = (x0, t')) (hw : s.mem.wf) : t'.mem.wf := by
  have := drainStats_wf a bad far t a0 s hw; rwa [h'] at this

theorem drainWrites_wf (gf : Nat) (run : TileRun) (rows : List EpiRow) (recs : List RowRec) (bad : Tbl Nat) (far : Nat) (s : State) (hw : s.mem.wf) :
    (drainWrites gf run rows recs bad far s).2.mem.wf := by
  unfold drainWrites
  repeat' first
    | with_reducible assumption
    | with_reducible refine drainRows_wf _ _ _ _ _ _ _ _ ?_
    | with_reducible refine drainStats_wf _ _ _ _ _ _ ?_
    | split
    | refine drainRows_wf_of ‹_› ?_
    | refine drainStats_wf_of ‹_› ?_
    | extract_lets

theorem drainWrites_wf_of {gf : Nat} {run : TileRun} {rows : List EpiRow} {recs : List RowRec} {bad : Tbl Nat} {far : Nat} {s : State} {t' : State} {x0}
    (h' : drainWrites gf run rows recs bad far s = (x0, t')) (hw : s.mem.wf) : t'.mem.wf := by
  have := drainWrites_wf gf run rows recs bad far s hw; rwa [h'] at this

theorem execDrainComplete_wf (a : ArrayAt) (bad : List (Nat × Nat)) (far waited : Nat) (s : State) (t' : State) (hw : s.mem.wf)
    (h : execDrainComplete a bad far waited s = .next t') : t'.mem.wf := by
  unfold execDrainComplete at h
  refine perform_wf hw h (fun s _ => ?_)
  repeat' first
    | with_reducible assumption
    | simp -zeta only [bump_frame (φ := State.mem) b_regs, drainDone_frame (φ := State.mem) b_regs b_seq b_free b_out b_rigs b_flights b_stages b_parts b_reds b_ropes b_rings b_svcs b_journal b_sec b_det, flightAccess_frame (φ := State.mem) b_regs b_seq b_out b_rigs b_ropes b_rings b_svcs b_det, setArray_frame (φ := State.mem) b_flights]
    | with_reducible refine drainWrites_wf _ _ _ _ _ _ _ ?_
    | split
    | refine drainWrites_wf_of ‹_› ?_
    | extract_lets
    | simp +zetaDelta only [bump_frame (φ := State.mem) b_regs, drainDone_frame (φ := State.mem) b_regs b_seq b_free b_out b_rigs b_flights b_stages b_parts b_reds b_ropes b_rings b_svcs b_journal b_sec b_det, flightAccess_frame (φ := State.mem) b_regs b_seq b_out b_rigs b_ropes b_rings b_svcs b_det, setArray_frame (φ := State.mem) b_flights]

theorem loseBytes_wf (o n : Nat) (s : State) (hw : s.mem.wf) : (loseBytes o n s).mem.wf := by
  unfold loseBytes
  have h0 := foldl_wf (fun s i h => settleLine_wf i s h) (linesOf o n) s hw
  have h1 := pokeBytes_wf o ((upFrom s.free n).map fun i => (Config.freeValue i).setWidth 8) _ h0
  exact foldl_wf (fun s i h => (rekeyLine_frame (φ := State.mem) b_memEpoch b_memKey i s) ▸ h) (linesOf o n) _ h1

theorem loseCopies_wf (e : Nat) (s : State) (hw : s.mem.wf) : (loseCopies e s).mem.wf := by
  unfold loseCopies
  exact foldl_wf (fun _ _ h => loseBytes_wf _ _ _ h) _ _ hw

theorem clearRange_wf (base size : Nat) (s : State) (hw : s.mem.wf) : (clearRange base size s).mem.wf := by
  unfold clearRange Memory.wf
  simp only [setMemKey_mem, setMemEpoch_mem, setMemCheck_mem]
  rw [tblWf_iff]
  exact filter_wf _ ((tblWf_iff _).1 hw)

theorem slotClear_wf (p : Nat) (s : State) (hw : s.mem.wf) :
    (slotClear p s).mem.wf := by
  unfold slotClear
  repeat' first
    | with_reducible assumption
    | with_reducible refine clearRange_wf _ _ _ ?_
    | split
    | dsimp only

theorem refuseLoad_wf (p : Nat) (f : RigFail) (s : State) (hw : s.mem.wf) :
    (refuseLoad p f s).mem.wf := by
  unfold refuseLoad
  repeat' first
    | with_reducible assumption
    | simp only [set_frame (φ := State.mem) b_regs, setLd_frame (φ := State.mem) b_regs]
    | with_reducible refine slotClear_wf _ _ ?_
    | split
    | dsimp only

theorem detachFn_wf (cause f : Nat) (s : State) (hw : s.mem.wf) :
    (detachFn cause f s).mem.wf := by
  unfold detachFn
  repeat' first
    | with_reducible assumption
    | simp only [clearIde_frame (φ := State.mem) b_regs b_sec, endSessions_frame (φ := State.mem) b_sec, failColds_frame (φ := State.mem) b_regs b_seq b_rings b_svcs b_det, resetCfg_frame (φ := State.mem) b_pcie, setRing_frame (φ := State.mem) b_rings, stopEngine_frame (φ := State.mem) b_regs b_hces, unset_frame (φ := State.mem) b_regs]
    | with_reducible refine foldl_wf (fun _ _ _ => ?_) _ _ ?_
    | with_reducible refine loseCopies_wf _ _ ?_
    | with_reducible refine refuseLoad_wf _ _ _ ?_
    | split
    | dsimp only

theorem detach_wf (cause : Nat) (fs : List Nat) (s : State) (hw : s.mem.wf) :
    (detach cause fs s).mem.wf := by
  unfold detach
  repeat' first
    | with_reducible assumption
    | simp only [bump_frame (φ := State.mem) b_regs, set_frame (φ := State.mem) b_regs, showDetached_frame (φ := State.mem) b_regs]
    | with_reducible refine foldl_wf (fun _ _ _ => ?_) _ _ ?_
    | with_reducible refine detachFn_wf _ _ _ ?_
    | split
    | dsimp only

theorem windowParts_wf (a : Agent) (write : Bool) (bad : Tbl Nat) (a0 : List (Nat × Nat)) (a1 a2 : List Byte) (s : State) (hw : s.mem.wf) :
    (windowParts a write bad a0 a1 a2 s).2.2.mem.wf := by
  induction a0 generalizing a1 a2 s with
  | nil => unfold windowParts; exact hw
  | cons x r ih =>
    unfold windowParts
    repeat' first
      | with_reducible assumption
      | simp only [fabError_frame (φ := State.mem) b_regs b_seq b_rings b_det]
      | with_reducible refine fabPerform_wf _ _ _ ?_
      | with_reducible apply ih
      | split
      | refine fabPerform_wf_of ‹_› ?_
      | dsimp only

theorem windowParts_wf_of {a : Agent} {write : Bool} {bad : Tbl Nat} {a0 : List (Nat × Nat)} {a1 : List Byte} {a2 : List Byte} {s : State} {t' : State} {x0 x1}
    (h' : windowParts a write bad a0 a1 a2 s = (x0, x1, t')) (hw : s.mem.wf) : t'.mem.wf := by
  have := windowParts_wf a write bad a0 a1 a2 s hw; rwa [h'] at this

theorem execBar4Request_wf (rid : W16) (off : W64) (write : Bool) (size : Nat) (data : List Byte) (bad : List (Nat × Nat)) (s : State) (t' : State) (hw : s.mem.wf)
    (h : execBar4Request rid off write size data bad s = .next t') : t'.mem.wf := by
  unfold execBar4Request at h
  refine perform_wf hw h (fun s _ => ?_)
  repeat' first
    | with_reducible assumption
    | simp only [bump_frame (φ := State.mem) b_regs, logAdvisory_frame (φ := State.mem) b_pcie, put_frame (φ := State.mem) b_out, set_frame (φ := State.mem) b_regs]
    | with_reducible refine windowParts_wf _ _ _ _ _ _ _ ?_
    | split
    | refine windowParts_wf_of ‹_› ?_
    | dsimp only

theorem startDesc_wf (e : Nat) (kinds : Nat → Bool) (bytes : List Byte) (act : HceDesc → Nat → State → State) (s : State) (hw : s.mem.wf) (h_act : ∀ x0 x1 s, s.mem.wf → (act x0 x1 s).mem.wf) :
    (startDesc e kinds bytes act s).mem.wf := by
  unfold startDesc
  repeat' first
    | with_reducible assumption
    | simp only [endDesc_frame (φ := State.mem) b_regs b_seq b_hces b_rings b_det, readDesc_frame (φ := State.mem) b_out, set_frame (φ := State.mem) b_regs, setHce_frame (φ := State.mem) b_hces, showHce_frame (φ := State.mem) b_regs]
    | with_reducible refine h_act _ _ _ ?_
    | split
    | dsimp only

theorem hceWrite_wf (e : Nat) (d : HceDesc) (data : List Byte) (bad : Tbl Nat) (s : State) (hw : s.mem.wf) :
    (hceWrite e d data bad s).2.mem.wf := by
  unfold hceWrite
  repeat' first
    | with_reducible assumption
    | with_reducible refine engWrite_wf _ _ _ _ _ _ ?_
    | with_reducible refine windowParts_wf _ _ _ _ _ _ _ ?_
    | split
    | refine engWrite_wf_of ‹_› ?_
    | refine windowParts_wf_of ‹_› ?_
    | dsimp only

theorem hceWrite_wf_of {e : Nat} {d : HceDesc} {data : List Byte} {bad : Tbl Nat} {s : State} {t' : State} {x0}
    (h' : hceWrite e d data bad s = (x0, t')) (hw : s.mem.wf) : t'.mem.wf := by
  have := hceWrite_wf e d data bad s hw; rwa [h'] at this

theorem copyIn_wf (e i : Nat) (d : HceDesc) (data : List Byte) (bad : Tbl Nat) (s : State) (hw : s.mem.wf) :
    (copyIn e i d data bad s).mem.wf := by
  unfold copyIn
  repeat' first
    | with_reducible assumption
    | simp only [endDesc_frame (φ := State.mem) b_regs b_seq b_hces b_rings b_det]
    | with_reducible refine hceWrite_wf _ _ _ _ _ ?_
    | split
    | refine hceWrite_wf_of ‹_› ?_
    | dsimp only

theorem copyAnswer_wf (e i : Nat) (d : HceDesc) (herr : Nat) (data : List Byte) (bad : Tbl Nat) (s : State) (hw : s.mem.wf) :
    (copyAnswer e i d herr data bad s).mem.wf := by
  unfold copyAnswer
  repeat' first
    | with_reducible assumption
    | simp only [endDesc_frame (φ := State.mem) b_regs b_seq b_hces b_rings b_det, holdCopy_frame (φ := State.mem) b_hces]
    | with_reducible refine copyIn_wf _ _ _ _ _ _ ?_
    | split
    | dsimp only

theorem execHceCopy_wf (e : Nat) (desc : List Byte) (answer : Option (Nat × List Byte)) (bad : List (Nat × Nat)) (s : State) (t' : State) (hw : s.mem.wf)
    (h : execHceCopy e desc answer bad s = .next t') : t'.mem.wf := by
  unfold execHceCopy at h
  refine perform_wf hw h (fun s _ => ?_)
  repeat' first
    | with_reducible assumption
    | simp only [endDesc_frame (φ := State.mem) b_regs b_seq b_hces b_rings b_det, hostWrite_frame (φ := State.mem) b_out, put_frame (φ := State.mem) b_out]
    | with_reducible refine copyAnswer_wf _ _ _ _ _ _ _ ?_
    | with_reducible refine engRead_wf _ _ _ _ _ _ ?_
    | with_reducible refine startDesc_wf _ _ _ _ _ ?_ (fun _ _ _ _ => ?_)
    | split
    | refine engRead_wf_of ‹_› ?_
    | dsimp only

theorem finishOldest_wf (e : Nat) (answer : Option (Nat × List Byte)) (bad : Tbl Nat) (s : State) (hw : s.mem.wf) :
    (finishOldest e answer bad s).mem.wf := by
  unfold finishOldest
  repeat' first
    | with_reducible assumption
    | simp only [endDesc_frame (φ := State.mem) b_regs b_seq b_hces b_rings b_det]
    | with_reducible refine copyAnswer_wf _ _ _ _ _ _ _ ?_
    | with_reducible refine copyIn_wf _ _ _ _ _ _ ?_
    | split
    | dsimp only

theorem execHceDescriptorComplete_wf (x : HceAnswer) (s : State) (t' : State) (hw : s.mem.wf)
    (h : execHceDescriptorComplete x s = .next t') : t'.mem.wf := by
  unfold execHceDescriptorComplete at h
  refine perform_wf hw h (fun s _ => ?_)
  repeat' first
    | with_reducible assumption
    | simp only [completeOldest_frame (φ := State.mem) b_regs b_out b_hces]
    | with_reducible refine finishOldest_wf _ _ _ _ ?_
    | split
    | dsimp only

theorem execCompletionTimeout_wf (fetch : Bool) (n : Nat) (s : State) (t' : State) (hw : s.mem.wf)
    (h : execCompletionTimeout fetch n s = .next t') : t'.mem.wf := by
  unfold execCompletionTimeout at h
  refine perform_wf hw h (fun s _ => ?_)
  repeat' first
    | with_reducible assumption
    | simp only [endDesc_frame (φ := State.mem) b_regs b_seq b_hces b_rings b_det]
    | with_reducible refine refuseLoad_wf _ _ _ ?_
    | split
    | dsimp only

theorem execDlDown_wf (s : State) (t' : State) (hw : s.mem.wf)
    (h : execDlDown s = .next t') : t'.mem.wf := by
  unfold execDlDown at h
  refine perform_wf hw h (fun s _ => ?_)
  repeat' first
    | with_reducible assumption
    | simp only [showLink_frame (φ := State.mem) b_regs]
    | with_reducible refine detach_wf _ _ _ ?_
    | split
    | dsimp only

theorem execHotReset_wf (s : State) (t' : State) (hw : s.mem.wf)
    (h : execHotReset s = .next t') : t'.mem.wf := by
  unfold execHotReset at h
  refine perform_wf hw h (fun s _ => ?_)
  repeat' first
    | with_reducible assumption
    | simp only [showLink_frame (φ := State.mem) b_regs]
    | with_reducible refine detach_wf _ _ _ ?_
    | split
    | dsimp only

theorem execPerstAssert_wf (s : State) (t' : State) (hw : s.mem.wf)
    (h : execPerstAssert s = .next t') : t'.mem.wf := by
  unfold execPerstAssert at h
  refine perform_wf hw h (fun s _ => ?_)
  repeat' first
    | with_reducible assumption
    | simp only [showLink_frame (φ := State.mem) b_regs]
    | with_reducible refine detach_wf _ _ _ ?_
    | split
    | dsimp only

theorem execFunctionLevelReset_wf (f : Nat) (s : State) (t' : State) (hw : s.mem.wf)
    (h : execFunctionLevelReset f s = .next t') : t'.mem.wf := by
  unfold execFunctionLevelReset at h
  refine perform_wf hw h (fun s _ => ?_)
  repeat' first
    | with_reducible assumption
    | with_reducible refine detach_wf _ _ _ ?_
    | split
    | dsimp only

theorem execD3hotEntry_wf (f : Nat) (s : State) (t' : State) (hw : s.mem.wf)
    (h : execD3hotEntry f s = .next t') : t'.mem.wf := by
  unfold execD3hotEntry at h
  refine perform_wf hw h (fun s _ => ?_)
  repeat' first
    | with_reducible assumption
    | with_reducible refine detach_wf _ _ _ ?_
    | split
    | dsimp only

theorem rigCtrl_wf (p b : Nat) (value : W32) (f : State → State) (s : State) (t' : State) (h_f : ∀ s, s.mem.wf → (f s).mem.wf) (hw : s.mem.wf)
    (h : rigCtrl p b value f s = .next t') : t'.mem.wf := by
  unfold rigCtrl at h
  refine perform_wf hw h (fun s _ => ?_)
  repeat' first
    | with_reducible assumption
    | with_reducible refine whenUp_wf (fun _ _ => ?_) _ ?_
    | with_reducible refine h_f _ ?_
    | split
    | dsimp only

theorem execRigStart_wf (w : CtrlWrite) (s : State) (t' : State) (hw : s.mem.wf)
    (h : execRigStart w s = .next t') : t'.mem.wf := by
  unfold execRigStart at h
  refine rigCtrl_wf _ _ _ _ _ _ (fun _ _ => ?_) hw h
  repeat' first
    | with_reducible assumption
    | simp only [put_frame (φ := State.mem) b_out, setLd_frame (φ := State.mem) b_regs, unset_frame (φ := State.mem) b_regs]
    | with_reducible refine refuseLoad_wf _ _ _ ?_
    | split
    | dsimp only

theorem slotWrite_wf (p : Nat) (l : List Byte) (s : State) (hw : s.mem.wf) :
    (slotWrite p l s).mem.wf := by
  unfold slotWrite
  repeat' first
    | with_reducible assumption
    | with_reducible refine storeBytes_wf _ _ _ ?_
    | split
    | dsimp only

theorem execRigFetchComplete_wf (p : Nat) (image : List Byte) (s : State) (t' : State) (hw : s.mem.wf)
    (h : execRigFetchComplete p image s = .next t') : t'.mem.wf := by
  unfold execRigFetchComplete at h
  refine perform_wf hw h (fun s _ => ?_)
  repeat' first
    | with_reducible assumption
    | simp only [setLd_frame (φ := State.mem) b_regs]
    | with_reducible refine slotWrite_wf _ _ _ ?_
    | split
    | dsimp only

theorem execFetchFailed_wf (p : Nat) (s : State) (t' : State) (hw : s.mem.wf)
    (h : execFetchFailed p s = .next t') : t'.mem.wf := by
  unfold execFetchFailed at h
  refine perform_wf hw h (fun s _ => ?_)
  repeat' first
    | with_reducible assumption
    | with_reducible refine refuseLoad_wf _ _ _ ?_
    | split
    | dsimp only

theorem execRigVerifyComplete_wf (p : Nat) (bad : List (Nat × Nat)) (s : State) (t' : State) (hw : s.mem.wf)
    (h : execRigVerifyComplete p bad s = .next t') : t'.mem.wf := by
  unfold execRigVerifyComplete at h
  refine perform_wf hw h (fun s _ => ?_)
  repeat' first
    | with_reducible assumption
    | simp only [setLd_frame (φ := State.mem) b_regs, setMeasure_frame (φ := State.mem) b_regs, slotRead_frame (φ := State.mem) b_regs b_seq b_out b_rigs b_memCheck b_ucs b_ropes b_rings b_svcs b_journal b_sec b_det]
    | with_reducible refine refuseLoad_wf _ _ _ ?_
    | split
    | rw [slotRead_frame_of (φ := State.mem) b_regs b_seq b_out b_rigs b_memCheck b_ucs b_ropes b_rings b_svcs b_journal b_sec b_det ‹_›]
    | dsimp only

theorem execRigValidateComplete_wf (p : Nat) (bad : List (Nat × Nat)) (s : State) (t' : State) (hw : s.mem.wf)
    (h : execRigValidateComplete p bad s = .next t') : t'.mem.wf := by
  unfold execRigValidateComplete at h
  refine perform_wf hw h (fun s _ => ?_)
  repeat' first
    | with_reducible assumption
    | simp only [setLd_frame (φ := State.mem) b_regs, setRig_frame (φ := State.mem) b_rigs, slotRead_frame (φ := State.mem) b_regs b_seq b_out b_rigs b_memCheck b_ucs b_ropes b_rings b_svcs b_journal b_sec b_det]
    | with_reducible refine refuseLoad_wf _ _ _ ?_
    | split
    | rw [slotRead_frame_of (φ := State.mem) b_regs b_seq b_out b_rigs b_memCheck b_ucs b_ropes b_rings b_svcs b_journal b_sec b_det ‹_›]
    | dsimp only

theorem execRigPlaceComplete_wf (p : Nat) (s : State) (t' : State) (hw : s.mem.wf)
    (h : execRigPlaceComplete p s = .next t') : t'.mem.wf := by
  unfold execRigPlaceComplete at h
  refine perform_wf hw h (fun s _ => ?_)
  repeat' first
    | with_reducible assumption
    | simp only [setLd_frame (φ := State.mem) b_regs, setRig_frame (φ := State.mem) b_rigs, stageUp_frame (φ := State.mem) b_power]
    | with_reducible refine foldl_wf (fun _ _ _ => ?_) _ _ ?_
    | with_reducible refine refuseLoad_wf _ _ _ ?_
    | split
    | dsimp only

theorem execRigApplyComplete_wf (p : Nat) (s : State) (t' : State) (hw : s.mem.wf)
    (h : execRigApplyComplete p s = .next t') : t'.mem.wf := by
  unfold execRigApplyComplete at h
  refine perform_wf hw h (fun s _ => ?_)
  repeat' first
    | with_reducible assumption
    | simp only [commitLoad_frame (φ := State.mem) b_regs b_pkg b_seq b_out b_power b_rigs b_treads b_chans b_knots b_stages b_ctxs b_landings b_parts b_reds b_ropes b_fabric b_rings b_svcs b_det, flightOff_frame (φ := State.mem) b_regs b_power b_treads b_flights, setRig_frame (φ := State.mem) b_rigs, stageUp_frame (φ := State.mem) b_power, unstage_frame (φ := State.mem) b_regs b_power b_treads b_flights]
    | with_reducible refine foldl_wf (fun _ _ _ => ?_) _ _ ?_
    | with_reducible refine refuseLoad_wf _ _ _ ?_
    | split
    | dsimp only

theorem execApplyFault_wf (p : Nat) (s : State) (t' : State) (hw : s.mem.wf)
    (h : execApplyFault p s = .next t') : t'.mem.wf := by
  unfold execApplyFault at h
  refine perform_wf hw h (fun s _ => ?_)
  repeat' first
    | with_reducible assumption
    | simp only [unstage_frame (φ := State.mem) b_regs b_power b_treads b_flights]
    | with_reducible refine refuseLoad_wf _ _ _ ?_
    | split
    | dsimp only

theorem execRigAbort_wf (w : CtrlWrite) (s : State) (t' : State) (hw : s.mem.wf)
    (h : execRigAbort w s = .next t') : t'.mem.wf := by
  unfold execRigAbort at h
  refine rigCtrl_wf _ _ _ _ _ _ (fun _ _ => ?_) hw h
  repeat' first
    | with_reducible assumption
    | with_reducible refine refuseLoad_wf _ _ _ ?_
    | split
    | dsimp only

theorem execRefclkHostLoss_wf (s : State) (t' : State) (hw : s.mem.wf)
    (h : execRefclkHostLoss s = .next t') : t'.mem.wf := by
  unfold execRefclkHostLoss at h
  refine perform_wf hw h (fun s _ => ?_)
  repeat' first
    | with_reducible assumption
    | simp only [showLink_frame (φ := State.mem) b_regs]
    | with_reducible refine detach_wf _ _ _ ?_
    | split
    | dsimp only

theorem withRing_wf (slot : Nat) (f : Nat → Rigging → RingCfg → List Bucket → State → State) (s : State) (hw : s.mem.wf) (h_f : ∀ x0 x1 x2 x3 s, s.mem.wf → (f x0 x1 x2 x3 s).mem.wf) :
    (withRing slot f s).mem.wf := by
  unfold withRing
  repeat' first
    | with_reducible assumption
    | with_reducible refine h_f _ _ _ _ _ ?_
    | split
    | dsimp only

theorem settleTotal_wf (bad : Tbl Nat) (p : Nat) (r : Rigging) (g : RingCfg) (bs : List Bucket) (s : State) (hw : s.mem.wf) :
    (settleTotal bad p r g bs s).mem.wf := by
  unfold settleTotal
  repeat' first
    | with_reducible assumption
    | simp only [addOwn_frame (φ := State.mem) b_regs b_seq b_out b_rigs b_memCheck b_ucs b_ropes b_rings b_svcs b_journal b_sec b_det, bump_frame (φ := State.mem) b_regs, gateRing_frame (φ := State.mem) b_parts, returnRingCredit_frame (φ := State.mem) b_out b_ropes, setRed_frame (φ := State.mem) b_reds]
    | with_reducible refine memWrite_wf _ _ _ _ _ ?_
    | split
    | rw [addOwn_frame_of (φ := State.mem) b_regs b_seq b_out b_rigs b_memCheck b_ucs b_ropes b_rings b_svcs b_journal b_sec b_det ‹_›]
    | refine memWrite_wf_of ‹_› ?_
    | dsimp only

theorem writeGather_wf (bad : Tbl Nat) (p : Nat) (r : Rigging) (g : RingCfg) (b : Bucket) (k i : Nat) (form : List Byte) (s : State) (hw : s.mem.wf) :
    (writeGather bad p r g b k i form s).2.mem.wf := by
  unfold writeGather
  repeat' first
    | with_reducible assumption
    | simp only [markBuilding_frame (φ := State.mem) b_parts, setRed_frame (φ := State.mem) b_reds]
    | with_reducible refine memWrite_wf _ _ _ _ _ ?_
    | split
    | refine memWrite_wf_of ‹_› ?_
    | dsimp only

theorem writeGather_wf_of {bad : Tbl Nat} {p : Nat} {r : Rigging} {g : RingCfg} {b : Bucket} {k : Nat} {i : Nat} {form : List Byte} {s : State} {t' : State} {x0}
    (h' : writeGather bad p r g b k i form s = (x0, t')) (hw : s.mem.wf) : t'.mem.wf := by
  have := writeGather_wf bad p r g b k i form s hw; rwa [h'] at this

theorem settleGather_wf (bad : Tbl Nat) (p : Nat) (r : Rigging) (g : RingCfg) (bs : List Bucket) (s : State) (hw : s.mem.wf) :
    (settleGather bad p r g bs s).mem.wf := by
  unfold settleGather
  repeat' first
    | with_reducible assumption
    | simp only [advanceUpd_frame (φ := State.mem) b_reds, memRead_frame (φ := State.mem) b_regs b_seq b_out b_rigs b_memCheck b_ucs b_ropes b_rings b_svcs b_journal b_sec b_det, returnRingCredit_frame (φ := State.mem) b_out b_ropes, setRed_frame (φ := State.mem) b_reds]
    | with_reducible refine writeGather_wf _ _ _ _ _ _ _ _ _ ?_
    | split
    | rw [memRead_frame_of (φ := State.mem) b_regs b_seq b_out b_rigs b_memCheck b_ucs b_ropes b_rings b_svcs b_journal b_sec b_det ‹_›]
    | refine writeGather_wf_of ‹_› ?_
    | dsimp only

theorem execRingMessageSend_wf (slot : Nat) (bad : List (Nat × Nat)) (s : State) (t' : State) (hw : s.mem.wf)
    (h : execRingMessageSend slot bad s = .next t') : t'.mem.wf := by
  unfold execRingMessageSend at h
  refine perform_wf hw h (fun s _ => ?_)
  repeat' first
    | with_reducible assumption
    | simp only [sendReduction_frame (φ := State.mem) b_regs b_seq b_out b_rigs b_parts b_reds b_memCheck b_ucs b_ropes b_rings b_svcs b_journal b_sec b_det, sendRing_frame (φ := State.mem) b_out b_ropes, setRed_frame (φ := State.mem) b_reds]
    | with_reducible refine settleGather_wf _ _ _ _ _ _ ?_
    | with_reducible refine settleTotal_wf _ _ _ _ _ _ ?_
    | with_reducible refine withRing_wf _ _ _ ?_ (fun _ _ _ _ _ _ => ?_)
    | split
    | rw [sendReduction_frame_of (φ := State.mem) b_regs b_seq b_out b_rigs b_parts b_reds b_memCheck b_ucs b_ropes b_rings b_svcs b_journal b_sec b_det ‹_›]
    | dsimp only

theorem takeReduction_wf (k v : Nat) (raw : List Byte) (m : RingMsg) (p : Nat) (g : RingCfg) (bs : List Bucket) (s : State) (hw : s.mem.wf) :
    (takeReduction k v raw m p g bs s).mem.wf := by
  unfold takeReduction
  repeat' first
    | with_reducible assumption
    | simp only [ringOrder_frame (φ := State.mem) b_regs b_seq b_out b_rigs b_reds b_ropes b_rings b_svcs b_det, setRed_frame (φ := State.mem) b_reds, tookMsg_frame (φ := State.mem) b_ropes]
    | with_reducible refine storeBytes_wf _ _ _ ?_
    | split
    | dsimp only

theorem takeGather_wf (k v : Nat) (raw : List Byte) (m : RingMsg) (p : Nat) (g : RingCfg) (bs : List Bucket) (s : State) (hw : s.mem.wf) :
    (takeGather k v raw m p g bs s).mem.wf := by
  unfold takeGather
  repeat' first
    | with_reducible assumption
    | simp only [ringOrder_frame (φ := State.mem) b_regs b_seq b_out b_rigs b_reds b_ropes b_rings b_svcs b_det, setRed_frame (φ := State.mem) b_reds, tookMsg_frame (φ := State.mem) b_ropes]
    | with_reducible refine storeBytes_wf _ _ _ ?_
    | split
    | dsimp only

theorem execRingData_wf (k v : Nat) (msg : List Byte) (bad : List (Nat × Nat)) (s : State) (t' : State) (hw : s.mem.wf)
    (h : execRingData k v msg bad s = .next t') : t'.mem.wf := by
  unfold execRingData at h
  refine perform_wf hw h (fun s _ => ?_)
  repeat' first
    | with_reducible assumption
    | simp only [peerMismatch_frame (φ := State.mem) b_regs b_seq b_out b_rigs b_ropes b_rings b_svcs b_det]
    | with_reducible refine settleGather_wf _ _ _ _ _ _ ?_
    | with_reducible refine settleTotal_wf _ _ _ _ _ _ ?_
    | with_reducible refine takeGather_wf _ _ _ _ _ _ _ _ ?_
    | with_reducible refine takeReduction_wf _ _ _ _ _ _ _ _ ?_
    | with_reducible refine withRing_wf _ _ _ ?_ (fun _ _ _ _ _ _ => ?_)
    | split
    | dsimp only

theorem writeEstate_wf (bad : Tbl Nat) (fmt o all i rnd : Nat) (key : RngKey) (e : Nat) (v : List Nat) (s : State) (hw : s.mem.wf) :
    (writeEstate bad fmt o all i rnd key e v s).2.mem.wf := by
  unfold writeEstate
  repeat' first
    | with_reducible assumption
    | with_reducible refine memWrite_wf _ _ _ _ _ ?_
    | split
    | refine memWrite_wf_of ‹_› ?_
    | dsimp only

theorem writeEstate_wf_of {bad : Tbl Nat} {fmt : Nat} {o : Nat} {all : Nat} {i : Nat} {rnd : Nat} {key : RngKey} {e : Nat} {v : List Nat} {s : State} {t' : State} {x0}
    (h' : writeEstate bad fmt o all i rnd key e v s = (x0, t')) (hw : s.mem.wf) : t'.mem.wf := by
  have := writeEstate_wf bad fmt o all i rnd key e v s hw; rwa [h'] at this

theorem writeAll_wf (fs : List (State → Bool × State)) (s : State) (hw : s.mem.wf)
    (hf : ∀ f ∈ fs, ∀ s, s.mem.wf → (f s).2.mem.wf) : (writeAll fs s).2.mem.wf := by
  induction fs generalizing s with
  | nil => unfold writeAll; exact hw
  | cons f r ih =>
    have h0 := hf f (List.mem_cons_self) s hw
    unfold writeAll
    rcases e : f s with ⟨_ | _, s1⟩ <;> rw [e] at h0
    · exact h0
    · exact ih s1 h0 fun g hg => hf g (List.mem_cons_of_mem _ hg)

theorem storeGroup_wf (bad : Tbl Nat) (r : Rigging) (a : GroupAt) (half step : Nat) (v : List (List Nat)) (s : State)
    (hw : s.mem.wf) : (storeGroup bad r a half step v s).2.mem.wf := by
  unfold storeGroup
  refine writeAll_wf _ s hw fun f hf s hs => ?_
  simp only [List.cons_append, List.nil_append, List.mem_cons, List.mem_map, List.mem_append, List.not_mem_nil,
    or_false] at hf
  rcases hf with rfl | ⟨k, -, rfl⟩ | ⟨k, -, rfl⟩
  · exact memWrite_wf _ _ _ _ _ hs
  · exact writeEstate_wf _ _ _ _ _ _ _ _ _ _ hs
  · exact memWrite_wf _ _ _ _ _ hs

theorem beginGather_wf (bad : Tbl Nat) (p : Nat) (r : Rigging) (g : RingCfg) (bs : List Bucket) (a : GroupAt) (half : Nat) (s : State) (hw : s.mem.wf) :
    (beginGather bad p r g bs a half s).mem.wf := by
  unfold beginGather
  repeat' first
    | with_reducible assumption
    | simp only [memRead_frame (φ := State.mem) b_regs b_seq b_out b_rigs b_memCheck b_ucs b_ropes b_rings b_svcs b_journal b_sec b_det, setRed_frame (φ := State.mem) b_reds]
    | with_reducible refine foldl_wf (fun _ _ _ => ?_) _ _ ?_
    | with_reducible refine writeGather_wf _ _ _ _ _ _ _ _ _ ?_
    | split
    | rw [memRead_frame_of (φ := State.mem) b_regs b_seq b_out b_rigs b_memCheck b_ucs b_ropes b_rings b_svcs b_journal b_sec b_det ‹_›]
    | refine writeGather_wf_of ‹_› ?_
    | dsimp only

theorem groupStored_wf (p slot : Nat) (r : Rigging) (g : RingCfg) (bs : List Bucket) (a : GroupAt) (c : Nat) (v v1 : List (List Nat)) (bad : Tbl Nat) (s : State) (hw : s.mem.wf) :
    (groupStored p slot r g bs a c v v1 bad s).mem.wf := by
  unfold groupStored
  repeat' first
    | with_reducible assumption
    | simp only [clearFinite_frame (φ := State.mem) b_parts, setRed_frame (φ := State.mem) b_reds, watchGroup_frame (φ := State.mem) b_regs b_seq b_parts b_reds b_rings b_det]
    | with_reducible refine beginGather_wf _ _ _ _ _ _ _ _ ?_
    | split
    | dsimp only

theorem updateGroup_wf (p slot : Nat) (r : Rigging) (g : RingCfg) (bs : List Bucket) (a : GroupAt) (c : Nat)
    (v : List (List Nat)) (bad : Tbl Nat) (s : State) (hw : s.mem.wf) : (updateGroup p slot r g bs a c v bad s).mem.wf := by
  unfold updateGroup
  extract_lets o s1 s2 w
  have h1 : s1.mem.wf := by
    unfold s1; split
    · simpa only [bump_frame (φ := State.mem) b_regs] using hw
    · exact hw
  have h2 : s2.mem.wf := by
    unfold s2; simpa only [holdRegs_frame (φ := State.mem) b_ucs] using h1
  have h3 : w.2.mem.wf := storeGroup_wf _ _ _ _ _ _ _ h2
  split
  · exact groupStored_wf _ _ _ _ _ _ _ _ _ _ _ h3
  · exact h3

theorem loadAndUpdate_wf (p slot : Nat) (r : Rigging) (g : RingCfg) (bs : List Bucket) (bad : Tbl Nat) (s : State) (hw : s.mem.wf) :
    (loadAndUpdate p slot r g bs bad s).mem.wf := by
  unfold loadAndUpdate
  repeat' first
    | with_reducible assumption
    | simp only [loadGroup_frame (φ := State.mem) b_regs b_seq b_out b_rigs b_memCheck b_ucs b_ropes b_rings b_svcs b_journal b_sec b_det]
    | with_reducible refine updateGroup_wf _ _ _ _ _ _ _ _ _ _ ?_
    | split
    | rw [loadGroup_frame_of (φ := State.mem) b_regs b_seq b_out b_rigs b_memCheck b_ucs b_ropes b_rings b_svcs b_journal b_sec b_det ‹_›]
    | dsimp only

theorem execUpdateGroup_wf (slot : Nat) (bad : List (Nat × Nat)) (s : State) (t' : State) (hw : s.mem.wf)
    (h : execUpdateGroup slot bad s = .next t') : t'.mem.wf := by
  unfold execUpdateGroup at h
  refine perform_wf hw h (fun s _ => ?_)
  repeat' first
    | with_reducible assumption
    | simp only [advanceUpd_frame (φ := State.mem) b_reds]
    | with_reducible refine loadAndUpdate_wf _ _ _ _ _ _ _ ?_
    | with_reducible refine withRing_wf _ _ _ ?_ (fun _ _ _ _ _ _ => ?_)
    | split
    | dsimp only

theorem withStage_wf (slot : Nat) (f : Nat → Rigging → StageCfg → State → State) (s : State) (hw : s.mem.wf) (h_f : ∀ x0 x1 x2 s, s.mem.wf → (f x0 x1 x2 s).mem.wf) :
    (withStage slot f s).mem.wf := by
  unfold withStage
  repeat' first
    | with_reducible assumption
    | with_reducible refine h_f _ _ _ _ ?_
    | split
    | dsimp only

theorem takeEntry_wf (p slot n step seq pass : Nat) (bwd ring : Bool) (f : Entry → State → State) (s : State) (hw : s.mem.wf) (h_f : ∀ x0 s, s.mem.wf → (f x0 s).mem.wf) :
    (takeEntry p slot n step seq pass bwd ring f s).mem.wf := by
  unfold takeEntry
  repeat' first
    | with_reducible assumption
    | simp only [setLanding_frame (φ := State.mem) b_landings, wrongEntry_frame (φ := State.mem) b_regs b_seq b_out b_rigs b_stages b_ropes b_rings b_svcs b_det]
    | with_reducible refine h_f _ _ ?_
    | split
    | dsimp only

theorem clearDkv_wf (p : Nat) (r : Rigging) (slot c : Nat) (s : State) (hw : s.mem.wf) :
    (clearDkv p r slot c s).mem.wf := by
  unfold clearDkv
  repeat' first
    | with_reducible assumption
    | simp only [seqAccess_frame (φ := State.mem) b_regs b_out b_rigs b_stages b_ropes b_svcs]
    | with_reducible refine writeParts_wf _ _ _ _ _ ?_
    | split
    | refine writeParts_wf_of ‹_› ?_
    | dsimp only

theorem startBackward_wf (p : Nat) (r : Rigging) (t : StageCfg) (c : Nat) (e : Option Entry) (s : State) (hw : s.mem.wf) :
    (startBackward p r t c e s).mem.wf := by
  unfold startBackward
  repeat' first
    | with_reducible assumption
    | simp only [bump_frame (φ := State.mem) b_regs, setCtx_frame (φ := State.mem) b_ctxs, setRed_frame (φ := State.mem) b_reds, setStage_frame (φ := State.mem) b_stages, showStart_frame (φ := State.mem) b_regs, startTreads_frame (φ := State.mem) b_power b_treads]
    | with_reducible refine clearDkv_wf _ _ _ _ _ ?_
    | split
    | dsimp only

theorem backwardOf_wf (p slot c : Nat) (r : Rigging) (t : StageCfg) (s : State) (hw : s.mem.wf) :
    (backwardOf p slot c r t s).mem.wf := by
  unfold backwardOf
  repeat' first
    | with_reducible assumption
    | simp only [seqWait_frame (φ := State.mem) b_stages]
    | with_reducible refine startBackward_wf _ _ _ _ _ _ ?_
    | with_reducible refine takeEntry_wf _ _ _ _ _ _ _ _ _ _ ?_ (fun _ _ _ => ?_)
    | split
    | dsimp only

theorem execBackwardStart_wf (slot : Nat) (s : State) (t' : State) (hw : s.mem.wf)
    (h : execBackwardStart slot s = .next t') : t'.mem.wf := by
  unfold execBackwardStart at h
  refine perform_wf hw h (fun s _ => ?_)
  repeat' first
    | with_reducible assumption
    | simp only [checkEntry_frame (φ := State.mem) b_regs b_seq b_out b_rigs b_stages b_ropes b_rings b_svcs b_det]
    | with_reducible refine backwardOf_wf _ _ _ _ _ _ ?_
    | with_reducible refine withStage_wf _ _ _ ?_ (fun _ _ _ _ _ => ?_)
    | split
    | dsimp only

theorem treeMsg_wf (k : Nat) (m : TreeMsg) (f : Nat → State → State) (s : State) (t' : State) (h_f : ∀ x0 s, s.mem.wf → (f x0 s).mem.wf) (hw : s.mem.wf)
    (h : treeMsg k m f s = .next t') : t'.mem.wf := by
  unfold treeMsg at h
  refine perform_wf hw h (fun s _ => ?_)
  repeat' first
    | with_reducible assumption
    | with_reducible refine h_f _ _ ?_
    | split
    | dsimp only

theorem restoreSlot_wf (r : Rigging) (o : Nat) (h : TblHdr) (x : Undo) (s : State) (hw : s.mem.wf) :
    (restoreSlot r o h x s).mem.wf := by
  unfold restoreSlot
  repeat' first
    | with_reducible assumption
    | with_reducible refine foldl_wf (fun _ _ _ => ?_) _ _ ?_
    | with_reducible refine memWrite_wf _ _ _ _ _ ?_
    | split
    | refine memWrite_wf_of ‹_› ?_
    | dsimp only

theorem restoreSparse_wf (x : Sparse) (s : State) (hw : s.mem.wf) :
    (restoreSparse x s).mem.wf := by
  unfold restoreSparse
  repeat' first
    | with_reducible assumption
    | simp only [dropSparse_frame (φ := State.mem) b_sparse]
    | with_reducible refine foldl_wf (fun _ _ _ => ?_) _ _ ?_
    | with_reducible refine restoreSlot_wf _ _ _ _ _ ?_
    | split
    | dsimp only

theorem undoStep_wf (p step : Nat) (s : State) (hw : s.mem.wf) :
    (undoStep p step s).mem.wf := by
  unfold undoStep
  repeat' first
    | with_reducible assumption
    | with_reducible refine foldl_wf (fun _ _ _ => ?_) _ _ ?_
    | with_reducible refine restoreSparse_wf _ _ ?_
    | split
    | dsimp only

theorem showStep_wf (p step : Nat) (commit : Bool) (s : State) (hw : s.mem.wf) :
    (showStep p step commit s).mem.wf := by
  unfold showStep
  repeat' first
    | with_reducible assumption
    | simp only [keepSparse_frame (φ := State.mem) b_sparse, showGate_frame (φ := State.mem) b_regs, showSchedules_frame (φ := State.mem) b_regs]
    | with_reducible refine undoStep_wf _ _ _ ?_
    | split
    | dsimp only

theorem confirmStep_wf (p step : Nat) (commit : Bool) (s : State) (hw : s.mem.wf) :
    (confirmStep p step commit s).mem.wf := by
  unfold confirmStep
  repeat' first
    | with_reducible assumption
    | simp only [keepSparse_frame (φ := State.mem) b_sparse]
    | with_reducible refine undoStep_wf _ _ _ ?_
    | split
    | dsimp only

theorem resolveStep_wf (p step : Nat) (commit : Bool) (safe : Nat) (s : State) (hw : s.mem.wf) :
    (resolveStep p step commit safe s).mem.wf := by
  unfold resolveStep
  repeat' first
    | with_reducible assumption
    | simp only [afterStep_frame (φ := State.mem) b_regs b_out b_parts b_reds b_gathers b_svcs, findCause_frame (φ := State.mem) b_regs b_out b_rigs b_ropes b_svcs, raise_frame (φ := State.mem) b_regs b_seq b_rings b_det, recordStep_frame (φ := State.mem) b_regs b_svcs, resolveVersions_frame (φ := State.mem) b_parts, showCommit_frame (φ := State.mem) b_regs, writeTelemetry_frame (φ := State.mem) b_regs b_out b_det]
    | with_reducible refine confirmStep_wf _ _ _ _ ?_
    | with_reducible refine showStep_wf _ _ _ _ ?_
    | with_reducible refine takeFrame_wf _ _ _ ?_
    | split
    | dsimp only

theorem applyDecide_wf (p : Nat) (m : TreeMsg) (s : State) (hw : s.mem.wf) :
    (applyDecide p m s).mem.wf := by
  unfold applyDecide
  repeat' first
    | with_reducible assumption
    | simp only [applyHalt_frame (φ := State.mem) b_regs b_out b_svcs, toChildren_frame (φ := State.mem) b_out b_ropes]
    | with_reducible refine resolveStep_wf _ _ _ _ _ ?_
    | split
    | dsimp only

theorem rootDecide_wf (p : Nat) (s : State) (hw : s.mem.wf) :
    (rootDecide p s).mem.wf := by
  unfold rootDecide
  repeat' first
    | with_reducible assumption
    | with_reducible refine applyDecide_wf _ _ _ ?_
    | split
    | dsimp only

theorem execStepVote_wf (p : Nat) (s : State) (t' : State) (hw : s.mem.wf)
    (h : execStepVote p s = .next t') : t'.mem.wf := by
  unfold execStepVote at h
  refine perform_wf hw h (fun s _ => ?_)
  repeat' first
    | with_reducible assumption
    | simp only [setSvc_frame (φ := State.mem) b_svcs, toParent_frame (φ := State.mem) b_out b_ropes]
    | with_reducible refine rootDecide_wf _ _ ?_
    | split
    | dsimp only

theorem execVote_wf (k : Nat) (m : TreeMsg) (s : State) (t' : State) (hw : s.mem.wf)
    (h : execVote k m s = .next t') : t'.mem.wf := by
  unfold execVote at h
  refine treeMsg_wf _ _ _ _ _ (fun _ _ _ => ?_) hw h
  repeat' first
    | with_reducible assumption
    | simp only [setSvc_frame (φ := State.mem) b_svcs]
    | with_reducible refine rootDecide_wf _ _ ?_
    | split
    | dsimp only

theorem execDecide_wf (k : Nat) (m : TreeMsg) (s : State) (t' : State) (hw : s.mem.wf)
    (h : execDecide k m s = .next t') : t'.mem.wf := by
  unfold execDecide at h
  refine treeMsg_wf _ _ _ _ _ (fun _ _ _ => ?_) hw h
  repeat' first
    | with_reducible assumption
    | with_reducible refine applyDecide_wf _ _ _ ?_
    | split
    | dsimp only

theorem clearCounts_wf (p : Nat) (s : State) (hw : s.mem.wf) :
    (clearCounts p s).mem.wf := by
  unfold clearCounts
  repeat' first
    | with_reducible assumption
    | with_reducible refine foldl_wf (fun _ _ _ => ?_) _ _ ?_
    | with_reducible refine memWrite_wf _ _ _ _ _ ?_
    | split
    | refine memWrite_wf_of ‹_› ?_
    | dsimp only

theorem rewindTo_wf (p t e : Nat) (s : State) (hw : s.mem.wf) :
    (rewindTo p t e s).mem.wf := by
  unfold rewindTo
  repeat' first
    | with_reducible assumption
    | simp only [clearUcQueues_frame (φ := State.mem) b_regs b_ucs, dropUnsent_frame (φ := State.mem) b_ropes, emptyChannels_frame (φ := State.mem) b_chans b_knots, emptyLandings_frame (φ := State.mem) b_out b_landings b_ropes, restartFlights_frame (φ := State.mem) b_regs b_power b_treads b_flights, restartSaturation_frame (φ := State.mem) b_power, restartStages_frame (φ := State.mem) b_regs b_stages b_ctxs b_reds, restartVersions_frame (φ := State.mem) b_parts, setSvc_frame (φ := State.mem) b_svcs]
    | with_reducible refine clearCounts_wf _ _ ?_
    | split
    | dsimp only

theorem settleOrder_wf (p : Nat) (s : State) (hw : s.mem.wf) :
    (settleOrder p s).mem.wf := by
  unfold settleOrder
  repeat' first
    | with_reducible assumption
    | simp only [bump_frame (φ := State.mem) b_regs, endPin_frame (φ := State.mem) b_regs b_svcs, raise_frame (φ := State.mem) b_regs b_seq b_rings b_det, setSvc_frame (φ := State.mem) b_svcs]
    | with_reducible refine beginRestore_wf _ _ _ ?_
    | with_reducible refine rewindTo_wf _ _ _ _ ?_
    | split
    | refine beginRestore_wf_of ‹_› ?_
    | dsimp only

theorem rootProceed_wf (p : Nat) (o : Order) (s : State) (hw : s.mem.wf) :
    (rootProceed p o s).mem.wf := by
  unfold rootProceed
  repeat' first
    | with_reducible assumption
    | simp only [applyResume_frame (φ := State.mem) b_regs b_out b_rigs b_svcs, setSvc_frame (φ := State.mem) b_svcs, takeOrder_frame (φ := State.mem) b_regs b_out b_rigs b_ropes b_svcs, toChildren_frame (φ := State.mem) b_out b_ropes]
    | with_reducible refine foldl_wf (fun _ _ _ => ?_) _ _ ?_
    | with_reducible refine settleOrder_wf _ _ ?_
    | split
    | dsimp only

theorem answerOrder_wf (p : Nat) (s : State) (hw : s.mem.wf) :
    (answerOrder p s).mem.wf := by
  unfold answerOrder
  repeat' first
    | with_reducible assumption
    | simp only [keepFences_frame (φ := State.mem) b_regs b_journal, setSvc_frame (φ := State.mem) b_svcs, toParent_frame (φ := State.mem) b_out b_ropes]
    | with_reducible refine foldl_wf (fun _ _ _ => ?_) _ _ ?_
    | with_reducible refine rootProceed_wf _ _ _ ?_
    | split
    | dsimp only

theorem execRewind_wf (k : Nat) (m : TreeMsg) (s : State) (t' : State) (hw : s.mem.wf)
    (h : execRewind k m s = .next t') : t'.mem.wf := by
  unfold execRewind at h
  refine treeMsg_wf _ _ _ _ _ (fun _ _ _ => ?_) hw h
  repeat' first
    | with_reducible assumption
    | simp only [applyHalt_frame (φ := State.mem) b_regs b_out b_svcs, rootRequest_frame (φ := State.mem) b_regs b_out b_rigs b_ropes b_svcs, takeOrder_frame (φ := State.mem) b_regs b_out b_rigs b_ropes b_svcs, toChildren_frame (φ := State.mem) b_out b_ropes, toParent_frame (φ := State.mem) b_out b_ropes]
    | with_reducible refine settleOrder_wf _ _ ?_
    | split
    | dsimp only

theorem abandonDrain_wf (gf arr : Nat) (s : State) (hw : s.mem.wf) : (abandonDrain gf arr s).mem.wf := by
  unfold abandonDrain
  split
  · exact hw
  · dsimp only
    split
    · exact hw
    exact drainRows_wf _ _ _ _ _ _ _ _ hw

theorem abandonDrains_wf (p : Nat) (s : State) (hw : s.mem.wf) : (abandonDrains p s).mem.wf := by
  unfold abandonDrains
  exact foldl_wf (fun _ _ h => foldl_wf (fun _ _ h => abandonDrain_wf _ _ _ h) _ _ h) _ _ hw

theorem abandonWork_wf (p : Nat) (s : State) (hw : s.mem.wf) : (abandonWork p s).mem.wf := by
  have h := abandonDrains_wf p s hw
  unfold abandonWork
  repeat' first
    | with_reducible assumption
    | simp only [setFlight_frame (φ := State.mem) b_flights, setTread_frame (φ := State.mem) b_treads, clearUcQueues_frame (φ := State.mem) b_regs b_ucs, dropUnsent_frame (φ := State.mem) b_ropes]
    | with_reducible refine foldl_wf (fun _ _ _ => ?_) _ _ ?_
    | split
    | dsimp only

theorem execWindDownTimeout_wf (now : W64) (p : Nat) (s : State) (t' : State) (hw : s.mem.wf)
    (h : execWindDownTimeout now p s = .next t') : t'.mem.wf := by
  unfold execWindDownTimeout at h
  refine perform_wf hw h (fun s _ => ?_)
  repeat' first
    | with_reducible assumption
    | simp only [at__frame (φ := State.mem) b_time]
    | with_reducible refine abandonWork_wf _ _ ?_
    | with_reducible refine settleOrder_wf _ _ ?_
    | split
    | dsimp only

theorem execRewoundSend_wf (p : Nat) (s : State) (t' : State) (hw : s.mem.wf)
    (h : execRewoundSend p s = .next t') : t'.mem.wf := by
  unfold execRewoundSend at h
  refine perform_wf hw h (fun s _ => ?_)
  repeat' first
    | with_reducible assumption
    | with_reducible refine answerOrder_wf _ _ ?_
    | with_reducible refine settleOrder_wf _ _ ?_
    | split
    | dsimp only

theorem execRewound_wf (k : Nat) (m : TreeMsg) (s : State) (t' : State) (hw : s.mem.wf)
    (h : execRewound k m s = .next t') : t'.mem.wf := by
  unfold execRewound at h
  refine treeMsg_wf _ _ _ _ _ (fun _ _ _ => ?_) hw h
  repeat' first
    | with_reducible assumption
    | simp only [setSvc_frame (φ := State.mem) b_svcs]
    | with_reducible refine answerOrder_wf _ _ ?_
    | split
    | dsimp only

theorem execStepRewindRequest_wf (p : Nat) (s : State) (t' : State) (hw : s.mem.wf)
    (h : execStepRewindRequest p s = .next t') : t'.mem.wf := by
  unfold execStepRewindRequest at h
  refine perform_wf hw h (fun s _ => ?_)
  repeat' first
    | with_reducible assumption
    | simp only [findCause_frame (φ := State.mem) b_regs b_out b_rigs b_ropes b_svcs]
    | with_reducible refine whenUp_wf (fun _ _ => ?_) _ ?_
    | with_reducible refine settleOrder_wf _ _ ?_
    | split
    | dsimp only

theorem ckMsg_wf (k v : Nat) (msg : List Byte) (f : Nat → Nat → Nat → Nat → List Byte → State → State) (s : State) (t' : State) (h_f : ∀ x0 x1 x2 x3 x4 s, s.mem.wf → (f x0 x1 x2 x3 x4 s).mem.wf) (hw : s.mem.wf)
    (h : ckMsg k v msg f s = .next t') : t'.mem.wf := by
  unfold ckMsg at h
  refine perform_wf hw h (fun s _ => ?_)
  repeat' first
    | with_reducible assumption
    | simp only [tookMsg_frame (φ := State.mem) b_ropes]
    | with_reducible refine h_f _ _ _ _ _ _ ?_
    | split
    | dsimp only

theorem execCheckpointData_wf (k v : Nat) (msg : List Byte) (s : State) (t' : State) (hw : s.mem.wf)
    (h : execCheckpointData k v msg s = .next t') : t'.mem.wf := by
  unfold execCheckpointData at h
  refine ckMsg_wf _ _ _ _ _ _ (fun _ _ _ _ _ _ _ => ?_) hw h
  repeat' first
    | with_reducible assumption
    | simp only [setWard_frame (φ := State.mem) b_svcs]
    | with_reducible refine memWrite_wf _ _ _ _ _ ?_
    | split
    | refine memWrite_wf_of ‹_› ?_
    | dsimp only

theorem execCheckpointReturn_wf (k v : Nat) (msg : List Byte) (s : State) (t' : State) (hw : s.mem.wf)
    (h : execCheckpointReturn k v msg s = .next t') : t'.mem.wf := by
  unfold execCheckpointReturn at h
  refine ckMsg_wf _ _ _ _ _ _ (fun _ _ _ _ _ _ _ => ?_) hw h
  repeat' first
    | with_reducible assumption
    | simp only [setFrame_frame (φ := State.mem) b_regs b_svcs]
    | with_reducible refine memWrite_wf _ _ _ _ _ ?_
    | split
    | refine memWrite_wf_of ‹_› ?_
    | dsimp only

theorem execCheckpointReturnDone_wf (k v : Nat) (msg : List Byte) (s : State) (t' : State) (hw : s.mem.wf)
    (h : execCheckpointReturnDone k v msg s = .next t') : t'.mem.wf := by
  unfold execCheckpointReturnDone at h
  refine ckMsg_wf _ _ _ _ _ _ (fun _ _ _ _ _ _ _ => ?_) hw h
  repeat' first
    | with_reducible assumption
    | simp only [setFrame_frame (φ := State.mem) b_regs b_svcs, setSvc_frame (φ := State.mem) b_svcs]
    | with_reducible refine restoreOwn_wf _ _ _ _ ?_
    | split
    | refine restoreOwn_wf_of ‹_› ?_
    | dsimp only

theorem partCtrl_wf (p b : Nat) (value : W32) (f : State → State) (s : State) (t' : State) (h_f : ∀ s, s.mem.wf → (f s).mem.wf) (hw : s.mem.wf)
    (h : partCtrl p b value f s = .next t') : t'.mem.wf := by
  unfold partCtrl at h
  refine perform_wf hw h (fun s _ => ?_)
  repeat' first
    | with_reducible assumption
    | with_reducible refine whenUp_wf (fun _ _ => ?_) _ ?_
    | with_reducible refine h_f _ ?_
    | split
    | dsimp only

theorem endTenancy_wf (p : Nat) (s : State) (hw : s.mem.wf) :
    (endTenancy p s).mem.wf := by
  unfold endTenancy
  repeat' first
    | with_reducible assumption
    | simp only [beginRelease_frame (φ := State.mem) b_regs b_rigs, queueScrub_frame (φ := State.mem) b_regs b_seq b_rings b_sec b_det, setRig_frame (φ := State.mem) b_rigs, unstage_frame (φ := State.mem) b_regs b_power b_treads b_flights]
    | with_reducible refine refuseLoad_wf _ _ _ ?_
    | split
    | dsimp only

theorem execPartReclaim_wf (p : Nat) (value : W32) (s : State) (t' : State) (hw : s.mem.wf)
    (h : execPartReclaim p value s = .next t') : t'.mem.wf := by
  unfold execPartReclaim at h
  refine partCtrl_wf _ _ _ _ _ _ (fun _ _ => ?_) hw h
  repeat' first
    | with_reducible assumption
    | with_reducible refine endTenancy_wf _ _ ?_
    | split
    | dsimp only

theorem tenantCmd_wf (fn id p : Nat) (own : Bool) (states : List Nat) (f : State → Nat × State) (s : State) (t' : State) (h_f : ∀ s, s.mem.wf → (f s).2.mem.wf) (hw : s.mem.wf)
    (h : tenantCmd fn id p own states f s = .next t') : t'.mem.wf := by
  unfold tenantCmd at h
  refine perform_wf hw h (fun s _ => ?_)
  repeat' first
    | with_reducible assumption
    | simp only [put_frame (φ := State.mem) b_out]
    | with_reducible refine h_f _ ?_
    | split
    | dsimp only

theorem execEnd_wf (fn id p : Nat) (s : State) (t' : State) (hw : s.mem.wf)
    (h : execEnd fn id p s = .next t') : t'.mem.wf := by
  unfold execEnd at h
  refine tenantCmd_wf _ _ _ _ _ _ _ _ (fun _ _ => ?_) hw h
  repeat' first
    | with_reducible assumption
    | with_reducible refine endTenancy_wf _ _ ?_
    | split
    | dsimp only

theorem withScrub_wf (phase : Nat) (f : Nat → State → State) (s : State) (hw : s.mem.wf) (h_f : ∀ x0 s, s.mem.wf → (f x0 s).mem.wf) :
    (withScrub phase f s).mem.wf := by
  unfold withScrub
  repeat' first
    | with_reducible assumption
    | with_reducible refine h_f _ _ ?_
    | split
    | dsimp only

theorem execScrubOverwriteDone_wf (s : State) (t' : State) (hw : s.mem.wf)
    (h : execScrubOverwriteDone s = .next t') : t'.mem.wf := by
  unfold execScrubOverwriteDone at h
  refine perform_wf hw h (fun s _ => ?_)
  repeat' first
    | with_reducible assumption
    | simp only [clearScratch_frame (φ := State.mem) b_ucs, onPartVcs_frame (φ := State.mem) b_ropes]
    | with_reducible refine clearRange_wf _ _ _ ?_
    | with_reducible refine withScrub_wf _ _ _ ?_ (fun _ _ _ => ?_)
    | split
    | dsimp only

theorem debugGo_wf (port write : Bool) (addr len : Nat) (data : List Byte) (bad : Tbl Nat) (s : State) (hw : s.mem.wf) :
    (debugGo port write addr len data bad s).mem.wf := by
  unfold debugGo
  repeat' first
    | with_reducible assumption
    | simp only [fabReply_frame (φ := State.mem) b_regs b_seq b_out b_ropes b_rings b_journal b_sec b_det, set_frame (φ := State.mem) b_regs]
    | with_reducible refine fabAccess_wf _ _ _ ?_
    | split
    | dsimp only

theorem execDbgGo_wf (value : W32) (bad : List (Nat × Nat)) (s : State) (t' : State) (hw : s.mem.wf)
    (h : execDbgGo value bad s = .next t') : t'.mem.wf := by
  unfold execDbgGo at h
  refine perform_wf hw h (fun s _ => ?_)
  repeat' first
    | with_reducible assumption
    | with_reducible refine whenUp_wf (fun _ _ => ?_) _ ?_
    | with_reducible refine debugGo_wf _ _ _ _ _ _ _ ?_
    | split
    | dsimp only

theorem execInstrumentAccess_wf (write : Bool) (addr : W64) (len : Nat) (data : List Byte) (bad : List (Nat × Nat)) (s : State) (t' : State) (hw : s.mem.wf)
    (h : execInstrumentAccess write addr len data bad s = .next t') : t'.mem.wf := by
  unfold execInstrumentAccess at h
  refine perform_wf hw h (fun s _ => ?_)
  repeat' first
    | with_reducible assumption
    | with_reducible refine debugGo_wf _ _ _ _ _ _ _ ?_
    | split
    | dsimp only

theorem ucRead_wf (u p : Nat) (bad : Tbl Nat) (far : Nat × List Byte) (addr n : Nat) (s : State) (hw : s.mem.wf) :
    (ucRead u p bad far addr n s).2.2.mem.wf := by
  unfold ucRead
  repeat' first
    | with_reducible assumption
    | simp only [fabError_frame (φ := State.mem) b_regs b_seq b_rings b_det, readReg_frame (φ := State.mem) b_regs b_seq b_hiLatch b_commitLatch b_rings b_journal b_sec b_det]
    | with_reducible refine engRead_wf _ _ _ _ _ _ ?_
    | split
    | refine engRead_wf_of ‹_› ?_
    | rw [readReg_frame_of (φ := State.mem) b_regs b_seq b_hiLatch b_commitLatch b_rings b_journal b_sec b_det ‹_›]
    | dsimp only

theorem ucRead_wf_of {u : Nat} {p : Nat} {bad : Tbl Nat} {far : Nat × List Byte} {addr : Nat} {n : Nat} {s : State} {t' : State} {x0 x1}
    (h' : ucRead u p bad far addr n s = (x0, x1, t')) (hw : s.mem.wf) : t'.mem.wf := by
  have := ucRead_wf u p bad far addr n s hw; rwa [h'] at this

theorem ucWrite_wf (u p : Nat) (bad : Tbl Nat) (far addr : Nat) (l : List Byte) (s : State) (hw : s.mem.wf) :
    (ucWrite u p bad far addr l s).2.mem.wf := by
  unfold ucWrite
  repeat' first
    | with_reducible assumption
    | simp only [ctlWrite_frame (φ := State.mem) b_regs b_seq b_out b_rigs b_treads b_chans b_flights b_stages b_landings b_ucs b_ropes b_rings b_svcs b_journal b_det, fabError_frame (φ := State.mem) b_regs b_seq b_rings b_det]
    | with_reducible refine engWrite_wf _ _ _ _ _ _ ?_
    | split
    | refine engWrite_wf_of ‹_› ?_
    | dsimp only

theorem ucWrite_wf_of {u : Nat} {p : Nat} {bad : Tbl Nat} {far : Nat} {addr : Nat} {l : List Byte} {s : State} {t' : State} {x0}
    (h' : ucWrite u p bad far addr l s = (x0, t')) (hw : s.mem.wf) : t'.mem.wf := by
  have := ucWrite_wf u p bad far addr l s hw; rwa [h'] at this

theorem ucComplete_wf (u : Nat) (conv : Bool) (p cpl tag : Nat) (bad : Tbl Nat) (far : Nat) (s : State) (hw : s.mem.wf) :
    (ucComplete u conv p cpl tag bad far s).2.mem.wf := by
  unfold ucComplete
  repeat' first
    | with_reducible assumption
    | simp only [ucFail_frame (φ := State.mem) b_regs b_seq b_out b_rigs b_ucs b_ropes b_rings b_svcs b_det]
    | with_reducible refine ucWrite_wf _ _ _ _ _ _ _ ?_
    | split
    | refine ucWrite_wf_of ‹_› ?_
    | dsimp only

theorem ucComplete_wf_of {u : Nat} {conv : Bool} {p : Nat} {cpl : Nat} {tag : Nat} {bad : Tbl Nat} {far : Nat} {s : State} {t' : State} {x0}
    (h' : ucComplete u conv p cpl tag bad far s = (x0, t')) (hw : s.mem.wf) : t'.mem.wf := by
  have := ucComplete_wf u conv p cpl tag bad far s hw; rwa [h'] at this

theorem writeBags_wf (u p : Nat) (bad : Tbl Nat) (far : Nat) (g : Gather) (seed dim : Nat) (a0 : List (List Nat × Nat)) (s : State) (hw : s.mem.wf) :
    (writeBags u p bad far g seed dim a0 s).2.mem.wf := by
  induction a0 generalizing s with
  | nil => unfold writeBags; exact hw
  | cons x r ih =>
    unfold writeBags
    repeat' first
      | with_reducible assumption
      | simp only [ucFail_frame (φ := State.mem) b_regs b_seq b_out b_rigs b_ucs b_ropes b_rings b_svcs b_det]
      | with_reducible refine ucWrite_wf _ _ _ _ _ _ _ ?_
      | with_reducible apply ih
      | split
      | refine ucWrite_wf_of ‹_› ?_
      | dsimp only

theorem writeBags_wf_of {u : Nat} {p : Nat} {bad : Tbl Nat} {far : Nat} {g : Gather} {seed : Nat} {dim : Nat} {a0 : List (List Nat × Nat)} {s : State} {t' : State} {x0}
    (h' : writeBags u p bad far g seed dim a0 s = (x0, t')) (hw : s.mem.wf) : t'.mem.wf := by
  have := writeBags_wf u p bad far g seed dim a0 s hw; rwa [h'] at this

theorem gatherOut_wf (u p : Nat) (d offs ws : List Nat) (rows : List (List Nat)) (bad : Tbl Nat) (farOut : Nat) (s : State) (hw : s.mem.wf) :
    (gatherOut u p d offs ws rows bad farOut s).mem.wf := by
  unfold gatherOut
  repeat' first
    | with_reducible assumption
    | simp -zeta only [endGather_frame (φ := State.mem) b_ucs b_gathers, holdScratch_frame (φ := State.mem) b_ucs]
    | with_reducible refine ucComplete_wf _ _ _ _ _ _ _ _ ?_
    | with_reducible refine writeBags_wf _ _ _ _ _ _ _ _ _ ?_
    | split
    | refine ucComplete_wf_of ‹_› ?_
    | refine writeBags_wf_of ‹_› ?_
    | extract_lets
    | simp +zetaDelta only [endGather_frame (φ := State.mem) b_ucs b_gathers, holdScratch_frame (φ := State.mem) b_ucs]

theorem readOffsets_wf (u p : Nat) (g : Gather) (bad : Tbl Nat) (far : List (Nat × List Byte)) (s : State) (hw : s.mem.wf) :
    (readOffsets u p g bad far s).2.2.mem.wf := by
  unfold readOffsets
  repeat' first
    | with_reducible assumption
    | with_reducible refine ucRead_wf _ _ _ _ _ _ _ ?_
    | split
    | refine ucRead_wf_of ‹_› ?_
    | dsimp only

theorem readOffsets_wf_of {u : Nat} {p : Nat} {g : Gather} {bad : Tbl Nat} {far : List (Nat × List Byte)} {s : State} {t' : State} {x0 x1}
    (h' : readOffsets u p g bad far s = (x0, x1, t')) (hw : s.mem.wf) : t'.mem.wf := by
  have := readOffsets_wf u p g bad far s hw; rwa [h'] at this

theorem readIndices_wf (u p : Nat) (g : Gather) (first n : Nat) (bad : Tbl Nat) (far : List (Nat × List Byte)) (s : State) (hw : s.mem.wf) :
    (readIndices u p g first n bad far s).2.2.mem.wf := by
  unfold readIndices
  repeat' first
    | with_reducible assumption
    | with_reducible refine ucRead_wf _ _ _ _ _ _ _ ?_
    | split
    | refine ucRead_wf_of ‹_› ?_
    | dsimp only

theorem readIndices_wf_of {u : Nat} {p : Nat} {g : Gather} {first : Nat} {n : Nat} {bad : Tbl Nat} {far : List (Nat × List Byte)} {s : State} {t' : State} {x0 x1}
    (h' : readIndices u p g first n bad far s = (x0, x1, t')) (hw : s.mem.wf) : t'.mem.wf := by
  have := readIndices_wf u p g first n bad far s hw; rwa [h'] at this

theorem readWeights_wf (u p : Nat) (g : Gather) (first n : Nat) (bad : Tbl Nat) (far : List (Nat × List Byte)) (s : State) (hw : s.mem.wf) :
    (readWeights u p g first n bad far s).2.2.mem.wf := by
  unfold readWeights
  repeat' first
    | with_reducible assumption
    | with_reducible refine ucRead_wf _ _ _ _ _ _ _ ?_
    | split
    | refine ucRead_wf_of ‹_› ?_
    | dsimp only

theorem readWeights_wf_of {u : Nat} {p : Nat} {g : Gather} {first : Nat} {n : Nat} {bad : Tbl Nat} {far : List (Nat × List Byte)} {s : State} {t' : State} {x0 x1}
    (h' : readWeights u p g first n bad far s = (x0, x1, t')) (hw : s.mem.wf) : t'.mem.wf := by
  have := readWeights_wf u p g first n bad far s hw; rwa [h'] at this

theorem gatherRows_wf (u p : Nat) (d offs idx : List Nat) (bad : Tbl Nat) (far : List (Nat × List Byte)) (farOut : Nat) (s : State) (hw : s.mem.wf) :
    (gatherRows u p d offs idx bad far farOut s).mem.wf := by
  unfold gatherRows
  repeat' first
    | with_reducible assumption
    | simp -zeta only [readRows_frame (φ := State.mem) b_regs b_seq b_out b_rigs b_memCheck b_ucs b_ropes b_rings b_svcs b_journal b_sec b_det, ucFail_frame (φ := State.mem) b_regs b_seq b_out b_rigs b_ucs b_ropes b_rings b_svcs b_det]
    | with_reducible refine gatherOut_wf _ _ _ _ _ _ _ _ _ ?_
    | with_reducible refine readWeights_wf _ _ _ _ _ _ _ _ ?_
    | split
    | rw [readRows_frame_of (φ := State.mem) b_regs b_seq b_out b_rigs b_memCheck b_ucs b_ropes b_rings b_svcs b_journal b_sec b_det ‹_›]
    | refine readWeights_wf_of ‹_› ?_
    | extract_lets
    | simp +zetaDelta only [readRows_frame (φ := State.mem) b_regs b_seq b_out b_rigs b_memCheck b_ucs b_ropes b_rings b_svcs b_journal b_sec b_det, ucFail_frame (φ := State.mem) b_regs b_seq b_out b_rigs b_ucs b_ropes b_rings b_svcs b_det]

theorem gatherIndices_wf (u p : Nat) (d offs : List Nat) (bad : Tbl Nat) (far : List (Nat × List Byte)) (farOut : Nat) (s : State) (hw : s.mem.wf) :
    (gatherIndices u p d offs bad far farOut s).mem.wf := by
  unfold gatherIndices
  repeat' first
    | with_reducible assumption
    | simp -zeta only [ucFail_frame (φ := State.mem) b_regs b_seq b_out b_rigs b_ucs b_ropes b_rings b_svcs b_det, ucStop_frame (φ := State.mem) b_regs b_seq b_out b_rigs b_ropes b_rings b_svcs b_det]
    | with_reducible refine gatherRows_wf _ _ _ _ _ _ _ _ _ ?_
    | with_reducible refine readIndices_wf _ _ _ _ _ _ _ _ ?_
    | split
    | refine readIndices_wf_of ‹_› ?_
    | extract_lets
    | simp +zetaDelta only [ucFail_frame (φ := State.mem) b_regs b_seq b_out b_rigs b_ucs b_ropes b_rings b_svcs b_det, ucStop_frame (φ := State.mem) b_regs b_seq b_out b_rigs b_ropes b_rings b_svcs b_det]

theorem gatherOffsets_wf (u p : Nat) (d offs : List Nat) (bad : Tbl Nat) (far : List (Nat × List Byte)) (farOut : Nat) (s : State) (hw : s.mem.wf) :
    (gatherOffsets u p d offs bad far farOut s).mem.wf := by
  unfold gatherOffsets
  repeat' first
    | with_reducible assumption
    | simp only [ucStop_frame (φ := State.mem) b_regs b_seq b_out b_rigs b_ropes b_rings b_svcs b_det]
    | with_reducible refine gatherIndices_wf _ _ _ _ _ _ _ _ ?_
    | split
    | dsimp only

theorem runGather_ind (P : State → Prop) (u p : Nat) (d : List Nat) (bad : Tbl Nat) (far : List (Nat × List Byte))
    (farOut : Nat) (s : State) (h0 : P s)
    (h1 : ∀ l, P (gatherOffsets u p d l bad far farOut (readOffsets u p (gatherOf d) bad far s).2.2))
    (h2 : ∀ n, P (ucFail u false n (gatherOf d).tag p (readOffsets u p (gatherOf d) bad far s).2.2)) :
    P (runGather u p d bad far farOut s) := by
  unfold runGather
  dsimp only
  split
  · exact h2 _
  · split
    · exact h0
    · exact h1 _

theorem runGather_wf (u p : Nat) (d : List Nat) (bad : Tbl Nat) (far : List (Nat × List Byte)) (farOut : Nat) (s : State)
    (hw : s.mem.wf) : (runGather u p d bad far farOut s).mem.wf := by
  have h := readOffsets_wf u p (gatherOf d) bad far s hw
  refine runGather_ind (fun s => s.mem.wf = true) _ _ _ _ _ _ _ hw (fun _ => gatherOffsets_wf _ _ _ _ _ _ _ _ h) fun n => ?_
  rw [ucFail_frame (φ := State.mem) b_regs b_seq b_out b_rigs b_ucs b_ropes b_rings b_svcs b_det]; exact h

theorem execGatherDescriptor_wf (u : Nat) (bad : List (Nat × Nat)) (far : List (Nat × List Byte)) (farOut : Nat) (s : State) (t' : State) (hw : s.mem.wf)
    (h : execGatherDescriptor u bad far farOut s = .next t') : t'.mem.wf := by
  unfold execGatherDescriptor at h
  refine perform_wf hw h (fun s _ => ?_)
  repeat' first
    | with_reducible assumption
    | simp only [checkLine_frame (φ := State.mem) b_regs b_seq b_out b_rigs b_memCheck b_ucs b_ropes b_rings b_svcs b_journal b_sec b_det, ucFail_frame (φ := State.mem) b_regs b_seq b_out b_rigs b_ucs b_ropes b_rings b_svcs b_det, ucStop_frame (φ := State.mem) b_regs b_seq b_out b_rigs b_ropes b_rings b_svcs b_det]
    | with_reducible refine runGather_wf _ _ _ _ _ _ _ ?_
    | split
    | rw [checkLine_frame_of (φ := State.mem) b_regs b_seq b_out b_rigs b_memCheck b_ucs b_ropes b_rings b_svcs b_journal b_sec b_det ‹_›]
    | dsimp only

theorem readSource_wf (u p : Nat) (c : Convert) (bad : Tbl Nat) (far : List (Nat × List Byte)) (s : State) (hw : s.mem.wf) :
    (readSource u p c bad far s).2.2.mem.wf := by
  unfold readSource
  repeat' first
    | with_reducible assumption
    | with_reducible refine ucRead_wf _ _ _ _ _ _ _ ?_
    | split
    | refine ucRead_wf_of ‹_› ?_
    | dsimp only

theorem readSource_wf_of {u : Nat} {p : Nat} {c : Convert} {bad : Tbl Nat} {far : List (Nat × List Byte)} {s : State} {t' : State} {x0 x1}
    (h' : readSource u p c bad far s = (x0, x1, t')) (hw : s.mem.wf) : t'.mem.wf := by
  have := readSource_wf u p c bad far s hw; rwa [h'] at this

theorem readScales_wf (u p : Nat) (c : Convert) (bad : Tbl Nat) (far : List (Nat × List Byte)) (s : State) (hw : s.mem.wf) :
    (readScales u p c bad far s).2.2.mem.wf := by
  unfold readScales
  repeat' first
    | with_reducible assumption
    | with_reducible refine ucRead_wf _ _ _ _ _ _ _ ?_
    | split
    | refine ucRead_wf_of ‹_› ?_
    | dsimp only

theorem readScales_wf_of {u : Nat} {p : Nat} {c : Convert} {bad : Tbl Nat} {far : List (Nat × List Byte)} {s : State} {t' : State} {x0 x1}
    (h' : readScales u p c bad far s = (x0, x1, t')) (hw : s.mem.wf) : t'.mem.wf := by
  have := readScales_wf u p c bad far s hw; rwa [h'] at this

theorem writeConvert_wf (u p : Nat) (c : Convert) (codes ss : List Nat) (bad : Tbl Nat) (far : Nat) (s : State) (hw : s.mem.wf) :
    (writeConvert u p c codes ss bad far s).2.mem.wf := by
  unfold writeConvert
  repeat' first
    | with_reducible assumption
    | with_reducible refine ucWrite_wf _ _ _ _ _ _ _ ?_
    | split
    | refine ucWrite_wf_of ‹_› ?_
    | dsimp only

theorem writeConvert_wf_of {u : Nat} {p : Nat} {c : Convert} {codes : List Nat} {ss : List Nat} {bad : Tbl Nat} {far : Nat} {s : State} {t' : State} {x0}
    (h' : writeConvert u p c codes ss bad far s = (x0, t')) (hw : s.mem.wf) : t'.mem.wf := by
  have := writeConvert_wf u p c codes ss bad far s hw; rwa [h'] at this

theorem convertOut_wf (u p : Nat) (d : List Nat) (l sc : List Byte) (bad : Tbl Nat) (farOut : Nat) (s : State) (hw : s.mem.wf) :
    (convertOut u p d l sc bad farOut s).mem.wf := by
  unfold convertOut
  repeat' first
    | with_reducible assumption
    | simp only [holdScratch_frame (φ := State.mem) b_ucs, setUc_frame (φ := State.mem) b_ucs, ucFail_frame (φ := State.mem) b_regs b_seq b_out b_rigs b_ucs b_ropes b_rings b_svcs b_det]
    | with_reducible refine ucComplete_wf _ _ _ _ _ _ _ _ ?_
    | with_reducible refine writeConvert_wf _ _ _ _ _ _ _ _ ?_
    | split
    | refine ucComplete_wf_of ‹_› ?_
    | refine writeConvert_wf_of ‹_› ?_
    | dsimp only

theorem runConvert_wf (u p : Nat) (d : List Nat) (bad : Tbl Nat) (far : List (Nat × List Byte)) (farOut : Nat) (s : State) (hw : s.mem.wf) :
    (runConvert u p d bad far farOut s).mem.wf := by
  unfold runConvert
  repeat' first
    | with_reducible assumption
    | simp only [ucFail_frame (φ := State.mem) b_regs b_seq b_out b_rigs b_ucs b_ropes b_rings b_svcs b_det]
    | with_reducible refine convertOut_wf _ _ _ _ _ _ _ _ ?_
    | with_reducible refine readScales_wf _ _ _ _ _ _ ?_
    | with_reducible refine readSource_wf _ _ _ _ _ _ ?_
    | split
    | refine readScales_wf_of ‹_› ?_
    | refine readSource_wf_of ‹_› ?_
    | dsimp only

theorem execConverterDescriptor_wf (u : Nat) (bad : List (Nat × Nat)) (far : List (Nat × List Byte)) (farOut : Nat) (s : State) (t' : State) (hw : s.mem.wf)
    (h : execConverterDescriptor u bad far farOut s = .next t') : t'.mem.wf := by
  unfold execConverterDescriptor at h
  refine perform_wf hw h (fun s _ => ?_)
  repeat' first
    | with_reducible assumption
    | simp only [ucStop_frame (φ := State.mem) b_regs b_seq b_out b_rigs b_ropes b_rings b_svcs b_det]
    | with_reducible refine runConvert_wf _ _ _ _ _ _ _ ?_
    | split
    | dsimp only

theorem combineRows_wf (p table step : Nat) (r : Rigging) (h : TblHdr) (s : State) (hw : s.mem.wf) :
    (combineRows p table step r h s).mem.wf := by
  unfold combineRows
  repeat' first
    | with_reducible assumption
    | simp only [setSparse_frame (φ := State.mem) b_sparse]
    | with_reducible refine foldl_wf (fun _ _ _ => ?_) _ _ ?_
    | with_reducible refine memWrite_wf _ _ _ _ _ ?_
    | split
    | refine memWrite_wf_of ‹_› ?_
    | dsimp only

theorem sparseCounts_wf (u p table step : Nat) (r : Rigging) (h : TblHdr) (bad : Tbl Nat) (s : State) (hw : s.mem.wf) :
    (sparseCounts u p table step r h bad s).mem.wf := by
  unfold sparseCounts
  repeat' first
    | with_reducible assumption
    | simp only [checkLines_frame (φ := State.mem) b_regs b_seq b_out b_rigs b_memCheck b_ucs b_ropes b_rings b_svcs b_journal b_sec b_det, sparseError_frame (φ := State.mem) b_regs b_seq b_out b_rigs b_sparse b_ropes b_rings b_svcs b_det, ucHold_frame (φ := State.mem) b_regs b_ucs]
    | with_reducible refine combineRows_wf _ _ _ _ _ _ ?_
    | split
    | rw [checkLines_frame_of (φ := State.mem) b_regs b_seq b_out b_rigs b_memCheck b_ucs b_ropes b_rings b_svcs b_journal b_sec b_det ‹_›]
    | dsimp only

theorem execSparsePass1_wf (p table : Nat) (bad : List (Nat × Nat)) (s : State) (t' : State) (hw : s.mem.wf)
    (h : execSparsePass1 p table bad s = .next t') : t'.mem.wf := by
  unfold execSparsePass1 at h
  refine perform_wf hw h (fun s _ => ?_)
  repeat' first
    | with_reducible assumption
    | simp only [checkLines_frame (φ := State.mem) b_regs b_seq b_out b_rigs b_memCheck b_ucs b_ropes b_rings b_svcs b_journal b_sec b_det, sparseError_frame (φ := State.mem) b_regs b_seq b_out b_rigs b_sparse b_ropes b_rings b_svcs b_det, ucHold_frame (φ := State.mem) b_regs b_ucs]
    | with_reducible refine sparseCounts_wf _ _ _ _ _ _ _ _ ?_
    | split
    | rw [checkLines_frame_of (φ := State.mem) b_regs b_seq b_out b_rigs b_memCheck b_ucs b_ropes b_rings b_svcs b_journal b_sec b_det ‹_›]
    | dsimp only

theorem execSparsePass2_wf (u p table : Nat) (bad : List (Nat × Nat)) (s : State) (t' : State) (hw : s.mem.wf)
    (h : execSparsePass2 u p table bad s = .next t') : t'.mem.wf := by
  unfold execSparsePass2 at h
  refine perform_wf hw h (fun s _ => ?_)
  repeat' first
    | with_reducible assumption
    | simp only [bump_frame (φ := State.mem) b_regs, checkLines_frame (φ := State.mem) b_regs b_seq b_out b_rigs b_memCheck b_ucs b_ropes b_rings b_svcs b_journal b_sec b_det, clearFinite_frame (φ := State.mem) b_parts, holdRegs_frame (φ := State.mem) b_ucs, setSparse_frame (φ := State.mem) b_sparse, ucHold_frame (φ := State.mem) b_regs b_ucs]
    | with_reducible refine foldl_wf (fun _ _ _ => ?_) _ _ ?_
    | with_reducible refine memWrite_wf _ _ _ _ _ ?_
    | split
    | rw [checkLines_frame_of (φ := State.mem) b_regs b_seq b_out b_rigs b_memCheck b_ucs b_ropes b_rings b_svcs b_journal b_sec b_det ‹_›]
    | refine memWrite_wf_of ‹_› ?_
    | dsimp only

theorem execSparseRestore_wf (p table : Nat) (s : State) (t' : State) (hw : s.mem.wf)
    (h : execSparseRestore p table s = .next t') : t'.mem.wf := by
  unfold execSparseRestore at h
  refine perform_wf hw h (fun s _ => ?_)
  repeat' first
    | with_reducible assumption
    | with_reducible refine foldl_wf (fun _ _ _ => ?_) _ _ ?_
    | with_reducible refine restoreSparse_wf _ _ ?_
    | split
    | dsimp only

theorem execKeySweepLine_wf (u p : Nat) (bad : List (Nat × Nat)) (s : State) (t' : State) (hw : s.mem.wf)
    (h : execKeySweepLine u p bad s = .next t') : t'.mem.wf := by
  unfold execKeySweepLine at h
  refine perform_wf hw h (fun s _ => ?_)
  repeat' first
    | with_reducible assumption
    | simp only [checkLine_frame (φ := State.mem) b_regs b_seq b_out b_rigs b_memCheck b_ucs b_ropes b_rings b_svcs b_journal b_sec b_det, raise_frame (φ := State.mem) b_regs b_seq b_rings b_det, rekeyLine_frame (φ := State.mem) b_memEpoch b_memKey, rewriteLine_frame (φ := State.mem) b_regs b_seq b_memCheck b_memEpoch b_memKey b_rings b_journal b_sec b_det, setUc_frame (φ := State.mem) b_ucs]
    | with_reducible refine settleLine_wf _ _ ?_
    | split
    | rw [checkLine_frame_of (φ := State.mem) b_regs b_seq b_out b_rigs b_memCheck b_ucs b_ropes b_rings b_svcs b_journal b_sec b_det ‹_›]
    | dsimp only

theorem releasePart_wf (p : Nat) (s : State) (hw : s.mem.wf) :
    (releasePart p s).mem.wf := by
  unfold releasePart
  repeat' first
    | with_reducible assumption
    | simp only [endInjectionOf_frame (φ := State.mem) b_regs b_seq b_rings b_det, freeImage_frame (φ := State.mem) b_regs b_power b_treads b_chans b_knots b_flights b_stages b_ctxs b_landings b_reds b_ucs b_sparse b_gathers b_ropes b_fabric, queueScrub_frame (φ := State.mem) b_regs b_seq b_rings b_sec b_det, raise_frame (φ := State.mem) b_regs b_seq b_rings b_det, set_frame (φ := State.mem) b_regs, setLd_frame (φ := State.mem) b_regs, setPart_frame (φ := State.mem) b_parts, setRig_frame (φ := State.mem) b_rigs, setSvc_frame (φ := State.mem) b_svcs, setSvcState_frame (φ := State.mem) b_regs b_svcs, settleRows_frame (φ := State.mem) b_fence, showCapacity_frame (φ := State.mem) b_regs]
    | with_reducible refine foldl_wf (fun _ _ _ => ?_) _ _ ?_
    | with_reducible refine slotClear_wf _ _ ?_
    | split
    | dsimp only

theorem execRigReleased_wf (p : Nat) (s : State) (t' : State) (hw : s.mem.wf)
    (h : execRigReleased p s = .next t') : t'.mem.wf := by
  unfold execRigReleased at h
  refine perform_wf hw h (fun s _ => ?_)
  repeat' first
    | with_reducible assumption
    | with_reducible refine releasePart_wf _ _ ?_
    | split
    | dsimp only

end Sys2Proof.Laws
end

