-- ==== Sys2Proof/Laws/PinsFrame.lean ====
section
/-!
SUPPORT. Frames of the operations of Sys2Proof/Machine/Pins.lean: what none of them writes stays as it was.
-/
namespace Sys2Proof.Laws
open Machine Machine.State

set_option linter.unusedSimpArgs false
set_option linter.unusedTactic false
set_option linter.unreachableTactic false
set_option linter.unusedVariables false

variable {α : Type} {φ : State → α}

theorem drive_frame (h_out : Blind.out φ) (p : OutPin) (old new : Bool) (s : State) :
    φ (drive p old new s) = φ s := by
  unfold drive
  repeat' first
    | simp only [put_frame h_out]
    | split
    | dsimp only
    | with_reducible rfl

theorem powerUp_frame (h_power : Blind.power φ) (s : State) :
    φ (powerUp s) = φ s := by
  unfold powerUp
  repeat' first
    | simp only [h_power.eq]
    | split
    | dsimp only
    | with_reducible rfl

theorem testPort_frame (h_pending : Blind.pending φ) (h_out : Blind.out φ) (h_det : Blind.det φ) (code : Nat) (s : State) (t' : State)
    (h : testPort code s = .next t') : φ t' = φ s := by
  unfold testPort at h
  refine perform_frame h_out h_pending h (fun s => ?_)
  repeat' first
    | simp only [h_det.eq]
    | split
    | dsimp only
    | with_reducible rfl

end Sys2Proof.Laws
end

