-- ==== Sys2Proof/Laws/PinsKeep.lean ====
section
/-!
SUPPORT. Frames of the commands of Sys2Proof/Machine/Pins.lean: what a command does not write stays as it was.
-/
namespace Sys2Proof.Laws
open Machine Machine.State

set_option linter.unusedSimpArgs false
set_option linter.unusedTactic false
set_option linter.unreachableTactic false
set_option linter.unusedVariables false

variable {α : Type} {φ : State → α}

theorem execPwrEnRise_frame (h_pending : Blind.pending φ) (h_out : Blind.out φ) (h_pins : Blind.pins φ) (h_power : Blind.power φ) (s : State) (t' : State)
    (h : execPwrEnRise s = .next t') : φ t' = φ s := by
  unfold execPwrEnRise at h
  refine perform_frame h_out h_pending h (fun s => ?_)
  repeat' first
    | simp only [powerUp_frame h_power, h_pins.eq]
    | split
    | dsimp only
    | with_reducible rfl

theorem execPowerUpHoldoffEnd_frame (h_pending : Blind.pending φ) (h_out : Blind.out φ) (h_pins : Blind.pins φ) (h_power : Blind.power φ) (s : State) (t' : State)
    (h : execPowerUpHoldoffEnd s = .next t') : φ t' = φ s := by
  unfold execPowerUpHoldoffEnd at h
  refine perform_frame h_out h_pending h (fun s => ?_)
  repeat' first
    | simp only [powerUp_frame h_power, h_pins.eq]
    | split
    | dsimp only
    | with_reducible rfl

theorem execPwrEnFall_frame (h_regs : Blind.regs φ) (h_pending : Blind.pending φ) (h_out : Blind.out φ) (h_pins : Blind.pins φ) (h_power : Blind.power φ) (h_treads : Blind.treads φ) (h_flights : Blind.flights φ) (s : State) (t' : State)
    (h : execPwrEnFall s = .next t') : φ t' = φ s := by
  unfold execPwrEnFall at h
  refine perform_frame h_out h_pending h (fun s => ?_)
  repeat' first
    | simp only [flightOff_frame h_regs h_power h_treads h_flights, holdAdmission_frame h_regs h_power, h_pins.eq]
    | with_reducible refine Eq.trans (foldl_frame (fun _ _ => ?_) _ _) ?_
    | split
    | dsimp only
    | with_reducible rfl

theorem execRefclkFabLoss_frame (h_pkg : Blind.pkg φ) (h_pending : Blind.pending φ) (h_out : Blind.out φ) (h_pins : Blind.pins φ) (s : State) (t' : State)
    (h : execRefclkFabLoss s = .next t') : φ t' = φ s := by
  unfold execRefclkFabLoss at h
  refine perform_frame h_out h_pending h (fun s => ?_)
  repeat' first
    | simp only [packageFault_frame h_pkg h_out h_pins]
    | split
    | dsimp only
    | with_reducible rfl

theorem execRefclkHostLoss_frame (h_regs : Blind.regs φ) (h_seq : Blind.seq φ) (h_free : Blind.free φ) (h_pending : Blind.pending φ) (h_out : Blind.out φ) (h_rigs : Blind.rigs φ) (h_mem : Blind.mem φ) (h_memCheck : Blind.memCheck φ) (h_memEpoch : Blind.memEpoch φ) (h_memKey : Blind.memKey φ) (h_hces : Blind.hces φ) (h_rings : Blind.rings φ) (h_pcie : Blind.pcie φ) (h_svcs : Blind.svcs φ) (h_sec : Blind.sec φ) (h_det : Blind.det φ) (s : State) (t' : State)
    (h : execRefclkHostLoss s = .next t') : φ t' = φ s := by
  unfold execRefclkHostLoss at h
  refine perform_frame h_out h_pending h (fun s => ?_)
  repeat' first
    | simp only [detach_frame h_regs h_seq h_free h_rigs h_mem h_memCheck h_memEpoch h_memKey h_hces h_rings h_pcie h_svcs h_sec h_det, showLink_frame h_regs]
    | split
    | dsimp only
    | with_reducible rfl

theorem execPldmGetSensor_frame (h_time : Blind.time φ) (h_pending : Blind.pending φ) (h_out : Blind.out φ) (now : W64) (n k : Nat) (s : State) (t' : State)
    (h : execPldmGetSensor now n k s = .next t') : φ t' = φ s := by
  unfold execPldmGetSensor at h
  refine perform_frame h_out h_pending h (fun s => ?_)
  repeat' first
    | simp only [at__frame h_time, put_frame h_out]
    | split
    | dsimp only
    | with_reducible rfl

theorem execExtest_frame (h_pending : Blind.pending φ) (h_out : Blind.out φ) (h_det : Blind.det φ) (s : State) (t' : State)
    (h : execExtest s = .next t') : φ t' = φ s := by
  unfold execExtest at h
  refine testPort_frame h_pending h_out h_det _ _ _ h

theorem execClamp_frame (h_pending : Blind.pending φ) (h_out : Blind.out φ) (h_det : Blind.det φ) (s : State) (t' : State)
    (h : execClamp s = .next t') : φ t' = φ s := by
  unfold execClamp at h
  refine testPort_frame h_pending h_out h_det _ _ _ h

theorem execHighz_frame (h_pending : Blind.pending φ) (h_out : Blind.out φ) (h_det : Blind.det φ) (s : State) (t' : State)
    (h : execHighz s = .next t') : φ t' = φ s := by
  unfold execHighz at h
  refine testPort_frame h_pending h_out h_det _ _ _ h

end Sys2Proof.Laws
end

