-- ==== Sys2Proof/Laws/PowerKeep.lean ====
section
/-!
SUPPORT. Frames of the commands of Sys2Proof/Machine/Power.lean: what a command does not write stays as it was.
-/
namespace Sys2Proof.Laws
open Machine Machine.State

set_option linter.unusedSimpArgs false
set_option linter.unusedTactic false
set_option linter.unreachableTactic false
set_option linter.unusedVariables false

variable {α : Type} {φ : State → α}

theorem execPwrBudgetWrite_frame (h_regs : Blind.regs φ) (h_time : Blind.time φ) (h_pending : Blind.pending φ) (h_out : Blind.out φ) (h_power : Blind.power φ) (h_journal : Blind.journal φ) (now : W64) (value : W32) (s : State) (t' : State)
    (h : execPwrBudgetWrite now value s = .next t') : φ t' = φ s := by
  unfold execPwrBudgetWrite at h
  refine perform_frame h_out h_pending h (fun s => ?_)
  repeat' first
    | simp only [at__frame h_time, formBudget_frame h_regs h_power, journalSettings_frame h_regs h_journal, set_frame h_regs]
    | refine Eq.trans (whenUp_frame (fun _ => ?_) _) ?_
    | split
    | dsimp only
    | with_reducible rfl

theorem execPowerLimitEffecter_frame (h_regs : Blind.regs φ) (h_time : Blind.time φ) (h_pending : Blind.pending φ) (h_out : Blind.out φ) (h_power : Blind.power φ) (now : W64) (w : Nat) (s : State) (t' : State)
    (h : execPowerLimitEffecter now w s = .next t') : φ t' = φ s := by
  unfold execPowerLimitEffecter at h
  refine perform_frame h_out h_pending h (fun s => ?_)
  repeat' first
    | simp only [at__frame h_time, formBudget_frame h_regs h_power, set_frame h_regs]
    | split
    | dsimp only
    | with_reducible rfl

theorem execPowerMeasurement_frame (h_regs : Blind.regs φ) (h_time : Blind.time φ) (h_seq : Blind.seq φ) (h_pending : Blind.pending φ) (h_out : Blind.out φ) (h_power : Blind.power φ) (h_rings : Blind.rings φ) (h_journal : Blind.journal φ) (h_sec : Blind.sec φ) (h_det : Blind.det φ) (now : W64) (mw : List Nat) (mv : Nat) (s : State) (t' : State)
    (h : execPowerMeasurement now mw mv s = .next t') : φ t' = φ s := by
  unfold execPowerMeasurement at h
  refine perform_frame h_out h_pending h (fun s => ?_)
  repeat' first
    | simp only [at__frame h_time, hitAll_frame h_regs h_seq h_rings h_journal h_sec h_det, overBudget_frame h_regs h_seq h_power h_rings h_det, raise0_frame h_regs h_seq h_rings h_det, set_frame h_regs, showHold_frame h_regs, h_power.eq]
    | split
    | dsimp only
    | with_reducible rfl

theorem execBudgetWindowClose_frame (h_regs : Blind.regs φ) (h_time : Blind.time φ) (h_pending : Blind.pending φ) (h_out : Blind.out φ) (h_power : Blind.power φ) (now : W64) (s : State) (t' : State)
    (h : execBudgetWindowClose now s = .next t') : φ t' = φ s := by
  unfold execBudgetWindowClose at h
  refine perform_frame h_out h_pending h (fun s => ?_)
  repeat' first
    | simp only [at__frame h_time, setStageRate_frame h_regs h_power, h_power.eq]
    | with_reducible refine Eq.trans (foldl_frame (fun _ _ => ?_) _ _) ?_
    | split
    | dsimp only
    | with_reducible rfl

theorem execConverterFailed_frame (h_regs : Blind.regs φ) (h_pkg : Blind.pkg φ) (h_time : Blind.time φ) (h_seq : Blind.seq φ) (h_pending : Blind.pending φ) (h_out : Blind.out φ) (h_pins : Blind.pins φ) (h_power : Blind.power φ) (h_rings : Blind.rings φ) (h_journal : Blind.journal φ) (h_sec : Blind.sec φ) (h_det : Blind.det φ) (now : W64) (k : Nat) (s : State) (t' : State)
    (h : execConverterFailed now k s = .next t') : φ t' = φ s := by
  unfold execConverterFailed at h
  refine perform_frame h_out h_pending h (fun s => ?_)
  repeat' first
    | simp only [at__frame h_time, formBudget_frame h_regs h_power, hitInjection_frame h_regs h_seq h_rings h_journal h_sec h_det, packageFault_frame h_pkg h_out h_pins, raise0_frame h_regs h_seq h_rings h_det, set_frame h_regs, h_power.eq]
    | split
    | dsimp only
    | with_reducible rfl

theorem execInputLow_frame (h_regs : Blind.regs φ) (h_seq : Blind.seq φ) (h_pending : Blind.pending φ) (h_out : Blind.out φ) (h_power : Blind.power φ) (h_rings : Blind.rings φ) (h_det : Blind.det φ) (mv : Nat) (s : State) (t' : State)
    (h : execInputLow mv s = .next t') : φ t' = φ s := by
  unfold execInputLow at h
  refine perform_frame h_out h_pending h (fun s => ?_)
  repeat' first
    | simp only [holdAdmission_frame h_regs h_power, raise0_frame h_regs h_seq h_rings h_det, set_frame h_regs, h_power.eq]
    | split
    | dsimp only
    | with_reducible rfl

theorem execInputRestored_frame (h_regs : Blind.regs φ) (h_pending : Blind.pending φ) (h_out : Blind.out φ) (h_power : Blind.power φ) (mv : Nat) (s : State) (t' : State)
    (h : execInputRestored mv s = .next t') : φ t' = φ s := by
  unfold execInputRestored at h
  refine perform_frame h_out h_pending h (fun s => ?_)
  repeat' first
    | simp only [set_frame h_regs, showHold_frame h_regs, h_power.eq]
    | split
    | dsimp only
    | with_reducible rfl

theorem execInputOutOfRange_frame (h_pkg : Blind.pkg φ) (h_pending : Blind.pending φ) (h_out : Blind.out φ) (h_pins : Blind.pins φ) (h_power : Blind.power φ) (mv : Nat) (s : State) (t' : State)
    (h : execInputOutOfRange mv s = .next t') : φ t' = φ s := by
  unfold execInputOutOfRange at h
  refine perform_frame h_out h_pending h (fun s => ?_)
  repeat' first
    | simp only [packageFault_frame h_pkg h_out h_pins, h_power.eq]
    | split
    | dsimp only
    | with_reducible rfl

theorem execAdmissionToken_frame (h_regs : Blind.regs φ) (h_pending : Blind.pending φ) (h_out : Blind.out φ) (h_power : Blind.power φ) (h_treads : Blind.treads φ) (gfs : List Nat) (s : State) (t' : State)
    (h : execAdmissionToken gfs s = .next t') : φ t' = φ s := by
  unfold execAdmissionToken at h
  refine perform_frame h_out h_pending h (fun s => ?_)
  repeat' first
    | simp only [set_frame h_regs, tokenAll_frame h_regs h_power h_treads]
    | split
    | refine Eq.trans (tokenAll_frame_of h_regs h_power h_treads ‹_›) ?_
    | dsimp only
    | with_reducible rfl

theorem execRetainEntry_frame (h_regs : Blind.regs φ) (h_pending : Blind.pending φ) (h_out : Blind.out φ) (h_power : Blind.power φ) (gf : Nat) (s : State) (t' : State)
    (h : execRetainEntry gf s = .next t') : φ t' = φ s := by
  unfold execRetainEntry at h
  refine perform_frame h_out h_pending h (fun s => ?_)
  repeat' first
    | simp only [dropAdmission_frame h_power, set_frame h_regs]
    | split
    | dsimp only
    | with_reducible rfl

theorem execRetainExit_frame (h_regs : Blind.regs φ) (h_pending : Blind.pending φ) (h_out : Blind.out φ) (gf : Nat) (s : State) (t' : State)
    (h : execRetainExit gf s = .next t') : φ t' = φ s := by
  unfold execRetainExit at h
  refine perform_frame h_out h_pending h (fun s => ?_)
  repeat' first
    | simp only [set_frame h_regs]
    | split
    | dsimp only
    | with_reducible rfl

theorem execThermalSample_frame (h_regs : Blind.regs φ) (h_pkg : Blind.pkg φ) (h_time : Blind.time φ) (h_seq : Blind.seq φ) (h_pending : Blind.pending φ) (h_out : Blind.out φ) (h_pins : Blind.pins φ) (h_power : Blind.power φ) (h_treads : Blind.treads φ) (h_flights : Blind.flights φ) (h_rings : Blind.rings φ) (h_journal : Blind.journal φ) (h_sec : Blind.sec φ) (h_det : Blind.det φ) (now : W64) (readings : List (Nat × Int)) (s : State) (t' : State)
    (h : execThermalSample now readings s = .next t') : φ t' = φ s := by
  unfold execThermalSample at h
  refine perform_frame h_out h_pending h (fun s => ?_)
  repeat' first
    | simp only [at__frame h_time, hitAll_frame h_regs h_seq h_rings h_journal h_sec h_det, lowerCodes_frame h_regs, sampleFlights_frame h_regs h_seq h_power h_rings h_det, set_frame h_regs, takeReadings_frame h_power, thermalTrip_frame h_regs h_pkg h_seq h_out h_pins h_power h_treads h_flights h_rings h_det]
    | split
    | dsimp only
    | with_reducible refine Eq.trans (foldl_frame (fun _ _ => ?_) _ _) ?_
    | with_reducible rfl

end Sys2Proof.Laws
end

