-- ==== Sys2Proof/Laws/RegOpsKeep.lean ====
section
/-!
SUPPORT. Frames of the commands of Sys2Proof/Machine/RegOps.lean: what a command does not write stays as it was.
-/
namespace Sys2Proof.Laws
open Machine Machine.State

set_option linter.unusedSimpArgs false
set_option linter.unusedTactic false
set_option linter.unreachableTactic false
set_option linter.unusedVariables false

variable {α : Type} {φ : State → α}

theorem execRegisterWrite_frame (h_regs : Blind.regs φ) (h_pending : Blind.pending φ) (h_out : Blind.out φ) (h_journal : Blind.journal φ) (h_det : Blind.det φ) (who : Who) (off n : Nat) (value : W64) (s : State) (t' : State)
    (h : execRegisterWrite who off n value s = .next t') : φ t' = φ s := by
  unfold execRegisterWrite at h
  refine perform_frame h_out h_pending h (fun s => ?_)
  repeat' first
    | simp only [writeReg_frame h_regs h_journal h_det]
    | split
    | dsimp only
    | with_reducible rfl

theorem execRcRead_frame (h_regs : Blind.regs φ) (h_seq : Blind.seq φ) (h_pending : Blind.pending φ) (h_out : Blind.out φ) (h_hiLatch : Blind.hiLatch φ) (h_commitLatch : Blind.commitLatch φ) (h_rings : Blind.rings φ) (h_journal : Blind.journal φ) (h_sec : Blind.sec φ) (h_det : Blind.det φ) (who : Who) (off : Nat) (during : W32) (s : State) (t' : State)
    (h : execRcRead who off during s = .next t') : φ t' = φ s := by
  unfold execRcRead at h
  refine perform_frame h_out h_pending h (fun s => ?_)
  repeat' first
    | simp only [put_frame h_out, regRead_frame h_regs h_seq h_hiLatch h_commitLatch h_rings h_journal h_sec h_det]
    | split
    | refine Eq.trans (regRead_frame_of h_regs h_seq h_hiLatch h_commitLatch h_rings h_journal h_sec h_det ‹_›) ?_
    | dsimp only
    | with_reducible rfl

theorem execHighWordLatchRead_frame (h_regs : Blind.regs φ) (h_seq : Blind.seq φ) (h_pending : Blind.pending φ) (h_out : Blind.out φ) (h_hiLatch : Blind.hiLatch φ) (h_commitLatch : Blind.commitLatch φ) (h_rings : Blind.rings φ) (h_journal : Blind.journal φ) (h_sec : Blind.sec φ) (h_det : Blind.det φ) (who : Who) (off n : Nat) (s : State) (t' : State)
    (h : execHighWordLatchRead who off n s = .next t') : φ t' = φ s := by
  unfold execHighWordLatchRead at h
  refine perform_frame h_out h_pending h (fun s => ?_)
  repeat' first
    | simp only [put_frame h_out, regRead_frame h_regs h_seq h_hiLatch h_commitLatch h_rings h_journal h_sec h_det]
    | split
    | refine Eq.trans (regRead_frame_of h_regs h_seq h_hiLatch h_commitLatch h_rings h_journal h_sec h_det ‹_›) ?_
    | dsimp only
    | with_reducible rfl

theorem execCommittedStepRead_frame (h_regs : Blind.regs φ) (h_seq : Blind.seq φ) (h_pending : Blind.pending φ) (h_out : Blind.out φ) (h_hiLatch : Blind.hiLatch φ) (h_commitLatch : Blind.commitLatch φ) (h_rings : Blind.rings φ) (h_journal : Blind.journal φ) (h_sec : Blind.sec φ) (h_det : Blind.det φ) (who : Who) (p n : Nat) (s : State) (t' : State)
    (h : execCommittedStepRead who p n s = .next t') : φ t' = φ s := by
  unfold execCommittedStepRead at h
  refine perform_frame h_out h_pending h (fun s => ?_)
  repeat' first
    | simp only [put_frame h_out, regRead_frame h_regs h_seq h_hiLatch h_commitLatch h_rings h_journal h_sec h_det]
    | split
    | refine Eq.trans (regRead_frame_of h_regs h_seq h_hiLatch h_commitLatch h_rings h_journal h_sec h_det ‹_›) ?_
    | dsimp only
    | with_reducible rfl

theorem execRw1cWrite_frame (h_regs : Blind.regs φ) (h_pending : Blind.pending φ) (h_out : Blind.out φ) (h_journal : Blind.journal φ) (h_det : Blind.det φ) (who : Who) (off : Nat) (value sets : W32) (s : State) (t' : State)
    (h : execRw1cWrite who off value sets s = .next t') : φ t' = φ s := by
  unfold execRw1cWrite at h
  refine perform_frame h_out h_pending h (fun s => ?_)
  repeat' first
    | simp only [clearW1c_frame h_regs, writeReg_frame h_regs h_journal h_det]
    | split
    | dsimp only
    | with_reducible rfl

theorem execPkgIdLock_frame (h_regs : Blind.regs φ) (h_pending : Blind.pending φ) (h_out : Blind.out φ) (h_journal : Blind.journal φ) (h_det : Blind.det φ) (value : W32) (s : State) (t' : State)
    (h : execPkgIdLock value s = .next t') : φ t' = φ s := by
  unfold execPkgIdLock at h
  refine perform_frame h_out h_pending h (fun s => ?_)
  repeat' first
    | simp only [journalWrite_frame h_regs h_journal, set_frame h_regs, writeReg_frame h_regs h_journal h_det]
    | split
    | dsimp only
    | with_reducible rfl

end Sys2Proof.Laws
end

