-- ==== Sys2Proof/Laws/RingsKeep.lean ====
section
/-!
SUPPORT. Frames of the commands of Sys2Proof/Machine/Rings.lean: what a command does not write stays as it was.
-/
namespace Sys2Proof.Laws
open Machine Machine.State

set_option linter.unusedSimpArgs false
set_option linter.unusedTactic false
set_option linter.unreachableTactic false
set_option linter.unusedVariables false

variable {α : Type} {φ : State → α}

theorem execBucketEnter_frame (h_regs : Blind.regs φ) (h_seq : Blind.seq φ) (h_pending : Blind.pending φ) (h_out : Blind.out φ) (h_rigs : Blind.rigs φ) (h_parts : Blind.parts φ) (h_reds : Blind.reds φ) (h_memCheck : Blind.memCheck φ) (h_ucs : Blind.ucs φ) (h_ropes : Blind.ropes φ) (h_rings : Blind.rings φ) (h_svcs : Blind.svcs φ) (h_journal : Blind.journal φ) (h_sec : Blind.sec φ) (h_det : Blind.det φ) (slot : Nat) (bad : List (Nat × Nat)) (s : State) (t' : State)
    (h : execBucketEnter slot bad s = .next t') : φ t' = φ s := by
  unfold execBucketEnter at h
  refine perform_frame h_out h_pending h (fun s => ?_)
  repeat' first
    | simp only [bump_frame h_regs, gateRing_frame h_parts, memRead_frame h_regs h_seq h_out h_rigs h_memCheck h_ucs h_ropes h_rings h_svcs h_journal h_sec h_det, sendReduction_frame h_regs h_seq h_out h_rigs h_parts h_reds h_memCheck h_ucs h_ropes h_rings h_svcs h_journal h_sec h_det, setRed_frame h_reds]
    | refine Eq.trans (withRing_frame _ _ _ (fun _ _ _ _ _ => ?_)) ?_
    | split
    | refine Eq.trans (memRead_frame_of h_regs h_seq h_out h_rigs h_memCheck h_ucs h_ropes h_rings h_svcs h_journal h_sec h_det ‹_›) ?_
    | refine Eq.trans (sendReduction_frame_of h_regs h_seq h_out h_rigs h_parts h_reds h_memCheck h_ucs h_ropes h_rings h_svcs h_journal h_sec h_det ‹_›) ?_
    | dsimp only
    | with_reducible rfl

theorem execRingMessageSend_frame (h_regs : Blind.regs φ) (h_seq : Blind.seq φ) (h_pending : Blind.pending φ) (h_out : Blind.out φ) (h_rigs : Blind.rigs φ) (h_parts : Blind.parts φ) (h_reds : Blind.reds φ) (h_mem : Blind.mem φ) (h_memCheck : Blind.memCheck φ) (h_memEpoch : Blind.memEpoch φ) (h_memKey : Blind.memKey φ) (h_ucs : Blind.ucs φ) (h_ropes : Blind.ropes φ) (h_rings : Blind.rings φ) (h_svcs : Blind.svcs φ) (h_journal : Blind.journal φ) (h_sec : Blind.sec φ) (h_det : Blind.det φ) (slot : Nat) (bad : List (Nat × Nat)) (s : State) (t' : State)
    (h : execRingMessageSend slot bad s = .next t') : φ t' = φ s := by
  unfold execRingMessageSend at h
  refine perform_frame h_out h_pending h (fun s => ?_)
  repeat' first
    | simp only [sendReduction_frame h_regs h_seq h_out h_rigs h_parts h_reds h_memCheck h_ucs h_ropes h_rings h_svcs h_journal h_sec h_det, sendRing_frame h_out h_ropes, setRed_frame h_reds, settleGather_frame h_regs h_seq h_out h_rigs h_parts h_reds h_mem h_memCheck h_memEpoch h_memKey h_ucs h_ropes h_rings h_svcs h_journal h_sec h_det, settleTotal_frame h_regs h_seq h_out h_rigs h_parts h_reds h_mem h_memCheck h_memEpoch h_memKey h_ucs h_ropes h_rings h_svcs h_journal h_sec h_det]
    | refine Eq.trans (withRing_frame _ _ _ (fun _ _ _ _ _ => ?_)) ?_
    | split
    | refine Eq.trans (sendReduction_frame_of h_regs h_seq h_out h_rigs h_parts h_reds h_memCheck h_ucs h_ropes h_rings h_svcs h_journal h_sec h_det ‹_›) ?_
    | dsimp only
    | with_reducible rfl

theorem execRingData_frame (h_regs : Blind.regs φ) (h_seq : Blind.seq φ) (h_pending : Blind.pending φ) (h_out : Blind.out φ) (h_rigs : Blind.rigs φ) (h_parts : Blind.parts φ) (h_reds : Blind.reds φ) (h_mem : Blind.mem φ) (h_memCheck : Blind.memCheck φ) (h_memEpoch : Blind.memEpoch φ) (h_memKey : Blind.memKey φ) (h_ucs : Blind.ucs φ) (h_ropes : Blind.ropes φ) (h_rings : Blind.rings φ) (h_svcs : Blind.svcs φ) (h_journal : Blind.journal φ) (h_sec : Blind.sec φ) (h_det : Blind.det φ) (k v : Nat) (msg : List Byte) (bad : List (Nat × Nat)) (s : State) (t' : State)
    (h : execRingData k v msg bad s = .next t') : φ t' = φ s := by
  unfold execRingData at h
  refine perform_frame h_out h_pending h (fun s => ?_)
  repeat' first
    | simp only [peerMismatch_frame h_regs h_seq h_out h_rigs h_ropes h_rings h_svcs h_det, settleGather_frame h_regs h_seq h_out h_rigs h_parts h_reds h_mem h_memCheck h_memEpoch h_memKey h_ucs h_ropes h_rings h_svcs h_journal h_sec h_det, settleTotal_frame h_regs h_seq h_out h_rigs h_parts h_reds h_mem h_memCheck h_memEpoch h_memKey h_ucs h_ropes h_rings h_svcs h_journal h_sec h_det, takeGather_frame h_regs h_seq h_out h_rigs h_reds h_mem h_memCheck h_memEpoch h_memKey h_ropes h_rings h_svcs h_journal h_sec h_det, takeReduction_frame h_regs h_seq h_out h_rigs h_reds h_mem h_memCheck h_memEpoch h_memKey h_ropes h_rings h_svcs h_journal h_sec h_det]
    | refine Eq.trans (withRing_frame _ _ _ (fun _ _ _ _ _ => ?_)) ?_
    | split
    | dsimp only
    | with_reducible rfl

theorem execRingCredit_frame (h_regs : Blind.regs φ) (h_seq : Blind.seq φ) (h_pending : Blind.pending φ) (h_out : Blind.out φ) (h_rigs : Blind.rigs φ) (h_reds : Blind.reds φ) (h_ropes : Blind.ropes φ) (h_rings : Blind.rings φ) (h_svcs : Blind.svcs φ) (h_det : Blind.det φ) (k v : Nat) (msg : List Byte) (s : State) (t' : State)
    (h : execRingCredit k v msg s = .next t') : φ t' = φ s := by
  unfold execRingCredit at h
  refine perform_frame h_out h_pending h (fun s => ?_)
  repeat' first
    | simp only [peerMismatch_frame h_regs h_seq h_out h_rigs h_ropes h_rings h_svcs h_det, setRed_frame h_reds, tookMsg_frame h_ropes]
    | split
    | dsimp only
    | with_reducible rfl

theorem execUpdateGroup_frame (h_regs : Blind.regs φ) (h_seq : Blind.seq φ) (h_pending : Blind.pending φ) (h_out : Blind.out φ) (h_rigs : Blind.rigs φ) (h_parts : Blind.parts φ) (h_reds : Blind.reds φ) (h_mem : Blind.mem φ) (h_memCheck : Blind.memCheck φ) (h_memEpoch : Blind.memEpoch φ) (h_memKey : Blind.memKey φ) (h_ucs : Blind.ucs φ) (h_ropes : Blind.ropes φ) (h_rings : Blind.rings φ) (h_svcs : Blind.svcs φ) (h_journal : Blind.journal φ) (h_sec : Blind.sec φ) (h_det : Blind.det φ) (slot : Nat) (bad : List (Nat × Nat)) (s : State) (t' : State)
    (h : execUpdateGroup slot bad s = .next t') : φ t' = φ s := by
  unfold execUpdateGroup at h
  refine perform_frame h_out h_pending h (fun s => ?_)
  repeat' first
    | simp only [advanceUpd_frame h_reds, loadAndUpdate_frame h_regs h_seq h_out h_rigs h_parts h_reds h_mem h_memCheck h_memEpoch h_memKey h_ucs h_ropes h_rings h_svcs h_journal h_sec h_det]
    | refine Eq.trans (withRing_frame _ _ _ (fun _ _ _ _ _ => ?_)) ?_
    | split
    | dsimp only
    | with_reducible rfl

theorem execVbmax_frame (h_pending : Blind.pending φ) (h_out : Blind.out φ) (h_ucs : Blind.ucs φ) (u : Nat) (vd va : BitVec 3) (s : State) (t' : State)
    (h : execVbmax u vd va s = .next t') : φ t' = φ s := by
  unfold execVbmax at h
  refine perform_frame h_out h_pending h (fun s => ?_)
  repeat' first
    | simp only [setUcReg_frame h_ucs]
    | split
    | dsimp only
    | with_reducible rfl

theorem execVsqrt_frame (h_pending : Blind.pending φ) (h_out : Blind.out φ) (h_ucs : Blind.ucs φ) (u : Nat) (vd va : BitVec 3) (s : State) (t' : State)
    (h : execVsqrt u vd va s = .next t') : φ t' = φ s := by
  unfold execVsqrt at h
  refine perform_frame h_out h_pending h (fun s => ?_)
  repeat' first
    | simp only [setUcReg_frame h_ucs]
    | split
    | dsimp only
    | with_reducible rfl

theorem execVdiv_frame (h_pending : Blind.pending φ) (h_out : Blind.out φ) (h_ucs : Blind.ucs φ) (u : Nat) (vd va vb : BitVec 3) (s : State) (t' : State)
    (h : execVdiv u vd va vb s = .next t') : φ t' = φ s := by
  unfold execVdiv at h
  refine perform_frame h_out h_pending h (fun s => ?_)
  repeat' first
    | simp only [setUcReg_frame h_ucs]
    | split
    | dsimp only
    | with_reducible rfl

theorem execVmmul_frame (h_pending : Blind.pending φ) (h_out : Blind.out φ) (h_ucs : Blind.ucs φ) (u : Nat) (vd va vb : BitVec 3) (s : State) (t' : State)
    (h : execVmmul u vd va vb s = .next t') : φ t' = φ s := by
  unfold execVmmul at h
  refine perform_frame h_out h_pending h (fun s => ?_)
  repeat' first
    | simp only [setUcReg_frame h_ucs]
    | split
    | dsimp only
    | with_reducible rfl

theorem execVtrans_frame (h_pending : Blind.pending φ) (h_out : Blind.out φ) (h_ucs : Blind.ucs φ) (u : Nat) (vd va : BitVec 3) (s : State) (t' : State)
    (h : execVtrans u vd va s = .next t') : φ t' = φ s := by
  unfold execVtrans at h
  refine perform_frame h_out h_pending h (fun s => ?_)
  repeat' first
    | simp only [setUcReg_frame h_ucs]
    | split
    | dsimp only
    | with_reducible rfl

theorem execSchedScaleWrite_frame (h_regs : Blind.regs φ) (h_pending : Blind.pending φ) (h_out : Blind.out φ) (who : Who) (p i : Nat) (value : W32) (s : State) (t' : State)
    (h : execSchedScaleWrite who p i value s = .next t') : φ t' = φ s := by
  unfold execSchedScaleWrite at h
  refine perform_frame h_out h_pending h (fun s => ?_)
  repeat' first
    | simp only [setScale_frame h_regs]
    | refine Eq.trans (whenUp_frame (fun _ => ?_) _) ?_
    | split
    | dsimp only
    | with_reducible rfl

end Sys2Proof.Laws
end

