-- ==== Sys2Proof/Laws/RopesFrame.lean ====
section
/-!
SUPPORT. Frames of the operations of Sys2Proof/Machine/Ropes.lean: what none of them writes stays as it was.
-/
namespace Sys2Proof.Laws
open Machine Machine.State

set_option linter.unusedSimpArgs false
set_option linter.unusedTactic false
set_option linter.unreachableTactic false
set_option linter.unusedVariables false

variable {α : Type} {φ : State → α}

theorem closeWindow_frame (h_regs : Blind.regs φ) (h_seq : Blind.seq φ) (h_ropes : Blind.ropes φ) (h_rings : Blind.rings φ) (h_det : Blind.det φ) (k : Nat) (s : State) :
    φ (closeWindow k s) = φ s := by
  unfold closeWindow
  repeat' first
    | simp only [dropStrand_frame h_regs h_ropes, raise0_frame h_regs h_seq h_rings h_det, set_frame h_regs, setRope_frame h_ropes]
    | with_reducible refine Eq.trans (foldl_frame (fun _ _ => ?_) _ _) ?_
    | split
    | dsimp only
    | with_reducible rfl

theorem countFlit_frame (h_ropes : Blind.ropes φ) (k : Nat) (bad : Bool) (corr : Nat) (uncorr : List Nat) (s : State) :
    φ (countFlit k bad corr uncorr s) = φ s := by
  unfold countFlit
  repeat' first
    | simp only [setRope_frame h_ropes]
    | split
    | dsimp only
    | with_reducible rfl

theorem waitReplay_frame (h_regs : Blind.regs φ) (h_ropes : Blind.ropes φ) (k : Nat) (s : State) :
    φ (waitReplay k s) = φ s := by
  unfold waitReplay
  repeat' first
    | simp only [bump_frame h_regs, setRope_frame h_ropes]
    | split
    | dsimp only
    | with_reducible rfl

theorem takeCredit_frame (h_ropes : Blind.ropes φ) (k : Nat) (h : FlitHdr) (s : State) :
    φ (takeCredit k h s) = φ s := by
  unfold takeCredit
  repeat' first
    | simp only [setVchan_frame h_ropes]
    | split
    | dsimp only
    | with_reducible rfl

theorem takeAck_frame (h_regs : Blind.regs φ) (h_ropes : Blind.ropes φ) (k : Nat) (h : FlitHdr) (s : State) :
    φ (takeAck k h s) = φ s := by
  unfold takeAck
  repeat' first
    | simp only [setRope_frame h_ropes, startReplay_frame h_regs h_ropes]
    | split
    | dsimp only
    | with_reducible rfl

theorem accepted_frame (h_ropes : Blind.ropes φ) (k : Nat) (s : State) :
    φ (accepted k s) = φ s := by
  unfold accepted
  repeat' first
    | simp only [setRope_frame h_ropes]
    | split
    | dsimp only
    | with_reducible rfl

theorem takeSequenced_frame (h_regs : Blind.regs φ) (h_seq : Blind.seq φ) (h_out : Blind.out φ) (h_rigs : Blind.rigs φ) (h_ropes : Blind.ropes φ) (h_fabric : Blind.fabric φ) (h_rings : Blind.rings φ) (h_svcs : Blind.svcs φ) (h_journal : Blind.journal φ) (h_sec : Blind.sec φ) (h_det : Blind.det φ) (k v : Nat) (h : FlitHdr) (f : List Byte) (s : State) :
    φ (takeSequenced k v h f s) = φ s := by
  unfold takeSequenced
  repeat' first
    | simp only [accepted_frame h_ropes, authFail_frame h_regs h_seq h_out h_rigs h_ropes h_rings h_svcs h_det, clearOldSlots_frame h_ropes, loseRope_frame h_regs h_seq h_out h_ropes h_fabric h_rings h_svcs h_journal h_sec h_det, raise0_frame h_regs h_seq h_rings h_det, setRope_frame h_ropes, setVchan_frame h_ropes, takeAck_frame h_regs h_ropes, takeCredit_frame h_ropes, waitReplay_frame h_regs h_ropes]
    | split
    | dsimp only
    | with_reducible rfl

theorem receiveFlit_frame (h_regs : Blind.regs φ) (h_seq : Blind.seq φ) (h_out : Blind.out φ) (h_rigs : Blind.rigs φ) (h_ropes : Blind.ropes φ) (h_fabric : Blind.fabric φ) (h_rings : Blind.rings φ) (h_svcs : Blind.svcs φ) (h_journal : Blind.journal φ) (h_sec : Blind.sec φ) (h_det : Blind.det φ) (types : List Nat) (k : Nat) (f : List Byte) (touched : Bool) (corr : Nat) (uncorr : List Nat) (s : State) :
    φ (receiveFlit types k f touched corr uncorr s) = φ s := by
  unfold receiveFlit
  repeat' first
    | simp only [bump_frame h_regs, clearOldSlots_frame h_ropes, closeWindow_frame h_regs h_seq h_ropes h_rings h_det, countFlit_frame h_ropes, takeAck_frame h_regs h_ropes, takeCredit_frame h_ropes, takeSequenced_frame h_regs h_seq h_out h_rigs h_ropes h_fabric h_rings h_svcs h_journal h_sec h_det, waitReplay_frame h_regs h_ropes]
    | split
    | dsimp only
    | with_reducible rfl

theorem tellSession_frame (h_regs : Blind.regs φ) (h_ropes : Blind.ropes φ) (k : Nat) (i : TrainInfo) (s : State) :
    φ (tellSession k i s) = φ s := by
  unfold tellSession
  repeat' first
    | simp only [setRope_frame h_ropes, showPeer_frame h_regs]
    | split
    | dsimp only
    | with_reducible rfl

theorem pullLanding_frame (h_out : Blind.out φ) (h_landings : Blind.landings φ) (h_ropes : Blind.ropes φ) (k v : Nat) (s : State) :
    φ (pullLanding k v s) = φ s := by
  unfold pullLanding
  repeat' first
    | simp only [sendJob_frame h_out h_ropes, setLanding_frame h_landings]
    | split
    | dsimp only
    | with_reducible rfl

theorem currentFields_frame (h_ropes : Blind.ropes φ) (k : Nat) (h : FlitHdr) (s : State) :
    φ (currentFields k h s).2 = φ s := by
  unfold currentFields
  repeat' first
    | simp only [setRope_frame h_ropes, setVchan_frame h_ropes]
    | split
    | dsimp only
    | with_reducible rfl

theorem currentFields_frame_of (h_ropes : Blind.ropes φ) {k : Nat} {h : FlitHdr} {s : State} {t' : State} {x0}
    (h' : currentFields k h s = (x0, t')) : φ t' = φ s := by
  rw [← currentFields_frame h_ropes k h s, h']

theorem emitFlit_frame (h_regs : Blind.regs φ) (h_seq : Blind.seq φ) (h_out : Blind.out φ) (h_ropes : Blind.ropes φ) (h_rings : Blind.rings φ) (h_journal : Blind.journal φ) (h_sec : Blind.sec φ) (h_det : Blind.det φ) (k : Nat) (f : List Byte) (s : State) :
    φ (emitFlit k f s) = φ s := by
  unfold emitFlit
  repeat' first
    | simp only [hitInjection_frame h_regs h_seq h_rings h_journal h_sec h_det, put_frame h_out, setRope_frame h_ropes]
    | with_reducible refine Eq.trans (foldl_frame (fun _ _ => ?_) _ _) ?_
    | split
    | dsimp only
    | with_reducible rfl

theorem replayFlit_frame (h_regs : Blind.regs φ) (h_seq : Blind.seq φ) (h_out : Blind.out φ) (h_ropes : Blind.ropes φ) (h_rings : Blind.rings φ) (h_journal : Blind.journal φ) (h_sec : Blind.sec φ) (h_det : Blind.det φ) (k seq : Nat) (s : State) :
    φ (replayFlit k seq s) = φ s := by
  unfold replayFlit
  repeat' first
    | simp only [currentFields_frame h_ropes, emitFlit_frame h_regs h_seq h_out h_ropes h_rings h_journal h_sec h_det, setRope_frame h_ropes]
    | split
    | refine Eq.trans (currentFields_frame_of h_ropes ‹_›) ?_
    | dsimp only
    | with_reducible rfl

theorem idleFlit_frame (h_regs : Blind.regs φ) (h_seq : Blind.seq φ) (h_out : Blind.out φ) (h_ropes : Blind.ropes φ) (h_rings : Blind.rings φ) (h_journal : Blind.journal φ) (h_sec : Blind.sec φ) (h_det : Blind.det φ) (k : Nat) (s : State) :
    φ (idleFlit k s) = φ s := by
  unfold idleFlit
  repeat' first
    | simp only [currentFields_frame h_ropes, emitFlit_frame h_regs h_seq h_out h_ropes h_rings h_journal h_sec h_det]
    | split
    | refine Eq.trans (currentFields_frame_of h_ropes ‹_›) ?_
    | dsimp only
    | with_reducible rfl

theorem newFlit_frame (h_regs : Blind.regs φ) (h_seq : Blind.seq φ) (h_out : Blind.out φ) (h_ropes : Blind.ropes φ) (h_rings : Blind.rings φ) (h_journal : Blind.journal φ) (h_sec : Blind.sec φ) (h_det : Blind.det φ) (k v : Nat) (s : State) :
    φ (newFlit k v s) = φ s := by
  unfold newFlit
  repeat' first
    | simp only [clearOldSlots_frame h_ropes, currentFields_frame h_ropes, emitFlit_frame h_regs h_seq h_out h_ropes h_rings h_journal h_sec h_det, idleFlit_frame h_regs h_seq h_out h_ropes h_rings h_journal h_sec h_det, journalNonce_frame h_regs h_journal, raise_frame h_regs h_seq h_rings h_det, setRope_frame h_ropes, setVchan_frame h_ropes]
    | split
    | refine Eq.trans (currentFields_frame_of h_ropes ‹_›) ?_
    | dsimp only
    | with_reducible rfl

theorem pullAll_frame (h_out : Blind.out φ) (h_landings : Blind.landings φ) (h_ropes : Blind.ropes φ) (k : Nat) (s : State) :
    φ (pullAll k s) = φ s := by
  unfold pullAll
  repeat' first
    | simp only [pullLanding_frame h_out h_landings h_ropes]
    | with_reducible refine Eq.trans (foldl_frame (fun _ _ => ?_) _ _) ?_
    | split
    | dsimp only
    | with_reducible rfl

theorem freshFlit_frame (h_regs : Blind.regs φ) (h_seq : Blind.seq φ) (h_out : Blind.out φ) (h_landings : Blind.landings φ) (h_ropes : Blind.ropes φ) (h_rings : Blind.rings φ) (h_journal : Blind.journal φ) (h_sec : Blind.sec φ) (h_det : Blind.det φ) (k first : Nat) (s : State) :
    φ (freshFlit k first s) = φ s := by
  unfold freshFlit
  repeat' first
    | simp -zeta only [idleFlit_frame h_regs h_seq h_out h_ropes h_rings h_journal h_sec h_det, newFlit_frame h_regs h_seq h_out h_ropes h_rings h_journal h_sec h_det, pullAll_frame h_out h_landings h_ropes]
    | split
    | extract_lets
    | simp +zetaDelta only [idleFlit_frame h_regs h_seq h_out h_ropes h_rings h_journal h_sec h_det, newFlit_frame h_regs h_seq h_out h_ropes h_rings h_journal h_sec h_det, pullAll_frame h_out h_landings h_ropes]
    | with_reducible rfl

end Sys2Proof.Laws
end

