-- ==== Sys2Proof/Laws/RopesKeep.lean ====
section
/-!
SUPPORT. Frames of the commands of Sys2Proof/Machine/Ropes.lean: what a command does not write stays as it was.
-/
namespace Sys2Proof.Laws
open Machine Machine.State

set_option linter.unusedSimpArgs false
set_option linter.unusedTactic false
set_option linter.unreachableTactic false
set_option linter.unusedVariables false

variable {α : Type} {φ : State → α}

theorem execRopeSignalLock_frame (h_regs : Blind.regs φ) (h_pending : Blind.pending φ) (h_out : Blind.out φ) (h_ropes : Blind.ropes φ) (k : Nat) (mask : Byte) (s : State) (t' : State)
    (h : execRopeSignalLock k mask s = .next t') : φ t' = φ s := by
  unfold execRopeSignalLock at h
  refine perform_frame h_out h_pending h (fun s => ?_)
  repeat' first
    | simp only [setRope_frame h_ropes, setRopeSt_frame h_regs]
    | refine Eq.trans (whenUp_frame (fun _ => ?_) _) ?_
    | split
    | dsimp only
    | with_reducible rfl

theorem execRopeTrainRetry_frame (h_regs : Blind.regs φ) (h_pending : Blind.pending φ) (h_out : Blind.out φ) (h_ropes : Blind.ropes φ) (k : Nat) (s : State) (t' : State)
    (h : execRopeTrainRetry k s = .next t') : φ t' = φ s := by
  unfold execRopeTrainRetry at h
  refine perform_frame h_out h_pending h (fun s => ?_)
  repeat' first
    | simp only [setRope_frame h_ropes, wakeRope_frame h_regs h_ropes]
    | refine Eq.trans (whenUp_frame (fun _ => ?_) _) ?_
    | split
    | dsimp only
    | with_reducible rfl

theorem execRopeGraceExpiry_frame (h_regs : Blind.regs φ) (h_timers : Blind.timers φ) (h_seq : Blind.seq φ) (h_pending : Blind.pending φ) (h_out : Blind.out φ) (h_ropes : Blind.ropes φ) (h_fabric : Blind.fabric φ) (h_rings : Blind.rings φ) (h_svcs : Blind.svcs φ) (h_journal : Blind.journal φ) (h_sec : Blind.sec φ) (h_det : Blind.det φ) (k : Nat) (now : W64) (s : State) (t' : State)
    (h : execRopeGraceExpiry k now s = .next t') : φ t' = φ s := by
  unfold execRopeGraceExpiry at h
  refine perform_frame h_out h_pending h (fun s => ?_)
  repeat' first
    | simp only [loseRope_frame h_regs h_seq h_out h_ropes h_fabric h_rings h_svcs h_journal h_sec h_det, ropeAt_frame h_timers]
    | split
    | dsimp only
    | with_reducible rfl

theorem execStrandLockLoss_frame (h_regs : Blind.regs φ) (h_timers : Blind.timers φ) (h_pending : Blind.pending φ) (h_out : Blind.out φ) (h_ropes : Blind.ropes φ) (k : Nat) (mask : Byte) (now : W64) (s : State) (t' : State)
    (h : execStrandLockLoss k mask now s = .next t') : φ t' = φ s := by
  unfold execStrandLockLoss at h
  refine perform_frame h_out h_pending h (fun s => ?_)
  repeat' first
    | simp only [dropStrand_frame h_regs h_ropes, enterGrace_frame h_regs h_ropes, ropeAt_frame h_timers, setRope_frame h_ropes, setRopeSt_frame h_regs]
    | with_reducible refine Eq.trans (foldl_frame (fun _ _ => ?_) _ _) ?_
    | split
    | dsimp only
    | with_reducible rfl

theorem execRopeRetrain_frame (h_regs : Blind.regs φ) (h_timers : Blind.timers φ) (h_pending : Blind.pending φ) (h_out : Blind.out φ) (h_ropes : Blind.ropes φ) (k : Nat) (value : W32) (now : W64) (s : State) (t' : State)
    (h : execRopeRetrain k value now s = .next t') : φ t' = φ s := by
  unfold execRopeRetrain at h
  refine perform_frame h_out h_pending h (fun s => ?_)
  repeat' first
    | simp only [enterGrace_frame h_regs h_ropes, ropeAt_frame h_timers, set_frame h_regs, setRope_frame h_ropes]
    | refine Eq.trans (whenUp_frame (fun _ => ?_) _) ?_
    | split
    | dsimp only
    | with_reducible rfl

theorem execRopeDisable_frame (h_regs : Blind.regs φ) (h_seq : Blind.seq φ) (h_pending : Blind.pending φ) (h_out : Blind.out φ) (h_ropes : Blind.ropes φ) (h_fabric : Blind.fabric φ) (h_rings : Blind.rings φ) (h_svcs : Blind.svcs φ) (h_journal : Blind.journal φ) (h_sec : Blind.sec φ) (h_det : Blind.det φ) (k : Nat) (value : W32) (s : State) (t' : State)
    (h : execRopeDisable k value s = .next t') : φ t' = φ s := by
  unfold execRopeDisable at h
  refine perform_frame h_out h_pending h (fun s => ?_)
  repeat' first
    | simp only [edgesLost_frame h_regs h_seq h_out h_rings h_svcs h_det, flushRope_frame h_regs h_seq h_out h_ropes h_fabric h_rings h_journal h_sec h_det, ropeDown_frame h_regs h_ropes, set_frame h_regs, setRope_frame h_ropes, setRopeSt_frame h_regs]
    | refine Eq.trans (whenUp_frame (fun _ => ?_) _) ?_
    | split
    | dsimp only
    | with_reducible rfl

theorem execRopeEnable_frame (h_regs : Blind.regs φ) (h_pending : Blind.pending φ) (h_out : Blind.out φ) (h_ropes : Blind.ropes φ) (k : Nat) (value : W32) (s : State) (t' : State)
    (h : execRopeEnable k value s = .next t') : φ t' = φ s := by
  unfold execRopeEnable at h
  refine perform_frame h_out h_pending h (fun s => ?_)
  repeat' first
    | simp only [ropeDown_frame h_regs h_ropes, set_frame h_regs]
    | refine Eq.trans (whenUp_frame (fun _ => ?_) _) ?_
    | split
    | dsimp only
    | with_reducible rfl

theorem execRopeVcLimitWrite_frame (h_pending : Blind.pending φ) (h_out : Blind.out φ) (h_ropes : Blind.ropes φ) (k v : Nat) (value : W32) (s : State) (t' : State)
    (h : execRopeVcLimitWrite k v value s = .next t') : φ t' = φ s := by
  unfold execRopeVcLimitWrite at h
  refine perform_frame h_out h_pending h (fun s => ?_)
  repeat' first
    | simp only [setVchan_frame h_ropes]
    | refine Eq.trans (whenUp_frame (fun _ => ?_) _) ?_
    | split
    | dsimp only
    | with_reducible rfl

theorem execDataFlit_frame (h_regs : Blind.regs φ) (h_timers : Blind.timers φ) (h_seq : Blind.seq φ) (h_pending : Blind.pending φ) (h_out : Blind.out φ) (h_rigs : Blind.rigs φ) (h_ropes : Blind.ropes φ) (h_fabric : Blind.fabric φ) (h_rings : Blind.rings φ) (h_svcs : Blind.svcs φ) (h_journal : Blind.journal φ) (h_sec : Blind.sec φ) (h_det : Blind.det φ) (k : Nat) (now : W64) (flit : List Byte) (touched : Bool) (corr : Nat) (uncorr : List Nat) (s : State) (t' : State)
    (h : execDataFlit k now flit touched corr uncorr s = .next t') : φ t' = φ s := by
  unfold execDataFlit at h
  refine perform_frame h_out h_pending h (fun s => ?_)
  repeat' first
    | simp only [receiveFlit_frame h_regs h_seq h_out h_rigs h_ropes h_fabric h_rings h_svcs h_journal h_sec h_det, ropeAt_frame h_timers]
    | split
    | dsimp only
    | with_reducible rfl

theorem execControlFlit_frame (h_regs : Blind.regs φ) (h_timers : Blind.timers φ) (h_seq : Blind.seq φ) (h_pending : Blind.pending φ) (h_out : Blind.out φ) (h_rigs : Blind.rigs φ) (h_ropes : Blind.ropes φ) (h_fabric : Blind.fabric φ) (h_rings : Blind.rings φ) (h_svcs : Blind.svcs φ) (h_journal : Blind.journal φ) (h_sec : Blind.sec φ) (h_det : Blind.det φ) (k : Nat) (now : W64) (flit : List Byte) (touched : Bool) (corr : Nat) (uncorr : List Nat) (s : State) (t' : State)
    (h : execControlFlit k now flit touched corr uncorr s = .next t') : φ t' = φ s := by
  unfold execControlFlit at h
  refine perform_frame h_out h_pending h (fun s => ?_)
  repeat' first
    | simp only [receiveFlit_frame h_regs h_seq h_out h_rigs h_ropes h_fabric h_rings h_svcs h_journal h_sec h_det, ropeAt_frame h_timers]
    | split
    | dsimp only
    | with_reducible rfl

theorem execIdleFlit_frame (h_regs : Blind.regs φ) (h_timers : Blind.timers φ) (h_seq : Blind.seq φ) (h_pending : Blind.pending φ) (h_out : Blind.out φ) (h_rigs : Blind.rigs φ) (h_ropes : Blind.ropes φ) (h_fabric : Blind.fabric φ) (h_rings : Blind.rings φ) (h_svcs : Blind.svcs φ) (h_journal : Blind.journal φ) (h_sec : Blind.sec φ) (h_det : Blind.det φ) (k : Nat) (now : W64) (flit : List Byte) (touched : Bool) (corr : Nat) (uncorr : List Nat) (s : State) (t' : State)
    (h : execIdleFlit k now flit touched corr uncorr s = .next t') : φ t' = φ s := by
  unfold execIdleFlit at h
  refine perform_frame h_out h_pending h (fun s => ?_)
  repeat' first
    | simp only [receiveFlit_frame h_regs h_seq h_out h_rigs h_ropes h_fabric h_rings h_svcs h_journal h_sec h_det, ropeAt_frame h_timers]
    | split
    | dsimp only
    | with_reducible rfl

theorem execTrainFlit_frame (h_regs : Blind.regs φ) (h_timers : Blind.timers φ) (h_seq : Blind.seq φ) (h_pending : Blind.pending φ) (h_out : Blind.out φ) (h_rigs : Blind.rigs φ) (h_ropes : Blind.ropes φ) (h_fabric : Blind.fabric φ) (h_rings : Blind.rings φ) (h_svcs : Blind.svcs φ) (h_journal : Blind.journal φ) (h_sec : Blind.sec φ) (h_det : Blind.det φ) (k : Nat) (now : W64) (flit : List Byte) (rx : Received) (s : State) (t' : State)
    (h : execTrainFlit k now flit rx s = .next t') : φ t' = φ s := by
  unfold execTrainFlit at h
  refine perform_frame h_out h_pending h (fun s => ?_)
  repeat' first
    | simp only [clearOldSlots_frame h_ropes, closeWindow_frame h_regs h_seq h_ropes h_rings h_det, countFlit_frame h_ropes, ropeAt_frame h_timers, takeAck_frame h_regs h_ropes, takeCredit_frame h_ropes, tellSession_frame h_regs h_ropes, trainArrived_frame h_regs h_seq h_out h_rigs h_ropes h_fabric h_rings h_svcs h_journal h_sec h_det, waitReplay_frame h_regs h_ropes]
    | split
    | dsimp only
    | with_reducible rfl

theorem execReplayTmo_frame (h_regs : Blind.regs φ) (h_timers : Blind.timers φ) (h_pending : Blind.pending φ) (h_out : Blind.out φ) (h_ropes : Blind.ropes φ) (k : Nat) (now : W64) (s : State) (t' : State)
    (h : execReplayTmo k now s = .next t') : φ t' = φ s := by
  unfold execReplayTmo at h
  refine perform_frame h_out h_pending h (fun s => ?_)
  repeat' first
    | simp only [ropeAt_frame h_timers, startReplay_frame h_regs h_ropes]
    | split
    | dsimp only
    | with_reducible rfl

theorem execErrorWindowClose_frame (h_regs : Blind.regs φ) (h_timers : Blind.timers φ) (h_seq : Blind.seq φ) (h_pending : Blind.pending φ) (h_out : Blind.out φ) (h_ropes : Blind.ropes φ) (h_rings : Blind.rings φ) (h_det : Blind.det φ) (k : Nat) (now : W64) (s : State) (t' : State)
    (h : execErrorWindowClose k now s = .next t') : φ t' = φ s := by
  unfold execErrorWindowClose at h
  refine perform_frame h_out h_pending h (fun s => ?_)
  repeat' first
    | simp only [closeWindow_frame h_regs h_seq h_ropes h_rings h_det, ropeAt_frame h_timers]
    | split
    | dsimp only
    | with_reducible rfl

theorem execFlitSend_frame (h_regs : Blind.regs φ) (h_seq : Blind.seq φ) (h_pending : Blind.pending φ) (h_out : Blind.out φ) (h_rigs : Blind.rigs φ) (h_landings : Blind.landings φ) (h_ropes : Blind.ropes φ) (h_fabric : Blind.fabric φ) (h_rings : Blind.rings φ) (h_svcs : Blind.svcs φ) (h_journal : Blind.journal φ) (h_sec : Blind.sec φ) (h_det : Blind.det φ) (k first : Nat) (s : State) (t' : State)
    (h : execFlitSend k first s = .next t') : φ t' = φ s := by
  unfold execFlitSend at h
  refine perform_frame h_out h_pending h (fun s => ?_)
  repeat' first
    | simp only [finishTraining_frame h_regs h_seq h_out h_rigs h_ropes h_fabric h_rings h_svcs h_journal h_sec h_det, freshFlit_frame h_regs h_seq h_out h_landings h_ropes h_rings h_journal h_sec h_det, put_frame h_out, replayFlit_frame h_regs h_seq h_out h_ropes h_rings h_journal h_sec h_det, setRope_frame h_ropes]
    | split
    | dsimp only
    | with_reducible rfl

theorem execRopeKeyCheck_frame (h_pending : Blind.pending φ) (h_out : Blind.out φ) (h_ropes : Blind.ropes φ) (k : Nat) (msg : List Byte) (s : State) (t' : State)
    (h : execRopeKeyCheck k msg s = .next t') : φ t' = φ s := by
  unfold execRopeKeyCheck at h
  refine perform_frame h_out h_pending h (fun s => ?_)
  repeat' first
    | simp only [setRope_frame h_ropes, tookMsg_frame h_ropes]
    | split
    | dsimp only
    | with_reducible rfl

theorem execPartUnavailable_frame (h_regs : Blind.regs φ) (h_seq : Blind.seq φ) (h_pending : Blind.pending φ) (h_out : Blind.out φ) (h_ropes : Blind.ropes φ) (h_rings : Blind.rings φ) (h_svcs : Blind.svcs φ) (h_det : Blind.det φ) (k : Nat) (msg : List Byte) (s : State) (t' : State)
    (h : execPartUnavailable k msg s = .next t') : φ t' = φ s := by
  unfold execPartUnavailable at h
  refine perform_frame h_out h_pending h (fun s => ?_)
  repeat' first
    | simp only [peerLost_frame h_regs h_seq h_out h_rings h_svcs h_det, raise_frame h_regs h_seq h_rings h_det, setVchan_frame h_ropes, tookMsg_frame h_ropes]
    | with_reducible refine Eq.trans (foldl_frame (fun _ _ => ?_) _ _) ?_
    | split
    | dsimp only
    | with_reducible rfl

end Sys2Proof.Laws
end

