-- ==== Sys2Proof/Laws/SpdmFrame.lean ====
section
/-!
SUPPORT. Frames of the operations of Sys2Proof/Machine/Spdm.lean: what none of them writes stays as it was.
-/
namespace Sys2Proof.Laws
open Machine Machine.State

set_option linter.unusedSimpArgs false
set_option linter.unusedTactic false
set_option linter.unreachableTactic false
set_option linter.unusedVariables false

variable {α : Type} {φ : State → α}

theorem setSpdm_frame (h_sec : Blind.sec φ) (fn : Nat) (v : SpdmFn) (s : State) :
    φ (setSpdm fn v s) = φ s := by
  unfold setSpdm
  repeat' first
    | simp only [h_sec.eq]
    | split
    | dsimp only
    | with_reducible rfl

theorem spdmCmd_frame (h_pending : Blind.pending φ) (h_out : Blind.out φ) (fn stage : Nat) (f : State → State) (s : State) (h_f : ∀ s, φ (f s) = φ s) (t' : State)
    (h : spdmCmd fn stage f s = .next t') : φ t' = φ s := by
  unfold spdmCmd at h
  refine perform_frame h_out h_pending h (fun s => ?_)
  repeat' first
    | simp only [put_frame h_out, h_f]
    | split
    | dsimp only
    | with_reducible rfl

theorem answer_frame (h_out : Blind.out φ) (h_sec : Blind.sec φ) (fn stage : Nat) (req rsp : List Byte) (s : State) :
    φ (answer fn stage req rsp s) = φ s := by
  unfold answer
  repeat' first
    | simp only [put_frame h_out, setSpdm_frame h_sec]
    | split
    | dsimp only
    | with_reducible rfl

theorem withSession_frame (h_out : Blind.out φ) (fn id : Nat) (f : Session → State → State) (s : State) (h_f : ∀ x0 s, φ (f x0 s) = φ s) :
    φ (withSession fn id f s) = φ s := by
  unfold withSession
  repeat' first
    | simp only [put_frame h_out, h_f]
    | split
    | dsimp only
    | with_reducible rfl

theorem setSession_frame (h_sec : Blind.sec φ) (x : Session) (s : State) :
    φ (setSession x s) = φ s := by
  unfold setSession
  repeat' first
    | simp only [h_sec.eq]
    | split
    | dsimp only
    | with_reducible rfl

theorem addSession_frame (h_sec : Blind.sec φ) (x : Session) (s : State) :
    φ (addSession x s) = φ s := by
  unfold addSession
  repeat' first
    | simp only [h_sec.eq]
    | split
    | dsimp only
    | with_reducible rfl

theorem inSession_frame (h_pending : Blind.pending φ) (h_out : Blind.out φ) (fn id : Nat) (f : Session → State → State) (s : State) (h_f : ∀ x0 s, φ (f x0 s) = φ s) (t' : State)
    (h : inSession fn id f s = .next t') : φ t' = φ s := by
  unfold inSession at h
  refine spdmCmd_frame h_pending h_out _ _ _ _ (fun _ => ?_) _ h
  repeat' first
    | simp only [put_frame h_out, h_f]
    | refine Eq.trans (withSession_frame h_out _ _ _ _ (fun _ _ => ?_)) ?_
    | split
    | dsimp only
    | with_reducible rfl

theorem setIde_frame (h_regs : Blind.regs φ) (h_sec : Blind.sec φ) (n : Nat) (v : Ide) (s : State) :
    φ (setIde n v s) = φ s := by
  unfold setIde
  repeat' first
    | simp only [set_frame h_regs, h_sec.eq]
    | split
    | dsimp only
    | with_reducible rfl

end Sys2Proof.Laws
end

