-- ==== Sys2Proof/Laws/SpdmKeep.lean ====
section
/-!
SUPPORT. Frames of the commands of Sys2Proof/Machine/Spdm.lean: what a command does not write stays as it was.
-/
namespace Sys2Proof.Laws
open Machine Machine.State

set_option linter.unusedSimpArgs false
set_option linter.unusedTactic false
set_option linter.unreachableTactic false
set_option linter.unusedVariables false

variable {α : Type} {φ : State → α}

theorem execGetVersion_frame (h_pending : Blind.pending φ) (h_out : Blind.out φ) (h_sec : Blind.sec φ) (fn : Nat) (request : List Byte) (s : State) (t' : State)
    (h : execGetVersion fn request s = .next t') : φ t' = φ s := by
  unfold execGetVersion at h
  refine spdmCmd_frame h_pending h_out _ _ _ _ (fun _ => ?_) _ h
  repeat' first
    | simp only [answer_frame h_out h_sec, setSpdm_frame h_sec]
    | split
    | dsimp only
    | with_reducible rfl

theorem execGetCapabilities_frame (h_pending : Blind.pending φ) (h_out : Blind.out φ) (h_sec : Blind.sec φ) (fn : Nat) (request : List Byte) (s : State) (t' : State)
    (h : execGetCapabilities fn request s = .next t') : φ t' = φ s := by
  unfold execGetCapabilities at h
  refine spdmCmd_frame h_pending h_out _ _ _ _ (fun _ => ?_) _ h
  repeat' first
    | simp only [answer_frame h_out h_sec]
    | split
    | dsimp only
    | with_reducible rfl

theorem execNegotiateAlgorithms_frame (h_pending : Blind.pending φ) (h_out : Blind.out φ) (h_sec : Blind.sec φ) (fn : Nat) (request : List Byte) (offered : Bool) (s : State) (t' : State)
    (h : execNegotiateAlgorithms fn request offered s = .next t') : φ t' = φ s := by
  unfold execNegotiateAlgorithms at h
  refine spdmCmd_frame h_pending h_out _ _ _ _ (fun _ => ?_) _ h
  repeat' first
    | simp only [answer_frame h_out h_sec, put_frame h_out]
    | split
    | dsimp only
    | with_reducible rfl

theorem execGetDigests_frame (h_pending : Blind.pending φ) (h_out : Blind.out φ) (fn : Nat) (s : State) (t' : State)
    (h : execGetDigests fn s = .next t') : φ t' = φ s := by
  unfold execGetDigests at h
  refine spdmCmd_frame h_pending h_out _ _ _ _ (fun _ => ?_) _ h
  repeat' first
    | simp only [put_frame h_out]
    | split
    | dsimp only
    | with_reducible rfl

theorem execGetCertificate_frame (h_pending : Blind.pending φ) (h_out : Blind.out φ) (fn slot off len : Nat) (s : State) (t' : State)
    (h : execGetCertificate fn slot off len s = .next t') : φ t' = φ s := by
  unfold execGetCertificate at h
  refine spdmCmd_frame h_pending h_out _ _ _ _ (fun _ => ?_) _ h
  repeat' first
    | simp only [put_frame h_out]
    | split
    | dsimp only
    | with_reducible rfl

theorem execChallenge_frame (h_pending : Blind.pending φ) (h_out : Blind.out φ) (fn slot : Nat) (request : List Byte) (s : State) (t' : State)
    (h : execChallenge fn slot request s = .next t') : φ t' = φ s := by
  unfold execChallenge at h
  refine spdmCmd_frame h_pending h_out _ _ _ _ (fun _ => ?_) _ h
  repeat' first
    | simp only [put_frame h_out]
    | split
    | dsimp only
    | with_reducible rfl

theorem execGetMeasurements_frame (h_pending : Blind.pending φ) (h_out : Blind.out φ) (fn index : Nat) (request : List Byte) (s : State) (t' : State)
    (h : execGetMeasurements fn index request s = .next t') : φ t' = φ s := by
  unfold execGetMeasurements at h
  refine spdmCmd_frame h_pending h_out _ _ _ _ (fun _ => ?_) _ h
  repeat' first
    | simp only [put_frame h_out]
    | split
    | dsimp only
    | with_reducible rfl

theorem execKeyExchange_frame (h_free : Blind.free φ) (h_pending : Blind.pending φ) (h_out : Blind.out φ) (h_sec : Blind.sec φ) (fn : Nat) (request : List Byte) (s : State) (t' : State)
    (h : execKeyExchange fn request s = .next t') : φ t' = φ s := by
  unfold execKeyExchange at h
  refine spdmCmd_frame h_pending h_out _ _ _ _ (fun _ => ?_) _ h
  repeat' first
    | simp only [addSession_frame h_sec, put_frame h_out, setSpdm_frame h_sec, takeFree_frame h_free]
    | split
    | refine Eq.trans (takeFree_frame_of h_free ‹_›) ?_
    | dsimp only
    | with_reducible rfl

theorem execFinish_frame (h_pending : Blind.pending φ) (h_out : Blind.out φ) (h_sec : Blind.sec φ) (fn id : Nat) (key signature : List Byte) (s : State) (t' : State)
    (h : execFinish fn id key signature s = .next t') : φ t' = φ s := by
  unfold execFinish at h
  refine spdmCmd_frame h_pending h_out _ _ _ _ (fun _ => ?_) _ h
  repeat' first
    | simp only [put_frame h_out, setSession_frame h_sec]
    | refine Eq.trans (withSession_frame h_out _ _ _ _ (fun _ _ => ?_)) ?_
    | split
    | dsimp only
    | with_reducible rfl

theorem execKeyUpdate_frame (h_pending : Blind.pending φ) (h_out : Blind.out φ) (h_sec : Blind.sec φ) (fn id : Nat) (s : State) (t' : State)
    (h : execKeyUpdate fn id s = .next t') : φ t' = φ s := by
  unfold execKeyUpdate at h
  refine inSession_frame h_pending h_out _ _ _ _ (fun _ _ => ?_) _ h
  repeat' first
    | simp only [put_frame h_out, setSession_frame h_sec]
    | split
    | dsimp only
    | with_reducible rfl

theorem execSpdmHeartbeat_frame (h_pending : Blind.pending φ) (h_out : Blind.out φ) (fn id : Nat) (s : State) (t' : State)
    (h : execSpdmHeartbeat fn id s = .next t') : φ t' = φ s := by
  unfold execSpdmHeartbeat at h
  refine inSession_frame h_pending h_out _ _ _ _ (fun _ _ => ?_) _ h
  repeat' first
    | simp only [put_frame h_out]
    | split
    | dsimp only
    | with_reducible rfl

theorem execEndSession_frame (h_pending : Blind.pending φ) (h_out : Blind.out φ) (h_sec : Blind.sec φ) (fn id : Nat) (s : State) (t' : State)
    (h : execEndSession fn id s = .next t') : φ t' = φ s := by
  unfold execEndSession at h
  refine inSession_frame h_pending h_out _ _ _ _ (fun _ _ => ?_) _ h
  repeat' first
    | simp only [put_frame h_out, h_sec.eq]
    | split
    | dsimp only
    | with_reducible rfl

theorem execIdeKm_frame (h_regs : Blind.regs φ) (h_pending : Blind.pending φ) (h_out : Blind.out φ) (h_sec : Blind.sec φ) (fn id stream op : Nat) (rx tx : List Byte) (s : State) (t' : State)
    (h : execIdeKm fn id stream op rx tx s = .next t') : φ t' = φ s := by
  unfold execIdeKm at h
  refine perform_frame h_out h_pending h (fun s => ?_)
  repeat' first
    | simp only [put_frame h_out, setIde_frame h_regs h_sec]
    | refine Eq.trans (withSession_frame h_out _ _ _ _ (fun _ _ => ?_)) ?_
    | split
    | dsimp only
    | with_reducible rfl

end Sys2Proof.Laws
end

