-- ==== Sys2Proof/Laws/StagesKeep.lean ====
section
/-!
SUPPORT. Frames of the commands of Sys2Proof/Machine/Stages.lean: what a command does not write stays as it was.
-/
namespace Sys2Proof.Laws
open Machine Machine.State

set_option linter.unusedSimpArgs false
set_option linter.unusedTactic false
set_option linter.unreachableTactic false
set_option linter.unusedVariables false

variable {α : Type} {φ : State → α}

theorem execForwardAdmit_frame (h_regs : Blind.regs φ) (h_seq : Blind.seq φ) (h_pending : Blind.pending φ) (h_out : Blind.out φ) (h_power : Blind.power φ) (h_rigs : Blind.rigs φ) (h_treads : Blind.treads φ) (h_flights : Blind.flights φ) (h_stages : Blind.stages φ) (h_ctxs : Blind.ctxs φ) (h_landings : Blind.landings φ) (h_ropes : Blind.ropes φ) (h_rings : Blind.rings φ) (h_svcs : Blind.svcs φ) (h_det : Blind.det φ) (slot : Nat) (s : State) (t' : State)
    (h : execForwardAdmit slot s = .next t') : φ t' = φ s := by
  unfold execForwardAdmit at h
  refine perform_frame h_out h_pending h (fun s => ?_)
  repeat' first
    | simp only [noteBlocked_frame h_regs h_seq h_stages h_rings h_det, seqWait_frame h_stages, startForward_frame h_regs h_power h_treads h_flights h_stages h_ctxs]
    | refine Eq.trans (takeEntry_frame h_regs h_seq h_out h_rigs h_stages h_landings h_ropes h_rings h_svcs h_det _ _ _ _ _ _ _ _ _ _ (fun _ _ => ?_)) ?_
    | refine Eq.trans (withStage_frame _ _ _ (fun _ _ _ _ => ?_)) ?_
    | split
    | dsimp only
    | with_reducible rfl

theorem execBackwardStart_frame (h_regs : Blind.regs φ) (h_seq : Blind.seq φ) (h_pending : Blind.pending φ) (h_out : Blind.out φ) (h_power : Blind.power φ) (h_rigs : Blind.rigs φ) (h_treads : Blind.treads φ) (h_flights : Blind.flights φ) (h_stages : Blind.stages φ) (h_ctxs : Blind.ctxs φ) (h_landings : Blind.landings φ) (h_reds : Blind.reds φ) (h_mem : Blind.mem φ) (h_memCheck : Blind.memCheck φ) (h_memEpoch : Blind.memEpoch φ) (h_memKey : Blind.memKey φ) (h_ucs : Blind.ucs φ) (h_ropes : Blind.ropes φ) (h_rings : Blind.rings φ) (h_svcs : Blind.svcs φ) (h_journal : Blind.journal φ) (h_sec : Blind.sec φ) (h_det : Blind.det φ) (slot : Nat) (s : State) (t' : State)
    (h : execBackwardStart slot s = .next t') : φ t' = φ s := by
  unfold execBackwardStart at h
  refine perform_frame h_out h_pending h (fun s => ?_)
  repeat' first
    | simp only [backwardOf_frame h_regs h_seq h_out h_power h_rigs h_treads h_flights h_stages h_ctxs h_landings h_reds h_mem h_memCheck h_memEpoch h_memKey h_ucs h_ropes h_rings h_svcs h_journal h_sec h_det, checkEntry_frame h_regs h_seq h_out h_rigs h_stages h_ropes h_rings h_svcs h_det]
    | refine Eq.trans (withStage_frame _ _ _ (fun _ _ _ _ => ?_)) ?_
    | split
    | dsimp only
    | with_reducible rfl

theorem execStashVerify_frame (h_regs : Blind.regs φ) (h_seq : Blind.seq φ) (h_pending : Blind.pending φ) (h_out : Blind.out φ) (h_rigs : Blind.rigs φ) (h_ctxs : Blind.ctxs φ) (h_memCheck : Blind.memCheck φ) (h_ucs : Blind.ucs φ) (h_ropes : Blind.ropes φ) (h_rings : Blind.rings φ) (h_svcs : Blind.svcs φ) (h_journal : Blind.journal φ) (h_sec : Blind.sec φ) (h_det : Blind.det φ) (slot : Nat) (bad : List (Nat × Nat)) (s : State) (t' : State)
    (h : execStashVerify slot bad s = .next t') : φ t' = φ s := by
  unfold execStashVerify at h
  refine perform_frame h_out h_pending h (fun s => ?_)
  repeat' first
    | simp only [checkLines_frame h_regs h_seq h_out h_rigs h_memCheck h_ucs h_ropes h_rings h_svcs h_journal h_sec h_det, setCtx_frame h_ctxs]
    | refine Eq.trans (withStage_frame _ _ _ (fun _ _ _ _ => ?_)) ?_
    | split
    | refine Eq.trans (checkLines_frame_of h_regs h_seq h_out h_rigs h_memCheck h_ucs h_ropes h_rings h_svcs h_journal h_sec h_det ‹_›) ?_
    | dsimp only
    | with_reducible rfl

theorem execSeqDescriptorPush_frame (h_regs : Blind.regs φ) (h_seq : Blind.seq φ) (h_pending : Blind.pending φ) (h_out : Blind.out φ) (h_flights : Blind.flights φ) (h_stages : Blind.stages φ) (h_ctxs : Blind.ctxs φ) (h_rings : Blind.rings φ) (h_det : Blind.det φ) (slot : Nat) (s : State) (t' : State)
    (h : execSeqDescriptorPush slot s = .next t') : φ t' = φ s := by
  unfold execSeqDescriptorPush at h
  refine perform_frame h_out h_pending h (fun s => ?_)
  repeat' first
    | simp only [endProgram_frame h_stages, pushDesc_frame h_regs h_seq h_flights h_rings h_det, seqWait_frame h_stages, setStage_frame h_stages, storeLayer_frame h_regs h_seq h_stages h_ctxs h_rings h_det]
    | refine Eq.trans (withStage_frame _ _ _ (fun _ _ _ _ => ?_)) ?_
    | split
    | dsimp only
    | with_reducible rfl

theorem execRingPass_frame (h_regs : Blind.regs φ) (h_seq : Blind.seq φ) (h_pending : Blind.pending φ) (h_out : Blind.out φ) (h_rigs : Blind.rigs φ) (h_stages : Blind.stages φ) (h_ctxs : Blind.ctxs φ) (h_landings : Blind.landings φ) (h_parts : Blind.parts φ) (h_ropes : Blind.ropes φ) (h_rings : Blind.rings φ) (h_svcs : Blind.svcs φ) (h_det : Blind.det φ) (slot : Nat) (s : State) (t' : State)
    (h : execRingPass slot s = .next t') : φ t' = φ s := by
  unfold execRingPass at h
  refine perform_frame h_out h_pending h (fun s => ?_)
  repeat' first
    | simp only [beginPass_frame h_regs h_seq h_out h_rigs h_stages h_landings h_ropes h_rings h_svcs h_det, endPass_frame h_out h_stages h_ctxs h_landings h_parts h_ropes]
    | refine Eq.trans (withStage_frame _ _ _ (fun _ _ _ _ => ?_)) ?_
    | split
    | dsimp only
    | with_reducible rfl

theorem execLandingPush_frame (h_regs : Blind.regs φ) (h_pending : Blind.pending φ) (h_out : Blind.out φ) (h_stages : Blind.stages φ) (h_ctxs : Blind.ctxs φ) (h_landings : Blind.landings φ) (slot : Nat) (s : State) (t' : State)
    (h : execLandingPush slot s = .next t') : φ t' = φ s := by
  unfold execLandingPush at h
  refine perform_frame h_out h_pending h (fun s => ?_)
  repeat' first
    | simp only [pushEntry_frame h_regs h_ctxs h_landings, seqWait_frame h_stages, setStage_frame h_stages]
    | refine Eq.trans (withStage_frame _ _ _ (fun _ _ _ _ => ?_)) ?_
    | split
    | dsimp only
    | with_reducible rfl

theorem execMicroBatchBoundary_frame (h_regs : Blind.regs φ) (h_time : Blind.time φ) (h_seq : Blind.seq φ) (h_pending : Blind.pending φ) (h_out : Blind.out φ) (h_power : Blind.power φ) (h_treads : Blind.treads φ) (h_flights : Blind.flights φ) (h_stages : Blind.stages φ) (h_ctxs : Blind.ctxs φ) (h_landings : Blind.landings φ) (h_parts : Blind.parts φ) (h_ropes : Blind.ropes φ) (h_rings : Blind.rings φ) (h_det : Blind.det φ) (now : W64) (slot : Nat) (s : State) (t' : State)
    (h : execMicroBatchBoundary now slot s = .next t') : φ t' = φ s := by
  unfold execMicroBatchBoundary at h
  refine perform_frame h_out h_pending h (fun s => ?_)
  repeat' first
    | simp only [at__frame h_time, balanceUpdate_frame h_regs h_seq h_power h_rings h_det, endBackward_frame h_stages h_ctxs h_parts, freeVersions_frame h_parts, retireEntry_frame h_out h_stages h_ctxs h_landings h_parts h_ropes, returnBanks_frame h_treads h_flights, setCtx_frame h_ctxs, setStage_frame h_stages]
    | with_reducible refine Eq.trans (foldl_frame (fun _ _ => ?_) _ _) ?_
    | refine Eq.trans (withStage_frame _ _ _ (fun _ _ _ _ => ?_)) ?_
    | split
    | dsimp only
    | with_reducible rfl

theorem execIngestPush_frame (h_regs : Blind.regs φ) (h_seq : Blind.seq φ) (h_pending : Blind.pending φ) (h_out : Blind.out φ) (h_ctxs : Blind.ctxs φ) (h_landings : Blind.landings φ) (h_rings : Blind.rings φ) (h_det : Blind.det φ) (n : Nat) (entry : List Byte) (s : State) (t' : State)
    (h : execIngestPush n entry s = .next t') : φ t' = φ s := by
  unfold execIngestPush at h
  refine perform_frame h_out h_pending h (fun s => ?_)
  repeat' first
    | simp only [ingestPush_frame h_regs h_seq h_ctxs h_landings h_rings h_det, put_frame h_out]
    | split
    | dsimp only
    | with_reducible rfl

theorem execLandLimitWrite_frame (h_pending : Blind.pending φ) (h_out : Blind.out φ) (h_landings : Blind.landings φ) (h_ropes : Blind.ropes φ) (who : Who) (n : Nat) (value : W32) (s : State) (t' : State)
    (h : execLandLimitWrite who n value s = .next t') : φ t' = φ s := by
  unfold execLandLimitWrite at h
  refine perform_frame h_out h_pending h (fun s => ?_)
  repeat' first
    | simp only [setLandLimit_frame h_out h_landings h_ropes]
    | refine Eq.trans (whenUp_frame (fun _ => ?_) _) ?_
    | split
    | dsimp only
    | with_reducible rfl

theorem execSeqQuotaWrite_frame (h_regs : Blind.regs φ) (h_seq : Blind.seq φ) (h_pending : Blind.pending φ) (h_out : Blind.out φ) (h_stages : Blind.stages φ) (h_rings : Blind.rings φ) (h_det : Blind.det φ) (who : Who) (slot : Nat) (value : W32) (s : State) (t' : State)
    (h : execSeqQuotaWrite who slot value s = .next t') : φ t' = φ s := by
  unfold execSeqQuotaWrite at h
  refine perform_frame h_out h_pending h (fun s => ?_)
  repeat' first
    | simp only [noteBlocked_frame h_regs h_seq h_stages h_rings h_det, set_frame h_regs]
    | refine Eq.trans (whenUp_frame (fun _ => ?_) _) ?_
    | refine Eq.trans (withStage_frame _ _ _ (fun _ _ _ _ => ?_)) ?_
    | split
    | dsimp only
    | with_reducible rfl

end Sys2Proof.Laws
end

