-- ==== Sys2Proof/Laws/StepsKeep.lean ====
section
/-!
SUPPORT. Frames of the commands of Sys2Proof/Machine/Steps.lean: what a command does not write stays as it was.
-/
namespace Sys2Proof.Laws
open Machine Machine.State

set_option linter.unusedSimpArgs false
set_option linter.unusedTactic false
set_option linter.unreachableTactic false
set_option linter.unusedVariables false

variable {α : Type} {φ : State → α}

theorem execStepStart_frame (h_regs : Blind.regs φ) (h_seq : Blind.seq φ) (h_pending : Blind.pending φ) (h_out : Blind.out φ) (h_stages : Blind.stages φ) (h_parts : Blind.parts φ) (h_reds : Blind.reds φ) (h_ropes : Blind.ropes φ) (h_rings : Blind.rings φ) (h_svcs : Blind.svcs φ) (h_det : Blind.det φ) (p : Nat) (s : State) (t' : State)
    (h : execStepStart p s = .next t') : φ t' = φ s := by
  unfold execStepStart at h
  refine perform_frame h_out h_pending h (fun s => ?_)
  repeat' first
    | simp only [joinOne_frame h_regs h_seq h_out h_stages h_parts h_reds h_ropes h_rings h_svcs h_det, joinUp_frame h_regs h_seq h_out h_stages h_parts h_reds h_ropes h_rings h_svcs h_det, set_frame h_regs, setSvc_frame h_svcs, setSvcState_frame h_regs h_svcs, treeError_frame h_regs h_seq h_rings h_svcs h_det]
    | with_reducible refine Eq.trans (foldl_frame (fun _ _ => ?_) _ _) ?_
    | refine Eq.trans (whenUp_frame (fun _ => ?_) _) ?_
    | split
    | dsimp only
    | with_reducible rfl

theorem execJoin_frame (h_regs : Blind.regs φ) (h_seq : Blind.seq φ) (h_pending : Blind.pending φ) (h_out : Blind.out φ) (h_stages : Blind.stages φ) (h_parts : Blind.parts φ) (h_reds : Blind.reds φ) (h_ropes : Blind.ropes φ) (h_rings : Blind.rings φ) (h_svcs : Blind.svcs φ) (h_det : Blind.det φ) (k : Nat) (m : TreeMsg) (s : State) (t' : State)
    (h : execJoin k m s = .next t') : φ t' = φ s := by
  unfold execJoin at h
  refine treeMsg_frame h_pending h_out _ _ _ _ (fun _ _ => ?_) _ h
  repeat' first
    | simp only [joinOne_frame h_regs h_seq h_out h_stages h_parts h_reds h_ropes h_rings h_svcs h_det]
    | split
    | dsimp only
    | with_reducible rfl

theorem execGo_frame (h_regs : Blind.regs φ) (h_pending : Blind.pending φ) (h_out : Blind.out φ) (h_stages : Blind.stages φ) (h_parts : Blind.parts φ) (h_reds : Blind.reds φ) (h_ropes : Blind.ropes φ) (h_svcs : Blind.svcs φ) (k : Nat) (m : TreeMsg) (s : State) (t' : State)
    (h : execGo k m s = .next t') : φ t' = φ s := by
  unfold execGo at h
  refine treeMsg_frame h_pending h_out _ _ _ _ (fun _ _ => ?_) _ h
  repeat' first
    | simp only [applyGo_frame h_regs h_out h_stages h_parts h_reds h_ropes h_svcs]
    | split
    | dsimp only
    | with_reducible rfl

theorem execStepVote_frame (h_regs : Blind.regs φ) (h_seq : Blind.seq φ) (h_pending : Blind.pending φ) (h_out : Blind.out φ) (h_rigs : Blind.rigs φ) (h_parts : Blind.parts φ) (h_reds : Blind.reds φ) (h_mem : Blind.mem φ) (h_memCheck : Blind.memCheck φ) (h_memEpoch : Blind.memEpoch φ) (h_memKey : Blind.memKey φ) (h_ucs : Blind.ucs φ) (h_sparse : Blind.sparse φ) (h_gathers : Blind.gathers φ) (h_ropes : Blind.ropes φ) (h_fabric : Blind.fabric φ) (h_rings : Blind.rings φ) (h_svcs : Blind.svcs φ) (h_journal : Blind.journal φ) (h_sec : Blind.sec φ) (h_det : Blind.det φ) (p : Nat) (s : State) (t' : State)
    (h : execStepVote p s = .next t') : φ t' = φ s := by
  unfold execStepVote at h
  refine perform_frame h_out h_pending h (fun s => ?_)
  repeat' first
    | simp only [rootDecide_frame h_regs h_seq h_out h_rigs h_parts h_reds h_mem h_memCheck h_memEpoch h_memKey h_ucs h_sparse h_gathers h_ropes h_fabric h_rings h_svcs h_journal h_sec h_det, setSvc_frame h_svcs, toParent_frame h_out h_ropes]
    | split
    | dsimp only
    | with_reducible rfl

theorem execVote_frame (h_regs : Blind.regs φ) (h_seq : Blind.seq φ) (h_pending : Blind.pending φ) (h_out : Blind.out φ) (h_rigs : Blind.rigs φ) (h_parts : Blind.parts φ) (h_reds : Blind.reds φ) (h_mem : Blind.mem φ) (h_memCheck : Blind.memCheck φ) (h_memEpoch : Blind.memEpoch φ) (h_memKey : Blind.memKey φ) (h_ucs : Blind.ucs φ) (h_sparse : Blind.sparse φ) (h_gathers : Blind.gathers φ) (h_ropes : Blind.ropes φ) (h_fabric : Blind.fabric φ) (h_rings : Blind.rings φ) (h_svcs : Blind.svcs φ) (h_journal : Blind.journal φ) (h_sec : Blind.sec φ) (h_det : Blind.det φ) (k : Nat) (m : TreeMsg) (s : State) (t' : State)
    (h : execVote k m s = .next t') : φ t' = φ s := by
  unfold execVote at h
  refine treeMsg_frame h_pending h_out _ _ _ _ (fun _ _ => ?_) _ h
  repeat' first
    | simp only [rootDecide_frame h_regs h_seq h_out h_rigs h_parts h_reds h_mem h_memCheck h_memEpoch h_memKey h_ucs h_sparse h_gathers h_ropes h_fabric h_rings h_svcs h_journal h_sec h_det, setSvc_frame h_svcs]
    | split
    | dsimp only
    | with_reducible rfl

theorem execDecide_frame (h_regs : Blind.regs φ) (h_seq : Blind.seq φ) (h_pending : Blind.pending φ) (h_out : Blind.out φ) (h_rigs : Blind.rigs φ) (h_parts : Blind.parts φ) (h_reds : Blind.reds φ) (h_mem : Blind.mem φ) (h_memCheck : Blind.memCheck φ) (h_memEpoch : Blind.memEpoch φ) (h_memKey : Blind.memKey φ) (h_ucs : Blind.ucs φ) (h_sparse : Blind.sparse φ) (h_gathers : Blind.gathers φ) (h_ropes : Blind.ropes φ) (h_fabric : Blind.fabric φ) (h_rings : Blind.rings φ) (h_svcs : Blind.svcs φ) (h_journal : Blind.journal φ) (h_sec : Blind.sec φ) (h_det : Blind.det φ) (k : Nat) (m : TreeMsg) (s : State) (t' : State)
    (h : execDecide k m s = .next t') : φ t' = φ s := by
  unfold execDecide at h
  refine treeMsg_frame h_pending h_out _ _ _ _ (fun _ _ => ?_) _ h
  repeat' first
    | simp only [applyDecide_frame h_regs h_seq h_out h_rigs h_parts h_reds h_mem h_memCheck h_memEpoch h_memKey h_ucs h_sparse h_gathers h_ropes h_fabric h_rings h_svcs h_journal h_sec h_det]
    | split
    | dsimp only
    | with_reducible rfl

theorem execRewind_frame (h_regs : Blind.regs φ) (h_seq : Blind.seq φ) (h_pending : Blind.pending φ) (h_out : Blind.out φ) (h_power : Blind.power φ) (h_rigs : Blind.rigs φ) (h_treads : Blind.treads φ) (h_chans : Blind.chans φ) (h_knots : Blind.knots φ) (h_flights : Blind.flights φ) (h_stages : Blind.stages φ) (h_ctxs : Blind.ctxs φ) (h_landings : Blind.landings φ) (h_parts : Blind.parts φ) (h_reds : Blind.reds φ) (h_mem : Blind.mem φ) (h_memCheck : Blind.memCheck φ) (h_memEpoch : Blind.memEpoch φ) (h_memKey : Blind.memKey φ) (h_ucs : Blind.ucs φ) (h_gathers : Blind.gathers φ) (h_ropes : Blind.ropes φ) (h_fabric : Blind.fabric φ) (h_rings : Blind.rings φ) (h_svcs : Blind.svcs φ) (h_journal : Blind.journal φ) (h_sec : Blind.sec φ) (h_det : Blind.det φ) (k : Nat) (m : TreeMsg) (s : State) (t' : State)
    (h : execRewind k m s = .next t') : φ t' = φ s := by
  unfold execRewind at h
  refine treeMsg_frame h_pending h_out _ _ _ _ (fun _ _ => ?_) _ h
  repeat' first
    | simp only [applyHalt_frame h_regs h_out h_svcs, rootRequest_frame h_regs h_out h_rigs h_ropes h_svcs, settleOrder_frame h_regs h_seq h_out h_power h_rigs h_treads h_chans h_knots h_flights h_stages h_ctxs h_landings h_parts h_reds h_mem h_memCheck h_memEpoch h_memKey h_ucs h_gathers h_ropes h_fabric h_rings h_svcs h_journal h_sec h_det, takeOrder_frame h_regs h_out h_rigs h_ropes h_svcs, toChildren_frame h_out h_ropes, toParent_frame h_out h_ropes]
    | split
    | dsimp only
    | with_reducible rfl

theorem execWindDownTimeout_frame (h_regs : Blind.regs φ) (h_time : Blind.time φ) (h_seq : Blind.seq φ) (h_free : Blind.free φ) (h_pending : Blind.pending φ) (h_out : Blind.out φ) (h_power : Blind.power φ) (h_rigs : Blind.rigs φ) (h_treads : Blind.treads φ) (h_chans : Blind.chans φ) (h_knots : Blind.knots φ) (h_flights : Blind.flights φ) (h_stages : Blind.stages φ) (h_ctxs : Blind.ctxs φ) (h_landings : Blind.landings φ) (h_parts : Blind.parts φ) (h_reds : Blind.reds φ) (h_mem : Blind.mem φ) (h_memCheck : Blind.memCheck φ) (h_memEpoch : Blind.memEpoch φ) (h_memKey : Blind.memKey φ) (h_ucs : Blind.ucs φ) (h_gathers : Blind.gathers φ) (h_ropes : Blind.ropes φ) (h_fabric : Blind.fabric φ) (h_rings : Blind.rings φ) (h_svcs : Blind.svcs φ) (h_journal : Blind.journal φ) (h_sec : Blind.sec φ) (h_det : Blind.det φ) (now : W64) (p : Nat) (s : State) (t' : State)
    (h : execWindDownTimeout now p s = .next t') : φ t' = φ s := by
  unfold execWindDownTimeout at h
  refine perform_frame h_out h_pending h (fun s => ?_)
  repeat' first
    | simp only [abandonWork_frame h_regs h_seq h_free h_out h_rigs h_treads h_flights h_ctxs h_landings h_mem h_memCheck h_memEpoch h_memKey h_ucs h_ropes h_fabric h_rings h_svcs h_journal h_sec h_det, at__frame h_time, settleOrder_frame h_regs h_seq h_out h_power h_rigs h_treads h_chans h_knots h_flights h_stages h_ctxs h_landings h_parts h_reds h_mem h_memCheck h_memEpoch h_memKey h_ucs h_gathers h_ropes h_fabric h_rings h_svcs h_journal h_sec h_det]
    | split
    | dsimp only
    | with_reducible rfl

theorem execRewoundSend_frame (h_regs : Blind.regs φ) (h_seq : Blind.seq φ) (h_pending : Blind.pending φ) (h_out : Blind.out φ) (h_power : Blind.power φ) (h_rigs : Blind.rigs φ) (h_treads : Blind.treads φ) (h_chans : Blind.chans φ) (h_knots : Blind.knots φ) (h_flights : Blind.flights φ) (h_stages : Blind.stages φ) (h_ctxs : Blind.ctxs φ) (h_landings : Blind.landings φ) (h_parts : Blind.parts φ) (h_reds : Blind.reds φ) (h_mem : Blind.mem φ) (h_memCheck : Blind.memCheck φ) (h_memEpoch : Blind.memEpoch φ) (h_memKey : Blind.memKey φ) (h_ucs : Blind.ucs φ) (h_gathers : Blind.gathers φ) (h_ropes : Blind.ropes φ) (h_fabric : Blind.fabric φ) (h_rings : Blind.rings φ) (h_svcs : Blind.svcs φ) (h_journal : Blind.journal φ) (h_sec : Blind.sec φ) (h_det : Blind.det φ) (p : Nat) (s : State) (t' : State)
    (h : execRewoundSend p s = .next t') : φ t' = φ s := by
  unfold execRewoundSend at h
  refine perform_frame h_out h_pending h (fun s => ?_)
  repeat' first
    | simp only [answerOrder_frame h_regs h_seq h_out h_power h_rigs h_treads h_chans h_knots h_flights h_stages h_ctxs h_landings h_parts h_reds h_mem h_memCheck h_memEpoch h_memKey h_ucs h_gathers h_ropes h_fabric h_rings h_svcs h_journal h_sec h_det, settleOrder_frame h_regs h_seq h_out h_power h_rigs h_treads h_chans h_knots h_flights h_stages h_ctxs h_landings h_parts h_reds h_mem h_memCheck h_memEpoch h_memKey h_ucs h_gathers h_ropes h_fabric h_rings h_svcs h_journal h_sec h_det]
    | split
    | dsimp only
    | with_reducible rfl

theorem execRewound_frame (h_regs : Blind.regs φ) (h_seq : Blind.seq φ) (h_pending : Blind.pending φ) (h_out : Blind.out φ) (h_power : Blind.power φ) (h_rigs : Blind.rigs φ) (h_treads : Blind.treads φ) (h_chans : Blind.chans φ) (h_knots : Blind.knots φ) (h_flights : Blind.flights φ) (h_stages : Blind.stages φ) (h_ctxs : Blind.ctxs φ) (h_landings : Blind.landings φ) (h_parts : Blind.parts φ) (h_reds : Blind.reds φ) (h_mem : Blind.mem φ) (h_memCheck : Blind.memCheck φ) (h_memEpoch : Blind.memEpoch φ) (h_memKey : Blind.memKey φ) (h_ucs : Blind.ucs φ) (h_gathers : Blind.gathers φ) (h_ropes : Blind.ropes φ) (h_fabric : Blind.fabric φ) (h_rings : Blind.rings φ) (h_svcs : Blind.svcs φ) (h_journal : Blind.journal φ) (h_sec : Blind.sec φ) (h_det : Blind.det φ) (k : Nat) (m : TreeMsg) (s : State) (t' : State)
    (h : execRewound k m s = .next t') : φ t' = φ s := by
  unfold execRewound at h
  refine treeMsg_frame h_pending h_out _ _ _ _ (fun _ _ => ?_) _ h
  repeat' first
    | simp only [answerOrder_frame h_regs h_seq h_out h_power h_rigs h_treads h_chans h_knots h_flights h_stages h_ctxs h_landings h_parts h_reds h_mem h_memCheck h_memEpoch h_memKey h_ucs h_gathers h_ropes h_fabric h_rings h_svcs h_journal h_sec h_det, setSvc_frame h_svcs]
    | split
    | dsimp only
    | with_reducible rfl

theorem execResume_frame (h_regs : Blind.regs φ) (h_pending : Blind.pending φ) (h_out : Blind.out φ) (h_rigs : Blind.rigs φ) (h_ropes : Blind.ropes φ) (h_svcs : Blind.svcs φ) (k : Nat) (m : TreeMsg) (s : State) (t' : State)
    (h : execResume k m s = .next t') : φ t' = φ s := by
  unfold execResume at h
  refine treeMsg_frame h_pending h_out _ _ _ _ (fun _ _ => ?_) _ h
  repeat' first
    | simp only [applyResume_frame h_regs h_out h_rigs h_svcs, toChildren_frame h_out h_ropes]
    | split
    | dsimp only
    | with_reducible rfl

theorem execStepRewindRequest_frame (h_regs : Blind.regs φ) (h_seq : Blind.seq φ) (h_pending : Blind.pending φ) (h_out : Blind.out φ) (h_power : Blind.power φ) (h_rigs : Blind.rigs φ) (h_treads : Blind.treads φ) (h_chans : Blind.chans φ) (h_knots : Blind.knots φ) (h_flights : Blind.flights φ) (h_stages : Blind.stages φ) (h_ctxs : Blind.ctxs φ) (h_landings : Blind.landings φ) (h_parts : Blind.parts φ) (h_reds : Blind.reds φ) (h_mem : Blind.mem φ) (h_memCheck : Blind.memCheck φ) (h_memEpoch : Blind.memEpoch φ) (h_memKey : Blind.memKey φ) (h_ucs : Blind.ucs φ) (h_gathers : Blind.gathers φ) (h_ropes : Blind.ropes φ) (h_fabric : Blind.fabric φ) (h_rings : Blind.rings φ) (h_svcs : Blind.svcs φ) (h_journal : Blind.journal φ) (h_sec : Blind.sec φ) (h_det : Blind.det φ) (p : Nat) (s : State) (t' : State)
    (h : execStepRewindRequest p s = .next t') : φ t' = φ s := by
  unfold execStepRewindRequest at h
  refine perform_frame h_out h_pending h (fun s => ?_)
  repeat' first
    | simp only [findCause_frame h_regs h_out h_rigs h_ropes h_svcs, settleOrder_frame h_regs h_seq h_out h_power h_rigs h_treads h_chans h_knots h_flights h_stages h_ctxs h_landings h_parts h_reds h_mem h_memCheck h_memEpoch h_memKey h_ucs h_gathers h_ropes h_fabric h_rings h_svcs h_journal h_sec h_det]
    | refine Eq.trans (whenUp_frame (fun _ => ?_) _) ?_
    | split
    | dsimp only
    | with_reducible rfl

theorem execStepHalt_frame (h_regs : Blind.regs φ) (h_pending : Blind.pending φ) (h_out : Blind.out φ) (h_rigs : Blind.rigs φ) (h_ropes : Blind.ropes φ) (h_svcs : Blind.svcs φ) (p : Nat) (s : State) (t' : State)
    (h : execStepHalt p s = .next t') : φ t' = φ s := by
  unfold execStepHalt at h
  refine perform_frame h_out h_pending h (fun s => ?_)
  repeat' first
    | simp only [findCause_frame h_regs h_out h_rigs h_ropes h_svcs]
    | refine Eq.trans (whenUp_frame (fun _ => ?_) _) ?_
    | split
    | dsimp only
    | with_reducible rfl

theorem execStepTakeover_frame (h_regs : Blind.regs φ) (h_pending : Blind.pending φ) (h_out : Blind.out φ) (h_rigs : Blind.rigs φ) (h_ropes : Blind.ropes φ) (h_svcs : Blind.svcs φ) (p : Nat) (s : State) (t' : State)
    (h : execStepTakeover p s = .next t') : φ t' = φ s := by
  unfold execStepTakeover at h
  refine perform_frame h_out h_pending h (fun s => ?_)
  repeat' first
    | simp only [beginOutage_frame h_svcs, rootRequest_frame h_regs h_out h_rigs h_ropes h_svcs, set_frame h_regs, setSvc_frame h_svcs, setSvcState_frame h_regs h_svcs, toParent_frame h_out h_ropes]
    | refine Eq.trans (whenUp_frame (fun _ => ?_) _) ?_
    | split
    | dsimp only
    | with_reducible rfl

theorem execHeartbeat_frame (h_regs : Blind.regs φ) (h_time : Blind.time φ) (h_pending : Blind.pending φ) (h_out : Blind.out φ) (h_rigs : Blind.rigs φ) (h_ropes : Blind.ropes φ) (h_svcs : Blind.svcs φ) (now : W64) (k : Nat) (m : TreeMsg) (s : State) (t' : State)
    (h : execHeartbeat now k m s = .next t') : φ t' = φ s := by
  unfold execHeartbeat at h
  refine treeMsg_frame h_pending h_out _ _ _ _ (fun _ _ => ?_) _ h
  repeat' first
    | simp only [at__frame h_time, learnChild_frame h_regs h_out h_rigs h_ropes h_svcs, setSvc_frame h_svcs]
    | split
    | dsimp only
    | with_reducible rfl

theorem execHeartbeatSend_frame (h_pending : Blind.pending φ) (h_out : Blind.out φ) (h_ropes : Blind.ropes φ) (p : Nat) (s : State) (t' : State)
    (h : execHeartbeatSend p s = .next t') : φ t' = φ s := by
  unfold execHeartbeatSend at h
  refine perform_frame h_out h_pending h (fun s => ?_)
  repeat' first
    | simp only [sendTree_frame h_out h_ropes]
    | with_reducible refine Eq.trans (foldl_frame (fun _ _ => ?_) _ _) ?_
    | split
    | dsimp only
    | with_reducible rfl

theorem execPeerLostTimeout_frame (h_regs : Blind.regs φ) (h_time : Blind.time φ) (h_seq : Blind.seq φ) (h_pending : Blind.pending φ) (h_out : Blind.out φ) (h_rings : Blind.rings φ) (h_svcs : Blind.svcs φ) (h_det : Blind.det φ) (now : W64) (p k : Nat) (s : State) (t' : State)
    (h : execPeerLostTimeout now p k s = .next t') : φ t' = φ s := by
  unfold execPeerLostTimeout at h
  refine perform_frame h_out h_pending h (fun s => ?_)
  repeat' first
    | simp only [at__frame h_time, peerLost_frame h_regs h_seq h_out h_rings h_svcs h_det]
    | split
    | dsimp only
    | with_reducible rfl

end Sys2Proof.Laws
end

