-- ==== Sys2Proof/Laws/StorageKeep.lean ====
section
/-!
SUPPORT. Frames of the commands of Sys2Proof/Machine/Storage.lean: what a command does not write stays as it was.
-/
namespace Sys2Proof.Laws
open Machine Machine.State

set_option linter.unusedSimpArgs false
set_option linter.unusedTactic false
set_option linter.unreachableTactic false
set_option linter.unusedVariables false

variable {α : Type} {φ : State → α}

theorem execCheckpointData_frame (h_regs : Blind.regs φ) (h_seq : Blind.seq φ) (h_pending : Blind.pending φ) (h_out : Blind.out φ) (h_rigs : Blind.rigs φ) (h_mem : Blind.mem φ) (h_memCheck : Blind.memCheck φ) (h_memEpoch : Blind.memEpoch φ) (h_memKey : Blind.memKey φ) (h_ucs : Blind.ucs φ) (h_ropes : Blind.ropes φ) (h_rings : Blind.rings φ) (h_svcs : Blind.svcs φ) (h_journal : Blind.journal φ) (h_sec : Blind.sec φ) (h_det : Blind.det φ) (k v : Nat) (msg : List Byte) (s : State) (t' : State)
    (h : execCheckpointData k v msg s = .next t') : φ t' = φ s := by
  unfold execCheckpointData at h
  refine ckMsg_frame h_pending h_out h_ropes _ _ _ _ _ (fun _ _ _ _ _ _ => ?_) _ h
  repeat' first
    | simp only [memWrite_frame h_regs h_seq h_out h_rigs h_mem h_memCheck h_memEpoch h_memKey h_ucs h_ropes h_rings h_svcs h_journal h_sec h_det, setWard_frame h_svcs]
    | split
    | refine Eq.trans (memWrite_frame_of h_regs h_seq h_out h_rigs h_mem h_memCheck h_memEpoch h_memKey h_ucs h_ropes h_rings h_svcs h_journal h_sec h_det ‹_›) ?_
    | dsimp only
    | with_reducible rfl

theorem execCheckpointDone_frame (h_regs : Blind.regs φ) (h_seq : Blind.seq φ) (h_pending : Blind.pending φ) (h_out : Blind.out φ) (h_rigs : Blind.rigs φ) (h_memCheck : Blind.memCheck φ) (h_ucs : Blind.ucs φ) (h_ropes : Blind.ropes φ) (h_rings : Blind.rings φ) (h_svcs : Blind.svcs φ) (h_journal : Blind.journal φ) (h_sec : Blind.sec φ) (h_det : Blind.det φ) (k v : Nat) (msg : List Byte) (s : State) (t' : State)
    (h : execCheckpointDone k v msg s = .next t') : φ t' = φ s := by
  unfold execCheckpointDone at h
  refine ckMsg_frame h_pending h_out h_ropes _ _ _ _ _ (fun _ _ _ _ _ _ => ?_) _ h
  repeat' first
    | simp only [frameComplete_frame h_regs h_seq h_out h_rigs h_memCheck h_ucs h_ropes h_rings h_svcs h_journal h_sec h_det, sendCk_frame h_out h_ropes, setWard_frame h_svcs]
    | split
    | dsimp only
    | with_reducible rfl

theorem execCheckpointFetch_frame (h_regs : Blind.regs φ) (h_seq : Blind.seq φ) (h_pending : Blind.pending φ) (h_out : Blind.out φ) (h_rigs : Blind.rigs φ) (h_memCheck : Blind.memCheck φ) (h_ucs : Blind.ucs φ) (h_ropes : Blind.ropes φ) (h_rings : Blind.rings φ) (h_svcs : Blind.svcs φ) (h_journal : Blind.journal φ) (h_sec : Blind.sec φ) (h_det : Blind.det φ) (k v : Nat) (msg : List Byte) (s : State) (t' : State)
    (h : execCheckpointFetch k v msg s = .next t') : φ t' = φ s := by
  unfold execCheckpointFetch at h
  refine ckMsg_frame h_pending h_out h_ropes _ _ _ _ _ (fun _ _ _ _ _ _ => ?_) _ h
  repeat' first
    | simp only [memRead_frame h_regs h_seq h_out h_rigs h_memCheck h_ucs h_ropes h_rings h_svcs h_journal h_sec h_det, sendFrame_frame h_out h_ropes]
    | split
    | refine Eq.trans (memRead_frame_of h_regs h_seq h_out h_rigs h_memCheck h_ucs h_ropes h_rings h_svcs h_journal h_sec h_det ‹_›) ?_
    | dsimp only
    | with_reducible rfl

theorem execCheckpointReturn_frame (h_regs : Blind.regs φ) (h_seq : Blind.seq φ) (h_pending : Blind.pending φ) (h_out : Blind.out φ) (h_rigs : Blind.rigs φ) (h_mem : Blind.mem φ) (h_memCheck : Blind.memCheck φ) (h_memEpoch : Blind.memEpoch φ) (h_memKey : Blind.memKey φ) (h_ucs : Blind.ucs φ) (h_ropes : Blind.ropes φ) (h_rings : Blind.rings φ) (h_svcs : Blind.svcs φ) (h_journal : Blind.journal φ) (h_sec : Blind.sec φ) (h_det : Blind.det φ) (k v : Nat) (msg : List Byte) (s : State) (t' : State)
    (h : execCheckpointReturn k v msg s = .next t') : φ t' = φ s := by
  unfold execCheckpointReturn at h
  refine ckMsg_frame h_pending h_out h_ropes _ _ _ _ _ (fun _ _ _ _ _ _ => ?_) _ h
  repeat' first
    | simp only [memWrite_frame h_regs h_seq h_out h_rigs h_mem h_memCheck h_memEpoch h_memKey h_ucs h_ropes h_rings h_svcs h_journal h_sec h_det, setFrame_frame h_regs h_svcs]
    | split
    | refine Eq.trans (memWrite_frame_of h_regs h_seq h_out h_rigs h_mem h_memCheck h_memEpoch h_memKey h_ucs h_ropes h_rings h_svcs h_journal h_sec h_det ‹_›) ?_
    | dsimp only
    | with_reducible rfl

theorem execCheckpointReturnDone_frame (h_regs : Blind.regs φ) (h_seq : Blind.seq φ) (h_pending : Blind.pending φ) (h_out : Blind.out φ) (h_rigs : Blind.rigs φ) (h_stages : Blind.stages φ) (h_parts : Blind.parts φ) (h_reds : Blind.reds φ) (h_mem : Blind.mem φ) (h_memCheck : Blind.memCheck φ) (h_memEpoch : Blind.memEpoch φ) (h_memKey : Blind.memKey φ) (h_ucs : Blind.ucs φ) (h_ropes : Blind.ropes φ) (h_fabric : Blind.fabric φ) (h_rings : Blind.rings φ) (h_svcs : Blind.svcs φ) (h_journal : Blind.journal φ) (h_sec : Blind.sec φ) (h_det : Blind.det φ) (k v : Nat) (msg : List Byte) (s : State) (t' : State)
    (h : execCheckpointReturnDone k v msg s = .next t') : φ t' = φ s := by
  unfold execCheckpointReturnDone at h
  refine ckMsg_frame h_pending h_out h_ropes _ _ _ _ _ (fun _ _ _ _ _ _ => ?_) _ h
  repeat' first
    | simp only [restoreOwn_frame h_regs h_seq h_out h_rigs h_stages h_parts h_reds h_mem h_memCheck h_memEpoch h_memKey h_ucs h_ropes h_fabric h_rings h_svcs h_journal h_sec h_det, setFrame_frame h_regs h_svcs, setSvc_frame h_svcs]
    | split
    | refine Eq.trans (restoreOwn_frame_of h_regs h_seq h_out h_rigs h_stages h_parts h_reds h_mem h_memCheck h_memEpoch h_memKey h_ucs h_ropes h_fabric h_rings h_svcs h_journal h_sec h_det ‹_›) ?_
    | dsimp only
    | with_reducible rfl

theorem execStorageServiceBit_frame (h_regs : Blind.regs φ) (h_pending : Blind.pending φ) (h_out : Blind.out φ) (s : State) (t' : State)
    (h : execStorageServiceBit s = .next t') : φ t' = φ s := by
  unfold execStorageServiceBit at h
  refine perform_frame h_out h_pending h (fun s => ?_)
  repeat' first
    | simp only [set_frame h_regs]
    | split
    | dsimp only
    | with_reducible rfl

theorem execStorageResponse_frame (h_regs : Blind.regs φ) (h_seq : Blind.seq φ) (h_pending : Blind.pending φ) (h_out : Blind.out φ) (h_rigs : Blind.rigs φ) (h_memCheck : Blind.memCheck φ) (h_ucs : Blind.ucs φ) (h_ropes : Blind.ropes φ) (h_rings : Blind.rings φ) (h_svcs : Blind.svcs φ) (h_journal : Blind.journal φ) (h_sec : Blind.sec φ) (h_det : Blind.det φ) (entry : List Byte) (s : State) (t' : State)
    (h : execStorageResponse entry s = .next t') : φ t' = φ s := by
  unfold execStorageResponse at h
  refine perform_frame h_out h_pending h (fun s => ?_)
  repeat' first
    | simp only [coldAnswer_frame h_regs h_seq h_out h_rigs h_memCheck h_ucs h_ropes h_rings h_svcs h_journal h_sec h_det, set_frame h_regs, h_det.eq]
    | split
    | dsimp only
    | with_reducible rfl

theorem execSnapPin_frame (h_regs : Blind.regs φ) (h_pending : Blind.pending φ) (h_out : Blind.out φ) (h_svcs : Blind.svcs φ) (p : Nat) (value : W32) (s : State) (t' : State)
    (h : execSnapPin p value s = .next t') : φ t' = φ s := by
  unfold execSnapPin at h
  refine perform_frame h_out h_pending h (fun s => ?_)
  repeat' first
    | simp only [pinSnapshot_frame h_regs h_out h_svcs, writeMaxMs_frame h_regs]
    | refine Eq.trans (whenUp_frame (fun _ => ?_) _) ?_
    | split
    | dsimp only
    | with_reducible rfl

theorem execSnapUnpin_frame (h_regs : Blind.regs φ) (h_pending : Blind.pending φ) (h_out : Blind.out φ) (h_svcs : Blind.svcs φ) (p : Nat) (value : W32) (s : State) (t' : State)
    (h : execSnapUnpin p value s = .next t') : φ t' = φ s := by
  unfold execSnapUnpin at h
  refine perform_frame h_out h_pending h (fun s => ?_)
  repeat' first
    | simp only [endPin_frame h_regs h_svcs, writeMaxMs_frame h_regs]
    | refine Eq.trans (whenUp_frame (fun _ => ?_) _) ?_
    | split
    | dsimp only
    | with_reducible rfl

theorem execSnapExpiry_frame (h_regs : Blind.regs φ) (h_time : Blind.time φ) (h_pending : Blind.pending φ) (h_out : Blind.out φ) (h_svcs : Blind.svcs φ) (now : W64) (p : Nat) (s : State) (t' : State)
    (h : execSnapExpiry now p s = .next t') : φ t' = φ s := by
  unfold execSnapExpiry at h
  refine perform_frame h_out h_pending h (fun s => ?_)
  repeat' first
    | simp only [at__frame h_time, endPin_frame h_regs h_svcs]
    | split
    | dsimp only
    | with_reducible rfl

theorem execJrnCompact_frame (h_pending : Blind.pending φ) (h_out : Blind.out φ) (h_journal : Blind.journal φ) (s : State) (t' : State)
    (h : execJrnCompact s = .next t') : φ t' = φ s := by
  unfold execJrnCompact at h
  refine perform_frame h_out h_pending h (fun s => ?_)
  repeat' first
    | simp only [h_journal.eq]
    | refine Eq.trans (whenUp_frame (fun _ => ?_) _) ?_
    | split
    | dsimp only
    | with_reducible rfl

theorem execJournalCompacted_frame (h_regs : Blind.regs φ) (h_seq : Blind.seq φ) (h_pending : Blind.pending φ) (h_out : Blind.out φ) (h_rings : Blind.rings φ) (h_journal : Blind.journal φ) (h_det : Blind.det φ) (s : State) (t' : State)
    (h : execJournalCompacted s = .next t') : φ t' = φ s := by
  unfold execJournalCompacted at h
  refine perform_frame h_out h_pending h (fun s => ?_)
  repeat' first
    | simp only [bump_frame h_regs, raise0_frame h_regs h_seq h_rings h_det, h_journal.eq]
    | split
    | dsimp only
    | with_reducible rfl

theorem execAvailJournal_frame (h_regs : Blind.regs φ) (h_pending : Blind.pending φ) (h_out : Blind.out φ) (h_journal : Blind.journal φ) (s : State) (t' : State)
    (h : execAvailJournal s = .next t') : φ t' = φ s := by
  unfold execAvailJournal at h
  refine perform_frame h_out h_pending h (fun s => ?_)
  repeat' first
    | simp only [journalWrite_frame h_regs h_journal]
    | with_reducible refine Eq.trans (foldl_frame (fun _ _ => ?_) _ _) ?_
    | refine Eq.trans (whenUp_frame (fun _ => ?_) _) ?_
    | split
    | dsimp only
    | with_reducible rfl

theorem execEventSummaryJournal_frame (h_regs : Blind.regs φ) (h_pending : Blind.pending φ) (h_out : Blind.out φ) (h_journal : Blind.journal φ) (h_det : Blind.det φ) (s : State) (t' : State)
    (h : execEventSummaryJournal s = .next t') : φ t' = φ s := by
  unfold execEventSummaryJournal at h
  refine perform_frame h_out h_pending h (fun s => ?_)
  repeat' first
    | simp only [journalWrite_frame h_regs h_journal, h_det.eq]
    | refine Eq.trans (whenUp_frame (fun _ => ?_) _) ?_
    | split
    | dsimp only
    | with_reducible rfl

end Sys2Proof.Laws
end

