-- ==== Sys2Proof/Laws/TenancyKeep.lean ====
section
/-!
SUPPORT. Frames of the commands of Sys2Proof/Machine/Tenancy.lean: what a command does not write stays as it was.
-/
namespace Sys2Proof.Laws
open Machine Machine.State

set_option linter.unusedSimpArgs false
set_option linter.unusedTactic false
set_option linter.unreachableTactic false
set_option linter.unusedVariables false

variable {α : Type} {φ : State → α}

theorem execPartOffer_frame (h_regs : Blind.regs φ) (h_seq : Blind.seq φ) (h_pending : Blind.pending φ) (h_out : Blind.out φ) (h_rings : Blind.rings φ) (h_det : Blind.det φ) (p : Nat) (value : W32) (s : State) (t' : State)
    (h : execPartOffer p value s = .next t') : φ t' = φ s := by
  unfold execPartOffer at h
  refine partCtrl_frame h_pending h_out _ _ _ _ _ (fun _ => ?_) _ h
  repeat' first
    | simp only [raise_frame h_regs h_seq h_rings h_det, set_frame h_regs]
    | split
    | dsimp only
    | with_reducible rfl

theorem execPartReclaim_frame (h_regs : Blind.regs φ) (h_seq : Blind.seq φ) (h_pending : Blind.pending φ) (h_out : Blind.out φ) (h_power : Blind.power φ) (h_rigs : Blind.rigs φ) (h_treads : Blind.treads φ) (h_flights : Blind.flights φ) (h_mem : Blind.mem φ) (h_memCheck : Blind.memCheck φ) (h_memEpoch : Blind.memEpoch φ) (h_memKey : Blind.memKey φ) (h_rings : Blind.rings φ) (h_sec : Blind.sec φ) (h_det : Blind.det φ) (p : Nat) (value : W32) (s : State) (t' : State)
    (h : execPartReclaim p value s = .next t') : φ t' = φ s := by
  unfold execPartReclaim at h
  refine partCtrl_frame h_pending h_out _ _ _ _ _ (fun _ => ?_) _ h
  repeat' first
    | simp only [endTenancy_frame h_regs h_seq h_power h_rigs h_treads h_flights h_mem h_memCheck h_memEpoch h_memKey h_rings h_sec h_det]
    | split
    | dsimp only
    | with_reducible rfl

theorem execPartWithdraw_frame (h_regs : Blind.regs φ) (h_pending : Blind.pending φ) (h_out : Blind.out φ) (p : Nat) (value : W32) (s : State) (t' : State)
    (h : execPartWithdraw p value s = .next t') : φ t' = φ s := by
  unfold execPartWithdraw at h
  refine partCtrl_frame h_pending h_out _ _ _ _ _ (fun _ => ?_) _ h
  repeat' first
    | simp only [set_frame h_regs]
    | split
    | dsimp only
    | with_reducible rfl

theorem execClaim_frame (h_regs : Blind.regs φ) (h_free : Blind.free φ) (h_pending : Blind.pending φ) (h_out : Blind.out φ) (h_sec : Blind.sec φ) (fn id p : Nat) (s : State) (t' : State)
    (h : execClaim fn id p s = .next t') : φ t' = φ s := by
  unfold execClaim at h
  refine tenantCmd_frame h_pending h_out _ _ _ _ _ _ _ (fun _ => ?_) _ h
  repeat' first
    | simp only [freshKey_frame h_free, set_frame h_regs, setKeys_frame h_sec]
    | split
    | refine Eq.trans (freshKey_frame_of h_free ‹_›) ?_
    | dsimp only
    | with_reducible rfl

theorem execEnrollRigKey_frame (h_pending : Blind.pending φ) (h_out : Blind.out φ) (h_sec : Blind.sec φ) (fn id p slot : Nat) (signer : List Byte) (s : State) (t' : State)
    (h : execEnrollRigKey fn id p slot signer s = .next t') : φ t' = φ s := by
  unfold execEnrollRigKey at h
  refine tenantCmd_frame h_pending h_out _ _ _ _ _ _ _ (fun _ => ?_) _ h
  repeat' first
    | simp only [h_sec.eq]
    | split
    | dsimp only
    | with_reducible rfl

theorem execLinkStage_frame (h_pending : Blind.pending φ) (h_out : Blind.out φ) (h_ropes : Blind.ropes φ) (h_sec : Blind.sec φ) (fn id p : Nat) (epoch : W16) (secret : List Byte) (s : State) (t' : State)
    (h : execLinkStage fn id p epoch secret s = .next t') : φ t' = φ s := by
  unfold execLinkStage at h
  refine tenantCmd_frame h_pending h_out _ _ _ _ _ _ _ (fun _ => ?_) _ h
  repeat' first
    | simp only [mapChannels_frame h_ropes, setLink_frame h_sec]
    | split
    | dsimp only
    | with_reducible rfl

theorem execLinkSwitch_frame (h_pending : Blind.pending φ) (h_out : Blind.out φ) (h_ropes : Blind.ropes φ) (h_sec : Blind.sec φ) (fn id p : Nat) (epoch : W16) (s : State) (t' : State)
    (h : execLinkSwitch fn id p epoch s = .next t') : φ t' = φ s := by
  unfold execLinkSwitch at h
  refine tenantCmd_frame h_pending h_out _ _ _ _ _ _ _ (fun _ => ?_) _ h
  repeat' first
    | simp only [mapChannels_frame h_ropes, setLink_frame h_sec]
    | split
    | dsimp only
    | with_reducible rfl

theorem execMemRotate_frame (h_free : Blind.free φ) (h_pending : Blind.pending φ) (h_out : Blind.out φ) (h_ucs : Blind.ucs φ) (h_sec : Blind.sec φ) (fn id p : Nat) (s : State) (t' : State)
    (h : execMemRotate fn id p s = .next t') : φ t' = φ s := by
  unfold execMemRotate at h
  refine tenantCmd_frame h_pending h_out _ _ _ _ _ _ _ (fun _ => ?_) _ h
  repeat' first
    | simp only [freshKey_frame h_free, setKeys_frame h_sec, setUc_frame h_ucs]
    | with_reducible refine Eq.trans (foldl_frame (fun _ _ => ?_) _ _) ?_
    | split
    | refine Eq.trans (freshKey_frame_of h_free ‹_›) ?_
    | dsimp only
    | with_reducible rfl

theorem execEnd_frame (h_regs : Blind.regs φ) (h_seq : Blind.seq φ) (h_pending : Blind.pending φ) (h_out : Blind.out φ) (h_power : Blind.power φ) (h_rigs : Blind.rigs φ) (h_treads : Blind.treads φ) (h_flights : Blind.flights φ) (h_mem : Blind.mem φ) (h_memCheck : Blind.memCheck φ) (h_memEpoch : Blind.memEpoch φ) (h_memKey : Blind.memKey φ) (h_rings : Blind.rings φ) (h_sec : Blind.sec φ) (h_det : Blind.det φ) (fn id p : Nat) (s : State) (t' : State)
    (h : execEnd fn id p s = .next t') : φ t' = φ s := by
  unfold execEnd at h
  refine tenantCmd_frame h_pending h_out _ _ _ _ _ _ _ (fun _ => ?_) _ h
  repeat' first
    | simp only [endTenancy_frame h_regs h_seq h_power h_rigs h_treads h_flights h_mem h_memCheck h_memEpoch h_memKey h_rings h_sec h_det]
    | split
    | dsimp only
    | with_reducible rfl

theorem execStatus_frame (h_regs : Blind.regs φ) (h_seq : Blind.seq φ) (h_pending : Blind.pending φ) (h_out : Blind.out φ) (h_hiLatch : Blind.hiLatch φ) (h_commitLatch : Blind.commitLatch φ) (h_rings : Blind.rings φ) (h_journal : Blind.journal φ) (h_sec : Blind.sec φ) (h_det : Blind.det φ) (fn id p : Nat) (s : State) (t' : State)
    (h : execStatus fn id p s = .next t') : φ t' = φ s := by
  unfold execStatus at h
  refine tenantCmd_frame h_pending h_out _ _ _ _ _ _ _ (fun _ => ?_) _ h
  repeat' first
    | simp only [put_frame h_out, readReg_frame h_regs h_seq h_hiLatch h_commitLatch h_rings h_journal h_sec h_det]
    | split
    | refine Eq.trans (readReg_frame_of h_regs h_seq h_hiLatch h_commitLatch h_rings h_journal h_sec h_det ‹_›) ?_
    | dsimp only
    | with_reducible rfl

theorem execScrubStart_frame (h_regs : Blind.regs φ) (h_pending : Blind.pending φ) (h_out : Blind.out φ) (h_ropes : Blind.ropes φ) (h_hces : Blind.hces φ) (h_rings : Blind.rings φ) (h_sec : Blind.sec φ) (s : State) (t' : State)
    (h : execScrubStart s = .next t') : φ t' = φ s := by
  unfold execScrubStart at h
  refine perform_frame h_out h_pending h (fun s => ?_)
  repeat' first
    | simp only [dropPlacements_frame h_regs, onPartVcs_frame h_ropes, sendControl_frame h_out h_ropes, setRing_frame h_rings, stopEngine_frame h_regs h_hces]
    | with_reducible refine Eq.trans (foldl_frame (fun _ _ => ?_) _ _) ?_
    | refine Eq.trans (withScrub_frame h_sec _ _ _ (fun _ _ => ?_)) ?_
    | split
    | dsimp only
    | with_reducible rfl

theorem execScrubKeysErased_frame (h_regs : Blind.regs φ) (h_pending : Blind.pending φ) (h_out : Blind.out φ) (h_ropes : Blind.ropes φ) (h_sec : Blind.sec φ) (s : State) (t' : State)
    (h : execScrubKeysErased s = .next t') : φ t' = φ s := by
  unfold execScrubKeysErased at h
  refine perform_frame h_out h_pending h (fun s => ?_)
  repeat' first
    | simp only [clearIde_frame h_regs h_sec, onPartVcs_frame h_ropes, setKeys_frame h_sec, setLink_frame h_sec]
    | refine Eq.trans (withScrub_frame h_sec _ _ _ (fun _ _ => ?_)) ?_
    | split
    | dsimp only
    | with_reducible rfl

theorem execScrubOverwriteDone_frame (h_pending : Blind.pending φ) (h_out : Blind.out φ) (h_mem : Blind.mem φ) (h_memCheck : Blind.memCheck φ) (h_memEpoch : Blind.memEpoch φ) (h_memKey : Blind.memKey φ) (h_ucs : Blind.ucs φ) (h_ropes : Blind.ropes φ) (h_sec : Blind.sec φ) (s : State) (t' : State)
    (h : execScrubOverwriteDone s = .next t') : φ t' = φ s := by
  unfold execScrubOverwriteDone at h
  refine perform_frame h_out h_pending h (fun s => ?_)
  repeat' first
    | simp only [clearRange_frame h_mem h_memCheck h_memEpoch h_memKey, clearScratch_frame h_ucs, onPartVcs_frame h_ropes]
    | refine Eq.trans (withScrub_frame h_sec _ _ _ (fun _ _ => ?_)) ?_
    | split
    | dsimp only
    | with_reducible rfl

theorem execPartScrubbed_frame (h_regs : Blind.regs φ) (h_seq : Blind.seq φ) (h_pending : Blind.pending φ) (h_out : Blind.out φ) (h_rings : Blind.rings φ) (h_sec : Blind.sec φ) (h_det : Blind.det φ) (s : State) (t' : State)
    (h : execPartScrubbed s = .next t') : φ t' = φ s := by
  unfold execPartScrubbed at h
  refine perform_frame h_out h_pending h (fun s => ?_)
  repeat' first
    | simp only [raise_frame h_regs h_seq h_rings h_det, set_frame h_regs, setLink_frame h_sec, unset_frame h_regs, h_sec.eq]
    | with_reducible refine Eq.trans (foldl_frame (fun _ _ => ?_) _ _) ?_
    | refine Eq.trans (withScrub_frame h_sec _ _ _ (fun _ _ => ?_)) ?_
    | split
    | dsimp only
    | with_reducible rfl

theorem execFabStage_frame (h_regs : Blind.regs φ) (h_seq : Blind.seq φ) (h_pending : Blind.pending φ) (h_out : Blind.out φ) (h_rings : Blind.rings φ) (h_sec : Blind.sec φ) (h_det : Blind.det φ) (value : W32) (s : State) (t' : State)
    (h : execFabStage value s = .next t') : φ t' = φ s := by
  unfold execFabStage at h
  refine fabCtrl_frame h_regs h_pending h_out _ _ _ (fun _ => ?_) _ h
  repeat' first
    | simp only [raise0_frame h_regs h_seq h_rings h_det, h_sec.eq]
    | split
    | dsimp only
    | with_reducible rfl

theorem execFabSwitch_frame (h_regs : Blind.regs φ) (h_pending : Blind.pending φ) (h_out : Blind.out φ) (h_ropes : Blind.ropes φ) (h_sec : Blind.sec φ) (value : W32) (s : State) (t' : State)
    (h : execFabSwitch value s = .next t') : φ t' = φ s := by
  unfold execFabSwitch at h
  refine fabCtrl_frame h_regs h_pending h_out _ _ _ (fun _ => ?_) _ h
  repeat' first
    | simp only [setVchan_frame h_ropes, switchRopeKey_frame h_ropes, wakeRope_frame h_regs h_ropes, h_sec.eq]
    | with_reducible refine Eq.trans (foldl_frame (fun _ _ => ?_) _ _) ?_
    | split
    | dsimp only
    | with_reducible rfl

theorem execDebugUnlock_frame (h_regs : Blind.regs φ) (h_seq : Blind.seq φ) (h_free : Blind.free φ) (h_pending : Blind.pending φ) (h_out : Blind.out φ) (h_rings : Blind.rings φ) (h_sec : Blind.sec φ) (h_det : Blind.det φ) (value : W32) (s : State) (t' : State)
    (h : execDebugUnlock value s = .next t') : φ t' = φ s := by
  unfold execDebugUnlock at h
  refine dbgCtrl_frame h_regs h_pending h_out _ _ _ (fun _ => ?_) _ h
  repeat' first
    | simp only [bump_frame h_regs, drawChallenge_frame h_regs h_free, raise0_frame h_regs h_seq h_rings h_det, set_frame h_regs, h_sec.eq]
    | split
    | dsimp only
    | with_reducible rfl

theorem execDebugRelock_frame (h_regs : Blind.regs φ) (h_pending : Blind.pending φ) (h_out : Blind.out φ) (h_sec : Blind.sec φ) (value : W32) (s : State) (t' : State)
    (h : execDebugRelock value s = .next t') : φ t' = φ s := by
  unfold execDebugRelock at h
  refine dbgCtrl_frame h_regs h_pending h_out _ _ _ (fun _ => ?_) _ h
  repeat' first
    | simp only [set_frame h_regs, h_sec.eq]
    | split
    | dsimp only
    | with_reducible rfl

theorem execDbgGo_frame (h_regs : Blind.regs φ) (h_seq : Blind.seq φ) (h_pending : Blind.pending φ) (h_out : Blind.out φ) (h_hiLatch : Blind.hiLatch φ) (h_commitLatch : Blind.commitLatch φ) (h_rigs : Blind.rigs φ) (h_treads : Blind.treads φ) (h_chans : Blind.chans φ) (h_flights : Blind.flights φ) (h_stages : Blind.stages φ) (h_ctxs : Blind.ctxs φ) (h_landings : Blind.landings φ) (h_mem : Blind.mem φ) (h_memCheck : Blind.memCheck φ) (h_memEpoch : Blind.memEpoch φ) (h_memKey : Blind.memKey φ) (h_ucs : Blind.ucs φ) (h_ropes : Blind.ropes φ) (h_fabric : Blind.fabric φ) (h_rings : Blind.rings φ) (h_svcs : Blind.svcs φ) (h_journal : Blind.journal φ) (h_sec : Blind.sec φ) (h_det : Blind.det φ) (value : W32) (bad : List (Nat × Nat)) (s : State) (t' : State)
    (h : execDbgGo value bad s = .next t') : φ t' = φ s := by
  unfold execDbgGo at h
  refine perform_frame h_out h_pending h (fun s => ?_)
  repeat' first
    | simp only [debugGo_frame h_regs h_seq h_out h_hiLatch h_commitLatch h_rigs h_treads h_chans h_flights h_stages h_ctxs h_landings h_mem h_memCheck h_memEpoch h_memKey h_ucs h_ropes h_fabric h_rings h_svcs h_journal h_sec h_det]
    | refine Eq.trans (whenUp_frame (fun _ => ?_) _) ?_
    | split
    | dsimp only
    | with_reducible rfl

theorem execInstrumentAccess_frame (h_regs : Blind.regs φ) (h_seq : Blind.seq φ) (h_pending : Blind.pending φ) (h_out : Blind.out φ) (h_hiLatch : Blind.hiLatch φ) (h_commitLatch : Blind.commitLatch φ) (h_rigs : Blind.rigs φ) (h_treads : Blind.treads φ) (h_chans : Blind.chans φ) (h_flights : Blind.flights φ) (h_stages : Blind.stages φ) (h_ctxs : Blind.ctxs φ) (h_landings : Blind.landings φ) (h_mem : Blind.mem φ) (h_memCheck : Blind.memCheck φ) (h_memEpoch : Blind.memEpoch φ) (h_memKey : Blind.memKey φ) (h_ucs : Blind.ucs φ) (h_ropes : Blind.ropes φ) (h_fabric : Blind.fabric φ) (h_rings : Blind.rings φ) (h_svcs : Blind.svcs φ) (h_journal : Blind.journal φ) (h_sec : Blind.sec φ) (h_det : Blind.det φ) (write : Bool) (addr : W64) (len : Nat) (data : List Byte) (bad : List (Nat × Nat)) (s : State) (t' : State)
    (h : execInstrumentAccess write addr len data bad s = .next t') : φ t' = φ s := by
  unfold execInstrumentAccess at h
  refine perform_frame h_out h_pending h (fun s => ?_)
  repeat' first
    | simp only [debugGo_frame h_regs h_seq h_out h_hiLatch h_commitLatch h_rigs h_treads h_chans h_flights h_stages h_ctxs h_landings h_mem h_memCheck h_memEpoch h_memKey h_ucs h_ropes h_fabric h_rings h_svcs h_journal h_sec h_det]
    | split
    | dsimp only
    | with_reducible rfl

theorem execFirmwareImage_frame (h_regs : Blind.regs φ) (h_pending : Blind.pending φ) (h_out : Blind.out φ) (h_sec : Blind.sec φ) (image : List Byte) (s : State) (t' : State)
    (h : execFirmwareImage image s = .next t') : φ t' = φ s := by
  unfold execFirmwareImage at h
  refine perform_frame h_out h_pending h (fun s => ?_)
  repeat' first
    | simp only [put_frame h_out, ringBell_frame h_regs h_out, set_frame h_regs, h_sec.eq]
    | split
    | dsimp only
    | with_reducible rfl

theorem execFuseSvnRaise_frame (h_regs : Blind.regs φ) (h_pending : Blind.pending φ) (h_out : Blind.out φ) (h_sec : Blind.sec φ) (s : State) (t' : State)
    (h : execFuseSvnRaise s = .next t') : φ t' = φ s := by
  unfold execFuseSvnRaise at h
  refine perform_frame h_out h_pending h (fun s => ?_)
  repeat' first
    | simp only [ringBell_frame h_regs h_out, set_frame h_regs, h_sec.eq]
    | split
    | dsimp only
    | with_reducible rfl

end Sys2Proof.Laws
end

