-- ==== Sys2Proof/Laws/TreadBranchFrame.lean ====
section
/-!
SUPPORT. Frames of the operations of Sys2Proof/Machine/TreadBranch.lean: what none of them writes stays as it was.
-/
namespace Sys2Proof.Laws
open Machine Machine.State

set_option linter.unusedSimpArgs false
set_option linter.unusedTactic false
set_option linter.unreachableTactic false
set_option linter.unusedVariables false

variable {α : Type} {φ : State → α}

theorem branch_frame (h_pending : Blind.pending φ) (h_out : Blind.out φ) (h_treads : Blind.treads φ) (t : Nat) (off : BitVec 16) (taken : Tread → Bool) (s : State) (t' : State)
    (h : branch t off taken s = .next t') : φ t' = φ s := by
  unfold branch at h
  refine perform_frame h_out h_pending h (fun s => ?_)
  repeat' first
    | simp only [runTread_frame h_treads, setTread_frame h_treads]
    | refine Eq.trans (whenRun_frame _ _ _ (fun _ => ?_)) ?_
    | split
    | dsimp only
    | with_reducible rfl

end Sys2Proof.Laws
end

