-- ==== Sys2Proof/Laws/TreadBranchKeep.lean ====
section
/-!
SUPPORT. Frames of the commands of Sys2Proof/Machine/TreadBranch.lean: what a command does not write stays as it was.
-/
namespace Sys2Proof.Laws
open Machine Machine.State

set_option linter.unusedSimpArgs false
set_option linter.unusedTactic false
set_option linter.unreachableTactic false
set_option linter.unusedVariables false

variable {α : Type} {φ : State → α}

theorem execBeq_frame (h_pending : Blind.pending φ) (h_out : Blind.out φ) (h_treads : Blind.treads φ) (t : Nat) (ra rb : BitVec 5) (off : BitVec 16) (s : State) (t' : State)
    (h : execBeq t ra rb off s = .next t') : φ t' = φ s := by
  unfold execBeq at h
  refine branch_frame h_pending h_out h_treads _ _ _ _ _ h

theorem execBne_frame (h_pending : Blind.pending φ) (h_out : Blind.out φ) (h_treads : Blind.treads φ) (t : Nat) (ra rb : BitVec 5) (off : BitVec 16) (s : State) (t' : State)
    (h : execBne t ra rb off s = .next t') : φ t' = φ s := by
  unfold execBne at h
  refine branch_frame h_pending h_out h_treads _ _ _ _ _ h

theorem execBlt_frame (h_pending : Blind.pending φ) (h_out : Blind.out φ) (h_treads : Blind.treads φ) (t : Nat) (ra rb : BitVec 5) (off : BitVec 16) (s : State) (t' : State)
    (h : execBlt t ra rb off s = .next t') : φ t' = φ s := by
  unfold execBlt at h
  refine branch_frame h_pending h_out h_treads _ _ _ _ _ h

theorem execBge_frame (h_pending : Blind.pending φ) (h_out : Blind.out φ) (h_treads : Blind.treads φ) (t : Nat) (ra rb : BitVec 5) (off : BitVec 16) (s : State) (t' : State)
    (h : execBge t ra rb off s = .next t') : φ t' = φ s := by
  unfold execBge at h
  refine branch_frame h_pending h_out h_treads _ _ _ _ _ h

theorem execBltu_frame (h_pending : Blind.pending φ) (h_out : Blind.out φ) (h_treads : Blind.treads φ) (t : Nat) (ra rb : BitVec 5) (off : BitVec 16) (s : State) (t' : State)
    (h : execBltu t ra rb off s = .next t') : φ t' = φ s := by
  unfold execBltu at h
  refine branch_frame h_pending h_out h_treads _ _ _ _ _ h

theorem execBgeu_frame (h_pending : Blind.pending φ) (h_out : Blind.out φ) (h_treads : Blind.treads φ) (t : Nat) (ra rb : BitVec 5) (off : BitVec 16) (s : State) (t' : State)
    (h : execBgeu t ra rb off s = .next t') : φ t' = φ s := by
  unfold execBgeu at h
  refine branch_frame h_pending h_out h_treads _ _ _ _ _ h

theorem execJal_frame (h_pending : Blind.pending φ) (h_out : Blind.out φ) (h_treads : Blind.treads φ) (t : Nat) (off : BitVec 26) (s : State) (t' : State)
    (h : execJal t off s = .next t') : φ t' = φ s := by
  unfold execJal at h
  refine perform_frame h_out h_pending h (fun s => ?_)
  repeat' first
    | simp only [setTread_frame h_treads]
    | refine Eq.trans (whenRun_frame _ _ _ (fun _ => ?_)) ?_
    | split
    | dsimp only
    | with_reducible rfl

theorem execJalr_frame (h_pending : Blind.pending φ) (h_out : Blind.out φ) (h_treads : Blind.treads φ) (t : Nat) (rd ra : BitVec 5) (imm : BitVec 16) (s : State) (t' : State)
    (h : execJalr t rd ra imm s = .next t') : φ t' = φ s := by
  unfold execJalr at h
  refine perform_frame h_out h_pending h (fun s => ?_)
  repeat' first
    | simp only [setTread_frame h_treads]
    | refine Eq.trans (whenRun_frame _ _ _ (fun _ => ?_)) ?_
    | split
    | dsimp only
    | with_reducible rfl

end Sys2Proof.Laws
end

