-- ==== Sys2Proof/Laws/TreadChannelFrame.lean ====
section
/-!
SUPPORT. Frames of the operations of Sys2Proof/Machine/TreadChannel.lean: what none of them writes stays as it was.
-/
namespace Sys2Proof.Laws
open Machine Machine.State

set_option linter.unusedSimpArgs false
set_option linter.unusedTactic false
set_option linter.unreachableTactic false
set_option linter.unusedVariables false

variable {α : Type} {φ : State → α}

theorem channel_frame (h_regs : Blind.regs φ) (h_seq : Blind.seq φ) (h_pending : Blind.pending φ) (h_out : Blind.out φ) (h_rigs : Blind.rigs φ) (h_treads : Blind.treads φ) (h_chans : Blind.chans φ) (h_ropes : Blind.ropes φ) (h_rings : Blind.rings φ) (h_svcs : Blind.svcs φ) (h_det : Blind.det φ) (t : Nat) (legal : Bool) (w : WaitOp) (s : State) (t' : State)
    (h : channel t legal w s = .next t') : φ t' = φ s := by
  unfold channel at h
  refine perform_frame h_out h_pending h (fun s => ?_)
  repeat' first
    | simp only [trapTread_frame h_regs h_seq h_out h_rigs h_treads h_ropes h_rings h_svcs h_det, tryWait_frame h_regs h_seq h_out h_rigs h_treads h_chans h_ropes h_rings h_svcs h_det]
    | refine Eq.trans (whenRun_frame _ _ _ (fun _ => ?_)) ?_
    | split
    | dsimp only
    | with_reducible rfl

end Sys2Proof.Laws
end

