-- ==== Sys2Proof/Laws/TreadChannelKeep.lean ====
section
/-!
SUPPORT. Frames of the commands of Sys2Proof/Machine/TreadChannel.lean: what a command does not write stays as it was.
-/
namespace Sys2Proof.Laws
open Machine Machine.State

set_option linter.unusedSimpArgs false
set_option linter.unusedTactic false
set_option linter.unreachableTactic false
set_option linter.unusedVariables false

variable {α : Type} {φ : State → α}

theorem execRecv_frame (h_regs : Blind.regs φ) (h_seq : Blind.seq φ) (h_pending : Blind.pending φ) (h_out : Blind.out φ) (h_rigs : Blind.rigs φ) (h_treads : Blind.treads φ) (h_chans : Blind.chans φ) (h_ropes : Blind.ropes φ) (h_rings : Blind.rings φ) (h_svcs : Blind.svcs φ) (h_det : Blind.det φ) (t : Nat) (reg : BitVec 5) (ch len : BitVec 2) (s : State) (t' : State)
    (h : execRecv t reg ch len s = .next t') : φ t' = φ s := by
  unfold execRecv at h
  refine channel_frame h_regs h_seq h_pending h_out h_rigs h_treads h_chans h_ropes h_rings h_svcs h_det _ _ _ _ _ h

theorem execSend_frame (h_regs : Blind.regs φ) (h_seq : Blind.seq φ) (h_pending : Blind.pending φ) (h_out : Blind.out φ) (h_rigs : Blind.rigs φ) (h_treads : Blind.treads φ) (h_chans : Blind.chans φ) (h_ropes : Blind.ropes φ) (h_rings : Blind.rings φ) (h_svcs : Blind.svcs φ) (h_det : Blind.det φ) (t : Nat) (reg : BitVec 5) (ch len : BitVec 2) (s : State) (t' : State)
    (h : execSend t reg ch len s = .next t') : φ t' = φ s := by
  unfold execSend at h
  refine channel_frame h_regs h_seq h_pending h_out h_rigs h_treads h_chans h_ropes h_rings h_svcs h_det _ _ _ _ _ h

theorem execPoll_frame (h_pending : Blind.pending φ) (h_out : Blind.out φ) (h_treads : Blind.treads φ) (t : Nat) (reg : BitVec 5) (ch : BitVec 2) (p : Bool) (s : State) (t' : State)
    (h : execPoll t reg ch p s = .next t') : φ t' = φ s := by
  unfold execPoll at h
  refine perform_frame h_out h_pending h (fun s => ?_)
  repeat' first
    | simp only [runTread_frame h_treads]
    | split
    | dsimp only
    | with_reducible rfl

theorem execVrecv_frame (h_regs : Blind.regs φ) (h_seq : Blind.seq φ) (h_pending : Blind.pending φ) (h_out : Blind.out φ) (h_rigs : Blind.rigs φ) (h_treads : Blind.treads φ) (h_chans : Blind.chans φ) (h_ropes : Blind.ropes φ) (h_rings : Blind.rings φ) (h_svcs : Blind.svcs φ) (h_det : Blind.det φ) (t : Nat) (vr : BitVec 3) (ch len : BitVec 2) (lane : BitVec 3) (s : State) (t' : State)
    (h : execVrecv t vr ch len lane s = .next t') : φ t' = φ s := by
  unfold execVrecv at h
  refine channel_frame h_regs h_seq h_pending h_out h_rigs h_treads h_chans h_ropes h_rings h_svcs h_det _ _ _ _ _ h

theorem execVsend_frame (h_regs : Blind.regs φ) (h_seq : Blind.seq φ) (h_pending : Blind.pending φ) (h_out : Blind.out φ) (h_rigs : Blind.rigs φ) (h_treads : Blind.treads φ) (h_chans : Blind.chans φ) (h_ropes : Blind.ropes φ) (h_rings : Blind.rings φ) (h_svcs : Blind.svcs φ) (h_det : Blind.det φ) (t : Nat) (vr : BitVec 3) (ch len : BitVec 2) (lane : BitVec 3) (s : State) (t' : State)
    (h : execVsend t vr ch len lane s = .next t') : φ t' = φ s := by
  unfold execVsend at h
  refine channel_frame h_regs h_seq h_pending h_out h_rigs h_treads h_chans h_ropes h_rings h_svcs h_det _ _ _ _ _ h

end Sys2Proof.Laws
end

