-- ==== Sys2Proof/Laws/TreadMemoryFrame.lean ====
section
/-!
SUPPORT. Frames of the operations of Sys2Proof/Machine/TreadMemory.lean: what none of them writes stays as it was.
-/
namespace Sys2Proof.Laws
open Machine Machine.State

set_option linter.unusedSimpArgs false
set_option linter.unusedTactic false
set_option linter.unreachableTactic false
set_option linter.unusedVariables false

variable {α : Type} {φ : State → α}

theorem loadTread_frame (h_regs : Blind.regs φ) (h_seq : Blind.seq φ) (h_pending : Blind.pending φ) (h_out : Blind.out φ) (h_rigs : Blind.rigs φ) (h_treads : Blind.treads φ) (h_ropes : Blind.ropes φ) (h_rings : Blind.rings φ) (h_svcs : Blind.svcs φ) (h_det : Blind.det φ) (t n : Nat) (ra : BitVec 5) (imm : BitVec 16) (f : List Byte → Tread → Tread) (s : State) (t' : State)
    (h : loadTread t n ra imm f s = .next t') : φ t' = φ s := by
  unfold loadTread at h
  refine perform_frame h_out h_pending h (fun s => ?_)
  repeat' first
    | simp only [memTread_frame h_regs h_seq h_out h_rigs h_treads h_ropes h_rings h_svcs h_det]
    | split
    | dsimp only
    | with_reducible rfl

theorem storeTread_frame (h_regs : Blind.regs φ) (h_seq : Blind.seq φ) (h_pending : Blind.pending φ) (h_out : Blind.out φ) (h_rigs : Blind.rigs φ) (h_treads : Blind.treads φ) (h_ropes : Blind.ropes φ) (h_rings : Blind.rings φ) (h_svcs : Blind.svcs φ) (h_det : Blind.det φ) (t n : Nat) (ra : BitVec 5) (imm : BitVec 16) (f : Tread → List Byte) (s : State) (t' : State)
    (h : storeTread t n ra imm f s = .next t') : φ t' = φ s := by
  unfold storeTread at h
  refine perform_frame h_out h_pending h (fun s => ?_)
  repeat' first
    | simp only [memTread_frame h_regs h_seq h_out h_rigs h_treads h_ropes h_rings h_svcs h_det]
    | split
    | dsimp only
    | with_reducible rfl

end Sys2Proof.Laws
end

