-- ==== Sys2Proof/Laws/TreadMemoryKeep.lean ====
section
/-!
SUPPORT. Frames of the commands of Sys2Proof/Machine/TreadMemory.lean: what a command does not write stays as it was.
-/
namespace Sys2Proof.Laws
open Machine Machine.State

set_option linter.unusedSimpArgs false
set_option linter.unusedTactic false
set_option linter.unreachableTactic false
set_option linter.unusedVariables false

variable {α : Type} {φ : State → α}

theorem execLw_frame (h_regs : Blind.regs φ) (h_seq : Blind.seq φ) (h_pending : Blind.pending φ) (h_out : Blind.out φ) (h_rigs : Blind.rigs φ) (h_treads : Blind.treads φ) (h_ropes : Blind.ropes φ) (h_rings : Blind.rings φ) (h_svcs : Blind.svcs φ) (h_det : Blind.det φ) (t : Nat) (rd ra : BitVec 5) (imm : BitVec 16) (s : State) (t' : State)
    (h : execLw t rd ra imm s = .next t') : φ t' = φ s := by
  unfold execLw at h
  refine loadTread_frame h_regs h_seq h_pending h_out h_rigs h_treads h_ropes h_rings h_svcs h_det _ _ _ _ _ _ _ h

theorem execLh_frame (h_regs : Blind.regs φ) (h_seq : Blind.seq φ) (h_pending : Blind.pending φ) (h_out : Blind.out φ) (h_rigs : Blind.rigs φ) (h_treads : Blind.treads φ) (h_ropes : Blind.ropes φ) (h_rings : Blind.rings φ) (h_svcs : Blind.svcs φ) (h_det : Blind.det φ) (t : Nat) (rd ra : BitVec 5) (imm : BitVec 16) (s : State) (t' : State)
    (h : execLh t rd ra imm s = .next t') : φ t' = φ s := by
  unfold execLh at h
  refine loadTread_frame h_regs h_seq h_pending h_out h_rigs h_treads h_ropes h_rings h_svcs h_det _ _ _ _ _ _ _ h

theorem execLhu_frame (h_regs : Blind.regs φ) (h_seq : Blind.seq φ) (h_pending : Blind.pending φ) (h_out : Blind.out φ) (h_rigs : Blind.rigs φ) (h_treads : Blind.treads φ) (h_ropes : Blind.ropes φ) (h_rings : Blind.rings φ) (h_svcs : Blind.svcs φ) (h_det : Blind.det φ) (t : Nat) (rd ra : BitVec 5) (imm : BitVec 16) (s : State) (t' : State)
    (h : execLhu t rd ra imm s = .next t') : φ t' = φ s := by
  unfold execLhu at h
  refine loadTread_frame h_regs h_seq h_pending h_out h_rigs h_treads h_ropes h_rings h_svcs h_det _ _ _ _ _ _ _ h

theorem execLbu_frame (h_regs : Blind.regs φ) (h_seq : Blind.seq φ) (h_pending : Blind.pending φ) (h_out : Blind.out φ) (h_rigs : Blind.rigs φ) (h_treads : Blind.treads φ) (h_ropes : Blind.ropes φ) (h_rings : Blind.rings φ) (h_svcs : Blind.svcs φ) (h_det : Blind.det φ) (t : Nat) (rd ra : BitVec 5) (imm : BitVec 16) (s : State) (t' : State)
    (h : execLbu t rd ra imm s = .next t') : φ t' = φ s := by
  unfold execLbu at h
  refine loadTread_frame h_regs h_seq h_pending h_out h_rigs h_treads h_ropes h_rings h_svcs h_det _ _ _ _ _ _ _ h

theorem execSw_frame (h_regs : Blind.regs φ) (h_seq : Blind.seq φ) (h_pending : Blind.pending φ) (h_out : Blind.out φ) (h_rigs : Blind.rigs φ) (h_treads : Blind.treads φ) (h_ropes : Blind.ropes φ) (h_rings : Blind.rings φ) (h_svcs : Blind.svcs φ) (h_det : Blind.det φ) (t : Nat) (rs ra : BitVec 5) (imm : BitVec 16) (s : State) (t' : State)
    (h : execSw t rs ra imm s = .next t') : φ t' = φ s := by
  unfold execSw at h
  refine storeTread_frame h_regs h_seq h_pending h_out h_rigs h_treads h_ropes h_rings h_svcs h_det _ _ _ _ _ _ _ h

theorem execSh_frame (h_regs : Blind.regs φ) (h_seq : Blind.seq φ) (h_pending : Blind.pending φ) (h_out : Blind.out φ) (h_rigs : Blind.rigs φ) (h_treads : Blind.treads φ) (h_ropes : Blind.ropes φ) (h_rings : Blind.rings φ) (h_svcs : Blind.svcs φ) (h_det : Blind.det φ) (t : Nat) (rs ra : BitVec 5) (imm : BitVec 16) (s : State) (t' : State)
    (h : execSh t rs ra imm s = .next t') : φ t' = φ s := by
  unfold execSh at h
  refine storeTread_frame h_regs h_seq h_pending h_out h_rigs h_treads h_ropes h_rings h_svcs h_det _ _ _ _ _ _ _ h

theorem execSb_frame (h_regs : Blind.regs φ) (h_seq : Blind.seq φ) (h_pending : Blind.pending φ) (h_out : Blind.out φ) (h_rigs : Blind.rigs φ) (h_treads : Blind.treads φ) (h_ropes : Blind.ropes φ) (h_rings : Blind.rings φ) (h_svcs : Blind.svcs φ) (h_det : Blind.det φ) (t : Nat) (rs ra : BitVec 5) (imm : BitVec 16) (s : State) (t' : State)
    (h : execSb t rs ra imm s = .next t') : φ t' = φ s := by
  unfold execSb at h
  refine storeTread_frame h_regs h_seq h_pending h_out h_rigs h_treads h_ropes h_rings h_svcs h_det _ _ _ _ _ _ _ h

theorem execVld_frame (h_regs : Blind.regs φ) (h_seq : Blind.seq φ) (h_pending : Blind.pending φ) (h_out : Blind.out φ) (h_rigs : Blind.rigs φ) (h_treads : Blind.treads φ) (h_ropes : Blind.ropes φ) (h_rings : Blind.rings φ) (h_svcs : Blind.svcs φ) (h_det : Blind.det φ) (t : Nat) (vr : BitVec 3) (ra : BitVec 5) (imm : BitVec 16) (s : State) (t' : State)
    (h : execVld t vr ra imm s = .next t') : φ t' = φ s := by
  unfold execVld at h
  refine loadTread_frame h_regs h_seq h_pending h_out h_rigs h_treads h_ropes h_rings h_svcs h_det _ _ _ _ _ _ _ h

theorem execVst_frame (h_regs : Blind.regs φ) (h_seq : Blind.seq φ) (h_pending : Blind.pending φ) (h_out : Blind.out φ) (h_rigs : Blind.rigs φ) (h_treads : Blind.treads φ) (h_ropes : Blind.ropes φ) (h_rings : Blind.rings φ) (h_svcs : Blind.svcs φ) (h_det : Blind.det φ) (t : Nat) (vr : BitVec 3) (ra : BitVec 5) (imm : BitVec 16) (s : State) (t' : State)
    (h : execVst t vr ra imm s = .next t') : φ t' = φ s := by
  unfold execVst at h
  refine storeTread_frame h_regs h_seq h_pending h_out h_rigs h_treads h_ropes h_rings h_svcs h_det _ _ _ _ _ _ _ h

end Sys2Proof.Laws
end

