-- ==== Sys2Proof/Laws/TreadScalarKeep.lean ====
section
/-!
SUPPORT. Frames of the commands of Sys2Proof/Machine/TreadScalar.lean: what a command does not write stays as it was.
-/
namespace Sys2Proof.Laws
open Machine Machine.State

set_option linter.unusedSimpArgs false
set_option linter.unusedTactic false
set_option linter.unreachableTactic false
set_option linter.unusedVariables false

variable {α : Type} {φ : State → α}

theorem execAdd_frame (h_pending : Blind.pending φ) (h_out : Blind.out φ) (h_treads : Blind.treads φ) (t : Nat) (rd ra rb : BitVec 5) (s : State) (t' : State)
    (h : execAdd t rd ra rb s = .next t') : φ t' = φ s := by
  unfold execAdd at h
  refine alu_frame h_pending h_out h_treads _ _ _ _ _ _ h

theorem execSub_frame (h_pending : Blind.pending φ) (h_out : Blind.out φ) (h_treads : Blind.treads φ) (t : Nat) (rd ra rb : BitVec 5) (s : State) (t' : State)
    (h : execSub t rd ra rb s = .next t') : φ t' = φ s := by
  unfold execSub at h
  refine alu_frame h_pending h_out h_treads _ _ _ _ _ _ h

theorem execAnd_frame (h_pending : Blind.pending φ) (h_out : Blind.out φ) (h_treads : Blind.treads φ) (t : Nat) (rd ra rb : BitVec 5) (s : State) (t' : State)
    (h : execAnd t rd ra rb s = .next t') : φ t' = φ s := by
  unfold execAnd at h
  refine alu_frame h_pending h_out h_treads _ _ _ _ _ _ h

theorem execOr_frame (h_pending : Blind.pending φ) (h_out : Blind.out φ) (h_treads : Blind.treads φ) (t : Nat) (rd ra rb : BitVec 5) (s : State) (t' : State)
    (h : execOr t rd ra rb s = .next t') : φ t' = φ s := by
  unfold execOr at h
  refine alu_frame h_pending h_out h_treads _ _ _ _ _ _ h

theorem execXor_frame (h_pending : Blind.pending φ) (h_out : Blind.out φ) (h_treads : Blind.treads φ) (t : Nat) (rd ra rb : BitVec 5) (s : State) (t' : State)
    (h : execXor t rd ra rb s = .next t') : φ t' = φ s := by
  unfold execXor at h
  refine alu_frame h_pending h_out h_treads _ _ _ _ _ _ h

theorem execSll_frame (h_pending : Blind.pending φ) (h_out : Blind.out φ) (h_treads : Blind.treads φ) (t : Nat) (rd ra rb : BitVec 5) (s : State) (t' : State)
    (h : execSll t rd ra rb s = .next t') : φ t' = φ s := by
  unfold execSll at h
  refine alu_frame h_pending h_out h_treads _ _ _ _ _ _ h

theorem execSrl_frame (h_pending : Blind.pending φ) (h_out : Blind.out φ) (h_treads : Blind.treads φ) (t : Nat) (rd ra rb : BitVec 5) (s : State) (t' : State)
    (h : execSrl t rd ra rb s = .next t') : φ t' = φ s := by
  unfold execSrl at h
  refine alu_frame h_pending h_out h_treads _ _ _ _ _ _ h

theorem execSra_frame (h_pending : Blind.pending φ) (h_out : Blind.out φ) (h_treads : Blind.treads φ) (t : Nat) (rd ra rb : BitVec 5) (s : State) (t' : State)
    (h : execSra t rd ra rb s = .next t') : φ t' = φ s := by
  unfold execSra at h
  refine alu_frame h_pending h_out h_treads _ _ _ _ _ _ h

theorem execSlt_frame (h_pending : Blind.pending φ) (h_out : Blind.out φ) (h_treads : Blind.treads φ) (t : Nat) (rd ra rb : BitVec 5) (s : State) (t' : State)
    (h : execSlt t rd ra rb s = .next t') : φ t' = φ s := by
  unfold execSlt at h
  refine alu_frame h_pending h_out h_treads _ _ _ _ _ _ h

theorem execSltu_frame (h_pending : Blind.pending φ) (h_out : Blind.out φ) (h_treads : Blind.treads φ) (t : Nat) (rd ra rb : BitVec 5) (s : State) (t' : State)
    (h : execSltu t rd ra rb s = .next t') : φ t' = φ s := by
  unfold execSltu at h
  refine alu_frame h_pending h_out h_treads _ _ _ _ _ _ h

theorem execMin_frame (h_pending : Blind.pending φ) (h_out : Blind.out φ) (h_treads : Blind.treads φ) (t : Nat) (rd ra rb : BitVec 5) (s : State) (t' : State)
    (h : execMin t rd ra rb s = .next t') : φ t' = φ s := by
  unfold execMin at h
  refine alu_frame h_pending h_out h_treads _ _ _ _ _ _ h

theorem execMax_frame (h_pending : Blind.pending φ) (h_out : Blind.out φ) (h_treads : Blind.treads φ) (t : Nat) (rd ra rb : BitVec 5) (s : State) (t' : State)
    (h : execMax t rd ra rb s = .next t') : φ t' = φ s := by
  unfold execMax at h
  refine alu_frame h_pending h_out h_treads _ _ _ _ _ _ h

theorem execMinu_frame (h_pending : Blind.pending φ) (h_out : Blind.out φ) (h_treads : Blind.treads φ) (t : Nat) (rd ra rb : BitVec 5) (s : State) (t' : State)
    (h : execMinu t rd ra rb s = .next t') : φ t' = φ s := by
  unfold execMinu at h
  refine alu_frame h_pending h_out h_treads _ _ _ _ _ _ h

theorem execMaxu_frame (h_pending : Blind.pending φ) (h_out : Blind.out φ) (h_treads : Blind.treads φ) (t : Nat) (rd ra rb : BitVec 5) (s : State) (t' : State)
    (h : execMaxu t rd ra rb s = .next t') : φ t' = φ s := by
  unfold execMaxu at h
  refine alu_frame h_pending h_out h_treads _ _ _ _ _ _ h

theorem execMul_frame (h_pending : Blind.pending φ) (h_out : Blind.out φ) (h_treads : Blind.treads φ) (t : Nat) (rd ra rb : BitVec 5) (s : State) (t' : State)
    (h : execMul t rd ra rb s = .next t') : φ t' = φ s := by
  unfold execMul at h
  refine alu_frame h_pending h_out h_treads _ _ _ _ _ _ h

theorem execMulh_frame (h_pending : Blind.pending φ) (h_out : Blind.out φ) (h_treads : Blind.treads φ) (t : Nat) (rd ra rb : BitVec 5) (s : State) (t' : State)
    (h : execMulh t rd ra rb s = .next t') : φ t' = φ s := by
  unfold execMulh at h
  refine alu_frame h_pending h_out h_treads _ _ _ _ _ _ h

theorem execMulhu_frame (h_pending : Blind.pending φ) (h_out : Blind.out φ) (h_treads : Blind.treads φ) (t : Nat) (rd ra rb : BitVec 5) (s : State) (t' : State)
    (h : execMulhu t rd ra rb s = .next t') : φ t' = φ s := by
  unfold execMulhu at h
  refine alu_frame h_pending h_out h_treads _ _ _ _ _ _ h

theorem execClz_frame (h_pending : Blind.pending φ) (h_out : Blind.out φ) (h_treads : Blind.treads φ) (t : Nat) (rd ra : BitVec 5) (s : State) (t' : State)
    (h : execClz t rd ra s = .next t') : φ t' = φ s := by
  unfold execClz at h
  refine alu_frame h_pending h_out h_treads _ _ _ _ _ _ h

theorem execPopc_frame (h_pending : Blind.pending φ) (h_out : Blind.out φ) (h_treads : Blind.treads φ) (t : Nat) (rd ra : BitVec 5) (s : State) (t' : State)
    (h : execPopc t rd ra s = .next t') : φ t' = φ s := by
  unfold execPopc at h
  refine alu_frame h_pending h_out h_treads _ _ _ _ _ _ h

theorem execAddi_frame (h_pending : Blind.pending φ) (h_out : Blind.out φ) (h_treads : Blind.treads φ) (t : Nat) (rd ra : BitVec 5) (imm : BitVec 16) (s : State) (t' : State)
    (h : execAddi t rd ra imm s = .next t') : φ t' = φ s := by
  unfold execAddi at h
  refine alu_frame h_pending h_out h_treads _ _ _ _ _ _ h

theorem execAndi_frame (h_pending : Blind.pending φ) (h_out : Blind.out φ) (h_treads : Blind.treads φ) (t : Nat) (rd ra : BitVec 5) (imm : BitVec 16) (s : State) (t' : State)
    (h : execAndi t rd ra imm s = .next t') : φ t' = φ s := by
  unfold execAndi at h
  refine alu_frame h_pending h_out h_treads _ _ _ _ _ _ h

theorem execOri_frame (h_pending : Blind.pending φ) (h_out : Blind.out φ) (h_treads : Blind.treads φ) (t : Nat) (rd ra : BitVec 5) (imm : BitVec 16) (s : State) (t' : State)
    (h : execOri t rd ra imm s = .next t') : φ t' = φ s := by
  unfold execOri at h
  refine alu_frame h_pending h_out h_treads _ _ _ _ _ _ h

theorem execXori_frame (h_pending : Blind.pending φ) (h_out : Blind.out φ) (h_treads : Blind.treads φ) (t : Nat) (rd ra : BitVec 5) (imm : BitVec 16) (s : State) (t' : State)
    (h : execXori t rd ra imm s = .next t') : φ t' = φ s := by
  unfold execXori at h
  refine alu_frame h_pending h_out h_treads _ _ _ _ _ _ h

theorem execSlti_frame (h_pending : Blind.pending φ) (h_out : Blind.out φ) (h_treads : Blind.treads φ) (t : Nat) (rd ra : BitVec 5) (imm : BitVec 16) (s : State) (t' : State)
    (h : execSlti t rd ra imm s = .next t') : φ t' = φ s := by
  unfold execSlti at h
  refine alu_frame h_pending h_out h_treads _ _ _ _ _ _ h

theorem execSlli_frame (h_pending : Blind.pending φ) (h_out : Blind.out φ) (h_treads : Blind.treads φ) (t : Nat) (rd ra sh : BitVec 5) (s : State) (t' : State)
    (h : execSlli t rd ra sh s = .next t') : φ t' = φ s := by
  unfold execSlli at h
  refine alu_frame h_pending h_out h_treads _ _ _ _ _ _ h

theorem execSrli_frame (h_pending : Blind.pending φ) (h_out : Blind.out φ) (h_treads : Blind.treads φ) (t : Nat) (rd ra sh : BitVec 5) (s : State) (t' : State)
    (h : execSrli t rd ra sh s = .next t') : φ t' = φ s := by
  unfold execSrli at h
  refine alu_frame h_pending h_out h_treads _ _ _ _ _ _ h

theorem execSrai_frame (h_pending : Blind.pending φ) (h_out : Blind.out φ) (h_treads : Blind.treads φ) (t : Nat) (rd ra sh : BitVec 5) (s : State) (t' : State)
    (h : execSrai t rd ra sh s = .next t') : φ t' = φ s := by
  unfold execSrai at h
  refine alu_frame h_pending h_out h_treads _ _ _ _ _ _ h

theorem execLui_frame (h_pending : Blind.pending φ) (h_out : Blind.out φ) (h_treads : Blind.treads φ) (t : Nat) (rd : BitVec 5) (imm : BitVec 21) (s : State) (t' : State)
    (h : execLui t rd imm s = .next t') : φ t' = φ s := by
  unfold execLui at h
  refine alu_frame h_pending h_out h_treads _ _ _ _ _ _ h

end Sys2Proof.Laws
end

