-- ==== Sys2Proof/Laws/TreadSpecialKeep.lean ====
section
/-!
SUPPORT. Frames of the commands of Sys2Proof/Machine/TreadSpecial.lean: what a command does not write stays as it was.
-/
namespace Sys2Proof.Laws
open Machine Machine.State

set_option linter.unusedSimpArgs false
set_option linter.unusedTactic false
set_option linter.unreachableTactic false
set_option linter.unusedVariables false

variable {α : Type} {φ : State → α}

theorem execAccrd_frame (h_regs : Blind.regs φ) (h_seq : Blind.seq φ) (h_pending : Blind.pending φ) (h_out : Blind.out φ) (h_rigs : Blind.rigs φ) (h_treads : Blind.treads φ) (h_ropes : Blind.ropes φ) (h_rings : Blind.rings φ) (h_svcs : Blind.svcs φ) (h_det : Blind.det φ) (t : Nat) (vd : BitVec 3) (bank : BitVec 1) (row : BitVec 3) (s : State) (t' : State)
    (h : execAccrd t vd bank row s = .next t') : φ t' = φ s := by
  unfold execAccrd at h
  refine perform_frame h_out h_pending h (fun s => ?_)
  repeat' first
    | simp only [runTread_frame h_treads]
    | with_reducible refine Eq.trans (foldl_frame (fun _ _ => ?_) _ _) ?_
    | refine Eq.trans (withBank_frame h_regs h_seq h_out h_rigs h_treads h_ropes h_rings h_svcs h_det _ _ _ _ (fun _ _ _ _ _ => ?_)) ?_
    | split
    | dsimp only
    | with_reducible rfl

theorem execAccclr_frame (h_regs : Blind.regs φ) (h_seq : Blind.seq φ) (h_pending : Blind.pending φ) (h_out : Blind.out φ) (h_rigs : Blind.rigs φ) (h_treads : Blind.treads φ) (h_flights : Blind.flights φ) (h_ropes : Blind.ropes φ) (h_rings : Blind.rings φ) (h_svcs : Blind.svcs φ) (h_det : Blind.det φ) (t : Nat) (bank : BitVec 1) (s : State) (t' : State)
    (h : execAccclr t bank s = .next t') : φ t' = φ s := by
  unfold execAccclr at h
  refine perform_frame h_out h_pending h (fun s => ?_)
  repeat' first
    | simp only [runTread_frame h_treads, setArray_frame h_flights]
    | refine Eq.trans (withBank_frame h_regs h_seq h_out h_rigs h_treads h_ropes h_rings h_svcs h_det _ _ _ _ (fun _ _ _ _ _ => ?_)) ?_
    | split
    | dsimp only
    | with_reducible rfl

theorem execAccrel_frame (h_regs : Blind.regs φ) (h_seq : Blind.seq φ) (h_pending : Blind.pending φ) (h_out : Blind.out φ) (h_rigs : Blind.rigs φ) (h_treads : Blind.treads φ) (h_flights : Blind.flights φ) (h_ropes : Blind.ropes φ) (h_rings : Blind.rings φ) (h_svcs : Blind.svcs φ) (h_det : Blind.det φ) (t : Nat) (bank : BitVec 1) (s : State) (t' : State)
    (h : execAccrel t bank s = .next t') : φ t' = φ s := by
  unfold execAccrel at h
  refine perform_frame h_out h_pending h (fun s => ?_)
  repeat' first
    | simp only [runTread_frame h_treads, setArray_frame h_flights]
    | refine Eq.trans (withBank_frame h_regs h_seq h_out h_rigs h_treads h_ropes h_rings h_svcs h_det _ _ _ _ (fun _ _ _ _ _ => ?_)) ?_
    | split
    | dsimp only
    | with_reducible rfl

theorem execNop_frame (h_pending : Blind.pending φ) (h_out : Blind.out φ) (h_treads : Blind.treads φ) (t : Nat) (s : State) (t' : State)
    (h : execNop t s = .next t') : φ t' = φ s := by
  unfold execNop at h
  refine perform_frame h_out h_pending h (fun s => ?_)
  repeat' first
    | simp only [runTread_frame h_treads]
    | split
    | dsimp only
    | with_reducible rfl

theorem execHalt_frame (h_pending : Blind.pending φ) (h_out : Blind.out φ) (h_treads : Blind.treads φ) (t : Nat) (s : State) (t' : State)
    (h : execHalt t s = .next t') : φ t' = φ s := by
  unfold execHalt at h
  refine perform_frame h_out h_pending h (fun s => ?_)
  repeat' first
    | simp only [setTread_frame h_treads]
    | refine Eq.trans (whenRun_frame _ _ _ (fun _ => ?_)) ?_
    | split
    | dsimp only
    | with_reducible rfl

theorem execFence_frame (h_pending : Blind.pending φ) (h_out : Blind.out φ) (h_treads : Blind.treads φ) (t : Nat) (s : State) (t' : State)
    (h : execFence t s = .next t') : φ t' = φ s := by
  unfold execFence at h
  refine perform_frame h_out h_pending h (fun s => ?_)
  repeat' first
    | simp only [runTread_frame h_treads]
    | split
    | dsimp only
    | with_reducible rfl

theorem execRdsr_frame (h_regs : Blind.regs φ) (h_seq : Blind.seq φ) (h_pending : Blind.pending φ) (h_out : Blind.out φ) (h_rigs : Blind.rigs φ) (h_treads : Blind.treads φ) (h_ropes : Blind.ropes φ) (h_rings : Blind.rings φ) (h_svcs : Blind.svcs φ) (h_det : Blind.det φ) (t : Nat) (rd : BitVec 5) (sr : BitVec 8) (s : State) (t' : State)
    (h : execRdsr t rd sr s = .next t') : φ t' = φ s := by
  unfold execRdsr at h
  refine perform_frame h_out h_pending h (fun s => ?_)
  repeat' first
    | simp only [runTread_frame h_treads, trapTread_frame h_regs h_seq h_out h_rigs h_treads h_ropes h_rings h_svcs h_det]
    | refine Eq.trans (whenRun_frame _ _ _ (fun _ => ?_)) ?_
    | split
    | dsimp only
    | with_reducible rfl

theorem execWrsr_frame (h_regs : Blind.regs φ) (h_seq : Blind.seq φ) (h_pending : Blind.pending φ) (h_out : Blind.out φ) (h_rigs : Blind.rigs φ) (h_treads : Blind.treads φ) (h_ropes : Blind.ropes φ) (h_rings : Blind.rings φ) (h_svcs : Blind.svcs φ) (h_det : Blind.det φ) (t : Nat) (ra : BitVec 5) (sr : BitVec 8) (s : State) (t' : State)
    (h : execWrsr t ra sr s = .next t') : φ t' = φ s := by
  unfold execWrsr at h
  refine perform_frame h_out h_pending h (fun s => ?_)
  repeat' first
    | simp only [runTread_frame h_treads, trapTread_frame h_regs h_seq h_out h_rigs h_treads h_ropes h_rings h_svcs h_det]
    | refine Eq.trans (whenRun_frame _ _ _ (fun _ => ?_)) ?_
    | split
    | dsimp only
    | with_reducible rfl

theorem execBrk_frame (h_pending : Blind.pending φ) (h_out : Blind.out φ) (h_treads : Blind.treads φ) (t : Nat) (s : State) (t' : State)
    (h : execBrk t s = .next t') : φ t' = φ s := by
  unfold execBrk at h
  refine perform_frame h_out h_pending h (fun s => ?_)
  repeat' first
    | simp only [runTread_frame h_treads, setTread_frame h_treads]
    | refine Eq.trans (whenRun_frame _ _ _ (fun _ => ?_)) ?_
    | split
    | dsimp only
    | with_reducible rfl

theorem execTrap_frame (h_regs : Blind.regs φ) (h_seq : Blind.seq φ) (h_pending : Blind.pending φ) (h_out : Blind.out φ) (h_rigs : Blind.rigs φ) (h_treads : Blind.treads φ) (h_ropes : Blind.ropes φ) (h_rings : Blind.rings φ) (h_svcs : Blind.svcs φ) (h_det : Blind.det φ) (t : Nat) (s : State) (t' : State)
    (h : execTrap t s = .next t') : φ t' = φ s := by
  unfold execTrap at h
  refine perform_frame h_out h_pending h (fun s => ?_)
  repeat' first
    | simp only [trapTread_frame h_regs h_seq h_out h_rigs h_treads h_ropes h_rings h_svcs h_det]
    | refine Eq.trans (whenRun_frame _ _ _ (fun _ => ?_)) ?_
    | split
    | dsimp only
    | with_reducible rfl

theorem execIllegalInstruction_frame (h_regs : Blind.regs φ) (h_seq : Blind.seq φ) (h_pending : Blind.pending φ) (h_out : Blind.out φ) (h_rigs : Blind.rigs φ) (h_treads : Blind.treads φ) (h_ropes : Blind.ropes φ) (h_rings : Blind.rings φ) (h_svcs : Blind.svcs φ) (h_det : Blind.det φ) (t : Nat) (word : BitVec 32) (s : State) (t' : State)
    (h : execIllegalInstruction t word s = .next t') : φ t' = φ s := by
  unfold execIllegalInstruction at h
  refine perform_frame h_out h_pending h (fun s => ?_)
  repeat' first
    | simp only [trapTread_frame h_regs h_seq h_out h_rigs h_treads h_ropes h_rings h_svcs h_det]
    | refine Eq.trans (whenRun_frame _ _ _ (fun _ => ?_)) ?_
    | split
    | dsimp only
    | with_reducible rfl

end Sys2Proof.Laws
end

