-- ==== Sys2Proof/Laws/VectorOpsFrame.lean ====
section
/-!
SUPPORT. Frames of the operations of Sys2Proof/Machine/VectorOps.lean: what none of them writes stays as it was.
-/
namespace Sys2Proof.Laws
open Machine Machine.State

set_option linter.unusedSimpArgs false
set_option linter.unusedTactic false
set_option linter.unreachableTactic false
set_option linter.unusedVariables false

variable {α : Type} {φ : State → α}

theorem vfloat_frame (h_pending : Blind.pending φ) (h_out : Blind.out φ) (h_treads : Blind.treads φ) (t n : Nat) (w : Bool) (vd : BitVec 3) (f : Tread → Nat → FR) (s : State) (t' : State)
    (h : vfloat t n w vd f s = .next t') : φ t' = φ s := by
  unfold vfloat at h
  refine perform_frame h_out h_pending h (fun s => ?_)
  repeat' first
    | simp only [runTread_frame h_treads]
    | split
    | dsimp only
    | with_reducible rfl

theorem vbits_frame (h_pending : Blind.pending φ) (h_out : Blind.out φ) (h_treads : Blind.treads φ) (t : Nat) (w : Bool) (vd : BitVec 3) (f : Tread → Nat → Nat) (s : State) (t' : State)
    (h : vbits t w vd f s = .next t') : φ t' = φ s := by
  unfold vbits at h
  refine perform_frame h_out h_pending h (fun s => ?_)
  repeat' first
    | simp only [runTread_frame h_treads]
    | split
    | dsimp only
    | with_reducible rfl

end Sys2Proof.Laws
end

