-- ==== Sys2Proof/Laws/TreadVectorKeep.lean ====
section
/-!
SUPPORT. Frames of the commands of Sys2Proof/Machine/TreadVector.lean: what a command does not write stays as it was.
-/
namespace Sys2Proof.Laws
open Machine Machine.State

set_option linter.unusedSimpArgs false
set_option linter.unusedTactic false
set_option linter.unreachableTactic false
set_option linter.unusedVariables false

variable {α : Type} {φ : State → α}

theorem execVadd_frame (h_pending : Blind.pending φ) (h_out : Blind.out φ) (h_treads : Blind.treads φ) (t : Nat) (vd va vb : BitVec 3) (w : Bool) (s : State) (t' : State)
    (h : execVadd t vd va vb w s = .next t') : φ t' = φ s := by
  unfold execVadd at h
  refine vfloat_frame h_pending h_out h_treads _ _ _ _ _ _ _ h

theorem execVsub_frame (h_pending : Blind.pending φ) (h_out : Blind.out φ) (h_treads : Blind.treads φ) (t : Nat) (vd va vb : BitVec 3) (w : Bool) (s : State) (t' : State)
    (h : execVsub t vd va vb w s = .next t') : φ t' = φ s := by
  unfold execVsub at h
  refine vfloat_frame h_pending h_out h_treads _ _ _ _ _ _ _ h

theorem execVmul_frame (h_pending : Blind.pending φ) (h_out : Blind.out φ) (h_treads : Blind.treads φ) (t : Nat) (vd va vb : BitVec 3) (w : Bool) (s : State) (t' : State)
    (h : execVmul t vd va vb w s = .next t') : φ t' = φ s := by
  unfold execVmul at h
  refine vfloat_frame h_pending h_out h_treads _ _ _ _ _ _ _ h

theorem execVmin_frame (h_pending : Blind.pending φ) (h_out : Blind.out φ) (h_treads : Blind.treads φ) (t : Nat) (vd va vb : BitVec 3) (w : Bool) (s : State) (t' : State)
    (h : execVmin t vd va vb w s = .next t') : φ t' = φ s := by
  unfold execVmin at h
  refine vfloat_frame h_pending h_out h_treads _ _ _ _ _ _ _ h

theorem execVmax_frame (h_pending : Blind.pending φ) (h_out : Blind.out φ) (h_treads : Blind.treads φ) (t : Nat) (vd va vb : BitVec 3) (w : Bool) (s : State) (t' : State)
    (h : execVmax t vd va vb w s = .next t') : φ t' = φ s := by
  unfold execVmax at h
  refine vfloat_frame h_pending h_out h_treads _ _ _ _ _ _ _ h

theorem execVfma_frame (h_pending : Blind.pending φ) (h_out : Blind.out φ) (h_treads : Blind.treads φ) (t : Nat) (vd va vb vc : BitVec 3) (w : Bool) (s : State) (t' : State)
    (h : execVfma t vd va vb vc w s = .next t') : φ t' = φ s := by
  unfold execVfma at h
  refine vfloat_frame h_pending h_out h_treads _ _ _ _ _ _ _ h

theorem execVabs_frame (h_pending : Blind.pending φ) (h_out : Blind.out φ) (h_treads : Blind.treads φ) (t : Nat) (vd va : BitVec 3) (w : Bool) (s : State) (t' : State)
    (h : execVabs t vd va w s = .next t') : φ t' = φ s := by
  unfold execVabs at h
  refine vfloat_frame h_pending h_out h_treads _ _ _ _ _ _ _ h

theorem execVneg_frame (h_pending : Blind.pending φ) (h_out : Blind.out φ) (h_treads : Blind.treads φ) (t : Nat) (vd va : BitVec 3) (w : Bool) (s : State) (t' : State)
    (h : execVneg t vd va w s = .next t') : φ t' = φ s := by
  unfold execVneg at h
  refine vfloat_frame h_pending h_out h_treads _ _ _ _ _ _ _ h

theorem execVrcp_frame (h_pending : Blind.pending φ) (h_out : Blind.out φ) (h_treads : Blind.treads φ) (t : Nat) (vd va : BitVec 3) (w : Bool) (s : State) (t' : State)
    (h : execVrcp t vd va w s = .next t') : φ t' = φ s := by
  unfold execVrcp at h
  refine vfloat_frame h_pending h_out h_treads _ _ _ _ _ _ _ h

theorem execVrsqrt_frame (h_pending : Blind.pending φ) (h_out : Blind.out φ) (h_treads : Blind.treads φ) (t : Nat) (vd va : BitVec 3) (w : Bool) (s : State) (t' : State)
    (h : execVrsqrt t vd va w s = .next t') : φ t' = φ s := by
  unfold execVrsqrt at h
  refine vfloat_frame h_pending h_out h_treads _ _ _ _ _ _ _ h

theorem execVcmplt_frame (h_pending : Blind.pending φ) (h_out : Blind.out φ) (h_treads : Blind.treads φ) (t : Nat) (vd va vb : BitVec 3) (w : Bool) (s : State) (t' : State)
    (h : execVcmplt t vd va vb w s = .next t') : φ t' = φ s := by
  unfold execVcmplt at h
  refine perform_frame h_out h_pending h (fun s => ?_)
  repeat' first
    | simp only [runTread_frame h_treads]
    | with_reducible refine Eq.trans (foldl_frame (fun _ _ => ?_) _ _) ?_
    | split
    | dsimp only
    | with_reducible rfl

theorem execVcmpeq_frame (h_pending : Blind.pending φ) (h_out : Blind.out φ) (h_treads : Blind.treads φ) (t : Nat) (vd va vb : BitVec 3) (w : Bool) (s : State) (t' : State)
    (h : execVcmpeq t vd va vb w s = .next t') : φ t' = φ s := by
  unfold execVcmpeq at h
  refine perform_frame h_out h_pending h (fun s => ?_)
  repeat' first
    | simp only [runTread_frame h_treads]
    | with_reducible refine Eq.trans (foldl_frame (fun _ _ => ?_) _ _) ?_
    | split
    | dsimp only
    | with_reducible rfl

theorem execVsel_frame (h_pending : Blind.pending φ) (h_out : Blind.out φ) (h_treads : Blind.treads φ) (t : Nat) (vd va vb vc : BitVec 3) (w : Bool) (s : State) (t' : State)
    (h : execVsel t vd va vb vc w s = .next t') : φ t' = φ s := by
  unfold execVsel at h
  refine vbits_frame h_pending h_out h_treads _ _ _ _ _ _ h

theorem execVred_frame (h_pending : Blind.pending φ) (h_out : Blind.out φ) (h_treads : Blind.treads φ) (t : Nat) (vd va : BitVec 3) (w : Bool) (s : State) (t' : State)
    (h : execVred t vd va w s = .next t') : φ t' = φ s := by
  unfold execVred at h
  refine perform_frame h_out h_pending h (fun s => ?_)
  repeat' first
    | simp only [runTread_frame h_treads]
    | split
    | dsimp only
    | with_reducible rfl

theorem execVsplat_frame (h_pending : Blind.pending φ) (h_out : Blind.out φ) (h_treads : Blind.treads φ) (t : Nat) (vd : BitVec 3) (rs : BitVec 5) (s : State) (t' : State)
    (h : execVsplat t vd rs s = .next t') : φ t' = φ s := by
  unfold execVsplat at h
  refine vbits_frame h_pending h_out h_treads _ _ _ _ _ _ h

theorem execVext_frame (h_pending : Blind.pending φ) (h_out : Blind.out φ) (h_treads : Blind.treads φ) (t : Nat) (rs : BitVec 5) (va vc : BitVec 3) (s : State) (t' : State)
    (h : execVext t rs va vc s = .next t') : φ t' = φ s := by
  unfold execVext at h
  refine perform_frame h_out h_pending h (fun s => ?_)
  repeat' first
    | simp only [runTread_frame h_treads]
    | split
    | dsimp only
    | with_reducible rfl

theorem execVins_frame (h_pending : Blind.pending φ) (h_out : Blind.out φ) (h_treads : Blind.treads φ) (t : Nat) (vd vc : BitVec 3) (rs : BitVec 5) (s : State) (t' : State)
    (h : execVins t vd vc rs s = .next t') : φ t' = φ s := by
  unfold execVins at h
  refine vbits_frame h_pending h_out h_treads _ _ _ _ _ _ h

theorem execViadd_frame (h_pending : Blind.pending φ) (h_out : Blind.out φ) (h_treads : Blind.treads φ) (t : Nat) (vd va vb : BitVec 3) (s : State) (t' : State)
    (h : execViadd t vd va vb s = .next t') : φ t' = φ s := by
  unfold execViadd at h
  refine vbits_frame h_pending h_out h_treads _ _ _ _ _ _ h

theorem execVand_frame (h_pending : Blind.pending φ) (h_out : Blind.out φ) (h_treads : Blind.treads φ) (t : Nat) (vd va vb : BitVec 3) (s : State) (t' : State)
    (h : execVand t vd va vb s = .next t') : φ t' = φ s := by
  unfold execVand at h
  refine vbits_frame h_pending h_out h_treads _ _ _ _ _ _ h

theorem execVor_frame (h_pending : Blind.pending φ) (h_out : Blind.out φ) (h_treads : Blind.treads φ) (t : Nat) (vd va vb : BitVec 3) (s : State) (t' : State)
    (h : execVor t vd va vb s = .next t') : φ t' = φ s := by
  unfold execVor at h
  refine vbits_frame h_pending h_out h_treads _ _ _ _ _ _ h

theorem execVxor_frame (h_pending : Blind.pending φ) (h_out : Blind.out φ) (h_treads : Blind.treads φ) (t : Nat) (vd va vb : BitVec 3) (s : State) (t' : State)
    (h : execVxor t vd va vb s = .next t') : φ t' = φ s := by
  unfold execVxor at h
  refine vbits_frame h_pending h_out h_treads _ _ _ _ _ _ h

theorem execVcvt_frame (h_regs : Blind.regs φ) (h_seq : Blind.seq φ) (h_pending : Blind.pending φ) (h_out : Blind.out φ) (h_rigs : Blind.rigs φ) (h_treads : Blind.treads φ) (h_ropes : Blind.ropes φ) (h_rings : Blind.rings φ) (h_svcs : Blind.svcs φ) (h_det : Blind.det φ) (t : Nat) (vd va kind rnd : BitVec 3) (s : State) (t' : State)
    (h : execVcvt t vd va kind rnd s = .next t') : φ t' = φ s := by
  unfold execVcvt at h
  refine perform_frame h_out h_pending h (fun s => ?_)
  repeat' first
    | simp only [runTread_frame h_treads, trapTread_frame h_regs h_seq h_out h_rigs h_treads h_ropes h_rings h_svcs h_det]
    | refine Eq.trans (whenRun_frame _ _ _ (fun _ => ?_)) ?_
    | split
    | dsimp only
    | with_reducible rfl

end Sys2Proof.Laws
end

