-- ==== Sys2Proof/Laws/UcOpsKeep.lean ====
section
/-!
SUPPORT. Frames of the commands of Sys2Proof/Machine/UcOps.lean: what a command does not write stays as it was.
-/
namespace Sys2Proof.Laws
open Machine Machine.State

set_option linter.unusedSimpArgs false
set_option linter.unusedTactic false
set_option linter.unreachableTactic false
set_option linter.unusedVariables false

variable {α : Type} {φ : State → α}

theorem execUcQuotaWrite_frame (h_regs : Blind.regs φ) (h_pending : Blind.pending φ) (h_out : Blind.out φ) (who : Who) (u p : Nat) (value : W32) (s : State) (t' : State)
    (h : execUcQuotaWrite who u p value s = .next t') : φ t' = φ s := by
  unfold execUcQuotaWrite at h
  refine perform_frame h_out h_pending h (fun s => ?_)
  repeat' first
    | simp only [setUcQuota_frame h_regs]
    | refine Eq.trans (whenUp_frame (fun _ => ?_) _) ?_
    | split
    | dsimp only
    | with_reducible rfl

theorem execUcGatherPush_frame (h_regs : Blind.regs φ) (h_seq : Blind.seq φ) (h_pending : Blind.pending φ) (h_out : Blind.out φ) (h_ucs : Blind.ucs φ) (h_rings : Blind.rings φ) (h_det : Blind.det φ) (who : Who) (u w : Nat) (value : W32) (s : State) (t' : State)
    (h : execUcGatherPush who u w value s = .next t') : φ t' = φ s := by
  unfold execUcGatherPush at h
  refine perform_frame h_out h_pending h (fun s => ?_)
  repeat' first
    | simp only [ucWindow_frame h_regs h_seq h_ucs h_rings h_det]
    | split
    | dsimp only
    | with_reducible rfl

theorem execUcConvPush_frame (h_regs : Blind.regs φ) (h_seq : Blind.seq φ) (h_pending : Blind.pending φ) (h_out : Blind.out φ) (h_ucs : Blind.ucs φ) (h_rings : Blind.rings φ) (h_det : Blind.det φ) (who : Who) (u w : Nat) (value : W32) (s : State) (t' : State)
    (h : execUcConvPush who u w value s = .next t') : φ t' = φ s := by
  unfold execUcConvPush at h
  refine perform_frame h_out h_pending h (fun s => ?_)
  repeat' first
    | simp only [ucWindow_frame h_regs h_seq h_ucs h_rings h_det]
    | split
    | dsimp only
    | with_reducible rfl

end Sys2Proof.Laws
end

