-- ==== Sys2Proof/Laws/UndercroftKeep.lean ====
section
/-!
SUPPORT. Frames of the commands of Sys2Proof/Machine/Undercroft.lean: what a command does not write stays as it was.
-/
namespace Sys2Proof.Laws
open Machine Machine.State

set_option linter.unusedSimpArgs false
set_option linter.unusedTactic false
set_option linter.unreachableTactic false
set_option linter.unusedVariables false

variable {α : Type} {φ : State → α}

theorem execGatherDescriptor_frame (h_regs : Blind.regs φ) (h_seq : Blind.seq φ) (h_pending : Blind.pending φ) (h_out : Blind.out φ) (h_hiLatch : Blind.hiLatch φ) (h_commitLatch : Blind.commitLatch φ) (h_rigs : Blind.rigs φ) (h_treads : Blind.treads φ) (h_chans : Blind.chans φ) (h_flights : Blind.flights φ) (h_stages : Blind.stages φ) (h_ctxs : Blind.ctxs φ) (h_landings : Blind.landings φ) (h_mem : Blind.mem φ) (h_memCheck : Blind.memCheck φ) (h_memEpoch : Blind.memEpoch φ) (h_memKey : Blind.memKey φ) (h_ucs : Blind.ucs φ) (h_gathers : Blind.gathers φ) (h_ropes : Blind.ropes φ) (h_fabric : Blind.fabric φ) (h_rings : Blind.rings φ) (h_svcs : Blind.svcs φ) (h_journal : Blind.journal φ) (h_sec : Blind.sec φ) (h_det : Blind.det φ) (u : Nat) (bad : List (Nat × Nat)) (far : List (Nat × List Byte)) (farOut : Nat) (s : State) (t' : State)
    (h : execGatherDescriptor u bad far farOut s = .next t') : φ t' = φ s := by
  unfold execGatherDescriptor at h
  refine perform_frame h_out h_pending h (fun s => ?_)
  repeat' first
    | simp only [checkLine_frame h_regs h_seq h_out h_rigs h_memCheck h_ucs h_ropes h_rings h_svcs h_journal h_sec h_det, runGather_frame h_regs h_seq h_out h_hiLatch h_commitLatch h_rigs h_treads h_chans h_flights h_stages h_ctxs h_landings h_mem h_memCheck h_memEpoch h_memKey h_ucs h_gathers h_ropes h_fabric h_rings h_svcs h_journal h_sec h_det, ucFail_frame h_regs h_seq h_out h_rigs h_ucs h_ropes h_rings h_svcs h_det, ucStop_frame h_regs h_seq h_out h_rigs h_ropes h_rings h_svcs h_det]
    | split
    | refine Eq.trans (checkLine_frame_of h_regs h_seq h_out h_rigs h_memCheck h_ucs h_ropes h_rings h_svcs h_journal h_sec h_det ‹_›) ?_
    | dsimp only
    | with_reducible rfl

theorem execGatherLandingPush_frame (h_regs : Blind.regs φ) (h_pending : Blind.pending φ) (h_out : Blind.out φ) (h_ctxs : Blind.ctxs φ) (h_landings : Blind.landings φ) (h_ucs : Blind.ucs φ) (u : Nat) (s : State) (t' : State)
    (h : execGatherLandingPush u s = .next t') : φ t' = φ s := by
  unfold execGatherLandingPush at h
  refine perform_frame h_out h_pending h (fun s => ?_)
  repeat' first
    | simp only [pushEntry_frame h_regs h_ctxs h_landings, setUc_frame h_ucs]
    | split
    | dsimp only
    | with_reducible rfl

theorem execConverterDescriptor_frame (h_regs : Blind.regs φ) (h_seq : Blind.seq φ) (h_pending : Blind.pending φ) (h_out : Blind.out φ) (h_hiLatch : Blind.hiLatch φ) (h_commitLatch : Blind.commitLatch φ) (h_rigs : Blind.rigs φ) (h_treads : Blind.treads φ) (h_chans : Blind.chans φ) (h_flights : Blind.flights φ) (h_stages : Blind.stages φ) (h_ctxs : Blind.ctxs φ) (h_landings : Blind.landings φ) (h_mem : Blind.mem φ) (h_memCheck : Blind.memCheck φ) (h_memEpoch : Blind.memEpoch φ) (h_memKey : Blind.memKey φ) (h_ucs : Blind.ucs φ) (h_ropes : Blind.ropes φ) (h_fabric : Blind.fabric φ) (h_rings : Blind.rings φ) (h_svcs : Blind.svcs φ) (h_journal : Blind.journal φ) (h_sec : Blind.sec φ) (h_det : Blind.det φ) (u : Nat) (bad : List (Nat × Nat)) (far : List (Nat × List Byte)) (farOut : Nat) (s : State) (t' : State)
    (h : execConverterDescriptor u bad far farOut s = .next t') : φ t' = φ s := by
  unfold execConverterDescriptor at h
  refine perform_frame h_out h_pending h (fun s => ?_)
  repeat' first
    | simp only [runConvert_frame h_regs h_seq h_out h_hiLatch h_commitLatch h_rigs h_treads h_chans h_flights h_stages h_ctxs h_landings h_mem h_memCheck h_memEpoch h_memKey h_ucs h_ropes h_fabric h_rings h_svcs h_journal h_sec h_det, ucStop_frame h_regs h_seq h_out h_rigs h_ropes h_rings h_svcs h_det]
    | split
    | dsimp only
    | with_reducible rfl

theorem execSparsePass1_frame (h_regs : Blind.regs φ) (h_seq : Blind.seq φ) (h_pending : Blind.pending φ) (h_out : Blind.out φ) (h_rigs : Blind.rigs φ) (h_mem : Blind.mem φ) (h_memCheck : Blind.memCheck φ) (h_memEpoch : Blind.memEpoch φ) (h_memKey : Blind.memKey φ) (h_ucs : Blind.ucs φ) (h_sparse : Blind.sparse φ) (h_ropes : Blind.ropes φ) (h_rings : Blind.rings φ) (h_svcs : Blind.svcs φ) (h_journal : Blind.journal φ) (h_sec : Blind.sec φ) (h_det : Blind.det φ) (p table : Nat) (bad : List (Nat × Nat)) (s : State) (t' : State)
    (h : execSparsePass1 p table bad s = .next t') : φ t' = φ s := by
  unfold execSparsePass1 at h
  refine perform_frame h_out h_pending h (fun s => ?_)
  repeat' first
    | simp only [checkLines_frame h_regs h_seq h_out h_rigs h_memCheck h_ucs h_ropes h_rings h_svcs h_journal h_sec h_det, sparseCounts_frame h_regs h_seq h_out h_rigs h_mem h_memCheck h_memEpoch h_memKey h_ucs h_sparse h_ropes h_rings h_svcs h_journal h_sec h_det, sparseError_frame h_regs h_seq h_out h_rigs h_sparse h_ropes h_rings h_svcs h_det, ucHold_frame h_regs h_ucs]
    | split
    | refine Eq.trans (checkLines_frame_of h_regs h_seq h_out h_rigs h_memCheck h_ucs h_ropes h_rings h_svcs h_journal h_sec h_det ‹_›) ?_
    | dsimp only
    | with_reducible rfl

theorem execSparsePass2_frame (h_regs : Blind.regs φ) (h_seq : Blind.seq φ) (h_pending : Blind.pending φ) (h_out : Blind.out φ) (h_rigs : Blind.rigs φ) (h_parts : Blind.parts φ) (h_mem : Blind.mem φ) (h_memCheck : Blind.memCheck φ) (h_memEpoch : Blind.memEpoch φ) (h_memKey : Blind.memKey φ) (h_ucs : Blind.ucs φ) (h_sparse : Blind.sparse φ) (h_ropes : Blind.ropes φ) (h_rings : Blind.rings φ) (h_svcs : Blind.svcs φ) (h_journal : Blind.journal φ) (h_sec : Blind.sec φ) (h_det : Blind.det φ) (u p table : Nat) (bad : List (Nat × Nat)) (s : State) (t' : State)
    (h : execSparsePass2 u p table bad s = .next t') : φ t' = φ s := by
  unfold execSparsePass2 at h
  refine perform_frame h_out h_pending h (fun s => ?_)
  repeat' first
    | simp only [bump_frame h_regs, checkLines_frame h_regs h_seq h_out h_rigs h_memCheck h_ucs h_ropes h_rings h_svcs h_journal h_sec h_det, clearFinite_frame h_parts, holdRegs_frame h_ucs, memWrite_frame h_regs h_seq h_out h_rigs h_mem h_memCheck h_memEpoch h_memKey h_ucs h_ropes h_rings h_svcs h_journal h_sec h_det, setSparse_frame h_sparse, ucHold_frame h_regs h_ucs]
    | with_reducible refine Eq.trans (foldl_frame (fun _ _ => ?_) _ _) ?_
    | split
    | refine Eq.trans (checkLines_frame_of h_regs h_seq h_out h_rigs h_memCheck h_ucs h_ropes h_rings h_svcs h_journal h_sec h_det ‹_›) ?_
    | refine Eq.trans (memWrite_frame_of h_regs h_seq h_out h_rigs h_mem h_memCheck h_memEpoch h_memKey h_ucs h_ropes h_rings h_svcs h_journal h_sec h_det ‹_›) ?_
    | dsimp only
    | with_reducible rfl

theorem execSparseRestore_frame (h_regs : Blind.regs φ) (h_seq : Blind.seq φ) (h_pending : Blind.pending φ) (h_out : Blind.out φ) (h_rigs : Blind.rigs φ) (h_mem : Blind.mem φ) (h_memCheck : Blind.memCheck φ) (h_memEpoch : Blind.memEpoch φ) (h_memKey : Blind.memKey φ) (h_ucs : Blind.ucs φ) (h_sparse : Blind.sparse φ) (h_ropes : Blind.ropes φ) (h_rings : Blind.rings φ) (h_svcs : Blind.svcs φ) (h_journal : Blind.journal φ) (h_sec : Blind.sec φ) (h_det : Blind.det φ) (p table : Nat) (s : State) (t' : State)
    (h : execSparseRestore p table s = .next t') : φ t' = φ s := by
  unfold execSparseRestore at h
  refine perform_frame h_out h_pending h (fun s => ?_)
  repeat' first
    | simp only [restoreSparse_frame h_regs h_seq h_out h_rigs h_mem h_memCheck h_memEpoch h_memKey h_ucs h_sparse h_ropes h_rings h_svcs h_journal h_sec h_det]
    | with_reducible refine Eq.trans (foldl_frame (fun _ _ => ?_) _ _) ?_
    | split
    | dsimp only
    | with_reducible rfl

theorem execPatrolRead_frame (h_regs : Blind.regs φ) (h_seq : Blind.seq φ) (h_pending : Blind.pending φ) (h_out : Blind.out φ) (h_rigs : Blind.rigs φ) (h_memCheck : Blind.memCheck φ) (h_ucs : Blind.ucs φ) (h_ropes : Blind.ropes φ) (h_rings : Blind.rings φ) (h_svcs : Blind.svcs φ) (h_journal : Blind.journal φ) (h_sec : Blind.sec φ) (h_det : Blind.det φ) (u : Nat) (inUse : Bool) (off : Nat) (bad : List (Nat × Nat)) (s : State) (t' : State)
    (h : execPatrolRead u inUse off bad s = .next t') : φ t' = φ s := by
  unfold execPatrolRead at h
  refine perform_frame h_out h_pending h (fun s => ?_)
  repeat' first
    | simp only [bump_frame h_regs, checkLine_frame h_regs h_seq h_out h_rigs h_memCheck h_ucs h_ropes h_rings h_svcs h_journal h_sec h_det, set_frame h_regs, setUc_frame h_ucs]
    | split
    | refine Eq.trans (checkLine_frame_of h_regs h_seq h_out h_rigs h_memCheck h_ucs h_ropes h_rings h_svcs h_journal h_sec h_det ‹_›) ?_
    | dsimp only
    | with_reducible rfl

theorem execRowRepair_frame (h_regs : Blind.regs φ) (h_seq : Blind.seq φ) (h_pending : Blind.pending φ) (h_out : Blind.out φ) (h_ucs : Blind.ucs φ) (h_rings : Blind.rings φ) (h_journal : Blind.journal φ) (h_det : Blind.det φ) (u row : Nat) (s : State) (t' : State)
    (h : execRowRepair u row s = .next t') : φ t' = φ s := by
  unfold execRowRepair at h
  refine perform_frame h_out h_pending h (fun s => ?_)
  repeat' first
    | simp only [bump_frame h_regs, journalWrite_frame h_regs h_journal, raise0_frame h_regs h_seq h_rings h_det, set_frame h_regs, setUc_frame h_ucs]
    | with_reducible refine Eq.trans (foldl_frame (fun _ _ => ?_) _ _) ?_
    | split
    | dsimp only
    | with_reducible rfl

theorem execKeySweepLine_frame (h_regs : Blind.regs φ) (h_seq : Blind.seq φ) (h_pending : Blind.pending φ) (h_out : Blind.out φ) (h_rigs : Blind.rigs φ) (h_mem : Blind.mem φ) (h_memCheck : Blind.memCheck φ) (h_memEpoch : Blind.memEpoch φ) (h_memKey : Blind.memKey φ) (h_ucs : Blind.ucs φ) (h_ropes : Blind.ropes φ) (h_rings : Blind.rings φ) (h_svcs : Blind.svcs φ) (h_journal : Blind.journal φ) (h_sec : Blind.sec φ) (h_det : Blind.det φ) (u p : Nat) (bad : List (Nat × Nat)) (s : State) (t' : State)
    (h : execKeySweepLine u p bad s = .next t') : φ t' = φ s := by
  unfold execKeySweepLine at h
  refine perform_frame h_out h_pending h (fun s => ?_)
  repeat' first
    | simp only [checkLine_frame h_regs h_seq h_out h_rigs h_memCheck h_ucs h_ropes h_rings h_svcs h_journal h_sec h_det, raise_frame h_regs h_seq h_rings h_det, rekeyLine_frame h_memEpoch h_memKey, rewriteLine_frame h_regs h_seq h_memCheck h_memEpoch h_memKey h_rings h_journal h_sec h_det, setUc_frame h_ucs, settleLine_frame h_mem, h_sec.eq]
    | split
    | refine Eq.trans (checkLine_frame_of h_regs h_seq h_out h_rigs h_memCheck h_ucs h_ropes h_rings h_svcs h_journal h_sec h_det ‹_›) ?_
    | dsimp only
    | with_reducible rfl

end Sys2Proof.Laws
end

