-- ==== Sys2Proof/Laws/WindDownKeep.lean ====
section
/-!
SUPPORT. Frames of the commands of Sys2Proof/Machine/WindDown.lean: what a command does not write stays as it was.
-/
namespace Sys2Proof.Laws
open Machine Machine.State

set_option linter.unusedSimpArgs false
set_option linter.unusedTactic false
set_option linter.unreachableTactic false
set_option linter.unusedVariables false

variable {α : Type} {φ : State → α}

theorem execRigRelease_frame (h_regs : Blind.regs φ) (h_pending : Blind.pending φ) (h_out : Blind.out φ) (h_rigs : Blind.rigs φ) (w : CtrlWrite) (s : State) (t' : State)
    (h : execRigRelease w s = .next t') : φ t' = φ s := by
  unfold execRigRelease at h
  refine rigCtrl_frame h_pending h_out _ _ _ _ _ (fun _ => ?_) _ h
  repeat' first
    | simp only [beginRelease_frame h_regs h_rigs]
    | split
    | dsimp only
    | with_reducible rfl

theorem execRigReleased_frame (h_regs : Blind.regs φ) (h_pkg : Blind.pkg φ) (h_seq : Blind.seq φ) (h_pending : Blind.pending φ) (h_out : Blind.out φ) (h_fence : Blind.fence φ) (h_power : Blind.power φ) (h_rigs : Blind.rigs φ) (h_treads : Blind.treads φ) (h_chans : Blind.chans φ) (h_knots : Blind.knots φ) (h_flights : Blind.flights φ) (h_stages : Blind.stages φ) (h_ctxs : Blind.ctxs φ) (h_landings : Blind.landings φ) (h_parts : Blind.parts φ) (h_reds : Blind.reds φ) (h_mem : Blind.mem φ) (h_memCheck : Blind.memCheck φ) (h_memEpoch : Blind.memEpoch φ) (h_memKey : Blind.memKey φ) (h_ucs : Blind.ucs φ) (h_sparse : Blind.sparse φ) (h_gathers : Blind.gathers φ) (h_ropes : Blind.ropes φ) (h_fabric : Blind.fabric φ) (h_rings : Blind.rings φ) (h_svcs : Blind.svcs φ) (h_sec : Blind.sec φ) (h_det : Blind.det φ) (p : Nat) (s : State) (t' : State)
    (h : execRigReleased p s = .next t') : φ t' = φ s := by
  unfold execRigReleased at h
  refine perform_frame h_out h_pending h (fun s => ?_)
  repeat' first
    | simp only [releasePart_frame h_regs h_pkg h_seq h_fence h_power h_rigs h_treads h_chans h_knots h_flights h_stages h_ctxs h_landings h_parts h_reds h_mem h_memCheck h_memEpoch h_memKey h_ucs h_sparse h_gathers h_ropes h_fabric h_rings h_svcs h_sec h_det]
    | split
    | dsimp only
    | with_reducible rfl

end Sys2Proof.Laws
end

