-- ==== Sys2Proof/Tests/Slice0.lean ====
section
/-!
SUPPORT. Tests of the model against words and numbers that the spec gives, an ill-formed term for each check of `Instr.wf`, and for
each claim that has hypotheses a state and operands that meet them, clause by clause.
-/
namespace Sys2Proof.Tests
open Machine

-- The tests run one after another: each waits on the kernel, and a thread for each of them would fill the memory.
set_option Elab.async false

/-! ## States for tests -/

/-- The state after a command that runs. -/
def after (c : Instr) (s : State) : State :=
  match exec c s with
  | .next t => t
  | _ => s

/-- A package in READY. -/
def up : State := { State.reset with pkg := .ready }

/-- A package whose tread `t` is `x`, in RUN. -/
def running (t : Nat) (x : Tread) : State := { up with treads := [(t, { x with st := .run })] }

/-- Tread 0 in RUN with scalar registers s1 and s2. -/
def regs12 (a b : W32) : State := running 0 { Tread.init with sreg := [(1, a), (2, b)] }

/-- The tread with the highest number: flight 1183, row 15, column 16. -/
def lastTread : Nat := 7 * 2 ^ 17 + 147 * 2 ^ 9 + 15 * 2 ^ 5 + 16

/-- The package with an image loaded in partition 0, role 0 on flight 0. -/
def loadedWith (r : Rigging) : State :=
  { up with pkg := .service, rigs := [(0, { Rig.init with image := some r, live := true, place := [(0, 0)] })] }.set (partFld 0) 2

/-- A GANG entry (03 R85), a ROUTE entry within row 0 of role 0 (R89), and a KNOT entry of role 0 (R91). -/
def gangEntry (gf role shape slot : Nat) : Nat := gf + role * 2 ^ 11 + shape * 2 ^ 22 + slot * 2 ^ 25 + 0x7FF * 2 ^ 32
def routeEntry (srcCol srcPort dstCol dstQueue credits : Nat) : Nat :=
  srcCol * 2 ^ 15 + srcPort * 2 ^ 19 + dstCol * 2 ^ 36 + dstQueue * 2 ^ 40 + credits * 2 ^ 47
def knotRoute (srcCol srcPort knot credits : Nat) : Nat :=
  srcCol * 2 ^ 15 + srcPort * 2 ^ 19 + 2 ^ 42 + knot * 2 ^ 43 + credits * 2 ^ 47
def knotEntry (idx kind count dstCol tuple credits : Nat) : Nat :=
  idx * 2 ^ 11 + kind * 2 ^ 15 + count * 2 ^ 17 + dstCol * 2 ^ 41 + credits * 2 ^ 47 + tuple * 2 ^ 53

/-- An image with one stage in slot 0: a route from o0 of tread (0, 0) to q0 of tread (0, 1), and two knots of two sources each, one of
FP32 sums and one of integer sums, that deliver to treads (0, 4) and (0, 5). -/
def chanImage : Rigging :=
  ⟨0, [(0x01, [gangEntry 0 0 0 0]), (0x02, [routeEntry 0 0 1 0 4, knotRoute 0 1 0 1, knotRoute 1 1 0 1, knotRoute 2 1 1 1, knotRoute 3 1 1 1]),
    (0x03, [knotEntry 0 1 2 4 0 4, knotEntry 1 0 2 5 0 4])], []⟩

/-- That image loaded, with the channels' data given, and treads 0 to 5 in RUN. -/
def chans (d : Tbl ChanData) : State :=
  { loadedWith chanImage with chans := d, treads := (upFrom 0 6).map fun t => (t, { Tread.init with st := .run }) }

/-- A channel with a limit, a credit counter, words on their way, words that wait and credits on their way back. -/
def chanData (limit : Nat) (credit : Int) (wire queue : List W32) (back : Nat) : ChanData :=
  { ChanData.init with limit := limit, credit := credit, wire := wire, queue := queue, back := back }

/-! ## Well-formed commands: each check refuses a term just outside it -/

/-- Whether every command of a list is ill-formed. -/
def allIll (l : List Instr) : Bool := l.all fun c => !c.wf

theorem test_ill_formed_requesters : allIll [.registerWrite (.vf 8) 0 4 0, .rcRead (.core 8) 0 0, .rw1cWrite (.vf 9) 0 0 0,
    .committedStepRead (.vf 8) 0 4, .ucQuotaWrite (.core 8) 0 0 0, .evtEnable (.vf 8) 0 ⟨0, 8⟩] = true := by decide +kernel
theorem test_ill_formed_accesses : allIll [.registerWrite .pf 2 4 0, .registerWrite .pf 4 8 0, .registerWrite .pf 0 2 0, .rcRead .pf 1 0,
    .rw1cWrite .pf 3 0 0, .highWordLatchRead .pf 0 16, .committedStepRead .pf 0 2] = true := by decide +kernel
theorem test_ill_formed_partitions : allIll [.rigStart ⟨8, 1⟩, .rigAbort ⟨8, 2⟩, .stepStart 8, .snapPin 8 0, .partOffer 8 0,
    .wordDelivery (.route 8 0), .creditReturn (.knot 8 0), .knotContribution 8 0, .sparsePass1 8 0 []] = true := by decide +kernel
theorem test_ill_formed_flights : allIll [.retainEntry 1184, .retainExit 1184, .admissionToken [0, 1184], .thermalSample 0 [(1184, 0)],
    .loadStart 1184 [] (0, [], []), .fltPush .firmware 0 24 0, .tileStart ⟨0, 4⟩ (0, 0), .drainComplete ⟨1184, 0⟩ [] 0 0, .sbParity 0 32768,
    .routerParity 1184, .selfTestPhaseComplete 0 ⟨[], [1184]⟩ ⟨[], []⟩ false,
    .selfTestPhaseComplete 0 ⟨[], []⟩ ⟨[], [(1184, 0)]⟩ false] = true := by decide +kernel
theorem test_ill_formed_treads : allIll [.add (lastTread + 1) 0 0 0, .nop 17, .halt (148 * 2 ^ 9), .trap (2 ^ 20), .treadParity 0 true 4096,
    .macResidue 17, .illegalInstruction 17 0, .selfTestPhaseComplete 0 ⟨[17], []⟩ ⟨[], []⟩ false,
    .selfTestPhaseComplete 0 ⟨[], []⟩ ⟨[(0, 0, 16384, 0)], []⟩ false, .selfTestPhaseComplete 0 ⟨[], []⟩ ⟨[(0, 2, 0, 0)], []⟩ false] = true := by decide +kernel
theorem test_ill_formed_stages : allIll [.forwardAdmit 64, .landingPush 64, .ringPass 64, .updateGroup 64 [], .ingestPush 512 [],
    .landLimitWrite .pf 512 0, .chanLimitWrite 8 0, .chanHeadRead 8, .schedScaleWrite .pf 0 8 0] = true := by decide +kernel
theorem test_ill_formed_undercrofts : allIll [.vsqrt 16 0 0, .patrolRead 16 true 0 [], .rowRepair 16 0, .ucGatherPush (.core 0) 0 24 0,
    .ucConvPush (.core 0) 16 0 0, .sparsePass2 16 0 0 [], .keySweepLine 0 8 []] = true := by decide +kernel
theorem test_ill_formed_agents : allIll [.fabricRead (.flight 1184) 0 1 [], .fabricWrite (.sequencer 64) 0 [] [],
    .fabricAtomic (.core 8) 0 0 4 0 0 [], .fabricRead (.peer 18 0 0 0) 0 1 [], .fabricRead (.peer 0 8 0 0) 0 1 [],
    .fabricRead (.debug true) 0 1 [], .fabricRequestIssue .firmware 0 0 0 0 [], .fabricRequestIssue .firmware 4 0 0 0 []] = true := by
  decide +kernel
theorem test_ill_formed_ropes : allIll [.ropeSignalLock 18 0, .dataFlit 18 0 [] false 0 [], .dataFlit 0 0 [] false 0 [8], .trainFlit 0 0 [] ⟨false, 0, [8]⟩, .flitSend 0 9,
    .ropeVcLimitWrite 0 8 0, .landingEntry 0 8 [], .laserModuleRemove 6 0, .laserFailed 0 8 0, .ropeEnable 18 0] = true := by decide +kernel
theorem test_ill_formed_bundles : allIll [.dcpMsgFlit 144 0 [] false, .dcpReplayTmo 0 2, .dcpIdleFlit 0 2 [] false, .dieLinkFenced 144,
    .laneTest 0 [64] [], .laneTest 0 [] [64], .dlReset 0 0 3 []] = true := by decide +kernel
theorem test_ill_formed_host : allIll [.plcValidWrite 64 0, .hceNop 16 [], .hceDoorbell .pf 16 0, .eventRecordWrite 9, .d3hotEntry 9,
    .mbH2pWrite .pf 64 0, .hostLinkTrained 0 1 ⟨false, 8⟩, .hostLinkTrained 7 1 ⟨false, 8⟩, .hostLinkTrained 1 3 ⟨false, 8⟩, .doeDiscovery 9 0,
    .completionTimeout true 8, .completionTimeout false 16] = true := by decide +kernel
theorem test_ill_formed_others : allIll [.powerMeasurement 0 (List.replicate 14 0) 0, .converterFailed 0 13, .claim 9 0 0, .getVersion 9 [],
    .ideKm 0 0 9 0 [] [], .ideKm 0 0 0 3 [] [], .pldmGetSensor 0 7 0, .pldmGetSensor 0 4 6, .pldmGetSensor 0 6 8] = true := by
  decide +kernel
/-- A command that names no unit of the package stops. -/
theorem test_ill_formed_stops : (match exec (.nop 17) State.reset with | .fault f => some f | _ => none) = some .noSuchUnit := by
  decide +kernel
/-- The last unit of each kind is one. -/
theorem test_last_units : [Instr.rigStart ⟨7, 1⟩, .retainExit 1183, .halt lastTread, .forwardAdmit 63, .ingestPush 511 [], .vsqrt 15 7 7,
    .ropeTrainRetry 17, .dieLinkFenced 143, .hceNop 15 [], .eventRecordWrite 8, .mbH2pWrite .pf 63 0, .pldmGetSensor 0 6 7].all
    Instr.wf = true := by decide +kernel

/-! ## Treads -/

/-- 00 R12: tread 3.41.7.16 is 0x6_52F0. -/
theorem test_tread_id : treadId 485 7 16 = 0x652F0 ∧ treadGf 0x652F0 = 485 ∧ treadRow 0x652F0 = 7 ∧ treadCol 0x652F0 = 16 := by
  decide +kernel
/-- 04 R138: SEND s4, o2 of three words is 0x6894_0000. -/
theorem test_send_word : decodeTread 5 0x68940000 = some (.send 5 4 2 2) := by decide +kernel
/-- Words written out from the formats of 04 R131 and the opcodes of R132. -/
theorem test_words : [decodeTread 0 (3 * 2 ^ 21 + 1 * 2 ^ 16 + 2 * 2 ^ 11 + 0x12), decodeTread 0 (0x0E * 2 ^ 26 + 7),
    decodeTread 0 (0x18 * 2 ^ 26 + 31 * 2 ^ 21 + 30 * 2 ^ 16 + 0xFFFF), decodeTread 0 (0x3F * 2 ^ 26 + 1)].all (·.isSome) = true := by
  decide +kernel
theorem test_illegal_words : legalWord (0x1E * 2 ^ 26) = false ∧ legalWord (0x1A * 2 ^ 26 + 31 * 2 ^ 21 + 2 ^ 17) = false := by decide +kernel
theorem test_add_wraps : ((after (.add 0 3 1 2) (regs12 0xFFFF_FFFF 2)).tread 0).s 3 = 1 := by decide +kernel
theorem test_sub_borrows : ((after (.sub 0 3 1 2) (regs12 0 1)).tread 0).s 3 = 0xFFFF_FFFF := by decide +kernel
theorem test_s0_discards : ((after (.add 0 0 1 2) (regs12 5 6)).tread 0).s 0 = 0 := by decide +kernel
theorem test_sra_sign : ((after (.sra 0 3 1 2) (regs12 0x8000_0000 0x21)).tread 0).s 3 = 0xC000_0000 := by decide +kernel
theorem test_sltu_slt : ((after (.slt 0 3 1 2) (regs12 0xFFFF_FFFF 1)).tread 0).s 3 = 1
    ∧ ((after (.sltu 0 3 1 2) (regs12 0xFFFF_FFFF 1)).tread 0).s 3 = 0 := by decide +kernel
theorem test_mulh_signed : ((after (.mulh 0 3 1 2) (regs12 0xFFFF_FFFF 2)).tread 0).s 3 = 0xFFFF_FFFF
    ∧ ((after (.mulhu 0 3 1 2) (regs12 0xFFFF_FFFF 2)).tread 0).s 3 = 1 := by decide +kernel
theorem test_clz_zero : ((after (.clz 0 3 1) (regs12 0 0)).tread 0).s 3 = 32 := by decide +kernel
theorem test_addi_sign : ((after (.addi 0 3 1 0xFFFF) (regs12 0 0)).tread 0).s 3 = 0xFFFF_FFFF := by decide +kernel
theorem test_lui : ((after (.lui 0 3 1) (regs12 0 0)).tread 0).s 3 = 0x800 := by decide +kernel
theorem test_jalr_link : let t := (after (.jalr 0 1 1 0) (regs12 1025 0)).tread 0
    t.pc = 1 ∧ t.s 1 = 1 ∧ t.beats = 2 := by decide +kernel
theorem test_branch_back : ((after (.beq 0 1 2 0xFFFF) (regs12 7 7)).tread 0).pc = 1023 := by decide +kernel
theorem test_lw_misaligned : ((after (.lw 0 3 1 0) (regs12 2 0)).tread 0).cause = 2
    ∧ ((after (.lw 0 3 1 0) (regs12 0x4000 0)).tread 0).cause = 3 := by decide +kernel
theorem test_sw_lh : ((after (.lh 0 3 1 2) (after (.sw 0 2 1 0) (regs12 4 0x8001_0203))).tread 0).s 3 = 0xFFFF_8001 := by decide +kernel
theorem test_fp32_add : (fadd 0x3F800000 0x3F800000).v = 0x40000000 := by decide +kernel
theorem test_vadd_lane : lane32 (((after (.vadd 0 2 1 1 false)
    (running 0 { Tread.init with vreg := [(1, 0x3F800000 * 2 ^ 32)] })).tread 0).v 2) 1 = 0x40000000 := by decide +kernel
/-- 06 R234: blocks 1 and five of 2⁻²⁴ give 0x3F80_0002 in reference order and 0x3F80_0000 one by one. -/
theorem test_reference_order : treeSum [0x3F800000, 0x33800000, 0x33800000, 0x33800000, 0x33800000, 0x33800000] = 0x3F800002
    ∧ [0x33800000, 0x33800000, 0x33800000, 0x33800000, 0x33800000].foldl (fun a b => (fadd a b).v) 0x3F800000 = 0x3F800000 := by
  decide +kernel
/-- 06 R219: three masters as pairs, and back. -/
theorem test_pairs : [0x3FC0C000, 0x3FC08000, 0xBFC04000].map (fun x => ofPair (pairOf x)) = [0x3FC0C000, 0x3FC08000, 0xBFC04000]
    ∧ pairOf 0x3FC0C000 = 0x3FC1C000 := by decide +kernel
/-- 06 R223: amax 3.0 gives the scale 0x78, and 83 ÷ 8,192 is narrowed to 0x3A, 3.0 to 0x7C. -/
theorem test_mx_block : mxScale e4m3 [0x40400000, 0x3C260000] = 0x78 ∧ mxElem e4m3 0x78 .rne 0x3C260000 = 0x3A
    ∧ mxElem e4m3 0x78 .rne 0x40400000 = 0x7C := by decide +kernel
/-- 04 R143: a knot adds in source order, whatever the order of arrival. -/
theorem test_knot_order : (knotTotal { (knotOf (knotEntry 0 1 3 4 0 4)) with count := 3 }
    { Knot.init with parts := [(0, [0x4B800000]), (1, [0x3F800000]), (2, [0x3F800000])], sources := [2, 1, 0] }) = [0x4B800000] := by
  decide +kernel

theorem witness_ScalarInstructions : Runs 0 (regs12 0 0) ∧ Runs lastTread (running lastTread Tread.init)
    ∧ (((0 : W32).toNat < 2 ^ (32 - 32)) ∧ (2 ^ (31 - 0) ≤ (0x8000_0000 : W32).toNat ∧ (0x8000_0000 : W32).toNat < 2 ^ (32 - 0))
      ∧ (2 ^ (31 - 31) ≤ (1 : W32).toNat ∧ (1 : W32).toNat < 2 ^ (32 - 31))) := by unfold Runs; decide +kernel
/-- The last word, half, byte and vector of data SRAM; and for the traps, addresses that are not aligned or reach past it. -/
theorem witness_DataSramInstructions : ((regs12 0x3FFC 0).tread 0).addr 1 0 = 0x3FFC ∧ ((regs12 0x3FFE 0).tread 0).addr 1 0 = 0x3FFE
    ∧ ((regs12 0x4000 0).tread 0).addr 1 0xFFFF = 0x3FFF ∧ ((regs12 0x3FE0 0).tread 0).addr 1 0 = 0x3FE0
    ∧ ((regs12 0x4000 0).tread 0).addr 1 0 = 0x4000 ∧ ((regs12 1 0).tread 0).addr 1 0 = 1 := by decide +kernel
/-- Operands for which each branch is taken, and for which it is not: equal ones, and −1 with 0 signed and unsigned. -/
theorem witness_BranchesAndJumps : Runs 0 (regs12 0xFFFF_FFFF 0) ∧ (0xFFFF_FFFF : W32).toInt < (0 : W32).toInt
    ∧ ¬(0xFFFF_FFFF : W32).toNat < (0 : W32).toNat ∧ (0 : W32).toNat < (0xFFFF_FFFF : W32).toNat ∧ ¬(0 : W32).toInt < (0xFFFF_FFFF : W32).toInt := by
  unfold Runs; decide +kernel
/-- Sends on a routed port with credit and without, on a port without a route, and to a knot of another tuple length. -/
theorem witness_TreadSends : Runs 0 (chans [(0, chanData 4 1 [] [] 0)]) ∧ Runs 0 (chans [])
    ∧ (chans []).portRoute? 0 0 = some (0, 0, routeOf (routeEntry 0 0 1 0 4)) ∧ chanImage.routeKnot? (routeOf (routeEntry 0 0 1 0 4)) = none
    ∧ (chans []).portRoute? 0 3 = none ∧ (chans []).portRoute? 0 1 = some (0, 1, routeOf (knotRoute 0 1 0 1))
    ∧ chanImage.routeKnot? (routeOf (knotRoute 0 1 0 1)) = some (0, knotOf (knotEntry 0 1 2 4 0 4))
    ∧ (knotOf (knotEntry 0 1 2 4 0 4)).tuple + 1 = 1 ∧ (knotOf (knotEntry 0 1 2 4 0 4)).tuple + 1 ≠ 2
    ∧ ((chans [(0, chanData 4 1 [] [] 0)]).chan (Chan.route 0 0).key).credit = 1 ∧ ((chans []).chan (Chan.route 0 0).key).credit = 0 := by
  unfold Runs; decide +kernel
/-- Tuples that end at s31 and at lane 7, and one register or lane past them. -/
theorem witness_tuple_ends : (28 : BitVec 5).toNat + (3 : BitVec 2).toNat ≤ 31 ∧ 31 < (29 : BitVec 5).toNat + (3 : BitVec 2).toNat
    ∧ (4 : BitVec 3).toNat + (3 : BitVec 2).toNat ≤ 7 ∧ 7 < (5 : BitVec 3).toNat + (3 : BitVec 2).toNat := by decide
/-- A queue that a route feeds, with a word and without one, and one that nothing feeds. -/
theorem witness_TreadReceives : Runs 1 (chans [(0, chanData 4 3 [] [7] 0)])
    ∧ (chans [(0, chanData 4 3 [] [7] 0)]).queueChan? 1 0 = some (.route 0 0) ∧ (chans []).queueChan? 1 1 = none
    ∧ ((chans [(0, chanData 4 3 [] [7] 0)]).chan 0).queue.length = 1 ∧ ((chans []).chan 0).queue.length = 0 := by
  unfold Runs; decide +kernel
theorem witness_TreadPolls : (chans []).queueChan? 4 0 = some (.knot 0 0) ∧ (chans []).queueChan? 0 0 = none
    ∧ (chans []).portRoute? 0 0 = some (0, 0, routeOf (routeEntry 0 0 1 0 4)) ∧ (chans []).portRoute? 5 0 = none := by decide +kernel
theorem witness_VectorInstructions : Runs 0 (running 0 { Tread.init with vreg := [(7, 1)] }) ∧ ((2 : BitVec 3).toNat ≤ 2)
    ∧ 2 < (3 : BitVec 3).toNat ∧ 2 < (7 : BitVec 3).toNat := by unfold Runs; decide +kernel
/-- A tread that holds bank 1 and not bank 0, in an image that gives it an accumulator part. -/
def holding : State := { chans [] with treads := [(0, { Tread.init with st := .run, held1 := true })] }
theorem witness_AccumulatorInstructions : Runs 0 holding ∧ (holding.tread 0).heldBank 0 = false ∧ (holding.tread 0).heldBank 1 = true
    ∧ holding.accPart? 0 = some (0, 0, 0, 0)
    ∧ (∀ v ∈ holding.arrayTreads 0 0, v ≠ 0 → (holding.tread v).heldBank 1 = false)
    ∧ (∃ v ∈ (holding.setTread 1 { Tread.init with held1 := true }).arrayTreads 0 0,
        v ≠ 0 ∧ ((holding.setTread 1 { Tread.init with held1 := true }).tread v).heldBank 1 = true) := by
  unfold Runs
  refine ⟨?_, ?_, ?_, ?_, ?_, 1, ?_⟩ <;> decide +kernel
theorem witness_TreadControl : Runs 0 (up.set Reg.DBG_STATUS_UNLOCKED 1 |>.setTread 0 { Tread.init with st := .run })
    ∧ (up.set Reg.DBG_STATUS_UNLOCKED 1).get Reg.DBG_STATUS_UNLOCKED = 1 ∧ up.get Reg.DBG_STATUS_UNLOCKED ≠ 1
    ∧ legalWord (0x1E * 2 ^ 26) = false ∧ legalWord 0 = true := by unfold Runs; decide +kernel
/-- The special registers 0 and 8, the first number past them, a read-only one, and the tread's logical position. -/
theorem witness_TreadSpecialRegisters : Runs 1 (chans []) ∧ (chans []).treadRole? 1 = some (0, 0, 0, 0, 1) ∧ 8 < (9 : BitVec 8).toNat
    ∧ (7 : BitVec 8) ∉ [5, 6, 8] := by unfold Runs; decide +kernel
theorem witness_OnlyRunningTreadsExecute : encodeTread (.nop lastTread) = some (lastTread, 0x3F * 2 ^ 26) ∧ (up.tread lastTread).st ≠ .run := by
  decide +kernel
theorem witness_TreadWords : encodeTread (.wrsr 0 31 8) ≠ none ∧ (∀ w, encodeTread (.wrsr 0 31 8) = some (0, w) → legalWord w = true)
    ∧ bits (0x3E * 2 ^ 26) 26 6 = 0x3E ∧ bits (0x22 * 2 ^ 26) 26 6 = 0x22 := by
  refine ⟨by decide +kernel, ?_, by decide +kernel, by decide +kernel⟩
  intro w h
  have h2 : encodeTread (.wrsr 0 31 8) = some (0, 0x3F * 2 ^ 26 + 31 * 2 ^ 16 + 8 * 2 ^ 8 + 4) := by decide +kernel
  rw [h2] at h
  cases h
  decide +kernel

/-! ## Channels and knots -/

theorem test_send_charges : let s := after (.send 0 1 0 0) (chans [(0, chanData 4 1 [] [] 0)])
    (s.chan 0).credit = 0 ∧ (s.chan 0).wire = [0] ∧ (s.tread 0).pc = 1 := by decide +kernel
theorem witness_WordsArriveInOrder : (chans [(0, chanData 4 3 [7] [] 0)]).chanDest (.route 0 0) = some 1
    ∧ ((chans [(0, chanData 4 3 [7] [] 0)]).tread 1).st ≠ .wait ∧ (chans []).chanDest (.route 0 9) = none ∧ ((chans []).chan 0).wire = []
    ∧ (chans []).chanCrosses (.route 0 0) = true := by decide +kernel
/-- A route from gallery 0 to gallery 1, with no bundle between them, and with bundle 1, the one of roles 0 and 1. -/
def crossing : State :=
  { loadedWith ⟨0, [(1, [gangEntry 0 0 0 0, gangEntry 148 1 0 0]), (2, [routeEntry 0 0 1 0 4 + 2 ^ 21])], []⟩ with
    rigs := [(0, { Rig.init with image := some ⟨0, [(1, [gangEntry 0 0 0 0, gangEntry 148 1 0 0]), (2, [routeEntry 0 0 1 0 4 + 2 ^ 21])], []⟩,
                                 live := true, place := [(0, 0), (1, 148)] })] }
theorem witness_WordsArriveInOrder_crossing : crossing.chanCrosses (.route 0 0) = false := by decide +kernel
theorem test_route_bundle : let s := crossing.set (Reg.DL_STATUS_STATE 1) 2 |>.set (Reg.DL_STATUS_CHANNELS 1) 0xF
    s.routeBundle (0, 16) 0 1 = some 1 ∧ s.chanCrosses (.route 0 0) = true
    ∧ (s.set (Reg.DL_STATUS_CHANNELS 1) 0xB).chanCrosses (.route 0 0) = false := by decide +kernel
/-- Tread 1 waits for a word into s31. -/
def receiving : State := (chans [(0, chanData 4 3 [7] [] 0)]).setTread 1 { Tread.init with st := .wait, wait := .recv 0 1 31 }
theorem witness_WordsArriveInOrder_waiting : receiving.chanDest (.route 0 0) = some 1 ∧ (receiving.chan 0).wire = [7]
    ∧ receiving.chanCrosses (.route 0 0) = true ∧ (receiving.tread 1).wait = .recv 0 1 31 ∧ receiving.queueChan? 1 0 = some (.route 0 0)
    ∧ 1 ≤ (receiving.chan 0).queue.length + 1 ∧ 1 ≤ 32 - 31 := by decide +kernel
/-- Tread 0 waits for one credit to send s1. -/
def sending : State := (chans [(0, chanData 4 0 [] [] 1)]).setTread 0 { Tread.init with st := .wait, wait := .send 0 1 1 }
theorem witness_CreditsReturn : (sending.chan 0).back ≠ 0 ∧ (sending.chan 0).credit + 1 = 1 ∧ (sending.tread 0).wait = .send 0 1 1
    ∧ ((sending.imageOf 0).routes[0]?.bind fun e => sending.routeSource 0 e) = some 0
    ∧ ((chans [(0, chanData 4 0 [] [] 1)]).tread 0).st ≠ .wait ∧ ((chans []).chan 0).back = 0 := by decide +kernel
/-- One word of the first source of each knot is on its way. -/
theorem witness_KnotContributions : chanImage.routes[1]? = some (routeOf (knotRoute 0 1 0 1))
    ∧ chanImage.routeKnot? (routeOf (knotRoute 0 1 0 1)) = some (0, knotOf (knotEntry 0 1 2 4 0 4)) ∧ (knotOf (knotEntry 0 1 2 4 0 4)).kind = 1
    ∧ chanImage.routes[3]? = some (routeOf (knotRoute 2 1 1 1))
    ∧ chanImage.routeKnot? (routeOf (knotRoute 2 1 1 1)) = some (1, knotOf (knotEntry 1 0 2 5 0 4)) ∧ (knotOf (knotEntry 1 0 2 5 0 4)).kind ≠ 1
    ∧ ((chans [(1, chanData 1 0 [5] [] 0)]).chan (Chan.route 0 1).key).wire.length = 0 + 1 ∧ (chans []).chanCrosses (.route 0 1) = true
    ∧ crossing.chanCrosses (.route 0 0) = false
    ∧ ((chans []).chan (Chan.route 0 1).key).wire.length < 0 + 1 := by decide +kernel
/-- Both knots complete, with credit for one word; and neither. -/
def knotsFull : State := { chans [((Chan.knot 0 0).key, chanData 4 1 [] [] 0), ((Chan.knot 0 1).key, chanData 4 1 [] [] 0)] with
  knots := [(0, { Knot.init with parts := [(0, [1]), (1, [2])], sources := [1, 0] }), (1, { Knot.init with total := [3], sources := [0, 1] })] }
theorem witness_KnotDeliveries : (∃ k, chanImage.knots[0]? = some k ∧ k.count ≤ (knotsFull.knot 0).sources.length ∧ k.kind = 1)
    ∧ (∃ k, chanImage.knots[1]? = some k ∧ k.count ≤ (knotsFull.knot 1).sources.length ∧ k.kind ≠ 1 ∧ ((chans []).knot 1).sources.length < k.count)
    ∧ knotsFull.chanCrosses (.knot 0 0) = true ∧ knotsFull.chanCrosses (.knot 0 1) = true
    ∧ (knotsFull.chan (Chan.knot 0 0).key).credit = 1 ∧ (knotsFull.tread 4).st ≠ .wait ∧ knotsFull.chanDest (.knot 0 0) = some 4
    ∧ (Chan.knot 0 0).key ∉ (chanImage.knotSources 0).map (fun i => (Chan.route 0 i).key)
    ∧ ((chanImage.knotSources 0).map fun i => (Chan.route 0 i).key).Nodup := by
  refine ⟨⟨_, rfl, by decide +kernel⟩, ⟨_, rfl, by decide +kernel⟩, by decide +kernel⟩
def integerKnot : State := chans [(3, chanData 1 0 [5] [] 0), (4, chanData 1 0 [6] [] 0)]
theorem witness_IntegerKnotsCommute : chanImage.routes[3]? = some (routeOf (knotRoute 2 1 1 1))
    ∧ chanImage.routes[4]? = some (routeOf (knotRoute 3 1 1 1))
    ∧ (integerKnot.imageOf 0).routeKnot? (routeOf (knotRoute 2 1 1 1)) = some (1, knotOf (knotEntry 1 0 2 5 0 4))
    ∧ (integerKnot.imageOf 0).routeKnot? (routeOf (knotRoute 3 1 1 1)) = some (1, knotOf (knotEntry 1 0 2 5 0 4))
    ∧ (knotOf (knotEntry 1 0 2 5 0 4)).kind ≠ 1
    ∧ ((after (.knotContribution 0 4) (after (.knotContribution 0 3) integerKnot)).knot (knotKey 0 1)).total = [11]
    ∧ ((after (.knotContribution 0 3) (after (.knotContribution 0 4) integerKnot)).knot (knotKey 0 1)).total = [11] := by decide +kernel
theorem witness_IntegerKnotsCommute_runs : ∃ a b c d, exec (.knotContribution 0 3) integerKnot = .next a ∧ exec (.knotContribution 0 4) a = .next b
    ∧ exec (.knotContribution 0 4) integerKnot = .next c ∧ exec (.knotContribution 0 3) c = .next d := ⟨_, _, _, _, rfl, rfl, rfl, rfl⟩
/-- Gallery 0 selects a queue or port of a tread of row 0. -/
def selecting (kind col index : Nat) (s : State) : State :=
  s.set (Reg.CHAN_SEL_KIND 0) kind |>.set (Reg.CHAN_SEL_COL 0) col |>.set (Reg.CHAN_SEL_INDEX 0) index
/-- A plain port, a port to a knot, a port without a route, and a write with another ticket. -/
theorem witness_ChannelLimits : let s := selecting 1 0 0 (chans [])
    (s.selected 0).kind = 1 ∧ s.selValid 0 = true ∧ bits (0x1F : W32).toNat 24 8 = s.get (Reg.CHAN_SEL_TICKET 0)
    ∧ s.portRoute? (s.selected 0).tread (s.selected 0).index = some (0, 0, routeOf (routeEntry 0 0 1 0 4))
    ∧ (s.tread (s.selected 0).tread).st ≠ .wait
    ∧ (selecting 1 0 1 (chans [])).portRoute? 0 ((selecting 1 0 1 (chans [])).selected 0).index = some (0, 1, routeOf (knotRoute 0 1 0 1))
    ∧ (selecting 1 0 3 (chans [])).portRoute? 0 ((selecting 1 0 3 (chans [])).selected 0).index = none
    ∧ (selecting 1 0 3 (chans [])).selValid 0 = true
    ∧ ((selecting 1 0 3 (chans [])).portKey? 0 ((selecting 1 0 3 (chans [])).selected 0).index).isSome = true
    ∧ bits (0x0100_0000 : W32).toNat 24 8 ≠ s.get (Reg.CHAN_SEL_TICKET 0) := by decide +kernel
/-- 04 R139: a counter of 3 becomes −5 when the limit falls from 12 to 4; a knot's tuple of one word caps its ports' limits. -/
theorem test_limits : ((after (.chanLimitWrite 0 4) (selecting 1 0 0 (chans [(0, chanData 12 3 [] [] 0)]))).chan 0).credit = -5
    ∧ ((after (.chanLimitWrite 0 31) (selecting 1 0 0 (chans [(0, chanData 12 3 [] [] 0)]))).chan 0).limit = 16
    ∧ ((after (.chanLimitWrite 0 31) (selecting 1 0 1 (chans []))).chan 1).limit = 1 := by decide +kernel
theorem witness_ChannelHeadReads : let s := selecting 0 1 0 (chans [(0, chanData 4 3 [] [7] 0)])
    s.flightPart (s.selected 0).gf = some 0 ∧ s.get Reg.DBG_STATUS_UNLOCKED ≠ 1
    ∧ (s.set Reg.DBG_STATUS_UNLOCKED 1).get Reg.DBG_STATUS_UNLOCKED = 1 ∧ (s.selected 0).kind = 0 ∧ s.selValid 0 = true
    ∧ (s.set Reg.DBG_STATUS_UNLOCKED 1).queueChan? (s.selected 0).tread (s.selected 0).index = some (.route 0 0) := by decide +kernel
/-- A tread that has waited at as many scans as STALL_CTRL names. -/
def stalling : State :=
  ((chans [(0, { chanData 4 0 [] [] 0 with sendScans := 3 })]).setTread 0 { Tread.init with st := .wait, wait := .send 0 1 1 }).set
    Reg.STALL_CTRL_ENABLE 1 |>.set Reg.STALL_CTRL_SCANS 4
theorem witness_StallWatchdog : stalling.get Reg.STALL_CTRL_ENABLE = 1 ∧ (up.set Reg.STALL_CTRL_ENABLE 0).get Reg.STALL_CTRL_ENABLE ≠ 1 ∧ stalling.pkg ≠ .boot
    ∧ Chan.route 0 0 ∈ stalling.chanList ∧ (stalling.chanList.map Chan.key).count 0 = 1
    ∧ (∃ r ∈ (scanCounts stalling).stalledList, (scanCounts stalling).isSeen r = false) := by
  refine ⟨?_, ?_, ?_, ?_, ?_, .port 0 0, ?_⟩ <;> decide +kernel
/-! ## Registers -/

/-- A register at its own offset, with its fields apart, by evaluation. -/
theorem reg_at (off n : Nat) (h : (regAt? off).isSome = true) (hb : ((regAt? off).get h).byte = 0)
    (hw : ((regAt? off).get h).row.width = 8 * n) (hn : (((regAt? off).get h).flds.map fun x => x.1.key).Nodup)
    (hf : ∀ x ∈ ((regAt? off).get h).flds, x.1.lo + x.1.width ≤ 8 * n) : RegisterAt off n ((regAt? off).get h) :=
  ⟨(Option.some_get h).symm, hb, hw, hn, hf⟩

theorem lsl_ctrl_found : (regAt? 0x300010).isSome = true := by decide +kernel
theorem rig_src_found : (regAt? 0x408010).isSome = true := by decide +kernel
theorem secret_found : (regAt? 0x500020).isSome = true := by decide +kernel
theorem stall_count_found : (regAt? 0x409008).isSome = true := by decide +kernel
theorem stall_status_found : (regAt? 0x409004).isSome = true := by decide +kernel

/-- LSL_CTRL has a lock that can only be set and fields behind it; RIG_SRC_ADDR a read-write field, and is closed while its load runs;
SEC_FAB_SECRET a write-only field. -/
theorem witness_PlainRegisterWrites :
    (∃ a, regShape 0x300010 4 = true ∧ RegisterAt 0x300010 4 a ∧ a.row.base ∉ [0x300018, 0x70c800, 0x200100, 0x200200, 0x704004]
      ∧ up.regOpen a = true ∧ (Reg.LSL_CTRL_LOCK, FTy.setOnly) ∈ a.flds ∧ (Reg.LSL_CTRL_SLEW, FTy.rwl Reg.LSL_CTRL_LOCK) ∈ a.flds)
    ∧ (∃ a, regShape 0x408010 8 = true ∧ RegisterAt 0x408010 8 a ∧ (Reg.RIG_SRC_ADDR_ADDR 0, FTy.rw) ∈ a.flds
      ∧ (setLd 0 1 up).regOpen a = false ∧ (setLd 0 6 up).regOpen a = true)
    ∧ (∃ a, RegisterAt 0x500020 4 a ∧ (Reg.SEC_FAB_SECRET 0, FTy.wos) ∈ a.flds) := by
  refine ⟨⟨_, by decide +kernel, reg_at 0x300010 4 lsl_ctrl_found ?_ ?_ ?_ ?_, ?_⟩,
    ⟨_, by decide +kernel, reg_at 0x408010 8 rig_src_found ?_ ?_ ?_ ?_, ?_⟩, ⟨_, reg_at 0x500020 4 secret_found ?_ ?_ ?_ ?_, ?_⟩⟩
    <;> decide +kernel
theorem witness_register_reach : PfReaches up 0x300010 ∧ PfReaches State.reset 0x2F_FFFC ∧ ¬PfReaches State.reset 0x30_0000
    ∧ State.reset.pkg = .boot ∧ (0x1FFC : Nat) < 0x2000 := by unfold PfReaches; decide +kernel
theorem witness_ReadClearsCounters : ∃ a, regShape 0x409008 4 = true ∧ RegisterAt 0x409008 4 a ∧ a.row.base ≠ 0x1000008
    ∧ commitPlace 0x409008 = none ∧ (Reg.STALL_COUNT_COUNT, FTy.rc) ∈ a.flds := by
  refine ⟨_, by decide +kernel, reg_at 0x409008 4 stall_count_found ?_ ?_ ?_ ?_, ?_⟩ <;> decide +kernel
theorem witness_WriteOneClears : ∃ a, regShape 0x409004 4 = true ∧ RegisterAt 0x409004 4 a
    ∧ a.row.base ∉ [0x300018, 0x70c800, 0x200100, 0x200200, 0x704004] ∧ (Reg.STALL_STATUS_SEEN, FTy.rw1c) ∈ a.flds := by
  refine ⟨_, by decide +kernel, reg_at 0x409004 4 stall_status_found ?_ ?_ ?_ ?_, ?_⟩ <;> decide +kernel
theorem witness_HighWordLatch : ∃ a, regShape 0x408010 8 = true ∧ RegisterAt 0x408010 8 a
    ∧ (∀ x ∈ [0x408010, 0x408010 + 4], commitPlace x = none) ∧ regAt? (0x408010 + 4) = some { a with byte := 4 } ∧ a.row.base ≠ 0x1000008 := by
  refine ⟨_, by decide +kernel, reg_at 0x408010 8 rig_src_found ?_ ?_ ?_ ?_, by decide +kernel, ?_, ?_⟩
  case refine_5 => rfl
  all_goals decide +kernel
theorem hot_step_found : (regAt? 0x1710).isSome = true := by decide +kernel
/-- HOT_CKPT_STEP of partition 7, which is in its PART_COMMIT block and not its first register. -/
theorem witness_HighWordLatch_commit : ∃ a, regShape 0x1710 8 = true ∧ RegisterAt 0x1710 8 a ∧ regAt? (0x1710 + 4) = some { a with byte := 4 }
    ∧ commitPlace 0x1710 = some (7, 0x10) ∧ commitPlace (0x1710 + 4) = some (7, 0x14) ∧ PfReaches up 0x1710 ∧ a.row.base ≠ 0x1000008
    ∧ tget 0 up.commitLatch (latchKey Who.pf.key 7) = 0 := by
  refine ⟨_, by decide +kernel, reg_at 0x1710 8 hot_step_found ?_ ?_ ?_ ?_, ?_⟩
  case refine_5 =>
    refine ⟨rfl, ?_⟩
    unfold PfReaches
    decide +kernel
  all_goals decide +kernel
/-- 00 R5, 02 R75: one write sets LSL_CTRL's lock and the slew that it locks. -/
theorem test_lock_write : let u := after (.registerWrite .pf 0x300010 4 0x8000_0005) up
    (u.get Reg.LSL_CTRL_LOCK, u.get Reg.LSL_CTRL_SLEW) = (1, 5)
    ∧ (after (.registerWrite .pf 0x300010 4 7) u).get Reg.LSL_CTRL_SLEW = 5 := by decide +kernel
/-- Partition 7's block, latched by the physical function, and one that is not being scrubbed. -/
theorem witness_CommitBlockLatch : up.partState 7 ≠ partScrubbing
    ∧ tget 0 (after (.committedStepRead .pf 7 8) up).commitLatch (latchKey Who.pf.key 7) = up.commitBlock 7 + 1 ∧ (0x2C : Nat) < 0x30 ∧ 0x2C % 4 = 0
    ∧ 7 < ({ up with pcie := { Pcie.init with numVfs := 8 } } : State).pcie.numVfs := by
  decide +kernel
/-- 01 R39: VALID, version 5 and two skips read 0x8500_0002, and stay so for the reader while the next step commits. -/
theorem test_commit_latch : let s := (up.set (Reg.COMMITTED_STEP_STEP 2) 41207 |>.set (Reg.COMMITTED_INFO_VALID 2) 1
      |>.set (Reg.COMMITTED_INFO_VERSION 2) 5 |>.set (Reg.COMMITTED_INFO_SKIP_COUNT 2) 2);
    (after (.committedStepRead .pf 2 8) s).out = [.value 0xA0F7]
    ∧ (after (.highWordLatchRead .pf 0x1208 4) ((after (.committedStepRead .pf 2 8) s).set (Reg.COMMITTED_INFO_VERSION 2) 6)).out
      = [.value 0x85000002] := by decide +kernel
theorem witness_PackageIdLocks : State.reset.get Reg.PKG_ID_LOCK = 0 ∧ (0x8000_0305 : W32).getLsbD 31 = true ∧ (0x305 : W32).getLsbD 31 = false
    ∧ (up.set Reg.PKG_ID_LOCK 1).get Reg.PKG_ID_LOCK = 1 ∧ State.reset.pins.falling = false := by decide +kernel
theorem test_pkg_id_locks : (after (.pkgIdLock 0x8000_0305) up).get Reg.PKG_ID_ID = 0x305
    ∧ (after (.pkgIdLock 0x8000_0001) (after (.pkgIdLock 0x8000_0305) up)).get Reg.PKG_ID_ID = 0x305 := by decide +kernel
theorem test_counter_clears : (after (.rcRead .pf 0x409008 3) (up.set Reg.STALL_COUNT_COUNT 7)).get Reg.STALL_COUNT_COUNT = 3
    ∧ (after (.rcRead .pf 0x409008 3) (up.set Reg.STALL_COUNT_COUNT 7)).out = [.value 7] := by decide +kernel
theorem test_w1c : (after (.rw1cWrite .pf 0x409004 0x8000_0000 0) (up.set Reg.STALL_STATUS_SEEN 1)).get Reg.STALL_STATUS_SEEN = 0
    ∧ (after (.rw1cWrite .pf 0x409004 0 0) (up.set Reg.STALL_STATUS_SEEN 1)).get Reg.STALL_STATUS_SEEN = 1 := by decide +kernel
/-- 04 R160: with tread 2.5.3.5 fenced, ROW_REMAP[5][0] of gallery 2 reads 0x851F_1F1F. -/
theorem test_row_remap : (after (.macResidue (2 * 2 ^ 17 + 5 * 2 ^ 9 + 3 * 2 ^ 5 + 5)) up).wordAt 0x01401050 = 0x851F1F1F := by decide +kernel

/-! ## Power and temperature -/

/-- Stage slot 0 with one flight, its VDOM entry (03 R99) with V_MIN and V_MAX 70, a nominal rate and a retention threshold. -/
def stageEntry (slot fwdIn fwdOut bwdIn bwdOut mb ctxs ctxBase quota flags : Nat) : Nat :=
  slot * 2 ^ 16 + flags * 2 ^ 24 + fwdIn * 2 ^ 32 + fwdOut * 2 ^ 48 + bwdIn * 2 ^ 64 + bwdOut * 2 ^ 80 + mb * 2 ^ 96 + ctxs * 2 ^ 112
    + ctxBase * 2 ^ 128 + quota * 2 ^ 160
def vdomEntry (slot vMin vMax nominal retain : Nat) : Nat := slot + vMin * 2 ^ 6 + vMax * 2 ^ 13 + nominal * 2 ^ 20 + retain * 2 ^ 39
def powerImage : Rigging := ⟨0, [(1, [gangEntry 0 0 0 0]), (4, [stageEntry 0 0xFFFF 0xFFFF 0xFFFF 0xFFFF 1 1 0 0 3]), (8, [vdomEntry 0 0 70 1250 50])], []⟩
/-- Flight 0 in QUIET at a code, at 25 °C, 48 V. -/
def powered (code : Nat) : State :=
  loadedWith powerImage |>.set (Reg.DOMAIN_STATE_STATE 0) 1 |>.set (Reg.DOMAIN_STATE_VCODE 0) code |>.set Reg.PWR_INPUT_INPUT_MV 48000

/-- 02 R51: 13, 12 and 11 working converters. -/
theorem test_converter_cap : let cap := fun n => (formBudget { up with power := { Power.init with failed := upFrom 0 n } }).get Reg.PWR_LIMITS_EFFECTIVE_W
    [0, 1, 2, 11].map cap = [6000, 6000, 5555, 1010] := by decide +kernel
theorem witness_EffectiveBudgetIsLeast : up.pkg ≠ .boot ∧ State.reset.pkg = .boot ∧ up.pins.pwrGood = true ∧ up.pins.pkgRstN = true
    ∧ 50000000 ≤ max up.time 50000000 ∧ 12 ∉ up.power.failed
    ∧ (let s := { up with power := { Power.init with failed := upFrom 0 12 } };
        12 ∉ s.power.failed ∧ 13 - s.power.failed.length ≤ 1) ∧ 1 < 13 - up.power.failed.length := by decide +kernel
theorem test_budget : (after (.pwrBudgetWrite 0 700) up).get Reg.PWR_LIMITS_EFFECTIVE_W = 1500
    ∧ (after (.pwrBudgetWrite 0 700) up).get Reg.PWR_BUDGET_HOST_W = 700 := by decide +kernel
theorem witness_InputVoltageResponses : up.inputMv 36000 = 36000 ∧ up.inputMv 39999 = 39999 ∧ up.power.inputHold = false
    ∧ up.inputMv 60000 = 60000 ∧ up.inputMv 60001 = 60001 ∧ up.inputMv 35999 = 35999 := by decide +kernel
theorem test_input_low : (after (.inputLow 38000) up).get Reg.PWR_STATUS_ADMIT_HELD = 1
    ∧ (after (.inputRestored 40000) (after (.inputLow 38000) up)).get Reg.PWR_STATUS_ADMIT_HELD = 0
    ∧ (after (.inputOutOfRange 60001) up).pkg = .fault ∧ (after (.inputOutOfRange 60000) up).pkg = .ready := by decide +kernel

/-- 02: at 1,500 W and 4,600 W the factor is 704. -/
theorem test_rate_factor : [4600, 2520, 2050, 1880].map (fun w => cubeRoot 1500 w 10 0) = [704, 861, 922, 949] := by decide +kernel
/-- A measurement within the budget; one that ends a hold; one at the floor; and one that scales. -/
def holding97 : State := (powered 0).setPower { Power.init with powerHold := true } |>.set Reg.PWR_LIMITS_EFFECTIVE_W 1500
theorem witness_PowerMeasurementScales : holding97.inputW [1455000] = 1455 ∧ 1455 * 100 ≤ 97 * holding97.get Reg.PWR_LIMITS_EFFECTIVE_W
    ∧ holding97.power.powerHold = true ∧ (powered 0).inputW [2000000, 2501000, 2500000] = 7001 ∧ (powered 0).get Reg.PWR_LIMITS_EFFECTIVE_W = 6000
    ∧ (powered 0).atFloor = true ∧ (powered 0).power.powerHold = false ∧ (powered 1).atFloor = false ∧ (powered 1).variable = [(0, 0)]
    ∧ (powered 1).slots.count 0 = 1 ∧ (powered 1).power.fallAt = none ∧ (powered 1).stageRate 0 = (1250, 1) := by decide +kernel
/-- For the stage's rate of 1,250 Mbeat/s and each rate at V_MIN that its table may hold, one of the clauses applies; below 1,250 both can. -/
theorem witness_PowerMeasurementScales_floor (lo : Nat) : 1250 ≤ lo * 1 ∨ (lo * 1 < 1250 ∧ 1250 * 704 ≤ lo * 1 * 1024)
    ∨ (lo * 1 < 1250 ∧ lo * 1 * 1024 < 1250 * 704) := by omega
/-- At the floor, with a stage that runs no faster than its floor. -/
theorem witness_PowerMeasurementScales_held : let s := (powered 0).setPower { Power.init with rates := [(0, (0, 1))] }
    s.atFloor = true ∧ s.slots = [0] ∧ (∀ n ∈ s.slots, s.stageRate n = (0, 1)) := by decide +kernel
theorem test_window_rise : (after (.budgetWindowClose 0) ((powered 0).setPower { Power.init with winCount := 10, rates := [(0, (1000, 1))] })).power.rates
    = [(0, (1020, 1))] := by decide +kernel
/-- A window of ten measurements below 90 %, with the stage at its nominal rate, just below it, and further below; and other windows. -/
theorem witness_BudgetWindowRaises : ((powered 0).setPower { Power.init with winCount := 10 }).power.winGood = true
    ∧ (powered 0).vdom? 0 = some (vdomOf (vdomEntry 0 0 70 1250 50)) ∧ (vdomOf (vdomEntry 0 0 70 1250 50)).nominal = 1250
    ∧ (powered 0).slots.count 0 = 1 ∧ (powered 0).power.winCount ≠ 10
    ∧ [((1250, 1) : Nat × Nat), (1226, 1), (1225, 1)].map (fun r => ((powered 0).setPower { Power.init with rates := [(0, r)] }).stageRate 0)
      = [(1250, 1), (1226, 1), (1225, 1)] ∧ 1250 * 100 ≤ 1226 * 102 ∧ 1225 * 102 < 1250 * 100 := by decide +kernel
/-- One flight in QUIET; with the converters' full current as the slew, a flight of small activity fits, as this one does where its table
gives 0; and the budget that a token may add. -/
theorem witness_AdmissionTokens : [0].Nodup ∧ (∀ gf ∈ [0], gf < 1184) ∧ (powered 0).flightStage? 0 = some 0 ∧ (powered 0).get (Reg.DOMAIN_STATE_STATE 0) < 2
    ∧ 0 ∉ (powered 0).power.admitted ∧ (powered 0).get Reg.PWR_STATUS_ADMIT_HELD ≠ 1 ∧ (powered 0).get Reg.PWR_INPUT_INPUT_MV ≠ 0
    ∧ (holdAdmission (powered 0)).get Reg.PWR_STATUS_ADMIT_HELD = 1 ∧ (powered 0).slew = 10
    ∧ (powered 0).inputRise 0 = 0 := by decide +kernel
/-- A tread that waits in HALT for its flight's admission, and a flight that waits in OFF for code 50. -/
theorem witness_AdmissionTokens_waits : let s := ((powered 0).setPower { Power.init with starting := [0] }).setTread 5 { Tread.init with st := .halt }
    let v := (powered 0).setPower { Power.init with waking := [(0, 51)] }
    5 ∈ s.flightTreads 0 ∧ (0 : Nat) ∈ s.power.starting ∧ (s.tread 5).st = .halt ∧ tget 0 s.power.waking 0 = 0
    ∧ tget 0 v.power.waking 0 = 50 + 1 ∧ v.get Reg.PWR_INPUT_INPUT_MV ≠ 0 := by decide +kernel
/-- 02 R55, R66: a token takes a flight from OFF to QUIET at its code. -/
theorem test_token_wakes : let u := after (.admissionToken [0]) ((powered 0).set (Reg.DOMAIN_STATE_STATE 0) 3 |>.setPower { Power.init with waking := [(0, 51)] })
    (u.get (Reg.DOMAIN_STATE_STATE 0), u.get (Reg.DOMAIN_STATE_VCODE 0), u.power.waking) = (1, 50, []) := by decide +kernel
theorem witness_AdmissionTokens_fits (h0 : Config.activity 0 0 = 0) (h1 : Config.activity 0 1 = 0) :
    (powered 0).inputRise ((powered 0).activityAt 0 ((powered 0).vcode 0)) ≤ (powered 0).slew * 100000 := by
  have : (powered 0).vcode 0 = 0 := by decide +kernel
  have h3 : (powered 0).calInForce 3 0 = 0 := by decide +kernel
  simp [State.activityAt, this, h0, h1, h3, State.inputRise]
theorem witness_RetentionMoves : (powered 0).flightStage? 0 = some 0 ∧ (powered 0).vdom? 0 = some (vdomOf (vdomEntry 0 0 70 1250 50))
    ∧ (vdomOf (vdomEntry 0 0 70 1250 50)).retainUs ≠ 0 ∧ (powered 0).flightIdle 0 = true ∧ (powered 0).get (Reg.DOMAIN_STATE_STATE 0) = 1
    ∧ ((powered 0).setTread 5 { Tread.init with st := .run }).flightIdle 0 = false
    ∧ (after (.retainEntry 0) (powered 0)).get (Reg.DOMAIN_STATE_STATE 0) = 2 ∧ (powered 0).get (Reg.DOMAIN_STATE_STATE 1183) ≠ 2 := by
  decide +kernel
/-- A flight at 115 °C. -/
theorem witness_ThermalResponses_trip : (1183 : Nat) < 1184 ∧ 920 ≤ max ((takeReadings [(1183, 920)] up).temp 1183) ((takeReadings [(1183, 920)] up).rawTemp 1183)
    ∧ up.pkg ≠ .fault ∧ up.pins.thermtripN = true ∧ ({ up with pins := { up.pins with thermtripN := false } } : State).pins.thermtripN = false := by
  have h : (takeReadings [(1183, 920)] up).rawTemp 1183 = 920 := by decide +kernel
  rw [h]
  exact ⟨by decide, Int.le_max_right _ _, by decide, rfl, rfl⟩
theorem tget_map (f : Nat → Int) (l : List Nat) (k : Nat) (h : k ∈ l) : tget 0 (l.map fun g => (g, f g)) k = f k := by
  induction l with
  | nil => cases h
  | cons a r ih =>
    by_cases e : a = k
    · simp [tget, e]
    · simp only [List.map_cons, tget, if_neg e]
      exact ih (by simpa [Ne.symm e] using h)
/-- Every flight's corrected temperature at most `t`, and its raw one too: whatever the factory offset is. -/
def warmed (t : Int) : State := up.setPower { Power.init with raw := allFlights.map fun g => (g, min t (t - Config.sensorOffset g)) }
theorem warmed_top (t : Int) (gf : Nat) (h : gf < 1184) : max ((warmed t).temp gf) ((warmed t).rawTemp gf) = t := by
  have hm : gf ∈ allFlights := by
    have : ∀ n s k, s ≤ k → k < s + n → k ∈ upFrom s n := by
      intro n
      induction n with
      | zero => intros; omega
      | succ n ih =>
        intro s k a b
        by_cases e : k = s
        · simp [upFrom, e]
        · exact List.mem_cons_of_mem _ (ih (s + 1) k (by omega) (by omega))
    exact this 1184 0 gf (by omega) (by omega)
  have hr : (warmed t).rawTemp gf = min t (t - Config.sensorOffset gf) := tget_map _ _ _ hm
  have hc : (warmed t).calInForce 2 gf = 0 := by
    have : (warmed t).calApplied 2 gf = 0 := rfl
    simp only [State.calInForce, this, calClamp]
    decide
  simp only [State.temp, hr, hc]
  omega
/-- Every flight at 115 °C less an eighth: hot and warm; and every one at the reset threshold of 95 °C or an eighth below it. -/
theorem witness_ThermalResponses : (∀ t : Int, t < 920 → ∀ gf, gf < 1184 → max ((takeReadings [] (warmed t)).temp gf) ((takeReadings [] (warmed t)).rawTemp gf) < 920)
    ∧ (warmed 919).warnAt = 760 ∧ (warmed 919).power.warn = [] ∧ (warmed 919).power.hot = [] := by
  refine ⟨fun t h gf hg => ?_, by rfl, rfl, rfl⟩
  have : takeReadings [] (warmed t) = warmed t := rfl
  rw [this, warmed_top t gf hg]
  exact h

/-! ## Rigging -/

theorem witness_RigStartChecks : let lock := fun (s : State) => s.set Reg.PKG_ID_LOCK 1
    up.pkg ≠ .boot ∧ up.ldState 0 = 0 ∧ (setLd 0 7 up).ldState 0 = 7 ∧ up.get Reg.PKG_ID_LOCK ≠ 1
    ∧ (lock up).get Reg.PKG_ID_LOCK = 1 ∧ (lock up).pkg = .ready ∧ (lock up).partState 0 ≠ 1
    ∧ ((lock up).set (partFld 0) 1).partState 0 = 1 ∧ (∀ q, q < 8 → ((lock up).set (partFld 0) 1).ldState q = 0)
    ∧ (setLd 7 5 ((lock up).set (partFld 0) 1)).ldState 7 = 5 ∧ (setLd 0 8 up).ldState 0 = 8 ∧ (lock { up with pkg := .fault }).pkg ≠ .service
    ∧ bits (1 : W32).toNat 0 3 = 1 ∧ bits (3 : W32).toNat 0 3 ≠ 1 := by
  intro lock
  and_intros <;> decide +kernel
theorem test_rig_start_codes : let lock := fun (s : State) => s.set Reg.PKG_ID_LOCK 1
    [up, lock { up with pkg := .fault }, lock up, setLd 7 5 ((lock up).set (partFld 0) 1)].map
      (fun s => (after (.rigStart ⟨0, 1⟩) s).get (Reg.RIG_ERROR_CODE 0)) = [0x07, 0x08, 0x09, 0x21] := by decide +kernel
/-- 03 R121: a write that asks for more than one thing is ignored. -/
theorem test_rig_ctrl_ignored : (after (.rigStart ⟨0, 3⟩) up).ldState 0 = 0 ∧ (after (.rigAbort ⟨0, 6⟩) (setLd 0 1 up)).ldState 0 = 1
    ∧ (after (.rigRelease ⟨0, 6⟩) (setLd 0 6 up)).ldState 0 = 6 := by decide +kernel
theorem witness_RigFetchAndAbort : (setLd 0 1 up).ldState 0 = 1 ∧ (setLd 0 4 up).ldState 0 = 4 ∧ (setLd 0 5 up).ldState 0 = 5 ∧ up.ldState 0 = 0
    ∧ up.pkg ≠ .boot ∧ bits (2 : W32).toNat 0 3 = 2 ∧ bits (6 : W32).toNat 0 3 ≠ 2 ∧ (powered 0).rig 0 = { Rig.init with image := some powerImage, live := true, place := [(0, 0)] } := by decide +kernel
/-- The bytes of an image that are not zero: a header for partition 0 of package 0 whose SIZE is 8,192, and a table of the ten required
sections, of which only CODE has an entry (03 R81 to R84, R93). -/
def plainBytes : List (Nat × Nat) :=
  [(0, 82), (1, 73), (2, 71), (3, 82), (5, 1), (7, 1), (9, 32), (12, 10), (15, 32), (22, 1), (24, 22), (25, 184), (28, 1), (32, 16),
   (34, 1), (256, 1), (258, 8), (260, 192), (261, 1), (272, 4), (274, 32), (276, 192), (277, 1), (288, 5), (290, 8), (292, 192),
   (293, 1), (304, 6), (309, 2), (312, 68), (316, 1), (320, 7), (322, 8), (324, 192), (325, 1), (336, 8), (338, 8), (340, 192), (341, 1),
   (352, 9), (354, 32), (356, 192), (357, 1), (368, 16), (370, 32), (372, 192), (373, 1), (384, 17), (386, 64), (388, 192), (389, 1),
   (400, 18), (402, 96), (404, 192), (405, 1), (512, 64), (516, 4)]
/-- A package that verifies an image with the given bytes, its all-zero signer enrolled. -/
def verifying (bytes : List (Nat × Nat)) : State :=
  { (up.set (Reg.RIG_SRC_LEN_LEN 0) 8192 |> setLd 0 2) with
    mem := bytes.map fun x => (imageSlot 0 + x.1, BitVec.ofNat 8 x.2), sec := { Sec.init with rigKeys := [(0, List.replicate 32 0)] } }
/-- What the first checks look at: magic, kind, format, size, and the signer. -/
def seen (s : State) : Option (Nat × Nat × Nat × Nat × Bool) :=
  (slotRead [] 0 (s.srcLen 0) { s with out := [] }).1.map fun img =>
    (leAt img 0 4, leAt img 5 1, leAt img 6 2, leAt img 8 4, decide (tget [] s.sec.rigKeys 0 = (img.drop 0x40).take 32))
/-- The slot's image is read, and each check is the first that fails in one of these: all zero, only the magic, no size, another signer;
and one that fails none of them. -/
theorem witness_RigVerifyOrder : [verifying [], verifying (plainBytes.take 4), verifying (plainBytes.take 6),
      { verifying plainBytes with sec := Sec.init }, verifying plainBytes].map seen
    = [some (0, 0, 0, 0, true), some (0x52474952, 0, 0, 0, true), some (0x52474952, 1, 0x100, 0, true), some (0x52474952, 1, 0x100, 8192, false),
      some (0x52474952, 1, 0x100, 8192, true)] := by decide +kernel
/-- The image's bytes as VALIDATE reads them, with a signature of zeros. -/
def plainImage : List Byte := (upFrom 0 640).map (fun i => BitVec.ofNat 8 (tget 0 plainBytes i)) ++ List.replicate 3328 0
def validating : State := { (setLd 0 3 up).set (Reg.RIG_SRC_LEN_LEN 0) 3968 with mem := plainBytes.map fun x => (imageSlot 0 + x.1, BitVec.ofNat 8 x.2) }
/-- Where no line is under a key, a line reads as its bytes. -/
theorem clear_of_no_keys {s : State} (hk : s.memKey = []) (hm : s.sec.mem = []) (n : Nat) : s.lineClear n = true := by
  have h : ∀ i, s.slotKey n i = 0 := by
    intro i
    unfold State.slotKey
    rw [hm]
    split
    · simp only [tget]
      split <;> rfl
    · rfl
  simp [State.lineClear, State.readKey, hk, h, tget]
theorem memBytes_raw {s : State} (hk : s.memKey = []) (hm : s.sec.mem = []) (o n : Nat) : s.memBytes o n = s.rawBytes o n := by
  rw [State.memBytes, if_pos]
  exact List.all_eq_true.2 fun x _ => clear_of_no_keys hk hm x
theorem slotLines_clean {s : State} (hl : s.memCheck = []) (ha : s.det.armed = none) (l : List Nat) :
    ∀ acc, slotLines [] l acc s = (some (acc ++ l.flatMap fun n => s.memBytes (n * 64) 64), s) := by
  induction l with
  | nil => intro acc; simp [slotLines]
  | cons n r ih =>
    intro acc
    have h : s.lineCheck [] n = 0 := by simp [State.lineCheck, State.lineFails, hl, ha, tget]
    simp [slotLines, checkLine, h, ih]
theorem upFrom_add : ∀ m a n, upFrom a (m + n) = upFrom a m ++ upFrom (a + m) n
  | 0, a, n => by simp [upFrom]
  | m + 1, a, n => by
    have := upFrom_add m (a + 1) n
    simp only [Nat.add_right_comm m 1 n, upFrom, this, List.cons_append]
    rw [show a + 1 + m = a + (m + 1) by omega]
theorem rawBytes_add (s : State) (o m n : Nat) : s.rawBytes o (m + n) = s.rawBytes o m ++ s.rawBytes (o + m) n := by
  simp only [State.rawBytes, upFrom_add, List.map_append]
theorem lines_bytes (s : State) : ∀ k n, (upFrom n k).flatMap (fun n => s.rawBytes (n * 64) 64) = s.rawBytes (n * 64) (64 * k)
  | 0, _ => rfl
  | k + 1, n => by
    rw [upFrom, List.flatMap_cons, lines_bytes s k (n + 1), Nat.mul_add, Nat.add_comm (64 * k), rawBytes_add, Nat.add_mul]
theorem tget_shift (c i : Nat) (t : List (Nat × Nat)) :
    tget 0 (t.map fun x => (c + x.1, BitVec.ofNat 8 x.2)) (c + i) = BitVec.ofNat 8 (tget 0 t i) := by
  induction t with
  | nil => rfl
  | cons x r ih =>
    by_cases e : x.1 = i
    · simp [tget, e]
    · simp only [List.map_cons, tget, if_neg e, if_neg (by omega : ¬c + x.1 = c + i), ih]
theorem upFrom_shift (c : Nat) : ∀ n a, upFrom (c + a) n = (upFrom a n).map (c + ·)
  | 0, _ => rfl
  | n + 1, a => by rw [upFrom, upFrom, List.map_cons, ← upFrom_shift c n (a + 1), Nat.add_assoc]
theorem tget_above (t : Memory) (k : Nat) (h : ∀ x ∈ t, x.1 < k) : tget 0 t k = 0 := by
  induction t with
  | nil => rfl
  | cons x r ih =>
    have hx := h x (by simp)
    simp only [tget, if_neg (by omega : ¬x.1 = k)]
    exact ih fun y hy => h y (by simp [hy])
theorem mem_above (s : State) (o n : Nat) (h : ∀ x ∈ s.mem, x.1 < o) : s.rawBytes o n = List.replicate n 0 := by
  induction n generalizing o with
  | zero => rfl
  | succ n ih =>
    have := ih (o + 1) (fun x hx => by have := h x hx; omega)
    simp only [State.rawBytes] at this
    simp only [State.rawBytes, upFrom, List.map_cons, List.replicate_succ, this, State.memByte, tget_above s.mem o h]
theorem plain_read : slotRead [] 0 (validating.srcLen 0) { validating with out := [] } = (some plainImage, { validating with out := [] }) := by
  have h1 : linesOf (imageSlot 0) (validating.srcLen 0) = upFrom (imageSlot 0 / 64) 62 := by decide +kernel
  have h2 : validating.srcLen 0 = 3968 := by decide +kernel
  have h3 : ({ validating with out := [] } : State).rawBytes (imageSlot 0 / 64 * 64) (64 * 62) = plainImage := by
    have : ({ validating with out := [] } : State).rawBytes (imageSlot 0) 640 = (upFrom 0 640).map (fun i => BitVec.ofNat 8 (tget 0 plainBytes i)) := by
      have := upFrom_shift (imageSlot 0) 640 0
      rw [State.rawBytes, show imageSlot 0 = imageSlot 0 + 0 from rfl, this, List.map_map]
      exact List.map_congr_left fun i _ => tget_shift _ _ _
    have t := mem_above ({ validating with out := [] } : State) (imageSlot 0 + 640) 3328 (by decide +kernel)
    rw [show imageSlot 0 / 64 * 64 = imageSlot 0 from rfl, show 64 * 62 = 640 + 3328 from rfl]
    rw [rawBytes_add, this, t]
    rfl
  have hn : plainImage.length = 3968 := by simp only [plainImage, List.length_append, List.length_map, List.length_replicate]; decide +kernel
  have h4 : (upFrom (imageSlot 0 / 64) 62).flatMap (fun n => ({ validating with out := [] } : State).memBytes (n * 64) 64)
      = (upFrom (imageSlot 0 / 64) 62).flatMap fun n => ({ validating with out := [] } : State).rawBytes (n * 64) 64 := by
    simp only [memBytes_raw (s := { validating with out := [] }) rfl rfl]
  rw [slotRead, h1, slotLines_clean rfl rfl, h4, lines_bytes, h3, h2]
  simp [List.take_of_length_le (Nat.le_of_eq hn)]
theorem plain_binding (s : State) (hs : s.get Reg.PKG_ID_ID = 0) : checkBinding s 0 (leAt plainImage 0 256) = none := by
  have h : fieldAt (leAt plainImage 0 256) 0x1A 1 = 0 := by decide +kernel
  have e : ∀ b : Bool, b = true → need b 0x0B = none := by intro b h; simp [need, h]
  have h2 : (fieldAt (leAt plainImage 0 256) 0x18 2 == 0xB816) = true := by decide +kernel
  unfold checkBinding
  simp only [h, h2, hs]
  rw [e _ (by simp)]
  decide +kernel
/-- VALIDATE passes an image without roles, and refuses it in a package of another ID. -/
theorem witness_RigValidateAndPlace : validating.ldState 0 = 3
    ∧ (∃ v, slotRead [] 0 (validating.srcLen 0) { validating with out := [] } = (some plainImage, v) ∧ validate v 0 plainImage = none)
    ∧ validate (up.set Reg.PKG_ID_ID 5) 0 plainImage = some ⟨0x06, 0xFF, 0xFFFFFFFF, none⟩ := by
  refine ⟨by decide +kernel, ⟨_, plain_read, ?_⟩, by decide +kernel⟩
  unfold validate
  rw [plain_binding _ (by decide +kernel)]
  decide +kernel
/-- A staged image whose role stands, and one whose only flight is fenced and has no alternate. -/
def staged (st : Nat) : State := (setLd 0 st up).setRig 0 { Rig.init with image := some powerImage, place := [(0, 0)] }
theorem witness_RigValidateAndPlace_placement : (staged 4).ldState 0 = 4 ∧ ((staged 4).rig 0).image = some powerImage
    ∧ (staged 4).placement 0 powerImage = .inl [(0, 0)] ∧ powerImage.standing [(0, 0)] = [(0, 0)] ∧ (staged 4).get (Reg.DOMAIN_STATE_STATE 0) = 3
    ∧ ({ staged 4 with fence := { Fence.init with flights := [(0, 1)] } } : State).placement 0 powerImage = .inr 0 := by decide +kernel
theorem witness_RigCommits : (staged 5).ldState 0 = 5 ∧ ((staged 5).rig 0).image = some powerImage ∧ (staged 5).placement 0 powerImage = .inl [(0, 0)]
    ∧ powerImage.standing [(0, 0)] = [(0, 0)] ∧ (∀ x ∈ powerImage.standing ((staged 5).rig 0).place, x.2 < 1184)
    ∧ (staged 5).get (Reg.DOMAIN_STATE_STATE 0) = 3 ∧ ((staged 5).set (Reg.DOMAIN_STATE_STATE 0) 1).get (Reg.DOMAIN_STATE_STATE 0) ≠ 3
    ∧ tget 0 (staged 5).power.waking 0 = 0
    ∧ ({ staged 5 with fence := { Fence.init with flights := [(0, 1)] } } : State).placement 0 powerImage = .inr 0 := by decide +kernel
theorem test_commit : let r : Rigging := ⟨0, [(1, [gangEntry 0 0 0 0])], []⟩
    let u := after (.rigApplyComplete 0) (((setLd 0 5 up).setRig 0 { Rig.init with image := some r, place := [(0, 0)] }).set (Reg.DOMAIN_STATE_STATE 0) 1)
    (u.ldState 0, u.partState 0, u.pkg) = (6, 2, .service) := by decide +kernel
theorem witness_RigReleases : (setLd 0 6 (powered 0)).ldState 0 = 6 ∧ up.pkg ≠ .boot ∧ up.ldState 0 ≠ 6
    ∧ (setLd 0 8 up).ldState 0 = 8 ∧ (setLd 0 8 up).woundDown 0 = true ∧ ((setLd 0 8 up).rig 0).scrubAfter = false ∧ up.ldState 0 ≠ 8
    ∧ bits (4 : W32).toNat 0 3 = 4 ∧ bits (5 : W32).toNat 0 3 ≠ 4
    ∧ (setLd 0 8 (powered 0) |>.setTread 0 { Tread.init with st := .run }).woundDown 0 = false := by decide +kernel
/-- An image of one 64-byte line with role 0 on flight 0 and flight 5 in STANDBY as its alternate. -/
def altImage : Rigging := ⟨0x20 * 2 ^ 120 + 64 * 2 ^ 64, [(1, [gangEntry 0 0 0 0, gangEntry 5 0x7FF 4 0]), (4, [stageEntry 0 0xFFFF 0xFFFF 0xFFFF 0xFFFF 1 1 0 0 3]),
  (8, [vdomEntry 0 0 70 1250 50]), (0xA, [5 * 2 ^ 11 + 0x7FF * 2 ^ 22 + 0x7FF * 2 ^ 33])], []⟩
/-- Tread (15, 15) of flight 0 is fenced, and its row's shift is the first of two re-rigs of partition 0. -/
def shifting (start : Nat) : State :=
  { powered 0 with rigs := [(0, { ((powered 0).rig 0) with image := some altImage, rerigs := [.row 0 15 15, .role 0 0], rerigStart := start, rerigMade := start != 0 })], fence := ⟨[(15 * 32 + 15, 1)], [], []⟩ }
/-- The first line of partition 0's slot fails in both copies. -/
def lostLine : List (Nat × Nat) := [(imageSlot 0 / 64, 2), (imageSlot 0 / 64 + 2 ^ 22, 2)]
theorem witness_RowShifts : ((shifting 0).rig 0).rerigs = .row 0 15 15 :: [.role 0 0] ∧ ((shifting 0).rig 0).rerigStart = 0
    ∧ (shifting 0).flightRole? 0 = some (0, 0, 0) ∧ (shifting 0).flightFenced 0 = false ∧ (15 : Nat) < 16
    ∧ fieldAt ((shifting 0).imageOf 0).hdr 8 4 = 64
    ∧ (slotRead [] 0 64 (shiftRow 0 15 15 (beginRerig 0 (State.at_ 5 { shifting 0 with out := [] })))).1.isSome = true
    ∧ (slotRead lostLine 0 64 (shiftRow 0 15 15 (beginRerig 0 (State.at_ 5 { shifting 0 with out := [] })))).1 = none := by decide +kernel
/-- 03 R119: a slot line lost in both copies leaves the role without a flight. -/
theorem test_row_shift_lost : let u := after (.rerigRowShift 5 ⟨0, lostLine⟩) (shifting 0)
    u.roleFlight 0 0 0 = none ∧ ((u.ring 0).pend.any fun x => x.code == 0x202) = true := by decide +kernel
/-- 04 R160: a row shift at column 15 sets the row's byte to 0x8F, and column 16 takes over. -/
theorem test_row_shift : let u := after (.rerigRowShift 5 ⟨0, []⟩) (shifting 0)
    u.rowByte 0 15 = 0x8F ∧ (u.tread (15 * 32 + 16)).st = .halt ∧ u.physCol 0 15 15 = 16 ∧ u.physCol 0 15 14 = 14 := by decide +kernel
/-- Flight 0 is fenced, and a role move of role 0 is first. -/
def moving (r : Rigging) : State :=
  { loadedWith r with rigs := [(0, { Rig.init with image := some r, live := true, place := [(0, 0)], rerigs := [.role 0 0] })], fence := ⟨[], [(0, 1)], []⟩ }
theorem witness_RoleMoves : ((moving altImage).rig 0).rerigs = [.role 0 0] ∧ ((moving altImage).rig 0).rerigStart = 0
    ∧ (∃ x ∈ (moving altImage).roleFlights 0 0, (moving altImage).flightFenced x = true)
    ∧ (let (img, v) := slotRead [] 0 (fieldAt ((moving altImage).imageOf 0).hdr 8 4) (beginRerig 0 (State.at_ 0 { moving altImage with out := [] }));
        img.isSome = true ∧ v.alternate? altImage (v.otherLoads 0) (v.rig 0).place (v.takenBy 0 0) 0 = some 5)
    ∧ (let (img, v) := slotRead [] 0 0 (beginRerig 0 (State.at_ 0 { moving powerImage with out := [] }));
        img.isSome = true ∧ v.alternate? powerImage (v.otherLoads 0) (v.rig 0).place (v.takenBy 0 0) 0 = none) := by
  refine ⟨?_, ?_, ⟨0, ?_⟩, ?_⟩ <;> decide +kernel
theorem test_role_move : (after (.rerigRoleMove 0 0 []) (moving altImage)).roleFlight 0 0 0 = some 5
    ∧ (after (.rerigRoleMove 0 0 []) (moving powerImage)).roleFlight 0 0 0 = none := by decide +kernel
theorem witness_RerigCompletes : ((shifting 1).rig 0).rerigs = .row 0 15 15 :: [.role 0 0] ∧ ((shifting 1).rig 0).rerigStart ≠ 0
    ∧ (shifting 1).fabric.waiting = [] ∧ ({ shifting 1 with fence := ⟨[], [], [(15, 0x8F)]⟩ } : State).rowByte 0 15 = 0x80 + 15
    ∧ (shifting 1).roleFlight 0 0 0 = some 0 ∧ ((shifting 1).rig 0).rerigMade = true ∧ ((shifting 0).rig 0).rerigMade = false
    ∧ (shifting 1).rerigWakes 0 (.role 0 0) = false
    ∧ ((shifting 1).setPower { Power.init with waking := [(0, 51)] } |>.set (Reg.DOMAIN_STATE_STATE 0) 3).rerigWakes 0 (.role 0 0) = true := by
  decide +kernel
/-- 13: a row shift of flight 605 (gallery 4) in place of column 5 leaves the worked example's fields in RERIG_LAST. -/
theorem test_rerig_last : (after (.rerigComplete 7 0) { shifting 1 with fence := ⟨[], [], [(15, 0x8F)]⟩ }).get Reg.RERIG_LAST_KIND = 1 := by decide +kernel

/-! ## Flights -/

/-- A MEMMAP entry (03 R101) over all sixteen stacks at a granule of 4 KiB. -/
def regionEntry (kind slot base size : Nat) : Nat := kind + slot * 2 ^ 8 + 0xFFFF * 2 ^ 32 + base * 2 ^ 64 + size * 2 ^ 128
/-- One role of a shape on flights 0 and 1, in stage slot 0, with a region of 32 MiB at 0. -/
def workImage (shape : Nat) : Rigging :=
  ⟨0, [(1, if shape = 1 || shape = 2 then [gangEntry 0 0 shape 0, gangEntry 1 0 shape 0] else [gangEntry 0 0 shape 0]),
    (4, [stageEntry 0 0xFFFF 0xFFFF 0xFFFF 0xFFFF 1 1 0 0 3]), (8, [vdomEntry 0 0 70 1250 50]), (9, [regionEntry 7 0xFF 0 0x200_0000])], []⟩
/-- A LOAD descriptor (05 R200): word 0 and word 1 by their fields, the source and its strides. -/
def loadDesc (odd dst fmt axis opt slot sc w1 src stride srcSc scStride tag : Nat) : List Nat :=
  [2 * 2 ^ 28 + odd * 2 ^ 27 + dst * 2 ^ 25 + fmt * 2 ^ 22 + axis * 2 ^ 21 + opt * 2 ^ 18 + slot * 2 ^ 8 + sc, w1, src % 2 ^ 32, src / 2 ^ 32, stride,
    srcSc % 2 ^ 32, srcSc / 2 ^ 32, scStride, tag] ++ List.replicate 15 0
/-- A TILE descriptor (05 R199) of one K block of `m` × `n` elements at `slot`, with word 3 and its destination. -/
def tileDesc (opt fmt order k m n slot w3 dst stride tag : Nat) : List Nat :=
  [2 ^ 28 + opt * 2 ^ 24 + fmt * 2 ^ 21 + fmt * 2 ^ 18 + order * 2 ^ 14 + k, slot * 2 ^ 18 + slot * 2 ^ 8, 31 * 2 ^ 24 + (n - 1) * 2 ^ 16 + (m - 1) * 2 ^ 8,
    w3, 0x3F800000, 0, dst % 2 ^ 32, dst / 2 ^ 32, stride, tag * 2 ^ 16] ++ List.replicate 14 0
/-- The role's flights admitted, with flight 0 as given. -/
def working (shape : Nat) (f : Flight) : State :=
  { loadedWith (workImage shape) with flights := [(0, f)], power := { Power.init with admitted := [0, 1] } }.set (Reg.DOMAIN_STATE_STATE 0) 0
    |>.set (Reg.DOMAIN_STATE_STATE 1) 0
def queued (l : List (List Nat)) : State := working 0 { Flight.init with queue := l }

theorem witness_DescriptorPushes : up.controlRight 0 0 true (Reg.FLT_PUSH 1183 23).base 4 = false ∧ (0 : Nat) < 1184 ∧ (22 : Nat) < 23
    ∧ (queued []).controlRight 0 0 true (Reg.FLT_PUSH 0 0).base 4 = false ∧ ((queued (List.replicate 63 [])).flight 0).queue.length < 64
    ∧ 64 ≤ ((queued (List.replicate 64 [])).flight 0).queue.length ∧ ((queued []).flightRole? 0).isSome = true
    ∧ ¬(up.flightRole? 1183).isSome = true := by decide +kernel
theorem test_push : ((after (.fltPush .firmware 0 23 7) (queued [])).flight 0).queue = [List.replicate 23 0 ++ [7]]
    ∧ ((after (.fltPush .pf 0 23 7) (queued [])).flight 0).queue = [] := by decide +kernel
/-- 03 R111: a flight without a role takes no descriptor. -/
theorem test_push_unplaced : ((after (.fltPush .firmware 0 23 7) up).flight 0).queue = [] := by decide +kernel

/-- A LOAD of 16 bytes to the epilogue store; one of a square of E4M3; one with REBLOCK; one with DST 2. -/
def epiLoad : List Nat := loadDesc 0 1 0 0 0 0 0 (16 + 0x10 * 2 ^ 16) 0x40 0 0 0 9
def sqLoad (opt : Nat) : List Nat := loadDesc 0 0 0 0 opt 0 0 0x101 0 32 0x1000 1 9
theorem witness_LoadsFillBuffers : (queued [sqLoad 0]).queueRuns 0 = true ∧ (queued [sqLoad 0]).mayWork 0 = true ∧ (queued [sqLoad 0]).flightWinds 0 = false
    ∧ ((queued [sqLoad 0]).flight 0).nextLoad = some (0, sqLoad 0)
    ∧ (queued []).loadFault 0 (loadDesc 0 2 0 0 0 0 0 0x101 0 32 0x1000 1 9) = 4
    ∧ (queued []).loadFault 0 (sqLoad 0) = 0 ∧ (queued []).loadFault 0 (sqLoad 2) = 0 ∧ (queued []).loadFault 0 (sqLoad 4) = 0
    ∧ (queued []).loadFault 0 epiLoad = 0
    ∧ ((queued []).flight 0).busyTiles 0 (loadOf epiLoad) = false ∧ (loadOf (sqLoad 0)).dst = 0 ∧ (loadOf (sqLoad 2)).reblock = true
    ∧ (loadOf (sqLoad 4)).square = true ∧ (loadOf epiLoad).dst = 1 := by decide +kernel
theorem witness_LoadsFillBuffers_clash : ((([tileDesc 1 0 0 1 128 128 0 0 0 512 0, sqLoad 0].take 1).any fun t => clashes 0 (loadOf (sqLoad 0)) (tileOf t)) = true)
    ∧ ((queued [tileDesc 1 0 0 1 128 128 0 0 0 512 0, sqLoad 0]).flight 0).nextLoad = some (1, sqLoad 0) := by decide +kernel
/-- The pieces of each of these LOADs lie in the region, and every line of them passes. -/
theorem witness_LoadsFillBuffers_reads : ∀ l ∈ [epiLoad, sqLoad 0, sqLoad 2, sqLoad 4], ∀ x ∈ (loadOf l).pieces.1 ++ (loadOf l).pieces.2,
    EngReads (.flight 0) x.1 x.2 (queued []) := by unfold EngReads EngMay Sound; decide +kernel
/-- A LOAD from package 5, which rope 17 reaches on a channel of the partition. -/
def far5 : State := { (queued []) with ropes := [(17, { Rope.init with chans := lset Rope.init.chans 7 { VChan.init 7 with part := some 0 } })] }.set (Reg.ROPE_PEER_PEER_ID 17) 5
  |>.set (Reg.ROPE_PEER_VALID 17) 1
/-- All 64 request credits of that channel are taken. -/
def allSent (s : State) : State :=
  { s with fabric := { s.fabric with remote := (upFrom 0 64).map fun i => ⟨17, 7, i, 0, ⟨.core 0, 0, 0, 4, 0, []⟩⟩ } }
theorem witness_LoadsFillBuffers_far : far5.route? 0 5 = some (17, 7) ∧ far5.flightPart 0 = some 0 ∧ far5.outstanding 17 7 = 0
    ∧ (allSent far5).outstanding 17 7 = 64
    ∧ fabPkg (loadOf (loadDesc 0 1 0 0 0 0 0 (16 + 0x10 * 2 ^ 16) (5 * 2 ^ 50 + 0x40) 0 0 0 9)).src = 5
    ∧ far5.loadFault 0 (loadDesc 0 1 0 0 0 0 0 (16 + 0x10 * 2 ^ 16) (5 * 2 ^ 50 + 0x40) 0 0 0 9) = 0 := by decide +kernel
theorem witness_LoadsEnd : ((working 0 { Flight.init with loads := [epiLoad] }).flight 0).loads = epiLoad :: [] ∧ ((queued []).flight 0).loads = []
    ∧ ((queued []).flight 0).nextLoad = none ∧ up.queueRuns 1183 = false
    ∧ ({ queued [sqLoad 0] with power := Power.init } : State).mayWork 0 = false := by decide +kernel
/-- 05 R172: element (0, 1) of a square lies at byte 1 of its slot once the LOAD ends. -/
theorem test_load : let s := { queued [sqLoad 0] with mem := [(1, 7), (0x1000, 127)] }
    let f := (after (.loadStart 0 [] (0, [], [])) s).flight 0
    tget 0 f.sb 1 = 7 ∧ tget 0 f.sb scaleBase = 127 ∧ f.loads = [sqLoad 0] ∧ f.queue = [] := by decide +kernel

/-- Every mark of the buffer written. -/
def full (l : List (List Nat)) (a : ArrayData) (shape : Nat) : State :=
  working shape { Flight.init with queue := l, arrays := [(0, a)], written := (upFrom 0 2).map (fun i => (i, true)) ++ (upFrom 2 30).map fun i => (i, true) }
/-- A QUARTER tile of one BF16 block, 64 × 64, that drains to the fabric: with no fault, with CONT, with M_VALID over 64, without operands. -/
def bfTile (opt order : Nat) : List Nat := tileDesc opt 5 order 1 2 2 0 0 0x2000 8 0x1234
def open_ (running : Bool) (d : List Nat) : ArrayData := { ArrayData.init with tile := some ⟨bfTile 1 0, d, 0, 1, running, running, 0⟩ }
/-- 02 R55: no LOAD starts in a flight that waits in QUIET for a token. -/
theorem test_load_waits : ((after (.loadStart 0 [] (0, [], [])) { queued [sqLoad 0] with power := Power.init }).flight 0).queue = [sqLoad 0] := by
  decide +kernel
theorem witness_TilesAccumulate : let s := full [bfTile 1 0] ArrayData.init 3
    s.queueRuns 0 = true ∧ s.flightShape 0 = 3 ∧ s.nextTile 0 0 = some (0, bfTile 1 0) ∧ (s.array 0 0).tile = none ∧ s.flightWinds 0 = false
    ∧ s.tileFault 0 (bfTile 1 0) = 0 ∧ s.tileWaits 0 0 = (false, false, false) ∧ (tileOf (bfTile 1 0)).order = 0 ∧ (tileOf (bfTile 1 1)).order = 1
    ∧ s.tileFault 0 (bfTile 1 1) = 0 ∧ (full [bfTile 1 1] ArrayData.init 3).tileWaits 0 0 = (false, false, false)
    ∧ s.tileFault 0 (tileDesc 1 5 0 1 65 2 0 0 0x2000 8 0) = 3 := by decide +kernel
theorem witness_TilesAccumulate_bank : TblWf 0 (ArrayData.init.bank 0) := by unfold TblWf; decide
theorem witness_TilesAccumulate_waits : let s := full [bfTile 1 0] ArrayData.init 3
    (queued [bfTile 1 0]).tileFault 0 (bfTile 1 0) = 7 ∧ ((queued [bfTile 1 0]).tileWaits 0 0).1 = false
    ∧ ((working 3 { Flight.init with queue := [bfTile 1 0], loads := [loadDesc 0 0 5 0 0 0 0 0x101 0 64 0 0 0] }).tileWaits 0 0).1 = true
    ∧ ((s.set Reg.PWR_STATUS_ADMIT_HELD 1).tileWaits 0 0).2 ≠ (false, false)
    ∧ (∀ r, ((full [bfTile 3 0] (open_ false (bfTile 0 0)) 3).array 0 0).tile = some r → r.running = false)
    ∧ (full [bfTile 3 0] (open_ false (bfTile 0 0)) 3).tileFault 0 (bfTile 3 0) = 0
    ∧ (tileOf (bfTile 3 0)).cont = true ∧ ((full [bfTile 3 0] (open_ false (bfTile 0 0)) 3).array 0 0).open? ≠ none := by
  refine ⟨?_, ?_, ?_, ?_, fun r h => ?_, ?_⟩
  iterate 4 exact (by decide +kernel)
  rotate_left
  · decide +kernel
  have e : ((full [bfTile 3 0] (open_ false (bfTile 0 0)) 3).array 0 0).tile = some ⟨bfTile 1 0, bfTile 0 0, 0, 1, false, false, 0⟩ := by decide +kernel
  rw [e] at h
  cases h
  rfl
/-- A tile that has accumulated behind another tile's drain. -/
def behind (k : Nat) : ArrayData := { open_ true (tileDesc 1 5 0 1 2 2 0 (k * 2 ^ 30) 0x2000 8 0) with drain := some ⟨bfTile 1 0, bfTile 1 0, 1, 1, false, true, 0⟩ }
/-- Tiles of the three kinds that have accumulated, one that is not running, and one behind a drain. -/
theorem witness_TilesComplete : let t := fun k => tileDesc 1 5 0 1 2 2 0 (k * 2 ^ 30) 0x2000 8 0
    (∀ k, k < 3 → (tileOf (t k)).kind = k) ∧ ((full [] (open_ true (t 0)) 3).array 0 0).tile = some ⟨bfTile 1 0, t 0, 0, 1, true, true, 0⟩
    ∧ ((full [] (open_ true (t 0)) 3).array 0 0).drain = none ∧ (open_ false (t 0)).tile = some ⟨bfTile 1 0, t 0, 0, 1, false, false, 0⟩
    ∧ ((full [] (behind 0) 3).array 0 0).drain ≠ none ∧ ((full [] (behind 0) 3).array 0 0).tile = some ⟨bfTile 1 0, t 0, 0, 1, true, true, 0⟩ := by
  decide +kernel
/-- A drain of 2 × 2 FP32 elements to 0x2000, each row 8 bytes after the one before. -/
def draining : State := full [] { ArrayData.init with drain := some ⟨bfTile 1 0, bfTile 1 0, 0, 1, false, true, 0⟩, bank0 := [(accKey 1 1, 0x40400000)] } 3
theorem witness_DrainsWriteTiles : (draining.array 0 0).drain = some ⟨bfTile 1 0, bfTile 1 0, 0, 1, false, true, 0⟩
    ∧ (draining.array 0 0).failed = false ∧ draining.drainWaits 0 (tileOf (bfTile 1 0)) = false ∧ (draining.array 0 0).tile = none ∧ (tileOf (bfTile 1 0)).out < 4 ∧ (tileOf (bfTile 1 0)).stats = false
    ∧ (tileOf (bfTile 1 0)).n ≤ partDim 3 ∧ (tileOf (bfTile 1 0)).m ≤ partDim 3 ∧ (tileOf (bfTile 1 0)).n * 4 ≤ (tileOf (bfTile 1 0)).stride ∧ fabCls (tileOf (bfTile 1 0)).dst = 0
    ∧ fabOff (tileOf (bfTile 1 0)).dst + 256 * (tileOf (bfTile 1 0)).stride ≤ yuseonSize := by decide +kernel
theorem witness_DrainsWriteTiles_writes : Uninjected draining ∧ ∀ row ∈ (partsOf 3 0).flatMap (fun p => epiRows (draining.flight p.gf) 3 (tileOf (bfTile 1 0))
      ((draining.array 0 0).bank 0) p),
    EngWrites (.flight 0) ((tileOf (bfTile 1 0)).dst + row.row * (tileOf (bfTile 1 0)).stride + row.col * outWidth (tileOf (bfTile 1 0)).out / 8)
      ((tileOf (bfTile 1 0)).n * 4) draining := by unfold Uninjected EngWrites EngMay Sound; decide +kernel
/-- Element (1, 1), 3.0, is at 0x2000 + 8 + 4. -/
theorem test_drain : (after (.drainComplete ⟨0, 0⟩ [] 0 0) draining).memLe 0x200C 4 = 0x40400000 := by decide +kernel
/-- Drains whose writes end OK, at a lost line and with an error. -/
theorem witness_DrainsWriteTiles_status : let t := tileOf (bfTile 1 0)
    let rows := (partsOf 3 0).flatMap fun p => epiRows (draining.flight p.gf) 3 t ((draining.array 0 0).bank 0) p
    (drainWrites 0 ⟨bfTile 1 0, bfTile 1 0, 0, 1, false, true, 0⟩ rows [] [] 0 draining).1 = 0
    ∧ (drainWrites 0 ⟨bfTile 1 0, bfTile 1 0, 0, 1, false, true, 0⟩ rows [] [(0x80, 2)] 0 draining).1 = 4
    ∧ (drainWrites 0 ⟨bfTile 1 0, bfTile 1 0, 0, 1, false, true, 0⟩ rows [] [] 0 { draining with rigs := [] }).1 = 2 := by decide +kernel
/-- A drain to another package without a request credit, and one whose access has failed. -/
def farRun : TileRun := ⟨bfTile 1 0, tileDesc 1 5 0 1 2 2 0 0 (5 * 2 ^ 50 + 0x2000) 8 0, 0, 1, false, true, 0⟩
def farDraining (failed : Bool) : State :=
  allSent { far5 with rigs := draining.rigs, flights := [(0, { Flight.init with arrays := [(0, { ArrayData.init with drain := some farRun, failed := failed })] })] }
theorem witness_DrainsWriteTiles_waits : Uninjected (farDraining false) ∧ ((farDraining false).array 0 0).drain = some farRun
    ∧ ((farDraining false).array 0 0).failed = false ∧ (farDraining false).drainWaits 0 (tileOf farRun.desc) = true
    ∧ ((farDraining true).array 0 0).drain = some farRun ∧ ((farDraining true).array 0 0).failed = true := by
  unfold Uninjected
  decide +kernel
/-- Treads of flight 1183 and of the columns 15 and 16, alone, second in their row, and fenced. -/
theorem witness_FaultsFence : Uninjected up ∧ treadOk lastTread = true ∧ treadGf lastTread = 1183 ∧ treadCol lastTread = 16 ∧ up.treadFenced lastTread = false
    ∧ ({ up with fence := ⟨[(lastTread, 1)], [(1183, 1)], []⟩ } : State).treadFenced lastTread = true
    ∧ ({ up with fence := ⟨[(lastTread, 1)], [(1183, 1)], []⟩ } : State).flightFenced 1183 = true
    ∧ ({ up with fence := ⟨[(lastTread, 1)], [], []⟩ } : State).treadFenced (treadId 1183 15 16) = true ∧ treadCol (lastTread - 1) = 15
    ∧ (queued []).fencePart 0 = some (0, 0) ∧ up.fencePart 0 = none := by unfold Uninjected; decide +kernel
/-- 15: TREAD_PARITY is event 0x0303; a parity error of instruction word 3 names 0x1_000C. -/
theorem test_tread_parity : ((after (.treadParity lastTread true 3) up).ring 0).pend.map (fun r => (r.code, r.body)) = [(0x0303, [lastTread, 0x1000C])]
    ∧ (after (.treadParity lastTread true 3) up).rowByte 1183 15 = 0x5F := by decide +kernel

/-! ## Stages and landings -/

/-- LANDING, SEQCUT, and program entries (03 R97, 07 R269, R247 to R249). -/
def landEntry (num kind credits rope vc peer peerLand : Nat) : Nat :=
  num + kind * 2 ^ 9 + credits * 2 ^ 11 + rope * 2 ^ 20 + vc * 2 ^ 25 + peer * 2 ^ 28 + peerLand * 2 ^ 42
def cutEntry (slot count ringOut ringIn kv dkv : Nat) : Nat :=
  slot + count * 2 ^ 8 + ringOut * 2 ^ 32 + ringIn * 2 ^ 48 + kv * 2 ^ 64 + dkv * 2 ^ 96
/-- A program of one layer and two entries: a TILE of role 0 that repeats once, and one that the last micro-batch skips and that is a pass
body. -/
def progNum : Nat :=
  0x5350 + 2 ^ 24 + 2 * 2 ^ 32 + (2 ^ 28 + 2 * 2 ^ (8 * 0x66)) * 2 ^ (8 * 0x120) + (2 ^ 28 + 40 * 2 ^ (8 * 0x64) + 2 ^ (8 * 0x66)) * 2 ^ (8 * 0x1A0)
def progCode : List (List W32) := List.replicate 16256 [] ++ [(upFrom 0 136).map fun i => BitVec.ofNat 32 (bits progNum (32 * i) 32)]
/-- A stage in slot 0 with context 0 and 1, and landings 5 (LOCAL), 6 (LOCAL), 7 (ROPE_OUT), 8 (ROPE_IN) and 9 (LOCAL). -/
def stageImage (flags fwdIn fwdOut bwdIn mb quota : Nat) (cut : List Nat) (code : List (List W32)) : Rigging :=
  ⟨2 * 2 ^ 124 + 77 * 2 ^ 128, [(1, [gangEntry 0 0 0 0]), (4, [stageEntry 0 fwdIn fwdOut bwdIn 0xFFFF mb 2 0 quota flags]),
    (5, [landEntry 5 0 4 0 0 0 0, landEntry 6 0 4 0 0 0 0, landEntry 7 1 4 0 1 9 12, landEntry 8 2 4 0 1 9 12, landEntry 9 0 4 0 0 0 0]),
    (9, [regionEntry 1 0 0 0x20_0000, regionEntry 1 0 0x20_0000 0x20_0000]), (0x13, cut)], code⟩
/-- The stage at work: its step service runs, step 4 is decided, step 5 is the next. -/
def staging (r : Rigging) (g : Stage) (l : Tbl Landing) (c : Tbl Ctx) : State :=
  { loadedWith r with stages := [(0, { g with fStep := 5, bStep := 5 })], landings := l, ctxs := c,
                      svcs := [(0, { Svc.init with state := .running, decided := 4 })] }
def firstLast (quota : Nat) : Rigging := stageImage 3 0xFFFF 5 0xFFFF 1 quota [] []
def oneEntry (e : Entry) : Landing := { Landing.init with ents := [e], limit := 4, credit := 3, owners := [0] }
def fwdEntry : Entry := { Entry.init with step := 5 }

theorem witness_ForwardsAdmitted : let s := staging (firstLast 0) Stage.init [] []
    let t := stageOf (stageEntry 0 0xFFFF 5 0xFFFF 0xFFFF 1 2 0 0 3)
    StageAt 0 0 t s ∧ (s.stage 0).mode = .idle ∧ s.seqRuns 0 0 = true ∧ s.choosesBackward t = false ∧ s.stashBlocked (s.imageOf 0) t = false
    ∧ (s.stage 0).blocked = false ∧ s.forwardWait 0 (s.imageOf 0) t = 0 ∧ s.freeCtx? t = some 0 ∧ namesLanding t.fwdIn = false
    ∧ ({ s with svcs := [] } : State).forwardWait 0 (s.imageOf 0) t = 4 := by unfold StageAt; decide +kernel
theorem witness_ForwardsAdmitted_quota : let s := staging (firstLast 1) Stage.init [] []
    let t := stageOf (stageEntry 0 0xFFFF 5 0xFFFF 0xFFFF 1 2 0 1 3)
    StageAt 0 0 t s ∧ t.quota ≠ 0 ∧ s.stashBlocked (s.imageOf 0) t = false ∧ s.forwardWait 0 (s.imageOf 0) t = 0 := by unfold StageAt; decide +kernel
/-- A stage whose forwards come from landing 6: the expected entry, and one of another step. -/
theorem witness_ForwardsAdmitted_landing : let s := fun e => staging (stageImage 2 6 5 0xFFFF 1 0 [] []) Stage.init [(6, oneEntry e)] []
    let t := stageOf (stageEntry 0 6 5 0xFFFF 0xFFFF 1 2 0 0 2)
    StageAt 0 0 t (s fwdEntry) ∧ namesLanding t.fwdIn = true ∧ (s fwdEntry).forwardWait 0 ((s fwdEntry).imageOf 0) t = 0
    ∧ ((s fwdEntry).landing t.fwdIn).ents = [fwdEntry] ∧ (s fwdEntry).expects 0 5 0 0 false false fwdEntry = true
    ∧ (s Entry.init).expects 0 5 0 0 false false Entry.init = false := by unfold StageAt; decide +kernel
def stashedCtx (verified : Bool) (spill : Option Nat) : Ctx := { Ctx.init with state := .stashed, step := 5, verified := verified, spill := spill, thr := 128, held := 128 }
theorem witness_BackwardsStart : let s := fun v => staging (firstLast 0) { Stage.init with ring := [0] } [] [(0, stashedCtx v none)]
    let t := stageOf (stageEntry 0 0xFFFF 5 0xFFFF 0xFFFF 1 2 0 0 3)
    StageAt 0 0 t (s true) ∧ (s true).seqRuns 0 0 = true ∧ (s true).choosesBackward t = true ∧ ((s true).svc 0).state ≠ .halted
    ∧ (s true).backwardCtx t = some 0 ∧ ((s true).ctx 0).verified = true ∧ ((s false).ctx 0).verified = false ∧ t.last = true
    ∧ (s true).bucketsLeft 0 = true ∧ ((s true).ctx 0).mbSeq + 1 = t.mbPerStep
    ∧ (staging (firstLast 0) Stage.init [] []).choosesBackward t = false
    ∧ ((s false).stage 0).ring.find? (fun c => ((s false).ctx c).state == .stashed && !((s false).ctx c).verified) = some 0 := by
  unfold StageAt; decide +kernel
theorem witness_BackwardsStart_landing : let e : Entry := { fwdEntry with flags := 16 }
    let s := fun e => staging (stageImage 1 0xFFFF 5 6 1 0 [] []) { Stage.init with ring := [0] } [(6, oneEntry e)] [(0, stashedCtx true (some 0))]
    let t := stageOf (stageEntry 0 0xFFFF 5 6 0xFFFF 1 2 0 0 1)
    StageAt 0 0 t (s e) ∧ (s e).choosesBackward t = true ∧ (s e).backwardCtx t = some 0 ∧ t.last = false ∧ ((s e).landing t.bwdIn).ents = [e]
    ∧ (s e).expects 0 5 0 0 true false e = true ∧ (s fwdEntry).expects 0 5 0 0 true false fwdEntry = false := by unfold StageAt; decide +kernel
/-- A stored context's 128 bytes: its lines pass, or line 1 is lost. -/
theorem witness_BackwardsStart_verify : let s := staging (firstLast 1) { Stage.init with ring := [0] } [] [(0, stashedCtx false none)]
    let r := s.imageOf 0
    prefixOf r 0 (r.prog 0 0) = 0 ∧ (s.ctx 0).thr = 128 ∧ (∀ n ∈ linesOf 0 128, s.lineCheck [] n = 0) ∧ (∃ n ∈ linesOf 0 128, s.lineCheck [(1, 2)] n = 2) := by
  refine ⟨?_, ?_, ?_, 1, ?_⟩ <;> decide +kernel
/-- A cut stage of three passes with K, V and dKV extents of 64 bytes. -/
def cutImage : Rigging := stageImage 7 0xFFFF 5 0xFFFF 1 1 [cutEntry 0 3 9 6 64 64] progCode
def cutStage (mode : SeqMode) (ent pass : Nat) (ready : Bool) (l : Tbl Landing) : State :=
  staging cutImage { Stage.init with mode := mode, ent := ent, pass := pass, passReady := ready, ring := [0] } l [(0, stashedCtx true none)]
theorem witness_BackwardsStart_cut : (cutStage .idle 0 0 false []).choosesBackward (stageOf (stageEntry 0 0xFFFF 5 0xFFFF 0xFFFF 1 2 0 1 7)) = true
    ∧ (stageOf (stageEntry 0 0xFFFF 5 0xFFFF 0xFFFF 1 2 0 1 7)).seqCut = true ∧ cutImage.cut? 0 = some (cutOf (cutEntry 0 3 9 6 64 64)) := by decide +kernel

/-- The stage that expands the program, at entry `ent`. -/
def expanding (mode : SeqMode) (ent : Nat) (q : List (List Nat)) : State :=
  { staging (stageImage 3 0xFFFF 5 0xFFFF 1 0 [] progCode) { Stage.init with mode := mode, ent := ent } [] [(0, { Ctx.init with state := .fwd, step := 5 })] with
    flights := [(0, { Flight.init with queue := q })] }
theorem witness_ProgramsExpand : let t := stageOf (stageEntry 0 0xFFFF 5 0xFFFF 0xFFFF 1 2 0 0 3)
    let s := expanding .fwd 0 []
    let q := (s.imageOf 0).prog 0 0
    StageAt 0 0 t s ∧ s.seqRuns 0 0 = true ∧ s.passWaits (s.imageOf 0) 0 q = false ∧ q.entries.length = 2 ∧ (lget noLayer q.layers 0).first = 0
    ∧ (storeLayer 0 (s.imageOf 0) t 0 { s with out := [] }).skipped 0 t q (lget noEntry q.entries 0) = false
    ∧ (expanding .fwd 1 []).skipped 0 t q (lget noEntry q.entries 1) = true ∧ s.roleFlight 0 (lget noEntry q.entries 0).role 0 = some 0
    ∧ (s.flightRole? 0).isSome = true
    ∧ ((expanding .recompute 2 []).flightsQuiet 0) = true ∧ 64 ≤ ((expanding .fwd 0 (List.replicate 64 [])).flight 0).queue.length := by
  unfold StageAt; decide +kernel
/-- The first entry's first repetition starts a tile and does not end it. -/
theorem test_expand : (((after (.seqDescriptorPush 0) (expanding .fwd 0 [])).flight 0).queue.map fun d => dword d 0) = [2 ^ 28]
    ∧ ((after (.seqDescriptorPush 0) (expanding .fwd 0 [])).stage 0).rep = 1 := by decide +kernel
/-- A cut stage whose last pass's RING entry is still unpushed. -/
def unpushedPass : State :=
  let s := cutStage .fwd 2 1 false []
  { s with stages := [(0, { s.stage 0 with outs := [(9, { fwdEntry with flags := 32, pass := 1 })] })] }
theorem witness_ProgramsExpand_passes : let s := cutStage .fwd 2 1 false []
    let q := (s.imageOf 0).prog 0 0
    s.passWaits cutImage 0 q = true ∧ q.bodyEnd = 2 ∧ (s.landing 6).ents = [] ∧ (s.ctx 0).tag < 16
    ∧ (let e : Entry := { fwdEntry with flags := 32, pass := 1 };
        ((cutStage .fwd 2 1 false [(6, oneEntry e)]).landing 6).ents = [e] ∧ (cutStage .fwd 2 1 false [(6, oneEntry e)]).expects 0 5 0 1 false true e = true)
    ∧ (cutStage .fwd 2 1 false [(6, oneEntry fwdEntry)]).expects 0 5 0 1 false true fwdEntry = false
    ∧ ((cutStage .bwd 2 2 false [(9, { Landing.init with owners := [0, 0] })]).landing 9).owners.length = 2
    ∧ (∃ o ∈ ((unpushedPass.stage 0).outs), o.2.ring = true) ∧ (unpushedPass.stage 0).passReady = false ∧ unpushedPass.seqRuns 0 0 = true
    ∧ (cutStage .fwd 2 2 true []).flightsQuiet 0 = true ∧ s.landCfg? 6 = some (0, landOf (landEntry 6 0 4 0 0 0 0)) := by decide +kernel
/-- In a backward the program of direction 1 applies; without a body its passes end at entry 0. -/
theorem witness_ProgramsExpand_backward : (((cutStage .bwd 0 2 false []).imageOf 0).prog 0 1).bodyEnd = 0 := by decide +kernel

def outgoing (n : Nat) (l : Landing) : State :=
  { staging (firstLast 0) { Stage.init with mode := .fwd, pushed := true, outs := [(n, fwdEntry)] } [(n, l)] [(0, { Ctx.init with state := .fwd })] with
    treads := (State.flightTreads State.reset 0).map fun t => (t, { Tread.init with st := .halt }) }
theorem witness_BoundariesAndLandings : let s := outgoing 5 { Landing.init with limit := 1, credit := 1 }
    s.seqRuns 0 0 = true ∧ (s.stage 0).outs = [(5, fwdEntry)] ∧ s.flightsQuiet 0 = true ∧ s.treadsHalted 0 = true ∧ s.entryOwner 0 fwdEntry = 1
    ∧ s.landReady 5 = true ∧ (outgoing 5 Landing.init).landReady 5 = false ∧ s.landCfg? 5 = some (0, landOf (landEntry 5 0 4 0 0 0 0))
    ∧ (outgoing 7 { Landing.init with credit := 1 }).landReady 7 = true ∧ (landOf (landEntry 7 1 4 0 1 9 12)).kind = 1 := by decide +kernel
/-- The boundary of a forward and of a backward that took an entry of landing 6, of a context whose entries are taken back or not. -/
def ending (mode : SeqMode) (out : Nat) : State :=
  { outgoing 5 Landing.init with stages := [(0, { Stage.init with mode := mode, pushed := true, taken := [6] })], landings := [(6, { Landing.init with owners := [0] })],
                                 ctxs := [(0, { Ctx.init with state := if mode = .fwd then .fwd else .bwd, out := out })] }
theorem witness_BoundariesAndLandings_boundary : ((ending .fwd 0).stage 0).mode = .fwd ∧ ((ending .bwd 1).stage 0).mode = .bwd ∧ (ending .bwd 1).flightsQuiet 0 = true
    ∧ (ending .bwd 1).treadsHalted 0 = true ∧ (ending .bwd 1).stageStopped 0 = false ∧ ((ending .bwd 1).ctx 0).out ≠ 0 ∧ ((ending .bwd 0).ctx 0).out = 0
    ∧ lget 0 ((ending .fwd 0).landing 6).owners 0 ≠ 0 + 1 := by decide +kernel
theorem witness_BoundariesAndLandings_ingest : let s := fun (l : Landing) => staging (stageImage 3 6 5 0xFFFF 1 0 [] []) Stage.init [(6, l)] []
    (s Landing.init).landCfg? 6 = some (0, landOf (landEntry 6 0 4 0 0 0 0)) ∧ ((s Landing.init).imageOf 0).isIngest 6 = true
    ∧ 0 < ((s { Landing.init with credit := 1 }).landing 6).credit ∧ ((s Landing.init).landing 6).credit ≤ 0 ∧ ((s Landing.init).imageOf 0).isIngest 5 = false
    ∧ (s Landing.init).mayWrite .pf (Reg.LAND_LIMIT_LIMIT 6).base = true ∧ (s Landing.init).mayWrite (.vf 0) (Reg.SEQ_QUOTA_QUOTA_MIB 0).base = false
    ∧ (s Landing.init).landCfg? 7 = some (0, landOf (landEntry 7 1 4 0 1 9 12)) ∧ (s Landing.init).landCfg? 8 = some (0, landOf (landEntry 8 2 4 0 1 9 12)) := by
  decide +kernel
/-- 07 R258: a limit cut from 4 to 1 takes the counter from 3 to 0; a limit of 511 is 256. -/
theorem test_land_limit : let s := staging (firstLast 0) Stage.init [(5, { Landing.init with limit := 4, credit := 3 })] []
    ((after (.landLimitWrite .pf 5 1) s).landing 5).credit = 0 ∧ ((after (.landLimitWrite .pf 5 511) s).landing 5).limit = 256 := by decide +kernel

/-! ## Rings and updates -/

/-- Ring descriptor and bucket entries (08 R286, R287), and an UPDATE entry (R298) whose program is image 0. -/
def ringEntry (slot pos r next prev rope vc seg inBase : Nat) : Nat :=
  slot * 2 ^ 8 + pos * 2 ^ 16 + r * 2 ^ 32 + next * 2 ^ 48 + prev * 2 ^ 64 + rope * 2 ^ 80 + vc * 2 ^ 88 + seg * 2 ^ 96 + inBase * 2 ^ 128
def bucketEntry (slot num upd area bytes tiles slotOff : Nat) : Nat :=
  1 + slot * 2 ^ 8 + num * 2 ^ 16 + upd * 2 ^ 32 + area * 2 ^ 64 + bytes * 2 ^ 128 + tiles * 2 ^ 160 + slotOff * 2 ^ 192
def updEntry (state half : Nat) : Nat := 0xFFFF * 2 ^ 48 + state * 2 ^ 128 + half * 2 ^ 192
/-- Position 0 of a ring of `n` packages on rope 1, channel 2, with one bucket of 128 bytes for each, one tile each. -/
def ringImage (n : Nat) : Rigging :=
  ⟨2 * 2 ^ 124 + 77 * 2 ^ 128, [(1, [gangEntry 0 0 0 0]), (4, [(stageEntry 0 0xFFFF 0xFFFF 0xFFFF 0xFFFF 1 1 0 0 3 + 6)]),
    (9, [regionEntry 0 0xFF 0x40_0000 0x20_0000, regionEntry 2 0 0x20_0000 0x20_0000, regionEntry 3 0xFF 0x60_0000 0x20_0000]),
    (0x10, [ringEntry 0 0 n 9 9 1 2 4096 0x20_8000, bucketEntry 0 0 0 0x20_0000 (128 * n) 1 0x40_0000]), (0x12, [updEntry 0x60_0000 0x1000])], [[BitVec.ofNat 32 (0x3F * 2 ^ 26 + 1)]]⟩
/-- The ring at step 5, its channel open. -/
def ringing (n : Nat) (d : Red) : State :=
  { loadedWith (ringImage n) with reds := [(0, { d with step := 5, rStep := 5, gStep := 5 })], svcs := [(0, { Svc.init with state := .running, decided := 4 })], ropes := [(1, { Rope.init with chans := lset Rope.init.chans 2 { VChan.init 2 with part := some 0 } })] }
def ringCfg (n : Nat) : RingCfg := ringOf (ringEntry 0 0 n 9 9 1 2 4096 0x20_8000)
def ringBucket (n : Nat) : Bucket := bucketOf (bucketEntry 0 0 0 0x20_0000 (128 * n) 1 0x40_0000)
theorem witness_ReductionsLeave : RingAt 0 0 (ringCfg 2) (ringing 2 Red.init) ∧ (ringing 2 Red.init).ringRuns 0 0 = true ∧ Uninjected (ringing 2 Red.init)
    ∧ ((ringing 2 Red.init).imageOf 0).buckets 0 = [ringBucket 2] ∧ (ringBucket 2).tiles = 1 ∧ (ringCfg 2).r ≠ 1
    ∧ RingAt 0 0 (ringCfg 1) (ringing 1 Red.init) ∧ (ringCfg 1).r = 1 ∧ ((ringing 1 Red.init).imageOf 0).buckets 0 = [ringBucket 1]
    ∧ Sound (ringBucket 1).area (ringBucket 1).bytes (ringing 1 Red.init)
    ∧ (1 ≤ tget 0 ((ringing 1 { Red.init with drains := [(0, 1)] }).red 0).drains 0) ∧ tget 0 ((ringing 1 Red.init).red 0).drains 0 < 1
    ∧ (let d := (ringing 2 { Red.init with drains := [(0, 1)] }).red 0;
        1 ≤ tget 0 d.drains 0 ∧ d.entered = d.mb ∧ d.step ≠ 0 ∧ d.mh = 0 ∧ 0 < d.redCr)
    ∧ Sound (segAt (ringCfg 2) (ringBucket 2) (hopShard (ringCfg 2) 0) 0) (segLen (ringCfg 2) (ringBucket 2) 0) (ringing 2 { Red.init with drains := [(0, 1)] })
    ∧ ((ringing 2 { Red.init with drains := [(0, 1)], redCr := 0 }).red 0).redCr ≤ 0 ∧ ((ringing 2 { Red.init with entered := 1 }).red 0).entered ≠ 0 := by
  unfold RingAt Uninjected Sound; decide +kernel
/-- Hop 0 of a ring of two, and hop 1 of a ring of three with a message that came for it. -/
theorem witness_ReductionsLeave_due : let d : Red := { Red.init with entered := 1 }
    let m : RingMsg := { gather := false, step := 5, bucket := 0, hop := 0, seg := 0, data := [] }
    1 < (ringCfg 2).r ∧ ((ringing 2 d).red 0).mb < ((ringing 2 d).red 0).entered ∧ ((ringing 2 d).red 0).mh = 0 ∧ ((ringing 2 d).red 0).redIn = []
    ∧ 0 < ((ringing 2 d).red 0).redCr ∧ Sound (segAt (ringCfg 2) (ringBucket 2) 1 0) 128 (ringing 2 d)
    ∧ ((ringing 3 { d with mh := 1, redIn := [m] }).red 0).mh + 1 < (ringCfg 3).r ∧ ((ringing 3 { d with mh := 1, redIn := [m] }).red 0).redIn = [m]
    ∧ m.step = ((ringing 3 { d with mh := 1, redIn := [m] }).red 0).step ∧ Sound (segAt (ringCfg 3) (ringBucket 3) 1 0) 128 (ringing 3 d)
    ∧ Sound (slotAt (ringCfg 3) false m.slot) 128 (ringing 3 { d with mh := 1, redIn := [m] }) := by
  unfold Sound; decide +kernel
/-- A message of kind RING_DATA for job 77 and stage 6: gather flag, bucket, hop, and 128 bytes. -/
def ringIn (g bucket hop : Nat) : List Byte :=
  leBytes 8 3 ++ leBytes 4 77 ++ leBytes 4 6 ++ leBytes 8 5 ++ leBytes 2 bucket ++ leBytes 2 (hop + 2 ^ 15 * g) ++ leBytes 4 0 ++ List.replicate 16 0
    ++ List.replicate 128 0
theorem witness_RingMessagesArrive : (ringing 2 Red.init).delivers 1 2 = true ∧ (ringing 2 Red.init).ringTarget 1 2 (ringIn 0 0 0) = some 0
    ∧ ((ringing 2 Red.init).red 0).stopped = false ∧ ((ringing 2 Red.init).rig 0).winding = false ∧ (ringMsgOf (ringIn 0 0 0)).step = 5
    ∧ (ringMsgOf (ringIn 0 0 0)).data.length = segLen (ringCfg 2) (ringBucket 2) 0 ∧ ((ringing 2 Red.init).red 0).redIn = []
    ∧ ¬((ringing 2 Red.init).red 0).mh + 1 = (ringCfg 2).r ∧ (ringMsgOf (ringIn 0 1 0)).bucket ≠ 0
    ∧ ((ringing 2 { Red.init with entered := 1, mh := 1 }).red 0).mh + 1 = (ringCfg 2).r ∧ Sound (segAt (ringCfg 2) (ringBucket 2) 0 0) 128 (ringing 2 Red.init)
    ∧ (slotAt (ringCfg 2) false 0 + 128 ≤ segAt (ringCfg 2) (ringBucket 2) 0 0
      ∨ segAt (ringCfg 2) (ringBucket 2) 0 0 + 128 ≤ slotAt (ringCfg 2) false 0)
    ∧ (ringing 2 Red.init).ringTarget 1 3 (ringIn 0 0 0) = none ∧ (ringing 2 Red.init).ringTarget 1 2 (List.replicate 16 0) = none := by
  unfold Sound; decide +kernel
theorem witness_RingMessagesArrive_gather : let s := ringing 2 { Red.init with updStep := 5 }
    (ringMsgOf (ringIn 1 0 0)).gather = true ∧ (s.red 0).gatherWant (ringCfg 2) [ringBucket 2] (ringMsgOf (ringIn 1 0 0)).hop = (0, 0, true)
    ∧ (s.red 0).updStep = (s.red 0).step ∧ (s.imageOf 0).upd? 0 = some (updOf (updEntry 0x60_0000 0x1000)) ∧ (s.red 0).gatIn = []
    ∧ formLen (updOf (updEntry 0x60_0000 0x1000)) 32 ≠ 0 ∧ slotAt (ringCfg 2) true 0 + 128 ≤ (s.imageOf 0).versionAt 0x40_0000 1
    ∧ (ringMsgOf (ringIn 1 0 0)).step = (s.red 0).gStep
    ∧ Sound ((s.imageOf 0).versionAt 0x40_0000 1 + 2 * (hopShard (ringCfg 2) 0 * shardElems (ringCfg 2) (ringBucket 2))) 64 s := by
  unfold Sound; decide +kernel
/-- A total ready to be updated by a program that only halts. -/
def updating : State := ringing 1 { Red.init with updStep := 5, entered := 1, mb := 1 }
theorem witness_UpdateGroups : let a := groupAt (ringImage 1) (ringCfg 1) [ringBucket 1] 0 0
    let l := loadGroup [] (ringCfg 1) a 0 { updating with out := [] }
    let v := l.1.getD []
    let o := l.2.groupOut 0 (ringImage 1) a 0 v
    RingAt 0 0 (ringCfg 1) updating ∧ updating.groupReady 0 0 (ringCfg 1) ((updating.imageOf 0).buckets 0) = true ∧ l.1.isSome = true ∧ o.2 = false
    ∧ (storeGroup [] (ringImage 1) a 1 5 o.1 (holdRegs (l.2.stackOf (segAt (ringCfg 1) a.b 0 0)) 0 o.1 l.2)).1 = true
    ∧ shardElems (ringCfg 1) a.b ≤ a.off + 1024 ∧ updating.baseCount 0 5 = 0 := by unfold RingAt; decide +kernel
/-- A shard of 2,048 elements has a group after the first. -/
theorem witness_UpdateGroups_more : (groupAt (ringImage 1) (ringCfg 1) [bucketOf (bucketEntry 0 0 0 0x20_0000 8192 1 0x40_0000)] 0 0).off + 1024 < 2048
    ∧ shardElems (ringCfg 1) (bucketOf (bucketEntry 0 0 0 0x20_0000 8192 1 0x40_0000)) = 2048 := by decide +kernel
theorem witness_UpdateCodeAndScales : up.pkg ≠ .boot ∧ up.mayWrite .pf (Reg.SCHED_SCALE_LR_SCALE 7 7).base = true
    ∧ up.mayWrite (.vf 0) (Reg.SCHED_SCALE_LR_SCALE 0 0).base = false ∧ isFinite 0x7F7FFFFF = true ∧ isFinite 0x7F800000 = false
    ∧ (0x80000000 : W32).getLsbD 31 = true ∧ (0x80000001 : W32).getLsbD 31 = true := by decide +kernel
/-- 08's worked example: the learning rate at update count 41,205 is about 1.941465e-4 (0x394B93CE in FP32). -/
theorem test_schedule_example : let d : Sched := ⟨0, 1, 0, false, 2000, 100000, 1, 0, 0x399D4952, 0x37FBA882, 0, 0, 0, 0, 0, 1, 0⟩
    round32 (d.lr 41205).1 - (0x394B93CE - 60) ≤ 120 ∧ 0x394B93CE - 60 ≤ round32 (d.lr 41205).1 := by decide +kernel
/-- A last backward of step 5 while the step before it has buckets on the ring. -/
def lateImage : Rigging := ⟨(firstLast 0).hdr, (firstLast 0).secs ++ [(0x10, [ringEntry 0 0 2 9 9 1 2 4096 0x20_8000, bucketEntry 0 0 0 0x20_0000 256 1 0x40_0000])], []⟩
theorem witness_BackwardsStart_late : let s := { staging lateImage { Stage.init with ring := [0] } [] [(0, stashedCtx true none)] with reds := [(0, { Red.init with step := 4, updStep := 3 })] }
    let t := stageOf (stageEntry 0 0xFFFF 5 0xFFFF 0xFFFF 1 2 0 0 3)
    StageAt 0 0 t s ∧ s.seqRuns 0 0 = true ∧ s.choosesBackward t = true ∧ s.backwardCtx t = some 0 ∧ (s.ctx 0).verified = true
    ∧ (s.ctx 0).mbSeq + 1 = t.mbPerStep ∧ s.bucketsLeft 0 = false := by unfold StageAt; decide +kernel

/-! ## Undercrofts, fabric accesses, lines -/

/-- A RIGHTS entry (03 R103): agent, both rights, base and size; and an image of one stage with a plain region, an EMBEDDING region at
0x20_0000, an ingest landing 5 and rights for the control core to undercroft 15's gather window. -/
def rightEntry (agent base size : Nat) : Nat := agent + 3 * 2 ^ 8 + base * 2 ^ 32 + size * 2 ^ 64
def ucImage : Rigging :=
  ⟨2 * 2 ^ 124, [(1, [gangEntry 0 0 0 0]), (4, [stageEntry 0 5 0xFFFF 0xFFFF 0xFFFF 1 1 0 0 3]), (5, [landEntry 5 0 4 0 0 0 0]),
    (9, [regionEntry 7 0xFF 0x40_0000 0x20_0000, regionEntry 4 0 0x20_0000 0x20_0000]), (0xB, [rightEntry 0 (Reg.UC_GATHER_PUSH 15 0).base 96]),
    (0x12, [updEntry 0x40_0000 0x1000])], [[BitVec.ofNat 32 (0x3F * 2 ^ 26 + 1)]]⟩
/-- The table header (09 R337) of rows of 32 pairs: magic, UPDATE, DIM, sources, rows, rows of a source, undo slots and places. -/
def tblHeader (update sources : Nat) : List (Nat × Byte) :=
  [(0x20_0000, 0x54), (0x20_0001, 0x42), (0x20_0002, 0x4D), (0x20_0003, 0x45)] ++ (if update = 0 then [] else [(0x20_0006, 0xFF), (0x20_0007, 0xFF)])
    ++ [(0x20_0008, 32)] ++ (if sources = 0 then [] else [(0x20_000A, 1)]) ++ [(0x20_000C, 4)]
    ++ (if sources = 0 then [] else [(0x20_0010, 2), (0x20_0014, 2), (0x20_0019, 0x18), (0x20_0021, 0x20), (0x20_0029, 0x30), (0x20_0031, 0x40)])
def undercrofts (n : Nat) (x : Undercroft) (m : List (Nat × Byte)) : State :=
  { loadedWith ucImage with ucs := [(n, x)], mem := m, svcs := [(0, { Svc.init with state := .running, decided := 4 })] }
theorem witness_UndercroftQueues : let s := undercrofts 15 { Undercroft.init with gpush := some (List.replicate 25 0) } []
    s.controlRight 0 0 true (Reg.UC_GATHER_PUSH 15 23).base 4 = true ∧ s.controlRight 0 0 true (Reg.UC_GATHER_PUSH 15 0).base 4 = true
    ∧ s.controlRight 7 0 true (Reg.UC_CONV_PUSH 15 0).base 4 = false ∧ (s.uc 15).gq.length < 32
    ∧ 32 ≤ ((undercrofts 15 { Undercroft.init with gq := List.replicate 32 [] } []).uc 15).gq.length
    ∧ whoOk .pf = true ∧ s.pkg ≠ .boot ∧ s.mayWrite .pf (Reg.UC_QUOTA_WEIGHT 15 7).base = true
    ∧ s.mayWrite (.vf 7) (Reg.UC_QUOTA_WEIGHT 15 7).base = false := by decide +kernel
/-- A GATHER descriptor (09 R339) of one bag of one weighted row, and a CONVERT descriptor (R346). -/
def gatherDesc (push bags : Nat) : List Nat :=
  [3 * 2 ^ 28 + 2 ^ 25 + push * 2 ^ 24 + 0xBEEF, bags, 0x20_0000, 0, 0x40_0000, 0, 0x40_0100, 0, 0x40_0200, 0, 0x40_0400, 0, 128, 0, 5, 0, 0, 5, 0, 0,
    0x40_0300, 0, 0, 0, 0]
def convertDesc (fmt count : Nat) : List Nat :=
  [4 * 2 ^ 28 + fmt * 2 ^ 24 + fmt * 2 ^ 20 + 0xBEEF, count, 0x40_0000, 0, 0x40_0100, 0, 0x40_0200, 0, 0x40_0300, 0, 0, 0, 0, 0, 5, 0, 0x40_0400, 0]
    ++ List.replicate 7 0
/-- Row 3 of the table holds 1.0 in element 31; its weight is 2.0. -/
def gathering (push : Nat) : State := undercrofts 0 { Undercroft.init with gq := [gatherDesc push 1] }
  (tblHeader 0xFFFF 0 ++ [(0x20_11FE, 0x80), (0x20_11FF, 0x3F), (0x40_0000, 3), (0x40_0104, 1), (0x40_0203, 0x40)])
def landed : State := { gathering 1 with ucs := [(0, { Undercroft.init with gpush := some (gatherDesc 1 1) })], landings := [(5, { Landing.init with credit := 1 })] }
theorem witness_UndercroftQueues_push : (landed.uc 0).gpush = some (gatherDesc 1 1) ∧ (landed.rig (lget 0 (gatherDesc 1 1) 24)).winding = false
    ∧ (landed.landCfg? (gatherOf (gatherDesc 1 1)).landing).map (fun x => (x.1, x.2.kind)) = some (0, 0) ∧ 0 < (landed.landing 5).credit
    ∧ ((gathering 1).landing 5).credit ≤ 0 := by decide +kernel
theorem witness_GathersAndConversions : let s := undercrofts 15 { Undercroft.init with gq := [List.replicate 25 0], cq := [List.replicate 25 0] } []
    Uninjected s ∧ (s.uc 15).gpush = none ∧ s.ucRuns 15 false 0 = true ∧ s.ucRuns 15 true 0 = true ∧ s.gatherFault 15 0 (List.replicate 25 0) = 1
    ∧ s.convertFault 0 (List.replicate 25 0) = 1 := by unfold Uninjected; decide +kernel
theorem witness_GathersAndConversions_gather : let s := gathering 1
    (s.uc 0).gq = [gatherDesc 1 1] ∧ (s.uc 0).gpush = none ∧ s.ucRuns 0 false 0 = true ∧ s.gatherFault 0 0 (gatherDesc 1 1) = 0
    ∧ s.gatherReady 0 (gatherOf (gatherDesc 1 1)) = true ∧ s.memLe 0x40_0100 4 = 0 ∧ s.memLe 0x40_0104 4 = 1 ∧ s.memLe 0x40_0000 4 = 3
    ∧ s.gatherWaits 0 0 (gatherOf (gatherDesc 1 1)) = false ∧ s.headerOk 0 0x20_0000 = true
    ∧ s.gatherReach 0 (gatherOf (gatherDesc 1 1)) [0, 1] = true ∧ s.listsWait 0 0 (gatherOf (gatherDesc 1 1)) [0, 1] = false
    ∧ s.lineCheck [] (0x20_0000 / 64) = 0 ∧ 3 < (s.hdrAt 0x20_0000).rows ∧ (s.imageOf 0).isIngest 5 = true := by decide +kernel
theorem witness_GathersAndConversions_reads : let s := gathering 1
    (∀ x ∈ [(0x40_0100, 8), (0x40_0000, 4), (0x40_0200, 4)], EngReads (.undercroft 0 0) x.1 x.2 s) ∧ EngWrites (.undercroft 0 0) 0x40_0400 128 s
    ∧ EngWrites (.undercroft 0 0) 0x40_0300 4 s ∧ (0x40_0300 : Nat) + 4 ≤ 0x40_0400 ∧ Sound (0x20_1000 + 3 * 128) 128 s := by
  unfold EngReads EngWrites EngMay Sound; decide +kernel
/-- The same gather with its indices at `idx` and landing `landing`, and with some bytes of memory set. -/
def gatherAs (idx landing : Nat) : List Nat := ((gatherDesc 1 1).set 4 idx).set 17 landing
def gatheringAs (idx landing : Nat) (m : List (Nat × Byte)) : State :=
  let s := gathering 1
  { s with ucs := [(0, { Undercroft.init with gq := [gatherAs idx landing] })], mem := m.foldl (fun l x => tset 0 l x.1 x.2) s.mem }
/-- What a gather finds in the header and the lists: reach, header, and the two offsets. -/
def gatherSees (idx : Nat) (s : State) : Bool × Bool × Nat × Nat :=
  let o := [s.memLe 0x40_0100 4, s.memLe 0x40_0104 4]
  (s.gatherReach 0 (gatherOf (gatherAs idx 5)) o, s.headerOk 0 0x20_0000, lget 0 o 0, lget 0 o 1)
/-- Two indices of which the second lies past the partition, with a good header and with a bad one; a bad header alone; offsets that fall;
an index past the table's rows; and a landing that is none of ingest. -/
theorem witness_GathersAndConversions_stops :
    [gatheringAs 0x5F_FFFC 5 [(0x40_0104, 2)], gatheringAs 0x5F_FFFC 5 [(0x40_0104, 2), (0x20_0000, 0)]].map (gatherSees 0x5F_FFFC)
    = [(false, true, 0, 2), (false, false, 0, 2)]
    ∧ [gatheringAs 0x40_0000 5 [(0x20_0000, 0)], gatheringAs 0x40_0000 5 [(0x40_0100, 2)], gatheringAs 0x40_0000 5 [(0x40_0000, 4)]].map
        (gatherSees 0x40_0000) = [(true, false, 0, 1), (true, true, 2, 1), (true, true, 0, 1)]
    ∧ (gatheringAs 0x40_0000 5 [(0x40_0000, 4)]).memLe 0x40_0000 4 = 4 ∧ (gatherOf (gatherAs 0x40_0000 6)).landing = 6
    ∧ ((gatheringAs 0x40_0000 6 []).imageOf 0).isIngest 6 = false ∧ (gatheringAs 0x40_0000 6 []).gatherFault 0 0 (gatherAs 0x40_0000 6) = 0
    ∧ (gatheringAs 0x5F_FFFC 5 []).gatherFault 0 0 (gatherAs 0x5F_FFFC 5) = 0 := by decide +kernel
theorem test_gather_stops : [gatheringAs 0x5F_FFFC 5 [(0x40_0104, 2), (0x20_0000, 0)], gatheringAs 0x40_0000 5 [(0x20_0000, 0)],
      gatheringAs 0x40_0000 5 [(0x40_0100, 2)], gatheringAs 0x40_0000 5 [(0x40_0000, 4)], gatheringAs 0x40_0000 6 []].map
      (fun s => (after (.gatherDescriptor 0 [] [] 0) s).get (Reg.UC_DESC_ERR_CODE 0)) = [4, 5, 6, 7, 8] := by decide +kernel
/-- A gather whose completion goes to package 5, to which no request credit is left. -/
def farGather : State :=
  allSent { gathering 1 with ucs := [(0, { Undercroft.init with gq := [(gatherDesc 1 1).set 21 (5 * 2 ^ 18)], cq := [(convertDesc 8 64).set 17 (5 * 2 ^ 18)] })],
                             ropes := far5.ropes, regs := far5.regs }
theorem witness_GathersAndConversions_waits : let d := (gatherDesc 1 1).set 21 (5 * 2 ^ 18)
    let c := (convertDesc 8 64).set 17 (5 * 2 ^ 18)
    (farGather.uc 0).gq = [d] ∧ farGather.ucRuns 0 false 0 = true ∧ farGather.gatherFault 0 0 d = 0 ∧ farGather.gatherWaits 0 0 (gatherOf d) = true
    ∧ (farGather.uc 0).cq = [c] ∧ farGather.ucRuns 0 true 0 = true ∧ farGather.convertFault 0 c = 0 ∧ farGather.convertWaits 0 0 (convertOf c) = true := by
  decide +kernel
/-- 09 R340: a weighted sum of one row is the weight times the row. -/
theorem test_gather : let s := after (.gatherDescriptor 0 [] [] 0) (gathering 0)
    s.memLe 0x40_047C 4 = 0x40000000 ∧ s.memLe 0x40_0400 4 = 0 ∧ s.memLe 0x40_0300 4 = 0xBEEF ∧ (s.uc 0).gq = [] := by decide +kernel
def converting (fmt count : Nat) : State := undercrofts 15 { Undercroft.init with cq := [convertDesc fmt count] } []
theorem witness_GathersAndConversions_convert : let s := converting 8 64
    ((s.uc 15).cq = [convertDesc 8 64] ∧ s.ucRuns 15 true 0 = true ∧ s.convertFault 0 (convertDesc 8 64) = 0
      ∧ s.convertWaits 15 0 (convertOf (convertDesc 8 64)) = false ∧ outMx (convertOf (convertDesc 8 64)).dst = true)
    ∧ EngReads (.undercroft 0 15) 0x40_0000 (fmtBytes 8 64) s ∧ EngReads (.undercroft 0 15) 0x40_0100 2 s ∧ EngWrites (.undercroft 0 15) 0x40_0200 (fmtBytes 8 64) s
    ∧ EngWrites (.undercroft 0 15) 0x40_0300 2 s ∧ EngWrites (.undercroft 0 15) 0x40_0400 4 s ∧ fmtBytes 8 64 = 32 := by
  unfold EngReads EngWrites EngMay Sound; decide +kernel
/-- 06: BF16 1.0 widens to binary32 1.0. -/
theorem test_convert : let s := after (.converterDescriptor 15 [] [] 0) (undercrofts 15 { Undercroft.init with cq :=
      [[4 * 2 ^ 28 + 2 ^ 24, 1, 0x40_0000, 0, 0, 0, 0x40_0200, 0, 0, 0, 0, 0, 0, 0, 5, 0, 0x40_0400, 0] ++ List.replicate 7 0] } [(0x40_0000, 0x80), (0x40_0001, 0x3F)])
    s.memLe 0x40_0200 4 = 0x3F800000 := by decide +kernel

/-- One source of the table names row 3 `count` times in step 5. -/
def inbox (count : Nat) : List (Nat × Byte) := [(0x20_4000, 5), (0x20_4004, BitVec.ofNat 8 count), (0x20_4008, 1), (0x20_4040, 3), (0x20_4044, 3)]
def sparsing (count : Nat) (w : List Sparse) : State := { undercrofts 0 Undercroft.init (tblHeader 0 1 ++ inbox count) with sparse := w }
def tblRegion : Region := regionOf (regionEntry 4 0 0x20_0000 0x20_0000)
theorem witness_SparseUpdates : let s := sparsing 2 []
    let h := s.hdrAt 0x20_0000
    s.tableAt? 0 0x20_0000 = some tblRegion ∧ Uninjected s ∧ h.trained = true ∧ (s.rig 0).winding = false ∧ s.sparse? 0 0x20_0000 5 = none
    ∧ s.sparseReady 0 0x20_0000 h 5 = true ∧ 3 * 0 + 2 ∉ (s.uc (tblRegion.stack tblRegion.base)).held ∧ h.ok (s.imageOf 0) tblRegion = true
    ∧ (s.countLine h 0x20_0000 0).2.1 = h.srcRows ∧ s.inboxRows h 0x20_0000 0 2 = [3, 3] ∧ h.rows = 4
    ∧ s.memLe (h.markAt 0x20_0000 3) 8 / 2 ^ 32 ≠ 5 := by unfold Uninjected; decide +kernel
theorem witness_SparseUpdates_lines : let s := sparsing 2 []
    let h := s.hdrAt 0x20_0000
    (∀ l ∈ 0x20_0000 / 64 :: countLines 0x20_0000 h ++ indexLines s 0x20_0000 h ++ sparseLines s (s.imageOf 0) 0x20_0000 h, s.lineCheck [] l = 0)
    ∧ s.lineCheck [(0x20_0000 / 64, 2)] (0x20_0000 / 64) = 2 := by decide +kernel
theorem witness_SparseUpdates_count : let s := sparsing 3 []
    let h := s.hdrAt 0x20_0000
    s.sparseReady 0 0x20_0000 h 5 = true ∧ 0 < h.sources ∧ h.srcRows < (s.countLine h 0x20_0000 0).2.1 := by decide +kernel
def undoOf (row : Nat) : Undo := ⟨row, List.replicate 128 0, [], 0, List.replicate 32 0, false⟩
theorem witness_SparseUpdates_pass2 : let s := sparsing 0 [⟨0, 0x20_0000, 5, 1, [undoOf 3, undoOf 2]⟩]
    let h := s.hdrAt 0x20_0000
    ((s.sparse? 0 0x20_0000 5).map fun w => (w.pass, w.undo.map Undo.row)) = some (1, [3, 2]) ∧ 3 * 0 + 2 ∉ (s.uc 1).held
    ∧ tblRegion.stack (h.rowAt 0x20_0000 3) = 1 ∧ tblRegion.stack (h.rowAt 0x20_0000 2) = 1 ∧ (h.upd (s.imageOf 0)).nE = 0
    ∧ h.rowAt 0x20_0000 2 + h.rowBytes ≤ h.rowAt 0x20_0000 3 ∧ h.dim * 4 ≤ h.rowBytes ∧ 2 * h.dim ≤ 1024
    ∧ Sound (h.rowAt 0x20_0000 3) h.rowBytes s ∧ Sound (h.rowAt 0x20_0000 2) h.rowBytes s := by unfold Sound; decide +kernel
theorem witness_SparseUpdates_restore : let s := (sparsing 0 [⟨0, 0x20_0000, 5, 1, [undoOf 3]⟩]).setRig 0 { (sparsing 0 []).rig 0 with winding := true };
    let h := s.hdrAt 0x20_0000
    (s.rig 0).winding = true ∧ (undoOf 3).states = [] ∧ h.rowAt 0x20_0000 3 + 128 ≤ h.markAt 0x20_0000 3 ∧ Sound (h.rowAt 0x20_0000 3) 128 s
    ∧ Sound (h.markAt 0x20_0000 3) 8 s ∧ (undoOf 3).bytes.length = 128 := by unfold Sound; decide +kernel

/-- A fabric address (00 R13). 01 and 11 R395: the addresses of the worked examples. -/
theorem test_addresses : fabAddr 0x305 0 0x20_0000_1000 = 0x0C14_0020_0000_1000 ∧ fabAddr 0x305 1 0xC001_2340 = 0x0C14_4000_C001_2340
    ∧ sramPlace (fabOff 0x0C14_4000_CB02_4100) = .data 485 7 2 0x100 ∧ fabCls 0x0C14_4000_CB02_4100 = 1 ∧ fabPkg 0x0C14_4000_CB02_4100 = 0x305 := by
  decide +kernel
/-- The tread at flight 0, row 15, column 15 is the last of its flight's class-1 data SRAM. -/
def sramAt : Nat := 2 ^ 46 + (15 * 17 + 15) * 0x4000 + 0x3F00
def fabric1 : State := undercrofts 0 Undercroft.init []
def fabric2 : State := fabric1.setRig 0 { fabric1.rig 0 with rerigs := [.role 0 9] }
theorem witness_FabricAccesses : agentOk (.core 0) = true ∧ fabPkg 0x40_0100 = fabric1.get Reg.PKG_ID_ID
    ∧ fabric1.fabCheck ⟨.core 0, opRead, 0, 256, 0x40_0100, []⟩ = 0 ∧ fabric1.fabCheck ⟨.core 0, opRead, 0, 2, 0x40_0100, []⟩ = 3
    ∧ fabric1.fabCheck ⟨.core 0, opWrite, 0, 256, 0x40_0100, List.replicate 256 1⟩ = 0 ∧ fabric1.fabCheck ⟨.core 0, opWrite, 0, 4, 0, [1, 2, 3, 4]⟩ = 2
    ∧ Uninjected fabric1 ∧ Sound 0x40_0100 256 fabric1 ∧ (∃ n ∈ linesOf 0x40_0100 256, fabric1.lineCheck [(0x1_0007, 3)] n = 2) := by
  unfold Uninjected Sound; decide +kernel
theorem witness_FabricAccesses_atomic : (∀ f ∈ [0, 1, 2, 3, 4], fabric1.fabCheck ⟨.undercroft 0 15, opAtomic, f, 8, 0x40_0100, List.replicate 16 255⟩ = 0)
    ∧ fabric1.fabCheck ⟨.undercroft 0 15, opAtomic, 5, 8, 0x40_0100, List.replicate 16 255⟩ = 3 ∧ Sound 0x40_0100 8 fabric1
    ∧ fabric1.fabCheck ⟨.firmware, opRead, 0, 256, reservedBase, []⟩ = 0 ∧ fabric1.fabCheck ⟨.firmware, opRead, 0, 256, 0x40_0100, []⟩ ≠ 0 := by unfold Sound; decide +kernel
theorem witness_FabricAccesses_sram : fabCls sramAt = 1 ∧ fabric1.fabCheck ⟨.core 0, opRead, 0, 256, sramAt, []⟩ = 0
    ∧ fabric1.fabCheck ⟨.core 0, opWrite, 0, 256, sramAt, List.replicate 256 1⟩ = 0
    ∧ fabric1.fabWaits ⟨.core 0, opRead, 0, 256, sramAt, []⟩ = false ∧ sramPlace (fabOff sramAt) = .data 0 15 15 0x3F00
    ∧ fabric1.sramTarget (.data 0 15 15 0x3F00) = some (15 * 32 + 15) ∧ fabric2.fabCheck ⟨.core 0, opRead, 0, 256, sramAt, []⟩ = 0
    ∧ (∀ op ∈ [opRead, opWrite], fabric2.fabWaits ⟨.core 0, op, 0, 256, sramAt, List.replicate 256 1⟩ = true) := by decide +kernel
/-- 11 R398: an unsigned MAX and a compare-and-swap. -/
theorem test_atomics : let s := { fabric1 with mem := [(0x40_0100, 5)] }
    (after (.fabricAtomic (.core 0) 1 0x40_0100 4 0xFFFF_FFFF 0 []) s).memLe 0x40_0100 4 = 0xFFFF_FFFF
    ∧ (after (.fabricAtomic (.core 0) 4 0x40_0100 4 9 5 []) s).memLe 0x40_0100 4 = 9
    ∧ (after (.fabricAtomic (.core 0) 4 0x40_0100 4 9 6 []) s).memLe 0x40_0100 4 = 5 := by decide +kernel

theorem witness_LinesAndRows : let off := reservedBase + 15 * 0x20_0000
    off % 64 = 0 ∧ up.get (Reg.UC_PATROL_ENABLE 15) = 1 ∧ inReserved off = true ∧ fabric1.regionAt 0x40_0000 ≠ none ∧ up.stackOf off = 15 ∧ up.lineCheck [] (off / 64) = 0
    ∧ up.lineCheck [(off / 64, 2)] (off / 64) = 2 ∧ (up.set (Reg.UC_PATROL_ENABLE 15) 0).get (Reg.UC_PATROL_ENABLE 15) ≠ 1
    ∧ 2 ≤ tget 0 [(2 ^ 34, 2)] (2 ^ 40 / 64) ∧ up.pins.falling = false ∧ tget 0 (up.uc 15).rowLost 7 < 2
    ∧ 15 ∉ (tget MemKeys.init up.sec.mem 7).sweeping := by decide +kernel
/-- Whatever the die of row 7 and the number of its spare rows: with none used all are left, and with all used none is. -/
theorem witness_LinesAndRows_spares : let x := { Undercroft.init with rowLost := [(7, 2)] }
    let y := { x with spareUsed := [(Config.dramDie 7, Config.dieSpares 15 (Config.dramDie 7))] }
    2 ≤ tget 0 x.rowLost 7 ∧ (up.setUc 15 x).sparesIn 15 (Config.dramDie 7) = Config.dieSpares 15 (Config.dramDie 7)
    ∧ (up.setUc 15 y).sparesIn 15 (Config.dramDie 7) = 0 ∧ Config.dramDie 7 ∉ y.exhausted := by
  refine ⟨by decide, rfl, ?_, by simp [Undercroft.init]⟩
  show Config.dieSpares 15 (Config.dramDie 7) - tget 0 [(Config.dramDie 7, Config.dieSpares 15 (Config.dramDie 7))] (Config.dramDie 7) = 0
  simp [tget]
def sweeping (i : Nat) : State := let s := undercrofts 15 { Undercroft.init with sweep := [(0, i)] } []
  { s with sec := { s.sec with mem := [(0, ⟨3, 4, 1, 0, [15]⟩)] } }
theorem witness_LinesAndRows_sweep : let k := tget MemKeys.init (sweeping 0).sec.mem 0
    15 ∈ k.sweeping ∧ shareLine 15 ((sweeping 0).imageOf 0).regions 0 = some ((0x40_0000 + 15 * 0x1000) / 64) ∧ Uninjected (sweeping 0)
    ∧ tget 0 (sweeping 0).memEpoch ((0x40_0000 + 15 * 0x1000) / 64) ≠ k.cur
    ∧ ((sweeping 0).regionAt (0x40_0000 + 15 * 0x1000)).map Prod.fst = some 0
    ∧ shareLine 15 ((sweeping 4096).imageOf 0).regions 4096 = none ∧ k.sweeping.filter (· != 15) = [] ∧ k.cur ≠ 0 := by unfold Uninjected; decide +kernel
/-- 09: a region of two stacks at a granule of 4 KiB alternates between them. -/
theorem test_interleave : let g := { tblRegion with mask := 0x30 }
    g.stack 0x20_0000 = 4 ∧ g.stack 0x20_1000 = 5 ∧ g.stack 0x20_2FFF = 4 := by decide +kernel

/-! ## Ropes, messages, lasers, die links -/

/-- Rope 17 in a state, lit by module 5, with a fabric secret in force. -/
def roped (st : Nat) (r : Rope) : State :=
  ({ loadedWith ucImage with ropes := [(17, r)], sec := { Sec.init with fab := some (1, []) } }.set (Reg.ROPE_STATUS_STATE 17) st
    |>.set (Reg.LASER_STATUS_STATE 5) 2 |>.set (Reg.LASER_STATUS_LIT 5) 0xFF |>.set (Reg.ROPE_SESSION_LOCAL 17) 3 |>.set (Reg.ROPE_SESSION_PEER 17) 4)
/-- A TRAIN flit (10 R360) of rope 17 of package 5. -/
def peerTrain (session last good : Nat) : List Byte :=
  flitOf { (default : FlitHdr) with type := 3, fill := 256 }
    (leBytes 2 5 ++ leBytes 1 17 ++ leBytes 1 1 ++ leBytes 2 session ++ leBytes 2 last ++ leBytes 2 0 ++ leBytes 1 good)
theorem peerTrain_good : ∀ f ∈ [peerTrain 4 3 0xFF, peerTrain 5 3 0xFF, peerTrain 4 3 0], flitBad f = false ∧ (hdrOf f).type = 3 := by
  simp only [List.mem_cons, List.not_mem_nil, or_false, forall_eq_or_imp, forall_eq, peerTrain, flitBad_flitOf, hdrOf_flitOf]
  decide +kernel
theorem witness_RopesComeUpAndGoDown : let s := roped 1 { Rope.init with phase := 1 }
    (17 : Nat) < 18 ∧ s.pkg ≠ .boot ∧ (s.rope 17).phase = 1 ∧ s.ropeSt 17 = 1 ∧ s.minWidth 17 ≤ popcount8 (0xFF &&& s.usable 17)
    ∧ popcount8 (0 &&& s.usable 17) < s.minWidth 17 ∧ (roped 4 { Rope.init with phase := 1 }).ropeSt 17 = 4
    ∧ ((roped 4 Rope.init).rope 17).phase = 0 ∧ (roped 1 Rope.init).canTrain 17 = true := by decide +kernel
theorem witness_RopesComeUpAndGoDown_train : let i := trainOf (peerTrain 4 3 0xFF)
    let r := { Rope.init with phase := 2, locked := 0xFF, trained := true, told := 4, peer := some i, stuck := 6 }
    let s := roped 2 r
    s.ropeSt 17 ≠ 3 ∧ (s.rope 17).phase = 2 ∧ (hdrOf (peerTrain 4 3 0xFF)).type = 3 ∧ s.canTrain 17 = true ∧ r.owed = []
    ∧ s.minWidth 17 ≤ popcount8 r.locked ∧ 8 < r.chans.length ∧ r.stuck < 7 ∧ i.good = r.locked ∧ (trainOf (peerTrain 4 3 0)).good ≠ r.locked
    ∧ (i.lastSession = s.get (Reg.ROPE_SESSION_LOCAL 17) ∧ i.session = r.told) ∧ (trainOf (peerTrain 5 3 0xFF)).session ≠ r.told
    ∧ (r.peer = some i ∧ r.trained = true) := by decide +kernel
/-- Rope 17 in phase 2 with no strand, and one that has heard nothing from its peer. -/
theorem witness_RopesComeUpAndGoDown_narrow : let i := trainOf (peerTrain 4 3 0)
    let r := { Rope.init with phase := 2, locked := 0, trained := true, peer := some i }
    ¬(roped 2 r).minWidth 17 ≤ popcount8 r.locked ∧ i.good = r.locked ∧ ((roped 2 r).rope 17).trained = true
    ∧ ((roped 2 { r with peer := none }).rope 17).peer = none ∧ { r with trained := false }.trained = false := by decide +kernel
theorem witness_RopesComeUpAndGoDown_loss : let s := (roped 3 Rope.init).set (Reg.ROPE_STATUS_ACTIVE 17) 0xFF |>.set (Reg.ROPE_CTRL_ENABLE 17) 1
    let g := roped 4 { Rope.init with grace := some 0 }
    s.ropeSt 17 = 3 ∧ 0xFF &&& s.get (Reg.ROPE_STATUS_ACTIVE 17) = 0xFF ∧ 1 &&& s.get (Reg.ROPE_STATUS_ACTIVE 17) = 1
    ∧ 0 &&& s.get (Reg.ROPE_STATUS_ACTIVE 17) = 0 ∧ bit 0xC000_0000 30 = true ∧ bit 0xC000_0000 31 = true ∧ bit 0x4000_0000 31 = false
    ∧ s.get (Reg.ROPE_CTRL_ENABLE 17) = 1 ∧ (roped 0 Rope.init).ropeSt 17 = 0 ∧ (g.rope 17).grace = some 0
    ∧ 0 + g.graceNs 17 ≤ max (g.timer 17) (g.graceNs 17) ∧ max (g.timer 17) (g.graceNs 17 - 1) < 0 + g.graceNs 17 := by decide +kernel

/-- A flit of the rope without a credit or acknowledgement, and one that acknowledges SEQ 4094 with NAK. -/
def flitTo (type vc seq : Nat) (enc : Bool) : List Byte := flitOf { (default : FlitHdr) with type := type, vc := vc, seq := seq, enc := enc, fill := 240 } [1, 2, 3]
def nakFlit : List Byte := flitOf { (default : FlitHdr) with ackValid := true, nak := true, ack := 4094 } []
theorem flitTo_good : ∀ f ∈ [flitTo 1 7 4095 false, flitTo 2 0 4095 false, flitTo 1 7 4095 true, flitTo 2 0 4095 true, flitTo 1 7 0 false, flitTo 0 0 0 false, nakFlit],
    flitBad f = false := by
  simp only [List.mem_cons, List.not_mem_nil, or_false, forall_eq_or_imp, forall_eq, flitTo, nakFlit, flitBad_flitOf]
  decide +kernel
/-- Rope 17 ACTIVE, to receive SEQ 4095, with channel 7 as given and 65,535 flits in the error window. -/
def flits (r : Rope) (c : VChan) : State := roped 3 { r with rxExpect := 4095, winFlits := 65535, chans := lset Rope.init.chans 7 c }
def open7 : VChan := { VChan.init 7 with part := some 0 }
theorem witness_FlitsArriveAndLeave : let s := flits Rope.init open7
    (∀ j ∈ [7], j < 8) ∧ Uninjected s ∧ s.ropeSt 17 = 3 ∧ (s.rope 17).winFlits < 2 ^ max 16 (s.get (Reg.ROPE_BER_CFG_WINDOW_LOG2 17))
    ∧ (hdrOf (flitTo 1 7 4095 false)).ackValid = false ∧ (hdrOf (flitTo 1 7 4095 false)).type = 1 ∧ (hdrOf (flitTo 1 7 4095 false)).seq = (s.rope 17).rxExpect
    ∧ (s.vchan 17 7).part ≠ none ∧ 8 < (s.rope 17).chans.length ∧ (s.vchan 17 6).part = none ∧ seqLater 12 0 4095 = true
    ∧ seqLater 12 4094 4095 = false ∧ (hdrOf (flitTo 2 0 4095 false)).type = 2 ∧ (s.vchan 17 7).badTag ≠ some 4095 := by
  unfold Uninjected; decide +kernel
theorem witness_FlitsArriveAndLeave_opens : Opens 17 7 (flitTo 1 7 4095 false) ((flitBody (flitTo 1 7 4095 false)).take 240) (flits Rope.init open7)
    ∧ (∀ m, ¬Opens 17 7 (flitTo 1 7 4095 true) m (flits Rope.init { open7 with badTag := some 4095 }))
    ∧ (∀ m, ¬Opens 17 8 (flitTo 2 0 4095 false) m (flits { Rope.init with txNext := 1 } open7)) := by
  have e1 : (hdrOf (flitTo 1 7 4095 false)).enc = false := by decide +kernel
  have e2 : (hdrOf (flitTo 1 7 4095 true)).enc = true := by decide +kernel
  have e3 : (hdrOf (flitTo 2 0 4095 false)).enc = false := by decide +kernel
  refine ⟨?_, ?_, ?_⟩
  · simp only [Opens, e1]; exact ⟨by decide, by decide +kernel, by decide +kernel⟩
  · intro m h; simp only [Opens, e2] at h; exact h.1 (by decide +kernel)
  · intro m h; simp only [Opens, e3] at h; exact h.1 rfl
theorem witness_FlitsArriveAndLeave_tags : ((flits Rope.init { open7 with badTag := some 4095 }).vchan 17 7).badTag = some (hdrOf (flitTo 1 7 4095 true)).seq
    ∧ ((roped 3 { Rope.init with rxExpect := 4095, chans := lset Rope.init.chans 8 { VChan.init 8 with badTag := some 4095 } }).vchan 17 8).badTag
      = some (hdrOf (flitTo 2 0 4095 true)).seq := by decide +kernel
theorem witness_FlitsArriveAndLeave_replay : let r := { Rope.init with held := [(4095, 7, [])], stuck := 6 }
    (roped 3 r).ropeSt 17 = 3 ∧ (hdrOf nakFlit).type = 0 ∧ (hdrOf nakFlit).nak = true ∧ (hdrOf nakFlit).ackValid = true ∧ r.replayFrom ≠ some (hdrOf nakFlit).ack
    ∧ r.afterAck (hdrOf nakFlit).ack = [(4095, 7, [])] ∧ r.stuck < 7 ∧ r.ackMoved = false ∧ { r with stuck := 7 }.held = (4095, 7, []) :: []
    ∧ (hdrOf (peerTrain 4 3 0xFF)).type = 3 := by decide +kernel
theorem witness_FlitsArriveAndLeave_window : let s := roped 3 { Rope.init with winFlits := 2 ^ 40, winCorr := 2 ^ 40, winUncorr := [0, 0, 0, 0, 0, 0, 0, 2 ^ 16] }
    2 ^ max 16 (s.get (Reg.ROPE_BER_CFG_WINDOW_LOG2 17)) ≤ (s.rope 17).winFlits
    ∧ s.get (Reg.ROPE_BER_CFG_UNCORR_MAX 17) < lget 0 (s.rope 17).winUncorr 7 ∧ s.get (Reg.ROPE_BER_CFG_CORR_WARN 17) * 1024 < (s.rope 17).winCorr := by
  decide +kernel
theorem witness_FlitsArriveAndLeave_send : let s := flits { Rope.init with held := List.replicate 1023 (0, 7, []) } { open7 with tx := [[1]], credit := 1 }
    (s.rope 17).tell = false ∧ (s.rope 17).replay = none ∧ (s.rope 17).held.length < 1024 ∧ s.canSend 17 7 = true
    ∧ (s.vchan 17 7).keyAt ((s.vchan 17 7).next.getD (s.vchan 17 7).cur) = 0
    ∧ 1024 ≤ ((flits { Rope.init with held := List.replicate 1024 (0, 7, []) } open7).rope 17).held.length
    ∧ ((flits { Rope.init with held := [(4095, 7, [])] } open7).rope 17).held.find? (fun x => x.1 == 4095) = some (4095, 7, [])
    ∧ ((roped 3 Rope.init).set (Reg.ROPE_STATUS_ACTIVE 17) 0xFF).strands 17 = [0, 1, 2, 3, 4, 5, 6, 7] ∧ (s.vchan 17 7).txAt 0 + 1 ≠ 2 ^ 48 := by decide +kernel
/-- 10 R357, R374: the length of a flit, and a nonce of package 12:5, rope 7, channel 2, count 9. -/
theorem test_flit : (flitTo 1 7 4095 false).length = 271 ∧ nonceOf 0x305 7 2 9 = 0x305 * 2 ^ 82 + 7 * 2 ^ 77 + 2 * 2 ^ 73 + 9 := by decide +kernel
/-- 09 R324: the check value of CRC-32C over the nine digits. -/
theorem test_crc : crc32c [0x31, 0x32, 0x33, 0x34, 0x35, 0x36, 0x37, 0x38, 0x39] = 0xE3069283 := by decide +kernel

/-- Landings 5 (outbound) and 6 (inbound) on rope 17, channel 7, to landing 9 of package 5. -/
def msgImage : Rigging := ⟨77 * 2 ^ 128 + 2 * 2 ^ 124, [(1, [gangEntry 0 0 0 0]), (4, [stageEntry 0 6 5 0xFFFF 0xFFFF 1 1 0 0 3]),
  (5, [landEntry 5 1 4 17 7 5 9, landEntry 6 2 4 17 7 5 9])], []⟩
def messaging (l : Landing) (c : Ctx) : State :=
  { loadedWith msgImage with ropes := [(17, { Rope.init with chans := lset Rope.init.chans 7 open7 })], landings := [(5, l)], ctxs := [(0, c)] }.set
    (Reg.ROPE_PEER_PEER_ID 17) 5 |>.set (Reg.ROPE_PEER_VALID 17) 1
/-- A message's 16-byte header and body. -/
def message (kind epoch source job target : Nat) (body : List Byte) : List Byte :=
  leBytes 1 kind ++ leBytes 1 epoch ++ leBytes 2 source ++ leBytes 4 body.length ++ leBytes 4 job ++ leBytes 4 target ++ body
def entryMsg (epoch : Nat) : List Byte := message 1 epoch 9 77 6 (List.replicate 32 0)
def creditMsg (epoch kind : Nat) : List Byte := message 2 epoch 9 77 5 (leBytes 4 1 ++ leBytes 1 kind ++ leBytes 3 0)
theorem witness_LandingAndFabricMessages : let s := messaging Landing.init Ctx.init
    (NamesLanding 17 7 2 (entryMsg 0) 0 6 s ∧ NamesLanding 17 7 1 (creditMsg 0 0) 0 5 s) ∧ s.delivers 17 7 = true ∧ 7 < (s.rope 17).chans.length := by
  refine ⟨⟨⟨?_, ?_, ?_, _, rfl, ?_⟩, ⟨?_, ?_, ?_, _, rfl, ?_⟩⟩, ?_, ?_⟩
  all_goals first | decide +kernel | (and_intros <;> decide +kernel)
theorem witness_LandingAndFabricMessages_none : ∀ kind p n, ¬NamesLanding 17 7 kind (List.replicate 48 0) p n (messaging Landing.init Ctx.init) := by
  intro kind p n ⟨_, hp, hj, _⟩
  have hq : ((messaging Landing.init Ctx.init).vchan 17 7).part = some 0 := by decide +kernel
  obtain rfl : 0 = p := Option.some.inj (hq ▸ hp)
  exact absurd hj (by decide +kernel)
theorem witness_LandingAndFabricMessages_epochs : let s := messaging { Landing.init with owners := [1] } { Ctx.init with out := 1, state := .draining }
    mEpoch (entryMsg 0) = (s.svc 0).epoch ∧ mEpoch (entryMsg 255) ≠ (s.svc 0).epoch ∧ mAt (creditMsg 0 0) 4 1 ≠ 1 ∧ mAt (creditMsg 0 1) 4 1 = 1
    ∧ (s.landing 5).owners = (0 + 1) :: [] ∧ 0 < (s.ctx 0).out ∧ seqLater 8 (mEpoch (creditMsg 127 0)) (s.svc 0).epoch = true
    ∧ mEpoch (creditMsg 128 0) ≠ (s.svc 0).epoch ∧ seqLater 8 (mEpoch (creditMsg 128 0)) (s.svc 0).epoch = false := by decide +kernel
theorem witness_LandingAndFabricMessages_fabric : let s := messaging Landing.init Ctx.init
    let q : FabReq := ⟨.core 0, 1, 0, 64, 5 * 2 ^ 50, []⟩
    let busy := { s with fabric := { s.fabric with remote := List.replicate 64 ⟨17, 7, 0, 0, q⟩ } }
    agentOk (.core 0) = true ∧ fabPkg 0x40 = s.get Reg.PKG_ID_ID ∧ fabPkg (5 * 2 ^ 50) ≠ s.get Reg.PKG_ID_ID ∧ s.agentPart (.core 0) = some 0
    ∧ s.route? 0 5 = some (17, 7) ∧ s.outstanding 17 7 < 64 ∧ 64 ≤ busy.outstanding 17 7 ∧ s.route? 0 6 = none
    ∧ busy.fabric.remote.find? (fun x => x.rope == 17 && x.vc == 7 && x.tag == mAt (List.replicate 48 0) 4 2) = some ⟨17, 7, 0, 0, q⟩
    ∧ s.fabric.remote.find? (fun x => x.rope == 17 && x.vc == 7 && x.tag == mAt (List.replicate 48 0) 4 2) = none
    ∧ s.jobPart (mAt (message 0x19 0 0 0 0 (leBytes 4 77 ++ [0x80, 0, 0, 0])) 0 4) = some 0 ∧ s.jobPart (mAt (List.replicate 48 0) 0 4) = none
    ∧ bit (mAt (message 0x19 0 0 0 0 (leBytes 4 77 ++ [0x80, 0, 0, 0])) 4 1) 7 = true
    ∧ s.pathLacksAtomic (Agent.core 0).die (ropeDie 17) 1 = false := by decide +kernel
/-- Flight 0's atomic for package 5, which crosses a bundle without atomics. -/
theorem witness_LandingAndFabricMessages_lacks : let s := (messaging Landing.init Ctx.init).set (Reg.DL_STATUS_STATE 128) 2
    agentOk (.flight 0) = true ∧ s.agentPart (.flight 0) = some 0 ∧ s.route? 0 5 = some (17, 7)
    ∧ s.pathLacksAtomic (Agent.flight 0).die (ropeDie 17) (fabOff (5 * 2 ^ 50 + 64) / 64) = true := by decide +kernel

/-- Module 5 lit or not, with life counts. -/
def lasers (st lit : Nat) (l : Laser) : State := { up with lasers := [(5, l)] }.set (Reg.LASER_STATUS_STATE 5) st |>.set (Reg.LASER_STATUS_LIT 5) lit
theorem witness_LaserModules : let s := lasers 2 0x80 { Laser.init with serial := [1], life := List.replicate 7 0 ++ [2 ^ 90], enabled := 0xC0 }
    s.pkg ≠ .boot ∧ Uninjected s ∧ (bit (s.laser 5).enabled 7 = true ∧ bit (s.laser 5).enabled 0 = false)
    ∧ (bit (s.laser 5).enabled 6 = true ∧ bit (s.get (Reg.LASER_STATUS_LIT 5)) 6 = false) ∧ bit (s.get (Reg.LASER_STATUS_LIT 5)) 7 = true
    ∧ (lasers 0 0 Laser.init).laserSt 5 = 0 ∧ (lasers 1 0 Laser.init).laserSt 5 = 1 ∧ (s.laser 5).serial ≠ [] ∧ 7 < (s.laser 5).life.length
    ∧ 7 ∉ (s.laser 5).warned ∧ 7 ∉ (s.laser 5).ended
    ∧ s.get Reg.LASER_CFG_RATED_KH * 1000 * 3600 * 2 ^ 32 ≤ lget 0 (s.laser 5).life 7 + lifeRate 127 ∧ s.pins.falling = false
    ∧ bit 3 0 = true ∧ bit 3 1 = true ∧ s.laserSt 5 = 2 ∧ ((roped 3 Rope.init).set (Reg.ROPE_STATUS_ACTIVE 17) 0x80).ropeSt 17 = 3 := by
  unfold Uninjected; decide +kernel
theorem witness_LaserModules_life : let s := lasers 0 0 Laser.init
    s.journal.latest 5 (ofLe (fit 0 16 [1])) = none ∧ (∀ i, i < 8 → bit (s.get (Reg.LASER_STATUS_LIT 5)) i = false) ∧ (fit (0 : Byte) 16 [1]).length = 16 := by decide +kernel
/-- 10 R384: at 45 °C a second counts once, at 55 °C twice, at 25 °C and below a quarter. -/
theorem test_lifeRate : lifeRate 45 = 2 ^ 32 ∧ lifeRate 55 = 2 ^ 33 ∧ lifeRate 25 = 2 ^ 30 ∧ lifeRate (-40) = 2 ^ 30 ∧ lifeRate 100 = 2 ^ 35 := by
  decide +kernel

/-- Bundle 143 in a state. -/
def bundles (st : Nat) (b : Bundle) : State := { up with bundles := [(143, b)] }.set (Reg.DL_STATUS_STATE 143) st
/-- A DCP flit (11 R410) of a type and SEQ with two message bytes. -/
def dcpHead (type seq : Nat) : List Byte := leBytes 8 (type * 2 ^ 60 + seq * 2 ^ 50 + 2 * 2 ^ 16) ++ fit 0 244 [3, 9]
def dcpOf (type seq : Nat) : List Byte := dcpHead type seq ++ leBytes 4 (crc32c (dcpHead type seq))
theorem dcpOf_good : ∀ x ∈ [(1, 1023), (1, 0), (0, 0)], dcpBad (dcpOf x.1 x.2) = false := by
  intro x hx
  have hl : (dcpHead x.1 x.2).length = 252 := by simp [dcpHead]
  have h : ¬2 < (dcpHdr (dcpOf x.1 x.2)).type ∧ (dcpHdr (dcpOf x.1 x.2)).rsv = 0 := by
    revert x
    decide +kernel
  have ht : (dcpOf x.1 x.2).take 252 = dcpHead x.1 x.2 := by rw [dcpOf, List.take_left' hl]
  have hd : (dcpOf x.1 x.2).drop 252 = leBytes 4 (crc32c (dcpHead x.1 x.2)) := by rw [dcpOf, List.drop_left' hl]
  have hn : (dcpOf x.1 x.2).length = 256 := by rw [dcpOf, List.length_append, hl, leBytes_length]
  have hc : crc32c (dcpHead x.1 x.2) % 256 ^ 4 = crc32c (dcpHead x.1 x.2) := Nat.mod_eq_of_lt (by have := crc32c_lt (dcpHead x.1 x.2); omega)
  unfold dcpBad
  rw [ht, hd, hn, ofLe_leBytes, hc, h.2]
  simp [h.1]
theorem witness_DieLinkBundles : let b := { Bundle.init with ba := { DieDir.init with rxExpect := 1023, txNext := 1023, held := [(1022, 0, [])], stuck := 6 } }
    let s := bundles 2 b
    Uninjected s ∧ s.dieSt 143 = 2 ∧ (dcpHdr (dcpOf 1 1023)).ackValid = false
    ∧ (dcpHdr (dcpOf 1 1023)).type = 1 ∧ (dcpHdr (dcpOf 1 1023)).seq = ((s.bundle 143).dir 1).rxExpect ∧ b.ba.maySend (dcpOf 1 1023) = true
    ∧ (dcpHdr (dcpOf 1 1023)).seq = ((s.bundle 143).dir 1).txNext ∧ b.ba.flitChan [3, 9] < b.ba.credit.length ∧ seqLater 10 0 1023 = true
    ∧ seqLater 10 1022 1023 = false ∧ (dcpHdr (dcpOf 0 0)).type = 0 ∧ b.ba.ackMoved = false ∧ b.ba.stuck ≠ 7 ∧ Bundle.init.ab.held = [] := by
  unfold Uninjected; decide +kernel
/-- A first transmission that waits: the replay buffer holds 256 flits, or the channel has no credit. -/
theorem witness_DieLinkBundles_waits : let x := { DieDir.init with txNext := 1023 }
    { x with held := List.replicate 256 (0, 0, []) }.maySend (dcpOf 1 1023) = false ∧ { x with credit := [0, 0, 0, 0] }.maySend (dcpOf 1 1023) = false
    ∧ { x with credit := [0, 0, 0, 0] }.maySend (dcpOf 1 0) = true := by decide +kernel
def capOf (channels trained : Nat) : CapRec := ⟨1, 0, 0, 0, 3, 3, channels, true, trained, 0⟩
theorem witness_DieLinkBundles_train : let s := bundles 1 Bundle.init
    let fits := fun (x : CapRec) => x.major = 1 ∧ x.channels &&& 0xB = 0xB ∧ x.rates &&& 3 ≠ 0 ∧ x.widths &&& 3 ≠ 0
    let w := fun (x : CapRec) => if bit x.widths 1 then (s.bundle 143).width else min 1 (s.bundle 143).width
    s.dieSt 143 = 1 ∧ fits (capOf 0xB 2) ∧ ¬fits (capOf 0xA 2) ∧ fits { capOf 0xB 1 with widths := 1 } ∧ w { capOf 0xB 1 with widths := 1 } = 1
    ∧ (capOf 0xB 2).trained = w (capOf 0xB 2) ∧ (capOf 0xB 1).trained ≠ w (capOf 0xB 1) ∧ (s.bundle 143).narrowed = false
    ∧ ((bundles 1 { Bundle.init with narrowed := true }).bundle 143).narrowed = true ∧ (s.set (Reg.DL_STATUS_ATTEMPTS 143) 2).get (Reg.DL_STATUS_ATTEMPTS 143) = 2
    ∧ s.get (Reg.DL_STATUS_ATTEMPTS 143) < 2 := by decide +kernel
/-- Bundle 143 resetting, with no splice in force or with all eight taken for lane 63, whatever the factory splices are. -/
def splices (v : Nat) : State :=
  (upFrom 0 4).foldl (fun s i => s.set (spliceFld 143 0 i).2 63 |>.set (spliceFld 143 1 i).2 63 |>.set (spliceFld 143 0 i).1 v |>.set (spliceFld 143 1 i).1 v)
    (bundles 4 Bundle.init)
theorem splices_get (v : Nat) : (splices v).dieSt 143 = 4 ∧ ∀ d, d < 2 → ∀ i, i < 4 →
    (splices v).get (spliceFld 143 d i).1 = v % 2 ∧ (splices v).get (spliceFld 143 d i).2 = 63 := by
  refine ⟨?_, fun d hd i hi => ?_⟩
  · unfold splices State.dieSt
    simp (disch := decide) only [upFrom, List.foldl_cons, List.foldl_nil, Laws.get_set_other]
    decide +kernel
  · have hd : d = 0 ∨ d = 1 := by omega
    have hi : i = 0 ∨ i = 1 ∨ i = 2 ∨ i = 3 := by omega
    unfold splices
    rcases hd with rfl | rfl <;> rcases hi with rfl | rfl | rfl | rfl <;> constructor <;>
      simp (disch := decide) only [upFrom, List.foldl_cons, List.foldl_nil, Laws.get_set_self, Laws.get_set_other] <;> rfl
theorem witness_DieLinkBundles_lanes : (splices 0).dieSt 143 = 4 ∧ 63 ∉ (splices 0).spliced 143 1 ∧ (splices 0).get (spliceFld 143 1 0).1 = 0
    ∧ (bundles 4 Bundle.init).pins.falling = false
    ∧ (∀ i, i < 4 → (splices 1).get (spliceFld 143 0 i).1 = 1 ∧ (splices 1).get (spliceFld 143 1 i).1 = 1)
    ∧ (∀ d, d < 2 → (splices 1).spliced 143 d = [63, 63, 63, 63])
    ∧ (bit 0xA000_0000 29 = true ∧ bit 0xA000_0000 31 = true) ∧ bit 0 31 = false ∧ (bundles 3 Bundle.init).dieSt 143 = 3 ∧ (bit 0xC000_0000 31 = true ∧ bit 0xC000_0000 30 = true)
    ∧ (bit 0x4000_0000 31 = false ∧ bit 0x4000_0000 30 = true) := by
  have h1 := (splices_get 1).2
  have low : ∀ i ∈ upFrom 0 4, i < 4 := by decide
  have h0 : ∀ i, i < 4 → (splices 0).get (spliceFld 143 1 i).1 = 0 := fun i hi => ((splices_get 0).2 1 (by omega) i hi).1
  refine ⟨(splices_get 0).1, ?_, h0 0 (by omega), by decide, fun i hi => ⟨(h1 0 (by omega) i hi).1, (h1 1 (by omega) i hi).1⟩, fun d hd => ?_, ?_⟩
  · rw [State.spliced, List.filter_eq_nil_iff.2]
    · simp
    · intro i hi
      simp [State.on, h0 i (low i hi)]
  · rw [State.spliced, List.filter_eq_self.2]
    · exact (List.map_congr_left fun i hi => (h1 d hd i (low i hi)).2).trans (by decide)
    · intro i hi
      simp [State.on, (h1 d hd i (low i hi)).1]
  · decide +kernel
theorem witness_DieLinkBundles_serves : Serves 143 0 142 ((bundles 2 Bundle.init).set (Reg.DL_STATUS_STATE 142) 2) :=
  ⟨1, by decide, by decide, by decide, by unfold Carries; decide +kernel, fun j h g => absurd g (by omega)⟩

/-! ## The host port -/

/-- Partition 0 ACTIVE with a placeable region of 4 MiB at 0x40_0000; placement entry 63 as given. -/
def plcImage : Rigging := ⟨2 * 2 ^ 124, [(1, [gangEntry 0 0 0 0]), (9, [regionEntry 7 0xFF 0x40_0000 0x40_0000 + 2 ^ 48])], []⟩
def placing (base len1 off : Nat) : State :=
  (loadedWith plcImage).set (Reg.PLC_BASE_BASE 63) base |>.set (Reg.PLC_WIN_LEN_M1 63) len1 |>.set (Reg.PLC_WIN_OFF_2M 63) off
/-- VALID, READ and WRITE for requester 0x4100 in partition 0. -/
def plcValue : Nat := 7 * 2 ^ 29 + 0x4100
theorem witness_PlacementWindow : let s := placing 2 1 0
    let len := s.plcLen 63
    let busy := s.set (Reg.PLC_CFG_VALID 0) 1 |>.set (Reg.PLC_CFG_RID 0) 0x4100
    bit plcValue 31 = true ∧ bit 0x4100 31 = false ∧ ((s.imageOf 0).region? (2 * 0x20_0000) len).map Region.placeable = some true
    ∧ ((s.imageOf 0).region? (3 * 0x20_0000) len) = none ∧ s.partState 0 = 2 ∧ (s.set (partFld 0) 1).partState 0 ≠ 2
    ∧ busy.get (Reg.PLC_CFG_VALID 0) = 1 ∧ busy.get (Reg.PLC_CFG_RID 0) = bits plcValue 0 16 ∧ busy.plcStart 0 < s.plcStart 63 + len
    ∧ s.plcStart 63 < busy.plcStart 0 + busy.plcLen 0 ∧ (∀ j, j < 64 → s.get (Reg.PLC_CFG_VALID j) = 0)
    ∧ s.plcStart 63 + len ≤ 2 ^ 36 ∧ 2 ^ 36 < (placing 2 1 32767).plcStart 63 + len := by decide +kernel
def placed : State := after (.plcValidWrite 63 (BitVec.ofNat 32 plcValue)) (placing 2 1 32766)
theorem witness_PlacementWindow_request : let o := 32766 * 0x20_0000 + 0x3F_FF00
    (∀ j, j < 64 → (placed.get (Reg.PLC_CFG_VALID j) = 1 ↔ j = 63)) ∧ placed.get (Reg.PLC_CFG_RID 63) = 0x4100 ∧ placed.plcStart 63 ≤ o
    ∧ o < placed.plcStart 63 + placed.plcLen 63 ∧ placed.get (Reg.PLC_CFG_READ 63) = 1 ∧ placed.get (Reg.PLC_CFG_WRITE 63) = 1
    ∧ placed.fabCheck ⟨.window 0, opRead, 0, 256, 0x7F_FF00, []⟩ = 0 ∧ placed.fabCheck ⟨.window 0, opWrite, 0, 256, 0x7F_FF00, List.replicate 256 1⟩ = 0
    ∧ placed.fabCheck ⟨.window 0, opRead, 0, 2, 0x7F_FF00, []⟩ ≠ 0 ∧ placed.fabCheck ⟨.window 0, opWrite, 0, 2, 0x7F_FF00, [1, 2]⟩ ≠ 0
    ∧ Sound 0x7F_FF00 256 placed ∧ Uninjected placed ∧ placed.plcStart 63 ≠ 0 := by unfold Sound Uninjected; decide +kernel
/-- 12: the worked example's translated address. -/
theorem test_placement : let s := (placing 0x2_0000 511 2048).set Reg.PKG_ID_ID 0x305
    s.plcStart 63 = 2 ^ 32 ∧ s.plcLen 63 = 2 ^ 30
    ∧ fabAddr (s.get Reg.PKG_ID_ID) 0 (s.get (Reg.PLC_BASE_BASE 63) * 0x20_0000 + (0x1_0012_3400 - s.plcStart 63)) = 0x0C14_0040_0012_3400 := by decide +kernel

/-- Engine `e` bound to the physical function for partition 0, enabled, one entry before TAIL. -/
def copying (e : Nat) (h : Hce) : State :=
  { loadedWith ucImage with hces := [(e, { h with tail := 1 })] }.set (Reg.HCE_CTRL_ENABLE e) 1 |>.set (Reg.BIND_HCE_VALID e) 1
/-- A descriptor (12 R433): OP, LEN, host address, fabric address and PHASE. -/
def hceBytes (op len host fab phase : Nat) : List Byte :=
  leBytes 4 (op * 2 ^ 28 + 2 ^ 26 + 0xBEEF) ++ leBytes 4 len ++ leBytes 8 host ++ leBytes 8 fab ++ leBytes 4 0 ++ leBytes 4 (phase * 2 ^ 31)
def flying (done : Bool) : HceWork := ⟨15, hceDesc (hceBytes 0 0 0 0 1), done, 0, 0, none⟩
theorem witness_CopyEngines : let s := copying 15 Hce.init
    whoOk .pf = true ∧ s.hceReady 15 = true ∧ (hceDesc (hceBytes 0 0 0 0 1)).phase = (s.hce 15).phase ∧ (s.hce 15).work = []
    ∧ (flying false).desc.op = 0 ∧ (flying false).held = none
    ∧ s.hceError 15 (hceDesc (hceBytes 0 0 0 0 1)) = 0 ∧ s.hceError 15 (hceDesc (hceBytes 2 0 0 0 1)) = 0 ∧ (hceDesc (hceBytes 2 0 0 0 1)).op = 2
    ∧ s.hceError 15 (hceDesc (hceBytes 0 4 0 0 1)) = 2 ∧ s.hceError 15 (hceDesc (hceBytes 2 0 2 0 1)) = 3 ∧ s.hceError 15 (hceDesc (hceBytes 3 0 0 0 1)) = 1
    ∧ s.hceError 15 (hceDesc (hceBytes 1 64 0x1000 0x40_0000 1)) = 0 ∧ (hceDesc (hceBytes 1 64 0x1000 0x40_0000 1)).op = 1
    ∧ s.engCheck (.engine (s.enginePart 15) 15) opRead 0 64 ≠ 0 ∧ (hceDesc (hceBytes 0 0 0 0 0)).phase ≠ (s.hce 15).phase
    ∧ (copying 0 Hce.init).hceReady 0 = true ∧ (copying 0 Hce.init).engCheck (.engine 0 0) opWrite 0 64 ≠ 0
    ∧ fabCls (hceDesc (hceBytes 1 64 0x1000 0x40_0000 1)).fabricAddr = 0 := by decide +kernel
/-- Engine 0 beside ingest landing 5 (07 R256, R557); its first COPY waits for the host, and a second, with ORDER, has its bytes. -/
def pushing : State := { copying 0 Hce.init with landings := [(5, Landing.init)] }
def pushCopy : HceDesc := hceDesc (hceBytes 1 32 0x1000 (2 * 2 ^ 46 + 5 * 0x1_0000 + 0x8000) 1)
theorem witness_CopyEngines_push : pushing.hceError 0 pushCopy = 0 ∧ fabCls pushCopy.fabricAddr = 2
    ∧ pushing.fabCheck ⟨.engine (pushing.enginePart 0) 0, opWrite, 0, 32, pushCopy.fabricAddr, fit 0 32 []⟩ = 0 := by decide +kernel
def pulling (index : Nat) (held : Option (List Byte)) : HceWork :=
  ⟨index, hceDesc (hceBytes 1 64 0x1000 0x40_0000 1), false, 0, 0, held⟩
theorem witness_CopyEngines_order : let d := { hceDesc (hceBytes 1 64 0x1000 0x40_0000 1) with order := true }
    let s := copying 0 { Hce.init with work := [pulling 14 none, pulling 15 (some (List.replicate 64 7))] }
    s.hceReady 0 = true ∧ (∀ w ∈ (s.hce 0).work, w.index ≠ s.get (Reg.HCE_STATUS_HEAD 0)) ∧ (d.order = true ∧ ∃ w ∈ (s.hce 0).work, w.done = false)
    ∧ (s.hce 0).work.find? (fun w => !w.done && w.held.isNone && !(w.desc.op == 2 && decide (0 < 8))) = some (pulling 14 none)
    ∧ (∀ x ∈ (s.hce 0).work, x.index = (pulling 14 none).index → x = pulling 14 none) ∧ s.hceError 0 d = 0
    ∧ (∀ x ∈ [pulling 15 none], x.index ≠ (pulling 14 none).index) ∧ (pulling 14 none).desc.op = 1
    ∧ lineParts 0 64 = (0, 64) :: [] ∧ s.engCheck (.engine (s.enginePart 0) 0) opWrite 0 64 ≠ 0 := by decide +kernel
theorem witness_CopyEngines_access : EngReads (.engine 0 15) 0x40_0000 64 (copying 15 Hce.init) ∧ EngWrites (.engine 0 0) 0x40_0000 64 (copying 0 Hce.init)
    ∧ Uninjected (copying 0 Hce.init) := by unfold EngReads EngWrites EngMay Sound Uninjected; decide +kernel
theorem witness_CopyEngines_done : let s := copying 15 { Hce.init with work := [flying true], retries := 7 }
    let t := copying 15 { Hce.init with work := [flying false], retries := 6 }
    (s.hce 15).work = [flying true] ∧ (flying true).done = true ∧ s.engineFn? 15 = some 0 ∧ s.attached 0 = true ∧ s.hceSize 15 = 16
    ∧ (t.hce 15).work.find? (fun w => !w.done && w.held.isNone && !(w.desc.op == 2 && decide (15 < 8))) = some (flying false)
    ∧ ¬((flying false).desc.op = 2 ∧ 15 < 8) ∧ (t.hce 15).retries < 7 ∧ 7 ≤ (s.hce 15).retries ∧ s.vfDark .pf = false
    ∧ s.get (Reg.BIND_HCE_VALID 15) = 1 ∧ s.pkg ≠ .boot ∧ s.seesEngine .pf 15 = true ∧ (s.set (Reg.HCE_STATUS_STATE 15) 2).get (Reg.HCE_STATUS_STATE 15) = 2
    ∧ s.get (Reg.HCE_STATUS_STATE 15) ≠ 2 ∧ up.get (Reg.HCE_CTRL_ENABLE 15) = 0 ∧ (setLd 7 1 up).ldState 7 = 1
    ∧ (s.set (Reg.BIND_HCE_FUNC 15) 8).get (Reg.BIND_HCE_FUNC 15) = 1 + 7 := by decide +kernel

/-- The physical function's ring of 12's worked example: a record of eight body words is pending. -/
def eventRing (head : Nat) : State :=
  { up with rings := [(0, { EvRing.init with pend := [⟨0x0102, 9, none, none, none, List.replicate 8 0⟩] })] }.set (Reg.EVT_CFG_ENABLE 0) 1
    |>.set (Reg.EVT_TAIL_TAIL 0) 0xFE0 |>.set (Reg.EVT_HEAD_HEAD 0) head
theorem witness_EventRingsAndDetach : let s := eventRing 0x040
    whoOk .pf = true ∧ s.vfDark .pf = false ∧ whoSeesFn .pf 8 = true ∧ (setNumVfs 8 s).vfDark .pf = false
    ∧ ((setNumVfs 8 s).vfDark (.vf 0) = false ∧ whoSeesFn (.vf 0) 1 = true) ∧ (∀ x, x < 9 → (s.ring x).reattach = true → (s.ring x).detachCause ≠ 0)
    ∧ s.get (Reg.EVT_CFG_ENABLE 0) = 1 ∧ s.attached 0 = true ∧ s.get (Reg.EVT_TAIL_TAIL 0) < s.evtSize 0 ∧ s.get (Reg.EVT_HEAD_HEAD 0) < s.evtSize 0
    ∧ (s.ring 0).pend ≠ [] ∧ (s.ring 1).pend = [] ∧ s.get (Reg.EVT_CFG_ENABLE 8) = 0 ∧ up.pins.perstN = false ∧ bit 0x8000_0000 31 = true
    ∧ ({ s with pins := { s.pins with perstN := true } }).pins.perstN = true := by decide +kernel
/-- The lengths meet each case: 48 of 32 bytes before the end, 80 of 48 free with HEAD at 0x020 and of 80 with HEAD at 0x040. -/
theorem test_event_record : (recRest ⟨0x0102, 9, none, none, none, List.replicate 8 0⟩).length + 4 = 48
    ∧ ((after (.eventRecordWrite 0) (eventRing 0x020)).get (Reg.EVT_TAIL_TAIL 0) = 0xFE0 ∧ (after (.eventRecordWrite 0) (eventRing 0x020)).out = [])
    ∧ (after (.eventRecordWrite 0) (eventRing 0x040)).get (Reg.EVT_TAIL_TAIL 0) = 0x030
    ∧ (after (.eventRecordWrite 0) ((eventRing 0x040).set (Reg.EVT_TAIL_TAIL 0) 0)).get (Reg.EVT_TAIL_TAIL 0) = 0x030 := by decide +kernel
theorem witness_LinkAndMailboxes : let s := { up with pins := { up.pins with perstN := true } }
    (8 : Nat) ∈ [1, 2, 4, 8, 16] ∧ (4 : Nat) ∈ [1, 2, 4, 8, 16] ∧ s.pins.perstN = true ∧ (2 : Nat) < 3 ∧ 3 ≤ 63
    ∧ (s.set (Reg.BIND_MB_VALID 63) 1).get (Reg.BIND_MB_VALID 63) = 1 := by decide +kernel
/-- 12 R448: bits gather, a clear takes away the ones written, and a masked bit signals nothing. -/
theorem test_mailbox : let s := (up.set (Reg.MB_P2H 2) 0xF).set (Reg.MB_P2H_MASK 2) 0xFFFF_FFFE
    (after (.mbP2hClear .pf 2 0x3 0x10) s).get (Reg.MB_P2H 2) = 0x1C ∧ (after (.mbP2hClear .pf 2 0x3 0x10) s).out = []
    ∧ (after (.mbP2hClear .pf 2 0x2 0) s).out ≠ [] ∧ (after (.mbH2pWrite .pf 2 5) (up.set (Reg.MB_H2P_PEND 2) 2)).get (Reg.MB_H2P_PEND 2) = 7 := by
  decide +kernel

/-! ## The step service -/

/-- Job 77 of three packages, its buddy package 5, with a checkpoint region of 4 MiB at 0x40_0000, and the tree: parent 4 on rope 16, a child on rope 17. -/
def jobImage : Rigging := ⟨2 * 2 ^ 124 + 77 * 2 ^ 128 + 5 * 2 ^ 176 + 3 * 2 ^ 256, [(1, [gangEntry 0 0 0 0]),
  (4, [stageEntry 0 0xFFFF 0xFFFF 0xFFFF 0xFFFF 1 1 0 0 3]), (9, [regionEntry 6 0xFF 0x40_0000 0x40_0000])], []⟩
def jobbing (root children : Nat) (v : Svc) : State :=
  { loadedWith jobImage with svcs := [(0, v)], ropes := [(17, { Rope.init with chans := lset Rope.init.chans 7 open7 })] }.set (Reg.TREE_CFG_ROOT 0) root
    |>.set (Reg.TREE_CFG_CHILDREN 0) children |>.set (Reg.TREE_CFG_PARENT_ROPE 0) 16 |>.set (Reg.TREE_CFG_PARENT_ID 0) 4
    |>.set (Reg.ROPE_PEER_PEER_ID 17) 5 |>.set (Reg.ROPE_PEER_PEER_ID 16) 4
/-- The step service in a state, with the child on rope 17 joined or not. -/
def joining (st : SvcState) : Svc := { Svc.init with state := st }
def joined (st : SvcState) : Svc := { joining st with joined := [(17, 5, 2)] }
def treeMsg (flags cause step a b : Nat) : TreeMsg := ⟨77, flags, cause, step, a, b⟩

theorem witness_JobsStart : let s := jobbing 0 0 Svc.init
    let t := { s with rigs := s.rigs ++ [(1, s.rig 0)] }
    s.pkg ≠ .boot ∧ s.partState 0 = 2 ∧ (s.svc 0).state = .idle ∧ (s.svc 0).held = [] ∧ (∀ q ∈ s.loaded, q ≠ 0 → (s.imageOf q).jobId ≠ (s.imageOf 0).jobId)
    ∧ s.get (Reg.TREE_CFG_CHILDREN 0) = 0 ∧ (jobbing 0 2 Svc.init).get (Reg.TREE_CFG_CHILDREN 0) ≠ 0 ∧ s.hasParent 0 = true ∧ (jobbing 1 0 Svc.init).isRoot 0 = true
    ∧ ¬(∀ q ∈ t.loaded, q ≠ 0 → (t.imageOf q).jobId ≠ (t.imageOf 0).jobId)
    ∧ (jobbing 0 0 (joining .joining)).svc 0 ≠ Svc.init ∧ s.jobPart 77 = some 0 ∧ s.jobPart 78 = none := by decide +kernel
/-- A root of one package starts at once. -/
theorem witness_JobsStart_one : let s := { loadedWith { jobImage with hdr := 2 * 2 ^ 124 + 77 * 2 ^ 128 + 2 ^ 256 } with svcs := [] }.set (Reg.TREE_CFG_ROOT 0) 1
    (s.imageOf 0).instPackages = 1 ∧ s.isRoot 0 = true ∧ s.partState 0 = 2 ∧ s.get (Reg.TREE_CFG_CHILDREN 0) = 0 ∧ (s.svc 0).held = []
    ∧ (∀ q ∈ s.loaded, q ≠ 0 → (s.imageOf q).jobId ≠ (s.imageOf 0).jobId) := by decide +kernel
theorem witness_JobsStart_joins : let s := jobbing 0 2 (joining .joining)
    let peer := s.get (Reg.ROPE_PEER_PEER_ID 17)
    (17 : Nat) ≠ s.parentRope 0 ∧ peer ≠ s.get (Reg.TREE_CFG_PARENT_ID 0) ∧ (∀ j ∈ (s.svc 0).joined, j.2.1 ≠ peer) ∧ (s.svc 0).joined.length + 1 < s.get (Reg.TREE_CFG_CHILDREN 0)
    ∧ (treeMsg 0 0 0 0 2).step = s.get (Reg.STEP_BASE_STEP 0) ∧ (treeMsg 0 0 0 0 2).a = s.get (Reg.STEP_VBASE_COUNT 0)
    ∧ (treeMsg 0 0 1 0 2).step ≠ s.get (Reg.STEP_BASE_STEP 0) ∧ (jobbing 0 1 (joining .joining)).get (Reg.TREE_CFG_CHILDREN 0) = 1
    ∧ (jobbing 1 1 (joining .joining)).isRoot 0 = true ∧ ((jobbing 1 1 (joining .joining)).svc 0).joined.foldl (fun n j => n + j.2.2) 1 + 2 = (s.imageOf 0).instPackages
    ∧ ((jobbing 1 1 (joining .joining)).svc 0).joined.foldl (fun n j => n + j.2.2) 1 + 1 ≠ (s.imageOf 0).instPackages
    ∧ (∃ j ∈ ((jobbing 0 2 (joined .joining)).svc 0).joined, j.2.1 = peer) ∧ s.parentRope 0 = 16 ∧ (s.svc 0).state = .joining ∧ (s.svc 0).spare = false
    ∧ ((jobbing 0 1 (joined .running)).svc 0).state ≠ .joining := by decide +kernel

theorem witness_StepsResolve : let s := jobbing 0 1 { joined .running with votes := [(17, treeMsg 3 0 1 1 0)] }
    let r := jobbing 1 1 { joined .running with votes := [(17, treeMsg 3 0 1 1 0)] }
    VoteDue 0 s ∧ s.isRoot 0 = false ∧ VoteDue 0 r ∧ r.isRoot 0 = true ∧ ¬VoteDue 0 (jobbing 0 1 (joined .running)) ∧ VotesFinite 0 s ∧ VotesAgree 0 s
    ∧ ¬VotesFinite 0 (jobbing 0 1 { joined .running with votes := [(17, treeMsg 0 0 1 1 0)] }) := by
  unfold VoteDue VotesFinite VotesAgree; decide +kernel
theorem witness_StepsResolve_votes : let s := jobbing 1 1 (joined .catchup)
    s.jobPart (treeMsg 3 0 1 1 0).job = some 0 ∧ (∃ j ∈ (s.svc 0).joined, j.1 = 17) ∧ (s.svc 0).state = .catchup ∧ (s.svc 0).order = none
    ∧ (∀ j ∈ (s.svc 0).joined, j.1 ≠ 16) ∧ (jobbing 0 1 (joined .catchup)).isRoot 0 = false
    ∧ VoteDue 0 (s.setSvc 0 { s.svc 0 with votes := ((s.svc 0).votes.filter fun x => x.1 != 17) ++ [(17, treeMsg 3 0 1 1 0)] })
    ∧ (treeMsg 0 0 1 2 0).step = (s.svc 0).decided + 1 ∧ (treeMsg 0 0 1 2 0).a = 2 ∧ (treeMsg 0 0 1 0 0).a ≠ 2 ∧ (treeMsg 0 0 2 0 0).step ≠ (s.svc 0).decided + 1
    ∧ (s.svc 0).state ≠ .idle := by unfold VoteDue; decide +kernel

/-- An order in force. -/
def order (kind : OrderKind) (target : Nat) (absorbed : Option Nat) : Order := ⟨kind, target, 6, 1, true, true, false, absorbed⟩
def ordered (o : Order) : Svc := { joined .rewinding with order := some o, rewound := [(17, 9)] }
theorem witness_RewindsAndHalts : let s := jobbing 1 1 (joined .running)
    Uninjected s ∧ s.jobPart 77 = some 0 ∧ s.pkg ≠ .boot ∧ (s.svc 0).order = none ∧ (s.svc 0).state = .running ∧ (∃ j ∈ (s.svc 0).joined, j.1 = 17)
    ∧ bit (treeMsg 0 6 0 2 0).flags 0 = false ∧ s.isRoot 0 = true ∧ (jobbing 0 1 (joined .running)).isRoot 0 = false ∧ bit (treeMsg 1 6 3 1 0).flags 0 = true
    ∧ (jobbing 0 1 (joined .running)).parentRope 0 = 16 ∧ (s.svc 0).state ≠ .halted := by unfold Uninjected; decide +kernel
/-- The winding down of partition 0 since time 0, with tread 0 in RUN or HALT. -/
def winding (st : TState) : State :=
  { loadedWith jobImage with rigs := [(0, { (loadedWith jobImage).rig 0 with winding := true })], treads := [(0, { Tread.init with st := st })] }
theorem witness_RewindsAndHalts_winds : ((winding .run).rig 0).winding = true ∧ ((winding .run).rig 0).windStart + 10_000_000 ≤ max (winding .run).time 10_000_000
    ∧ (winding .run).woundDown 0 = false ∧ ((winding .run).svc 0).order = none ∧ (∀ gf ∈ (winding .run).placedFlights 0, ∀ a, a < 4 → ((winding .run).array gf a).drain = none)
    ∧ max (winding .run).time 9_999_999 < ((winding .run).rig 0).windStart + 10_000_000 ∧ (winding .halt).woundDown 0 = true
    ∧ (winding .run).partTreads 0 = [0] ∧ (winding .run).placedFlights 0 ≠ [] := by decide +kernel
/-- A memory whose check fields stand as written has no line that fails. -/
theorem none_fails (s : State) (h : s.memCheck = []) (n : Nat) : s.lineFails n = false := by simp [State.lineFails, h, tget]
theorem witness_RewindsAndHalts_rewound : let o := { order .rewind 4 none with undone := false, workDone := false }
    let s := jobbing 0 1 { joined .rewinding with order := some o }
    (s.svc 0).order = some o ∧ o.kind = .rewind ∧ o.undone = false ∧ o.workDone = false ∧ s.woundDown 0 = true ∧ (∀ x ∈ s.sparse, x.part ≠ 0) ∧ s.memCheck = [] := by
  decide +kernel
theorem witness_RewindsAndHalts_answers : ∀ o ∈ [order .rewind 4 none, order .rewind 4 (some 5), order .query 0 none, order .rollback 4 none], ∀ root ∈ [0, 1],
    let s := jobbing root 1 (ordered o)
    (s.svc 0).order = some o ∧ o.workDone = true ∧ o.sent = false ∧ s.get (Reg.TREE_CFG_CHILDREN 0) ≤ (s.svc 0).joined.length
    ∧ (∀ j ∈ (s.svc 0).joined, ∃ x ∈ (s.svc 0).rewound, x.1 = j.1) ∧ (s.rig 0).rerigs = [] ∧ s.isRoot 0 = (root == 1)
    ∧ (s.svc 0).rewound.foldl (fun n x => max n x.2) (s.get (Reg.CKPT_SAFE_STEP 0)) ≠ 0 := by decide +kernel
theorem witness_RewindsAndHalts_resumes : let o := { order .rewind 4 none with sent := true }
    let s := jobbing 0 1 (ordered o)
    s.jobPart 77 = some 0 ∧ (s.svc 0).order = some o ∧ s.isRoot 0 = false ∧ s.parentRope 0 = 16 ∧ o.sent = true ∧ o.kind ≠ .query ∧ (treeMsg 0 0 4 0 0).step = o.target
    ∧ (treeMsg 0 0 5 0 0).step ≠ o.target ∧ (∃ j ∈ (s.svc 0).joined, j.1 = 17) ∧ (order .rewind 4 none).sent = false := by decide +kernel

theorem witness_PeersAndSpares : let s := jobbing 0 1 { joined .running with heard := [(17, 5), (16, 5)] }
    s.jobPart 77 = some 0 ∧ (s.svc 0).state = .running ∧ (s.svc 0).spare = false ∧ s.edgePeer 0 17 = some 5 ∧ s.edgePeer 0 16 = some 4
    ∧ (s.svc 0).heard.find? (fun x => x.1 == 17) = some (17, 5) ∧ (5 : Nat) + 100_000_000 ≤ max s.time 100_000_005 ∧ max s.time 100_000_004 < 5 + 100_000_000
    ∧ ((jobbing 0 1 Svc.init).svc 0).state = .idle := by decide +kernel
theorem witness_PeersAndSpares_spare : ∀ root ∈ [0, 1], let s := jobbing root 0 Svc.init
    s.pkg ≠ .boot ∧ s.partState 0 = 2 ∧ (s.svc 0).state = .idle ∧ (s.svc 0).outage = none ∧ (s.svc 0).order = none ∧ s.isRoot 0 = (root == 1)
    ∧ s.get (Reg.TREE_CFG_CHILDREN 0) = 0 ∧ ((jobbing root 0 (joining .joining)).svc 0).state ≠ .idle := by decide +kernel

/-- A checkpoint message (13 R470): step, slot, offset and bytes. -/
def ckMsg (job step part slot off : Nat) (data : List Byte) : List Byte :=
  message 6 0 5 job 0 (leBytes 8 step ++ leBytes 1 part ++ leBytes 1 slot ++ leBytes 6 0 ++ leBytes 8 off ++ data)
/-- The frames of job 77: step 4 here in slot 1, step 3 of the ward in part in slot 0 and whole in slot 1. -/
def framed : Svc := { joined .running with frames := [Frame.none, ⟨4, true, false, false, 64⟩], ward := [⟨3, false, false, false, 64⟩, ⟨2, true, true, false, 64⟩] }
def ckRestore : Svc := { framed with restore := some 4, order := some (order .rollback 4 none) }
theorem witness_CheckpointMessages : let s := jobbing 0 1 framed
    let m := ckMsg 77 4 0 1 0xF_FFF0 (List.replicate 16 7)
    s.delivers 17 7 = true ∧ (s.vchan 17 7).part = some 0 ∧ Uninjected s ∧ (s.svc 0).frames.length = 2 ∧ (s.svc 0).ward.length = 2
    ∧ mJob m = (s.imageOf 0).jobId ∧ mAt m 0 8 = 4 ∧ mAt m 9 1 = 1 ∧ mAt m 16 8 + ((mBody m).drop 24).length = (s.frameArea 0 0).2
    ∧ mJob (ckMsg 78 4 0 1 0 []) ≠ (s.imageOf 0).jobId ∧ ¬mAt (ckMsg 77 4 0 2 0 []) 9 1 < 2
    ∧ Sound ((s.frameArea 0 3).1 + 0xF_FFF0) 16 s ∧ Sound ((s.frameArea 0 1).1 + 0xF_FFF0) 16 s := by unfold Uninjected Sound; decide +kernel
theorem witness_CheckpointMessages_done : let s := jobbing 0 1 framed
    let w := lget Frame.none (s.svc 0).ward 0
    let f := lget Frame.none (s.svc 0).frames 1
    (w.step = 3 ∧ w.here = false ∧ w.len ≠ 0) ∧ (lget Frame.none (s.svc 0).ward 1).step ≠ 4 ∧ f.step = 4 ∧ f.here = true ∧ f.acked = false
    ∧ s.get (Reg.ROPE_PEER_PEER_ID 17) = (s.imageOf 0).buddyId ∧ s.get (Reg.CKPT_CFG_COLD_MULT 0) = 0
    ∧ (s.svc 0).ward.findIdx? (fun w => w.step == 2 && w.complete) = some 1 ∧ Sound ((s.frameArea 0 3).1) 64 s ∧ (s.svc 0).restore ≠ some 4
    ∧ (jobbing 0 1 ckRestore).svc 0 = ckRestore ∧ ckRestore.restore = some 4 ∧ ckRestore.order = some (order .rollback 4 none) ∧ (jobbing 0 1 ckRestore).memCheck = [] := by
  unfold Sound; decide +kernel

/-- The STORAGE buffer at page 1 of the host, its bit set; a frame of 4096 bytes in slot 1 on its way to storage. -/
def storing (q : StorageReq) : State :=
  jobbing 0 1 { joined .running with frames := [Frame.none, ⟨4, true, true, true, 4096⟩], storage := [q] } |>.set (Reg.BNC_BASE_BASE 0) 1
    |>.set (Reg.MB_H2P_PEND 0) 1
/-- A response (13 R472): its ID, status and PHASE. -/
def answer (id status phase : Nat) : List Byte := leBytes 2 id ++ leBytes 1 status ++ List.replicate 12 0 ++ leBytes 1 (0x80 * phase)
theorem witness_StorageAndJournal : ∀ q ∈ [(⟨0xFFFF, true, 4, 1, 0, 0⟩ : StorageReq), ⟨0xFFFF, false, 4, 1, 2048, 2048⟩, ⟨0xFFFF, false, 4, 1, 0, 2047⟩],
    let s := storing q
    let e := answer 0xFFFF 0 1
    s.bncReady 0 = true ∧ bit (s.get (Reg.MB_H2P_PEND 0)) 0 = true ∧ e.length = 16 ∧ bit (lget 0 e 15).toNat 7 = (s.det.rsps / 32 % 2 == 0)
    ∧ (s.svc 0).storage = [q] ∧ q.id = ofLe (e.take 2) ∧ (∀ p', p' < 8 → p' ≠ 0 → (s.svc p').storage = []) ∧ (∀ p', p' < 8 → p' ≠ 0 → (s.svc p').frames.any Frame.cold = false)
    ∧ lget 0 e 2 = 0 ∧ lget 0 (answer 0xFFFF 1 1) 2 ≠ 0 ∧ q.slot < (s.svc 0).frames.length ∧ (lget Frame.none (s.svc 0).frames 0).cold = false
    ∧ bit (lget 0 (answer 0xFFFF 0 0) 15).toNat 7 ≠ (s.det.rsps / 32 % 2 == 0) := by decide +kernel
theorem witness_StorageAndJournal_goes : let s := storing ⟨0xFFFF, false, 4, 1, 0, 2047⟩
    let f := lget Frame.none (s.svc 0).frames 1
    f.len ≤ 2048 + 2048 ∧ 0 + 2047 < f.len ∧ Uninjected s ∧ 0 < min s.storageRoom (f.len - 2047)
    ∧ Sound ((s.frameArea 0 1).1 + 2047) (min s.storageRoom (f.len - 2047)) s := by unfold Uninjected Sound; decide +kernel
def pinnable : State := { jobbing 0 1 { Svc.init with pinEnd := some 7 } with parts := [(0, { Part.init with count := 3, slots := [(7, (.newest, 3))] })] }
theorem witness_StorageAndJournal_pins : let s := pinnable
    let t := s.set (Reg.SNAP_STATUS_STATE 0) 2
    s.pkg ≠ .boot ∧ bit 0x8000_0000 31 = true ∧ bit 0x4000_0000 30 = true ∧ s.get (Reg.SNAP_STATUS_STATE 0) ≠ 2 ∧ s.newestSlot? 0 = some 7 ∧ t.get (Reg.SNAP_STATUS_STATE 0) = 2
    ∧ (t.svc 0).pinEnd = some 7 ∧ 7 ≤ max t.time 7 ∧ max t.time 6 < 7 := by decide +kernel
theorem witness_StorageAndJournal_journal : let j := Journal.init
    up.pkg ≠ .boot ∧ j.copying = false ∧ j.active = some false ∧ ({ j with hdr1 := ⟨2, 2⟩ } : Journal).active = some true ∧ ({ j with hdr1 := ⟨2, 1⟩ } : Journal).hdr1.state = 1
    ∧ j.hdr0.state ≠ 1 ∧ j.hdr0.generation < 2 ∧ up.pins.falling = false := by decide +kernel

/-! ## Tenancy, keys and debug -/

theorem leBytes4 (a b c d : Byte) : leBytes 4 (ofLe [a, b, c, d] % 2 ^ 32) = [a, b, c, d] := by
  have ha := a.isLt; have hb := b.isLt; have hc := c.isLt; have hd := d.isLt
  simp only [leBytes, ofLe, List.cons.injEq, and_true]
  refine ⟨?_, ?_, ?_, ?_⟩ <;> apply BitVec.eq_of_toNat_eq <;> simp only [BitVec.toNat_ofNat] <;> omega
/-- TENANT_ID of partition 7 spells 32 bytes. -/
def tenant (l : List Byte) (s : State) : State := (upFrom 0 8).foldl (fun s w => s.set (Reg.TENANT_ID 7 w) (ofLe ((l.drop (4 * w)).take 4))) s
theorem chunks (l : List Byte) : ∀ n a, ((upFrom a n).flatMap fun w => (l.drop (4 * w)).take 4) = (l.drop (4 * a)).take (4 * n)
  | 0, a => by simp [upFrom]
  | n + 1, a => by
    rw [upFrom, List.flatMap_cons, chunks l n (a + 1), show 4 * (n + 1) = 4 + 4 * n by omega, List.take_add, List.drop_drop]
    rfl
theorem leBytes_four : ∀ l : List Byte, l.length = 4 → leBytes 4 (ofLe l % 2 ^ 32) = l
  | [a, b, c, d], _ => leBytes4 a b c d
theorem tenant_get (l : List Byte) (f : Fld) (s : State) (h : ∀ w ∈ upFrom 0 8, f.key ≠ (Reg.TENANT_ID 7 w).key) : (tenant l s).get f = s.get f := by
  unfold tenant
  generalize upFrom 0 8 = ws at h
  induction ws generalizing s with
  | nil => rfl
  | cons w ws ih =>
    rw [List.foldl_cons, ih _ fun x hx => h x (List.mem_cons_of_mem _ hx), Laws.get_set_other _ _ (h w List.mem_cons_self)]
theorem tenant_word (l : List Byte) (s : State) : ∀ w ∈ upFrom 0 8, (tenant l s).get (Reg.TENANT_ID 7 w) = ofLe ((l.drop (4 * w)).take 4) % 2 ^ 32 := by
  intro w hw
  simp only [upFrom, List.mem_cons, List.not_mem_nil, or_false] at hw
  rcases hw with rfl | rfl | rfl | rfl | rfl | rfl | rfl | rfl <;> simp (disch := decide) only [tenant, upFrom, List.foldl_cons, List.foldl_nil, Laws.get_set_self, Laws.get_set_other] <;> rfl
theorem tenant_id (l : List Byte) (s : State) (hl : l.length = 32) : (tenant l s).tenantId 7 = l := by
  have h : (tenant l s).tenantId 7 = (upFrom 0 8).flatMap fun w => (l.drop (4 * w)).take 4 := by
    have hf : ∀ ws : List Nat, (∀ w ∈ ws, w ∈ upFrom 0 8 ∧ 4 * w + 4 ≤ 32) →
        (ws.flatMap fun w => leBytes 4 ((tenant l s).get (Reg.TENANT_ID 7 w))) = ws.flatMap fun w => (l.drop (4 * w)).take 4 := by
      intro ws hws
      induction ws with
      | nil => rfl
      | cons w ws ih =>
        have hw := hws w List.mem_cons_self
        rw [List.flatMap_cons, List.flatMap_cons, ih fun x hx => hws x (List.mem_cons_of_mem _ hx), tenant_word l s w hw.1,
          leBytes_four _ (by rw [List.length_take, List.length_drop, hl]; omega)]
    exact hf _ (by decide)
  rw [h, chunks l 8 0, List.drop_zero, List.take_of_length_le (by omega)]
theorem tenant_sec (l : List Byte) (s : State) : (tenant l s).sec = s.sec ∧ (tenant l s).ropes = s.ropes := ⟨rfl, rfl⟩

/-- A session of partition 7's function, authenticated with the key `[1]`. -/
def owned : Session := ⟨8, 0xFFFF, true, [1], [2], [3], 0⟩
/-- Partition 7 in a state, offered or not, with an epoch of link keys in force and staged, a sweep or none, and channel 7 of rope 17 changing keys or not. -/
def tenancy (st offered : Nat) (sweeping : List Nat) (old : Option Nat) : State :=
  { up with sec := { Sec.init with sessions := [owned], links := [(7, ⟨some (9, [4]), 0, some (10, [5])⟩)], mem := [(7, ⟨1, 2, 0, 0, sweeping⟩)] },
            ropes := [(17, { Rope.init with chans := lset Rope.init.chans 7 { VChan.init 7 with part := some 7, old := old } })] }.set (partFld 7) st
    |>.set (Reg.PART_SEC_STATUS_OFFERED 7) offered
/-- The tenant whose key TENANT_ID names. -/
def ours (s : State) : State := tenant (Config.shake256 [1] 32) s
/-- A tenant whose key it does not name. -/
def others (s : State) : State := tenant ((Config.shake256 [1] 32).map (· + 1)) s
theorem shake_length (m : List Byte) (n : Nat) : (Config.shake256 m n).length = n := by simp [Config.shake256]
theorem witness_TenantCommands : ∀ st ∈ [0, 1, 2], ∀ sw ∈ [[], [3]], ∀ old ∈ [none, some 1], TenantSession 8 0xFFFF 7 (ours (tenancy st 1 sw old)) := by
  have h : ∀ st ∈ [0, 1, 2], ∀ sw ∈ [[], [3]], ∀ old ∈ [none, some 1], (tenancy st 1 sw old).doeBusy 8 = false ∧ (tenancy st 1 sw old).session? 8 0xFFFF = some owned := by
    decide +kernel
  intro st h1 sw h2 old h3
  obtain ⟨hb, hs⟩ := h st h1 sw h2 old h3
  refine ⟨by decide, by decide, ?_, .inr rfl, owned, ?_, rfl, by decide, ?_⟩
  · unfold ours State.doeBusy State.partState at *
    rw [tenant_get _ _ _ (by decide)]
    exact hb
  · exact hs
  · exact (tenant_id _ _ (shake_length _ _)).symm
theorem witness_TenantCommands_other : let s := others (tenancy 0 1 [] none)
    s.session? 8 0xFFFF = some owned ∧ Config.shake256 owned.owner 32 ≠ s.tenantId 7 := by
  refine ⟨by unfold others State.session?; rw [(tenant_sec _ _).1]; decide +kernel, ?_⟩
  unfold others
  rw [tenant_id _ _ (by simp [shake_length])]
  show Config.shake256 [1] 32 ≠ _
  have h := shake_length [1] 32
  revert h
  cases Config.shake256 [1] 32 with
  | nil => simp
  | cons a l => intro _ e; simp at e
theorem tenancy_in (f : Fld) (s : State) (h : ∀ w ∈ upFrom 0 8, f.key ≠ (Reg.TENANT_ID 7 w).key) : (ours s).get f = s.get f := tenant_get _ f s h
theorem witness_TenantCommands_states : (tenancy 0 1 [] none).partState 7 = 0 ∧ (tenancy 0 1 [] none).get (Reg.PART_SEC_STATUS_OFFERED 7) = 1
    ∧ (tenancy 0 0 [] none).get (Reg.PART_SEC_STATUS_OFFERED 7) ≠ 1 ∧ (tenancy 1 1 [] none).partState 7 = 1 ∧ (tenancy 2 1 [] none).partState 7 = 2 ∧ (3 : Nat) < 4 ∧ (4 : Nat) ≤ 4
    ∧ (tenancy 1 1 [] none).linkBusy 7 = false ∧ (tenancy 1 1 [] (some 1)).linkBusy 7 = true ∧ ((tenancy 1 1 [] none).link 7).staged = some (10, [5])
    ∧ (((tenancy 1 1 [] none).link 7).cur.map Prod.fst).getD 0 = 9 ∧ (9 : W16).toNat ≤ 9 ∧ 9 < (10 : W16).toNat ∧ (11 : W16).toNat ≠ 10
    ∧ (tget MemKeys.init (tenancy 1 1 [3] none).sec.mem 7).sweeping ≠ [] ∧ (tget MemKeys.init (tenancy 1 1 [] none).sec.mem 7).sweeping = [] := by decide +kernel
theorem witness_TenantCommands_refused : (tenancy 3 0 [] none).doeBusy 8 = true ∧ (tenancy 1 1 [] none).session? 8 5 = none ∧ (tenancy 1 1 [] none).doeBusy 8 = false
    ∧ (8 : Nat) ≠ 0 ∧ (8 : Nat) ≠ 6 + 1 ∧ (8 : Nat) ≤ 8 := by decide +kernel

/-- Partition 7 with an allotment, and partition 0 offered the GiB 1000 to 1009. -/
def offering (first size id : Nat) : State :=
  up.set (Reg.PART_ALLOT_BASE_GIB 7) first |>.set (Reg.PART_ALLOT_SIZE_GIB 7) size |>.set (Reg.TENANT_ID 7 7) id |>.set (Reg.PART_SEC_STATUS_OFFERED 0) 1
    |>.set (Reg.PART_ALLOT_BASE_GIB 0) 1000 |>.set (Reg.PART_ALLOT_SIZE_GIB 0) 10
theorem witness_PartitionOffers : let s := offering 1010 10 1
    let meets := fun (s : State) => ∃ q, q < 8 ∧ q ≠ 7 ∧ (s.get (Reg.PART_SEC_STATUS_OFFERED q) = 1 ∨ s.partState q ≠ 0)
      ∧ s.get (Reg.PART_ALLOT_BASE_GIB 7) < s.get (Reg.PART_ALLOT_BASE_GIB q) + s.get (Reg.PART_ALLOT_SIZE_GIB q)
      ∧ s.get (Reg.PART_ALLOT_BASE_GIB q) < s.get (Reg.PART_ALLOT_BASE_GIB 7) + s.get (Reg.PART_ALLOT_SIZE_GIB 7)
    s.pkg ≠ .boot ∧ bits 0x8000_0000 29 3 = 4 ∧ bits 0x2000_0000 29 3 = 1 ∧ bits 0x4000_0000 29 3 = 2 ∧ s.partState 7 = 0 ∧ s.get (Reg.PART_SEC_STATUS_OFFERED 7) ≠ 1
    ∧ s.get (Reg.PART_ALLOT_BASE_GIB 7) + s.get (Reg.PART_ALLOT_SIZE_GIB 7) = 1020 ∧ ¬meets s ∧ (∃ w, w < 8 ∧ s.get (Reg.TENANT_ID 7 w) % 2 ^ 32 ≠ 0)
    ∧ (∀ w, w < 8 → (offering 1010 10 0).get (Reg.TENANT_ID 7 w) = 0) ∧ meets (offering 1009 1 1) ∧ meets (offering 999 2 1) ∧ ¬meets (offering 999 1 1)
    ∧ (offering 1010 0 1).get (Reg.PART_ALLOT_SIZE_GIB 7) = 0 ∧ 1020 < (offering 1010 11 1).get (Reg.PART_ALLOT_BASE_GIB 7) + (offering 1010 11 1).get (Reg.PART_ALLOT_SIZE_GIB 7)
    ∧ (s.set (partFld 7) 1).partState 7 = 1 ∧ (s.set (partFld 7) 2).partState 7 = 2 ∧ (s.set (Reg.PART_SEC_STATUS_OFFERED 7) 1).get (Reg.PART_SEC_STATUS_OFFERED 7) = 1 := by
  decide +kernel

/-- Partition 7 at the front of the scrub queue, in a phase, with engine 15, placement entry 63 and channel 7 of rope 17 its own. -/
def scrubbing (phase : Nat) : State :=
  { up with sec := { Sec.init with scrubs := [7, 0], scrubPhase := phase, unavailable := [(7, 17, 77, 0x80)] } }.set (Reg.PART_ALLOT_BASE_GIB 7) 1019
    |>.set (Reg.PART_ALLOT_SIZE_GIB 7) 1 |>.set (Reg.PLC_CFG_PARTITION 63) 7 |>.set (Reg.BIND_HCE_VALID 15) 1 |>.set (Reg.BIND_HCE_FUNC 15) 8
theorem witness_ScrubsInPhases : up.sec.scrubs = [] ∧ (∀ n ∈ [0, 1, 2, 3], (scrubbing n).sec.scrubPhase = n ∧ (scrubbing n).sec.scrubs = 7 :: [0])
    ∧ (scrubbing 0).get (Reg.PLC_CFG_PARTITION 63) = 7 ∧ (scrubbing 0).engineFn? 15 = some (7 + 1) ∧ (7, 17, 77, 0x80) ∈ (scrubbing 1).sec.unavailable
    ∧ bit 0x80 7 = true ∧ 7 < ((scrubbing 1).rope 17).chans.length ∧ ((scrubbing 1).vchan 17 7).part = none
    ∧ (({ scrubbing 2 with ucs := [(15, { Undercroft.init with user := 7 + 1, scratch := [(0, 1)] })] }).uc 15).user = 7 + 1 ∧ ((scrubbing 2).uc 15).user ≠ 7 + 1
    ∧ (scrubbing 2).get (Reg.PART_ALLOT_BASE_GIB 7) * 2 ^ 30 ≤ 2 ^ 40 - 2 ^ 32 - 1
    ∧ 2 ^ 40 - 2 ^ 32 - 1 < ((scrubbing 2).get (Reg.PART_ALLOT_BASE_GIB 7) + (scrubbing 2).get (Reg.PART_ALLOT_SIZE_GIB 7)) * 2 ^ 30
    ∧ (scrubbing 2).get (Reg.PART_ALLOT_BASE_GIB 7) * 2 ^ 30 ≤ ((2 ^ 40 - 2 ^ 32) / 64 - 1) * 64 := by decide +kernel

/-- Fabric epoch 0xFFFE in force, 0xFFFF staged or none, and rope 17's control channel with an old key or none. -/
def fabricKeys (st : Nat) (staged : Option (Nat × List Byte)) (old : Option Nat) : State :=
  { up with sec := { Sec.init with fab := some (0xFFFE, [1]), fabStaged := staged },
            ropes := [(17, { Rope.init with chans := lset Rope.init.chans 8 { VChan.init 8 with old := old } })] }.set (Reg.ROPE_STATUS_STATE 17) st
theorem witness_FabricSecret : let s := fabricKeys 3 (some (0xFFFF, [2])) none
    s.pkg ≠ .boot ∧ bit 0x8000_FFFF 31 = true ∧ bit 0x4000_FFFF 30 = true ∧ bit 0x8000_FFFF 30 = false ∧ s.fabEpoch < bits 0x8000_FFFF 0 16 ∧ bits 0x8000_FFFE 0 16 ≤ s.fabEpoch
    ∧ s.fabBusy = false ∧ (fabricKeys 3 none (some 1)).fabBusy = true ∧ (fabricKeys 3 none none).sec.fabStaged = none ∧ s.sec.fabStaged = some (0xFFFF, [2])
    ∧ 8 < (s.rope 17).chans.length ∧ s.ropeSt 17 = 3 ∧ (fabricKeys 4 none none).ropeSt 17 = 4 ∧ (fabricKeys 1 none none).ropeSt 17 = 1
    ∧ ((fabricKeys 1 none none).rope 17).phase = 0 ∧ ((fabricKeys 0 none (some 1)).vchan 17 8).old = some 1 := by decide +kernel

theorem witness_DebugOpens : let s := up
    let t := { up with sec := { Sec.init with fails := 8 } }
    s.pkg ≠ .boot ∧ bit 0x4000_0000 30 = true ∧ s.sec.fails < 8 ∧ { s.sec with fails := 7 }.fails < 8 ∧ 8 ≤ t.sec.fails ∧ bit 0x8000_0000 30 = false ∧ bit 0x2000_0000 29 = true
    ∧ bit 0xC000_0000 29 = false := by decide +kernel
/-- Debug open, with partition 0 on GiB 1019 and DBG_ADDR as given. -/
def dbgImage : Rigging := ⟨jobImage.hdr, [(1, [gangEntry 0 0 0 0]), (9, [regionEntry 7 0xFF (1020 * 2 ^ 30 - 0x20_0000) 0x20_0000])], []⟩
def debugging (addr : Nat) : State :=
  (loadedWith dbgImage).set Reg.DBG_STATUS_UNLOCKED 1 |>.set (Reg.PART_ALLOT_BASE_GIB 0) 1019 |>.set (Reg.PART_ALLOT_SIZE_GIB 0) 1 |>.set Reg.DBG_ADDR_ADDR addr
def lastBytes : Nat := 1020 * 2 ^ 30 - 256
theorem witness_DebugAccesses : let s := debugging lastBytes
    s.pkg ≠ .boot ∧ s.get Reg.DBG_STATUS_UNLOCKED = 1 ∧ s.get Reg.DBG_STATUS_BUSY ≠ 1 ∧ s.get Reg.DBG_ADDR_ADDR = lastBytes ∧ fabPkg lastBytes = s.get Reg.PKG_ID_ID
    ∧ bit 0x8000_0100 31 = true ∧ bit 0x8000_0100 30 = false ∧ bit 0xC000_0100 30 = true ∧ bits 0xC000_0100 0 9 = 256 ∧ up.get Reg.DBG_STATUS_UNLOCKED ≠ 1
    ∧ s.fabCheck ⟨.debug false, opRead, 0, 256, lastBytes, []⟩ = 0 ∧ s.fabCheck ⟨.debug false, opWrite, 0, 256, lastBytes, List.replicate 256 0⟩ = 0
    ∧ s.fabCheck ⟨.debug false, opRead, 0, 2, lastBytes, []⟩ ≠ 0 ∧ s.fabCheck ⟨.debug true, opRead, 0, 256, lastBytes, []⟩ = 0
    ∧ s.fabCheck ⟨.debug true, opWrite, 0, 256, lastBytes, List.replicate 256 0⟩ = 0
    ∧ fabCls lastBytes = 0 ∧ s.debugPart lastBytes = some 0 ∧ Sound (fabOff lastBytes) 256 s ∧ Uninjected s
    ∧ s.get (Reg.DEBUG_READS_COUNT 0) < 2 ^ 32 ∧ s.get (Reg.DEBUG_WRITES_COUNT 0) < 2 ^ 32 := by unfold Sound Uninjected; decide +kernel
theorem witness_DebugAccesses_sram : let s := debugging 0
    let addr := 2 ^ 46 + 15 * 17 * 0x4000 + 0x3FFC
    let probe : FabReq := ⟨.debug true, opRead, 0, 4, addr, List.replicate 4 0⟩
    fabPkg addr = s.get Reg.PKG_ID_ID ∧ s.fabCheck probe = 0 ∧ fabCls addr = 1 ∧ s.fabWaits probe = false ∧ sramPlace (fabOff addr) = .data 0 15 0 0x3FFC
    ∧ s.sramTarget (.data 0 15 0 0x3FFC) = some (15 * 32) := by decide +kernel

theorem witness_FirmwareStarts : let s := up.set (Reg.MB_H2P_PEND 2) 3
    let ready := fun (s : State) => s.get (Reg.BNC_BASE_BASE 2) ≠ 0 ∧ (s.ring 0).detached = 0
    bit (s.get (Reg.MB_H2P_PEND 2)) 0 = true ∧ bit (s.get (Reg.MB_H2P_PEND 2)) 1 = true ∧ bit (up.get (Reg.MB_H2P_PEND 2)) 0 = false
    ∧ bit (up.get (Reg.MB_H2P_PEND 2)) 1 = false ∧ ready (s.set (Reg.BNC_BASE_BASE 2) 1) ∧ ¬ready s
    ∧ ¬ready { s.set (Reg.BNC_BASE_BASE 2) 1 with rings := [(0, { EvRing.init with detached := 1 })] } := by decide +kernel

/-- Function 8 with a negotiation and sessions. -/
def spoken (stage : Nat) (l : List Session) : State := { up with sec := { Sec.init with fns := [(8, ⟨stage, [7], 1⟩)], sessions := l } }
theorem witness_SpdmIdentity : (∀ n ∈ [0, 1, 2, 3], Spoken 8 n (spoken n [])) ∧ (spoken 0 []).doeBusy 8 = false ∧ ((spoken 0 []).spdm 8).stage < 1
    ∧ ((spoken 1 []).spdm 8).stage < 2 ∧ ((spoken 2 []).spdm 8).stage < 3 ∧ (tenancy 3 0 [] none).doeBusy 8 = true ∧ 0x1F ∉ measured 7 ∧ 0x1F ∈ measured 8
    ∧ 0 ≤ (spoken 3 []).chain.length := by
  unfold Spoken
  exact ⟨by decide +kernel, by and_intros <;> first | decide +kernel | exact Nat.zero_le _⟩
/-- 14 R493: what each function sees. -/
theorem test_measured : (measured 0).length = 22 ∧ measured 1 = [1, 2, 3, 4, 5, 6, 0x10, 0x18] ∧ measured 8 = [1, 2, 3, 4, 5, 6, 0x17, 0x1F] := by decide
def pendingSession : Session := { owned with id := 4, established := false }
theorem witness_SpdmSessions : let s := spoken 3 [owned, pendingSession, { owned with id := 6 }]
    s.doeBusy 8 = false ∧ 3 ≤ (s.spdm 8).stage ∧ (s.sec.sessions.filter fun x => x.fn == 8).length < 4
    ∧ 4 ≤ ((spoken 3 (List.replicate 4 owned)).sec.sessions.filter fun x => x.fn == 8).length ∧ s.session? 8 5 = none ∧ s.session? 8 4 = some pendingSession
    ∧ pendingSession.established = false ∧ s.session? 8 0xFFFF = some owned ∧ owned.established = true ∧ (8 : Nat) < 9 ∧ (2 : Nat) < 3 ∧ (8 : Nat) = 7 + 1
    ∧ Ide.init.keys = [] ∧ (⟨[1], false⟩ : Ide).keys ≠ [] ∧ (8 : Nat) ≠ 6 + 1 ∧ { s with pcie := { s.pcie with numVfs := 8 } }.fnExists 8 = true := by decide +kernel
theorem witness_SpdmSessions_pf : let s := { up with sec := { Sec.init with fns := [(0, ⟨3, [7], 1⟩)], sessions := [{ owned with fn := 0 }], ide := [(8, ⟨[1], false⟩)] } }
    s.doeBusy 0 = false ∧ s.session? 0 0xFFFF = some { owned with fn := 0 } ∧ (tget Ide.init s.sec.ide 8).keys ≠ [] ∧ (tget Ide.init s.sec.ide 7).keys = []
    ∧ s.fnExists (7 + 1) = false := by
  decide +kernel
theorem witness_MeasurementBlocks : (0x1F ∈ measured 0) ∧ (7 : Nat) < 8 ∧ (8 : Nat) < 9 := by decide

/-! ## Injection, calibration, self-test and pins -/

/-- Debug open and an injection selected. -/
def injecting (point target addr : Nat) : State :=
  (loadedWith msgImage).set Reg.DBG_STATUS_UNLOCKED 1 |>.set Reg.INJ_SEL_POINT point |>.set Reg.INJ_SEL_TARGET target |>.set Reg.INJ_ADDR_ADDR addr
theorem witness_InjectionArms : let s := injecting 1 (15 * 32) 0
    let a := { s with det := { s.det with armed := some ⟨6, 0, 0, 0, 1⟩ } }
    s.pkg ≠ .boot ∧ bit 0x8000_0000 31 = true ∧ bit 0x8000_0000 30 = false ∧ bit 0xC000_0000 30 = true ∧ up.get Reg.DBG_STATUS_UNLOCKED ≠ 1
    ∧ s.get Reg.DBG_STATUS_UNLOCKED = 1 ∧ s.det.armed = none ∧ a.det.armed = some ⟨6, 0, 0, 0, 1⟩ ∧ a.get Reg.DBG_STATUS_UNLOCKED = 1
    ∧ s.targetOk 1 (injTarget 1 (s.get Reg.INJ_SEL_TARGET)) 0 = true ∧ (injecting 0x10 0 0).get Reg.INJ_SEL_POINT ≠ 0 ∧ 0xF < (injecting 0x10 0 0).get Reg.INJ_SEL_POINT
    ∧ (injecting 0 0 0).get Reg.INJ_SEL_POINT = 0 ∧ s.targetOk 6 0 (2 ^ 40) = false ∧ s.targetOk 6 0 (2 ^ 40 - 1) = true
    ∧ (∀ x ∈ [(0x2, 1183 * 512), (0x3, 1183), (0x7, 17), (0x9, 143), (0xD, 0), (0xE, 0), (0xF, 12)], s.targetOk x.1 (injTarget x.1 x.2) 0 = true ∨ x.1 = 2)
    ∧ (∀ x ∈ [(0x3, 1184), (0x7, 18), (0x8, 18), (0x9, 144), (0xA, 17), (0xB, 1), (0xF, 13)], s.targetOk x.1 (injTarget x.1 x.2) 0 = false) := by decide +kernel
theorem witness_InjectionArms_channel : (messaging Landing.init Ctx.init).targetOk 0xA (injTarget 0xA (17 + 32 * 7)) 0 = true
    ∧ { up with power := { Power.init with injFailed := some 12, failed := [12] } }.power.injFailed = some 12 ∧ up.power.injFailed = none := by decide +kernel

theorem witness_CalibrationAndTelemetry : ∀ x ∈ [(1, 1183), (2, 1183), (3, 1183), (4, 12)],
    let s := { up with det := { up.det with user := [(x.1 * 4096 + x.2, 30000)] } }.set Reg.CAL_SEL_KIND x.1 |>.set Reg.CAL_SEL_INDEX x.2
    s.pkg ≠ .boot ∧ bit 0x8000_0000 31 = true ∧ s.get Reg.CAL_STATUS_BUSY ≠ 1 ∧ 1 ≤ s.get Reg.CAL_SEL_KIND ∧ s.get Reg.CAL_SEL_KIND ≤ 4
    ∧ s.get Reg.CAL_SEL_INDEX < (if s.get Reg.CAL_SEL_KIND = 4 then 13 else 1184) ∧ (calClamp x.1).2 < s.calUser x.1 x.2
    ∧ (calClamp x.1).1 ≤ up.calUser x.1 x.2 ∧ up.calUser x.1 x.2 ≤ (calClamp x.1).2 ∧ s.pins.falling = false := by decide +kernel
theorem witness_CalibrationAndTelemetry_not : ¬((up.set Reg.CAL_SEL_KIND 4).set Reg.CAL_SEL_INDEX 13).get Reg.CAL_SEL_INDEX < 13 ∧ up.get Reg.CAL_SEL_KIND = 0
    ∧ bit ((up.set (Reg.MB_H2P_PEND 1) 1).get (Reg.MB_H2P_PEND 1)) 0 = true ∧ bit (up.get (Reg.MB_H2P_PEND 1)) 0 = false := by decide +kernel

/-- BOOT in a phase of the self-test. -/
def selfTest (phase : Nat) : State := State.reset.set Reg.SELFTEST_STATUS_PHASE phase
theorem witness_SelfTestPhases : (∀ t ∈ [0, lastTread], treadOk t = true) ∧ (∀ g ∈ [0, 1183], g < 1184) ∧ up.pkg ≠ .boot
    ∧ (∀ n, n < 7 → (selfTest n).pkg = .boot ∧ max 1 ((selfTest n).get Reg.SELFTEST_STATUS_PHASE) = max 1 n)
    ∧ (selfTest 1).journal.copying = false ∧ (selfTest 1).journal.active ≠ none ∧ (selfTest 1).journal.body? 1 0 = none
    ∧ ((selfTest 6).set (Reg.ROPE_CTRL_ENABLE 17) 1).get (Reg.ROPE_CTRL_ENABLE 17) = 1 := by decide +kernel
/-- Phase 5: flight 1183 with a wrong element in the last block of its FP16 tile. The golden digests are free, so that a tile is sound or it
is not, whatever they are. -/
theorem witness_SelfTestPhases_arrays : let wrong := [(1183, 6, 16383, 0)]
    (∀ x ∈ wrong, selfElemOk x = true) ∧ 6 ∈ selfFmts ∧ ((∀ g fmt, g < 1184 → fmt ∈ selfFmts → outputDigest fmt (arrayOutput [] g fmt) = Config.golden fmt)
      ∨ ∃ g fmt, g < 1184 ∧ fmt ∈ selfFmts ∧ ¬outputDigest fmt (arrayOutput [] g fmt) = Config.golden fmt) := by
  refine ⟨by decide, by decide, ?_⟩
  by_cases h : ∀ g fmt, g < 1184 → fmt ∈ selfFmts → outputDigest fmt (arrayOutput [] g fmt) = Config.golden fmt
  · exact .inl h
  · simp only [Classical.not_forall] at h
    obtain ⟨g, fmt, hg, hf, hn⟩ := h
    exact .inr ⟨g, fmt, hg, hf, hn⟩
/-- Phase 6: flight 1183 reads 10.125 °C above the other flights of its gallery, or 10 °C. -/
theorem witness_SelfTestPhases_sensors : (∀ x ∈ [(1183, (81 : Int))], x.1 < 1184) ∧ (takeReadings [(1183, 81)] (selfTest 6)).sensorOk 1183 = false
    ∧ (takeReadings [(1183, 80)] (selfTest 6)).sensorOk 1183 = true := by decide +kernel
theorem witness_SelfTestPhases_journal : let j := { Journal.init with recs0 := [(⟨1, 0, [5, 0]⟩, true), (⟨7, 7, [1, 0, 0, 0, 2, 0, 0, 0]⟩, true)] }
    let s := { selfTest 1 with journal := j }
    s.journal.body? 1 0 = some [5, 0] ∧ s.journal.body? 7 7 = some [1, 0, 0, 0, 2, 0, 0, 0] ∧ s.journal.copying = false
    ∧ ({ j with hdr0 := ⟨1, 0⟩ } : Journal).active = none := by decide +kernel

/-- The pins in a state, with the converters on or off. -/
def pinned (q : Pins) (on : Bool) : State := { up with pins := q, power := { Power.init with convertersOn := on } }
theorem witness_PowerSequencing : ∀ en ∈ [false, true], ∀ good ∈ [false, true], ∀ rst ∈ [false, true], ∀ fall ∈ [false, true], ∀ hold ∈ [false, true], ∀ on ∈ [false, true],
    let s := pinned ⟨en, good, rst, false, true, true, true, fall, hold, false⟩ on
    s.pins.pwrEn = en ∧ s.pins.pwrGood = good ∧ s.pins.pkgRstN = rst ∧ s.pins.falling = fall ∧ s.pins.holdOff = hold ∧ s.power.convertersOn = on := by decide
/-- 16 R546, R547: a rise of PWR_EN in the hold-off waits for its end, and then starts the converters. -/
theorem test_power_edges : let s := after .pwrEnRise (pinned { Pins.init with pwrEn := false, pwrGood := false, holdOff := true } false)
    s.pins.riseWaits = true ∧ s.power.convertersOn = false ∧ (after .powerUpHoldoffEnd s).power.convertersOn = true
    ∧ (after .powerUpHoldoffEnd s).pins.holdOff = false := by decide +kernel
theorem witness_SensorsAndTestPort : up.pins.pwrGood = true ∧ up.pins.pkgRstN = true ∧ 50_000_000 ≤ max up.time 50_000_000 ∧ ¬50_000_000 ≤ max up.time 49_999_999
    ∧ (5 : Nat) < (if (4 : Nat) = 4 then 6 else 8) ∧ (7 : Nat) < (if (6 : Nat) = 4 then 6 else 8) := by decide

/-! ## The whole block -/

/-- Whether an outcome is a next state. -/
def goes : Host.Outcome State Fault Refusal → Bool
  | .next _ => true
  | _ => false
theorem witness_StepKeepsMemory : State.reset.mem.wf ∧ goes (step { State.reset with pending := [.refclkFabLoss] }) = true := by decide +kernel
/-- A command that moves PKG_STATE. -/
theorem witness_PackageStates : goes (exec .refclkFabLoss State.reset) = true ∧ (after .refclkFabLoss State.reset).pkg ≠ State.reset.pkg
    ∧ .refclkFabLoss ∉ [Instr.pwrGoodRise, .pwrGoodFall, .pkgRstAssert, .pkgRstRelease true, .pkgRstRelease false] := by decide +kernel

end Sys2Proof.Tests
end

section
/-!
PROOFS. Commands run or stop by their well-formedness (O2); registers as requesters meet them (O13, O14): fields written one
after another, latches, PART_COMMIT blocks and PKG_ID.
-/
namespace Sys2Proof.Machine
open State Laws

/-! ## Commands run when well-formed -/

/-- A result that is a next state with the queue of `s` when `ok` holds, and the fault of a missing unit when it does not. -/
def RunsWhen (ok : Bool) (s : State) (r : Result) : Prop :=
  (ok = true → ∃ t, r = .next t ∧ t.pending = s.pending) ∧ (ok = false → r = .fault .noSuchUnit)

theorem perform_runsWhen (ok : Bool) (f : State → State) (s : State) : RunsWhen ok s (perform ok f s) := by
  cases ok <;> simp [RunsWhen, perform]

/-! The families of commands whose shared opening stands between the command and `perform`. -/

theorem treeMsg_runsWhen (k : Nat) (m : TreeMsg) (f : Nat → State → State) (s : State) :
    RunsWhen (ropeOk k) s (treeMsg k m f s) := perform_runsWhen _ _ _

theorem ckMsg_runsWhen (k v : Nat) (msg : List Byte) (f : Nat → Nat → Nat → Nat → List Byte → State → State) (s : State) :
    RunsWhen (ropeOk k && vcOk v) s (ckMsg k v msg f s) := perform_runsWhen _ _ _

theorem tenantCmd_runsWhen (fn id p : Nat) (own : Bool) (states : List Nat) (f : State → Nat × State) (s : State) :
    RunsWhen (fnOk fn) s (tenantCmd fn id p own states f s) := perform_runsWhen _ _ _

theorem spdmCmd_runsWhen (fn stage : Nat) (f : State → State) (s : State) :
    RunsWhen (fnOk fn) s (spdmCmd fn stage f s) := perform_runsWhen _ _ _

theorem inSession_runsWhen (fn id : Nat) (f : Session → State → State) (s : State) :
    RunsWhen (fnOk fn) s (inSession fn id f s) := spdmCmd_runsWhen _ _ _ _

theorem testPort_runsWhen (code : Nat) (s : State) : RunsWhen true s (testPort code s) := perform_runsWhen _ _ _

/-- Every command runs under `perform` with exactly the check that `Instr.wf` names for it. -/
theorem exec_runsWhen_wf (c : Instr) (s : State) : RunsWhen c.wf s (exec c s) := by
  cases c <;> dsimp only [exec]
  case join | go | vote | decide_ | rewind | rewound | resume | heartbeat => exact treeMsg_runsWhen _ _ _ _
  case checkpointData | checkpointDone | checkpointFetch | checkpointReturn | checkpointReturnDone =>
    exact ckMsg_runsWhen _ _ _ _ _
  case claim | enrollRigKey | linkStage | linkSwitch | memRotate | end_ | status => exact tenantCmd_runsWhen _ _ _ _ _ _ _
  case getVersion | getCapabilities | negotiateAlgorithms | getDigests | getCertificate | challenge | getMeasurements
      | keyExchange | finish => exact spdmCmd_runsWhen _ _ _ _
  case keyUpdate | spdmHeartbeat | endSession => exact inSession_runsWhen _ _ _ _
  case extest | clamp | highz => exact testPort_runsWhen _ _
  all_goals exact perform_runsWhen _ _ _

/-- Settles O2: every command runs under the check that its well-formedness spells. -/
theorem wellFormedCompletes : Obligations.WellFormedCompletes :=
  exec_runsWhen_wf

/-! ## Registers -/

/-! Bits of a number. -/

theorem bit_eq_testBit (v i : Nat) : bit v i = v.testBit i := by
  rw [Nat.testBit_eq_decide_div_mod_eq]
  rfl

theorem testBit_bits (v lo w i : Nat) : (bits v lo w).testBit i = (decide (i < w) && v.testBit (lo + i)) := by
  rw [bits, ← Nat.shiftRight_eq_div_pow, Nat.testBit_mod_two_pow, Nat.testBit_shiftRight]

theorem bits_lt (v lo w : Nat) : bits v lo w < 2 ^ w := Nat.mod_lt _ (Nat.two_pow_pos w)

@[simp] theorem bits_mod_width (v lo w : Nat) : bits v lo w % 2 ^ w = bits v lo w := Nat.mod_eq_of_lt (bits_lt v lo w)

theorem bits_from_zero (v w : Nat) : bits v 0 w = v % 2 ^ w := by simp [bits]

/-- A field that lies in the low `w` bits depends on them alone. -/
theorem bits_congr_mod {v x w lo k : Nat} (h : v % 2 ^ w = x % 2 ^ w) (hk : lo + k ≤ w) : bits v lo k = bits x lo k := by
  refine Nat.eq_of_testBit_eq fun i => ?_
  rw [testBit_bits, testBit_bits]
  by_cases hi : i < k
  · have := congrArg (Nat.testBit · (lo + i)) h
    simpa [Nat.testBit_mod_two_pow, show lo + i < w by omega, hi] using this
  · simp [hi]

/-- The two halves of a 64-bit value put together again. -/
theorem bits_halves (v : Nat) : bits v 0 32 + bits v 32 32 * 2 ^ 32 = v % 2 ^ 64 := by
  simp only [bits]
  omega

theorem upFrom_eq_range' (lo n : Nat) : upFrom lo n = List.range' lo n := by
  induction n generalizing lo with
  | zero => rfl
  | succ n ih => rw [upFrom, ih, List.range'_succ]

/-- A sum of distinct powers of two below `2 ^ n`: its bits are the powers chosen. -/
theorem sum_range_bits (p : Nat → Bool) (n : Nat) :
    ((List.range n).map fun i => if p i then 2 ^ i else 0).sum < 2 ^ n
    ∧ ∀ i, (((List.range n).map fun i => if p i then 2 ^ i else 0).sum).testBit i = (decide (i < n) && p i) := by
  induction n with
  | zero => simp
  | succ n ih =>
    obtain ⟨hlt, hbit⟩ := ih
    rw [List.range_succ, List.map_append, List.sum_append, List.map_singleton, List.sum_singleton]
    have below : ∀ i, i ≠ n → decide (i ≤ n) = decide (i < n) := fun i hi => decide_eq_decide.2 (by omega)
    cases hp : p n with
    | false =>
      refine ⟨by rw [Nat.pow_succ]; simpa using by omega, fun i => ?_⟩
      by_cases hi : i = n
      · simp [hbit, hi, hp]
      · simp [hbit, below i hi]
    | true =>
      rw [if_pos rfl, Nat.add_comm, ← Nat.mul_one (2 ^ n), Nat.two_pow_add_eq_or_of_lt hlt, Nat.mul_one]
      refine ⟨Nat.or_lt_two_pow (Nat.pow_lt_pow_right (by decide) n.lt_succ_self) (by rw [Nat.pow_succ]; omega), fun i => ?_⟩
      by_cases hi : i = n
      · simp [hi, hp]
      · simp [hbit, Nat.testBit_two_pow_of_ne (Ne.symm hi), below i hi]

theorem testBit_sum_upFrom (p : Nat → Bool) (n i : Nat) :
    (((upFrom 0 n).map fun i => if p i then 2 ^ i else 0).sum).testBit i = (decide (i < n) && p i) := by
  rw [upFrom_eq_range', ← List.range_eq_range']
  exact (sum_range_bits p n).2 i

/-! Frames. -/

theorem keepsBut_out (s : State) (x : List Out) : KeepsBut [.out] s { s with out := x } := by
  intro a ha
  cases a <;> simp [Area.same] at ha ⊢

theorem keepsBut_regs (s : State) (x : Tbl Nat) : KeepsBut [.regs] s { s with regs := x } := by
  intro a ha
  cases a <;> simp [Area.same] at ha ⊢

theorem keepsBut_journal (s : State) (x : Journal) : KeepsBut [.journal] s { s with journal := x } := by
  intro a ha
  cases a <;> simp [Area.same] at ha ⊢

theorem keepsBut_hiLatch (s : State) (x : Tbl Nat) : KeepsBut [.hiLatch] s { s with hiLatch := x } := by
  intro a ha
  cases a <;> simp [Area.same] at ha ⊢

theorem keepsBut_commitLatch (s : State) (x : Tbl Nat) : KeepsBut [.commitLatch] s { s with commitLatch := x } := by
  intro a ha
  cases a <;> simp [Area.same] at ha ⊢

theorem KeepsBut.refl (l : List Area) (s : State) : KeepsBut l s s := fun a _ => by cases a <;> rfl

theorem KeepsBut.mono {l m : List Area} {s t : State} (h : KeepsBut l s t) (hlm : l ⊆ m) : KeepsBut m s t :=
  fun a ha => h a fun hl => ha (hlm hl)

theorem KeepsBut.trans {l : List Area} {s t u : State} (h : KeepsBut l s t) (h' : KeepsBut l t u) : KeepsBut l s u := by
  intro a ha
  have ht := h a ha
  have hu := h' a ha
  cases a <;> exact Eq.trans hu ht

/-- What a command's effect may change from the state with empty ports, the command may change with the ports. -/
theorem KeepsBut.with_out {l : List Area} {s t : State} {x : List Out} (h : KeepsBut l { s with out := x } t) :
    KeepsBut (l ++ [.out]) s t :=
  ((keepsBut_out s x).mono (List.subset_append_right _ _)).trans (h.mono (List.subset_append_left _ _))

theorem KeepsBut.put {l : List Area} {s t : State} (h : KeepsBut (l ++ [.out]) s t) (o : Out) :
    KeepsBut (l ++ [.out]) s (t.put o) :=
  h.trans ((keepsBut_out t (t.out ++ [o])).mono (List.subset_append_right _ _))

/-- A command answers what its effect makes of the state with empty ports, when that leaves the queue as it was. -/
theorem gives_of_perform {c : Instr} {s : State} {f : State → State} {P : State → Prop} (hc : exec c s = perform true f s)
    (hq : (f { s with out := [] }).pending = s.pending) (hP : P (f { s with out := [] })) : Gives c s P := by
  refine ⟨_, ?_, hP⟩
  have same (t : State) (q : List Instr) (h : t.pending = q) : { t with pending := q } = t := by subst h; rfl
  rw [hc, perform, if_pos rfl, same _ _ hq]

/-! Fields written one after another. -/

/-- The step of a walk over fields that sets a field where `cond` holds, to a value that may depend on the one it had. -/
def setWhere (cond : Fld × FTy → Bool) (new : Fld × FTy → Nat → Nat) (s : State) (x : Fld × FTy) : State :=
  if cond x then s.set x.1 (new x (s.get x.1)) else s

section
variable (cond : Fld × FTy → Bool) (new : Fld × FTy → Nat → Nat)

theorem setWhere_keeps (s : State) (x : Fld × FTy) : KeepsBut [.regs] s (setWhere cond new s x) := by
  unfold setWhere
  split
  · exact keepsBut_regs s _
  · exact .refl _ s

theorem get_setWhere_other (s : State) {x : Fld × FTy} {f : Fld} (h : f.key ≠ x.1.key) :
    (setWhere cond new s x).get f = s.get f := by
  unfold setWhere
  split
  · exact get_set_other _ s h
  · rfl

theorem get_setWhere_self (s : State) (x : Fld × FTy) :
    (setWhere cond new s x).get x.1 = if cond x then new x (s.get x.1) % 2 ^ x.1.width else s.get x.1 := by
  unfold setWhere
  split
  · exact get_set_self _ _ s
  · rfl

theorem foldl_setWhere_keeps (l : List (Fld × FTy)) (s : State) : KeepsBut [.regs] s (l.foldl (setWhere cond new) s) := by
  induction l generalizing s with
  | nil => exact .refl _ s
  | cons x l ih => exact (setWhere_keeps cond new s x).trans (ih _)

/-- Fields that the walk does not set keep their values. -/
theorem get_foldl_setWhere_other (l : List (Fld × FTy)) (s : State) {f : Fld} (hf : ∀ x ∈ l, cond x = true → f.key ≠ x.1.key) :
    (l.foldl (setWhere cond new) s).get f = s.get f := by
  induction l generalizing s with
  | nil => rfl
  | cons x l ih =>
    rw [List.foldl_cons, ih _ fun y hy => hf y (List.mem_cons_of_mem x hy)]
    cases hc : cond x with
    | false => simp [setWhere, hc]
    | true => exact get_setWhere_other cond new s (hf x List.mem_cons_self hc)

/-- Where no two fields share a place, each has the value that its own step gives it. -/
theorem get_foldl_setWhere_self {l : List (Fld × FTy)} (hn : (l.map fun x => x.1.key).Nodup) (s : State) {x : Fld × FTy}
    (hx : x ∈ l) :
    (l.foldl (setWhere cond new) s).get x.1 = if cond x then new x (s.get x.1) % 2 ^ x.1.width else s.get x.1 := by
  induction l generalizing s with
  | nil => cases hx
  | cons y l ih =>
    rw [List.map_cons, List.nodup_cons] at hn
    obtain ⟨hy, hn⟩ := hn
    have apart : ∀ z ∈ l, z.1.key ≠ y.1.key := fun z hz e => hy (e ▸ List.mem_map_of_mem (f := fun x => x.1.key) hz)
    rw [List.foldl_cons]
    rcases List.mem_cons.1 hx with rfl | hx
    · rw [get_foldl_setWhere_other cond new l _ fun z hz _ => (apart z hz).symm, get_setWhere_self]
    · rw [ih hn _ hx, get_setWhere_other cond new s (apart x hx)]

end

/-! Finding a register. -/

theorem regAt_row_mem {off : Nat} {a : RegAt} (h : regAt? off = some a) : a.row ∈ regMap := by
  obtain ⟨r, hr, ha⟩ := List.exists_of_findSome?_eq_some h
  simp only [RegRow.at?, Option.ite_none_left_eq_some] at ha
  obtain ⟨-, ha⟩ := ha
  split at ha
  · split at ha
    · cases ha; exact hr
    · cases ha
  · cases ha

/-- No field of the register map is empty. -/
theorem regMap_width_pos {r : RegRow} (hr : r ∈ regMap) (i j k : Nat) {x : Fld × FTy} (hx : x ∈ r.flds i j k) : 0 < x.1.width := by
  have hall : ((r.flds i j k).all fun x => decide (0 < x.1.width)) = true := by fin_cases hr <;> rfl
  exact of_decide_eq_true (List.all_eq_true.1 hall x hx)

theorem field_width_pos {off : Nat} {a : RegAt} (h : regAt? off = some a) {x : Fld × FTy} (hx : x ∈ a.flds) : 0 < x.1.width :=
  regMap_width_pos (regAt_row_mem h) a.i a.j a.k hx

section
variable {off n : Nat} {a : RegAt} (ha : RegisterAt off n a)
include ha

theorem RegisterAt.found : regAt? off = some a := ha.1
theorem RegisterAt.byte_zero : a.byte = 0 := ha.2.1
theorem RegisterAt.width_eq : a.row.width = 8 * n := ha.2.2.1
theorem RegisterAt.nodup : (a.flds.map fun x => x.1.key).Nodup := ha.2.2.2.1
theorem RegisterAt.within {x : Fld × FTy} (hx : x ∈ a.flds) : x.1.lo + x.1.width ≤ 8 * n := ha.2.2.2.2 x hx

end

/-- In a 32-bit register every field lies in the word that an access reaches. -/
theorem RegisterAt.in_word {off : Nat} {a : RegAt} (ha : RegisterAt off 4 a) {x : Fld × FTy} (hx : x ∈ a.flds) :
    x.1.lo / 32 = a.byte / 4 ∧ x.1.lo % 32 = x.1.lo := by
  have := ha.within hx
  have := field_width_pos ha.found hx
  rw [ha.byte_zero]
  omega

/-! Writes. -/

/-- Whether a write of `v` to its register sets a field (00 R5, R8); locks are read in `old`. -/
def takesWrite (old : State) (v : Nat) (x : Fld × FTy) : Bool :=
  match x.2 with
  | .rw | .wos => true
  | .rwl l => !old.on l
  | .setOnly => bits v x.1.lo x.1.width == 1
  | _ => false

theorem writeFld_eq_setWhere (old : State) (v : Nat) (x : Fld × FTy) (s : State) :
    writeFld old v x s = setWhere (takesWrite old v) (fun x _ => bits v x.1.lo x.1.width) s x := by
  obtain ⟨f, t⟩ := x
  cases t with
  | rwl l => cases hl : old.on l <;> simp [writeFld, setWhere, takesWrite, hl]
  | setOnly => simp only [writeFld, setWhere, takesWrite]; split <;> simp_all
  | _ => rfl

/-- A write sets the same fields for every value that agrees with it on their bits. -/
theorem takesWrite_congr {old : State} {v w : Nat} {x : Fld × FTy} (h : bits v x.1.lo x.1.width = bits w x.1.lo x.1.width) :
    takesWrite old v x = takesWrite old w x := by
  unfold takesWrite
  rw [h]

theorem RegisterAt.bits_merged {off n : Nat} {a : RegAt} (ha : RegisterAt off n a) {x : Fld × FTy} (hx : x ∈ a.flds)
    (s : State) (v : Nat) : bits (s.merged a n v) x.1.lo x.1.width = bits v x.1.lo x.1.width := by
  refine bits_congr_mod (w := 8 * n) ?_ (ha.within hx)
  have hw : a.row.width / 8 = n := by rw [ha.width_eq]; omega
  simp only [State.merged, ha.byte_zero, hw, Nat.mul_zero, Nat.sub_zero, Nat.min_self, pow_zero, Nat.mul_one, bits_from_zero]
  rw [Nat.add_mod, Nat.mod_mod, ← Nat.div_mul_self_eq_mod_sub_self, Nat.mul_mod_left, Nat.zero_add, Nat.mod_mod]

/-- The registers a write of which has a further effect. -/
abbrev sideEffectRows : List Nat := [0x300018, 0x70c800, 0x200100, 0x200200, 0x704004]

theorem afterWrite_plain {a : RegAt} (h : a.row.base ∉ sideEffectRows) (v : Nat) (before s : State) :
    afterWrite a v before s = s := by
  simp only [List.mem_cons, not_or] at h
  unfold afterWrite
  split <;> simp_all

theorem writeOne_closed {a : RegAt} {s : State} (h : s.regOpen a = false) (n v : Nat) : writeOne a n v s = s := by
  simp [writeOne, h]

theorem writeOne_open {a : RegAt} {s : State} (h : s.regOpen a = true) (hb : a.row.base ∉ sideEffectRows) (n v : Nat) :
    writeOne a n v s = a.flds.foldl (setWhere (takesWrite s (s.merged a n v)) fun x _ => bits (s.merged a n v) x.1.lo x.1.width) s := by
  simp [writeOne, h, afterWrite_plain hb, writeFld_eq_setWhere]

theorem RegisterAt.writeReg_eq {off n : Nat} {a : RegAt} (ha : RegisterAt off n a) (hn : n = 4 ∨ n = 8) (v : Nat) (s : State) :
    writeReg off n v s = writeOne a n v s := by
  rcases hn with rfl | rfl <;> simp [writeReg, ha.found, ha.width_eq]

theorem key_ne_of_not_mem_fields {a : RegAt} {f : Fld} (h : f.key ∉ a.fields.map Fld.key) {x : Fld × FTy} (hx : x ∈ a.flds) :
    f.key ≠ x.1.key :=
  fun e => h (e ▸ List.mem_map_of_mem (List.mem_map_of_mem hx))

theorem regShape_eq {off n : Nat} (h : regShape off n = true) : n = 4 ∨ n = 8 := by
  simp only [regShape, Bool.and_eq_true, Bool.or_eq_true, beq_iff_eq] at h
  exact h.1

theorem regShape_four {off : Nat} (h : off % 4 = 0) : regShape off 4 = true := by simp [regShape, h]

section
variable {off n : Nat} {a : RegAt} (hb : a.row.base ∉ sideEffectRows)
include hb

/-- A write changes only the table of register fields. -/
theorem writeOne_keeps (v : Nat) (s : State) : KeepsBut [.regs] s (writeOne a n v s) := by
  cases ho : s.regOpen a with
  | false => rw [writeOne_closed ho]; exact .refl _ s
  | true => rw [writeOne_open ho hb]; exact foldl_setWhere_keeps _ _ a.flds s

/-- A write leaves every field that is not of its register. -/
theorem writeOne_fieldsBut (v : Nat) (s : State) : FieldsBut a.fields s (writeOne a n v s) := by
  intro f hf
  cases ho : s.regOpen a with
  | false => rw [writeOne_closed ho]
  | true =>
    rw [writeOne_open ho hb]
    exact get_foldl_setWhere_other _ _ a.flds s fun x hx _ => key_ne_of_not_mem_fields hf hx

/-- The value of a field after a write of its open register. -/
theorem RegisterAt.get_writeOne (ha : RegisterAt off n a) {s : State} (ho : s.regOpen a = true) (v : Nat) {x : Fld × FTy}
    (hx : x ∈ a.flds) :
    (writeOne a n v s).get x.1 = if takesWrite s v x then bits v x.1.lo x.1.width else s.get x.1 := by
  rw [writeOne_open ho hb, get_foldl_setWhere_self _ _ ha.nodup s hx, bits_mod_width, ha.bits_merged hx,
    takesWrite_congr (ha.bits_merged hx s v)]

/-- A write leaves the fields of the types that it never sets. -/
theorem RegisterAt.get_writeOne_unset (ha : RegisterAt off n a) (v : Nat) (s : State) {f : Fld} {t : FTy} (hx : (f, t) ∈ a.flds)
    (ht : t ∈ [FTy.ro, .wo, .rc, .rw1c, .own]) : (writeOne a n v s).get f = s.get f := by
  cases ho : s.regOpen a with
  | false => rw [writeOne_closed ho]
  | true =>
    have hno : takesWrite s v (f, t) = false := by
      simp only [List.mem_cons, List.not_mem_nil, or_false] at ht
      rcases ht with rfl | rfl | rfl | rfl | rfl <;> rfl
    exact (ha.get_writeOne hb ho v hx).trans (by rw [hno]; rfl)

end

/-! Reads. -/

/-- A field of a type that lies in the accessed word. -/
def typeInWord (t : FTy) (a : RegAt) (x : Fld × FTy) : Bool := x.2 == t && decide (x.1.lo / 32 = a.byte / 4)

theorem clearRc_eq {off : Nat} {a : RegAt} (h : regAt? off = some a) (during : Nat) (s : State) :
    clearRc off during s = a.flds.foldl (setWhere (typeInWord .rc a) fun x _ => bits during (x.1.lo % 32) x.1.width) s := by
  unfold clearRc
  rw [h]
  rfl

/-- What an access leaves of an RW1C field with value `y` (00 R6). -/
def w1cLeft (value sets : Nat) (x : Fld × FTy) (y : Nat) : Nat :=
  ((upFrom 0 x.1.width).map fun i =>
    if bit sets (x.1.lo % 32 + i) || (bit y i && !bit value (x.1.lo % 32 + i)) then 2 ^ i else 0).sum

theorem clearW1c_eq {off : Nat} {a : RegAt} (h : regAt? off = some a) (value sets : Nat) (s : State) :
    clearW1c off value sets s = a.flds.foldl (setWhere (typeInWord .rw1c a) (w1cLeft value sets)) s := by
  unfold clearW1c
  rw [h]
  rfl

theorem testBit_w1cLeft (value sets : Nat) (x : Fld × FTy) (y i : Nat) : (w1cLeft value sets x y).testBit i =
    (decide (i < x.1.width)
      && (sets.testBit (x.1.lo % 32 + i) || (y.testBit i && !value.testBit (x.1.lo % 32 + i)))) := by
  rw [w1cLeft, testBit_sum_upFrom]
  simp only [bit_eq_testBit]

/-! What the physical function reaches. -/

theorem vfDark_pf (s : State) : s.vfDark .pf = false := rfl

theorem PfReaches.reach {s : State} {off : Nat} (h : PfReaches s off) (w : Bool) (n : Nat) : s.reach .pf w off n = some off := by
  obtain ⟨hlt, hopen⟩ := h
  simp only [State.reach, if_neg (Nat.not_le.2 hlt)]
  rw [if_neg]
  simp only [Bool.and_eq_true, Bool.not_eq_true', Bool.or_eq_false_iff, decide_eq_true_eq, decide_eq_false_iff_not, beq_iff_eq,
    Bool.and_eq_false_iff]
  rcases hopen with hpkg | hlow | ⟨hlo, hhi⟩
  · exact fun h => hpkg h.1.1
  · exact fun h => by omega
  · exact fun h => by omega

theorem PfReaches.regRead {s : State} {off : Nat} (h : PfReaches s off) (n d : Nat) :
    regRead .pf off n d s = readReg Who.pf.key off n d s := by
  simp only [Machine.regRead, vfDark_pf, h.reach]
  rfl

/-! Commands as their effects. -/

/-- A command that names units of the package has the effect of any function that agrees with its own where it runs. -/
theorem perform_eq_of_effect {ok : Bool} {f g : State → State} {s : State} (hok : ok = true)
    (h : f { s with out := [] } = g { s with out := [] }) : perform ok f s = perform true g s := by
  rw [perform, perform, if_pos hok, if_pos rfl, h]

section
variable {who : Who} {off n x : Nat} {s : State}

theorem exec_registerWrite_reached (hok : (whoOk who && regShape off n) = true) (hd : s.vfDark who = false)
    (hr : s.reach who true off n = some x) (v : W64) :
    exec (.registerWrite who off n v) s = perform true (writeReg x n v.toNat) s := by
  dsimp only [exec, execRegisterWrite]
  refine perform_eq_of_effect hok ?_
  have hd : State.vfDark { s with out := [] } who = false := hd
  have hr : State.reach { s with out := [] } who true off n = some x := hr
  simp only [hd, hr]
  rfl

theorem exec_registerWrite_unreached (hok : (whoOk who && regShape off n) = true) (hr : s.reach who true off n = none) (v : W64) :
    exec (.registerWrite who off n v) s = perform true id s := by
  dsimp only [exec, execRegisterWrite]
  refine perform_eq_of_effect hok ?_
  have hr : State.reach { s with out := [] } who true off n = none := hr
  simp only [hr, ite_self, id]

theorem exec_rw1cWrite_reached (hok : (whoOk who && regShape off 4) = true) (hd : s.vfDark who = false)
    (hr : s.reach who true off 4 = some x) (v sets : W32) :
    exec (.rw1cWrite who off v sets) s
      = perform true (fun s => clearW1c x v.toNat sets.toNat (writeReg x 4 v.toNat s)) s := by
  dsimp only [exec, execRw1cWrite]
  refine perform_eq_of_effect hok ?_
  have hd : State.vfDark { s with out := [] } who = false := hd
  have hr : State.reach { s with out := [] } who true off 4 = some x := hr
  simp only [hd, hr]
  rfl

end

/-- A read shows its value at the port. -/
def showRead (r : State → Nat × State) (s : State) : State := (r s).2.put (.value (r s).1)

theorem exec_rcRead (who : Who) (off : Nat) (during : W32) (s : State) (hok : (whoOk who && regShape off 4) = true) :
    exec (.rcRead who off during) s = perform true (showRead (regRead who off 4 during.toNat)) s := by
  dsimp only [exec, execRcRead]
  exact perform_eq_of_effect hok rfl

theorem exec_highWordLatchRead (who : Who) (off n : Nat) (s : State) (hok : (whoOk who && regShape off n) = true) :
    exec (.highWordLatchRead who off n) s = perform true (showRead (regRead who off n 0)) s := by
  dsimp only [exec, execHighWordLatchRead]
  exact perform_eq_of_effect hok rfl

/-- A command whose effect keeps all parts but `l`, none of them the queue, answers what the effect gives. -/
theorem gives_of_effect {c : Instr} {s : State} {f : State → State} {P : State → Prop} {l : List Area}
    (hc : exec c s = perform true f s) (hk : KeepsBut l { s with out := [] } (f { s with out := [] })) (hl : .pending ∉ l)
    (hP : P (f { s with out := [] })) : Gives c s P :=
  gives_of_perform hc (hk .pending hl) hP

/-- A command without an effect only empties the ports. -/
theorem gives_nothing {c : Instr} {s : State} (hc : exec c s = perform true id s) : Gives c s (KeepsBut [.out] s) :=
  gives_of_perform hc rfl (keepsBut_out s [])

theorem pf_ok {off n : Nat} (h : regShape off n = true) : (whoOk .pf && regShape off n) = true := h

/-- The physical function reaches its own offsets or nothing. -/
theorem reach_pf_eq {s : State} {w : Bool} {off n x : Nat} (h : s.reach .pf w off n = some x) : x = off := by
  by_cases hb : bar2 ≤ off
  · by_cases hans : s.bar2Answers 0 (off - bar2) = true <;> simp [State.reach, hb, hans] at h
    exact h.symm
  · simp [State.reach, hb] at h
    exact h.2.symm

/-! Writes by the physical function. -/

section
variable {off n : Nat} {a : RegAt} {s : State} (hs : regShape off n = true) (ha : RegisterAt off n a)
include hs ha

theorem registerWrite_open (hr : PfReaches s off) (ho : s.regOpen a = true) (hb : a.row.base ∉ sideEffectRows) (v : W64) :
    Gives (.registerWrite .pf off n v) s fun u => KeepsBut [.regs, .out] s u ∧ FieldsBut a.fields s u
      ∧ ∀ x ∈ a.flds, u.get x.1 = if takesWrite s v.toNat x then bits v.toNat x.1.lo x.1.width else s.get x.1 := by
  have hc := exec_registerWrite_reached (pf_ok hs) (vfDark_pf s) (hr.reach true n) v
  have he := ha.writeReg_eq (regShape_eq hs) v.toNat { s with out := [] }
  have hk := writeOne_keeps (n := n) hb v.toNat { s with out := [] }
  refine gives_of_effect hc (l := [.regs]) (he ▸ hk) (by decide) ?_
  rw [he]
  exact ⟨hk.with_out, writeOne_fieldsBut hb v.toNat { s with out := [] },
    fun x hx => ha.get_writeOne hb (s := { s with out := [] }) ho v.toNat hx⟩

theorem registerWrite_closed (ho : s.regOpen a = false) (v : W64) :
    Gives (.registerWrite .pf off n v) s (KeepsBut [.out] s) := by
  cases hr : s.reach .pf true off n with
  | none => exact gives_nothing (exec_registerWrite_unreached (pf_ok hs) hr v)
  | some x =>
    obtain rfl := reach_pf_eq hr
    have he : writeReg x n v.toNat { s with out := [] } = { s with out := [] } :=
      (ha.writeReg_eq (regShape_eq hs) v.toNat _).trans (writeOne_closed (s := { s with out := [] }) ho n _)
    refine gives_of_perform (exec_registerWrite_reached (pf_ok hs) (vfDark_pf s) hr v) (by rw [he]) ?_
    rw [he]
    exact keepsBut_out s []

end

/-! Reads by the physical function. -/

/-- An offset outside the PART_COMMIT blocks, or one of a block behind its first word that the requester holds no latch of. -/
def Unlatched (who off : Nat) (s : State) : Prop :=
  ∀ p o, commitPlace off = some (p, o) → o ≠ 0 ∧ tget 0 s.commitLatch (latchKey who p) = 0

theorem readWord_own {who off : Nat} {s : State} (h : Unlatched who off s) (d : Nat) :
    readWord who off d s = readOwnWord who off d s := by
  unfold readWord
  split
  next p o hp =>
    obtain ⟨ho, hl⟩ := h p o hp
    simp only [ho, hl, if_true, if_false]
  next => rfl

/-- A high word held for a requester, plus 1, or 0 for none. -/
def holdHigh (key v : Nat) (s : State) : State := { s with hiLatch := tset 0 s.hiLatch key v }

theorem holdHigh_keeps (key v : Nat) (s : State) : KeepsBut [.hiLatch] s (holdHigh key v s) := keepsBut_hiLatch s _

theorem holdHigh_self (key v : Nat) (s : State) : tget 0 (holdHigh key v s).hiLatch key = v := tget_tset_self _ _ _

theorem holdHigh_other {key j : Nat} (h : j ≠ key) (v : Nat) (s : State) : tget 0 (holdHigh key v s).hiLatch j = tget 0 s.hiLatch j :=
  tget_tset_other _ _ h

section
variable {who off : Nat} {a : RegAt} {s : State} (ha : regAt? off = some a) (hb : a.row.base ≠ 0x1000008)
include ha hb

/-- A read of a register of one word. -/
theorem readOwnWord_single (hw : a.row.width ≠ 64) (d : Nat) : readOwnWord who off d s = (s.wordAt off, clearRc off d s) := by
  simp [readOwnWord, ha, hb, hw]

/-- A read of a 64-bit register's low word takes the latch of its high word. -/
theorem readOwnWord_low (hw : a.row.width = 64) (h0 : a.byte = 0) (d : Nat) : readOwnWord who off d s
    = (bits (s.regVal a) 0 32, holdHigh (latchKey who off) (bits (s.regVal a) 32 32 + 1) s) := by
  simp [readOwnWord, ha, hb, hw, h0, RegAt.base, holdHigh]

/-- A read of a 64-bit register's high word uses the requester's latch up where it has one. -/
theorem readOwnWord_high (hw : a.row.width = 64) (h4 : a.byte = 4) (d : Nat) : readOwnWord who off d s
    = (if tget 0 s.hiLatch (latchKey who (off - 4)) = 0 then bits (s.regVal a) 32 32
        else tget 0 s.hiLatch (latchKey who (off - 4)) - 1, holdHigh (latchKey who (off - 4)) 0 s) := by
  simp [readOwnWord, ha, hb, hw, h4, RegAt.base, holdHigh]

end

/-- A command that shows what a read answers, of which all parts but `l` are kept, answers the read's state with the value shown. -/
theorem gives_read {c : Instr} {s t : State} {r : State → Nat × State} {v : Nat} {P : State → Prop} {l : List Area}
    (hc : exec c s = perform true (showRead r) s) (hr : r { s with out := [] } = (v, t)) (hk : KeepsBut l { s with out := [] } t)
    (hl : .pending ∉ l) (ho : .out ∉ l)
    (hP : KeepsBut (l ++ [.out]) s (t.put (.value v)) → (t.put (.value v)).out = [.value v] → P (t.put (.value v))) :
    Gives c s P := by
  have he : showRead r { s with out := [] } = t.put (.value v) := by rw [showRead, hr]
  have hq : t.pending = s.pending := hk .pending hl
  have hout : t.out = [] := hk .out ho
  refine gives_of_perform hc (by rw [he]; exact hq) ?_
  rw [he]
  exact hP (hk.with_out.put _) (by rw [put_out, hout]; rfl)

theorem RegisterAt.wordAt_eq {off : Nat} {a : RegAt} (ha : RegisterAt off 4 a) (s : State) : s.wordAt off = s.regVal a % 2 ^ 32 := by
  simp [State.wordAt, ha.found, ha.byte_zero, bits_from_zero]

theorem plainRegisterWrites : Claims.PlainRegisterWrites := by
  intro off n v a s hs ha hb
  refine ⟨fun hr ho => ?_, fun ho => registerWrite_closed hs ha ho v, fun f hf hoff => ?_, fun hboot hlo hhi => ?_⟩
  · obtain ⟨u, hu, hk, hf, hv⟩ := registerWrite_open hs ha hr ho hb v
    refine ⟨u, hu, hk, hf, fun f t hft => ⟨?_, ?_, ?_, ?_⟩⟩
    all_goals have hget := hv (f, t) hft
    · rintro (rfl | rfl) <;> exact hget
    · rintro l rfl
      by_cases hl : s.get l = 1 <;> simp [hget, takesWrite, State.on, hl]
    · rintro rfl
      by_cases h1 : bits v.toNat f.lo f.width = 1 <;> simp [hget, takesWrite, h1]
    · intro ht
      simp only [List.mem_cons, List.not_mem_nil, or_false] at ht
      rcases ht with rfl | rfl | rfl | rfl | rfl <;> exact hget
  · refine gives_nothing (exec_registerWrite_unreached ?_ ?_ v)
    · simp [whoOk, hf, hs]
    · simp [State.reach, hoff]
  · refine gives_nothing (exec_registerWrite_unreached (pf_ok hs) ?_ v)
    have hbar : off < bar2 := by unfold bar2 at *; omega
    simpa [State.reach, hboot, Nat.not_le.2 hbar] using ⟨hbar, hlo, fun h => by omega⟩

theorem readClearsCounters : Claims.ReadClearsCounters := by
  intro off during a s hs ha hb hcommit hr
  have hread : regRead .pf off 4 during.toNat { s with out := [] }
      = (s.regVal a % 2 ^ 32, clearRc off during.toNat { s with out := [] }) := by
    rw [PfReaches.regRead (s := { s with out := [] }) hr]
    show readWord _ _ _ _ = _
    rw [readWord_own (by simp [Unlatched, hcommit]), readOwnWord_single ha.found hb (by rw [ha.width_eq]; decide), ha.wordAt_eq]
    rfl
  have hclear := clearRc_eq ha.found during.toNat { s with out := [] }
  refine gives_read (exec_rcRead _ _ _ _ (pf_ok hs)) hread (l := [.regs]) (hclear ▸ foldl_setWhere_keeps _ _ _ _) (by decide)
    (by decide) fun hk ho => ⟨hk, ho, fun f hf => ?_, fun f hf => ?_⟩
  · rw [put_get, hclear]
    refine get_foldl_setWhere_other _ _ _ _ fun x hx hc => ?_
    simp only [typeInWord, Bool.and_eq_true, beq_iff_eq] at hc
    exact fun e => hf (e ▸ List.mem_map_of_mem (List.mem_filterMap.2 ⟨x, hx, if_pos hc.1⟩))
  · obtain ⟨hword, hlo⟩ := ha.in_word hf
    rw [put_get, hclear, get_foldl_setWhere_self _ _ ha.nodup _ hf, if_pos (by simp [typeInWord, hword]), bits_mod_width, hlo]

theorem writeOneClears : Claims.WriteOneClears := by
  intro off value sets a s hs ha hb hr
  have hc := exec_rw1cWrite_reached (pf_ok hs) (vfDark_pf s) (hr.reach true 4) value sets
  have hw := ha.writeReg_eq (.inl rfl) value.toNat { s with out := [] }
  have hwk := writeOne_keeps (n := 4) hb value.toNat { s with out := [] }
  have hwf := writeOne_fieldsBut (n := 4) hb value.toNat { s with out := [] }
  have hwu (f : Fld) (t : FTy) (hf : (f, t) ∈ a.flds) (ht : t ∈ [FTy.ro, .wo, .rc, .rw1c, .own]) :
      (writeOne a 4 value.toNat { s with out := [] }).get f = s.get f := ha.get_writeOne_unset hb value.toNat _ hf ht
  set w := writeOne a 4 value.toNat { s with out := [] }
  have he : clearW1c off value.toNat sets.toNat (writeReg off 4 value.toNat { s with out := [] })
      = a.flds.foldl (setWhere (typeInWord .rw1c a) (w1cLeft value.toNat sets.toNat)) w := by
    rw [hw, clearW1c_eq ha.found]
  have hk := hwk.trans (he ▸ foldl_setWhere_keeps (typeInWord .rw1c a) (w1cLeft value.toNat sets.toNat) a.flds w)
  refine gives_of_effect hc (l := [.regs]) hk (by decide) ?_
  show _ ∧ _
  rw [he] at hk ⊢
  refine ⟨hk.with_out, fun f hf => ?_, fun f hf i hi => ?_, fun f hf => ?_⟩
  · rw [get_foldl_setWhere_other _ _ _ _ fun x hx _ => key_ne_of_not_mem_fields hf hx]
    exact hwf f hf
  · obtain ⟨hword, hlo⟩ := ha.in_word hf
    rw [get_foldl_setWhere_self _ _ ha.nodup _ hf, if_pos (by simp [typeInWord, hword]), Nat.testBit_mod_two_pow,
      testBit_w1cLeft, hwu f .rw1c hf (by simp), hlo]
    simp [hi, BitVec.testBit_toNat]
  · rw [get_foldl_setWhere_self _ _ ha.nodup _ hf, if_neg (by simp [typeInWord])]
    exact hwu f .ro hf (by simp)

/-- Settles O13: a write, a read that clears and a write of ones each walk once over the fields of their register, which have
places of their own. -/
theorem registerFieldTypes : Obligations.RegisterFieldTypes := ⟨plainRegisterWrites, readClearsCounters, writeOneClears⟩

/-! Registers of two words. -/

section
variable {who off : Nat} {a : RegAt} {s : State} (ha : RegisterAt off 8 a) (hhigh : regAt? (off + 4) = some { a with byte := 4 })
  (hb : a.row.base ≠ 0x1000008)

include ha hb in
theorem RegisterAt.readReg_low (hc : Unlatched who off s) :
    readReg who off 4 0 s = (bits (s.regVal a) 0 32, holdHigh (latchKey who off) (bits (s.regVal a) 32 32 + 1) s) :=
  (readWord_own hc 0).trans (readOwnWord_low ha.found hb ha.width_eq ha.byte_zero 0)

include ha hhigh hb in
theorem RegisterAt.readWord_high (hc : Unlatched who (off + 4) s) (d : Nat) : readWord who (off + 4) d s
    = (if tget 0 s.hiLatch (latchKey who off) = 0 then bits (s.regVal a) 32 32 else tget 0 s.hiLatch (latchKey who off) - 1,
       holdHigh (latchKey who off) 0 s) :=
  (readWord_own hc d).trans (readOwnWord_high hhigh hb ha.width_eq rfl d)

include ha hhigh hb in
/-- An aligned 8-byte read takes the latch and uses it up: its two halves are of one instant. -/
theorem RegisterAt.readReg_whole (hc : Unlatched who off s) (hc4 : Unlatched who (off + 4) s) :
    ∃ v, readReg who off 8 0 s = (s.regVal a % 2 ^ 64, holdHigh (latchKey who off) 0 (holdHigh (latchKey who off) v s)) := by
  have hlo : readWord who off 0 s = _ := ha.readReg_low hb hc
  have hhi := ha.readWord_high hhigh hb (s := holdHigh (latchKey who off) (bits (s.regVal a) 32 32 + 1) s) hc4 0
  rw [holdHigh_self, if_neg (Nat.succ_ne_zero _), Nat.add_sub_cancel] at hhi
  exact ⟨bits (s.regVal a) 32 32 + 1, by simp only [readReg, hlo, Nat.zero_div, hhi, if_true, bits_halves]⟩

end

theorem highWordLatch : Claims.HighWordLatch := by
  intro off a s hs ha hhigh hr hr4 hb hcommit key high others
  have h8 : off % 8 = 0 := by simpa [regShape] using hs
  have hs4 := regShape_four (off := off) (by omega)
  have hs44 := regShape_four (off := off + 4) (by omega)
  have hc : Unlatched Who.pf.key off { s with out := [] } := hcommit off (by simp)
  have hc4 : Unlatched Who.pf.key (off + 4) { s with out := [] } := hcommit (off + 4) (by simp)
  have reads (o n : Nat) (h : PfReaches s o) := PfReaches.regRead (s := { s with out := [] }) h n 0
  refine ⟨?_, ?_, ?_⟩
  · refine gives_read (exec_highWordLatchRead _ _ _ _ (pf_ok hs4)) ((reads off 4 hr).trans (ha.readReg_low hb hc))
      (holdHigh_keeps _ _ _) (by decide) (by decide) fun hk ho => ⟨hk, ho, ?_, fun j hj => ?_⟩ <;> rw [put_hiLatch]
    · exact holdHigh_self _ _ _
    · exact holdHigh_other hj _ _
  · refine gives_read (exec_highWordLatchRead _ _ _ _ (pf_ok hs44)) ((reads (off + 4) 4 hr4).trans (ha.readWord_high hhigh hb hc4 0))
      (holdHigh_keeps _ _ _) (by decide) (by decide) fun hk ho => ⟨hk, ?_, fun j hj => ?_, ho⟩ <;> rw [put_hiLatch]
    · exact holdHigh_self _ _ _
    · exact holdHigh_other hj _ _
  · obtain ⟨v, hread⟩ := ha.readReg_whole hhigh hb hc hc4
    refine gives_read (exec_highWordLatchRead _ _ _ _ (pf_ok hs)) ((reads off 8 hr).trans hread)
      ((holdHigh_keeps _ _ _).trans (holdHigh_keeps _ _ _)) (by decide) (by decide) fun hk ho => ⟨hk, ho, fun j hj => ?_⟩
    rw [put_hiLatch]
    exact (holdHigh_other hj _ _).trans (holdHigh_other hj _ _)

/-! PART_COMMIT blocks. -/

/-- A committed block held for a requester, plus 1. -/
def holdBlock (key v : Nat) (s : State) : State := { s with commitLatch := tset 0 s.commitLatch key v }

theorem holdBlock_keeps (key v : Nat) (s : State) : KeepsBut [.commitLatch] s (holdBlock key v s) := keepsBut_commitLatch s _

theorem holdBlock_self (key v : Nat) (s : State) : tget 0 (holdBlock key v s).commitLatch key = v := tget_tset_self _ _ _

theorem holdBlock_other {key j : Nat} (h : j ≠ key) (v : Nat) (s : State) :
    tget 0 (holdBlock key v s).commitLatch j = tget 0 s.commitLatch j :=
  tget_tset_other _ _ h

theorem commitPlace_block {p o : Nat} (hp : p < 8) (ho : o < 0x30) : commitPlace (0x1000 + p * 0x100 + o) = some (p, o) := by
  have hmod : (0x1000 + p * 0x100 + o) % 0x100 = o := by omega
  have hdiv : (0x1000 + p * 0x100 + o - 0x1000) / 0x100 = p := by omega
  rw [commitPlace, hmod, hdiv, if_pos]
  simp only [Bool.and_eq_true, decide_eq_true_eq]
  omega

section
variable {p : Nat} (hp : p < 8) (who d : Nat) (s : State)
include hp

/-- A read of a block's first word latches the block (R39). -/
theorem readWord_block_first : readWord who (0x1000 + p * 0x100) d s
    = (bits (s.commitBlock p) 0 32, holdBlock (latchKey who p) (s.commitBlock p + 1) s) := by
  have hplace : commitPlace (0x1000 + p * 0x100) = some (p, 0) := commitPlace_block (o := 0) hp (by decide)
  simp [readWord, hplace, holdBlock]

/-- A read of another word of a latched block answers from the latch. -/
theorem readWord_block_held {o l : Nat} (h0 : o ≠ 0) (ho : o < 0x30) (hl : tget 0 s.commitLatch (latchKey who p) = l + 1) :
    readWord who (0x1000 + p * 0x100 + o) d s = (bits l (8 * o) 32, s) := by
  simp [readWord, commitPlace_block hp ho, h0, hl]

/-- A read of 4 or 8 bytes at COMMITTED_STEP answers them from the block that it latches. -/
theorem readReg_block {n : Nat} (hn : n = 4 ∨ n = 8) : readReg who (0x1000 + p * 0x100) n 0 s
    = (bits (s.commitBlock p) 0 (8 * n), holdBlock (latchKey who p) (s.commitBlock p + 1) s) := by
  have hfirst := readWord_block_first hp who 0 s
  rcases hn with rfl | rfl
  · exact hfirst
  · have hnext := readWord_block_held hp who 0 _ (o := 4) (by decide) (by decide) (holdBlock_self (latchKey who p) (s.commitBlock p + 1) s)
    simp only [readReg, hfirst, Nat.zero_div, hnext, if_true]
    rw [bits_halves, bits_from_zero]

end

theorem exec_committedStepRead_pf {p n : Nat} (hp : p < 8) (hn : n = 4 ∨ n = 8) (s : State) :
    exec (.committedStepRead .pf p n) s = perform true (showRead (regRead .pf (0x1000 + p * 0x100) n 0)) s := by
  dsimp only [exec, execCommittedStepRead]
  exact perform_eq_of_effect (by rcases hn with rfl | rfl <;> simp [whoOk, partOk, hp]) rfl

theorem exec_committedStepRead_vf {p n : Nat} (hp : p < 8) (hn : n = 4 ∨ n = 8) (s : State) :
    exec (.committedStepRead (.vf p) p n) s = perform true (showRead (regRead (.vf p) 0x1000 n 0)) s := by
  dsimp only [exec, execCommittedStepRead]
  exact perform_eq_of_effect (by rcases hn with rfl | rfl <;> simp [whoOk, partOk, hp]) rfl

theorem pfReaches_low {off : Nat} (h : off < 0x10_0000) (s : State) : PfReaches s off :=
  ⟨by unfold bar2; omega, .inr (.inl h)⟩

/-- A virtual function that exists and is not being scrubbed reads its own partition's block. -/
theorem regRead_vf_block {p n : Nat} (hp : p < 8) {s : State} (hscrub : s.partState p ≠ partScrubbing) (hvf : p < s.pcie.numVfs) :
    regRead (.vf p) 0x1000 n 0 s = readReg (Who.vf p).key (0x1000 + p * 0x100) n 0 s := by
  have hdark : s.vfDark (.vf p) = false := by simp [State.vfDark, State.fnExists, hscrub, hvf]
  have hreach : s.reach (.vf p) false 0x1000 n = some (0x1000 + p * 0x100) := by
    have hlow : 0x1000 + p * 0x100 < 0x10_0000 := by omega
    simp [State.reach, State.vfOffset, bar2, hlow]
  simp only [regRead, hdark, hreach]
  rw [if_neg (by omega : ¬0x1000 + p * 0x100 = 0x10), if_neg (by omega : ¬0x1000 + p * 0x100 = 8)]
  rfl

/-- A command that shows a read of a block's first words leaves the block latched for the requester. -/
theorem gives_block_latched {c : Instr} {s : State} {r : State → Nat × State} {key b m : Nat} (hc : exec c s = perform true (showRead r) s)
    (hr : r { s with out := [] } = (bits b 0 m, holdBlock key (b + 1) { s with out := [] })) :
    Gives c s fun u => KeepsBut [.commitLatch, .out] s u ∧ u.out = [.value (bits b 0 m)] ∧ tget 0 u.commitLatch key = b + 1
      ∧ ∀ j, j ≠ key → tget 0 u.commitLatch j = tget 0 s.commitLatch j := by
  refine gives_read hc hr (holdBlock_keeps _ _ _) (by decide) (by decide) fun hk ho => ⟨hk, ho, ?_, fun j hj => ?_⟩
    <;> rw [put_commitLatch]
  · exact holdBlock_self _ _ _
  · exact holdBlock_other hj _ _

/-- No register of a PART_COMMIT block reads as the ports. -/
theorem commitBlock_out (p : Nat) (x : List Out) (s : State) : State.commitBlock { s with out := x } p = s.commitBlock p := (rfl)

theorem commitBlockLatch : Claims.CommitBlockLatch := by
  intro p n s hp hn b takes
  have reads (w : Who) := readReg_block hp w.key { s with out := [] } hn
  simp only [commitBlock_out] at reads
  refine ⟨?_, fun hscrub hvf => ?_, fun o ho h4 hmod l hl => ?_⟩
  · have hr := pfReaches_low (off := 0x1000 + p * 0x100) (by omega) { s with out := [] }
    exact gives_block_latched (exec_committedStepRead_pf hp hn s) ((hr.regRead n 0).trans (reads .pf))
  · exact gives_block_latched (exec_committedStepRead_vf hp hn s)
      ((regRead_vf_block (s := { s with out := [] }) hp hscrub hvf).trans (reads (.vf p)))
  · have hr := pfReaches_low (off := 0x1000 + p * 0x100 + o) (by omega) { s with out := [] }
    have hs := regShape_four (off := 0x1000 + p * 0x100 + o) (by omega)
    have hheld := readWord_block_held hp Who.pf.key 0 { s with out := [] } (by omega) ho hl
    exact gives_read (exec_highWordLatchRead _ _ _ _ (pf_ok hs)) ((hr.regRead 4 0).trans hheld) (.refl [] _) (by decide) (by decide)
      fun hk ho => ⟨hk, ho⟩

/-! PKG_ID and the journal. -/

/-- PKG_ID as `regAt?` finds it. -/
def pkgIdAt : RegAt := ⟨⟨"PKG_ID", 0x4, [], 32, fun _ _ _ => [(Reg.PKG_ID_LOCK, .own), (Reg.PKG_ID_ID, .rwl Reg.PKG_ID_LOCK)]⟩, 0, 0, 0, 0⟩

theorem pkgId_registerAt : RegisterAt 4 4 pkgIdAt := ⟨rfl, rfl, rfl, by decide, by decide⟩

/-- A write of PKG_ID sets the ID while the lock reads 0, and nothing else. -/
theorem writeReg_pkgId (v : Nat) (s : State) :
    writeReg 4 4 v s = if s.on Reg.PKG_ID_LOCK then s else s.set Reg.PKG_ID_ID (bits v 0 14) := by
  have hid : bits (s.merged pkgIdAt 4 v) 0 14 = bits v 0 14 :=
    pkgId_registerAt.bits_merged (x := (Reg.PKG_ID_ID, .rwl Reg.PKG_ID_LOCK)) (by simp [pkgIdAt, RegAt.flds]) s v
  rw [pkgId_registerAt.writeReg_eq (.inl rfl), writeOne_open rfl (by decide)]
  cases hl : s.on Reg.PKG_ID_LOCK
  · simp only [pkgIdAt, RegAt.flds, List.foldl_cons, List.foldl_nil, setWhere, takesWrite, hl]
    exact congrArg (s.set Reg.PKG_ID_ID) hid
  · simp [pkgIdAt, RegAt.flds, setWhere, takesWrite, hl]

theorem active_append (rs : List JrnRec) (j : Journal) : (j.append rs).active = j.active := by
  simp only [Journal.append]
  split <;> split <;> rfl

/-- Records are appended to the active device, device 0 while there is none. -/
theorem records_append (rs : List JrnRec) (j : Journal) : (j.append rs).records = j.records ++ rs.map fun r => (r, true) := by
  have hheld : Journal.active { j with held := j.held ++ rs } = j.active := rfl
  unfold Journal.records
  rw [active_append]
  cases hc : j.copying <;> rcases ha : j.active with _ | _ | _ <;> simp [Journal.append, hc, ha, hheld]

/-- The active device is COMPLETE (13 R477). -/
theorem complete_of_active {j : Journal} {d : Bool} (h : j.active = some d) : (if d then j.hdr1 else j.hdr0).state = 2 := by
  unfold Journal.active at h
  split at h <;> simp_all
  split <;> assumption

/-- A compaction that begins leaves the records of the active device (13 R481). -/
theorem records_compact (j : Journal) : j.compact.records = j.records := by
  unfold Journal.compact
  split
  · rfl
  · split
    next h =>
      have := complete_of_active h
      simp_all [Journal.records, Journal.active]
    next h =>
      have := complete_of_active h
      simp_all [Journal.records, Journal.active]
    next => rfl

theorem journalWrite_keeps (type key : Nat) (body : List Byte) (s : State) :
    KeepsBut [.regs, .journal] s (journalWrite type key body s) := by
  unfold journalWrite
  split
  · exact .refl _ s
  · exact ((keepsBut_journal s _).mono (by simp)).trans ((keepsBut_regs _ _).mono (by simp))

theorem journalWrite_fieldsBut (type key : Nat) (body : List Byte) (s : State) :
    FieldsBut [Reg.JRN_COUNTS_RECORDS] s (journalWrite type key body s) := by
  intro f hf
  unfold journalWrite
  split
  · rfl
  · exact get_set_other _ _ (by simpa using hf)

/-- A record written before a power-down is among the active device's records, also when a compaction begins. -/
theorem journaled_journalWrite (type key : Nat) (body : List Byte) {s : State} (hf : s.pins.falling = false) :
    Journaled type key body (journalWrite type key body s) := by
  have hj : (journalWrite type key body s).journal.records = (s.journal.append [⟨type, key, padTo8 body⟩]).records := by
    simp only [journalWrite, hf, State.bump, set_journal, Bool.false_eq_true, if_false]
    split
    · exact records_compact _
    · rfl
  rw [Journaled, hj, records_append]
  simp

theorem FieldsBut.mono {l m : List Fld} {s t : State} (h : FieldsBut l s t) (hlm : l ⊆ m) : FieldsBut m s t :=
  fun f hf => h f fun hl => hf (List.map_subset _ hlm hl)

theorem FieldsBut.trans {l m : List Fld} {s t u : State} (h : FieldsBut l s t) (h' : FieldsBut m t u) : FieldsBut (l ++ m) s u := by
  intro f hf
  simp only [List.map_append, List.mem_append, not_or] at hf
  rw [h' f hf.2, h f hf.1]

theorem keepsBut_set (f : Fld) (v : Nat) (s : State) : KeepsBut [.regs] s (s.set f v) := keepsBut_regs s _

theorem fieldsBut_set (f : Fld) (v : Nat) (s : State) : FieldsBut [f] s (s.set f v) :=
  fun _ hg => get_set_other v s (by simpa using hg)

/-- What a write of PKG_ID with its lock does (01 R31, R32). -/
def pkgIdWritten (value : W32) (s : State) : State :=
  let t := writeReg 4 4 value.toNat s
  if bit value.toNat 31 && !t.on Reg.PKG_ID_LOCK then
    journalWrite 1 0 (leBytes 2 (t.get Reg.PKG_ID_ID)) (t.set Reg.PKG_ID_LOCK 1)
  else t

theorem exec_pkgIdLock (value : W32) (s : State) : exec (.pkgIdLock value) s = perform true (pkgIdWritten value) s := by
  dsimp only [exec, execPkgIdLock]
  rfl

section
variable {s : State} {value : W32}

theorem pkgIdWritten_locked (hlock : s.get Reg.PKG_ID_LOCK = 1) : pkgIdWritten value s = s := by
  simp [pkgIdWritten, writeReg_pkgId, State.on, hlock]

theorem pkgIdWritten_id (hlock : s.get Reg.PKG_ID_LOCK = 0) (hbit : value.getLsbD 31 = false) :
    pkgIdWritten value s = s.set Reg.PKG_ID_ID (bits value.toNat 0 14) := by
  have hb : bit value.toNat 31 = false := by rw [bit_eq_testBit, BitVec.testBit_toNat, hbit]
  simp [pkgIdWritten, writeReg_pkgId, State.on, hlock, hb]

theorem pkgIdWritten_lock (hlock : s.get Reg.PKG_ID_LOCK = 0) (hbit : value.getLsbD 31 = true) :
    pkgIdWritten value s = journalWrite 1 0 (leBytes 2 (bits value.toNat 0 14))
      ((s.set Reg.PKG_ID_ID (bits value.toNat 0 14)).set Reg.PKG_ID_LOCK 1) := by
  have hb : bit value.toNat 31 = true := by rw [bit_eq_testBit, BitVec.testBit_toNat, hbit]
  have hwrite : writeReg 4 4 value.toNat s = s.set Reg.PKG_ID_ID (bits value.toNat 0 14) := by
    simp [writeReg_pkgId, State.on, hlock]
  have hopen : (s.set Reg.PKG_ID_ID (bits value.toNat 0 14)).on Reg.PKG_ID_LOCK = false := by
    rw [State.on, get_set_other _ _ (by decide), hlock]
    rfl
  have hid : (s.set Reg.PKG_ID_ID (bits value.toNat 0 14)).get Reg.PKG_ID_ID = bits value.toNat 0 14 :=
    (get_set_self _ _ _).trans (bits_mod_width _ _ _)
  simp only [pkgIdWritten, hwrite, hopen, hb, hid, Bool.not_false, Bool.and_self, if_true]

end

theorem packageIdLocks : Claims.PackageIdLocks := by
  intro value s id
  have hc := exec_pkgIdLock value s
  refine ⟨fun hlock hbit => ?_, fun hlock hbit => ?_, fun hlock => ?_⟩
  · have he := pkgIdWritten_lock (s := { s with out := [] }) hlock hbit
    set t := State.set Reg.PKG_ID_LOCK 1 (State.set Reg.PKG_ID_ID id { s with out := [] }) with ht
    have hk : KeepsBut [.regs] { s with out := [] } t := (keepsBut_set _ _ _).trans (keepsBut_set _ _ _)
    have hj := journalWrite_keeps 1 0 (leBytes 2 id) t
    have hf := journalWrite_fieldsBut 1 0 (leBytes 2 id) t
    have hset : FieldsBut [Reg.PKG_ID_ID, Reg.PKG_ID_LOCK] { s with out := [] } t := (fieldsBut_set _ _ _).trans (fieldsBut_set _ _ _)
    have hkeeps := (hk.mono (by simp)).trans hj
    refine gives_of_effect hc (he ▸ hkeeps) (by decide) ?_
    rw [he]
    refine ⟨hkeeps.with_out, ?_, ?_, (hset.trans hf).mono (by simp), fun hfall => ?_⟩
    · rw [hf _ (by decide), ht, get_set_self]
      rfl
    · rw [hf _ (by decide), ht, get_set_other _ _ (by decide), get_set_self]
      exact bits_mod_width _ _ _
    · exact journaled_journalWrite 1 0 (leBytes 2 id) hfall
  · have he := pkgIdWritten_id (s := { s with out := [] }) hlock hbit
    have hk := keepsBut_set Reg.PKG_ID_ID (bits value.toNat 0 14) { s with out := [] }
    refine gives_of_effect hc (he ▸ hk) (by decide) ?_
    rw [he]
    exact ⟨hk.with_out, fieldsBut_set _ _ _, (get_set_self _ _ _).trans (bits_mod_width _ _ _)⟩
  · exact gives_nothing (hc.trans (perform_eq_of_effect rfl (pkgIdWritten_locked (s := { s with out := [] }) hlock)))

/-- Settles O14, by the three claims on latches, committed blocks and the package ID. -/
theorem latchesAndPackageId : Obligations.LatchesAndPackageId := ⟨highWordLatch, commitBlockLatch, packageIdLocks⟩

end Sys2Proof.Machine
end

section
/-!
PROOFS. The package as a whole (O20, O54, O55, O58, O59): what reset leaves, the states of the package, loads that commit and
images that are released, self-test, and the power and reset pins.
-/
namespace Sys2Proof.Machine
open State Laws


/-! ## Reset -/

/-- Settles O58: every table of the reset state is empty, and every other part is at its initial value. -/
theorem resetState : Obligations.ResetState := by
  refine ⟨rfl, rfl, rfl, rfl, rfl, fun f => ?_, fun p => ?_, fun p => ⟨?_, rfl⟩, fun _ => rfl, by decide, rfl, fun t => ?_, rfl, rfl,
    rfl, rfl, rfl, rfl⟩
  · simp [State.get, State.reset, tget]
  · simp [State.partState, State.get, State.reset, tget, partFld]
  · simp [State.ldState, State.get, State.reset, tget, Reg.RIG_STATUS_STATE]
  · simp [State.treadFenced, State.reset, Fence.init, tget]
/-- A state with the parts of `l` put out of sight. -/
def veil (l : List Area) (s : State) : State :=
  { regs := if .regs ∈ l then State.reset.regs else s.regs,
    pkg := if .pkg ∈ l then State.reset.pkg else s.pkg,
    time := if .time ∈ l then State.reset.time else s.time,
    timers := if .timers ∈ l then State.reset.timers else s.timers,
    seq := if .seq ∈ l then State.reset.seq else s.seq,
    free := if .free ∈ l then State.reset.free else s.free,
    pending := if .pending ∈ l then State.reset.pending else s.pending,
    out := if .out ∈ l then State.reset.out else s.out,
    hiLatch := if .hiLatch ∈ l then State.reset.hiLatch else s.hiLatch,
    commitLatch := if .commitLatch ∈ l then State.reset.commitLatch else s.commitLatch,
    pins := if .pins ∈ l then State.reset.pins else s.pins,
    fence := if .fence ∈ l then State.reset.fence else s.fence,
    power := if .power ∈ l then State.reset.power else s.power,
    rigs := if .rigs ∈ l then State.reset.rigs else s.rigs,
    treads := if .treads ∈ l then State.reset.treads else s.treads,
    chans := if .chans ∈ l then State.reset.chans else s.chans,
    knots := if .knots ∈ l then State.reset.knots else s.knots,
    flights := if .flights ∈ l then State.reset.flights else s.flights,
    stages := if .stages ∈ l then State.reset.stages else s.stages,
    ctxs := if .ctxs ∈ l then State.reset.ctxs else s.ctxs,
    landings := if .landings ∈ l then State.reset.landings else s.landings,
    parts := if .parts ∈ l then State.reset.parts else s.parts,
    reds := if .reds ∈ l then State.reset.reds else s.reds,
    mem := if .mem ∈ l then State.reset.mem else s.mem,
    memCheck := if .memCheck ∈ l then State.reset.memCheck else s.memCheck,
    memEpoch := if .memEpoch ∈ l then State.reset.memEpoch else s.memEpoch,
    memKey := if .memKey ∈ l then State.reset.memKey else s.memKey,
    ucs := if .ucs ∈ l then State.reset.ucs else s.ucs,
    sparse := if .sparse ∈ l then State.reset.sparse else s.sparse,
    gathers := if .gathers ∈ l then State.reset.gathers else s.gathers,
    ropes := if .ropes ∈ l then State.reset.ropes else s.ropes,
    lasers := if .lasers ∈ l then State.reset.lasers else s.lasers,
    fabric := if .fabric ∈ l then State.reset.fabric else s.fabric,
    bundles := if .bundles ∈ l then State.reset.bundles else s.bundles,
    hces := if .hces ∈ l then State.reset.hces else s.hces,
    rings := if .rings ∈ l then State.reset.rings else s.rings,
    pcie := if .pcie ∈ l then State.reset.pcie else s.pcie,
    svcs := if .svcs ∈ l then State.reset.svcs else s.svcs,
    journal := if .journal ∈ l then State.reset.journal else s.journal,
    sec := if .sec ∈ l then State.reset.sec else s.sec,
    det := if .det ∈ l then State.reset.det else s.det }

/-- States that look the same under the veil agree in every part that it leaves in sight. -/
theorem keepsBut_of_veil {l : List Area} {s t : State} (h : veil l t = veil l s) : KeepsBut l s t := by
  intro a ha
  cases a <;> dsimp only [Area.same]
  case regs => simpa only [veil, ha, if_false] using congrArg State.regs h
  case pkg => simpa only [veil, ha, if_false] using congrArg State.pkg h
  case time => simpa only [veil, ha, if_false] using congrArg State.time h
  case timers => simpa only [veil, ha, if_false] using congrArg State.timers h
  case seq => simpa only [veil, ha, if_false] using congrArg State.seq h
  case free => simpa only [veil, ha, if_false] using congrArg State.free h
  case pending => simpa only [veil, ha, if_false] using congrArg State.pending h
  case out => simpa only [veil, ha, if_false] using congrArg State.out h
  case hiLatch => simpa only [veil, ha, if_false] using congrArg State.hiLatch h
  case commitLatch => simpa only [veil, ha, if_false] using congrArg State.commitLatch h
  case pins => simpa only [veil, ha, if_false] using congrArg State.pins h
  case fence => simpa only [veil, ha, if_false] using congrArg State.fence h
  case power => simpa only [veil, ha, if_false] using congrArg State.power h
  case rigs => simpa only [veil, ha, if_false] using congrArg State.rigs h
  case treads => simpa only [veil, ha, if_false] using congrArg State.treads h
  case chans => simpa only [veil, ha, if_false] using congrArg State.chans h
  case knots => simpa only [veil, ha, if_false] using congrArg State.knots h
  case flights => simpa only [veil, ha, if_false] using congrArg State.flights h
  case stages => simpa only [veil, ha, if_false] using congrArg State.stages h
  case ctxs => simpa only [veil, ha, if_false] using congrArg State.ctxs h
  case landings => simpa only [veil, ha, if_false] using congrArg State.landings h
  case parts => simpa only [veil, ha, if_false] using congrArg State.parts h
  case reds => simpa only [veil, ha, if_false] using congrArg State.reds h
  case mem => simpa only [veil, ha, if_false] using congrArg State.mem h
  case memCheck => simpa only [veil, ha, if_false] using congrArg State.memCheck h
  case memEpoch => simpa only [veil, ha, if_false] using congrArg State.memEpoch h
  case memKey => simpa only [veil, ha, if_false] using congrArg State.memKey h
  case ucs => simpa only [veil, ha, if_false] using congrArg State.ucs h
  case sparse => simpa only [veil, ha, if_false] using congrArg State.sparse h
  case gathers => simpa only [veil, ha, if_false] using congrArg State.gathers h
  case ropes => simpa only [veil, ha, if_false] using congrArg State.ropes h
  case lasers => simpa only [veil, ha, if_false] using congrArg State.lasers h
  case fabric => simpa only [veil, ha, if_false] using congrArg State.fabric h
  case bundles => simpa only [veil, ha, if_false] using congrArg State.bundles h
  case hces => simpa only [veil, ha, if_false] using congrArg State.hces h
  case rings => simpa only [veil, ha, if_false] using congrArg State.rings h
  case pcie => simpa only [veil, ha, if_false] using congrArg State.pcie h
  case svcs => simpa only [veil, ha, if_false] using congrArg State.svcs h
  case journal => simpa only [veil, ha, if_false] using congrArg State.journal h
  case sec => simpa only [veil, ha, if_false] using congrArg State.sec h
  case det => simpa only [veil, ha, if_false] using congrArg State.det h


/-! Frames over the register fields. -/

/-- Only register fields whose keys satisfy `R` may differ. -/
def Writes (R : Nat → Prop) (s u : State) : Prop := ∀ f : Fld, ¬R f.key → u.get f = s.get f

theorem Writes.refl (R : Nat → Prop) (s : State) : Writes R s s := fun _ _ => rfl

theorem Writes.trans {R : Nat → Prop} {s t u : State} (h : Writes R s t) (h' : Writes R t u) : Writes R s u :=
  fun f hf => (h' f hf).trans (h f hf)

theorem Writes.mono {R Q : Nat → Prop} {s t : State} (h : Writes R s t) (hq : ∀ k, R k → Q k) : Writes Q s t :=
  fun f hf => h f fun hr => hf (hq _ hr)

theorem KeepsBut.writes {l : List Area} {s t : State} (h : KeepsBut l s t) (hl : .regs ∉ l) (R : Nat → Prop) : Writes R s t := by
  intro f _
  have hregs : t.regs = s.regs := h .regs hl
  rw [State.get, State.get, hregs]

theorem writes_set {R : Nat → Prop} {f : Fld} (hf : R f.key) (v : Nat) (s : State) : Writes R s (s.set f v) :=
  fun _ hg => get_set_other v s fun e => hg (e ▸ hf)

theorem writes_bump {R : Nat → Prop} {f : Fld} (hf : R f.key) (n : Nat) (s : State) : Writes R s (s.bump f n) :=
  writes_set hf _ s

/-- A walk whose every step keeps to what a transitive relation allows does so as a whole. -/
theorem foldl_related {β : Type} {Q : State → State → Prop} (hr : ∀ s, Q s s) (ht : ∀ s t u, Q s t → Q t u → Q s u)
    {g : State → β → State} {l : List β} (h : ∀ s, ∀ x ∈ l, Q s (g s x)) (s : State) : Q s (l.foldl g s) := by
  induction l generalizing s with
  | nil => exact hr s
  | cons x l ih =>
    exact ht _ _ _ (h s x List.mem_cons_self) (ih (fun s y hy => h s y (List.mem_cons_of_mem x hy)) (g s x))

theorem foldl_keeps {β : Type} {as : List Area} {g : State → β → State} {l : List β} (h : ∀ s, ∀ x ∈ l, KeepsBut as s (g s x))
    (s : State) : KeepsBut as s (l.foldl g s) :=
  foldl_related (.refl as) (fun _ _ _ => .trans) h s

theorem foldl_writes {β : Type} {R : Nat → Prop} {g : State → β → State} {l : List β} (h : ∀ s, ∀ x ∈ l, Writes R s (g s x))
    (s : State) : Writes R s (l.foldl g s) :=
  foldl_related (.refl R) (fun _ _ _ => .trans) h s

/-! Events. -/

/-- The counter of a ring's dropped records. -/
def isDropCount (k : Nat) : Prop := ∃ f, k = (Reg.EVT_COUNTS_DROPPED f).key

theorem queueRecord_writes (f : Nat) (r : EvRec) (s : State) : Writes isDropCount s (queueRecord f r s) := by
  unfold queueRecord
  dsimp only
  split
  · exact fun _ _ => rfl
  · exact Writes.trans (fun _ _ => rfl) (writes_bump ⟨f, rfl⟩ 1 _)

theorem raise_writes (code : Nat) (st : Stamp) (body : List Nat) (s : State) : Writes isDropCount s (raise code st body s) := by
  unfold raise
  have h0 : Writes isDropCount s (queueRecord 0 ⟨code, s.seq, st.step, st.mb, st.part, body⟩
      (countEvent code { s with seq := (s.seq + 1) % 2 ^ 32 })) :=
    Writes.trans (fun _ _ => rfl) (queueRecord_writes _ _ _)
  split
  · exact h0
  · dsimp only
    split
    · exact h0
    · exact h0.trans (queueRecord_writes _ _ _)

theorem not_isDropCount {k : Nat} (h : k % 4096 ≠ 1280) : ¬isDropCount k := by
  rintro ⟨f, rfl⟩
  simp only [Fld.key, Reg.EVT_COUNTS_DROPPED] at h
  omega

/-! ## The states of the package -/

/-- A command that is not listed with PKG_STATE leaves it as it was. -/
theorem exec_keeps_pkg {c : Instr} {s t : State} (hc : .pkg ∉ touches c) (h : exec c s = .next t) : t.pkg = s.pkg := by
  cases c <;> dsimp only [exec] at h
  case' registerWrite => apply execRegisterWrite_frame (φ := State.pkg) (h := h)
  case' rcRead => apply execRcRead_frame (φ := State.pkg) (h := h)
  case' rw1cWrite => apply execRw1cWrite_frame (φ := State.pkg) (h := h)
  case' highWordLatchRead => apply execHighWordLatchRead_frame (φ := State.pkg) (h := h)
  case' committedStepRead => apply execCommittedStepRead_frame (φ := State.pkg) (h := h)
  case' pkgIdLock => apply execPkgIdLock_frame (φ := State.pkg) (h := h)
  case' pwrBudgetWrite => apply execPwrBudgetWrite_frame (φ := State.pkg) (h := h)
  case' powerLimitEffecter => apply execPowerLimitEffecter_frame (φ := State.pkg) (h := h)
  case' powerMeasurement => apply execPowerMeasurement_frame (φ := State.pkg) (h := h)
  case' budgetWindowClose => apply execBudgetWindowClose_frame (φ := State.pkg) (h := h)
  case' inputLow => apply execInputLow_frame (φ := State.pkg) (h := h)
  case' inputRestored => apply execInputRestored_frame (φ := State.pkg) (h := h)
  case' admissionToken => apply execAdmissionToken_frame (φ := State.pkg) (h := h)
  case' retainEntry => apply execRetainEntry_frame (φ := State.pkg) (h := h)
  case' retainExit => apply execRetainExit_frame (φ := State.pkg) (h := h)
  case' rigStart => apply execRigStart_frame (φ := State.pkg) (h := h)
  case' rigFetchComplete => apply execRigFetchComplete_frame (φ := State.pkg) (h := h)
  case' fetchFailed => apply execFetchFailed_frame (φ := State.pkg) (h := h)
  case' rigVerifyComplete => apply execRigVerifyComplete_frame (φ := State.pkg) (h := h)
  case' rigValidateComplete => apply execRigValidateComplete_frame (φ := State.pkg) (h := h)
  case' rigPlaceComplete => apply execRigPlaceComplete_frame (φ := State.pkg) (h := h)
  case' applyFault => apply execApplyFault_frame (φ := State.pkg) (h := h)
  case' rigAbort => apply execRigAbort_frame (φ := State.pkg) (h := h)
  case' rigRelease => apply execRigRelease_frame (φ := State.pkg) (h := h)
  case' rerigRowShift => apply execRerigRowShift_frame (φ := State.pkg) (h := h)
  case' rerigRoleMove => apply execRerigRoleMove_frame (φ := State.pkg) (h := h)
  case' rerigComplete => apply execRerigComplete_frame (φ := State.pkg) (h := h)
  case' add | sub | and | or | xor | sll | srl | sra | slt | sltu | min | max | minu | maxu | mul | mulh | mulhu | clz | popc
      | addi | andi | ori | xori | slti | slli | srli | srai | lui => apply alu_frame (φ := State.pkg) (h := h)
  case' lw | lh | lhu | lbu | vld => apply loadTread_frame (φ := State.pkg) (h := h)
  case' sw | sh | sb | vst => apply storeTread_frame (φ := State.pkg) (h := h)
  case' beq | bne | blt | bge | bltu | bgeu => apply branch_frame (φ := State.pkg) (h := h)
  case' jal => apply execJal_frame (φ := State.pkg) (h := h)
  case' jalr => apply execJalr_frame (φ := State.pkg) (h := h)
  case' recv => apply execRecv_frame (φ := State.pkg) (h := h)
  case' send => apply execSend_frame (φ := State.pkg) (h := h)
  case' poll => apply execPoll_frame (φ := State.pkg) (h := h)
  case' vrecv => apply execVrecv_frame (φ := State.pkg) (h := h)
  case' vsend => apply execVsend_frame (φ := State.pkg) (h := h)
  case' vadd | vsub | vmul | vfma | vmin | vmax | vabs | vneg | vrcp | vrsqrt => apply vfloat_frame (φ := State.pkg) (h := h)
  case' vcmplt => apply execVcmplt_frame (φ := State.pkg) (h := h)
  case' vcmpeq => apply execVcmpeq_frame (φ := State.pkg) (h := h)
  case' vsel | vsplat | vins | viadd | vand | vor | vxor => apply vbits_frame (φ := State.pkg) (h := h)
  case' vred => apply execVred_frame (φ := State.pkg) (h := h)
  case' vext => apply execVext_frame (φ := State.pkg) (h := h)
  case' vcvt => apply execVcvt_frame (φ := State.pkg) (h := h)
  case' accrd => apply execAccrd_frame (φ := State.pkg) (h := h)
  case' accclr => apply execAccclr_frame (φ := State.pkg) (h := h)
  case' accrel => apply execAccrel_frame (φ := State.pkg) (h := h)
  case' nop => apply execNop_frame (φ := State.pkg) (h := h)
  case' halt => apply execHalt_frame (φ := State.pkg) (h := h)
  case' fence => apply execFence_frame (φ := State.pkg) (h := h)
  case' rdsr => apply execRdsr_frame (φ := State.pkg) (h := h)
  case' wrsr => apply execWrsr_frame (φ := State.pkg) (h := h)
  case' brk => apply execBrk_frame (φ := State.pkg) (h := h)
  case' trap => apply execTrap_frame (φ := State.pkg) (h := h)
  case' wordDelivery => apply execWordDelivery_frame (φ := State.pkg) (h := h)
  case' creditReturn => apply execCreditReturn_frame (φ := State.pkg) (h := h)
  case' knotContribution => apply execKnotContribution_frame (φ := State.pkg) (h := h)
  case' knotDelivery => apply execKnotDelivery_frame (φ := State.pkg) (h := h)
  case' chanLimitWrite => apply execChanLimitWrite_frame (φ := State.pkg) (h := h)
  case' chanHeadRead => apply execChanHeadRead_frame (φ := State.pkg) (h := h)
  case' stallScan => apply execStallScan_frame (φ := State.pkg) (h := h)
  case' stallCtrlWrite => apply execStallCtrlWrite_frame (φ := State.pkg) (h := h)
  case' fltPush => apply execFltPush_frame (φ := State.pkg) (h := h)
  case' tileStart => apply execTileStart_frame (φ := State.pkg) (h := h)
  case' loadStart => apply execLoadStart_frame (φ := State.pkg) (h := h)
  case' loadComplete => apply execLoadComplete_frame (φ := State.pkg) (h := h)
  case' tileAccumulated => apply execTileAccumulated_frame (φ := State.pkg) (h := h)
  case' drainComplete => apply execDrainComplete_frame (φ := State.pkg) (h := h)
  case' macResidue => apply execMacResidue_frame (φ := State.pkg) (h := h)
  case' treadParity => apply execTreadParity_frame (φ := State.pkg) (h := h)
  case' routerParity => apply execRouterParity_frame (φ := State.pkg) (h := h)
  case' sbParity => apply execSbParity_frame (φ := State.pkg) (h := h)
  case' microBatchBoundary => apply execMicroBatchBoundary_frame (φ := State.pkg) (h := h)
  case' forwardAdmit => apply execForwardAdmit_frame (φ := State.pkg) (h := h)
  case' backwardStart => apply execBackwardStart_frame (φ := State.pkg) (h := h)
  case' seqDescriptorPush => apply execSeqDescriptorPush_frame (φ := State.pkg) (h := h)
  case' landingPush => apply execLandingPush_frame (φ := State.pkg) (h := h)
  case' ingestPush => apply execIngestPush_frame (φ := State.pkg) (h := h)
  case' landLimitWrite => apply execLandLimitWrite_frame (φ := State.pkg) (h := h)
  case' seqQuotaWrite => apply execSeqQuotaWrite_frame (φ := State.pkg) (h := h)
  case' ringPass => apply execRingPass_frame (φ := State.pkg) (h := h)
  case' stashVerify => apply execStashVerify_frame (φ := State.pkg) (h := h)
  case' bucketEnter => apply execBucketEnter_frame (φ := State.pkg) (h := h)
  case' ringMessageSend => apply execRingMessageSend_frame (φ := State.pkg) (h := h)
  case' ringData => apply execRingData_frame (φ := State.pkg) (h := h)
  case' ringCredit => apply execRingCredit_frame (φ := State.pkg) (h := h)
  case' updateGroup => apply execUpdateGroup_frame (φ := State.pkg) (h := h)
  case' vbmax => apply execVbmax_frame (φ := State.pkg) (h := h)
  case' vsqrt => apply execVsqrt_frame (φ := State.pkg) (h := h)
  case' vdiv => apply execVdiv_frame (φ := State.pkg) (h := h)
  case' vmmul => apply execVmmul_frame (φ := State.pkg) (h := h)
  case' vtrans => apply execVtrans_frame (φ := State.pkg) (h := h)
  case' schedScaleWrite => apply execSchedScaleWrite_frame (φ := State.pkg) (h := h)
  case' sparsePass1 => apply execSparsePass1_frame (φ := State.pkg) (h := h)
  case' sparsePass2 => apply execSparsePass2_frame (φ := State.pkg) (h := h)
  case' sparseRestore => apply execSparseRestore_frame (φ := State.pkg) (h := h)
  case' fabricRead => apply execFabricRead_frame (φ := State.pkg) (h := h)
  case' fabricWrite => apply execFabricWrite_frame (φ := State.pkg) (h := h)
  case' fabricAtomic => apply execFabricAtomic_frame (φ := State.pkg) (h := h)
  case' rowRepair => apply execRowRepair_frame (φ := State.pkg) (h := h)
  case' patrolRead => apply execPatrolRead_frame (φ := State.pkg) (h := h)
  case' keySweepLine => apply execKeySweepLine_frame (φ := State.pkg) (h := h)
  case' ucQuotaWrite => apply execUcQuotaWrite_frame (φ := State.pkg) (h := h)
  case' ucGatherPush => apply execUcGatherPush_frame (φ := State.pkg) (h := h)
  case' ucConvPush => apply execUcConvPush_frame (φ := State.pkg) (h := h)
  case' gatherDescriptor => apply execGatherDescriptor_frame (φ := State.pkg) (h := h)
  case' gatherLandingPush => apply execGatherLandingPush_frame (φ := State.pkg) (h := h)
  case' converterDescriptor => apply execConverterDescriptor_frame (φ := State.pkg) (h := h)
  case' ropeSignalLock => apply execRopeSignalLock_frame (φ := State.pkg) (h := h)
  case' ropeTrainRetry => apply execRopeTrainRetry_frame (φ := State.pkg) (h := h)
  case' trainFlit => apply execTrainFlit_frame (φ := State.pkg) (h := h)
  case' flitSend => apply execFlitSend_frame (φ := State.pkg) (h := h)
  case' dataFlit => apply execDataFlit_frame (φ := State.pkg) (h := h)
  case' controlFlit => apply execControlFlit_frame (φ := State.pkg) (h := h)
  case' idleFlit => apply execIdleFlit_frame (φ := State.pkg) (h := h)
  case' replayTmo => apply execReplayTmo_frame (φ := State.pkg) (h := h)
  case' errorWindowClose => apply execErrorWindowClose_frame (φ := State.pkg) (h := h)
  case' strandLockLoss => apply execStrandLockLoss_frame (φ := State.pkg) (h := h)
  case' ropeGraceExpiry => apply execRopeGraceExpiry_frame (φ := State.pkg) (h := h)
  case' ropeRetrain => apply execRopeRetrain_frame (φ := State.pkg) (h := h)
  case' ropeDisable => apply execRopeDisable_frame (φ := State.pkg) (h := h)
  case' ropeVcLimitWrite => apply execRopeVcLimitWrite_frame (φ := State.pkg) (h := h)
  case' landingEntry => apply execLandingEntry_frame (φ := State.pkg) (h := h)
  case' landingCredit => apply execLandingCredit_frame (φ := State.pkg) (h := h)
  case' fabricRequestIssue => apply execFabricRequestIssue_frame (φ := State.pkg) (h := h)
  case' fabricResponse => apply execFabricResponse_frame (φ := State.pkg) (h := h)
  case' checkpointData => apply execCheckpointData_frame (φ := State.pkg) (h := h)
  case' checkpointDone => apply execCheckpointDone_frame (φ := State.pkg) (h := h)
  case' checkpointFetch => apply execCheckpointFetch_frame (φ := State.pkg) (h := h)
  case' checkpointReturn => apply execCheckpointReturn_frame (φ := State.pkg) (h := h)
  case' checkpointReturnDone => apply execCheckpointReturnDone_frame (φ := State.pkg) (h := h)
  case' ropeKeyCheck => apply execRopeKeyCheck_frame (φ := State.pkg) (h := h)
  case' partUnavailable => apply execPartUnavailable_frame (φ := State.pkg) (h := h)
  case' laserModuleInsert => apply execLaserModuleInsert_frame (φ := State.pkg) (h := h)
  case' laserModuleRemove => apply execLaserModuleRemove_frame (φ := State.pkg) (h := h)
  case' laserFailed => apply execLaserFailed_frame (φ := State.pkg) (h := h)
  case' laserLightTimeout => apply execLaserLightTimeout_frame (φ := State.pkg) (h := h)
  case' laserLifeTick => apply execLaserLifeTick_frame (φ := State.pkg) (h := h)
  case' laserLifeJournal => apply execLaserLifeJournal_frame (φ := State.pkg) (h := h)
  case' laserRelease => apply execLaserRelease_frame (φ := State.pkg) (h := h)
  case' laserRelight => apply execLaserRelight_frame (φ := State.pkg) (h := h)
  case' dcpMsgFlit => apply execDcpMsgFlit_frame (φ := State.pkg) (h := h)
  case' dcpCapFlit => apply execDcpCapFlit_frame (φ := State.pkg) (h := h)
  case' dcpReplayTmo => apply execDcpReplayTmo_frame (φ := State.pkg) (h := h)
  case' dieLinkFenced => apply execDieLinkFenced_frame (φ := State.pkg) (h := h)
  case' dlDisable => apply execDlDisable_frame (φ := State.pkg) (h := h)
  case' dlReset => apply execDlReset_frame (φ := State.pkg) (h := h)
  case' dlTrainingTimeout => apply execDlTrainingTimeout_frame (φ := State.pkg) (h := h)
  case' dlRetest => apply execDlRetest_frame (φ := State.pkg) (h := h)
  case' laneTest => apply execLaneTest_frame (φ := State.pkg) (h := h)
  case' bar4Request => apply execBar4Request_frame (φ := State.pkg) (h := h)
  case' plcValidWrite => apply execPlcValidWrite_frame (φ := State.pkg) (h := h)
  case' hceDoorbell => apply execHceDoorbell_frame (φ := State.pkg) (h := h)
  case' hceNop => apply execHceNop_frame (φ := State.pkg) (h := h)
  case' hceCopy => apply execHceCopy_frame (φ := State.pkg) (h := h)
  case' hceFence => apply execHceFence_frame (φ := State.pkg) (h := h)
  case' hceDescriptorComplete => apply execHceDescriptorComplete_frame (φ := State.pkg) (h := h)
  case' hceDescriptorRetry => apply execHceDescriptorRetry_frame (φ := State.pkg) (h := h)
  case' hceResume => apply execHceResume_frame (φ := State.pkg) (h := h)
  case' hceEnable => apply execHceEnable_frame (φ := State.pkg) (h := h)
  case' eventRecordWrite => apply execEventRecordWrite_frame (φ := State.pkg) (h := h)
  case' evtHeadWrite => apply execEvtHeadWrite_frame (φ := State.pkg) (h := h)
  case' evtEnable => apply execEvtEnable_frame (φ := State.pkg) (h := h)
  case' dlDown => apply execDlDown_frame (φ := State.pkg) (h := h)
  case' hotReset => apply execHotReset_frame (φ := State.pkg) (h := h)
  case' perstAssert => apply execPerstAssert_frame (φ := State.pkg) (h := h)
  case' perstRelease => apply execPerstRelease_frame (φ := State.pkg) (h := h)
  case' functionLevelReset => apply execFunctionLevelReset_frame (φ := State.pkg) (h := h)
  case' d3hotEntry => apply execD3hotEntry_frame (φ := State.pkg) (h := h)
  case' linkRecovery => apply execLinkRecovery_frame (φ := State.pkg) (h := h)
  case' mbH2pWrite => apply execMbH2pWrite_frame (φ := State.pkg) (h := h)
  case' mbP2hClear => apply execMbP2hClear_frame (φ := State.pkg) (h := h)
  case' mbP2hMaskWrite => apply execMbP2hMaskWrite_frame (φ := State.pkg) (h := h)
  case' stepStart => apply execStepStart_frame (φ := State.pkg) (h := h)
  case' join => apply execJoin_frame (φ := State.pkg) (h := h)
  case' go => apply execGo_frame (φ := State.pkg) (h := h)
  case' stepVote => apply execStepVote_frame (φ := State.pkg) (h := h)
  case' vote => apply execVote_frame (φ := State.pkg) (h := h)
  case' decide_ => apply execDecide_frame (φ := State.pkg) (h := h)
  case' rewind => apply execRewind_frame (φ := State.pkg) (h := h)
  case' windDownTimeout => apply execWindDownTimeout_frame (φ := State.pkg) (h := h)
  case' rewoundSend => apply execRewoundSend_frame (φ := State.pkg) (h := h)
  case' rewound => apply execRewound_frame (φ := State.pkg) (h := h)
  case' resume => apply execResume_frame (φ := State.pkg) (h := h)
  case' heartbeat => apply execHeartbeat_frame (φ := State.pkg) (h := h)
  case' heartbeatSend => apply execHeartbeatSend_frame (φ := State.pkg) (h := h)
  case' peerLostTimeout => apply execPeerLostTimeout_frame (φ := State.pkg) (h := h)
  case' stepRewindRequest => apply execStepRewindRequest_frame (φ := State.pkg) (h := h)
  case' stepHalt => apply execStepHalt_frame (φ := State.pkg) (h := h)
  case' stepTakeover => apply execStepTakeover_frame (φ := State.pkg) (h := h)
  case' storageResponse => apply execStorageResponse_frame (φ := State.pkg) (h := h)
  case' snapPin => apply execSnapPin_frame (φ := State.pkg) (h := h)
  case' snapUnpin => apply execSnapUnpin_frame (φ := State.pkg) (h := h)
  case' snapExpiry => apply execSnapExpiry_frame (φ := State.pkg) (h := h)
  case' jrnCompact => apply execJrnCompact_frame (φ := State.pkg) (h := h)
  case' journalCompacted => apply execJournalCompacted_frame (φ := State.pkg) (h := h)
  case' availJournal => apply execAvailJournal_frame (φ := State.pkg) (h := h)
  case' partOffer => apply execPartOffer_frame (φ := State.pkg) (h := h)
  case' partReclaim => apply execPartReclaim_frame (φ := State.pkg) (h := h)
  case' partWithdraw => apply execPartWithdraw_frame (φ := State.pkg) (h := h)
  case' claim => apply execClaim_frame (φ := State.pkg) (h := h)
  case' enrollRigKey => apply execEnrollRigKey_frame (φ := State.pkg) (h := h)
  case' linkStage => apply execLinkStage_frame (φ := State.pkg) (h := h)
  case' linkSwitch => apply execLinkSwitch_frame (φ := State.pkg) (h := h)
  case' memRotate => apply execMemRotate_frame (φ := State.pkg) (h := h)
  case' end_ => apply execEnd_frame (φ := State.pkg) (h := h)
  case' status => apply execStatus_frame (φ := State.pkg) (h := h)
  case' getVersion => apply execGetVersion_frame (φ := State.pkg) (h := h)
  case' getCapabilities => apply execGetCapabilities_frame (φ := State.pkg) (h := h)
  case' negotiateAlgorithms => apply execNegotiateAlgorithms_frame (φ := State.pkg) (h := h)
  case' getDigests => apply execGetDigests_frame (φ := State.pkg) (h := h)
  case' getCertificate => apply execGetCertificate_frame (φ := State.pkg) (h := h)
  case' challenge => apply execChallenge_frame (φ := State.pkg) (h := h)
  case' getMeasurements => apply execGetMeasurements_frame (φ := State.pkg) (h := h)
  case' keyExchange => apply execKeyExchange_frame (φ := State.pkg) (h := h)
  case' finish => apply execFinish_frame (φ := State.pkg) (h := h)
  case' keyUpdate => apply execKeyUpdate_frame (φ := State.pkg) (h := h)
  case' spdmHeartbeat => apply execSpdmHeartbeat_frame (φ := State.pkg) (h := h)
  case' endSession => apply execEndSession_frame (φ := State.pkg) (h := h)
  case' firmwareImage => apply execFirmwareImage_frame (φ := State.pkg) (h := h)
  case' fuseSvnRaise => apply execFuseSvnRaise_frame (φ := State.pkg) (h := h)
  case' fabStage => apply execFabStage_frame (φ := State.pkg) (h := h)
  case' fabSwitch => apply execFabSwitch_frame (φ := State.pkg) (h := h)
  case' debugUnlock => apply execDebugUnlock_frame (φ := State.pkg) (h := h)
  case' debugRelock => apply execDebugRelock_frame (φ := State.pkg) (h := h)
  case' dbgGo => apply execDbgGo_frame (φ := State.pkg) (h := h)
  case' scrubStart => apply execScrubStart_frame (φ := State.pkg) (h := h)
  case' scrubKeysErased => apply execScrubKeysErased_frame (φ := State.pkg) (h := h)
  case' scrubOverwriteDone => apply execScrubOverwriteDone_frame (φ := State.pkg) (h := h)
  case' partScrubbed => apply execPartScrubbed_frame (φ := State.pkg) (h := h)
  case' injArm => apply execInjArm_frame (φ := State.pkg) (h := h)
  case' injDisarm => apply execInjDisarm_frame (φ := State.pkg) (h := h)
  case' calApply => apply execCalApply_frame (φ := State.pkg) (h := h)
  case' telemetryConsumer => apply execTelemetryConsumer_frame (φ := State.pkg) (h := h)
  case' storageServiceBit => apply execStorageServiceBit_frame (φ := State.pkg) (h := h)
  case' pwrEnRise => apply execPwrEnRise_frame (φ := State.pkg) (h := h)
  case' powerUpHoldoffEnd => apply execPowerUpHoldoffEnd_frame (φ := State.pkg) (h := h)
  case' pwrEnFall => apply execPwrEnFall_frame (φ := State.pkg) (h := h)
  case' refclkHostLoss => apply execRefclkHostLoss_frame (φ := State.pkg) (h := h)
  case' pldmGetSensor => apply execPldmGetSensor_frame (φ := State.pkg) (h := h)
  case' extest | clamp | highz => apply testPort_frame (φ := State.pkg) (h := h)
  case' illegalInstruction => apply execIllegalInstruction_frame (φ := State.pkg) (h := h)
  case' dcpIdleFlit => apply execDcpIdleFlit_frame (φ := State.pkg) (h := h)
  case' hostLinkTrained => apply execHostLinkTrained_frame (φ := State.pkg) (h := h)
  case' doeDiscovery => apply execDoeDiscovery_frame (φ := State.pkg) (h := h)
  case' completionTimeout => apply execCompletionTimeout_frame (φ := State.pkg) (h := h)
  case' ideKm => apply execIdeKm_frame (φ := State.pkg) (h := h)
  case' eventSummaryJournal => apply execEventSummaryJournal_frame (φ := State.pkg) (h := h)
  case' instrumentAccess => apply execInstrumentAccess_frame (φ := State.pkg) (h := h)
  case' ropeEnable => apply execRopeEnable_frame (φ := State.pkg) (h := h)
  case converterFailed | inputOutOfRange | thermalSample | rigApplyComplete | rigReleased | selfTestPhaseComplete | refclkFabLoss
      | pwrGoodRise | pkgRstRelease | pkgRstAssert | pwrGoodFall => simp [touches] at hc
  all_goals exact fun _ _ => rfl
/-! What the shared operations change, as frames over every part at once. -/

theorem at_keeps (now : W64) (s : State) : KeepsBut [.time] s (at_ now s) :=
  keepsBut_of_veil (at__frame (fun _ _ => rfl) now s)

theorem raise_keeps (code : Nat) (st : Stamp) (body : List Nat) (s : State) :
    KeepsBut [.regs, .seq, .rings, .det] s (raise code st body s) := by
  apply keepsBut_of_veil
  apply raise_frame <;> exact fun _ _ => rfl

theorem packageFault_keeps (s : State) : KeepsBut [.pkg, .out, .pins] s (packageFault s) := by
  apply keepsBut_of_veil
  apply packageFault_frame <;> exact fun _ _ => rfl

theorem scanJournal_keeps (s : State) :
    KeepsBut [.regs, .seq, .fence, .power, .treads, .ucs, .bundles, .rings, .journal, .det] s (scanJournal s) := by
  apply keepsBut_of_veil
  apply scanJournal_frame <;> exact fun _ _ => rfl

theorem runPhase_keeps (n : Nat) (treads flights : List Nat) (wrong : List (Nat × Nat × Nat × Nat)) (readings : List (Nat × Int))
    (s : State) : KeepsBut [.regs, .seq, .out, .fence, .power, .rigs, .treads, .flights, .ucs, .ropes, .bundles, .rings, .svcs,
      .journal, .det] s (runPhase n treads flights wrong readings s) := by
  apply keepsBut_of_veil
  apply runPhase_frame <;> exact fun _ _ => rfl

/-! Transitions of PKG_STATE (01 R34). -/

/-- PKG_STATE stays, or a fault is entered. -/
def StaysOrFaults (s t : State) : Prop := t.pkg = s.pkg ∨ t.pkg = .fault ∧ s.pkg ≠ .fault

theorem staysOrFaults_of_fault {s t : State} (h : t.pkg = .fault) : StaysOrFaults s t := by
  by_cases hs : s.pkg = .fault
  · exact .inl (h.trans hs.symm)
  · exact .inr ⟨h, hs⟩

theorem StaysOrFaults.ite {s a b : State} {c : Prop} [Decidable c] (ha : StaysOrFaults s a) (hb : StaysOrFaults s b) :
    StaysOrFaults s (if c then a else b) := by
  split
  · exact ha
  · exact hb

theorem packageFault_pkg (s : State) : (packageFault s).pkg = .fault := by
  unfold packageFault
  split
  next h => exact eq_of_beq h
  next => rfl

theorem perform_next {ok : Bool} {f : State → State} {s t : State} (h : perform ok f s = .next t) :
    ok = true ∧ t = { f { s with out := [] } with pending := s.pending } := by
  unfold perform at h
  split at h
  next hok => exact ⟨hok, (Host.Outcome.next.inj h).symm⟩
  next => cases h

theorem perform_staysOrFaults {ok : Bool} {f : State → State} {s t : State} (h : perform ok f s = .next t)
    (hf : ∀ s, StaysOrFaults s (f s)) : StaysOrFaults s t := by
  obtain ⟨-, rfl⟩ := perform_next h
  exact hf { s with out := [] }

@[simp] theorem raise_pkg (code : Nat) (st : Stamp) (body : List Nat) (s : State) : (raise code st body s).pkg = s.pkg :=
  raise_keeps code st body s .pkg (by decide)

@[simp] theorem raise0_pkg (code : Nat) (body : List Nat) (s : State) : (raise0 code body s).pkg = s.pkg :=
  raise_pkg code noStamp body s

@[simp] theorem formBudget_pkg (s : State) : (formBudget s).pkg = s.pkg := by
  apply formBudget_frame (φ := State.pkg) <;> exact fun _ _ => rfl

@[simp] theorem hitInjection_pkg (seq : Nat) (parts : List Nat) (s : State) : (hitInjection seq parts s).pkg = s.pkg := by
  apply hitInjection_frame (φ := State.pkg) <;> exact fun _ _ => rfl

theorem converterFailed_staysOrFaults {now : W64} {k : Nat} {s t : State} (h : execConverterFailed now k s = .next t) :
    StaysOrFaults s t := by
  have hit : ∀ (c : Bool) (seq : Nat) (parts : List Nat) (u : State), (if c then hitInjection seq parts u else u).pkg = u.pkg :=
    fun c seq parts u => by cases c <;> simp
  exact perform_staysOrFaults h fun s => .ite (.inl rfl) <| .ite (staysOrFaults_of_fault (packageFault_pkg _)) <|
    .inl ((hit _ _ _ _).trans ((formBudget_pkg _).trans (raise0_pkg _ _ _)))

theorem inputOutOfRange_staysOrFaults {mv : Nat} {s t : State} (h : execInputOutOfRange mv s = .next t) : StaysOrFaults s t :=
  perform_staysOrFaults h fun _ => .ite (.inl rfl) (staysOrFaults_of_fault (packageFault_pkg _))

theorem refclkFabLoss_staysOrFaults {s t : State} (h : execRefclkFabLoss s = .next t) : StaysOrFaults s t :=
  perform_staysOrFaults h fun _ => staysOrFaults_of_fault (packageFault_pkg _)

theorem thermalTrip_pkg (gf : Nat) (s : State) : (thermalTrip gf s).pkg = .fault := by
  unfold thermalTrip
  refine (raise_frame (φ := State.pkg) (fun _ _ => rfl) (fun _ _ => rfl) (fun _ _ => rfl) (fun _ _ => rfl) _ _ _ _).trans ?_
  exact (put_pkg _ _).trans (packageFault_pkg _)

theorem thermalSample_staysOrFaults {now : W64} {readings : List (Nat × Int)} {s t : State}
    (h : execThermalSample now readings s = .next t) : StaysOrFaults s t := by
  refine perform_staysOrFaults h fun s => ?_
  have sampled : ∀ a b : Nat, (sampleFlights (State.set Reg.THERM_STATUS_HOTTEST_C a (State.set Reg.THERM_STATUS_HOTTEST_GF b
      (hitAll 0x0C (takeReadings readings (at_ now s)))))).pkg = s.pkg := fun a b => by
    refine Eq.trans ?_ (hitAll_frame (φ := State.pkg) (fun _ _ => rfl) (fun _ _ => rfl) (fun _ _ => rfl) (fun _ _ => rfl)
      (fun _ _ => rfl) (fun _ _ => rfl) 0x0C (takeReadings readings (at_ now s)))
    apply sampleFlights_frame (φ := State.pkg) <;> exact fun _ _ => rfl
  have lowered : ∀ (l : List Nat) (u : State), (l.foldl (fun s n => lowerCodes n s) u).pkg = u.pkg :=
    foldl_frame (φ := State.pkg) fun s n => lowerCodes_frame (fun _ _ => rfl) n s
  simp only
  split
  · exact .ite (staysOrFaults_of_fault (thermalTrip_pkg _ _)) (.inl (sampled _ _))
  · exact .inl ((lowered _ _).trans (sampled _ _))

/-! Power-on, self-test, Commit and release. -/

theorem drawChallenge_pkg (s : State) : (drawChallenge s).pkg = s.pkg := by
  apply drawChallenge_frame (φ := State.pkg) <;> exact fun _ _ => rfl

theorem drive_pkg (p : OutPin) (old new : Bool) (s : State) : (drive p old new s).pkg = s.pkg :=
  drive_frame (φ := State.pkg) (fun _ _ => rfl) p old new s

theorem loseState_pkg (s : State) : (loseState s).pkg = .boot := drive_pkg _ _ _ _

theorem powerOnReset_pkg (s : State) : (powerOnReset s).pkg = .boot := by
  have h : (drawChallenge (loseState s)).pkg = .boot := (drawChallenge_pkg _).trans (loseState_pkg s)
  unfold powerOnReset
  dsimp only
  split
  · exact (showLink_frame (φ := State.pkg) (fun _ _ => rfl) _ _).trans h
  · exact h

/-- An edge of the power and reset pins leaves PKG_STATE as it was or resets it to BOOT. -/
theorem pinEdge_pkg {ok : Bool} {f : State → State} {s t : State} (h : perform ok f s = .next t)
    (hf : ∀ s, (f s).pkg = s.pkg ∨ (f s).pkg = .boot) (ht : t.pkg ≠ s.pkg) : t.pkg = .boot := by
  obtain ⟨-, rfl⟩ := perform_next h
  exact (hf { s with out := [] }).resolve_left ht

theorem ite_pkg_boot {s a b : State} {c : Prop} [Decidable c] (ha : a.pkg = s.pkg ∨ a.pkg = .boot)
    (hb : b.pkg = s.pkg ∨ b.pkg = .boot) : (if c then a else b).pkg = s.pkg ∨ (if c then a else b).pkg = .boot := by
  split
  · exact ha
  · exact hb

theorem pwrGoodRise_pkg {s t : State} (h : execPwrGoodRise s = .next t) : t.pkg ≠ s.pkg → t.pkg = .boot :=
  pinEdge_pkg h fun _ => ite_pkg_boot (.inl rfl) (ite_pkg_boot (.inr (powerOnReset_pkg _)) (.inl rfl))

theorem pkgRstRelease_pkg {m : Bool} {s t : State} (h : execPkgRstRelease m s = .next t) : t.pkg ≠ s.pkg → t.pkg = .boot :=
  pinEdge_pkg h fun _ => ite_pkg_boot (.inl rfl) (ite_pkg_boot (.inr (powerOnReset_pkg _)) (.inl rfl))

theorem pkgRstAssert_pkg {s t : State} (h : execPkgRstAssert s = .next t) : t.pkg ≠ s.pkg → t.pkg = .boot :=
  pinEdge_pkg h fun _ => ite_pkg_boot (.inl rfl) (.inr (loseState_pkg _))

theorem pwrGoodFall_pkg {s t : State} (h : execPwrGoodFall s = .next t) : t.pkg ≠ s.pkg → t.pkg = .boot :=
  pinEdge_pkg h fun _ => ite_pkg_boot (.inl rfl)
    (.inr ((drive_pkg _ _ _ _).trans ((drive_pkg _ _ _ _).trans (drive_pkg _ _ _ _))))

/-! The self-test command in its parts (15 R524): the journal scanned in phase 1, what the phase finds, the fences counted, and
what the end of the phase gives way to. -/

/-- The state that a phase tests: phase 1 scans the journal first. -/
def selfTestScanned (n : Nat) (fatal : Bool) (s : State) : State := if n = 1 && !fatal then scanJournal s else s

/-- The fences that a phase added to those of `u`, counted. -/
def selfTestCounted (u s : State) : State :=
  s |> bump Reg.SELFTEST_STATUS_TREADS_FENCED (s.fence.treads.length - u.fence.treads.length)
    |> bump Reg.SELFTEST_STATUS_FLIGHTS_FENCED (s.fence.flights.length - u.fence.flights.length)

/-- What phase `n` leaves, its fences counted. -/
def selfTestFound (n : Nat) (treads flights : List Nat) (wrong : List (Nat × Nat × Nat × Nat)) (readings : List (Nat × Int))
    (fatal : Bool) (s : State) : State :=
  selfTestCounted (selfTestScanned n fatal s) (runPhase n treads flights wrong readings (selfTestScanned n fatal s))

/-- What the end of phase `n` gives way to. -/
def selfTestGoesOn (n : Nat) (fatal : Bool) (s : State) : State :=
  if fatal || decide (64 < s.fence.flights.length) then failSelfTest n s
  else if n = 6 then beginReady s
  else s.set Reg.SELFTEST_STATUS_PHASE (n + 1)

/-- The phase in progress. -/
def State.selfTestPhase (s : State) : Nat := max 1 (s.get Reg.SELFTEST_STATUS_PHASE)

/-- Whether the command's operands name units of the package. -/
def selfTestOk (failed : FailedUnits) (found : Measured) : Bool :=
  failed.treads.all treadOk && failed.flights.all gfOk && found.wrong.all selfElemOk && found.readings.all fun x => gfOk x.1

theorem execSelfTest_eq (now : W64) (failed : FailedUnits) (found : Measured) (fatal : Bool) (s : State) :
    execSelfTestPhaseComplete now failed found fatal s = perform (selfTestOk failed found) (fun s =>
      if s.pkg != .boot then s
      else selfTestGoesOn s.selfTestPhase fatal
        (selfTestFound s.selfTestPhase failed.treads failed.flights found.wrong found.readings fatal (at_ now s))) s := rfl

theorem selfTestScanned_keeps (n : Nat) (fatal : Bool) (s : State) :
    KeepsBut [.regs, .seq, .fence, .power, .treads, .ucs, .bundles, .rings, .journal, .det] s (selfTestScanned n fatal s) := by
  unfold selfTestScanned
  split
  · exact scanJournal_keeps s
  · exact .refl _ s

theorem selfTestCounted_keeps (u s : State) : KeepsBut [.regs] s (selfTestCounted u s) :=
  (keepsBut_regs s _).trans (keepsBut_regs _ _)

theorem selfTestFound_keeps (n : Nat) (treads flights : List Nat) (wrong : List (Nat × Nat × Nat × Nat))
    (readings : List (Nat × Int)) (fatal : Bool) (s : State) :
    KeepsBut [.regs, .seq, .out, .fence, .power, .rigs, .treads, .flights, .ucs, .ropes, .bundles, .rings, .svcs, .journal, .det] s
      (selfTestFound n treads flights wrong readings fatal s) :=
  ((selfTestScanned_keeps n fatal s).mono (by decide)).trans
    ((runPhase_keeps n treads flights wrong readings _).trans ((selfTestCounted_keeps _ _).mono (by decide)))

theorem failSelfTest_pkg (n : Nat) (s : State) : (failSelfTest n s).pkg = .fault :=
  (raise0_pkg _ _ _).trans (packageFault_pkg _)

theorem beginReady_pkg (s : State) : (beginReady s).pkg = .ready :=
  foldl_frame (φ := State.pkg) (fun s k => by
    split
    · exact ropeDown_frame (φ := State.pkg) (fun _ _ => rfl) (fun _ _ => rfl) k s
    · rfl) _ _

theorem selfTest_pkg {now : W64} {failed : FailedUnits} {found : Measured} {fatal : Bool} {s t : State}
    (h : execSelfTestPhaseComplete now failed found fatal s = .next t) :
    StaysOrFaults s t ∨ s.pkg = .boot ∧ t.pkg = .ready ∧ fatal = false := by
  rw [execSelfTest_eq] at h
  obtain ⟨-, rfl⟩ := perform_next h
  by_cases hb : s.pkg = .boot
  · rw [if_neg (by simp [hb])]
    have hpkg := selfTestFound_keeps (State.selfTestPhase { s with out := [] }) failed.treads failed.flights found.wrong
      found.readings fatal (at_ now { s with out := [] }) .pkg (by decide)
    unfold selfTestGoesOn
    split
    next => exact .inl (staysOrFaults_of_fault (failSelfTest_pkg _ _))
    next hgood =>
      split
      · rw [Bool.or_eq_true, not_or] at hgood
        exact .inr ⟨hb, beginReady_pkg _, by simpa using hgood.1⟩
      · exact .inl (.inl hpkg)
  · exact .inl (.inl (by simp [hb]))

/-! A Commit in its parts (03 R110, R111). -/

/-- The image in force, the channels that it uses open, and the routes chosen. -/
def commitLinks (p : Nat) (r : Rigging) (place : Tbl Nat) (s : State) : State :=
  (vcsOf r).foldl (fun s (k, v) => openVc p k v s)
    (s.setRig p { s.rig p with place := place, live := true, rerigs := [], rerigStart := 0, winding := false }) |> chooseRoutes p

/-- The part and the step service of the partition as a Commit sets them. -/
def commitService (p : Nat) (s : State) : State := s.setPart p Part.init |> setSvc p { s.svc p with epoch := 0 }

/-- The treads of the placed flights with the image's code. -/
def commitTreads (r : Rigging) (place : Tbl Nat) (s : State) : State :=
  (r.standing place).foldl (fun s (role, g) => setupFlight r role (g - tget 0x7FF place role) g s) s

/-- Everything that the load wrote, but for what the partition shows of it. -/
def commitWork (p : Nat) (r : Rigging) (place : Tbl Nat) (s : State) : State :=
  s |> commitLinks p r place |> commitService p |> commitStages r |> commitChannels p r |> commitLandings p r |> commitTreads r place

/-- What the partition shows once its load is committed. -/
def commitShows (p : Nat) (s : State) : State :=
  s |> showRoles p |> set (partFld p) partActive |> setLd p Ld.loaded |> set (Reg.COMMITTED_INFO_VALID p) 0

/-- READY gives way to SERVICE with an image loaded. -/
def entersService (s : State) : State := if s.pkg == .ready then { s with pkg := .service } else s

theorem commitLoad_eq (p : Nat) (r : Rigging) (place : Tbl Nat) (s : State) :
    commitLoad p r place s = raise Ev.rigLoaded (partStamp p) [] (entersService (commitShows p (commitWork p r place s))) := rfl

theorem commitTreads_keeps (r : Rigging) (place : Tbl Nat) (s : State) : KeepsBut [.treads] s (commitTreads r place s) :=
  foldl_keeps (fun s _ _ => keepsBut_of_veil (setupFlight_frame (fun _ _ => rfl) _ _ _ _ s)) s

theorem commitLinks_keeps (p : Nat) (r : Rigging) (place : Tbl Nat) (s : State) :
    KeepsBut [.regs, .seq, .out, .rigs, .ropes, .fabric, .rings, .svcs, .det] s (commitLinks p r place s) := by
  have hrig : KeepsBut [.rigs] s
      (s.setRig p { s.rig p with place := place, live := true, rerigs := [], rerigStart := 0, winding := false }) :=
    keepsBut_of_veil (setRig_frame (fun _ _ => rfl) _ _ s)
  have hopen : ∀ u : State, KeepsBut [.regs, .seq, .out, .rigs, .ropes, .rings, .svcs, .det] u
      ((vcsOf r).foldl (fun s (k, v) => openVc p k v s) u) := foldl_keeps fun u x _ => by
    apply keepsBut_of_veil
    apply openVc_frame <;> exact fun _ _ => rfl
  have hroutes : ∀ u : State, KeepsBut [.fabric] u (chooseRoutes p u) :=
    fun u => keepsBut_of_veil (chooseRoutes_frame (fun _ _ => rfl) p u)
  exact (hrig.mono (by decide)).trans (((hopen _).mono (by decide)).trans ((hroutes _).mono (by decide)))

theorem commitService_keeps (p : Nat) (s : State) : KeepsBut [.parts, .svcs] s (commitService p s) := by
  intro a ha
  cases a <;> simp [Area.same, commitService] at ha ⊢

/-- The rest of a Commit between its links and its treads. -/
theorem commitUnits_keeps (p : Nat) (r : Rigging) (s : State) :
    KeepsBut [.regs, .out, .power, .chans, .knots, .stages, .ctxs, .landings, .reds, .ropes] s
      (s |> commitStages r |> commitChannels p r |> commitLandings p r) := by
  apply keepsBut_of_veil
  refine (commitLandings_frame ?_ ?_ ?_ p r _).trans ((commitChannels_frame ?_ ?_ p r _).trans
    (commitStages_frame ?_ ?_ ?_ ?_ ?_ r s)) <;> exact fun _ _ => rfl

theorem commitWork_keeps (p : Nat) (r : Rigging) (place : Tbl Nat) (s : State) :
    KeepsBut [.regs, .seq, .out, .power, .rigs, .treads, .chans, .knots, .stages, .ctxs, .landings, .parts, .reds, .ropes, .fabric,
      .rings, .svcs, .det] s (commitWork p r place s) :=
  ((commitLinks_keeps p r place s).mono (by decide)).trans (((commitService_keeps p _).mono (by decide)).trans
    (((commitUnits_keeps p r _).mono (by decide)).trans ((commitTreads_keeps r place _).mono (by decide))))

theorem showRoles_keeps (p : Nat) (s : State) : KeepsBut [.regs] s (showRoles p s) :=
  (keepsBut_regs s _).trans (keepsBut_regs _ _)

theorem commitShows_keeps (p : Nat) (s : State) : KeepsBut [.regs] s (commitShows p s) :=
  (showRoles_keeps p s).trans ((keepsBut_regs _ _).trans ((keepsBut_regs _ _).trans (keepsBut_regs _ _)))

theorem entersService_keeps (s : State) : KeepsBut [.pkg] s (entersService s) := by
  unfold entersService
  split
  · intro a ha
    cases a <;> simp [Area.same] at ha ⊢
  · exact .refl _ s

theorem commitLoad_pkg (p : Nat) (r : Rigging) (place : Tbl Nat) (s : State) :
    (commitLoad p r place s).pkg = if s.pkg = .ready then .service else s.pkg := by
  have hpkg : (commitShows p (commitWork p r place s)).pkg = s.pkg :=
    (commitShows_keeps p _ .pkg (by decide)).trans (commitWork_keeps p r place s .pkg (by decide))
  rw [commitLoad_eq, raise_pkg, entersService, hpkg]
  by_cases h : s.pkg = .ready <;> simp [h, hpkg]

theorem commitLoad_get (p : Nat) (r : Rigging) (place : Tbl Nat) (s : State) {f : Fld} (hf : f.key % 4096 ≠ 1280) :
    (commitLoad p r place s).get f = (commitShows p (commitWork p r place s)).get f := by
  rw [commitLoad_eq, raise_writes _ _ _ _ f (not_isDropCount hf)]
  exact (entersService_keeps _).writes (by decide) (fun _ => False) f (by simp)

theorem commitLoad_partState {p : Nat} (hp : p < 8) (r : Rigging) (place : Tbl Nat) (s : State) :
    (commitLoad p r place s).partState p = 2 := by
  rw [State.partState, commitLoad_get _ _ _ _ (by simp [Fld.key, partFld]; omega), commitShows,
    get_set_other _ _ (by simp [Fld.key, partFld, Reg.COMMITTED_INFO_VALID]; omega), setLd,
    get_set_other _ _ (by simp [Fld.key, partFld, Reg.RIG_STATUS_STATE]; omega), get_set_self]
  rfl

theorem commitLoad_ldState {p : Nat} (hp : p < 8) (r : Rigging) (place : Tbl Nat) (s : State) :
    (commitLoad p r place s).ldState p = 6 := by
  rw [State.ldState, commitLoad_get _ _ _ _ (by simp [Fld.key, Reg.RIG_STATUS_STATE]; omega), commitShows,
    get_set_other _ _ (by simp [Fld.key, Reg.RIG_STATUS_STATE, Reg.COMMITTED_INFO_VALID]; omega), setLd, get_set_self]
  rfl

theorem commitLoad_infoValid {p : Nat} (r : Rigging) (place : Tbl Nat) (s : State) :
    (commitLoad p r place s).get (Reg.COMMITTED_INFO_VALID p) = 0 := by
  rw [commitLoad_get _ _ _ _ (by simp [Fld.key, Reg.COMMITTED_INFO_VALID]; omega), commitShows, get_set_self]
  rfl

/-! RIG_APPLY_COMPLETE in its parts (03 R110, R112). -/

/-- The flights of the old placement that the new one does without are OFF again, and those of the new one are asked up. -/
def applyPlacement (p : Nat) (r : Rigging) (place : Tbl Nat) (s : State) : State :=
  let kept := (r.standing place).map Prod.snd
  let s := (r.standing (s.rig p).place).foldl (fun s (_, g) => if g ∈ kept then s else flightOff g s) s
  (r.standing place).foldl (fun s (role, g) => stageUp r role g s) (s.setRig p { s.rig p with place := place })

/-- What the end of Apply makes of a placement. -/
def applyEnds (p : Nat) (r : Rigging) (s : State) : State :=
  match s.placement p r with
  | .inr _ => s |> unstage p |> refuseLoad p (plainFail 0x24)
  | .inl place =>
    if (applyPlacement p r place s).waking ((r.standing place).map Prod.snd) then applyPlacement p r place s
    else commitLoad p r place (applyPlacement p r place s)

/-- The end of Apply for the image that the partition loads, if it holds one. -/
def applyImage (p : Nat) (s : State) : State :=
  match (s.rig p).image with
  | none => s
  | some r => applyEnds p r s

theorem execRigApplyComplete_eq (p : Nat) (s : State) : execRigApplyComplete p s =
    perform (partOk p) (fun s => if s.ldState p ≠ Ld.apply then s else applyImage p s) s := rfl

theorem applyPlacement_keeps (p : Nat) (r : Rigging) (place : Tbl Nat) (s : State) :
    KeepsBut [.regs, .power, .rigs, .treads, .flights] s (applyPlacement p r place s) := by
  have hoff : ∀ (l : List (Nat × Nat)) (kept : List Nat) (u : State), KeepsBut [.regs, .power, .treads, .flights] u
      (l.foldl (fun s (_, g) => if g ∈ kept then s else flightOff g s) u) := fun l kept => foldl_keeps fun u x _ => by
    dsimp only
    split
    · exact .refl _ u
    · apply keepsBut_of_veil
      apply flightOff_frame <;> exact fun _ _ => rfl
  have hrig : ∀ (v : Rig) (u : State), KeepsBut [.rigs] u (u.setRig p v) :=
    fun v u => keepsBut_of_veil (setRig_frame (fun _ _ => rfl) p v u)
  have hup : ∀ u : State, KeepsBut [.power] u ((r.standing place).foldl (fun s (role, g) => stageUp r role g s) u) :=
    foldl_keeps fun u _ _ => keepsBut_of_veil (stageUp_frame (fun _ _ => rfl) _ _ _ u)
  exact ((hoff _ _ _).mono (by decide)).trans (((hrig _ _).mono (by decide)).trans ((hup _).mono (by decide)))

theorem refuseLoad_keeps (p : Nat) (f : RigFail) (s : State) :
    KeepsBut [.regs, .rigs, .mem, .memCheck, .memEpoch, .memKey] s (refuseLoad p f s) := by
  apply keepsBut_of_veil
  apply refuseLoad_frame <;> exact fun _ _ => rfl

theorem unstage_keeps (p : Nat) (s : State) : KeepsBut [.regs, .power, .treads, .flights] s (unstage p s) := by
  apply keepsBut_of_veil
  apply unstage_frame <;> exact fun _ _ => rfl

theorem applyEnds_pkg {p : Nat} (hp : p < 8) (r : Rigging) (s : State) :
    (applyEnds p r s).pkg = s.pkg ∨ s.pkg = .ready ∧ (applyEnds p r s).pkg = .service ∧ (applyEnds p r s).partState p = 2 := by
  unfold applyEnds
  split
  next => exact .inl ((refuseLoad_keeps p _ _ .pkg (by decide)).trans (unstage_keeps p s .pkg (by decide)))
  next place _ =>
    have hpkg : (applyPlacement p r place s).pkg = s.pkg := applyPlacement_keeps p r place s .pkg (by decide)
    split
    · exact .inl hpkg
    · rw [commitLoad_pkg, hpkg, commitLoad_partState hp]
      by_cases h : s.pkg = .ready
      · exact .inr ⟨h, if_pos h, rfl⟩
      · exact .inl (if_neg h)

theorem applyImage_pkg {p : Nat} (hp : p < 8) (s : State) :
    (applyImage p s).pkg = s.pkg ∨ s.pkg = .ready ∧ (applyImage p s).pkg = .service ∧ (applyImage p s).partState p = 2 := by
  unfold applyImage
  split
  next => exact .inl rfl
  next r _ => exact applyEnds_pkg hp r s

theorem rigApplyComplete_pkg {p : Nat} {s t : State} (h : execRigApplyComplete p s = .next t) (ht : t.pkg ≠ s.pkg) :
    s.pkg = .ready ∧ t.pkg = .service ∧ t.partState p = 2 := by
  rw [execRigApplyComplete_eq] at h
  obtain ⟨hp, rfl⟩ := perform_next h
  by_cases hld : State.ldState { s with out := [] } p ≠ Ld.apply
  · exact absurd (by simp only [if_pos hld]) ht
  · simp only [if_neg hld] at ht ⊢
    exact (applyImage_pkg (of_decide_eq_true hp) { s with out := [] }).resolve_left ht

/-! A release in its parts (03 R115, R121). -/

/-- What a partition's image held, given up. -/
def releaseFrees (p : Nat) (s : State) : State :=
  s |> endInjectionOf p |> settleRows p |> freeImage p |> slotClear p |> showCapacity

/-- What the partition shows once its image is released. -/
def releaseShows (p : Nat) (s : State) : State :=
  let s := (upFrom 0 16).foldl (fun s w => s.set (Reg.RIG_MEASURE p w) 0) s
  let s := s.setRig p Rig.init |> setPart p Part.init |> setSvc p Svc.init |> setSvcState p .idle
    |> set (Reg.STEP_STATUS_JOINED p) 0 |> set (Reg.CKPT_STATUS_STATE p) 0 |> set (Reg.SNAP_STATUS_STATE p) 0
    |> set (Reg.RIG_STATUS_ALT_FREE p) 0 |> set (Reg.RIG_STATUS_ROLES_MOVED p) 0
    |> set (partFld p) partAssigned |> setLd p Ld.idle
  s.set Reg.RERIG_LAST_BUSY (b2n (allParts.any fun q => (s.rig q).rerigStart != 0))

/-- SERVICE gives way to READY without an image loaded. -/
def leavesService (s : State) : State := if s.pkg == .service && s.loaded.isEmpty then { s with pkg := .ready } else s

/-- A release told, before a scrub that was asked for. -/
def releaseTold (p : Nat) (s : State) : State :=
  raise Ev.rigReleased (partStamp p) [] (leavesService (releaseShows p (releaseFrees p s)))

theorem releasePart_eq (p : Nat) (s : State) : releasePart p s =
    if (s.rig p).scrubAfter then queueScrub p ((s.imageOf p).tells p) (releaseTold p s) else releaseTold p s := rfl

theorem releaseFrees_keeps (p : Nat) (s : State) :
    KeepsBut [.regs, .seq, .fence, .power, .treads, .chans, .knots, .flights, .stages, .ctxs, .landings, .reds, .mem, .memCheck,
      .memEpoch, .memKey, .ucs, .sparse, .gathers, .ropes, .fabric, .rings, .det] s (releaseFrees p s) := by
  apply keepsBut_of_veil
  refine (showCapacity_frame ?_ _).trans ((slotClear_frame ?_ ?_ ?_ ?_ p _).trans
    ((freeImage_frame ?_ ?_ ?_ ?_ ?_ ?_ ?_ ?_ ?_ ?_ ?_ ?_ ?_ ?_ ?_ p _).trans ((settleRows_frame ?_ p _).trans
      (endInjectionOf_frame ?_ ?_ ?_ ?_ p s)))) <;> exact fun _ _ => rfl

theorem releaseShows_keeps (p : Nat) (s : State) : KeepsBut [.regs, .rigs, .parts, .svcs] s (releaseShows p s) := by
  have measure : KeepsBut [.regs] s ((upFrom 0 16).foldl (fun s w => s.set (Reg.RIG_MEASURE p w) 0) s) :=
    foldl_keeps (fun u _ _ => keepsBut_regs u _) s
  refine (measure.mono (by decide)).trans fun a ha => ?_
  cases a <;> simp [Area.same, releaseShows, setSvcState, setLd] at ha ⊢

theorem leavesService_keeps (s : State) : KeepsBut [.pkg] s (leavesService s) := by
  unfold leavesService
  split
  · intro a ha
    cases a <;> simp [Area.same] at ha ⊢
  · exact .refl _ s

theorem loaded_congr {s t : State} (h : t.rigs = s.rigs) : t.loaded = s.loaded := by
  unfold State.loaded State.image? State.rig
  rw [h]

theorem leavesService_pkg (s : State) :
    (leavesService s).pkg = s.pkg ∨ s.pkg = .service ∧ (leavesService s).pkg = .ready ∧ (leavesService s).loaded = [] := by
  unfold leavesService
  split
  next h =>
    rw [Bool.and_eq_true, List.isEmpty_iff] at h
    exact .inr ⟨eq_of_beq h.1, rfl, h.2⟩
  next => exact .inl rfl

theorem queueScrub_keeps (p : Nat) (tell : List (Nat × Nat × Nat × Nat)) (s : State) :
    KeepsBut [.regs, .seq, .rings, .sec, .det] s (queueScrub p tell s) := by
  apply keepsBut_of_veil
  apply queueScrub_frame <;> exact fun _ _ => rfl

/-- What follows the end of service in a release changes neither PKG_STATE nor the images. -/
theorem releasePart_after (p : Nat) (s : State) : KeepsBut [.regs, .seq, .rings, .sec, .det]
    (leavesService (releaseShows p (releaseFrees p s))) (releasePart p s) := by
  have told : KeepsBut [.regs, .seq, .rings, .sec, .det] (leavesService (releaseShows p (releaseFrees p s))) (releaseTold p s) :=
    (raise_keeps _ _ _ _).mono (by decide)
  rw [releasePart_eq]
  split
  · exact told.trans (queueScrub_keeps p _ _)
  · exact told

theorem releasePart_pkg (p : Nat) (s : State) :
    (releasePart p s).pkg = s.pkg ∨ s.pkg = .service ∧ (releasePart p s).pkg = .ready ∧ (releasePart p s).loaded = [] := by
  have hpkg : (releaseShows p (releaseFrees p s)).pkg = s.pkg :=
    (releaseShows_keeps p _ .pkg (by decide)).trans (releaseFrees_keeps p s .pkg (by decide))
  have hafter := releasePart_after p s
  rw [hafter .pkg (by decide), loaded_congr (hafter .rigs (by decide)), ← hpkg]
  exact leavesService_pkg _

theorem rigReleased_pkg {p : Nat} {s t : State} (h : execRigReleased p s = .next t) (ht : t.pkg ≠ s.pkg) :
    s.pkg = .service ∧ t.pkg = .ready ∧ t.loaded = [] := by
  obtain ⟨-, rfl⟩ := perform_next h
  by_cases hw : (State.ldState { s with out := [] } p = Ld.releasing && State.woundDown { s with out := [] } p) = true
  · simp only [if_pos hw] at ht ⊢
    exact (releasePart_pkg p { s with out := [] }).resolve_left ht
  · exact absurd (by simp only [if_neg hw]) ht

/-- Settles O59: the commands that are listed with PKG_STATE make one transition each, and no other command changes it. -/
theorem packageStates : Obligations.PackageStates := by
  intro c s t h ht
  have fault {s t : State} (h : StaysOrFaults s t) (ht : t.pkg ≠ s.pkg) : t.pkg = .fault ∧ s.pkg ≠ .fault := h.resolve_left ht
  by_cases hc : .pkg ∈ touches c
  · cases c
    case converterFailed => exact .inl (fault (converterFailed_staysOrFaults h) ht)
    case inputOutOfRange => exact .inl (fault (inputOutOfRange_staysOrFaults h) ht)
    case thermalSample =>
      dsimp only [exec] at h
      exact .inl (fault (thermalSample_staysOrFaults h) ht)
    case refclkFabLoss => exact .inl (fault (refclkFabLoss_staysOrFaults h) ht)
    case selfTestPhaseComplete now failed found fatal =>
      rcases selfTest_pkg h with hs | ⟨hboot, hready, rfl⟩
      · exact .inl (fault hs ht)
      · exact .inr (.inl ⟨hboot, hready, now, failed.treads, failed.flights, found.wrong, found.readings, rfl⟩)
    case rigApplyComplete p =>
      obtain ⟨hready, hservice, hpart⟩ := rigApplyComplete_pkg h ht
      exact .inr (.inr (.inl ⟨hready, hservice, p, rfl, hpart⟩))
    case rigReleased p =>
      obtain ⟨hservice, hready, hloaded⟩ := rigReleased_pkg h ht
      exact .inr (.inr (.inr (.inl ⟨hservice, hready, hloaded, p, rfl⟩)))
    case pwrGoodRise => exact .inr (.inr (.inr (.inr ⟨pwrGoodRise_pkg h ht, .inl rfl⟩)))
    case pwrGoodFall => exact .inr (.inr (.inr (.inr ⟨pwrGoodFall_pkg h ht, .inr (.inl rfl)⟩)))
    case pkgRstAssert => exact .inr (.inr (.inr (.inr ⟨pkgRstAssert_pkg h ht, .inr (.inr (.inl rfl))⟩)))
    case pkgRstRelease m => exact .inr (.inr (.inr (.inr ⟨pkgRstRelease_pkg h ht, .inr (.inr (.inr ⟨m, rfl⟩))⟩)))
    all_goals simp [touches] at hc
  · exact absurd (exec_keeps_pkg hc h) ht

/-! ## Power sequencing, sensors and the test port -/

theorem mem_upFrom {lo n x : Nat} : x ∈ upFrom lo n ↔ lo ≤ x ∧ x < lo + n := by
  rw [upFrom_eq_range', List.mem_range'_1]

/-- A command whose effect leaves the state with empty ports as it is only empties the ports. -/
theorem gives_still {c : Instr} {s : State} {f : State → State} (hc : exec c s = perform true f s)
    (hf : f { s with out := [] } = { s with out := [] }) : Gives c s (KeepsBut [.out] s) :=
  gives_nothing (hc.trans (perform_eq_of_effect rfl hf))

/-- A command whose effect changes pins and the converters alone. -/
theorem gives_onlyPins {c : Instr} {s : State} {f : State → State} {pins : Pins} {on : Bool} (hc : exec c s = perform true f s)
    (hf : f { s with out := [] } = { s with out := [], pins := pins, power := { s.power with convertersOn := on } }) :
    Gives c s fun u => KeepsBut [.pins, .power, .out] s u ∧ u.pins = pins ∧ u.power = { s.power with convertersOn := on } := by
  refine gives_of_perform hc (by rw [hf]) ?_
  rw [hf]
  exact ⟨fun a ha => by cases a <;> simp [Area.same] at ha ⊢, rfl, rfl⟩

/-! What a reset leaves. -/

theorem drive_keeps (p : OutPin) (old new : Bool) (s : State) : KeepsBut [.out] s (drive p old new s) :=
  keepsBut_of_veil (drive_frame (fun _ _ => rfl) p old new s)

theorem mem_out_drive {o : Out} {s : State} (h : o ∈ s.out) (p : OutPin) (old new : Bool) : o ∈ (drive p old new s).out := by
  unfold drive
  split
  · exact h
  · exact List.mem_append_left _ h

theorem mem_out_drive_self {p : OutPin} {old new : Bool} (h : old ≠ new) (s : State) : .pin p new ∈ (drive p old new s).out := by
  simp [drive, h]

/-- Everything but what 16 R542 keeps is at its reset value once the state is wiped, whatever the pins read then. -/
theorem stateLost_wipe (s : State) {pins : Pins} (hpins : pins.faultN = true) : StateLost s { wipe s with pins := pins } :=
  ⟨fun a ha => by cases a <;> simp [Area.same, wipe] at ha ⊢, rfl, rfl, rfl, hpins⟩

theorem StateLost.of_out {s t u : State} (h : StateLost s t) (hk : KeepsBut [.pending, .out] t u) : StateLost s u := by
  obtain ⟨hlost, hjournal, hfree, hsec, hfault⟩ := h
  refine ⟨hlost.trans (hk.mono (by decide)), (hk .journal (by decide)).trans hjournal, (hk .free (by decide)).trans hfree,
    (hk .sec (by decide)).trans hsec, ?_⟩
  rwa [show u.pins = t.pins from hk .pins (by decide)]

theorem loseState_lost (s : State) : StateLost s (loseState s) :=
  (stateLost_wipe s (pins := { s.pins with faultN := true }) rfl).of_out ((drive_keeps _ _ _ _).mono (by decide))

theorem loseState_pins (s : State) : (loseState s).pins = { s.pins with faultN := true } :=
  drive_keeps _ _ _ _ .pins (by decide)

theorem loseState_power (s : State) : (loseState s).power = { Power.init with convertersOn := s.power.convertersOn } :=
  drive_keeps _ _ _ _ .power (by decide)

theorem mem_out_loseState {o : Out} {s : State} (h : o ∈ s.out) : o ∈ (loseState s).out :=
  mem_out_drive (s := wipe s) h _ _ _

/-- One word of a challenge drawn. -/
def drawWord (s : State) (w : Nat) : State := s.takeFree.2.set (Reg.DBG_CHALLENGE w) (s.takeFree.1.toNat % 2 ^ 32)

theorem drawChallenge_eq (s : State) : drawChallenge s = (upFrom 0 8).foldl drawWord s := rfl

theorem drawWord_writes (s : State) (w : Nat) : Writes (· = (Reg.DBG_CHALLENGE w).key) s (drawWord s w) := by
  have hfree : Writes (· = (Reg.DBG_CHALLENGE w).key) s s.takeFree.2 := fun _ _ => rfl
  exact hfree.trans (writes_set (R := (· = (Reg.DBG_CHALLENGE w).key)) rfl _ s.takeFree.2)

theorem drawWord_self (s : State) (w : Nat) :
    (drawWord s w).get (Reg.DBG_CHALLENGE w) = (Config.freeValue s.free).toNat % 2 ^ 32 :=
  (get_set_self _ _ _).trans (Nat.mod_mod _ _)

theorem drawWords_writes (l : List Nat) (s : State) :
    Writes (· ∈ l.map fun w => (Reg.DBG_CHALLENGE w).key) s (l.foldl drawWord s) :=
  foldl_writes (fun u w hw => (drawWord_writes u w).mono fun _ hk => hk ▸ List.mem_map_of_mem (f := fun w => (Reg.DBG_CHALLENGE w).key) hw) s

theorem drawChallenge_writes (s : State) :
    Writes (· ∈ (upFrom 0 8).map fun w => (Reg.DBG_CHALLENGE w).key) s (drawChallenge s) := by
  rw [drawChallenge_eq]
  exact drawWords_writes _ s

theorem drawChallenge_keeps (s : State) : KeepsBut [.regs, .free] s (drawChallenge s) := by
  apply keepsBut_of_veil
  apply drawChallenge_frame <;> exact fun _ _ => rfl

/-- Of words drawn in order from `lo` on, each takes the next free value. -/
theorem drawWords_get (lo n : Nat) (s : State) {w : Nat} (hw : w < n) :
    ((upFrom lo n).foldl drawWord s).get (Reg.DBG_CHALLENGE (lo + w)) = (Config.freeValue (s.free + w)).toNat % 2 ^ 32 := by
  induction n generalizing lo s w with
  | zero => omega
  | succ n ih =>
    rw [upFrom, List.foldl_cons]
    cases w with
    | zero =>
      rw [drawWords_writes _ _ _ fun hk => ?_]
      · exact drawWord_self s lo
      · obtain ⟨v, hv, hk⟩ := List.mem_map.1 hk
        rw [mem_upFrom] at hv
        simp only [Fld.key, Reg.DBG_CHALLENGE] at hk
        omega
    | succ w =>
      have hi := ih (lo + 1) (drawWord s lo) (w := w) (by omega)
      rw [Nat.add_assoc, Nat.add_comm 1 w] at hi
      rw [hi, show (drawWord s lo).free = s.free + 1 from rfl, Nat.add_assoc, Nat.add_comm 1 w]

/-- A field at its reset value stays there when any field whose reset value is 0 is set to 0. -/
theorem get_set_zero {f g : Fld} {s : State} (hf : f.reset = 0) (h : s.get g = g.reset) : (s.set f 0).get g = g.reset := by
  by_cases hk : g.key = f.key
  · simp [State.get, hk, hf]
  · exact (get_set_other 0 s hk).trans h

theorem showLink_keeps (st : Nat) (s : State) : KeepsBut [.regs] s (showLink st s) :=
  keepsBut_of_veil (showLink_frame (fun _ _ => rfl) st s)

theorem showLink_writes (st : Nat) (s : State) : Writes (fun k => k / 64 = 0x200000) s (showLink st s) := by
  have link : Writes (fun k => k / 64 = 0x200000) s (s.set Reg.HP_STATUS_LINK st) := writes_set (by rfl) _ _
  unfold showLink
  dsimp only
  split
  · exact link
  · exact link.trans ((writes_set (by rfl) _ _).trans ((writes_set (by rfl) _ _).trans (writes_set (by rfl) _ _)))

theorem showLink_link {st : Nat} (hst : st < 16) (s : State) : (showLink st s).get Reg.HP_STATUS_LINK = st := by
  have h : (s.set Reg.HP_STATUS_LINK st).get Reg.HP_STATUS_LINK = st := (get_set_self _ _ _).trans (Nat.mod_eq_of_lt hst)
  unfold showLink
  dsimp only
  split
  · exact h
  · rwa [get_set_other _ _ (by decide), get_set_other _ _ (by decide), get_set_other _ _ (by decide)]

/-- A field at its reset value stays there when the link begins to train, but for the link's own. -/
theorem showLink_reset {s : State} {f : Fld} (h : s.get f = f.reset) (hf : f.key ≠ Reg.HP_STATUS_LINK.key) :
    (showLink 1 s).get f = f.reset :=
  get_set_zero rfl (get_set_zero rfl (get_set_zero rfl ((get_set_other _ _ hf).trans h)))

theorem loseState_get (s : State) (f : Fld) : (loseState s).get f = f.reset := by
  have hregs : (loseState s).regs = [] := (loseState_lost s).1 .regs (by decide)
  simp [State.get, hregs, tget]

/-- BOOT with a challenge drawn, before the host link trains. -/
def challenged (s : State) : State := drawChallenge (loseState s)

theorem powerOnReset_eq (s : State) :
    powerOnReset s = if (challenged s).pins.perstN then showLink 1 (challenged s) else challenged s := rfl

theorem challenged_pins (s : State) : (challenged s).pins = { s.pins with faultN := true } :=
  (drawChallenge_keeps _ .pins (by decide)).trans (loseState_pins s)

theorem challenged_out {o : Out} {s : State} (h : o ∈ s.out) : o ∈ (challenged s).out := by
  rw [show (challenged s).out = (loseState s).out from drawChallenge_keeps _ .out (by decide)]
  exact mem_out_loseState h

theorem challenged_get (s : State) {f : Fld} (hf : f.key ∉ (upFrom 0 8).map fun w => (Reg.DBG_CHALLENGE w).key) :
    (challenged s).get f = f.reset :=
  (drawChallenge_writes _ f hf).trans (loseState_get s f)

theorem challenged_word (s : State) {w : Nat} (hw : w < 8) :
    (challenged s).get (Reg.DBG_CHALLENGE w) = (Config.freeValue (s.free + w)).toNat % 2 ^ 32 := by
  have h := drawWords_get 0 8 (loseState s) hw
  rw [Nat.zero_add, (loseState_lost s).2.2.1] at h
  exact h

theorem powerOnReset_keeps (s : State) : KeepsBut [.regs] (challenged s) (powerOnReset s) := by
  rw [powerOnReset_eq]
  split
  · exact showLink_keeps 1 _
  · exact .refl _ _

theorem powerOnReset_pins (s : State) : (powerOnReset s).pins = { s.pins with faultN := true } :=
  (powerOnReset_keeps s .pins (by decide)).trans (challenged_pins s)

theorem mem_out_powerOnReset {o : Out} {s : State} (h : o ∈ s.out) : o ∈ (powerOnReset s).out := by
  rw [show (powerOnReset s).out = (challenged s).out from powerOnReset_keeps s .out (by decide)]
  exact challenged_out h

theorem powerOnReset_link (s : State) : (powerOnReset s).get Reg.HP_STATUS_LINK = b2n s.pins.perstN := by
  have hperst : (challenged s).pins.perstN = s.pins.perstN := by rw [challenged_pins]
  rw [powerOnReset_eq, hperst]
  cases s.pins.perstN with
  | true => exact showLink_link (st := 1) (by decide) _
  | false => exact challenged_get s (by decide)

/-- A field beside the challenge and the link is at its reset value after a power-on reset. -/
theorem powerOnReset_get (s : State) {f : Fld} (hlink : f.key ≠ Reg.HP_STATUS_LINK.key)
    (hf : f.key ∉ (upFrom 0 8).map fun w => (Reg.DBG_CHALLENGE w).key) : (powerOnReset s).get f = f.reset := by
  rw [powerOnReset_eq]
  split
  · exact showLink_reset (challenged_get s hf) hlink
  · exact challenged_get s hf

theorem powerOnReset_word (s : State) {w : Nat} (hw : w < 8) :
    (powerOnReset s).get (Reg.DBG_CHALLENGE w) = (Config.freeValue (s.free + w)).toNat % 2 ^ 32 := by
  rw [powerOnReset_eq]
  split
  · refine (showLink_writes 1 _ _ ?_).trans (challenged_word s hw)
    simp only [Fld.key, Reg.DBG_CHALLENGE]
    omega
  · exact challenged_word s hw

/-- The model's power-on reset is one in the sense of 16 R542 to R544. -/
theorem powerOnReset_powerOn (s : State) : PowerOn s (powerOnReset s) := by
  obtain ⟨hlost, hjournal, -, hsec, -⟩ := loseState_lost s
  have hk : KeepsBut [.regs, .free] (loseState s) (powerOnReset s) :=
    (drawChallenge_keeps _).trans ((powerOnReset_keeps s).mono (by decide))
  refine ⟨(hlost.mono (by decide)).trans (hk.mono (by decide)), (hk .journal (by decide)).trans hjournal, powerOnReset_pkg s,
    (hk .sec (by decide)).trans hsec, by rw [powerOnReset_pins], fun w hw => powerOnReset_word s hw, powerOnReset_link s,
    fun f hf => ?_⟩
  rw [List.mem_cons, not_or] at hf
  exact powerOnReset_get s hf.1 hf.2

/-! A fall of PWR_EN (16 R546). -/

theorem flightOff_keeps (gf : Nat) (s : State) : KeepsBut [.regs, .power, .treads, .flights] s (flightOff gf s) := by
  apply keepsBut_of_veil
  apply flightOff_frame <;> exact fun _ _ => rfl

/-- The fields that a flight taken to OFF writes: those of its DOMAIN_STATE and of its FLT_STATUS. -/
def isFlightField (gf k : Nat) : Prop := k / 64 = 0x301000 + gf * 4 ∨ k / 64 = 0x1010004 + gf / 148 * 0x200000 + gf % 148 * 0x100

theorem holdAdmission_keeps (s : State) : KeepsBut [.regs, .power] s (holdAdmission s) := by
  apply keepsBut_of_veil
  apply holdAdmission_frame <;> exact fun _ _ => rfl

/-- A flight taken to OFF before its treads lose what they hold. -/
def flightDark (gf : Nat) (s : State) : State :=
  let s := s |> set (Reg.DOMAIN_STATE_STATE gf) 3 |> set (Reg.DOMAIN_STATE_VCODE gf) 0 |> dropAdmission gf
    |> setFlight gf Flight.init
    |> set (Reg.FLT_STATUS_STOPPED gf) 0 |> set (Reg.FLT_STATUS_LINE_HELD gf) 0
  s.setPower { s.power with caps := tset 0 s.power.caps gf 0, waking := tset 0 s.power.waking gf 0 }

theorem flightOff_dark (gf : Nat) (s : State) : KeepsBut [.treads] (flightDark gf s) (flightOff gf s) := by
  have hset : ∀ (u : State) (x : Tbl Tread), KeepsBut [.treads] u (u.setTreads x) := fun u x =>
    keepsBut_of_veil (setTreads_frame (fun _ _ => rfl) x u)
  exact (hset _ _).trans (foldl_keeps (fun u t _ => keepsBut_of_veil (setTread_frame (fun _ _ => rfl) t _ u)) _)

theorem flightOff_get (gf : Nat) (s : State) (f : Fld) : (flightOff gf s).get f = (flightDark gf s).get f :=
  (flightOff_dark gf s).writes (by decide) (fun _ => False) f (by simp)

theorem flightOff_writes (gf : Nat) (s : State) : Writes (isFlightField gf) s (flightOff gf s) := by
  intro f hf
  have hstate : f.key ≠ (Reg.DOMAIN_STATE_STATE gf).key := fun e => hf (.inl (by rw [e]; simp only [Fld.key, Reg.DOMAIN_STATE_STATE]; omega))
  have hcode : f.key ≠ (Reg.DOMAIN_STATE_VCODE gf).key := fun e => hf (.inl (by rw [e]; simp only [Fld.key, Reg.DOMAIN_STATE_VCODE]; omega))
  have hstop : f.key ≠ (Reg.FLT_STATUS_STOPPED gf).key := fun e => hf (.inr (by rw [e]; simp only [Fld.key, Reg.FLT_STATUS_STOPPED]; omega))
  have hheld : f.key ≠ (Reg.FLT_STATUS_LINE_HELD gf).key := fun e => hf (.inr (by rw [e]; simp only [Fld.key, Reg.FLT_STATUS_LINE_HELD]; omega))
  rw [flightOff_get, flightDark, setPower_get, get_set_other _ _ hheld, get_set_other _ _ hstop, setFlight_get]
  exact (get_set_other _ _ hcode).trans (get_set_other _ _ hstate)

theorem flightOff_state (gf : Nat) (s : State) : (flightOff gf s).get (Reg.DOMAIN_STATE_STATE gf) = 3 := by
  rw [flightOff_get, flightDark, setPower_get, get_set_other _ _ (by simp only [Fld.key, Reg.DOMAIN_STATE_STATE, Reg.FLT_STATUS_LINE_HELD]; omega),
    get_set_other _ _ (by simp only [Fld.key, Reg.DOMAIN_STATE_STATE, Reg.FLT_STATUS_STOPPED]; omega), setFlight_get]
  exact (get_set_other _ _ (by simp only [Fld.key, Reg.DOMAIN_STATE_STATE, Reg.DOMAIN_STATE_VCODE]; omega)).trans (get_set_self _ _ _)

theorem flightOff_flight (gf : Nat) (s : State) : (flightOff gf s).flight gf = Flight.init := by
  have h : (flightOff gf s).flights = (flightDark gf s).flights := flightOff_dark gf s .flights (by decide)
  rw [State.flight, h]
  exact tget_tset_self (d := Flight.init) s.flights gf Flight.init

theorem flightOff_flight_other {gf g : Nat} (h : g ≠ gf) (s : State) : (flightOff gf s).flight g = s.flight g := by
  have hf : (flightOff gf s).flights = (flightDark gf s).flights := flightOff_dark gf s .flights (by decide)
  rw [State.flight, hf]
  exact tget_tset_other (d := Flight.init) s.flights Flight.init h

theorem flightOff_power (gf : Nat) (s : State) : (flightOff gf s).power = { s.power with
    admitted := s.power.admitted.filter (· != gf), starting := s.power.starting.filter (· != gf),
    caps := tset 0 s.power.caps gf 0, waking := tset 0 s.power.waking gf 0 } :=
  flightOff_dark gf s .power (by decide)

/-- DOMAIN_STATE.STATE of a flight is OFF after any flight is taken to OFF, when it was before or is that flight's. -/
theorem flightOff_keeps_off {gf g : Nat} (hg : g < 1184) {s : State} (h : s.get (Reg.DOMAIN_STATE_STATE g) = 3) :
    (flightOff gf s).get (Reg.DOMAIN_STATE_STATE g) = 3 := by
  by_cases e : g = gf
  · subst e
    exact flightOff_state g s
  · refine (flightOff_writes gf s _ ?_).trans h
    simp only [isFlightField, Fld.key, Reg.DOMAIN_STATE_STATE]
    omega

theorem flightOff_keeps_init {gf g : Nat} {s : State} (h : s.flight g = Flight.init) : (flightOff gf s).flight g = Flight.init := by
  by_cases e : g = gf
  · subst e
    exact flightOff_flight g s
  · exact (flightOff_flight_other e s).trans h

/-- What no step of a walk undoes holds after the walk. -/
theorem foldl_preserves {β : Type} {P : State → Prop} {g : State → β → State} {l : List β}
    (hkeep : ∀ s, ∀ y ∈ l, P s → P (g s y)) {s : State} (h : P s) : P (l.foldl g s) :=
  foldl_related (Q := fun s t => P s → P t) (fun _ => id) (fun _ _ _ h h' => h' ∘ h) hkeep s h

/-- What one step of a walk brings about and no step undoes holds after the walk. -/
theorem foldl_establishes {β : Type} {P : State → Prop} {g : State → β → State} {l : List β} {x : β} (hx : x ∈ l)
    (hest : ∀ s, P (g s x)) (hkeep : ∀ s, ∀ y ∈ l, P s → P (g s y)) (s : State) : P (l.foldl g s) := by
  obtain ⟨a, b, rfl⟩ := List.append_of_mem hx
  rw [List.foldl_append, List.foldl_cons]
  exact foldl_preserves (fun u y hy => hkeep u y (List.mem_append_right a (List.mem_cons_of_mem x hy))) (hest _)

/-- The flights of a list taken to OFF one after another. -/
def flightsOff (l : List Nat) (s : State) : State := l.foldl (fun s g => flightOff g s) s

theorem flightsOff_keeps (l : List Nat) (s : State) : KeepsBut [.regs, .power, .treads, .flights] s (flightsOff l s) :=
  foldl_keeps (fun u g _ => flightOff_keeps g u) s

theorem flightsOff_writes (l : List Nat) (s : State) : Writes (fun k => ∃ g ∈ l, isFlightField g k) s (flightsOff l s) :=
  foldl_writes (fun u g hg => (flightOff_writes g u).mono fun _ hk => ⟨g, hg, hk⟩) s

theorem flightsOff_state {l : List Nat} {g : Nat} (hg : g ∈ l) (hlt : g < 1184) (s : State) :
    (flightsOff l s).get (Reg.DOMAIN_STATE_STATE g) = 3 :=
  foldl_establishes (P := fun u => u.get (Reg.DOMAIN_STATE_STATE g) = 3) hg (flightOff_state g)
    (fun _ _ _ => flightOff_keeps_off hlt) s

theorem flightsOff_flight {l : List Nat} {g : Nat} (hg : g ∈ l) (s : State) : (flightsOff l s).flight g = Flight.init :=
  foldl_establishes (P := fun u => u.flight g = Flight.init) hg (flightOff_flight g) (fun _ _ _ => flightOff_keeps_init) s

theorem flightsOff_unadmitted (l : List Nat) {s : State} (h : s.power.admitted = []) : (flightsOff l s).power.admitted = [] := by
  induction l generalizing s with
  | nil => exact h
  | cons g l ih => exact ih (by rw [flightOff_power, h]; rfl)

/-- A power-down has begun: admission is held. -/
def fallingHeld (s : State) : State := holdAdmission { s with pins := { s.pins with falling := true } }

theorem fallingHeld_keeps (s : State) : KeepsBut [.pins, .power, .regs] s (fallingHeld s) := by
  have hpins : KeepsBut [.pins] s { s with pins := { s.pins with falling := true } } := fun a ha => by
    cases a <;> simp [Area.same] at ha ⊢
  exact (hpins.mono (by decide)).trans ((holdAdmission_keeps _).mono (by decide))

theorem fallingHeld_pins (s : State) : (fallingHeld s).pins = { s.pins with falling := true } :=
  holdAdmission_keeps _ .pins (by decide)

theorem fallingHeld_unadmitted (s : State) : (fallingHeld s).power.admitted = [] := rfl

theorem fallingHeld_held (s : State) : (fallingHeld s).get Reg.PWR_STATUS_ADMIT_HELD = 1 := get_set_self _ _ _

/-- The power-down that a fall of PWR_EN begins. -/
def powerDown (s : State) : State := flightsOff allFlights (fallingHeld s)

theorem powerDown_keeps (s : State) : KeepsBut [.pins, .power, .regs, .flights, .treads] s (powerDown s) :=
  ((fallingHeld_keeps s).mono (by decide)).trans ((flightsOff_keeps _ _).mono (by decide))

theorem powerDown_pins (s : State) : (powerDown s).pins = { s.pins with falling := true } :=
  (flightsOff_keeps _ _ .pins (by decide)).trans (fallingHeld_pins s)

theorem powerDown_unadmitted (s : State) : (powerDown s).power.admitted = [] := by
  have h := flightsOff_unadmitted allFlights (fallingHeld_unadmitted s)
  rwa [← powerDown] at h

theorem powerDown_held (s : State) : (powerDown s).get Reg.PWR_STATUS_ADMIT_HELD = 1 := by
  refine (flightsOff_writes _ _ _ ?_).trans (fallingHeld_held s)
  rintro ⟨g, -, hk⟩
  simp only [isFlightField, Fld.key, Reg.PWR_STATUS_ADMIT_HELD] at hk
  omega

theorem powerDown_flights (s : State) {g : Nat} (hg : g < 1184) :
    (powerDown s).get (Reg.DOMAIN_STATE_STATE g) = 3 ∧ (powerDown s).flight g = Flight.init := by
  have hmem : g ∈ allFlights := mem_upFrom.2 ⟨Nat.zero_le g, by omega⟩
  exact ⟨flightsOff_state hmem hg _, flightsOff_flight hmem _⟩

/-! The claims. -/

theorem execPwrEnRise_eq (s : State) : execPwrEnRise s = perform true (fun s =>
    if s.pins.pwrEn then s
    else if s.pins.falling || s.pins.holdOff then { s with pins := { s.pins with pwrEn := true, riseWaits := true } }
    else powerUp { s with pins := { s.pins with pwrEn := true } }) s := rfl

theorem pwrEnRise_claims (s : State) :
    (s.pins.pwrEn = true → Gives .pwrEnRise s (KeepsBut [.out] s))
    ∧ (s.pins.pwrEn = false → s.pins.falling = true ∨ s.pins.holdOff = true → Gives .pwrEnRise s fun u =>
      KeepsBut [.pins, .power, .out] s u ∧ u.pins = { s.pins with pwrEn := true, riseWaits := true }
      ∧ u.power = { s.power with convertersOn := s.power.convertersOn })
    ∧ (s.pins.pwrEn = false → s.pins.falling = false → s.pins.holdOff = false → Gives .pwrEnRise s fun u =>
      KeepsBut [.pins, .power, .out] s u ∧ u.pins = { s.pins with pwrEn := true }
      ∧ u.power = { s.power with convertersOn := true }) := by
  refine ⟨fun h => gives_still (execPwrEnRise_eq s) (by simp [h]), fun h hw => gives_onlyPins (execPwrEnRise_eq s) ?_,
    fun h hf hh => gives_onlyPins (execPwrEnRise_eq s) ?_⟩
  · rcases hw with hw | hw <;> simp [h, hw]
  · simp [h, hf, hh, powerUp]

/-- What a command answers, from what its effect is. -/
theorem gives_effect {c : Instr} {s t : State} {f : State → State} {P : State → Prop} (hc : exec c s = perform true f s)
    (hf : f { s with out := [] } = t) (hP : P { t with pending := s.pending }) : Gives c s P :=
  ⟨_, by rw [hc, perform, if_pos rfl, hf], hP⟩

/-- What a command answers whose effect leaves the queue. -/
theorem gives_value {c : Instr} {s t : State} {f : State → State} {P : State → Prop} (hc : exec c s = perform true f s)
    (hf : f { s with out := [] } = t) (hq : t.pending = s.pending) (hP : P t) : Gives c s P :=
  gives_of_perform hc (hf ▸ hq) (hf ▸ hP)

theorem keepsBut_pending (s : State) (x : List Instr) : KeepsBut [.pending] s { s with pending := x } := by
  intro a ha
  cases a <;> simp [Area.same] at ha ⊢

theorem PowerOn.with_pending {s t : State} (h : PowerOn s t) (x : List Instr) : PowerOn s { t with pending := x } := by
  obtain ⟨hlost, hrest⟩ := h
  exact ⟨hlost.trans ((keepsBut_pending t x).mono (by decide)), hrest⟩

theorem StateLost.with_pending {s t : State} (h : StateLost s t) (x : List Instr) : StateLost s { t with pending := x } :=
  h.of_out ((keepsBut_pending t x).mono (by decide))

theorem execPowerUpHoldoffEnd_eq (s : State) : execPowerUpHoldoffEnd s = perform true (fun s =>
    if !s.pins.holdOff then s
    else if s.pins.riseWaits then powerUp { s with pins := { s.pins with holdOff := false, riseWaits := false } }
    else { s with pins := { s.pins with holdOff := false, riseWaits := false } }) s := rfl

theorem powerUpHoldoffEnd_claims (s : State) :
    (s.pins.holdOff = false → Gives .powerUpHoldoffEnd s (KeepsBut [.out] s))
    ∧ (s.pins.holdOff = true → Gives .powerUpHoldoffEnd s fun u =>
      KeepsBut [.pins, .power, .out] s u ∧ u.pins = { s.pins with holdOff := false, riseWaits := false }
      ∧ u.power = { s.power with convertersOn := s.pins.riseWaits || s.power.convertersOn }) := by
  refine ⟨fun h => gives_still (execPowerUpHoldoffEnd_eq s) (by simp [h]), fun h => gives_onlyPins (execPowerUpHoldoffEnd_eq s) ?_⟩
  cases s.pins.riseWaits <;> simp [h, powerUp]

/-- PWR_GOOD is high and its port says so. -/
def powerGood (s : State) : State := { s with pins := { s.pins with pwrGood := true } } |> put (.pin .pwrGood true)

theorem powerGood_keeps (s : State) : KeepsBut [.pins, .out] s (powerGood { s with out := [] }) := by
  intro a ha
  cases a <;> simp [Area.same, powerGood, put] at ha ⊢

theorem execPwrGoodRise_eq (s : State) : execPwrGoodRise s = perform true (fun s =>
    if s.pins.pwrGood || !s.pins.pwrEn || !s.power.convertersOn || s.pins.falling then s
    else if s.pins.pkgRstN then powerOnReset (powerGood s) else powerGood s) s := rfl

theorem pwrGoodRise_claims (s : State) :
    (s.pins.pwrGood = true ∨ s.pins.pwrEn = false ∨ s.power.convertersOn = false ∨ s.pins.falling = true →
      Gives .pwrGoodRise s (KeepsBut [.out] s))
    ∧ (s.pins.pwrGood = false → s.pins.pwrEn = true → s.power.convertersOn = true → s.pins.falling = false →
      Gives .pwrGoodRise s fun u =>
        .pin .pwrGood true ∈ u.out ∧ (s.pins.pkgRstN = false → KeepsBut [.pins, .out] s u ∧ u.pins = { s.pins with pwrGood := true })
        ∧ (s.pins.pkgRstN = true → PowerOn s u ∧ u.pins = { s.pins with pwrGood := true, faultN := true })) := by
  refine ⟨fun h => gives_still (execPwrGoodRise_eq s) (if_pos (by simpa [or_assoc] using h)), fun hg he hc hf => ?_⟩
  have hout : Out.pin .pwrGood true ∈ (powerGood { s with out := [] }).out := List.mem_singleton.2 rfl
  have hrises : ∀ {a b : State}, (if s.pins.pwrGood || !s.pins.pwrEn || !s.power.convertersOn || s.pins.falling then a else b) = b :=
    if_neg (by simp [hg, he, hc, hf])
  cases hr : s.pins.pkgRstN with
  | true =>
    exact gives_effect (execPwrGoodRise_eq s) (hrises.trans (if_pos hr)) ⟨mem_out_powerOnReset hout, fun h => absurd h (by simp),
      fun _ => ⟨(powerOnReset_powerOn (powerGood { s with out := [] })).with_pending _, powerOnReset_pins (powerGood { s with out := [] })⟩⟩
  | false =>
    exact gives_effect (execPwrGoodRise_eq s) (hrises.trans (if_neg (by simp [hr])))
      ⟨hout, fun _ => ⟨powerGood_keeps s, rfl⟩, fun h => absurd h (by simp)⟩

/-- PKG_RST_N is released, and MGMT_SEL is sampled. -/
def resetReleased (mgmtSel : Bool) (s : State) : State := { s with pins := { s.pins with pkgRstN := true, mgmtI3c := mgmtSel } }

theorem execPkgRstRelease_eq (mgmtSel : Bool) (s : State) : execPkgRstRelease mgmtSel s = perform true (fun s =>
    if s.pins.pkgRstN then s
    else if s.pins.pwrGood then powerOnReset (resetReleased mgmtSel s) else resetReleased mgmtSel s) s := rfl

theorem pkgRstRelease_claims (mgmtSel : Bool) (s : State) :
    (s.pins.pkgRstN = true → Gives (.pkgRstRelease mgmtSel) s (KeepsBut [.out] s))
    ∧ (s.pins.pkgRstN = false → s.pins.pwrGood = false → Gives (.pkgRstRelease mgmtSel) s fun u =>
      KeepsBut [.pins, .out] s u ∧ u.pins = { s.pins with pkgRstN := true, mgmtI3c := mgmtSel })
    ∧ (s.pins.pkgRstN = false → s.pins.pwrGood = true → Gives (.pkgRstRelease mgmtSel) s fun u =>
      PowerOn s u ∧ u.pins = { s.pins with pkgRstN := true, mgmtI3c := mgmtSel, faultN := true }) := by
  refine ⟨fun h => gives_still (execPkgRstRelease_eq mgmtSel s) (if_pos h), fun hr hg => ?_, fun hr hg => ?_⟩
  · refine gives_effect (execPkgRstRelease_eq mgmtSel s) ((if_neg (by simp [hr])).trans (if_neg (by simp [hg]))) ⟨fun a ha => ?_, rfl⟩
    cases a <;> simp [Area.same, resetReleased] at ha ⊢
  · refine gives_effect (execPkgRstRelease_eq mgmtSel s) ((if_neg (by simp [hr])).trans (if_pos hg)) ?_
    exact ⟨(powerOnReset_powerOn (resetReleased mgmtSel { s with out := [] })).with_pending _,
      powerOnReset_pins (resetReleased mgmtSel { s with out := [] })⟩

theorem pkgRstAssert_claims (s : State) :
    (s.pins.pkgRstN = false → Gives .pkgRstAssert s (KeepsBut [.out] s))
    ∧ (s.pins.pkgRstN = true → Gives .pkgRstAssert s fun u =>
      StateLost s u ∧ u.pins = { s.pins with pkgRstN := false, faultN := true }
      ∧ u.power = { Power.init with convertersOn := s.power.convertersOn }) := by
  have heq : exec .pkgRstAssert s = perform true (fun s =>
      if !s.pins.pkgRstN then s else loseState { s with pins := { s.pins with pkgRstN := false } }) s := rfl
  refine ⟨fun h => gives_still heq (if_pos (by simp [h])), fun h => gives_effect heq (if_neg (by simp [h])) ?_⟩
  generalize hs : ({ s with out := [], pins := { s.pins with pkgRstN := false } } : State) = s'
  have hlost : StateLost s (loseState s') := by subst hs; exact loseState_lost _
  exact ⟨hlost.with_pending _, by subst hs; exact loseState_pins _, by subst hs; exact loseState_power _⟩

/-- PWR_EN is low, and no rise of it waits. -/
def powerAsked (s : State) : State := { s with pins := { s.pins with pwrEn := false, riseWaits := false } }

theorem execPwrEnFall_eq (s : State) : execPwrEnFall s = perform true (fun s =>
    if !s.pins.pwrEn then s
    else if !s.power.convertersOn || s.pins.falling then powerAsked s
    else powerDown (powerAsked s)) s := rfl

theorem pwrEnFall_claims (s : State) :
    (s.pins.pwrEn = false → Gives .pwrEnFall s (KeepsBut [.out] s))
    ∧ (s.pins.pwrEn = true → s.power.convertersOn = false ∨ s.pins.falling = true → Gives .pwrEnFall s fun u =>
      KeepsBut [.pins, .power, .out] s u ∧ u.pins = { s.pins with pwrEn := false, riseWaits := false }
      ∧ u.power = { s.power with convertersOn := s.power.convertersOn })
    ∧ (s.pins.pwrEn = true → s.power.convertersOn = true → s.pins.falling = false → Gives .pwrEnFall s fun u =>
      KeepsBut [.pins, .power, .regs, .flights, .treads, .out] s u
      ∧ u.pins = { s.pins with pwrEn := false, riseWaits := false, falling := true }
      ∧ u.power.admitted = [] ∧ u.get Reg.PWR_STATUS_ADMIT_HELD = 1
      ∧ ∀ g, g < 1184 → u.get (Reg.DOMAIN_STATE_STATE g) = 3 ∧ u.flight g = Flight.init) := by
  refine ⟨fun h => gives_still (execPwrEnFall_eq s) (if_pos (by simp [h])), fun he hc => ?_, fun he hc hf => ?_⟩
  · exact gives_onlyPins (execPwrEnFall_eq s) ((if_neg (by simp [he])).trans ((if_pos (by simpa using hc)).trans rfl))
  · have hasked : KeepsBut [.pins, .power, .regs, .flights, .treads, .out] s (powerAsked { s with out := [] }) := fun a ha => by
      cases a <;> simp [Area.same, powerAsked] at ha ⊢
    have hkeep := hasked.trans ((powerDown_keeps _).mono (by decide))
    refine gives_value (execPwrEnFall_eq s) ((if_neg (by simp [he])).trans (if_neg (by simp [hc, hf]))) (hkeep .pending (by decide)) ?_
    exact ⟨hkeep, powerDown_pins _, powerDown_unadmitted _, powerDown_held _, fun g hg => powerDown_flights _ hg⟩

/-- What is left once the converters are off: the lines as they are driven then, before their ports say so. -/
def convertersDown (s : State) : State :=
  { wipe { s with power := { s.power with convertersOn := s.pins.riseWaits && !(s.pins.pwrGood || s.pins.holdOff) } } with
    pins := { s.pins with pwrGood := false, thermtripN := true, falling := false, faultN := true,
                          holdOff := s.pins.pwrGood || s.pins.holdOff,
                          riseWaits := s.pins.riseWaits && (s.pins.pwrGood || s.pins.holdOff) } }

/-- The converters are off, and every line that changed says so. -/
def powerOff (s : State) : State :=
  convertersDown s |> drive .pwrGood s.pins.pwrGood false |> drive .faultN s.pins.faultN true |> drive .thermtripN s.pins.thermtripN true

theorem powerOff_keeps (s : State) : KeepsBut [.out] (convertersDown s) (powerOff s) :=
  ((drive_keeps .pwrGood _ _ _).trans (drive_keeps .faultN _ _ _)).trans (drive_keeps .thermtripN _ _ _)

theorem convertersDown_lost (s : State) : StateLost s (convertersDown s) := stateLost_wipe { s with power := _ } rfl

theorem powerOff_lost (s : State) : StateLost s (powerOff s) := (convertersDown_lost s).of_out ((powerOff_keeps s).mono (by decide))

theorem mem_out_powerOff {s : State} (h : s.pins.pwrGood = true) : .pin .pwrGood false ∈ (powerOff s).out :=
  mem_out_drive (mem_out_drive (mem_out_drive_self (by simp [h]) _) _ _ _) _ _ _

theorem execPwrGoodFall_eq (s : State) : execPwrGoodFall s = perform true (fun s =>
    if !s.pins.falling && s.power.convertersOn then s else powerOff s) s := rfl

theorem pwrGoodFall_claims (s : State) :
    (s.pins.falling = false → s.power.convertersOn = true → Gives .pwrGoodFall s (KeepsBut [.out] s))
    ∧ (s.pins.falling = true ∨ s.power.convertersOn = false → Gives .pwrGoodFall s fun u =>
      let hold := s.pins.pwrGood || s.pins.holdOff
      StateLost s u ∧ u.power = { Power.init with convertersOn := s.pins.riseWaits && !hold }
      ∧ u.pins = { s.pins with pwrGood := false, thermtripN := true, falling := false, faultN := true, holdOff := hold,
                               riseWaits := s.pins.riseWaits && hold }
      ∧ (s.pins.pwrGood = true → .pin .pwrGood false ∈ u.out)) := by
  refine ⟨fun hf hc => gives_still (execPwrGoodFall_eq s) (if_pos (by simp [hf, hc])), fun h => ?_⟩
  refine gives_effect (execPwrGoodFall_eq s) (if_neg (by rcases h with h | h <;> simp [h])) ?_
  exact ⟨(powerOff_lost { s with out := [] }).with_pending _, powerOff_keeps _ .power (by decide), powerOff_keeps _ .pins (by decide),
    mem_out_powerOff (s := { s with out := [] })⟩

theorem powerSequencing : Claims.PowerSequencing := by
  intro mgmtSel s
  obtain ⟨hrise, hwaits, hup⟩ := pwrEnRise_claims s
  obtain ⟨hidle, hend⟩ := powerUpHoldoffEnd_claims s
  obtain ⟨hlow, hgood⟩ := pwrGoodRise_claims s
  obtain ⟨hreleased, hdark, hreset⟩ := pkgRstRelease_claims mgmtSel s
  obtain ⟨hasserted, hlost⟩ := pkgRstAssert_claims s
  obtain ⟨hfallen, hoff, hdown⟩ := pwrEnFall_claims s
  obtain ⟨hkept, hgone⟩ := pwrGoodFall_claims s
  exact ⟨hrise, hwaits, hup, hidle, hend, hlow, hgood, hreleased, hdark, hreset, hasserted, hlost, hfallen, hoff, hdown, hkept, hgone⟩

theorem packageFault_faulted (s : State) : Faulted s (packageFault s) := by
  refine ⟨packageFault_pkg s, fun h => ?_⟩
  rw [packageFault, if_neg (by simpa using h)]
  exact ⟨rfl, List.mem_append_right _ (List.mem_singleton.2 rfl)⟩

theorem refclkFabLoss_claims (s : State) : Gives .refclkFabLoss s fun u => KeepsBut [.pkg, .pins, .out] s u ∧ Faulted s u := by
  have hk := packageFault_keeps { s with out := [] }
  exact gives_value (f := packageFault) rfl rfl (hk .pending (by decide))
    ⟨hk.with_out.mono (by decide), packageFault_faulted { s with out := [] }⟩

/-- The answer of a PLDM sensor, once the endpoint answers. -/
def answerSensor (now : W64) (n k : Nat) (s : State) : State :=
  if (at_ now s).pldmUp then put (.value ((at_ now s).sensor n k)) (at_ now s) else at_ now s

theorem execPldmGetSensor_eq (now : W64) (n k : Nat) (s : State) : execPldmGetSensor now n k s =
    perform (decide (n < 7) && decide (k < if n = 4 then 6 else 8)) (answerSensor now n k) s := rfl

theorem at_pldmUp (now : W64) (s : State) :
    (at_ now s).pldmUp = true ↔ s.pins.pwrGood = true ∧ s.pins.pkgRstN = true ∧ 50_000_000 ≤ max s.time now.toNat := by
  rw [State.pldmUp, Bool.and_eq_true, Bool.and_eq_true, decide_eq_true_eq, and_assoc]
  rfl

theorem answerSensor_up {now : W64} {s : State} (h : (at_ now s).pldmUp = true) (n k : Nat) :
    answerSensor now n k s = put (.value ((at_ now s).sensor n k)) (at_ now s) := if_pos h

theorem answerSensor_dark {now : W64} {s : State} (h : ¬(at_ now s).pldmUp = true) (n k : Nat) :
    answerSensor now n k s = at_ now s := if_neg h

theorem answerSensor_keeps (now : W64) (n k : Nat) (s : State) : KeepsBut [.time, .out] s (answerSensor now n k s) := by
  have hat := (at_keeps now s).mono (m := [.time, .out]) (by decide)
  unfold answerSensor
  split
  · exact hat.put (l := [.time]) _
  · exact hat

theorem pldmGetSensor_claims (now : W64) (n k : Nat) (s : State) (hn : n < 7) (hk : k < if n = 4 then 6 else 8) :
    (s.pins.pwrGood = true ∧ s.pins.pkgRstN = true ∧ 50_000_000 ≤ max s.time now.toNat → Gives (.pldmGetSensor now n k) s fun u =>
      KeepsBut [.time, .out] s u ∧ u.time = max s.time now.toNat ∧ u.out = [.value (s.sensor n k)])
    ∧ (¬(s.pins.pwrGood = true ∧ s.pins.pkgRstN = true ∧ 50_000_000 ≤ max s.time now.toNat) → Gives (.pldmGetSensor now n k) s fun u =>
      KeepsBut [.time, .out] s u ∧ u.time = max s.time now.toNat ∧ u.out = []) := by
  have hc : exec (.pldmGetSensor now n k) s = perform true (answerSensor now n k) s :=
    (execPldmGetSensor_eq now n k s).trans (perform_eq_of_effect (by simp [hn, hk]) rfl)
  have hkeep : KeepsBut [.time, .out] s (answerSensor now n k { s with out := [] }) := 
    ((answerSensor_keeps now n k { s with out := [] }).with_out (l := [.time, .out])).mono (by decide)
  have hup := at_pldmUp now { s with out := [] }
  refine ⟨fun h => ?_, fun h => ?_⟩
  · have he := answerSensor_up (hup.2 h) n k
    rw [he] at hkeep
    exact gives_value hc he rfl ⟨hkeep, rfl, rfl⟩
  · have he := answerSensor_dark (fun hp => h (hup.1 hp)) n k
    rw [he] at hkeep
    exact gives_value hc he rfl ⟨hkeep, rfl, rfl⟩

theorem testPort_claims {c : Instr} {code : Nat} {s : State} (hc : exec c s = testPort code s) : Gives c s fun u =>
    KeepsBut [.det, .out] s u ∧ u.det = { s.det with jtag := if s.pkg = .service then 0 else code } := by
  refine gives_value (hc.trans rfl) rfl rfl ⟨fun a ha => ?_, ?_⟩
  · cases a <;> simp [Area.same] at ha ⊢
  · simp only [beq_iff_eq]

theorem sensorsAndTestPort : Claims.SensorsAndTestPort := by
  intro now n k s
  refine ⟨refclkFabLoss_claims s, fun hx h => ?_, fun hx h => ?_, fun x hx => ?_⟩
  · exact (pldmGetSensor_claims now n k s hx.1 hx.2).1 h
  · obtain ⟨t, ht, hkeep, -, hout⟩ := (pldmGetSensor_claims now n k s hx.1 hx.2).2 h
    exact ⟨t, ht, hkeep, hout⟩
  · simp only [List.mem_cons, List.not_mem_nil, or_false] at hx
    rcases hx with rfl | rfl | rfl <;> exact testPort_claims rfl

/-- Settles O55: each edge of the pins by what its effect leaves, a power-on reset and a loss of state by what 16 R542 keeps. -/
theorem pinsAndTestPort : Obligations.PinsAndTestPort := ⟨powerSequencing, sensorsAndTestPort⟩

/-! ## A load commits, and an image is released -/

/-! Tables of which entries are taken out. -/

theorem tget_filter_in {α : Type} {d : α} (keep : Nat → Bool) {k : Nat} (hk : keep k = true) (t : Tbl α) :
    tget d (t.filter fun e => keep e.1) k = tget d t k := by
  induction t with
  | nil => rfl
  | cons e t ih =>
    obtain ⟨a, v⟩ := e
    by_cases ha : a = k
    · simp [tget, ha, hk]
    · by_cases hkeep : keep a = true <;> simp [tget, hkeep, ha, ih]

theorem tget_filter_out {α : Type} {d : α} (keep : Nat → Bool) {k : Nat} (hk : keep k = false) (t : Tbl α) :
    tget d (t.filter fun e => keep e.1) k = d :=
  tget_unlisted fun e he heq => by
    have hkeep := (List.mem_filter.1 he).2
    simp [heq, hk] at hkeep

theorem memByte_clearRange_in {base size o : Nat} (h : base ≤ o ∧ o < base + size) (s : State) :
    (clearRange base size s).memByte o = 0 :=
  tget_filter_out (fun k => decide (k < base) || decide (base + size ≤ k)) (by simp; omega) s.mem

theorem bytesBut_clearRange (base size : Nat) (s : State) : BytesBut base size s (clearRange base size s) := fun o ho =>
  tget_filter_in (fun k => decide (k < base) || decide (base + size ≤ k)) (by simpa using ho) s.mem

theorem bytesBut_congr {base size : Nat} {s u s' u' : State} (h : BytesBut base size s u) (hs : s.mem = s'.mem) (hu : u'.mem = u.mem) :
    BytesBut base size s' u' := fun o ho => by
  have hb := h o ho
  rwa [State.memByte, State.memByte, ← hu, hs] at hb

/-! Records of events. -/

theorem ring_setRing_self (f : Nat) (v : EvRing) (s : State) : (s.setRing f v).ring f = v := tget_tset_self _ _ _

theorem ring_setRing_other {f g : Nat} (h : g ≠ f) (v : EvRing) (s : State) : (s.setRing f v).ring g = s.ring g :=
  tget_tset_other (d := EvRing.init) s.rings v h

theorem recorded_congr {code : Nat} {body : List Nat} {s u : State} (h : Recorded code body s) (hu : u.rings = s.rings) :
    Recorded code body u := by
  rwa [Recorded, State.ring, hu]

theorem queueRecord_other {f : Nat} (hf : 0 ≠ f) (r : EvRec) (s : State) : (queueRecord f r s).ring 0 = s.ring 0 := by
  unfold queueRecord
  dsimp only
  split
  · exact ring_setRing_other hf _ s
  · exact ring_setRing_other hf _ s

/-- The physical function's ring takes a record where it has room. -/
theorem queueRecord_pend (r : EvRec) (s : State) :
    (1024 ≤ (s.ring 0).pend.length ∧ ((queueRecord 0 r s).ring 0).pend = (s.ring 0).pend)
    ∨ ((queueRecord 0 r s).ring 0).pend = (s.ring 0).pend ++ [r] := by
  have hbump : ∀ v : EvRing, (bump (Reg.EVT_COUNTS_DROPPED 0) 1 (s.setRing 0 v)).ring 0 = v := fun v => ring_setRing_self 0 v s
  unfold queueRecord
  dsimp only
  split
  · exact .inr (congrArg EvRing.pend (ring_setRing_self _ _ s))
  · exact .inl ⟨by omega, by rw [hbump]⟩

theorem queueRecord_recorded (r : EvRec) (s : State) : Recorded r.code r.body (queueRecord 0 r s) := by
  rcases queueRecord_pend r s with ⟨hfull, h⟩ | h
  · exact .inl (h ▸ hfull)
  · exact .inr ⟨r, by simp [h], rfl, rfl⟩

theorem Recorded.queueRecord {code : Nat} {body : List Nat} {s : State} (h : Recorded code body s) (f : Nat) (r : EvRec) :
    Recorded code body (queueRecord f r s) := by
  by_cases hf : 0 = f
  · subst hf
    rcases queueRecord_pend r s with ⟨-, hp⟩ | hp
    · rwa [Recorded, hp]
    · rcases h with hfull | ⟨x, hx, hxr⟩
      · exact .inl (by simp [hp]; omega)
      · exact .inr ⟨x, by simp [hp, hx], hxr⟩
  · rwa [Recorded, queueRecord_other hf]

/-- An event before its records are queued. -/
def stamped (code : Nat) (s : State) : State := { s with seq := (s.seq + 1) % 2 ^ 32 } |> countEvent code

theorem raise_eq (code : Nat) (st : Stamp) (body : List Nat) (s : State) : raise code st body s =
    let u := queueRecord 0 { code := code, seq := s.seq, step := st.step, mb := st.mb, part := st.part, body := body } (stamped code s)
    match st.part with
    | none => u
    | some p => if pfOnly code || u.partState p == partScrubbing then u
        else queueRecord (vfNo p) { code := code, seq := s.seq, step := st.step, mb := st.mb, part := st.part, body := body } u := rfl

theorem recorded_raise (code : Nat) (st : Stamp) (body : List Nat) (s : State) : Recorded code body (raise code st body s) := by
  rw [raise_eq]
  have h := queueRecord_recorded { code := code, seq := s.seq, step := st.step, mb := st.mb, part := st.part, body := body } (stamped code s)
  dsimp only
  split
  · exact h
  · split
    · exact h
    · exact h.queueRecord _ _

theorem Recorded.raise {code : Nat} {body : List Nat} {s : State} (h : Recorded code body s) (c : Nat) (st : Stamp) (b : List Nat) :
    Recorded code body (raise c st b s) := by
  rw [raise_eq]
  have hs : Recorded code body (stamped c s) := recorded_congr h rfl
  have hq : ∀ r, Recorded code body (Machine.queueRecord 0 r (stamped c s)) := fun r => hs.queueRecord 0 r
  dsimp only
  split
  · exact hq _
  · split
    · exact hq _
    · exact (hq _).queueRecord _ _

/-! The rigging of a partition. -/

theorem rig_setRig_self (p : Nat) (v : Rig) (s : State) : (s.setRig p v).rig p = v := tget_tset_self _ _ _

theorem otherRigs_setRig (p : Nat) (v : Rig) (s : State) : OtherRigs p s (s.setRig p v) := fun _ hq =>
  tget_tset_other (d := Rig.init) s.rigs v hq

theorem KeepsBut.rig {l : List Area} {s u : State} (h : KeepsBut l s u) (hl : .rigs ∉ l) (q : Nat) : u.rig q = s.rig q := by
  rw [State.rig, State.rig, show u.rigs = s.rigs from h .rigs hl]

theorem KeepsBut.mem {l : List Area} {s u : State} (h : KeepsBut l s u) (hl : .mem ∉ l) : u.mem = s.mem := h .mem hl

theorem OtherRigs.then_keeps {p : Nat} {l : List Area} {s t u : State} (h : OtherRigs p s t) (hk : KeepsBut l t u) (hl : .rigs ∉ l) :
    OtherRigs p s u := fun q hq => (hk.rig hl q).trans (h q hq)

theorem OtherRigs.after_keeps {p : Nat} {l : List Area} {s t u : State} (hk : KeepsBut l s t) (hl : .rigs ∉ l) (h : OtherRigs p t u) :
    OtherRigs p s u := fun q hq => (h q hq).trans (hk.rig hl q)

theorem OtherRigs.trans {p : Nat} {s t u : State} (h : OtherRigs p s t) (h' : OtherRigs p t u) : OtherRigs p s u :=
  fun q hq => (h' q hq).trans (h q hq)

/-! The new rigging stays while the channels of a Commit open. -/

/-- A program fault asks for a halt, which interrupts no step: it leaves the riggings. -/
theorem programFault_keeps (p : Nat) (s : State) : KeepsBut [.regs, .out, .ropes, .svcs] s (programFault p s) := by
  have hset : ∀ (f : Fld) (v : Nat) (u : State), KeepsBut [.regs, .out, .ropes, .svcs] u (u.set f v) :=
    fun f v u => (keepsBut_regs u _).mono (by decide)
  have hchildren : ∀ (m : TreeMsg) (u : State), KeepsBut [.regs, .out, .ropes, .svcs] u (toChildren p Tree.rewind m u) := fun m u => by
    apply keepsBut_of_veil
    apply toChildren_frame <;> exact fun _ _ => rfl
  have hparent : ∀ (m : TreeMsg) (u : State), KeepsBut [.regs, .out, .ropes, .svcs] u (toParent p Tree.rewind m u) := fun m u => by
    apply keepsBut_of_veil
    apply toParent_frame <;> exact fun _ _ => rfl
  have hhalt : ∀ (c : Nat) (u : State), KeepsBut [.regs, .out, .ropes, .svcs] u (applyHalt p c u) := fun c u => by
    apply keepsBut_of_veil
    apply applyHalt_frame <;> exact fun _ _ => rfl
  unfold programFault findCause
  simp only [BEq.rfl, Bool.true_or, if_true, rootRequest]
  split
  · exact .refl _ s
  · split
    · exact (hset _ _ s).trans ((hchildren _ _).trans (hhalt _ _))
    · exact (hset _ _ s).trans (hparent _ _)

theorem setVchan_keeps (k v : Nat) (c : VChan) (s : State) : KeepsBut [.ropes] s (setVchan k v c s) :=
  keepsBut_of_veil (setVchan_frame (fun _ _ => rfl) k v c s)

theorem authFail_keeps (k v : Nat) (s : State) : KeepsBut [.regs, .seq, .out, .ropes, .rings, .svcs, .det] s (authFail k v s) := by
  have hclose : ∀ u : State, KeepsBut [.ropes] u (closeVc k v u) := fun u => keepsBut_of_veil (closeVc_frame (fun _ _ => rfl) k v u)
  have hraise : ∀ st : Stamp, KeepsBut [.regs, .seq, .out, .ropes, .rings, .svcs, .det] s
      (raise Ev.ropeAuthFail st [k, v] (closeVc k v s)) := fun st =>
    ((hclose s).mono (by decide)).trans ((raise_keeps _ _ _ _).mono (by decide))
  unfold authFail
  dsimp only
  split
  · exact (hraise _).trans ((programFault_keeps _ _).mono (by decide))
  · exact hraise _

theorem takeEarly_keeps (k v : Nat) (f : List Byte) (s : State) :
    KeepsBut [.regs, .seq, .out, .ropes, .rings, .svcs, .det] s (takeEarly k v f s) := by
  have hset : ∀ c : VChan, KeepsBut [.regs, .seq, .out, .ropes, .rings, .svcs, .det] s (setVchan k v c s) :=
    fun c => (setVchan_keeps k v c s).mono (by decide)
  unfold takeEarly
  split
  · exact hset _
  · split
    · exact hset _
    · exact (hset _).trans (authFail_keeps k v _)

theorem openVc_keeps (p k v : Nat) (s : State) : KeepsBut [.regs, .seq, .out, .ropes, .rings, .svcs, .det] s (openVc p k v s) :=
  ((setVchan_keeps k v _ s).mono (by decide)).trans (foldl_keeps (fun u f _ => takeEarly_keeps k v f u) _)

/-- The rigging that a Commit puts in force. -/
def liveRig (place : Tbl Nat) (r : Rig) : Rig :=
  { r with place := place, live := true, rerigs := [], rerigStart := 0, winding := false }

theorem commitLinks_rigs (p : Nat) (r : Rigging) (place : Tbl Nat) (s : State) :
    (commitLinks p r place s).rigs = (s.setRig p (liveRig place (s.rig p))).rigs := by
  have hopen : ∀ u : State, KeepsBut [.regs, .seq, .out, .ropes, .rings, .svcs, .det] u
      ((vcsOf r).foldl (fun s (k, v) => openVc p k v s) u) := foldl_keeps fun u x _ => openVc_keeps p x.1 x.2 u
  have hroutes : ∀ u : State, KeepsBut [.fabric] u (chooseRoutes p u) :=
    fun u => keepsBut_of_veil (chooseRoutes_frame (fun _ _ => rfl) p u)
  exact (hroutes _ .rigs (by decide)).trans (hopen _ .rigs (by decide))

theorem commitLoad_after (p : Nat) (r : Rigging) (place : Tbl Nat) (s : State) :
    KeepsBut [.regs, .pkg, .seq, .rings, .det] (commitWork p r place s) (commitLoad p r place s) := by
  have hraise := (raise_keeps Ev.rigLoaded (partStamp p) [] (entersService (commitShows p (commitWork p r place s)))).mono
    (m := [.regs, .pkg, .seq, .rings, .det]) (by decide)
  exact ((commitShows_keeps p _).mono (by decide)).trans (((entersService_keeps _).mono (by decide)).trans hraise)

theorem commitWork_rigs (p : Nat) (r : Rigging) (place : Tbl Nat) (s : State) :
    (commitWork p r place s).rigs = (s.setRig p (liveRig place (s.rig p))).rigs := by
  have hservice := commitService_keeps p (commitLinks p r place s) .rigs (by decide)
  have hunits := commitUnits_keeps p r (commitService p (commitLinks p r place s)) .rigs (by decide)
  have htreads := commitTreads_keeps r place
    (commitService p (commitLinks p r place s) |> commitStages r |> commitChannels p r |> commitLandings p r) .rigs (by decide)
  exact htreads.trans (hunits.trans (hservice.trans (commitLinks_rigs p r place s)))

theorem commitLoad_rig (p : Nat) (r : Rigging) (place : Tbl Nat) (s : State) :
    (commitLoad p r place s).rig p = liveRig place (s.rig p) ∧ OtherRigs p s (commitLoad p r place s) := by
  have hrigs : (commitLoad p r place s).rigs = (s.setRig p (liveRig place (s.rig p))).rigs :=
    (commitLoad_after p r place s .rigs (by decide)).trans (commitWork_rigs p r place s)
  have hrig : ∀ q, (commitLoad p r place s).rig q = (s.setRig p (liveRig place (s.rig p))).rig q := fun q => by
    rw [State.rig, hrigs]; rfl
  exact ⟨(hrig p).trans (rig_setRig_self p _ s), fun q hq => (hrig q).trans (otherRigs_setRig p _ s q hq)⟩

theorem commitLoad_mem (p : Nat) (r : Rigging) (place : Tbl Nat) (s : State) : (commitLoad p r place s).mem = s.mem :=
  (commitLoad_after p r place s .mem (by decide)).trans (commitWork_keeps p r place s .mem (by decide))

theorem commitLoad_recorded (p : Nat) (r : Rigging) (place : Tbl Nat) (s : State) : Recorded 0x0200 [] (commitLoad p r place s) := by
  rw [commitLoad_eq]
  exact recorded_raise 0x0200 _ _ _

/-! Treads set up by a Commit. -/

/-- A tread that waits for its launch, is fenced or is spare, and whose registers and data SRAM are clear. -/
def TreadReady (x : Tread) : Prop := x.st ∈ [TState.halt, .fenced, .idle] ∧ x.sreg = [] ∧ x.dmem = []

theorem setupTread_eq (r : Rigging) (role odd gf row c : Nat) (s : State) :
    ∃ v, TreadReady v ∧ setupTread r role odd gf row c s = s.setTread (treadId gf row c) v := by
  unfold setupTread
  dsimp only
  split
  · exact ⟨_, ⟨by simp, rfl, rfl⟩, rfl⟩
  · split
    · exact ⟨_, ⟨by simp [Rigging.freshTread], rfl, rfl⟩, rfl⟩
    · exact ⟨_, ⟨by simp [Tread.init], rfl, rfl⟩, rfl⟩

theorem setupTread_self (r : Rigging) (role odd gf row c : Nat) (s : State) :
    TreadReady ((setupTread r role odd gf row c s).tread (treadId gf row c)) := by
  obtain ⟨v, hv, he⟩ := setupTread_eq r role odd gf row c s
  rw [he, State.tread, setTread_treads, tget_tset_self]
  exact hv

theorem setupTread_ready {t : Nat} {s : State} (h : TreadReady (s.tread t)) (r : Rigging) (role odd gf row c : Nat) :
    TreadReady ((setupTread r role odd gf row c s).tread t) := by
  by_cases ht : t = treadId gf row c
  · subst ht
    exact setupTread_self r role odd gf row c s
  · obtain ⟨v, -, he⟩ := setupTread_eq r role odd gf row c s
    rwa [he, State.tread, setTread_treads, tget_tset_other _ _ ht]

/-- The treads of a row at the places of a list set up one after another. -/
def setupRow (r : Rigging) (role odd gf row : Nat) (l : List Nat) (s : State) : State :=
  l.foldl (fun s c => setupTread r role odd gf row c s) s

/-- The rows of a list set up one after another, each at the same places. -/
def setupRows (r : Rigging) (role odd gf : Nat) (l m : List Nat) (s : State) : State :=
  l.foldl (fun s row => setupRow r role odd gf row m s) s

theorem setupFlight_eq (r : Rigging) (role odd gf : Nat) (s : State) : setupFlight r role odd gf s = 
    setupRows r role odd gf (upFrom 0 16) (upFrom 0 17) s := rfl

theorem setupRow_ready {t : Nat} {s : State} (h : TreadReady (s.tread t)) (r : Rigging) (role odd gf row : Nat) (l : List Nat) :
    TreadReady ((setupRow r role odd gf row l s).tread t) :=
  foldl_preserves (P := fun u => TreadReady (u.tread t)) (fun _ _ _ hu => setupTread_ready hu ..) h

theorem setupRow_self {l : List Nat} {c : Nat} (hc : c ∈ l) (r : Rigging) (role odd gf row : Nat) (s : State) :
    TreadReady ((setupRow r role odd gf row l s).tread (treadId gf row c)) :=
  foldl_establishes (P := fun u => TreadReady (u.tread (treadId gf row c))) hc (fun _ => setupTread_self ..)
    (fun _ _ _ hu => setupTread_ready hu ..) s

theorem setupRows_ready {t : Nat} {s : State} (h : TreadReady (s.tread t)) (r : Rigging) (role odd gf : Nat) (l m : List Nat) :
    TreadReady ((setupRows r role odd gf l m s).tread t) :=
  foldl_preserves (P := fun u => TreadReady (u.tread t)) (fun _ _ _ hu => setupRow_ready hu ..) h

theorem setupRows_self {l m : List Nat} {row c : Nat} (hrow : row ∈ l) (hc : c ∈ m) (r : Rigging) (role odd gf : Nat) (s : State) :
    TreadReady ((setupRows r role odd gf l m s).tread (treadId gf row c)) :=
  foldl_establishes (P := fun u => TreadReady (u.tread (treadId gf row c))) hrow (fun _ => setupRow_self hc ..)
    (fun _ _ _ hu => setupRow_ready hu ..) s

theorem setupFlight_ready {t : Nat} {s : State} (h : TreadReady (s.tread t)) (r : Rigging) (role odd gf : Nat) :
    TreadReady ((setupFlight r role odd gf s).tread t) := by
  rw [setupFlight_eq]
  exact setupRows_ready h ..

theorem setupFlight_self {row c : Nat} (hrow : row < 16) (hc : c < 17) (r : Rigging) (role odd gf : Nat) (s : State) :
    TreadReady ((setupFlight r role odd gf s).tread (treadId gf row c)) := by
  rw [setupFlight_eq]
  exact setupRows_self (mem_upFrom.2 ⟨Nat.zero_le row, by omega⟩) (mem_upFrom.2 ⟨Nat.zero_le c, by omega⟩) ..

theorem commitTreads_ready {r : Rigging} {place : Tbl Nat} {x : Nat × Nat} (hx : x ∈ r.standing place) {row c : Nat} (hrow : row < 16)
    (hc : c < 17) (s : State) : TreadReady ((commitTreads r place s).tread (treadId x.2 row c)) := by
  refine foldl_establishes (P := fun u => TreadReady (u.tread (treadId x.2 row c))) hx (fun u => ?_) (fun u y _ hu => ?_) s
  · exact setupFlight_self hrow hc r x.1 _ x.2 u
  · exact setupFlight_ready hu ..

theorem commitLoad_ready {r : Rigging} {place : Tbl Nat} {x : Nat × Nat} (hx : x ∈ r.standing place) {row c : Nat} (hrow : row < 16)
    (hc : c < 17) (p : Nat) (s : State) : TreadReady ((commitLoad p r place s).tread (treadId x.2 row c)) := by
  have htreads : (commitLoad p r place s).treads = (commitWork p r place s).treads := commitLoad_after p r place s .treads (by decide)
  rw [State.tread, htreads]
  exact commitTreads_ready hx hrow hc _

/-! The end of Apply (03 R110, R112): the flights of a placement. -/

/-- The flights of a placement that a new one does without are taken to OFF. -/
def leavesOff (kept : List Nat) (l : List (Nat × Nat)) (s : State) : State :=
  l.foldl (fun s x => if x.2 ∈ kept then s else flightOff x.2 s) s

/-- The flights of a placement are asked up. -/
def stageUps (r : Rigging) (l : List (Nat × Nat)) (s : State) : State := l.foldl (fun s x => stageUp r x.1 x.2 s) s

/-- The state in which the flights of a new placement are asked up. -/
def placed (p : Nat) (r : Rigging) (place : Tbl Nat) (s : State) : State :=
  let u := leavesOff ((r.standing place).map Prod.snd) (r.standing (s.rig p).place) s
  u.setRig p { u.rig p with place := place }

theorem applyPlacement_eq (p : Nat) (r : Rigging) (place : Tbl Nat) (s : State) :
    applyPlacement p r place s = stageUps r (r.standing place) (placed p r place s) := rfl

theorem flightOff_waking_other {g x : Nat} (h : x ≠ g) (s : State) :
    tget 0 (flightOff g s).power.waking x = tget 0 s.power.waking x := by
  rw [flightOff_power]
  exact tget_tset_other (d := 0) s.power.waking 0 h

theorem flightOff_state_other {g x : Nat} (hx : x < 1184) (h : x ≠ g) (s : State) :
    (flightOff g s).get (Reg.DOMAIN_STATE_STATE x) = s.get (Reg.DOMAIN_STATE_STATE x) := by
  refine flightOff_writes g s _ ?_
  simp only [isFlightField, Fld.key, Reg.DOMAIN_STATE_STATE]
  omega

/-- A flight that is kept stays as it is. -/
theorem leavesOff_kept {kept : List Nat} {x : Nat} (hx : x < 1184) (hk : x ∈ kept) (l : List (Nat × Nat)) (s : State) :
    (leavesOff kept l s).get (Reg.DOMAIN_STATE_STATE x) = s.get (Reg.DOMAIN_STATE_STATE x)
    ∧ tget 0 (leavesOff kept l s).power.waking x = tget 0 s.power.waking x := by
  refine foldl_preserves (P := fun u => u.get (Reg.DOMAIN_STATE_STATE x) = s.get (Reg.DOMAIN_STATE_STATE x)
    ∧ tget 0 u.power.waking x = tget 0 s.power.waking x) (fun u y _ hu => ?_) ⟨rfl, rfl⟩
  split
  · exact hu
  next hy =>
    have hne : x ≠ y.2 := fun e => hy (e ▸ hk)
    exact ⟨(flightOff_state_other hx hne u).trans hu.1, (flightOff_waking_other hne u).trans hu.2⟩

theorem leavesOff_keeps (kept : List Nat) (l : List (Nat × Nat)) (s : State) :
    KeepsBut [.regs, .power, .treads, .flights] s (leavesOff kept l s) := foldl_keeps (fun u x _ => by
  split
  · exact .refl _ u
  · exact flightOff_keeps x.2 u) s

theorem leavesOff_writes {l : List (Nat × Nat)} (kept : List Nat) (s : State) :
    Writes (fun k => ∃ x ∈ l, isFlightField x.2 k) s (leavesOff kept l s) := foldl_writes (fun u x hx => by
  split
  · exact .refl _ u
  · exact (flightOff_writes x.2 u).mono fun _ hk => ⟨x, hx, hk⟩) s

theorem wakeAt_keeps (code gf : Nat) (s : State) : KeepsBut [.power] s (wakeAt code gf s) :=
  keepsBut_of_veil (wakeAt_frame (fun _ _ => rfl) code gf s)

theorem wakeAt_off {gf : Nat} {s : State} (h : s.get (Reg.DOMAIN_STATE_STATE gf) = 3) (code : Nat) :
    tget 0 (wakeAt code gf s).power.waking gf ≠ 0 := by
  rw [wakeAt, if_pos h]
  simp [State.setPower]

theorem wakeAt_up {gf : Nat} {s : State} (h : s.get (Reg.DOMAIN_STATE_STATE gf) ≠ 3) (code : Nat) : wakeAt code gf s = s := if_neg h

/-- A flight that waits to leave OFF goes on waiting when any flight is asked up. -/
theorem wakeAt_waits {x : Nat} {s : State} (h : tget 0 s.power.waking x ≠ 0) (code gf : Nat) :
    tget 0 (wakeAt code gf s).power.waking x ≠ 0 := by
  by_cases hoff : s.get (Reg.DOMAIN_STATE_STATE gf) = 3
  · by_cases hx : x = gf
    · exact hx ▸ wakeAt_off hoff code
    · rw [wakeAt, if_pos hoff]
      simpa only [State.setPower, tget_tset_other _ _ hx] using h
  · rwa [wakeAt_up hoff]

/-- The code at which the load asks a flight of a role up. -/
def stageCode (r : Rigging) (role gf : Nat) (s : State) : Nat :=
  let v := ((r.gangRole? role).bind fun g => r.vdom? g.slot).getD ⟨0, 0, 0, 0, 0, 0⟩
  ((upFrom v.vMin (v.vMax - v.vMin + 1)).find? fun c => decide (v.nominal ≤ s.domainRate gf c)).getD v.vMax

theorem stageUp_eq (r : Rigging) (role gf : Nat) (s : State) : stageUp r role gf s = wakeAt (stageCode r role gf s) gf s := rfl

theorem stageUps_keeps (r : Rigging) (l : List (Nat × Nat)) (s : State) : KeepsBut [.power] s (stageUps r l s) :=
  foldl_keeps (fun u _ _ => stageUp_eq r _ _ u ▸ wakeAt_keeps _ _ u) s

theorem stageUps_get (r : Rigging) (l : List (Nat × Nat)) (s : State) (f : Fld) : (stageUps r l s).get f = s.get f :=
  (stageUps_keeps r l s).writes (by decide) (fun _ => False) f (by simp)

theorem stageUps_still {l : List (Nat × Nat)} {s : State} (h : ∀ x ∈ l, s.get (Reg.DOMAIN_STATE_STATE x.2) ≠ 3) (r : Rigging) :
    stageUps r l s = s := by
  induction l with
  | nil => rfl
  | cons x l ih =>
    rw [stageUps, List.foldl_cons, stageUp_eq, wakeAt_up (h x (by simp))]
    exact ih fun y hy => h y (by simp [hy])

theorem stageUps_waits {x : Nat} {s : State} (h : tget 0 s.power.waking x ≠ 0) (r : Rigging) (l : List (Nat × Nat)) :
    tget 0 (stageUps r l s).power.waking x ≠ 0 :=
  foldl_preserves (P := fun u => tget 0 u.power.waking x ≠ 0) (fun u _ _ hu => stageUp_eq r _ _ u ▸ wakeAt_waits hu _ _) h

theorem stageUps_off {l : List (Nat × Nat)} {x : Nat × Nat} (hx : x ∈ l) {s : State} (h : s.get (Reg.DOMAIN_STATE_STATE x.2) = 3)
    (r : Rigging) : tget 0 (stageUps r l s).power.waking x.2 ≠ 0 := by
  have get_stageUp : ∀ (y : Nat × Nat) (u : State) (f : Fld), (stageUp r y.1 y.2 u).get f = u.get f := fun y u f =>
    (wakeAt_keeps _ _ u).writes (by decide) (fun _ => False) f (by simp)
  refine foldl_establishes (P := fun u => u.get (Reg.DOMAIN_STATE_STATE x.2) = 3 → tget 0 u.power.waking x.2 ≠ 0) hx
    (fun u hu => ?_) (fun u y _ ih hu => ?_) s ((stageUps_get r l s _).trans h)
  · rw [get_stageUp] at hu
    exact wakeAt_off hu _
  · rw [get_stageUp] at hu
    exact wakeAt_waits (ih hu) _ _

theorem placed_rig (p : Nat) (r : Rigging) (place : Tbl Nat) (s : State) :
    (placed p r place s).rig p = { s.rig p with place := place } ∧ OtherRigs p s (placed p r place s) := by
  have hoff := leavesOff_keeps ((r.standing place).map Prod.snd) (r.standing (s.rig p).place) s
  refine ⟨(rig_setRig_self p _ _).trans (by rw [hoff.rig (by decide)]), ?_⟩
  exact (OtherRigs.after_keeps hoff (by decide) (otherRigs_setRig p _ _))

theorem placed_flight {r : Rigging} {place : Tbl Nat} {x : Nat × Nat} (hx : x ∈ r.standing place) (hlt : x.2 < 1184) (p : Nat)
    (s : State) : (placed p r place s).get (Reg.DOMAIN_STATE_STATE x.2) = s.get (Reg.DOMAIN_STATE_STATE x.2)
    ∧ tget 0 (placed p r place s).power.waking x.2 = tget 0 s.power.waking x.2 :=
  leavesOff_kept hlt (List.mem_map_of_mem hx) _ s

theorem applyPlacement_rig (p : Nat) (r : Rigging) (place : Tbl Nat) (s : State) :
    (applyPlacement p r place s).rig p = { s.rig p with place := place } ∧ OtherRigs p s (applyPlacement p r place s) := by
  obtain ⟨hself, hother⟩ := placed_rig p r place s
  have hup : KeepsBut [.power] (placed p r place s) (applyPlacement p r place s) := stageUps_keeps r _ _
  exact ⟨(hup.rig (by decide) p).trans hself, hother.then_keeps hup (by decide)⟩

/-- A field beside those of the old placement's flights. -/
theorem applyPlacement_get {p : Nat} {r : Rigging} {s : State} {f : Fld}
    (hf : ∀ x ∈ r.standing (s.rig p).place, ¬isFlightField x.2 f.key) (place : Tbl Nat) :
    (applyPlacement p r place s).get f = s.get f :=
  (stageUps_get r _ _ f).trans (leavesOff_writes _ s f fun ⟨x, hx, hk⟩ => hf x hx hk)

/-- Where every flight of a placement is up, nothing waits. -/
theorem applyPlacement_awake {p : Nat} {r : Rigging} {place : Tbl Nat} {s : State}
    (h : ∀ x ∈ r.standing place, x.2 < 1184 ∧ s.get (Reg.DOMAIN_STATE_STATE x.2) ≠ 3 ∧ tget 0 s.power.waking x.2 = 0) :
    (applyPlacement p r place s).waking ((r.standing place).map Prod.snd) = false := by
  have hstill : applyPlacement p r place s = placed p r place s := (applyPlacement_eq p r place s).trans
    (stageUps_still (fun x hx => (placed_flight hx (h x hx).1 p s).1 ▸ (h x hx).2.1) r)
  rw [hstill, State.waking, List.any_eq_false]
  intro g hg
  obtain ⟨x, hx, rfl⟩ := List.mem_map.1 hg
  rw [(placed_flight hx (h x hx).1 p s).2, (h x hx).2.2]
  simp

/-- A flight of the new placement that is in OFF is asked up. -/
theorem applyPlacement_off {p : Nat} {r : Rigging} {place : Tbl Nat} {s : State} {x : Nat × Nat} (hx : x ∈ r.standing place)
    (hlt : x.2 < 1184) (h : s.get (Reg.DOMAIN_STATE_STATE x.2) = 3) : tget 0 (applyPlacement p r place s).power.waking x.2 ≠ 0 :=
  stageUps_off hx ((placed_flight hx hlt p s).1.trans h) r

theorem applyPlacement_waits {p : Nat} {r : Rigging} {place : Tbl Nat} {s : State} {x : Nat × Nat} (hx : x ∈ r.standing place)
    (hlt : x.2 < 1184) (h : ¬(s.get (Reg.DOMAIN_STATE_STATE x.2) ≠ 3 ∧ tget 0 s.power.waking x.2 = 0)) :
    (applyPlacement p r place s).waking ((r.standing place).map Prod.snd) = true := by
  rw [State.waking, List.any_eq_true]
  refine ⟨x.2, List.mem_map_of_mem hx, bne_iff_ne.2 ?_⟩
  by_cases hoff : s.get (Reg.DOMAIN_STATE_STATE x.2) = 3
  · exact applyPlacement_off hx hlt hoff
  · have hwait : tget 0 s.power.waking x.2 ≠ 0 := fun h0 => h ⟨hoff, h0⟩
    rw [applyPlacement_eq]
    exact stageUps_waits (by rwa [(placed_flight hx hlt p s).2]) r _

/-! A load refused (03 R112, R124). -/

/-- What a refused load shows, before its slot is cleared. -/
def refuseShows (p : Nat) (f : RigFail) (s : State) : State :=
  s.setRig p { s.rig p with image := none, live := false, place := [] }
    |> setLd p Ld.refused |> set (Reg.RIG_ERROR_CODE p) f.code |> set (Reg.RIG_ERROR_SECTION p) f.section_
    |> set (Reg.RIG_ERROR_ENTRY_ENTRY p) f.entry |> set (Reg.RIG_ERROR_GF_VALID p) (b2n f.gf.isSome)
    |> set (Reg.RIG_ERROR_GF p) (f.gf.getD 0)

theorem refuseShows_rig (p : Nat) (f : RigFail) (s : State) :
    (refuseShows p f s).rig p = { s.rig p with image := none, live := false, place := [] } ∧ OtherRigs p s (refuseShows p f s) :=
  ⟨rig_setRig_self p _ s, otherRigs_setRig p _ s⟩

theorem refuseShows_ldState (p : Nat) (f : RigFail) (s : State) : (refuseShows p f s).ldState p = 7 := by
  rw [State.ldState, refuseShows, get_set_other _ _ (by simp only [Fld.key, Reg.RIG_STATUS_STATE, Reg.RIG_ERROR_GF]; omega),
    get_set_other _ _ (by simp only [Fld.key, Reg.RIG_STATUS_STATE, Reg.RIG_ERROR_GF_VALID]; omega),
    get_set_other _ _ (by simp only [Fld.key, Reg.RIG_STATUS_STATE, Reg.RIG_ERROR_ENTRY_ENTRY]; omega),
    get_set_other _ _ (by simp only [Fld.key, Reg.RIG_STATUS_STATE, Reg.RIG_ERROR_SECTION]; omega),
    get_set_other _ _ (by simp only [Fld.key, Reg.RIG_STATUS_STATE, Reg.RIG_ERROR_CODE]; omega)]
  exact get_set_self _ _ _

theorem refuseShows_code (p : Nat) (f : RigFail) (s : State) :
    (refuseShows p f s).get (Reg.RIG_ERROR_CODE p) = f.code % 2 ^ (Reg.RIG_ERROR_CODE p).width := by
  rw [refuseShows, get_set_other _ _ (by simp only [Fld.key, Reg.RIG_ERROR_CODE, Reg.RIG_ERROR_GF]; omega),
    get_set_other _ _ (by simp only [Fld.key, Reg.RIG_ERROR_CODE, Reg.RIG_ERROR_GF_VALID]; omega),
    get_set_other _ _ (by simp only [Fld.key, Reg.RIG_ERROR_CODE, Reg.RIG_ERROR_ENTRY_ENTRY]; omega),
    get_set_other _ _ (by simp only [Fld.key, Reg.RIG_ERROR_CODE, Reg.RIG_ERROR_SECTION]; omega)]
  exact get_set_self _ _ _

/-- The fields of a partition's load: RIG_STATUS, RIG_ERROR and the entry that failed. -/
def isLoadField (p k : Nat) : Prop := k / 64 = 0x408004 + p * 0x80 ∨ k / 64 = 0x408008 + p * 0x80 ∨ k / 64 = 0x40800c + p * 0x80

theorem refuseShows_writes (p : Nat) (f : RigFail) (s : State) : Writes (isLoadField p) s (refuseShows p f s) := by
  intro g hg
  have hset : ∀ (h : Fld), isLoadField p h.key → ∀ (v : Nat) (u : State), (u.set h v).get g = u.get g :=
    fun h hh v u => get_set_other v u fun e => hg (e ▸ hh)
  rw [refuseShows, hset (Reg.RIG_ERROR_GF p) (by simp only [isLoadField, Fld.key, Reg.RIG_ERROR_GF]; omega),
    hset (Reg.RIG_ERROR_GF_VALID p) (by simp only [isLoadField, Fld.key, Reg.RIG_ERROR_GF_VALID]; omega),
    hset (Reg.RIG_ERROR_ENTRY_ENTRY p) (by simp only [isLoadField, Fld.key, Reg.RIG_ERROR_ENTRY_ENTRY]; omega),
    hset (Reg.RIG_ERROR_SECTION p) (by simp only [isLoadField, Fld.key, Reg.RIG_ERROR_SECTION]; omega),
    hset (Reg.RIG_ERROR_CODE p) (by simp only [isLoadField, Fld.key, Reg.RIG_ERROR_CODE]; omega), setLd,
    hset (Reg.RIG_STATUS_STATE p) (by simp only [isLoadField, Fld.key, Reg.RIG_STATUS_STATE]; omega)]
  rfl

theorem slotClear_keeps (p : Nat) (s : State) : KeepsBut [.mem, .memCheck, .memEpoch, .memKey] s (slotClear p s) := by
  apply keepsBut_of_veil
  apply slotClear_frame <;> exact fun _ _ => rfl

/-- A load refused with a code has ended as 03 R123 and R124 say, whatever was undone before without touching riggings or memory. -/
theorem refuseLoad_refused {p : Nat} {f : RigFail} (hcode : f.code < 256) {s t : State} {l : List Area} (hk : KeepsBut l s t)
    (hrigs : .rigs ∉ l) (hmem : .mem ∉ l) : LoadRefused p f.code s (refuseLoad p f t) := by
  obtain ⟨hself, hother⟩ := refuseShows_rig p f t
  have hclear := slotClear_keeps p (refuseShows p f t)
  have hrig : (refuseLoad p f t).rig p = { t.rig p with image := none, live := false, place := [] } := (hclear.rig (by decide) p).trans hself
  have hget : ∀ g : Fld, (refuseLoad p f t).get g = (refuseShows p f t).get g := fun g =>
    hclear.writes (by decide) (fun _ => False) g (by simp)
  refine ⟨(hget _).trans (refuseShows_ldState p f t), (hget _).trans ((refuseShows_code p f t).trans (Nat.mod_eq_of_lt hcode)),
    by rw [hrig], by rw [hrig], fun o hlo hhi => memByte_clearRange_in ⟨hlo, hhi⟩ _, ?_, ?_⟩
  · exact bytesBut_congr (bytesBut_clearRange (imageSlot p) 0x2000_0000 (refuseShows p f t)) (hk.mem hmem) rfl
  · exact OtherRigs.after_keeps hk hrigs (hother.then_keeps hclear (by decide))

theorem refuseLoad_flight {p g : Nat} (hg : g < 1184) (f : RigFail) (s : State) :
    (refuseLoad p f s).get (Reg.DOMAIN_STATE_STATE g) = s.get (Reg.DOMAIN_STATE_STATE g) := by
  refine ((slotClear_keeps p _).writes (by decide) (fun _ => False) _ (by simp)).trans (refuseShows_writes p f s _ ?_)
  simp only [isLoadField, Fld.key, Reg.DOMAIN_STATE_STATE]
  omega

theorem unstage_state {p : Nat} {r : Rigging} {s : State} (hr : (s.rig p).image = some r) {x : Nat × Nat}
    (hx : x ∈ r.standing (s.rig p).place) (hlt : x.2 < 1184) : (unstage p s).get (Reg.DOMAIN_STATE_STATE x.2) = 3 := by
  rw [unstage, hr]
  refine foldl_establishes (P := fun u => u.get (Reg.DOMAIN_STATE_STATE x.2) = 3) hx (fun u => ?_) (fun u y _ hu => ?_) s
  · exact flightOff_state x.2 u
  · exact flightOff_keeps_off hlt hu

/-! RIG_APPLY_COMPLETE. -/

theorem applyEnds_inr {p : Nat} {r : Rigging} {s : State} {role : Nat} (h : s.placement p r = .inr role) :
    applyEnds p r s = refuseLoad p (plainFail 0x24) (unstage p s) := by
  rw [applyEnds, h]

theorem applyEnds_waits {p : Nat} {r : Rigging} {s : State} {place : Tbl Nat} (h : s.placement p r = .inl place)
    (hw : (applyPlacement p r place s).waking ((r.standing place).map Prod.snd) = true) :
    applyEnds p r s = applyPlacement p r place s := by
  rw [applyEnds, h]
  exact if_pos hw

theorem applyEnds_commits {p : Nat} {r : Rigging} {s : State} {place : Tbl Nat} (h : s.placement p r = .inl place)
    (hw : (applyPlacement p r place s).waking ((r.standing place).map Prod.snd) = false) :
    applyEnds p r s = commitLoad p r place (applyPlacement p r place s) := by
  rw [applyEnds, h]
  exact if_neg (by rw [hw]; exact Bool.false_ne_true)

theorem applyEnds_keeps (p : Nat) (r : Rigging) (s : State) :
    KeepsBut [.regs, .pkg, .seq, .out, .power, .rigs, .treads, .chans, .knots, .flights, .stages, .ctxs, .landings, .parts, .reds, .mem,
      .memCheck, .memEpoch, .memKey, .ropes, .fabric, .rings, .svcs, .det] s (applyEnds p r s) := by
  unfold applyEnds
  split
  next => exact ((unstage_keeps p s).mono (by decide)).trans ((refuseLoad_keeps p _ _).mono (by decide))
  next place _ =>
    have happly := applyPlacement_keeps p r place s
    split
    · exact happly.mono (by decide)
    · exact (happly.mono (by decide)).trans
        (((commitWork_keeps p r place _).mono (by decide)).trans ((commitLoad_after p r place _).mono (by decide)))

theorem placeRoles_congr {s t : State} (h : t.fence = s.fence) (r : Rigging) (others : Tbl Nat) (roles : List Nat) (place : Tbl Nat)
    (taken : List Nat) : t.placeRoles r others roles place taken = s.placeRoles r others roles place taken := by
  have hfenced : ∀ x, t.flightFenced x = s.flightFenced x := fun x => by rw [State.flightFenced, h]; rfl
  have halt : ∀ place taken role, t.alternate? r others place taken role = s.alternate? r others place taken role :=
    fun place taken role => by simp only [State.alternate?, hfenced]
  induction roles generalizing place taken with
  | nil => rfl
  | cons role rest ih => simp only [State.placeRoles, hfenced, halt, ih]

theorem placement_out (p : Nat) (r : Rigging) (s : State) (x : List Out) : State.placement { s with out := x } p r = s.placement p r :=
  placeRoles_congr (by rfl) r _ _ _ _

/-- RIG_APPLY_COMPLETE in APPLY with an image answers what the end of Apply gives. -/
theorem rigApplyComplete_gives {p : Nat} {r : Rigging} {s : State} (hp : p < 8) (hld : s.ldState p = 5)
    (hr : (s.rig p).image = some r) {P : State → Prop} (h : P (applyEnds p r { s with out := [] })) :
    Gives (.rigApplyComplete p) s P := by
  have hc : exec (.rigApplyComplete p) s = perform true (fun s => if s.ldState p ≠ Ld.apply then s else applyImage p s) s :=
    (execRigApplyComplete_eq p s).trans (perform_eq_of_effect (by simpa [partOk] using hp) rfl)
  have himage : applyImage p { s with out := [] } = applyEnds p r { s with out := [] } := by
    have hr' : (State.rig { s with out := [] } p).image = some r := hr
    rw [applyImage, hr']
  exact gives_value hc ((if_neg (not_not.2 hld)).trans himage) (applyEnds_keeps p r _ .pending (by decide)) h

section
variable {p : Nat} {r : Rigging} {s : State}

/-- The end of Apply with every placed flight up is the Commit. -/
theorem applyEnds_commit (hp : p < 8) (hr : (s.rig p).image = some r) {place : Tbl Nat} (hplace : s.placement p r = .inl place)
    (hup : ∀ x ∈ r.standing place, x.2 < 1184 ∧ s.get (Reg.DOMAIN_STATE_STATE x.2) ≠ 3 ∧ tget 0 s.power.waking x.2 = 0) :
    let u := applyEnds p r s
    u.partState p = 2 ∧ u.ldState p = 6 ∧ u.get (Reg.COMMITTED_INFO_VALID p) = 0 ∧ Recorded 0x0200 [] u
      ∧ (u.rig p).live = true ∧ (u.rig p).image = some r ∧ (u.rig p).place = place ∧ OtherRigs p s u
      ∧ u.pkg = (if s.pkg = .ready then .service else s.pkg) ∧ u.mem = s.mem
      ∧ ∀ x ∈ r.standing place, ∀ row c, row < 16 → c < 17 → TreadReady (u.tread (treadId x.2 row c)) := by
  have happly := applyPlacement_keeps p r place s
  obtain ⟨hplaced, hothers⟩ := applyPlacement_rig p r place s
  obtain ⟨hrig, hother⟩ := commitLoad_rig p r place (applyPlacement p r place s)
  rw [applyEnds_commits hplace (applyPlacement_awake hup)]
  refine ⟨commitLoad_partState hp r place _, commitLoad_ldState hp r place _, commitLoad_infoValid r place _,
    commitLoad_recorded p r place _, by rw [hrig]; rfl, ?_, by rw [hrig]; rfl, hothers.trans hother, ?_,
    (commitLoad_mem p r place _).trans (happly.mem (by decide)), fun x hx row c hrow hc => commitLoad_ready hx hrow hc p _⟩
  · rw [hrig, hplaced]
    exact hr
  · rw [commitLoad_pkg, happly .pkg (by decide)]

/-- The end of Apply with a placed flight still in OFF waits for it. -/
theorem applyEnds_wait (hp : p < 8) (hld : s.ldState p = 5) (hr : (s.rig p).image = some r)
    (hold : ∀ x ∈ r.standing (s.rig p).place, x.2 < 1184) {place : Tbl Nat} (hplace : s.placement p r = .inl place)
    (hlt : ∀ x ∈ r.standing place, x.2 < 1184)
    (hwait : ∃ x ∈ r.standing place, ¬(s.get (Reg.DOMAIN_STATE_STATE x.2) ≠ 3 ∧ tget 0 s.power.waking x.2 = 0)) :
    let u := applyEnds p r s
    u.ldState p = 5 ∧ u.partState p = s.partState p ∧ (u.rig p).live = (s.rig p).live ∧ (u.rig p).image = some r
      ∧ (u.rig p).place = place ∧ OtherRigs p s u ∧ u.mem = s.mem
      ∧ ∀ x ∈ r.standing place, s.get (Reg.DOMAIN_STATE_STATE x.2) = 3 → tget 0 u.power.waking x.2 ≠ 0 := by
  obtain ⟨x, hx, hxw⟩ := hwait
  obtain ⟨hrig, hother⟩ := applyPlacement_rig p r place s
  rw [applyEnds_waits hplace (applyPlacement_waits hx (hlt x hx) hxw)]
  refine ⟨(applyPlacement_get (fun y hy => ?_) place).trans hld, applyPlacement_get (fun y hy => ?_) place, by rw [hrig], by rw [hrig]; exact hr,
    by rw [hrig], hother, applyPlacement_keeps p r place s .mem (by decide), fun y hy hoff => applyPlacement_off hy (hlt y hy) hoff⟩
  · have hylt := hold y hy
    simp only [isFlightField, Fld.key, Reg.RIG_STATUS_STATE]
    omega
  · simp only [isFlightField, Fld.key, partFld]
    omega

/-- The end of Apply with a role that has no placement refuses the load. -/
theorem applyEnds_refuse (hr : (s.rig p).image = some r) (hold : ∀ x ∈ r.standing (s.rig p).place, x.2 < 1184) {role : Nat}
    (hrole : s.placement p r = .inr role) : let u := applyEnds p r s
    LoadRefused p 0x24 s u ∧ ∀ x ∈ r.standing (s.rig p).place, u.get (Reg.DOMAIN_STATE_STATE x.2) = 3 := by
  rw [applyEnds_inr hrole]
  refine ⟨refuseLoad_refused (f := plainFail 0x24) (by decide) (unstage_keeps p s) (by decide) (by decide), fun x hx => ?_⟩
  exact (refuseLoad_flight (hold x hx) _ _).trans (unstage_state hr hx (hold x hx))

end

theorem rigCommits : Claims.RigCommits := by
  intro p r s hp hld hr hold
  refine ⟨fun place hplace hup => ?_, fun place hplace hlt hwait => ?_, fun role hrole => ?_⟩
  · exact rigApplyComplete_gives hp hld hr
      (applyEnds_commit (s := { s with out := [] }) hp hr ((placement_out p r s []).trans hplace) hup)
  · exact rigApplyComplete_gives hp hld hr
      (applyEnds_wait (s := { s with out := [] }) hp hld hr hold ((placement_out p r s []).trans hplace) hlt hwait)
  · exact rigApplyComplete_gives hp hld hr
      (applyEnds_refuse (s := { s with out := [] }) hr hold ((placement_out p r s []).trans hrole))

/-! RELEASE, and the end of its wind-down (03 R115, R121, R123). -/

theorem beginWindDown_rig (p : Nat) (s : State) : KeepsBut [.rigs] s (beginWindDown p s) ∧ ((beginWindDown p s).rig p).winding = true
    ∧ ((beginWindDown p s).rig p).image = (s.rig p).image ∧ OtherRigs p s (beginWindDown p s) := by
  refine ⟨keepsBut_of_veil (beginWindDown_frame (fun _ _ => rfl) p s), ?_⟩
  unfold beginWindDown
  dsimp only
  split
  next hw => exact ⟨hw, rfl, fun _ _ => rfl⟩
  next =>
    rw [rig_setRig_self]
    exact ⟨rfl, rfl, otherRigs_setRig p _ s⟩

theorem execRigRelease_eq (p : Nat) (value : W32) (s : State) (hp : p < 8) : execRigRelease ⟨p, value⟩ s =
    perform true (fun s => if s.pkg == .boot then s else if bits value.toNat 0 3 = 4 then beginRelease p s else s) s :=
  perform_eq_of_effect (by simpa [partOk] using hp) rfl

theorem rigRelease_begins {p : Nat} {value : W32} {s : State} (hp : p < 8) (hv : bits value.toNat 0 3 = 4) (hup : s.pkg ≠ .boot)
    (hld : s.ldState p = 6) : Gives (.rigRelease ⟨p, value⟩) s fun u =>
      KeepsBut [.regs, .rigs, .out] s u ∧ FieldsBut [Reg.RIG_STATUS_STATE p] s u ∧ u.ldState p = 8
      ∧ (u.rig p).winding = true ∧ (u.rig p).image = (s.rig p).image ∧ OtherRigs p s u := by
  have hbegins : beginRelease p { s with out := [] } = beginWindDown p (setLd p Ld.releasing { s with out := [] }) := if_pos hld
  obtain ⟨hk, hwinding, himage, hother⟩ := beginWindDown_rig p (setLd p Ld.releasing { s with out := [] })
  have hld' : KeepsBut [.regs, .rigs, .out] s (setLd p Ld.releasing { s with out := [] }) :=
    ((keepsBut_out s []).mono (by decide)).trans ((keepsBut_set _ _ _).mono (by decide))
  have hget : ∀ f : Fld, (beginWindDown p (setLd p Ld.releasing { s with out := [] })).get f = (setLd p Ld.releasing { s with out := [] }).get f :=
    fun f => hk.writes (by decide) (fun _ => False) f (by simp)
  refine gives_value (execRigRelease_eq p value s hp) ((if_neg (by simpa using hup)).trans ((if_pos hv).trans hbegins))
    (hk .pending (by decide)) ⟨hld'.trans (hk.mono (by decide)), fun f hf => ?_, ?_, hwinding, himage, hother⟩
  · exact (hget f).trans (get_set_other _ { s with out := [] } (by simpa using hf))
  · exact (hget _).trans (get_set_self _ _ _)

theorem rigRelease_ignored {p : Nat} {value : W32} {s : State} (hp : p < 8) (h : bits value.toNat 0 3 ≠ 4 ∨ s.ldState p ≠ 6) :
    Gives (.rigRelease ⟨p, value⟩) s (KeepsBut [.out] s) := by
  refine gives_still (execRigRelease_eq p value s hp) ?_
  dsimp only
  split
  · rfl
  · split
    next hv => exact if_neg (h.resolve_left (not_not.2 hv))
    · rfl

theorem releaseShows_rig (p : Nat) (s : State) : (releaseShows p s).rig p = Rig.init ∧ OtherRigs p s (releaseShows p s) := by
  have measure : KeepsBut [.regs] s ((upFrom 0 16).foldl (fun s w => s.set (Reg.RIG_MEASURE p w) 0) s) :=
    foldl_keeps (fun u _ _ => keepsBut_regs u _) s
  have hrigs : (releaseShows p s).rigs = (((upFrom 0 16).foldl (fun s w => s.set (Reg.RIG_MEASURE p w) 0) s).setRig p Rig.init).rigs := by
    simp only [releaseShows, setSvcState, setLd, set_rigs, setSvc_rigs, setPart_rigs]
  have hrig : ∀ q, (releaseShows p s).rig q
      = (((upFrom 0 16).foldl (fun s w => s.set (Reg.RIG_MEASURE p w) 0) s).setRig p Rig.init).rig q := fun q => by
    rw [State.rig, hrigs, State.rig]
  exact ⟨(hrig p).trans (rig_setRig_self p _ _), fun q hq => (hrig q).trans ((otherRigs_setRig p _ _ q hq).trans (measure.rig (by decide) q))⟩

theorem releaseShows_svc (p : Nat) (s : State) : (releaseShows p s).svc p = Svc.init := by
  simp only [releaseShows, setSvcState, setLd, State.svc, set_svcs, setSvc_svcs, tget_tset_self]
  rfl

theorem releaseShows_partState {p : Nat} (hp : p < 8) (s : State) : (releaseShows p s).partState p = 1 := by
  rw [State.partState, releaseShows, get_set_other _ _ (by simp only [Fld.key, partFld, Reg.RERIG_LAST_BUSY]; omega), setLd,
    get_set_other _ _ (by simp only [Fld.key, partFld, Reg.RIG_STATUS_STATE]; omega)]
  exact get_set_self _ _ _

theorem releaseShows_ldState {p : Nat} (hp : p < 8) (s : State) : (releaseShows p s).ldState p = 0 := by
  rw [State.ldState, releaseShows, get_set_other _ _ (by simp only [Fld.key, Reg.RIG_STATUS_STATE, Reg.RERIG_LAST_BUSY]; omega), setLd]
  exact get_set_self _ _ _

theorem releaseTold_after (p : Nat) (s : State) :
    KeepsBut [.regs, .pkg, .seq, .rings, .det] (releaseShows p (releaseFrees p s)) (releaseTold p s) := by
  have hraise := (raise_keeps Ev.rigReleased (partStamp p) [] (leavesService (releaseShows p (releaseFrees p s)))).mono
    (m := [.regs, .pkg, .seq, .rings, .det]) (by decide)
  exact ((leavesService_keeps _).mono (by decide)).trans hraise

theorem releaseTold_get (p : Nat) (s : State) {f : Fld} (hf : f.key % 4096 ≠ 1280) :
    (releaseTold p s).get f = (releaseShows p (releaseFrees p s)).get f :=
  (raise_writes _ _ _ _ f (not_isDropCount hf)).trans ((leavesService_keeps _).writes (by decide) (fun _ => False) f (by simp))

/-- What is freed of an image before its slot is cleared keeps memory. -/
theorem releaseFrees_mem (p : Nat) (s : State) : (∀ o, imageSlot p ≤ o → o < imageSlot p + 0x2000_0000 → (releaseFrees p s).memByte o = 0)
    ∧ BytesBut (imageSlot p) 0x2000_0000 s (releaseFrees p s) := by
  have hfree : (s |> endInjectionOf p |> settleRows p |> freeImage p).mem = s.mem := by
    refine (freeImage_frame ?_ ?_ ?_ ?_ ?_ ?_ ?_ ?_ ?_ ?_ ?_ ?_ ?_ ?_ ?_ p _).trans ((settleRows_frame ?_ p _).trans
      (endInjectionOf_frame ?_ ?_ ?_ ?_ p s)) <;> exact fun _ _ => rfl
  have hclear : (releaseFrees p s).mem = (slotClear p (s |> endInjectionOf p |> settleRows p |> freeImage p)).mem :=
    showCapacity_frame (φ := State.mem) (fun _ _ => rfl) _
  refine ⟨fun o hlo hhi => ?_, bytesBut_congr (bytesBut_clearRange _ _ _) hfree hclear⟩
  rw [State.memByte, hclear]
  exact memByte_clearRange_in ⟨hlo, hhi⟩ _

theorem releaseTold_claims {p : Nat} (hp : p < 8) (s : State) : let u := releaseTold p s
    u.partState p = 1 ∧ u.ldState p = 0 ∧ u.rig p = Rig.init ∧ OtherRigs p s u ∧ Recorded 0x0201 [] u
      ∧ (∀ o, imageSlot p ≤ o → o < imageSlot p + 0x2000_0000 → u.memByte o = 0)
      ∧ BytesBut (imageSlot p) 0x2000_0000 s u ∧ u.svc p = Svc.init := by
  have hafter := releaseTold_after p s
  have hshows := releaseShows_keeps p (releaseFrees p s)
  obtain ⟨hrig, hother⟩ := releaseShows_rig p (releaseFrees p s)
  obtain ⟨hzero, hbytes⟩ := releaseFrees_mem p s
  have hmem : (releaseTold p s).mem = (releaseFrees p s).mem := (hafter.mem (by decide)).trans (hshows.mem (by decide))
  have hsvcs : (releaseTold p s).svcs = (releaseShows p (releaseFrees p s)).svcs := hafter .svcs (by decide)
  refine ⟨(releaseTold_get p s (by simp only [Fld.key, partFld]; omega)).trans (releaseShows_partState hp _),
    (releaseTold_get p s (by simp only [Fld.key, Reg.RIG_STATUS_STATE]; omega)).trans (releaseShows_ldState hp _),
    (hafter.rig (by decide) p).trans hrig,
    OtherRigs.after_keeps (releaseFrees_keeps p s) (by decide) (hother.then_keeps hafter (by decide)),
    recorded_raise 0x0201 _ _ _, fun o hlo hhi => ?_, bytesBut_congr hbytes rfl hmem, ?_⟩
  · rw [State.memByte, hmem]
    exact hzero o hlo hhi
  · rw [State.svc, hsvcs]
    exact releaseShows_svc p _

theorem rigReleased_gives {p : Nat} {s : State} (hp : p < 8) (hld : s.ldState p = 8) (hw : s.woundDown p = true)
    (hscrub : (s.rig p).scrubAfter = false) {P : State → Prop} (h : P (releaseTold p { s with out := [] })) :
    Gives (.rigReleased p) s P := by
  have hc : exec (.rigReleased p) s = perform true (fun s => if s.ldState p = Ld.releasing && s.woundDown p then releasePart p s else s) s :=
    perform_eq_of_effect (by simpa [partOk] using hp) rfl
  have htold : releasePart p { s with out := [] } = releaseTold p { s with out := [] } :=
    (releasePart_eq p _).trans (if_neg (show ¬(s.rig p).scrubAfter = true by simp [hscrub]))
  have hpending : (releaseTold p { s with out := [] }).pending = s.pending :=
    (releaseTold_after p _ .pending (by decide)).trans ((releaseShows_keeps p _ .pending (by decide)).trans
      (releaseFrees_keeps p { s with out := [] } .pending (by decide)))
  exact gives_value hc ((if_pos (show (decide (s.ldState p = Ld.releasing) && s.woundDown p) = true by simp [hld, hw, Ld.releasing])).trans
    htold) hpending h

theorem rigReleased_still {p : Nat} {s : State} (hp : p < 8) (h : s.ldState p ≠ 8 ∨ s.woundDown p = false) :
    Gives (.rigReleased p) s (KeepsBut [.out] s) := by
  have hc : exec (.rigReleased p) s = perform true (fun s => if s.ldState p = Ld.releasing && s.woundDown p then releasePart p s else s) s :=
    perform_eq_of_effect (by simpa [partOk] using hp) rfl
  refine gives_still hc (if_neg (show ¬(decide (s.ldState p = Ld.releasing) && s.woundDown p) = true from ?_))
  rcases h with h | h <;> simp [h, Ld.releasing]

theorem rigReleases : Claims.RigReleases := fun _ _ s hp =>
  ⟨fun hv hup hld => rigRelease_begins hp hv hup hld, fun h => rigRelease_ignored hp h,
    fun hld hw hscrub => rigReleased_gives hp hld hw hscrub (releaseTold_claims hp { s with out := [] }),
    fun h => rigReleased_still hp h⟩

/-- Settles O20: the end of Apply by its three outcomes, and a release by its beginning and its end. -/
theorem loadsCommitAndRelease : Obligations.LoadsCommitAndRelease := ⟨rigCommits, rigReleases⟩

/-! ## Self-test -/

/-! What a fence changes of the fence map (04 R146). -/

theorem endInjectionAt_keeps (gf : Nat) (t : Option Nat) (s : State) :
    KeepsBut [.regs, .seq, .rings, .det] s (endInjectionAt gf t s) := by
  apply keepsBut_of_veil
  apply endInjectionAt_frame <;> exact fun _ _ => rfl

theorem queueRerig_keeps (p : Nat) (x : Rerig) (s : State) : KeepsBut [.rigs] s (queueRerig p x s) :=
  keepsBut_of_veil (queueRerig_frame (fun _ _ => rfl) p x s)

theorem afterFence_keeps (gf : Nat) (s : State) : KeepsBut [.regs, .out, .rigs, .ropes, .svcs, .journal] s (afterFence gf s) := by
  apply keepsBut_of_veil
  apply afterFence_frame <;> exact fun _ _ => rfl

/-- The re-rig of a fenced flight is queued for the partition whose job runs there. -/
def rerigFenced (gf : Nat) (s : State) : State :=
  match s.fencePart gf with
  | some (p, role) => queueRerig p (.role role gf) s
  | none => s

/-- The partition that holds a fenced flight shows what it has left. -/
def showFenced (gf : Nat) (s : State) : State :=
  match s.flightPart gf with
  | some p => showRoles p s
  | none => s

/-- The fence map with a flight more. -/
def markFlight (gf : Nat) (inj : Bool) (s : State) : State :=
  { s with fence := { s.fence with flights := tset 0 s.fence.flights gf (if inj then 2 else 1) } }

theorem fenceFlight_eq (gf : Nat) (inj : Bool) (s : State) : fenceFlight gf inj s = if s.flightFenced gf then s
    else markFlight gf inj s |> flightOff gf |> endInjectionAt gf none |> rerigFenced gf |> showFenced gf |> afterFence gf := rfl

theorem rerigFenced_keeps (gf : Nat) (s : State) : KeepsBut [.rigs] s (rerigFenced gf s) := by
  unfold rerigFenced
  split
  · exact queueRerig_keeps _ _ s
  · exact .refl _ s

theorem showFenced_keeps (gf : Nat) (s : State) : KeepsBut [.regs] s (showFenced gf s) := by
  unfold showFenced
  split
  · exact showRoles_keeps _ s
  · exact .refl _ s

theorem KeepsBut.fence {l : List Area} {s u : State} (h : KeepsBut l s u) (hl : .fence ∉ l) : u.fence = s.fence := h .fence hl

theorem fenceFlight_fence {gf : Nat} {s : State} (h : s.flightFenced gf = false) (inj : Bool) :
    (fenceFlight gf inj s).fence = (markFlight gf inj s).fence := by
  rw [fenceFlight_eq, if_neg (by simp [h])]
  exact ((afterFence_keeps _ _).fence (by decide)).trans (((showFenced_keeps _ _).fence (by decide)).trans
    (((rerigFenced_keeps _ _).fence (by decide)).trans (((endInjectionAt_keeps _ _ _).fence (by decide)).trans
      ((flightOff_keeps _ _).fence (by decide)))))

theorem fenceFlight_fenced {gf : Nat} {s : State} (h : s.flightFenced gf = true) (inj : Bool) : fenceFlight gf inj s = s := by
  rw [fenceFlight_eq, if_pos h]

theorem flightFenced_congr {s u : State} (h : u.fence = s.fence) (g : Nat) : u.flightFenced g = s.flightFenced g := by
  rw [State.flightFenced, h]; rfl

theorem treadFenced_congr {s u : State} (h : u.fence = s.fence) (t : Nat) : u.treadFenced t = s.treadFenced t := by
  rw [State.treadFenced, h]; rfl

theorem markFlight_self (gf : Nat) (inj : Bool) (s : State) : (markFlight gf inj s).flightFenced gf = true := by
  have h : tget 0 (tset 0 s.fence.flights gf (if inj then 2 else 1)) gf ≠ 0 := by
    rw [tget_tset_self]
    cases inj <;> decide
  exact bne_iff_ne.2 h

theorem markFlight_other {gf g : Nat} (h : g ≠ gf) (inj : Bool) (s : State) : (markFlight gf inj s).flightFenced g = s.flightFenced g := by
  have ht : tget 0 (tset 0 s.fence.flights gf (if inj then 2 else 1)) g = tget 0 s.fence.flights g := tget_tset_other _ _ h
  exact congrArg (· != 0) ht

/-- A flight is fenced after a flight is fenced, when it was before or is that flight. -/
theorem fenceFlight_flightFenced (gf : Nat) (inj : Bool) (s : State) (g : Nat) :
    (fenceFlight gf inj s).flightFenced g = true ↔ s.flightFenced g = true ∨ g = gf := by
  cases hf : s.flightFenced gf with
  | true =>
    rw [fenceFlight_fenced hf]
    exact ⟨.inl, fun h => h.elim id fun e => e ▸ hf⟩
  | false =>
    rw [flightFenced_congr (fenceFlight_fence hf inj)]
    by_cases e : g = gf
    · subst e
      simp [markFlight_self]
    · simp [markFlight_other e, e]

theorem fenceFlight_treadFenced (gf : Nat) (inj : Bool) (s : State) (t : Nat) :
    (fenceFlight gf inj s).treadFenced t = s.treadFenced t := by
  cases hf : s.flightFenced gf with
  | true => rw [fenceFlight_fenced hf]
  | false =>
    rw [treadFenced_congr (fenceFlight_fence hf inj)]
    rfl

/-- What is fenced stays fenced. -/
def FenceGrows (s u : State) : Prop :=
  (∀ t, s.treadFenced t = true → u.treadFenced t = true) ∧ ∀ g, s.flightFenced g = true → u.flightFenced g = true

theorem FenceGrows.refl (s : State) : FenceGrows s s := ⟨fun _ => id, fun _ => id⟩

theorem FenceGrows.trans {s t u : State} (h : FenceGrows s t) (h' : FenceGrows t u) : FenceGrows s u :=
  ⟨fun x hx => h'.1 x (h.1 x hx), fun x hx => h'.2 x (h.2 x hx)⟩

theorem fenceGrows_of_fence {s u : State} (h : u.fence = s.fence) : FenceGrows s u :=
  ⟨fun t ht => (treadFenced_congr h t).trans ht, fun g hg => (flightFenced_congr h g).trans hg⟩

theorem KeepsBut.fenceGrows {l : List Area} {s u : State} (h : KeepsBut l s u) (hl : .fence ∉ l) : FenceGrows s u :=
  fenceGrows_of_fence (h.fence hl)

theorem foldl_fenceGrows {β : Type} {g : State → β → State} {l : List β} (h : ∀ s, ∀ x ∈ l, FenceGrows s (g s x)) (s : State) :
    FenceGrows s (l.foldl g s) := foldl_related FenceGrows.refl (fun _ _ _ => .trans) h s

theorem fenceFlight_grows (gf : Nat) (inj : Bool) (s : State) : FenceGrows s (fenceFlight gf inj s) :=
  ⟨fun t ht => (fenceFlight_treadFenced gf inj s t).trans ht, fun g hg => (fenceFlight_flightFenced gf inj s g).2 (.inl hg)⟩

theorem fenceFlight_self (gf : Nat) (inj : Bool) (s : State) : (fenceFlight gf inj s).flightFenced gf = true :=
  (fenceFlight_flightFenced gf inj s gf).2 (.inr rfl)

theorem shiftRow_grows (gf row col : Nat) (s : State) : FenceGrows s (shiftRow gf row col s) := by
  unfold shiftRow
  split
  · exact .refl s
  · exact ⟨fun _ => id, fun _ => id⟩

/-- The fence map with a tread more, which reads FENCED and whose injection ends. -/
def markTread (t : Nat) (inj : Bool) (s : State) : State :=
  { s with fence := { s.fence with
      treads := tset 0 s.fence.treads t (1 + b2n inj + 2 * b2n (s.rowFenced (treadGf t) (treadRow t))) } }
    |> setTread t { Tread.init with st := .fenced } |> endInjectionAt (treadGf t) (some t)

/-- A row whose spare is fenced has no spare left. -/
def dropSpare (gf row : Nat) (s : State) : State :=
  { s with fence := { s.fence with rows := tset 0x1F s.fence.rows (gf * 16 + row) 0x5F } }

theorem dropSpare_grows (gf row : Nat) (s : State) : FenceGrows s (dropSpare gf row s) := ⟨fun _ => id, fun _ => id⟩

/-- What becomes of the row of a fenced tread. -/
def fenceRow (t : Nat) (inj prior : Bool) (s : State) : State :=
  if prior then (if s.flightFenced (treadGf t) then afterFence (treadGf t) s else fenceFlight (treadGf t) inj s)
  else if treadCol t = 16 then
    dropSpare (treadGf t) (treadRow t) s |> afterFence (treadGf t)
  else match s.fencePart (treadGf t) with
    | some (p, _) => queueRerig p (.row (treadGf t) (treadRow t) (treadCol t)) s |> afterFence (treadGf t)
    | none => shiftRow (treadGf t) (treadRow t) (treadCol t) s |> afterFence (treadGf t)

theorem fenceTread_eq (t : Nat) (inj : Bool) (s : State) : fenceTread t inj s = if s.treadFenced t then s
    else fenceRow t inj (s.rowFenced (treadGf t) (treadRow t)) (markTread t inj s) := rfl

theorem afterFence_grows (gf : Nat) (s : State) : FenceGrows s (afterFence gf s) := (afterFence_keeps gf s).fenceGrows (by decide)

theorem fenceRow_grows (t : Nat) (inj prior : Bool) (s : State) : FenceGrows s (fenceRow t inj prior s) := by
  unfold fenceRow
  split
  · split
    · exact afterFence_grows _ s
    · exact fenceFlight_grows _ _ s
  · split
    · exact (dropSpare_grows _ _ s).trans (afterFence_grows _ _)
    · split
      · exact ((queueRerig_keeps _ _ s).fenceGrows (by decide)).trans (afterFence_grows _ _)
      · exact (shiftRow_grows _ _ _ s).trans (afterFence_grows _ _)

theorem markTread_fence (t : Nat) (inj : Bool) (s : State) : (markTread t inj s).fence = { s.fence with
    treads := tset 0 s.fence.treads t (1 + b2n inj + 2 * b2n (s.rowFenced (treadGf t) (treadRow t))) } :=
  (endInjectionAt_keeps _ _ _).fence (by decide)

theorem markTread_treadFenced (t : Nat) (inj : Bool) (s : State) (x : Nat) :
    (markTread t inj s).treadFenced x = true ↔ s.treadFenced x = true ∨ x = t := by
  rw [State.treadFenced, markTread_fence, bne_iff_ne]
  by_cases e : x = t
  · subst e
    simp
  · rw [tget_tset_other _ _ e]
    simp [State.treadFenced, e]

theorem fenceTread_grows (t : Nat) (inj : Bool) (s : State) : FenceGrows s (fenceTread t inj s) := by
  rw [fenceTread_eq]
  split
  · exact .refl s
  · refine FenceGrows.trans ⟨fun x hx => (markTread_treadFenced t inj s x).2 (.inl hx), fun g hg => ?_⟩ (fenceRow_grows t inj _ _)
    rw [State.flightFenced, markTread_fence]
    exact hg

theorem fenceTread_self (t : Nat) (inj : Bool) (s : State) : (fenceTread t inj s).treadFenced t = true := by
  rw [fenceTread_eq]
  split
  next h => exact h
  next => exact (fenceRow_grows t inj _ _).1 t ((markTread_treadFenced t inj s t).2 (.inr rfl))

/-! Lists of failed units fenced. -/

theorem fenceFlights_grows (l : List Nat) (s : State) : FenceGrows s (l.foldl (fun s g => fenceFlight g false s) s) :=
  foldl_fenceGrows (fun u g _ => fenceFlight_grows g false u) s

theorem fenceFlights_flightFenced (l : List Nat) (s : State) (g : Nat) :
    (l.foldl (fun s g => fenceFlight g false s) s).flightFenced g = true ↔ s.flightFenced g = true ∨ g ∈ l := by
  induction l generalizing s with
  | nil => simp
  | cons x l ih => rw [List.foldl_cons, ih, fenceFlight_flightFenced, List.mem_cons, or_assoc]

theorem fenceTreads_fenced {l : List Nat} {t : Nat} (ht : t ∈ l) (s : State) :
    (l.foldl (fun s t => fenceTread t false s) s).treadFenced t = true :=
  foldl_establishes (P := fun u => u.treadFenced t = true) ht (fenceTread_self t false)
    (fun u x _ hu => (fenceTread_grows x false u).1 t hu) s

/-! Phase 2: control memory. -/

/-- The undercrofts of a list with their scratch emptied. -/
def emptyScratch (l : List Nat) (s : State) : State :=
  l.foldl (fun s u => s.setUc u { s.uc u with scratch := [], v := [], user := 0 }) s

theorem marchControl_eq (s : State) : marchControl s = emptyScratch (upFrom 0 16) { s with det := { s.det with sram := [] } } := rfl

theorem emptyScratch_keeps (l : List Nat) (s : State) : KeepsBut [.ucs] s (emptyScratch l s) :=
  foldl_keeps (fun u k _ => keepsBut_of_veil (setUc_frame (fun _ _ => rfl) k _ u)) s

theorem emptyScratch_uc {l : List Nat} {k : Nat} (hk : k ∈ l) (s : State) :
    ((emptyScratch l s).uc k).scratch = [] ∧ ((emptyScratch l s).uc k).v = [] := by
  refine foldl_establishes (P := fun u => (u.uc k).scratch = [] ∧ (u.uc k).v = []) hk (fun u => ?_) (fun u j _ hu => ?_) s
  · rw [State.uc, setUc_ucs, tget_tset_self]
    exact ⟨rfl, rfl⟩
  · by_cases e : k = j
    · rw [e, State.uc, setUc_ucs, tget_tset_self]
      exact ⟨rfl, rfl⟩
    · rwa [State.uc, setUc_ucs, tget_tset_other _ _ e]

theorem marchControl_uc {k : Nat} (hk : k < 16) (s : State) :
    ((marchControl s).uc k).scratch = [] ∧ ((marchControl s).uc k).v = [] := by
  rw [marchControl_eq]
  exact emptyScratch_uc (mem_upFrom.2 ⟨Nat.zero_le k, by omega⟩) _

theorem marchControl_sram (s : State) : (marchControl s).det.sram = [] := by
  rw [marchControl_eq, show (emptyScratch (upFrom 0 16) { s with det := { s.det with sram := [] } }).det = _ from
    emptyScratch_keeps _ _ .det (by decide)]

theorem marchControl_keeps (s : State) : KeepsBut [.ucs, .det] s (marchControl s) := by
  apply keepsBut_of_veil
  apply marchControl_frame <;> exact fun _ _ => rfl

/-! Phase 3: bundles. -/

/-- The bring-up of one bundle (log 82). -/
def bringUpBundle (s : State) (n : Nat) : State :=
  if s.dieSt n = DS.active || s.dieSt n = DS.fenced then s
  else
    s |> beginTraining n |> set (Reg.DL_STATUS_STATE n) DS.active |> set (Reg.DL_STATUS_RATE n) 2
      |> set (Reg.DL_STATUS_WIDTH n) (s.bundle n).width
      |> set (Reg.DL_STATUS_HALF n) (if (s.bundle n).width = 1 then (s.bundle n).half else 0) |> set (Reg.DL_STATUS_ATOMIC n) 1
      |> set (Reg.DL_STATUS_CHANNELS n) 0xF |> set (Reg.DL_CAP_MAJOR n) 1
      |> set (Reg.DL_CAP_GENERATION n) Config.dieGeneration.toNat |> set (Reg.DL_CAP_VENDOR n) Config.dieVendor.toNat

theorem bringUpBundles_eq (s : State) : bringUpBundles s = (upFrom 0 144).foldl bringUpBundle s := rfl

/-- The registers of a bundle. -/
def isBundleField (n k : Nat) : Prop := 0xc10000 + n * 0x100 ≤ k / 64 ∧ k / 64 < 0xc10100 + n * 0x100

theorem bringUpBundle_writes (s : State) (n : Nat) : Writes (isBundleField n) s (bringUpBundle s n) := by
  intro g hg
  have hset : ∀ h : Fld, isBundleField n h.key → ∀ (v : Nat) (u : State), (u.set h v).get g = u.get g :=
    fun h hh v u => get_set_other v u fun e => hg (e ▸ hh)
  have htrain : (beginTraining n s).get g = s.get g := by
    unfold beginTraining linkDown
    dsimp only
    rw [hset (Reg.DL_STATUS_WIDTH n) (by simp only [isBundleField, Fld.key, Reg.DL_STATUS_WIDTH]; omega),
      hset (Reg.DL_STATUS_RATE n) (by simp only [isBundleField, Fld.key, Reg.DL_STATUS_RATE]; omega),
      hset (Reg.DL_STATUS_STATE n) (by simp only [isBundleField, Fld.key, Reg.DL_STATUS_STATE]; omega)]
    split
    · rfl
    · exact hset (Reg.DL_COUNTS_RETRAINS n) (by simp only [isBundleField, Fld.key, Reg.DL_COUNTS_RETRAINS]; omega) _ _
  unfold bringUpBundle
  split
  · rfl
  · rw [hset (Reg.DL_CAP_VENDOR n) (by simp only [isBundleField, Fld.key, Reg.DL_CAP_VENDOR]; omega),
      hset (Reg.DL_CAP_GENERATION n) (by simp only [isBundleField, Fld.key, Reg.DL_CAP_GENERATION]; omega),
      hset (Reg.DL_CAP_MAJOR n) (by simp only [isBundleField, Fld.key, Reg.DL_CAP_MAJOR]; omega),
      hset (Reg.DL_STATUS_CHANNELS n) (by simp only [isBundleField, Fld.key, Reg.DL_STATUS_CHANNELS]; omega),
      hset (Reg.DL_STATUS_ATOMIC n) (by simp only [isBundleField, Fld.key, Reg.DL_STATUS_ATOMIC]; omega),
      hset (Reg.DL_STATUS_HALF n) (by simp only [isBundleField, Fld.key, Reg.DL_STATUS_HALF]; omega),
      hset (Reg.DL_STATUS_WIDTH n) (by simp only [isBundleField, Fld.key, Reg.DL_STATUS_WIDTH]; omega),
      hset (Reg.DL_STATUS_RATE n) (by simp only [isBundleField, Fld.key, Reg.DL_STATUS_RATE]; omega),
      hset (Reg.DL_STATUS_STATE n) (by simp only [isBundleField, Fld.key, Reg.DL_STATUS_STATE]; omega), htrain]

/-- A bundle after bring-up: ACTIVE, or FENCED before. -/
def BundleUp (b : Nat) (s : State) : Prop := s.dieSt b = 2 ∨ s.dieSt b = 3

theorem bringUpBundle_self (s : State) (n : Nat) : BundleUp n (bringUpBundle s n) := by
  unfold bringUpBundle
  split
  next h => exact (Bool.or_eq_true_iff.1 h).imp of_decide_eq_true of_decide_eq_true
  next =>
    refine .inl ?_
    rw [State.dieSt, get_set_other _ _ (by simp only [Fld.key, Reg.DL_STATUS_STATE, Reg.DL_CAP_VENDOR]; omega),
      get_set_other _ _ (by simp only [Fld.key, Reg.DL_STATUS_STATE, Reg.DL_CAP_GENERATION]; omega),
      get_set_other _ _ (by simp only [Fld.key, Reg.DL_STATUS_STATE, Reg.DL_CAP_MAJOR]; omega),
      get_set_other _ _ (by simp only [Fld.key, Reg.DL_STATUS_STATE, Reg.DL_STATUS_CHANNELS]; omega),
      get_set_other _ _ (by simp only [Fld.key, Reg.DL_STATUS_STATE, Reg.DL_STATUS_ATOMIC]; omega),
      get_set_other _ _ (by simp only [Fld.key, Reg.DL_STATUS_STATE, Reg.DL_STATUS_HALF]; omega),
      get_set_other _ _ (by simp only [Fld.key, Reg.DL_STATUS_STATE, Reg.DL_STATUS_WIDTH]; omega),
      get_set_other _ _ (by simp only [Fld.key, Reg.DL_STATUS_STATE, Reg.DL_STATUS_RATE]; omega)]
    exact get_set_self _ _ _

theorem bringUpBundle_stays {b : Nat} {s : State} (h : BundleUp b s) (n : Nat) : BundleUp b (bringUpBundle s n) := by
  by_cases e : b = n
  · subst e
    exact bringUpBundle_self s b
  · have hother : (bringUpBundle s n).dieSt b = s.dieSt b := bringUpBundle_writes s n _ (by
      simp only [isBundleField, Fld.key, Reg.DL_STATUS_STATE]
      omega)
    rwa [BundleUp, hother]

theorem bringUpBundlesOf_up {l : List Nat} {b : Nat} (hb : b ∈ l) (s : State) : BundleUp b (l.foldl bringUpBundle s) :=
  foldl_establishes (P := BundleUp b) hb (fun u => bringUpBundle_self u b) (fun _ n _ hu => bringUpBundle_stays hu n) s

theorem bringUpBundles_up {b : Nat} (hb : b < 144) (s : State) : BundleUp b (bringUpBundles s) := by
  rw [bringUpBundles_eq]
  exact bringUpBundlesOf_up (mem_upFrom.2 ⟨Nat.zero_le b, by omega⟩) s

theorem bringUpBundles_keeps (s : State) : KeepsBut [.regs, .bundles] s (bringUpBundles s) := by
  apply keepsBut_of_veil
  apply bringUpBundles_frame <;> exact fun _ _ => rfl

/-! Phase 5: arrays. -/

/-- An array whose tile is wrong is fenced, or the tread of the one block that differs. -/
def ArrayFenced (wrong : List (Nat × Nat × Nat × Nat)) (g fmt : Nat) (u : State) : Prop :=
  u.flightFenced g = true ∨ ∃ i j c, wrongBlocks fmt (arrayOutput wrong g fmt) = [(i, j)] ∧ u.treadFenced (treadId g i c) = true

theorem ArrayFenced.grows {wrong : List (Nat × Nat × Nat × Nat)} {g fmt : Nat} {s u : State} (h : ArrayFenced wrong g fmt s)
    (hu : FenceGrows s u) : ArrayFenced wrong g fmt u :=
  h.imp (hu.2 g) fun ⟨i, j, c, hb, ht⟩ => ⟨i, j, c, hb, hu.1 _ ht⟩

theorem checkArray_grows (wrong : List (Nat × Nat × Nat × Nat)) (g fmt : Nat) (s : State) : FenceGrows s (checkArray wrong g fmt s) := by
  unfold checkArray
  dsimp only
  split
  · exact .refl s
  · split
    · exact fenceTread_grows _ _ s
    · exact fenceFlight_grows _ _ s

theorem checkArray_unsound {wrong : List (Nat × Nat × Nat × Nat)} {g fmt : Nat}
    (h : outputDigest fmt (arrayOutput wrong g fmt) ≠ Config.golden fmt) (s : State) :
    ArrayFenced wrong g fmt (checkArray wrong g fmt s) := by
  unfold checkArray
  dsimp only
  split
  next hs => exact .inl ((Bool.or_eq_true_iff.1 hs).resolve_right fun hd => h (eq_of_beq hd))
  next =>
    split
    next i j hb => exact .inr ⟨i, j, _, hb, fenceTread_self _ _ s⟩
    next => exact .inl (fenceFlight_self g false s)

theorem checkArray_sound {wrong : List (Nat × Nat × Nat × Nat)} {g fmt : Nat}
    (h : outputDigest fmt (arrayOutput wrong g fmt) = Config.golden fmt) (s : State) : checkArray wrong g fmt s = s :=
  if_pos (by simp [h])

/-- A flight's tiles of the formats of a list. -/
def checkTiles (wrong : List (Nat × Nat × Nat × Nat)) (fmts : List Nat) (g : Nat) (s : State) : State :=
  fmts.foldl (fun s f => checkArray wrong g f s) s

/-- The tiles of the flights of a list. -/
def checkFlights (wrong : List (Nat × Nat × Nat × Nat)) (fmts flights : List Nat) (s : State) : State :=
  flights.foldl (fun s g => checkTiles wrong fmts g s) s

theorem checkArrays_eq (wrong : List (Nat × Nat × Nat × Nat)) (s : State) : checkArrays wrong s = checkFlights wrong selfFmts allFlights s :=
  rfl

theorem checkTiles_grows (wrong : List (Nat × Nat × Nat × Nat)) (fmts : List Nat) (g : Nat) (s : State) :
    FenceGrows s (checkTiles wrong fmts g s) := foldl_fenceGrows (fun u f _ => checkArray_grows wrong g f u) s

theorem checkFlights_unsound {wrong : List (Nat × Nat × Nat × Nat)} {fmts flights : List Nat} {g fmt : Nat} (hg : g ∈ flights)
    (hf : fmt ∈ fmts) (h : outputDigest fmt (arrayOutput wrong g fmt) ≠ Config.golden fmt) (s : State) :
    ArrayFenced wrong g fmt (checkFlights wrong fmts flights s) :=
  foldl_establishes (P := ArrayFenced wrong g fmt) hg
    (fun u => foldl_establishes (P := ArrayFenced wrong g fmt) hf (checkArray_unsound h) (fun v f _ hv => hv.grows (checkArray_grows wrong g f v)) u)
    (fun u y _ hu => hu.grows (checkTiles_grows wrong fmts y u)) s

/-- A walk whose every step leaves the state leaves it. -/
theorem foldl_still {β : Type} {g : State → β → State} {l : List β} (h : ∀ x ∈ l, ∀ s, g s x = s) (s : State) : l.foldl g s = s :=
  foldl_related (Q := fun s u => u = s) (fun _ => rfl) (fun _ _ _ h h' => h'.trans h) (fun u x hx => h x hx u) s

theorem checkFlights_sound {wrong : List (Nat × Nat × Nat × Nat)} {fmts flights : List Nat}
    (h : ∀ g ∈ flights, ∀ fmt ∈ fmts, outputDigest fmt (arrayOutput wrong g fmt) = Config.golden fmt) (s : State) :
    checkFlights wrong fmts flights s = s :=
  foldl_still (fun g hg u => foldl_still (fun f hf => checkArray_sound (h g hg f hf)) u) s

/-! Phase 6: sensors. -/

theorem sensorOk_congr {s u : State} (h : u.power = s.power) (g : Nat) : u.sensorOk g = s.sensorOk g := by
  have hraw : u.rawTemp = s.rawTemp := by
    funext x
    rw [State.rawTemp, h, State.rawTemp]
  rw [State.sensorOk, State.gallerySum, hraw, State.sensorOk, State.gallerySum]

/-- The flights of a list that phase 6 finds failing. -/
def State.badSensors (s : State) (l : List Nat) : List Nat := l.filter fun g => !s.flightFenced g && !s.sensorOk g

theorem checkSensors_eq (s : State) : checkSensors s = (s.badSensors allFlights).foldl (fun s g => fenceFlight g false s) s := rfl

theorem checkSensors_flightFenced {g : Nat} (hg : g < 1184) (s : State) :
    (checkSensors s).flightFenced g = true ↔ s.flightFenced g = true ∨ s.sensorOk g = false := by
  have hmem : g ∈ allFlights := mem_upFrom.2 ⟨Nat.zero_le g, by omega⟩
  have hbad : g ∈ s.badSensors allFlights ↔ s.flightFenced g = false ∧ s.sensorOk g = false := by
    rw [State.badSensors, List.mem_filter, and_iff_right hmem, Bool.and_eq_true, Bool.not_eq_true', Bool.not_eq_true']
  rw [checkSensors_eq, fenceFlights_flightFenced, hbad]
  cases s.flightFenced g <;> simp

theorem takeReadings_keeps (readings : List (Nat × Int)) (s : State) : KeepsBut [.power] s (takeReadings readings s) :=
  keepsBut_of_veil (takeReadings_frame (fun _ _ => rfl) readings s)

/-! Phase 1: the journal's records (13 R479, R481). -/

theorem raise0_writes (code : Nat) (body : List Nat) (s : State) :
    Writes (· = (Reg.EVT_COUNTS_DROPPED 0).key) s (raise0 code body s) := by
  have hqueue : ∀ (r : EvRec) (u : State), Writes (· = (Reg.EVT_COUNTS_DROPPED 0).key) u (queueRecord 0 r u) := fun r u => by
    unfold queueRecord
    dsimp only
    split
    · exact fun _ _ => rfl
    · exact Writes.trans (fun _ _ => rfl) (writes_bump (R := (· = (Reg.EVT_COUNTS_DROPPED 0).key)) rfl 1 _)
  exact Writes.trans (fun _ _ => rfl) (hqueue _ (stamped code s))

theorem raise0_keeps (code : Nat) (body : List Nat) (s : State) : KeepsBut [.regs, .seq, .rings, .det] s (raise0 code body s) :=
  raise_keeps code noStamp body s

theorem recorded_raise0 (code : Nat) (body : List Nat) (s : State) : Recorded code body (raise0 code body s) :=
  recorded_raise code noStamp body s

theorem Recorded.raise0 {code : Nat} {body : List Nat} {s : State} (h : Recorded code body s) (c : Nat) (b : List Nat) :
    Recorded code body (raise0 c b s) := h.raise c noStamp b

theorem KeepsBut.recorded {l : List Area} {s u : State} (h : KeepsBut l s u) (hl : .rings ∉ l) {code : Nat} {body : List Nat}
    (hr : Recorded code body s) : Recorded code body u := recorded_congr hr (h .rings hl)

/-- The registers of PKG_ID and of the debug access counts. -/
def isIdField (k : Nat) : Prop := k / 64 = 4 ∨ ∃ p, p < 8 ∧ (k / 64 = 0x501010 + p * 0x100 ∨ k / 64 = 0x501014 + p * 0x100)

theorem withRecord_some {type key : Nat} {s : State} {b : List Byte} (h : s.journal.body? type key = some b)
    (f : List Byte → State → State) : withRecord type key f s = f b s := by rw [withRecord, h]

theorem withRecord_writes {R : Nat → Prop} {type key : Nat} {f : List Byte → State → State} (h : ∀ b u, Writes R u (f b u)) (s : State) :
    Writes R s (withRecord type key f s) := by
  unfold withRecord
  split
  · exact h _ s
  · exact .refl R s

theorem withRecord_keeps {l : List Area} {type key : Nat} {f : List Byte → State → State} (h : ∀ b u, KeepsBut l u (f b u)) (s : State) :
    KeepsBut l s (withRecord type key f s) := by
  unfold withRecord
  split
  · exact h _ s
  · exact .refl l s

theorem ite_writes {R : Nat → Prop} {s a b : State} {c : Prop} [Decidable c] (ha : Writes R s a) (hb : Writes R s b) :
    Writes R s (if c then a else b) := by
  split
  · exact ha
  · exact hb

theorem formBudget_writes (s : State) : Writes (fun k => ¬isIdField k) s (formBudget s) := by
  have hset : ∀ (v : Nat) (u : State), Writes (fun k => ¬isIdField k) u (u.set Reg.PWR_LIMITS_EFFECTIVE_W v) := fun v u =>
    writes_set (by simp only [isIdField, Fld.key, Reg.PWR_LIMITS_EFFECTIVE_W]; omega) v u
  unfold formBudget
  dsimp only
  refine Writes.trans ?_ (hset _ _)
  exact ite_writes (fun _ _ => rfl) (.refl _ s)

theorem restoreSettings_writes (b : List Byte) (s : State) : Writes (fun k => ¬isIdField k) s (restoreSettings b s) := by
  refine Writes.trans ?_ (formBudget_writes _)
  refine (writes_set (f := Reg.PWR_BUDGET_HOST_W) ?_ _ s).trans ((writes_set (f := Reg.THERM_CTRL_WARN_C) ?_ _ _).trans
    ((writes_set (f := Reg.LASER_CFG_WARN_PCT) ?_ _ _).trans (writes_set (f := Reg.LASER_CFG_RATED_KH) ?_ _ _))) <;>
    simp only [isIdField, Fld.key, Reg.PWR_BUDGET_HOST_W, Reg.THERM_CTRL_WARN_C, Reg.LASER_CFG_WARN_PCT, Reg.LASER_CFG_RATED_KH] <;> omega

theorem restoreFences_keeps (b : List Byte) (s : State) : KeepsBut [.fence, .treads] s (restoreFences b s) := by
  apply keepsBut_of_veil
  apply restoreFences_frame <;> exact fun _ _ => rfl

theorem spliceFld_key (n d i : Nat) : (spliceFld n d i).1.key / 64 ∈ [0xc1000c + n * 0x100, 0xc10010 + n * 0x100]
    ∧ (spliceFld n d i).2.key / 64 ∈ [0xc1000c + n * 0x100, 0xc10010 + n * 0x100]
    ∧ (journalFld n d).key / 64 ∈ [0xc1000c + n * 0x100, 0xc10010 + n * 0x100] := by
  simp only [List.mem_cons, List.not_mem_nil, or_false]
  refine ⟨?_, ?_, ?_⟩
  · unfold spliceFld
    split <;> simp only [Fld.key, Reg.DL_SPLICE_AB_VALID_0, Reg.DL_SPLICE_AB_VALID_1, Reg.DL_SPLICE_AB_VALID_2, Reg.DL_SPLICE_AB_VALID_3,
      Reg.DL_SPLICE_BA_VALID_0, Reg.DL_SPLICE_BA_VALID_1, Reg.DL_SPLICE_BA_VALID_2, Reg.DL_SPLICE_BA_VALID_3] <;> omega
  · unfold spliceFld
    split <;> simp only [Fld.key, Reg.DL_SPLICE_AB_LANE_0, Reg.DL_SPLICE_AB_LANE_1, Reg.DL_SPLICE_AB_LANE_2, Reg.DL_SPLICE_AB_LANE_3,
      Reg.DL_SPLICE_BA_LANE_0, Reg.DL_SPLICE_BA_LANE_1, Reg.DL_SPLICE_BA_LANE_2, Reg.DL_SPLICE_BA_LANE_3] <;> omega
  · unfold journalFld
    split <;> simp only [Fld.key, Reg.DL_SPLICE_AB_JOURNAL, Reg.DL_SPLICE_BA_JOURNAL] <;> omega

/-- The splices of a list shown. -/
def showSplices (n : Nat) (l : List (Nat × Nat × Nat)) (s : State) : State :=
  l.foldl (fun s x => showSplice n x.1 x.2.1 x.2.2 s) s

theorem restoreSplices_eq (n : Nat) (b : List Byte) (s : State) :
    restoreSplices n b s = showSplices n (splicesOf b) (s.setBundle n { s.bundle n with spl := splicesOf b }) := rfl

theorem showSplice_writes (n d i lane : Nat) (s : State) : Writes (fun k => ¬isIdField k) s (showSplice n d i lane s) := by
  have hbundle : ∀ f : Fld, f.key / 64 ∈ [0xc1000c + n * 0x100, 0xc10010 + n * 0x100] → ¬isIdField f.key := fun f hf => by
    simp only [List.mem_cons, List.not_mem_nil, or_false] at hf
    simp only [isIdField]
    omega
  obtain ⟨hv, hl, hj⟩ := spliceFld_key n d i
  exact (writes_set (hbundle _ hv) _ s).trans ((writes_set (hbundle _ hl) _ _).trans (writes_set (hbundle _ hj) _ _))

theorem showSplices_writes (n : Nat) (l : List (Nat × Nat × Nat)) (s : State) : Writes (fun k => ¬isIdField k) s (showSplices n l s) :=
  foldl_writes (fun u x _ => showSplice_writes n x.1 x.2.1 x.2.2 u) s

theorem restoreSplices_writes (n : Nat) (b : List Byte) (s : State) : Writes (fun k => ¬isIdField k) s (restoreSplices n b s) := by
  have hbundle : Writes (fun k => ¬isIdField k) s (s.setBundle n { s.bundle n with spl := splicesOf b }) := fun _ _ => rfl
  rw [restoreSplices_eq]
  exact hbundle.trans (showSplices_writes n _ _)

theorem restoreRepairs_writes (k : Nat) (b : List Byte) (s : State) : Writes (fun k => ¬isIdField k) s (restoreRepairs k b s) := by
  have huc : ∀ v : Undercroft, Writes (fun k => ¬isIdField k) s (s.setUc k v) := fun _ _ _ => rfl
  exact (huc _).trans ((writes_set (by simp only [isIdField, Fld.key, Reg.UC_REPAIR_REPAIRS]; omega) _ _).trans
    (writes_set (by simp only [isIdField, Fld.key, Reg.UC_REPAIR_SPARES_LEFT]; omega) _ _))

theorem restoreCal_keeps (r : JrnRec) (s : State) : KeepsBut [.det] s (restoreCal r s) :=
  keepsBut_of_veil (restoreCal_frame (fun _ _ => rfl) r s)

/-- The settings, the fence map, the splices and the repairs as their records hold them. -/
def restoreUnits (s : State) : State :=
  let s := s |> withRecord 8 0 restoreSettings |> withRecord 2 0 restoreFences
  let s := (upFrom 0 144).foldl (fun s n => withRecord 3 n (restoreSplices n) s) s
  (upFrom 0 16).foldl (fun s u => withRecord 4 u (restoreRepairs u) s) s

/-- A partition's debug access counts and availability totals as their records hold them. -/
def restorePart (s : State) (p : Nat) : State := s |> withRecord 7 p (restoreDebug p) |> withRecord 9 p (restoreAvail p)

/-- The calibration of the journal's USER_CAL records. -/
def restoreCals (s : State) : State := (s.journal.applied.filter fun r => r.type == 6).foldl (fun s r => restoreCal r s) s

theorem applyRecords_eq (s : State) :
    applyRecords s = restoreCals (allParts.foldl restorePart (restoreUnits (withRecord 1 0 restoreId s))) := rfl

theorem restoreCals_keeps (s : State) : KeepsBut [.det] s (restoreCals s) := foldl_keeps (fun u r _ => restoreCal_keeps r u) s

theorem restoreUnits_writes (s : State) : Writes (fun k => ¬isIdField k) s (restoreUnits s) := by
  have hsettings := withRecord_writes (type := 8) (key := 0) restoreSettings_writes s
  have hfences := fun u => withRecord_writes (type := 2) (key := 0)
    (fun b v => (restoreFences_keeps b v).writes (by decide) (fun k => ¬isIdField k)) u
  have hsplices : ∀ u, Writes (fun k => ¬isIdField k) u ((upFrom 0 144).foldl (fun s n => withRecord 3 n (restoreSplices n) s) u) :=
    foldl_writes fun u n _ => withRecord_writes (restoreSplices_writes n) u
  have hrepairs : ∀ u, Writes (fun k => ¬isIdField k) u ((upFrom 0 16).foldl (fun s k => withRecord 4 k (restoreRepairs k) s) u) :=
    foldl_writes fun u k _ => withRecord_writes (restoreRepairs_writes k) u
  exact hsettings.trans ((hfences _).trans ((hsplices _).trans (hrepairs _)))

theorem restoreUnits_keeps (s : State) : KeepsBut [.regs, .fence, .power, .treads, .ucs, .bundles] s (restoreUnits s) := by
  have hsettings := withRecord_keeps (type := 8) (key := 0) (f := restoreSettings) (l := [.regs, .power]) (fun b v => by
    apply keepsBut_of_veil
    apply restoreSettings_frame <;> exact fun _ _ => rfl) s
  have hfences := fun u => withRecord_keeps (type := 2) (key := 0) restoreFences_keeps u
  have hsplices : ∀ u, KeepsBut [.regs, .bundles] u ((upFrom 0 144).foldl (fun s n => withRecord 3 n (restoreSplices n) s) u) :=
    foldl_keeps fun u n _ => withRecord_keeps (fun b v => by
      apply keepsBut_of_veil
      apply restoreSplices_frame <;> exact fun _ _ => rfl) u
  have hrepairs : ∀ u, KeepsBut [.regs, .ucs] u ((upFrom 0 16).foldl (fun s k => withRecord 4 k (restoreRepairs k) s) u) :=
    foldl_keeps fun u k _ => withRecord_keeps (fun b v => by
      apply keepsBut_of_veil
      apply restoreRepairs_frame <;> exact fun _ _ => rfl) u
  exact (hsettings.mono (by decide)).trans (((hfences _).mono (by decide)).trans
    (((hsplices _).mono (by decide)).trans ((hrepairs _).mono (by decide))))

theorem restoreDebug_writes {p : Nat} (b : List Byte) (s : State) :
    Writes (fun k => k / 64 = 0x501010 + p * 0x100 ∨ k / 64 = 0x501014 + p * 0x100) s (restoreDebug p b s) :=
  (writes_set (f := Reg.DEBUG_READS_COUNT p) (by simp only [Fld.key, Reg.DEBUG_READS_COUNT]; omega) _ s).trans
    (writes_set (f := Reg.DEBUG_WRITES_COUNT p) (by simp only [Fld.key, Reg.DEBUG_WRITES_COUNT]; omega) _ _)

theorem restoreAvail_writes (p : Nat) (b : List Byte) (s : State) : Writes (fun k => ¬isIdField k) s (restoreAvail p b s) :=
  (writes_set (f := Reg.AVAIL_LOCAL_MS p) (by simp only [isIdField, Fld.key, Reg.AVAIL_LOCAL_MS]; omega) _ s).trans
    (writes_set (f := Reg.AVAIL_OTHER_MS p) (by simp only [isIdField, Fld.key, Reg.AVAIL_OTHER_MS]; omega) _ _)

theorem restoreId_get (b : List Byte) (s : State) : (restoreId b s).get Reg.PKG_ID_ID = leAt b 0 2 % 2 ^ 14 := get_set_self _ _ _

theorem ofLe_lt (l : List Byte) : ofLe l < 256 ^ l.length := by
  induction l with
  | nil => simp [ofLe]
  | cons b l ih =>
    have hb : b.toNat < 256 := b.isLt
    rw [ofLe, List.length_cons, Nat.pow_succ]
    omega

theorem leAt4_mod (b : List Byte) (o : Nat) : leAt b o 4 % 2 ^ 32 = leAt b o 4 := by
  have hlen : ((b.drop o).take 4).length ≤ 4 := List.length_take_le _ _
  exact Nat.mod_eq_of_lt (Nat.lt_of_lt_of_le (ofLe_lt _) (Nat.pow_le_pow_right (by decide) hlen))

/-- A partition's debug access counts are those of a record. -/
def DebugCounts (p : Nat) (b : List Byte) (s : State) : Prop :=
  s.get (Reg.DEBUG_READS_COUNT p) = leAt b 0 4 ∧ s.get (Reg.DEBUG_WRITES_COUNT p) = leAt b 4 4

theorem restoreDebug_counts (p : Nat) (b : List Byte) (s : State) : DebugCounts p b (restoreDebug p b s) := by
  refine ⟨?_, (get_set_self _ _ _).trans (leAt4_mod b 4)⟩
  refine (get_set_other _ _ (by simp only [Fld.key, Reg.DEBUG_READS_COUNT, Reg.DEBUG_WRITES_COUNT]; omega)).trans ?_
  exact (get_set_self _ _ _).trans (leAt4_mod b 0)

theorem DebugCounts.writes {p : Nat} {b : List Byte} {s u : State} {R : Nat → Prop} (h : DebugCounts p b s) (hu : Writes R s u)
    (hr : ¬R (Reg.DEBUG_READS_COUNT p).key) (hw : ¬R (Reg.DEBUG_WRITES_COUNT p).key) : DebugCounts p b u :=
  ⟨(hu _ hr).trans h.1, (hu _ hw).trans h.2⟩

theorem restorePart_journal (s : State) (p : Nat) : (restorePart s p).journal = s.journal := by
  have hdebug := withRecord_keeps (type := 7) (key := p) (f := restoreDebug p) (l := [.regs])
    (fun b u => (keepsBut_set _ _ u).trans (keepsBut_set _ _ _)) s
  have havail := fun u => withRecord_keeps (type := 9) (key := p) (f := restoreAvail p) (l := [.regs])
    (fun b u => (keepsBut_set _ _ u).trans (keepsBut_set _ _ _)) u
  exact (havail _ .journal (by decide)).trans (hdebug .journal (by decide))

theorem isIdField_debug {p : Nat} (hp : p < 8) :
    isIdField (Reg.DEBUG_READS_COUNT p).key ∧ isIdField (Reg.DEBUG_WRITES_COUNT p).key :=
  ⟨.inr ⟨p, hp, .inl (by simp only [Fld.key, Reg.DEBUG_READS_COUNT]; omega)⟩,
    .inr ⟨p, hp, .inr (by simp only [Fld.key, Reg.DEBUG_WRITES_COUNT]; omega)⟩⟩

theorem restorePart_self {p : Nat} (hp : p < 8) {b : List Byte} {s : State} (h : s.journal.body? 7 p = some b) :
    DebugCounts p b (restorePart s p) := by
  obtain ⟨hr, hw⟩ := isIdField_debug hp
  rw [restorePart, withRecord_some h]
  exact (restoreDebug_counts p b s).writes (withRecord_writes (restoreAvail_writes p) _) (not_not.2 hr) (not_not.2 hw)

/-- The fields that a partition's records write. -/
theorem restorePart_writes (q : Nat) (s : State) :
    Writes (fun k => ¬isIdField k ∨ k / 64 = 0x501010 + q * 0x100 ∨ k / 64 = 0x501014 + q * 0x100) s (restorePart s q) :=
  (withRecord_writes (fun b u => (restoreDebug_writes b u).mono fun _ => .inr) s).trans
    (withRecord_writes (fun b u => (restoreAvail_writes q b u).mono fun _ => .inl) _)

theorem restorePart_stays {p q : Nat} (hp : p < 8) {b : List Byte} {s : State} (hb : s.journal.body? 7 p = some b)
    (h : DebugCounts p b s) : DebugCounts p b (restorePart s q) := by
  by_cases e : p = q
  · subst e
    exact restorePart_self hp hb
  · obtain ⟨hr, hw⟩ := isIdField_debug hp
    refine h.writes (restorePart_writes q s) ?_ ?_
    · rintro (hn | hk)
      · exact hn hr
      · simp only [Fld.key, Reg.DEBUG_READS_COUNT] at hk
        omega
    · rintro (hn | hk)
      · exact hn hw
      · simp only [Fld.key, Reg.DEBUG_WRITES_COUNT] at hk
        omega

theorem restoreParts_counts {l : List Nat} (hl : ∀ q ∈ l, q < 8) {p : Nat} (hp : p ∈ l) {b : List Byte} {s : State}
    (hb : s.journal.body? 7 p = some b) : DebugCounts p b (l.foldl restorePart s) := by
  have hjournal : (l.foldl restorePart s).journal = s.journal :=
    foldl_related (Q := fun s u => u.journal = s.journal) (fun _ => rfl) (fun _ _ _ h h' => h'.trans h)
      (fun u q _ => restorePart_journal u q) s
  refine foldl_establishes (P := fun u => u.journal.body? 7 p = some b → DebugCounts p b u) hp (fun u hu => ?_) (fun u q _ ih hu => ?_) s
    (by rw [hjournal]; exact hb)
  · rw [restorePart_journal] at hu
    exact restorePart_self (hl p hp) hu
  · rw [restorePart_journal] at hu
    exact restorePart_stays (hl p hp) hu (ih hu)

theorem restoreParts_writes (l : List Nat) (s : State) : Writes (fun k => k / 64 ≠ 4) s (l.foldl restorePart s) :=
  foldl_writes (fun u q _ => (restorePart_writes q u).mono fun k hk => by
    simp only [isIdField] at hk
    omega) s

theorem applyRecords_id {b : List Byte} {s : State} (h : s.journal.body? 1 0 = some b) :
    (applyRecords s).get Reg.PKG_ID_ID = leAt b 0 2 % 2 ^ 14 := by
  rw [applyRecords_eq, withRecord_some h]
  refine ((restoreCals_keeps _).writes (by decide) (fun _ => False) _ (by simp)).trans ((restoreParts_writes _ _ _ (by decide)).trans
    ((restoreUnits_writes _ _ (not_not.2 (.inl (by decide)))).trans (restoreId_get b s)))

theorem applyRecords_counts {p : Nat} (hp : p < 8) {b : List Byte} {s : State} (h : s.journal.body? 7 p = some b) :
    DebugCounts p b (applyRecords s) := by
  have hparts : ∀ q ∈ allParts, q < 8 := fun q hq => by
    have := (mem_upFrom.1 hq).2
    omega
  have hid : (withRecord 1 0 restoreId s).journal = s.journal :=
    withRecord_keeps (l := [.regs]) (fun b u => keepsBut_set _ _ u) s .journal (by decide)
  have hunits : (restoreUnits (withRecord 1 0 restoreId s)).journal = s.journal := (restoreUnits_keeps _ .journal (by decide)).trans hid
  rw [applyRecords_eq]
  exact (restoreParts_counts hparts (mem_upFrom.2 ⟨Nat.zero_le p, by omega⟩) (by rw [hunits]; exact h)).writes
    ((restoreCals_keeps _).writes (by decide) (fun _ => False)) (by simp) (by simp)

theorem applyRecords_keeps (s : State) : KeepsBut [.regs, .fence, .power, .treads, .ucs, .bundles, .det] s (applyRecords s) := by
  have hid := withRecord_keeps (type := 1) (key := 0) (f := restoreId) (l := [.regs]) (fun b u => keepsBut_set _ _ u) s
  have hparts : ∀ u, KeepsBut [.regs] u (allParts.foldl restorePart u) := foldl_keeps fun u q _ =>
    (withRecord_keeps (fun b u => (keepsBut_set _ _ u).trans (keepsBut_set _ _ _)) u).trans
      (withRecord_keeps (fun b u => (keepsBut_set _ _ u).trans (keepsBut_set _ _ _)) _)
  rw [applyRecords_eq]
  exact (hid.mono (by decide)).trans (((restoreUnits_keeps _).mono (by decide)).trans (((hparts _).mono (by decide)).trans
    ((restoreCals_keeps _).mono (by decide))))

/-! The scan. -/

/-- The records absent are told. -/
def tellDefaults (l : List (Nat × Nat)) (s : State) : State :=
  l.foldl (fun s k => raise0 Ev.journalDefault [k.1 * 65536 + k.2] s) s

/-- The damaged records counted, and a journal without a COMPLETE header told. -/
def tellJournal (s : State) : State :=
  let u := bump Reg.JRN_COUNTS_SKIPPED (s.journal.records.filter fun r => !r.2).length s
  if s.journal.active.isNone then raise0 Ev.journalFault [] u else u

theorem tellJournal_keeps (s : State) : KeepsBut [.regs, .seq, .rings, .det] s (tellJournal s) := by
  have hbump : ∀ n, KeepsBut [.regs, .seq, .rings, .det] s (bump Reg.JRN_COUNTS_SKIPPED n s) := fun n =>
    (keepsBut_regs s _).mono (by decide)
  unfold tellJournal
  dsimp only
  split
  · exact (hbump _).trans (raise0_keeps _ _ _)
  · exact hbump _

theorem tellDefaults_keeps (l : List (Nat × Nat)) (s : State) : KeepsBut [.regs, .seq, .rings, .det] s (tellDefaults l s) :=
  foldl_keeps (fun u _ _ => raise0_keeps _ _ u) s

theorem scanJournal_eq {s : State} (h : s.journal.copying = false) :
    scanJournal s = applyRecords (tellDefaults (jRecords.filter (tellJournal s).journal.lacks) (tellJournal s)) := by
  unfold scanJournal
  simp only [h, Bool.false_eq_true, if_false]
  rfl

theorem tellDefaults_recorded {l : List (Nat × Nat)} {k : Nat × Nat} (hk : k ∈ l) (s : State) :
    Recorded Ev.journalDefault [k.1 * 65536 + k.2] (tellDefaults l s) :=
  foldl_establishes (P := Recorded Ev.journalDefault [k.1 * 65536 + k.2]) hk (fun u => recorded_raise0 _ _ u) (fun _ _ _ hu => hu.raise0 _ _) s

theorem tellDefaults_stays {l : List (Nat × Nat)} {code : Nat} {body : List Nat} {s : State} (h : Recorded code body s) :
    Recorded code body (tellDefaults l s) := foldl_preserves (P := Recorded code body) (fun _ _ _ hu => hu.raise0 _ _) h

theorem scanJournal_lacks {s : State} (hj : s.journal.copying = false) {k : Nat × Nat} (hk : k ∈ jRecords) (hl : s.journal.lacks k = true) :
    Recorded 0x0010 [k.1 * 65536 + k.2] (scanJournal s) := by
  have hjournal : (tellJournal s).journal = s.journal := tellJournal_keeps s .journal (by decide)
  rw [scanJournal_eq hj, hjournal]
  exact (applyRecords_keeps _).recorded (by decide) (tellDefaults_recorded (List.mem_filter.2 ⟨hk, hl⟩) _)

theorem scanJournal_fault {s : State} (hj : s.journal.copying = false) (h : s.journal.active = none) : Recorded 0x0012 [] (scanJournal s) := by
  have htold : Recorded 0x0012 [] (tellJournal s) := by
    rw [tellJournal, if_pos (by rw [h]; rfl)]
    exact recorded_raise0 _ _ _
  rw [scanJournal_eq hj]
  exact (applyRecords_keeps _).recorded (by decide) (tellDefaults_stays htold)

theorem scanned_journal {s : State} : (tellDefaults (jRecords.filter (tellJournal s).journal.lacks) (tellJournal s)).journal = s.journal :=
  (tellDefaults_keeps _ _ .journal (by decide)).trans (tellJournal_keeps s .journal (by decide))

theorem scanJournal_id {s : State} (hj : s.journal.copying = false) {b : List Byte} (h : s.journal.body? 1 0 = some b) :
    (scanJournal s).get Reg.PKG_ID_ID = leAt b 0 2 % 2 ^ 14 := by
  rw [scanJournal_eq hj]
  exact applyRecords_id (by rw [scanned_journal]; exact h)

theorem scanJournal_counts {s : State} (hj : s.journal.copying = false) {p : Nat} (hp : p < 8) {b : List Byte}
    (h : s.journal.body? 7 p = some b) : DebugCounts p b (scanJournal s) := by
  rw [scanJournal_eq hj]
  exact applyRecords_counts hp (by rw [scanned_journal]; exact h)

/-! No fence writes the enables of the ropes. -/

/-- The ENABLE bits of the ropes. -/
def isRopeEnable (k : Nat) : Prop := k % 64 = 31 ∧ 0x800000 ≤ k / 64 ∧ k / 64 < 0x1000000

/-- No ENABLE bit of a rope is written. -/
def KeepsEnables (s u : State) : Prop := Writes (fun k => ¬isRopeEnable k) s u

theorem KeepsEnables.refl (s : State) : KeepsEnables s s := Writes.refl _ s

theorem KeepsEnables.trans {s t u : State} (h : KeepsEnables s t) (h' : KeepsEnables t u) : KeepsEnables s u := Writes.trans h h'

theorem KeepsBut.enables {l : List Area} {s u : State} (h : KeepsBut l s u) (hl : .regs ∉ l) : KeepsEnables s u := h.writes hl _

theorem keepsEnables_set {f : Fld} (hf : f.lo < 31) (v : Nat) (s : State) : KeepsEnables s (s.set f v) :=
  writes_set (by simp only [isRopeEnable, Fld.key]; omega) v s

theorem keepsEnables_bump {f : Fld} (hf : f.lo < 31) (n : Nat) (s : State) : KeepsEnables s (s.bump f n) := keepsEnables_set hf _ s

theorem foldl_enables {β : Type} {g : State → β → State} {l : List β} (h : ∀ s, ∀ x ∈ l, KeepsEnables s (g s x)) (s : State) :
    KeepsEnables s (l.foldl g s) := foldl_writes h s

theorem ite_enables {s a b : State} {c : Prop} [Decidable c] (ha : KeepsEnables s a) (hb : KeepsEnables s b) :
    KeepsEnables s (if c then a else b) := ite_writes ha hb

theorem raise0_enables (code : Nat) (body : List Nat) (s : State) : KeepsEnables s (raise0 code body s) :=
  (raise0_writes code body s).mono fun k hk => by
    rw [hk]
    simp only [isRopeEnable, Fld.key, Reg.EVT_COUNTS_DROPPED]
    omega

theorem flightOff_enables {g : Nat} (hg : g < 1184) (s : State) : KeepsEnables s (flightOff g s) :=
  (flightOff_writes g s).mono fun k hk => by
    simp only [isFlightField] at hk
    simp only [isRopeEnable]
    omega

theorem endInjection_enables (s : State) : KeepsEnables s (endInjection s) := by
  unfold endInjection
  split
  · exact .refl s
  · exact KeepsEnables.trans (fun _ _ => rfl) ((keepsEnables_set (f := Reg.INJ_STATUS_STATE) (by decide) 2 _).trans (raise0_enables _ _ _))

theorem endInjectionAt_enables (gf : Nat) (t : Option Nat) (s : State) : KeepsEnables s (endInjectionAt gf t s) := by
  unfold endInjectionAt
  split
  · exact ite_enables (endInjection_enables s) (.refl s)
  · exact .refl s

theorem showRoles_enables (p : Nat) (s : State) : KeepsEnables s (showRoles p s) :=
  (keepsEnables_set (f := Reg.RIG_STATUS_ALT_FREE p) (Nat.le_of_ble_eq_true rfl) _ s).trans
    (keepsEnables_set (f := Reg.RIG_STATUS_ROLES_MOVED p) (Nat.le_of_ble_eq_true rfl) _ _)

theorem showFenced_enables (gf : Nat) (s : State) : KeepsEnables s (showFenced gf s) := by
  unfold showFenced
  split
  · exact showRoles_enables _ s
  · exact .refl s

theorem journalFences_enables (s : State) : KeepsEnables s (journalFences s) := by
  unfold journalFences journalWrite
  exact ite_enables (.refl s) (KeepsEnables.trans (fun _ _ => rfl) (keepsEnables_bump (f := Reg.JRN_COUNTS_RECORDS) (by decide) 1 _))

theorem showCapacity_enables (s : State) : KeepsEnables s (showCapacity s) :=
  (keepsEnables_set (f := Reg.PKG_CAPACITY_ACTIVE_FLIGHTS) (by decide) _ s).trans
    (keepsEnables_set (f := Reg.PKG_CAPACITY_SPARED_ROWS) (by decide) _ _)

theorem ringBell_enables (c b : Nat) (s : State) : KeepsEnables s (ringBell c b s) := by
  have hset := keepsEnables_set (f := Reg.MB_P2H c) (Nat.le_of_ble_eq_true rfl) (s.get (Reg.MB_P2H c) ||| 2 ^ b) s
  exact ite_enables hset (hset.trans fun _ _ => rfl)

theorem notifyStep_enables (p b : Nat) (s : State) : KeepsEnables s (notifyStep p b s) :=
  foldl_enables (fun u c _ => ite_enables (ringBell_enables c b u) (.refl u)) s

theorem setSvcState_enables (p : Nat) (st : SvcState) (s : State) : KeepsEnables s (setSvcState p st s) :=
  KeepsEnables.trans (fun _ _ => rfl) (keepsEnables_set (f := Reg.STEP_STATUS_STATE p) (Nat.le_of_ble_eq_true rfl) _ _)

theorem setCause_enables (p cause : Nat) (s : State) : KeepsEnables s (s.set (Reg.STEP_STATUS_CAUSE p) cause) :=
  keepsEnables_set (Nat.le_of_ble_eq_true rfl) _ s

theorem toChildren_enables (p kind : Nat) (m : TreeMsg) (s : State) : KeepsEnables s (toChildren p kind m s) := by
  have h : KeepsBut [.out, .ropes] s (toChildren p kind m s) := by
    apply keepsBut_of_veil
    apply toChildren_frame <;> exact fun _ _ => rfl
  exact h.enables (by decide)

theorem toParent_enables (p kind : Nat) (m : TreeMsg) (s : State) : KeepsEnables s (toParent p kind m s) := by
  have h : KeepsBut [.out, .ropes] s (toParent p kind m s) := by
    apply keepsBut_of_veil
    apply toParent_frame <;> exact fun _ _ => rfl
  exact h.enables (by decide)

theorem beginOutage_enables (p : Nat) (own : Bool) (s : State) : KeepsEnables s (beginOutage p own s) :=
  (show KeepsBut [.svcs] s (beginOutage p own s) from keepsBut_of_veil (beginOutage_frame (fun _ _ => rfl) p own s)).enables (by decide)

theorem applyHalt_enables (p cause : Nat) (s : State) : KeepsEnables s (applyHalt p cause s) :=
  KeepsEnables.trans (fun _ _ => rfl) ((setSvcState_enables p .halted _).trans ((setCause_enables p cause _).trans (notifyStep_enables p 3 _)))

/-- The service of a partition with an order taken up. -/
def orderTaken (p : Nat) (kind : OrderKind) (target cause epoch : Nat) (s : State) : State :=
  let v := s.svc p
  s.setSvc p { v with
    order := some ⟨kind, target, cause, epoch, kind == .query, kind == .query, false,
      match v.order with
      | some o => o.absorbed
      | none => none⟩
    rewound := []
    votes := []
    voted := none
    outage := if kind == .rewind then v.outage else v.outage.map fun o => (o.1, false) }

/-- A partition that has taken up an order shows it, and the order is forwarded. -/
def orderShown (p : Nat) (kind : OrderKind) (target cause epoch : Nat) (s : State) : State :=
  let n := match kind with
    | .rewind => actRewind
    | _ => actRollback
  let own := match (s.svc p).outage with
    | some (_, o) => o
    | none => false
  let u := beginOutage p false (toChildren p Tree.rewind (orderMsg s p n target cause epoch) s)
  orderTaken p kind target cause epoch u |> setSvcState p (if kind == .rewind then .rewinding else .rollback)
    |> set (Reg.STEP_STATUS_CAUSE p) (if own || (s.svc p).order.isSome then u.get (Reg.STEP_STATUS_CAUSE p) else Why.peer)
    |> notifyStep p 1

theorem takeOrder_eq (p : Nat) (kind : OrderKind) (target cause epoch : Nat) (s : State) : takeOrder p kind target cause epoch s =
    match kind with
    | .query => orderShown p kind target cause epoch s
    | _ => beginWindDown p (orderShown p kind target cause epoch s) := rfl

theorem orderShown_enables (p : Nat) (kind : OrderKind) (target cause epoch : Nat) (s : State) :
    KeepsEnables s (orderShown p kind target cause epoch s) := by
  have htaken : ∀ u, KeepsEnables u (orderTaken p kind target cause epoch u) := fun _ _ _ => rfl
  exact (toChildren_enables p _ _ s).trans ((beginOutage_enables p false _).trans ((htaken _).trans
    ((setSvcState_enables p _ _).trans ((setCause_enables p _ _).trans (notifyStep_enables p 1 _)))))

theorem takeOrder_enables (p : Nat) (kind : OrderKind) (target cause epoch : Nat) (s : State) :
    KeepsEnables s (takeOrder p kind target cause epoch s) := by
  have hshown := orderShown_enables p kind target cause epoch s
  have hwound : KeepsEnables s (beginWindDown p (orderShown p kind target cause epoch s)) :=
    hshown.trans ((beginWindDown_rig p _).1.enables (by decide))
  rw [takeOrder_eq]
  split
  · exact hshown
  · exact hwound

theorem rootRequest_enables (p act cause : Nat) (s : State) : KeepsEnables s (rootRequest p act cause s) := by
  have hset : ∀ v : Svc, KeepsEnables s (s.setSvc p v) := fun _ _ _ => rfl
  unfold rootRequest
  dsimp only
  split
  · exact (toChildren_enables p _ _ s).trans (applyHalt_enables p cause _)
  · split
    · exact ite_enables (hset _) (.refl s)
    · exact ite_enables (.refl s) (ite_enables (takeOrder_enables p _ _ _ _ s) (takeOrder_enables p _ _ _ _ s))

theorem findCause_enables (p act cause : Nat) (s : State) : KeepsEnables s (findCause p act cause s) := by
  have hbegun : ∀ (c : Bool) (u : State), KeepsEnables u (if c then u else beginOutage p true u) := fun c u =>
    ite_enables (.refl u) (beginOutage_enables p true u)
  unfold findCause
  dsimp only
  refine ite_enables (.refl s) ((setCause_enables p cause s).trans ?_)
  refine (hbegun (act == actHalt || (s.svc p).state == .halted && cause != Why.software) _).trans ?_
  exact ite_enables (rootRequest_enables p act cause _) (toParent_enables p _ _ _)

theorem afterFence_enables (gf : Nat) (s : State) : KeepsEnables s (afterFence gf s) := by
  unfold afterFence
  split
  · exact ite_enables ((findCause_enables _ _ _ s).trans (journalFences_enables _)) (findCause_enables _ _ _ s)
  · exact (showCapacity_enables s).trans (journalFences_enables _)

theorem fenceFlight_enables {gf : Nat} (hg : gf < 1184) (inj : Bool) (s : State) : KeepsEnables s (fenceFlight gf inj s) := by
  have hmark : KeepsEnables s (markFlight gf inj s) := fun _ _ => rfl
  rw [fenceFlight_eq]
  refine ite_enables (.refl s) (hmark.trans ((flightOff_enables hg _).trans ((endInjectionAt_enables gf none _).trans ?_)))
  exact ((rerigFenced_keeps gf _).enables (by decide)).trans ((showFenced_enables gf _).trans (afterFence_enables gf _))

theorem checkSensors_enables (s : State) : KeepsEnables s (checkSensors s) := by
  rw [checkSensors_eq]
  refine foldl_enables (fun u g hg => fenceFlight_enables ?_ false u) s
  have hall := mem_upFrom.1 (List.mem_filter.1 hg).1
  omega

/-! READY. -/

/-- Capacity is shown as the last phase ends. -/
def readyShown (s : State) : State := { s with pkg := .ready } |> set Reg.SELFTEST_STATUS_PHASE 7 |> showCapacity

/-- The enabled ropes of a list are taken to DOWN. -/
def ropesDown (l : List Nat) (s : State) : State := l.foldl (fun s k => if s.on (Reg.ROPE_CTRL_ENABLE k) then ropeDown k s else s) s

theorem beginReady_eq (s : State) : beginReady s = ropesDown (upFrom 0 18) (readyShown s) := rfl

/-- What a rope taken to DOWN writes: its STATUS. -/
theorem ropeDown_writes (k : Nat) (s : State) : Writes (fun x => x / 64 = 0x800000 + k * 0x20000) s (ropeDown k s) := by
  have hrope : ∀ v : Rope, Writes (fun x => x / 64 = 0x800000 + k * 0x20000) s (s.setRope k v) := fun _ _ _ => rfl
  exact (hrope _).trans ((writes_set (f := Reg.ROPE_STATUS_ACTIVE k) (by simp only [Fld.key, Reg.ROPE_STATUS_ACTIVE]; omega) _ _).trans
    ((writes_set (f := Reg.ROPE_STATUS_WIDTH k) (by simp only [Fld.key, Reg.ROPE_STATUS_WIDTH]; omega) _ _).trans
      (writes_set (f := Reg.ROPE_STATUS_STATE k) (by simp only [Fld.key, Reg.ROPE_STATUS_STATE]; omega) _ _)))

theorem ropeDown_state (k : Nat) (s : State) : (ropeDown k s).ropeSt k = 1 := get_set_self _ _ _

theorem ropeDown_state_stays {k : Nat} {s : State} (h : s.ropeSt k = 1) (j : Nat) : (ropeDown j s).ropeSt k = 1 := by
  by_cases e : k = j
  · subst e
    exact ropeDown_state k s
  · refine (ropeDown_writes j s _ ?_).trans h
    simp only [Fld.key, Reg.ROPE_STATUS_STATE]
    omega

theorem ropesDown_writes {l : List Nat} (s : State) : Writes (fun x => ∃ k, x / 64 = 0x800000 + k * 0x20000) s (ropesDown l s) :=
  foldl_writes (fun u k _ => ite_writes ((ropeDown_writes k u).mono fun _ hx => ⟨k, hx⟩) (.refl _ u)) s

theorem ropesDown_state {l : List Nat} {k : Nat} (hk : k ∈ l) {s : State} (h : s.get (Reg.ROPE_CTRL_ENABLE k) = 1) :
    (ropesDown l s).ropeSt k = 1 := by
  have henable : ∀ (j : Nat) (u : State), (if u.on (Reg.ROPE_CTRL_ENABLE j) then ropeDown j u else u).get (Reg.ROPE_CTRL_ENABLE k)
      = u.get (Reg.ROPE_CTRL_ENABLE k) := fun j u => ite_writes (ropeDown_writes j u) (.refl _ u) _ (by
    simp only [Fld.key, Reg.ROPE_CTRL_ENABLE]
    omega)
  refine foldl_establishes (P := fun u => u.get (Reg.ROPE_CTRL_ENABLE k) = 1 → u.ropeSt k = 1) hk (fun u hu => ?_) (fun u j _ ih hu => ?_) s
    ((ropesDown_writes s _ ?_).trans h)
  · rw [henable] at hu
    rw [if_pos (by simp [State.on, hu])]
    exact ropeDown_state k u
  · rw [henable] at hu
    split
    · exact ropeDown_state_stays (ih hu) j
    · exact ih hu
  · rintro ⟨j, hj⟩
    simp only [Fld.key, Reg.ROPE_CTRL_ENABLE] at hj
    omega

theorem beginReady_claims (s : State) : (beginReady s).get Reg.SELFTEST_STATUS_PHASE = 7
    ∧ (beginReady s).get Reg.PKG_CAPACITY_ACTIVE_FLIGHTS = (1184 - (s.fence.flights.filter fun x => x.2 != 0).length) % 2 ^ 11
    ∧ ∀ k, k < 18 → s.get (Reg.ROPE_CTRL_ENABLE k) = 1 → (beginReady s).ropeSt k = 1 := by
  have hget : ∀ f : Fld, f.key / 64 < 0x800000 → (beginReady s).get f = (readyShown s).get f := fun f hf => by
    rw [beginReady_eq]
    refine ropesDown_writes _ f ?_
    rintro ⟨k, hk⟩
    omega
  refine ⟨(hget _ (by decide)).trans ?_, (hget _ (by decide)).trans ?_, fun k hk h => ?_⟩
  · exact (get_set_other _ _ (by decide)).trans ((get_set_other _ _ (by decide)).trans (get_set_self _ _ _))
  · exact (get_set_other _ _ (by decide)).trans (get_set_self _ _ _)
  · rw [beginReady_eq]
    refine ropesDown_state (mem_upFrom.2 ⟨Nat.zero_le k, by omega⟩) (Eq.trans ?_ h)
    refine (showCapacity_enables _ _ (not_not.2 ?_)).trans (get_set_other _ { s with pkg := .ready } ?_)
    · simp only [isRopeEnable, Fld.key, Reg.ROPE_CTRL_ENABLE]
      omega
    · simp only [Fld.key, Reg.ROPE_CTRL_ENABLE, Reg.SELFTEST_STATUS_PHASE]
      omega

/-! What the end of a phase leaves of what the phase found. -/

theorem beginReady_keeps (s : State) : KeepsBut [.pkg, .regs, .ropes] s (beginReady s) := by
  have hshown : KeepsBut [.pkg, .regs, .ropes] s (readyShown s) := fun a ha => by
    cases a <;> simp [Area.same, readyShown, showCapacity] at ha ⊢
  have hdown : ∀ (l : List Nat) (u : State), KeepsBut [.pkg, .regs, .ropes] u (ropesDown l u) := fun l => foldl_keeps fun u k _ => by
    split
    · refine KeepsBut.mono (l := [.regs, .ropes]) ?_ (by decide)
      apply keepsBut_of_veil
      apply ropeDown_frame <;> exact fun _ _ => rfl
    · exact .refl _ u
  rw [beginReady_eq]
  exact hshown.trans (hdown _ _)

/-- A failed phase shown. -/
def failShown (n : Nat) (s : State) : State := s |> set Reg.SELFTEST_STATUS_PHASE 0xF |> set Reg.SELFTEST_STATUS_FAIL_PHASE n

theorem failSelfTest_eq (n : Nat) (s : State) : failSelfTest n s = raise0 Ev.selfTestFailed [n] (packageFault (failShown n s)) := rfl

theorem failShown_keeps (n : Nat) (s : State) : KeepsBut [.regs] s (failShown n s) := (keepsBut_set _ _ s).trans (keepsBut_set _ _ _)

theorem failSelfTest_keeps (n : Nat) (s : State) : KeepsBut [.regs, .pkg, .seq, .out, .pins, .rings, .det] s (failSelfTest n s) :=
  ((failShown_keeps n s).mono (by decide)).trans (((packageFault_keeps _).mono (by decide)).trans
    ((raise0_keeps Ev.selfTestFailed [n] _).mono (by decide)))

theorem failSelfTest_get (n : Nat) (s : State) {f : Fld} (hf : f.key ≠ (Reg.EVT_COUNTS_DROPPED 0).key) :
    (failSelfTest n s).get f = (failShown n s).get f :=
  (raise0_writes _ _ _ f hf).trans ((packageFault_keeps _).writes (by decide) (fun _ => False) f (by simp))

theorem failSelfTest_claims {n : Nat} (hn : n ≤ 6) {s t : State} (hpkg : t.pkg = s.pkg) (hpins : t.pins = s.pins) :
    Faulted s (failSelfTest n t) ∧ (failSelfTest n t).get Reg.SELFTEST_STATUS_PHASE = 0xF
    ∧ (failSelfTest n t).get Reg.SELFTEST_STATUS_FAIL_PHASE = n ∧ Recorded 0x0013 [n] (failSelfTest n t) := by
  have hraise := raise0_keeps Ev.selfTestFailed [n] (packageFault (failShown n t))
  obtain ⟨hfault, hdrive⟩ := packageFault_faulted (failShown n t)
  have hshown := failShown_keeps n t
  refine ⟨⟨(hraise .pkg (by decide)).trans hfault, fun h => ?_⟩, ?_, ?_, recorded_raise0 0x0013 [n] _⟩
  · obtain ⟨hp, ho⟩ := hdrive (by rwa [hshown .pkg (by decide), hpkg])
    have hpins' : (failSelfTest n t).pins = { s.pins with faultN := false } :=
      (hraise .pins (by decide)).trans (hp.trans (by rw [hshown .pins (by decide), hpins]))
    have hout : (failSelfTest n t).out = (packageFault (failShown n t)).out := hraise .out (by decide)
    exact ⟨hpins', by rw [hout]; exact ho⟩
  · exact (failSelfTest_get n t (by decide)).trans ((get_set_other _ _ (by decide)).trans (get_set_self _ _ _))
  · exact (failSelfTest_get n t (by decide)).trans ((get_set_self _ _ _).trans (Nat.mod_eq_of_lt (Nat.lt_of_le_of_lt hn (by decide))))

section
variable {n : Nat} {fatal : Bool} {f : State}

/-- The phase ends in FAULT. -/
def PhaseFails (fatal : Bool) (f : State) : Prop := fatal = true ∨ 64 < f.fence.flights.length

theorem selfTestGoesOn_fails (h : PhaseFails fatal f) : selfTestGoesOn n fatal f = failSelfTest n f :=
  if_pos (by simpa [PhaseFails] using h)

theorem selfTestGoesOn_ready (h : ¬PhaseFails fatal f) (hn : n = 6) : selfTestGoesOn n fatal f = beginReady f :=
  (if_neg (by simpa [PhaseFails] using h)).trans (if_pos hn)

theorem selfTestGoesOn_next (h : ¬PhaseFails fatal f) (hn : n ≠ 6) :
    selfTestGoesOn n fatal f = f.set Reg.SELFTEST_STATUS_PHASE (n + 1) :=
  (if_neg (by simpa [PhaseFails] using h)).trans (if_neg hn)

theorem selfTestGoesOn_keeps (n : Nat) (fatal : Bool) (f : State) :
    KeepsBut [.regs, .pkg, .seq, .out, .pins, .ropes, .rings, .det] f (selfTestGoesOn n fatal f) := by
  unfold selfTestGoesOn
  split
  · exact (failSelfTest_keeps n f).mono (by decide)
  · split
    · exact (beginReady_keeps f).mono (by decide)
    · exact (keepsBut_set _ _ f).mono (by decide)

/-- Before the last phase a field beside SELFTEST_STATUS and the count of dropped records stays. -/
theorem selfTestGoesOn_get (hn : n ≠ 6) {g : Fld} (hs : g.key / 64 ≠ 0x600100) (hd : g.key ≠ (Reg.EVT_COUNTS_DROPPED 0).key) :
    (selfTestGoesOn n fatal f).get g = f.get g := by
  have hphase : g.key ≠ Reg.SELFTEST_STATUS_PHASE.key := fun e => hs (by rw [e]; rfl)
  have hfail : g.key ≠ Reg.SELFTEST_STATUS_FAIL_PHASE.key := fun e => hs (by rw [e]; rfl)
  by_cases h : PhaseFails fatal f
  · rw [selfTestGoesOn_fails h, failSelfTest_get n f hd]
    exact (get_set_other _ _ hfail).trans (get_set_other _ _ hphase)
  · rw [selfTestGoesOn_next h hn]
    exact get_set_other _ _ hphase

theorem selfTestGoesOn_recorded (hn : n ≠ 6) {code : Nat} {body : List Nat} (h : Recorded code body f) :
    Recorded code body (selfTestGoesOn n fatal f) := by
  by_cases hf : PhaseFails fatal f
  · rw [selfTestGoesOn_fails hf, failSelfTest_eq]
    exact ((packageFault_keeps _).recorded (by decide) ((failShown_keeps n f).recorded (by decide) h)).raise0 _ _
  · rw [selfTestGoesOn_next hf hn]
    exact (keepsBut_set _ _ f).recorded (by decide) h

theorem raise0_sram (code : Nat) (body : List Nat) (s : State) : (raise0 code body s).det.sram = s.det.sram := by
  have hqueue : (raise0 code body s).det = (stamped code s).det :=
    queueRecord_frame (φ := State.det) (fun _ _ => rfl) (fun _ _ => rfl) 0 _ (stamped code s)
  rw [hqueue]
  rfl

theorem selfTestGoesOn_sram (n : Nat) (fatal : Bool) (f : State) : (selfTestGoesOn n fatal f).det.sram = f.det.sram := by
  unfold selfTestGoesOn
  split
  · have hfault : (packageFault (failShown n f)).det = f.det := (packageFault_keeps _ .det (by decide)).trans (failShown_keeps n f .det (by decide))
    rw [failSelfTest_eq, raise0_sram, hfault]
  · split
    · rw [show (beginReady f).det = f.det from beginReady_keeps f .det (by decide)]
    · rfl

end

/-! What each phase finds. -/

section
variable {treads flights : List Nat} {wrong : List (Nat × Nat × Nat × Nat)} {readings : List (Nat × Int)} {fatal : Bool}

theorem selfTestScanned_later {n : Nat} (hn : n ≠ 1) (fatal : Bool) (s : State) : selfTestScanned n fatal s = s := by
  rw [selfTestScanned, if_neg (by simp [hn])]

theorem selfTestFound_later {n : Nat} (hn : n ≠ 1) (s : State) : selfTestFound n treads flights wrong readings fatal s
    = selfTestCounted s (runPhase n treads flights wrong readings s) := by rw [selfTestFound, selfTestScanned_later hn]

/-- The counts of fences stand in SELFTEST_STATUS. -/
theorem selfTestCounted_get (u s : State) {g : Fld} (hg : g.key / 64 ≠ 0x600100) : (selfTestCounted u s).get g = s.get g :=
  (get_set_other _ _ fun e => hg (by rw [e]; rfl)).trans (get_set_other _ _ fun e => hg (by rw [e]; rfl))

theorem runPhase_two (s : State) : runPhase 2 treads flights wrong readings s = marchControl s := rfl

theorem runPhase_five (s : State) : runPhase 5 treads flights wrong readings s
    = flights.foldl (fun s g => fenceFlight g false s) (checkArrays wrong s) := rfl

theorem runPhase_six (s : State) : runPhase 6 treads flights wrong readings s = checkSensors (takeReadings readings s) := rfl

theorem found2_empty (s : State) : let f := selfTestFound 2 treads flights wrong readings fatal s
    f.det.sram = [] ∧ ∀ k, k < 16 → (f.uc k).scratch = [] ∧ (f.uc k).v = [] := by
  have hk := selfTestCounted_keeps s (marchControl s)
  rw [selfTestFound_later (by decide), runPhase_two]
  have huc : ∀ k, (selfTestCounted s (marchControl s)).uc k = (marchControl s).uc k := fun k => by
    rw [State.uc, hk .ucs (by decide)]; rfl
  refine ⟨by rw [hk .det (by decide)]; exact marchControl_sram s, fun k hlt => ?_⟩
  rw [huc]
  exact marchControl_uc hlt s

theorem found2_fence (s : State) : (selfTestFound 2 treads flights wrong readings fatal s).fence = s.fence := by
  rw [selfTestFound_later (by decide)]
  exact ((selfTestCounted_keeps s _).fence (by decide)).trans ((marchControl_keeps s).fence (by decide))

theorem found3_fence (s : State) : (selfTestFound 3 treads flights wrong readings fatal s).fence = s.fence := by
  rw [selfTestFound_later (by decide)]
  exact ((selfTestCounted_keeps s _).fence (by decide)).trans ((bringUpBundles_keeps s).fence (by decide))

theorem found3_up {b : Nat} (hb : b < 144) (s : State) : BundleUp b (selfTestFound 3 treads flights wrong readings fatal s) := by
  rw [selfTestFound_later (by decide), BundleUp, State.dieSt, selfTestCounted_get _ _ (by simp only [Fld.key, Reg.DL_STATUS_STATE]; omega)]
  exact bringUpBundles_up hb s

theorem found4_fenced (s : State) : let f := selfTestFound 4 treads flights wrong readings fatal s
    (∀ t ∈ treads, f.treadFenced t = true) ∧ ∀ g ∈ flights, f.flightFenced g = true := by
  rw [selfTestFound_later (by decide)]
  have hk := (selfTestCounted_keeps s (runPhase 4 treads flights wrong readings s)).fence (by decide)
  refine ⟨fun t ht => ?_, fun g hg => ?_⟩
  · rw [treadFenced_congr hk]
    exact (fenceFlights_grows flights _).1 t (fenceTreads_fenced ht s)
  · rw [flightFenced_congr hk]
    exact (fenceFlights_flightFenced flights _ g).2 (.inr hg)

theorem found5_fenced (s : State) : let f := selfTestFound 5 treads flights wrong readings fatal s
    (∀ g ∈ flights, f.flightFenced g = true)
    ∧ ∀ g fmt, g < 1184 → fmt ∈ selfFmts → outputDigest fmt (arrayOutput wrong g fmt) ≠ Config.golden fmt →
      ArrayFenced wrong g fmt f := by
  rw [selfTestFound_later (by decide)]
  have hk := (selfTestCounted_keeps s (runPhase 5 treads flights wrong readings s)).fence (by decide)
  refine ⟨fun g hg => ?_, fun g fmt hg hf h => ?_⟩
  · rw [flightFenced_congr hk]
    exact (fenceFlights_flightFenced flights _ g).2 (.inr hg)
  · have harray : ArrayFenced wrong g fmt (checkArrays wrong s) := by
      rw [checkArrays_eq]
      exact checkFlights_unsound (mem_upFrom.2 ⟨Nat.zero_le g, by omega⟩) hf h s
    exact (harray.grows (fenceFlights_grows flights _)).grows (fenceGrows_of_fence hk)

theorem found5_sound (hs : ∀ g fmt, g < 1184 → fmt ∈ selfFmts → outputDigest fmt (arrayOutput wrong g fmt) = Config.golden fmt) (s : State) :
    (selfTestFound 5 treads [] wrong readings fatal s).fence = s.fence := by
  have harrays : checkArrays wrong s = s := by
    rw [checkArrays_eq]
    exact checkFlights_sound (fun g hg fmt hf => hs g fmt (by have := (mem_upFrom.1 hg).2; omega) hf) s
  rw [selfTestFound_later (by decide), runPhase_five, List.foldl_nil, harrays]
  exact (selfTestCounted_keeps s s).fence (by decide)

theorem found6_fenced {g : Nat} (hg : g < 1184) (s : State) :
    (selfTestFound 6 treads flights wrong readings fatal s).flightFenced g = true
    ↔ s.flightFenced g = true ∨ (takeReadings readings s).sensorOk g = false := by
  have hk := (selfTestCounted_keeps s (checkSensors (takeReadings readings s))).fence (by decide)
  have hread : (takeReadings readings s).flightFenced g = s.flightFenced g :=
    flightFenced_congr ((takeReadings_keeps readings s).fence (by decide)) g
  rw [selfTestFound_later (by decide), runPhase_six, flightFenced_congr hk, checkSensors_flightFenced hg, hread]

theorem found6_enable {k : Nat} (hk : k < 18) (s : State) :
    (selfTestFound 6 treads flights wrong readings fatal s).get (Reg.ROPE_CTRL_ENABLE k) = s.get (Reg.ROPE_CTRL_ENABLE k) := by
  rw [selfTestFound_later (by decide), selfTestCounted_get _ _ (by simp only [Fld.key, Reg.ROPE_CTRL_ENABLE]; omega)]
  have h : KeepsEnables s (checkSensors (takeReadings readings s)) :=
    ((takeReadings_keeps readings s).enables (by decide)).trans (checkSensors_enables _)
  refine h _ (not_not.2 ?_)
  simp only [isRopeEnable, Fld.key, Reg.ROPE_CTRL_ENABLE]
  omega

end

/-! The claims. -/

theorem selfTest_ok {treads flights : List Nat} {wrong : List (Nat × Nat × Nat × Nat)} {readings : List (Nat × Int)}
    (ht : ∀ t ∈ treads, treadOk t = true) (hf : ∀ g ∈ flights, g < 1184) (hw : ∀ x ∈ wrong, selfElemOk x = true)
    (hr : ∀ x ∈ readings, x.1 < 1184) : selfTestOk ⟨treads, flights⟩ ⟨wrong, readings⟩ = true := by
  simp only [selfTestOk, Bool.and_eq_true, List.all_eq_true, gfOk, decide_eq_true_eq]
  exact ⟨⟨⟨ht, hf⟩, hw⟩, hr⟩

section
variable {now : W64} {treads flights : List Nat} {wrong : List (Nat × Nat × Nat × Nat)} {readings : List (Nat × Int)} {fatal : Bool}
  {s : State}

/-- What phase `n` finds in a state at time `now`. -/
def phaseFound (now : W64) (n : Nat) (treads flights : List Nat) (wrong : List (Nat × Nat × Nat × Nat)) (readings : List (Nat × Int))
    (fatal : Bool) (s : State) : State :=
  selfTestFound n treads flights wrong readings fatal (at_ now { s with out := [] })

theorem phaseFound_keeps (n : Nat) : KeepsBut [.regs, .time, .seq, .out, .fence, .power, .rigs, .treads, .flights, .ucs, .ropes, .bundles,
    .rings, .svcs, .journal, .det] s (phaseFound now n treads flights wrong readings fatal s) :=
  ((keepsBut_out s []).mono (by decide)).trans (((at_keeps now _).mono (by decide)).trans
    ((selfTestFound_keeps n treads flights wrong readings fatal _).mono (by decide)))

theorem selfTest_gives (hok : selfTestOk ⟨treads, flights⟩ ⟨wrong, readings⟩ = true) (hboot : s.pkg = .boot) {n : Nat}
    (hn : n = max 1 (s.get Reg.SELFTEST_STATUS_PHASE)) {P : State → Prop}
    (h : P (selfTestGoesOn n fatal (phaseFound now n treads flights wrong readings fatal s))) :
    Gives (.selfTestPhaseComplete now ⟨treads, flights⟩ ⟨wrong, readings⟩ fatal) s P := by
  have hc : exec (.selfTestPhaseComplete now ⟨treads, flights⟩ ⟨wrong, readings⟩ fatal) s = perform true (fun s =>
      if s.pkg != .boot then s
      else selfTestGoesOn s.selfTestPhase fatal
        (selfTestFound s.selfTestPhase treads flights wrong readings fatal (at_ now s))) s :=
    (execSelfTest_eq now ⟨treads, flights⟩ ⟨wrong, readings⟩ fatal s).trans (perform_eq_of_effect hok rfl)
  subst hn
  exact gives_value hc (if_neg (by simp [hboot])) ((selfTestGoesOn_keeps _ fatal _ .pending (by decide)).trans
    (phaseFound_keeps _ .pending (by decide))) h

theorem selfTest_still (hok : selfTestOk ⟨treads, flights⟩ ⟨wrong, readings⟩ = true) (h : s.pkg ≠ .boot) :
    Gives (.selfTestPhaseComplete now ⟨treads, flights⟩ ⟨wrong, readings⟩ fatal) s (KeepsBut [.out] s) := by
  have hc : exec (.selfTestPhaseComplete now ⟨treads, flights⟩ ⟨wrong, readings⟩ fatal) s = perform true (fun s =>
      if s.pkg != .boot then s
      else selfTestGoesOn s.selfTestPhase fatal
        (selfTestFound s.selfTestPhase treads flights wrong readings fatal (at_ now s))) s :=
    (execSelfTest_eq now ⟨treads, flights⟩ ⟨wrong, readings⟩ fatal s).trans (perform_eq_of_effect hok rfl)
  exact gives_still hc (if_pos (by simpa using h))

end

/-! The end of a phase that leaves a state `f` of the state `s` before it. -/

section
variable {n : Nat} {fatal : Bool} {s f : State}

theorem phase_fails (hk : KeepsBut [.regs, .time, .seq, .out, .fence, .power, .rigs, .treads, .flights, .ucs, .ropes, .bundles,
    .rings, .svcs, .journal, .det] s f) (hn : n ≤ 6) (h : PhaseFails fatal f) :
    Faulted s (selfTestGoesOn n fatal f) ∧ (selfTestGoesOn n fatal f).get Reg.SELFTEST_STATUS_PHASE = 0xF
      ∧ (selfTestGoesOn n fatal f).get Reg.SELFTEST_STATUS_FAIL_PHASE = n ∧ Recorded 0x0013 [n] (selfTestGoesOn n fatal f) := by
  rw [selfTestGoesOn_fails h]
  exact failSelfTest_claims hn (hk .pkg (by decide)) (hk .pins (by decide))

theorem phase_next (hpkg : f.pkg = .boot) (hn : n < 6) (h : ¬PhaseFails fatal f) :
    (selfTestGoesOn n fatal f).pkg = .boot ∧ (selfTestGoesOn n fatal f).get Reg.SELFTEST_STATUS_PHASE = n + 1 := by
  rw [selfTestGoesOn_next h (by omega)]
  exact ⟨hpkg, (get_set_self _ _ _).trans (Nat.mod_eq_of_lt (show n + 1 < 16 by omega))⟩

theorem phase_ready (h : ¬PhaseFails fatal f)
    (henable : ∀ k, k < 18 → f.get (Reg.ROPE_CTRL_ENABLE k) = s.get (Reg.ROPE_CTRL_ENABLE k)) :
    (selfTestGoesOn 6 fatal f).pkg = .ready ∧ (selfTestGoesOn 6 fatal f).get Reg.SELFTEST_STATUS_PHASE = 7
      ∧ (selfTestGoesOn 6 fatal f).get Reg.PKG_CAPACITY_ACTIVE_FLIGHTS
        = (1184 - ((selfTestGoesOn 6 fatal f).fence.flights.filter fun x => x.2 != 0).length) % 2 ^ 11
      ∧ ∀ k, k < 18 → s.get (Reg.ROPE_CTRL_ENABLE k) = 1 → (selfTestGoesOn 6 fatal f).ropeSt k = 1 := by
  rw [selfTestGoesOn_ready h rfl]
  obtain ⟨hphase, hcap, hrope⟩ := beginReady_claims f
  refine ⟨beginReady_pkg _, hphase, by rw [(beginReady_keeps f).fence (by decide)]; exact hcap, fun k hk hs => ?_⟩
  exact hrope k hk ((henable k hk).trans hs)

theorem phase_uc (n : Nat) (fatal : Bool) (f : State) (k : Nat) : (selfTestGoesOn n fatal f).uc k = f.uc k := by
  rw [State.uc, selfTestGoesOn_keeps n fatal f .ucs (by decide)]; rfl

/-- What the end of phase 1 leaves of the journal's records. -/
def JournalApplied (s u : State) : Prop :=
  (∀ b, s.journal.body? 1 0 = some b → u.get Reg.PKG_ID_ID = leAt b 0 2 % 2 ^ 14)
    ∧ (∀ p b, p < 8 → s.journal.body? 7 p = some b →
      u.get (Reg.DEBUG_READS_COUNT p) = leAt b 0 4 ∧ u.get (Reg.DEBUG_WRITES_COUNT p) = leAt b 4 4)
    ∧ (s.journal.active = none → Recorded 0x0012 [] u)
    ∧ (s.journal.body? 1 0 = none → Recorded 0x0010 [0x1_0000] u)
    ∧ ((∀ r ∈ s.journal.applied, r.type ≠ 6) → Recorded 0x0010 [0x6_0000] u)

theorem lacks_id {j : Journal} (h : j.body? 1 0 = none) : j.lacks (1, 0) = true := by
  simpa [Journal.lacks, Journal.body?] using h

theorem lacks_cal {j : Journal} (h : ∀ r ∈ j.applied, r.type ≠ 6) : j.lacks (6, 0) = true := by
  simpa [Journal.lacks] using h

theorem scanJournal_applied (hj : s.journal.copying = false) : JournalApplied s (scanJournal s) :=
  ⟨fun _ hb => scanJournal_id hj hb, fun _ _ hp hb => scanJournal_counts hj hp hb, scanJournal_fault hj,
    fun h => scanJournal_lacks hj (k := (1, 0)) (by simp [jRecords]) (lacks_id h),
    fun h => scanJournal_lacks hj (k := (6, 0)) (by simp [jRecords]) (lacks_cal h)⟩

/-- The records stay in force where registers beside SELFTEST_STATUS and records of events stay. -/
theorem JournalApplied.then {u : State} (h : JournalApplied s f)
    (hget : ∀ g : Fld, g.key / 64 ≠ 0x600100 → g.key ≠ (Reg.EVT_COUNTS_DROPPED 0).key → u.get g = f.get g)
    (hrec : ∀ code body, Recorded code body f → Recorded code body u) : JournalApplied s u := by
  obtain ⟨hid, hcounts, hfault, hnoId, hnoCal⟩ := h
  refine ⟨fun b hb => (hget _ (by decide) (by decide)).trans (hid b hb), fun p b hp hb => ?_, fun ha => hrec _ _ (hfault ha),
    fun ha => hrec _ _ (hnoId ha), fun ha => hrec _ _ (hnoCal ha)⟩
  obtain ⟨hreads, hwrites⟩ := hcounts p b hp hb
  refine ⟨(hget _ ?_ ?_).trans hreads, (hget _ ?_ ?_).trans hwrites⟩ <;>
    simp only [Fld.key, Reg.DEBUG_READS_COUNT, Reg.DEBUG_WRITES_COUNT, Reg.EVT_COUNTS_DROPPED] <;> omega

theorem selfTestCounted_applied {u : State} (h : JournalApplied s f) : JournalApplied s (selfTestCounted u f) :=
  h.then (fun _ hs _ => selfTestCounted_get u f hs) fun _ _ hr => (selfTestCounted_keeps u f).recorded (by decide) hr

theorem selfTestGoesOn_applied (hn : n ≠ 6) (h : JournalApplied s f) : JournalApplied s (selfTestGoesOn n fatal f) :=
  h.then (fun _ hs hd => selfTestGoesOn_get hn hs hd) fun _ _ hr => selfTestGoesOn_recorded hn hr

end

/-- What phase `n` finds in the state `s`, as the state `f` that it leaves. -/
structure PhaseFinds (now : W64) (n : Nat) (treads flights : List Nat) (wrong : List (Nat × Nat × Nat × Nat))
    (readings : List (Nat × Int)) (fatal : Bool) (s f : State) : Prop where
  keeps : KeepsBut [.regs, .time, .seq, .out, .fence, .power, .rigs, .treads, .flights, .ucs, .ropes, .bundles, .rings, .svcs, .journal,
    .det] s f
  time : f.time = max s.time now.toNat
  enables : n = 6 → ∀ k, k < 18 → f.get (Reg.ROPE_CTRL_ENABLE k) = s.get (Reg.ROPE_CTRL_ENABLE k)
  empty : n = 2 → f.det.sram = [] ∧ ∀ k, k < 16 → (f.uc k).scratch = [] ∧ (f.uc k).v = []
  treadsFenced : n = 4 → ∀ t ∈ treads, f.treadFenced t = true
  flightsFenced : n = 4 ∨ n = 5 → ∀ g ∈ flights, f.flightFenced g = true
  unsound : n = 5 → ∀ g fmt, g < 1184 → fmt ∈ selfFmts → outputDigest fmt (arrayOutput wrong g fmt) ≠ Config.golden fmt →
    ArrayFenced wrong g fmt f
  sound : n = 5 → flights = [] → (∀ g fmt, g < 1184 → fmt ∈ selfFmts → outputDigest fmt (arrayOutput wrong g fmt) = Config.golden fmt) →
    f.fence = s.fence
  sensors : n = 6 → ∀ g, g < 1184 → (f.flightFenced g = true ↔ s.flightFenced g = true ∨ (takeReadings readings s).sensorOk g = false)
  fenceStays : n = 2 ∨ n = 3 → f.fence = s.fence
  bundles : n = 3 → ∀ b, b < 144 → BundleUp b f
  journal : n = 1 → fatal = false → s.journal.copying = false → JournalApplied s f

theorem phaseFound_finds (now : W64) (n : Nat) (treads flights : List Nat) (wrong : List (Nat × Nat × Nat × Nat))
    (readings : List (Nat × Int)) (fatal : Bool) (s : State) :
    PhaseFinds now n treads flights wrong readings fatal s (phaseFound now n treads flights wrong readings fatal s) where
  keeps := phaseFound_keeps n
  time := selfTestFound_keeps n treads flights wrong readings fatal _ .time (by decide)
  enables := by
    rintro rfl k hk
    exact found6_enable hk (at_ now { s with out := [] })
  empty := by
    rintro rfl
    exact found2_empty (at_ now { s with out := [] })
  treadsFenced := by
    rintro rfl
    exact (found4_fenced (at_ now { s with out := [] })).1
  flightsFenced := by
    rintro (rfl | rfl)
    · exact (found4_fenced (at_ now { s with out := [] })).2
    · exact (found5_fenced (at_ now { s with out := [] })).1
  unsound := by
    rintro rfl
    exact (found5_fenced (at_ now { s with out := [] })).2
  sound := by
    rintro rfl rfl hs
    exact found5_sound hs (at_ now { s with out := [] })
  sensors := by
    rintro rfl g hg
    have hread : (takeReadings readings (at_ now { s with out := [] })).sensorOk g = (takeReadings readings s).sensorOk g :=
      sensorOk_congr rfl g
    rw [← hread]
    exact found6_fenced hg (at_ now { s with out := [] })
  fenceStays := by
    rintro (rfl | rfl)
    · exact found2_fence (at_ now { s with out := [] })
    · exact found3_fence (at_ now { s with out := [] })
  bundles := by
    rintro rfl b hb
    exact found3_up hb (at_ now { s with out := [] })
  journal := by
    rintro rfl rfl hj
    exact selfTestCounted_applied (scanJournal_applied (s := at_ now { s with out := [] }) hj)

/-- Settles O54: what each phase finds, and what the end of a phase gives way to, which leaves of it what was found. -/
theorem selfTestPhases : Obligations.SelfTestPhases := by
  intro now treads flights wrong readings fatal s ht hf hw hr sound n many
  have hok := selfTest_ok ht hf hw hr
  refine ⟨selfTest_still hok, fun hboot hn => selfTest_gives (n := n) hok hboot rfl ?_⟩
  have hfinds := phaseFound_finds now n treads flights wrong readings fatal s
  have h1 : 1 ≤ n := Nat.le_max_left 1 _
  clear_value n
  generalize phaseFound now n treads flights wrong readings fatal s = f at hfinds
  have hon := selfTestGoesOn_keeps n fatal f
  have hfence : (selfTestGoesOn n fatal f).fence = f.fence := hon.fence (by decide)
  have htread := treadFenced_congr hfence
  have hflight := flightFenced_congr hfence
  have hends : PhaseFails fatal f ↔ fatal = true ∨ many (selfTestGoesOn n fatal f) := by simp only [PhaseFails, many, hfence]
  have hgood : fatal = false → ¬many (selfTestGoesOn n fatal f) → ¬PhaseFails fatal f := fun hb hm h => (hends.1 h).elim (by simp [hb]) hm
  refine ⟨(hon.mem (by decide)).trans (hfinds.keeps.mem (by decide)), (hon .sec (by decide)).trans (hfinds.keeps .sec (by decide)),
    (hon .parts (by decide)).trans (hfinds.keeps .parts (by decide)), (hon .time (by decide)).trans hfinds.time,
    fun h => phase_fails hfinds.keeps hn (hends.2 h),
    fun hb hm hlt => phase_next ((hfinds.keeps .pkg (by decide)).trans hboot) hlt (hgood hb hm), fun hb hm h6 => ?_, fun h2 => ?_,
    fun h4 t hmem => (htread t).trans (hfinds.treadsFenced h4 t hmem), fun h45 g hmem => (hflight g).trans (hfinds.flightsFenced h45 g hmem),
    fun h5 g fmt hg hfmt hs => (hfinds.unsound h5 g fmt hg hfmt hs).grows (fenceGrows_of_fence hfence),
    fun h5 hnone hs => hfence.trans (hfinds.sound h5 hnone hs), fun h6 g hg => hflight g ▸ hfinds.sensors h6 g hg,
    fun hlt hne => hfence.trans (hfinds.fenceStays (by omega)), fun h3 b hb => ?_, fun h1 hb hj => ?_⟩
  · subst h6
    exact phase_ready (hgood hb hm) (hfinds.enables rfl)
  · obtain ⟨hsram, huc⟩ := hfinds.empty h2
    exact ⟨(selfTestGoesOn_sram n fatal f).trans hsram, fun k hk => phase_uc n fatal f k ▸ huc k hk⟩
  · have hstate : (selfTestGoesOn n fatal f).dieSt b = f.dieSt b :=
      selfTestGoesOn_get (by omega) (by simp only [Fld.key, Reg.DL_STATUS_STATE]; omega)
        (by simp only [Fld.key, Reg.DL_STATUS_STATE, Reg.EVT_COUNTS_DROPPED]; omega)
    rw [hstate]
    exact hfinds.bundles h3 b hb
  · exact selfTestGoesOn_applied (by omega) (hfinds.journal h1 hb hj)

end Sys2Proof.Machine
end

section
/-!
PROOFS. What never falls: the newel timer, the fences, FUSE_SVN, the debug unlocks and the free values taken (02 R48, 04 R146,
14 R491, R493).
-/
namespace Sys2Proof.Machine
open State Laws

/-! ## What never falls (O60)

FUSE_SVN and the count of debug unlocks lie in a part that many commands write, `State.sec`: `Sec.fuses` reads them, and of each
operation and command that writes the part a lemma says that both stay. -/

/-- FUSE_SVN and the debug unlocks since production. -/
def Sec.fuses (x : Sec) : Nat × Nat := (x.fuseSvn, x.unlocks)

/-- A write of another part does not reach `State.sec`. -/
@[simp] theorem blind_sec :
    Blind.regs State.sec ∧ Blind.pkg State.sec ∧ Blind.time State.sec ∧ Blind.timers State.sec ∧ Blind.seq State.sec ∧
    Blind.free State.sec ∧ Blind.pending State.sec ∧ Blind.out State.sec ∧ Blind.hiLatch State.sec ∧
    Blind.commitLatch State.sec ∧ Blind.pins State.sec ∧ Blind.fence State.sec ∧ Blind.power State.sec ∧ Blind.rigs State.sec ∧
    Blind.treads State.sec ∧ Blind.chans State.sec ∧ Blind.knots State.sec ∧ Blind.flights State.sec ∧ Blind.stages State.sec ∧
    Blind.ctxs State.sec ∧ Blind.landings State.sec ∧ Blind.parts State.sec ∧ Blind.reds State.sec ∧ Blind.mem State.sec ∧
    Blind.memCheck State.sec ∧ Blind.memEpoch State.sec ∧ Blind.memKey State.sec ∧ Blind.ucs State.sec ∧ Blind.sparse State.sec ∧
    Blind.gathers State.sec ∧ Blind.ropes State.sec ∧ Blind.lasers State.sec ∧ Blind.fabric State.sec ∧ Blind.bundles State.sec ∧
    Blind.hces State.sec ∧ Blind.rings State.sec ∧ Blind.pcie State.sec ∧ Blind.svcs State.sec ∧ Blind.journal State.sec ∧
    Blind.det State.sec := by
  and_intros <;> exact fun _ _ => rfl

@[simp] theorem foldl_fuses {β : Type} {g : State → β → State} (h : ∀ s x, (g s x).sec.fuses = s.sec.fuses) (l : List β) (s : State) :
    (l.foldl g s).sec.fuses = s.sec.fuses := foldl_frame (φ := fun s => s.sec.fuses) h l s

@[simp] theorem ite_sec {c : Prop} [Decidable c] (a b : State) : (if c then a else b).sec = if c then a.sec else b.sec :=
  apply_ite State.sec _ _ _

@[simp] theorem ite_fuses {c : Prop} [Decidable c] (a b : Sec) : (if c then a else b).fuses = if c then a.fuses else b.fuses :=
  apply_ite Sec.fuses _ _ _

@[simp] theorem ite_snd {α β : Type} {c : Prop} [Decidable c] (a b : α × β) : (if c then a else b).2 = if c then a.2 else b.2 :=
  apply_ite Prod.snd _ _ _

theorem fuses_next {α : Type} {x : α × State} {a : α} {t : State} (h : x = (a, t)) : t.sec.fuses = x.2.sec.fuses := by rw [h]

/-! A write of another field of the part. -/

@[simp] theorem Sec.fuses_with_counted (x : Sec) (l : List Nat) : Sec.fuses { x with counted := l } = x.fuses := rfl

@[simp] theorem Sec.fuses_with_scrubs (x : Sec) (l m) : Sec.fuses { x with scrubs := l, unavailable := m } = x.fuses := rfl

@[simp] theorem Sec.fuses_with_sessions_fns (x : Sec) (l m) : Sec.fuses { x with sessions := l, fns := m } = x.fuses := rfl

@[simp] theorem Sec.fuses_with_ide (x : Sec) (l) : Sec.fuses { x with ide := l } = x.fuses := rfl

@[simp] theorem Sec.fuses_with_mem (x : Sec) (l) : Sec.fuses { x with mem := l } = x.fuses := rfl

@[simp] theorem Sec.fuses_with_links (x : Sec) (l) : Sec.fuses { x with links := l } = x.fuses := rfl

@[simp] theorem Sec.fuses_with_scrubPhase (x : Sec) (l) : Sec.fuses { x with scrubPhase := l } = x.fuses := rfl

@[simp] theorem Sec.fuses_with_fns (x : Sec) (l) : Sec.fuses { x with fns := l } = x.fuses := rfl

@[simp] theorem Sec.fuses_with_sessions (x : Sec) (l) : Sec.fuses { x with sessions := l } = x.fuses := rfl

/-! The operations. -/

@[simp] theorem debugAccess_fuses (p : Nat) (write : Bool) (addr len : Nat) (s : State) :
    (debugAccess p write addr len s).sec.fuses = s.sec.fuses := by
  simp [debugAccess, bump_frame (φ := State.sec), journalWrite_frame (φ := State.sec), raise_frame (φ := State.sec)]

@[simp] theorem hitInjection_fuses (seq : Nat) (parts : List Nat) (s : State) :
    (hitInjection seq parts s).sec.fuses = s.sec.fuses := by
  unfold hitInjection
  dsimp only
  repeat' split
  all_goals simp [bump_frame (φ := State.sec), endInjection_frame (φ := State.sec)]

@[simp] theorem readChanHead_fuses (g : Nat) (s : State) :
    (readChanHead g s).2.sec.fuses = s.sec.fuses := by
  unfold readChanHead
  dsimp only
  repeat' split
  all_goals simp

@[simp] theorem hitLine_fuses (point n : Nat) (s : State) :
    (hitLine point n s).sec.fuses = s.sec.fuses := by
  unfold hitLine
  repeat' split
  all_goals simp

@[simp] theorem checkLine_fuses (f : Finder) (bad : Tbl Nat) (n : Nat) (s : State) :
    (checkLine f bad n s).2.sec.fuses = s.sec.fuses := by
  unfold checkLine
  repeat' split
  all_goals simp [bump_frame (φ := State.sec), lineLost_frame (φ := State.sec)]

@[simp] theorem checkLines_fuses (f : Finder) (bad : Tbl Nat) (a0 : List Nat) (s : State) :
    (checkLines f bad a0 s).2.sec.fuses = s.sec.fuses := by
  induction a0 generalizing s <;> simp [checkLines, *]

@[simp] theorem memRead_fuses (f : Finder) (bad : Tbl Nat) (o n : Nat) (s : State) :
    (memRead f bad o n s).2.sec.fuses = s.sec.fuses := by
  simp [memRead]

@[simp] theorem rewriteLine_fuses (n : Nat) (s : State) :
    (rewriteLine n s).sec.fuses = s.sec.fuses := by
  simp [rewriteLine, rekeyLine_frame (φ := State.sec)]

@[simp] theorem storeBytes_fuses (o : Nat) (l : List Byte) (s : State) :
    (storeBytes o l s).sec.fuses = s.sec.fuses := by
  simp [storeBytes, pokeBytes_frame (φ := State.sec), settleLine_frame (φ := State.sec)]

@[simp] theorem memWrite_fuses (f : Finder) (bad : Tbl Nat) (o : Nat) (l : List Byte) (s : State) :
    (memWrite f bad o l s).2.sec.fuses = s.sec.fuses := by
  simp [memWrite]

@[simp] theorem fabPerform_fuses (bad : Tbl Nat) (r : FabReq) (s : State) :
    (fabPerform bad r s).2.2.sec.fuses = s.sec.fuses := by
  simp only [fabPerform]
  split
  · split
    · simp
    · split
      · simp [fuses_next ‹memRead _ _ _ _ _ = _›]
      · split <;> simp [fuses_next ‹memRead _ _ _ _ _ = _›]
  · split
    · split
      · rfl
      · split <;> simp [setSram_frame (φ := State.sec)]
    · simp [ingestPush_frame (φ := State.sec)]

@[simp] theorem readParts_fuses (a : Agent) (bad : Tbl Nat) (a0 : List (Nat × Nat)) (a1 : List Byte) (s : State) :
    (readParts a bad a0 a1 s).2.2.sec.fuses = s.sec.fuses := by
  induction a0 generalizing a1 s <;> simp [readParts, fabError_frame (φ := State.sec), *]

@[simp] theorem writeParts_fuses (a : Agent) (bad : Tbl Nat) (a0 : List (Nat × Nat)) (a1 : List Byte) (s : State) :
    (writeParts a bad a0 a1 s).2.sec.fuses = s.sec.fuses := by
  induction a0 generalizing a1 s <;> simp [writeParts, fabError_frame (φ := State.sec), *]

@[simp] theorem engRead_fuses (a : Agent) (bad : Tbl Nat) (far : Nat × List Byte) (addr n : Nat) (s : State) :
    (engRead a bad far addr n s).2.2.sec.fuses = s.sec.fuses := by
  simp [engRead, engRemote_frame (φ := State.sec)]

@[simp] theorem engWrite_fuses (a : Agent) (bad : Tbl Nat) (far addr : Nat) (l : List Byte) (s : State) :
    (engWrite a bad far addr l s).2.sec.fuses = s.sec.fuses := by
  simp [engWrite, engRemote_frame (φ := State.sec)]

@[simp] theorem slotLines_fuses (bad : Tbl Nat) (a0 : List Nat) (a1 : List Byte) (s : State) :
    (slotLines bad a0 a1 s).2.sec.fuses = s.sec.fuses := by
  induction a0 generalizing a1 s <;> simp [slotLines, *]

@[simp] theorem slotRead_fuses (bad : Tbl Nat) (p n : Nat) (s : State) :
    (slotRead bad p n s).2.sec.fuses = s.sec.fuses := by
  simp [slotRead]

@[simp] theorem slotWrite_fuses (p : Nat) (l : List Byte) (s : State) :
    (slotWrite p l s).sec.fuses = s.sec.fuses := by
  simp [slotWrite]

@[simp] theorem endSessions_fuses (f : Nat) (s : State) :
    (endSessions f s).sec.fuses = s.sec.fuses := by
  simp [endSessions]

@[simp] theorem clearIde_fuses (n : Nat) (s : State) :
    (clearIde n s).sec.fuses = s.sec.fuses := by
  simp [clearIde]

@[simp] theorem detachFn_fuses (cause f : Nat) (s : State) :
    (detachFn cause f s).sec.fuses = s.sec.fuses := by
  simp only [detachFn]
  split <;> simp -implicitDefEqProofs [failColds_frame (φ := State.sec), loseCopies_frame (φ := State.sec), refuseLoad_frame (φ :=
    State.sec), resetCfg_frame (φ := State.sec), stopEngine_frame (φ := State.sec)]

@[simp] theorem detach_fuses (cause : Nat) (fs : List Nat) (s : State) :
    (detach cause fs s).sec.fuses = s.sec.fuses := by
  simp [detach, bump_frame (φ := State.sec), showDetached_frame (φ := State.sec)]

@[simp] theorem readSegs_fuses (a0 : List Seg) (a1 : List Byte) (s : State) :
    (readSegs a0 a1 s).2.sec.fuses = s.sec.fuses := by
  induction a0 generalizing a1 s with
  | nil => rfl
  | cons x r ih =>
    simp only [readSegs]
    split <;> simp [fuses_next ‹memRead _ _ _ _ _ = _›, ih]

@[simp] theorem takeFrame_fuses (p h : Nat) (s : State) :
    (takeFrame p h s).sec.fuses = s.sec.fuses := by
  simp only [takeFrame]
  split
  · rfl
  · split
    · simp [skipFrame_frame (φ := State.sec)]
    · split
      · simp [skipFrame_frame (φ := State.sec)]
      · simp [skipFrame_frame (φ := State.sec)]
      · split <;> simp [fuses_next ‹readSegs _ _ _ = _›, keepRoute_frame (φ := State.sec), sendFrame_frame (φ := State.sec), setFrame_frame
        (φ := State.sec)]

@[simp] theorem placeSegs_fuses (l : List Byte) (a0 a1 : Nat) (s : State) :
    (placeSegs l a0 a1 s).sec.fuses = s.sec.fuses := by
  induction a0 generalizing a1 s <;> simp [placeSegs, *]

@[simp] theorem clearMarks_fuses (p : Nat) (s : State) :
    (clearMarks p s).sec.fuses = s.sec.fuses := by
  simp [clearMarks]

@[simp] theorem applyFrame_fuses (p t : Nat) (l : List Byte) (s : State) :
    (applyFrame p t l s).sec.fuses = s.sec.fuses := by
  simp [applyFrame, beginStep_frame (φ := State.sec)]

@[simp] theorem restoreOwn_fuses (p t j : Nat) (s : State) :
    (restoreOwn p t j s).2.sec.fuses = s.sec.fuses := by
  simp only [restoreOwn]
  split <;> simp [fuses_next ‹memRead _ _ _ _ _ = _›, fetchFrame_frame (φ := State.sec), showCkpt_frame (φ := State.sec)]

@[simp] theorem beginRestore_fuses (p t : Nat) (s : State) :
    (beginRestore p t s).2.sec.fuses = s.sec.fuses := by
  unfold beginRestore
  dsimp only
  repeat' split
  all_goals simp [fetchFrame_frame (φ := State.sec)]

@[simp] theorem coldNext_fuses (p j off : Nat) (s : State) :
    (coldNext p j off s).sec.fuses = s.sec.fuses := by
  unfold coldNext
  extract_lets f id
  split
  · simp [postRequest_frame (φ := State.sec)]
  · split <;> simp [fuses_next ‹memRead _ _ _ _ _ = _›, failCold_frame (φ := State.sec), hostWrite_frame (φ := State.sec), postRequest_frame
    (φ := State.sec)]

@[simp] theorem coldBegin_fuses (s : State) :
    (coldBegin s).sec.fuses = s.sec.fuses := by
  unfold coldBegin
  repeat' split
  all_goals simp [failCold_frame (φ := State.sec)]

@[simp] theorem frameComplete_fuses (p j : Nat) (s : State) :
    (frameComplete p j s).sec.fuses = s.sec.fuses := by
  simp [frameComplete, setFrame_frame (φ := State.sec), showCkpt_frame (φ := State.sec)]

@[simp] theorem coldAnswer_fuses (p : Nat) (q : StorageReq) (bad : Bool) (s : State) :
    (coldAnswer p q bad s).sec.fuses = s.sec.fuses := by
  simp [coldAnswer, failCold_frame (φ := State.sec), notifyStep_frame (φ := State.sec), raise_frame (φ := State.sec), setFrame_frame (φ :=
    State.sec)]

@[simp] theorem debugReply_fuses (port : Bool) (r : FabReq) (status : Nat) (data : List Byte) (s : State) :
    (debugReply port r status data s).sec.fuses = s.sec.fuses := by
  unfold debugReply
  extract_lets s1 s2
  have hcount : s1.sec.fuses = s.sec.fuses := by
    simp only [s1]
    split
    · split <;> simp
    · rfl
  have hshown : s2.sec.fuses = s.sec.fuses := hcount
  split
  · simp [hcount]
  · split <;> simp -implicitDefEqProofs [hshown]

@[simp] theorem fabReply_fuses (r : FabReq) (status : Nat) (data : List Byte) (s : State) :
    (fabReply r status data s).sec.fuses = s.sec.fuses := by
  unfold fabReply
  repeat' split
  all_goals simp [sendFabric_frame (φ := State.sec)]

@[simp] theorem fabServe_fuses (bad : Tbl Nat) (r : FabReq) (s : State) :
    (fabServe bad r s).sec.fuses = s.sec.fuses := by
  simp [fabServe, fabError_frame (φ := State.sec)]

@[simp] theorem deliverWaiting_fuses (s : State) :
    (deliverWaiting s).sec.fuses = s.sec.fuses := by
  simp [deliverWaiting]

@[simp] theorem readPieces_fuses (a : Agent) (bad : Tbl Nat) (a0 : List (Nat × Nat)) (a1 : Nat × List Byte) (a2 : List (List Byte))
    (s : State) :
    (readPieces a bad a0 a1 a2 s).2.2.sec.fuses = s.sec.fuses := by
  induction a0 generalizing a1 a2 s <;> simp [readPieces, *]

@[simp] theorem drainRows_fuses (a : Agent) (bad : Tbl Nat) (far : Nat) (t : Tile) (key : RngKey) (all a0 : List EpiRow) (s : State) :
    (drainRows a bad far t key all a0 s).2.sec.fuses = s.sec.fuses := by
  induction a0 generalizing s <;> simp [drainRows, tailByte_frame (φ := State.sec), *]

@[simp] theorem drainStats_fuses (a : Agent) (bad : Tbl Nat) (far : Nat) (t : Tile) (a0 : List RowRec) (s : State) :
    (drainStats a bad far t a0 s).2.sec.fuses = s.sec.fuses := by
  induction a0 generalizing s <;> simp [drainStats, *]

@[simp] theorem drainWrites_fuses (gf : Nat) (run : TileRun) (rows : List EpiRow) (recs : List RowRec) (bad : Tbl Nat) (far : Nat)
    (s : State) :
    (drainWrites gf run rows recs bad far s).2.sec.fuses = s.sec.fuses := by
  simp [drainWrites]

@[simp] theorem drainDone_fuses (gf arr : Nat) (t : Tile) (inj : Bool) (rows : List EpiRow) (recs : List RowRec) (s : State) :
    (drainDone gf arr t inj rows recs s).sec.fuses = s.sec.fuses := by
  unfold drainDone
  dsimp only
  repeat' split
  all_goals simp [countDrain_frame (φ := State.sec), drainReport_frame (φ := State.sec), sendRecord_frame (φ := State.sec), setArray_frame
    (φ := State.sec), tileRecord_frame (φ := State.sec)]

@[simp] theorem readOwnWord_fuses (who off during : Nat) (s : State) :
    (readOwnWord who off during s).2.sec.fuses = s.sec.fuses := by
  unfold readOwnWord
  dsimp only
  repeat' split
  all_goals simp [clearRc_frame (φ := State.sec)]

@[simp] theorem readWord_fuses (who off during : Nat) (s : State) :
    (readWord who off during s).2.sec.fuses = s.sec.fuses := by
  unfold readWord
  dsimp only
  repeat' split
  all_goals simp

@[simp] theorem readReg_fuses (who off n during : Nat) (s : State) :
    (readReg who off n during s).2.sec.fuses = s.sec.fuses := by
  simp [readReg]

@[simp] theorem regRead_fuses (w : Who) (off n during : Nat) (s : State) :
    (regRead w off n during s).2.sec.fuses = s.sec.fuses := by
  unfold regRead
  dsimp only
  repeat' split
  all_goals simp

@[simp] theorem addOwn_fuses (bad : Tbl Nat) (g : RingCfg) (b : Bucket) (k seg i : Nat) (s : State) :
    (addOwn bad g b k seg i s).2.sec.fuses = s.sec.fuses := by
  simp only [addOwn]
  split
  · simp [fuses_next ‹memRead _ _ _ _ _ = _›]
  next h => split <;> simp [fuses_next ‹memRead _ _ _ _ _ = _›, fuses_next h]

@[simp] theorem settleTotal_fuses (bad : Tbl Nat) (p : Nat) (r : Rigging) (g : RingCfg) (bs : List Bucket) (s : State) :
    (settleTotal bad p r g bs s).sec.fuses = s.sec.fuses := by
  simp only [settleTotal]
  split
  · split
    · rfl
    · split <;> simp [fuses_next ‹addOwn _ _ _ _ _ _ _ = _›, bump_frame (φ := State.sec), gateRing_frame (φ := State.sec),
      returnRingCredit_frame (φ := State.sec)]
  · rfl

@[simp] theorem writeGather_fuses (bad : Tbl Nat) (p : Nat) (r : Rigging) (g : RingCfg) (b : Bucket) (k i : Nat) (form : List Byte)
    (s : State) :
    (writeGather bad p r g b k i form s).2.sec.fuses = s.sec.fuses := by
  simp [writeGather, markBuilding_frame (φ := State.sec)]

@[simp] theorem settleGather_fuses (bad : Tbl Nat) (p : Nat) (r : Rigging) (g : RingCfg) (bs : List Bucket) (s : State) :
    (settleGather bad p r g bs s).sec.fuses = s.sec.fuses := by
  simp only [settleGather]
  split
  · split
    · simp [advanceUpd_frame (φ := State.sec)]
    · split <;> simp [fuses_next ‹memRead _ _ _ _ _ = _›, advanceUpd_frame (φ := State.sec), returnRingCredit_frame (φ := State.sec)]
  · simp [advanceUpd_frame (φ := State.sec)]

@[simp] theorem sendReduction_fuses (bad : Tbl Nat) (p : Nat) (r : Rigging) (g : RingCfg) (bs : List Bucket) (s : State) :
    (sendReduction bad p r g bs s).2.sec.fuses = s.sec.fuses := by
  simp only [sendReduction]
  split
  · rfl
  · split
    · split <;> simp [fuses_next ‹memRead _ _ _ _ _ = _›, sentReduction_frame (φ := State.sec)]
    · split
      · split
        · rfl
        · split <;> simp [fuses_next ‹addOwn _ _ _ _ _ _ _ = _›, sentReduction_frame (φ := State.sec)]
      · rfl

@[simp] theorem takeReduction_fuses (k v : Nat) (raw : List Byte) (m : RingMsg) (p : Nat) (g : RingCfg) (bs : List Bucket) (s : State) :
    (takeReduction k v raw m p g bs s).sec.fuses = s.sec.fuses := by
  simp [takeReduction, ringOrder_frame (φ := State.sec), tookMsg_frame (φ := State.sec)]

@[simp] theorem takeGather_fuses (k v : Nat) (raw : List Byte) (m : RingMsg) (p : Nat) (g : RingCfg) (bs : List Bucket) (s : State) :
    (takeGather k v raw m p g bs s).sec.fuses = s.sec.fuses := by
  simp [takeGather, ringOrder_frame (φ := State.sec), tookMsg_frame (φ := State.sec)]

@[simp] theorem readPairs_fuses (bad : Tbl Nat) (o n : Nat) (s : State) :
    (readPairs bad o n s).2.sec.fuses = s.sec.fuses := by
  simp [readPairs]

@[simp] theorem readEstate_fuses (bad : Tbl Nat) (fmt o all i n : Nat) (s : State) :
    (readEstate bad fmt o all i n s).2.sec.fuses = s.sec.fuses := by
  unfold readEstate
  dsimp only
  repeat' split
  all_goals simp

@[simp] theorem writeEstate_fuses (bad : Tbl Nat) (fmt o all i rnd : Nat) (key : RngKey) (e : Nat) (v : List Nat) (s : State) :
    (writeEstate bad fmt o all i rnd key e v s).2.sec.fuses = s.sec.fuses := by
  simp [writeEstate]

@[simp] theorem loadGroup_fuses (bad : Tbl Nat) (g : RingCfg) (a : GroupAt) (half : Nat) (s : State) :
    (loadGroup bad g a half s).2.sec.fuses = s.sec.fuses := by
  unfold loadGroup
  dsimp only
  refine readAll_frame (φ := fun s => s.sec.fuses) _ s fun f hf s => ?_
  simp only [List.mem_append, List.mem_cons, List.mem_map, List.not_mem_nil, or_false] at hf
  rcases hf with (rfl | rfl | rfl | rfl) | ⟨k, -, rfl⟩
  · exact readPairs_fuses ..
  · exact readPairs_fuses ..
  · split <;> simp
  · split <;> simp
  · split <;> simp

@[simp] theorem storeGroup_fuses (bad : Tbl Nat) (r : Rigging) (a : GroupAt) (half step : Nat) (v : List (List Nat)) (s : State) :
    (storeGroup bad r a half step v s).2.sec.fuses = s.sec.fuses := by
  refine writeAll_frame (φ := fun s => s.sec.fuses) _ s fun f hf s => ?_
  simp only [List.mem_append, List.mem_cons, List.mem_map, List.not_mem_nil, or_false] at hf
  rcases hf with (rfl | ⟨k, -, rfl⟩) | ⟨k, -, rfl⟩ <;> simp

@[simp] theorem beginGather_fuses (bad : Tbl Nat) (p : Nat) (r : Rigging) (g : RingCfg) (bs : List Bucket) (a : GroupAt) (half : Nat)
    (s : State) :
    (beginGather bad p r g bs a half s).sec.fuses = s.sec.fuses := by
  refine foldl_fuses (fun s i => ?_) _ s
  dsimp only
  split
  · simp [fuses_next ‹memRead _ _ _ _ _ = _›]
  · split <;> simp [fuses_next ‹memRead _ _ _ _ _ = _›]

@[simp] theorem groupStored_fuses (p slot : Nat) (r : Rigging) (g : RingCfg) (bs : List Bucket) (a : GroupAt) (c : Nat) (v v1 : List
    (List Nat)) (bad : Tbl Nat) (s : State) :
    (groupStored p slot r g bs a c v v1 bad s).sec.fuses = s.sec.fuses := by
  simp [groupStored, clearFinite_frame (φ := State.sec), watchGroup_frame (φ := State.sec)]

@[simp] theorem updateGroup_fuses (p slot : Nat) (r : Rigging) (g : RingCfg) (bs : List Bucket) (a : GroupAt) (c : Nat) (v : List
    (List Nat)) (bad : Tbl Nat) (s : State) :
    (updateGroup p slot r g bs a c v bad s).sec.fuses = s.sec.fuses := by
  simp [updateGroup, bump_frame (φ := State.sec), holdRegs_frame (φ := State.sec)]

@[simp] theorem loadAndUpdate_fuses (p slot : Nat) (r : Rigging) (g : RingCfg) (bs : List Bucket) (bad : Tbl Nat) (s : State) :
    (loadAndUpdate p slot r g bs bad s).sec.fuses = s.sec.fuses := by
  simp only [loadAndUpdate]
  split <;> simp [fuses_next ‹loadGroup _ _ _ _ _ = _›]

@[simp] theorem clearDkv_fuses (p : Nat) (r : Rigging) (slot c : Nat) (s : State) :
    (clearDkv p r slot c s).sec.fuses = s.sec.fuses := by
  unfold clearDkv
  dsimp only
  repeat' split
  all_goals simp [seqAccess_frame (φ := State.sec)]

@[simp] theorem startBackward_fuses (p : Nat) (r : Rigging) (t : StageCfg) (c : Nat) (e : Option Entry) (s : State) :
    (startBackward p r t c e s).sec.fuses = s.sec.fuses := by
  simp [startBackward, showStart_frame (φ := State.sec), startTreads_frame (φ := State.sec)]
  split <;> simp [bump_frame (φ := State.sec)]

@[simp] theorem backwardOf_fuses (p slot c : Nat) (r : Rigging) (t : StageCfg) (s : State) :
    (backwardOf p slot c r t s).sec.fuses = s.sec.fuses := by
  simp only [backwardOf]
  split
  · simp [seqWait_frame (φ := State.sec)]
  · split
    · simp [seqWait_frame (φ := State.sec)]
    · split
      · simp
      · apply takeEntry_frame (φ := fun s => s.sec.fuses) <;> first | exact fun _ _ => rfl | simp

@[simp] theorem restoreSlot_fuses (r : Rigging) (o : Nat) (h : TblHdr) (x : Undo) (s : State) :
    (restoreSlot r o h x s).sec.fuses = s.sec.fuses := by
  simp [restoreSlot]

@[simp] theorem restoreSparse_fuses (x : Sparse) (s : State) :
    (restoreSparse x s).sec.fuses = s.sec.fuses := by
  simp [restoreSparse, dropSparse_frame (φ := State.sec)]

@[simp] theorem undoStep_fuses (p step : Nat) (s : State) :
    (undoStep p step s).sec.fuses = s.sec.fuses := by
  simp [undoStep]

@[simp] theorem clearCounts_fuses (p : Nat) (s : State) :
    (clearCounts p s).sec.fuses = s.sec.fuses := by
  simp [clearCounts]

@[simp] theorem fabAccess_fuses (bad : Tbl Nat) (r : FabReq) (s : State) :
    (fabAccess bad r s).sec.fuses = s.sec.fuses := by
  simp [fabAccess, ctlWrite_frame (φ := State.sec), fabError_frame (φ := State.sec)]

@[simp] theorem issueRemote_fuses (r : FabReq) (s : State) :
    (issueRemote r s).sec.fuses = s.sec.fuses := by
  unfold issueRemote
  dsimp only
  repeat' split
  all_goals simp [fabError_frame (φ := State.sec), keepRoute_frame (φ := State.sec), sendFabric_frame (φ := State.sec)]

@[simp] theorem peerAccess_fuses (k v tag job : Nat) (bad : Tbl Nat) (r : FabReq) (s : State) :
    (peerAccess k v tag job bad r s).sec.fuses = s.sec.fuses := by
  unfold peerAccess
  dsimp only
  repeat' split
  all_goals simp [tookMsg_frame (φ := State.sec)]

@[simp] theorem fabLocal_fuses (r : FabReq) (bad : Tbl Nat) (s : State) :
    (fabLocal r bad s).sec.fuses = s.sec.fuses := by
  unfold fabLocal
  repeat' split
  all_goals simp

@[simp] theorem dieFlit_fuses (type n d : Nat) (f : List Byte) (bad : Bool) (s : State) :
    (dieFlit type n d f bad s).sec.fuses = s.sec.fuses := by
  simp [dieFlit, bump_frame (φ := State.sec), dieAck_frame (φ := State.sec), setDieDir_frame (φ := State.sec)]

@[simp] theorem hitAll_fuses (point : Nat) (s : State) :
    (hitAll point s).sec.fuses = s.sec.fuses := by
  unfold hitAll
  repeat' split
  all_goals simp

@[simp] theorem flushFabric_fuses (k : Nat) (s : State) :
    (flushFabric k s).sec.fuses = s.sec.fuses := by
  simp [flushFabric, fabError_frame (φ := State.sec)]

@[simp] theorem flushRope_fuses (k : Nat) (s : State) :
    (flushRope k s).sec.fuses = s.sec.fuses := by
  simp [flushRope, bump_frame (φ := State.sec), raise0_frame (φ := State.sec)]

@[simp] theorem loseRope_fuses (k : Nat) (s : State) :
    (loseRope k s).sec.fuses = s.sec.fuses := by
  simp [loseRope, edgesLost_frame (φ := State.sec), ropeDown_frame (φ := State.sec)]

@[simp] theorem resumeRope_fuses (k : Nat) (i : TrainInfo) (m : Nat) (s : State) :
    (resumeRope k i m s).sec.fuses = s.sec.fuses := by
  simp [resumeRope, clearOldSlots_frame (φ := State.sec), ropeUp_frame (φ := State.sec), showPeer_frame (φ := State.sec), startReplay_frame
    (φ := State.sec), startRope_frame (φ := State.sec)]

@[simp] theorem finishTraining_fuses (k : Nat) (s : State) :
    (finishTraining k s).sec.fuses = s.sec.fuses := by
  unfold finishTraining
  dsimp only
  repeat' split
  all_goals simp [setRopeSt_frame (φ := State.sec)]

@[simp] theorem trainArrived_fuses (k : Nat) (i : TrainInfo) (s : State) :
    (trainArrived k i s).sec.fuses = s.sec.fuses := by
  simp [trainArrived, showPeer_frame (φ := State.sec)]

@[simp] theorem detect_fuses (point target addr gf code : Nat) (body : List Nat) (s : State) :
    (detect point target addr gf code body s).2.sec.fuses = s.sec.fuses := by
  simp [detect, raise_frame (φ := State.sec)]

@[simp] theorem windowParts_fuses (a : Agent) (write : Bool) (bad : Tbl Nat) (a0 : List (Nat × Nat)) (a1 a2 : List Byte) (s : State) :
    (windowParts a write bad a0 a1 a2 s).2.2.sec.fuses = s.sec.fuses := by
  induction a0 generalizing a1 a2 s <;> simp [windowParts, fabError_frame (φ := State.sec), *]

@[simp] theorem hceWrite_fuses (e : Nat) (d : HceDesc) (data : List Byte) (bad : Tbl Nat) (s : State) :
    (hceWrite e d data bad s).2.sec.fuses = s.sec.fuses := by
  simp [hceWrite]

@[simp] theorem copyIn_fuses (e i : Nat) (d : HceDesc) (data : List Byte) (bad : Tbl Nat) (s : State) :
    (copyIn e i d data bad s).sec.fuses = s.sec.fuses := by
  simp [copyIn, endDesc_frame (φ := State.sec)]

@[simp] theorem copyAnswer_fuses (e i : Nat) (d : HceDesc) (herr : Nat) (data : List Byte) (bad : Tbl Nat) (s : State) :
    (copyAnswer e i d herr data bad s).sec.fuses = s.sec.fuses := by
  simp [copyAnswer, endDesc_frame (φ := State.sec), holdCopy_frame (φ := State.sec)]

@[simp] theorem finishOldest_fuses (e : Nat) (answer : Option (Nat × List Byte)) (bad : Tbl Nat) (s : State) :
    (finishOldest e answer bad s).sec.fuses = s.sec.fuses := by
  unfold finishOldest
  repeat' split
  all_goals simp [endDesc_frame (φ := State.sec)]

@[simp] theorem abandonDrain_fuses (gf arr : Nat) (s : State) :
    (abandonDrain gf arr s).sec.fuses = s.sec.fuses := by
  unfold abandonDrain
  dsimp only
  repeat' split
  all_goals simp [takeFree_frame (φ := State.sec)]

@[simp] theorem abandonDrains_fuses (p : Nat) (s : State) :
    (abandonDrains p s).sec.fuses = s.sec.fuses := by
  simp [abandonDrains]

@[simp] theorem abandonWork_fuses (p : Nat) (s : State) :
    (abandonWork p s).sec.fuses = s.sec.fuses := by
  simp -implicitDefEqProofs [abandonWork, clearUcQueues_frame (φ := State.sec), dropUnsent_frame (φ := State.sec)]

@[simp] theorem rewindTo_fuses (p t e : Nat) (s : State) :
    (rewindTo p t e s).sec.fuses = s.sec.fuses := by
  simp [rewindTo, clearUcQueues_frame (φ := State.sec), dropUnsent_frame (φ := State.sec), emptyChannels_frame (φ := State.sec),
    emptyLandings_frame (φ := State.sec), restartFlights_frame (φ := State.sec), restartSaturation_frame (φ := State.sec),
    restartStages_frame (φ := State.sec), restartVersions_frame (φ := State.sec)]

@[simp] theorem queueScrub_fuses (p : Nat) (tell : List (Nat × Nat × Nat × Nat)) (s : State) :
    (queueScrub p tell s).sec.fuses = s.sec.fuses := by
  simp [queueScrub, raise_frame (φ := State.sec), setLd_frame (φ := State.sec)]

@[simp] theorem releasePart_fuses (p : Nat) (s : State) :
    (releasePart p s).sec.fuses = s.sec.fuses := by
  have hsettled : (settleRows p (endInjectionOf p s)).sec = s.sec :=
    (settleRows_frame (φ := State.sec) (fun _ _ => rfl) _ _).trans (endInjectionOf_frame (φ := State.sec) (fun _ _ => rfl) (fun _ _ => rfl)
      (fun _ _ => rfl) (fun _ _ => rfl) _ _)
  simp -implicitDefEqProofs [releasePart, freeImage_frame (φ := State.sec), hsettled, raise_frame (φ := State.sec), setSvcState_frame (φ :=
    State.sec), setLd_frame (φ := State.sec), showCapacity_frame (φ := State.sec), slotClear_frame (φ := State.sec)]

@[simp] theorem showStep_fuses (p step : Nat) (commit : Bool) (s : State) :
    (showStep p step commit s).sec.fuses = s.sec.fuses := by
  simp [showStep, keepSparse_frame (φ := State.sec), showGate_frame (φ := State.sec), showSchedules_frame (φ := State.sec)]

@[simp] theorem confirmStep_fuses (p step : Nat) (commit : Bool) (s : State) :
    (confirmStep p step commit s).sec.fuses = s.sec.fuses := by
  simp [confirmStep, keepSparse_frame (φ := State.sec)]

@[simp] theorem resolveStep_fuses (p step : Nat) (commit : Bool) (safe : Nat) (s : State) :
    (resolveStep p step commit safe s).sec.fuses = s.sec.fuses := by
  simp [resolveStep, afterStep_frame (φ := State.sec), findCause_frame (φ := State.sec), raise_frame (φ := State.sec), recordStep_frame
    (φ := State.sec), resolveVersions_frame (φ := State.sec), showCommit_frame (φ := State.sec), writeTelemetry_frame (φ := State.sec)]

@[simp] theorem applyDecide_fuses (p : Nat) (m : TreeMsg) (s : State) :
    (applyDecide p m s).sec.fuses = s.sec.fuses := by
  simp [applyDecide, applyHalt_frame (φ := State.sec), toChildren_frame (φ := State.sec)]

@[simp] theorem rootDecide_fuses (p : Nat) (s : State) :
    (rootDecide p s).sec.fuses = s.sec.fuses := by
  simp [rootDecide]

@[simp] theorem settleOrder_fuses (p : Nat) (s : State) :
    (settleOrder p s).sec.fuses = s.sec.fuses := by
  unfold settleOrder
  dsimp only
  repeat' split
  all_goals simp [bump_frame (φ := State.sec), endPin_frame (φ := State.sec), raise_frame (φ := State.sec)]

@[simp] theorem rootProceed_fuses (p : Nat) (o : Order) (s : State) :
    (rootProceed p o s).sec.fuses = s.sec.fuses := by
  unfold rootProceed
  dsimp only
  repeat' split
  all_goals simp [applyResume_frame (φ := State.sec), takeOrder_frame (φ := State.sec), toChildren_frame (φ := State.sec)]

@[simp] theorem answerOrder_fuses (p : Nat) (s : State) :
    (answerOrder p s).sec.fuses = s.sec.fuses := by
  unfold answerOrder
  dsimp only
  repeat' split
  all_goals simp [keepFences_frame (φ := State.sec), toParent_frame (φ := State.sec)]

@[simp] theorem endTenancy_fuses (p : Nat) (s : State) :
    (endTenancy p s).sec.fuses = s.sec.fuses := by
  simp [endTenancy, beginRelease_frame (φ := State.sec), refuseLoad_frame (φ := State.sec), unstage_frame (φ := State.sec)]

@[simp] theorem setKeys_fuses (p : Nat) (k : MemKeys) (s : State) :
    (setKeys p k s).sec.fuses = s.sec.fuses := by
  simp [setKeys]

@[simp] theorem setLink_fuses (p : Nat) (l : Link) (s : State) :
    (setLink p l s).sec.fuses = s.sec.fuses := by
  simp [setLink]

@[simp] theorem withScrub_fuses (phase : Nat) (f : Nat → State → State) (s : State) (h_f : ∀ x0 s, (f x0 s).sec.fuses = s.sec.fuses) :
    (withScrub phase f s).sec.fuses = s.sec.fuses := by
  simp only [withScrub]
  split
  · rfl
  · split <;> simp [h_f]

@[simp] theorem debugGo_fuses (port write : Bool) (addr len : Nat) (data : List Byte) (bad : Tbl Nat) (s : State) :
    (debugGo port write addr len data bad s).sec.fuses = s.sec.fuses := by
  simp [debugGo]

@[simp] theorem ucRead_fuses (u p : Nat) (bad : Tbl Nat) (far : Nat × List Byte) (addr n : Nat) (s : State) :
    (ucRead u p bad far addr n s).2.2.sec.fuses = s.sec.fuses := by
  simp [ucRead, fabError_frame (φ := State.sec)]

@[simp] theorem ucWrite_fuses (u p : Nat) (bad : Tbl Nat) (far addr : Nat) (l : List Byte) (s : State) :
    (ucWrite u p bad far addr l s).2.sec.fuses = s.sec.fuses := by
  simp [ucWrite, ctlWrite_frame (φ := State.sec), fabError_frame (φ := State.sec)]

@[simp] theorem ucComplete_fuses (u : Nat) (conv : Bool) (p cpl tag : Nat) (bad : Tbl Nat) (far : Nat) (s : State) :
    (ucComplete u conv p cpl tag bad far s).2.sec.fuses = s.sec.fuses := by
  simp [ucComplete, ucFail_frame (φ := State.sec)]

@[simp] theorem readRows_fuses (bad : Tbl Nat) (h : TblHdr) (o : Nat) (l : List Nat) (s : State) :
    (readRows bad h o l s).2.sec.fuses = s.sec.fuses := by
  induction l generalizing s with
  | nil => rfl
  | cons x r ih =>
    simp only [readRows]
    split
    · simp [fuses_next ‹memRead _ _ _ _ _ = _›]
    next h => split <;> simp [fuses_next ‹readRows _ _ _ _ _ = _›, ih, fuses_next h]

@[simp] theorem writeBags_fuses (u p : Nat) (bad : Tbl Nat) (far : Nat) (g : Gather) (seed dim : Nat) (a0 : List (List Nat × Nat))
    (s : State) :
    (writeBags u p bad far g seed dim a0 s).2.sec.fuses = s.sec.fuses := by
  induction a0 generalizing s <;> simp [writeBags, ucFail_frame (φ := State.sec), *]

@[simp] theorem gatherOut_fuses (u p : Nat) (d offs ws : List Nat) (rows : List (List Nat)) (bad : Tbl Nat) (farOut : Nat) (s : State) :
    (gatherOut u p d offs ws rows bad farOut s).sec.fuses = s.sec.fuses := by
  unfold gatherOut
  extract_lets g h first bag bags s1
  have hhold : s1.sec = s.sec := holdScratch_frame (φ := State.sec) (fun _ _ => rfl) _ _ _ _
  split
  next ok s2 hbags =>
  split
  · simp [fuses_next hbags, hhold]
  · split
    next done s3 hdone => split <;> simp [endGather_frame (φ := State.sec), fuses_next hdone, fuses_next hbags, hhold]

@[simp] theorem readOffsets_fuses (u p : Nat) (g : Gather) (bad : Tbl Nat) (far : List (Nat × List Byte)) (s : State) :
    (readOffsets u p g bad far s).2.2.sec.fuses = s.sec.fuses := by
  simp [readOffsets]

@[simp] theorem readIndices_fuses (u p : Nat) (g : Gather) (first n : Nat) (bad : Tbl Nat) (far : List (Nat × List Byte)) (s : State) :
    (readIndices u p g first n bad far s).2.2.sec.fuses = s.sec.fuses := by
  simp [readIndices]

@[simp] theorem readWeights_fuses (u p : Nat) (g : Gather) (first n : Nat) (bad : Tbl Nat) (far : List (Nat × List Byte)) (s : State) :
    (readWeights u p g first n bad far s).2.2.sec.fuses = s.sec.fuses := by
  simp [readWeights]

@[simp] theorem gatherRows_fuses (u p : Nat) (d offs idx : List Nat) (bad : Tbl Nat) (far : List (Nat × List Byte)) (farOut : Nat)
    (s : State) :
    (gatherRows u p d offs idx bad far farOut s).sec.fuses = s.sec.fuses := by
  unfold gatherRows
  extract_lets g
  split
  next st lw s1 hw =>
  have hread : s1.sec.fuses = s.sec.fuses := (congrArg (fun x => x.2.2.sec.fuses) hw).symm.trans (readWeights_fuses ..)
  split
  · simp [ucFail_frame (φ := State.sec), hread]
  · split <;> simp [fuses_next ‹readRows _ _ _ _ _ = _›, ucFail_frame (φ := State.sec), hread]

@[simp] theorem gatherIndices_fuses (u p : Nat) (d offs : List Nat) (bad : Tbl Nat) (far : List (Nat × List Byte)) (farOut : Nat)
    (s : State) :
    (gatherIndices u p d offs bad far farOut s).sec.fuses = s.sec.fuses := by
  simp [gatherIndices, ucFail_frame (φ := State.sec), ucStop_frame (φ := State.sec)]

@[simp] theorem gatherOffsets_fuses (u p : Nat) (d offs : List Nat) (bad : Tbl Nat) (far : List (Nat × List Byte)) (farOut : Nat)
    (s : State) :
    (gatherOffsets u p d offs bad far farOut s).sec.fuses = s.sec.fuses := by
  simp [gatherOffsets, ucStop_frame (φ := State.sec)]

@[simp] theorem runGather_fuses (u p : Nat) (d : List Nat) (bad : Tbl Nat) (far : List (Nat × List Byte)) (farOut : Nat) (s : State) :
    (runGather u p d bad far farOut s).sec.fuses = s.sec.fuses := by
  simp [runGather, ucFail_frame (φ := State.sec)]

@[simp] theorem readSource_fuses (u p : Nat) (c : Convert) (bad : Tbl Nat) (far : List (Nat × List Byte)) (s : State) :
    (readSource u p c bad far s).2.2.sec.fuses = s.sec.fuses := by
  simp [readSource]

@[simp] theorem readScales_fuses (u p : Nat) (c : Convert) (bad : Tbl Nat) (far : List (Nat × List Byte)) (s : State) :
    (readScales u p c bad far s).2.2.sec.fuses = s.sec.fuses := by
  simp [readScales]

@[simp] theorem writeConvert_fuses (u p : Nat) (c : Convert) (codes ss : List Nat) (bad : Tbl Nat) (far : Nat) (s : State) :
    (writeConvert u p c codes ss bad far s).2.sec.fuses = s.sec.fuses := by
  simp [writeConvert]

def convertEnd (u p : Nat) (c : Convert) (bad : Tbl Nat) (farOut : Nat) (r : Nat × State) : State :=
  if r.1 ≠ FabSt.ok then ucFail u true r.1 c.tag p r.2
  else
    let e := ucComplete u true p c.cpl c.tag bad farOut r.2
    if e.1 then e.2.setUc u { e.2.uc u with cq := (e.2.uc u).cq.drop 1 } else e.2

theorem convertEnd_fuses (u p : Nat) (c : Convert) (bad : Tbl Nat) (farOut : Nat) (r : Nat × State) :
    (convertEnd u p c bad farOut r).sec.fuses = r.2.sec.fuses := by
  simp [convertEnd, ucFail_frame (φ := State.sec)]

@[simp] theorem convertOut_fuses (u p : Nat) (d : List Nat) (l sc : List Byte) (bad : Tbl Nat) (farOut : Nat) (s : State) :
    (convertOut u p d l sc bad farOut s).sec.fuses = s.sec.fuses := by
  refine (convertEnd_fuses u p (convertOf d) bad farOut _).trans ((writeConvert_fuses ..).trans ?_)
  exact congrArg Sec.fuses (holdScratch_frame (φ := State.sec) (fun _ _ => rfl) _ _ _ _)

@[simp] theorem runConvert_fuses (u p : Nat) (d : List Nat) (bad : Tbl Nat) (far : List (Nat × List Byte)) (farOut : Nat) (s : State) :
    (runConvert u p d bad far farOut s).sec.fuses = s.sec.fuses := by
  simp [runConvert, ucFail_frame (φ := State.sec)]

@[simp] theorem combineRows_fuses (p table step : Nat) (r : Rigging) (h : TblHdr) (s : State) :
    (combineRows p table step r h s).sec.fuses = s.sec.fuses := by
  simp [combineRows, setSparse_frame (φ := State.sec)]

@[simp] theorem sparseCounts_fuses (u p table step : Nat) (r : Rigging) (h : TblHdr) (bad : Tbl Nat) (s : State) :
    (sparseCounts u p table step r h bad s).sec.fuses = s.sec.fuses := by
  unfold sparseCounts
  dsimp only
  repeat' split
  all_goals simp [sparseError_frame (φ := State.sec), ucHold_frame (φ := State.sec)]

@[simp] theorem takeSequenced_fuses (k v : Nat) (h : FlitHdr) (f : List Byte) (s : State) :
    (takeSequenced k v h f s).sec.fuses = s.sec.fuses := by
  unfold takeSequenced
  dsimp only
  repeat' split
  all_goals simp [accepted_frame (φ := State.sec), authFail_frame (φ := State.sec), clearOldSlots_frame (φ := State.sec), raise0_frame (φ :=
    State.sec), setVchan_frame (φ := State.sec), takeAck_frame (φ := State.sec), takeCredit_frame (φ := State.sec), waitReplay_frame (φ :=
    State.sec)]

@[simp] theorem receiveFlit_fuses (types : List Nat) (k : Nat) (f : List Byte) (touched : Bool) (corr : Nat) (uncorr : List Nat)
    (s : State) :
    (receiveFlit types k f touched corr uncorr s).sec.fuses = s.sec.fuses := by
  simp [receiveFlit, bump_frame (φ := State.sec), clearOldSlots_frame (φ := State.sec), closeWindow_frame (φ := State.sec), countFlit_frame
    (φ := State.sec), takeAck_frame (φ := State.sec), takeCredit_frame (φ := State.sec), waitReplay_frame (φ := State.sec)]

@[simp] theorem emitFlit_fuses (k : Nat) (f : List Byte) (s : State) :
    (emitFlit k f s).sec.fuses = s.sec.fuses := by
  simp [emitFlit]

@[simp] theorem replayFlit_fuses (k seq : Nat) (s : State) :
    (replayFlit k seq s).sec.fuses = s.sec.fuses := by
  unfold replayFlit
  dsimp only
  repeat' split
  all_goals simp [currentFields_frame (φ := State.sec)]

@[simp] theorem idleFlit_fuses (k : Nat) (s : State) :
    (idleFlit k s).sec.fuses = s.sec.fuses := by
  simp [idleFlit, currentFields_frame (φ := State.sec)]

@[simp] theorem newFlit_fuses (k v : Nat) (s : State) :
    (newFlit k v s).sec.fuses = s.sec.fuses := by
  simp [newFlit, clearOldSlots_frame (φ := State.sec), currentFields_frame (φ := State.sec), journalNonce_frame (φ := State.sec),
    raise_frame (φ := State.sec), setVchan_frame (φ := State.sec)]

@[simp] theorem freshFlit_fuses (k first : Nat) (s : State) :
    (freshFlit k first s).sec.fuses = s.sec.fuses := by
  unfold freshFlit
  dsimp only
  repeat' split
  all_goals simp [pullAll_frame (φ := State.sec)]

@[simp] theorem setSpdm_fuses (fn : Nat) (v : SpdmFn) (s : State) :
    (setSpdm fn v s).sec.fuses = s.sec.fuses := by
  simp [setSpdm]

@[simp] theorem answer_fuses (fn stage : Nat) (req rsp : List Byte) (s : State) :
    (answer fn stage req rsp s).sec.fuses = s.sec.fuses := by
  simp [answer]

@[simp] theorem setSession_fuses (x : Session) (s : State) :
    (setSession x s).sec.fuses = s.sec.fuses := by
  simp [setSession]

@[simp] theorem addSession_fuses (x : Session) (s : State) :
    (addSession x s).sec.fuses = s.sec.fuses := by
  simp [addSession]

@[simp] theorem setIde_fuses (n : Nat) (v : Ide) (s : State) :
    (setIde n v s).sec.fuses = s.sec.fuses := by
  simp [setIde]

/-! The commands, by the forms that they share. -/

section
variable {s t : State}

theorem perform_fuses {ok : Bool} {f : State → State} (hf : ∀ s, (f s).sec.fuses = s.sec.fuses) (h : perform ok f s = .next t) :
    t.sec.fuses = s.sec.fuses :=
  perform_frame (φ := fun s => s.sec.fuses) (fun _ _ => rfl) (fun _ _ => rfl) h hf

theorem treeMsg_fuses {k : Nat} {m : TreeMsg} {f : Nat → State → State} (hf : ∀ p s, (f p s).sec.fuses = s.sec.fuses)
    (h : treeMsg k m f s = .next t) : t.sec.fuses = s.sec.fuses :=
  treeMsg_frame (φ := fun s => s.sec.fuses) (fun _ _ => rfl) (fun _ _ => rfl) k m f s hf t h

theorem ckMsg_fuses {k v : Nat} {msg : List Byte} {f : Nat → Nat → Nat → Nat → List Byte → State → State}
    (hf : ∀ p step j off l s, (f p step j off l s).sec.fuses = s.sec.fuses) (h : ckMsg k v msg f s = .next t) :
    t.sec.fuses = s.sec.fuses :=
  ckMsg_frame (φ := fun s => s.sec.fuses) (fun _ _ => rfl) (fun _ _ => rfl) (fun _ _ => rfl) k v msg f s hf t h

theorem tenantCmd_fuses {fn id p : Nat} {own : Bool} {l : List Nat} {f : State → Nat × State}
    (hf : ∀ s, (f s).2.sec.fuses = s.sec.fuses) (h : tenantCmd fn id p own l f s = .next t) : t.sec.fuses = s.sec.fuses :=
  tenantCmd_frame (φ := fun s => s.sec.fuses) (fun _ _ => rfl) (fun _ _ => rfl) _ _ _ _ _ _ _ hf t h

theorem spdmCmd_fuses {fn stage : Nat} {f : State → State} (hf : ∀ s, (f s).sec.fuses = s.sec.fuses)
    (h : spdmCmd fn stage f s = .next t) : t.sec.fuses = s.sec.fuses :=
  spdmCmd_frame (φ := fun s => s.sec.fuses) (fun _ _ => rfl) (fun _ _ => rfl) _ _ _ _ hf t h

theorem inSession_fuses {fn id : Nat} {f : Session → State → State} (hf : ∀ x s, (f x s).sec.fuses = s.sec.fuses)
    (h : inSession fn id f s = .next t) : t.sec.fuses = s.sec.fuses :=
  inSession_frame (φ := fun s => s.sec.fuses) (fun _ _ => rfl) (fun _ _ => rfl) _ _ _ _ hf t h

theorem partCtrl_fuses {p b : Nat} {v : W32} {f : State → State} (hf : ∀ s, (f s).sec.fuses = s.sec.fuses)
    (h : partCtrl p b v f s = .next t) : t.sec.fuses = s.sec.fuses :=
  partCtrl_frame (φ := fun s => s.sec.fuses) (fun _ _ => rfl) (fun _ _ => rfl) _ _ _ _ _ hf t h

theorem fabCtrl_fuses {v : W32} {f : State → State} (hf : ∀ s, (f s).sec.fuses = s.sec.fuses) (h : fabCtrl v f s = .next t) :
    t.sec.fuses = s.sec.fuses :=
  fabCtrl_frame (φ := fun s => s.sec.fuses) (fun _ _ => rfl) (fun _ _ => rfl) (fun _ _ => rfl) _ _ _ hf t h

theorem dbgCtrl_fuses {v : W32} {f : State → State} (hf : ∀ s, (f s).sec.fuses = s.sec.fuses) (h : dbgCtrl v f s = .next t) :
    t.sec.fuses = s.sec.fuses :=
  dbgCtrl_frame (φ := fun s => s.sec.fuses) (fun _ _ => rfl) (fun _ _ => rfl) (fun _ _ => rfl) _ _ _ hf t h

theorem withStage_fuses {slot : Nat} {f : Nat → Rigging → StageCfg → State → State}
    (hf : ∀ p r c s, (f p r c s).sec.fuses = s.sec.fuses) (s : State) : (withStage slot f s).sec.fuses = s.sec.fuses :=
  withStage_frame (φ := fun s => s.sec.fuses) _ _ _ hf

theorem withRing_fuses {slot : Nat} {f : Nat → Rigging → RingCfg → List Bucket → State → State}
    (hf : ∀ p r g b s, (f p r g b s).sec.fuses = s.sec.fuses) (s : State) : (withRing slot f s).sec.fuses = s.sec.fuses :=
  withRing_frame (φ := fun s => s.sec.fuses) _ _ _ hf

theorem withSession_fuses {fn id : Nat} {f : Session → State → State} (hf : ∀ x s, (f x s).sec.fuses = s.sec.fuses) (s : State) :
    (withSession fn id f s).sec.fuses = s.sec.fuses :=
  withSession_frame (φ := fun s => s.sec.fuses) (fun _ _ => rfl) _ _ _ _ hf

theorem startDesc_fuses {e : Nat} {k : Nat → Bool} {l : List Byte} {f : HceDesc → Nat → State → State}
    (hf : ∀ d i s, (f d i s).sec.fuses = s.sec.fuses) (s : State) : (startDesc e k l f s).sec.fuses = s.sec.fuses :=
  startDesc_frame (φ := fun s => s.sec.fuses) (fun _ _ => rfl) (fun _ _ => rfl) (fun _ _ => rfl) (fun _ _ => rfl) (fun _ _ => rfl)
    (fun _ _ => rfl) _ _ _ _ _ hf

@[simp] theorem whenUp_fuses {f : State → State} (hf : ∀ s, (f s).sec.fuses = s.sec.fuses) (s : State) :
    (whenUp f s).sec.fuses = s.sec.fuses := whenUp_frame (φ := fun s => s.sec.fuses) hf s

/-! Each command that may write the part, but for those that raise FUSE_SVN or unlock debug and the edges of the pins. -/

theorem execRcRead_fuses {who off during} (h : execRcRead who off during s = .next t) : t.sec.fuses = s.sec.fuses :=
  perform_fuses (fun s => by simp) h

theorem execHighWordLatchRead_fuses {who off n} (h : execHighWordLatchRead who off n s = .next t) : t.sec.fuses = s.sec.fuses :=
  perform_fuses (fun s => by simp) h

theorem execCommittedStepRead_fuses {who p n} (h : execCommittedStepRead who p n s = .next t) : t.sec.fuses = s.sec.fuses :=
  perform_fuses (fun s => by simp) h

theorem execStatus_fuses {fn id p} (h : execStatus fn id p s = .next t) : t.sec.fuses = s.sec.fuses :=
  tenantCmd_fuses (fun s => by simp) h

theorem execPowerMeasurement_fuses {now mw mv} (h : execPowerMeasurement now mw mv s = .next t) : t.sec.fuses = s.sec.fuses :=
  perform_fuses (fun s => by simp [overBudget_frame (φ := State.sec), raise0_frame (φ := State.sec), showHold_frame (φ := State.sec)]) h

theorem execConverterFailed_fuses {now k} (h : execConverterFailed now k s = .next t) : t.sec.fuses = s.sec.fuses :=
  perform_fuses (fun s => by simp [formBudget_frame (φ := State.sec), packageFault_frame (φ := State.sec), raise0_frame (φ := State.sec)]) h

theorem execThermalSample_fuses {now readings} (h : execThermalSample now readings s = .next t) : t.sec.fuses = s.sec.fuses := by
  suffices hf : ∀ φ : State → Nat × Nat, (∀ s, φ s = s.sec.fuses) → φ t = φ s from hf _ fun _ => rfl
  intro φ hφ
  refine perform_frame (φ := φ) (fun s _ => by simp only [hφ]) (fun s _ => by simp only [hφ]) h fun s => ?_
  dsimp only
  split
  · split
    · simp [sampleFlights_frame (φ := State.sec), takeReadings_frame (φ := State.sec), thermalTrip_frame (φ := State.sec), hφ]
    · simp [sampleFlights_frame (φ := State.sec), takeReadings_frame (φ := State.sec), hφ]
  · refine (foldl_frame (fun s n => ?_) _ _).trans ?_
    · simp [lowerCodes_frame (φ := State.sec), hφ]
    · simp [sampleFlights_frame (φ := State.sec), takeReadings_frame (φ := State.sec), hφ]

theorem execRigFetchComplete_fuses {p image} (h : execRigFetchComplete p image s = .next t) : t.sec.fuses = s.sec.fuses :=
  perform_fuses (fun s => by simp [setLd_frame (φ := State.sec)]) h

theorem execRigVerifyComplete_fuses {p bad} (h : execRigVerifyComplete p bad s = .next t) : t.sec.fuses = s.sec.fuses :=
  perform_fuses (fun s => by
    split
    · rfl
    split
    · simp [refuseLoad_frame (φ := State.sec), fuses_next ‹slotRead _ _ _ _ = _›]
    · split <;> simp [refuseLoad_frame (φ := State.sec), setLd_frame (φ := State.sec), setMeasure_frame (φ := State.sec),
      fuses_next ‹slotRead _ _ _ _ = _›]) h

theorem execRigValidateComplete_fuses {p bad} (h : execRigValidateComplete p bad s = .next t) : t.sec.fuses = s.sec.fuses :=
  perform_fuses (fun s => by
    dsimp only
    split
    · rfl
    split
    · simp [refuseLoad_frame (φ := State.sec), fuses_next ‹slotRead _ _ _ _ = _›]
    · split <;> simp [refuseLoad_frame (φ := State.sec), setLd_frame (φ := State.sec), fuses_next ‹slotRead _ _ _ _ = _›]) h

theorem execKeySweepLine_fuses {u p bad} (h : execKeySweepLine u p bad s = .next t) : t.sec.fuses = s.sec.fuses :=
  perform_fuses (fun s => by
    dsimp only
    split
    · rfl
    split
    · split
      · simp
      · split <;> simp [rekeyLine_frame (φ := State.sec), settleLine_frame (φ := State.sec)]
    · split <;> simp [raise_frame (φ := State.sec)]) h

theorem execCheckpointData_fuses {k v msg} (h : execCheckpointData k v msg s = .next t) : t.sec.fuses = s.sec.fuses :=
  ckMsg_fuses (fun p step j off data s => by simp [setWard_frame (φ := State.sec)]) h

theorem execCheckpointReturn_fuses {k v msg} (h : execCheckpointReturn k v msg s = .next t) : t.sec.fuses = s.sec.fuses :=
  ckMsg_fuses (fun p step j off data s => by simp [setFrame_frame (φ := State.sec)]) h

theorem execRigReleased_fuses {p} (h : execRigReleased p s = .next t) : t.sec.fuses = s.sec.fuses :=
  perform_fuses (fun s => by simp) h

theorem execRerigRowShift_fuses {now r} (h : execRerigRowShift now r s = .next t) : t.sec.fuses = s.sec.fuses :=
  perform_fuses (fun s => by
    dsimp only
    repeat' split
    all_goals simp [beginRerig_frame (φ := State.sec), exhaustRole_frame (φ := State.sec), madeRerig_frame (φ := State.sec),
      setupTread_frame (φ := State.sec), shiftRow_frame (φ := State.sec)]) h

theorem execRerigRoleMove_fuses {now p bad} (h : execRerigRoleMove now p bad s = .next t) : t.sec.fuses = s.sec.fuses :=
  perform_fuses (fun s => by
    dsimp only
    repeat' split
    all_goals simp [beginRerig_frame (φ := State.sec), exhaustRole_frame (φ := State.sec), madeRerig_frame (φ := State.sec), moveRole_frame
      (φ := State.sec)]) h

theorem execRerigComplete_fuses {now p} (h : execRerigComplete now p s = .next t) : t.sec.fuses = s.sec.fuses :=
  perform_fuses (fun s => by
    dsimp only
    repeat' split
    all_goals simp [bump_frame (φ := State.sec), showCapacity_frame (φ := State.sec)]) h

theorem execChanHeadRead_fuses {g} (h : execChanHeadRead g s = .next t) : t.sec.fuses = s.sec.fuses :=
  perform_fuses (fun s => by simp) h

theorem execLoadStart_fuses {gf bad far} (h : execLoadStart gf bad far s = .next t) : t.sec.fuses = s.sec.fuses :=
  perform_fuses (fun s => by
    dsimp only
    repeat' split
    all_goals simp [flightAccess_frame (φ := State.sec), flightError_frame (φ := State.sec)]) h

theorem execDrainComplete_fuses {a bad far waited} (h : execDrainComplete a bad far waited s = .next t) : t.sec.fuses = s.sec.fuses :=
  perform_fuses (fun s => by
    dsimp only
    repeat' split
    all_goals simp [bump_frame (φ := State.sec), flightAccess_frame (φ := State.sec), setArray_frame (φ := State.sec)]) h

theorem execMacResidue_fuses {x} (h : execMacResidue x s = .next t) : t.sec.fuses = s.sec.fuses :=
  perform_fuses (fun s => by
    split
    · rfl
    · simp [fenceTread_frame (φ := State.sec)]) h

theorem execTreadParity_fuses {x inst word} (h : execTreadParity x inst word s = .next t) : t.sec.fuses = s.sec.fuses :=
  perform_fuses (fun s => by
    split
    · rfl
    · simp [fenceTread_frame (φ := State.sec)]) h

theorem execRouterParity_fuses {gf} (h : execRouterParity gf s = .next t) : t.sec.fuses = s.sec.fuses :=
  perform_fuses (fun s => by simp [fenceFlight_frame (φ := State.sec)]) h

theorem execSbParity_fuses {gf word} (h : execSbParity gf word s = .next t) : t.sec.fuses = s.sec.fuses :=
  perform_fuses (fun s => by simp [fenceFlight_frame (φ := State.sec)]) h

theorem execBackwardStart_fuses {slot} (h : execBackwardStart slot s = .next t) : t.sec.fuses = s.sec.fuses :=
  perform_fuses (fun s => by
    refine withStage_fuses (fun p r c s => ?_) s
    dsimp only
    split
    · rfl
    split
    · split
      · rfl
      · simp [checkEntry_frame (φ := State.sec)]
    · exact backwardOf_fuses _ _ _ _ _ _) h

theorem execStashVerify_fuses {slot bad} (h : execStashVerify slot bad s = .next t) : t.sec.fuses = s.sec.fuses :=
  perform_fuses (fun s => by
    refine withStage_fuses (fun _ _ _ s => ?_) s
    dsimp only
    repeat' split
    all_goals simp) h

theorem execBucketEnter_fuses {slot bad} (h : execBucketEnter slot bad s = .next t) : t.sec.fuses = s.sec.fuses :=
  perform_fuses (fun s => by
    refine withRing_fuses (fun _ _ _ _ s => ?_) s
    dsimp only
    split
    · rfl
    split
    · simp
    split
    · simp [fuses_next ‹memRead _ _ _ _ _ = _›]
    · simp [bump_frame (φ := State.sec), gateRing_frame (φ := State.sec), fuses_next ‹memRead _ _ _ _ _ = _›]) h

theorem execRingMessageSend_fuses {slot bad} (h : execRingMessageSend slot bad s = .next t) : t.sec.fuses = s.sec.fuses :=
  perform_fuses (fun s => by
    refine withRing_fuses (fun _ _ _ _ s => ?_) s
    dsimp only
    repeat' split
    all_goals simp [sendRing_frame (φ := State.sec)]) h

theorem execRingData_fuses {k v msg bad} (h : execRingData k v msg bad s = .next t) : t.sec.fuses = s.sec.fuses :=
  perform_fuses (fun s => by
    dsimp only
    split
    · rfl
    split
    · simp [peerMismatch_frame (φ := State.sec)]
    refine withRing_fuses (fun _ _ _ _ s => ?_) s
    repeat' split
    all_goals simp) h

theorem execUpdateGroup_fuses {slot bad} (h : execUpdateGroup slot bad s = .next t) : t.sec.fuses = s.sec.fuses :=
  perform_fuses (fun s => by
    refine withRing_fuses (fun _ _ _ _ s => ?_) s
    dsimp only
    repeat' split
    all_goals simp [advanceUpd_frame (φ := State.sec)]) h

theorem execSparsePass1_fuses {p table bad} (h : execSparsePass1 p table bad s = .next t) : t.sec.fuses = s.sec.fuses :=
  perform_fuses (fun s => by
    dsimp only
    repeat' split
    all_goals simp [sparseError_frame (φ := State.sec), ucHold_frame (φ := State.sec)]) h

theorem execSparseRestore_fuses {p table} (h : execSparseRestore p table s = .next t) : t.sec.fuses = s.sec.fuses :=
  perform_fuses (fun s => by simp) h

theorem execSparsePass2_fuses {u p table bad} (h : execSparsePass2 u p table bad s = .next t) : t.sec.fuses = s.sec.fuses :=
  perform_fuses (fun s => by
    dsimp only
    repeat' split
    all_goals simp [bump_frame (φ := State.sec), clearFinite_frame (φ := State.sec), holdRegs_frame (φ := State.sec), setSparse_frame (φ :=
      State.sec), ucHold_frame (φ := State.sec)]) h

theorem execFabricRead_fuses {agent addr size bad} (h : execFabricRead agent addr size bad s = .next t) : t.sec.fuses = s.sec.fuses :=
  perform_fuses (fun s => by simp) h

theorem execFabricWrite_fuses {agent addr data bad} (h : execFabricWrite agent addr data bad s = .next t) : t.sec.fuses = s.sec.fuses :=
  perform_fuses (fun s => by simp) h

theorem execFabricAtomic_fuses {agent func addr size value compare bad}
    (h : execFabricAtomic agent func addr size value compare bad s = .next t) : t.sec.fuses = s.sec.fuses :=
  perform_fuses (fun s => by simp) h

theorem execConverterDescriptor_fuses {u bad far farOut}
    (h : execConverterDescriptor u bad far farOut s = .next t) : t.sec.fuses = s.sec.fuses :=
  perform_fuses (fun s => by
    dsimp only
    repeat' split
    all_goals simp [ucStop_frame (φ := State.sec)]) h

theorem execDbgGo_fuses {value bad} (h : execDbgGo value bad s = .next t) : t.sec.fuses = s.sec.fuses :=
  perform_fuses (fun s => by simp) h

theorem execInstrumentAccess_fuses {write addr len data bad}
    (h : execInstrumentAccess write addr len data bad s = .next t) : t.sec.fuses = s.sec.fuses :=
  perform_fuses (fun s => by simp) h

theorem execPatrolRead_fuses {u inUse off bad} (h : execPatrolRead u inUse off bad s = .next t) : t.sec.fuses = s.sec.fuses := by
  unfold execPatrolRead at h
  refine perform_fuses (fun s => ?_) h
  extract_lets _ _ a i b
  have hb : b.sec.fuses = s.sec.fuses := by simp [b]
  split
  · rfl
  split
  · exact (checkLine_fuses _ _ _ _).trans hb
  split
  · exact hb
  · exact hb
  · exact hb

theorem execCheckpointDone_fuses {k v msg} (h : execCheckpointDone k v msg s = .next t) : t.sec.fuses = s.sec.fuses :=
  ckMsg_fuses (fun p step j off data s => by simp [sendCk_frame (φ := State.sec), setWard_frame (φ := State.sec)]) h

theorem execCheckpointFetch_fuses {k v msg} (h : execCheckpointFetch k v msg s = .next t) : t.sec.fuses = s.sec.fuses :=
  ckMsg_fuses (fun p step j off data s => by
    dsimp only
    split
    · rfl
    split <;> simp [sendFrame_frame (φ := State.sec), fuses_next ‹memRead _ _ _ _ _ = _›]) h

theorem execStorageResponse_fuses {entry} (h : execStorageResponse entry s = .next t) : t.sec.fuses = s.sec.fuses :=
  perform_fuses (fun s => by
    dsimp only
    repeat' split
    all_goals simp) h

theorem execGatherDescriptor_fuses {u bad far farOut} (h : execGatherDescriptor u bad far farOut s = .next t) : t.sec.fuses = s.sec.fuses :=
  perform_fuses (fun s => by
    dsimp only
    repeat' split
    all_goals simp [ucFail_frame (φ := State.sec), ucStop_frame (φ := State.sec)]) h

theorem execTrainFlit_fuses {k now flit rx} (h : execTrainFlit k now flit rx s = .next t) : t.sec.fuses = s.sec.fuses :=
  perform_fuses (fun s => by simp [clearOldSlots_frame (φ := State.sec), closeWindow_frame (φ := State.sec), countFlit_frame (φ :=
    State.sec), takeAck_frame (φ := State.sec), takeCredit_frame (φ := State.sec), tellSession_frame (φ := State.sec), waitReplay_frame
    (φ := State.sec)]) h

theorem execDataFlit_fuses {k now flit touched corr uncorr}
    (h : execDataFlit k now flit touched corr uncorr s = .next t) : t.sec.fuses = s.sec.fuses :=
  perform_fuses (fun s => by simp) h

theorem execControlFlit_fuses {k now flit touched corr uncorr}
    (h : execControlFlit k now flit touched corr uncorr s = .next t) : t.sec.fuses = s.sec.fuses :=
  perform_fuses (fun s => by simp) h

theorem execIdleFlit_fuses {k now flit touched corr uncorr}
    (h : execIdleFlit k now flit touched corr uncorr s = .next t) : t.sec.fuses = s.sec.fuses :=
  perform_fuses (fun s => by simp) h

theorem execFlitSend_fuses {k first} (h : execFlitSend k first s = .next t) : t.sec.fuses = s.sec.fuses :=
  perform_fuses (fun s => by
    dsimp only
    repeat' split
    all_goals simp) h

theorem execRopeGraceExpiry_fuses {k now} (h : execRopeGraceExpiry k now s = .next t) : t.sec.fuses = s.sec.fuses :=
  perform_fuses (fun s => by
    dsimp only
    repeat' split
    all_goals simp) h

theorem execRopeDisable_fuses {k value} (h : execRopeDisable k value s = .next t) : t.sec.fuses = s.sec.fuses :=
  perform_fuses (fun s => by simp [edgesLost_frame (φ := State.sec), ropeDown_frame (φ := State.sec), setRopeSt_frame (φ := State.sec)]) h

theorem execFabricRequestIssue_fuses {agent op func addr size data}
    (h : execFabricRequestIssue agent op func addr size data s = .next t) : t.sec.fuses = s.sec.fuses :=
  perform_fuses (fun s => by
    split
    · rfl
    · split <;> simp) h

theorem execFabricResponse_fuses {k v msg} (h : execFabricResponse k v msg s = .next t) : t.sec.fuses = s.sec.fuses :=
  perform_fuses (fun s => by
    dsimp only
    repeat' split
    all_goals simp [fabError_frame (φ := State.sec), tookMsg_frame (φ := State.sec)]) h

theorem execCheckpointReturnDone_fuses {k v msg} (h : execCheckpointReturnDone k v msg s = .next t) : t.sec.fuses = s.sec.fuses :=
  ckMsg_fuses (fun p step j off data s => by
    dsimp only
    repeat' split
    all_goals simp [setFrame_frame (φ := State.sec)]) h

theorem execLaserFailed_fuses {m j now} (h : execLaserFailed m j now s = .next t) : t.sec.fuses = s.sec.fuses :=
  perform_fuses (fun s => by simp [failLaser_frame (φ := State.sec)]) h

theorem execLaserRelease_fuses {m value} (h : execLaserRelease m value s = .next t) : t.sec.fuses = s.sec.fuses :=
  perform_fuses (fun s => by simp [darken_frame (φ := State.sec), journalLife_frame (φ := State.sec)]) h

theorem execDcpMsgFlit_fuses {n dir flit bad} (h : execDcpMsgFlit n dir flit bad s = .next t) : t.sec.fuses = s.sec.fuses :=
  perform_fuses (fun s => by simp) h

theorem execDcpIdleFlit_fuses {n dir flit bad} (h : execDcpIdleFlit n dir flit bad s = .next t) : t.sec.fuses = s.sec.fuses :=
  perform_fuses (fun s => by simp) h

theorem execDlReset_fuses {n value fatal lost} (h : execDlReset n value fatal lost s = .next t) : t.sec.fuses = s.sec.fuses :=
  perform_fuses (fun s => by
    refine whenUp_fuses (fun s => ?_) s
    extract_lets a was b c
    have ha : a.sec.fuses = s.sec.fuses := by
      dsimp only [a]
      split <;> simp [dlEnable_frame (φ := State.sec)]
    split
    · exact ha
    have hb : b.sec.fuses = s.sec.fuses := by simp [resetEnd_frame (φ := State.sec), b, ha]
    split
    · exact hb
    · refine (foldl_fuses (fun _ _ => ?_) _ _).trans ((foldl_fuses (fun _ _ => ?_) _ _).trans hb)
      · simp [findCause_frame (φ := State.sec)]
      · simp [fabError_frame (φ := State.sec)]) h

theorem execBar4Request_fuses {rid off write size data bad}
    (h : execBar4Request rid off write size data bad s = .next t) : t.sec.fuses = s.sec.fuses :=
  perform_fuses (fun s => by
    dsimp only
    repeat' split
    all_goals simp [bump_frame (φ := State.sec), logAdvisory_frame (φ := State.sec)]) h

theorem execHceCopy_fuses {e desc answer bad} (h : execHceCopy e desc answer bad s = .next t) : t.sec.fuses = s.sec.fuses :=
  perform_fuses (fun s => by
    refine startDesc_fuses (fun _ _ s => ?_) s
    dsimp only
    split
    · split
      · rfl
      · simp
    · split <;> simp [hostWrite_frame (φ := State.sec), endDesc_frame (φ := State.sec), fuses_next ‹engRead _ _ _ _ _ _ = _›]) h

theorem execHceDescriptorComplete_fuses {x} (h : execHceDescriptorComplete x s = .next t) : t.sec.fuses = s.sec.fuses :=
  perform_fuses (fun s => by simp [completeOldest_frame (φ := State.sec)]) h

theorem execDlDown_fuses (h : execDlDown s = .next t) : t.sec.fuses = s.sec.fuses :=
  perform_fuses (fun s => by simp [showLink_frame (φ := State.sec)]) h

theorem execHotReset_fuses (h : execHotReset s = .next t) : t.sec.fuses = s.sec.fuses :=
  perform_fuses (fun s => by simp [showLink_frame (φ := State.sec)]) h

theorem execFunctionLevelReset_fuses {f} (h : execFunctionLevelReset f s = .next t) : t.sec.fuses = s.sec.fuses :=
  perform_fuses (fun s => by simp) h

theorem execD3hotEntry_fuses {f} (h : execD3hotEntry f s = .next t) : t.sec.fuses = s.sec.fuses :=
  perform_fuses (fun s => by simp) h

theorem execRefclkHostLoss_fuses (h : execRefclkHostLoss s = .next t) : t.sec.fuses = s.sec.fuses :=
  perform_fuses (fun s => by simp [showLink_frame (φ := State.sec)]) h

theorem execPerstAssert_fuses (h : execPerstAssert s = .next t) : t.sec.fuses = s.sec.fuses :=
  perform_fuses (fun s => by simp [showLink_frame (φ := State.sec)]) h

theorem execStepVote_fuses {p} (h : execStepVote p s = .next t) : t.sec.fuses = s.sec.fuses :=
  perform_fuses (fun s => by simp [toParent_frame (φ := State.sec)]) h

theorem execVote_fuses {k m} (h : execVote k m s = .next t) : t.sec.fuses = s.sec.fuses :=
  treeMsg_fuses (fun p s => by simp) h

theorem execDecide_fuses {k m} (h : execDecide k m s = .next t) : t.sec.fuses = s.sec.fuses :=
  treeMsg_fuses (fun p s => by simp) h

theorem execRewind_fuses {k m} (h : execRewind k m s = .next t) : t.sec.fuses = s.sec.fuses :=
  treeMsg_fuses (fun p s => by simp [applyHalt_frame (φ := State.sec), rootRequest_frame (φ := State.sec), takeOrder_frame (φ := State.sec),
    toChildren_frame (φ := State.sec), toParent_frame (φ := State.sec)]) h

theorem execRewoundSend_fuses {p} (h : execRewoundSend p s = .next t) : t.sec.fuses = s.sec.fuses :=
  perform_fuses (fun s => by simp) h

theorem execRewound_fuses {k m} (h : execRewound k m s = .next t) : t.sec.fuses = s.sec.fuses :=
  treeMsg_fuses (fun p s => by
    dsimp only
    repeat' split
    all_goals simp) h

theorem execStepRewindRequest_fuses {p} (h : execStepRewindRequest p s = .next t) : t.sec.fuses = s.sec.fuses :=
  perform_fuses (fun s => by simp [findCause_frame (φ := State.sec)]) h

theorem execWindDownTimeout_fuses {now p} (h : execWindDownTimeout now p s = .next t) : t.sec.fuses = s.sec.fuses :=
  perform_fuses (fun s => by simp) h

theorem execPartReclaim_fuses {p value} (h : execPartReclaim p value s = .next t) : t.sec.fuses = s.sec.fuses :=
  partCtrl_fuses (fun s => by simp) h

theorem execEnd_fuses {fn id p} (h : execEnd fn id p s = .next t) : t.sec.fuses = s.sec.fuses :=
  tenantCmd_fuses (fun s => by simp) h

theorem execClaim_fuses {fn id p} (h : execClaim fn id p s = .next t) : t.sec.fuses = s.sec.fuses :=
  tenantCmd_fuses (fun s => by
    dsimp only
    repeat' split
    all_goals simp [freshKey_frame (φ := State.sec)]) h

theorem execEnrollRigKey_fuses {fn id p slot signer} (h : execEnrollRigKey fn id p slot signer s = .next t) : t.sec.fuses = s.sec.fuses :=
  tenantCmd_fuses (fun s => by
    dsimp only
    split
    · rfl
    · rfl) h

theorem execGetVersion_fuses {fn request} (h : execGetVersion fn request s = .next t) : t.sec.fuses = s.sec.fuses :=
  spdmCmd_fuses (fun s => by simp) h

theorem execGetCapabilities_fuses {fn request} (h : execGetCapabilities fn request s = .next t) : t.sec.fuses = s.sec.fuses :=
  spdmCmd_fuses (fun s => by simp) h

theorem execNegotiateAlgorithms_fuses {fn request offered}
    (h : execNegotiateAlgorithms fn request offered s = .next t) : t.sec.fuses = s.sec.fuses :=
  spdmCmd_fuses (fun s => by simp) h

theorem execFinish_fuses {fn id key signature} (h : execFinish fn id key signature s = .next t) : t.sec.fuses = s.sec.fuses :=
  spdmCmd_fuses (fun s => by
    refine withSession_fuses (fun _ s => ?_) s
    split
    · rfl
    split
    · rfl
    · simp) h

theorem execKeyUpdate_fuses {fn id} (h : execKeyUpdate fn id s = .next t) : t.sec.fuses = s.sec.fuses :=
  inSession_fuses (fun x s => by simp) h

theorem execEndSession_fuses {fn id} (h : execEndSession fn id s = .next t) : t.sec.fuses = s.sec.fuses :=
  inSession_fuses (fun x s => by simp) h

theorem execLinkStage_fuses {fn id p epoch secret} (h : execLinkStage fn id p epoch secret s = .next t) : t.sec.fuses = s.sec.fuses :=
  tenantCmd_fuses (fun s => by simp [mapChannels_frame (φ := State.sec)]) h

theorem execLinkSwitch_fuses {fn id p epoch} (h : execLinkSwitch fn id p epoch s = .next t) : t.sec.fuses = s.sec.fuses :=
  tenantCmd_fuses (fun s => by
    dsimp only
    repeat' split
    all_goals simp [mapChannels_frame (φ := State.sec)]) h

theorem execMemRotate_fuses {fn id p} (h : execMemRotate fn id p s = .next t) : t.sec.fuses = s.sec.fuses :=
  tenantCmd_fuses (fun s => by
    dsimp only
    split
    · rfl
    · rw [setKeys_fuses]
      refine (foldl_fuses (fun _ _ => ?_) _ _).trans ?_
      · rw [setUc_frame (φ := State.sec) (fun _ _ => rfl)]
      · simp [freshKey_frame (φ := State.sec)]) h

theorem execKeyExchange_fuses {fn request} (h : execKeyExchange fn request s = .next t) : t.sec.fuses = s.sec.fuses :=
  spdmCmd_fuses (fun s => by simp [takeFree_frame (φ := State.sec)]) h

theorem execFirmwareImage_fuses {image} (h : execFirmwareImage image s = .next t) : t.sec.fuses = s.sec.fuses :=
  perform_fuses (fun s => by
    dsimp only
    split
    · rfl
    split
    · rfl
    split
    · simp [ringBell_frame (φ := State.sec)]
    · rw [ringBell_frame (φ := State.sec) (fun _ _ => rfl) (fun _ _ => rfl)]
      split <;> split <;> rfl) h

theorem execDebugRelock_fuses {value} (h : execDebugRelock value s = .next t) : t.sec.fuses = s.sec.fuses :=
  dbgCtrl_fuses (fun s => by simp) h

theorem execIdeKm_fuses {fn id stream op rx tx} (h : execIdeKm fn id stream op rx tx s = .next t) : t.sec.fuses = s.sec.fuses :=
  perform_fuses (fun s => by
    split
    · rfl
    refine withSession_fuses (fun _ s => ?_) s
    dsimp only
    repeat' split
    all_goals simp) h

theorem execFabStage_fuses {value} (h : execFabStage value s = .next t) : t.sec.fuses = s.sec.fuses :=
  fabCtrl_fuses (fun s => by
    dsimp only
    split
    · rfl
    split
    · simp [raise0_frame (φ := State.sec)]
    · rfl) h

theorem execPartScrubbed_fuses (h : execPartScrubbed s = .next t) : t.sec.fuses = s.sec.fuses :=
  perform_fuses (fun s => by
    refine withScrub_fuses _ _ _ (fun p s => ?_)
    extract_lets a b
    have hb : b.sec.fuses = s.sec.fuses := by simp -implicitDefEqProofs [b, a]; rfl
    rw [raise_frame (φ := State.sec) (fun _ _ => rfl) (fun _ _ => rfl) (fun _ _ => rfl) (fun _ _ => rfl)]
    exact hb) h

theorem execFabSwitch_fuses {value} (h : execFabSwitch value s = .next t) : t.sec.fuses = s.sec.fuses :=
  fabCtrl_fuses (fun s => by
    dsimp only
    split
    · rfl
    split
    · rfl
    refine (foldl_fuses (fun _ _ => ?_) _ _).trans rfl
    split
    · simp [switchRopeKey_frame (φ := State.sec)]
    · split <;> simp [wakeRope_frame (φ := State.sec), setVchan_frame (φ := State.sec)]) h

theorem execScrubKeysErased_fuses (h : execScrubKeysErased s = .next t) : t.sec.fuses = s.sec.fuses :=
  perform_fuses (fun s => by simp [onPartVcs_frame (φ := State.sec)]) h

theorem execScrubStart_fuses (h : execScrubStart s = .next t) : t.sec.fuses = s.sec.fuses :=
  perform_fuses (fun s => by
    refine withScrub_fuses _ _ _ (fun _ s => ?_)
    refine (foldl_fuses (fun _ _ => ?_) _ _).trans ?_
    · simp [sendControl_frame (φ := State.sec)]
    · simp [onPartVcs_frame (φ := State.sec), stopEngine_frame (φ := State.sec), dropPlacements_frame (φ := State.sec)]) h

theorem execScrubOverwriteDone_fuses (h : execScrubOverwriteDone s = .next t) : t.sec.fuses = s.sec.fuses :=
  perform_fuses (fun s => by simp [clearRange_frame (φ := State.sec), clearScratch_frame (φ := State.sec), onPartVcs_frame (φ :=
    State.sec)]) h
end

/-! What a command may change, every part at once. -/

/-- An edge of the power or reset pins, which may lose all volatile state. -/
def PinEdge (c : Instr) : Prop := c ∈ [Instr.pwrGoodRise, .pwrGoodFall, .pkgRstAssert, .pkgRstRelease true, .pkgRstRelease false]

theorem exec_changes_outsideSec {c : Instr} (hc : .sec ∉ touches c) {s t : State} (h : exec c s = .next t) :
    KeepsBut (.pending :: touches c) s t := by
  apply keepsBut_of_veil
  cases c <;> dsimp only [exec, touches] at h ⊢
  case' registerWrite => apply execRegisterWrite_frame (h := h)
  case' rw1cWrite => apply execRw1cWrite_frame (h := h)
  case' pkgIdLock => apply execPkgIdLock_frame (h := h)
  case' pwrBudgetWrite => apply execPwrBudgetWrite_frame (h := h)
  case' powerLimitEffecter => apply execPowerLimitEffecter_frame (h := h)
  case' budgetWindowClose => apply execBudgetWindowClose_frame (h := h)
  case' inputLow => apply execInputLow_frame (h := h)
  case' inputRestored => apply execInputRestored_frame (h := h)
  case' admissionToken => apply execAdmissionToken_frame (h := h)
  case' retainEntry => apply execRetainEntry_frame (h := h)
  case' retainExit => apply execRetainExit_frame (h := h)
  case' rigStart => apply execRigStart_frame (h := h)
  case' fetchFailed => apply execFetchFailed_frame (h := h)
  case' rigPlaceComplete => apply execRigPlaceComplete_frame (h := h)
  case' applyFault => apply execApplyFault_frame (h := h)
  case' rigAbort => apply execRigAbort_frame (h := h)
  case' rigRelease => apply execRigRelease_frame (h := h)
  case' add | sub | and | or | xor | sll | srl | sra | slt | sltu | min | max | minu | maxu | mul | mulh | mulhu | clz | popc
      | addi | andi | ori | xori | slti | slli | srli | srai | lui => apply alu_frame (h := h)
  case' lw | lh | lhu | lbu | vld => apply loadTread_frame (h := h)
  case' sw | sh | sb | vst => apply storeTread_frame (h := h)
  case' beq | bne | blt | bge | bltu | bgeu => apply branch_frame (h := h)
  case' jal => apply execJal_frame (h := h)
  case' jalr => apply execJalr_frame (h := h)
  case' recv => apply execRecv_frame (h := h)
  case' send => apply execSend_frame (h := h)
  case' poll => apply execPoll_frame (h := h)
  case' vrecv => apply execVrecv_frame (h := h)
  case' vsend => apply execVsend_frame (h := h)
  case' vadd | vsub | vmul | vfma | vmin | vmax | vabs | vneg | vrcp | vrsqrt => apply vfloat_frame (h := h)
  case' vcmplt => apply execVcmplt_frame (h := h)
  case' vcmpeq => apply execVcmpeq_frame (h := h)
  case' vsel | vsplat | vins | viadd | vand | vor | vxor => apply vbits_frame (h := h)
  case' vred => apply execVred_frame (h := h)
  case' vext => apply execVext_frame (h := h)
  case' vcvt => apply execVcvt_frame (h := h)
  case' accrd => apply execAccrd_frame (h := h)
  case' accclr => apply execAccclr_frame (h := h)
  case' accrel => apply execAccrel_frame (h := h)
  case' nop => apply execNop_frame (h := h)
  case' halt => apply execHalt_frame (h := h)
  case' fence => apply execFence_frame (h := h)
  case' rdsr => apply execRdsr_frame (h := h)
  case' wrsr => apply execWrsr_frame (h := h)
  case' brk => apply execBrk_frame (h := h)
  case' trap => apply execTrap_frame (h := h)
  case' wordDelivery => apply execWordDelivery_frame (h := h)
  case' creditReturn => apply execCreditReturn_frame (h := h)
  case' knotContribution => apply execKnotContribution_frame (h := h)
  case' knotDelivery => apply execKnotDelivery_frame (h := h)
  case' chanLimitWrite => apply execChanLimitWrite_frame (h := h)
  case' stallScan => apply execStallScan_frame (h := h)
  case' stallCtrlWrite => apply execStallCtrlWrite_frame (h := h)
  case' fltPush => apply execFltPush_frame (h := h)
  case' tileStart => apply execTileStart_frame (h := h)
  case' loadComplete => apply execLoadComplete_frame (h := h)
  case' tileAccumulated => apply execTileAccumulated_frame (h := h)
  case' microBatchBoundary => apply execMicroBatchBoundary_frame (h := h)
  case' forwardAdmit => apply execForwardAdmit_frame (h := h)
  case' seqDescriptorPush => apply execSeqDescriptorPush_frame (h := h)
  case' landingPush => apply execLandingPush_frame (h := h)
  case' ingestPush => apply execIngestPush_frame (h := h)
  case' landLimitWrite => apply execLandLimitWrite_frame (h := h)
  case' seqQuotaWrite => apply execSeqQuotaWrite_frame (h := h)
  case' ringPass => apply execRingPass_frame (h := h)
  case' ringCredit => apply execRingCredit_frame (h := h)
  case' vbmax => apply execVbmax_frame (h := h)
  case' vsqrt => apply execVsqrt_frame (h := h)
  case' vdiv => apply execVdiv_frame (h := h)
  case' vmmul => apply execVmmul_frame (h := h)
  case' vtrans => apply execVtrans_frame (h := h)
  case' schedScaleWrite => apply execSchedScaleWrite_frame (h := h)
  case' rowRepair => apply execRowRepair_frame (h := h)
  case' ucQuotaWrite => apply execUcQuotaWrite_frame (h := h)
  case' ucGatherPush => apply execUcGatherPush_frame (h := h)
  case' ucConvPush => apply execUcConvPush_frame (h := h)
  case' gatherLandingPush => apply execGatherLandingPush_frame (h := h)
  case' ropeSignalLock => apply execRopeSignalLock_frame (h := h)
  case' ropeTrainRetry => apply execRopeTrainRetry_frame (h := h)
  case' replayTmo => apply execReplayTmo_frame (h := h)
  case' errorWindowClose => apply execErrorWindowClose_frame (h := h)
  case' strandLockLoss => apply execStrandLockLoss_frame (h := h)
  case' ropeRetrain => apply execRopeRetrain_frame (h := h)
  case' ropeVcLimitWrite => apply execRopeVcLimitWrite_frame (h := h)
  case' landingEntry => apply execLandingEntry_frame (h := h)
  case' landingCredit => apply execLandingCredit_frame (h := h)
  case' ropeKeyCheck => apply execRopeKeyCheck_frame (h := h)
  case' partUnavailable => apply execPartUnavailable_frame (h := h)
  case' laserModuleInsert => apply execLaserModuleInsert_frame (h := h)
  case' laserModuleRemove => apply execLaserModuleRemove_frame (h := h)
  case' laserLightTimeout => apply execLaserLightTimeout_frame (h := h)
  case' laserLifeTick => apply execLaserLifeTick_frame (h := h)
  case' laserLifeJournal => apply execLaserLifeJournal_frame (h := h)
  case' laserRelight => apply execLaserRelight_frame (h := h)
  case' dcpCapFlit => apply execDcpCapFlit_frame (h := h)
  case' dcpReplayTmo => apply execDcpReplayTmo_frame (h := h)
  case' dieLinkFenced => apply execDieLinkFenced_frame (h := h)
  case' dlDisable => apply execDlDisable_frame (h := h)
  case' dlTrainingTimeout => apply execDlTrainingTimeout_frame (h := h)
  case' dlRetest => apply execDlRetest_frame (h := h)
  case' laneTest => apply execLaneTest_frame (h := h)
  case' plcValidWrite => apply execPlcValidWrite_frame (h := h)
  case' hceDoorbell => apply execHceDoorbell_frame (h := h)
  case' hceNop => apply execHceNop_frame (h := h)
  case' hceFence => apply execHceFence_frame (h := h)
  case' hceDescriptorRetry => apply execHceDescriptorRetry_frame (h := h)
  case' hceResume => apply execHceResume_frame (h := h)
  case' hceEnable => apply execHceEnable_frame (h := h)
  case' eventRecordWrite => apply execEventRecordWrite_frame (h := h)
  case' evtHeadWrite => apply execEvtHeadWrite_frame (h := h)
  case' evtEnable => apply execEvtEnable_frame (h := h)
  case' perstRelease => apply execPerstRelease_frame (h := h)
  case' linkRecovery => apply execLinkRecovery_frame (h := h)
  case' mbH2pWrite => apply execMbH2pWrite_frame (h := h)
  case' mbP2hClear => apply execMbP2hClear_frame (h := h)
  case' mbP2hMaskWrite => apply execMbP2hMaskWrite_frame (h := h)
  case' stepStart => apply execStepStart_frame (h := h)
  case' join => apply execJoin_frame (h := h)
  case' go => apply execGo_frame (h := h)
  case' resume => apply execResume_frame (h := h)
  case' heartbeat => apply execHeartbeat_frame (h := h)
  case' heartbeatSend => apply execHeartbeatSend_frame (h := h)
  case' peerLostTimeout => apply execPeerLostTimeout_frame (h := h)
  case' stepHalt => apply execStepHalt_frame (h := h)
  case' stepTakeover => apply execStepTakeover_frame (h := h)
  case' snapPin => apply execSnapPin_frame (h := h)
  case' snapUnpin => apply execSnapUnpin_frame (h := h)
  case' snapExpiry => apply execSnapExpiry_frame (h := h)
  case' jrnCompact => apply execJrnCompact_frame (h := h)
  case' journalCompacted => apply execJournalCompacted_frame (h := h)
  case' availJournal => apply execAvailJournal_frame (h := h)
  case' partOffer => apply execPartOffer_frame (h := h)
  case' partWithdraw => apply execPartWithdraw_frame (h := h)
  case' getDigests => apply execGetDigests_frame (h := h)
  case' getCertificate => apply execGetCertificate_frame (h := h)
  case' challenge => apply execChallenge_frame (h := h)
  case' getMeasurements => apply execGetMeasurements_frame (h := h)
  case' spdmHeartbeat => apply execSpdmHeartbeat_frame (h := h)
  case' injArm => apply execInjArm_frame (h := h)
  case' injDisarm => apply execInjDisarm_frame (h := h)
  case' calApply => apply execCalApply_frame (h := h)
  case' telemetryConsumer => apply execTelemetryConsumer_frame (h := h)
  case' storageServiceBit => apply execStorageServiceBit_frame (h := h)
  case' pwrEnRise => apply execPwrEnRise_frame (h := h)
  case' powerUpHoldoffEnd => apply execPowerUpHoldoffEnd_frame (h := h)
  case' pwrEnFall => apply execPwrEnFall_frame (h := h)
  case' pldmGetSensor => apply execPldmGetSensor_frame (h := h)
  case' extest | clamp | highz => apply testPort_frame (h := h)
  case' illegalInstruction => apply execIllegalInstruction_frame (h := h)
  case' hostLinkTrained => apply execHostLinkTrained_frame (h := h)
  case' doeDiscovery => apply execDoeDiscovery_frame (h := h)
  case' completionTimeout => apply execCompletionTimeout_frame (h := h)
  case' eventSummaryJournal => apply execEventSummaryJournal_frame (h := h)
  case' ropeEnable => apply execRopeEnable_frame (h := h)
  case' inputOutOfRange => apply execInputOutOfRange_frame (h := h)
  case' rigApplyComplete => apply execRigApplyComplete_frame (h := h)
  case' selfTestPhaseComplete => apply execSelfTestPhaseComplete_frame (h := h)
  case' refclkFabLoss => apply execRefclkFabLoss_frame (h := h)
  any_goals exact fun _ _ => rfl
  all_goals simp [touches] at hc

theorem exec_changes_sec {c : Instr} (hc : .sec ∈ touches c) (hp : ¬PinEdge c) {s t : State} (h : exec c s = .next t) :
    KeepsBut (.pending :: touches c) s t := by
  apply keepsBut_of_veil
  cases c <;> dsimp only [exec, touches] at h ⊢
  case' rcRead => apply execRcRead_frame (h := h)
  case' highWordLatchRead => apply execHighWordLatchRead_frame (h := h)
  case' committedStepRead => apply execCommittedStepRead_frame (h := h)
  case' powerMeasurement => apply execPowerMeasurement_frame (h := h)
  case' rigFetchComplete => apply execRigFetchComplete_frame (h := h)
  case' rigVerifyComplete => apply execRigVerifyComplete_frame (h := h)
  case' rigValidateComplete => apply execRigValidateComplete_frame (h := h)
  case' rerigRowShift => apply execRerigRowShift_frame (h := h)
  case' rerigRoleMove => apply execRerigRoleMove_frame (h := h)
  case' rerigComplete => apply execRerigComplete_frame (h := h)
  case' chanHeadRead => apply execChanHeadRead_frame (h := h)
  case' loadStart => apply execLoadStart_frame (h := h)
  case' drainComplete => apply execDrainComplete_frame (h := h)
  case' macResidue => apply execMacResidue_frame (h := h)
  case' treadParity => apply execTreadParity_frame (h := h)
  case' routerParity => apply execRouterParity_frame (h := h)
  case' sbParity => apply execSbParity_frame (h := h)
  case' backwardStart => apply execBackwardStart_frame (h := h)
  case' stashVerify => apply execStashVerify_frame (h := h)
  case' bucketEnter => apply execBucketEnter_frame (h := h)
  case' ringMessageSend => apply execRingMessageSend_frame (h := h)
  case' ringData => apply execRingData_frame (h := h)
  case' updateGroup => apply execUpdateGroup_frame (h := h)
  case' sparsePass1 => apply execSparsePass1_frame (h := h)
  case' sparsePass2 => apply execSparsePass2_frame (h := h)
  case' sparseRestore => apply execSparseRestore_frame (h := h)
  case' fabricRead => apply execFabricRead_frame (h := h)
  case' fabricWrite => apply execFabricWrite_frame (h := h)
  case' fabricAtomic => apply execFabricAtomic_frame (h := h)
  case' patrolRead => apply execPatrolRead_frame (h := h)
  case' keySweepLine => apply execKeySweepLine_frame (h := h)
  case' gatherDescriptor => apply execGatherDescriptor_frame (h := h)
  case' converterDescriptor => apply execConverterDescriptor_frame (h := h)
  case' trainFlit => apply execTrainFlit_frame (h := h)
  case' flitSend => apply execFlitSend_frame (h := h)
  case' dataFlit => apply execDataFlit_frame (h := h)
  case' controlFlit => apply execControlFlit_frame (h := h)
  case' idleFlit => apply execIdleFlit_frame (h := h)
  case' ropeGraceExpiry => apply execRopeGraceExpiry_frame (h := h)
  case' ropeDisable => apply execRopeDisable_frame (h := h)
  case' fabricRequestIssue => apply execFabricRequestIssue_frame (h := h)
  case' fabricResponse => apply execFabricResponse_frame (h := h)
  case' checkpointData => apply execCheckpointData_frame (h := h)
  case' checkpointDone => apply execCheckpointDone_frame (h := h)
  case' checkpointFetch => apply execCheckpointFetch_frame (h := h)
  case' checkpointReturn => apply execCheckpointReturn_frame (h := h)
  case' checkpointReturnDone => apply execCheckpointReturnDone_frame (h := h)
  case' laserFailed => apply execLaserFailed_frame (h := h)
  case' laserRelease => apply execLaserRelease_frame (h := h)
  case' dcpMsgFlit => apply execDcpMsgFlit_frame (h := h)
  case' dlReset => apply execDlReset_frame (h := h)
  case' bar4Request => apply execBar4Request_frame (h := h)
  case' hceCopy => apply execHceCopy_frame (h := h)
  case' hceDescriptorComplete => apply execHceDescriptorComplete_frame (h := h)
  case' dlDown => apply execDlDown_frame (h := h)
  case' hotReset => apply execHotReset_frame (h := h)
  case' perstAssert => apply execPerstAssert_frame (h := h)
  case' functionLevelReset => apply execFunctionLevelReset_frame (h := h)
  case' d3hotEntry => apply execD3hotEntry_frame (h := h)
  case' stepVote => apply execStepVote_frame (h := h)
  case' vote => apply execVote_frame (h := h)
  case' decide_ => apply execDecide_frame (h := h)
  case' rewind => apply execRewind_frame (h := h)
  case' windDownTimeout => apply execWindDownTimeout_frame (h := h)
  case' rewoundSend => apply execRewoundSend_frame (h := h)
  case' rewound => apply execRewound_frame (h := h)
  case' stepRewindRequest => apply execStepRewindRequest_frame (h := h)
  case' storageResponse => apply execStorageResponse_frame (h := h)
  case' partReclaim => apply execPartReclaim_frame (h := h)
  case' claim => apply execClaim_frame (h := h)
  case' enrollRigKey => apply execEnrollRigKey_frame (h := h)
  case' linkStage => apply execLinkStage_frame (h := h)
  case' linkSwitch => apply execLinkSwitch_frame (h := h)
  case' memRotate => apply execMemRotate_frame (h := h)
  case' end_ => apply execEnd_frame (h := h)
  case' status => apply execStatus_frame (h := h)
  case' getVersion => apply execGetVersion_frame (h := h)
  case' getCapabilities => apply execGetCapabilities_frame (h := h)
  case' negotiateAlgorithms => apply execNegotiateAlgorithms_frame (h := h)
  case' keyExchange => apply execKeyExchange_frame (h := h)
  case' finish => apply execFinish_frame (h := h)
  case' keyUpdate => apply execKeyUpdate_frame (h := h)
  case' endSession => apply execEndSession_frame (h := h)
  case' firmwareImage => apply execFirmwareImage_frame (h := h)
  case' fuseSvnRaise => apply execFuseSvnRaise_frame (h := h)
  case' fabStage => apply execFabStage_frame (h := h)
  case' fabSwitch => apply execFabSwitch_frame (h := h)
  case' debugUnlock => apply execDebugUnlock_frame (h := h)
  case' debugRelock => apply execDebugRelock_frame (h := h)
  case' dbgGo => apply execDbgGo_frame (h := h)
  case' scrubStart => apply execScrubStart_frame (h := h)
  case' scrubKeysErased => apply execScrubKeysErased_frame (h := h)
  case' scrubOverwriteDone => apply execScrubOverwriteDone_frame (h := h)
  case' partScrubbed => apply execPartScrubbed_frame (h := h)
  case' refclkHostLoss => apply execRefclkHostLoss_frame (h := h)
  case' dcpIdleFlit => apply execDcpIdleFlit_frame (h := h)
  case' ideKm => apply execIdeKm_frame (h := h)
  case' instrumentAccess => apply execInstrumentAccess_frame (h := h)
  case' converterFailed => apply execConverterFailed_frame (h := h)
  case' thermalSample => apply execThermalSample_frame (h := h)
  case' rigReleased => apply execRigReleased_frame (h := h)
  case pkgRstRelease m => cases m <;> simp [PinEdge] at hp
  case pwrGoodRise | pwrGoodFall | pkgRstAssert => simp [PinEdge] at hp
  any_goals exact fun _ _ => rfl
  all_goals simp [touches] at hc

/-- What a command changes beside the queue of commands is listed, but for the edges that may lose all. -/
theorem exec_changes {c : Instr} (hp : ¬PinEdge c) {s t : State} (h : exec c s = .next t) : KeepsBut (.pending :: touches c) s t := by
  by_cases hc : .sec ∈ touches c
  · exact exec_changes_sec hc hp h
  · exact exec_changes_outsideSec hc h

/-! The newel timer (02 R48). -/

section
variable {s t : State}

/-- A write of another part does not reach the newel timer. -/
@[simp] theorem blind_time :
    Blind.regs State.time ∧ Blind.pkg State.time ∧ Blind.timers State.time ∧ Blind.seq State.time ∧ Blind.free State.time ∧
    Blind.pending State.time ∧ Blind.out State.time ∧ Blind.hiLatch State.time ∧ Blind.commitLatch State.time ∧
    Blind.pins State.time ∧ Blind.fence State.time ∧ Blind.power State.time ∧ Blind.rigs State.time ∧ Blind.treads State.time ∧
    Blind.chans State.time ∧ Blind.knots State.time ∧ Blind.flights State.time ∧ Blind.stages State.time ∧
    Blind.ctxs State.time ∧ Blind.landings State.time ∧ Blind.parts State.time ∧ Blind.reds State.time ∧ Blind.mem State.time ∧
    Blind.memCheck State.time ∧ Blind.memEpoch State.time ∧ Blind.memKey State.time ∧ Blind.ucs State.time ∧
    Blind.sparse State.time ∧ Blind.gathers State.time ∧ Blind.ropes State.time ∧ Blind.lasers State.time ∧
    Blind.fabric State.time ∧ Blind.bundles State.time ∧ Blind.hces State.time ∧ Blind.rings State.time ∧ Blind.pcie State.time ∧
    Blind.svcs State.time ∧ Blind.journal State.time ∧ Blind.sec State.time ∧ Blind.det State.time := by
  and_intros <;> exact fun _ _ => rfl

@[simp] theorem foldl_time {β : Type} {g : State → β → State} (h : ∀ s x, (g s x).time = s.time) (l : List β) (s : State) :
    (l.foldl g s).time = s.time := foldl_frame (φ := State.time) h l s

@[simp] theorem ite_time {c : Prop} [Decidable c] (a b : State) : (if c then a else b).time = if c then a.time else b.time :=
  apply_ite State.time _ _ _

theorem perform_time_le {ok : Bool} {f : State → State} (hf : ∀ s, s.time ≤ (f s).time) (h : perform ok f s = .next t) :
    s.time ≤ t.time := by
  obtain ⟨-, rfl⟩ := perform_next h
  exact hf { s with out := [] }

theorem time_le_at (now : W64) (s : State) : s.time ≤ (at_ now s).time := Nat.le_max_left ..

theorem treeMsg_time_le {k : Nat} {m : TreeMsg} {f : Nat → State → State} (hf : ∀ p s, s.time ≤ (f p s).time)
    (h : treeMsg k m f s = .next t) :
    s.time ≤ t.time := by
  refine perform_time_le (fun s => ?_) h
  split
  · exact hf _ _
  · exact Nat.le_refl _

theorem whenUp_time_le {f : State → State} (hf : ∀ s, s.time ≤ (f s).time) (s : State) : s.time ≤ (whenUp f s).time := by
  unfold whenUp
  split
  · exact Nat.le_refl _
  · exact hf s

theorem execPwrBudgetWrite_time_le {now value} (h : execPwrBudgetWrite now value s = .next t) : s.time ≤ t.time := by
  refine perform_time_le (whenUp_time_le fun s => ?_) h
  simp [formBudget_frame (φ := State.time), journalSettings_frame (φ := State.time)]

theorem execPowerLimitEffecter_time_le {now w} (h : execPowerLimitEffecter now w s = .next t) : s.time ≤ t.time :=
  perform_time_le (fun s => by simp [formBudget_frame (φ := State.time)]) h

theorem execBudgetWindowClose_time_le {now} (h : execBudgetWindowClose now s = .next t) : s.time ≤ t.time :=
  perform_time_le (fun s => by simp [setStageRate_frame (φ := State.time)]) h

theorem execPowerMeasurement_time_le {now mw mv} (h : execPowerMeasurement now mw mv s = .next t) : s.time ≤ t.time :=
  perform_time_le (fun s => by simp [hitAll_frame (φ := State.time), overBudget_frame (φ := State.time), raise0_frame (φ := State.time),
    showHold_frame (φ := State.time)]) h

theorem execConverterFailed_time_le {now k} (h : execConverterFailed now k s = .next t) : s.time ≤ t.time :=
  perform_time_le (fun s => by simp [formBudget_frame (φ := State.time), hitInjection_frame (φ := State.time), packageFault_frame (φ :=
    State.time), raise0_frame (φ := State.time)]) h

theorem execThermalSample_time_le {now readings} (h : execThermalSample now readings s = .next t) : s.time ≤ t.time := by
  refine perform_time_le (fun s => (time_le_at now s).trans (Nat.le_of_eq (Eq.symm ?_))) h
  suffices hf : ∀ φ : State → Nat, (∀ s, φ s = s.time) → φ _ = φ (at_ now s) from hf _ fun _ => rfl
  intro φ hφ
  dsimp only
  split
  · split
    · simp [hitAll_frame (φ := State.time), sampleFlights_frame (φ := State.time), takeReadings_frame (φ := State.time), thermalTrip_frame
      (φ := State.time), hφ]
    · simp [hitAll_frame (φ := State.time), sampleFlights_frame (φ := State.time), takeReadings_frame (φ := State.time), hφ]
  · refine (foldl_frame (fun s n => ?_) _ _).trans ?_
    · simp [lowerCodes_frame (φ := State.time), hφ]
    · simp [hitAll_frame (φ := State.time), sampleFlights_frame (φ := State.time), takeReadings_frame (φ := State.time), hφ]

theorem execRerigRowShift_time_le {now r} (h : execRerigRowShift now r s = .next t) : s.time ≤ t.time := by
  refine perform_time_le (fun s => ?_) h
  dsimp only
  repeat' split
  all_goals simp [beginRerig_frame (φ := State.time), exhaustRole_frame (φ := State.time), madeRerig_frame (φ := State.time),
    setupTread_frame (φ := State.time), shiftRow_frame (φ := State.time), slotRead_frame (φ := State.time)]

theorem execRerigRoleMove_time_le {now p bad} (h : execRerigRoleMove now p bad s = .next t) : s.time ≤ t.time := by
  refine perform_time_le (fun s => ?_) h
  dsimp only
  repeat' split
  all_goals simp [beginRerig_frame (φ := State.time), exhaustRole_frame (φ := State.time), madeRerig_frame (φ := State.time), moveRole_frame
    (φ := State.time), slotRead_frame (φ := State.time)]

theorem execRerigComplete_time_le {now p} (h : execRerigComplete now p s = .next t) : s.time ≤ t.time := by
  refine perform_time_le (fun s => ?_) h
  dsimp only
  repeat' split
  all_goals simp [bump_frame (φ := State.time), deliverWaiting_frame (φ := State.time), showCapacity_frame (φ := State.time)]

theorem execMicroBatchBoundary_time_le {now slot} (h : execMicroBatchBoundary now slot s = .next t) : s.time ≤ t.time := by
  refine perform_time_le (fun s => (time_le_at now s).trans (Nat.le_of_eq (withStage_frame (φ := State.time) _ _ _ (fun _ _ _ s =>
    ?_)).symm)) h
  dsimp only
  split
  · rfl
  split <;> simp [balanceUpdate_frame (φ := State.time), endBackward_frame (φ := State.time), freeVersions_frame (φ := State.time),
    retireEntry_frame (φ := State.time), returnBanks_frame (φ := State.time)]

theorem execLaserModuleRemove_time_le {m now} (h : execLaserModuleRemove m now s = .next t) : s.time ≤ t.time := by
  refine perform_time_le (fun s => ?_) h
  extract_lets a b c
  have hc : c.time = max s.time now.toNat := by
    simp only [c, b, showLife_frame (φ := State.time), blind_time, setLaser_time]
    rw [foldl_time (fun s i => by simp)]
    simp [darken_frame (φ := State.time), a]
  refine (Nat.le_max_left s.time now.toNat).trans (Nat.le_of_eq (.trans hc.symm (foldl_time (fun s k => ?_) _ _).symm))
  split
  · simp [enterGrace_frame (φ := State.time)]
  · split <;> simp [ropeDown_frame (φ := State.time)]

theorem execLaserFailed_time_le {m j now} (h : execLaserFailed m j now s = .next t) : s.time ≤ t.time :=
  perform_time_le (fun s => by simp [failLaser_frame (φ := State.time), hitInjection_frame (φ := State.time)]) h

theorem execLaserLightTimeout_time_le {m j now} (h : execLaserLightTimeout m j now s = .next t) : s.time ≤ t.time :=
  perform_time_le (fun s => by simp [failLaser_frame (φ := State.time)]) h

theorem execWindDownTimeout_time_le {now p} (h : execWindDownTimeout now p s = .next t) : s.time ≤ t.time :=
  perform_time_le (fun s => by simp [abandonWork_frame (φ := State.time), settleOrder_frame (φ := State.time)]) h

theorem execHeartbeat_time_le {now k m} (h : execHeartbeat now k m s = .next t) : s.time ≤ t.time := by
  refine treeMsg_time_le (fun p s => ?_) h
  dsimp only
  split <;> simp [learnChild_frame (φ := State.time)]

theorem execPeerLostTimeout_time_le {now p k} (h : execPeerLostTimeout now p k s = .next t) : s.time ≤ t.time := by
  refine perform_time_le (fun s => ?_) h
  dsimp only
  split
  · split <;> simp [peerLost_frame (φ := State.time)]
  · simp

theorem execSnapExpiry_time_le {now p} (h : execSnapExpiry now p s = .next t) : s.time ≤ t.time := by
  refine perform_time_le (fun s => ?_) h
  dsimp only
  split
  · split <;> simp [endPin_frame (φ := State.time)]
  · simp

theorem execSelfTestPhaseComplete_time_le {now failed found fatal}
    (h : execSelfTestPhaseComplete now failed found fatal s = .next t) : s.time ≤ t.time := by
  refine perform_time_le (fun s => ?_) h
  split
  · exact Nat.le_refl _
  extract_lets a n b t0 f0 c d
  have hb : b.time = a.time := by
    dsimp only [b]
    split <;> simp [scanJournal_frame (φ := State.time)]
  have hd : s.time ≤ d.time := by
    refine (time_le_at now s).trans (Nat.le_of_eq ?_)
    simp [bump_frame (φ := State.time), runPhase_frame (φ := State.time), d, c, hb, a]
  split
  · exact hd.trans (Nat.le_of_eq (by simp [failSelfTest_frame (φ := State.time)]))
  split
  · exact hd.trans (Nat.le_of_eq (by simp [beginReady_frame (φ := State.time)]))
  · exact hd

theorem execPldmGetSensor_time_le {now n k} (h : execPldmGetSensor now n k s = .next t) : s.time ≤ t.time :=
  perform_time_le (fun s => by simp) h

end

/-! The free values taken (log 1). -/

section
variable {s t : State}

/-- A write of another part does not reach the count of free values. -/
@[simp] theorem blind_free :
    Blind.regs State.free ∧ Blind.pkg State.free ∧ Blind.time State.free ∧ Blind.timers State.free ∧ Blind.seq State.free ∧
    Blind.pending State.free ∧ Blind.out State.free ∧ Blind.hiLatch State.free ∧ Blind.commitLatch State.free ∧
    Blind.pins State.free ∧ Blind.fence State.free ∧ Blind.power State.free ∧ Blind.rigs State.free ∧ Blind.treads State.free ∧
    Blind.chans State.free ∧ Blind.knots State.free ∧ Blind.flights State.free ∧ Blind.stages State.free ∧
    Blind.ctxs State.free ∧ Blind.landings State.free ∧ Blind.parts State.free ∧ Blind.reds State.free ∧ Blind.mem State.free ∧
    Blind.memCheck State.free ∧ Blind.memEpoch State.free ∧ Blind.memKey State.free ∧ Blind.ucs State.free ∧
    Blind.sparse State.free ∧ Blind.gathers State.free ∧ Blind.ropes State.free ∧ Blind.lasers State.free ∧
    Blind.fabric State.free ∧ Blind.bundles State.free ∧ Blind.hces State.free ∧ Blind.rings State.free ∧ Blind.pcie State.free ∧
    Blind.svcs State.free ∧ Blind.journal State.free ∧ Blind.sec State.free ∧ Blind.det State.free := by
  and_intros <;> exact fun _ _ => rfl

@[simp] theorem foldl_free {β : Type} {g : State → β → State} (h : ∀ s x, (g s x).free = s.free) (l : List β) (s : State) :
    (l.foldl g s).free = s.free := foldl_frame (φ := State.free) h l s

theorem foldl_free_le {β : Type} {g : State → β → State} (h : ∀ s x, s.free ≤ (g s x).free) (l : List β) (s : State) :
    s.free ≤ (l.foldl g s).free := by
  induction l generalizing s with
  | nil => exact Nat.le_refl _
  | cons x l ih => exact (h s x).trans (ih _)

@[simp] theorem ite_free {c : Prop} [Decidable c] (a b : State) : (if c then a else b).free = if c then a.free else b.free :=
  apply_ite State.free _ _ _

theorem perform_free_le {ok : Bool} {f : State → State} (hf : ∀ s, s.free ≤ (f s).free) (h : perform ok f s = .next t) :
    s.free ≤ t.free := by
  obtain ⟨-, rfl⟩ := perform_next h
  exact hf { s with out := [] }

theorem tenantCmd_free_le {fn id p : Nat} {own : Bool} {l : List Nat} {f : State → Nat × State} (hf : ∀ s, s.free ≤ (f s).2.free)
    (h : tenantCmd fn id p own l f s = .next t) : s.free ≤ t.free := by
  refine perform_free_le (fun s => ?_) h
  split
  · exact Nat.le_refl _
  split
  · exact Nat.le_refl _
  dsimp only
  split
  · exact Nat.le_refl _
  split
  · exact Nat.le_refl _
  · exact hf s

theorem spdmCmd_free_le {fn stage : Nat} {f : State → State} (hf : ∀ s, s.free ≤ (f s).free)
    (h : spdmCmd fn stage f s = .next t) : s.free ≤ t.free := by
  refine perform_free_le (fun s => ?_) h
  split
  · exact Nat.le_refl _
  split
  · exact Nat.le_refl _
  · exact hf s

theorem dbgCtrl_free_le {v : W32} {f : State → State} (hf : ∀ s, s.free ≤ (f s).free)
    (h : dbgCtrl v f s = .next t) : s.free ≤ t.free :=
  perform_free_le (fun s => by
    unfold whenUp
    split
    · exact Nat.le_refl _
    · exact Nat.le_trans (by split <;> exact Nat.le_refl _) (hf _)) h

theorem takeFree_free (s : State) : s.takeFree.2.free = s.free + 1 := rfl

@[simp] theorem freshKey_free (s : State) : (freshKey s).2.free = s.free + 1 := rfl

theorem loseBytes_free (o n : Nat) (s : State) : (loseBytes o n s).free = s.free + n := by
  simp [loseBytes, pokeBytes_frame (φ := State.free), settleLine_frame (φ := State.free)]

theorem loseCopies_free_le (e : Nat) (s : State) : s.free ≤ (loseCopies e s).free :=
  foldl_free_le (fun s x => (Nat.le_add_right s.free (Prod.snd x)).trans_eq (loseBytes_free ..).symm) _ _

theorem drawChallenge_free_le (s : State) : s.free ≤ (drawChallenge s).free :=
  foldl_free_le (fun s _ => Nat.le_succ s.free) _ _

theorem free_next {α : Type} {x : α × State} {a : α} {t : State} (h : x = (a, t)) : t.free = x.2.free := by rw [h]

theorem detachFn_free_le (cause f : Nat) (s : State) : s.free ≤ (detachFn cause f s).free := by
  unfold detachFn
  extract_lets es lost g fresh a b c d e i j k
  have hb : s.free ≤ b.free := foldl_free_le (fun s x => (loseCopies_free_le x s).trans (Nat.le_of_eq (by simp [stopEngine_frame (φ :=
    State.free)]))) es a
  have hc : c.free = b.free := by simp [c, resetCfg_frame (φ := State.free), endSessions_frame (φ := State.free)]
  clear_value b c
  split
  · have he : e.free = b.free := by simp -implicitDefEqProofs [e, d, hc, clearIde_frame (φ := State.free)]
    have hj : j.free = b.free := by simp -implicitDefEqProofs [j, i, he]
    have hk : k.free = b.free := by simp [k, hj, failColds_frame (φ := State.free)]
    clear_value k
    refine (hb.trans_eq hk.symm).trans_eq (Eq.symm (.trans (foldl_free (fun s x => ?_) _ _) rfl))
    split
    · simp [refuseLoad_frame (φ := State.free)]
    · rfl
  · exact (hb.trans_eq hc.symm).trans_eq (by simp [hc, clearIde_frame (φ := State.free)])

theorem detach_free_le (cause : Nat) (fs : List Nat) (s : State) : s.free ≤ (detach cause fs s).free := by
  refine (foldl_free_le (fun s x => detachFn_free_le cause x s) fs s).trans_eq ?_
  simp [detach, showDetached_frame (φ := State.free), bump_frame (φ := State.free)]

theorem tailByte_free_le (addr : Nat) (s : State) : s.free ≤ (tailByte addr s).2.free := by
  unfold tailByte
  split
  · exact Nat.le_refl _
  · exact Nat.le_succ _

@[simp] theorem engWrite_free (a : Agent) (bad : Tbl Nat) (far addr : Nat) (l : List Byte) (s : State) :
    (engWrite a bad far addr l s).2.free = s.free := by
  simp [engWrite_frame (φ := State.free)]

theorem drainRows_free_le (a : Agent) (bad : Tbl Nat) (far : Nat) (t : Tile) (key : RngKey) (all rows : List EpiRow) (s : State) :
    s.free ≤ (drainRows a bad far t key all rows s).2.free := by
  induction rows generalizing s with
  | nil => exact Nat.le_refl _
  | cons r rest ih =>
    rw [drainRows]
    extract_lets w addr
    split
    split
    next hx =>
      have hx : s.free ≤ _ := Nat.le_trans ?_ (Nat.le_of_eq (free_next hx).symm)
      refine hx.trans ?_
      split
      next hw =>
        have hw := free_next hw
        rw [engWrite_free] at hw
        split
        · exact Nat.le_of_eq hw.symm
        split
        next hv =>
          have hv := free_next hv
          rw [ite_snd, ite_free, engWrite_free, ite_self, hw] at hv
          split
          · exact Nat.le_of_eq hv.symm
          · exact (Nat.le_of_eq hv.symm).trans (ih _)
      · split
        · exact Nat.le_refl _
        · exact tailByte_free_le ..

theorem drainStats_free (a : Agent) (bad : Tbl Nat) (far : Nat) (t : Tile) (rows : List RowRec) (s : State) :
    (drainStats a bad far t rows s).2.free = s.free := by
  simp [drainStats_frame (φ := State.free)]

theorem drainWrites_free_le (gf : Nat) (run : TileRun) (rows : List EpiRow) (recs : List RowRec) (bad : Tbl Nat) (far : Nat) (s : State) :
    s.free ≤ (drainWrites gf run rows recs bad far s).2.free := by
  unfold drainWrites
  dsimp only
  split
  · exact (drainRows_free_le ..).trans_eq (drainStats_free ..).symm
  · exact drainRows_free_le ..

theorem tileRecord_free_le (arr : Nat) (t : Tile) (rows : List EpiRow) (recs : List RowRec) (s : State) : s.free ≤
    (tileRecord arr t rows recs s).2.free := by
  unfold tileRecord
  by_cases h : t.stats
  · simp [h]
  · simp [h, takeFree_free]

theorem drainDone_free_le (gf arr : Nat) (t : Tile) (inj : Bool) (rows : List EpiRow) (recs : List RowRec) (s : State) :
    s.free ≤ (drainDone gf arr t inj rows recs s).free := by
  unfold drainDone
  split
  next c s' hc =>
    refine (tileRecord_free_le arr t rows recs s).trans ((free_next hc).symm.trans_le (Nat.le_of_eq ?_))
    extract_lets a b
    have ha : a.free = s'.free := by
      simp [a, setArray_frame (φ := State.free), drainReport_frame (φ := State.free), sendRecord_frame (φ := State.free)]
    have hb : b.free = s'.free := by
      dsimp only [b]
      split
      · simp [ha, hitInjection_frame (φ := State.free)]
      · exact ha
    split
    · simp [countDrain_frame (φ := State.free), hb]
    · exact hb.symm

theorem abandonDrain_free_le (gf arr : Nat) (s : State) : s.free ≤ (abandonDrain gf arr s).free := by
  unfold abandonDrain
  split
  · exact Nat.le_refl _
  split
  · exact Nat.le_refl _
  · dsimp only
    exact (takeFree_free s ▸ Nat.le_succ s.free : s.free ≤ s.takeFree.2.free).trans (drainRows_free_le ..)

theorem abandonDrains_free_le (p : Nat) (s : State) : s.free ≤ (abandonDrains p s).free :=
  foldl_free_le (fun s gf => foldl_free_le (fun s arr => abandonDrain_free_le gf arr s) _ s) _ s

theorem abandonWork_free_le (p : Nat) (s : State) : s.free ≤ (abandonWork p s).free := by
  refine (abandonDrains_free_le p s).trans (Nat.le_of_eq ?_)
  simp only [abandonWork, clearUcQueues_frame (φ := State.free), dropUnsent_frame (φ := State.free), blind_free]
  rw [foldl_free (fun s x => by split <;> rfl), foldl_free (fun _ _ => by simp)]

theorem le_ite {c : Prop} [Decidable c] {n a b : Nat} (ha : n ≤ a) (hb : n ≤ b) : n ≤ if c then a else b := by split <;> assumption

theorem execDrainComplete_free_le {x bad far waited} (h : execDrainComplete x bad far waited s = .next t) : s.free ≤ t.free := by
  unfold execDrainComplete at h
  refine perform_free_le (fun s => ?_) h
  extract_lets a b sh
  have hb : b.free = s.free := by simp [b, bump_frame (φ := State.free)]
  split
  · exact Nat.le_refl _
  next run _ =>
    rw [ite_free]
    refine le_ite (Nat.le_refl _) ?_
    extract_lets t inj bank rows recs r
    have hr : s.free ≤ r.2.free := hb.symm.trans_le (drainWrites_free_le ..)
    split
    · exact Nat.le_of_eq hb.symm
    split
    · exact hr.trans (drainDone_free_le ..)
    · exact hr.trans_eq (by simp [flightAccess_frame (φ := State.free), setArray_frame (φ := State.free)])

theorem execDlDown_free_le (h : execDlDown s = .next t) : s.free ≤ t.free :=
  perform_free_le (fun s => (detach_free_le 1 allFns s).trans_eq (by simp [showLink_frame (φ := State.free)])) h

theorem execHotReset_free_le (h : execHotReset s = .next t) : s.free ≤ t.free :=
  perform_free_le (fun s => (detach_free_le 2 allFns s).trans_eq (by simp [showLink_frame (φ := State.free)])) h

theorem execRefclkHostLoss_free_le (h : execRefclkHostLoss s = .next t) : s.free ≤ t.free :=
  perform_free_le (fun s => (detach_free_le 1 allFns s).trans_eq (by simp [showLink_frame (φ := State.free)])) h

theorem execPerstAssert_free_le (h : execPerstAssert s = .next t) : s.free ≤ t.free := by
  refine perform_free_le (fun s => ?_) h
  split
  · exact Nat.le_refl _
  · exact (detach_free_le 3 allFns { s with pins := { s.pins with perstN := false } }).trans_eq
      (by simp [showLink_frame (φ := State.free)])

theorem execFunctionLevelReset_free_le {f} (h : execFunctionLevelReset f s = .next t) : s.free ≤ t.free :=
  perform_free_le (detach_free_le 4 (withVfs f)) h

theorem execD3hotEntry_free_le {f} (h : execD3hotEntry f s = .next t) : s.free ≤ t.free :=
  perform_free_le (detach_free_le 5 (withVfs f)) h

theorem execWindDownTimeout_free_le {now p} (h : execWindDownTimeout now p s = .next t) : s.free ≤ t.free := by
  refine perform_free_le (fun s => ?_) h
  dsimp only
  split
  · exact (abandonWork_free_le p (at_ now s)).trans_eq (by simp [settleOrder_frame (φ := State.free)])
  · exact Nat.le_refl _

theorem execClaim_free_le {fn id p} (h : execClaim fn id p s = .next t) : s.free ≤ t.free := by
  refine tenantCmd_free_le (fun s => ?_) h
  split
  · exact Nat.le_refl _
  split
  · exact Nat.le_refl _
  split
  · exact Nat.le_refl _
  · simp [setKeys_frame (φ := State.free), Nat.add_assoc]

theorem execMemRotate_free_le {fn id p} (h : execMemRotate fn id p s = .next t) : s.free ≤ t.free := by
  refine tenantCmd_free_le (fun s => ?_) h
  dsimp only
  split
  · exact Nat.le_refl _
  · rw [setKeys_frame (φ := State.free) (fun _ _ => rfl), foldl_free (fun _ _ => by simp)]
    exact Nat.le_succ _

theorem execKeyExchange_free_le {fn request} (h : execKeyExchange fn request s = .next t) : s.free ≤ t.free := by
  refine spdmCmd_free_le (fun s => ?_) h
  split
  · exact Nat.le_refl _
  · simp [addSession_frame (φ := State.free), setSpdm_frame (φ := State.free), takeFree_free]

theorem execDebugUnlock_free_le {value} (h : execDebugUnlock value s = .next t) : s.free ≤ t.free := by
  refine dbgCtrl_free_le (fun s => ?_) h
  split
  · exact Nat.le_refl _
  refine (drawChallenge_free_le s).trans ?_
  dsimp only
  split <;> simp [bump_frame (φ := State.free), raise0_frame (φ := State.free)]

end

/-! The fences (04 R146). -/

section
variable {s t : State}

theorem tget_tset_ne_zero {l : Tbl Nat} {k v x : Nat} (hv : v ≠ 0) (h : tget 0 l x ≠ 0) : tget 0 (tset 0 l k v) x ≠ 0 := by
  by_cases e : x = k
  · rwa [e, tget_tset_self]
  · rwa [tget_tset_other _ _ e]

theorem restoreTread_grows (x : Nat) (s : State) : FenceGrows s (restoreTread x s) := by
  have hv : (if s.rowFenced (treadGf x) (treadRow x) then 3 else 1) ≠ 0 := by split <;> decide
  refine ⟨fun y hy => ?_, fun _ => id⟩
  have h : tget 0 s.fence.treads y ≠ 0 := bne_iff_ne.1 hy
  exact bne_iff_ne.2 (tget_tset_ne_zero hv h)

theorem restoreFences_grows (b : List Byte) (s : State) : FenceGrows s (restoreFences b s) := by
  refine foldl_fenceGrows (fun u i _ => ?_) s
  dsimp only
  split
  · refine ⟨fun _ => id, fun g hg => ?_⟩
    have h : tget 0 u.fence.flights g ≠ 0 := bne_iff_ne.1 hg
    exact bne_iff_ne.2 (tget_tset_ne_zero Nat.one_ne_zero h)
  · exact restoreTread_grows _ u

theorem withRecord_grows {type key : Nat} {f : List Byte → State → State} (h : ∀ b u, FenceGrows u (f b u)) (s : State) :
    FenceGrows s (withRecord type key f s) := by
  unfold withRecord
  split
  · exact h _ s
  · exact .refl s

theorem restoreUnits_grows (s : State) : FenceGrows s (restoreUnits s) := by
  have hsettings := (withRecord_keeps (type := 8) (key := 0) (f := restoreSettings) (l := [.regs, .power]) (fun b v => by
    apply keepsBut_of_veil
    apply restoreSettings_frame <;> exact fun _ _ => rfl) s).fenceGrows (by decide)
  have hsplices : ∀ u, FenceGrows u ((upFrom 0 144).foldl (fun s n => withRecord 3 n (restoreSplices n) s) u) :=
    foldl_fenceGrows fun u n _ => withRecord_grows (fun b v => fenceGrows_of_fence (by
      apply restoreSplices_frame (φ := State.fence) <;> exact fun _ _ => rfl)) u
  have hrepairs : ∀ u, FenceGrows u ((upFrom 0 16).foldl (fun s k => withRecord 4 k (restoreRepairs k) s) u) :=
    foldl_fenceGrows fun u k _ => withRecord_grows (fun b v => fenceGrows_of_fence (by
      apply restoreRepairs_frame (φ := State.fence) <;> exact fun _ _ => rfl)) u
  have hfences : ∀ u, FenceGrows u (withRecord 2 0 restoreFences u) := withRecord_grows restoreFences_grows
  exact hsettings.trans ((hfences _).trans ((hsplices _).trans (hrepairs _)))

theorem applyRecords_grows (s : State) : FenceGrows s (applyRecords s) := by
  have hid : FenceGrows s (withRecord 1 0 restoreId s) := withRecord_grows (f := restoreId) (fun _ _ => fenceGrows_of_fence rfl) s
  have hparts : ∀ u, FenceGrows u (allParts.foldl restorePart u) := foldl_fenceGrows fun u p _ =>
    (withRecord_grows (f := restoreDebug p) (fun _ _ => fenceGrows_of_fence rfl) u).trans
      (withRecord_grows (f := restoreAvail p) (fun _ _ => fenceGrows_of_fence rfl) _)
  rw [applyRecords_eq]
  exact hid.trans ((restoreUnits_grows _).trans ((hparts _).trans ((restoreCals_keeps _).fenceGrows (by decide))))

theorem scanJournal_grows (s : State) : FenceGrows s (scanJournal s) := by
  unfold scanJournal
  extract_lets j cut a b c d
  have ha : FenceGrows s a := (keepsBut_regs s _).fenceGrows (by decide)
  have hb : FenceGrows a b := by
    dsimp only [b]
    split
    · exact (raise0_keeps _ _ a).fenceGrows (by decide)
    · exact .refl a
  have hc : FenceGrows b c := by
    dsimp only [c]
    split
    · exact fenceGrows_of_fence rfl
    · exact .refl b
  have hd : FenceGrows c d := (tellDefaults_keeps _ c).fenceGrows (by decide)
  exact ha.trans (hb.trans (hc.trans (hd.trans (applyRecords_grows d))))

theorem fenceTreads_grows (l : List Nat) (s : State) : FenceGrows s (l.foldl (fun s t => fenceTread t false s) s) :=
  foldl_fenceGrows (fun u t _ => fenceTread_grows t false u) s

theorem runPhase_grows (n : Nat) (treads flights : List Nat) (wrong : List (Nat × Nat × Nat × Nat)) (readings : List (Nat × Int))
    (s : State) : FenceGrows s (runPhase n treads flights wrong readings s) := by
  unfold runPhase
  split
  · exact (marchControl_keeps s).fenceGrows (by decide)
  · exact (bringUpBundles_keeps s).fenceGrows (by decide)
  · exact (fenceTreads_grows treads s).trans (fenceFlights_grows flights _)
  · exact (foldl_fenceGrows (fun u g _ => checkTiles_grows wrong selfFmts g u) s).trans (fenceFlights_grows flights _)
  · exact ((takeReadings_keeps readings s).fenceGrows (by decide)).trans (fenceFlights_grows _ _)
  · exact .refl s

theorem selfTestFound_grows (n : Nat) (treads flights : List Nat) (wrong : List (Nat × Nat × Nat × Nat)) (readings : List (Nat × Int))
    (fatal : Bool) (s : State) : FenceGrows s (selfTestFound n treads flights wrong readings fatal s) := by
  have hscan : FenceGrows s (selfTestScanned n fatal s) := by
    unfold selfTestScanned
    split
    · exact scanJournal_grows s
    · exact .refl s
  exact hscan.trans ((runPhase_grows n treads flights wrong readings _).trans ((selfTestCounted_keeps _ _).fenceGrows (by decide)))

theorem settleRows_grows (p : Nat) (s : State) : FenceGrows s (settleRows p s) := by
  refine foldl_fenceGrows (fun u x _ => ?_) s
  split
  · exact shiftRow_grows _ _ _ u
  · exact .refl u

theorem releaseFrees_grows (p : Nat) (s : State) : FenceGrows s (releaseFrees p s) := by
  have hfirst : FenceGrows s (endInjectionOf p s) := fenceGrows_of_fence (by
    apply endInjectionOf_frame (φ := State.fence) <;> exact fun _ _ => rfl)
  refine hfirst.trans ((settleRows_grows p _).trans (fenceGrows_of_fence ?_))
  refine (showCapacity_frame (φ := State.fence) ?_ _).trans ((slotClear_frame (φ := State.fence) ?_ ?_ ?_ ?_ p _).trans
    (freeImage_frame (φ := State.fence) ?_ ?_ ?_ ?_ ?_ ?_ ?_ ?_ ?_ ?_ ?_ ?_ ?_ ?_ ?_ p _)) <;> exact fun _ _ => rfl

theorem releasePart_grows (p : Nat) (s : State) : FenceGrows s (releasePart p s) :=
  (releaseFrees_grows p s).trans (((releaseShows_keeps p _).fenceGrows (by decide)).trans
    (((leavesService_keeps _).fenceGrows (by decide)).trans ((releasePart_after p s).fenceGrows (by decide))))

theorem detect_grows {point target addr gf code : Nat} {body : List Nat} {s s' : State} {inj : Bool}
    (h : detect point target addr gf code body s = (inj, s')) : FenceGrows s s' :=
  fenceGrows_of_fence (by apply detect_frame_of (φ := State.fence) (h' := h) <;> exact fun _ _ => rfl)

theorem perform_grows {ok : Bool} {f : State → State} (hf : ∀ s, FenceGrows s (f s)) (h : perform ok f s = .next t) : FenceGrows s t := by
  obtain ⟨-, rfl⟩ := perform_next h
  exact hf { s with out := [] }

theorem execRigReleased_grows {p} (h : execRigReleased p s = .next t) : FenceGrows s t := by
  refine perform_grows (fun s => ?_) h
  split
  · exact releasePart_grows p s
  · exact .refl s

theorem execRerigRowShift_grows {now r} (h : execRerigRowShift now r s = .next t) : FenceGrows s t := by
  refine perform_grows (fun s => ((at_keeps now s).fenceGrows (by decide)).trans ?_) h
  extract_lets u
  split
  next gf row col _ _ =>
    split
    · exact .refl u
    have hshift : FenceGrows u (shiftRow gf row col (beginRerig r.part u)) := (fenceGrows_of_fence (by simp [beginRerig])).trans
      (shiftRow_grows ..)
    extract_lets v
    split
    · split
      · exact hshift
      split
      next hr =>
        have hread := hshift.trans (fenceGrows_of_fence (by apply slotRead_frame_of (φ := State.fence) (h' := hr) <;> exact fun _ _ => rfl))
        split
        · exact hread.trans (fenceGrows_of_fence (by apply exhaustRole_frame (φ := State.fence) <;> exact fun _ _ => rfl))
        · refine (hread.trans (fenceGrows_of_fence (u := madeRerig r.part _) rfl)).trans (foldl_fenceGrows (fun w c _ => ?_) _)
          exact fenceGrows_of_fence (setupTread_frame (φ := State.fence) (fun _ _ => rfl) ..)
    · exact hshift
  · exact .refl u

theorem execMacResidue_grows {x} (h : execMacResidue x s = .next t) : FenceGrows s t := by
  refine perform_grows (fun s => ?_) h
  split
  · exact .refl s
  split
  next hd => exact (detect_grows hd).trans (fenceTread_grows x _ _)

theorem execTreadParity_grows {x inst word} (h : execTreadParity x inst word s = .next t) : FenceGrows s t := by
  refine perform_grows (fun s => ?_) h
  split
  · exact .refl s
  split
  next hd => exact (detect_grows hd).trans (fenceTread_grows x _ _)

theorem execRouterParity_grows {gf} (h : execRouterParity gf s = .next t) : FenceGrows s t := by
  refine perform_grows (fun s => ?_) h
  split
  · exact .refl s
  split
  next hd => exact (detect_grows hd).trans (fenceFlight_grows gf _ _)

theorem execSbParity_grows {gf word} (h : execSbParity gf word s = .next t) : FenceGrows s t := by
  refine perform_grows (fun s => ?_) h
  split
  · exact .refl s
  split
  next hd => exact (detect_grows hd).trans (fenceFlight_grows gf _ _)

theorem execSelfTestPhaseComplete_grows {now failed found fatal} (h : execSelfTestPhaseComplete now failed found fatal s = .next t) :
    FenceGrows s t := by
  rw [execSelfTest_eq] at h
  refine perform_grows (fun s => ?_) h
  split
  · exact .refl s
  · exact ((at_keeps now s).fenceGrows (by decide)).trans ((selfTestFound_grows ..).trans (KeepsBut.fenceGrows (selfTestGoesOn_keeps _ _ _)
    (by decide)))

end

/-! What lasts (O60): FUSE_SVN, the debug unlocks and the free values, the newel timer and the fences. -/

/-- FUSE_SVN, the debug unlocks since production and the free values taken are no fewer. -/
def Endures (s t : State) : Prop := s.sec.fuseSvn ≤ t.sec.fuseSvn ∧ s.sec.unlocks ≤ t.sec.unlocks ∧ s.free ≤ t.free

theorem Endures.refl (s : State) : Endures s s := ⟨Nat.le_refl _, Nat.le_refl _, Nat.le_refl _⟩

theorem Endures.trans {s t u : State} (h : Endures s t) (h' : Endures t u) : Endures s u :=
  ⟨h.1.trans h'.1, h.2.1.trans h'.2.1, h.2.2.trans h'.2.2⟩

theorem endures_of_lost {s t : State} (h : StateLost s t) : Endures s t := by
  obtain ⟨-, -, hfree, hsec, -⟩ := h
  exact ⟨by rw [hsec], by rw [hsec], by rw [hfree]⟩

theorem KeepsBut.endures {l : List Area} {s t : State} (h : KeepsBut l s t) (hs : .sec ∉ l) (hf : .free ∉ l) : Endures s t := by
  have hsec : t.sec = s.sec := h .sec hs
  have hfree : t.free = s.free := h .free hf
  exact ⟨by rw [hsec], by rw [hsec], by rw [hfree]⟩

theorem perform_endures {ok : Bool} {f : State → State} (hf : ∀ s, Endures s (f s)) {s t : State} (h : perform ok f s = .next t) :
    Endures s t := by
  obtain ⟨-, rfl⟩ := perform_next h
  exact hf { s with out := [] }

theorem powerOnReset_endures (s : State) : Endures s (powerOnReset s) := by
  have hdraw : Endures (loseState s) (drawChallenge (loseState s)) := by
    have hsec : (drawChallenge (loseState s)).sec = (loseState s).sec := drawChallenge_keeps _ .sec (by decide)
    exact ⟨by rw [hsec], by rw [hsec], drawChallenge_free_le _⟩
  exact (endures_of_lost (loseState_lost s)).trans (hdraw.trans ((powerOnReset_keeps s).endures (by decide) (by decide)))

theorem pwrGoodRise_endures {s t : State} (h : execPwrGoodRise s = .next t) : Endures s t := by
  rw [execPwrGoodRise_eq] at h
  refine perform_endures (fun s => ?_) h
  split
  · exact .refl s
  · split
    · exact powerOnReset_endures (powerGood s)
    · exact .refl s

theorem pkgRstRelease_endures {m : Bool} {s t : State} (h : execPkgRstRelease m s = .next t) : Endures s t := by
  rw [execPkgRstRelease_eq] at h
  refine perform_endures (fun s => ?_) h
  split
  · exact .refl s
  · split
    · exact powerOnReset_endures (resetReleased m s)
    · exact .refl s

theorem pkgRstAssert_endures {s t : State} (h : execPkgRstAssert s = .next t) : Endures s t := by
  refine perform_endures (fun s => ?_) h
  split
  · exact .refl s
  · exact endures_of_lost (loseState_lost { s with pins := { s.pins with pkgRstN := false } })

theorem pwrGoodFall_endures {s t : State} (h : execPwrGoodFall s = .next t) : Endures s t := by
  rw [execPwrGoodFall_eq] at h
  refine perform_endures (fun s => ?_) h
  split
  · exact .refl s
  · exact endures_of_lost (powerOff_lost s)

theorem pinEdge_endures {c : Instr} (hp : PinEdge c) {s t : State} (h : exec c s = .next t) : Endures s t := by
  unfold PinEdge at hp
  simp only [List.mem_cons, List.not_mem_nil, or_false] at hp
  obtain rfl | rfl | rfl | rfl | rfl := hp
  · exact pwrGoodRise_endures h
  · exact pwrGoodFall_endures h
  · exact pkgRstAssert_endures h
  · exact pkgRstRelease_endures h
  · exact pkgRstRelease_endures h

/-- FUSE_SVN and the debug unlocks since production are no fewer. -/
def FusesLe (s t : State) : Prop := s.sec.fuseSvn ≤ t.sec.fuseSvn ∧ s.sec.unlocks ≤ t.sec.unlocks

theorem fusesLe_of_eq {s t : State} (h : t.sec.fuses = s.sec.fuses) : FusesLe s t := by
  obtain ⟨hsvn, hunlocks⟩ := Prod.mk.inj h
  exact ⟨by rw [hsvn], by rw [hunlocks]⟩

theorem execFuseSvnRaise_fusesLe {s t : State} (h : execFuseSvnRaise s = .next t) : FusesLe s t := by
  obtain ⟨-, rfl⟩ := perform_next h
  dsimp only
  split
  · exact ⟨Nat.le_refl _, Nat.le_refl _⟩
  · rw [FusesLe, ringBell_frame (φ := State.sec) (fun _ _ => rfl) (fun _ _ => rfl)]
    exact ⟨Nat.le_max_left .., Nat.le_refl _⟩

theorem execDebugUnlock_fusesLe {v : W32} {s t : State} (h : execDebugUnlock v s = .next t) : FusesLe s t := by
  unfold execDebugUnlock dbgCtrl at h
  obtain ⟨-, rfl⟩ := perform_next h
  dsimp only [whenUp]
  split
  · exact ⟨Nat.le_refl _, Nat.le_refl _⟩
  generalize hu : (if bit v.toNat 31 = true then _ else _ : State) = u
  have hsec : u.sec = s.sec := by rw [← hu]; split <;> rfl
  have hdraw : (drawChallenge u).sec = u.sec := drawChallenge_keeps u .sec (by decide)
  rw [FusesLe, ← hsec]
  split
  · exact ⟨Nat.le_refl _, Nat.le_refl _⟩
  split
  · rw [raise0_frame (φ := State.sec) (fun _ _ => rfl) (fun _ _ => rfl) (fun _ _ => rfl) (fun _ _ => rfl)]
    exact ⟨Nat.le_of_eq (congrArg Sec.fuseSvn hdraw).symm, Nat.le_succ_of_le (Nat.le_of_eq (congrArg Sec.unlocks hdraw).symm)⟩
  · rw [raise0_frame (φ := State.sec) (fun _ _ => rfl) (fun _ _ => rfl) (fun _ _ => rfl) (fun _ _ => rfl)]
    exact ⟨Nat.le_of_eq (congrArg Sec.fuseSvn hdraw).symm, Nat.le_of_eq (congrArg Sec.unlocks hdraw).symm⟩

theorem exec_fusesLe {c : Instr} (hc : .sec ∈ touches c) (hp : ¬PinEdge c) {s t : State} (h : exec c s = .next t) : FusesLe s t := by
  cases c <;> dsimp only [exec] at h
  case fuseSvnRaise => exact execFuseSvnRaise_fusesLe h
  case debugUnlock => exact execDebugUnlock_fusesLe h
  case pkgRstRelease m => cases m <;> simp [PinEdge] at hp
  case pwrGoodRise | pwrGoodFall | pkgRstAssert => simp [PinEdge] at hp
  case rcRead => exact fusesLe_of_eq (execRcRead_fuses h)
  case highWordLatchRead => exact fusesLe_of_eq (execHighWordLatchRead_fuses h)
  case committedStepRead => exact fusesLe_of_eq (execCommittedStepRead_fuses h)
  case status => exact fusesLe_of_eq (execStatus_fuses h)
  case powerMeasurement => exact fusesLe_of_eq (execPowerMeasurement_fuses h)
  case converterFailed => exact fusesLe_of_eq (execConverterFailed_fuses h)
  case thermalSample => exact fusesLe_of_eq (execThermalSample_fuses h)
  case rigFetchComplete => exact fusesLe_of_eq (execRigFetchComplete_fuses h)
  case rigVerifyComplete => exact fusesLe_of_eq (execRigVerifyComplete_fuses h)
  case rigValidateComplete => exact fusesLe_of_eq (execRigValidateComplete_fuses h)
  case keySweepLine => exact fusesLe_of_eq (execKeySweepLine_fuses h)
  case checkpointData => exact fusesLe_of_eq (execCheckpointData_fuses h)
  case checkpointReturn => exact fusesLe_of_eq (execCheckpointReturn_fuses h)
  case rigReleased => exact fusesLe_of_eq (execRigReleased_fuses h)
  case rerigRowShift => exact fusesLe_of_eq (execRerigRowShift_fuses h)
  case rerigRoleMove => exact fusesLe_of_eq (execRerigRoleMove_fuses h)
  case rerigComplete => exact fusesLe_of_eq (execRerigComplete_fuses h)
  case chanHeadRead => exact fusesLe_of_eq (execChanHeadRead_fuses h)
  case loadStart => exact fusesLe_of_eq (execLoadStart_fuses h)
  case drainComplete => exact fusesLe_of_eq (execDrainComplete_fuses h)
  case macResidue => exact fusesLe_of_eq (execMacResidue_fuses h)
  case treadParity => exact fusesLe_of_eq (execTreadParity_fuses h)
  case routerParity => exact fusesLe_of_eq (execRouterParity_fuses h)
  case sbParity => exact fusesLe_of_eq (execSbParity_fuses h)
  case backwardStart => exact fusesLe_of_eq (execBackwardStart_fuses h)
  case stashVerify => exact fusesLe_of_eq (execStashVerify_fuses h)
  case bucketEnter => exact fusesLe_of_eq (execBucketEnter_fuses h)
  case ringMessageSend => exact fusesLe_of_eq (execRingMessageSend_fuses h)
  case ringData => exact fusesLe_of_eq (execRingData_fuses h)
  case updateGroup => exact fusesLe_of_eq (execUpdateGroup_fuses h)
  case sparsePass1 => exact fusesLe_of_eq (execSparsePass1_fuses h)
  case sparseRestore => exact fusesLe_of_eq (execSparseRestore_fuses h)
  case sparsePass2 => exact fusesLe_of_eq (execSparsePass2_fuses h)
  case fabricRead => exact fusesLe_of_eq (execFabricRead_fuses h)
  case fabricWrite => exact fusesLe_of_eq (execFabricWrite_fuses h)
  case fabricAtomic => exact fusesLe_of_eq (execFabricAtomic_fuses h)
  case converterDescriptor => exact fusesLe_of_eq (execConverterDescriptor_fuses h)
  case dbgGo => exact fusesLe_of_eq (execDbgGo_fuses h)
  case instrumentAccess => exact fusesLe_of_eq (execInstrumentAccess_fuses h)
  case patrolRead => exact fusesLe_of_eq (execPatrolRead_fuses h)
  case checkpointDone => exact fusesLe_of_eq (execCheckpointDone_fuses h)
  case checkpointFetch => exact fusesLe_of_eq (execCheckpointFetch_fuses h)
  case storageResponse => exact fusesLe_of_eq (execStorageResponse_fuses h)
  case gatherDescriptor => exact fusesLe_of_eq (execGatherDescriptor_fuses h)
  case trainFlit => exact fusesLe_of_eq (execTrainFlit_fuses h)
  case dataFlit => exact fusesLe_of_eq (execDataFlit_fuses h)
  case controlFlit => exact fusesLe_of_eq (execControlFlit_fuses h)
  case idleFlit => exact fusesLe_of_eq (execIdleFlit_fuses h)
  case flitSend => exact fusesLe_of_eq (execFlitSend_fuses h)
  case ropeGraceExpiry => exact fusesLe_of_eq (execRopeGraceExpiry_fuses h)
  case ropeDisable => exact fusesLe_of_eq (execRopeDisable_fuses h)
  case fabricRequestIssue => exact fusesLe_of_eq (execFabricRequestIssue_fuses h)
  case fabricResponse => exact fusesLe_of_eq (execFabricResponse_fuses h)
  case checkpointReturnDone => exact fusesLe_of_eq (execCheckpointReturnDone_fuses h)
  case laserFailed => exact fusesLe_of_eq (execLaserFailed_fuses h)
  case laserRelease => exact fusesLe_of_eq (execLaserRelease_fuses h)
  case dcpMsgFlit => exact fusesLe_of_eq (execDcpMsgFlit_fuses h)
  case dcpIdleFlit => exact fusesLe_of_eq (execDcpIdleFlit_fuses h)
  case dlReset => exact fusesLe_of_eq (execDlReset_fuses h)
  case bar4Request => exact fusesLe_of_eq (execBar4Request_fuses h)
  case hceCopy => exact fusesLe_of_eq (execHceCopy_fuses h)
  case hceDescriptorComplete => exact fusesLe_of_eq (execHceDescriptorComplete_fuses h)
  case dlDown => exact fusesLe_of_eq (execDlDown_fuses h)
  case hotReset => exact fusesLe_of_eq (execHotReset_fuses h)
  case functionLevelReset => exact fusesLe_of_eq (execFunctionLevelReset_fuses h)
  case d3hotEntry => exact fusesLe_of_eq (execD3hotEntry_fuses h)
  case refclkHostLoss => exact fusesLe_of_eq (execRefclkHostLoss_fuses h)
  case perstAssert => exact fusesLe_of_eq (execPerstAssert_fuses h)
  case stepVote => exact fusesLe_of_eq (execStepVote_fuses h)
  case vote => exact fusesLe_of_eq (execVote_fuses h)
  case decide_ => exact fusesLe_of_eq (execDecide_fuses h)
  case rewind => exact fusesLe_of_eq (execRewind_fuses h)
  case rewoundSend => exact fusesLe_of_eq (execRewoundSend_fuses h)
  case rewound => exact fusesLe_of_eq (execRewound_fuses h)
  case stepRewindRequest => exact fusesLe_of_eq (execStepRewindRequest_fuses h)
  case windDownTimeout => exact fusesLe_of_eq (execWindDownTimeout_fuses h)
  case partReclaim => exact fusesLe_of_eq (execPartReclaim_fuses h)
  case end_ => exact fusesLe_of_eq (execEnd_fuses h)
  case claim => exact fusesLe_of_eq (execClaim_fuses h)
  case enrollRigKey => exact fusesLe_of_eq (execEnrollRigKey_fuses h)
  case getVersion => exact fusesLe_of_eq (execGetVersion_fuses h)
  case getCapabilities => exact fusesLe_of_eq (execGetCapabilities_fuses h)
  case negotiateAlgorithms => exact fusesLe_of_eq (execNegotiateAlgorithms_fuses h)
  case finish => exact fusesLe_of_eq (execFinish_fuses h)
  case keyUpdate => exact fusesLe_of_eq (execKeyUpdate_fuses h)
  case endSession => exact fusesLe_of_eq (execEndSession_fuses h)
  case linkStage => exact fusesLe_of_eq (execLinkStage_fuses h)
  case linkSwitch => exact fusesLe_of_eq (execLinkSwitch_fuses h)
  case memRotate => exact fusesLe_of_eq (execMemRotate_fuses h)
  case keyExchange => exact fusesLe_of_eq (execKeyExchange_fuses h)
  case firmwareImage => exact fusesLe_of_eq (execFirmwareImage_fuses h)
  case debugRelock => exact fusesLe_of_eq (execDebugRelock_fuses h)
  case ideKm => exact fusesLe_of_eq (execIdeKm_fuses h)
  case fabStage => exact fusesLe_of_eq (execFabStage_fuses h)
  case partScrubbed => exact fusesLe_of_eq (execPartScrubbed_fuses h)
  case fabSwitch => exact fusesLe_of_eq (execFabSwitch_fuses h)
  case scrubKeysErased => exact fusesLe_of_eq (execScrubKeysErased_fuses h)
  case scrubStart => exact fusesLe_of_eq (execScrubStart_fuses h)
  case scrubOverwriteDone => exact fusesLe_of_eq (execScrubOverwriteDone_fuses h)
  all_goals simp [touches] at hc

theorem exec_free_le {c : Instr} (hc : .free ∈ touches c) (hp : ¬PinEdge c) {s t : State} (h : exec c s = .next t) : s.free ≤ t.free := by
  cases c <;> dsimp only [exec] at h
  case pkgRstRelease m => cases m <;> simp [PinEdge] at hp
  case pwrGoodRise | pwrGoodFall | pkgRstAssert => simp [PinEdge] at hp
  case drainComplete => exact execDrainComplete_free_le h
  case dlDown => exact execDlDown_free_le h
  case hotReset => exact execHotReset_free_le h
  case functionLevelReset => exact execFunctionLevelReset_free_le h
  case d3hotEntry => exact execD3hotEntry_free_le h
  case refclkHostLoss => exact execRefclkHostLoss_free_le h
  case perstAssert => exact execPerstAssert_free_le h
  case windDownTimeout => exact execWindDownTimeout_free_le h
  case claim => exact execClaim_free_le h
  case memRotate => exact execMemRotate_free_le h
  case keyExchange => exact execKeyExchange_free_le h
  case debugUnlock => exact execDebugUnlock_free_le h
  all_goals simp [touches] at hc

theorem exec_time_le {c : Instr} (hc : .time ∈ touches c) (hp : ¬PinEdge c) {s t : State} (h : exec c s = .next t) : s.time ≤ t.time := by
  cases c <;> dsimp only [exec] at h
  case pkgRstRelease m => cases m <;> simp [PinEdge] at hp
  case pwrGoodRise | pwrGoodFall | pkgRstAssert => simp [PinEdge] at hp
  case pwrBudgetWrite => exact execPwrBudgetWrite_time_le h
  case powerLimitEffecter => exact execPowerLimitEffecter_time_le h
  case budgetWindowClose => exact execBudgetWindowClose_time_le h
  case powerMeasurement => exact execPowerMeasurement_time_le h
  case converterFailed => exact execConverterFailed_time_le h
  case thermalSample => exact execThermalSample_time_le h
  case rerigRowShift => exact execRerigRowShift_time_le h
  case rerigRoleMove => exact execRerigRoleMove_time_le h
  case rerigComplete => exact execRerigComplete_time_le h
  case microBatchBoundary => exact execMicroBatchBoundary_time_le h
  case laserModuleRemove => exact execLaserModuleRemove_time_le h
  case laserFailed => exact execLaserFailed_time_le h
  case laserLightTimeout => exact execLaserLightTimeout_time_le h
  case windDownTimeout => exact execWindDownTimeout_time_le h
  case heartbeat => exact execHeartbeat_time_le h
  case peerLostTimeout => exact execPeerLostTimeout_time_le h
  case snapExpiry => exact execSnapExpiry_time_le h
  case selfTestPhaseComplete => exact execSelfTestPhaseComplete_time_le h
  case pldmGetSensor => exact execPldmGetSensor_time_le h
  all_goals simp [touches] at hc

theorem exec_fenceGrows {c : Instr} (hc : .fence ∈ touches c) (hp : ¬PinEdge c) {s t : State} (h : exec c s = .next t) :
    FenceGrows s t := by
  cases c <;> dsimp only [exec] at h
  case pkgRstRelease m => cases m <;> simp [PinEdge] at hp
  case pwrGoodRise | pwrGoodFall | pkgRstAssert => simp [PinEdge] at hp
  case rigReleased => exact execRigReleased_grows h
  case rerigRowShift => exact execRerigRowShift_grows h
  case macResidue => exact execMacResidue_grows h
  case treadParity => exact execTreadParity_grows h
  case routerParity => exact execRouterParity_grows h
  case sbParity => exact execSbParity_grows h
  case selfTestPhaseComplete => exact execSelfTestPhaseComplete_grows h
  all_goals simp [touches] at hc

/-- Beside the pin edges every command keeps what it is not listed to change, and what it may change of these only grows. -/
theorem exec_lasts {c : Instr} (hp : ¬PinEdge c) {s t : State} (h : exec c s = .next t) :
    Endures s t ∧ s.time ≤ t.time ∧ FenceGrows s t := by
  have hk := exec_changes hp h
  have hfuses : FusesLe s t := by
    by_cases hc : .sec ∈ touches c
    · exact exec_fusesLe hc hp h
    · exact fusesLe_of_eq (congrArg Sec.fuses (hk .sec (by simp [hc])))
  have hfree : s.free ≤ t.free := by
    by_cases hc : .free ∈ touches c
    · exact exec_free_le hc hp h
    · exact Nat.le_of_eq (hk .free (by simp [hc])).symm
  have htime : s.time ≤ t.time := by
    by_cases hc : .time ∈ touches c
    · exact exec_time_le hc hp h
    · exact Nat.le_of_eq (hk .time (by simp [hc])).symm
  have hfence : FenceGrows s t := by
    by_cases hc : .fence ∈ touches c
    · exact exec_fenceGrows hc hp h
    · exact hk.fenceGrows (by simp [hc])
  exact ⟨⟨hfuses.1, hfuses.2, hfree⟩, htime, hfence⟩

/-- Settles O60: of the parts concerned each command changes those that `touches` lists, and each that is listed only grows. -/
theorem neverFalls : Obligations.NeverFalls := by
  intro c s t h
  by_cases hp : PinEdge c
  · obtain ⟨hsvn, hunlocks, hfree⟩ := pinEdge_endures hp h
    exact ⟨hsvn, hunlocks, hfree, fun hc => absurd hp hc⟩
  · obtain ⟨⟨hsvn, hunlocks, hfree⟩, htime, hfence⟩ := exec_lasts hp h
    exact ⟨hsvn, hunlocks, hfree, fun _ => ⟨htime, hfence⟩⟩

end Sys2Proof.Machine
end

section
/-!
PROOFS. The power manager (02): the effective budget and the input voltage, the measurement loop, admission, retention and the
thermal responses.
-/
namespace Sys2Proof.Machine
open State Laws

/-! ## What a hit of an injection leaves (15 R514 to R517) -/

/-- A count of dropped records, or a field at 0x501010 or above, at bit 0, 16 or 28 of its register: the fields that a hit of an
injection writes. -/
def isHitField (k : Nat) : Prop := isDropCount k ∨ 0x501010 * 64 ≤ k ∧ (k % 64 = 0 ∨ k % 64 = 16 ∨ k % 64 = 28)

theorem not_isHitField {k : Nat} (h : k % 4096 ≠ 1280) (hk : k < 0x501010 * 64 ∨ k % 64 ≠ 0 ∧ k % 64 ≠ 16 ∧ k % 64 ≠ 28) : ¬isHitField k :=
    by
  rintro (hd | ⟨hlow, hbit⟩)
  · exact not_isDropCount h hd
  · omega

/-- A relation that every write of a hit of an injection keeps to. -/
structure HitsKeep (Q : State → State → Prop) : Prop where
  refl : ∀ s, Q s s
  trans : ∀ s t u, Q s t → Q t u → Q s u
  set : ∀ (f : Fld) v s, isHitField f.key → Q s (s.set f v)
  raise : ∀ c st b s, Q s (raise c st b s)
  journal : ∀ x s, Q s { s with journal := x }
  sec : ∀ x s, Q s { s with sec := x }
  armed : ∀ x s, Q s { s with det := { s.det with armed := x } }

theorem ite_related {Q : State → State → Prop} {s a b : State} {c : Prop} [Decidable c] (ha : Q s a) (hb : Q s b) :
    Q s (if c then a else b) := by
  split
  · exact ha
  · exact hb

section
variable {Q : State → State → Prop} (hQ : HitsKeep Q)
include hQ

theorem HitsKeep.journalWrite (type key : Nat) (body : List Byte) (s : State) : Q s (journalWrite type key body s) := by
  unfold Machine.journalWrite
  exact ite_related (hQ.refl s) (hQ.trans _ _ _ (hQ.journal _ s) (hQ.set _ _ _ (.inr ⟨by decide, by decide⟩)))

theorem HitsKeep.debugAccess (p : Nat) (write : Bool) (addr len : Nat) (s : State) : Q s (debugAccess p write addr len s) := by
  have hcount : ∀ f : Fld, f = Reg.DEBUG_WRITES_COUNT p ∨ f = Reg.DEBUG_READS_COUNT p → isHitField f.key := by
    rintro f (rfl | rfl) <;> refine .inr ?_ <;> simp only [Fld.key, Reg.DEBUG_WRITES_COUNT, Reg.DEBUG_READS_COUNT] <;> omega
  unfold Machine.debugAccess
  extract_lets f r w
  split
  extract_lets u
  have hu : Q s u := ite_related (hQ.refl s) (hQ.trans _ _ _ (hQ.sec _ s) (hQ.journalWrite _ _ _ _))
  exact hQ.trans _ _ _ (hQ.trans _ _ _ hu (hQ.set f _ u (hcount f (by cases write <;> simp [f])))) (hQ.raise _ _ _ _)

theorem HitsKeep.endInjection (s : State) : Q s (endInjection s) := by
  unfold Machine.endInjection
  split
  · exact hQ.refl s
  · exact hQ.trans _ _ _ (hQ.trans _ _ _ (hQ.armed none s) (hQ.set Reg.INJ_STATUS_STATE 2 _ (.inr ⟨by decide, by decide⟩)))
      (hQ.raise _ _ _ _)

theorem HitsKeep.hitInjection (seq : Nat) (parts : List Nat) (s : State) : Q s (hitInjection seq parts s) := by
  unfold Machine.hitInjection
  split
  · exact hQ.refl s
  next i _ =>
    extract_lets a b
    have ha : Q s a := hQ.trans _ _ _ (hQ.set Reg.INJ_STATUS_HITS _ s (.inr ⟨by decide, by decide⟩)) (hQ.set Reg.INJ_LAST_SEQ_SEQ seq _
      (.inr ⟨by decide, by decide⟩))
    have hb : Q s b := hQ.trans _ _ _ ha (foldl_related hQ.refl hQ.trans (fun u p _ => hQ.debugAccess p true i.addr 0 u) a)
    have hleft := hQ.trans _ _ _ hb (hQ.armed (some { i with left := i.left - 1 }) b)
    exact ite_related hb (ite_related (hQ.trans _ _ _ hleft (hQ.endInjection _)) hleft)

theorem HitsKeep.hitAll (point : Nat) (s : State) : Q s (hitAll point s) := by
  unfold Machine.hitAll
  split
  · exact ite_related (hQ.hitInjection _ _ s) (hQ.refl s)
  · exact hQ.refl s

end

theorem hitsKeep_writes : HitsKeep (Writes isHitField) where
  refl := .refl _
  trans _ _ _ := .trans
  set _ v s hf := writes_set hf v s
  raise c st b s := (raise_writes c st b s).mono fun _ => .inl
  journal _ _ _ _ := rfl
  sec _ _ _ _ := rfl
  armed _ _ _ _ := rfl

theorem hitsKeep_recorded (code : Nat) (body : List Nat) : HitsKeep fun s u => Recorded code body s → Recorded code body u where
  refl _ := id
  trans _ _ _ h h' := h' ∘ h
  set _ _ _ _ h := recorded_congr h rfl
  raise c st b _ h := h.raise c st b
  journal _ _ h := recorded_congr h rfl
  sec _ _ h := recorded_congr h rfl
  armed _ _ h := recorded_congr h rfl

/-- The calibration in force. -/
def SameCal (s u : State) : Prop := u.det.applied = s.det.applied

theorem raise_sameCal (code : Nat) (st : Stamp) (body : List Nat) (s : State) : SameCal s (raise code st body s) := by
  have hq : ∀ f r u, (queueRecord f r u).det = u.det := queueRecord_frame (φ := State.det) (fun _ _ => rfl) (fun _ _ => rfl)
  rw [SameCal, raise_eq]
  dsimp only
  split
  · rw [hq]; rfl
  · split
    · rw [hq]; rfl
    · rw [hq, hq]; rfl

theorem hitsKeep_sameCal : HitsKeep SameCal where
  refl _ := rfl
  trans _ _ _ h h' := h'.trans h
  set _ _ _ _ := rfl
  raise := raise_sameCal
  journal _ _ := rfl
  sec _ _ := rfl
  armed _ _ := rfl

theorem hitInjection_keeps (seq : Nat) (parts : List Nat) (s : State) :
    KeepsBut [.regs, .seq, .rings, .journal, .sec, .det] s (hitInjection seq parts s) := by
  apply keepsBut_of_veil
  apply hitInjection_frame <;> exact fun _ _ => rfl

theorem hitAll_keeps (point : Nat) (s : State) : KeepsBut [.regs, .seq, .rings, .journal, .sec, .det] s (hitAll point s) := by
  apply keepsBut_of_veil
  apply hitAll_frame <;> exact fun _ _ => rfl

/-! ## The effective budget (02 R51, R57) -/

/-- The budget that PWR_LIMITS and the converters give. -/
def State.least (s : State) : Nat :=
  leastBudget (s.get Reg.PWR_BUDGET_HOST_W) (s.get Reg.PWR_LIMITS_BOARD_W) (13 - s.power.failed.length)

theorem leastBudget_lt (host board working : Nat) : leastBudget host board working < 2 ^ 13 := by
  unfold leastBudget
  dsimp only
  split <;> omega

/-- A board's limit taken between its bounds counts as it is. -/
theorem leastBudget_boundW (host w working : Nat) : leastBudget host (boundW w) working = leastBudget host w working := by
  have h : max 1500 (min 6000 (boundW w)) = max 1500 (min 6000 w) := by unfold boundW; omega
  simp only [leastBudget, h]

/-- A fall of the budget noted. -/
def fallNoted (s : State) : State :=
  if s.least < s.get Reg.PWR_LIMITS_EFFECTIVE_W then { s with power := { s.power with fallAt := some s.time } } else s

theorem formBudget_eq (s : State) : formBudget s = (fallNoted s).set Reg.PWR_LIMITS_EFFECTIVE_W s.least := rfl

theorem fallNoted_regs (s : State) : (fallNoted s).regs = s.regs := by unfold fallNoted; split <;> rfl

theorem fallNoted_keeps (s : State) : KeepsBut [.power] s (fallNoted s) := by
  apply keepsBut_of_veil
  unfold fallNoted
  split <;> rfl

theorem formBudget_keeps (s : State) : KeepsBut [.regs, .power] s (formBudget s) := by
  rw [formBudget_eq]
  exact ((fallNoted_keeps s).mono (by decide)).trans ((keepsBut_set _ _ _).mono (by decide))

theorem formBudget_fieldsBut (s : State) : FieldsBut [Reg.PWR_LIMITS_EFFECTIVE_W] s (formBudget s) := by
  intro f hf
  rw [formBudget_eq, fieldsBut_set _ _ _ f hf, State.get, fallNoted_regs]
  rfl

theorem formBudget_effective (s : State) : (formBudget s).get Reg.PWR_LIMITS_EFFECTIVE_W = s.least := by
  rw [formBudget_eq, get_set_self]
  exact Nat.mod_eq_of_lt (leastBudget_lt _ _ _)

theorem formBudget_failed (s : State) : (formBudget s).power.failed = s.power.failed := by
  rw [formBudget_eq]
  change (fallNoted s).power.failed = s.power.failed
  unfold fallNoted
  split <;> rfl

theorem pwrBudgetWrite_gives (now : W64) (value : W32) {s : State} (h : s.pkg ≠ .boot) : Gives (.pwrBudgetWrite now value) s fun u =>
    KeepsBut [.regs, .power, .time, .journal, .out] s u
    ∧ FieldsBut [Reg.PWR_BUDGET_HOST_W, Reg.PWR_LIMITS_EFFECTIVE_W, Reg.JRN_COUNTS_RECORDS] s u
    ∧ u.get Reg.PWR_BUDGET_HOST_W = value.toNat % 2 ^ 13
    ∧ u.get Reg.PWR_LIMITS_EFFECTIVE_W =
        leastBudget (value.toNat % 2 ^ 13) (s.get Reg.PWR_LIMITS_BOARD_W) (13 - s.power.failed.length) := by
  let a := State.set Reg.PWR_BUDGET_HOST_W value.toNat (at_ now { s with out := [] })
  have hk : KeepsBut [.regs, .power, .time, .journal, .out] s (journalSettings (formBudget a)) :=
    ((keepsBut_out s []).mono (by decide)).trans (((at_keeps now _).mono (by decide)).trans (((keepsBut_set _ _ _).mono (by decide)).trans
      (((formBudget_keeps a).mono (by decide)).trans ((journalWrite_keeps _ _ _ _).mono (by decide)))))
  refine gives_value (t := journalSettings (formBudget a)) rfl (if_neg (by simpa using h)) (hk .pending (by decide)) ⟨hk, ?_, ?_, ?_⟩
  · exact (fieldsBut_set Reg.PWR_BUDGET_HOST_W value.toNat (at_ now { s with out := [] })).trans
      ((formBudget_fieldsBut a).trans (journalWrite_fieldsBut _ _ _ _))
  · rw [journalSettings, journalWrite_fieldsBut _ _ _ _ _ (by decide), formBudget_fieldsBut _ _ (by decide)]
    exact get_set_self _ _ _
  · rw [journalSettings, journalWrite_fieldsBut _ _ _ _ _ (by decide), formBudget_effective, State.least, get_set_self,
      get_set_other _ _ (by decide)]
    rfl

theorem powerLimitEffecter_gives (now : W64) (w : Nat) {s : State} (hgood : s.pins.pwrGood = true) (hrst : s.pins.pkgRstN = true)
    (ht : 50000000 ≤ max s.time now.toNat) : Gives (.powerLimitEffecter now w) s fun u =>
      KeepsBut [.regs, .power, .time, .out] s u ∧ FieldsBut [Reg.PWR_LIMITS_BOARD_W, Reg.PWR_LIMITS_EFFECTIVE_W] s u
      ∧ u.get Reg.PWR_LIMITS_BOARD_W = max 1500 (min 6000 w)
      ∧ u.get Reg.PWR_LIMITS_EFFECTIVE_W = leastBudget (s.get Reg.PWR_BUDGET_HOST_W) w (13 - s.power.failed.length) := by
  let a := State.set Reg.PWR_LIMITS_BOARD_W (boundW w) (at_ now { s with out := [] })
  have hup : (at_ now { s with out := [] }).pldmUp = true := by simp [State.pldmUp, at_, hgood, hrst, ht]
  have hboard : a.get Reg.PWR_LIMITS_BOARD_W = boundW w :=
    (get_set_self _ _ _).trans (Nat.mod_eq_of_lt (by change boundW w < 2 ^ 13; unfold boundW; omega))
  have hk : KeepsBut [.regs, .power, .time, .out] s (formBudget a) :=
    ((keepsBut_out s []).mono (by decide)).trans (((at_keeps now _).mono (by decide)).trans (((keepsBut_set _ _ _).mono (by decide)).trans
      ((formBudget_keeps a).mono (by decide))))
  refine gives_value (t := formBudget a) (f := fun s => if (at_ now s).pldmUp then
    formBudget (State.set Reg.PWR_LIMITS_BOARD_W (boundW w) (at_ now s)) else at_ now s) rfl (if_pos hup) (hk .pending (by decide)) ⟨hk, ?_,
      ?_, ?_⟩
  · exact (fieldsBut_set Reg.PWR_LIMITS_BOARD_W (boundW w) (at_ now { s with out := [] })).trans (formBudget_fieldsBut a)
  · rw [formBudget_fieldsBut _ _ (by decide), hboard, boundW]
  · rw [formBudget_effective, State.least, hboard, leastBudget_boundW, get_set_other _ _ (by decide)]
    rfl

/-- A converter counted out: the number that work and the budget, and its event. -/
def converterOut (k : Nat) (s : State) : State :=
  s |> set Reg.PWR_STATUS_CONV_WORKING (13 - s.power.failed.length) |> raise0 Ev.converterFailed [k] |> formBudget

theorem converterOut_failed (k : Nat) (s : State) : (converterOut k s).power.failed = s.power.failed := by
  rw [converterOut, formBudget_failed, raise0_keeps _ _ _ .power (by decide)]
  rfl

theorem converterOut_working (k : Nat) (s : State) : (converterOut k s).get Reg.PWR_STATUS_CONV_WORKING = 13 - s.power.failed.length := by
  rw [converterOut, formBudget_fieldsBut _ _ (by decide), raise0_writes _ _ _ _ (by decide), get_set_self]
  exact Nat.mod_eq_of_lt (by change _ < 2 ^ 4; omega)

theorem converterOut_effective (k : Nat) (s : State) : (converterOut k s).get Reg.PWR_LIMITS_EFFECTIVE_W = s.least := by
  have hfailed : (raise0 Ev.converterFailed [k] (s.set Reg.PWR_STATUS_CONV_WORKING (13 - s.power.failed.length))).power = s.power :=
    raise0_keeps _ _ _ .power (by decide)
  rw [converterOut, formBudget_effective, State.least, State.least, hfailed, raise0_writes _ _ _ _ (by decide), raise0_writes _ _ _ _
    (by decide),
    get_set_other _ _ (by decide), get_set_other _ _ (by decide)]

theorem converterOut_recorded (k : Nat) (s : State) : Recorded 0x0100 [k] (converterOut k s) :=
  (formBudget_keeps _).recorded (by decide) (recorded_raise0 0x0100 [k] _)

/-- What a converter's failure leaves of the package when no converter works. -/
def converterLost (s : State) : State := if 13 ≤ s.power.failed.length then packageFault s else s

/-- A converter counted among those that failed. -/
def converterCounted (k : Nat) (s : State) : State :=
  { s with power := { s.power with failed := s.power.failed ++ [k], injFailed := if s.injected 0x0F k then some k else s.power.injFailed } }

/-- What a converter that works leaves when it fails. -/
def converterFails (now : W64) (k : Nat) (s : State) : State :=
  let a := converterOut k (converterCounted k (at_ now s))
  converterLost (if s.injected 0x0F k then hitInjection s.seq a.activeParts a else a)

theorem execConverterFailed_eq (now : W64) (k : Nat) (s : State) : execConverterFailed now k s = perform (decide (k < 13)) (fun s =>
    if s.power.failed.contains k then at_ now s else converterFails now k s) s := rfl

theorem converterLost_get (s : State) (f : Fld) : (converterLost s).get f = s.get f := by
  unfold converterLost
  split
  · exact (packageFault_keeps s).writes (by decide) (fun _ => False) f id
  · rfl

theorem converterLost_keeps (s : State) : KeepsBut [.pkg, .out, .pins] s (converterLost s) := by
  unfold converterLost
  split
  · exact packageFault_keeps s
  · exact .refl _ s

theorem converterLost_pkg (s : State) :
    (converterLost s).pkg = if 13 ≤ s.power.failed.length then .fault else s.pkg := by
  unfold converterLost
  split
  · exact packageFault_pkg s
  · rfl

/-- What a converter's failure told to an injection in force leaves of what R51 states. -/
def ConverterTold (k : Nat) (a u : State) : Prop :=
  u.power = (converterOut k a).power ∧ u.pkg = a.pkg ∧ Recorded 0x0100 [k] u
  ∧ u.get Reg.PWR_STATUS_CONV_WORKING = 13 - a.power.failed.length ∧ u.get Reg.PWR_LIMITS_EFFECTIVE_W = a.least

theorem converterOut_told (k : Nat) (a : State) : ConverterTold k a (converterOut k a) := by
  refine ⟨rfl, ?_, converterOut_recorded k a, converterOut_working k a, converterOut_effective k a⟩
  exact (formBudget_pkg _).trans (raise0_pkg _ _ _)

theorem converterHit_told (seq k : Nat) (parts : List Nat) (a : State) : ConverterTold k a (hitInjection seq parts (converterOut k a)) := by
  obtain ⟨-, hpkg, hrec, hworking, heff⟩ := converterOut_told k a
  have hget := hitsKeep_writes.hitInjection seq parts (converterOut k a)
  exact ⟨hitInjection_keeps _ _ _ .power (by decide), (hitInjection_pkg _ _ _).trans hpkg,
    (hitsKeep_recorded _ _).hitInjection seq parts _ hrec, (hget _ (not_isHitField (by decide) (.inl (by decide)))).trans hworking,
    (hget _ (not_isHitField (by decide) (.inl (by decide)))).trans heff⟩

theorem perform_of_ok {ok : Bool} (h : ok = true) (f : State → State) (s : State) : perform ok f s = perform true f s := by rw [h]

theorem converterFailed_gives (now : W64) {k : Nat} (hk : k < 13) {s : State} (hs : k ∉ s.power.failed) :
    let working := 13 - s.power.failed.length
    Gives (.converterFailed now k) s fun u =>
      u.power.failed = s.power.failed ++ [k] ∧ Recorded 0x0100 [k] u ∧ u.get Reg.PWR_STATUS_CONV_WORKING = working - 1
      ∧ u.get Reg.PWR_LIMITS_EFFECTIVE_W = leastBudget (s.get Reg.PWR_BUDGET_HOST_W) (s.get Reg.PWR_LIMITS_BOARD_W) (working - 1)
      ∧ (working ≤ 1 → u.pkg = .fault) ∧ (1 < working → u.pkg = s.pkg) := by
  intro working
  refine gives_effect ((execConverterFailed_eq now k s).trans (perform_of_ok (decide_eq_true hk) _ s)) (if_neg (by simpa using hs)) ?_
  let a := converterCounted k (at_ now { s with out := [] })
  let b := if State.injected { s with out := [] } 0x0F k then hitInjection s.seq (converterOut k a).activeParts (converterOut k a)
    else converterOut k a
  have htold : ConverterTold k a b := by
    dsimp only [b]
    split
    · exact converterHit_told _ k _ a
    · exact converterOut_told k a
  obtain ⟨hpower, hpkg, hrec, hworking, heff⟩ := htold
  have hfailed : b.power.failed = s.power.failed ++ [k] := (congrArg Power.failed hpower).trans (converterOut_failed k a)
  have hlen : b.power.failed.length = s.power.failed.length + 1 := by rw [hfailed, List.length_append]; rfl
  have hleft : 13 - a.power.failed.length = working - 1 := by
    change 13 - (s.power.failed ++ [k]).length = 13 - s.power.failed.length - 1
    rw [List.length_append, List.length_singleton]
    omega
  have hkeeps := converterLost_keeps b
  refine ⟨(congrArg Power.failed (hkeeps .power (by decide))).trans hfailed, hkeeps.recorded (by decide) hrec,
    (converterLost_get b _).trans (hworking.trans hleft), (converterLost_get b _).trans (heff.trans ?_), fun h => ?_, fun h => ?_⟩
  · rw [State.least, hleft]
    rfl
  · exact (converterLost_pkg b).trans (if_pos (by omega))
  · exact ((converterLost_pkg b).trans (if_neg (by omega))).trans hpkg

/-! ## The input voltage (02 R52) -/

theorem holdAdmission_power (s : State) : (holdAdmission s).power = { s.power with admitted := [] } := by
  unfold holdAdmission
  dsimp only
  split <;> rfl

theorem holdAdmission_held (s : State) : (holdAdmission s).get Reg.PWR_STATUS_ADMIT_HELD = 1 := get_set_self _ _ _

/-- The hold of a low input voltage of `m` mV, told. -/
def lowTold (m : Nat) (s : State) : State := s |> holdAdmission |> set Reg.PWR_STATUS_INPUT_LOW 1 |> raise0 Ev.inputLow [m]

theorem execInputLow_eq (mv : Nat) (s : State) : execInputLow mv s = perform true (fun s =>
    if s.inputMv mv < 36000 || 40000 ≤ s.inputMv mv || s.power.inputHold then s
    else
      let s := lowTold (s.inputMv mv) s
      { s with power := { s.power with inputHold := true } }) s := rfl

theorem lowTold_keeps (m : Nat) (s : State) : KeepsBut [.regs, .power, .seq, .rings, .det] s (lowTold m s) :=
  ((holdAdmission_keeps s).mono (by decide)).trans (((keepsBut_set _ _ _).mono (by decide)).trans ((raise0_keeps _ _ _).mono (by decide)))

theorem lowTold_power (m : Nat) (s : State) : (lowTold m s).power = { s.power with admitted := [] } := by
  rw [lowTold, raise0_keeps _ _ _ .power (by decide)]
  exact holdAdmission_power s

theorem lowTold_shows (m : Nat) (s : State) :
    (lowTold m s).get Reg.PWR_STATUS_INPUT_LOW = 1 ∧ (lowTold m s).get Reg.PWR_STATUS_ADMIT_HELD = 1 := by
  refine ⟨?_, ?_⟩
  · exact (raise0_writes _ _ _ _ (by decide)).trans (get_set_self _ _ _)
  · exact (raise0_writes _ _ _ _ (by decide)).trans ((get_set_other _ _ (by decide)).trans (holdAdmission_held s))

theorem inputLow_gives {mv : Nat} {s : State} (hlo : 36000 ≤ s.inputMv mv) (hhi : s.inputMv mv < 40000) (hh : s.power.inputHold = false) :
    Gives (.inputLow mv) s fun u =>
      KeepsBut [.regs, .power, .det, .seq, .rings, .out] s u ∧ u.get Reg.PWR_STATUS_INPUT_LOW = 1
      ∧ u.get Reg.PWR_STATUS_ADMIT_HELD = 1 ∧ u.power = { s.power with admitted := [], inputHold := true }
      ∧ Recorded 0x0101 [s.inputMv mv] u := by
  have hm : State.inputMv { s with out := [] } mv = s.inputMv mv := rfl
  obtain ⟨hlow, hheld⟩ := lowTold_shows (s.inputMv mv) { s with out := [] }
  have hk := lowTold_keeps (s.inputMv mv) { s with out := [] }
  have hpower := lowTold_power (s.inputMv mv) { s with out := [] }
  refine gives_value (execInputLow_eq mv s) (if_neg (by simp [hm, hh]; omega)) (hk .pending (by decide)) ⟨?_, hlow, hheld, ?_, ?_⟩
  · have hpow : ∀ u : State, KeepsBut [.power] u { u with power := { u.power with inputHold := true } } := fun u a ha => by
      cases a <;> simp [Area.same] at ha ⊢
    exact ((keepsBut_out s []).mono (by decide)).trans ((hk.mono (by decide)).trans ((hpow _).mono (by decide)))
  · exact congrArg (fun p : Power => { p with inputHold := true }) hpower
  · exact recorded_congr (recorded_raise0 0x0101 [s.inputMv mv] _) rfl

theorem inputLow_still {mv : Nat} {s : State} (h : s.inputMv mv < 36000 ∨ 40000 ≤ s.inputMv mv ∨ s.power.inputHold = true) :
    Gives (.inputLow mv) s (KeepsBut [.out] s) := by
  have hm : State.inputMv { s with out := [] } mv = s.inputMv mv := rfl
  refine gives_still (execInputLow_eq mv s) (if_pos ?_)
  simpa [hm, or_assoc] using h

/-- The hold of a low input voltage ended. -/
def restored (s : State) : State :=
  { s with power := { s.power with inputHold := false } } |> set Reg.PWR_STATUS_INPUT_LOW 0 |> showHold

theorem execInputRestored_eq (mv : Nat) (s : State) : execInputRestored mv s = perform true (fun s =>
    if s.inputMv mv < 40000 || 60000 < s.inputMv mv then s else restored s) s := rfl

theorem inputRestored_gives {mv : Nat} {s : State} (hlo : 40000 ≤ s.inputMv mv) (hhi : s.inputMv mv ≤ 60000) :
    Gives (.inputRestored mv) s fun u =>
      KeepsBut [.regs, .power, .out] s u ∧ FieldsBut [Reg.PWR_STATUS_INPUT_LOW, Reg.PWR_STATUS_ADMIT_HELD] s u
      ∧ u.get Reg.PWR_STATUS_INPUT_LOW = 0 ∧ u.power = { s.power with inputHold := false }
      ∧ u.get Reg.PWR_STATUS_ADMIT_HELD = if s.power.powerHold then 1 else 0 := by
  have hm : State.inputMv { s with out := [] } mv = s.inputMv mv := rfl
  refine gives_value (execInputRestored_eq mv s) (if_neg (by simp [hm]; omega)) rfl ⟨fun a ha => ?_, ?_, ?_, rfl, ?_⟩
  · cases a <;> simp [Area.same, restored, showHold] at ha ⊢
  · exact (fieldsBut_set Reg.PWR_STATUS_INPUT_LOW 0 { s with out := [], power := { s.power with inputHold := false } }).trans
      (fieldsBut_set _ _ _)
  · exact (get_set_other _ _ (by decide)).trans (get_set_self _ _ _)
  · refine (get_set_self _ _ _).trans ?_
    change b2n (s.power.powerHold || false) % 2 ^ 1 = _
    cases s.power.powerHold <;> rfl

theorem execInputOutOfRange_eq (mv : Nat) (s : State) : execInputOutOfRange mv s = perform true (fun s =>
    if 36000 ≤ s.inputMv mv && s.inputMv mv ≤ 60000 then s
    else packageFault { s with power := { s.power with convertersOn := false } }) s := rfl

theorem inputOutOfRange_gives {mv : Nat} {s : State} (h : s.inputMv mv < 36000 ∨ 60000 < s.inputMv mv) :
    Gives (.inputOutOfRange mv) s fun u =>
      KeepsBut [.pkg, .pins, .power, .out] s u ∧ u.pkg = .fault ∧ u.power = { s.power with convertersOn := false }
      ∧ (s.pkg ≠ .fault → u.pins.faultN = false) := by
  have hm : State.inputMv { s with out := [] } mv = s.inputMv mv := rfl
  let a : State := { s with out := [], power := { s.power with convertersOn := false } }
  have hk := packageFault_keeps a
  have ha : KeepsBut [.power, .out] s a := fun x hx => by cases x <;> simp [Area.same, a] at hx ⊢
  obtain ⟨hfault, hpins⟩ := packageFault_faulted a
  refine gives_value (t := packageFault a) (execInputOutOfRange_eq mv s) (if_neg (by simp [hm]; omega)) (hk .pending (by decide))
    ⟨(ha.mono (by decide)).trans (hk.mono (by decide)), hfault, hk .power (by decide), fun hp => ?_⟩
  rw [(hpins hp).1]

theorem effectiveBudgetIsLeast : Claims.EffectiveBudgetIsLeast := by
  intro now s
  exact ⟨fun value => pwrBudgetWrite_gives now value, fun value h => gives_still (f := whenUp fun s =>
      s |> at_ now |> set Reg.PWR_BUDGET_HOST_W value.toNat |> formBudget |> journalSettings) rfl (if_pos (by simp [h])),
    fun w hgood hrst ht => powerLimitEffecter_gives now w hgood hrst ht, fun k hk hs => converterFailed_gives now hk hs⟩

theorem inputVoltageResponses : Claims.InputVoltageResponses := fun _ _ =>
  ⟨inputLow_gives, inputLow_still, inputRestored_gives, inputOutOfRange_gives⟩

/-- Settles O15: each write, limit or failed converter forms the budget anew, and each range of the input voltage has its response. -/
theorem budgetAndInputVoltage : Obligations.BudgetAndInputVoltage := ⟨effectiveBudgetIsLeast, inputVoltageResponses⟩

/-! ## Stages, their domains and their rates (02 R44, R58, R62) -/

/-- What the domains of the stages and their calibrated rates are formed from is the same in both states. -/
structure SameDomains (s u : State) : Prop where
  rigs : u.rigs = s.rigs
  raw : u.power.raw = s.power.raw
  cal : SameCal s u
  state : ∀ gf, u.get (Reg.DOMAIN_STATE_STATE gf) = s.get (Reg.DOMAIN_STATE_STATE gf)

theorem SameDomains.refl (s : State) : SameDomains s s := ⟨rfl, rfl, rfl, fun _ => rfl⟩

theorem SameDomains.trans {s t u : State} (h : SameDomains s t) (h' : SameDomains t u) : SameDomains s u :=
  ⟨h'.rigs.trans h.rigs, h'.raw.trans h.raw, Eq.trans h'.cal h.cal, fun gf => (h'.state gf).trans (h.state gf)⟩

theorem vdom?_congr {s u : State} (h : u.rigs = s.rigs) (n : Nat) : u.vdom? n = s.vdom? n :=
  congrArg (fun r => State.vdom? { State.reset with rigs := r } n) h

theorem stageFlights_congr {s u : State} (h : u.rigs = s.rigs) (n : Nat) : u.stageFlights n = s.stageFlights n :=
  congrArg (fun r => State.stageFlights { State.reset with rigs := r } n) h

theorem slots_congr {s u : State} (h : u.rigs = s.rigs) : u.slots = s.slots :=
  congrArg (fun r => State.slots { State.reset with rigs := r }) h

/-- The temperatures and calibrations alone make a domain's rate at a code. -/
theorem domainRate_congr {s u : State} (hraw : u.power.raw = s.power.raw) (hcal : SameCal s u) (gf code : Nat) :
    u.domainRate gf code = s.domainRate gf code :=
  congrArg₂ (fun r c => State.domainRate { State.reset with power := { State.reset.power with raw := r }, det :=
    { State.reset.det with applied := c } }
    gf code) hraw hcal

section
variable {s u : State} (h : SameDomains s u)
include h

theorem SameDomains.slots : u.slots = s.slots := slots_congr h.rigs

theorem SameDomains.vdom? (n : Nat) : u.vdom? n = s.vdom? n := vdom?_congr h.rigs n

theorem SameDomains.vMin (n : Nat) : u.vMin n = s.vMin n := by rw [State.vMin, State.vMin, h.vdom?]

theorem SameDomains.stageDomains (n : Nat) : u.stageDomains n = s.stageDomains n := by
  simp only [State.stageDomains, stageFlights_congr h.rigs, h.state]

theorem SameDomains.variable : u.variable = s.variable := by simp only [State.variable, h.slots, h.stageDomains]

theorem SameDomains.rateAt (n code : Nat) : u.rateAt n code = s.rateAt n code := by
  simp only [State.rateAt, h.stageDomains, h.vdom?, domainRate_congr h.raw h.cal]

theorem SameDomains.stageRate {n : Nat} (hn : tget (0, 0) u.power.rates n = tget (0, 0) s.power.rates n) : u.stageRate n = s.stageRate n :=
    by
  simp only [State.stageRate, hn, h.vdom?]

theorem SameDomains.atFloor (hv : ∀ gf, u.vcode gf = s.vcode gf) : u.atFloor = s.atFloor := by
  simp only [State.atFloor, h.variable, h.vMin, hv]

end

theorem stageRate_den (s : State) (n : Nat) : (s.stageRate n).2 ≠ 0 := by
  unfold State.stageRate
  dsimp only
  split
  · exact Nat.one_ne_zero
  · assumption

/-! A rate set. -/

/-- The fields that a rate set writes: voltage codes and the rates that the stages show. -/
def isRateField (k : Nat) : Prop := k % 64 = 23 ∨ 0x303000 * 64 ≤ k ∧ k % 64 = 0

theorem lowerCodes_keeps (n : Nat) (s : State) : KeepsBut [.regs] s (lowerCodes n s) :=
  foldl_keeps (fun _ _ _ => keepsBut_set _ _ _) s

theorem lowerCodes_writes (n : Nat) (s : State) : Writes (fun k => ∃ gf, k = (Reg.DOMAIN_STATE_VCODE gf).key) s (lowerCodes n s) :=
  foldl_writes (fun _ gf _ => writes_set ⟨gf, rfl⟩ _ _) s

theorem isRateField_vcode (gf : Nat) : isRateField (Reg.DOMAIN_STATE_VCODE gf).key :=
  .inl (by simp only [Fld.key, Reg.DOMAIN_STATE_VCODE]; omega)

/-- A ratio in the form in which the power manager holds it. -/
def reduced (num den : Nat) : Nat × Nat :=
  if Nat.gcd num den = 0 then (num, den) else (num / Nat.gcd num den, den / Nat.gcd num den)

theorem reduced_rateIs {num den : Nat} (hd : 0 < den) : (reduced num den).2 ≠ 0 ∧ RateIs (reduced num den) num den := by
  have hg : 0 < Nat.gcd num den := Nat.gcd_pos_of_pos_right num hd
  obtain ⟨a, ha⟩ := Nat.gcd_dvd_left num den
  obtain ⟨b, hb⟩ := Nat.gcd_dvd_right num den
  have hform : reduced num den = (a, b) := by
    rw [reduced, if_neg hg.ne', Nat.div_eq_of_eq_mul_right hg ha, Nat.div_eq_of_eq_mul_right hg hb]
  rw [hform, RateIs]
  refine ⟨fun h => ?_, ?_⟩
  · have hzero : b = 0 := h
    rw [hzero, Nat.mul_zero] at hb
    omega
  · change a * den = num * b
    calc a * den = a * (Nat.gcd num den * b) := congrArg (a * ·) hb
      _ = Nat.gcd num den * a * b := by rw [Nat.mul_left_comm, Nat.mul_assoc]
      _ = num * b := congrArg (· * b) ha.symm

theorem setStageRate_eq (n num den : Nat) (s : State) : setStageRate n num den s =
    lowerCodes n (State.set (Reg.STAGE_RATE_TARGET n) (num / den)
      { s with power := { s.power with rates := tset (0, 0) s.power.rates n (reduced num den) } }) := rfl

theorem setStageRate_keeps (n num den : Nat) (s : State) : KeepsBut [.regs, .power] s (setStageRate n num den s) := by
  apply keepsBut_of_veil
  apply setStageRate_frame <;> exact fun _ _ => rfl

theorem setStageRate_power (n num den : Nat) (s : State) :
    (setStageRate n num den s).power = { s.power with rates := tset (0, 0) s.power.rates n (reduced num den) } := by
  rw [setStageRate_eq, lowerCodes_keeps _ _ .power (by decide)]
  rfl

theorem setStageRate_writes (n num den : Nat) (s : State) : Writes isRateField s (setStageRate n num den s) := by
  have htarget : isRateField (Reg.STAGE_RATE_TARGET n).key := .inr (by simp only [Fld.key, Reg.STAGE_RATE_TARGET]; omega)
  rw [setStageRate_eq]
  refine Writes.trans ?_ ((lowerCodes_writes n _).mono fun k ⟨gf, hk⟩ => hk ▸ isRateField_vcode gf)
  exact writes_set htarget _ { s with power := { s.power with rates := tset (0, 0) s.power.rates n (reduced num den) } }

/-- States between which only rates and the fields of `isRateField` may differ. -/
structure OnlyRates (s u : State) : Prop where
  keeps : KeepsBut [.regs, .power] s u
  power : ∃ r, u.power = { s.power with rates := r }
  fields : Writes isRateField s u

theorem OnlyRates.refl (s : State) : OnlyRates s s := ⟨.refl _ s, ⟨_, rfl⟩, .refl _ s⟩

theorem OnlyRates.trans {s t u : State} (h : OnlyRates s t) (h' : OnlyRates t u) : OnlyRates s u := by
  obtain ⟨r, hp⟩ := h.power
  obtain ⟨r', hp'⟩ := h'.power
  exact ⟨h.keeps.trans h'.keeps, ⟨r', by rw [hp', hp]⟩, h.fields.trans h'.fields⟩

theorem OnlyRates.sameDomains {s u : State} (h : OnlyRates s u) : SameDomains s u where
  rigs := h.keeps .rigs (by decide)
  raw := by
    obtain ⟨r, hp⟩ := h.power
    rw [hp]
  cal := congrArg Det.applied (h.keeps .det (by decide))
  state gf := h.fields _ (by simp only [isRateField, Fld.key, Reg.DOMAIN_STATE_STATE]; omega)

theorem setStageRate_onlyRates (n num den : Nat) (s : State) : OnlyRates s (setStageRate n num den s) :=
  ⟨setStageRate_keeps n num den s, ⟨_, setStageRate_power n num den s⟩, setStageRate_writes n num den s⟩

theorem setStageRate_rateIs (n num : Nat) {den : Nat} (hd : 0 < den) (s : State) :
    RateIs ((setStageRate n num den s).stageRate n) num den := by
  obtain ⟨hne, hrate⟩ := reduced_rateIs (num := num) hd
  have hheld : tget (0, 0) (setStageRate n num den s).power.rates n = reduced num den := by rw [setStageRate_power, tget_tset_self]
  rw [State.stageRate, hheld]
  simpa only [hne, if_false] using hrate

theorem setStageRate_other {m n : Nat} (h : n ≠ m) (num den : Nat) (s : State) : (setStageRate m num den s).stageRate n = s.stageRate n :=
  (setStageRate_onlyRates m num den s).sameDomains.stageRate (by rw [setStageRate_power]; exact tget_tset_other _ _ h)

/-! A walk over the stages. -/

/-- A step of a walk over stages that may change the rate of its own stage and of no other. -/
structure OwnRate (g : State → Nat → State) : Prop where
  only : ∀ s n, OnlyRates s (g s n)
  other : ∀ s m n, n ≠ m → (g s m).stageRate n = s.stageRate n

theorem ownRate_still : OwnRate fun s _ => s := ⟨fun s _ => .refl s, fun _ _ _ _ => rfl⟩

theorem ownRate_set (num den : State → Nat → Nat) : OwnRate fun s n => setStageRate n (num s n) (den s n) s :=
  ⟨fun s n => setStageRate_onlyRates n _ _ s, fun s _ _ h => setStageRate_other h _ _ s⟩

theorem ownRate_ite {p : State → Nat → Prop} [∀ s n, Decidable (p s n)] {g h : State → Nat → State} (hg : OwnRate g) (hh : OwnRate h) :
    OwnRate fun s n => if p s n then g s n else h s n where
  only s n := by
    split
    · exact hg.only s n
    · exact hh.only s n
  other s m n hn := by
    split
    · exact hg.other s m n hn
    · exact hh.other s m n hn

theorem OwnRate.walk {g : State → Nat → State} (hg : OwnRate g) (l : List Nat) (s : State) : OnlyRates s (l.foldl g s) :=
  foldl_related .refl (fun _ _ _ => .trans) (fun u n _ => hg.only u n) s

theorem OwnRate.walk_without {g : State → Nat → State} (hg : OwnRate g) {l : List Nat} {n : Nat} (hn : n ∉ l) (s : State) :
    (l.foldl g s).stageRate n = s.stageRate n :=
  foldl_related (Q := fun s u => u.stageRate n = s.stageRate n) (fun _ => rfl) (fun _ _ _ h h' => h'.trans h)
    (fun u m hm => hg.other u m n fun e => hn (e ▸ hm)) s

/-- A walk that meets a stage once leaves it the rate that the stage's own step gives. -/
theorem OwnRate.walk_once {g : State → Nat → State} (hg : OwnRate g) {l : List Nat} {n : Nat} (hn : l.count n = 1) (s : State) :
    ∃ t, OnlyRates s t ∧ t.stageRate n = s.stageRate n ∧ (l.foldl g s).stageRate n = (g t n).stageRate n := by
  obtain ⟨a, b, rfl⟩ := List.append_of_mem (List.count_pos_iff.1 (by omega : 0 < l.count n))
  rw [List.count_append, List.count_cons_self] at hn
  refine ⟨a.foldl g s, hg.walk a s, hg.walk_without (List.count_eq_zero.1 (by omega)) s, ?_⟩
  rw [List.foldl_append, List.foldl_cons]
  exact hg.walk_without (List.count_eq_zero.1 (by omega)) _

/-! The cut of the rates above the budget (02 R58). -/

/-- One stage's rate scaled by `k / 1024`, no lower than its rate at V_MIN. -/
def scaleStage (k : Nat) (s : State) (n : Nat) : State :=
  let lo := s.rateAt n (s.vMin n)
  let r := s.stageRate n
  if r.1 ≤ lo * r.2 then s
  else if r.1 * k ≤ lo * r.2 * 1024 then setStageRate n lo 1 s else setStageRate n (r.1 * k) (r.2 * 1024) s

theorem scaleRates_eq (k : Nat) (s : State) : scaleRates k s = s.slots.foldl (scaleStage k) s := rfl

theorem scaleStage_ownRate (k : Nat) : OwnRate (scaleStage k) :=
  ownRate_ite ownRate_still (ownRate_ite (ownRate_set _ _) (ownRate_set _ _))

/-- A rate `r` scaled by `k / 1024` above its floor `lo` gives the rate `x`. -/
def ScaledTo (k : Nat) (r : Nat × Nat) (lo : Nat) (x : Nat × Nat) : Prop :=
  (r.1 ≤ lo * r.2 → x = r) ∧ (lo * r.2 < r.1 → r.1 * k ≤ lo * r.2 * 1024 → RateIs x lo 1)
  ∧ (lo * r.2 < r.1 → lo * r.2 * 1024 < r.1 * k → RateIs x (r.1 * k) (r.2 * 1024))

theorem scaleStage_scaled (k : Nat) (s : State) (n : Nat) :
    ScaledTo k (s.stageRate n) (s.rateAt n (s.vMin n)) ((scaleStage k s n).stageRate n) := by
  have hden : 0 < (s.stageRate n).2 * 1024 := Nat.mul_pos (Nat.pos_of_ne_zero (stageRate_den s n)) (by decide)
  unfold scaleStage
  refine ⟨fun h => ?_, fun h hk => ?_, fun h hk => ?_⟩ <;> dsimp only
  · rw [if_pos h]
  · rw [if_neg (Nat.not_le.2 h), if_pos hk]
    exact setStageRate_rateIs n _ Nat.one_pos s
  · rw [if_neg (Nat.not_le.2 h), if_neg (Nat.not_le.2 hk)]
    exact setStageRate_rateIs n _ hden s

theorem scaleRates_scaled (k : Nat) {s : State} {n : Nat} (hn : s.slots.count n = 1) :
    ScaledTo k (s.stageRate n) (s.rateAt n (s.vMin n)) ((scaleRates k s).stageRate n) := by
  obtain ⟨t, ht, hrate, hwalk⟩ := (scaleStage_ownRate k).walk_once hn s
  have hstep := scaleStage_scaled k t n
  rwa [hrate, ht.sameDomains.rateAt, ht.sameDomains.vMin, ← hwalk, ← scaleRates_eq] at hstep

theorem scaleRates_onlyRates (k : Nat) (s : State) : OnlyRates s (scaleRates k s) := (scaleStage_ownRate k).walk s.slots s

theorem floorRates_onlyRates (s : State) : OnlyRates s (floorRates s) := (ownRate_set _ _).walk s.slots s

/-- The root lies below the bound of its bits and no higher value has its property. -/
theorem cubeRoot_bounds {e w : Nat} : ∀ n k, k ^ 3 * w ≤ e * 1024 ^ 3 → e * 1024 ^ 3 < (k + 2 ^ n) ^ 3 * w →
    (cubeRoot e w n k) ^ 3 * w ≤ e * 1024 ^ 3 ∧ e * 1024 ^ 3 < (cubeRoot e w n k + 1) ^ 3 * w
  | 0, _, hlo, hhi => ⟨hlo, hhi⟩
  | n + 1, k, hlo, hhi => by
    rw [cubeRoot]
    split
    · next h => exact cubeRoot_bounds n _ h (by rwa [Nat.add_assoc, ← Nat.two_mul, ← Nat.pow_succ'])
    · next h => exact cubeRoot_bounds n k hlo (Nat.not_le.1 h)

theorem cubeRoot_root {e w : Nat} (h : e < w) :
    (cubeRoot e w 10 0) ^ 3 * w ≤ e * 1024 ^ 3 ∧ e * 1024 ^ 3 < (cubeRoot e w 10 0 + 1) ^ 3 * w :=
  cubeRoot_bounds 10 0 (by rw [Nat.zero_pow (by decide), Nat.zero_mul]; exact Nat.zero_le _)
    (by rw [Nat.zero_add, show (2 ^ 10) ^ 3 = 1024 ^ 3 by rfl, Nat.mul_comm e]; exact Nat.mul_lt_mul_of_pos_left h (by decide))

/-! The 10 µs measurement (02 R58, R61). -/

/-- A measurement's readings shown, and the injection of the input voltage told. -/
def powerRead (now : W64) (mw : List Nat) (mv : Nat) (s : State) : State :=
  at_ now s |> set Reg.PWR_INPUT_INPUT_W (s.inputW mw) |> set Reg.PWR_INPUT_INPUT_MV (s.inputMv mv) |> hitAll 0x0D

/-- A measurement of `w` against a budget of `e` counted in its window. -/
def windowCounted (w e : Nat) (s : State) : State :=
  { s with power := { s.power with winCount := s.power.winCount + 1, winGood := s.power.winGood && decide (w * 10 < 9 * e) } }

/-- The end of the power hold, told. -/
def powerResumed (w e : Nat) (s : State) : State :=
  { s with power := { s.power with powerHold := false } } |> showHold |> raise0 Ev.powerAdmitResumed [w, e]

/-- What a measurement at or below the budget does. -/
def withinBudget (w e : Nat) (s : State) : State :=
  let s := { s with power := { s.power with fallAt := none } }
  if s.power.powerHold && decide (w * 100 ≤ 97 * e) then powerResumed w e s else s

/-- The power hold, told. -/
def powerHeld (w e : Nat) (s : State) : State :=
  { s with power := { s.power with powerHold := true } } |> holdAdmission |> raise0 Ev.powerAdmitHeld [w, e]

/-- The power hold when every domain stood at its floor, once. -/
def heldAt (floor : Bool) (w e : Nat) (s : State) : State := if !floor || s.power.powerHold then s else powerHeld w e s

/-- The rates cut as far as they stand above their floors. -/
def cutOver (w e : Nat) (s : State) : State := if s.canScale then cutRates w e s else s

theorem overBudget_eq (w e : Nat) (s : State) :
    overBudget w e s = if s.variable.isEmpty then s else heldAt s.atFloor w e (cutOver w e s) := rfl

theorem execPowerMeasurement_eq (now : W64) (mw : List Nat) (mv : Nat) (s : State) :
    execPowerMeasurement now mw mv s = perform (decide (mw.length ≤ 13)) (fun s =>
      let a := powerRead now mw mv s
      let e := a.get Reg.PWR_LIMITS_EFFECTIVE_W
      let c := windowCounted (s.inputW mw) e a
      if e < s.inputW mw then overBudget (s.inputW mw) e c else withinBudget (s.inputW mw) e c) s := rfl

/-- The fields that a measurement writes after its own: those of rates, of the hold and of the events. -/
def isLoopField (k : Nat) : Prop :=
  isRateField k ∨ k = Reg.PWR_STATUS_ADMIT_HELD.key ∨ k = Reg.PWR_EVENT_COUNTS_ADMIT_HOLDS.key ∨ k = (Reg.EVT_COUNTS_DROPPED 0).key

theorem holdAdmission_writes (s : State) :
    Writes (fun k => k = Reg.PWR_STATUS_ADMIT_HELD.key ∨ k = Reg.PWR_EVENT_COUNTS_ADMIT_HOLDS.key) s (holdAdmission s) := by
  unfold holdAdmission
  refine Writes.trans (t := if s.on Reg.PWR_STATUS_ADMIT_HELD then s else bump Reg.PWR_EVENT_COUNTS_ADMIT_HOLDS 1 s) ?_
    (fun f hf => get_set_other _ _ fun e => hf (.inl e))
  exact ite_writes (.refl _ s) (writes_bump (.inr rfl) 1 s)

theorem powerHeld_keeps (w e : Nat) (s : State) : KeepsBut [.regs, .power, .seq, .rings, .det] s (powerHeld w e s) := by
  have hpower : KeepsBut [.power] s { s with power := { s.power with powerHold := true } } := keepsBut_of_veil rfl
  exact (hpower.mono (by decide)).trans (((holdAdmission_keeps _).mono (by decide)).trans ((raise0_keeps _ _ _).mono (by decide)))

theorem powerHeld_power (w e : Nat) (s : State) : (powerHeld w e s).power = { s.power with powerHold := true, admitted := [] } := by
  rw [powerHeld, raise0_keeps _ _ _ .power (by decide)]
  exact holdAdmission_power _

theorem powerHeld_held (w e : Nat) (s : State) : (powerHeld w e s).get Reg.PWR_STATUS_ADMIT_HELD = 1 :=
  (raise0_writes _ _ _ _ (by decide)).trans (holdAdmission_held _)

theorem powerHeld_writes (w e : Nat) (s : State) : Writes isLoopField s (powerHeld w e s) :=
  ((holdAdmission_writes { s with power := { s.power with powerHold := true } }).mono fun _ h =>
    h.elim (.inr ∘ .inl) (.inr ∘ .inr ∘ .inl)).trans ((raise0_writes _ _ _).mono fun _ h => .inr (.inr (.inr h)))

theorem powerResumed_power (w e : Nat) (s : State) : (powerResumed w e s).power = { s.power with powerHold := false } := by
  rw [powerResumed, raise0_keeps _ _ _ .power (by decide)]
  rfl

theorem powerResumed_writes (w e : Nat) (s : State) :
    Writes (fun k => k = Reg.PWR_STATUS_ADMIT_HELD.key ∨ k = (Reg.EVT_COUNTS_DROPPED 0).key) s (powerResumed w e s) :=
  Writes.trans (t := showHold { s with power := { s.power with powerHold := false } }) (fun _ hf => get_set_other _ _ fun e => hf (.inl e))
    ((raise0_writes _ _ _).mono fun _ h => .inr h)

theorem powerResumed_held (w e : Nat) (s : State) :
    (powerResumed w e s).get Reg.PWR_STATUS_ADMIT_HELD = if s.power.inputHold then 1 else 0 := by
  refine (raise0_writes _ _ _ _ (by decide)).trans ((get_set_self _ _ _).trans ?_)
  change b2n (false || s.power.inputHold) % 2 ^ 1 = _
  cases s.power.inputHold <;> rfl

/-! What the readings leave. -/

/-- What a measurement's own fields, its injection and its window leave: the domains, their codes, and the power manager but for the
window. -/
structure Counted (s a : State) : Prop where
  domains : SameDomains s a
  vcode : ∀ gf, a.vcode gf = s.vcode gf
  power : ∃ n g, a.power = { s.power with winCount := n, winGood := g }

theorem hitAll_counted (point : Nat) (s : State) : Counted s (hitAll point s) := by
  have hk := hitAll_keeps point s
  have hw := hitsKeep_writes.hitAll point s
  have hpower : (hitAll point s).power = s.power := hk .power (by decide)
  have hstate : ∀ gf, ¬isHitField (Reg.DOMAIN_STATE_STATE gf).key := fun gf =>
    not_isHitField (by simp only [Fld.key, Reg.DOMAIN_STATE_STATE]; omega) (.inr (by simp only [Fld.key, Reg.DOMAIN_STATE_STATE]; omega))
  have hcode : ∀ gf, ¬isHitField (Reg.DOMAIN_STATE_VCODE gf).key := fun gf =>
    not_isHitField (by simp only [Fld.key, Reg.DOMAIN_STATE_VCODE]; omega) (.inr (by simp only [Fld.key, Reg.DOMAIN_STATE_VCODE]; omega))
  exact ⟨⟨hk .rigs (by decide), congrArg Power.raw hpower, hitsKeep_sameCal.hitAll point s, fun gf => hw _ (hstate gf)⟩,
    fun gf => hw _ (hcode gf), _, _, hpower⟩

theorem Counted.trans {s t u : State} (h : Counted s t) (h' : Counted t u) : Counted s u := by
  obtain ⟨n, g, hp⟩ := h.power
  obtain ⟨n', g', hp'⟩ := h'.power
  exact ⟨h.domains.trans h'.domains, fun gf => (h'.vcode gf).trans (h.vcode gf), n', g', by rw [hp', hp]⟩

theorem set_counted {f : Fld} (hf : f.key % 64 ≠ 23 ∧ f.key % 64 ≠ 30) (v : Nat) (s : State) : Counted s (s.set f v) :=
  ⟨⟨rfl, rfl, rfl, fun gf => get_set_other _ _ fun e => hf.2 (e ▸ by simp only [Fld.key, Reg.DOMAIN_STATE_STATE]; omega)⟩,
    fun gf => get_set_other _ _ fun e => hf.1 (e ▸ by simp only [Fld.key, Reg.DOMAIN_STATE_VCODE]; omega), _, _, rfl⟩

/-- The readings that a measurement shows. -/
def ShowsPower (w mv : Nat) (u : State) : Prop := u.get Reg.PWR_INPUT_INPUT_W = w % 2 ^ 16 ∧ u.get Reg.PWR_INPUT_INPUT_MV = mv % 2 ^ 16

theorem powerRead_counted (now : W64) (mw : List Nat) (mv : Nat) (s : State) : Counted s (powerRead now mw mv s) := by
  have hat : Counted s (at_ now s) := ⟨⟨rfl, rfl, rfl, fun _ => rfl⟩, fun _ => rfl, _, _, rfl⟩
  exact hat.trans ((set_counted (by decide) _ _).trans ((set_counted (by decide) _ _).trans (hitAll_counted 0x0D _)))

theorem powerRead_keeps (now : W64) (mw : List Nat) (mv : Nat) (s : State) :
    KeepsBut [.regs, .seq, .rings, .journal, .sec, .det, .time] s (powerRead now mw mv s) :=
  ((at_keeps now s).mono (by decide)).trans (((keepsBut_set _ _ _).mono (by decide)).trans (((keepsBut_set _ _ _).mono (by decide)).trans
    ((hitAll_keeps 0x0D _).mono (by decide))))

theorem powerRead_time (now : W64) (mw : List Nat) (mv : Nat) (s : State) : (powerRead now mw mv s).time = max s.time now.toNat :=
  hitAll_keeps 0x0D _ .time (by decide)

theorem powerRead_effective (now : W64) (mw : List Nat) (mv : Nat) (s : State) :
    (powerRead now mw mv s).get Reg.PWR_LIMITS_EFFECTIVE_W = s.get Reg.PWR_LIMITS_EFFECTIVE_W :=
  (hitsKeep_writes.hitAll 0x0D _ _ (not_isHitField (by decide) (.inl (by decide)))).trans
    ((get_set_other _ _ (by decide)).trans (get_set_other _ _ (by decide)))

theorem powerRead_shows (now : W64) (mw : List Nat) (mv : Nat) (s : State) : ShowsPower (s.inputW mw) (s.inputMv mv)
    (powerRead now mw mv s) :=
  ⟨(hitsKeep_writes.hitAll 0x0D _ _ (not_isHitField (by decide) (.inl (by decide)))).trans
      ((get_set_other _ _ (by decide)).trans (get_set_self _ _ _)),
    (hitsKeep_writes.hitAll 0x0D _ _ (not_isHitField (by decide) (.inl (by decide)))).trans (get_set_self _ _ _)⟩

theorem windowCounted_counted (w e : Nat) (s : State) : Counted s (windowCounted w e s) :=
  ⟨⟨rfl, rfl, rfl, fun _ => rfl⟩, fun _ => rfl, _, _, rfl⟩

theorem ShowsPower.of_writes {w mv : Nat} {a u : State} (h : ShowsPower w mv a) (hu : Writes isLoopField a u) : ShowsPower w mv u :=
  ⟨(hu _ (by unfold isLoopField isRateField; decide)).trans h.1, (hu _ (by unfold isLoopField isRateField; decide)).trans h.2⟩

/-! Below and above the budget. -/

theorem isLoopField_vcode_only (gf : Nat) :
    (Reg.DOMAIN_STATE_VCODE gf).key ≠ Reg.PWR_STATUS_ADMIT_HELD.key ∧ (Reg.DOMAIN_STATE_VCODE gf).key ≠ (Reg.EVT_COUNTS_DROPPED 0).key := by
  simp only [Fld.key, Reg.DOMAIN_STATE_VCODE, Reg.PWR_STATUS_ADMIT_HELD, Reg.EVT_COUNTS_DROPPED]
  omega

theorem withinBudget_writes (w e : Nat) (s : State) :
    Writes (fun k => k = Reg.PWR_STATUS_ADMIT_HELD.key ∨ k = (Reg.EVT_COUNTS_DROPPED 0).key) s (withinBudget w e s) :=
  ite_writes (s := { s with power := { s.power with fallAt := none } }) (powerResumed_writes w e _) (.refl _ _)

theorem withinBudget_rates (w e : Nat) (s : State) : (withinBudget w e s).power.rates = s.power.rates := by
  unfold withinBudget
  dsimp only
  split
  · rw [powerResumed_power]
  · rfl

theorem withinBudget_resumed {w e : Nat} {s : State} (h : w * 100 ≤ 97 * e) (hs : s.power.powerHold = true) :
    (withinBudget w e s).power.powerHold = false ∧ Recorded 0x0103 [w, e] (withinBudget w e s)
    ∧ (withinBudget w e s).get Reg.PWR_STATUS_ADMIT_HELD = if s.power.inputHold then 1 else 0 := by
  have hdo : withinBudget w e s = powerResumed w e { s with power := { s.power with fallAt := none } } := if_pos (by simp [h, hs])
  rw [hdo]
  exact ⟨by rw [powerResumed_power], recorded_raise0 _ _ _, powerResumed_held _ _ _⟩

/-- States between which only rates, the time of the last cut and the fields of `isRateField` may differ. -/
structure RatesCut (s u : State) : Prop where
  keeps : KeepsBut [.regs, .power] s u
  power : ∃ r t, u.power = { s.power with rates := r, cutAt := t }
  fields : Writes isRateField s u

theorem OnlyRates.cutAt {s u : State} (h : OnlyRates s u) (t : Option Nat) : RatesCut s { u with power := { u.power with cutAt := t } } :=
    by
  obtain ⟨r, hp⟩ := h.power
  have hcut : KeepsBut [.regs, .power] u { u with power := { u.power with cutAt := t } } := keepsBut_of_veil rfl
  exact ⟨h.keeps.trans hcut, ⟨r, t, by rw [hp]⟩, h.fields⟩

theorem RatesCut.onlyRates {s t u : State} (h : RatesCut s t) (h' : OnlyRates t u) : RatesCut s u := by
  obtain ⟨r, x, hp⟩ := h.power
  obtain ⟨r', hp'⟩ := h'.power
  exact ⟨h.keeps.trans h'.keeps, ⟨r', x, by rw [hp', hp]⟩, h.fields.trans h'.fields⟩

/-- The rates scaled and the time of the cut noted. -/
def scaledNow (w e : Nat) (s : State) : State :=
  let u := scaleRates (cubeRoot e w 10 0) s
  { u with power := { u.power with cutAt := some u.time } }

theorem scaledNow_cut (w e : Nat) (s : State) : RatesCut s (scaledNow w e s) := (scaleRates_onlyRates _ s).cutAt _

theorem cutRates_cut (w e : Nat) (s : State) : RatesCut s (cutRates w e s) := by
  have hcut := scaledNow_cut w e s
  unfold cutRates
  dsimp only
  split
  · split
    · exact hcut.onlyRates (floorRates_onlyRates _)
    · exact hcut
  · exact hcut

/-- Away from the end of the bound after a fall of the budget, a cut scales the rates and does no more. -/
theorem cutRates_scaled (w e : Nat) {s : State} (h : ∀ t, s.power.fallAt = some t → s.time ≤ t + 90000 ∨ t + 100000 < s.time) :
    cutRates w e s = scaledNow w e s := by
  have hcut := scaledNow_cut w e s
  have htime : (scaledNow w e s).time = s.time := hcut.keeps .time (by decide)
  have hfall : (scaledNow w e s).power.fallAt = s.power.fallAt := by
    obtain ⟨r, t, hp⟩ := hcut.power
    rw [hp]
  change (match (scaledNow w e s).power.fallAt with
    | some t => if t + 90000 < (scaledNow w e s).time && (scaledNow w e s).time ≤ t + 100000 then floorRates
      (scaledNow w e s) else scaledNow w e s
    | none => scaledNow w e s) = _
  split
  · next t ht =>
    rw [hfall] at ht
    have hbound := h t ht
    exact if_neg (by rw [htime, Bool.and_eq_true, decide_eq_true_eq, decide_eq_true_eq]; omega)
  · rfl

theorem RatesCut.refl (s : State) : RatesCut s s := ⟨.refl _ s, ⟨_, _, rfl⟩, .refl _ s⟩

theorem cutOver_cut (w e : Nat) (s : State) : RatesCut s (cutOver w e s) := by
  unfold cutOver
  split
  · exact cutRates_cut w e s
  · exact .refl s

theorem canScale_iff (s : State) : s.canScale = true ↔ ∃ n ∈ s.slots, s.rateAt n (s.vMin n) * (s.stageRate n).2 < (s.stageRate n).1 := by
  simp only [State.canScale, List.any_eq_true, decide_eq_true_eq]

theorem cutOver_still (w e : Nat) {s : State} (h : ∀ n ∈ s.slots, (s.stageRate n).1 ≤ s.rateAt n (s.vMin n) * (s.stageRate n).2) :
    cutOver w e s = s :=
  if_neg fun hc => by
    obtain ⟨n, hn, hlt⟩ := (canScale_iff s).1 hc
    exact absurd (h n hn) (Nat.not_le.2 hlt)

theorem cutOver_scaled (w e : Nat) {s : State} (h : ∀ t, s.power.fallAt = some t → s.time ≤ t + 90000 ∨ t + 100000 < s.time) {n : Nat}
    (hn : s.slots.count n = 1) :
    ScaledTo (cubeRoot e w 10 0) (s.stageRate n) (s.rateAt n (s.vMin n)) ((cutOver w e s).stageRate n) := by
  unfold cutOver
  split
  · rw [cutRates_scaled w e h]
    exact scaleRates_scaled _ hn
  · next hc =>
    have hle : (s.stageRate n).1 ≤ s.rateAt n (s.vMin n) * (s.stageRate n).2 := Nat.not_lt.1 fun hlt =>
      hc ((canScale_iff s).2 ⟨n, List.count_pos_iff.1 (by omega), hlt⟩)
    exact ⟨fun _ => rfl, fun hlt => absurd hle (Nat.not_le.2 hlt), fun hlt => absurd hle (Nat.not_le.2 hlt)⟩

theorem heldAt_writes (floor : Bool) (w e : Nat) (s : State) : Writes isLoopField s (heldAt floor w e s) :=
  ite_writes (.refl _ s) (powerHeld_writes w e s)

/-- A hold changes no stage's rate. -/
theorem heldAt_stageRate (floor : Bool) (w e : Nat) (s : State) (n : Nat) : (heldAt floor w e s).stageRate n = s.stageRate n := by
  unfold heldAt
  split
  · rfl
  · rw [State.stageRate, State.stageRate, powerHeld_power, vdom?_congr (powerHeld_keeps w e s .rigs (by decide))]

theorem overBudget_writes (w e : Nat) (s : State) : Writes isLoopField s (overBudget w e s) := by
  rw [overBudget_eq]
  exact ite_writes (.refl _ s) (((cutOver_cut w e s).fields.mono fun _ => .inl).trans (heldAt_writes _ w e _))

theorem overBudget_scaled {w e : Nat} {s : State} (hv : s.variable ≠ [])
    (h : ∀ t, s.power.fallAt = some t → s.time ≤ t + 90000 ∨ t + 100000 < s.time) {n : Nat} (hn : s.slots.count n = 1) :
    ScaledTo (cubeRoot e w 10 0) (s.stageRate n) (s.rateAt n (s.vMin n)) ((overBudget w e s).stageRate n) := by
  rw [overBudget_eq, if_neg (by simpa using hv), heldAt_stageRate]
  exact cutOver_scaled w e h hn

/-- What the begin of the power hold leaves. -/
def PowerHeld (w e : Nat) (u : State) : Prop :=
  u.power.powerHold = true ∧ u.power.admitted = [] ∧ Recorded 0x0102 [w, e] u ∧ u.get Reg.PWR_STATUS_ADMIT_HELD = 1

theorem powerHeld_holds (w e : Nat) (s : State) : PowerHeld w e (powerHeld w e s) :=
  ⟨by rw [powerHeld_power], by rw [powerHeld_power], recorded_raise0 _ _ _, powerHeld_held w e s⟩

theorem overBudget_held {w e : Nat} {s : State} (hfloor : s.atFloor = true) (hs : s.power.powerHold = false) :
    PowerHeld w e (overBudget w e s)
    ∧ ((∀ n ∈ s.slots, (s.stageRate n).1 ≤ s.rateAt n (s.vMin n) * (s.stageRate n).2) → (overBudget w e s).power.rates = s.power.rates) :=
      by
  obtain ⟨r, t, hp⟩ := (cutOver_cut w e s).power
  have hempty : ¬s.variable.isEmpty := by
    rw [State.atFloor, Bool.and_eq_true, Bool.not_eq_true'] at hfloor
    simp [hfloor.1]
  have hdo : overBudget w e s = powerHeld w e (cutOver w e s) := by
    rw [overBudget_eq, if_neg hempty, heldAt, if_neg (by simp [hfloor, hp, hs])]
  rw [hdo]
  refine ⟨powerHeld_holds w e _, fun hle => ?_⟩
  rw [cutOver_still w e hle, powerHeld_power]

section
variable {s a : State} (h : Counted s a)
include h

theorem Counted.stageRate (n : Nat) : a.stageRate n = s.stageRate n := by
  obtain ⟨c, g, hp⟩ := h.power
  exact h.domains.stageRate (by rw [hp])

theorem Counted.scaledTo {k n : Nat} {x : Nat × Nat} (hx : ScaledTo k (a.stageRate n) (a.rateAt n (a.vMin n)) x) :
    ScaledTo k (s.stageRate n) (s.rateAt n (s.vMin n)) x := by
  rwa [h.stageRate, h.domains.rateAt, h.domains.vMin] at hx

theorem Counted.atFloors (hs : ∀ n ∈ s.slots, (s.stageRate n).1 ≤ s.rateAt n (s.vMin n) * (s.stageRate n).2) :
    ∀ n ∈ a.slots, (a.stageRate n).1 ≤ a.rateAt n (a.vMin n) * (a.stageRate n).2 := by
  intro n hn
  rw [h.stageRate, h.domains.rateAt, h.domains.vMin]
  exact hs n (h.domains.slots ▸ hn)

end

theorem powerMeasurement_pending (now : W64) (mw : List Nat) (mv : Nat) (s : State) (w e : Nat) :
    let c := windowCounted w e (powerRead now mw mv s)
    (if e < w then overBudget w e c else withinBudget w e c).pending = s.pending := by
  have hread : (windowCounted w e (powerRead now mw mv s)).pending = s.pending := powerRead_keeps now mw mv s .pending (by decide)
  dsimp only
  split
  · exact (overBudget_frame (φ := State.pending) (fun _ _ => rfl) (fun _ _ => rfl) (fun _ _ => rfl) (fun _ _ => rfl) (fun _ _ =>
      rfl) _ _ _).trans hread
  · refine Eq.trans ?_ hread
    unfold withinBudget
    dsimp only
    split
    · exact raise0_keeps _ _ _ .pending (by decide)
    · rfl

theorem powerMeasurementScales : Claims.PowerMeasurementScales := by
  intro now mv mw s hlen w e
  let a := powerRead now mw mv { s with out := [] }
  let c := windowCounted w e a
  have heff : a.get Reg.PWR_LIMITS_EFFECTIVE_W = e := powerRead_effective now mw mv _
  have htime : c.time = max s.time now.toNat := powerRead_time now mw mv _
  have hc : Counted s c :=
    Counted.trans (t := { s with out := [] }) ⟨⟨rfl, rfl, rfl, fun _ => rfl⟩, fun _ => rfl, _, _, rfl⟩
      ((powerRead_counted now mw mv _).trans (windowCounted_counted w e a))
  have hshows : ShowsPower w (s.inputMv mv) c := powerRead_shows now mw mv { s with out := [] }
  obtain ⟨n, g, hp⟩ := hc.power
  have hdo : execPowerMeasurement now mw mv s = perform true (fun s =>
      let a := powerRead now mw mv s
      let e := a.get Reg.PWR_LIMITS_EFFECTIVE_W
      let c := windowCounted (s.inputW mw) e a
      if e < s.inputW mw then overBudget (s.inputW mw) e c else withinBudget (s.inputW mw) e c) s :=
    (execPowerMeasurement_eq now mw mv s).trans (perform_of_ok (decide_eq_true hlen) _ s)
  refine gives_value (t := if e < w then overBudget w e c else withinBudget w e c) hdo ?_
    (powerMeasurement_pending now mw mv { s with out := [] } w e) ?_
  · dsimp only
    rw [heff]
    rfl
  · by_cases hlt : e < w
    · have hle : ¬w ≤ e := Nat.not_le.2 hlt
      rw [if_pos hlt]
      have hw := hshows.of_writes (overBudget_writes w e c)
      refine ⟨hw.1, hw.2, fun h => absurd h hle, fun h => absurd h hle, fun _ hfloor hhold => ?_, fun _ hvar hfall => ?_⟩
      · obtain ⟨⟨hon, hadm, hrec, hheld⟩, hrates⟩ := overBudget_held (w := w) (e := e) (s := c)
          ((hc.domains.atFloor hc.vcode).trans hfloor) (by rw [hp]; exact hhold)
        exact ⟨hon, hadm, hrec, hheld, fun hs => (hrates (hc.atFloors hs)).trans (by rw [hp])⟩
      · obtain ⟨hlo, hhi⟩ := cubeRoot_root hlt
        refine ⟨_, hlo, hhi, fun m hm => hc.scaledTo (overBudget_scaled (hc.domains.variable.symm ▸ hvar) ?_ (hc.domains.slots.symm ▸ hm))⟩
        rw [hp, htime]
        exact hfall
    · have hw := withinBudget_writes w e c
      have hloop := hw.mono (Q := isLoopField) fun _ hk => hk.elim (.inr ∘ .inl) (.inr ∘ .inr ∘ .inr)
      rw [if_neg hlt]
      refine ⟨(hshows.of_writes hloop).1, (hshows.of_writes hloop).2, fun _ => ⟨(withinBudget_rates w e c).trans (by rw [hp]), fun gf =>
        ?_⟩,
        fun _ hlow hhold => ?_, fun h => absurd h hlt, fun h => absurd h hlt⟩
      · have hvcode := isLoopField_vcode_only gf
        exact (hw _ fun hk => hk.elim hvcode.1 hvcode.2).trans (hc.vcode gf)
      · have hres := withinBudget_resumed (w := w) (e := e) (s := c) hlow (by rw [hp]; exact hhold)
        rwa [hp] at hres

/-! The 100 µs window (02 R62). -/

/-- A stage's nominal rate. -/
def State.nominal (s : State) (n : Nat) : Nat := ((s.vdom? n).map VDom.nominal).getD 0

/-- One stage's rate raised by 2 %, up to its nominal rate. -/
def raiseStage (s : State) (n : Nat) : State :=
  let r := s.stageRate n
  if s.nominal n * r.2 ≤ r.1 then s
  else if s.nominal n * r.2 * 100 ≤ r.1 * 102 then setStageRate n (s.nominal n) 1 s else setStageRate n (r.1 * 102) (r.2 * 100) s

theorem raiseStage_ownRate : OwnRate raiseStage :=
  ownRate_ite ownRate_still (ownRate_ite (ownRate_set _ _) (ownRate_set _ _))

/-- A rate `r` raised by 2 % up to the nominal rate `nom` gives the rate `x`. -/
def RaisedTo (r : Nat × Nat) (nom : Nat) (x : Nat × Nat) : Prop :=
  (nom * r.2 ≤ r.1 → x = r) ∧ (r.1 < nom * r.2 → nom * r.2 * 100 ≤ r.1 * 102 → RateIs x nom 1)
  ∧ (r.1 * 102 < nom * r.2 * 100 → RateIs x (r.1 * 102) (r.2 * 100))

theorem raiseStage_raised (s : State) (n : Nat) : RaisedTo (s.stageRate n) (s.nominal n) ((raiseStage s n).stageRate n) := by
  have hden : 0 < (s.stageRate n).2 * 100 := Nat.mul_pos (Nat.pos_of_ne_zero (stageRate_den s n)) (by decide)
  unfold raiseStage
  refine ⟨fun h => ?_, fun h hk => ?_, fun hk => ?_⟩ <;> dsimp only
  · rw [if_pos h]
  · rw [if_neg (Nat.not_le.2 h), if_pos hk]
    exact setStageRate_rateIs n _ Nat.one_pos s
  · rw [if_neg (by omega), if_neg (Nat.not_le.2 hk)]
    exact setStageRate_rateIs n _ hden s

theorem raiseStages_raised {s : State} {n : Nat} (hn : s.slots.count n = 1) :
    RaisedTo (s.stageRate n) (s.nominal n) ((s.slots.foldl raiseStage s).stageRate n) := by
  obtain ⟨t, ht, hrate, hwalk⟩ := raiseStage_ownRate.walk_once hn s
  have hstep := raiseStage_raised t n
  rwa [hrate, State.nominal, ht.sameDomains.vdom?, ← State.nominal, ← hwalk] at hstep

/-- A window begun anew. -/
def windowBegun (now : W64) (s : State) : State :=
  let s := at_ now s
  { s with power := { s.power with winGood := true, winCount := 0 } }

theorem execBudgetWindowClose_eq (now : W64) (s : State) : execBudgetWindowClose now s = perform true (fun s =>
    if !(s.power.winGood && s.power.winCount == 10) then windowBegun now s
    else (windowBegun now s).slots.foldl raiseStage (windowBegun now s)) s := rfl

theorem windowBegun_keeps (now : W64) (s : State) : KeepsBut [.regs, .power, .time, .out] s (windowBegun now { s with out := [] }) :=
  keepsBut_of_veil rfl

theorem budgetWindowRaises : Claims.BudgetWindowRaises := by
  intro now s
  let a := windowBegun now { s with out := [] }
  have ha := windowBegun_keeps now s
  by_cases hgood : s.power.winGood = true ∧ s.power.winCount = 10
  · have hwalk := raiseStage_ownRate.walk a.slots a
    obtain ⟨r, hp⟩ := hwalk.power
    have hdomains : SameDomains s a := ⟨rfl, rfl, rfl, fun _ => rfl⟩
    refine gives_value (t := a.slots.foldl raiseStage a) (execBudgetWindowClose_eq now s) (if_neg (by simp [hgood]))
      (hwalk.keeps .pending (by decide)) ⟨ha.trans (hwalk.keeps.mono (by decide)), by rw [hp]; rfl, by rw [hp]; rfl, fun h => ?_, ?_⟩
    · rcases h with h | h
      · rw [hgood.1] at h
        cases h
      · exact absurd hgood.2 h
    · intro _ _ n v hn hv
      have hnom : a.nominal n = v.nominal := by rw [State.nominal, hdomains.vdom?, hv]; rfl
      have hraised := raiseStages_raised (s := a) (n := n) (hdomains.slots.symm ▸ hn)
      rw [hnom, hdomains.stageRate rfl] at hraised
      exact hraised
  · refine gives_value (t := a) (execBudgetWindowClose_eq now s) (if_pos ?_) rfl ⟨ha, rfl, rfl, fun _ => ⟨rfl, rfl⟩, fun h h' => absurd ⟨h,
      h'⟩ hgood⟩
    simpa [imp_iff_not_or] using hgood

/-- Settles O16: a measurement scales the rates by the cube root and holds or resumes admission, and a good window raises them. -/
theorem powerLoop : Obligations.PowerLoop := ⟨powerMeasurementScales, budgetWindowRaises⟩

/-! ## Retention (02 R55, R56, R66) -/

/-- The idle time after which a flight of this stage enters RETAIN, in µs; 0 where it never does. -/
def State.retainAfter (s : State) (gf : Nat) : Nat := (((s.flightStage? gf).bind s.vdom?).map VDom.retainUs).getD 0

theorem execRetainEntry_eq (gf : Nat) (s : State) : execRetainEntry gf s = perform (gfOk gf) (fun s =>
    if s.retainAfter gf = 0 || !s.flightIdle gf || s.get (Reg.DOMAIN_STATE_STATE gf) != 1 then s
    else dropAdmission gf (s.set (Reg.DOMAIN_STATE_STATE gf) 2)) s := rfl

theorem gfOk_of_lt {gf : Nat} (h : gf < 1184) : gfOk gf = true := decide_eq_true h

theorem retainEntry_gives {gf n : Nat} {v : VDom} {s : State} (hgf : gf < 1184) (hn : s.flightStage? gf = some n) (hv : s.vdom? n = some v)
    (hus : v.retainUs ≠ 0) (hidle : s.flightIdle gf = true) (hstate : s.get (Reg.DOMAIN_STATE_STATE gf) = 1) :
    Gives (.retainEntry gf) s fun u =>
      KeepsBut [.regs, .power, .out] s u ∧ FieldsBut [Reg.DOMAIN_STATE_STATE gf] s u
      ∧ u.get (Reg.DOMAIN_STATE_STATE gf) = 2
      ∧ u.power = { s.power with admitted := s.power.admitted.filter (· != gf), starting := s.power.starting.filter (· != gf) } := by
  have hafter : State.retainAfter { s with out := [] } gf ≠ 0 := by
    change (((s.flightStage? gf).bind s.vdom?).map VDom.retainUs).getD 0 ≠ 0
    simpa [hn, hv] using hus
  have hidle' : State.flightIdle { s with out := [] } gf = true := hidle
  have hstate' : State.get { s with out := [] } (Reg.DOMAIN_STATE_STATE gf) = 1 := hstate
  exact gives_value ((execRetainEntry_eq gf s).trans (perform_of_ok (gfOk_of_lt hgf) _ s)) (if_neg (by simp [hafter, hidle', hstate'])) rfl
    ⟨keepsBut_of_veil rfl, fieldsBut_set _ 2 { s with out := [] }, get_set_self _ _ _, rfl⟩

theorem retainEntry_still {gf : Nat} {s : State} (hgf : gf < 1184)
    (h : s.flightIdle gf = false ∨ s.get (Reg.DOMAIN_STATE_STATE gf) ≠ 1
      ∨ (∀ n v, s.flightStage? gf = some n → s.vdom? n = some v → v.retainUs = 0)) :
    Gives (.retainEntry gf) s (KeepsBut [.out] s) := by
  refine gives_still ((execRetainEntry_eq gf s).trans (perform_of_ok (gfOk_of_lt hgf) _ s)) (if_pos ?_)
  change (s.retainAfter gf = 0 || !s.flightIdle gf || s.get (Reg.DOMAIN_STATE_STATE gf) != 1) = true
  rcases h with h | h | h
  · simp [h]
  · simp [h]
  · have hafter : s.retainAfter gf = 0 := by
      unfold State.retainAfter
      cases hn : s.flightStage? gf with
      | none => rfl
      | some n =>
        cases hv : s.vdom? n with
        | none => simp [hv]
        | some v => simpa [hv] using h n v hn hv
    simp [hafter]

theorem retentionMoves : Claims.RetentionMoves := by
  intro gf s hgf
  have hexit : exec (.retainExit gf) s = perform true (fun s =>
      if s.get (Reg.DOMAIN_STATE_STATE gf) = 2 then s.set (Reg.DOMAIN_STATE_STATE gf) 1 else s) s := perform_of_ok (gfOk_of_lt hgf) _ s
  refine ⟨fun n v hn hv hus hidle hst => retainEntry_gives hgf hn hv hus hidle hst, retainEntry_still hgf, fun h => ?_, fun h => ?_⟩
  · exact gives_value hexit (if_pos h) rfl
      ⟨keepsBut_of_veil rfl, fieldsBut_set (Reg.DOMAIN_STATE_STATE gf) 1 { s with out := [] }, get_set_self _ _ _⟩
  · exact gives_still hexit (if_neg h)

/-! ## The tokens of the load-step limiter (02 R52, R55, R66, R67) -/

/-- The rise of the input current in µA that a flight's admission brings. -/
def State.rise (s : State) (gf : Nat) : Nat := s.inputRise (s.activityAt gf (s.vcode gf))

/-- The fields of a flight's domain that a token writes. -/
def isTokenField (gf k : Nat) : Prop := k = (Reg.DOMAIN_STATE_VCODE gf).key ∨ k = (Reg.DOMAIN_STATE_STATE gf).key

/-- States between which a token may lead that is offered flights of `gfs`, of which it admits `new`. -/
structure Token (gfs new : List Nat) (s u : State) : Prop where
  keeps : KeepsBut [.power, .regs, .treads] s u
  fields : Writes (fun k => ∃ gf ∈ gfs, isTokenField gf k) s u
  admitted : u.power.admitted = s.power.admitted ++ new
  offered : ∀ gf ∈ new, gf ∈ gfs
  rest : ∃ a w t, u.power = { s.power with admitted := a, waking := w, starting := t }
  held : s.on Reg.PWR_STATUS_ADMIT_HELD = true → new = []

theorem not_isTokenField {gf k : Nat} (h : k % 64 ≠ 23 ∧ k % 64 ≠ 30) : ¬isTokenField gf k := by
  simp only [isTokenField, Fld.key, Reg.DOMAIN_STATE_VCODE, Reg.DOMAIN_STATE_STATE]
  omega

section
variable {gfs new : List Nat} {s u : State} (h : Token gfs new s u)
include h

theorem Token.get {f : Fld} (hf : f.key % 64 ≠ 23 ∧ f.key % 64 ≠ 30) : u.get f = s.get f :=
  h.fields f fun ⟨_, _, hk⟩ => not_isTokenField hf hk

/-- A token leaves the rises of the flights that it is not offered. -/
theorem Token.rise {g : Nat} (hg : g ∉ gfs) : u.rise g = s.rise g := by
  have hcode : u.vcode g = s.vcode g := h.fields _ fun ⟨gf, hgf, hk⟩ => by
    refine hg ((?_ : g = gf) ▸ hgf)
    simp only [isTokenField, Fld.key, Reg.DOMAIN_STATE_VCODE, Reg.DOMAIN_STATE_STATE] at hk
    omega
  have hdet : u.det = s.det := h.keeps .det (by decide)
  have hact : ∀ c, u.activityAt g c = s.activityAt g c := fun c =>
    congrArg (fun d => State.activityAt { State.reset with det := d } g c) hdet
  rw [State.rise, State.rise, State.inputRise, State.inputRise, h.get (by decide), hcode, hact]

end

theorem Token.trans {l m new more : List Nat} {s t u : State} (h : Token l new s t) (h' : Token m more t u) :
    Token (l ++ m) (new ++ more) s u := by
  obtain ⟨a, w, x, hp⟩ := h.rest
  obtain ⟨a', w', x', hp'⟩ := h'.rest
  refine ⟨h.keeps.trans h'.keeps, ?_, ?_, ?_, ⟨a', w', x', by rw [hp', hp]⟩, fun hs => ?_⟩
  · exact (h.fields.mono fun _ ⟨gf, hgf, hk⟩ => ⟨gf, List.mem_append_left m hgf, hk⟩).trans
      (h'.fields.mono fun _ ⟨gf, hgf, hk⟩ => ⟨gf, List.mem_append_right l hgf, hk⟩)
  · rw [h'.admitted, h.admitted, List.append_assoc]
  · intro gf hgf
    exact (List.mem_append.1 hgf).elim (fun hg => List.mem_append_left m (h.offered gf hg)) fun hg =>
      List.mem_append_right l (h'.offered gf hg)
  · have ht : t.on Reg.PWR_STATUS_ADMIT_HELD = true := by rwa [State.on, h.get (by decide), ← State.on]
    rw [h.held hs, h'.held ht]
    rfl

theorem token_still (gfs : List Nat) (s : State) : Token gfs [] s s :=
  ⟨.refl _ s, .refl _ s, (List.append_nil _).symm, fun _ h => absurd h List.not_mem_nil, ⟨_, _, _, rfl⟩, fun _ => rfl⟩

/-- A domain's code raised. -/
theorem token_code (gf v : Nat) (s : State) : Token [gf] [] s (s.set (Reg.DOMAIN_STATE_VCODE gf) v) :=
  ⟨keepsBut_of_veil rfl, writes_set ⟨gf, List.mem_singleton_self gf, .inl rfl⟩ v s, (List.append_nil _).symm,
    fun _ h => absurd h List.not_mem_nil, ⟨_, _, _, rfl⟩, fun _ => rfl⟩

/-- A flight that waited in OFF brought to QUIET at a code. -/
def woken (gf code : Nat) (s : State) : State :=
  s.setPower { s.power with waking := tset 0 s.power.waking gf 0 } |> set (Reg.DOMAIN_STATE_STATE gf) 1 |> set
    (Reg.DOMAIN_STATE_VCODE gf) code

theorem token_woken (gf code : Nat) (s : State) : Token [gf] [] s (woken gf code s) := by
  refine ⟨keepsBut_of_veil rfl, ?_, (List.append_nil _).symm, fun _ h => absurd h List.not_mem_nil, ⟨_, _, _, rfl⟩, fun _ => rfl⟩
  let a := s.setPower { s.power with waking := tset 0 s.power.waking gf 0 }
  have hstate : Writes (fun k => ∃ g ∈ [gf], isTokenField g k) a (a.set (Reg.DOMAIN_STATE_STATE gf) 1) :=
    writes_set ⟨gf, List.mem_singleton_self gf, .inr rfl⟩ 1 a
  exact hstate.trans (writes_set ⟨gf, List.mem_singleton_self gf, .inl rfl⟩ code _)

/-! A flight admitted. -/

/-- The treads of a flight that waited for its admission run. -/
def startWaiting (gf : Nat) (s : State) : State :=
  let s := s.setPower { s.power with starting := s.power.starting.filter (· != gf) }
  (s.flightTreads gf).foldl (fun s t => startTread t s) s

/-- A flight listed among those that hold admission. -/
def admittedTo (gf : Nat) (s : State) : State := { s with power := { s.power with admitted := s.power.admitted ++ [gf] } }

theorem admitFlight_eq (gf : Nat) (s : State) :
    admitFlight gf s = if s.power.starting.contains gf then startWaiting gf (admittedTo gf s) else admittedTo gf s := rfl

theorem startTread_keeps (t : Nat) (s : State) : KeepsBut [.treads] s (startTread t s) := by
  unfold startTread
  dsimp only
  split
  · exact keepsBut_of_veil rfl
  · exact .refl _ s

theorem startWaiting_keeps (gf : Nat) (s : State) :
    KeepsBut [.treads] (s.setPower { s.power with starting := s.power.starting.filter (· != gf) }) (startWaiting gf s) :=
  foldl_keeps (fun u t _ => startTread_keeps t u) _

theorem startWaiting_power (gf : Nat) (s : State) :
    (startWaiting gf s).power = { s.power with starting := s.power.starting.filter (· != gf) } :=
  startWaiting_keeps gf s .power (by decide)

theorem startWaiting_get (gf : Nat) (s : State) (f : Fld) : (startWaiting gf s).get f = s.get f :=
  (startWaiting_keeps gf s).writes (by decide) (fun _ => False) f id

/-- A tread that waits in HALT, or that runs from instruction 0. -/
def Starts (t : Nat) (s : State) : Prop := (s.tread t).st = .halt ∨ (s.tread t).st = .run ∧ (s.tread t).pc = 0

/-- A tread that runs from instruction 0. -/
def Started (t : Nat) (s : State) : Prop := (s.tread t).st = .run ∧ (s.tread t).pc = 0

theorem tread_setTread_self (t : Nat) (v : Tread) (s : State) : (State.setTread t v s).tread t = v := tget_tset_self s.treads t v

theorem tread_setTread_other {t x : Nat} (h : t ≠ x) (v : Tread) (s : State) : (State.setTread x v s).tread t = s.tread t :=
  tget_tset_other s.treads v h

theorem startTread_self (t : Nat) (s : State) (h : Starts t s) : Started t (startTread t s) := by
  unfold startTread
  dsimp only
  split
  · next hh =>
    have hself : (s.setTread t { s.tread t with st := .run, pc := 0 }).tread t = { s.tread t with st := .run, pc := 0 } :=
      tread_setTread_self t _ s
    rw [Started, hself]
    exact ⟨rfl, rfl⟩
  · next hh => exact h.resolve_left (by simpa using hh)

theorem startTread_other {t x : Nat} (h : t ≠ x) (s : State) : (startTread x s).tread t = s.tread t := by
  unfold startTread
  dsimp only
  split
  · exact tread_setTread_other h _ s
  · rfl

theorem startTread_starts {t x : Nat} {s : State} (h : Starts t s) : Starts t (startTread x s) := by
  by_cases e : t = x
  · subst e
    exact .inr (startTread_self t s h)
  · rwa [Starts, startTread_other e]

theorem startTread_started {t x : Nat} {s : State} (h : Started t s) : Started t (startTread x s) := by
  by_cases e : t = x
  · subst e
    exact startTread_self t s (.inr h)
  · rwa [Started, startTread_other e]

theorem startWaiting_started {gf t : Nat} {s : State} (ht : t ∈ s.flightTreads gf) (h : Starts t s) : Started t (startWaiting gf s) := by
  obtain ⟨a, b, hab⟩ := List.append_of_mem ht
  let s0 := s.setPower { s.power with starting := s.power.starting.filter (· != gf) }
  have hlist : s0.flightTreads gf = a ++ t :: b := hab
  change Started t ((s0.flightTreads gf).foldl (fun s t => startTread t s) s0)
  rw [hlist, List.foldl_append, List.foldl_cons]
  exact foldl_preserves (fun _ _ _ hu => startTread_started hu)
    (startTread_self t _ (foldl_preserves (P := Starts t) (fun _ _ _ hu => startTread_starts hu) h))

theorem token_admit (gf : Nat) {s : State} (hheld : s.on Reg.PWR_STATUS_ADMIT_HELD = false) : Token [gf] [gf] s (admitFlight gf s) := by
  have hnone : s.on Reg.PWR_STATUS_ADMIT_HELD = true → [gf] = [] := fun h => by simp [hheld] at h
  have hadm : KeepsBut [.power, .regs, .treads] s (admittedTo gf s) := keepsBut_of_veil rfl
  rw [admitFlight_eq]
  split
  · have hk := startWaiting_keeps gf (admittedTo gf s)
    have hstart : KeepsBut [.power, .regs, .treads] (admittedTo gf s)
        ((admittedTo gf s).setPower { (admittedTo gf s).power with starting := (admittedTo gf s).power.starting.filter (· != gf) }) :=
      keepsBut_of_veil rfl
    exact ⟨hadm.trans (hstart.trans (hk.mono (by decide))), fun f _ => startWaiting_get gf _ f, by rw [startWaiting_power]; rfl, fun _ h =>
      h,
      ⟨_, _, _, (startWaiting_power gf _).trans rfl⟩, hnone⟩
  · exact ⟨hadm, fun _ _ => rfl, rfl, fun _ h => h, ⟨_, _, _, rfl⟩, hnone⟩

/-! A token. -/

theorem tokenStep_token (left : Nat) (held : Bool) (gf : Nat) (s : State) :
    ∃ new, Token [gf] new s (tokenStep left held gf s).2.2 ∧ (new.map s.rise).sum + (tokenStep left held gf s).1 ≤ left := by
  have hnone : ∀ left', left' ≤ left → (([] : List Nat).map s.rise).sum + left' ≤ left := fun _ h => (Nat.zero_add _).trans_le h
  unfold tokenStep
  split
  · next code _ => exact ⟨[], token_woken gf code s, hnone _ le_rfl⟩
  · split
    · exact ⟨[], token_still _ s, hnone _ le_rfl⟩
    · dsimp only
      split
      · exact ⟨[], token_still _ s, hnone _ le_rfl⟩
      · split
        · split
          · exact ⟨[], token_still _ s, hnone _ le_rfl⟩
          · next hheld =>
            split
            · next hfits => exact ⟨[gf], token_admit gf (by simpa using hheld), (Nat.add_sub_of_le hfits).le⟩
            · exact ⟨[], token_still _ s, hnone _ le_rfl⟩
        · split
          · split
            · exact ⟨[], token_code gf _ s, hnone _ (Nat.sub_le _ _)⟩
            · exact ⟨[], token_still _ s, hnone _ le_rfl⟩
          · exact ⟨[], token_still _ s, hnone _ le_rfl⟩

theorem tokenAll_token {gfs : List Nat} (hn : gfs.Nodup) (left : Nat) (held : Bool) (s : State) :
    ∃ new, Token gfs new s (tokenAll gfs left held s).2 ∧ (new.map s.rise).sum ≤ left := by
  induction gfs generalizing left held s with
  | nil => exact ⟨[], token_still _ s, Nat.zero_le left⟩
  | cons gf r ih =>
    obtain ⟨hgf, hr⟩ := List.nodup_cons.1 hn
    obtain ⟨new, hstep, hleft⟩ := tokenStep_token left held gf s
    obtain ⟨more, hrest, hmore⟩ := ih hr (tokenStep left held gf s).1 (tokenStep left held gf s).2.1 (tokenStep left held gf s).2.2
    have hrise : more.map (tokenStep left held gf s).2.2.rise = more.map s.rise := List.map_congr_left fun g hg =>
      hstep.rise fun e => hgf (List.mem_singleton.1 e ▸ hrest.offered g hg)
    refine ⟨new ++ more, hstep.trans hrest, ?_⟩
    rw [List.map_append, List.sum_append]
    rw [hrise] at hmore
    omega

/-- A token given to flights, and whether one of them still waits for the next. -/
def tokenGiven (gfs : List Nat) (s : State) : State :=
  let r := tokenAll gfs (s.slew * 100000) false s
  r.2.set Reg.PWR_STATUS_LSL_ACTIVE (b2n r.1)

/-- What a token does while the input voltage is known. -/
def tokenTaken (gfs : List Nat) (s : State) : State := if s.get Reg.PWR_INPUT_INPUT_MV = 0 then s else tokenGiven gfs s

theorem execAdmissionToken_eq (gfs : List Nat) (s : State) : execAdmissionToken gfs s = perform (gfs.all gfOk) (tokenTaken gfs) s := rfl

theorem tokenTaken_token {gfs : List Nat} (hn : gfs.Nodup) (s : State) :
    KeepsBut [.power, .regs, .treads] s (tokenTaken gfs s)
    ∧ ∃ new, (tokenTaken gfs s).power.admitted = s.power.admitted ++ new ∧ (∀ gf ∈ new, gf ∈ gfs)
      ∧ { (tokenTaken gfs s).power with admitted := s.power.admitted, waking := s.power.waking, starting := s.power.starting } = s.power
      ∧ (new.map s.rise).sum ≤ s.slew * 100000 ∧ (s.get Reg.PWR_STATUS_ADMIT_HELD = 1 → new = []) := by
  unfold tokenTaken
  split
  · exact ⟨.refl _ s, [], (List.append_nil _).symm, fun _ h => absurd h List.not_mem_nil, rfl, Nat.zero_le _, fun _ => rfl⟩
  · obtain ⟨new, htoken, hsum⟩ := tokenAll_token hn (s.slew * 100000) false s
    obtain ⟨a, w, t, hp⟩ := htoken.rest
    refine ⟨htoken.keeps.trans ((keepsBut_set _ _ _).mono (by decide)), new, htoken.admitted, htoken.offered, ?_, hsum, fun h =>
      htoken.held ?_⟩
    · change { (tokenAll gfs (s.slew * 100000) false s).2.power with admitted := s.power.admitted, waking := s.power.waking, starting :=
        s.power.starting } = s.power
      rw [hp]
    · exact beq_iff_eq.2 h

/-- A token that is offered one flight takes its step. -/
theorem tokenTaken_one {gf : Nat} {s : State} (h : s.get Reg.PWR_INPUT_INPUT_MV ≠ 0) :
    tokenTaken [gf] s = (tokenStep (s.slew * 100000) false gf s).2.2.set Reg.PWR_STATUS_LSL_ACTIVE
      (b2n (tokenStep (s.slew * 100000) false gf s).2.1) := if_neg h

theorem tokenStep_admits {left n gf : Nat} {held : Bool} {s : State} (hstage : s.flightStage? gf = some n)
    (hstate : s.get (Reg.DOMAIN_STATE_STATE gf) < 2) (hadm : gf ∉ s.power.admitted) (hwake : tget 0 s.power.waking gf = 0)
    (hheld : s.get Reg.PWR_STATUS_ADMIT_HELD ≠ 1) (hfits : s.rise gf ≤ left) : (tokenStep left held gf s).2.2 = admitFlight gf s := by
  have hon : s.on Reg.PWR_STATUS_ADMIT_HELD = false := beq_eq_false_iff_ne.2 hheld
  have hfits' : s.inputRise (s.activityAt gf (s.vcode gf)) ≤ left := hfits
  simp [tokenStep, hwake, hstage, hadm, hon, hfits', Nat.not_le.2 hstate]

theorem tokenStep_wakes {left gf code : Nat} {held : Bool} {s : State} (h : tget 0 s.power.waking gf = code + 1) :
    (tokenStep left held gf s).2.2 = woken gf code s := by
  rw [tokenStep, h]
  rfl

theorem admitFlight_admits (gf : Nat) (s : State) : gf ∈ (admitFlight gf s).power.admitted := by
  have hin : gf ∈ (admittedTo gf s).power.admitted := List.mem_append_right _ (List.mem_singleton_self gf)
  rw [admitFlight_eq]
  split
  · rwa [startWaiting_power]
  · exact hin

theorem admitFlight_starts {gf t : Nat} {s : State} (ht : t ∈ s.flightTreads gf) (hwait : gf ∈ s.power.starting) (hhalt :
    (s.tread t).st = .halt) :
    Started t (admitFlight gf s) := by
  rw [admitFlight_eq, if_pos (List.contains_iff_mem.2 hwait)]
  exact startWaiting_started (s := admittedTo gf s) ht (.inl hhalt)

theorem woken_shows (gf code : Nat) (s : State) : (woken gf code s).get (Reg.DOMAIN_STATE_STATE gf) = 1
    ∧ (woken gf code s).get (Reg.DOMAIN_STATE_VCODE gf) = code % 2 ^ (Reg.DOMAIN_STATE_VCODE gf).width
    ∧ tget 0 (woken gf code s).power.waking gf = 0 :=
  ⟨(get_set_other _ _ (by simp only [Fld.key, Reg.DOMAIN_STATE_STATE, Reg.DOMAIN_STATE_VCODE]; omega)).trans (get_set_self _ _ _),
    get_set_self _ _ _, tget_tset_self s.power.waking gf 0⟩

theorem tokenTaken_admits {gf n : Nat} {s : State} (hstage : s.flightStage? gf = some n) (hstate : s.get (Reg.DOMAIN_STATE_STATE gf) < 2)
    (hadm : gf ∉ s.power.admitted) (hwake : tget 0 s.power.waking gf = 0) (hheld : s.get Reg.PWR_STATUS_ADMIT_HELD ≠ 1)
    (hmv : s.get Reg.PWR_INPUT_INPUT_MV ≠ 0) (hfits : s.rise gf ≤ s.slew * 100000) :
    gf ∈ (tokenTaken [gf] s).power.admitted
    ∧ ∀ t ∈ s.flightTreads gf, gf ∈ s.power.starting → (s.tread t).st = .halt → Started t (tokenTaken [gf] s) := by
  rw [tokenTaken_one hmv, tokenStep_admits hstage hstate hadm hwake hheld hfits]
  exact ⟨admitFlight_admits gf s, fun t ht hwait hhalt => admitFlight_starts ht hwait hhalt⟩

theorem tokenTaken_wakes {gf code : Nat} {s : State} (hwake : tget 0 s.power.waking gf = code + 1)
    (hmv : s.get Reg.PWR_INPUT_INPUT_MV ≠ 0) :
    (tokenTaken [gf] s).get (Reg.DOMAIN_STATE_STATE gf) = 1
    ∧ (tokenTaken [gf] s).get (Reg.DOMAIN_STATE_VCODE gf) = code % 2 ^ (Reg.DOMAIN_STATE_VCODE gf).width
    ∧ tget 0 (tokenTaken [gf] s).power.waking gf = 0 ∧ (tokenTaken [gf] s).treads = s.treads := by
  obtain ⟨hstate, hcode, hwaking⟩ := woken_shows gf code s
  rw [tokenTaken_one hmv, tokenStep_wakes hwake]
  refine ⟨(get_set_other _ _ ?_).trans hstate, (get_set_other _ _ ?_).trans hcode, hwaking, rfl⟩
  · simp only [Fld.key, Reg.DOMAIN_STATE_STATE, Reg.PWR_STATUS_LSL_ACTIVE]
    omega
  · simp only [Fld.key, Reg.DOMAIN_STATE_VCODE, Reg.PWR_STATUS_LSL_ACTIVE]
    omega

theorem admissionTokens : Claims.AdmissionTokens := by
  intro gfs s hgfs hn rise
  have hok : gfs.all gfOk = true := List.all_eq_true.2 fun gf h => gfOk_of_lt (hgfs gf h)
  obtain ⟨hkeeps, new, hadm, hoffered, hrest, hsum, hheld⟩ := tokenTaken_token hn { s with out := [] }
  refine gives_value (t := tokenTaken gfs { s with out := [] }) ((execAdmissionToken_eq gfs s).trans (perform_of_ok hok _ s)) rfl
    (hkeeps .pending (by decide)) ⟨((keepsBut_out s []).mono (by decide)).trans (hkeeps.mono (by decide)),
      ⟨new, hadm, hoffered, hrest, hsum, hheld⟩, ?_, ?_⟩
  · rintro gf n rfl hstage hstate hadm hwake hheld hmv hfits
    exact tokenTaken_admits (s := { s with out := [] }) hstage hstate hadm hwake hheld hmv hfits
  · rintro gf code rfl hwake hmv
    exact tokenTaken_wakes (s := { s with out := [] }) hwake hmv

/-! ## The thermal sample (02 R69, R73, R79) -/

/-- The corrected or raw temperature of a flight, the higher of the two. -/
def State.topTemp (s : State) (gf : Nat) : Int := max (s.temp gf) (s.rawTemp gf)

/-- States between which samples of the flights of `l` and the writes of fields of `R` may lead. -/
structure Sampled (R : Nat → Prop) (l : List Nat) (s u : State) : Prop where
  raw : u.power.raw = s.power.raw
  cal : SameCal s u
  fields : Writes R s u
  warn : ∀ g, g ∉ l → (g ∈ u.power.warn ↔ g ∈ s.power.warn)
  hot : ∀ g, g ∉ l → (g ∈ u.power.hot ↔ g ∈ s.power.hot)
  told : ∀ code body, Recorded code body s → Recorded code body u

theorem Sampled.refl (R : Nat → Prop) (l : List Nat) (s : State) : Sampled R l s s :=
  ⟨rfl, rfl, .refl R s, fun _ _ => .rfl, fun _ _ => .rfl, fun _ _ => id⟩

theorem Sampled.trans {R : Nat → Prop} {l : List Nat} {s t u : State} (h : Sampled R l s t) (h' : Sampled R l t u) : Sampled R l s u :=
  ⟨h'.raw.trans h.raw, Eq.trans h'.cal h.cal, h.fields.trans h'.fields, fun g hg => (h'.warn g hg).trans (h.warn g hg),
    fun g hg => (h'.hot g hg).trans (h.hot g hg), fun c b hr => h'.told c b (h.told c b hr)⟩

theorem Sampled.mono {R Q : Nat → Prop} {l m : List Nat} {s u : State} (h : Sampled R l s u) (hR : ∀ k, R k → Q k) (hl : l ⊆ m) :
    Sampled Q m s u :=
  ⟨h.raw, h.cal, h.fields.mono hR, fun g hg => h.warn g fun hm => hg (hl hm), fun g hg => h.hot g fun hm => hg (hl hm), h.told⟩

theorem Sampled.temp {R : Nat → Prop} {l : List Nat} {s u : State} (h : Sampled R l s u) (gf : Nat) : u.temp gf = s.temp gf :=
  congrArg₂ (fun r c => State.temp { State.reset with power := { State.reset.power with raw := r }, det := { State.reset.det with applied :=
    c } }
    gf) h.raw h.cal

theorem Sampled.topTemp {R : Nat → Prop} {l : List Nat} {s u : State} (h : Sampled R l s u) (gf : Nat) : u.topTemp gf = s.topTemp gf := by
  rw [State.topTemp, State.topTemp, h.temp, State.rawTemp, State.rawTemp, h.raw]

theorem Sampled.warnAt {R : Nat → Prop} {l : List Nat} {s u : State} (h : Sampled R l s u) (hR : ¬R Reg.THERM_CTRL_WARN_C.key) :
    u.warnAt = s.warnAt := by
  rw [State.warnAt, State.warnAt, h.fields _ hR]

theorem sampled_set {R : Nat → Prop} {f : Fld} (hf : R f.key) (l : List Nat) (v : Nat) (s : State) : Sampled R l s (s.set f v) :=
  ⟨rfl, rfl, writes_set hf v s, fun _ _ => .rfl, fun _ _ => .rfl, fun _ _ h => recorded_congr h rfl⟩

theorem raise_power (code : Nat) (st : Stamp) (body : List Nat) (s : State) : (raise code st body s).power = s.power :=
  raise_keeps code st body s .power (by decide)

theorem sampled_raise {R : Nat → Prop} (hR : ∀ k, isDropCount k → R k) (l : List Nat) (code : Nat) (st : Stamp) (body : List Nat)
    (s : State) :
    Sampled R l s (raise code st body s) := by
  have hpower := raise_power code st body s
  exact ⟨congrArg Power.raw hpower, raise_sameCal code st body s, (raise_writes code st body s).mono hR, fun _ _ => by rw [hpower],
    fun _ _ => by rw [hpower], fun _ _ h => h.raise code st body⟩

theorem sampled_power (R : Nat → Prop) {l : List Nat} {s : State} {p : Power} (hraw : p.raw = s.power.raw)
    (hwarn : ∀ g, g ∉ l → (g ∈ p.warn ↔ g ∈ s.power.warn)) (hhot : ∀ g, g ∉ l → (g ∈ p.hot ↔ g ∈ s.power.hot)) :
    Sampled R l s { s with power := p } :=
  ⟨hraw, rfl, fun _ _ => rfl, hwarn, hhot, fun _ _ h => recorded_congr h rfl⟩

/-! The steps of one flight's sample. -/

/-- The fields that the events of a sample write. -/
def isTellField (k : Nat) : Prop := isDropCount k ∨ k = Reg.PWR_EVENT_COUNTS_WARN_ENTRIES.key

/-- The fields that show a flight's sample. -/
def isTempField (gf k : Nat) : Prop := k = (Reg.DOMAIN_STATE_TEMP gf).key ∨ k = (Reg.DOMAIN_STATE_HOT gf).key

theorem not_isTellField {k : Nat} (h : k % 64 = 15 ∨ k % 64 = 3 ∨ k = Reg.THERM_CTRL_WARN_C.key) : ¬isTellField k := by
  rintro (hd | rfl)
  · refine not_isDropCount ?_ hd
    rcases h with h | h | rfl
    · omega
    · omega
    · decide
  · revert h
    decide

theorem isTempField_low {gf k : Nat} (h : isTempField gf k) : k % 64 = 15 ∨ k % 64 = 3 := by
  rcases h with rfl | rfl
  · left
    simp only [Fld.key, Reg.DOMAIN_STATE_TEMP]
    omega
  · right
    simp only [Fld.key, Reg.DOMAIN_STATE_HOT]
    omega

/-- A flight's sample in its DOMAIN_STATE. -/
def sampleShown (gf : Nat) (t : Int) (s : State) : State :=
  s |> set (Reg.DOMAIN_STATE_TEMP gf) (degrees t) |> set (Reg.DOMAIN_STATE_HOT gf) (b2n (s.warnAt ≤ t))

/-- The entry of a flight into the warn response, told. -/
def warnTold (gf : Nat) (s : State) : State :=
  if s.power.warn.contains gf then s
  else { s with power := { s.power with warn := s.power.warn ++ [gf] } } |> bump Reg.PWR_EVENT_COUNTS_WARN_ENTRIES 1
    |> raise Ev.thermWarn (s.flightEvStamp gf) [gf, degrees (s.temp gf)]

/-- The cap of a warm flight's code. -/
def warnCapped (gf : Nat) (s : State) : State :=
  match s.flightStage? gf with
  | none => s
  | some n =>
    { s with power := { s.power with caps := tset 0 s.power.caps gf (max (s.vMin n) (s.vcode gf - s.stepCodes) + 1) } }

theorem warnFlight_eq (gf : Nat) (s : State) : warnFlight gf s = warnCapped gf (warnTold gf s) := rfl

/-- The end of a flight's warn response, and of its hot response below 105 °C. -/
def warnEnded (gf : Nat) (top : Int) (s : State) : State :=
  { s with power := { s.power with warn := s.power.warn.filter (· != gf),
                                   hot := if 840 ≤ top then s.power.hot else s.power.hot.filter (· != gf),
                                   caps := tset 0 s.power.caps gf 0 } }

/-- The warn response of a flight at `t`. -/
def noteWarm (gf : Nat) (t top : Int) (s : State) : State :=
  if s.warnAt ≤ t then warnFlight gf s
  else if s.power.warn.contains gf || s.power.hot.contains gf then warnEnded gf top s else s

/-- The hot response of a flight at `top`. -/
def noteHot (gf : Nat) (top : Int) (s : State) : State :=
  if 840 ≤ top && !s.power.hot.contains gf then
    { s with power := { s.power with hot := s.power.hot ++ [gf] } } |> raise Ev.thermHot (s.flightEvStamp gf) [gf, degrees top]
  else s

theorem sampleFlight_eq (gf : Nat) (s : State) :
    sampleFlight gf s = noteHot gf (s.topTemp gf) (noteWarm gf (s.temp gf) (s.topTemp gf) (sampleShown gf (s.temp gf) s)) := rfl

theorem sampleShown_sampled (gf : Nat) (t : Int) (s : State) : Sampled (isTempField gf) [] s (sampleShown gf t s) :=
  (sampled_set (.inl rfl) [] _ s).trans (sampled_set (.inr rfl) [] _ _)

theorem degrees_lt (t : Int) : degrees t < 2 ^ 8 := by
  unfold degrees
  omega

theorem sampleShown_shows (gf : Nat) (t : Int) (s : State) : (sampleShown gf t s).get (Reg.DOMAIN_STATE_TEMP gf) = degrees t
    ∧ (sampleShown gf t s).get (Reg.DOMAIN_STATE_HOT gf) = if s.warnAt ≤ t then 1 else 0 := by
  refine ⟨(get_set_other _ _ ?_).trans ((get_set_self _ _ _).trans (Nat.mod_eq_of_lt (degrees_lt t))), (get_set_self _ _ _).trans ?_⟩
  · simp only [Fld.key, Reg.DOMAIN_STATE_TEMP, Reg.DOMAIN_STATE_HOT]
    omega
  · by_cases h : s.warnAt ≤ t <;> simp [h, b2n, Reg.DOMAIN_STATE_HOT]

theorem mem_append_other {l : List Nat} {g gf : Nat} (h : g ∉ [gf]) : g ∈ l ++ [gf] ↔ g ∈ l := by simp_all

theorem mem_filter_other {l : List Nat} {g gf : Nat} (h : g ∉ [gf]) : g ∈ l.filter (· != gf) ↔ g ∈ l := by simp_all

theorem warnTold_sampled (gf : Nat) (s : State) : Sampled isTellField [gf] s (warnTold gf s) := by
  unfold warnTold
  split
  · exact .refl _ _ s
  · exact (sampled_power isTellField (p := { s.power with warn := s.power.warn ++ [gf] }) rfl (fun _ => mem_append_other) fun _ _ =>
      .rfl).trans
      ((sampled_set (.inr rfl) _ _ _).trans (sampled_raise (fun _ => .inl) _ _ _ _ _))

theorem warnTold_warned (gf : Nat) (s : State) : gf ∈ (warnTold gf s).power.warn ∧ (warnTold gf s).power.hot = s.power.hot
    ∧ (gf ∉ s.power.warn → Recorded 0x0105 [gf, degrees (s.temp gf)] (warnTold gf s)) := by
  unfold warnTold
  split
  · next h => exact ⟨List.contains_iff_mem.1 h, rfl, fun hn => absurd (List.contains_iff_mem.1 h) hn⟩
  · refine ⟨?_, by rw [raise_power]; rfl, fun _ => recorded_raise _ _ _ _⟩
    rw [raise_power]
    exact List.mem_append_right _ (List.mem_singleton_self gf)

theorem warnCapped_sampled (gf : Nat) (s : State) : Sampled isTellField [gf] s (warnCapped gf s) := by
  unfold warnCapped
  split
  · exact .refl _ _ s
  · exact sampled_power _ rfl (fun _ _ => .rfl) fun _ _ => .rfl

theorem warnCapped_lists (gf : Nat) (s : State) :
    (warnCapped gf s).power.warn = s.power.warn ∧ (warnCapped gf s).power.hot = s.power.hot ∧ (warnCapped gf s).rings = s.rings := by
  unfold warnCapped
  split
  · exact ⟨rfl, rfl, rfl⟩
  · exact ⟨rfl, rfl, rfl⟩

theorem warnEnded_sampled (gf : Nat) (top : Int) (s : State) : Sampled isTellField [gf] s (warnEnded gf top s) :=
  sampled_power _ rfl (fun _ => mem_filter_other) fun g hg => by
    dsimp only
    split
    · exact .rfl
    · exact mem_filter_other hg

theorem noteWarm_sampled (gf : Nat) (t top : Int) (s : State) : Sampled isTellField [gf] s (noteWarm gf t top s) := by
  unfold noteWarm
  split
  · exact (warnTold_sampled gf s).trans (warnCapped_sampled gf _)
  · split
    · exact warnEnded_sampled gf top s
    · exact .refl _ _ s

/-- What the warn response of a flight at `t` leaves. -/
structure Warmed (gf : Nat) (t top : Int) (s u : State) : Prop where
  warn : gf ∈ u.power.warn ↔ s.warnAt ≤ t
  told : s.warnAt ≤ t → gf ∉ s.power.warn → Recorded 0x0105 [gf, degrees (s.temp gf)] u
  hot : 840 ≤ top → (gf ∈ u.power.hot ↔ gf ∈ s.power.hot)
  cooled : t < s.warnAt → top < 840 → gf ∉ u.power.hot

theorem noteWarm_warmed (gf : Nat) (t top : Int) (s : State) : Warmed gf t top s (noteWarm gf t top s) := by
  unfold noteWarm
  split
  · next h =>
    obtain ⟨hwarn, hhot, htold⟩ := warnTold_warned gf s
    obtain ⟨hcwarn, hchot, hcrings⟩ := warnCapped_lists gf (warnTold gf s)
    rw [warnFlight_eq]
    exact ⟨by simpa only [hcwarn, h, iff_true] using hwarn, fun _ hn => recorded_congr (htold hn) hcrings, fun _ => by rw [hchot, hhot],
      fun hlt => absurd h (Int.not_le.2 hlt)⟩
  · next h =>
    split
    · refine ⟨by simp [warnEnded, h], fun hle => absurd hle h, fun htop => ?_, fun _ htop => ?_⟩
      · simp only [warnEnded, htop, if_true]
      · simp [warnEnded, Int.not_le.2 htop]
    · next hc =>
      obtain ⟨hwarn, hhot⟩ : gf ∉ s.power.warn ∧ gf ∉ s.power.hot := by simpa using hc
      exact ⟨by simp [hwarn, h], fun hle => absurd hle h, fun _ => .rfl, fun _ _ => hhot⟩

theorem noteHot_sampled (gf : Nat) (top : Int) (s : State) : Sampled isTellField [gf] s (noteHot gf top s) := by
  unfold noteHot
  split
  · exact (sampled_power isTellField (p := { s.power with hot := s.power.hot ++ [gf] }) rfl (fun _ _ => .rfl) fun _ =>
      mem_append_other).trans
      (sampled_raise (fun _ => .inl) _ _ _ _ _)
  · exact .refl _ _ s

/-- What the hot response of a flight at `top` leaves. -/
structure Heated (gf : Nat) (top : Int) (s u : State) : Prop where
  warn : u.power.warn = s.power.warn
  hot : 840 ≤ top → gf ∈ u.power.hot
  told : 840 ≤ top → gf ∉ s.power.hot → Recorded 0x0106 [gf, degrees top] u
  cool : top < 840 → u = s

theorem noteHot_heated (gf : Nat) (top : Int) (s : State) : Heated gf top s (noteHot gf top s) := by
  unfold noteHot
  split
  · next h =>
    have htop : 840 ≤ top := by
      rw [Bool.and_eq_true, decide_eq_true_eq] at h
      exact h.1
    refine ⟨by rw [raise_power], fun _ => ?_, fun _ _ => recorded_raise _ _ _ _, fun hlt => absurd htop (Int.not_le.2 hlt)⟩
    rw [raise_power]
    exact List.mem_append_right _ (List.mem_singleton_self gf)
  · next h =>
    have hin : 840 ≤ top → gf ∈ s.power.hot := fun htop => by simpa [htop] using h
    exact ⟨rfl, hin, fun htop hn => absurd (hin htop) hn, fun _ => rfl⟩

/-! A flight's whole sample. -/

/-- What the sample of a flight leaves that reads `t` and at the most `top`, against the warn threshold `w`. -/
structure SampleOf (w : Int) (gf : Nat) (t top : Int) (s u : State) : Prop where
  temp : u.get (Reg.DOMAIN_STATE_TEMP gf) = degrees t
  shown : u.get (Reg.DOMAIN_STATE_HOT gf) = if w ≤ t then 1 else 0
  warn : gf ∈ u.power.warn ↔ w ≤ t
  warned : w ≤ t → gf ∉ s.power.warn → Recorded 0x0105 [gf, degrees t] u
  hot : 840 ≤ top → gf ∈ u.power.hot
  heated : 840 ≤ top → gf ∉ s.power.hot → Recorded 0x0106 [gf, degrees top] u
  cooled : t < w → top < 840 → gf ∉ u.power.hot

/-- The fields that the samples of a list of flights write. -/
def isSampleField (l : List Nat) (k : Nat) : Prop := isTellField k ∨ ∃ g ∈ l, isTempField g k

theorem sampleFlight_sampled (gf : Nat) (s : State) : Sampled (isSampleField [gf]) [gf] s (sampleFlight gf s) := by
  rw [sampleFlight_eq]
  exact ((sampleShown_sampled gf _ s).mono (fun _ hk => .inr ⟨gf, List.mem_singleton_self gf, hk⟩) (List.nil_subset _)).trans
    (((noteWarm_sampled gf _ _ _).mono (fun _ => .inl) (List.Subset.refl _)).trans
      ((noteHot_sampled gf _ _).mono (fun _ => .inl) (List.Subset.refl _)))

theorem sampleFlight_sample (gf : Nat) (s : State) : SampleOf s.warnAt gf (s.temp gf) (s.topTemp gf) s (sampleFlight gf s) := by
  have hshow := sampleShown_sampled gf (s.temp gf) s
  obtain ⟨htemp, hhot⟩ := sampleShown_shows gf (s.temp gf) s
  have hw : (sampleShown gf (s.temp gf) s).warnAt = s.warnAt := hshow.warnAt fun h => by
    rcases isTempField_low h with h | h <;> revert h <;> decide
  have hwarm := noteWarm_warmed gf (s.temp gf) (s.topTemp gf) (sampleShown gf (s.temp gf) s)
  have hnoteHot := noteHot_sampled gf (s.topTemp gf) (noteWarm gf (s.temp gf) (s.topTemp gf) (sampleShown gf (s.temp gf) s))
  have htell := (noteWarm_sampled gf (s.temp gf) (s.topTemp gf) (sampleShown gf (s.temp gf) s)).trans hnoteHot
  have hheat := noteHot_heated gf (s.topTemp gf) (noteWarm gf (s.temp gf) (s.topTemp gf) (sampleShown gf (s.temp gf) s))
  rw [sampleFlight_eq]
  refine ⟨?_, ?_, ?_, fun hle hn => ?_, hheat.hot, fun htop hn => hheat.told htop ?_, fun hlt htop => ?_⟩
  · exact (htell.fields _ (not_isTellField (.inl (by simp only [Fld.key, Reg.DOMAIN_STATE_TEMP]; omega)))).trans htemp
  · exact (htell.fields _ (not_isTellField (.inr (.inl (by simp only [Fld.key, Reg.DOMAIN_STATE_HOT]; omega))))).trans hhot
  · rw [hheat.warn, hwarm.warn, hw]
  · have htold := hwarm.told (hw ▸ hle) hn
    rw [hshow.temp] at htold
    exact hnoteHot.told _ _ htold
  · exact fun hin => hn ((hwarm.hot htop).1 hin)
  · rw [hheat.cool htop]
    exact hwarm.cooled (hw ▸ hlt) htop

/-- What other steps leave of a flight's sample. -/
theorem SampleOf.later {w : Int} {gf : Nat} {t top : Int} {s u u' : State} {R : Nat → Prop} {l : List Nat} (h : SampleOf w gf t top s u)
    (hu : Sampled R l u u') (hl : gf ∉ l) (hR : ∀ k, isTempField gf k → ¬R k) : SampleOf w gf t top s u' where
  temp := (hu.fields _ (hR _ (.inl rfl))).trans h.temp
  shown := (hu.fields _ (hR _ (.inr rfl))).trans h.shown
  warn := (hu.warn gf hl).trans h.warn
  warned hw hn := hu.told _ _ (h.warned hw hn)
  hot htop := (hu.hot gf hl).2 (h.hot htop)
  heated htop hn := hu.told _ _ (h.heated htop hn)
  cooled ht htop hin := h.cooled ht htop ((hu.hot gf hl).1 hin)

/-- A flight's sample seen from a state before that only samples of other flights follow. -/
theorem SampleOf.earlier {w : Int} {gf : Nat} {t top : Int} {s s' u : State} {R : Nat → Prop} {l : List Nat}
    (h : SampleOf w gf t top s' u) (hs : Sampled R l s s') (hl : gf ∉ l) : SampleOf w gf t top s u where
  temp := h.temp
  shown := h.shown
  warn := h.warn
  warned hw hn := h.warned hw fun hin => hn ((hs.warn gf hl).1 hin)
  hot := h.hot
  heated htop hn := h.heated htop fun hin => hn ((hs.hot gf hl).1 hin)
  cooled := h.cooled

theorem isTempField_inj {g gf k : Nat} (h : isTempField g k) (h' : isTempField gf k) : g = gf := by
  simp only [isTempField, Fld.key, Reg.DOMAIN_STATE_TEMP, Reg.DOMAIN_STATE_HOT] at h h'
  omega

theorem isSampleField_other {l : List Nat} {gf k : Nat} (hl : gf ∉ l) (h : isTempField gf k) : ¬isSampleField l k := by
  rintro (ht | ⟨g, hg, hk⟩)
  · exact not_isTellField ((isTempField_low h).imp id .inl) ht
  · exact hl (isTempField_inj hk h ▸ hg)

/-- The samples of a list of flights taken one after another. -/
def samples (l : List Nat) (s : State) : State := l.foldl (fun s g => sampleFlight g s) s

theorem sampleFlight_sampled_of_mem {l : List Nat} {gf : Nat} (hgf : gf ∈ l) (s : State) :
    Sampled (isSampleField l) l s (sampleFlight gf s) := by
  have hsub : [gf] ⊆ l := fun _ hx => List.mem_singleton.1 hx ▸ hgf
  exact (sampleFlight_sampled gf s).mono (fun _ hk => hk.imp id fun ⟨x, hx, hk⟩ => ⟨x, hsub hx, hk⟩) hsub

theorem samples_sampled (l : List Nat) (s : State) : Sampled (isSampleField l) l s (samples l s) :=
  foldl_related (.refl _ l) (fun _ _ _ => .trans) (fun u _ hg => sampleFlight_sampled_of_mem hg u) s

theorem not_isSampleField_warn (l : List Nat) : ¬isSampleField l Reg.THERM_CTRL_WARN_C.key := by
  rintro (h | ⟨g, _, h⟩)
  · exact not_isTellField (.inr (.inr rfl)) h
  · rcases isTempField_low h with h | h <;> revert h <;> decide

theorem samples_sample {l : List Nat} (hn : l.Nodup) {gf : Nat} (hgf : gf ∈ l) (s : State) :
    SampleOf s.warnAt gf (s.temp gf) (s.topTemp gf) s (samples l s) := by
  obtain ⟨a, b, rfl⟩ := List.append_of_mem hgf
  obtain ⟨ha, hb⟩ : gf ∉ a ∧ gf ∉ b := by
    rw [List.nodup_append, List.nodup_cons] at hn
    exact ⟨fun h => hn.2.2 gf h gf List.mem_cons_self rfl, hn.2.1.1⟩
  have hbefore := samples_sampled a s
  have hstep := sampleFlight_sample gf (samples a s)
  rw [hbefore.warnAt (not_isSampleField_warn a), hbefore.temp, hbefore.topTemp] at hstep
  have hall : samples (a ++ gf :: b) s = samples b (sampleFlight gf (samples a s)) := by
    rw [samples, List.foldl_append, List.foldl_cons]
    rfl
  rw [hall]
  exact (hstep.later (samples_sampled b _) hb fun _ => isSampleField_other hb).earlier hbefore ha

/-! The readings, and the end of the sample. -/

/-- The readings taken in, and the injection of a flight's temperature told. -/
def readingsTaken (now : W64) (readings : List (Nat × Int)) (s : State) : State := at_ now s |> takeReadings readings |> hitAll 0x0C

/-- The hottest flight shown. -/
def hottestShown (s : State) : State :=
  let hottest := allFlights.foldl (fun b g => if s.temp b < s.temp g then g else b) 0
  s |> set Reg.THERM_STATUS_HOTTEST_GF hottest |> set Reg.THERM_STATUS_HOTTEST_C (degrees (s.temp hottest))

/-- The package's thermal status bits. -/
def thermShown (s : State) : State :=
  s |> set Reg.PWR_STATUS_THERM_WARN (b2n (!s.power.warn.isEmpty))
    |> set Reg.PWR_STATUS_THERM_HOT (b2n (allFlights.any fun g => decide (840 ≤ s.topTemp g)))

/-- The flight that trips the package. -/
def State.trips (s : State) : Option Nat := allFlights.find? fun g => decide (920 ≤ s.topTemp g)

/-- The codes of every stage's domains lowered to what they should have. -/
def codesLowered (s : State) : State := s.slots.foldl (fun s n => lowerCodes n s) s

/-- The trip, once, or the codes that the temperatures allow. -/
def thermalEnd (trip : Option Nat) (s : State) : State :=
  match trip with
  | some g => if s.pins.thermtripN then thermalTrip g s else s
  | none => codesLowered s

/-- A sample but for its end. -/
def sampledAll (now : W64) (readings : List (Nat × Int)) (s : State) : State :=
  thermShown (samples allFlights (hottestShown (readingsTaken now readings s)))

theorem sampleFlights_eq (s : State) : sampleFlights s = thermShown (samples allFlights s) := by
  unfold sampleFlights samples
  generalize allFlights.foldl (fun s g => sampleFlight g s) s = u
  rfl

theorem thermalEnd_trip {g : Nat} {s : State} (hg : s.trips = some g) (h : s.pins.thermtripN = true) :
    thermalEnd s.trips s = thermalTrip g s := by
  rw [hg]
  exact if_pos h

theorem thermalEnd_tripped {g : Nat} {s : State} (hg : s.trips = some g) (h : ¬s.pins.thermtripN = true) : thermalEnd s.trips s = s := by
  rw [hg]
  exact if_neg h

theorem thermalEnd_cool {s : State} (hg : s.trips = none) : thermalEnd s.trips s = s.slots.foldl (fun s n => lowerCodes n s) s := by
  rw [hg]
  rfl

/-- A sample but for its end, as the command writes it. -/
theorem sampledAll_eq (now : W64) (readings : List (Nat × Int)) (s : State) : sampledAll now readings s =
    sampleFlights (hottestShown (hitAll 0x0C (takeReadings readings (at_ now s)))) := by
  rw [sampledAll, sampleFlights_eq]
  rfl

/-- States are equal when one has every property of the other. A proof by cases on a property that is a variable keeps the kernel
from evaluating the walks over all flights. -/
theorem eq_of_properties {s t : State} (h : ∀ P : State → Prop, P t → P s) : s = t := h (· = t) rfl

theorem execThermalSample_eq (now : W64) (readings : List (Nat × Int)) (s : State) :
    execThermalSample now readings s = perform (readings.all fun x => gfOk x.1) (fun s =>
      thermalEnd (sampledAll now readings s).trips (sampledAll now readings s)) s := by
  unfold execThermalSample
  refine congrArg (fun f => perform _ f s) (funext fun a => eq_of_properties fun P hP => ?_)
  rw [sampledAll_eq, hottestShown] at hP
  dsimp only at hP ⊢
  split
  · next g hg =>
    have ht : State.trips _ = some g := hg
    split
    · next hn => rwa [thermalEnd_trip ht hn] at hP
    · next hn => rwa [thermalEnd_tripped ht hn] at hP
  · next hg =>
    have ht : State.trips _ = none := hg
    rwa [thermalEnd_cool ht] at hP

/-! What comes before the flights' samples and after them. -/

theorem sampled_of_keeps {l : List Area} {s u : State} (h : KeepsBut l s u) (hp : .power ∉ l) (hd : .det ∉ l) (hr : .rings ∉ l)
    {R : Nat → Prop} (hw : Writes R s u) (m : List Nat) : Sampled R m s u := by
  have hpower : u.power = s.power := h .power hp
  exact ⟨congrArg Power.raw hpower, congrArg Det.applied (h .det hd), hw, fun _ _ => by rw [hpower], fun _ _ => by rw [hpower],
    fun _ _ => h.recorded hr⟩

/-- The fields written before the flights' samples. -/
def isReadingField (k : Nat) : Prop := isHitField k ∨ k / 64 = 0x30001c

theorem hitAll_sampled (point : Nat) (s : State) : Sampled isHitField [] s (hitAll point s) := by
  have hpower : (hitAll point s).power = s.power := hitAll_keeps point s .power (by decide)
  exact ⟨congrArg Power.raw hpower, hitsKeep_sameCal.hitAll point s, hitsKeep_writes.hitAll point s, fun _ _ => by rw [hpower],
    fun _ _ => by rw [hpower], fun c b => (hitsKeep_recorded c b).hitAll point s⟩

theorem readings_sampled (now : W64) (readings : List (Nat × Int)) (s : State) :
    Sampled isReadingField [] (takeReadings readings s) (hottestShown (readingsTaken now readings { s with out := [] })) := by
  have hread : Sampled isReadingField [] (takeReadings readings s) (takeReadings readings (at_ now { s with out := [] })) :=
    ⟨rfl, rfl, fun _ _ => rfl, fun _ _ => .rfl, fun _ _ => .rfl, fun _ _ h => recorded_congr h rfl⟩
  exact hread.trans (((hitAll_sampled 0x0C _).mono (fun _ => .inl) (List.Subset.refl _)).trans
    ((sampled_set (.inr (by decide)) _ _ _).trans (sampled_set (.inr (by decide)) _ _ _)))

theorem not_isReadingField_warn : ¬isReadingField Reg.THERM_CTRL_WARN_C.key := by
  rintro (h | h)
  · exact not_isHitField (by decide) (.inl (by decide)) h
  · revert h
    decide

/-- The fields of the package's thermal status. -/
def isStatusField (k : Nat) : Prop := k = Reg.PWR_STATUS_THERM_WARN.key ∨ k = Reg.PWR_STATUS_THERM_HOT.key

theorem thermShown_sampled (s : State) : Sampled isStatusField [] s (thermShown s) :=
  (sampled_set (.inl rfl) _ _ _).trans (sampled_set (.inr rfl) _ _ _)

theorem thermShown_power (s : State) : (thermShown s).power = s.power := rfl

theorem thermShown_warn (s : State) : (thermShown s).get Reg.PWR_STATUS_THERM_WARN = b2n (!s.power.warn.isEmpty) := by
  refine (get_set_other _ _ (by decide)).trans ((get_set_self _ _ _).trans ?_)
  cases s.power.warn.isEmpty <;> rfl

theorem thermShown_hot (s : State) :
    (thermShown s).get Reg.PWR_STATUS_THERM_HOT = b2n (allFlights.any fun g => decide (840 ≤ s.topTemp g)) := by
  refine (get_set_self _ _ _).trans ?_
  cases (allFlights.any fun g => decide (840 ≤ s.topTemp g)) <;> rfl

theorem mem_allFlights {gf : Nat} : gf ∈ allFlights ↔ gf < 1184 := by
  rw [allFlights, mem_upFrom]
  omega

theorem allFlights_eq_range : allFlights = List.range 1184 := by
  rw [allFlights, upFrom_eq_range', List.range_eq_range']

theorem allFlights_nodup : allFlights.Nodup := by
  rw [allFlights_eq_range]
  exact List.nodup_range

theorem isTempField_not_status {gf k : Nat} (h : isTempField gf k) : ¬isStatusField k := by
  rcases isTempField_low h with h | h <;> rintro (rfl | rfl) <;> revert h <;> decide

theorem sampledAll_topTemp (now : W64) (readings : List (Nat × Int)) (s : State) (gf : Nat) :
    (sampledAll now readings { s with out := [] }).topTemp gf = (takeReadings readings s).topTemp gf :=
  ((thermShown_sampled _).topTemp gf).trans (((samples_sampled allFlights _).topTemp gf).trans
    ((readings_sampled now readings s).topTemp gf))

theorem sampledAll_sample (now : W64) (readings : List (Nat × Int)) (s : State) {gf : Nat} (hgf : gf < 1184) :
    SampleOf s.warnAt gf ((takeReadings readings s).temp gf) ((takeReadings readings s).topTemp gf) s
      (sampledAll now readings { s with out := [] }) := by
  have hread := readings_sampled now readings s
  have hsample := samples_sample allFlights_nodup (mem_allFlights.2 hgf) (hottestShown (readingsTaken now readings { s with out := [] }))
  rw [hread.warnAt not_isReadingField_warn, hread.temp, hread.topTemp] at hsample
  have hlater := (hsample.earlier hread List.not_mem_nil).later (thermShown_sampled _) List.not_mem_nil fun _ => isTempField_not_status
  exact { hlater with }

theorem sampleFlights_keeps (s : State) : KeepsBut [.regs, .power, .seq, .rings, .det] s (sampleFlights s) := by
  apply keepsBut_of_veil
  apply sampleFlights_frame <;> exact fun _ _ => rfl

theorem sampledAll_keeps (now : W64) (readings : List (Nat × Int)) (s : State) :
    KeepsBut [.regs, .power, .seq, .rings, .det, .journal, .sec, .time, .out] s (sampledAll now readings { s with out := [] }) := by
  rw [sampledAll_eq]
  exact ((keepsBut_out s []).mono (by decide)).trans (((at_keeps now _).mono (by decide)).trans (((takeReadings_keeps readings _).mono
    (by decide)).trans
    (((hitAll_keeps 0x0C _).mono (by decide)).trans (((keepsBut_set _ _ _).mono (by decide)).trans (((keepsBut_set _ _ _).mono
      (by decide)).trans
      ((sampleFlights_keeps _).mono (by decide)))))))

/-- The fields that the end of a sample writes. -/
def isEndField (k : Nat) : Prop := k % 64 = 30 ∨ k % 64 = 23 ∨ 0x1010004 * 64 ≤ k ∨ isDropCount k

theorem isTempField_not_end {gf k : Nat} (hgf : gf < 1184) (h : isTempField gf k) : ¬isEndField k := by
  have hlow := isTempField_low h
  have hdrop : ¬isDropCount k := not_isDropCount (by omega)
  simp only [isTempField, Fld.key, Reg.DOMAIN_STATE_TEMP, Reg.DOMAIN_STATE_HOT] at h
  simp only [isEndField, hdrop, or_false]
  omega

theorem flightOff_fieldsBut (gf : Nat) (s : State) : FieldsBut [Reg.DOMAIN_STATE_STATE gf, Reg.DOMAIN_STATE_VCODE gf,
    Reg.FLT_STATUS_STOPPED gf, Reg.FLT_STATUS_LINE_HELD gf] s (flightOff gf s) := by
  intro f hf
  simp only [List.map_cons, List.map_nil, List.mem_cons, List.not_mem_nil, or_false, not_or] at hf
  obtain ⟨hstate, hcode, hstop, hheld⟩ := hf
  rw [flightOff_get, flightDark, setPower_get, get_set_other _ _ hheld, get_set_other _ _ hstop, setFlight_get]
  exact (get_set_other _ _ hcode).trans (get_set_other _ _ hstate)

theorem flightOff_endFields (gf : Nat) (s : State) : Writes isEndField s (flightOff gf s) := by
  refine fun f hf => flightOff_fieldsBut gf s f fun hm => hf ?_
  simp only [List.map_cons, List.map_nil, List.mem_cons, List.not_mem_nil, or_false, Fld.key, Reg.DOMAIN_STATE_STATE,
    Reg.DOMAIN_STATE_VCODE, Reg.FLT_STATUS_STOPPED, Reg.FLT_STATUS_LINE_HELD] at hm
  simp only [isEndField, Fld.key]
  omega

theorem flightOff_sampled (gf : Nat) (s : State) : Sampled isEndField [] s (flightOff gf s) := by
  have hk := flightOff_keeps gf s
  have hpower := flightOff_power gf s
  exact ⟨by rw [hpower], congrArg Det.applied (hk .det (by decide)), flightOff_endFields gf s, fun _ _ => by rw [hpower],
    fun _ _ => by rw [hpower], fun _ _ => hk.recorded (by decide)⟩

theorem flightsOff_sampled (l : List Nat) (s : State) : Sampled isEndField [] s (flightsOff l s) :=
  foldl_related (.refl _ []) (fun _ _ _ => .trans) (fun u g _ => flightOff_sampled g u) s

theorem flightsOff_dropped {l : List Nat} {g : Nat} (hg : g ∈ l) (s : State) : g ∉ (flightsOff l s).power.admitted :=
  foldl_establishes (P := fun u => g ∉ u.power.admitted) hg (fun u => by rw [flightOff_power]; simp)
    (fun u y _ h => by rw [flightOff_power]; simp [h]) s

/-- The package tripped: FAULT, and both fault pins low. -/
def pinsTripped (s : State) : State :=
  { s with pins := { s.pins with thermtripN := false } } |> packageFault |> put (.pin .thermtripN false)

theorem thermalTrip_eq (gf : Nat) (s : State) : thermalTrip gf s = raise Ev.thermTrip ((flightsOff allFlights s).flightEvStamp gf)
    [gf, degrees (s.topTemp gf)] (pinsTripped (flightsOff allFlights s)) := by
  unfold thermalTrip flightsOff
  generalize allFlights.foldl (fun s g => flightOff g s) s = u
  rfl

theorem pinsTripped_keeps (s : State) : KeepsBut [.pins, .pkg, .out] s (pinsTripped s) := by
  have hpins : KeepsBut [.pins] s { s with pins := { s.pins with thermtripN := false } } := keepsBut_of_veil rfl
  exact (hpins.mono (by decide)).trans (((packageFault_keeps _).mono (by decide)).trans ((keepsBut_out _ _).mono (by decide)))

theorem packageFault_thermtrip (s : State) : (packageFault s).pins.thermtripN = s.pins.thermtripN := by
  unfold packageFault
  split <;> rfl

theorem pinsTripped_trips (s : State) : (pinsTripped s).pkg = .fault ∧ (s.pkg ≠ .fault → (pinsTripped s).pins.faultN = false)
    ∧ (pinsTripped s).pins.thermtripN = false := by
  obtain ⟨hpkg, hpins⟩ := packageFault_faulted { s with pins := { s.pins with thermtripN := false } }
  exact ⟨hpkg, fun h => congrArg Pins.faultN (hpins h).1, packageFault_thermtrip _⟩

theorem thermalTrip_sampled (gf : Nat) (s : State) : Sampled isEndField [] s (thermalTrip gf s) := by
  have hpins := pinsTripped_keeps (flightsOff allFlights s)
  rw [thermalTrip_eq]
  exact (flightsOff_sampled allFlights s).trans ((sampled_of_keeps hpins (by decide) (by decide) (by decide) (hpins.writes
    (by decide) _) _).trans
    (sampled_raise (fun _ hk => .inr (.inr (.inr hk))) _ _ _ _ _))

theorem codesLowered_keeps (s : State) : KeepsBut [.regs] s (codesLowered s) := foldl_keeps (fun u n _ => lowerCodes_keeps n u) s

theorem codesLowered_writes (s : State) : Writes isEndField s (codesLowered s) :=
  foldl_writes (fun u n _ => (lowerCodes_writes n u).mono fun k ⟨gf, hk⟩ =>
    .inr (.inl (hk ▸ by simp only [Fld.key, Reg.DOMAIN_STATE_VCODE]; omega))) s

theorem codesLowered_sampled (s : State) : Sampled isEndField [] s (codesLowered s) :=
  sampled_of_keeps (codesLowered_keeps s) (by decide) (by decide) (by decide) (codesLowered_writes s) _

theorem thermalEnd_sampled (trip : Option Nat) (s : State) : Sampled isEndField [] s (thermalEnd trip s) := by
  unfold thermalEnd
  split
  · split
    · exact thermalTrip_sampled _ s
    · exact .refl _ _ s
  · exact codesLowered_sampled s

/-! The responses (02 R69). -/

theorem trips_some {s : State} {g : Nat} (h : s.trips = some g) : g < 1184 ∧ 920 ≤ s.topTemp g ∧ ∀ x, x < g → s.topTemp x < 920 := by
  rw [State.trips, allFlights_eq_range, List.find?_range_eq_some, List.mem_range, decide_eq_true_eq] at h
  obtain ⟨htop, hlt, hbelow⟩ := h
  exact ⟨hlt, htop, fun x hx => by simpa using hbelow x hx⟩

theorem trips_none {s : State} : s.trips = none ↔ ∀ g, g < 1184 → s.topTemp g < 920 := by
  simp only [State.trips, List.find?_eq_none, mem_allFlights, decide_eq_true_eq, Int.not_le]

/-- What the trip by flight `g` leaves. -/
structure Tripped (g : Nat) (s u : State) : Prop where
  pkg : u.pkg = .fault
  faultN : s.pkg ≠ .fault → u.pins.faultN = false
  thermtripN : u.pins.thermtripN = false
  off : ∀ gf, gf < 1184 → u.get (Reg.DOMAIN_STATE_STATE gf) = 3 ∧ gf ∉ u.power.admitted
  told : Recorded 0x0107 [g, degrees (s.topTemp g)] u

theorem thermalTrip_tripped (g : Nat) (s : State) : Tripped g s (thermalTrip g s) := by
  have hoff := flightsOff_keeps allFlights s
  have hpinsKeep := pinsTripped_keeps (flightsOff allFlights s)
  have hraise := raise_keeps Ev.thermTrip ((flightsOff allFlights s).flightEvStamp g) [g, degrees (s.topTemp g)] (pinsTripped
    (flightsOff allFlights s))
  obtain ⟨hfault, hfaultN, htrip⟩ := pinsTripped_trips (flightsOff allFlights s)
  have hpkg : (flightsOff allFlights s).pkg = s.pkg := hoff .pkg (by decide)
  rw [thermalTrip_eq]
  refine ⟨(hraise .pkg (by decide)).trans hfault, fun h => ?_, ?_, fun gf hgf => ⟨?_, ?_⟩, recorded_raise _ _ _ _⟩
  · rw [hraise .pins (by decide)]
    exact hfaultN fun e => h (hpkg.symm.trans e)
  · rw [hraise .pins (by decide)]
    exact htrip
  · refine (raise_writes _ _ _ _ _ (not_isDropCount ?_)).trans ((hpinsKeep.writes (by decide) (fun _ => False) _ id).trans
      (flightsOff_state (mem_allFlights.2 hgf) hgf s))
    simp only [Fld.key, Reg.DOMAIN_STATE_STATE]
    omega
  · rw [raise_power, hpinsKeep .power (by decide)]
    exact flightsOff_dropped (mem_allFlights.2 hgf) s

theorem thermalEnd_keeps (trip : Option Nat) (s : State) :
    KeepsBut [.regs, .power, .treads, .flights, .pins, .pkg, .out, .seq, .rings, .det] s (thermalEnd trip s) := by
  unfold thermalEnd
  split
  · split
    · rw [thermalTrip_eq]
      exact ((flightsOff_keeps _ s).mono (by decide)).trans (((pinsTripped_keeps _).mono (by decide)).trans ((raise_keeps _ _ _ _).mono
        (by decide)))
    · exact .refl _ s
  · exact (codesLowered_keeps s).mono (by decide)

/-- Without a trip the package and its pins stay. -/
theorem thermalEnd_still {s : State} (h : s.trips = none ∨ s.pins.thermtripN = false) :
    (thermalEnd s.trips s).pkg = s.pkg ∧ (thermalEnd s.trips s).pins = s.pins := by
  have hcodes := codesLowered_keeps s
  cases hg : s.trips with
  | none => exact ⟨hcodes .pkg (by decide), hcodes .pins (by decide)⟩
  | some g =>
    have hlow : ¬s.pins.thermtripN = true := by simpa [hg] using h
    rw [← hg, thermalEnd_tripped hg hlow]
    exact ⟨rfl, rfl⟩

theorem b2n_eq_one {b : Bool} : b2n b = 1 ↔ b = true := by cases b <;> decide

theorem sampledAll_hot (now : W64) (readings : List (Nat × Int)) (s : State) :
    (sampledAll now readings { s with out := [] }).get Reg.PWR_STATUS_THERM_HOT = 1
      ↔ ∃ gf, gf < 1184 ∧ 840 ≤ (takeReadings readings s).topTemp gf := by
  have htop : ∀ g, (samples allFlights (hottestShown (readingsTaken now readings { s with out := [] }))).topTemp g =
    (takeReadings readings s).topTemp g :=
    fun g => ((samples_sampled allFlights _).topTemp g).trans ((readings_sampled now readings s).topTemp g)
  rw [sampledAll, thermShown_hot, b2n_eq_one, List.any_eq_true]
  simp only [mem_allFlights, decide_eq_true_eq, htop]

theorem sampledAll_warn (now : W64) (readings : List (Nat × Int)) {s : State} {gf : Nat}
    (h : gf ∈ (sampledAll now readings s).power.warn) : (sampledAll now readings s).get Reg.PWR_STATUS_THERM_WARN = 1 := by
  rw [sampledAll, thermShown_power] at h
  rw [sampledAll, thermShown_warn, b2n_eq_one, Bool.not_eq_true', List.isEmpty_eq_false_iff]
  exact List.ne_nil_of_mem h

theorem not_isEndField_status {k : Nat} (h : isStatusField k) : ¬isEndField k := by
  have hdrop : ¬isDropCount k := not_isDropCount (by rcases h with rfl | rfl <;> decide)
  simp only [isEndField, hdrop, or_false]
  rcases h with rfl | rfl <;> decide

theorem thermalResponses : Claims.ThermalResponses := by
  intro now readings s hr v top
  have hok : (readings.all fun x => gfOk x.1) = true := List.all_eq_true.2 fun x h => gfOk_of_lt (hr x h)
  have hkeeps := sampledAll_keeps now readings s
  have htop := sampledAll_topTemp now readings s
  have hsample := fun gf => sampledAll_sample now readings s (gf := gf)
  have hhot := sampledAll_hot now readings s
  have hwarn := fun gf => sampledAll_warn now readings (s := { s with out := [] }) (gf := gf)
  have hexec := (execThermalSample_eq now readings s).trans (perform_of_ok hok _ s)
  refine gives_value hexec rfl ((thermalEnd_keeps _ _ .pending (by decide)).trans (hkeeps .pending (by decide))) ?_
  dsimp only
  generalize sampledAll now readings { s with out := [] } = c at *
  have hpkg : c.pkg = s.pkg := hkeeps .pkg (by decide)
  have hpins : c.pins = s.pins := hkeeps .pins (by decide)
  have hend := thermalEnd_sampled c.trips c
  refine ⟨fun ⟨gf, hgf, hhigh⟩ hn => ?_, fun h => ?_, ?_, fun ⟨gf, hgf, hle⟩ => ?_, fun gf hgf => ?_⟩
  · cases hg : c.trips with
    | none => exact absurd (trips_none.1 hg gf hgf) (Int.not_lt.2 (htop gf ▸ hhigh))
    | some g =>
      obtain ⟨hlt, hhigh, hbelow⟩ := trips_some hg
      have htrip := thermalTrip_tripped g c
      rw [← hg, thermalEnd_trip hg (hpins ▸ hn)]
      have htold := htrip.told
      rw [htop] at htold hhigh
      exact ⟨htrip.pkg, hpkg ▸ htrip.faultN, htrip.thermtripN, htrip.off, g, hlt, hhigh, fun x hx => (htop x).symm.trans_lt (hbelow x hx),
        htold⟩
  · have hstill := thermalEnd_still (s := c) (h.imp (fun hcool => trips_none.2 fun g hg => htop g ▸ hcool g hg) fun hn => hpins ▸ hn)
    exact ⟨hstill.1.trans hpkg, hstill.2.trans hpins⟩
  · rw [hend.fields _ (not_isEndField_status (.inr rfl))]
    exact hhot
  · exact (hend.fields _ (not_isEndField_status (.inl rfl))).trans (hwarn gf ((hsample gf hgf).warn.2 hle))
  · have hu := (hsample gf hgf).later hend List.not_mem_nil fun _ => isTempField_not_end hgf
    exact ⟨hu.temp, hu.shown, hu.warn, hu.warned, hu.hot, hu.heated, hu.cooled⟩

/-- Settles O17: a token admits within SLEW, an idle flight enters and leaves RETAIN, and a sample warns, heats or trips. -/
theorem admissionRetentionThermal : Obligations.AdmissionRetentionThermal := ⟨admissionTokens, retentionMoves, thermalResponses⟩

end Sys2Proof.Machine
end

section
/-!
PROOFS. Rigging (03): a load begins, is fetched or is given up; an image is verified, validated and placed; row shifts and role
moves.
-/
namespace Sys2Proof.Machine
open State Laws

/-! ## What a lost line of an image slot leaves (09 R326, R327, 13 R462) -/

/-- A field at bit 30 or 31 of its register, as DOMAIN_STATE.STATE and RERIG_LAST.BUSY are. -/
def isTopField (k : Nat) : Prop := k % 64 = 30 ∨ k % 64 = 31

/-- A relation that every write of a lost line keeps to, and every write of a cause that it finds. -/
structure LossesKeep (Q : State → State → Prop) : Prop where
  refl : ∀ s, Q s s
  trans : ∀ s t u, Q s t → Q t u → Q s u
  set : ∀ (f : Fld) v s, ¬isTopField f.key → Q s (s.set f v)
  raise : ∀ c st b s, Q s (raise c st b s)
  wind : ∀ p s, Q s (beginWindDown p s)
  still : ∀ s u, KeepsBut [.seq, .out, .memCheck, .ucs, .ropes, .svcs, .journal, .sec, .det] s u → Q s u

section
variable {Q : State → State → Prop} (hQ : LossesKeep Q)
include hQ

theorem LossesKeep.hits : HitsKeep Q where
  refl := hQ.refl
  trans := hQ.trans
  set f v s hf := hQ.set f v s fun htop => by
    rcases hf with ⟨g, hg⟩ | ⟨-, hbit⟩
    · rw [hg] at htop
      simp only [isTopField, Fld.key, Reg.EVT_COUNTS_DROPPED] at htop
      omega
    · unfold isTopField at htop
      omega
  raise := hQ.raise
  journal x s := hQ.still _ _ ((keepsBut_journal s x).mono (by decide))
  sec x s := hQ.still _ _ fun a ha => by cases a <;> simp [Area.same] at ha ⊢
  armed x s := hQ.still _ _ fun a ha => by cases a <;> simp [Area.same] at ha ⊢

theorem LossesKeep.ringBell (c b : Nat) (s : State) : Q s (ringBell c b s) := by
  have hset := hQ.set (Reg.MB_P2H c) (s.get (Reg.MB_P2H c) ||| 2 ^ b) s (by simp only [isTopField, Fld.key, Reg.MB_P2H]; omega)
  exact ite_related hset (hQ.trans _ _ _ hset (hQ.still _ _ ((keepsBut_out _ _).mono (by decide))))

theorem LossesKeep.notifyStep (p b : Nat) (s : State) : Q s (notifyStep p b s) :=
  foldl_related hQ.refl hQ.trans (fun u c _ => ite_related (hQ.ringBell c b u) (hQ.refl u)) s

theorem LossesKeep.setSvc (p : Nat) (v : Svc) (s : State) : Q s (s.setSvc p v) :=
  hQ.still _ _ ((show KeepsBut [.svcs] s (s.setSvc p v) from keepsBut_of_veil (setSvc_frame (fun _ _ => rfl) p v s)).mono (by decide))

theorem LossesKeep.setSvcState (p : Nat) (st : SvcState) (s : State) : Q s (setSvcState p st s) :=
  hQ.trans _ _ _ (hQ.setSvc p _ s) (hQ.set _ _ _ (by simp only [isTopField, Fld.key, Reg.STEP_STATUS_STATE]; omega))

theorem LossesKeep.setCause (p cause : Nat) (s : State) : Q s (s.set (Reg.STEP_STATUS_CAUSE p) cause) :=
  hQ.set _ _ _ (by simp only [isTopField, Fld.key, Reg.STEP_STATUS_CAUSE]; omega)

theorem LossesKeep.toChildren (p kind : Nat) (m : TreeMsg) (s : State) : Q s (toChildren p kind m s) := by
  have h : KeepsBut [.out, .ropes] s (Machine.toChildren p kind m s) := by
    apply keepsBut_of_veil
    apply toChildren_frame <;> exact fun _ _ => rfl
  exact hQ.still _ _ (h.mono (by decide))

theorem LossesKeep.toParent (p kind : Nat) (m : TreeMsg) (s : State) : Q s (toParent p kind m s) := by
  have h : KeepsBut [.out, .ropes] s (Machine.toParent p kind m s) := by
    apply keepsBut_of_veil
    apply toParent_frame <;> exact fun _ _ => rfl
  exact hQ.still _ _ (h.mono (by decide))

theorem LossesKeep.beginOutage (p : Nat) (own : Bool) (s : State) : Q s (beginOutage p own s) :=
  hQ.still _ _ ((show KeepsBut [.svcs] s (Machine.beginOutage p own s) from
    keepsBut_of_veil (beginOutage_frame (fun _ _ => rfl) p own s)).mono (by decide))

theorem LossesKeep.applyHalt (p cause : Nat) (s : State) : Q s (applyHalt p cause s) :=
  hQ.trans _ _ _ (hQ.setSvc p _ s) (hQ.trans _ _ _ (hQ.setSvcState p .halted _)
    (hQ.trans _ _ _ (hQ.setCause p cause _) (hQ.notifyStep p 3 _)))

theorem LossesKeep.orderShown (p : Nat) (kind : OrderKind) (target cause epoch : Nat) (s : State) :
    Q s (orderShown p kind target cause epoch s) :=
  hQ.trans _ _ _ (hQ.toChildren p _ _ s) (hQ.trans _ _ _ (hQ.beginOutage p false _) (hQ.trans _ _ _ (hQ.setSvc p _ _)
    (hQ.trans _ _ _ (hQ.setSvcState p _ _) (hQ.trans _ _ _ (hQ.setCause p _ _) (hQ.notifyStep p 1 _)))))

theorem LossesKeep.takeOrder (p : Nat) (kind : OrderKind) (target cause epoch : Nat) (s : State) :
    Q s (takeOrder p kind target cause epoch s) := by
  have hshown := hQ.orderShown p kind target cause epoch s
  rw [takeOrder_eq]
  split
  · exact hshown
  · exact hQ.trans _ _ _ hshown (hQ.wind p _)

theorem LossesKeep.rootRequest (p act cause : Nat) (s : State) : Q s (rootRequest p act cause s) := by
  unfold Machine.rootRequest
  dsimp only
  split
  · exact hQ.trans _ _ _ (hQ.toChildren p _ _ s) (hQ.applyHalt p cause _)
  · split
    · exact ite_related (hQ.setSvc p _ s) (hQ.refl s)
    · exact ite_related (hQ.refl s) (ite_related (hQ.takeOrder p _ _ _ _ s) (hQ.takeOrder p _ _ _ _ s))

theorem LossesKeep.findCause (p act cause : Nat) (s : State) : Q s (findCause p act cause s) := by
  have hbegun : ∀ (c : Bool) (u : State), Q u (if c then u else Machine.beginOutage p true u) := fun c u =>
    ite_related (hQ.refl u) (hQ.beginOutage p true u)
  unfold Machine.findCause
  dsimp only
  refine ite_related (hQ.refl s) (hQ.trans _ _ _ (hQ.setCause p cause s) ?_)
  refine hQ.trans _ _ _ (hbegun (act == actHalt || (s.svc p).state == .halted && cause != Why.software) _) ?_
  exact ite_related (hQ.rootRequest p act cause _) (hQ.toParent p _ _ _)

theorem LossesKeep.recoverLine (f : Finder) (p : Nat) (g : Region) (o : Nat) (s : State) : Q s (recoverLine f p g o s) := by
  unfold Machine.recoverLine
  dsimp only
  refine ite_related ?_ (ite_related (hQ.findCause p _ _ s) (ite_related (hQ.refl s) (hQ.findCause p _ _ s)))
  exact ite_related (hQ.trans _ _ _ (hQ.setSvc p _ s) (hQ.findCause p _ _ _)) (hQ.setSvc p _ s)

/-- What an undercroft notes of a lost line. -/
theorem LossesKeep.noteLost (u kind p o : Nat) (c : Tbl Nat) (x : Undercroft) (s : State) :
    Q s (setMemCheck c s |> setUc u x |> bump (Reg.UC_LINE_COUNTS_LOST u) 1 |> State.set (Reg.UC_LINE_LAST_KIND u) kind
      |> State.set (Reg.UC_LINE_LAST_PARTITION u) p |> State.set (Reg.UC_LINE_LAST_OFFSET u) o) := by
  have hkeep : KeepsBut [.memCheck, .ucs] s (setMemCheck c s |> setUc u x) := fun a ha => by
    cases a <;> simp [Area.same] at ha ⊢
  refine hQ.trans _ _ _ (hQ.still _ _ (hkeep.mono (by decide))) (hQ.trans _ _ _ (hQ.set _ _ _ ?_) (hQ.trans _ _ _ (hQ.set _ _ _ ?_)
    (hQ.trans _ _ _ (hQ.set _ _ _ ?_) (hQ.set _ _ _ ?_)))) <;>
  simp only [isTopField, Fld.key, Reg.UC_LINE_COUNTS_LOST, Reg.UC_LINE_LAST_KIND, Reg.UC_LINE_LAST_PARTITION, Reg.UC_LINE_LAST_OFFSET] <;>
  omega

theorem LossesKeep.lineLost (f : Finder) (n : Nat) (s : State) : Q s (lineLost f n s) := by
  unfold Machine.lineLost
  extract_lets o u x row
  split
  extract_lets v
  have hv : Q s v := hQ.noteLost ..
  split
  · exact hQ.trans _ _ _ hv (hQ.trans _ _ _ (hQ.raise _ _ _ _) (hQ.recoverLine f _ _ o _))
  · exact hQ.trans _ _ _ hv (hQ.raise _ _ _ _)

theorem LossesKeep.hitLine (point n : Nat) (s : State) : Q s (hitLine point n s) := by
  unfold Machine.hitLine
  split
  · exact ite_related (hQ.hits.hitInjection _ _ s) (hQ.refl s)
  · exact hQ.refl s

theorem LossesKeep.checkLine (f : Finder) (bad : Tbl Nat) (n : Nat) (s : State) : Q s (checkLine f bad n s).2 := by
  unfold Machine.checkLine
  split
  · exact hQ.refl s
  · exact hQ.trans _ _ _ (hQ.set _ _ s (by simp only [isTopField, Fld.key, Reg.UC_LINE_COUNTS_REREAD_OK]; omega)) (hQ.hitLine 5 n _)
  · exact hQ.lineLost f n s

theorem LossesKeep.slotLines (bad : Tbl Nat) (l : List Nat) (acc : List Byte) (s : State) : Q s (slotLines bad l acc s).2 := by
  induction l generalizing acc s with
  | nil => exact hQ.refl s
  | cons n r ih =>
    unfold Machine.slotLines
    dsimp only
    have hfirst := hQ.checkLine .other bad n s
    have hsecond := hQ.trans _ _ _ hfirst (hQ.checkLine .other bad (n + 2 ^ 22) _)
    split
    · exact hQ.trans _ _ _ hfirst (ih _ _)
    · split
      · exact hQ.trans _ _ _ hsecond (ih _ _)
      · exact hsecond

theorem LossesKeep.slotRead (bad : Tbl Nat) (p n : Nat) (s : State) : Q s (slotRead bad p n s).2 := hQ.slotLines bad _ [] s

end

theorem beginWindDown_keeps (p : Nat) (s : State) : KeepsBut [.rigs] s (beginWindDown p s) := (beginWindDown_rig p s).1

/-- No field at bit 30 or 31 of its register is written. -/
theorem lossesKeep_writes : LossesKeep (Writes fun k => ¬isTopField k) where
  refl := .refl _
  trans _ _ _ := .trans
  set _ v s hf := writes_set hf v s
  raise c st b s := (raise_writes c st b s).mono fun k ⟨f, hk⟩ htop => by
    rw [hk] at htop
    simp only [isTopField, Fld.key, Reg.EVT_COUNTS_DROPPED] at htop
    omega
  wind p s := (beginWindDown_keeps p s).writes (by decide) _
  still _ _ h := h.writes (by decide) _

/-- The riggings are the same but for wind-downs that have begun. -/
def RigsWind (s u : State) : Prop := ∀ q, ∃ w t, u.rig q = { s.rig q with winding := w, windStart := t }

theorem RigsWind.of_rigs {s u : State} (h : u.rigs = s.rigs) : RigsWind s u := fun q => ⟨_, _, by rw [State.rig, h]; rfl⟩

theorem RigsWind.trans {s t u : State} (h : RigsWind s t) (h' : RigsWind t u) : RigsWind s u := fun q => by
  obtain ⟨w, x, he⟩ := h q
  obtain ⟨w', x', he'⟩ := h' q
  exact ⟨w', x', by rw [he', he]⟩

theorem beginWindDown_winds (p : Nat) (s : State) : RigsWind s (beginWindDown p s) := by
  unfold beginWindDown
  dsimp only
  split
  · exact .of_rigs rfl
  · intro q
    by_cases hq : q = p
    · subst hq
      exact ⟨true, s.time, rig_setRig_self q _ s⟩
    · exact ⟨_, _, otherRigs_setRig p _ s q hq⟩

theorem lossesKeep_winds : LossesKeep RigsWind where
  refl _ := .of_rigs rfl
  trans _ _ _ := .trans
  set _ _ _ _ := .of_rigs rfl
  raise c st b s := .of_rigs (raise_keeps c st b s .rigs (by decide))
  wind := beginWindDown_winds
  still _ _ h := .of_rigs (h .rigs (by decide))

theorem slotRead_keeps (bad : Tbl Nat) (p n : Nat) (s : State) :
    KeepsBut [.regs, .seq, .out, .rigs, .memCheck, .ucs, .ropes, .rings, .svcs, .journal, .sec, .det] s (slotRead bad p n s).2 := by
  apply keepsBut_of_veil
  apply slotRead_frame <;> exact fun _ _ => rfl

/-! ## Bytes stored (09 R324, R332) -/

theorem mem_linesOf {o n k : Nat} : k ∈ linesOf o n ↔ n ≠ 0 ∧ o / 64 ≤ k ∧ k ≤ (o + n - 1) / 64 := by
  unfold linesOf
  split
  next hn => simp [hn]
  next hn =>
    rw [mem_upFrom]
    omega

theorem line_mem_linesOf {o n a : Nat} (h : o ≤ a ∧ a < o + n) : a / 64 ∈ linesOf o n := mem_linesOf.2 (by omega)

/-- The images in force and the keys of memory, by which a line is encrypted (09 R332), are the same. -/
def SameKeys (s u : State) : Prop := u.rigs = s.rigs ∧ u.sec.mem = s.sec.mem

theorem SameKeys.trans {s t u : State} (h : SameKeys s t) (h' : SameKeys t u) : SameKeys s u := ⟨h'.1.trans h.1, h'.2.trans h.2⟩

theorem imageOf_congr {s u : State} (h : u.rigs = s.rigs) (p : Nat) : u.imageOf p = s.imageOf p := by
  rw [State.imageOf, State.image?, State.rig, h]
  rfl

theorem regionAt_congr {s u : State} (h : u.rigs = s.rigs) (o : Nat) : u.regionAt o = s.regionAt o := by
  unfold State.regionAt State.loaded State.imageOf State.image? State.rig
  rw [h]

theorem SameKeys.slotKey {s u : State} (h : SameKeys s u) (n i : Nat) : u.slotKey n i = s.slotKey n i := by
  rw [State.slotKey, regionAt_congr h.1, h.2]
  rfl

theorem SameKeys.lineClear {s u : State} (h : SameKeys s u) {n : Nat} (hkey : tget 0 u.memKey n = tget 0 s.memKey n)
    (hepoch : tget 0 u.memEpoch n = tget 0 s.memEpoch n) : u.lineClear n = s.lineClear n := by
  rw [State.lineClear, State.readKey, hkey, hepoch, h.slotKey]
  rfl

theorem debugAccess_memKeys (p : Nat) (write : Bool) (addr len : Nat) (s : State) :
    (debugAccess p write addr len s).sec.mem = s.sec.mem := by
  unfold debugAccess
  extract_lets f r w
  split
  extract_lets u
  have hu : u.sec.mem = s.sec.mem := by
    unfold u
    split
    · rfl
    · rw [journalWrite_frame (φ := State.sec) (fun _ _ => rfl) (fun _ _ => rfl)]
  rw [raise_frame (φ := State.sec) (fun _ _ => rfl) (fun _ _ => rfl) (fun _ _ => rfl) (fun _ _ => rfl)]
  exact hu

theorem hitInjection_memKeys (seq : Nat) (parts : List Nat) (s : State) : (hitInjection seq parts s).sec.mem = s.sec.mem := by
  have hend : ∀ u : State, (endInjection u).sec = u.sec :=
    endInjection_frame (φ := State.sec) (fun _ _ => rfl) (fun _ _ => rfl) (fun _ _ => rfl) (fun _ _ => rfl)
  unfold hitInjection
  split
  · rfl
  next i _ =>
    extract_lets a b
    have hb : b.sec.mem = s.sec.mem :=
      foldl_preserves (P := fun u => u.sec.mem = s.sec.mem) (fun u p _ hu => (debugAccess_memKeys p true i.addr 0 u).trans hu)
        (show a.sec.mem = s.sec.mem from rfl)
    split
    · exact hb
    · split
      · rw [hend]
        exact hb
      · exact hb

theorem hitLine_sameKeys (point n : Nat) (s : State) : SameKeys s (hitLine point n s) := by
  unfold hitLine
  split
  · split
    · exact ⟨(hitInjection_keeps _ _ s) .rigs (by decide), hitInjection_memKeys _ _ s⟩
    · exact ⟨rfl, rfl⟩
  · exact ⟨rfl, rfl⟩

theorem hitLine_keeps (point n : Nat) (s : State) : KeepsBut [.regs, .seq, .rings, .journal, .sec, .det] s (hitLine point n s) := by
  apply keepsBut_of_veil
  apply hitLine_frame <;> exact fun _ _ => rfl

theorem rewriteLine_sameKeys (n : Nat) (s : State) : SameKeys s (rewriteLine n s) :=
  SameKeys.trans (t := rekeyLine n (setMemCheck _ s)) ⟨rfl, rfl⟩ (hitLine_sameKeys 6 n _)

theorem rewriteLine_memKey (n : Nat) (s : State) : (rewriteLine n s).memKey = tset 0 s.memKey n (s.slotKey n (s.curSlot n)) :=
  hitLine_keeps 6 n _ .memKey (by decide)

theorem rewriteLine_memEpoch (n : Nat) (s : State) : (rewriteLine n s).memEpoch = tset 0 s.memEpoch n (s.curSlot n) :=
  hitLine_keeps 6 n _ .memEpoch (by decide)

/-- A read decrypts a rewritten line with the key it was encrypted under. -/
theorem rewriteLine_clear_self (n : Nat) (s : State) : (rewriteLine n s).lineClear n = true := by
  rw [State.lineClear, State.readKey, (rewriteLine_sameKeys n s).slotKey, rewriteLine_memKey, rewriteLine_memEpoch, tget_tset_self,
    tget_tset_self, beq_self_eq_true]

theorem rewriteLine_clear_other {n k : Nat} (h : k ≠ n) (s : State) : (rewriteLine n s).lineClear k = s.lineClear k :=
  (rewriteLine_sameKeys n s).lineClear (by rw [rewriteLine_memKey, tget_tset_other _ _ h])
    (by rw [rewriteLine_memEpoch, tget_tset_other _ _ h])

/-- The lines of a list rewritten one after another. -/
def rewriteLines (l : List Nat) (s : State) : State := l.foldl (fun s n => rewriteLine n s) s

theorem rewriteLines_clear_of_mem {l : List Nat} {k : Nat} (hk : k ∈ l) (s : State) : (rewriteLines l s).lineClear k = true := by
  refine foldl_establishes (P := fun u => u.lineClear k = true) hk (rewriteLine_clear_self k) (fun u n _ hu => ?_) s
  by_cases h : k = n
  · exact h ▸ rewriteLine_clear_self k u
  · exact (rewriteLine_clear_other h u).trans hu

theorem rewriteLines_clear_of_not_mem {l : List Nat} {k : Nat} (hk : k ∉ l) (s : State) :
    (rewriteLines l s).lineClear k = s.lineClear k :=
  foldl_preserves (P := fun u => u.lineClear k = s.lineClear k)
    (fun u _ hn hu => (rewriteLine_clear_other (ne_of_mem_of_not_mem hn hk).symm u).trans hu) rfl

theorem rewriteLines_mem (l : List Nat) (s : State) : (rewriteLines l s).mem = s.mem :=
  foldl_preserves (g := fun s n => rewriteLine n s) (P := fun u => u.mem = s.mem)
    (fun _ n _ hu => Eq.trans (hitLine_keeps 6 n _ .mem (by decide)) hu) rfl

theorem rawBytes_length (s : State) (o n : Nat) : (s.rawBytes o n).length = n := by
  rw [State.rawBytes, List.length_map, upFrom_eq_range', List.length_range']

theorem lineData_length (s : State) (n : Nat) : (s.lineData n).length = 64 := by
  unfold State.lineData State.cipher
  dsimp only
  split
  · exact rawBytes_length s _ _
  · split
    · split
      · exact rawBytes_length s _ _
      · exact fit_length _ _ _
    · exact fit_length _ _ _

theorem settleLine_memByte {n a : Nat} (h : a / 64 ≠ n) (s : State) : (settleLine n s).memByte a = s.memByte a := by
  unfold settleLine
  split
  · rfl
  · have hlength := lineData_length s n
    rw [memByte_pokeBytes, dif_neg (by omega)]

theorem settleLine_keeps (n : Nat) (s : State) : KeepsBut [.mem] s (settleLine n s) :=
  keepsBut_of_veil (settleLine_frame (fun _ _ => rfl) n s)

/-- The lines of a list settled one after another. -/
def settleLines (l : List Nat) (s : State) : State := l.foldl (fun s n => settleLine n s) s

theorem settleLines_keeps (l : List Nat) (s : State) : KeepsBut [.mem] s (settleLines l s) :=
  foldl_keeps (fun u n _ => settleLine_keeps n u) s

theorem settleLines_memByte {l : List Nat} {a : Nat} (h : a / 64 ∉ l) (s : State) : (settleLines l s).memByte a = s.memByte a :=
  foldl_preserves (P := fun u => u.memByte a = s.memByte a)
    (fun u _ hn hu => (settleLine_memByte (ne_of_mem_of_not_mem hn h).symm u).trans hu) rfl

theorem storeBytes_eq (o : Nat) (l : List Byte) (s : State) : storeBytes o l s =
    rewriteLines (linesOf o l.length) (pokeBytes o l (settleLines (linesOf o l.length) s)) := rfl

theorem storeBytes_memByte (o : Nat) (l : List Byte) (s : State) (a : Nat) : (storeBytes o l s).memByte a
    = (pokeBytes o l (settleLines (linesOf o l.length) s)).memByte a := by
  rw [State.memByte, storeBytes_eq, rewriteLines_mem]
  rfl

theorem storeBytes_memByte_in {o : Nat} {l : List Byte} {a : Nat} (h : o ≤ a ∧ a < o + l.length) (s : State) :
    (storeBytes o l s).memByte a = l[a - o]'(by omega) := by
  rw [storeBytes_memByte, memByte_pokeBytes, dif_pos h]

theorem storeBytes_memByte_out {o : Nat} {l : List Byte} {a : Nat} (h : a / 64 ∉ linesOf o l.length) (s : State) :
    (storeBytes o l s).memByte a = s.memByte a := by
  rw [storeBytes_memByte, memByte_pokeBytes, dif_neg fun ha => h (line_mem_linesOf ha), settleLines_memByte h]

theorem storeBytes_clear_self {o : Nat} {l : List Byte} {k : Nat} (h : k ∈ linesOf o l.length) (s : State) :
    (storeBytes o l s).lineClear k = true := rewriteLines_clear_of_mem h _

theorem storeBytes_clear_other {o : Nat} {l : List Byte} {k : Nat} (h : k ∉ linesOf o l.length) (s : State) :
    (storeBytes o l s).lineClear k = s.lineClear k := by
  have hsettle := settleLines_keeps (linesOf o l.length) s
  have hkeys : SameKeys s (pokeBytes o l (settleLines (linesOf o l.length) s)) :=
    ⟨hsettle .rigs (by decide), congrArg Sec.mem (hsettle .sec (by decide))⟩
  exact (rewriteLines_clear_of_not_mem h _).trans (hkeys.lineClear (congrArg (tget 0 · k) (hsettle .memKey (by decide)))
    (congrArg (tget 0 · k) (hsettle .memEpoch (by decide))))

theorem memBytes_of_clear {s : State} {o n : Nat} (h : ∀ k ∈ linesOf o n, s.lineClear k = true) : s.memBytes o n = s.rawBytes o n := by
  rw [State.memBytes, if_pos (List.all_eq_true.2 h)]

theorem rawBytes_eq {s : State} {o : Nat} {l : List Byte} (h : ∀ i (hi : i < l.length), s.memByte (o + i) = l[i]) :
    s.rawBytes o l.length = l := by
  refine List.ext_getElem (rawBytes_length s o _) fun i _ hi => ?_
  simp only [State.rawBytes, upFrom_eq_range', List.getElem_map, List.getElem_range', Nat.one_mul]
  exact h i hi

/-- Bytes stored are read again. -/
theorem storeBytes_reads (o : Nat) (l : List Byte) (s : State) : (storeBytes o l s).memBytes o l.length = l := by
  rw [memBytes_of_clear fun _ hk => storeBytes_clear_self hk s]
  refine rawBytes_eq fun i hi => ?_
  rw [storeBytes_memByte_in (by omega)]
  simp only [Nat.add_sub_cancel_left]

/-- Bytes of lines that a store does not touch are read as they were. -/
theorem storeBytes_reads_apart {o n b : Nat} {l : List Byte} {s : State} (hclear : ∀ k ∈ linesOf o n, s.lineClear k = true)
    (hapart : ∀ k ∈ linesOf o n, k ∉ linesOf b l.length) : (storeBytes b l s).memBytes o n = s.memBytes o n := by
  rw [memBytes_of_clear hclear, memBytes_of_clear fun k hk => (storeBytes_clear_other (hapart k hk) s).trans (hclear k hk)]
  refine List.map_congr_left fun a ha => storeBytes_memByte_out (hapart _ (line_mem_linesOf (mem_upFrom.1 ha))) s

/-! ## The image slot written (03 R108) -/

theorem slotWrite_reads_second (p : Nat) (l : List Byte) (s : State) :
    (slotWrite p l s).memBytes (imageSlot p + 2 ^ 28) l.length = l := storeBytes_reads _ l _

section
variable {l : List Byte} (hl : l.length ≤ 2 ^ 28) (p : Nat) (s : State)
include hl

theorem slotWrite_reads_first : (slotWrite p l s).memBytes (imageSlot p) l.length = l := by
  refine (storeBytes_reads_apart (fun k hk => storeBytes_clear_self hk s) fun k hk hk' => ?_).trans (storeBytes_reads _ l s)
  rw [mem_linesOf] at hk hk'
  unfold imageSlot reservedBase at hk hk'
  omega

theorem slotWrite_bytesBut : BytesBut (imageSlot p) 0x2000_0000 s (slotWrite p l s) := fun o ho => by
  have hout : ∀ b, b = imageSlot p ∨ b = imageSlot p + 2 ^ 28 → o / 64 ∉ linesOf b l.length := fun b hb hline => by
    rw [mem_linesOf] at hline
    unfold imageSlot reservedBase at hb ho
    omega
  exact (storeBytes_memByte_out (hout _ (.inr rfl)) _).trans (storeBytes_memByte_out (hout _ (.inl rfl)) s)

end

theorem slotWrite_keeps (p : Nat) (l : List Byte) (s : State) :
    KeepsBut [.regs, .seq, .mem, .memCheck, .memEpoch, .memKey, .rings, .journal, .sec, .det] s (slotWrite p l s) := by
  apply keepsBut_of_veil
  apply slotWrite_frame <;> exact fun _ _ => rfl

/-! ## A load begins (03 R106, R110, R121, R124) -/

theorem perform_partOk {p : Nat} (hp : p < 8) (f : State → State) (s : State) : perform (partOk p) f s = perform true f s := by
  rw [partOk, decide_eq_true hp]

section
variable {c : Instr} {p b : Nat} {value : W32} {f : State → State} {s : State} (hp : p < 8) (hc : exec c s = rigCtrl p b value f s)
include hp hc

/-- A write of RIG_CTRL with the bit of a command alone has the command's effect. -/
theorem rigCtrl_gives {t : State} {P : State → Prop} (hv : bits value.toNat 0 3 = b) (hup : s.pkg ≠ .boot)
    (hf : f { s with out := [] } = t) (hq : t.pending = s.pending) (h : P t) : Gives c s P :=
  gives_value (hc.trans (perform_partOk hp _ s)) ((if_neg (by simpa using hup)).trans ((if_pos hv).trans hf)) hq h

/-- A write of RIG_CTRL with other bits, or in a state in which the command does nothing, is ignored. -/
theorem rigCtrl_ignored (h : bits value.toNat 0 3 ≠ b ∨ f { s with out := [] } = { s with out := [] }) :
    Gives c s (KeepsBut [.out] s) := by
  refine gives_still (hc.trans (perform_partOk hp _ s)) ?_
  unfold whenUp
  split
  · rfl
  · split
    next hv => exact h.resolve_left (not_not.2 hv)
    · rfl

end

theorem writes_unset {R : Nat → Prop} {f : Fld} (hf : R f.key) (s : State) : Writes R s (s.unset f) :=
  fun _ hg => get_unset_other s fun e => hg (e ▸ hf)

/-- The error registers of a load at their reset values. -/
def errorsReset (p : Nat) (s : State) : State :=
  s |> unset (Reg.RIG_ERROR_CODE p) |> unset (Reg.RIG_ERROR_SECTION p) |> unset (Reg.RIG_ERROR_GF_VALID p)
    |> unset (Reg.RIG_ERROR_GF p) |> unset (Reg.RIG_ERROR_ENTRY_ENTRY p)

/-- The fields of RIG_ERROR and RIG_ERROR_ENTRY of a partition. -/
def isErrorField (p k : Nat) : Prop := k / 64 = 0x408008 + p * 0x80 ∨ k / 64 = 0x40800c + p * 0x80

theorem errorsReset_keeps (p : Nat) (s : State) : KeepsBut [.regs] s (errorsReset p s) := keepsBut_regs s _

theorem errorsReset_writes (p : Nat) (s : State) : Writes (isErrorField p) s (errorsReset p s) := by
  refine (writes_unset ?_ s).trans ((writes_unset ?_ _).trans ((writes_unset ?_ _).trans
    ((writes_unset ?_ _).trans (writes_unset ?_ _)))) <;>
  simp only [isErrorField, Fld.key, Reg.RIG_ERROR_CODE, Reg.RIG_ERROR_SECTION, Reg.RIG_ERROR_GF_VALID, Reg.RIG_ERROR_GF,
    Reg.RIG_ERROR_ENTRY_ENTRY] <;> omega

theorem errorsReset_code (p : Nat) (s : State) : (errorsReset p s).get (Reg.RIG_ERROR_CODE p) = 0 := by
  rw [errorsReset, get_unset_other _ (by simp only [Fld.key, Reg.RIG_ERROR_CODE, Reg.RIG_ERROR_ENTRY_ENTRY]; omega),
    get_unset_other _ (by simp only [Fld.key, Reg.RIG_ERROR_CODE, Reg.RIG_ERROR_GF]; omega),
    get_unset_other _ (by simp only [Fld.key, Reg.RIG_ERROR_CODE, Reg.RIG_ERROR_GF_VALID]; omega),
    get_unset_other _ (by simp only [Fld.key, Reg.RIG_ERROR_CODE, Reg.RIG_ERROR_SECTION]; omega)]
  exact get_unset_self _ _

theorem errorsReset_section (p : Nat) (s : State) : (errorsReset p s).get (Reg.RIG_ERROR_SECTION p) = 0xFF := by
  rw [errorsReset, get_unset_other _ (by simp only [Fld.key, Reg.RIG_ERROR_SECTION, Reg.RIG_ERROR_ENTRY_ENTRY]; omega),
    get_unset_other _ (by simp only [Fld.key, Reg.RIG_ERROR_SECTION, Reg.RIG_ERROR_GF]; omega),
    get_unset_other _ (by simp only [Fld.key, Reg.RIG_ERROR_SECTION, Reg.RIG_ERROR_GF_VALID]; omega)]
  exact get_unset_self _ _

theorem errorsReset_entry (p : Nat) (s : State) : (errorsReset p s).get (Reg.RIG_ERROR_ENTRY_ENTRY p) = 0xFFFF_FFFF :=
  get_unset_self _ _

theorem loading_iff (s : State) : s.loading = true ↔ ∃ q, q < 8 ∧ 1 ≤ s.ldState q ∧ s.ldState q ≤ 5 := by
  simp [State.loading, allParts, mem_upFrom]

theorem loading_congr {s u : State} (h : ∀ q, u.ldState q = s.ldState q) : u.loading = s.loading := by
  simp only [State.loading, h]

/-- The load goes into FETCH, and its image is read from the host. -/
def fetchBegun (p : Nat) (s : State) : State :=
  setLd p Ld.fetch s |> put (.hostRead 0 (s.get (Reg.RIG_SRC_ADDR_ADDR p) * 4096) (s.get (Reg.RIG_SRC_LEN_LEN p)))

/-- What START does once the error registers are reset. -/
def startChecked (p : Nat) (s : State) : State :=
  if !s.on Reg.PKG_ID_LOCK then refuseLoad p (plainFail 0x07) s
  else if s.pkg ≠ .ready && s.pkg ≠ .service then refuseLoad p (plainFail 0x08) s
  else if s.partState p ≠ partAssigned then refuseLoad p (plainFail 0x09) s
  else if s.loading then refuseLoad p (plainFail 0x21) s
  else fetchBegun p s

/-- What START does. -/
def started (p : Nat) (s : State) : State :=
  if s.ldState p ≠ Ld.idle && s.ldState p ≠ Ld.refused then s else startChecked p (errorsReset p s)

theorem exec_rigStart_eq (p : Nat) (value : W32) (s : State) : exec (.rigStart ⟨p, value⟩) s = rigCtrl p 1 value (started p) s := rfl

theorem fetchBegun_keeps (p : Nat) (s : State) : KeepsBut [.regs, .out] s (fetchBegun p s) :=
  ((keepsBut_set _ _ _).mono (by decide)).trans ((keepsBut_out _ _).mono (by decide))

/-- START in IDLE or REFUSED, with the bits of a write that are START's alone. -/
structure Starting (p : Nat) (value : W32) (s : State) : Prop where
  part : p < 8
  up : s.pkg ≠ .boot
  idle : s.ldState p = 0 ∨ s.ldState p = 7
  alone : bits value.toNat 0 3 = 1

/-- The state whose Start checks are made. -/
def startState (p : Nat) (s : State) : State := errorsReset p { s with out := [] }

theorem startState_keeps (p : Nat) (s : State) : KeepsBut [.regs, .out] s (startState p s) :=
  ((keepsBut_out s []).mono (by decide)).trans ((errorsReset_keeps p _).mono (by decide))

theorem startState_ldState (p q : Nat) (s : State) : (startState p s).ldState q = s.ldState q :=
  errorsReset_writes p _ _ (by simp only [isErrorField, Fld.key, Reg.RIG_STATUS_STATE]; omega)

theorem startState_partState (p q : Nat) (s : State) (hq : q < 8) : (startState p s).partState q = s.partState q :=
  errorsReset_writes p _ _ (by simp only [isErrorField, Fld.key, partFld]; omega)

theorem startState_lock (p : Nat) (s : State) : (startState p s).on Reg.PKG_ID_LOCK = s.on Reg.PKG_ID_LOCK :=
  congrArg (· == 1) (errorsReset_writes p _ Reg.PKG_ID_LOCK (by simp only [isErrorField, Fld.key, Reg.PKG_ID_LOCK]; omega))

theorem startState_loading (p : Nat) (s : State) : (startState p s).loading = s.loading :=
  loading_congr fun q => startState_ldState p q s

section
variable {p : Nat} {value : W32} {s : State} (h : Starting p value s)
include h

theorem Starting.started_eq : started p { s with out := [] } = startChecked p (startState p s) :=
  if_neg (show ¬(decide (s.ldState p ≠ Ld.idle) && decide (s.ldState p ≠ Ld.refused)) = true by
    rcases h.idle with hl | hl <;> simp [hl, Ld.idle, Ld.refused])

theorem Starting.gives {t : State} {P : State → Prop} (hs : startChecked p (startState p s) = t) (hq : t.pending = s.pending) (hP : P t) :
    Gives (.rigStart ⟨p, value⟩) s P :=
  rigCtrl_gives h.part (exec_rigStart_eq p value s) h.alone h.up (h.started_eq.trans hs) hq hP

/-- A Start check that fails refuses the load with its code. -/
theorem Starting.refused {code : Nat} (hcode : code < 256)
    (hs : startChecked p (startState p s) = refuseLoad p (plainFail code) (startState p s)) :
    Gives (.rigStart ⟨p, value⟩) s (LoadRefused p code s) := by
  have hk := startState_keeps p s
  exact h.gives hs ((refuseLoad_keeps p _ _ .pending (by decide)).trans (hk .pending (by decide)))
    (refuseLoad_refused (f := plainFail code) hcode hk (by decide) (by decide))

/-- With no check that fails the image is read from the host. -/
theorem Starting.fetches (hs : startChecked p (startState p s) = fetchBegun p (startState p s)) :
    Gives (.rigStart ⟨p, value⟩) s fun u =>
      KeepsBut [.regs, .out] s u ∧ u.ldState p = 1 ∧ u.get (Reg.RIG_ERROR_CODE p) = 0
        ∧ u.get (Reg.RIG_ERROR_SECTION p) = 0xFF ∧ u.get (Reg.RIG_ERROR_ENTRY_ENTRY p) = 0xFFFF_FFFF
        ∧ u.out = [.hostRead 0 (s.get (Reg.RIG_SRC_ADDR_ADDR p) * 4096) (s.get (Reg.RIG_SRC_LEN_LEN p))] := by
  have hk : KeepsBut [.regs, .out] s (fetchBegun p (startState p s)) := (startState_keeps p s).trans (fetchBegun_keeps p _)
  have hget : ∀ f : Fld, f.key / 64 ≠ 0x408004 + p * 0x80 → (fetchBegun p (startState p s)).get f = (startState p s).get f :=
    fun f hf => get_set_other _ _ fun e => hf (by rw [e]; simp only [Fld.key, Reg.RIG_STATUS_STATE]; omega)
  have haddr : (startState p s).get (Reg.RIG_SRC_ADDR_ADDR p) = s.get (Reg.RIG_SRC_ADDR_ADDR p) :=
    errorsReset_writes p _ _ (by simp only [isErrorField, Fld.key, Reg.RIG_SRC_ADDR_ADDR]; omega)
  have hlen : (startState p s).get (Reg.RIG_SRC_LEN_LEN p) = s.get (Reg.RIG_SRC_LEN_LEN p) :=
    errorsReset_writes p _ _ (by simp only [isErrorField, Fld.key, Reg.RIG_SRC_LEN_LEN]; omega)
  refine h.gives hs (hk .pending (by decide)) ⟨hk, get_set_self _ _ _, (hget _ ?_).trans (errorsReset_code p _),
    (hget _ ?_).trans (errorsReset_section p _), (hget _ ?_).trans (errorsReset_entry p _), ?_⟩
  · simp only [Fld.key, Reg.RIG_ERROR_CODE]
    omega
  · simp only [Fld.key, Reg.RIG_ERROR_SECTION]
    omega
  · simp only [Fld.key, Reg.RIG_ERROR_ENTRY_ENTRY]
    omega
  · rw [← haddr, ← hlen]
    rfl

end

/-- The Start checks, in their order. -/
theorem startChecked_cases {p : Nat} {s : State} (hp : p < 8) :
    let x := startState p s
    let lock := s.get Reg.PKG_ID_LOCK = 1
    let up := s.pkg = .ready ∨ s.pkg = .service
    let assigned := s.partState p = 1
    let busy := ∃ q, q < 8 ∧ 1 ≤ s.ldState q ∧ s.ldState q ≤ 5
    (¬lock → startChecked p x = refuseLoad p (plainFail 0x07) x)
    ∧ (lock → ¬up → startChecked p x = refuseLoad p (plainFail 0x08) x)
    ∧ (lock → up → ¬assigned → startChecked p x = refuseLoad p (plainFail 0x09) x)
    ∧ (lock → up → assigned → busy → startChecked p x = refuseLoad p (plainFail 0x21) x)
    ∧ (lock → up → assigned → ¬busy → startChecked p x = fetchBegun p x) := by
  intro x lock up assigned busy
  have hlock : (!x.on Reg.PKG_ID_LOCK) = true ↔ ¬lock := by
    rw [startState_lock]
    simp [lock, State.on]
  have hup : (x.pkg ≠ .ready && x.pkg ≠ .service) = true ↔ ¬up := by
    simp [x, up, show (startState p s).pkg = s.pkg from startState_keeps p s .pkg (by decide)]
  have hassigned : x.partState p ≠ partAssigned ↔ ¬assigned := by
    rw [startState_partState p p s hp]
    rfl
  have hbusy : x.loading = true ↔ busy := by
    rw [startState_loading]
    exact loading_iff s
  simp only [startChecked, hlock, hup, hassigned, hbusy]
  exact ⟨fun h => if_pos h, fun h h1 => by rw [if_neg (not_not.2 h), if_pos h1],
    fun h h1 h2 => by rw [if_neg (not_not.2 h), if_neg (not_not.2 h1), if_pos h2],
    fun h h1 h2 h3 => by rw [if_neg (not_not.2 h), if_neg (not_not.2 h1), if_neg (not_not.2 h2), if_pos h3],
    fun h h1 h2 h3 => by rw [if_neg (not_not.2 h), if_neg (not_not.2 h1), if_neg (not_not.2 h2), if_neg h3]⟩

theorem rigStartChecks : Claims.RigStartChecks := by
  intro p value s hp hboot open_ lock up assigned busy gives
  obtain ⟨hunlocked, hdown, hunassigned, hbusy, hfree⟩ := startChecked_cases (s := s) hp
  refine ⟨fun hv => ?_, fun ho hl hv => ?_, fun ho hl hu hv => ?_, fun ho hl hu ha hv => ?_, fun ho hl hu ha hb hv => ?_,
    fun ho hl hu ha hb hv => ?_, fun ho hv => ?_⟩
  · exact rigCtrl_ignored hp (exec_rigStart_eq p value s) (.inl hv)
  · exact Starting.refused ⟨hp, hboot, ho, hv⟩ (by decide) (hunlocked hl)
  · exact Starting.refused ⟨hp, hboot, ho, hv⟩ (by decide) (hdown hl hu)
  · exact Starting.refused ⟨hp, hboot, ho, hv⟩ (by decide) (hunassigned hl hu ha)
  · exact Starting.refused ⟨hp, hboot, ho, hv⟩ (by decide) (hbusy hl hu ha hb)
  · exact Starting.fetches ⟨hp, hboot, ho, hv⟩ (hfree hl hu ha hb)
  · refine rigCtrl_ignored hp (exec_rigStart_eq p value s) (.inr (if_pos ?_))
    have hstate : s.ldState p ≠ 0 ∧ s.ldState p ≠ 7 := not_or.1 ho
    exact Bool.and_eq_true_iff.2 ⟨decide_eq_true hstate.1, decide_eq_true hstate.2⟩

/-! ## A load is fetched or given up (03 R108, R110, R112 to R114) -/

/-- A command on a partition's loader that has its effect. -/
theorem loader_gives {c : Instr} {p : Nat} {f : State → State} {s t : State} {P : State → Prop} (hp : p < 8)
    (hc : exec c s = perform (partOk p) f s) (hf : f { s with out := [] } = t) {l : List Area} (hk : KeepsBut l { s with out := [] } t)
    (hl : .pending ∉ l) (h : P t) : Gives c s P :=
  gives_value (hc.trans (perform_partOk hp _ s)) hf (hk .pending hl) h

/-- The fetched image in both copies of the slot. -/
def slotFetched (p : Nat) (image : List Byte) (s : State) : State := s |> slotWrite p (fit 0 (s.srcLen p) image) |> setLd p Ld.verify

theorem exec_rigFetchComplete_eq (p : Nat) (image : List Byte) (s : State) : exec (.rigFetchComplete p image) s =
    perform (partOk p) (fun s => if s.ldState p ≠ Ld.fetch then s else slotFetched p image s) s := rfl

theorem memBytes_setLd (p st o n : Nat) (s : State) : (setLd p st s).memBytes o n = s.memBytes o n := rfl

theorem rigFetchComplete_gives {p : Nat} (image : List Byte) {s : State} (hp : p < 8) (hld : s.ldState p = 1) :
    Gives (.rigFetchComplete p image) s fun u =>
      let n := s.srcLen p
      u.ldState p = 2 ∧ u.memBytes (imageSlot p) n = fit 0 n image
      ∧ u.memBytes (imageSlot p + 2 ^ 28) n = fit 0 n image
      ∧ BytesBut (imageSlot p) 0x2000_0000 s u ∧ u.rigs = s.rigs := by
  have hlen : (fit 0 (s.srcLen p) image).length = s.srcLen p := fit_length _ _ _
  have hle : (fit 0 (s.srcLen p) image).length ≤ 2 ^ 28 := hlen.trans_le (Nat.min_le_right _ _)
  have hwrite := slotWrite_keeps p (fit 0 (s.srcLen p) image) { s with out := [] }
  have hfirst := slotWrite_reads_first hle p { s with out := [] }
  have hsecond := slotWrite_reads_second p (fit 0 (s.srcLen p) image) { s with out := [] }
  rw [hlen] at hfirst hsecond
  have hk : KeepsBut [.regs, .seq, .mem, .memCheck, .memEpoch, .memKey, .rings, .journal, .sec, .det] { s with out := [] }
      (slotFetched p image { s with out := [] }) := hwrite.trans ((keepsBut_set _ _ _).mono (by decide))
  refine loader_gives hp (exec_rigFetchComplete_eq p image s) (if_neg (not_not.2 hld)) hk (by decide) ⟨get_set_self _ _ _, ?_, ?_, ?_, ?_⟩
  · exact (memBytes_setLd p _ _ _ _).trans hfirst
  · exact (memBytes_setLd p _ _ _ _).trans hsecond
  · exact bytesBut_congr (slotWrite_bytesBut hle p { s with out := [] }) rfl rfl
  · exact hk .rigs (by decide)

/-- A load that is given up with a code, after what was undone of it. -/
theorem load_gives_refused {c : Instr} {p code : Nat} {f : State → State} {s t : State} {l : List Area} {P : State → Prop} (hp : p < 8)
    (hc : exec c s = perform (partOk p) f s) (hf : f { s with out := [] } = refuseLoad p (plainFail code) t) (hcode : code < 256)
    (hk : KeepsBut l { s with out := [] } t) (hrigs : .rigs ∉ l) (hmem : .mem ∉ l) (hpending : .pending ∉ l)
    (h : LoadRefused p code s (refuseLoad p (plainFail code) t) → P (refuseLoad p (plainFail code) t)) : Gives c s P :=
  gives_value (hc.trans (perform_partOk hp _ s)) hf
    ((refuseLoad_keeps p _ _ .pending (by decide)).trans (hk .pending hpending))
    (h (refuseLoad_refused (f := plainFail code) hcode
      (((keepsBut_out s []).mono (List.subset_append_right l [.out])).trans (hk.mono (List.subset_append_left l [.out])))
      (by simpa using hrigs) (by simpa using hmem)))

theorem fetchFailed_gives {p : Nat} {s : State} (hp : p < 8) (hld : s.ldState p = 1) :
    Gives (.fetchFailed p) s (LoadRefused p 0x20 s) :=
  load_gives_refused hp rfl (if_pos hld) (by decide) (.refl [] _) (by decide) (by decide) (by decide) id

theorem applyFault_gives {p : Nat} {s : State} (hp : p < 8) (hld : s.ldState p = 5) : Gives (.applyFault p) s fun u =>
    LoadRefused p 0x24 s u
    ∧ ∀ r, (s.rig p).image = some r → (∀ x ∈ r.standing (s.rig p).place, x.2 < 1184) →
      ∀ x ∈ r.standing (s.rig p).place, u.get (Reg.DOMAIN_STATE_STATE x.2) = 3 :=
  load_gives_refused hp rfl (if_pos hld) (by decide) (unstage_keeps p { s with out := [] }) (by decide) (by decide) (by decide)
    fun hrefused => ⟨hrefused, fun _ hr hlt x hx => (refuseLoad_flight (hlt x hx) _ _).trans
      (unstage_state (s := { s with out := [] }) hr hx (hlt x hx))⟩

/-- What ABORT does. -/
def aborted (p : Nat) (s : State) : State :=
  if 1 ≤ s.ldState p && s.ldState p ≤ 4 then refuseLoad p (plainFail 0x22) s else s

theorem exec_rigAbort_eq (p : Nat) (value : W32) (s : State) : exec (.rigAbort ⟨p, value⟩) s = rigCtrl p 2 value (aborted p) s := rfl

theorem rigAbort_gives {p : Nat} {value : W32} {s : State} (hp : p < 8) (hv : bits value.toNat 0 3 = 2) (hup : s.pkg ≠ .boot)
    (hlow : 1 ≤ s.ldState p) (hhigh : s.ldState p ≤ 4) : Gives (.rigAbort ⟨p, value⟩) s (LoadRefused p 0x22 s) := by
  have hin : (decide (1 ≤ s.ldState p) && decide (s.ldState p ≤ 4)) = true := by simp [hlow, hhigh]
  exact rigCtrl_gives hp (exec_rigAbort_eq p value s) hv hup (if_pos hin) (refuseLoad_keeps p _ _ .pending (by decide))
    (refuseLoad_refused (f := plainFail 0x22) (by decide) (keepsBut_out s []) (by decide) (by decide))

theorem rigAbort_ignored {p : Nat} {value : W32} {s : State} (hp : p < 8)
    (h : bits value.toNat 0 3 ≠ 2 ∨ s.ldState p = 0 ∨ 5 ≤ s.ldState p) : Gives (.rigAbort ⟨p, value⟩) s (KeepsBut [.out] s) := by
  refine rigCtrl_ignored hp (exec_rigAbort_eq p value s) (h.imp_right fun hld => if_neg ?_)
  show ¬(decide (1 ≤ s.ldState p) && decide (s.ldState p ≤ 4)) = true
  simp only [Bool.and_eq_true, decide_eq_true_eq]
  omega

theorem rigFetchAndAbort : Claims.RigFetchAndAbort := fun _ image _ _ hp =>
  ⟨rigFetchComplete_gives image hp, fetchFailed_gives hp, rigAbort_gives hp, rigAbort_ignored hp, applyFault_gives hp⟩

/-- Settles O18: START by the first Start check that fails, and a fetch, an abort and a fault in APPLY by what they leave of the slot. -/
theorem loadsStart : Obligations.LoadsStart := ⟨rigStartChecks, rigFetchAndAbort⟩

/-! ## An image is verified (03 R105 to R107) -/

theorem need_of {ok : Bool} (h : ok = true) (code : Nat) : need ok code = none := if_pos h

theorem need_not {ok : Bool} (h : ¬ok = true) (code : Nat) : need ok code = some (plainFail code) := if_neg h

theorem enrolled_iff (s : State) (p : Nat) (id : List Byte) :
    s.enrolled p id = true ↔ ∃ k, k < 4 ∧ tget [] s.sec.rigKeys (p * 4 + k) = id := by
  simp [State.enrolled, mem_upFrom]

/-- The Header and Signature checks, in their order. -/
theorem checkSigned_cases (v : State) (p : Nat) (img : List Byte) :
    let n := leAt img 8 4
    let id := (img.drop 0x40).take 32
    let magic := leAt img 0 4 = 0x5247_4952
    let format := leAt img 5 1 = 1 ∧ leAt img 6 2 = 0x100
    let size := n = v.get (Reg.RIG_SRC_LEN_LEN p) ∧ 8192 ≤ n ∧ n ≤ 2 ^ 28
    let signer := ∃ k, k < 4 ∧ tget [] v.sec.rigKeys (p * 4 + k) = id
    let signed := Config.signedBy id (Config.shake256 (signedPart img) 64) ((signature img).take 3309) = true
      ∧ ∀ b ∈ (signature img).drop 3309, b = 0
    (¬magic → checkSigned v p img = some (plainFail 0x01)) ∧ (magic → ¬format → checkSigned v p img = some (plainFail 0x02))
    ∧ (magic → format → ¬size → checkSigned v p img = some (plainFail 0x03))
    ∧ (magic → format → size → ¬signer → checkSigned v p img = some (plainFail 0x05))
    ∧ (magic → format → size → signer → ¬signed → checkSigned v p img = some (plainFail 0x04))
    ∧ (magic → format → size → signer → signed → checkSigned v p img = none) := by
  intro n id magic format size signer signed
  have hmagic : (leAt img 0 4 == 0x5247_4952) = true ↔ magic := beq_iff_eq
  have hformat : (leAt img 5 1 == 1 && leAt img 6 2 == 0x100) = true ↔ format := by simp [format]
  have hsize : (n == v.get (Reg.RIG_SRC_LEN_LEN p) && decide (8192 ≤ n) && decide (n ≤ 2 ^ 28)) = true ↔ size := by
    simp [size, and_assoc]
  have hsigner : v.enrolled p id = true ↔ signer := enrolled_iff v p id
  have hsigned : (Config.signedBy id (Config.shake256 (signedPart img) 64) ((signature img).take 3309)
      && ((signature img).drop 3309).all (· == 0)) = true ↔ signed := by simp [signed]
  unfold checkSigned
  dsimp only
  refine ⟨fun h => ?_, fun h h1 => ?_, fun h h1 h2 => ?_, fun h h1 h2 h3 => ?_, fun h h1 h2 h3 h4 => ?_, fun h h1 h2 h3 h4 => ?_⟩
  · rw [need_not (mt hmagic.1 h)]
    rfl
  · rw [need_of (hmagic.2 h), need_not (mt hformat.1 h1)]
    rfl
  · rw [need_of (hmagic.2 h), need_of (hformat.2 h1), need_not (mt hsize.1 h2)]
    rfl
  · rw [need_of (hmagic.2 h), need_of (hformat.2 h1), need_of (hsize.2 h2), need_not (mt hsigner.1 h3)]
    rfl
  · rw [need_of (hmagic.2 h), need_of (hformat.2 h1), need_of (hsize.2 h2), need_of (hsigner.2 h3), need_not (mt hsigned.1 h4)]
    rfl
  · rw [need_of (hmagic.2 h), need_of (hformat.2 h1), need_of (hsize.2 h2), need_of (hsigner.2 h3), need_of (hsigned.2 h4)]
    rfl

theorem setMeasure_keeps (p : Nat) (d : List Byte) (s : State) : KeepsBut [.regs] s (setMeasure p d s) :=
  foldl_keeps (fun u _ _ => keepsBut_set _ _ u) s

theorem setMeasure_get {w : Nat} (hw : w < 16) (p : Nat) (d : List Byte) (s : State) :
    (setMeasure p d s).get (Reg.RIG_MEASURE p w) = leAt d (4 * w) 4 := by
  have hset : ∀ u : State, (u.set (Reg.RIG_MEASURE p w) (leAt d (4 * w) 4)).get (Reg.RIG_MEASURE p w) = leAt d (4 * w) 4 := fun u =>
    (get_set_self _ _ u).trans (leAt4_mod d (4 * w))
  refine foldl_establishes (P := fun u => u.get (Reg.RIG_MEASURE p w) = leAt d (4 * w) 4) (mem_upFrom.2 ⟨Nat.zero_le w, by omega⟩) hset
    (fun u y _ hu => ?_) s
  by_cases hy : w = y
  · exact hy ▸ hset u
  · exact (get_set_other _ u (by simp only [Fld.key, Reg.RIG_MEASURE]; omega)).trans hu

/-- VERIFY's end with the image read. -/
def verified (p : Nat) (img : List Byte) (v : State) : State :=
  match checkSigned v p img with
  | some f => refuseLoad p f v
  | none => v |> setMeasure p (Config.shake256 (signedPart img) 64) |> setLd p Ld.validate

/-- What comes of a read of the slot: a load whose image no copy supplies is refused. -/
def onSlot (p : Nat) (f : List Byte → State → State) (x : Option (List Byte) × State) : State :=
  match x with
  | (none, v) => refuseLoad p (plainFail 0x24) v
  | (some img, v) => f img v

theorem exec_rigVerifyComplete_eq (p : Nat) (bad : List (Nat × Nat)) (s : State) : exec (.rigVerifyComplete p bad) s =
    perform (partOk p) (fun s => if s.ldState p ≠ Ld.verify then s else onSlot p (verified p) (slotRead bad p (s.srcLen p) s)) s := rfl

/-- A step of a load that reads its slot. -/
theorem onSlot_gives {c : Instr} {p st : Nat} {bad : Tbl Nat} {f : List Byte → State → State} {s v : State} {img : List Byte}
    {P : State → Prop} (hp : p < 8)
    (hc : exec c s = perform (partOk p) (fun s => if s.ldState p ≠ st then s else onSlot p f (slotRead bad p (s.srcLen p) s)) s)
    (hld : s.ldState p = st) (hread : slotRead bad p (s.srcLen p) { s with out := [] } = (some img, v))
    (hq : (f img v).pending = v.pending) (h : P (f img v)) : Gives c s P := by
  have hslot : onSlot p f (slotRead bad p (s.srcLen p) { s with out := [] }) = f img v := congrArg (onSlot p f) hread
  have hv : v.pending = s.pending := by
    have hk := slotRead_keeps bad p (s.srcLen p) { s with out := [] } .pending (by decide)
    rwa [hread] at hk
  exact gives_value (hc.trans (perform_partOk hp _ s)) ((if_neg (not_not.2 hld)).trans hslot) (hq.trans hv) h

theorem verified_refused {v : State} {p code : Nat} {img : List Byte} (hcode : code < 256)
    (h : checkSigned v p img = some (plainFail code)) : (verified p img v).pending = v.pending ∧
    LoadRefused p code v (verified p img v) := by
  rw [verified, h]
  exact ⟨refuseLoad_keeps p _ v .pending (by decide),
    refuseLoad_refused (f := plainFail code) hcode (.refl [] v) (by decide) (by decide)⟩

theorem verified_passed {v : State} {p : Nat} {img : List Byte} (h : checkSigned v p img = none) :
    (verified p img v).pending = v.pending ∧ (verified p img v).ldState p = 3 ∧ (verified p img v).mem = v.mem
    ∧ (verified p img v).rigs = v.rigs
    ∧ ∀ w, w < 16 → (verified p img v).get (Reg.RIG_MEASURE p w) = leAt (Config.shake256 (signedPart img) 64) (4 * w) 4 := by
  rw [verified, h]
  have hk : KeepsBut [.regs] v (v |> setMeasure p (Config.shake256 (signedPart img) 64) |> setLd p Ld.validate) :=
    (setMeasure_keeps p _ v).trans (keepsBut_set _ _ _)
  exact ⟨hk .pending (by decide), get_set_self _ _ _, hk .mem (by decide), hk .rigs (by decide), fun w hw =>
    (get_set_other _ _ (by simp only [Fld.key, Reg.RIG_MEASURE, Reg.RIG_STATUS_STATE]; omega)).trans (setMeasure_get hw p _ v)⟩

theorem rigVerifyOrder : Claims.RigVerifyOrder := by
  intro p bad s v img hp hld hread n id digest magic format size signer signed refused
  obtain ⟨hmagic, hformat, hsize, hsigner, hunsigned, hpass⟩ := checkSigned_cases v p img
  have gives : ∀ {P : State → Prop}, (verified p img v).pending = v.pending → P (verified p img v) →
      Gives (.rigVerifyComplete p bad) s P :=
    onSlot_gives hp (exec_rigVerifyComplete_eq p bad s) hld hread
  have refuses : ∀ {code}, code < 256 → checkSigned v p img = some (plainFail code) → refused code := fun hcode h => by
    obtain ⟨hq, hr⟩ := verified_refused hcode h
    exact gives hq hr
  refine ⟨fun h => refuses (by decide) (hmagic h), fun h h1 => refuses (by decide) (hformat h h1),
    fun h h1 h2 => refuses (by decide) (hsize h h1 h2), fun h h1 h2 h3 => refuses (by decide) (hsigner h h1 h2 h3), fun h h1 h2 h3 => ?_⟩
  by_cases h4 : signed
  · obtain ⟨hq, hst, hmem, hrigs, hmeasure⟩ := verified_passed (hpass h h1 h2 h3 h4)
    exact gives hq ⟨fun hn => absurd h4 hn, fun _ => ⟨hst, hmem, hrigs, hmeasure⟩⟩
  · obtain ⟨hq, hr⟩ := verified_refused (code := 0x04) (by decide) (hunsigned h h1 h2 h3 h4)
    exact gives hq ⟨fun _ => hr, fun hs => absurd hs h4⟩

/-! ## An image is validated (03 R104, R106, R124) -/

theorem refuseLoad_get (p : Nat) (f : RigFail) (s : State) (g : Fld) : (refuseLoad p f s).get g = (refuseShows p f s).get g :=
  (slotClear_keeps p (refuseShows p f s)).writes (by decide) (fun _ => False) g (by simp)

/-- A refused load shows the section of its failure. -/
theorem refuseLoad_section (p : Nat) (f : RigFail) (s : State) : (refuseLoad p f s).get (Reg.RIG_ERROR_SECTION p) = f.section_ % 256 := by
  rw [refuseLoad_get, refuseShows, get_set_other _ _ (by simp only [Fld.key, Reg.RIG_ERROR_SECTION, Reg.RIG_ERROR_GF]; omega),
    get_set_other _ _ (by simp only [Fld.key, Reg.RIG_ERROR_SECTION, Reg.RIG_ERROR_GF_VALID]; omega),
    get_set_other _ _ (by simp only [Fld.key, Reg.RIG_ERROR_SECTION, Reg.RIG_ERROR_ENTRY_ENTRY]; omega)]
  exact get_set_self _ _ _

/-- A refused load shows the entry of its failure. -/
theorem refuseLoad_entry (p : Nat) (f : RigFail) (s : State) :
    (refuseLoad p f s).get (Reg.RIG_ERROR_ENTRY_ENTRY p) = f.entry % 2 ^ 32 := by
  rw [refuseLoad_get, refuseShows, get_set_other _ _ (by simp only [Fld.key, Reg.RIG_ERROR_ENTRY_ENTRY, Reg.RIG_ERROR_GF]; omega),
    get_set_other _ _ (by simp only [Fld.key, Reg.RIG_ERROR_ENTRY_ENTRY, Reg.RIG_ERROR_GF_VALID]; omega)]
  exact get_set_self _ _ _

/-- A refused load shows the flight of its failure, if it has one. -/
theorem refuseLoad_gf {p : Nat} {f : RigFail} {gf : Nat} (h : f.gf = some gf) (s : State) :
    (refuseLoad p f s).get (Reg.RIG_ERROR_GF_VALID p) = 1 ∧ (refuseLoad p f s).get (Reg.RIG_ERROR_GF p) = gf % 2 ^ 11 := by
  rw [refuseLoad_get, refuseLoad_get, refuseShows, h]
  exact ⟨(get_set_other _ _ (by simp only [Fld.key, Reg.RIG_ERROR_GF_VALID, Reg.RIG_ERROR_GF]; omega)).trans (get_set_self _ _ _),
    get_set_self _ _ _⟩

theorem refuseLoad_code_mod (p : Nat) (f : RigFail) (s : State) : refuseLoad p { f with code := f.code % 256 } s = refuseLoad p f s := by
  have hset : ∀ u : State, u.set (Reg.RIG_ERROR_CODE p) (f.code % 256) = u.set (Reg.RIG_ERROR_CODE p) f.code := fun u => by
    rw [State.set, State.set, show f.code % 256 % 2 ^ (Reg.RIG_ERROR_CODE p).width = f.code % 2 ^ (Reg.RIG_ERROR_CODE p).width from
      Nat.mod_mod f.code 256]
  simp only [refuseLoad, hset]

/-- VALIDATE's end with the image read. -/
def validated (p : Nat) (img : List Byte) (v : State) : State :=
  match validate v p img with
  | some f => refuseLoad p f v
  | none => v.setRig p { v.rig p with image := some (parseImage img) } |> setLd p Ld.place

theorem exec_rigValidateComplete_eq (p : Nat) (bad : List (Nat × Nat)) (s : State) : exec (.rigValidateComplete p bad) s =
    perform (partOk p) (fun s => if s.ldState p ≠ Ld.validate then s else onSlot p (validated p) (slotRead bad p (s.srcLen p) s)) s := rfl

theorem validated_refused {v : State} {p : Nat} {img : List Byte} {f : RigFail} (h : validate v p img = some f) :
    (validated p img v).pending = v.pending ∧ LoadRefused p (f.code % 256) v (validated p img v)
    ∧ (validated p img v).get (Reg.RIG_ERROR_SECTION p) = f.section_ % 256
    ∧ (validated p img v).get (Reg.RIG_ERROR_ENTRY_ENTRY p) = f.entry % 2 ^ 32
    ∧ ∀ gf, f.gf = some gf → (validated p img v).get (Reg.RIG_ERROR_GF_VALID p) = 1
      ∧ (validated p img v).get (Reg.RIG_ERROR_GF p) = gf % 2 ^ 11 := by
  have hcode := refuseLoad_refused (f := { f with code := f.code % 256 }) (Nat.mod_lt _ (by decide)) (.refl [] v) (by decide) (by decide)
    (p := p)
  rw [refuseLoad_code_mod] at hcode
  rw [validated, h]
  exact ⟨refuseLoad_keeps p f v .pending (by decide), hcode, refuseLoad_section p f v, refuseLoad_entry p f v,
    fun _ hgf => refuseLoad_gf hgf v⟩

theorem setRig_keeps (p : Nat) (r : Rig) (s : State) : KeepsBut [.rigs] s (s.setRig p r) :=
  keepsBut_of_veil (setRig_frame (fun _ _ => rfl) p r s)

theorem validated_passed {v : State} {p : Nat} {img : List Byte} (h : validate v p img = none) :
    (validated p img v).pending = v.pending ∧ (validated p img v).ldState p = 4
    ∧ (validated p img v).rig p = { v.rig p with image := some (parseImage img) } ∧ OtherRigs p v (validated p img v)
    ∧ (validated p img v).mem = v.mem := by
  rw [validated, h]
  have hset := keepsBut_set (Reg.RIG_STATUS_STATE p) Ld.place (v.setRig p { v.rig p with image := some (parseImage img) })
  exact ⟨rfl, get_set_self _ _ _, (hset.rig (by decide) p).trans (rig_setRig_self p _ v),
    (otherRigs_setRig p _ v).then_keeps hset (by decide), rfl⟩

theorem rigValidateComplete_gives {p : Nat} {bad : List (Nat × Nat)} {s v : State} {img : List Byte} (hp : p < 8) (hld : s.ldState p = 3)
    (hread : slotRead bad p (s.srcLen p) { s with out := [] } = (some img, v)) : Gives (.rigValidateComplete p bad) s fun u =>
      (∀ f, validate v p img = some f →
        LoadRefused p (f.code % 256) v u ∧ u.get (Reg.RIG_ERROR_SECTION p) = f.section_ % 256
        ∧ u.get (Reg.RIG_ERROR_ENTRY_ENTRY p) = f.entry % 2 ^ 32
        ∧ (∀ gf, f.gf = some gf → u.get (Reg.RIG_ERROR_GF_VALID p) = 1 ∧ u.get (Reg.RIG_ERROR_GF p) = gf % 2 ^ 11))
      ∧ (validate v p img = none →
        u.ldState p = 4 ∧ u.rig p = { v.rig p with image := some (parseImage img) } ∧ OtherRigs p v u ∧ u.mem = v.mem) := by
  refine onSlot_gives hp (exec_rigValidateComplete_eq p bad s) hld hread ?_
    ⟨fun f hf => (validated_refused hf).2, fun hn => (validated_passed hn).2⟩
  cases hv : validate v p img with
  | some f => exact (validated_refused hv).1
  | none => exact (validated_passed hv).1

/-! ## The roles of an image are placed (03 R109 to R111) -/

/-- The placement held, its flights asked up. -/
def placeHeld (p : Nat) (r : Rigging) (place : Tbl Nat) (s : State) : State :=
  stageUps r (r.standing place) (setLd p Ld.apply (s.setRig p { s.rig p with place := place }))

/-- PLACE's end with an image. -/
def imagePlaced (p : Nat) (r : Rigging) (s : State) : State :=
  match s.placement p r with
  | .inr role => refuseLoad p (s.noPlacement r role) s
  | .inl place => placeHeld p r place s

/-- PLACE's end. -/
def placeEnds (p : Nat) (s : State) : State :=
  match (s.rig p).image with
  | none => s
  | some r => imagePlaced p r s

theorem exec_rigPlaceComplete_eq (p : Nat) (s : State) : exec (.rigPlaceComplete p) s =
    perform (partOk p) (fun s => if s.ldState p ≠ Ld.place then s else placeEnds p s) s := rfl

theorem wakeAt_power (code gf : Nat) (s : State) :
    (wakeAt code gf s).power = { s.power with waking := (wakeAt code gf s).power.waking } := by
  unfold wakeAt
  split <;> rfl

/-- Asking flights up changes nothing of the power manager but what waits to leave OFF. -/
theorem stageUps_power (r : Rigging) (l : List (Nat × Nat)) (s : State) :
    (stageUps r l s).power = { s.power with waking := (stageUps r l s).power.waking } := by
  induction l generalizing s with
  | nil => rfl
  | cons x l ih =>
    have hstep : stageUps r (x :: l) s = stageUps r l (wakeAt (stageCode r x.1 x.2 s) x.2 s) := rfl
    rw [hstep, ih, wakeAt_power]

theorem imagePlaced_refused {p : Nat} {r : Rigging} {s : State} {role : Nat} (h : s.placement p r = .inr role) :
    imagePlaced p r s = refuseLoad p (s.noPlacement r role) s := by
  rw [imagePlaced, h]

theorem imagePlaced_held {p : Nat} {r : Rigging} {s : State} {place : Tbl Nat} (h : s.placement p r = .inl place) :
    imagePlaced p r s = placeHeld p r place s := by
  rw [imagePlaced, h]

theorem placeHeld_keeps (p : Nat) (r : Rigging) (place : Tbl Nat) (s : State) :
    KeepsBut [.regs, .power, .rigs] s (placeHeld p r place s) :=
  ((setRig_keeps p _ s).mono (by decide)).trans (((keepsBut_set _ _ _).mono (by decide)).trans ((stageUps_keeps r _ _).mono (by decide)))

theorem placeHeld_get {p : Nat} {f : Fld} (hf : f.key ≠ (Reg.RIG_STATUS_STATE p).key) (r : Rigging) (place : Tbl Nat) (s : State) :
    (placeHeld p r place s).get f = s.get f :=
  (stageUps_get r _ _ f).trans (get_set_other _ _ hf)

theorem placeHeld_ldState (p : Nat) (r : Rigging) (place : Tbl Nat) (s : State) : (placeHeld p r place s).ldState p = 5 :=
  (stageUps_get r _ _ _).trans (get_set_self _ _ _)

theorem placeHeld_rig (p : Nat) (r : Rigging) (place : Tbl Nat) (s : State) :
    (placeHeld p r place s).rig p = { s.rig p with place := place } ∧ OtherRigs p s (placeHeld p r place s) := by
  have hafter : KeepsBut [.regs, .power] (s.setRig p { s.rig p with place := place }) (placeHeld p r place s) :=
    ((keepsBut_set _ _ _).mono (by decide)).trans ((stageUps_keeps r _ _).mono (by decide))
  exact ⟨(hafter.rig (by decide) p).trans (rig_setRig_self p _ s), (otherRigs_setRig p _ s).then_keeps hafter (by decide)⟩

theorem placeHeld_power (p : Nat) (r : Rigging) (place : Tbl Nat) (s : State) :
    (placeHeld p r place s).power = { s.power with waking := (placeHeld p r place s).power.waking } := stageUps_power r _ _

/-- A placed flight in OFF waits to leave it. -/
theorem placeHeld_waits {p : Nat} {r : Rigging} {place : Tbl Nat} {s : State} {x : Nat × Nat} (hx : x ∈ r.standing place)
    (h : s.get (Reg.DOMAIN_STATE_STATE x.2) = 3) : tget 0 (placeHeld p r place s).power.waking x.2 ≠ 0 :=
  stageUps_off hx ((get_set_other Ld.apply (s.setRig p { s.rig p with place := place })
    (by simp only [Fld.key, Reg.DOMAIN_STATE_STATE, Reg.RIG_STATUS_STATE]; omega)).trans h) r

section
variable {p : Nat} {r : Rigging} {s : State} (hp : p < 8) (hld : s.ldState p = 4) (hr : (s.rig p).image = some r)
include hp hld hr

theorem rigPlaceComplete_gives {P : State → Prop} (hq : (imagePlaced p r { s with out := [] }).pending = s.pending)
    (h : P (imagePlaced p r { s with out := [] })) : Gives (.rigPlaceComplete p) s P := by
  have himage : placeEnds p { s with out := [] } = imagePlaced p r { s with out := [] } := by
    have hr' : (State.rig { s with out := [] } p).image = some r := hr
    rw [placeEnds, hr']
  exact gives_value ((exec_rigPlaceComplete_eq p s).trans (perform_partOk hp _ s))
    ((if_neg (not_not.2 hld)).trans himage) hq h

theorem rigPlaceComplete_refuses {role : Nat} (hrole : s.placement p r = .inr role) :
    Gives (.rigPlaceComplete p) s (LoadRefused p 0x1C s) := by
  have hrefused := imagePlaced_refused ((placement_out p r s []).trans hrole)
  refine rigPlaceComplete_gives hp hld hr ?_ ?_ <;> rw [hrefused]
  · exact refuseLoad_keeps p _ _ .pending (by decide)
  · exact refuseLoad_refused (f := State.noPlacement { s with out := [] } r role) (show 0x1C < 256 by decide) (keepsBut_out s [])
      (by decide) (by decide)

theorem rigPlaceComplete_places {place : Tbl Nat} (hplace : s.placement p r = .inl place) : Gives (.rigPlaceComplete p) s fun u =>
    KeepsBut [.regs, .power, .rigs, .out] s u ∧ FieldsBut [Reg.RIG_STATUS_STATE p] s u ∧ u.ldState p = 5
    ∧ u.rig p = { s.rig p with place := place } ∧ OtherRigs p s u ∧ u.power = { s.power with waking := u.power.waking }
    ∧ ∀ x ∈ r.standing place, s.get (Reg.DOMAIN_STATE_STATE x.2) = 3 → tget 0 u.power.waking x.2 ≠ 0 := by
  have hheld := imagePlaced_held ((placement_out p r s []).trans hplace)
  have hk := placeHeld_keeps p r place { s with out := [] }
  obtain ⟨hrig, hother⟩ := placeHeld_rig p r place { s with out := [] }
  refine rigPlaceComplete_gives hp hld hr ?_ ?_ <;> rw [hheld]
  · exact hk .pending (by decide)
  · exact ⟨hk.with_out, fun f hf => placeHeld_get (by simpa using hf) r place _, placeHeld_ldState p r place _, hrig, hother,
      placeHeld_power p r place _, fun _ hx hoff => placeHeld_waits hx hoff⟩

end

theorem rigValidateAndPlace : Claims.RigValidateAndPlace := fun _ _ _ hp =>
  ⟨fun _ _ hld hread => rigValidateComplete_gives hp hld hread,
    fun _ hld hr => ⟨fun _ => rigPlaceComplete_refuses hp hld hr, fun _ => rigPlaceComplete_places hp hld hr⟩⟩

/-- Settles O19: the checks of VERIFY in their order, and the ends of VALIDATE and PLACE by the first failure or what they hold. -/
theorem loadsAreValidated : Obligations.LoadsAreValidated := ⟨rigVerifyOrder, rigValidateAndPlace⟩

/-! ## A re-rig begins (03 R116, R117) -/

/-- Every partition's image and placement are the same. -/
def SameRoles (s u : State) : Prop :=
  ∀ q, (u.rig q).image = (s.rig q).image ∧ (u.rig q).live = (s.rig q).live ∧ (u.rig q).place = (s.rig q).place

theorem SameRoles.trans {s t u : State} (h : SameRoles s t) (h' : SameRoles t u) : SameRoles s u := fun q =>
  ⟨(h' q).1.trans (h q).1, (h' q).2.1.trans (h q).2.1, (h' q).2.2.trans (h q).2.2⟩

theorem RigsWind.sameRoles {s u : State} (h : RigsWind s u) : SameRoles s u := fun q => by
  obtain ⟨w, t, he⟩ := h q
  rw [he]
  exact ⟨rfl, rfl, rfl⟩

section
variable {s u : State} (h : SameRoles s u)
include h

theorem SameRoles.image? (q : Nat) : u.image? q = s.image? q := by
  obtain ⟨himage, hlive, -⟩ := h q
  rw [State.image?, State.image?, himage, hlive]

theorem SameRoles.imageOf (q : Nat) : u.imageOf q = s.imageOf q := by rw [State.imageOf, State.imageOf, h.image?]

theorem SameRoles.flightRole? (gf : Nat) : u.flightRole? gf = s.flightRole? gf := by
  have hplace : ∀ q, (u.rig q).place = (s.rig q).place := fun q => (h q).2.2
  simp only [State.flightRole?, State.loaded, h.image?, h.imageOf, hplace]

theorem SameRoles.roleFlight (p role odd : Nat) : u.roleFlight p role odd = s.roleFlight p role odd := by
  rw [State.roleFlight, State.roleFlight, (h p).2.2]

theorem SameRoles.roleFlights (p role : Nat) : u.roleFlights p role = s.roleFlights p role := by
  rw [State.roleFlights, State.roleFlights, h.roleFlight, h.imageOf]

end

theorem SameRoles.of_rig {p : Nat} {s u : State} (himage : (u.rig p).image = (s.rig p).image) (hlive : (u.rig p).live = (s.rig p).live)
    (hplace : (u.rig p).place = (s.rig p).place) (hother : OtherRigs p s u) : SameRoles s u := fun q => by
  by_cases hq : q = p
  · exact hq ▸ ⟨himage, hlive, hplace⟩
  · rw [hother q hq]
    exact ⟨rfl, rfl, rfl⟩

/-- A re-rig begun at a reading of the newel timer. -/
def rerigBegun (now : W64) (p : Nat) (s : State) : State := beginRerig p (at_ now { s with out := [] })

theorem rerigBegun_keeps (now : W64) (p : Nat) (s : State) : KeepsBut [.regs, .time, .rigs, .out] s (rerigBegun now p s) :=
  ((keepsBut_out s []).mono (by decide)).trans (((at_keeps now _).mono (by decide)).trans
    (((setRig_keeps p _ _).mono (by decide)).trans ((keepsBut_set Reg.RERIG_LAST_BUSY 1 _).mono (by decide))))

theorem rerigBegun_rig (now : W64) (p : Nat) (s : State) :
    (rerigBegun now p s).rig p = { s.rig p with rerigStart := max s.time now.toNat + 1, rerigMade := false }
    ∧ OtherRigs p s (rerigBegun now p s) :=
  ⟨rig_setRig_self p _ _, otherRigs_setRig p _ s⟩

theorem rerigBegun_sameRoles (now : W64) (p : Nat) (s : State) : SameRoles s (rerigBegun now p s) := by
  obtain ⟨hself, hother⟩ := rerigBegun_rig now p s
  exact .of_rig (by rw [hself]) (by rw [hself]) (by rw [hself]) hother

theorem rerigBegun_busy (now : W64) (p : Nat) (s : State) : (rerigBegun now p s).get Reg.RERIG_LAST_BUSY = 1 := get_set_self _ _ _

/-- What a read of an image slot leaves. -/
theorem slotRead_leaves {bad : Tbl Nat} {p n : Nat} {s v : State} {img : Option (List Byte)} (h : slotRead bad p n s = (img, v)) :
    KeepsBut [.regs, .seq, .out, .rigs, .memCheck, .ucs, .ropes, .rings, .svcs, .journal, .sec, .det] s v ∧ RigsWind s v
    ∧ Writes (fun k => ¬isTopField k) s v := by
  have hv : (slotRead bad p n s).2 = v := congrArg Prod.snd h
  exact hv ▸ ⟨slotRead_keeps bad p n s, lossesKeep_winds.slotRead bad p n s, lossesKeep_writes.slotRead bad p n s⟩

/-! ## A role without an alternate (03 R119) -/

/-- A cause of halt asks for no wind-down: it leaves the riggings. -/
theorem findCause_halt_keeps (p cause : Nat) (s : State) : KeepsBut [.regs, .out, .ropes, .svcs] s (findCause p actHalt cause s) := by
  have hset : KeepsBut [.regs, .out, .ropes, .svcs] s (s.set (Reg.STEP_STATUS_CAUSE p) cause) := (keepsBut_set _ _ s).mono (by decide)
  have hchildren : ∀ (m : TreeMsg) (u : State), KeepsBut [.regs, .out, .ropes, .svcs] u
      (applyHalt p cause (toChildren p Tree.rewind m u)) := fun m u => by
    apply keepsBut_of_veil
    refine (applyHalt_frame ?_ ?_ ?_ p cause _).trans (toChildren_frame ?_ ?_ p _ m u) <;> exact fun _ _ => rfl
  have hparent : ∀ (m : TreeMsg) (u : State), KeepsBut [.regs, .out, .ropes, .svcs] u (toParent p Tree.rewind m u) := fun m u => by
    apply keepsBut_of_veil
    apply toParent_frame <;> exact fun _ _ => rfl
  unfold findCause
  simp only [BEq.rfl, Bool.true_or, if_true, rootRequest]
  split
  · exact .refl _ s
  · split
    · exact hset.trans (hchildren _ _)
    · exact hset.trans (hparent _ _)

/-- The flights of a role off, and the role without one. -/
def roleLeft (p role : Nat) (s : State) : State :=
  let u := flightsOff (s.roleFlights p role) s
  u.setRig p { u.rig p with place := tset 0x7FF (u.rig p).place role 0x7FF }

theorem exhaustRole_eq (p role : Nat) (s : State) : exhaustRole p role s =
    findCause p actHalt Why.exhausted (raise Ev.alternatesExhausted (partStamp p) [role] (showRoles p (roleLeft p role s))) := rfl

theorem roleLeft_rig (p role : Nat) (s : State) :
    (roleLeft p role s).rig p = { s.rig p with place := tset 0x7FF (s.rig p).place role 0x7FF } :=
  (rig_setRig_self p _ _).trans (by rw [(flightsOff_keeps _ s).rig (by decide)])

theorem roleLeft_keeps (p role : Nat) (s : State) : KeepsBut [.regs, .power, .rigs, .treads, .flights] s (roleLeft p role s) :=
  ((flightsOff_keeps _ s).mono (by decide)).trans ((setRig_keeps p _ _).mono (by decide))

theorem exhaustRole_after (p role : Nat) (s : State) :
    KeepsBut [.regs, .seq, .out, .ropes, .rings, .svcs, .det] (roleLeft p role s) (exhaustRole p role s) :=
  ((showRoles_keeps p _).mono (by decide)).trans (((raise_keeps _ _ _ _).mono (by decide)).trans
    ((findCause_halt_keeps p _ _).mono (by decide)))

theorem exhaustRole_keeps (p role : Nat) (s : State) :
    KeepsBut [.regs, .seq, .out, .power, .rigs, .treads, .flights, .ropes, .rings, .svcs, .det] s (exhaustRole p role s) :=
  ((roleLeft_keeps p role s).mono (by decide)).trans ((exhaustRole_after p role s).mono (by decide))

theorem exhaustRole_rig (p role : Nat) (s : State) :
    (exhaustRole p role s).rig p = { s.rig p with place := tset 0x7FF (s.rig p).place role 0x7FF } :=
  ((exhaustRole_after p role s).rig (by decide) p).trans (roleLeft_rig p role s)

theorem exhaustRole_roleFlight (p role : Nat) (s : State) : (exhaustRole p role s).roleFlight p role 0 = none := by
  have hplace : tget 0x7FF (tset 0x7FF (s.rig p).place role 0x7FF) role = 0x7FF := tget_tset_self _ _ _
  rw [State.roleFlight, exhaustRole_rig]
  exact if_pos hplace

theorem exhaustRole_recorded (p role : Nat) (s : State) : Recorded 0x0202 [role] (exhaustRole p role s) := by
  rw [exhaustRole_eq]
  exact recorded_congr (recorded_raise 0x0202 _ _ _) (findCause_halt_keeps p _ _ .rings (by decide))

theorem showRoles_writes (p : Nat) (s : State) : Writes (fun k => ¬isTopField k) s (showRoles p s) :=
  (writes_set (by simp only [isTopField, Fld.key, Reg.RIG_STATUS_ALT_FREE]; omega) _ s).trans
    (writes_set (by simp only [isTopField, Fld.key, Reg.RIG_STATUS_ROLES_MOVED]; omega) _ _)

/-- The flights of the role are in OFF. -/
theorem exhaustRole_off {p role x : Nat} {s : State} (hx : x ∈ s.roleFlights p role) (hlt : x < 1184) :
    (exhaustRole p role s).get (Reg.DOMAIN_STATE_STATE x) = 3 := by
  have htop : isTopField (Reg.DOMAIN_STATE_STATE x).key := by
    simp only [isTopField, Fld.key, Reg.DOMAIN_STATE_STATE]
    omega
  have hafter : Writes (fun k => ¬isTopField k) (roleLeft p role s) (exhaustRole p role s) :=
    (showRoles_writes p _).trans ((lossesKeep_writes.raise _ _ _ _).trans (lossesKeep_writes.findCause p _ _ _))
  exact (hafter _ (not_not.2 htop)).trans (flightsOff_state hx hlt s)

/-! ## A row shift (03 R116, R119, 04 R146, R160) -/

/-- The code of a row's treads after the fenced one loaded. -/
def rowLoaded (p role odd gf row col : Nat) (s : State) : State :=
  (upFrom (col + 1) (16 - col)).foldl (fun s c => setupTread (s.imageOf p) role odd gf row c s) (madeRerig p s)

/-- A row shift once the image slot has been read. -/
def rowRead (p role odd gf row col : Nat) (x : Option (List Byte) × State) : State :=
  match x with
  | (img, s) => if img.isNone then exhaustRole p role s else rowLoaded p role odd gf row col s

/-- A row shift once the row's remap is set. -/
def rowShifted (p : Nat) (bad : List (Nat × Nat)) (gf row col : Nat) (s : State) : State :=
  match s.flightRole? gf with
  | some (q, role, odd) =>
    if q ≠ p || s.flightFenced gf then s
    else rowRead p role odd gf row col (slotRead bad p (fieldAt (s.imageOf p).hdr 8 4) s)
  | none => s

/-- The first re-rig of a partition made, when it is a row shift that has not begun. -/
def rowRerig (p : Nat) (bad : List (Nat × Nat)) (s : State) : State :=
  match (s.rig p).rerigs with
  | .row gf row col :: _ =>
    if (s.rig p).rerigStart ≠ 0 then s else rowShifted p bad gf row col (shiftRow gf row col (beginRerig p s))
  | _ => s

theorem exec_rerigRowShift_eq (now : W64) (p : Nat) (bad : List (Nat × Nat)) (s : State) : exec (.rerigRowShift now ⟨p, bad⟩) s =
    perform (partOk p) (fun s => rowRerig p bad (at_ now s)) s := rfl

/-- The tread that a place of a row's flight is set up as. -/
def State.setupAs (s : State) (r : Rigging) (role odd gf row c : Nat) : Tread :=
  if s.treadFenced (treadId gf row c) then { Tread.init with st := .fenced }
  else match s.logCol? gf row c with
    | some l => r.freshTread role odd row l
    | none => Tread.init

theorem setupTread_as (r : Rigging) (role odd gf row c : Nat) (s : State) :
    setupTread r role odd gf row c s = s.setTread (treadId gf row c) (s.setupAs r role odd gf row c) := by
  unfold setupTread State.setupAs
  dsimp only
  split
  · rfl
  · cases s.logCol? gf row c <;> rfl

theorem setupTread_keeps (r : Rigging) (role odd gf row c : Nat) (s : State) : KeepsBut [.treads] s (setupTread r role odd gf row c s) :=
  keepsBut_of_veil (setupTread_frame (fun _ _ => rfl) r role odd gf row c s)

theorem setupRow_keeps (r : Rigging) (role odd gf row : Nat) (l : List Nat) (s : State) :
    KeepsBut [.treads] s (setupRow r role odd gf row l s) := foldl_keeps (fun u c _ => setupTread_keeps r role odd gf row c u) s

theorem setupAs_congr {s u : State} (h : u.fence = s.fence) (r : Rigging) (role odd gf row c : Nat) :
    u.setupAs r role odd gf row c = s.setupAs r role odd gf row c := by
  unfold State.setupAs State.treadFenced State.logCol? State.rowByte
  rw [h]

theorem setupRow_tread_self {l : List Nat} {c : Nat} (hc : c ∈ l) (r : Rigging) (role odd gf row : Nat) (s : State) :
    (setupRow r role odd gf row l s).tread (treadId gf row c) = s.setupAs r role odd gf row c := by
  have hfence : (setupRow r role odd gf row l s).fence = s.fence := setupRow_keeps r role odd gf row l s .fence (by decide)
  have hset : ∀ u : State, (setupTread r role odd gf row c u).fence = s.fence →
      (setupTread r role odd gf row c u).tread (treadId gf row c) = s.setupAs r role odd gf row c := fun u hu => by
    have hu' : u.fence = s.fence := (setupTread_keeps r role odd gf row c u .fence (by decide)).symm.trans hu
    rw [setupTread_as, tread_setTread_self, setupAs_congr hu']
  refine foldl_establishes (g := fun s c => setupTread r role odd gf row c s)
    (P := fun u => u.fence = s.fence → u.tread (treadId gf row c) = s.setupAs r role odd gf row c) hc hset
    (fun u y _ ih hu => ?_) s hfence
  by_cases hy : y = c
  · subst hy
    exact hset u hu
  · have hne : treadId gf row c ≠ treadId gf row y := by
      unfold treadId
      omega
    rw [setupTread_as, tread_setTread_other hne]
    exact ih ((setupTread_keeps r role odd gf row y u .fence (by decide)).symm.trans hu)

theorem setupRow_tread_other {l : List Nat} {gf row t : Nat} (h : ∀ c ∈ l, t ≠ treadId gf row c) (r : Rigging) (role odd : Nat)
    (s : State) : (setupRow r role odd gf row l s).tread t = s.tread t :=
  foldl_preserves (g := fun s c => setupTread r role odd gf row c s) (P := fun u => u.tread t = s.tread t)
    (fun u c hc hu => by rw [setupTread_as, tread_setTread_other (h c hc), hu]) rfl

theorem foldl_setupTread_imageOf (p role odd gf row : Nat) (l : List Nat) (s : State) :
    l.foldl (fun s c => setupTread (s.imageOf p) role odd gf row c s) s = setupRow (s.imageOf p) role odd gf row l s := by
  induction l generalizing s with
  | nil => rfl
  | cons c l ih =>
    have himage : (setupTread (s.imageOf p) role odd gf row c s).imageOf p = s.imageOf p :=
      imageOf_congr (setupTread_keeps _ _ _ _ _ _ s .rigs (by decide)) p
    rw [List.foldl_cons, ih, himage]
    rfl

theorem madeRerig_rig (p : Nat) (s : State) :
    (madeRerig p s).rig p = { s.rig p with rerigMade := true } ∧ OtherRigs p s (madeRerig p s) :=
  ⟨rig_setRig_self p _ s, otherRigs_setRig p _ s⟩

theorem madeRerig_sameRoles (p : Nat) (s : State) : SameRoles s (madeRerig p s) := by
  obtain ⟨hself, hother⟩ := madeRerig_rig p s
  exact .of_rig (by rw [hself]) (by rw [hself]) (by rw [hself]) hother

theorem madeRerig_keeps (p : Nat) (s : State) : KeepsBut [.rigs] s (madeRerig p s) := setRig_keeps p _ s

theorem rowLoaded_eq (p role odd gf row col : Nat) (s : State) : rowLoaded p role odd gf row col s =
    setupRow (s.imageOf p) role odd gf row (upFrom (col + 1) (16 - col)) (madeRerig p s) := by
  rw [rowLoaded, foldl_setupTread_imageOf, (madeRerig_sameRoles p s).imageOf]

theorem rowLoaded_after (p role odd gf row col : Nat) (s : State) :
    KeepsBut [.treads] (madeRerig p s) (rowLoaded p role odd gf row col s) := by
  rw [rowLoaded_eq]
  exact setupRow_keeps _ _ _ _ _ _ _

theorem rowLoaded_keeps (p role odd gf row col : Nat) (s : State) : KeepsBut [.rigs, .treads] s (rowLoaded p role odd gf row col s) :=
  ((madeRerig_keeps p s).mono (by decide)).trans ((rowLoaded_after p role odd gf row col s).mono (by decide))

theorem rowLoaded_rig (p role odd gf row col : Nat) (s : State) :
    (rowLoaded p role odd gf row col s).rig p = { s.rig p with rerigMade := true } ∧ OtherRigs p s (rowLoaded p role odd gf row col s) := by
  have hafter := rowLoaded_after p role odd gf row col s
  obtain ⟨hself, hother⟩ := madeRerig_rig p s
  exact ⟨(hafter.rig (by decide) p).trans hself, hother.then_keeps hafter (by decide)⟩

/-- In a row remapped at a column, each physical column after it carries the logical column before. -/
theorem logCol?_after_remap {s : State} {gf row col c : Nat} (hcol : col < 16) (hb : s.rowByte gf row = 0x80 + col) (hc : col < c) :
    s.logCol? gf row c = some (c - 1) := by
  have hbit : bit (0x80 + col) 7 = true := by
    rw [bit, beq_iff_eq]
    omega
  have hbits : bits (0x80 + col) 0 5 = col := by
    unfold bits
    omega
  rw [State.logCol?, hb]
  simp only [hbit, hbits, if_true, Nat.not_lt.2 hc.le, hc.ne', if_false]

/-- The treads after the fenced one of a row remapped are loaded with the code of the columns before theirs. -/
theorem rowLoaded_tread {s : State} {gf row col c : Nat} (hcol : col < 16) (hb : s.rowByte gf row = 0x80 + col) (hc : col < c)
    (hc17 : c < 17) (p role odd : Nat) : (rowLoaded p role odd gf row col s).tread (treadId gf row c) =
      if s.treadFenced (treadId gf row c) then { Tread.init with st := .fenced }
      else (s.imageOf p).freshTread role odd row (c - 1) := by
  rw [rowLoaded_eq, setupRow_tread_self (mem_upFrom.2 (by omega)), setupAs_congr (madeRerig_keeps p s .fence (by decide)), State.setupAs,
    logCol?_after_remap hcol hb hc]

theorem rowLoaded_tread_other {s : State} {gf row col t : Nat} (h : ∀ c, col < c → c < 17 → t ≠ treadId gf row c) (p role odd : Nat) :
    (rowLoaded p role odd gf row col s).tread t = s.tread t := by
  have htreads : (madeRerig p s).treads = s.treads := madeRerig_keeps p s .treads (by decide)
  rw [rowLoaded_eq, setupRow_tread_other (fun c hc => h c ?_ ?_), State.tread, htreads]
  · rfl
  · have := mem_upFrom.1 hc
    omega
  · have := mem_upFrom.1 hc
    omega

/-- The fence map with a row's remap set to its spare column. -/
def remapped (gf row col : Nat) (m : Fence) : Fence := { m with rows := tset 0x1F m.rows (gf * 16 + row) (0x80 + col) }

theorem shiftRow_unfenced {gf : Nat} {s : State} (h : s.flightFenced gf = false) (row col : Nat) :
    shiftRow gf row col s = { s with fence := remapped gf row col s.fence } := by
  rw [shiftRow, h]
  rfl

theorem shiftRow_keeps (gf row col : Nat) (s : State) : KeepsBut [.fence] s (shiftRow gf row col s) :=
  keepsBut_of_veil (shiftRow_frame (fun _ _ => rfl) gf row col s)

theorem rowByte_remapped {gf row col : Nat} {s u : State} (h : u.fence = remapped gf row col s.fence) (g w : Nat) :
    u.rowByte g w = if g * 16 + w = gf * 16 + row then 0x80 + col else s.rowByte g w := by
  rw [State.rowByte, h, remapped]
  split
  next he => rw [he, tget_tset_self]
  next he => exact tget_tset_other _ _ he

/-- The hypotheses of a row shift: the first re-rig of a partition, not begun, of a row whose flight carries a role. -/
structure RowShift (p gf row col role odd : Nat) (rest : List Rerig) (s : State) : Prop where
  part : p < 8
  first : (s.rig p).rerigs = .row gf row col :: rest
  unbegun : (s.rig p).rerigStart = 0
  carries : s.flightRole? gf = some (p, role, odd)
  unfenced : s.flightFenced gf = false

/-- The state that a row shift reads its image slot in. -/
def rowState (now : W64) (p gf row col : Nat) (s : State) : State := shiftRow gf row col (rerigBegun now p s)

theorem rowState_sameRoles (now : W64) (p gf row col : Nat) (s : State) : SameRoles s (rowState now p gf row col s) := by
  have hrigs : (rowState now p gf row col s).rigs = (rerigBegun now p s).rigs := shiftRow_keeps gf row col _ .rigs (by decide)
  exact (rerigBegun_sameRoles now p s).trans (RigsWind.of_rigs hrigs).sameRoles

section
variable {now : W64} {p gf row col : Nat} {bad : List (Nat × Nat)} {s v : State} {img : Option (List Byte)}
  (hread : slotRead bad p (fieldAt (s.imageOf p).hdr 8 4) (rowState now p gf row col s) = (img, v))
include hread

theorem rowState_read_keeps :
    KeepsBut [.regs, .time, .seq, .out, .fence, .rigs, .memCheck, .ucs, .ropes, .rings, .svcs, .journal, .sec, .det] s v :=
  ((rerigBegun_keeps now p s).mono (by decide)).trans (((shiftRow_keeps gf row col _).mono (by decide)).trans
    ((slotRead_leaves hread).1.mono (by decide)))

/-- The rigging of the partition once its image slot has been read. -/
theorem rowState_read_rig :
    (v.rig p).rerigs = (s.rig p).rerigs ∧ 0 < (v.rig p).rerigStart ∧ (v.rig p).rerigMade = false := by
  obtain ⟨w, t, hv⟩ := (slotRead_leaves hread).2.1 p
  have hbegun := (rerigBegun_rig now p s).1
  rw [hv, rowState, (shiftRow_keeps gf row col _).rig (by decide), hbegun]
  exact ⟨rfl, Nat.succ_pos _, rfl⟩

theorem rowState_read_busy :
    v.get Reg.RERIG_LAST_BUSY = 1 := by
  have hslot := (slotRead_leaves hread).2.2 Reg.RERIG_LAST_BUSY (not_not.2 (.inr (by decide)))
  have hshift := (shiftRow_keeps gf row col (rerigBegun now p s)).writes (by decide) (fun _ => False) Reg.RERIG_LAST_BUSY (by simp)
  exact hslot.trans (hshift.trans (rerigBegun_busy now p s))

end

section
variable {now : W64} {p gf row col role odd : Nat} {bad : List (Nat × Nat)} {rest : List Rerig} {s v : State}
  {img : Option (List Byte)} (h : RowShift p gf row col role odd rest s)
include h

theorem RowShift.fence : (rowState now p gf row col s).fence = remapped gf row col s.fence := by
  rw [rowState, shiftRow_unfenced (show (rerigBegun now p s).flightFenced gf = false from h.unfenced)]
  rfl

theorem RowShift.effect (hread : slotRead bad p (fieldAt (s.imageOf p).hdr 8 4) (rowState now p gf row col s) = (img, v)) :
    rowRerig p bad (at_ now { s with out := [] }) = rowRead p role odd gf row col (img, v) := by
  have hfirst : (State.rig (at_ now { s with out := [] }) p).rerigs = .row gf row col :: rest := h.first
  have hbegun : rowRerig p bad (at_ now { s with out := [] }) = rowShifted p bad gf row col (rowState now p gf row col s) := by
    rw [rowRerig, hfirst]
    exact if_neg (not_not.2 h.unbegun)
  have hrole : (rowState now p gf row col s).flightRole? gf = some (p, role, odd) :=
    ((rowState_sameRoles now p gf row col s).flightRole? gf).trans h.carries
  have hfenced : (rowState now p gf row col s).flightFenced gf = false := by
    rw [State.flightFenced, h.fence]
    exact h.unfenced
  have hcond : ¬(decide (p ≠ p) || (rowState now p gf row col s).flightFenced gf) = true := by simp [hfenced]
  rw [hbegun, rowShifted, hrole]
  refine (if_neg hcond).trans ?_
  rw [(rowState_sameRoles now p gf row col s).imageOf, hread]

theorem RowShift.gives {P : State → Prop}
    (hread : slotRead bad p (fieldAt (s.imageOf p).hdr 8 4) (rowState now p gf row col s) = (img, v))
    (hP : P (rowRead p role odd gf row col (img, v))) : Gives (.rerigRowShift now ⟨p, bad⟩) s P := by
  have hq : (rowRead p role odd gf row col (img, v)).pending = v.pending := by
    unfold rowRead
    dsimp only
    split
    · exact exhaustRole_keeps p role v .pending (by decide)
    · exact rowLoaded_keeps p role odd gf row col v .pending (by decide)
  exact gives_value ((exec_rerigRowShift_eq now p bad s).trans (perform_partOk h.part _ s)) (h.effect hread)
    (hq.trans (rowState_read_keeps hread .pending (by decide))) hP

end

theorem rowShifts : Claims.RowShifts := by
  intro now p gf row col role odd bad rest s v img hp _ _ hcol hfirst hstart hrole hfenced hread
  have h : RowShift p gf row col role odd rest s := ⟨hp, hfirst, hstart, hrole, hfenced⟩
  obtain ⟨hslot, hwinds, -⟩ := slotRead_leaves hread
  obtain ⟨hrerigs, hbegun, hmade⟩ := rowState_read_rig hread
  have hfence : v.fence = remapped gf row col s.fence := (hslot .fence (by decide)).trans h.fence
  have htreads : v.treads = s.treads := rowState_read_keeps hread .treads (by decide)
  have himage : v.imageOf p = s.imageOf p := ((rowState_sameRoles now p gf row col s).trans hwinds.sameRoles).imageOf p
  have hbyte : v.rowByte gf row = 0x80 + col := (rowByte_remapped hfence gf row).trans (if_pos rfl)
  have hfencedTread : ∀ t, v.treadFenced t = s.treadFenced t := fun t => by rw [State.treadFenced, hfence]; rfl
  refine h.gives hread ⟨⟨by rw [hfence]; rfl, by rw [hfence]; rfl, htreads, rowByte_remapped hfence⟩, fun hsome => ?_, fun hnone => ?_⟩
  · have hloaded : rowRead p role odd gf row col (img, v) = rowLoaded p role odd gf row col v :=
      if_neg (by simpa using Option.isSome_iff_ne_none.1 hsome)
    have hk := rowLoaded_keeps p role odd gf row col v
    obtain ⟨hrig, hother⟩ := rowLoaded_rig p role odd gf row col v
    rw [hloaded, hrig]
    refine ⟨hk, hother, hrerigs, hbegun, rfl, (hk.writes (by decide) (fun _ => False) _ (by simp)).trans (rowState_read_busy hread),
      fun c hc hc17 => ?_, fun t ht => ?_⟩
    · rw [rowLoaded_tread hcol hbyte hc hc17, hfencedTread, himage]
    · rw [rowLoaded_tread_other ht, State.tread, htreads]
      rfl
  · subst hnone
    exact ⟨exhaustRole_roleFlight p role v, exhaustRole_recorded p role v, by
      rw [show rowRead p role odd gf row col (none, v) = exhaustRole p role v from rfl, exhaustRole_rig]
      exact hmade⟩

/-! ## A role move (03 R116, R118, R119) -/

/-- A role move once the image slot has been read: to the first alternate that passes, if there is one. -/
def roleRead (p role : Nat) (r : Rigging) (x : Option (List Byte) × State) : State :=
  match x with
  | (img, s) =>
    match img, s.alternate? r (s.otherLoads p) (s.rig p).place (s.takenBy p role) role with
    | some _, some g => moveRole p role g (madeRerig p s)
    | _, _ => exhaustRole p role s

/-- A role move of a role that still has a fenced flight. -/
def roleMoved (p role : Nat) (bad : List (Nat × Nat)) (s : State) : State :=
  if (s.roleFlights p role).all fun x => !s.flightFenced x then s
  else roleRead p role (s.imageOf p) (slotRead bad p (fieldAt (s.imageOf p).hdr 8 4) s)

/-- The first re-rig of a partition made, when it is a role move that has not begun. -/
def roleRerig (p : Nat) (bad : List (Nat × Nat)) (s : State) : State :=
  match (s.rig p).rerigs with
  | .role role _ :: _ => if (s.rig p).rerigStart ≠ 0 then s else roleMoved p role bad (beginRerig p s)
  | _ => s

theorem exec_rerigRoleMove_eq (now : W64) (p : Nat) (bad : List (Nat × Nat)) (s : State) : exec (.rerigRoleMove now p bad) s =
    perform (partOk p) (fun s => roleRerig p bad (at_ now s)) s := rfl

/-- A role at its new flight, its old ones in OFF. -/
def rolePlaced (p role g : Nat) (s : State) : State :=
  let u := flightsOff (s.roleFlights p role) s
  u.setRig p { u.rig p with place := tset 0x7FF (u.rig p).place role g }

/-- A flight of a role asked up and its treads set up. -/
def flightRaised (r : Rigging) (role slot : Nat) (s : State) (x : Nat × Nat) : State :=
  bringUp slot x.1 s |> setupFlight r role x.2 x.1

/-- The flights of a role asked up and their treads set up. -/
def roleRaised (r : Rigging) (role slot : Nat) (l : List (Nat × Nat)) (s : State) : State := l.foldl (flightRaised r role slot) s

theorem moveRole_eq (p role g : Nat) (s : State) : moveRole p role g s = showRoles p (restoreCredits p role
    (roleRaised (s.imageOf p) role ((((s.imageOf p).gangRole? role).map Gang.slot).getD 0) ((s.imageOf p).at role g).zipIdx
      (rolePlaced p role g s))) := rfl

theorem rolePlaced_keeps (p role g : Nat) (s : State) : KeepsBut [.regs, .power, .rigs, .treads, .flights] s (rolePlaced p role g s) :=
  ((flightsOff_keeps _ s).mono (by decide)).trans ((setRig_keeps p _ _).mono (by decide))

theorem rolePlaced_rig (p role g : Nat) (s : State) :
    (rolePlaced p role g s).rig p = { s.rig p with place := tset 0x7FF (s.rig p).place role g } ∧
    OtherRigs p s (rolePlaced p role g s) := by
  have hoff := flightsOff_keeps (s.roleFlights p role) s
  refine ⟨(rig_setRig_self p _ _).trans (by rw [hoff.rig (by decide)]), ?_⟩
  exact OtherRigs.after_keeps hoff (by decide) (otherRigs_setRig p _ _)

theorem bringUp_keeps (slot gf : Nat) (s : State) : KeepsBut [.power] s (bringUp slot gf s) := wakeAt_keeps _ gf s

theorem setupFlight_keeps (r : Rigging) (role odd gf : Nat) (s : State) : KeepsBut [.treads] s (setupFlight r role odd gf s) :=
  keepsBut_of_veil (setupFlight_frame (fun _ _ => rfl) r role odd gf s)

theorem flightRaised_keeps (r : Rigging) (role slot : Nat) (s : State) (x : Nat × Nat) :
    KeepsBut [.power, .treads] s (flightRaised r role slot s x) :=
  ((bringUp_keeps slot x.1 s).mono (by decide)).trans ((setupFlight_keeps r role x.2 x.1 _).mono (by decide))

theorem flightRaised_get (r : Rigging) (role slot : Nat) (s : State) (x : Nat × Nat) (f : Fld) :
    (flightRaised r role slot s x).get f = s.get f :=
  (flightRaised_keeps r role slot s x).writes (by decide) (fun _ => False) f (by simp)

theorem flightRaised_power (r : Rigging) (role slot : Nat) (s : State) (x : Nat × Nat) :
    (flightRaised r role slot s x).power = (bringUp slot x.1 s).power := setupFlight_keeps r role x.2 x.1 _ .power (by decide)

theorem roleRaised_keeps (r : Rigging) (role slot : Nat) (l : List (Nat × Nat)) (s : State) :
    KeepsBut [.power, .treads] s (roleRaised r role slot l s) := foldl_keeps (fun u x _ => flightRaised_keeps r role slot u x) s

theorem restoreCredits_keeps (p role : Nat) (s : State) : KeepsBut [.chans] s (restoreCredits p role s) :=
  keepsBut_of_veil (restoreCredits_frame (fun _ _ => rfl) p role s)

/-- A flight asked up in OFF waits to leave it, whatever is asked up after. -/
theorem roleRaised_waits {r : Rigging} {role slot : Nat} {l : List (Nat × Nat)} {x : Nat × Nat} (hx : x ∈ l) {s : State}
    (h : s.get (Reg.DOMAIN_STATE_STATE x.1) = 3) : tget 0 (roleRaised r role slot l s).power.waking x.1 ≠ 0 := by
  have hget : (roleRaised r role slot l s).get (Reg.DOMAIN_STATE_STATE x.1) = 3 :=
    ((roleRaised_keeps r role slot l s).writes (by decide) (fun _ => False) _ (by simp)).trans h
  refine foldl_establishes (g := flightRaised r role slot)
    (P := fun u => u.get (Reg.DOMAIN_STATE_STATE x.1) = 3 → tget 0 u.power.waking x.1 ≠ 0) hx (fun u hu => ?_)
    (fun u y _ ih hu => ?_) s hget
  · rw [flightRaised_get] at hu
    rw [flightRaised_power]
    exact wakeAt_off hu _
  · rw [flightRaised_get] at hu
    rw [flightRaised_power]
    exact wakeAt_waits (ih hu) _ _

theorem moveRole_after (p role g : Nat) (s : State) :
    KeepsBut [.regs, .power, .treads, .chans] (rolePlaced p role g s) (moveRole p role g s) := by
  rw [moveRole_eq]
  exact ((roleRaised_keeps _ _ _ _ _).mono (by decide)).trans (((restoreCredits_keeps p role _).mono (by decide)).trans
    ((showRoles_keeps p _).mono (by decide)))

theorem moveRole_keeps (p role g : Nat) (s : State) :
    KeepsBut [.regs, .power, .rigs, .treads, .chans, .flights] s (moveRole p role g s) :=
  ((rolePlaced_keeps p role g s).mono (by decide)).trans ((moveRole_after p role g s).mono (by decide))

theorem moveRole_rig (p role g : Nat) (s : State) :
    (moveRole p role g s).rig p = { s.rig p with place := tset 0x7FF (s.rig p).place role g } ∧ OtherRigs p s (moveRole p role g s) := by
  have hafter := moveRole_after p role g s
  obtain ⟨hself, hother⟩ := rolePlaced_rig p role g s
  exact ⟨(hafter.rig (by decide) p).trans hself, hother.then_keeps hafter (by decide)⟩

theorem moveRole_roleFlight {g : Nat} (hg : g ≠ 0x7FF) (p role : Nat) (s : State) :
    (moveRole p role g s).roleFlight p role 0 = some g := by
  have hplace : tget 0x7FF ((moveRole p role g s).rig p).place role = g := by
    rw [(moveRole_rig p role g s).1]
    exact tget_tset_self _ _ _
  rw [State.roleFlight, hplace]
  exact if_neg hg

/-- A flight of the role's new place that is in OFF waits to leave it. -/
theorem moveRole_waits {p role g x : Nat} {s : State} (hx : x ∈ (s.imageOf p).at role g)
    (h : (moveRole p role g s).get (Reg.DOMAIN_STATE_STATE x) = 3) : tget 0 (moveRole p role g s).power.waking x ≠ 0 := by
  obtain ⟨odd, hodd, rfl⟩ := List.getElem_of_mem hx
  have hmem : ((((s.imageOf p).at role g)[odd], odd) : Nat × Nat) ∈ ((s.imageOf p).at role g).zipIdx :=
    List.mk_mem_zipIdx_iff_getElem?.2 (List.getElem?_eq_getElem hodd)
  have htop : isTopField (Reg.DOMAIN_STATE_STATE ((s.imageOf p).at role g)[odd]).key := by
    simp only [isTopField, Fld.key, Reg.DOMAIN_STATE_STATE]
    omega
  rw [moveRole_eq] at h ⊢
  have hstate := (showRoles_writes p _ _ (not_not.2 htop)).symm.trans h
  rw [(restoreCredits_keeps p role _).writes (by decide) (fun _ => False) _ (by simp),
    (roleRaised_keeps _ _ _ _ _).writes (by decide) (fun _ => False) _ (by simp)] at hstate
  rw [showRoles_keeps p _ .power (by decide), restoreCredits_keeps p role _ .power (by decide)]
  exact roleRaised_waits hmem hstate

theorem roleRead_moves {p role g : Nat} {r : Rigging} {img : Option (List Byte)} {v : State} (himg : img.isSome = true)
    (halt : v.alternate? r (v.otherLoads p) (v.rig p).place (v.takenBy p role) role = some g) :
    roleRead p role r (img, v) = moveRole p role g (madeRerig p v) := by
  obtain ⟨b, rfl⟩ := Option.isSome_iff_exists.1 himg
  unfold roleRead
  dsimp only
  rw [halt]

theorem roleRead_exhausts {p role : Nat} {r : Rigging} {img : Option (List Byte)} {v : State}
    (h : img = none ∨ v.alternate? r (v.otherLoads p) (v.rig p).place (v.takenBy p role) role = none) :
    roleRead p role r (img, v) = exhaustRole p role v := by
  unfold roleRead
  dsimp only
  rcases h with rfl | halt
  · rfl
  · rw [halt]
    cases img <;> rfl

theorem roleRead_pending (p role : Nat) (r : Rigging) (img : Option (List Byte)) (v : State) :
    (roleRead p role r (img, v)).pending = v.pending := by
  by_cases h : img = none ∨ v.alternate? r (v.otherLoads p) (v.rig p).place (v.takenBy p role) role = none
  · rw [roleRead_exhausts h]
    exact exhaustRole_keeps p role v .pending (by decide)
  · obtain ⟨himg, halt⟩ := not_or.1 h
    obtain ⟨g, hg⟩ := Option.ne_none_iff_exists'.1 halt
    rw [roleRead_moves (Option.isSome_iff_ne_none.2 himg) hg]
    exact (moveRole_keeps p role g _ .pending (by decide)).trans (madeRerig_keeps p v .pending (by decide))

/-- The first re-rig of a partition, not begun, moves a role that has a fenced flight. -/
structure RoleMove (p role gf : Nat) (rest : List Rerig) (s : State) : Prop where
  part : p < 8
  first : (s.rig p).rerigs = .role role gf :: rest
  unbegun : (s.rig p).rerigStart = 0
  fenced : ∃ x ∈ s.roleFlights p role, s.flightFenced x = true

section
variable {now : W64} {p role gf : Nat} {bad : List (Nat × Nat)} {rest : List Rerig} {s v : State} {img : Option (List Byte)}
  (h : RoleMove p role gf rest s) (hread : slotRead bad p (fieldAt (s.imageOf p).hdr 8 4) (rerigBegun now p s) = (img, v))
include h hread

theorem RoleMove.effect : roleRerig p bad (at_ now { s with out := [] }) = roleRead p role (s.imageOf p) (img, v) := by
  have hfirst : (State.rig (at_ now { s with out := [] }) p).rerigs = .role role gf :: rest := h.first
  have hbegun : roleRerig p bad (at_ now { s with out := [] }) = roleMoved p role bad (rerigBegun now p s) := by
    rw [roleRerig, hfirst]
    exact if_neg (not_not.2 h.unbegun)
  have hroles := rerigBegun_sameRoles now p s
  obtain ⟨x, hx, hfenced⟩ := h.fenced
  have hall : ¬((rerigBegun now p s).roleFlights p role).all (fun x => !(rerigBegun now p s).flightFenced x) = true := by
    rw [hroles.roleFlights, List.all_eq_true]
    exact fun hall => absurd (hall x hx) (by rw [show (rerigBegun now p s).flightFenced x = true from hfenced]; decide)
  rw [hbegun, roleMoved, if_neg hall, hroles.imageOf, hread]

theorem RoleMove.gives {P : State → Prop} (hP : P (roleRead p role (s.imageOf p) (img, v))) : Gives (.rerigRoleMove now p bad) s P :=
  gives_value ((exec_rerigRoleMove_eq now p bad s).trans (perform_partOk h.part _ s)) (h.effect hread)
    ((roleRead_pending p role _ img v).trans (((slotRead_leaves hread).1 .pending (by decide)).trans
      (rerigBegun_keeps now p s .pending (by decide)))) hP

end

theorem roleMoves : Claims.RoleMoves := by
  intro now p role gf bad rest s v img hp hfirst hstart hfenced hread r alt
  have h : RoleMove p role gf rest s := ⟨hp, hfirst, hstart, hfenced⟩
  have himage : (madeRerig p v).imageOf p = r :=
    ((rerigBegun_sameRoles now p s).trans ((slotRead_leaves hread).2.1.sameRoles.trans (madeRerig_sameRoles p v))).imageOf p
  obtain ⟨hmade, hmadeOthers⟩ := madeRerig_rig p v
  refine ⟨fun g himg halt hg => h.gives hread ?_, fun hnone => h.gives hread ?_⟩
  · obtain ⟨hrig, hother⟩ := moveRole_rig p role g (madeRerig p v)
    rw [roleRead_moves himg halt]
    refine ⟨moveRole_roleFlight hg p role _, hmadeOthers.trans hother, by rw [hrig, hmade], fun x hx => ?_, fun other hne => ?_⟩
    · exact moveRole_waits (by rwa [himage])
    · rw [hrig, hmade]
      exact tget_tset_other (d := 0x7FF) _ _ hne
  · rw [roleRead_exhausts hnone]
    exact ⟨exhaustRole_roleFlight p role v, exhaustRole_recorded p role v, fun hlt x hx => exhaustRole_off hx (hlt x hx)⟩

/-! ## A re-rig ends (03 R116, R117, R126) -/

/-- A re-rig shown as the last one, and counted. -/
def rerigCounted (kind gf dur : Nat) (f : Fld) (s : State) : State :=
  s |> set Reg.RERIG_LAST_KIND kind |> set Reg.RERIG_LAST_GF gf |> set Reg.RERIG_LAST_DURATION dur |> bump f 1

/-- A re-rig that was made is told. -/
def rerigTold (p : Nat) (x : Rerig) (made : Bool) (dur : Nat) (s : State) : State :=
  match x with
  | .row gf _ _ => if made then rerigCounted 1 gf dur Reg.RERIG_COUNTS_ROW_SHIFTS s else s
  | .role role _ => if made then rerigCounted 2 ((s.roleFlight p role 0).getD 0) dur Reg.RERIG_COUNTS_ROLE_MOVES s else s

/-- The next re-rig of a partition at the head of its queue. -/
def rerigPopped (p : Nat) (rest : List Rerig) (s : State) : State :=
  s.setRig p { s.rig p with rerigs := rest, rerigStart := 0, rerigMade := false }

/-- What the package shows once a re-rig has ended. -/
def rerigShown (s : State) : State :=
  s |> set Reg.RERIG_LAST_BUSY (b2n (allParts.any fun q => (s.rig q).rerigStart != 0)) |> showCapacity

/-- The end of a re-rig. -/
def rerigEnded (p : Nat) (x : Rerig) (rest : List Rerig) (s : State) : State :=
  rerigTold p x (s.rig p).rerigMade (min 0xFFFF ((s.time + 1 - (s.rig p).rerigStart) / 10000)) (rerigPopped p rest s) |> rerigShown

/-- The re-rig in hand ended, if one is and it has not to wait. -/
def rerigEnds (p : Nat) (s : State) : State :=
  match (s.rig p).rerigs with
  | x :: rest => if (s.rig p).rerigStart = 0 || s.rerigWakes p x then s else deliverWaiting (rerigEnded p x rest s)
  | [] => s

theorem exec_rerigComplete_eq (now : W64) (p : Nat) (s : State) : exec (.rerigComplete now p) s =
    perform (partOk p) (fun s => rerigEnds p (at_ now s)) s := rfl

theorem deliverWaiting_nothing {s : State} (h : s.fabric.waiting = []) : deliverWaiting s = s := by
  have hfabric : { s.fabric with waiting := [] } = s.fabric := by rw [← h]
  unfold deliverWaiting
  rw [h]
  simp only [List.filter_nil, List.foldl_nil, hfabric]

theorem rerigCounted_keeps (kind gf dur : Nat) (f : Fld) (s : State) : KeepsBut [.regs] s (rerigCounted kind gf dur f s) :=
  (keepsBut_set _ _ s).trans ((keepsBut_set _ _ _).trans ((keepsBut_set _ _ _).trans (keepsBut_set _ _ _)))

theorem rerigTold_keeps (p : Nat) (x : Rerig) (made : Bool) (dur : Nat) (s : State) : KeepsBut [.regs] s (rerigTold p x made dur s) := by
  have hcounted : ∀ kind gf f, KeepsBut [.regs] s (if made then rerigCounted kind gf dur f s else s) := fun kind gf f =>
    ite_related (Q := KeepsBut [.regs]) (rerigCounted_keeps kind gf dur f s) (.refl _ s)
  cases x with
  | row gf _ _ => exact hcounted 1 gf _
  | role role _ => exact hcounted 2 _ _

theorem showCapacity_keeps (s : State) : KeepsBut [.regs] s (showCapacity s) := (keepsBut_set _ _ s).trans (keepsBut_set _ _ _)

theorem rerigShown_keeps (s : State) : KeepsBut [.regs] s (rerigShown s) := (keepsBut_set _ _ s).trans (showCapacity_keeps _)

theorem rerigShown_fieldsBut (s : State) :
    FieldsBut [Reg.RERIG_LAST_BUSY, Reg.PKG_CAPACITY_ACTIVE_FLIGHTS, Reg.PKG_CAPACITY_SPARED_ROWS] s (rerigShown s) := fun f hf => by
  simp only [List.map_cons, List.map_nil, List.mem_cons, List.not_mem_nil, or_false, not_or] at hf
  obtain ⟨hbusy, hactive, hspared⟩ := hf
  exact (get_set_other _ _ hspared).trans ((get_set_other _ _ hactive).trans (get_set_other _ _ hbusy))

theorem rerigShown_busy (s : State) : (rerigShown s).get Reg.RERIG_LAST_BUSY = b2n (allParts.any fun q => (s.rig q).rerigStart != 0) := by
  refine (get_set_other _ _ (by decide)).trans ((get_set_other _ _ (by decide)).trans ((get_set_self _ _ _).trans ?_))
  cases allParts.any fun q => (s.rig q).rerigStart != 0 <;> rfl

theorem rerigPopped_rig (p : Nat) (rest : List Rerig) (s : State) :
    (rerigPopped p rest s).rig p = { s.rig p with rerigs := rest, rerigStart := 0, rerigMade := false }
    ∧ OtherRigs p s (rerigPopped p rest s) :=
  ⟨rig_setRig_self p _ s, otherRigs_setRig p _ s⟩

/-- The other partitions' re-rigs in hand. -/
theorem rerigPopped_begun (p : Nat) (rest : List Rerig) (s : State) : (fun q => ((rerigPopped p rest s).rig q).rerigStart != 0)
    = fun q => q != p && (s.rig q).rerigStart != 0 := by
  obtain ⟨hself, hother⟩ := rerigPopped_rig p rest s
  funext q
  by_cases hq : q = p
  · subst hq
    simp [hself]
  · simp [hother q hq, hq]

theorem rerigEnded_after (p : Nat) (x : Rerig) (rest : List Rerig) (s : State) :
    KeepsBut [.regs] (rerigPopped p rest s) (rerigEnded p x rest s) := (rerigTold_keeps p x _ _ _).trans (rerigShown_keeps _)

theorem rerigEnded_keeps (p : Nat) (x : Rerig) (rest : List Rerig) (s : State) : KeepsBut [.regs, .rigs] s (rerigEnded p x rest s) :=
  ((setRig_keeps p _ s).mono (by decide)).trans ((rerigEnded_after p x rest s).mono (by decide))

theorem rerigEnded_rig (p : Nat) (x : Rerig) (rest : List Rerig) (s : State) :
    (rerigEnded p x rest s).rig p = { s.rig p with rerigs := rest, rerigStart := 0, rerigMade := false }
    ∧ OtherRigs p s (rerigEnded p x rest s) := by
  have hafter := rerigEnded_after p x rest s
  obtain ⟨hself, hother⟩ := rerigPopped_rig p rest s
  exact ⟨(hafter.rig (by decide) p).trans hself, hother.then_keeps hafter (by decide)⟩

theorem rerigEnded_busy (p : Nat) (x : Rerig) (rest : List Rerig) (s : State) :
    (rerigEnded p x rest s).get Reg.RERIG_LAST_BUSY = b2n (allParts.any fun q => q != p && (s.rig q).rerigStart != 0) := by
  have hrig : ∀ made dur q, (rerigTold p x made dur (rerigPopped p rest s)).rig q = (rerigPopped p rest s).rig q := fun made dur =>
    (rerigTold_keeps p x made dur _).rig (by decide)
  rw [rerigEnded, rerigShown_busy]
  simp only [hrig, rerigPopped_begun]

/-- A re-rig that made neither a shift nor a move is not shown. -/
theorem rerigEnded_unmade {p : Nat} {s : State} (h : (s.rig p).rerigMade = false) (x : Rerig) (rest : List Rerig) :
    FieldsBut [Reg.RERIG_LAST_BUSY, Reg.PKG_CAPACITY_ACTIVE_FLIGHTS, Reg.PKG_CAPACITY_SPARED_ROWS] s (rerigEnded p x rest s) := by
  have htold : ∀ dur u, rerigTold p x false dur u = u := fun dur u => by cases x <;> rfl
  rw [rerigEnded, h, htold]
  exact rerigShown_fieldsBut _

/-- What a re-rig counted in `f` leaves, once the package shows its end. -/
theorem rerigShown_counted {f : Fld} (hf : f = Reg.RERIG_COUNTS_ROW_SHIFTS ∨ f = Reg.RERIG_COUNTS_ROLE_MOVES)
    (kind gf dur : Nat) (s : State) :
    let u := rerigShown (rerigCounted kind gf dur f s)
    u.get Reg.RERIG_LAST_KIND = kind % 4 ∧ u.get Reg.RERIG_LAST_GF = gf % 2 ^ 11 ∧ u.get f = min (s.get f + 1) 0xFFFF := by
  have hkind : f.key ≠ Reg.RERIG_LAST_KIND.key := by rcases hf with rfl | rfl <;> decide
  have hgf : f.key ≠ Reg.RERIG_LAST_GF.key := by rcases hf with rfl | rfl <;> decide
  have hdur : f.key ≠ Reg.RERIG_LAST_DURATION.key := by rcases hf with rfl | rfl <;> decide
  have hshown : f.key ∉ [Reg.RERIG_LAST_BUSY, Reg.PKG_CAPACITY_ACTIVE_FLIGHTS, Reg.PKG_CAPACITY_SPARED_ROWS].map Fld.key := by
    rcases hf with rfl | rfl <;> decide
  have hwidth : f.width = 16 := by rcases hf with rfl | rfl <;> rfl
  have hshow := rerigShown_fieldsBut (rerigCounted kind gf dur f s)
  refine ⟨(hshow _ (by decide)).trans ?_, (hshow _ (by decide)).trans ?_, (hshow f hshown).trans ?_⟩
  · exact (get_set_other _ _ hkind.symm).trans ((get_set_other _ _ (by decide)).trans
      ((get_set_other _ _ (by decide)).trans (get_set_self _ _ _)))
  · exact (get_set_other _ _ hgf.symm).trans ((get_set_other _ _ (by decide)).trans (get_set_self _ _ _))
  · refine (get_set_self _ _ _).trans ?_
    rw [get_set_other _ _ hdur, get_set_other _ _ hgf, get_set_other _ _ hkind, satAdd, hwidth]
    omega

theorem rerigEnded_row {p gf row col : Nat} {s : State} (h : (s.rig p).rerigMade = true) (rest : List Rerig) :
    let u := rerigEnded p (.row gf row col) rest s
    u.get Reg.RERIG_LAST_KIND = 1 ∧ u.get Reg.RERIG_LAST_GF = gf % 2 ^ 11
      ∧ u.get Reg.RERIG_COUNTS_ROW_SHIFTS = min (s.get Reg.RERIG_COUNTS_ROW_SHIFTS + 1) 0xFFFF := by
  rw [rerigEnded, h]
  exact rerigShown_counted (.inl rfl) 1 gf _ (rerigPopped p rest s)

theorem rerigEnded_role {p role y g : Nat} {s : State} (h : (s.rig p).rerigMade = true) (hg : s.roleFlight p role 0 = some g)
    (rest : List Rerig) : let u := rerigEnded p (.role role y) rest s
    u.get Reg.RERIG_LAST_KIND = 2 ∧ u.get Reg.RERIG_LAST_GF = g % 2 ^ 11
      ∧ u.get Reg.RERIG_COUNTS_ROLE_MOVES = min (s.get Reg.RERIG_COUNTS_ROLE_MOVES + 1) 0xFFFF := by
  have hflight : (rerigPopped p rest s).roleFlight p role 0 = some g := by
    rw [← hg, State.roleFlight, State.roleFlight, (rerigPopped_rig p rest s).1]
  have htold := rerigShown_counted (.inr rfl) 2 (((rerigPopped p rest s).roleFlight p role 0).getD 0)
    (min 0xFFFF ((s.time + 1 - (s.rig p).rerigStart) / 10000)) (rerigPopped p rest s)
  rw [hflight] at htold
  rw [rerigEnded, h, rerigTold, hflight]
  exact htold

section
variable {p : Nat} {x : Rerig} {rest : List Rerig} {s : State} (hp : p < 8) (hq : (s.rig p).rerigs = x :: rest)
  (now : W64)
include hp hq

theorem rerigComplete_waits (hwake : s.rerigWakes p x = true) : Gives (.rerigComplete now p) s (KeepsBut [.time, .out] s) := by
  have hq' : (State.rig (at_ now { s with out := [] }) p).rerigs = x :: rest := hq
  have hstill : rerigEnds p (at_ now { s with out := [] }) = at_ now { s with out := [] } := by
    rw [rerigEnds, hq']
    exact if_pos (Bool.or_eq_true_iff.2 (.inr hwake))
  exact gives_value ((exec_rerigComplete_eq now p s).trans (perform_partOk hp _ s)) hstill rfl
    (((keepsBut_out s []).mono (by decide)).trans ((at_keeps now _).mono (by decide)))

theorem rerigComplete_ends (hstart : (s.rig p).rerigStart ≠ 0) (hwake : s.rerigWakes p x = false) (hidle : s.fabric.waiting = [])
    {P : State → Prop} (h : P (rerigEnded p x rest (at_ now { s with out := [] }))) : Gives (.rerigComplete now p) s P := by
  have hq' : (State.rig (at_ now { s with out := [] }) p).rerigs = x :: rest := hq
  have hk := rerigEnded_keeps p x rest (at_ now { s with out := [] })
  have hends : rerigEnds p (at_ now { s with out := [] }) = rerigEnded p x rest (at_ now { s with out := [] }) := by
    have hfabric : (rerigEnded p x rest (at_ now { s with out := [] })).fabric = s.fabric := hk .fabric (by decide)
    rw [rerigEnds, hq', ← deliverWaiting_nothing (s := rerigEnded p x rest (at_ now { s with out := [] })) (by rw [hfabric, hidle])]
    exact if_neg (show ¬(decide ((s.rig p).rerigStart = 0) || s.rerigWakes p x) = true by simp [hstart, hwake])
  exact gives_value ((exec_rerigComplete_eq now p s).trans (perform_partOk hp _ s)) hends (hk .pending (by decide)) h

end

theorem rerigCompletes : Claims.RerigCompletes := by
  intro now p x rest s hp hq hstart
  refine ⟨rerigComplete_waits hp hq now, fun hwake hidle => rerigComplete_ends hp hq now hstart hwake hidle ?_⟩
  have hk := rerigEnded_keeps p x rest (at_ now { s with out := [] })
  obtain ⟨hrig, hother⟩ := rerigEnded_rig p x rest (at_ now { s with out := [] })
  refine ⟨by rw [hrig], by rw [hrig], hother, hk .mem (by decide), hk .treads (by decide), rerigEnded_busy p x rest _,
    fun hmade => rerigEnded_unmade (s := at_ now { s with out := [] }) hmade x rest, fun gf row col hx hmade => ?_,
    fun role y g hx hg hmade => ?_⟩
  · subst hx
    exact rerigEnded_row (s := at_ now { s with out := [] }) hmade rest
  · subst hx
    exact rerigEnded_role (s := at_ now { s with out := [] }) hmade hg rest

/-- Settles O21: a row shift and a role move by what the read of the image slot gives, and the end of a re-rig by what it had made. -/
theorem partialRerigs : Obligations.PartialRerigs := ⟨rowShifts, roleMoves, rerigCompletes⟩

end Sys2Proof.Machine
end

section
/-!
PROOFS. The words of treads (04 R131 to R133): every legal instruction is read back from its word, and no other word decodes.
-/
namespace Sys2Proof.Machine
open State Laws

/-! ## The words of treads (04 R131 to R133) -/

theorem f5_eq {w lo : Nat} {v : BitVec 5} (h : bits w lo 5 = v.toNat) : f5 w lo = v := by
  rw [f5, h, BitVec.ofNat_toNat, BitVec.setWidth_eq]

theorem f3_eq {w lo : Nat} {v : BitVec 3} (h : bits w lo 3 = v.toNat) : f3 w lo = v := by
  rw [f3, h, BitVec.ofNat_toNat, BitVec.setWidth_eq]

theorem f2_eq {w lo : Nat} {v : BitVec 2} (h : bits w lo 2 = v.toNat) : f2 w lo = v := by
  rw [f2, h, BitVec.ofNat_toNat, BitVec.setWidth_eq]

theorem f16_eq {w : Nat} {v : BitVec 16} (h : bits w 0 16 = v.toNat) : f16 w = v := by
  rw [f16, h, BitVec.ofNat_toNat, BitVec.setWidth_eq]

theorem bit_eq_of_bits {w i : Nat} {b : Bool} (h : bits w i 1 = b2n b) : bit w i = b := by
  rw [bit, show w / 2 ^ i % 2 = b2n b from h]
  cases b <;> rfl

theorem b2n_le_one (b : Bool) : b2n b ≤ 1 := by cases b <;> decide

/-! Each format's fields, read back from a word of the format. -/

section
variable (rd ra rb sh a b rs : BitVec 5) (imm : BitVec 16) (vd va vb vc row : BitVec 3) (bank : BitVec 1) (ch len : BitVec 2)
  (sr : BitVec 8)

theorem wordR_fields {fn : Nat} (hfn : fn < 64) :
    wordOp (wordR fn rd ra rb) = 0 ∧ wordFn (wordR fn rd ra rb) = fn
    ∧ f5 (wordR fn rd ra rb) 21 = rd ∧ f5 (wordR fn rd ra rb) 16 = ra ∧ f5 (wordR fn rd ra rb) 11 = rb := by
  refine ⟨?_, ?_, f5_eq ?_, f5_eq ?_, f5_eq ?_⟩ <;> simp only [wordOp, wordFn, bits, wordR] <;> omega

theorem wordShift_fields {kind : Nat} (hk : kind < 4) :
    wordOp (wordShift kind rd ra sh) = 6 ∧ bits (wordShift kind rd ra sh) 5 2 = kind
    ∧ f5 (wordShift kind rd ra sh) 21 = rd ∧ f5 (wordShift kind rd ra sh) 16 = ra ∧ f5 (wordShift kind rd ra sh) 0 = sh := by
  refine ⟨?_, ?_, f5_eq ?_, f5_eq ?_, f5_eq ?_⟩ <;> simp only [wordOp, bits, wordShift] <;> omega

theorem wordI_fields {op : Nat} (hop : op < 64) :
    wordOp (wordI op a b imm) = op ∧ f5 (wordI op a b imm) 21 = a ∧ f5 (wordI op a b imm) 16 = b ∧ f16 (wordI op a b imm) = imm := by
  refine ⟨?_, f5_eq ?_, f5_eq ?_, f16_eq ?_⟩ <;> simp only [wordOp, bits, wordI] <;> omega

theorem wordVM_fields {op : Nat} (hop : op < 64) :
    wordOp (wordVM op vd ra imm) = op ∧ f3 (wordVM op vd ra imm) 23 = vd ∧ f5 (wordVM op vd ra imm) 16 = ra
    ∧ f16 (wordVM op vd ra imm) = imm := by
  refine ⟨?_, f3_eq ?_, f5_eq ?_, f16_eq ?_⟩ <;> simp only [wordOp, bits, wordVM] <;> omega

theorem wordLui_fields (imm21 : BitVec 21) : let w := 0x07 * 2 ^ 26 + rd.toNat * 2 ^ 21 + imm21.toNat
    wordOp w = 7 ∧ f5 w 21 = rd ∧ BitVec.ofNat 21 (bits w 0 21) = imm21 := by
  refine ⟨?_, f5_eq ?_, BitVec.eq_of_toNat_eq ?_⟩ <;> simp only [wordOp, bits, BitVec.toNat_ofNat] <;> omega

theorem wordJal_fields (off : BitVec 26) : let w := 0x17 * 2 ^ 26 + off.toNat
    wordOp w = 0x17 ∧ BitVec.ofNat 26 (bits w 0 26) = off := by
  refine ⟨?_, BitVec.eq_of_toNat_eq ?_⟩ <;> simp only [wordOp, bits, BitVec.toNat_ofNat] <;> omega

/-- Format C with a scalar register, and with a vector register. -/
theorem wordC_scalar_fields {op low : Nat} (hop : op < 64) (hlow : low < 8) :
    wordOp (wordC op rd.toNat ch len low) = op ∧ f5 (wordC op rd.toNat ch len low) 21 = rd
    ∧ f2 (wordC op rd.toNat ch len low) 19 = ch ∧ f2 (wordC op rd.toNat ch len low) 17 = len := by
  refine ⟨?_, f5_eq ?_, f2_eq ?_, f2_eq ?_⟩ <;> simp only [wordOp, bits, wordC] <;> omega

theorem wordC_vector_fields {op : Nat} (hop : op < 64) :
    wordOp (wordC op vd.toNat ch len va.toNat) = op ∧ f3 (wordC op vd.toNat ch len va.toNat) 21 = vd
    ∧ f2 (wordC op vd.toNat ch len va.toNat) 19 = ch ∧ f2 (wordC op vd.toNat ch len va.toNat) 17 = len
    ∧ f3 (wordC op vd.toNat ch len va.toNat) 14 = va := by
  refine ⟨?_, f3_eq ?_, f2_eq ?_, f2_eq ?_, f3_eq ?_⟩ <;> simp only [wordOp, bits, wordC] <;> omega

theorem wordPoll_fields (p : Bool) : let w := wordC 0x1B rd.toNat ch 0 0 + b2n p * 2 ^ 16
    wordOp w = 0x1B ∧ f5 w 21 = rd ∧ f2 w 19 = ch ∧ bit w 16 = p := by
  have hp := b2n_le_one p
  refine ⟨?_, f5_eq ?_, f2_eq ?_, bit_eq_of_bits ?_⟩ <;>
    simp only [wordOp, bits, wordC, BitVec.ofNat_eq_ofNat, BitVec.toNat_ofNat, Nat.zero_mod] <;> omega

theorem wordV_fields (wide : Bool) {fn : Nat} (hfn : fn < 64) :
    wordOp (wordV fn vd va vb vc wide rs) = 0x20 ∧ wordFn (wordV fn vd va vb vc wide rs) = fn
    ∧ f3 (wordV fn vd va vb vc wide rs) 23 = vd ∧ f3 (wordV fn vd va vb vc wide rs) 20 = va
    ∧ f3 (wordV fn vd va vb vc wide rs) 17 = vb ∧ f3 (wordV fn vd va vb vc wide rs) 14 = vc
    ∧ bit (wordV fn vd va vb vc wide rs) 13 = wide ∧ f5 (wordV fn vd va vb vc wide rs) 8 = rs := by
  have hw := b2n_le_one wide
  refine ⟨?_, ?_, f3_eq ?_, f3_eq ?_, f3_eq ?_, f3_eq ?_, bit_eq_of_bits ?_, f5_eq ?_⟩ <;>
    simp only [wordOp, wordFn, bits, wordV] <;> omega

theorem wordA_fields {fn : Nat} (hfn : fn < 64) :
    wordOp (wordA fn vd bank row) = 0x21 ∧ wordFn (wordA fn vd bank row) = fn ∧ f3 (wordA fn vd bank row) 23 = vd
    ∧ BitVec.ofNat 1 (bits (wordA fn vd bank row) 22 1) = bank ∧ f3 (wordA fn vd bank row) 19 = row := by
  refine ⟨?_, ?_, f3_eq ?_, BitVec.eq_of_toNat_eq ?_, f3_eq ?_⟩ <;>
    simp only [wordOp, wordFn, bits, wordA, BitVec.toNat_ofNat] <;> omega

theorem wordY_fields {fn : Nat} (hfn : fn < 64) :
    wordOp (wordY fn rd ra sr) = 0x3F ∧ wordFn (wordY fn rd ra sr) = fn ∧ f5 (wordY fn rd ra sr) 21 = rd
    ∧ f5 (wordY fn rd ra sr) 16 = ra ∧ BitVec.ofNat 8 (bits (wordY fn rd ra sr) 8 8) = sr := by
  refine ⟨?_, ?_, f5_eq ?_, f5_eq ?_, BitVec.eq_of_toNat_eq ?_⟩ <;>
    simp only [wordOp, wordFn, bits, wordY, BitVec.toNat_ofNat] <;> omega

end

theorem decodeTread_of_legal {t w : Nat} (hl : legalWord w = true) : decodeTread t w =
    if wordOp w = 0x00 then decodeR t w
    else if wordOp w = 0x06 then decodeShift t w
    else if wordOp w = 0x20 then decodeV t w
    else if wordOp w = 0x21 then decodeA t w
    else if wordOp w = 0x3F then decodeY t w
    else if 0x19 ≤ wordOp w then decodeC t w
    else decodeI t w := by
  rw [decodeTread, hl]
  rfl

/-- Settles O11: the fields of each format are read back from a word of the format, and OP and FN name the instruction. -/
theorem treadWordsDecode : Obligations.TreadWordsDecode := by
  intro c t w he hl
  rw [decodeTread_of_legal hl]
  cases c
  case add | sub | and | or | xor | sll | srl | sra | slt | sltu | min | max | minu | maxu | mul | mulh | mulhu | clz | popc =>
    obtain ⟨rfl, rfl⟩ := Prod.mk.inj (Option.some.inj he)
    simp [decodeR, wordR_fields]
  case slli | srli | srai =>
    obtain ⟨rfl, rfl⟩ := Prod.mk.inj (Option.some.inj he)
    simp [decodeShift, wordShift_fields]
  case addi | andi | ori | xori | slti | lw | lh | lhu | lbu | sw | sh | sb | beq | bne | blt | bge | bltu | bgeu | jalr =>
    obtain ⟨rfl, rfl⟩ := Prod.mk.inj (Option.some.inj he)
    simp [decodeI, wordI_fields]
  case vld | vst =>
    obtain ⟨rfl, rfl⟩ := Prod.mk.inj (Option.some.inj he)
    simp [decodeI, wordVM_fields]
  case lui rd imm21 =>
    obtain ⟨rfl, hw⟩ := Prod.mk.inj (Option.some.inj he)
    obtain ⟨hop, hrd, himm⟩ := hw ▸ wordLui_fields rd imm21
    simp [decodeI, hop, hrd, himm]
  case jal off =>
    obtain ⟨rfl, hw⟩ := Prod.mk.inj (Option.some.inj he)
    obtain ⟨hop, hoff⟩ := hw ▸ wordJal_fields off
    simp [decodeI, hop, hoff]
  case recv | send =>
    obtain ⟨rfl, rfl⟩ := Prod.mk.inj (Option.some.inj he)
    simp [decodeC, wordC_scalar_fields]
  case vrecv | vsend =>
    obtain ⟨rfl, rfl⟩ := Prod.mk.inj (Option.some.inj he)
    simp [decodeC, wordC_vector_fields]
  case poll reg ch p =>
    obtain ⟨rfl, hw⟩ := Prod.mk.inj (Option.some.inj he)
    obtain ⟨hop, hreg, hch, hp⟩ := hw ▸ wordPoll_fields reg ch p
    simp [decodeC, hop, hreg, hch, hp]
  case vadd | vsub | vmul | vfma | vmin | vmax | vabs | vneg | vrcp | vrsqrt | vcmplt | vcmpeq | vsel | vred | vsplat | vext | vins
      | viadd | vand | vor | vxor | vcvt =>
    obtain ⟨rfl, rfl⟩ := Prod.mk.inj (Option.some.inj he)
    simp [decodeV, wordV_fields]
  case accrd | accclr | accrel =>
    obtain ⟨rfl, rfl⟩ := Prod.mk.inj (Option.some.inj he)
    simp [decodeA, wordA_fields]
  case nop | halt | fence | rdsr | wrsr | brk | trap =>
    obtain ⟨rfl, rfl⟩ := Prod.mk.inj (Option.some.inj he)
    simp [decodeY, wordY_fields]
  all_goals cases he

/-! Words that are no instruction (R133). -/

theorem f5_toNat (w lo : Nat) : (f5 w lo).toNat = bits w lo 5 := Nat.mod_eq_of_lt (bits_lt w lo 5)
theorem f3_toNat (w lo : Nat) : (f3 w lo).toNat = bits w lo 3 := Nat.mod_eq_of_lt (bits_lt w lo 3)
theorem f2_toNat (w lo : Nat) : (f2 w lo).toNat = bits w lo 2 := Nat.mod_eq_of_lt (bits_lt w lo 2)

theorem decodeTread_of_illegal {t w : Nat} (h : legalWord w = false) : decodeTread t w = none := by
  rw [decodeTread, h]
  rfl

theorem decodeR_isSome {t w : Nat} (h : wordFn w ≤ 0x12) : (decodeR t w).isSome := by
  simp only [decodeR]
  generalize wordFn w = fn at h
  interval_cases fn <;> rfl

theorem decodeShift_isSome {t w : Nat} (h : bits w 5 2 ≠ 3) : (decodeShift t w).isSome := by
  have hlt : bits w 5 2 < 3 := Nat.lt_of_le_of_ne (Nat.le_of_lt_succ (bits_lt w 5 2)) h
  simp only [decodeShift]
  generalize bits w 5 2 = kind at hlt
  interval_cases kind <;> rfl

theorem decodeV_isSome {t w : Nat} (h : wordFn w ≤ 0x15) : (decodeV t w).isSome := by
  simp only [decodeV]
  generalize wordFn w = fn at h
  interval_cases fn <;> rfl

theorem decodeA_isSome {t w : Nat} (h : wordFn w ≤ 2) : (decodeA t w).isSome := by
  simp only [decodeA]
  generalize wordFn w = fn at h
  interval_cases fn <;> rfl

theorem decodeY_isSome {t w : Nat} (h : wordFn w ≤ 6) : (decodeY t w).isSome := by
  simp only [decodeY]
  generalize wordFn w = fn at h
  interval_cases fn <;> rfl

theorem decodeC_isSome {t w : Nat} (h : 0x19 ≤ wordOp w) (h' : wordOp w ≤ 0x1D) : (decodeC t w).isSome := by
  simp only [decodeC]
  generalize wordOp w = op at h h'
  interval_cases op <;> rfl

theorem decodeI_isSome {t w : Nat} (h0 : wordOp w ≠ 0) (h6 : wordOp w ≠ 6) (h : wordOp w ≤ 0x18) : (decodeI t w).isSome := by
  have hsplit : 1 ≤ wordOp w ∧ wordOp w ≤ 5 ∨ 7 ≤ wordOp w ∧ wordOp w ≤ 0x18 := by omega
  simp only [decodeI]
  generalize wordOp w = op at hsplit
  rcases hsplit with ⟨hlo, hhi⟩ | ⟨hlo, hhi⟩ <;> interval_cases op <;> rfl

/-- The opcodes that R132 gives an instruction. -/
theorem wordOp_of_legal {w : Nat} (hl : legalWord w = true) : wordOp w ≤ 0x1D ∨ wordOp w = 0x20 ∨ wordOp w = 0x21 ∨ wordOp w = 0x3F := by
  by_contra! h
  obtain ⟨hlow, hv, ha, hy⟩ := h
  have hfalse : legalWord w = false := by
    simp only [legalWord]
    repeat rw [if_neg (by omega)]
  simp [hl] at hfalse

theorem decodeTread_isSome_of_legal {t w : Nat} (hl : legalWord w = true) : (decodeTread t w).isSome := by
  have hop := wordOp_of_legal hl
  rw [decodeTread_of_legal hl]
  split_ifs with h0 h6 hv ha hy hc
  · refine decodeR_isSome ?_
    simp [legalWord, h0] at hl
    exact hl.1
  · refine decodeShift_isSome ?_
    simp [legalWord, h6] at hl
    exact hl.2
  · refine decodeV_isSome ?_
    simp [legalWord, hv, legalV] at hl
    exact hl.1.1.2
  · refine decodeA_isSome ?_
    simp [legalWord, ha] at hl
    exact hl.2
  · refine decodeY_isSome ?_
    simp [legalWord, hy, legalY] at hl
    exact hl.1.1.2
  · exact decodeC_isSome hc (by omega)
  · exact decodeI_isSome h0 h6 (by omega)

theorem decodeTread_isSome_iff (t w : Nat) : (decodeTread t w).isSome ↔ legalWord w = true := by
  refine ⟨fun h => ?_, decodeTread_isSome_of_legal⟩
  cases hl : legalWord w
  · rw [decodeTread_of_illegal hl] at h
    cases h
  · rfl

theorem legalWord_tuple_past_s31 {w : Nat} (hop : wordOp w = 0x19 ∨ wordOp w = 0x1A) (h : 31 < bits w 21 5 + bits w 17 2) :
    legalWord w = false := by
  rcases hop with hop | hop <;> simp [legalWord, hop] <;> omega

theorem legalWord_tuple_past_lane7 {w : Nat} (hop : wordOp w = 0x1C ∨ wordOp w = 0x1D) (h : 7 < bits w 14 3 + bits w 17 2) :
    legalWord w = false := by
  rcases hop with hop | hop <;> simp [legalWord, hop] <;> omega

theorem legalWord_reserved_rounding {w : Nat} (hop : wordOp w = 0x20) (hfn : wordFn w = 0x15) (h : 2 < bits w 14 3) : legalWord w = false := by
  simp [legalWord, hop, legalV, hfn, h]

theorem legalWord_unlisted_register {w : Nat} (hop : wordOp w = 0x3F) (hfn : wordFn w = 3) (h : 8 < bits w 8 8) : legalWord w = false := by
  simp [legalWord, hop, legalY, hfn, srListed, h]

theorem legalWord_readOnly_register {w : Nat} (hop : wordOp w = 0x3F) (hfn : wordFn w = 4) (h : srWritable (bits w 8 8) = false) :
    legalWord w = false := by
  simp [legalWord, hop, legalY, hfn, h]

/-- Settles O12: an instruction's format decodes for every legal OP and FN, and each operand that R133 forbids makes the word illegal. -/
theorem wordsAreLegalOrIllegal : Obligations.WordsAreLegalOrIllegal := by
  intro t w reg vr lane kind rnd ch len sr _
  refine ⟨decodeTread_isSome_iff t w, fun hop => decodeTread_of_illegal ?_, fun h => ?_, fun h => ?_, fun h he => ?_, fun h he => ?_,
    fun h he => ?_⟩
  · refine Bool.eq_false_iff.2 fun hl => ?_
    have hlegal := wordOp_of_legal hl
    rw [wordOp] at hlegal
    omega
  · have htuple : ∀ op, op = 0x19 ∨ op = 0x1A → decodeTread t (wordC op reg.toNat ch len 0) = none := fun op hop => by
      obtain ⟨hw, hreg, -, hlen⟩ := wordC_scalar_fields reg ch len (op := op) (low := 0) (by omega) (by decide)
      refine decodeTread_of_illegal (legalWord_tuple_past_s31 (by omega) ?_)
      rwa [← f5_toNat, ← f2_toNat, hreg, hlen]
    refine ⟨fun he => ?_, fun he => ?_⟩ <;> obtain ⟨-, rfl⟩ := Prod.mk.inj (Option.some.inj he)
    · exact htuple 0x1A (.inr rfl)
    · exact htuple 0x19 (.inl rfl)
  · have htuple : ∀ op, op = 0x1C ∨ op = 0x1D → decodeTread t (wordC op vr.toNat ch len lane.toNat) = none := fun op hop => by
      obtain ⟨hw, -, -, hlen, hlane⟩ := wordC_vector_fields vr lane ch len (op := op) (by omega)
      refine decodeTread_of_illegal (legalWord_tuple_past_lane7 (by omega) ?_)
      rwa [← f3_toNat, ← f2_toNat, hlane, hlen]
    refine ⟨fun he => ?_, fun he => ?_⟩ <;> obtain ⟨-, rfl⟩ := Prod.mk.inj (Option.some.inj he)
    · exact htuple 0x1D (.inr rfl)
    · exact htuple 0x1C (.inl rfl)
  · obtain ⟨-, rfl⟩ := Prod.mk.inj (Option.some.inj he)
    obtain ⟨hop, hfn, -, -, -, hrnd, -⟩ := wordV_fields 0 vr lane kind rnd false (fn := 0x15) (by decide)
    refine decodeTread_of_illegal (legalWord_reserved_rounding hop hfn ?_)
    rwa [← f3_toNat, hrnd]
  · obtain ⟨-, rfl⟩ := Prod.mk.inj (Option.some.inj he)
    obtain ⟨hop, hfn, -, -, hsr⟩ := wordY_fields reg 0 sr (fn := 3) (by decide)
    refine decodeTread_of_illegal (legalWord_unlisted_register hop hfn ?_)
    rwa [← bits_mod_width, ← BitVec.toNat_ofNat, hsr]
  · obtain ⟨-, rfl⟩ := Prod.mk.inj (Option.some.inj he)
    obtain ⟨hop, hfn, -, -, hsr⟩ := wordY_fields 0 reg sr (fn := 4) (by decide)
    refine decodeTread_of_illegal (legalWord_readOnly_register hop hfn ?_)
    rw [← bits_mod_width, ← BitVec.toNat_ofNat, hsr]
    simp only [List.mem_cons, List.not_mem_nil, or_false, not_or, ← BitVec.toNat_inj] at h
    simpa [srWritable, and_assoc] using h

end Sys2Proof.Machine
end

section
/-!
PROOFS. Treads (04 R127 to R137): what each instruction makes of its tread, and what it leaves.
-/
namespace Sys2Proof.Machine
open State Laws

/-! ## Treads execute (04 R127, R128) -/

theorem keepsBut_treads (s : State) (x : Tbl Tread) : KeepsBut [.treads] s { s with treads := x } := by
  intro a ha
  cases a <;> simp [Area.same] at ha ⊢

/-- The state in which tread `t` is `x`, with silent ports. -/
def treadBecomes (t : Nat) (x : Tread) (s : State) : State := State.setTread t x { s with out := [] }

@[simp] theorem treadBecomes_tread (t : Nat) (x : Tread) (s : State) : (treadBecomes t x s).tread t = x := tread_setTread_self t x _

theorem treadBecomes_only (l : List Area) (t : Nat) (x : Tread) (s : State) : OnlyTread l t s (treadBecomes t x s) := by
  refine ⟨?_, fun t' ht => tread_setTread_other ht x _⟩
  exact ((keepsBut_out s []).mono (by simp)).trans ((keepsBut_treads { s with out := [] } _).mono (by simp))

theorem Runs.whenRun {t : Nat} {s : State} (hr : Runs t s) (f : State → State) : whenRun t f s = f s := by
  rw [Machine.whenRun, hr.2]
  rfl

theorem Runs.runTread {t : Nat} {s : State} (hr : Runs t s) (n : Nat) (f : Tread → Tread) :
    runTread t n f s = s.setTread t ((f (s.tread t)).beat n).nextPc := by
  rw [Machine.runTread, hr.2]
  rfl

theorem Runs.silent {t : Nat} {s : State} (hr : Runs t s) : Runs t { s with out := [] } := hr

theorem gives_of_treadOk {c : Instr} {t : Nat} {f : State → State} {s u : State} {P : State → Prop} (hr : Runs t s)
    (hc : exec c s = perform (treadOk t) f s) (hf : f { s with out := [] } = u) (hq : u.pending = s.pending) (hP : P u) :
    Gives c s P := by
  obtain ⟨hok, -⟩ := hr
  exact gives_value (hok ▸ hc) hf hq hP

theorem gives_treadBecomes {c : Instr} {t : Nat} {f : State → State} {s : State} {x : Tread} {P : State → Prop} (hr : Runs t s)
    (hc : exec c s = perform (treadOk t) f s) (hf : f { s with out := [] } = treadBecomes t x s) (hP : P (treadBecomes t x s)) :
    Gives c s P :=
  gives_of_treadOk hr hc hf rfl hP

/-- The state after an instruction of `n` beats that makes `y` of tread `t`. -/
def treadSteps (t n : Nat) (y : Tread) (s : State) : State := treadBecomes t (y.beat n).nextPc s

theorem gives_treadSteps {c : Instr} {t n : Nat} {f : Tread → Tread} {s : State} {P : State → Prop} (hr : Runs t s)
    (hc : exec c s = perform (treadOk t) (runTread t n f) s) (hP : P (treadSteps t n (f (s.tread t)) s)) : Gives c s P :=
  gives_treadBecomes hr hc (hr.silent.runTread n f) hP

@[simp] theorem treadSteps_tread (t n : Nat) (y : Tread) (s : State) : (treadSteps t n y s).tread t = (y.beat n).nextPc :=
  treadBecomes_tread t _ s

theorem treadSteps_only (l : List Area) (t n : Nat) (y : Tread) (s : State) : OnlyTread l t s (treadSteps t n y s) :=
  treadBecomes_only l t _ s

theorem treadSteps_next {t n : Nat} {y : Tread} {s : State} (hpc : y.pc = (s.tread t).pc) (hbeats : y.beats = (s.tread t).beats) :
    NextInstruction t n s (treadSteps t n y s) := by
  rw [NextInstruction, treadSteps_tread, ← hpc, ← hbeats]
  exact ⟨rfl, rfl⟩

theorem treadSteps_result (t n : Nat) (s : State) : TreadResult t n s (treadSteps t n (s.tread t) s) :=
  ⟨treadSteps_only [] t n _ s, treadSteps_next rfl rfl, by rw [treadSteps_tread]; rfl⟩

/-! Scalar registers. -/

theorem s_setS_self {r : Nat} (h : r ≠ 0) (v : W32) (x : Tread) : (x.setS r v).s r = v := by
  simp [Tread.setS, Tread.s, h]

theorem s_setS_other {r q : Nat} (h : q ≠ r) (v : W32) (x : Tread) : (x.setS r v).s q = x.s q := by
  by_cases hr : r = 0
  · simp [Tread.setS, hr]
  · simp [Tread.setS, Tread.s, hr, tget_tset_other _ _ h]

/-- A write of a scalar register changes the scalar registers alone. -/
theorem setS_sreg (r : Nat) (v : W32) (x : Tread) : ∃ m, x.setS r v = { x with sreg := m } := by
  unfold Tread.setS
  split
  · exact ⟨x.sreg, rfl⟩
  · exact ⟨_, rfl⟩

theorem scalarTakes_of_setS {t : Nat} {rd : BitVec 5} {v : W32} {s u : State} (h : (u.tread t).sreg = ((s.tread t).setS rd.toNat v).sreg) :
    ScalarTakes t rd v s u := by
  have hs : ∀ r, (u.tread t).s r = ((s.tread t).setS rd.toNat v).s r := fun r => by rw [Tread.s, Tread.s, h]
  refine ⟨fun hrd => (hs _).trans (s_setS_self (fun h0 => hrd (BitVec.eq_of_toNat_eq h0)) v _), fun r hr => (hs r).trans (s_setS_other hr v _)⟩

theorem treadSteps_scalar (t n : Nat) (rd : BitVec 5) (v : W32) (s : State) :
    ScalarResult t n rd v s (treadSteps t n ((s.tread t).setS rd.toNat v) s) := by
  obtain ⟨m, hm⟩ := setS_sreg rd.toNat v (s.tread t)
  refine ⟨treadSteps_only [] t n _ s, treadSteps_next (by rw [hm]) (by rw [hm]), scalarTakes_of_setS ?_, ?_⟩
  · rw [treadSteps_tread]
    rfl
  · rw [treadSteps_tread, hm]
    rfl

theorem alu_gives {c : Instr} {t n : Nat} {rd : BitVec 5} {f : Tread → W32} {v : W32} {s : State} (hr : Runs t s)
    (hc : exec c s = alu t n rd f s) (hv : f (s.tread t) = v) : Gives c s (ScalarResult t n rd v s) :=
  gives_treadSteps hr hc (hv ▸ treadSteps_scalar t n rd (f (s.tread t)) s)

/-! ## Scalar register instructions (04 R132) -/

/-! The results of the table as words. -/

section
variable (a b : BitVec 32) (imm : BitVec 16)

theorem add_eq_ofNat : a + b = BitVec.ofNat 32 (a.toNat + b.toNat) := BitVec.eq_of_toNat_eq (by simp)

theorem sub_eq_ofInt : a - b = BitVec.ofInt 32 ((a.toNat : Int) - (b.toNat : Int)) := by
  refine BitVec.eq_of_toNat_eq ?_
  rw [BitVec.toNat_sub, BitVec.toNat_ofInt]
  omega

theorem shiftLeft_eq_ofNat (n : Nat) : a <<< n = BitVec.ofNat 32 (a.toNat * 2 ^ n) := by
  refine BitVec.eq_of_toNat_eq ?_
  rw [BitVec.toNat_shiftLeft, BitVec.toNat_ofNat, Nat.shiftLeft_eq]

theorem ushiftRight_eq_ofNat (n : Nat) : a >>> n = BitVec.ofNat 32 (a.toNat / 2 ^ n) := by
  refine BitVec.eq_of_toNat_eq ?_
  have hlt : a.toNat / 2 ^ n < 2 ^ 32 := Nat.lt_of_le_of_lt (Nat.div_le_self _ _) a.isLt
  rw [BitVec.toNat_ushiftRight, BitVec.toNat_ofNat, Nat.shiftRight_eq_div_pow, Nat.mod_eq_of_lt hlt]

theorem sshiftRight_eq_ofInt (n : Nat) : a.sshiftRight n = BitVec.ofInt 32 (a.toInt / 2 ^ n) := by
  rw [BitVec.sshiftRight, Int.shiftRight_eq_div_pow]
  norm_cast

theorem ofBool_slt : ofBool (a.slt b) = if a.toInt < b.toInt then 1 else 0 := by
  simp [ofBool, BitVec.slt]

theorem ofBool_ult : ofBool (a.ult b) = if a.toNat < b.toNat then 1 else 0 := by
  simp [ofBool, BitVec.ult]

theorem signed_min_eq : (if a.slt b then a else b) = BitVec.ofInt 32 (min a.toInt b.toInt) := by
  by_cases h : a.toInt < b.toInt
  · simp [BitVec.slt, h, Int.min_eq_left (Int.le_of_lt h)]
  · simp [BitVec.slt, h, Int.min_eq_right (Int.not_lt.1 h)]

theorem signed_max_eq : (if a.slt b then b else a) = BitVec.ofInt 32 (max a.toInt b.toInt) := by
  by_cases h : a.toInt < b.toInt
  · simp [BitVec.slt, h, Int.max_eq_right (Int.le_of_lt h)]
  · simp [BitVec.slt, h, Int.max_eq_left (Int.not_lt.1 h)]

theorem unsigned_min_eq : (if a.ult b then a else b) = BitVec.ofNat 32 (min a.toNat b.toNat) := by
  by_cases h : a.toNat < b.toNat
  · simp [BitVec.ult, h, Nat.min_eq_left (Nat.le_of_lt h)]
  · simp [BitVec.ult, h, Nat.min_eq_right (Nat.le_of_not_lt h)]

theorem unsigned_max_eq : (if a.ult b then b else a) = BitVec.ofNat 32 (max a.toNat b.toNat) := by
  by_cases h : a.toNat < b.toNat
  · simp [BitVec.ult, h, Nat.max_eq_right (Nat.le_of_lt h)]
  · simp [BitVec.ult, h, Nat.max_eq_left (Nat.le_of_not_lt h)]

theorem mul_eq_ofNat : a * b = BitVec.ofNat 32 (a.toNat * b.toNat) := BitVec.eq_of_toNat_eq (by simp)

theorem signed_mul_high : BitVec.ofInt 32 (a.toInt * b.toInt / 2 ^ 32) = (a.signExtend 64 * b.signExtend 64).extractLsb' 32 32 := by
  refine BitVec.eq_of_toNat_eq ?_
  rw [BitVec.signExtend, BitVec.signExtend, ← BitVec.ofInt_mul, BitVec.extractLsb'_toNat, BitVec.toNat_ofInt, BitVec.toNat_ofInt,
    Nat.shiftRight_eq_div_pow]
  generalize a.toInt * b.toInt = p
  omega

theorem unsigned_mul_high : BitVec.ofNat 32 (a.toNat * b.toNat / 2 ^ 32) = (a.setWidth 64 * b.setWidth 64).extractLsb' 32 32 := by
  refine BitVec.eq_of_toNat_eq ?_
  rw [BitVec.extractLsb'_toNat, BitVec.toNat_mul, BitVec.toNat_setWidth_of_le (by decide), BitVec.toNat_setWidth_of_le (by decide),
    BitVec.toNat_ofNat, Nat.shiftRight_eq_div_pow]
  generalize a.toNat * b.toNat = p
  omega

theorem clz_eq {z : Nat} (hz : z ≤ 32) (hlt : a.toNat < 2 ^ (32 - z)) (hle : z < 32 → 2 ^ (31 - z) ≤ a.toNat) :
    clz a = BitVec.ofNat 32 z := by
  by_cases h32 : z = 32
  · subst h32
    have h0 : a = 0 := BitVec.eq_of_toNat_eq (by simpa using hlt)
    rw [h0]
    rfl
  · have hge := hle (by omega)
    have hne : a.toNat ≠ 0 := Nat.ne_of_gt (Nat.lt_of_lt_of_le (Nat.two_pow_pos _) hge)
    have hlog : Nat.log2 a.toNat = 31 - z := (Nat.log2_eq_iff hne).2 ⟨hge, by rwa [show 31 - z + 1 = 32 - z by omega]⟩
    rw [clz, if_neg fun h0 => hne (by rw [h0]; rfl), hlog, show 31 - (31 - z) = z by omega]

theorem ones_eq_countP (n v : Nat) : ones n v = (List.range n).countP v.testBit := by
  induction n generalizing v with
  | zero => rfl
  | succ n ih =>
    rw [List.range_succ_eq_map, List.countP_cons, List.countP_map, ones, ih, Nat.testBit_zero, Nat.add_comm]
    have hshift : (v / 2).testBit = v.testBit ∘ Nat.succ := funext fun i => (Nat.testBit_succ v i).symm
    rw [hshift]
    rcases Nat.mod_two_eq_zero_or_one v with h | h <;> simp [h]

theorem addi_eq_ofInt : a + imm.signExtend 32 = BitVec.ofInt 32 (a.toInt + imm.toInt) := by
  rw [BitVec.ofInt_add, BitVec.ofInt_toInt, BitVec.signExtend]

theorem andi_eq_ofNat : a &&& imm.zeroExtend 32 = BitVec.ofNat 32 (a.toNat &&& imm.toNat) := by
  rw [BitVec.ofNat_and, BitVec.ofNat_toNat, BitVec.setWidth_eq, BitVec.ofNat_toNat]
theorem ori_eq_ofNat : a ||| imm.zeroExtend 32 = BitVec.ofNat 32 (a.toNat ||| imm.toNat) := by
  rw [BitVec.ofNat_or, BitVec.ofNat_toNat, BitVec.setWidth_eq, BitVec.ofNat_toNat]
theorem xori_eq_ofNat : a ^^^ imm.zeroExtend 32 = BitVec.ofNat 32 (a.toNat ^^^ imm.toNat) := by
  rw [BitVec.ofNat_xor, BitVec.ofNat_toNat, BitVec.setWidth_eq, BitVec.ofNat_toNat]

theorem signExtend_toInt : (imm.signExtend 32).toInt = imm.toInt := BitVec.toInt_signExtend_of_le (by decide)

theorem zeroExtend_shiftLeft (imm21 : BitVec 21) : imm21.zeroExtend 32 <<< 11 = imm21 ++ 0#11 := by
  refine BitVec.eq_of_toNat_eq ?_
  rw [BitVec.toNat_shiftLeft, BitVec.toNat_append, BitVec.toNat_ofNat, Nat.or_zero, BitVec.toNat_setWidth, Nat.shiftLeft_eq, Nat.shiftLeft_eq]
  omega

end

theorem scalarRegisterOperations : Claims.ScalarRegisterOperations := by
  intro t rd ra rb s hr a b gives
  exact ⟨alu_gives hr rfl (add_eq_ofNat a b), alu_gives hr rfl (sub_eq_ofInt a b), alu_gives hr rfl rfl, alu_gives hr rfl rfl,
    alu_gives hr rfl rfl, alu_gives hr rfl (shiftLeft_eq_ofNat a _), alu_gives hr rfl (ushiftRight_eq_ofNat a _),
    alu_gives hr rfl (sshiftRight_eq_ofInt a _), alu_gives hr rfl (ofBool_slt a b), alu_gives hr rfl (ofBool_ult a b),
    alu_gives hr rfl (signed_min_eq a b), alu_gives hr rfl (signed_max_eq a b), alu_gives hr rfl (unsigned_min_eq a b),
    alu_gives hr rfl (unsigned_max_eq a b), alu_gives hr rfl (mul_eq_ofNat a b), alu_gives hr rfl (signed_mul_high a b),
    alu_gives hr rfl (unsigned_mul_high a b), fun z hz hlt hle => alu_gives hr rfl (clz_eq a hz hlt hle),
    alu_gives hr rfl (congrArg (BitVec.ofNat 32) (ones_eq_countP 32 a.toNat))⟩

theorem scalarImmediateOperations : Claims.ScalarImmediateOperations := by
  intro t rd ra sh imm imm21 s hr a gives
  exact ⟨alu_gives hr rfl (addi_eq_ofInt a imm), alu_gives hr rfl (andi_eq_ofNat a imm), alu_gives hr rfl (ori_eq_ofNat a imm),
    alu_gives hr rfl (xori_eq_ofNat a imm), alu_gives hr rfl ((ofBool_slt a _).trans (by rw [signExtend_toInt])),
    alu_gives hr rfl (shiftLeft_eq_ofNat a _), alu_gives hr rfl (ushiftRight_eq_ofNat a _), alu_gives hr rfl (sshiftRight_eq_ofInt a _),
    alu_gives hr rfl (zeroExtend_shiftLeft imm21)⟩

/-- Settles O3: each instruction writes the word of its table row to RD and goes on to the next. -/
theorem scalarInstructions : Obligations.ScalarInstructions := ⟨scalarRegisterOperations, scalarImmediateOperations⟩

/-! ## Branches and jumps (04 R132) -/

/-- The program counter takes the low ten bits of a signed word. -/
theorem setWidth_toNat_eq_emod {w : Nat} (hw : 10 ≤ w) (v : BitVec w) : ((v.setWidth 10).toNat : Int) = v.toInt % 1024 := by
  have hdvd : (1024 : Int) ∣ ((2 ^ w : Nat) : Int) := by
    exact_mod_cast (pow_dvd_pow 2 hw : 2 ^ 10 ∣ 2 ^ w)
  rw [BitVec.toNat_setWidth, BitVec.toInt_eq_toNat_bmod, ← Int.emod_emod_of_dvd _ hdvd, Int.bmod_emod, Int.emod_emod_of_dvd _ hdvd]
  norm_cast

theorem pc_add_offset {w : Nat} (hw : 10 ≤ w) (pc : BitVec 10) (off : BitVec w) :
    ((pc + off.setWidth 10).toNat : Int) = ((pc.toNat : Int) + off.toInt) % 1024 := by
  rw [Int.add_emod _ off.toInt, ← setWidth_toNat_eq_emod hw, BitVec.toNat_add]
  omega

theorem jumpTarget (a : W32) (imm : BitVec 16) :
    (((a + imm.signExtend 32).setWidth 10).toNat : Int) = (a.toInt + imm.toInt) % 1024 := by
  rw [addi_eq_ofInt, BitVec.toNat_setWidth, BitVec.toNat_ofInt]
  omega

theorem jump_gives {c : Instr} {t : Nat} {f : State → State} {s : State} {pc : BitVec 10} {target : Int} (hr : Runs t s)
    (hc : exec c s = perform (treadOk t) f s) (hf : f { s with out := [] } = treadBecomes t ({ s.tread t with pc := pc }.beat 2) s)
    (hpc : (pc.toNat : Int) = target) : Gives c s (JumpResult t target s) := by
  refine gives_treadBecomes hr hc hf ⟨treadBecomes_only [] t _ s, ?_, ?_, ?_⟩ <;> rw [treadBecomes_tread]
  · exact hpc
  · rfl
  · rfl

theorem link_gives {c : Instr} {t : Nat} {f : State → State} {s : State} {rd : BitVec 5} {pc : BitVec 10} {target : Int} (hr : Runs t s)
    (hc : exec c s = perform (treadOk t) f s)
    (hf : f { s with out := [] } = treadBecomes t ({ (s.tread t).setS rd.toNat (s.tread t).link with pc := pc }.beat 2) s)
    (hpc : (pc.toNat : Int) = target) : Gives c s (LinkResult t rd (s.tread t).link target s) := by
  obtain ⟨m, hm⟩ := setS_sreg rd.toNat (s.tread t).link (s.tread t)
  refine gives_treadBecomes hr hc hf ⟨treadBecomes_only [] t _ s, ?_, ?_, scalarTakes_of_setS ?_, ?_⟩ <;> rw [treadBecomes_tread]
  · exact hpc
  · rw [hm]
    rfl
  · rfl
  · rw [hm]
    rfl

theorem branch_gives {c : Instr} {t : Nat} {off : BitVec 16} {taken : Tread → Bool} {p : Prop} {s : State} (hr : Runs t s)
    (hc : exec c s = branch t off taken s) (hp : taken (s.tread t) = true ↔ p) :
    (p → Gives c s (JumpResult t ((((s.tread t).pc.toNat : Int) + off.toInt) % 1024) s)) ∧ (¬p → Gives c s (TreadResult t 1 s)) := by
  refine ⟨fun h => jump_gives hr hc ?_ (pc_add_offset (by decide) _ off), fun h => gives_treadBecomes hr hc ?_ (treadSteps_result t 1 s)⟩
  · exact (hr.silent.whenRun _).trans (if_pos (hp.2 h))
  · exact (hr.silent.whenRun _).trans ((if_neg fun ht => h (hp.1 ht)).trans (hr.silent.runTread 1 id))

theorem treadBranches : Claims.TreadBranches := by
  intro t ra rb off s hr x a b gives
  have hslt : a.slt b = true ↔ a.toInt < b.toInt := decide_eq_true_iff
  have hult : a.ult b = true ↔ a.toNat < b.toNat := decide_eq_true_iff
  refine ⟨branch_gives (taken := fun x => x.s ra.toNat == x.s rb.toNat) hr rfl beq_iff_eq,
    branch_gives (taken := fun x => x.s ra.toNat != x.s rb.toNat) hr rfl bne_iff_ne,
    branch_gives (taken := fun x => (x.s ra.toNat).slt (x.s rb.toNat)) hr rfl hslt,
    branch_gives (taken := fun x => !(x.s ra.toNat).slt (x.s rb.toNat)) hr rfl ?_,
    branch_gives (taken := fun x => (x.s ra.toNat).ult (x.s rb.toNat)) hr rfl hult,
    branch_gives (taken := fun x => !(x.s ra.toNat).ult (x.s rb.toNat)) hr rfl ?_⟩
  · change (!a.slt b) = true ↔ _
    rw [Bool.not_eq_true', Bool.eq_false_iff, ne_eq, hslt, Int.not_lt]
  · change (!a.ult b) = true ↔ _
    rw [Bool.not_eq_true', Bool.eq_false_iff, ne_eq, hult, Nat.not_lt]

theorem treadJumps : Claims.TreadJumps := by
  intro t rd ra imm off s hr x link
  exact ⟨link_gives (rd := 31) hr rfl (hr.silent.whenRun _) (pc_add_offset (by decide) _ off),
    link_gives hr rfl (hr.silent.whenRun _) (jumpTarget _ imm)⟩

/-- Settles O5: a taken branch and a jump set the counter modulo 1,024, and a link is the number of the next instruction. -/
theorem branchesAndJumps : Obligations.BranchesAndJumps := ⟨treadBranches, treadJumps⟩

/-! ## Traps (04 R134) -/

/-- A tread that has trapped, with its gallery's count. -/
def trapMarked (t cause : Nat) (s : State) : State :=
  s.setTread t { s.tread t with st := .trap, cause := cause, wait := .none } |> bump (Reg.TREAD_TRAPS_COUNT (treadGf t / 148)) 1

theorem trapMarked_keeps (t cause : Nat) (s : State) : KeepsBut [.treads, .regs] s (trapMarked t cause s) :=
  ((keepsBut_treads s _).mono (by decide)).trans ((keepsBut_set _ _ _).mono (by decide))

theorem trapTread_after (t cause : Nat) (s : State) :
    KeepsBut (.out :: trapAreas) (trapMarked t cause s) (trapTread t cause s)
    ∧ Recorded 0x0300 [t, (s.tread t).pc.toNat, cause] (trapTread t cause s) := by
  have htold : ∀ (p : Nat) (st : Stamp), let u := raise Ev.treadTrap st [t, (s.tread t).pc.toNat, cause] (trapMarked t cause s)
      KeepsBut (.out :: trapAreas) (trapMarked t cause s) (programFault p u)
      ∧ Recorded 0x0300 [t, (s.tread t).pc.toNat, cause] (programFault p u) := fun p st =>
    ⟨((raise_keeps _ _ _ _).mono (by decide)).trans ((programFault_keeps p _).mono (by decide)),
      recorded_congr (recorded_raise _ _ _ _) (programFault_keeps p _ .rings (by decide))⟩
  have hsplit : trapTread t cause s = match (trapMarked t cause s).treadRole? t with
      | some (p, _) => programFault p (raise Ev.treadTrap (match (trapMarked t cause s).flightStage? (treadGf t) with
          | some n => workStamp (trapMarked t cause s) p n
          | none => partStamp p) [t, (s.tread t).pc.toNat, cause] (trapMarked t cause s))
      | none => raise0 Ev.treadTrap [t, (s.tread t).pc.toNat, cause] (trapMarked t cause s) := rfl
  rw [hsplit]
  split
  · exact htold _ _
  · exact ⟨(raise_keeps _ _ _ _).mono (by decide), recorded_raise _ _ _ _⟩

theorem trapTread_trapped (t cause : Nat) (s : State) : Trapped t cause s (trapTread t cause s) := by
  obtain ⟨hkeep, hrec⟩ := trapTread_after t cause s
  have htread : ∀ t', (trapTread t cause s).tread t'
      = (s.setTread t { s.tread t with st := .trap, cause := cause, wait := .none }).tread t' := fun t' => by
    rw [State.tread, hkeep .treads (by decide)]
    rfl
  refine ⟨⟨?_, fun t' ht => (htread t').trans (tread_setTread_other ht _ s)⟩, ?_, ?_, ?_, hrec⟩
  · exact ((trapMarked_keeps t cause s).mono (by decide)).trans (hkeep.mono (by decide))
  all_goals rw [htread, tread_setTread_self]

theorem Trapped.of_silent {t cause : Nat} {s u : State} (h : Trapped t cause { s with out := [] } u) : Trapped t cause s u := by
  obtain ⟨⟨hkeep, hother⟩, hrest⟩ := h
  exact ⟨⟨((keepsBut_out s []).mono (by simp)).trans hkeep, hother⟩, hrest⟩

/-- An instruction that traps. -/
theorem gives_trapped {c : Instr} {t cause : Nat} {f : State → State} {s : State} (hr : Runs t s)
    (hc : exec c s = perform (treadOk t) f s) (hf : f { s with out := [] } = trapTread t cause { s with out := [] }) :
    Gives c s (Trapped t cause s) := by
  have htrap := trapTread_trapped t cause { s with out := [] }
  obtain ⟨⟨hkeep, -⟩, -⟩ := id htrap
  exact gives_of_treadOk hr hc hf (hkeep .pending (by decide)) htrap.of_silent

/-! ## Data SRAM (04 R127, R132 to R134) -/

theorem ofLe_eq_foldr (l : List Byte) : ofLe l = l.foldr (fun b w => b.toNat + 256 * w) 0 := by
  induction l with
  | nil => rfl
  | cons b l ih => rw [ofLe, ih, List.foldr_cons]

theorem upFrom_eq_map_range (a n : Nat) : upFrom a n = (List.range n).map (a + ·) := by
  rw [upFrom_eq_range', List.range'_eq_map_range]

theorem getElem_leBytes {n v i : Nat} (h : i < (leBytes n v).length) : (leBytes n v)[i] = BitVec.ofNat 8 (v / 256 ^ i) := by
  induction n generalizing v i with
  | zero => simp [leBytes] at h
  | succ n ih =>
    cases i with
    | zero => simp [leBytes]
    | succ i => simp only [leBytes, List.getElem_cons_succ, ih, Nat.div_div_eq_div_mul, Nat.pow_succ']

/-- The bytes of a load as a number. -/
theorem ofLe_load (x : Tread) (a n : Nat) :
    ofLe (x.load a n) = (List.range n).foldr (fun i w => (x.dataByte (a + i)).toNat + 256 * w) 0 := by
  rw [ofLe_eq_foldr, Tread.load, upFrom_eq_map_range, List.map_map, List.foldr_map]
  rfl

theorem load_length (x : Tread) (a n : Nat) : (x.load a n).length = n := by
  rw [Tread.load, upFrom_eq_map_range, List.length_map, List.length_map, List.length_range]

/-- Bytes stored are there, and every other byte of data SRAM is as it was: data SRAM and Yuseon take bytes in the same way. -/
theorem dataByte_store (a : Nat) (l : List Byte) (x : Tread) (b : Nat) :
    (x.store a l).dataByte b = if h : a ≤ b ∧ b < a + l.length then l[b - a]'(by omega) else x.dataByte b :=
  memByte_pokeBytes a l { State.reset with mem := x.dmem } b

theorem dataByte_store_leBytes (a n v : Nat) (x : Tread) :
    (∀ i, i < n → (x.store a (leBytes n v)).dataByte (a + i) = BitVec.ofNat 8 (v / 256 ^ i))
    ∧ ∀ b, b < a ∨ a + n ≤ b → (x.store a (leBytes n v)).dataByte b = x.dataByte b := by
  refine ⟨fun i hi => ?_, fun b hb => ?_⟩
  · rw [dataByte_store, dif_pos (by rw [leBytes_length]; omega), getElem_leBytes, Nat.add_sub_cancel_left]
  · rw [dataByte_store, dif_neg (by rw [leBytes_length]; omega)]

/-! Accesses that pass, and their traps. -/

theorem accessFault_pass {a n : Nat} (hal : a % n = 0) (hin : a + n ≤ 0x4000) : accessFault a n = none := by
  rw [accessFault, if_neg (by omega), if_neg (by omega)]

theorem accessFault_misaligned {a n : Nat} (hal : a % n ≠ 0) : accessFault a n = some 2 := if_pos hal

theorem accessFault_range {a n : Nat} (hal : a % n = 0) (hout : 0x4000 < a + n) : accessFault a n = some 3 := by
  rw [accessFault, if_neg (by omega), if_pos hout]
  rfl

section
variable {c : Instr} {t n b : Nat} {addr : Tread → Nat} {f : Nat → Tread → Tread} {s : State} (hr : Runs t s)
  (hc : exec c s = perform (treadOk t) (memTread t n b addr f) s)
include hr hc

theorem memTread_passes {P : State → Prop} (hacc : accessFault (addr (s.tread t)) n = none)
    (hP : P (treadSteps t b (f (addr (s.tread t)) (s.tread t)) s)) : Gives c s P := by
  refine gives_treadBecomes hr hc ?_ hP
  rw [memTread, hr.silent.whenRun]
  have hacc' : accessFault (addr (State.tread { s with out := [] } t)) n = none := hacc
  simp only [hacc']
  exact hr.silent.runTread b _

theorem memTread_traps {cause : Nat} (hacc : accessFault (addr (s.tread t)) n = some cause) : Gives c s (Trapped t cause s) := by
  refine gives_trapped hr hc ?_
  rw [memTread, hr.silent.whenRun]
  have hacc' : accessFault (addr (State.tread { s with out := [] } t)) n = some cause := hacc
  simp only [hacc']

/-- Both traps of an access: first its alignment, then its range. -/
theorem memTread_reaches (hal : addr (s.tread t) % n = 0) (hout : 0x4000 < addr (s.tread t) + n) : Gives c s (Trapped t 3 s) :=
  memTread_traps hr hc (accessFault_range hal hout)

theorem memTread_faults : (addr (s.tread t) % n ≠ 0 → Gives c s (Trapped t 2 s))
    ∧ (addr (s.tread t) % n = 0 → 0x4000 < addr (s.tread t) + n → Gives c s (Trapped t 3 s)) :=
  ⟨fun hal => memTread_traps hr hc (accessFault_misaligned hal), memTread_reaches hr hc⟩

end

theorem treadAccessTraps : Claims.TreadAccessTraps := by
  intro t rd ra vr imm s hr a reaches traps
  have hreaches : ∀ {c n b f}, exec c s = perform (treadOk t) (memTread t n b (fun x => x.addr ra.toNat imm) f) s → reaches c n :=
    fun hc => memTread_reaches hr hc
  have hfaults : ∀ {c n b f}, exec c s = perform (treadOk t) (memTread t n b (fun x => x.addr ra.toNat imm) f) s → traps c n :=
    fun hc => memTread_faults hr hc
  exact ⟨hfaults rfl, hfaults rfl, hfaults rfl, hreaches rfl, hfaults rfl, hfaults rfl, hreaches rfl, hfaults rfl, hfaults rfl⟩

/-! Loads and stores. -/

theorem load_gives {c : Instr} {t n : Nat} {ra rd : BitVec 5} {imm : BitVec 16} {g : List Byte → W32} {v : W32} {s : State} (hr : Runs t s)
    (hc : exec c s = loadTread t n ra imm (fun l x => x.setS rd.toNat (g l)) s) (hal : (s.tread t).addr ra.toNat imm % n = 0)
    (hin : (s.tread t).addr ra.toNat imm + n ≤ 0x4000) (hv : g ((s.tread t).load ((s.tread t).addr ra.toNat imm) n) = v) :
    Gives c s (ScalarResult t 2 rd v s) :=
  memTread_passes hr hc (accessFault_pass hal hin) (hv ▸ treadSteps_scalar t 2 rd _ s)

theorem store_gives {c : Instr} {t n v : Nat} {ra : BitVec 5} {imm : BitVec 16} {g : Tread → Nat} {s : State} (hr : Runs t s)
    (hc : exec c s = storeTread t n ra imm (fun x => leBytes n (g x)) s) (hal : (s.tread t).addr ra.toNat imm % n = 0)
    (hin : (s.tread t).addr ra.toNat imm + n ≤ 0x4000) (hv : g (s.tread t) = v) :
    Gives c s (StoreResult t ((s.tread t).addr ra.toNat imm) n v s) := by
  subst hv
  refine memTread_passes hr hc (accessFault_pass hal hin) ⟨treadSteps_only [] t 1 _ s, treadSteps_next rfl rfl, ?_, ?_, ?_⟩
  all_goals rw [treadSteps_tread]
  · exact (dataByte_store_leBytes _ n _ (s.tread t)).1
  · exact (dataByte_store_leBytes _ n _ (s.tread t)).2
  · rfl

theorem treadStores : Claims.TreadStores := by
  intro t rs ra vr imm s hr x a
  exact ⟨fun hal hin => store_gives (g := fun x => (x.s rs.toNat).toNat) hr rfl hal hin rfl,
    fun hal hin => store_gives (g := fun x => (x.s rs.toNat).toNat) hr rfl hal hin rfl,
    fun hin => store_gives (g := fun x => (x.s rs.toNat).toNat) hr rfl (Nat.mod_one _) hin rfl,
    fun hal hin => store_gives (g := fun x => (x.v vr.toNat).toNat) hr rfl hal hin rfl⟩

/-! Vector registers. -/

@[simp] theorem v_setV_self (r : Nat) (v : V256) (x : Tread) : (x.setV r v).v r = v := tget_tset_self _ _ _

theorem v_setV_other {r q : Nat} (h : q ≠ r) (v : V256) (x : Tread) : (x.setV r v).v q = x.v q := tget_tset_other (d := 0) x.vreg v h

theorem treadSteps_vector (t n : Nat) (vd : BitVec 3) {v : V256} {P : V256 → Prop} (hP : P v) (s : State) :
    VectorGives t n vd P s (treadSteps t n ((s.tread t).setV vd.toNat v) s) := by
  refine ⟨treadSteps_only [] t n _ s, treadSteps_next rfl rfl, ?_, fun r hr => ?_, ?_⟩
  all_goals rw [treadSteps_tread]
  · exact (v_setV_self vd.toNat v (s.tread t)).symm ▸ hP
  · exact v_setV_other hr v (s.tread t)
  · rfl

theorem treadLoads : Claims.TreadLoads := by
  intro t rd ra vr imm s hr x a word
  have hword : ∀ n, ofLe (x.load a n) = word n := ofLe_load x a
  have hlt : ∀ n, word n < 256 ^ n := fun n => by simpa only [load_length, hword] using ofLe_lt (x.load a n)
  have hvld : exec (.vld t vr ra imm) s = loadTread t 32 ra imm (fun l x => x.setV vr.toNat (BitVec.ofNat 256 (ofLe l))) s := rfl
  refine ⟨fun hal hin => load_gives (g := fun l => BitVec.ofNat 32 (ofLe l)) hr rfl hal hin (congrArg _ (hword 4)),
    fun hal hin => ⟨load_gives (g := fun l => (BitVec.ofNat 16 (ofLe l)).signExtend 32) hr rfl hal hin ?_,
      load_gives (g := fun l => BitVec.ofNat 32 (ofLe l)) hr rfl hal hin ?_⟩,
    fun hin => load_gives (g := fun l => BitVec.ofNat 32 (ofLe l)) hr rfl (Nat.mod_one a) hin ?_,
    fun hal hin => memTread_passes hr hvld (accessFault_pass hal hin) ?_⟩
  · exact congrArg (fun w => (BitVec.ofNat 16 w).signExtend 32) (hword 2)
  · refine (congrArg (BitVec.ofNat 32) (hword 2)).trans (BitVec.eq_of_toNat_eq ?_)
    have h2 := hlt 2
    rw [BitVec.toNat_ofNat, BitVec.toNat_setWidth, BitVec.toNat_ofNat]
    omega
  · refine (congrArg (BitVec.ofNat 32) (hword 1)).trans ?_
    rw [show word 1 = (x.dataByte a).toNat from rfl, BitVec.ofNat_toNat]
  · have h32 : BitVec.ofNat 256 (ofLe (x.load a 32)) = BitVec.ofNat 256 (word 32) := by rw [hword]
    exact treadSteps_vector t 2 vr (P := (· = BitVec.ofNat 256 (word 32))) h32 s

/-- Settles O4: an access that is aligned and in range moves the bytes at RA + IMM, and any other traps. -/
theorem dataSramInstructions : Obligations.DataSramInstructions := ⟨treadLoads, treadStores, treadAccessTraps⟩

end Sys2Proof.Machine
end

section
/-!
PROOFS. Vector registers of treads (04 R127, R132, R135, R136): lanes, their arithmetic, moves and conversions.
-/
namespace Sys2Proof.Machine
open State Laws

/-! ## Lanes of vector registers (04 R127, R132, R136) -/

/-- The width of a lane. -/
def laneBits (w : Bool) : Nat := if w then 16 else 32

theorem lane_eq_bits (w : Bool) (v : V256) (i : Nat) : lane w v i = bits v.toNat (laneBits w * i) (laneBits w) := by cases w <;> rfl

theorem lane32_eq_ofNat (v : V256) (i : Nat) : lane32 v i = BitVec.ofNat 32 (lane false v i) := by
  refine BitVec.eq_of_toNat_eq ?_
  rw [lane32, BitVec.extractLsb'_toNat, BitVec.toNat_ofNat, Nat.shiftRight_eq_div_pow, lane_eq_bits]
  exact (bits_mod_width _ _ 32).symm

theorem lane16_eq_ofNat (v : V256) (i : Nat) : lane16 v i = BitVec.ofNat 16 (lane true v i) := by
  refine BitVec.eq_of_toNat_eq ?_
  rw [lane16, BitVec.extractLsb'_toNat, BitVec.toNat_ofNat, Nat.shiftRight_eq_div_pow, lane_eq_bits]
  exact (bits_mod_width _ _ 16).symm

theorem lane32_toNat (v : V256) (i : Nat) : (lane32 v i).toNat = lane false v i := by
  rw [lane32_eq_ofNat, BitVec.toNat_ofNat, lane_eq_bits]
  exact bits_mod_width _ _ 32

theorem lane16_toNat (v : V256) (i : Nat) : (lane16 v i).toNat = lane true v i := by
  rw [lane16_eq_ofNat, BitVec.toNat_ofNat, lane_eq_bits]
  exact bits_mod_width _ _ 16

/-- Fields placed one after another spell a number with those digits. -/
theorem foldl_place (k : Nat) (l : List Nat) (j acc : Nat) :
    (l.zipIdx j).foldl (fun a x => a + place x.1 (k * x.2) k) acc = acc + 2 ^ (k * j) * Nat.ofDigits (2 ^ k) (l.map (· % 2 ^ k)) := by
  induction l generalizing j acc with
  | nil => simp
  | cons x l ih =>
    rw [List.zipIdx_cons, List.foldl_cons, ih, List.map_cons, Nat.ofDigits_cons, place, Nat.mul_add k j 1, Nat.pow_add]
    ring

theorem ofDigits_digit {b : Nat} {l : List Nat} (hl : ∀ x ∈ l, x < b) (i : Nat) : Nat.ofDigits b l / b ^ i % b = l.getD i 0 := by
  induction l generalizing i with
  | nil => simp
  | cons x l ih =>
    have hx : x < b := hl x List.mem_cons_self
    rw [Nat.ofDigits_cons]
    cases i with
    | zero => simp [Nat.mod_eq_of_lt hx]
    | succ i =>
      rw [Nat.pow_succ', ← Nat.div_div_eq_div_mul, Nat.add_mul_div_left _ _ (by omega), Nat.div_eq_of_lt hx, Nat.zero_add,
        ih fun y hy => hl y (List.mem_cons_of_mem x hy)]
      rfl

theorem ofLanes_eq (w : Bool) (l : List Nat) :
    ofLanes w l = BitVec.ofNat 256 (Nat.ofDigits (2 ^ laneBits w) (l.map (· % 2 ^ laneBits w))) := by
  have h := foldl_place (laneBits w) l 0 0
  rw [Nat.mul_zero, Nat.pow_zero, Nat.one_mul, Nat.zero_add] at h
  rw [← h]
  cases w <;> rfl

/-- A lane of a vector made of lane patterns; a lane past the list reads 0. -/
theorem lane_ofLanes {w : Bool} {i : Nat} (hi : i < laneCount w) (l : List Nat) :
    lane w (ofLanes w l) i = l.getD i 0 % 2 ^ laneBits w := by
  have hfits : laneBits w * i + laneBits w ≤ 256 := by
    cases w <;> simp only [laneCount, laneBits, Bool.false_eq_true, if_true, if_false] at hi ⊢ <;> omega
  have hdigits : ∀ x ∈ l.map (· % 2 ^ laneBits w), x < 2 ^ laneBits w := fun x hx => by
    obtain ⟨y, -, rfl⟩ := List.mem_map.1 hx
    exact Nat.mod_lt _ (Nat.two_pow_pos _)
  rw [lane_eq_bits, ofLanes_eq, BitVec.toNat_ofNat, bits_congr_mod (Nat.mod_mod _ _) hfits, bits, Nat.pow_mul, ofDigits_digit hdigits]
  simp only [List.getD_eq_getElem?_getD, List.getElem?_map]
  cases l[i]? <;> simp

theorem lane32_ofLanes {i : Nat} (hi : i < 8) (l : List Nat) : lane32 (ofLanes false l) i = BitVec.ofNat 32 (l.getD i 0) := by
  rw [lane32_eq_ofNat, lane_ofLanes hi]
  exact BitVec.eq_of_toNat_eq (by simp [laneBits])

theorem lane16_ofLanes {i : Nat} (hi : i < 16) (l : List Nat) : lane16 (ofLanes true l) i = BitVec.ofNat 16 (l.getD i 0) := by
  rw [lane16_eq_ofNat, lane_ofLanes hi]
  exact BitVec.eq_of_toNat_eq (by simp [laneBits])

theorem getD_map_upFrom {α : Type} (f : Nat → α) (d : α) {lo n i : Nat} (hi : i < n) : ((upFrom lo n).map f).getD i d = f (lo + i) := by
  rw [upFrom_eq_map_range, List.getD_eq_getElem?_getD]
  simp [hi]

/-- The lanes of an instruction that works lane by lane. -/
theorem lane_ofLanes_map {w : Bool} {i : Nat} (hi : i < laneCount w) (f : Nat → Nat) :
    lane w (ofLanes w ((upFrom 0 (laneCount w)).map f)) i = f i % 2 ^ laneBits w := by
  rw [lane_ofLanes hi, getD_map_upFrom f 0 hi, Nat.zero_add]

/-! ## A reciprocal is a quotient of 1 (06 R230)

A quotient is rounded from its whole part `a` and a last bit that tells whether a remainder follows. Two such numbers with the same
whole part, one with `k` more bits below it, round to the same pattern with the same flags. -/

/-- `x` and `r` are what follows the whole part `a`, in one bit and in `k + 1` bits. -/
structure SameRest (x r k : Nat) : Prop where
  bit : x ≤ 1
  low : r < 2 ^ (k + 1)
  zero : x = 0 ↔ r = 0

section
variable {a x r k : Nat} (h : SameRest x r k)
include h

/-- A cut inside the whole part leaves the same quotient and remainders on the same side of one half. -/
theorem SameRest.cut (d : Nat) :
    (2 * a + x) / 2 ^ (d + 1) = a / 2 ^ d ∧ (2 ^ (k + 1) * a + r) / 2 ^ (d + 1 + k) = a / 2 ^ d
    ∧ (2 * a + x) % 2 ^ (d + 1) = 2 * (a % 2 ^ d) + x ∧ (2 ^ (k + 1) * a + r) % 2 ^ (d + 1 + k) = 2 ^ (k + 1) * (a % 2 ^ d) + r := by
  obtain ⟨hbit, hlow, -⟩ := h
  have hone : (2 * a + x) / 2 = a := by omega
  have hmany : (2 ^ (k + 1) * a + r) / 2 ^ (k + 1) = a := by
    rw [Nat.mul_add_div (Nat.two_pow_pos _), Nat.div_eq_of_lt hlow, Nat.add_zero]
  have hk : 2 ^ (d + 1 + k) = 2 ^ (k + 1) * 2 ^ d := by rw [← Nat.pow_add]; congr 1; omega
  refine ⟨?_, ?_, ?_, ?_⟩
  · rw [Nat.pow_succ', ← Nat.div_div_eq_div_mul, hone]
  · rw [hk, ← Nat.div_div_eq_div_mul, hmany]
  · rw [Nat.pow_succ', Nat.mod_mul, hone]
    omega
  · rw [hk, Nat.mod_mul, hmany, Nat.mul_add_mod, Nat.mod_eq_of_lt hlow, Nat.add_comm]

end

theorem lt_mul_add_iff {c m p r : Nat} (hr : r < c) : c * p < c * m + r ↔ p < m ∨ m = p ∧ r ≠ 0 := by
  rcases Nat.lt_trichotomy m p with h | rfl | h
  · have := Nat.mul_le_mul_left c (Nat.succ_le_of_lt h)
    rw [Nat.mul_succ] at this
    omega
  · omega
  · have := Nat.mul_lt_mul_of_pos_left h (Nat.zero_lt_of_lt hr)
    omega

theorem mul_add_eq_iff {c m p r : Nat} (hr : r < c) : c * m + r = c * p ↔ m = p ∧ r = 0 := by
  rcases Nat.lt_trichotomy m p with h | rfl | h
  · have := Nat.mul_le_mul_left c (Nat.succ_le_of_lt h)
    rw [Nat.mul_succ] at this
    omega
  · omega
  · have := Nat.mul_lt_mul_of_pos_left h (Nat.zero_lt_of_lt hr)
    omega

section
variable {a x r k : Nat} (h : SameRest x r k)
include h

theorem SameRest.roundUp (d : Nat) :
    roundUp .rne (2 ^ (k + 1) * a + r) (d + 1 + 1 + k) = roundUp .rne (2 * a + x) (d + 1 + 1) := by
  obtain ⟨hq, hq', hr, hr'⟩ := h.cut (a := a) (d + 1)
  obtain ⟨hbit, hlow, hzero⟩ := h
  have hpow : 2 ^ (d + 1 + 1 + k) = 2 * (2 ^ (k + 1) * 2 ^ d) := by rw [← Nat.pow_add, ← Nat.pow_succ']; congr 1; omega
  have hpow' : 2 ^ (d + 1 + 1) = 2 * (2 * 2 ^ d) := by rw [← Nat.pow_succ', ← Nat.pow_succ']
  have htwo : (0 : Nat) < 2 := by decide
  simp only [Machine.roundUp, hq, hq', hr, hr']
  simp only [hpow, hpow', gt_iff_lt, Nat.mul_lt_mul_left htwo, Nat.mul_right_inj (Nat.ne_of_gt htwo),
    lt_mul_add_iff hlow, mul_add_eq_iff hlow, lt_mul_add_iff (Nat.lt_succ_of_le hbit), mul_add_eq_iff (Nat.lt_succ_of_le hbit), hzero, ne_eq]

theorem SameRest.inexact (d : Nat) :
    (2 ^ (k + 1) * a + r) % 2 ^ (d + 1 + k) = 0 ↔ (2 * a + x) % 2 ^ (d + 1) = 0 := by
  obtain ⟨-, -, hr, hr'⟩ := h.cut (a := a) d
  obtain ⟨-, -, hzero⟩ := h
  simp [hr, hr', hzero]

theorem SameRest.log2 (ha : a ≠ 0) : Nat.log2 (2 ^ (k + 1) * a + r) = Nat.log2 (2 * a + x) + k := by
  obtain ⟨hbit, hlow, -⟩ := h
  have hlo := Nat.log2_self_le ha
  have hhi := Nat.lt_log2_self (n := a)
  have hone : Nat.log2 (2 * a + x) = Nat.log2 a + 1 :=
    (Nat.log2_eq_iff (by omega)).2 ⟨by rw [Nat.pow_succ']; omega, by rw [Nat.pow_succ']; omega⟩
  rw [hone]
  refine (Nat.log2_eq_iff (by have := Nat.mul_pos (Nat.two_pow_pos (k + 1)) (Nat.pos_of_ne_zero ha); omega)).2 ⟨?_, ?_⟩
  · have := Nat.mul_le_mul_left (2 ^ (k + 1)) hlo
    rw [← Nat.pow_add] at this
    rw [show Nat.log2 a + 1 + k = k + 1 + Nat.log2 a by omega]
    omega
  · have := Nat.mul_le_mul_left (2 ^ (k + 1)) (Nat.succ_le_of_lt hhi)
    rw [← Nat.pow_add, Nat.mul_succ] at this
    rw [show Nat.log2 a + 1 + k + 1 = k + 1 + (Nat.log2 a + 1) by omega]
    omega

/-- The code of both, when at least two bits are cut off the shorter one. -/
theorem SameRest.roundCode {f : Fmt} (ha : 2 ^ f.mbits * 2 ≤ a) (e : Int) :
    roundCode f .rne (2 ^ (k + 1) * a + r) (e - k) = roundCode f .rne (2 * a + x) e := by
  have hne : a ≠ 0 := fun h0 => by have := Nat.two_pow_pos f.mbits; omega
  have hlong : 2 ^ (k + 1) * a + r ≠ 0 := by have := Nat.mul_pos (Nat.two_pow_pos (k + 1)) (Nat.pos_of_ne_zero hne); omega
  have hbits : f.mbits + 2 ≤ Nat.log2 (2 * a + x) := (Nat.le_log2 (by omega)).2 (by rw [Nat.pow_succ]; omega)
  have hexp : e - k + ((Nat.log2 (2 * a + x) + k : Nat) : Int) - f.mbits = e + (Nat.log2 (2 * a + x) : Int) - f.mbits := by
    rw [Nat.cast_add]
    omega
  rw [Machine.roundCode, Machine.roundCode, if_neg hlong, if_neg (show 2 * a + x ≠ 0 by omega), h.log2 hne, hexp]
  generalize hq : max (e + (Nat.log2 (2 * a + x) : Int) - f.mbits) f.emin = q
  obtain ⟨d, hd⟩ : ∃ d : Nat, (q - e).toNat = d + 1 + 1 := ⟨(q - e).toNat - 2, by omega⟩
  have hd' : (q - (e - k)).toNat = d + 1 + 1 + k := by omega
  obtain ⟨hdiv, hdiv', -, -⟩ := h.cut (a := a) (d + 1)
  rw [if_neg (by omega), if_neg (by omega)]
  simp only [hd, hd', hdiv, hdiv', h.roundUp, ne_eq, h.inexact (a := a) (d + 1)]

/-- Both numbers round to the same pattern with the same flags. -/
theorem SameRest.finish (ha : 2 ^ 24 ≤ a) (s : Bool) (e : Int) :
    finish fp32 .rne s (2 ^ (k + 1) * a + r) (e - k) = finish fp32 .rne s (2 * a + x) e := by
  have hne : a ≠ 0 := by omega
  have hbits : fp32.mbits + 2 ≤ Nat.log2 (2 * a + x) := (Nat.le_log2 (by omega)).2 (by simp only [fp32]; omega)
  obtain ⟨d, hd⟩ : ∃ d : Nat, Nat.log2 (2 * a + x) - fp32.mbits = d + 1 + 1 := ⟨Nat.log2 (2 * a + x) - fp32.mbits - 2, by omega⟩
  have hd' : Nat.log2 (2 * a + x) + k - fp32.mbits = d + 1 + 1 + k := by omega
  have htop : e - k + ((Nat.log2 (2 * a + x) + k : Nat) : Int) = e + (Nat.log2 (2 * a + x) : Int) := by
    rw [Nat.cast_add]
    omega
  obtain ⟨hdiv, hdiv', -, -⟩ := h.cut (a := a) (d + 1)
  simp only [Machine.finish, roundMag, h.roundCode (f := fp32) (by simpa [fp32] using ha), h.log2 hne, hd, hd', htop, hdiv, hdiv', h.roundUp]
  simp [hne]

end

theorem b2n_decide_eq_zero (p : Prop) [Decidable p] : b2n (decide p) = 0 ↔ ¬p := by
  by_cases h : p <;> simp [b2n, h]

/-- What follows the whole part of a quotient, in one bit, and in `k` bits and one. -/
theorem sameRest_of_division {m : Nat} (hm : 0 < m) (n k : Nat) :
    SameRest (b2n (decide (n % m ≠ 0))) (2 * (2 ^ k * (n % m) / m) + b2n (decide (2 ^ k * (n % m) % m ≠ 0))) k where
  bit := b2n_le_one _
  low := by
    have hlt : 2 ^ k * (n % m) / m < 2 ^ k :=
      Nat.div_lt_of_lt_mul (by rw [Nat.mul_comm m]; exact Nat.mul_lt_mul_of_pos_left (Nat.mod_lt n hm) (Nat.two_pow_pos k))
    have hbit := b2n_le_one (decide (2 ^ k * (n % m) % m ≠ 0))
    rw [Nat.pow_succ]
    omega
  zero := by
    have hy : 2 ^ k * (n % m) = 0 ↔ n % m = 0 := by simp
    have hsplit := Nat.div_add_mod (2 ^ k * (n % m)) m
    rw [Nat.add_eq_zero_iff, b2n_decide_eq_zero, b2n_decide_eq_zero, not_ne_iff, not_ne_iff, ← hy]
    generalize 2 ^ k * (n % m) = y at hsplit
    refine ⟨fun h0 => by simp [h0], fun ⟨hdiv, hmod⟩ => ?_⟩
    rw [← hsplit, hmod, show y / m = 0 by omega]
    rfl

theorem scaled_division {m : Nat} (hm : 0 < m) (n k : Nat) : 2 * (2 ^ k * n / m) + b2n (decide (2 ^ k * n % m ≠ 0))
    = 2 ^ (k + 1) * (n / m) + (2 * (2 ^ k * (n % m) / m) + b2n (decide (2 ^ k * (n % m) % m ≠ 0))) := by
  have hn : 2 ^ k * n = m * (2 ^ k * (n / m)) + 2 ^ k * (n % m) := by
    conv_lhs => rw [← Nat.div_add_mod n m]
    ring
  rw [hn, Nat.mul_add_div hm, Nat.mul_add_mod, Nat.pow_succ]
  ring

theorem frcp_eq_fdiv (a : Nat) : frcp a = fdiv 0x3F800000 a := by
  have hone : decodeF fp32 0x3F800000 = .fin false (2 ^ 23) (-23) := by decide
  rw [frcp, fdiv, hone]
  rcases decodeF fp32 a with sig | neg | ⟨neg, m, e⟩
  · rfl
  · rfl
  · by_cases hm : m = 0
    · simp [divN, hm]
    have hlog : m < 2 ^ (Nat.log2 m + 1) := Nat.lt_log2_self
    have hquot : 2 ^ 24 ≤ 2 ^ (64 + Nat.log2 m) / m := by
      rw [Nat.le_div_iff_mul_le (Nat.pos_of_ne_zero hm)]
      have := Nat.mul_le_mul_left (2 ^ 63) (Nat.le_of_lt hlog)
      rw [← Nat.pow_add, show 63 + (Nat.log2 m + 1) = 64 + Nat.log2 m by omega] at this
      omega
    simp only [divN, hm, if_false, Nat.one_ne_zero]
    generalize 2 ^ (64 + Nat.log2 m) = n at hquot
    have hpos := Nat.pos_of_ne_zero hm
    have hrest := (sameRest_of_division hpos n 23).finish hquot (false != neg) (0 - e - (64 + (Nat.log2 m : Int)) - 1)
    rw [← scaled_division hpos] at hrest
    rw [if_neg (by decide), Nat.one_mul, ← hrest]
    congr 1
    push_cast
    ring

/-! ## Floating-point vector instructions (04 R132, R135, R136) -/

theorem treadSteps_float (t n : Nat) (vd : BitVec 3) (fl : Nat) {v : V256} {P : V256 → Prop} (hP : P v) (s : State) :
    FloatGives t n vd fl P s (treadSteps t n (((s.tread t).setV vd.toNat v).flag fl) s) := by
  refine ⟨treadSteps_only [] t n _ s, treadSteps_next rfl rfl, ?_, fun r hr => ?_, ?_, ?_⟩
  all_goals rw [treadSteps_tread]
  · exact (v_setV_self vd.toNat v (s.tread t)).symm ▸ hP
  · exact v_setV_other hr v (s.tread t)
  · rfl
  · rfl

/-- A 32-bit or 16-bit lane as a number. -/
theorem laneOf_eq_lane (w : Bool) (v : V256) (i : Nat) : (if w then (lane16 v i).toNat else (lane32 v i).toNat) = lane w v i := by
  cases w
  · exact lane32_toNat v i
  · exact lane16_toNat v i

theorem vfloat_gives {c : Instr} {t n : Nat} {w : Bool} {vd : BitVec 3} {f : Tread → Nat → FR} {g : Nat → FR} {s : State}
    (hr : Runs t s) (hc : exec c s = vfloat t n w vd f s) (hg : f (s.tread t) = g) : Gives c s (LaneResult t n w vd g s) := by
  subst hg
  have hlane : ∀ i, i < laneCount w →
      lane w (ofLanes w ((floatLanes w (f (s.tread t))).map FR.v)) i = (outLane w (f (s.tread t) i)).v % 2 ^ laneBits w := fun i hi => by
    rw [floatLanes, List.map_map]
    exact lane_ofLanes_map hi _
  refine gives_treadSteps hr hc (treadSteps_float t n vd _ ?_ s)
  cases w
  · refine fun i hi => ?_
    rw [lane32_eq_ofNat, hlane i hi]
    exact BitVec.eq_of_toNat_eq (by simp [laneBits, outLane])
  · refine fun i hi => ?_
    rw [lane16_eq_ofNat, hlane i hi]
    exact BitVec.eq_of_toNat_eq (by simp [laneBits, outLane])

theorem vectorArithmetic : Claims.VectorArithmetic := by
  intro t w vd va vb vc s hr x a b c gives
  have hrcp : (fun i => frcp (a i)) = fun i => fdiv 0x3F800000 (a i) := funext fun i => frcp_eq_fdiv (a i)
  exact ⟨vfloat_gives hr rfl rfl, vfloat_gives hr rfl rfl, vfloat_gives hr rfl rfl, vfloat_gives hr rfl rfl, vfloat_gives hr rfl rfl,
    vfloat_gives hr rfl rfl, vfloat_gives hr rfl rfl, vfloat_gives hr rfl rfl, vfloat_gives hr rfl hrcp, vfloat_gives hr rfl rfl⟩

/-- The pattern of a comparison's lane. -/
theorem lane_maskLanes {w : Bool} {i : Nat} (hi : i < laneCount w) (g : Nat → Bool) :
    lane w (ofLanes w ((upFrom 0 (laneCount w)).map fun i => maskLane w (g i))) i = if g i then (if w then 0xFFFF else 0xFFFFFFFF) else 0 := by
  rw [lane_ofLanes_map hi]
  cases w <;> cases g i <;> rfl

/-- Either order of addition that VRED takes over its lanes. -/
theorem vred_eq (w : Bool) (f : Nat → Nat) : (vred w ((upFrom 0 (laneCount w)).map f)).v =
    let add := fun p q => (fadd p q).v
    let pair := fun i => if w then add (f (2 * i)) (f (2 * i + 1)) else f i
    let sum := add (add (add (pair 0) (pair 1)) (add (pair 2) (pair 3))) (add (add (pair 4) (pair 5)) (add (pair 6) (pair 7)))
    if isZero sum then 0 else sum := by
  cases w <;> simp only [vred, laneCount, upFrom, List.map, lget, addFR, Bool.false_eq_true, if_true, if_false, apply_ite FR.v]

theorem lane_mod (w : Bool) (v : V256) (i : Nat) : lane w v i % 2 ^ laneBits w = lane w v i := by
  rw [lane_eq_bits]
  exact bits_mod_width _ _ _

theorem vectorComparesAndSum : Claims.VectorComparesAndSum := by
  intro t w vd va vb vc s hr x a b count laneOf full add pair sum
  have hlaneOf : ∀ v i, laneOf v i = lane w v i := laneOf_eq_lane w
  have hcount : count = laneCount w := rfl
  refine ⟨⟨_, gives_treadSteps hr rfl (treadSteps_float t 1 vd _ (fun i hi => ?_) s)⟩,
    ⟨_, gives_treadSteps hr rfl (treadSteps_float t 1 vd _ (fun i hi => ?_) s)⟩,
    gives_treadSteps hr rfl (treadSteps_vector t 1 vd (fun i hi => ?_) s),
    ⟨_, gives_treadSteps hr rfl (treadSteps_float t 3 vd _ ⟨fun i h0 hi => ?_, ?_⟩ s)⟩⟩
  · rw [hlaneOf]
    exact lane_maskLanes hi fun i => flt (a i) (b i)
  · rw [hlaneOf]
    exact lane_maskLanes hi fun i => feq (a i) (b i)
  · simp only [hlaneOf]
    refine (lane_ofLanes_map hi _).trans ?_
    split
    · exact lane_mod w _ i
    · exact lane_mod w _ i
  · rw [hlaneOf]
    refine (lane_ofLanes hi _).trans ?_
    obtain ⟨j, rfl⟩ := Nat.exists_eq_succ_of_ne_zero (Nat.ne_of_gt h0)
    exact Nat.zero_mod _
  · rw [hlaneOf]
    refine (lane_ofLanes (by cases w <;> decide) _).trans ?_
    have hsum : (vred w ((upFrom 0 (laneCount w)).map a)).v = if isZero sum then 0 else sum := vred_eq w a
    cases w
    · change (vred false ((upFrom 0 (laneCount false)).map a)).v % 2 ^ 32 = _
      rw [hsum]
      split
      · rfl
      · rfl
    · change (narrow bf16 .rne (vred true ((upFrom 0 (laneCount true)).map a)).v).v % 2 ^ 16 = _
      rw [hsum]
      rfl

/-- Settles O7: each lane takes the FP32 result of its operands, and VRED's sum is the fixed tree's. -/
theorem vectorArithmeticInstructions : Obligations.VectorArithmeticInstructions := ⟨vectorArithmetic, vectorComparesAndSum⟩

/-! ## Lane moves and conversions of vector registers (04 R132, R133, R135, R136) -/

theorem vbits_gives {c : Instr} {t : Nat} {vd : BitVec 3} {f : Tread → Nat → Nat} {g : Nat → W32} {s : State} (hr : Runs t s)
    (hc : exec c s = vbits t false vd f s) (hg : ∀ i, BitVec.ofNat 32 (f (s.tread t) i) = g i) :
    Gives c s (VectorGives t 1 vd (fun v => ∀ i, i < 8 → lane32 v i = g i) s) := by
  refine gives_treadSteps hr hc (treadSteps_vector t 1 vd (P := fun v => ∀ i, i < 8 → lane32 v i = g i) (fun i hi => ?_) s)
  have hw : i < laneCount false := hi
  rw [lane32_ofLanes hi, getD_map_upFrom _ _ hw, Nat.zero_add, hg]

theorem vectorLaneMoves : Claims.VectorLaneMoves := by
  intro t rs vd va vb vc s hr x a b gives
  have hlane : ∀ v i, lane false v i = (lane32 v i).toNat := fun v i => (lane32_toNat v i).symm
  refine ⟨vbits_gives hr rfl fun i => BitVec.ofNat_toNat _ _ |>.trans (BitVec.setWidth_eq _), alu_gives hr rfl (lane32_eq_ofNat _ _).symm,
    vbits_gives hr rfl fun i => ?_, vbits_gives hr rfl fun i => ?_, vbits_gives hr rfl fun i => ?_, vbits_gives hr rfl fun i => ?_,
    vbits_gives hr rfl fun i => ?_⟩
  · split
    · exact BitVec.ofNat_toNat _ _ |>.trans (BitVec.setWidth_eq _)
    · exact (lane32_eq_ofNat _ i).symm
  all_goals
    simp only [hlane]
    refine BitVec.eq_of_toNat_eq ?_
    simp [a, b, x]

theorem cvtRounds_iff : ∀ kind : BitVec 3, cvtRounds kind.toNat = true ↔ kind ∈ [0, 3, 5, 6, 7] := by decide

/-- A tread that converts, before it goes on. -/
def cvtTread (seed : Nat) (vd va kind rnd : BitVec 3) (x : Tread) : Tread :=
  let r := vcvt seed kind.toNat rnd.toNat (x.v va.toNat) (x.v vd.toNat) x
  let y := (x.setV vd.toNat r.2).flag (flagsOf r.1)
  if rnd.toNat = 2 && cvtRounds kind.toNat then { y with rngIndex := y.rngIndex + 8 } else y

theorem cvtTread_eq (seed : Nat) (vd va kind rnd : BitVec 3) (x : Tread) :
    let r := vcvt seed kind.toNat rnd.toNat (x.v va.toNat) (x.v vd.toNat) x
    cvtTread seed vd va kind rnd x = { (x.setV vd.toNat r.2).flag (flagsOf r.1) with
      rngIndex := x.rngIndex + (if rnd = 2 ∧ kind ∈ [0, 3, 5, 6, 7] then 8 else 0) } := by
  intro r
  have hcond : (decide (rnd.toNat = 2) && cvtRounds kind.toNat) = true ↔ rnd = 2 ∧ kind ∈ [0, 3, 5, 6, 7] := by
    rw [Bool.and_eq_true, decide_eq_true_iff, cvtRounds_iff, ← BitVec.toNat_inj]
    rfl
  by_cases h : rnd = 2 ∧ kind ∈ [0, 3, 5, 6, 7]
  · rw [if_pos h]
    exact if_pos (hcond.2 h)
  · rw [if_neg h, show x.rngIndex + 0 = x.rngIndex from BitVec.add_zero _]
    exact if_neg (mt hcond.1 h)

theorem treadSeed_eq (t : Nat) (s : State) :
    s.treadSeed t = match s.treadRole? t with
      | some (p, _) => (s.imageOf p).jobSeed
      | none => 0 := by
  rw [State.treadSeed]
  cases s.treadRole? t <;> rfl

/-- What VCVT leaves, whatever its KIND. -/
theorem vcvt_gives {t : Nat} {vd va kind rnd : BitVec 3} {s : State} {P : V256 → Prop} (hr : Runs t s) (hrnd : rnd.toNat ≤ 2)
    (hP : P (vcvt (s.treadSeed t) kind.toNat rnd.toNat ((s.tread t).v va.toNat) ((s.tread t).v vd.toNat) (s.tread t)).2) :
    Gives (.vcvt t vd va kind rnd) s fun u =>
      OnlyTread [] t s u ∧ NextInstruction t 1 s u ∧ P ((u.tread t).v vd.toNat)
      ∧ (∀ v, v ≠ vd.toNat → (u.tread t).v v = (s.tread t).v v)
      ∧ (u.tread t).rngIndex = (s.tread t).rngIndex + (if rnd = 2 ∧ kind ∈ [0, 3, 5, 6, 7] then 8 else 0)
      ∧ (∀ b, (s.tread t).fpflags.getLsbD b → (u.tread t).fpflags.getLsbD b)
      ∧ { u.tread t with
          pc := (s.tread t).pc, beats := (s.tread t).beats, vreg := (s.tread t).vreg, fpflags := (s.tread t).fpflags,
          rngIndex := (s.tread t).rngIndex } = s.tread t := by
  have hy := cvtTread_eq (s.treadSeed t) vd va kind rnd (s.tread t)
  refine gives_treadBecomes (x := ((cvtTread (s.treadSeed t) vd va kind rnd (s.tread t)).beat 1).nextPc) hr rfl ?_
    ⟨treadSteps_only [] t 1 _ s, treadSteps_next (by rw [hy]; rfl) (by rw [hy]; rfl), ?_, fun r hne => ?_, ?_, fun b hb => ?_, ?_⟩
  · rw [hr.silent.whenRun, if_neg (Nat.not_lt.2 hrnd), treadSeed_eq]
    exact hr.silent.runTread 1 _
  all_goals rw [treadBecomes_tread, hy]
  · exact (v_setV_self vd.toNat _ (s.tread t)).symm ▸ hP
  · exact v_setV_other hne _ (s.tread t)
  · rfl
  · exact (BitVec.getLsbD_or ..).trans (Bool.or_eq_true_iff.2 (.inl hb))
  · rfl

/-- Lanes 0 to 7 of a 16-bit result are new, and lanes 8 to 15 stay. -/
theorem lane16_lowHalf (old : V256) (f : Nat → Nat) :
    (∀ i, i < 8 → lane16 (lowHalf old ((upFrom 0 8).map f)) i = BitVec.ofNat 16 (f i))
    ∧ ∀ i, 8 ≤ i → i < 16 → lane16 (lowHalf old ((upFrom 0 8).map f)) i = lane16 old i := by
  refine ⟨fun i hi => ?_, fun i hlo hi => ?_⟩ <;> rw [lowHalf, lane16_ofLanes (by omega)]
  · rw [List.getD_append _ _ _ _ (by simpa [upFrom] using hi), getD_map_upFrom f 0 hi, Nat.zero_add]
  · have hlen : ((upFrom 0 8).map f).length = 8 := rfl
    rw [List.getD_append_right _ _ _ _ (by omega), hlen, getD_map_upFrom _ 0 (by omega), lane16_eq_ofNat, Nat.add_sub_cancel' hlo]

theorem lane32_full (f : Nat → FR) (i : Nat) (hi : i < 8) :
    lane32 (ofLanes false (((upFrom 0 8).map f).map FR.v)) i = BitVec.ofNat 32 (f i).v := by
  rw [lane32_ofLanes hi, List.map_map, getD_map_upFrom _ 0 hi, Nat.zero_add]
  rfl

theorem toSigned_lane (v : V256) (i : Nat) : toSigned 32 (lane false v i) = (lane32 v i).toInt := by
  rw [← lane32_toNat, toSigned, Nat.mod_eq_of_lt (lane32 v i).isLt, BitVec.toInt]
  split <;> split <;> omega

theorem vectorConversions : Claims.VectorConversions := by
  intro t vd va kind rnd s hr x a h r gives full low
  have h32 : ∀ i, lane false (x.v va.toNat) i = a i := fun i => (lane32_toNat _ i).symm
  have h16 : ∀ i, lane true (x.v va.toNat) i = h i := fun i => (lane16_toNat _ i).symm
  have hfull : ∀ (f : Nat → FR) (g : Nat → Nat), (∀ i, (f i).v = g i) → full g (ofLanes false (((upFrom 0 8).map f).map FR.v)) :=
    fun f g hfg i hi => (lane32_full f i hi).trans (congrArg _ (hfg i))
  have hlow : ∀ (f : Nat → FR) (g : Nat → Nat), (∀ i, (f i).v = g i) → low g (lowHalf (x.v vd.toNat) (((upFrom 0 8).map f).map FR.v)) :=
    fun f g hfg => by
      obtain rfl : (fun i => (f i).v) = g := funext hfg
      rw [List.map_map]
      exact lane16_lowHalf _ _
  refine ⟨?_, ?_, ?_, ?_, ?_, ?_, ?_, ?_, fun h3 => gives_trapped hr rfl ((hr.silent.whenRun _).trans (if_pos h3))⟩
  all_goals
    rintro rfl hrnd
    refine vcvt_gives hr hrnd ?_
  · exact hlow _ _ fun i => congrArg (fun n => (narrow bf16 (r i) n).v) (h32 i)
  · exact hfull _ _ fun i => congrArg (widen bf16) (h16 i)
  · exact hfull _ _ fun i => congrArg (widen bf16) (h16 (8 + i))
  · exact hlow _ _ fun i => congrArg (fun n => (narrow fp16 (r i) n).v) (h32 i)
  · exact hfull _ _ fun i => congrArg (widen fp16) (h16 i)
  · exact hfull _ _ fun i => congrArg (fun n => (fromInt (r i) n).v) (toSigned_lane _ i)
  · exact hfull _ _ fun i => congrArg (fun n => (toInt32 (r i) n).v) (h32 i)
  · exact hfull _ _ fun i => congrArg (fun n => (toIntegral (r i) n).v) (h32 i)

/-- Settles O8: lane by lane, with the lanes a 16-bit result leaves, the advance of RNG_INDEX and the trap on a reserved RND. -/
theorem vectorMovesAndConversions : Obligations.VectorMovesAndConversions := ⟨vectorLaneMoves, vectorConversions⟩
end Sys2Proof.Machine
end

section
/-!
PROOFS. Control and special registers of treads, and accumulator parts (04 R128, R132 to R137).
-/
namespace Sys2Proof.Machine
open State Laws


/-! ## Control, special registers, and the state that executes (04 R128, R132 to R135) -/

/-- The operator debug flag, as BRK reads it. -/
theorem on_iff (f : Fld) (s : State) : s.on f = true ↔ s.get f = 1 := by
  exact beq_iff_eq

theorem gives_stops {c : Instr} {t : Nat} {f : State → State} {st : TState} {s : State} (hr : Runs t s)
    (hc : exec c s = perform (treadOk t) (whenRun t f) s)
    (hf : f { s with out := [] } = treadBecomes t ({ s.tread t with st := st }.beat 1) s) :
    Gives c s fun u => OnlyTread [] t s u ∧ u.tread t = { s.tread t with st := st, beats := (s.tread t).beats + 1 } :=
  gives_treadBecomes hr hc ((hr.silent.whenRun f).trans hf) ⟨treadBecomes_only [] t _ s, treadBecomes_tread t _ s⟩

theorem treadControl : Claims.TreadControl := by
  intro t s hr x stops
  have hstep : treadSteps t 1 x s = runTread t 1 id { s with out := [] } := (hr.silent.runTread 1 id).symm
  refine ⟨gives_treadSteps hr rfl (treadSteps_result t 1 s), gives_treadSteps hr rfl (treadSteps_result t 1 s), gives_stops hr rfl rfl,
    fun hun => gives_stops hr rfl (if_pos ((on_iff _ _).2 hun)), fun hun => ?_, gives_trapped hr rfl (hr.silent.whenRun _),
    fun w => ⟨fun hw => gives_trapped hr rfl ?_, fun hw => ?_⟩⟩
  · exact gives_treadBecomes hr rfl ((hr.silent.whenRun _).trans ((if_neg (mt (on_iff _ _).1 hun)).trans hstep.symm)) (treadSteps_result t 1 s)
  · exact (hr.silent.whenRun _).trans (if_neg (by rw [hw]; decide))
  · exact gives_of_treadOk hr rfl ((hr.silent.whenRun _).trans (if_pos hw)) rfl (keepsBut_out s [])

theorem special?_eq_none {n : Nat} (h : 8 < n) (s : State) (t : Nat) : s.special? t n = none := by
  match n, h with
  | _ + 9, _ => rfl

theorem special?_position {s : State} {t p role odd row col : Nat} (h : s.treadRole? t = some (p, role, odd, row, col)) (hrole : role < 2048)
    (hodd : odd < 2) (hrow : row < 16) : s.special? t 1 = some (BitVec.ofNat 32 (odd * 2 ^ 27 + role * 2 ^ 16 + row * 2 ^ 4 + col)) := by
  have hplace : place odd 27 1 + place role 16 11 + place row 4 4 + col = odd * 2 ^ 27 + role * 2 ^ 16 + row * 2 ^ 4 + col := by
    simp only [place]
    omega
  simp only [State.special?, h, hplace]

theorem rdsr_gives {t : Nat} {r : BitVec 5} {sr : BitVec 8} {v : W32} {s : State} (hr : Runs t s) (hv : s.special? t sr.toNat = some v) :
    Gives (.rdsr t r sr) s (ScalarResult t 1 r v s) := by
  refine gives_treadBecomes hr rfl ((hr.silent.whenRun _).trans ?_) (treadSteps_scalar t 1 r v s)
  have hv' : State.special? { s with out := [] } t sr.toNat = some v := hv
  simp only [hv']
  exact hr.silent.runTread 1 _

theorem rdsr_traps {t : Nat} {r : BitVec 5} {sr : BitVec 8} {s : State} (hr : Runs t s) (hsr : 8 < sr.toNat) :
    Gives (.rdsr t r sr) s (Trapped t 1 s) := by
  refine gives_trapped hr rfl ((hr.silent.whenRun _).trans ?_)
  simp only [special?_eq_none hsr]
  rfl

/-- What WRSR does in RUN. -/
def wrsrEffect (t : Nat) (ra : BitVec 5) (sr : BitVec 8) (s : State) : State :=
  if sr.toNat = 5 then runTread t 1 (fun x => { x with rngKey := x.s ra.toNat }) s
  else if sr.toNat = 6 then runTread t 1 (fun x => { x with rngIndex := x.s ra.toNat }) s
  else if sr.toNat = 8 then runTread t 1 (fun x => { x with fpflags := (x.s ra.toNat).setWidth 5 }) s
  else trapTread t Cause.illegal s

theorem exec_wrsr (t : Nat) (ra : BitVec 5) (sr : BitVec 8) (s : State) :
    exec (.wrsr t ra sr) s = perform (treadOk t) (whenRun t (wrsrEffect t ra sr)) s := rfl

theorem wrsr_gives {t : Nat} {r : BitVec 5} {sr : BitVec 8} {f : Tread → Tread} {y : Tread} {s : State} (hr : Runs t s)
    (hf : ∀ u, wrsrEffect t r sr u = runTread t 1 f u)
    (hpc : (f (s.tread t)).pc = (s.tread t).pc) (hbeats : (f (s.tread t)).beats = (s.tread t).beats) (hy : f (s.tread t) = y) :
    Gives (.wrsr t r sr) s fun u => OnlyTread [] t s u ∧ NextInstruction t 1 s u
      ∧ { u.tread t with pc := (s.tread t).pc, beats := (s.tread t).beats } = y := by
  have hstep := (hr.silent.whenRun (wrsrEffect t r sr)).trans ((hf _).trans (hr.silent.runTread 1 f))
  refine gives_treadBecomes hr (exec_wrsr t r sr s) hstep ⟨treadSteps_only [] t 1 _ s, treadSteps_next hpc hbeats, ?_⟩
  rw [treadBecomes_tread, ← hy, ← hpc, ← hbeats]
  rfl

theorem treadSpecialRegisters : Claims.TreadSpecialRegisters := by
  intro t r sr s hr x a reads writes
  refine ⟨?_, fun p role odd row col hrole h1 h2 h3 _ => ?_, ?_, ?_, ?_, ?_, ?_, ?_, ?_, ?_, ?_, ?_, rdsr_traps hr, fun hsr => ?_⟩
  · rintro rfl
    exact rdsr_gives hr rfl
  · rintro rfl
    exact rdsr_gives hr (special?_position hrole h1 h2 h3)
  iterate 7
    · rintro rfl
      exact rdsr_gives hr rfl
  · rintro rfl
    exact wrsr_gives (f := fun x => { x with rngKey := x.s r.toNat }) hr (fun _ => if_pos rfl) rfl rfl rfl
  · rintro rfl
    exact wrsr_gives (f := fun x => { x with rngIndex := x.s r.toNat }) hr (fun _ => (if_neg (by decide)).trans (if_pos rfl)) rfl rfl rfl
  · rintro rfl
    exact wrsr_gives (f := fun x => { x with fpflags := (x.s r.toNat).setWidth 5 }) hr (fun _ => (if_neg (by decide)).trans ((if_neg (by decide)).trans (if_pos rfl))) rfl rfl rfl
  · simp only [List.mem_cons, List.not_mem_nil, or_false, not_or, ← BitVec.toNat_inj] at hsr
    obtain ⟨h5, h6, h8⟩ := hsr
    exact gives_trapped hr (exec_wrsr t r sr s) ((hr.silent.whenRun _).trans ((if_neg h5).trans ((if_neg h6).trans (if_neg h8))))

/-! A tread that is not in RUN executes nothing. -/

section
variable {t : Nat} {s : State} (hok : treadOk t = true) (hidle : (s.tread t).st ≠ .run)
include hok hidle

theorem perform_whenRun_idle (f : State → State) : perform (treadOk t) (whenRun t f) s = .next { s with out := [] } := by
  have hskip : whenRun t f { s with out := [] } = { s with out := [] } := if_neg fun h => hidle (beq_iff_eq.1 h)
  rw [hok, perform, if_pos rfl, hskip]

theorem perform_runTread_idle (n : Nat) (f : Tread → Tread) : perform (treadOk t) (runTread t n f) s = .next { s with out := [] } :=
  perform_whenRun_idle hok hidle _

end

theorem onlyRunningTreadsExecute : Claims.OnlyRunningTreadsExecute := by
  intro c t w s hc hok hidle
  cases c
  case add | sub | and | or | xor | sll | srl | sra | slt | sltu | min | max | minu | maxu | mul | mulh | mulhu | clz | popc | addi | andi
      | ori | xori | slti | slli | srli | srai | lui | vadd | vsub | vmul | vfma | vmin | vmax | vabs | vneg | vrcp | vrsqrt | vcmplt
      | vcmpeq | vsel | vred | vsplat | vext | vins | viadd | vand | vor | vxor | nop | fence | poll =>
    obtain ⟨rfl, -⟩ := Prod.mk.inj (Option.some.inj hc)
    exact perform_runTread_idle hok hidle _ _
  case lw | lh | lhu | lbu | sw | sh | sb | vld | vst | beq | bne | blt | bge | bltu | bgeu | jal | jalr | send | recv | vsend | vrecv | vcvt
      | accrd | accclr | accrel | rdsr | wrsr | halt | brk | trap =>
    obtain ⟨rfl, -⟩ := Prod.mk.inj (Option.some.inj hc)
    exact perform_whenRun_idle hok hidle _
  all_goals cases hc

/-- Settles O10: the control instructions and special registers in RUN, and that any other state executes nothing. -/
theorem controlAndSpecialRegisters : Obligations.ControlAndSpecialRegisters := ⟨treadControl, treadSpecialRegisters, onlyRunningTreadsExecute⟩

/-! ## Accumulator parts (04 R134, R137) -/

theorem array_setArray_self (gf a : Nat) (v : ArrayData) (s : State) : (setArray gf a v s).array gf a = v := by
  have hf : (setArray gf a v s).flight gf = { s.flight gf with arrays := tset ArrayData.init (s.flight gf).arrays a v } := tget_tset_self _ _ _
  rw [State.array, hf]
  exact tget_tset_self _ _ _

theorem array_setArray_other {gf a g b : Nat} (h : g ≠ gf ∨ b ≠ a) (v : ArrayData) (s : State) :
    (setArray gf a v s).array g b = s.array g b := by
  by_cases hg : g = gf
  · subst hg
    have hf : (setArray g a v s).flight g = { s.flight g with arrays := tset ArrayData.init (s.flight g).arrays a v } := tget_tset_self _ _ _
    rw [State.array, hf]
    exact tget_tset_other _ _ (h.resolve_left fun hne => hne rfl)
  · have hf : (setArray gf a v s).flight g = s.flight g := tget_tset_other (d := Flight.init) s.flights _ hg
    rw [State.array, hf]
    rfl

theorem setArray_keeps (gf a : Nat) (v : ArrayData) (s : State) : KeepsBut [.flights] s (setArray gf a v s) := by
  intro ar har
  cases ar <;> simp [Area.same] at har ⊢
  all_goals rfl

theorem OnlyTread.setArray {t : Nat} {s u : State} (h : OnlyTread [] t s u) (gf a : Nat) (v : ArrayData) :
    OnlyTread [.flights] t s (setArray gf a v u) := by
  obtain ⟨hkeep, hother⟩ := h
  exact ⟨(hkeep.mono (by decide)).trans ((setArray_keeps gf a v u).mono (by decide)), hother⟩

/-! Banks of an array. -/

theorem bank_setBank_self (b : Nat) (v : Tbl Nat) (d : ArrayData) : (d.setBank b v).bank b = v := by
  by_cases h : b = 0 <;> simp [ArrayData.setBank, ArrayData.bank, h]

theorem bank_setBank_other {b c : Nat} (hb : b < 2) (hc : c < 2) (h : b ≠ c) (v : Tbl Nat) (d : ArrayData) : (d.setBank c v).bank b = d.bank b := by
  by_cases hc0 : c = 0
  · have hb0 : b ≠ 0 := fun hb0 => h (hb0.trans hc0.symm)
    simp [ArrayData.setBank, ArrayData.bank, hc0, hb0]
  · have hb0 : b = 0 := by omega
    simp [ArrayData.setBank, ArrayData.bank, hc0, hb0]

theorem code_setCode_self (b : Nat) (v : Bool) (d : ArrayData) : (d.setCode b v).code b = v := by
  by_cases h : b = 0 <;> simp [ArrayData.setCode, ArrayData.code, h]

theorem heldBank_setHeld_self (b : Nat) (v : Bool) (x : Tread) : (x.setHeld b v).heldBank b = v := by
  by_cases h : b = 0 <;> simp [Tread.setHeld, Tread.heldBank, h]

theorem setHeld_setHeld (b : Nat) (v w : Bool) (x : Tread) : (x.setHeld b v).setHeld b w = x.setHeld b w := by
  by_cases h : b = 0 <;> simp [Tread.setHeld, h]

theorem setHeld_heldBank (b : Nat) (x : Tread) : x.setHeld b (x.heldBank b) = x := by
  by_cases h : b = 0 <;> simp [Tread.setHeld, Tread.heldBank, h]

/-- The keys of an 8 × 8 part at (i, j). -/
def partKeys (i j : Nat) : List Nat := (upFrom 0 8).flatMap fun r => (upFrom 0 8).map fun k => accKey (i + r) (j + k)

theorem mem_partKeys {i j e : Nat} : e ∈ partKeys i j ↔ ∃ r k, r < 8 ∧ k < 8 ∧ accKey (i + r) (j + k) = e := by
  simp only [partKeys, List.mem_flatMap, List.mem_map, mem_upFrom]
  constructor
  · rintro ⟨r, ⟨-, hr⟩, k, ⟨-, hk⟩, he⟩
    exact ⟨r, k, by omega, by omega, he⟩
  · rintro ⟨r, k, hr, hk, he⟩
    exact ⟨r, ⟨by omega, by omega⟩, k, ⟨by omega, by omega⟩, he⟩

theorem clearPart_eq (i j : Nat) (b : Tbl Nat) : clearPart i j b = (partKeys i j).foldl tdel b := by
  rw [partKeys, List.foldl_flatMap]
  simp only [List.foldl_map]
  rfl

theorem tget_foldl_tdel (l : List Nat) (b : Tbl Nat) (e : Nat) : tget 0 (l.foldl tdel b) e = if e ∈ l then 0 else tget 0 b e := by
  induction l generalizing b with
  | nil => simp
  | cons c l ih =>
    rw [List.foldl_cons, ih]
    by_cases h : e = c
    · simp [h, tget_tdel_self]
    · simp [h, tget_tdel_other _ h]

/-- A tread's part of a bank is +0, and every other element is as it was. -/
theorem tget_clearPart (i j : Nat) (b : Tbl Nat) :
    (∀ r k, r < 8 → k < 8 → tget 0 (clearPart i j b) (accKey (i + r) (j + k)) = 0)
    ∧ ∀ e, (∀ r k, r < 8 → k < 8 → e ≠ accKey (i + r) (j + k)) → tget 0 (clearPart i j b) e = tget 0 b e := by
  rw [clearPart_eq]
  refine ⟨fun r k hr hk => (tget_foldl_tdel _ b _).trans (if_pos (mem_partKeys.2 ⟨r, k, hr, hk, rfl⟩)),
    fun e he => (tget_foldl_tdel _ b e).trans (if_neg fun h => ?_)⟩
  obtain ⟨r, k, hr, hk, hrk⟩ := mem_partKeys.1 h
  exact he r k hr hk hrk.symm

/-! The three instructions. -/

section
variable {t b : Nat} {f : Nat → Nat → Nat → Nat → State → State} {s : State} (hr : Runs t s)
include hr

theorem withBank_unheld (h : (s.tread t).heldBank b = false) :
    withBank t b f { s with out := [] } = trapTread t 5 { s with out := [] } := by
  refine (hr.silent.whenRun _).trans (if_pos ?_)
  rw [show (State.tread { s with out := [] } t).heldBank b = false from h]
  rfl

theorem withBank_held (h : (s.tread t).heldBank b = true) {gf a i j : Nat} (hp : s.accPart? t = some (gf, a, i, j)) :
    withBank t b f { s with out := [] } = f gf a i j { s with out := [] } := by
  refine (hr.silent.whenRun _).trans ((if_neg ?_).trans ?_)
  · rw [show (State.tread { s with out := [] } t).heldBank b = true from h]
    decide
  · simp only [show State.accPart? { s with out := [] } t = some (gf, a, i, j) from hp]

end

/-- A tread's treads and steps leave every array. -/
theorem treadSteps_array (t n : Nat) (y : Tread) (s : State) (g b : Nat) : (treadSteps t n y s).array g b = s.array g b := rfl

theorem lane32_packed (cell : Nat → Nat) {k : Nat} (hk : k < 8) :
    lane32 (BitVec.ofNat 256 ((upFrom 0 8).foldl (fun n k => n + place (cell k) (32 * k) 32) 0)) k = BitVec.ofNat 32 (cell k) := by
  have hlanes : BitVec.ofNat 256 ((upFrom 0 8).foldl (fun n k => n + place (cell k) (32 * k) 32) 0) = ofLanes false ((upFrom 0 8).map cell) := rfl
  rw [hlanes, lane32_ofLanes hk, getD_map_upFrom cell 0 hk, Nat.zero_add]

/-- An accumulator instruction that changes its tread and puts `d` in the place of the tread's array. -/
theorem gives_arrayChange {c : Instr} {t b gf a i j : Nat} {f : Nat → Nat → Nat → Nat → State → State} {y : Tread} {d : ArrayData} {s : State}
    {P : State → Prop} (hr : Runs t s) (hheld : (s.tread t).heldBank b = true) (hp : s.accPart? t = some (gf, a, i, j))
    (hc : exec c s = perform (treadOk t) (withBank t b f) s) (hf : f gf a i j { s with out := [] } = setArray gf a d (treadSteps t 1 y s))
    (hP : P (setArray gf a d (treadSteps t 1 y s))) : Gives c s P :=
  gives_of_treadOk hr hc ((withBank_held hr hheld hp).trans hf) rfl hP

section
variable {t : Nat} {b : BitVec 1} {s : State} {gf a i j : Nat} (hr : Runs t s) (hheld : (s.tread t).heldBank b.toNat = true)
  (hp : s.accPart? t = some (gf, a, i, j))
include hr hheld hp

theorem accrd_gives (vd row : BitVec 3) :
    Gives (.accrd t vd b row) s (VectorGives t 1 vd (fun v => ∀ k, k < 8 →
      lane32 v k = BitVec.ofNat 32 (tget 0 ((s.array gf a).bank b.toNat) (accKey (i + row.toNat) (j + k)))) s) :=
  gives_treadBecomes hr rfl ((withBank_held hr hheld hp).trans (hr.silent.runTread 1 _))
    (treadSteps_vector t 1 vd (P := fun v => ∀ k, k < 8 →
      lane32 v k = BitVec.ofNat 32 (tget 0 ((s.array gf a).bank b.toNat) (accKey (i + row.toNat) (j + k)))) (fun _ => lane32_packed _) s)

theorem accclr_gives :
    Gives (.accclr t b) s fun u =>
      OnlyTread [.flights] t s u ∧ NextInstruction t 1 s u
      ∧ { u.tread t with pc := (s.tread t).pc, beats := (s.tread t).beats } = s.tread t
      ∧ (∀ r k, r < 8 → k < 8 → tget 0 ((u.array gf a).bank b.toNat) (accKey (i + r) (j + k)) = 0)
      ∧ (∀ e, (∀ r k, r < 8 → k < 8 → e ≠ accKey (i + r) (j + k)) →
          tget 0 ((u.array gf a).bank b.toNat) e = tget 0 ((s.array gf a).bank b.toNat) e)
      ∧ (∀ c, c < 2 → c ≠ b.toNat → (u.array gf a).bank c = (s.array gf a).bank c)
      ∧ (∀ g c, g ≠ gf ∨ c ≠ a → u.array g c = s.array g c) := by
  obtain ⟨hin, hout⟩ := tget_clearPart i j ((s.array gf a).bank b.toNat)
  refine gives_arrayChange (y := s.tread t)
    (d := (s.array gf a).setBank b.toNat (clearPart i j ((s.array gf a).bank b.toNat))) hr hheld hp rfl ?_
    ⟨(treadSteps_only [] t 1 _ s).setArray gf a _, treadSteps_next rfl rfl, ?_, fun r k hr hk => ?_, fun e he => ?_, fun c hc hne => ?_,
      fun g c hgc => array_setArray_other hgc _ _⟩
  · exact Runs.runTread (s := setArray gf a _ { s with out := [] }) hr 1 id
  · exact congrArg (fun y : Tread => { y with pc := (s.tread t).pc, beats := (s.tread t).beats }) (treadSteps_tread t 1 (s.tread t) s)
  · rw [array_setArray_self, bank_setBank_self]
    exact hin r k hr hk
  · rw [array_setArray_self, bank_setBank_self]
    exact hout e he
  · rw [array_setArray_self]
    exact bank_setBank_other hc b.isLt hne _ _

end

/-- The treads of an array that still hold their part once tread `t` has given up its own. -/
theorem any_heldBank_iff (t b : Nat) (s : State) (l : List Nat) :
    (l.any fun v => ((treadSteps t 1 ((s.tread t).setHeld b false) s).tread v).heldBank b) = true
      ↔ ∃ v ∈ l, v ≠ t ∧ (s.tread v).heldBank b = true := by
  have hself : ((treadSteps t 1 ((s.tread t).setHeld b false) s).tread t).heldBank b = false := by
    rw [treadSteps_tread]
    exact heldBank_setHeld_self b false _
  obtain ⟨-, hother⟩ := treadSteps_only [] t 1 ((s.tread t).setHeld b false) s
  rw [List.any_eq_true]
  refine exists_congr fun v => and_congr_right fun _ => ?_
  by_cases hv : v = t
  · subst hv
    rw [hself]
    simp
  · simp [hv, hother v hv]

theorem setHeld_pc (b : Nat) (v : Bool) (x : Tread) : (x.setHeld b v).pc = x.pc := by
  unfold Tread.setHeld
  split <;> rfl

theorem setHeld_beats (b : Nat) (v : Bool) (x : Tread) : (x.setHeld b v).beats = x.beats := by
  unfold Tread.setHeld
  split <;> rfl

theorem setHeld_nextPc (b n : Nat) (v : Bool) (x : Tread) : (x.beat n).nextPc.setHeld b v = ((x.setHeld b v).beat n).nextPc := by
  by_cases h : b = 0 <;> simp [Tread.setHeld, Tread.beat, Tread.nextPc, h]

/-- The bank of a tread that has given up its part. -/
theorem released_tread {t b : Nat} {s : State} (hheld : (s.tread t).heldBank b = true) :
    let y := (treadSteps t 1 ((s.tread t).setHeld b false) s).tread t
    y.heldBank b = false ∧ y.setHeld b true = { s.tread t with pc := (s.tread t).pc + 1, beats := (s.tread t).beats + 1 } := by
  intro y
  have hy : y = (((s.tread t).setHeld b false).beat 1).nextPc := treadSteps_tread t 1 _ s
  refine ⟨hy ▸ heldBank_setHeld_self b false _, ?_⟩
  rw [hy, setHeld_nextPc, setHeld_setHeld, ← hheld, setHeld_heldBank]
  rfl

theorem accrel_gives {t : Nat} {b : BitVec 1} {s : State} {gf a i j : Nat} (hr : Runs t s) (hheld : (s.tread t).heldBank b.toNat = true)
    (hp : s.accPart? t = some (gf, a, i, j)) :
    Gives (.accrel t b) s fun u =>
      OnlyTread [.flights] t s u ∧ NextInstruction t 1 s u
      ∧ (u.tread t).heldBank b.toNat = false
      ∧ (u.tread t).setHeld b.toNat true = { s.tread t with pc := (s.tread t).pc + 1, beats := (s.tread t).beats + 1 }
      ∧ ((∀ v ∈ s.arrayTreads gf a, v ≠ t → (s.tread v).heldBank b.toNat = false) → (u.array gf a).code b.toNat = false)
      ∧ ((∃ v ∈ s.arrayTreads gf a, v ≠ t ∧ (s.tread v).heldBank b.toNat = true) → u.flights = s.flights)
      ∧ (∀ g c, g ≠ gf ∨ c ≠ a → u.array g c = s.array g c) := by
  obtain ⟨hfree, hback⟩ := released_tread hheld
  have hsteps : runTread t 1 (Tread.setHeld b.toNat false) { s with out := [] } = treadSteps t 1 ((s.tread t).setHeld b.toNat false) s :=
    hr.silent.runTread 1 _
  have hnext : NextInstruction t 1 s (treadSteps t 1 ((s.tread t).setHeld b.toNat false) s) :=
    treadSteps_next (setHeld_pc ..) (setHeld_beats ..)
  have hany := any_heldBank_iff t b.toNat s (s.arrayTreads gf a)
  by_cases hold : ∃ v ∈ s.arrayTreads gf a, v ≠ t ∧ (s.tread v).heldBank b.toNat = true
  · refine gives_of_treadOk (u := treadSteps t 1 ((s.tread t).setHeld b.toNat false) s) hr rfl ((withBank_held hr hheld hp).trans ?_) rfl
      ⟨treadSteps_only [.flights] t 1 _ s, hnext, hfree, hback, fun hnone => ?_, fun _ => rfl, fun _ _ _ => rfl⟩
    · simp only [hsteps]
      exact if_pos (hany.2 hold)
    · obtain ⟨v, hv, hvt, hvh⟩ := hold
      exact absurd (hnone v hv hvt) (by simp [hvh])
  · refine gives_arrayChange (y := (s.tread t).setHeld b.toNat false) (d := (s.array gf a).setCode b.toNat false) hr hheld hp rfl ?_
      ⟨(treadSteps_only [] t 1 _ s).setArray gf a _, hnext, hfree, hback, fun _ => ?_, fun h => absurd h hold, fun g c hgc => array_setArray_other hgc _ _⟩
    · simp only [hsteps]
      exact if_neg (mt hany.1 hold)
    · rw [array_setArray_self, code_setCode_self]

/-- Settles O9: a part that is held is read, cleared or given up; one that is not traps. -/
theorem accumulatorInstructions : Obligations.AccumulatorInstructions := by
  intro t vd row bank s hr x cell
  exact ⟨fun hheld => ⟨gives_trapped hr rfl (withBank_unheld hr hheld), gives_trapped hr rfl (withBank_unheld hr hheld),
    gives_trapped hr rfl (withBank_unheld hr hheld)⟩, fun hheld gf a i j hp => ⟨accrd_gives hr hheld hp vd row, accclr_gives hr hheld hp,
    accrel_gives hr hheld hp⟩⟩
end Sys2Proof.Machine
end

section
/-!
PROOFS. Channel data, and the channel instructions of treads (04 R132 to R134, R138).
-/
namespace Sys2Proof.Machine
open State Laws

/-! ## Channel data (04 R138) -/

@[simp] theorem chan_setChan_self (k : Nat) (d : ChanData) (s : State) : (State.setChan k d s).chan k = d := tget_tset_self _ _ _

theorem chan_setChan_other {k k' : Nat} (h : k' ≠ k) (d : ChanData) (s : State) : (State.setChan k d s).chan k' = s.chan k' :=
  tget_tset_other (d := ChanData.init) s.chans d h

theorem keepsBut_chans (s : State) (x : Tbl ChanData) : KeepsBut [.chans] s { s with chans := x } := by
  intro a ha
  cases a <;> simp [Area.same] at ha ⊢

theorem OnlyTread.setChan {l : List Area} {t : Nat} {s u : State} (h : OnlyTread l t s u) (k : Nat) (d : ChanData) :
    OnlyTread (.chans :: l) t s (State.setChan k d u) := by
  obtain ⟨hkeep, hother⟩ := h
  refine ⟨(hkeep.mono ?_).trans ((keepsBut_chans u _).mono (by simp)), hother⟩
  intro a ha
  simp only [List.mem_cons] at ha ⊢
  tauto

theorem onlyChan_setChan (k : Nat) (d : ChanData) {s u : State} (h : u.chans = s.chans) : OnlyChan k s (State.setChan k d u) :=
  fun k' hk => (chan_setChan_other hk d u).trans (by rw [State.chan, State.chan, h])

/-! ## Channel instructions (04 R132 to R134, R138) -/

/-- Whether a knot takes tuples of another length than `n`. -/
def otherTuple (n : Nat) : Option (Nat × KnotCfg) → Bool
  | some (_, k) => k.tuple + 1 != n
  | none => false

theorem otherTuple_iff {n : Nat} {k : Option (Nat × KnotCfg)} : otherTuple n k = true ↔ ∃ j kc, k = some (j, kc) ∧ kc.tuple + 1 ≠ n := by
  match k with
  | none => simp [otherTuple]
  | some (j, kc) => simp [otherTuple]

/-- A send of `n` words tried on a port. -/
def trySend (t : Nat) (w : WaitOp) (port n : Nat) (s : State) : State :=
  match s.portRoute? t port with
  | none => trapTread t Cause.portUnrouted s
  | some (p, i, e) =>
    if otherTuple n ((s.imageOf p).routeKnot? e) then trapTread t Cause.knotTuple s
    else
      let k := (Chan.route p i).key
      if (n : Int) ≤ (s.chan k).credit then sendWords k ((s.tread t).sendList w) s |> resumeTread t (s.tread t)
      else s.setTread t { s.tread t with st := .wait, wait := w }

/-- A receive of `n` words tried on a queue. -/
def tryRecv (t : Nat) (w : WaitOp) (q n : Nat) (s : State) : State :=
  match s.queueChan? t q with
  | none => trapTread t Cause.queueUnrouted s
  | some c =>
    if n ≤ (s.chan c.key).queue.length then
      takeWords c.key n s |> resumeTread t ((s.tread t).recvInto ((s.chan c.key).queue.take n) w)
    else s.setTread t { s.tread t with st := .wait, wait := w }

theorem tryWait_send (t port reg n : Nat) : tryWait t (.send port reg n) = trySend t (.send port reg n) port n := rfl
theorem tryWait_vsend (t port vr lane n : Nat) : tryWait t (.vsend port vr lane n) = trySend t (.vsend port vr lane n) port n := rfl
theorem tryWait_recv (t q n reg : Nat) : tryWait t (.recv q n reg) = tryRecv t (.recv q n reg) q n := rfl
theorem tryWait_vrecv (t q n vr lane : Nat) : tryWait t (.vrecv q n vr lane) = tryRecv t (.vrecv q n vr lane) q n := rfl

/-- A tuple that runs past the last register is illegal. -/
theorem channel_illegal {c : Instr} {t : Nat} {legal : Prop} [Decidable legal] {w : WaitOp} {s : State} (hr : Runs t s)
    (hc : exec c s = channel t legal w s) (h : ¬legal) : Gives c s (Trapped t 1 s) :=
  gives_trapped hr hc ((hr.silent.whenRun _).trans (if_neg (by simpa using h)))

theorem channel_legal {t : Nat} {legal : Prop} [Decidable legal] {w : WaitOp} {s : State} (h : legal) :
    channel t legal w s = perform (treadOk t) (whenRun t (tryWait t w)) s := by
  simp only [channel, h, decide_true, if_true]

/-- The tread that goes on after its channel instruction. -/
def resumed (y : Tread) : Tread := ({ y with st := .run, wait := .none }.beat 1).nextPc

section
variable {c : Instr} {t : Nat} {w : WaitOp} {s : State} (hr : Runs t s) (hc : exec c s = perform (treadOk t) (whenRun t (tryWait t w)) s)
include hr hc

theorem waits_gives (hw : tryWait t w { s with out := [] } = treadBecomes t { s.tread t with st := .wait, wait := w } s) :
    Gives c s (Waits t s) := by
  refine gives_treadBecomes hr hc ((hr.silent.whenRun _).trans hw) ⟨treadBecomes_only [] t _ s, ?_, ?_⟩ <;> rw [treadBecomes_tread]

theorem tryWait_traps {cause : Nat} (hw : tryWait t w { s with out := [] } = trapTread t cause { s with out := [] }) :
    Gives c s (Trapped t cause s) := gives_trapped hr hc ((hr.silent.whenRun _).trans hw)

theorem gives_chanMoves {y : Tread} {k : Nat} {d : ChanData} {P : State → Prop}
    (hw : tryWait t w { s with out := [] } = State.setChan k d (treadBecomes t (resumed y) s))
    (hP : P (State.setChan k d (treadBecomes t (resumed y) s))) : Gives c s P :=
  gives_of_treadOk hr hc ((hr.silent.whenRun _).trans hw) rfl hP

end

theorem st_run_eta {x : Tread} (h : x.st = .run) : { x with st := .run } = x := by rw [← h]

theorem setChan_tread (k : Nat) (d : ChanData) (t : Nat) (x : Tread) (s : State) : (State.setChan k d (treadBecomes t x s)).tread t = x :=
  treadBecomes_tread t x s

theorem resumed_next {t : Nat} {s u : State} {y : Tread} (hu : u.tread t = resumed y) (hpc : y.pc = (s.tread t).pc)
    (hbeats : y.beats = (s.tread t).beats) : NextInstruction t 1 s u := by
  rw [NextInstruction, hu, ← hpc, ← hbeats]
  exact ⟨rfl, rfl⟩

/-- A tread that goes on after a send on channel `k`. -/
theorem sendResult_of_moves {t : Nat} {s : State} (hr : Runs t s) (k : Nat) (ws : List W32) :
    SendResult t k ws s (State.setChan k { s.chan k with
      credit := (s.chan k).credit - ws.length, wire := (s.chan k).wire ++ ws, sendMoved := true }
      (treadBecomes t (resumed (s.tread t)) s)) := by
  refine ⟨(treadBecomes_only [] t _ s).setChan k _, resumed_next (setChan_tread k _ t _ s) rfl rfl, onlyChan_setChan k _ rfl, ?_⟩
  rw [chan_setChan_self, setChan_tread]
  exact ⟨rfl, rfl, rfl, rfl, rfl, rfl, st_run_eta hr.2⟩

theorem trySend_unrouted {t port n : Nat} {w : WaitOp} {s : State} (h : s.portRoute? t port = none) :
    trySend t w port n s = trapTread t 6 s := by
  rw [trySend]
  simp only [h]
  rfl

section
variable {t port n p i : Nat} {w : WaitOp} {e : Route} {s : State} (h : s.portRoute? t port = some (p, i, e))
include h

theorem trySend_otherTuple (hk : otherTuple n ((s.imageOf p).routeKnot? e) = true) : trySend t w port n s = trapTread t 4 s := by
  simp only [trySend, h, hk]
  rfl

theorem trySend_covered (hk : otherTuple n ((s.imageOf p).routeKnot? e) = false) (hcov : (n : Int) ≤ (s.chan (Chan.route p i).key).credit) :
    trySend t w port n s = resumeTread t (s.tread t) (sendWords (Chan.route p i).key ((s.tread t).sendList w) s) := by
  simp only [trySend, h, hk, if_pos hcov]
  rfl

theorem trySend_waits (hk : otherTuple n ((s.imageOf p).routeKnot? e) = false) (hcov : (s.chan (Chan.route p i).key).credit < n) :
    trySend t w port n s = s.setTread t { s.tread t with st := .wait, wait := w } := by
  simp only [trySend, h, hk, if_neg (Int.not_le.2 hcov)]
  rfl

end

/-- The four outcomes of a send. -/
theorem send_gives {c : Instr} {t port n : Nat} {w : WaitOp} {ws : List W32} {s : State} (hr : Runs t s)
    (hc : exec c s = perform (treadOk t) (whenRun t (tryWait t w)) s) (hw : tryWait t w = trySend t w port n)
    (hws : (s.tread t).sendList w = ws) (hlen : ws.length = n) :
    (s.portRoute? t port = none → Gives c s (Trapped t 6 s))
    ∧ ∀ p i e, s.portRoute? t port = some (p, i, e) →
      let k := (Chan.route p i).key
      (∀ j kc, (s.imageOf p).routeKnot? e = some (j, kc) → kc.tuple + 1 ≠ n → Gives c s (Trapped t 4 s))
      ∧ ((∀ j kc, (s.imageOf p).routeKnot? e = some (j, kc) → kc.tuple + 1 = n) →
        ((n : Int) ≤ (s.chan k).credit → Gives c s (SendResult t k ws s)) ∧ ((s.chan k).credit < n → Gives c s (Waits t s))) := by
  have htry := congrFun hw { s with out := [] }
  refine ⟨fun hp => tryWait_traps hr hc (htry.trans (trySend_unrouted hp)), fun p i e hp =>
    ⟨fun j kc hk hne => tryWait_traps hr hc (htry.trans (trySend_otherTuple hp (otherTuple_iff.2 ⟨j, kc, hk, hne⟩))), fun hk => ?_⟩⟩
  have hsame : otherTuple n ((s.imageOf p).routeKnot? e) = false := Bool.eq_false_iff.2 fun h => by
    obtain ⟨j, kc, hkc, hne⟩ := otherTuple_iff.1 h
    exact hne (hk j kc hkc)
  refine ⟨fun hcov => ?_, fun hcov => waits_gives hr hc (htry.trans (trySend_waits hp hsame hcov))⟩
  subst hws
  refine gives_chanMoves (y := s.tread t) hr hc (htry.trans (trySend_covered hp hsame hcov)) (sendResult_of_moves hr _ _)

theorem treadSends : Claims.TreadSends := by
  intro t reg vr lane ch len s hr x n sends
  have hscalar : x.sendList (.send ch.toNat reg.toNat n) = (List.range n).map fun i => x.s (reg.toNat + i) := by
    rw [Tread.sendList, upFrom_eq_map_range, List.map_map]
    rfl
  have hvector : x.sendList (.vsend ch.toNat vr.toNat lane.toNat n) = (List.range n).map fun i => lane32 (x.v vr.toNat) (lane.toNat + i) := by
    rw [Tread.sendList, upFrom_eq_map_range, List.map_map]
    rfl
  refine ⟨fun hlen => send_gives hr ?_ (tryWait_send t ch.toNat reg.toNat n) hscalar (by simp), fun hlen => channel_illegal hr rfl (Nat.not_le.2 hlen),
    fun hlen => send_gives hr ?_ (tryWait_vsend t ch.toNat vr.toNat lane.toNat n) hvector (by simp), fun hlen => channel_illegal hr rfl (Nat.not_le.2 hlen)⟩
  · exact channel_legal hlen
  · exact channel_legal hlen

theorem tryRecv_unfed {t q n : Nat} {w : WaitOp} {s : State} (h : s.queueChan? t q = none) : tryRecv t w q n s = trapTread t 7 s := by
  simp only [tryRecv, h]
  rfl

section
variable {t q n : Nat} {w : WaitOp} {c : Chan} {s : State} (h : s.queueChan? t q = some c)
include h

theorem tryRecv_covered (hcov : n ≤ (s.chan c.key).queue.length) :
    tryRecv t w q n s = resumeTread t ((s.tread t).recvInto ((s.chan c.key).queue.take n) w) (takeWords c.key n s) := by
  simp only [tryRecv, h, if_pos hcov]

theorem tryRecv_waits (hcov : (s.chan c.key).queue.length < n) :
    tryRecv t w q n s = s.setTread t { s.tread t with st := .wait, wait := w } := by
  simp only [tryRecv, h, if_neg (Nat.not_le.2 hcov)]

end

/-- A receive changes the tread's registers alone. -/
def OnlyRegisters (x y : Tread) : Prop := y = { x with sreg := y.sreg, vreg := y.vreg }

theorem recvResult_of_moves {t : Nat} {s : State} (hr : Runs t s) (k n : Nat) {y : Tread} {P : Tread → Prop} (hy : OnlyRegisters (s.tread t) y)
    (hP : P (resumed y)) :
    RecvResult t k n P s (State.setChan k { s.chan k with
      queue := (s.chan k).queue.drop n, back := (s.chan k).back + n, recvMoved := true } (treadBecomes t (resumed y) s)) := by
  refine ⟨(treadBecomes_only [] t _ s).setChan k _, resumed_next (setChan_tread k _ t _ s) (by rw [hy]) (by rw [hy]),
    onlyChan_setChan k _ rfl, ?_⟩
  rw [chan_setChan_self, setChan_tread]
  refine ⟨rfl, rfl, rfl, rfl, rfl, hP, rfl, ?_⟩
  rw [hy]
  exact st_run_eta hr.2

/-! The three outcomes of a receive. -/

section
variable {c : Instr} {t q n : Nat} {w : WaitOp} {s : State} (hr : Runs t s)
  (hc : exec c s = perform (treadOk t) (whenRun t (tryWait t w)) s) (hw : tryWait t w = tryRecv t w q n)
include hr hc hw

theorem recv_unfed (h : s.queueChan? t q = none) : Gives c s (Trapped t 7 s) :=
  tryWait_traps hr hc ((congrFun hw _).trans (tryRecv_unfed h))

theorem recv_waits {k : Chan} (h : s.queueChan? t q = some k) (hcov : (s.chan k.key).queue.length < n) : Gives c s (Waits t s) :=
  waits_gives hr hc ((congrFun hw _).trans (tryRecv_waits h hcov))

theorem recv_covered {k : Chan} {P : Tread → Prop} (h : s.queueChan? t q = some k) (hcov : n ≤ (s.chan k.key).queue.length)
    (hregs : ∀ l, OnlyRegisters (s.tread t) ((s.tread t).recvInto l w))
    (hP : P (resumed ((s.tread t).recvInto ((s.chan k.key).queue.take n) w))) : Gives c s (RecvResult t k.key n P s) :=
  gives_chanMoves hr hc ((congrFun hw _).trans (tryRecv_covered h hcov)) (recvResult_of_moves hr k.key n (hregs _) hP)

end

/-! The registers that a receive fills. -/

/-- Words written to consecutive scalar registers. -/
theorem s_foldl_setS (reg : Nat) (l : List W32) (j : Nat) (x : Tread) :
    let y := (l.zipIdx j).foldl (fun x (w, i) => x.setS (reg + i) w) x
    (∀ i, i < l.length → reg + (j + i) ≠ 0 → l[i]? = some (y.s (reg + (j + i))))
    ∧ (∀ r, r < reg + j ∨ reg + (j + l.length) ≤ r → y.s r = x.s r) ∧ ∃ m, y = { x with sreg := m } := by
  induction l generalizing j x with
  | nil => exact ⟨fun i hi => absurd hi (Nat.not_lt_zero i), fun _ _ => rfl, x.sreg, rfl⟩
  | cons w l ih =>
    obtain ⟨hin, hout, m, hm⟩ := ih (j + 1) (x.setS (reg + j) w)
    obtain ⟨m', hm'⟩ := setS_sreg (reg + j) w x
    rw [List.zipIdx_cons, List.foldl_cons]
    refine ⟨fun i hi hne => ?_, fun r hr => ?_, m, ?_⟩
    · cases i with
      | zero => rw [hout _ (by omega), Nat.add_zero, s_setS_self (show reg + j ≠ 0 from hne)]; rfl
      | succ i =>
        have hi' := hin i (by simpa using hi) (by omega)
        rw [Nat.add_right_comm j 1 i] at hi'
        exact hi'
    · rw [List.length_cons] at hr
      rw [hout r (by omega), s_setS_other (by omega)]
    · rw [hm, hm']

theorem getLsbD_ones32 (b : Nat) : (0xFFFFFFFF#256).getLsbD b = decide (b < 32) := by
  rw [BitVec.getLsbD_ofNat, show 0xFFFFFFFF = 2 ^ 32 - 1 from rfl, Nat.testBit_two_pow_sub_one]
  by_cases hb : b < 32
  · simp [hb, show b < 256 by omega]
  · simp [hb]

theorem getLsbD_setLane (v : V256) (i : Nat) (w : W32) {p : Nat} (hp : p < 256) :
    (setLane v i w).getLsbD p = if 32 * i ≤ p ∧ p < 32 * i + 32 then w.getLsbD (p - 32 * i) else v.getLsbD p := by
  simp only [setLane, BitVec.getLsbD_or, BitVec.getLsbD_and, BitVec.getLsbD_not, BitVec.getLsbD_shiftLeft, BitVec.getLsbD_setWidth,
    getLsbD_ones32, hp, decide_true, Bool.true_and]
  by_cases hlo : p < 32 * i
  · rw [if_neg (by omega)]
    simp [hlo]
  · by_cases hhi : p - 32 * i < 32
    · rw [if_pos (by omega)]
      simp [hlo, hhi, show p - 32 * i < 256 by omega]
    · rw [if_neg (by omega), BitVec.getLsbD_of_ge w _ (by omega)]
      simp [hhi]

theorem lane32_setLane_self {i : Nat} (hi : i < 8) (v : V256) (w : W32) : lane32 (setLane v i w) i = w := by
  refine BitVec.eq_of_getLsbD_eq fun b hb => ?_
  rw [lane32, BitVec.getLsbD_extractLsb', getLsbD_setLane v i w (by omega), if_pos (by omega), Nat.add_sub_cancel_left]
  simp [hb]

theorem lane32_setLane_other {i j : Nat} (h : j ≠ i) (v : V256) (w : W32) : lane32 (setLane v i w) j = lane32 v j := by
  refine BitVec.eq_of_getLsbD_eq fun b hb => ?_
  rw [lane32, lane32, BitVec.getLsbD_extractLsb', BitVec.getLsbD_extractLsb']
  by_cases hp : 32 * j + b < 256
  · rw [getLsbD_setLane v i w hp, if_neg (by omega)]
  · rw [BitVec.getLsbD_of_ge _ _ (by omega), BitVec.getLsbD_of_ge _ _ (by omega)]

/-- Words written to consecutive lanes. -/
theorem lane32_foldl_setLane (base : Nat) (l : List W32) (j : Nat) (v : V256) (h8 : base + (j + l.length) ≤ 8) :
    let u := (l.zipIdx j).foldl (fun v (w, i) => setLane v (base + i) w) v
    (∀ i, i < l.length → l[i]? = some (lane32 u (base + (j + i))))
    ∧ ∀ i, i < base + j ∨ base + (j + l.length) ≤ i → lane32 u i = lane32 v i := by
  induction l generalizing j v with
  | nil => exact ⟨fun i hi => absurd hi (Nat.not_lt_zero i), fun _ _ => rfl⟩
  | cons w l ih =>
    rw [List.length_cons] at h8
    obtain ⟨hin, hout⟩ := ih (j + 1) (setLane v (base + j) w) (by omega)
    rw [List.zipIdx_cons, List.foldl_cons]
    refine ⟨fun i hi => ?_, fun i hi => ?_⟩
    · cases i with
      | zero => rw [hout _ (by omega), Nat.add_zero, lane32_setLane_self (by omega)]; rfl
      | succ i =>
        have hi' := hin i (by simpa using hi)
        rw [Nat.add_right_comm j 1 i] at hi'
        exact hi'
    · rw [List.length_cons] at hi
      rw [hout i (by omega), lane32_setLane_other (by omega)]

theorem recvInto_scalar_only (x : Tread) (q n reg : Nat) (l : List W32) : OnlyRegisters x (x.recvInto l (.recv q n reg)) := by
  obtain ⟨-, -, m, hm⟩ := s_foldl_setS reg l 0 x
  rw [OnlyRegisters, Tread.recvInto, hm]

theorem recvInto_vector_only (x : Tread) (q n vr lane : Nat) (l : List W32) : OnlyRegisters x (x.recvInto l (.vrecv q n vr lane)) := rfl

theorem treadReceives : Claims.TreadReceives := by
  intro t reg vr lane ch len s hr x n takes
  refine ⟨fun hlen => ?_, fun hlen => channel_illegal hr rfl (Nat.not_le.2 hlen), fun hlen => ?_,
    fun hlen => channel_illegal hr rfl (Nat.not_le.2 hlen)⟩
  · have hc : exec (.recv t reg ch len) s = perform (treadOk t) (whenRun t (tryWait t (.recv ch.toNat n reg.toNat))) s := channel_legal hlen
    have hw := tryWait_recv t ch.toNat n reg.toNat
    refine ⟨recv_unfed hr hc hw, fun k hk =>
      ⟨fun hcov => recv_covered hr hc hw hk hcov (recvInto_scalar_only x _ n _) ?_, recv_waits hr hc hw hk⟩⟩
    have htake := List.length_take_of_le hcov
    obtain ⟨hin, hout, m, hm⟩ := s_foldl_setS reg.toNat ((s.chan k.key).queue.take n) 0 x
    simp only [htake, Nat.zero_add] at hin hout
    exact ⟨fun i hi hne => (List.getElem?_take_of_lt hi).symm.trans (hin i hi hne), hout, (congrArg Tread.vreg hm :)⟩
  · have hc : exec (.vrecv t vr ch len lane) s = perform (treadOk t) (whenRun t (tryWait t (.vrecv ch.toNat n vr.toNat lane.toNat))) s :=
      channel_legal hlen
    have hw := tryWait_vrecv t ch.toNat n vr.toNat lane.toNat
    refine ⟨recv_unfed hr hc hw, fun k hk =>
      ⟨fun hcov => recv_covered hr hc hw hk hcov (recvInto_vector_only x _ n _ _) ?_, recv_waits hr hc hw hk⟩⟩
    have htake := List.length_take_of_le hcov
    obtain ⟨hin, hout⟩ := lane32_foldl_setLane lane.toNat ((s.chan k.key).queue.take n) 0 (x.v vr.toNat) (by omega)
    simp only [htake, Nat.zero_add] at hin hout
    have hv := v_setV_self vr.toNat
      (((s.chan k.key).queue.take n).zipIdx.foldl (fun v (w, i) => setLane v (lane.toNat + i) w) (x.v vr.toNat)) x
    refine ⟨fun i hi => (List.getElem?_take_of_lt hi).symm.trans ((hin i hi).trans ?_), fun i hi => Eq.trans ?_ (hout i hi),
      fun r hne => v_setV_other hne _ x, rfl⟩
    · exact congrArg (fun v => some (lane32 v (lane.toNat + i))) hv.symm
    · exact congrArg (fun v => lane32 v i) hv

/-! POLL. -/

theorem poll_gives {t : Nat} {reg : BitVec 5} {ch : BitVec 2} {p : Bool} {v : Int} {s : State} (hr : Runs t s)
    (hv : (if p then
        match s.portRoute? t ch.toNat with
        | some (q, i, _) => (s.chan (Chan.route q i).key).credit
        | none => 0
      else match s.queueChan? t ch.toNat with
        | some c => ((s.chan c.key).queue.length : Int)
        | none => 0) = v) :
    Gives (.poll t reg ch p) s (ScalarResult t 1 reg (BitVec.ofInt 32 v) s) := by
  subst hv
  exact gives_treadBecomes hr rfl (hr.silent.runTread 1 _) (treadSteps_scalar t 1 reg _ s)

theorem treadPolls : Claims.TreadPolls := by
  intro t reg ch s hr gives
  exact ⟨fun q hq => poll_gives hr (by simp [hq]), fun hq => poll_gives hr (by simp [hq]), fun p i e hp => poll_gives hr (by simp [hp]),
    fun hp => poll_gives hr (by simp [hp])⟩

/-- Settles O6: a tuple moves when the counter or the queue covers it, and the tread waits or traps otherwise. -/
theorem channelInstructions : Obligations.ChannelInstructions := ⟨treadSends, treadReceives, treadPolls⟩
end Sys2Proof.Machine
end

section
/-!
PROOFS. Knots (04 R142 to R145): contributions, deliveries, and the order of integer sums.
-/
namespace Sys2Proof.Machine
open State Laws

/-! ## Words added one by one (04 R144) -/

theorem lget_nil {α : Type} (d : α) (i : Nat) : lget d [] i = d := rfl

theorem addWords_nil (l : List W32) : addWords l [] = l := by cases l <;> rfl

theorem lget_addWords (l m : List W32) (i : Nat) : lget 0 (addWords l m) i = lget 0 l i + lget 0 m i := by
  induction l generalizing m i with
  | nil => simp [addWords, lget_nil]
  | cons a l ih =>
    cases m with
    | nil => simp [addWords, lget_nil]
    | cons b m =>
      cases i with
      | zero => rfl
      | succ i => exact ih m i

theorem addWords_right_comm (l m n : List W32) : addWords (addWords l m) n = addWords (addWords l n) m := by
  induction l generalizing m n with
  | nil =>
    change addWords m n = addWords n m
    induction m generalizing n with
    | nil => exact (addWords_nil n).symm
    | cons b m ih =>
      cases n with
      | nil => rfl
      | cons c n => rw [addWords, addWords, ih, BitVec.add_comm]
  | cons a l ih =>
    cases m with
    | nil => rw [addWords_nil, addWords_nil]
    | cons b m =>
      cases n with
      | nil => rw [addWords_nil, addWords_nil]
      | cons c n => rw [addWords, addWords, addWords, addWords, ih, BitVec.add_assoc, BitVec.add_comm b c, BitVec.add_assoc]

/-! ## Contributions to knots (04 R142 to R144) -/

@[simp] theorem knot_setKnot_self (k : Nat) (d : Knot) (s : State) : (State.setKnot k d s).knot k = d := tget_tset_self _ _ _

theorem knot_setKnot_other {k k' : Nat} (h : k' ≠ k) (d : Knot) (s : State) : (State.setKnot k d s).knot k' = s.knot k' :=
  tget_tset_other (d := Knot.init) s.knots d h

theorem keepsBut_knots (s : State) (x : Tbl Knot) : KeepsBut [.knots] s { s with knots := x } := by
  intro a ha
  cases a <;> simp [Area.same] at ha ⊢

/-- A knot with one more contribution, of source `src`. -/
def contributedKnot (k : KnotCfg) (src : Nat) (ws : List W32) (d : Knot) : Knot :=
  let x := if k.kind = 1 then { d with parts := tset [] d.parts src ws } else { d with total := addWords d.total ws }
  { x with sources := x.sources ++ [src], moved := true }

theorem contributedKnot_sources (k : KnotCfg) (src : Nat) (ws : List W32) (d : Knot) :
    (contributedKnot k src ws d).sources = d.sources ++ [src] := by
  simp only [contributedKnot]
  split <;> rfl

theorem contributedKnot_parts {k : KnotCfg} (h : k.kind = 1) (src : Nat) (ws : List W32) (d : Knot) (j : Nat) :
    tget [] (contributedKnot k src ws d).parts j = if j = src then ws else tget [] d.parts j := by
  rw [contributedKnot, if_pos h]
  split
  case isTrue hj => exact hj ▸ tget_tset_self _ _ _
  case isFalse hj => exact tget_tset_other _ _ hj

theorem contributedKnot_total {k : KnotCfg} (h : k.kind ≠ 1) (src : Nat) (ws : List W32) (d : Knot) :
    (contributedKnot k src ws d).total = addWords d.total ws := by
  rw [contributedKnot, if_neg h]

/-- The words of a contribution of route `i` leave its channel and join knot `ki`. -/
def contribute (p i ki : Nat) (k : KnotCfg) (s : State) : State :=
  let key := (Chan.route p i).key
  let wire := (s.chan key).wire
  let src := ((s.imageOf p).knotSources ki).findIdx (· == i)
  s.setChan key { s.chan key with wire := wire.drop (k.tuple + 1) }
    |> setKnot (knotKey p ki) (contributedKnot k src (wire.take (k.tuple + 1)) (s.knot (knotKey p ki)))

/-- What KNOT_CONTRIBUTION does. -/
def contribution (p i : Nat) (s : State) : State :=
  match (s.imageOf p).routes[i]?.bind (s.imageOf p).routeKnot? with
  | none => s
  | some (ki, k) =>
    if (s.chan (Chan.route p i).key).wire.length < k.tuple + 1 || !s.chanCrosses (.route p i) then s else contribute p i ki k s

theorem exec_knotContribution (p i : Nat) (s : State) : exec (.knotContribution p i) s = perform (partOk p) (contribution p i) s := rfl

section
variable {p i ki : Nat} {k : KnotCfg} {e : Route} {s : State} (he : (s.imageOf p).routes[i]? = some e)
  (hk : (s.imageOf p).routeKnot? e = some (ki, k))
include he hk

theorem contribution_arrives (hlen : k.tuple + 1 ≤ (s.chan (Chan.route p i).key).wire.length) (hx : s.chanCrosses (.route p i) = true) :
    contribution p i s = contribute p i ki k s := by
  simp only [contribution, he, Option.bind_some, hk]
  exact if_neg (by simp [hx]; omega)

theorem contribution_waits (h : (s.chan (Chan.route p i).key).wire.length < k.tuple + 1 ∨ s.chanCrosses (.route p i) = false) :
    contribution p i s = s := by
  simp only [contribution, he, Option.bind_some, hk]
  exact if_pos (by simpa using h)

end

theorem contribute_keeps (p i ki : Nat) (k : KnotCfg) (s : State) : KeepsBut [.chans, .knots] s (contribute p i ki k s) :=
  ((keepsBut_chans s _).mono (by decide)).trans ((keepsBut_knots (State.setChan (Chan.route p i).key _ s) _).mono (by decide))

theorem knotContributions : Claims.KnotContributions := by
  intro p i ki k e s hp he hk key wire ws old src
  have hexec := (exec_knotContribution p i s).trans (perform_partOk hp _ s)
  refine ⟨fun hlen hx => ?_, fun h => gives_still hexec (contribution_waits (s := { s with out := [] }) he hk h)⟩
  have hu := contribution_arrives (s := { s with out := [] }) he hk hlen hx
  have hkeep := contribute_keeps p i ki k { s with out := [] }
  refine gives_value hexec hu (hkeep .pending (by decide)) ⟨hkeep.with_out.mono (by decide), fun x hx => ?_, ?_, fun x hx => ?_, ?_, fun hkind j => ?_,
    fun hkind j => ?_⟩
  · exact chan_setChan_other hx _ _
  · exact chan_setChan_self _ _ _
  · exact knot_setKnot_other hx _ _
  all_goals rw [contribute, knot_setKnot_self]
  · exact contributedKnot_sources ..
  · exact contributedKnot_parts hkind ..
  · rw [contributedKnot_total hkind]
    exact lget_addWords ..

/-! An integer knot's total does not depend on the order of contributions. -/

/-- The words of the contribution of route `i` that can leave its channel now. -/
def readyWords (p i n : Nat) (s : State) : List W32 :=
  let wire := (s.chan (Chan.route p i).key).wire
  if wire.length < n || !s.chanCrosses (.route p i) then [] else wire.take n

/-- What a contribution adds to the total of an integer knot, and what it leaves for another route. -/
theorem contribution_total {p i j ki : Nat} {k : KnotCfg} {e : Route} {s a : State} (hkey : (Chan.route p j).key ≠ (Chan.route p i).key)
    (he : (s.imageOf p).routes[i]? = some e) (hk : (s.imageOf p).routeKnot? e = some (ki, k)) (hkind : k.kind ≠ 1)
    (ha : exec (.knotContribution p i) s = .next a) :
    (a.knot (knotKey p ki)).total = addWords (s.knot (knotKey p ki)).total (readyWords p i (k.tuple + 1) s)
    ∧ a.imageOf p = s.imageOf p ∧ readyWords p j (k.tuple + 1) a = readyWords p j (k.tuple + 1) s := by
  obtain ⟨-, rfl⟩ := perform_next (ha ▸ (exec_knotContribution p i s).symm)
  by_cases h : (s.chan (Chan.route p i).key).wire.length < k.tuple + 1 ∨ s.chanCrosses (.route p i) = false
  · have hready : readyWords p i (k.tuple + 1) s = [] := if_pos (by simpa using h)
    rw [contribution_waits (s := { s with out := [] }) he hk h, hready, addWords_nil]
    exact ⟨rfl, rfl, rfl⟩
  · obtain ⟨hlen, hx⟩ := not_or.1 h
    have hready : readyWords p i (k.tuple + 1) s = (s.chan (Chan.route p i).key).wire.take (k.tuple + 1) := if_neg (by simpa using h)
    rw [contribution_arrives (s := { s with out := [] }) he hk (Nat.not_lt.1 hlen) (Bool.not_eq_false _ ▸ hx), hready]
    refine ⟨?_, rfl, ?_⟩
    · exact (congrArg Knot.total (knot_setKnot_self _ _ _)).trans (contributedKnot_total hkind ..)
    · have hchan := chan_setChan_other hkey
        { s.chan (Chan.route p i).key with wire := (s.chan (Chan.route p i).key).wire.drop (k.tuple + 1) } { s with out := [] }
      exact congrArg (fun d : ChanData => if d.wire.length < k.tuple + 1 || !s.chanCrosses (.route p j) then [] else d.wire.take (k.tuple + 1)) hchan

theorem integerKnotsCommute : Claims.IntegerKnotsCommute := by
  intro p i j ki k e f s a b c d _ hkey he hf hke hkf hkind ha hb hc hd
  obtain ⟨hta, hia, hra⟩ := contribution_total hkey.symm he hke hkind ha
  obtain ⟨htb, -, -⟩ := contribution_total hkey (hia ▸ hf) (hia ▸ hkf) hkind hb
  obtain ⟨htc, hic, hrc⟩ := contribution_total hkey hf hkf hkind hc
  obtain ⟨htd, -, -⟩ := contribution_total hkey.symm (hic ▸ he) (hic ▸ hke) hkind hd
  rw [htb, hta, hra, htd, htc, hrc, addWords_right_comm]

/-! ## Deliveries of knots (04 R143, R145) -/

theorem lget_eq_getElem? {α : Type} (d : α) (l : List α) (i : Nat) : lget d l i = l[i]?.getD d := by
  induction l generalizing i with
  | nil => rfl
  | cons a l ih =>
    cases i with
    | zero => rfl
    | succ i => exact ih i

theorem knotTotal_integer {k : KnotCfg} (h : k.kind ≠ 1) (d : Knot) : knotTotal k d = d.total := if_neg h

theorem knotTotal_float {k : KnotCfg} (h : k.kind = 1) (d : Knot) :
    (knotTotal k d).length = k.tuple + 1 ∧ ∀ w, w < k.tuple + 1 → lget 0 (knotTotal k d) w
      = BitVec.ofNat 32 ((List.range (k.count - 1)).foldl (fun t j => (fadd t (lget 0 (tget [] d.parts (j + 1)) w).toNat).v)
          (lget 0 (tget [] d.parts 0) w).toNat) := by
  rw [knotTotal, if_pos h]
  refine ⟨by simp [upFrom_eq_map_range], fun w hw => ?_⟩
  rw [lget_eq_getElem?, ← List.getD_eq_getElem?_getD, getD_map_upFrom _ _ hw, Nat.zero_add]
  simp only [upFrom_eq_map_range, List.foldl_map, Nat.add_comm 1]

/-- Credits of `n` words on their way back to each of some channels. -/
def returnCredits (n : Nat) (keys : List Nat) (s : State) : State :=
  keys.foldl (fun s key => s.setChan key { s.chan key with back := (s.chan key).back + n }) s

/-- Returned credits change the data of channels alone. -/
theorem returnCredits_chans (n : Nat) (keys : List Nat) (s : State) : ∃ x, returnCredits n keys s = { s with chans := x } := by
  induction keys generalizing s with
  | nil => exact ⟨s.chans, rfl⟩
  | cons key keys ih =>
    obtain ⟨x, hx⟩ := ih (s.setChan key { s.chan key with back := (s.chan key).back + n })
    exact ⟨x, hx⟩

theorem returnCredits_knot (n : Nat) (keys : List Nat) (s : State) (q : Nat) : (returnCredits n keys s).knot q = s.knot q := by
  obtain ⟨x, hx⟩ := returnCredits_chans n keys s
  rw [hx]
  rfl

theorem chan_returnCredits_other {n r : Nat} {keys : List Nat} (h : r ∉ keys) (s : State) : (returnCredits n keys s).chan r = s.chan r := by
  induction keys generalizing s with
  | nil => rfl
  | cons key keys ih =>
    obtain ⟨hne, hr⟩ := not_or.1 (mt List.mem_cons.2 h)
    exact (ih hr _).trans (chan_setChan_other hne _ s)

theorem chan_returnCredits_mem {n r : Nat} {keys : List Nat} (h : r ∈ keys) (hnodup : keys.Nodup) (s : State) :
    (returnCredits n keys s).chan r = { s.chan r with back := (s.chan r).back + n } := by
  induction keys generalizing s with
  | nil => cases h
  | cons key keys ih =>
    obtain ⟨hkey, hkeys⟩ := List.nodup_cons.1 hnodup
    rcases List.mem_cons.1 h with rfl | hr
    · exact (chan_returnCredits_other hkey _).trans (chan_setChan_self r _ s)
    · have hne : r ≠ key := fun he => hkey (he ▸ hr)
      rw [show returnCredits n (key :: keys) s = returnCredits n keys (s.setChan key { s.chan key with back := (s.chan key).back + n }) from rfl,
        ih hr hkeys, chan_setChan_other hne]

/-- Returned credits of the routes `l` of partition `p`. -/
def returnToSources (p n : Nat) (l : List Nat) (s : State) : State :=
  l.foldl (fun s i => s.setChan (Chan.route p i).key { s.chan (Chan.route p i).key with back := (s.chan (Chan.route p i).key).back + n }) s

theorem returnToSources_eq (p n : Nat) (l : List Nat) (s : State) :
    returnToSources p n l s = returnCredits n (l.map fun i => (Chan.route p i).key) s := by
  rw [returnCredits, List.foldl_map]
  rfl

/-- The tuple of knot `ki` goes into its output's queue, and the knot clears. -/
def deliver (p ki : Nat) (k : KnotCfg) (s : State) : State :=
  let out := (Chan.knot p ki).key
  let c := s.chan out
  s.setChan out { c with credit := c.credit - (k.tuple + 1 : Nat), queue := c.queue ++ knotTotal k (s.knot (knotKey p ki)), sendMoved := true }
    |> setKnot (knotKey p ki) { Knot.init with moved := true }

/-- What KNOT_DELIVERY does. -/
def delivery (p ki : Nat) (s : State) : State :=
  match (s.imageOf p).knots[ki]? with
  | none => s
  | some k =>
    let out := Chan.knot p ki
    if (s.knot (knotKey p ki)).sources.length < k.count || (s.chan out.key).credit < ((k.tuple + 1 : Nat) : Int) || !s.chanCrosses out then s
    else deliver p ki k s
      |> returnToSources p (k.tuple + 1) ((s.imageOf p).knotSources ki) |> wakeDest out

theorem exec_knotDelivery (p ki : Nat) (s : State) : exec (.knotDelivery p ki) s = perform (partOk p) (delivery p ki) s := rfl

/-- Nobody proceeds on a channel that ends at a tread that does not wait, or at none. -/
theorem wakeDest_eq_self {c : Chan} {s : State} (h : NoWaiter (s.chanDest c) s) : wakeDest c s = s := by
  rw [wakeDest]
  cases hd : s.chanDest c with
  | none => rfl
  | some t => exact if_neg fun hw => h t hd (beq_iff_eq.1 hw)

theorem chanDest_chanData (x : Tbl ChanData) (y : Tbl Knot) (c : Chan) (s : State) :
    State.chanDest { s with chans := x, knots := y } c = s.chanDest c := by cases c <;> rfl

theorem noWaiter_chanData {x : Tbl ChanData} {y : Tbl Knot} {c : Chan} {s : State} (h : NoWaiter (s.chanDest c) s) :
    NoWaiter (State.chanDest { s with chans := x, knots := y } c) { s with chans := x, knots := y } := by
  rw [chanDest_chanData]
  exact h

theorem delivery_waits {p ki : Nat} {k : KnotCfg} {s : State} (hk : (s.imageOf p).knots[ki]? = some k)
    (h : (s.knot (knotKey p ki)).sources.length < k.count ∨ (s.chan (Chan.knot p ki).key).credit < ((k.tuple + 1 : Nat) : Int)
      ∨ s.chanCrosses (.knot p ki) = false) : delivery p ki s = s := by
  simp only [delivery, hk]
  exact if_pos (by simpa [or_assoc] using h)

theorem delivery_delivers {p ki : Nat} {k : KnotCfg} {s : State} (hk : (s.imageOf p).knots[ki]? = some k)
    (hcount : k.count ≤ (s.knot (knotKey p ki)).sources.length) (hcov : ((k.tuple + 1 : Nat) : Int) ≤ (s.chan (Chan.knot p ki).key).credit)
    (hx : s.chanCrosses (.knot p ki) = true) (hwait : NoWaiter (s.chanDest (.knot p ki)) s) :
    delivery p ki s
      = returnCredits (k.tuple + 1) (((s.imageOf p).knotSources ki).map fun i => (Chan.route p i).key) (deliver p ki k s) := by
  have hgo : ¬(decide ((s.knot (knotKey p ki)).sources.length < k.count)
      || decide ((s.chan (Chan.knot p ki).key).credit < ((k.tuple + 1 : Nat) : Int)) || !s.chanCrosses (.knot p ki)) = true := by
    simp [hx]
    omega
  simp only [delivery, hk]
  rw [if_neg hgo, returnToSources_eq]
  obtain ⟨x, hx⟩ := returnCredits_chans (k.tuple + 1) (((s.imageOf p).knotSources ki).map fun i => (Chan.route p i).key) (deliver p ki k s)
  rw [hx]
  exact wakeDest_eq_self (noWaiter_chanData (y := (deliver p ki k s).knots) hwait)

theorem deliver_keeps (p ki : Nat) (k : KnotCfg) (s : State) : KeepsBut [.chans, .knots] s (deliver p ki k s) :=
  ((keepsBut_chans s _).mono (by decide)).trans ((keepsBut_knots (State.setChan (Chan.knot p ki).key _ s) _).mono (by decide))

theorem knotDeliveries : Claims.KnotDeliveries := by
  intro p ki k s hp hk d out n routeKeys c
  have hexec := (exec_knotDelivery p ki s).trans (perform_partOk hp _ s)
  refine ⟨fun hcount hcov hx hwait hfresh hnodup => ?_, fun h => gives_still hexec (delivery_waits (s := { s with out := [] }) hk h)⟩
  have hu : delivery p ki { s with out := [] } = returnCredits n routeKeys (deliver p ki k { s with out := [] }) :=
    delivery_delivers (s := { s with out := [] }) hk hcount hcov hx hwait
  obtain ⟨m, hm⟩ := returnCredits_chans n routeKeys (deliver p ki k { s with out := [] })
  have hkeep := (deliver_keeps p ki k { s with out := [] }).trans (hm ▸ (keepsBut_chans _ m).mono (by decide))
  have hknot : (returnCredits n routeKeys (deliver p ki k { s with out := [] })).knot (knotKey p ki) = { Knot.init with moved := true } :=
    (returnCredits_knot ..).trans (knot_setKnot_self ..)
  have hout := (chan_returnCredits_other (n := n) hfresh (deliver p ki k { s with out := [] })).trans (chan_setChan_self out.key _ _)
  refine gives_value hexec hu (hkeep .pending (by decide)) ⟨hkeep.with_out.mono (by decide), congrArg Knot.sources hknot,
    congrArg Knot.total hknot, congrArg Knot.parts hknot, congrArg ChanData.credit hout, ⟨knotTotal k d, congrArg ChanData.queue hout,
      fun hkind => knotTotal_integer hkind d,
      fun hkind => knotTotal_float hkind d⟩, fun r hr => ?_, fun x hxo hxr => ?_⟩
  · have hne : r ≠ out.key := fun he => hfresh (he ▸ hr)
    rw [chan_returnCredits_mem hr hnodup, show (deliver p ki k { s with out := [] }).chan r = s.chan r from chan_setChan_other hne _ _]
  · exact (chan_returnCredits_other hxr _).trans (chan_setChan_other hxo _ _)

/-- Settles O22: contributions and deliveries as the knot's kind says, and integer sums that commute. -/
theorem knotsCombine : Obligations.KnotsCombine := ⟨knotContributions, knotDeliveries, integerKnotsCommute⟩
end Sys2Proof.Machine
end

section
/-!
PROOFS. Channels (04 R138 to R140, R157, R158): words, credits, limits, and the head that software reads.
-/
namespace Sys2Proof.Machine
open State Laws

/-! ## Words and credits (04 R138) -/

theorem OnlyTread.setChan_mem {l : List Area} {t : Nat} {s u : State} (h : OnlyTread l t s u) (hl : .chans ∈ l) (k : Nat) (d : ChanData) :
    OnlyTread l t s (State.setChan k d u) := by
  obtain ⟨hkeep, hother⟩ := h
  exact ⟨hkeep.trans ((keepsBut_chans u _).mono (by simpa using hl)), hother⟩

theorem OnlyChan.setChan {k : Nat} {s u : State} (h : OnlyChan k s u) (d : ChanData) : OnlyChan k s (State.setChan k d u) :=
  fun k' hk => (chan_setChan_other hk d u).trans (h k' hk)

/-- A command that changes one channel alone. -/
theorem gives_setChan {c : Instr} {f : State → State} {k : Nat} {d : ChanData} {s : State} {P : State → Prop} (hc : exec c s = perform true f s)
    (hf : f { s with out := [] } = State.setChan k d { s with out := [] })
    (hP : ∀ u : State, KeepsBut [.chans, .out] s u → OnlyChan k s u → u.chan k = d → P u) : Gives c s P :=
  gives_value hc hf rfl (hP _ ((keepsBut_chans { s with out := [] } _).with_out.mono (by decide)) (onlyChan_setChan k d rfl)
    (chan_setChan_self k d _))

/-- Tread `t` goes on as `y`, with channel `k` changed to `d₀` and then to `d`. -/
def chanMoved (t k : Nat) (d₀ d : ChanData) (y : Tread) (s : State) : State :=
  State.setChan k d (State.setChan k d₀ (treadBecomes t (resumed y) s))

/-- A command after which a waiting tread goes on. -/
theorem gives_chanMoved {c : Instr} {f : State → State} {t k : Nat} {d₀ d : ChanData} {y : Tread} {s : State} {P : State → Prop}
    (hc : exec c s = perform true f s) (hf : f { s with out := [] } = chanMoved t k d₀ d y s)
    (hP : ∀ u : State, OnlyTread [.chans] t s u → OnlyChan k s u → u.chan k = d → u.tread t = resumed y → P u) : Gives c s P :=
  gives_value hc hf rfl (hP _ (((treadBecomes_only [.chans] t _ s).setChan_mem (by decide) _ _).setChan_mem (by decide) _ _)
    ((onlyChan_setChan _ _ rfl).setChan _) (chan_setChan_self k d _) (treadBecomes_tread t (resumed y) s))

theorem perform_chanOk {c : Chan} (hc : c.part < 8) (f : State → State) (s : State) : perform (chanOk c) f s = perform true f s := by
  rw [chanOk, decide_eq_true hc]

theorem wakeTread_eq_self {t : Nat} {s : State} (h : (s.tread t).st ≠ .wait) : wakeTread t s = s := if_neg fun hw => h (beq_iff_eq.1 hw)

theorem wakeTread_tries {t : Nat} {s : State} (h : (s.tread t).st = .wait) : wakeTread t s = tryWait t (s.tread t).wait s := if_pos (beq_iff_eq.2 h)

theorem wakeDest_tread {c : Chan} {t : Nat} {s : State} (h : s.chanDest c = some t) : wakeDest c s = wakeTread t s := by rw [wakeDest, h]

theorem OnlyRegisters.pc {x y : Tread} (h : OnlyRegisters x y) : y.pc = x.pc := (congrArg Tread.pc h :)

theorem OnlyRegisters.beats {x y : Tread} (h : OnlyRegisters x y) : y.beats = x.beats := (congrArg Tread.beats h :)

/-! WORD_DELIVERY. -/

/-- Channel data after its oldest word has arrived. -/
def arrived (w : W32) (r : List W32) (d : ChanData) : ChanData := { d with wire := r, queue := d.queue ++ [w] }

/-- What WORD_DELIVERY does. -/
def wordArrival (c : Chan) (s : State) : State :=
  match s.chanDest c, (s.chan c.key).wire with
  | some _, w :: r => if !s.chanCrosses c then s else s.setChan c.key (arrived w r (s.chan c.key)) |> wakeDest c
  | _, _ => s

theorem exec_wordDelivery (c : Chan) (s : State) : exec (.wordDelivery c) s = perform (chanOk c) (wordArrival c) s := rfl

theorem wordArrival_blocked {c : Chan} {s : State} (h : s.chanCrosses c = false) : wordArrival c s = s := by
  unfold wordArrival
  split
  · exact if_pos (by rw [h]; rfl)
  · rfl

theorem wordArrival_nothing {c : Chan} {s : State} (h : s.chanDest c = none ∨ (s.chan c.key).wire = []) : wordArrival c s = s := by
  unfold wordArrival
  split
  next hd hw => rcases h with h | h <;> simp_all
  next => rfl

theorem wordArrival_arrives {c : Chan} {t : Nat} {w : W32} {r : List W32} {s : State} (hx : s.chanCrosses c = true) (hd : s.chanDest c = some t)
    (hw : (s.chan c.key).wire = w :: r) : wordArrival c s = wakeTread t (s.setChan c.key (arrived w r (s.chan c.key))) := by
  have hdest : (s.setChan c.key (arrived w r (s.chan c.key))).chanDest c = some t := (chanDest_chanData _ s.knots c s).trans hd
  simp only [wordArrival, hd, hw, hx]
  exact wakeDest_tread hdest

/-- A waiting receive takes its words as soon as the queue has enough. -/
theorem wakeTread_receives {c : Chan} {t q n reg : Nat} {d : ChanData} {s : State} (hst : (s.tread t).st = .wait)
    (hwait : (s.tread t).wait = .recv q n reg) (hq : s.queueChan? t q = some c) (hcov : n ≤ d.queue.length) :
    wakeTread t (State.setChan c.key d { s with out := [] })
      = chanMoved t c.key d { d with queue := d.queue.drop n, back := d.back + n, recvMoved := true }
          ((s.tread t).recvInto (d.queue.take n) (.recv q n reg)) s := by
  have htries := wakeTread_tries (s := State.setChan c.key d { s with out := [] }) hst
  have hself := chan_setChan_self c.key d { s with out := [] }
  have hq' : (State.setChan c.key d { s with out := [] }).queueChan? t q = some c := hq
  rw [htries, show ((State.setChan c.key d { s with out := [] }).tread t).wait = .recv q n reg from hwait, tryWait_recv,
    tryRecv_covered hq' (hself.symm ▸ hcov), hself, takeWords, hself]
  rfl

theorem wordsArriveInOrder : Claims.WordsArriveInOrder := by
  intro c s hc d
  have hexec := (exec_wordDelivery c s).trans (perform_chanOk hc _ s)
  refine ⟨fun hx => gives_still hexec (wordArrival_blocked hx), fun w r t hx hd hw hst => ?_, fun w r t q n reg hx hd hw hst hwait hq hn _ => ?_,
    fun h => gives_still hexec (wordArrival_nothing h)⟩
  · have harr := wordArrival_arrives (s := { s with out := [] }) hx hd hw
    exact gives_setChan hexec (harr.trans (wakeTread_eq_self hst)) fun u hkeep honly hu => ⟨hkeep, honly, hu⟩
  · have harr : wordArrival c { s with out := [] } = wakeTread t (State.setChan c.key (arrived w r d) { s with out := [] }) :=
      wordArrival_arrives (s := { s with out := [] }) hx hd hw
    have hlen : n ≤ (arrived w r d).queue.length := by simpa [arrived] using hn
    have htake : ((d.queue ++ [w]).take n).length = n := List.length_take_of_le hlen
    obtain ⟨hin, -⟩ := s_foldl_setS reg ((d.queue ++ [w]).take n) 0 (s.tread t)
    refine gives_chanMoved hexec (harr.trans (wakeTread_receives hst hwait hq hlen)) fun u honly hchan hu htread =>
      ⟨honly, hchan, ?_, ?_, ?_, ?_, resumed_next htread (recvInto_scalar_only ..).pc (recvInto_scalar_only ..).beats, fun i hi hne => ?_⟩
    · rw [hu]
      rfl
    · rw [hu]
      rfl
    · rw [hu]
      rfl
    · rw [htread]
      rfl
    · have hi' := hin i (by omega) (by omega)
      rw [Nat.zero_add] at hi'
      rw [htread]
      exact (List.getElem?_take_of_lt hi).symm.trans hi'

/-! CREDIT_RETURN. -/

/-- The tread whose port a returned credit of a channel reaches. -/
def creditSource (c : Chan) (s : State) : Option Nat :=
  match c with
  | .route p i => (s.imageOf p).routes[i]?.bind fun e => s.routeSource p e
  | .knot _ _ => none

/-- Channel data after one credit has returned. -/
def credited (d : ChanData) : ChanData := { d with back := d.back - 1, credit := d.credit + 1 }

/-- What CREDIT_RETURN does. -/
def creditArrival (c : Chan) (s : State) : State :=
  if (s.chan c.key).back = 0 then s
  else
    let u := s.setChan c.key (credited (s.chan c.key))
    match c with
    | .route p i => match (u.imageOf p).routes[i]?.bind fun e => u.routeSource p e with
      | some t => wakeTread t u
      | none => u
    | .knot _ _ => u

theorem exec_creditReturn (c : Chan) (s : State) : exec (.creditReturn c) s = perform (chanOk c) (creditArrival c) s := rfl

theorem creditArrival_nothing {c : Chan} {s : State} (h : (s.chan c.key).back = 0) : creditArrival c s = s := if_pos h

/-- A returned credit wakes the tread at the port, if there is one. -/
theorem creditArrival_returns {c : Chan} {s : State} (h : (s.chan c.key).back ≠ 0) :
    creditArrival c s = match creditSource c s with
      | some t => wakeTread t (s.setChan c.key (credited (s.chan c.key)))
      | none => s.setChan c.key (credited (s.chan c.key)) := by
  rw [creditArrival, if_neg h]
  cases c <;> rfl

theorem creditArrival_quiet {c : Chan} {s : State} (h : (s.chan c.key).back ≠ 0) (hw : NoWaiter (creditSource c s) s) :
    creditArrival c s = s.setChan c.key (credited (s.chan c.key)) := by
  rw [creditArrival_returns h]
  cases hs : creditSource c s with
  | none => rfl
  | some t => exact wakeTread_eq_self (hw t hs)

theorem creditArrival_wakes {c : Chan} {t : Nat} {s : State} (h : (s.chan c.key).back ≠ 0) (hs : creditSource c s = some t) :
    creditArrival c s = wakeTread t (s.setChan c.key (credited (s.chan c.key))) := by
  rw [creditArrival_returns h, hs]

/-- A waiting send goes out as soon as the counter covers it. -/
theorem wakeTread_sends {k t port reg n p i : Nat} {e : Route} {d : ChanData} {s : State} (hst : (s.tread t).st = .wait)
    (hwait : (s.tread t).wait = .send port reg n) (hp : s.portRoute? t port = some (p, i, e)) (hk : (Chan.route p i).key = k)
    (hknot : (s.imageOf p).routeKnot? e = none) (hcov : (n : Int) ≤ d.credit) :
    let ws := (List.range n).map fun j => (s.tread t).s (reg + j)
    wakeTread t (State.setChan k d { s with out := [] })
      = chanMoved t k d { d with credit := d.credit - n, wire := d.wire ++ ws, sendMoved := true } (s.tread t) s := by
  intro ws
  subst hk
  have hself := chan_setChan_self (Chan.route p i).key d { s with out := [] }
  have htries := wakeTread_tries (s := State.setChan (Chan.route p i).key d { s with out := [] }) hst
  have hp' : (State.setChan (Chan.route p i).key d { s with out := [] }).portRoute? t port = some (p, i, e) := hp
  have hk' : otherTuple n (((State.setChan (Chan.route p i).key d { s with out := [] }).imageOf p).routeKnot? e) = false :=
    congrArg (otherTuple n) hknot
  have hws : (s.tread t).sendList (.send port reg n) = ws := by
    rw [Tread.sendList, upFrom_eq_map_range, List.map_map]
    rfl
  have hlen : ws.length = n := by simp [ws]
  rw [htries, show ((State.setChan (Chan.route p i).key d { s with out := [] }).tread t).wait = .send port reg n from hwait, tryWait_send,
    trySend_covered hp' hk' (hself.symm ▸ hcov), show ((State.setChan (Chan.route p i).key d { s with out := [] }).tread t) = s.tread t from rfl,
    hws, sendWords, hself, hlen]
  rfl

theorem creditsReturn : Claims.CreditsReturn := by
  intro c s hc d source
  have hexec := (exec_creditReturn c s).trans (perform_chanOk hc _ s)
  have hsource : source = creditSource c s := by cases c <;> rfl
  rw [hsource]
  refine ⟨fun hb hw => ?_, fun t port reg n p i e hb hs hst hwait hp hk hknot hcov => ?_,
    fun hb => gives_still hexec (creditArrival_nothing (s := { s with out := [] }) hb)⟩
  · have hf : creditArrival c { s with out := [] } = State.setChan c.key (credited d) { s with out := [] } :=
      creditArrival_quiet (s := { s with out := [] }) hb hw
    exact gives_setChan hexec hf fun u hkeep honly hu => ⟨hkeep, honly, hu⟩
  · have hf : creditArrival c { s with out := [] } = wakeTread t (State.setChan c.key (credited d) { s with out := [] }) :=
      creditArrival_wakes (s := { s with out := [] }) hb hs
    refine gives_chanMoved hexec (hf.trans (wakeTread_sends hst hwait hp hk hknot hcov)) fun u honly hchan hu _ => ⟨honly, hchan, ?_, ?_, ?_⟩ <;> rw [hu]
    · rfl
    · rfl
    · rfl

/-! ## Limits of channels (04 R139, R140, R158) -/

/-- The limit that a write gives the selected port. -/
def limitAsked (g value : Nat) (s : State) : Nat :=
  let x := s.selected g
  let l := min (bits value 0 5) 16
  match (s.portRoute? x.tread x.index).bind fun (p, _, e) => (s.imageOf p).routeKnot? e with
  | some (_, n) => min l (n.tuple + 1)
  | none => l

/-- Channel data with limit `l`: the counter moves by the difference. -/
def limited (l : Nat) (d : ChanData) : ChanData := { d with limit := l, credit := d.credit + ((l : Int) - (d.limit : Int)) }

/-- What names a port in a write of CHAN_LIMIT. -/
def NamesPort (g value : Nat) (s : State) : Prop :=
  (s.selected g).kind = 1 ∧ s.selValid g = true ∧ bits value 24 8 = s.get (Reg.CHAN_SEL_TICKET g)

theorem not_namesPort_iff (g value : Nat) (s : State) :
    (decide ((s.selected g).kind ≠ 1) || !s.selValid g || decide (bits value 24 8 ≠ s.get (Reg.CHAN_SEL_TICKET g))) = true
      ↔ ¬NamesPort g value s := by
  rw [Bool.or_eq_true, Bool.or_eq_true, decide_eq_true_iff, decide_eq_true_iff, Bool.not_eq_true', ← Bool.not_eq_true, ← not_and_or, ← not_and_or,
    and_assoc]
  rfl

theorem setChanLimit_sets {g value k : Nat} {s : State} (h : NamesPort g value s)
    (hk : s.portKey? (s.selected g).tread (s.selected g).index = some k) :
    setChanLimit g value s = wakeTread (s.selected g).tread (s.setChan k (limited (limitAsked g value s) (s.chan k))) := by
  refine (if_neg (mt (not_namesPort_iff g value s).1 (not_not.2 h))).trans ?_
  simp only [hk]
  rfl

theorem setChanLimit_ignored {g value : Nat} {s : State}
    (h : ¬NamesPort g value s ∨ s.portKey? (s.selected g).tread (s.selected g).index = none) : setChanLimit g value s = s := by
  by_cases hn : NamesPort g value s
  · refine (if_neg (mt (not_namesPort_iff g value s).1 (not_not.2 hn))).trans ?_
    simp only [h.resolve_left (not_not.2 hn)]
  · exact if_pos ((not_namesPort_iff g value s).2 hn)

theorem portKey?_of_portRoute? {t port p i : Nat} {e : Route} {s : State} (h : s.portRoute? t port = some (p, i, e)) :
    s.portKey? t port = some (Chan.route p i).key := by
  simp only [State.portKey?, h]

theorem limitAsked_route {g value p i : Nat} {e : Route} {s : State} (h : s.portRoute? (s.selected g).tread (s.selected g).index = some (p, i, e)) :
    ((s.imageOf p).routeKnot? e = none → limitAsked g value s = min (bits value 0 5) 16)
    ∧ ∀ j kc, (s.imageOf p).routeKnot? e = some (j, kc) → limitAsked g value s = min (min (bits value 0 5) 16) (kc.tuple + 1) := by
  refine ⟨fun hk => ?_, fun j kc hk => ?_⟩ <;> simp only [limitAsked, h, Option.bind_some, hk]

theorem limitAsked_bare {g value : Nat} {s : State} (h : s.portRoute? (s.selected g).tread (s.selected g).index = none) :
    limitAsked g value s = min (bits value 0 5) 16 := by
  simp only [limitAsked, h, Option.bind_none]

theorem channelLimits : Claims.ChannelLimits := by
  intro g value s hg x names
  have hexec : exec (.chanLimitWrite g value) s = perform true (setChanLimit g value.toNat) s :=
    perform_eq_of_effect (decide_eq_true hg) rfl
  have hsets : ∀ {k}, names → s.portKey? x.tread x.index = some k → (s.tread x.tread).st ≠ .wait →
      setChanLimit g value.toNat { s with out := [] }
        = State.setChan k (limited (limitAsked g value.toNat s) (s.chan k)) { s with out := [] } := fun hn hk hst =>
    (setChanLimit_sets (s := { s with out := [] }) hn hk).trans (wakeTread_eq_self hst)
  refine ⟨fun p i e hn hp hst => ?_, fun k hn hp hk hst => ?_, fun h => gives_still hexec (setChanLimit_ignored (s := { s with out := [] }) h)⟩
  · obtain ⟨hnone, hknot⟩ := limitAsked_route (value := value.toNat) hp
    exact gives_setChan hexec (hsets hn (portKey?_of_portRoute? hp) hst) fun u hkeep honly hu =>
      ⟨hkeep, honly, limitAsked g value.toNat s, hu, hnone, hknot⟩
  · have hbare := limitAsked_bare (value := value.toNat) hp
    exact gives_setChan hexec (hsets hn hk hst) fun u hkeep honly hu => ⟨hkeep, honly, hu.trans (by rw [hbare]; rfl)⟩

/-! ## The head that software reads (04 R157, 14 R502) -/

/-- The oldest word of the selected queue, or 0 where none stands. -/
def headWord (g : Nat) (s : State) : Nat :=
  let x := s.selected g
  if x.kind = 0 && s.selValid g then
    match s.queueChan? x.tread x.index with
    | some c => (lget 0 (s.chan c.key).queue 0).toNat
    | none => 0
  else 0

theorem readChanHead_eq (g : Nat) (s : State) :
    readChanHead g s = match if (s.selected g).kind ≠ 2 && treadOk (s.selected g).tread then s.flightPart (s.selected g).gf else none with
      | none => (headWord g s, s)
      | some p =>
        if !s.on Reg.DBG_STATUS_UNLOCKED then (0, s) else (headWord g s, debugAccess p false (Reg.CHAN_HEAD g).base 4 s) := rfl

/-- A selection that names no tread shows no word. -/
theorem headWord_of_no_tread {g : Nat} {s : State} (h : ((s.selected g).kind ≠ 2 && treadOk (s.selected g).tread) = false) : headWord g s = 0 := by
  rw [headWord]
  split
  case isTrue hsel =>
    rw [Bool.and_eq_true, decide_eq_true_iff] at hsel
    obtain ⟨hkind, hvalid⟩ := hsel
    simp [State.selValid, hkind] at hvalid
    simp [hkind, hvalid] at h
  case isFalse => rfl

theorem readChanHead_locked {g p : Nat} {s : State} (hp : s.flightPart (s.selected g).gf = some p) (hl : s.get Reg.DBG_STATUS_UNLOCKED ≠ 1) :
    readChanHead g s = (0, s) := by
  have hoff : s.on Reg.DBG_STATUS_UNLOCKED = false := Bool.eq_false_iff.2 (mt (on_iff _ _).1 hl)
  rw [readChanHead_eq]
  cases hsel : (s.selected g).kind ≠ 2 && treadOk (s.selected g).tread with
  | false => simp [headWord_of_no_tread hsel]
  | true => simp [hp, hoff]

theorem readChanHead_unlocked {g p : Nat} {c : Chan} {s : State} (hp : s.flightPart (s.selected g).gf = some p)
    (hu : s.get Reg.DBG_STATUS_UNLOCKED = 1) (hkind : (s.selected g).kind = 0) (hvalid : s.selValid g = true)
    (hc : s.queueChan? (s.selected g).tread (s.selected g).index = some c) :
    readChanHead g s = ((lget 0 (s.chan c.key).queue 0).toNat, debugAccess p false (Reg.CHAN_HEAD g).base 4 s) := by
  have hon : s.on Reg.DBG_STATUS_UNLOCKED = true := (on_iff _ _).2 hu
  have hok : treadOk (s.selected g).tread = true := by
    simp [State.selValid, hkind] at hvalid
    simp [hvalid]
  have hword : headWord g s = (lget 0 (s.chan c.key).queue 0).toNat := by simp [headWord, hkind, hvalid, hc]
  rw [readChanHead_eq, hword]
  simp [hkind, hok, hp, hon]

theorem debugAccess_keeps (p : Nat) (write : Bool) (addr len : Nat) (s : State) :
    KeepsBut [.regs, .seq, .rings, .journal, .sec, .det] s (debugAccess p write addr len s) := by
  apply keepsBut_of_veil
  apply debugAccess_frame <;> exact fun _ _ => rfl

/-- What CHAN_HEAD_READ does. -/
def headShown (g : Nat) (s : State) : State := (readChanHead g s).2.put (.value (readChanHead g s).1)

theorem exec_chanHeadRead (g : Nat) (s : State) : exec (.chanHeadRead g) s = perform (decide (g < 8)) (headShown g) s := rfl

theorem channelHeadReads : Claims.ChannelHeadReads := by
  intro g p s hg hp x
  have hexec : exec (.chanHeadRead g) s = perform true (headShown g) s := (exec_chanHeadRead g s).trans (by rw [decide_eq_true hg])
  refine ⟨fun hl => ?_, fun c hu hkind hvalid hc => ?_⟩
  · have hread := readChanHead_locked (s := { s with out := [] }) hp hl
    refine gives_value (t := State.put (.value 0) { s with out := [] }) hexec (by rw [headShown, hread]) rfl ⟨?_, rfl⟩
    exact keepsBut_out s _
  · have hread := readChanHead_unlocked (s := { s with out := [] }) hp hu hkind hvalid hc
    have hkeep := debugAccess_keeps p false (Reg.CHAN_HEAD g).base 4 { s with out := [] }
    refine gives_value (t := State.put (.value (lget 0 (s.chan c.key).queue 0).toNat)
      (debugAccess p false (Reg.CHAN_HEAD g).base 4 { s with out := [] })) hexec (by rw [headShown, hread]; rfl) (hkeep .pending (by decide))
      ⟨hkeep .chans (by decide), hkeep .treads (by decide), ?_⟩
    exact List.mem_append_right _ (List.mem_singleton_self _)

/-- Settles O23: words and credits move one by one, a limit moves the counter by the difference, and reading a head removes nothing. -/
theorem channelsConserve : Obligations.ChannelsConserve := ⟨wordsArriveInOrder, creditsReturn, channelLimits, channelHeadReads⟩
end Sys2Proof.Machine
end

section
/-!
PROOFS. The stall watchdog (04 R150 to R153, R161): what a scan counts, what it reports, and what it leaves.
-/
namespace Sys2Proof.Machine
open State Laws

/-! ## Scan counts (04 R150) -/

/-- Channel data after a scan that found its port and its queue waited on or not. -/
def scannedChan (send recv : Bool) (d : ChanData) : ChanData :=
  let a := scanSide send d.sendMoved d.sendScans d.sendSeen
  let b := scanSide recv d.recvMoved d.recvScans d.recvSeen
  { d with sendScans := a.1, sendSeen := a.2, sendMoved := false, recvScans := b.1, recvSeen := b.2, recvMoved := false }

/-- One channel's counts after a scan. -/
def scanChan (s : State) (c : Chan) : State :=
  s.setChan c.key (scannedChan (optWaits s (s.portRef? c)) (optWaits s (s.queueRef? c)) (s.chan c.key))

/-- One knot's counts after a scan. -/
def scanKnot (p : Nat) (s : State) (i : Nat) : State :=
  let d := s.knot (knotKey p i)
  let a := scanSide (s.knotWaits p i) d.moved d.scans d.seen
  s.setKnot (knotKey p i) { d with scans := a.1, seen := a.2, moved := false }

/-- Every channel's counts after a scan. -/
def scanChans (s : State) : State := s.chanList.foldl scanChan s

theorem scanCounts_eq (s : State) :
    scanCounts s = (scanChans s).loaded.foldl (fun s p => (upFrom 0 (s.imageOf p).knots.length).foldl (scanKnot p) s) (scanChans s) := rfl

/-- Words, credits and the limit of a channel are the same. -/
def SameTraffic (d d' : ChanData) : Prop :=
  d'.wire = d.wire ∧ d'.queue = d.queue ∧ d'.credit = d.credit ∧ d'.back = d.back ∧ d'.limit = d.limit

theorem SameTraffic.trans {a b c : ChanData} (h : SameTraffic a b) (h' : SameTraffic b c) : SameTraffic a c := by
  obtain ⟨h1, h2, h3, h4, h5⟩ := h
  obtain ⟨h1', h2', h3', h4', h5'⟩ := h'
  exact ⟨h1'.trans h1, h2'.trans h2, h3'.trans h3, h4'.trans h4, h5'.trans h5⟩

/-- The traffic of every channel is the same. -/
def TrafficSame (s u : State) : Prop := ∀ k, SameTraffic (s.chan k) (u.chan k)

theorem TrafficSame.refl (s : State) : TrafficSame s s := fun _ => ⟨rfl, rfl, rfl, rfl, rfl⟩

theorem TrafficSame.trans {s t u : State} (h : TrafficSame s t) (h' : TrafficSame t u) : TrafficSame s u := fun k => (h k).trans (h' k)

theorem trafficSame_of_chans {s u : State} (h : u.chans = s.chans) : TrafficSame s u := fun k => by
  rw [State.chan, State.chan, h]
  exact ⟨rfl, rfl, rfl, rfl, rfl⟩

theorem trafficSame_setChan {k : Nat} {d : ChanData} {s : State} (h : SameTraffic (s.chan k) d) : TrafficSame s (State.setChan k d s) := fun k' => by
  by_cases hk : k' = k
  · subst hk
    rwa [chan_setChan_self]
  · rw [chan_setChan_other hk]
    exact ⟨rfl, rfl, rfl, rfl, rfl⟩

theorem scanChan_trafficSame (s : State) (c : Chan) : TrafficSame s (scanChan s c) := trafficSame_setChan ⟨rfl, rfl, rfl, rfl, rfl⟩

theorem scanChans_trafficSame (s : State) : TrafficSame s (scanChans s) :=
  foldl_related TrafficSame.refl (fun _ _ _ => .trans) (fun s c _ => scanChan_trafficSame s c) s

theorem scanChans_chans (l : List Chan) (s : State) : ∃ x, l.foldl scanChan s = { s with chans := x } := by
  induction l generalizing s with
  | nil => exact ⟨s.chans, rfl⟩
  | cons c l ih =>
    obtain ⟨x, hx⟩ := ih (scanChan s c)
    exact ⟨x, hx⟩

theorem scanKnots_keeps (s : State) : KeepsBut [.knots] (scanChans s) (scanCounts s) :=
  foldl_keeps (fun _ _ _ => foldl_keeps (fun _ _ _ => keepsBut_knots _ _) _) _

theorem scanCounts_keeps (s : State) : KeepsBut [.chans, .knots] s (scanCounts s) := by
  obtain ⟨x, hx⟩ := scanChans_chans s.chanList s
  have hchans : KeepsBut [.chans] s (scanChans s) := (show scanChans s = _ from hx) ▸ keepsBut_chans s x
  exact (hchans.mono (by decide)).trans ((scanKnots_keeps s).mono (by decide))

theorem scanCounts_chan (s : State) (k : Nat) : (scanCounts s).chan k = (scanChans s).chan k := by
  rw [State.chan, State.chan, show (scanCounts s).chans = (scanChans s).chans from scanKnots_keeps s .chans (by decide)]

/-! The counts of a channel that is scanned once. -/

theorem foldl_scanChan_other {k : Nat} {l : List Chan} (h : k ∉ l.map Chan.key) (s : State) : (l.foldl scanChan s).chan k = s.chan k := by
  induction l generalizing s with
  | nil => rfl
  | cons c l ih =>
    obtain ⟨hne, hk⟩ := not_or.1 (mt List.mem_cons.2 h)
    exact (ih hk _).trans (chan_setChan_other hne _ s)

/-- Whether a tread waits on a channel does not depend on the channels' data. -/
theorem optWaits_chans (x : Tbl ChanData) (r : Option StallRef) (s : State) : optWaits { s with chans := x } r = optWaits s r := by
  match r with
  | none => rfl
  | some (.port _ _) => rfl
  | some (.queue _ _) => rfl
  | some (.knot _ _) => rfl

theorem portRef?_chans (x : Tbl ChanData) (c : Chan) (s : State) : State.portRef? { s with chans := x } c = s.portRef? c := by cases c <;> rfl

theorem queueRef?_chans (x : Tbl ChanData) (c : Chan) (s : State) : State.queueRef? { s with chans := x } c = s.queueRef? c := by cases c <;> rfl

/-- The counts that a scan gives channel `c`. -/
def countsOf (c : Chan) (s : State) : ChanData → ChanData := scannedChan (optWaits s (s.portRef? c)) (optWaits s (s.queueRef? c))

theorem countsOf_chans (x : Tbl ChanData) (c : Chan) (s : State) : countsOf c { s with chans := x } = countsOf c s := by
  rw [countsOf, portRef?_chans, queueRef?_chans, optWaits_chans, optWaits_chans]
  rfl

theorem foldl_scanChan_once {c : Chan} {l : List Chan} (hmem : c ∈ l) (hcount : (l.map Chan.key).count c.key = 1) (s : State) :
    (l.foldl scanChan s).chan c.key = countsOf c s (s.chan c.key) := by
  induction l generalizing s with
  | nil => cases hmem
  | cons b l ih =>
    rw [List.map_cons, List.count_cons] at hcount
    by_cases hb : b.key = c.key
    · have hrest : c.key ∉ l.map Chan.key := List.count_eq_zero.1 (by simpa [hb] using hcount)
      obtain rfl : c = b := (List.mem_cons.1 hmem).resolve_right fun hc => hrest (List.mem_map_of_mem hc)
      exact (foldl_scanChan_other hrest _).trans (chan_setChan_self _ _ s)
    · have hc : c ∈ l := (List.mem_cons.1 hmem).resolve_left fun h => hb (h ▸ rfl)
      rw [List.foldl_cons, ih hc (by simpa [hb] using hcount)]
      rw [show (scanChan s b).chan c.key = s.chan c.key from chan_setChan_other (Ne.symm hb) _ s]
      exact congrFun (countsOf_chans _ c s) _

/-! ## Reported chains (04 R151, R153) -/

/-- Channel data is the same but for the report marks. -/
def SameButSeen (d d' : ChanData) : Prop := ∃ a b, d' = { d with sendSeen := a, recvSeen := b }

/-- The report marks of channels alone may differ. -/
def OnlySeen (s u : State) : Prop := ∀ k, SameButSeen (s.chan k) (u.chan k)

theorem OnlySeen.refl (s : State) : OnlySeen s s := fun k => ⟨(s.chan k).sendSeen, (s.chan k).recvSeen, rfl⟩

theorem OnlySeen.trans {s t u : State} (h : OnlySeen s t) (h' : OnlySeen t u) : OnlySeen s u := fun k => by
  obtain ⟨a, b, hab⟩ := h k
  obtain ⟨c, d, hcd⟩ := h' k
  exact ⟨c, d, hcd.trans (by rw [hab])⟩

theorem onlySeen_of_chans {s u : State} (h : u.chans = s.chans) : OnlySeen s u := fun k => by
  rw [State.chan, State.chan, h]
  exact OnlySeen.refl s k

theorem onlySeen_setChan {k : Nat} {d : ChanData} {s : State} (h : SameButSeen (s.chan k) d) : OnlySeen s (State.setChan k d s) := fun k' => by
  by_cases hk : k' = k
  · subst hk
    rwa [chan_setChan_self]
  · rw [chan_setChan_other hk]
    exact OnlySeen.refl s k'

/-- A mark changes report marks alone, of a channel or a knot. -/
theorem markSeen_marks (r : StallRef) (s : State) : KeepsBut [.chans, .knots] s (markSeen r s) ∧ OnlySeen s (markSeen r s) := by
  have hsame : KeepsBut [.chans, .knots] s s ∧ OnlySeen s s := ⟨.refl _ s, .refl s⟩
  have hchan : ∀ (k : Nat) (d : ChanData), SameButSeen (s.chan k) d →
      KeepsBut [.chans, .knots] s (State.setChan k d s) ∧ OnlySeen s (State.setChan k d s) := fun k d hd =>
    ⟨(keepsBut_chans s _).mono (by decide), onlySeen_setChan hd⟩
  cases r with
  | port t i =>
    rw [markSeen]
    split
    · exact hchan _ _ ⟨true, _, rfl⟩
    · exact hsame
  | queue t i =>
    rw [markSeen]
    split
    · exact hchan _ _ ⟨_, true, rfl⟩
    · exact hsame
  | knot p i => exact ⟨(keepsBut_knots s _).mono (by decide), onlySeen_of_chans rfl⟩

/-- A chain was reported: the status bit and the record. -/
def ChainTold (u : State) : Prop := u.get Reg.STALL_STATUS_SEEN = 1 ∧ ∃ body, Recorded 0x0301 body u

/-- A report before its channels are marked. -/
def tellChain (r : StallRef) (s : State) : State :=
  let c := s.stallChain 8 r [] []
  let hdr := place (b2n c.2.2.1) 31 1 + place (b2n c.2.2.2) 30 1 + place (s.refPart r) 27 3 + c.2.1.length
  s |> raise Ev.stallSeen (partStamp (s.refPart r)) (hdr :: c.2.1) |> set Reg.STALL_STATUS_SEEN 1 |> bump Reg.STALL_COUNT_COUNT 1

theorem reportChain_eq (r : StallRef) (s : State) :
    reportChain r s = if s.isSeen r then s else (s.stallChain 8 r [] []).1.foldl (fun s q => markSeen q s) (tellChain r s) := rfl

theorem tellChain_keeps (r : StallRef) (s : State) : KeepsBut [.regs, .seq, .rings, .det] s (tellChain r s) :=
  ((raise_keeps _ _ _ s).trans ((keepsBut_set _ _ _).mono (by decide))).trans ((keepsBut_set _ _ _).mono (by decide))

theorem tellChain_tells (r : StallRef) (s : State) : ChainTold (tellChain r s) := by
  refine ⟨?_, _, recorded_congr (recorded_raise _ _ _ _) rfl⟩
  exact (get_set_other _ _ (by decide)).trans (get_set_self _ _ _)

theorem markSeen_fold (l : List StallRef) (s : State) :
    KeepsBut [.chans, .knots] s (l.foldl (fun s q => markSeen q s) s) ∧ OnlySeen s (l.foldl (fun s q => markSeen q s) s) :=
  ⟨foldl_keeps (fun s q _ => (markSeen_marks q s).1) s, foldl_related OnlySeen.refl (fun _ _ _ => .trans) (fun s q _ => (markSeen_marks q s).2) s⟩

theorem ChainTold.keeps {s u : State} (h : ChainTold s) (hk : KeepsBut [.chans, .knots] s u) : ChainTold u := by
  obtain ⟨hseen, body, hbody⟩ := h
  refine ⟨?_, body, recorded_congr hbody (hk .rings (by decide))⟩
  rw [State.get, show u.regs = s.regs from hk .regs (by decide)]
  exact hseen

theorem reportChain_tells {r : StallRef} {s : State} (h : s.isSeen r = false) : ChainTold (reportChain r s) := by
  rw [reportChain_eq, if_neg (by rw [h]; decide)]
  exact (tellChain_tells r s).keeps (markSeen_fold _ _).1

theorem reportChain_told {s : State} (h : ChainTold s) (r : StallRef) : ChainTold (reportChain r s) := by
  cases hs : s.isSeen r
  · exact reportChain_tells hs
  · rwa [reportChain_eq, if_pos hs]

theorem reportChain_keeps (r : StallRef) (s : State) :
    KeepsBut [.regs, .seq, .rings, .det, .chans, .knots] s (reportChain r s) ∧ OnlySeen s (reportChain r s) := by
  rw [reportChain_eq]
  split
  · exact ⟨.refl _ s, .refl s⟩
  · obtain ⟨hkeep, hseen⟩ := markSeen_fold (s.stallChain 8 r [] []).1 (tellChain r s)
    have htell := tellChain_keeps r s
    exact ⟨(htell.mono (by decide)).trans (hkeep.mono (by decide)), (onlySeen_of_chans (htell .chans (by decide))).trans hseen⟩

/-- Of the channels that a scan lists, one that is not reported yet makes a report. -/
theorem reportChains_tell {l : List StallRef} {r : StallRef} {s : State} (hr : r ∈ l) (hs : s.isSeen r = false) :
    ChainTold (l.foldl (fun s r => reportChain r s) s) := by
  induction l generalizing s with
  | nil => cases hr
  | cons q l ih =>
    rw [List.foldl_cons]
    cases hq : s.isSeen q with
    | false => exact foldl_preserves (P := ChainTold) (fun s y _ h => reportChain_told h y) (reportChain_tells hq)
    | true =>
      have hne : r ≠ q := fun h => by simp [h, hq] at hs
      rw [reportChain_eq, if_pos hq]
      exact ih ((List.mem_cons.1 hr).resolve_left hne) hs

/-! ## The scan and its control register (04 R150 to R152, R161) -/

/-- The scan of an enabled watchdog. -/
def scanned (s : State) : State := (scanCounts s).stalledList.foldl (fun s r => reportChain r s) (scanCounts s)

/-- What STALL_SCAN does. -/
def stallScan (s : State) : State := if !s.on Reg.STALL_CTRL_ENABLE then s else scanned s

theorem exec_stallScan (s : State) : exec .stallScan s = perform true stallScan s := rfl

theorem reportChains_keeps (l : List StallRef) (s : State) :
    KeepsBut [.regs, .seq, .rings, .det, .chans, .knots] s (l.foldl (fun s r => reportChain r s) s)
    ∧ OnlySeen s (l.foldl (fun s r => reportChain r s) s) :=
  ⟨foldl_keeps (fun s r _ => (reportChain_keeps r s).1) s, foldl_related OnlySeen.refl (fun _ _ _ => .trans) (fun s r _ => (reportChain_keeps r s).2) s⟩

theorem OnlySeen.trafficSame {s u : State} (h : OnlySeen s u) : TrafficSame s u := fun k => by
  obtain ⟨a, b, hab⟩ := h k
  rw [hab]
  exact ⟨rfl, rfl, rfl, rfl, rfl⟩

theorem scanned_keeps (s : State) : KeepsBut [.regs, .seq, .rings, .det, .chans, .knots] s (scanned s) :=
  ((scanCounts_keeps s).mono (by decide)).trans (reportChains_keeps _ _).1

theorem scanned_trafficSame (s : State) : TrafficSame s (scanned s) := by
  refine TrafficSame.trans (fun k => ?_) (reportChains_keeps _ (scanCounts s)).2.trafficSame
  rw [scanCounts_chan]
  exact scanChans_trafficSame s k

/-- The counts of a channel that is listed once. -/
theorem scanned_counts {c : Chan} {s : State} (hmem : c ∈ s.chanList) (hcount : (s.chanList.map Chan.key).count c.key = 1) :
    SameButSeen (countsOf c s (s.chan c.key)) ((scanned s).chan c.key) := by
  obtain ⟨a, b, hab⟩ := (reportChains_keeps (scanCounts s).stalledList (scanCounts s)).2 c.key
  rw [scanCounts_chan, show (scanChans s).chan c.key = _ from foldl_scanChan_once hmem hcount s] at hab
  exact ⟨a, b, hab⟩

/-- What a write of STALL_CTRL makes of its register. -/
def stallConfigured (v : Nat) (s : State) : State :=
  s |> set Reg.STALL_CTRL_ENABLE (bits v 31 1) |> set Reg.STALL_CTRL_SCANS (bits v 16 8) |> set Reg.STALL_CTRL_PERIOD_US (bits v 0 16)

theorem exec_stallCtrlWrite (value : W32) (s : State) : exec (.stallCtrlWrite value) s = perform true
    (whenUp fun s => if bit value.toNat 31 then stallConfigured value.toNat s else clearScans (stallConfigured value.toNat s)) s := rfl

theorem stallConfigured_keeps (v : Nat) (s : State) : KeepsBut [.regs] s (stallConfigured v s) :=
  ((keepsBut_set _ _ s).trans (keepsBut_set _ _ _)).trans (keepsBut_set _ _ _)

theorem stallConfigured_fields (v : Nat) (s : State) : (stallConfigured v s).get Reg.STALL_CTRL_ENABLE = bits v 31 1
    ∧ (stallConfigured v s).get Reg.STALL_CTRL_SCANS = bits v 16 8 ∧ (stallConfigured v s).get Reg.STALL_CTRL_PERIOD_US = bits v 0 16 := by
  refine ⟨?_, ?_, (get_set_self _ _ _).trans (bits_mod_width _ _ _)⟩
  · exact (get_set_other _ _ (by decide)).trans ((get_set_other _ _ (by decide)).trans ((get_set_self _ _ _).trans (bits_mod_width _ _ _)))
  · exact (get_set_other _ _ (by decide)).trans ((get_set_self _ _ _).trans (bits_mod_width _ _ _))

theorem clearScans_keeps (s : State) : KeepsBut [.chans, .knots] s (clearScans s) :=
  ((keepsBut_chans s _).mono (by decide)).trans ((keepsBut_knots _ _).mono (by decide))

theorem clearScans_chan (s : State) (k : Nat) : (clearScans s).chan k = { s.chan k with sendScans := 0, recvScans := 0 } :=
  tget_tmap (fun _ (d : ChanData) => { d with sendScans := 0, recvScans := 0 }) s.chans k rfl

theorem clearScans_knot (s : State) (k : Nat) : (clearScans s).knot k = { s.knot k with scans := 0 } :=
  tget_tmap (fun _ (d : Knot) => { d with scans := 0 }) s.knots k rfl

theorem clearScans_trafficSame (s : State) : TrafficSame s (clearScans s) := fun k => by
  rw [clearScans_chan]
  exact ⟨rfl, rfl, rfl, rfl, rfl⟩

theorem bit31_eq (value : W32) : bit value.toNat 31 = value.getLsbD 31 := bit_eq_testBit _ _

theorem stallScan_off {s : State} (h : s.get Reg.STALL_CTRL_ENABLE ≠ 1) : stallScan s = s := if_pos (by simpa [State.on] using h)

theorem stallScan_on {s : State} (h : s.get Reg.STALL_CTRL_ENABLE = 1) : stallScan s = scanned s := if_neg (by simpa [State.on] using h)

/-! A scan does not look at the ports. -/

theorem foldl_with_out {β : Type} {g : State → β → State} {o : List Out} (hg : ∀ s x, g { s with out := o } x = { g s x with out := o })
    (l : List β) (s : State) : l.foldl g { s with out := o } = { l.foldl g s with out := o } := by
  induction l generalizing s with
  | nil => rfl
  | cons x l ih => rw [List.foldl_cons, hg, ih, List.foldl_cons]

theorem scanChan_with_out (o : List Out) (s : State) (c : Chan) : scanChan { s with out := o } c = { scanChan s c with out := o } := rfl

theorem scanKnot_with_out (o : List Out) (p : Nat) (s : State) (i : Nat) : scanKnot p { s with out := o } i = { scanKnot p s i with out := o } := rfl

theorem scanCounts_with_out (o : List Out) (s : State) : scanCounts { s with out := o } = { scanCounts s with out := o } := by
  have hchans : scanChans { s with out := o } = { scanChans s with out := o } := foldl_with_out (scanChan_with_out o) s.chanList s
  rw [scanCounts_eq, scanCounts_eq, hchans]
  exact foldl_with_out (g := fun s p => (upFrom 0 (s.imageOf p).knots.length).foldl (scanKnot p) s)
    (fun s p => foldl_with_out (scanKnot_with_out o p) (upFrom 0 (s.imageOf p).knots.length) s) (scanChans s).loaded (scanChans s)

theorem stalledList_with_out (o : List Out) (s : State) : State.stalledList { s with out := o } = s.stalledList := rfl

theorem isSeen_with_out (o : List Out) (s : State) (r : StallRef) : State.isSeen { s with out := o } r = s.isSeen r := rfl

/-- A chain that is stalled and not reported yet is reported by the scan. -/
theorem scanned_tells {o : List Out} {r : StallRef} {s : State} (hr : r ∈ (scanCounts s).stalledList) (hs : (scanCounts s).isSeen r = false) :
    ChainTold (scanned { s with out := o }) := by
  rw [scanned, scanCounts_with_out, stalledList_with_out]
  exact reportChains_tell hr ((isSeen_with_out o _ r).trans hs)

/-- Settles O24: a scan moves the counts alone, the first channel not yet reported makes a report, and a write of ENABLE 0 clears the counts. -/
theorem stallWatchdog : Obligations.StallWatchdog := by
  intro s onlyCounts
  refine ⟨fun hen => ?_, fun hen => gives_still (exec_stallScan s) (stallScan_off (s := { s with out := [] }) hen), fun value hup => ?_⟩
  · have hf : stallScan { s with out := [] } = scanned { s with out := [] } := stallScan_on (s := { s with out := [] }) hen
    have hkeep := scanned_keeps { s with out := [] }
    refine gives_value (exec_stallScan s) hf (hkeep .pending (by decide))
      ⟨⟨hkeep .treads (by decide), hkeep .mem (by decide), scanned_trafficSame { s with out := [] }⟩, fun c hcount hmem => ?_, fun h => ?_⟩
    · obtain ⟨a, b, hab⟩ := scanned_counts (s := { s with out := [] }) hmem hcount
      rw [hab]
      exact ⟨rfl, rfl, rfl, rfl⟩
    · obtain ⟨r, hr, hs⟩ := h
      exact scanned_tells hr hs
  · have hwhen : ∀ f : State → State, whenUp f { s with out := [] } = f { s with out := [] } := fun f => if_neg (by simpa using hup)
    have hcfg := stallConfigured_keeps value.toNat { s with out := [] }
    obtain ⟨henable, hscans, hperiod⟩ := stallConfigured_fields value.toNat { s with out := [] }
    have hchans : TrafficSame s (stallConfigured value.toNat { s with out := [] }) := trafficSame_of_chans rfl
    cases hbit : value.getLsbD 31 with
    | true =>
      refine gives_value (exec_stallCtrlWrite value s) ((hwhen _).trans (if_pos (by rwa [bit31_eq]))) rfl ⟨hcfg.with_out.mono (by decide),
        ⟨rfl, rfl, hchans⟩, henable, hscans, hperiod, nofun, fun _ => ⟨rfl, rfl⟩⟩
    | false =>
      have hclear := clearScans_keeps (stallConfigured value.toNat { s with out := [] })
      have hkeep : KeepsBut [.regs, .chans, .knots] { s with out := [] } (clearScans (stallConfigured value.toNat { s with out := [] })) :=
        (hcfg.mono (by decide)).trans (hclear.mono (by decide))
      refine gives_value (exec_stallCtrlWrite value s) ((hwhen _).trans (if_neg (by rw [bit31_eq, hbit]; decide))) rfl
        ⟨hkeep.with_out.mono (by decide),
          ⟨rfl, rfl, hchans.trans (clearScans_trafficSame _)⟩, henable, hscans, hperiod, fun _ k => ?_, nofun⟩
      rw [clearScans_chan, clearScans_knot]
      exact ⟨rfl, rfl, rfl⟩
end Sys2Proof.Machine
end

section
/-!
PROOFS. Detected faults and fences (04 R146, R147, 05 R197, 13 R462, 15 R513).
-/
namespace Sys2Proof.Machine
open State Laws

/-! ## A cause of a rewind (13 R462, R463) -/

@[simp] theorem svc_setSvc_self (p : Nat) (v : Svc) (s : State) : (State.setSvc p v s).svc p = v := tget_tset_self _ _ _

/-- The service of `p` is the same but for its interruption. -/
def OutageMoves (p : Nat) (s u : State) : Prop := u.svc p = { s.svc p with outage := (u.svc p).outage }

theorem outageMoves_of_svcs {p : Nat} {s u : State} (h : u.svcs = s.svcs) : OutageMoves p s u := by
  have hp : u.svc p = s.svc p := by rw [State.svc, State.svc, h]
  rw [OutageMoves, hp]

theorem OutageMoves.trans {p : Nat} {s t u : State} (h : OutageMoves p s t) (h' : OutageMoves p t u) : OutageMoves p s u := by
  rw [OutageMoves] at *
  rw [h', h]

theorem beginOutage_outageMoves (p : Nat) (own : Bool) (s : State) : OutageMoves p s (beginOutage p own s) := by
  rw [OutageMoves, beginOutage]
  split
  · rfl
  · rw [svc_setSvc_self]

theorem toParent_keeps (p kind : Nat) (m : TreeMsg) (s : State) : KeepsBut [.out, .ropes] s (toParent p kind m s) := by
  apply keepsBut_of_veil
  apply toParent_frame <;> exact fun _ _ => rfl

theorem toChildren_keeps (p kind : Nat) (m : TreeMsg) (s : State) : KeepsBut [.out, .ropes] s (toChildren p kind m s) := by
  apply keepsBut_of_veil
  apply toChildren_frame <;> exact fun _ _ => rfl

theorem notifyStep_keeps (p b : Nat) (s : State) : KeepsBut [.regs, .out] s (notifyStep p b s) := by
  apply keepsBut_of_veil
  apply notifyStep_frame <;> exact fun _ _ => rfl

theorem beginOutage_keeps (p : Nat) (own : Bool) (s : State) : KeepsBut [.svcs] s (beginOutage p own s) :=
  keepsBut_of_veil (beginOutage_frame (fun _ _ => rfl) p own s)

theorem setSvcState_svc (p : Nat) (st : SvcState) (s : State) : (setSvcState p st s).svc p = { s.svc p with state := st } := svc_setSvc_self p _ s

/-- A package that has taken up a rewind order. -/
theorem orderShown_rewind (p target cause epoch : Nat) (s : State) :
    ((orderShown p .rewind target cause epoch s).svc p).state = .rewinding
    ∧ ∃ o, ((orderShown p .rewind target cause epoch s).svc p).order = some o ∧ o.kind = .rewind ∧ o.target = target ∧ o.cause = cause := by
  let u := orderTaken p .rewind target cause epoch (beginOutage p false (toChildren p Tree.rewind (orderMsg s p actRewind target cause epoch) s))
  have hsvcs : (orderShown p .rewind target cause epoch s).svcs = (setSvcState p .rewinding u).svcs := notifyStep_keeps _ _ _ .svcs (by decide)
  have hsvc : (orderShown p .rewind target cause epoch s).svc p = { u.svc p with state := .rewinding } := by
    rw [State.svc, hsvcs]
    exact setSvcState_svc p .rewinding u
  have horder : ∃ o, (u.svc p).order = some o ∧ o.kind = .rewind ∧ o.target = target ∧ o.cause = cause := by
    rw [show u.svc p = _ from svc_setSvc_self p _ _]
    exact ⟨_, rfl, rfl, rfl, rfl⟩
  rw [hsvc]
  exact ⟨rfl, horder⟩

/-- The root's own request of a rewind. -/
theorem rootRequest_rewind {p cause : Nat} {s : State} (ho : (s.svc p).order = none) (hh : (s.svc p).state ≠ .halted) :
    rootRequest p actRewind cause s
      = beginWindDown p (orderShown p .rewind ((s.svc p).decided + 1) cause (nextEpoch s p) s) := by
  have hne : ((s.svc p).state == .halted) = false := by simpa using hh
  rw [rootRequest]
  simp only [ho, hne]
  rfl

/-- A cause as it is recorded here. -/
def causeNoted (p act cause : Nat) (s : State) : State :=
  let u := s.set (Reg.STEP_STATUS_CAUSE p) cause
  if act == actHalt || ((s.svc p).state == .halted && cause != Why.software) then u else beginOutage p true u

theorem findCause_eq (p act cause : Nat) (s : State) : findCause p act cause s =
    if (s.svc p).state == .idle || (s.svc p).state == .joining || (s.svc p).state == .treeError then s
    else if (causeNoted p act cause s).isRoot p then rootRequest p act cause (causeNoted p act cause s)
    else toParent p Tree.rewind ⟨((causeNoted p act cause s).imageOf p).jobId, 0, cause, 0, act, 0⟩ (causeNoted p act cause s) := rfl

theorem causeNoted_after (p act cause : Nat) (s : State) :
    OutageMoves p s (causeNoted p act cause s) ∧ (causeNoted p act cause s).isRoot p = s.isRoot p
    ∧ (causeNoted p act cause s).get (Reg.STEP_STATUS_CAUSE p) = cause % 2 ^ 4 := by
  have hset := get_set_self (Reg.STEP_STATUS_CAUSE p) cause s
  have hroot : (s.set (Reg.STEP_STATUS_CAUSE p) cause).isRoot p = s.isRoot p :=
    congrArg (· == 1) (get_set_other cause s (by simp only [Fld.key, Reg.TREE_CFG_ROOT, Reg.STEP_STATUS_CAUSE]; omega))
  rw [causeNoted]
  split
  · exact ⟨outageMoves_of_svcs rfl, hroot, hset⟩
  · have hkeep := beginOutage_keeps p true (s.set (Reg.STEP_STATUS_CAUSE p) cause)
    have hget : ∀ f, (beginOutage p true (s.set (Reg.STEP_STATUS_CAUSE p) cause)).get f = (s.set (Reg.STEP_STATUS_CAUSE p) cause).get f := fun f => by
      rw [State.get, hkeep .regs (by decide)]
      rfl
    exact ⟨(outageMoves_of_svcs (s := s) rfl).trans (beginOutage_outageMoves p true _), (congrArg (· == 1) (hget _)).trans hroot, (hget _).trans hset⟩

/-- A cause that asks for a rewind makes the job rewind. -/
theorem findCause_rewinds (p : Nat) {cause : Nat} (hc : cause < 16) (s : State) : JobRewinds p cause s (findCause p actRewind cause s) := by
  intro _ hidle hjoin htree
  have hruns : ((s.svc p).state == .idle || (s.svc p).state == .joining || (s.svc p).state == .treeError) = false := by
    simp [hidle, hjoin, htree]
  obtain ⟨hsvc, hroot, hcause⟩ := causeNoted_after p actRewind cause s
  have hv : (causeNoted p actRewind cause s).svc p = { s.svc p with outage := ((causeNoted p actRewind cause s).svc p).outage } := hsvc
  rw [findCause_eq, if_neg (by rw [hruns]; decide), hroot]
  refine ⟨fun ho hr hh => ?_, fun hr => ?_⟩
  · have ho' : ((causeNoted p actRewind cause s).svc p).order = none := by rw [hv]; exact ho
    have hh' : ((causeNoted p actRewind cause s).svc p).state ≠ .halted := by rw [hv]; exact hh
    have hd : ((causeNoted p actRewind cause s).svc p).decided = (s.svc p).decided := by rw [hv]
    obtain ⟨hkeep, hwind, -⟩ := beginWindDown_rig p
      (orderShown p .rewind (((causeNoted p actRewind cause s).svc p).decided + 1) cause (nextEpoch (causeNoted p actRewind cause s) p)
        (causeNoted p actRewind cause s))
    rw [if_pos hr, rootRequest_rewind ho' hh', State.svc, hkeep .svcs (by decide)]
    obtain ⟨hstate, horder⟩ := orderShown_rewind p (((causeNoted p actRewind cause s).svc p).decided + 1) cause
      (nextEpoch (causeNoted p actRewind cause s) p) (causeNoted p actRewind cause s)
    rw [← hd]
    exact ⟨hstate, hwind, horder⟩
  · have hkeep := toParent_keeps p Tree.rewind ⟨((causeNoted p actRewind cause s).imageOf p).jobId, 0, cause, 0, actRewind, 0⟩
      (causeNoted p actRewind cause s)
    rw [if_neg (by rw [hr]; decide), State.get, State.svc, hkeep .regs (by decide), hkeep .svcs (by decide)]
    exact ⟨hcause.trans (Nat.mod_eq_of_lt hc), hsvc⟩

/-- A rewind counts from any earlier state in which the job stood as it did. -/
theorem JobRewinds.of_start {p cause : Nat} {s t u : State} (h : JobRewinds p cause t u) (hsvc : t.svc p = s.svc p)
    (hroot : p < 8 → t.isRoot p = s.isRoot p) : JobRewinds p cause s u := by
  intro hp
  have h' := h hp
  rw [hsvc, hroot hp] at h'
  exact h'

/-! ## What follows a fence (04 R146) -/

section
variable {Q : State → State → Prop} (hQ : LossesKeep Q)
include hQ

theorem LossesKeep.showCapacity (s : State) : Q s (showCapacity s) :=
  hQ.trans _ _ _ (hQ.set _ _ s (by unfold isTopField; decide)) (hQ.set _ _ _ (by unfold isTopField; decide))

theorem LossesKeep.journalFences (s : State) : Q s (journalFences s) := hQ.hits.journalWrite 2 0 _ s

theorem LossesKeep.afterFence (gf : Nat) (s : State) : Q s (afterFence gf s) := by
  unfold Machine.afterFence
  split
  · exact ite_related (hQ.trans _ _ _ (hQ.findCause _ _ _ s) (hQ.journalFences _)) (hQ.findCause _ _ _ s)
  · exact hQ.trans _ _ _ (hQ.showCapacity s) (hQ.journalFences _)

end

/-- The job that runs on a fenced flight rewinds. -/
theorem afterFence_rewinds {gf p role : Nat} {s : State} (h : s.fencePart gf = some (p, role)) : JobRewinds p 0x1 s (afterFence gf s) := by
  intro hp hidle hjoin htree
  have hruns : ((s.svc p).state == .idle || (s.svc p).state == .joining || (s.svc p).state == .treeError) = false := by
    simp [hidle, hjoin, htree]
  have hafter : afterFence gf s = findCause p actRewind Why.fence s := by
    simp only [afterFence, h, hruns]
    rfl
  rw [hafter]
  exact findCause_rewinds p (by decide) s hp hidle hjoin htree

theorem RigsWind.rerigs {s u : State} (h : RigsWind s u) (p : Nat) : (u.rig p).rerigs = (s.rig p).rerigs := by
  obtain ⟨w, t, hw⟩ := h p
  rw [hw]

theorem afterFence_rerigs (gf : Nat) (s : State) (p : Nat) : ((afterFence gf s).rig p).rerigs = (s.rig p).rerigs :=
  (lossesKeep_winds.afterFence gf s).rerigs p

/-- The re-rigs of a partition that have not begun. -/
def waitingRerigs (p : Nat) (s : State) : List Rerig := if (s.rig p).rerigStart = 0 then (s.rig p).rerigs else (s.rig p).rerigs.drop 1

/-- A re-rig is asked for once. -/
def Queued (p : Nat) (x : Rerig) (s u : State) : Prop :=
  ((∃ y ∈ waitingRerigs p s, y.covers x = true) → (u.rig p).rerigs = (s.rig p).rerigs)
  ∧ ((∀ y ∈ waitingRerigs p s, y.covers x = false) → (u.rig p).rerigs = (s.rig p).rerigs ++ [x])

theorem queueRerig_eq (p : Nat) (x : Rerig) (s : State) : queueRerig p x s =
    if (waitingRerigs p s).any fun y => y.covers x then s else s.setRig p { s.rig p with rerigs := (s.rig p).rerigs ++ [x] } := rfl

theorem queueRerig_queued (p : Nat) (x : Rerig) (s : State) : Queued p x s (queueRerig p x s) := by
  rw [queueRerig_eq]
  refine ⟨fun h => ?_, fun h => ?_⟩
  · rw [if_pos (List.any_eq_true.2 h)]
  · rw [if_neg (by simpa using h), rig_setRig_self]

theorem Queued.of_rerigs {p : Nat} {x : Rerig} {s t u v : State} (h : Queued p x t u) (hs : t.rig p = s.rig p)
    (hv : (v.rig p).rerigs = (u.rig p).rerigs) : Queued p x s v := by
  rw [Queued, hv]
  rw [Queued, waitingRerigs, hs] at h
  exact h

/-! ## A flight fenced (04 R146, 05 R197, 15 R513) -/

theorem endInjectionAt_unarmed {s : State} (h : s.det.armed = none) (gf : Nat) (t : Option Nat) : endInjectionAt gf t s = s := by
  rw [endInjectionAt, h]

theorem keepsBut_fence (s : State) (x : Fence) : KeepsBut [.fence] s { s with fence := x } := by
  intro a ha
  cases a <;> simp [Area.same] at ha ⊢

/-- A flight taken out of service while no injection is armed, before what follows the fence. -/
def flightOut (gf : Nat) (inj : Bool) (s : State) : State := markFlight gf inj s |> flightOff gf

theorem flightOut_keeps (gf : Nat) (inj : Bool) (s : State) : KeepsBut [.fence, .regs, .power, .treads, .flights] s (flightOut gf inj s) := by
  have hmark : KeepsBut [.fence] s (markFlight gf inj s) := keepsBut_fence s _
  exact (hmark.mono (by decide)).trans ((flightOff_keeps gf _).mono (by decide))

theorem fenceFlight_unarmed {gf : Nat} {inj : Bool} {s : State} (hf : s.flightFenced gf = false) (ha : s.det.armed = none) :
    fenceFlight gf inj s = afterFence gf (showFenced gf (rerigFenced gf (flightOut gf inj s))) := by
  have ha' : (flightOut gf inj s).det.armed = none := by rw [flightOut_keeps gf inj s .det (by decide)]; exact ha
  rw [fenceFlight_eq, if_neg (by simp [hf])]
  exact congrArg (fun u => afterFence gf (showFenced gf (rerigFenced gf u))) (endInjectionAt_unarmed ha' gf none)

/-- Images, placements, services and roots are the same. -/
structure SameJobs (s t : State) : Prop where
  roles : SameRoles s t
  svcs : t.svcs = s.svcs
  root : ∀ p, p < 8 → t.isRoot p = s.isRoot p

theorem SameJobs.trans {s t u : State} (h : SameJobs s t) (h' : SameJobs t u) : SameJobs s u :=
  ⟨h.roles.trans h'.roles, h'.svcs.trans h.svcs, fun p hp => (h'.root p hp).trans (h.root p hp)⟩

theorem isRoot_of_get {s t : State} {p : Nat} (h : t.get (Reg.TREE_CFG_ROOT p) = s.get (Reg.TREE_CFG_ROOT p)) : t.isRoot p = s.isRoot p :=
  congrArg (· == 1) h

theorem isRoot_of_writes {s t : State} (h : Writes (fun k => ¬isTopField k) s t) (p : Nat) (_ : p < 8) : t.isRoot p = s.isRoot p :=
  isRoot_of_get (h _ (not_not.2 (.inr (by simp only [Fld.key, Reg.TREE_CFG_ROOT]; omega))))

theorem sameRoles_of_rigs {s t : State} (h : t.rigs = s.rigs) : SameRoles s t := (RigsWind.of_rigs h).sameRoles

theorem sameJobs_of_keeps {l : List Area} {s t : State} (h : KeepsBut l s t) (hl : .regs ∉ l ∧ .rigs ∉ l ∧ .svcs ∉ l) : SameJobs s t := by
  obtain ⟨hregs, hrigs, hsvcs⟩ := hl
  exact ⟨sameRoles_of_rigs (h .rigs hrigs), h .svcs hsvcs, isRoot_of_writes (h.writes hregs _)⟩

theorem raise_sameJobs (code : Nat) (st : Stamp) (body : List Nat) (s : State) : SameJobs s (raise code st body s) :=
  ⟨sameRoles_of_rigs (raise_keeps _ _ _ s .rigs (by decide)), raise_keeps _ _ _ s .svcs (by decide),
    isRoot_of_writes (lossesKeep_writes.raise code st body s)⟩

theorem queueRerig_sameJobs (p : Nat) (x : Rerig) (s : State) : SameJobs s (queueRerig p x s) := by
  have hkeep := queueRerig_keeps p x s
  refine ⟨?_, hkeep .svcs (by decide), isRoot_of_writes (hkeep.writes (by decide) _)⟩
  rw [queueRerig_eq]
  split
  · exact sameRoles_of_rigs rfl
  · exact .of_rig (p := p) (by rw [rig_setRig_self]) (by rw [rig_setRig_self]) (by rw [rig_setRig_self]) (otherRigs_setRig p _ s)

theorem flightOut_sameJobs {gf : Nat} (hgf : gf < 1184) (inj : Bool) (s : State) : SameJobs s (flightOut gf inj s) := by
  have hkeep := flightOut_keeps gf inj s
  refine ⟨sameRoles_of_rigs (hkeep .rigs (by decide)), hkeep .svcs (by decide), fun p hp => isRoot_of_get ?_⟩
  refine flightOff_writes gf (markFlight gf inj s) _ ?_
  simp only [isFlightField, Fld.key, Reg.TREE_CFG_ROOT]
  omega

theorem showFenced_writes (gf : Nat) (s : State) : Writes (fun k => ¬isTopField k) s (showFenced gf s) := by
  unfold showFenced
  split
  · exact showRoles_writes _ s
  · exact .refl _ s

theorem showFenced_sameJobs (gf : Nat) (s : State) : SameJobs s (showFenced gf s) :=
  ⟨sameRoles_of_rigs (showFenced_keeps gf s .rigs (by decide)), showFenced_keeps gf s .svcs (by decide),
    isRoot_of_writes (showFenced_writes gf s)⟩

theorem rerigFenced_sameJobs (gf : Nat) (s : State) : SameJobs s (rerigFenced gf s) := by
  unfold rerigFenced
  split
  · exact queueRerig_sameJobs _ _ s
  · exact sameJobs_of_keeps (.refl [] s) (by decide)

theorem SameJobs.fencePart {s t : State} (h : SameJobs s t) (gf : Nat) : t.fencePart gf = s.fencePart gf := by
  rw [State.fencePart, State.fencePart, h.roles.flightRole?]

/-- The job on a fenced flight rewinds. -/
def FenceRewinds (f : Nat) (s u : State) : Prop := ∀ p role, s.fencePart f = some (p, role) → JobRewinds p 0x1 s u

theorem SameJobs.rewinds {s t : State} (h : SameJobs s t) {gf : Nat} {u : State} (hu : FenceRewinds gf t u) : FenceRewinds gf s u :=
  fun p role hp => (hu p role ((h.fencePart gf).trans hp)).of_start (by rw [State.svc, h.svcs]; rfl) (h.root p)

theorem afterFence_fenceRewinds (gf : Nat) (s : State) : FenceRewinds gf s (afterFence gf s) := fun _ _ hp => afterFence_rewinds hp

/-- A flight has been fenced. -/
def FlightGone (f : Nat) (s u : State) : Prop :=
  u.flightFenced f = true ∧ FlightsBut [f] s u ∧ u.flight f = Flight.init
  ∧ u.get (Reg.DOMAIN_STATE_STATE f) = 3 ∧ f ∉ u.power.admitted ∧ (∀ x, x ≠ f → u.flightFenced x = s.flightFenced x)
  ∧ (∀ p role, s.fencePart f = some (p, role) → Queued p (.role role f) s u) ∧ FenceRewinds f s u

/-- A fence counts from any earlier state with the same flights, riggings and jobs. -/
theorem FlightGone.of_start {f : Nat} {s t u : State} (h : FlightGone f t u) (hjobs : SameJobs s t) (hflights : t.flights = s.flights)
    (hrigs : t.rigs = s.rigs) (hfence : ∀ x, t.flightFenced x = s.flightFenced x) : FlightGone f s u := by
  obtain ⟨hf, hbut, hinit, hstate, hadm, hothers, hqueue, hrewind⟩ := h
  refine ⟨hf, fun g hg => (hbut g hg).trans ?_, hinit, hstate, hadm, fun x hx => (hothers x hx).trans (hfence x),
    fun p role hp => (hqueue p role ((hjobs.fencePart f).trans hp)).of_rerigs ?_ rfl, hjobs.rewinds hrewind⟩
  · rw [State.flight, hflights]
    rfl
  · rw [State.rig, hrigs]
    rfl

theorem rerigFenced_queued {gf p role : Nat} {s : State} (h : s.fencePart gf = some (p, role)) :
    Queued p (.role role gf) s (rerigFenced gf s) := by
  rw [rerigFenced]
  simp only [h]
  exact queueRerig_queued p (.role role gf) s

theorem fenceFlight_after {gf : Nat} {inj : Bool} {s : State} (hf : s.flightFenced gf = false) (ha : s.det.armed = none) :
    KeepsBut [.rigs, .regs, .out, .ropes, .svcs, .journal] (flightOut gf inj s) (fenceFlight gf inj s) := by
  rw [fenceFlight_unarmed hf ha]
  exact ((rerigFenced_keeps gf _).mono (by decide)).trans (((showFenced_keeps gf _).mono (by decide)).trans
    ((afterFence_keeps gf _).mono (by decide)))

/-- What the fence of a flight that is not fenced yet changes while no injection is armed. -/
theorem fenceFlight_keeps_unarmed {gf : Nat} {inj : Bool} {s : State} (hf : s.flightFenced gf = false) (ha : s.det.armed = none) :
    KeepsBut [.fence, .regs, .power, .treads, .flights, .rigs, .out, .ropes, .svcs, .journal] s (fenceFlight gf inj s) :=
  ((flightOut_keeps gf inj s).mono (by decide)).trans ((fenceFlight_after hf ha).mono (by decide))

theorem fenceFlight_gone {gf : Nat} {inj : Bool} {s : State} (hgf : gf < 1184) (hf : s.flightFenced gf = false) (ha : s.det.armed = none) :
    FlightGone gf s (fenceFlight gf inj s) := by
  have hout := flightOut_keeps gf inj s
  have hjobs₁ := flightOut_sameJobs hgf inj s
  have hjobs₂ := hjobs₁.trans (rerigFenced_sameJobs gf _)
  have hjobs₃ := hjobs₂.trans (showFenced_sameJobs gf _)
  have hlater := fenceFlight_after (inj := inj) hf ha
  have hflight : ∀ g, (fenceFlight gf inj s).flight g = (flightOut gf inj s).flight g := fun g => by
    rw [State.flight, hlater .flights (by decide)]
    rfl
  refine ⟨fenceFlight_self gf inj s, fun g hg => (hflight g).trans (flightOff_flight_other (by simpa using hg) _),
    (hflight gf).trans (flightOff_flight gf _), ?_, ?_, fun x hx => ?_, fun p role hp => ?_, ?_⟩
  · have hw : Writes (fun k => ¬isTopField k) (flightOut gf inj s) (fenceFlight gf inj s) := by
      rw [fenceFlight_unarmed hf ha]
      exact ((rerigFenced_keeps gf _).writes (by decide) _).trans ((showFenced_writes gf _).trans (lossesKeep_writes.afterFence gf _))
    exact (hw _ (not_not.2 (.inl (by simp only [Fld.key, Reg.DOMAIN_STATE_STATE]; omega)))).trans (flightOff_state gf _)
  · rw [hlater .power (by decide), show (flightOut gf inj s).power = _ from flightOff_power gf _]
    simp
  · rw [flightFenced_congr (fenceFlight_fence hf inj)]
    exact markFlight_other hx inj s
  · have hqueued := rerigFenced_queued ((hjobs₁.fencePart gf).trans hp)
    rw [fenceFlight_unarmed hf ha]
    refine hqueued.of_rerigs ?_ ((afterFence_rerigs gf _ p).trans ?_)
    · rw [State.rig, hout .rigs (by decide)]
      rfl
    · rw [State.rig, showFenced_keeps gf _ .rigs (by decide)]
      rfl
  · rw [fenceFlight_unarmed hf ha]
    exact hjobs₃.rewinds (afterFence_fenceRewinds gf _)

/-! ## A tread fenced (04 R146, R147) -/

theorem rowFenced_iff (gf row : Nat) (s : State) : s.rowFenced gf row = true ↔ ∃ c, c < 17 ∧ s.treadFenced (treadId gf row c) = true := by
  simp only [State.rowFenced, List.any_eq_true, mem_upFrom]
  exact exists_congr fun c => and_congr_left fun _ => ⟨fun h => by omega, fun h => by omega⟩

theorem treadGf_lt {t : Nat} (h : treadOk t = true) : treadGf t < 1184 := by
  simp only [treadOk, Bool.and_eq_true, decide_eq_true_eq] at h
  have hg := bits_lt t 17 3
  rw [treadGf]
  omega

/-! Treads of a flight taken to OFF. -/

theorem foldl_offTread_fenced {t : Nat} {l : List Nat} {s : State} (ht : s.treadFenced t = true) (h : t ∈ l ∨ (s.tread t).st = .fenced) :
    ((l.foldl (fun s t => s.setTread t (s.offTread t)) s).tread t).st = .fenced := by
  induction l generalizing s with
  | nil => exact h.resolve_left List.not_mem_nil
  | cons x l ih =>
    refine ih (s := s.setTread x (s.offTread x)) ht ?_
    by_cases hx : t = x
    · subst hx
      right
      rw [tread_setTread_self, State.offTread, ht]
      rfl
    · rw [tread_setTread_other hx]
      exact h.imp_left fun hm => (List.mem_cons.1 hm).resolve_left hx

/-- A fenced tread of a flight that goes OFF reads FENCED. -/
theorem flightOff_tread_fenced {t : Nat} {s : State} (ht : s.treadFenced t = true) (hst : (s.tread t).st = .fenced) :
    ((flightOff (treadGf t) s).tread t).st = .fenced := by
  have hlisted : ∃ e ∈ s.treads, e.1 = t := by
    by_contra hn
    have hinit : s.tread t = Tread.init := tget_unlisted fun e he he' => hn ⟨e, he, he'⟩
    rw [hinit] at hst
    cases hst
  obtain ⟨e, he, rfl⟩ := hlisted
  refine foldl_offTread_fenced ht (.inl (List.mem_map_of_mem (List.mem_filter.2 ⟨he, ?_⟩)))
  exact beq_self_eq_true _

theorem fenceFlight_tread_fenced {t : Nat} {inj : Bool} {s : State} (hf : s.flightFenced (treadGf t) = false) (ha : s.det.armed = none)
    (ht : s.treadFenced t = true) (hst : (s.tread t).st = .fenced) : ((fenceFlight (treadGf t) inj s).tread t).st = .fenced := by
  have hkeep : KeepsBut [.rigs, .regs, .out, .ropes, .svcs, .journal] (flightOut (treadGf t) inj s) (fenceFlight (treadGf t) inj s) :=
    fenceFlight_after hf ha
  rw [State.tread, hkeep .treads (by decide)]
  exact flightOff_tread_fenced (s := markFlight (treadGf t) inj s) ht hst

/-- A tread marked while no injection is armed. -/
theorem markTread_unarmed {t : Nat} {inj : Bool} {s : State} (ha : s.det.armed = none) : markTread t inj s =
    State.setTread t { Tread.init with st := .fenced } { s with fence := { s.fence with
      treads := tset 0 s.fence.treads t (1 + b2n inj + 2 * b2n (s.rowFenced (treadGf t) (treadRow t))) } } :=
  endInjectionAt_unarmed (s := State.setTread t { Tread.init with st := .fenced } { s with fence := { s.fence with
    treads := tset 0 s.fence.treads t (1 + b2n inj + 2 * b2n (s.rowFenced (treadGf t) (treadRow t))) } }) ha (treadGf t) (some t)

theorem markTread_keeps {t : Nat} {inj : Bool} {s : State} (ha : s.det.armed = none) : KeepsBut [.fence, .treads] s (markTread t inj s) := by
  rw [markTread_unarmed ha]
  exact ((keepsBut_fence s _).mono (by decide)).trans ((keepsBut_treads _ _).mono (by decide))

theorem markTread_tread {t : Nat} {inj : Bool} {s : State} (ha : s.det.armed = none) :
    ((markTread t inj s).tread t).st = .fenced ∧ TreadsBut [t] s (markTread t inj s) := by
  rw [markTread_unarmed ha]
  exact ⟨by rw [tread_setTread_self], fun x hx => tread_setTread_other (by simpa using hx) _ _⟩

theorem markTread_other {t x : Nat} (hx : x ≠ t) (inj : Bool) (s : State) : (markTread t inj s).treadFenced x = s.treadFenced x :=
  Bool.eq_iff_iff.2 ((markTread_treadFenced t inj s x).trans (or_iff_left hx))

/-- The first fenced tread of a row: what it makes of the row and of its partition's re-rigs. -/
def RowGone (g row col : Nat) (s u : State) : Prop :=
  (col = 16 → u.rowByte g row = 0x5F ∧ ∀ p, (u.rig p).rerigs = (s.rig p).rerigs)
  ∧ (col < 16 → ∀ p role, s.fencePart g = some (p, role) → Queued p (.row g row col) s u)
  ∧ (col < 16 → s.fencePart g = none → s.flightFenced g = false → u.rowByte g row = 0x80 + col)

/-- What the first fence of a row leaves, before its partition rewinds. -/
def rowChanged (g row col : Nat) (s : State) : State :=
  if col = 16 then dropSpare g row s
  else match s.fencePart g with
    | some (p, _) => queueRerig p (.row g row col) s
    | none => shiftRow g row col s

theorem fenceRow_first (t : Nat) (inj : Bool) (s : State) :
    fenceRow t inj false s = afterFence (treadGf t) (rowChanged (treadGf t) (treadRow t) (treadCol t) s) := by
  rw [fenceRow, rowChanged, if_neg Bool.false_ne_true]
  split
  · rfl
  · cases s.fencePart (treadGf t) <;> rfl

theorem rowChanged_keeps (g row col : Nat) (s : State) : KeepsBut [.fence, .rigs] s (rowChanged g row col s) := by
  have hshift : KeepsBut [.fence] s (shiftRow g row col s) := by
    unfold shiftRow
    split
    · exact .refl _ s
    · exact keepsBut_fence s _
  unfold rowChanged
  split
  · exact (keepsBut_fence s _).mono (by decide)
  · split
    · exact (queueRerig_keeps _ _ s).mono (by decide)
    · exact hshift.mono (by decide)

/-- A row changed leaves the fenced treads and flights. -/
theorem rowChanged_fence (g row col : Nat) (s : State) :
    (rowChanged g row col s).fence.treads = s.fence.treads ∧ (rowChanged g row col s).fence.flights = s.fence.flights := by
  unfold rowChanged
  split
  · exact ⟨rfl, rfl⟩
  · split
    next p _ _ =>
      have hfence := (queueRerig_keeps p (.row g row col) s).fence (by decide)
      exact ⟨congrArg Fence.treads hfence, congrArg Fence.flights hfence⟩
    next =>
      unfold shiftRow
      split <;> exact ⟨rfl, rfl⟩

theorem rowChanged_sameJobs (g row col : Nat) (s : State) : SameJobs s (rowChanged g row col s) := by
  have hfence : ∀ x : Fence, SameJobs s { s with fence := x } := fun x => sameJobs_of_keeps (keepsBut_fence s x) (by decide)
  unfold rowChanged
  split
  · exact hfence _
  · split
    · exact queueRerig_sameJobs _ _ s
    · unfold shiftRow
      split
      · exact sameJobs_of_keeps (.refl [] s) (by decide)
      · exact hfence _

theorem afterFence_fence (gf : Nat) (s : State) : (afterFence gf s).fence = s.fence := (afterFence_keeps gf s).fence (by decide)

theorem afterFence_rowByte (gf g row : Nat) (s : State) : (afterFence gf s).rowByte g row = s.rowByte g row := by
  rw [State.rowByte, afterFence_fence]
  rfl

theorem rowChanged_gone (g row col : Nat) (s : State) : RowGone g row col s (afterFence g (rowChanged g row col s)) := by
  refine ⟨fun hc => ⟨?_, fun p => ?_⟩, fun hc p role hp => ?_, fun hc hp hf => ?_⟩
  · rw [afterFence_rowByte, rowChanged, if_pos hc, dropSpare, State.rowByte, tget_tset_self]
  · rw [afterFence_rerigs, rowChanged, if_pos hc]
    rfl
  · have hqueue : rowChanged g row col s = queueRerig p (.row g row col) s := by simp only [rowChanged, if_neg hc.ne, hp]
    rw [hqueue]
    exact (queueRerig_queued p _ s).of_rerigs rfl (afterFence_rerigs _ _ p)
  · have hshift : rowChanged g row col s = shiftRow g row col s := by simp only [rowChanged, if_neg hc.ne, hp]
    rw [afterFence_rowByte, hshift, shiftRow, if_neg (by simp [hf]), State.rowByte, tget_tset_self]

theorem RowGone.of_start {g row col : Nat} {s t u : State} (h : RowGone g row col t u) (hjobs : SameJobs s t) (hrigs : t.rigs = s.rigs)
    (hflights : t.fence.flights = s.fence.flights) : RowGone g row col s u := by
  obtain ⟨hspare, hqueue, hshift⟩ := h
  have hrig : ∀ p, t.rig p = s.rig p := fun p => by rw [State.rig, hrigs]; rfl
  refine ⟨fun hc => ⟨(hspare hc).1, fun p => ((hspare hc).2 p).trans (by rw [hrig])⟩,
    fun hc p role hp => (hqueue hc p role ((hjobs.fencePart g).trans hp)).of_rerigs (hrig p) rfl,
    fun hc hp hf => hshift hc ((hjobs.fencePart g).trans hp) ?_⟩
  rw [State.flightFenced, hflights]
  exact hf

/-- Whether a row has a fenced tread, as the statement of R146 has it. -/
def RowFenced (g row : Nat) (s : State) : Prop := ∃ c, c < 17 ∧ s.treadFenced (treadId g row c) = true

/-- A tread has been fenced. -/
def TreadGone (t : Nat) (s u : State) : Prop :=
  u.treadFenced t = true ∧ (∀ x, x ≠ t → u.treadFenced x = s.treadFenced x) ∧ (u.tread t).st = .fenced
  ∧ (¬RowFenced (treadGf t) (treadRow t) s → u.fence.flights = s.fence.flights ∧ TreadsBut [t] s u
    ∧ FenceRewinds (treadGf t) s u ∧ RowGone (treadGf t) (treadRow t) (treadCol t) s u)
  ∧ (RowFenced (treadGf t) (treadRow t) s → s.flightFenced (treadGf t) = false → FlightGone (treadGf t) s u)

/-- What a fence's effect is measured from is the same. -/
structure SameStart (s t : State) : Prop where
  jobs : SameJobs s t
  flights : t.flights = s.flights
  rigs : t.rigs = s.rigs
  fence : t.fence = s.fence
  treads : t.treads = s.treads

theorem SameStart.flightGone {f : Nat} {s t u : State} (h : SameStart s t) (hu : FlightGone f t u) : FlightGone f s u :=
  hu.of_start h.jobs h.flights h.rigs (flightFenced_congr h.fence)

theorem SameStart.treadGone {x : Nat} {s t u : State} (h : SameStart s t) (hu : TreadGone x t u) : TreadGone x s u := by
  obtain ⟨hself, hothers, hst, hfirst, hsecond⟩ := hu
  have hrow : ∀ g row, RowFenced g row t ↔ RowFenced g row s := fun g row => by
    simp only [RowFenced, treadFenced_congr h.fence]
  refine ⟨hself, fun y hy => (hothers y hy).trans (treadFenced_congr h.fence y), hst, fun hn => ?_, fun hp hf => ?_⟩
  · obtain ⟨hflights, hbut, hrewind, hgone⟩ := hfirst (mt (hrow _ _).1 hn)
    have htread : ∀ y, t.tread y = s.tread y := fun y => by rw [State.tread, h.treads]; rfl
    exact ⟨hflights.trans (by rw [h.fence]), fun y hy => (hbut y hy).trans (htread y), h.jobs.rewinds hrewind,
      hgone.of_start h.jobs h.rigs (by rw [h.fence])⟩
  · exact h.flightGone (hsecond ((hrow _ _).2 hp) ((flightFenced_congr h.fence _).trans hf))

theorem markTread_sameJobs {t : Nat} {inj : Bool} {s : State} (ha : s.det.armed = none) : SameJobs s (markTread t inj s) :=
  sameJobs_of_keeps (markTread_keeps ha) (by decide)

theorem afterFence_tread (gf t : Nat) (s : State) : (afterFence gf s).tread t = s.tread t := by
  rw [State.tread, afterFence_keeps gf s .treads (by decide)]
  rfl

theorem rowChanged_tread (g row col t : Nat) (s : State) : (rowChanged g row col s).tread t = s.tread t := by
  rw [State.tread, rowChanged_keeps g row col s .treads (by decide)]
  rfl

/-- A first fence of a row leaves the treads and the flights that are fenced. -/
theorem fenceRow_first_fence (t : Nat) (inj : Bool) (s : State) :
    (fenceRow t inj false s).fence.treads = s.fence.treads ∧ (fenceRow t inj false s).fence.flights = s.fence.flights := by
  rw [fenceRow_first, afterFence_fence]
  exact rowChanged_fence _ _ _ s

theorem fenceRow_first_tread (t x : Nat) (inj : Bool) (s : State) : (fenceRow t inj false s).tread x = s.tread x := by
  rw [fenceRow_first, afterFence_tread, rowChanged_tread]

theorem fenceRow_second (t : Nat) (inj : Bool) (s : State) : fenceRow t inj true s =
    if s.flightFenced (treadGf t) then afterFence (treadGf t) s else fenceFlight (treadGf t) inj s := rfl

theorem fenceRow_treadFenced (t x : Nat) (inj prior : Bool) (s : State) : (fenceRow t inj prior s).treadFenced x = s.treadFenced x := by
  cases prior with
  | false =>
    rw [State.treadFenced, (fenceRow_first_fence t inj s).1]
    rfl
  | true =>
    rw [fenceRow_second]
    split
    · exact treadFenced_congr (afterFence_fence _ s) x
    · exact fenceFlight_treadFenced _ inj s x

theorem fenceRow_tread_fenced {t : Nat} {inj prior : Bool} {s : State} (ha : s.det.armed = none) (ht : s.treadFenced t = true)
    (hst : (s.tread t).st = .fenced) : ((fenceRow t inj prior s).tread t).st = .fenced := by
  cases prior with
  | false => rwa [fenceRow_first_tread]
  | true =>
    rw [fenceRow_second]
    split
    next => rwa [afterFence_tread]
    next hf => exact fenceFlight_tread_fenced (by simpa using hf) ha ht hst

theorem fenceRow_keeps {t : Nat} {inj prior : Bool} {s : State} (ha : s.det.armed = none) :
    KeepsBut [.fence, .regs, .power, .treads, .flights, .rigs, .out, .ropes, .svcs, .journal] s (fenceRow t inj prior s) := by
  cases prior with
  | false =>
    rw [fenceRow_first]
    exact ((rowChanged_keeps _ _ _ s).mono (by decide)).trans ((afterFence_keeps _ _).mono (by decide))
  | true =>
    rw [fenceRow_second]
    split
    next => exact (afterFence_keeps _ s).mono (by decide)
    next hf => exact fenceFlight_keeps_unarmed (by simpa using hf) ha

theorem fenceTread_keeps_unarmed {t : Nat} {inj : Bool} {s : State} (hf : s.treadFenced t = false) (ha : s.det.armed = none) :
    KeepsBut [.fence, .regs, .power, .treads, .flights, .rigs, .out, .ropes, .svcs, .journal] s (fenceTread t inj s) := by
  have hmark : KeepsBut [.fence, .treads] s (markTread t inj s) := markTread_keeps ha
  rw [fenceTread_eq, if_neg (by simp [hf])]
  refine (hmark.mono (by decide)).trans (fenceRow_keeps ?_)
  rw [hmark .det (by decide)]
  exact ha

theorem fenceTread_gone {t : Nat} {inj : Bool} {s : State} (ht : treadOk t = true) (hf : s.treadFenced t = false)
    (ha : s.det.armed = none) : TreadGone t s (fenceTread t inj s) := by
  have hmark : KeepsBut [.fence, .treads] s (markTread t inj s) := markTread_keeps ha
  obtain ⟨hst, hothers⟩ := markTread_tread (t := t) (inj := inj) ha
  have hmarked : (markTread t inj s).treadFenced t = true := (markTread_treadFenced t inj s t).2 (.inr rfl)
  have ha' : (markTread t inj s).det.armed = none := by rw [hmark .det (by decide)]; exact ha
  have hflights : (markTread t inj s).fence.flights = s.fence.flights := by rw [markTread_fence]
  have hfenced : ∀ g, (markTread t inj s).flightFenced g = s.flightFenced g := fun g => by
    rw [State.flightFenced, hflights]
    rfl
  have hrigs := hmark .rigs (by decide)
  have hjobs : SameJobs s (markTread t inj s) := markTread_sameJobs ha
  rw [fenceTread_eq, if_neg (by simp [hf])]
  refine ⟨(fenceRow_treadFenced ..).trans hmarked, fun x hx => (fenceRow_treadFenced ..).trans (markTread_other hx inj s),
    fenceRow_tread_fenced ha' hmarked hst, fun hn => ?_, fun hp hff => ?_⟩
  · have hprior : s.rowFenced (treadGf t) (treadRow t) = false := Bool.eq_false_iff.2 (mt (rowFenced_iff _ _ s).1 hn)
    rw [hprior]
    refine ⟨(fenceRow_first_fence t inj _).2.trans hflights, fun x hx => (fenceRow_first_tread ..).trans (hothers x hx), ?_, ?_⟩
    · rw [fenceRow_first]
      exact (hjobs.trans (rowChanged_sameJobs _ _ _ _)).rewinds (afterFence_fenceRewinds _ _)
    · rw [fenceRow_first]
      exact (rowChanged_gone _ _ _ _).of_start hjobs hrigs hflights
  · have hsecond : fenceRow t inj true (markTread t inj s) = fenceFlight (treadGf t) inj (markTread t inj s) := by
      rw [fenceRow_second, if_neg (by simp [hfenced, hff])]
    rw [(rowFenced_iff _ _ s).2 hp, hsecond]
    exact (fenceFlight_gone (treadGf_lt ht) ((hfenced _).trans hff) ha').of_start hjobs (hmark .flights (by decide)) hrigs hfenced

/-! ## The detectors (15 R513) -/

theorem raise_armed (code : Nat) (st : Stamp) (body : List Nat) (s : State) : (raise code st body s).det.armed = s.det.armed := by
  have hqueue : ∀ (f : Nat) (r : EvRec) (u : State), (queueRecord f r u).det = u.det := fun f r u =>
    queueRecord_frame (φ := State.det) (fun _ _ => rfl) (fun _ _ => rfl) f r u
  rw [raise_eq]
  dsimp only
  split
  · rw [hqueue]
    rfl
  · split
    · rw [hqueue]
      rfl
    · rw [hqueue, hqueue]
      rfl

theorem raise_sameStart (code : Nat) (st : Stamp) (body : List Nat) (s : State) : SameStart s (raise code st body s) :=
  have hkeep := raise_keeps code st body s
  ⟨raise_sameJobs code st body s, hkeep .flights (by decide), hkeep .rigs (by decide), hkeep .fence (by decide),
    hkeep .treads (by decide)⟩

/-- A detector's event without an injection. -/
theorem detect_uninjected {s : State} (h : Uninjected s) (point target addr gf code : Nat) (body : List Nat) :
    detect point target addr gf code body s = (false, raise code (s.faultStamp gf) body s) := by
  have hno : s.injected point target = false := by rw [State.injected, h]
  simp only [detect, hno, Bool.false_and]
  rfl

/-- What a detector of a tread does to a tread that is not fenced. -/
def treadDetected (t code : Nat) (body : List Nat) (s : State) : State := fenceTread t false (raise code (s.faultStamp (treadGf t)) body s)

/-- What a detector of a flight does to a flight that is not fenced. -/
def flightDetected (gf code : Nat) (body : List Nat) (s : State) : State := fenceFlight gf false (raise code (s.faultStamp gf) body s)

section
variable {code : Nat} {body : List Nat} {s : State} (hu : Uninjected s)
include hu

theorem treadDetected_gone {t : Nat} (ht : treadOk t = true) (hf : s.treadFenced t = false) :
    Recorded code body (treadDetected t code body s) ∧ TreadGone t s (treadDetected t code body s)
    ∧ (treadDetected t code body s).pending = s.pending := by
  have hstart := raise_sameStart code (s.faultStamp (treadGf t)) body s
  have hf' := (treadFenced_congr hstart.fence t).trans hf
  have ha := (raise_armed code (s.faultStamp (treadGf t)) body s).trans hu
  have hkeep := fenceTread_keeps_unarmed (inj := false) hf' ha
  exact ⟨hkeep.recorded (by decide) (recorded_raise ..), hstart.treadGone (fenceTread_gone ht hf' ha),
    (hkeep .pending (by decide)).trans (raise_keeps _ _ _ s .pending (by decide))⟩

theorem flightDetected_gone {gf : Nat} (hgf : gf < 1184) (hf : s.flightFenced gf = false) :
    Recorded code body (flightDetected gf code body s) ∧ FlightGone gf s (flightDetected gf code body s)
    ∧ (flightDetected gf code body s).pending = s.pending := by
  have hstart := raise_sameStart code (s.faultStamp gf) body s
  have hf' := (flightFenced_congr hstart.fence gf).trans hf
  have ha := (raise_armed code (s.faultStamp gf) body s).trans hu
  have hkeep := fenceFlight_keeps_unarmed (inj := false) hf' ha
  exact ⟨hkeep.recorded (by decide) (recorded_raise ..), hstart.flightGone (fenceFlight_gone hgf hf' ha),
    (hkeep .pending (by decide)).trans (raise_keeps _ _ _ s .pending (by decide))⟩

end

/-- The effect of a detector of a tread. -/
def treadDetector (point addr t code : Nat) (body : List Nat) (s : State) : State :=
  if s.treadFenced t then s
  else
    let (inj, s) := detect point t addr (treadGf t) code body s
    fenceTread t inj s

/-- The effect of a detector of a flight. -/
def flightDetector (point addr gf code : Nat) (body : List Nat) (s : State) : State :=
  if s.flightFenced gf then s
  else
    let (inj, s) := detect point gf addr gf code body s
    fenceFlight gf inj s

theorem treadDetector_eq {s : State} (hu : Uninjected s) {t : Nat} (hf : s.treadFenced t = false) (point addr code : Nat) (body : List Nat) :
    treadDetector point addr t code body s = treadDetected t code body s := by
  rw [treadDetector, if_neg (by simp [hf]), detect_uninjected hu]
  rfl

theorem flightDetector_eq {s : State} (hu : Uninjected s) {gf : Nat} (hf : s.flightFenced gf = false) (point addr code : Nat)
    (body : List Nat) : flightDetector point addr gf code body s = flightDetected gf code body s := by
  rw [flightDetector, if_neg (by simp [hf]), detect_uninjected hu]
  rfl

theorem noOut_sameStart (s : State) : SameStart s { s with out := [] } :=
  ⟨sameJobs_of_keeps (keepsBut_out s []) (by decide), rfl, rfl, rfl, rfl⟩

section
variable {c : Instr} {point addr code : Nat} {body : List Nat} {s : State}

theorem treadDetector_gives {t : Nat} (hc : exec c s = perform true (treadDetector point addr t code body) s) (hu : Uninjected s)
    (ht : treadOk t = true) (hf : s.treadFenced t = false) : Gives c s fun u => Recorded code body u ∧ TreadGone t s u := by
  obtain ⟨hrec, hgone, hpend⟩ := treadDetected_gone (code := code) (body := body) (s := { s with out := [] }) hu ht hf
  have heffect : treadDetector point addr t code body { s with out := [] } = treadDetected t code body { s with out := [] } :=
    treadDetector_eq (s := { s with out := [] }) hu hf point addr code body
  exact gives_value hc heffect hpend ⟨hrec, (noOut_sameStart s).treadGone hgone⟩

theorem flightDetector_gives {gf : Nat} (hc : exec c s = perform true (flightDetector point addr gf code body) s) (hu : Uninjected s)
    (hgf : gf < 1184) (hf : s.flightFenced gf = false) : Gives c s fun u => Recorded code body u ∧ FlightGone gf s u := by
  obtain ⟨hrec, hgone, hpend⟩ := flightDetected_gone (code := code) (body := body) (s := { s with out := [] }) hu hgf hf
  have heffect : flightDetector point addr gf code body { s with out := [] } = flightDetected gf code body { s with out := [] } :=
    flightDetector_eq (s := { s with out := [] }) hu hf point addr code body
  exact gives_value hc heffect hpend ⟨hrec, (noOut_sameStart s).flightGone hgone⟩

theorem treadDetector_still {t : Nat} (hc : exec c s = perform true (treadDetector point addr t code body) s) (hf : s.treadFenced t = true) :
    Gives c s (KeepsBut [.out] s) := gives_still hc (if_pos hf)

theorem flightDetector_still {gf : Nat} (hc : exec c s = perform true (flightDetector point addr gf code body) s)
    (hf : s.flightFenced gf = true) : Gives c s (KeepsBut [.out] s) := gives_still hc (if_pos hf)

end

theorem exec_macResidue {t : Nat} (ht : treadOk t = true) (s : State) :
    exec (.macResidue t) s = perform true (treadDetector 1 0 t Ev.macResidue [t]) s := by
  show execMacResidue t s = _
  exact perform_eq_of_effect ht rfl

/-- The address of a word of a tread's SRAM as a record has it. -/
theorem sramAddr_eq (inst : Bool) {word : Nat} (hw : word < 4096) :
    place (b2n inst) 16 1 + place word 2 12 = (if inst then 0x1_0000 else 0) + 4 * word := by
  have hword : place word 2 12 = 4 * word := by
    rw [place, Nat.mod_eq_of_lt (show word < 2 ^ 12 from hw)]
    omega
  rw [hword]
  cases inst <;> rfl

theorem exec_treadParity {t word : Nat} (ht : treadOk t = true) (hw : word < 4096) (inst : Bool) (s : State) :
    exec (.treadParity t inst word) s = perform true (treadDetector 2 (place (b2n inst) 16 1 + place word 2 12) t Ev.treadParity
      [t, (if inst then 0x1_0000 else 0) + 4 * word]) s := by
  rw [← sramAddr_eq inst hw]
  show execTreadParity t inst word s = _
  exact perform_eq_of_effect (by simp [ht, hw]) rfl

theorem exec_routerParity {gf : Nat} (hgf : gf < 1184) (s : State) :
    exec (.routerParity gf) s = perform true (flightDetector 3 0 gf Ev.routerParity [gf]) s := by
  show execRouterParity gf s = _
  exact perform_eq_of_effect (gfOk_of_lt hgf) rfl

theorem exec_sbParity {gf word : Nat} (hgf : gf < 1184) (hw : word < 32768) (s : State) :
    exec (.sbParity gf word) s = perform true (flightDetector 4 (8 * word) gf Ev.sbParity [gf]) s := by
  show execSbParity gf word s = _
  exact perform_eq_of_effect (by simp [gfOk_of_lt hgf, hw]) rfl

/-- Settles O28: each detector raises its event and fences its unit, whose effect is that of `fenceTread_gone` or `fenceFlight_gone`;
one of a fenced unit changes nothing. -/
theorem faultsFence : Obligations.FaultsFence := fun _ _ _ inst s hu hgf ht =>
  ⟨fun hf => treadDetector_gives (exec_macResidue ht s) hu ht hf,
    fun hf hw => treadDetector_gives (exec_treadParity ht hw inst s) hu ht hf,
    fun hf => flightDetector_gives (exec_routerParity hgf s) hu hgf hf,
    fun hf hw => flightDetector_gives (exec_sbParity hgf hw s) hu hgf hf,
    fun hf => ⟨treadDetector_still (exec_macResidue ht s) hf, fun hw => treadDetector_still (exec_treadParity ht hw inst s) hf⟩,
    fun hf => ⟨flightDetector_still (exec_routerParity hgf s) hf, fun hw => flightDetector_still (exec_sbParity hgf hw s) hf⟩⟩
end Sys2Proof.Machine
end
